-- ==== Sys2Proof/Word.lean ====
section
/-! DEFINITION. The word types of the RW9640: bytes, register words and the wider words that the manual treats as bits. -/

namespace Sys2Proof

/-- A byte of memory or of a frame. -/
abbrev Byte := BitVec 8

/-- A register word (R8). -/
abbrev Word := BitVec 32

/-- A general register of an engine (R255). -/
abbrev DWord := BitVec 64

/-- A 96-bit time word: LC, a T96 or an SN96 (R28, R41). -/
abbrev Time := BitVec 96

/-- A SHA-256 digest or a 256-bit key, byte 0 in bits 7 to 0 (R85). -/
abbrev Digest := BitVec 256

/-- An ECDSA P-256 signature, r then s, or a public key, X then Y, byte 0 in bits 7 to 0 (R72, R85). -/
abbrev Sig := BitVec 512

end Sys2Proof
end

