-- ==== Sys2Proof/Operand.lean ====
section
/-! DEFINITION. The kinds of operand that commands carry: who makes an access, which unit a reset or a gate concerns. -/

namespace Sys2Proof

/-- A master of the register blocks and of the Kennel mailbox (R63, R364, R385). -/
inductive Master where
  /-- host software through PF0 to PF3 -/
  | pf (f : Fin 4)
  /-- engine E0 to E11 -/
  | eng (n : Fin 12)
  /-- Fetch channel F0 to F15 -/
  | fch (c : Fin 16)
  /-- the debug port -/
  | dbg
  /-- Guard, the Kennel or another unit inside the device -/
  | hw
deriving DecidableEq, Repr

/-- The register blocks of R25. -/
inductive Block where
  | clk | pwr | aon | sec | flt | obs | mtx | hst | fch | knl | ref | tim | syn | lsh | gns | prt | lch | srv | adr | eng | pck | brc
deriving DecidableEq, Repr

/-- What a Block reset can name (R12, R407, R453): a region, an engine or a register block. -/
inductive ResetUnit where
  | kennel
  | core
  | pg (g : Fin 8)
  | gnss
  | host
  | engine (n : Fin 12)
  | block (b : Block)
deriving DecidableEq, Repr

/-- What the Scout measured of one satellite in a second (R155): its channel, pseudorange and 1σ in ps, and C/N0 in 0.1 dB-Hz. -/
structure SatObs where
  ch : Fin 24
  range : Int
  sigma : Nat
  cn0 : Nat
deriving DecidableEq, Repr

/-- What the Scout's estimator found beside the clock offset (R156, R157): frequency in 10⁻¹⁵, the 6σ bounds in ps of the clock offset and of
the atmospheric residual and, while it surveys, a position solution in mm with the survey's 6σ bound on the position. -/
structure Solution where
  freq : Int
  measPs : Nat
  pathPs : Nat
  pos : Option (Int × Int × Int)
  surveyMm : Nat
deriving DecidableEq, Repr

/-- A chain of TESLA keys (R153): its hash and MAC functions, the bytes of a key and the bits of a tag, the chain's α, and a verified key with
the GST of its subframe. -/
structure Tesla where
  hf : Nat
  mf : Nat
  keyLen : Nat
  tagBits : Nat
  alpha : List Byte
  gst : Nat
  key : List Byte
deriving DecidableEq, Repr

/-- A tag (R153): its ADKD, the satellite whose data it covers, the issue of that data, GST of its subframe, counter and status of the message,
the data's bits as a number, and the tag. -/
structure OsnmaTag where
  adkd : Nat
  prnd : Nat
  iod : Nat
  gst : Nat
  ctr : Nat
  nmas : Nat
  nav : Nat
  tag : Nat
deriving DecidableEq, Repr

/-- What an OSNMA message says (R153, R154): a public key with its path to the Merkle root, a signed root key of a chain, a disclosed key, a
tag, or a revocation or renewal that the present root cannot verify. -/
inductive OsnmaMsg where
  | pkr (npkt npkid mid : Nat) (key : List Byte) (path : List (List Byte))
  | kroot (pkid : Nat) (chain : Tesla) (signed sig : List Byte)
  | key (gst : Nat) (k : List Byte)
  | tag (t : OsnmaTag)
  | renewal
deriving DecidableEq, Repr

/-- Which queue of a port a launch takes its frame from (R184, R190, R325): the timed queue, the immediate queue, the Pack slot, or the
place of a PRP supervision frame. -/
inductive LaunchQueue where
  | timed
  | immediate
  | pack
  | supervision
deriving DecidableEq, Repr

/-- Where PCK takes a received frame from: off a Pack link, with what its timestamp unit captured (R338), or from the frames that the
parsers of the ports have delivered (R325). -/
inductive PackSrc where
  | link (l : Fin 4) (bytes : List Byte) (phase : BitVec 16) (bitIdx : Byte)
  | queued
deriving DecidableEq, Repr

/-- What an AES3 input decoder reports of a frame (R358): its preamble, if one came: whether it is Z and the LC of it; the two
subframes with sample in [31:8], V [0], U [1], C [2], P [3]; and whether a biphase code was wrong. -/
structure AesFrame where
  preamble : Option (Bool × BitVec 96)
  a : Word
  b : Word
  codeErr : Bool
deriving DecidableEq, Repr

/-- What came back for a read request of a Fetch channel (R374, R378): data, a completion with UR or CA status or poisoned. -/
inductive HostData where
  | data (bytes : List Byte)
  | error
deriving DecidableEq, Repr

/-- What the firmware of an upstream session does next (R223): it takes the message at the head of its engine's queue, asks its master for grants
of a duration and a logInterMessagePeriod, or sends a Delay_Req; what it sends goes over a header from a buffer. -/
inductive UpAct where
  | take
  | ask (hdr : List Byte) (buf : BitVec 32) (dur : BitVec 32) (log : Byte)
  | delayReq (hdr : List Byte) (buf : BitVec 32)
deriving DecidableEq, Repr

end Sys2Proof
end

