-- ==== Sys2Proof/Syntax.lean ====
section
/-! DEFINITION. The commands of the block: one constructor per row of the table of operations and events. The operands are the
model's (the table gives none): the unit a command concerns, what a bus access carries, and what the world outside the
block brings (an edge, a frame, a measured value, a sensor reading). Log entry 2. -/

namespace Sys2Proof

/-- A command. -/
inductive Instr where
  /-- COLD_RESET (R12). Power applied from OFF resets the whole device including the always-on region. -/
  | coldReset (kspiQuad laneRev : Bool)
  /-- CHIP_RESET (R12). A Chip reset resets every region except AON and the Kennel retention store. -/
  | chipReset (cause : BitVec 3)
  /-- BLOCK_RESET (R12). A Block reset resets one block or region and leaves all others. -/
  | blockReset (u : ResetUnit)
  /-- ENGINE_RESET (R12). An Engine reset resets one engine's pipeline, registers, flags, PC and ticket queue. -/
  | engineReset (n : Fin 12) (beats : Option Nat)
  /-- POWER_OFF (R413). VDD_AON falling below its threshold takes the device to OFF. -/
  | powerOff
  /-- REGISTER_WRITE (R11). A write to a register field without behaviour of its own sets the field as its access type gives. -/
  | registerWrite (m : Master) (addr : Nat) (v : Word)
  /-- MULTIWORD_LATCH_READ (R9). A read of the lowest word of a multi-word value latches all its words in the same cycle. -/
  | multiwordLatchRead (m : Master) (addr : Nat)
  /-- REGISTER_BAD_ACCESS (R8). A non-aligned or non-32-bit access to a register block completes with an error response and no effect. -/
  | registerBadAccess (m : Master) (addr : Nat) (write : Bool)
  /-- HOST_UNMAPPED_ACCESS (R26). A host access to an unmapped BAR0 address completes with Completer Abort or is discarded and raises HOST_UNMAPPED. -/
  | hostUnmappedAccess (f : Fin 4) (addr : Nat) (write : Bool)
  /-- HOST_RO_WRITE (R364). A write through PF1 to PF3 to a field seen as read-only is discarded, counted and raises a fault. -/
  | hostRoWrite (f : Fin 4) (addr : Nat) (v : Word)
  /-- BAR4_ACCESS (R365). A host access through BAR4 reads or writes shared SRAM at the matching matrix address. -/
  | bar4Access (f : Fin 4) (off len : Nat) (write : Option (List Byte))
  /-- KPLL_FIRST_LOCK (R31). KPLL first reports lock after a Cold or Chip reset, clearing LC and entering SN_BOOT. -/
  | kpllFirstLock (edges : BitVec 4)
  /-- UPDATE_EFFECTIVE_TICK (R36). An accepted correction-set update takes effect 256 ticks after acceptance and forms the new set in one tick. -/
  | updateEffectiveTick
  /-- END_OF_SLEW_UPDATE (R39). When the accumulated slew reaches PHASE the time-bus source applies an end-of-slew update. -/
  | endOfSlewUpdate
  /-- STEP_SN_EFFECT (R40). In SN_RECOVERY or SN_TEST an accepted step is added to the SN count at its effective tick. -/
  | stepSnEffect
  /-- HANDOVER_TICK (R51). At tick H a change of time source takes effect, forming the new set or seeding the SN count. -/
  | handoverTick
  /-- CSET_ECC_ERROR (R54). An uncorrectable error in a correction-set copy is found on a tick and handled by state. -/
  | csetEccError (badA badB : Bool)
  /-- SN_LOAD_WRITE (R51). A write of KNL_SN_LOAD3 requests an SN load in SN_BOOT or is refused with SN_LOAD_REFUSED. -/
  | snLoadWrite (m : Master) (v : Word)
  /-- SN_LOAD_EFFECT (R51). 256 ticks after an accepted SN load the SN count takes the loaded value. -/
  | snLoadEffect
  /-- TBUS_FULL_WORD_CHECK (R56). Every 1,024 ticks each reader checks its replica against the full word and reloads it on mismatch. -/
  | tbusFullWordCheck (reader : Fin 11) (upset : Int)
  /-- BOUNDARY_EVENT (R512). A tick whose RT or SN seconds exceed those of the previous tick performs the boundary actions. -/
  | boundaryEvent
  /-- LEAP_FLAG_SET (R48). The PTP leap flag is set 12 hours before, and the NTP indicator at the start of, the leap day. -/
  | leapFlagSet
  /-- LEAP_SECOND_EVENT (R48). At the end of a leap second the UTC offset changes by one second and LEAP_DONE is set. -/
  | leapSecondEvent
  /-- KENNEL_BOOT (R60). After a Cold or Chip reset the Kennel loads and measures the K-engine image and starts K0 and K1 if it matches. -/
  | kennelBoot
  /-- MBX_CLAIM (R63). A read of KNL_MBX_CLAIM claims the lowest FREE buffer for the reader or returns 0xF. -/
  | mbxClaim (m : Master)
  /-- MBX_GO_WRITE (R63). A write of KNL_MBX_GO by the claimant queues a CLAIMED buffer. -/
  | mbxGoWrite (m : Master) (v : Word)
  /-- MBX_REL_WRITE (R63). A write of KNL_MBX_REL by the claimant frees a DONE buffer. -/
  | mbxRelWrite (m : Master) (v : Word)
  /-- CLAIM_EXPIRY (R62). A buffer CLAIMED for 100 ms returns to FREE and CLAIM_EXPIRED increments. -/
  | claimExpiry (b : Fin 4)
  /-- DONE_EXPIRY (R62). A buffer left DONE for 1 s returns to FREE. -/
  | doneExpiry (b : Fin 4)
  /-- AUTH_LOCK_EXPIRY (R66). Ten seconds after an authentication flood the mailbox again accepts authenticated commands. -/
  | authLockExpiry
  /-- STATUS (R68). STATUS returns KNL_SEAL_STAT, KNL_SEAL_CNT and the low word of KNL_MBX_CMD_CNT. -/
  | mbxStatus
  /-- STAGE (R67). STAGE writes payload bytes into the KSPI staging area at the given offset. -/
  | mbxStage (kspiOk : Bool)
  /-- CHALLENGE (R68). CHALLENGE returns an attestation signature over the nonce and seal state. -/
  | mbxChallenge
  /-- SET_PARAM (R70). SET_PARAM changes sealed-store words, increments the seal counter and writes an audit record before the bank switch. -/
  | mbxSetParam (kspiOk : Bool)
  /-- SET_LATENCY (R172). SET_LATENCY changes one latency or crossing table block through the sealed-store procedure. -/
  | mbxSetLatency (kspiOk : Bool)
  /-- COMMIT_FW (R82). COMMIT_FW writes the staged image to the inactive bank and starts a firmware trial on the standby engine. -/
  | mbxCommitFw (kspiOk : Bool)
  /-- COMMIT_PARAM (R70). COMMIT_PARAM commits a staged parameter image through the sealed-store procedure. -/
  | mbxCommitParam (kspiOk : Bool)
  /-- SEAL (R84). SEAL checks the digests, increments the counter, burns a fuse, writes the seal record and sets SEALED. -/
  | mbxSeal
  /-- UNSEAL (R84). UNSEAL moves SEALED to SERVICE and increments the seal counter. -/
  | mbxUnseal
  /-- STEP (R40). An authenticated step order is checked and accepted for application 256 ticks later. -/
  | mbxStep
  /-- UTC (R47). A UTC command supplies or overrides the UTC offset and leap announcement. -/
  | mbxUtc
  /-- TEST_MODE (R51). TEST_MODE with value 1 arms the move into SN_TEST and with value 0 asks the lead to return to LC. -/
  | mbxTestMode
  /-- KPAIR_SELECT (R80). KPAIR_SELECT names the engine whose state both continue from while the pair is frozen. -/
  | mbxKpairSelect
  /-- AUDIT_ACK_WRITE (R74). A write of KNL_AUDIT_ACK marks records exported and may clear AUDIT_FULL. -/
  | auditAckWrite (m : Master) (v : Word)
  /-- DIGEST (R302). DIGEST writes the 32-byte digest that closes a second for the K-pair comparison. -/
  | digest (n : Fin 12) (a b : BitVec 5)
  /-- KPAIR_COMPARE (R78). The Kennel compares the two digests when both are in or at 100 ms after the boundary. -/
  | kpairCompare
  /-- KPAIR_RECOMPUTE_END (R79). At recomputed agreement or 500 ms the Kennel releases updates, continues or freezes the pair. -/
  | kpairRecomputeEnd
  /-- KPAIR_KAT_RESULT (R80). The known-answer results of a frozen pair decide a lead change and engine restoration. -/
  | kpairKatResult (ran0 pass0 ran1 pass1 : Bool)
  /-- FW_TRIAL_END (R82). At the end of TRIAL_TIME a passing new engine becomes lead and the active bank pointer moves. -/
  | fwTrialEnd (katPass : Bool)
  /-- REF_EDGE (R89). Scent checks an edge of REF0 to REF7 or an AES strobe against its window and classes it. -/
  | refEdge (id : Fin 23) (lc : Time) (width : Nat)
  /-- MEAS_INLET_RECORD (R18). The Kennel takes a record from the measurement inlet queue into Scent and the input log. -/
  | measInletRecord
  /-- REF_LOSS_TIMEOUT (R88). Four expected periods without an edge or record make a reference ABSENT and raise REF_LOST. -/
  | refLossTimeout (id : Fin 23)
  /-- OSC_EDGE_SEEN (R102). Edges seen on an enabled absent oscillator move it into WARMUP. -/
  | oscEdgeSeen (k : Fin 4) (lc : Time)
  /-- OSC_LOSS_TIMEOUT (R102). Four expected periods without edges make an oscillator ABSENT. -/
  | oscLossTimeout (k : Fin 4)
  /-- OSC_WARMUP_END (R102). At the end of WARMUP an oscillator within OSC_REJECT becomes MEMBER. -/
  | oscWarmupEnd (k : Fin 4)
  /-- OSC_EXCLUDE_END (R102). Sixty seconds after exclusion an oscillator returns to WARMUP. -/
  | oscExcludeEnd (k : Fin 4)
  /-- TEMP_STALE_TIMEOUT (R109). OSC_TEMP not written for 5 s makes the Kennel use the region sensor and raise TEMP_STALE. -/
  | tempStaleTimeout (k : Fin 4)
  /-- SERVO_UPDATE (R107). While ACQUIRING or LOCKED the lead issues one weighted firmware update per second. -/
  | servoUpdate (residPs : Nat) (bounds : List Nat) (est : List (Nat × Nat))
  /-- HOLDOVER_UPDATE (R110). In HOLDOVER the lead issues one predicted FREQ update per second. -/
  | holdoverUpdate
  /-- ENS_Y_BOOTSTRAP (R485). Before the first qualified reference the lead takes REF_ENS_Y from a fresh Bone or the best time reference. -/
  | ensYBootstrap
  /-- BOOT_SN_ALIGN (R486). In SN_BOOT the lead loads the SN count from the selected reference and requests the handover. -/
  | bootSnAlign
  /-- BOOT_WAIT_EXPIRY (R488). If no time reference qualifies within BOOT_WAIT the lead hands over with FREQ only. -/
  | bootWaitExpiry
  /-- TDC_EDGE (R123). A selected edge is converted by the interpolator and forms a 32-byte record. -/
  | tdcEdge (src : Fin 32) (falling : Bool) (width : Nat) (codes : List Nat)
  /-- TDC_RECORD_ADMIT (R121). The input-log write port admits the head record of a channel queue. -/
  | tdcRecordAdmit
  /-- INTERP_ROLE_SWAP (R122). Every 65,536 ticks the two interpolators of a channel exchange MEASURE and CAL roles. -/
  | interpRoleSwap (c : Fin 16)
  /-- RANDOM_EDGE (R127). A random source edge is offered to every idle CAL interpolator as a calibration hit. -/
  | randomEdge (codes : List Nat)
  /-- CAL_TABLE_COMPLETE (R130). A histogram of 1,048,576 hits forms a candidate table that is accepted or rejected. -/
  | calTableComplete (c : Fin 16) (ib : Bool)
  /-- TB_PRESENCE_LOSS (R125). Sixteen ring-oscillator periods without a tick edge make the time base ABSENT. -/
  | tbPresenceLoss
  /-- TB_FREQ_WINDOW (R125). Each 4,096 XTAL periods the tick count is checked and a frequency fault declared if it is off. -/
  | tbFreqWindow (count : Nat)
  /-- TB_REBUILD_START (R126). After 1 ms of passing checks the time base enters REBUILD. -/
  | tbRebuildStart
  /-- RNG_RATE_CHECK (R132). Each second the random edge rate is measured and RNG_FAULT set if outside limits. -/
  | rngRateCheck (rate : Nat)
  /-- RNG_FAULT_PERSIST (R132). A random-source fault lasting 60 s makes every record carry DEGRADED. -/
  | rngFaultPersist
  /-- GSI_CLK_LOSS (R141). GSI_CLK silent for 1 µs or its PLL in bypass clears CLK_OK and discards a running burst. -/
  | gsiClkLoss
  /-- GSI_CLK_RETURN (R141). After 1 ms of clean edges CLK_OK returns. -/
  | gsiClkReturn
  /-- GNSS_MS_STROBE (R139). The synthesis block sends the RT millisecond strobe carrying CSET_VER to GNS. -/
  | gnssMsStrobe
  /-- FE_POWER_UP (R145). GNS raises GSI_EN FE_WARMUP before a burst. -/
  | fePowerUp
  /-- GNSS_REGION_WAKE (R145). GNS asks AON to start the GNSS region 1 ms before a burst. -/
  | gnssRegionWake
  /-- BURST_START (R145). A burst starts on the strobe at BURST_PHASE and latches CSET_VER into START. -/
  | burstStart
  /-- CORRELATOR_DUMP (R142). Every 4 ms primary-code period each correlator dumps into the result memory and AGC adjusts. -/
  | correlatorDump (samples : List Byte)
  /-- BURST_END (R145). After 100 ms the burst ends, GSI_EN falls, END is latched and BURST_DONE wakes the Scout. -/
  | burstEnd
  /-- RES_RELEASE (R145). A write of RES_RELEASE lets GNS request gating of its region. -/
  | resRelease (m : Master)
  /-- SNAP_CAPTURE (R151). In SNAP mode a 20 ms capture goes to a free slot or is skipped. -/
  | snapCapture (samples : List Byte)
  /-- GNS_SNAP_DONE (R152). A write of GNS_SNAP_DONE delivers a host snapshot result and frees the slot. -/
  | gnsSnapDone (m : Master) (v : Word)
  /-- GNS_POS_WRITE (R156). A write of GNS_POS by a master other than the Scout raises GNSS_POS_SET. -/
  | gnsPosWrite (m : Master) (k : Fin 6) (v : Word)
  /-- SCOUT_SOLUTION (R157). The Scout forms a timing solution, applies the spoofing checks and writes one record per second. -/
  | scoutSolution (sats : List SatObs) (sol : Solution)
  /-- OSNMA_VERIFY (R153). The Scout verifies OSNMA keys and tags and marks satellites authenticated. -/
  | osnmaVerify (ch : Fin 24) (m : OsnmaMsg)
  /-- DATA_SESSION (R148). The Scout runs a 60 s CONT data session when one falls due. -/
  | dataSession (heard : List (Fin 24 × Nat × List Byte))
  /-- SURVEY_END (R156). After SURVEY_TIME the Scout writes GNS_POS and GNS_POS_UNC and clears SURVEY. -/
  | surveyEnd
  /-- PORT_CFG_APPLY (R163). A change of ENABLE or MODE takes effect once the frame on the wire has ended. -/
  | portCfgApply (i : Fin 68)
  /-- LINK_SIGNAL_DETECT (R162). Signal detected on a DOWN port moves it to TRAINING. -/
  | linkSignalDetect (i : Fin 68)
  /-- LINK_PCS_LOCK (R162). PCS lock and auto-negotiation completion move a port to SETTLE. -/
  | linkPcsLock (i : Fin 68) (slip : Byte) (an10 : Bool)
  /-- LINK_TRAIN_TIMEOUT (R162). No lock within 500 ms of training returns a port to DOWN. -/
  | linkTrainTimeout (i : Fin 68)
  /-- LINK_SETTLE_DONE (R162). Lane phase settled for 2 ms makes a port UP with TS_READY. -/
  | linkSettleDone (i : Fin 68) (phase : BitVec 16)
  /-- LINK_LOSS (R162). Loss of signal or PCS lock returns a port to DOWN and clears TS_READY. -/
  | linkLoss (i : Fin 68)
  /-- SHIFT_TIMEOUT (R162). No link within 2 s of a speed shift returns the port to DOWN at its configured mode. -/
  | shiftTimeout (p : Fin 64)
  /-- FRAME_RECEIVE (R179). A received frame is timestamped, filtered, classed and delivered or dropped. -/
  | frameReceive (p : Fin 64) (bytes : List Byte) (fcsOk codeErr : Bool) (phase : BitVec 16) (bitIdx : Byte)
  /-- PRP_ENTRY_EXPIRE (R185). A duplicate-window entry expires after FORGET milliseconds. -/
  | prpEntryExpire (j : Fin 32) (src : BitVec 48) (seq : BitVec 16)
  /-- PRP_SUPERVISION (R184). A PRP pair sends a supervision frame every 2 s. -/
  | prpSupervision (j : Fin 32)
  /-- XCOMP_UPDATE (R170). Once per ms a port group measures the crossing and moves XCOMP by at most 0.25 ps. -/
  | xcompUpdate (g : Fin 9) (rtt : BitVec 24)
  /-- REGION_SKEW_CHECK (R171). Every 1 ms a port group checks its voltage, temperature and clock limits. -/
  | regionSkewCheck (g : Fin 8) (temp : List Int) (vdd wordClk : List Nat)
  /-- RECAL_START (R175). At a schedule-cycle boundary with cover a due port enters RECAL and loops back. -/
  | recalStart (i : Fin 68)
  /-- RECAL_END (R177). After two cycles the loop delay is computed and the recalibration accepted or failed. -/
  | recalEnd (i : Fin 68) (sum : Int)
  /-- RECAL_STALE (R178). RECAL_AGE exceeding PORT_RECAL_STALE sets RECAL_STALE and degrades timestamps. -/
  | recalStale (i : Fin 68)
  /-- PAUSE_WATCHDOG (R181). A transmitter paused for PAUSE_MAX resumes and ignores PAUSE for PAUSE_IGNORE. -/
  | pauseWatchdog (p : Fin 64)
  /-- PAUSE_IGNORE_END (R181). At the end of PAUSE_IGNORE the port again honours PAUSE frames. -/
  | pauseIgnoreEnd (p : Fin 64)
  /-- TX_UNDERRUN (R181). A transmit underrun ends the frame with an inverted FCS and raises the start threshold. -/
  | txUnderrun (p : Fin 64)
  /-- SPEED_SHIFT_START (R182). A port whose utilisation conditions hold shifts speed at a schedule-cycle boundary. -/
  | speedShiftStart (p : Fin 64) (util : Nat)
  /-- PRT_CNT_CLR (R187). A write of PRT_CNT_CLR clears every counter of the port. -/
  | prtCntClr (m : Master) (p : Fin 64) (v : Word)
  /-- LCH_HOST_SUBMIT (R190). A write of LCH_HSUB11 submits a host launch descriptor that is accepted or refused. -/
  | lchHostSubmit (m : Master) (v : Word)
  /-- FRAME_READY (R194). A timed frame becomes ready 640 ns after acceptance. -/
  | frameReady (p : Fin 64)
  /-- FRAME_LAUNCH (R194). A ready frame starts on the wire at its departure instant with any one-step insertion. -/
  | frameLaunch (p : Fin 64) (q : LaunchQueue) (phase : BitVec 16) (bitIdx : Byte)
  /-- FRAME_LATE (R194). A timed frame that cannot leave within its window is discarded with status LATE. -/
  | frameLate (p : Fin 64)
  /-- IMMEDIATE_LATE (R197). An immediate frame still unsent 1 s after acceptance is discarded as LATE. -/
  | immediateLate (p : Fin 64)
  /-- FRAME_TX_END (R201). A frame that leaves forms its report into the port report queue or loses it. -/
  | frameTxEnd (p : Fin 64)
  /-- REPORT_MOVE (R203). The report mover writes the head report of a port queue into its submitter's ring. -/
  | reportMove (p : Fin 64)
  /-- SCHEDULE_CYCLE_BOUNDARY (R191). Each RT millisecond a schedule cycle begins and pending masks and steering tables apply. -/
  | scheduleCycleBoundary
  /-- MASK_COMMIT_WRITE (R192). A write of LCH_MASK_COMMIT marks the shadow slot mask pending. -/
  | maskCommitWrite (m : Master) (p : Fin 64) (v : Word)
  /-- STEER_COMMIT_WRITE (R212). A write of SRV_STEER_COMMIT marks the shadow steering table pending. -/
  | steerCommitWrite (m : Master) (v : Word)
  /-- SRV_POOL_RET (R209). A write of SRV_POOL_RET returns a receive buffer to the pool. -/
  | srvPoolRet (m : Master) (v : Word)
  /-- NTS_REQUEST_CHECK (R226). Parser and home unit open the cookie and verify the authenticator before queueing. -/
  | ntsRequestCheck (u : Fin 8)
  /-- LOOKUP (R214). The lookup assist compares FP and KIND with the four records of the bucket. -/
  | assistLookup
  /-- INSERT (R214). The lookup assist inserts a record or returns EXISTS or FULL. -/
  | assistInsert
  /-- DELETE (R214). The lookup assist frees a client record. -/
  | assistDelete
  /-- PIN (R214). Host software inserts a record with PINNED set. -/
  | assistPin
  /-- UNPIN (R214). Host software clears PINNED on a record. -/
  | assistUnpin
  /-- SET_DENY (R214). The lookup assist sets DENY on a record. -/
  | assistSetDeny
  /-- CLEAR_DENY (R214). The lookup assist clears DENY on a record. -/
  | assistClearDeny
  /-- CONTEXT_EXPIRY (R227). A key context unused 100 µs after filling is freed and SRV_AU_CTXEXP increments. -/
  | contextExpiry (u : Fin 8) (c : BitVec 6)
  /-- SIV_SEAL (R232). An AEAD unit seals data with AES-SIV and writes V and C in place. -/
  | aeadSivSeal (n : Fin 12) (num : Fin 16)
  /-- SIV_OPEN (R232). An AEAD unit opens AES-SIV data and reports tag pass or fail. -/
  | aeadSivOpen (n : Fin 12) (num : Fin 16)
  /-- HMAC (R232). An AEAD unit computes or compares an HMAC-SHA-256 tag. -/
  | aeadHmac (n : Fin 12) (num : Fin 16)
  /-- CMAC (R232). An AEAD unit computes or compares an AES-128-CMAC tag. -/
  | aeadCmac (n : Fin 12) (num : Fin 16)
  /-- MINT (R232). An AEAD unit mints cookies under the current master key. -/
  | aeadMint (n : Fin 12) (num : Fin 16)
  /-- FREE (R232). An AEAD unit frees a key context. -/
  | aeadFree (n : Fin 12) (num : Fin 16)
  /-- CRC32 (R297). The engine's CRC unit computes CRC-32 of IEEE 802.3 over a range. -/
  | jobCrc32 (n : Fin 12) (num : Fin 16)
  /-- CRC32C (R297). The engine's CRC unit computes CRC-32C over a range. -/
  | jobCrc32c (n : Fin 12) (num : Fin 16)
  /-- SHA256 (R297). The engine's HASH core computes SHA-256 of a message. -/
  | jobSha256 (n : Fin 12) (num : Fin 16)
  /-- SIPHASH64 (R297). The engine's HASH core computes SipHash-2-4 with a 64-bit output. -/
  | jobSiphash64 (n : Fin 12) (num : Fin 16)
  /-- SIPHASH128 (R297). The engine's HASH core computes SipHash-2-4 with a 128-bit output. -/
  | jobSiphash128 (n : Fin 12) (num : Fin 16)
  /-- TICKET_COMPLETE (R266). An accelerator job completes and its ticket becomes collectable, waking the engine. -/
  | ticketComplete (n : Fin 12) (num : Fin 16)
  /-- COOKIE_ROT_ARM (R230). A write of SRV_COOKIE_ROT3 arms a master-key rotation or refuses it. -/
  | cookieRotArm (m : Master) (v : Word)
  /-- COOKIE_ROTATION (R230). At the first tick of second AT, or at once with NOW, the master keys rotate. -/
  | cookieRotation
  /-- HOST_MINT (R231). A write of SRV_MINT_CMD mints COUNT cookies for host software and zeroes the key words. -/
  | hostMint
  /-- SA_KEY_COMMIT (R221). A write of word 7 of an association key makes the key take effect. -/
  | saKeyCommit (m : Master) (spp : Byte) (half : Bool) (v : Word)
  /-- GRANT_REQUEST (R216). A serving engine decides each REQUEST_UNICAST_TRANSMISSION TLV and replies. -/
  | grantRequest (k : Fin 8)
  /-- GRANT_CANCEL (R217). A CANCEL_UNICAST_TRANSMISSION stops the grant and is acknowledged. -/
  | grantCancel (k : Fin 8)
  /-- GRANT_EXPIRY (R217). At its expiry second a grant stops without notice. -/
  | grantExpiry (index : BitVec 20)
  /-- HOST_RECORD_CANCEL (R217). After a host DELETE or SET_DENY the owning engine cancels the client's grants within 1 s. -/
  | hostRecordCancel (k : Fin 8) (p : Fin 64) (hdr : List Byte) (buf : Word)
  /-- CLIENT_SWEEP (R215). Every 16 s an engine frees idle NTP records and expired PTP records of its buckets. -/
  | clientSweep (k : Fin 8)
  /-- SYNC_SEND (R218). A serving engine launches a Sync one-step or two-step. -/
  | syncSend (k : Fin 8) (p : Fin 64) (index : Option (BitVec 20)) (hdr : List Byte) (buf : Word) (l : BitVec 96)
  /-- FOLLOW_UP_SEND (R218). After a two-step Sync report a serving engine sends the Follow_Up. -/
  | followUpSend (k : Fin 8) (buf : Word)
  /-- DELAY_RESP_SEND (R218). A serving engine answers a Delay_Req with a Delay_Resp carrying t4. -/
  | delayRespSend (k : Fin 8)
  /-- PDELAY_RESP_SEND (R218). A serving engine answers a Pdelay_Req as IEEE 1588 clause 11.4 gives. -/
  | pdelayRespSend (k : Fin 8)
  /-- ANNOUNCE_SEND (R218). A serving engine sends an Announce with Leash-dependent dataset fields. -/
  | announceSend (k : Fin 8) (p : Fin 64) (index : Option (BitVec 20)) (hdr : List Byte) (buf : Word) (l : BitVec 96)
  /-- NTP_RESPONSE (R224). A serving engine answers a plain NTP request or sends a RATE kiss. -/
  | ntpResponse (k : Fin 8)
  /-- NTS_RESPONSE (R228). A serving engine builds, seals and launches an NTS response at L with FIXED set. -/
  | ntsResponse (k : Fin 8)
  /-- NTSN_RESPONSE (R226). A request queued with cookie not opened is answered with an NTSN kiss when NAK_EN is 1. -/
  | ntsnResponse (k : Fin 8)
  /-- UPSTREAM_EXCHANGE (R223). An upstream session completes an exchange and writes a record to the measurement inlet. -/
  | upstreamExchange (p : Fin 64) (x : UpAct)
  /-- ENGINE_REPLACE (R275). The Warden moves a serving engine's indices away, reloads it and restores them. -/
  | engineReplace (n : Fin 12)
  /-- ENG_RUN_SET (R260). Setting RUN starts a STOPPED engine with a valid measurement or sets RUN_REFUSED. -/
  | engRunSet (m : Master) (n : Fin 12)
  /-- ENG_RUN_CLEAR (R260). Clearing RUN asks a running engine to stop. -/
  | engRunClear (m : Master) (n : Fin 12)
  /-- ENG_STOP_COMPLETE (R260). An engine whose RUN was cleared enters STOPPED once no access is outstanding and the ticket queue is empty. -/
  | engStopComplete (n : Fin 12)
  /-- ENG_GATE_SET (R260). Setting GATE on a STOPPED engine stops its clock. -/
  | engGateSet (m : Master) (n : Fin 12)
  /-- ENG_GATE_CLEAR (R260). Clearing GATE returns an OFF engine to STOPPED. -/
  | engGateClear (m : Master) (n : Fin 12)
  /-- LOAD_DONE (R273). A write of LOAD_DONE in STOPPED starts the image measurement. -/
  | loadDone (m : Master) (n : Fin 12)
  /-- MEASUREMENT_DONE (R273). The HASH core ends the image check and sets MEAS_VALID or LOAD_ERR. -/
  | measurementDone (n : Fin 12)
  /-- ERESET (R260). A write of ERESET applies an Engine reset to the engine. -/
  | ereset (m : Master) (n : Fin 12) (beats : Option Nat)
  /-- IMEM_WRITE (R261). A write to IMEM or ENG_LOAD_HDR is accepted in STOPPED or HALTED and clears MEAS_VALID. -/
  | imemWrite (m : Master) (n : Fin 12) (off : Nat) (v : Word)
  /-- ENG_DBELL_WRITE (R264). A write of ENG_DBELL sets bits in the target's ENG_DBELL_PEND. -/
  | engDbellWrite (m : Master) (n : Fin 12) (v : Word)
  /-- ENG_WDOG_WRITE (R278). A write of ENG_WDOG sets the period and restarts the watchdog count. -/
  | engWdogWrite (m : Master) (n : Fin 12) (v : Word)
  /-- ENG_WDOG_EXPIRY (R268). The engine watchdog expires without a write and raises the WDOG trap. -/
  | engWdogExpiry (n : Fin 12)
  /-- ENGINE_WAKE (R263). A waiting engine wakes on its instant or a masked event and resumes. -/
  | engineWake (n : Fin 12)
  /-- STORE_BUSERR (R268). An error response to a store raises an imprecise BUSERR at the next instruction boundary. -/
  | storeBuserr (n : Fin 12)
  /-- MATRIX_GRANT (R387). A target grants a burst to a requesting master by class and round robin. -/
  | matrixGrant (t : Fin 12)
  /-- MATRIX_RESPONSE (R389). A target's response returns to its master, completing a waiting load or write. -/
  | matrixResponse (m : Fin 16) (t : Fin 12)
  /-- WRITE_BUFFER_DRAIN (R254). An engine's write buffer empties, releasing an instruction that waited for the drain. -/
  | writeBufferDrain (n : Fin 12)
  /-- ENGINE_STALL_RELEASE (R253). A stalled engine resumes issue when a write-buffer or ticket entry frees. -/
  | engineStallRelease (n : Fin 12)
  /-- MTX_TIMEOUT (R391). A target silent for 4,096 matrix cycles is answered with an error and marked HUNG. -/
  | mtxTimeout (t : Fin 12)
  /-- ADD (R282). ADD adds two registers. -/
  | add (n : Fin 12) (a b c : BitVec 5) (setFlags : Bool)
  /-- SUB (R282). SUB subtracts two registers. -/
  | sub (n : Fin 12) (a b c : BitVec 5) (setFlags : Bool)
  /-- ADDC (R282). ADDC adds two registers and the carry. -/
  | addc (n : Fin 12) (a b c : BitVec 5) (setFlags : Bool)
  /-- SUBB (R282). SUBB subtracts two registers with borrow. -/
  | subb (n : Fin 12) (a b c : BitVec 5) (setFlags : Bool)
  /-- AND (R282). AND forms the bitwise and of two registers. -/
  | and (n : Fin 12) (a b c : BitVec 5) (setFlags : Bool)
  /-- OR (R282). OR forms the bitwise or of two registers. -/
  | or (n : Fin 12) (a b c : BitVec 5) (setFlags : Bool)
  /-- XOR (R282). XOR forms the bitwise exclusive or of two registers. -/
  | xor (n : Fin 12) (a b c : BitVec 5) (setFlags : Bool)
  /-- ANDN (R282). ANDN ands a register with the complement of another. -/
  | andn (n : Fin 12) (a b c : BitVec 5) (setFlags : Bool)
  /-- SLL (R282). SLL shifts left by a register count. -/
  | sll (n : Fin 12) (a b c : BitVec 5) (setFlags : Bool)
  /-- SRL (R282). SRL shifts right with zero fill. -/
  | srl (n : Fin 12) (a b c : BitVec 5) (setFlags : Bool)
  /-- SRA (R282). SRA shifts right with sign fill. -/
  | sra (n : Fin 12) (a b c : BitVec 5) (setFlags : Bool)
  /-- ROR (R282). ROR rotates right by a register count. -/
  | ror (n : Fin 12) (a b c : BitVec 5) (setFlags : Bool)
  /-- MUL (R282). MUL gives the low 64 bits of a product. -/
  | mul (n : Fin 12) (a b c : BitVec 5) (setFlags : Bool)
  /-- MULHU (R282). MULHU gives the high 64 bits of an unsigned product. -/
  | mulhu (n : Fin 12) (a b c : BitVec 5) (setFlags : Bool)
  /-- MULHS (R282). MULHS gives the high 64 bits of a signed product. -/
  | mulhs (n : Fin 12) (a b c : BitVec 5) (setFlags : Bool)
  /-- DIVU (R283). DIVU divides unsigned towards zero. -/
  | divu (n : Fin 12) (a b c : BitVec 5) (setFlags : Bool)
  /-- DIVS (R283). DIVS divides signed towards zero. -/
  | divs (n : Fin 12) (a b c : BitVec 5) (setFlags : Bool)
  /-- REMU (R283). REMU gives the unsigned remainder. -/
  | remu (n : Fin 12) (a b c : BitVec 5) (setFlags : Bool)
  /-- REMS (R283). REMS gives the signed remainder with the sign of the dividend. -/
  | rems (n : Fin 12) (a b c : BitVec 5) (setFlags : Bool)
  /-- MINS (R282). MINS gives the signed minimum. -/
  | mins (n : Fin 12) (a b c : BitVec 5) (setFlags : Bool)
  /-- MAXS (R282). MAXS gives the signed maximum. -/
  | maxs (n : Fin 12) (a b c : BitVec 5) (setFlags : Bool)
  /-- MINU (R282). MINU gives the unsigned minimum. -/
  | minu (n : Fin 12) (a b c : BitVec 5) (setFlags : Bool)
  /-- MAXU (R282). MAXU gives the unsigned maximum. -/
  | maxu (n : Fin 12) (a b c : BitVec 5) (setFlags : Bool)
  /-- BSWAP16 (R282). BSWAP16 reverses the bytes of the low halfword. -/
  | bswap16 (n : Fin 12) (a b : BitVec 5) (setFlags : Bool)
  /-- BSWAP32 (R282). BSWAP32 reverses the bytes of the low word. -/
  | bswap32 (n : Fin 12) (a b : BitVec 5) (setFlags : Bool)
  /-- BSWAP64 (R282). BSWAP64 reverses all eight bytes. -/
  | bswap64 (n : Fin 12) (a b : BitVec 5) (setFlags : Bool)
  /-- CLZ (R282). CLZ counts leading zero bits. -/
  | clz (n : Fin 12) (a b : BitVec 5) (setFlags : Bool)
  /-- POPC (R282). POPC counts set bits. -/
  | popc (n : Fin 12) (a b : BitVec 5) (setFlags : Bool)
  /-- SLT (R282). SLT sets 1 if one register is less than another, signed. -/
  | slt (n : Fin 12) (a b c : BitVec 5) (setFlags : Bool)
  /-- SLTU (R282). SLTU sets 1 if one register is less than another, unsigned. -/
  | sltu (n : Fin 12) (a b c : BitVec 5) (setFlags : Bool)
  /-- SEXT32 (R282). SEXT32 sign-extends the low word. -/
  | sext32 (n : Fin 12) (a b : BitVec 5) (setFlags : Bool)
  /-- ZEXT32 (R282). ZEXT32 zero-extends the low word. -/
  | zext32 (n : Fin 12) (a b : BitVec 5) (setFlags : Bool)
  /-- ADDI (R284). ADDI adds a sign-extended immediate. -/
  | addi (n : Fin 12) (a b : BitVec 5) (imm : BitVec 16)
  /-- ANDI (R284). ANDI ands a zero-extended immediate. -/
  | andi (n : Fin 12) (a b : BitVec 5) (imm : BitVec 16)
  /-- ORI (R284). ORI ors a zero-extended immediate. -/
  | ori (n : Fin 12) (a b : BitVec 5) (imm : BitVec 16)
  /-- XORI (R284). XORI exclusive-ors a zero-extended immediate. -/
  | xori (n : Fin 12) (a b : BitVec 5) (imm : BitVec 16)
  /-- SHI (R284). SHI shifts or rotates by an immediate count of the kind given. -/
  | shi (n : Fin 12) (a b : BitVec 5) (kind : BitVec 2) (count : BitVec 6)
  /-- LUI (R284). LUI loads a sign-extended immediate shifted left 16. -/
  | lui (n : Fin 12) (a : BitVec 5) (imm : BitVec 16)
  /-- MOVK (R284). MOVK replaces one 16-bit quarter of a register. -/
  | movk (n : Fin 12) (a : BitVec 5) (k : BitVec 2) (imm : BitVec 16)
  /-- SLTI (R284). SLTI compares a register with an immediate, signed. -/
  | slti (n : Fin 12) (a b : BitVec 5) (imm : BitVec 16)
  /-- SLTIU (R284). SLTIU compares a register with an immediate, unsigned. -/
  | sltiu (n : Fin 12) (a b : BitVec 5) (imm : BitVec 16)
  /-- CMPI (R284). CMPI sets the flags from a register minus an immediate. -/
  | cmpi (n : Fin 12) (b : BitVec 5) (imm : BitVec 16)
  /-- BRIF (R285). BRIF branches when the named flag condition holds. -/
  | brif (n : Fin 12) (cond : BitVec 5) (imm : BitVec 16)
  /-- BEQ (R286). BEQ branches if two registers are equal. -/
  | beq (n : Fin 12) (a b : BitVec 5) (imm : BitVec 16)
  /-- BNE (R286). BNE branches if two registers differ. -/
  | bne (n : Fin 12) (a b : BitVec 5) (imm : BitVec 16)
  /-- BLT (R286). BLT branches on signed less than. -/
  | blt (n : Fin 12) (a b : BitVec 5) (imm : BitVec 16)
  /-- BGE (R286). BGE branches on signed greater or equal. -/
  | bge (n : Fin 12) (a b : BitVec 5) (imm : BitVec 16)
  /-- BLTU (R286). BLTU branches on unsigned less than. -/
  | bltu (n : Fin 12) (a b : BitVec 5) (imm : BitVec 16)
  /-- BGEU (R286). BGEU branches on unsigned greater or equal. -/
  | bgeu (n : Fin 12) (a b : BitVec 5) (imm : BitVec 16)
  /-- GO (R286). GO jumps by a 26-bit word offset. -/
  | go (n : Fin 12) (off : BitVec 26)
  /-- CALL (R286). CALL writes the link and jumps by an offset. -/
  | call (n : Fin 12) (a : BitVec 5) (imm : BitVec 16)
  /-- GOR (R286). GOR jumps to the address in a register. -/
  | gor (n : Fin 12) (b : BitVec 5)
  /-- CALLR (R286). CALLR writes the link and jumps to the address in a register. -/
  | callr (n : Fin 12) (a b : BitVec 5)
  /-- LD (R287). LD loads 8 bytes into a general register. -/
  | ld (n : Fin 12) (a b : BitVec 5) (imm : BitVec 16)
  /-- LW (R287). LW loads 4 bytes zero-extended. -/
  | lw (n : Fin 12) (a b : BitVec 5) (imm : BitVec 16)
  /-- LWS (R287). LWS loads 4 bytes sign-extended. -/
  | lws (n : Fin 12) (a b : BitVec 5) (imm : BitVec 16)
  /-- LH (R287). LH loads 2 bytes zero-extended. -/
  | lh (n : Fin 12) (a b : BitVec 5) (imm : BitVec 16)
  /-- LHS (R287). LHS loads 2 bytes sign-extended. -/
  | lhs (n : Fin 12) (a b : BitVec 5) (imm : BitVec 16)
  /-- LB (R287). LB loads 1 byte zero-extended. -/
  | lb (n : Fin 12) (a b : BitVec 5) (imm : BitVec 16)
  /-- LBS (R287). LBS loads 1 byte sign-extended. -/
  | lbs (n : Fin 12) (a b : BitVec 5) (imm : BitVec 16)
  /-- TLD (R287). TLD loads 12 bytes into a time register. -/
  | tld (n : Fin 12) (va : BitVec 3) (b : BitVec 5) (imm : BitVec 16)
  /-- SD (R287). SD stores 8 bytes. -/
  | sd (n : Fin 12) (a b : BitVec 5) (imm : BitVec 16)
  /-- SW (R287). SW stores 4 bytes. -/
  | sw (n : Fin 12) (a b : BitVec 5) (imm : BitVec 16)
  /-- SH (R287). SH stores 2 bytes. -/
  | sh (n : Fin 12) (a b : BitVec 5) (imm : BitVec 16)
  /-- SB (R287). SB stores 1 byte. -/
  | sb (n : Fin 12) (a b : BitVec 5) (imm : BitVec 16)
  /-- TST (R287). TST stores a time register as 12 bytes. -/
  | tst (n : Fin 12) (va : BitVec 3) (b : BitVec 5) (imm : BitVec 16)
  /-- SWAP (R289). SWAP atomically exchanges a memory doubleword with a register. -/
  | swap (n : Fin 12) (a b c : BitVec 5)
  /-- AADD (R289). AADD atomically adds to a memory doubleword. -/
  | aadd (n : Fin 12) (a b c : BitVec 5)
  /-- AAND (R289). AAND atomically ands into a memory doubleword. -/
  | aand (n : Fin 12) (a b c : BitVec 5)
  /-- AOR (R289). AOR atomically ors into a memory doubleword. -/
  | aor (n : Fin 12) (a b c : BitVec 5)
  /-- CAS (R289). CAS atomically compares and swaps a memory doubleword. -/
  | cas (n : Fin 12) (a b c : BitVec 5)
  /-- TMOV (R290). TMOV copies a time register. -/
  | tmov (n : Fin 12) (va vb : BitVec 3)
  /-- TADD (R290). TADD adds two time registers with saturation. -/
  | tadd (n : Fin 12) (va vb vc : BitVec 3)
  /-- TSUB (R290). TSUB subtracts two time registers with saturation. -/
  | tsub (n : Fin 12) (va vb vc : BitVec 3)
  /-- TADDG (R290). TADDG adds a signed general register to a time register. -/
  | taddg (n : Fin 12) (va vb : BitVec 3) (a : BitVec 5)
  /-- TDIFF (R290). TDIFF gives the signed 64-bit difference of two time registers. -/
  | tdiff (n : Fin 12) (a : BitVec 5) (vb vc : BitVec 3)
  /-- TCMP (R290). TCMP sets the flags from a comparison of two time registers. -/
  | tcmp (n : Fin 12) (vb vc : BitVec 3)
  /-- TGETS (R290). TGETS extracts the seconds of a time register. -/
  | tgets (n : Fin 12) (a : BitVec 5) (vb : BitVec 3)
  /-- TGETF (R290). TGETF extracts the fraction of a time register. -/
  | tgetf (n : Fin 12) (a : BitVec 5) (vb : BitVec 3)
  /-- TSETS (R290). TSETS replaces the seconds of a time register. -/
  | tsets (n : Fin 12) (va vb : BitVec 3) (a : BitVec 5)
  /-- TSETF (R290). TSETF replaces the fraction of a time register. -/
  | tsetf (n : Fin 12) (va vb : BitVec 3) (a : BitVec 5)
  /-- TTOSN (R290). TTOSN converts T96 to SN96. -/
  | ttosn (n : Fin 12) (va vb : BitVec 3)
  /-- TFROMSN (R290). TFROMSN converts SN96 to T96. -/
  | tfromsn (n : Fin 12) (va vb : BitVec 3)
  /-- TNTP (R290). TNTP forms an NTP timestamp from a time register. -/
  | tntp (n : Fin 12) (a : BitVec 5) (vb : BitVec 3)
  /-- TNOW (R291). TNOW returns the RT of the current tick and the time-source state. -/
  | tnow (n : Fin 12) (a : BitVec 5) (va : BitVec 3)
  /-- WAITT (R292). WAITT waits for an instant or a masked wake event. -/
  | waitt (n : Fin 12) (a : BitVec 5) (vb : BitVec 3) (mask : BitVec 7)
  /-- LAUNCH (R293). LAUNCH submits a launch descriptor to LCH after the write buffer drains. -/
  | launch (n : Fin 12) (a b : BitVec 5)
  /-- TSPOP (R294). TSPOP copies the report at RD of the engine's ring and advances RD. -/
  | tspop (n : Fin 12) (a b : BitVec 5)
  /-- KICK (R295). KICK delivers a job to an accelerator and returns a ticket number. -/
  | kick (n : Fin 12) (a b : BitVec 5) (target : BitVec 11)
  /-- COLL (R298). COLL waits for a ticket, returns its result and frees the entry. -/
  | coll (n : Fin 12) (a b : BitVec 5)
  /-- CPOLL (R298). CPOLL returns a ticket's result if complete and otherwise 0xFF. -/
  | cpoll (n : Fin 12) (a b : BitVec 5)
  /-- DBELL (R299). DBELL writes another engine's ENG_DBELL. -/
  | dbell (n : Fin 12) (b c : BitVec 5)
  /-- DBTAKE (R299). DBTAKE reads and clears selected pending doorbell bits in one access. -/
  | dbtake (n : Fin 12) (a b : BitVec 5)
  /-- MBXCLAIM (R299). MBXCLAIM claims a Kennel mailbox buffer for the engine. -/
  | mbxclaim (n : Fin 12) (a : BitVec 5)
  /-- MBXGO (R299). MBXGO writes KNL_MBX_GO. -/
  | mbxgo (n : Fin 12) (b : BitVec 5)
  /-- MBXREL (R299). MBXREL writes KNL_MBX_REL. -/
  | mbxrel (n : Fin 12) (b : BitVec 5)
  /-- HBEAT (R299). HBEAT writes the engine's own ENG_HB. -/
  | hbeat (n : Fin 12) (b : BitVec 5)
  /-- NOP (R300). NOP does nothing. -/
  | nop (n : Fin 12)
  /-- ECALL (R300). ECALL traps with cause ECALL. -/
  | ecall (n : Fin 12)
  /-- TRET (R301). TRET returns from a trap to ENG_EPC and clears IN_TRAP. -/
  | tret (n : Fin 12)
  /-- FENCE (R300). FENCE waits until the write buffer is empty and every store acknowledged. -/
  | fence (n : Fin 12)
  /-- SLEEP (R300). SLEEP waits for a masked wake event without an instant. -/
  | sleep (n : Fin 12) (a : BitVec 5) (mask : BitVec 7)
  /-- PMARK (R471). PMARK places a mark with the cycle count into the sampling records. -/
  | pmark (n : Fin 12) (b : BitVec 5)
  /-- SYSRD (R300). SYSRD reads an engine item by index. -/
  | sysrd (n : Fin 12) (a : BitVec 5) (idx : BitVec 7)
  /-- SYSWR (R300). SYSWR writes ENG_EPC or the flags. -/
  | syswr (n : Fin 12) (b : BitVec 5) (idx : BitVec 7)
  /-- ANCHOR (R302). ANCHOR submits a firmware update with FREQ, PHASE and SLEW_REQ. -/
  | anchor (n : Fin 12) (a b c : BitVec 5)
  /-- HANDOVER (R302). HANDOVER requests a handover into LC with FREQ. -/
  | handover (n : Fin 12) (a b : BitVec 5)
  /-- SPRD (R302). SPRD reads a word of the sealed-parameter working copy. -/
  | sprd (n : Fin 12) (a b : BitVec 5)
  /-- LSHWR (R302). LSHWR writes the Leash terms for the next second. -/
  | lshwr (n : Fin 12) (a b : BitVec 5)
  /-- ENSY (R302). ENSY writes one lead-maintained REF field on the next tick. -/
  | ensy (n : Fin 12) (b c : BitVec 5)
  /-- SYN_COMMIT_WRITE (R309). A write of SYN_SP_COMMIT validates the shadow and schedules it for instant T or refuses it. -/
  | synCommitWrite (m : Master) (k : Fin 4) (v : Word)
  /-- SYN_COMMIT_APPLY (R310). At instant T the shadow of a PLL and its outputs becomes active, relocking if N changed. -/
  | synCommitApply (k : Fin 4)
  /-- BAND_SEARCH_STEP (R306). Each 25 µs binary-search step counts VCO cycles and ends SEARCH after six steps. -/
  | bandSearchStep (k : Fin 4) (band : Option (Fin 64))
  /-- PLL_LKF_LOCK (R307). LKF rising through V_LOCK declares the PLL LOCKED. -/
  | pllLkfLock (k : Fin 4)
  /-- PLL_SETTLE_TIMEOUT (R306). 100 ms without lock returns the PLL to SEARCH or to FAIL. -/
  | pllSettleTimeout (k : Fin 4)
  /-- PLL_LOSS (R306). A cycle slip, LKF falling through V_UNLOCK or loss of reference makes the PLL LOST. -/
  | pllLoss (k : Fin 4) (slip : Bool)
  /-- PLL_REFERENCE_PRESENT (R306). A LOST PLL whose reference is present enters SEARCH. -/
  | pllReferencePresent (k : Fin 4)
  /-- OUTPUT_GRID_RESUME (R308). An output leaves bypass at the first grid edge at least 10 µs after lock. -/
  | outputGridResume (j : Fin 16)
  /-- OUT_EN_WRITE (R311). A change of OUT_EN takes effect at the next falling or rising edge. -/
  | outEnWrite (m : Master) (j : Fin 16) (v : Word)
  /-- HEEL_RECORD (R317). A valid Heel source record aligns, tracks or jumps the Heel origin. -/
  | heelRecord (j : Fin 16)
  /-- HEEL_HOLD_TIMEOUT (R317). No valid record for four source intervals puts a Heel output in HOLD. -/
  | heelHoldTimeout (j : Fin 16)
  /-- TOD_MESSAGE (R319). TOD_LAG after the described pulse a time-of-day output sends its message. -/
  | todMessage (j : Fin 16)
  /-- BAND_CHECK (R322). Once per second a locked PLL measures its tuning voltage and sets BAND_MARGIN. -/
  | bandCheck (k : Fin 4) (vtune : Byte)
  /-- OUTPUT_PHASE_CHECK (R315). The lead compares a looped-back output edge with its grid and raises SYN_PHASE_ERR. -/
  | outputPhaseCheck (k : Fin 4)
  /-- ROLL_SEND (R329). Each second at ID mod 1,000 ms a node sends ROLL on every attachment. -/
  | rollSend
  /-- ROLL_RECEIVE (R330). A valid ROLL advances the partner state of its attachment. -/
  | rollReceive (src : PackSrc)
  /-- PARTNER_ARRIVE_TIMEOUT (R330). One second without a ROLL returns an ARRIVING partner to NONE. -/
  | partnerArriveTimeout (i : Fin 68)
  /-- PARTNER_DEPART (R330). Loss of link, DEPART_HOLD seconds without ROLL or eight unanswered requests make a partner HOLDOFF. -/
  | partnerDepart (i : Fin 68)
  /-- PARTNER_REARM (R330). After REARM_HOLD seconds a HOLDOFF partner returns to NONE. -/
  | partnerRearm (i : Fin 68)
  /-- UPLINK_REVERT (R333). A candidate better by keys 1 to 3 for REVERT_HOLD seconds displaces the uplink. -/
  | uplinkRevert
  /-- UPLINK_WITHHOLD_END (R334). After five exchange intervals PCK again forms records for identifier 17. -/
  | uplinkWithholdEnd
  /-- EXCHANGE_START (R335). Every EXCH_MS a node sends T_REQ to each UP partner. -/
  | exchangeStart (i : Fin 68)
  /-- T_REQ_RECEIVE (R335). A partner receiving T_REQ answers at once with T_RESP carrying t2. -/
  | tReqReceive (src : PackSrc)
  /-- T_RESP_RECEIVE (R335). The requester receives T_RESP at t4. -/
  | tRespReceive (src : PackSrc)
  /-- PACK_TX_TIMESTAMP (R335). The return of t3 for a T_RESP makes the partner send T_FUP. -/
  | packTxTimestamp (i : Fin 68) (phase : BitVec 16) (bitIdx : Byte)
  /-- T_FUP_RECEIVE (R336). T_FUP completes an exchange; PCK forms offset and mpd and writes the uplink record. -/
  | tFupReceive (src : PackSrc)
  /-- EXCHANGE_VOID (R336). An exchange without T_FUP 10 ms after t4 is void and counts as unanswered. -/
  | exchangeVoid (i : Fin 68)
  /-- PACK_KEY_LOAD (R327). A write of PCK_AUTH.LOAD derives the Pack key into the CMAC unit. -/
  | packKeyLoad (m : Master) (v : Word)
  /-- BRACE_SEND (R340). BRC sends a BRACE frame each second and within 10 ms of any change. -/
  | braceSend
  /-- BRACE_RECEIVE (R340). BRC keeps the partner's newest BRACE frame and checks its SIDE. -/
  | braceReceive (src : PackSrc)
  /-- BRACE_SWAP (R343). At the echoed boundary both Brace devices change role. -/
  | braceSwap
  /-- BRC_UNMUTE (R347). A write of BRC_CTRL.UNMUTE unmutes the device. -/
  | brcUnmute (m : Master) (v : Word)
  /-- BRC_MUTE (R349). A write of BRC_CTRL.MUTE mutes the device unless the partner is muted. -/
  | brcMute (m : Master) (v : Word)
  /-- AUTO_UNMUTE (R347). With AUTO_UNMUTE a muted device unmutes after UNMUTE_TIME seconds not FAULTY. -/
  | autoUnmute
  /-- ADR_START_WRITE (R355). A write of ADR_START2 arms a common start or refuses it. -/
  | adrStartWrite (m : Master) (v : Word)
  /-- ADR_START_TRIGGER (R355). At the start instant every armed port plays its first ring frame. -/
  | adrStartTrigger
  /-- ADR_BLOCK_BOUNDARY (R357). At each block boundary an output applies commits, fills channel status and updates steering. -/
  | adrBlockBoundary (n : Fin 4)
  /-- ADR_OUTPUT_FRAME (R354). An output sends a frame from the ring with gain, or repeats and mutes on underrun. -/
  | adrOutputFrame (n : Fin 4)
  /-- ADR_INPUT_FRAME (R358). An input decodes a frame, strobes Scent and writes it into the capture ring. -/
  | adrInputFrame (n : Fin 4) (f : AesFrame)
  /-- ADR_INPUT_LOSS (R358). Four frames without a preamble take an input out of LOCKED. -/
  | adrInputLoss (n : Fin 4)
  /-- ADR_SECOND_RECORD (R358). Once per second a LOCKED input writes a TYPE 6 record to the inlet. -/
  | adrSecondRecord (n : Fin 4)
  /-- ADR_CS_COMMIT (R356). A write of ADR_CS_COMMIT marks the channel-status shadow pending. -/
  | adrCsCommit (m : Master) (n : Fin 4) (v : Word)
  /-- ADR_CLOCK_LOSS (R352). An output whose clock output leaves alignment holds its line and sets CLK_LOST. -/
  | adrClockLoss (n : Fin 4)
  /-- FCH_HEAD_WRITE (R372). A write of FCH_CH_HEAD1 queues a chain or is discarded. -/
  | fchHeadWrite (m : Master) (c : Fin 16) (v : Word)
  /-- FCH_DESCRIPTOR_FETCH (R374). A fetched descriptor is checked before any of its data moves. -/
  | fchDescriptorFetch (c : Fin 16) (d : HostData)
  /-- FCH_DATA_COMPLETION (R376). Returned read data or acknowledged writes advance a chain's data movement. -/
  | fchDataCompletion (c : Fin 16) (d : HostData)
  /-- FCH_CPL_TIMEOUT (R379). A read without completion within HST_CPL_TMO ends its chain with NORESP. -/
  | fchCplTimeout (c : Fin 16)
  /-- FCH_ABORT (R379). ABORT stops new requests of a RUNNING channel and ends the chain with ABORTED. -/
  | fchAbort (m : Master) (c : Fin 16)
  /-- FCH_CLEAR (R371). CLEAR returns a HALTED channel to IDLE keeping its queue. -/
  | fchClear (m : Master) (c : Fin 16)
  /-- FCH_FLUSH (R371). FLUSH returns a HALTED channel to IDLE discarding its queue. -/
  | fchFlush (m : Master) (c : Fin 16)
  /-- UNEXPECTED_COMPLETION (R379). A completion arriving after its timeout is counted in HST_CNT_UNEXP_CPL. -/
  | unexpectedCompletion
  /-- FUNCTION_LEVEL_RESET (R380). An FLR ends the function's work with FN_DISABLED and resets its registers. -/
  | functionLevelReset (f : Fin 4)
  /-- BME_CLEAR (R380). Clearing Bus Master Enable ends the function's work with FN_DISABLED. -/
  | bmeClear (f : Fin 4) (memEn : Bool)
  /-- HOST_LINK_RESET (R381). PERST_N, a Hot Reset or link down applies a Block reset to the HOST region. -/
  | hostLinkReset
  /-- MSIX_SEND (R366). A routed pending interrupt sends its vector's message once unmasked and past HOLDOFF. -/
  | msixSend (v : Fin 64)
  /-- IRQ_PEND_CLEAR (R366). A write of 1 to HST_IRQ_PEND clears a source, which sets again if its condition holds. -/
  | irqPendClear (m : Master) (w : Fin 2) (v : Word)
  /-- HST_H_DBELL_WRITE (R366). An engine write of HST_H_DBELL sets bits in HST_H_DBELL_PEND. -/
  | hstHDbellWrite (m : Master) (v : Word)
  /-- XTAL_READY (R395). A passing frequency window after good amplitude sets XTAL_RDY. -/
  | xtalReady (count : Nat) (amp : Byte)
  /-- XTAL_FREQ_WINDOW (R395). At the end of each frequency window the XTAL count is judged. -/
  | xtalFreqWindow (count : Nat) (amp : Byte)
  /-- XTAL_LOSS (R395). Low amplitude for 2 µs or a failed window declares XTAL lost. -/
  | xtalLoss (amp : Byte)
  /-- AON_XTAL_READY (R396). The 32.768 kHz crystal stable for 16,384 cycles sets AON_XTAL_RDY and AON switches to it. -/
  | aonXtalReady
  /-- AON_XTAL_LOSS (R396). Loss of the AON crystal returns AON to the RC oscillator. -/
  | aonXtalLoss
  /-- SYSPLL_LOCK (R397). SYSPLL locks after XTAL_RDY. -/
  | syspllLock (band : BitVec 6) (vtune : Byte)
  /-- SYSPLL_COAST (R398). XTAL loss or SYSPLL unlock moves the VCO to 1.6 GHz and coasts. -/
  | syspllCoast (unlock : Bool) (vtune : Byte)
  /-- SYSPLL_RAMP_DONE (R399). At the end of the 1 ms ramp SYSPLL is back at 2.4 GHz and XTAL_BACK is set. -/
  | syspllRampDone (band : BitVec 6) (vtune : Byte)
  /-- CLK_ROOT_SEL_WRITE (R400). A write of CLK_ROOT_SEL requests a root switch or is refused. -/
  | clkRootSelWrite (m : Master) (v : Word)
  /-- CLK_SWITCH_COMPLETE (R401). A glitch-free switch completes after falling edges or after 8 cycles of a new source. -/
  | clkSwitchComplete (aon : Bool)
  /-- KPLL_SOURCE_LOSS (R404). When the KPLL source stops being ready KPLL switches to the best ready source or holds. -/
  | kpllSourceLoss (edges : BitVec 4)
  /-- KPLL_BETTER_SOURCE (R404). An oscillator of lower PREF MEMBER for 60 s becomes the KPLL source. -/
  | kpllBetterSource (edges : BitVec 4) (k : Fin 4)
  /-- KPLL_HOLD_EXIT (R406). A source becoming ready ends KPLL hold. -/
  | kpllHoldExit (edges : BitVec 4)
  /-- GATE (R408). A GATE command runs the quiesce handshake on a unit. -/
  | pwrGate (m : Master) (u : Fin 11)
  /-- QUIESCE_END (R408). Quiesce completes and the gate applies, or times out with GATE_BUSY. -/
  | quiesceEnd (u : Fin 11) (ok : Bool)
  /-- UNGATE (R410). An UNGATE command restarts a unit's clocks through AON. -/
  | pwrUngate (m : Master) (u : Fin 11)
  /-- UNGATE_CLOCKS_STABLE (R410). Once clocks are stable GATED clears and any pending enable takes effect. -/
  | ungateClocksStable (u : Fin 11)
  /-- FORCE (R409). A FORCE command gates a unit at once and sets NEEDS_RESET. -/
  | pwrForce (m : Master) (u : Fin 11)
  /-- UNIT_BLOCK_RESET (R409). A BLOCK_RESET command resets a gated unit and clears NEEDS_RESET. -/
  | unitBlockReset (m : Master) (u : Fin 11)
  /-- DOZE_EN_WRITE (R413). A write of DOZE_EN enters or leaves DOZE. -/
  | dozeEnWrite (m : Master) (v : Word)
  /-- DOZE_AUTO_GATE (R414). In DOZE AON gates a unit whose condition has held 10 ms. -/
  | dozeAutoGate (u : Fin 23)
  /-- DOZE_GATE_RETRY (R414). An automatic gate that ended GATE_BUSY is retried after 1 s. -/
  | dozeGateRetry (u : Fin 11)
  /-- CROSSING_CHECK (R411). Every 1 ms PWR checks each region crossing against its limits. -/
  | crossingCheck (temp : List Int) (vdd wordClk : List Nat)
  /-- DEEP_REQUEST (R415). A write of 0xDEE9_0001 to PWR_DEEP requests DEEP through a Bury save or is refused. -/
  | deepRequest (m : Master) (v : Word)
  /-- DEEP_WAKE (R415). WAKE_N, the wake timer or VIN recovery ends DEEP through a Chip reset. -/
  | deepWake (cause : Fin 3) (age : Nat) (vin : BitVec 13)
  /-- PWR_CHIP_RESET (R416). A write of 0xC4E5_0001 to PWR_CHIP_RESET applies a Chip reset. -/
  | pwrChipReset (m : Master) (v : Word)
  /-- VIN_WARN (R425). VIN falling through VWARN enters BURY and starts a Bury save. -/
  | vinWarn (vin vhold : BitVec 13)
  /-- SAVE_COMMIT (R425). The slot read back with a matching MAC commits the Bone. -/
  | saveCommit
  /-- BURY_SURVIVAL (R427). After commit with VIN above 3.075 V for 1 ms the device leaves BURY. -/
  | burySurvival (vin : BitVec 13)
  /-- VIN_RESET (R428). VIN reaching VRST completes or runs a final save and applies a Chip reset into DEEP. -/
  | vinReset (vin vhold : BitVec 13)
  /-- VHOLD_COLLAPSE (R420). VHOLD below HOLD_MIN without VIN takes the device to OFF. -/
  | vholdCollapse (vinAbsent bodyDone : Bool) (vhold : BitVec 13)
  /-- PERIODIC_BONE_SAVE (R424). Every 600 s the lead takes a periodic stale Bone save. -/
  | periodicBoneSave
  /-- BONE_SECTOR_ERASE (R424). The Kennel erases the next KSPI sector ahead of the Bone or log regions. -/
  | boneSectorErase (ok : Bool)
  /-- SLOT_WRITE (R443). A SLOT_WRITE KUM writes a key slot value and attributes. -/
  | kumSlotWrite (m : Master)
  /-- SLOT_ERASE (R443). A SLOT_ERASE KUM writes a zero value with VALID clear. -/
  | kumSlotErase (m : Master)
  /-- DEBUG_TOKEN (R448). A DEBUG_TOKEN KUM sets the debug state and starts its timer. -/
  | kumDebugToken (m : Master)
  /-- RETIRE (R446). A RETIRE KUM zeroes all keys, closes debug and writes RETIRED. -/
  | kumRetire (m : Master)
  /-- KUM_LOCK_EXPIRY (R444). Ten seconds after a KUM flood SEC again accepts KUMs. -/
  | kumLockExpiry
  /-- WKR_LOAD (R438). SEC checks a slot, derives the key into WKR, delivers it and zeroes WKR. -/
  | wkrLoad (cons : Fin 4) (slot : Fin 32) (m : Master) (ctx : Word)
  /-- DBG_OBSERVE (R448). A SEC_DBG_REQ of OBSERVE opens read-only debug where permitted. -/
  | dbgObserve (m : Master)
  /-- DBG_INVASIVE (R449). A SEC_DBG_REQ of INVASIVE opens invasive debug after the breach record. -/
  | dbgInvasive (m : Master)
  /-- DBG_CLOSE (R448). A SEC_DBG_REQ of CLOSE returns debug to CLOSED. -/
  | dbgClose (m : Master)
  /-- DEBUG_TIMER_EXPIRY (R448). The debug token timer expires and debug returns to CLOSED. -/
  | debugTimerExpiry
  /-- HOST_MEAS_EXTEND (R440). A PF0 write of SEC_HOST_EXT7 extends SEC_HOST_MEAS. -/
  | hostMeasExtend (m : Master) (v : Word)
  /-- FLT_RAISE_WRITE (R454). A write of FLT_RAISE raises SW_FAULTn. -/
  | fltRaiseWrite (m : Master) (v : Word)
  /-- FLT_STATUS_CLEAR (R460). A write of 1 to FLT_STATUS clears a status bit subject to class and level. -/
  | fltStatusClear (m : Master) (w : Fin 8) (v : Word)
  /-- FLT_REACT_WRITE (R456). A write of FLT_REACT sets reactions except the fixed bits. -/
  | fltReactWrite (m : Master) (k : BitVec 8) (v : Word)
  /-- GUARD_HB_MISS (R461). ENG_HB of E2 unchanged for HB_TIMEOUT makes Guard reload the Warden or abandon it. -/
  | guardHbMiss
  /-- GUARD_RESTART (R461). A PF0 write of FLT_GUARD_CTRL.RESTART moves ABANDONED to RELOADING. -/
  | guardRestart (m : Master)
  /-- GUARD_HEARTBEAT (R464). Every 1 ms Guard writes a heartbeat to the Kennel. -/
  | guardHeartbeat
  /-- GUARD_FAIL_TIMEOUT (R464). Ten ms without a Guard heartbeat raises GUARD_FAIL and asserts BARK_N. -/
  | guardFailTimeout
  /-- OBS_SNAP (R468). A write of OBS_SNAP takes a snapshot of every counter. -/
  | obsSnapWrite (m : Master) (v : Word)
  /-- SNAP_PERIODIC (R468). An RT millisecond multiple of SNAP_MS takes a periodic snapshot. -/
  | snapPeriodic
  /-- OBS_CNT_SEL_WRITE (R467). A change of OBS_CNT_SEL clears the counter and checks the selection. -/
  | obsCntSelWrite (m : Master) (k : Fin 32) (v : Word)
  /-- OBS_CNT_WRITE (R467). A write of a counter's upper word sets its value plus events of that cycle. -/
  | obsCntWrite (m : Master) (k : Fin 32) (v : Word)
  /-- SAMPLE_SELECT (R470). Every PERIOD retired instructions OBS writes a precise sampling record. -/
  | sampleSelect (n : Fin 12)
  /-- TEL_SAMPLE (R474). Every 1 ms sensors are sampled and checked against the telemetry limits. -/
  | telSample (temp : List Int) (vdd : List Nat) (vin vhold : BitVec 13)
  /-- TEL_RECORD (R473). At the end of each TEL_PERIOD OBS writes a telemetry record. -/
  | telRecord
  /-- SCRUB_LINE (R478). The scrubber reads a line in an idle cycle and corrects or reports errors. -/
  | scrubLine (flipped : Bool)
  /-- SCRUB_STEAL (R477). A line waiting 1 ms for an idle cycle takes the next cycle. -/
  | scrubSteal (flipped : Bool)
  /-- SCRUB_PASS_LATE (R477). A pass not complete within PASS_H hours increments LATE. -/
  | scrubPassLate
  /-- KPLL_TICK (R29). On every tick of the 1.2 GHz KPLL output, LC advances by KNL_LC_INC and the SN count advances by its cadence. -/
  | kpllTick
  /-- ILLEGAL_ENCODING (R280). An engine issues a word with a reserved opcode, fn or field, or the all-zero or all-ones word, and raises ILLEGAL. -/
  | illegalEncoding (n : Fin 12) (word : Word)
  /-- MBX_UNKNOWN_OPCODE (R65). A queued mailbox command whose OPCODE is unknown starts and completes with OPCODE. -/
  | mbxUnknownOpcode
  /-- KUM_UNKNOWN_KIND (R442). A write of SEC_KUM_GO with a KUM whose KIND is outside 0 to 3 ends with FORMAT. -/
  | kumUnknownKind (m : Master)
  /-- ACQ_TIMEOUT (R144). ACQ_TIMEOUT seconds in ACQUIRE without SOL_MIN_SV satellites tracked move the Scout to SNAPSHOT and SNAP mode. -/
  | acqTimeout
  /-- WEAK_TIME_EXPIRY (R144). Fewer than SOL_MIN_SV satellites above CN0_MIN for WEAK_TIME seconds move the Scout from tracking to SNAPSHOT. -/
  | weakTimeExpiry
  /-- RETRY_PERIOD_EXPIRY (R144). RETRY_PERIOD seconds in SNAPSHOT move the Scout back to ACQUIRE and CONT mode. -/
  | retryPeriodExpiry
  /-- PAUSE_END (R181). The pause time of an honoured PAUSE frame runs out and the transmitter resumes, clearing PAUSED. -/
  | pauseEnd (p : Fin 64)
  /-- FLR_COMPLETE (R380). A Function Level Reset completes, FLR_DONE of the function is set and memory requests are no longer answered with Unsupported Request. -/
  | flrComplete (f : Fin 4)
  /-- BUS_MASTER_ENABLE_SET (R371). Setting Bus Master Enable of a function lets its DISABLED channels return to IDLE and releases its pending MSI-X messages. -/
  | busMasterEnableSet (f : Fin 4) (memEn : Bool) (devCtl : BitVec 16) (speed : BitVec 3) (width : BitVec 4)
  /-- SRAM_CLEAR_DONE (R481). The boot sequencer finishes writing shared and client SRAM with zeros and valid ECC, and matrix access to SRAM is then granted. -/
  | sramClearDone
  /-- HOLD_RDY_CHANGE (R420). VHOLD crossing 4.5 V sets or clears HOLD_RDY. -/
  | holdRdyChange (vhold : BitVec 13)
  /-- BARK_N_MIN_HOLD (R458). The 10 µs minimum assertion of BARK_N runs out and BARK_N is released if no cause still holds it. -/
  | barkNMinHold
deriving DecidableEq, Repr

end Sys2Proof
end

