-- ==== Sys2Proof/Machine/Bits.lean ====
section
/-! DEFINITION. Byte order, sign and bit-field helpers shared by every family (R5: memory is little-endian; fields
inside a frame on the wire are big-endian). -/

namespace Sys2Proof.Machine

/-- The `n` bytes of `v`, lowest-order byte first. -/
def leBytes : Nat → Nat → List Byte
  | 0, _ => []
  | n + 1, v => BitVec.ofNat 8 v :: leBytes n (v / 256)

/-- The number whose bytes are listed, lowest-order byte first. -/
def ofLe : List Byte → Nat
  | [] => 0
  | b :: bs => b.toNat + 256 * ofLe bs

/-- The `n` bytes of `v`, highest-order byte first. -/
def beBytes (n v : Nat) : List Byte := (leBytes n v).reverse

/-- The number whose bytes are listed, highest-order byte first. -/
def ofBe (bs : List Byte) : Nat := ofLe bs.reverse

/-- The signed reading of the low `w` bits of `v`. -/
def sext (w v : Nat) : Int := (BitVec.ofNat w v).toInt

/-- The low `w` bits of a signed value, in two's complement. -/
def trunc (w : Nat) (v : Int) : Nat := (BitVec.ofInt w v).toNat

/-- Bits `lsb` to `lsb + w - 1` of `v`. -/
def bits (v lsb w : Nat) : Nat := v / 2 ^ lsb % 2 ^ w

/-- Bit `i` of `v`. -/
def bit (v i : Nat) : Bool := v.testBit i

/-- `v` with bits `lsb` to `lsb + w - 1` replaced by the low bits of `x`. -/
def setBits (v lsb w x : Nat) : Nat := v - bits v lsb w * 2 ^ lsb + (x % 2 ^ w) * 2 ^ lsb

/-- 1 for true, 0 for false. -/
def b2n (b : Bool) : Nat := if b then 1 else 0

/-- The first of `lo`, …, `lo + n - 1` that passes the test. -/
def findUp (p : Nat → Bool) (lo : Nat) : Nat → Option Nat
  | 0 => none
  | n + 1 => if p lo then some lo else findUp p (lo + 1) n

/-- `0, 1, …, n - 1`. -/
def upto (n : Nat) : List Nat := List.range n

/-- Slice of a byte list. -/
def slice (bs : List Byte) (off n : Nat) : List Byte := (bs.drop off).take n

/-- `bs` cut or filled with zero bytes to `n` bytes. -/
def padTo (n : Nat) (bs : List Byte) : List Byte := (bs ++ List.replicate (n - bs.length) 0#8).take n

/-- Little-endian field of a byte list. -/
def leAt (bs : List Byte) (off n : Nat) : Nat := ofLe (slice bs off n)

/-- Big-endian field of a byte list. -/
def beAt (bs : List Byte) (off n : Nat) : Nat := ofBe (slice bs off n)

/-- The bytes of an ASCII label. -/
def ascii (t : String) : List Byte := t.toList.map fun c => BitVec.ofNat 8 c.toNat

end Sys2Proof.Machine
end

