-- ==== Sys2Proof/Machine/Crypto.lean ====
section
/-! DEFINITION. The standard algorithms the manual names and does not restate: SHA-256, HMAC-SHA-256, HKDF-SHA-256,
AES-128, AES-CMAC, AES-SIV (RFC 5297), SipHash-2-4, CRC-32 of IEEE 802.3, CRC-32C and CRC-8 of SMBus form.
PRESUMED: each is the published algorithm of that name (log entry 5). Byte strings are lists, first byte first. -/

namespace Sys2Proof.Machine

/-! ### SHA-256 -/

/-! Words are numbers below 2³². The eight working variables stand in two groups of four, newest first: in each round a new `a` pushes out
`d`, and a new `e` pushes out `h`. -/

/-- The 64 round constants, eight to a number, first one highest. -/
def shaK : List Nat :=
  [0x428a2f9871374491b5c0fbcfe9b5dba53956c25b59f111f1923f82a4ab1c5ed5,
   0xd807aa9812835b01243185be550c7dc372be5d7480deb1fe9bdc06a7c19bf174,
   0xe49b69c1efbe47860fc19dc6240ca1cc2de92c6f4a7484aa5cb0a9dc76f988da,
   0x983e5152a831c66db00327c8bf597fc7c6e00bf3d5a7914706ca635114292967,
   0x27b70a852e1b21384d2c6dfc53380d13650a7354766a0abb81c2c92e92722c85,
   0xa2bfe8a1a81a664bc24b8b70c76c51a3d192e819d6990624f40e3585106aa070,
   0x19a4c1161e376c082748774c34b0bcb5391c0cb34ed8aa4a5b9cca4f682e6ff3,
   0x748f82ee78a5636f84c878148cc7020890befffaa4506cebbef9a3f7c67178f2]

/-- Word `i` from the top of a number of `n` words. -/
def wordOf (n x i : Nat) : Nat := x / 2 ^ (32 * (n - 1 - i)) % 2 ^ 32

/-- `x` turned right by `n` places. -/
def turn (x n : Nat) : Nat := (x / 2 ^ n + x * 2 ^ (32 - n)) % 2 ^ 32

/-- Three turns of a word, together. -/
def turns (x i j k : Nat) : Nat := turn x i ^^^ turn x j ^^^ turn x k

/-- The working variables. -/
structure Sha where
  lo : List Nat
  hi : List Nat

/-- Their first values. -/
def shaStart : Sha :=
  { lo := (List.range 4).map (wordOf 8 0x6a09e667bb67ae853c6ef372a54ff53a510e527f9b05688c1f83d9ab5be0cd19)
    hi := (List.range 4).map fun i => wordOf 8 0x6a09e667bb67ae853c6ef372a54ff53a510e527f9b05688c1f83d9ab5be0cd19 (i + 4) }

/-- A round with the sum of its constant and its schedule word. -/
def Sha.round (s : Sha) (kw : Nat) : Sha :=
  match s.lo, s.hi with
  | [a, b, c, d], [e, f, g, h] =>
    let t := h + kw + turns e 6 11 25 + (g ^^^ (e &&& (f ^^^ g)))
    { lo := [(t + turns a 2 13 22 + ((a &&& b) ||| (c &&& (a ||| b)))) % 2 ^ 32, a, b, c], hi := [(t + d) % 2 ^ 32, e, f, g] }
  | _, _ => s

/-- The schedule word that follows sixteen others, oldest first. -/
def shaNext (w : List Nat) : Nat :=
  let old := w.getD 1 0
  let late := w.getD 14 0
  (w.headD 0 + w.getD 9 0 + (turn old 7 ^^^ turn old 18 ^^^ old / 8) + (turn late 17 ^^^ turn late 19 ^^^ late / 1024)) % 2 ^ 32

/-- `n` rounds from round `i`, with the next sixteen schedule words. -/
def Sha.rounds : Nat → Nat → List Nat → Sha → Sha
  | 0, _, _, s => s
  | n + 1, i, w, s => Sha.rounds n (i + 1) (w.tail ++ [shaNext w]) (s.round (wordOf 8 (shaK.getD (i / 8) 0) (i % 8) + w.headD 0))

/-- A block of 64 bytes. -/
def Sha.block (s : Sha) (blk : List Byte) : Sha :=
  let t := Sha.rounds 64 0 ((List.range 16).map (wordOf 16 (ofBe blk))) s
  let add := List.zipWith fun x y => (x + y) % 2 ^ 32
  { lo := add s.lo t.lo, hi := add s.hi t.hi }

/-- `n` blocks. -/
def Sha.blocks : Nat → List Byte → Sha → Sha
  | 0, _, s => s
  | n + 1, bs, s => Sha.blocks n (bs.drop 64) (s.block (bs.take 64))

/-- SHA-256 of a byte string, 32 bytes: the bit 1, zeros and the length in bits fill up the last block. -/
def sha256 (msg : List Byte) : List Byte :=
  let len := msg.length
  let zeros := (119 - len % 64) % 64
  let s := Sha.blocks ((len + zeros + 9) / 64) (msg ++ 0x80#8 :: (List.replicate zeros 0#8 ++ beBytes 8 (8 * len))) shaStart
  (s.lo ++ s.hi).flatMap (beBytes 4)

/-- SHA-256 as a digest word, byte 0 in bits 7 to 0. -/
def sha256D (msg : List Byte) : Digest := BitVec.ofNat 256 (ofLe (sha256 msg))

/-- The bytes of a digest or 256-bit key. -/
def digestBytes (d : Digest) : List Byte := leBytes 32 d.toNat

/-- The bytes of a signature or public key. -/
def sigBytes (x : Sig) : List Byte := leBytes 64 x.toNat

/-- HMAC-SHA-256. -/
def hmac256 (key msg : List Byte) : List Byte :=
  let k := padTo 64 (if key.length ≤ 64 then key else sha256 key)
  sha256 (k.map (· ^^^ 0x5c#8) ++ sha256 (k.map (· ^^^ 0x36#8) ++ msg))

/-- Expansion blocks of HKDF. -/
def hkdfBlocks (prk info : List Byte) : Nat → Nat → List Byte → List Byte
  | 0, _, _ => []
  | n + 1, i, prev =>
    let t := hmac256 prk (prev ++ info ++ [BitVec.ofNat 8 i])
    t ++ hkdfBlocks prk info n (i + 1) t

/-- HKDF-SHA-256 with `len` bytes of output; no salt is 32 zero bytes. -/
def hkdf (salt ikm info : List Byte) (len : Nat) : List Byte :=
  let prk := hmac256 (if salt.isEmpty then List.replicate 32 0#8 else salt) ikm
  (hkdfBlocks prk info ((len + 31) / 32) 1 []).take len

/-! ### AES-128 -/

/-- Multiplication by x in the field of AES. -/
def xtime (b : Byte) : Byte := (b <<< 1) ^^^ (if b.msb then 0x1b#8 else 0#8)

/-- Multiplication in the field of AES. -/
def gmul : Nat → Byte → Byte → Byte
  | 0, _, _ => 0#8
  | n + 1, a, b => (if b.getLsbD 0 then a else 0#8) ^^^ gmul n (xtime a) (b >>> 1)

/-- The multiplicative inverse, as the 254th power. -/
def ginv (a : Byte) : Byte :=
  let m := gmul 8
  let a2 := m a a
  let a3 := m a2 a
  let a6 := m a3 a3
  let a12 := m a6 a6
  let a15 := m a12 a3
  let a30 := m a15 a15
  let a60 := m a30 a30
  let a63 := m a60 a3
  let a126 := m a63 a63
  let a127 := m a126 a
  m a127 a127

/-- The S-box of AES, from its definition. -/
def sbox (b : Byte) : Byte :=
  let i := ginv b
  i ^^^ i.rotateLeft 1 ^^^ i.rotateLeft 2 ^^^ i.rotateLeft 3 ^^^ i.rotateLeft 4 ^^^ 0x63#8

/-- Exclusive or of two byte strings. -/
def xorBytes (a b : List Byte) : List Byte := List.zipWith (· ^^^ ·) a b

/-- Round keys after the first. -/
def aesExpand : Nat → Byte → List Byte → List (List Byte)
  | 0, _, _ => []
  | n + 1, rc, k =>
    let w0 := k.take 4
    let w1 := slice k 4 4
    let w2 := slice k 8 4
    let w3 := slice k 12 4
    let t := (w3.drop 1 ++ w3.take 1).map sbox
    let t := xorBytes t [rc, 0#8, 0#8, 0#8]
    let n0 := xorBytes w0 t
    let n1 := xorBytes w1 n0
    let n2 := xorBytes w2 n1
    let n3 := xorBytes w3 n2
    let k' := n0 ++ n1 ++ n2 ++ n3
    k' :: aesExpand n (xtime rc) k'

/-- The source index of each byte under ShiftRows, column order. -/
def shiftRowsIx : List Nat := [0, 5, 10, 15, 4, 9, 14, 3, 8, 13, 2, 7, 12, 1, 6, 11]

/-- MixColumns on one column. -/
def mixCol (c : List Byte) : List Byte :=
  match c with
  | [a, b, d, e] =>
    [xtime a ^^^ (xtime b ^^^ b) ^^^ d ^^^ e, a ^^^ xtime b ^^^ (xtime d ^^^ d) ^^^ e,
     a ^^^ b ^^^ xtime d ^^^ (xtime e ^^^ e), (xtime a ^^^ a) ^^^ b ^^^ d ^^^ xtime e]
  | _ => c

/-- SubBytes then ShiftRows. -/
def aesSubShift (s : List Byte) : List Byte :=
  let t := s.map sbox
  shiftRowsIx.map fun i => t.getD i 0#8

/-- MixColumns. -/
def aesMix (s : List Byte) : List Byte :=
  mixCol (slice s 0 4) ++ mixCol (slice s 4 4) ++ mixCol (slice s 8 4) ++ mixCol (slice s 12 4)

/-- The rounds of AES after the first key addition. -/
def aesRounds : List (List Byte) → List Byte → List Byte
  | [], s => s
  | [k], s => xorBytes (aesSubShift s) k
  | k :: ks, s => aesRounds ks (xorBytes (aesMix (aesSubShift s)) k)

/-- AES-128 encryption of one 16-byte block. -/
def aes128 (key blk : List Byte) : List Byte :=
  aesRounds (aesExpand 10 1#8 key) (xorBytes blk key)

/-- Doubling in the field of CMAC, on a 16-byte big-endian string. -/
def dbl (b : List Byte) : List Byte :=
  let v := ofBe b
  let w := v * 2 % 2 ^ 128
  beBytes 16 (if v.testBit 127 then w ^^^ 0x87 else w)

/-- The CBC chain of CMAC over whole blocks. -/
def cmacChain (key : List Byte) : Nat → List Byte → List Byte → List Byte
  | 0, x, _ => x
  | n + 1, x, m => cmacChain key n (aes128 key (xorBytes x (m.take 16))) (m.drop 16)

/-- AES-128-CMAC, 16 bytes. -/
def cmac (key msg : List Byte) : List Byte :=
  let k1 := dbl (aes128 key (List.replicate 16 0#8))
  let k2 := dbl k1
  let n := (msg.length + 15) / 16
  let full := msg.length > 0 && msg.length % 16 == 0
  let n := if n = 0 then 1 else n
  let head := msg.take (16 * (n - 1))
  let tail := msg.drop (16 * (n - 1))
  let last := if full then xorBytes tail k1 else xorBytes (padTo 16 (tail ++ [0x80#8])) k2
  cmacChain key n (List.replicate 16 0#8) (head ++ last)

/-- S2V of RFC 5297 over the associated strings and the last string. -/
def s2v (key : List Byte) (ads : List (List Byte)) (last : List Byte) : List Byte :=
  let d := ads.foldl (fun d a => xorBytes (dbl d) (cmac key a)) (cmac key (List.replicate 16 0#8))
  let t := if last.length ≥ 16 then
      last.take (last.length - 16) ++ xorBytes (last.drop (last.length - 16)) d
    else xorBytes (dbl d) (padTo 16 (last ++ [0x80#8]))
  cmac key t

/-- The key stream of CTR, `n` blocks from counter `c`. -/
def ctrStream (key : List Byte) : Nat → Nat → List Byte
  | 0, _ => []
  | n + 1, c => aes128 key (beBytes 16 c) ++ ctrStream key n ((c + 1) % 2 ^ 128)

/-- CTR from the synthetic IV with bits 63 and 31 cleared. -/
def sivCtr (key iv data : List Byte) : List Byte :=
  let c := ofBe iv
  let c := c - (if c.testBit 63 then 2 ^ 63 else 0) - (if c.testBit 31 then 2 ^ 31 else 0)
  xorBytes data (ctrStream key ((data.length + 15) / 16) c)

/-- AEAD_AES_SIV_CMAC_256 seal: the synthetic IV and the cipher text. -/
def sivSeal (key : List Byte) (ads : List (List Byte)) (pt : List Byte) : List Byte × List Byte :=
  let v := s2v (key.take 16) ads pt
  (v, sivCtr (key.drop 16) v pt)

/-- AEAD_AES_SIV_CMAC_256 open: the plain text, or none when the tag fails. -/
def sivOpen (key : List Byte) (ads : List (List Byte)) (v ct : List Byte) : Option (List Byte) :=
  let pt := sivCtr (key.drop 16) v ct
  if s2v (key.take 16) ads pt = v then some pt else none

/-! ### SipHash-2-4 -/

/-- The four words of SipHash. -/
structure SipState where
  v0 : DWord
  v1 : DWord
  v2 : DWord
  v3 : DWord
deriving DecidableEq, Repr

/-- One SipRound. -/
def sipRound (s : SipState) : SipState :=
  let v0 := s.v0 + s.v1
  let v1 := s.v1.rotateLeft 13 ^^^ v0
  let v0 := v0.rotateLeft 32
  let v2 := s.v2 + s.v3
  let v3 := s.v3.rotateLeft 16 ^^^ v2
  let v0 := v0 + v3
  let v3 := v3.rotateLeft 21 ^^^ v0
  let v2 := v2 + v1
  let v1 := v1.rotateLeft 17 ^^^ v2
  let v2 := v2.rotateLeft 32
  ⟨v0, v1, v2, v3⟩

/-- Absorption of one message word. -/
def sipAbsorb (s : SipState) (m : DWord) : SipState :=
  let s := sipRound (sipRound { s with v3 := s.v3 ^^^ m })
  { s with v0 := s.v0 ^^^ m }

/-- Absorption of the whole words of a message. -/
def sipWords : Nat → SipState → List Byte → SipState
  | 0, s, _ => s
  | n + 1, s, m => sipWords n (sipAbsorb s (BitVec.ofNat 64 (ofLe (m.take 8)))) (m.drop 8)

/-- The state after the message and its length word. -/
def sipMsg (wide : Bool) (key msg : List Byte) : SipState :=
  let k0 := BitVec.ofNat 64 (ofLe (key.take 8))
  let k1 := BitVec.ofNat 64 (ofLe (slice key 8 8))
  let s : SipState := ⟨k0 ^^^ 0x736f6d6570736575#64, k1 ^^^ 0x646f72616e646f6d#64 ^^^ (if wide then 0xee#64 else 0#64),
    k0 ^^^ 0x6c7967656e657261#64, k1 ^^^ 0x7465646279746573#64⟩
  let n := msg.length / 8
  let last := ofLe (msg.drop (8 * n)) + (msg.length % 256) * 2 ^ 56
  sipAbsorb (sipWords n s msg) (BitVec.ofNat 64 last)

/-- Four finishing rounds and the folded output word. -/
def sipFin (s : SipState) : SipState × DWord :=
  let s := sipRound (sipRound (sipRound (sipRound s)))
  (s, s.v0 ^^^ s.v1 ^^^ s.v2 ^^^ s.v3)

/-- SipHash-2-4 with a 64-bit output. -/
def sip64 (key msg : List Byte) : DWord :=
  let s := sipMsg false key msg
  (sipFin { s with v2 := s.v2 ^^^ 0xff#64 }).2

/-- SipHash-2-4 with a 128-bit output, low word first. -/
def sip128 (key msg : List Byte) : DWord × DWord :=
  let s := sipMsg true key msg
  let (s1, lo) := sipFin { s with v2 := s.v2 ^^^ 0xee#64 }
  let (_, hi) := sipFin { s1 with v1 := s1.v1 ^^^ 0xdd#64 }
  (lo, hi)

/-! ### CRC -/

/-- Eight steps of a reflected CRC. -/
def crcSteps (poly : Nat) : Nat → Nat → Nat
  | 0, c => c
  | n + 1, c => crcSteps poly n (if c.testBit 0 then c / 2 ^^^ poly else c / 2)

/-- A reflected 32-bit CRC with initial value and final exclusive or of all ones. -/
def crc32Of (poly : Nat) (bs : List Byte) : Nat :=
  (bs.foldl (fun c b => crcSteps poly 8 (c ^^^ b.toNat)) 0xFFFFFFFF) ^^^ 0xFFFFFFFF

/-- CRC-32 of IEEE 802.3. -/
def crc32 (bs : List Byte) : Nat := crc32Of 0xEDB88320 bs

/-- CRC-32C (Castagnoli). -/
def crc32c (bs : List Byte) : Nat := crc32Of 0x82F63B78 bs

/-- CRC-8 of AES3 channel status, polynomial x⁸ + x⁴ + x³ + x² + 1, begun from 0xFF, bits of a byte taken lowest first (R357). -/
def crcAes (bs : List Byte) : Nat := bs.foldl (fun r b => crcSteps 0xB8 8 (r ^^^ b.toNat)) 0xFF

end Sys2Proof.Machine
end

