-- ==== Sys2Proof/Machine/RegMap.lean ====
section
/-! DEFINITION. The register map of R25 and of the register tables of every chapter: one name per field (the
manual's register and field names joined by an underscore; a register with one field has the register's name) and one
table row per field. Address, instances, bits, access type and reset entry are the manual's. -/

namespace Sys2Proof.Machine

/-- A register field: the BAR0 byte address of instance 0, the stride between instances, the lowest bit and the width.
A field wider than its word runs on into the words that follow, lowest-order word first (R9). -/
structure Fld where
  addr : Nat
  stride : Nat
  lsb : Nat
  width : Nat
deriving DecidableEq, Repr

/-- The access types of R11. -/
inductive Acc where | ro | rw | w1c | wo | rws
deriving DecidableEq, Repr

/-- The reset entry of a field (R13): the narrowest reset kind that sets it; kept: held by a non-volatile store, no reset sets it;
sealed: reloaded from the sealed store (R59); none: an action field that holds nothing. -/
inductive RKind where | cold | chip | block | engine | kept | sealed | none
deriving DecidableEq, Repr

/-- One row of a register table. -/
structure RegRow where
  fld : Fld
  inst : Nat
  acc : Acc
  rst : Nat
  kind : RKind
deriving DecidableEq, Repr

namespace R

/-! ### CLK (R417) -/
/-- R417 RO: 0 = RC oscillator; 1 = crystal. -/
def CLK_STAT_AON_SRC : Fld := ⟨0x0, 0, 0, 1⟩
/-- R417 RO: As R396. -/
def CLK_STAT_AON_XTAL_RDY : Fld := ⟨0x0, 0, 1, 1⟩
/-- R417 RO: As R395. -/
def CLK_STAT_XTAL_RDY : Fld := ⟨0x0, 0, 2, 1⟩
/-- R417 RO: 1 = XTAL lost and not yet back under R399. -/
def CLK_STAT_XTAL_LOST : Fld := ⟨0x0, 0, 3, 1⟩
/-- R417 RO: 1 = locked. -/
def CLK_STAT_SYSPLL_LOCK : Fld := ⟨0x0, 0, 4, 1⟩
/-- R417 RO: 1 = coasting under R398. -/
def CLK_STAT_SYSPLL_COAST : Fld := ⟨0x0, 0, 5, 1⟩
/-- R417 RO: 0 = XTAL; 1 = SYSPLL. -/
def CLK_STAT_ROOT_SRC : Fld := ⟨0x0, 0, 6, 1⟩
/-- R417 RO: 1 = a switch in progress on any selector. -/
def CLK_STAT_SW_BUSY : Fld := ⟨0x0, 0, 7, 1⟩
/-- R417 RO: 1 = KPLL locked. -/
def CLK_STAT_KPLL_LOCK : Fld := ⟨0x0, 0, 8, 1⟩
/-- R417 RO: As R406. -/
def CLK_STAT_KPLL_HOLD : Fld := ⟨0x0, 0, 9, 1⟩
/-- R417 RO: 0 to 3 = OSC0 to OSC3; 4 = XTAL; 7 = none. Bits [31:13] reserved. -/
def CLK_STAT_KPLL_SRC : Fld := ⟨0x0, 0, 10, 3⟩
/-- R417 W1C: [0] XTAL_LOST; [1] XTAL_BACK; [2] SYSPLL_UNLOCK; [3] SW_REFUSED; [4] CLK_SW_FORCED; [5]. -/
def CLK_EVT : Fld := ⟨0x4, 0, 0, 9⟩
/-- R417 RW: 0 = crystal; 1 = oscillator. Bits [31:1] reserved. -/
def CLK_XTAL_CFG : Fld := ⟨0x8, 0, 0, 1⟩
/-- R417 RO: Amplitude, % of nominal. -/
def CLK_XTAL_STAT_AMP : Fld := ⟨0xC, 0, 0, 8⟩
/-- R417 RO: Last frequency window against the AON clock, signed, 10⁻⁶. Bits [15:8] reserved. -/
def CLK_XTAL_STAT_FREQ_ERR : Fld := ⟨0xC, 0, 16, 16⟩
/-- R417 RW: 0 = XTAL; 1 = SYSPLL; a write requests a switch under R400; hardware sets 1 under R402. -/
def CLK_ROOT_SEL : Fld := ⟨0x10, 0, 0, 1⟩
/-- R417 RO: VCO band in use. -/
def CLK_SYSPLL_STAT_BAND : Fld := ⟨0x14, 0, 0, 6⟩
/-- R417 RO: Tuning voltage, 1/256 of range. -/
def CLK_SYSPLL_STAT_VTUNE : Fld := ⟨0x14, 0, 8, 8⟩
/-- R417 RO: Entries into coasting, saturating. Bits [7:6] reserved. -/
def CLK_SYSPLL_STAT_UNLOCKS : Fld := ⟨0x14, 0, 16, 16⟩
/-- R417 RO: KPLL source switches, saturating. -/
def CLK_KPLL_CNT_SWITCHES : Fld := ⟨0x18, 0, 0, 16⟩
/-- R417 RO: Entries into KPLL hold, saturating. -/
def CLK_KPLL_CNT_HOLDS : Fld := ⟨0x18, 0, 16, 16⟩
/-- R417 RO: Copy of R403; factory 1 for k = 0 to 3, 4 for k = 4. -/
def CLK_KPLL_SRC_FIN : Fld := ⟨0x20, 0x4, 0, 4⟩
/-- R417 RO: Copy of R403; factory k, 7 for XTAL. -/
def CLK_KPLL_SRC_PREF : Fld := ⟨0x20, 0x4, 4, 3⟩
/-- R417 RO: Copy of R403; factory 1. -/
def CLK_KPLL_SRC_ALLOWED : Fld := ⟨0x20, 0x4, 7, 1⟩
/-- R417 RO: 1 = ready under R404. Bits [31:9] reserved. -/
def CLK_KPLL_SRC_READY : Fld := ⟨0x20, 0x4, 8, 1⟩

/-! ### PWR (R418) -/
/-- R418 RO: 0 RUN; 1 DOZE; 2 BURY. Bits [31:2] reserved. -/
def PWR_STATE : Fld := ⟨0x40000, 0, 0, 2⟩
/-- R418 RW: As R413. -/
def PWR_CTRL_DOZE_EN : Fld := ⟨0x40004, 0, 0, 1⟩
/-- R418 W1C: As R415. Bits [31:2] reserved. -/
def PWR_CTRL_DEEP_REFUSED : Fld := ⟨0x40004, 0, 1, 1⟩
/-- R418 WO: 0xDEE9_0001 requests DEEP through PF0. -/
def PWR_DEEP : Fld := ⟨0x40008, 0, 0, 32⟩
/-- R418 RW: 1 = WAKE_N ends DEEP. -/
def PWR_WAKE_CFG_WAKE_PIN_EN : Fld := ⟨0x4000C, 0, 0, 1⟩
/-- R418 RW: 1 = PWR_WAKE_TIME ends DEEP. Bits [31:2] reserved. -/
def PWR_WAKE_CFG_TIMER_EN : Fld := ⟨0x4000C, 0, 1, 1⟩
/-- R418 RW: AON seconds after DEEP entry. -/
def PWR_WAKE_TIME : Fld := ⟨0x40010, 0, 0, 32⟩
/-- R418 WO: 0xC4E5_0001 applies a Chip reset through PF0. -/
def PWR_CHIP_RESET : Fld := ⟨0x40014, 0, 0, 32⟩
/-- R418 RO: 0 Cold; 1 VRST; 2 Kennel request; 3 PWR_CHIP_RESET; 4 exit from DEEP. Bits [31:3] reserved. -/
def PWR_RESET_CAUSE : Fld := ⟨0x40018, 0, 0, 3⟩
/-- R418 WO: As R407. -/
def PWR_GATE_CMD_UNIT : Fld := ⟨0x40020, 0, 0, 4⟩
/-- R418 WO: 0 GATE; 1 UNGATE; 2 FORCE; 3 BLOCK_RESET; the write starts the command. Bits [31:6] res. -/
def PWR_GATE_CMD_OP : Fld := ⟨0x40020, 0, 4, 2⟩
/-- R418 RO: Bit u = unit u gated. -/
def PWR_GATE_STAT_GATED : Fld := ⟨0x40024, 0, 0, 11⟩
/-- R418 RO: Bit u = unit u gated by FORCE and not yet reset. -/
def PWR_GATE_STAT_NEEDS_RESET : Fld := ⟨0x40024, 0, 16, 11⟩
/-- R418 RO: 1 = a command in progress. -/
def PWR_GATE_STAT_BUSY : Fld := ⟨0x40024, 0, 27, 1⟩
/-- R418 RO: 0 done; 1 GATE_BUSY; 2 GATE_REFUSED; 3 UNGATE_REFUSED; 4 CMD_REFUSED; 5 ABANDONED. Bits. -/
def PWR_GATE_STAT_LAST : Fld := ⟨0x40024, 0, 28, 3⟩
/-- R418 RW: Matrix cycles, 64 to 65,535; clamped. Bits [31:16] reserved. -/
def PWR_QUIESCE_TMO : Fld := ⟨0x40028, 0, 0, 16⟩
/-- R418 RO: Gates applied, saturating. -/
def PWR_GATE_CNT_GATES : Fld := ⟨0x4002C, 0, 0, 16⟩
/-- R418 RO: GATE_BUSY outcomes, saturating. -/
def PWR_GATE_CNT_BUSY_CNT : Fld := ⟨0x4002C, 0, 16, 16⟩
/-- R418 RO: 1 = a crossing beyond its limits. -/
def PWR_SKEW_STAT_ACTIVE : Fld := ⟨0x40040, 0, 0, 1⟩
/-- R418 RO: Code of R411 of the first active crossing. -/
def PWR_SKEW_STAT_CROSSING : Fld := ⟨0x40040, 0, 1, 4⟩
/-- R418 RO: Temperature cause. -/
def PWR_SKEW_STAT_TEMP : Fld := ⟨0x40040, 0, 5, 1⟩
/-- R418 RO: Voltage cause. -/
def PWR_SKEW_STAT_VOLT : Fld := ⟨0x40040, 0, 6, 1⟩
/-- R418 RO: Clock-ratio cause. -/
def PWR_SKEW_STAT_CLK : Fld := ⟨0x40040, 0, 7, 1⟩
/-- R418 RO: Entries into REGION_SKEW, saturating. Bits [15:8] reserved. -/
def PWR_SKEW_STAT_EVENTS : Fld := ⟨0x40040, 0, 16, 16⟩
/-- R418 RO: Region r temperature, signed, 1/16 °C, sampled each 1 ms. Bits [31:16] reserved. -/
def PWR_TEMP : Fld := ⟨0x40100, 0x4, 0, 16⟩
/-- R418 RO: Supply s, mV, sampled each 1 ms. Bits [31:16] reserved. -/
def PWR_VDD : Fld := ⟨0x40140, 0x4, 0, 16⟩

/-! ### AON (R432) -/
/-- R432 RO: VIN, mV. -/
def AON_VIN_STAT_VIN_MV : Fld := ⟨0x80000, 0, 0, 13⟩
/-- R432 RO: As R420. -/
def AON_VIN_STAT_HOLD_RDY : Fld := ⟨0x80000, 0, 13, 1⟩
/-- R432 RO: 1 = in BURY. -/
def AON_VIN_STAT_BURY_ACTIVE : Fld := ⟨0x80000, 0, 14, 1⟩
/-- R432 RO: 0 idle; 1 capture; 2 program; 3 verify; 4 committed; 5 retention only. Bits [31:18] res. -/
def AON_VIN_STAT_SAVE_STATE : Fld := ⟨0x80000, 0, 15, 3⟩
/-- R432 RO: VHOLD, mV. Bits [31:13] reserved. -/
def AON_VHOLD : Fld := ⟨0x80004, 0, 0, 13⟩
/-- R432 RW: As R420. Bits [31:1] reserved. -/
def AON_BURY_CFG : Fld := ⟨0x80008, 0, 0, 1⟩
/-- R432 W1C: [0] BURY_ENTERED; [1] SAVE_COMMITTED; [2] BROWNOUT_SURVIVED; [3] HOLD_LOW; [4] BONE_NO_. -/
def AON_BURY_EVT : Fld := ⟨0x8000C, 0, 0, 7⟩
/-- R432 RO: Entries into BURY. -/
def AON_BURY_CNT_SAGS : Fld := ⟨0x80010, 0, 0, 16⟩
/-- R432 RO: BURY ended in survival. -/
def AON_BURY_CNT_SURVIVED : Fld := ⟨0x80010, 0, 16, 16⟩
/-- R432 RO: SEQ of the newest committed Bone. -/
def AON_BONE_SEQ : Fld := ⟨0x80014, 0, 0, 32⟩
/-- R432 RO: Slot restored. -/
def AON_BONE_LAST_SLOT : Fld := ⟨0x80018, 0, 0, 14⟩
/-- R432 RO: 0 none; 1 retention; 2 KSPI. -/
def AON_BONE_LAST_SRC : Fld := ⟨0x80018, 0, 14, 2⟩
/-- R432 RO: 1 = STALE_N was 0xFF. -/
def AON_BONE_LAST_FRESH : Fld := ⟨0x80018, 0, 16, 1⟩
/-- R432 RO: As R429. Bits [23:17] reserved. -/
def AON_BONE_LAST_BONE_TORN : Fld := ⟨0x80018, 0, 24, 8⟩
/-- R432 RO: AON seconds since the last commit; 0xFFFF_FFFF = unknown. -/
def AON_BONE_AGE : Fld := ⟨0x8001C, 0, 0, 32⟩
/-- R432 RO: Estimate of R431, TAI seconds. Word 1 bits [31:16] reserved. -/
def AON_BONE_EST : Fld := ⟨0x80020, 0, 0, 48⟩
/-- R432 RO: Its uncertainty, ms; 0xFFFF_FFFF = none. -/
def AON_BONE_UNC : Fld := ⟨0x80028, 0, 0, 32⟩

/-! ### SEC (R452) -/
/-- R452 RO: Device identity, byte 0 in ID0 [7:0]. -/
def SEC_ID : Fld := ⟨0x100000, 0, 0, 128⟩
/-- R452 RO: 0 BLANK; 1 FACTORY; 2 SEALED; 3 SERVICE; 4 RETIRED. -/
def SEC_STATE_LC : Fld := ⟨0x100010, 0, 0, 3⟩
/-- R452 RO: 0 CLOSED; 1 OBSERVE; 2 INVASIVE. -/
def SEC_STATE_DBG : Fld := ⟨0x100010, 0, 3, 2⟩
/-- R452 RO: Worlds permitted: [5] Kennel; [6] Serve; [7] Host; [8] Debug. -/
def SEC_STATE_WORLDS : Fld := ⟨0x100010, 0, 5, 4⟩
/-- R452 RO: 1 = KS0 has been written. Bits [31:10] reserved. -/
def SEC_STATE_TK_USED : Fld := ⟨0x100010, 0, 9, 1⟩
/-- R452 W1C: [0] KUM_DONE; [1] KUM_FAIL; [2] SLOT_BAD; [3] SLOT_REPAIRED; [4] DBG_OPENED; [5] DBG_CL. -/
def SEC_EVT : Fld := ⟨0x100014, 0, 0, 8⟩
/-- R452 WO: 1 OBSERVE; 2 INVASIVE; 3 CLOSE; under R448. Bits [31:2] reserved. -/
def SEC_DBG_REQ : Fld := ⟨0x100020, 0, 0, 2⟩
/-- R452 RO: s left on the token timer; 0 without a timer. -/
def SEC_DBG_STAT_REMAIN : Fld := ⟨0x100024, 0, 0, 17⟩
/-- R452 RO: 0 done; 1 state; 2 power; 3 audit. Bits [19:17], [31:24] reserved. -/
def SEC_DBG_STAT_LAST : Fld := ⟨0x100024, 0, 20, 4⟩
/-- R452 RO: Bit k = KSk VALID. -/
def SEC_SLOT_VALID : Fld := ⟨0x100030, 0, 0, 32⟩
/-- R452 RO: Bit k = KSk unusable under R435. -/
def SEC_SLOT_BAD : Fld := ⟨0x100034, 0, 0, 32⟩
/-- R452 RO: 1 = load in progress. -/
def SEC_WKR_STAT_BUSY : Fld := ⟨0x100040, 0, 0, 1⟩
/-- R452 RO: Requests waiting, 0 to 4. -/
def SEC_WKR_STAT_QDEPTH : Fld := ⟨0x100040, 0, 1, 3⟩
/-- R452 RO: Slot of the last load. -/
def SEC_WKR_STAT_LAST_SLOT : Fld := ⟨0x100040, 0, 4, 5⟩
/-- R452 RO: 0 verifier; 1 KUM opener; 2 cookie unit; 3 PCK. -/
def SEC_WKR_STAT_LAST_CONS : Fld := ⟨0x100040, 0, 9, 2⟩
/-- R452 RO: 0 loaded; 1 not VALID; 2 BAD; 3 USE; 4 LC_MASK; 5 ORIGIN; 6 DBG_OK; 7 power. Bits [11],. -/
def SEC_WKR_STAT_LAST_RESULT : Fld := ⟨0x100040, 0, 12, 4⟩
/-- R452 RO: Loads completed. -/
def SEC_WKR_CNT_LOADS : Fld := ⟨0x100044, 0, 0, 16⟩
/-- R452 RO: Loads refused. -/
def SEC_WKR_CNT_REFUSED : Fld := ⟨0x100044, 0, 16, 16⟩
/-- R452 RO: Serve measurement of R440. -/
def SEC_SERVE_MEAS : Fld := ⟨0x100060, 0, 0, 256⟩
/-- R452 RO: Host measurement of R440. -/
def SEC_HOST_MEAS : Fld := ⟨0x100080, 0, 0, 256⟩
/-- R452 WO: The write of EXT7 extends SEC_HOST_MEAS. -/
def SEC_HOST_EXT : Fld := ⟨0x1000A0, 0, 0, 256⟩
/-- R452 WO: KUM of R441, byte 0 in BUF0 [7:0]. -/
def SEC_KUM_BUF : Fld := ⟨0x100400, 0, 0, 896⟩
/-- R452 WO: Starts the KUM under R442. Bits [31:1] reserved. -/
def SEC_KUM_GO : Fld := ⟨0x100470, 0, 0, 1⟩
/-- R452 RO: 1 = KUM in progress. -/
def SEC_KUM_STAT_BUSY : Fld := ⟨0x100474, 0, 0, 1⟩
/-- R452 RO: 1 = refused under R444. -/
def SEC_KUM_STAT_LOCK : Fld := ⟨0x100474, 0, 1, 1⟩
/-- R452 RO: Result of the last KUM, as R442 and R443. Bits [3:2], [31:8] reserved. -/
def SEC_KUM_STAT_RESULT : Fld := ⟨0x100474, 0, 4, 4⟩
/-- R452 RO: Counter of the last accepted KUM. -/
def SEC_KUM_CNT : Fld := ⟨0x100478, 0, 0, 64⟩
/-- R452 RO: KUMs refused. -/
def SEC_KUM_TALLY_FAILS : Fld := ⟨0x100480, 0, 0, 16⟩
/-- R452 RO: KUMs accepted. -/
def SEC_KUM_TALLY_ACCEPTED : Fld := ⟨0x100480, 0, 16, 16⟩
/-- R452 RO: ATTR of KSk, as R436. -/
def SEC_SLOT_ATTR : Fld := ⟨0x100100, 0x4, 0, 32⟩
/-- R452 RO: GEN of KSk. Bits [31:16] reserved. -/
def SEC_SLOT_GEN : Fld := ⟨0x100180, 0x4, 0, 16⟩

/-! ### FLT (R465) -/
/-- R465 RO: 1 = a class C status bit set. -/
def FLT_STAT_ANY_C : Fld := ⟨0x200000, 0, 0, 1⟩
/-- R465 RO: 1 = a class U status bit set. -/
def FLT_STAT_ANY_U : Fld := ⟨0x200000, 0, 1, 1⟩
/-- R465 RO: 1 = a class F status bit set. -/
def FLT_STAT_ANY_F : Fld := ⟨0x200000, 0, 2, 1⟩
/-- R465 RO: 1 = BARK_N asserted. Bits [31:4] reserved. -/
def FLT_STAT_BARK : Fld := ⟨0x200000, 0, 3, 1⟩
/-- R465 RW: 1 = CHIP performed without a serving partner (R457). -/
def FLT_CFG_CHIP_ALONE : Fld := ⟨0x200004, 0, 0, 1⟩
/-- R465 RW: 1 = BARK_N asserted. Bits [31:2] reserved. -/
def FLT_CFG_BARK_TEST : Fld := ⟨0x200004, 0, 1, 1⟩
/-- R465 RO: As R460. -/
def FLT_FIRST_FS : Fld := ⟨0x200008, 0, 0, 8⟩
/-- R465 RO: 1 U; 2 F. -/
def FLT_FIRST_CLASS : Fld := ⟨0x200008, 0, 8, 2⟩
/-- R465 W1C: 1 = capture held. Bits [30:10] reserved. -/
def FLT_FIRST_VALID : Fld := ⟨0x200008, 0, 31, 1⟩
/-- R465 RO: RT of the capture, T96. -/
def FLT_FIRST_RT : Fld := ⟨0x20000C, 0, 0, 96⟩
/-- R465 RO: BLOCK reactions merged or not performed. -/
def FLT_CNT_BLOCK_SKIPPED : Fld := ⟨0x200018, 0, 0, 16⟩
/-- R465 RO: CHIP reactions withheld under R457. -/
def FLT_CNT_CHIP_WITHHELD : Fld := ⟨0x200018, 0, 16, 16⟩
/-- R465 RW: ms, 10 to 10,000; clamped. Bits [31:14] reserved. -/
def FLT_GUARD_CFG : Fld := ⟨0x200020, 0, 0, 14⟩
/-- R465 RO: As R461. -/
def FLT_GUARD_STAT_STATE : Fld := ⟨0x200024, 0, 0, 3⟩
/-- R465 RO: Misses within the last 600 s, 0 to 3. -/
def FLT_GUARD_STAT_MISSES : Fld := ⟨0x200024, 0, 3, 2⟩
/-- R465 RO: Recovery reloads. Bits [15:5] reserved. -/
def FLT_GUARD_STAT_RELOADS : Fld := ⟨0x200024, 0, 16, 16⟩
/-- R465 WO: PF0 only; as R461. Bits [31:1] reserved. -/
def FLT_GUARD_CTRL : Fld := ⟨0x200028, 0, 0, 1⟩
/-- R465 RO: FLT_FIRST.FS at the last Chip reset. -/
def FLT_STICKY_FS : Fld := ⟨0x200030, 0, 0, 8⟩
/-- R465 RO: Its class. -/
def FLT_STICKY_CLASS : Fld := ⟨0x200030, 0, 8, 2⟩
/-- R465 W1C: 1 = capture held. -/
def FLT_STICKY_VALID : Fld := ⟨0x200030, 0, 10, 1⟩
/-- R465 W1C: As R458. Bits [31:12] reserved. -/
def FLT_STICKY_PIN_HELD : Fld := ⟨0x200030, 0, 11, 1⟩
/-- R465 WO: Raises SW_FAULTn. Bits [31:4] reserved. -/
def FLT_RAISE : Fld := ⟨0x200038, 0, 0, 4⟩
/-- R465 W1C: Bit b = FS(32w + b) raised; as R460. -/
def FLT_STATUS : Fld := ⟨0x200100, 0x4, 0, 32⟩
/-- R465 RO: Bit b = level condition of FS(32w + b) present. -/
def FLT_ACTIVE : Fld := ⟨0x200120, 0x4, 0, 32⟩
/-- R465 RW: [0] IRQ; [1] NMI; [2] BLOCK; [3] CHIP; [4] PIN; [5] LOG; fixed bits under R456. -/
def FLT_REACT_REACT : Fld := ⟨0x200400, 0x4, 0, 6⟩
/-- R465 RO: 0 C; 1 U; 2 F. -/
def FLT_REACT_CLASS : Fld := ⟨0x200400, 0x4, 8, 2⟩
/-- R465 RO: Default reactions, bit order of [5:0]. -/
def FLT_REACT_DEFAULT : Fld := ⟨0x200400, 0x4, 10, 6⟩
/-- R465 RO: 1 = level source. Bits [7:6], [31:17] reserved. -/
def FLT_REACT_LEVEL : Fld := ⟨0x200400, 0x4, 16, 1⟩
/-- R465 RO: Times FSk raised. Bits [31:16] reserved. -/
def FLT_COUNT : Fld := ⟨0x200800, 0x4, 0, 16⟩

/-! ### OBS (R469, R471, R473, R480) -/
/-- R480 W1C: [0] SNAP_READY; [1] SNAP_LOST; [2] SMP_READY; [3] SMP_LOST; [4] TEL_READY; [5] TEL_LIMI. -/
def OBS_EVT : Fld := ⟨0x300000, 0, 0, 10⟩
/-- R480 RW: Bit order of OBS_EVT, under R475. Bits [31:10] reserved. -/
def OBS_IRQ_EN : Fld := ⟨0x300004, 0, 0, 10⟩
/-- R480 WO: Takes a snapshot. Bits [31:1] reserved. -/
def OBS_SNAP : Fld := ⟨0x300008, 0, 0, 1⟩
/-- R480 RW: ms, 0 = off, 1 to 1,000; clamped. -/
def OBS_SNAP_CFG_SNAP_MS : Fld := ⟨0x30000C, 0, 0, 10⟩
/-- R480 RW: Entries, 1 to 64; clamped. Bits [15:10], [31:23] reserved. -/
def OBS_SNAP_CFG_THRESH : Fld := ⟨0x30000C, 0, 16, 7⟩
/-- R480 RO: Entries written. Bits [31:16] reserved. -/
def OBS_SNAP_WR : Fld := ⟨0x300010, 0, 0, 16⟩
/-- R480 RW: Entries taken. Bits [31:16] reserved. -/
def OBS_SNAP_RD : Fld := ⟨0x300014, 0, 0, 16⟩
/-- R480 RO: Snapshots lost. -/
def OBS_SNAP_LOST : Fld := ⟨0x300018, 0, 0, 32⟩
/-- R480 RO: Sampling records lost. -/
def OBS_SMP_LOST : Fld := ⟨0x300028, 0, 0, 32⟩
/-- R480 RW: Entries, 1 to 8,192; clamped. Bits [31:14] reserved. -/
def OBS_SMP_THRESH : Fld := ⟨0x30002C, 0, 0, 14⟩
/-- R480 RW: ms, 100 to 60,000; clamped. -/
def OBS_TEL_CFG_TEL_PERIOD : Fld := ⟨0x300040, 0, 0, 16⟩
/-- R480 RW: Entries, 1 to 255. Bits [31:24] reserved. -/
def OBS_TEL_CFG_THRESH : Fld := ⟨0x300040, 0, 16, 8⟩
/-- R480 RO: Telemetry records lost. -/
def OBS_TEL_LOST : Fld := ⟨0x30004C, 0, 0, 32⟩
/-- R480 RW: Signed 1/16 °C; +115 °C at reset. -/
def OBS_TEL_LIM_TEMP_HI : Fld := ⟨0x300050, 0, 0, 16⟩
/-- R480 RW: Signed 1/16 °C; −40 °C at reset. -/
def OBS_TEL_LIM_TEMP_LO : Fld := ⟨0x300050, 0, 16, 16⟩
/-- R480 W1C: Bit r = region r outside its limits. Bits [31:13] reserved. -/
def OBS_TEL_STAT : Fld := ⟨0x300054, 0, 0, 13⟩
/-- R480 W1C: Bit s = supply s outside its limits. Bits [31:13] reserved. -/
def OBS_TEL_VSTAT : Fld := ⟨0x300058, 0, 0, 13⟩
/-- R480 RW: Hours, 1 to 24; clamped. Bits [31:5] reserved. -/
def OBS_SCRUB_CFG : Fld := ⟨0x300060, 0, 0, 5⟩
/-- R480 RO: Lines scrubbed in the current pass. Bits [31:19] reserved. -/
def OBS_SCRUB_STAT : Fld := ⟨0x300064, 0, 0, 19⟩
/-- R480 RO: Passes completed. -/
def OBS_SCRUB_PASSES_PASSES : Fld := ⟨0x300068, 0, 0, 16⟩
/-- R480 RO: Passes over PASS_H. -/
def OBS_SCRUB_PASSES_LATE : Fld := ⟨0x300068, 0, 16, 16⟩
/-- R480 RO: Address of the last uncorrectable word, under R478. -/
def OBS_SCRUB_ERR : Fld := ⟨0x30006C, 0, 0, 32⟩
/-- R480 RO: Words corrected. -/
def OBS_SCRUB_CNT_CORRECTED : Fld := ⟨0x300070, 0, 0, 16⟩
/-- R480 RO: Cycles stolen under R477. -/
def OBS_SCRUB_CNT_STEALS : Fld := ⟨0x300070, 0, 16, 16⟩
/-- R480 RW: Event number of R466. -/
def OBS_CNT_SEL_EVENT : Fld := ⟨0x301000, 0x10, 0, 16⟩
/-- R480 RW: As R467. -/
def OBS_CNT_SEL_MODE : Fld := ⟨0x301000, 0x10, 16, 2⟩
/-- R480 RW: Occupancy threshold. -/
def OBS_CNT_SEL_THRESH : Fld := ⟨0x301000, 0x10, 18, 10⟩
/-- R480 RW: 1 = counting. Bits [30:28] reserved. -/
def OBS_CNT_SEL_ENABLE : Fld := ⟨0x301000, 0x10, 31, 1⟩
/-- R480 RW: Value; wraps. Word 1 bits [31:16] reserved. -/
def OBS_CNT : Fld := ⟨0x301004, 0x10, 0, 48⟩
/-- R480 RO: As the snapshot ring. -/
def OBS_SMP_WR : Fld := ⟨0x300020, 0, 0, 16⟩
/-- R480 RW: As the snapshot ring. -/
def OBS_SMP_RD : Fld := ⟨0x300024, 0, 0, 16⟩
/-- R480 RO: As the snapshot ring. -/
def OBS_TEL_WR : Fld := ⟨0x300044, 0, 0, 16⟩
/-- R480 RW: As the snapshot ring. -/
def OBS_TEL_RD : Fld := ⟨0x300048, 0, 0, 16⟩
/-- R480 RW: mV; 0 = no lower limit. -/
def OBS_TEL_VLIM_LO : Fld := ⟨0x300080, 0x4, 0, 13⟩
/-- R480 RW: mV; 0x1FFF = no upper limit. Bits [15:13], [31:29] reserved. -/
def OBS_TEL_VLIM_HI : Fld := ⟨0x300080, 0x4, 16, 13⟩
/-- R480 RW: 1 = sample under R470. -/
def OBS_SMP_CFG_ENABLE : Fld := ⟨0x302000, 0x20, 0, 1⟩
/-- R480 RW: 1 = PMARK records under R471. -/
def OBS_SMP_CFG_MARKS : Fld := ⟨0x302000, 0x20, 1, 1⟩
/-- R480 RW: Retired instructions, 16 to 1,048,575; clamped. -/
def OBS_SMP_CFG_PERIOD : Fld := ⟨0x302000, 0x20, 2, 20⟩
/-- R480 RW: Randomised low bits, 0 to 8; clamped. Bits [31:26] reserved. -/
def OBS_SMP_CFG_JITTER : Fld := ⟨0x302000, 0x20, 22, 4⟩
/-- R480 RO: Records written for the engine; wraps. -/
def OBS_SMP_CNT : Fld := ⟨0x302004, 0x20, 0, 32⟩
/-- R480 RO: Slots of R472, 64 bits each, in that order; wrap. A read of +0x00 latches all fourteen . -/
def OBS_TD_ISSUE : Fld := ⟨0x303000, 0x40, 0, 64⟩
/-- R480 RO: Slots of R472, 64 bits each, in that order; wrap. A read of +0x00 latches all fourteen . -/
def OBS_TD_EXEC : Fld := ⟨0x303008, 0x40, 0, 64⟩
/-- R480 RO: Slots of R472, 64 bits each, in that order; wrap. A read of +0x00 latches all fourteen . -/
def OBS_TD_REDIRECT : Fld := ⟨0x303010, 0x40, 0, 64⟩
/-- R480 RO: Slots of R472, 64 bits each, in that order; wrap. A read of +0x00 latches all fourteen . -/
def OBS_TD_DEP : Fld := ⟨0x303018, 0x40, 0, 64⟩
/-- R480 RO: Slots of R472, 64 bits each, in that order; wrap. A read of +0x00 latches all fourteen . -/
def OBS_TD_MTX : Fld := ⟨0x303020, 0x40, 0, 64⟩
/-- R480 RO: Slots of R472, 64 bits each, in that order; wrap. A read of +0x00 latches all fourteen . -/
def OBS_TD_DRAIN : Fld := ⟨0x303028, 0x40, 0, 64⟩
/-- R480 RO: Slots of R472, 64 bits each, in that order; wrap. A read of +0x00 latches all fourteen . -/
def OBS_TD_TKT : Fld := ⟨0x303030, 0x40, 0, 64⟩
/-- R469 RO: Snapshot ring. -/
def OBS_SNAP_WIN : Fld := ⟨0x310000, 0x4, 0, 32⟩
/-- R471 RO: Sampling ring. -/
def OBS_SMP_WIN : Fld := ⟨0x340000, 0x4, 0, 32⟩
/-- R473 RO: Telemetry ring. -/
def OBS_TEL_WIN : Fld := ⟨0x380000, 0x4, 0, 32⟩

/-! ### MTX (R394) -/
/-- R394 RW: Bit m = master m in the high class. -/
def MTX_PRIO : Fld := ⟨0x400000, 0, 0, 16⟩
/-- R394 RW: Grants, 1 to 255; 0 reads as 1. Bits [31:8] reserved. -/
def MTX_STARVE : Fld := ⟨0x400004, 0, 0, 8⟩
/-- R394 RO: Bit t = target t HUNG; cleared by a Block reset of its block. Bits [0], [31:11] reserved. -/
def MTX_TGT_STAT : Fld := ⟨0x400008, 0, 1, 10⟩
/-- R394 W1C: [0] UNMAPPED; [1] TIMEOUT; [2] MASTER_RESET_CUT. Bits [31:3] reserved. -/
def MTX_EVT : Fld := ⟨0x40000C, 0, 0, 3⟩
/-- R394 RO: Matrix address of the first recorded error. -/
def MTX_ERR_ADDR : Fld := ⟨0x400010, 0, 0, 32⟩
/-- R394 RO: Master ID. -/
def MTX_ERR_INFO_MASTER : Fld := ⟨0x400014, 0, 0, 4⟩
/-- R394 RO: Target ID. -/
def MTX_ERR_INFO_TARGET : Fld := ⟨0x400014, 0, 4, 4⟩
/-- R394 RO: 1 = write. -/
def MTX_ERR_INFO_WRITE : Fld := ⟨0x400014, 0, 8, 1⟩
/-- R394 RO: 0 unmapped; 1 timeout; 2 HUNG; 3 FORCE gate. -/
def MTX_ERR_INFO_KIND : Fld := ⟨0x400014, 0, 9, 2⟩
/-- R394 W1C: 1 = record held; writing 1 frees MTX_ERR_ADDR and MTX_ERR_INFO. Bits [30:11] reserved. -/
def MTX_ERR_INFO_VALID : Fld := ⟨0x400014, 0, 31, 1⟩
/-- R394 RO: Error responses of R391. -/
def MTX_CNT_ERR : Fld := ⟨0x400018, 0, 0, 32⟩
/-- R394 RO: Timeouts. -/
def MTX_CNT_TMO_TIMEOUTS : Fld := ⟨0x40001C, 0, 0, 16⟩
/-- R394 RO: Bursts completed under R393. -/
def MTX_CNT_TMO_CUTS : Fld := ⟨0x40001C, 0, 16, 16⟩
/-- R394 RO: Cycles in which master m had a request held under R390. -/
def MTX_HELD : Fld := ⟨0x400100, 0x4, 0, 32⟩

/-! ### HST (R383) -/
/-- R383 RO: 0 down; 1 2.5; 2 5; 3 8; 4 16 GT/s. -/
def HST_LINK_SPEED : Fld := ⟨0x500000, 0, 0, 3⟩
/-- R383 RO: Lanes, 1, 2 or 4. Bits [31:7] reserved. -/
def HST_LINK_WIDTH : Fld := ⟨0x500000, 0, 3, 4⟩
/-- R383 RW: As R369. PF0 only. Bits [31:1] reserved. -/
def HST_CFG : Fld := ⟨0x500004, 0, 0, 1⟩
/-- R383 RW: µs, 50 to 64,000; clamped; 10,000 at reset. PF0 only. Bits [31:16] reserved. -/
def HST_CPL_TMO : Fld := ⟨0x500008, 0, 0, 16⟩
/-- R383 RO: BME [3:0], FLR_ACTIVE [7:4], MEM_EN [11:8]; bit n = PFn. Bits [31:12] reserved. -/
def HST_FN_STAT : Fld := ⟨0x50000C, 0, 0, 12⟩
/-- R383 W1C: [3:0] FLR_DONE per function; [4] HOST_UNMAPPED; [5] RO_WRITE; [6] UNEXP_CPL; [7] FWD_DR. -/
def HST_EVT : Fld := ⟨0x500010, 0, 0, 8⟩
/-- R383 RO: Accesses under R26. -/
def HST_CNT_UNMAPPED : Fld := ⟨0x500014, 0, 0, 32⟩
/-- R383 RO: Late completions under R379. -/
def HST_CNT_UNEXP_CPL : Fld := ⟨0x500018, 0, 0, 32⟩
/-- R383 RO: Writes discarded under R364. -/
def HST_CNT_ROWRITE : Fld := ⟨0x50001C, 0, 0, 32⟩
/-- R383 WO: Sets bits in HST_H_DBELL_PEND. -/
def HST_H_DBELL : Fld := ⟨0x500020, 0, 0, 32⟩
/-- R383 W1C: Engine-to-host doorbell bits. -/
def HST_H_DBELL_PEND : Fld := ⟨0x500024, 0, 0, 32⟩
/-- R383 W1C: Bit s = source s pending, under R366. -/
def HST_IRQ_PEND : Fld := ⟨0x500030, 0, 0, 64⟩
/-- R383 RW: Shared SRAM address, 2,048-byte aligned; bits [10:0] read 0. -/
def HST_FWD_BASE : Fld := ⟨0x500300, 0, 0, 32⟩
/-- R383 RW: 1 = host-forward ring in use. -/
def HST_FWD_CFG_ENABLE : Fld := ⟨0x500304, 0, 0, 1⟩
/-- R383 RW: 4 to 10; clamped. Bits [31:5] reserved. -/
def HST_FWD_CFG_SIZE_LOG2 : Fld := ⟨0x500304, 0, 1, 4⟩
/-- R383 RO: Entries written. Bits [31:16] reserved. -/
def HST_FWD_WR : Fld := ⟨0x500308, 0, 0, 16⟩
/-- R383 RW: Entries taken. Bits [31:16] reserved. -/
def HST_FWD_RD : Fld := ⟨0x50030C, 0, 0, 16⟩
/-- R383 RO: Frames dropped under R370. -/
def HST_FWD_DROP : Fld := ⟨0x500310, 0, 0, 32⟩
/-- R383 RW: Function for source s, 0 to 63. PF0 only. -/
def HST_IRQ_ROUTE_FN : Fld := ⟨0x500100, 0x4, 0, 2⟩
/-- R383 RW: Vector within that function's table; a value beyond the table reads as its last vector. -/
def HST_IRQ_ROUTE_VEC : Fld := ⟨0x500100, 0x4, 2, 5⟩
/-- R383 RW: 1 = routed. Bits [31:8] reserved. -/
def HST_IRQ_ROUTE_EN : Fld := ⟨0x500100, 0x4, 7, 1⟩
/-- R383 RW: µs between messages of vector v. v = 0 to 31 PF0, 32 to 47 PF1, 48 to 55 PF2, 56 to 63 . -/
def HST_VEC_HOLDOFF : Fld := ⟨0x500200, 0x4, 0, 16⟩

/-! ### FCH (R384) -/
/-- R384 RO: Bit c = Fc RUNNING. -/
def FCH_STAT_RUNNING : Fld := ⟨0x600000, 0, 0, 16⟩
/-- R384 RO: Bit c = Fc HALTED. -/
def FCH_STAT_HALTED : Fld := ⟨0x600000, 0, 16, 16⟩
/-- R384 RW: Owning function. PF0 only; written only while DISABLED. -/
def FCH_CH_CFG_FN : Fld := ⟨0x601000, 0x100, 0, 2⟩
/-- R384 RW: 1 = channel in use. -/
def FCH_CH_CFG_ENABLE : Fld := ⟨0x601000, 0x100, 2, 1⟩
/-- R384 RW: 1 to 15; 0 reads as 1. Bits [31:7] reserved. -/
def FCH_CH_CFG_WEIGHT : Fld := ⟨0x601000, 0x100, 3, 4⟩
/-- R384 RW: Descriptors per chain, 1 to 65,535; 0 reads as 1. Bits [31:16] reserved. -/
def FCH_CH_HOP_MAX : Fld := ⟨0x601004, 0x100, 0, 16⟩
/-- R384 RW: First descriptor of a chain; the write of HEAD1 queues it under R372. -/
def FCH_CH_HEAD : Fld := ⟨0x601008, 0x100, 0, 64⟩
/-- R384 RW: Status-record address; 0 = none. -/
def FCH_CH_WB : Fld := ⟨0x601010, 0x100, 0, 64⟩
/-- R384 WO: Under R379. -/
def FCH_CH_CTRL_ABORT : Fld := ⟨0x601018, 0x100, 0, 1⟩
/-- R384 WO: HALTED to IDLE, queue kept. -/
def FCH_CH_CTRL_CLEAR : Fld := ⟨0x601018, 0x100, 1, 1⟩
/-- R384 WO: HALTED to IDLE, queue discarded. Bits [31:3] reserved. -/
def FCH_CH_CTRL_FLUSH : Fld := ⟨0x601018, 0x100, 2, 1⟩
/-- R384 RO: As R371. -/
def FCH_CH_STAT_STATE : Fld := ⟨0x60101C, 0x100, 0, 2⟩
/-- R384 RO: Chains queued, 0 to 8. -/
def FCH_CH_STAT_QDEPTH : Fld := ⟨0x60101C, 0x100, 4, 4⟩
/-- R384 RO: STATUS of the last chain ended. -/
def FCH_CH_STAT_LAST_STATUS : Fld := ⟨0x60101C, 0x100, 8, 8⟩
/-- R384 RO: TAG of the status record. Bits [3:2] reserved. -/
def FCH_CH_STAT_TAG : Fld := ⟨0x60101C, 0x100, 16, 16⟩
/-- R384 RO: As R377. Bits [31:24] reserved. -/
def FCH_CH_RESID : Fld := ⟨0x601020, 0x100, 0, 24⟩
/-- R384 RO: As R377. -/
def FCH_CH_CUR : Fld := ⟨0x601024, 0x100, 0, 64⟩
/-- R384 RO: As R377. -/
def FCH_CH_DCNT : Fld := ⟨0x60102C, 0x100, 0, 32⟩
/-- R384 RO: As R377. -/
def FCH_CH_DCRC : Fld := ⟨0x601030, 0x100, 0, 32⟩
/-- R384 W1C: [0] DONE; [1] HALT; [2] DBELL_OVF; [3] DBELL_REFUSED; [4] PROGRESS. Bits [31:5] reserved. -/
def FCH_CH_EVT : Fld := ⟨0x601034, 0x100, 0, 5⟩
/-- R384 RO: Chains ended; wraps. -/
def FCH_CH_SEQ : Fld := ⟨0x601038, 0x100, 0, 32⟩
/-- R384 RO: Bytes moved; 64 bits; wraps. -/
def FCH_CH_BYTES : Fld := ⟨0x601040, 0x100, 0, 64⟩

/-! ### KNL (R59, R85) -/
/-- R59 RO: Time-source state. 0 = SN_BOOT; 1 = LC; 2 = SN_RECOVERY; 3 = SN_TEST. -/
def KNL_TIME_MODE_MODE : Fld := ⟨0x1002000, 0, 0, 2⟩
/-- R59 RO: 1 = a change of source armed: a handover, or the move into SN_TEST or SN_RECOVERY. -/
def KNL_TIME_MODE_ARMED : Fld := ⟨0x1002000, 0, 2, 1⟩
/-- R59 RO: 1 = slew term non-zero. -/
def KNL_TIME_MODE_SLEWING : Fld := ⟨0x1002000, 0, 3, 1⟩
/-- R59 RO: Version of the set in force; increments at each update and wraps. -/
def KNL_TIME_MODE_CSET_VER : Fld := ⟨0x1002000, 0, 16, 16⟩
/-- R59 W1C: PHASE above JUMP_MAX refused. -/
def KNL_TIME_STAT_JUMP_REFUSED : Fld := ⟨0x1002004, 0, 0, 1⟩
/-- R59 W1C: SLEW_REQ above SLEW_MAX. -/
def KNL_TIME_STAT_SLEW_CLAMPED : Fld := ⟨0x1002004, 0, 1, 1⟩
/-- R59 W1C: Update refused because \. -/
def KNL_TIME_STAT_RATE_RANGE : Fld := ⟨0x1002004, 0, 2, 1⟩
/-- R59 W1C: Pending firmware update replaced. -/
def KNL_TIME_STAT_UPD_REPLACED : Fld := ⟨0x1002004, 0, 3, 1⟩
/-- R59 W1C: Firmware update deferred by the 1 ms spacing. -/
def KNL_TIME_STAT_UPD_DEFERRED : Fld := ⟨0x1002004, 0, 4, 1⟩
/-- R59 W1C: Step order applied. -/
def KNL_TIME_STAT_STEP_DONE : Fld := ⟨0x1002004, 0, 5, 1⟩
/-- R59 W1C: Step order refused. -/
def KNL_TIME_STAT_STEP_REFUSED : Fld := ⟨0x1002004, 0, 6, 1⟩
/-- R59 W1C: Request refused under R52: while a change of source was armed; handover with non-zero P. -/
def KNL_TIME_STAT_BUSY_REFUSED : Fld := ⟨0x1002004, 0, 7, 1⟩
/-- R59 W1C: Time source changed. -/
def KNL_TIME_STAT_HANDOVER_DONE : Fld := ⟨0x1002004, 0, 8, 1⟩
/-- R59 W1C: SN_RECOVERY entered. -/
def KNL_TIME_STAT_SN_ENTERED : Fld := ⟨0x1002004, 0, 9, 1⟩
/-- R59 W1C: Uncorrectable error in a correction-set copy. -/
def KNL_TIME_STAT_CSET_ECC : Fld := ⟨0x1002004, 0, 10, 1⟩
/-- R59 W1C: Conversion of an LC older than the history. -/
def KNL_TIME_STAT_LC_TOO_OLD : Fld := ⟨0x1002004, 0, 11, 1⟩
/-- R59 W1C: UTC sources disagree. -/
def KNL_TIME_STAT_UTC_CONFLICT : Fld := ⟨0x1002004, 0, 12, 1⟩
/-- R59 W1C: Leap announcement refused as too late. -/
def KNL_TIME_STAT_UTC_LATE : Fld := ⟨0x1002004, 0, 13, 1⟩
/-- R59 W1C: UTC offset changed at a leap second. -/
def KNL_TIME_STAT_LEAP_DONE : Fld := ⟨0x1002004, 0, 14, 1⟩
/-- R59 W1C: KNL_SN_LOAD3 written outside SN_BOOT. -/
def KNL_TIME_STAT_SN_LOAD_REFUSED : Fld := ⟨0x1002004, 0, 15, 1⟩
/-- R59 W1C: Firmware update refused because the time source was in an SN state (R49). -/
def KNL_TIME_STAT_SN_UPD_REFUSED : Fld := ⟨0x1002004, 0, 16, 1⟩
/-- R59 RWS: Increment bits [31:0], the hidden fraction. Factory 0x7B08_175F. -/
def KNL_LC_INC0 : Fld := ⟨0x1002008, 0, 0, 32⟩
/-- R59 RWS: Increment bits [63:32]. Factory 0x0003_9442. -/
def KNL_LC_INC1 : Fld := ⟨0x100200C, 0, 0, 32⟩
/-- R59 RO: LC at the latching tick, lowest word first. -/
def KNL_SNAP_LC : Fld := ⟨0x1002010, 0, 0, 96⟩
/-- R59 RO: RT as T96 at the same tick. -/
def KNL_SNAP_RT : Fld := ⟨0x100201C, 0, 0, 96⟩
/-- R59 RO: OFS of the set in force, as T96. -/
def KNL_OFS : Fld := ⟨0x1002030, 0, 0, 96⟩
/-- R59 RO: ANCHOR of the set in force. -/
def KNL_ANCHOR : Fld := ⟨0x1002040, 0, 0, 96⟩
/-- R59 RO: RATE, signed, in units of 2⁻⁶⁴. -/
def KNL_RATE : Fld := ⟨0x1002050, 0, 0, 64⟩
/-- R59 RO: CSET_VER of the set latched with KNL_OFS, KNL_ANCHOR and KNL_RATE by a read of KNL_OFS0. -/
def KNL_CSET_LATCH : Fld := ⟨0x1002058, 0, 0, 16⟩
/-- R59 RO: Remaining slew, signed, in units of 2⁻⁴⁸ s. -/
def KNL_SLEW_REM : Fld := ⟨0x1002060, 0, 0, 64⟩
/-- R59 RWS: JUMP_MAX in ps, bits [31:0]. Factory 0x0001_86A0 (100,000 ps). -/
def KNL_JUMP_MAX0 : Fld := ⟨0x1002068, 0, 0, 32⟩
/-- R59 RWS: JUMP_MAX in ps, bits [39:32]. Factory 0x00. The mailbox refuses a total outside 1,000 t. -/
def KNL_JUMP_MAX1 : Fld := ⟨0x100206C, 0, 0, 8⟩
/-- R59 RWS: SLEW_MAX in units of 10⁻¹². Factory 0x0_2710 (10,000). The mailbox refuses a value outs. -/
def KNL_SLEW_MAX : Fld := ⟨0x1002070, 0, 0, 20⟩
/-- R59 WO: Sub-nanoseconds to load. Bits [31:16] reserved. -/
def KNL_SN_LOAD0 : Fld := ⟨0x1002080, 0, 0, 16⟩
/-- R59 WO: Nanoseconds to load, 0 to 999,999,999. -/
def KNL_SN_LOAD1 : Fld := ⟨0x1002084, 0, 0, 32⟩
/-- R59 WO: Seconds [31:0] to load. -/
def KNL_SN_LOAD2 : Fld := ⟨0x1002088, 0, 0, 32⟩
/-- R59 WO: Seconds [47:32]. Writing this word loads all four words, 256 ticks later, in SN_BOOT on. -/
def KNL_SN_LOAD3 : Fld := ⟨0x100208C, 0, 0, 16⟩
/-- R59 RO: TAI − UTC in seconds, signed. -/
def KNL_UTC_UTC_OFFSET : Fld := ⟨0x1002090, 0, 0, 16⟩
/-- R59 RO: Inserted second announced. -/
def KNL_UTC_LEAP61 : Fld := ⟨0x1002090, 0, 16, 1⟩
/-- R59 RO: Deleted second announced. -/
def KNL_UTC_LEAP59 : Fld := ⟨0x1002090, 0, 17, 1⟩
/-- R59 RO: 0 = none; 1 = GNSS; 2 = host; 3 = host override. -/
def KNL_UTC_SRC : Fld := ⟨0x1002090, 0, 18, 2⟩
/-- R59 RO: 1 = UTC_OFFSET usable. Bits [31:21] reserved. -/
def KNL_UTC_VALID : Fld := ⟨0x1002090, 0, 20, 1⟩
/-- R59 RO: TAI second at which the announced offset change applies; 0 = none. Word 1 bits [31:16] . -/
def KNL_LEAP_AT : Fld := ⟨0x1002094, 0, 0, 48⟩
/-- R59 W1C: Bit n = mismatch in PGn. -/
def KNL_TBUS_STAT_PG_MISMATCH : Fld := ⟨0x10020A0, 0, 0, 8⟩
/-- R59 W1C: Mismatch in an engine replica. -/
def KNL_TBUS_STAT_ENG_MISMATCH : Fld := ⟨0x10020A0, 0, 8, 1⟩
/-- R59 W1C: Mismatch in the synthesis replica. -/
def KNL_TBUS_STAT_SYN_MISMATCH : Fld := ⟨0x10020A0, 0, 9, 1⟩
/-- R59 W1C: Mismatch in the Pack link replica. Bits [15:11] reserved. -/
def KNL_TBUS_STAT_PCK_MISMATCH : Fld := ⟨0x10020A0, 0, 10, 1⟩
/-- R59 RO: Mismatches since reset; saturates at 0xFFFF. -/
def KNL_TBUS_STAT_MISMATCH_CNT : Fld := ⟨0x10020A0, 0, 16, 16⟩
/-- R59 RO: OFS of the set. -/
def KNL_CSET_HIST_OFS : Fld := ⟨0x1003000, 0x40, 0, 96⟩
/-- R59 RO: Effective LC of the set. -/
def KNL_CSET_HIST_ANCHOR : Fld := ⟨0x100300C, 0x40, 0, 96⟩
/-- R59 RO: RATE of the set. -/
def KNL_CSET_HIST_RATE : Fld := ⟨0x1003018, 0x40, 0, 64⟩
/-- R59 RO: Version of the set. -/
def KNL_CSET_HIST_CSET_VER : Fld := ⟨0x1003020, 0x40, 0, 16⟩
/-- R59 RO: 0 = firmware update; 1 = end-of-slew; 2 = step order; 3 = handover into LC; 4 = handove. -/
def KNL_CSET_HIST_KIND : Fld := ⟨0x1003020, 0x40, 16, 3⟩
/-- R59 RO: 1 = entry holds a set. Bits [31:20] reserved. -/
def KNL_CSET_HIST_VALID : Fld := ⟨0x1003020, 0x40, 19, 1⟩
/-- R59 RO: STEP applied, signed, in units of 2⁻⁴⁸ s; 0 unless KIND = 2. -/
def KNL_CSET_HIST_STEP : Fld := ⟨0x1003024, 0x40, 0, 96⟩
/-- R85 RO: Seal state as in R83; set by the Kennel at boot. -/
def KNL_SEAL_STAT_STATE : Fld := ⟨0x1000000, 0, 0, 3⟩
/-- R85 RO: 1 = firmware trial running. -/
def KNL_SEAL_STAT_TRIAL : Fld := ⟨0x1000000, 0, 3, 1⟩
/-- R85 RO: Active firmware bank; 0 = A, 1 = B. -/
def KNL_SEAL_STAT_FW_BANK : Fld := ⟨0x1000000, 0, 4, 1⟩
/-- R85 RO: Active parameter bank; 0 = A, 1 = B. -/
def KNL_SEAL_STAT_PARAM_BANK : Fld := ⟨0x1000000, 0, 5, 1⟩
/-- R85 RO: Seal-event fuses burned, 0 to 512. Bits [31:16] reserved. -/
def KNL_SEAL_STAT_FUSES : Fld := ⟨0x1000000, 0, 6, 10⟩
/-- R85 RO: Seal counter. -/
def KNL_SEAL_CNT : Fld := ⟨0x1000004, 0, 0, 32⟩
/-- R85 RO: Generation of the active parameter bank. -/
def KNL_PARAM_GEN : Fld := ⟨0x1000008, 0, 0, 32⟩
/-- R85 RO: SHA-256 of the loaded Kennel image, byte 0 in MEAS0 [7:0]. -/
def KNL_MEAS : Fld := ⟨0x1000010, 0, 0, 256⟩
/-- R85 RO: SHA-256 of the active parameter bank. -/
def KNL_PARAM_HASH : Fld := ⟨0x1000030, 0, 0, 256⟩
/-- R85 RO: Attestation public key, X then Y, 32 bytes each. -/
def KNL_ATT_PUB : Fld := ⟨0x1000060, 0, 0, 512⟩
/-- R85 RO: 0 = K0 leads; 1 = K1 leads. -/
def KNL_KPAIR_STAT_LEAD : Fld := ⟨0x1000100, 0, 0, 1⟩
/-- R85 RO: 1 = steering frozen under R79. -/
def KNL_KPAIR_STAT_FROZEN : Fld := ⟨0x1000100, 0, 1, 1⟩
/-- R85 RO: 1 = last comparison agreed. -/
def KNL_KPAIR_STAT_LAST_AGREED : Fld := ⟨0x1000100, 0, 2, 1⟩
/-- R85 RO: Consecutive agreed seconds since freeze, saturating at 10. -/
def KNL_KPAIR_STAT_RESUME_CNT : Fld := ⟨0x1000100, 0, 3, 5⟩
/-- R85 RO: Deferred swaps, saturating at 0xFF. Bits [31:16] reserved. -/
def KNL_KPAIR_STAT_SWAP_DEFERRED : Fld := ⟨0x1000100, 0, 8, 8⟩
/-- R85 RO: KPAIR_TRANSIENT count, saturating. -/
def KNL_KPAIR_CNT_TRANSIENTS : Fld := ⟨0x1000104, 0, 0, 16⟩
/-- R85 RO: KPAIR_DISAGREE count, saturating. -/
def KNL_KPAIR_CNT_DISAGREES : Fld := ⟨0x1000104, 0, 16, 16⟩
/-- R85 RWS: Role-swap period, s. Factory 3,600. The mailbox refuses a value outside 60 to 86,400. B. -/
def KNL_SWAP_PERIOD : Fld := ⟨0x1000108, 0, 0, 17⟩
/-- R85 RWS: Firmware trial, s. Factory 600. The mailbox refuses a value outside 60 to 86,400. Bits . -/
def KNL_TRIAL_TIME : Fld := ⟨0x100010C, 0, 0, 17⟩
/-- R85 RO: A read claims and returns a buffer index; 0xF = none free. Bits [31:4] reserved. -/
def KNL_MBX_CLAIM : Fld := ⟨0x1000200, 0, 0, 4⟩
/-- R85 RO: 3 bits per buffer, MB0 in [2:0]. 0 FREE; 1 CLAIMED; 2 QUEUED; 3 RUNNING; 4 DONE. -/
def KNL_MBX_STAT_BUF_STATE : Fld := ⟨0x1000204, 0, 0, 12⟩
/-- R85 RO: Expired claims, saturating. -/
def KNL_MBX_STAT_CLAIM_EXPIRED : Fld := ⟨0x1000204, 0, 16, 8⟩
/-- R85 RO: 1 = authenticated commands refused under R66. Bits [15:12] and [31:25] reserved. -/
def KNL_MBX_STAT_AUTH_LOCK : Fld := ⟨0x1000204, 0, 24, 1⟩
/-- R85 WO: Submits the buffer. Bits [31:2] reserved. -/
def KNL_MBX_GO : Fld := ⟨0x1000208, 0, 0, 2⟩
/-- R85 WO: Releases a DONE buffer. Bits [31:2] reserved. -/
def KNL_MBX_REL : Fld := ⟨0x100020C, 0, 0, 2⟩
/-- R85 RO: Counter of the last accepted authenticated command. -/
def KNL_MBX_CMD_CNT : Fld := ⟨0x1000210, 0, 0, 64⟩
/-- R85 RO: SEQ of the newest record. -/
def KNL_REC_WR : Fld := ⟨0x1001400, 0, 0, 32⟩
/-- R85 RW: Host read mark; a Chip reset sets it equal to KNL_REC_WR, as R76 gives. -/
def KNL_REC_RD : Fld := ⟨0x1001404, 0, 0, 32⟩
/-- R85 RO: Unread records overwritten, saturating. -/
def KNL_REC_STAT_REC_OVERRUN : Fld := ⟨0x1001408, 0, 0, 16⟩
/-- R85 RO: Unexported event records overwritten, saturating. -/
def KNL_REC_STAT_AUDIT_OVERWRITE : Fld := ⟨0x1001408, 0, 16, 16⟩
/-- R85 RO: Unexported share of the event log, %. -/
def KNL_AUDIT_STAT_FILL : Fld := ⟨0x100140C, 0, 0, 7⟩
/-- R85 RO: 1 = above 95 %. Bits [31:8] reserved. -/
def KNL_AUDIT_STAT_FULL : Fld := ⟨0x100140C, 0, 7, 1⟩
/-- R85 RW: Highest SEQ exported by the host. -/
def KNL_AUDIT_ACK : Fld := ⟨0x1001410, 0, 0, 32⟩
/-- R85 RO: Write offset within the current half of the input log of R259, bytes. -/
def KNL_KIN_WR_OFFSET : Fld := ⟨0x1001420, 0, 0, 15⟩
/-- R85 RO: Half that holds the current second: 0 = the half at 0x0002_0000, 1 = the half at 0x0002. -/
def KNL_KIN_WR_HALF : Fld := ⟨0x1001420, 0, 15, 1⟩
/-- R85 RO: Records dropped because they did not fit in the current half (R259), saturating. Bits [. -/
def KNL_KIN_STAT : Fld := ⟨0x1001424, 0, 0, 16⟩
/-- R85 RW: Command buffer b, laid out as R64 gives. -/
def KNL_MB : Fld := ⟨0x1000400, 0x4, 0, 32⟩
/-- R85 RO: Ring entry k, holding the record with SEQ mod 1,024 = k; emptied by a Chip reset (R76). -/
def KNL_REC_WIN : Fld := ⟨0x1004000, 0x4, 0, 32⟩

/-! ### REF (R115) -/
/-- R115 RO: Selected reference identifier; 31 = none. -/
def REF_STAT_SEL_REF : Fld := ⟨0x1100000, 0, 0, 5⟩
/-- R115 RO: 0 = FREE_RUN; 1 = ACQUIRING; 2 = LOCKED; 3 = HOLDOVER. -/
def REF_STAT_SERVO : Fld := ⟨0x1100000, 0, 5, 2⟩
/-- R115 RO: 1 = selected reference used for frequency only. Bits [15:8] reserved. -/
def REF_STAT_FREQ_ONLY : Fld := ⟨0x1100000, 0, 7, 1⟩
/-- R115 RO: Changes of SEL_REF, saturating. -/
def REF_STAT_SEL_CHANGES : Fld := ⟨0x1100000, 0, 16, 16⟩
/-- R115 RO: Bit n = identifier n QUALIFIED. -/
def REF_QUAL_MASK : Fld := ⟨0x1100004, 0, 0, 32⟩
/-- R115 RO: Bit n = identifier n SUSPECT. -/
def REF_SUSPECT_MASK : Fld := ⟨0x1100008, 0, 0, 32⟩
/-- R115 RO: Bit n = identifier n DRIFTING. -/
def REF_DRIFT_MASK : Fld := ⟨0x110000C, 0, 0, 32⟩
/-- R115 W1C: SEL_REF changed. -/
def REF_EVT_SEL_CHANGED : Fld := ⟨0x1100010, 0, 0, 1⟩
/-- R115 W1C: Servo entered HOLDOVER. -/
def REF_EVT_HOLD_ENTERED : Fld := ⟨0x1100010, 0, 1, 1⟩
/-- R115 W1C: Servo left HOLDOVER. -/
def REF_EVT_HOLD_LEFT : Fld := ⟨0x1100010, 0, 2, 1⟩
/-- R115 W1C: Equal-rank rule applied. -/
def REF_EVT_RANK_CONFLICT : Fld := ⟨0x1100010, 0, 3, 1⟩
/-- R115 W1C: A reference became DRIFTING. -/
def REF_EVT_DRIFT_FLAGGED : Fld := ⟨0x1100010, 0, 4, 1⟩
/-- R115 W1C: An oscillator entered EXCLUDED. -/
def REF_EVT_OSC_EXCLUDED : Fld := ⟨0x1100010, 0, 5, 1⟩
/-- R115 W1C: OSC_TEMP not written for 5 s. -/
def REF_EVT_TEMP_STALE : Fld := ⟨0x1100010, 0, 6, 1⟩
/-- R115 W1C: No oscillator MEMBER. Bits [31:8] reserved. -/
def REF_EVT_ENSEMBLE_EMPTY : Fld := ⟨0x1100010, 0, 7, 1⟩
/-- R115 RWS: 1 = revertive selection. Factory 1. Bits [31:1] reserved. -/
def REF_SEL_CFG : Fld := ⟨0x1100020, 0, 0, 1⟩
/-- R115 RWS: Ensemble accept limit, 10⁻¹². Factory 20. Range 1 to REF_AGREE ÷ 2. Bits [31:20] reserved. -/
def REF_ENS_ACCEPT : Fld := ⟨0x1100024, 0, 0, 20⟩
/-- R115 RWS: Equal-rank agreement limit, 10⁻¹². Factory 50. Range 2 to 1,000,000. Bits [31:20] reserved. -/
def REF_AGREE : Fld := ⟨0x1100028, 0, 0, 20⟩
/-- R115 RWS: Trend window, s. Factory 3,600. Range 300 to 65,535. Bits [31:16] reserved. -/
def REF_DRIFT_WIN : Fld := ⟨0x110002C, 0, 0, 16⟩
/-- R115 RWS: s. Factory 21,600. Range 600 to 604,800. Bits [31:20] reserved. -/
def REF_DRIFT_HORIZON : Fld := ⟨0x1100030, 0, 0, 20⟩
/-- R115 RWS: Lock threshold, ps. Factory 2,000. Range 10 to 65,535. -/
def REF_LOCK_CFG_LOCK_PS : Fld := ⟨0x1100034, 0, 0, 16⟩
/-- R115 RWS: s. Factory 60. Range 1 to 4,095. Bits [31:28] reserved. -/
def REF_LOCK_CFG_LOCK_TIME : Fld := ⟨0x1100034, 0, 16, 12⟩
/-- R115 RO: Ensemble estimate of the tick source's fractional frequency offset, positive when the t. -/
def REF_ENS_Y : Fld := ⟨0x1100040, 0, 0, 64⟩
/-- R115 RWS: 1 = monitored. Factory 0. -/
def REF_CFG_ENABLE : Fld := ⟨0x1101000, 0x40, 0, 1⟩
/-- R115 RWS: 0 = time (pulse per second); 1 = frequency. Writable for n = 0 to 7; fixed by R86 other. -/
def REF_CFG_KIND : Fld := ⟨0x1101000, 0x40, 1, 1⟩
/-- R115 RWS: 0 to 14, lower preferred; 15 = monitor only. Factory as R86. Bits [31:6] reserved. -/
def REF_CFG_RANK : Fld := ⟨0x1101000, 0x40, 2, 4⟩
/-- R115 RWS: Hz, 1 to 250,000,000; n = 0 to 7 and 18 to 21 only. Factory 1 for n = 0 to 7 and 48,000. -/
def REF_NOM_FREQ : Fld := ⟨0x1101004, 0x40, 0, 28⟩
/-- R115 RWS: Accept limit, 10⁻¹². Factory 100. Bits [31:20] reserved. -/
def REF_ACCEPT : Fld := ⟨0x1101008, 0x40, 0, 20⟩
/-- R115 RWS: Reject limit, 10⁻¹²; must exceed ACCEPT. Factory 1,000. Bits [31:20] reserved. -/
def REF_REJECT : Fld := ⟨0x110100C, 0x40, 0, 20⟩
/-- R115 RWS: s, 1 to 3,600. Factory 60. Bits [31:12] reserved. -/
def REF_QUAL : Fld := ⟨0x1101010, 0x40, 0, 12⟩
/-- R115 RWS: Minimum pulse width, units of 100 ps. Factory 10 (1 ns). -/
def REF_GLITCH_MIN_WIDTH : Fld := ⟨0x1101014, 0x40, 0, 16⟩
/-- R115 RWS: Glitches per second tolerated. Factory 8. -/
def REF_GLITCH_GLITCH_MAX : Fld := ⟨0x1101014, 0x40, 16, 16⟩
/-- R115 RO: As R94. -/
def REF_STATE_STATE : Fld := ⟨0x1101018, 0x40, 0, 3⟩
/-- R115 RO: 1 = DRIFTING. -/
def REF_STATE_DRIFTING : Fld := ⟨0x1101018, 0x40, 3, 1⟩
/-- R115 RO: 1 = used for frequency only. -/
def REF_STATE_FREQ_ONLY : Fld := ⟨0x1101018, 0x40, 4, 1⟩
/-- R115 RO: 0 = none; 1 = loss; 2 = reject; 3 = rate change; 4 = glitches; 5 = rank conflict; 6, 7 . -/
def REF_STATE_CAUSE : Fld := ⟨0x1101018, 0x40, 5, 3⟩
/-- R115 RO: s inside ACCEPT while QUALIFYING, counted as R91 gives, saturating at 4,095. -/
def REF_STATE_QUAL_ELAPSED : Fld := ⟨0x1101018, 0x40, 8, 12⟩
/-- R115 RO: 1 = y exists under R91. Bits [31:21] reserved. -/
def REF_STATE_Y_VALID : Fld := ⟨0x1101018, 0x40, 20, 1⟩
/-- R115 RO: y against the ensemble, signed, 10⁻¹⁵; 0 while y is none (R91). -/
def REF_FREQ : Fld := ⟨0x110101C, 0x40, 0, 32⟩
/-- R115 RO: Phase of the last valid sample against RT, signed, ps; 0 for frequency references. -/
def REF_PHASE : Fld := ⟨0x1101020, 0x40, 0, 64⟩
/-- R115 RO: Glitches, saturating. -/
def REF_CNT_GLITCHES : Fld := ⟨0x1101028, 0x40, 0, 16⟩
/-- R115 RO: Losses, saturating. -/
def REF_CNT_LOSSES : Fld := ⟨0x1101028, 0x40, 16, 16⟩
/-- R115 RO: Weight in FREQ, units of 1/65,536. Bits [31:16] reserved. -/
def REF_WEIGHT : Fld := ⟨0x110102C, 0x40, 0, 16⟩
/-- R115 RO: Predicted s to REJECT; 0xFFFF_FFFF = none. -/
def REF_TTR : Fld := ⟨0x1101030, 0x40, 0, 32⟩
/-- R115 RWS: 1 = candidate for the ensemble. Factory 0. -/
def OSC_CFG_ENABLE : Fld := ⟨0x1102000, 0x40, 0, 1⟩
/-- R115 RWS: 0 = OCXO; 1 = rubidium; 2 = caesium; 3 = chip-scale atomic. Factory 0. -/
def OSC_CFG_TYPE : Fld := ⟨0x1102000, 0x40, 1, 2⟩
/-- R115 RWS: 0 = KENNEL region sensor; 1 = OSC_TEMP. Factory 0. Bits [15:4] reserved. -/
def OSC_CFG_TEMP_SRC : Fld := ⟨0x1102000, 0x40, 3, 1⟩
/-- R115 RWS: Units of 10 s. Factory 180 (1,800 s). -/
def OSC_CFG_WARMUP : Fld := ⟨0x1102000, 0x40, 16, 16⟩
/-- R115 RWS: σ_y at 1 s, 10⁻¹⁵. Factory 0. -/
def OSC_SIGMA1 : Fld := ⟨0x1102004, 0x40, 0, 32⟩
/-- R115 RWS: Srw, 10⁻³⁴ s⁻¹. Factory 0. -/
def OSC_RWFM : Fld := ⟨0x1102008, 0x40, 0, 32⟩
/-- R115 RWS: Unlearned ageing bound, 10⁻²¹ s⁻¹. Factory 0. -/
def OSC_AGE_BOUND : Fld := ⟨0x110200C, 0x40, 0, 32⟩
/-- R115 RWS: Full temperature coefficient, 10⁻¹⁴ per °C. Factory 0. -/
def OSC_TEMPCO_TEMPCO : Fld := ⟨0x1102010, 0x40, 0, 16⟩
/-- R115 RWS: Residual after learning, 10⁻¹⁵ per °C. Factory 0. -/
def OSC_TEMPCO_TEMPCO_RES : Fld := ⟨0x1102010, 0x40, 16, 16⟩
/-- R115 RWS: 10⁻¹². Factory 1,000. Bits [31:20] reserved. -/
def OSC_REJECT : Fld := ⟨0x1102014, 0x40, 0, 20⟩
/-- R115 RO: As R102. -/
def OSC_STATE_STATE : Fld := ⟨0x1102018, 0x40, 0, 2⟩
/-- R115 RO: 1 = KPLL source. Bits [15:3] reserved. -/
def OSC_STATE_TICK_SRC : Fld := ⟨0x1102018, 0x40, 2, 1⟩
/-- R115 RO: w_k, units of 1/65,536. -/
def OSC_STATE_WEIGHT : Fld := ⟨0x1102018, 0x40, 16, 16⟩
/-- R115 RO: y_k − y_ens, signed, 10⁻¹⁵. -/
def OSC_FREQ : Fld := ⟨0x110201C, 0x40, 0, 32⟩
/-- R115 RW: Oscillator temperature, signed, 1/16 °C. Bits [31:16] reserved. -/
def OSC_TEMP : Fld := ⟨0x1102020, 0x40, 0, 16⟩
/-- R115 RO: 1 = ageing applied. -/
def REF_HOLD_STAT_LEARNED_D : Fld := ⟨0x1103000, 0, 0, 1⟩
/-- R115 RO: 1 = temperature coefficient applied. -/
def REF_HOLD_STAT_LEARNED_KT : Fld := ⟨0x1103000, 0, 1, 1⟩
/-- R115 RO: 1 = SERVO is HOLDOVER. Bits [31:3] reserved. -/
def REF_HOLD_STAT_IN_HOLDOVER : Fld := ⟨0x1103000, 0, 2, 1⟩
/-- R115 RO: t of R110, s; 0 outside HOLDOVER. -/
def REF_HOLD_ELAPSED : Fld := ⟨0x1103004, 0, 0, 32⟩
/-- R115 RO: While SERVO is LOCKED, the length of the current continuous lock; otherwise the length . -/
def REF_LOCK_TIME : Fld := ⟨0x1103008, 0, 0, 32⟩
/-- R115 RWS: HOLD_MIN_LEARN, s. Factory 86,400. Range 3,600 to 2,592,000. Bits [31:22] reserved. -/
def REF_HOLD_MIN_LEARN : Fld := ⟨0x110300C, 0, 0, 22⟩
/-- R115 RO: Holdover term of R111, ps, including any carried amount under R114. Word 1 bits [31:16]. -/
def REF_HOLD_TERM : Fld := ⟨0x1103010, 0, 0, 48⟩
/-- R115 RO: Learned y0, signed, 2⁻⁶⁴. -/
def REF_HOLD_Y0 : Fld := ⟨0x1103018, 0, 0, 64⟩
/-- R115 RO: Learned d, signed, 10⁻²¹ s⁻¹. -/
def REF_HOLD_D : Fld := ⟨0x1103020, 0, 0, 32⟩
/-- R115 RO: Learned k_T, signed, 10⁻¹⁶ per °C. -/
def REF_HOLD_KT : Fld := ⟨0x1103024, 0, 0, 32⟩
/-- R115 RO: Temperature at t_last, signed, 1/16 °C. Bits [31:16] reserved. -/
def REF_HOLD_T0 : Fld := ⟨0x1103028, 0, 0, 16⟩

/-! ### TIM (R137) -/
/-- R137 RO: 0 = PRESENT; 1 = ABSENT; 2 = OFF_FREQ; 3 = REBUILD. -/
def TIM_STAT_TB_STATE : Fld := ⟨0x1200000, 0, 0, 2⟩
/-- R137 RO: 1 = random edge rate inside limits. Bits [31:3] reserved. -/
def TIM_STAT_RNG_OK : Fld := ⟨0x1200000, 0, 2, 1⟩
/-- R137 W1C: Time base left PRESENT. -/
def TIM_EVT_TB_LOST : Fld := ⟨0x1200004, 0, 0, 1⟩
/-- R137 W1C: Time base returned to PRESENT. -/
def TIM_EVT_TB_BACK : Fld := ⟨0x1200004, 0, 1, 1⟩
/-- R137 W1C: Random edge rate outside limits. -/
def TIM_EVT_RNG_FAULT : Fld := ⟨0x1200004, 0, 2, 1⟩
/-- R137 W1C: A candidate table was rejected. -/
def TIM_EVT_CAL_REJECTED : Fld := ⟨0x1200004, 0, 3, 1⟩
/-- R137 W1C: A record was lost. Bits [31:5] reserved. -/
def TIM_EVT_GAP : Fld := ⟨0x1200004, 0, 4, 1⟩
/-- R137 RO: Bit 2c = IA, bit 2c + 1 = IB of channel c holds an accepted table. -/
def TIM_CAL_READY : Fld := ⟨0x1200008, 0, 0, 32⟩
/-- R137 RO: Random edges in the last second, units of 1,000. Bits [31:25] reserved. -/
def TIM_RNG_RATE : Fld := ⟨0x120000C, 0, 0, 25⟩
/-- R137 RO: Entries into ABSENT or OFF_FREQ. Bits [31:16] reserved. -/
def TIM_TB_CNT : Fld := ⟨0x1200010, 0, 0, 16⟩
/-- R137 RWS: 1 = channel times edges. Factory 1 for c = 0 to 11, 0 otherwise. -/
def TIM_CFG_ENABLE : Fld := ⟨0x1201000, 0x100, 0, 1⟩
/-- R137 RWS: Source as R116. Factory c for c = 0 to 7; 8 to 11 for c = 8 to 11; 16, 20, 24, 28 for c. -/
def TIM_CFG_SRC : Fld := ⟨0x1201000, 0x100, 1, 5⟩
/-- R137 RWS: 0 = rising; 1 = falling. Factory 0. -/
def TIM_CFG_EDGE : Fld := ⟨0x1201000, 0x100, 6, 1⟩
/-- R137 RWS: As R118. Factory 0. Bits [31:11] reserved. -/
def TIM_CFG_PRESC : Fld := ⟨0x1201000, 0x100, 7, 4⟩
/-- R137 RWS: 1 to 16,777,215; the mailbox refuses 0 with RANGE. Factory 1 for c = 0 to 7; 1,000,000 . -/
def TIM_RECDIV : Fld := ⟨0x1201004, 0x100, 0, 24⟩
/-- R137 RWS: Ball to interpolator, signed, 1/16 ps. Factory calibration per device. Bits [31:24] res. -/
def TIM_DELAY : Fld := ⟨0x1201008, 0x100, 0, 24⟩
/-- R137 RWS: Extra delay through the prescaler, signed, 1/16 ps. Factory calibration per device. Bit. -/
def TIM_PRESC_DELAY : Fld := ⟨0x120100C, 0x100, 0, 24⟩
/-- R137 RO: 0 = IA holds MEASURE; 1 = IB. -/
def TIM_STATE_MEASURE : Fld := ⟨0x1201010, 0x100, 0, 1⟩
/-- R137 RO: 1 = IA records carry DEGRADED. -/
def TIM_STATE_DEGRADED_A : Fld := ⟨0x1201010, 0x100, 1, 1⟩
/-- R137 RO: 1 = IB records carry DEGRADED. -/
def TIM_STATE_DEGRADED_B : Fld := ⟨0x1201010, 0x100, 2, 1⟩
/-- R137 RO: 1 = admissions in the current second plus queued records number 32 (R121). Bits [15:4] . -/
def TIM_STATE_BUDGET_SPENT : Fld := ⟨0x1201010, 0x100, 3, 1⟩
/-- R137 RO: Tables accepted on IA; wraps. -/
def TIM_STATE_TABLE_GEN_A : Fld := ⟨0x1201010, 0x100, 16, 8⟩
/-- R137 RO: Tables accepted on IB; wraps. -/
def TIM_STATE_TABLE_GEN_B : Fld := ⟨0x1201010, 0x100, 24, 8⟩
/-- R137 RO: Records admitted. -/
def TIM_CNT0 : Fld := ⟨0x1201014, 0x100, 0, 32⟩
/-- R137 RO: Records dropped under R121. -/
def TIM_CNT1_LOST_QUEUE : Fld := ⟨0x1201018, 0x100, 0, 16⟩
/-- R137 RO: Selected edges not timed under R122 or R126. -/
def TIM_CNT1_MISSED : Fld := ⟨0x1201018, 0x100, 16, 16⟩
/-- R137 RO: Records formed with VALID = 0. -/
def TIM_CNT2_INVALID : Fld := ⟨0x120101C, 0x100, 0, 16⟩
/-- R137 RO: Tables rejected on either interpolator. -/
def TIM_CNT2_CAL_REJECTS : Fld := ⟨0x120101C, 0x100, 16, 16⟩
/-- R137 RO: Active codes in IA's accepted table. Bits [15:9] reserved. -/
def TIM_ACTIVE_ACTIVE_A : Fld := ⟨0x1201020, 0x100, 0, 9⟩
/-- R137 RO: Active codes in IB's accepted table. Bits [31:25] reserved. -/
def TIM_ACTIVE_ACTIVE_B : Fld := ⟨0x1201020, 0x100, 16, 9⟩
/-- R137 RO: Newest record formed, admitted or dropped, laid out as R133; a dropped one has DROPPED . -/
def TIM_LAST : Fld := ⟨0x1201040, 0x100, 0, 256⟩
/-- R137 RO: Centre of bin k in the accepted table, units of 2⁻⁴⁸ s; 0 beyond the active run. -/
def TIM_TABLE : Fld := ⟨0x1210000, 0x4, 0, 18⟩

/-! ### SYN (R323) -/
/-- R323 RO: Bit k = SPk outputs in bypass. -/
def SYN_STAT_BYPASS : Fld := ⟨0x1300000, 0, 0, 4⟩
/-- R323 RO: Bit k = commit pending on SPk. Bits [31:8] reserved. -/
def SYN_STAT_PENDING : Fld := ⟨0x1300000, 0, 4, 4⟩
/-- R323 W1C: [3:0] LOCKED; [7:4] LOST; [11:8] FAIL; [15:12] COMMIT_DONE, per SP; [16] COMMIT_REFUSED. -/
def SYN_EVT : Fld := ⟨0x1300004, 0, 0, 22⟩
/-- R323 RW, Shadow: As R304. -/
def SYN_SP_CFG_MODE : Fld := ⟨0x1301000, 0x100, 0, 2⟩
/-- R323 RW, Shadow: REFn for INPUT mode. -/
def SYN_SP_CFG_SRC : Fld := ⟨0x1301000, 0x100, 2, 3⟩
/-- R323 RW, Shadow: 1 to 255; INPUT mode. Bits [7:5], [31:16] reserved. -/
def SYN_SP_CFG_R_DIV : Fld := ⟨0x1301000, 0x100, 8, 8⟩
/-- R323 RW, Shadow: Integer part of N. Bits [31:16] reserved. -/
def SYN_SP_N_INT : Fld := ⟨0x1301004, 0x100, 0, 16⟩
/-- R323 RW, Shadow: Below N_DEN. -/
def SYN_SP_N_NUM : Fld := ⟨0x1301008, 0x100, 0, 32⟩
/-- R323 RW, Shadow: 1 or more. -/
def SYN_SP_N_DEN : Fld := ⟨0x130100C, 0x100, 0, 32⟩
/-- R323 RW: RT second for AT = 1. Word 1 bits [31:16] reserved. -/
def SYN_SP_AT_SEC : Fld := ⟨0x1301010, 0x100, 0, 48⟩
/-- R323 WO: 1 = use AT_SEC. -/
def SYN_SP_COMMIT_AT : Fld := ⟨0x1301018, 0x100, 0, 1⟩
/-- R323 WO: 1 = relock even if N is unchanged. -/
def SYN_SP_COMMIT_RELOCK : Fld := ⟨0x1301018, 0x100, 1, 1⟩
/-- R323 WO: 0 to 999 ms after the second. Bits [31:12] reserved. -/
def SYN_SP_COMMIT_COMMIT_MS : Fld := ⟨0x1301018, 0x100, 2, 10⟩
/-- R323 RO: As R306. -/
def SYN_SP_STAT_STATE : Fld := ⟨0x1301020, 0x100, 0, 3⟩
/-- R323 RO: Band in use. -/
def SYN_SP_STAT_BAND : Fld := ⟨0x1301020, 0x100, 3, 6⟩
/-- R323 RO: 1 = LKFk above V_LOCK. -/
def SYN_SP_STAT_LKF_HIGH : Fld := ⟨0x1301020, 0x100, 9, 1⟩
/-- R323 RO: As R322. -/
def SYN_SP_STAT_BAND_MARGIN : Fld := ⟨0x1301020, 0x100, 10, 1⟩
/-- R323 RO: 0 none; 1 VCO range; 2 N form; 3 DIV; 4 period or width; 5 kind not allowed in MODE; 6 . -/
def SYN_SP_STAT_REFUSE_CODE : Fld := ⟨0x1301020, 0x100, 12, 4⟩
/-- R323 RO: Tuning voltage, 1/256 of range. Bits [11], [31:24] reserved. -/
def SYN_SP_STAT_VTUNE : Fld := ⟨0x1301020, 0x100, 16, 8⟩
/-- R323 RO: Entries into LOST. -/
def SYN_SP_CNT_RELOCKS : Fld := ⟨0x1301024, 0x100, 0, 16⟩
/-- R323 RO: Cycle slips. -/
def SYN_SP_CNT_SLIPS : Fld := ⟨0x1301024, 0x100, 16, 16⟩
/-- R323 RW, Shadow: As R311. -/
def SYN_OUT_CFG_KIND : Fld := ⟨0x1302000, 0x40, 0, 3⟩
/-- R323 RW, Shadow: As R308. -/
def SYN_OUT_CFG_BYP_ACT : Fld := ⟨0x1302000, 0x40, 3, 1⟩
/-- R323 RW, Shadow: 1 to 255. -/
def SYN_OUT_CFG_BYP_DIV : Fld := ⟨0x1302000, 0x40, 4, 8⟩
/-- R323 RW, Shadow: As R316. -/
def SYN_OUT_CFG_HEEL_EN : Fld := ⟨0x1302000, 0x40, 12, 1⟩
/-- R323 RW, Shadow: 0 once; 1 track. -/
def SYN_OUT_CFG_HEEL_MODE : Fld := ⟨0x1302000, 0x40, 13, 1⟩
/-- R323 RW, Shadow: Source channel TI0 to TI15. -/
def SYN_OUT_CFG_HEEL_TI : Fld := ⟨0x1302000, 0x40, 14, 4⟩
/-- R323 RW, Shadow: 0 9,600; 1 19,200; 2 38,400; 3 57,600; 4 115,200; 5 to 7 reserved. -/
def SYN_OUT_CFG_TOD_BAUD : Fld := ⟨0x1302000, 0x40, 18, 3⟩
/-- R323 RW, Shadow: Output whose pulse is described. -/
def SYN_OUT_CFG_TOD_PPS : Fld := ⟨0x1302000, 0x40, 21, 4⟩
/-- R323 RW, Shadow: IRIG-B: 1 UTC; 0 TAI. -/
def SYN_OUT_CFG_TOD_UTC : Fld := ⟨0x1302000, 0x40, 25, 1⟩
/-- R323 RW, Shadow: 0 B000; 1 B004. -/
def SYN_OUT_CFG_IRIG_YEAR : Fld := ⟨0x1302000, 0x40, 26, 1⟩
/-- R323 RW, Shadow: 1 = output inverted at the ball. Bits [31:28] reserved. -/
def SYN_OUT_CFG_POL : Fld := ⟨0x1302000, 0x40, 27, 1⟩
/-- R323 RW, Shadow: CLOCK divider. -/
def SYN_OUT_DIV : Fld := ⟨0x1302004, 0x40, 0, 32⟩
/-- R323 RW, Shadow: Period numerator, ns. -/
def SYN_OUT_PER_NUM : Fld := ⟨0x1302008, 0x40, 0, 32⟩
/-- R323 RW, Shadow: 1 or more. Bits [31:16] reserved. -/
def SYN_OUT_PER_DEN : Fld := ⟨0x130200C, 0x40, 0, 16⟩
/-- R323 RW, Shadow: Pulse width, ns. -/
def SYN_OUT_WIDTH : Fld := ⟨0x1302010, 0x40, 0, 32⟩
/-- R323 RW, Shadow: Signed ns. -/
def SYN_OUT_OFFSET0 : Fld := ⟨0x1302014, 0x40, 0, 32⟩
/-- R323 RW, Shadow: 0 to 999 ps. -/
def SYN_OUT_OFFSET1_OFFSET_PS : Fld := ⟨0x1302018, 0x40, 0, 10⟩
/-- R323 RW, Shadow: ms, 1 to 900. Bits [31:20] reserved. -/
def SYN_OUT_OFFSET1_TOD_LAG : Fld := ⟨0x1302018, 0x40, 10, 10⟩
/-- R323 RW: As R311; not shadowed. Bits [31:1] reserved. -/
def SYN_OUT_EN : Fld := ⟨0x130201C, 0x40, 0, 1⟩
/-- R323 RO: 0 off; 1 awaiting grid; 2 aligned; 3 bypass; 4 held low. -/
def SYN_OUT_STAT_STATE : Fld := ⟨0x1302020, 0x40, 0, 3⟩
/-- R323 RO: As R315 and R313. -/
def SYN_OUT_STAT_DEGRADED : Fld := ⟨0x1302020, 0x40, 3, 1⟩
/-- R323 RO: As R317. Bits [31:7] reserved. -/
def SYN_OUT_STAT_HEEL_STATE : Fld := ⟨0x1302020, 0x40, 4, 3⟩
/-- R323 RO: VCO cycles under R312. -/
def SYN_OUT_DELAY : Fld := ⟨0x1302024, 0x40, 0, 32⟩
/-- R323 RO: Steps under R312. Bits [31:7] reserved. -/
def SYN_OUT_FINE : Fld := ⟨0x1302028, 0x40, 0, 7⟩
/-- R323 RW: ns; 1,000 at reset. -/
def SYN_OUT_HEEL_CFG_STEP_MAX : Fld := ⟨0x130202C, 0x40, 0, 16⟩
/-- R323 RW: 10⁻⁹ units; 1×10⁻⁷ at reset. -/
def SYN_OUT_HEEL_CFG_SLEW : Fld := ⟨0x130202C, 0x40, 16, 16⟩
/-- R323 RO: e of R318, signed ps. -/
def SYN_OUT_HEEL_ERR : Fld := ⟨0x1302030, 0x40, 0, 32⟩
/-- R323 RWS: Logic-to-ball delay, signed, 1/16 ps; sealed-store offset 0x0_0E00 + j × 8; factory cal. -/
def SYN_OUT_CAL : Fld := ⟨0x1302034, 0x40, 0, 24⟩
/-- R323 RWS: Edge bound, ps; sealed-store offset 0x0_0E04 + j × 8; factory 30. Bits [31:20] reserved. -/
def SYN_OUT_UNC : Fld := ⟨0x1302038, 0x40, 0, 20⟩
/-- R323 RW, Shadow: active copy of SYN_SP_CFG_MODE. -/
def SYN_SPA_CFG_MODE : Fld := ⟨0x1301800, 0x100, 0, 2⟩
/-- R323 RW, Shadow: active copy of SYN_SP_CFG_SRC. -/
def SYN_SPA_CFG_SRC : Fld := ⟨0x1301800, 0x100, 2, 3⟩
/-- R323 RW, Shadow: active copy of SYN_SP_CFG_R_DIV. -/
def SYN_SPA_CFG_R_DIV : Fld := ⟨0x1301800, 0x100, 8, 8⟩
/-- R323 RW, Shadow: active copy of SYN_SP_N_INT. -/
def SYN_SPA_N_INT : Fld := ⟨0x1301804, 0x100, 0, 16⟩
/-- R323 RW, Shadow: active copy of SYN_SP_N_NUM. -/
def SYN_SPA_N_NUM : Fld := ⟨0x1301808, 0x100, 0, 32⟩
/-- R323 RW, Shadow: active copy of SYN_SP_N_DEN. -/
def SYN_SPA_N_DEN : Fld := ⟨0x130180C, 0x100, 0, 32⟩
/-- R323 RW, Shadow: active copy of SYN_OUT_CFG_KIND. -/
def SYN_OUTA_CFG_KIND : Fld := ⟨0x1302800, 0x40, 0, 3⟩
/-- R323 RW, Shadow: active copy of SYN_OUT_CFG_BYP_ACT. -/
def SYN_OUTA_CFG_BYP_ACT : Fld := ⟨0x1302800, 0x40, 3, 1⟩
/-- R323 RW, Shadow: active copy of SYN_OUT_CFG_BYP_DIV. -/
def SYN_OUTA_CFG_BYP_DIV : Fld := ⟨0x1302800, 0x40, 4, 8⟩
/-- R323 RW, Shadow: active copy of SYN_OUT_CFG_HEEL_EN. -/
def SYN_OUTA_CFG_HEEL_EN : Fld := ⟨0x1302800, 0x40, 12, 1⟩
/-- R323 RW, Shadow: active copy of SYN_OUT_CFG_HEEL_MODE. -/
def SYN_OUTA_CFG_HEEL_MODE : Fld := ⟨0x1302800, 0x40, 13, 1⟩
/-- R323 RW, Shadow: active copy of SYN_OUT_CFG_HEEL_TI. -/
def SYN_OUTA_CFG_HEEL_TI : Fld := ⟨0x1302800, 0x40, 14, 4⟩
/-- R323 RW, Shadow: active copy of SYN_OUT_CFG_TOD_BAUD. -/
def SYN_OUTA_CFG_TOD_BAUD : Fld := ⟨0x1302800, 0x40, 18, 3⟩
/-- R323 RW, Shadow: active copy of SYN_OUT_CFG_TOD_PPS. -/
def SYN_OUTA_CFG_TOD_PPS : Fld := ⟨0x1302800, 0x40, 21, 4⟩
/-- R323 RW, Shadow: active copy of SYN_OUT_CFG_TOD_UTC. -/
def SYN_OUTA_CFG_TOD_UTC : Fld := ⟨0x1302800, 0x40, 25, 1⟩
/-- R323 RW, Shadow: active copy of SYN_OUT_CFG_IRIG_YEAR. -/
def SYN_OUTA_CFG_IRIG_YEAR : Fld := ⟨0x1302800, 0x40, 26, 1⟩
/-- R323 RW, Shadow: active copy of SYN_OUT_CFG_POL. -/
def SYN_OUTA_CFG_POL : Fld := ⟨0x1302800, 0x40, 27, 1⟩
/-- R323 RW, Shadow: active copy of SYN_OUT_DIV. -/
def SYN_OUTA_DIV : Fld := ⟨0x1302804, 0x40, 0, 32⟩
/-- R323 RW, Shadow: active copy of SYN_OUT_PER_NUM. -/
def SYN_OUTA_PER_NUM : Fld := ⟨0x1302808, 0x40, 0, 32⟩
/-- R323 RW, Shadow: active copy of SYN_OUT_PER_DEN. -/
def SYN_OUTA_PER_DEN : Fld := ⟨0x130280C, 0x40, 0, 16⟩
/-- R323 RW, Shadow: active copy of SYN_OUT_WIDTH. -/
def SYN_OUTA_WIDTH : Fld := ⟨0x1302810, 0x40, 0, 32⟩
/-- R323 RW, Shadow: active copy of SYN_OUT_OFFSET0. -/
def SYN_OUTA_OFFSET0 : Fld := ⟨0x1302814, 0x40, 0, 32⟩
/-- R323 RW, Shadow: active copy of SYN_OUT_OFFSET1_OFFSET_PS. -/
def SYN_OUTA_OFFSET1_OFFSET_PS : Fld := ⟨0x1302818, 0x40, 0, 10⟩
/-- R323 RW, Shadow: active copy of SYN_OUT_OFFSET1_TOD_LAG. -/
def SYN_OUTA_OFFSET1_TOD_LAG : Fld := ⟨0x1302818, 0x40, 10, 10⟩

/-! ### LSH (R252) -/
/-- R252 RO: As FLAGS of the LEASH TLV (R247). After reset UNSEALED, SN and UNBOUNDED are set, becau. -/
def LSH_STAT_FLAGS : Fld := ⟨0x1400000, 0, 0, 8⟩
/-- R252 RO: clockClass, default column of R248. -/
def LSH_STAT_CLOCK_CLASS : Fld := ⟨0x1400000, 0, 8, 8⟩
/-- R252 RO: clockAccuracy of the core Leash. -/
def LSH_STAT_CLOCK_ACCURACY : Fld := ⟨0x1400000, 0, 16, 8⟩
/-- R252 RO: NTP stratum under R250. Bits [31:29] reserved. -/
def LSH_STAT_STRATUM : Fld := ⟨0x1400000, 0, 24, 5⟩
/-- R252 RO: RT second of the current core Leash. Word 1 bits [31:16] reserved. -/
def LSH_SEC : Fld := ⟨0x1400004, 0, 0, 48⟩
/-- R252 RO: Core Leash of the current second, ps. Word 1 bits [31:16] reserved. -/
def LSH_CORE : Fld := ⟨0x1400010, 0, 0, 48⟩
/-- R252 RO: Core Leash of the previous second. Word 1 bits [31:16] reserved. -/
def LSH_CORE_PREV : Fld := ⟨0x1400018, 0, 0, 48⟩
/-- R252 RO: ref term in force. Word 1 bits [31:16] reserved. -/
def LSH_REF : Fld := ⟨0x1400020, 0, 0, 48⟩
/-- R252 RO: path term in force. Word 1 bits [31:16] reserved. -/
def LSH_PATH : Fld := ⟨0x1400028, 0, 0, 48⟩
/-- R252 RO: meas + slew in force. Word 1 bits [31:16] reserved. -/
def LSH_MEAS : Fld := ⟨0x1400030, 0, 0, 48⟩
/-- R252 RO: hold, carried amount or fr_ps in force. Word 1 bits [31:16] reserved. -/
def LSH_HOLD : Fld := ⟨0x1400038, 0, 0, 48⟩
/-- R252 RO: Core additions of R244 in force. Word 1 bits [31:16] reserved. -/
def LSH_DEGR : Fld := ⟨0x1400040, 0, 0, 48⟩
/-- R252 RO: offsetScaledLogVariance of the core Leash. -/
def LSH_PTP_OSLV : Fld := ⟨0x1400048, 0, 0, 16⟩
/-- R252 RO: As R249. -/
def LSH_PTP_TIME_TRACEABLE : Fld := ⟨0x1400048, 0, 16, 1⟩
/-- R252 RO: As R249. -/
def LSH_PTP_FREQ_TRACEABLE : Fld := ⟨0x1400048, 0, 17, 1⟩
/-- R252 RO: clockClass, G.8275 column of R248. Bits [31:26] reserved. -/
def LSH_PTP_CLASS_G8275 : Fld := ⟨0x1400048, 0, 18, 8⟩
/-- R252 RO: Root dispersion of the core Leash, NTP short format. -/
def LSH_ROOTDISP : Fld := ⟨0x140004C, 0, 0, 32⟩
/-- R252 RO: Seconds with late terms under R242, saturating. -/
def LSH_CNT_TERMS_LATE : Fld := ⟨0x1400050, 0, 0, 16⟩
/-- R252 RO: Seconds with an UNBOUNDED core in LC, saturating. -/
def LSH_CNT_UNBOUNDED_S : Fld := ⟨0x1400050, 0, 16, 16⟩
/-- R252 RO: Port term of R238 for the active mode, including any DEGRADED addition. Word 1 bits [31. -/
def LSH_PORT_TERM : Fld := ⟨0x1401000, 0x10, 0, 48⟩
/-- R252 RO: Core + port term for the current second, without placement. Word 1 bits [31:16] reserved. -/
def LSH_PORT_LEASH : Fld := ⟨0x1401008, 0x10, 0, 48⟩

/-! ### GNS (R150, R151, R152, R160) -/
/-- R160 RW: 1 = receiver in use. -/
def GNS_CFG_ENABLE : Fld := ⟨0x2000000, 0, 0, 1⟩
/-- R160 RW: Output n, OUT0 to OUT15, feeding the front-end sampling clock. -/
def GNS_CFG_CLK_OUT : Fld := ⟨0x2000000, 0, 1, 4⟩
/-- R160 RW: 1 = GSI_EN low between bursts. -/
def GNS_CFG_FE_GATE : Fld := ⟨0x2000000, 0, 5, 1⟩
/-- R160 RW: 1 = negate Q. -/
def GNS_CFG_SPECTRAL_INV : Fld := ⟨0x2000000, 0, 6, 1⟩
/-- R160 RW: ms, 1 to 127. -/
def GNS_CFG_FE_WARMUP : Fld := ⟨0x2000000, 0, 7, 7⟩
/-- R160 RW: ms after the RT second, 0 to 899. Bits [31:24] reserved. -/
def GNS_CFG_BURST_PHASE : Fld := ⟨0x2000000, 0, 14, 10⟩
/-- R160 RW: 0 IDLE; 1 CONT; 2 BURST; 3 SNAP; under R143. Scout. -/
def GNS_CTRL_MODE : Fld := ⟨0x2000004, 0, 0, 2⟩
/-- R160 WO: Dumps read; region may be gated. Bits [31:3] reserved. -/
def GNS_CTRL_RES_RELEASE : Fld := ⟨0x2000004, 0, 2, 1⟩
/-- R160 RO: Mode in effect. -/
def GNS_STAT_MODE_ACT : Fld := ⟨0x2000008, 0, 0, 2⟩
/-- R160 RO: 1 = sample clock present under R141. -/
def GNS_STAT_CLK_OK : Fld := ⟨0x2000008, 0, 2, 1⟩
/-- R160 RO: 1 = burst or capture running. -/
def GNS_STAT_BURST_ACTIVE : Fld := ⟨0x2000008, 0, 3, 1⟩
/-- R160 RW: As R144. Scout. -/
def GNS_STAT_RX_STATE : Fld := ⟨0x2000008, 0, 4, 3⟩
/-- R160 RW: Satellites tracked. Scout. -/
def GNS_STAT_NSV_TRACK : Fld := ⟨0x2000008, 0, 7, 5⟩
/-- R160 RW: Satellites authenticated. Scout. -/
def GNS_STAT_NSV_AUTH : Fld := ⟨0x2000008, 0, 12, 5⟩
/-- R160 RW: 1 = survey running. Scout. Bits [31:18] reserved. -/
def GNS_STAT_SURVEY : Fld := ⟨0x2000008, 0, 17, 1⟩
/-- R160 W1C: [0] BURST_DONE; [1] CLK_LOST; [2] SNAP_READY; [3] SNAP_SKIPPED; [4] SPOOF_SUSPECT; [5] . -/
def GNS_EVT : Fld := ⟨0x200000C, 0, 0, 8⟩
/-- R160 RW: IF offset, signed Hz, −5,000,000 to +5,000,000. Bits [31:24] reserved. -/
def GNS_IF : Fld := ⟨0x2000010, 0, 0, 24⟩
/-- R160 RO: GSI_AGC duty, units of 1/1,024. -/
def GNS_AGC_AGC_OUT : Fld := ⟨0x2000014, 0, 0, 10⟩
/-- R160 RW: % of samples with magnitude 4 or more. -/
def GNS_AGC_AGC_TARGET : Fld := ⟨0x2000014, 0, 16, 7⟩
/-- R160 RW: 1 = freeze AGC_OUT. Bits [15:10], [31:24] reserved. -/
def GNS_AGC_AGC_HOLD : Fld := ⟨0x2000014, 0, 23, 1⟩
/-- R160 RO: Bursts completed. -/
def GNS_CNT_BURSTS : Fld := ⟨0x2000018, 0, 0, 16⟩
/-- R160 RW: Under R141 and R146; hardware and Scout increment. -/
def GNS_CNT_BURSTS_DISCARDED : Fld := ⟨0x2000018, 0, 16, 16⟩
/-- R160 RO: Captures skipped. -/
def GNS_SNAP_CNT_SKIPPED : Fld := ⟨0x200001C, 0, 0, 16⟩
/-- R160 RW: Late results. Scout. -/
def GNS_SNAP_CNT_SNAP_LATE : Fld := ⟨0x200001C, 0, 16, 16⟩
/-- R160 RO: Bit k = slot k awaiting DONE. Bits [31:2] reserved. -/
def GNS_SNAP_STAT : Fld := ⟨0x2000020, 0, 0, 2⟩
/-- R160 WO: Slot released. -/
def GNS_SNAP_DONE_SLOT : Fld := ⟨0x2000024, 0, 0, 1⟩
/-- R160 WO: 1 = result block holds this slot's result. -/
def GNS_SNAP_DONE_VALID : Fld := ⟨0x2000024, 0, 1, 1⟩
/-- R160 WO: Low 16 bits of the slot's SEQ. Bits [15:2] reserved. -/
def GNS_SNAP_DONE_SEQ : Fld := ⟨0x2000024, 0, 16, 16⟩
/-- R160 RO: CSET_VER at the first sample of the last burst. -/
def GNS_BURST_CSET_START : Fld := ⟨0x2000028, 0, 0, 16⟩
/-- R160 RO: CSET_VER at its last sample. -/
def GNS_BURST_CSET_END : Fld := ⟨0x2000028, 0, 16, 16⟩
/-- R160 RW: ECEF X, Y, Z, each signed 64-bit, mm. -/
def GNS_POS : Fld := ⟨0x2000040, 0, 0, 192⟩
/-- R160 RW: Position bound, mm; 0 = survey. Bits [31:24] reserved. -/
def GNS_POS_UNC : Fld := ⟨0x2000058, 0, 0, 24⟩
/-- R160 RW: s, 600 to 604,800; 21,600 at reset. Bits [31:20] reserved. -/
def GNS_SURVEY_TIME : Fld := ⟨0x200005C, 0, 0, 20⟩
/-- R160 RW: Degrees. -/
def GNS_MASK_ELEV_MASK : Fld := ⟨0x2000060, 0, 0, 7⟩
/-- R160 RW: dB-Hz. -/
def GNS_MASK_CN0_MIN : Fld := ⟨0x2000060, 0, 8, 8⟩
/-- R160 RW: 1 to 24. Bits [7], [31:21] reserved. -/
def GNS_MASK_SOL_MIN_SV : Fld := ⟨0x2000060, 0, 16, 5⟩
/-- R160 RW: s; 600 at reset. -/
def GNS_TIMERS0_DATA_PERIOD : Fld := ⟨0x2000064, 0, 0, 16⟩
/-- R160 RW: s. Bits [31:24] reserved. -/
def GNS_TIMERS0_WEAK_TIME : Fld := ⟨0x2000064, 0, 16, 8⟩
/-- R160 RW: s; 120 at reset. -/
def GNS_TIMERS1_ACQ_TIMEOUT : Fld := ⟨0x2000068, 0, 0, 16⟩
/-- R160 RW: s; 300 at reset. -/
def GNS_TIMERS1_RETRY_PERIOD : Fld := ⟨0x2000068, 0, 16, 16⟩
/-- R160 RW: Units of AGC_OUT, 1/1,024 of the GSI_AGC duty; 30 at reset. The appliance maker sets it. -/
def GNS_SPOOF_AGC_JUMP : Fld := ⟨0x200006C, 0, 0, 8⟩
/-- R160 RW: 0.1 dB-Hz; 2 dB-Hz at reset. -/
def GNS_SPOOF_CN0_SPREAD : Fld := ⟨0x200006C, 0, 8, 8⟩
/-- R160 RW: 10 ps units; 100,000 ps at reset. -/
def GNS_SPOOF_RES_TOL : Fld := ⟨0x200006C, 0, 16, 16⟩
/-- R160 RW: Host approximate TAI s. Word 1 bits [31:16] reserved. -/
def GNS_AID_TIME : Fld := ⟨0x2000070, 0, 0, 48⟩
/-- R160 RW: Its uncertainty, ms; 0xFFFF_FFFF = none. -/
def GNS_AID_TUNC : Fld := ⟨0x2000078, 0, 0, 32⟩
/-- R160 RO: Copies of the R159 entries, at 0x0_0080 + (sealed-store offset − 0x0_0A00). -/
def GNS_SEALED : Fld := ⟨0x2000080, 0, 0, 512⟩
/-- R160 RW: Satellite; 0 = channel idle. Scout. -/
def CH_CFG_SVID : Fld := ⟨0x2001000, 0x20, 0, 6⟩
/-- R160 RW: 1 = search mode under R142. Scout. Bits [31:7] reserved. -/
def CH_CFG_SEARCH : Fld := ⟨0x2001000, 0x20, 6, 1⟩
/-- R160 RW: Carrier NCO, signed, units of 20.46 MHz ÷ 2³². Scout. -/
def CH_CARR : Fld := ⟨0x2001004, 0x20, 0, 32⟩
/-- R160 RW: Code NCO, units of 20.46 MHz ÷ 2³². Scout. -/
def CH_CODE_RATE : Fld := ⟨0x2001008, 0x20, 0, 32⟩
/-- R160 RW: Code phase at the first sample, 2⁻²⁰ chip. Scout. -/
def CH_CODE_START : Fld := ⟨0x200100C, 0x20, 0, 32⟩
/-- R160 RW: 0 idle; 1 search; 2 pull-in; 3 track; 4 EXCLUDED. Scout. -/
def CH_STAT_STATE : Fld := ⟨0x2001010, 0x20, 0, 3⟩
/-- R160 RW: 1 = authenticated under R153. Scout. -/
def CH_STAT_AUTH : Fld := ⟨0x2001010, 0x20, 3, 1⟩
/-- R160 RW: 0.1 dB-Hz. Scout. Bits [15:4], [31:26] reserved. -/
def CH_STAT_CN0 : Fld := ⟨0x2001010, 0x20, 16, 10⟩
/-- R160 RW: Residual of R155, signed ps. Scout. -/
def CH_RESID : Fld := ⟨0x2001014, 0x20, 0, 32⟩
/-- R150 RW: Aiding area. -/
def GNS_AID_WIN : Fld := ⟨0x2004000, 0x4, 0, 32⟩
/-- R152 RW: Result block. -/
def GNS_RES_WIN : Fld := ⟨0x2008000, 0x4, 0, 32⟩
/-- R160 RO: Correlator result memory. -/
def GNS_COR_WIN : Fld := ⟨0x200A000, 0x4, 0, 32⟩
/-- R151 RO: Snapshot buffer. -/
def GNS_SNAP_WIN : Fld := ⟨0x2010000, 0x4, 0, 32⟩

/-! ### PRT (R187) -/
/-- R187 RW: 1 = port enabled. -/
def PRT_CFG_ENABLE : Fld := ⟨0x3000000, 0x4000, 0, 1⟩
/-- R187 RW: As R161. -/
def PRT_CFG_MODE : Fld := ⟨0x3000000, 0x4000, 1, 3⟩
/-- R187 RW: 1 = automatic speed shift permitted under R182. -/
def PRT_CFG_ACCESS : Fld := ⟨0x3000000, 0x4000, 4, 1⟩
/-- R187 RW: 1 = auto-negotiation. -/
def PRT_CFG_AN_EN : Fld := ⟨0x3000000, 0x4000, 5, 1⟩
/-- R187 RW: 1 = honour PAUSE. -/
def PRT_CFG_RX_PAUSE_EN : Fld := ⟨0x3000000, 0x4000, 6, 1⟩
/-- R187 RW: 1 = Other frames to the host. -/
def PRT_CFG_HOST_FWD : Fld := ⟨0x3000000, 0x4000, 7, 1⟩
/-- R187 RW: 1 = pair with P(2j + 1); even ports only. -/
def PRT_CFG_PRP_EN : Fld := ⟨0x3000000, 0x4000, 8, 1⟩
/-- R187 RW: 1 = deliver both copies of PTP frames. Bits [11:10] reserved. -/
def PRT_CFG_PRP_PTP_BOTH : Fld := ⟨0x3000000, 0x4000, 9, 1⟩
/-- R187 RW: Bytes, 64 to 9,600; out-of-range writes clamped. Bits [31:26] reserved. -/
def PRT_CFG_MAX_FRAME : Fld := ⟨0x3000000, 0x4000, 12, 14⟩
/-- R187 RO: As R162. -/
def PRT_STAT_LINK_STATE : Fld := ⟨0x3000004, 0x4000, 0, 3⟩
/-- R187 RO: Mode in use. -/
def PRT_STAT_MODE_ACT : Fld := ⟨0x3000004, 0x4000, 3, 3⟩
/-- R187 RO: 1 = timestamps issued. -/
def PRT_STAT_TS_READY : Fld := ⟨0x3000004, 0x4000, 6, 1⟩
/-- R187 RO: 1 = timestamps carry DEGRADED under R169. -/
def PRT_STAT_DEGRADED : Fld := ⟨0x3000004, 0x4000, 7, 1⟩
/-- R187 RO: 1 = running at 10GBASE-R under R182. -/
def PRT_STAT_DOWNSHIFTED : Fld := ⟨0x3000004, 0x4000, 8, 1⟩
/-- R187 RO: 1 = no automatic shift possible. -/
def PRT_STAT_DOWNSHIFT_UNAVAIL : Fld := ⟨0x3000004, 0x4000, 9, 1⟩
/-- R187 RO: 1 = transmitter paused. -/
def PRT_STAT_PAUSED : Fld := ⟨0x3000004, 0x4000, 10, 1⟩
/-- R187 RO: 1 = PAUSE ignored after the watchdog. -/
def PRT_STAT_PAUSE_IGNORING : Fld := ⟨0x3000004, 0x4000, 11, 1⟩
/-- R187 RO: As R178. -/
def PRT_STAT_RECAL_STALE : Fld := ⟨0x3000004, 0x4000, 12, 1⟩
/-- R187 RO: Pair modes differ. Bits [31:14] reserved. -/
def PRT_STAT_PRP_CFG_ERR : Fld := ⟨0x3000004, 0x4000, 13, 1⟩
/-- R187 W1C: [0] LINK_UP; [1] LINK_DOWN; [2] SHIFT_DONE; [3] PAUSE_BROKEN; [4] UNDERRUN; [5] RECAL_D. -/
def PRT_EVT : Fld := ⟨0x3000008, 0x4000, 0, 9⟩
/-- R187 RW: Start threshold (STEP + 1) × 128 bytes; 15 = whole frame; hardware increments under R18. -/
def PRT_TX_START : Fld := ⟨0x300000C, 0x4000, 0, 4⟩
/-- R187 RW: % of 25 Gb/s, 1 to 30; clamped. -/
def PRT_SHIFT_CFG_DOWN_UTIL : Fld := ⟨0x3000010, 0x4000, 0, 8⟩
/-- R187 RW: % of 10 Gb/s, 10 to 95; clamped. -/
def PRT_SHIFT_CFG_UP_UTIL : Fld := ⟨0x3000010, 0x4000, 8, 8⟩
/-- R187 RW: s, 10 to 65,535. -/
def PRT_SHIFT_CFG_DOWN_TIME : Fld := ⟨0x3000010, 0x4000, 16, 16⟩
/-- R187 RW: Units of 100 µs, 1 to 65,535. -/
def PRT_PAUSE_PAUSE_MAX : Fld := ⟨0x3000014, 0x4000, 0, 16⟩
/-- R187 RW: ms. -/
def PRT_PAUSE_PAUSE_IGNORE : Fld := ⟨0x3000014, 0x4000, 16, 16⟩
/-- R187 RW: As R176. Bits [3:2] reserved. -/
def PRT_RECAL_CFG_COVER : Fld := ⟨0x3000018, 0x4000, 0, 2⟩
/-- R187 RW: s, 600 to 262,143; clamped. Bits [31:22] reserved. -/
def PRT_RECAL_CFG_RECAL_PERIOD : Fld := ⟨0x3000018, 0x4000, 4, 18⟩
/-- R187 RW: MAC address bits [31:0]. -/
def PRT_MAC0 : Fld := ⟨0x3000020, 0x4000, 0, 32⟩
/-- R187 RW: MAC address bits [47:32]. Bits [31:16] reserved. -/
def PRT_MAC1 : Fld := ⟨0x3000024, 0x4000, 0, 16⟩
/-- R187 WO: Clears every counter of the port. Bits [31:1] reserved. -/
def PRT_CNT_CLR : Fld := ⟨0x30000FC, 0x4000, 0, 1⟩
/-- R187 RO: Receive word-clock phase after the PG tick, units of 1/65,536 tick. -/
def PRT_LANE_PHASE_PHASE : Fld := ⟨0x3000200, 0x4000, 0, 16⟩
/-- R187 RO: Word-alignment offset from the last lock, bits. Bits [31:24] reserved. -/
def PRT_LANE_PHASE_SLIP : Fld := ⟨0x3000200, 0x4000, 16, 8⟩
/-- R187 RO: lat_tx in force, signed, 1/16 ps. -/
def PRT_LAT_TX : Fld := ⟨0x3000204, 0x4000, 0, 32⟩
/-- R187 RO: lat_rx in force, signed, 1/16 ps. -/
def PRT_LAT_RX : Fld := ⟨0x3000208, 0x4000, 0, 32⟩
/-- R187 RO: recal_tx, signed, 1/16 ps. Bits [31:24] reserved. -/
def PRT_RECAL_TX : Fld := ⟨0x300020C, 0x4000, 0, 24⟩
/-- R187 RO: recal_rx, signed, 1/16 ps. Bits [31:24] reserved. -/
def PRT_RECAL_RX : Fld := ⟨0x3000210, 0x4000, 0, 24⟩
/-- R187 RO: s since the last accepted recalibration, saturating. -/
def PRT_RECAL_AGE : Fld := ⟨0x3000214, 0x4000, 0, 32⟩
/-- R187 RO: KNL_PARAM_GEN of the table copy in use. -/
def PRT_LAT_GEN : Fld := ⟨0x3000218, 0x4000, 0, 32⟩
/-- R187 RO: Newest receive metadata, laid out as R168. A read of word 0 latches all four. -/
def PRT_LAST_RX : Fld := ⟨0x3000220, 0x4000, 0, 128⟩
/-- R187 RW: Entry lifetime, ms, 10 to 1,000; clamped; even ports only. -/
def PRT_PRP_CFG_FORGET : Fld := ⟨0x3000300, 0x4000, 0, 16⟩
/-- R187 RW: 1 = send supervision frames. Bits [31:17] reserved. -/
def PRT_PRP_CFG_SUP_EN : Fld := ⟨0x3000300, 0x4000, 16, 1⟩
/-- R187 RO: 1 = a limit of R171 exceeded. -/
def PRT_PG_STAT_REGION_SKEW : Fld := ⟨0x3003000, 0x20000, 0, 1⟩
/-- R187 RO: Temperature cause. -/
def PRT_PG_STAT_TEMP_SKEW : Fld := ⟨0x3003000, 0x20000, 1, 1⟩
/-- R187 RO: Voltage cause. -/
def PRT_PG_STAT_VOLT_SKEW : Fld := ⟨0x3003000, 0x20000, 2, 1⟩
/-- R187 RO: Clock-ratio cause. -/
def PRT_PG_STAT_CLK_SKEW : Fld := ⟨0x3003000, 0x20000, 3, 1⟩
/-- R187 RO: 1 = XCOMP in use under R170. Bits [31:5] reserved. -/
def PRT_PG_STAT_XCOMP_VALID : Fld := ⟨0x3003000, 0x20000, 4, 1⟩
/-- R187 RO: Group temperature, signed, 1/16 °C. -/
def PRT_PG_TEMP_T_PG : Fld := ⟨0x3003004, 0x20000, 0, 16⟩
/-- R187 RO: KENNEL temperature at the same sample, signed, 1/16 °C. -/
def PRT_PG_TEMP_T_KNL : Fld := ⟨0x3003004, 0x20000, 16, 16⟩
/-- R187 RO: Largest supply difference of R171, mV. Bits [31:16] reserved. -/
def PRT_PG_VDIFF : Fld := ⟨0x3003008, 0x20000, 0, 16⟩
/-- R187 RO: Mean crossing round trip, 1/16 ps. Bits [31:24] reserved. -/
def PRT_PG_RTT : Fld := ⟨0x300300C, 0x20000, 0, 24⟩
/-- R187 RO: Crossing compensation in force, 1/16 ps. Bits [31:24] reserved. -/
def PRT_PG_XCOMP : Fld := ⟨0x3003010, 0x20000, 0, 24⟩
/-- R187 RO: Entries into REGION_SKEW, saturating. Bits [31:16] reserved. -/
def PRT_PG_XCNT : Fld := ⟨0x3003014, 0x20000, 0, 16⟩
/-- R187 RO: Frames delivered. -/
def PRT_RX_FRAMES : Fld := ⟨0x3000100, 0x4000, 0, 32⟩
/-- R187 RO: Frames sent. -/
def PRT_TX_FRAMES : Fld := ⟨0x3000104, 0x4000, 0, 32⟩
/-- R187 RO: In that order, one register each, as R180. -/
def PRT_RX_DROP_FCS : Fld := ⟨0x3000108, 0x4000, 0, 32⟩
/-- R187 RO: In that order, one register each, as R180. -/
def PRT_RX_DROP_RUNT : Fld := ⟨0x300010C, 0x4000, 0, 32⟩
/-- R187 RO: In that order, one register each, as R180. -/
def PRT_RX_DROP_OVERSIZE : Fld := ⟨0x3000110, 0x4000, 0, 32⟩
/-- R187 RO: In that order, one register each, as R180. -/
def PRT_RX_DROP_CODE : Fld := ⟨0x3000114, 0x4000, 0, 32⟩
/-- R187 RO: In that order, one register each, as R180. -/
def PRT_RX_DROP_MALFORMED : Fld := ⟨0x3000118, 0x4000, 0, 32⟩
/-- R187 RO: In that order, one register each, as R180. -/
def PRT_RX_DROP_NOQUEUE : Fld := ⟨0x300011C, 0x4000, 0, 32⟩
/-- R187 RO: In that order, one register each, as R180. -/
def PRT_RX_DROP_FILTER : Fld := ⟨0x3000120, 0x4000, 0, 32⟩
/-- R187 RO: In that order, one register each, as R180. -/
def PRT_RX_DROP_RECAL : Fld := ⟨0x3000124, 0x4000, 0, 32⟩
/-- R187 RO: Duplicates dropped. -/
def PRT_PRP_DUP : Fld := ⟨0x3000128, 0x4000, 0, 32⟩
/-- R187 RO: Trailers naming the other LAN. -/
def PRT_PRP_WRONG : Fld := ⟨0x300012C, 0x4000, 0, 32⟩
/-- R187 RO: Underruns. -/
def PRT_UNDERRUN : Fld := ⟨0x3000130, 0x4000, 0, 32⟩
/-- R187 RO: PAUSE frames received; watchdog breaks. -/
def PRT_PAUSE_CNT_PAUSE_RX : Fld := ⟨0x3000134, 0x4000, 0, 16⟩
/-- R187 RO: PAUSE frames received; watchdog breaks. -/
def PRT_PAUSE_CNT_PAUSE_BROKEN : Fld := ⟨0x3000134, 0x4000, 16, 16⟩
/-- R187 RO: Speed shifts; recalibrations accepted. -/
def PRT_SHIFT_CNT_SHIFTS : Fld := ⟨0x3000138, 0x4000, 0, 16⟩
/-- R187 RO: Speed shifts; recalibrations accepted. -/
def PRT_SHIFT_CNT_RECALS : Fld := ⟨0x3000138, 0x4000, 16, 16⟩
/-- R187 RO: As R176 and R177. -/
def PRT_RECAL_CNT_RECAL_FAILS : Fld := ⟨0x300013C, 0x4000, 0, 16⟩
/-- R187 RO: As R176 and R177. -/
def PRT_RECAL_CNT_RECAL_DEFERRED : Fld := ⟨0x300013C, 0x4000, 16, 16⟩
/-- R187 RO: Frames delivered with NOTS. -/
def PRT_NOTS : Fld := ⟨0x3000140, 0x4000, 0, 32⟩

/-! ### LCH (R205) -/
/-- R205 RW: 0 = every descriptor refused as DISABLED. -/
def LCH_CTRL_ENABLE : Fld := ⟨0x3400000, 0, 0, 1⟩
/-- R205 RW: ms, 1 to 2,000; writes outside the range are clamped. Bits [31:12] reserved. -/
def LCH_CTRL_AHEAD_MAX : Fld := ⟨0x3400000, 0, 1, 11⟩
/-- R205 W1C: [0] LATE; [1] TSQ_LOST; [2] REFUSED; [3] MASK_APPLIED; [4] RING_HELD; [5] MASK_BUSY. Bi. -/
def LCH_EVT : Fld := ⟨0x3400004, 0, 0, 6⟩
/-- R205 WO: Host descriptor, laid out as R189; the write of HSUB11 submits it. -/
def LCH_HSUB : Fld := ⟨0x3400100, 0, 0, 384⟩
/-- R205 RO: Last host submission: 0 accepted; 1 QFULL; 2 AHEAD; 3 BADDESC; 4 NORING; 5 DISABLED. -/
def LCH_HOST_STAT_LAST : Fld := ⟨0x3400130, 0, 0, 3⟩
/-- R205 RO: Host descriptors accepted; wraps. Bits [7:3] reserved. -/
def LCH_HOST_STAT_ACCEPTED : Fld := ⟨0x3400130, 0, 8, 24⟩
/-- R205 RW: Shared SRAM address, 32-byte aligned; bits [4:0] read 0. -/
def LCH_RING_BASE : Fld := ⟨0x3401000, 0x20, 0, 32⟩
/-- R205 RW: 1 = ring in use. -/
def LCH_RING_CFG_ENABLE : Fld := ⟨0x3401004, 0x20, 0, 1⟩
/-- R205 RW: 6 to 12; writes outside the range are clamped. -/
def LCH_RING_CFG_SIZE_LOG2 : Fld := ⟨0x3401004, 0x20, 1, 4⟩
/-- R205 RW: Entries that raise the host vector; ring 10 only. Bits [31:18] reserved. -/
def LCH_RING_CFG_THRESH : Fld := ⟨0x3401004, 0x20, 5, 13⟩
/-- R205 RO: Entries written. Bits [31:16] reserved. -/
def LCH_RING_WR : Fld := ⟨0x3401008, 0x20, 0, 16⟩
/-- R205 RW: Entries taken; TSPOP advances it for r = 0 to 9. Bits [31:16] reserved. -/
def LCH_RING_RD : Fld := ⟨0x340100C, 0x20, 0, 16⟩
/-- R205 RO: 1 = ring full. -/
def LCH_RING_STAT_FULL : Fld := ⟨0x3401010, 0x20, 0, 1⟩
/-- R205 RO: Times the mover was stopped by this ring, saturating. Bits [15:1] reserved. -/
def LCH_RING_STAT_HELD : Fld := ⟨0x3401010, 0x20, 16, 16⟩
/-- R205 RO: Timed queue entries, 0 to 128. -/
def LCH_PSTAT_TQ_DEPTH : Fld := ⟨0x3408004, 0x200, 0, 8⟩
/-- R205 RO: Immediate queue entries, 0 to 64. -/
def LCH_PSTAT_IQ_DEPTH : Fld := ⟨0x3408004, 0x200, 8, 7⟩
/-- R205 RO: Report queue entries, 0 to 256. -/
def LCH_PSTAT_RQ_DEPTH : Fld := ⟨0x3408004, 0x200, 16, 9⟩
/-- R205 RO: 1 = shadow mask awaiting the cycle boundary. Bits [15], [31:26] reserved. -/
def LCH_PSTAT_COMMIT_PENDING : Fld := ⟨0x3408004, 0x200, 25, 1⟩
/-- R205 WO: Marks the shadow pending under R192. Bits [31:1] reserved. -/
def LCH_MASK_COMMIT : Fld := ⟨0x3408008, 0x200, 0, 1⟩
/-- R205 RO: Reports lost since the last GAP, saturating. Bits [31:16] reserved. -/
def LCH_LOST_PEND : Fld := ⟨0x340800C, 0x200, 0, 16⟩
/-- R205 RO: Timed frames sent at L. -/
def LCH_CNT_SENT : Fld := ⟨0x3408010, 0x200, 0, 32⟩
/-- R205 RO: Timed frames sent after L within the window. -/
def LCH_CNT_MOVED : Fld := ⟨0x3408014, 0x200, 0, 32⟩
/-- R205 RO: Frames discarded as LATE. -/
def LCH_CNT_LATE : Fld := ⟨0x3408018, 0x200, 0, 32⟩
/-- R205 RO: Reports lost at the port queue. -/
def LCH_TSQ_LOST : Fld := ⟨0x340801C, 0x200, 0, 32⟩
/-- R205 RO: Descriptors refused under R190. -/
def LCH_CNT_REFUSED : Fld := ⟨0x3408020, 0x200, 0, 32⟩
/-- R205 RO: SEQ of the next report formed. Bits [31:16] reserved. -/
def LCH_RSEQ : Fld := ⟨0x3408024, 0x200, 0, 16⟩
/-- R205 RW: Shadow mask; 1 = open. -/
def LCH_MASK_SHADOW : Fld := ⟨0x3408100, 0x200, 0, 1024⟩
/-- R205 RO: Mask in force. -/
def LCH_MASK_ACTIVE : Fld := ⟨0x3408180, 0x200, 0, 1024⟩

/-! ### SRV (R236) -/
/-- R236 RW: 1 = CLASS 1 to 3 frames go to SRV. -/
def SRV_CTRL_ENABLE : Fld := ⟨0x3800000, 0, 0, 1⟩
/-- R236 RW: 1 = NTS served. -/
def SRV_CTRL_NTS_EN : Fld := ⟨0x3800000, 0, 1, 1⟩
/-- R236 RW: 1 = NTSN sent under R226. -/
def SRV_CTRL_NAK_EN : Fld := ⟨0x3800000, 0, 2, 1⟩
/-- R236 RW: 1 = NTP without NTS served. -/
def SRV_CTRL_PLAIN_NTP : Fld := ⟨0x3800000, 0, 3, 1⟩
/-- R236 RW: 0 OPEN; 1 LISTED; 2 CLOSED; 3 reserved. Bits [31:6] reserved. -/
def SRV_CTRL_ADMIT : Fld := ⟨0x3800000, 0, 4, 2⟩
/-- R236 W1C: [0] POOL_EMPTY; [1] TABLE_FULL; [2] CTX_FULL; [3] AU_SPILL; [4] MINT_DONE; [5] MINT_BUS. -/
def SRV_EVT : Fld := ⟨0x3800004, 0, 0, 10⟩
/-- R236 RO: [0] STEER_PENDING; [1] ROT_ARMED; [2] CUR_VALID; [3] PREV_VALID; [4] MINT_BUSY; [5] DRB. -/
def SRV_STAT : Fld := ⟨0x3800008, 0, 0, 6⟩
/-- R236 WO: Commits the shadow under R212. Bits [31:1] reserved. -/
def SRV_STEER_COMMIT : Fld := ⟨0x380000C, 0, 0, 1⟩
/-- R236 RW: Unit for Scout tickets. -/
def SRV_AU_CFG_SCOUT_AU : Fld := ⟨0x3800010, 0, 0, 3⟩
/-- R236 RW: Unit for Warden tickets. Bits [3], [31:7] reserved. -/
def SRV_AU_CFG_WARDEN_AU : Fld := ⟨0x3800010, 0, 4, 3⟩
/-- R236 RW: clockIdentity, EUI-64, first byte in [7:0] of ID0. -/
def SRV_CLOCK_ID : Fld := ⟨0x3800014, 0, 0, 64⟩
/-- R236 RW: Entry i in word i ÷ 8, bits [4(i mod 8) + 2 : 4(i mod 8)]; value k = Sk; bit 4(i mod 8). -/
def SRV_STEER_SHADOW : Fld := ⟨0x3800100, 0, 0, 1024⟩
/-- R236 RO: Table in force. -/
def SRV_STEER_ACTIVE : Fld := ⟨0x3800180, 0, 0, 1024⟩
/-- R236 RW: Shared SRAM address, 64-byte aligned. -/
def SRV_POOL_BASE : Fld := ⟨0x3800600, 0, 0, 32⟩
/-- R236 RW: Buffers, 16 to 2,048; clamped. Bits [31:12] reserved. -/
def SRV_POOL_CFG : Fld := ⟨0x3800604, 0, 0, 12⟩
/-- R236 RO: Buffers free. Bits [31:12] reserved. -/
def SRV_POOL_FREE : Fld := ⟨0x3800608, 0, 0, 12⟩
/-- R236 WO: Returns a buffer. -/
def SRV_POOL_RET : Fld := ⟨0x380060C, 0, 0, 32⟩
/-- R236 RO: Frames dropped, pool empty. -/
def SRV_POOL_EMPTY : Fld := ⟨0x3800610, 0, 0, 32⟩
/-- R236 WO: KIND [1:0]; domainNumber [15:8]; L2 [16]; IPV6 [17]. Bits [7:2], [31:18] reserved. -/
def SRV_CT_KEY0 : Fld := ⟨0x3800800, 0, 0, 18⟩
/-- R236 WO: Address bytes in wire order, first byte in [7:0] of KEY1; unused bytes 0. -/
def SRV_CT_ADDR : Fld := ⟨0x3800804, 0, 0, 128⟩
/-- R236 WO: 1 LOOKUP; 2 PIN; 3 UNPIN; 4 DELETE; 5 SET_DENY; 6 CLEAR_DENY. Bits [31:3] reserved. -/
def SRV_CT_CMD : Fld := ⟨0x3800814, 0, 0, 3⟩
/-- R236 RO: Record index. -/
def SRV_CT_RES_INDEX : Fld := ⟨0x3800818, 0, 0, 20⟩
/-- R236 RO: 0 OK; 1 NOT_FOUND; 2 EXISTS; 3 FULL. -/
def SRV_CT_RES_STATUS : Fld := ⟨0x3800818, 0, 20, 4⟩
/-- R236 RO: 1 = result valid; cleared by a write of SRV_CT_CMD. Bits [30:24] reserved. -/
def SRV_CT_RES_DONE : Fld := ⟨0x3800818, 0, 31, 1⟩
/-- R236 RO: Records in use. Bits [31:21] reserved. -/
def SRV_CT_USED : Fld := ⟨0x380081C, 0, 0, 21⟩
/-- R236 RO: INSERTs failed. -/
def SRV_CT_FULL : Fld := ⟨0x3800820, 0, 0, 32⟩
/-- R236 RW: s, 1 to 1,000. -/
def SRV_GRANT_DUR_DUR_MIN : Fld := ⟨0x3800900, 0, 0, 10⟩
/-- R236 RW: s, 10 to 1,000. Bits [15:10], [31:26] reserved. -/
def SRV_GRANT_DUR_DUR_MAX : Fld := ⟨0x3800900, 0, 16, 10⟩
/-- R236 RW: SYNC [3:0], ANN [7:4], DRESP [11:8]; each logInterMessagePeriod + 8; −7, −3, −7 at rese. -/
def SRV_GRANT_LOG : Fld := ⟨0x3800904, 0, 0, 12⟩
/-- R236 RW: Units of 1,000 per s; 36,000 at reset; at most 40,000. Bits [31:16] reserved. -/
def SRV_GRANT_BUDGET : Fld := ⟨0x3800908, 0, 0, 16⟩
/-- R236 RW: Rate committed by Sk, per s. Sn. -/
def SRV_GRANT_SHARE : Fld := ⟨0x3800920, 0x4, 0, 32⟩
/-- R236 RW: Signed log₂ s; −30 at reset. -/
def SRV_NTP_CFG_PRECISION : Fld := ⟨0x3800A00, 0, 0, 8⟩
/-- R236 RW: Tokens. -/
def SRV_NTP_CFG_BURST : Fld := ⟨0x3800A00, 0, 8, 8⟩
/-- R236 RW: Refill, units of 1/16 request per s. Bits [31:24] reserved. -/
def SRV_NTP_CFG_RATE : Fld := ⟨0x3800A00, 0, 16, 8⟩
/-- R236 RW: s. Bits [31:16] reserved. -/
def SRV_NTP_IDLE : Fld := ⟨0x3800A04, 0, 0, 16⟩
/-- R236 RW: ns, 1,000 to 20,000; clamped. Bits [31:16] reserved. -/
def SRV_NTS_LEAD : Fld := ⟨0x3800A08, 0, 0, 16⟩
/-- R236 RW: Reference ID in wire order, first byte in [7:0]. -/
def SRV_NTP_REFID : Fld := ⟨0x3800A40, 0x4, 0, 32⟩
/-- R236 RO: Current key ID. -/
def SRV_COOKIE_CUR : Fld := ⟨0x3800C00, 0, 0, 32⟩
/-- R236 RO: Previous key ID. -/
def SRV_COOKIE_PREV : Fld := ⟨0x3800C04, 0, 0, 32⟩
/-- R236 WO: Key slot. -/
def SRV_COOKIE_ROT0_SLOT : Fld := ⟨0x3800C08, 0, 0, 5⟩
/-- R236 WO: 1 = apply at once. Bits [7:5], [31:9] reserved. -/
def SRV_COOKIE_ROT0_NOW : Fld := ⟨0x3800C08, 0, 8, 1⟩
/-- R236 WO: New key ID. -/
def SRV_COOKIE_ROT1 : Fld := ⟨0x3800C0C, 0, 0, 32⟩
/-- R236 WO: RT second of effect; the write of ROT3 arms. ROT3 bits [31:16] reserved. -/
def SRV_COOKIE_ROT : Fld := ⟨0x3800C10, 0, 0, 48⟩
/-- R236 WO: C2S in KEY0 to KEY7, S2C in KEY8 to KEY15. -/
def SRV_MINT_KEY : Fld := ⟨0x3800D00, 0, 0, 512⟩
/-- R236 WO: 1 to 8; the write starts the mint. Bits [31:4] reserved. -/
def SRV_MINT_CMD : Fld := ⟨0x3800D40, 0, 0, 4⟩
/-- R236 RO: Mint running. -/
def SRV_MINT_STAT_BUSY : Fld := ⟨0x3800D44, 0, 0, 1⟩
/-- R236 RO: Cookies ready. -/
def SRV_MINT_STAT_DONE : Fld := ⟨0x3800D44, 0, 1, 1⟩
/-- R236 RO: 0 none; 1 NOKEY; 2 COUNT. -/
def SRV_MINT_STAT_ERR : Fld := ⟨0x3800D44, 0, 2, 2⟩
/-- R236 RO: Cookies in SRV_MINT_OUT. Bits [31:8] reserved. -/
def SRV_MINT_STAT_MINTED : Fld := ⟨0x3800D44, 0, 4, 4⟩
/-- R236 RO: Jobs completed. -/
def SRV_AU_JOBS : Fld := ⟨0x3802004, 0x40, 0, 32⟩
/-- R236 RO: Jobs received from full units. -/
def SRV_AU_SPILL : Fld := ⟨0x3802008, 0x40, 0, 32⟩
/-- R236 RO: Failed verifications. -/
def SRV_AU_TAGFAIL : Fld := ⟨0x380200C, 0x40, 0, 32⟩
/-- R236 RO: Contexts expired under R227. -/
def SRV_AU_CTXEXP : Fld := ⟨0x3802010, 0x40, 0, 32⟩
/-- R236 RW: 0 none; 1 HMAC-SHA-256; 2 AES-128-CMAC; 3 reserved. -/
def SRV_SA_CFG_ALG : Fld := ⟨0x3810000, 0x80, 0, 2⟩
/-- R236 RW: Bytes, 16 or 32; other values read as 16. -/
def SRV_SA_CFG_ICV_LEN : Fld := ⟨0x3810000, 0x80, 2, 6⟩
/-- R236 RW: Key A usable. -/
def SRV_SA_CFG_VALID_A : Fld := ⟨0x3810000, 0x80, 8, 1⟩
/-- R236 RW: Key B usable. -/
def SRV_SA_CFG_VALID_B : Fld := ⟨0x3810000, 0x80, 9, 1⟩
/-- R236 RW: 1 = sign with B. Bits [31:11] reserved. -/
def SRV_SA_CFG_TX_B : Fld := ⟨0x3810000, 0x80, 10, 1⟩
/-- R236 RW: keyID of A. -/
def SRV_SA_KEYID_A : Fld := ⟨0x3810004, 0x80, 0, 32⟩
/-- R236 RW: keyID of B. -/
def SRV_SA_KEYID_B : Fld := ⟨0x3810008, 0x80, 0, 32⟩
/-- R236 WO: Key A; a CMAC key uses words 0 to 3; takes effect at the write of word 7. -/
def SRV_SA_KEY_A : Fld := ⟨0x3810020, 0x80, 0, 256⟩
/-- R236 WO: Key B, as KEY_A. -/
def SRV_SA_KEY_B : Fld := ⟨0x3810040, 0x80, 0, 256⟩
/-- R236 RW: Shared SRAM address, 32-byte aligned; bits [4:0] read 0. -/
def SRV_RXQ_BASE : Fld := ⟨0x3800400, 0x20, 0, 32⟩
/-- R236 RW: 6 to 12; clamped. -/
def SRV_RXQ_CFG_SIZE_LOG2 : Fld := ⟨0x3800404, 0x20, 0, 4⟩
/-- R236 RW: 1 = queue in use; descriptors for a disabled queue are dropped. Bits [31:5] reserved. -/
def SRV_RXQ_CFG_ENABLE : Fld := ⟨0x3800404, 0x20, 4, 1⟩
/-- R236 RO: Entries written. Bits [31:16] reserved. -/
def SRV_RXQ_WR : Fld := ⟨0x3800408, 0x20, 0, 16⟩
/-- R236 RW: Entries taken. Bits [31:16] reserved. -/
def SRV_RXQ_RD : Fld := ⟨0x380040C, 0x20, 0, 16⟩
/-- R236 RO: Descriptors dropped, queue full. -/
def SRV_RXQ_DROP : Fld := ⟨0x3800410, 0x20, 0, 32⟩
/-- R236 RO: Cookie j, as R229. -/
def SRV_MINT_OUT : Fld := ⟨0x3801000, 0x4, 0, 32⟩
/-- R236 RO: Jobs queued in AUu, 0 to 32. -/
def SRV_AU_STAT_QDEPTH : Fld := ⟨0x3802000, 0x40, 0, 6⟩
/-- R236 RO: Contexts held, 0 to 64. Bits [7:6], [31:15] reserved. -/
def SRV_AU_STAT_CTX_USED : Fld := ⟨0x3802000, 0x40, 8, 7⟩
/-- R236 RO: In that order, one register each, as R226. -/
def SRV_CNT_NTS_OK : Fld := ⟨0x3803000, 0, 0, 32⟩
/-- R236 RO: In that order, one register each, as R226. -/
def SRV_CNT_NTS_COOKIE_BAD : Fld := ⟨0x3803004, 0, 0, 32⟩
/-- R236 RO: In that order, one register each, as R226. -/
def SRV_CNT_NTS_AUTH_FAIL : Fld := ⟨0x3803008, 0, 0, 32⟩
/-- R236 RO: In that order, one register each, as R226. -/
def SRV_CNT_NTS_REFUSED : Fld := ⟨0x380300C, 0, 0, 32⟩
/-- R236 RO: In that order, one register each, as R226. -/
def SRV_CNT_NTS_CTX_FULL : Fld := ⟨0x3803010, 0, 0, 32⟩
/-- R236 RW: In that order, one register each. Sn. -/
def SRV_CNT_PTP_AUTH_FAIL : Fld := ⟨0x3803100, 0, 0, 32⟩
/-- R236 RW: In that order, one register each. Sn. -/
def SRV_CNT_GRANT_DENIED : Fld := ⟨0x3803104, 0, 0, 32⟩
/-- R236 RW: In that order, one register each. Sn. -/
def SRV_CNT_RATE_DROP : Fld := ⟨0x3803108, 0, 0, 32⟩
/-- R236 RW: In that order, one register each. Sn. -/
def SRV_CNT_KOD_SENT : Fld := ⟨0x380310C, 0, 0, 32⟩
/-- R236 RW: In that order, one register each. Sn. -/
def SRV_CNT_UNSUPPORTED : Fld := ⟨0x3803110, 0, 0, 32⟩
/-- R236 RW: In that order, one register each. Sn. -/
def SRV_CNT_ANN_FOREIGN : Fld := ⟨0x3803114, 0, 0, 32⟩
/-- R236 RW: In that order, one register each. Sn. -/
def SRV_CNT_NOT_READY : Fld := ⟨0x3803118, 0, 0, 32⟩
/-- R236 RW: As R206. -/
def SRV_PORT_SVC0_PROFILE : Fld := ⟨0x3804000, 0x8, 0, 3⟩
/-- R236 RW: domainNumber. -/
def SRV_PORT_SVC0_DOMAIN : Fld := ⟨0x3804000, 0x8, 8, 8⟩
/-- R236 RW: Security association. -/
def SRV_PORT_SVC0_SPP : Fld := ⟨0x3804000, 0x8, 16, 8⟩
/-- R236 RW: 1 = sign and require R220. -/
def SRV_PORT_SVC0_AUTH_REQ : Fld := ⟨0x3804000, 0x8, 24, 1⟩
/-- R236 RW: 1 = multicast Sync two-step. -/
def SRV_PORT_SVC0_TWO_STEP : Fld := ⟨0x3804000, 0x8, 25, 1⟩
/-- R236 RW: 1 = NTP served on the port. -/
def SRV_PORT_SVC0_NTP_EN : Fld := ⟨0x3804000, 0x8, 26, 1⟩
/-- R236 RW: logInterMessagePeriod + 8; 0 = no multicast Sync. Bits [7:3], [31] reserved. -/
def SRV_PORT_SVC0_MC_LOG_SYNC : Fld := ⟨0x3804000, 0x8, 27, 4⟩
/-- R236 RW: As MC_LOG_SYNC. -/
def SRV_PORT_SVC1_MC_LOG_ANN : Fld := ⟨0x3804004, 0x8, 0, 4⟩
/-- R236 RW: Upstream session. -/
def SRV_PORT_SVC1_US : Fld := ⟨0x3804004, 0x8, 8, 3⟩
/-- R236 RW: 1 = session runs on this port. -/
def SRV_PORT_SVC1_US_EN : Fld := ⟨0x3804004, 0x8, 11, 1⟩
/-- R236 RW: Announce priority1. -/
def SRV_PORT_SVC1_PRIORITY1 : Fld := ⟨0x3804004, 0x8, 16, 8⟩
/-- R236 RW: Announce priority2. Bits [7:4], [15:12] reserved. -/
def SRV_PORT_SVC1_PRIORITY2 : Fld := ⟨0x3804004, 0x8, 24, 8⟩
/-- R236 RW: 0 none, multicast BMCA; 1 MAC; 2 IPv4; 3 IPv6. Bits [31:2] reserved. -/
def SRV_US_MASTER0 : Fld := ⟨0x3804400, 0x20, 0, 2⟩
/-- R236 RW: Master address in wire order, first byte in [7:0] of MASTER1. -/
def SRV_US_MADDR : Fld := ⟨0x3804404, 0x20, 0, 128⟩

/-! ### ADR (R361) -/
/-- R361 W1C: [3:0] UNDERRUN; [7:4] OVERRUN; [11:8] LOCK_LOST; [15:12] CLK_LOST, per port; [16] START. -/
def ADR_EVT : Fld := ⟨0x3C00000, 0, 0, 19⟩
/-- R361 RO: 1 = start armed. Bits [31:1] reserved. -/
def ADR_STAT : Fld := ⟨0x3C00004, 0, 0, 1⟩
/-- R361 RW: RT second of the start. Word 1 bits [31:16] reserved. -/
def ADR_START : Fld := ⟨0x3C00010, 0, 0, 48⟩
/-- R361 RW: 0 to 999. -/
def ADR_START2_START_MS : Fld := ⟨0x3C00018, 0, 0, 10⟩
/-- R361 RW: Bit n = An; the write of this word arms. Bits [15:10], [31:20] reserved. -/
def ADR_START2_PORTS : Fld := ⟨0x3C00018, 0, 16, 4⟩
/-- R361 RW: 1 = port in use. -/
def ADR_CFG_ENABLE : Fld := ⟨0x3C01000, 0x200, 0, 1⟩
/-- R361 RW: 0 output; 1 input. -/
def ADR_CFG_DIR : Fld := ⟨0x3C01000, 0x200, 1, 1⟩
/-- R361 RW: 0 32,000; 1 44,100; 2 48,000; 3 88,200; 4 96,000; 5 to 7 reserved. -/
def ADR_CFG_FS : Fld := ⟨0x3C01000, 0x200, 2, 3⟩
/-- R361 RW: OUT0 to OUT15. -/
def ADR_CFG_CLK_OUT : Fld := ⟨0x3C01000, 0x200, 5, 4⟩
/-- R361 RW: 0 zeros; 1 ring. -/
def ADR_CFG_SRC : Fld := ⟨0x3C01000, 0x200, 9, 1⟩
/-- R361 RW: 0 three bytes; 1 four bytes. -/
def ADR_CFG_PACK : Fld := ⟨0x3C01000, 0x200, 10, 1⟩
/-- R361 RW: 1 = capture, input only. -/
def ADR_CFG_CAP_EN : Fld := ⟨0x3C01000, 0x200, 11, 1⟩
/-- R361 RW: DARS grade: 0 none; 1 grade 1; 2 grade 2; 3 reserved. -/
def ADR_CFG_GRADE : Fld := ⟨0x3C01000, 0x200, 12, 2⟩
/-- R361 RW: As R357. -/
def ADR_CFG_AUTO_GRADE : Fld := ⟨0x3C01000, 0x200, 14, 1⟩
/-- R361 RW: As R357. -/
def ADR_CFG_AUTO_ADDR : Fld := ⟨0x3C01000, 0x200, 15, 1⟩
/-- R361 RW: 1 UTC; 0 TAI. Bits [31:17] reserved. -/
def ADR_CFG_TOD_UTC : Fld := ⟨0x3C01000, 0x200, 16, 1⟩
/-- R361 RW: Shared SRAM address, 64-byte aligned. -/
def ADR_RING_BASE : Fld := ⟨0x3C01004, 0x200, 0, 32⟩
/-- R361 RW: Frames, 8 to 20; clamped. -/
def ADR_RING_CFG_SIZE_LOG2 : Fld := ⟨0x3C01008, 0x200, 0, 5⟩
/-- R361 RW: Frames. Bits [7:5], [31:24] reserved. -/
def ADR_RING_CFG_START_LEVEL : Fld := ⟨0x3C01008, 0x200, 8, 16⟩
/-- R361 RW: Frames written; device-advanced for input. -/
def ADR_RING_WR : Fld := ⟨0x3C0100C, 0x200, 0, 32⟩
/-- R361 RW: Frames taken; device-advanced for output. -/
def ADR_RING_RD : Fld := ⟨0x3C01010, 0x200, 0, 32⟩
/-- R361 RW: As R354. -/
def ADR_MUTE_MUTE : Fld := ⟨0x3C01014, 0x200, 0, 1⟩
/-- R361 RW: Frames, 0 to 4,095. Bits [3:1], [31:16] reserved. -/
def ADR_MUTE_RAMP : Fld := ⟨0x3C01014, 0x200, 4, 12⟩
/-- R361 RO: As R358. -/
def ADR_PSTAT_IN_STATE : Fld := ⟨0x3C01018, 0x200, 0, 2⟩
/-- R361 RO: 1 = ring playout started. -/
def ADR_PSTAT_PLAYING : Fld := ⟨0x3C01018, 0x200, 2, 1⟩
/-- R361 RO: 1 = g is 0. -/
def ADR_PSTAT_GAIN_ZERO : Fld := ⟨0x3C01018, 0x200, 3, 1⟩
/-- R361 RO: As R356. -/
def ADR_PSTAT_COMMIT_PENDING : Fld := ⟨0x3C01018, 0x200, 4, 1⟩
/-- R361 RO: As R350. Bits [31:6] reserved. -/
def ADR_PSTAT_CLK_ERR : Fld := ⟨0x3C01018, 0x200, 5, 1⟩
/-- R361 RW: Frames. -/
def ADR_STEER_CFG_TARGET : Fld := ⟨0x3C0101C, 0x200, 0, 20⟩
/-- R361 RW: Time constant 2^TC s, 0 to 16. Bits [31:25] reserved. -/
def ADR_STEER_CFG_TC : Fld := ⟨0x3C0101C, 0x200, 20, 5⟩
/-- R361 RO: As R360, signed, 10⁻⁹. -/
def ADR_STEER : Fld := ⟨0x3C01020, 0x200, 0, 32⟩
/-- R361 WO: As R356. Bits [31:1] reserved. -/
def ADR_CS_COMMIT : Fld := ⟨0x3C01024, 0x200, 0, 1⟩
/-- R361 RW: A in words 0 to 5, B in 6 to 11; byte 0 in [7:0] of word 0. -/
def ADR_CS_SHADOW : Fld := ⟨0x3C01040, 0x200, 0, 384⟩
/-- R361 RW: User bits, laid out as CS. -/
def ADR_U_SHADOW : Fld := ⟨0x3C01070, 0x200, 0, 384⟩
/-- R361 RO: Channel status last sent, with R357 applied. -/
def ADR_CS_ACTIVE : Fld := ⟨0x3C010A0, 0x200, 0, 384⟩
/-- R361 RO: Last received block with a good CRCC. -/
def ADR_IN_CS : Fld := ⟨0x3C010D0, 0x200, 0, 384⟩
/-- R361 RO: RT of the block start as T96, then its frame index; a read of word 0 latches all four. -/
def ADR_CAP_MARK : Fld := ⟨0x3C01100, 0x200, 0, 128⟩
/-- R361 RO: In that order, one register each. -/
def ADR_UNDERRUNS : Fld := ⟨0x3C01140, 0x200, 0, 32⟩
/-- R361 RO: In that order, one register each. -/
def ADR_OVERRUNS : Fld := ⟨0x3C01144, 0x200, 0, 32⟩
/-- R361 RO: In that order, one register each. -/
def ADR_PARITY_ERR : Fld := ⟨0x3C01148, 0x200, 0, 32⟩
/-- R361 RO: In that order, one register each. -/
def ADR_CODE_ERR : Fld := ⟨0x3C0114C, 0x200, 0, 32⟩
/-- R361 RO: In that order, one register each. -/
def ADR_CRCC_ERR : Fld := ⟨0x3C01150, 0x200, 0, 32⟩

/-! ### ENG (R278) -/
/-- R278 RW: 1 = run, as R260 gives. For E0 and E1, set by the Kennel. -/
def ENG_CTRL_RUN : Fld := ⟨0x4000000, 0x100000, 0, 1⟩
/-- R278 RW: 1 = engine clock stopped; honoured in STOPPED only. -/
def ENG_CTRL_GATE : Fld := ⟨0x4000000, 0x100000, 1, 1⟩
/-- R278 WO: Starts measurement under R273. -/
def ENG_CTRL_LOAD_DONE : Fld := ⟨0x4000000, 0x100000, 2, 1⟩
/-- R278 WO: Applies an Engine reset. Bits [31:4] reserved. -/
def ENG_CTRL_ERESET : Fld := ⟨0x4000000, 0x100000, 3, 1⟩
/-- R278 RO: 0 OFF; 1 STOPPED; 2 MEASURING; 3 RUNNING; 4 WAITING; 5 HALTED. -/
def ENG_STAT_STATE : Fld := ⟨0x4000004, 0x100000, 0, 3⟩
/-- R278 RO: 1 = measured image present. -/
def ENG_STAT_MEAS_VALID : Fld := ⟨0x4000004, 0x100000, 3, 1⟩
/-- R278 RO: 1 = trap handler running. -/
def ENG_STAT_IN_TRAP : Fld := ⟨0x4000004, 0x100000, 4, 1⟩
/-- R278 RO: 1 = last BUSERR was from a store. -/
def ENG_STAT_IMPRECISE : Fld := ⟨0x4000004, 0x100000, 5, 1⟩
/-- R278 RO: Ticket entries in use, 0 to 16. -/
def ENG_STAT_TICKETS : Fld := ⟨0x4000004, 0x100000, 6, 5⟩
/-- R278 RO: Last trap cause, as R268. -/
def ENG_STAT_CAUSE : Fld := ⟨0x4000004, 0x100000, 12, 4⟩
/-- R278 RO: Events of the last wake, as R263. -/
def ENG_STAT_WAKE : Fld := ⟨0x4000004, 0x100000, 16, 7⟩
/-- R278 RO: 0 none; 1 MAGIC or FORMAT; 2 CLASS; 3 length; 4 entry; 5 BODY_HASH. Bits [11], [23], [3. -/
def ENG_STAT_LOAD_REASON : Fld := ⟨0x4000004, 0x100000, 24, 3⟩
/-- R278 W1C: [0] TRAPPED; [1] HALTED; [2] LOAD_ERR; [3] LOAD_REFUSED; [4] RUN_REFUSED; [5] IMEM_WRIT. -/
def ENG_EVT : Fld := ⟨0x4000008, 0x100000, 0, 8⟩
/-- R278 RW: Bits [2c + 1:2c] for cause c, 1 to 9: 0 VECTOR; 1 HALT; 2 RESET; 3 reserved. Fixed at H. -/
def ENG_TRAP_CFG : Fld := ⟨0x400000C, 0x100000, 2, 18⟩
/-- R278 RO: PC at the last trap. Bits [31:16] reserved. -/
def ENG_EPC : Fld := ⟨0x4000010, 0x100000, 0, 16⟩
/-- R278 RO: Address of the last ALIGN or BUSERR. -/
def ENG_BADADDR : Fld := ⟨0x4000014, 0x100000, 0, 32⟩
/-- R278 RO: PC sampled at the read. Bits [31:16] reserved. -/
def ENG_PC : Fld := ⟨0x4000018, 0x100000, 0, 16⟩
/-- R278 RW: µs; 0 = off. Any write restarts the count. Bits [31:24] reserved. -/
def ENG_WDOG : Fld := ⟨0x400001C, 0x100000, 0, 24⟩
/-- R278 RW: Heartbeat count; only writes from the engine itself take effect. -/
def ENG_HB : Fld := ⟨0x4000020, 0x100000, 0, 32⟩
/-- R278 WO: Sets bits in ENG_DBELL_PEND. -/
def ENG_DBELL : Fld := ⟨0x4000024, 0x100000, 0, 32⟩
/-- R278 W1C: Pending doorbell bits. -/
def ENG_DBELL_PEND : Fld := ⟨0x4000028, 0x100000, 0, 32⟩
/-- R278 RO: SHA-256 under R273, byte 0 in MEAS0 [7:0]. -/
def ENG_MEAS : Fld := ⟨0x4000040, 0x100000, 0, 256⟩
/-- R278 RO: VERSION of the loaded image. -/
def ENG_IMG_VER : Fld := ⟨0x4000060, 0x100000, 0, 32⟩
/-- R278 RO: IMEM_LEN ÷ 4. -/
def ENG_IMG_LEN_IMEM_WORDS : Fld := ⟨0x4000064, 0x100000, 0, 15⟩
/-- R278 RO: DMEM_LEN ÷ 4. Bits [15], [31] reserved. -/
def ENG_IMG_LEN_DMEM_WORDS : Fld := ⟨0x4000064, 0x100000, 16, 15⟩
/-- R278 RO: Engine-clock cycles not gated; 64 bits; wraps. -/
def ENG_CYCLES : Fld := ⟨0x4000080, 0x100000, 0, 64⟩
/-- R278 RO: Instructions retired; 64 bits; wraps. -/
def ENG_RETIRED : Fld := ⟨0x4000088, 0x100000, 0, 64⟩
/-- R278 RO: Cycles stalled on matrix loads or a full write buffer. -/
def ENG_STALL_MTX : Fld := ⟨0x4000090, 0x100000, 0, 32⟩
/-- R278 RO: Cycles stalled on a full ticket queue. -/
def ENG_STALL_TKT : Fld := ⟨0x4000094, 0x100000, 0, 32⟩
/-- R278 RO: µs spent in WAITING. -/
def ENG_WAIT : Fld := ⟨0x4000098, 0x100000, 0, 32⟩
/-- R278 RO: Single-bit errors corrected in IMEM or DMEM. -/
def ENG_ECC_CORRECTED : Fld := ⟨0x400009C, 0x100000, 0, 16⟩
/-- R278 RO: ECC_I and ECC_D traps. -/
def ENG_ECC_UNCORRECTED : Fld := ⟨0x400009C, 0x100000, 16, 16⟩
/-- R278 RW: Image header of R272 for the next measurement, byte 0 in HDR0 [7:0]; writes accepted as. -/
def ENG_LOAD_HDR : Fld := ⟨0x4000100, 0x100000, 0, 1024⟩

/-! ### PCK (R348) -/
/-- R348 RW: 1 = Pack active. -/
def PCK_CFG_ENABLE : Fld := ⟨0x6000000, 0, 0, 1⟩
/-- R348 RW: 0 node; 1 grandmaster. -/
def PCK_CFG_ROLE : Fld := ⟨0x6000000, 0, 1, 1⟩
/-- R348 RW: As R327. -/
def PCK_CFG_AUTH_REQ : Fld := ⟨0x6000000, 0, 2, 1⟩
/-- R348 RW: 1 to 31; 0 reads as 1. -/
def PCK_CFG_DEPTH_MAX : Fld := ⟨0x6000000, 0, 8, 5⟩
/-- R348 RW: Advertised when ROLE = 1. Bits [7:3], [15:13], [31:24] reserved. -/
def PCK_CFG_GM_PRIO : Fld := ⟨0x6000000, 0, 16, 8⟩
/-- R348 RW: Node identifier; writes ignored while ENABLE = 1. Bits [31:14] reserved. -/
def PCK_NODE : Fld := ⟨0x6000004, 0, 0, 14⟩
/-- R348 RW: Pack EtherType. Bits [31:16] reserved. -/
def PCK_ETYPE : Fld := ⟨0x6000008, 0, 0, 16⟩
/-- R348 RW: ROLLs, 1 to 255. -/
def PCK_TIMERS_ARRIVE_HOLD : Fld := ⟨0x600000C, 0, 0, 8⟩
/-- R348 RW: s, 2 to 255. -/
def PCK_TIMERS_DEPART_HOLD : Fld := ⟨0x600000C, 0, 8, 8⟩
/-- R348 RW: s. -/
def PCK_TIMERS_REARM_HOLD : Fld := ⟨0x600000C, 0, 16, 16⟩
/-- R348 RW: ms, 10 to 1,000; clamped. -/
def PCK_EXCH_EXCH_MS : Fld := ⟨0x6000010, 0, 0, 10⟩
/-- R348 RW: s. Bits [15:10] reserved. -/
def PCK_EXCH_REVERT_HOLD : Fld := ⟨0x6000010, 0, 16, 16⟩
/-- R348 RW: Key slot for the Pack key. -/
def PCK_AUTH_SLOT : Fld := ⟨0x6000014, 0, 0, 5⟩
/-- R348 WO: Derives and loads the key under R327. -/
def PCK_AUTH_LOAD : Fld := ⟨0x6000014, 0, 8, 1⟩
/-- R348 RO: 1 = key loaded. Bits [7:5], [31:10] reserved. -/
def PCK_AUTH_KEY_OK : Fld := ⟨0x6000014, 0, 9, 1⟩
/-- R348 RW: Bit p = Pp carries Pack traffic, P0 to P31 in EN0. -/
def PCK_PORT_EN : Fld := ⟨0x6000018, 0, 0, 64⟩
/-- R348 RO: Attachment of the uplink; 0x7F = none. -/
def PCK_STAT_UPLINK_ATT : Fld := ⟨0x6000020, 0, 0, 7⟩
/-- R348 RO: Own DEPTH; 63 = none. -/
def PCK_STAT_DEPTH : Fld := ⟨0x6000020, 0, 8, 6⟩
/-- R348 RO: An attachment ineligible under R324. Bits [7], [31:15] reserved. -/
def PCK_STAT_CFG_ERR : Fld := ⟨0x6000020, 0, 14, 1⟩
/-- R348 RO: Uplink identifier; meaningful only with VALID. -/
def PCK_UPLINK_NODE : Fld := ⟨0x6000024, 0, 0, 14⟩
/-- R348 RO: 1 = an uplink is held. Bit [15] reserved. -/
def PCK_UPLINK_VALID : Fld := ⟨0x6000024, 0, 14, 1⟩
/-- R348 RO: Uplink changes. -/
def PCK_UPLINK_CHANGES : Fld := ⟨0x6000024, 0, 16, 16⟩
/-- R348 RO: Grandmaster identifier; meaningful only with GM_VALID. -/
def PCK_GM_GM_ID : Fld := ⟨0x6000028, 0, 0, 14⟩
/-- R348 RO: 1 = grandmaster known. -/
def PCK_GM_GM_VALID : Fld := ⟨0x6000028, 0, 14, 1⟩
/-- R348 RO: Its priority. -/
def PCK_GM_GM_PRIO : Fld := ⟨0x6000028, 0, 16, 8⟩
/-- R348 RO: Its clockClass. Bit [15] reserved. -/
def PCK_GM_GM_CLASS : Fld := ⟨0x6000028, 0, 24, 8⟩
/-- R348 RO: Newest GM_SEQ held. -/
def PCK_GM_SEQ : Fld := ⟨0x600002C, 0, 0, 32⟩
/-- R348 W1C: [0] PARTNER_UP; [1] PARTNER_DOWN; [2] UPLINK_CHANGED; [3] NODE_CONFLICT; [4] AUTH_FAIL;. -/
def PCK_EVT : Fld := ⟨0x6000030, 0, 0, 6⟩
/-- R348 RO: Frames failing the CMAC. -/
def PCK_AUTH_FAIL : Fld := ⟨0x6000040, 0, 0, 32⟩
/-- R348 RO: Frames dropped under R326. -/
def PCK_BAD_FRAME : Fld := ⟨0x6000044, 0, 0, 32⟩
/-- R348 RW: 1 = link enabled. -/
def PCK_LINK_CFG_ENABLE : Fld := ⟨0x6000100, 0x20, 0, 1⟩
/-- R348 RW: s, 600 to 262,143; clamped. Bits [3:1], [31:22] reserved. -/
def PCK_LINK_CFG_RECAL_PERIOD : Fld := ⟨0x6000100, 0x20, 4, 18⟩
/-- R348 RO: As R162. -/
def PCK_LINK_STAT_LINK_STATE : Fld := ⟨0x6000104, 0x20, 0, 3⟩
/-- R348 RO: 1 = timestamps issued. -/
def PCK_LINK_STAT_TS_READY : Fld := ⟨0x6000104, 0x20, 3, 1⟩
/-- R348 RO: As R169. -/
def PCK_LINK_STAT_DEGRADED : Fld := ⟨0x6000104, 0x20, 4, 1⟩
/-- R348 RO: As R338. Bits [31:6] reserved. -/
def PCK_LINK_STAT_REGION_SKEW : Fld := ⟨0x6000104, 0x20, 5, 1⟩
/-- R348 RO: Recalibrations accepted. -/
def PCK_LINK_RECAL_RECALS : Fld := ⟨0x6000108, 0x20, 0, 16⟩
/-- R348 RO: Recalibrations failed. -/
def PCK_LINK_RECAL_RECAL_FAILS : Fld := ⟨0x6000108, 0x20, 16, 16⟩
/-- R348 RO: Crossing compensation in force, 1/16 ps. Bits [31:24] reserved. -/
def PCK_LINK_XCOMP : Fld := ⟨0x600010C, 0x20, 0, 24⟩
/-- R348 RO: As R330. -/
def PCK_ATT_STAT_STATE : Fld := ⟨0x6001000, 0x40, 0, 3⟩
/-- R348 RO: 1 = eligible under R332. -/
def PCK_ATT_STAT_ELIGIBLE : Fld := ⟨0x6001000, 0x40, 3, 1⟩
/-- R348 RO: 1 = this attachment is the uplink. -/
def PCK_ATT_STAT_UPLINK : Fld := ⟨0x6001000, 0x40, 4, 1⟩
/-- R348 RO: 1 = partner sends BRACE. -/
def PCK_ATT_STAT_BRACE : Fld := ⟨0x6001000, 0x40, 5, 1⟩
/-- R348 RO: Partner's DEPTH. Bits [7:6], [31:14] reserved. -/
def PCK_ATT_STAT_P_DEPTH : Fld := ⟨0x6001000, 0x40, 8, 6⟩
/-- R348 RO: Partner identifier; meaningful only with VALID. -/
def PCK_ATT_PARTNER_NODE : Fld := ⟨0x6001004, 0x40, 0, 14⟩
/-- R348 RO: 1 = a partner is recorded on the attachment. -/
def PCK_ATT_PARTNER_VALID : Fld := ⟨0x6001004, 0x40, 14, 1⟩
/-- R348 RO: Partner's grandmaster; meaningful only with P_GM_VALID. -/
def PCK_ATT_PARTNER_P_GM_ID : Fld := ⟨0x6001004, 0x40, 16, 14⟩
/-- R348 RO: 1 = the partner's ROLL names a grandmaster. Bits [15], [31] reserved. -/
def PCK_ATT_PARTNER_P_GM_VALID : Fld := ⟨0x6001004, 0x40, 30, 1⟩
/-- R348 RO: Last offset of R336, signed, 2⁻⁴⁸ s. -/
def PCK_ATT_OFS : Fld := ⟨0x6001008, 0x40, 0, 64⟩
/-- R348 RO: Last mpd, signed, 2⁻⁴⁸ s. -/
def PCK_ATT_MPD : Fld := ⟨0x6001010, 0x40, 0, 64⟩
/-- R348 RO: LEASH_PS of the last T_FUP. Word 1 bits [31:16] reserved. -/
def PCK_ATT_LEASH : Fld := ⟨0x6001018, 0x40, 0, 48⟩
/-- R348 RO: Partner's last GM_SEQ. -/
def PCK_ATT_SEQ : Fld := ⟨0x6001020, 0x40, 0, 32⟩
/-- R348 RO: Exchanges void under R336. -/
def PCK_ATT_CNT_VOID : Fld := ⟨0x6001024, 0x40, 0, 16⟩
/-- R348 RO: Entries into HOLDOFF. -/
def PCK_ATT_CNT_LOSSES : Fld := ⟨0x6001024, 0x40, 16, 16⟩

/-! ### BRC (R349) -/
/-- R349 RW: 1 = Brace active. -/
def BRC_CFG_ENABLE : Fld := ⟨0x6080000, 0, 0, 1⟩
/-- R349 RW: 0 = LAN A; 1 = LAN B. -/
def BRC_CFG_SIDE : Fld := ⟨0x6080000, 0, 1, 1⟩
/-- R349 RW: Brace attachment, 0 to 67. -/
def BRC_CFG_ATT : Fld := ⟨0x6080000, 0, 2, 7⟩
/-- R349 RW: As R347. Bits [31:10] reserved. -/
def BRC_CFG_AUTO_UNMUTE : Fld := ⟨0x6080000, 0, 9, 1⟩
/-- R349 RW: Bit p = Pp is a Brace port, P0 to P31 in PORTS0. -/
def BRC_PORTS : Fld := ⟨0x6080004, 0, 0, 64⟩
/-- R349 RW: ps; 10,000 at reset. Bits [31:24] reserved. -/
def BRC_TOL : Fld := ⟨0x608000C, 0, 0, 24⟩
/-- R349 RW: s, 1 to 255. -/
def BRC_TIMERS_PERSIST : Fld := ⟨0x6080010, 0, 0, 8⟩
/-- R349 RW: s, 600 to 86,400; clamped. Bits [31:25] reserved. -/
def BRC_TIMERS_SWAP_PERIOD : Fld := ⟨0x6080010, 0, 8, 17⟩
/-- R349 RW: s. Bits [31:16] reserved. -/
def BRC_UNMUTE_TIME : Fld := ⟨0x6080014, 0, 0, 16⟩
/-- R349 RW: ns; 200 at reset. Bits [31:16] reserved. -/
def BRC_FOLLOW_DELAY : Fld := ⟨0x6080018, 0, 0, 16⟩
/-- R349 WO: Unmutes under R347. -/
def BRC_CTRL_UNMUTE : Fld := ⟨0x608001C, 0, 0, 1⟩
/-- R349 WO: Mutes; refused while PARTNER_MUTED is set. Bits [31:2] reserved. -/
def BRC_CTRL_MUTE : Fld := ⟨0x608001C, 0, 1, 1⟩
/-- R349 RO: As R344. -/
def BRC_STAT_PAIR_STATE : Fld := ⟨0x6080020, 0, 0, 3⟩
/-- R349 RO: 1 = lead. -/
def BRC_STAT_LEAD : Fld := ⟨0x6080020, 0, 3, 1⟩
/-- R349 RO: 1 = muted. -/
def BRC_STAT_MUTED : Fld := ⟨0x6080020, 0, 4, 1⟩
/-- R349 RO: 1 = partner reports MUTED. -/
def BRC_STAT_PARTNER_MUTED : Fld := ⟨0x6080020, 0, 5, 1⟩
/-- R349 RO: Own verdict, as R345. -/
def BRC_STAT_VERDICT : Fld := ⟨0x6080020, 0, 6, 2⟩
/-- R349 RO: Partner's verdict. -/
def BRC_STAT_P_VERDICT : Fld := ⟨0x6080020, 0, 8, 2⟩
/-- R349 RO: As R339. -/
def BRC_STAT_CFG_ERR : Fld := ⟨0x6080020, 0, 10, 1⟩
/-- R349 RO: 1 = pair PAIRED or DISAGREE and partner not muted; the cover of R176. Bits [31:12] rese. -/
def BRC_STAT_PARTNER_SERVING : Fld := ⟨0x6080020, 0, 11, 1⟩
/-- R349 RO: OFS of R344, signed, 2⁻⁴⁸ s. -/
def BRC_OFS : Fld := ⟨0x6080024, 0, 0, 64⟩
/-- R349 W1C: [0] PAIRED; [1] PARTNER_LOST; [2] DISAGREE; [3] MUTED; [4] UNMUTED; [5] SWAPPED. Bits [. -/
def BRC_EVT : Fld := ⟨0x608002C, 0, 0, 6⟩
/-- R349 RO: Role swaps. -/
def BRC_CNT0_SWAPS : Fld := ⟨0x6080030, 0, 0, 16⟩
/-- R349 RO: Swaps deferred. -/
def BRC_CNT0_SWAP_DEFERRED : Fld := ⟨0x6080030, 0, 16, 16⟩
/-- R349 RO: Entries into DISAGREE. -/
def BRC_CNT1_DISAGREES : Fld := ⟨0x6080034, 0, 0, 16⟩
/-- R349 RO: Entries into MUTED. -/
def BRC_CNT1_MUTES : Fld := ⟨0x6080034, 0, 16, 16⟩
/-- R349 RO: Frames withheld while muted. -/
def BRC_MUTED_DROPS : Fld := ⟨0x6080038, 0, 0, 32⟩
end R

/-- Rows of the CLK tables. -/
def rowsCLK0 : List RegRow :=
  [ ⟨R.CLK_STAT_AON_SRC, 1, .ro, 0, .cold⟩
  , ⟨R.CLK_STAT_AON_XTAL_RDY, 1, .ro, 0, .cold⟩
  , ⟨R.CLK_STAT_XTAL_RDY, 1, .ro, 0, .cold⟩
  , ⟨R.CLK_STAT_XTAL_LOST, 1, .ro, 0, .cold⟩
  , ⟨R.CLK_STAT_SYSPLL_LOCK, 1, .ro, 0, .cold⟩
  , ⟨R.CLK_STAT_SYSPLL_COAST, 1, .ro, 0, .cold⟩
  , ⟨R.CLK_STAT_ROOT_SRC, 1, .ro, 0, .cold⟩
  , ⟨R.CLK_STAT_SW_BUSY, 1, .ro, 0, .cold⟩
  , ⟨R.CLK_STAT_KPLL_LOCK, 1, .ro, 0, .chip⟩
  , ⟨R.CLK_STAT_KPLL_HOLD, 1, .ro, 0, .chip⟩
  , ⟨R.CLK_STAT_KPLL_SRC, 1, .ro, 7, .chip⟩
  , ⟨R.CLK_EVT, 1, .w1c, 0, .cold⟩
  , ⟨R.CLK_XTAL_CFG, 1, .rw, 0, .cold⟩
  , ⟨R.CLK_XTAL_STAT_AMP, 1, .ro, 0, .cold⟩
  , ⟨R.CLK_XTAL_STAT_FREQ_ERR, 1, .ro, 0, .cold⟩
  , ⟨R.CLK_ROOT_SEL, 1, .rw, 0, .cold⟩
  , ⟨R.CLK_SYSPLL_STAT_BAND, 1, .ro, 0, .cold⟩
  , ⟨R.CLK_SYSPLL_STAT_VTUNE, 1, .ro, 0, .cold⟩
  , ⟨R.CLK_SYSPLL_STAT_UNLOCKS, 1, .ro, 0, .cold⟩
  , ⟨R.CLK_KPLL_CNT_SWITCHES, 1, .ro, 0, .chip⟩
  , ⟨R.CLK_KPLL_CNT_HOLDS, 1, .ro, 0, .chip⟩
  , ⟨R.CLK_KPLL_SRC_FIN, 5, .ro, 0, .sealed⟩
  , ⟨R.CLK_KPLL_SRC_PREF, 5, .ro, 0, .sealed⟩
  , ⟨R.CLK_KPLL_SRC_ALLOWED, 5, .ro, 0, .sealed⟩
  , ⟨R.CLK_KPLL_SRC_READY, 5, .ro, 0, .chip⟩ ]

/-- Every row of the CLK tables. -/
def rowsCLK : List RegRow := rowsCLK0

/-- Rows of the PWR tables. -/
def rowsPWR0 : List RegRow :=
  [ ⟨R.PWR_STATE, 1, .ro, 0, .cold⟩
  , ⟨R.PWR_CTRL_DOZE_EN, 1, .rw, 0, .cold⟩
  , ⟨R.PWR_CTRL_DEEP_REFUSED, 1, .w1c, 0, .cold⟩
  , ⟨R.PWR_DEEP, 1, .wo, 0, .none⟩
  , ⟨R.PWR_WAKE_CFG_WAKE_PIN_EN, 1, .rw, 1, .cold⟩
  , ⟨R.PWR_WAKE_CFG_TIMER_EN, 1, .rw, 0, .cold⟩
  , ⟨R.PWR_WAKE_TIME, 1, .rw, 0, .cold⟩
  , ⟨R.PWR_CHIP_RESET, 1, .wo, 0, .none⟩
  , ⟨R.PWR_RESET_CAUSE, 1, .ro, 0, .cold⟩
  , ⟨R.PWR_GATE_CMD_UNIT, 1, .wo, 0, .none⟩
  , ⟨R.PWR_GATE_CMD_OP, 1, .wo, 0, .none⟩
  , ⟨R.PWR_GATE_STAT_GATED, 1, .ro, 0, .cold⟩
  , ⟨R.PWR_GATE_STAT_NEEDS_RESET, 1, .ro, 0, .cold⟩
  , ⟨R.PWR_GATE_STAT_BUSY, 1, .ro, 0, .cold⟩
  , ⟨R.PWR_GATE_STAT_LAST, 1, .ro, 0, .cold⟩
  , ⟨R.PWR_QUIESCE_TMO, 1, .rw, 0x400, .cold⟩
  , ⟨R.PWR_GATE_CNT_GATES, 1, .ro, 0, .cold⟩
  , ⟨R.PWR_GATE_CNT_BUSY_CNT, 1, .ro, 0, .cold⟩
  , ⟨R.PWR_SKEW_STAT_ACTIVE, 1, .ro, 0, .cold⟩
  , ⟨R.PWR_SKEW_STAT_CROSSING, 1, .ro, 0, .cold⟩
  , ⟨R.PWR_SKEW_STAT_TEMP, 1, .ro, 0, .cold⟩
  , ⟨R.PWR_SKEW_STAT_VOLT, 1, .ro, 0, .cold⟩
  , ⟨R.PWR_SKEW_STAT_CLK, 1, .ro, 0, .cold⟩
  , ⟨R.PWR_SKEW_STAT_EVENTS, 1, .ro, 0, .cold⟩
  , ⟨R.PWR_TEMP, 13, .ro, 0, .cold⟩
  , ⟨R.PWR_VDD, 13, .ro, 0, .cold⟩ ]

/-- Every row of the PWR tables. -/
def rowsPWR : List RegRow := rowsPWR0

/-- Rows of the AON tables. -/
def rowsAON0 : List RegRow :=
  [ ⟨R.AON_VIN_STAT_VIN_MV, 1, .ro, 0, .cold⟩
  , ⟨R.AON_VIN_STAT_HOLD_RDY, 1, .ro, 0, .cold⟩
  , ⟨R.AON_VIN_STAT_BURY_ACTIVE, 1, .ro, 0, .cold⟩
  , ⟨R.AON_VIN_STAT_SAVE_STATE, 1, .ro, 0, .cold⟩
  , ⟨R.AON_VHOLD, 1, .ro, 0, .cold⟩
  , ⟨R.AON_BURY_CFG, 1, .rw, 1, .cold⟩
  , ⟨R.AON_BURY_EVT, 1, .w1c, 0, .cold⟩
  , ⟨R.AON_BURY_CNT_SAGS, 1, .ro, 0, .cold⟩
  , ⟨R.AON_BURY_CNT_SURVIVED, 1, .ro, 0, .cold⟩
  , ⟨R.AON_BONE_SEQ, 1, .ro, 0, .cold⟩
  , ⟨R.AON_BONE_LAST_SLOT, 1, .ro, 0, .cold⟩
  , ⟨R.AON_BONE_LAST_SRC, 1, .ro, 0, .cold⟩
  , ⟨R.AON_BONE_LAST_FRESH, 1, .ro, 0, .cold⟩
  , ⟨R.AON_BONE_LAST_BONE_TORN, 1, .ro, 0, .cold⟩
  , ⟨R.AON_BONE_AGE, 1, .ro, 0xffffffff, .cold⟩
  , ⟨R.AON_BONE_EST, 1, .ro, 0, .cold⟩
  , ⟨R.AON_BONE_UNC, 1, .ro, 0xffffffff, .cold⟩ ]

/-- Every row of the AON tables. -/
def rowsAON : List RegRow := rowsAON0

/-- Rows of the SEC tables. -/
def rowsSEC0 : List RegRow :=
  [ ⟨R.SEC_ID, 1, .ro, 0, .kept⟩
  , ⟨R.SEC_STATE_LC, 1, .ro, 1, .kept⟩
  , ⟨R.SEC_STATE_DBG, 1, .ro, 0, .chip⟩
  , ⟨R.SEC_STATE_WORLDS, 1, .ro, 0, .chip⟩
  , ⟨R.SEC_STATE_TK_USED, 1, .ro, 0, .kept⟩
  , ⟨R.SEC_EVT, 1, .w1c, 0, .chip⟩
  , ⟨R.SEC_DBG_REQ, 1, .wo, 0, .none⟩
  , ⟨R.SEC_DBG_STAT_REMAIN, 1, .ro, 0, .chip⟩
  , ⟨R.SEC_DBG_STAT_LAST, 1, .ro, 0, .chip⟩
  , ⟨R.SEC_SLOT_VALID, 1, .ro, 0, .kept⟩
  , ⟨R.SEC_SLOT_BAD, 1, .ro, 0, .chip⟩
  , ⟨R.SEC_WKR_STAT_BUSY, 1, .ro, 0, .chip⟩
  , ⟨R.SEC_WKR_STAT_QDEPTH, 1, .ro, 0, .chip⟩
  , ⟨R.SEC_WKR_STAT_LAST_SLOT, 1, .ro, 0, .chip⟩
  , ⟨R.SEC_WKR_STAT_LAST_CONS, 1, .ro, 0, .chip⟩
  , ⟨R.SEC_WKR_STAT_LAST_RESULT, 1, .ro, 0, .chip⟩
  , ⟨R.SEC_WKR_CNT_LOADS, 1, .ro, 0, .chip⟩
  , ⟨R.SEC_WKR_CNT_REFUSED, 1, .ro, 0, .chip⟩
  , ⟨R.SEC_SERVE_MEAS, 1, .ro, 0, .chip⟩
  , ⟨R.SEC_HOST_MEAS, 1, .ro, 0, .chip⟩
  , ⟨R.SEC_HOST_EXT, 1, .wo, 0, .none⟩
  , ⟨R.SEC_KUM_BUF, 1, .wo, 0, .none⟩
  , ⟨R.SEC_KUM_GO, 1, .wo, 0, .none⟩
  , ⟨R.SEC_KUM_STAT_BUSY, 1, .ro, 0, .chip⟩
  , ⟨R.SEC_KUM_STAT_LOCK, 1, .ro, 0, .chip⟩
  , ⟨R.SEC_KUM_STAT_RESULT, 1, .ro, 0, .chip⟩
  , ⟨R.SEC_KUM_CNT, 1, .ro, 0, .kept⟩
  , ⟨R.SEC_KUM_TALLY_FAILS, 1, .ro, 0, .chip⟩
  , ⟨R.SEC_KUM_TALLY_ACCEPTED, 1, .ro, 0, .chip⟩
  , ⟨R.SEC_SLOT_ATTR, 32, .ro, 0, .kept⟩
  , ⟨R.SEC_SLOT_GEN, 32, .ro, 0, .kept⟩ ]

/-- Every row of the SEC tables. -/
def rowsSEC : List RegRow := rowsSEC0

/-- Rows of the FLT tables. -/
def rowsFLT0 : List RegRow :=
  [ ⟨R.FLT_STAT_ANY_C, 1, .ro, 0, .chip⟩
  , ⟨R.FLT_STAT_ANY_U, 1, .ro, 0, .chip⟩
  , ⟨R.FLT_STAT_ANY_F, 1, .ro, 0, .chip⟩
  , ⟨R.FLT_STAT_BARK, 1, .ro, 0, .chip⟩
  , ⟨R.FLT_CFG_CHIP_ALONE, 1, .rw, 0, .chip⟩
  , ⟨R.FLT_CFG_BARK_TEST, 1, .rw, 0, .chip⟩
  , ⟨R.FLT_FIRST_FS, 1, .ro, 0, .chip⟩
  , ⟨R.FLT_FIRST_CLASS, 1, .ro, 0, .chip⟩
  , ⟨R.FLT_FIRST_VALID, 1, .w1c, 0, .chip⟩
  , ⟨R.FLT_FIRST_RT, 1, .ro, 0, .chip⟩
  , ⟨R.FLT_CNT_BLOCK_SKIPPED, 1, .ro, 0, .chip⟩
  , ⟨R.FLT_CNT_CHIP_WITHHELD, 1, .ro, 0, .chip⟩
  , ⟨R.FLT_GUARD_CFG, 1, .rw, 0x64, .chip⟩
  , ⟨R.FLT_GUARD_STAT_STATE, 1, .ro, 3, .chip⟩
  , ⟨R.FLT_GUARD_STAT_MISSES, 1, .ro, 0, .chip⟩
  , ⟨R.FLT_GUARD_STAT_RELOADS, 1, .ro, 0, .chip⟩
  , ⟨R.FLT_GUARD_CTRL, 1, .wo, 0, .none⟩
  , ⟨R.FLT_STICKY_FS, 1, .ro, 0, .cold⟩
  , ⟨R.FLT_STICKY_CLASS, 1, .ro, 0, .cold⟩
  , ⟨R.FLT_STICKY_VALID, 1, .w1c, 0, .cold⟩
  , ⟨R.FLT_STICKY_PIN_HELD, 1, .w1c, 0, .cold⟩
  , ⟨R.FLT_RAISE, 1, .wo, 0, .none⟩
  , ⟨R.FLT_STATUS, 8, .w1c, 0, .chip⟩
  , ⟨R.FLT_ACTIVE, 8, .ro, 0, .chip⟩
  , ⟨R.FLT_REACT_REACT, 256, .rw, 0, .chip⟩
  , ⟨R.FLT_REACT_CLASS, 256, .ro, 0, .chip⟩
  , ⟨R.FLT_REACT_DEFAULT, 256, .ro, 0, .chip⟩
  , ⟨R.FLT_REACT_LEVEL, 256, .ro, 0, .chip⟩
  , ⟨R.FLT_COUNT, 256, .ro, 0, .chip⟩ ]

/-- Every row of the FLT tables. -/
def rowsFLT : List RegRow := rowsFLT0

/-- Rows of the OBS tables. -/
def rowsOBS0 : List RegRow :=
  [ ⟨R.OBS_EVT, 1, .w1c, 0, .block⟩
  , ⟨R.OBS_IRQ_EN, 1, .rw, 0, .block⟩
  , ⟨R.OBS_SNAP, 1, .wo, 0, .none⟩
  , ⟨R.OBS_SNAP_CFG_SNAP_MS, 1, .rw, 0, .block⟩
  , ⟨R.OBS_SNAP_CFG_THRESH, 1, .rw, 1, .block⟩
  , ⟨R.OBS_SNAP_WR, 1, .ro, 0, .block⟩
  , ⟨R.OBS_SNAP_RD, 1, .rw, 0, .block⟩
  , ⟨R.OBS_SNAP_LOST, 1, .ro, 0, .block⟩
  , ⟨R.OBS_SMP_LOST, 1, .ro, 0, .block⟩
  , ⟨R.OBS_SMP_THRESH, 1, .rw, 0x100, .block⟩
  , ⟨R.OBS_TEL_CFG_TEL_PERIOD, 1, .rw, 0x3e8, .block⟩
  , ⟨R.OBS_TEL_CFG_THRESH, 1, .rw, 1, .block⟩
  , ⟨R.OBS_TEL_LOST, 1, .ro, 0, .block⟩
  , ⟨R.OBS_TEL_LIM_TEMP_HI, 1, .rw, 0x730, .block⟩
  , ⟨R.OBS_TEL_LIM_TEMP_LO, 1, .rw, 0xfd80, .block⟩
  , ⟨R.OBS_TEL_STAT, 1, .w1c, 0, .block⟩
  , ⟨R.OBS_TEL_VSTAT, 1, .w1c, 0, .block⟩
  , ⟨R.OBS_SCRUB_CFG, 1, .rw, 4, .block⟩
  , ⟨R.OBS_SCRUB_STAT, 1, .ro, 0, .block⟩
  , ⟨R.OBS_SCRUB_PASSES_PASSES, 1, .ro, 0, .block⟩
  , ⟨R.OBS_SCRUB_PASSES_LATE, 1, .ro, 0, .block⟩
  , ⟨R.OBS_SCRUB_ERR, 1, .ro, 0, .block⟩
  , ⟨R.OBS_SCRUB_CNT_CORRECTED, 1, .ro, 0, .block⟩
  , ⟨R.OBS_SCRUB_CNT_STEALS, 1, .ro, 0, .block⟩
  , ⟨R.OBS_CNT_SEL_EVENT, 32, .rw, 0, .block⟩
  , ⟨R.OBS_CNT_SEL_MODE, 32, .rw, 0, .block⟩
  , ⟨R.OBS_CNT_SEL_THRESH, 32, .rw, 0, .block⟩
  , ⟨R.OBS_CNT_SEL_ENABLE, 32, .rw, 0, .block⟩
  , ⟨R.OBS_CNT, 32, .rw, 0, .block⟩
  , ⟨R.OBS_SMP_WR, 1, .ro, 0, .block⟩
  , ⟨R.OBS_SMP_RD, 1, .rw, 0, .block⟩
  , ⟨R.OBS_TEL_WR, 1, .ro, 0, .block⟩
  , ⟨R.OBS_TEL_RD, 1, .rw, 0, .block⟩
  , ⟨R.OBS_TEL_VLIM_LO, 13, .rw, 0, .block⟩
  , ⟨R.OBS_TEL_VLIM_HI, 13, .rw, 0x1fff, .block⟩
  , ⟨R.OBS_SMP_CFG_ENABLE, 12, .rw, 0, .block⟩
  , ⟨R.OBS_SMP_CFG_MARKS, 12, .rw, 0, .block⟩
  , ⟨R.OBS_SMP_CFG_PERIOD, 12, .rw, 0x2710, .block⟩
  , ⟨R.OBS_SMP_CFG_JITTER, 12, .rw, 4, .block⟩
  , ⟨R.OBS_SMP_CNT, 12, .ro, 0, .block⟩ ]

/-- Rows of the OBS tables. -/
def rowsOBS1 : List RegRow :=
  [ ⟨R.OBS_TD_ISSUE, 12, .ro, 0, .block⟩
  , ⟨R.OBS_TD_EXEC, 12, .ro, 0, .block⟩
  , ⟨R.OBS_TD_REDIRECT, 12, .ro, 0, .block⟩
  , ⟨R.OBS_TD_DEP, 12, .ro, 0, .block⟩
  , ⟨R.OBS_TD_MTX, 12, .ro, 0, .block⟩
  , ⟨R.OBS_TD_DRAIN, 12, .ro, 0, .block⟩
  , ⟨R.OBS_TD_TKT, 12, .ro, 0, .block⟩
  , ⟨R.OBS_SNAP_WIN, 8192, .ro, 0, .block⟩
  , ⟨R.OBS_SMP_WIN, 65536, .ro, 0, .block⟩
  , ⟨R.OBS_TEL_WIN, 8192, .ro, 0, .block⟩ ]

/-- Every row of the OBS tables. -/
def rowsOBS : List RegRow := rowsOBS0 ++ rowsOBS1

/-- Rows of the MTX tables. -/
def rowsMTX0 : List RegRow :=
  [ ⟨R.MTX_PRIO, 1, .rw, 0x1800, .block⟩
  , ⟨R.MTX_STARVE, 1, .rw, 0x40, .block⟩
  , ⟨R.MTX_TGT_STAT, 1, .ro, 0, .block⟩
  , ⟨R.MTX_EVT, 1, .w1c, 0, .block⟩
  , ⟨R.MTX_ERR_ADDR, 1, .ro, 0, .block⟩
  , ⟨R.MTX_ERR_INFO_MASTER, 1, .ro, 0, .block⟩
  , ⟨R.MTX_ERR_INFO_TARGET, 1, .ro, 0, .block⟩
  , ⟨R.MTX_ERR_INFO_WRITE, 1, .ro, 0, .block⟩
  , ⟨R.MTX_ERR_INFO_KIND, 1, .ro, 0, .block⟩
  , ⟨R.MTX_ERR_INFO_VALID, 1, .w1c, 0, .block⟩
  , ⟨R.MTX_CNT_ERR, 1, .ro, 0, .block⟩
  , ⟨R.MTX_CNT_TMO_TIMEOUTS, 1, .ro, 0, .block⟩
  , ⟨R.MTX_CNT_TMO_CUTS, 1, .ro, 0, .block⟩
  , ⟨R.MTX_HELD, 16, .ro, 0, .block⟩ ]

/-- Every row of the MTX tables. -/
def rowsMTX : List RegRow := rowsMTX0

/-- Rows of the HST tables. -/
def rowsHST0 : List RegRow :=
  [ ⟨R.HST_LINK_SPEED, 1, .ro, 0, .block⟩
  , ⟨R.HST_LINK_WIDTH, 1, .ro, 0, .block⟩
  , ⟨R.HST_CFG, 1, .rw, 0, .block⟩
  , ⟨R.HST_CPL_TMO, 1, .rw, 0x2710, .block⟩
  , ⟨R.HST_FN_STAT, 1, .ro, 0, .block⟩
  , ⟨R.HST_EVT, 1, .w1c, 0, .block⟩
  , ⟨R.HST_CNT_UNMAPPED, 1, .ro, 0, .block⟩
  , ⟨R.HST_CNT_UNEXP_CPL, 1, .ro, 0, .block⟩
  , ⟨R.HST_CNT_ROWRITE, 1, .ro, 0, .block⟩
  , ⟨R.HST_H_DBELL, 1, .wo, 0, .none⟩
  , ⟨R.HST_H_DBELL_PEND, 1, .w1c, 0, .block⟩
  , ⟨R.HST_IRQ_PEND, 1, .w1c, 0, .block⟩
  , ⟨R.HST_FWD_BASE, 1, .rw, 0, .block⟩
  , ⟨R.HST_FWD_CFG_ENABLE, 1, .rw, 0, .block⟩
  , ⟨R.HST_FWD_CFG_SIZE_LOG2, 1, .rw, 6, .block⟩
  , ⟨R.HST_FWD_WR, 1, .ro, 0, .block⟩
  , ⟨R.HST_FWD_RD, 1, .rw, 0, .block⟩
  , ⟨R.HST_FWD_DROP, 1, .ro, 0, .block⟩
  , ⟨R.HST_IRQ_ROUTE_FN, 64, .rw, 0, .block⟩
  , ⟨R.HST_IRQ_ROUTE_VEC, 64, .rw, 0, .block⟩
  , ⟨R.HST_IRQ_ROUTE_EN, 64, .rw, 0, .block⟩
  , ⟨R.HST_VEC_HOLDOFF, 64, .rw, 0, .block⟩ ]

/-- Every row of the HST tables. -/
def rowsHST : List RegRow := rowsHST0

/-- Rows of the FCH tables. -/
def rowsFCH0 : List RegRow :=
  [ ⟨R.FCH_STAT_RUNNING, 1, .ro, 0, .block⟩
  , ⟨R.FCH_STAT_HALTED, 1, .ro, 0, .block⟩
  , ⟨R.FCH_CH_CFG_FN, 16, .rw, 0, .block⟩
  , ⟨R.FCH_CH_CFG_ENABLE, 16, .rw, 0, .block⟩
  , ⟨R.FCH_CH_CFG_WEIGHT, 16, .rw, 1, .block⟩
  , ⟨R.FCH_CH_HOP_MAX, 16, .rw, 0x1000, .block⟩
  , ⟨R.FCH_CH_HEAD, 16, .rw, 0, .block⟩
  , ⟨R.FCH_CH_WB, 16, .rw, 0, .block⟩
  , ⟨R.FCH_CH_CTRL_ABORT, 16, .wo, 0, .none⟩
  , ⟨R.FCH_CH_CTRL_CLEAR, 16, .wo, 0, .none⟩
  , ⟨R.FCH_CH_CTRL_FLUSH, 16, .wo, 0, .none⟩
  , ⟨R.FCH_CH_STAT_STATE, 16, .ro, 3, .block⟩
  , ⟨R.FCH_CH_STAT_QDEPTH, 16, .ro, 0, .block⟩
  , ⟨R.FCH_CH_STAT_LAST_STATUS, 16, .ro, 0, .block⟩
  , ⟨R.FCH_CH_STAT_TAG, 16, .ro, 0, .block⟩
  , ⟨R.FCH_CH_RESID, 16, .ro, 0, .block⟩
  , ⟨R.FCH_CH_CUR, 16, .ro, 0, .block⟩
  , ⟨R.FCH_CH_DCNT, 16, .ro, 0, .block⟩
  , ⟨R.FCH_CH_DCRC, 16, .ro, 0, .block⟩
  , ⟨R.FCH_CH_EVT, 16, .w1c, 0, .block⟩
  , ⟨R.FCH_CH_SEQ, 16, .ro, 0, .block⟩
  , ⟨R.FCH_CH_BYTES, 16, .ro, 0, .block⟩ ]

/-- Every row of the FCH tables. -/
def rowsFCH : List RegRow := rowsFCH0

/-- Rows of the KNL tables. -/
def rowsKNL0 : List RegRow :=
  [ ⟨R.KNL_TIME_MODE_MODE, 1, .ro, 0, .chip⟩
  , ⟨R.KNL_TIME_MODE_ARMED, 1, .ro, 0, .chip⟩
  , ⟨R.KNL_TIME_MODE_SLEWING, 1, .ro, 0, .chip⟩
  , ⟨R.KNL_TIME_MODE_CSET_VER, 1, .ro, 0, .chip⟩
  , ⟨R.KNL_TIME_STAT_JUMP_REFUSED, 1, .w1c, 0, .chip⟩
  , ⟨R.KNL_TIME_STAT_SLEW_CLAMPED, 1, .w1c, 0, .chip⟩
  , ⟨R.KNL_TIME_STAT_RATE_RANGE, 1, .w1c, 0, .chip⟩
  , ⟨R.KNL_TIME_STAT_UPD_REPLACED, 1, .w1c, 0, .chip⟩
  , ⟨R.KNL_TIME_STAT_UPD_DEFERRED, 1, .w1c, 0, .chip⟩
  , ⟨R.KNL_TIME_STAT_STEP_DONE, 1, .w1c, 0, .chip⟩
  , ⟨R.KNL_TIME_STAT_STEP_REFUSED, 1, .w1c, 0, .chip⟩
  , ⟨R.KNL_TIME_STAT_BUSY_REFUSED, 1, .w1c, 0, .chip⟩
  , ⟨R.KNL_TIME_STAT_HANDOVER_DONE, 1, .w1c, 0, .chip⟩
  , ⟨R.KNL_TIME_STAT_SN_ENTERED, 1, .w1c, 0, .chip⟩
  , ⟨R.KNL_TIME_STAT_CSET_ECC, 1, .w1c, 0, .chip⟩
  , ⟨R.KNL_TIME_STAT_LC_TOO_OLD, 1, .w1c, 0, .chip⟩
  , ⟨R.KNL_TIME_STAT_UTC_CONFLICT, 1, .w1c, 0, .chip⟩
  , ⟨R.KNL_TIME_STAT_UTC_LATE, 1, .w1c, 0, .chip⟩
  , ⟨R.KNL_TIME_STAT_LEAP_DONE, 1, .w1c, 0, .chip⟩
  , ⟨R.KNL_TIME_STAT_SN_LOAD_REFUSED, 1, .w1c, 0, .chip⟩
  , ⟨R.KNL_TIME_STAT_SN_UPD_REFUSED, 1, .w1c, 0, .chip⟩
  , ⟨R.KNL_LC_INC0, 1, .rws, 0x7b08175f, .sealed⟩
  , ⟨R.KNL_LC_INC1, 1, .rws, 0x39442, .sealed⟩
  , ⟨R.KNL_SNAP_LC, 1, .ro, 0, .chip⟩
  , ⟨R.KNL_SNAP_RT, 1, .ro, 0, .chip⟩
  , ⟨R.KNL_OFS, 1, .ro, 0, .chip⟩
  , ⟨R.KNL_ANCHOR, 1, .ro, 0, .chip⟩
  , ⟨R.KNL_RATE, 1, .ro, 0, .chip⟩
  , ⟨R.KNL_CSET_LATCH, 1, .ro, 0, .chip⟩
  , ⟨R.KNL_SLEW_REM, 1, .ro, 0, .chip⟩
  , ⟨R.KNL_JUMP_MAX0, 1, .rws, 0x186a0, .sealed⟩
  , ⟨R.KNL_JUMP_MAX1, 1, .rws, 0, .sealed⟩
  , ⟨R.KNL_SLEW_MAX, 1, .rws, 0x2710, .sealed⟩
  , ⟨R.KNL_SN_LOAD0, 1, .wo, 0, .none⟩
  , ⟨R.KNL_SN_LOAD1, 1, .wo, 0, .none⟩
  , ⟨R.KNL_SN_LOAD2, 1, .wo, 0, .none⟩
  , ⟨R.KNL_SN_LOAD3, 1, .wo, 0, .none⟩
  , ⟨R.KNL_UTC_UTC_OFFSET, 1, .ro, 0, .chip⟩
  , ⟨R.KNL_UTC_LEAP61, 1, .ro, 0, .chip⟩
  , ⟨R.KNL_UTC_LEAP59, 1, .ro, 0, .chip⟩ ]

/-- Rows of the KNL tables. -/
def rowsKNL1 : List RegRow :=
  [ ⟨R.KNL_UTC_SRC, 1, .ro, 0, .chip⟩
  , ⟨R.KNL_UTC_VALID, 1, .ro, 0, .chip⟩
  , ⟨R.KNL_LEAP_AT, 1, .ro, 0, .chip⟩
  , ⟨R.KNL_TBUS_STAT_PG_MISMATCH, 1, .w1c, 0, .chip⟩
  , ⟨R.KNL_TBUS_STAT_ENG_MISMATCH, 1, .w1c, 0, .chip⟩
  , ⟨R.KNL_TBUS_STAT_SYN_MISMATCH, 1, .w1c, 0, .chip⟩
  , ⟨R.KNL_TBUS_STAT_PCK_MISMATCH, 1, .w1c, 0, .chip⟩
  , ⟨R.KNL_TBUS_STAT_MISMATCH_CNT, 1, .ro, 0, .chip⟩
  , ⟨R.KNL_CSET_HIST_OFS, 64, .ro, 0, .chip⟩
  , ⟨R.KNL_CSET_HIST_ANCHOR, 64, .ro, 0, .chip⟩
  , ⟨R.KNL_CSET_HIST_RATE, 64, .ro, 0, .chip⟩
  , ⟨R.KNL_CSET_HIST_CSET_VER, 64, .ro, 0, .chip⟩
  , ⟨R.KNL_CSET_HIST_KIND, 64, .ro, 0, .chip⟩
  , ⟨R.KNL_CSET_HIST_VALID, 64, .ro, 0, .chip⟩
  , ⟨R.KNL_CSET_HIST_STEP, 64, .ro, 0, .chip⟩
  , ⟨R.KNL_SEAL_STAT_STATE, 1, .ro, 7, .chip⟩
  , ⟨R.KNL_SEAL_STAT_TRIAL, 1, .ro, 0, .chip⟩
  , ⟨R.KNL_SEAL_STAT_FW_BANK, 1, .ro, 0, .kept⟩
  , ⟨R.KNL_SEAL_STAT_PARAM_BANK, 1, .ro, 0, .kept⟩
  , ⟨R.KNL_SEAL_STAT_FUSES, 1, .ro, 0, .kept⟩
  , ⟨R.KNL_SEAL_CNT, 1, .ro, 0, .kept⟩
  , ⟨R.KNL_PARAM_GEN, 1, .ro, 1, .kept⟩
  , ⟨R.KNL_MEAS, 1, .ro, 0, .chip⟩
  , ⟨R.KNL_PARAM_HASH, 1, .ro, 0, .chip⟩
  , ⟨R.KNL_ATT_PUB, 1, .ro, 0, .chip⟩
  , ⟨R.KNL_KPAIR_STAT_LEAD, 1, .ro, 0, .chip⟩
  , ⟨R.KNL_KPAIR_STAT_FROZEN, 1, .ro, 0, .chip⟩
  , ⟨R.KNL_KPAIR_STAT_LAST_AGREED, 1, .ro, 0, .chip⟩
  , ⟨R.KNL_KPAIR_STAT_RESUME_CNT, 1, .ro, 0, .chip⟩
  , ⟨R.KNL_KPAIR_STAT_SWAP_DEFERRED, 1, .ro, 0, .chip⟩
  , ⟨R.KNL_KPAIR_CNT_TRANSIENTS, 1, .ro, 0, .chip⟩
  , ⟨R.KNL_KPAIR_CNT_DISAGREES, 1, .ro, 0, .chip⟩
  , ⟨R.KNL_SWAP_PERIOD, 1, .rws, 0xe10, .sealed⟩
  , ⟨R.KNL_TRIAL_TIME, 1, .rws, 0x258, .sealed⟩
  , ⟨R.KNL_MBX_CLAIM, 1, .ro, 0xf, .chip⟩
  , ⟨R.KNL_MBX_STAT_BUF_STATE, 1, .ro, 0, .chip⟩
  , ⟨R.KNL_MBX_STAT_CLAIM_EXPIRED, 1, .ro, 0, .chip⟩
  , ⟨R.KNL_MBX_STAT_AUTH_LOCK, 1, .ro, 0, .chip⟩
  , ⟨R.KNL_MBX_GO, 1, .wo, 0, .none⟩
  , ⟨R.KNL_MBX_REL, 1, .wo, 0, .none⟩ ]

/-- Rows of the KNL tables. -/
def rowsKNL2 : List RegRow :=
  [ ⟨R.KNL_MBX_CMD_CNT, 1, .ro, 0, .kept⟩
  , ⟨R.KNL_REC_WR, 1, .ro, 0, .kept⟩
  , ⟨R.KNL_REC_RD, 1, .rw, 0, .kept⟩
  , ⟨R.KNL_REC_STAT_REC_OVERRUN, 1, .ro, 0, .chip⟩
  , ⟨R.KNL_REC_STAT_AUDIT_OVERWRITE, 1, .ro, 0, .chip⟩
  , ⟨R.KNL_AUDIT_STAT_FILL, 1, .ro, 0, .chip⟩
  , ⟨R.KNL_AUDIT_STAT_FULL, 1, .ro, 0, .chip⟩
  , ⟨R.KNL_AUDIT_ACK, 1, .rw, 0, .kept⟩
  , ⟨R.KNL_KIN_WR_OFFSET, 1, .ro, 0, .chip⟩
  , ⟨R.KNL_KIN_WR_HALF, 1, .ro, 0, .chip⟩
  , ⟨R.KNL_KIN_STAT, 1, .ro, 0, .chip⟩
  , ⟨R.KNL_MB, 1024, .rw, 0, .chip⟩
  , ⟨R.KNL_REC_WIN, 40960, .ro, 0, .chip⟩ ]

/-- Every row of the KNL tables. -/
def rowsKNL : List RegRow := rowsKNL0 ++ rowsKNL1 ++ rowsKNL2

/-- Rows of the REF tables. -/
def rowsREF0 : List RegRow :=
  [ ⟨R.REF_STAT_SEL_REF, 1, .ro, 0x1f, .chip⟩
  , ⟨R.REF_STAT_SERVO, 1, .ro, 0, .chip⟩
  , ⟨R.REF_STAT_FREQ_ONLY, 1, .ro, 0, .chip⟩
  , ⟨R.REF_STAT_SEL_CHANGES, 1, .ro, 0, .chip⟩
  , ⟨R.REF_QUAL_MASK, 1, .ro, 0, .chip⟩
  , ⟨R.REF_SUSPECT_MASK, 1, .ro, 0, .chip⟩
  , ⟨R.REF_DRIFT_MASK, 1, .ro, 0, .chip⟩
  , ⟨R.REF_EVT_SEL_CHANGED, 1, .w1c, 0, .chip⟩
  , ⟨R.REF_EVT_HOLD_ENTERED, 1, .w1c, 0, .chip⟩
  , ⟨R.REF_EVT_HOLD_LEFT, 1, .w1c, 0, .chip⟩
  , ⟨R.REF_EVT_RANK_CONFLICT, 1, .w1c, 0, .chip⟩
  , ⟨R.REF_EVT_DRIFT_FLAGGED, 1, .w1c, 0, .chip⟩
  , ⟨R.REF_EVT_OSC_EXCLUDED, 1, .w1c, 0, .chip⟩
  , ⟨R.REF_EVT_TEMP_STALE, 1, .w1c, 0, .chip⟩
  , ⟨R.REF_EVT_ENSEMBLE_EMPTY, 1, .w1c, 0, .chip⟩
  , ⟨R.REF_SEL_CFG, 1, .rws, 1, .sealed⟩
  , ⟨R.REF_ENS_ACCEPT, 1, .rws, 0x14, .sealed⟩
  , ⟨R.REF_AGREE, 1, .rws, 0x32, .sealed⟩
  , ⟨R.REF_DRIFT_WIN, 1, .rws, 0xe10, .sealed⟩
  , ⟨R.REF_DRIFT_HORIZON, 1, .rws, 0x5460, .sealed⟩
  , ⟨R.REF_LOCK_CFG_LOCK_PS, 1, .rws, 0x7d0, .sealed⟩
  , ⟨R.REF_LOCK_CFG_LOCK_TIME, 1, .rws, 0x3c, .sealed⟩
  , ⟨R.REF_ENS_Y, 1, .ro, 0, .chip⟩
  , ⟨R.REF_CFG_ENABLE, 23, .rws, 0, .sealed⟩
  , ⟨R.REF_CFG_KIND, 23, .rws, 0, .sealed⟩
  , ⟨R.REF_CFG_RANK, 23, .rws, 0, .sealed⟩
  , ⟨R.REF_NOM_FREQ, 23, .rws, 1, .sealed⟩
  , ⟨R.REF_ACCEPT, 23, .rws, 0x64, .sealed⟩
  , ⟨R.REF_REJECT, 23, .rws, 0x3e8, .sealed⟩
  , ⟨R.REF_QUAL, 23, .rws, 0x3c, .sealed⟩
  , ⟨R.REF_GLITCH_MIN_WIDTH, 23, .rws, 0xa, .sealed⟩
  , ⟨R.REF_GLITCH_GLITCH_MAX, 23, .rws, 8, .sealed⟩
  , ⟨R.REF_STATE_STATE, 23, .ro, 0, .chip⟩
  , ⟨R.REF_STATE_DRIFTING, 23, .ro, 0, .chip⟩
  , ⟨R.REF_STATE_FREQ_ONLY, 23, .ro, 0, .chip⟩
  , ⟨R.REF_STATE_CAUSE, 23, .ro, 0, .chip⟩
  , ⟨R.REF_STATE_QUAL_ELAPSED, 23, .ro, 0, .chip⟩
  , ⟨R.REF_STATE_Y_VALID, 23, .ro, 0, .chip⟩
  , ⟨R.REF_FREQ, 23, .ro, 0, .chip⟩
  , ⟨R.REF_PHASE, 23, .ro, 0, .chip⟩ ]

/-- Rows of the REF tables. -/
def rowsREF1 : List RegRow :=
  [ ⟨R.REF_CNT_GLITCHES, 23, .ro, 0, .chip⟩
  , ⟨R.REF_CNT_LOSSES, 23, .ro, 0, .chip⟩
  , ⟨R.REF_WEIGHT, 23, .ro, 0, .chip⟩
  , ⟨R.REF_TTR, 23, .ro, 0xffffffff, .chip⟩
  , ⟨R.OSC_CFG_ENABLE, 4, .rws, 0, .sealed⟩
  , ⟨R.OSC_CFG_TYPE, 4, .rws, 0, .sealed⟩
  , ⟨R.OSC_CFG_TEMP_SRC, 4, .rws, 0, .sealed⟩
  , ⟨R.OSC_CFG_WARMUP, 4, .rws, 0xb4, .sealed⟩
  , ⟨R.OSC_SIGMA1, 4, .rws, 0, .sealed⟩
  , ⟨R.OSC_RWFM, 4, .rws, 0, .sealed⟩
  , ⟨R.OSC_AGE_BOUND, 4, .rws, 0, .sealed⟩
  , ⟨R.OSC_TEMPCO_TEMPCO, 4, .rws, 0, .sealed⟩
  , ⟨R.OSC_TEMPCO_TEMPCO_RES, 4, .rws, 0, .sealed⟩
  , ⟨R.OSC_REJECT, 4, .rws, 0x3e8, .sealed⟩
  , ⟨R.OSC_STATE_STATE, 4, .ro, 0, .chip⟩
  , ⟨R.OSC_STATE_TICK_SRC, 4, .ro, 0, .chip⟩
  , ⟨R.OSC_STATE_WEIGHT, 4, .ro, 0, .chip⟩
  , ⟨R.OSC_FREQ, 4, .ro, 0, .chip⟩
  , ⟨R.OSC_TEMP, 4, .rw, 0, .chip⟩
  , ⟨R.REF_HOLD_STAT_LEARNED_D, 1, .ro, 0, .chip⟩
  , ⟨R.REF_HOLD_STAT_LEARNED_KT, 1, .ro, 0, .chip⟩
  , ⟨R.REF_HOLD_STAT_IN_HOLDOVER, 1, .ro, 0, .chip⟩
  , ⟨R.REF_HOLD_ELAPSED, 1, .ro, 0, .chip⟩
  , ⟨R.REF_LOCK_TIME, 1, .ro, 0, .chip⟩
  , ⟨R.REF_HOLD_MIN_LEARN, 1, .rws, 0x15180, .sealed⟩
  , ⟨R.REF_HOLD_TERM, 1, .ro, 0, .chip⟩
  , ⟨R.REF_HOLD_Y0, 1, .ro, 0, .chip⟩
  , ⟨R.REF_HOLD_D, 1, .ro, 0, .chip⟩
  , ⟨R.REF_HOLD_KT, 1, .ro, 0, .chip⟩
  , ⟨R.REF_HOLD_T0, 1, .ro, 0, .chip⟩ ]

/-- Every row of the REF tables. -/
def rowsREF : List RegRow := rowsREF0 ++ rowsREF1

/-- Rows of the TIM tables. -/
def rowsTIM0 : List RegRow :=
  [ ⟨R.TIM_STAT_TB_STATE, 1, .ro, 1, .chip⟩
  , ⟨R.TIM_STAT_RNG_OK, 1, .ro, 0, .chip⟩
  , ⟨R.TIM_EVT_TB_LOST, 1, .w1c, 0, .chip⟩
  , ⟨R.TIM_EVT_TB_BACK, 1, .w1c, 0, .chip⟩
  , ⟨R.TIM_EVT_RNG_FAULT, 1, .w1c, 0, .chip⟩
  , ⟨R.TIM_EVT_CAL_REJECTED, 1, .w1c, 0, .chip⟩
  , ⟨R.TIM_EVT_GAP, 1, .w1c, 0, .chip⟩
  , ⟨R.TIM_CAL_READY, 1, .ro, 0, .chip⟩
  , ⟨R.TIM_RNG_RATE, 1, .ro, 0, .chip⟩
  , ⟨R.TIM_TB_CNT, 1, .ro, 0, .chip⟩
  , ⟨R.TIM_CFG_ENABLE, 16, .rws, 0, .sealed⟩
  , ⟨R.TIM_CFG_SRC, 16, .rws, 0, .sealed⟩
  , ⟨R.TIM_CFG_EDGE, 16, .rws, 0, .sealed⟩
  , ⟨R.TIM_CFG_PRESC, 16, .rws, 0, .sealed⟩
  , ⟨R.TIM_RECDIV, 16, .rws, 0, .sealed⟩
  , ⟨R.TIM_DELAY, 16, .rws, 0, .sealed⟩
  , ⟨R.TIM_PRESC_DELAY, 16, .rws, 0, .sealed⟩
  , ⟨R.TIM_STATE_MEASURE, 16, .ro, 0, .chip⟩
  , ⟨R.TIM_STATE_DEGRADED_A, 16, .ro, 0, .chip⟩
  , ⟨R.TIM_STATE_DEGRADED_B, 16, .ro, 0, .chip⟩
  , ⟨R.TIM_STATE_BUDGET_SPENT, 16, .ro, 0, .chip⟩
  , ⟨R.TIM_STATE_TABLE_GEN_A, 16, .ro, 0, .chip⟩
  , ⟨R.TIM_STATE_TABLE_GEN_B, 16, .ro, 0, .chip⟩
  , ⟨R.TIM_CNT0, 16, .ro, 0, .chip⟩
  , ⟨R.TIM_CNT1_LOST_QUEUE, 16, .ro, 0, .chip⟩
  , ⟨R.TIM_CNT1_MISSED, 16, .ro, 0, .chip⟩
  , ⟨R.TIM_CNT2_INVALID, 16, .ro, 0, .chip⟩
  , ⟨R.TIM_CNT2_CAL_REJECTS, 16, .ro, 0, .chip⟩
  , ⟨R.TIM_ACTIVE_ACTIVE_A, 16, .ro, 0, .chip⟩
  , ⟨R.TIM_ACTIVE_ACTIVE_B, 16, .ro, 0, .chip⟩
  , ⟨R.TIM_LAST, 16, .ro, 0, .chip⟩
  , ⟨R.TIM_TABLE, 16384, .ro, 0, .chip⟩ ]

/-- Every row of the TIM tables. -/
def rowsTIM : List RegRow := rowsTIM0

/-- Rows of the SYN tables. -/
def rowsSYN0 : List RegRow :=
  [ ⟨R.SYN_STAT_BYPASS, 1, .ro, 0xf, .chip⟩
  , ⟨R.SYN_STAT_PENDING, 1, .ro, 0, .chip⟩
  , ⟨R.SYN_EVT, 1, .w1c, 0, .chip⟩
  , ⟨R.SYN_SP_CFG_MODE, 4, .rw, 0, .chip⟩
  , ⟨R.SYN_SP_CFG_SRC, 4, .rw, 0, .chip⟩
  , ⟨R.SYN_SP_CFG_R_DIV, 4, .rw, 1, .chip⟩
  , ⟨R.SYN_SP_N_INT, 4, .rw, 0x32, .chip⟩
  , ⟨R.SYN_SP_N_NUM, 4, .rw, 0, .chip⟩
  , ⟨R.SYN_SP_N_DEN, 4, .rw, 1, .chip⟩
  , ⟨R.SYN_SP_AT_SEC, 4, .rw, 0, .chip⟩
  , ⟨R.SYN_SP_COMMIT_AT, 4, .wo, 0, .none⟩
  , ⟨R.SYN_SP_COMMIT_RELOCK, 4, .wo, 0, .none⟩
  , ⟨R.SYN_SP_COMMIT_COMMIT_MS, 4, .wo, 0, .none⟩
  , ⟨R.SYN_SP_STAT_STATE, 4, .ro, 0, .chip⟩
  , ⟨R.SYN_SP_STAT_BAND, 4, .ro, 0, .chip⟩
  , ⟨R.SYN_SP_STAT_LKF_HIGH, 4, .ro, 0, .chip⟩
  , ⟨R.SYN_SP_STAT_BAND_MARGIN, 4, .ro, 0, .chip⟩
  , ⟨R.SYN_SP_STAT_REFUSE_CODE, 4, .ro, 0, .chip⟩
  , ⟨R.SYN_SP_STAT_VTUNE, 4, .ro, 0, .chip⟩
  , ⟨R.SYN_SP_CNT_RELOCKS, 4, .ro, 0, .chip⟩
  , ⟨R.SYN_SP_CNT_SLIPS, 4, .ro, 0, .chip⟩
  , ⟨R.SYN_OUT_CFG_KIND, 16, .rw, 0, .chip⟩
  , ⟨R.SYN_OUT_CFG_BYP_ACT, 16, .rw, 0, .chip⟩
  , ⟨R.SYN_OUT_CFG_BYP_DIV, 16, .rw, 4, .chip⟩
  , ⟨R.SYN_OUT_CFG_HEEL_EN, 16, .rw, 0, .chip⟩
  , ⟨R.SYN_OUT_CFG_HEEL_MODE, 16, .rw, 0, .chip⟩
  , ⟨R.SYN_OUT_CFG_HEEL_TI, 16, .rw, 0, .chip⟩
  , ⟨R.SYN_OUT_CFG_TOD_BAUD, 16, .rw, 4, .chip⟩
  , ⟨R.SYN_OUT_CFG_TOD_PPS, 16, .rw, 0, .chip⟩
  , ⟨R.SYN_OUT_CFG_TOD_UTC, 16, .rw, 1, .chip⟩
  , ⟨R.SYN_OUT_CFG_IRIG_YEAR, 16, .rw, 1, .chip⟩
  , ⟨R.SYN_OUT_CFG_POL, 16, .rw, 0, .chip⟩
  , ⟨R.SYN_OUT_DIV, 16, .rw, 0x1f4, .chip⟩
  , ⟨R.SYN_OUT_PER_NUM, 16, .rw, 0x3b9aca00, .chip⟩
  , ⟨R.SYN_OUT_PER_DEN, 16, .rw, 1, .chip⟩
  , ⟨R.SYN_OUT_WIDTH, 16, .rw, 0x5f5e100, .chip⟩
  , ⟨R.SYN_OUT_OFFSET0, 16, .rw, 0, .chip⟩
  , ⟨R.SYN_OUT_OFFSET1_OFFSET_PS, 16, .rw, 0, .chip⟩
  , ⟨R.SYN_OUT_OFFSET1_TOD_LAG, 16, .rw, 0x64, .chip⟩
  , ⟨R.SYN_OUT_EN, 16, .rw, 0, .chip⟩ ]

/-- Rows of the SYN tables. -/
def rowsSYN1 : List RegRow :=
  [ ⟨R.SYN_OUT_STAT_STATE, 16, .ro, 0, .chip⟩
  , ⟨R.SYN_OUT_STAT_DEGRADED, 16, .ro, 0, .chip⟩
  , ⟨R.SYN_OUT_STAT_HEEL_STATE, 16, .ro, 0, .chip⟩
  , ⟨R.SYN_OUT_DELAY, 16, .ro, 0, .chip⟩
  , ⟨R.SYN_OUT_FINE, 16, .ro, 0, .chip⟩
  , ⟨R.SYN_OUT_HEEL_CFG_STEP_MAX, 16, .rw, 0x3e8, .chip⟩
  , ⟨R.SYN_OUT_HEEL_CFG_SLEW, 16, .rw, 0x64, .chip⟩
  , ⟨R.SYN_OUT_HEEL_ERR, 16, .ro, 0, .chip⟩
  , ⟨R.SYN_OUT_CAL, 16, .rws, 0, .sealed⟩
  , ⟨R.SYN_OUT_UNC, 16, .rws, 0x1e, .sealed⟩
  , ⟨R.SYN_SPA_CFG_MODE, 4, .ro, 0, .chip⟩
  , ⟨R.SYN_SPA_CFG_SRC, 4, .ro, 0, .chip⟩
  , ⟨R.SYN_SPA_CFG_R_DIV, 4, .ro, 1, .chip⟩
  , ⟨R.SYN_SPA_N_INT, 4, .ro, 0x32, .chip⟩
  , ⟨R.SYN_SPA_N_NUM, 4, .ro, 0, .chip⟩
  , ⟨R.SYN_SPA_N_DEN, 4, .ro, 1, .chip⟩
  , ⟨R.SYN_OUTA_CFG_KIND, 16, .ro, 0, .chip⟩
  , ⟨R.SYN_OUTA_CFG_BYP_ACT, 16, .ro, 0, .chip⟩
  , ⟨R.SYN_OUTA_CFG_BYP_DIV, 16, .ro, 4, .chip⟩
  , ⟨R.SYN_OUTA_CFG_HEEL_EN, 16, .ro, 0, .chip⟩
  , ⟨R.SYN_OUTA_CFG_HEEL_MODE, 16, .ro, 0, .chip⟩
  , ⟨R.SYN_OUTA_CFG_HEEL_TI, 16, .ro, 0, .chip⟩
  , ⟨R.SYN_OUTA_CFG_TOD_BAUD, 16, .ro, 4, .chip⟩
  , ⟨R.SYN_OUTA_CFG_TOD_PPS, 16, .ro, 0, .chip⟩
  , ⟨R.SYN_OUTA_CFG_TOD_UTC, 16, .ro, 1, .chip⟩
  , ⟨R.SYN_OUTA_CFG_IRIG_YEAR, 16, .ro, 1, .chip⟩
  , ⟨R.SYN_OUTA_CFG_POL, 16, .ro, 0, .chip⟩
  , ⟨R.SYN_OUTA_DIV, 16, .ro, 0x1f4, .chip⟩
  , ⟨R.SYN_OUTA_PER_NUM, 16, .ro, 0x3b9aca00, .chip⟩
  , ⟨R.SYN_OUTA_PER_DEN, 16, .ro, 1, .chip⟩
  , ⟨R.SYN_OUTA_WIDTH, 16, .ro, 0x5f5e100, .chip⟩
  , ⟨R.SYN_OUTA_OFFSET0, 16, .ro, 0, .chip⟩
  , ⟨R.SYN_OUTA_OFFSET1_OFFSET_PS, 16, .ro, 0, .chip⟩
  , ⟨R.SYN_OUTA_OFFSET1_TOD_LAG, 16, .ro, 0x64, .chip⟩ ]

/-- Every row of the SYN tables. -/
def rowsSYN : List RegRow := rowsSYN0 ++ rowsSYN1

/-- Rows of the LSH tables. -/
def rowsLSH0 : List RegRow :=
  [ ⟨R.LSH_STAT_FLAGS, 1, .ro, 0x25, .chip⟩
  , ⟨R.LSH_STAT_CLOCK_CLASS, 1, .ro, 0xf8, .chip⟩
  , ⟨R.LSH_STAT_CLOCK_ACCURACY, 1, .ro, 0xfe, .chip⟩
  , ⟨R.LSH_STAT_STRATUM, 1, .ro, 0x10, .chip⟩
  , ⟨R.LSH_SEC, 1, .ro, 0, .chip⟩
  , ⟨R.LSH_CORE, 1, .ro, 0xffffffffffff, .chip⟩
  , ⟨R.LSH_CORE_PREV, 1, .ro, 0xffffffffffff, .chip⟩
  , ⟨R.LSH_REF, 1, .ro, 0, .chip⟩
  , ⟨R.LSH_PATH, 1, .ro, 0, .chip⟩
  , ⟨R.LSH_MEAS, 1, .ro, 0, .chip⟩
  , ⟨R.LSH_HOLD, 1, .ro, 0, .chip⟩
  , ⟨R.LSH_DEGR, 1, .ro, 0, .chip⟩
  , ⟨R.LSH_PTP_OSLV, 1, .ro, 0xffff, .chip⟩
  , ⟨R.LSH_PTP_TIME_TRACEABLE, 1, .ro, 0, .chip⟩
  , ⟨R.LSH_PTP_FREQ_TRACEABLE, 1, .ro, 0, .chip⟩
  , ⟨R.LSH_PTP_CLASS_G8275, 1, .ro, 0xf8, .chip⟩
  , ⟨R.LSH_ROOTDISP, 1, .ro, 0xffffffff, .chip⟩
  , ⟨R.LSH_CNT_TERMS_LATE, 1, .ro, 0, .chip⟩
  , ⟨R.LSH_CNT_UNBOUNDED_S, 1, .ro, 0, .chip⟩
  , ⟨R.LSH_PORT_TERM, 64, .ro, 0, .chip⟩
  , ⟨R.LSH_PORT_LEASH, 64, .ro, 0xffffffffffff, .chip⟩ ]

/-- Every row of the LSH tables. -/
def rowsLSH : List RegRow := rowsLSH0

/-- Rows of the GNS tables. -/
def rowsGNS0 : List RegRow :=
  [ ⟨R.GNS_CFG_ENABLE, 1, .rw, 0, .block⟩
  , ⟨R.GNS_CFG_CLK_OUT, 1, .rw, 0, .block⟩
  , ⟨R.GNS_CFG_FE_GATE, 1, .rw, 1, .block⟩
  , ⟨R.GNS_CFG_SPECTRAL_INV, 1, .rw, 0, .block⟩
  , ⟨R.GNS_CFG_FE_WARMUP, 1, .rw, 5, .block⟩
  , ⟨R.GNS_CFG_BURST_PHASE, 1, .rw, 0x64, .block⟩
  , ⟨R.GNS_CTRL_MODE, 1, .rw, 0, .block⟩
  , ⟨R.GNS_CTRL_RES_RELEASE, 1, .wo, 0, .none⟩
  , ⟨R.GNS_STAT_MODE_ACT, 1, .ro, 0, .block⟩
  , ⟨R.GNS_STAT_CLK_OK, 1, .ro, 0, .block⟩
  , ⟨R.GNS_STAT_BURST_ACTIVE, 1, .ro, 0, .block⟩
  , ⟨R.GNS_STAT_RX_STATE, 1, .rw, 0, .block⟩
  , ⟨R.GNS_STAT_NSV_TRACK, 1, .rw, 0, .block⟩
  , ⟨R.GNS_STAT_NSV_AUTH, 1, .rw, 0, .block⟩
  , ⟨R.GNS_STAT_SURVEY, 1, .rw, 0, .block⟩
  , ⟨R.GNS_EVT, 1, .w1c, 0, .block⟩
  , ⟨R.GNS_IF, 1, .rw, 0, .block⟩
  , ⟨R.GNS_AGC_AGC_OUT, 1, .ro, 0x200, .block⟩
  , ⟨R.GNS_AGC_AGC_TARGET, 1, .rw, 0x21, .block⟩
  , ⟨R.GNS_AGC_AGC_HOLD, 1, .rw, 0, .block⟩
  , ⟨R.GNS_CNT_BURSTS, 1, .ro, 0, .block⟩
  , ⟨R.GNS_CNT_BURSTS_DISCARDED, 1, .rw, 0, .block⟩
  , ⟨R.GNS_SNAP_CNT_SKIPPED, 1, .ro, 0, .block⟩
  , ⟨R.GNS_SNAP_CNT_SNAP_LATE, 1, .rw, 0, .block⟩
  , ⟨R.GNS_SNAP_STAT, 1, .ro, 0, .block⟩
  , ⟨R.GNS_SNAP_DONE_SLOT, 1, .wo, 0, .none⟩
  , ⟨R.GNS_SNAP_DONE_VALID, 1, .wo, 0, .none⟩
  , ⟨R.GNS_SNAP_DONE_SEQ, 1, .wo, 0, .none⟩
  , ⟨R.GNS_BURST_CSET_START, 1, .ro, 0, .block⟩
  , ⟨R.GNS_BURST_CSET_END, 1, .ro, 0, .block⟩
  , ⟨R.GNS_POS, 1, .rw, 0, .block⟩
  , ⟨R.GNS_POS_UNC, 1, .rw, 0, .block⟩
  , ⟨R.GNS_SURVEY_TIME, 1, .rw, 0x5460, .block⟩
  , ⟨R.GNS_MASK_ELEV_MASK, 1, .rw, 0xa, .block⟩
  , ⟨R.GNS_MASK_CN0_MIN, 1, .rw, 0x1e, .block⟩
  , ⟨R.GNS_MASK_SOL_MIN_SV, 1, .rw, 4, .block⟩
  , ⟨R.GNS_TIMERS0_DATA_PERIOD, 1, .rw, 0x258, .block⟩
  , ⟨R.GNS_TIMERS0_WEAK_TIME, 1, .rw, 0x1e, .block⟩
  , ⟨R.GNS_TIMERS1_ACQ_TIMEOUT, 1, .rw, 0x78, .block⟩
  , ⟨R.GNS_TIMERS1_RETRY_PERIOD, 1, .rw, 0x12c, .block⟩ ]

/-- Rows of the GNS tables. -/
def rowsGNS1 : List RegRow :=
  [ ⟨R.GNS_SPOOF_AGC_JUMP, 1, .rw, 0x1e, .block⟩
  , ⟨R.GNS_SPOOF_CN0_SPREAD, 1, .rw, 0x14, .block⟩
  , ⟨R.GNS_SPOOF_RES_TOL, 1, .rw, 0x2710, .block⟩
  , ⟨R.GNS_AID_TIME, 1, .rw, 0, .block⟩
  , ⟨R.GNS_AID_TUNC, 1, .rw, 0xffffffff, .block⟩
  , ⟨R.GNS_SEALED, 1, .ro, 0, .sealed⟩
  , ⟨R.CH_CFG_SVID, 24, .rw, 0, .block⟩
  , ⟨R.CH_CFG_SEARCH, 24, .rw, 0, .block⟩
  , ⟨R.CH_CARR, 24, .rw, 0, .block⟩
  , ⟨R.CH_CODE_RATE, 24, .rw, 0, .block⟩
  , ⟨R.CH_CODE_START, 24, .rw, 0, .block⟩
  , ⟨R.CH_STAT_STATE, 24, .rw, 0, .block⟩
  , ⟨R.CH_STAT_AUTH, 24, .rw, 0, .block⟩
  , ⟨R.CH_STAT_CN0, 24, .rw, 0, .block⟩
  , ⟨R.CH_RESID, 24, .rw, 0, .block⟩
  , ⟨R.GNS_AID_WIN, 4096, .rw, 0, .block⟩
  , ⟨R.GNS_RES_WIN, 100, .rw, 0, .block⟩
  , ⟨R.GNS_COR_WIN, 4800, .ro, 0, .block⟩
  , ⟨R.GNS_SNAP_WIN, 245760, .ro, 0, .block⟩ ]

/-- Every row of the GNS tables. -/
def rowsGNS : List RegRow := rowsGNS0 ++ rowsGNS1

/-- Rows of the PRT tables. -/
def rowsPRT0 : List RegRow :=
  [ ⟨R.PRT_CFG_ENABLE, 64, .rw, 0, .block⟩
  , ⟨R.PRT_CFG_MODE, 64, .rw, 3, .block⟩
  , ⟨R.PRT_CFG_ACCESS, 64, .rw, 0, .block⟩
  , ⟨R.PRT_CFG_AN_EN, 64, .rw, 1, .block⟩
  , ⟨R.PRT_CFG_RX_PAUSE_EN, 64, .rw, 0, .block⟩
  , ⟨R.PRT_CFG_HOST_FWD, 64, .rw, 0, .block⟩
  , ⟨R.PRT_CFG_PRP_EN, 64, .rw, 0, .block⟩
  , ⟨R.PRT_CFG_PRP_PTP_BOTH, 64, .rw, 0, .block⟩
  , ⟨R.PRT_CFG_MAX_FRAME, 64, .rw, 0x5f2, .block⟩
  , ⟨R.PRT_STAT_LINK_STATE, 64, .ro, 0, .block⟩
  , ⟨R.PRT_STAT_MODE_ACT, 64, .ro, 3, .block⟩
  , ⟨R.PRT_STAT_TS_READY, 64, .ro, 0, .block⟩
  , ⟨R.PRT_STAT_DEGRADED, 64, .ro, 0, .block⟩
  , ⟨R.PRT_STAT_DOWNSHIFTED, 64, .ro, 0, .block⟩
  , ⟨R.PRT_STAT_DOWNSHIFT_UNAVAIL, 64, .ro, 1, .block⟩
  , ⟨R.PRT_STAT_PAUSED, 64, .ro, 0, .block⟩
  , ⟨R.PRT_STAT_PAUSE_IGNORING, 64, .ro, 0, .block⟩
  , ⟨R.PRT_STAT_RECAL_STALE, 64, .ro, 0, .block⟩
  , ⟨R.PRT_STAT_PRP_CFG_ERR, 64, .ro, 0, .block⟩
  , ⟨R.PRT_EVT, 64, .w1c, 0, .block⟩
  , ⟨R.PRT_TX_START, 64, .rw, 1, .block⟩
  , ⟨R.PRT_SHIFT_CFG_DOWN_UTIL, 64, .rw, 5, .block⟩
  , ⟨R.PRT_SHIFT_CFG_UP_UTIL, 64, .rw, 0x3c, .block⟩
  , ⟨R.PRT_SHIFT_CFG_DOWN_TIME, 64, .rw, 0x258, .block⟩
  , ⟨R.PRT_PAUSE_PAUSE_MAX, 64, .rw, 0x64, .block⟩
  , ⟨R.PRT_PAUSE_PAUSE_IGNORE, 64, .rw, 0x3e8, .block⟩
  , ⟨R.PRT_RECAL_CFG_COVER, 64, .rw, 2, .block⟩
  , ⟨R.PRT_RECAL_CFG_RECAL_PERIOD, 64, .rw, 0xe10, .block⟩
  , ⟨R.PRT_MAC0, 64, .rw, 0, .block⟩
  , ⟨R.PRT_MAC1, 64, .rw, 0, .block⟩
  , ⟨R.PRT_CNT_CLR, 64, .wo, 0, .none⟩
  , ⟨R.PRT_LANE_PHASE_PHASE, 64, .ro, 0, .block⟩
  , ⟨R.PRT_LANE_PHASE_SLIP, 64, .ro, 0, .block⟩
  , ⟨R.PRT_LAT_TX, 64, .ro, 0, .block⟩
  , ⟨R.PRT_LAT_RX, 64, .ro, 0, .block⟩
  , ⟨R.PRT_RECAL_TX, 64, .ro, 0, .block⟩
  , ⟨R.PRT_RECAL_RX, 64, .ro, 0, .block⟩
  , ⟨R.PRT_RECAL_AGE, 64, .ro, 0, .block⟩
  , ⟨R.PRT_LAT_GEN, 64, .ro, 0, .block⟩
  , ⟨R.PRT_LAST_RX, 64, .ro, 0, .block⟩ ]

/-- Rows of the PRT tables. -/
def rowsPRT1 : List RegRow :=
  [ ⟨R.PRT_PRP_CFG_FORGET, 64, .rw, 0x190, .block⟩
  , ⟨R.PRT_PRP_CFG_SUP_EN, 64, .rw, 1, .block⟩
  , ⟨R.PRT_PG_STAT_REGION_SKEW, 8, .ro, 0, .block⟩
  , ⟨R.PRT_PG_STAT_TEMP_SKEW, 8, .ro, 0, .block⟩
  , ⟨R.PRT_PG_STAT_VOLT_SKEW, 8, .ro, 0, .block⟩
  , ⟨R.PRT_PG_STAT_CLK_SKEW, 8, .ro, 0, .block⟩
  , ⟨R.PRT_PG_STAT_XCOMP_VALID, 8, .ro, 0, .block⟩
  , ⟨R.PRT_PG_TEMP_T_PG, 8, .ro, 0, .block⟩
  , ⟨R.PRT_PG_TEMP_T_KNL, 8, .ro, 0, .block⟩
  , ⟨R.PRT_PG_VDIFF, 8, .ro, 0, .block⟩
  , ⟨R.PRT_PG_RTT, 8, .ro, 0, .block⟩
  , ⟨R.PRT_PG_XCOMP, 8, .ro, 0, .block⟩
  , ⟨R.PRT_PG_XCNT, 8, .ro, 0, .block⟩
  , ⟨R.PRT_RX_FRAMES, 64, .ro, 0, .block⟩
  , ⟨R.PRT_TX_FRAMES, 64, .ro, 0, .block⟩
  , ⟨R.PRT_RX_DROP_FCS, 64, .ro, 0, .block⟩
  , ⟨R.PRT_RX_DROP_RUNT, 64, .ro, 0, .block⟩
  , ⟨R.PRT_RX_DROP_OVERSIZE, 64, .ro, 0, .block⟩
  , ⟨R.PRT_RX_DROP_CODE, 64, .ro, 0, .block⟩
  , ⟨R.PRT_RX_DROP_MALFORMED, 64, .ro, 0, .block⟩
  , ⟨R.PRT_RX_DROP_NOQUEUE, 64, .ro, 0, .block⟩
  , ⟨R.PRT_RX_DROP_FILTER, 64, .ro, 0, .block⟩
  , ⟨R.PRT_RX_DROP_RECAL, 64, .ro, 0, .block⟩
  , ⟨R.PRT_PRP_DUP, 64, .ro, 0, .block⟩
  , ⟨R.PRT_PRP_WRONG, 64, .ro, 0, .block⟩
  , ⟨R.PRT_UNDERRUN, 64, .ro, 0, .block⟩
  , ⟨R.PRT_PAUSE_CNT_PAUSE_RX, 64, .ro, 0, .block⟩
  , ⟨R.PRT_PAUSE_CNT_PAUSE_BROKEN, 64, .ro, 0, .block⟩
  , ⟨R.PRT_SHIFT_CNT_SHIFTS, 64, .ro, 0, .block⟩
  , ⟨R.PRT_SHIFT_CNT_RECALS, 64, .ro, 0, .block⟩
  , ⟨R.PRT_RECAL_CNT_RECAL_FAILS, 64, .ro, 0, .block⟩
  , ⟨R.PRT_RECAL_CNT_RECAL_DEFERRED, 64, .ro, 0, .block⟩
  , ⟨R.PRT_NOTS, 64, .ro, 0, .block⟩ ]

/-- Every row of the PRT tables. -/
def rowsPRT : List RegRow := rowsPRT0 ++ rowsPRT1

/-- Rows of the LCH tables. -/
def rowsLCH0 : List RegRow :=
  [ ⟨R.LCH_CTRL_ENABLE, 1, .rw, 1, .block⟩
  , ⟨R.LCH_CTRL_AHEAD_MAX, 1, .rw, 0x7d0, .block⟩
  , ⟨R.LCH_EVT, 1, .w1c, 0, .block⟩
  , ⟨R.LCH_HSUB, 1, .wo, 0, .none⟩
  , ⟨R.LCH_HOST_STAT_LAST, 1, .ro, 0, .block⟩
  , ⟨R.LCH_HOST_STAT_ACCEPTED, 1, .ro, 0, .block⟩
  , ⟨R.LCH_RING_BASE, 11, .rw, 0, .block⟩
  , ⟨R.LCH_RING_CFG_ENABLE, 11, .rw, 0, .block⟩
  , ⟨R.LCH_RING_CFG_SIZE_LOG2, 11, .rw, 8, .block⟩
  , ⟨R.LCH_RING_CFG_THRESH, 11, .rw, 1, .block⟩
  , ⟨R.LCH_RING_WR, 11, .ro, 0, .block⟩
  , ⟨R.LCH_RING_RD, 11, .rw, 0, .block⟩
  , ⟨R.LCH_RING_STAT_FULL, 11, .ro, 0, .block⟩
  , ⟨R.LCH_RING_STAT_HELD, 11, .ro, 0, .block⟩
  , ⟨R.LCH_PSTAT_TQ_DEPTH, 64, .ro, 0, .block⟩
  , ⟨R.LCH_PSTAT_IQ_DEPTH, 64, .ro, 0, .block⟩
  , ⟨R.LCH_PSTAT_RQ_DEPTH, 64, .ro, 0, .block⟩
  , ⟨R.LCH_PSTAT_COMMIT_PENDING, 64, .ro, 0, .block⟩
  , ⟨R.LCH_MASK_COMMIT, 64, .wo, 0, .none⟩
  , ⟨R.LCH_LOST_PEND, 64, .ro, 0, .block⟩
  , ⟨R.LCH_CNT_SENT, 64, .ro, 0, .block⟩
  , ⟨R.LCH_CNT_MOVED, 64, .ro, 0, .block⟩
  , ⟨R.LCH_CNT_LATE, 64, .ro, 0, .block⟩
  , ⟨R.LCH_TSQ_LOST, 64, .ro, 0, .block⟩
  , ⟨R.LCH_CNT_REFUSED, 64, .ro, 0, .block⟩
  , ⟨R.LCH_RSEQ, 64, .ro, 0, .block⟩
  , ⟨R.LCH_MASK_SHADOW, 64, .rw, 0xffffffffffffffffffffffffffffffffffffffffffffffffffffffffffffffffffffffffffffffffffffffffffffffffffffffffffffffffffffffffffffffffffffffffffffffffffffffffffffffffffffffffffffffffffffffffffffffffffffffffffffffffffffffffffffffffffffffffffffffffffffffffffffffff, .block⟩
  , ⟨R.LCH_MASK_ACTIVE, 64, .ro, 0xffffffffffffffffffffffffffffffffffffffffffffffffffffffffffffffffffffffffffffffffffffffffffffffffffffffffffffffffffffffffffffffffffffffffffffffffffffffffffffffffffffffffffffffffffffffffffffffffffffffffffffffffffffffffffffffffffffffffffffffffffffffffffffffff, .block⟩ ]

/-- Every row of the LCH tables. -/
def rowsLCH : List RegRow := rowsLCH0

/-- Rows of the SRV tables. -/
def rowsSRV0 : List RegRow :=
  [ ⟨R.SRV_CTRL_ENABLE, 1, .rw, 0, .block⟩
  , ⟨R.SRV_CTRL_NTS_EN, 1, .rw, 0, .block⟩
  , ⟨R.SRV_CTRL_NAK_EN, 1, .rw, 1, .block⟩
  , ⟨R.SRV_CTRL_PLAIN_NTP, 1, .rw, 1, .block⟩
  , ⟨R.SRV_CTRL_ADMIT, 1, .rw, 0, .block⟩
  , ⟨R.SRV_EVT, 1, .w1c, 0, .block⟩
  , ⟨R.SRV_STAT, 1, .ro, 0, .block⟩
  , ⟨R.SRV_STEER_COMMIT, 1, .wo, 0, .none⟩
  , ⟨R.SRV_AU_CFG_SCOUT_AU, 1, .rw, 3, .block⟩
  , ⟨R.SRV_AU_CFG_WARDEN_AU, 1, .rw, 0, .block⟩
  , ⟨R.SRV_CLOCK_ID, 1, .rw, 0, .block⟩
  , ⟨R.SRV_STEER_SHADOW, 1, .rw, 0x7654321076543210765432107654321076543210765432107654321076543210765432107654321076543210765432107654321076543210765432107654321076543210765432107654321076543210765432107654321076543210765432107654321076543210765432107654321076543210765432107654321076543210, .block⟩
  , ⟨R.SRV_STEER_ACTIVE, 1, .ro, 0x7654321076543210765432107654321076543210765432107654321076543210765432107654321076543210765432107654321076543210765432107654321076543210765432107654321076543210765432107654321076543210765432107654321076543210765432107654321076543210765432107654321076543210, .block⟩
  , ⟨R.SRV_POOL_BASE, 1, .rw, 0, .block⟩
  , ⟨R.SRV_POOL_CFG, 1, .rw, 0x400, .block⟩
  , ⟨R.SRV_POOL_FREE, 1, .ro, 0, .block⟩
  , ⟨R.SRV_POOL_RET, 1, .wo, 0, .none⟩
  , ⟨R.SRV_POOL_EMPTY, 1, .ro, 0, .block⟩
  , ⟨R.SRV_CT_KEY0, 1, .wo, 0, .none⟩
  , ⟨R.SRV_CT_ADDR, 1, .wo, 0, .none⟩
  , ⟨R.SRV_CT_CMD, 1, .wo, 0, .none⟩
  , ⟨R.SRV_CT_RES_INDEX, 1, .ro, 0, .block⟩
  , ⟨R.SRV_CT_RES_STATUS, 1, .ro, 0, .block⟩
  , ⟨R.SRV_CT_RES_DONE, 1, .ro, 0, .block⟩
  , ⟨R.SRV_CT_USED, 1, .ro, 0, .block⟩
  , ⟨R.SRV_CT_FULL, 1, .ro, 0, .block⟩
  , ⟨R.SRV_GRANT_DUR_DUR_MIN, 1, .rw, 0xa, .block⟩
  , ⟨R.SRV_GRANT_DUR_DUR_MAX, 1, .rw, 0x12c, .block⟩
  , ⟨R.SRV_GRANT_LOG, 1, .rw, 0x151, .block⟩
  , ⟨R.SRV_GRANT_BUDGET, 1, .rw, 0x8ca0, .block⟩
  , ⟨R.SRV_GRANT_SHARE, 8, .rw, 0, .block⟩
  , ⟨R.SRV_NTP_CFG_PRECISION, 1, .rw, 0xe2, .block⟩
  , ⟨R.SRV_NTP_CFG_BURST, 1, .rw, 8, .block⟩
  , ⟨R.SRV_NTP_CFG_RATE, 1, .rw, 0x10, .block⟩
  , ⟨R.SRV_NTP_IDLE, 1, .rw, 0x400, .block⟩
  , ⟨R.SRV_NTS_LEAD, 1, .rw, 0x898, .block⟩
  , ⟨R.SRV_NTP_REFID, 24, .rw, 0, .block⟩
  , ⟨R.SRV_COOKIE_CUR, 1, .ro, 0, .block⟩
  , ⟨R.SRV_COOKIE_PREV, 1, .ro, 0, .block⟩
  , ⟨R.SRV_COOKIE_ROT0_SLOT, 1, .wo, 0, .none⟩ ]

/-- Rows of the SRV tables. -/
def rowsSRV1 : List RegRow :=
  [ ⟨R.SRV_COOKIE_ROT0_NOW, 1, .wo, 0, .none⟩
  , ⟨R.SRV_COOKIE_ROT1, 1, .wo, 0, .none⟩
  , ⟨R.SRV_COOKIE_ROT, 1, .wo, 0, .none⟩
  , ⟨R.SRV_MINT_KEY, 1, .wo, 0, .none⟩
  , ⟨R.SRV_MINT_CMD, 1, .wo, 0, .none⟩
  , ⟨R.SRV_MINT_STAT_BUSY, 1, .ro, 0, .block⟩
  , ⟨R.SRV_MINT_STAT_DONE, 1, .ro, 0, .block⟩
  , ⟨R.SRV_MINT_STAT_ERR, 1, .ro, 0, .block⟩
  , ⟨R.SRV_MINT_STAT_MINTED, 1, .ro, 0, .block⟩
  , ⟨R.SRV_AU_JOBS, 8, .ro, 0, .block⟩
  , ⟨R.SRV_AU_SPILL, 8, .ro, 0, .block⟩
  , ⟨R.SRV_AU_TAGFAIL, 8, .ro, 0, .block⟩
  , ⟨R.SRV_AU_CTXEXP, 8, .ro, 0, .block⟩
  , ⟨R.SRV_SA_CFG_ALG, 256, .rw, 0, .block⟩
  , ⟨R.SRV_SA_CFG_ICV_LEN, 256, .rw, 0x10, .block⟩
  , ⟨R.SRV_SA_CFG_VALID_A, 256, .rw, 0, .block⟩
  , ⟨R.SRV_SA_CFG_VALID_B, 256, .rw, 0, .block⟩
  , ⟨R.SRV_SA_CFG_TX_B, 256, .rw, 0, .block⟩
  , ⟨R.SRV_SA_KEYID_A, 256, .rw, 0, .block⟩
  , ⟨R.SRV_SA_KEYID_B, 256, .rw, 0, .block⟩
  , ⟨R.SRV_SA_KEY_A, 256, .wo, 0, .none⟩
  , ⟨R.SRV_SA_KEY_B, 256, .wo, 0, .none⟩
  , ⟨R.SRV_RXQ_BASE, 8, .rw, 0, .block⟩
  , ⟨R.SRV_RXQ_CFG_SIZE_LOG2, 8, .rw, 9, .block⟩
  , ⟨R.SRV_RXQ_CFG_ENABLE, 8, .rw, 0, .block⟩
  , ⟨R.SRV_RXQ_WR, 8, .ro, 0, .block⟩
  , ⟨R.SRV_RXQ_RD, 8, .rw, 0, .block⟩
  , ⟨R.SRV_RXQ_DROP, 8, .ro, 0, .block⟩
  , ⟨R.SRV_MINT_OUT, 208, .ro, 0, .block⟩
  , ⟨R.SRV_AU_STAT_QDEPTH, 8, .ro, 0, .block⟩
  , ⟨R.SRV_AU_STAT_CTX_USED, 8, .ro, 0, .block⟩
  , ⟨R.SRV_CNT_NTS_OK, 1, .ro, 0, .block⟩
  , ⟨R.SRV_CNT_NTS_COOKIE_BAD, 1, .ro, 0, .block⟩
  , ⟨R.SRV_CNT_NTS_AUTH_FAIL, 1, .ro, 0, .block⟩
  , ⟨R.SRV_CNT_NTS_REFUSED, 1, .ro, 0, .block⟩
  , ⟨R.SRV_CNT_NTS_CTX_FULL, 1, .ro, 0, .block⟩
  , ⟨R.SRV_CNT_PTP_AUTH_FAIL, 1, .rw, 0, .block⟩
  , ⟨R.SRV_CNT_GRANT_DENIED, 1, .rw, 0, .block⟩
  , ⟨R.SRV_CNT_RATE_DROP, 1, .rw, 0, .block⟩
  , ⟨R.SRV_CNT_KOD_SENT, 1, .rw, 0, .block⟩ ]

/-- Rows of the SRV tables. -/
def rowsSRV2 : List RegRow :=
  [ ⟨R.SRV_CNT_UNSUPPORTED, 1, .rw, 0, .block⟩
  , ⟨R.SRV_CNT_ANN_FOREIGN, 1, .rw, 0, .block⟩
  , ⟨R.SRV_CNT_NOT_READY, 1, .rw, 0, .block⟩
  , ⟨R.SRV_PORT_SVC0_PROFILE, 64, .rw, 0, .block⟩
  , ⟨R.SRV_PORT_SVC0_DOMAIN, 64, .rw, 0, .block⟩
  , ⟨R.SRV_PORT_SVC0_SPP, 64, .rw, 0, .block⟩
  , ⟨R.SRV_PORT_SVC0_AUTH_REQ, 64, .rw, 0, .block⟩
  , ⟨R.SRV_PORT_SVC0_TWO_STEP, 64, .rw, 0, .block⟩
  , ⟨R.SRV_PORT_SVC0_NTP_EN, 64, .rw, 0, .block⟩
  , ⟨R.SRV_PORT_SVC0_MC_LOG_SYNC, 64, .rw, 0, .block⟩
  , ⟨R.SRV_PORT_SVC1_MC_LOG_ANN, 64, .rw, 0, .block⟩
  , ⟨R.SRV_PORT_SVC1_US, 64, .rw, 0, .block⟩
  , ⟨R.SRV_PORT_SVC1_US_EN, 64, .rw, 0, .block⟩
  , ⟨R.SRV_PORT_SVC1_PRIORITY1, 64, .rw, 0x80, .block⟩
  , ⟨R.SRV_PORT_SVC1_PRIORITY2, 64, .rw, 0x80, .block⟩
  , ⟨R.SRV_US_MASTER0, 8, .rw, 0, .block⟩
  , ⟨R.SRV_US_MADDR, 8, .rw, 0, .block⟩ ]

/-- Every row of the SRV tables. -/
def rowsSRV : List RegRow := rowsSRV0 ++ rowsSRV1 ++ rowsSRV2

/-- Rows of the ADR tables. -/
def rowsADR0 : List RegRow :=
  [ ⟨R.ADR_EVT, 1, .w1c, 0, .block⟩
  , ⟨R.ADR_STAT, 1, .ro, 0, .block⟩
  , ⟨R.ADR_START, 1, .rw, 0, .block⟩
  , ⟨R.ADR_START2_START_MS, 1, .rw, 0, .block⟩
  , ⟨R.ADR_START2_PORTS, 1, .rw, 0, .block⟩
  , ⟨R.ADR_CFG_ENABLE, 4, .rw, 0, .block⟩
  , ⟨R.ADR_CFG_DIR, 4, .rw, 0, .block⟩
  , ⟨R.ADR_CFG_FS, 4, .rw, 2, .block⟩
  , ⟨R.ADR_CFG_CLK_OUT, 4, .rw, 0, .block⟩
  , ⟨R.ADR_CFG_SRC, 4, .rw, 0, .block⟩
  , ⟨R.ADR_CFG_PACK, 4, .rw, 0, .block⟩
  , ⟨R.ADR_CFG_CAP_EN, 4, .rw, 0, .block⟩
  , ⟨R.ADR_CFG_GRADE, 4, .rw, 1, .block⟩
  , ⟨R.ADR_CFG_AUTO_GRADE, 4, .rw, 1, .block⟩
  , ⟨R.ADR_CFG_AUTO_ADDR, 4, .rw, 1, .block⟩
  , ⟨R.ADR_CFG_TOD_UTC, 4, .rw, 1, .block⟩
  , ⟨R.ADR_RING_BASE, 4, .rw, 0, .block⟩
  , ⟨R.ADR_RING_CFG_SIZE_LOG2, 4, .rw, 0xc, .block⟩
  , ⟨R.ADR_RING_CFG_START_LEVEL, 4, .rw, 0x100, .block⟩
  , ⟨R.ADR_RING_WR, 4, .rw, 0, .block⟩
  , ⟨R.ADR_RING_RD, 4, .rw, 0, .block⟩
  , ⟨R.ADR_MUTE_MUTE, 4, .rw, 0, .block⟩
  , ⟨R.ADR_MUTE_RAMP, 4, .rw, 0xc0, .block⟩
  , ⟨R.ADR_PSTAT_IN_STATE, 4, .ro, 0, .block⟩
  , ⟨R.ADR_PSTAT_PLAYING, 4, .ro, 0, .block⟩
  , ⟨R.ADR_PSTAT_GAIN_ZERO, 4, .ro, 1, .block⟩
  , ⟨R.ADR_PSTAT_COMMIT_PENDING, 4, .ro, 0, .block⟩
  , ⟨R.ADR_PSTAT_CLK_ERR, 4, .ro, 0, .block⟩
  , ⟨R.ADR_STEER_CFG_TARGET, 4, .rw, 0x400, .block⟩
  , ⟨R.ADR_STEER_CFG_TC, 4, .rw, 4, .block⟩
  , ⟨R.ADR_STEER, 4, .ro, 0, .block⟩
  , ⟨R.ADR_CS_COMMIT, 4, .wo, 0, .none⟩
  , ⟨R.ADR_CS_SHADOW, 4, .rw, 0, .block⟩
  , ⟨R.ADR_U_SHADOW, 4, .rw, 0, .block⟩
  , ⟨R.ADR_CS_ACTIVE, 4, .ro, 0, .block⟩
  , ⟨R.ADR_IN_CS, 4, .ro, 0, .block⟩
  , ⟨R.ADR_CAP_MARK, 4, .ro, 0, .block⟩
  , ⟨R.ADR_UNDERRUNS, 4, .ro, 0, .block⟩
  , ⟨R.ADR_OVERRUNS, 4, .ro, 0, .block⟩
  , ⟨R.ADR_PARITY_ERR, 4, .ro, 0, .block⟩ ]

/-- Rows of the ADR tables. -/
def rowsADR1 : List RegRow :=
  [ ⟨R.ADR_CODE_ERR, 4, .ro, 0, .block⟩
  , ⟨R.ADR_CRCC_ERR, 4, .ro, 0, .block⟩ ]

/-- Every row of the ADR tables. -/
def rowsADR : List RegRow := rowsADR0 ++ rowsADR1

/-- Rows of the ENG tables. -/
def rowsENG0 : List RegRow :=
  [ ⟨R.ENG_CTRL_RUN, 12, .rw, 0, .block⟩
  , ⟨R.ENG_CTRL_GATE, 12, .rw, 0, .block⟩
  , ⟨R.ENG_CTRL_LOAD_DONE, 12, .wo, 0, .none⟩
  , ⟨R.ENG_CTRL_ERESET, 12, .wo, 0, .none⟩
  , ⟨R.ENG_STAT_STATE, 12, .ro, 1, .block⟩
  , ⟨R.ENG_STAT_MEAS_VALID, 12, .ro, 0, .block⟩
  , ⟨R.ENG_STAT_IN_TRAP, 12, .ro, 0, .engine⟩
  , ⟨R.ENG_STAT_IMPRECISE, 12, .ro, 0, .engine⟩
  , ⟨R.ENG_STAT_TICKETS, 12, .ro, 0, .engine⟩
  , ⟨R.ENG_STAT_CAUSE, 12, .ro, 0, .engine⟩
  , ⟨R.ENG_STAT_WAKE, 12, .ro, 0, .engine⟩
  , ⟨R.ENG_STAT_LOAD_REASON, 12, .ro, 0, .block⟩
  , ⟨R.ENG_EVT, 12, .w1c, 0, .block⟩
  , ⟨R.ENG_TRAP_CFG, 12, .rw, 0, .block⟩
  , ⟨R.ENG_EPC, 12, .ro, 0, .engine⟩
  , ⟨R.ENG_BADADDR, 12, .ro, 0, .engine⟩
  , ⟨R.ENG_PC, 12, .ro, 0, .engine⟩
  , ⟨R.ENG_WDOG, 12, .rw, 0, .block⟩
  , ⟨R.ENG_HB, 12, .rw, 0, .block⟩
  , ⟨R.ENG_DBELL, 12, .wo, 0, .none⟩
  , ⟨R.ENG_DBELL_PEND, 12, .w1c, 0, .block⟩
  , ⟨R.ENG_MEAS, 12, .ro, 0, .block⟩
  , ⟨R.ENG_IMG_VER, 12, .ro, 0, .block⟩
  , ⟨R.ENG_IMG_LEN_IMEM_WORDS, 12, .ro, 0, .block⟩
  , ⟨R.ENG_IMG_LEN_DMEM_WORDS, 12, .ro, 0, .block⟩
  , ⟨R.ENG_CYCLES, 12, .ro, 0, .block⟩
  , ⟨R.ENG_RETIRED, 12, .ro, 0, .block⟩
  , ⟨R.ENG_STALL_MTX, 12, .ro, 0, .block⟩
  , ⟨R.ENG_STALL_TKT, 12, .ro, 0, .block⟩
  , ⟨R.ENG_WAIT, 12, .ro, 0, .block⟩
  , ⟨R.ENG_ECC_CORRECTED, 12, .ro, 0, .block⟩
  , ⟨R.ENG_ECC_UNCORRECTED, 12, .ro, 0, .block⟩
  , ⟨R.ENG_LOAD_HDR, 12, .rw, 0, .block⟩ ]

/-- Every row of the ENG tables. -/
def rowsENG : List RegRow := rowsENG0

/-- Rows of the PCK tables. -/
def rowsPCK0 : List RegRow :=
  [ ⟨R.PCK_CFG_ENABLE, 1, .rw, 0, .block⟩
  , ⟨R.PCK_CFG_ROLE, 1, .rw, 0, .block⟩
  , ⟨R.PCK_CFG_AUTH_REQ, 1, .rw, 1, .block⟩
  , ⟨R.PCK_CFG_DEPTH_MAX, 1, .rw, 8, .block⟩
  , ⟨R.PCK_CFG_GM_PRIO, 1, .rw, 0x80, .block⟩
  , ⟨R.PCK_NODE, 1, .rw, 0, .block⟩
  , ⟨R.PCK_ETYPE, 1, .rw, 0x88b6, .block⟩
  , ⟨R.PCK_TIMERS_ARRIVE_HOLD, 1, .rw, 3, .block⟩
  , ⟨R.PCK_TIMERS_DEPART_HOLD, 1, .rw, 4, .block⟩
  , ⟨R.PCK_TIMERS_REARM_HOLD, 1, .rw, 0xa, .block⟩
  , ⟨R.PCK_EXCH_EXCH_MS, 1, .rw, 0x32, .block⟩
  , ⟨R.PCK_EXCH_REVERT_HOLD, 1, .rw, 0x1e, .block⟩
  , ⟨R.PCK_AUTH_SLOT, 1, .rw, 0, .block⟩
  , ⟨R.PCK_AUTH_LOAD, 1, .wo, 0, .none⟩
  , ⟨R.PCK_AUTH_KEY_OK, 1, .ro, 0, .block⟩
  , ⟨R.PCK_PORT_EN, 1, .rw, 0, .block⟩
  , ⟨R.PCK_STAT_UPLINK_ATT, 1, .ro, 0x7f, .block⟩
  , ⟨R.PCK_STAT_DEPTH, 1, .ro, 0x3f, .block⟩
  , ⟨R.PCK_STAT_CFG_ERR, 1, .ro, 0, .block⟩
  , ⟨R.PCK_UPLINK_NODE, 1, .ro, 0, .block⟩
  , ⟨R.PCK_UPLINK_VALID, 1, .ro, 0, .block⟩
  , ⟨R.PCK_UPLINK_CHANGES, 1, .ro, 0, .block⟩
  , ⟨R.PCK_GM_GM_ID, 1, .ro, 0, .block⟩
  , ⟨R.PCK_GM_GM_VALID, 1, .ro, 0, .block⟩
  , ⟨R.PCK_GM_GM_PRIO, 1, .ro, 0, .block⟩
  , ⟨R.PCK_GM_GM_CLASS, 1, .ro, 0xf8, .block⟩
  , ⟨R.PCK_GM_SEQ, 1, .ro, 0, .block⟩
  , ⟨R.PCK_EVT, 1, .w1c, 0, .block⟩
  , ⟨R.PCK_AUTH_FAIL, 1, .ro, 0, .block⟩
  , ⟨R.PCK_BAD_FRAME, 1, .ro, 0, .block⟩
  , ⟨R.PCK_LINK_CFG_ENABLE, 4, .rw, 0, .block⟩
  , ⟨R.PCK_LINK_CFG_RECAL_PERIOD, 4, .rw, 0xe10, .block⟩
  , ⟨R.PCK_LINK_STAT_LINK_STATE, 4, .ro, 0, .block⟩
  , ⟨R.PCK_LINK_STAT_TS_READY, 4, .ro, 0, .block⟩
  , ⟨R.PCK_LINK_STAT_DEGRADED, 4, .ro, 0, .block⟩
  , ⟨R.PCK_LINK_STAT_REGION_SKEW, 4, .ro, 0, .block⟩
  , ⟨R.PCK_LINK_RECAL_RECALS, 4, .ro, 0, .block⟩
  , ⟨R.PCK_LINK_RECAL_RECAL_FAILS, 4, .ro, 0, .block⟩
  , ⟨R.PCK_LINK_XCOMP, 4, .ro, 0, .block⟩
  , ⟨R.PCK_ATT_STAT_STATE, 68, .ro, 0, .block⟩ ]

/-- Rows of the PCK tables. -/
def rowsPCK1 : List RegRow :=
  [ ⟨R.PCK_ATT_STAT_ELIGIBLE, 68, .ro, 0, .block⟩
  , ⟨R.PCK_ATT_STAT_UPLINK, 68, .ro, 0, .block⟩
  , ⟨R.PCK_ATT_STAT_BRACE, 68, .ro, 0, .block⟩
  , ⟨R.PCK_ATT_STAT_P_DEPTH, 68, .ro, 0x3f, .block⟩
  , ⟨R.PCK_ATT_PARTNER_NODE, 68, .ro, 0, .block⟩
  , ⟨R.PCK_ATT_PARTNER_VALID, 68, .ro, 0, .block⟩
  , ⟨R.PCK_ATT_PARTNER_P_GM_ID, 68, .ro, 0, .block⟩
  , ⟨R.PCK_ATT_PARTNER_P_GM_VALID, 68, .ro, 0, .block⟩
  , ⟨R.PCK_ATT_OFS, 68, .ro, 0, .block⟩
  , ⟨R.PCK_ATT_MPD, 68, .ro, 0, .block⟩
  , ⟨R.PCK_ATT_LEASH, 68, .ro, 0xffffffffffff, .block⟩
  , ⟨R.PCK_ATT_SEQ, 68, .ro, 0, .block⟩
  , ⟨R.PCK_ATT_CNT_VOID, 68, .ro, 0, .block⟩
  , ⟨R.PCK_ATT_CNT_LOSSES, 68, .ro, 0, .block⟩ ]

/-- Every row of the PCK tables. -/
def rowsPCK : List RegRow := rowsPCK0 ++ rowsPCK1

/-- Rows of the BRC tables. -/
def rowsBRC0 : List RegRow :=
  [ ⟨R.BRC_CFG_ENABLE, 1, .rw, 0, .block⟩
  , ⟨R.BRC_CFG_SIDE, 1, .rw, 0, .block⟩
  , ⟨R.BRC_CFG_ATT, 1, .rw, 0, .block⟩
  , ⟨R.BRC_CFG_AUTO_UNMUTE, 1, .rw, 0, .block⟩
  , ⟨R.BRC_PORTS, 1, .rw, 0, .block⟩
  , ⟨R.BRC_TOL, 1, .rw, 0x2710, .block⟩
  , ⟨R.BRC_TIMERS_PERSIST, 1, .rw, 3, .block⟩
  , ⟨R.BRC_TIMERS_SWAP_PERIOD, 1, .rw, 0xe10, .block⟩
  , ⟨R.BRC_UNMUTE_TIME, 1, .rw, 0x3c, .block⟩
  , ⟨R.BRC_FOLLOW_DELAY, 1, .rw, 0xc8, .block⟩
  , ⟨R.BRC_CTRL_UNMUTE, 1, .wo, 0, .none⟩
  , ⟨R.BRC_CTRL_MUTE, 1, .wo, 0, .none⟩
  , ⟨R.BRC_STAT_PAIR_STATE, 1, .ro, 0, .block⟩
  , ⟨R.BRC_STAT_LEAD, 1, .ro, 0, .block⟩
  , ⟨R.BRC_STAT_MUTED, 1, .ro, 0, .block⟩
  , ⟨R.BRC_STAT_PARTNER_MUTED, 1, .ro, 0, .block⟩
  , ⟨R.BRC_STAT_VERDICT, 1, .ro, 0, .block⟩
  , ⟨R.BRC_STAT_P_VERDICT, 1, .ro, 0, .block⟩
  , ⟨R.BRC_STAT_CFG_ERR, 1, .ro, 0, .block⟩
  , ⟨R.BRC_STAT_PARTNER_SERVING, 1, .ro, 0, .block⟩
  , ⟨R.BRC_OFS, 1, .ro, 0, .block⟩
  , ⟨R.BRC_EVT, 1, .w1c, 0, .block⟩
  , ⟨R.BRC_CNT0_SWAPS, 1, .ro, 0, .block⟩
  , ⟨R.BRC_CNT0_SWAP_DEFERRED, 1, .ro, 0, .block⟩
  , ⟨R.BRC_CNT1_DISAGREES, 1, .ro, 0, .block⟩
  , ⟨R.BRC_CNT1_MUTES, 1, .ro, 0, .block⟩
  , ⟨R.BRC_MUTED_DROPS, 1, .ro, 0, .block⟩ ]

/-- Every row of the BRC tables. -/
def rowsBRC : List RegRow := rowsBRC0

/-- The rows that a BAR0 address can fall under: those of its block (R25). -/
def rowsOf (a : Nat) : List RegRow :=
  if a < 0x40000 then rowsCLK
  else if a < 0x80000 then rowsPWR
  else if a < 0x100000 then rowsAON
  else if a < 0x200000 then rowsSEC
  else if a < 0x300000 then rowsFLT
  else if a < 0x400000 then rowsOBS
  else if a < 0x500000 then rowsMTX
  else if a < 0x600000 then rowsHST
  else if a < 0x700000 then rowsFCH
  else if a < 0x1100000 then rowsKNL
  else if a < 0x1200000 then rowsREF
  else if a < 0x1300000 then rowsTIM
  else if a < 0x1400000 then rowsSYN
  else if a < 0x1500000 then rowsLSH
  else if a < 0x2100000 then rowsGNS
  else if a < 0x3100000 then rowsPRT
  else if a < 0x3500000 then rowsLCH
  else if a < 0x3900000 then rowsSRV
  else if a < 0x3D00000 then rowsADR
  else if a < 0x4C00000 then rowsENG
  else if a < 0x6080000 then rowsPCK
  else if a < 0x6100000 then rowsBRC
  else []

end Sys2Proof.Machine
end

