-- ==== Sys2Proof/Config.lean ====
section
/-! DEFINITION. What the manual leaves to the device or to firmware, as constants WITHOUT A BODY: nothing in Lean can
evaluate one or prove a value of it. Most are applied to a draw number, a counter held in State (field `draw`), so that
each use gives a fresh value. Log entry 4. -/

namespace Sys2Proof.Config

/-- ECDSA P-256 signature of a digest under a private scalar; the draw stands for the signature's nonce (R61, R68, R72). -/
opaque ecdsaSign : Digest → Digest → Nat → Sig

/-- The P-256 public key of a private scalar (R61). -/
opaque ecdsaPub : Digest → Sig

/-- Whether a P-256 signature verifies (R73). -/
opaque ecdsaVerify : Sig → Digest → Sig → Bool

/-- Digest of the Zhevod Kennel image as shipped (R1, R60). -/
opaque factoryKennelMeas : Digest

/-- Header words of the Kennel image as shipped: 0 ENTRY, 1 TRAP_ENTRY, 2 RESTART_ENTRY, 3 VERSION, 4 IMEM words, 5 DMEM
words (R1, R272). -/
opaque factoryImage : Nat → Word

/-- The bytes of the IMEM body, then the DMEM body, of the Kennel image as shipped (R1, R272). -/
opaque factoryByte : Nat → Byte

/-- The header words of the recovery image in ROM, numbered as those of the Kennel image (R272, R462). -/
opaque recoveryImage : Nat → Word

/-- The bytes of the IMEM body, then the DMEM body, of the recovery image (R462). -/
opaque recoveryByte : Nat → Byte

/-- The fixed measurement of the recovery image (R274). -/
opaque recoveryMeas : Digest

/-- SHA-256 of a parameter bank that was built from sealed-store words, generation and admitted measurement: the manual
does not give the place of the last two in the 256 KiB bank (R69). -/
opaque bankDigest : List (Nat × Word) → Option (List (Nat × Byte)) → Nat → Digest → Digest

/-- A calibration word that Zhevod enters per device at manufacture, by sealed-store offset (R119, R172, R323, R338). -/
opaque factoryCal : Nat → Word

/-- The MAC of a Bone under the key that the Kennel root secret yields: neither the fixed label of the key nor the layout of the body is given
(R422, R423). -/
opaque boneMac {α : Type} : Digest → α → Digest

/-- A value the manual leaves open, by draw number. -/
opaque freeBits : (w : Nat) → Nat → BitVec w

/-- A number the manual leaves open, by draw number. -/
opaque freeNat : Nat → Nat

/-- A choice the manual leaves open, by draw number. -/
opaque freeBool : Nat → Bool

/-- A signed number the manual leaves open, by draw number. -/
opaque freeInt : Nat → Int

/-- The hash of a duplicate window: source address and sequence number (R185). -/
opaque prpHash : Nat → Nat → Nat

/-- What a correlator's replica is (R142). -/
structure Replica where
  /-- CH_CFG.SVID. -/
  sv : Nat
  /-- The correlator, 0 to 4; 8 stands for all eight of search mode, which take the pilot's replica. -/
  tap : Nat
  /-- Its offset from prompt, or from the programmed phase, in twentieths of a chip. -/
  offset : Int
  /-- The carrier NCO word. -/
  carr : Int
  /-- GNS_IF. -/
  ifHz : Int
  /-- Carrier phase at the first sample, in turns × 2³². -/
  carrPh : Nat
  /-- The code NCO word. -/
  code : Nat
  /-- Code phase at the first sample, in chips × 2³². -/
  codePh : Nat

/-- What a correlator dumps of 4 ms of samples (R142). -/
opaque correlate : Replica → List Byte → Word

/-- The pseudorange in ps that the Scout predicts, atmosphere and all, from an orbit, a position and an RT (R155, R156). -/
opaque gnssRange : List Byte → Nat → Nat → Int

/-- The elevation in degrees of a satellite by its orbit, a position and an RT (R156). -/
opaque gnssElev : List Byte → Nat → Nat → Int

/-- What a channel's NCOs are seeded with (R147): 0 carrier, 1 code rate, 2 code phase, from an orbit, a position, an RT and REF_ENS_Y. -/
opaque gnssNco : Nat → List Byte → Nat → Nat → Int → Word

/-- The bound on the time uncertainty, in ps, within which tags of an ADKD may be verified (R153). -/
opaque osnmaLimit : Nat → Nat

/-- Seconds for which received ephemeris stays valid (R152). -/
opaque ephemerisLife : Nat

/-- Another hash function that an OSNMA chain may name (R153). -/
opaque otherHash : Nat → List Byte → List Byte

/-- Whether a signature of OSNMA verifies under a public key of a kind: ECDSA P-256 or P-521 (R153). -/
opaque osnmaSignature : Nat → List Byte → List Byte → List Byte → Bool

/-- The NTS NAK field of a kiss NTSN, whose form neither the manual nor RFC 8915 gives (R226). -/
opaque nakField : List Byte

/-- The output of the device's random generator, by draw number and place (R229, R232). -/
opaque randomByte : Nat → Nat → Byte

/-- `n` bytes of the random generator. -/
def randomBytes (draw n : Nat) : List Byte := (List.range n).map (randomByte draw)

end Sys2Proof.Config
end

