-- ==== Sys2Proof/Machine/State.lean ====
section
/-! DEFINITION. The state of the block. Registers live in ONE sparse word map keyed by BAR0 address (field `regs`, see
Machine/RegMap.lean for their names, access types and reset entries); what the manual gives the machine beside them lives
in the structures below, one per block. Everything is plain data. -/

namespace Sys2Proof.Machine

/-! ### References, ensemble, holdover and Leash (R86 to R115, R237 to R252) -/

/-- One sample of a frequency monitor: the reference's own time and the LC of it, both in 2⁻⁴⁸ s (R91). -/
structure Sample where
  tau : Int
  lc : Nat
deriving DecidableEq, Repr

/-- Scent's state for one reference identifier, beside its REF registers (R87 to R99). -/
structure RefSt where
  /-- valid samples of the last 100 s, newest first (R91, R107) -/
  samples : List Sample
  /-- LC of the last edge or record of any class (R88) -/
  lastEdge : Nat
  /-- LC of the last on-schedule edge or record (R89) -/
  lastOn : Option Nat
  /-- LC of an edge outside its window whose class is not yet known (R89) -/
  outside : Option Nat
  /-- class of the last edge: 0 on schedule, 1 outside its window, 2 glitch, 3 in a change of rate (R90) -/
  verdict : Nat
  /-- glitches of the running RT second (R89) -/
  secGlitch : Nat
  /-- records carry RATE until the reference is QUALIFYING again (R90) -/
  rateRun : Bool
  /-- the second boundaries inside ACCEPT since the first (R91) -/
  counting : Bool
  /-- the once-per-second y since the reference last became QUALIFYING, newest first: RT second and 10⁻¹⁵ (R93) -/
  ys : List (Nat × Int)
  /-- it has been in its state since an RT second boundary (R95) -/
  whole : Bool
  /-- a full second with |y| below the limit while SUSPECT or DISQUALIFIED (R95) -/
  clean : Bool
  /-- weight 0 after losing under R99 -/
  lost : Bool
  /-- expected period of an inlet reference in 2⁻⁴⁸ s, as its source reports it (R87) -/
  period : Nat
  /-- ref, path and meas terms of the last record, ps (R241) -/
  refPs : Nat
  pathPs : Nat
  measPs : Nat
  /-- UP_CLASS of the last session or uplink record, and whether that record was degraded (R244) -/
  upClass : Nat
  degr : Bool
  /-- the last valid sample: offset of the reference against RT in 2⁻⁴⁸ s and RT of it -/
  offset : Int
  lastRt : Time
deriving DecidableEq, Repr

/-- Scent's state for one oscillator (R102). -/
structure OscSt where
  /-- its edges as a TDC channel's records time them, in the last 100 s, newest first: own time in periods of FIN (R102, R105) -/
  samples : List Sample
  /-- own time at the channel's newest admitted record, in periods -/
  edges : Nat
  /-- its frequency against the ensemble by its own model, 2⁻⁶⁴ (R105) -/
  pred : Int
  /-- LC at which the present state was entered, and of the last edge (R102) -/
  since : Nat
  lastEdge : Nat
  /-- seconds as MEMBER, for the joining factor of R105 and R404 -/
  memberFor : Nat
  /-- LC of the last write of OSC_TEMP; the region sensor is in use when stale (R109) -/
  tempAt : Nat
  stale : Bool
  /-- 6σ of the frequency estimate at t_last, 10⁻²¹ (a_i of R111) -/
  a : Nat
  /-- 6σ of the learned ageing rate, 10⁻²¹ s⁻¹ (R111) -/
  d6 : Nat
  /-- weight at t_last, 1/65,536 -/
  w0 : Nat
  /-- temperature at t_last, 1/16 °C -/
  temp0 : Int
  /-- the integral since then of the absolute change, 1/16 °C × 2⁻⁴⁸ s, up to an RT: the part with a fresh temperature input, and the part
  while it was stale, which takes the full coefficient (R109, R111) -/
  tint : Nat
  tintFull : Nat
  tintAt : Nat
  /-- temperatures of the last RT seconds, newest first, for an interval that began less than four seconds ago -/
  recent : List Int
deriving DecidableEq, Repr

/-- A pairing under the equal-rank rule and its last outcome (R99). -/
structure RankPair where
  a : Nat
  b : Nat
  outcome : Nat
deriving DecidableEq, Repr

/-- The hidden state of references, servo and holdover. -/
structure RefsSt where
  refs : Vector RefSt 23
  /-- OSC0 to OSC3, and the XTAL input as entry 4 (R103) -/
  osc : Vector OscSt 5
  /-- the lead has supplied REF_ENS_Y since the reset (R91) -/
  ensYGiven : Bool
  /-- REF_ENS_Y was taken from a reference (R102) -/
  ensYFromRef : Bool
  /-- LOCKED has been reached since the reset (R106) -/
  everLocked : Bool
  /-- consecutive seconds with the residual below LOCK_PS (R106) -/
  lockRun : Nat
  /-- the servo has made its update of the running RT second (R107, R110) -/
  servoDone : Bool
  pairs : List RankPair
  /-- RT, in 2⁻⁴⁸ s, of the last valid sample of the last selected reference (t_last, R110) -/
  tLast : Nat
  /-- a reference has been QUALIFIED since the reset (R485) -/
  everQual : Bool
  /-- the KPLL source that the y0 of a restored fresh Bone belongs to (R485) -/
  boneSrc : Option Nat
  /-- RT of the sample that the servo, or the load of the SN count, used last -/
  used : Time
  /-- points of the running lock, newest first: RT second, temperature in 1/16 °C, tick offset in 2⁻⁶⁴ (R108) -/
  learn : List (Int × Int × Int)
  /-- a field that the lead wrote with ENSY, taken on the next tick (R302) -/
  ensy : List (Nat × DWord)
deriving DecidableEq, Repr

/-- Leash terms of one second (R242): a value of 2⁴⁸ − 1 is UNBOUNDED. -/
structure Terms where
  ref : Nat
  path : Nat
  meas : Nat
  slew : Nat
  hold : Nat
deriving DecidableEq, Repr

/-- The hidden state of the Leash (R239 to R245). -/
structure LshSt where
  /-- terms written for the next second -/
  next : Option Terms
  cur : Terms
  carry : Option Nat
  lLast : Nat
  lEntry : Nat
  lCkpt : Nat
  /-- while a boundary selects: the core Leash that this boundary's terms give with the servo as it was (R240) -/
  due : Option Nat
  /-- REF_ENS_Y and RT, in 2⁻⁴⁸ s, at the move into an SN state (R240) -/
  ensYEntry : DWord
  tEntry : Nat
  /-- RT second that the checkpoint closes (R239) -/
  tCkpt : Nat
  /-- seconds missed in a row (R242) -/
  late : Nat
  /-- a TDC record with DEGRADED was used in this second, in the previous one (R244) -/
  tdcDegr : Bool
  tdcDegrPrev : Bool
deriving DecidableEq, Repr

/-! ### Time model (R28 to R59, R512) -/

/-- OFS, ANCHOR and RATE (R33). -/
structure CorrSet where
  ofs : Time
  anchor : Time
  rate : DWord
deriving DecidableEq, Repr

/-- One entry of KNL_CSET_HIST (R57), newest entries first in the list that holds them. -/
structure HistEntry where
  ofs : Time
  anchor : Time
  rate : DWord
  ver : BitVec 16
  kind : BitVec 3
  step : Time
  /-- it has the SN form: the source left LC, or was in an SN state (R57) -/
  inSn : Bool
deriving DecidableEq, Repr

/-- A reader's replica of the count, held as its difference from the Kennel's: since both advance by the same increment the
difference stands until the replica is reloaded (R55, R56). -/
structure Replica where
  /-- of LC with its hidden fraction, in 2⁻⁸⁰ s -/
  lc : Int
  /-- of the SN count, in 2⁻¹⁶ ns -/
  sn : Int
deriving DecidableEq, Repr

/-- A firmware update that awaits its effective tick (R35, R37). -/
structure FwUpd where
  freq : DWord
  phase : DWord
  slewReq : BitVec 20
  due : Nat
deriving DecidableEq, Repr

/-- A step order that awaits its effective tick; it keeps what its audit record needs (R40). -/
structure StepOrd where
  step : Time
  due : Nat
  counter : DWord
  keySlot : Byte
deriving DecidableEq, Repr

/-- A freeze update that awaits its effective tick (R35, R36). -/
structure FreezeUpd where
  freq : DWord
  due : Nat
deriving DecidableEq, Repr

/-- A slew in progress: the slew term, the PHASE it serves, the LC at which it began, and the phase made by slews that it
replaced (R39). -/
structure Slew where
  s : DWord
  phase : DWord
  start : Time
  part : Int
deriving DecidableEq, Repr

/-- A change of source that is armed (R51, R54). -/
inductive Armed where
  /-- a handover into LC with FREQ -/
  | toLc (freq : DWord)
  /-- the move into SN_TEST; the flag tells whether the source was LC -/
  | toTest
  /-- the move into SN_RECOVERY -/
  | toRecovery
deriving DecidableEq, Repr

/-- What one source says of UTC (R46, R47). -/
structure UtcSrc where
  offset : BitVec 16
  leap : Nat
  at_ : Nat
deriving DecidableEq, Repr

/-- A leap second that has been accepted: 1 inserted, 2 deleted, at a TAI second (R48). -/
structure Leap where
  kind : Nat
  at_ : Nat
deriving DecidableEq, Repr

/-- The hidden state of the time model. -/
structure TimeSt where
  /-- KPLL has locked since the last reset, so LC runs (R31) -/
  running : Bool
  lc : Time
  /-- the hidden fraction below LC[0] (R29) -/
  frac : Word
  /-- the SN count as SN96 (R50) -/
  sn : Time
  /-- place in the cadence 54,613, 54,613, 54,614 (R50) -/
  cad : Nat
  /-- ticks since KPLL lock -/
  tick : Nat
  /-- seconds of RT, or of the SN count, on the previous tick (R512) -/
  prevSec : Nat
  /-- the second that the last boundary event served -/
  lastSecond : Nat
  /-- the set that readers hold -/
  cset : CorrSet
  copyA : CorrSet
  copyB : CorrSet
  copyABad : Bool
  copyBBad : Bool
  hist : List HistEntry
  fw : Option FwUpd
  steps : List StepOrd
  freeze : Option FreezeUpd
  armed : Option (Armed × Nat)
  snLoad : Option (Time × Nat)
  slew : Option Slew
  /-- effective tick of the last firmware update or handover into LC (R37) -/
  lastFw : Option Nat
  /-- a test command has asked the lead to leave SN_TEST (R51) -/
  leaveTest : Bool
  utcGnss : Option UtcSrc
  utcHost : Option UtcSrc
  utcOverride : Bool
  leap : Option Leap
  /-- leap61 (bit 0) and leap59 (bit 1) of PTP (R48) -/
  ptpLeap : BitVec 2
  /-- the NTP leap indicator (R48) -/
  ntpLeap : BitVec 2
  /-- per reader (PG0 to PG7, engines, synthesis, Pack), the tick up to which its timestamps are degraded (R56) -/
  readerDegr : List Nat
  /-- the replicas of the same readers (R55) -/
  replicas : Vector Replica 11
deriving DecidableEq, Repr

/-! ### Kennel (R60 to R85) -/

/-- A Kennel record of 160 bytes (R72), by its fields. -/
structure KRec where
  typ : Nat
  flags : Nat
  seq : Nat
  sealCnt : Nat
  keySlot : Nat
  mode : Nat
  rt : Time
  detail : List Byte
  prev : Digest
  sig : Sig
  /-- the public half of the key that signed it, as the chain of R72 names it; not one of its bytes (log entry 81) -/
  pub : Sig
deriving DecidableEq, Repr

/-- One bank of the sealed-parameter store: its words by offset (an unlisted word has the factory value), its
generation, the measurement it admits and, for a bank loaded whole by COMMIT_PARAM, the digest of the image (R69). -/
structure PBank where
  words : List (Nat × Word)
  /-- a bank loaded whole by COMMIT_PARAM: its bytes by offset; none over the image as shipped -/
  base : Option (List Host.Cell)
  gen : Nat
  /-- none: the image as shipped -/
  meas : Option Digest
  image : Option Digest
deriving DecidableEq, Repr

/-- A firmware bank: an image, or none for the image as shipped (R1, R71). -/
structure FwBank where
  image : Option (List Byte)
deriving DecidableEq, Repr

/-- A sealed-store command that has its audit record and awaits the bank switch (R70). -/
structure StagedCmd where
  counter : Nat
  opcode : Nat
  change : List Byte
  /-- the record was written at this tick -/
  at_ : Nat
  /-- the store words it changes -/
  words : List (Nat × Word)
  /-- a whole image replaces the bank (COMMIT_PARAM) -/
  whole : Bool
deriving DecidableEq, Repr

/-- The retention body (R422), whose layout belongs to the Kennel image: the model holds what R422 says it holds. -/
structure BoneBody where
  /-- words of the holdover model, the ensemble weights and the references, by register address -/
  words : List (Nat × Word)
  osc : Vector OscSt 5
  utcGnss : Option UtcSrc
  utcHost : Option UtcSrc
  utcOverride : Bool
  leap : Option Leap
  utc : List (Nat × Word)
  /-- the KPLL source that y0 belongs to (R485) -/
  source : Nat
deriving DecidableEq, Repr

/-- A Bone (R422): its header, MAC and body. -/
structure Bone where
  mac : Digest
  fresh : Bool
  cause : Nat
  seq : Nat
  paramGen : Nat
  rt : Time
  mode : Nat
  sealCnt : Nat
  leash : Nat
  body : BoneBody
deriving DecidableEq, Repr

/-- What the Kennel keeps in KSPI flash (R71). Lists of records are oldest first. -/
structure Kspi where
  /-- the bank pointers of the boot header, and the acknowledged SEQ that KNL_AUDIT_ACK is loaded from (R71, R85) -/
  fwPtr : Bool
  paramPtr : Bool
  ack : Word
  fwBank : Vector FwBank 2
  paramBank : Vector PBank 2
  staging : List Host.Cell
  staged : List StagedCmd
  ledger : List KRec
  hourly : List KRec
  events : List KRec
  /-- sectors of the hourly ring and of the event log that have been recycled, each of 25 records (R71, R74) -/
  hourlyCut : Nat
  eventCut : Nat
  /-- written Bone slots, by number: the Bone, or none for body pages without MAGIC (R422, R428) -/
  bones : List (Nat × Option Bone)
  /-- the next slot to write (R424) -/
  boneNext : Nat
deriving DecidableEq, Repr

/-- A checkpoint slot (R78): the second it closes, FREQ of the set in force there, and the engines' areas. -/
structure Ckpt where
  second : Nat
  freq : DWord
  /-- K0's area and K1's, by offset -/
  area0 : List Host.Cell
  area1 : List Host.Cell
deriving DecidableEq, Repr

/-- What the per-second record of a second takes at the boundary that closes it (R75). -/
structure SecRec where
  second : Nat
  freq : DWord
  unsealed : Bool
  leash : Nat
  selRef : Nat
  csetVer : Nat
  rate : DWord
  qual : Nat
  utcOffset : Nat
  leap : Nat
  temp : Nat
  stepped : Bool
  jumped : Bool
deriving DecidableEq, Repr

/-- The comparison of one second by the K-pair (R78, R79). -/
structure KPair where
  /-- the second just closed, whose digests are awaited or settled -/
  second : Option SecRec
  /-- LC at which its comparison opened (R78, R79) -/
  openAt : Nat
  /-- its comparison has been made -/
  settled : Bool
  d0 : Option Digest
  d1 : Option Digest
  /-- the first digests, kept while the second is recomputed -/
  first0 : Option Digest
  first1 : Option Digest
  recomputing : Bool
  /-- the second has been run again, so its first digests are `first0` and `first1` (R79) -/
  rerun : Bool
  /-- firmware updates are held (R79) -/
  held : Bool
  /-- the updates held while recomputing, oldest first -/
  heldUpd : List FwUpd
  ckpt : Vector (Option Ckpt) 2
  newest : Fin 2
  /-- engine to be restored from a checkpoint at the next boundary (R80, R82) -/
  restore : Option (Fin 2)
  /-- known-answer test asked for and not answered -/
  kat : Bool
  /-- trial: the standby that runs the new image, and the bank it came from (R82) -/
  trial : Option (Fin 2)
  trialEnd : Nat
  trialFailed : Bool
  trialMism : Nat
  trialCounter : Nat
  trialChange : List Byte
  /-- agreed seconds count towards R80 from this second on -/
  resumeFrom : Option Nat
  /-- a step order was applied, and a JUMP_REFUSED was set, in the running second (R75) -/
  stepped : Bool
  jumped : Bool
deriving DecidableEq, Repr

/-- A record of the measurement inlet or of the input log: type, length, LC of arrival and bytes (R259). -/
structure InRec where
  typ : Nat
  lc : Time
  bytes : List Byte
deriving DecidableEq, Repr

/-- The hidden state of the Kennel. -/
structure KnlSt where
  /-- the working copy of the active bank (R69) -/
  work : List (Nat × Word)
  workBase : Option (List Host.Cell)
  /-- the working copy before the last bank switch, and the RT second from which the present one is in force (R238) -/
  oldWork : List (Nat × Word)
  oldBase : Option (List Host.Cell)
  switchSec : Nat
  /-- claimant of each mailbox buffer -/
  owner : Vector (Option Master) 4
  /-- LC of a buffer's claim, or of its entry into DONE (R62) -/
  mbAt : Vector Nat 4
  /-- buffers in GO order (R62) -/
  order : List (Fin 4)
  /-- LCs of the tag failures of the last second (R66) -/
  authAt : List Nat
  /-- LC at which the refusals of R66 began -/
  lockAt : Nat
  /-- SHA-256 of the newest record (R76) -/
  prevDig : Digest
  /-- Kennel image measured and engines started (R60), and the LC of that (R488) -/
  booted : Bool
  bootAt : Nat
  /-- SEAL completed; STATE becomes INTACT at the next boundary (R84) -/
  sealPend : Bool
  pair : KPair
  inlet : List InRec
  /-- the input log: current half and the half of the previous second (R259) -/
  kin : List InRec
  kinPrev : List InRec
  /-- seconds of RT at which each fault source wrote its last record, and occurrences since (R459) -/
  faultRec : List (Nat × Nat × Nat)
  /-- last GNSS identifier fields and other inlet data are in `ScentSt` -/
  attKey : Digest
  /-- Guard heartbeats fail (R464) -/
  guardFail : Bool
deriving DecidableEq, Repr

/-! ### Fault collection (R453 to R465) -/

/-- The hidden state of FLT, Guard and BARK_N. -/
structure FltSt where
  /-- BARK_N driven low -/
  bark : Bool
  /-- the 10 µs minimum is running (R458) -/
  barkHold : Bool
  /-- units that had a BLOCK reset, and the RT second of it (R456) -/
  blockDone : List (Nat × Nat)
  /-- RT seconds of the misses (R461) -/
  misses : List Nat
  /-- LC since which the 10 µs minimum runs (R458) -/
  barkAt : Nat
  /-- LC since which ENG_HB of E2 has not changed, or Guard has awaited it (R461) -/
  hbAt : Nat
  /-- LC of Guard's last heartbeat, and of the first of those that have come without a gap of 10 ms (R464) -/
  guardAt : Nat
  guardFrom : Nat
deriving DecidableEq, Repr

/-! ### Engines (R253 to R303) -/

/-- The flags of an engine (R255). -/
structure Flags where
  z : Bool
  n : Bool
  c : Bool
  v : Bool
  tsat : Bool
  tsn : Bool
  tlate : Bool
deriving DecidableEq, Repr

/-- The image an engine holds, by the header fields it runs from (R272). -/
structure Image where
  cls : Nat
  entry : BitVec 16
  trapEntry : BitVec 16
  restart : BitVec 16
deriving DecidableEq, Repr

/-- An accelerator job as its descriptor gives it (R296, R297), with an inline key already read. -/
structure Job where
  target : Nat
  desc : List Byte
  key : List Byte
deriving DecidableEq, Repr

/-- A job that has been delivered to a unit and not yet run (R233, R267): unit 0 to 7 AU0 to AU7, 8 the lookup assist, 9 the
engine's CRC unit, 10 its HASH core. Its ticket waits for the status while `live`. -/
structure UJob where
  eng : Fin 12
  num : Fin 16
  unit : Nat
  job : Job
  live : Bool
deriving DecidableEq, Repr

/-- A ticket entry (R265, R266): its number, its job, whether it has been delivered, and its result when complete. -/
structure Ticket where
  num : Fin 16
  job : Job
  delivered : Bool
  /-- status and value formed by the unit -/
  result : Option (Nat × Nat)
  complete : Bool
deriving DecidableEq, Repr

/-- A store in the write buffer (R254). -/
structure WEntry where
  addr : Nat
  bytes : List Byte
deriving DecidableEq, Repr

/-- Where a load puts its data: a general register with the width and the sign rule, or a time register, or the old
value of an atomic operation (R287, R289). -/
inductive Dest where
  | gpr (a : BitVec 5) (n : Nat) (signed : Bool)
  | time (va : BitVec 3)
deriving DecidableEq, Repr

/-- A register that an instruction reads: general, or of time (R255). -/
inductive EReg where
  | g (a : BitVec 5)
  | v (va : BitVec 3)
deriving DecidableEq, Repr

/-- The operations of the AMO group (R289). -/
inductive Amo where | swap | add | and | or | cas
deriving DecidableEq, Repr

/-- An instruction that has issued and cannot complete yet (R253, R254, R266): it waits for the write buffer to drain,
for a free entry, or for data from the matrix. -/
inductive Held where
  | launch (a b : BitVec 5)
  | kick (a b : BitVec 5) (target : Nat)
  | waitt (a : BitVec 5) (vb : BitVec 3) (mask : BitVec 7)
  | sleep (a : BitVec 5) (mask : BitVec 7)
  | fence
  | store (addr : Nat) (bytes : List Byte) (cost : Nat)
  | load (addr n : Nat) (d : Dest)
  | amo (op : Amo) (addr : Nat) (a : BitVec 5) (x y : DWord)
  | kickFull (a b : BitVec 5) (target : Nat)
deriving DecidableEq, Repr

/-- What a WAITING engine waits for (R262, R292, R298). -/
inductive Waiting where
  | instant (a : BitVec 5) (at_ : Time) (mask : BitVec 7)
  | event (a : BitVec 5) (mask : BitVec 7)
  | ticket (a : BitVec 5) (num : Fin 16)
deriving DecidableEq, Repr

/-- The instruction that completed last, as OBS records it (R470, R471). -/
structure LastInstr where
  pc : BitVec 16
  cost : Nat
  cls : Nat
  trapped : Bool
  /-- g[b][15:0] of a PMARK -/
  mark : Option (BitVec 16)
deriving DecidableEq, Repr

/-- One Volost engine (R255), beside its ENG registers. -/
structure Engine where
  g : Vector DWord 32
  v : Vector Time 8
  flags : Flags
  pc : BitVec 16
  tickets : List Ticket
  lastTicket : Fin 16
  wbuf : List WEntry
  /-- stores that have left the buffer and are not acknowledged -/
  unacked : Nat
  held : Option Held
  waiting : Option Waiting
  /-- wake events that occurred and are held (R263) -/
  events : BitVec 7
  nmi : Bool
  /-- address of a store that was answered with an error, not yet taken (R268) -/
  storeErr : Option Nat
  image : Option Image
  /-- RUN was cleared and the stop has not completed (R260) -/
  stopping : Bool
  /-- the watchdog counts, since an LC (R268, R278) -/
  wdogOn : Bool
  wdogAt : Nat
  /-- the watchdog has expired and its trap waits for an instruction to complete (R268) -/
  wdogDue : Bool
  /-- the image to be measured came from the recovery ROM (R462) -/
  rom : Bool
  /-- LC at which the instruction that cannot complete began to wait (R253) -/
  heldAt : Nat
  /-- LC at which WAITING was entered, and time spent in WAITING before, in 2⁻⁴⁸ s (R278) -/
  waitAt : Nat
  waitAcc : Nat
  /-- LC at which STOPPED was entered (R414) -/
  stopAt : Nat
  last : LastInstr
  /-- the register that a load from DMEM wrote, where that load is the instruction that completed last (R253) -/
  loaded : Option EReg
deriving DecidableEq, Repr

/-! ### Bus matrix (R385 to R394) -/

/-- What a matrix request asks for. -/
inductive MOp where
  | read (n : Nat)
  | write (bytes : List Byte)
  | atomic (op : Amo) (x y : DWord)
deriving DecidableEq, Repr

/-- A request of a master that awaits its grant (R387, R389). -/
structure MReq where
  master : Fin 16
  target : Fin 12
  addr : Nat
  op : MOp
  /-- LC since which it has been held back (R390, R394) -/
  since : Option Nat
deriving DecidableEq, Repr

/-- A granted request whose response has not returned: the data, or none for an error response. -/
structure MResp where
  master : Fin 16
  target : Fin 12
  addr : Nat
  isWrite : Bool
  data : Option (List Byte)
  /-- what it put in SRAM, where it is a write there: the bytes that it replaced (R393) -/
  old : List Byte
  /-- LC of the grant (R391) -/
  at_ : Nat
  /-- its master has been reset since: it is discarded when it returns (R393) -/
  dead : Bool
deriving DecidableEq, Repr

/-- The hidden state of the matrix. -/
structure MtxSt where
  reqs : List MReq
  resps : List MResp
  /-- per target, the master it is parked on (R388) -/
  parked : Vector (Fin 16) 12
  /-- per target, the last master of the high and of the low class that was served (R387) -/
  rrHigh : Vector (Fin 16) 12
  rrLow : Vector (Fin 16) 12
  /-- by target × 16 + master, the grants to others that a waiting low-class request has seen -/
  starve : Vector Nat 192
deriving DecidableEq, Repr

/-! ### Time-interval channels (R116 to R137) -/

/-- One interpolator (R122, R127 to R131). -/
structure Interp where
  /-- busy with a conversion up to this LC, and whether the conversion is one of a random edge on CAL (R122) -/
  busyTill : Nat
  calConv : Bool
  /-- histogram of committed hits by code, codes rising -/
  hist : List (Nat × Nat)
  total : Nat
  /-- a hit of the running tick period, not yet committed (R128) -/
  pend : Option Nat
  /-- rejections in a row (R131) -/
  rejects : Nat
  ready : Bool
  /-- a table built since the random source came back, and one built since the entry to REBUILD, was accepted (R126, R132) -/
  fresh : Bool
  rebuilt : Bool
deriving DecidableEq, Repr

/-- One channel (R116 to R135), beside its TIM registers. -/
structure TdcCh where
  ia : Interp
  ib : Interp
  /-- edges seen since the prescaler passed one, and edges since the divider selected one -/
  presCnt : Nat
  divCnt : Nat
  queue : List (List Byte)
  admitted : Nat
  lost : Nat
  config : Bool
  seq : Nat
  /-- a role exchange waits for the conversion to end; the tick at which the last one fell due (R122) -/
  swapDue : Bool
  swapTick : Nat
  /-- the running tick period is void for calibration (R122) -/
  voidTick : Option Nat
  /-- time-base state of the channel, as TB_STATE (R126) -/
  tb : Nat
deriving DecidableEq, Repr

/-- The hidden state of TIM. -/
structure TimSt where
  ch : Vector TdcCh 16
  /-- the channel whose queue the log's write port takes next (R121) -/
  turn : Nat
  /-- LC of the last rate check inside the limits, and whether the fault has lasted 60 s (R132) -/
  rngGood : Nat
  rngDegr : Bool
  /-- presence and frequency checks pass (R125) -/
  presOk : Bool
  freqOk : Bool
  /-- LC of the last check that failed (R126) -/
  failAt : Nat
deriving DecidableEq, Repr

/-! ### Keys, life cycle and debug (R433 to R452) -/

/-- One copy of a key slot (R434, R435). -/
structure SlotCopy where
  value : Digest
  attr : Word
  gen : BitVec 16
  tag : BitVec 128
deriving DecidableEq, Repr

/-- A key that a consumer holds, with its slot and the identifier it was derived for (R230, R438). -/
structure Delivered where
  key : Digest
  slot : Nat
  id : Word
deriving DecidableEq, Repr

/-- A rotation that is armed (R230): its slot, the identifier of the new key, who armed it, and its RT second. The key is loaded then (R490). -/
structure RotArm where
  slot : Fin 32
  id : Word
  req : Option Master
  at_ : Nat
deriving DecidableEq, Repr

/-- What SEC holds beside its registers: fuses, the key store, and buffers that read as 0. -/
structure SecSt where
  /-- the Kennel root secret (R433) -/
  rootSecret : Digest
  /-- the two copies of each slot; `none` was never written -/
  slotA : Vector (Option SlotCopy) 32
  slotB : Vector (Option SlotCopy) 32
  /-- seal-event fuses burned (R73) -/
  sealFuses : Nat
  /-- SEC_HOST_EXT as written (R440) -/
  extBuf : Digest
  /-- SEC_KUM_BUF as written (R441) -/
  kumBuf : BitVec 896
  /-- LCs of the KUMs that ended with AUTH within the last second, and the LC of the lock (R444) -/
  authAt : List Nat
  lockAt : Nat
  /-- key and slot that the mailbox verifier was delivered last (R438) -/
  verKey : Option Delivered
  /-- current and previous master key of the cookie unit, and the armed rotation (R230) -/
  cookieCur : Option Delivered
  cookiePrev : Option Delivered
  cookieNext : Option RotArm
  /-- the Pack key in the PCK CMAC unit (R327) -/
  pckKey : Option Delivered
  /-- the token timer runs: since this LC, for this many seconds (R448) -/
  dbgTimer : Bool
  dbgAt : Nat
  dbgFor : Nat
deriving DecidableEq, Repr


/-! ### Output synthesis (R304 to R323) -/

/-- A pending commit of a PLL: its instant T in RT and RELOCK (R309). -/
structure SynCommit where
  t : Nat
  relock : Bool
deriving DecidableEq, Repr

/-- One synthesis PLL, beside its SYN registers (R306, R309). -/
structure SynPll where
  commit : Option SynCommit
  /-- binary-search steps made since SEARCH was entered -/
  steps : Nat
  /-- times in a row that SETTLE went back to SEARCH -/
  retries : Nat
  /-- COMMIT_DONE is due at lock -/
  doneAtLock : Bool
  /-- RT of the last lock -/
  lockRt : Nat
  /-- LC of the entry into the present state, or of the last search step (R306) -/
  since : Nat
  /-- RT seconds of the band checks so far, the next one at the earliest (R322) -/
  checkSec : Nat
  /-- number of the record that the last phase check of OUT4k took (R315) -/
  phaseSeq : Nat
deriving DecidableEq, Repr

/-- One output, beside its SYN registers (R308, R317). -/
structure SynOut where
  /-- Heel origin G, RT in 2⁻⁴⁸ s, when the output has one -/
  heelG : Option Int
  /-- RT of the last valid Heel record -/
  heelLast : Nat
  /-- the last time-of-day message sent: bytes of a serial format, or the 100 symbols of an IRIG-B frame (R319) -/
  tod : List Byte
  /-- number of the record that Heel took last (R316) -/
  heelSeq : Nat
  /-- the pulse that the last time-of-day message described, in 2⁻⁴⁸ s of RT (R319) -/
  todFor : Option Int
deriving DecidableEq, Repr

/-- The hidden state of SYN. -/
structure SynSt where
  pll : Vector SynPll 4
  out : Vector SynOut 16
deriving DecidableEq, Repr


/-! ### Observability (R466 to R480) -/

/-- What OBS holds beside its registers. -/
structure ObsSt where
  /-- entries lost since the last one entered, of the snapshot, sampling and telemetry rings -/
  snapLost : Nat
  smpLost : Nat
  telLost : Nat
  /-- numbers of the next snapshot and telemetry record -/
  snapSeq : Nat
  telSeq : Nat
  /-- instant (RT, ms since the epoch) of the last periodic snapshot taken -/
  snapMs : Option Nat
  /-- samples of the running telemetry period: count, sums of the region temperatures, of the supplies, of VIN and VHOLD -/
  telN : Nat
  telTemp : List Int
  telVdd : List Nat
  telVin : Nat
  telVhold : Nat
  telTempMax : Int
  telVinMin : Nat
  /-- a limit of R474 was crossed in the period -/
  telLimit : Bool
  /-- per engine, the count of retired instructions at which the next is selected (R470) -/
  smpAt : Vector Nat 12
  /-- LC at which the scrub pass began, and whether it has been counted as late (R477) -/
  passAt : Nat
  passLate : Bool
  /-- LC of the line that was scrubbed last (R477) -/
  lineAt : Nat
deriving DecidableEq, Repr


/-! ### Clocks, regions and power (R395 to R418) -/

/-- What runs (R412): RUN, DOZE and BURY are told apart by PWR_STATE. -/
inductive Power where
  | on
  | deep
  | off
deriving DecidableEq, Repr

/-- What CLK and PWR hold beside their registers. They stand in AON. -/
structure PwrSt where
  power : Power
  /-- STRAP_KSPI_QUAD and STRAP_LANE_REV as the Cold reset sampled them (R501) -/
  kspiQuad : Bool
  laneRev : Bool
  /-- target of a root switch in progress (R401): 0 XTAL, 1 SYSPLL; and of the AON selector: 0 RC oscillator, 1 crystal -/
  rootSw : Option Nat
  aonSw : Option Nat
  /-- oscillators that have shown edges for the last 1 ms (R404) -/
  edges : BitVec 4
  /-- LC at which the ramp of SYSPLL out of its coast can begin (R399) -/
  rampFrom : Nat
  /-- units whose quiesce handshake runs, since an LC; the flag tells AON's own requests (R408, R414) -/
  quiesce : List (Nat × Bool × Nat)
  /-- units whose clocks restart (R410) -/
  ungating : List Nat
  /-- enabling writes that wait for a unit to be ungated: unit, address, value (R410) -/
  enables : List (Nat × Nat × Word)
  /-- units that AON gated by itself (R413) -/
  auto : List Nat
  /-- units whose automatic request ended in GATE_BUSY, and the LC of that (R414) -/
  retry : List (Nat × Nat)
  /-- LC since which the condition for gating GNSS, ADR and PCK holds, where it holds (R414) -/
  idleAt : Vector Nat 3
  /-- shared and client SRAM have been written with zeros since the reset (R481) -/
  sramClear : Bool
  /-- per crossing of R411 (codes 0 to 2, then PG0 to PG7) that is beyond its limits: LC of the newest check that was not within the limits
  that end REGION_SKEW (R171), and the causes, bit 0 temperature, 1 voltage, 2 clock ratio -/
  skew : Vector (Option (Nat × Nat)) 11
deriving DecidableEq, Repr

/-! ### Supply sag and the Bury save (R419 to R432) -/

/-- A save that runs (R425): its CAUSE, and the Bone once it has been captured. -/
structure Save where
  cause : Nat
  bone : Option Bone
deriving DecidableEq, Repr

/-- What the Bury sequencer and the Kennel retention store hold beside the AON registers. -/
structure AonSt where
  save : Option Save
  /-- causes of saves that wait for the running one -/
  next : List Nat
  /-- PWR_STATE that BURY was entered from (R413), and the LC of the sag -/
  from_ : Nat
  sagAt : Nat
  /-- LC of the last periodic save, or at which LC began (R424) -/
  periodAt : Nat
  /-- a DEEP request was accepted and its save has not committed (R415) -/
  deep : Bool
  /-- VIN reached VRST and the save has not committed (R428) -/
  vrst : Bool
  /-- the Bone body in the retention store (R422) -/
  body : Option BoneBody
  /-- the newest committed Bone, as the retention store keeps it (R429), and its KSPI slot, if it has one -/
  kept : Option Bone
  slot : Option Nat
  /-- erased slots ahead of the next slot to write (R424) -/
  erased : Nat
deriving DecidableEq, Repr

/-! ### The GNSS receiver (R138 to R160) -/

/-- Ephemeris received from a satellite: its issue of data and words, whether a tag has verified it, and the RT second of its reception
(R149, R153). -/
structure Orbit where
  sv : Nat
  iod : Nat
  words : List Byte
  auth : Bool
  heard : Nat
deriving DecidableEq, Repr

/-- A public key of OSNMA: its kind, 1 for P-256 and 3 for P-521, its number and its bytes (R153). -/
structure OsnmaPub where
  kind : Nat
  id : Nat
  key : List Byte
deriving DecidableEq, Repr

/-- A survey of the position (R156), mm. -/
structure Survey where
  start : Nat
  count : Nat
  x : Int
  y : Int
  z : Int
  unc : Nat
deriving DecidableEq, Repr

/-- What GNS and the Scout's firmware hold beside the GNS registers. -/
structure GnsSt where
  /-- the last millisecond strobe: RT millisecond since the epoch, and the CSET_VER it carried (R139) -/
  strobe : Option (Nat × Nat)
  /-- level of the GSI_EN ball (R145) -/
  gsiEn : Bool
  /-- RT millisecond of the first sample of the running or last burst, and the dumps made in it -/
  epoch : Nat
  dumps : Nat
  /-- number of the next capture (R151) and of the next record (R157) -/
  snapSeq : Nat
  recSeq : Nat
  /-- a host result that was taken (R152): RT millisecond of its first sample and the CSET versions around it -/
  result : Option (Nat × Nat × Nat)
  /-- solutions are withheld; seconds in a row in which checks 2 to 4 passed (R155) -/
  withheld : Bool
  passes : Nat
  /-- AGC_OUT at the last solution, and its RT second -/
  lastAgc : Nat
  agcSec : Nat
  /-- failures of OSNMA: satellite and RT second (R154) -/
  osnma : List (Nat × Nat)
  /-- RT second at which the running data session began, and at which the last one ended (R148) -/
  session : Option Nat
  lastSession : Nat
  /-- RT second of the last solution, whatever became of it -/
  solSec : Option Nat
  /-- RT second at which RX_STATE was entered, and since when fewer than SOL_MIN_SV satellites have been above CN0_MIN (R144) -/
  rxSec : Nat
  weakSince : Option Nat
  /-- a capture that runs: RT millisecond and CSET_VER of its first sample, and whether R141 has discarded it (R151) -/
  cap : Option (Nat × Nat × Bool)
  /-- received ephemeris (R149) -/
  orbits : List Orbit
  /-- the UTC parameters of a verified ADKD 4 tag: the 141 bits of its data (R157) -/
  utcPar : Option Nat
  /-- the accepted public key and chain of OSNMA, and a root that could not verify a renewal (R153, R154) -/
  pub : Option OsnmaPub
  tesla : Option Tesla
  lostRoot : Option (List Byte)
  /-- a survey: RT second of its start, position solutions, their sums and the bound at the last one (R156) -/
  survey : Option Survey
deriving DecidableEq, Repr


/-! ### Ports and timed launch (R161 to R205) -/

/-- One key of a duplicate window: source address and sequence number, and the LC at which it entered (R185). -/
structure PrpKey where
  src : Nat
  seq : Nat
  lc : Nat
deriving DecidableEq, Repr

/-- What a link holds beside its registers: an Ethernet port, or a Pack link (R162, R324). -/
structure PortSt where
  /-- LC at which the link entered its state, and RT at which it entered RECAL (R162, R175) -/
  since : Nat
  recalRt : Nat
  /-- LC at which the link came UP, but from a recalibration (R182) -/
  upLc : Nat
  /-- ENABLE and MODE in force (R163) -/
  enabled : Bool
  mode : Nat
  /-- the active mode before the last change of it, and the RT of that change in 2⁻⁴⁸ s (R238) -/
  modeWas : Nat
  modeAt : Nat
  /-- RECAL was entered from UP (R162) -/
  recalUp : Bool
  /-- s since the last recalibration began, and whether the one now due has been counted as deferred (R175, R176) -/
  recalWait : Nat
  deferred : Bool
  /-- the newest recalibration failed (R177) -/
  recalBad : Bool
  /-- the mode that a speed shift goes to, and the s since the last one began (R182) -/
  shiftTo : Option Nat
  shiftAge : Option Nat
  /-- a downshift failed since the last entry into UP from TRAINING; and UP is entered from TRAINING (R182) -/
  shiftBad : Bool
  fromTraining : Bool
  /-- the partner advertises a 10 Gb/s ability (R182) -/
  an10 : Bool
  /-- pause quanta of the last PAUSE frame and its LC; LC since which the transmitter has been paused without a break, and LC at which
  PAUSE frames began to be ignored (R181) -/
  quanta : Nat
  quantaAt : Nat
  pausedAt : Nat
  ignoreAt : Nat
  /-- recalibration terms and states of a Pack link, whose registers do not show them (R338) -/
  recalTerm : Int
  recalAge : Nat
  stale : Bool
  /-- the redundancy control trailer number of the next frame: per pair on an even port, per port on a Brace port (R184, R341) -/
  rctSeq : Nat
  /-- number of the next supervision frame (R184) -/
  supSeq : Nat
  /-- LC of the last supervision frame (R184) -/
  supAt : Option Nat
deriving DecidableEq, Repr

/-- What a port group, or PCK as group 8, holds beside its registers (R170): XCOMP in 1/2,560 ps, and measurements since the
reset, counted to 17. -/
structure GroupSt where
  xcomp : Int
  meas : Nat
deriving DecidableEq, Repr

/-- A frame that waits in a launch queue: an accepted descriptor (R189, R190), or a supervision frame (R184) with its bytes. -/
structure LEntry where
  l : Nat
  window : Nat
  addr : Nat
  len : Nat
  kind : Nat
  fixed : Bool
  report : Bool
  cksum : Bool
  ins : Nat
  cf : Nat
  ck : Nat
  tag : Nat
  tref : Nat
  /-- the submitter's report ring (R203) -/
  ring : Nat
  /-- LC of acceptance, and of readiness (R194) -/
  at_ : Nat
  ready : Option Nat
  /-- the redundancy control trailer number (R184) -/
  rct : Option Nat
deriving DecidableEq, Repr

/-- A frame on the wire of a port: its bytes without FCS, its entry unless it came from the Pack slot, its transmit timestamp, and
what its report will carry (R194, R201). -/
structure OnWire where
  bytes : List Byte
  entry : Option LEntry
  a : Nat
  ver : Nat
  sn : Bool
  degraded : Bool
  status : Nat
  err : Int
deriving DecidableEq, Repr

/-- A report in a port queue: its ring and its 32 bytes (R201, R202). -/
structure LReport where
  ring : Nat
  bytes : List Byte
deriving DecidableEq, Repr

/-- A frame in the Pack slot of a port (R325): without its trailer, the number of the trailer that it carries on both ports of a PRP pair, and
whether it was put there for this port, whose timestamp PCK takes (R184). -/
structure PackFrame where
  bytes : List Byte
  rct : Option Nat
  own : Bool
deriving DecidableEq, Repr

/-- The queues of a port (R190, R202, R325). -/
structure LchPort where
  timed : List LEntry
  imm : List LEntry
  reports : List LReport
  wire : Option OnWire
  /-- LC from which a frame may start, once the port is UP, not paused and its wire is free (R193, R194) -/
  from_ : Nat
  /-- RT of the cycle boundary since which the active mask is in force; 0 once a step order has moved RT (R192, R196) -/
  maskRt : Nat
  /-- the Pack slot: a frame of PCK (R325) -/
  pack : Option PackFrame
  /-- a PRP supervision frame that waits, with its trailer number (R184) -/
  sup : Option (List Byte × Nat)
  /-- a Pack frame that has left, with its transmit timestamp in RT and DEGRADED, until PCK takes the timestamp -/
  packTs : Option (List Byte × Nat × Bool)
  /-- the mover has been stopped at the head of the report queue, and this is counted (R203) -/
  held : Bool
deriving DecidableEq, Repr

/-- The hidden state of PRT and LCH. -/
structure PrtSt where
  /-- Pack links 0 to 3, then ports P0 to P63, numbered as attachments (R324) -/
  link : Vector PortSt 68
  group : Vector GroupSt 9
  port : Vector LchPort 64
  /-- duplicate window of each pair, by hash slot (R185) -/
  prp : Vector (List (Nat × PrpKey)) 32
  /-- RT millisecond of the last schedule-cycle boundary (R191) -/
  cycle : Nat
deriving DecidableEq, Repr

/-! ### Host interface (R362 to R384) -/

/-- What HST holds beside its registers (R363, R366). -/
structure HstSt where
  /-- words of the MSI-X tables, by vector number × 16 + offset: PF0 has vectors 0 to 31, PF1 32 to 47, PF2 48 to 55, PF3 56 to 63 -/
  msix : List (Nat × Word)
  pba : BitVec 64
  /-- messages that may go, oldest first -/
  msgs : List (Fin 64)
  /-- LC of each vector's last message -/
  last : Vector (Option Nat) 64
  /-- Device Control of each function's configuration space: [4] Enable Relaxed Ordering, [7:5] Max_Payload_Size, [14:12] Max_Read_Request_Size
  (R362, R369; log entry 103) -/
  devCtl : Vector (BitVec 16) 4
deriving DecidableEq, Repr


/-! ### Serving (R206 to R236) -/

/-- A key context of an AEAD unit (R227): C2S and S2C of one request, and the LC at which it was filled. -/
structure KeyCtx where
  unit : Nat
  num : Nat
  c2s : List Byte
  s2c : List Byte
  at_ : Nat
deriving DecidableEq, Repr

/-- A received frame that awaits the check of R226, or waits behind one of its steering index (R211). -/
structure RxWait where
  port : Fin 64
  meta_ : List Byte
  buf : Nat
  len : Nat
  hdr : Nat
  look : Nat
  index : Nat
  steer : Nat
  /-- the engine Sk that the steering table named when the lookup completed (R212) -/
  eng : Nat
  nts : Bool
deriving DecidableEq, Repr

/-- A two-step message whose report is awaited (R218): Sync or Pdelay_Resp, with what its follow-up copies. -/
structure TwoStep where
  port : Fin 64
  tag : Nat
  /-- TAG repeats, so the follow-up belongs to the first that waits -/
  pdelay : Bool
  /-- the frame's bytes up to the PTP header -/
  hdr : List Byte
  /-- flags of the unicast bit, domain, sequenceId, correctionField and, of a Pdelay_Resp, the requester -/
  unicast : Bool
  domain : Nat
  seqId : Nat
  cf : Nat
  requester : List Byte
  logInt : Nat
  signed : Bool
deriving DecidableEq, Repr

/-- The replacement of a serving engine Sk (R275): k, the steering entries that were its own, the rates that the others took over, and how
far it is: 1 moved away, 2 stopped, 3 started again. -/
structure Replace where
  k : Fin 8
  mine : List Nat
  moved : List Nat
  phase : Nat
  /-- ENG_HB when the engine was started again -/
  hb : Nat
deriving DecidableEq, Repr

/-- A master that an upstream session hears (IEEE 1588-2019 clause 9.3; R223): its portIdentity, the address that it sends from, the 16 bytes of
its Announce from grandmasterPriority1 to stepsRemoved, its Announce interval as a logarithm, and the LC of its newest Announce and of the one
before. -/
structure UpMaster where
  id : List Byte
  addr : List Byte
  ds : List Byte
  log : Int
  at_ : Nat
  prev : Option Nat
deriving DecidableEq, Repr

/-- A Sync that a session has received (R223): its master, sequenceId, t2 with its version, t1 once known, the correction so far in 2⁻⁴⁸ s, its
interval as a logarithm, the master's Leash, and what held of its messages. -/
structure UpSync where
  id : List Byte
  seq : Nat
  t2 : Nat
  ver : Nat
  t1 : Option Nat
  c : Int
  log : Int
  leash : Option Nat
  auth : Bool
  degraded : Bool
  twoStep : Bool
deriving DecidableEq, Repr

/-- A Delay_Req of a session (R223): its sequenceId and TAG, t3 and t4 − c_dresp once known, and what held of it. -/
structure UpDelay where
  seq : Nat
  tag : Nat
  t3 : Option Nat
  t4 : Option Int
  auth : Bool
  degraded : Bool
deriving DecidableEq, Repr

/-- An upstream session (R223): the masters it hears, the Sync that awaits its exchange, its newest Delay_Req, the newest t4 − t3 − c_dresp with AUTH
and DEGRADED, the interval that it has asked for, and the numbers of its next Delay_Req, Signaling message and record. -/
structure UpSess where
  masters : List UpMaster
  sync : Option UpSync
  req : Option UpDelay
  delay : Option (Int × Bool × Bool)
  askLog : Int
  reqSeq : Nat
  sigSeq : Nat
  recSeq : Nat
deriving DecidableEq, Repr

/-- What SRV and the serving firmware hold beside the registers and the client table. -/
structure SrvSt where
  /-- the hash key of the lookup assist (R210) -/
  hashKey : List Byte
  /-- free buffers of the receive pool (R209) -/
  free : List Nat
  wait : List RxWait
  /-- LC of the last sweep of each serving engine (R215) -/
  sweepAt : Vector (Option Nat) 8
  /-- a host operation at the lookup assist, and how many engine jobs arrived before it (R214) -/
  hostOp : Option (Nat × Nat)
  /-- association keys in force, by SPP × 2 + half (R221) -/
  saKey : List (Nat × List Byte)
  ctx : List KeyCtx
  /-- COUNT of the host mint that runs, and the master key that was current when it began (R230, R231) -/
  mint : Nat
  mintKey : Option Delivered
  /-- records whose grants the owning engine is to cancel, and whether the record is then freed (R217) -/
  cancel : List (Nat × Bool)
  up : Vector UpSess 8
  /-- sequenceId of the next Sync and Announce of each port (R218), and the two-step Syncs sent -/
  syncSeq : Vector Nat 64
  annSeq : Vector Nat 64
  sent : List TwoStep
  /-- rate that each serving engine has committed, in 1/128 per s; SRV_GRANT_SHARE shows whole ones (R217) -/
  share : Vector Nat 8
  /-- RT second that closed the newest second with SERVO LOCKED (R224) -/
  lockedSec : Nat
  /-- a serving engine that is being replaced (R275) -/
  repl : Option Replace
deriving DecidableEq, Repr


/-! ### Pack and Brace (R324 to R349) -/

/-- A Pack frame that PCK has taken after the checks of R326 and R327: its fields, and its receive timestamp in RT when it has one. -/
structure PackRx where
  att : Fin 68
  typ : Nat
  src : Nat
  seq : Nat
  payload : List Byte
  ts : Option Nat
  ver : Nat
  degraded : Bool
  /-- its CMAC verified -/
  auth : Bool
deriving DecidableEq, Repr

/-- An exchange of the requester (R335, R336): its SEQ, the timestamps it has, and what its frames showed. -/
structure Exch where
  seq : Nat
  /-- LC of its start -/
  start : Nat
  t1 : Option Nat
  t2 : Option Nat
  t4 : Option Nat
  ver : Nat
  /-- LC of t4 -/
  at_ : Option Nat
  degraded : Bool
  auth : Bool
deriving DecidableEq, Repr

/-- The result of the newest complete exchange of an attachment (R336). -/
structure ExRec where
  t4 : Nat
  ofs : Int
  mpd : Int
  leash : Nat
  cls : Nat
  ver : Nat
  auth : Bool
  degraded : Bool
deriving DecidableEq, Repr

/-- What PCK holds of an attachment beside its registers (R330 to R336). -/
structure AttSt where
  /-- ROLLs received in consecutive seconds; LC and RT second of the newest -/
  rolls : Nat
  rollLc : Nat
  rollSec : Nat
  /-- LC at which HOLDOFF was entered -/
  since : Nat
  /-- GM_PRIO, GM_CLASS, UPLINK, CLOCK_ID and LEASH_PS of the partner's ROLL -/
  gmPrio : Nat
  gmClass : Nat
  uplink : Nat
  clockId : List Byte
  leash : Nat
  /-- LC at which GM_SEQ increased last -/
  seqLc : Option Nat
  /-- T_REQs unanswered in a row -/
  unanswered : Nat
  /-- SEQ of the next frame, by TYPE -/
  txSeq : Vector Nat 5
  /-- LC since which it has ranked better than the uplink under keys 1 to 3 (R333) -/
  better : Option Nat
  /-- LC at which the last exchange started (R335) -/
  exLc : Option Nat
  ex : Option Exch
  /-- SEQ of a T_RESP whose transmit timestamp is awaited, and whether its t2 was degraded -/
  reply : Option (Nat × Bool)
  /-- frames that a Pack link has been given, oldest first, whose SFD has not been reported -/
  out : List (List Byte)
  rec_ : Option ExRec
deriving DecidableEq, Repr

/-- What PCK holds beside its registers and attachments. -/
structure PckSt where
  att : Vector AttSt 68
  /-- frames of Ethernet attachments that wait (R325) -/
  rx : List PackRx
  /-- LC at which the withholding of R334 ends -/
  withhold : Option Nat
  /-- RT second of the last fault PCK_AUTH_FAIL (R327) -/
  authSec : Option Nat
  /-- RT second of the last roll call (R329) -/
  rollSec : Option Nat
  recSeq : Nat
deriving DecidableEq, Repr

/-- The partner's newest BRACE frame, and the LC of it (R340). -/
structure BraceFrame where
  side : Nat
  role : Nat
  flags : Nat
  swapAt : Nat
  verdict : Nat
  state : Nat
  at_ : Nat
deriving DecidableEq, Repr

/-- What BRC holds beside its registers (R340 to R347). -/
structure BrcSt where
  frame : Option BraceFrame
  /-- offsets measured on the Brace attachment in the running RT second -/
  ofs : List Int
  /-- seconds in a row above, and at most, BRACE_TOL -/
  above : Nat
  under : Nat
  /-- RT second that this device proposes; that it echoes; at which it swaps -/
  propose : Option Nat
  echo : Option Nat
  swapAt : Option Nat
  /-- seconds in a row in which its verdict was not FAULTY -/
  calm : Nat
  /-- the roll-call second of the last regular BRACE frame, and what the last frame of all said of MUTED, VERDICT, PAIR_STATE, role, proposal
  and echo (R340) -/
  sendSec : Option Nat
  said : List Nat
  recSeq : Nat
deriving DecidableEq, Repr


/-! ### AES3 ports (R350 to R361) -/

/-- What ADR holds of a port beside its registers. -/
structure AdrPort where
  /-- ENABLE, DIR (input) and FS in force since the last block boundary (R350) -/
  on : Bool
  input : Bool
  fs : Nat
  /-- the line is held without transitions: the clock output is not aligned (R352) -/
  lost : Bool
  /-- the gain g as a fraction (R354) -/
  gNum : Nat
  gDen : Nat
  /-- the last frame played: samples of subframes A and B (R354) -/
  last : Int × Int
  /-- the ring ran dry and has not filled to START_LEVEL since (R354) -/
  dry : Bool
  /-- number of the frame of the last start trigger, which local sample address codes count from; none before the first (R357) -/
  origin : Option Nat
  /-- the accumulator of R360 -/
  acc : Int
  /-- user bits of the block being sent, A then B (R356) -/
  user : List Byte
  /-- the frame sent last: its number, whether it began a block, and its two subframes as PACK 1 lays them out (R359) -/
  sent : Option (Nat × Bool × Nat × Nat)
  /-- input: blocks in a row that were correct, and whether the running one is so far (R358) -/
  good : Nat
  clean : Bool
  /-- frames of the running block, with its channel-status bits of A and B so far -/
  frames : Nat
  csA : Nat
  csB : Nat
  /-- frames in a row without a preamble -/
  missing : Nat
  /-- LC of the start of the running block; RT second of the last record (R358) -/
  startLc : Option Time
  recSec : Option Nat
  /-- the frame at which the block being sent began (R356) -/
  block : Option Nat
  /-- first and last block start of the running second, frames between them, frames since the last, and CODE_ERR (R358) -/
  first : Option Time
  lastLc : Time
  count : Nat
  since : Nat
  codeErr : Bool
  /-- number of the next record -/
  seq : Nat
deriving DecidableEq, Repr

/-- The hidden state of ADR: its ports, and the start that is armed: AT, START_MS and PORTS (R355). -/
structure AdrSt where
  port : Vector AdrPort 4
  armed : Option (Nat × Nat × Nat)
deriving DecidableEq, Repr

/-! ### Fetch channels (R371 to R381) -/

/-- A descriptor in progress: its host address, its bytes, the bytes moved so far and their running CRC (R373, R376). -/
structure FchWork where
  addr : Nat
  desc : List Byte
  moved : Nat
  crc : Nat
deriving DecidableEq, Repr

/-- What a channel holds beside its registers. -/
structure FchCh where
  /-- heads of the chains that are queued, oldest first -/
  chains : List Nat
  /-- address of the descriptor whose read is outstanding -/
  fetch : Option Nat
  work : Option FchWork
  /-- descriptors read in the running chain, and completed -/
  hops : Nat
  done : Nat
  /-- TAG of the last descriptor of the running chain -/
  tag : Nat
  /-- the status that the work in progress ends with once the reads issued for it have completed (R379, R380) -/
  stop : Option Nat
  /-- LC of the read request that awaits its completion (R379) -/
  readLc : Nat
deriving DecidableEq, Repr

/-- A write that leaves for host memory: address, bytes, Relaxed Ordering and No Snoop (R368, R369). -/
structure HostTlp where
  addr : Nat
  bytes : List Byte
  ro : Bool
  ns : Bool
deriving DecidableEq, Repr

/-- The hidden state of FCH: its channels, and the last write that left for host memory. -/
structure FchSt where
  ch : Vector FchCh 16
  tlp : Option HostTlp
deriving DecidableEq, Repr

/-- The answer a bus access got last: what a read returned, or an error response. The model's own field. -/
inductive Answer where
  | none
  | data (w : Word)
  | bytes (bs : List Byte)
  | error
deriving DecidableEq, Repr

/-- The whole machine. -/
structure State where
  /-- register words by BAR0 address, addresses rising; an unlisted word has its Cold reset value -/
  regs : List (Nat × Word)
  /-- bytes of shared SRAM, client SRAM and the engine memories by matrix address, addresses rising; an unlisted
  byte is 0 (R481) -/
  mem : List Host.Cell
  /-- matrix addresses of the 4-byte words of these memories that hold an uncorrectable error, rising (R454, R478; log
  entry 21) -/
  bad : List Nat
  /-- matrix addresses of the 4-byte words that hold an error that ECC corrects when they are read (R253, R454, R478; log entry 21) -/
  soft : List Nat
  /-- commands that wait, first in, first out -/
  pending : List Instr
  /-- draw number of the next free value (the model's own field) -/
  draw : Nat
  answer : Answer
  /-- copies latched by reads of lowest words: per reader, the word's address and value (R9, R364) -/
  latch : List (Nat × Nat × Word)
  /-- lower words of multi-word writes, held until the highest is written (R9) -/
  holdw : List (Nat × Word)
  time : TimeSt
  knl : KnlSt
  kspi : Kspi
  flt : FltSt
  refs : RefsSt
  lsh : LshSt
  tim : TimSt
  eng : Vector Engine 12
  mtx : MtxSt
  /-- jobs at the accelerator units, oldest first -/
  jobs : List UJob
  sec : SecSt
  syn : SynSt
  obsv : ObsSt
  pwr : PwrSt
  aon : AonSt
  gns : GnsSt
  prt : PrtSt
  hst : HstSt
  srv : SrvSt
  pck : PckSt
  brc : BrcSt
  adr : AdrSt
  fch : FchSt
deriving DecidableEq, Repr

/-- Why a command stops the model. No meaning raises it: every command of the table has an effect (safe). -/
inductive Fault where
  /-- no meaning raises this -/
  | noFault
deriving DecidableEq, Repr

/-- Why a command has no meaning. -/
inductive Refusal where
  /-- a command that the model does not cover yet, by its mnemonic in the table; raised by Machine/Dispatch.lean only (safe) -/
  | notModelled (mnemonic : String)
deriving DecidableEq, Repr

/-- The time model after reset: LC stands still until KPLL locks (R31). -/
def TimeSt.reset : TimeSt :=
  { running := false, lc := 0, frac := 0, sn := 0, cad := 0, tick := 0, prevSec := 0, lastSecond := 0,
    cset := ⟨0, 0, 0⟩, copyA := ⟨0, 0, 0⟩, copyB := ⟨0, 0, 0⟩, copyABad := false, copyBBad := false, hist := [],
    fw := none, steps := [], freeze := none, armed := none, snLoad := none, slew := none, lastFw := none,
    leaveTest := false, utcGnss := none, utcHost := none, utcOverride := false, leap := none,
    ptpLeap := 0, ntpLeap := 0, readerDegr := [], replicas := Vector.replicate 11 ⟨0, 0⟩ }

/-- A parameter bank as shipped: factory words, generation 1, the shipped image admitted (R1, R69). -/
def PBank.factory : PBank := { words := [], base := none, gen := 1, meas := none, image := none }

/-- KSPI as shipped (R1, R71). -/
def Kspi.factory : Kspi :=
  { fwPtr := false, paramPtr := false, ack := 0, fwBank := Vector.replicate 2 ⟨none⟩, paramBank := Vector.replicate 2 PBank.factory, staging := [], staged := [],
    ledger := [], hourly := [], events := [], hourlyCut := 0, eventCut := 0, bones := [], boneNext := 0 }

/-- The K-pair after reset: nothing compared yet. -/
def KPair.reset : KPair :=
  { second := none, openAt := 0, settled := false, d0 := none, d1 := none, first0 := none, first1 := none, recomputing := false, rerun := false, held := false,
    heldUpd := [], ckpt := Vector.replicate 2 none, newest := 0, restore := none, kat := false, trial := none,
    trialEnd := 0, trialFailed := false, trialMism := 0, trialCounter := 0, trialChange := [], resumeFrom := none, stepped := false, jumped := false }

/-- The Kennel after reset, before it has booted (R60). -/
def KnlSt.reset : KnlSt :=
  { work := [], workBase := none, oldWork := [], oldBase := none, switchSec := 0, owner := Vector.replicate 4 none, mbAt := Vector.replicate 4 0, order := [], authAt := [], lockAt := 0, prevDig := 0, booted := false, bootAt := 0,
    sealPend := false, pair := KPair.reset, inlet := [], kin := [], kinPrev := [], faultRec := [], attKey := 0,
    guardFail := false }

/-- FLT and Guard after reset; a Cold reset releases BARK_N (R458). -/
def FltSt.reset : FltSt := { bark := false, barkHold := false, blockDone := [], misses := [], barkAt := 0, hbAt := 0, guardAt := 0, guardFrom := 0 }

/-- A reference before its first edge. -/
def RefSt.reset : RefSt :=
  { samples := [], lastEdge := 0, lastOn := none, outside := none, verdict := 0, secGlitch := 0, rateRun := false, counting := false, ys := [],
    whole := false, clean := false, lost := false, period := 2 ^ 48, refPs := 0, pathPs := 0, measPs := 0, upClass := 6, degr := false, offset := 0, lastRt := 0 }

/-- An oscillator before its first edge. -/
def OscSt.reset : OscSt :=
  { samples := [], edges := 0, pred := 0, since := 0, lastEdge := 0, memberFor := 0, tempAt := 0, stale := false, a := 0, d6 := 0, w0 := 0, temp0 := 0,
    tint := 0, tintFull := 0, tintAt := 0, recent := [] }

/-- References after reset. -/
def RefsSt.reset : RefsSt :=
  { refs := Vector.replicate 23 RefSt.reset, osc := Vector.replicate 5 OscSt.reset, ensYGiven := false,
    ensYFromRef := false, everLocked := false, lockRun := 0, servoDone := false, pairs := [], tLast := 0, everQual := false, boneSrc := none, used := 0, learn := [], ensy := [] }

/-- The Leash after reset: UNBOUNDED (R239). -/
def LshSt.reset : LshSt :=
  { next := none, cur := ⟨0, 0, 0, 0, 0⟩, carry := none, due := none, lLast := 2 ^ 48 - 1, lEntry := 2 ^ 48 - 1, lCkpt := 2 ^ 48 - 1,
    ensYEntry := 0, tEntry := 0, tCkpt := 0, late := 0, tdcDegr := false, tdcDegrPrev := false }

/-- An interpolator that never had a table (R131). -/
def Interp.reset : Interp :=
  { busyTill := 0, calConv := false, hist := [], total := 0, pend := none, rejects := 0, ready := false, fresh := false, rebuilt := false }

/-- A time-interval channel after reset. -/
def TdcCh.reset : TdcCh :=
  { ia := Interp.reset, ib := Interp.reset, presCnt := 0, divCnt := 0, queue := [], admitted := 0, lost := 0,
    config := false, seq := 0, swapDue := false, swapTick := 0, voidTick := none, tb := 1 }

/-- TIM after reset: the time base is ABSENT (R137). -/
def TimSt.reset : TimSt :=
  { ch := Vector.replicate 16 TdcCh.reset, turn := 0, rngGood := 0, rngDegr := false, presOk := false, freqOk := false, failAt := 0 }

/-- An engine after a Block reset (R255, R260). -/
def Engine.reset : Engine :=
  { g := Vector.replicate 32 0, v := Vector.replicate 8 0, flags := ⟨false, false, false, false, false, false, false⟩,
    pc := 0, tickets := [], lastTicket := 15, wbuf := [], unacked := 0, held := none, waiting := none, events := 0,
    nmi := false, storeErr := none, image := none, stopping := false, wdogOn := false, wdogAt := 0, wdogDue := false, rom := false, heldAt := 0, waitAt := 0, waitAcc := 0, stopAt := 0, last := ⟨0, 0, 0, false, none⟩
    loaded := none }

/-- The matrix after reset. -/
def MtxSt.reset : MtxSt :=
  { reqs := [], resps := [], parked := Vector.replicate 12 0, rrHigh := Vector.replicate 12 0, rrLow := Vector.replicate 12 0, starve := Vector.replicate 192 0 }

/-- The key store as shipped: no slot ever written (R433). -/
def SecSt.factory : SecSt :=
  { rootSecret := 0, slotA := Vector.replicate 32 none, slotB := Vector.replicate 32 none, sealFuses := 0,
    extBuf := 0, kumBuf := 0, authAt := [], lockAt := 0, verKey := none, cookieCur := none, cookiePrev := none, cookieNext := none,
    pckKey := none, dbgTimer := false, dbgAt := 0, dbgFor := 0 }

/-- SYN after reset: every PLL OFF (R323). -/
def SynSt.reset : SynSt :=
  { pll := Vector.replicate 4 { commit := none, steps := 0, retries := 0, doneAtLock := false, lockRt := 0, since := 0, checkSec := 0, phaseSeq := 0 }
    out := Vector.replicate 16 { heelG := none, heelLast := 0, tod := [], heelSeq := 0, todFor := none } }

/-- OBS after reset. -/
def ObsSt.reset : ObsSt :=
  { snapLost := 0, smpLost := 0, telLost := 0, snapSeq := 0, telSeq := 0, snapMs := none, telN := 0, telTemp := List.replicate 13 0
    telVdd := List.replicate 13 0, telVin := 0, telVhold := 0, telTempMax := -32768, telVinMin := 65535, telLimit := false
    smpAt := Vector.replicate 12 0, passAt := 0, passLate := false, lineAt := 0 }

/-- PWR after a Cold reset. -/
def PwrSt.reset : PwrSt :=
  { power := .on, kspiQuad := false, laneRev := false, rootSw := none, aonSw := none, edges := 0, rampFrom := 0, quiesce := [], ungating := [], enables := [], auto := [], retry := []
    idleAt := Vector.replicate 3 0, sramClear := false, skew := Vector.replicate 11 none }

/-- AON after a Cold reset: no save, nothing kept; a KSPI as shipped has every slot erased (R424). -/
def AonSt.reset : AonSt :=
  { save := none, next := [], from_ := 0, sagAt := 0, periodAt := 0, deep := false, vrst := false, body := none, kept := none, slot := none, erased := 14336 }

/-- GNS after reset. -/
def GnsSt.reset : GnsSt :=
  { strobe := none, gsiEn := false, epoch := 0, dumps := 0, snapSeq := 0, recSeq := 0, result := none, withheld := false, passes := 0
    lastAgc := 512, agcSec := 0, osnma := [], session := none, lastSession := 0, solSec := none, rxSec := 0, weakSince := none, cap := none
    orbits := [], utcPar := none, pub := none, tesla := none, lostRoot := none, survey := none }

/-- A link after reset: disabled, MODE at its reset value. -/
def PortSt.reset (mode : Nat) : PortSt :=
  { since := 0, recalRt := 0, upLc := 0, enabled := false, mode := mode, modeWas := mode, modeAt := 0, recalUp := false, recalWait := 0, deferred := false, recalBad := false, shiftTo := none, shiftAge := none,
    shiftBad := false, fromTraining := false, an10 := false, quanta := 0, quantaAt := 0, pausedAt := 0, ignoreAt := 0, recalTerm := 0, recalAge := 0, stale := false, rctSeq := 0, supSeq := 0, supAt := none }

/-- The links after reset: Pack links run MODE 2, ports MODE 3 (R187, R324). -/
def linkReset (i : Nat) : PortSt := PortSt.reset (if i < 4 then 2 else 3)

/-- A port's launch queues after reset. -/
def LchPort.reset : LchPort := { timed := [], imm := [], reports := [], wire := none, from_ := 0, maskRt := 0, pack := none, sup := none, packTs := none, held := false }

/-- PRT and LCH after reset. -/
def PrtSt.reset : PrtSt :=
  { link := Vector.ofFn fun i => linkReset i.val, group := Vector.replicate 9 ⟨0, 0⟩, port := Vector.replicate 64 LchPort.reset
    prp := Vector.replicate 32 [], cycle := 0 }

/-- HST after reset: every vector masked. -/
def HstSt.reset : HstSt := { msix := [], pba := 0, msgs := [], last := Vector.replicate 64 none, devCtl := Vector.replicate 4 0x2810 }

/-- An upstream session that has heard nothing. -/
def UpSess.reset : UpSess := { masters := [], sync := none, req := none, delay := none, askLog := 0, reqSeq := 0, sigSeq := 0, recSeq := 0 }

/-- SRV after reset: no pool, key or context. The hash key is drawn afresh at each reset (R210). -/
def SrvSt.reset (draw : Nat) : SrvSt :=
  { hashKey := Config.randomBytes draw 16, free := [], wait := [], sweepAt := Vector.replicate 8 none, hostOp := none, saKey := [], ctx := [], mint := 0, mintKey := none, cancel := []
    up := Vector.replicate 8 UpSess.reset, syncSeq := Vector.replicate 64 0, annSeq := Vector.replicate 64 0, sent := [], share := Vector.replicate 8 0, lockedSec := 0, repl := none }


/-- An attachment after reset: no partner. -/
def AttSt.reset : AttSt :=
  { rolls := 0, rollLc := 0, rollSec := 0, since := 0, gmPrio := 0, gmClass := 248, uplink := 0xFFFF, clockId := [], leash := 0
    seqLc := none, unanswered := 0, txSeq := Vector.replicate 5 0, better := none, exLc := none, ex := none, reply := none, out := [], rec_ := none }

/-- PCK after reset. -/
def PckSt.reset : PckSt := { att := Vector.replicate 68 AttSt.reset, rx := [], withhold := none, authSec := none, rollSec := none, recSeq := 0 }

/-- BRC after reset. -/
def BrcSt.reset : BrcSt := { frame := none, ofs := [], above := 0, under := 0, propose := none, echo := none, swapAt := none, calm := 0, sendSec := none, said := [], recSeq := 0 }

/-- A port of ADR after reset: an idle output at 48,000 frames per second, its gain 0. -/
def AdrPort.reset : AdrPort :=
  { on := false, input := false, fs := 2, lost := false, gNum := 0, gDen := 1, last := (0, 0), dry := false, origin := none, acc := 0
    user := List.replicate 48 0, sent := none, good := 0, clean := false, frames := 0, csA := 0, csB := 0, missing := 0, startLc := none, recSec := none, block := none, first := none, lastLc := 0
    count := 0, since := 0, codeErr := false, seq := 0 }

/-- ADR after reset. -/
def AdrSt.reset : AdrSt := { port := Vector.replicate 4 AdrPort.reset, armed := none }

/-- A Fetch channel after reset: no chain. -/
def FchCh.reset : FchCh := { chains := [], fetch := none, work := none, hops := 0, done := 0, tag := 0, stop := none, readLc := 0 }

/-- FCH after reset. -/
def FchSt.reset : FchSt := { ch := Vector.replicate 16 FchCh.reset, tlp := none }

/-- The block right after a Cold reset (R12, R13): every register at its reset entry, memory with nothing listed, no
command waiting. -/
def State.reset : State :=
  { regs := [], mem := [], bad := [], soft := [], pending := [], draw := 1, answer := .none, latch := [], holdw := [],
    time := TimeSt.reset, knl := KnlSt.reset, kspi := Kspi.factory, flt := FltSt.reset, refs := RefsSt.reset,
    lsh := LshSt.reset, tim := TimSt.reset, eng := Vector.replicate 12 Engine.reset, mtx := MtxSt.reset, jobs := [],
    sec := SecSt.factory, syn := SynSt.reset, obsv := ObsSt.reset, pwr := PwrSt.reset
    aon := AonSt.reset, gns := GnsSt.reset, prt := PrtSt.reset, hst := HstSt.reset, srv := SrvSt.reset 0
    pck := PckSt.reset, brc := BrcSt.reset, adr := AdrSt.reset, fch := FchSt.reset }

end Sys2Proof.Machine
end

