-- ==== Sys2Proof/Machine/Ops.lean ====
section
/-! DEFINITION. The named operations over registers, sealed store and memory that every family uses. -/

namespace Sys2Proof.Machine

/-! ### Sparse maps in canonical form -/

/-- The value listed at a key. -/
def sget {α : Type} : List (Nat × α) → Nat → Option α
  | [], _ => none
  | (k, v) :: t, x => if k = x then some v else sget t x

/-- The map with nothing listed at a key. -/
def sdel {α : Type} (x : Nat) (l : List (Nat × α)) : List (Nat × α) := l.filter fun c => c.1 != x

/-- The map with key `x` at `v`; `drop` says that `v` is what an unlisted key reads as, and removes the entry. -/
def sput {α : Type} (drop : Bool) (x : Nat) (v : α) : List (Nat × α) → List (Nat × α)
  | [] => if drop then [] else [(x, v)]
  | (k, w) :: t =>
    if x < k then (if drop then (k, w) :: sdel x t else (x, v) :: (k, w) :: t)
    else if x = k then (if drop then sdel x t else (x, v) :: t)
    else (k, w) :: sput drop x v t

/-- Canonical form: keys strictly rising, no entry equal to what an unlisted key reads as. -/
def swf {α : Type} (isDflt : Nat → α → Bool) : List (Nat × α) → Bool
  | [] => true
  | [(k, v)] => !isDflt k v
  | (k, v) :: (k', v') :: t => !isDflt k v && decide (k < k') && swf isDflt ((k', v') :: t)

/-! ### Register words -/

/-- The byte address of instance `i` of a field. -/
def Fld.at (f : Fld) (i : Nat) : Nat := f.addr + f.stride * i

/-- How many words a field spans. -/
def Fld.words (f : Fld) : Nat := (f.lsb + f.width + 31) / 32

/-- Whether a row covers the word at `a`, and as which word of the field (R9). -/
def RegRow.wordAt (r : RegRow) (a : Nat) : Option Nat :=
  if a < r.fld.addr then none
  else
    let d := a - r.fld.addr
    let i := if r.fld.stride = 0 then 0 else d / r.fld.stride
    let o := d - i * r.fld.stride
    if i < r.inst && o < 4 * r.fld.words && o % 4 = 0 then some (o / 4) else none

/-- The mask, within word `k` of a field, of the field's bits. -/
def Fld.mask (f : Fld) (k : Nat) : Nat :=
  bits ((2 ^ f.width - 1) * 2 ^ f.lsb) (32 * k) 32

/-- The part of a whole-field value that stands in word `k` of the field. -/
def Fld.part (f : Fld) (v k : Nat) : Nat := bits (v * 2 ^ f.lsb) (32 * k) 32

/-- The words behind code 383 of each calibration table, which are unassigned though they lie between assigned ones (R137). -/
def timGap (a : Nat) : Bool := decide (0x1210000 ≤ a) && decide (a < 0x1220000) && decide (0x600 ≤ a % 0x800)

/-- The rows that cover the word at `a`, with the word's place in each. -/
def rowsAt (a : Nat) : List (RegRow × Nat) :=
  if timGap a then [] else (rowsOf a).filterMap fun r => (r.wordAt a).map fun k => (r, k)

/-- The union of the bits at `a` of the rows that pass a test. -/
def maskAt (p : RegRow → Bool) (a : Nat) : Nat :=
  (rowsAt a).foldl (fun m rk => if p rk.1 then m ||| rk.1.fld.mask rk.2 else m) 0

/-- The reset entries, at `a`, of the rows that pass a test. -/
def entryAt (p : RegRow → Bool) (a : Nat) : Nat :=
  (rowsAt a).foldl (fun m rk => if p rk.1 then m ||| rk.1.fld.part rk.1.rst rk.2 else m) 0

/-- Reset entries that differ between the instances of one row: the owner of a Fetch channel (R384) and the trap actions
of E0 and E1 (R278). -/
def entryFix (a : Nat) : Nat :=
  if a = 0x601800 || a = 0x601900 || a = 0x601A00 || a = 0x601B00 then 1
  else if a = 0x601C00 || a = 0x601D00 then 2
  else if a = 0x601E00 || a = 0x601F00 then 3
  else if a = 0x400000C || a = 0x410000C then 0x55554
  else 0

/-- Class, kind and default reactions of a fault source, and whether it may BLOCK and has LOG fixed, as (class, level,
defaults, block, fixed log); `none` for a reserved number (R453). Class: 0 C, 1 U, 2 F. Defaults in the bit order of
FLT_REACT [5:0]. -/
def fsInfo (k : Nat) : Option (Nat × Bool × Nat × Bool × Bool) :=
  let c := fun l d fix => some (0, l, d, false, fix)
  let u := fun l d fix => some (1, l, d, false, fix)
  let f := fun l => some (2, l, 0x31, false, true)
  match k with
  | 0 => u true 3 false | 1 => u true 3 false | 2 => c true 1 false | 3 => u true 3 true | 4 => c false 1 false
  | 5 => u true 3 true | 6 => u false 3 false | 7 => u true 3 true | 8 => c false 1 true
  | 16 => f true | 17 => f true | 18 => c false 1 true | 19 => c true 1 true | 20 => c false 1 true | 21 => f false
  | 22 => f false | 23 => u false 3 true | 24 => c false 1 true | 25 => c false 1 true | 26 => f true
  | 27 => c false 1 true | 28 => c false 1 true | 29 => c false 1 true | 30 => c false 1 true | 31 => c false 1 true
  | 32 => c true 1 true | 33 => u true 3 true | 34 => c false 1 true | 35 => c false 1 true | 36 => u true 3 true
  | 37 => c false 1 true | 38 => u true 3 true | 39 => u false 3 true | 40 => u true 3 true | 41 => u false 3 true
  | 42 => c false 1 true | 43 => c false 1 true
  | 48 => some (1, true, 3, true, false) | 49 => c false 1 false | 50 => u false 3 false | 51 => c false 1 true
  | 64 => c false 1 false | 65 => c false 1 false | 66 => c false 1 false | 67 => c false 1 false
  | 80 => c false 1 false | 81 => c false 1 false | 82 => c true 1 false | 83 => c false 1 false
  | 84 => u true 3 true | 85 => u false 0x13 true | 86 => u true 3 true
  | 96 => some (0, false, 3, true, false) | 97 => some (1, false, 3, true, false) | 98 => some (1, false, 3, true, false)
  | 99 => c false 1 false | 100 => some (1, false, 7, true, false) | 101 => c false 0 false | 102 => u false 3 true
  | 103 => u false 1 true | 104 => f true
  | 112 => c false 1 false | 113 => c false 1 false | 114 => c false 1 false
  | 128 => u false 3 true | 129 => c false 1 true | 130 => c false 1 true | 131 => c false 1 true
  | n => if 144 ≤ n && n ≤ 159 then u false 1 false else none

/-- The reset entry of FLT_REACT word `k`: reactions, class, defaults and kind (R453, R465). -/
def reactEntry (k : Nat) : Nat :=
  match fsInfo k with
  | none => 0
  | some (cls, lvl, d, _, fix) =>
    (d ||| (if fix then 0x20 else 0)) + cls * 2 ^ 8 + d * 2 ^ 10 + b2n lvl * 2 ^ 16

/-- The Cold reset value of a register word (R13). Fields whose entry is sealed do not live in the word map. -/
def coldWord (a : Nat) : Word :=
  BitVec.ofNat 32 <|
    if 0x200400 ≤ a && a < 0x200800 then reactEntry ((a - 0x200400) / 4)
    else entryAt (fun r => r.kind != .sealed) a ||| entryFix a

/-- The sealed-store offset at which an RWS register word lives (R69). The manual gives the offsets of OUT_CAL and
OUT_UNC (R323) and none for the rest: DESIGN CHOICE, log entry 6. -/
def rwsOff (a : Nat) : Option Nat :=
  if a < 0x1000000 then none
  else if a < 0x1100000 then
    let o := a - 0x1000000
    if o = 0x108 || o = 0x10C || o = 0x2008 || o = 0x200C || o = 0x2068 || o = 0x206C || o = 0x2070
    then some (0x20000 + o) else none
  else if a < 0x1200000 then
    let o := a - 0x1100000
    if (0x20 ≤ o && o < 0x38) || o = 0x300C || (0x1000 ≤ o && o < 0x15C0 && o % 0x40 < 0x18)
      || (0x2000 ≤ o && o < 0x2100 && o % 0x40 < 0x18)
    then some (0x28000 + o) else none
  else if a < 0x1300000 then
    let o := a - 0x1200000
    if 0x1000 ≤ o && o < 0x2000 && o % 0x100 < 0x10 then some (0x30000 + o) else none
  else if a < 0x1400000 then
    let o := a - 0x1300000
    if 0x2000 ≤ o && o < 0x2400 && (o % 0x40 = 0x34 || o % 0x40 = 0x38)
    then some (0xE00 + (o - 0x2000) / 0x40 * 8 + (o % 0x40 - 0x34)) else none
  else none

/-- Factory values of RWS words that differ between instances (R86, R115, R137); the rest come from the register map. -/
def rwsFactory (a : Nat) : Nat :=
  if 0x1101000 ≤ a && a < 0x11015C0 then
    let n := (a - 0x1101000) / 0x40
    let o := (a - 0x1101000) % 0x40
    if o = 0 then
      let rank := if n ≤ 7 then 4 else if n = 8 then 1 else if n ≤ 16 then 2 else if n = 17 then 3 else if n ≤ 21 then 6 else 15
      rank * 4 + (if 18 ≤ n && n ≤ 21 then 2 else 0)
    else if o = 4 then (if n ≤ 7 then 1 else if 18 ≤ n && n ≤ 21 then 48000 else 0)
    else entryAt (fun _ => true) a
  else if 0x1201000 ≤ a && a < 0x1202000 then
    let c := (a - 0x1201000) / 0x100
    let o := (a - 0x1201000) % 0x100
    if o = 0 then
      if c < 12 then 1 + c * 2 else (16 + 4 * (c - 12)) * 2
    else if o = 4 then (if c < 8 then 1 else 1000000)
    else (Config.factoryCal (0x30000 + 0x1000 + c * 0x100 + o)).toNat % 2 ^ 24
  else if 0x1302000 ≤ a && a < 0x1302400 && a % 0x40 = 0x34 then (Config.factoryCal (rwsOff a |>.getD 0)).toNat % 2 ^ 24
  else entryAt (fun _ => true) a

/-- The register address of an RWS word at a sealed-store offset, the inverse of `rwsOff`. -/
def rwsAddr (o : Nat) : Option Nat :=
  let a := if o < 0xE00 then 0
    else if o < 0xE80 then 0x1302034 + (o - 0xE00) / 8 * 0x40 + (o - 0xE00) % 8
    else if o < 0x20000 then 0
    else if o < 0x28000 then 0x1000000 + (o - 0x20000)
    else if o < 0x30000 then 0x1100000 + (o - 0x28000)
    else 0x1200000 + (o - 0x30000)
  if rwsOff a = some o then some a else none

/-- Factory words of a port latency table, by table and offset (R173, R174): calibration of each device, and the values that
R174 states. -/
def latFactory (n f : Nat) : Word :=
  let cal := Config.factoryCal (0x10000 + n * 0x30 + f)
  if f = 0 then BitVec.ofNat 32 (n / 5 * 256 + n % 5 * 65536)
  else if f = 0x0C || f = 0x10 || f = 0x14 || f = 0x2C then 0
  else if f = 0x18 then (if n % 5 ≤ 1 then 200 else 60)
  else if f = 0x20 then BitVec.ofNat 32 (cal.toNat % 2 ^ 16 + 20 * 2 ^ 16)
  else if f = 0x28 then BitVec.ofNat 32 (cal.toNat % 2 ^ 16)
  else cal

/-- The factory value of a sealed-store word: RWS fields, and the entries of R103, R159, R172, R173, R251, R338, R403
and R488. A word of per-device calibration is a free value. -/
def factoryWord (o : Nat) : Word :=
  match rwsAddr o with
  | some a => BitVec.ofNat 32 (rwsFactory a)
  | none =>
    if o = 0xA00 then 0 else if o = 0xA04 then 100000 else if o = 0xA08 then 500 else if o = 0xA0C then 10000
    else if o = 0xA10 then 6
    else if 0xA20 ≤ o && o < 0xA40 then Config.factoryCal o
    else if o = 0xB10 then 900
    else if 0xB80 ≤ o && o < 0xB90 then BitVec.ofNat 32 (0x81 + (o - 0xB80) / 4 * 16)
    else if o = 0xB90 then 0xF4#32
    else if o = 0xBA0 then 1000000 else if o = 0xBA4 then 1000000000 else if o = 0xBA8 then 50000000 else if o = 0xBAC then 1000000
    else if 0xC00 ≤ o && o < 0xCB8 then 0xFFFFFFFF#32
    else if o = 0xD00 then 1000 else if o = 0xD04 then 18 else if o = 0xD08 then 50 else if o = 0xD0C then 4
    else if o = 0xD10 then 10000 else if o = 0xD14 then 100000 else if o = 0xD18 then 1000000
    else if o = 0xFE0 then 10
    else if 0xF00 ≤ o && o < 0xFC0 && (o % 0x30 = 0x0C || o % 0x30 = 0x10 || o % 0x30 = 0x14) then 0
    else if 0xF00 ≤ o && o < 0xFC0 && o % 0x30 = 0x18 then 60
    else if o = 0xB00 then 2592000
    else if 0xF00 ≤ o && o < 0xFE0 then Config.factoryCal o
    else if 0x10000 ≤ o && o < 0x13C00 then latFactory ((o - 0x10000) / 0x30) ((o - 0x10000) % 0x30)
    else if 0x14000 ≤ o && o < 0x14180 then
      let f := (o - 0x14000) % 0x30
      if f = 0 then BitVec.ofNat 32 (1 + (o - 0x14000) / 0x30 * 256)
      else if f < 0x1C then Config.factoryCal o
      else if f = 0x1C then BitVec.ofNat 32 ((Config.factoryCal o).toNat % 2 ^ 16) else 0
    else 0

/-- A word of the sealed-parameter working copy (R69). -/
def State.store (s : State) (o : Nat) : Word :=
  match sget s.knl.work o, s.knl.workBase with
  | some w, _ => w
  | none, some cells => BitVec.ofNat 32 (ofLe ((List.range 4).map fun i => (sget cells (o + i)).getD 0#8))
  | none, none => factoryWord o

/-- The sealed-store offset of a port latency table (R172). -/
def latOff (p mode : Nat) : Nat := 0x10000 + (p * 5 + mode) * 0x30

/-- The word at a register address, whichever home it has. -/
def State.word (s : State) (a : Nat) : Word :=
  match rwsOff a with
  | some o => s.store o
  | none => (sget s.regs a).getD (coldWord a)

/-- Writing a register word by hardware. An RWS word changes only with the sealed store, so a write to one is void. -/
def State.setWord (s : State) (a : Nat) (w : Word) : State :=
  match rwsOff a with
  | some _ => s
  | none => { s with regs := sput (w == coldWord a) a w s.regs }

/-- The number held by `n` words from `a`, lowest-order word first (R9). -/
def State.wordsN (s : State) (a : Nat) : Nat → Nat
  | 0 => 0
  | n + 1 => (s.word a).toNat + 2 ^ 32 * s.wordsN (a + 4) n

/-- Writing `n` words from `a`, lowest-order word first. -/
def State.setWordsN (s : State) (a v : Nat) : Nat → State
  | 0 => s
  | n + 1 => (s.setWord a (BitVec.ofNat 32 v)).setWordsN (a + 4) (v / 2 ^ 32) n

/-- The value of instance `i` of a field. -/
def State.get (s : State) (f : Fld) (i : Nat := 0) : Nat :=
  bits (s.wordsN (f.at i) f.words) f.lsb f.width

/-- The signed value of instance `i` of a field. -/
def State.getS (s : State) (f : Fld) (i : Nat := 0) : Int := sext f.width (s.get f i)

/-- A one-bit field as a truth value. -/
def State.flag (s : State) (f : Fld) (i : Nat := 0) : Bool := s.get f i != 0

/-- The state with instance `i` of a field at `v`. -/
def State.set (s : State) (f : Fld) (i v : Nat) : State :=
  s.setWordsN (f.at i) (setBits (s.wordsN (f.at i) f.words) f.lsb f.width v) f.words

/-- The state with a one-bit field at a truth value. -/
def State.setFlag (s : State) (f : Fld) (i : Nat) (b : Bool) : State := s.set f i (b2n b)

/-! ### Interrupt sources (R366) -/

/-- The first of the 64 vectors that belongs to a function (R363, R383). -/
def vecBase (fn : Nat) : Nat := if fn = 0 then 0 else if fn = 1 then 32 else if fn = 2 then 48 else 56

/-- How many vectors a function has (R363). -/
def vecCount (fn : Nat) : Nat := if fn = 0 then 32 else if fn = 1 then 16 else 8

/-- The function that a vector belongs to. -/
def vecFn (v : Nat) : Nat := if v < 32 then 0 else if v < 48 then 1 else if v < 56 then 2 else 3

/-- A word of an MSI-X table: masked after reset. -/
def State.msixWord (s : State) (o : Nat) : Word := (sget s.hst.msix o).getD (if o % 16 = 12 then 1#32 else 0#32)

/-- Whether a message of a vector may go now: unmasked, Bus Master Enable set, HOLDOFF µs past since the last (R366). -/
def State.msgMay (s : State) (v : Fin 64) : Bool :=
  let past := match s.hst.last[v] with
    | none => true
    | some l => decide (s.time.lc.toNat - l ≥ s.get R.HST_VEC_HOLDOFF v * 2 ^ 48 / 1000000)
  !(s.msixWord (v.val * 16 + 12)).getLsbD 0 && (s.get R.HST_FN_STAT).testBit (vecFn v.val) && past

/-- A source that is routed sets: its vector's message may go, or the PBA bit is set (R366). -/
def State.msgAsk (s : State) (src : Nat) : State :=
  if s.flag R.HST_IRQ_ROUTE_EN src then
    let fn := s.get R.HST_IRQ_ROUTE_FN src
    let n := vecBase fn + Nat.min (s.get R.HST_IRQ_ROUTE_VEC src) (vecCount fn - 1)
    if h : n < 64 then
      let v : Fin 64 := ⟨n, h⟩
      if s.msgMay v then { s with hst := { s.hst with msgs := s.hst.msgs ++ [v] } }
      else { s with hst := { s.hst with pba := s.hst.pba ||| BitVec.ofNat 64 (2 ^ n) } }
    else s
  else s

/-- The pending bit of a source sets (R366). -/
def State.irq (s : State) (src : Nat) : State :=
  let p := s.get R.HST_IRQ_PEND
  if p.testBit src then s else (s.set R.HST_IRQ_PEND 0 (p ||| 2 ^ src)).msgAsk src

/-- The interrupt source that the event register at an address feeds (R366). -/
def evtSource (a : Nat) : Option Nat :=
  if a = 0x1100010 then some 21 else if a = 0x1200004 then some 22 else if a = 0x1300004 then some 23
  else if a = 0x200000C then some 25 else if a = 0x3800004 then some 26 else if a = 0x3400004 then some 27
  else if a = 0x6000030 then some 28 else if a = 0x608002C then some 29 else if a = 0x3C00000 then some 30
  else if a = 0x300000 then some 31 else if a = 0x500024 then some 33 else if a = 0x500010 then some 34
  else if 0x3000000 ≤ a && a < 0x3100000 && a % 0x4000 = 8 then some 32
  else if 0x601000 ≤ a && a < 0x602000 && a % 0x100 = 0x34 then some ((a - 0x601000) / 0x100)
  else none

/-- How many entries a ring holds by its 16-bit counts (R203). -/
def State.ringHeld (s : State) (wr rd : Fld) (i : Nat := 0) : Nat := (s.get wr i + 65536 - s.get rd i) % 65536

/-- The condition of a source that has one which lasts (R366). -/
def State.srcHolds (s : State) (src : Nat) : Bool :=
  match src with
  | 16 => s.flag R.LCH_RING_CFG_ENABLE 10 && decide (s.ringHeld R.LCH_RING_WR R.LCH_RING_RD 10 ≥ s.get R.LCH_RING_CFG_THRESH 10)
  | 17 => s.flag R.HST_FWD_CFG_ENABLE && decide (s.ringHeld R.HST_FWD_WR R.HST_FWD_RD > 0)
  | 19 => decide (s.get R.KNL_REC_WR > s.get R.KNL_REC_RD)
  | 21 => s.word 0x1100010 != 0 | 22 => s.word 0x1200004 != 0 | 23 => s.word 0x1300004 != 0
  | 25 => s.word 0x200000C != 0 | 26 => s.word 0x3800004 != 0 | 27 => s.word 0x3400004 != 0
  | 28 => s.word 0x6000030 != 0 | 29 => s.word 0x608002C != 0 | 30 => s.word 0x3C00000 != 0
  | 31 => s.get R.OBS_EVT &&& s.get R.OBS_IRQ_EN != 0
  | 32 => (List.range 64).any fun p => s.get R.PRT_EVT p != 0
  | 33 => s.word 0x500024 != 0 | 34 => s.word 0x500010 != 0
  | n => if n < 16 then s.get R.FCH_CH_EVT n &&& 0x13 != 0 else false

/-- The pending bit of a source sets where its condition has become true between two states (R366). -/
def State.irqEdge (s : State) (before : State) (src : Nat) : State :=
  if !before.srcHolds src && s.srcHolds src then s.irq src else s

/-- The state with bit `b` of a field at 1: an event bit, which raises the interrupt source it feeds (R366). -/
def State.raiseBit (s : State) (f : Fld) (i b : Nat) : State :=
  let t := s.set f i (s.get f i ||| 2 ^ b)
  match evtSource (f.at i) with
  | none => t
  | some src => t.irqEdge s src

/-- The state with bit `b` of a field at 0. -/
def State.clearBit (s : State) (f : Fld) (i b : Nat) : State :=
  s.set f i (if (s.get f i).testBit b then s.get f i - 2 ^ b else s.get f i)

/-- A counter that saturates. -/
def State.bump (s : State) (f : Fld) (i : Nat := 0) (by_ : Nat := 1) : State :=
  s.set f i (Nat.min (s.get f i + by_) (2 ^ f.width - 1))

/-- A counter that wraps. -/
def State.bumpW (s : State) (f : Fld) (i : Nat := 0) (by_ : Nat := 1) : State := s.set f i (s.get f i + by_)

/-- `f` applied to the numbers `0` to `n - 1` in turn. -/
def State.forN (s : State) (n : Nat) (f : Nat → State → State) : State :=
  (List.range n).foldl (fun s i => f i s) s

/-! ### Memory -/

/-- Where the byte at a matrix address stands, if the address exists: shared SRAM, client SRAM, and the engine memories
in their windows (R257, R278, R386). -/
def memAddr (a : Nat) : Bool :=
  (0x10000000 ≤ a && a < 0x10400000) || (0x20000000 ≤ a && a < 0x21800000)
    || (0x44000000 ≤ a && a < 0x44C00000 && 0x80000 ≤ a % 0x100000 && a % 0x100000 < 0xA0000)

/-- Whether `n` bytes from a matrix address lie in shared or client SRAM. -/
def inSram (a n : Nat) : Bool :=
  (0x10000000 ≤ a && a + n ≤ 0x10400000) || (0x20000000 ≤ a && a + n ≤ 0x21800000)

/-- The byte at a matrix address; an unlisted byte is 0 (R481; log entry 7). -/
def State.byte (s : State) (a : Nat) : Byte := (sget s.mem a).getD 0#8

/-- `n` bytes from a matrix address. -/
def State.bytes (s : State) (a : Nat) : Nat → List Byte
  | 0 => []
  | n + 1 => s.byte a :: s.bytes (a + 1) n

/-- One byte written, where the address exists. -/
def State.setByte (s : State) (a : Nat) (b : Byte) : State := if memAddr a then { s with mem := sput (b == 0#8) a b s.mem } else s

/-- Bytes put from a matrix address upwards. -/
def State.putBytes (s : State) (a : Nat) : List Byte → State
  | [] => s
  | b :: bs => (s.setByte a b).putBytes (a + 1) bs

/-- Words that are written whole are sound again (R454). -/
def State.renew (s : State) (lo hi : Nat) : State :=
  let keeps := fun w => !(decide (lo ≤ w) && decide (w + 4 ≤ hi))
  { s with bad := s.bad.filter keeps, soft := s.soft.filter keeps }

/-- Bytes written from a matrix address upwards. -/
def State.setBytes (s : State) (a : Nat) (bs : List Byte) : State := (s.putBytes a bs).renew a (a + bs.length)

/-- Whether any of `n` bytes from a matrix address lies in a word with an uncorrectable error. -/
def State.badAt (s : State) (a n : Nat) : Bool := s.bad.any fun w => decide (w < a + n) && decide (a < w + 4)

/-- How many of the words that `n` bytes from a matrix address lie in hold an error that ECC corrects. -/
def State.softs (s : State) (a n : Nat) : Nat := s.soft.countP fun w => decide (w < a + n) && decide (a < w + 4)

/-- Little-endian number of `n` bytes from a matrix address (R5). -/
def State.memN (s : State) (a n : Nat) : Nat := ofLe (s.bytes a n)

/-- The cells of memory from `lo` to below `hi`, by offset from `lo`. -/
def State.memCells (s : State) (lo hi : Nat) : List Host.Cell :=
  (s.mem.filter fun c => decide (lo ≤ c.1) && decide (c.1 < hi)).map fun c => (c.1 - lo, c.2)

/-- Memory with nothing listed from `lo` to below `hi`. -/
def State.memCut (s : State) (lo hi : Nat) : State :=
  State.renew { s with mem := s.mem.filter fun c => decide (c.1 < lo) || decide (hi ≤ c.1) } lo hi

/-- Cells put back at a base address. -/
def State.memPut (s : State) (lo : Nat) (cells : List Host.Cell) : State :=
  cells.foldl (fun s c => s.setByte (lo + c.1) c.2) s

/-- `n` bytes of memory from `lo` take new contents by offset. -/
def State.memLoad (s : State) (lo n : Nat) (f : Nat → Byte) : State :=
  State.renew { s with mem := (s.mem.filter fun c => decide (c.1 < lo)) ++ (((List.range n).map fun i => (lo + i, f i)).filter fun c => c.2 != 0#8)
                              ++ s.mem.filter fun c => decide (lo + n ≤ c.1) } lo (lo + n)

/-- Bytes as words, lowest-order byte first; the last word is filled with zeros. -/
def wordsOfBytes : List Byte → List Word
  | [] => []
  | [a] => [BitVec.ofNat 32 a.toNat]
  | [a, b] => [BitVec.ofNat 32 (ofLe [a, b])]
  | [a, b, c] => [BitVec.ofNat 32 (ofLe [a, b, c])]
  | a :: b :: c :: d :: t => BitVec.ofNat 32 (ofLe [a, b, c, d]) :: wordsOfBytes t

/-- Words with the register addresses that they take, those at their reset value left out. -/
def placeWords (a : Nat) : List Word → List (Nat × Word)
  | [] => []
  | w :: t => if w == coldWord a then placeWords (a + 4) t else (a, w) :: placeWords (a + 4) t

/-- A window of register words from `a` takes new words. -/
def State.winPut (s : State) (a : Nat) (ws : List Word) : State :=
  { s with regs := (s.regs.filter fun c => decide (c.1 < a)) ++ placeWords a ws ++ s.regs.filter fun c => decide (a + 4 * ws.length ≤ c.1) }

/-- The canonical form of the memory. -/
def Memory.wf (m : List Host.Cell) : Bool := swf (fun _ b => b == 0#8) m

/-- The canonical form of the register words. -/
def Regs.wf (m : List (Nat × Word)) : Bool := swf (fun a w => w == coldWord a) m

/-! ### Free values and answers -/

/-- The state after a draw: the next free value is a fresh one. -/
def State.drawn (s : State) : State := { s with draw := s.draw + 1 }

/-- What the last bus access answered. -/
def State.reply (s : State) (w : Word) : State := { s with answer := .data w }

/-- The last bus access was answered with an error. -/
def State.replyErr (s : State) : State := { s with answer := .error }

/-- A command whose effect is a next state. -/
abbrev done (s : State) : Host.Outcome State Fault Refusal := .next s

/-- Whether `num / den` seconds of LC have passed since an LC in 2⁻⁴⁸ s. While LC stands still (R31) only the event itself tells. -/
def State.past (s : State) (since num : Nat) (den : Nat := 1) : Bool :=
  !s.time.running || decide (since + num * 2 ^ 48 / den ≤ s.time.lc.toNat)

/-- The matrix clock in kHz (R397, R398, R402). -/
def State.matrixKhz (s : State) : Nat :=
  if s.get R.CLK_STAT_ROOT_SRC = 0 then 10000 else if s.flag R.CLK_STAT_SYSPLL_COAST then 400000 else 600000

/-- Cycles of the matrix clock since an LC. -/
def State.matrixCycles (s : State) (from_ : Nat) : Nat := (s.time.lc.toNat - from_) * (s.matrixKhz * 1000) / 2 ^ 48

/-- A condition that decides between an effect and none: an event that does not apply changes nothing (log entry 3). -/
def State.when_ (s : State) (c : Bool) (f : State → State) : State := if c then f s else s

/-- The condition for gating GNSS, ADR or PCK (0 to 2) holds from now on (R414). -/
def State.idleNow (s : State) (u : Fin 3) : State := { s with pwr := { s.pwr with idleAt := s.pwr.idleAt.set u s.time.lc.toNat } }

/-- Whether a master is answered at all: a function under FLR gets Unsupported Request (R380), and nothing runs in DEEP or OFF
(R412). -/
def State.answers (s : State) (m : Master) : Bool :=
  s.pwr.power == .on && (match m with
    | .pf f => !(s.get R.HST_FN_STAT).testBit (4 + f.val)
    | _ => true)

/-- Whether `us` µs of LC have passed since an LC. -/
def State.passed (s : State) (from_ us : Nat) : Bool := decide (from_ * 1000000 + us * 2 ^ 48 ≤ s.time.lc.toNat * 1000000)

end Sys2Proof.Machine
end

