-- ==== Sys2Proof/Machine/Obs.lean ====
section
/-! DEFINITION. The event bus of OBS (R466, R467): which event numbers exist, and counting an event. -/

namespace Sys2Proof.Machine

/-- What an event number names: an event (false) or an occupancy (true); none when it is reserved (R466). -/
def obsKind (num : Nat) : Option Bool :=
  let l := num % 1024
  let ev := fun (e : Nat) (evs occ : List Nat) => if e ∈ evs then some false else if e ∈ occ then some true else none
  match num / 1024 with
  | 0x01 => if 2 ≤ l / 16 && l / 16 ≤ 11 then ev (l % 16) [0, 1, 2, 3, 4, 5, 6, 7, 8] [9] else none
  | 0x02 => ev (l % 16) [0, 1, 2, 3, 4, 5] [6]
  | 0x03 => ev (l % 16) [0, 1, 2, 3] [8, 9, 10]
  | 0x04 => if l / 4 ≤ 10 then ev (l % 4) [0, 2] [1] else none
  | 0x05 =>
    if l < 8 then some true else if l < 24 then some false else if l < 40 then some true
    else ev l [40, 41, 42, 44, 45, 46] [43]
  | 0x06 =>
    if l < 128 then ev (l % 8) [0, 1] [2]
    else if l < 128 + 48 then ev ((l - 128) % 4) [0, 1, 2] [] else none
  | 0x07 => if l / 4 ≤ 15 then ev (l % 4) [0, 1, 2] [3] else none
  | 0x08 => ev l [0, 1, 2] []
  | 0x09 => ev l [0, 1, 2, 3] []
  | 0x0A => ev l [0, 1, 2, 3, 4, 5] []
  | 0x0B => ev l [0, 1, 2, 3] []
  | _ => none

/-- Counter `k` rises by `by_`; it wraps at 48 bits and a wrap is noted (R467). -/
def State.obsAdd (s : State) (k by_ : Nat) : State :=
  let v := s.get R.OBS_CNT k + by_
  let s := s.set R.OBS_CNT k v
  if v ≥ 2 ^ 48 then s.raiseBit R.OBS_EVT 0 6 else s

/-- Whether counter `k` is enabled for an event number in a mode (R467). -/
def State.obsWants (s : State) (k num : Nat) : Bool :=
  s.flag R.OBS_CNT_SEL_ENABLE k && s.get R.OBS_CNT_SEL_EVENT k == num && s.get R.OBS_CNT_SEL_MODE k == 0
    && obsKind num == some false

/-- An event of a block: every counter that selects it in MODE 0 counts it (R466, R467). -/
def State.obs (s : State) (code loc : Nat) (by_ : Nat := 1) : State :=
  s.forN 32 fun k s => if s.obsWants k (code * 1024 + loc) then s.obsAdd k by_ else s

/-- A ring of OBS holds its THRESH entries (R475). -/
def State.obsReady (s : State) (wr rd thr : Fld) (b : Nat) : State :=
  if (s.get wr + 65536 - s.get rd) % 65536 ≥ s.get thr then s.raiseBit R.OBS_EVT 0 b else s

end Sys2Proof.Machine
end

