-- ==== Sys2Proof/Machine/Reset.lean ====
section
/-! DEFINITION. The four reset kinds (R12, R13): which register fields each sets, and what becomes of the state beside the
registers. -/

namespace Sys2Proof.Machine

/-- The address range of a register block (R25). -/
def blkRange : Block → Nat × Nat
  | .clk => (0, 0x40000) | .pwr => (0x40000, 0x80000) | .aon => (0x80000, 0x100000) | .sec => (0x100000, 0x200000)
  | .flt => (0x200000, 0x300000) | .obs => (0x300000, 0x400000) | .mtx => (0x400000, 0x500000)
  | .hst => (0x500000, 0x600000) | .fch => (0x600000, 0x700000) | .knl => (0x1000000, 0x1100000)
  | .ref => (0x1100000, 0x1200000) | .tim => (0x1200000, 0x1300000) | .syn => (0x1300000, 0x1400000)
  | .lsh => (0x1400000, 0x1500000) | .gns => (0x2000000, 0x2100000) | .prt => (0x3000000, 0x3100000)
  | .lch => (0x3400000, 0x3500000) | .srv => (0x3800000, 0x3900000) | .adr => (0x3C00000, 0x3D00000)
  | .eng => (0x4000000, 0x4C00000) | .pck => (0x6000000, 0x6080000) | .brc => (0x6080000, 0x6100000)

/-- Whether an address lies in a block. -/
def blkHas (b : Block) (a : Nat) : Bool := decide ((blkRange b).1 ≤ a) && decide (a < (blkRange b).2)

/-- Whether a reset unit takes in the register word at an address (R12, R15). -/
def unitHas (u : ResetUnit) (a : Nat) : Bool :=
  match u with
  | .kennel => [Block.knl, .ref, .tim, .syn, .lsh].any (blkHas · a) || (0x4000000 ≤ a && a < 0x4200000)
  | .core => [Block.sec, .flt, .obs, .mtx, .lch, .srv, .adr, .pck, .brc].any (blkHas · a) || (0x4200000 ≤ a && a < 0x4C00000)
  | .pg g => decide (0x3000000 + g.val * 0x20000 ≤ a) && decide (a < 0x3020000 + g.val * 0x20000)
  | .gnss => blkHas .gns a
  | .host => blkHas .hst a || blkHas .fch a
  | .engine n => decide (0x4000000 + n.val * 0x100000 ≤ a) && decide (a < 0x4100000 + n.val * 0x100000)
  | .block b => blkHas b a

/-- Register words after the fields that pass a test take their reset entries. -/
def resetRegs (p : Nat → RegRow → Bool) : List (Nat × Word) → List (Nat × Word)
  | [] => []
  | (a, v) :: t =>
    let m := BitVec.ofNat 32 (maskAt (p a) a)
    let v' := (v &&& ~~~m) ||| (coldWord a &&& m)
    if v' = coldWord a then resetRegs p t else (a, v') :: resetRegs p t

/-- Whether a Chip reset sets a field of this kind (R12: it performs every narrower kind too). -/
def chipSets (r : RegRow) : Bool := r.kind == .chip || r.kind == .block || r.kind == RKind.engine

/-- Whether a Block reset sets a field of this kind. -/
def blockSets (r : RegRow) : Bool := r.kind == .block || r.kind == RKind.engine

/-- A matrix master is reset (R393): its requests are dropped, and the responses that it awaits will be discarded. -/
def MtxSt.cut (x : MtxSt) (p : Nat → Bool) : MtxSt :=
  { x with reqs := x.reqs.filter fun r => !p r.master.val, resps := x.resps.map fun r => if p r.master.val then { r with dead := true } else r }

/-- A reset of a matrix master while its newest write burst has had only its first `beats` beats issued (R393): the later
bytes keep their old value, and the burst counts. `none`: no burst is in progress. -/
def State.burstCut (s : State) (m : Fin 16) (beats : Option Nat) : State :=
  match beats, s.mtx.resps.reverse.find? fun r => r.master == m && r.isWrite && !r.dead with
  | some k, some r =>
    let keep := r.addr / 16 * 16 + 16 * k - r.addr
    let s := s.setBytes (r.addr + keep) (r.old.drop keep)
    (s.bump R.MTX_CNT_TMO_CUTS).raiseBit R.MTX_EVT 0 2
  | _, _ => s

/-- The jobs of an engine at the units go on without their tickets (R267). -/
def State.orphan (s : State) (n : Fin 12) : State :=
  { s with jobs := s.jobs.map fun j => if j.eng == n then { j with live := false } else j }

/-- Adds an engine's entry of ENG_STAT fields. -/
def State.setEng (s : State) (n : Fin 12) (e : Engine) : State := { s with eng := s.eng.set n e }

/-- One engine. -/
def State.engine (s : State) (n : Fin 12) : Engine := s.eng[n]

/-- An Engine reset (R255, R267, R12): every item of R255 at its reset value, memories and other registers kept; then the
engine runs from ENTRY, or stops (R260). Nothing in OFF and MEASURING. -/
def State.engineReset (s : State) (n : Fin 12) : State :=
  let st := s.get R.ENG_STAT_STATE n
  if st = 0 || st = 2 then s
  else
    let e := s.engine n
    let u := ResetUnit.engine n
    let s := { s.orphan n with regs := resetRegs (fun a r => unitHas u a && r.kind == RKind.engine) s.regs
                               mtx := s.mtx.cut (fun m => 2 ≤ n.val && m == n.val - 2) }
    let go := s.flag R.ENG_CTRL_RUN n && s.flag R.ENG_STAT_MEAS_VALID n
    let entry := (e.image.map (·.entry)).getD 0
    let s := s.setEng n { Engine.reset with image := e.image, pc := entry, events := 0, lastTicket := e.lastTicket, wdogOn := e.wdogOn, wdogAt := e.wdogAt, stopAt := s.time.lc.toNat }
    s.set R.ENG_STAT_STATE n (if go then 3 else 1)

/-- An engine after a Block, Chip or Cold reset of its region: STOPPED, with no measured image (R260). -/
def State.engineBlockReset (s : State) (n : Fin 12) : State :=
  let u := ResetUnit.engine n
  let s := { s.orphan n with regs := resetRegs (fun a r => unitHas u a && blockSets r) s.regs
                             mtx := s.mtx.cut (fun m => 2 ≤ n.val && m == n.val - 2) }
  s.setEng n { Engine.reset with stopAt := s.time.lc.toNat }

end Sys2Proof.Machine
end

