-- ==== Sys2Proof/Machine/TimeFmt.lean ====
section
/-! DEFINITION. Time formats and the arithmetic of reported time (R33, R41 to R45, R50). -/

namespace Sys2Proof.Machine

/-- Ticks in one second at the nominal rate, in the notice of 256 ticks and in the spacing of 1 ms (R37). -/
def noticeTicks : Nat := 256

/-- The spacing of firmware updates in ticks (R37). -/
def spacingTicks : Nat := 1200000

/-- Seconds of a T96 or SN96 (R41). -/
def secOf (t : Time) : Nat := t.toNat / 2 ^ 48

/-- The 48-bit fraction of a T96 (R41). -/
def fracOf (t : Time) : Nat := t.toNat % 2 ^ 48

/-- RT of an LC under a correction set (R33). -/
def rtOf (c : CorrSet) (lc : Time) : Time :=
  let delta := lc - c.anchor
  let corr := Int.fdiv ((delta.toNat : Int) * c.rate.toInt) (2 ^ 64)
  c.ofs + delta + BitVec.ofInt 96 corr

/-- T96 to SN96 (R44). -/
def t96ToSn96 (t : Time) : Time :=
  let q := fracOf t * 1000000000 * 2 ^ 16 / 2 ^ 48
  BitVec.ofNat 96 (secOf t * 2 ^ 48 + q)

/-- The nanosecond part of an SN96 with its sub-nanoseconds, units of 2⁻¹⁶ ns (R41). -/
def snUnits (t : Time) : Nat := t.toNat % 2 ^ 48

/-- SN96 to T96; 10⁹ ns or more is first carried into seconds (R44). -/
def sn96ToT96 (t : Time) : Time :=
  let u := snUnits t
  let whole := 1000000000 * 2 ^ 16
  BitVec.ofNat 96 ((secOf t + u / whole) * 2 ^ 48 + (u % whole) * 2 ^ 48 / whole)

/-- SN96 to SN80: the sub-nanoseconds are dropped (R44). -/
def sn96ToSn80 (t : Time) : BitVec 80 := BitVec.ofNat 80 (secOf t * 2 ^ 32 + snUnits t / 2 ^ 16)

/-- The IEEE 1588 Timestamp bytes of an SN96: six of seconds, four of nanoseconds, big-endian (R42). -/
def sn80Wire (t : Time) : List Byte := beBytes 6 (secOf t) ++ beBytes 4 (snUnits t / 2 ^ 16)

/-- The NTP timestamp of an RT under a UTC offset, as era and 64-bit timestamp (R45). -/
def ntpOf (rt : Time) (utcOffset : Int) : Int × DWord :=
  let full : Int := (secOf rt : Int) - utcOffset + 2208988800
  (Int.fdiv full (2 ^ 32), BitVec.ofNat 64 ((Int.fmod full (2 ^ 32)).toNat * 2 ^ 32 + fracOf rt / 2 ^ 16))

/-- The advance of the SN count at a place in the cadence (R50). -/
def snStep (cad : Nat) : Nat := if cad = 2 then 54614 else 54613

/-- The SN count one tick on (R50). -/
def snNext (sn : Time) (cad : Nat) : Time :=
  let u := snUnits sn + snStep cad
  let whole := 1000000000 * 2 ^ 16
  if u ≥ whole then BitVec.ofNat 96 ((secOf sn + 1) * 2 ^ 48 + (u - whole))
  else BitVec.ofNat 96 (secOf sn * 2 ^ 48 + u)

/-- Rounding to nearest, ties away from zero, of `num / den` (R123). -/
def roundDiv (num : Int) (den : Nat) : Int :=
  if num ≥ 0 then Int.fdiv (2 * num + den) (2 * den) else - Int.fdiv (2 * (-num) + den) (2 * den)

/-- Ceiling of `num / den` for natural numbers. -/
def ceilDiv (num den : Nat) : Nat := (num + den - 1) / den

/-- 2⁻⁴⁸ s units to ps, rounded to nearest. -/
def unitsToPs (u : Int) : Int := roundDiv (u * 1000000000000) (2 ^ 48)

/-- ps to 2⁻⁴⁸ s units, rounded to nearest, ties away from zero (R123). -/
def psToUnits (p : Int) : Int := roundDiv (p * 2 ^ 48) 1000000000000

/-- Sixteenths of a ps to 2⁻⁴⁸ s units, rounded to nearest. -/
def ps16ToUnits (p : Int) : Int := roundDiv (p * 2 ^ 48) 16000000000000

/-- Least-squares slope of y on x, as numerator and denominator (R91, R93). -/
def lsqSlope (xy : List (Int × Int)) : Int × Int :=
  let n : Int := xy.length
  let sx := (xy.map (·.1)).sum
  let sy := (xy.map (·.2)).sum
  let sxy := (xy.map fun p => p.1 * p.2).sum
  let sxx := (xy.map fun p => p.1 * p.1).sum
  (n * sxy - sx * sy, n * sxx - sx * sx)

/-! ### The time of the machine -/

/-- KNL_TIME_MODE.MODE: 0 SN_BOOT, 1 LC, 2 SN_RECOVERY, 3 SN_TEST (R49). -/
def State.mode (s : State) : Nat := s.get R.KNL_TIME_MODE_MODE

/-- Whether the time source is LC. -/
def State.inLc (s : State) : Bool := s.mode == 1

/-- The RT of the current tick: by the correction set in LC, the SN count as T96 in an SN state (R33, R50). -/
def State.rt (s : State) : Time :=
  if s.inLc then rtOf s.time.cset s.time.lc else sn96ToT96 s.time.sn

/-- The seconds of the current time, which R512 compares. -/
def State.rtSec (s : State) : Nat := if s.inLc then secOf s.rt else secOf s.time.sn

/-- The increment in force (R29). -/
def State.lcInc (s : State) : Nat := s.get R.KNL_LC_INC1 * 2 ^ 32 + s.get R.KNL_LC_INC0

/-- The set that the newest entry of KNL_CSET_HIST shows, all zero before the first entry (R59). -/
def State.shownSet (s : State) : CorrSet :=
  match s.time.hist with
  | [] => ⟨0, 0, 0⟩
  | h :: _ => ⟨h.ofs, h.anchor, h.rate⟩

/-- JUMP_MAX in ps (R38). -/
def State.jumpMaxPs (s : State) : Nat := s.get R.KNL_JUMP_MAX1 * 2 ^ 32 + s.get R.KNL_JUMP_MAX0

/-- The magnitude of a PHASE compared with JUMP_MAX: phase × 10¹² > jump × 2⁴⁸. -/
def State.beyondJump (s : State) (phase : Int) : Bool :=
  decide (phase.natAbs * 1000000000000 > s.jumpMaxPs * 2 ^ 48)

/-- The rate of 10⁻¹² units as units of 2⁻⁶⁴, rounded down (R39). -/
def rateOfPpt (r : Nat) : Nat := r * 2 ^ 64 / 1000000000000

/-- What a slew has made so far of its PHASE, in 2⁻⁴⁸ s, at an LC (R39). -/
def Slew.made (w : Slew) (lc : Time) : Int :=
  Int.fdiv (((lc - w.start).toNat : Int) * w.s.toInt) (2 ^ 64)

/-- Whether the accumulated slew has reached the PHASE (R39). -/
def Slew.reached (w : Slew) (lc : Time) : Bool :=
  decide ((lc - w.start).toNat * w.s.toInt.natAbs ≥ w.phase.toInt.natAbs * 2 ^ 64)

/-- KNL_SLEW_REM (R38). -/
def State.slewRem (s : State) : Int :=
  match s.time.slew with
  | none => 0
  | some w => w.phase.toInt - w.made s.time.lc

/-- The LC of an earlier instant converted by the history: the newest entry whose effective LC is at or before it (R57). -/
def convertLc (hist : List HistEntry) (lc : Time) : Option (HistEntry × Time) :=
  match hist with
  | [] => none
  | h :: t => if h.anchor ≤ lc then some (h, rtOf ⟨h.ofs, h.anchor, h.rate⟩ lc) else convertLc t lc

/-! ### Earlier and later ticks -/

/-- LC and its hidden fraction `n` ticks on (R29). -/
def lcAfter (inc : Nat) (lc : Time) (frac : Word) (n : Nat) : Time × Word :=
  let x := lc.toNat * 2 ^ 32 + frac.toNat + n * inc
  (BitVec.ofNat 96 (x / 2 ^ 32), BitVec.ofNat 32 x)

/-- The LC of the previous tick (R29). -/
def State.lcBefore (s : State) : Time :=
  let x : Int := ((s.time.lc.toNat * 2 ^ 32 + s.time.frac.toNat : Nat) : Int) - s.lcInc
  BitVec.ofInt 96 (Int.fdiv x (2 ^ 32))

/-- An SN count moved by units of 2⁻¹⁶ ns; nanoseconds carry into seconds and back (R50). -/
def snMove (sn : Time) (units : Int) : Time :=
  let whole := 1000000000 * 2 ^ 16
  let u := ((secOf sn * whole + snUnits sn : Nat) : Int) + units
  BitVec.ofInt 96 (Int.fdiv u whole * 2 ^ 48 + Int.fmod u whole)

/-- What `k` ticks add to the SN count from a place in the cadence (R50). -/
def snTicks (cad k : Nat) : Nat := k / 3 * 163840 + ((List.range (k % 3)).map fun i => snStep ((cad + i) % 3)).sum

/-- The SN count `k` ticks before the running one (R50). -/
def State.snBack (s : State) (k : Nat) : Time := snMove s.time.sn (-(snTicks ((s.time.cad + 2 * k) % 3) k : Nat))

/-- How many ticks ago the last tick at or before an LC was; 0 for an LC that is not past (R134). -/
def State.ticksSince (s : State) (lc : Time) : Nat :=
  if s.time.lc ≤ lc then 0
  else (((s.time.lc - lc).toNat - 1) * 2 ^ 32 + s.time.frac.toNat) / Nat.max 1 s.lcInc + 1

/-- RT of an LC at or before this tick by the source of the last tick at or before it, the version in force there, and whether that source
was an SN state; none where it is older than every kept set (R21, R57, R134). Before the first entry the source was SN_BOOT or
SN_TEST. The SN count of a tick is exact while no later entry has changed the count, else it is that of R57. -/
def State.rtAt (s : State) (lc : Time) : Option (Time × Nat × Bool) :=
  let later := s.time.hist.takeWhile fun h => decide (lc < h.anchor)
  let steady := later.all fun h => !h.inSn
  let count := fun (ver : Nat) => (sn96ToT96 (s.snBack (s.ticksSince lc)), ver, true)
  match convertLc s.time.hist lc with
  | some (h, rt) => some (if h.inSn && steady then count h.ver.toNat else (rt, h.ver.toNat, h.inSn))
  | none => if s.time.hist.length < 64 && steady then some (count ((s.get R.KNL_TIME_MODE_CSET_VER + 65536 - later.length) % 65536)) else none

/-- The time as a reader's replica has it: PG0 to PG7, engines, synthesis, Pack (R55). -/
def State.seenBy (s : State) (n : Fin 11) : State :=
  let r := s.time.replicas[n]
  let x : Int := ((s.time.lc.toNat * 2 ^ 32 + s.time.frac.toNat : Nat) : Int) + r.lc
  { s with time := { s.time with lc := BitVec.ofInt 96 (Int.fdiv x (2 ^ 32)), frac := BitVec.ofInt 32 x, sn := snMove s.time.sn r.sn } }

end Sys2Proof.Machine
end

