-- ==== Sys2Proof/Machine/EngCore.lean ====
section
/-! DEFINITION. Engine registers, engine states and TAKING A TRAP, one shared operation (R255, R260, R268 to R270, R301). -/

namespace Sys2Proof.Machine

/-- The codes of ENG_STAT.STATE (R260). -/
def stOff : Nat := 0
def stStopped : Nat := 1
def stMeasuring : Nat := 2
def stRunning : Nat := 3
def stWaiting : Nat := 4
def stHalted : Nat := 5

/-- ENG_STAT.STATE of an engine. -/
def State.engState (s : State) (n : Fin 12) : Nat := s.get R.ENG_STAT_STATE n

/-- Whether an engine can issue an instruction: RUNNING, no earlier instruction waits to complete, no stop is asked for and
no imprecise BUSERR is due (R253, R260, R268). -/
def State.issues (s : State) (n : Fin 12) : Bool :=
  s.engState n == stRunning && (s.engine n).held.isNone && !(s.engine n).stopping && (s.engine n).storeErr.isNone

/-- A general register; G0 reads 0 (R255). -/
def State.g (s : State) (n : Fin 12) (a : BitVec 5) : DWord :=
  if a = 0 then 0 else (s.engine n).g[a.toFin]

/-- Writing a general register; writes to G0 are discarded (R255). -/
def State.setG (s : State) (n : Fin 12) (a : BitVec 5) (v : DWord) : State :=
  if a = 0 then s else s.setEng n { s.engine n with g := (s.engine n).g.set a.toFin v }

/-- A time register (R255). -/
def State.v (s : State) (n : Fin 12) (va : BitVec 3) : Time := (s.engine n).v[va.toFin]

/-- Writing a time register. -/
def State.setV (s : State) (n : Fin 12) (va : BitVec 3) (t : Time) : State :=
  s.setEng n { s.engine n with v := (s.engine n).v.set va.toFin t }

/-- Writing the flags. -/
def State.setFlags (s : State) (n : Fin 12) (f : Flags) : State := s.setEng n { s.engine n with flags := f }

/-- The flags of an engine. -/
def State.flags (s : State) (n : Fin 12) : Flags := (s.engine n).flags

/-- The program counter of an engine. -/
def State.pc (s : State) (n : Fin 12) : BitVec 16 := (s.engine n).pc

/-- Moving the program counter (taken modulo 2¹⁶, R286). -/
def State.setPc (s : State) (n : Fin 12) (pc : BitVec 16) : State := s.setEng n { s.engine n with pc := pc }

/-- Slots of an engine in a class (R472): ENG_CYCLES and, for E2 to E11, the slot counter and the cycle event rise. -/
def State.slot (s : State) (n : Fin 12) (f : Fld) (k : Nat) : State :=
  let s := s.bumpW R.ENG_CYCLES n k
  if 2 ≤ n.val then (s.bumpW f n k).obs 1 (n.val * 16 + 1) k else s

/-- Cycles between the issue of the instruction that completed last and the next one's count in its record (R470, R471). -/
def State.costMore (s : State) (n : Fin 12) (cls c : Nat) : State :=
  let e := s.engine n
  s.setEng n { e with last := { e.last with cost := e.last.cost + c, cls := if c ≥ e.last.cost then cls else e.last.cls } }

/-- A load from DMEM has given its data to a register: the next instruction finds it a cycle late (R253). -/
def State.loads (s : State) (n : Fin 12) (d : Dest) : State :=
  let r := match d with
    | .gpr a _ _ => if a = 0 then none else some (EReg.g a)
    | .time va => some (EReg.v va)
  s.setEng n { s.engine n with loaded := r }

/-- The registers that an instruction uses: a slot of class DEP where one of them is what the load just before it gave, whose
record it belongs to (R253, R470, R472; log entry 20). -/
def State.depend (s : State) (n : Fin 12) (uses : List EReg) : State :=
  match (s.engine n).loaded with
  | none => s
  | some r =>
    let s := s.setEng n { s.engine n with loaded := none }
    if uses.contains r then (s.slot n R.OBS_TD_DEP 1).costMore n 4 1 else s

/-- Words of IMEM or DMEM read with an error that ECC corrects (R278). -/
def State.corrected (s : State) (n : Fin 12) (k : Nat) : State :=
  if k = 0 then s else (s.bump R.ENG_ECC_CORRECTED n k).raiseBit R.ENG_EVT n 7

/-- An instruction at `pc` has completed (R253, R278, R472; log entry 20): it counts as retired; its first cycle is ISSUE and
the others are EXEC, or REDIRECT of a transfer. -/
def State.retired (s : State) (n : Fin 12) (pc : BitVec 16) (cost : Nat) (redirect : Bool := false) : State :=
  let s := (s.slot n R.OBS_TD_ISSUE 1).slot n (if redirect then R.OBS_TD_REDIRECT else R.OBS_TD_EXEC) (cost - 1)
  let s := s.bumpW R.ENG_RETIRED n 1
  let s := if 2 ≤ n.val then s.obs 1 (n.val * 16) else s
  s.setEng n { s.engine n with last := { pc := pc, cost := cost, cls := if cost = 1 then 0 else if redirect then 5 else 6, trapped := false
                                         mark := none } }

/-- An instruction has completed and the next word follows. -/
def State.next (s : State) (n : Fin 12) (cost : Nat) : State :=
  let pc := s.pc n
  (s.setPc n (pc + 4)).retired n pc cost

/-- TICKETS shows the entries in use (R278). -/
def State.syncTickets (s : State) (n : Fin 12) : State := s.set R.ENG_STAT_TICKETS n (s.engine n).tickets.length

/-- A wake event that occurs is held until a wait that names it completes (R263). An event bit that does not apply to
the engine never occurs (R292). -/
def State.event (s : State) (n : Fin 12) (b : Nat) : State :=
  let ok := b == 0 || b == 1 || b == 4 || (b == 2 && 4 ≤ n.val) || (b == 3 && 2 ≤ n.val) || ((b == 5 || b == 6) && n.val < 2)
  if ok then s.setEng n { s.engine n with events := (s.engine n).events ||| BitVec.ofNat 7 (2 ^ b) } else s

/-- ENG_EVT bits (R278). -/
def evTrapped : Nat := 0
def evHalted : Nat := 1
def evLoadErr : Nat := 2
def evLoadRefused : Nat := 3
def evRunRefused : Nat := 4
def evImemRefused : Nat := 5
def evWdog : Nat := 6

/-- The action that ENG_TRAP_CFG selects for a cause: 0 VECTOR, 1 HALT, 2 RESET; HALT on E0 and E1 (R269, R270). -/
def State.trapAction (s : State) (n : Fin 12) (cause : Nat) : Nat :=
  if n.val < 2 then 1 else bits (s.get R.ENG_TRAP_CFG n) (2 * (cause - 1)) 2

/-- The engine enters HALTED. -/
def State.halt (s : State) (n : Fin 12) : State :=
  let s := s.setEng n { s.engine n with held := none, waiting := none, stopping := false, loaded := none }
  (s.set R.ENG_STAT_STATE n stHalted).raiseBit R.ENG_EVT n evHalted

/-- What a trap saves (R269, R301): the pc, the cause and any address. The flags are unchanged. -/
def State.trapSave (s : State) (n : Fin 12) (cause : Nat) (epc : BitVec 16) (bad : Option Nat) (imprecise : Bool) : State :=
  let s := (s.set R.ENG_EPC n epc.toNat).set R.ENG_STAT_CAUSE n cause
  let s := match bad with
    | some a => s.set R.ENG_BADADDR n a
    | none => s
  let s := if cause = 3 then s.setFlag R.ENG_STAT_IMPRECISE n imprecise else s
  let s := if cause = 4 || cause = 5 then s.bump R.ENG_ECC_UNCORRECTED n else s
  let s := s.raiseBit R.ENG_EVT n evTrapped
  if 2 ≤ n.val then s.obs 1 (n.val * 16 + 5) else s

/-- The VECTOR action (R269): IN_TRAP is set and the engine continues at TRAP_ENTRY of its image. -/
def State.trapVector (s : State) (n : Fin 12) : State :=
  let s := s.setFlag R.ENG_STAT_IN_TRAP n true
  let e := s.engine n
  let s := s.setEng n { e with held := none, waiting := none, loaded := none, pc := (e.image.map (·.trapEntry)).getD 0 }
  (s.set R.ENG_STAT_STATE n stRunning).slot n R.OBS_TD_REDIRECT 2

/-- TAKING A TRAP (R269, R301): what it saves, then the configured action. A trap other than NMI taken while IN_TRAP is set
halts the engine. Faults are raised by the caller. -/
def State.trapEnter (s : State) (n : Fin 12) (cause : Nat) (epc : BitVec 16) (bad : Option Nat) (imprecise : Bool) : State :=
  let double := s.flag R.ENG_STAT_IN_TRAP n && cause != 9
  let s := s.trapSave n cause epc bad imprecise
  let act := s.trapAction n cause
  if double || act == 1 then s.halt n
  else if act == 2 then s.engineReset n
  else s.trapVector n

/-- RUN of an engine is cleared: a running engine is asked to stop, a HALTED one is STOPPED (R260). -/
def State.runClear (s : State) (n : Fin 12) : State :=
  let s := s.setFlag R.ENG_CTRL_RUN n false
  let st := s.engState n
  if st = stRunning || st = stWaiting then s.setEng n { s.engine n with stopping := true }
  else if st = stHalted then (s.set R.ENG_STAT_STATE n stStopped).setEng n { s.engine n with stopAt := s.time.lc.toNat }
  else s

/-- At an instruction boundary a trap that has waited is taken: the watchdog's, or an NMI unless IN_TRAP is set (R269, R292,
R301). -/
def State.takeNmi (s : State) : State :=
  let e := s.engine 2
  if e.nmi && !s.flag R.ENG_STAT_IN_TRAP 2 && e.held.isNone && (s.engState 2 == stRunning || s.engState 2 == stWaiting)
  then (s.setEng 2 { e with nmi := false }).trapEnter 2 9 e.pc none false
  else s

/-- Time that has passed since an LC, in cycles of the 800 MHz engine clock (R253). -/
def State.cyclesSince (s : State) (n : Fin 12) (from_ : Nat) : Nat :=
  let c := (s.time.lc.toNat - from_) * 800000000
  if 2 ≤ n.val && s.flag R.CLK_STAT_SYSPLL_COAST then c * 2 / (3 * 2 ^ 48) else c / 2 ^ 48

/-- The wait of a held instruction ends: its cycles count as stall, in class 1 MTX, 2 DRAIN or 3 TKT (R253, R278, R472). -/
def State.stallEnd (s : State) (n : Fin 12) (cls : Nat) : State :=
  let c := s.cyclesSince n (s.engine n).heldAt
  let s := s.setEng n { s.engine n with held := none }
  let s := s.slot n (if cls = 1 then R.OBS_TD_MTX else if cls = 2 then R.OBS_TD_DRAIN else R.OBS_TD_TKT) c
  if cls = 3 then
    let s := s.bump R.ENG_STALL_TKT n c
    if 2 ≤ n.val then s.obs 1 (n.val * 16 + 3) c else s
  else
    let s := s.bump R.ENG_STALL_MTX n c
    if 2 ≤ n.val then s.obs 1 (n.val * 16 + 2) c else s

/-- An instruction issues and cannot complete yet (R253). -/
def State.hold (s : State) (n : Fin 12) (h : Held) : State :=
  s.setEng n { s.engine n with held := some h, heldAt := s.time.lc.toNat }

/-- The engine enters WAITING (R260). -/
def State.waitFor (s : State) (n : Fin 12) (w : Waiting) : State :=
  (s.setEng n { s.engine n with held := none, waiting := some w, waitAt := s.time.lc.toNat }).set R.ENG_STAT_STATE n stWaiting

/-- The engine leaves WAITING: the time spent there counts (R278). -/
def State.waitEnd (s : State) (n : Fin 12) : State :=
  let e := s.engine n
  let acc := e.waitAcc + (s.time.lc.toNat - e.waitAt)
  let s := s.setEng n { e with waiting := none, waitAcc := acc }
  s.set R.ENG_WAIT n (Nat.min (acc * 1000000 / 2 ^ 48) (2 ^ 32 - 1))

/-- The RT that an engine reads: by the Kennel's own count on E0 and E1, by the engines' replica on the others (R55, R58). -/
def State.engineRt (s : State) (n : Fin 12) : Time := if n.val < 2 then s.rt else (s.seenBy 8).rt

end Sys2Proof.Machine
end

