-- ==== Sys2Proof/Machine/KnlLog.lean ====
section
/-! DEFINITION. Kennel records: the 160-byte layout, the ring, the event log, the hourly ring and the seal ledger
(R71 to R76), and Kennel keys (R61, R433). -/

namespace Sys2Proof.Machine

/-- The bytes 0x00 to 0x5F of a record (R72). -/
def KRec.body (r : KRec) : List Byte :=
  leBytes 2 r.typ ++ leBytes 2 r.flags ++ leBytes 4 r.seq ++ leBytes 4 r.sealCnt ++ leBytes 1 r.keySlot ++ leBytes 1 r.mode
    ++ leBytes 2 0 ++ leBytes 12 r.rt.toNat ++ leBytes 4 0 ++ padTo 32 r.detail ++ digestBytes r.prev

/-- The 160 bytes of a record (R72). -/
def KRec.bytes (r : KRec) : List Byte := r.body ++ sigBytes r.sig

/-- DEV_ID, byte 0 of SEC_ID0 first (R433). -/
def State.devId (s : State) : List Byte := leBytes 16 (s.get R.SEC_ID)

/-- A key that SEC derives from the root secret (R433). -/
def State.rootKey (s : State) (label : String) (salt : List Byte) : List Byte :=
  hkdf salt (digestBytes s.sec.rootSecret) (ascii label ++ s.devId) 32

/-- Records that the event log holds (R71). -/
def logCap : Nat := 153600

/-- Unexported event records (R74). -/
def State.unexported (s : State) : Nat :=
  let ack := s.get R.KNL_AUDIT_ACK
  s.kspi.events.countP fun r => decide (r.seq > ack)

/-- Whether unexported records fill more than 95 % of the log (R74). -/
def State.auditOver (s : State) : Bool := decide (s.unexported * 100 > 95 * logCap)

/-- KNL_AUDIT_STAT follows the log (R85). -/
def State.syncAudit (s : State) : State :=
  (s.set R.KNL_AUDIT_STAT_FILL 0 (s.unexported * 100 / logCap)).setFlag R.KNL_AUDIT_STAT_FULL 0 s.auditOver

/-- FLAGS of a record (R72). -/
def State.recFlags (s : State) : Nat :=
  b2n (s.get R.KNL_SEAL_STAT_STATE != 0) + 2 * b2n ((s.get R.LSH_STAT_FLAGS).testBit 1) + 4 * b2n (!s.inLc)
    + 8 * b2n (s.flag R.KNL_KPAIR_STAT_FROZEN) + 16 * b2n (s.flag R.KNL_SEAL_STAT_TRIAL)

/-- A record enters the ring at SEQ mod 1,024; an unread record that it overwrites counts (R76). -/
def State.ringPut (s : State) (r : KRec) : State :=
  let base := (R.KNL_REC_WIN.addr) + r.seq % 1024 * 0xA0
  let old := s.wordsN (base + 4) 1
  let had := s.wordsN base 1 % 2 ^ 16 != 0
  let s := if had && decide (old > s.get R.KNL_REC_RD) then s.bump R.KNL_REC_STAT_REC_OVERRUN else s
  s.setWordsN base (ofLe r.bytes) 40

/-- A signed, chained record is formed (R72): SEQ one higher, PREV the digest of the newest record, signed by a key. It
enters the ring; KNL_REC_WR and the kept digest follow. -/
def State.mkRecordBy (s : State) (key : Digest) (typ flags keySlot : Nat) (rt : Time) (detail : List Byte) : KRec × State :=
  let r0 : KRec := { typ := typ, flags := flags, seq := (s.get R.KNL_REC_WR + 1) % 2 ^ 32, sealCnt := s.get R.KNL_SEAL_CNT,
                     keySlot := keySlot, mode := s.mode, rt := rt, detail := padTo 32 detail, prev := s.knl.prevDig, sig := 0, pub := Config.ecdsaPub key }
  let r := { r0 with sig := Config.ecdsaSign key (sha256D r0.body) s.draw }
  let s := s.drawn
  let s := (s.set R.KNL_REC_WR 0 r.seq).irqEdge s 19
  let s := { s with knl := { s.knl with prevDig := sha256D r.bytes } }
  (r, s.ringPut r)

/-- An event record goes to the event log as well. A full log loses its oldest sector of 25 records, and the unexported
ones among them count (R74). -/
def State.logEventBy (s : State) (key : Digest) (typ flags keySlot : Nat) (rt : Time) (detail : List Byte) : State :=
  let (r, s) := s.mkRecordBy key typ flags keySlot rt detail
  let ack := s.get R.KNL_AUDIT_ACK
  let old := s.kspi.events
  let full := decide (old.length ≥ logCap)
  let s := if full then s.bump R.KNL_REC_STAT_AUDIT_OVERWRITE 0 ((old.take 25).countP fun x => decide (x.seq > ack)) else s
  let s := { s with kspi := { s.kspi with events := (if full then old.drop 25 else old) ++ [r]
                                          eventCut := s.kspi.eventCut + b2n full
                                          ledger := if typ = 0x0011 then s.kspi.ledger ++ [r] else s.kspi.ledger } }
  s.syncAudit

/-- An event record under the Kennel's own key, with the flags of this tick. -/
def State.logEvent (s : State) (typ keySlot : Nat) (rt : Time) (detail : List Byte) : State :=
  s.logEventBy s.knl.attKey typ s.recFlags keySlot rt detail

/-- The DETAIL of a record made by a mailbox command or an ABANDONED record (R72). -/
def eventDetail (counter opcode : Nat) (change : List Byte) : List Byte :=
  leBytes 8 counter ++ leBytes 1 opcode ++ leBytes 3 0 ++ padTo 20 change

/-- CHANGE of a payload: itself padded, or its SHA-256 truncated when longer than 20 bytes (R72). -/
def changeOf (payload : List Byte) : List Byte :=
  if payload.length ≤ 20 then padTo 20 payload else (sha256 payload).take 20

/-- The DETAIL of a K-pair event record (R72). -/
def kpairDetail (outcome lead engine kat second : Nat) (d0 d1 : Option Digest) : List Byte :=
  let dig := fun (d : Option Digest) => match d with
    | some x => (digestBytes x).take 10
    | none => List.replicate 10 0#8
  leBytes 1 outcome ++ leBytes 1 lead ++ leBytes 1 engine ++ leBytes 1 kat ++ leBytes 6 second ++ leBytes 2 0 ++ dig d0 ++ dig d1

/-! ### The KSPI layout (R71) -/

/-- The regions of KSPI flash (R71). -/
inductive KRegion where
  | header | fwA | fwB | staging | paramA | paramB | ledger | bones | hourly | events
deriving DecidableEq, Repr

/-- Offset and size of a region (R71). -/
def KRegion.span : KRegion → Nat × Nat
  | .header => (0, 0x10000) | .fwA => (0x10000, 0x40000) | .fwB => (0x50000, 0x40000) | .staging => (0x90000, 0x40000)
  | .paramA => (0xD0000, 0x40000) | .paramB => (0x110000, 0x40000) | .ledger => (0x150000, 0x15000)
  | .bones => (0x200000, 0xE00000) | .hourly => (0x1000000, 0x1800000) | .events => (0x2800000, 0x1800000)

/-- The KSPI offset of record `k` of a record region: 25 records in each sector of 4 KiB, the region used in turn (R71). -/
def KRegion.recordAt (r : KRegion) (k : Nat) : Nat :=
  let (base, size) := r.span
  base + k / 25 % (size / 4096) * 4096 + k % 25 * 160

/-- The records of a region with their numbers since the device was shipped, oldest first. -/
def Kspi.records (x : Kspi) : KRegion → List (Nat × KRec)
  | .ledger => x.ledger.mapIdx fun i r => (i, r)
  | .hourly => x.hourly.mapIdx fun i r => (25 * x.hourlyCut + i, r)
  | .events => x.events.mapIdx fun i r => (25 * x.eventCut + i, r)
  | _ => []

/-- The byte of a record that stands at a KSPI offset (R71). -/
def Kspi.recordByte (x : Kspi) (a : Nat) : Option Byte :=
  [KRegion.ledger, .hourly, .events].findSome? fun g => (x.records g).findSome? fun kr =>
    let o := g.recordAt kr.1
    if o ≤ a && a < o + 160 then kr.2.bytes[a - o]? else none

/-- Whether a record's signature verifies (R73; log entry 81). -/
def KRec.verified (r : KRec) : Bool := Config.ecdsaVerify r.pub (sha256D r.body) r.sig

/-- Whether a record's PREV fits the one before it, where that is the one with SEQ one lower (R72, R73). -/
def KRec.follows (r : KRec) : List KRec → Bool
  | a :: _ => r.seq != a.seq + 1 || r.prev == sha256D a.bytes
  | [] => true

/-- Of records, newest first, the newest whose signature and PREV verify (R73). -/
def newestGood : List KRec → Option KRec
  | [] => none
  | r :: t => if r.verified && r.follows t then some r else newestGood t

/-- The counter of the newest record of an authenticated command: one with a KEY_SLOT (R65, R72). -/
def lastCounter (events : List KRec) : Nat :=
  ((events.reverse.find? fun r => r.verified && r.keySlot != 0xFF).map fun r => leAt r.detail 0 8).getD 0

/-! ### The input log (R77, R259) -/

/-- A record enters the current half of the input log: a header of 16 bytes, then the record padded to 16. A record of types
1 to 6 that does not fit beside the reserve of 1 KiB is dropped and KIN_FULL counts; the result says whether it entered.
Entering is the KIN event of both K-engines (R263). -/
def State.kinPut (s : State) (typ : Nat) (lc : Time) (bytes : List Byte) : Bool × State :=
  let size := 16 + (bytes.length + 15) / 16 * 16
  let off := s.get R.KNL_KIN_WR_OFFSET
  if typ ≤ 6 && decide (off + size > 32768 - 1024) then (false, s.bump R.KNL_KIN_STAT)
  else
    let s := { s with knl := { s.knl with kin := s.knl.kin ++ [InRec.mk typ lc bytes] } }
    let s := s.set R.KNL_KIN_WR_OFFSET 0 (off + size)
    (true, (s.event 0 5).event 1 5)

/-- A Scent verdict (7), a mailbox effect (8) or a parameter switch (9) enters the input log. The manual does not give the
record: 16 free bytes (log entry 4). -/
def State.kinNote (s : State) (typ : Nat) : State :=
  let b := leBytes 16 (Config.freeBits 128 s.draw).toNat
  (s.drawn.kinPut typ s.time.lc b).2

/-- The halves swap roles at a second boundary (R259). -/
def State.kinSwap (s : State) : State :=
  let s := { s with knl := { s.knl with kinPrev := s.knl.kin, kin := [] } }
  (s.set R.KNL_KIN_WR_HALF 0 (1 - s.get R.KNL_KIN_WR_HALF)).set R.KNL_KIN_WR_OFFSET 0 0

/-- The bytes of one entry of the input log (R259). -/
def InRec.log (r : InRec) : List Byte :=
  leBytes 2 r.typ ++ leBytes 2 r.bytes.length ++ leBytes 12 r.lc.toNat ++ padTo ((r.bytes.length + 15) / 16 * 16) r.bytes

/-- The input log as E0 and E1 read it: 64 KiB, the half of the current second where HALF says (R257, R259). -/
def State.kinByte (s : State) (off : Nat) : Byte :=
  let cur := decide (off / 32768 = s.get R.KNL_KIN_WR_HALF)
  let recs := if cur then s.knl.kin else s.knl.kinPrev
  ((recs.flatMap InRec.log)[off % 32768]?).getD 0#8

/-! ### Mailbox buffers (R62, R64) -/

/-- BUF_STATE of a buffer: 0 FREE, 1 CLAIMED, 2 QUEUED, 3 RUNNING, 4 DONE. -/
def State.mbState (s : State) (b : Fin 4) : Nat := bits (s.get R.KNL_MBX_STAT_BUF_STATE) (3 * b) 3

/-- BUF_STATE of a buffer written. -/
def State.setMbState (s : State) (b : Fin 4) (v : Nat) : State :=
  s.set R.KNL_MBX_STAT_BUF_STATE 0 (setBits (s.get R.KNL_MBX_STAT_BUF_STATE) (3 * b) 3 v)

/-- The claimant of a buffer. -/
def State.mbOwner (s : State) (b : Fin 4) : Option Master := s.knl.owner[b]

/-- The claimant of a buffer written. -/
def State.setMbOwner (s : State) (b : Fin 4) (m : Option Master) : State :=
  { s with knl := { s.knl with owner := s.knl.owner.set b m } }

/-- A buffer becomes FREE. -/
def State.mbFree (s : State) (b : Fin 4) : State := (s.setMbState b 0).setMbOwner b none

/-- The address of a buffer. -/
def mbAddr (b : Fin 4) : Nat := 0x1000400 + b.val * 0x400

/-- A buffer notes the LC from which its time in a state counts (R62). -/
def State.mbStamp (s : State) (b : Fin 4) : State :=
  { s with knl := { s.knl with mbAt := s.knl.mbAt.set b (s.time.lc.toNat) } }

/-- A command ends with a result code and, where it returns data, a RESPONSE: the buffer is DONE (R62, R63, R68). The effects of
a command fall with its completion; it enters the input log as a mailbox effect (R77), and OBS counts it (R466). -/
def State.mbFinish (s : State) (b : Fin 4) (code : Nat) (resp : List Byte) : State :=
  let s := s.setWord (mbAddr b + 0x3B0) (BitVec.ofNat 32 code)
  let s := if resp.isEmpty then s else s.setWordsN (mbAddr b + 0x3B4) (ofLe resp) 19
  let s := (((s.setMbState b 4).mbStamp b).kinNote 8).obs 0x0A 5
  ({ s with knl := { s.knl with order := s.knl.order.drop 1 } }).irq 18

/-- The STEP that is RUNNING ends with a code: OK once its record exists (R40, R62). -/
def State.mbStepEnd (s : State) (code : Nat) : State :=
  match s.knl.order with
  | b :: _ => if s.mbState b = 3 then s.mbFinish b code [] else s
  | [] => s

end Sys2Proof.Machine
end

