-- ==== Sys2Proof/Machine/ChipReset.lean ====
section
/-! DEFINITION. Chip, Cold and Block resets over the whole state (R12, R13, R31, R76, R435, R458, R460). -/

namespace Sys2Proof.Machine

/-- The tag of a slot copy (R435). -/
def State.slotTag (s : State) (k : Nat) (c : SlotCopy) : BitVec 128 :=
  BitVec.ofNat 128 <| ofLe <| (hmac256 (s.rootKey "SLOT-TAG" [])
    (s.devId ++ leBytes 1 k ++ beBytes 2 c.gen.toNat ++ beBytes 4 c.attr.toNat ++ digestBytes c.value)).take 16

/-- Whether a copy passes its tag check; a copy never written is empty and sound. -/
def State.copyOk (s : State) (k : Nat) (c : Option SlotCopy) : Bool :=
  match c with
  | none => true
  | some c => c.tag == s.slotTag k c

/-- The copy in force: of the sound copies, the one with the higher GEN (R434). -/
def State.slotInForce (s : State) (k : Fin 32) : Option SlotCopy :=
  let a := s.sec.slotA[k]
  let b := s.sec.slotB[k]
  match s.copyOk k a, s.copyOk k b with
  | true, true =>
    match a, b with
    | some x, some y => if y.gen.toNat > x.gen.toNat then some y else some x
    | some x, none => some x
    | none, y => y
  | true, false => a
  | false, true => b
  | false, false => none

/-- One slot checked (R435): a failed copy is rewritten from the other; when both fail the slot is BAD, which the result
says. -/
def State.slotCheck1 (s : State) (k : Fin 32) : Bool × State :=
  let a := s.sec.slotA[k]
  let b := s.sec.slotB[k]
  match s.copyOk k a, s.copyOk k b with
  | true, true => (false, s)
  | true, false =>
    (false, ({ s with sec := { s.sec with slotB := s.sec.slotB.set k a } }).raiseBit R.SEC_EVT 0 3)
  | false, true =>
    (false, ({ s with sec := { s.sec with slotA := s.sec.slotA.set k b } }).raiseBit R.SEC_EVT 0 3)
  | false, false => (true, ((s.raiseBit R.SEC_SLOT_BAD 0 k).raiseBit R.SEC_EVT 0 2))

/-- BARK_N takes its level from its causes; it stays low through the 10 µs minimum (R458). -/
def State.syncBark (s : State) (other : Bool) : State :=
  let low := other || s.get R.FLT_GUARD_STAT_STATE == 4 || s.knl.guardFail || s.flag R.FLT_CFG_BARK_TEST || s.flag R.FLT_STICKY_PIN_HELD
  let s := if low && !s.flt.bark then { s with flt := { s.flt with bark := true, barkHold := true, barkAt := s.time.lc.toNat } }
    else if !low && s.flt.bark && !s.flt.barkHold then { s with flt := { s.flt with bark := false } }
    else s
  s.setFlag R.FLT_STAT_BARK 0 s.flt.bark

/-- The reactions performed when a source is raised: its FLT_REACT word in NORMAL, otherwise its default and the fixed bits
(R455, R461). -/
def State.reactions (s : State) (k : Nat) : Nat :=
  if s.get R.FLT_GUARD_STAT_STATE = 0 then s.get R.FLT_REACT_REACT k else reactEntry k % 64

/-- Whether a source with PIN, by the reactions in force, has its status bit set (R458, R461; log entry 100). -/
def State.pinSource (s : State) : Bool :=
  (List.range 160).any fun k => (s.get R.FLT_STATUS (k / 32)).testBit (k % 32) && (s.reactions k).testBit 4

/-- The summary bits of FLT_STAT and BARK_N follow the status words (R458, R465). -/
def State.syncFlt (s : State) : State :=
  let any := fun cls => (List.range 160).any fun k =>
    (s.get R.FLT_STATUS (k / 32)).testBit (k % 32) && ((fsInfo k).map (·.1)) == some cls
  let s := ((s.setFlag R.FLT_STAT_ANY_C 0 (any 0)).setFlag R.FLT_STAT_ANY_U 0 (any 1)).setFlag R.FLT_STAT_ANY_F 0 (any 2)
  s.syncBark s.pinSource

/-- The measurement that a parameter bank admits (R69). -/
def PBank.admits (b : PBank) : Digest := b.meas.getD Config.factoryKennelMeas

/-- The digest of a parameter bank (R69). -/
def PBank.digest (b : PBank) : Digest := b.image.getD (Config.bankDigest b.words b.base b.gen b.admits)

/-- The active parameter bank (R69, R85). -/
def State.bank (s : State) : PBank := s.kspi.paramBank[if s.flag R.KNL_SEAL_STAT_PARAM_BANK then (1 : Fin 2) else 0]

/-- What AON keeps of the times in LC over a reset of the Kennel, whose LC begins again: they count from its start. -/
def PwrSt.restamp (x : PwrSt) : PwrSt :=
  { x with sramClear := false, rampFrom := 0, quiesce := x.quiesce.map fun q => (q.1, q.2.1, 0), retry := x.retry.map fun q => (q.1, 0)
           idleAt := Vector.replicate 3 0, skew := x.skew.map fun k => k.map fun y => (0, y.2) }

/-- A Chip reset (R12): every region but AON and the Kennel retention store. AON copies FLT_FIRST into FLT_STICKY and holds
BARK_N if it is low (R458, R460). The retention store keeps KNL_REC_WR and the newest record's digest; KNL_REC_RD equals
KNL_REC_WR afterwards (R76). The working copy is reloaded from the active bank (R59). LC stands until KPLL locks (R31). -/
def State.chipReset (s : State) (cause : Nat) : State :=
  let first := s.get R.FLT_FIRST_FS
  let cls := s.get R.FLT_FIRST_CLASS
  let vld := s.flag R.FLT_FIRST_VALID
  let s1 := { s with regs := resetRegs (fun _ r => chipSets r) s.regs, mem := [], bad := [], soft := [], answer := .none, latch := [], holdw := [],
                     time := TimeSt.reset
                     knl := { KnlSt.reset with prevDig := s.knl.prevDig, work := s.bank.words, workBase := s.bank.base }
                     flt := { FltSt.reset with bark := s.flt.bark }
                     refs := RefsSt.reset, lsh := LshSt.reset, tim := TimSt.reset, eng := Vector.replicate 12 Engine.reset
                     mtx := MtxSt.reset, syn := SynSt.reset, obsv := ObsSt.reset, jobs := []
                     pwr := s.pwr.restamp, aon := { s.aon with sagAt := 0, periodAt := 0 }, gns := GnsSt.reset, prt := PrtSt.reset, hst := HstSt.reset
                     srv := SrvSt.reset s.draw, draw := s.draw + 1, pck := PckSt.reset, brc := BrcSt.reset, adr := AdrSt.reset, fch := FchSt.reset
                     sec := { s.sec with extBuf := 0, kumBuf := 0, authAt := [], lockAt := 0, verKey := none, cookieCur := none, cookiePrev := none
                                         cookieNext := none, pckKey := none, dbgTimer := false } }
  let s1 := s1.set R.KNL_REC_RD 0 (s1.get R.KNL_REC_WR)
  let s1 := s1.set R.PWR_RESET_CAUSE 0 cause
  let s1 := ((s1.set R.FLT_STICKY_FS 0 first).set R.FLT_STICKY_CLASS 0 cls).setFlag R.FLT_STICKY_VALID 0 vld
  let s1 := if s.flt.bark then s1.setFlag R.FLT_STICKY_PIN_HELD 0 true else s1
  s1.syncFlt

/-- What the Kennel takes after a Cold reset from the audit log, from KSPI and from the fuses (R73, R76, R85): the seal counter, the command
counter, SEQ and the chain, the bank pointers and the generation, the acknowledged SEQ, the burned fuses. KNL_REC_RD equals KNL_REC_WR. -/
def State.logRestore (s : State) : State :=
  let last := newestGood s.kspi.events.reverse
  let s := { s with knl := { s.knl with prevDig := last.elim 0 fun r => sha256D r.bytes } }
  let s := (s.set R.KNL_SEAL_CNT 0 (last.elim 0 (·.sealCnt))).set R.KNL_MBX_CMD_CNT 0 (lastCounter s.kspi.events)
  let seq := last.elim 0 (·.seq)
  let s := ((s.set R.KNL_REC_WR 0 seq).set R.KNL_REC_RD 0 seq).set R.KNL_AUDIT_ACK 0 s.kspi.ack.toNat
  let s := (s.setFlag R.KNL_SEAL_STAT_FW_BANK 0 s.kspi.fwPtr).setFlag R.KNL_SEAL_STAT_PARAM_BANK 0 s.kspi.paramPtr
  (s.set R.KNL_SEAL_STAT_FUSES 0 s.sec.sealFuses).set R.KNL_PARAM_GEN 0 s.bank.gen

/-- What a Cold reset leaves before the Kennel has read KSPI (R12). -/
def State.coldClear (s : State) : State :=
  let bank := s.kspi.paramBank[if s.kspi.paramPtr then (1 : Fin 2) else 0]
  { State.reset with regs := resetRegs (fun _ r => chipSets r || r.kind == RKind.cold) s.regs
                     kspi := s.kspi
                     sec := { SecSt.factory with rootSecret := s.sec.rootSecret, slotA := s.sec.slotA, slotB := s.sec.slotB
                                                 sealFuses := s.sec.sealFuses }
                     knl := { KnlSt.reset with work := bank.words, workBase := bank.base }
                     aon := { AonSt.reset with erased := s.aon.erased }
                     pending := s.pending, srv := SrvSt.reset s.draw, draw := s.draw + 1 }

/-- A Cold reset (R12): nothing on chip is kept; KSPI flash, the fuses and the key store are. -/
def State.coldReset (s : State) : State := s.coldClear.logRestore

/-! ### The device as shipped (R1) -/

/-- The seal record of an RW9640-AE as shipped: the manual gives neither its time nor the slot and counter that authenticated it (log entry 4). -/
def shippedSeal : KRec :=
  { typ := 0x0011, flags := 1, seq := 1, sealCnt := 1, keySlot := Config.freeNat 0 % 32, mode := Config.freeNat 1 % 4, rt := Config.freeBits 96 0
    detail := digestBytes (Config.freeBits 256 0), prev := 0, sig := Config.freeBits 512 0, pub := Config.freeBits 512 1 }

/-- An RW9640-AE as shipped, after its first Cold reset: SEALED, seal counter 1, one fuse burned, its seal record in the ledger and in the
event log (R1, R73). `State.reset` is the RW9640-AE-SV: FACTORY, seal counter 0. -/
def State.shippedAe : State :=
  let s : State := { State.reset with kspi := { Kspi.factory with ledger := [shippedSeal], events := [shippedSeal] }
                                      sec := { SecSt.factory with sealFuses := 1 }
                                      knl := { KnlSt.reset with prevDig := sha256D shippedSeal.bytes } }
  let s := ((s.set R.SEC_STATE_LC 0 2).set R.KNL_SEAL_STAT_FUSES 0 1).set R.KNL_SEAL_CNT 0 1
  ((s.set R.KNL_REC_WR 0 1).set R.KNL_REC_RD 0 1).set R.KNL_MBX_CMD_CNT 0 (leAt shippedSeal.detail 0 8)

/-! ### Life cycle and debug (R445 to R450) -/

/-- SEC_STATE.LC: 0 BLANK, 1 FACTORY, 2 SEALED, 3 SERVICE, 4 RETIRED. -/
def State.lc (s : State) : Nat := s.get R.SEC_STATE_LC

/-- SEC_STATE.DBG: 0 CLOSED, 1 OBSERVE, 2 INVASIVE. -/
def State.dbg (s : State) : Nat := s.get R.SEC_STATE_DBG

/-- An event bit of SEC_EVT. -/
def State.secEvt (s : State) (b : Nat) : State := s.raiseBit R.SEC_EVT 0 b

/-- WORLDS follows the life cycle and debug (R450). -/
def State.syncWorlds (s : State) : State :=
  let lc := s.lc
  let k := lc = 1 || lc = 2 || lc = 3 || lc = 4
  let v := lc = 1 || lc = 2 || lc = 3
  s.set R.SEC_STATE_WORLDS 0 (b2n k + 2 * b2n v + 4 + 8 * b2n (s.dbg != 0))

/-- Debug returns to CLOSED (R448). -/
def State.dbgClose (s : State) : State :=
  if s.dbg = 0 then s
  else
    let s := { s with sec := { s.sec with dbgTimer := false } }
    (((s.set R.SEC_STATE_DBG 0 0).set R.SEC_DBG_STAT_REMAIN 0 0).secEvt 5).syncWorlds

/-! ### Block resets (R12) -/

/-- Links, their groups and the duplicate tables of port groups after a reset of their region; the launch queues stay (R178, R205). -/
def State.resetLinks (s : State) (link : Nat → Bool) (group : Nat → Bool) : State :=
  let x := s.prt
  { s with prt := { x with link := Vector.ofFn fun (i : Fin 68) => if link i.val then linkReset i.val else x.link[i]
                           group := Vector.ofFn fun (g : Fin 9) => if group g.val then ⟨0, 0⟩ else x.group[g]
                           prp := Vector.ofFn fun (k : Fin 32) => if group (k.val / 4) then [] else x.prp[k] } }

/-- LCH discards every queued frame and report (R205). -/
def State.resetLch (s : State) : State := { s with prt := { s.prt with port := Vector.replicate 64 LchPort.reset, cycle := 0 } }

/-- SRV clears its keys and contexts and draws a new hash key; the jobs at its units go (R236). -/
def State.resetSrv (s : State) : State :=
  { s with srv := SrvSt.reset s.draw, draw := s.draw + 1, jobs := s.jobs.filter fun j => decide (9 ≤ j.unit)
           sec := { s.sec with cookieCur := none, cookiePrev := none, cookieNext := none } }

/-- PCK with its links. -/
def State.resetPck (s : State) : State :=
  ({ s with pck := PckSt.reset, sec := { s.sec with pckKey := none } } : State).resetLinks (fun i => decide (i < 4)) (· == 8)

/-- The engines E2 to E11. -/
def State.resetEngines (s : State) : State := (List.finRange 12).foldl (fun s n => if n.val < 2 then s else s.engineBlockReset n) s

/-- The state beside the registers of one register block. The blocks of the Kennel, FLT, CLK, PWR and AON hold nothing that a
Block reset sets. -/
def State.resetHidden (s : State) (b : Block) : State :=
  match b with
  | .obs => { s with obsv := { ObsSt.reset with passAt := s.time.lc.toNat, lineAt := s.time.lc.toNat } }
  | .mtx => { s with mtx := MtxSt.reset }
  | .hst => { s with hst := HstSt.reset }
  | .fch => { s with fch := FchSt.reset }
  | .gns => { s.idleNow 0 with gns := GnsSt.reset }
  | .prt => s.resetLinks (fun i => decide (4 ≤ i)) (fun g => decide (g < 8))
  | .lch => s.resetLch
  | .srv => s.resetSrv
  | .adr => { s.idleNow 1 with adr := AdrSt.reset }
  | .pck => (s.idleNow 2).resetPck
  | .brc => { s.idleNow 2 with brc := BrcSt.reset }
  | .eng => s.resetEngines
  | .sec => s.dbgClose
  | _ => s

/-- A Block reset of one block or region (R12): its Block and Engine fields and the state beside them. One of the Kennel clears the
HUNG mark of its gate (R392); one of SEC closes debug (R448). -/
def State.blockReset (s : State) (u : ResetUnit) : State :=
  let s := { s with regs := resetRegs (fun a r => unitHas u a && blockSets r) s.regs }
  match u with
  | .engine n => s.engineBlockReset n
  | .kennel => ((s.engineBlockReset 0).engineBlockReset 1).set R.MTX_TGT_STAT 0 (s.get R.MTX_TGT_STAT % 2 ^ 9)
  | .core => ([.obs, .mtx, .lch, .srv, .adr, .pck, .brc, .eng] : List Block).foldl State.resetHidden s.dbgClose
  | .pg g => s.resetLinks (fun i => decide (4 ≤ i) && (i - 4) / 8 == g.val) (· == g.val)
  | .gnss => s.resetHidden .gns
  | .host => (s.resetHidden .hst).resetHidden .fch
  | .block b => s.resetHidden b

end Sys2Proof.Machine
end

