-- ==== Sys2Proof/Machine/Fault.lean ====
section
/-! DEFINITION. Raising a fault source and its reactions (R453 to R460). -/

namespace Sys2Proof.Machine

/-- The numbers of the fault sources (R453). -/
def fsXtalLost := 0
def fsSyspllUnlock := 1
def fsAonXtalLost := 2
def fsKpllHold := 3
def fsGateBusy := 4
def fsRegionSkew := 5
def fsHoldLow := 6
def fsBoneNoSlot := 7
def fsBrownoutSurvived := 8
def fsKnlImageBad := 16
def fsKnlLogBad := 17
def fsKnlAuthFlood := 18
def fsAuditFull := 19
def fsKpairTransient := 20
def fsKpairDisagree := 21
def fsCsetEcc := 22
def fsTbusMismatch := 23
def fsUtcConflict := 24
def fsLshTermsLate := 25
def fsGuardFail := 26
def fsRefLost := 27
def fsRefDisqualified := 28
def fsRefDrifting := 29
def fsRefRankConflict := 30
def fsOscExcluded := 31
def fsOscParamMissing := 32
def fsEnsembleEmpty := 33
def fsTempStale := 34
def fsTdcOverflow := 35
def fsTdcTimebase := 36
def fsTdcCalReject := 37
def fsTdcRng := 38
def fsSynLockLost := 39
def fsSynFail := 40
def fsSynPhaseErr := 41
def fsSynHeelJump := 42
def fsSynBandMargin := 43
def fsGnssClk := 48
def fsGnssOsnmaFail := 49
def fsGnssSpoof := 50
def fsGnssPosSet := 51
def fsPortCfgErr := 64
def fsPortRecalFail := 65
def fsPortPauseBroken := 66
def fsPortUnderrun := 67
def fsPckAuthFail := 80
def fsPckNodeConflict := 81
def fsPckNoUplink := 82
def fsBrcPartnerLost := 83
def fsBrcDisagree := 84
def fsBrcBoundBroken := 85
def fsBrcMuted := 86
def fsEngTrap := 96
def fsEngEcc := 97
def fsEngDoubleTrap := 98
def fsMtxUnmapped := 99
def fsMtxTimeout := 100
def fsSramEccCorr := 101
def fsSramEccUncorr := 102
def fsWardenHbMiss := 103
def fsWardenAbandoned := 104
def fsHostUnmapped := 112
def fsHostRoWrite := 113
def fsFchDbellOvf := 114
def fsKeySlotBad := 128
def fsKeyUpdated := 129
def fsKumFlood := 130
def fsDebugOpen := 131

/-- The INSTANCE of a fault that concerns none (R454). -/
def noInst : Nat := 0xFFFF

/-- Sources whose records are written for every occurrence (R453, Log column "Every"). -/
def everySource (k : Nat) : Bool := k == 30 || k == 51 || k == 129 || k == 131

/-- The status word of the block that a source belongs to, for INFO of a fault record (R459; log entry 99). -/
def faultStatus (k inst : Nat) : Option Nat :=
  if k ≤ 3 then some (R.CLK_STAT_AON_SRC.at 0)
  else match k with
  | 4 => some (R.PWR_GATE_STAT_GATED.at 0)
  | 5 => some (R.PWR_SKEW_STAT_ACTIVE.at 0)
  | 6 => some (R.AON_VIN_STAT_VIN_MV.at 0)
  | 7 => some (R.AON_BONE_LAST_SLOT.at 0)
  | 8 => some (R.AON_VIN_STAT_VIN_MV.at 0)
  | 16 => some (R.KNL_SEAL_STAT_STATE.at 0)
  | 17 => some (R.KNL_SEAL_STAT_STATE.at 0)
  | 18 => some (R.KNL_MBX_STAT_BUF_STATE.at 0)
  | 19 => some (R.KNL_AUDIT_STAT_FILL.at 0)
  | 20 => some (R.KNL_KPAIR_STAT_LEAD.at 0)
  | 21 => some (R.KNL_KPAIR_STAT_LEAD.at 0)
  | 22 => some (R.KNL_TIME_STAT_JUMP_REFUSED.at 0)
  | 23 => some (R.KNL_TBUS_STAT_PG_MISMATCH.at 0)
  | 24 => some (R.KNL_UTC_UTC_OFFSET.at 0)
  | 25 => some (R.LSH_STAT_FLAGS.at 0)
  | 26 => some (R.FLT_GUARD_STAT_STATE.at 0)
  | _ =>
    if k ≤ 30 then some (R.REF_STATE_STATE.at inst)
    else if k ≤ 34 then some (R.OSC_STATE_STATE.at (if inst < 4 then inst else 0))
    else if k = 36 ∨ k = 38 then some (R.TIM_STAT_TB_STATE.at 0)
    else if k ≤ 38 then some (R.TIM_STATE_MEASURE.at inst)
    else if k = 42 then some (R.SYN_OUT_STAT_STATE.at inst)
    else if k ≤ 43 then some (R.SYN_SP_STAT_STATE.at inst)
    else if k ≤ 51 then some (R.GNS_STAT_MODE_ACT.at 0)
    else if k ≤ 67 then some (if inst < 64 then R.PRT_STAT_LINK_STATE.at inst else R.PCK_LINK_STAT_LINK_STATE.at (inst - 64))
    else if k = 82 then some (R.PCK_STAT_UPLINK_ATT.at 0)
    else if k ≤ 81 then some (R.PCK_LINK_STAT_LINK_STATE.at inst)
    else if k ≤ 86 then some (R.BRC_STAT_PAIR_STATE.at 0)
    else if k ≤ 98 then some (R.ENG_STAT_STATE.at inst)
    else if k ≤ 100 then some (R.MTX_ERR_INFO_MASTER.at 0)
    else if k ≤ 102 then some (R.OBS_SCRUB_STAT.at 0)
    else if k ≤ 104 then some (R.FLT_GUARD_STAT_STATE.at 0)
    else if k ≤ 113 then some (R.HST_EVT.at 0)
    else if k = 114 then some (R.FCH_CH_STAT_STATE.at inst)
    else if k = 128 then some (R.SEC_SLOT_BAD.at 0)
    else if k = 130 then some (R.SEC_KUM_STAT_BUSY.at 0)
    else if k = 131 then some (R.SEC_STATE_LC.at 0)
    else none

/-- INFO of a fault record: what the source gives, or the value of its block's status register (R459). -/
def State.faultInfo (s : State) (k inst : Nat) (info : List Byte) : List Byte :=
  if info = [] then (match faultStatus k inst with
    | some a => leBytes 4 (s.word a).toNat
    | none => [])
  else info

/-- The DETAIL of a fault record (R459). -/
def faultDetail (k cls react count inst : Nat) (info : List Byte) : List Byte :=
  leBytes 1 k ++ leBytes 1 cls ++ leBytes 1 react ++ leBytes 1 0 ++ leBytes 4 count ++ leBytes 2 inst ++ leBytes 2 0 ++ padTo 20 info

/-- LOG of a source (R459): one record per occurrence, or at most one per RT second with the further ones counted. -/
def State.faultLog (s : State) (k cls react inst : Nat) (info : List Byte) : State :=
  let sec := s.rtSec
  let prev := s.knl.faultRec.find? fun x => x.1 == k
  let rest := s.knl.faultRec.filter fun x => x.1 != k
  let (last, cnt) := match prev with
    | some (_, l, c) => (some l, c)
    | none => (none, 0)
  if everySource k || last != some sec then
    let s := { s with knl := { s.knl with faultRec := rest ++ [(k, sec, 0)] } }
    s.logEvent 0x0040 0xFF s.rt (faultDetail k cls react (cnt + 1) inst (s.faultInfo k inst info))
  else { s with knl := { s.knl with faultRec := rest ++ [(k, sec, cnt + 1)] } }

/-- FLT_FIRST captures the first source of class U or F while VALID is 0 (R460). -/
def State.capture (s : State) (k cls : Nat) : State :=
  if cls ≥ 1 && !s.flag R.FLT_FIRST_VALID then
    let s := ((s.set R.FLT_FIRST_FS 0 k).set R.FLT_FIRST_CLASS 0 cls).setFlag R.FLT_FIRST_VALID 0 true
    s.set R.FLT_FIRST_RT 0 s.rt.toNat
  else s

/-- The unit that BLOCK of a source resets: none where BLOCK does nothing (R453, R454). -/
def blockUnit (k inst : Nat) : Option ResetUnit :=
  if k = 48 then some .gnss
  else if 96 ≤ k && k ≤ 98 then (if h : 2 ≤ inst ∧ inst < 12 then some (.engine ⟨inst, h.2⟩) else none)
  else if k = 100 then (if inst = 10 then some .kennel else some .core)
  else none

/-- A number that names a unit, for the one BLOCK reset per unit and second (R456). -/
def unitCode : ResetUnit → Nat
  | .kennel => 0 | .core => 1 | .gnss => 2 | .host => 3 | .pg g => 10 + g.val | .engine n => 20 + n.val | .block _ => 40

/-- Whether Guard performs a BLOCK request for a unit: not while GUARD_FAIL is active, and once per unit and RT second (R456, R464). -/
def State.blockFree (s : State) (u : ResetUnit) : Bool :=
  !s.knl.guardFail && !s.flt.blockDone.any fun (x : Nat × Nat) => x.1 == unitCode u && x.2 == s.rtSec

/-- BLOCK asks Guard for a Block or Engine reset, at most once per unit and RT second; none while GUARD_FAIL is active
(R455, R456, R464). -/
def State.blockReact (s : State) (k inst : Nat) : State :=
  match blockUnit k inst with
  | none => s
  | some u =>
    let code := unitCode u
    if !s.blockFree u then s.bump R.FLT_CNT_BLOCK_SKIPPED
    else
      let s := { s with flt := { s.flt with blockDone := (s.flt.blockDone.filter fun (x : Nat × Nat) => x.1 != code) ++ [(code, s.rtSec)] } }
      match u with
      | .engine n => s.engineReset n
      | u => s.blockReset u

/-- Whether the Kennel performs a CHIP request (R457). -/
def State.chipAllowed (s : State) : Bool := s.flag R.BRC_STAT_PARTNER_SERVING || s.flag R.FLT_CFG_CHIP_ALONE

/-- Whether E2 takes an NMI (R455). -/
def State.nmiTaken (s : State) : Bool :=
  s.get R.FLT_GUARD_STAT_STATE == 0 && (s.engState 2 == stRunning || s.engState 2 == stWaiting)

/-- The reactions performed when a source is raised, in the bit order of FLT_REACT: NMI as IRQ where E2 does not take it, CHIP where the Kennel
performs it, BLOCK where neither CHIP supersedes it nor Guard skips it (R455 to R457, R459). -/
def State.performed (s : State) (k inst : Nat) : Nat :=
  let r := s.reactions k
  let chip := r.testBit 3 && s.chipAllowed
  let block := r.testBit 2 && !chip && (blockUnit k inst).any s.blockFree
  b2n (r.testBit 0 || (r.testBit 1 && !s.nmiTaken)) + 2 * b2n (r.testBit 1 && s.nmiTaken) + 4 * b2n block + 8 * b2n chip
    + 16 * b2n (r.testBit 4) + 32 * b2n (r.testBit 5)

/-- Status, count, capture, IRQ, NMI, PIN and LOG of a source; the reactions BLOCK and CHIP are the caller's (R455). -/
def State.raiseCore (s : State) (k inst : Nat) (info : List Byte) : State :=
  match fsInfo k with
  | none => s
  | some (cls, _, _, _, _) =>
    let s := s.raiseBit R.FLT_STATUS (k / 32) (k % 32)
    let s := s.bump R.FLT_COUNT k
    let s := s.capture k cls
    let r := s.reactions k
    let e2up := s.nmiTaken
    let did := s.performed k inst
    let s := if r.testBit 0 || (r.testBit 1 && !e2up) then s.irq 20 else s
    let s := if r.testBit 1 && e2up then (s.setEng 2 { s.engine 2 with nmi := true }).takeNmi else s
    let s := if r.testBit 5 then s.faultLog k cls did inst info else s
    s.syncFlt

/-- A Chip reset with the slot check of R435: a slot of which both copies fail raises KEY_SLOT_BAD. -/
def State.chipResetChecked (s : State) (cause : Nat) : State :=
  (List.finRange 32).foldl (fun s k => let (bad, s) := s.slotCheck1 k
                                       if bad then s.raiseCore fsKeySlotBad k [] else s) (s.chipReset cause)

/-- A source is raised (R455 to R459): its core reactions, then CHIP, which supersedes BLOCK when performed, else BLOCK. -/
def State.raise1 (s : State) (k inst : Nat) (info : List Byte) : State :=
  match fsInfo k with
  | none => s
  | some _ =>
    let r := s.reactions k
    let s := s.raiseCore k inst info
    if r.testBit 3 && s.chipAllowed then s.chipResetChecked 2
    else
      let s := if r.testBit 3 then s.bump R.FLT_CNT_CHIP_WITHHELD else s
      if r.testBit 2 then s.blockReact k inst else s

/-- Whether a level source's condition is present. -/
def State.active (s : State) (k : Nat) : Bool := (s.get R.FLT_ACTIVE (k / 32)).testBit (k % 32)

/-- AUDIT_FULL is a level source: raised once when the unexported share first exceeds 95 %, active while it stays above
(R74). -/
def State.syncAuditFull (s : State) : State :=
  if s.auditOver then
    if s.active fsAuditFull then s
    else (s.raiseBit R.FLT_ACTIVE 0 fsAuditFull).raise1 fsAuditFull noInst []
  else s.clearBit R.FLT_ACTIVE 0 fsAuditFull

/-- An event source is raised, and the audit level follows the record it wrote. -/
def State.raise (s : State) (k : Nat) (inst : Nat := noInst) (info : List Byte := []) : State :=
  (s.raise1 k inst info).syncAuditFull

/-- A level source's condition becomes true: raised once, and held active (R453). -/
def State.levelOn (s : State) (k : Nat) (inst : Nat := noInst) (info : List Byte := []) : State :=
  if s.active k then s else (s.raiseBit R.FLT_ACTIVE (k / 32) (k % 32)).raise k inst info

/-- A level source's condition ends. -/
def State.levelOff (s : State) (k : Nat) : State := s.clearBit R.FLT_ACTIVE (k / 32) (k % 32)

/-- A level source follows a condition. -/
def State.level (s : State) (k : Nat) (on : Bool) (inst : Nat := noInst) (info : List Byte := []) : State :=
  if on then s.levelOn k inst info else s.levelOff k

/-- An event record with the audit level following. -/
def State.record (s : State) (typ keySlot : Nat) (rt : Time) (detail : List Byte) : State :=
  (s.logEvent typ keySlot rt detail).syncAuditFull

/-- A record whose DETAIL the manual does not give: 32 free bytes (log entry 4). -/
def State.recordFree (s : State) (typ : Nat) : State :=
  let d := digestBytes (Config.freeBits 256 s.draw)
  s.drawn.record typ 0xFF s.rt d

/-- The fault that a trap cause raises (R268). -/
def trapFault (cause : Nat) : Option Nat :=
  if cause = 4 || cause = 5 then some fsEngEcc else if cause = 8 || cause = 9 then none else some fsEngTrap

/-- The K-engine of a number. -/
def kEng (n : Fin 2) : Fin 12 := if n = 0 then 0 else 1

/-- The other K-engine. -/
def kOther (n : Fin 2) : Fin 2 := if n = 0 then 1 else 0

/-- Header words of the image in a firmware bank: 0 ENTRY, 1 TRAP_ENTRY, 2 RESTART_ENTRY, 3 VERSION, 4 IMEM words, 5 DMEM
words (R272). -/
def FwBank.word (b : FwBank) (i : Nat) : Nat :=
  match b.image with
  | none => (Config.factoryImage i).toNat
  | some img => if i < 4 then leAt img (0x10 + 4 * i) 4 else leAt img (0x08 + 4 * (i - 4)) 4 / 4

/-- The digest of the image in a firmware bank (R60). -/
def FwBank.meas (b : FwBank) : Digest :=
  match b.image with
  | none => Config.factoryKennelMeas
  | some img => sha256D img

/-- A byte of the IMEM body, then the DMEM body, of the image in a firmware bank. -/
def FwBank.byte (b : FwBank) (i : Nat) : Byte :=
  match b.image with
  | none => Config.factoryByte i
  | some img => (img[128 + i]?).getD 0#8

/-- Where the IMEM of an engine begins; its DMEM follows 64 KiB on (R278). -/
def imemAt (n : Fin 12) : Nat := 0x44000000 + n.val * 0x100000 + 0x80000

/-- The memories of an engine take an image: IMEM its body and then nothing, DMEM its initial body and zeros (R272, R273). -/
def State.loadBodies (s : State) (n : Fin 12) (il dl : Nat) (f : Nat → Byte) : State :=
  let s := s.memLoad (imemAt n) 0x10000 fun i => if i < il then f i else 0#8
  s.memLoad (imemAt n + 0x10000) 0x10000 fun i => if i < dl then f (il + i) else 0#8

/-- A K-engine loaded from a firmware bank and running at an entry, registers cleared (R258, R274): its IMEM, DMEM and ENG
fields take the image. -/
def State.kLoad (s : State) (n : Fin 2) (b : FwBank) (restart : Bool) : State :=
  let e := kEng n
  let s := s.loadBodies e (4 * b.word 4) (4 * b.word 5) b.byte
  let img : Image := { cls := 1, entry := BitVec.ofNat 16 (b.word 0), trapEntry := BitVec.ofNat 16 (b.word 1), restart := BitVec.ofNat 16 (b.word 2) }
  let s := s.engineBlockReset e
  let s := s.setEng e { Engine.reset with image := some img, pc := if restart then img.restart else img.entry }
  let s := ((s.set R.ENG_MEAS e b.meas.toNat).set R.ENG_IMG_VER e (b.word 3)).set R.ENG_IMG_LEN_IMEM_WORDS e (b.word 4)
  let s := s.set R.ENG_IMG_LEN_DMEM_WORDS e (b.word 5)
  let s := (s.setFlag R.ENG_STAT_MEAS_VALID e true).setFlag R.ENG_CTRL_RUN e true
  s.set R.ENG_STAT_STATE e stRunning

/-- The active firmware bank (R71, R85). -/
def State.fwBank (s : State) : FwBank := s.kspi.fwBank[if s.flag R.KNL_SEAL_STAT_FW_BANK then (1 : Fin 2) else 0]

/-- A K-engine is reloaded from the active firmware bank, to be restored from a checkpoint at the next boundary (R80, R82). -/
def State.kReload (s : State) (n : Fin 2) : State :=
  let s := s.kLoad n s.fwBank true
  { s with knl := { s.knl with pair := { s.knl.pair with restore := some n } } }

/-- The new engine fails its trial (R82): it is reloaded from the old bank and an ABANDONED record is written. The seal
counter keeps its increment. -/
def State.fwTrialFail (s : State) (n : Fin 2) : State :=
  let p := s.knl.pair
  let s := s.setFlag R.KNL_SEAL_STAT_TRIAL 0 false
  let s := { s with knl := { s.knl with pair := { p with trial := none } } }
  (s.kReload n).record 0x0014 0xFF s.rt (eventDetail p.trialCounter 0x12 p.trialChange)

/-- A trap with the fault it raises; a double trap raises ENG_DOUBLE_TRAP; a K-engine that traps during a firmware trial
fails the trial (R268 to R270). -/
def State.trapAt (s : State) (n : Fin 12) (cause : Nat) (epc : BitVec 16) (bad : Option Nat) (imprecise : Bool) : State :=
  let double := s.flag R.ENG_STAT_IN_TRAP n && cause != 9
  let s := s.trapEnter n cause epc bad imprecise
  let k : Fin 2 := if n.val = 0 then 0 else 1
  let s := if n.val < 2 && s.knl.pair.trial == some k then s.fwTrialFail k else s
  let s := match trapFault cause with
    | some k => s.raise k n.val
    | none => s
  if double then s.raise fsEngDoubleTrap n.val else s

/-- A precise trap at the instruction that the program counter names (R301). -/
def State.trap (s : State) (n : Fin 12) (cause : Nat) (bad : Option Nat := none) : State :=
  let pc := s.pc n
  let s := s.slot n R.OBS_TD_ISSUE 1
  (s.setEng n { s.engine n with last := { pc := pc, cost := 1, cls := 0, trapped := true, mark := none } }).trapAt n cause pc bad false

/-- The codes of the trap causes (R268). -/
def cILLEGAL := 1
def cALIGN := 2
def cBUSERR := 3
def cECCD := 5
def cTICKET := 6
def cWDOG := 7
def cECALL := 8

end Sys2Proof.Machine
end

