-- ==== Sys2Proof/Machine/Leash.lean ====
section
/-! DEFINITION. The Leash: the holdover term (R104, R111, R240), the core Leash (R239), its flags and the PTP and NTP fields
that follow from it (R237 to R252). -/

namespace Sys2Proof.Machine

/-- UNBOUNDED (R237). -/
def unbounded : Nat := 2 ^ 48 - 1

/-- A sum of Leash terms saturates at UNBOUNDED (R237). -/
def lsat (n : Nat) : Nat := Nat.min n unbounded

/-- A sealed 32-bit term; 0xFFFF_FFFF counts as UNBOUNDED (R237). -/
def State.sealedTerm (s : State) (off : Nat) : Nat :=
  let v := (s.store off).toNat
  if v = 0xFFFFFFFF then unbounded else v

/-! ### The holdover term -/

/-- Square root rounded down, bit by bit from bit `b - 1`. -/
def isqrtFrom (n : Nat) : Nat → Nat → Nat
  | 0, acc => acc
  | b + 1, acc => isqrtFrom n b (if (acc + 2 ^ b) * (acc + 2 ^ b) ≤ n then acc + 2 ^ b else acc)

/-- Square root rounded up. -/
def ceilSqrt (n : Nat) : Nat :=
  let r := isqrtFrom n (Nat.log2 n / 2 + 1) 0
  if r * r = n then r else r + 1

/-- What one source of the ensemble brings to the holdover term (R103, R111, R115). -/
structure HoldMember where
  /-- weight, 1/65,536 -/
  w : Nat
  /-- 6σ of the frequency estimate, 10⁻²¹ -/
  a : Nat
  /-- 6σ of the learned ageing rate, and the unlearned bound, 10⁻²¹ s⁻¹ -/
  d6 : Nat
  ageBound : Nat
  /-- σ_y at 1 s, 10⁻¹⁵, and Srw, 10⁻³⁴ s⁻¹ -/
  sigma1 : Nat
  rwfm : Nat
  /-- full and residual temperature coefficients, 10⁻¹⁵ per °C -/
  tempco : Nat
  tempcoRes : Nat
  /-- integrals of the temperature change in 1/16 °C × 2⁻⁴⁸ s: with a fresh temperature input, and while it was stale, when the full
  coefficient applies (R109) -/
  tint : Nat
  tintFull : Nat
deriving DecidableEq, Repr

/-- The linear part of R111 over `holdDen`: frequency, ageing and temperature terms in ps; t in 2⁻⁴⁸ s. -/
def holdLin (ms : List HoldMember) (t : Nat) (ld lk : Bool) : Nat :=
  (ms.map fun m =>
    let d := if ld then m.d6 else m.ageBound
    let tau := if lk then m.tempcoRes else m.tempco
    m.w * m.a * t * 32 * 2 ^ 48 + m.w * d * t * t * 16 + m.w * (tau * m.tint + m.tempco * m.tintFull) * 2000000 * 2 ^ 48).sum

/-- Denominator of the linear part: 65,536 × 32 × 10⁹ × 2⁹⁶. -/
def holdDen : Nat := 65536 * 32 * 1000000000 * 2 ^ 96

/-- The sum of w² var(t) of R104 and R111, in units of 10⁻³⁴ s² / (3 × 2³² × 2¹⁴⁴); t in 2⁻⁴⁸ s. -/
def holdVar (ms : List HoldMember) (t : Nat) : Nat :=
  (ms.map fun m => m.w * m.w * (3 * m.sigma1 * m.sigma1 * 10000 * t * 2 ^ 96 + m.rwfm * t * t * t)).sum

/-- hold_ps of R111, with a further exact term of `num` / 2¹¹² ps added before the one rounding up (R240). -/
def holdPs (ms : List HoldMember) (t num : Nat) (ld lk : Bool) : Nat :=
  let q := holdDen * 2 ^ 112
  let p := holdLin ms t ld lk * 2 ^ 112 + num * holdDen
  let m := ceilSqrt (ceilDiv (36 * holdVar ms t * q * q) (3 * 2 ^ 32 * 10000000000 * 2 ^ 144))
  lsat (ceilDiv (p + m) q)

/-- The temperature input of source `k` (R109): OSC_TEMP, or the KENNEL region sensor; always the sensor for XTAL. -/
def State.oscTemp (s : State) (k : Fin 5) : Int :=
  if k.val < 4 && s.flag R.OSC_CFG_TEMP_SRC k && !(s.refs.osc[k]).stale then s.getS R.OSC_TEMP k else s.getS R.PWR_TEMP 1

/-- The KPLL source as an entry of `osc`: 0 to 3, or 4 for XTAL and for hold (R102). -/
def State.kpllEntry (s : State) : Fin 5 :=
  match s.get R.CLK_STAT_KPLL_SRC with
  | 0 => 0 | 1 => 1 | 2 => 2 | 3 => 3 | _ => 4

/-- The weights that the ensemble has now: REF weights of the members, or the KPLL source alone (R102, R105). -/
def State.ensWeight (s : State) (k : Fin 5) : Nat :=
  let anyMember := (List.range 4).any fun j => s.get R.OSC_STATE_STATE j == 2
  if anyMember then (if k.val < 4 && s.get R.OSC_STATE_STATE k == 2 then (let w := s.get R.OSC_STATE_WEIGHT k; if w = 65535 then 65536 else w) else 0)
  else if k = s.kpllEntry then 65536 else 0

/-- The sealed parameters and estimates of source `k`, with given integrals. -/
def State.holdMember (s : State) (k : Fin 5) (tint : Nat × Nat) : HoldMember :=
  let o := s.refs.osc[k]
  if k.val < 4 then
    { w := o.w0, a := o.a, d6 := o.d6, ageBound := s.get R.OSC_AGE_BOUND k, sigma1 := s.get R.OSC_SIGMA1 k,
      rwfm := s.get R.OSC_RWFM k, tempco := s.get R.OSC_TEMPCO_TEMPCO k * 10, tempcoRes := s.get R.OSC_TEMPCO_TEMPCO_RES k,
      tint := tint.1, tintFull := tint.2 }
  else
    { w := o.w0, a := o.a, d6 := (s.store 0xBA8).toNat, ageBound := (s.store 0xBA8).toNat, sigma1 := (s.store 0xBA0).toNat,
      rwfm := (s.store 0xBA4).toNat, tempco := (s.store 0xBAC).toNat * 1000, tempcoRes := (s.store 0xBAC).toNat * 1000,
      tint := tint.1, tintFull := tint.2 }

/-- Weights, temperatures and integrals taken at an RT in 2⁻⁴⁸ s: t_last, or a handover out of LC (R111, R240). -/
def State.holdBase (s : State) (rt : Nat) : State :=
  let upd := fun (k : Fin 5) => { s.refs.osc[k] with w0 := s.ensWeight k, temp0 := s.oscTemp k, tint := 0, tintFull := 0, tintAt := rt }
  { s with refs := { s.refs with osc := Vector.ofFn upd, tLast := rt } }

/-- The integrals of the temperature change up to an RT, the present change held: it counts for a fresh input, or for a stale one
(R109, R111). -/
def State.tintTo (s : State) (k : Fin 5) (rt : Nat) : Nat × Nat :=
  let o := s.refs.osc[k]
  let more := (s.oscTemp k - o.temp0).natAbs * (rt - o.tintAt)
  if k.val < 4 && o.stale then (o.tint, o.tintFull + more) else (o.tint + more, o.tintFull)

/-- The integrals run up to now: what precedes every change of a temperature input. -/
def State.tintNow (s : State) : State :=
  let rt := s.rt.toNat
  let upd := fun (k : Fin 5) => { s.refs.osc[k] with tint := (s.tintTo k rt).1, tintFull := (s.tintTo k rt).2, tintAt := rt }
  { s with refs := { s.refs with osc := Vector.ofFn upd } }

/-- The integrals since `n` seconds ago, from the temperatures of the last seconds, up to `more` seconds on. -/
def State.tintSince (s : State) (k : Fin 5) (n more : Nat) : Nat × Nat :=
  let o := s.refs.osc[k]
  let base := (o.recent[n - 1]?).getD (s.oscTemp k)
  let t := (((o.recent.take n).map fun x => (x - base).natAbs).sum + (s.oscTemp k - base).natAbs * more) * 2 ^ 48
  if k.val < 4 && o.stale then (0, t) else (t, 0)

/-- The five sources of the ensemble. -/
def sources : List (Fin 5) := [0, 1, 2, 3, 4]

/-- hold of R111 counted from t_last, at the boundary that begins an RT second. -/
def State.holdAt (s : State) (sec : Nat) : Nat :=
  holdPs (sources.map fun k => s.holdMember k (s.tintTo k (sec * 2 ^ 48))) (sec * 2 ^ 48 - s.refs.tLast) 0
    (s.flag R.REF_HOLD_STAT_LEARNED_D) (s.flag R.REF_HOLD_STAT_LEARNED_KT)

/-- hold counted from the checkpoint (R239), at the boundary that begins an RT second. -/
def State.ckptAt (s : State) (sec : Nat) : Nat :=
  let n := s.rtSec - s.lsh.tCkpt
  holdPs (sources.map fun k => { s.holdMember k (s.tintSince k n (sec - s.rtSec)) with w := s.ensWeight k }) ((sec - s.lsh.tCkpt) * 2 ^ 48) 0
    (s.flag R.REF_HOLD_STAT_LEARNED_D) (s.flag R.REF_HOLD_STAT_LEARNED_KT)

/-- fr_ps of R240 at the boundary that begins an RT second. -/
def State.freeAt (s : State) (sec : Nat) : Nat :=
  let t := sec * 2 ^ 48 - s.lsh.tEntry
  holdPs (sources.map fun k => s.holdMember k (s.tintTo k (sec * 2 ^ 48))) t (s.lsh.ensYEntry.toInt.natAbs * t * 1000000000000) false false

/-! ### The core Leash -/

/-- SERVO (R106). -/
def State.servo (s : State) : Nat := s.get R.REF_STAT_SERVO

/-- Whether steering is frozen (R79). -/
def State.frozen (s : State) : Bool := s.flag R.KNL_KPAIR_STAT_FROZEN

/-- The holdover, checkpoint or free-run term that the present state has at the boundary that begins an RT second (R239, R242); `other` where
none runs. -/
def State.heldAt (s : State) (sec other : Nat) : Nat :=
  if s.mode = 2 || s.mode = 3 then s.freeAt sec
  else if s.mode = 1 && s.frozen then s.ckptAt sec
  else if s.servo = 3 then s.holdAt sec else other

/-- REF_HOLD_TERM: hold_ps in HOLDOVER, at the boundary that closes the running second, else the carried amount, else 0 (R115). -/
def State.showHold (s : State) : State :=
  s.set R.REF_HOLD_TERM 0 (if s.servo = 3 then s.holdAt (s.rtSec + 1) else s.lsh.carry.getD 0)

/-- The additions of R244 in force. -/
def State.degrPs (s : State) : Nat :=
  (if s.lsh.tdcDegr || s.lsh.tdcDegrPrev then s.sealedTerm 0xD08 else 0) + s.lsh.late * s.sealedTerm 0xD10

/-- The core Leash by the first matching row of R239, from the terms in force, and the part that LSH_HOLD shows. A servo in
FREE_RUN in LC that has been LOCKED before matches no row: a free value (log entry 12). -/
def State.coreNow (s : State) (x : Terms) : Nat × Nat :=
  let degr := s.degrPs
  let sum := x.ref + x.path + x.meas + x.slew
  if s.mode = 0 then (unbounded, 0)
  else if s.mode = 1 && s.servo = 0 && !s.refs.everLocked then (unbounded, 0)
  else if s.mode = 1 && s.frozen then (lsat (s.lsh.lCkpt + x.hold + degr), x.hold)
  else if s.mode ≠ 1 then (lsat (s.lsh.lEntry + x.hold + degr), x.hold)
  else if s.servo = 3 then (lsat (s.lsh.lLast + x.hold + degr), x.hold)
  else if s.servo = 0 then ((Config.freeBits 48 s.draw).toNat, 0)
  else match s.lsh.carry with
    | some c => (lsat (Nat.max c sum + degr), c)
    | none => (lsat (sum + degr), 0)

/-- Whether an identifier is an upstream session or the Pack uplink. -/
def isUpstream (r : Nat) : Bool := decide (9 ≤ r) && decide (r ≤ 17)

/-- Whether the last record of the selected session or uplink was degraded, so that its path carries the addition of R244. -/
def State.recDegr (s : State) : Bool :=
  let sel := s.get R.REF_STAT_SEL_REF
  if h : sel < 23 then isUpstream sel && (s.refs.refs[sel]).degr else false

/-- The flags of R245, bit by bit as in the LEASH TLV. -/
def State.lshFlagsNow (s : State) (core : Nat) : Nat :=
  let degraded := s.lsh.late > 0 || s.lsh.tdcDegr || s.lsh.tdcDegrPrev || s.recDegr || s.frozen || s.mode = 2
  b2n (s.get R.KNL_SEAL_STAT_STATE != 0) + 2 * b2n degraded + 4 * b2n (!s.inLc)
    + 8 * b2n (s.servo == 3 || s.lsh.carry.isSome) + 16 * b2n (s.flag R.REF_STAT_FREQ_ONLY)
    + 32 * b2n (core == unbounded) + 64 * b2n (s.frozen)

/-- Rank of a clockClass, best first (R248). -/
def classRank (c : Nat) : Nat := if c ≤ 6 then 0 else if c = 7 then 1 else if c ≤ 140 then 2 else if c ≤ 187 then 3 else 4

/-- The class of a rank in a column of R248. -/
def classOf (g8275 : Bool) (r : Nat) : Nat :=
  if r = 0 then 6 else if r = 1 then 7 else if r = 2 then (if g8275 then 140 else 52)
  else if r = 3 then (if g8275 then 160 else 187) else 248

/-- The row of R248 by its rank, before the two limits. -/
def State.classRow (s : State) (core : Nat) : Nat :=
  if core = unbounded then 4
  else if s.frozen || s.mode = 2 || s.mode = 3 then 3
  else if s.servo = 2 && s.lsh.carry.isNone && core ≤ s.sealedTerm 0xD14 then 0
  else if core ≤ s.sealedTerm 0xD18 then 1
  else 2

/-- The rank of clockClass with the limits of R248. -/
def State.classNow (s : State) (core : Nat) : Nat :=
  let r := s.classRow core
  let r := if (s.lshFlagsNow core).testBit 0 then Nat.max r 2 else r
  let sel := s.get R.REF_STAT_SEL_REF
  if h : sel < 23 then (if isUpstream sel then Nat.max r (classRank (s.refs.refs[sel]).upClass) else r) else r

/-- The bounds of IEEE 1588-2019 Table 5 from code 0x17, ps (R249). -/
def accBounds : List Nat :=
  [1, 2, 10, 25, 100, 250, 1000, 2500, 10000, 25000, 100000, 250000, 1000000, 2500000, 10000000, 25000000, 100000000,
   250000000, 1000000000, 2500000000, 10000000000, 25000000000, 100000000000, 250000000000, 1000000000000, 10000000000000]

/-- clockAccuracy (R249): the code with the smallest bound at or above the Leash. The bound of 2.5 ps is met by 2 ps. -/
def clockAccuracy (l : Nat) : Nat :=
  if l = unbounded then 0xFE
  else match accBounds.findIdx? (fun b => l ≤ b) with
    | some i => 0x17 + i
    | none => 0x31

/-- ⌊log₂ (a / b)⌋ for positive a and b. -/
def floorLog2Ratio (a b : Nat) : Int :=
  if a ≥ b then (Nat.log2 (a / b) : Int)
  else
    let c := ceilDiv b a
    Int.neg (if 2 ^ Nat.log2 c = c then (Nat.log2 c : Int) else (Nat.log2 c : Int) + 1)

/-- offsetScaledLogVariance (R249): 256 log₂(σ²) rounded to nearest, σ = Leash ÷ 6, plus 0x8000, clamped. -/
def oslv (l : Nat) : Nat :=
  if l = unbounded then 0xFFFF
  else if l = 0 then 0
  else
    let q := floorLog2Ratio (l ^ 1024) (6000000000000 ^ 1024)
    let r := Int.fdiv (q + 1) 2 + 0x8000
    if r < 0 then 0 else if r > 0xFFFE then 0xFFFE else r.toNat

/-- NTP root dispersion of a Leash (R250). -/
def rootDisp (l : Nat) : Nat :=
  if l = unbounded then 0xFFFFFFFF else Nat.min (Nat.max 1 (ceilDiv (l * 65536) 1000000000000)) 0xFFFFFFFF

/-- NTP stratum (R250). -/
def State.stratumOf (s : State) (rank : Nat) : Nat :=
  if s.servo = 0 then 16 else if rank ≤ 1 then 1 else if rank = 2 then 2 else if rank = 3 then 3 else 16

/-- The registers of LSH take a core Leash, its parts and the flags (R252); a change of FLAGS or CLOCK_CLASS is interrupt source 24
(R366). -/
def State.lshShow (s : State) (core held flags : Nat) (x : Terms) : State :=
  let old := (s.get R.LSH_STAT_FLAGS, s.get R.LSH_STAT_CLOCK_CLASS)
  let s := s.set R.LSH_CORE 0 core
  let s := s.set R.LSH_REF 0 x.ref
  let s := s.set R.LSH_PATH 0 x.path
  let s := s.set R.LSH_MEAS 0 (lsat (x.meas + x.slew))
  let s := s.set R.LSH_HOLD 0 held
  let s := s.set R.LSH_DEGR 0 (lsat s.degrPs)
  let rank := s.classNow core
  let row := s.classRow core
  let s := s.set R.LSH_STAT_FLAGS 0 flags
  let s := s.set R.LSH_STAT_CLOCK_CLASS 0 (classOf false rank)
  let s := s.set R.LSH_PTP_CLASS_G8275 0 (classOf true rank)
  let s := s.set R.LSH_STAT_CLOCK_ACCURACY 0 (clockAccuracy core)
  let s := s.set R.LSH_STAT_STRATUM 0 (s.stratumOf rank)
  let s := s.set R.LSH_PTP_OSLV 0 (oslv core)
  let s := s.setFlag R.LSH_PTP_TIME_TRACEABLE 0 (rank ≤ 1)
  let s := s.setFlag R.LSH_PTP_FREQ_TRACEABLE 0 (s.get R.REF_STAT_SEL_REF != 31 && row ≤ 2)
  let s := s.set R.LSH_ROOTDISP 0 (rootDisp core)
  if old == (s.get R.LSH_STAT_FLAGS, s.get R.LSH_STAT_CLOCK_CLASS) then s else s.irq 24

/-- LSH on a tick between boundaries (R243): a wider value and a new flag apply at once, a narrower value and a cleared flag
wait. hold and fr_ps are evaluated at the boundary that closes the current second. -/
def State.leashWiden (s : State) : State :=
  let x := s.lsh.cur
  let x := { x with hold := s.heldAt (s.rtSec + 1) x.hold }
  let s := { s with lsh := { s.lsh with cur := x } }
  let (core, held) := s.coreNow x
  let old := s.get R.LSH_CORE
  let keep := Nat.max old core
  s.lshShow keep (if core ≥ old then held else s.get R.LSH_HOLD) (s.lshFlagsNow keep ||| s.get R.LSH_STAT_FLAGS) x

/-- LSH at a boundary event (R242, R244): it takes the written terms, or keeps the core Leash and grows it when they are late. -/
def State.leashBoundary (s : State) : State :=
  let old := s.get R.LSH_CORE
  let s := s.set R.LSH_CORE_PREV 0 old
  let s := { s with lsh := { s.lsh with tdcDegr := false, tdcDegrPrev := s.lsh.tdcDegr } }
  let s := s.set R.LSH_SEC 0 s.rtSec
  let s := match s.lsh.next with
    | some x =>
      let s := { s with lsh := { s.lsh with next := none, cur := x, late := 0 } }
      let (core, held) := s.coreNow x
      s.lshShow core held (s.lshFlagsNow core) x
    | none =>
      let s := { s with lsh := { s.lsh with late := s.lsh.late + 1 } }
      let core := lsat (old + s.sealedTerm 0xD10)
      let s := s.bump R.LSH_CNT_TERMS_LATE
      let s := s.lshShow core (s.get R.LSH_HOLD) (s.lshFlagsNow core) s.lsh.cur
      s.raise fsLshTermsLate
  if s.mode = 1 && s.get R.LSH_CORE = unbounded then s.bump R.LSH_CNT_UNBOUNDED_S else s

/-- The carried amount falls by the magnitude of a completed phase correction, never while FREQ_ONLY is set, a step order that ends FREQ_ONLY
among them (R240; log entry 86). -/
def State.carryLess (s : State) (ps : Nat) : State :=
  if s.flag R.REF_STAT_FREQ_ONLY then s
  else ({ s with lsh := { s.lsh with carry := s.lsh.carry.map (· - ps) } } : State).showHold

/-! ### Ports -/

/-- A table of active modes has five entries. -/
def State.modeAct (s : State) (p : Nat) : Nat := Nat.min (s.get R.PRT_STAT_MODE_ACT p) 4

/-- UNC and XCOMP_UNC for a port and mode (R238, R251). -/
def State.linkUnc (s : State) (p mode : Nat) : Nat := s.sealedTerm (latOff p mode + 0x18) + s.sealedTerm 0xD0C

/-- The port term of R238 for the active mode of a port, with the addition of R244 while it is DEGRADED. -/
def State.portTerm (s : State) (p : Nat) : Nat :=
  s.linkUnc p (s.modeAct p) + (if s.flag R.PRT_STAT_DEGRADED p then s.sealedTerm 0xD00 else 0)

/-- LSH_PORT_TERM of a port (R252). -/
def State.portTermReg (s : State) (p : Nat) : Nat := lsat (s.portTerm p)

/-- LSH_PORT_LEASH of a port (R252). -/
def State.portLeash (s : State) (p : Nat) : Nat := lsat (s.get R.LSH_CORE + s.portTerm p)

/-- The placement bound by MODE (R238). -/
def placement (mode : Nat) : Nat := if mode ≤ 1 then 8000 else if mode = 2 then 1600 else 1280

/-- The machine with the sealed tables in force on a tick by its RT (R173, R238). -/
def State.storeOf (s : State) (rt : Nat) : State :=
  if rt / 2 ^ 48 < s.knl.switchSec then { s with knl := { s.knl with work := s.knl.oldWork, workBase := s.knl.oldBase } } else s

/-- The active mode of a port on a tick by its RT. -/
def State.modeOf (s : State) (p : Nat) (rt : Nat) : Nat :=
  if h : p < 64 then
    let x := s.prt.link[p + 4]
    if rt < x.modeAt then Nat.min x.modeWas 4 else s.modeAct p
  else s.modeAct p

/-- The timestamp Leash of R238 for a timestamp by its RT: in this second, or in the previous one. -/
def State.tsLeash (s : State) (p rt : Nat) (degraded before : Bool) : Nat :=
  let m := s.modeOf p rt
  let core := if rt / 2 ^ 48 < s.get R.LSH_SEC then s.get R.LSH_CORE_PREV else s.get R.LSH_CORE
  let t := s.storeOf rt
  lsat (core + t.linkUnc p m + (if degraded then t.sealedTerm 0xD00 else 0) + (if before then placement m else 0))

/-- The 30 bytes of the LEASH TLV (R247); a degraded timestamp sets DEGRADED, a Leash at UNBOUNDED that flag (R244, R245). -/
def State.leashTlv (s : State) (leash ver : Nat) (degraded : Bool) : List Byte :=
  beBytes 2 3 ++ beBytes 2 26 ++ beBytes 3 0x5AC317 ++ beBytes 3 1 ++ beBytes 1 1 ++ beBytes 1 (s.get R.LSH_STAT_FLAGS ||| 2 * b2n degraded ||| 32 * b2n (leash == unbounded))
    ++ beBytes 1 s.servo ++ beBytes 1 (s.get R.REF_STAT_SEL_REF) ++ beBytes 6 leash
    ++ beBytes 4 (if s.servo = 3 then s.get R.REF_HOLD_ELAPSED else 0) ++ beBytes 4 (s.get R.KNL_SEAL_CNT) ++ beBytes 2 ver

end Sys2Proof.Machine
end

