-- ==== Sys2Proof/Machine/Refs.lean ====
section
/-! DEFINITION. Scent, the selector, the oscillator ensemble and the servo's state (R86 to R115). -/

namespace Sys2Proof.Machine

/-! ### Reference states -/

/-- The codes of REF_STATE.STATE (R94). -/
def rDisabled := 0
def rAbsent := 1
def rQualifying := 2
def rQualified := 3
def rSuspect := 4
def rDisqualified := 5

/-- REF_STATE.STATE of an identifier. -/
def State.refState (s : State) (n : Nat) : Nat := s.get R.REF_STATE_STATE n

/-- Hidden state of a reference changed. -/
def State.setRef (s : State) (n : Fin 23) (r : RefSt) : State := { s with refs := { s.refs with refs := s.refs.refs.set n r } }

/-- Hidden state of a reference. -/
def State.refSt (s : State) (n : Fin 23) : RefSt := s.refs.refs[n]

/-- Hidden state of an oscillator changed. -/
def State.setOsc (s : State) (k : Fin 5) (o : OscSt) : State := { s with refs := { s.refs with osc := s.refs.osc.set k o } }

/-- A bit of a per-reference mask follows a condition. -/
def State.maskBit (s : State) (f : Fld) (n : Nat) (on : Bool) : State := if on then s.raiseBit f 0 n else s.clearBit f 0 n

/-- The expected period of an edge reference is 1 ÷ NOM_FREQ; that of an inlet reference is in its state (R87). -/
def edgeRef (n : Nat) : Bool := decide (n ≤ 7) || (decide (18 ≤ n) && decide (n ≤ 21))

/-- Whether a reference fixes phase (R86). -/
def State.timeRef (s : State) (n : Nat) : Bool :=
  if n ≤ 7 then !s.flag R.REF_CFG_KIND n else !(decide (18 ≤ n) && decide (n ≤ 21))

/-- REF_TTR reads none, which ends DRIFTING (R93). -/
def State.noTtr (s : State) (n : Nat) : State :=
  ((s.set R.REF_TTR n 0xFFFFFFFF).setFlag R.REF_STATE_DRIFTING n false).maskBit R.REF_DRIFT_MASK n false

/-- Y, REF_FREQ and REF_TTR read none (R91). -/
def State.noY (s : State) (n : Nat) : State := ((s.set R.REF_FREQ n 0).setFlag R.REF_STATE_Y_VALID n false).noTtr n

/-- A reference moves to a state, with the cause of a move into ABSENT, SUSPECT or DISQUALIFIED (R91, R93, R94, R95). -/
def State.refMove (s : State) (n : Fin 23) (st : Nat) (cause : Option Nat) : State :=
  let old := s.refState n
  let s := s.set R.REF_STATE_STATE n st
  let s := match cause with
    | some c => s.set R.REF_STATE_CAUSE n c
    | none => s
  let s := s.maskBit R.REF_QUAL_MASK n (st = rQualified)
  let s := if st = rQualified then { s with refs := { s.refs with everQual := true } } else s
  let s := if old ≠ st then s.kinNote 7 else s
  let s := s.maskBit R.REF_SUSPECT_MASK n (st = rSuspect)
  let s := if old = rQualified && st ≠ rQualified then
      let s := (s.set R.REF_WEIGHT n 0).setFlag R.REF_STATE_FREQ_ONLY n false
      { s with refs := { s.refs with pairs := s.refs.pairs.filter fun p => p.a != n.val && p.b != n.val } }
    else s
  let s := if st ≠ rQualified then s.noTtr n else s
  let r := s.refSt n
  let r := { r with lost := false, clean := false, whole := false }
  if st = rDisabled || st = rAbsent then
    let v := if st ≠ rDisabled then r.verdict else if r.rateRun then 3 else 0
    (s.setRef n { r with samples := [], lastOn := none, outside := none, counting := false, ys := [], verdict := v }).noY n
  else if st = rQualifying then
    (s.setRef n { r with counting := false, ys := [], rateRun := false }).set R.REF_STATE_QUAL_ELAPSED n 0
  else s.setRef n r

/-! ### Frequency (R91) -/

/-- The unit of a reference's own time: an edge reference counts its edges, in 2⁻⁴⁸ of a period, and so has this many units in 2⁻⁴⁸ s. -/
def State.ownRate (s : State) (n : Nat) : Nat := if edgeRef n then Nat.max 1 (s.get R.REF_NOM_FREQ n) else 1

/-- y_t from valid samples in units of 1 / `scale`: the slope of the own time, in units of which `f` make 2⁻⁴⁸ s, against LC, less 1. -/
def freqOf (f scale : Nat) (xs : List Sample) : Option Int :=
  match xs with
  | [] => none
  | x0 :: _ =>
    if xs.length < 2 then none
    else
      let (n, d) := lsqSlope (xs.map fun x => ((x.lc : Int) - (x0.lc : Int), x.tau - x0.tau))
      if d ≤ 0 then none else some (roundDiv ((n - d * f) * scale) (d.toNat * f))

/-- REF_ENS_Y in 10⁻¹⁵. -/
def State.ensY15 (s : State) : Int := roundDiv (s.getS R.REF_ENS_Y * 1000000000000000) (2 ^ 64)

/-- Samples of the last 16 s before an LC. -/
def lastSixteen (lc : Nat) (xs : List Sample) : List Sample := xs.filter fun x => decide (lc ≤ x.lc + 16 * 2 ^ 48)

/-- Samples of the last 100 s before an LC, which the frequency estimates of R107 need. -/
def keepSamples (lc : Nat) (xs : List Sample) : List Sample := xs.filter fun x => decide (lc ≤ x.lc + 100 * 2 ^ 48)

/-- A limit of 10⁻¹² units in 10⁻¹⁵. -/
def lim15 (l : Nat) : Nat := l * 1000

/-! ### Servo states (R106) -/

/-- The servo changes state; HOLDOVER sets its events and t. The amount carried from HOLDOVER is the core Leash of the selection tick, that
of the second a boundary begins when the selection is made there; only LOCKED ends it, and restarts LOCK_TIME (R106, R110, R114, R115, R240). -/
def State.setServo (s : State) (v : Nat) : State :=
  let old := s.servo
  if old = v then s
  else
    let s := s.set R.REF_STAT_SERVO 0 v
    let s := s.setFlag R.REF_HOLD_STAT_IN_HOLDOVER 0 (v = 3)
    let s := if v = 3 then s.raiseBit R.REF_EVT_HOLD_ENTERED 0 0 else s
    let s := if old = 3 then (s.raiseBit R.REF_EVT_HOLD_LEFT 0 0).set R.REF_HOLD_ELAPSED 0 0 else s
    let s := { s with refs := { s.refs with lockRun := 0 } }
    let s : State := if v = 2 then
        let s := s.set R.REF_LOCK_TIME 0 0
        { s with refs := { s.refs with everLocked := true, learn := [] }, lsh := { s.lsh with carry := none } }
      else if v = 1 && old = 3 then { s with lsh := { s.lsh with carry := some (s.lsh.due.getD (s.get R.LSH_CORE)) } }
      else s
    s.showHold

/-- What the servo does when the selection is `sel` (R106). At a boundary in LC it also leaves FREE_RUN. -/
def State.servoSel (s : State) (sel : Nat) (changed boundary : Bool) : State :=
  match s.servo with
  | 0 => if boundary && s.inLc && sel ≠ 31 then s.setServo 1 else s
  | 1 => if sel = 31 then (if s.refs.everLocked then s.setServo 3 else s.setServo 0) else s
  | 2 => if sel = 31 then s.setServo 3 else if changed then s.setServo 1 else s
  | _ => if sel ≠ 31 && !s.frozen then s.setServo 1 else s

/-! ### The selector (R97 to R100) -/

/-- Candidates of a RANK, identifiers rising. -/
def State.cands (s : State) (rank : Nat) : List Nat :=
  (List.range 23).filter fun n => s.refState n == rQualified && s.get R.REF_CFG_RANK n == rank

/-- Whether two references disagree (R99): both have a y, further apart than REF_AGREE. -/
def State.disagree (s : State) (a b : Nat) : Bool :=
  s.flag R.REF_STATE_Y_VALID a && s.flag R.REF_STATE_Y_VALID b
    && decide ((s.getS R.REF_FREQ a - s.getS R.REF_FREQ b).natAbs > lim15 (s.get R.REF_AGREE))

/-- Whether a reference lies within ENS_ACCEPT (R99). -/
def State.withinEns (s : State) (n : Nat) : Bool := decide ((s.getS R.REF_FREQ n).natAbs ≤ lim15 (s.get R.REF_ENS_ACCEPT))

/-- The result of selecting within one RANK: who is out of contention. -/
structure Contest where
  st : State
  out : List Nat

/-- INFO of a rank conflict record (R99). -/
def State.conflictInfo (s : State) (a b o : Nat) : List Byte :=
  leBytes 1 a ++ leBytes 1 b ++ leBytes 1 o ++ leBytes 1 0 ++ leBytes 4 (s.get R.REF_FREQ a) ++ leBytes 4 (s.get R.REF_FREQ b)

/-- The equal-rank rule for one pair (R99). A fault is raised for a new pair or a new outcome. -/
def Contest.judge (c : Contest) (x y : Nat) : Contest :=
  let a := Nat.min x y
  let b := Nat.max x y
  let s := c.st
  if !s.disagree a b then c
  else
    let o := if s.withinEns a then 0 else if s.withinEns b then 1 else 2
    let known := s.refs.pairs.any fun p => p.a == a && p.b == b && p.outcome == o
    let s := { s with refs := { s.refs with pairs := (s.refs.pairs.filter fun p => !(p.a == a && p.b == b)) ++ [⟨a, b, o⟩] } }
    let s := if known then s
      else (s.raiseBit R.REF_EVT_RANK_CONFLICT 0 0).raise fsRefRankConflict a (s.conflictInfo a b o)
    let mark := fun (s : State) (n : Nat) =>
      if h : n < 23 then
        if o = 2 then s.refMove ⟨n, h⟩ rSuspect (some 5)
        else (s.setRef ⟨n, h⟩ { s.refSt ⟨n, h⟩ with lost := true }).set R.REF_WEIGHT n 0
      else s
    if o = 0 then ⟨mark s b, b :: c.out⟩
    else if o = 1 then ⟨mark s a, a :: c.out⟩
    else ⟨mark (mark s a) b, a :: b :: c.out⟩

/-- The first pair of a list, in rising order, that disagrees. -/
def State.firstPair (s : State) : List Nat → Option (Nat × Nat)
  | [] => none
  | a :: t => match t.find? (s.disagree a) with
    | some b => some (a, b)
    | none => s.firstPair t

/-- Rules 1 to 3 of R97 among the candidates of one RANK: the choice, if one remains. -/
def State.chooseRank (s : State) (rank sel : Nat) : Option Nat × State :=
  let g := s.cands rank
  let nd := g.filter fun n => !s.flag R.REF_STATE_DRIFTING n
  let g1 := if nd.isEmpty then g else nd
  let c : Contest := ⟨s, []⟩
  let c := if g1.contains sel then (g1.filter (· ≠ sel)).foldl (fun c x => c.judge sel x) c else c
  let rest := g1.filter fun n => n ≠ sel && !c.out.contains n
  let c := match c.st.firstPair rest with
    | some (a, b) => c.judge a b
    | none => c
  let left := g1.filter fun n => !c.out.contains n
  (if left.contains sel then some sel else left.head?, c.st)

/-- Ranks in turn (R97). -/
def State.chooseFrom (s : State) (sel : Nat) : List Nat → Option Nat × State
  | [] => (none, s)
  | r :: rs =>
    match s.chooseRank r sel with
    | (some n, s) => (some n, s)
    | (none, s) => s.chooseFrom sel rs

/-- Pairs that agree again end, and their losers are free again (R99). -/
def State.endPairs (s : State) : State :=
  let keep := s.refs.pairs.filter fun p => s.disagree p.a p.b
  let losers := keep.filterMap fun p => if p.outcome = 0 then some p.b else if p.outcome = 1 then some p.a else none
  let refs := Vector.ofFn fun (n : Fin 23) => { s.refs.refs[n] with lost := losers.contains n.val }
  { s with refs := { s.refs with pairs := keep, refs := refs } }

/-- The selector runs (R97, R98): SEL_REF, its events, and what the servo does with the choice. With REVERT = 0 a selected reference whose
RANK becomes 15 stays selected (log entry 84). -/
def State.select (s : State) (boundary : Bool) : State :=
  let s := s.endPairs
  let sel := s.get R.REF_STAT_SEL_REF
  let stay := !s.flag R.REF_SEL_CFG && sel < 23 && s.refState sel = rQualified && !s.flag R.REF_STATE_DRIFTING sel
  let (pick, s) := if stay then
      match s.chooseRank (s.get R.REF_CFG_RANK sel) sel with
      | (some n, s') => if n = sel then (some sel, s') else s'.chooseFrom sel (List.range 15)
      | (none, s') => s'.chooseFrom sel (List.range 15)
    else s.chooseFrom sel (List.range 15)
  let new := pick.getD 31
  if new = sel then s.servoSel sel false boundary
  else
    let s := (s.set R.REF_STAT_SEL_REF 0 new).bump R.REF_STAT_SEL_CHANGES
    let s := s.raiseBit R.REF_EVT_SEL_CHANGED 0 0
    let freq := new ≠ 31 && !s.timeRef new
    let s := s.setFlag R.REF_STAT_FREQ_ONLY 0 freq
    let s := if sel < 23 then s.setFlag R.REF_STATE_FREQ_ONLY sel false else s
    let s := s.setFlag R.REF_STATE_FREQ_ONLY new (freq && new < 23)
    s.servoSel new true boundary

/-- The selected reference left QUALIFIED: the selector runs at once, and the Leash widens on the tick (R97, R243). -/
def State.selectNow (s : State) (n : Nat) : State :=
  if s.get R.REF_STAT_SEL_REF = n then (s.select false).leashWiden else s

/-! ### Monitors (R88 to R93) -/

/-- Loss of a reference (R88). -/
def State.refLoss (s : State) (n : Fin 23) : State :=
  if s.refState n < rQualifying then s
  else
    let s := (s.refMove n rAbsent (some 1)).bump R.REF_CNT_LOSSES n
    (s.raise fsRefLost n.val).selectNow n

/-- A glitch (R89). -/
def State.glitch (s : State) (n : Fin 23) : State :=
  (s.bump R.REF_CNT_GLITCHES n).setRef n { s.refSt n with secGlitch := (s.refSt n).secGlitch + 1 }

/-- The reference is disqualified, by reject (2) or by a change of rate (3) (R89, R92). -/
def State.disqualify (s : State) (n : Fin 23) (cause : Nat) : State :=
  if s.refState n = rQualifying || s.refState n = rQualified then
    ((s.refMove n rDisqualified (some cause)).raise fsRefDisqualified n.val)
  else s

/-- The model's prediction of the tick's offset in 2⁻⁶⁴ at a temperature, `t` in 2⁻⁴⁸ s after t_last: y0, and the learned ageing and
temperature terms (R110). -/
def State.predict (s : State) (t : Int) (temp : Int) : Int :=
  let d := if s.flag R.REF_HOLD_STAT_LEARNED_D then s.getS R.REF_HOLD_D else 0
  let k := if s.flag R.REF_HOLD_STAT_LEARNED_KT then s.getS R.REF_HOLD_KT else 0
  s.getS R.REF_HOLD_Y0 + roundDiv (d * t * 2 ^ 16) (10 ^ 21) + roundDiv (k * (temp - s.getS R.REF_HOLD_T0) * 2 ^ 64) (16 * 10 ^ 16)

/-- A valid sample of the selected reference at an RT in 2⁻⁴⁸ s: t_last and the temperature then, to which a learned y0 moves along its own
model, and the Leash held then (R110, R111, R115). The temperature is that of the source that KPLL runs from (log entry 85). -/
def State.lastValid (s : State) (n : Nat) (rt : Nat) : State :=
  if s.get R.REF_STAT_SEL_REF = n && s.inLc then
    let temp := s.oscTemp s.kpllEntry
    let s := if s.refs.everLocked then s.set R.REF_HOLD_Y0 0 (trunc 64 (s.predict ((rt : Int) - s.refs.tLast) temp)) else s
    let s := (s.set R.REF_HOLD_T0 0 (trunc 16 temp)).holdBase rt
    { s with lsh := { s.lsh with lLast := s.get R.LSH_CORE } }
  else s

/-- The phase of an edge against the nearest whole second of RT, in 2⁻⁴⁸ s. -/
def secondPhase (rt : Time) : Int :=
  let f := fracOf rt
  if f ≥ 2 ^ 47 then (f : Int) - 2 ^ 48 else f

/-- Scent takes a valid sample of a reference: its own time, the LC of it and its phase against RT (R91). -/
def State.refSample (s : State) (n : Fin 23) (tau : Int) (lc : Time) (phase : Int) (rt : Time) : State :=
  let r := s.refSt n
  let s := s.setRef n { r with samples := { tau := tau, lc := lc.toNat } :: keepSamples lc.toNat r.samples
                               lastEdge := lc.toNat, lastOn := some lc.toNat, outside := none, offset := phase, lastRt := rt }
  let ps := if s.timeRef n then unitsToPs phase else 0
  (s.set R.REF_PHASE n (trunc 64 ps)).lastValid n rt.toNat

/-- Whether an edge lies inside its window (R89): 1 ÷ f after the last on-schedule edge, within 10⁻³ of that or 2 ns. -/
def inWindow (f last lc : Nat) : Bool :=
  let d : Int := ((lc : Int) - last) * f - 2 ^ 48
  decide (d.natAbs * 1000000000 ≤ Nat.max (2 ^ 48 * 1000000) (2 ^ 49 * f))

/-- An edge reference's own time one period after its newest sample. -/
def State.nextTau (s : State) (n : Fin 23) : Int :=
  match (s.refSt n).samples with
  | [] => 0
  | x :: _ => x.tau + 2 ^ 48

/-- An on-schedule edge: a sample of REF0 to REF7; a strobe of an AES3 port only moves the window, since its samples are the port's records
(R89, R358). -/
def State.edgeSample (s : State) (n : Fin 23) (tau : Int) (lc : Time) (rt : Time) : State :=
  if n.val ≤ 7 then s.refSample n tau lc (secondPhase rt) rt
  else s.setRef n { s.refSt n with lastOn := some lc.toNat, outside := none }

/-- Whether a pulse of this width in ps is narrower than MIN_WIDTH, which counts 100 ps (R89, R115). -/
def State.shortPulse (s : State) (n : Nat) (width : Nat) : Bool := decide (width < 100 * s.get R.REF_GLITCH_MIN_WIDTH n)

/-- The width in ps that stands for the strobe of an AES3 decoder: no MIN_WIDTH exceeds it, since a strobe is no pulse of an input. -/
def strobeWidth : Nat := 6553500

/-- An edge of REF0 to REF7 or an AES strobe, whose pulse has a width in ps (R89, R90, R95). -/
def State.refEdge (s : State) (n : Fin 23) (lc : Time) (width : Nat) : State :=
  let st := s.refState n
  let rt := ((s.rtAt lc).map (·.1)).getD s.rt
  let ok := if (s.refSt n).rateRun then 3 else 0
  if st = rDisabled || !edgeRef n then s
  else
  let s := s.setRef n { s.refSt n with lastEdge := lc.toNat }
  let r := s.refSt n
  if s.shortPulse n width then (s.setRef n { r with verdict := 2 }).glitch n
  else match r.lastOn with
    | none =>
      let s := (s.refMove n rQualifying none).edgeSample n 0 lc rt
      s.setRef n { s.refSt n with verdict := 0 }
    | some last =>
      if inWindow (s.get R.REF_NOM_FREQ n) last lc.toNat then
        let s := if r.outside.isSome then s.glitch n else s
        let s := s.edgeSample n (s.nextTau n) lc rt
        s.setRef n { s.refSt n with verdict := ok }
      else if r.outside.isNone then s.setRef n { r with outside := some lc.toNat, verdict := if r.rateRun then 3 else 1 }
      else
        let s := s.disqualify n 3
        let s := s.setRef n { s.refSt n with samples := if n.val ≤ 7 then [{ tau := 0, lc := lc.toNat }] else []
                                             lastOn := some lc.toNat
                                             outside := none, rateRun := true, verdict := 3 }
        (s.noY n).selectNow n

/-- The drift detector for one QUALIFIED reference (R93): TTR from the slope of the y of the last DRIFT_WIN seconds. -/
def State.driftEval (s : State) (n : Fin 23) : State :=
  let win := s.get R.REF_DRIFT_WIN
  let ys := (s.refSt n).ys
  if s.refState n ≠ rQualified || !s.flag R.REF_STATE_Y_VALID n || !s.refs.ensYGiven || ys.length < win then s.noTtr n
  else
    let (num, den) := lsqSlope ((ys.filter fun p => decide (s.rtSec < p.1 + win)).map fun p => ((p.1 : Int), p.2))
    let y := s.getS R.REF_FREQ n
    let rej := lim15 (s.get R.REF_REJECT n)
    let h := s.get R.REF_DRIFT_HORIZON
    let away := num = 0 || den ≤ 0 || (decide (num < 0) != decide (y < 0))
    let gap := (rej - y.natAbs) * den.toNat
    let below := fun (lim : Nat) => decide (gap < lim * num.natAbs)
    let was := s.flag R.REF_STATE_DRIFTING n
    if away then s.noTtr n
    else
      let s := s.set R.REF_TTR n (Nat.min (gap / num.natAbs) 0xFFFFFFFE)
      if !was && below h then
        let s := (s.setFlag R.REF_STATE_DRIFTING n true).maskBit R.REF_DRIFT_MASK n true
        (s.raiseBit R.REF_EVT_DRIFT_FLAGGED 0 0).raise fsRefDrifting n.val
      else if was && !below (2 * h) && decide (gap ≠ 2 * h * num.natAbs) then
        (s.setFlag R.REF_STATE_DRIFTING n false).maskBit R.REF_DRIFT_MASK n false
      else s

/-- Scent at a boundary event for one reference (R91 to R96): y, then reject, then glitches, timers and drift. -/
def State.refBoundary1 (s : State) (n : Fin 23) : State :=
  let st := s.refState n
  if st < rQualifying then s.setRef n { s.refSt n with secGlitch := 0 }
  else
    let r := s.refSt n
    let xs := keepSamples s.time.lc.toNat r.samples
    let y := (freqOf (s.ownRate n) (10 ^ 15) (lastSixteen s.time.lc.toNat xs)).map fun y => y + (if s.refs.ensYGiven then s.ensY15 else 0)
    let s := s.setRef n { r with samples := xs, secGlitch := 0
                                 ys := match y with
                                   | some v => ((s.rtSec, v) :: r.ys).take (s.get R.REF_DRIFT_WIN)
                                   | none => r.ys }
    let s := match y with
      | some v => (s.set R.REF_FREQ n (trunc 32 v)).setFlag R.REF_STATE_Y_VALID n true
      | none => s.noY n
    let judged := y.isSome && s.refs.ensYGiven
    let m := (y.getD 0).natAbs
    let accept := judged && decide (m < lim15 (s.get R.REF_ACCEPT n))
    let reject := judged && decide (m ≥ lim15 (s.get R.REF_REJECT n))
    let noisy := decide (r.secGlitch > s.get R.REF_GLITCH_GLITCH_MAX n)
    if reject && (st = rQualifying || st = rQualified) then s.disqualify n 2
    else if noisy && st = rQualified then s.refMove n rSuspect (some 4)
    else if noisy && st = rQualifying then
      (s.setRef n { s.refSt n with counting := false }).set R.REF_STATE_QUAL_ELAPSED n 0
    else if st = rQualifying then
      if !judged then s
      else if !accept then (s.setRef n { s.refSt n with counting := false }).set R.REF_STATE_QUAL_ELAPSED n 0
      else if !(s.refSt n).counting then s.setRef n { s.refSt n with counting := true }
      else
        let s := s.bump R.REF_STATE_QUAL_ELAPSED n
        if s.get R.REF_STATE_QUAL_ELAPSED n ≥ s.get R.REF_QUAL n then s.refMove n rQualified none else s
    else if st = rDisqualified then
      if !accept then s.setRef n { s.refSt n with clean := false }
      else if (s.refSt n).clean then s.refMove n rQualifying none
      else s.setRef n { s.refSt n with clean := true }
    else if st = rSuspect then
      let limit := if s.get R.REF_STATE_CAUSE n = 5 then lim15 (s.get R.REF_ENS_ACCEPT) else lim15 (s.get R.REF_ACCEPT n)
      if r.whole && judged && decide (m < limit) && !noisy then s.refMove n rQualifying none else s
    else s.driftEval n

/-- ENABLE of every reference and oscillator after a parameter switch (R95, R102). -/
def State.refEnables (s : State) : State :=
  let s := (List.finRange 23).foldl (fun s n =>
    let on := s.flag R.REF_CFG_ENABLE n
    if !on && s.refState n ≠ rDisabled then (s.refMove n rDisabled none).selectNow n
    else if on && s.refState n = rDisabled then s.refMove n rAbsent (some 0) else s) s
  s

/-- From a boundary on, every reference has been in its state for the whole of the second that begins (R95). -/
def State.wholeSeconds (s : State) : State := { s with refs := { s.refs with refs := s.refs.refs.map fun r => { r with whole := true } } }

/-- Four expected periods without an edge or record (R87, R88). -/
def State.refOverdue (s : State) (n : Fin 23) : Bool :=
  let r := s.refSt n
  if edgeRef n then s.past r.lastEdge 4 (s.ownRate n) else s.past r.lastEdge (4 * r.period) (2 ^ 48)

/-! ### Oscillators (R102 to R105, R109) -/

/-- OSC_STATE.STATE. -/
def State.oscState (s : State) (k : Nat) : Nat := s.get R.OSC_STATE_STATE k

/-- An enabled oscillator with a stability word at zero (R102). -/
def State.oscMissing (s : State) (k : Nat) : Bool :=
  s.get R.OSC_SIGMA1 k == 0 || s.get R.OSC_RWFM k == 0 || s.get R.OSC_AGE_BOUND k == 0
    || (s.get R.OSC_TEMPCO_TEMPCO k == 0 && s.get R.OSC_TEMPCO_TEMPCO_RES k == 0)

/-- An oscillator moves to a state. -/
def State.oscMove (s : State) (k : Fin 4) (st : Nat) : State :=
  let k5 : Fin 5 := ⟨k.val, by omega⟩
  let s := s.set R.OSC_STATE_STATE k st
  let s := if st ≠ 2 then s.set R.OSC_STATE_WEIGHT k 0 else s
  s.setOsc k5 { s.refs.osc[k5] with since := s.time.lc.toNat, memberFor := 0, samples := if st = 0 then [] else s.refs.osc[k5].samples }

/-- ENSEMBLE_EMPTY and OSC_PARAM_MISSING follow the oscillators (R102). -/
def State.oscSync (s : State) : State :=
  let empty := !((List.range 4).any fun k => s.oscState k == 2)
  let s := if empty && !s.active fsEnsembleEmpty then s.raiseBit R.REF_EVT_ENSEMBLE_EMPTY 0 0 else s
  let s := s.level fsEnsembleEmpty empty
  s.level fsOscParamMissing ((List.range 4).any fun k => s.oscState k == 1 && s.oscMissing k)

/-- An oscillator's FIN in Hz, from its KPLL source entry (R403). -/
def State.oscFin (s : State) (k : Nat) : Nat :=
  (([5, 10, 20, 25, 40, 100] : List Nat)[(s.store (0xB80 + 4 * k)).toNat % 16]?).getD 10 * 1000000

/-- y_t of an oscillator in units of 1 / `scale`, with the tick taken as exact, over the last 16 s of its records (R91, R102). -/
def State.oscYt (s : State) (k : Fin 4) (scale : Nat) : Option Int :=
  freqOf (s.oscFin k) scale (lastSixteen s.time.lc.toNat (s.refs.osc[(⟨k.val, by omega⟩ : Fin 5)]).samples)

/-- The oscillators. -/
def oscs : List (Fin 4) := [0, 1, 2, 3]

/-- Each oscillator's own model takes its present frequency against the ensemble, when it joins and when the servo has set the ensemble by a
reference (R105; log entry 88). -/
def State.oscModel (s : State) (k : Fin 4) : State :=
  let k5 : Fin 5 := ⟨k.val, by omega⟩
  match s.oscYt k (2 ^ 64) with
  | some y => s.setOsc k5 { s.refs.osc[k5] with pred := y + s.getS R.REF_ENS_Y }
  | none => s

/-- OSC_FREQ: y_i − y_ens of each oscillator that is measured (R102). -/
def State.oscFreqs (s : State) : State :=
  oscs.foldl (fun s k => match s.oscYt k (10 ^ 15) with
    | some y => s.set R.OSC_FREQ k (trunc 32 (y + s.ensY15))
    | none => s) s

/-- The ensemble of the running second (R105): its phase moves as the weighted mean of the members' phases does, each against the phase that
its own model predicts, so REF_ENS_Y is the mean of what each member says of the tick. Until a reference has been QUALIFIED R485 gives
REF_ENS_Y. -/
def State.ensemble (s : State) : State :=
  let ms := (oscs.filter fun (k : Fin 4) => s.oscState k == 2).filterMap fun (k : Fin 4) =>
    (s.oscYt k (2 ^ 64)).map fun y => (s.get R.OSC_STATE_WEIGHT k, (s.refs.osc[(⟨k.val, by omega⟩ : Fin 5)]).pred - y)
  let w := (ms.map (·.1)).sum
  if !s.refs.everQual || s.frozen || w = 0 then s
  else s.set R.REF_ENS_Y 0 (trunc 64 (roundDiv (ms.map fun p => (p.1 : Int) * p.2).sum w))

/-- Oscillators at a boundary event: the ensemble and the members' frequencies against it, ENABLE, exclusion, and the return of a MEMBER that
lost a stability word to WARMUP. -/
def State.oscBoundary (s : State) : State :=
  let s := s.ensemble.oscFreqs
  let s := oscs.foldl (fun s k =>
    let k5 : Fin 5 := ⟨k.val, by omega⟩
    let st := s.oscState k
    if !s.flag R.OSC_CFG_ENABLE k then (if st = 0 then s else s.oscMove k 0)
    else if st = 2 then
      if s.oscMissing k then s.oscMove k 1
      else if (s.getS R.OSC_FREQ k).natAbs ≥ lim15 (s.get R.OSC_REJECT k) then
        ((s.oscMove k 3).raiseBit R.REF_EVT_OSC_EXCLUDED 0 0).raise fsOscExcluded k.val
      else s.setOsc k5 { s.refs.osc[k5] with memberFor := s.refs.osc[k5].memberFor + 1 }
    else s) s
  let s := s.tintNow
  let osc := Vector.ofFn fun (k : Fin 5) => { s.refs.osc[k] with recent := (s.oscTemp k :: s.refs.osc[k].recent).take 4 }
  { s with refs := { s.refs with osc := osc } }.oscSync

/-- A TDC record of an oscillator is admitted, of the channel that measures it (R102, R105): `step` edges after the previous one. A record
without VALID is no sample. -/
def State.oscRecord (s : State) (k : Fin 4) (lc step : Nat) (valid : Bool) : State :=
  let k5 : Fin 5 := ⟨k.val, by omega⟩
  let o := s.refs.osc[k5]
  let e := o.edges + step
  s.setOsc k5 { o with edges := e, samples := if valid then { tau := (e : Int) * 2 ^ 48, lc := lc } :: keepSamples lc o.samples else o.samples }

/-! ### Meanings -/

/-- REF_EDGE (R89). -/
def execRefEdge (id : Fin 23) (lc : Time) (width : Nat) (s : State) : Host.Outcome State Fault Refusal :=
  done (s.refEdge id lc width)

/-- REF_LOSS_TIMEOUT (R88). -/
def execRefLossTimeout (id : Fin 23) (s : State) : Host.Outcome State Fault Refusal :=
  done (s.when_ (s.refOverdue id) fun s => s.refLoss id)

/-- OSC_EDGE_SEEN (R102). -/
def execOscEdgeSeen (k : Fin 4) (lc : Time) (s : State) : Host.Outcome State Fault Refusal :=
  let k5 : Fin 5 := ⟨k.val, by omega⟩
  let s := s.setOsc k5 { s.refs.osc[k5] with lastEdge := lc.toNat }
  done (s.when_ (s.flag R.OSC_CFG_ENABLE k && s.oscState k == 0) fun s => (s.oscMove k 1).oscSync)

/-- OSC_LOSS_TIMEOUT (R102): 4 periods of FIN without an edge. -/
def execOscLossTimeout (k : Fin 4) (s : State) : Host.Outcome State Fault Refusal :=
  let k5 : Fin 5 := ⟨k.val, by omega⟩
  done (s.when_ (s.oscState k != 0 && s.past s.refs.osc[k5].lastEdge 4 (s.oscFin k)) fun s => (s.oscMove k 0).oscSync)

/-- OSC_WARMUP_END (R102): the WARMUP seconds are over; the first oscillator joins without a comparison while no reference has given
REF_ENS_Y. -/
def execOscWarmupEnd (k : Fin 4) (s : State) : Host.Outcome State Fault Refusal :=
  let k5 : Fin 5 := ⟨k.val, by omega⟩
  let first := !s.refs.ensYFromRef && !(oscs.any fun j => s.oscState j == 2)
  let near := decide ((s.getS R.OSC_FREQ k).natAbs < lim15 (s.get R.OSC_REJECT k))
  let over_ := s.past s.refs.osc[k5].since (10 * s.get R.OSC_CFG_WARMUP k)
  done (s.when_ (s.oscState k == 1 && over_ && !s.oscMissing k && (first || near)) fun s => ((s.oscMove k 2).oscModel k).oscSync)

/-- OSC_EXCLUDE_END (R102): 60 s after exclusion. -/
def execOscExcludeEnd (k : Fin 4) (s : State) : Host.Outcome State Fault Refusal :=
  let k5 : Fin 5 := ⟨k.val, by omega⟩
  done (s.when_ (s.oscState k == 3 && s.past s.refs.osc[k5].since 60) fun s => (s.oscMove k 1).oscSync)

/-- TEMP_STALE_TIMEOUT (R109): 5 s without a write of OSC_TEMP. -/
def execTempStaleTimeout (k : Fin 4) (s : State) : Host.Outcome State Fault Refusal :=
  let k5 : Fin 5 := ⟨k.val, by omega⟩
  done (s.when_ (s.flag R.OSC_CFG_TEMP_SRC k && !s.refs.osc[k5].stale && s.past s.refs.osc[k5].tempAt 5) fun s =>
    let s := s.tintNow
    let s := s.setOsc k5 { s.refs.osc[k5] with stale := true }
    (s.raiseBit R.REF_EVT_TEMP_STALE 0 0).raise fsTempStale k.val)

end Sys2Proof.Machine
end

