-- ==== Sys2Proof/Machine/PortBase.lean ====
section
/-! DEFINITION. What the rest of the block needs of the ports: their hidden state, DEGRADED (R169), and the hold that a step order puts
on launches (R196). Links are numbered as attachments: Pack links 0 to 3, then P0 to P63 (R324). -/

namespace Sys2Proof.Machine

/-- The hidden state of a link. -/
def State.link (s : State) (i : Fin 68) : PortSt := s.prt.link[i]

/-- The state with a link's hidden state replaced. -/
def State.setLink (s : State) (i : Fin 68) (x : PortSt) : State := { s with prt := { s.prt with link := s.prt.link.set i x } }

/-- The launch queues of a port. -/
def State.lport (s : State) (p : Fin 64) : LchPort := s.prt.port[p]

/-- The state with a port's launch queues replaced. -/
def State.setLport (s : State) (p : Fin 64) (x : LchPort) : State := { s with prt := { s.prt with port := s.prt.port.set p x } }

/-- A port as an attachment (R324). -/
def attOf (p : Fin 64) : Fin 68 := ⟨p.val + 4, by omega⟩

/-- The port of an attachment, if it is one. -/
def portOf (i : Fin 68) : Option (Fin 64) := if h : 4 ≤ i.val then some ⟨i.val - 4, by omega⟩ else none

/-- The group whose crossing a link uses: PG0 to PG7, or 8 for PCK (R170, R338). -/
def groupOf (i : Fin 68) : Fin 9 := ⟨if i.val < 4 then 8 else (i.val - 4) / 8, by split <;> omega⟩

/-- Whether the group of a link has REGION_SKEW (R171, R338). -/
def State.linkSkew (s : State) (i : Fin 68) : Bool :=
  if i.val < 4 then s.flag R.PCK_LINK_STAT_REGION_SKEW i else s.flag R.PRT_PG_STAT_REGION_SKEW ((i.val - 4) / 8)

/-- Whether a link's RECAL_STALE is set (R178). -/
def State.linkStale (s : State) (i : Fin 68) : Bool :=
  if i.val < 4 then (s.link i).stale else s.flag R.PRT_STAT_RECAL_STALE (i.val - 4)

/-- Whether a timestamp of a link carries DEGRADED (R169). -/
def State.linkDegraded (s : State) (i : Fin 68) : Bool :=
  let g := groupOf i
  let reader := if i.val < 4 then 10 else g.val
  s.linkSkew i || decide ((s.time.readerDegr[reader]?).getD 0 > s.time.tick) || decide (s.prt.group[g].meas < 17) || (s.link i).recalBad
    || s.linkStale i

/-- DEGRADED of one link follows; a port that becomes degraded sets DEGRADED_SET (R187). -/
def State.degrSync1 (s : State) (i : Fin 68) : State :=
  let on := s.linkDegraded i
  match portOf i with
  | none => s.setFlag R.PCK_LINK_STAT_DEGRADED i on
  | some p =>
    let was := s.flag R.PRT_STAT_DEGRADED p
    if was == on then s
    else
      let s := s.setFlag R.PRT_STAT_DEGRADED p on
      if on then s.raiseBit R.PRT_EVT p 8 else s

/-- DEGRADED of every link follows (R169). -/
def State.degrSync (s : State) : State := (List.finRange 68).foldl (fun s i => s.degrSync1 i) s

/-! ### Gated units (R15, R16) -/

/-- Whether a unit is gated. -/
def State.gated (s : State) (u : Nat) : Bool := (s.get R.PWR_GATE_STAT_GATED).testBit u

/-- What a block does: nothing while its unit is gated (R15). -/
def State.run (s : State) (u : Nat) (f : State → State) : State := if s.gated u then s else f s

/-- The unit of R407 that a link belongs to: its port group, or PCK. -/
def unitOf (i : Fin 68) : Nat := if i.val < 4 then 10 else (i.val - 4) / 8

/-! ### Latency (R165, R187) -/

/-- The mode in use: a Pack link runs MODE 2 (R182, R324). -/
def State.linkMode (s : State) (i : Fin 68) : Nat :=
  match portOf i with
  | none => 2
  | some p => s.get R.PRT_STAT_MODE_ACT p

/-- The sealed-store offset of a link's latency table in use (R172, R338). -/
def State.tableOff (s : State) (i : Fin 68) : Nat :=
  match portOf i with
  | none => 0xF00 + i.val * 0x30
  | some p => latOff p (Nat.min (s.linkMode i) 4)

/-- A signed 32-bit field of a link's table. -/
def State.tab32 (s : State) (i : Fin 68) (f : Nat) : Int := (s.store (s.tableOff i + f)).toInt

/-- A signed 16-bit field of a link's table. -/
def State.tab16 (s : State) (i : Fin 68) (f : Nat) : Int := sext 16 ((s.store (s.tableOff i + f / 4 * 4)).toNat / 2 ^ (8 * (f % 4)))

/-- The temperature of a link's group, 1/16 °C. -/
def State.linkTemp (s : State) (i : Fin 68) : Int :=
  if i.val < 4 then s.getS R.PWR_TEMP 2 else s.getS R.PRT_PG_TEMP_T_PG ((i.val - 4) / 8)

/-- recal_tx or recal_rx of a link, 1/16 ps (R177). -/
def State.recalOf (s : State) (i : Fin 68) (tx : Bool) : Int :=
  match portOf i with
  | none => (s.link i).recalTerm
  | some p => if tx then s.getS R.PRT_RECAL_TX p else s.getS R.PRT_RECAL_RX p

/-- lat_tx or lat_rx in 1/4,096 ps (R165). -/
def State.lat4096 (s : State) (i : Fin 68) (tx : Bool) : Int :=
  let base := if tx then s.tab32 i 0x04 + s.tab32 i 0x0C else s.tab32 i 0x08 + s.tab32 i 0x10
  let tc := if tx then s.tab16 i 0x1C else s.tab16 i 0x1E
  base * 256 + tc * (s.linkTemp i - s.tab16 i 0x20) + s.recalOf i tx * 256

/-- PRT_LAT_TX or PRT_LAT_RX (R187). -/
def State.latReg (s : State) (i : Fin 68) (tx : Bool) : Nat := trunc 32 (roundDiv (s.lat4096 i tx) 256)

/-- PRT_LAT_TX, PRT_LAT_RX and PRT_LAT_GEN show what a port uses; in a gated group they stand (R16, R187). -/
def State.latSync (s : State) (p : Fin 64) : State :=
  let i := attOf p
  s.run (unitOf i) fun s =>
    ((s.set R.PRT_LAT_TX p (s.latReg i true)).set R.PRT_LAT_RX p (s.latReg i false)).set R.PRT_LAT_GEN p (s.get R.KNL_PARAM_GEN)

/-- The Kennel has refreshed the copies of the latency tables (R20, R70). -/
def State.latRefresh (s : State) : State := (List.finRange 64).foldl (fun s p => s.latSync p) s

/-! ### Step orders -/

/-- The RT millisecond of now. -/
def State.rtMs (s : State) : Nat := s.rt.toNat * 1000 / 2 ^ 48

/-- After a step order no frame starts at an instant before it (R196), and the cycle that RT lies in is not past (R192). -/
def State.launchAgain (s : State) : State :=
  let q := s.prt.port.map fun q => { q with from_ := s.time.lc.toNat, maskRt := 0 }
  { s with prt := { s.prt with port := q, cycle := Nat.min s.prt.cycle s.rtMs } }

end Sys2Proof.Machine
end

