-- ==== Sys2Proof/Machine/GnsClk.lean ====
section
/-! DEFINITION. The sample clock of the Galileo E1 receiver and what its loss stops (R141, R143 to R145). -/

namespace Sys2Proof.Machine

/-- RX_STATE of R144. -/
def rxOff := 0
def rxAcquire := 1
def rxCont := 2
def rxBurst := 3
def rxSnapshot := 4

/-- GNS_STAT.RX_STATE. -/
def State.rx (s : State) : Nat := s.get R.GNS_STAT_RX_STATE

/-- The Scout E3 runs. -/
def State.scoutUp (s : State) : Bool := s.engState 3 == stRunning || s.engState 3 == stWaiting

/-- The hidden state of GNS changed. -/
def State.setGns (s : State) (g : GnsSt) : State := { s with gns := g }

/-- The Scout moves to a state and writes the mode that goes with it (R144). -/
def State.rxMove (s : State) (st mode : Nat) : State :=
  ((s.set R.GNS_STAT_RX_STATE 0 st).set R.GNS_CTRL_MODE 0 mode).setGns { s.gns with rxSec := s.rtSec, weakSince := none }

/-- A GNS event bit. -/
def State.gnsEvt (s : State) (b : Nat) : State := s.raiseBit R.GNS_EVT 0 b

/-- GSI_EN falls when a burst ends, with FE_GATE = 1 (R145). -/
def State.feDown (s : State) : State :=
  if s.flag R.GNS_CFG_FE_GATE then s.setGns { s.gns with gsiEn := false } else s

/-- A burst or capture that runs is discarded (R141). -/
def State.burstDrop (s : State) : State :=
  if s.flag R.GNS_STAT_BURST_ACTIVE then
    let s := s.setGns { s.gns with cap := s.gns.cap.map fun c => (c.1, c.2.1, true) }
    ((((s.idleNow 0).setFlag R.GNS_STAT_BURST_ACTIVE 0 false).feDown).bump R.GNS_CNT_BURSTS_DISCARDED).obs 0x08 1
  else s

/-- The sample clock is lost (R141); the Scout goes to OFF (R144). -/
def State.gsiLoss (s : State) : State :=
  if !s.flag R.GNS_STAT_CLK_OK then s
  else
    let s := ((s.setFlag R.GNS_STAT_CLK_OK 0 false).gnsEvt 1).burstDrop
    let s := if s.scoutUp then s.rxMove rxOff 0 else s
    s.levelOn fsGnssClk

/-- The synthesis PLL that feeds CLK_OUT is out of bypass (R141). -/
def State.gsiPll (s : State) : Bool := !(s.get R.SYN_STAT_BYPASS).testBit (s.get R.GNS_CFG_CLK_OUT / 4)

/-- A PLL has gone to bypass, or CLK_OUT names another output: the sample clock is lost where its PLL is in bypass (R141). -/
def State.gsiCheck (s : State) : State := if s.gsiPll then s else s.gsiLoss

end Sys2Proof.Machine
end

