-- ==== Sys2Proof/Machine/Syn.lean ====
section
/-! DEFINITION. Output synthesis: PLLs, double-buffered dividers, outputs, Heel and time-of-day (R304 to R323). -/

namespace Sys2Proof.Machine

/-- The active copy of a shadowed field (R323). -/
def Fld.act (f : Fld) : Fld := { f with addr := f.addr + 0x800 }

/-- A shadowed field, from the shadow or the active copy. -/
def State.sh (s : State) (act : Bool) (f : Fld) (i : Nat) : Nat := s.get (if act then f.act else f) i

/-- The PLL that drives an output. -/
def pllOf (j : Nat) : Nat := j / 4

/-- f_vco in Hz as a fraction (R304, R305): 100 MHz × N, or the divided reference × N. -/
def State.vco (s : State) (act : Bool) (k : Nat) : Nat × Nat :=
  let d := s.sh act R.SYN_SP_N_DEN k
  let n := s.sh act R.SYN_SP_N_INT k * d + s.sh act R.SYN_SP_N_NUM k
  if s.sh act R.SYN_SP_CFG_MODE k = 2
  then (s.get R.REF_NOM_FREQ (s.sh act R.SYN_SP_CFG_SRC k) * n, d * s.sh act R.SYN_SP_CFG_R_DIV k)
  else (100000000 * n, d)

/-- The period of an output in seconds as a fraction (R311). -/
def State.outPeriod (s : State) (act : Bool) (j : Nat) : Nat × Nat :=
  if s.sh act R.SYN_OUT_CFG_KIND j = 1 then (s.sh act R.SYN_OUT_PER_NUM j, s.sh act R.SYN_OUT_PER_DEN j * 1000000000)
  else
    let (n, d) := s.vco act (pllOf j)
    (s.sh act R.SYN_OUT_DIV j * d, n)

/-- The offset of an output in ps (R312). -/
def State.outOffset (s : State) (act : Bool) (j : Nat) : Int :=
  sext 32 (s.sh act R.SYN_OUT_OFFSET0 j) * 1000 + s.sh act R.SYN_OUT_OFFSET1_OFFSET_PS j

/-- COARSE and FINE of an output (R312), over a common denominator of 1/16 ps parts of the VCO period. -/
def State.outDelay (s : State) (j : Nat) : Nat × Nat :=
  let (vn, vd) := s.vco true (pllOf j)
  let (pn, pd) := s.outPeriod true j
  if vn = 0 || vd = 0 || pd = 0 || pn = 0 then (0, 0)
  else
    -- times as numbers over the denominator 16 · vn · pd (ps)
    let tv := 1000000000000 * vd * 16 * pd
    let p := 1000000000000 * pn * 16 * vn
    let sh16 := s.outOffset true j * 16 - s.getS R.SYN_OUT_CAL j
    let shift := (Int.fmod (sh16 * (vn * pd)) p).toNat
    let coarse := shift / tv
    let fine := (roundDiv (((shift - coarse * tv) * 128 : Nat) : Int) tv).toNat
    let (coarse, fine) := if fine = 128 then (coarse + 1, 0) else (coarse, fine)
    (if s.sh true R.SYN_OUT_CFG_KIND j = 1 then 0 else coarse, fine)

/-- The interval between edges that a channel records, in seconds as a fraction (R120, R316). -/
def State.tiInterval (s : State) (c : Nat) : Nat × Nat :=
  (s.get R.TIM_RECDIV c * 2 ^ s.get R.TIM_CFG_PRESC c, s.get R.REF_NOM_FREQ (Nat.min (s.get R.TIM_CFG_SRC c) 22))

/-! ### Validity of a commit (R309) -/

/-- Duration of a serial message in ms, rounded up: 38 characters of NMEA or 24 of ZTOD, ten bits each (R319). -/
def todMs (kind baud : Nat) : Nat :=
  let b := if baud = 0 then 9600 else if baud = 1 then 19200 else if baud = 2 then 38400 else if baud = 3 then 57600 else 115200
  ceilDiv ((if kind = 2 then 380 else 240) * 1000) b

/-- The configuration of output `j` as it would be after PLL `k` commits: its own shadow, or the active copy of another
PLL's output. -/
def State.afterCommit (s : State) (k j : Nat) (f : Fld) : Nat := s.sh (decide (pllOf j ≠ k)) f j

/-- Whether an output is a differential pair: OUT0 to OUT11 are, OUT12 to OUT15 are single-ended (R497). -/
def outPair (j : Nat) : Bool := decide (j < 12)

/-- What is wrong with output `j` of PLL `k`, as a REFUSE_CODE; 0 nothing (R304, R311, R316, R319, R321). -/
def State.outRefuse (s : State) (k j mode : Nat) : Nat :=
  let kind := s.sh false R.SYN_OUT_CFG_KIND j
  let (pn, pd) := s.outPeriod false j
  if mode ≠ 0 && kind ≠ 0 && mode ≠ 1 then 5
  else if kind > 4 then 5
  else if kind = 0 then
    let div := s.sh false R.SYN_OUT_DIV j
    let (vn, vd) := s.vco false k
    let limit := if outPair j then 1500000000 else 250000000
    if div < 4 || (mode ≠ 0 && vn > limit * vd * div) then 3 else 0
  else if kind = 1 then
    let den := s.sh false R.SYN_OUT_PER_DEN j
    let num := s.sh false R.SYN_OUT_PER_NUM j
    let w := s.sh false R.SYN_OUT_WIDTH j
    if den = 0 || num < 1000 * den || num > 4294967295 * den || w < 10 || (w + 10) * den > num then 4
    else if s.sh false R.SYN_OUT_CFG_HEEL_EN j = 1 then
      let (sn, sd) := s.tiInterval (s.sh false R.SYN_OUT_CFG_HEEL_TI j)
      -- (sn / sd) ÷ (pn / pd) must be whole
      if sd = 0 || sn = 0 || sn * pd % (sd * pn) ≠ 0 then 6 else 0
    else 0
  else
    let p := s.sh false R.SYN_OUT_CFG_TOD_PPS j
    let lag := s.sh false R.SYN_OUT_OFFSET1_TOD_LAG j
    let num := s.afterCommit k p R.SYN_OUT_PER_NUM
    let den := s.afterCommit k p R.SYN_OUT_PER_DEN
    if s.afterCommit k p R.SYN_OUT_CFG_KIND ≠ 1 || s.sh (decide (pllOf p ≠ k)) R.SYN_SP_CFG_MODE (pllOf p) ≠ 1 then 7
    else if kind = 4 then (if num ≠ 1000000000 * den then 7 else 0)
    else if lag < 1 || lag > 900 || s.sh false R.SYN_OUT_CFG_TOD_BAUD j > 4 then 8
    else if (lag + todMs kind (s.sh false R.SYN_OUT_CFG_TOD_BAUD j) + 10) * 1000000 * den > num then 8
    else 0

/-- Why the shadow of a PLL is refused; 0 when it is valid (R309, R323). Codes are tried in rising order within the PLL, then
output by output (log entry 13). -/
def State.commitRefuse (s : State) (k : Nat) : Nat :=
  let mode := s.sh false R.SYN_SP_CFG_MODE k
  let den := s.sh false R.SYN_SP_N_DEN k
  let (vn, vd) := s.vco false k
  let rdiv := s.sh false R.SYN_SP_CFG_R_DIV k
  let src := s.sh false R.SYN_SP_CFG_SRC k
  let pd := s.get R.REF_NOM_FREQ src
  if den = 0 || s.sh false R.SYN_SP_N_NUM k ≥ den then 2
  else if mode = 3 then 5
  else if mode = 2 && rdiv = 0 then 2
  else if mode = 2 && !s.flag R.REF_CFG_KIND src then 5
  else if mode = 2 && (pd < 1000000 * rdiv || pd > 100000000 * rdiv) then 1
  else if mode ≠ 0 && (vn < 4800000000 * vd || vn > 5994000000 * vd) then 1
  else match (List.range 4).map (fun i => s.outRefuse k (4 * k + i) mode) |>.find? (· ≠ 0) with
    | some c => c
    | none => 0

/-! ### Commit and lock -/

/-- SYN_SP_STAT.STATE. -/
def State.pllState (s : State) (k : Nat) : Nat := s.get R.SYN_SP_STAT_STATE k

/-- One PLL's hidden state changed. -/
def State.setPll (s : State) (k : Fin 4) (p : SynPll) : State := { s with syn := { s.syn with pll := s.syn.pll.set k p } }

/-- One output's hidden state changed. -/
def State.setSynOut (s : State) (j : Fin 16) (o : SynOut) : State := { s with syn := { s.syn with out := s.syn.out.set j o } }

/-- An event bit of SYN_EVT (R323). -/
def State.synEvt (s : State) (b : Nat) : State := s.raiseBit R.SYN_EVT 0 b

/-- Whether the reference of a PLL is present (R308). -/
def State.pllRef (s : State) (k : Nat) : Bool :=
  let mode := s.sh true R.SYN_SP_CFG_MODE k
  if mode = 1 then s.get R.TIM_STAT_TB_STATE = 0 || s.get R.TIM_STAT_TB_STATE = 2
  else if mode = 2 then s.get R.REF_STATE_STATE (s.sh true R.SYN_SP_CFG_SRC k) = 3
  else false

/-- What an output does while its PLL is not LOCKED (R308): off, bypass from XTAL, or held low. -/
def State.outBypass (s : State) (j : Nat) : Nat :=
  if !s.flag R.SYN_OUT_EN j || s.pllState (pllOf j) = 0 then 0
  else if s.sh true R.SYN_OUT_CFG_KIND j = 0 && s.sh true R.SYN_OUT_CFG_BYP_ACT j = 1 then 3 else 4

/-- All outputs of a PLL go to bypass, and its BYPASS bit is set; GNS loses its sample clock where one of them feeds it (R141, R308). -/
def State.bypassOuts (s : State) (k : Nat) : State :=
  let s := s.raiseBit R.SYN_STAT_BYPASS 0 k
  (s.forN 4 fun i s => s.set R.SYN_OUT_STAT_STATE (4 * k + i) (s.outBypass (4 * k + i))).gsiCheck

/-- A PLL enters a state other than LOCKED. -/
def State.pllEnter (s : State) (k : Fin 4) (st : Nat) : State :=
  let s := s.set R.SYN_SP_STAT_STATE k st
  let s := s.setPll k { s.syn.pll[k] with steps := if st = 1 then 0 else s.syn.pll[k].steps, since := s.time.lc.toNat }
  let s := s.setFlag R.SYN_SP_STAT_LKF_HIGH k false
  let s := s.bypassOuts k
  if st = 4 then ((s.bump R.SYN_SP_CNT_RELOCKS k).synEvt (4 + k.val)).raise fsSynLockLost k.val
  else if st = 5 then (s.synEvt (8 + k.val)).raise fsSynFail k.val
  else s

/-- COARSE and FINE of an output show its active configuration (R312). -/
def State.showDelay (s : State) (j : Nat) : State :=
  let (c, f) := s.outDelay j
  (s.set R.SYN_OUT_DELAY j c).set R.SYN_OUT_FINE j f

/-- An enabled output of a LOCKED PLL waits for the first rising edge of its grid (R310, R313). -/
def State.outRealign (s : State) (j : Nat) : State :=
  if s.flag R.SYN_OUT_EN j && s.pllState (pllOf j) = 3 then s.set R.SYN_OUT_STAT_STATE j 1 else s

/-- A write of SYN_SP_COMMIT (R309). -/
def State.synCommit (s : State) (k : Fin 4) (v : Word) : State :=
  let p := s.syn.pll[k]
  if p.commit.isSome then s.synEvt 17
  else
    let at_ := v.toNat.testBit 0
    let ms := bits v.toNat 2 10
    let sec := s.get R.SYN_SP_AT_SEC k
    let code := s.commitRefuse k
    let code := if code = 0 && at_ && sec ≤ s.rtSec then 9 else code
    let s := s.set R.SYN_SP_STAT_REFUSE_CODE k code
    if code ≠ 0 then s.synEvt 16
    else
      let base := if at_ then sec else s.rtSec + 1
      let t := base * 2 ^ 48 + ceilDiv (ms * 2 ^ 48) 1000
      (s.setPll k { p with commit := some ⟨t, v.toNat.testBit 1⟩ }).raiseBit R.SYN_STAT_PENDING 0 k

/-- The words of a PLL that the shadow covers, and those of an output. -/
def State.copyShadow (s : State) (k : Nat) : State :=
  let s := s.forN 4 fun i s => s.setWord (0x1301800 + k * 0x100 + 4 * i) (s.word (0x1301000 + k * 0x100 + 4 * i))
  s.forN 4 fun o s => s.forN 7 fun i s =>
    s.setWord (0x1302800 + (4 * k + o) * 0x40 + 4 * i) (s.word (0x1302000 + (4 * k + o) * 0x40 + 4 * i))

/-- Whether the seven shadow words of an output differ from its active words. -/
def State.outChanged (s : State) (j : Nat) : Bool :=
  (List.range 7).any fun i => s.word (0x1302800 + j * 0x40 + 4 * i) != s.word (0x1302000 + j * 0x40 + 4 * i)

/-- Whether the shadow of a PLL changes MODE, SRC, R_DIV or N (R310). -/
def State.pllChanged (s : State) (k : Nat) : Bool :=
  (List.range 4).any fun i => s.word (0x1301800 + k * 0x100 + 4 * i) != s.word (0x1301000 + k * 0x100 + 4 * i)

/-- Heel of an output at a commit (R317). -/
def State.heelCommit (s : State) (j : Fin 16) : State :=
  let st := s.get R.SYN_OUT_STAT_HEEL_STATE j
  if s.sh true R.SYN_OUT_CFG_HEEL_EN j = 0 || s.sh true R.SYN_OUT_CFG_KIND j ≠ 1 then
    (s.set R.SYN_OUT_STAT_HEEL_STATE j 0).setSynOut j { s.syn.out[j] with heelG := none }
  else if st = 0 || st = 5 then s.set R.SYN_OUT_STAT_HEEL_STATE j 1
  else if st = 2 && s.sh true R.SYN_OUT_CFG_HEEL_MODE j = 1 then s.set R.SYN_OUT_STAT_HEEL_STATE j 3
  else s

/-- The commit instant T (R309, R310): the shadow becomes active; a change of MODE, SRC, R_DIV or N, RELOCK, or a FAILed or
LOST PLL relocks; otherwise only the changed outputs wait for their new grid. -/
def State.synApply (s : State) (k : Fin 4) : State :=
  let p := s.syn.pll[k]
  match p.commit with
  | none => s
  | some c =>
    if s.rt.toNat < c.t then s
    else
      let st := s.pllState k
      let relock := c.relock || s.pllChanged k
      let changed := (List.range 4).map fun i => s.outChanged (4 * k.val + i)
      let s := s.copyShadow k
      let s := s.setPll k { p with commit := none, retries := 0, doneAtLock := false }
      let s := s.clearBit R.SYN_STAT_PENDING 0 k
      let s := s.forN 4 fun i s => s.showDelay (4 * k.val + i)
      let s := ([0, 1, 2, 3] : List (Fin 4)).foldl
        (fun s i => s.heelCommit ⟨(4 * k.val + i.val) % 16, Nat.mod_lt _ (by decide)⟩) s
      let mode := s.sh true R.SYN_SP_CFG_MODE k
      if mode = 0 then (s.pllEnter k 0).synEvt (12 + k.val)
      else if st = 5 || (relock && st ≠ 0 && st ≠ 4) || ((st = 0 || st = 4) && s.pllRef k)
      then (s.setPll k { s.syn.pll[k] with doneAtLock := true }).pllEnter k 1
      else
        let s := s.forN 4 fun i s => if (changed[i]?).getD false then s.outRealign (4 * k.val + i) else s
        s.synEvt (12 + k.val)

/-- A search step of 25 µs ends; the sixth has chosen a band, or none brackets the target (R306). -/
def State.searchStep (s : State) (k : Fin 4) (band : Option (Fin 64)) : State :=
  let p := s.syn.pll[k]
  if s.pllState k ≠ 1 || !s.passed p.since 25 then s
  else
    let now := s.time.lc.toNat
    if p.steps < 5 then s.setPll k { p with steps := p.steps + 1, since := now }
    else match band with
      | some b => ((s.setPll k { p with steps := 0, since := now }).set R.SYN_SP_STAT_BAND k b).set R.SYN_SP_STAT_STATE k 2
      | none => (s.setPll k { p with steps := 0, doneAtLock := false }).pllEnter k 5

/-- LKF rises through V_LOCK: the PLL is LOCKED, and its outputs hold low until their grid resumes (R306 to R309). -/
def State.pllLock (s : State) (k : Fin 4) : State :=
  if s.pllState k ≠ 2 then s
  else
    let p := s.syn.pll[k]
    let s := s.set R.SYN_SP_STAT_STATE k 3
    let s := s.setFlag R.SYN_SP_STAT_LKF_HIGH k true
    let s := s.setPll k { p with retries := 0, doneAtLock := false, lockRt := s.rt.toNat, since := s.time.lc.toNat }
    let s := s.clearBit R.SYN_STAT_BYPASS 0 k
    let s := s.synEvt k
    let s := if p.doneAtLock then s.synEvt (12 + k.val) else s
    s.forN 4 fun i s => s.set R.SYN_OUT_STAT_STATE (4 * k.val + i) (if s.flag R.SYN_OUT_EN (4 * k.val + i) then 1 else 0)

/-- 100 ms in SETTLE without lock: SEARCH at most twice in a row, then FAIL (R306). -/
def State.settleTimeout (s : State) (k : Fin 4) : State :=
  if s.pllState k ≠ 2 || !s.passed s.syn.pll[k].since 100000 then s
  else
    let p := s.syn.pll[k]
    if p.retries < 2 then (s.setPll k { p with retries := p.retries + 1 }).pllEnter k 1
    else (s.setPll k { p with retries := 0, doneAtLock := false }).pllEnter k 5

/-- A LOCKED PLL is LOST: by a cycle slip, LKF falling through V_UNLOCK, or loss of its reference (R306, R307). -/
def State.pllLost (s : State) (k : Fin 4) (slip : Bool) : State :=
  if s.pllState k ≠ 3 then s else (if slip then s.bump R.SYN_SP_CNT_SLIPS k else s).pllEnter k 4

/-- An output leaves bypass, or a realignment ends, at a rising edge of its grid at least 10 µs after lock (R308). -/
def State.gridResume (s : State) (j : Fin 16) : State :=
  let p := s.syn.pll[j.val / 4]
  if s.get R.SYN_OUT_STAT_STATE j = 1 && s.pllState (pllOf j) = 3 && s.rt.toNat ≥ p.lockRt + 10 * 2 ^ 48 / 1000000
  then s.set R.SYN_OUT_STAT_STATE j 2 else s

/-- A change of OUT_EN (R311). -/
def State.outEnable (s : State) (j : Fin 16) (v : Word) : State :=
  let on := v.toNat.testBit 0
  let s := s.setFlag R.SYN_OUT_EN j on
  if !on then s.set R.SYN_OUT_STAT_STATE j 0
  else if s.get R.SYN_OUT_STAT_STATE j ≠ 0 then s
  else s.set R.SYN_OUT_STAT_STATE j (if s.pllState (pllOf j) = 3 then 1 else s.outBypass j)

/-- Outputs of RT-mode PLLs realign to the grid under a new RT: at a step order, with STEP_REALIGN (R313). -/
def State.stepRealign (s : State) : State :=
  let any := (List.range 4).any fun k => s.sh true R.SYN_SP_CFG_MODE k == 1 && s.pllState k == 3
  let s := s.forN 16 fun j s => if s.sh true R.SYN_SP_CFG_MODE (pllOf j) = 1 then s.outRealign j else s
  if any then s.synEvt 18 else s

/-! ### Edges and the grid -/

/-- The difference of an instant from the nearest grid instant, in units of 1/(2⁴⁸ pd) s, with the denominator: grid origin
`g` in 2⁻⁴⁸ s, period pn / pd s. -/
def gridErr (t g : Int) (pn pd : Nat) : Int × Nat :=
  if pn = 0 || pd = 0 then (0, 1)
  else
    let p : Int := pn * 2 ^ 48
    let r := Int.fmod ((t - g) * pd) p
    (if 2 * r > p then r - p else r, 2 ^ 48 * pd)

/-- The grid origin of an output with its offset, in 2⁻⁴⁸ s: the Heel origin when there is one, else the epoch. -/
def State.gridOrigin (s : State) (j : Fin 16) : Int :=
  match s.syn.out[j].heelG with
  | some g => g
  | none => psToUnits (s.outOffset true j)

/-- An edge of an output in ps against its grid instant plus the offset, rounded (R315, R318). -/
def State.edgeErr (s : State) (j : Fin 16) (t : Time) : Int :=
  let (pn, pd) := s.outPeriod true j
  let (e, d) := gridErr t.toNat (s.gridOrigin j) pn pd
  roundDiv (e * 1000000000000) d

/-- Whether an output of an RT-mode PLL, placed by a replica that is `err` 2⁻⁴⁸ s off, is off its grid by more than one fine step (R312, R313). -/
def State.outOff (s : State) (err j : Nat) : Bool :=
  let (vn, vd) := s.vco true (pllOf j)
  decide (s.sh true R.SYN_SP_CFG_MODE (pllOf j) = 1) && decide (err * 128 * vn > 2 ^ 48 * vd)

/-- After a mismatch of `err` 2⁻⁴⁸ s in the synthesis replica, an output whose next edge is off by more than one fine step realigns (R313). -/
def State.synMismatch (s : State) (err : Nat) : State :=
  let js := (List.range 16).filter (s.outOff err)
  let s := js.foldl (fun s j => s.outRealign j) s
  if js.isEmpty then s else s.synEvt 19

/-- A valid record of a Heel source (R317, R318). -/
def State.heelRecord (s : State) (j : Fin 16) (t : Time) : State :=
  let st := s.get R.SYN_OUT_STAT_HEEL_STATE j
  let o := s.syn.out[j]
  let tracking := s.sh true R.SYN_OUT_CFG_HEEL_MODE j = 1
  let run := if tracking then 3 else 2
  if st = 0 || st = 5 then s
  else
    let s := s.setSynOut j { o with heelLast := s.rt.toNat }
    if st = 1 then
      let g : Int := (t.toNat : Int) + psToUnits (s.outOffset true j)
      let s := s.setSynOut j { s.syn.out[j] with heelG := some g }
      (s.outRealign j).set R.SYN_OUT_STAT_HEEL_STATE j run
    else if st = 4 || st = 2 then s.set R.SYN_OUT_STAT_HEEL_STATE j run
    else
      let (pn, pd) := s.outPeriod true j
      let tin : Int := (t.toNat : Int) + psToUnits (s.outOffset true j)
      let (e, d) := gridErr tin (s.gridOrigin j) pn pd
      let ps := roundDiv (e * 1000000000000) d
      let s := s.set R.SYN_OUT_HEEL_ERR j (trunc 32 ps)
      if ps.natAbs > s.get R.SYN_OUT_HEEL_CFG_STEP_MAX j * 1000 then
        ((s.set R.SYN_OUT_STAT_HEEL_STATE j 5).synEvt 20).raise fsSynHeelJump j.val
      else
        let (sn, sd) := s.tiInterval (s.sh true R.SYN_OUT_CFG_HEEL_TI j)
        let lim : Int := if sd = 0 then 0 else (s.get R.SYN_OUT_HEEL_CFG_SLEW j * sn * 2 ^ 48 / (sd * 1000000000) : Nat)
        let move := psToUnits ps
        let move := if move > lim then lim else if move < -lim then -lim else move
        s.setSynOut j { s.syn.out[j] with heelG := some (s.gridOrigin j + move) }

/-- RT and VALID of the newest record of a TDC channel (R133, R137). -/
def State.tiRecord (s : State) (c : Nat) : Time × Bool :=
  let b := leBytes 32 (s.get R.TIM_LAST c)
  (BitVec.ofNat 96 (leAt b 12 12), (leAt b 28 2).testBit 6)

/-- The number that a TDC channel's next record will have. -/
def State.tiSeq (s : State) (c : Nat) : Nat := (s.tim.ch[c]?).elim 0 (·.seq)

/-- A record of the Heel source of an output that Heel has not taken yet: only a valid one is used (R316). -/
def State.heelTake (s : State) (j : Fin 16) : State :=
  let c := s.sh true R.SYN_OUT_CFG_HEEL_TI j
  if s.tiSeq c = s.syn.out[j].heelSeq then s
  else
    let s := s.setSynOut j { s.syn.out[j] with heelSeq := s.tiSeq c }
    let (t, valid) := s.tiRecord c
    if valid then s.heelRecord j t else s

/-- No valid record for four source intervals (R317). -/
def State.heelTimeout (s : State) (j : Fin 16) : State :=
  let st := s.get R.SYN_OUT_STAT_HEEL_STATE j
  let (sn, sd) := s.tiInterval (s.sh true R.SYN_OUT_CFG_HEEL_TI j)
  let late := decide ((s.rt.toNat - s.syn.out[j].heelLast) * sd ≥ 4 * sn * 2 ^ 48)
  if late && (st = 2 || st = 3) then s.set R.SYN_OUT_STAT_HEEL_STATE j 4 else s

/-! ### Time-of-day messages -/

/-- Year, month and day of a day number from 1970-01-01. -/
def civil (z : Nat) : Nat × Nat × Nat :=
  let z := z + 719468
  let era := z / 146097
  let doe := z % 146097
  let yoe := (doe - doe / 1460 + doe / 36524 - doe / 146096) / 365
  let doy := doe - (365 * yoe + yoe / 4 - yoe / 100)
  let mp := (5 * doy + 2) / 153
  let d := doy - (153 * mp + 2) / 5 + 1
  let m := if mp < 10 then mp + 3 else mp - 9
  (yoe + era * 400 + (if m ≤ 2 then 1 else 0), m, d)

/-- Day number from 1970-01-01 of the first of January. -/
def newYear (y : Nat) : Nat := 365 * (y - 1970) + (y - 1969) / 4 - (y - 1901) / 100 + (y - 1601) / 400

/-- UTC of a TAI second: day number and second of the day; during an inserted second, 23:59:60 of the old day (R48). -/
def State.utcOf (s : State) (tai : Nat) : Nat × Nat :=
  let off := s.getS R.KNL_UTC_UTC_OFFSET
  let ins := match s.time.leap with
    | some l => l.kind == 1 && tai + 1 == l.at_
    | none => false
  let u := ((tai : Int) - off).toNat
  if ins then ((u - 1) / 86400, 86400) else (u / 86400, u % 86400)

/-- ASCII digits of a number, `n` of them. -/
def digits : Nat → Nat → List Byte
  | 0, _ => []
  | n + 1, v => digits n (v / 10) ++ [BitVec.ofNat 8 (48 + v % 10)]

/-- One hexadecimal digit in ASCII. -/
def hexDigit (v : Nat) : Byte := BitVec.ofNat 8 (if v < 10 then 48 + v else 55 + v)

/-- Hours, minutes and seconds of a second of the day; the 86,401st is 23:59:60. -/
def hmsOf (u : Nat) : Nat × Nat × Nat := if u = 86400 then (23, 59, 60) else (u / 3600, u / 60 % 60, u % 60)

/-- The NMEA 0183 ZDA sentence (R319). -/
def State.zda (s : State) (tai : Nat) : List Byte :=
  let (day, u) := s.utcOf tai
  let (y, mo, d) := civil day
  let (h, mi, se) := hmsOf u
  let body := ascii "GNZDA," ++ digits 2 h ++ digits 2 mi ++ digits 2 se ++ ascii ".00," ++ digits 2 d ++ ascii ","
    ++ digits 2 mo ++ ascii "," ++ digits 4 y ++ ascii ",00,00"
  let x := (body.foldl (· ^^^ ·) 0#8).toNat
  ascii "$" ++ body ++ ascii "*" ++ [hexDigit (x / 16), hexDigit (x % 16)] ++ [13#8, 10#8]

/-- The Leash of a time-of-day message that describes a pulse of output `p` in RT second `sec` (R321). -/
def State.todLeash (s : State) (p sec : Nat) : Nat :=
  let core := if sec < s.get R.LSH_SEC then s.get R.LSH_CORE_PREV else s.get R.LSH_CORE
  lsat (core + s.get R.SYN_OUT_UNC p + (if s.flag R.SYN_OUT_STAT_DEGRADED p then s.sealedTerm 0xD00 else 0))

/-- LEAP of a message: 0 none, 1 insert, 2 delete. -/
def State.leapCode (s : State) : Nat :=
  match s.time.leap with
  | some l => l.kind
  | none => 0

/-- The flags of a time-of-day message: DEGRADED as well for 1,024 ticks after a mismatch of the synthesis replica (R313). -/
def State.todFlags (s : State) (p sec : Nat) : Nat :=
  let fl := s.get R.LSH_STAT_FLAGS ||| 32 * b2n (s.todLeash p sec == unbounded)
  if s.flag R.SYN_OUT_STAT_DEGRADED p || decide ((s.time.readerDegr[9]?).getD 0 > s.time.tick) then fl ||| 2 else fl

/-- The ZTOD message (R320). -/
def State.ztod (s : State) (p sec : Nat) : List Byte :=
  let m := beBytes 2 0x5A54 ++ beBytes 1 1 ++ beBytes 1 (s.todFlags p sec) ++ beBytes 6 sec
    ++ beBytes 2 (s.get R.KNL_UTC_UTC_OFFSET) ++ beBytes 1 s.leapCode ++ beBytes 1 (s.get R.LSH_STAT_CLOCK_CLASS)
    ++ beBytes 6 (s.todLeash p sec)
  m ++ beBytes 4 (crc32c m)

/-- The `n` low bits of a value, lowest first, as symbols. -/
def symBits (n v : Nat) : List Nat := (List.range n).map fun i => v / 2 ^ i % 2

/-- The time quality code (R319): the smallest code whose bound is at or above the Leash, 1 ns for code 1 and ten times more
for each further code up to 10 s; 0xF beyond. -/
def timeQuality (l : Nat) : Nat :=
  if l = unbounded then 0xF
  else match (List.range 11).find? (fun i => l ≤ 1000 * 10 ^ i) with
    | some i => i + 1
    | none => 0xF

/-- The 100 symbols of an IRIG-B frame, 2 for a marker: BCD time, year for B004, control functions with the C37.118.1
extension, straight binary seconds (R319; log entry 14). -/
def State.irig (s : State) (j p tai : Nat) : List Byte :=
  let utc := s.sh true R.SYN_OUT_CFG_TOD_UTC j = 1
  let (day, u) := if utc then s.utcOf tai else (tai / 86400, tai % 86400)
  let (y, _, _) := civil day
  let doy := day - newYear y + 1
  let (h, mi, se) := hmsOf u
  let leap := s.leapCode
  let soon := match s.time.leap with
    | some l => decide (l.at_ ≤ tai + 60) && decide (tai < l.at_)
    | none => false
  let q := timeQuality (s.todLeash p tai)
  let year := if s.sh true R.SYN_OUT_CFG_IRIG_YEAR j = 1 then symBits 4 (y % 10) ++ [0] ++ symBits 4 (y / 10 % 10) else List.replicate 9 0
  let cf1 := [b2n soon, b2n (soon && leap == 2), 0, 0, 0] ++ [0, 0, 0, 0]
  let body := symBits 4 (se % 10) ++ [0] ++ symBits 3 (se / 10)
  let minute := symBits 4 (mi % 10) ++ [0] ++ symBits 3 (mi / 10) ++ [0]
  let hour := symBits 4 (h % 10) ++ [0] ++ symBits 2 (h / 10) ++ [0, 0]
  let days := symBits 4 (doy % 10) ++ [0] ++ symBits 4 (doy / 10 % 10)
  let hund := symBits 2 (doy / 100) ++ [0, 0, 0, 0, 0, 0, 0]
  let tq := [0] ++ symBits 4 q
  let ones := (body ++ minute ++ hour ++ days ++ hund ++ year ++ cf1 ++ tq).sum
  let cf2 := tq ++ [(ones + 1) % 2, 0, 0, 0]
  let sbs := u % 86400
  ([2] ++ body ++ [2] ++ minute ++ [2] ++ hour ++ [2] ++ days ++ [2] ++ hund ++ [2] ++ year ++ [2] ++ cf1 ++ [2] ++ cf2 ++ [2]
    ++ symBits 9 sbs ++ [2] ++ symBits 8 (sbs / 512) ++ [0] ++ [2]).map fun b => BitVec.ofNat 8 b

/-- The most recent pulse of an output: its instant and the RT second that it marks, the grid instant without the offset (R311, R319). -/
def State.lastPulse (s : State) (p : Fin 16) : Option (Int × Nat) :=
  let (pn, pd) := s.outPeriod true p
  if pn = 0 || pd = 0 || s.get R.SYN_OUT_STAT_STATE p ≠ 2 then none
  else
    let g := s.gridOrigin p
    let k := Int.fdiv (((s.rt.toNat : Int) - g) * pd) (pn * 2 ^ 48)
    let at_ := g - Int.fdiv (-(k * (pn * 2 ^ 48))) pd
    let sec := if s.syn.out[p].heelG.isSome then Int.fdiv at_ (2 ^ 48) else Int.fdiv (k * pn) pd
    some (at_, sec.toNat)

/-- A time-of-day output sends its message about the last pulse of the named output, once, TOD_LAG ms after a pulse in a serial format, with
the pulse in IRIG-B (R319). -/
def State.todSend (s : State) (j : Fin 16) : State :=
  let kind := s.sh true R.SYN_OUT_CFG_KIND j
  let p : Fin 16 := ⟨s.sh true R.SYN_OUT_CFG_TOD_PPS j % 16, Nat.mod_lt _ (by decide)⟩
  if kind < 2 || kind > 4 || s.get R.SYN_OUT_STAT_STATE j ≠ 2 then s
  else match s.lastPulse p with
    | none => s
    | some (at_, sec) =>
      let lag : Nat := if kind = 4 then 0 else s.sh true R.SYN_OUT_OFFSET1_TOD_LAG j
      if s.syn.out[j].todFor = some at_ || (s.rt.toNat : Int) * 1000 < at_ * 1000 + lag * 2 ^ 48 then s
      else
        let msg := if kind = 2 then s.zda sec else if kind = 3 then s.ztod p sec else s.irig j p sec
        s.setSynOut j { s.syn.out[j] with tod := msg, todFor := some at_ }

/-! ### Meanings -/

/-- SYN_COMMIT_APPLY (R309, R310). -/
def execSynCommitApply (k : Fin 4) (s : State) : Host.Outcome State Fault Refusal := done (s.synApply k)

/-- BAND_SEARCH_STEP (R306). -/
def execBandSearchStep (k : Fin 4) (band : Option (Fin 64)) (s : State) : Host.Outcome State Fault Refusal :=
  done (s.searchStep k band)

/-- PLL_LKF_LOCK (R307). -/
def execPllLkfLock (k : Fin 4) (s : State) : Host.Outcome State Fault Refusal := done (s.pllLock k)

/-- PLL_SETTLE_TIMEOUT (R306). -/
def execPllSettleTimeout (k : Fin 4) (s : State) : Host.Outcome State Fault Refusal := done (s.settleTimeout k)

/-- PLL_LOSS (R306, R307). -/
def execPllLoss (k : Fin 4) (slip : Bool) (s : State) : Host.Outcome State Fault Refusal := done (s.pllLost k slip)

/-- PLL_REFERENCE_PRESENT (R306). -/
def execPllReferencePresent (k : Fin 4) (s : State) : Host.Outcome State Fault Refusal :=
  done (s.when_ (s.pllState k == 4 && s.pllRef k) fun s => s.pllEnter k 1)

/-- OUTPUT_GRID_RESUME (R308). -/
def execOutputGridResume (j : Fin 16) (s : State) : Host.Outcome State Fault Refusal := done (s.gridResume j)

/-- HEEL_RECORD (R316 to R318). -/
def execHeelRecord (j : Fin 16) (s : State) : Host.Outcome State Fault Refusal := done (s.heelTake j)

/-- HEEL_HOLD_TIMEOUT (R317). -/
def execHeelHoldTimeout (j : Fin 16) (s : State) : Host.Outcome State Fault Refusal := done (s.heelTimeout j)

/-- TOD_MESSAGE (R319). -/
def execTodMessage (j : Fin 16) (s : State) : Host.Outcome State Fault Refusal := done (s.todSend j)

/-- BAND_CHECK (R322): once in an RT second, and skipped while a commit, relock or Heel step is pending. -/
def execBandCheck (k : Fin 4) (vtune : Byte) (s : State) : Host.Outcome State Fault Refusal :=
  let busy := s.syn.pll[k].commit.isSome || (List.range 4).any fun i => s.get R.SYN_OUT_STAT_STATE (4 * k.val + i) == 1
  done (s.when_ (s.pllState k == 3 && !busy && decide (s.syn.pll[k].checkSec ≤ s.rtSec)) fun s =>
    let s := s.setPll k { s.syn.pll[k] with checkSec := s.rtSec + 1 }
    let s := s.set R.SYN_SP_STAT_VTUNE k vtune.toNat
    let out := vtune.toNat * 5 < 256 || vtune.toNat * 5 > 4 * 256
    let s := s.setFlag R.SYN_SP_STAT_BAND_MARGIN k out
    if out then (s.synEvt 21).raise fsSynBandMargin k.val else s)

/-- The edge of OUT4k that a valid record of TI(12 + k) timed, against its grid (R315, R116): each record counts once. -/
def State.phaseCheck (s : State) (k : Fin 4) : State :=
  let c := 12 + k.val
  let j : Fin 16 := ⟨4 * k.val, by omega⟩
  let (t, valid) := s.tiRecord c
  if s.tiSeq c = s.syn.pll[k].phaseSeq || s.get R.TIM_CFG_SRC c ≠ 16 + j.val then s
  else
    let s := s.setPll k { s.syn.pll[k] with phaseSeq := s.tiSeq c }
    if valid && s.get R.SYN_OUT_STAT_STATE j == 2 && s.sh true R.SYN_SP_CFG_MODE k == 1 && decide ((s.edgeErr j t).natAbs > s.get R.SYN_OUT_UNC j) then
      (s.forN 4 fun i s => s.setFlag R.SYN_OUT_STAT_DEGRADED (4 * k.val + i) true).raise fsSynPhaseErr k.val
    else s

/-- OUTPUT_PHASE_CHECK (R315). -/
def execOutputPhaseCheck (k : Fin 4) (s : State) : Host.Outcome State Fault Refusal := done (s.phaseCheck k)

end Sys2Proof.Machine
end

