-- ==== Sys2Proof/Machine/TimeModel.lean ====
section
/-! DEFINITION. The time model: the count, updates of the correction set, step orders, time sources, UTC and the time bus
(R28 to R59, R512). -/

namespace Sys2Proof.Machine

/-! ### The count -/

/-- One tick: LC, the SN count, and the tick number advance (R29, R50). The second of the previous tick is kept for R512;
while a boundary event is still due it stays behind. -/
def State.tickOn (s : State) : State :=
  let t := s.time
  if !t.running then s
  else
    let cur := s.rtSec
    let (lc, frac) := lcAfter s.lcInc t.lc t.frac 1
    let prev := if cur > t.prevSec then t.prevSec else cur
    { s with time := { t with lc := lc, frac := frac, sn := snNext t.sn t.cad, cad := (t.cad + 1) % 3, tick := t.tick + 1
                              prevSec := prev } }

/-- SLEWING follows the slew in progress (R59); what remains of it is KNL_SLEW_REM, which reads live. -/
def State.syncSlew (s : State) : State := s.setFlag R.KNL_TIME_MODE_SLEWING 0 s.time.slew.isSome

/-- A bit of KNL_TIME_STAT is set. -/
def State.timeStat (s : State) (f : Fld) : State := s.set f 0 1

/-- A new set in force: both copies, the version and one history entry (R37, R57). -/
def State.newSet (s : State) (c : CorrSet) (kind : Nat) (step : Time) : State :=
  let v := s.get R.KNL_TIME_MODE_CSET_VER + 1
  let s := s.set R.KNL_TIME_MODE_CSET_VER 0 v
  let e : HistEntry := { ofs := c.ofs, anchor := c.anchor, rate := c.rate, ver := BitVec.ofNat 16 v, kind := BitVec.ofNat 3 kind, step := step, inSn := !s.inLc }
  let t := s.time
  if s.inLc then { s with time := { t with cset := c, copyA := c, copyB := c, copyABad := false, copyBBad := false
                                           hist := (e :: t.hist).take 64 } }
  else { s with time := { t with hist := (e :: t.hist).take 64 } }

/-! ### Updates (R34 to R40) -/

/-- Whether a rate lies within the limit of R34. -/
def rateOk (r : Int) : Bool := decide (r.natAbs ≤ 2 ^ 52)

/-- SLEW_MAX in 10⁻¹² units. -/
def State.slewMax (s : State) : Nat := s.get R.KNL_SLEW_MAX

/-- The slew term of a PHASE (R39): at the requested or largest rate, lowered so that it lasts at least 256 ticks. -/
def State.slewTerm (s : State) (phase : Int) (req : Nat) : Int :=
  let r := if req = 0 then s.slewMax else Nat.min req s.slewMax
  let m := rateOfPpt r
  let dl := fun n => ((lcAfter s.lcInc s.time.lc s.time.frac n).1 - s.time.lc).toNat
  let m := if dl 255 * m ≥ phase.natAbs * 2 ^ 64 then ceilDiv (phase.natAbs * 2 ^ 64) (dl noticeTicks) else m
  if phase < 0 then -(m : Int) else m

/-- The slew term in force. -/
def State.slewNow (s : State) : Int :=
  match s.time.slew with
  | some w => w.s.toInt
  | none => 0

/-- FREQ in force: RATE without the slew term (R36). -/
def State.freqNow (s : State) : Int := s.time.cset.rate.toInt - s.slewNow

/-- The phase made so far by the slew in progress and those it replaced. -/
def State.slewMade (s : State) : Int :=
  match s.time.slew with
  | some w => w.part + w.made s.time.lc
  | none => 0

/-- The parts of one merged update (R37). -/
structure Merge where
  fw : Option FwUpd
  freeze : Option FreezeUpd
  steps : List StepOrd
  slewEnd : Bool

/-- What is due on this tick. -/
def State.dueNow (s : State) : Merge :=
  let t := s.time
  { fw := t.fw.filter fun u => decide (u.due ≤ t.tick)
    freeze := t.freeze.filter fun u => decide (u.due ≤ t.tick)
    steps := t.steps.filter fun u => decide (u.due ≤ t.tick)
    slewEnd := match t.slew with
      | some w => w.reached t.lc
      | none => false }

/-- The CHANGE of a step record (R40): STEP, and bits [79:16] of the effective LC. -/
def stepChange (step lc : Time) : List Byte := leBytes 12 step.toNat ++ leBytes 8 (lc.toNat / 2 ^ 16)

/-- A step order ends the frequency-only use of a time reference (R113). -/
def State.phaseAgain (s : State) : State :=
  let sel := s.get R.REF_STAT_SEL_REF
  if sel < 23 && s.timeRef sel then (s.setFlag R.REF_STAT_FREQ_ONLY 0 false).setFlag R.REF_STATE_FREQ_ONLY sel false else s

/-- The audit record of a step order, with the RT of the tick before; the command counter moves with it, and its mailbox command completes
(R40, R62, R65). -/
def State.stepRecord (s : State) (o : StepOrd) (before : Time) : State :=
  let s := s.record 0x0020 o.keySlot.toNat before (eventDetail o.counter.toNat 0x30 (stepChange o.step s.time.lc))
  let s := s.set R.KNL_MBX_CMD_CNT 0 o.counter.toNat
  let s := (s.timeStat R.KNL_TIME_STAT_STEP_DONE).mbStepEnd 0
  { s with knl := { s.knl with pair := { s.knl.pair with stepped := true } } }

/-- FREQ and slew that a merged update asks for, before the limit of R34. A firmware update whose PHASE was refused carries PHASE 0 from its
acceptance on, which leaves the slew in progress as it is (R38; log entry 75). -/
def State.mergeRate (s : State) (m : Merge) : Int × Option Slew :=
  let t := s.time
  let cut := m.slewEnd || !m.steps.isEmpty
  let kept := if cut then none else t.slew
  match m.freeze, m.fw with
  | some z, _ => (z.freq.toInt, none)
  | none, some u =>
    let p := u.phase.toInt
    if p = 0 then (u.freq.toInt, kept)
    else (u.freq.toInt, some { s := BitVec.ofInt 64 (s.slewTerm p u.slewReq.toNat), phase := u.phase, start := t.lc, part := if cut then 0 else s.slewMade })
  | none, none => (s.freqNow, kept)

/-- The slew term of a slew, 0 without one. -/
def slewOf : Option Slew → Int
  | some w => w.s.toInt
  | none => 0

/-- A merged update after the limit of R34: FREQ and slew, whether an update was refused, whether the firmware or freeze update counts, and
whether there is a new set at all. -/
structure Merged where
  freq : Int
  slew : Option Slew
  refused : Bool
  taken : Bool
  made : Bool

/-- The limit of R34 on a merged update: a firmware or freeze update beyond it is left out, and where the set without it is beyond it too, the
previous set stays in force with its slew; a step order then ends with RANGE (log entry 76). -/
def State.mergeLimit (s : State) (m : Merge) : Merged :=
  let (freq, slew) := s.mergeRate m
  let other := !m.steps.isEmpty || m.slewEnd
  if rateOk (freq + slewOf slew) then { freq := freq, slew := slew, refused := false, taken := true, made := other || m.fw.isSome || m.freeze.isSome }
  else
    let (freq, slew) := s.mergeRate { m with fw := none, freeze := none }
    if rateOk (freq + slewOf slew) then { freq := freq, slew := slew, refused := true, taken := false, made := other }
    else { freq := s.freqNow, slew := s.time.slew, refused := true, taken := false, made := false }

/-- The merged update of a tick in LC (R36, R37). -/
def State.applyMerge (s : State) (m : Merge) : State :=
  let t := s.time
  let made := s.slewMade
  let total := match t.slew with
    | some w => w.part + w.phase.toInt
    | none => 0
  let o := s.mergeLimit m
  let s := if o.refused then s.timeStat R.KNL_TIME_STAT_RATE_RANGE else s
  let fwOn := o.taken && m.fw.isSome && m.freeze.isNone
  let frOn := o.taken && m.freeze.isSome
  let s := { s with time := { s.time with fw := if m.fw.isSome || m.freeze.isSome then none else t.fw
                                          freeze := if m.freeze.isSome then none else t.freeze
                                          steps := t.steps.filter fun u => decide (u.due > t.tick) } }
  if !o.made then (if m.steps.isEmpty then s else s.mbStepEnd 4)
  else
    let step := (m.steps.map (·.step)).foldl (· + ·) 0
    let before := rtOf t.cset s.lcBefore
    let s := m.steps.foldl (fun s o => s.stepRecord o before) s
    let set : CorrSet := { ofs := rtOf t.cset t.lc + step, anchor := t.lc, rate := BitVec.ofInt 64 (o.freq + slewOf o.slew) }
    let kind := if !m.steps.isEmpty then 2 else if frOn then 5 else if fwOn then 0 else 1
    let s := s.newSet set kind (if m.steps.isEmpty then 0 else step)
    let s := if fwOn then s.obs 0x0A 0 else s
    let s := if m.slewEnd then s.obs 0x0A 1 else s
    let s := { s with time := { s.time with slew := o.slew, lastFw := if fwOn then some t.tick else s.time.lastFw } }
    let s := if m.slewEnd then s.carryLess (unitsToPs total).natAbs else s
    let s := if m.steps.isEmpty then s
      else (s.carryLess (unitsToPs (step.toInt + (if m.slewEnd then 0 else made))).natAbs).stepRealign.phaseAgain.launchAgain
    s.syncSlew

/-- A step in an SN state (R40, R57): STEP is added to the SN count, with an entry of KIND 2 in the SN form. -/
def State.stepSn (s : State) : State :=
  let t := s.time
  let due := t.steps.filter fun u => decide (u.due ≤ t.tick)
  if due.isEmpty then s
  else
    let step := (due.map (·.step)).foldl (· + ·) 0
    let before := sn96ToT96 (s.snBack 1)
    let sn := t96ToSn96 (sn96ToT96 t.sn + step)
    let s := { s with time := { t with steps := t.steps.filter fun u => decide (u.due > t.tick) } }
    let s := due.foldl (fun s o => s.stepRecord o before) s
    let s := { s with time := { s.time with sn := sn } }
    (s.newSet { ofs := sn96ToT96 sn, anchor := t.lc, rate := 0 } 2 step).stepRealign.phaseAgain.launchAgain

/-- The updates due on this tick take effect as one (R36, R37). -/
def State.updateTick (s : State) : State :=
  if s.inLc then
    let m := s.dueNow
    if m.fw.isNone && m.freeze.isNone && m.steps.isEmpty && !m.slewEnd then s else s.applyMerge m
  else s.stepSn

/-- The form bits of ANCHOR (R302). -/
def State.anchorForm (s : State) (freq phase : Int) (req : Nat) : Nat :=
  let big := s.beyondJump phase
  let sl := if phase = 0 || big then s.slewNow else s.slewTerm phase req
  b2n big + 2 * b2n (!rateOk (freq + sl)) + 4 * b2n (decide (req > s.slewMax))

/-- The time-bus source takes up a firmware update (R34, R37 to R39): a PHASE beyond JUMP_MAX is refused and left out, a SLEW_REQ beyond
SLEW_MAX is noted, an update beyond the limit of R34 is refused. Else it is the one pending update: 256 ticks of notice, 1 ms of spacing. -/
def State.acceptFw (s : State) (u : FwUpd) : State :=
  let big := s.beyondJump u.phase.toInt
  let range := (s.anchorForm u.freq.toInt u.phase.toInt u.slewReq.toNat).testBit 1
  let s := if big then
      let s := s.timeStat R.KNL_TIME_STAT_JUMP_REFUSED
      { s with knl := { s.knl with pair := { s.knl.pair with jumped := true } } }
    else s
  let s := if u.slewReq.toNat > s.slewMax then s.timeStat R.KNL_TIME_STAT_SLEW_CLAMPED else s
  if range then s.timeStat R.KNL_TIME_STAT_RATE_RANGE
  else
    let due := s.time.tick + noticeTicks
    let least := match s.time.lastFw with
      | some l => l + spacingTicks
      | none => 0
    let s := if due < least then s.timeStat R.KNL_TIME_STAT_UPD_DEFERRED else s
    let s := if s.time.fw.isSome then s.timeStat R.KNL_TIME_STAT_UPD_REPLACED else s
    { s with time := { s.time with fw := some { u with phase := if big then 0 else u.phase, due := Nat.max due least } } }

/-- A firmware update arrives at the time-bus source: refused while a change of source is armed and in an SN state, ignored while the
K-pair is frozen (R49, R52, R79). -/
def State.fwArrive (s : State) (u : FwUpd) : State :=
  let s1 := if s.time.armed.isSome then s.timeStat R.KNL_TIME_STAT_BUSY_REFUSED else s
  let s2 := if s.inLc then s1 else s1.timeStat R.KNL_TIME_STAT_SN_UPD_REFUSED
  if s.time.armed.isSome || !s.inLc || s.frozen then s2 else s.acceptFw u

/-- A firmware update from the lead (R35): held while the K-pair recomputes a second (R79). -/
def State.anchorReq (s : State) (freq phase : DWord) (req : BitVec 20) : State :=
  let u : FwUpd := { freq := freq, phase := phase, slewReq := req, due := 0 }
  if s.knl.pair.held && s.inLc && s.time.armed.isNone && !s.frozen then
    { s with knl := { s.knl with pair := { s.knl.pair with heldUpd := s.knl.pair.heldUpd ++ [u] } } }
  else s.fwArrive u

/-- A freeze update is made and the pending firmware update discarded; none in an SN state (R35, R37, R79). -/
def State.freezeReq (s : State) (freq : DWord) : State :=
  let s := { s with time := { s.time with fw := none } }
  if s.inLc then { s with time := { s.time with freeze := some { freq := freq, due := s.time.tick + noticeTicks } } } else s

/-- What becomes of a step order: its result (R40, R52, R68). -/
def State.stepReq (s : State) (step : Time) (expiry : Nat) (counter keySlot : Nat) : Nat × State :=
  if s.time.armed.isSome then (5, s.timeStat R.KNL_TIME_STAT_BUSY_REFUSED)
  else if s.mode = 0 then (3, s.timeStat R.KNL_TIME_STAT_STEP_REFUSED)
  else if step = 0 || s.rt.toNat > expiry * 2 ^ 48 then (4, s.timeStat R.KNL_TIME_STAT_STEP_REFUSED)
  else
    let o : StepOrd := { step := step, due := s.time.tick + noticeTicks, counter := BitVec.ofNat 64 counter, keySlot := BitVec.ofNat 8 keySlot }
    (0, { s with time := { s.time with steps := s.time.steps ++ [o] } })

/-! ### Time sources (R49 to R54) -/

/-- ARMED shows whether a change of source is armed (R59). -/
def State.arm (s : State) (a : Armed) : State :=
  ({ s with time := { s.time with armed := some (a, s.time.tick + noticeTicks) } }).setFlag R.KNL_TIME_MODE_ARMED 0 true

/-- Whether a change of KNL_LC_INC waits for the bank switch (R30, R52). -/
def State.lcIncPending (s : State) : Bool :=
  s.kspi.staged.any fun c => c.whole || c.words.any fun w => w.1 == 0x22008 || w.1 == 0x2200C

/-- A handover request from the lead, with its form bits (R51, R52, R302). -/
def State.handoverReq (s : State) (freq : DWord) (phase : DWord) : Nat × State :=
  let form := b2n s.inLc + 2 * b2n (!rateOk freq.toInt)
  if phase ≠ 0 || s.time.armed.isSome || s.frozen || s.lcIncPending then (form, s.timeStat R.KNL_TIME_STAT_BUSY_REFUSED)
  else if s.inLc then (form, s)
  else if !rateOk freq.toInt then (form, s.timeStat R.KNL_TIME_STAT_RATE_RANGE)
  else (form, s.arm (.toLc freq))

/-- TEST_MODE (R51): its result, with the request it makes. -/
def State.testModeReq (s : State) (b : Nat) : Nat × State :=
  if b > 1 then (4, s)
  else if s.time.armed.isSome then (5, s.timeStat R.KNL_TIME_STAT_BUSY_REFUSED)
  else if b = 1 then (if s.mode = 3 || s.mode = 2 then (3, s) else (0, s.arm .toTest))
  else if s.mode = 3 then (0, { s with time := { s.time with leaveTest := true } })
  else (3, s)

/-- The source leaves LC at tick H (R51, R53, R57): the SN count is seeded, updates and slew are discarded, the servo is in
FREE_RUN (R106) and the Leash takes its free-run terms from here (R240). -/
def State.leaveLc (s : State) (mode : Nat) : State :=
  let sn := t96ToSn96 (rtOf s.time.cset s.time.lc)
  let core := s.get R.LSH_CORE
  let s := s.holdBase s.rt.toNat
  let s := { s with lsh := { s.lsh with lEntry := core, ensYEntry := BitVec.ofNat 64 (s.get R.REF_ENS_Y), tEntry := s.rt.toNat } }
  let s := s.set R.KNL_TIME_MODE_MODE 0 mode
  let s := { s with time := { s.time with sn := sn, fw := none, freeze := none, slew := none } }
  let s := s.newSet { ofs := sn96ToT96 sn, anchor := s.time.lc, rate := 0 } 4 0
  (s.setServo 0).syncSlew

/-- Tick H of an armed change (R51, R53). -/
def State.handoverTick (s : State) : State :=
  match s.time.armed with
  | none => s
  | some (a, due) =>
    if s.time.tick < due then s
    else
      let s := ({ s with time := { s.time with armed := none } }).setFlag R.KNL_TIME_MODE_ARMED 0 false
      let s := match a with
        | .toLc freq =>
          let s := s.set R.KNL_TIME_MODE_MODE 0 1
          let set : CorrSet := { ofs := sn96ToT96 s.time.sn, anchor := s.time.lc, rate := freq }
          let s := s.newSet set 3 0
          { s with time := { s.time with lastFw := some s.time.tick, slew := none, fw := none, leaveTest := false } }
        | .toTest => if s.inLc then s.leaveLc 3 else s.set R.KNL_TIME_MODE_MODE 0 3
        | .toRecovery => (s.leaveLc 2).timeStat R.KNL_TIME_STAT_SN_ENTERED
      (s.timeStat R.KNL_TIME_STAT_HANDOVER_DONE).leashWiden

/-- An uncorrectable error in a correction-set copy (R54). A change of source that is armed already stands: a move into SN_TEST is not turned into
one into SN_RECOVERY (log entry 77). -/
def State.csetEcc (s : State) (badA badB : Bool) : State :=
  let s := { s with time := { s.time with copyABad := s.time.copyABad || badA, copyBBad := s.time.copyBBad || badB } }
  let s := s.timeStat R.KNL_TIME_STAT_CSET_ECC
  let s := if s.inLc && s.time.armed.isNone then s.arm .toRecovery else s
  s.raise fsCsetEcc

/-- A write of KNL_SN_LOAD3 (R51, R52). -/
def State.snLoadReq (s : State) (v : Time) : State :=
  let s1 := if s.time.armed.isSome then s.timeStat R.KNL_TIME_STAT_BUSY_REFUSED else s
  if s.mode ≠ 0 then s1.timeStat R.KNL_TIME_STAT_SN_LOAD_REFUSED
  else if s.time.armed.isSome then s1
  else { s with time := { s.time with snLoad := some (v, s.time.tick + noticeTicks) } }

/-! ### UTC and leap seconds (R46 to R48) -/

/-- KNL_UTC and LEAP_AT show an offset, a leap second, and their source. -/
def State.utcShow (s : State) (offset : Nat) (leap : Option Leap) (src : Nat) : State :=
  let s := s.set R.KNL_UTC_UTC_OFFSET 0 offset
  let k := (leap.map (·.kind)).getD 0
  let s := s.setFlag R.KNL_UTC_LEAP61 0 (k = 1)
  let s := s.setFlag R.KNL_UTC_LEAP59 0 (k = 2)
  let s := s.set R.KNL_UTC_SRC 0 src
  let s := s.setFlag R.KNL_UTC_VALID 0 (src ≠ 0)
  let s := s.set R.KNL_LEAP_AT 0 ((leap.map (·.at_)).getD 0)
  { s with time := { s.time with leap := leap } }

/-- The leap flags of PTP and NTP for the leap second that is announced (R48). -/
def State.leapFlags (s : State) : State :=
  match s.time.leap with
  | none => { s with time := { s.time with ptpLeap := 0, ntpLeap := 0 } }
  | some l =>
    let now := s.rtSec
    let day := if l.kind = 1 then 86401 else 86399
    let k := BitVec.ofNat 2 l.kind
    { s with time := { s.time with ptpLeap := if now + 43200 ≥ l.at_ then k else 0
                                   ntpLeap := if now + day ≥ l.at_ then k else 0 } }

/-- One source's value comes into force; a leap second less than 1 s away is refused (R47, R48). The offset that came with a refused
announcement counts, and no other leap second stays pending (log entry 78). -/
def State.utcTake (s : State) (u : UtcSrc) (src : Nat) : State :=
  let want := u.leap = 1 || u.leap = 2
  let same := s.time.leap == some ⟨u.leap, u.at_⟩
  let late := want && !same && decide (u.at_ * 2 ^ 48 < s.rt.toNat + 2 ^ 48)
  let s := if late then s.timeStat R.KNL_TIME_STAT_UTC_LATE else s
  (s.utcShow u.offset.toNat (if want && !late then some ⟨u.leap, u.at_⟩ else none) src).leapFlags

/-- The Kennel combines its sources of UTC (R47). With no source left, KNL_UTC keeps what it shows (log entry 78). -/
def State.utcCombine (s : State) : State :=
  match s.time.utcGnss, s.time.utcHost with
  | none, none => s
  | some g, none => s.utcTake g 1
  | none, some h => s.utcTake h (if s.time.utcOverride then 3 else 2)
  | some g, some h =>
    if s.time.utcOverride then s.utcTake h 3
    else if g.offset = h.offset && g.leap = h.leap && (g.leap = 0 || g.at_ = h.at_) then s.utcTake g 1
    else
      let s := (s.utcShow (s.get R.KNL_UTC_UTC_OFFSET) none (s.get R.KNL_UTC_SRC)).leapFlags
      let s := s.timeStat R.KNL_TIME_STAT_UTC_CONFLICT
      let s := s.recordFree 0x0021
      s.raise fsUtcConflict

/-- A UTC command of the host (R47, R67): the offset, leap code, TAI second and flags of its payload. -/
def State.utcHostCmd (s : State) (payload : List Byte) : State :=
  let u : UtcSrc := { offset := BitVec.ofNat 16 (leAt payload 0 2), leap := leAt payload 2 1, at_ := leAt payload 3 6 }
  let fl := leAt payload 9 1
  let s := if fl.testBit 1 then { s with time := { s.time with utcHost := none, utcOverride := false } }
    else { s with time := { s.time with utcHost := some u, utcOverride := fl.testBit 0 || s.time.utcOverride } }
  s.utcCombine

/-- The end of a leap second (R48): the offset changes by one second, here and in the sources that announced it. -/
def State.leapSecond (s : State) : State :=
  match s.time.leap with
  | none => s
  | some l =>
    if s.rtSec < l.at_ then s
    else
      let d : BitVec 16 := if l.kind = 1 then 1 else -1
      let fix := fun (u : UtcSrc) => if u.leap = l.kind && u.at_ = l.at_ then { u with offset := u.offset + d, leap := 0, at_ := 0 } else u
      let s := { s with time := { s.time with utcGnss := s.time.utcGnss.map fix, utcHost := s.time.utcHost.map fix } }
      let off := (BitVec.ofNat 16 (s.get R.KNL_UTC_UTC_OFFSET) + d).toNat
      ((s.utcShow off none (s.get R.KNL_UTC_SRC)).leapFlags).timeStat R.KNL_TIME_STAT_LEAP_DONE

/-! ### The time bus (R55 to R57) -/

/-- A stored LC converted: RT, version and SN. One older than every kept set sets LC_TOO_OLD and has no RT, for which 0 stands (R57; log
entry 80). -/
def State.convert (s : State) (lc : Time) : (Time × Nat × Bool) × State :=
  match s.rtAt lc with
  | some x => (x, s)
  | none => ((0, s.get R.KNL_TIME_MODE_CSET_VER, !s.inLc), s.timeStat R.KNL_TIME_STAT_LC_TOO_OLD)

/-- The full word that the time bus carries: LC, or the SN count in an SN state, with CSET_VER (R55). -/
def State.fullWord (s : State) : Time × Nat :=
  (if s.inLc then s.time.lc else s.time.sn, s.get R.KNL_TIME_MODE_CSET_VER)

/-- The machine's time `k` ticks on, if nothing else happens (R29, R50). -/
def State.later (s : State) (k : Nat) : State :=
  let t := s.time
  let (lc, frac) := lcAfter s.lcInc t.lc t.frac k
  { s with time := { t with lc := lc, frac := frac, sn := snMove t.sn (snTicks t.cad k), cad := (t.cad + k) % 3, tick := t.tick + k } }

/-- The time `k` ticks on with what takes effect on each of them. -/
def State.ahead (s : State) (k : Nat) : State := (List.range k).foldl (fun s _ => (s.later 1).updateTick.handoverTick) s

/-- The tick on which the slew in progress ends (R39). -/
def State.slewEndTick (s : State) : Option Nat :=
  s.time.slew.map fun w =>
    let goal := (w.start.toNat + ceilDiv (w.phase.toInt.natAbs * 2 ^ 64) (Nat.max 1 w.s.toInt.natAbs)) * 2 ^ 32
    s.time.tick + ceilDiv (goal - (s.time.lc.toNat * 2 ^ 32 + s.time.frac.toNat)) (Nat.max 1 s.lcInc)

/-- The correction set that the time bus has announced and every reader holds for its effective tick: the set of the next change (R55). -/
def State.announced (s : State) : Option (CorrSet × Nat) :=
  let t := s.time
  let dues := (t.fw.map (·.due)).toList ++ (t.freeze.map (·.due)).toList ++ t.steps.map (·.due) ++ (t.armed.map (·.2)).toList
    ++ (if s.inLc then s.slewEndTick.toList else [])
  dues.min?.map fun d => (((s.later (d - t.tick)).updateTick.handoverTick).time.cset, d)

/-- The entry at an index of a list of tick numbers. -/
def setAt (xs : List Nat) (i v : Nat) : List Nat :=
  let xs := xs ++ List.replicate (i + 1 - xs.length) 0
  xs.take i ++ [v] ++ xs.drop (i + 1)

/-- The count that a reader's replica shows, to be held against the full word (R56). -/
def State.replicaWord (s : State) (n : Fin 11) : Time := (s.seenBy n).fullWord.1

/-- An upset of a reader's replica of the count that the bus carries (R56). -/
def State.upset (s : State) (n : Fin 11) (by_ : Int) : State :=
  let r := s.time.replicas[n]
  let r := if s.inLc then { r with lc := r.lc + by_ } else { r with sn := r.sn + by_ }
  { s with time := { s.time with replicas := s.time.replicas.set n r } }

/-- How far a reader's replica is off the full word, in 2⁻⁴⁸ s (R56). -/
def State.replicaErr (s : State) (n : Fin 11) : Nat :=
  let units := fun (t : Time) => ((if s.inLc then t else sn96ToT96 t).toNat : Int)
  (units (s.replicaWord n) - units s.fullWord.1).natAbs

/-- A reader finds its replica different from a full word, and reloads it (R56, R313). -/
def State.readerMismatch (s : State) (n : Fin 11) : State :=
  let r := s.time.replicas[n]
  let err := s.replicaErr n
  let s := { s with time := { s.time with replicas := s.time.replicas.set n (if s.inLc then { r with lc := 0 } else { r with sn := 0 }) } }
  let s := if n.val < 8 then s.raiseBit R.KNL_TBUS_STAT_PG_MISMATCH 0 n
    else if n.val = 8 then s.timeStat R.KNL_TBUS_STAT_ENG_MISMATCH
    else if n.val = 9 then s.timeStat R.KNL_TBUS_STAT_SYN_MISMATCH
    else s.timeStat R.KNL_TBUS_STAT_PCK_MISMATCH
  let s := s.bump R.KNL_TBUS_STAT_MISMATCH_CNT
  let s := { s with time := { s.time with readerDegr := setAt s.time.readerDegr n (s.time.tick + 1024) } }
  let s := if n.val = 9 then s.synMismatch err else s
  s.degrSync.raise fsTbusMismatch n.val

/-! ### Meanings -/

/-- UPDATE_EFFECTIVE_TICK (R36, R37). -/
def execUpdateEffectiveTick (s : State) : Host.Outcome State Fault Refusal := done s.updateTick

/-- END_OF_SLEW_UPDATE (R39): other updates due on the tick merge with it. -/
def execEndOfSlewUpdate (s : State) : Host.Outcome State Fault Refusal :=
  done (s.when_ (s.inLc && s.dueNow.slewEnd) fun s => s.applyMerge s.dueNow)

/-- STEP_SN_EFFECT (R40). -/
def execStepSnEffect (s : State) : Host.Outcome State Fault Refusal := done (s.when_ (!s.inLc) State.stepSn)

/-- HANDOVER_TICK (R51, R53). Updates due on the same tick come first (R37). -/
def execHandoverTick (s : State) : Host.Outcome State Fault Refusal := done s.handoverTick

/-- CSET_ECC_ERROR (R54). -/
def execCsetEccError (badA badB : Bool) (s : State) : Host.Outcome State Fault Refusal :=
  done (s.when_ (badA || badB) fun s => s.csetEcc badA badB)

/-- SN_LOAD_EFFECT (R51). -/
def execSnLoadEffect (s : State) : Host.Outcome State Fault Refusal :=
  done <| match s.time.snLoad with
    | some (v, due) =>
      if s.time.tick < due then s
      else
        let s := { s with time := { s.time with snLoad := none } }
        if s.mode = 0 then { s with time := { s.time with sn := v } } else s
    | none => s

/-- TBUS_FULL_WORD_CHECK (R55, R56): a reader holds its replica, which an upset may have changed since the last full word, against the word. -/
def execTbusFullWordCheck (reader : Fin 11) (upset : Int) (s : State) : Host.Outcome State Fault Refusal :=
  let s := s.upset reader upset
  done (s.when_ (s.replicaWord reader != s.fullWord.1) fun s => s.readerMismatch reader)

/-- LEAP_FLAG_SET (R48). -/
def execLeapFlagSet (s : State) : Host.Outcome State Fault Refusal := done s.leapFlags

/-- LEAP_SECOND_EVENT (R48). -/
def execLeapSecondEvent (s : State) : Host.Outcome State Fault Refusal := done s.leapSecond

end Sys2Proof.Machine
end

