-- ==== Sys2Proof/Machine/Inlet.lean ====
section
/-! DEFINITION. The measurement inlet (R18) and what the Kennel makes of its records: GNSS (R157, R158), sessions (R223, R241), the
Pack uplink (R336), the Brace partner (R345) and AES3 (R360). Types are those of R259. -/

namespace Sys2Proof.Machine

/-- A record arrives at the inlet: 64 wait at most; the newest is dropped and counted when the queue is full (R18, R466). -/
def State.inletPut (s : State) (typ : Nat) (bytes : List Byte) : State :=
  if s.knl.inlet.length ≥ 64 then s.obs 0x0A 4
  else { s with knl := { s.knl with inlet := s.knl.inlet ++ [{ typ := typ, lc := s.time.lc, bytes := bytes }] } }

/-- The LC of an earlier instant of RT, by the set in force. -/
def State.lcAt (s : State) (rt : Nat) : Nat :=
  let d : Int := (s.rt.toNat : Int) - rt
  let r : Int := if s.inLc then s.time.cset.rate.toInt else 0
  ((s.time.lc.toNat : Int) - Int.fdiv (d * 2 ^ 64) (2 ^ 64 + r)).toNat

/-- The identifier that a record measures (R86): none for AES3. -/
def inletId (typ : Nat) (b : List Byte) : Option (Fin 23) :=
  match typ with
  | 2 => some 8
  | 3 => if h : leAt b 0x2B 1 < 8 then some ⟨9 + leAt b 0x2B 1, by omega⟩ else none
  | 4 => some 17
  | 5 => some 22
  | _ => none

/-- The record bound on the source: ref of R241. -/
def State.recRef (s : State) (typ : Nat) (id : Nat) (b : List Byte) : Nat :=
  if typ = 2 then s.sealedTerm 0xA08
  else if (leAt b 0x30 2).testBit 1 then leAt b 0x24 6
  else s.sealedTerm (0xC00 + 8 * id)

/-- A mean path delay in ps, rounded up. -/
def mpdPs (b : List Byte) : Nat := ceilDiv ((sext 64 (leAt b 0x14 8)).natAbs * 1000000000000) (2 ^ 48)

/-- The record bound on the path: path of R241, with the addition of R244 for a degraded record. -/
def State.recPath (s : State) (typ : Nat) (id : Nat) (b : List Byte) : Nat :=
  if typ = 2 then lsat (s.sealedTerm 0xA04 + leAt b 0x1C 4 + leAt b 0x20 4)
  else
    let hop := if typ = 3 then
        let p := leAt b 0x32 1
        s.linkUnc p (s.modeAct p)
      else
        let a := leAt b 0x35 1
        if a < 4 then s.sealedTerm (0xF00 + a * 0x30 + 0x18) + s.sealedTerm 0xD0C
        else s.linkUnc (a - 4) (s.modeAct (a - 4))
    let degr := if (leAt b 0x30 2).testBit 2 then s.sealedTerm 0xD00 else 0
    lsat (Nat.min (s.sealedTerm (0xC04 + 8 * id)) (mpdPs b) + 2 * hop + degr)

/-- Whether the Kennel refuses a GNSS record (R158). -/
def State.gnssRefused (s : State) (b : List Byte) : Bool :=
  let fl := leAt b 0x2A 2
  let acc := (s.store 0xA10).toNat
  (!fl.testBit 0 && !acc.testBit 0) || (fl.testBit 1 && !acc.testBit 1)

/-- The offset of the reference against RT in 2⁻⁴⁸ s: a GNSS record takes the antenna delay (R158). -/
def State.recOffset (s : State) (typ : Nat) (b : List Byte) : Int :=
  sext 64 (leAt b 0x0C 8) + (if typ = 2 then psToUnits (s.store 0xA00).toInt else 0)

/-- UTC of an authenticated GNSS record (R46, R157). -/
def State.gnssUtc (s : State) (b : List Byte) : State :=
  if (leAt b 0x2A 2).testBit 4 then
    let u : UtcSrc := { offset := BitVec.ofNat 16 (leAt b 0x2C 2), leap := leAt b 0x2E 1, at_ := leAt b 0x30 6 }
    ({ s with time := { s.time with utcGnss := some u } }).utcCombine
  else s

/-- Scent takes the record of an inlet reference: its period, its sample and its Leash terms (R87, R91, R95, R241). -/
def State.inletSample (s : State) (n : Fin 23) (typ : Nat) (b : List Byte) : State :=
  if s.refState n = rDisabled then s
  else
    let epoch := leAt b 0 12
    let off := s.recOffset typ b
    let s := if s.refState n = rAbsent then s.refMove n rQualifying none else s
    let period := if typ = 2 then 2 ^ 48 else leAt b 0x1C 4 * 2 ^ 48 / 1000
    let s := s.refSample n ((epoch : Int) + off) (BitVec.ofNat 96 (s.lcAt epoch)) (-off) (BitVec.ofNat 96 epoch)
    let r := s.refSt n
    let meas := if typ = 2 then leAt b 0x18 4 else leAt b 0x20 4
    s.setRef n { r with period := period, refPs := s.recRef typ n b, pathPs := s.recPath typ n b, measPs := meas
                        upClass := if typ = 2 then r.upClass else leAt b 0x2A 1
                        degr := typ ≠ 2 && (leAt b 0x30 2).testBit 2, verdict := 0 }

/-- Scent takes the record of an AES3 input (R91, R358): its first and last block start are samples of the reference, whose own time counts
frames; between two records lies the whole number of blocks nearest to the time between them. -/
def State.aesSample (s : State) (n : Fin 23) (b : List Byte) : State :=
  if s.refState n = rDisabled || s.refState n = rAbsent || !(leAt b 0x1D 1).testBit 0 then s
  else
    let f := s.ownRate n
    let first := leAt b 0 12
    let last := leAt b 12 12
    let r := s.refSt n
    let tau : Int := match r.samples with
      | [] => 0
      | x :: _ => x.tau + roundDiv (((first : Int) - x.lc) * f) (192 * 2 ^ 48) * 192 * 2 ^ 48
    let lastTau := tau + (leAt b 0x18 4 * 2 ^ 48 : Nat)
    let xs := keepSamples last r.samples
    let s := s.setRef n { r with lastEdge := s.time.lc.toNat
                                 samples := (if last = first then [] else [{ tau := lastTau, lc := last }]) ++ ({ tau := tau, lc := first } :: xs) }
    s.lastValid n s.rt.toNat

/-- The Kennel takes the record at the head of the inlet into the input log and Scent (R18, R77, R158, R259). -/
def State.inletTake (s : State) : State :=
  match s.knl.inlet with
  | [] => s
  | r :: q =>
    let s := { s with knl := { s.knl with inlet := q } }
    if r.typ = 2 && s.gnssRefused r.bytes then s
    else
      let (ok, s) := s.kinPut r.typ r.lc r.bytes
      if !ok then s
      else
        let s := if r.typ = 2 then s.gnssUtc r.bytes else s
        if r.typ = 6 then
          if h : leAt r.bytes 0x1C 1 < 4 then s.aesSample ⟨18 + leAt r.bytes 0x1C 1, by omega⟩ r.bytes else s
        else match inletId r.typ r.bytes with
        | some n => s.inletSample n r.typ r.bytes
        | none => s

/-- MEAS_INLET_RECORD (R18). -/
def execMeasInletRecord (s : State) : Host.Outcome State Fault Refusal := done s.inletTake

end Sys2Proof.Machine
end

