-- ==== Sys2Proof/Machine/Mtx.lean ====
section
/-! DEFINITION. The bus matrix: targets, error responses, and accesses of the masters that are not engines (R385, R386, R391, R454). -/

namespace Sys2Proof.Machine

/-- Whether a BAR0 offset belongs to the Kennel gate (R27, R386). -/
def gateReg (off : Nat) : Bool := (decide (0x1000000 ≤ off) && decide (off < 0x1500000)) || (decide (0x4000000 ≤ off) && decide (off < 0x4200000))

/-- The target that holds a matrix address (R386): 0 shared SRAM, 1 to 8 the client banks, 9 the register bus, 10 the Kennel gate, 11 the
default target. -/
def targetOf (a : Nat) : Fin 12 :=
  if 0x10000000 ≤ a && a < 0x10400000 then 0
  else if h : 0x20000000 ≤ a ∧ a < 0x21800000 then ⟨1 + (a - 0x20000000) / 0x300000, by omega⟩
  else if 0x40000000 ≤ a && a < 0x48000000 then
    let off := a - 0x40000000
    if gateReg off then 10
    else if [Block.clk, .pwr, .aon, .sec, .flt, .obs, .mtx, .hst, .fch, .gns, .prt, .lch, .srv, .adr, .eng, .pck, .brc].any (blkHas · off) then 9
    else 11
  else 11

/-- Whether a target is marked HUNG (R392). -/
def State.hung (s : State) (t : Fin 12) : Bool := t.val != 0 && t.val != 11 && (s.get R.MTX_TGT_STAT).testBit (t.val - 1)

/-- Kinds of an error record (R394). -/
def mkUnmapped := 0
def mkTimeout := 1
def mkHung := 2
def mkForce := 3

/-- The INSTANCE of a matrix error: the engine it concerns. -/
def masterInst (master : Nat) : Nat := if master < 10 then master + 2 else noInst

/-- An error response of R391: counted, recorded when no record is held, and its fault raised. -/
def State.mtxErr (s : State) (master : Nat) (a : Nat) (t : Fin 12) (write : Bool) (kind : Nat) : State :=
  let s := if s.flag R.MTX_ERR_INFO_VALID then s
    else
      let s := ((s.set R.MTX_ERR_ADDR 0 a).set R.MTX_ERR_INFO_MASTER 0 master).set R.MTX_ERR_INFO_TARGET 0 t.val
      ((s.setFlag R.MTX_ERR_INFO_WRITE 0 write).set R.MTX_ERR_INFO_KIND 0 kind).setFlag R.MTX_ERR_INFO_VALID 0 true
  let s := (s.bump R.MTX_CNT_ERR).obs 6 (128 + t.val * 4 + 2)
  if kind = mkUnmapped then (s.raiseBit R.MTX_EVT 0 0).raise fsMtxUnmapped (masterInst master)
  else if kind = mkTimeout then ((s.bump R.MTX_CNT_TMO_TIMEOUTS).raiseBit R.MTX_EVT 0 1).raise fsMtxTimeout t.val
  else s

/-- Whether `n` bytes of shared or client SRAM can be read: the memory has been cleared since the reset, its bank answers, and no word
holds an uncorrectable error (R392, R454, R481). -/
def State.sramOk (s : State) (a n : Nat) : Bool :=
  inSram a n && s.pwr.sramClear && !s.hung (targetOf a) && !s.hung (targetOf (a + n - 1)) && !s.badAt a n

/-- What follows from a read or write of `n` bytes that is answered with an error (R391, R454). -/
def State.sramErr (s : State) (master a n : Nat) (write : Bool) : State :=
  if !inSram a n then s.mtxErr master a 11 write mkUnmapped
  else if s.hung (targetOf a) then s.mtxErr master a (targetOf a) write mkHung
  else if s.badAt a n && !write then s.raise fsSramEccUncorr noInst
  else s

/-- `n` bytes of shared or client SRAM have been read: a word that ECC corrected raises SRAM_ECC_CORR (R454). -/
def State.sramSoft (s : State) (a n : Nat) : State := if s.softs a n = 0 then s else s.raise fsSramEccCorr noInst

/-- A write by a master of the device: into SRAM, or the error response that it gets (R391). -/
def State.devWrite (s : State) (master a : Nat) (bs : List Byte) : State :=
  if inSram a bs.length && !s.hung (targetOf a) then s.setBytes a bs else s.sramErr master a bs.length true

end Sys2Proof.Machine
end

