-- ==== Sys2Proof/Machine/EngRun.lean ====
section
/-! DEFINITION. Engine states: RUN, GATE, loading, measuring, watchdog and doorbell (R260, R261, R264, R268, R272 to R274),
and Guard's supervision of the Warden (R461 to R464). The write commands of these registers are in Machine/Rows.lean. -/

namespace Sys2Proof.Machine

/-- FLT_GUARD_STAT.STATE (R461). -/
def State.guard (s : State) : Nat := s.get R.FLT_GUARD_STAT_STATE

/-- Guard moves to a state: 0 NORMAL, 1 RELOADING, 2 AWAIT, 3 SUSPENDED, 4 ABANDONED. It waits for a heartbeat from its entry into AWAIT on. -/
def State.setGuard (s : State) (g : Nat) : State :=
  let s := if g = 2 then { s with flt := { s.flt with hbAt := s.time.lc.toNat } } else s
  (s.set R.FLT_GUARD_STAT_STATE 0 g).syncFlt

/-- An engine runs at ENTRY (R260). -/
def State.startAt (s : State) (n : Fin 12) : State :=
  let e := s.engine n
  let s := s.setEng n { e with pc := (e.image.map (·.entry)).getD 0, stopping := false }
  let s := s.set R.ENG_STAT_STATE n stRunning
  if n = 2 then s.takeNmi else s

/-- RUN is set (R260); E2 to E11 refuse it in BLANK and RETIRED (R446, R450). Guard awaits the Warden's heartbeat from then on (R461). -/
def State.runSet (s : State) (n : Fin 12) : State :=
  if 2 ≤ n.val && (s.get R.SEC_STATE_LC == 4 || s.get R.SEC_STATE_LC == 0) then (s.setFlag R.ENG_CTRL_RUN n false).raiseBit R.ENG_EVT n evRunRefused
  else if s.engState n = stStopped then
    if s.flag R.ENG_STAT_MEAS_VALID n then
      let s := (s.setFlag R.ENG_CTRL_RUN n true).startAt n
      if n = 2 && (s.guard == 3 || s.guard == 1) then s.setGuard 2 else s
    else (s.setFlag R.ENG_CTRL_RUN n false).raiseBit R.ENG_EVT n evRunRefused
  else s.setFlag R.ENG_CTRL_RUN n true

/-- RUN is cleared (R260). When host software clears RUN of the Warden, Guard suspends its watch (R277, R461). -/
def State.runOff (s : State) (n : Fin 12) (host : Bool) : State :=
  let s := s.runClear n
  if n = 2 && host && (s.guard == 0 || s.guard == 2) then s.setGuard 3 else s

/-- Whether an engine has a matrix access outstanding (R260). -/
def State.accessOut (s : State) (n : Fin 12) : Bool :=
  let e := s.engine n
  !e.wbuf.isEmpty || decide (e.unacked > 0)
    || s.mtx.reqs.any (fun r => decide (r.master.val + 2 = n.val)) || s.mtx.resps.any (fun r => decide (r.master.val + 2 = n.val) && !r.dead)

/-- The engine is STOPPED: jobs not delivered are discarded, the others go on without their tickets (R260, R267). -/
def State.stopped (s : State) (n : Fin 12) : State :=
  let s := s.orphan n
  let e := s.engine n
  let s := s.setEng n { e with stopping := false, tickets := [], held := none, waiting := none, stopAt := s.time.lc.toNat }
  (s.set R.ENG_STAT_STATE n stStopped).syncTickets n

/-- A stop completes once no matrix access is outstanding (R260). -/
def State.stopComplete (s : State) (n : Fin 12) : State :=
  if (s.engine n).stopping && !s.accessOut n then s.stopped n else s

/-- GATE is honoured in STOPPED and OFF only (R260). -/
def State.gateSet (s : State) (n : Fin 12) (on : Bool) : State :=
  let st := s.engState n
  if on && st == stStopped then (s.setFlag R.ENG_CTRL_GATE n true).set R.ENG_STAT_STATE n stOff
  else if !on && st == stOff then ((s.setFlag R.ENG_CTRL_GATE n false).set R.ENG_STAT_STATE n stStopped).setEng n { s.engine n with stopAt := s.time.lc.toNat }
  else s

/-- LOAD_DONE starts the measurement of the image (R261, R273). -/
def State.loadDone (s : State) (n : Fin 12) : State :=
  if s.engState n = stStopped then s.set R.ENG_STAT_STATE n stMeasuring
  else s.raiseBit R.ENG_EVT n evLoadRefused

/-- The 128 header bytes of the image to be measured (R272). -/
def State.header (s : State) (n : Fin 12) : List Byte :=
  leBytes 128 (s.wordsN (R.ENG_LOAD_HDR.at n) 32)

/-- Where DMEM of an engine begins in its window (R278). -/
def dmemAt (n : Fin 12) : Nat := imemAt n + 0x10000

/-- The first check that a header fails, as LOAD_REASON: 1 MAGIC or FORMAT, 2 CLASS, 3 length, 4 entry (R273). -/
def headerFault (n : Fin 12) (rom : Bool) (h : List Byte) : Nat :=
  let il := leAt h 8 4
  let dl := leAt h 12 4
  let cls := leAt h 6 1
  if h.take 4 != [0x56#8, 0x4C#8, 0x53#8, 0x54#8] || leAt h 4 2 ≠ 1 then 1
  else if !(if rom then n = 2 && cls == 2 else 2 ≤ n.val && cls == 0) then 2
  else if il % 4 ≠ 0 || il < 4 || il > 65536 || dl % 4 ≠ 0 || dl > 65536 then 3
  else if leAt h 16 4 ≥ il || leAt h 20 4 ≥ il || leAt h 24 4 ≥ il then 4
  else 0

/-- SEC_SERVE_MEAS is extended by an engine's measurement (R440). -/
def State.serveExtend (s : State) (n : Fin 12) : State :=
  let d := sha256D (leBytes 32 (s.get R.SEC_SERVE_MEAS) ++ leBytes 32 (s.get R.ENG_MEAS n) ++ [BitVec.ofNat 8 n.val])
  s.set R.SEC_SERVE_MEAS 0 d.toNat

/-- A measurement that has passed (R273): ENG_MEAS, the image's version and lengths, MEAS_VALID. -/
def State.measured (s : State) (n : Fin 12) (cls entry trap restart ver iw dw : Nat) (d : Digest) : State :=
  let img : Image := { cls := cls, entry := BitVec.ofNat 16 entry, trapEntry := BitVec.ofNat 16 trap, restart := BitVec.ofNat 16 restart }
  let s := s.setEng n { s.engine n with image := some img, rom := false, stopAt := s.time.lc.toNat }
  let s := ((s.set R.ENG_MEAS n d.toNat).set R.ENG_IMG_VER n ver).set R.ENG_IMG_LEN_IMEM_WORDS n iw
  let s := (s.set R.ENG_IMG_LEN_DMEM_WORDS n dw).set R.ENG_STAT_LOAD_REASON n 0
  ((s.setFlag R.ENG_STAT_MEAS_VALID n true).set R.ENG_STAT_STATE n stStopped).serveExtend n

/-- A measurement that has failed (R273). -/
def State.measFailed (s : State) (n : Fin 12) (reason : Nat) : State :=
  let s := s.setEng n { s.engine n with rom := false, stopAt := s.time.lc.toNat }
  let s := (s.set R.ENG_STAT_LOAD_REASON n reason).setFlag R.ENG_STAT_MEAS_VALID n false
  (s.raiseBit R.ENG_EVT n evLoadErr).set R.ENG_STAT_STATE n stStopped

/-- The measurement ends (R273): header checks, DMEM cleared past its body, BODY_HASH over both bodies. The recovery image
passes with its fixed measurement, and Guard then sets RUN (R274, R462). -/
def State.measureEnd (s : State) (n : Fin 12) : State :=
  if s.engState n ≠ stMeasuring then s
  else if (s.engine n).rom then
    let w := fun i => (Config.recoveryImage i).toNat
    let s := s.measured n 2 (w 0) (w 1) (w 2) (w 3) (w 4) (w 5) Config.recoveryMeas
    if s.guard = 1 then s.runSet n else s
  else
    let h := s.header n
    let bad := headerFault n false h
    if bad ≠ 0 then s.measFailed n bad
    else
      let il := leAt h 8 4
      let dl := leAt h 12 4
      let s := s.memCut (dmemAt n + dl) (dmemAt n + 0x10000)
      let body := s.bytes (imemAt n) il ++ s.bytes (dmemAt n) dl
      if sha256 body != slice h 0x20 32 then s.measFailed n 5
      else s.measured n (leAt h 6 1) (leAt h 16 4) (leAt h 20 4) (leAt h 24 4) (leAt h 28 4) (il / 4) (dl / 4) (sha256D (h ++ body))

/-- A write to IMEM or ENG_LOAD_HDR of E2 to E11: accepted in STOPPED and HALTED, and MEAS_VALID is cleared (R261). -/
def State.imemOpen (s : State) (n : Fin 12) (f : State → State) : State :=
  let st := s.engState n
  if st = stStopped || st = stHalted then (f s).setFlag R.ENG_STAT_MEAS_VALID n false
  else s.raiseBit R.ENG_EVT n evImemRefused

/-- ENG_DBELL sets bits in ENG_DBELL_PEND; a set bit is the DBELL wake event (R263, R264). -/
def State.dbellSet (s : State) (n : Fin 12) (v : Word) : State :=
  if v = 0 then s else (s.set R.ENG_DBELL_PEND n (s.get R.ENG_DBELL_PEND n ||| v.toNat)).event n 4

/-- A write of ENG_WDOG sets the period and restarts the count (R278). -/
def State.wdogSet (s : State) (n : Fin 12) (v : Word) : State :=
  let s := s.set R.ENG_WDOG n v.toNat
  s.setEng n { s.engine n with wdogOn := s.get R.ENG_WDOG n != 0, wdogAt := s.time.lc.toNat, wdogDue := false }

/-- The watchdog expires once PERIOD has passed without a write (R268, R278): the trap is taken at the instruction boundary. -/
def State.wdogExpire (s : State) (n : Fin 12) : State :=
  let e := s.engine n
  let st := s.engState n
  if e.wdogOn && s.passed e.wdogAt (s.get R.ENG_WDOG n) && (st == stRunning || st == stWaiting) then
    let s := (s.setEng n { e with wdogOn := false }).raiseBit R.ENG_EVT n evWdog
    if e.held.isSome then s.setEng n { s.engine n with wdogDue := true } else s.trap n cWDOG
  else s

/-- Traps that waited for a held instruction are taken now that it has completed (R268, R269). -/
def State.boundaryTraps (s : State) (n : Fin 12) : State :=
  let e := s.engine n
  if e.wdogDue && e.held.isNone then (s.setEng n { e with wdogDue := false }).trap n cWDOG
  else if n = 2 then s.takeNmi else s

/-- A heartbeat of an engine: ENG_HB takes the value; a change by the Warden brings Guard from AWAIT to NORMAL (R461). -/
def State.heartbeat (s : State) (n : Fin 12) (v : Word) : State :=
  let changed := s.get R.ENG_HB n != v.toNat
  let s := s.set R.ENG_HB n v.toNat
  let s := if n = 2 && changed then { s with flt := { s.flt with hbAt := s.time.lc.toNat } } else s
  if n = 2 && changed && s.guard == 2 then s.setGuard 0 else s

/-! ### Guard (R461 to R464) -/

/-- Guard reloads the Warden (R462): RUN cleared, Block reset, recovery image copied, LOAD_DONE. RUN is set when the
measurement ends. -/
def State.guardReload (s : State) : State :=
  let s := (s.setGuard 1).bump R.FLT_GUARD_STAT_RELOADS
  let s := (s.setFlag R.ENG_CTRL_RUN 2 false).engineBlockReset 2
  let s := s.loadBodies 2 (4 * (Config.recoveryImage 4).toNat) (4 * (Config.recoveryImage 5).toNat) Config.recoveryByte
  let s := s.setEng 2 { s.engine 2 with rom := true }
  s.loadDone 2

/-- Guard gives the Warden up (R463). -/
def State.guardAbandon (s : State) : State :=
  let s := (s.setGuard 4).setFlag R.ENG_CTRL_RUN 2 false
  (s.stopped 2).levelOn fsWardenAbandoned 2

/-- A miss once ENG_HB has stood for HB_TIMEOUT (R461): counted within 600 RT seconds; the third abandons the Warden. Guard counts none while it
reloads, or is SUSPENDED or ABANDONED. -/
def State.hbMiss (s : State) : State :=
  if (s.guard ≠ 0 && s.guard ≠ 2) || !s.passed s.flt.hbAt (s.get R.FLT_GUARD_CFG * 1000) then s
  else
    let now := s.rtSec
    let ms := (s.flt.misses.filter fun t => decide (now < t + 600)) ++ [now]
    let s := { s with flt := { s.flt with misses := ms } }
    let s := s.set R.FLT_GUARD_STAT_MISSES 0 (Nat.min ms.length 3)
    let s := s.raise fsWardenHbMiss 2
    if ms.length ≥ 3 then s.guardAbandon else s.guardReload

/-- FLT_GUARD_CTRL.RESTART (R461). -/
def State.guardRestart (s : State) : State :=
  if s.guard = 4 then
    let s := ({ s with flt := { s.flt with misses := [] } }).set R.FLT_GUARD_STAT_MISSES 0 0
    (s.levelOff fsWardenAbandoned).guardReload
  else s

/-- 10 ms without a heartbeat of Guard (R464). -/
def State.guardFails (s : State) : State :=
  if s.passed s.flt.guardAt 10000 then
    let s := { s with knl := { s.knl with guardFail := true } }
    (s.levelOn fsGuardFail).syncFlt
  else s

/-- A heartbeat of Guard (R464): once they have come for 10 ms, none 10 ms after the one before, GUARD_FAIL ends. -/
def State.guardBeat (s : State) : State :=
  let now := s.time.lc.toNat
  let s := { s with flt := { s.flt with guardAt := now, guardFrom := if s.passed s.flt.guardAt 10000 then now else s.flt.guardFrom } }
  if s.knl.guardFail && s.passed s.flt.guardFrom 10000 then
    let s := { s with knl := { s.knl with guardFail := false } }
    (s.levelOff fsGuardFail).syncFlt
  else s

/-- The misses of the last 600 s (R461, R465); the counter follows the second. -/
def State.guardSecond (s : State) : State :=
  let ms := s.flt.misses.filter fun t => decide (s.rtSec < t + 600)
  let s := { s with flt := { s.flt with misses := ms } }
  s.set R.FLT_GUARD_STAT_MISSES 0 (Nat.min s.flt.misses.length 3)

/-! ### Meanings -/

/-- ENG_STOP_COMPLETE (R260). -/
def execEngStopComplete (n : Fin 12) (s : State) : Host.Outcome State Fault Refusal := done (s.stopComplete n)

/-- MEASUREMENT_DONE (R273). -/
def execMeasurementDone (n : Fin 12) (s : State) : Host.Outcome State Fault Refusal := done (s.measureEnd n)

/-- ENG_WDOG_EXPIRY (R268). -/
def execEngWdogExpiry (n : Fin 12) (s : State) : Host.Outcome State Fault Refusal := done (s.wdogExpire n)

/-- GUARD_HB_MISS (R461). -/
def execGuardHbMiss (s : State) : Host.Outcome State Fault Refusal := done s.hbMiss

/-- GUARD_HEARTBEAT (R464). -/
def execGuardHeartbeat (s : State) : Host.Outcome State Fault Refusal := done s.guardBeat

/-- GUARD_FAIL_TIMEOUT (R464). -/
def execGuardFailTimeout (s : State) : Host.Outcome State Fault Refusal := done s.guardFails

/-- BARK_N_MIN_HOLD (R458): the 10 µs minimum is over. -/
def execBarkNMinHold (s : State) : Host.Outcome State Fault Refusal :=
  done (s.when_ (s.passed s.flt.barkAt 10) fun s => State.syncFlt { s with flt := { s.flt with barkHold := false } })

end Sys2Proof.Machine
end

