-- ==== Sys2Proof/Machine/Clk.lean ====
section
/-! DEFINITION. Clocks (R395 to R406): the crystals, SYSPLL, the clock selectors and KPLL. -/

namespace Sys2Proof.Machine

/-- A CLK event bit. -/
def State.clkEvt (s : State) (b : Nat) : State := s.raiseBit R.CLK_EVT 0 b

/-- CLK_STAT.SW_BUSY follows the selectors. -/
def State.syncSw (s : State) : State := s.setFlag R.CLK_STAT_SW_BUSY 0 (s.pwr.rootSw.isSome || s.pwr.aonSw.isSome)

/-- The root selector begins a switch (R401). -/
def State.rootTo (s : State) (src : Nat) : State := ({ s with pwr := { s.pwr with rootSw := some src } }).syncSw

/-- The AON selector begins a switch. -/
def State.aonTo (s : State) (src : Nat) : State := ({ s with pwr := { s.pwr with aonSw := some src } }).syncSw

/-- The crystals and PLLs work: power is applied. -/
def State.powered (s : State) : Bool := s.pwr.power != Power.off

/-- Whether the count of a frequency window passes, by the source of the AON clock (R395). -/
def State.windowOk (s : State) (count : Nat) : Bool :=
  if s.flag R.CLK_STAT_AON_SRC then decide (((2 * count : Nat) - (78125 : Int)).natAbs * 100 ≤ 78125)
  else decide (((count : Int) - 40000).natAbs * 100 ≤ 8 * 40000)

/-- The difference of a frequency window from the expected count in 10⁻⁶. -/
def State.windowErr (s : State) (count : Nat) : Int :=
  if s.flag R.CLK_STAT_AON_SRC then roundDiv (((2 * count : Nat) - (78125 : Int)) * 1000000) 78125
  else roundDiv (((count : Int) - 40000) * 1000000) 40000

/-- What a frequency window shows: its amplitude and its error. An error that the 16-bit field cannot hold leaves a free value
there (log entry 4). -/
def State.windowShow (s : State) (count : Nat) (amp : Byte) : State :=
  let e := s.windowErr count
  let s := s.set R.CLK_XTAL_STAT_AMP 0 amp.toNat
  if e.natAbs < 32768 then s.set R.CLK_XTAL_STAT_FREQ_ERR 0 (trunc 16 e)
  else s.drawn.set R.CLK_XTAL_STAT_FREQ_ERR 0 (Config.freeBits 16 s.draw).toNat

/-- XTAL is lost (R395); a root that still runs from it moves to SYSPLL by the stopped-clock path (R402). -/
def State.xtalLost (s : State) : State :=
  if !s.flag R.CLK_STAT_XTAL_RDY then s
  else
    let s := ((s.setFlag R.CLK_STAT_XTAL_RDY 0 false).setFlag R.CLK_STAT_XTAL_LOST 0 true).clkEvt 0
    let s := s.levelOn fsXtalLost
    if s.get R.CLK_STAT_ROOT_SRC = 0 then (s.set R.CLK_ROOT_SEL 0 1).rootTo 1 else s

/-- SYSPLL coasts (R398): XTAL is lost, or lock is lost with XTAL present. -/
def State.coast (s : State) (unlock : Bool) (vtune : Byte) : State :=
  let present := s.flag R.CLK_STAT_XTAL_RDY
  if s.flag R.CLK_STAT_SYSPLL_COAST || !(s.flag R.CLK_STAT_XTAL_LOST || (unlock && present && s.flag R.CLK_STAT_SYSPLL_LOCK)) then s
  else
    let s := (s.setFlag R.CLK_STAT_SYSPLL_COAST 0 true).setFlag R.CLK_STAT_SYSPLL_LOCK 0 false
    let s := { s with pwr := { s.pwr with rampFrom := s.time.lc.toNat } }
    let s := ((s.bump R.CLK_SYSPLL_STAT_UNLOCKS).set R.CLK_SYSPLL_STAT_BAND 0 0).set R.CLK_SYSPLL_STAT_VTUNE 0 vtune.toNat
    if present then (s.clkEvt 2).levelOn fsSyspllUnlock else s

/-- XTAL_RDY sets: the ramp of a coasting SYSPLL begins (R395, R399). -/
def State.xtalReady (s : State) : State :=
  { s.setFlag R.CLK_STAT_XTAL_RDY 0 true with pwr := { s.pwr with rampFrom := s.time.lc.toNat } }

/-- The ramp back to 2.4 GHz, of 1 ms, ends (R399). -/
def State.rampDone (s : State) (band : BitVec 6) (vtune : Byte) : State :=
  if s.flag R.CLK_STAT_SYSPLL_COAST && s.flag R.CLK_STAT_XTAL_RDY && s.past s.pwr.rampFrom 1 1000 then
    let s := ((s.setFlag R.CLK_STAT_SYSPLL_COAST 0 false).setFlag R.CLK_STAT_XTAL_LOST 0 false).setFlag R.CLK_STAT_SYSPLL_LOCK 0 true
    let s := ((s.set R.CLK_SYSPLL_STAT_BAND 0 band.toNat).set R.CLK_SYSPLL_STAT_VTUNE 0 vtune.toNat).clkEvt 1
    (s.levelOff fsXtalLost).levelOff fsSyspllUnlock
  else s

/-- SYSPLL locks after XTAL_RDY; the boot sequencer moves the root to it (R397, R402, R481). -/
def State.syspllLock (s : State) (band : BitVec 6) (vtune : Byte) : State :=
  if s.flag R.CLK_STAT_XTAL_RDY && !s.flag R.CLK_STAT_SYSPLL_LOCK && !s.flag R.CLK_STAT_SYSPLL_COAST then
    let s := s.setFlag R.CLK_STAT_SYSPLL_LOCK 0 true
    let s := (s.set R.CLK_SYSPLL_STAT_BAND 0 band.toNat).set R.CLK_SYSPLL_STAT_VTUNE 0 vtune.toNat
    if s.get R.CLK_STAT_ROOT_SRC = 0 && s.pwr.rootSw.isNone then (s.set R.CLK_ROOT_SEL 0 1).rootTo 1 else s
  else s

/-- A write of CLK_ROOT_SEL requests a switch (R400, R401). -/
def State.rootSel (s : State) (v : Word) : State :=
  let want := v.toNat % 2
  let ready := if want = 0 then s.flag R.CLK_STAT_XTAL_RDY else s.flag R.CLK_STAT_SYSPLL_LOCK || s.flag R.CLK_STAT_SYSPLL_COAST
  if s.pwr.rootSw.isSome || !ready then s.clkEvt 3
  else if want = s.get R.CLK_STAT_ROOT_SRC then s
  else (s.set R.CLK_ROOT_SEL 0 want).rootTo want

/-- Whether the source that a selector leaves has stopped (R395, R396, R401): XTAL, or the AON crystal, once it is lost. The RC oscillator and
SYSPLL never stop. -/
def State.oldStopped (s : State) (aon : Bool) : Bool :=
  if aon then s.flag R.CLK_STAT_AON_SRC && !s.flag R.CLK_STAT_AON_XTAL_RDY else s.get R.CLK_STAT_ROOT_SRC == 0 && !s.flag R.CLK_STAT_XTAL_RDY

/-- A selector completes its switch; with the old source stopped it does so after 8 cycles of the new one (R401). -/
def State.switched (s : State) (aon : Bool) : State :=
  let stopped := s.oldStopped aon
  let s := match (if aon then s.pwr.aonSw else s.pwr.rootSw) with
    | none => s
    | some src =>
      let s := s.set (if aon then R.CLK_STAT_AON_SRC else R.CLK_STAT_ROOT_SRC) 0 src
      let s := { s with pwr := if aon then { s.pwr with aonSw := none } else { s.pwr with rootSw := none } }
      if stopped then s.clkEvt 4 else s
  s.syncSw

/-! ### KPLL (R403 to R406) -/

/-- The sealed entry of a KPLL source (R403). -/
def State.kpllSrc (s : State) (k : Nat) : Nat := (s.store (0xB80 + 4 * k)).toNat

/-- Whether a source is ready for KPLL (R404): 0 to 3 oscillators, 4 XTAL. -/
def State.kpllReady (s : State) (k : Nat) : Bool :=
  if k = 4 then s.flag R.CLK_STAT_XTAL_RDY
  else (s.kpllSrc k).testBit 7 && (s.get R.OSC_STATE_STATE k == 1 || s.get R.OSC_STATE_STATE k == 2) && s.pwr.edges.getLsbD k

/-- PREF of a source. -/
def State.kpllPref (s : State) (k : Nat) : Nat := bits (s.kpllSrc k) 4 3

/-- The ready source with the lowest PREF, the lowest number among equals; XTAL only when no oscillator is ready (R404). -/
def State.kpllBest (s : State) : Option Nat :=
  let oscs := (List.range 4).filter s.kpllReady
  match oscs with
  | [] => if s.kpllReady 4 then some 4 else none
  | k :: ks => some (ks.foldl (fun b x => if s.kpllPref x < s.kpllPref b then x else b) k)

/-- KPLL takes a source: OSC_STATE.TICK_SRC and CLK_STAT.KPLL_SRC name it. -/
def State.kpllTake (s : State) (k : Nat) : State :=
  let s := s.set R.CLK_STAT_KPLL_SRC 0 k
  s.forN 4 fun i s => s.setFlag R.OSC_STATE_TICK_SRC i (i == k)

/-- KPLL moves to another source; the tick does not move (R405). -/
def State.kpllSwitch (s : State) (k : Nat) : State :=
  (((s.kpllTake k).bump R.CLK_KPLL_CNT_SWITCHES).clkEvt 6).kinNote 7

/-- No source is ready: KPLL holds its control word (R406). -/
def State.kpllHold (s : State) : State :=
  if s.flag R.CLK_STAT_KPLL_HOLD then s
  else
    let s := (s.setFlag R.CLK_STAT_KPLL_HOLD 0 true).kpllTake 7
    ((s.bump R.CLK_KPLL_CNT_HOLDS).clkEvt 7).levelOn fsKpllHold

/-- What the oscillator inputs showed over the last 1 ms. -/
def State.kpllEdges (s : State) (edges : BitVec 4) : State := { s with pwr := { s.pwr with edges := edges } }

/-- The source of KPLL stops being ready: KPLL switches at once, or holds (R404, R406). -/
def State.kpllLoss (s : State) (edges : BitVec 4) : State :=
  let s := s.kpllEdges edges
  let cur := s.get R.CLK_STAT_KPLL_SRC
  if !s.flag R.CLK_STAT_KPLL_LOCK || cur == 7 || s.kpllReady cur then s
  else match s.kpllBest with
    | some k => s.kpllSwitch k
    | none => s.kpllHold

/-- A ready oscillator of lower PREF that has been MEMBER for 60 s becomes the source (R404). -/
def State.kpllBetter (s : State) (edges : BitVec 4) (k : Fin 4) : State :=
  let s := s.kpllEdges edges
  let cur := s.get R.CLK_STAT_KPLL_SRC
  let k5 : Fin 5 := ⟨k.val, by omega⟩
  if s.flag R.CLK_STAT_KPLL_LOCK && cur != 7 && s.kpllReady k && s.oscState k == 2 && decide (s.refs.osc[k5].memberFor ≥ 60)
    && decide (s.kpllPref k < s.kpllPref cur) then s.kpllSwitch k
  else s

/-- A source becomes ready while KPLL holds (R406). -/
def State.kpllHoldExit (s : State) (edges : BitVec 4) : State :=
  let s := s.kpllEdges edges
  match s.flag R.CLK_STAT_KPLL_HOLD, s.kpllBest with
  | true, some k => ((s.setFlag R.CLK_STAT_KPLL_HOLD 0 false).levelOff fsKpllHold).kpllSwitch k
  | _, _ => s

/-- KPLL first reports lock after a Cold or Chip reset: LC and its hidden fraction are zero and LC runs; the source of time is
SN_BOOT (R31, R51, R404). -/
def State.kpllFirstLock (s : State) (edges : BitVec 4) : State :=
  let s := s.kpllEdges edges
  match s.kpllBest with
  | none => s
  | some k =>
    if s.flag R.CLK_STAT_KPLL_LOCK || s.pwr.power != Power.on || s.aon.vrst then s
    else
      let s := ((s.setFlag R.CLK_STAT_KPLL_LOCK 0 true).kpllTake k).clkEvt 8
      { s with time := { s.time with running := true, lc := 0, frac := 0 } }

/-! ### Meanings -/

/-- XTAL_READY (R395): the first frequency window after 65,536 cycles with the amplitude above 60 %. -/
def execXtalReady (count : Nat) (amp : Byte) (s : State) : Host.Outcome State Fault Refusal :=
  done (s.when_ (s.powered && !s.flag R.CLK_STAT_XTAL_RDY) fun s =>
    let s := s.windowShow count amp
    if s.windowOk count && decide (amp.toNat > 60) then s.xtalReady else s)

/-- XTAL_FREQ_WINDOW (R395): a later window is judged. -/
def execXtalFreqWindow (count : Nat) (amp : Byte) (s : State) : Host.Outcome State Fault Refusal :=
  done (s.when_ s.powered fun s =>
    let ok := s.windowOk count
    let s := s.windowShow count amp
    if ok then s else s.xtalLost)

/-- XTAL_LOSS (R395): the amplitude stayed below 30 % for 2 µs. -/
def execXtalLoss (amp : Byte) (s : State) : Host.Outcome State Fault Refusal :=
  done (s.when_ s.powered fun s =>
    let s := s.set R.CLK_XTAL_STAT_AMP 0 amp.toNat
    if amp.toNat < 30 then s.xtalLost else s)

/-- AON_XTAL_READY (R396). -/
def execAonXtalReady (s : State) : Host.Outcome State Fault Refusal :=
  done (s.when_ (s.powered && !s.flag R.CLK_STAT_AON_XTAL_RDY) fun s =>
    ((s.setFlag R.CLK_STAT_AON_XTAL_RDY 0 true).levelOff fsAonXtalLost).aonTo 1)

/-- AON_XTAL_LOSS (R396): AON falls back to the RC oscillator through the stopped-clock path. -/
def execAonXtalLoss (s : State) : Host.Outcome State Fault Refusal :=
  done (s.when_ (s.powered && s.flag R.CLK_STAT_AON_XTAL_RDY) fun s =>
    (((s.setFlag R.CLK_STAT_AON_XTAL_RDY 0 false).aonTo 0).clkEvt 5).levelOn fsAonXtalLost)

/-- SYSPLL_LOCK (R397). -/
def execSyspllLock (band : BitVec 6) (vtune : Byte) (s : State) : Host.Outcome State Fault Refusal := done (s.syspllLock band vtune)

/-- SYSPLL_COAST (R398). -/
def execSyspllCoast (unlock : Bool) (vtune : Byte) (s : State) : Host.Outcome State Fault Refusal := done (s.coast unlock vtune)

/-- SYSPLL_RAMP_DONE (R399). -/
def execSyspllRampDone (band : BitVec 6) (vtune : Byte) (s : State) : Host.Outcome State Fault Refusal := done (s.rampDone band vtune)

/-- CLK_SWITCH_COMPLETE (R401). -/
def execClkSwitchComplete (aon : Bool) (s : State) : Host.Outcome State Fault Refusal := done (s.switched aon)

/-- KPLL_SOURCE_LOSS (R404). -/
def execKpllSourceLoss (edges : BitVec 4) (s : State) : Host.Outcome State Fault Refusal := done (s.kpllLoss edges)

/-- KPLL_BETTER_SOURCE (R404). -/
def execKpllBetterSource (edges : BitVec 4) (k : Fin 4) (s : State) : Host.Outcome State Fault Refusal := done (s.kpllBetter edges k)

/-- KPLL_HOLD_EXIT (R406). -/
def execKpllHoldExit (edges : BitVec 4) (s : State) : Host.Outcome State Fault Refusal := done (s.kpllHoldExit edges)

/-- KPLL_FIRST_LOCK (R31). -/
def execKpllFirstLock (edges : BitVec 4) (s : State) : Host.Outcome State Fault Refusal := done (s.kpllFirstLock edges)

end Sys2Proof.Machine
end

