-- ==== Sys2Proof/Machine/Pwr.lean ====
section
/-! DEFINITION. Gated units, DOZE and the crossings between regions (R407 to R414, R171). The write commands of PWR registers are
in Machine/Rows.lean. -/

namespace Sys2Proof.Machine

/-- Outcomes of PWR_GATE_STAT.LAST (R418). -/
def gDone := 0
def gBusy := 1
def gRefused := 2
def gUngateRefused := 3
def gCmdRefused := 4
def gAbandoned := 5

/-- The last gate command ended so. -/
def State.gateLast (s : State) (v : Nat) : State := s.set R.PWR_GATE_STAT_LAST 0 v

/-- Whether a unit was gated by FORCE and not reset since (R409). -/
def State.needsReset (s : State) (u : Nat) : Bool := (s.get R.PWR_GATE_STAT_NEEDS_RESET).testBit u

/-- Whether a unit has a command in progress. -/
def State.gateInProg (s : State) (u : Nat) : Bool := s.pwr.quiesce.any (fun q => q.1 == u) || s.pwr.ungating.any (· == u)

/-- BUSY follows the commands in progress. -/
def State.syncGate (s : State) : State :=
  s.setFlag R.PWR_GATE_STAT_BUSY 0 (!s.pwr.quiesce.isEmpty || !s.pwr.ungating.isEmpty)

/-- The condition under which a unit may be gated (R407). -/
def State.gateCond (s : State) (u : Nat) : Bool :=
  if u < 8 then (List.range 8).all fun i => s.get R.PRT_STAT_LINK_STATE (8 * u + i) == 0
  else if u = 8 then !s.flag R.GNS_STAT_BURST_ACTIVE
  else if u = 9 then (List.range 4).all fun i => !s.flag R.ADR_CFG_ENABLE i
  else !s.flag R.PCK_CFG_ENABLE && !s.flag R.BRC_CFG_ENABLE

/-- A GATE request (R407, R408); the flag tells AON's own (R414). -/
def State.gateReq (s : State) (u : Nat) (auto : Bool) : State :=
  if s.gateInProg u then s.gateLast gCmdRefused
  else if s.gated u then s.gateLast gDone
  else if !s.gateCond u then s.gateLast gRefused
  else ({ s with pwr := { s.pwr with quiesce := s.pwr.quiesce ++ [(u, auto, s.time.lc.toNat)] } }).syncGate

/-- The handshake of a unit ends: its transactions completed within QUIESCE_TMO matrix cycles, or the timeout expires first (R408). -/
def State.quiesceEnd (s : State) (u : Nat) (all : Bool) : State :=
  match s.pwr.quiesce.find? fun q => q.1 == u with
  | none => s
  | some (_, auto, l) =>
    let late := s.time.running && decide (s.matrixCycles l > s.get R.PWR_QUIESCE_TMO)
    let ok := all && !late
    if !all && s.time.running && !late then s
    else
    let s := ({ s with pwr := { s.pwr with quiesce := s.pwr.quiesce.filter fun q => q.1 != u } }).syncGate
    if ok then
      let s := { s with pwr := { s.pwr with auto := if auto then s.pwr.auto ++ [u] else s.pwr.auto } }
      ((s.raiseBit R.PWR_GATE_STAT_GATED 0 u).bump R.PWR_GATE_CNT_GATES).gateLast gDone
    else
      let s := { s with pwr := { s.pwr with retry := if auto then s.pwr.retry ++ [(u, s.time.lc.toNat)] else s.pwr.retry } }
      ((s.bump R.PWR_GATE_CNT_BUSY_CNT).gateLast gBusy).raise fsGateBusy

/-- AON restarts the clocks of a unit (R410). -/
def State.ungateStart (s : State) (u : Nat) : State :=
  ({ s with pwr := { s.pwr with ungating := s.pwr.ungating ++ [u], auto := s.pwr.auto.filter (· != u) } }).syncGate

/-- An UNGATE request (R409, R410). -/
def State.ungateReq (s : State) (u : Nat) : State :=
  if s.gateInProg u then s.gateLast gCmdRefused
  else if s.needsReset u then s.gateLast gUngateRefused
  else if !s.gated u then s.gateLast gDone
  else s.ungateStart u

/-- The matrix master of a unit: ADR is 14 and PCK 15 (R385). -/
def unitMaster (u : Nat) : Option Nat := if u = 9 then some 14 else if u = 10 then some 15 else none

/-- The transactions that FORCE cuts (R409, R391): each is answered with an error, and the fault comes once per gate. -/
def State.forceCut (s : State) (u : Nat) : State :=
  match unitMaster u with
  | none => s
  | some m =>
    let cut := ((s.mtx.resps.filter fun r => r.master.val == m && !r.dead).map fun r => (r.addr, r.target, r.isWrite))
      ++ ((s.mtx.reqs.filter fun r => r.master.val == m).map fun r => (r.addr, r.target, match r.op with | .write _ => true | _ => false))
    let s := cut.foldl (fun s (x : Nat × Fin 12 × Bool) => s.mtxErr m x.1 x.2.1 x.2.2 mkForce) s
    let s := if cut.isEmpty then s else ((s.bump R.MTX_CNT_TMO_TIMEOUTS).raiseBit R.MTX_EVT 0 1).raise fsMtxTimeout noInst
    { s with mtx := s.mtx.cut (· == m) }

/-- A FORCE request gates a unit at once (R409); a burst or capture that runs ends with the clocks of GNS. -/
def State.forceReq (s : State) (u : Nat) : State :=
  if s.gateInProg u then s.gateLast gCmdRefused
  else
    let s := if u = 8 then s.burstDrop else s.forceCut u
    let s := (s.raiseBit R.PWR_GATE_STAT_GATED 0 u).raiseBit R.PWR_GATE_STAT_NEEDS_RESET 0 u
    (s.bump R.PWR_GATE_CNT_GATES).gateLast gDone

/-- A BLOCK_RESET request (R409): the unit stays gated. -/
def State.unitReset (s : State) (u : Nat) : State :=
  if s.gateInProg u then s.gateLast gCmdRefused
  else
    let s := if h : u < 8 then s.blockReset (.pg ⟨u, h⟩)
      else if u = 8 then s.blockReset .gnss
      else if u = 9 then s.blockReset (.block .adr)
      else (s.blockReset (.block .pck)).blockReset (.block .brc)
    (s.clearBit R.PWR_GATE_STAT_NEEDS_RESET 0 u).gateLast gDone

/-- A unit's clocks are stable: it is no longer gated (R410). The enabling writes that waited are the caller's. -/
def State.clocksStable (s : State) (u : Nat) : State :=
  if s.pwr.ungating.any (· == u) then
    let s := { s with pwr := { s.pwr with ungating := s.pwr.ungating.filter (· != u) } }
    ((s.clearBit R.PWR_GATE_STAT_GATED 0 u).gateLast gDone).syncGate
  else s

/-- A write that sets ENABLE on a port, Pack link or AES3 port of a unit (R410): a quiesce is abandoned; a gated unit is ungated
first, and the write waits. The result says whether the write takes effect now. -/
def State.enableWrite (s : State) (u a : Nat) (w : Word) : Bool × State :=
  if s.pwr.quiesce.any (fun q => q.1 == u) then
    let s := ({ s with pwr := { s.pwr with quiesce := s.pwr.quiesce.filter fun q => q.1 != u } }).syncGate
    (true, s.gateLast gAbandoned)
  else if s.gated u then
    let s := { s with pwr := { s.pwr with enables := s.pwr.enables ++ [(u, a, w)] } }
    (false, if s.pwr.ungating.any (· == u) then s else s.ungateReq u)
  else (true, s)

/-! ### DOZE (R413, R414) -/

/-- DOZE_EN changes (R413): RUN and DOZE follow it; leaving DOZE ungates every unit that AON gated. -/
def State.dozeEn (s : State) (v : Word) : State :=
  let on := v.toNat % 2
  let s := if v.getLsbD 1 then s.set R.PWR_CTRL_DEEP_REFUSED 0 0 else s
  let s := s.set R.PWR_CTRL_DOZE_EN 0 on
  if s.get R.PWR_STATE = 2 then s
  else
    let s := s.set R.PWR_STATE 0 on
    if on = 0 then s.pwr.auto.foldl (fun s u => s.ungateReq u) { s with pwr := { s.pwr with retry := [] } } else s

/-- Whether the condition of R407 for a unit has held for 10 ms (R414). -/
def State.gateHeld (s : State) (u : Nat) : Bool :=
  let long := fun l => s.past l 10 1000
  s.gateCond u && (if u < 8 then (List.range 8).all fun i => if h : 8 * u + i < 64 then long (s.link (attOf ⟨8 * u + i, h⟩)).since else true
    else if h : u - 8 < 3 then long (s.pwr.idleAt[u - 8]) else true)

/-- AON gates, in DOZE, a unit (0 to 10) whose condition has held for 10 ms, or an engine (11 and up) STOPPED for 10 ms (R414). -/
def State.dozeGate (s : State) (u : Nat) : State :=
  if s.get R.PWR_STATE ≠ 1 then s
  else if u < 11 then
    (if s.gateHeld u && !s.gated u && !s.gateInProg u && !s.pwr.retry.any (fun q => q.1 == u) then s.gateReq u true else s)
  else if h : u - 11 < 12 then (if s.past (s.engine ⟨u - 11, h⟩).stopAt 10 1000 then s.gateSet ⟨u - 11, h⟩ true else s)
  else s

/-- An automatic request that ended in GATE_BUSY is made again after 1 s (R414). -/
def State.dozeRetry (s : State) (u : Nat) : State :=
  if s.pwr.retry.any (fun q => q.1 == u && s.past q.2 1) then
    ({ s with pwr := { s.pwr with retry := s.pwr.retry.filter fun q => q.1 != u } }).dozeGate u
  else s

/-! ### Crossings (R171, R411) -/

/-- Whether two clocks are beyond 1:16. -/
def ratioBad (a b : Nat) : Bool := a != 0 && b != 0 && (decide (a > 16 * b) || decide (b > 16 * a))

/-- The pairs of regions at a crossing (R411, R171), and its clocks in kHz. Index 3 + n is PGn; `wordClk` is the word clock of each of the 64
lanes, 0 for one that stands still. -/
def State.crossing (s : State) (c : Nat) (wordClk : List Nat) : List (Nat × Nat) × List (Nat × Nat) :=
  let m := s.matrixKhz
  if c = 0 then ([(1, 2)], [(1200000, m)])
  else if c = 1 then ([(2, 11)], [(m / 4, m)])
  else if c = 2 then ([(2, 12)], [(500000, m)])
  else ([(c, 1), (c, 2)], ((wordClk.drop (8 * (c - 3))).take 8).map fun w => (w, m))

/-- The causes by which a crossing exceeds limits of `mv` and `deg` °C: bit 0 temperature, 1 voltage, 2 clock ratio. -/
def State.crossCauses (s : State) (c mv deg : Nat) (wordClk : List Nat) : Nat :=
  let (prs, clks) := s.crossing c wordClk
  let t := prs.any fun p => decide ((s.getS R.PWR_TEMP p.1 - s.getS R.PWR_TEMP p.2).natAbs > deg * 16)
  let v := prs.any fun p => decide (((s.get R.PWR_VDD p.1 : Int) - (s.get R.PWR_VDD p.2 : Int)).natAbs > mv)
  let k := clks.any fun p => ratioBad p.1 p.2
  b2n t + 2 * b2n v + 4 * b2n k

/-- The code of a crossing (R411). -/
def crossCode (c : Nat) : Nat := if c < 3 then c else 5 + c

/-- What a crossing beyond its limits shows in the group's or the Pack links' own registers (R171, R338); those of a gated unit stand (R16). -/
def State.crossShow (s : State) (c : Fin 11) : State :=
  let on := s.pwr.skew[c].isSome
  let k := ((s.pwr.skew[c]).map (·.2)).getD 0
  if 3 ≤ c.val then
    let g := c.val - 3
    s.run g fun s =>
      ((((s.setFlag R.PRT_PG_STAT_REGION_SKEW g on).setFlag R.PRT_PG_STAT_TEMP_SKEW g (k.testBit 0)).setFlag R.PRT_PG_STAT_VOLT_SKEW g
        (k.testBit 1)).setFlag R.PRT_PG_STAT_CLK_SKEW g (k.testBit 2))
  else if c.val = 0 then s.run 10 fun s => s.forN 4 fun i s => s.setFlag R.PCK_LINK_STAT_REGION_SKEW i on
  else s

/-- REGION_SKEW of a crossing begins: it is counted (R187, R418). -/
def State.skewBegin (s : State) (c : Fin 11) : State :=
  let s := s.bump R.PWR_SKEW_STAT_EVENTS
  if 3 ≤ c.val then s.run (c.val - 3) (·.bump R.PRT_PG_XCNT (c.val - 3)) else s

/-- One crossing is checked, each 1 ms (R411); REGION_SKEW ends after 1 s within 50 mV and 28 °C (R171). -/
def State.crossCheck (s : State) (c : Fin 11) (wordClk : List Nat) : State :=
  let bad := s.crossCauses c.val 60 30 wordClk
  let near := s.crossCauses c.val 50 28 wordClk
  let now := s.time.lc.toNat
  let put := fun (s : State) (x : Option (Nat × Nat)) => ({ s with pwr := { s.pwr with skew := s.pwr.skew.set c x } }).crossShow c
  match s.pwr.skew[c] with
  | none => if bad = 0 then s.crossShow c else (put s (some (now, bad))).skewBegin c
  | some (at_, k) =>
    if bad ≠ 0 || near ≠ 0 then put s (some (now, k ||| bad))
    else if now ≥ at_ + 2 ^ 48 then put s none
    else s.crossShow c

/-- PWR_SKEW_STAT and the fault REGION_SKEW follow the crossings; CROSSING is the lowest active code (log entry 22). -/
def State.syncSkew (s : State) : State :=
  match (List.finRange 11).find? fun (c : Fin 11) => s.pwr.skew[c].isSome with
  | none =>
    let s := ((s.setFlag R.PWR_SKEW_STAT_ACTIVE 0 false).set R.PWR_SKEW_STAT_CROSSING 0 0).setFlag R.PWR_SKEW_STAT_TEMP 0 false
    ((s.setFlag R.PWR_SKEW_STAT_VOLT 0 false).setFlag R.PWR_SKEW_STAT_CLK 0 false).levelOff fsRegionSkew
  | some c =>
    let k := ((s.pwr.skew[c]).map (·.2)).getD 0
    let s := ((s.setFlag R.PWR_SKEW_STAT_ACTIVE 0 true).set R.PWR_SKEW_STAT_CROSSING 0 (crossCode c)).setFlag R.PWR_SKEW_STAT_TEMP 0 (k.testBit 0)
    ((s.setFlag R.PWR_SKEW_STAT_VOLT 0 (k.testBit 1)).setFlag R.PWR_SKEW_STAT_CLK 0 (k.testBit 2)).levelOn fsRegionSkew (crossCode c)

/-- The samples as a group's own registers show them (R187): both temperatures, the largest supply difference of R171, and the latencies that
follow the temperature. -/
def State.pgShow (s : State) (g : Nat) : State :=
  let v := (s.get R.PWR_VDD (3 + g) : Int)
  let d := Nat.max (v - (s.get R.PWR_VDD 2 : Int)).natAbs (v - (s.get R.PWR_VDD 1 : Int)).natAbs
  let s := ((s.set R.PRT_PG_TEMP_T_PG g (s.get R.PWR_TEMP (3 + g))).set R.PRT_PG_TEMP_T_KNL g (s.get R.PWR_TEMP 1)).set R.PRT_PG_VDIFF g d
  s.forN 8 fun i s => s.latSync ⟨(8 * g + i) % 64, by omega⟩

/-- The samples of 1 ms: a temperature in 1/16 °C per region and a supply in mV (R418). -/
def State.pwrSample (s : State) (temp : List Int) (vdd : List Nat) : State :=
  let s := s.tintNow.forN 13 fun r s => (s.set R.PWR_TEMP r (trunc 16 ((temp[r]?).getD 0))).set R.PWR_VDD r ((vdd[r]?).getD 0)
  s.forN 8 fun g s => s.run g (·.pgShow g)

/-- PWR checks every crossing (R411). -/
def State.crossAll (s : State) (temp : List Int) (vdd wordClk : List Nat) : State :=
  ((List.finRange 11).foldl (fun s c => s.crossCheck c wordClk) (s.pwrSample temp vdd)).syncSkew.degrSync

/-- A port group checks its own crossing (R171). -/
def State.crossGroup (s : State) (g : Fin 8) (temp : List Int) (vdd wordClk : List Nat) : State :=
  s.run g fun s => ((s.pwrSample temp vdd).crossCheck ⟨g.val + 3, by omega⟩ wordClk).syncSkew.degrSync

/-! ### Meanings -/

/-- QUIESCE_END (R408). -/
def execQuiesceEnd (u : Fin 11) (ok : Bool) (s : State) : Host.Outcome State Fault Refusal := done (s.quiesceEnd u ok)

/-- DOZE_AUTO_GATE (R414). -/
def execDozeAutoGate (u : Fin 23) (s : State) : Host.Outcome State Fault Refusal := done (s.dozeGate u)

/-- DOZE_GATE_RETRY (R414). -/
def execDozeGateRetry (u : Fin 11) (s : State) : Host.Outcome State Fault Refusal := done (s.dozeRetry u)

/-- CROSSING_CHECK (R411). -/
def execCrossingCheck (temp : List Int) (vdd wordClk : List Nat) (s : State) : Host.Outcome State Fault Refusal :=
  done (s.when_ (s.pwr.power == Power.on) (·.crossAll temp vdd wordClk))

/-- REGION_SKEW_CHECK (R171). -/
def execRegionSkewCheck (g : Fin 8) (temp : List Int) (vdd wordClk : List Nat) (s : State) : Host.Outcome State Fault Refusal :=
  done (s.when_ (s.pwr.power == Power.on) (·.crossGroup g temp vdd wordClk))

end Sys2Proof.Machine
end

