-- ==== Sys2Proof/Machine/Sec.lean ====
section
/-! DEFINITION. SEC: key slots, the Working Key Register, key update messages, life cycle and debug (R433 to R452). -/

namespace Sys2Proof.Machine

/-- KNL_SEAL_STAT.STATE (R83). -/
def State.sealState (s : State) : Nat := s.get R.KNL_SEAL_STAT_STATE

/-- The seal state that a life cycle gives by itself (R83, R450). -/
def lcSeal (lc : Nat) : Nat := if lc = 0 then 7 else if lc = 1 then 1 else if lc = 2 then 0 else if lc = 3 then 2 else 6

/-! ### Slots -/

/-- ATTR fields (R436). -/
def attrUse (a : Word) : Nat := bits a.toNat 1 5
def attrBind (a : Word) : Nat := bits a.toNat 6 2
def attrMask (a : Word) : Nat := bits a.toNat 8 3
def attrOrigin (a : Word) : Nat := bits a.toNat 16 11

/-- Whether a slot is VALID. -/
def State.slotValid (s : State) (k : Fin 32) : Bool := (s.get R.SEC_SLOT_VALID).testBit k

/-- Whether a slot is unusable (R435). -/
def State.slotBad (s : State) (k : Fin 32) : Bool := (s.get R.SEC_SLOT_BAD).testBit k

/-- A slot is written to its older copy with the next GEN; a BAD slot is in force again with it (R434, R435). -/
def State.slotPut (s : State) (k : Fin 32) (value : Digest) (attr : Word) : State :=
  let a := s.sec.slotA[k]
  let b := s.sec.slotB[k]
  let cur := s.slotInForce k
  let gen : BitVec 16 := match cur with
    | some c => c.gen + 1
    | none => 1
  let c0 : SlotCopy := { value := value, attr := attr, gen := gen, tag := 0 }
  let c := { c0 with tag := s.slotTag k c0 }
  let toA := match a, b with
    | some x, some y => decide (x.gen.toNat ≤ y.gen.toNat)
    | some _, none => false
    | none, _ => true
  let toA := if s.slotBad k then true else toA
  let s := if toA then { s with sec := { s.sec with slotA := s.sec.slotA.set k (some c) } }
    else { s with sec := { s.sec with slotB := s.sec.slotB.set k (some c) } }
  let s := s.clearBit R.SEC_SLOT_BAD 0 k
  let s := if attr.getLsbD 0 then s.raiseBit R.SEC_SLOT_VALID 0 k else s.clearBit R.SEC_SLOT_VALID 0 k
  (s.set R.SEC_SLOT_ATTR k attr.toNat).set R.SEC_SLOT_GEN k gen.toNat

/-- USE bits (R436). -/
def useKumAuth := 1
def useKnlMet := 2
def useKnlTime := 4
def useNts := 8
def usePack := 16

/-- The ORIGIN bit of a requester, if it has one (R436). -/
def originBit : Master → Option Nat
  | .pf f => if f.val ≤ 1 then some 0 else none
  | .eng n => if n.val ≥ 2 then some (n.val - 1) else none
  | _ => none

/-- The label of R440. -/
def useLabel (use : Nat) : String :=
  if use = useKnlMet then "KNL-MET" else if use = useKnlTime then "KNL-TIME" else if use = useNts then "NTS-MASTER" else "PACK-LINK"

/-- The key of a slot (R440); KS0 is used as it stands. -/
def State.deriveKey (s : State) (k : Fin 32) (c : SlotCopy) (ctx : List Byte) : Digest :=
  if k = 0 then c.value
  else
    let salt := match attrBind c.attr with
      | 1 => leBytes 32 (s.get R.KNL_MEAS)
      | 2 => leBytes 32 (s.get R.SEC_SERVE_MEAS)
      | 3 => leBytes 32 (s.get R.SEC_HOST_MEAS)
      | _ => List.replicate 32 0#8
    BitVec.ofNat 256 (ofLe (hkdf salt (digestBytes c.value)
      (ascii (useLabel (attrUse c.attr)) ++ s.devId ++ leBytes 1 k ++ beBytes 2 c.gen.toNat ++ ctx) 32))

/-- Why a load is refused, as SEC_WKR_STAT.LAST_RESULT; 0 when it is not (R439). -/
def State.wkrRefuse (s : State) (k : Fin 32) (c : Option SlotCopy) (uses : List Nat) (req : Option Master) : Nat :=
  match c with
  | none => if s.slotBad k then 2 else 1
  | some c =>
    if s.slotBad k then 2
    else if !c.attr.getLsbD 0 then 1
    else if !uses.contains (attrUse c.attr) then 3
    else
      let lc := s.lc
      let lcBit := if lc = 1 then 0 else if lc = 2 then 1 else if lc = 3 then 2 else 3
      if !(attrMask c.attr).testBit lcBit then 4
      else
        let originOk := match req with
          | none => true
          | some m => match originBit m with
            | some b => (attrOrigin c.attr).testBit b
            | none => false
        if !originOk then 5
        else if s.dbg = 2 && !c.attr.getLsbD 11 then 6
        else if s.get R.PWR_STATE > 2 then 7 else 0

/-- A load through WKR (R438): the slot is checked, the key derived and delivered, and WKR zeroed. `req` is none where ORIGIN
is not checked. -/
def State.wkrLoad (s : State) (cons : Nat) (uses : List Nat) (k : Fin 32) (req : Option Master) (ctx : List Byte) :
    Option Delivered × State :=
  let (bad, s) := s.slotCheck1 k
  let s := if bad then s.raise fsKeySlotBad k.val else s
  let c := s.slotInForce k
  let r := s.wkrRefuse k c uses req
  let s := ((s.set R.SEC_WKR_STAT_LAST_SLOT 0 k).set R.SEC_WKR_STAT_LAST_CONS 0 cons).set R.SEC_WKR_STAT_LAST_RESULT 0 r
  if r ≠ 0 then (none, (s.bump R.SEC_WKR_CNT_REFUSED).secEvt 6)
  else match c with
    | none => (none, s)
    | some c => (some { key := s.deriveKey k c ctx, slot := k, id := BitVec.ofNat 32 (ofBe ctx) }, s.bump R.SEC_WKR_CNT_LOADS)

/-! ### Delivered keys -/

/-- CUR_VALID, PREV_VALID and ROT_ARMED of SRV_STAT, and KEY_OK of PCK, follow the keys that are held (R230, R327). -/
def State.syncKeys (s : State) : State :=
  let bitTo := fun (s : State) (b : Nat) (on : Bool) => if on then s.raiseBit R.SRV_STAT 0 b else s.clearBit R.SRV_STAT 0 b
  let s := bitTo (bitTo (bitTo s 1 s.sec.cookieNext.isSome) 2 s.sec.cookieCur.isSome) 3 s.sec.cookiePrev.isSome
  s.setFlag R.PCK_AUTH_KEY_OK 0 s.sec.pckKey.isSome

/-- Every delivered key that a test picks is cleared (R446, R449). -/
def State.clearKeys (s : State) (p : Nat → Bool) : State :=
  let keep := fun (d : Option Delivered) => d.filter fun d => !p d.slot
  { s with sec := { s.sec with verKey := keep s.sec.verKey, cookieCur := keep s.sec.cookieCur, cookiePrev := keep s.sec.cookiePrev
                               pckKey := keep s.sec.pckKey }
           srv := { s.srv with mintKey := keep s.srv.mintKey } }.syncKeys

/-! ### Debug -/

/-- STATE takes a value that ends a seal, one that waits for its boundary included; LOG_BAD and IMAGE_BAD stand above it (R83, R84, R450). -/
def State.sealBroken (s : State) (v : Nat) : State :=
  let s := { s with knl := { s.knl with sealPend := false } }
  if s.sealState = 4 || s.sealState = 5 then s else s.set R.KNL_SEAL_STAT_STATE 0 v

/-- The Kennel's breach record before INVASIVE (R84, R449); none when it cannot be written. -/
def State.breach (s : State) : Option State :=
  if s.lc = 0 then some s
  else if s.auditOver then none
  else
    let s := s.bumpW R.KNL_SEAL_CNT
    let s := if s.lc = 2 then s.sealBroken 3 else s
    let s := (s.recordFree 0x0013).leashWiden
    some (s.clearKeys fun k => if h : k < 32 then !(BitVec.ofNat 32 (s.get R.SEC_SLOT_ATTR (⟨k, h⟩ : Fin 32))).getLsbD 11 else false)

/-- The port opens at a level, with or without a timer (R448, R449). -/
def State.dbgOpen (s : State) (level duration : Nat) : State :=
  let s := { s with sec := { s.sec with dbgTimer := duration ≠ 0, dbgAt := s.time.lc.toNat, dbgFor := duration } }
  let s := ((s.set R.SEC_STATE_DBG 0 level).set R.SEC_DBG_STAT_REMAIN 0 duration).secEvt 4
  s.syncWorlds.raise fsDebugOpen

/-- REMAIN counts down with the seconds of the token timer (R448, R452; log entry 23); it shows 1 until the timer has expired. -/
def State.dbgSecond (s : State) : State :=
  if s.sec.dbgTimer then s.set R.SEC_DBG_STAT_REMAIN 0 (Nat.max 1 (s.get R.SEC_DBG_STAT_REMAIN - 1)) else s

/-- The token timer has run for its DURATION (R448). -/
def State.dbgExpire (s : State) : State := if s.sec.dbgTimer && s.past s.sec.dbgAt s.sec.dbgFor then s.dbgClose else s

/-- A SEC_DBG_REQ of PF0 (R448, R451). -/
def State.dbgReq (s : State) (op : Nat) : State :=
  let lc := s.lc
  if op = 3 then (s.dbgClose).set R.SEC_DBG_STAT_LAST 0 0
  else if s.get R.PWR_STATE = 2 then s.set R.SEC_DBG_STAT_LAST 0 2
  else if op = 1 then
    if lc = 1 || lc = 3 || lc = 4 then (s.dbgOpen 1 0).set R.SEC_DBG_STAT_LAST 0 0 else s.set R.SEC_DBG_STAT_LAST 0 1
  else if op = 2 then
    if lc ≠ 1 then s.set R.SEC_DBG_STAT_LAST 0 1
    else match s.breach with
      | some s => (s.dbgOpen 2 0).set R.SEC_DBG_STAT_LAST 0 0
      | none => s.set R.SEC_DBG_STAT_LAST 0 3
  else s

/-- RETIRE (R446): slots and delivered keys zeroed, debug closed, RETIRED written; E2 to E11 are stopped. -/
def State.retire (s : State) : State :=
  let s := { s with sec := { s.sec with slotA := Vector.replicate 32 none, slotB := Vector.replicate 32 none } }
  let s := s.forN 32 fun k s => (s.set R.SEC_SLOT_ATTR k 0).set R.SEC_SLOT_GEN k 0
  let s := s.set R.SEC_SLOT_VALID 0 0
  let s := (s.clearKeys fun _ => true).dbgClose
  let s := (s.set R.SEC_STATE_LC 0 4).secEvt 7
  let s := s.sealBroken 6
  let s := ([2, 3, 4, 5, 6, 7, 8, 9, 10, 11] : List (Fin 12)).foldl (fun s n => s.runClear n) s
  s.syncWorlds.leashWiden

/-! ### Key update messages -/

/-- The 112 bytes of the KUM buffer. -/
def State.kum (s : State) : List Byte := leBytes 112 s.sec.kumBuf.toNat

/-- A failed authentication counts; sixteen within 1 s lock the opener (R444). -/
def State.kumAuth (s : State) : State :=
  let now := s.time.lc.toNat
  let last := (now :: s.sec.authAt).filter fun l => decide (now < l + 2 ^ 48)
  if last.length ≥ 16 then ({ s with sec := { s.sec with authAt := last, lockAt := now } }.setFlag R.SEC_KUM_STAT_LOCK 0 true).raise fsKumFlood
  else { s with sec := { s.sec with authAt := last } }

/-- A KUM ends with a result; AUTH counts towards the lock (R442, R444). -/
def State.kumFail (s : State) (result : Nat) : State :=
  let s := ((s.set R.SEC_KUM_STAT_RESULT 0 result).bump R.SEC_KUM_TALLY_FAILS).secEvt 1
  if result = 4 then s.kumAuth else s

/-- Check 3 of R442: MAGIC, KIND, reserved fields and DURATION. -/
def kumForm (k : List Byte) : Bool :=
  let kind := leAt k 4 1
  let slot := leAt k 5 1
  let attr := leAt k 0x20 4
  let dur := leAt k 0x24 4
  slice k 0 4 == [0x4B#8, 0x55#8, 0x4D#8, 0x31#8] && kind ≤ 3 && slot ≤ 31 && leAt k 6 1 ≤ 1 && leAt k 7 1 == 0
    && leAt k 0x28 24 == 0
    && (if kind = 2 then 1 ≤ dur && dur ≤ 86400 && slot == 0 && (attr == 1 || attr == 2)
        else dur == 0 && (kind == 0 || attr == 0) && (kind != 3 || slot == 0))

/-- Check 9 of R442 for the slot rules of R437: 0 when met. -/
def State.kumSlotCheck (s : State) (k : List Byte) (pt : List Byte) : Nat :=
  let kind := leAt k 4 1
  let slot := leAt k 5 1
  let attr := BitVec.ofNat 32 (leAt k 0x20 4)
  let use := attrUse attr
  if kind ≠ 0 && ofLe pt ≠ 0 then 2
  else
    let oneUse := use = 1 || use = 2 || use = 4 || use = 8 || use = 16
    let reserved := bits attr.toNat 12 4 ≠ 0 || bits attr.toNat 27 5 ≠ 0
    let ks0 := if slot = 0 then use = 1 && attrBind attr = 0 && attrOrigin attr = 0 else use ≠ 1
    if kind = 0 && (!attr.getLsbD 0 || !oneUse || reserved || !ks0) then 6
    else if kind = 1 && slot = 0 then 6
    else if kind ≤ 1 && s.get R.SEC_SLOT_GEN slot ≥ 65535 then 7 else 0

/-- An accepted KUM acts (R443). -/
def State.kumAct (s : State) (k pt : List Byte) : State :=
  let kind := leAt k 4 1
  let slot : Fin 32 := ⟨leAt k 5 1 % 32, Nat.mod_lt _ (by decide)⟩
  let attr := BitVec.ofNat 32 (leAt k 0x20 4)
  let s := s.set R.SEC_KUM_CNT 0 (leAt k 0x18 8)
  let s := match kind with
    | 0 => (s.slotPut slot (BitVec.ofNat 256 (ofLe pt)) attr).when_ (slot == 0) fun s => s.setFlag R.SEC_STATE_TK_USED 0 true
    | 1 => s.slotPut slot 0 ((BitVec.ofNat 32 (s.get R.SEC_SLOT_ATTR slot)) &&& ~~~1#32)
    | 2 => s.dbgOpen attr.toNat (leAt k 0x24 4)
    | _ => s.retire
  let info := leBytes 1 kind ++ leBytes 1 slot ++ leBytes 4 (leAt k 0x18 4) ++ leBytes 4 attr.toNat
  let s := s.raise fsKeyUpdated noInst info
  ((s.set R.SEC_KUM_STAT_RESULT 0 0).bump R.SEC_KUM_TALLY_ACCEPTED).secEvt 0

/-- A write of SEC_KUM_GO (R442, R443): the checks in order, the first failure ends the KUM. -/
def State.kumGo (s : State) : State :=
  let k := s.kum
  let kind := leAt k 4 1
  let lc := s.lc
  if s.flag R.SEC_KUM_STAT_BUSY || s.get R.PWR_STATE = 2 then s.kumFail 10
  else if s.flag R.SEC_KUM_STAT_LOCK then s.kumFail 9
  else if !kumForm k then s.kumFail 2
  else if slice k 8 16 ≠ s.devId then s.kumFail 3
  else if lc = 0 || (lc = 4 && kind ≠ 2) then s.kumFail 1
  else
    let tk := leAt k 6 1 = 0
    let tkOk := !s.flag R.SEC_STATE_TK_USED || (kind = 0 && leAt k 5 1 = 0 && s.slotBad 0) || (kind = 2 && lc = 4)
    let (key, s) := if tk then (if tkOk then (some (s.rootKey "KUM-TK" []), s) else (none, s))
      else match s.wkrLoad 1 [useKumAuth] 0 none [] with
        | (some d, s) => (some (digestBytes d.key), s)
        | (none, s) => (none, s)
    match key with
    | none => s.kumFail 4
    | some key =>
      match sivOpen key [slice k 0 0x40] (slice k 0x40 16) (slice k 0x50 32) with
      | none => s.kumFail 4
      | some pt =>
        if leAt k 0x18 8 ≤ s.get R.SEC_KUM_CNT then s.kumFail 5
        else
          let bad := s.kumSlotCheck k pt
          if bad ≠ 0 then s.kumFail bad
          else if kind = 2 && leAt k 0x20 4 = 2 then
            match s.breach with
            | none => s.kumFail 8
            | some s => s.kumAct k pt
          else s.kumAct k pt

/-- A KUM of a given KIND is started by PF0; a write of GO with another KIND is another command (R442, R452). -/
def State.kumOf (s : State) (m : Master) (p : Nat → Bool) : State :=
  s.when_ (m == .pf 0 && s.answers m && p (leAt s.kum 4 1)) State.kumGo

/-! ### Meanings -/

/-- SLOT_WRITE (R443). -/
def execKumSlotWrite (m : Master) (s : State) : Host.Outcome State Fault Refusal := done (s.kumOf m (· == 0))

/-- SLOT_ERASE (R443). -/
def execKumSlotErase (m : Master) (s : State) : Host.Outcome State Fault Refusal := done (s.kumOf m (· == 1))

/-- DEBUG_TOKEN (R448). -/
def execKumDebugToken (m : Master) (s : State) : Host.Outcome State Fault Refusal := done (s.kumOf m (· == 2))

/-- RETIRE (R446). -/
def execKumRetire (m : Master) (s : State) : Host.Outcome State Fault Refusal := done (s.kumOf m (· == 3))

/-- KUM_UNKNOWN_KIND (R442): the KUM ends with FORMAT unless an earlier check ends it. -/
def execKumUnknownKind (m : Master) (s : State) : Host.Outcome State Fault Refusal := done (s.kumOf m (fun k => decide (k > 3)))

/-- The lock of R444 ends after 10 s. -/
def State.kumUnlock (s : State) : State :=
  if s.flag R.SEC_KUM_STAT_LOCK && s.past s.sec.lockAt 10 then { s with sec := { s.sec with authAt := [] } }.setFlag R.SEC_KUM_STAT_LOCK 0 false
  else s

/-- KUM_LOCK_EXPIRY (R444). -/
def execKumLockExpiry (s : State) : Host.Outcome State Fault Refusal := done s.kumUnlock

/-- The USE bits that a consumer takes (R438). -/
def consUses (cons : Nat) : List Nat :=
  if cons = 0 then [useKnlMet, useKnlTime] else if cons = 1 then [useKumAuth] else if cons = 2 then [useNts] else [usePack]

/-- WKR_LOAD (R438): a consumer asks for the key of a slot. The verifier and the PCK unit hold what they are delivered; the
KUM opener and the cookie unit take theirs within their own commands. -/
def execWkrLoad (cons : Fin 4) (slot : Fin 32) (m : Master) (ctx : Word) (s : State) : Host.Outcome State Fault Refusal :=
  let req := if cons = 1 then none else some m
  let slot := if cons = 1 then 0 else slot
  let (d, s) := s.wkrLoad cons (consUses cons) slot req (if cons = 2 then beBytes 4 ctx.toNat else [])
  done <| match d with
    | none => s
    | some d =>
      if cons = 0 then { s with sec := { s.sec with verKey := some d } }
      else if cons = 3 then { s with sec := { s.sec with pckKey := some d } }.syncKeys else s

/-- DBG_OBSERVE (R448). -/
def execDbgObserve (m : Master) (s : State) : Host.Outcome State Fault Refusal := done (s.when_ (m == .pf 0 && s.answers m) fun s => s.dbgReq 1)

/-- DBG_INVASIVE (R449). -/
def execDbgInvasive (m : Master) (s : State) : Host.Outcome State Fault Refusal := done (s.when_ (m == .pf 0 && s.answers m) fun s => s.dbgReq 2)

/-- DBG_CLOSE (R448). -/
def execDbgClose (m : Master) (s : State) : Host.Outcome State Fault Refusal := done (s.when_ (m == .pf 0 && s.answers m) fun s => s.dbgReq 3)

/-- DEBUG_TIMER_EXPIRY (R448). -/
def execDebugTimerExpiry (s : State) : Host.Outcome State Fault Refusal := done s.dbgExpire

/-- The host measurement is extended by the eight EXT words (R440). -/
def State.hostExtend (s : State) : State :=
  s.set R.SEC_HOST_MEAS 0 (ofLe (sha256 (leBytes 32 (s.get R.SEC_HOST_MEAS) ++ digestBytes s.sec.extBuf)))

/-- HOST_MEAS_EXTEND (R440): PF0 writes SEC_HOST_EXT7. -/
def execHostMeasExtend (m : Master) (v : Word) (s : State) : Host.Outcome State Fault Refusal :=
  done (s.when_ (m == .pf 0 && s.answers m) fun s =>
    { s with sec := { s.sec with extBuf := BitVec.ofNat 256 (setBits s.sec.extBuf.toNat 224 32 v.toNat) } }.hostExtend)

end Sys2Proof.Machine
end

