-- ==== Sys2Proof/Machine/KPair.lean ====
section
/-! DEFINITION. The K-pair: digests, comparison, recomputation, freeze, swap and firmware trial (R75 to R82, R258). -/

namespace Sys2Proof.Machine

/-! ### Checkpoints -/

/-- The 16 KiB checkpoint area of a K-engine starts here (R258, R278). -/
def kArea (n : Fin 2) : Nat := 0x44000000 + (kEng n).val * 0x100000 + 0x90000 + 0xC000

/-- A K-engine's checkpoint area takes the cells of a checkpoint (R258). -/
def State.kPutArea (s : State) (n : Fin 2) (cells : List Host.Cell) : State :=
  (s.memCut (kArea n) (kArea n + 0x4000)).memPut (kArea n) cells

/-- The pair with new contents. -/
def State.setPair (s : State) (p : KPair) : State := { s with knl := { s.knl with pair := p } }

/-- A K-engine is reloaded from its image and a checkpoint: registers cleared, started at RESTART_ENTRY (R258). Its image stays
the one it runs. -/
def State.kRestart (s : State) (n : Fin 2) (c : Option Ckpt) : State :=
  let e := s.engine (kEng n)
  let s := match c with
    | some c => s.kPutArea n (if n = 0 then c.area0 else c.area1)
    | none => s
  let s := { s with regs := resetRegs (fun a r => unitHas (.engine (kEng n)) a && r.kind == RKind.engine) s.regs }
  let s := s.setEng (kEng n) { Engine.reset with image := e.image, pc := (e.image.map (·.restart)).getD 0 }
  s.set R.ENG_STAT_STATE (kEng n) stRunning

/-- The newest checkpoint. -/
def State.ckpt (s : State) : Option Ckpt := s.knl.pair.ckpt[s.knl.pair.newest]

/-- On agreement both areas go to the older slot and LAST_AGREED is set (R78). The Leash notes what a freeze falls back to
(R239). -/
def State.checkpoint (s : State) (r : SecRec) : State :=
  let p := s.knl.pair
  let i : Fin 2 := if p.newest = 0 then 1 else 0
  let c : Ckpt := { second := r.second, freq := r.freq, area0 := s.memCells (kArea 0) (kArea 0 + 0x4000), area1 := s.memCells (kArea 1) (kArea 1 + 0x4000) }
  let s := s.setPair { p with ckpt := p.ckpt.set i (some c), newest := i }
  let s := { s with lsh := { s.lsh with lCkpt := r.leash, tCkpt := r.second + 1 } }
  s.setFlag R.KNL_KPAIR_STAT_LAST_AGREED 0 true

/-! ### Records -/

/-- The lead: 0 for K0, 1 for K1. -/
def State.lead (s : State) : Fin 2 := if s.flag R.KNL_KPAIR_STAT_LEAD then 1 else 0

/-- Whether the lead K-engine runs, whose reference image steers (R106, R482, R485). -/
def State.leadUp (s : State) : Bool := s.engState (kEng s.lead) == stRunning || s.engState (kEng s.lead) == stWaiting

/-- A K-pair event record (R72). -/
def State.kpairRecord (s : State) (outcome engine kat second : Nat) (d0 d1 : Option Digest) : State :=
  s.record 0x0030 0xFF s.rt (kpairDetail outcome s.lead engine kat second d0 d1)

/-- The first digests of the second in hand (R72). -/
def KPair.firsts (p : KPair) : Option Digest × Option Digest := if p.rerun then (p.first0, p.first1) else (p.d0, p.d1)

/-- The DETAIL of a per-second record (R75): SERVO and CLOCK_CLASS are those at the signing. -/
def State.secDetail (s : State) (r : SecRec) (kflags : Nat) : List Byte :=
  leBytes 6 r.leash ++ leBytes 1 r.selRef ++ leBytes 1 s.servo ++ leBytes 1 (s.get R.LSH_STAT_CLOCK_CLASS)
    ++ leBytes 1 (kflags + 4 * b2n r.stepped + 8 * b2n r.jumped) ++ leBytes 2 r.csetVer ++ leBytes 8 r.rate.toNat ++ leBytes 4 r.qual
    ++ leBytes 2 r.utcOffset ++ leBytes 1 r.leap ++ leBytes 1 0 ++ leBytes 2 r.temp ++ leBytes 2 0

/-- The per-second record of a settled second, and its hourly copy (R75, R76). UNSEALED is that of the boundary (R84). -/
def State.secRecord (s : State) (r : SecRec) (kflags : Nat) : State :=
  let b := r.second + 1
  let flags := s.recFlags / 2 * 2 + b2n r.unsealed
  let (rec, s) := s.mkRecordBy s.knl.attKey 0x0001 flags 0xFF (BitVec.ofNat 96 (b * 2 ^ 48)) (s.secDetail r kflags)
  if b % 3600 = 0 then
    let full := decide (s.kspi.hourly.length ≥ logCap)
    let old := if full then s.kspi.hourly.drop 25 else s.kspi.hourly
    { s with kspi := { s.kspi with hourly := old ++ [rec], hourlyCut := s.kspi.hourlyCut + b2n full } }
  else s

/-- The comparison of the second is made: its record follows (R75). -/
def State.settle (s : State) (r : SecRec) (kflags : Nat) : State :=
  (s.setPair { s.knl.pair with settled := true, recomputing := false }).secRecord r kflags

/-! ### Comparison (R78 to R80) -/

/-- Both digests are in and equal. -/
def agreed (a b : Option Digest) : Bool :=
  match a, b with
  | some x, some y => x == y
  | _, _ => false

/-- Steering resumes (R80). -/
def State.resume (s : State) (r : SecRec) : State :=
  let s := s.setFlag R.KNL_KPAIR_STAT_FROZEN 0 false
  let s := s.setPair { s.knl.pair with kat := false, resumeFrom := none, held := false, heldUpd := [] }
  s.kpairRecord 5 0xFF 0 r.second s.knl.pair.d0 s.knl.pair.d1

/-- A second's comparison while frozen (R80). -/
def State.compareFrozen (s : State) (r : SecRec) (same : Bool) : State :=
  let p := s.knl.pair
  if same then
    let s := s.checkpoint r
    let counts := match p.resumeFrom with
      | some b => decide (r.second ≥ b)
      | none => false
    let n := if counts then Nat.min 10 (s.get R.KNL_KPAIR_STAT_RESUME_CNT + 1) else s.get R.KNL_KPAIR_STAT_RESUME_CNT
    let s := s.set R.KNL_KPAIR_STAT_RESUME_CNT 0 n
    let s := if counts && n ≥ 10 then s.resume r else s
    s.settle r 1
  else
    let s := (s.set R.KNL_KPAIR_STAT_RESUME_CNT 0 0).setFlag R.KNL_KPAIR_STAT_LAST_AGREED 0 false
    (s.kpairRecord 7 0xFF 0 r.second p.d0 p.d1).settle r 0

/-- Both digests of the second in hand are in, or `ms` milliseconds have passed since its boundary (R78, R79). -/
def State.digestsDue (s : State) (ms : Nat) : Bool :=
  (s.knl.pair.d0.isSome && s.knl.pair.d1.isSome) || s.past s.knl.pair.openAt ms 1000

/-- The comparison of a second, when both digests are in or 100 ms have passed (R78): agreement makes a checkpoint; a disagreement is recorded during a trial (R82), and starts
the recomputation otherwise (R79). -/
def State.kCompare (s : State) : State :=
  let p := s.knl.pair
  match p.second with
  | none => s
  | some r =>
    if p.settled || p.recomputing || !s.digestsDue 100 then s
    else
      let same := agreed p.d0 p.d1
      if s.frozen then s.compareFrozen r same
      else if same then (s.checkpoint r).settle r 1
      else
        let s := s.setFlag R.KNL_KPAIR_STAT_LAST_AGREED 0 false
        if p.trial.isSome then (s.kpairRecord 6 0xFF 0 r.second p.d0 p.d1).settle r 0
        else
          let s := s.setPair { p with held := true, recomputing := true, rerun := true, first0 := p.d0, first1 := p.d1, d0 := none, d1 := none }
          (s.kRestart 0 s.ckpt).kRestart 1 s.ckpt

/-- The freeze (R79, R80): a freeze update to FREQ of the last agreed checkpoint, updates refused, the Leash widened. -/
def State.freeze (s : State) (r : SecRec) : State :=
  let p := s.knl.pair
  let freq := match s.ckpt with
    | some c => c.freq
    | none => BitVec.ofInt 64 s.freqNow
  let s := s.setPair { p with held := false, heldUpd := [], kat := true, resumeFrom := none }
  let s := (s.setFlag R.KNL_KPAIR_STAT_FROZEN 0 true).set R.KNL_KPAIR_STAT_RESUME_CNT 0 0
  let s := (s.bump R.KNL_KPAIR_CNT_DISAGREES).freezeReq freq
  let s := if s.servo = 2 then s.setServo 3 else s
  let s := (s.leashWiden).raise fsKpairDisagree
  (s.kpairRecord 2 0xFF 0 r.second p.first0 p.first1).settle r 2

/-- The end of a recomputation, when both digests are in again or 500 ms have passed (R79). -/
def State.recomputeEnd (s : State) : State :=
  let p := s.knl.pair
  match p.second with
  | none => s
  | some r =>
    if !p.recomputing || !s.digestsDue 500 then s
    else if agreed p.d0 p.d1 then
      let leadFirst := if s.lead = 0 then p.first0 else p.first1
      let outcome := if agreed p.d0 leadFirst then 0 else 1
      let upd := p.heldUpd
      let s := s.checkpoint r
      let s := s.setPair { s.knl.pair with held := false, heldUpd := [] }
      let s := upd.foldl State.fwArrive s
      let s := (s.bump R.KNL_KPAIR_CNT_TRANSIENTS).raise fsKpairTransient
      (s.kpairRecord outcome 0xFF 0 r.second p.first0 p.first1).settle r 2
    else s.freeze r

/-- A DIGEST of a K-engine (R78, R302): the code it returns. -/
def State.digestIn (s : State) (n : Fin 2) (d : Digest) : Nat × State :=
  let p := s.knl.pair
  let has := if n = 0 then p.d0.isSome else p.d1.isSome
  if p.settled || p.second.isNone then (2, s)
  else if has then (1, s)
  else (0, s.setPair (if n = 0 then { p with d0 := some d } else { p with d1 := some d }))

/-- The known-answer results of a frozen pair (R80). -/
def State.katResult (s : State) (ran0 pass0 ran1 pass1 : Bool) : State :=
  let p := s.knl.pair
  if !s.frozen || !p.kat then s
  else
    let ok0 := ran0 && pass0
    let ok1 := ran1 && pass1
    let kat := b2n ran0 + 2 * b2n ok0 + 4 * b2n ran1 + 8 * b2n ok1
    let s := s.setPair { p with kat := false }
    let sec := (p.second.map (·.second)).getD 0
    let failing : Option (Fin 2) := if ok0 && !ok1 then some 1 else if ok1 && !ok0 then some 0 else none
    let s := match failing with
      | some f => ((s.set R.KNL_KPAIR_STAT_LEAD 0 (kOther f)).engineReset (kEng f)).kReload f
      | none => s
    let eng := match failing with
      | some f => f.val
      | none => 0xFF
    s.kpairRecord 3 eng kat sec p.firsts.1 p.firsts.2

/-! ### What the boundary does -/

/-- A due restore: the engine takes the checkpoint that the other writes at this boundary (R80, R82). -/
def State.kRestoreDue (s : State) : State :=
  match s.knl.pair.restore with
  | none => s
  | some f =>
    let cells := s.memCells (kArea (kOther f)) (kArea (kOther f) + 0x4000)
    let s := (s.kPutArea f cells).kRestart f none
    let s := s.setPair { s.knl.pair with restore := none, resumeFrom := some s.time.lastSecond }
    if s.frozen then
      let s := s.set R.KNL_KPAIR_STAT_RESUME_CNT 0 0
      s.kpairRecord 4 f 0 (s.time.lastSecond - 1) none none
    else s

/-- The swap of roles (R81). -/
def State.kSwap (s : State) : State :=
  let per := s.get R.KNL_SWAP_PERIOD
  if per = 0 || s.time.lastSecond % per ≠ 0 then s
  else if !s.flag R.KNL_KPAIR_STAT_LAST_AGREED || s.frozen || s.knl.pair.trial.isSome || s.time.armed.isSome
  then s.bump R.KNL_KPAIR_STAT_SWAP_DEFERRED
  else s.set R.KNL_KPAIR_STAT_LEAD 0 (kOther s.lead)

/-- The second that the boundary closes is opened for comparison, with what its record takes from the boundary (R75, R78). A
second still open is settled first, without agreement (R78). Where the boundary falls in an SN state, FREQ is that of the last set that was
in force (R35; log entry 79). -/
def State.secOpen (s : State) (unsealed : Bool) : State :=
  let p := s.knl.pair
  let r : SecRec :=
    { second := s.time.lastSecond - 1, freq := BitVec.ofInt 64 s.freqNow, unsealed := unsealed, leash := s.get R.LSH_CORE
      selRef := if s.get R.REF_STAT_SEL_REF = 31 then 0xFF else s.get R.REF_STAT_SEL_REF
      csetVer := s.get R.KNL_TIME_MODE_CSET_VER, rate := if s.inLc then s.time.cset.rate else 0
      qual := s.get R.REF_QUAL_MASK, utcOffset := s.get R.KNL_UTC_UTC_OFFSET, leap := (s.time.leap.map (·.kind)).getD 0
      temp := s.get R.PWR_TEMP 1, stepped := p.stepped, jumped := p.jumped }
  s.setPair { p with second := some r, openAt := s.time.lc.toNat, settled := false, recomputing := false, rerun := false, d0 := none, d1 := none, first0 := none, first1 := none
                     stepped := false, jumped := false }

/-! ### Firmware trial (R82) -/

/-- KNL_MEAS, the attestation key and its public half follow an image (R60, R61). -/
def State.takeMeas (s : State) (d : Digest) : State :=
  let s := s.set R.KNL_MEAS 0 d.toNat
  let key := BitVec.ofNat 256 (ofLe (s.rootKey "ATT" (digestBytes d)))
  let s := { s with knl := { s.knl with attKey := key } }
  s.set R.KNL_ATT_PUB 0 (Config.ecdsaPub key).toNat

/-- The index of the active bank. -/
def State.paramIx (s : State) : Fin 2 := if s.flag R.KNL_SEAL_STAT_PARAM_BANK then 1 else 0

/-- KNL_PARAM_GEN and KNL_PARAM_HASH show the active bank (R69). -/
def State.showBank (s : State) : State :=
  (s.set R.KNL_PARAM_GEN 0 s.bank.gen).set R.KNL_PARAM_HASH 0 s.bank.digest.toNat

/-- The end of a trial once TRIAL_TIME has passed (R82): the bank pointer moves, the new engine leads, the other reloads from the new bank. The active
parameter bank admits the new image from here. -/
def State.trialEnd (s : State) (katPass : Bool) : State :=
  let p := s.knl.pair
  match p.trial with
  | none => s
  | some n =>
    if s.rtSec < p.trialEnd then s
    else if !katPass then s.fwTrialFail n
    else
      let s := s.set R.KNL_SEAL_STAT_FW_BANK 0 (1 - s.get R.KNL_SEAL_STAT_FW_BANK)
      let s := { s with kspi := { s.kspi with fwPtr := s.flag R.KNL_SEAL_STAT_FW_BANK } }
      let d := s.fwBank.meas
      let b := { s.bank with meas := some d, image := none }
      let s := { s with kspi := { s.kspi with paramBank := s.kspi.paramBank.set s.paramIx b } }
      let s := (s.showBank.takeMeas d).setFlag R.KNL_SEAL_STAT_TRIAL 0 false
      let s := s.setPair { s.knl.pair with trial := none }
      (s.set R.KNL_KPAIR_STAT_LEAD 0 n).kReload (kOther n)

/-! ### Meanings -/

/-- KPAIR_COMPARE (R78): both digests are in, or 100 ms have passed. -/
def execKpairCompare (s : State) : Host.Outcome State Fault Refusal := done s.kCompare

/-- KPAIR_RECOMPUTE_END (R79): both digests are in again, or 500 ms have passed. -/
def execKpairRecomputeEnd (s : State) : Host.Outcome State Fault Refusal := done s.recomputeEnd

/-- KPAIR_KAT_RESULT (R80). -/
def execKpairKatResult (ran0 pass0 ran1 pass1 : Bool) (s : State) : Host.Outcome State Fault Refusal :=
  done (s.katResult ran0 pass0 ran1 pass1)

/-- FW_TRIAL_END (R82): TRIAL_TIME has passed; the flag is the new engine's known-answer test. -/
def execFwTrialEnd (katPass : Bool) (s : State) : Host.Outcome State Fault Refusal := done (s.trialEnd katPass)

end Sys2Proof.Machine
end

