-- ==== Sys2Proof/Machine/Kennel.lean ====
section
/-! DEFINITION. The Kennel's mailbox, the sealed-parameter store and the seal (R62 to R70, R74, R83, R84). -/

namespace Sys2Proof.Machine

/-! ### Buffers (R63, R64) -/

/-- Who can claim a buffer: PF0, or an engine E2 to E11 (R63). -/
def mayClaim : Master → Bool
  | .pf f => f == 0
  | .eng n => decide (2 ≤ n.val)
  | _ => false

/-- A claim: the index that the read returns, 0xF when no buffer is FREE (R63). -/
def State.mbClaim (s : State) (m : Master) : Nat × State :=
  match ([0, 1, 2, 3] : List (Fin 4)).find? fun b => mayClaim m && s.mbState b == 0 with
  | some b => (b, ((s.setMbState b 1).setMbOwner b (some m)).mbStamp b)
  | none => (0xF, s)

/-- The buffer that bits [1:0] of a GO or REL write name. -/
def bufOf (v : Word) : Fin 4 := (BitVec.ofNat 2 v.toNat).toFin

/-- A write of KNL_MBX_GO (R63). -/
def State.mbGo (s : State) (m : Master) (v : Word) : State :=
  let b := bufOf v
  if s.mbState b = 1 && s.mbOwner b = some m then
    let s := s.setMbState b 2
    { s with knl := { s.knl with order := s.knl.order ++ [b] } }
  else s

/-- A write of KNL_MBX_REL (R63). -/
def State.mbRel (s : State) (m : Master) (v : Word) : State :=
  let b := bufOf v
  if s.mbState b = 4 && s.mbOwner b = some m then s.mbFree b else s

/-- The 1 KiB of a buffer. -/
def State.mbBytes (s : State) (b : Fin 4) : List Byte := leBytes 1024 (s.wordsN (mbAddr b) 256)

/-! ### The checks of R65 -/

/-- The codes of R68. -/
def rOk := 0
def rAuthFail := 1
def rReplay := 2
def rState := 3
def rRange := 4
def rBusy := 5
def rAuditFull := 6
def rHash := 7
def rSlot := 8
def rOpcode := 9
def rExhausted := 10
def rKspiErr := 11

/-- Whether an OPCODE is known and PAYLOAD_LEN is as R67 requires. -/
def mbLenOk (op len : Nat) : Bool :=
  match op with
  | 0x00 => len == 0 | 0x21 => len == 0
  | 0x01 => decide (5 ≤ len) && decide (len ≤ 896)
  | 0x02 => len == 32
  | 0x10 => decide (8 ≤ len) && decide (len ≤ 880) && len % 8 == 0
  | 0x11 => len == 48
  | 0x12 => len == 36 | 0x13 => len == 36
  | 0x20 => len == 64
  | 0x30 => len == 18
  | 0x31 => len == 10
  | 0x32 => len == 1 | 0x33 => len == 1
  | _ => false

/-- The opcodes of R67. -/
def knownOp (op : Nat) : Bool := op ∈ [0x00, 0x01, 0x02, 0x10, 0x11, 0x12, 0x13, 0x20, 0x21, 0x30, 0x31, 0x32, 0x33]

/-- The Accepted in column of R67, and the trial of R490. -/
def State.mbAccepted (s : State) (op : Nat) : Bool :=
  let lc := s.lc
  if op = 0x00 then true
  else if lc = 0 then false
  else if op = 0x02 then true
  else if lc = 4 then false
  else match op with
    | 0x10 => lc == 3 | 0x11 => lc == 3 | 0x13 => lc == 3
    | 0x12 => lc == 3 && s.knl.pair.trial.isNone
    | 0x20 => lc == 1 || lc == 3 || (lc == 2 && s.sealState == 3 && s.dbg == 0)
    | 0x21 => lc == 2
    | 0x32 => lc == 1 || s.dbg == 2
    | 0x33 => s.frozen
    | _ => true

/-- The key attribute that a command requires (R67); none for STATUS, STAGE and CHALLENGE. -/
def mbUse (op : Nat) : Option Nat :=
  if op ≤ 2 then none else if op = 0x30 || op = 0x31 || op = 0x33 then some useKnlTime else some useKnlMet

/-- A failure at check 5 counts; the 16th within a second starts the refusals of R66. -/
def State.mbAuthFail (s : State) : State :=
  let now := s.time.lc.toNat
  let last := (now :: s.knl.authAt).filter fun l => decide (now < l + 2 ^ 48)
  let s := { s with knl := { s.knl with authAt := last } }
  if last.length ≥ 16 then
    (({ s with knl := { s.knl with lockAt := now } } : State).setFlag R.KNL_MBX_STAT_AUTH_LOCK 0 true).raise fsKnlAuthFlood
  else s

/-- Checks 1 to 6 (R65): 0 when all pass. -/
def State.mbChecks (s : State) (b : Fin 4) : Nat × State :=
  let m := s.mbBytes b
  let op := leAt m 0 1
  let len := leAt m 2 2
  if !mbLenOk op len then (rOpcode, s)
  else if !s.mbAccepted op then (rState, s)
  else match mbUse op with
    | none => (rOk, s)
    | some use =>
      if s.flag R.KNL_MBX_STAT_AUTH_LOCK then (rAuthFail, s)
      else match s.wkrLoad 0 [use] ⟨leAt m 1 1 % 32, Nat.mod_lt _ (by decide)⟩ (s.mbOwner b) [] with
        | (none, s) => (rSlot, s)
        | (some d, s) =>
          let s := { s with sec := { s.sec with verKey := some d } }
          if hmac256 (digestBytes d.key) (s.devId ++ slice m 0 16 ++ slice m 0x10 len) ≠ slice m 0x390 32 then (rAuthFail, s.mbAuthFail)
          else if leAt m 8 8 ≤ s.get R.KNL_MBX_CMD_CNT then (rReplay, s)
          else (rOk, s)

/-- What a command works on: its buffer, counter, key slot and payload. -/
structure MbCmd where
  buf : Fin 4
  op : Nat
  counter : Nat
  slot : Nat
  payload : List Byte

/-- The command in a buffer. -/
def State.mbCmd (s : State) (b : Fin 4) : MbCmd :=
  let m := s.mbBytes b
  { buf := b, op := leAt m 0 1, counter := leAt m 8 8, slot := leAt m 1 1 % 32, payload := slice m 0x10 (leAt m 2 2) }

/-- Whether the Bury save is running: Kennel writes to KSPI wait until it commits (R425). -/
def State.saveRuns (s : State) : Bool :=
  let st := s.get R.AON_VIN_STAT_SAVE_STATE
  decide (1 ≤ st) && decide (st ≤ 3)

/-- The command at the front of the GO order starts, if a test picks its OPCODE: checks 1 to 6, then its own conditions and
effect, then DONE (R62, R65). One that writes KSPI waits while a Bury save runs; where a write or its verification fails, it ends with KSPI_ERR and
without its effect (R68). A STEP that has been accepted is RUNNING until its record exists (R40), and no other command starts before. -/
def State.mbRun (s : State) (p : Nat → Bool) (f : MbCmd → State → Nat × List Byte × State) (kspiOk : Bool := true) : State :=
  match s.knl.order with
  | [] => s
  | b :: _ =>
    let c := s.mbCmd b
    if !p c.op || s.mbState b = 3 || (s.saveRuns && (c.op == 1 || decide (c.op ≥ 0x10))) then s
    else match s.mbChecks b with
      | (0, s) =>
        let (code, resp, t) := f c s
        if code = rOk && c.op = 0x30 then t.setMbState b 3
        else if code = rOk && !kspiOk then s.mbFinish b rKspiErr []
        else t.mbFinish b code resp
      | (code, s) => s.mbFinish b code []

/-- The audit record of an accepted command in the event form; the command counter takes its value (R65, R72). -/
def State.mbRecord (s : State) (c : MbCmd) (typ flags : Nat) (change : List Byte) : State :=
  let s := (s.logEventBy s.knl.attKey typ flags c.slot s.rt (eventDetail c.counter c.op change)).syncAuditFull
  s.set R.KNL_MBX_CMD_CNT 0 c.counter

/-! ### The sealed-parameter store (R69, R70) -/

/-- The inactive bank. -/
def State.inactiveIx (s : State) : Fin 2 := if s.paramIx = 0 then 1 else 0

/-- The store as it will be after the changes accepted so far and those of a list (R70). -/
def State.storeNext (s : State) (ws : List (Nat × Word)) (o : Nat) : Word :=
  match ws.reverse.find? (fun (w : Nat × Word) => w.1 == o) with
  | some w => w.2
  | none =>
    if s.kspi.staged.isEmpty then s.store o
    else
      let b := s.kspi.paramBank[s.inactiveIx]
      match sget b.words o, b.base with
      | some w, _ => w
      | none, some cells => BitVec.ofNat 32 (ofLe ((List.range 4).map fun i => (sget cells (o + i)).getD 0#8))
      | none, none => factoryWord o

/-- A word as the store takes it: only RWS bits of a register word change, KIND of identifiers 8 to 22 and SRC of TI0 to TI7
stay as they are fixed (R86, R116). -/
def storeMask (o : Nat) (v old : Word) : Word :=
  match rwsAddr o with
  | none => v
  | some a =>
    let m := BitVec.ofNat 32 (maskAt (fun r => r.acc == .rws) a)
    let m := if 0x1101200 ≤ a && a < 0x11015C0 && a % 0x40 = 0 then m &&& ~~~2#32 else m
    let m := if 0x1201000 ≤ a && a < 0x1201800 && a % 0x100 = 0 then m &&& ~~~0x3E#32 else m
    (v &&& m) ||| (old &&& ~~~m)

/-- A number within limits. -/
def within (lo hi v : Nat) : Bool := decide (lo ≤ v) && decide (v ≤ hi)

/-- A signed number within limits on its magnitude. -/
def withinS (lim : Nat) (w v : Nat) : Bool := decide ((sext w v).natAbs ≤ lim)

/-- The ranges of a word of a latency table at an offset within its block (R173): times in 1/16 ps. -/
def latWordOk (typ ix mode f v : Nat) : Bool :=
  if f = 0 then v == typ + ix * 256 + mode * 65536
  else if typ = 1 then
    (if f < 0x1C then true else if f = 0x1C then decide (v < 65536) else v == 0)
  else match f with
    | 0x04 => withinS 320000 32 v | 0x08 => withinS 320000 32 v
    | 0x0C => withinS 800000 32 v | 0x10 => withinS 800000 32 v
    | 0x14 => withinS 16000000 32 v
    | 0x18 => within 1 1000000 v
    | 0x20 => decide (-640 ≤ sext 16 v) && decide (sext 16 v ≤ 2000) && within 1 200 (bits v 16 16)
    | 0x24 => withinS 640000 32 v
    | 0x28 => decide (v < 65536)
    | 0x2C => v == 0
    | _ => true

/-- The stated range of a sealed-store word (R59, R85, R103, R115, R137, R173, R338, R403, R488). -/
def paramOk (o v : Nat) : Bool :=
  let ix := fun base => (o - base) / 0x30
  if 0x10000 ≤ o && o < 0x13C00 then latWordOk 0 (ix 0x10000 / 5) (ix 0x10000 % 5) ((o - 0x10000) % 0x30) v
  else if 0x14000 ≤ o && o < 0x14180 then latWordOk 1 (ix 0x14000) 0 ((o - 0x14000) % 0x30) v
  else if 0xF00 ≤ o && o < 0xFC0 then (o - 0xF00) % 0x30 = 0 || latWordOk 0 0 0 ((o - 0xF00) % 0x30) v
  else if o = 0xB10 then within 60 86400 v
  else if 0xB80 ≤ o && o < 0xB90 then decide (v < 256) && decide (v % 16 ≤ 5)
  else if o = 0xB90 then v == 0xF4
  else if o = 0x20108 || o = 0x2010C then within 60 86400 v
  else if o = 0x2206C then decide (v < 256)
  else if o = 0x22070 then within 100 1000000 v
  else if o = 0x28024 then decide (v ≥ 1)
  else if o = 0x28028 then within 2 1000000 v
  else if o = 0x2802C then within 300 65535 v
  else if o = 0x28030 then within 600 604800 v
  else if o = 0x28034 then within 10 65535 (v % 65536) && within 1 4095 (v / 65536)
  else if o = 0x2B00C then within 3600 2592000 v
  else if 0x29000 ≤ o && o < 0x295C0 then
    let n := (o - 0x29000) / 0x40
    match (o - 0x29000) % 0x40 with
    | 0x04 => if n ≤ 7 || (18 ≤ n && n ≤ 21) then within 1 250000000 v else true
    | 0x10 => within 1 3600 v
    | _ => true
  else if 0x31000 ≤ o && o < 0x32000 then
    let c := (o - 0x31000) / 0x100
    match (o - 0x31000) % 0x100 with
    | 0x00 => decide (bits v 7 4 ≤ 8) && (decide (c < 8) || !within 13 15 (bits v 1 5))
    | 0x04 => within 1 16777215 v
    | _ => true
  else true

/-- The conditions that join several words: JUMP_MAX, ACCEPT below REJECT, ENS_ACCEPT at most half of AGREE, and no prescaler on
a pulse-per-second source (R59, R92, R100, R119). -/
def storeJoint (st : Nat → Nat) : Bool :=
  within 1000 1000000000000 (st 0x22068 + st 0x2206C % 256 * 2 ^ 32)
    && (List.range 23).all (fun n => decide (st (0x29008 + n * 0x40) % 2 ^ 20 < st (0x2900C + n * 0x40) % 2 ^ 20))
    && decide (2 * (st 0x28024 % 2 ^ 20) ≤ st 0x28028 % 2 ^ 20)
    && (List.range 16).all fun c =>
        let cfg := st (0x31000 + c * 0x100)
        let src := if c < 8 then c else bits cfg 1 5
        bits cfg 7 4 == 0 || !(decide (src < 8) && !bit (st (0x29000 + src * 0x40)) 1)

/-- The words of the store that have a stated range: an offset, and how many. -/
def rangedWords : List (Nat × Nat) :=
  [(0xB10, 1), (0xB80, 5), (0xF00, 48), (0x10000, 3840), (0x14000, 96), (0x20108, 2), (0x2206C, 2), (0x28024, 5), (0x29000, 368), (0x2B00C, 1), (0x31000, 1024)]

/-- Whether a whole image keeps every range of the store, and the fields that are fixed: KIND of identifiers 8 to 22 and SRC of TI0 to TI7
(R86, R116; log entry 82). -/
def imageOk (st : Nat → Nat) : Bool :=
  rangedWords.all (fun x => (List.range x.2).all fun i => paramOk (x.1 + 4 * i) (st (x.1 + 4 * i)))
    && storeJoint st
    && (List.range 15).all (fun i => bit (st (0x29200 + i * 0x40)) 1 == bit (rwsFactory (0x1101200 + i * 0x40)) 1)
    && (List.range 8).all (fun c => bits (st (0x31000 + c * 0x100)) 1 5 == c)

/-- The pairs of a SET_PARAM payload. -/
def paramPairs : Nat → List Byte → List (Nat × Nat)
  | 0, _ => []
  | n + 1, bs => if bs.length < 8 then [] else (leAt bs 0 4, leAt bs 4 4) :: paramPairs n (bs.drop 8)

/-- A change of KNL_LC_INC needs SN_BOOT or SN_TEST (R30). -/
def State.lcIncOk (s : State) : Bool := s.mode == 0 || s.mode == 3

/-- The words that a list of pairs leaves in the store. -/
def State.paramWords (s : State) (ps : List (Nat × Nat)) : List (Nat × Word) :=
  ps.foldl (fun ws p => ws ++ [(p.1, storeMask p.1 (BitVec.ofNat 32 p.2) (s.storeNext ws p.1))]) []

/-- The checks of a SET_PARAM (R70), and audit space. -/
def State.paramCheck (s : State) (ps : List (Nat × Nat)) : Nat :=
  let ws := s.paramWords ps
  if ps.any fun p => decide (p.1 ≥ 0x40000) || p.1 % 4 != 0 then rRange
  else if !s.lcIncOk && ps.any (fun p => p.1 == 0x22008 || p.1 == 0x2200C) then rState
  else if !ps.all (fun p => paramOk p.1 p.2) || !storeJoint (fun o => (s.storeNext ws o).toNat) then rRange
  else if s.auditOver then rAuditFull else rOk

/-- Steps 1 to 3 of R70: the inactive bank takes the active one, every change since the last switch and these; the seal counter
and the audit record follow. -/
def State.stage (s : State) (c : MbCmd) (words : List (Nat × Word)) (whole : Option (List Host.Cell × Digest)) : State :=
  let act := s.bank
  let b0 := if s.kspi.staged.isEmpty then { act with gen := (act.gen + 1) % 2 ^ 32 } else s.kspi.paramBank[s.inactiveIx]
  let b := match whole with
    | some (cells, d) => { b0 with words := [], base := some cells, image := some d }
    | none => { b0 with words := words.foldl (fun m w => sput false w.1 w.2 m) b0.words, image := none }
  let st : StagedCmd := { counter := c.counter, opcode := c.op, change := changeOf c.payload, at_ := s.time.tick, words := words, whole := whole.isSome }
  let s := { s with kspi := { s.kspi with paramBank := s.kspi.paramBank.set s.inactiveIx b, staged := s.kspi.staged ++ [st] } }
  let s := s.bumpW R.KNL_SEAL_CNT
  s.mbRecord c 0x0010 s.recFlags (changeOf c.payload)

/-- The working copy is the active bank (R69). -/
def State.loadWork (s : State) : State := { s with knl := { s.knl with work := s.bank.words, workBase := s.bank.base } }

/-- TIM channels whose settings differ take their changed configuration: prescaler and divider restart, CONFIG is due (R117). -/
def State.timChanged (s : State) (old : Nat → Word) : State :=
  s.forN 16 fun c s =>
    let base := 0x31000 + c * 0x100
    let same := (List.range 4).all fun i => old (base + 4 * i) == s.store (base + 4 * i)
    if same then s
    else if h : c < 16 then
      let ch := s.tim.ch[c]
      { s with tim := { s.tim with ch := s.tim.ch.set c { ch with presCnt := 0, divCnt := 0, config := true } } }
    else s

/-- Step 4 of R70 at a boundary: staged changes whose newest record is 256 ticks old take effect together. -/
def State.bankSwitch (s : State) : State :=
  if s.kspi.staged.isEmpty || s.kspi.staged.any (fun c => decide (c.at_ + noticeTicks > s.time.tick)) then s
  else
    let old := s.store
    let s : State := { s with knl := { s.knl with oldWork := s.knl.work, oldBase := s.knl.workBase, switchSec := s.rtSec } }
    let s := s.set R.KNL_SEAL_STAT_PARAM_BANK 0 (1 - s.get R.KNL_SEAL_STAT_PARAM_BANK)
    let s := { s with kspi := { s.kspi with staged := [], paramPtr := s.flag R.KNL_SEAL_STAT_PARAM_BANK } }
    ((s.loadWork.showBank).timChanged old).kinNote 9

/-! ### The commands -/

/-- KNL_SEAL_STAT as a word. -/
def State.sealWord (s : State) : Nat := (s.word 0x1000000).toNat

/-- STATUS (R68). -/
def State.cmdStatus (_ : MbCmd) (s : State) : Nat × List Byte × State :=
  (rOk, leBytes 4 s.sealWord ++ leBytes 4 (s.get R.KNL_SEAL_CNT) ++ leBytes 4 (s.get R.KNL_MBX_CMD_CNT), s)

/-- STAGE (R67): bytes into the staging area of 256 KiB. -/
def State.cmdStage (c : MbCmd) (s : State) : Nat × List Byte × State :=
  let off := leAt c.payload 0 4
  let bs := c.payload.drop 4
  if off + bs.length > 0x40000 then (rRange, [], s)
  else
    let put := (bs.foldl (fun (x : Nat × List Host.Cell) b => (x.1 + 1, sput (b == 0#8) x.1 b x.2)) (off, s.kspi.staging)).2
    (rOk, [], { s with kspi := { s.kspi with staging := put } })

/-- The first bytes of the staging area. -/
def State.staged (s : State) (n : Nat) : List Byte := (List.range n).map fun i => (sget s.kspi.staging i).getD 0#8

/-- CHALLENGE (R68). -/
def State.cmdChallenge (c : MbCmd) (s : State) : Nat × List Byte × State :=
  let msg := c.payload ++ s.devId ++ leBytes 32 (s.get R.KNL_MEAS) ++ leBytes 32 (s.get R.KNL_PARAM_HASH)
    ++ leBytes 4 (s.get R.KNL_SEAL_CNT) ++ leBytes 4 s.sealWord
  let sig := Config.ecdsaSign s.knl.attKey (sha256D msg) s.draw
  (rOk, sigBytes sig ++ leBytes 4 (s.get R.KNL_SEAL_CNT) ++ leBytes 4 s.sealWord, s.drawn)

/-- SET_PARAM (R70). -/
def State.cmdSetParam (c : MbCmd) (s : State) : Nat × List Byte × State :=
  let ps := paramPairs 110 c.payload
  let code := s.paramCheck ps
  if code ≠ rOk then (code, [], s) else (rOk, [], s.stage c (s.paramWords ps) none)

/-- SET_LATENCY (R172, R173). -/
def State.cmdSetLatency (c : MbCmd) (s : State) : Nat × List Byte × State :=
  let typ := leAt c.payload 0 1
  let ix := leAt c.payload 1 1
  let mode := leAt c.payload 2 1
  let ok := leAt c.payload 3 1 == 0 && decide (typ ≤ 1) && decide (if typ = 0 then ix < 64 && mode ≤ 4 else ix < 8 && mode = 0)
    && (List.range 12).all (fun i => latWordOk typ ix mode (4 * i) (leAt c.payload (4 * i) 4))
  let base := if typ = 0 then latOff ix mode else 0x14000 + ix * 0x30
  if !ok then (rRange, [], s)
  else if s.auditOver then (rAuditFull, [], s)
  else (rOk, [], s.stage c ((List.range 12).map fun i => (base + 4 * i, BitVec.ofNat 32 (leAt c.payload (4 * i) 4))) none)

/-- COMMIT_FW (R82). -/
def State.cmdCommitFw (c : MbCmd) (s : State) : Nat × List Byte × State :=
  let len := leAt c.payload 32 4
  let img := s.staged len
  if len > 0x40000 then (rRange, [], s)
  else if slice c.payload 0 32 ≠ sha256 img then (rHash, [], s)
  else if s.auditOver then (rAuditFull, [], s)
  else
    let bankIx : Fin 2 := if s.flag R.KNL_SEAL_STAT_FW_BANK then 0 else 1
    let b : FwBank := ⟨some img⟩
    let s := { s with kspi := { s.kspi with fwBank := s.kspi.fwBank.set bankIx b } }
    let n := kOther s.lead
    let pub := Config.ecdsaPub (BitVec.ofNat 256 (ofLe (s.rootKey "ATT" (digestBytes b.meas))))
    let change := (sha256 (sigBytes pub)).take 20
    let s := s.bumpW R.KNL_SEAL_CNT
    let s := s.mbRecord c 0x0010 s.recFlags change
    let s := s.kLoad n b true
    let s := match s.ckpt with
      | some k => s.kPutArea n (if n = 0 then k.area0 else k.area1)
      | none => s
    let s := s.setFlag R.KNL_SEAL_STAT_TRIAL 0 true
    let s := s.setPair { s.knl.pair with trial := some n, trialEnd := s.rtSec + s.get R.KNL_TRIAL_TIME, trialCounter := c.counter, trialChange := change }
    (rOk, [], s)

/-- A 32-bit word of the staged image of a length, at an offset. -/
def State.stagedWord (s : State) (len o : Nat) : Nat :=
  let cells := s.kspi.staging.filter fun x => decide (x.1 < len)
  ofLe ((List.range 4).map fun i => (sget cells (o + i)).getD 0#8)

/-- COMMIT_PARAM (R70): the staged image replaces the bank; one that changes KNL_LC_INC needs SN_BOOT or SN_TEST (R30). -/
def State.cmdCommitParam (c : MbCmd) (s : State) : Nat × List Byte × State :=
  let len := leAt c.payload 32 4
  let img := s.staged len
  let cells := s.kspi.staging.filter fun x => decide (x.1 < len)
  let word := s.stagedWord len
  if len > 0x40000 then (rRange, [], s)
  else if !s.lcIncOk && (word 0x22008 != s.get R.KNL_LC_INC0 || word 0x2200C != s.get R.KNL_LC_INC1) then (rState, [], s)
  else if slice c.payload 0 32 ≠ sha256 img then (rHash, [], s)
  else if !imageOk word then (rRange, [], s)
  else if s.auditOver then (rAuditFull, [], s)
  else (rOk, [], s.stage c [] (some (cells, sha256D (padTo 0x40000 img))))

/-- SEAL (R73, R84). STATE becomes INTACT at the next boundary. -/
def State.cmdSeal (c : MbCmd) (s : State) : Nat × List Byte × State :=
  if leAt c.payload 0 32 ≠ s.get R.KNL_MEAS || leAt c.payload 32 32 ≠ s.get R.KNL_PARAM_HASH then (rHash, [], s)
  else if s.sec.sealFuses ≥ 512 then (rExhausted, [], s)
  else if s.auditOver then (rAuditFull, [], s)
  else
    let s := s.bumpW R.KNL_SEAL_CNT
    let n := s.sec.sealFuses + 1
    let s := ({ s with sec := { s.sec with sealFuses := n } }).set R.KNL_SEAL_STAT_FUSES 0 n
    let s := s.mbRecord c 0x0011 s.recFlags (changeOf c.payload)
    let s := s.set R.SEC_STATE_LC 0 2
    (rOk, [], ({ s with knl := { s.knl with sealPend := true } }).syncWorlds)

/-- UNSEAL (R84): STATE reads SERVICE from the tick of the record, whose FLAGS are those just before it. -/
def State.cmdUnseal (c : MbCmd) (s : State) : Nat × List Byte × State :=
  if s.auditOver then (rAuditFull, [], s)
  else
    let s := s.bumpW R.KNL_SEAL_CNT
    let s := s.mbRecord c 0x0012 s.recFlags (changeOf c.payload)
    (rOk, [], ((s.set R.SEC_STATE_LC 0 3).sealBroken 2).syncWorlds.leashWiden)

/-- STEP (R40): the record is written at the effective tick. -/
def State.cmdStep (c : MbCmd) (s : State) : Nat × List Byte × State :=
  let (code, s') := s.stepReq (BitVec.ofNat 96 (leAt c.payload 0 12)) (leAt c.payload 12 6) c.counter c.slot
  if code = rOk && s.auditOver then (rAuditFull, [], s) else (code, [], s')

/-- UTC (R47). A leap code above 2, or another bit of its flags byte, is out of range (R67). -/
def State.cmdUtc (c : MbCmd) (s : State) : Nat × List Byte × State :=
  if leAt c.payload 2 1 > 2 || leAt c.payload 9 1 > 3 then (rRange, [], s)
  else if s.auditOver then (rAuditFull, [], s)
  else (rOk, [], (s.mbRecord c 0x0021 s.recFlags (changeOf c.payload)).utcHostCmd c.payload)

/-- TEST_MODE (R51). -/
def State.cmdTestMode (c : MbCmd) (s : State) : Nat × List Byte × State :=
  let (code, s') := s.testModeReq (leAt c.payload 0 1)
  if code ≠ rOk then (code, [], s')
  else if s.auditOver then (rAuditFull, [], s)
  else (rOk, [], s'.mbRecord c 0x0022 s.recFlags (changeOf c.payload))

/-- KPAIR_SELECT (R80): the named engine leads; the other is restored at the next boundary. -/
def State.cmdKpairSelect (c : MbCmd) (s : State) : Nat × List Byte × State :=
  let b := leAt c.payload 0 1
  if b > 1 then (rRange, [], s)
  else if s.auditOver then (rAuditFull, [], s)
  else
    let n : Fin 2 := if b = 0 then 0 else 1
    let s := s.mbRecord c 0x0031 s.recFlags (changeOf c.payload)
    let s := (s.set R.KNL_KPAIR_STAT_LEAD 0 b).kReload (kOther n)
    (rOk, [], s.setPair { s.knl.pair with kat := false })

/-! ### Meanings -/

/-- CLAIM_EXPIRY (R62): 100 ms have passed since the claim. -/
def execClaimExpiry (b : Fin 4) (s : State) : Host.Outcome State Fault Refusal :=
  done (s.when_ (s.mbState b == 1 && s.past s.knl.mbAt[b] 1 10) fun s => (s.mbFree b).bump R.KNL_MBX_STAT_CLAIM_EXPIRED)

/-- DONE_EXPIRY (R62): 1 s has passed in DONE. -/
def execDoneExpiry (b : Fin 4) (s : State) : Host.Outcome State Fault Refusal :=
  done (s.when_ (s.mbState b == 4 && s.past s.knl.mbAt[b] 1) fun s => s.mbFree b)

/-- AUTH_LOCK_EXPIRY (R66): 10 s have passed. -/
def execAuthLockExpiry (s : State) : Host.Outcome State Fault Refusal :=
  done (s.when_ (s.flag R.KNL_MBX_STAT_AUTH_LOCK && s.past s.knl.lockAt 10) fun s =>
    ({ s with knl := { s.knl with authAt := [] } }).setFlag R.KNL_MBX_STAT_AUTH_LOCK 0 false)

/-- STATUS (R67, R68). -/
def execMbxStatus (s : State) : Host.Outcome State Fault Refusal := done (s.mbRun (· == 0x00) State.cmdStatus)

/-- STAGE (R67). -/
def execMbxStage (kspiOk : Bool) (s : State) : Host.Outcome State Fault Refusal := done (s.mbRun (· == 0x01) State.cmdStage kspiOk)

/-- CHALLENGE (R68). -/
def execMbxChallenge (s : State) : Host.Outcome State Fault Refusal := done (s.mbRun (· == 0x02) State.cmdChallenge)

/-- SET_PARAM (R70). -/
def execMbxSetParam (kspiOk : Bool) (s : State) : Host.Outcome State Fault Refusal := done (s.mbRun (· == 0x10) State.cmdSetParam kspiOk)

/-- SET_LATENCY (R70, R172). -/
def execMbxSetLatency (kspiOk : Bool) (s : State) : Host.Outcome State Fault Refusal := done (s.mbRun (· == 0x11) State.cmdSetLatency kspiOk)

/-- COMMIT_FW (R82). -/
def execMbxCommitFw (kspiOk : Bool) (s : State) : Host.Outcome State Fault Refusal := done (s.mbRun (· == 0x12) State.cmdCommitFw kspiOk)

/-- COMMIT_PARAM (R70). -/
def execMbxCommitParam (kspiOk : Bool) (s : State) : Host.Outcome State Fault Refusal := done (s.mbRun (· == 0x13) State.cmdCommitParam kspiOk)

/-- SEAL (R84). -/
def execMbxSeal (s : State) : Host.Outcome State Fault Refusal := done (s.mbRun (· == 0x20) State.cmdSeal)

/-- UNSEAL (R84). -/
def execMbxUnseal (s : State) : Host.Outcome State Fault Refusal := done (s.mbRun (· == 0x21) State.cmdUnseal)

/-- STEP (R40). -/
def execMbxStep (s : State) : Host.Outcome State Fault Refusal := done (s.mbRun (· == 0x30) State.cmdStep)

/-- UTC (R47). -/
def execMbxUtc (s : State) : Host.Outcome State Fault Refusal := done (s.mbRun (· == 0x31) State.cmdUtc)

/-- TEST_MODE (R51). -/
def execMbxTestMode (s : State) : Host.Outcome State Fault Refusal := done (s.mbRun (· == 0x32) State.cmdTestMode)

/-- KPAIR_SELECT (R80). -/
def execMbxKpairSelect (s : State) : Host.Outcome State Fault Refusal := done (s.mbRun (· == 0x33) State.cmdKpairSelect)

/-- MBX_UNKNOWN_OPCODE (R65): check 1 ends it with OPCODE. -/
def execMbxUnknownOpcode (s : State) : Host.Outcome State Fault Refusal :=
  done (s.mbRun (fun op => !knownOp op) fun _ s => (rOpcode, [], s))

end Sys2Proof.Machine
end

