-- ==== Sys2Proof/Machine/Servo.lean ====
section
/-! DEFINITION. What the lead K-engine's reference image does once a second: the ensemble's weights, the servo, the holdover
model and its updates, and the first time (R101, R105 to R114, R485 to R488). -/

namespace Sys2Proof.Machine

/-! ### The ensemble (R104, R105) -/

/-- Three times avar at 100 s of an oscillator, in 10⁻³⁴ (R104). -/
def State.avar3 (s : State) (k : Nat) : Nat := 300 * s.get R.OSC_SIGMA1 k ^ 2 + 100 * s.get R.OSC_RWFM k

/-- The unnormalised weight of a MEMBER: its joining factor in 1/6,000, times the variances of the other members (R105). -/
def State.rawWeight (s : State) (members : List (Fin 4)) (k : Fin 4) : Nat :=
  let o := s.refs.osc[(⟨k.val, by omega⟩ : Fin 5)]
  (600 + 9 * Nat.min o.memberFor 600) * ((members.filter fun (j : Fin 4) => j != k).map fun (j : Fin 4) => s.avar3 j).foldl (· * ·) 1

/-- The weights of the members: normalised, none above 0.75 with two or more, the excess shared in proportion (R105). -/
def State.oscWeights (s : State) : State :=
  let ms : List (Fin 4) := ([0, 1, 2, 3] : List (Fin 4)).filter fun k => s.oscState k == 2
  let raw := s.rawWeight ms
  let sum := (ms.map raw).sum
  let top := ms.find? fun k => decide (ms.length ≥ 2) && decide (raw k * 4 > sum * 3)
  let w := fun (k : Fin 4) => match top with
    | some t => if k = t then 49152 else (roundDiv (16384 * raw k : Nat) (sum - raw t)).toNat
    | none => (roundDiv (65536 * raw k : Nat) sum).toNat
  ms.foldl (fun s (k : Fin 4) => s.set R.OSC_STATE_WEIGHT k (Nat.min 65535 (if sum = 0 then 0 else w k))) s

/-! ### References in FREQ (R107) -/

/-- REF_WEIGHT from the 6σ bounds that the lead formed, by identifier; 0 for a reference that takes no part (R107). -/
def State.refWeights (s : State) (bounds : List Nat) : State :=
  let u := fun (n : Fin 23) => (bounds[n.val]?).getD 0
  let takes := fun (n : Fin 23) => s.refState n == rQualified && decide (s.get R.REF_CFG_RANK n < 15) && !(s.refSt n).lost && u n != 0
  let ns := (List.finRange 23).filter takes
  -- r := 1 ÷ u², a quarter while DRIFTING, brought to a common denominator
  let den := (ns.map fun n => u n ^ 2).foldl (· * ·) 1
  let r := fun (n : Fin 23) => (if s.flag R.REF_STATE_DRIFTING n then 1 else 4) * (den / u n ^ 2)
  let sum := (ns.map r).sum
  (List.finRange 23).foldl (fun s n =>
    let w := if ns.contains n && sum ≠ 0 then (roundDiv (65536 * r n : Nat) sum).toNat else 0
    s.set R.REF_WEIGHT n (Nat.min 65535 w)) s

/-! ### The holdover model (R108) -/

/-- A 3 by 3 determinant. -/
def det3 (a b c d e f g h i : Int) : Int := a * (e * i - f * h) - b * (d * i - f * g) + c * (d * h - e * g)

/-- The least-squares coefficients of v on 1, x and z, as numerators over one denominator; x or z left out when its flag is
false. -/
def lsq3 (useX useZ : Bool) (ps : List (Int × Int × Int)) : Int × Int × Int × Int :=
  let sum := fun (f : Int × Int × Int → Int) => (ps.map f).sum
  let n : Int := ps.length
  let sx := if useX then sum (·.1) else 0
  let sz := if useZ then sum (·.2.1) else 0
  let sv := sum (·.2.2)
  let sxx := if useX then sum fun p => p.1 * p.1 else 1
  let szz := if useZ then sum fun p => p.2.1 * p.2.1 else 1
  let sxz := if useX && useZ then sum fun p => p.1 * p.2.1 else 0
  let sxv := if useX then sum fun p => p.1 * p.2.2 else 0
  let szv := if useZ then sum fun p => p.2.1 * p.2.2 else 0
  (det3 sv sx sz sxv sxx sxz szv sxz szz, det3 n sv sz sx sxv sxz sz szv szz, det3 n sx sv sx sxx sxv sz sxz szv,
   det3 n sx sz sx sxx sxz sz sxz szz)

/-- The window of the regression, 30 days in seconds (R108). -/
def learnWin : Nat := 2592000

/-- A second of lock: LOCK_TIME runs, the tick's offset against the selected reference joins the regression, and y0 at t_last and the
temperature then, with d and k_T, each from when its test is met, become the model (R108, R115). -/
def State.learnSecond (s : State) : State :=
  let s := s.bump R.REF_LOCK_TIME
  let sel := s.get R.REF_STAT_SEL_REF
  if sel ≥ 23 || !s.flag R.REF_STATE_Y_VALID sel then s
  else
    let base : Int := s.refs.tLast
    let at_ := fun (p : Int × Int × Int) => p.1 * 2 ^ 48 - base
    let t0 := s.getS R.REF_HOLD_T0
    let temp := s.oscTemp s.kpllEntry
    let y := s.getS R.REF_ENS_Y - roundDiv (s.getS R.REF_FREQ sel * 2 ^ 64) (10 ^ 15)
    let pts := (((s.rtSec : Int), temp, y) :: s.refs.learn).take learnWin
    let s := { s with refs := { s.refs with learn := pts } }
    let temps := pts.map (·.2.1)
    let span := temps.foldl max temp - temps.foldl min temp
    let useD := decide (s.get R.REF_LOCK_TIME ≥ s.get R.REF_HOLD_MIN_LEARN) && decide (pts.length ≥ 2)
    let useK := decide (span ≥ 32)
    -- what an earlier lock learned stays until this one meets the same test
    let d0 := if !useD && s.flag R.REF_HOLD_STAT_LEARNED_D then s.getS R.REF_HOLD_D else 0
    let k0 := if !useK && s.flag R.REF_HOLD_STAT_LEARNED_KT then s.getS R.REF_HOLD_KT else 0
    let rel := pts.map fun p => (at_ p, p.2.1 - t0,
      p.2.2 - roundDiv (d0 * at_ p * 2 ^ 16) (10 ^ 21) - roundDiv (k0 * (p.2.1 - t0) * 2 ^ 64) (16 * 10 ^ 16))
    let (n0, nd, nk, den) := lsq3 useD useK rel
    if den ≤ 0 then s
    else
      let s := s.set R.REF_HOLD_Y0 0 (trunc 64 (roundDiv n0 den.toNat))
      let s := if useD then (s.set R.REF_HOLD_D 0 (trunc 32 (roundDiv (nd * 10 ^ 21) (den.toNat * 2 ^ 16)))).setFlag R.REF_HOLD_STAT_LEARNED_D 0 true else s
      if useK then (s.set R.REF_HOLD_KT 0 (trunc 32 (roundDiv (nk * 16 * 10 ^ 16) (den.toNat * 2 ^ 64)))).setFlag R.REF_HOLD_STAT_LEARNED_KT 0 true else s

/-! ### The servo (R101, R106, R107, R113) -/

/-- What slewing has moved RT since an LC (R38). -/
def State.slewSince (s : State) (lc : Nat) : Int :=
  match s.time.slew with
  | none => 0
  | some w => w.made s.time.lc - (if w.start.toNat ≤ lc then w.made (BitVec.ofNat 96 lc) else 0)

/-- The correction that the newest sample of a reference asks for, if the servo has not used it (R101). -/
def State.correction (s : State) (n : Fin 23) : Option Int :=
  let r := s.refSt n
  match r.samples with
  | [] => none
  | x :: _ => if !s.timeRef n || r.lastRt = s.refs.used then none else some (- r.offset - s.slewSince x.lc)

/-- FREQ_ONLY of the servo and of its reference. -/
def State.setFreqOnly (s : State) (n : Nat) (b : Bool) : State :=
  (s.setFlag R.REF_STAT_FREQ_ONLY 0 b).setFlag R.REF_STATE_FREQ_ONLY n b

/-- y_t of a reference in 2⁻⁶⁴, from its samples of the last `win` seconds (R91, R107, R485). -/
def State.yt64 (s : State) (n : Fin 23) (win : Nat) : Option Int :=
  freqOf (s.ownRate n) (2 ^ 64) ((s.refSt n).samples.filter fun x => decide (s.time.lc.toNat ≤ x.lc + win * 2 ^ 48))

/-- FREQ of an update: what the references that carry weight say, by their weights, each over its last 100 s; where none says anything, the
ensemble's (R105, R107). -/
def State.servoFreq (s : State) : Int :=
  let ys := (List.finRange 23).filterMap fun n => (s.yt64 n 100).map fun y => (s.get R.REF_WEIGHT n, y)
  let w := (ys.map (·.1)).sum
  if w = 0 then - s.getS R.REF_ENS_Y else roundDiv (ys.map fun p => (p.1 : Int) * p.2).sum w

/-! ### What the lead writes into LSH (R241, R242) -/

/-- Whether the running second is past its 900 ms (R242). -/
def State.termsLate (s : State) : Bool := decide (fracOf s.rt * 1000 > 900 * 2 ^ 48)

/-- ref, path and the least meas of the selected reference (R241). A reference used for frequency only fixes no phase: the carried amount
bounds it, and with none nothing does (log entry 89). -/
def State.leadRef (s : State) : Nat × Nat × Nat :=
  let sel := s.get R.REF_STAT_SEL_REF
  if !(s.servo == 1 || s.servo == 2) then (0, 0, 0)
  else if !s.timeRef sel || s.flag R.REF_STAT_FREQ_ONLY then (if s.lsh.carry.isSome then 0 else unbounded, 0, 0)
  else if sel ≤ 7 then (s.sealedTerm (0xC00 + 8 * sel), s.sealedTerm (0xC04 + 8 * sel), s.sealedTerm 0xD04)
  else if h : sel < 23 then
    let r := s.refSt ⟨sel, h⟩
    (r.refPs, r.pathPs, r.measPs)
  else (0, 0, 0)

/-- The magnitude of a phase in 2⁻⁴⁸ s as ps, rounded up (R237). -/
def phasePs (u : Int) : Nat := ceilDiv (u.natAbs * 1000000000000) (2 ^ 48)

/-- The terms that the lead writes for the next second, with the 6σ bound of its phase estimate and a phase it has just asked for (R241,
R242). -/
def State.leadTerms (s : State) (meas : Nat) (phase : Int) : Terms :=
  let (ref, path, least) := s.leadRef
  { ref := ref, path := path, meas := Nat.max meas least, slew := phasePs (if phase = 0 then s.slewRem else phase), hold := s.heldAt (s.rtSec + 2) 0 }

/-- The lead writes terms, unless the second is past its 900 ms (R242). -/
def State.leadWrite (s : State) (x : Terms) : State := if s.termsLate then s else { s with lsh := { s.lsh with next := some x } }

/-! ### Updates (R107, R110) -/

/-- One second of the servo while ACQUIRING or LOCKED: the weights, one firmware update with FREQ by the weights and PHASE from the selected
reference alone, the test for lock, and the Leash terms of the next second. A PHASE beyond JUMP_MAX is asked for once, and the reference is
then used for frequency only (R106, R107, R113). FREQ cancels the tick's offset, which is what REF_ENS_Y says (R105). -/
def State.servoUpdate (s : State) (residPs : Nat) (bounds : List Nat) (est : List (Nat × Nat)) : State :=
  let sv := s.servo
  let sel := s.get R.REF_STAT_SEL_REF
  if !s.leadUp || !s.inLc || s.frozen || s.refs.servoDone || !(sv = 1 || sv = 2) then s
  else if h : sel < 23 then
    let n : Fin 23 := ⟨sel, h⟩
    let s := s.refWeights bounds
    let freq := s.servoFreq
    let osc := Vector.ofFn fun (k : Fin 5) => match est[k.val]? with
      | some (a, d) => { s.refs.osc[k] with a := a, d6 := d }
      | none => s.refs.osc[k]
    let s := { s with refs := { s.refs with osc := osc, ensYFromRef := true, ensYGiven := true, servoDone := true } }
    let s := (s.set R.REF_ENS_Y 0 (trunc 64 (-freq)))
    let s := (oscs.filter fun (k : Fin 4) => s.oscState k == 2).foldl State.oscModel s
    let corr := s.correction n
    let big := match corr with
      | some c => s.beyondJump c
      | none => false
    let asked := s.flag R.REF_STAT_FREQ_ONLY
    let phase := match corr with
      | some c => if big && asked then 0 else c
      | none => 0
    let s : State := if corr.isSome then { s.setFreqOnly n big with refs := { s.refs with used := (s.refSt n).lastRt} } else s
    let s := if big && !asked then s.leashWiden else s
    let ok := decide (residPs < s.get R.REF_LOCK_CFG_LOCK_PS) && s.time.slew.isNone && !s.flag R.REF_STAT_FREQ_ONLY
    let run : Nat := if ok then s.refs.lockRun + 1 else 0
    let s := { s with refs := { s.refs with lockRun := run } }
    let s := if sv = 1 && decide (s.get R.REF_LOCK_CFG_LOCK_TIME ≤ run) then s.setServo 2 else s
    let s := s.leadWrite (s.leadTerms residPs (if big then 0 else phase))
    s.anchorReq (BitVec.ofInt 64 freq) (BitVec.ofInt 64 phase) 0
  else s

/-- One second of HOLDOVER: FREQ from the prediction, no PHASE (R110). Outside ACQUIRING and LOCKED the lead writes the holdover, checkpoint or
free-run term of the next second with it (R242). -/
def State.holdoverUpdate (s : State) : State :=
  let steer := s.servo = 3 && s.inLc && !s.refs.servoDone
  let w := if (s.servo = 1 ∨ s.servo = 2) ∧ !s.frozen then s else s.leadWrite (s.leadTerms 0 0)
  if !steer then w
  else
    let t := s.rt.toNat - s.refs.tLast
    let w : State := { w.set R.REF_HOLD_ELAPSED 0 (Nat.min (t / 2 ^ 48) (2 ^ 32 - 1)) with refs := { s.refs with servoDone := true } }
    let w := w.showHold
    if s.frozen then w else w.anchorReq (BitVec.ofInt 64 (- s.predict t (s.oscTemp s.kpllEntry))) 0 0

/-! ### The first time (R485 to R488) -/

/-- The time reference of the lowest RANK that is not ABSENT, the lowest identifier among equals (R485). -/
def State.bootRef (s : State) : Option (Fin 23) :=
  let ns : List (Fin 23) := (List.finRange 23).filter fun (n : Fin 23) => s.timeRef n && decide (s.refState n ≥ rQualifying)
  ns.foldl (fun (b : Option (Fin 23)) (n : Fin 23) => match b with
    | none => some n
    | some m => if s.get R.REF_CFG_RANK n < s.get R.REF_CFG_RANK m then some n else some m) none

/-- REF_ENS_Y is supplied. -/
def State.giveEnsY (s : State) (v : Int) (fromRef : Bool) : State :=
  ({ s with refs := { s.refs with ensYGiven := true, ensYFromRef := s.refs.ensYFromRef || fromRef } }).set R.REF_ENS_Y 0 (trunc 64 v)

/-- Until a reference has been QUALIFIED, REF_ENS_Y comes from a fresh Bone of the same KPLL source, or else from the best time
reference, measured over 16 s (R485). -/
def State.ensYBootstrap (s : State) : State :=
  if s.refs.everQual || !s.leadUp then s
  else if s.refs.boneSrc = some (s.get R.CLK_STAT_KPLL_SRC) then s.giveEnsY (s.getS R.REF_HOLD_Y0) false
  else match s.bootRef with
    | none => s
    | some n =>
      if !(s.refSt n).samples.any (fun x => decide (x.lc + 16 * 2 ^ 48 ≤ s.time.lc.toNat)) then s
      else match s.yt64 n 16 with
        | some y => s.giveEnsY (-y) true
        | none => s

/-- The SN count of an instant 256 ticks from now that differs from the present one by a correction (R486, R51). -/
def State.snAligned (s : State) (corr : Int) : Time :=
  t96ToSn96 (sn96ToT96 s.time.sn + BitVec.ofInt 96 (corr + roundDiv (256 * 2 ^ 48) 1200000000))

/-- In SN_BOOT the lead loads the SN count from the selected time reference, or requests the handover when the residual is
within JUMP_MAX (R486). -/
def State.bootAlign (s : State) : State :=
  let sel := s.get R.REF_STAT_SEL_REF
  if !s.leadUp || s.mode ≠ 0 || s.time.armed.isSome || s.time.snLoad.isSome || s.frozen then s
  else if h : sel < 23 then
    let n : Fin 23 := ⟨sel, h⟩
    match s.correction n with
    | none => s
    | some c =>
      let s := { s with refs := { s.refs with used := (s.refSt n).lastRt } }
      if s.beyondJump c then s.snLoadReq (s.snAligned c)
      else (s.handoverReq (BitVec.ofInt 64 (- s.getS R.REF_ENS_Y)) 0).2
  else s

/-- The lead asks for the handover with FREQ only (R51, R488). -/
def State.leadHandover (s : State) : State := (s.handoverReq (BitVec.ofInt 64 (- s.getS R.REF_ENS_Y)) 0).2

/-- A time reference is QUALIFIED. -/
def State.timeQualified (s : State) : Bool := (List.range 23).any fun n => s.timeRef n && s.refState n == rQualified

/-! ### Meanings -/

/-- SERVO_UPDATE (R107). -/
def execServoUpdate (residPs : Nat) (bounds : List Nat) (est : List (Nat × Nat)) (s : State) : Host.Outcome State Fault Refusal :=
  done (s.servoUpdate residPs bounds est)

/-- HOLDOVER_UPDATE (R110). -/
def execHoldoverUpdate (s : State) : Host.Outcome State Fault Refusal := done (s.when_ s.leadUp State.holdoverUpdate)

/-- ENS_Y_BOOTSTRAP (R485). -/
def execEnsYBootstrap (s : State) : Host.Outcome State Fault Refusal := done s.ensYBootstrap

/-- BOOT_SN_ALIGN (R486). -/
def execBootSnAlign (s : State) : Host.Outcome State Fault Refusal := done s.bootAlign

/-- BOOT_WAIT_EXPIRY (R488): BOOT_WAIT has passed since the K-engines started, without a qualified time reference. -/
def execBootWaitExpiry (s : State) : Host.Outcome State Fault Refusal :=
  done (s.when_ (s.mode == 0 && !s.timeQualified && s.leadUp && s.past s.knl.bootAt (s.store 0xB10).toNat) State.leadHandover)

end Sys2Proof.Machine
end

