-- ==== Sys2Proof/Machine/Tdc.lean ====
section
/-! DEFINITION. Time-interval channels TI0 to TI15: prescaler and divider, interpolators, calibration, records and the time base
(R116 to R137). -/

namespace Sys2Proof.Machine

/-- A channel written. -/
def State.setTdc (s : State) (c : Fin 16) (x : TdcCh) : State := { s with tim := { s.tim with ch := s.tim.ch.set c x } }

/-- One channel. -/
def State.tdc (s : State) (c : Fin 16) : TdcCh := s.tim.ch[c]

/-- The SRC code of a channel: fixed for TI0 to TI7 (R116). -/
def State.tdcSrc (s : State) (c : Fin 16) : Nat := if c.val < 8 then c else s.get R.TIM_CFG_SRC c

/-- 5 ns in 2⁻⁴⁸ s, rounded up (R122). -/
def convUnits : Nat := 1407375

/-- Index of a word of TIM_TABLE (R137). -/
def tblIx (c : Fin 16) (ib : Bool) (k : Nat) : Nat := c.val * 0x400 + (if ib then 0x200 else 0) + k

/-- An interpolator of a channel. -/
def TdcCh.interp (x : TdcCh) (ib : Bool) : Interp := if ib then x.ib else x.ia

/-- An interpolator written. -/
def TdcCh.setInterp (x : TdcCh) (ib : Bool) (i : Interp) : TdcCh := if ib then { x with ib := i } else { x with ia := i }

/-- Which interpolator holds MEASURE: true for IB (R137). -/
def State.measIb (s : State) (c : Fin 16) : Bool := s.flag R.TIM_STATE_MEASURE c

/-- TB_STATE shows the worst state among the enabled channels (R126): ABSENT, then OFF_FREQ, then REBUILD. -/
def State.syncTb (s : State) : State :=
  let sts := ((List.finRange 16).filter fun (c : Fin 16) => s.flag R.TIM_CFG_ENABLE c).map fun (c : Fin 16) => (s.tdc c).tb
  let w := if sts.contains 1 then 1 else if sts.contains 2 then 2 else if sts.contains 3 then 3 else 0
  s.set R.TIM_STAT_TB_STATE 0 w

/-- BUDGET_SPENT, DEGRADED_A and DEGRADED_B of a channel (R121, R131, R132). -/
def State.syncTdc (s : State) (c : Fin 16) : State :=
  let x := s.tdc c
  let degr := fun (i : Interp) => s.tim.rngDegr || decide (i.rejects ≥ 3)
  let s := s.setFlag R.TIM_STATE_BUDGET_SPENT c (x.admitted + x.queue.length ≥ 32)
  (s.setFlag R.TIM_STATE_DEGRADED_A c (degr x.ia)).setFlag R.TIM_STATE_DEGRADED_B c (degr x.ib)

/-- A number of LOST (R121). -/
def lost7 (n : Nat) : Nat := Nat.min n 127

/-! ### Time of an edge (R123, R134) -/

/-- lc_edge, from the stop tick, a table position as TIM_TABLE holds it, in whole 2⁻⁴⁸ s, and the delays in 1/16 ps (R123; log entry
38). -/
def lcEdge (stop : Time) (pos : Nat) (dly16 : Int) : Time :=
  stop - BitVec.ofInt 96 (roundDiv (pos * 16000000000000 + dly16 * 2 ^ 48) 16000000000000)

/-- The delay applied on a channel (R118, R123). -/
def State.tdcDelay (s : State) (c : Fin 16) : Int :=
  s.getS R.TIM_DELAY c + (if s.get R.TIM_CFG_PRESC c > 0 then s.getS R.TIM_PRESC_DELAY c else 0)

/-! ### Records (R133 to R135) -/

/-- CAUSE of a record: the lowest that applies (R135). -/
def State.tdcCause (s : State) (c : Fin 16) (ib short : Bool) : Nat :=
  let x := s.tdc c
  let src := s.tdcSrc c
  let ref := src < 8
  let v := if h : ref then (s.refSt ⟨src, by omega⟩).verdict else 0
  let run := if h : ref then (s.refSt ⟨src, by omega⟩).rateRun else false
  if x.tb = 2 then 1
  else if x.tb = 3 || !(x.interp ib).ready then 2
  else if x.config then 3
  else if v = 1 then 4
  else if short || v = 2 then 5
  else if run || v = 3 then 6 else 0

/-- The 32 bytes of a record (R133). -/
def tdcRecord (lc rt : Time) (ver seq flags codeLost : Nat) : List Byte :=
  leBytes 12 lc.toNat ++ leBytes 12 rt.toNat ++ leBytes 2 ver ++ leBytes 2 seq ++ leBytes 2 flags ++ leBytes 2 codeLost

/-- A record is formed for a conversion on an interpolator, then queued, or dropped with the budget spent or the queue full
(R121, R133). -/
def State.tdcForm (s : State) (c : Fin 16) (ib short : Bool) (code : Nat) (lc : Time) : State :=
  let x := s.tdc c
  let ((rt, ver, sn), s) := s.convert lc
  let cause := s.tdcCause c ib short
  let drop := decide (x.admitted + x.queue.length ≥ 32) || decide (x.queue.length ≥ 8)
  let gap := !drop && decide (x.lost > 0)
  let degr := s.flag (if ib then R.TIM_STATE_DEGRADED_B else R.TIM_STATE_DEGRADED_A) c
  let flags := c.val + 16 * b2n ib + 32 * b2n (s.flag R.TIM_CFG_EDGE c) + 64 * b2n (cause = 0) + 128 * b2n gap + 256 * cause
    + 4096 * b2n degr + 8192 * b2n sn
  let rec' := fun (dr : Bool) => tdcRecord lc rt ver x.seq (flags + 16384 * b2n dr) (code + 512 * (if gap then lost7 x.lost else 0))
  let s := s.set R.TIM_LAST c (ofLe (rec' drop))
  let s := if cause ≠ 0 then s.bump R.TIM_CNT2_INVALID c else s
  let x := { x with seq := (x.seq + 1) % 65536, config := false }
  if drop then
    let s := ((s.setTdc c { x with lost := x.lost + 1 }).bump R.TIM_CNT1_LOST_QUEUE c).obs 0x0A 3
    ((s.raiseBit R.TIM_EVT_GAP 0 0).raise fsTdcOverflow c.val).syncTdc c
  else (s.setTdc c { x with queue := x.queue ++ [rec' false], lost := 0 }).syncTdc c

/-- A selected edge that was not timed counts in MISSED and in LOST of the next record, in ABSENT too (R122, R126; log entry 90). -/
def State.tdcMiss (s : State) (c : Fin 16) : State :=
  (s.setTdc c { s.tdc c with lost := (s.tdc c).lost + 1 }).bump R.TIM_CNT1_MISSED c

/-- A selected edge is converted on MEASURE, or else on CAL, whose hit is discarded and whose tick period is void (R122). -/
def State.tdcConvert (s : State) (c : Fin 16) (code : Nat) (short : Bool) : State :=
  let x := s.tdc c
  if x.tb = 1 then s.tdcMiss c
  else
    let m := s.measIb c
    let stop := s.time.lc
    let posOf := fun ib => s.get R.TIM_TABLE (tblIx c ib code)
    let at_ := stop.toNat - posOf m
    let mBusy := decide (at_ < (x.interp m).busyTill)
    let cBusy := decide (at_ < (x.interp (!m)).busyTill) && !(x.interp (!m)).calConv
    if mBusy && cBusy then s.tdcMiss c
    else
      let ib := if mBusy then !m else m
      let pos := posOf ib
      let i := x.interp ib
      let x := x.setInterp ib { i with busyTill := stop.toNat - pos + convUnits, calConv := false, pend := if mBusy then none else i.pend }
      let x := if mBusy then { x with voidTick := some s.time.tick } else x
      (s.setTdc c x).tdcForm c ib short code (lcEdge stop pos (s.tdcDelay c))

/-- An edge of the selected polarity at a channel's input (R118, R120): the prescaler passes one in P, the divider selects one in
RECDIV, the first after a reset of each. -/
def State.tdcEdge (s : State) (c : Fin 16) (code : Nat) (short : Bool) : State :=
  if !s.flag R.TIM_CFG_ENABLE c then s
  else
    let x := s.tdc c
    let p := 2 ^ s.get R.TIM_CFG_PRESC c
    let pass := decide (x.presCnt = 0)
    let pres := (x.presCnt + 1) % p
    if !pass then s.setTdc c { x with presCnt := pres }
    else
      let div := Nat.max 1 (s.get R.TIM_RECDIV c)
      let sel := decide (x.divCnt = 0)
      let s := s.setTdc c { x with presCnt := pres, divCnt := (x.divCnt + 1) % div }
      if sel then s.tdcConvert c code short else s

/-- An edge of a source, of a width in ps, reaches the input of every channel that selects the source and its polarity, where each line
reads a code of its own (R116). A pulse of a reference is short by that reference's MIN_WIDTH (R90). -/
def State.sourceEdge (s : State) (src : Nat) (falling : Bool) (width : Nat) (codes : List Nat) : State :=
  let short := decide (src < 8) && s.shortPulse src width
  s.forN 16 fun c s =>
    if h : c < 16 then
      let c : Fin 16 := ⟨c, h⟩
      if s.tdcSrc c = src && s.flag R.TIM_CFG_EDGE c == falling then s.tdcEdge c ((codes[c.val]?).getD 0) short else s
    else s

/-- The channel that measures an oscillator for the ensemble: the lowest enabled one whose source it is. -/
def State.oscChannel (s : State) (k : Nat) : Option (Fin 16) :=
  (List.finRange 16).find? fun (c : Fin 16) => s.flag R.TIM_CFG_ENABLE c && s.tdcSrc c == 8 + k

/-- An admitted record of an oscillator reaches the ensemble (R102, R105, R120): RECDIV × P edges after the record before it, each lost record
in between counted. An invalid record, or more lost than LOST can say, begins the samples anew. -/
def State.oscAdmit (s : State) (c : Fin 16) (r : List Byte) : State :=
  let src := s.tdcSrc c
  if h : 8 ≤ src ∧ src < 12 then
    let k : Fin 4 := ⟨src - 8, by omega⟩
    if s.oscChannel k = some c then
      let lost := leAt r 30 2 / 512
      s.oscRecord k (leAt r 0 12) ((1 + lost) * Nat.max 1 (s.get R.TIM_RECDIV c) * 2 ^ s.get R.TIM_CFG_PRESC c)
        ((leAt r 28 2).testBit 6 && decide (lost < 127))
    else s
  else s

/-- The head of a channel's queue enters the input log (R121). A degraded record of the selected reference counts for R244 and widens the
Leash on the tick (R243). -/
def State.tdcAdmit (s : State) (c : Fin 16) : State :=
  let x := s.tdc c
  match x.queue with
  | [] => s
  | r :: q =>
    let (ok, s) := s.kinPut 1 s.time.lc r
    let s := s.setTdc c { x with queue := q, admitted := if ok then x.admitted + 1 else x.admitted }
    let s := if ok then (s.bump R.TIM_CNT0 c).oscAdmit c r else s
    let used := ok && (leAt r 28 2).testBit 12 && (leAt r 28 2).testBit 6 && c.val < 8 && s.get R.REF_STAT_SEL_REF == c.val
    let s := if used && !s.lsh.tdcDegr then ({ s with lsh := { s.lsh with tdcDegr := true } } : State).leashWiden else s
    s.syncTdc c

/-- The write port of the input log: the head of each queue in turn (R121). -/
def State.tdcPort (s : State) : State :=
  let waits := fun (i : Nat) => if h : (s.tim.turn + i) % 16 < 16 then !(s.tdc ⟨(s.tim.turn + i) % 16, h⟩).queue.isEmpty else false
  match (List.range 16).find? waits with
  | none => s
  | some i =>
    let c : Fin 16 := ⟨(s.tim.turn + i) % 16, Nat.mod_lt _ (by omega)⟩
    ({ s with tim := { s.tim with turn := (c.val + 1) % 16 } } : State).tdcAdmit c

/-- The per-second budget restarts at a boundary (R121). -/
def State.tdcBoundary (s : State) : State :=
  s.forN 16 fun c s => if h : c < 16 then (s.setTdc ⟨c, h⟩ { s.tdc ⟨c, h⟩ with admitted := 0 }).syncTdc ⟨c, h⟩ else s

/-! ### Roles and calibration (R122, R127 to R132) -/

/-- The exchange of roles, at a tick at which MEASURE is not converting (R122). -/
def State.roleExchange (s : State) (c : Fin 16) : State :=
  let x := s.tdc c
  let m := s.measIb c
  if decide (s.time.lc.toNat < (x.interp m).busyTill) then s.setTdc c { x with swapDue := true }
  else
    let x := { x with swapDue := false, ia := { x.ia with pend := none }, ib := { x.ib with pend := none } }
    (s.setTdc c x).setFlag R.TIM_STATE_MEASURE c (!m)

/-- The exchange falls due 65,536 ticks after the one before it (R122). -/
def State.roleSwap (s : State) (c : Fin 16) : State :=
  let x := s.tdc c
  if s.time.tick < x.swapTick + 65536 then s else (s.setTdc c { x with swapTick := s.time.tick }).roleExchange c

/-- Histogram building has stopped for a fault of the random source (R132). -/
def State.rngFault (s : State) : Bool := s.active fsTdcRng

/-- A random edge is offered to every idle CAL interpolator, with the code that each channel's CAL line reads; a channel whose source it is
measures it, with the code of its MEASURE line, the codes of which follow (R116, R127). A fault of the source keeps the hit out of the
histogram (R132). -/
def State.randomEdge (s : State) (codes : List Nat) : State :=
  let fault := s.rngFault
  let s := s.forN 16 fun c s =>
    if h : c < 16 then
      let c : Fin 16 := ⟨c, h⟩
      let x := s.tdc c
      let cal := !s.measIb c
      let i := x.interp cal
      match codes[c.val]? with
      | none => s
      | some code =>
        if x.tb = 1 || code ≥ 384 || decide (s.time.lc.toNat < i.busyTill) then s
        else s.setTdc c (x.setInterp cal { i with pend := if fault then none else some code, calConv := true, busyTill := s.time.lc.toNat + convUnits })
    else s
  s.sourceEdge 12 false 0 (codes.drop 16)

/-- N of R129. -/
def calN : Nat := 1048576

/-- A committed hit in the histogram. -/
def histAdd (h : List (Nat × Nat)) (k : Nat) : List (Nat × Nat) := sput false k ((sget h k).getD 0 + 1) h

/-- The hits of a tick period that ends are committed, unless the period is void (R128). -/
def Interp.commit (i : Interp) (void : Bool) : Interp :=
  match i.pend with
  | none => i
  | some k => if void || decide (i.total ≥ calN) then { i with pend := none }
    else { i with pend := none, hist := histAdd i.hist k, total := i.total + 1 }

/-- The end of a tick period, for every channel: hits are committed, and an exchange of roles that waited is made once MEASURE is free
(R122, R128). The tick is present (R125). -/
def State.tdcTick (s : State) : State :=
  let ended := fun (x : TdcCh) =>
    let void := x.voidTick.isSome
    { x with ia := x.ia.commit void, ib := x.ib.commit void, voidTick := none }
  let s : State := { s with tim := { s.tim with ch := s.tim.ch.map ended, presOk := true } }
  ((List.finRange 16).filter fun (c : Fin 16) => (s.tdc c).swapDue).foldl State.roleExchange s

/-- The candidate table of a histogram (R129): centres in 2⁻⁴⁸ s by code, and the widest bin as hits. -/
def calTable (inc : Nat) (h : List (Nat × Nat)) (n : Nat) : List Nat :=
  (h.foldl (fun (a : Nat × List Nat) kv =>
    (a.1 + kv.2, a.2 ++ [(roundDiv (inc * (2 * a.1 + kv.2) : Nat) (2 * n * 2 ^ 32)).toNat])) (0, [])).2

/-- The acceptance rules of R130: one unbroken run from code 0, 240 to 380 codes, no bin wider than 8.4 ps. -/
def calOk (inc : Nat) (h : List (Nat × Nat)) (n : Nat) : Bool :=
  (h.map (·.1) == List.range h.length) && decide (240 ≤ h.length) && decide (h.length ≤ 380)
    && h.all fun kv => decide (inc * kv.2 * 10 ^ 13 ≤ 84 * 2 ^ 48 * n * 2 ^ 32)

/-- Records of every channel stop carrying the random-source DEGRADED once the rate is back and every interpolator has accepted
a fresh table (R132). -/
def State.rngRecover (s : State) : State :=
  if s.tim.rngDegr && s.flag R.TIM_STAT_RNG_OK && s.tim.ch.toList.all (fun x => x.ia.fresh && x.ib.fresh) then
    ({ s with tim := { s.tim with rngDegr := false } }).forN 16 fun c s => if h : c < 16 then s.syncTdc ⟨c, h⟩ else s
  else s

/-- A full histogram becomes a candidate table, accepted or rejected (R129 to R131); a channel in REBUILD whose interpolators
are both fresh is PRESENT (R126). -/
def State.calDone (s : State) (c : Fin 16) (ib : Bool) : State :=
  let x := s.tdc c
  let i := x.interp ib
  if i.total < calN then s
  else if calOk s.lcInc i.hist calN then
    let tbl := calTable s.lcInc i.hist calN
    let s := s.forN 384 fun k s => s.set R.TIM_TABLE (tblIx c ib k) ((tbl[k]?).getD 0)
    let s := s.bumpW (if ib then R.TIM_STATE_TABLE_GEN_B else R.TIM_STATE_TABLE_GEN_A) c
    let s := s.set (if ib then R.TIM_ACTIVE_ACTIVE_B else R.TIM_ACTIVE_ACTIVE_A) c i.hist.length
    let s := s.raiseBit R.TIM_CAL_READY 0 (2 * c.val + b2n ib)
    let x := x.setInterp ib { i with hist := [], total := 0, rejects := 0, ready := true, fresh := true, rebuilt := true }
    let back := x.tb = 3 && x.ia.rebuilt && x.ib.rebuilt
    let s := s.setTdc c (if back then { x with tb := 0 } else x)
    let s := if back then (s.raiseBit R.TIM_EVT_TB_BACK 0 0).syncTb else s
    (s.syncTdc c).rngRecover
  else
    let s := s.setTdc c (x.setInterp ib { i with hist := [], total := 0, rejects := i.rejects + 1 })
    let s := ((s.bump R.TIM_CNT2_CAL_REJECTS c).raiseBit R.TIM_EVT_CAL_REJECTED 0 0).raise fsTdcCalReject c.val
    s.syncTdc c

/-- Every channel's table state changed. -/
def State.mapTdc (s : State) (f : TdcCh → TdcCh) : State := { s with tim := { s.tim with ch := s.tim.ch.map f } }

/-- The last second's rate of random edges (R132). A fault stops the building of histograms; when the source is back they begin anew (log
entry 91). -/
def State.rngRate (s : State) (rate : Nat) : State :=
  let s := s.set R.TIM_RNG_RATE 0 (Nat.min (rate / 1000) (2 ^ 25 - 1))
  let ok := within 10000000 30000000 rate
  let was := s.rngFault
  let s := s.setFlag R.TIM_STAT_RNG_OK 0 ok
  if ok then
    let clean := fun (i : Interp) => { i with hist := [], total := 0, pend := none, fresh := false }
    let s := if was then s.mapTdc fun x => { x with ia := clean x.ia, ib := clean x.ib } else s
    ((({ s with tim := { s.tim with rngGood := s.time.lc.toNat } } : State)).levelOff fsTdcRng).rngRecover
  else
    let s := s.raiseBit R.TIM_EVT_RNG_FAULT 0 0
    s.levelOn fsTdcRng

/-- The fault of the random source has lasted 60 s (R132). -/
def State.rngPersist (s : State) : State :=
  if !s.rngFault || !s.past s.tim.rngGood 60 then s
  else
    let s := { s with tim := { s.tim with rngDegr := true } }
    s.forN 16 fun c s => if h : c < 16 then s.syncTdc ⟨c, h⟩ else s

/-! ### The time base (R125, R126) -/

/-- Channels leave for ABSENT (1) or OFF_FREQ (2). -/
def State.tbLost (s : State) (st : Nat) : State :=
  let entered := s.tim.ch.toList.any fun x => x.tb != st && (x.tb == 0 || x.tb == 3 || st == 1)
  if !entered then s
  else
    let s := s.mapTdc fun x => if x.tb = 1 then x else { x with tb := st, ia := { x.ia with pend := none }, ib := { x.ib with pend := none } }
    let s := ((s.raiseBit R.TIM_EVT_TB_LOST 0 0).bump R.TIM_TB_CNT).syncTb
    s.levelOn fsTdcTimebase

/-- Presence and frequency have passed for 1 ms; with XTAL lost presence alone counts (R125, R126). -/
def State.tbPassed (s : State) : Bool := s.tim.presOk && (s.tim.freqOk || s.flag R.CLK_STAT_XTAL_LOST) && s.past s.tim.failAt 1 1000

/-- Channels that lost the time base begin to rebuild their tables (R126). -/
def State.tbRebuild (s : State) : State :=
  let clean := fun (i : Interp) => { i with hist := [], total := 0, pend := none, rebuilt := false }
  let s := s.mapTdc fun x => if x.tb = 1 || x.tb = 2 then { x with tb := 3, ia := clean x.ia, ib := clean x.ib } else x
  (s.levelOff fsTdcTimebase).syncTb

/-! ### Meanings -/

/-- TDC_EDGE (R118, R120, R123). -/
def execTdcEdge (src : Fin 32) (falling : Bool) (width : Nat) (codes : List Nat) (s : State) : Host.Outcome State Fault Refusal :=
  done (s.sourceEdge src falling width codes)

/-- TDC_RECORD_ADMIT (R121). -/
def execTdcRecordAdmit (s : State) : Host.Outcome State Fault Refusal := done s.tdcPort

/-- INTERP_ROLE_SWAP (R122). -/
def execInterpRoleSwap (c : Fin 16) (s : State) : Host.Outcome State Fault Refusal := done (s.roleSwap c)

/-- RANDOM_EDGE (R127). -/
def execRandomEdge (codes : List Nat) (s : State) : Host.Outcome State Fault Refusal := done (s.randomEdge codes)

/-- CAL_TABLE_COMPLETE (R129). -/
def execCalTableComplete (c : Fin 16) (ib : Bool) (s : State) : Host.Outcome State Fault Refusal := done (s.calDone c ib)

/-- TB_PRESENCE_LOSS (R125): 16 ring-oscillator periods without a tick. -/
def execTbPresenceLoss (s : State) : Host.Outcome State Fault Refusal :=
  done (({ s with tim := { s.tim with presOk := false, failAt := s.time.lc.toNat } }).tbLost 1)

/-- TB_FREQ_WINDOW (R125): ticks counted in 4,096 periods of XTAL. -/
def execTbFreqWindow (count : Nat) (s : State) : Host.Outcome State Fault Refusal :=
  done (s.when_ (!s.flag R.CLK_STAT_XTAL_LOST) fun s =>
    let ok := within (122880 - 123) (122880 + 123) count
    let s := { s with tim := { s.tim with freqOk := ok } }
    if ok then s else ({ s with tim := { s.tim with failAt := s.time.lc.toNat } } : State).tbLost 2)

/-- TB_REBUILD_START (R126). -/
def execTbRebuildStart (s : State) : Host.Outcome State Fault Refusal := done (s.when_ s.tbPassed State.tbRebuild)

/-- RNG_RATE_CHECK (R132). -/
def execRngRateCheck (rate : Nat) (s : State) : Host.Outcome State Fault Refusal := done (s.rngRate rate)

/-- RNG_FAULT_PERSIST (R132). -/
def execRngFaultPersist (s : State) : Host.Outcome State Fault Refusal := done s.rngPersist

end Sys2Proof.Machine
end

