-- ==== Sys2Proof/Machine/Ports.lean ====
section
/-! DEFINITION. Links: their states, timestamps, the crossing into a group, recalibration, pause and speed shift (R161 to R182, R324,
R338). -/

namespace Sys2Proof.Machine

/-! ### Link states (R162) -/

/-- LINK_STATE: 0 DISABLED, 1 DOWN, 2 TRAINING, 3 SETTLE, 4 UP, 5 SHIFTING, 6 RECAL. -/
def lkDISABLED := 0
def lkDOWN := 1
def lkTRAINING := 2
def lkSETTLE := 3
def lkUP := 4
def lkSHIFTING := 5
def lkRECAL := 6

/-- LINK_STATE of a link. -/
def State.linkState (s : State) (i : Fin 68) : Nat :=
  match portOf i with
  | none => s.get R.PCK_LINK_STAT_LINK_STATE i
  | some p => s.get R.PRT_STAT_LINK_STATE p

/-- A link enters a state: TS_READY in UP only, with its events (R162, R187); in UP frames may start from now on (R193). -/
def State.linkMove (s : State) (i : Fin 68) (v : Nat) : State :=
  let now := s.time.lc.toNat
  let s := s.setLink i { s.link i with since := now, upLc := if v == lkUP && s.linkState i != lkRECAL then now else (s.link i).upLc }
  match portOf i with
  | none => (s.set R.PCK_LINK_STAT_LINK_STATE i v).setFlag R.PCK_LINK_STAT_TS_READY i (v == lkUP)
  | some p =>
    let old := s.get R.PRT_STAT_LINK_STATE p
    let s := (s.set R.PRT_STAT_LINK_STATE p v).setFlag R.PRT_STAT_TS_READY p (v == lkUP)
    let s := if (old == lkSETTLE || old == lkUP) && v ≤ lkDOWN then s.raiseBit R.PRT_EVT p 1 else s
    if v == lkUP then (s.raiseBit R.PRT_EVT p 0).setLport p { s.lport p with from_ := s.time.lc.toNat } else s

/-- The even port of a port's pair, if PRP_EN pairs it (R183). -/
def State.pairOf (s : State) (p : Fin 64) : Option (Fin 32) :=
  let j : Fin 32 := ⟨p.val / 2, by omega⟩
  if s.flag R.PRT_CFG_PRP_EN (2 * j.val) then some j else none

/-- Whether a pair works: both ports have the same MODE_ACT (R183). -/
def State.prpOn (s : State) (j : Fin 32) : Bool :=
  s.flag R.PRT_CFG_PRP_EN (2 * j.val) && s.get R.PRT_STAT_MODE_ACT (2 * j.val) == s.get R.PRT_STAT_MODE_ACT (2 * j.val + 1)

/-- Whether a port may shift its speed on its own (R182). -/
def State.mayShift (s : State) (p : Fin 64) : Bool :=
  let m := s.get R.PRT_CFG_MODE p
  s.flag R.PRT_CFG_ACCESS p && (m == 3 || m == 4) && s.flag R.PRT_CFG_AN_EN p && (s.link (attOf p)).an10 && (s.pairOf p).isNone

/-- DOWNSHIFT_UNAVAIL of a port follows (R182). -/
def State.shiftSync (s : State) (p : Fin 64) : State :=
  s.setFlag R.PRT_STAT_DOWNSHIFT_UNAVAIL p (!s.mayShift p || (s.link (attOf p)).shiftBad)

/-- The other port of two that PRP_EN can pair. -/
def twin (p : Fin 64) : Fin 64 := ⟨if p.val % 2 = 0 then p.val + 1 else p.val - 1, by split <;> omega⟩

/-- PRP_CFG_ERR of a pair, and DOWNSHIFT_UNAVAIL of its ports, follow (R182, R183). -/
def State.portSync (s : State) (p : Fin 64) : State :=
  let j : Fin 32 := ⟨p.val / 2, by omega⟩
  let err := s.flag R.PRT_CFG_PRP_EN (2 * j.val) && !s.prpOn j
  let s := (s.setFlag R.PRT_STAT_PRP_CFG_ERR (2 * j.val) err).setFlag R.PRT_STAT_PRP_CFG_ERR (2 * j.val + 1) err
  (s.shiftSync p).shiftSync (twin p)

/-- ENABLE and MODE as the registers have them. -/
def State.linkCfg (s : State) (i : Fin 68) : Bool × Nat :=
  match portOf i with
  | none => (s.flag R.PCK_LINK_CFG_ENABLE i, 2)
  | some p => (s.flag R.PRT_CFG_ENABLE p, s.get R.PRT_CFG_MODE p)

/-- Whether a link's wire is free. -/
def State.wireFree (s : State) (i : Fin 68) : Bool :=
  match portOf i with
  | none => true
  | some p => (s.lport p).wire.isNone

/-- MODE_ACT of a port changes; the mode before is kept for timestamps that were taken under it (R238). -/
def State.setModeAct (s : State) (p : Fin 64) (m : Nat) : State :=
  let s := s.setLink (attOf p) { s.link (attOf p) with modeWas := s.get R.PRT_STAT_MODE_ACT p, modeAt := s.rt.toNat }
  (s.set R.PRT_STAT_MODE_ACT p m).latSync p

/-- A change of ENABLE or MODE takes effect, once no frame is on the wire (R163): to DISABLED or DOWN. -/
def State.cfgApply (s : State) (i : Fin 68) : State :=
  let (en, m) := s.linkCfg i
  let x := s.link i
  if (x.enabled == en && x.mode == m) || !s.wireFree i then s
  else
    let s := s.setLink i { x with enabled := en, mode := m, shiftTo := none }
    let s := s.linkMove i (if en then lkDOWN else lkDISABLED)
    match portOf i with
    | none => s
    | some p => ((s.setModeAct p m).setFlag R.PRT_STAT_DOWNSHIFTED p false).portSync p

/-- Signal detected (R162). -/
def State.signalDetect (s : State) (i : Fin 68) : State :=
  s.when_ (s.linkState i == lkDOWN) fun s => s.linkMove i lkTRAINING

/-- PCS lock, with auto-negotiation complete where AN_EN is set (R162): a shift has reached its mode (R182). `slip` is the
word-alignment offset; `an10` tells whether the partner's base page advertises a 10 Gb/s ability. -/
def State.pcsLock (s : State) (i : Fin 68) (slip : Byte) (an10 : Bool) : State :=
  let st := s.linkState i
  let x := s.link i
  if st ≠ lkTRAINING ∧ st ≠ lkSHIFTING then s
  else
    let s := s.setLink i { x with an10 := an10, fromTraining := st == lkTRAINING, shiftTo := none }
    let s := s.linkMove i lkSETTLE
    match portOf i with
    | none => s
    | some p =>
      let s := s.set R.PRT_LANE_PHASE_SLIP p slip.toNat
      let s := match x.shiftTo with
        | some m =>
          if st = lkSHIFTING then
            let s := (s.setModeAct p m).setFlag R.PRT_STAT_DOWNSHIFTED p (m != x.mode)
            (s.bump R.PRT_SHIFT_CNT_SHIFTS p).raiseBit R.PRT_EVT p 2
          else s
        | none => s
      s.portSync p

/-- No lock within 500 ms (R162). -/
def State.trainTimeout (s : State) (i : Fin 68) : State :=
  s.when_ (s.linkState i == lkTRAINING && s.past (s.link i).since 500 1000) fun s => s.linkMove i lkDOWN

/-- The lane phase has settled for 2 ms (R162). -/
def State.settleDone (s : State) (i : Fin 68) (phase : BitVec 16) : State :=
  if s.linkState i ≠ lkSETTLE || !s.past (s.link i).since 2 1000 then s
  else
    let x := s.link i
    let s := (s.setLink i { x with shiftBad := x.shiftBad && !x.fromTraining }).linkMove i lkUP
    match portOf i with
    | none => s
    | some p => (s.set R.PRT_LANE_PHASE_PHASE p phase.toNat).portSync p

/-- Signal or PCS lock lost (R162). -/
def State.linkLoss (s : State) (i : Fin 68) : State :=
  s.when_ (s.linkState i == lkSETTLE || s.linkState i == lkUP) fun s => s.linkMove i lkDOWN

/-! ### Speed shift (R182) -/

/-- Whether a shift may start, and to which mode: `util` is the larger of transmit and receive utilisation in kb/s, averaged over
DOWN_TIME before a downshift, so over no less time UP, and over 1 s before a shift back (R182). -/
def State.shiftTarget (s : State) (p : Fin 64) (util : Nat) : Option Nat :=
  let x := s.link (attOf p)
  let far := match x.shiftAge with
    | none => true
    | some n => decide (n ≥ 60)
  if s.get R.PRT_STAT_LINK_STATE p ≠ lkUP ∨ !far ∨ !s.mayShift p ∨ (s.lport p).wire.isSome then none
  else if s.flag R.PRT_STAT_DOWNSHIFTED p then
    if util * 100 > s.get R.PRT_SHIFT_CFG_UP_UTIL p * 10000000 && s.past x.upLc 1 then some x.mode else none
  else if !s.flag R.PRT_STAT_DOWNSHIFT_UNAVAIL p && decide (util * 100 < s.get R.PRT_SHIFT_CFG_DOWN_UTIL p * 25000000)
      && s.past x.upLc (s.get R.PRT_SHIFT_CFG_DOWN_TIME p) then some 2
  else none

/-- A shift starts at a schedule-cycle boundary (R162, R182). -/
def State.shiftStart (s : State) (p : Fin 64) (util : Nat) : State :=
  match s.shiftTarget p util with
  | none => s
  | some m => (s.setLink (attOf p) { s.link (attOf p) with shiftTo := some m, shiftAge := some 0 }).linkMove (attOf p) lkSHIFTING

/-- No link within 2 s of a shift (R162, R182). -/
def State.shiftTimeout (s : State) (p : Fin 64) : State :=
  if s.get R.PRT_STAT_LINK_STATE p ≠ lkSHIFTING || !s.past (s.link (attOf p)).since 2 then s
  else
    let x := s.link (attOf p)
    let s := (s.setLink (attOf p) { x with shiftTo := none, shiftBad := true }).linkMove (attOf p) lkDOWN
    ((s.setModeAct p x.mode).setFlag R.PRT_STAT_DOWNSHIFTED p false).portSync p

/-! ### Timestamps (R165 to R169) -/

/-- The denominator in which every term of R165 is whole: 1/2,560 ps, 1/4,096 ps, 1/65,536 tick and a unit interval. -/
def stampDen : Nat := 10813440

/-- A unit interval (R161) in units of 1/`stampDen` ps. -/
def unitInterval (mode : Nat) : Nat := if mode ≤ 1 then 800 * stampDen else (if mode = 2 then 3200 else 1280) * 327680

/-- lc_ts of an SFD whose word-clock edge lies `phase` (1/65,536 tick) after this tick, at bit `bitIdx` of the word (R165). -/
def State.stampLc (s : State) (i : Fin 68) (tx : Bool) (phase : BitVec 16) (bitIdx : Byte) : Time :=
  let off : Int := phase.toNat * 137500 + bitIdx.toNat * unitInterval (s.linkMode i)
  let lat := s.lat4096 i tx * 2640
  let num := s.prt.group[groupOf i].xcomp * 4224 + off + (if tx then lat else -lat)
  s.time.lc + BitVec.ofInt 96 (roundDiv (num * 2 ^ 48) (stampDen * 1000000000000))

/-- The reader that a link takes its time from: the replica of its port group, or of the Pack links (R55, R170). -/
def readerOf (i : Fin 68) : Fin 11 := ⟨if i.val < 4 then 10 else (i.val - 4) / 8, by split <;> omega⟩

/-- RT of an LC near this tick, before it or after it, with its version and SN (R166): by the source and the set in force on the last tick
at or before it. For an LC still ahead these are what takes effect until then, as far as it has been accepted. An LC older than every
kept set has no RT. -/
def State.rtNear (s : State) (lc : Time) : Option (Time × Nat × Bool) :=
  if lc ≤ s.time.lc then s.rtAt lc
  else
    let k := (((lc - s.time.lc).toNat + 1) * 2 ^ 32 - 1 - s.time.frac.toNat) / Nat.max 1 s.lcInc
    (s.ahead (Nat.min k 64)).rtAt lc

/-- A timestamp of a link: RT, version and SN (R165, R166). An LC that cannot be converted gives RT 0 (R57; log entry 80). -/
def State.stamp (s : State) (i : Fin 68) (tx : Bool) (phase : BitVec 16) (bitIdx : Byte) : Time × Nat × Bool :=
  let s := s.seenBy (readerOf i)
  (s.rtNear (s.stampLc i tx phase bitIdx)).getD (0, s.get R.KNL_TIME_MODE_CSET_VER, !s.inLc)

/-- Whether a link issues timestamps (R167). -/
def State.tsReady (s : State) (i : Fin 68) : Bool :=
  match portOf i with
  | none => s.flag R.PCK_LINK_STAT_TS_READY i
  | some p => s.flag R.PRT_STAT_TS_READY p

/-! ### The crossing (R170) -/

/-- Entry `n` of a group's crossing table, 1/16 ps (R173, R338). -/
def State.xtabEntry (s : State) (g : Fin 9) (n : Nat) : Int :=
  let f := 2 * n
  let o := if g.val = 8 then 0xFC0 + f else 0x14000 + g.val * 0x30 + 4 + f
  sext 16 ((s.store (o / 4 * 4)).toNat / 2 ^ (8 * (o % 4)))

/-- xtab at a temperature difference in 1/16 °C, in 1/1,280 ps (R170): linear between entries, the end entries beyond. -/
def State.xtab (s : State) (g : Fin 9) (diff : Int) : Int :=
  let x := (min (max diff (-480)) 480 + 480).toNat
  let n := Nat.min (x / 80) 11
  let a := s.xtabEntry g n
  a * 80 + (s.xtabEntry g (n + 1) - a) * ((x - 80 * n : Nat) : Int)

/-- XCOMP in 1/16 ps (R187). -/
def xcomp16 (x : Int) : Nat := trunc 24 (roundDiv x 160)

/-- The crossing is measured once per ms: `rtt` is the mean round trip in 1/16 ps (R170). -/
def State.xcompUpdate (s : State) (g : Fin 9) (rtt : BitVec 24) : State :=
  let tk := s.getS R.PWR_TEMP 1
  let tg := if g.val = 8 then s.getS R.PWR_TEMP 2 else s.getS R.PRT_PG_TEMP_T_PG g
  let d : Int := rtt.toNat * 80 + 2 * s.xtab g (tg - tk)
  let x := s.prt.group[g]
  let new := if x.meas = 0 then d else x.xcomp + min (max (d - x.xcomp) (-640)) 640
  let n := Nat.min (x.meas + 1) 17
  let s := { s with prt := { s.prt with group := s.prt.group.set g ⟨new, n⟩ } }
  let s := if g.val = 8 then s.forN 4 fun l s => s.set R.PCK_LINK_XCOMP l (xcomp16 new)
    else ((s.set R.PRT_PG_RTT g rtt.toNat).set R.PRT_PG_XCOMP g (xcomp16 new)).setFlag R.PRT_PG_STAT_XCOMP_VALID g (n == 17)
  if n = 17 && x.meas < 17 then s.degrSync else s

/-! ### Recalibration (R175 to R178) -/

/-- RECAL_PERIOD of a link. -/
def State.recalPeriod (s : State) (i : Fin 68) : Nat :=
  match portOf i with
  | none => s.get R.PCK_LINK_CFG_RECAL_PERIOD i
  | some p => s.get R.PRT_RECAL_CFG_RECAL_PERIOD p

/-- Whether a recalibration of a link is due (R175). -/
def State.recalDue (s : State) (i : Fin 68) : Bool := decide ((s.link i).recalWait ≥ s.recalPeriod i)

/-- Whether a link has cover (R176, R338). -/
def State.covered (s : State) (i : Fin 68) : Bool :=
  match portOf i with
  | none => s.get R.PCK_STAT_UPLINK_ATT != i.val && !(s.flag R.BRC_CFG_ENABLE && s.get R.BRC_CFG_ATT == i.val)
  | some p =>
    let c := s.get R.PRT_RECAL_CFG_COVER p
    c == 3 || s.linkState i == lkDOWN || (c ≥ 1 && (s.pairOf p).isSome && s.get R.PRT_STAT_LINK_STATE (twin p) == lkUP)
      || (c == 2 && s.flag R.BRC_STAT_PARTNER_SERVING)

/-- Whether a link's state lets it recalibrate: UP or DOWN, and no REGION_SKEW (R162, R176). -/
def State.recalAble (s : State) (i : Fin 68) : Bool :=
  (s.linkState i == lkUP || s.linkState i == lkDOWN) && !s.linkSkew i

/-- Links in RECAL that pass a test. -/
def State.inRecal (s : State) (p : Fin 68 → Bool) : Nat := (List.finRange 68).countP fun i => s.linkState i == lkRECAL && p i

/-- A due recalibration starts at a schedule-cycle boundary with cover: at most one per group and eight in the device (R175, R176). -/
def State.recalStart (s : State) (i : Fin 68) : State :=
  if s.recalDue i && s.recalAble i && s.covered i && s.inRecal (fun j => groupOf j == groupOf i) == 0 && s.inRecal (fun _ => true) < 8 then
    let s := s.setLink i { s.link i with recalUp := s.linkState i == lkUP, recalRt := s.rt.toNat, recalWait := 0, deferred := false }
    s.linkMove i lkRECAL
  else s

/-- A recalibration that falls due without cover is deferred, once (R176). -/
def State.recalDefer (s : State) (i : Fin 68) : State :=
  if s.recalDue i && s.recalAble i && !s.covered i && !(s.link i).deferred then
    let s := s.setLink i { s.link i with deferred := true }
    match portOf i with
    | none => s
    | some p => s.bump R.PRT_RECAL_CNT_RECAL_DEFERRED p
  else s

/-- RECAL_STALE of a link. -/
def State.setStale (s : State) (i : Fin 68) (on : Bool) : State :=
  match portOf i with
  | none => s.setLink i { s.link i with stale := on }
  | some p => s.setFlag R.PRT_STAT_RECAL_STALE p on

/-- An accepted result: the terms are half the drift, 1/4,096 ps (R177). -/
def State.recalAccept (s : State) (i : Fin 68) (drift : Int) : State :=
  let t := roundDiv drift 512
  let s := s.setLink i { s.link i with recalBad := false, recalTerm := t, recalAge := 0 }
  let s := match portOf i with
    | none => s.bump R.PCK_LINK_RECAL_RECALS i
    | some p =>
      let s := ((s.set R.PRT_RECAL_TX p (trunc 24 t)).set R.PRT_RECAL_RX p (trunc 24 t)).set R.PRT_RECAL_AGE p 0
      (((s.bump R.PRT_SHIFT_CNT_RECALS p).raiseBit R.PRT_EVT p 5)).latSync p
  (s.setStale i false).degrSync1 i

/-- A failed result: the terms stay (R177). -/
def State.recalFail (s : State) (i : Fin 68) : State :=
  let s := s.setLink i { s.link i with recalBad := true }
  match portOf i with
  | none => ((s.bump R.PCK_LINK_RECAL_RECAL_FAILS i).degrSync1 i).raise fsPortRecalFail (64 + i.val)
  | some p => (((s.bump R.PRT_RECAL_CNT_RECAL_FAILS p).raiseBit R.PRT_EVT p 6).degrSync1 i).raise fsPortRecalFail p.val

/-- Whether two schedule cycles have passed since a link entered RECAL (R175); a step order that carries RT back ends the wait. -/
def State.recalRun (s : State) (i : Fin 68) : Bool :=
  let t := (s.link i).recalRt
  decide (s.rt.toNat < t) || decide (t * 1000 + 2 * 2 ^ 48 ≤ s.rt.toNat * 1000)

/-- The loop measurement ends: `sum` is the sum over the 64 frames of receive minus transmit capture, in ps (R162, R177). A
measurement taken with REGION_SKEW set is discarded (R171). -/
def State.recalEnd (s : State) (i : Fin 68) (sum : Int) : State :=
  if s.linkState i ≠ lkRECAL || !s.recalRun i then s
  else
    let skew := s.linkSkew i
    let lref := s.tab32 i 0x24 * 256 + s.tab16 i 0x28 * (s.linkTemp i - s.tab16 i 0x20)
    let drift := sum * 64 - lref
    let limit := (s.store (s.tableOff i + 0x20)).toNat / 65536
    let s := s.linkMove i (if (s.link i).recalUp then lkTRAINING else lkDOWN)
    if skew then s
    else if drift.natAbs ≤ limit * 4096 then s.recalAccept i drift
    else s.recalFail i

/-- RECAL_AGE of a link. -/
def State.recalAge (s : State) (i : Fin 68) : Nat :=
  match portOf i with
  | none => (s.link i).recalAge
  | some p => s.get R.PRT_RECAL_AGE p

/-- RECAL_AGE exceeds PORT_RECAL_STALE (R178). -/
def State.recalStale (s : State) (i : Fin 68) : State :=
  if s.recalAge i > (s.store 0xB00).toNat then (s.setStale i true).degrSync1 i else s

/-- A second passes for every link: RECAL_AGE, the recalibration period and the spacing of shifts (R175, R178, R182). -/
def State.linkSecond (s : State) : State :=
  (List.finRange 68).foldl (fun s i =>
    s.run (unitOf i) fun s =>
      let x := s.link i
      let s := s.setLink i { x with recalWait := x.recalWait + 1, recalAge := x.recalAge + 1, shiftAge := x.shiftAge.map (· + 1) }
      match portOf i with
      | none => s
      | some p => s.bump R.PRT_RECAL_AGE p) s

/-! ### Pause (R181) -/

/-- A PAUSE frame (R181): counted, and honoured unless RX_PAUSE_EN is clear or the watchdog has it ignored. -/
def State.pauseFrame (s : State) (p : Fin 64) (quanta : Nat) : State :=
  let s := s.bump R.PRT_PAUSE_CNT_PAUSE_RX p
  if !s.flag R.PRT_CFG_RX_PAUSE_EN p || s.flag R.PRT_STAT_PAUSE_IGNORING p then s
  else
    let was := s.flag R.PRT_STAT_PAUSED p
    let x := s.link (attOf p)
    let now := s.time.lc.toNat
    let s := s.setLink (attOf p) { x with quanta := quanta, quantaAt := now, pausedAt := if was then x.pausedAt else now }
    let s := s.setFlag R.PRT_STAT_PAUSED p (quanta != 0)
    if was && quanta = 0 then s.setLport p { s.lport p with from_ := s.time.lc.toNat } else s

/-- The transmitter resumes. -/
def State.txResume (s : State) (p : Fin 64) : State :=
  (s.setFlag R.PRT_STAT_PAUSED p false).setLport p { s.lport p with from_ := s.time.lc.toNat }

/-- ps that a byte takes on the wire (R161). -/
def bytePs (mode : Nat) : Nat := if mode ≤ 1 then 8000 else if mode = 2 then 800 else 320

/-- The time of the last PAUSE frame is over: its quanta of 512 bit times (IEEE 802.3 Annex 31B; R181). -/
def State.pauseEnd (s : State) (p : Fin 64) : State :=
  let x := s.link (attOf p)
  s.when_ (s.flag R.PRT_STAT_PAUSED p && s.past x.quantaAt (x.quanta * 64 * bytePs (s.linkMode (attOf p))) 1000000000000) (·.txResume p)

/-- PAUSE frames count again after PAUSE_IGNORE (R181). -/
def State.pauseIgnoreEnd (s : State) (p : Fin 64) : State :=
  s.when_ (s.past (s.link (attOf p)).ignoreAt (s.get R.PRT_PAUSE_PAUSE_IGNORE p) 1000) (·.setFlag R.PRT_STAT_PAUSE_IGNORING p false)

/-- The transmitter has stayed paused for PAUSE_MAX (R181). -/
def State.pauseBreak (s : State) (p : Fin 64) : State :=
  if s.flag R.PRT_STAT_PAUSED p && s.past (s.link (attOf p)).pausedAt (s.get R.PRT_PAUSE_PAUSE_MAX p) 10000 then
    let s := s.setLink (attOf p) { s.link (attOf p) with ignoreAt := s.time.lc.toNat }
    let s := ((s.txResume p).setFlag R.PRT_STAT_PAUSE_IGNORING p true).bump R.PRT_PAUSE_CNT_PAUSE_BROKEN p
    (s.raiseBit R.PRT_EVT p 3).raise fsPortPauseBroken p.val
  else s

/-- A transmit underrun (R181): the frame on the wire ends with its FCS inverted; STEP rises by one. None at step 15. -/
def State.underrun (s : State) (p : Fin 64) : State :=
  let x := s.lport p
  let step := s.get R.PRT_TX_START p
  match x.wire with
  | some w =>
    if w.status = 3 ∨ step = 15 then s
    else
      let s := s.setLport p { x with wire := some { w with status := 3 } }
      let s := ((s.bump R.PRT_UNDERRUN p).obs 2 (p.val * 16 + 5)).set R.PRT_TX_START p (step + 1)
      (s.raiseBit R.PRT_EVT p 4).raise fsPortUnderrun p.val
  | none => s

/-! ### Meanings -/

/-- PORT_CFG_APPLY (R163). -/
def execPortCfgApply (i : Fin 68) (s : State) : Host.Outcome State Fault Refusal :=
  done (s.run (unitOf i) (·.cfgApply i))

/-- LINK_SIGNAL_DETECT (R162). -/
def execLinkSignalDetect (i : Fin 68) (s : State) : Host.Outcome State Fault Refusal :=
  done (s.run (unitOf i) (·.signalDetect i))

/-- LINK_PCS_LOCK (R162). -/
def execLinkPcsLock (i : Fin 68) (slip : Byte) (an10 : Bool) (s : State) : Host.Outcome State Fault Refusal :=
  done (s.run (unitOf i) (·.pcsLock i slip an10))

/-- LINK_TRAIN_TIMEOUT (R162). -/
def execLinkTrainTimeout (i : Fin 68) (s : State) : Host.Outcome State Fault Refusal :=
  done (s.run (unitOf i) (·.trainTimeout i))

/-- LINK_SETTLE_DONE (R162). -/
def execLinkSettleDone (i : Fin 68) (phase : BitVec 16) (s : State) : Host.Outcome State Fault Refusal :=
  done (s.run (unitOf i) (·.settleDone i phase))

/-- LINK_LOSS (R162). -/
def execLinkLoss (i : Fin 68) (s : State) : Host.Outcome State Fault Refusal :=
  done (s.run (unitOf i) (·.linkLoss i))

/-- SHIFT_TIMEOUT (R162). -/
def execShiftTimeout (p : Fin 64) (s : State) : Host.Outcome State Fault Refusal :=
  done (s.run (p.val / 8) (·.shiftTimeout p))

/-- SPEED_SHIFT_START (R182). -/
def execSpeedShiftStart (p : Fin 64) (util : Nat) (s : State) : Host.Outcome State Fault Refusal :=
  done (s.run (p.val / 8) (·.shiftStart p util))

/-- XCOMP_UPDATE (R170). -/
def execXcompUpdate (g : Fin 9) (rtt : BitVec 24) (s : State) : Host.Outcome State Fault Refusal :=
  done (s.run (if g.val = 8 then 10 else g.val) (·.xcompUpdate g rtt))

/-- RECAL_START (R175). -/
def execRecalStart (i : Fin 68) (s : State) : Host.Outcome State Fault Refusal :=
  done (s.run (unitOf i) (·.recalStart i))

/-- RECAL_END (R177). -/
def execRecalEnd (i : Fin 68) (sum : Int) (s : State) : Host.Outcome State Fault Refusal :=
  done (s.run (unitOf i) (·.recalEnd i sum))

/-- RECAL_STALE (R178). -/
def execRecalStale (i : Fin 68) (s : State) : Host.Outcome State Fault Refusal :=
  done (s.run (unitOf i) (·.recalStale i))

/-- PAUSE_WATCHDOG (R181). -/
def execPauseWatchdog (p : Fin 64) (s : State) : Host.Outcome State Fault Refusal :=
  done (s.run (p.val / 8) (·.pauseBreak p))

/-- PAUSE_IGNORE_END (R181). -/
def execPauseIgnoreEnd (p : Fin 64) (s : State) : Host.Outcome State Fault Refusal := done (s.run (p.val / 8) (·.pauseIgnoreEnd p))

/-- PAUSE_END (R181). -/
def execPauseEnd (p : Fin 64) (s : State) : Host.Outcome State Fault Refusal := done (s.run (p.val / 8) (·.pauseEnd p))

/-- TX_UNDERRUN (R181). -/
def execTxUnderrun (p : Fin 64) (s : State) : Host.Outcome State Fault Refusal :=
  done (s.run (p.val / 8) (·.underrun p))

end Sys2Proof.Machine
end

