-- ==== Sys2Proof/Machine/Adr.lean ====
section
/-! DEFINITION. ADR: AES3 and AES11 reference ports (R350 to R361). -/

namespace Sys2Proof.Machine

/-- The hidden state of a port. -/
def State.adrPort (s : State) (n : Fin 4) : AdrPort := s.adr.port[n]

/-- The state with a port's hidden state replaced. -/
def State.setAdr (s : State) (n : Fin 4) (x : AdrPort) : State := { s with adr := { s.adr with port := s.adr.port.set n x } }

/-- An event bit of ADR_EVT (R361). -/
def State.adrEvt (s : State) (b : Nat) : State := s.raiseBit R.ADR_EVT 0 b

/-- Frames per second by FS (R350); the codes 5 to 7 are reserved, and read as 4 (DESIGN CHOICE, log entry 102). -/
def fsRate (fs : Nat) : Nat := if fs = 0 then 32000 else if fs = 1 then 44100 else if fs = 2 then 48000 else if fs = 3 then 88200 else 96000

/-- Whether the clock output of a port is a CLOCK output of an RT-mode PLL at 128 × FS (R350). -/
def State.adrClkOk (s : State) (n : Fin 4) (fs : Nat) : Bool :=
  let j := s.get R.ADR_CFG_CLK_OUT n
  let (pn, pd) := s.outPeriod true j
  s.sh true R.SYN_OUT_CFG_KIND j == 0 && s.sh true R.SYN_SP_CFG_MODE (pllOf j) == 1 && pn * (128 * fsRate fs) == pd && pn != 0

/-- Whether the clock output of a port is aligned (R352). -/
def State.adrAligned (s : State) (n : Fin 4) : Bool := s.get R.SYN_OUT_STAT_STATE (s.get R.ADR_CFG_CLK_OUT n) == 2

/-- Whether a port is an output in force. -/
def State.adrOut (s : State) (n : Fin 4) : Bool := (s.adrPort n).on && !(s.adrPort n).input

/-- The number, counted from the epoch, of the frame that runs now (R351). -/
def State.adrFrame (s : State) (fs : Nat) : Nat := s.rt.toNat * fsRate fs / 2 ^ 48

/-- Frames that a ring holds (R353). -/
def State.adrHeld (s : State) (n : Fin 4) : Nat := (s.get R.ADR_RING_WR n + 2 ^ 32 - s.get R.ADR_RING_RD n) % 2 ^ 32

/-- Bytes that a frame takes in a ring (R359). -/
def State.adrBytes (s : State) (n : Fin 4) : Nat := if s.flag R.ADR_CFG_PACK n then 8 else 6

/-- Where a frame of a ring stands. -/
def State.adrSlot (s : State) (n : Fin 4) (i : Nat) : Nat := s.get R.ADR_RING_BASE n + i % 2 ^ s.get R.ADR_RING_CFG_SIZE_LOG2 n * s.adrBytes n

/-! ### Configuration and the clock (R350 to R352) -/

/-- What a port keeps when it restarts: the gain and its record number. -/
def AdrPort.restart (x : AdrPort) (on input : Bool) (fs : Nat) : AdrPort :=
  { AdrPort.reset with on := on, input := input, fs := fs, gNum := x.gNum, gDen := x.gDen, seq := x.seq }

/-- ENABLE, DIR and FS take effect at a block boundary (R350): a change restarts the port, and an output whose clock does not match stays
idle. -/
def State.adrCfgApply (s : State) (n : Fin 4) : State :=
  let x := s.adrPort n
  let en := s.flag R.ADR_CFG_ENABLE n
  let input := s.flag R.ADR_CFG_DIR n
  let fs := s.get R.ADR_CFG_FS n
  let clk := input || s.adrClkOk n fs
  let s := s.setFlag R.ADR_PSTAT_CLK_ERR n (en && !clk)
  let on := en && clk
  if on == x.on && (!on || (input == x.input && fs == x.fs)) then s
  else
    let s := (s.setFlag R.ADR_PSTAT_PLAYING n false).set R.ADR_PSTAT_IN_STATE n 0
    s.setAdr n (x.restart on input fs)

/-- The clock output of a port leaves alignment: the line is held and CLK_LOST sets (R352). -/
def State.adrClockLoss (s : State) (n : Fin 4) : State :=
  if s.adrOut n && !s.adrAligned n && !(s.adrPort n).lost then (s.setAdr n { s.adrPort n with lost := true }).adrEvt (12 + n.val) else s

/-! ### Channel status and user bits (R356, R357) -/

/-- Seconds of the day at a TAI second, in UTC or in TAI (R357). -/
def State.adrDay (s : State) (n : Fin 4) (sec : Nat) : Nat := if s.flag R.ADR_CFG_TOD_UTC n then (s.utcOf sec).2 else sec % 86400

/-- The 24 channel-status bytes of a block that begins with frame `k`, from the active ones (R357); `free` is the address code of a port
that has had no start trigger, which the manual does not state. -/
def State.adrFill (s : State) (n : Fin 4) (k free : Nat) (b : List Byte) : List Byte :=
  let f := fsRate (s.adrPort n).fs
  let b := if s.flag R.ADR_CFG_AUTO_GRADE n then b.set 4 (BitVec.ofNat 8 (setBits (beAt b 4 1) 0 2 (s.get R.ADR_CFG_GRADE n))) else b
  let b := if s.flag R.ADR_CFG_AUTO_ADDR n then
      let local_ := match (s.adrPort n).origin with | some o => (k + 2 ^ 32 - o % 2 ^ 32) % 2 ^ 32 | none => free
      let tod := s.adrDay n (k / f) * f + k % f
      b.take 14 ++ leBytes 4 local_ ++ leBytes 4 tod ++ b.drop 22
    else b
  b.take 23 ++ leBytes 1 (crcAes (b.take 23))

/-- steer of R360. -/
def steerOf (e acc : Int) (fs tc : Nat) : Int :=
  let v := - roundDiv (1000000000 * (e * 256 + acc)) (256 * fs * 2 ^ tc)
  if v > 1000000 then 1000000 else if v < -1000000 then -1000000 else v

/-- The measurement of the producer's error, once per block of an output with SRC 1 (R360). -/
def State.adrSteer (s : State) (n : Fin 4) : State :=
  if !s.flag R.ADR_CFG_SRC n then s
  else
    let x := s.adrPort n
    let e : Int := (s.adrHeld n : Int) - s.get R.ADR_STEER_CFG_TARGET n
    let acc := x.acc + e
    let acc : Int := if acc > 2 ^ 20 then 2 ^ 20 else if acc < -(2 ^ 20) then -(2 ^ 20) else acc
    let s := s.set R.ADR_STEER n (trunc 32 (steerOf e acc (fsRate x.fs) (s.get R.ADR_STEER_CFG_TC n)))
    s.setAdr n { x with acc := acc }

/-- A block of an output begins (R356, R357). -/
def State.adrBlock (s : State) (n : Fin 4) (k : Nat) : State :=
  let s := if s.flag R.ADR_PSTAT_COMMIT_PENDING n then
      let s := (s.set R.ADR_CS_ACTIVE n (s.get R.ADR_CS_SHADOW n)).setFlag R.ADR_PSTAT_COMMIT_PENDING n false
      s.setAdr n { s.adrPort n with user := leBytes 48 (s.get R.ADR_U_SHADOW n) }
    else s
  let free := (Config.freeBits 32 s.draw).toNat
  let s := if (s.adrPort n).origin.isNone then s.drawn else s
  let cs := leBytes 48 (s.get R.ADR_CS_ACTIVE n)
  let s := s.set R.ADR_CS_ACTIVE n (ofLe (s.adrFill n k free (cs.take 24) ++ s.adrFill n k free (cs.drop 24)))
  s.adrSteer n

/-- Whether a block boundary of a port falls now (R350): on the grid of an output that runs or is to run; between two blocks of an input that is
LOCKED; at any time for another input, which has no blocks. -/
def State.adrAtBlock (s : State) (n : Fin 4) : Bool :=
  let x := s.adrPort n
  if x.on && x.input then s.get R.ADR_PSTAT_IN_STATE n != 2 || x.frames == 192
  else if s.adrOut n then s.adrFrame x.fs % 192 == 0
  else s.flag R.ADR_CFG_DIR n || s.adrFrame (s.get R.ADR_CFG_FS n) % 192 == 0

/-- A block boundary of a port (R350, R352, R356, R357, R360); an output begins each block once. -/
def State.adrBoundary (s : State) (n : Fin 4) : State :=
  if !s.adrAtBlock n then s
  else
    let s := s.adrCfgApply n
    let x := s.adrPort n
    let k := s.adrFrame x.fs
    if !s.adrOut n then s
    else if !s.adrAligned n then s.adrClockLoss n
    else if !x.lost && x.block == some k then s
    else (s.setAdr n { x with lost := false, sent := if x.lost then none else x.sent, block := some k }).adrBlock n k

/-! ### Output frames (R353, R354) -/

/-- A fraction in lowest terms. -/
def lowest (a b : Nat) : Nat × Nat := let g := Nat.max 1 (Nat.gcd a b); (a / g, b / g)

/-- The gain one frame on, towards 0 or 1 (R354). -/
def gainStep (g : Nat × Nat) (down : Bool) (ramp : Nat) : Nat × Nat :=
  if ramp = 0 then (if down then (0, 1) else (1, 1))
  else if down then lowest (g.1 * ramp - g.2) (g.2 * ramp)
  else if g.1 * ramp + g.2 ≥ g.2 * ramp then (1, 1) else lowest (g.1 * ramp + g.2) (g.2 * ramp)

/-- A sample of 24 bits under a gain (R354). -/
def scaled (x : Int) (g : Nat × Nat) : Int := roundDiv (x * g.1) g.2

/-- The frame of a ring at a count: its samples, and V of its subframes where the packing has it (R359). -/
def State.adrRead (s : State) (n : Fin 4) (i : Nat) : (Int × Int) × Bool × Bool :=
  let a := s.adrSlot n i
  if s.flag R.ADR_CFG_PACK n then
    let x := s.memN a 4
    let y := s.memN (a + 4) 4
    ((sext 24 (x / 256), sext 24 (y / 256)), x.testBit 0, y.testBit 0)
  else ((sext 24 (s.memN a 3), sext 24 (s.memN (a + 3) 3)), false, false)

/-- A subframe as PACK 1 lays it out (R359): V, U, C, even parity over all of them, and block start. -/
def subframe (x : Int) (v u c start : Bool) : Nat :=
  let w := trunc 24 x * 256 + b2n v + 2 * b2n u + 4 * b2n c
  let ones := (List.range 32).countP fun i => w.testBit i
  w + 8 * (ones % 2) + 16 * b2n start

/-- The samples that a frame of an output carries: from the ring, the last frame again while it is dry, or zeros (R353, R354). -/
def State.adrSource (s : State) (n : Fin 4) : (Int × Int) × Bool × Bool × State :=
  let x := s.adrPort n
  if !s.flag R.ADR_CFG_SRC n || !s.flag R.ADR_PSTAT_PLAYING n then ((0, 0), false, false, s.setAdr n { x with dry := false })
  else
    let held := s.adrHeld n
    if held = 0 || (x.dry && held < s.get R.ADR_RING_CFG_START_LEVEL n) then
      let s := if x.dry then s else (s.bump R.ADR_UNDERRUNS n).adrEvt n.val
      (x.last, true, true, s.setAdr n { x with dry := true, acc := if x.dry then x.acc else 0 })
    else
      let (y, va, vb) := s.adrRead n (s.get R.ADR_RING_RD n)
      (y, va, vb, (s.bumpW R.ADR_RING_RD n).setAdr n { x with last := y, dry := false })

/-- An output sends a frame (R351, R354). -/
def State.adrSend (s : State) (n : Fin 4) : State :=
  let x := s.adrPort n
  let k := s.adrFrame x.fs
  let before := match x.sent with | some (j, _) => decide (k ≤ j) | none => false
  if !s.adrOut n || x.lost || before then s
  else
    let (y, va, vb, s) := s.adrSource n
    let x := s.adrPort n
    let g := gainStep (x.gNum, x.gDen) (s.flag R.ADR_MUTE_MUTE n || x.dry) (s.get R.ADR_MUTE_RAMP n)
    let i := k % 192
    let cs := s.get R.ADR_CS_ACTIVE n
    let u := ofLe x.user
    let a := subframe (scaled y.1 g) va (u.testBit i) (cs.testBit i) (i == 0)
    let b := subframe (scaled y.2 g) vb (u.testBit (192 + i)) (cs.testBit (192 + i)) (i == 0)
    (s.setAdr n { x with gNum := g.1, gDen := g.2, sent := some (k, i == 0, a, b) }).setFlag R.ADR_PSTAT_GAIN_ZERO n (g.1 == 0)

/-! ### The common start (R355) -/

/-- Whether a start is refused: a port of it that is no enabled output or whose start would not fall on a frame, a second that is not later
than now, or another start armed. -/
def State.adrRefuses (s : State) (at_ ms ports : Nat) : Bool :=
  s.adr.armed.isSome || decide (at_ ≤ s.rtSec)
    || (List.range 4).any fun n => ports.testBit n
      && (!s.flag R.ADR_CFG_ENABLE n || s.flag R.ADR_CFG_DIR n || ms * fsRate (s.get R.ADR_CFG_FS n) % 1000 != 0)

/-- ADR_START2 has been written (R355). -/
def State.adrStart (s : State) : State :=
  let at_ := s.get R.ADR_START
  let ms := s.get R.ADR_START2_START_MS
  let ports := s.get R.ADR_START2_PORTS
  if s.adrRefuses at_ ms ports then s.adrEvt 17
  else { s with adr := { s.adr with armed := some (at_, ms, ports) } }.setFlag R.ADR_STAT 0 true

/-- An armed port starts at the start instant: its frame there has the address code 0, and acc clears (R355, R360). -/
def State.adrStart1 (s : State) (n : Fin 4) (msNow : Nat) : State :=
  if !s.adrOut n || !s.flag R.ADR_CFG_SRC n then s
  else
    let x := s.adrPort n
    (s.setAdr n { x with origin := some (msNow * fsRate x.fs / 1000), acc := 0, dry := false }).setFlag R.ADR_PSTAT_PLAYING n true

/-- The start instant has come (R355). -/
def State.adrTrigger (s : State) : State :=
  match s.adr.armed with
  | none => s
  | some (at_, ms, ports) =>
    let t := at_ * 1000 + ms
    if s.rt.toNat * 1000 < t * 2 ^ 48 then s
    else
      let s := (List.finRange 4).foldl (fun s n => if ports.testBit n.val then s.adrStart1 n t else s) s
      ({ s with adr := { s.adr with armed := none } }.setFlag R.ADR_STAT 0 false).adrEvt 16

/-- ADR_CS_COMMIT has been written (R356). -/
def State.adrCommit (s : State) (n : Fin 4) (v : Word) : State :=
  if s.flag R.ADR_PSTAT_COMMIT_PENDING n then s.adrEvt 18
  else if v.getLsbD 0 then s.setFlag R.ADR_PSTAT_COMMIT_PENDING n true else s

/-! ### Inputs (R358, R359) -/

/-- An input moves between NOSIG 0, LOCKING 1, LOCKED 2 and RATE_ERR 3; leaving LOCKED sets LOCK_LOST. -/
def State.adrMove (s : State) (n : Fin 4) (v : Nat) : State :=
  let old := s.get R.ADR_PSTAT_IN_STATE n
  let s := s.set R.ADR_PSTAT_IN_STATE n v
  if old = 2 && v ≠ 2 then s.adrEvt (8 + n.val) else s

/-- A received block has ended: its CRCC, its channel status and whether it counts towards LOCKED (R358). -/
def State.adrBlockEnd (s : State) (n : Fin 4) : State :=
  let x := s.adrPort n
  let whole := x.frames == 192
  let crc := fun c => crcAes (leBytes 23 c) == c / 2 ^ 184 % 256
  let s := if !whole then s
    else if crc x.csA && crc x.csB then s.set R.ADR_IN_CS n (x.csA % 2 ^ 192 + x.csB % 2 ^ 192 * 2 ^ 192)
    else s.bump R.ADR_CRCC_ERR n
  s.setAdr n { x with good := if whole && x.clean then x.good + 1 else 0 }

/-- Whether the frames since the last block start came within 1×10⁻³ of FS, by LC (R358); the first block start says nothing yet. -/
def State.adrRateOk (s : State) (n : Fin 4) (lc : Time) : Bool :=
  let x := s.adrPort n
  match x.startLc with
  | none => true
  | some l =>
    let span : Int := fsRate x.fs * ((lc.toNat : Int) - l.toNat)
    decide (((x.frames * 2 ^ 48 : Nat) - span).natAbs * 1000 ≤ span)

/-- A block start at an LC: the block before it ends, its rate is judged, and the second's record takes it (R358). -/
def State.adrBlockStart (s : State) (n : Fin 4) (lc : Time) : State :=
  let rate := s.adrRateOk n lc
  let s := s.adrBlockEnd n
  let x := s.adrPort n
  let x := { x with first := some (x.first.getD lc), lastLc := lc, count := if x.first.isSome then x.count + x.since else 0, since := 0
                    frames := 0, csA := 0, csB := 0, clean := true, startLc := some lc, good := if rate then x.good else 0 }
  let s := s.setAdr n x
  let s := if !rate then s.adrMove n 3 else if s.get R.ADR_PSTAT_IN_STATE n = 3 then s.adrMove n 1 else s
  if s.get R.ADR_PSTAT_IN_STATE n = 1 && x.good ≥ 2 then s.adrMove n 2 else s

/-- A frame enters the capture ring (R359). -/
def State.adrCapture (s : State) (n : Fin 4) (f : AesFrame) (start : Bool) (lc : Time) : State :=
  if !s.flag R.ADR_CFG_CAP_EN n || s.get R.ADR_PSTAT_IN_STATE n ≠ 2 then s
  else if s.adrHeld n ≥ 2 ^ s.get R.ADR_RING_CFG_SIZE_LOG2 n then (s.bump R.ADR_OVERRUNS n).adrEvt (4 + n.val)
  else
    let w := s.get R.ADR_RING_WR n
    let sub := fun (x : Word) =>
      if s.flag R.ADR_CFG_PACK n then leBytes 4 (x.toNat / 256 * 256 + x.toNat % 16 + 16 * b2n start) else leBytes 3 (x.toNat / 256)
    let bs := sub f.a ++ sub f.b
    let a := s.adrSlot n w
    let s := s.devWrite 14 a bs
    let s := if start then s.set R.ADR_CAP_MARK n (((s.rtNear lc).map (·.1.toNat)).getD 0 + w * 2 ^ 96) else s
    s.bumpW R.ADR_RING_WR n

/-- Whether the parity of a subframe is wrong: time slots 4 to 31 hold an even number of ones (R358). -/
def parityBad (w : Word) : Bool := ((List.range 32).countP fun i => (i < 4 || 8 ≤ i) && w.getLsbD i) % 2 == 1

/-- An input decodes a frame with its preamble (R358). -/
def State.adrFrameIn (s : State) (n : Fin 4) (f : AesFrame) (z : Bool) (lc : Time) : State :=
  let s := s.refEdge ⟨18 + n.val, by omega⟩ lc strobeWidth
  let s := if s.get R.ADR_PSTAT_IN_STATE n = 0 then s.adrMove n 1 else s
  let s := if z then s.adrBlockStart n lc else s
  let x := s.adrPort n
  let bit := fun (w : Word) => b2n (w.getLsbD 2) * 2 ^ x.frames
  let s := s.setAdr n { x with missing := 0, frames := x.frames + 1, since := x.since + 1, csA := x.csA + bit f.a, csB := x.csB + bit f.b
                               clean := x.clean && !parityBad f.a && !parityBad f.b && decide (x.frames < 192) }
  s.adrCapture n f z lc

/-- An input receives a frame, or the time of a frame passes without a preamble (R358). Each subframe of wrong parity counts. -/
def State.adrReceive (s : State) (n : Fin 4) (f : AesFrame) : State :=
  let x := s.adrPort n
  if !x.on || !x.input then s
  else
    let par := fun (s : State) (w : Word) => if parityBad w then s.bump R.ADR_PARITY_ERR n else s
    let s := par (par s f.a) f.b
    let s := if f.codeErr then (s.bump R.ADR_CODE_ERR n).setAdr n { s.adrPort n with codeErr := true } else s
    match f.preamble with
    | some (z, lc) => s.adrFrameIn n f z lc
    | none => s.setAdr n { s.adrPort n with missing := x.missing + 1, clean := false }

/-- Four frames have passed without a preamble (R358). -/
def State.adrLoss (s : State) (n : Fin 4) : State :=
  let x := s.adrPort n
  if x.on && x.input && decide (x.missing ≥ 4) then (s.adrMove n 0).setAdr n { x with good := 0, clean := false, startLc := none } else s

/-- The record of a LOCKED input, one per RT second (R358). -/
def State.adrRecord (s : State) (n : Fin 4) : State :=
  let x := s.adrPort n
  if !x.on || !x.input || s.get R.ADR_PSTAT_IN_STATE n ≠ 2 || x.recSec == some s.rtSec then s
  else
    let b := leBytes 12 ((x.first.map (·.toNat)).getD 0) ++ leBytes 12 (if x.first.isSome then x.lastLc.toNat else 0) ++ leBytes 4 x.count
      ++ leBytes 1 n.val ++ leBytes 1 (b2n x.first.isSome + 2 * b2n x.codeErr) ++ leBytes 2 x.seq
    (s.inletPut 6 b).setAdr n { x with first := none, count := 0, codeErr := false, recSec := some s.rtSec, seq := (x.seq + 1) % 65536 }

/-! ### Meanings -/

/-- ADR_START_TRIGGER (R355). -/
def execAdrStartTrigger (s : State) : Host.Outcome State Fault Refusal := done (s.run 9 (·.adrTrigger))

/-- ADR_BLOCK_BOUNDARY (R357). -/
def execAdrBlockBoundary (n : Fin 4) (s : State) : Host.Outcome State Fault Refusal := done (s.run 9 (·.adrBoundary n))

/-- ADR_OUTPUT_FRAME (R354). -/
def execAdrOutputFrame (n : Fin 4) (s : State) : Host.Outcome State Fault Refusal := done (s.run 9 (·.adrSend n))

/-- ADR_INPUT_FRAME (R358). -/
def execAdrInputFrame (n : Fin 4) (f : AesFrame) (s : State) : Host.Outcome State Fault Refusal := done (s.run 9 (·.adrReceive n f))

/-- ADR_INPUT_LOSS (R358). -/
def execAdrInputLoss (n : Fin 4) (s : State) : Host.Outcome State Fault Refusal := done (s.run 9 (·.adrLoss n))

/-- ADR_SECOND_RECORD (R358). -/
def execAdrSecondRecord (n : Fin 4) (s : State) : Host.Outcome State Fault Refusal := done (s.run 9 (·.adrRecord n))

/-- ADR_CLOCK_LOSS (R352). -/
def execAdrClockLoss (n : Fin 4) (s : State) : Host.Outcome State Fault Refusal := done (s.run 9 (·.adrClockLoss n))

end Sys2Proof.Machine
end

