-- ==== Sys2Proof/Machine/Parse.lean ====
section
/-! DEFINITION. Reading frames: the parser of R179 and R180, the redundancy control trailer of IEC 62439-3 (R184, R341) and the NTS
fields of a request (R226). Frame bytes are without FCS. -/

namespace Sys2Proof.Machine

/-- What the parser makes of a frame (R179). -/
structure Frame where
  /-- 0 Other, 1 PTP event, 2 PTP general, 3 NTP, 4 Pack -/
  cls : Nat
  /-- offset of the PTP or NTP header, or of the byte after a Pack EtherType -/
  hdr : Nat
  /-- PTP over IEEE 802.3; IPv6 -/
  l2 : Bool
  v6 : Bool
  /-- source address: MAC, or IP -/
  src : List Byte
  /-- offset of the UDP header, when there is one -/
  udp : Nat
deriving DecidableEq, Repr

/-- What a frame is, before class (R179, R180). -/
inductive Parsed where
  | malformed
  /-- a PAUSE frame with its quanta -/
  | pause (quanta : Nat)
  /-- other MAC control -/
  | control
  | frame (f : Frame)
deriving DecidableEq, Repr

/-- The ones' complement sum of 16-bit big-endian words, folded to 16 bits. -/
def onesSum (bs : List Byte) : Nat :=
  let rec go : List Byte → Nat
    | [] => 0
    | [a] => a.toNat * 256
    | a :: b :: t => a.toNat * 256 + b.toNat + go t
  let s := go bs
  let s := s % 65536 + s / 65536
  s % 65536 + s / 65536

/-- A frame that is no PTP, NTP or Pack. -/
def Frame.other : Frame := { cls := 0, hdr := 0, l2 := false, v6 := false, src := [], udp := 0 }

/-- A UDP datagram at `o` with `n` bytes of IP payload (R179): ports 319, 320 and 123. -/
def parseUdp (b : List Byte) (o n : Nat) (v6 : Bool) (src : List Byte) : Parsed :=
  if n < 8 then .malformed
  else
    let len := beAt b (o + 4) 2
    if len < 8 || len > n then .malformed
    else
      let port := beAt b (o + 2) 2
      let cls := if port = 319 then 1 else if port = 320 then 2 else if port = 123 then 3 else 0
      let need := if cls = 3 then 48 else 34
      if cls = 0 then .frame Frame.other
      else if len - 8 < need then .malformed
      else .frame { cls := cls, hdr := o + 8, l2 := false, v6 := v6, src := src, udp := o }

/-- An IPv4 packet at `o` (R179, R180): a fragment is Other. -/
def parseV4 (b : List Byte) (o : Nat) : Parsed :=
  let n := b.length - o
  let ihl := beAt b o 1 % 16 * 4
  if n < 20 || beAt b o 1 / 16 != 4 || ihl < 20 || ihl > n then .malformed
  else
    let tot := beAt b (o + 2) 2
    if tot < ihl || tot > n || onesSum (slice b o ihl) != 0xFFFF then .malformed
    else if beAt b (o + 6) 2 % 0x4000 ≠ 0 then .frame Frame.other
    else if beAt b (o + 9) 1 = 17 then parseUdp b (o + ihl) (tot - ihl) false (slice b (o + 12) 4)
    else .frame Frame.other

/-- What follows the headers of an IPv6 packet, from a header at `o` with `n` bytes of payload left and the number that announces it: the
extension headers of RFC 8200 and the authentication header are passed; a fragment is Other (R179, R180). -/
def parseV6From (b : List Byte) (src : List Byte) : Nat → Nat → Nat → Nat → Parsed
  | 0, _, _, _ => .frame Frame.other
  | k + 1, nh, o, n =>
    if nh = 17 then parseUdp b o n true src
    else if nh = 0 || nh = 43 || nh = 60 || nh = 51 || nh = 44 then
      if n < 8 then .malformed
      else if nh = 44 && (beAt b (o + 2) 2 ≥ 8 || beAt b (o + 3) 1 % 2 = 1) then .frame Frame.other
      else
        let len := if nh = 44 then 8 else if nh = 51 then 4 * (beAt b (o + 1) 1 + 2) else 8 * (beAt b (o + 1) 1 + 1)
        if len > n then .malformed else parseV6From b src k (beAt b o 1) (o + len) (n - len)
    else .frame Frame.other

/-- An IPv6 packet at `o` (R179, R180). -/
def parseV6 (b : List Byte) (o : Nat) : Parsed :=
  let n := b.length - o
  if n < 40 || beAt b o 1 / 16 != 6 || beAt b (o + 4) 2 > n - 40 then .malformed
  else parseV6From b (slice b (o + 8) 16) b.length (beAt b (o + 6) 1) (o + 40) (beAt b (o + 4) 2)

/-- Whether an EtherType is a tag of IEEE 802.1Q. -/
def isTag (t : Nat) : Bool := t == 0x8100 || t == 0x88A8

/-- A frame by its EtherType at `o` (R179); `pack` is the Pack EtherType where the port carries Pack traffic. -/
def parseType (b : List Byte) (o : Nat) (pack : Option Nat) : Parsed :=
  let t := beAt b o 2
  let p := o + 2
  if t < 0x600 then (if t > b.length - p then .malformed else .frame Frame.other)
  else if t = 0x8808 then (if beAt b p 2 = 1 then .pause (beAt b (p + 2) 2) else .control)
  else if pack == some t then .frame { Frame.other with cls := 4, hdr := p }
  else if t = 0x88F7 then
    let m := beAt b p 1 % 16
    let cls := if m ≤ 3 then 1 else if 8 ≤ m && m ≤ 13 then 2 else 0
    if cls = 0 then .frame Frame.other
    else .frame { cls := cls, hdr := p, l2 := true, v6 := false, src := slice b 6 6, udp := 0 }
  else if t = 0x0800 then parseV4 b p
  else if t = 0x86DD then parseV6 b p
  else .frame Frame.other

/-- A frame, with at most one tag (R179); two or more tags make it Other. -/
def parseFrame (b : List Byte) (pack : Option Nat) : Parsed :=
  if b.length < 14 then .malformed
  else if isTag (beAt b 12 2) then
    if b.length < 18 then .malformed
    else if isTag (beAt b 16 2) then .frame Frame.other
    else parseType b 16 pack
  else parseType b 12 pack

/-- Where the payload that a redundancy control trailer counts begins: after the EtherType or length field. -/
def lsduOff (b : List Byte) : Nat := if isTag (beAt b 12 2) then 18 else 14

/-- The redundancy control trailer at the end of a frame: sequence number and LanId, when it is valid (R185). Its layout is that of
IEC 62439-3: number, LanId and LSDU size, suffix 0x88FB (PRESUMED, log entry 30). -/
def rctOf (b : List Byte) : Option (Nat × Nat) :=
  let n := b.length
  if n < 20 then none
  else
    let w := beAt b (n - 4) 2
    if beAt b (n - 2) 2 = 0x88FB && w % 4096 = n - lsduOff b && (w / 4096 = 10 || w / 4096 = 11) then some (beAt b (n - 6) 2, w / 4096)
    else none

/-- A frame with a redundancy control trailer for LAN A or B. -/
def addRct (b : List Byte) (seq : Nat) (lanB : Bool) : List Byte :=
  b ++ beBytes 2 seq ++ beBytes 2 ((if lanB then 11 else 10) * 4096 + (b.length + 6 - lsduOff b) % 4096) ++ beBytes 2 0x88FB

/-! ### NTS requests (R226) -/

/-- The extension fields of an NTP message from offset `o` up to `e`: type, offset of the body, and length of the body. A field that
does not fit ends the list. -/
def extFields (b : List Byte) (e : Nat) : Nat → Nat → List (Nat × Nat × Nat)
  | 0, _ => []
  | f + 1, o =>
    if o + 4 > e then []
    else
      let len := beAt b (o + 2) 2
      if len < 4 || o + len > e then [] else (beAt b o 2, o + 4, len - 4) :: extFields b e f (o + len)

/-- Extension fields of a frame's NTP message. -/
def Frame.exts (f : Frame) (b : List Byte) : List (Nat × Nat × Nat) :=
  extFields b (f.udp + beAt b (f.udp + 4) 2) b.length (f.hdr + 48)

/-- Whether an NTP message carries an NTS Cookie field (R210). -/
def Frame.nts (f : Frame) (b : List Byte) : Bool := f.cls == 3 && (f.exts b).any fun x => x.1 == 0x0204

/-- What R226 asks of a request's form: the body of its Unique Identifier and of its cookie, its authenticator field, and how many
placeholders it has; none where the form is refused. -/
structure NtsForm where
  uid : Nat × Nat
  cookie : Nat × Nat
  auth : Nat × Nat
  places : Nat
deriving DecidableEq, Repr

/-- The form of an NTS request (R226): a Unique Identifier of 32 bytes or more, one cookie, authenticator last, at most 7 placeholders,
each of 108 bytes. -/
def ntsForm (xs : List (Nat × Nat × Nat)) : Option NtsForm :=
  let of_ := fun t => xs.filter fun x => x.1 == t
  match (of_ 0x0104).find? (fun u => decide (u.2.2 ≥ 32)), of_ 0x0204, xs.getLast? with
  | some u, [c], some a =>
    let ps := of_ 0x0304
    if a.1 == 0x0404 && ps.length ≤ 7 && ps.all (fun p => p.2.2 + 4 == 108) then
      some { uid := u.2, cookie := c.2, auth := a.2, places := ps.length }
    else none
  | _, _, _ => none

end Sys2Proof.Machine
end

