-- ==== Sys2Proof/Machine/Srv.lean ====
section
/-! DEFINITION. SRV hardware: the receive pool and queues, the steering table, the client table and its lookup assist (R209 to R215). -/

namespace Sys2Proof.Machine

/-- An event bit of SRV_EVT (R236). -/
def State.srvEvt (s : State) (b : Nat) : State := s.raiseBit R.SRV_EVT 0 b

/-- SRV's hidden state replaced. -/
def State.setSrv (s : State) (x : SrvSt) : State := { s with srv := x }

/-! ### The receive pool (R209) -/

/-- One of several, which the manual leaves to the hardware: a free value picks it. -/
def pickOne {α : Type} (xs : List α) (draw : Nat) : Option α := xs[Config.freeNat draw % Nat.max 1 xs.length]?

/-- SRV_POOL_FREE follows the pool. -/
def State.poolPut (s : State) (free : List Nat) : State :=
  (s.setSrv { s.srv with free := free }).set R.SRV_POOL_FREE 0 free.length

/-- The buffers that the pool registers name: what the pool holds when ENABLE is set (log entry 31). -/
def State.poolBuffers (s : State) : List Nat := (List.range (s.get R.SRV_POOL_CFG)).map fun i => s.get R.SRV_POOL_BASE + 1536 * i

/-- A buffer returns: a buffer of the pool that is not free already (R209). -/
def State.poolRet (s : State) (a : Nat) : State :=
  if s.poolBuffers.contains a && !s.srv.free.contains a then s.poolPut (s.srv.free ++ [a]) else s

/-! ### The client table (R210, R213, R214) -/

/-- The 20 bytes hashed for a client: SRV_CT_KEY0 and the 16 address bytes, unused ones 0 (R210, R236). -/
def clientKey (kind domain : Nat) (l2 v6 : Bool) (src : List Byte) : List Byte :=
  leBytes 4 (kind + domain * 256 + b2n l2 * 65536 + b2n v6 * 131072) ++ padTo 16 src

/-- The hash of a client key (R210). -/
def State.clientHash (s : State) (key : List Byte) : Nat :=
  let (lo, hi) := sip128 s.srv.hashKey key
  lo.toNat + hi.toNat * 2 ^ 64

/-- The bucket, fingerprint and steering index of a hash (R210). -/
def hashBucket (h : Nat) : Nat := h % 2 ^ 18
def hashFp (h : Nat) : Nat := if h / 2 ^ 18 % 2 ^ 48 = 0 then 1 else h / 2 ^ 18 % 2 ^ 48
def hashSteer (h : Nat) : Nat := h / 2 ^ 10 % 256

/-- The matrix address of a record (R210, R213). -/
def recAddr (index : Nat) : Nat :=
  let b := index / 4
  0x20000000 + b % 8 * 0x300000 + b / 8 * 64 + index % 4 * 16

/-- FP and the KIND byte of a record. -/
def State.recFp (s : State) (index : Nat) : Nat := ofLe (s.bytes (recAddr index) 6)
def State.recKind (s : State) (index : Nat) : Nat := (s.byte (recAddr index + 6)).toNat

/-- The record of a bucket that matches FP and KIND (R210). -/
def State.findRec (s : State) (h kind : Nat) : Option Nat :=
  ((List.range 4).map (hashBucket h * 4 + ·)).find? fun i => s.recFp i == hashFp h && s.recKind i % 4 == kind

/-- A free way of a bucket (R213). -/
def State.freeWay (s : State) (h : Nat) : Option Nat :=
  ((List.range 4).map (hashBucket h * 4 + ·)).find? fun i => s.recFp i == 0

/-- The KIND byte of a record takes a value. -/
def State.setRecKind (s : State) (index v : Nat) : State := s.setByte (recAddr index + 6) (BitVec.ofNat 8 v)

/-- A bit of the KIND byte. -/
def State.recBit (s : State) (index b : Nat) (on : Bool) : State :=
  let v := s.recKind index
  s.setRecKind index (if on then v ||| 2 ^ b else if v.testBit b then v - 2 ^ b else v)

/-- The port that a record names: the even port for a pair (R213). -/
def State.recPort (s : State) (p : Nat) : Nat :=
  if s.flag R.PRT_CFG_PRP_EN (p / 2 * 2) then p / 2 * 2 else p

/-- Operations of the lookup assist, by their number in a ticket (R297); the host numbers differ (R236). -/
inductive AssistOp where
  | lookup | insert | delete | pin | unpin | setDeny | clearDeny
deriving DecidableEq, Repr

/-- INSERT and PIN (R214): status and index. -/
def State.assistInsert (s : State) (h kind hdr port : Nat) (pinned : Bool) : Nat × Nat × State :=
  match s.findRec h kind with
  | some i => (2, i, if pinned then s.recBit i 2 true else s)
  | none =>
    match s.freeWay h with
    | none => (3, hashBucket h * 4, ((s.bump R.SRV_CT_FULL).srvEvt 1).obs 5 42)
    | some i =>
      let k := kind + b2n pinned * 4 + hdr / 2 ^ 16 % 4 * 16
      let s := s.setBytes (recAddr i) (leBytes 6 (hashFp h) ++ [BitVec.ofNat 8 k, BitVec.ofNat 8 (s.recPort port)])
      (0, i, s.bumpW R.SRV_CT_USED)

/-- A record is freed (R213, R214). -/
def State.recFree (s : State) (i : Nat) : State :=
  (s.setBytes (recAddr i) (List.replicate 8 0#8)).set R.SRV_CT_USED 0 (s.get R.SRV_CT_USED - 1)

/-- Whether a PTP record holds a grant (R213). -/
def State.recGrants (s : State) (i : Nat) : Bool :=
  s.recKind i % 4 == 0 && [8, 10, 12].any fun o => ofLe (s.bytes (recAddr i + o) 2) != 0

/-- One operation of the assist on a key (R214): status and index. A DELETE or SET_DENY by the host on a record that holds grants leaves
their cancelling to the owning engine (R217). -/
def State.assist (s : State) (op : AssistOp) (key : List Byte) (port : Nat) (host : Bool) : Nat × Nat × State :=
  let h := s.clientHash key
  let hdr := leAt key 0 4
  let kind := hdr % 4
  let miss := (1, hashBucket h * 4, s)
  let cancel := fun (s : State) (i : Nat) (del : Bool) => s.setSrv { s.srv with cancel := s.srv.cancel ++ [(i, del)] }
  match op with
  | .lookup =>
    let s := s.obs 5 40
    match s.findRec h kind with
    | some i => (0, i, s)
    | none => (1, hashBucket h * 4, s.obs 5 41)
  | .insert => s.assistInsert h kind hdr port false
  | .pin => s.assistInsert h kind hdr port true
  | .delete =>
    match s.findRec h kind with
    | none => miss
    | some i => (0, i, if host && s.recGrants i then cancel s i true else s.recFree i)
  | .unpin =>
    match s.findRec h kind with
    | none => miss
    | some i => (0, i, s.recBit i 2 false)
  | .setDeny =>
    match s.findRec h kind with
    | none => miss
    | some i =>
      let s := s.recBit i 3 true
      (0, i, if host && s.recGrants i then cancel s i false else s)
  | .clearDeny =>
    match s.findRec h kind with
    | none => miss
    | some i => (0, i, s.recBit i 3 false)

/-- The operation of a LOOKUP ticket (R297) and of SRV_CT_CMD (R236). -/
def ticketOp (n : Nat) : Option AssistOp :=
  match n with
  | 1 => some .lookup | 2 => some .insert | 3 => some .delete | 5 => some .setDeny | 6 => some .clearDeny | _ => none
def hostOpOf (n : Nat) : Option AssistOp :=
  match n with
  | 1 => some .lookup | 2 => some .pin | 3 => some .unpin | 4 => some .delete | 5 => some .setDeny | 6 => some .clearDeny | _ => none

/-- QDEPTH of an AEAD unit. -/
def State.depthSync (s : State) (u : Nat) : State :=
  if u < 8 then s.set R.SRV_AU_STAT_QDEPTH u (s.jobs.countP fun j => j.unit == u) else s

/-- How many jobs a unit holds. -/
def State.unitDepth (s : State) (u : Nat) : Nat := s.jobs.countP fun j => j.unit == u

/-- The home unit of an engine (R233). -/
def State.homeUnit (s : State) (n : Fin 12) : Nat :=
  if 4 ≤ n.val then n.val - 4 else if n = 2 then s.get R.SRV_AU_CFG_WARDEN_AU else s.get R.SRV_AU_CFG_SCOUT_AU

/-- The job of a ticket is delivered to a unit (R265, R266). -/
def State.deliver (s : State) (n : Fin 12) (t : Ticket) (u : Nat) : State :=
  let e := s.engine n
  let s := s.setEng n { e with tickets := e.tickets.map fun x => if x.num == t.num then { x with delivered := true } else x }
  ({ s with jobs := s.jobs ++ [{ eng := n, num := t.num, unit := u, job := t.job, live := true }] } : State).depthSync u

/-- A job that waits in its submitter's ticket queue goes to its unit, which has room (R233). -/
def State.deliverWaiting (s : State) (u : Nat) : State :=
  if u < 8 && decide (s.unitDepth u < 32) then
    let find := fun (n : Fin 12) => (s.engine n).tickets.find? fun t => !t.delivered
    match (List.finRange 12).find? fun n => decide (2 ≤ n.val) && s.homeUnit n == u && (find n).isSome with
    | some n => (match find n with
      | some t => s.deliver n t u
      | none => s)
    | none => s
  else s

/-- The result of a job in its ticket, which completes later (R266); a stale job's result is discarded (R267). -/
def State.jobDone (s : State) (j : UJob) (status value : Nat) : State :=
  let s := State.deliverWaiting { s with jobs := s.jobs.filter fun x => !(x == j) } j.unit
  if !j.live then s
  else
    let e := s.engine j.eng
    s.setEng j.eng { e with tickets := e.tickets.map fun t => if t.num == j.num && t.result.isNone then { t with result := some (status, value) } else t }

/-- The host's operation ends: SRV_CT_RES (R236). -/
def State.hostOpDone (s : State) (status index : Nat) : State :=
  let s := s.setSrv { s.srv with hostOp := none }
  ((s.set R.SRV_CT_RES_INDEX 0 index).set R.SRV_CT_RES_STATUS 0 status).setFlag R.SRV_CT_RES_DONE 0 true

/-- The assist runs the operation at the front of its queue, if it is `op`: operations run in order of arrival (R214). -/
def State.assistStep (s : State) (op : AssistOp) : State :=
  let job := s.jobs.find? fun j => j.unit == 8
  match s.srv.hostOp, job with
  | some (n, 0), _ =>
    if hostOpOf n == some op then
      let key := leBytes 4 (s.get R.SRV_CT_KEY0) ++ leBytes 16 (s.get R.SRV_CT_ADDR)
      let (st, i, s) := s.assist op key 0 true
      s.hostOpDone st i
    else s
  | h, some j =>
    if ticketOp (leAt j.job.desc 0 1) == some op then
      let (st, i, s) := s.assist op (slice j.job.desc 4 20) (leAt j.job.desc 1 1) false
      let s := s.setSrv { s.srv with hostOp := h.map fun x => (x.1, x.2 - 1) }
      s.jobDone j st i
    else s
  | _, none => s

/-- A write of SRV_CT_CMD: the operation arrives at the assist, behind the jobs there (R214, R236). -/
def State.ctCmd (s : State) (v : Word) : State :=
  let n := v.toNat % 8
  if (hostOpOf n).isNone || s.srv.hostOp.isSome then s
  else
    let s := s.setFlag R.SRV_CT_RES_DONE 0 false
    s.setSrv { s.srv with hostOp := some (n, s.jobs.countP fun j => j.unit == 8) }

/-! ### Receive queues (R211, R212) -/

/-- The serving engine of a steering index (R211). -/
def State.steerTo (s : State) (i : Nat) : Nat := bits (s.get R.SRV_STEER_ACTIVE) (4 * i) 3

/-- A frame of CLASS 1 to 3 is dropped for want of a place: its buffer returns (R180, R211). -/
def State.dropNoQueue (s : State) (p : Fin 64) : State := (s.bump R.PRT_RX_DROP_NOQUEUE p).obs 2 (p.val * 16 + 2)

/-- The newest receive metadata of a port, and its counters of delivered frames (R168, R187). -/
def State.delivered (s : State) (p : Fin 64) (md : List Byte) : State :=
  let s := (s.set R.PRT_LAST_RX p (ofLe md)).bump R.PRT_RX_FRAMES p
  let s := s.obs 2 (p.val * 16)
  if (leAt md 14 2).testBit 11 then (s.bump R.PRT_NOTS p).obs 2 (p.val * 16 + 3) else s

/-- The 32 bytes of a receive descriptor (R211). -/
def rxDescriptor (w : RxWait) (nts : Nat) : List Byte :=
  w.meta_ ++ leBytes 4 w.buf ++ leBytes 2 w.len ++ leBytes 1 w.hdr ++ leBytes 1 w.look ++ leBytes 4 (w.index + w.steer * 2 ^ 20) ++ leBytes 4 nts

/-- A receive descriptor is written to the steered engine's queue, or the frame is dropped (R211). -/
def State.enqueue (s : State) (w : RxWait) (nts : Nat) : State :=
  let k := w.eng
  let size := 2 ^ s.get R.SRV_RXQ_CFG_SIZE_LOG2 k
  if !s.flag R.SRV_RXQ_CFG_ENABLE k then (s.poolRet w.buf).dropNoQueue w.port
  else if s.ringHeld R.SRV_RXQ_WR R.SRV_RXQ_RD k ≥ size then ((s.poolRet w.buf).dropNoQueue w.port).bump R.SRV_RXQ_DROP k
  else
    let wr := s.get R.SRV_RXQ_WR k
    let s := s.devWrite 12 (s.get R.SRV_RXQ_BASE k + wr % size * 32) (rxDescriptor w nts)
    let s := (s.bumpW R.SRV_RXQ_WR k).obs 5 (8 + k)
    let s := s.delivered w.port w.meta_
    if h : k + 4 < 12 then s.event ⟨k + 4, h⟩ 2 else s

/-- Frames that wait behind no NTS request of their steering index any more enter their queues (R211). -/
def State.flushWait (s : State) : State :=
  let rec go (s : State) (kept : List RxWait) : List RxWait → State
    | [] => s.setSrv { s.srv with wait := kept.reverse }
    | w :: t =>
      if w.nts || kept.any (fun x => x.steer == w.steer) then go s (w :: kept) t
      else go (s.enqueue w 0) kept t
  go s [] s.srv.wait

/-- The shadow steering table is committed (R212). -/
def State.steerCommit (s : State) (v : Word) : State :=
  if !v.getLsbD 0 then s
  else if (s.get R.SRV_STAT).testBit 0 then s.srvEvt 9
  else s.raiseBit R.SRV_STAT 0 0

/-- The pending steering table becomes active at a schedule-cycle boundary (R212). -/
def State.steerApply (s : State) : State :=
  if (s.get R.SRV_STAT).testBit 0 then
    ((s.set R.SRV_STEER_ACTIVE 0 (s.get R.SRV_STEER_SHADOW)).clearBit R.SRV_STAT 0 0).srvEvt 8
  else s

/-! ### Meanings -/

/-- LOOKUP (R214). -/
def execAssistLookup (s : State) : Host.Outcome State Fault Refusal := done (s.assistStep .lookup)

/-- INSERT (R214). -/
def execAssistInsert (s : State) : Host.Outcome State Fault Refusal := done (s.assistStep .insert)

/-- DELETE (R214). -/
def execAssistDelete (s : State) : Host.Outcome State Fault Refusal := done (s.assistStep .delete)

/-- PIN (R214). -/
def execAssistPin (s : State) : Host.Outcome State Fault Refusal := done (s.assistStep .pin)

/-- UNPIN (R214). -/
def execAssistUnpin (s : State) : Host.Outcome State Fault Refusal := done (s.assistStep .unpin)

/-- SET_DENY (R214). -/
def execAssistSetDeny (s : State) : Host.Outcome State Fault Refusal := done (s.assistStep .setDeny)

/-- CLEAR_DENY (R214). -/
def execAssistClearDeny (s : State) : Host.Outcome State Fault Refusal := done (s.assistStep .clearDeny)

end Sys2Proof.Machine
end

