-- ==== Sys2Proof/Machine/Aead.lean ====
section
/-! DEFINITION. Accelerator jobs: the AEAD units, CRC and HASH (R227 to R233, R296, R297), with the cookie unit and its master keys
(R229 to R231), association keys (R221) and the check of an NTS request (R226). -/

namespace Sys2Proof.Machine

/-! ### Key contexts (R227) -/

/-- CTX_USED of a unit. -/
def State.ctxSync (s : State) (u : Nat) : State := s.set R.SRV_AU_STAT_CTX_USED u (s.srv.ctx.countP fun c => c.unit == u)

/-- A context of a unit. -/
def State.ctxOf (s : State) (u c : Nat) : Option KeyCtx := s.srv.ctx.find? fun x => x.unit == u && x.num == c

/-- A context is freed (R227). -/
def State.ctxFree (s : State) (u c : Nat) : State :=
  (s.setSrv { s.srv with ctx := s.srv.ctx.filter fun x => !(x.unit == u && x.num == c) }).ctxSync u

/-- The numbers of the contexts of a unit that are free; a unit has 64. -/
def State.ctxAvail (s : State) (u : Nat) : List Nat := (List.range 64).filter fun c => (s.ctxOf u c).isNone

/-- A context is filled. -/
def State.ctxFill (s : State) (u c : Nat) (c2s s2c : List Byte) : State :=
  (s.setSrv { s.srv with ctx := s.srv.ctx ++ [{ unit := u, num := c, c2s := c2s, s2c := s2c, at_ := s.time.lc.toNat }] }).ctxSync u

/-- 100 µs have passed since a context was filled (R227). -/
def State.ctxExpire (s : State) (u c : Nat) : State :=
  match s.ctxOf u c with
  | none => s
  | some x => if (s.time.lc.toNat - x.at_) * 10000 ≥ 2 ^ 48 then (s.ctxFree u c).bump R.SRV_AU_CTXEXP u else s

/-! ### Jobs (R233, R266) -/

/-- A job of an engine with a number that passes a test, when it is the first of its submitter on its unit (R233). -/
def State.jobFor (s : State) (n : Fin 12) (num : Fin 16) (p : UJob → Bool) : Option UJob :=
  match s.jobs.find? fun j => j.eng == n && j.num == num && p j with
  | none => none
  | some j => if (s.jobs.find? fun x => x.eng == n && x.unit == j.unit) == some j then some j else none

/-- An AEAD job of a given OP. -/
def aeadOp (op : Nat) (j : UJob) : Bool := decide (j.unit < 8) && leAt j.job.desc 0 1 == op

/-- A field of a job descriptor. -/
def UJob.fld (j : UJob) (off n : Nat) : Nat := leAt j.job.desc off n

/-- A FLAGS bit of an AEAD job (R296). -/
def UJob.flag (j : UJob) (b : Nat) : Bool := (j.fld 2 2).testBit b

/-- MEMERR (R298, R391, R454): the range of a job that is answered with an error, and the fault ENG_TRAP. -/
def State.memErr (s : State) (j : UJob) : State :=
  let rs := if j.unit < 8 then
      [(j.fld 0x10 4, j.fld 0x1C 2), (j.fld 0x14 4, j.fld 0x1E 2), (j.fld 0x18 4, j.fld 0x20 2), (j.fld 0x24 4, j.fld 0x22 2), (j.fld 0x0C 4, 16), (j.fld 0x28 4, 16)]
    else [(j.fld 4 4, j.fld 8 4)]
  let master := if j.unit < 8 then 13 else j.eng.val - 2
  let s := match rs.find? fun r => r.2 != 0 && !s.sramOk r.1 r.2 with
    | some r => s.sramErr master r.1 r.2 false
    | none => s
  s.raise fsEngTrap j.eng

/-- An AEAD job completes: SRV_AU_JOBS, the fault of MEMERR, and RELEASE of a seal job (R227, R236, R298). -/
def State.aeadDone (s : State) (j : UJob) (status value : Nat) : State :=
  let s := if j.fld 0 1 = 0 && j.flag 0 then s.ctxFree j.unit (j.fld 4 1) else s
  let s := (s.jobDone j status value).depthSync j.unit
  let s := (s.bump R.SRV_AU_JOBS j.unit).obs 5 (16 + j.unit)
  let s := if status = 4 then s.bump R.SRV_AU_TAGFAIL j.unit else s
  if status = 7 then s.memErr j else s

/-- Whether `n` bytes at a job address can be used. -/
def State.jobMem (s : State) (a n : Nat) : Bool := n == 0 || s.sramOk a n

/-- The associated-data ranges of an AEAD job. -/
def UJob.ads (j : UJob) : List (Nat × Nat) :=
  ([(0x10, 0x1C), (0x14, 0x1E), (0x18, 0x20)].map fun o => (j.fld o.1 4, j.fld o.2 2)).filter fun r => r.2 != 0

/-- Whether every range that an SIV job reads or writes can be used. A generated nonce is written in the 16 bytes before V. -/
def State.sivMem (s : State) (j : UJob) : Bool :=
  j.ads.all (fun r => s.jobMem r.1 r.2) && s.jobMem (j.fld 0x24 4) (j.fld 0x22 2)
    && (if j.flag 1 && j.fld 0 1 == 0 then decide (j.fld 0x28 4 ≥ 16) && inSram (j.fld 0x28 4 - 16) 32
        else inSram (j.fld 0x28 4) 16 && s.jobMem (j.fld 0x0C 4) 16)

/-- The ranges of SRAM that an AEAD job reads: a seal's and an open's associated data, data, nonce unless it is generated, and V of an
open; a MAC's data and the ICV that it compares with (R296). -/
def UJob.reads (j : UJob) : List (Nat × Nat) :=
  let op := j.fld 0 1
  let data := (j.fld 0x24 4, j.fld 0x22 2)
  if op ≤ 1 then
    j.ads ++ [data] ++ (if op == 0 && j.flag 1 then [] else [(j.fld 0x0C 4, 16)]) ++ (if op = 1 then [(j.fld 0x28 4, 16)] else [])
  else data :: (if j.flag 2 then [(j.fld 0x2C 4, j.fld 6 1)] else [])

/-- Ranges of SRAM have been read (R454). -/
def State.rangesSoft (s : State) (rs : List (Nat × Nat)) : State := rs.foldl (fun s r => s.sramSoft r.1 r.2) s

/-- The key of an SIV job: a context's S2C for a seal and C2S for an open, or the inline key; none when no such context (R232). -/
def State.sivKey (s : State) (j : UJob) : Option (List Byte) :=
  if j.fld 1 1 = 0 then (s.ctxOf j.unit (j.fld 4 1)).map fun c => if j.fld 0 1 = 0 then c.s2c else c.c2s
  else some (padTo 32 j.job.key)

/-- The value of a job with CSUM (R298). -/
def UJob.csum (j : UJob) (bs : List Byte) : Nat := if j.flag 3 then onesSum bs else 0

/-- DRBG_OK: the random generator has given a nonce (R236; log entry 98). -/
def State.drbgUse (s : State) : State := s.raiseBit R.SRV_STAT 0 5

/-- SIV_SEAL (R232). -/
def State.sivSealJob (s : State) (j : UJob) : State :=
  match s.sivKey j with
  | none => s.aeadDone j 5 0
  | some key =>
    if !s.sivMem j then s.aeadDone j 7 0
    else
      let s := s.rangesSoft j.reads
      let gen := j.flag 1
      let out := j.fld 0x28 4
      let nonce := if gen then Config.randomBytes s.draw 16 else s.bytes (j.fld 0x0C 4) 16
      let s := if gen then s.drawn.drbgUse else s
      let ads := j.ads.map fun r => s.bytes r.1 r.2
      let (v, c) := sivSeal key (ads ++ [nonce]) (s.bytes (j.fld 0x24 4) (j.fld 0x22 2))
      let s := if gen then s.setBytes (out - 16) nonce else s
      let s := (s.setBytes out v).setBytes (j.fld 0x24 4) c
      s.aeadDone j 0 (j.csum ((if gen then nonce else []) ++ v ++ c))

/-- SIV_OPEN (R232): where the tag fails no plaintext is written. -/
def State.sivOpenJob (s : State) (j : UJob) : State :=
  match s.sivKey j with
  | none => s.aeadDone j 5 0
  | some key =>
    if !s.sivMem j || !s.jobMem (j.fld 0x28 4) 16 || !s.jobMem (j.fld 0x0C 4) 16 then s.aeadDone j 7 0
    else
      let s := s.rangesSoft j.reads
      let nonce := s.bytes (j.fld 0x0C 4) 16
      let ads := j.ads.map fun r => s.bytes r.1 r.2
      match sivOpen key (ads ++ [nonce]) (s.bytes (j.fld 0x28 4) 16) (s.bytes (j.fld 0x24 4) (j.fld 0x22 2)) with
      | none => s.aeadDone j 4 0
      | some pt => (s.setBytes (j.fld 0x24 4) pt).aeadDone j 0 (j.csum pt)

/-- Whether a half of an association is VALID (R221). -/
def State.saValid (s : State) (spp : Nat) (b : Bool) : Bool :=
  if b then s.flag R.SRV_SA_CFG_VALID_B spp else s.flag R.SRV_SA_CFG_VALID_A spp

/-- A key of an association, when it is in force and VALID (R221). -/
def State.saKey (s : State) (spp : Nat) (b : Bool) : Option (List Byte) :=
  if s.saValid spp b then sget s.srv.saKey (spp * 2 + b2n b) else none

/-- The key of a MAC job: an association key or an inline key (R232). -/
def State.macKey (s : State) (j : UJob) : Option (List Byte) :=
  match j.fld 1 1 with
  | 1 => s.saKey (j.fld 5 1) false
  | 2 => s.saKey (j.fld 5 1) true
  | _ => some j.job.key

/-- HMAC and CMAC jobs: the tag is written, or compared with the ICV (R232, R296). -/
def State.macJob (s : State) (j : UJob) (mac : List Byte → List Byte → List Byte) (cap : Nat) : State :=
  let n := Nat.min (j.fld 6 1) cap
  match s.macKey j with
  | none => s.aeadDone j 6 0
  | some key =>
    let data := j.fld 0x24 4
    let len := j.fld 0x22 2
    if !s.jobMem data len then s.aeadDone j 7 0
    else
      let s := s.rangesSoft j.reads
      let tag := (mac key (s.bytes data len)).take n
      if j.flag 2 then
        if !s.jobMem (j.fld 0x2C 4) n then s.aeadDone j 7 0
        else s.aeadDone j (if s.bytes (j.fld 0x2C 4) n == tag then 0 else 4) 0
      else if !inSram (j.fld 0x28 4) n then s.aeadDone j 7 0
      else (s.setBytes (j.fld 0x28 4) tag).aeadDone j 0 (j.csum tag)

/-- FREE (R227): a context that is gone gives NOCTX. -/
def State.freeJob (s : State) (j : UJob) : State :=
  match s.ctxOf j.unit (j.fld 4 1) with
  | none => s.aeadDone j 5 0
  | some _ => (s.ctxFree j.unit (j.fld 4 1)).aeadDone j 0 0

/-! ### Cookies (R229 to R231) -/

/-- A cookie of C2S and S2C under a master key with a nonce (R229). -/
def cookieOf (k : Delivered) (nonce c2s s2c : List Byte) : List Byte :=
  let id := beBytes 4 k.id.toNat
  let (v, c) := sivSeal (digestBytes k.key) [id, nonce] (beBytes 2 15 ++ [0#8, 0#8] ++ padTo 32 c2s ++ padTo 32 s2c)
  id ++ nonce ++ v ++ c

/-- `n` cookies with fresh nonces, one after another. -/
def State.cookies (s : State) (k : Delivered) (c2s s2c : List Byte) (n : Nat) : List Byte × State :=
  ((List.range n).flatMap fun i => cookieOf k (Config.randomBytes (s.draw + i) 16) c2s s2c, ({ s with draw := s.draw + n } : State).drbgUse)

/-- MINT (R232): COUNT cookies from OUT_ADDR. -/
def State.mintJob (s : State) (j : UJob) : State :=
  match s.ctxOf j.unit (j.fld 4 1), s.sec.cookieCur with
  | none, _ => s.aeadDone j 5 0
  | _, none => s.aeadDone j 6 0
  | some c, some k =>
    let n := j.fld 7 1
    if !inSram (j.fld 0x28 4) (104 * n) then s.aeadDone j 7 0
    else
      let (bs, s) := s.cookies k c.c2s c.s2c n
      let s := (s.setBytes (j.fld 0x28 4) bs).obs 5 46 n
      s.aeadDone j 0 (j.csum bs)

/-- How many openings a cookie takes: none where no master key has its identifier (R226). -/
def State.cookieTried (s : State) (b : List Byte) : Bool :=
  b.length == 104 && [s.sec.cookieCur, s.sec.cookiePrev].any fun k => k.any fun d => d.id.toNat == beAt b 0 4

/-- What a cookie holds: C2S, S2C, and whether the previous key opened it (R226, R229). -/
def State.openCookie (s : State) (b : List Byte) : Option (List Byte × List Byte × Bool) :=
  let id := beAt b 0 4
  let try_ := fun (k : Option Delivered) (prev : Bool) =>
    match k with
    | some d =>
      if d.id.toNat = id && b.length = 104 then
        (sivOpen (digestBytes d.key) [slice b 0 4, slice b 4 16] (slice b 20 16) (slice b 36 68)).map fun p => (slice p 4 32, slice p 36 32, prev)
      else none
    | none => none
  match try_ s.sec.cookieCur false with
  | some x => some x
  | none => try_ s.sec.cookiePrev true

/-- The keys rotate (R230). -/
def State.rotate (s : State) (d : Delivered) : State :=
  let s := { s with sec := { s.sec with cookiePrev := s.sec.cookieCur, cookieCur := some d, cookieNext := none } }
  let s := (s.set R.SRV_COOKIE_PREV 0 (s.get R.SRV_COOKIE_CUR)).set R.SRV_COOKIE_CUR 0 d.id.toNat
  s.syncKeys.srvEvt 6

/-- The load of a new master key from its slot (R230, R438). -/
def State.rotLoad (s : State) (x : RotArm) : Option Delivered × State := s.wkrLoad 2 (consUses 2) x.slot x.req (beBytes 4 x.id.toNat)

/-- Whether a load would be refused now (R230, R439). -/
def State.rotBad (s : State) (x : RotArm) : Bool := (s.slotCheck1 x.slot).2.wkrRefuse x.slot (s.slotInForce x.slot) (consUses 2) x.req ≠ 0

/-- SRV_COOKIE_ROT3 has been written: a rotation is armed, applied at once, or refused (R230). One that is armed loads its key at its AT, so
that a SLOT_WRITE before then counts (R490). -/
def State.rotArm (s : State) (req : Option Master) : State :=
  let now := s.flag R.SRV_COOKIE_ROT0_NOW
  let at_ := s.get R.SRV_COOKIE_ROT
  if s.sec.cookieNext.isSome || (!now && at_ ≤ s.rtSec) then s.srvEvt 7
  else
    let k := s.get R.SRV_COOKIE_ROT0_SLOT
    if h : k < 32 then
      let x : RotArm := { slot := ⟨k, h⟩, id := BitVec.ofNat 32 (s.get R.SRV_COOKIE_ROT1), req := req, at_ := at_ }
      if now || s.rotBad x then
        match s.rotLoad x with
        | (none, s) => s.srvEvt 7
        | (some d, s) => s.rotate d
      else ({ s with sec := { s.sec with cookieNext := some x } } : State).syncKeys
    else s

/-- The first tick of RT second AT: the key is loaded and the keys rotate; where the slot has become unusable the rotation is refused (R230,
R490). -/
def State.rotDue (s : State) : State :=
  match s.sec.cookieNext with
  | some x =>
    if s.rtSec < x.at_ then s
    else match s.rotLoad x with
      | (some d, s) => s.rotate d
      | (none, s) => (({ s with sec := { s.sec with cookieNext := none } } : State).syncKeys).srvEvt 7
  | none => s

/-- A write of SRV_MINT_CMD (R231): the mint begins, under the key that is current now (R230). -/
def State.mintCmd (s : State) (v : Word) : State :=
  let n := v.toNat % 16
  if s.flag R.SRV_MINT_STAT_BUSY then s.srvEvt 5
  else
    let s := (s.setFlag R.SRV_MINT_STAT_DONE 0 false).set R.SRV_MINT_STAT_MINTED 0 0
    if n = 0 || n > 8 then s.set R.SRV_MINT_STAT_ERR 0 2
    else
      let s := ((s.set R.SRV_MINT_STAT_ERR 0 0).setFlag R.SRV_MINT_STAT_BUSY 0 true).raiseBit R.SRV_STAT 0 4
      s.setSrv { s.srv with mint := n, mintKey := s.sec.cookieCur }

/-- The host's mint leaves its unit (R231). -/
def State.mintLeave (s : State) : State :=
  let s := (s.setFlag R.SRV_MINT_STAT_BUSY 0 false).clearBit R.SRV_STAT 0 4
  s.setSrv { s.srv with mintKey := none }

/-- `n` cookies under a key go to SRV_MINT_OUT (R231). -/
def State.mintOut (s : State) (k : Delivered) (n : Nat) : State :=
  let keys := leBytes 64 (s.get R.SRV_MINT_KEY)
  let (bs, s) := s.cookies k (slice keys 0 32) (slice keys 32 32) n
  let s := (s.setWordsN R.SRV_MINT_OUT.addr (ofLe bs) (26 * n)).obs 5 46 n
  let s := (s.set R.SRV_MINT_KEY 0 0).set R.SRV_MINT_STAT_MINTED 0 n
  (s.setFlag R.SRV_MINT_STAT_DONE 0 true).srvEvt 4

/-- The host's mint ends, under the key that was current when it began; while a serving mint waits it yields (R230, R231). -/
def State.hostMint (s : State) : State :=
  if !s.flag R.SRV_MINT_STAT_BUSY || s.jobs.any (aeadOp 4) then s
  else match s.srv.mintKey with
    | none => s.mintLeave.set R.SRV_MINT_STAT_ERR 0 1
    | some k => s.mintLeave.mintOut k s.srv.mint

/-- An association key takes effect once its word 7 has been written (R221). -/
def State.saCommit (s : State) (spp : Nat) (b : Bool) : State :=
  let key := leBytes 32 (s.get (if b then R.SRV_SA_KEY_B else R.SRV_SA_KEY_A) spp)
  s.setSrv { s.srv with saKey := sput false (spp * 2 + b2n b) key s.srv.saKey }

/-! ### CRC and HASH (R297) -/

/-- The matrix address of `len` bytes at a job address that may lie in the engine's DMEM; E0 and E1 reach no SRAM (R257). -/
def jobAddr (n : Fin 12) (a len : Nat) : Option Nat :=
  if 0x10000 ≤ a ∧ a + len ≤ 0x20000 then some (dmemAt n + (a - 0x10000))
  else if n.val < 2 then none
  else if inSram a len ∨ (memAddr a ∧ memAddr (a + len - 1) ∧ a / 0x80000 = (a + len - 1) / 0x80000) then some a
  else none

/-- The bytes of a job address; none where it is answered with an error. -/
def State.jobRead (s : State) (n : Fin 12) (a len : Nat) : Option (List Byte) :=
  match jobAddr n a len with
  | some x => if s.badAt x len then none else some (s.bytes x len)
  | none => if len = 0 then some [] else none

/-- What ECC corrected in `len` bytes at a job address: of the engine's DMEM, of another engine memory, or of SRAM (R278, R454). -/
def State.jobSoft (s : State) (n : Fin 12) (a len : Nat) : State :=
  match jobAddr n a len with
  | some x =>
    if inSram x len then s.sramSoft x len
    else
      let k := (x - 0x44000000) / 0x100000
      if h : k < 12 then s.corrected ⟨k, h⟩ (s.softs x len) else s
  | none => s

/-- The end of a CRC or HASH job. -/
def State.unitDone (s : State) (j : UJob) (status value : Nat) : State :=
  let s := s.jobDone j status value
  if status = 7 then s.memErr j else s

/-- A CRC over ADDR and LEN, begun from SEED (R297). -/
def State.crcJob (s : State) (j : UJob) (poly : Nat) : State :=
  match s.jobRead j.eng (j.fld 4 4) (j.fld 8 4) with
  | none => s.unitDone j 7 0
  | some bs => (s.jobSoft j.eng (j.fld 4 4) (j.fld 8 4)).unitDone j 0 ((bs.foldl (fun r b => crcSteps poly 8 (r ^^^ b.toNat)) (j.fld 12 4)) ^^^ 0xFFFFFFFF)

/-- A digest of ADDR and LEN into OUT, with the key at KEY (R297). -/
def State.hashJob (s : State) (j : UJob) (h : List Byte → List Byte → List Byte) (keyed : Bool) (outLen : Nat) : State :=
  let key := if keyed then (match jobAddr j.eng (j.fld 16 4) 16 with | some a => if s.badAt a 16 then none else some (s.bytes a 16) | none => none) else some []
  match s.jobRead j.eng (j.fld 4 4) (j.fld 8 4), key, jobAddr j.eng (j.fld 12 4) outLen with
  | some bs, some k, some o =>
    let s := s.jobSoft j.eng (j.fld 4 4) (j.fld 8 4)
    let s := if keyed then s.jobSoft j.eng (j.fld 16 4) 16 else s
    (s.setBytes o (h k bs)).unitDone j 0 0
  | _, _, _ => s.unitDone j 7 0

/-- A CRC job of an ALG, a HASH job of an ALG. -/
def crcAlg (a : Nat) (j : UJob) : Bool := j.unit == 9 && j.fld 0 1 == a
def hashAlg (a : Nat) (j : UJob) : Bool := j.unit == 10 && j.fld 0 1 == a

/-- The 16 bytes of SipHash with 128-bit output. -/
def sip128Bytes (k m : List Byte) : List Byte := leBytes 8 (sip128 k m).1.toNat ++ leBytes 8 (sip128 k m).2.toNat

/-- A job completes: its ticket can be collected, and the event TICKET occurs (R263, R266). -/
def State.ticketDone (s : State) (n : Fin 12) (num : Fin 16) : State :=
  let e := s.engine n
  match e.tickets.find? fun t => t.num == num with
  | none => s
  | some t =>
    if t.result.isNone || t.complete then s
    else (s.setEng n { e with tickets := e.tickets.map fun t => if t.num == num then { t with complete := true } else t }).event n 1

/-! ### The check of an NTS request (R226) -/

/-- A request that is dropped: its buffer returns. -/
def State.ntsDrop (s : State) (w : RxWait) : State :=
  (s.setSrv { s.srv with wait := s.srv.wait.erase w }).poolRet w.buf

/-- A request that has been checked enters its queue, with those that waited behind it. -/
def State.ntsQueue (s : State) (w : RxWait) (nts : Nat) : State :=
  ((s.setSrv { s.srv with wait := s.srv.wait.erase w }).enqueue w nts).flushWait

/-- The authenticator field: nonce, tag, and ciphertext (RFC 8915). -/
def authParts (b : List Byte) (a : Nat × Nat) : List Byte × List Byte × List Byte :=
  let n := beAt b a.1 2
  let c := beAt b (a.1 + 2) 2
  let ct := slice b (a.1 + 4 + ceilDiv n 4 * 4) c
  (slice b (a.1 + 4) n, ct.take 16, ct.drop 16)

/-- A job of the cookie unit or the parser has completed on a unit (R232, R236). -/
def State.auJob (s : State) (u : Nat) (ok : Bool) : State :=
  let s := (s.bump R.SRV_AU_JOBS u).obs 5 (16 + u)
  if ok then s else s.bump R.SRV_AU_TAGFAIL u

/-- The checks of R226 on the first NTS request that waits for a unit, first match. -/
def State.ntsCheck (s : State) (u : Nat) : State :=
  match s.srv.wait.find? fun w => w.nts && w.eng == u with
  | none => s
  | some w =>
    let b := s.bytes w.buf w.len
    let xs := match parseFrame b none with | .frame f => f.exts b | _ => []
    match (if s.flag R.SRV_CTRL_NTS_EN then ntsForm xs else none) with
    | none => ((s.ntsDrop w).bump R.SRV_CNT_NTS_REFUSED).flushWait
    | some f =>
      let base := f.places * 2 ^ 8 + (f.uid.1 - 4) * 2 ^ 12
      match pickOne (s.ctxAvail u) s.draw with
      | none => (((s.ntsDrop w).bump R.SRV_CNT_NTS_CTX_FULL).srvEvt 2).flushWait
      | some c =>
        let s := s.drawn
        let ck := slice b f.cookie.1 f.cookie.2
        match s.openCookie ck with
        | none => ((if s.cookieTried ck then s.auJob u false else s).bump R.SRV_CNT_NTS_COOKIE_BAD).ntsQueue w (2 + base)
        | some (c2s, s2c, prev) =>
          let s := s.auJob u true
          let (nonce, v, ct) := authParts b f.auth
          match sivOpen c2s [slice b w.hdr (f.auth.1 - 4 - w.hdr), nonce] v ct with
          | none => ((((s.ntsDrop w).bump R.SRV_CNT_NTS_AUTH_FAIL).auJob u false).obs 5 45).flushWait
          | some _ =>
            let s := (((s.auJob u true).ctxFill u c c2s s2c).bump R.SRV_CNT_NTS_OK).obs 5 44
            s.ntsQueue w (1 + c * 4 + base + b2n prev * 2 ^ 11)

/-! ### Meanings -/

/-- A job runs when it is the first of its submitter on its unit. -/
def State.runJob (s : State) (n : Fin 12) (num : Fin 16) (p : UJob → Bool) (f : UJob → State → State) : State :=
  match s.jobFor n num p with
  | some j => f j s
  | none => s

/-- SIV_SEAL (R232). -/
def execAeadSivSeal (n : Fin 12) (num : Fin 16) (s : State) : Host.Outcome State Fault Refusal :=
  done (s.runJob n num (aeadOp 0) fun j s => s.sivSealJob j)

/-- SIV_OPEN (R232). -/
def execAeadSivOpen (n : Fin 12) (num : Fin 16) (s : State) : Host.Outcome State Fault Refusal :=
  done (s.runJob n num (aeadOp 1) fun j s => s.sivOpenJob j)

/-- HMAC (R232). -/
def execAeadHmac (n : Fin 12) (num : Fin 16) (s : State) : Host.Outcome State Fault Refusal :=
  done (s.runJob n num (aeadOp 2) fun j s => s.macJob j hmac256 32)

/-- CMAC (R232): an association key of CMAC is its words 0 to 3 (R236). -/
def execAeadCmac (n : Fin 12) (num : Fin 16) (s : State) : Host.Outcome State Fault Refusal :=
  done (s.runJob n num (aeadOp 3) fun j s => s.macJob j (fun k => cmac (padTo 16 k)) 16)

/-- MINT (R232). -/
def execAeadMint (n : Fin 12) (num : Fin 16) (s : State) : Host.Outcome State Fault Refusal :=
  done (s.runJob n num (aeadOp 4) fun j s => s.mintJob j)

/-- FREE (R232). -/
def execAeadFree (n : Fin 12) (num : Fin 16) (s : State) : Host.Outcome State Fault Refusal :=
  done (s.runJob n num (aeadOp 5) fun j s => s.freeJob j)

/-- CRC32 (R297). -/
def execJobCrc32 (n : Fin 12) (num : Fin 16) (s : State) : Host.Outcome State Fault Refusal :=
  done (s.runJob n num (crcAlg 0) fun j s => s.crcJob j 0xEDB88320)

/-- CRC32C (R297). -/
def execJobCrc32c (n : Fin 12) (num : Fin 16) (s : State) : Host.Outcome State Fault Refusal :=
  done (s.runJob n num (crcAlg 1) fun j s => s.crcJob j 0x82F63B78)

/-- SHA256 (R297). -/
def execJobSha256 (n : Fin 12) (num : Fin 16) (s : State) : Host.Outcome State Fault Refusal :=
  done (s.runJob n num (hashAlg 0) fun j s => s.hashJob j (fun _ => sha256) false 32)

/-- SIPHASH64 (R297). -/
def execJobSiphash64 (n : Fin 12) (num : Fin 16) (s : State) : Host.Outcome State Fault Refusal :=
  done (s.runJob n num (hashAlg 1) fun j s => s.hashJob j (fun k m => leBytes 8 (sip64 k m).toNat) true 8)

/-- SIPHASH128 (R297). -/
def execJobSiphash128 (n : Fin 12) (num : Fin 16) (s : State) : Host.Outcome State Fault Refusal :=
  done (s.runJob n num (hashAlg 2) fun j s => s.hashJob j sip128Bytes true 16)

/-- TICKET_COMPLETE (R266). -/
def execTicketComplete (n : Fin 12) (num : Fin 16) (s : State) : Host.Outcome State Fault Refusal := done (s.ticketDone n num)

/-- CONTEXT_EXPIRY (R227). -/
def execContextExpiry (u : Fin 8) (c : BitVec 6) (s : State) : Host.Outcome State Fault Refusal := done (s.ctxExpire u c.toNat)

/-- COOKIE_ROTATION (R230). -/
def execCookieRotation (s : State) : Host.Outcome State Fault Refusal := done s.rotDue

/-- HOST_MINT (R231). -/
def execHostMint (s : State) : Host.Outcome State Fault Refusal := done s.hostMint

/-- NTS_REQUEST_CHECK (R226). -/
def execNtsRequestCheck (u : Fin 8) (s : State) : Host.Outcome State Fault Refusal := done (s.ntsCheck u)

end Sys2Proof.Machine
end

