-- ==== Sys2Proof/Machine/Aon.lean ====
section
/-! DEFINITION. Supply sag, the Bury save, DEEP and OFF, the resets and the Kennel's boot (R12, R60, R70, R73, R412 to R416, R419 to
R432, R481). -/

namespace Sys2Proof.Machine

/-! ### The Bone (R422) -/

/-- Register words of the holdover model: REF_HOLD_STAT, Y0, D, KT and T0 (R110). -/
def holdWords : List Nat :=
  [R.REF_HOLD_STAT_LEARNED_D.addr, R.REF_HOLD_Y0.addr, R.REF_HOLD_Y0.addr + 4, R.REF_HOLD_D.addr, R.REF_HOLD_D.addr + 4
  , R.REF_HOLD_KT.addr, R.REF_HOLD_KT.addr + 4, R.REF_HOLD_T0.addr]

/-- Register words of UTC and the leap second (R46, R48). -/
def utcWords : List Nat := [R.KNL_UTC_UTC_OFFSET.addr, R.KNL_LEAP_AT.addr, R.KNL_LEAP_AT.addr + 4]

/-- The Bone body of this moment (R422): holdover model, weights and oscillator records, UTC and leap state. -/
def State.boneBody (s : State) : BoneBody :=
  { words := holdWords.map fun a => (a, s.word a), osc := s.refs.osc, utcGnss := s.time.utcGnss, utcHost := s.time.utcHost
    utcOverride := s.time.utcOverride, leap := s.time.leap, utc := utcWords.map fun a => (a, s.word a), source := s.get R.CLK_STAT_KPLL_SRC }

/-- Once a second the lead K-engine refreshes the body in the retention store (R422). -/
def State.boneRefresh (s : State) : State :=
  if s.leadUp then { s with aon := { s.aon with body := some s.boneBody } }
  else s

/-- The MAC that a Bone must carry: STALE_N is taken as fresh (R422, R423). -/
def State.boneMac (s : State) (b : Bone) : Digest := Config.boneMac s.sec.rootSecret { b with mac := 0, fresh := true }

/-- A Bone with its MAC. -/
def State.signBone (s : State) (b : Bone) : Bone := { b with mac := s.boneMac b }

/-- AON_VIN_STAT.SAVE_STATE. -/
def State.saveState (s : State) (v : Nat) : State := s.set R.AON_VIN_STAT_SAVE_STATE 0 v

/-- An AON event bit. -/
def State.aonEvt (s : State) (b : Nat) : State := s.raiseBit R.AON_BURY_EVT 0 b

/-- A save starts, or waits for the one that runs: no event stops a save (R425). -/
def State.saveStart (s : State) (cause : Nat) : State :=
  match s.aon.save with
  | some _ => { s with aon := { s.aon with next := s.aon.next ++ [cause] } }
  | none => ({ s with aon := { s.aon with save := some { cause := cause, bone := none } } }).saveState 1

/-- The capture tick of a save: header fields and retention body (R425). -/
def State.saveCapture (s : State) : State :=
  match s.aon.save with
  | some { cause := c, bone := none } =>
    let b : Bone := s.signBone { mac := 0, fresh := c != 3, cause := c, seq := (s.get R.AON_BONE_SEQ + 1) % 2 ^ 32, paramGen := s.get R.KNL_PARAM_GEN, rt := s.rt
                                 mode := s.mode, sealCnt := s.get R.KNL_SEAL_CNT, leash := s.get R.LSH_CORE, body := s.aon.body.getD s.boneBody }
    ({ s with aon := { s.aon with save := some { cause := c, bone := some b } } }).saveState 2
  | _ => s

/-- The estimate of time and its uncertainty that AON shows (R431). -/
def State.estShow (s : State) (rtSave : Nat) : State :=
  let age := s.get R.AON_BONE_AGE
  if age = 0xFFFFFFFF then s
  else
    let unc := if s.flag R.CLK_STAT_AON_SRC then 1 + ceilDiv age 10 else 1 + 50 * age
    (s.set R.AON_BONE_EST 0 (rtSave + age)).set R.AON_BONE_UNC 0 (Nat.min unc 0xFFFFFFFE)

/-- AON counts seconds since the last commit (R431, R432); the RT second stands for the AON second (log entry 23). -/
def State.ageBy (s : State) (n : Nat) : State :=
  let age := s.get R.AON_BONE_AGE
  if age = 0xFFFFFFFF || n = 0 then s
  else
    let s := s.set R.AON_BONE_AGE 0 (Nat.min (age + n) 0xFFFFFFFE)
    if s.get R.AON_BONE_UNC = 0xFFFFFFFF then s else s.estShow (s.get R.AON_BONE_EST - age)

/-- BONE_NO_SLOT: the four erased slots cannot be kept (R424). -/
def State.noSlot (s : State) : State := (s.aonEvt 4).levelOn fsBoneNoSlot

/-! ### DEEP and OFF (R412 to R415) -/

/-- Entry to DEEP: every region but AON and the retention store loses its state (R412, R428, R451). -/
def State.deepEnter (s : State) (cause : Nat) : State :=
  let s := (s.dbgClose).chipReset cause
  ({ s with pwr := { s.pwr with power := .deep }, aon := { s.aon with deep := false, next := [] } }).setFlag R.AON_VIN_STAT_BURY_ACTIVE 0 false

/-- A wake ends DEEP in RUN, through a Chip reset (R413, R415). -/
def State.wake (s : State) (age : Nat) : State :=
  let s := ({ s with pwr := { s.pwr with power := .on }, aon := { s.aon with vrst := false } }).ageBy age
  (s.chipResetChecked 4).set R.PWR_STATE 0 0

/-- A save has committed (R425): the retention store and, if it has one, the KSPI slot hold the Bone. -/
def State.saveCommit (s : State) : State :=
  let s := s.saveCapture
  match s.aon.save with
  | some { cause := _, bone := some b } =>
    let noSlot := s.active fsBoneNoSlot || s.aon.erased = 0
    let i := s.kspi.boneNext
    let s := if noSlot then s
      else { s with kspi := { s.kspi with bones := sput false i (some b) s.kspi.bones, boneNext := (i + 1) % 14336 } }
    let s := { s with aon := { s.aon with save := none, kept := some b, slot := if noSlot then none else some i
                                          erased := if noSlot then s.aon.erased else s.aon.erased - 1 } }
    let s := (((s.saveState (if noSlot then 5 else 4)).aonEvt 1).set R.AON_BONE_SEQ 0 b.seq).set R.AON_BONE_AGE 0 0
    let s := if s.aon.erased < 4 && !s.active fsBoneNoSlot then s.noSlot else s
    if s.aon.vrst then s.deepEnter (s.get R.PWR_RESET_CAUSE)
    else if s.aon.deep then s.deepEnter (s.get R.PWR_RESET_CAUSE)
    else match s.aon.next with
      | [] => s
      | c :: cs => ({ s with aon := { s.aon with next := cs } }).saveStart c
  | _ => s

/-- VHOLD as last measured; HOLD_RDY follows it (R420). -/
def State.vholdShow (s : State) (vhold : BitVec 13) : State :=
  (s.set R.AON_VHOLD 0 vhold.toNat).setFlag R.AON_VIN_STAT_HOLD_RDY 0 (decide (vhold.toNat ≥ 4500))

/-- VIN and VHOLD as last measured. -/
def State.vinShow (s : State) (vin vhold : BitVec 13) : State := (s.set R.AON_VIN_STAT_VIN_MV 0 vin.toNat).vholdShow vhold

/-- VIN falls through VWARN (R425): BURY is entered and a save starts; debug closes (R448). -/
def State.buryEnter (s : State) : State :=
  let st := s.get R.PWR_STATE
  let s := { s with aon := { s.aon with from_ := st, sagAt := s.time.lc.toNat } }
  let s := ((s.set R.PWR_STATE 0 2).setFlag R.AON_VIN_STAT_BURY_ACTIVE 0 true).aonEvt 0
  let s := ((s.bump R.AON_BURY_CNT_SAGS).dbgClose).saveStart 0
  if s.flag R.AON_VIN_STAT_HOLD_RDY then s else (s.aonEvt 3).raise fsHoldLow

/-- VIN_WARN in RUN or DOZE: VIN is below 3.000 V (R419). -/
def State.vinWarn (s : State) (vin vhold : BitVec 13) : State :=
  if s.pwr.power = Power.on && s.get R.PWR_STATE ≤ 1 && !s.aon.vrst && decide (vin.toNat < 3000) then (s.vinShow vin vhold).buryEnter else s

/-- STALE_N of the committed Bone is programmed to 0 (R427). -/
def State.staleBone (s : State) : State :=
  let s := { s with aon := { s.aon with kept := s.aon.kept.map fun (b : Bone) => { b with fresh := false } } }
  match s.aon.slot, s.aon.kept with
  | some i, some b => { s with kspi := { s.kspi with bones := sput false i (some b) s.kspi.bones } }
  | _, _ => s

/-- BURY ends in survival: VIN stayed above 3.075 V for 1 ms after the commit (R427). -/
def State.survive (s : State) (vin : BitVec 13) : State :=
  let st := s.get R.AON_VIN_STAT_SAVE_STATE
  if s.pwr.power = Power.on && s.get R.PWR_STATE = 2 && (st = 4 || st = 5) && s.aon.save.isNone && !s.aon.vrst && decide (vin.toNat > 3075)
      && s.past s.aon.sagAt 1 1000 then
    let s := (s.set R.AON_VIN_STAT_VIN_MV 0 vin.toNat).set R.PWR_STATE 0 s.aon.from_
    let s := ((s.setFlag R.AON_VIN_STAT_BURY_ACTIVE 0 false).aonEvt 2).bump R.AON_BURY_CNT_SURVIVED
    (s.staleBone.saveState 0).raise fsBrownoutSurvived
  else s

/-- VIN reaches VRST (R419, R428): the Chip reset applies; a save that runs goes on to commit on VHOLD, and with none running a
final one is captured first. -/
def State.vinReset (s : State) (vin vhold : BitVec 13) : State :=
  if s.pwr.power ≠ Power.on || s.aon.vrst || vin.toNat > 2700 then s
  else
    let s := (s.vinWarn vin vhold).vinShow vin vhold
    let s := (if s.aon.save.isNone then s.saveStart 1 else s).saveCapture
    let s := s.chipReset 1
    { s with aon := { s.aon with vrst := true, next := [] } }

/-- OFF: everything on chip is lost but the fuses and the key store (R413, R451). -/
def State.powerOff (s : State) : State :=
  let s := s.coldReset
  { s with pwr := { s.pwr with power := .off } }

/-- VHOLD falls below HOLD_MIN (R420, R428): without VIN a save that runs is lost, and the slot it had begun keeps no MAGIC. -/
def State.vholdCollapse (s : State) (vinAbsent bodyDone : Bool) (vhold : BitVec 13) : State :=
  let s := s.vholdShow vhold
  if !vinAbsent || decide (vhold.toNat ≥ 2400) then s
  else
    let i := s.kspi.boneNext
    let torn := bodyDone && ((s.aon.save.map (·.bone.isSome)).getD false) && !s.active fsBoneNoSlot && s.aon.erased != 0
    let s := if torn then { s with kspi := { s.kspi with bones := sput false i none s.kspi.bones, boneNext := (i + 1) % 14336 }
                                   aon := { s.aon with erased := s.aon.erased - 1 } } else s
    s.powerOff

/-- A request for DEEP (R415). -/
def State.deepReq (s : State) (v : Word) : State :=
  if v ≠ 0xDEE90001#32 || s.pwr.power ≠ Power.on then s
  else if s.get R.PWR_STATE = 2 || s.dbg = 2 then s.set R.PWR_CTRL_DEEP_REFUSED 0 1
  else if s.aon.deep then s
  else ({ s with aon := { s.aon with deep := true } }).saveStart 2

/-- A wake of DEEP: 0 WAKE_N, 1 the timer, 2 VIN back above VWARN plus 75 mV for 1 ms after VRST (R415). -/
def State.deepWake (s : State) (cause : Fin 3) (age : Nat) (vin : BitVec 13) : State :=
  let ok := if cause = 0 then s.flag R.PWR_WAKE_CFG_WAKE_PIN_EN
    else if cause = 1 then s.flag R.PWR_WAKE_CFG_TIMER_EN && decide (age ≥ s.get R.PWR_WAKE_TIME)
    else s.aon.vrst && decide (vin.toNat > 3075)
  if s.pwr.power = Power.deep && ok then (s.set R.AON_VIN_STAT_VIN_MV 0 vin.toNat).wake age else s

/-- The next sector of the Bone region is erased, so four slots more lie ahead (R424). -/
def State.sectorErase (s : State) (ok : Bool) : State :=
  if !ok then (if s.aon.erased ≤ 4 then s.noSlot else s)
  else if s.aon.erased + 4 > 14336 || s.saveRuns then s
  else
    let i := (s.kspi.boneNext + s.aon.erased) % 14336 / 4 * 4
    let s := { s with kspi := { s.kspi with bones := s.kspi.bones.filter fun b => b.1 / 4 * 4 != i }, aon := { s.aon with erased := s.aon.erased + 4 } }
    s.levelOff fsBoneNoSlot

/-- Once every RT second in BURY after a commit the save is repeated (R427). -/
def State.buryRepeat (s : State) : State :=
  if s.get R.PWR_STATE = 2 && s.aon.save.isNone && !s.aon.vrst then s.saveStart 4 else s

/-! ### The Kennel's boot (R60, R73) -/

/-- Whether the chain between neighbouring event records holds, newest first (R73). -/
def chainOk : List KRec → Bool
  | r :: t => r.follows t && chainOk t
  | [] => true

/-- Whether seal counts rise through a list of records. -/
def cntRise : List KRec → Bool
  | a :: b :: t => decide (a.sealCnt < b.sealCnt) && cntRise (b :: t)
  | _ => true

/-- Whether the event log and the seal ledger are genuine (R73). -/
def State.logGenuine (s : State) : Bool :=
  let newest := fun (l : List KRec) => (l.getLast?.map (·.sealCnt)).getD 0
  decide (s.sec.sealFuses ≤ s.kspi.ledger.countP KRec.verified) && cntRise s.kspi.ledger && decide (newest s.kspi.ledger ≤ newest s.kspi.events)
    && chainOk s.kspi.events.reverse

/-- A breach recorded after the last seal (R83). -/
def State.breached (s : State) : Bool :=
  ((s.kspi.events.reverse.find? fun r => r.typ == 0x0011 || r.typ == 0x0013).map (·.typ == 0x0013)).getD false

/-- The log is verified and STATE set (R73, R83). -/
def State.logVerify (s : State) : State :=
  if s.logGenuine then s.set R.KNL_SEAL_STAT_STATE 0 (if s.lc = 2 && s.breached then 3 else lcSeal s.lc)
  else (s.set R.KNL_SEAL_STAT_STATE 0 4).levelOn fsKnlLogBad

/-- One ABANDONED record per command whose change was lost between its audit record and the bank switch (R70). -/
def State.abandon (s : State) : State :=
  let lost := s.kspi.staged
  let s := { s with kspi := { s.kspi with staged := [] } }
  lost.foldl (fun s c => s.record 0x0014 0xFF s.rt (eventDetail c.counter c.opcode c.change)) s

/-- Words of a Bone put back. -/
def State.putWords (s : State) (ws : List (Nat × Word)) : State := ws.foldl (fun s w => s.setWord w.1 w.2) s

/-- UTC and leap state of a Bone put back (R430). -/
def State.utcRestore (s : State) (b : BoneBody) : State :=
  let s := s.putWords b.utc
  { s with time := { s.time with utcGnss := b.utcGnss, utcHost := b.utcHost, utcOverride := b.utcOverride, leap := b.leap } }

/-- What a restored oscillator record holds: nothing that was counted in the LC of before (R31, R430). -/
def OscSt.kept (o : OscSt) : OscSt := { o with samples := [], edges := 0, since := 0, lastEdge := 0, tempAt := 0, stale := false, tintAt := 0 }

/-- The body of a Bone restored by its freshness and its PARAM_GEN (R430). -/
def State.boneBack (s : State) (b : Bone) : State :=
  let s := s.utcRestore b.body
  if b.paramGen ≠ s.bank.gen then s
  else
    let s := s.putWords b.body.words
    let s := { s with refs := { s.refs with osc := b.body.osc.map OscSt.kept, boneSrc := if b.fresh then some b.body.source else none } }
    let s := s.setFlag R.REF_HOLD_STAT_IN_HOLDOVER 0 false
    if b.fresh then s else (s.setFlag R.REF_HOLD_STAT_LEARNED_D 0 false).setFlag R.REF_HOLD_STAT_LEARNED_KT 0 false

/-- Whether the MAC of a Bone checks (R429). -/
def State.boneOk (s : State) (b : Bone) : Bool := b.mac == s.boneMac b

/-- The newest valid Bone: the retention copy if its SEQ is the highest, else the KSPI slot with the highest (R429). -/
def State.boneChoose (s : State) : Option (Bone × Option Nat) :=
  let best : Option (Bone × Option Nat) := s.kspi.bones.foldl (fun (acc : Option (Bone × Option Nat)) (x : Nat × Option Bone) =>
    match x.2.filter s.boneOk, acc with
    | none, a => a
    | some b, none => some (b, some x.1)
    | some b, some (c, i) => if b.seq > c.seq then some (b, some x.1) else some (c, i)) none
  match s.aon.kept.filter s.boneOk, best with
  | some k, some (b, i) => if k.seq ≥ b.seq then some (k, none) else some (b, i)
  | some k, none => some (k, none)
  | none, b => b

/-- The Bone is chosen and restored; torn slots count (R429 to R431). -/
def State.boneRestore (s : State) : State :=
  let torn := s.kspi.bones.countP fun x => x.2.isNone
  let s := s.set R.AON_BONE_LAST_BONE_TORN 0 (Nat.min torn 255)
  let s := if torn ≠ 0 then s.aonEvt 6 else s
  match s.boneChoose with
  | none => s.set R.AON_BONE_LAST_SRC 0 0
  | some (b, slot) =>
    let s := ((s.set R.AON_BONE_LAST_SLOT 0 (slot.getD (s.aon.slot.getD 0))).set R.AON_BONE_LAST_SRC 0 (if slot.isSome then 2 else 1)).setFlag
      R.AON_BONE_LAST_FRESH 0 b.fresh
    let s := ((s.set R.AON_BONE_SEQ 0 b.seq).aonEvt 5).boneBack b
    s.estShow (secOf b.rt)

/-- The Kennel's boot after a Cold or Chip reset (R60, R61, R73, R481). -/
def State.kennelBoot (s : State) : State :=
  if s.knl.booted || !s.flag R.CLK_STAT_KPLL_LOCK || s.pwr.power ≠ Power.on || s.aon.vrst then s
  else
    let s := ({ s with knl := { s.knl with booted := true, bootAt := s.time.lc.toNat } }).showBank
    let b := s.fwBank
    let s := s.takeMeas b.meas
    if b.meas ≠ s.bank.admits then ((s.set R.KNL_SEAL_STAT_STATE 0 5).levelOn fsKnlImageBad).abandon.syncAudit
    else
      -- a world that may not run is held: K0 and K1 are not started in BLANK (R450)
      let s := if s.lc = 0 then s else (s.kLoad 0 b false).kLoad 1 b false
      s.boneRestore.logVerify.abandon.syncAudit

/-! ### Meanings -/

/-- VIN_WARN (R425). -/
def execVinWarn (vin vhold : BitVec 13) (s : State) : Host.Outcome State Fault Refusal := done (s.vinWarn vin vhold)

/-- SAVE_COMMIT (R425). -/
def execSaveCommit (s : State) : Host.Outcome State Fault Refusal := done s.saveCommit

/-- BURY_SURVIVAL (R427). -/
def execBurySurvival (vin : BitVec 13) (s : State) : Host.Outcome State Fault Refusal := done (s.survive vin)

/-- VIN_RESET (R428). -/
def execVinReset (vin vhold : BitVec 13) (s : State) : Host.Outcome State Fault Refusal := done (s.vinReset vin vhold)

/-- VHOLD_COLLAPSE (R428). -/
def execVholdCollapse (vinAbsent bodyDone : Bool) (vhold : BitVec 13) (s : State) : Host.Outcome State Fault Refusal :=
  done (s.when_ s.powered (·.vholdCollapse vinAbsent bodyDone vhold))

/-- The lead K-engine takes a save every 600 s (R424). -/
def State.periodicSave (s : State) : State :=
  if s.pwr.power = Power.on && !s.aon.vrst && s.leadUp && s.past s.aon.periodAt 600 then
    ({ s with aon := { s.aon with periodAt := s.time.lc.toNat } }).saveStart 3
  else s

/-- PERIODIC_BONE_SAVE (R424). -/
def execPeriodicBoneSave (s : State) : Host.Outcome State Fault Refusal := done s.periodicSave

/-- BONE_SECTOR_ERASE (R424). -/
def execBoneSectorErase (ok : Bool) (s : State) : Host.Outcome State Fault Refusal := done (s.sectorErase ok)

/-- HOLD_RDY_CHANGE (R420). -/
def execHoldRdyChange (vhold : BitVec 13) (s : State) : Host.Outcome State Fault Refusal :=
  done (s.when_ s.powered (·.vholdShow vhold))

/-- DEEP_WAKE (R415). -/
def execDeepWake (cause : Fin 3) (age : Nat) (vin : BitVec 13) (s : State) : Host.Outcome State Fault Refusal := done (s.deepWake cause age vin)

/-- KENNEL_BOOT (R60). -/
def execKennelBoot (s : State) : Host.Outcome State Fault Refusal := done s.kennelBoot

/-- SRAM_CLEAR_DONE (R481): shared and client SRAM hold zeros, and the matrix grants accesses to them from here. -/
def execSramClearDone (s : State) : Host.Outcome State Fault Refusal :=
  done (s.when_ (!s.pwr.sramClear && s.get R.CLK_STAT_ROOT_SRC == 1) fun s =>
    let s := (s.memCut 0x10000000 0x10400000).memCut 0x20000000 0x21800000
    { s with pwr := { s.pwr with sramClear := true } })

/-- POWER_OFF (R413): VDD_AON below its threshold. -/
def execPowerOff (s : State) : Host.Outcome State Fault Refusal := done s.powerOff

/-- The straps are sampled at a Cold reset (R501). -/
def State.strapped (s : State) (kspiQuad laneRev : Bool) : State := { s with pwr := { s.pwr with kspiQuad := kspiQuad, laneRev := laneRev } }

/-- COLD_RESET (R12, R413, R501): supplies are valid and power is applied, with STRAP_KSPI_QUAD and STRAP_LANE_REV at these levels. -/
def execColdReset (kspiQuad laneRev : Bool) (s : State) : Host.Outcome State Fault Refusal :=
  done ((List.finRange 32).foldl (fun s k => let (bad, s) := s.slotCheck1 k
                                             if bad then s.raiseCore fsKeySlotBad k [] else s) (s.coldReset.strapped kspiQuad laneRev))

/-- CHIP_RESET (R12): by cause 1 VRST, 2 the Kennel's request, 3 PWR_CHIP_RESET, 4 exit from DEEP. -/
def execChipReset (cause : BitVec 3) (s : State) : Host.Outcome State Fault Refusal :=
  done (s.when_ (s.pwr.power == Power.on) (·.chipResetChecked cause.toNat))

/-- BLOCK_RESET (R12). -/
def execBlockReset (u : ResetUnit) (s : State) : Host.Outcome State Fault Refusal := done (s.blockReset u)

/-- ENGINE_RESET (R12). -/
def execEngineReset (n : Fin 12) (beats : Option Nat) (s : State) : Host.Outcome State Fault Refusal :=
  done (if h : 2 ≤ n.val then (s.burstCut ⟨n.val - 2, by omega⟩ beats).engineReset n else s.engineReset n)

end Sys2Proof.Machine
end

