-- ==== Sys2Proof/Machine/Lch.lean ====
section
/-! DEFINITION. LCH: launch descriptors, slots, departure, one-step insertion and timestamp reports (R188 to R205), with the redundancy
control trailers of PRP pairs and Brace ports (R184, R341). -/

namespace Sys2Proof.Machine

/-! ### Queues and their registers -/

/-- An event bit of LCH_EVT (R205). -/
def State.lchEvt (s : State) (b : Nat) : State := s.raiseBit R.LCH_EVT 0 b

/-- LCH_PSTAT follows the queues of a port. -/
def State.pstatSync (s : State) (p : Fin 64) : State :=
  let x := s.lport p
  ((s.set R.LCH_PSTAT_TQ_DEPTH p x.timed.length).set R.LCH_PSTAT_IQ_DEPTH p x.imm.length).set R.LCH_PSTAT_RQ_DEPTH p x.reports.length

/-- The queues of a port replaced, with LCH_PSTAT. -/
def State.putLport (s : State) (p : Fin 64) (x : LchPort) : State := (s.setLport p x).pstatSync p

/-- Entries that a ring holds when it is full (R203). -/
def State.lringSize (s : State) (r : Nat) : Nat := 2 ^ s.get R.LCH_RING_CFG_SIZE_LOG2 r

/-- Whether a ring is full. -/
def State.lringFull (s : State) (r : Nat) : Bool := decide (s.ringHeld R.LCH_RING_WR R.LCH_RING_RD r ≥ s.lringSize r)

/-- FULL of a ring follows its counts. -/
def State.lringSync (s : State) (r : Nat) : State := s.setFlag R.LCH_RING_STAT_FULL r (s.lringFull r)

/-! ### Descriptors (R189, R190) -/

/-- The entry that a descriptor makes; a ring number of 10 is the host's. -/
def entryOf (d : List Byte) (ring lc : Nat) : LEntry :=
  let ctl := leAt d 0x14 4
  let offs := leAt d 0x18 4
  { l := leAt d 0 12, window := leAt d 0x0C 4, addr := leAt d 0x10 4, len := bits ctl 0 14, kind := bits ctl 20 2, fixed := ctl.testBit 22,
    report := ctl.testBit 23, cksum := ctl.testBit 24, ins := bits offs 0 10, cf := bits offs 10 10, ck := bits offs 20 10,
    tag := leAt d 0x1C 8, tref := leAt d 0x24 12, ring := ring, at_ := lc, ready := none, rct := none }

/-- PORT of a descriptor. -/
def descPort (d : List Byte) : Fin 64 := ⟨bits (leAt d 0x14 4) 14 6, Nat.mod_lt _ (by decide)⟩

/-- Whether the reserved bits of a descriptor are 0. -/
def descRsv (d : List Byte) : Bool := bits (leAt d 0x14 4) 25 7 == 0 && bits (leAt d 0x18 4) 30 2 == 0

/-- Whether every field lies within its range, and what the scheduler writes lies within LEN (R190). -/
def State.entryOk (s : State) (p : Fin 64) (e : LEntry) : Bool :=
  decide (60 ≤ e.len) && decide (e.len + 4 ≤ s.get R.PRT_CFG_MAX_FRAME p) && (e.l == 0 || decide (e.window ≤ 1000000)) && e.addr % 8 == 0
    && inSram e.addr e.len && (!(e.kind == 1 || e.kind == 2) || decide (e.cf + 8 ≤ e.len))
    && (e.kind != 1 || decide (e.ins + 10 ≤ e.len)) && (e.kind != 3 || decide (e.ins + 8 ≤ e.len))
    && (!e.cksum || decide (e.ck + 2 ≤ e.len))

/-- Whether a queue of a port has no place for an entry (R190). -/
def State.queueFull (s : State) (p : Fin 64) (e : LEntry) : Bool :=
  if e.l = 0 then decide ((s.lport p).imm.length ≥ 64) else decide ((s.lport p).timed.length ≥ 128)

/-- The other port of a pair. -/
def oddPort (j : Fin 32) : Fin 64 := ⟨2 * j.val + 1, by omega⟩
def evenPort (j : Fin 32) : Fin 64 := ⟨2 * j.val, by omega⟩

/-- The pair that works and that a port belongs to (R183). -/
def State.workPair (s : State) (p : Fin 64) : Option (Fin 32) :=
  let j : Fin 32 := ⟨p.val / 2, by omega⟩
  if s.prpOn j then some j else none

/-- The ports a descriptor launches on (R184, R198). -/
def State.launchPorts (s : State) (p : Fin 64) : List (Fin 64) :=
  match s.workPair p with
  | some j => [evenPort j, oddPort j]
  | none => [p]

/-- The result of a submission: 0 accepted, 1 QFULL, 2 AHEAD, 3 BADDESC, 4 NORING, 5 DISABLED (R190, R205). The order in which
refusals are looked for is DISABLED, BADDESC, NORING, AHEAD, QFULL (log entry 33). -/
def State.descCode (s : State) (d : List Byte) (ring : Nat) : Nat :=
  let p := descPort d
  let e := entryOf d ring 0
  if !s.flag R.LCH_CTRL_ENABLE then 5
  else if !descRsv d || !s.entryOk p e || (p.val % 2 == 1 && (s.workPair p).isSome) then 3
  else if e.report && !s.flag R.LCH_RING_CFG_ENABLE ring then 4
  else if decide ((e.l : Int) * 1000 > s.rt.toNat * 1000 + s.get R.LCH_CTRL_AHEAD_MAX * 2 ^ 48) then 2
  else if (s.launchPorts p).any fun q => s.queueFull q e then 1
  else 0

/-- A timed entry takes its place in order of L, after those with the same L (R190, R197). -/
def insertTimed (e : LEntry) : List LEntry → List LEntry
  | [] => [e]
  | x :: t => if e.l < x.l then e :: x :: t else x :: insertTimed e t

/-- An entry enters a queue of a port. -/
def State.enterQueue (s : State) (p : Fin 64) (e : LEntry) : State :=
  let x := s.lport p
  s.putLport p (if e.l = 0 then { x with imm := x.imm ++ [e] } else { x with timed := insertTimed e x.timed })

/-- The next redundancy control trailer number of a pair or port (R184, R341). -/
def State.takeRct (s : State) (p : Fin 64) : Nat × State :=
  let x := s.link (attOf p)
  (x.rctSeq, s.setLink (attOf p) { x with rctSeq := (x.rctSeq + 1) % 65536 })

/-- An accepted entry enters the queue of its port, or both queues of a pair with one trailer number (R184). -/
def State.acceptEntry (s : State) (p : Fin 64) (e : LEntry) : State :=
  match s.workPair p with
  | some j =>
    let (n, s) := s.takeRct (evenPort j)
    let e := { e with rct := some n }
    (s.enterQueue (evenPort j) e).enterQueue (oddPort j) e
  | none => s.enterQueue p e

/-- A descriptor of the submitter with a ring: its code, and the frame queued or the refusal counted (R190). `late` is the time, in
2⁻⁴⁸ s, by which the submitter delays an immediate frame (R342). -/
def State.launchDesc (s : State) (d : List Byte) (ring : Nat) (late : Nat := 0) : Nat × State :=
  let p := descPort d
  let code := s.descCode d ring
  if code = 0 then (0, s.acceptEntry p (entryOf d ring (s.time.lc.toNat + late)))
  else
    let usable := !(p.val % 2 == 1 && (s.workPair p).isSome)
    (code, (s.bump R.LCH_CNT_REFUSED (if usable then p.val else 0)).lchEvt 2)

/-- The host's descriptor, once LCH_HSUB11 has been written (R188, R205). -/
def State.hostSubmit (s : State) : State :=
  let (code, s) := s.launchDesc (leBytes 48 (s.get R.LCH_HSUB)) 10
  let s := s.set R.LCH_HOST_STAT_LAST 0 code
  if code = 0 then s.bumpW R.LCH_HOST_STAT_ACCEPTED else s

/-! ### Slots (R191 to R193) -/

/-- The slot, counted from the epoch, that an RT lies in, and the RT at which a slot begins. -/
def slotOf (rt : Nat) : Nat := rt * 1024000 / 2 ^ 48
def slotStart (g : Nat) : Nat := ceilDiv (g * 2 ^ 48) 1024000

/-- Whether a slot of the active mask of a port is open. -/
def State.slotOpen (s : State) (p : Fin 64) (g : Nat) : Bool := (s.get R.LCH_MASK_ACTIVE p).testBit (g % 1024)

/-- The earliest RT at or after `rt` in a slot that is open, or closed. -/
def State.slotFrom (s : State) (p : Fin 64) (rt : Nat) (open_ : Bool) : Option Nat :=
  (findUp (fun g => s.slotOpen p g == open_) (slotOf rt) 1025).map fun g => if g = slotOf rt then rt else slotStart g

/-- Whether every slot counts as closed: the port is not UP, or paused (R193). -/
def State.portShut (s : State) (p : Fin 64) : Bool :=
  s.get R.PRT_STAT_LINK_STATE p != lkUP || s.flag R.PRT_STAT_PAUSED p

/-! ### Departure (R194 to R197) -/

/-- 640 ns in LC units (R194). -/
def readyUnits : Nat := ceilDiv (640 * 2 ^ 48) 1000000000

/-- The last departure that a timed frame may have (R194). -/
def LEntry.deadline (e : LEntry) : Nat := if e.fixed then e.l else e.l + e.window * 2 ^ 48 / 1000000000

/-- RT of an LC in the past; 0 for one older than every kept set, which no instant of a launch waits for. -/
def State.rtLc (s : State) (lc : Nat) : Nat := (((s.rtNear (BitVec.ofNat 96 lc)).map (·.1.toNat))).getD 0

/-- The RT from which a frame may start: the wire free and the frame ready, since an LC at which both hold, and the mask in force (R192, R194,
R196). -/
def State.freeFrom (s : State) (p : Fin 64) (readyLc : Nat) : Nat :=
  let x := s.lport p
  Nat.max x.maskRt (s.rtLc (Nat.max x.from_ readyLc))

/-- The RT before which a timed frame does not start, whatever the slots (R194). -/
def State.notBefore (s : State) (p : Fin 64) (e : LEntry) : Nat := Nat.max e.l (s.freeFrom p (e.at_ + readyUnits))

/-- D of a timed frame (R194): the slot open, the wire free, the frame ready. -/
def State.departure (s : State) (p : Fin 64) (e : LEntry) : Option Nat := s.slotFrom p (s.notBefore p e) true

/-- Half a placement step, the largest |A − X| in ps (R195). -/
def placePs (mode : Nat) : Nat := if mode ≤ 1 then 8000 else if mode = 2 then 1600 else 1280

/-- How long a frame of `n` bytes without FCS holds the wire, in 2⁻⁴⁸ s: preamble, FCS and gap included. -/
def wireTime (mode n : Nat) : Nat := ceilDiv ((Nat.max n 60 + 24) * bytePs mode * 2 ^ 48) 1000000000000

/-- Whether A is the transmit timestamp of the start position nearest to X, the earlier of two (R195): later than X by less than half a step, or
earlier by at most that. A is rounded to 2⁻⁴⁸ s. Where the positions of a PCS lie is no state of the block (log entry 96). -/
def placed (mode a x : Nat) : Bool :=
  let d := ((a : Int) - x) * 1000000000000
  let h : Int := placePs mode * 2 ^ 48
  decide (d < h) && decide (-h ≤ d + 500000000000)

/-- The timed frame whose D comes first, with D: of those that are ready and still within their windows (R194, R197). -/
def State.firstTimed (s : State) (p : Fin 64) : Option (LEntry × Nat) :=
  (s.lport p).timed.foldl (fun best e =>
    match s.departure p e with
    | none => best
    | some d =>
      if e.ready.isNone || d > e.deadline then best
      else match best with
        | some b => if d < b.2 then some (e, d) else best
        | none => some (e, d)) none

/-- Whether an immediate frame of `n` bytes may start with transmit timestamp A (R197): from an instant X in an open slot at which
the wire is free, no ready timed frame before it, ending before the next L and before the next closed slot. -/
def State.immFits (s : State) (p : Fin 64) (n a : Nat) : Bool :=
  let mode := s.linkMode (attOf p)
  let b := placePs mode * 2 ^ 48 / 1000000000000
  match s.slotFrom p (Nat.max (s.freeFrom p 0) (a - b)) true with
  | none => false
  | some x =>
    let e := x + wireTime mode n
    placed mode a x
      && (match s.firstTimed p with | some (_, d) => decide (x < d) | none => true)
      && (match (s.lport p).timed.head? with | some t => decide (e ≤ t.l) | none => true)
      && (match s.slotFrom p x false with | some c => decide (e ≤ c) | none => true)

/-! ### One-step insertion (R199, R200) -/

/-- A byte list with bytes put at an offset. -/
def putAt (b : List Byte) (o : Nat) (x : List Byte) : List Byte := b.take o ++ x ++ b.drop (o + x.length)

/-- The signed correctionField after `d` is added; overflow gives the largest value (R199). -/
def addCf (b : List Byte) (o : Nat) (d : Int) : List Byte :=
  let c := sext 64 (beAt b o 8) + d
  putAt b o (beBytes 8 (if c < -(2 ^ 63) ∨ c > 2 ^ 63 - 1 then 2 ^ 63 - 1 else trunc 64 c))

/-- The NTP timestamp of an RT under the UTC offset in force; during an inserted second it has the seconds of 23:59:59 again (R45,
R48). -/
def State.ntpAt (s : State) (t : Time) : DWord :=
  let again := match s.time.leap with
    | some l => l.kind == 1 && secOf t + 1 == l.at_
    | none => false
  (ntpOf t (s.getS R.KNL_UTC_UTC_OFFSET + b2n again)).2

/-- The fields written into a frame whose transmit timestamp is A (R199). -/
def State.insertFields (s : State) (e : LEntry) (a : Nat) (b : List Byte) : List Byte :=
  let t : Time := BitVec.ofNat 96 a
  match e.kind with
  | 1 => addCf (putAt b e.ins (sn80Wire (t96ToSn96 t))) e.cf (snUnits (t96ToSn96 t) % 65536 : Nat)
  | 2 => addCf b e.cf (roundDiv (((a : Int) - e.tref) * 1000000000) (2 ^ 32))
  | 3 => putAt b e.ins (beBytes 8 (s.ntpAt t).toNat)
  | _ => b

/-- Sum of the ones' complement differences of 16-bit words, from an offset parity, `~m + m'`, over the words that changed (RFC 1624). -/
def cksumDiff (o n : List Byte) (k : Nat) : Nat :=
  ((List.range (o.length / 2 + 1)).map fun i =>
    let a := beAt (padTo (o.length + 3) o) (2 * i + k) 2
    let c := beAt (padTo (o.length + 3) n) (2 * i + k) 2
    if a = c then 0 else (65535 - a) + c).sum

/-- Whether a frame carries IPv4, by its EtherType behind a tag. -/
def isV4 (b : List Byte) : Bool := beAt b (if isTag (beAt b 12 2) then 16 else 12) 2 == 0x0800

/-- The UDP checksum follows the inserted bytes; an IPv4 checksum of 0 stays 0, and one that would become 0 is sent as 0xFFFF (R200). -/
def fixCksum (o n : List Byte) (ck : Nat) : List Byte :=
  let hc := beAt o ck 2
  if hc = 0 && isV4 o then n
  else
    let t := (65535 - hc) + cksumDiff o n (ck % 2)
    let t := t % 65536 + t / 65536
    let t := t % 65536 + t / 65536
    let r := 65535 - t
    putAt n ck (beBytes 2 (if r = 0 then 65535 else r))

/-- The bytes that leave for an entry whose transmit timestamp is A. -/
def State.oneStep (s : State) (e : LEntry) (a : Nat) (b : List Byte) : List Byte :=
  let n := s.insertFields e a b
  if e.cksum then fixCksum b n e.ck else n

/-! ### Trailers of Brace ports (R341) -/

/-- Whether a port is a Brace port: in BRC_PORTS and without PRP_EN (R339). -/
def State.bracePort (s : State) (p : Fin 64) : Bool := (s.get R.BRC_PORTS).testBit p.val && (s.pairOf p).isNone

/-- Whether frames of a Brace port carry a trailer: PAIRED, ALONE or DISAGREE (R341). -/
def State.braceOn (s : State) (p : Fin 64) : Bool := s.bracePort p && decide (s.get R.BRC_STAT_PAIR_STATE ≥ 2)

/-- CLASS and header offset of a frame that this device sends. -/
def txClass (b : List Byte) : Nat × Nat :=
  match parseFrame b none with
  | .frame f => (f.cls, f.hdr)
  | _ => (0, 0)

/-- The trailer number of a frame on a Brace port (R341). -/
def State.braceSeq (s : State) (p : Fin 64) (b : List Byte) : Nat × State :=
  let (c, h) := txClass b
  if c = 1 ∨ c = 2 then (beAt b h 1 % 16 * 4096 + beAt b (h + 30) 2 % 4096, s)
  else if c = 3 ∧ beAt b h 1 % 8 = 4 then (0xE000 + beAt b (h + 28) 4 / 2 ^ 20, s)
  else let (n, s) := s.takeRct p; (0xF000 + n % 4096, s)

/-- A frame with the trailer of its port, if its port sends one: of a Brace port, or of a pair, whose number it has (R184, R341). -/
def State.trailed (s : State) (p : Fin 64) (rct : Option Nat) (b : List Byte) : List Byte × State :=
  if s.braceOn p then let (n, s) := s.braceSeq p b; (addRct b n (s.flag R.BRC_CFG_SIDE), s)
  else match rct with
    | some n => (addRct b n (p.val % 2 == 1), s)
    | none => (b, s)

/-- The bytes of a frame of `n` bytes with its trailer. -/
def State.trailLen (s : State) (p : Fin 64) (rct : Option Nat) (n : Nat) : Nat := if s.braceOn p || rct.isSome then n + 6 else n

/-- Whether a muted device withholds a frame (R346). -/
def State.mutes (s : State) (p : Fin 64) (b : List Byte) : Bool :=
  s.flag R.BRC_STAT_MUTED && s.bracePort p && decide (1 ≤ (txClass b).1) && decide ((txClass b).1 ≤ 3)

/-! ### Reports (R201 to R203) -/

/-- The 32 bytes of a report (R201). -/
def State.reportBytes (s : State) (p : Fin 64) (e : LEntry) (rt ver status : Nat) (err : Int) (degraded sn : Bool) : List Byte :=
  let lost := s.get R.LCH_LOST_PEND p
  let flags := p.val + status % 16 * 2 ^ 6 + b2n (lost != 0) * 2 ^ 10 + b2n degraded * 2 ^ 11 + b2n sn * 2 ^ 12
    + b2n (p.val % 2 == 1 && (s.workPair p).isSome) * 2 ^ 13 + b2n (e.l == 0) * 2 ^ 14
  leBytes 12 rt ++ leBytes 2 ver ++ leBytes 2 (s.get R.LCH_RSEQ p) ++ leBytes 8 e.tag ++ leBytes 4 (trunc 32 err) ++ leBytes 2 flags ++ leBytes 2 lost

/-- A report enters the port's report queue, or is lost there (R202). -/
def State.report (s : State) (p : Fin 64) (e : LEntry) (rt ver status : Nat) (err : Int) (degraded sn : Bool) : State :=
  if !e.report then s
  else
    let b := s.reportBytes p e rt ver status err degraded sn
    let x := s.lport p
    let s := s.bumpW R.LCH_RSEQ p
    if x.reports.length ≥ 256 then
      ((((s.bump R.LCH_TSQ_LOST p).bump R.LCH_LOST_PEND p).lchEvt 1).obs 3 (p.val * 16 + 3))
    else (s.set R.LCH_LOST_PEND p 0).putLport p { x with reports := x.reports ++ [⟨e.ring, b⟩] }

/-- The mover takes the head report of a port queue to its submitter's ring; a ring that is full or not in use stops it (R203). -/
def State.reportMove (s : State) (p : Fin 64) : State :=
  let x := s.lport p
  match x.reports with
  | [] => s
  | r :: t =>
    if !s.flag R.LCH_RING_CFG_ENABLE r.ring || s.lringFull r.ring then
      if x.held then s
      else (((s.setLport p { x with held := true }).bump R.LCH_RING_STAT_HELD r.ring).lchEvt 4).obs 4 (r.ring * 4 + 2)
    else
      let before := s
      let wr := s.get R.LCH_RING_WR r.ring
      let s := s.devWrite 11 (s.get R.LCH_RING_BASE r.ring + wr % s.lringSize r.ring * 32) r.bytes
      let s := ((s.bumpW R.LCH_RING_WR r.ring).lringSync r.ring).putLport p { x with reports := t, held := false }
      let s := s.obs 4 (r.ring * 4)
      let s := if h : r.ring < 10 then s.event ⟨r.ring + 2, by omega⟩ 3 else s
      s.irqEdge before 16

/-! ### Frames leave, or are late -/

/-- The bytes of the frame of an entry. -/
def State.frameOf (s : State) (e : LEntry) : List Byte := s.bytes e.addr e.len

/-- A frame without its entry leaves the queues. -/
def State.unqueue (s : State) (p : Fin 64) (e : LEntry) : State :=
  let x := s.lport p
  s.putLport p (if e.l = 0 then { x with imm := x.imm.erase e } else { x with timed := x.timed.erase e })

/-- SENT and MOVED of timed frames (R194, R205). -/
def State.countSent (s : State) (p : Fin 64) (e : LEntry) (moved : Bool) : State :=
  if e.l = 0 then s
  else if moved then (s.bump R.LCH_CNT_MOVED p).obs 3 (p.val * 16 + 1) else (s.bump R.LCH_CNT_SENT p).obs 3 (p.val * 16)

/-- A frame starts on the wire with transmit timestamp A, or a muted device withholds it; what the report of a withheld frame says of
its status and its instant the manual does not state. -/
def State.send (s : State) (p : Fin 64) (e : LEntry) (t : Time × Nat × Bool) (d : Nat) : State :=
  let a := t.1.toNat
  let moved := e.l != 0 && d != e.l
  let b := s.frameOf e
  let s := s.unqueue p e
  if s.mutes p b then
    let n := s.draw
    ((s.bump R.BRC_MUTED_DROPS).drawn.drawn).report p e (Config.freeNat n % 2 ^ 96) t.2.1 (Config.freeNat (n + 1) % 16) 0 (s.linkDegraded (attOf p)) t.2.2
  else
    let (b, s) := s.trailed p e.rct (s.oneStep e a b)
    let err := if e.l = 0 then 0 else unitsToPs ((a : Int) - d)
    let w : OnWire := { bytes := b, entry := some e, a := a, ver := t.2.1, sn := t.2.2, degraded := s.linkDegraded (attOf p), status := b2n moved, err := err }
    (s.setLport p { s.lport p with wire := some w }).countSent p e moved

/-- A timed frame starts at its departure instant (R194): SENT at L, MOVED after it. -/
def State.launchTimed (s : State) (p : Fin 64) (t : Time × Nat × Bool) : State :=
  match s.firstTimed p with
  | none => s
  | some (e, d) => if placed (s.linkMode (attOf p)) t.1.toNat d then s.send p e t d else s

/-- The immediate frame at the head of its queue starts (R197). -/
def State.launchImm (s : State) (p : Fin 64) (t : Time × Nat × Bool) : State :=
  match (s.lport p).imm with
  | [] => s
  | e :: _ => if s.immFits p (s.trailLen p e.rct e.len) t.1.toNat then s.send p e t 0 else s

/-- The frame in the Pack slot starts, by the rule for immediate frames (R325). -/
def State.launchPack (s : State) (p : Fin 64) (t : Time × Nat × Bool) : State :=
  match (s.lport p).pack with
  | none => s
  | some f =>
    if !s.immFits p (s.trailLen p f.rct f.bytes.length) t.1.toNat then s
    else
      let deg := s.linkDegraded (attOf p)
      let (b, s) := s.trailed p f.rct f.bytes
      let w : OnWire := { bytes := b, entry := none, a := t.1.toNat, ver := t.2.1, sn := t.2.2, degraded := deg, status := 0, err := 0 }
      let x := s.lport p
      s.setLport p { x with pack := none, packTs := if f.own then some (f.bytes, t.1.toNat, deg) else x.packTs, wire := some w }

/-- A PRP supervision frame starts, by the rule for immediate frames (R184). -/
def State.launchSup (s : State) (p : Fin 64) (t : Time × Nat × Bool) : State :=
  match (s.lport p).sup with
  | none => s
  | some (b, n) =>
    if !s.immFits p (b.length + 6) t.1.toNat then s
    else
      let w : OnWire := { bytes := addRct b n (p.val % 2 == 1), entry := none, a := t.1.toNat, ver := t.2.1, sn := t.2.2, degraded := s.linkDegraded (attOf p)
                          status := 0, err := 0 }
      s.setLport p { s.lport p with sup := none, wire := some w }

/-- A frame whose SFD leaves `phase` after this tick at bit `bitIdx` starts on the wire of a port (R165, R194, R195). -/
def State.frameLaunch (s : State) (p : Fin 64) (q : LaunchQueue) (phase : BitVec 16) (bitIdx : Byte) : State :=
  if s.portShut p || (s.lport p).wire.isSome then s
  else
    let t := s.stamp (attOf p) true phase bitIdx
    match q with
    | .timed => s.launchTimed p t
    | .immediate => s.launchImm p t
    | .pack => s.launchPack p t
    | .supervision => s.launchSup p t

/-- Frames whose 640 ns have passed are ready (R194). -/
def State.frameReady (s : State) (p : Fin 64) : State :=
  let x := s.lport p
  let now := s.time.lc.toNat
  s.setLport p { x with timed := x.timed.map fun e => if e.at_ + readyUnits ≤ now && e.ready.isNone then { e with ready := some (e.at_ + readyUnits) } else e }

/-- The earliest departure that is still possible: from now on (R194). -/
def State.earliest (s : State) (p : Fin 64) (e : LEntry) : Option Nat :=
  let base := s.notBefore p e
  if s.portShut p || (s.lport p).wire.isSome then some (Nat.max base s.rt.toNat) else s.slotFrom p base true

/-- A frame is discarded as LATE (R194, R197, R201). -/
def State.discardLate (s : State) (p : Fin 64) (e : LEntry) (rt : Nat) : State :=
  let s := (((s.unqueue p e).bump R.LCH_CNT_LATE p).lchEvt 0).obs 3 (p.val * 16 + 2)
  s.report p e rt (s.get R.KNL_TIME_MODE_CSET_VER) 2 0 (s.linkDegraded (attOf p)) (!s.inLc)

/-- The first timed frame that can no longer leave within its window is discarded (R194). -/
def State.frameLate (s : State) (p : Fin 64) : State :=
  match (s.lport p).timed.find? fun e => match s.earliest p e with | some d => decide (d > e.deadline) | none => decide (s.rt.toNat > e.deadline) with
  | none => s
  | some e => s.discardLate p e e.l

/-- An immediate frame unsent 1 s after acceptance is discarded (R197). -/
def State.immLate (s : State) (p : Fin 64) : State :=
  match (s.lport p).imm.find? fun e => decide (s.time.lc.toNat ≥ e.at_ + 2 ^ 48) with
  | none => s
  | some e => s.discardLate p e s.rt.toNat

/-- The frame on the wire ends: it forms its report, and the wire is free (R201). -/
def State.txEnd (s : State) (p : Fin 64) : State :=
  let x := s.lport p
  match x.wire with
  | none => s
  | some w =>
    let s := s.setLport p { x with wire := none, from_ := s.time.lc.toNat }
    let s := (s.bump R.PRT_TX_FRAMES p).obs 2 (p.val * 16 + 1)
    match w.entry with
    | none => s
    | some e => s.report p e w.a w.ver w.status w.err w.degraded w.sn

/-! ### The schedule cycle (R191, R192) -/

/-- A write of LCH_MASK_COMMIT: the shadow is pending; while it is, the write is ignored (R192). -/
def State.maskCommit (s : State) (p : Fin 64) (v : Word) : State :=
  if s.flag R.LCH_PSTAT_COMMIT_PENDING p then s.lchEvt 5
  else if v.getLsbD 0 then s.setFlag R.LCH_PSTAT_COMMIT_PENDING p true else s

/-- The pending shadow becomes the active mask at the boundary of the running cycle, since which it decides what may start (R192). -/
def State.maskApply (s : State) (p : Fin 64) : State :=
  if s.flag R.LCH_PSTAT_COMMIT_PENDING p then
    let s := (s.set R.LCH_MASK_ACTIVE p (s.get R.LCH_MASK_SHADOW p)).setFlag R.LCH_PSTAT_COMMIT_PENDING p false
    (s.setLport p { s.lport p with maskRt := ceilDiv (s.rtMs * 2 ^ 48) 1000 }).lchEvt 3
  else s

/-- A schedule cycle begins: masks and the steering table apply, and recalibrations that fall due without cover are deferred (R176,
R191, R192, R212). After a negative step the next cycle is the next one of the new RT. -/
def State.cycleBoundary (s : State) : State :=
  let m := s.rtMs
  let old := s.prt.cycle
  let s := { s with prt := { s.prt with cycle := m } }
  if m = old then s
  else
    let s := (List.finRange 64).foldl (fun s p => s.maskApply p) s
    let s := s.steerApply
    (List.finRange 68).foldl (fun s i => s.run (unitOf i) (·.recalDefer i)) s

/-! ### Meanings -/

/-- FRAME_READY (R194). -/
def execFrameReady (p : Fin 64) (s : State) : Host.Outcome State Fault Refusal := done (s.frameReady p)

/-- FRAME_LAUNCH (R194). -/
def execFrameLaunch (p : Fin 64) (q : LaunchQueue) (phase : BitVec 16) (bitIdx : Byte) (s : State) : Host.Outcome State Fault Refusal :=
  done (s.run (p.val / 8) (·.frameLaunch p q phase bitIdx))

/-- FRAME_LATE (R194). -/
def execFrameLate (p : Fin 64) (s : State) : Host.Outcome State Fault Refusal := done (s.frameLate p)

/-- IMMEDIATE_LATE (R197). -/
def execImmediateLate (p : Fin 64) (s : State) : Host.Outcome State Fault Refusal := done (s.immLate p)

/-- FRAME_TX_END (R201). -/
def execFrameTxEnd (p : Fin 64) (s : State) : Host.Outcome State Fault Refusal := done (s.run (p.val / 8) (·.txEnd p))

/-- REPORT_MOVE (R203). -/
def execReportMove (p : Fin 64) (s : State) : Host.Outcome State Fault Refusal := done (s.reportMove p)

/-- SCHEDULE_CYCLE_BOUNDARY (R191). -/
def execScheduleCycleBoundary (s : State) : Host.Outcome State Fault Refusal := done s.cycleBoundary

end Sys2Proof.Machine
end

