-- ==== Sys2Proof/Machine/Pck.lean ====
section
/-! DEFINITION. PCK: attachments, Pack frames, partners, the uplink and time transfer (R324 to R338), and BRC's own frames, which PCK sends
(R340). -/

namespace Sys2Proof.Machine

/-! ### Attachments (R324) -/

/-- The hidden state of an attachment. -/
def State.att (s : State) (i : Fin 68) : AttSt := s.pck.att[i]

/-- The state with an attachment's hidden state replaced. -/
def State.setAtt (s : State) (i : Fin 68) (x : AttSt) : State := { s with pck := { s.pck with att := s.pck.att.set i x } }

/-- An event bit of PCK_EVT (R348). -/
def State.pckEvt (s : State) (b : Nat) : State := s.raiseBit R.PCK_EVT 0 b

/-- Whether a port is enabled for Pack traffic. -/
def State.packPort (s : State) (p : Fin 64) : Bool := (s.get R.PCK_PORT_EN).testBit p.val

/-- Whether an attachment carries Pack traffic (R324). -/
def State.carries (s : State) (i : Fin 68) : Bool :=
  s.flag R.PCK_CFG_ENABLE && s.linkState i == lkUP &&
    match portOf i with
    | none => true
    | some p => s.packPort p && decide (s.linkMode i ≥ 2)

/-- CFG_ERR: a port of PCK_PORT_EN in MODE 0 or 1 (R324). -/
def State.packCfgSync (s : State) : State :=
  s.setFlag R.PCK_STAT_CFG_ERR 0 ((List.finRange 64).any fun p => s.packPort p && decide (s.get R.PRT_STAT_MODE_ACT p ≤ 1))

/-- The partner states of R330. -/
def paNONE := 0
def paARRIVING := 1
def paUP := 2
def paHOLDOFF := 3

/-- PCK_ATT_STAT.STATE. -/
def State.partner (s : State) (i : Fin 68) : Nat := s.get R.PCK_ATT_STAT_STATE i

/-! ### Frames (R325 to R327) -/

/-- The key of the CMAC unit: the first 16 bytes of the derived key. -/
def State.packKey (s : State) : Option (List Byte) := s.sec.pckKey.map fun d => (digestBytes d.key).take 16

/-- A Pack frame from its header on (R326), with a CMAC of zeros where no key is held (R327). -/
def State.packBody (s : State) (typ dst seq : Nat) (payload : List Byte) : List Byte :=
  let h := beBytes 1 1 ++ beBytes 1 typ ++ beBytes 2 (s.get R.PCK_NODE) ++ beBytes 2 dst ++ beBytes 2 seq ++ beBytes 2 payload.length ++ payload
  h ++ (match s.packKey with | some k => cmac k h | none => List.replicate 16 0#8)

/-- The MAC address of a port, first byte first on the wire. -/
def State.portMac (s : State) (p : Fin 64) : List Byte := beBytes 6 (s.get R.PRT_MAC1 p * 2 ^ 32 + s.get R.PRT_MAC0 p)

/-- The group address of Pack frames (R325). -/
def packGroup : List Byte := [0x01, 0x80, 0xC2, 0x00, 0x00, 0x0E]

/-- A frame padded with zeros to 60 bytes. -/
def pad60 (b : List Byte) : List Byte := b ++ List.replicate (60 - b.length) 0#8

/-- A frame takes the Pack slot of a port, or is lost where the slot holds one (R325). -/
def State.packSlot (s : State) (p : Fin 64) (f : PackFrame) : State :=
  if (s.lport p).pack.isSome then s else s.setLport p { s.lport p with pack := some f }

/-- PCK sends a frame on an attachment (R325): on a port it takes the Pack slot, and of a PRP pair those of both ports with one trailer number
(R184); on a Pack link it leaves at once. The source address of a Pack link is not stated: free. -/
def State.packPut (s : State) (i : Fin 68) (body : List Byte) : State :=
  match portOf i with
  | some p =>
    let b := pad60 (packGroup ++ s.portMac p ++ beBytes 2 (s.get R.PCK_ETYPE) ++ body)
    match s.workPair p with
    | none => s.packSlot p { bytes := b, rct := none, own := true }
    | some j =>
      let (n, s) := s.takeRct (evenPort j)
      (s.packSlot p { bytes := b, rct := some n, own := true }).packSlot (twin p) { bytes := b, rct := some n, own := false }
  | none =>
    let src := leBytes 6 (Config.freeBits 48 s.draw).toNat
    let x := s.att i
    (s.drawn).setAtt i { x with out := x.out ++ [pad60 (packGroup ++ src ++ beBytes 2 (s.get R.PCK_ETYPE) ++ body)] }

/-- A frame of a TYPE with its own next SEQ (R326). -/
def State.packSend (s : State) (i : Fin 68) (typ : Fin 5) (dst : Nat) (payload : List Byte) : Nat × State :=
  let x := s.att i
  let seq := x.txSeq[typ]
  let s := s.setAtt i { x with txSeq := x.txSeq.set typ ((seq + 1) % 65536) }
  (seq, s.packPut i (s.packBody typ.val dst seq payload))

/-- The partner's identifier. -/
def State.partnerId (s : State) (i : Fin 68) : Nat := s.get R.PCK_ATT_PARTNER_NODE i

/-- Payload bytes of a TYPE (R329, R335, R340). -/
def packLen (typ : Nat) : Nat := if typ = 0 then 32 else if typ = 1 then 0 else if typ = 2 then 12 else if typ = 3 then 20 else 16

/-- A received frame from its header on is checked (R326, R327): taken, or dropped with its counter. -/
def State.packCheck (s : State) (i : Fin 68) (b : List Byte) (ts : Option Nat) (ver : Nat) (degraded : Bool) : Option PackRx × State :=
  let typ := beAt b 1 1
  let len := beAt b 8 2
  if !s.flag R.PCK_CFG_ENABLE then (none, s)
  else if beAt b 0 1 ≠ 1 || typ > 4 || len ≠ packLen typ || b.length < 26 + len then (none, s.bump R.PCK_BAD_FRAME)
  else
    let ok := match s.packKey with | some k => cmac k (b.take (10 + len)) == slice b (10 + len) 16 | none => false
    if s.flag R.PCK_CFG_AUTH_REQ && !ok then
      let s := ((s.bump R.PCK_AUTH_FAIL).pckEvt 4).obs 9 2
      (none, if s.pck.authSec == some s.rtSec then s
             else ({ s with pck := { s.pck with authSec := some s.rtSec } }).raise fsPckAuthFail i.val)
    else
      (some { att := i, typ := typ, src := beAt b 2 2 % 2 ^ 14, seq := beAt b 6 2, payload := slice b 10 len, ts := ts, ver := ver, degraded := degraded
              auth := s.flag R.PCK_CFG_AUTH_REQ && ok }, s)

/-- A frame off a Pack link, with its timestamp when the link issues them (R338). -/
def State.packOffLink (s : State) (l : Fin 4) (bytes : List Byte) (phase : BitVec 16) (bitIdx : Byte) : Option PackRx × State :=
  let i : Fin 68 := ⟨l.val, by omega⟩
  let st := s.linkState i
  if st ≠ lkUP ∧ st ≠ lkSETTLE then (none, s)
  else if beAt bytes 12 2 ≠ s.get R.PCK_ETYPE then (none, s)
  else
    let (t, ver, _) := s.stamp i false phase bitIdx
    s.packCheck i (bytes.drop 14) (if s.tsReady i then some t.toNat else none) ver (s.linkDegraded i)

/-- The frame that a receive command is about, when it is of a TYPE: off a Pack link, or the oldest that a parser delivered. -/
def State.packTake (s : State) (src : PackSrc) (typ : Nat) (f : PackRx → State → State) : State :=
  match src with
  | .link l bytes phase bitIdx =>
    match s.packOffLink l bytes phase bitIdx with
    | (some r, t) => if r.typ = typ then f r t else s
    | (none, t) => t
  | .queued =>
    match s.pck.rx with
    | [] => s
    | r :: q => if r.typ = typ then f r { s with pck := { s.pck with rx := q } } else s

/-! ### Roll call (R328, R329) -/

/-- PCK_GM shows a grandmaster: none, or its identifier, priority and class. -/
def State.setGm (s : State) (g : Option (Nat × Nat × Nat)) : State :=
  match g with
  | none => (((s.set R.PCK_GM_GM_ID 0 0).setFlag R.PCK_GM_GM_VALID 0 false).set R.PCK_GM_GM_PRIO 0 0).set R.PCK_GM_GM_CLASS 0 0xF8
  | some (id, prio, cls) =>
    (((s.set R.PCK_GM_GM_ID 0 id).setFlag R.PCK_GM_GM_VALID 0 true).set R.PCK_GM_GM_PRIO 0 prio).set R.PCK_GM_GM_CLASS 0 cls

/-- The attachment of the uplink, if there is one. -/
def State.uplinkAtt (s : State) : Option (Fin 68) :=
  let a := s.get R.PCK_STAT_UPLINK_ATT
  if h : a < 68 then some ⟨a, h⟩ else none

/-- Own DEPTH and grandmaster follow the uplink, or the node's own role (R331, R332). -/
def State.packFollow (s : State) : State :=
  if s.flag R.PCK_CFG_ROLE then
    (s.set R.PCK_STAT_DEPTH 0 0).setGm (some (s.get R.PCK_NODE, s.get R.PCK_CFG_GM_PRIO, s.get R.LSH_STAT_CLOCK_CLASS))
  else match s.uplinkAtt with
    | none => (s.set R.PCK_STAT_DEPTH 0 63).setGm none
    | some i =>
      let s := s.set R.PCK_STAT_DEPTH 0 (s.get R.PCK_ATT_STAT_P_DEPTH i + 1)
      let s := s.set R.PCK_GM_SEQ 0 (s.get R.PCK_ATT_SEQ i)
      s.setGm (some (s.get R.PCK_ATT_PARTNER_P_GM_ID i, (s.att i).gmPrio, (s.att i).gmClass))

/-- The 32 bytes of a ROLL payload (R329). -/
def State.rollPayload (s : State) : List Byte :=
  let brace := s.flag R.BRC_CFG_ENABLE
  let id16 := fun (v : Bool) (x : Nat) => beBytes 2 (if v then x else 0xFFFF)
  beBytes 1 (b2n (s.flag R.PCK_CFG_ROLE)) ++ beBytes 1 (s.get R.PCK_STAT_DEPTH) ++ beBytes 2 (s.get R.LSH_STAT_FLAGS + b2n brace * 256)
    ++ id16 (s.flag R.PCK_UPLINK_VALID) (s.get R.PCK_UPLINK_NODE) ++ id16 (s.flag R.PCK_GM_GM_VALID) (s.get R.PCK_GM_GM_ID)
    ++ beBytes 1 (s.get R.PCK_GM_GM_PRIO) ++ beBytes 1 (s.get R.PCK_GM_GM_CLASS) ++ beBytes 2 0 ++ beBytes 4 (s.get R.PCK_GM_SEQ)
    ++ beBytes 6 (s.get R.LSH_CORE) ++ (if brace then leBytes 8 (s.get R.SRV_CLOCK_ID) else List.replicate 8 0#8) ++ beBytes 2 0

/-- The attachments that carry Pack traffic. -/
def State.carriers (s : State) : List (Fin 68) := (List.finRange 68).filter s.carries

/-- Whether the roll call of the running RT second is due: once per second, (ID mod 1,000) ms after its boundary (R329). -/
def State.rollDue (s : State) : Bool :=
  s.flag R.PCK_CFG_ENABLE && s.pck.rollSec != some s.rtSec && decide (s.get R.PCK_NODE % 1000 * 2 ^ 48 ≤ s.rt.toNat % 2 ^ 48 * 1000)

/-- A ROLL on every attachment; a grandmaster's GM_SEQ rises first (R329, R332). -/
def State.rollSend (s : State) : State :=
  if !s.rollDue then s
  else
    let s := ({ s with pck := { s.pck with rollSec := some s.rtSec } } : State).packCfgSync
    let s := if s.flag R.PCK_CFG_ROLE then s.bumpW R.PCK_GM_SEQ else s
    let s := s.packFollow
    let p := s.rollPayload
    s.carriers.foldl (fun s i => ((s.packSend i 0 0xFFFF p).2).obs 9 3) s

/-! ### Eligibility and ranking (R332, R333) -/

/-- DEPTH_MAX: 0 reads as 1. -/
def State.depthMax (s : State) : Nat := Nat.max 1 (s.get R.PCK_CFG_DEPTH_MAX)

/-- Whether a partner is eligible as uplink (R332). -/
def State.eligible (s : State) (i : Fin 68) : Bool :=
  let x := s.att i
  s.partner i == paUP && s.flag R.PCK_ATT_PARTNER_P_GM_VALID i && decide (s.get R.PCK_ATT_STAT_P_DEPTH i < s.depthMax) && x.uplink != s.get R.PCK_NODE
    && (match x.seqLc with
        | some l => decide (s.time.lc.toNat - l ≤ s.get R.PCK_TIMERS_DEPART_HOLD * 2 ^ 48)
        | none => false)

/-- Keys 1 to 3, and 4 and 5, of a candidate (R333). -/
def State.keys3 (s : State) (i : Fin 68) : List Nat := [(s.att i).gmPrio, (s.att i).gmClass, s.get R.PCK_ATT_PARTNER_P_GM_ID i]
def State.keys5 (s : State) (i : Fin 68) : List Nat := s.keys3 i ++ [s.get R.PCK_ATT_STAT_P_DEPTH i, i.val]

/-- Whether a list of keys ranks before another. -/
def ranksBefore : List Nat → List Nat → Bool
  | a :: s, b :: t => if a = b then ranksBefore s t else decide (a < b)
  | _, _ => false

/-- The best of some candidates. -/
def State.best (s : State) (cs : List (Fin 68)) : Option (Fin 68) :=
  cs.foldl (fun b c => match b with
    | none => some c
    | some x => if ranksBefore (s.keys5 c) (s.keys5 x) then some c else b) none

/-- EXCH_MS, ms. -/
def State.exchMs (s : State) : Nat := s.get R.PCK_EXCH_EXCH_MS

/-- The uplink becomes another partner, or none (R334); records are withheld for five exchange intervals. -/
def State.setUplink (s : State) (u : Option (Fin 68)) : State :=
  let s := match s.uplinkAtt with
    | some i => s.setFlag R.PCK_ATT_STAT_UPLINK i false
    | none => s
  let s := match u with
    | some i =>
      let s := ((s.set R.PCK_STAT_UPLINK_ATT 0 i.val).setFlag R.PCK_ATT_STAT_UPLINK i true).set R.PCK_UPLINK_NODE 0 (s.partnerId i)
      s.setFlag R.PCK_UPLINK_VALID 0 true
    | none => (s.set R.PCK_STAT_UPLINK_ATT 0 0x7F).setFlag R.PCK_UPLINK_VALID 0 false
  let hold := s.time.lc.toNat + ceilDiv (5 * s.exchMs * 2 ^ 48) 1000
  let s := ({ s with pck := { s.pck with withhold := some hold } }).bump R.PCK_UPLINK_CHANGES
  (s.pckEvt 2).packFollow

/-- A candidate that ranks better than the uplink under keys 1 to 3 is timed; the break of that ends its time (R333). -/
def State.timeBetter (s : State) (i : Fin 68) : State :=
  let b := match s.uplinkAtt with
    | some u => u != i && s.eligible i && ranksBefore (s.keys3 i) (s.keys3 u)
    | none => false
  let x := s.att i
  s.setAtt i { x with better := if b then (match x.better with | some l => some l | none => some s.time.lc.toNat) else none }

/-- PCK_NO_UPLINK follows (R331). -/
def State.noUplinkSync (s : State) : State :=
  let none_ := s.flag R.PCK_CFG_ENABLE && !s.flag R.PCK_CFG_ROLE && s.uplinkAtt.isNone
  let s := if none_ && !s.active fsPckNoUplink then s.pckEvt 5 else s
  s.level fsPckNoUplink none_

/-- ELIGIBLE of every attachment, and the uplink: one that is no longer eligible or UP gives way to the best candidate at once (R332, R333). -/
def State.uplinkEval (s : State) : State :=
  let s := (List.finRange 68).foldl (fun s i => s.setFlag R.PCK_ATT_STAT_ELIGIBLE i (s.eligible i)) s
  let s := if s.flag R.PCK_CFG_ROLE then (if s.uplinkAtt.isSome then s.setUplink none else s)
    else
      let keep := match s.uplinkAtt with | some u => s.eligible u | none => false
      if keep then s
      else
        let c := s.best ((List.finRange 68).filter s.eligible)
        if c == s.uplinkAtt then s else s.setUplink c
  let s := (List.finRange 68).foldl (fun s i => s.timeBetter i) s
  s.packFollow.noUplinkSync

/-- A candidate has ranked better for REVERT_HOLD seconds without a break (R333). -/
def State.uplinkRevert (s : State) : State :=
  let s := s.uplinkEval
  let due := (List.finRange 68).filter fun i =>
    match (s.att i).better with
    | some l => decide (s.time.lc.toNat - l ≥ s.get R.PCK_EXCH_REVERT_HOLD * 2 ^ 48)
    | none => false
  match s.best due with
  | some i => (s.setUplink (some i)).uplinkEval
  | none => s

/-- The withholding of R334 ends. -/
def State.withholdEnd (s : State) : State :=
  match s.pck.withhold with
  | some l => if s.time.lc.toNat ≥ l then { s with pck := { s.pck with withhold := none } } else s
  | none => s

/-! ### Partners (R330) -/

/-- PARTNER_SERVING follows (R176, R349). -/
def State.servingSync (s : State) : State :=
  let st := s.get R.BRC_STAT_PAIR_STATE
  s.setFlag R.BRC_STAT_PARTNER_SERVING 0 ((st == 2 || st == 4) && !s.flag R.BRC_STAT_PARTNER_MUTED)

/-- The attachment of the Brace partner. -/
def State.braceAtt (s : State) : Option (Fin 68) :=
  let a := s.get R.BRC_CFG_ATT
  if h : a < 68 then some ⟨a, h⟩ else none

/-- The device unmutes (R347). -/
def State.unmute (s : State) : State :=
  if s.flag R.BRC_STAT_MUTED then ((s.setFlag R.BRC_STAT_MUTED 0 false).raiseBit R.BRC_EVT 0 4).levelOff fsBrcMuted else s

/-- The partner leaves UP: the pair is ALONE, and a muted device unmutes at once (R344, R347). -/
def State.braceLost (s : State) : State :=
  let st := s.get R.BRC_STAT_PAIR_STATE
  let s := s.unmute
  if st = 2 || st = 4 then
    let s := ((s.set R.BRC_STAT_PAIR_STATE 0 3).raiseBit R.BRC_EVT 0 1).set R.BRC_STAT_VERDICT 0 0
    let s := { s with brc := { s.brc with above := 0, under := 0 } }
    ((s.levelOff fsBrcDisagree).raise fsBrcPartnerLost).servingSync
  else s

/-- A partner enters a state; one that leaves UP ends a Brace pairing on its attachment. -/
def State.partnerMove (s : State) (i : Fin 68) (st : Nat) : State :=
  let was := s.partner i
  let s := s.set R.PCK_ATT_STAT_STATE i st
  let s := if st = paNONE then s.setFlag R.PCK_ATT_PARTNER_VALID i false else s
  let s := if st = paUP then s.pckEvt 0 else s
  let s := if st = paHOLDOFF then ((s.pckEvt 1).bump R.PCK_ATT_CNT_LOSSES i).setAtt i { s.att i with since := s.time.lc.toNat, unanswered := 0 } else s
  if was = paUP && st ≠ paUP && s.flag R.BRC_CFG_ENABLE && s.braceAtt == some i then s.braceLost else s

/-- What a ROLL says of its sender goes to the registers (R329, R348). -/
def State.rollTake (s : State) (i : Fin 68) (r : PackRx) : State :=
  let p := r.payload
  let x := s.att i
  let seq := beAt p 12 4
  let gm := beAt p 6 2
  let up := s.flag R.PCK_ATT_PARTNER_VALID i && decide (seq > s.get R.PCK_ATT_SEQ i)
  let s := s.setAtt i { x with gmPrio := beAt p 8 1, gmClass := beAt p 9 1, uplink := beAt p 4 2, clockId := slice p 22 8, leash := beAt p 16 6
                               rollLc := s.time.lc.toNat, rollSec := s.rtSec, seqLc := if up then some s.time.lc.toNat else x.seqLc }
  let s := (s.set R.PCK_ATT_PARTNER_NODE i r.src).setFlag R.PCK_ATT_PARTNER_VALID i true
  let s := (s.set R.PCK_ATT_PARTNER_P_GM_ID i (if gm = 0xFFFF then 0 else gm)).setFlag R.PCK_ATT_PARTNER_P_GM_VALID i (gm != 0xFFFF)
  let s := (s.set R.PCK_ATT_STAT_P_DEPTH i (beAt p 1 1)).setFlag R.PCK_ATT_STAT_BRACE i ((beAt p 2 2).testBit 8)
  s.set R.PCK_ATT_SEQ i seq

/-- A ROLL advances the partner state of its attachment (R328, R330). -/
def State.rollReceive (s : State) (r : PackRx) : State :=
  let i := r.att
  if !s.carries i then s
  else if r.src = s.get R.PCK_NODE then (s.pckEvt 3).raise fsPckNodeConflict i.val
  else
    let s := if s.flag R.PCK_ATT_PARTNER_VALID i && s.partnerId i ≠ r.src then
        (s.partnerMove i paNONE).setAtt i { AttSt.reset with txSeq := (s.att i).txSeq, out := (s.att i).out }
      else s
    let x := s.att i
    let again := s.partner i == paARRIVING && x.rollSec == s.rtSec
    let n := if s.partner i = paARRIVING then (if again then x.rolls else x.rolls + 1) else 1
    let st := s.partner i
    let s := s.rollTake i r
    let s := if st = paNONE || st = paARRIVING then
        let s := s.setAtt i { s.att i with rolls := n }
        if n ≥ s.get R.PCK_TIMERS_ARRIVE_HOLD then s.partnerMove i paUP
        else if st = paNONE then s.partnerMove i paARRIVING else s
      else s
    s.uplinkEval

/-- One second without a ROLL returns an ARRIVING partner to NONE (R330). -/
def State.arriveTimeout (s : State) (i : Fin 68) : State :=
  if s.partner i = paARRIVING && s.time.lc.toNat - (s.att i).rollLc ≥ 2 ^ 48 then s.partnerMove i paNONE else s

/-- Whether an UP partner departs (R330). -/
def State.departs (s : State) (i : Fin 68) : Bool :=
  let x := s.att i
  !s.carries i || decide (s.time.lc.toNat - x.rollLc ≥ s.get R.PCK_TIMERS_DEPART_HOLD * 2 ^ 48) || decide (x.unanswered ≥ 8)

/-- A partner departs: HOLDOFF, and another uplink at once (R330, R333). -/
def State.depart (s : State) (i : Fin 68) : State :=
  if s.partner i = paUP && s.departs i then (s.partnerMove i paHOLDOFF).uplinkEval else s

/-- REARM_HOLD seconds have passed (R330). -/
def State.rearm (s : State) (i : Fin 68) : State :=
  if s.partner i = paHOLDOFF && s.time.lc.toNat - (s.att i).since ≥ s.get R.PCK_TIMERS_REARM_HOLD * 2 ^ 48 then s.partnerMove i paNONE else s

/-! ### Exchanges (R335 to R337) -/

/-- An exchange is void (R336). -/
def State.exVoid (s : State) (i : Fin 68) : State :=
  let x := s.att i
  match x.ex with
  | none => s
  | some _ => ((s.setAtt i { x with ex := none, unanswered := x.unanswered + 1 }).bump R.PCK_ATT_CNT_VOID i).obs 9 1

/-- Whether EXCH_MS have passed since the last exchange of an attachment started (R335). -/
def State.exDue (s : State) (i : Fin 68) : Bool :=
  match (s.att i).exLc with
  | some l => s.passed l (s.exchMs * 1000)
  | none => true

/-- A T_REQ is sent to an UP partner, EXCH_MS after the last; an exchange still open is void (R335, R336). -/
def State.exStart (s : State) (i : Fin 68) : State :=
  if s.partner i ≠ paUP || !s.carries i || !s.exDue i then s
  else
    let s := s.exVoid i
    let (seq, s) := s.packSend i 1 (s.partnerId i) []
    let now := s.time.lc.toNat
    s.setAtt i { s.att i with exLc := some now, ex := some { seq := seq, start := now, t1 := none, t2 := none, t4 := none, ver := 0, at_ := none, degraded := false, auth := true } }

/-- Whether a frame comes from the UP partner of its attachment. -/
def State.fromPartner (s : State) (r : PackRx) : Bool := s.carries r.att && s.partner r.att == paUP && s.partnerId r.att == r.src

/-- A T_REQ is answered at once with t2 (R335); without t2 there is nothing to answer with. -/
def State.reqReceive (s : State) (r : PackRx) : State :=
  match r.ts with
  | none => s
  | some t2 =>
    if !s.fromPartner r then s
    else
      let s := s.setAtt r.att { s.att r.att with reply := some (r.seq, r.degraded) }
      s.packPut r.att (s.packBody 2 r.src r.seq (beBytes 12 t2))

/-- A T_RESP arrives at t4 (R335). -/
def State.respReceive (s : State) (r : PackRx) : State :=
  let x := s.att r.att
  match x.ex with
  | none => s
  | some e =>
    if !s.fromPartner r || e.seq ≠ r.seq then s
    else s.setAtt r.att { x with ex := some { e with t2 := some (beAt r.payload 0 12), t4 := r.ts, ver := r.ver, at_ := some s.time.lc.toNat
                                                     degraded := e.degraded || r.degraded, auth := e.auth && r.auth } }

/-- The Leash of a timestamp of an attachment, by the tables in force on its tick (R238, R335). -/
def State.attLeash (s : State) (i : Fin 68) (t : Nat) (degraded : Bool) : Nat :=
  match portOf i with
  | some p => s.tsLeash p t degraded false
  | none =>
    let core := if t / 2 ^ 48 < s.get R.LSH_SEC then s.get R.LSH_CORE_PREV else s.get R.LSH_CORE
    let x := s.storeOf t
    lsat (core + x.sealedTerm (x.tableOff i + 0x18) + x.sealedTerm 0xD0C + (if degraded then x.sealedTerm 0xD00 else 0))

/-- FLAGS of the LEASH TLV for a timestamp: its DEGRADED added (R247). -/
def State.tlvFlags (s : State) (degraded : Bool) : Nat := if degraded then s.get R.LSH_STAT_FLAGS ||| 2 else s.get R.LSH_STAT_FLAGS

/-- A transmit timestamp comes back for a Pack frame (R325, R335): t1 of a T_REQ; t3 of a T_RESP, which sends the T_FUP. -/
def State.txStamped (s : State) (i : Fin 68) (frame : List Byte) (ts : Option Nat) (degraded : Bool) : State :=
  let b := frame.drop 14
  let x := s.att i
  match beAt b 1 1, ts with
  | 1, some t =>
    match x.ex with
    | some e => if e.seq = beAt b 6 2 then s.setAtt i { x with ex := some { e with t1 := some t, degraded := e.degraded || degraded } } else s
    | none => s
  | 2, some t =>
    match x.reply with
    | some (q, d2) =>
      if q ≠ beAt b 6 2 then s
      else
        let s := s.setAtt i { x with reply := none }
        let d := d2 || degraded
        s.packPut i (s.packBody 3 (beAt b 4 2) q (beBytes 12 t ++ beBytes 6 (s.attLeash i t degraded) ++ beBytes 1 (s.get R.LSH_STAT_CLOCK_CLASS)
          ++ beBytes 1 (s.tlvFlags d)))
    | none => s
  | _, _ => s

/-- The timestamp of the oldest frame of a Pack link whose SFD leaves now, or of the Pack frame that a port has launched (R325, R338). -/
def State.packTxStamp (s : State) (i : Fin 68) (phase : BitVec 16) (bitIdx : Byte) : State :=
  match portOf i with
  | none =>
    let x := s.att i
    match x.out with
    | [] => s
    | f :: q =>
      let (t, _, _) := s.stamp i true phase bitIdx
      (s.setAtt i { x with out := q }).txStamped i f (if s.tsReady i then some t.toNat else none) (s.linkDegraded i)
  | some p =>
    let x := s.lport p
    match x.packTs with
    | none => s
    | some (f, t, d) => (s.setLport p { x with packTs := none }).txStamped i f (some t) d

/-- LINK_ASYM of an attachment, 2⁻⁴⁸ s (R173). -/
def State.attAsym (s : State) (i : Fin 68) : Int := ps16ToUnits (s.tab32 i 0x14)

/-- The 64-byte record of an exchange (R336). Its MEAS_PS, the 6σ of the offset estimate, is formed by means the manual does not state. -/
def State.packRecord (s : State) (i : Fin 68) (x : ExRec) (ofs : Int) (interval seq meas : Nat) : List Byte :=
  leBytes 12 x.t4 ++ leBytes 8 (trunc 64 ofs) ++ leBytes 8 (trunc 64 x.mpd) ++ leBytes 4 interval ++ leBytes 4 meas ++ leBytes 6 x.leash ++ leBytes 1 x.cls
    ++ leBytes 1 0xFF ++ leBytes 2 seq ++ leBytes 2 x.ver ++ leBytes 2 (b2n x.auth + 2 + b2n x.degraded * 4 + 8)
    ++ leBytes 2 (s.partnerId i) ++ leBytes 1 (s.get R.PCK_STAT_DEPTH) ++ leBytes 1 i.val ++ List.replicate 10 0#8

/-- The uplink's record of an exchange, unless records are withheld (R334, R336). -/
def State.uplinkRecord (s : State) (i : Fin 68) (x : ExRec) : State :=
  if s.uplinkAtt != some i || s.pck.withhold.isSome then s
  else
    let n := s.pck.recSeq
    let b := s.packRecord i x x.ofs (s.get R.PCK_EXCH_EXCH_MS) n (Config.freeNat s.draw % 2 ^ 32)
    (({ s with pck := { s.pck with recSeq := (n + 1) % 65536 } }).drawn).inletPut 4 b

/-- A complete exchange (R336): offset and mean path delay, halves rounded to nearest. -/
def State.exDone (s : State) (i : Fin 68) (e : Exch) (r : PackRx) (t1 t2 t4 : Nat) : State :=
  let t3 := beAt r.payload 0 12
  let mpd := roundDiv (((t2 : Int) - t1) + ((t4 : Int) - t3)) 2
  let ofs := (t3 : Int) + mpd + s.attAsym i - t4
  let degr := e.degraded || r.degraded || (beAt r.payload 19 1).testBit 1
  let x : ExRec := { t4 := t4, ofs := ofs, mpd := mpd, leash := beAt r.payload 12 6, cls := beAt r.payload 18 1, ver := e.ver, auth := e.auth && r.auth
                     degraded := degr }
  let s := s.setAtt i { s.att i with ex := none, unanswered := 0, rec_ := some x }
  let s := ((s.set R.PCK_ATT_OFS i (trunc 64 ofs)).set R.PCK_ATT_MPD i (trunc 64 mpd)).set R.PCK_ATT_LEASH i x.leash
  let s := s.obs 9 0
  let s := if s.flag R.BRC_CFG_ENABLE && s.braceAtt == some i then { s with brc := { s.brc with ofs := s.brc.ofs ++ [ofs] } } else s
  s.uplinkRecord i x

/-- A T_FUP completes an exchange that has every timestamp; otherwise the exchange is void (R335, R336). -/
def State.fupReceive (s : State) (r : PackRx) : State :=
  match (s.att r.att).ex with
  | none => s
  | some e =>
    if !s.fromPartner r || e.seq ≠ r.seq then s
    else match e.t1, e.t2, e.t4 with
      | some t1, some t2, some t4 => s.exDone r.att e r t1 t2 t4
      | _, _, _ => s.exVoid r.att

/-- 10 ms after t4 without a T_FUP, or with a timestamp missing, the exchange is void (R336). One without a T_RESP is void once the next is due
(DESIGN CHOICE, log entry 101: the manual names no wait for a T_RESP). -/
def State.exTimeout (s : State) (i : Fin 68) : State :=
  match (s.att i).ex with
  | none => s
  | some e =>
    match e.at_ with
    | some l => if s.passed l 10000 || e.t1.isNone || e.t4.isNone then s.exVoid i else s
    | none => if s.passed e.start (s.exchMs * 1000) then s.exVoid i else s

/-! ### Meanings -/

/-- ROLL_SEND (R329). -/
def execRollSend (s : State) : Host.Outcome State Fault Refusal := done (s.run 10 (·.rollSend))

/-- PARTNER_ARRIVE_TIMEOUT (R330). -/
def execPartnerArriveTimeout (i : Fin 68) (s : State) : Host.Outcome State Fault Refusal :=
  done (s.run 10 (·.arriveTimeout i))

/-- PARTNER_DEPART (R330). -/
def execPartnerDepart (i : Fin 68) (s : State) : Host.Outcome State Fault Refusal :=
  done (s.run 10 (·.depart i))

/-- PARTNER_REARM (R330). -/
def execPartnerRearm (i : Fin 68) (s : State) : Host.Outcome State Fault Refusal :=
  done (s.run 10 (·.rearm i))

/-- UPLINK_REVERT (R333). -/
def execUplinkRevert (s : State) : Host.Outcome State Fault Refusal := done (s.run 10 (·.uplinkRevert))

/-- UPLINK_WITHHOLD_END (R334). -/
def execUplinkWithholdEnd (s : State) : Host.Outcome State Fault Refusal := done (s.run 10 (·.withholdEnd))

/-- EXCHANGE_START (R335). -/
def execExchangeStart (i : Fin 68) (s : State) : Host.Outcome State Fault Refusal :=
  done (s.run 10 (·.exStart i))

/-- T_REQ_RECEIVE (R335). -/
def execTReqReceive (src : PackSrc) (s : State) : Host.Outcome State Fault Refusal :=
  done (s.run 10 (·.packTake src 1 fun r s => s.reqReceive r))

/-- T_RESP_RECEIVE (R335). -/
def execTRespReceive (src : PackSrc) (s : State) : Host.Outcome State Fault Refusal :=
  done (s.run 10 (·.packTake src 2 fun r s => s.respReceive r))

/-- PACK_TX_TIMESTAMP (R335). -/
def execPackTxTimestamp (i : Fin 68) (phase : BitVec 16) (bitIdx : Byte) (s : State) : Host.Outcome State Fault Refusal :=
  done (s.run 10 (·.packTxStamp i phase bitIdx))

/-- T_FUP_RECEIVE (R336). -/
def execTFupReceive (src : PackSrc) (s : State) : Host.Outcome State Fault Refusal :=
  done (s.run 10 (·.packTake src 3 fun r s => s.fupReceive r))

/-- EXCHANGE_VOID (R336). -/
def execExchangeVoid (i : Fin 68) (s : State) : Host.Outcome State Fault Refusal :=
  done (s.run 10 (·.exTimeout i))

end Sys2Proof.Machine
end

