-- ==== Sys2Proof/Machine/Brc.lean ====
section
/-! DEFINITION. BRC: pairing, BRACE frames, the swap of roles, comparison and muting (R339 to R347). -/

namespace Sys2Proof.Machine

/-- The state of BRC replaced. -/
def State.setBrc (s : State) (x : BrcSt) : State := { s with brc := x }

/-- BRC_STAT.PAIR_STATE: 0 OFF, 1 SEEKING, 2 PAIRED, 3 ALONE, 4 DISAGREE (R344). -/
def State.pairState (s : State) : Nat := s.get R.BRC_STAT_PAIR_STATE

/-- Whether the partner's ROLL carries BRACE and its CLOCK_ID is the device's own (R339). -/
def State.braceRoll (s : State) (i : Fin 68) : Bool :=
  s.flag R.PCK_ATT_STAT_BRACE i && (s.att i).clockId == leBytes 8 (s.get R.SRV_CLOCK_ID)

/-- Whether the partner's BRACE frames state the opposite SIDE (R339, R340). -/
def State.braceSide (s : State) : Bool :=
  match s.brc.frame with
  | some f => f.side != s.get R.BRC_CFG_SIDE
  | none => false

/-- The checks of R339. -/
def State.braceOk (s : State) : Bool :=
  match s.braceAtt with
  | some i => s.partner i == paUP && s.braceRoll i && s.braceSide
  | none => false

/-- CFG_ERR: a check of R339 fails for a partner that is UP, or a Brace port has PRP_EN set. -/
def State.braceCfgErr (s : State) : Bool :=
  let ports := (List.finRange 64).any fun p => (s.get R.BRC_PORTS).testBit p.val && (s.pairOf p).isSome
  let bad := match s.braceAtt with
    | some i => s.partner i == paUP && (!s.braceRoll i || (s.brc.frame.isSome && !s.braceSide))
    | none => false
  s.flag R.BRC_CFG_ENABLE && (ports || bad)

/-- The pair becomes PAIRED: side 0 leads on pairing (R342, R344). -/
def State.bracePair (s : State) : State :=
  let s := ((s.set R.BRC_STAT_PAIR_STATE 0 2).raiseBit R.BRC_EVT 0 0).setFlag R.BRC_STAT_LEAD 0 (!s.flag R.BRC_CFG_SIDE)
  s.setBrc { s.brc with above := 0, under := 0, propose := none, echo := none, swapAt := none }

/-- PAIR_STATE follows ENABLE and the partner (R344). -/
def State.braceEval (s : State) : State :=
  let s := if !s.flag R.BRC_CFG_ENABLE then ((s.set R.BRC_STAT_PAIR_STATE 0 0).set R.BRC_STAT_VERDICT 0 0).levelOff fsBrcDisagree
    else if s.pairState = 0 then s.set R.BRC_STAT_PAIR_STATE 0 1 else s
  let s := if (s.pairState = 1 || s.pairState = 3) && s.braceOk then s.bracePair else s
  (s.setFlag R.BRC_STAT_CFG_ERR 0 s.braceCfgErr).servingSync

/-! ### BRACE frames (R340, R343) -/

/-- Whether the device's own K-pair swaps at an RT second (R81). -/
def State.kSwapOn (s : State) (t : Nat) : Bool := s.get R.KNL_SWAP_PERIOD != 0 && t % s.get R.KNL_SWAP_PERIOD == 0

/-- The next boundary of R343 after the running second. -/
def State.nextBraceSwap (s : State) : Nat :=
  let p := Nat.max 1 (s.get R.BRC_TIMERS_SWAP_PERIOD)
  s.rtSec + 1 + (p / 2 + p - (s.rtSec + 1) % p) % p

/-- The lead proposes the boundary that comes within the next two seconds, at least 500 ms before it; the second after it where its own
K-pair swaps there (R343). -/
def State.proposal (s : State) : State :=
  let b := s.nextBraceSwap
  if s.flag R.BRC_STAT_LEAD && s.pairState == 2 && s.brc.propose.isNone && b ≤ s.rtSec + 2 && s.rt.toNat + 2 ^ 47 ≤ b * 2 ^ 48 then
    s.setBrc { s.brc with propose := some (if s.kSwapOn b then b + 1 else b) }
  else s

/-- The 16 bytes of a BRACE payload (R340). -/
def State.bracePayload (s : State) : List Byte :=
  let prop := s.brc.propose.isSome && s.flag R.BRC_STAT_LEAD
  let ech := s.brc.echo.isSome && !s.flag R.BRC_STAT_LEAD
  let at_ := if prop then s.brc.propose.getD 0 else if ech then s.brc.echo.getD 0 else 0
  beBytes 1 (s.get R.BRC_CFG_SIDE) ++ beBytes 1 (s.get R.BRC_STAT_LEAD)
    ++ beBytes 2 (s.get R.BRC_STAT_MUTED + b2n prop * 2 + b2n ech * 4 + b2n s.braceOk * 8) ++ beBytes 6 at_
    ++ beBytes 1 (if s.pairState = 4 then s.get R.BRC_STAT_VERDICT else 0) ++ beBytes 1 s.pairState ++ beBytes 4 0

/-- What a BRACE frame says of MUTED, VERDICT, PAIR_STATE, role, proposal and echo: a change of any asks for a further frame (R340). -/
def State.braceSays (s : State) : List Nat :=
  let sec := fun (x : Option Nat) => match x with | some t => t + 1 | none => 0
  [s.get R.BRC_STAT_MUTED, s.get R.BRC_STAT_VERDICT, s.pairState, s.get R.BRC_STAT_LEAD, sec s.brc.propose, sec s.brc.echo]

/-- The newest second whose roll call is 500 ms past, where there is one (R340). -/
def State.braceSlot (s : State) : Option Nat :=
  let off := ceilDiv ((s.get R.PCK_NODE % 1000 + 500) * 2 ^ 48) 1000
  if off ≤ s.rt.toNat then some ((s.rt.toNat - off) / 2 ^ 48) else none

/-- Whether a BRACE frame is due: one per RT second 500 ms after its ROLL, and one after each change of what it says (R340). -/
def State.braceDue (s : State) : Bool :=
  (s.braceSlot.isSome && s.braceSlot != s.brc.sendSec) || s.braceSays != s.brc.said

/-- A BRACE frame is sent on the Brace attachment when one is due (R340). -/
def State.braceSend (s : State) : State :=
  match s.braceAtt with
  | some i =>
    if s.flag R.BRC_CFG_ENABLE && s.carries i then
      let s := s.proposal
      if s.braceDue then
        let s := s.setBrc { s.brc with sendSec := s.braceSlot, said := s.braceSays }
        (s.packSend i 4 (s.partnerId i) s.bracePayload).2
      else s
    else s
  | none => s

/-- A proposal is echoed, the second after it where this device's K-pair swaps on it; the echo names the swap (R343). -/
def State.takeProposal (s : State) (f : BraceFrame) : State :=
  if f.flags.testBit 1 && !s.flag R.BRC_STAT_LEAD then
    let e := if s.kSwapOn f.swapAt then f.swapAt + 1 else f.swapAt
    s.setBrc { s.brc with echo := some e, swapAt := some e }
  else s

/-- An echo that comes at least 100 ms before the boundary fixes the swap (R343). -/
def State.takeEcho (s : State) (f : BraceFrame) : State :=
  match s.brc.propose with
  | some b =>
    if f.flags.testBit 2 && s.flag R.BRC_STAT_LEAD && s.brc.swapAt.isNone && (s.rt.toNat * 10 + 2 ^ 48 ≤ b * 2 ^ 48 * 10) then
      s.setBrc { s.brc with swapAt := some f.swapAt }
    else s
  | none => s

/-- The partner's newest BRACE frame is kept (R340); a partner that reports MUTED unmutes this device at once (R347). -/
def State.braceReceive (s : State) (r : PackRx) : State :=
  if !s.flag R.BRC_CFG_ENABLE || s.braceAtt != some r.att || !s.fromPartner r then s
  else
    let p := r.payload
    let f : BraceFrame := { side := beAt p 0 1, role := beAt p 1 1, flags := beAt p 2 2, swapAt := beAt p 4 6, verdict := beAt p 10 1, state := beAt p 11 1
                            at_ := s.time.lc.toNat }
    let s := s.setBrc { s.brc with frame := some f }
    let s := (s.setFlag R.BRC_STAT_PARTNER_MUTED 0 (f.flags.testBit 0)).set R.BRC_STAT_P_VERDICT 0 f.verdict
    let s := if f.flags.testBit 0 then s.unmute else s
    let s := (s.takeProposal f).takeEcho f
    s.braceEval

/-- At the second that the echo names, both devices change role (R343); a pair that is not PAIRED, or has a muted device, defers. -/
def State.braceSwap (s : State) : State :=
  match s.brc.swapAt with
  | none => s
  | some t =>
    if s.rtSec < t then s
    else
      let ok := s.pairState == 2 && !s.flag R.BRC_STAT_MUTED && !s.flag R.BRC_STAT_PARTNER_MUTED
      let s := s.setBrc { s.brc with propose := none, echo := none, swapAt := none }
      if ok then ((s.setFlag R.BRC_STAT_LEAD 0 (!s.flag R.BRC_STAT_LEAD)).bump R.BRC_CNT0_SWAPS).raiseBit R.BRC_EVT 0 5
      else s.bump R.BRC_CNT0_SWAP_DEFERRED

/-! ### Comparison and muting (R344 to R347) -/

/-- The device mutes, unless its partner is muted (R346, R347). -/
def State.mute (s : State) : State :=
  if s.flag R.BRC_STAT_MUTED || s.flag R.BRC_STAT_PARTNER_MUTED then s
  else (((s.setFlag R.BRC_STAT_MUTED 0 true).bump R.BRC_CNT1_MUTES).raiseBit R.BRC_EVT 0 3).levelOn fsBrcMuted

/-- Whether the newest record of identifier 8 that Scent took was AUTH. -/
def State.gnssAuth (s : State) : Bool :=
  match (s.knl.kinPrev ++ s.knl.kin).reverse.find? fun r => r.typ == 2 with
  | some r => (leAt r.bytes 0x2A 2).testBit 0
  | none => false

/-- The verdict of R345: 2 FAULTY, 1 GOOD, 0 UNKNOWN. -/
def State.braceVerdict (s : State) : Nat :=
  let qual := s.refState 8 == rQualified
  let inside := decide ((s.getS R.REF_PHASE 8).natAbs ≤ s.get R.LSH_CORE)
  if s.flag R.KNL_KPAIR_STAT_FROZEN || !s.inLc || (qual && !inside) then 2
  else if qual && s.gnssAuth && inside && s.flag R.KNL_KPAIR_STAT_LAST_AGREED then 1
  else 0

/-- The partner's verdict; one older than 2 s counts as UNKNOWN (R346). -/
def State.partnerVerdict (s : State) : Nat :=
  match s.brc.frame with
  | some f => if s.time.lc.toNat - f.at_ > 2 * 2 ^ 48 then 0 else f.verdict
  | none => 0

/-- |OFS| in ps. -/
def State.braceOfs (s : State) : Nat := (unitsToPs (s.getS R.BRC_OFS)).natAbs

/-- What the device does in DISAGREE by its own and its partner's verdict (R346). -/
def State.braceAct (s : State) : State :=
  let own := s.get R.BRC_STAT_VERDICT
  let par := s.partnerVerdict
  let tie := fun (s : State) => if s.flag R.BRC_STAT_LEAD then s else s.mute
  if own = 2 then (if par = 2 then tie s else s.mute)
  else if own = 0 then (if par = 1 then s.mute else if par = 0 then tie s else s)
  else if par = 1 then
    let sum := s.get R.LSH_CORE + (match s.braceAtt with | some i => (s.att i).leash | none => 0)
    if s.braceOfs > sum then s.raise fsBrcBoundBroken else s
  else s

/-- OFS of the second that ended, and the record for identifier 22 (R344): the newest exchange on the Brace attachment. -/
def State.braceOfsSecond (s : State) : State :=
  let xs := s.brc.ofs
  let s := s.setBrc { s.brc with ofs := [] }
  if xs.isEmpty then s
  else
    let s := s.set R.BRC_OFS 0 (trunc 64 (roundDiv xs.sum xs.length))
    match s.braceAtt with
    | none => s
    | some i =>
      match (s.att i).rec_ with
      | none => s
      | some x =>
        let n := s.brc.recSeq
        let b := s.packRecord i x x.ofs (s.get R.PCK_EXCH_EXCH_MS) n (Config.freeNat s.draw % 2 ^ 32)
        (((s.setBrc { s.brc with recSeq := (n + 1) % 65536 })).drawn).inletPut 5 b

/-- PAIRED and DISAGREE by the seconds that |OFS| has stayed above, or at most, BRACE_TOL (R344). -/
def State.braceCompare (s : State) : State :=
  let off := decide ((s.getS R.BRC_OFS).natAbs * 1000000000000 > s.get R.BRC_TOL * 2 ^ 48)
  let n := Nat.max 1 (s.get R.BRC_TIMERS_PERSIST)
  let x := s.brc
  let s := s.setBrc { x with above := if off then x.above + 1 else 0, under := if off then 0 else x.under + 1 }
  if s.pairState = 2 && s.brc.above ≥ n then
    let s := ((s.set R.BRC_STAT_PAIR_STATE 0 4).bump R.BRC_CNT1_DISAGREES).raiseBit R.BRC_EVT 0 2
    (s.setBrc { s.brc with above := 0, under := 0 }).levelOn fsBrcDisagree
  else if s.pairState = 4 && s.brc.under ≥ n then
    let s := (s.set R.BRC_STAT_PAIR_STATE 0 2).raiseBit R.BRC_EVT 0 0
    (s.setBrc { s.brc with above := 0, under := 0 }).levelOff fsBrcDisagree
  else s

/-- A boundary of R343 at which no swap is fixed: it is deferred. -/
def State.braceSwapMissed (s : State) : State :=
  let p := Nat.max 1 (s.get R.BRC_TIMERS_SWAP_PERIOD)
  if s.rtSec % p = p / 2 && s.brc.swapAt.isNone then
    (s.setBrc { s.brc with propose := none, echo := none }).bump R.BRC_CNT0_SWAP_DEFERRED
  else s

/-- What BRC does once per RT second (R343 to R346). -/
def State.braceSecond (s : State) : State :=
  if !s.flag R.BRC_CFG_ENABLE || s.gated 10 then s
  else
    let s := s.braceEval
    let s := (s.braceOfsSecond.braceCompare).braceSwapMissed
    let v := if s.pairState = 4 then s.braceVerdict else 0
    let s := (s.set R.BRC_STAT_VERDICT 0 v).set R.BRC_STAT_P_VERDICT 0 s.partnerVerdict
    let s := s.setBrc { s.brc with calm := if v = 2 then 0 else s.brc.calm + 1 }
    let s := if s.pairState = 4 then s.braceAct else s
    s.servingSync

/-- With AUTO_UNMUTE a PAIRED device unmutes after UNMUTE_TIME seconds in which it was not FAULTY (R347). -/
def State.autoUnmute (s : State) : State :=
  if s.flag R.BRC_CFG_AUTO_UNMUTE && s.pairState == 2 && decide (s.brc.calm ≥ s.get R.BRC_UNMUTE_TIME) then s.unmute else s

/-- A write of BRC_CTRL (R347, R349). -/
def State.brcCtrl (s : State) (v : Word) : State :=
  let s := if v.getLsbD 0 then s.unmute else s
  if v.getLsbD 1 then s.mute else s

/-! ### Meanings -/

/-- ROLL_RECEIVE (R330). -/
def execRollReceive (src : PackSrc) (s : State) : Host.Outcome State Fault Refusal :=
  done (s.run 10 (·.packTake src 0 fun r s => (s.rollReceive r).braceEval))

/-- BRACE_SEND (R340). -/
def execBraceSend (s : State) : Host.Outcome State Fault Refusal := done (s.run 10 (·.braceSend))

/-- BRACE_RECEIVE (R340). -/
def execBraceReceive (src : PackSrc) (s : State) : Host.Outcome State Fault Refusal :=
  done (s.run 10 (·.packTake src 4 fun r s => s.braceReceive r))

/-- BRACE_SWAP (R343). -/
def execBraceSwap (s : State) : Host.Outcome State Fault Refusal := done (s.run 10 (·.braceSwap))

/-- AUTO_UNMUTE (R347). -/
def execAutoUnmute (s : State) : Host.Outcome State Fault Refusal := done (s.run 10 (·.autoUnmute))

end Sys2Proof.Machine
end

