-- ==== Sys2Proof/Machine/Osnma.lean ====
section
/-! DEFINITION. Navigation data and its authentication (R147, R149, R153, R154). The manual names the Galileo OSNMA interface document for
the formats: the Merkle tree, the chain, the tags and the fields of the ADKD 4 data follow it (PRESUMED, log entry 92). -/

namespace Sys2Proof.Machine

/-! ### Orbits -/

/-- The received ephemeris of a satellite (R149). -/
def State.orbit (s : State) (sv : Nat) : Option Orbit := s.gns.orbits.find? fun o => o.sv == sv

/-- An orbit takes the place of the one kept for its satellite. -/
def State.orbitPut (s : State) (o : Orbit) : State := s.setGns { s.gns with orbits := o :: s.gns.orbits.filter fun x => x.sv != o.sv }

/-- The words that the host has entered for a satellite in the aiding area (R150). -/
def State.aidWords (s : State) (sv : Nat) : List Byte :=
  ((List.range 512).filter fun i => let w := (s.word (0x2004000 + 32 * i)).toNat; w % 256 == sv && bits w 16 8 == 1).flatMap fun i =>
    leBytes 16 (s.wordsN (0x2004010 + 32 * i) 4)

/-- The orbit by which the Scout predicts a satellite, received or aided; none where it has neither, and then it does not search (R149). -/
def State.orbitWords (s : State) (sv : Nat) : Option (List Byte) :=
  match s.orbit sv with
  | some o => some o.words
  | none => let w := s.aidWords sv; if w.isEmpty then none else some w

/-- NSV_AUTH counts the satellites authenticated. -/
def State.syncAuth (s : State) : State :=
  s.set R.GNS_STAT_NSV_AUTH 0 ((List.range 24).countP fun h => s.flag R.CH_STAT_AUTH h && s.get R.CH_STAT_STATE h != 0)

/-- AUTH of the channels of a satellite, and of its ephemeris (R153). -/
def State.authSet (s : State) (sv : Nat) (on : Bool) : State :=
  let s := match s.orbit sv with
    | some o => s.orbitPut { o with auth := on }
    | none => s
  (s.forN 24 fun h s => if s.get R.CH_CFG_SVID h = sv then s.setFlag R.CH_STAT_AUTH h on else s).syncAuth

/-- Ephemeris that a channel's satellite broadcasts is received: a change of the issue of data ends the authentication of the old (R148,
R153). The result tells of a change. -/
def State.orbitHear (s : State) (h : Fin 24) (iod : Nat) (words : List Byte) : Bool × State :=
  let sv := s.get R.CH_CFG_SVID h
  match s.orbit sv with
  | some o => if o.iod = iod then (false, s) else (true, (s.orbitPut { sv := sv, iod := iod, words := words, auth := false, heard := s.rtSec }).authSet sv false)
  | none => (false, s.orbitPut { sv := sv, iod := iod, words := words, auth := false, heard := s.rtSec })

/-- Navigation data reaches the Scout outside BURST mode only; what a session has read may still be checked in the second after it (R145,
R147). -/
def State.navRead (s : State) : Bool := s.get R.GNS_STAT_MODE_ACT != 2 || decide (s.rtSec ≤ s.gns.lastSession + 1)

/-- The time uncertainty of R149 in ps: the larger of the Leash and GNS_AID_TUNC. -/
def State.timeUnc (s : State) : Nat :=
  let t := s.get R.GNS_AID_TUNC
  Nat.max (s.get R.LSH_CORE) (if t = 0xFFFFFFFF then 0 else t * 1000000000)

/-! ### Keys -/

/-- The root of the Merkle tree in the sealed store (R159). -/
def State.merkleRoot (s : State) : List Byte := (List.range 8).flatMap fun i => leBytes 4 (s.store (0xA20 + 4 * i)).toNat

/-- The root that a leaf leads to: at each level the path's node stands on the side that the leaf's number names. -/
def merkleUp : Nat → List (List Byte) → List Byte → List Byte
  | _, [], x => x
  | n, p :: ps, x => merkleUp (n / 2) ps (sha256 (if n % 2 = 0 then x ++ p else p ++ x))

/-- The hash of a chain: SHA-256, or the other function that the interface document allows, which is a free value here. -/
def chainHash (hf : Nat) (b : List Byte) : List Byte := if hf = 0 then sha256 b else Config.otherHash hf b

/-- GST as the week number and time of week of a message. -/
def gstWord (gst : Nat) : List Byte := beBytes 4 (gst / 604800 % 4096 * 2 ^ 20 + gst % 604800)

/-- The key of a chain `n` subframes before a key of a subframe (R153). -/
def chainBack (t : Tesla) : Nat → Nat → List Byte → List Byte
  | 0, _, k => k
  | n + 1, gst, k => chainBack t n (gst - 30) ((chainHash t.hf (k ++ gstWord (gst - 30) ++ t.alpha)).take t.keyLen)

/-- The key of a subframe, from the last verified one. -/
def teslaKey (t : Tesla) (gst : Nat) : Option (List Byte) :=
  if gst > t.gst || (t.gst - gst) % 30 ≠ 0 then none else some (chainBack t ((t.gst - gst) / 30) t.gst t.key)

/-- A DSM-PKR message: its key is accepted only if it leads to the root (R153). -/
def State.osnmaPkr (s : State) (npkt npkid mid : Nat) (key : List Byte) (path : List (List Byte)) : State :=
  let leaf := sha256 (BitVec.ofNat 8 (npkt * 16 + npkid) :: key)
  if merkleUp mid path leaf = s.merkleRoot then s.setGns { s.gns with pub := some { kind := npkt, id := npkid, key := key } } else s

/-- A DSM-KROOT message: its root key is accepted only under an accepted public key (R153). -/
def State.osnmaKroot (s : State) (pkid : Nat) (t : Tesla) (signed sig : List Byte) : State :=
  match s.gns.pub with
  | none => s
  | some p => if p.id = pkid && Config.osnmaSignature p.kind p.key signed sig then s.setGns { s.gns with tesla := some t } else s

/-- A disclosed key: it must hash back to the last verified one (R153). -/
def State.osnmaKey (s : State) (gst : Nat) (key : List Byte) : State :=
  match s.gns.tesla with
  | none => s
  | some t =>
    if gst > t.gst && (gst - t.gst) % 30 = 0 && chainBack t ((gst - t.gst) / 30) gst key = t.key
    then s.setGns { s.gns with tesla := some { t with gst := gst, key := key } } else s

/-! ### Tags -/

/-- Bits of navigation data that a tag of an ADKD covers. -/
def navBits (adkd : Nat) : Nat := if adkd = 4 then 141 else 549

/-- The message that a tag is computed over: the satellites, time, counter, status and data, filled to whole bytes. The first tag of a
message covers its own satellite's data and names one satellite. -/
def osnmaText (x : OsnmaTag) (from_ : Nat) : List Byte :=
  let n := navBits x.adkd
  let v := (((from_ * 2 ^ 32 + ofBe (gstWord x.gst)) * 2 ^ 8 + x.ctr) * 2 ^ 2 + x.nmas) * 2 ^ n + x.nav % 2 ^ n
  let bitsN := 8 + 32 + 8 + 2 + n
  let v := if x.ctr = 1 then v else v + x.prnd * 2 ^ bitsN
  let bitsN := if x.ctr = 1 then bitsN else bitsN + 8
  beBytes ((bitsN + 7) / 8) (v * 2 ^ ((8 - bitsN % 8) % 8))

/-- Whether a tag verifies under a key: HMAC-SHA-256 or AES-CMAC as the chain says, cut to the tag's length (R153). -/
def teslaTagOk (t : Tesla) (key : List Byte) (x : OsnmaTag) (from_ : Nat) : Bool :=
  let m := osnmaText x from_
  let mac := if t.mf = 0 then hmac256 key m else cmac (padTo 16 key) m
  decide (ofBe (mac.take 8) / 2 ^ (64 - t.tagBits) = x.tag)

/-- What a verified tag authenticates: the ephemeris of its satellite while the issue of data is unchanged, or the UTC parameters (R153,
R157). -/
def State.tagGood (s : State) (x : OsnmaTag) : State :=
  if x.adkd = 4 then s.setGns { s.gns with utcPar := some x.nav }
  else match s.orbit x.prnd with
    | some o => if o.iod = x.iod then s.authSet x.prnd true else s
    | none => s

/-- What a failed tag covers is not authenticated; three satellites in 30 s are suspect (R154). -/
def State.tagBad (s : State) (from_ : Nat) (x : OsnmaTag) : State :=
  let now := s.rtSec
  let fails := (s.gns.osnma.filter fun f => f.1 != from_ && decide (now ≤ f.2 + 30)) ++ [(from_, now)]
  let s := s.setGns { s.gns with osnma := fails, utcPar := if x.adkd = 4 then none else s.gns.utcPar }
  let s := (if x.adkd = 4 then s else s.authSet x.prnd false).gnsEvt 5
  let s := if fails.length ≥ 3 then s.gnsEvt 4 else s
  s.raise fsGnssOsnmaFail

/-- A tag that a channel's satellite sent: it is checked only while the time uncertainty is within the limit for it, the tree is trusted and
its key is verified (R153, R154). -/
def State.osnmaTag (s : State) (from_ : Nat) (x : OsnmaTag) : State :=
  match s.gns.tesla with
  | none => s
  | some t =>
    match teslaKey t (x.gst + 30 + (if x.adkd = 12 then 300 else 0)) with
    | none => s
    | some key =>
      if s.timeUnc > Config.osnmaLimit x.adkd || s.gns.lostRoot = some s.merkleRoot then s
      else if teslaTagOk t key x from_ then s.tagGood x else s.tagBad from_ x

/-- A revocation of a key or a renewal of the tree that the present root cannot verify: no satellite is authenticated until SET_PARAM enters
another root (R154). -/
def State.osnmaRenew (s : State) : State :=
  let s := s.setGns { s.gns with lostRoot := some s.merkleRoot, orbits := s.gns.orbits.map fun o => { o with auth := false }, utcPar := none }
  (s.forN 24 fun h s => s.setFlag R.CH_STAT_AUTH h false).syncAuth

/-- What the Scout does with an OSNMA message of a channel's satellite (R153, R154). -/
def State.osnma (s : State) (h : Fin 24) (m : OsnmaMsg) : State :=
  let sv := s.get R.CH_CFG_SVID h
  if !s.scoutUp || sv = 0 || !s.navRead then s
  else match m with
    | .pkr npkt npkid mid key path => s.osnmaPkr npkt npkid mid key path
    | .kroot pkid t signed sig => s.osnmaKroot pkid t signed sig
    | .key gst k => s.osnmaKey gst k
    | .tag x => s.osnmaTag sv x
    | .renewal => s.osnmaRenew

/-! ### UTC parameters (R157) -/

/-- A field of the 141 bits of ADKD 4 data: offset of its first bit, and width. -/
def utcFld (nav o w : Nat) : Nat := nav / 2 ^ (141 - o - w) % 2 ^ w

/-- The RT second at which GST began: 1999-08-22 00:00:19 TAI. -/
def gstEpoch : Nat := 935280019

/-- The week that an 8-bit week number names, nearest to a week. -/
def nearWeek (wn8 week : Nat) : Int := (week : Int) + sext 8 ((wn8 + 256 - week % 256) % 256)

/-- GST − TAI + 19 s by the parameters at an RT second, in 2⁻⁴⁸ s: A0 + A1 (t − t0t) (R157). -/
def gstOffset (nav rtSec : Nat) : Int :=
  let t : Int := (rtSec : Int) - gstEpoch
  let t0 := nearWeek (utcFld nav 72 8) (t.toNat / 604800) * 604800 + utcFld nav 64 8 * 3600
  sext 32 (utcFld nav 0 32) * 2 ^ 18 + roundDiv (sext 24 (utcFld nav 32 24) * (t - t0)) 4

/-- UTC_OFFSET, LEAP and LEAP_AT by the parameters at an RT second (R157). -/
def utcParams (nav rtSec : Nat) : Int × Nat × Nat :=
  let ls := sext 8 (utcFld nav 56 8)
  let lsf := sext 8 (utcFld nav 91 8)
  let week := (rtSec - gstEpoch) / 604800
  let at_ : Int := nearWeek (utcFld nav 80 8) week * 604800 + utcFld nav 88 3 * 86400 + ls + gstEpoch
  if lsf = ls || at_ ≤ rtSec then (ls + 19, 0, 0) else (ls + 19, if lsf > ls then 1 else 2, at_.toNat)

end Sys2Proof.Machine
end

