-- ==== Sys2Proof/Machine/Gnss.lean ====
section
/-! DEFINITION. The Galileo E1 receiver: front end, bursts, captures, and the Scout's firmware (R138 to R160). -/

namespace Sys2Proof.Machine

/-- The sample clock returns after 1 ms of clean edges (R141, R144). -/
def State.gsiReturn (s : State) : State :=
  if s.flag R.GNS_STAT_CLK_OK then s
  else
    let s := (s.setFlag R.GNS_STAT_CLK_OK 0 true).levelOff fsGnssClk
    if s.scoutUp && s.flag R.GNS_CFG_ENABLE && s.rx == rxOff then s.rxMove rxAcquire 1 else s

/-- RT milliseconds since the epoch, of a time. -/
def msOf (t : Time) : Nat := t.toNat * 1000 / 2 ^ 48

/-- The instant of an RT millisecond as T96, to nearest. -/
def msRt (ms : Nat) : Time := BitVec.ofNat 96 ((ms * 2 ^ 48 + 500) / 1000)

/-- Whether a burst or capture may start (R141). -/
def State.mayBurst (s : State) (mode : Nat) : Bool :=
  s.get R.GNS_STAT_MODE_ACT == mode && s.flag R.GNS_CFG_ENABLE && s.flag R.GNS_STAT_CLK_OK && s.gsiPll && !s.flag R.GNS_STAT_BURST_ACTIVE && !s.gated 8

/-- Milliseconds until BURST_PHASE comes next (R145, R151). -/
def State.toPhase (s : State) : Nat := (s.get R.GNS_CFG_BURST_PHASE + 1000 - msOf s.rt % 1000) % 1000

/-- A capture starts on the strobe of BURST_PHASE, or is skipped when neither slot is free (R151). -/
def State.snapStart (s : State) (ms ver : Nat) : State :=
  if !s.mayBurst 3 then s
  else if s.get R.GNS_SNAP_STAT = 3 then (s.bump R.GNS_SNAP_CNT_SKIPPED).gnsEvt 3
  else (s.setGns { s.gns with cap := some (ms, ver, false), epoch := ms }).setFlag R.GNS_STAT_BURST_ACTIVE 0 true

/-- The strobe on an RT millisecond, carrying CSET_VER (R139); a capture begins on that of BURST_PHASE (R151). -/
def State.msStrobe (s : State) : State :=
  let ms := msOf s.rt
  let ver := s.get R.KNL_TIME_MODE_CSET_VER
  let s := s.setGns { s.gns with strobe := some (ms, ver) }
  if ms % 1000 = s.get R.GNS_CFG_BURST_PHASE then s.snapStart ms ver else s

/-- The strobe of this second's BURST_PHASE, if it is the last one (R145). -/
def State.phaseStrobe (s : State) : Option (Nat × Nat) :=
  s.gns.strobe.filter fun x => x.1 % 1000 == s.get R.GNS_CFG_BURST_PHASE

/-- A written MODE takes effect at a second boundary, once a burst or capture has completed (R143). GSI_EN follows the mode where it is
not gated between bursts (R145). -/
def State.gnsBoundary (s : State) : State :=
  if s.flag R.GNS_STAT_BURST_ACTIVE then s
  else
    let m := s.get R.GNS_CTRL_MODE
    let s := s.set R.GNS_STAT_MODE_ACT 0 m
    let s := if m = 1 && s.gated 8 && !s.gateInProg 8 then s.ungateReq 8 else s
    s.setGns { s.gns with gsiEn := s.flag R.GNS_CFG_ENABLE && (m == 1 || (m != 0 && (!s.flag R.GNS_CFG_FE_GATE || s.gns.gsiEn))) }

/-- GSI_EN rises FE_WARMUP before a burst (R145). -/
def State.fePowerUp (s : State) : State :=
  if s.flag R.GNS_CFG_ENABLE && decide (2 ≤ s.get R.GNS_STAT_MODE_ACT) && decide (s.toPhase ≤ s.get R.GNS_CFG_FE_WARMUP)
  then s.setGns { s.gns with gsiEn := true } else s

/-- GNS asks AON to start its region, 1 ms before a burst (R145). -/
def State.gnssWake (s : State) : State :=
  if s.flag R.GNS_CFG_ENABLE && decide (s.toPhase ≤ 1) && s.gated 8 && !s.gateInProg 8 then s.ungateReq 8 else s

/-- A burst starts on its strobe (R145). -/
def State.burstStart (s : State) : State :=
  match s.phaseStrobe with
  | none => s
  | some (ms, ver) =>
    if s.mayBurst 2 then
      let s := s.setGns { s.gns with epoch := ms, dumps := 0 }
      (s.setFlag R.GNS_STAT_BURST_ACTIVE 0 true).set R.GNS_BURST_CSET_START 0 ver
    else s

/-- A burst ends after 100 ms, which are 25 dumps (R145). -/
def State.burstEnd (s : State) : State :=
  if s.flag R.GNS_STAT_BURST_ACTIVE && s.gns.cap.isNone && !s.gated 8 && (decide (25 ≤ s.gns.dumps) || decide (s.gns.epoch + 100 ≤ msOf s.rt)) then
    let s := (((s.idleNow 0).setFlag R.GNS_STAT_BURST_ACTIVE 0 false).feDown).set R.GNS_BURST_CSET_END 0 (s.get R.KNL_TIME_MODE_CSET_VER)
    ((s.bump R.GNS_CNT_BURSTS).gnsEvt 0).obs 0x08 0
  else s

/-! ### Samples and correlators (R140, R142) -/

/-- A sample byte as the correlators and the snapshot buffer take it: Q negated with SPECTRAL_INV (R160). -/
def sampleByte (inv : Bool) (b : Byte) : Byte :=
  if inv then BitVec.ofNat 8 (b.toNat % 16 + (16 - b.toNat / 16) % 16 * 16) else b

/-- I and Q of a sample pair as the GSI captures it. -/
def sampleI (b : Byte) : Int := sext 4 b.toNat
def sampleQ (b : Byte) : Int := sext 4 (b.toNat / 16)

/-- Whether more than 1 % of the sample pairs clip, in I or in Q (R140). -/
def clips (xs : List Byte) : Bool := decide (xs.length < 100 * xs.countP fun b => sampleI b == -8 || sampleQ b == -8)

/-- How many values of a list of sample pairs, I and Q apart, have a magnitude of 4 or more (R140; log entry 93). -/
def strong (xs : List Byte) : Nat :=
  (xs.countP fun b => decide (4 ≤ (sampleI b).natAbs)) + xs.countP fun b => decide (4 ≤ (sampleQ b).natAbs)

/-- The loop holds AGC_OUT where the share of strong values is AGC_TARGET, and moves it where it is not: how far and which way its gain acts is
not stated, so where it comes to rest is a free value (R140; log entry 4). -/
def State.agcStep (s : State) (xs : List Byte) : State :=
  if s.flag R.GNS_AGC_AGC_HOLD || 100 * strong xs = s.get R.GNS_AGC_AGC_TARGET * (2 * xs.length) then s
  else s.drawn.set R.GNS_AGC_AGC_OUT 0 (Config.freeBits 10 s.draw).toNat

/-- The offset of a correlator's replica from prompt, or of a search correlator from the programmed phase, in 1/20 chip (R142). -/
def corrOffset (search : Bool) (j : Nat) : Int :=
  if search then ((2 * j : Nat) - 7) * 5 else ([-10, -2, 0, 2, 10] : List Int).getD j 0

/-- The eight words that a channel dumps over 4 ms, its NCOs having run since the first sample (R142): in search mode all eight correlators,
numbered 8, take the pilot's replica. -/
def State.chanDump (s : State) (h : Nat) (xs : List Byte) : List Word :=
  let n := 81840 * s.gns.dumps
  let carr := s.getS R.CH_CARR h
  let rate := s.get R.CH_CODE_RATE h
  let search := s.flag R.CH_CFG_SEARCH h
  (List.range 8).map fun j =>
    Config.correlate { sv := s.get R.CH_CFG_SVID h, tap := if search then 8 else j, offset := corrOffset search j, carr := carr,
                       ifHz := s.getS R.GNS_IF, carrPh := trunc 32 (carr * n), code := rate,
                       codePh := s.get R.CH_CODE_START h * 2 ^ 12 + n * rate } xs

/-- Every 4 ms the correlators of each channel in use dump the samples of the time (R142); the result memory holds 25 dumps, which a run in CONT
mode takes in turn (log entry 94). -/
def State.dump (s : State) (samples : List Byte) : State :=
  let run := (s.flag R.GNS_STAT_BURST_ACTIVE && s.gns.cap.isNone) || s.get R.GNS_STAT_MODE_ACT == 1
  if !run || !s.flag R.GNS_CFG_ENABLE || !s.flag R.GNS_STAT_CLK_OK || !s.gsiPll || s.gated 8 then s
  else
    let xs := samples.map (sampleByte (s.flag R.GNS_CFG_SPECTRAL_INV))
    let d := s.gns.dumps % 25
    let s := s.forN 24 fun h s =>
      if s.get R.CH_CFG_SVID h = 0 then s else s.winPut (0x200A000 + (h * 25 + d) * 32) (s.chanDump h xs)
    let s := s.setGns { s.gns with dumps := s.gns.dumps + 1 }
    let s := if clips samples then s.gnsEvt 7 else s
    s.agcStep samples

/-- A write of RES_RELEASE: the region may be gated once no burst or capture runs (R145). -/
def State.resRelease (s : State) : State :=
  if s.flag R.GNS_STAT_BURST_ACTIVE || s.gateInProg 8 || s.gated 8 then s else s.gateReq 8 false

/-! ### Captures (R151, R152) -/

/-- Whether an entry of KIND 2, 3 or 4 of the history lies between two versions (R146). -/
def State.csetBreak (s : State) (v0 v1 : Nat) : Bool :=
  s.time.hist.any fun h => (h.kind == 2 || h.kind == 3 || h.kind == 4) && decide ((h.ver.toNat + 65536 - v0) % 65536 ≤ (v1 + 65536 - v0) % 65536)
    && h.ver.toNat != v0

/-- The 64-byte header of a slot (R151), with the version at the last sample, which is now. -/
def State.snapHeader (s : State) (ms ver : Nat) (clipped discarded : Bool) : List Byte :=
  padTo 64 (leBytes 12 (msRt ms).toNat ++ leBytes 4 s.gns.snapSeq ++ leBytes 2 ver ++ leBytes 2 (s.get R.KNL_TIME_MODE_CSET_VER) ++ leBytes 4 409200
    ++ leBytes 4 (trunc 32 (s.getS R.GNS_IF)) ++ leBytes 2 (s.get R.GNS_AGC_AGC_OUT) ++ leBytes 2 (b2n clipped + 2 * b2n discarded))

/-- The five 4 ms parts of a capture, of which one clips (R140). -/
def snapClips (xs : List Byte) : Bool := (List.range 5).any fun i => clips (slice xs (81840 * i) 81840)

/-- A capture has run for 20 ms: its samples go to the free slot (R151). One that R141 discarded says so in its header. -/
def State.snapCapture (s : State) (samples : List Byte) : State :=
  match s.gns.cap with
  | none => s
  | some (ms, ver, bad) =>
    if !bad && (decide (msOf s.rt < ms + 20) || s.gated 8) then s
    else
      let k := if (s.get R.GNS_SNAP_STAT).testBit 0 then 1 else 0
      let clipped := snapClips samples
      let body := samples.map (sampleByte (s.flag R.GNS_CFG_SPECTRAL_INV)) ++ List.replicate (409200 - samples.length) 0#8
      let s1 := s.winPut (0x2010000 + k * 0x78000) (wordsOfBytes (s.snapHeader ms ver clipped bad ++ body.take 409200))
      let s1 := s1.setGns { s1.gns with snapSeq := (s.gns.snapSeq + 1) % 2 ^ 32, cap := none }
      let s1 := ((((s1.idleNow 0).raiseBit R.GNS_SNAP_STAT 0 k).setFlag R.GNS_STAT_BURST_ACTIVE 0 false).feDown).obs 0x08 2
      let s1 := if bad then s1 else s1.gnsEvt 2
      if clipped then s1.gnsEvt 7 else s1

/-- Satellites that a host result lists with a valid measurement at CN0_MIN + 3 dB-Hz or more (R144, R152). -/
def State.resultGood (s : State) : Nat :=
  (List.range (Nat.min (s.get { R.GNS_RES_WIN with addr := R.GNS_RES_WIN.addr + 4, width := 8 }) 24)).countP fun i =>
    let w := (s.word (0x2008010 + 16 * i)).toNat
    (bits w 8 8).testBit 0 && decide (bits w 16 16 ≥ (s.get R.GNS_MASK_CN0_MIN + 3) * 100)

/-- A write of GNS_SNAP_DONE frees a slot and delivers its result, which the Scout checks: late, then VALID, the two SEQ that came with it, and
a break of the set (R152). -/
def State.snapDone (s : State) (v : Word) : State :=
  let k := v.toNat % 2
  let base := 0x2010000 + k * 0x78000
  if !(s.get R.GNS_SNAP_STAT).testBit k then s
  else
    let rtFirst := s.wordsN base 3
    let seq := s.wordsN (base + 12) 1
    let cs := s.wordsN (base + 16) 1
    let s := s.clearBit R.GNS_SNAP_STAT 0 k
    if !s.scoutUp then s
    else if s.rt.toNat ≥ rtFirst + 2 * 2 ^ 48 then s.bump R.GNS_SNAP_CNT_SNAP_LATE
    else if !v.getLsbD 1 || bits v.toNat 16 16 != seq % 65536 || (s.word 0x2008000).toNat != seq then s
    else if s.csetBreak (cs % 65536) (cs / 65536) then s
    else
      let s := s.setGns { s.gns with result := some (msOf (BitVec.ofNat 96 (rtFirst + 2 ^ 37)), cs % 65536, cs / 65536) }
      if s.rx == rxSnapshot && decide (s.resultGood ≥ s.get R.GNS_MASK_SOL_MIN_SV) then s.rxMove rxAcquire 1 else s

/-! ### Search and prediction (R147, R149) -/

/-- The mean of a survey's positions, as GNS_POS holds a position. -/
def Survey.mean (v : Survey) : Nat :=
  let m := fun (x : Int) => trunc 64 (roundDiv x (Nat.max 1 v.count))
  m v.x + 2 ^ 64 * m v.y + 2 ^ 128 * m v.z

/-- The position that predictions take: GNS_POS, or while it is unknown the survey's so far. -/
def State.position (s : State) : Nat :=
  match s.gns.survey with
  | some v => if v.count = 0 then s.get R.GNS_POS else v.mean
  | none => s.get R.GNS_POS

/-- The code window of a search in 2⁻²⁰ chip (R149): what the uncertainty of time and position spans, or the whole code beyond 2 ms. -/
def State.codeWindow (s : State) : Nat :=
  let u := s.timeUnc + ceilDiv (s.get R.GNS_POS_UNC * 1000000000) 299792458
  if s.timeUnc > 2000000000 then 4092 * 2 ^ 20 else ceilDiv (2 * u * 1023000 * 2 ^ 20) 1000000000000

/-- Seeds a channel's NCOs from the prediction at an RT millisecond (R147). -/
def State.seed (s : State) (h : Nat) (orbit : List Byte) (ms : Nat) : State :=
  let p := fun (w : Nat) => (Config.gnssNco w orbit s.position ms (s.getS R.REF_ENS_Y)).toNat
  ((s.set R.CH_CARR h (p 0)).set R.CH_CODE_RATE h (p 1)).set R.CH_CODE_START h (p 2)

/-- The channel of a satellite searches for it, stepping 4 chips of the window in each 20 ms (R142, R149). -/
def State.searchOn (s : State) (h : Nat) (orbit : List Byte) : State :=
  let s := s.seed h orbit (msOf s.rt)
  let w := s.codeWindow
  let from_ := s.get R.CH_CODE_START h + 4092 * 2 ^ 20 - w / 2
  let s := s.set R.CH_CODE_START h ((from_ + (s.rtSec - s.gns.rxSec) * 50 * 2 ^ 22 % (w + 1)) % (4092 * 2 ^ 20))
  (s.setFlag R.CH_CFG_SEARCH h true).set R.CH_STAT_STATE h 1

/-- The Scout gives an idle channel to each satellite whose orbit it has, and to no other (R149). -/
def State.acquire (s : State) : State :=
  s.forN 36 fun i s =>
    let sv := i + 1
    if (List.range 24).any fun h => s.get R.CH_CFG_SVID h == sv then s
    else match (List.range 24).find? (fun h => s.get R.CH_CFG_SVID h == 0), s.orbitWords sv with
      | some h, some o =>
        let good := match s.orbit sv with | some x => x.auth | none => false
        ((s.set R.CH_CFG_SVID h sv).setFlag R.CH_STAT_AUTH h good).searchOn h o
      | _, _ => s

/-- A second's tracking: a channel whose satellite was observed tracks it, one whose satellite was not searches again; between bursts every
tracking channel is re-seeded for the next (R144, R147). -/
def State.trackStep (s : State) (sats : List SatObs) : State :=
  let next := (s.rtSec + 1) * 1000 + s.get R.GNS_CFG_BURST_PHASE
  s.forN 24 fun h s =>
    match s.orbitWords (s.get R.CH_CFG_SVID h) with
    | none => s
    | some o =>
      if s.get R.CH_CFG_SVID h = 0 then s
      else if sats.any fun x => x.ch.val == h then
        let s := (s.setFlag R.CH_CFG_SEARCH h false).set R.CH_STAT_STATE h 3
        if s.get R.GNS_STAT_MODE_ACT = 2 then s.seed h o next else s
      else s.searchOn h o

/-! ### The solution (R155 to R157) -/

/-- The residual of an observation against the pseudorange predicted from RT, the position and the received ephemeris of its satellite (R155);
none without ephemeris, since aiding is never used in a solution (R150). -/
def State.residual (s : State) (x : SatObs) : Option Int :=
  (s.orbit (s.get R.CH_CFG_SVID x.ch)).map fun o => x.range - Config.gnssRange o.words s.position (msOf s.rt)

/-- The mean of residuals weighted by 1 ÷ σ² (R155; log entry 95). -/
def weighted (rs : List (Int × Nat)) : Int :=
  let den := (rs.map fun r => Nat.max 1 r.2 ^ 2).foldl (· * ·) 1
  let w : Int × Nat → Nat := fun r => den / Nat.max 1 r.2 ^ 2
  roundDiv (rs.map fun r => r.1 * (w r : Int)).sum (Nat.max 1 (rs.map w).sum)

/-- The residuals of a second's observations, with their σ. -/
def State.residuals (s : State) (sats : List SatObs) : List (Int × Nat) := sats.filterMap fun x => (s.residual x).map fun r => (r, x.sigma)

/-- What the Scout shows of each satellite: residual, C/N0 and the exclusion of check 1 (R155). -/
def State.obsShow (s : State) (sats : List SatObs) (c : Int) : State :=
  sats.foldl (fun s x =>
    let s := s.set R.CH_STAT_CN0 x.ch (Nat.min x.cn0 1023)
    match s.residual x with
    | none => s
    | some r =>
      let out := decide ((r - c).natAbs > 6 * x.sigma + 10 * s.get R.GNS_SPOOF_RES_TOL)
      (s.set R.CH_RESID x.ch (trunc 32 r)).set R.CH_STAT_STATE x.ch (if out then 4 else 3)) s

/-- The satellites used: with ephemeris, above ELEV_MASK and CN0_MIN and not excluded (R155, R156). -/
def State.satsUsed (s : State) (sats : List SatObs) : List SatObs :=
  sats.filter fun x => match s.orbit (s.get R.CH_CFG_SVID x.ch) with
    | none => false
    | some o => s.get R.CH_STAT_STATE x.ch != 4 && decide (x.cn0 ≥ 10 * s.get R.GNS_MASK_CN0_MIN)
        && decide (Config.gnssElev o.words s.position (msOf s.rt) ≥ s.get R.GNS_MASK_ELEV_MASK)

/-- The core Leash in force at an RT millisecond, of this second or the one before (R155). -/
def State.leashAt (s : State) (ms : Nat) : Nat := if ms / 1000 < s.get R.LSH_SEC then s.get R.LSH_CORE_PREV else s.get R.LSH_CORE

/-- Checks 2 to 4 of R155: bit 0 common-mode offset, 1 AGC jump within one second, 2 uniform C/N0. -/
def State.spoofChecks (s : State) (sats : List SatObs) (c : Int) (ms : Nat) : Nat :=
  let agc := s.get R.GNS_AGC_AGC_OUT
  let jump := decide (s.rtSec ≤ s.gns.agcSec + 1) && decide (((agc : Int) - s.gns.lastAgc).natAbs > s.get R.GNS_SPOOF_AGC_JUMP)
  let off := decide (c.natAbs > s.leashAt ms + s.sealedTerm 0xA0C)
  let hi := sats.foldl (fun m x => Nat.max m x.cn0) 0
  let lo := sats.foldl (fun m x => Nat.min m x.cn0) (2 ^ 16)
  b2n off + 2 * b2n jump + 4 * b2n (decide (sats.length ≥ 4) && decide (hi - lo < s.get R.GNS_SPOOF_CN0_SPREAD))

/-- The outcome of the checks: whether the solution is withheld (R155). -/
def State.spoofGate (s : State) (bad : Nat) : Bool × State :=
  let s := s.setGns { s.gns with lastAgc := s.get R.GNS_AGC_AGC_OUT, agcSec := s.rtSec }
  if bad ≠ 0 then
    let s := s.setGns { s.gns with withheld := true, passes := 0 }
    let s := if bad.testBit 1 then s.gnsEvt 6 else s
    (true, (s.gnsEvt 4).raise fsGnssSpoof)
  else if s.gns.withheld then
    if s.gns.passes + 1 ≥ 60 then (false, s.setGns { s.gns with withheld := false, passes := 0 })
    else (true, ((s.setGns { s.gns with passes := s.gns.passes + 1 }).gnsEvt 4).raise fsGnssSpoof)
  else (false, s)

/-- Whether a used satellite counts as authenticated; in a snapshot its ephemeris must still be valid (R152, R153). -/
def State.svAuth (s : State) (x : SatObs) : Bool :=
  s.flag R.CH_STAT_AUTH x.ch && (s.rx != rxSnapshot || match s.orbit (s.get R.CH_CFG_SVID x.ch) with
    | some o => decide (s.rtSec ≤ o.heard + Config.ephemerisLife)
    | none => false)

/-- TAI − RT in 2⁻⁴⁸ s from the clock offset, by GST or by the UTC parameters of a verified tag (R157). -/
def State.taiOffset (s : State) (c : Int) : Int :=
  psToUnits (-c) - match s.gns.utcPar with
    | some nav => if (s.store 0xA10).getLsbD 2 then gstOffset nav s.rtSec else 0
    | none => 0

/-- The 64-byte record of a second (R157). -/
def State.gnssRecord (s : State) (used : List SatObs) (sol : Solution) (ms ver : Nat) : List Byte :=
  let nsv := used.length
  let nauth := used.countP s.svAuth
  let survey := s.flag R.GNS_STAT_SURVEY
  let mm := if survey then sol.surveyMm else s.get R.GNS_POS_UNC
  let fl := b2n (nauth == nsv) + 2 * b2n (s.rx == rxSnapshot) + 4 * b2n survey + 8 * b2n (s.get R.GNS_STAT_MODE_ACT == 1) + 16 * b2n s.gns.utcPar.isSome
    + 32 * b2n (!((s.store 0xA10).getLsbD 2 && s.gns.utcPar.isSome))
  let (uo, lp, la) := match s.gns.utcPar with
    | some nav => utcParams nav s.rtSec
    | none => (0, 0, 0)
  padTo 64 (leBytes 12 (msRt ms).toNat ++ leBytes 8 (trunc 64 (s.taiOffset (weighted (s.residuals used)))) ++ leBytes 4 (trunc 32 sol.freq)
    ++ leBytes 4 sol.measPs ++ leBytes 4 sol.pathPs ++ leBytes 4 (ceilDiv (mm * 1000000000) 299792458) ++ leBytes 2 s.gns.recSeq ++ leBytes 2 ver
    ++ leBytes 1 nsv ++ leBytes 1 nauth ++ leBytes 2 fl ++ leBytes 2 (trunc 16 uo) ++ leBytes 1 lp ++ leBytes 1 0 ++ leBytes 6 la)

/-- The epoch and the versions around the samples of this second's solution: a burst, CONT, or a host result (R146, R152, R157). -/
def State.solEpoch (s : State) : Option (Nat × Nat × Nat) :=
  if s.rx = rxSnapshot then s.gns.result
  else if s.get R.GNS_STAT_MODE_ACT = 2 then some (s.gns.epoch, s.get R.GNS_BURST_CSET_START, s.get R.GNS_BURST_CSET_END)
  else s.gns.strobe.map fun x => (x.1, x.2, x.2)

/-- The Scout moves on from ACQUIRE, and notes since when too few satellites are above CN0_MIN (R144). -/
def State.scoutStates (s : State) (sats : List SatObs) : State :=
  let min := s.get R.GNS_MASK_SOL_MIN_SV
  let s := if s.rx == rxAcquire && decide (s.get R.GNS_STAT_NSV_TRACK ≥ min) then s.rxMove rxCont 1 else s
  let weak := decide ((sats.countP fun x => decide (x.cn0 > 10 * s.get R.GNS_MASK_CN0_MIN)) < min)
  s.setGns { s.gns with weakSince := if weak then some (s.gns.weakSince.getD s.rtSec) else none }

/-- Where the bound of the position is 0 the Scout surveys, and sums the position solutions (R156). -/
def State.surveyStep (s : State) (sol : Solution) : State :=
  if s.get R.GNS_POS_UNC ≠ 0 || s.rx < rxCont then s
  else
    let v := s.gns.survey.getD { start := s.rtSec, count := 0, x := 0, y := 0, z := 0, unc := 0 }
    let v := match sol.pos with
      | some (x, y, z) => { v with count := v.count + 1, x := v.x + x, y := v.y + y, z := v.z + z, unc := sol.surveyMm }
      | none => v
    (s.setGns { s.gns with survey := some v }).setFlag R.GNS_STAT_SURVEY 0 true

/-- One second of the Scout: tracking, checks, and the record to the inlet (R146, R147, R149, R152, R155 to R157). -/
def State.scoutSolution (s : State) (sats : List SatObs) (sol : Solution) : State :=
  if !s.scoutUp || !s.flag R.GNS_CFG_ENABLE || s.rx = rxOff || s.gns.solSec = some s.rtSec then s
  else
    let s := (s.setGns { s.gns with solSec := some s.rtSec }).acquire
    let sats := sats.filter fun x => s.get R.CH_CFG_SVID x.ch != 0
    let s := (s.trackStep sats).set R.GNS_STAT_NSV_TRACK 0 (Nat.min sats.length 24)
    let c := weighted (s.residuals sats)
    let s := (((s.obsShow sats c).syncAuth).scoutStates sats).surveyStep sol
    match s.solEpoch with
    | none => s
    | some (ms, v0, v1) =>
      let s := s.setGns { s.gns with result := none }
      if s.csetBreak v0 v1 then s.bump R.GNS_CNT_BURSTS_DISCARDED
      else
        let used := s.satsUsed sats
        if s.rx < rxCont || used.length < s.get R.GNS_MASK_SOL_MIN_SV then s
        else if s.rx = rxSnapshot && s.timeUnc ≥ 2000000000 then s
        else
          let (held, s) := s.spoofGate (s.spoofChecks sats c ms)
          if held then s
          else
            let b := s.gnssRecord used sol ms v0
            (s.setGns { s.gns with recSeq := (s.gns.recSeq + 1) % 65536 }).inletPut 2 b

/-! ### Data sessions and the survey (R148, R156) -/

/-- Ephemeris heard on channels, outside BURST mode only (R147): whether an issue of data changed. -/
def State.hear (s : State) (heard : List (Fin 24 × Nat × List Byte)) : Bool × State :=
  if s.get R.GNS_STAT_MODE_ACT ≠ 1 then (false, s)
  else heard.foldl (fun (a : Bool × State) x =>
    if a.2.get R.CH_CFG_SVID x.1 = 0 then a else let r := a.2.orbitHear x.1 x.2.1 x.2.2; (a.1 || r.1, r.2)) (false, s)

/-- Data sessions: one begins where it falls due, and ends after 60 s (R144, R148). -/
def State.dataSession (s : State) (heard : List (Fin 24 × Nat × List Byte)) : State :=
  if !s.scoutUp then s
  else
    let (changed, s) := s.hear heard
    if !(s.rx = rxCont || s.rx = rxBurst) then s
    else match s.gns.session with
      | none =>
        let unauth := (List.range 24).any fun h => s.get R.CH_STAT_STATE h == 3 && !s.flag R.CH_STAT_AUTH h
        if changed || unauth || decide (s.rtSec ≥ s.gns.lastSession + s.get R.GNS_TIMERS0_DATA_PERIOD) then
          (s.setGns { s.gns with session := some s.rtSec }).rxMove rxCont 1
        else s
      | some start =>
        if s.rtSec < start + 60 then s
        else
          let s := s.setGns { s.gns with session := none, lastSession := s.rtSec }
          if s.timeUnc < 100000000 && decide (s.get R.GNS_STAT_NSV_AUTH ≥ s.get R.GNS_MASK_SOL_MIN_SV) then s.rxMove rxBurst 2 else s

/-- The survey ends after SURVEY_TIME: the Scout writes the mean position and its bound (R156). -/
def State.surveyEnd (s : State) : State :=
  match s.gns.survey with
  | none => s
  | some v =>
    if !s.scoutUp || v.count = 0 || decide (s.rtSec < v.start + s.get R.GNS_SURVEY_TIME) then s
    else
      let s := (s.set R.GNS_POS 0 v.mean).set R.GNS_POS_UNC 0 (Nat.max 1 (Nat.min v.unc (2 ^ 24 - 1)))
      (s.setGns { s.gns with survey := none }).setFlag R.GNS_STAT_SURVEY 0 false

/-- A write of a word of GNS_POS by another master than the Scout is recorded (R156). -/
def State.posWrite (s : State) (m : Master) (k : Fin 6) (v : Word) : State :=
  let s := s.setWord (R.GNS_POS.addr + 4 * k.val) v
  if m = .eng 3 then s else s.raise fsGnssPosSet

/-- ENABLE changes (R144), or CLK_OUT names another output (R141). -/
def State.gnsConfig (s : State) (before : State) : State :=
  let was := before.flag R.GNS_CFG_ENABLE
  let is := s.flag R.GNS_CFG_ENABLE
  let s := if was && !is && s.scoutUp then s.rxMove rxOff 0
    else if is && s.scoutUp && s.flag R.GNS_STAT_CLK_OK && s.rx == rxOff then s.rxMove rxAcquire 1 else s
  s.gsiCheck

/-! ### Meanings -/

/-- GSI_CLK_LOSS (R141). -/
def execGsiClkLoss (s : State) : Host.Outcome State Fault Refusal := done (s.run 8 (·.gsiLoss))

/-- GSI_CLK_RETURN (R141). -/
def execGsiClkReturn (s : State) : Host.Outcome State Fault Refusal := done (s.run 8 fun s => s.when_ s.gsiPll State.gsiReturn)

/-- GNSS_MS_STROBE (R139). -/
def execGnssMsStrobe (s : State) : Host.Outcome State Fault Refusal := done (s.run 8 (·.msStrobe))

/-- FE_POWER_UP (R145). -/
def execFePowerUp (s : State) : Host.Outcome State Fault Refusal := done s.fePowerUp

/-- GNSS_REGION_WAKE (R145). -/
def execGnssRegionWake (s : State) : Host.Outcome State Fault Refusal := done s.gnssWake

/-- BURST_START (R145). -/
def execBurstStart (s : State) : Host.Outcome State Fault Refusal := done s.burstStart

/-- CORRELATOR_DUMP (R142). -/
def execCorrelatorDump (samples : List Byte) (s : State) : Host.Outcome State Fault Refusal := done (s.dump samples)

/-- BURST_END (R145). -/
def execBurstEnd (s : State) : Host.Outcome State Fault Refusal := done s.burstEnd

/-- SNAP_CAPTURE (R151). -/
def execSnapCapture (samples : List Byte) (s : State) : Host.Outcome State Fault Refusal := done (s.snapCapture samples)

/-- SCOUT_SOLUTION (R157). -/
def execScoutSolution (sats : List SatObs) (sol : Solution) (s : State) : Host.Outcome State Fault Refusal := done (s.scoutSolution sats sol)

/-- OSNMA_VERIFY (R153). -/
def execOsnmaVerify (ch : Fin 24) (m : OsnmaMsg) (s : State) : Host.Outcome State Fault Refusal := done (s.osnma ch m)

/-- DATA_SESSION (R148). -/
def execDataSession (heard : List (Fin 24 × Nat × List Byte)) (s : State) : Host.Outcome State Fault Refusal := done (s.dataSession heard)

/-- SURVEY_END (R156). -/
def execSurveyEnd (s : State) : Host.Outcome State Fault Refusal := done s.surveyEnd

/-- ACQ_TIMEOUT (R144): ACQ_TIMEOUT seconds in ACQUIRE. -/
def execAcqTimeout (s : State) : Host.Outcome State Fault Refusal :=
  done (s.when_ (s.scoutUp && s.rx == rxAcquire && decide (s.get R.GNS_STAT_NSV_TRACK < s.get R.GNS_MASK_SOL_MIN_SV)
    && decide (s.gns.rxSec + s.get R.GNS_TIMERS1_ACQ_TIMEOUT ≤ s.rtSec)) (·.rxMove rxSnapshot 3))

/-- WEAK_TIME_EXPIRY (R144): WEAK_TIME seconds with fewer than SOL_MIN_SV satellites above CN0_MIN. -/
def execWeakTimeExpiry (s : State) : Host.Outcome State Fault Refusal :=
  done (s.when_ (s.scoutUp && (s.rx == rxCont || s.rx == rxBurst)
    && s.gns.weakSince.any fun t => decide (t + s.get R.GNS_TIMERS0_WEAK_TIME ≤ s.rtSec)) (·.rxMove rxSnapshot 3))

/-- RETRY_PERIOD_EXPIRY (R144): RETRY_PERIOD seconds in SNAPSHOT. -/
def execRetryPeriodExpiry (s : State) : Host.Outcome State Fault Refusal :=
  done (s.when_ (s.scoutUp && s.rx == rxSnapshot && decide (s.gns.rxSec + s.get R.GNS_TIMERS1_RETRY_PERIOD ≤ s.rtSec)) (·.rxMove rxAcquire 1))

end Sys2Proof.Machine
end

