-- ==== Sys2Proof/Machine/Boundary.lean ====
section
/-! DEFINITION. The boundary event of a second (R512): everything that the manual ties to an RT second boundary, in the order bank
switch, Scent, selection, oscillators, K-pair and swap, servo, Leash; then what the other blocks do once per second. -/

namespace Sys2Proof.Machine

/-- Scent evaluates every reference (R91 to R96). -/
def State.scentBoundary (s : State) : State := (List.finRange 23).foldl State.refBoundary1 s

/-- A second whose comparison has not been made when it is due for replacement is settled without the missing digests (R78, R79). -/
def State.pairOverdue (s : State) : State :=
  let open_ := fun (s : State) => s.knl.pair.second.isSome && !s.knl.pair.settled
  let s := if open_ s && !s.knl.pair.recomputing then s.kCompare else s
  if open_ s && s.knl.pair.recomputing then s.recomputeEnd else s

/-- The K-pair at a boundary (R78, R80, R81): the second that it closes is opened for comparison. Nothing while the image is bad, since
the engines were never started (R60). -/
def State.pairBoundary (s : State) (unsealed : Bool) : State :=
  if s.get R.KNL_SEAL_STAT_STATE = 5 then s else (s.pairOverdue.secOpen unsealed).kRestoreDue.kSwap

/-- A seal takes effect (R84). -/
def State.sealBoundary (s : State) : State :=
  if s.knl.sealPend then
    let s : State := { s with knl := { s.knl with sealPend := false } }
    if s.sealState = 4 || s.sealState = 5 then s else s.set R.KNL_SEAL_STAT_STATE 0 0
  else s

/-- The servo in LOCKED: the second joins what it learns from, and is kept as the last locked one (R108, R224). A second without an update
breaks the run that LOCK_TIME asks for (R106). -/
def State.servoBoundary (s : State) : State :=
  let run := if s.refs.servoDone then s.refs.lockRun else 0
  let s : State := { s with refs := { s.refs with servoDone := false, lockRun := run } }
  if s.servo = 2 then
    let s := s.learnSecond
    s.setSrv { s.srv with lockedSec := s.rtSec }
  else s

/-- The wake event SECOND of both K-engines, and the swap of the halves of the input log (R259, R263). -/
def State.kinBoundary (s : State) : State := (s.kinSwap.event 0 6).event 1 6

/-- What the time, the Kennel and SEC do at a boundary. -/
def State.kennelBoundary (s : State) : State :=
  let unsealed := s.get R.KNL_SEAL_STAT_STATE != 0
  let s := s.bankSwitch.latRefresh.refEnables.syncTb
  let held := s.servo = 3 || s.frozen
  let s : State := { s with lsh := { s.lsh with due := some (s.leashBoundary.get R.LSH_CORE) } }
  let s := (s.scentBoundary.select true).wholeSeconds
  let s : State := { s with lsh := { s.lsh with due := none } }
  let s := s.oscBoundary.oscWeights.pairBoundary unsealed
  let s := s.sealBoundary.servoBoundary.leashBoundary
  -- HOLDOVER or a freeze that begins at this boundary has its term evaluated by LSH (R243)
  let s := if (s.servo = 3 || s.frozen) && !held then s.leashWiden else s
  let s := s.showHold
  s.kinBoundary.tdcBoundary

/-- A GM_SEQ that no longer rises, or a reference that ranks better, is seen at the latest at the boundary (R332, R333). -/
def State.packSecond (s : State) : State := if s.flag R.PCK_CFG_ENABLE then s.run 10 (·.uplinkEval) else s

/-- What the other blocks do once per second. -/
def State.blockBoundary (s : State) : State :=
  let s := s.gnsBoundary.linkSecond.packSecond.braceSecond.guardSecond
  (s.ageBy 1).boneRefresh.buryRepeat.dbgSecond

/-- In SN_RECOVERY, and in SN_TEST once TEST_MODE has asked for it, the lead, while it runs, requests the handover into LC at each boundary until one is
accepted (R51). -/
def State.snReturn (s : State) : State :=
  if (s.mode = 2 || (s.mode = 3 && s.time.leaveTest)) && s.leadUp && s.time.armed.isNone then s.leadHandover
  else s

/-- A boundary event (R512): the second whose boundary was passed last is served. While GUARD_FAIL is active and a partner serves, the
Kennel asks for a Chip reset (R464). -/
def State.boundary (s : State) : State :=
  let sec := s.rtSec
  if !s.time.running || sec ≤ s.time.prevSec then s
  else
    let s := { s with time := { s.time with prevSec := sec, lastSecond := sec } }
    let s := s.kennelBoundary.blockBoundary.snReturn
    if s.knl.guardFail && s.flag R.BRC_STAT_PARTNER_SERVING then s.chipResetChecked 2 else s

/-- BOUNDARY_EVENT (R512). -/
def execBoundaryEvent (s : State) : Host.Outcome State Fault Refusal := done s.boundary

end Sys2Proof.Machine
end

