-- ==== Sys2Proof/Machine/EngEnc.lean ====
section
/-! DEFINITION. The words of the instructions, and which words raise ILLEGAL (R279 to R282, R284 to R286, R289 to R302). -/

namespace Sys2Proof.Machine

/-- The fields of an instruction word (R279). -/
structure Enc where
  op : Nat
  a : Nat
  b : Nat
  c : Nat
  fn : Nat
  imm : Nat
  va : Nat
  vb : Nat
  vc : Nat
  b11 : Nat
deriving DecidableEq, Repr

/-- A word taken apart. -/
def Enc.of (w : Word) : Enc :=
  let v := w.toNat
  { op := bits v 26 6, a := bits v 21 5, b := bits v 16 5, c := bits v 11 5, fn := bits v 0 11, imm := bits v 0 16
    va := bits v 18 3, vb := bits v 15 3, vc := bits v 12 3, b11 := bits v 11 1 }

/-- Whether an ALU group word is one of R282. -/
def encAlu (e : Enc) : Bool :=
  let f := e.fn % 64
  decide (f < 0x20) && bits e.fn 6 4 == 0
    && (!((0x17 ≤ f && f ≤ 0x1B) || f == 0x1E || f == 0x1F) || e.c == 0)

/-- Whether a time group word is one of R290: the fields that an operation does not use are 0. -/
def encTime (e : Enc) : Bool :=
  e.b11 == 0 && match e.fn with
    | 0 => e.a == 0 && e.vc == 0
    | 1 => e.a == 0
    | 2 => e.a == 0
    | 3 => e.vc == 0
    | 4 => e.va == 0
    | 5 => e.a == 0 && e.va == 0
    | 6 => e.va == 0 && e.vc == 0
    | 7 => e.va == 0 && e.vc == 0
    | 8 => e.vc == 0
    | 9 => e.vc == 0
    | 10 => e.a == 0 && e.vc == 0
    | 11 => e.a == 0 && e.vc == 0
    | 12 => e.va == 0 && e.vc == 0
    | _ => false

/-- Whether a doorbell and mailbox group word is one of R299. -/
def encBell (e : Enc) : Bool :=
  match e.fn with
  | 0 => e.a == 0
  | 1 => e.c == 0
  | 2 => e.b == 0 && e.c == 0
  | 3 => e.a == 0 && e.c == 0
  | 4 => e.a == 0 && e.c == 0
  | 5 => e.a == 0 && e.c == 0
  | _ => false

/-- Whether a Kennel group word is one of R302. -/
def encKennel (e : Enc) : Bool :=
  match e.fn with
  | 0 => true
  | 1 => e.c == 0
  | 2 => e.c == 0
  | 3 => e.c == 0
  | 4 => e.c == 0
  | 5 => e.a == 0
  | _ => false

/-- Whether a system group word is one of R300: a mask of 0 in SLEEP and the reserved items of SYSRD and SYSWR are illegal. -/
def encSystem (e : Enc) : Bool :=
  let i := e.fn / 16
  match e.fn % 16 with
  | 0 => i == 0 && e.a == 0 && e.b == 0 && e.c == 0
  | 1 => i == 0 && e.a == 0 && e.b == 0 && e.c == 0
  | 2 => i == 0 && e.a == 0 && e.b == 0 && e.c == 0
  | 3 => i == 0 && e.a == 0 && e.b == 0 && e.c == 0
  | 4 => i != 0 && e.b == 0 && e.c == 0
  | 5 => i == 0 && e.a == 0 && e.c == 0
  | 6 => decide (i < 8) && e.b == 0 && e.c == 0
  | 7 => (i == 0 || i == 6) && e.a == 0 && e.c == 0
  | _ => false

/-- Whether a word is an instruction of the opcode map (R280, R281). -/
def encLegal (w : Word) : Bool :=
  let e := Enc.of w
  match e.op with
  | 0x01 => encAlu e
  | 0x02 => true | 0x03 => true | 0x04 => true | 0x05 => true
  | 0x06 => decide (e.imm < 256)
  | 0x07 => e.b == 0
  | 0x08 => decide (e.b < 4)
  | 0x09 => true | 0x0A => true
  | 0x0B => e.a == 0
  | 0x10 => decide (e.a ≤ 20) && e.b == 0
  | 0x11 => true | 0x12 => true | 0x13 => true | 0x14 => true | 0x15 => true | 0x16 => true
  | 0x18 => true
  | 0x19 => e.b == 0
  | 0x1A => e.c == 0 && ((e.fn == 0 && e.a == 0) || e.fn == 1)
  | 0x20 => true | 0x21 => true | 0x22 => true | 0x23 => true | 0x24 => true | 0x25 => true | 0x26 => true
  | 0x27 => decide (e.a < 8)
  | 0x28 => true | 0x29 => true | 0x2A => true | 0x2B => true
  | 0x2C => decide (e.a < 8)
  | 0x2D => decide (e.fn ≤ 4)
  | 0x30 => encTime e
  | 0x31 => e.vb == 0 && e.vc == 0 && e.fn == 0 && e.b11 == 0
  | 0x32 => decide (e.fn < 128) && e.va == 0 && e.vc == 0 && e.b11 == 0
  | 0x33 => e.fn == 0 && e.c == 0
  | 0x34 => e.fn == 0 && e.c == 0
  | 0x35 => decide (e.fn ≤ 3) && e.c == 0
  | 0x36 => decide (e.fn ≤ 1) && e.c == 0
  | 0x37 => encBell e
  | 0x3C => encKennel e
  | 0x3E => encSystem e
  | _ => false

/-! ### The words of the instructions (R279) -/

/-- The R-form. -/
def wordR (op : BitVec 6) (a b c : BitVec 5) (fn : BitVec 11) : Word := op ++ a ++ b ++ c ++ fn

/-- The I-form. -/
def wordI (op : BitVec 6) (a b : BitVec 5) (imm : BitVec 16) : Word := op ++ a ++ b ++ imm

/-- The T-form; bit 11 is reserved. -/
def wordT (op : BitVec 6) (a : BitVec 5) (va vb vc : BitVec 3) (fn : BitVec 11) : Word := op ++ a ++ va ++ vb ++ vc ++ 0#1 ++ fn

/-- An operation of the ALU group, with S in fn[10] (R282). -/
def wordAlu (fn : BitVec 6) (a b c : BitVec 5) (setFlags : Bool) : Word := wordR 0x01 a b c (BitVec.ofBool setFlags ++ 0#4 ++ fn)

end Sys2Proof.Machine
end

