-- ==== Sys2Proof/Machine/Flags.lean ====
section
/-! DEFINITION. Every flag computation of the engine instructions (R283, R284, R290). -/

namespace Sys2Proof.Machine

/-- Z and N of a result (R283). -/
def znFlags (f : Flags) (r : DWord) : Flags := { f with z := r == 0, n := r.msb }

/-- The sum with carry in, and Z N C V of it (R283). -/
def addc (x y : DWord) (cin : Bool) (f : Flags) : DWord × Flags :=
  let r := x + y + BitVec.ofNat 64 (b2n cin)
  (r, { znFlags f r with c := decide (x.toNat + y.toNat + b2n cin ≥ 2 ^ 64)
                         v := decide (x.toInt + y.toInt + (b2n cin : Int) ≠ r.toInt) })

/-- The difference with borrow, where `cin` true means no borrow in, and Z N C V of it (R283). -/
def subb (x y : DWord) (cin : Bool) (f : Flags) : DWord × Flags :=
  let br := 1 - b2n cin
  let r := x - y - BitVec.ofNat 64 br
  (r, { znFlags f r with c := decide (x.toNat ≥ y.toNat + br)
                         v := decide (x.toInt - y.toInt - (br : Int) ≠ r.toInt) })

/-- Z and N only. -/
def zn (f : Flags) (r : DWord) : DWord × Flags := (r, znFlags f r)

/-- The result and flags of a shift or rotate by `n`, 0 to 63: kind 0 SLL, 1 SRL, 2 SRA, 3 ROR. C is the last bit shifted
or rotated out, unchanged when `n` is 0 (R282, R283, R284). -/
def shifted (kind n : Nat) (x : DWord) (f : Flags) : DWord × Flags :=
  let r := if kind = 0 then x <<< n else if kind = 1 then x >>> n else if kind = 2 then x.sshiftRight n else x.rotateRight n
  let out := if kind = 0 then x.getLsbD (64 - n) else x.getLsbD (n - 1)
  (r, { znFlags f r with c := if n = 0 then f.c else out })

/-- Quotient and remainder with their flags: a divisor of 0 gives all ones and the dividend, and V (R283). -/
def divide (signed rem : Bool) (x y : DWord) (f : Flags) : DWord × Flags :=
  let q := if y = 0 then BitVec.allOnes 64
    else if signed then BitVec.ofInt 64 (Int.tdiv x.toInt y.toInt) else x / y
  let m := if y = 0 then x
    else if signed then BitVec.ofInt 64 (Int.tmod x.toInt y.toInt) else x % y
  let r := if rem then m else q
  (r, { znFlags f r with v := y == 0 })

/-- The flags after TCMP (R290). -/
def tcmpFlags (f : Flags) (x y : Time) : Flags :=
  let c := decide (x.toNat ≥ y.toNat)
  { f with z := x == y, c := c, n := !c, v := false }

/-- Whether the condition of a code of BRIF holds; none for a reserved code (R285). -/
def condHolds (code : Nat) (f : Flags) : Option Bool :=
  let inv := code % 2 == 1
  let base : Option Bool := match code / 2 with
    | 0 => some f.z
    | 1 => some (f.c && !f.z)
    | 2 => some f.c
    | 3 => some (!f.z && f.n == f.v)
    | 4 => some (f.n == f.v)
    | 5 => some f.n
    | 6 => some f.v
    | 7 => some f.tsat
    | 8 => some f.tsn
    | 9 => some f.tlate
    | _ => none
  if code = 20 then some true else base.map fun b => b != inv

/-- The flags as SYSRD index 6 packs them (R300). -/
def Flags.pack (f : Flags) : Nat :=
  b2n f.z + 2 * b2n f.n + 4 * b2n f.c + 8 * b2n f.v + 16 * b2n f.tsat + 32 * b2n f.tsn + 64 * b2n f.tlate

/-- The flags that SYSWR index 6 writes (R300). -/
def Flags.ofWord (w : DWord) : Flags :=
  { z := w.getLsbD 0, n := w.getLsbD 1, c := w.getLsbD 2, v := w.getLsbD 3, tsat := w.getLsbD 4, tsn := w.getLsbD 5
    tlate := w.getLsbD 6 }

end Sys2Proof.Machine
end

