-- ==== Sys2Proof/Machine/EngAlu.lean ====
section
/-! DEFINITION. Integer instructions, branches and jumps of the engines (R282 to R286). A command carries the decoded
fields of the word, and the engine that issues it; an engine that cannot issue leaves everything as it is (log entry 3). -/

namespace Sys2Proof.Machine

/-- Whether the word at the program counter holds an uncorrectable error (R268). -/
def State.fetchBad (s : State) (n : Fin 12) : Bool := s.badAt (imemAt n + (s.pc n).toNat) 4

/-- The correctable errors of the word at the program counter. -/
def State.fetchSoft (s : State) (n : Fin 12) : Nat := s.softs (imemAt n + (s.pc n).toNat) 4

/-- The word of IMEM at the program counter (R253, R257). -/
def State.fetched (s : State) (n : Fin 12) : Word := BitVec.ofNat 32 (s.memN (imemAt n + (s.pc n).toNat) 4)

/-- An instruction that uses some registers issues: `f` where the engine can issue and the word at its program counter is that instruction's,
ECC_I where the word cannot be fetched, else the same state (R253, R268, R278, R279; log entry 3). -/
def State.issue (s : State) (ws : List Word) (n : Fin 12) (uses : List EReg) (f : State → State) : Host.Outcome State Fault Refusal :=
  .next (if s.issues n then
    (if s.fetchBad n then (s.depend n []).trap n 4
    else if ws.contains (s.fetched n) then f ((s.depend n uses).corrected n (s.fetchSoft n))
    else s)
  else s)

/-- A result and its flags written, and the next word. -/
def State.write (s : State) (n : Fin 12) (a : BitVec 5) (r : DWord × Flags) (setFlags : Bool) (cost : Nat) : State :=
  let s := s.setG n a r.1
  let s := if setFlags then s.setFlags n r.2 else s
  s.next n cost

/-- An operation of the ALU group on two registers (R282). -/
def State.alu (s : State) (ws : List Word) (n : Fin 12) (a b c : BitVec 5) (setFlags : Bool) (cost : Nat)
    (op : DWord → DWord → Flags → DWord × Flags) : Host.Outcome State Fault Refusal :=
  s.issue ws n [.g b, .g c] fun s => s.write n a (op (s.g n b) (s.g n c) (s.flags n)) setFlags cost

/-- An operation of the ALU group on one register (R282). -/
def State.alu1 (s : State) (ws : List Word) (n : Fin 12) (a b : BitVec 5) (setFlags : Bool) (op : DWord → DWord) :
    Host.Outcome State Fault Refusal :=
  s.issue ws n [.g b] fun s => s.write n a (zn (s.flags n) (op (s.g n b))) setFlags 1

/-- ADD (R282). -/
def execAdd (n : Fin 12) (a b c : BitVec 5) (setFlags : Bool) (s : State) : Host.Outcome State Fault Refusal :=
  s.alu [wordAlu 0x00 a b c setFlags] n a b c setFlags 1 fun x y f => addc x y false f

/-- SUB (R282). -/
def execSub (n : Fin 12) (a b c : BitVec 5) (setFlags : Bool) (s : State) : Host.Outcome State Fault Refusal :=
  s.alu [wordAlu 0x01 a b c setFlags] n a b c setFlags 1 fun x y f => subb x y true f

/-- ADDC (R282). -/
def execAddc (n : Fin 12) (a b c : BitVec 5) (setFlags : Bool) (s : State) : Host.Outcome State Fault Refusal :=
  s.alu [wordAlu 0x02 a b c setFlags] n a b c setFlags 1 fun x y f => addc x y f.c f

/-- SUBB (R282). -/
def execSubb (n : Fin 12) (a b c : BitVec 5) (setFlags : Bool) (s : State) : Host.Outcome State Fault Refusal :=
  s.alu [wordAlu 0x03 a b c setFlags] n a b c setFlags 1 fun x y f => subb x y f.c f

/-- AND (R282). -/
def execAnd (n : Fin 12) (a b c : BitVec 5) (setFlags : Bool) (s : State) : Host.Outcome State Fault Refusal :=
  s.alu [wordAlu 0x04 a b c setFlags] n a b c setFlags 1 fun x y f => zn f (x &&& y)

/-- OR (R282). -/
def execOr (n : Fin 12) (a b c : BitVec 5) (setFlags : Bool) (s : State) : Host.Outcome State Fault Refusal :=
  s.alu [wordAlu 0x05 a b c setFlags] n a b c setFlags 1 fun x y f => zn f (x ||| y)

/-- XOR (R282). -/
def execXor (n : Fin 12) (a b c : BitVec 5) (setFlags : Bool) (s : State) : Host.Outcome State Fault Refusal :=
  s.alu [wordAlu 0x06 a b c setFlags] n a b c setFlags 1 fun x y f => zn f (x ^^^ y)

/-- ANDN (R282). -/
def execAndn (n : Fin 12) (a b c : BitVec 5) (setFlags : Bool) (s : State) : Host.Outcome State Fault Refusal :=
  s.alu [wordAlu 0x07 a b c setFlags] n a b c setFlags 1 fun x y f => zn f (x &&& ~~~y)

/-- SLL by g[c][5:0] (R282). -/
def execSll (n : Fin 12) (a b c : BitVec 5) (setFlags : Bool) (s : State) : Host.Outcome State Fault Refusal :=
  s.alu [wordAlu 0x08 a b c setFlags] n a b c setFlags 1 fun x y f => shifted 0 (y.toNat % 64) x f

/-- SRL by g[c][5:0] (R282). -/
def execSrl (n : Fin 12) (a b c : BitVec 5) (setFlags : Bool) (s : State) : Host.Outcome State Fault Refusal :=
  s.alu [wordAlu 0x09 a b c setFlags] n a b c setFlags 1 fun x y f => shifted 1 (y.toNat % 64) x f

/-- SRA by g[c][5:0] (R282). -/
def execSra (n : Fin 12) (a b c : BitVec 5) (setFlags : Bool) (s : State) : Host.Outcome State Fault Refusal :=
  s.alu [wordAlu 0x0A a b c setFlags] n a b c setFlags 1 fun x y f => shifted 2 (y.toNat % 64) x f

/-- ROR by g[c][5:0] (R282). -/
def execRor (n : Fin 12) (a b c : BitVec 5) (setFlags : Bool) (s : State) : Host.Outcome State Fault Refusal :=
  s.alu [wordAlu 0x0B a b c setFlags] n a b c setFlags 1 fun x y f => shifted 3 (y.toNat % 64) x f

/-- MUL (R282). -/
def execMul (n : Fin 12) (a b c : BitVec 5) (setFlags : Bool) (s : State) : Host.Outcome State Fault Refusal :=
  s.alu [wordAlu 0x0C a b c setFlags] n a b c setFlags 3 fun x y f => zn f (x * y)

/-- MULHU (R282). -/
def execMulhu (n : Fin 12) (a b c : BitVec 5) (setFlags : Bool) (s : State) : Host.Outcome State Fault Refusal :=
  s.alu [wordAlu 0x0D a b c setFlags] n a b c setFlags 3 fun x y f => zn f (BitVec.ofNat 64 (x.toNat * y.toNat / 2 ^ 64))

/-- MULHS (R282). -/
def execMulhs (n : Fin 12) (a b c : BitVec 5) (setFlags : Bool) (s : State) : Host.Outcome State Fault Refusal :=
  s.alu [wordAlu 0x0E a b c setFlags] n a b c setFlags 3 fun x y f => zn f (BitVec.ofInt 64 (Int.fdiv (x.toInt * y.toInt) (2 ^ 64)))

/-- DIVU (R283). -/
def execDivu (n : Fin 12) (a b c : BitVec 5) (setFlags : Bool) (s : State) : Host.Outcome State Fault Refusal :=
  s.alu [wordAlu 0x0F a b c setFlags] n a b c setFlags 36 (divide false false)

/-- DIVS (R283). -/
def execDivs (n : Fin 12) (a b c : BitVec 5) (setFlags : Bool) (s : State) : Host.Outcome State Fault Refusal :=
  s.alu [wordAlu 0x10 a b c setFlags] n a b c setFlags 36 (divide true false)

/-- REMU (R283). -/
def execRemu (n : Fin 12) (a b c : BitVec 5) (setFlags : Bool) (s : State) : Host.Outcome State Fault Refusal :=
  s.alu [wordAlu 0x11 a b c setFlags] n a b c setFlags 36 (divide false true)

/-- REMS (R283). -/
def execRems (n : Fin 12) (a b c : BitVec 5) (setFlags : Bool) (s : State) : Host.Outcome State Fault Refusal :=
  s.alu [wordAlu 0x12 a b c setFlags] n a b c setFlags 36 (divide true true)

/-- MINS (R282). -/
def execMins (n : Fin 12) (a b c : BitVec 5) (setFlags : Bool) (s : State) : Host.Outcome State Fault Refusal :=
  s.alu [wordAlu 0x13 a b c setFlags] n a b c setFlags 1 fun x y f => zn f (if x.slt y then x else y)

/-- MAXS (R282). -/
def execMaxs (n : Fin 12) (a b c : BitVec 5) (setFlags : Bool) (s : State) : Host.Outcome State Fault Refusal :=
  s.alu [wordAlu 0x14 a b c setFlags] n a b c setFlags 1 fun x y f => zn f (if x.slt y then y else x)

/-- MINU (R282). -/
def execMinu (n : Fin 12) (a b c : BitVec 5) (setFlags : Bool) (s : State) : Host.Outcome State Fault Refusal :=
  s.alu [wordAlu 0x15 a b c setFlags] n a b c setFlags 1 fun x y f => zn f (if x.ult y then x else y)

/-- MAXU (R282). -/
def execMaxu (n : Fin 12) (a b c : BitVec 5) (setFlags : Bool) (s : State) : Host.Outcome State Fault Refusal :=
  s.alu [wordAlu 0x16 a b c setFlags] n a b c setFlags 1 fun x y f => zn f (if x.ult y then y else x)

/-- SLT (R282). -/
def execSlt (n : Fin 12) (a b c : BitVec 5) (setFlags : Bool) (s : State) : Host.Outcome State Fault Refusal :=
  s.alu [wordAlu 0x1C a b c setFlags] n a b c setFlags 1 fun x y f => zn f (BitVec.ofNat 64 (b2n (x.slt y)))

/-- SLTU (R282). -/
def execSltu (n : Fin 12) (a b c : BitVec 5) (setFlags : Bool) (s : State) : Host.Outcome State Fault Refusal :=
  s.alu [wordAlu 0x1D a b c setFlags] n a b c setFlags 1 fun x y f => zn f (BitVec.ofNat 64 (b2n (x.ult y)))

/-- The low `k` bytes of a word reversed, zero-extended. -/
def bswap (k : Nat) (x : DWord) : DWord := BitVec.ofNat 64 (ofLe (beBytes k x.toNat))

/-- BSWAP16 (R282). -/
def execBswap16 (n : Fin 12) (a b : BitVec 5) (setFlags : Bool) (s : State) : Host.Outcome State Fault Refusal :=
  s.alu1 [wordAlu 0x17 a b 0 setFlags] n a b setFlags (bswap 2)

/-- BSWAP32 (R282). -/
def execBswap32 (n : Fin 12) (a b : BitVec 5) (setFlags : Bool) (s : State) : Host.Outcome State Fault Refusal :=
  s.alu1 [wordAlu 0x18 a b 0 setFlags] n a b setFlags (bswap 4)

/-- BSWAP64 (R282). -/
def execBswap64 (n : Fin 12) (a b : BitVec 5) (setFlags : Bool) (s : State) : Host.Outcome State Fault Refusal :=
  s.alu1 [wordAlu 0x19 a b 0 setFlags] n a b setFlags (bswap 8)

/-- Leading zero bits, 0 to 64. -/
def clz64 (x : DWord) : Nat := (((List.range 64).map fun i => x.getLsbD (63 - i)).takeWhile (!·)).length

/-- CLZ (R282). -/
def execClz (n : Fin 12) (a b : BitVec 5) (setFlags : Bool) (s : State) : Host.Outcome State Fault Refusal :=
  s.alu1 [wordAlu 0x1A a b 0 setFlags] n a b setFlags fun x => BitVec.ofNat 64 (clz64 x)

/-- POPC (R282). -/
def execPopc (n : Fin 12) (a b : BitVec 5) (setFlags : Bool) (s : State) : Host.Outcome State Fault Refusal :=
  s.alu1 [wordAlu 0x1B a b 0 setFlags] n a b setFlags fun x => BitVec.ofNat 64 ((List.range 64).countP fun i => x.getLsbD i)

/-- SEXT32 (R282). -/
def execSext32 (n : Fin 12) (a b : BitVec 5) (setFlags : Bool) (s : State) : Host.Outcome State Fault Refusal :=
  s.alu1 [wordAlu 0x1E a b 0 setFlags] n a b setFlags fun x => (x.truncate 32).signExtend 64

/-- ZEXT32 (R282). -/
def execZext32 (n : Fin 12) (a b : BitVec 5) (setFlags : Bool) (s : State) : Host.Outcome State Fault Refusal :=
  s.alu1 [wordAlu 0x1F a b 0 setFlags] n a b setFlags fun x => (x.truncate 32).zeroExtend 64

/-! ### Immediate forms (R284) -/

/-- An immediate form with one source register, no flags. -/
def State.aluImm (s : State) (ws : List Word) (n : Fin 12) (a b : BitVec 5) (op : DWord → DWord) : Host.Outcome State Fault Refusal :=
  s.issue ws n [.g b] fun s => (s.setG n a (op (s.g n b))).next n 1

/-- ADDI (R284). -/
def execAddi (n : Fin 12) (a b : BitVec 5) (imm : BitVec 16) (s : State) : Host.Outcome State Fault Refusal :=
  s.aluImm [wordI 0x02 a b imm] n a b fun x => x + imm.signExtend 64

/-- ANDI (R284). -/
def execAndi (n : Fin 12) (a b : BitVec 5) (imm : BitVec 16) (s : State) : Host.Outcome State Fault Refusal :=
  s.aluImm [wordI 0x03 a b imm] n a b fun x => x &&& imm.zeroExtend 64

/-- ORI (R284). -/
def execOri (n : Fin 12) (a b : BitVec 5) (imm : BitVec 16) (s : State) : Host.Outcome State Fault Refusal :=
  s.aluImm [wordI 0x04 a b imm] n a b fun x => x ||| imm.zeroExtend 64

/-- XORI (R284). -/
def execXori (n : Fin 12) (a b : BitVec 5) (imm : BitVec 16) (s : State) : Host.Outcome State Fault Refusal :=
  s.aluImm [wordI 0x05 a b imm] n a b fun x => x ^^^ imm.zeroExtend 64

/-- SHI (R284). -/
def execShi (n : Fin 12) (a b : BitVec 5) (kind : BitVec 2) (count : BitVec 6) (s : State) : Host.Outcome State Fault Refusal :=
  s.issue [wordI 0x06 a b (0#8 ++ kind ++ count)] n [.g b] fun s => (s.setG n a (shifted kind.toNat count.toNat (s.g n b) (s.flags n)).1).next n 1

/-- LUI (R284). -/
def execLui (n : Fin 12) (a : BitVec 5) (imm : BitVec 16) (s : State) : Host.Outcome State Fault Refusal :=
  s.issue [wordI 0x07 a 0 imm] n [] fun s => (s.setG n a ((imm ++ 0#16).signExtend 64)).next n 1

/-- MOVK (R284). -/
def execMovk (n : Fin 12) (a : BitVec 5) (k : BitVec 2) (imm : BitVec 16) (s : State) : Host.Outcome State Fault Refusal :=
  s.issue [wordI 0x08 a (0#3 ++ k) imm] n [.g a] fun s => (s.setG n a (BitVec.ofNat 64 (setBits (s.g n a).toNat (16 * k.toNat) 16 imm.toNat))).next n 1

/-- SLTI (R284). -/
def execSlti (n : Fin 12) (a b : BitVec 5) (imm : BitVec 16) (s : State) : Host.Outcome State Fault Refusal :=
  s.aluImm [wordI 0x09 a b imm] n a b fun x => BitVec.ofNat 64 (b2n (x.slt (imm.signExtend 64)))

/-- SLTIU (R284). -/
def execSltiu (n : Fin 12) (a b : BitVec 5) (imm : BitVec 16) (s : State) : Host.Outcome State Fault Refusal :=
  s.aluImm [wordI 0x0A a b imm] n a b fun x => BitVec.ofNat 64 (b2n (x.ult (imm.signExtend 64)))

/-- CMPI (R284). -/
def execCmpi (n : Fin 12) (b : BitVec 5) (imm : BitVec 16) (s : State) : Host.Outcome State Fault Refusal :=
  s.issue [wordI 0x0B 0 b imm] n [.g b] fun s => (s.setFlags n (subb (s.g n b) (imm.signExtend 64) true (s.flags n)).2).next n 1

/-! ### Branches and jumps (R285, R286) -/

/-- The target of a 16-bit word offset, modulo 2¹⁶ (R286). -/
def target16 (pc : BitVec 16) (imm : BitVec 16) : BitVec 16 := pc + 4 + imm * 4

/-- A transfer taken or not, with its cycles (R286). -/
def State.transfer (s : State) (n : Fin 12) (taken : Bool) (target : BitVec 16) : State :=
  if taken then (s.setPc n target).retired n (s.pc n) 3 true else s.next n 1

/-- A compare-and-branch (R286). -/
def State.branch (s : State) (ws : List Word) (n : Fin 12) (a b : BitVec 5) (imm : BitVec 16) (cond : DWord → DWord → Bool) :
    Host.Outcome State Fault Refusal :=
  s.issue ws n [.g a, .g b] fun s => s.transfer n (cond (s.g n a) (s.g n b)) (target16 (s.pc n) imm)

/-- BRIF (R285, R286); a reserved code raises ILLEGAL (R280). -/
def execBrif (n : Fin 12) (cond : BitVec 5) (imm : BitVec 16) (s : State) : Host.Outcome State Fault Refusal :=
  s.issue [wordI 0x10 cond 0 imm] n [] fun s => match condHolds cond.toNat (s.flags n) with
    | some t => s.transfer n t (target16 (s.pc n) imm)
    | none => s.trap n cILLEGAL

/-- BEQ (R286). -/
def execBeq (n : Fin 12) (a b : BitVec 5) (imm : BitVec 16) (s : State) : Host.Outcome State Fault Refusal :=
  s.branch [wordI 0x11 a b imm] n a b imm fun x y => x == y

/-- BNE (R286). -/
def execBne (n : Fin 12) (a b : BitVec 5) (imm : BitVec 16) (s : State) : Host.Outcome State Fault Refusal :=
  s.branch [wordI 0x12 a b imm] n a b imm fun x y => x != y

/-- BLT, signed (R286). -/
def execBlt (n : Fin 12) (a b : BitVec 5) (imm : BitVec 16) (s : State) : Host.Outcome State Fault Refusal :=
  s.branch [wordI 0x13 a b imm] n a b imm fun x y => x.slt y

/-- BGE, signed (R286). -/
def execBge (n : Fin 12) (a b : BitVec 5) (imm : BitVec 16) (s : State) : Host.Outcome State Fault Refusal :=
  s.branch [wordI 0x14 a b imm] n a b imm fun x y => !x.slt y

/-- BLTU (R286). -/
def execBltu (n : Fin 12) (a b : BitVec 5) (imm : BitVec 16) (s : State) : Host.Outcome State Fault Refusal :=
  s.branch [wordI 0x15 a b imm] n a b imm fun x y => x.ult y

/-- BGEU (R286). -/
def execBgeu (n : Fin 12) (a b : BitVec 5) (imm : BitVec 16) (s : State) : Host.Outcome State Fault Refusal :=
  s.branch [wordI 0x16 a b imm] n a b imm fun x y => !x.ult y

/-- GO (R286). -/
def execGo (n : Fin 12) (off : BitVec 26) (s : State) : Host.Outcome State Fault Refusal :=
  s.issue [0x18#6 ++ off] n [] fun s => s.transfer n true (target16 (s.pc n) (off.truncate 16))

/-- CALL (R286): the link is pc + 4. -/
def execCall (n : Fin 12) (a : BitVec 5) (imm : BitVec 16) (s : State) : Host.Outcome State Fault Refusal :=
  s.issue [wordI 0x19 a 0 imm] n [] fun s =>
    let pc := s.pc n
    (s.setG n a ((pc + 4).zeroExtend 64)).transfer n true (target16 pc imm)

/-- The jump of GOR and CALLR: ALIGN unless the target is a word, with ENG_BADADDR the low word of the register (R286). -/
def State.jumpReg (s : State) (n : Fin 12) (b : BitVec 5) (link : Option (BitVec 5)) : State :=
  let t := s.g n b
  if t.toNat % 4 ≠ 0 then s.trap n cALIGN (some t.toNat)
  else
    let pc := s.pc n
    let s := match link with
      | some a => s.setG n a ((pc + 4).zeroExtend 64)
      | none => s
    s.transfer n true (t.truncate 16)

/-- GOR (R286). -/
def execGor (n : Fin 12) (b : BitVec 5) (s : State) : Host.Outcome State Fault Refusal :=
  s.issue [wordR 0x1A 0 b 0 0] n [.g b] fun s => s.jumpReg n b none

/-- CALLR (R286): the target is read before the link is written. -/
def execCallr (n : Fin 12) (a b : BitVec 5) (s : State) : Host.Outcome State Fault Refusal :=
  s.issue [wordR 0x1A a b 0 1] n [.g b] fun s => s.jumpReg n b (some a)

end Sys2Proof.Machine
end

