-- ==== Sys2Proof/Machine/ObsRec.lean ====
section
/-! DEFINITION. The rings of OBS: snapshots, sampling records and PMARK (R468 to R471, R475). -/

namespace Sys2Proof.Machine

/-- An entry of `size` bytes enters a ring of `n` entries at a window: refused when WR − RD equals `n` (R203, R469). -/
def State.obsRing (s : State) (win wr rd : Fld) (n size idx : Nat) (bytes : List Byte) : Option State :=
  if (s.get wr + 65536 - s.get rd) % 65536 ≥ n then none
  else some ((s.setWordsN (win.addr + idx % n * size) (ofLe (padTo size bytes)) (size / 4)).bumpW wr)

/-! ### Snapshots (R468, R469) -/

/-- The 288 bytes of a snapshot entry that hold something (R469). -/
def State.snapBytes (s : State) (cause : Nat) : List Byte :=
  let lost := s.obsv.snapLost
  let en := (List.range 32).foldl (fun m k => if s.flag R.OBS_CNT_SEL_ENABLE k then m + 2 ^ k else m) 0
  leBytes 12 s.rt.toNat ++ leBytes 4 s.obsv.snapSeq ++ leBytes 1 cause
    ++ leBytes 1 (b2n (lost != 0) + 2 * b2n (s.flag R.CLK_STAT_SYSPLL_COAST)) ++ leBytes 2 (Nat.min lost 65535) ++ leBytes 4 en
    ++ leBytes 8 0 ++ (List.range 32).flatMap fun k => leBytes 8 (s.get R.OBS_CNT k)

/-- A snapshot is taken: it enters the ring, or is lost when the ring is full. SEQ numbers the entries that enter, so that the
entry lies at SEQ mod 64 where a reader looks for it (R203, R469; log entry 70). -/
def State.snapshot (s : State) (cause : Nat) : State :=
  let seq := s.obsv.snapSeq
  match s.obsRing R.OBS_SNAP_WIN R.OBS_SNAP_WR R.OBS_SNAP_RD 64 0x200 seq (s.snapBytes cause) with
  | some s' =>
    (State.obsReady { s' with obsv := { s'.obsv with snapSeq := (seq + 1) % 2 ^ 32, snapLost := 0 } }
      R.OBS_SNAP_WR R.OBS_SNAP_RD R.OBS_SNAP_CFG_THRESH 0)
  | none =>
    ((State.bump { s with obsv := { s.obsv with snapLost := s.obsv.snapLost + 1 } } R.OBS_SNAP_LOST).raiseBit R.OBS_EVT 0 1)

/-! ### Sampling (R470, R471) -/

/-- A sampling record of an engine's last completed instruction (R470, R471). -/
def State.smpRecord (s : State) (n : Fin 12) (sampled : Bool) : State :=
  let l := (s.engine n).last
  let lost := s.obsv.smpLost
  let flags := b2n l.trapped + 2 * b2n sampled + 4 * b2n (lost != 0) + 8 * b2n (s.flag R.ENG_STAT_IN_TRAP n)
  let bytes := leBytes 1 n.val ++ leBytes 1 (b2n l.mark.isSome) ++ leBytes 2 l.pc.toNat ++ leBytes 2 (Nat.min l.cost 65535)
    ++ leBytes 1 l.cls ++ leBytes 1 flags ++ leBytes 2 (l.mark.getD 0).toNat ++ leBytes 2 (Nat.min lost 65535)
    ++ leBytes 8 (s.get R.ENG_CYCLES n) ++ leBytes 12 (s.engineRt n).toNat
  match s.obsRing R.OBS_SMP_WIN R.OBS_SMP_WR R.OBS_SMP_RD 8192 0x20 (s.get R.OBS_SMP_WR) bytes with
  | some s' =>
    let s' := { s' with obsv := { s'.obsv with smpLost := 0 } }
    (s'.bumpW R.OBS_SMP_CNT n).obsReady R.OBS_SMP_WR R.OBS_SMP_RD R.OBS_SMP_THRESH 2
  | none => (({ s with obsv := { s.obsv with smpLost := lost + 1 } }).bump R.OBS_SMP_LOST).raiseBit R.OBS_EVT 0 3

/-- The next interval of an engine's samples: PERIOD with its low JITTER bits random. -/
def State.smpArm (s : State) (n : Fin 12) : State :=
  let j := 2 ^ s.get R.OBS_SMP_CFG_JITTER n
  let p := s.get R.OBS_SMP_CFG_PERIOD n
  let at_ := s.get R.ENG_RETIRED n + (p / j * j + Config.freeNat s.draw % j)
  ({ s with obsv := { s.obsv with smpAt := s.obsv.smpAt.set n at_ } } : State).drawn

/-- Whether the instruction that completed last, or trapped, is the one selected (R470). -/
def State.smpHit (s : State) (n : Fin 12) : Bool :=
  2 ≤ n.val && s.flag R.OBS_SMP_CFG_ENABLE n
    && decide (s.get R.ENG_RETIRED n + b2n (s.engine n).last.trapped ≥ s.obsv.smpAt[n])

end Sys2Proof.Machine
end

