-- ==== Sys2Proof/Machine/EngTime.lean ====
section
/-! DEFINITION. The time group, TNOW, and the system instructions that complete at once (R290, R291, R300, R301). -/

namespace Sys2Proof.Machine

/-- A time register written, with TSAT when the operation sets it, and the next word. -/
def State.timeOp (s : State) (n : Fin 12) (va : BitVec 3) (t : Time) (sat : Option Bool) (cost : Nat) : State :=
  let s := s.setV n va t
  let s := match sat with
    | some b => s.setFlags n { s.flags n with tsat := b }
    | none => s
  s.next n cost

/-- An exact sum as a T96, saturating at 0 and 2⁹⁶ − 1 (R255, R290). -/
def satTime (x : Int) : Time × Bool :=
  if x < 0 then (0, true) else if x ≥ 2 ^ 96 then (BitVec.allOnes 96, true) else (BitVec.ofInt 96 x, false)

/-- TMOV (R290). -/
def execTmov (n : Fin 12) (va vb : BitVec 3) (s : State) : Host.Outcome State Fault Refusal :=
  s.issue [wordT 0x30 0 va vb 0 0] n [.v vb] fun s => s.timeOp n va (s.v n vb) none 1

/-- TADD (R290). -/
def execTadd (n : Fin 12) (va vb vc : BitVec 3) (s : State) : Host.Outcome State Fault Refusal :=
  s.issue [wordT 0x30 0 va vb vc 1] n [.v vb, .v vc] fun s =>
    let r := satTime ((s.v n vb).toNat + (s.v n vc).toNat)
    s.timeOp n va r.1 (some r.2) 1

/-- TSUB (R290). -/
def execTsub (n : Fin 12) (va vb vc : BitVec 3) (s : State) : Host.Outcome State Fault Refusal :=
  s.issue [wordT 0x30 0 va vb vc 2] n [.v vb, .v vc] fun s =>
    let r := satTime (((s.v n vb).toNat : Int) - (s.v n vc).toNat)
    s.timeOp n va r.1 (some r.2) 1

/-- TADDG (R290). -/
def execTaddg (n : Fin 12) (va vb : BitVec 3) (a : BitVec 5) (s : State) : Host.Outcome State Fault Refusal :=
  s.issue [wordT 0x30 a va vb 0 3] n [.v vb, .g a] fun s =>
    let r := satTime (((s.v n vb).toNat : Int) + (s.g n a).toInt)
    s.timeOp n va r.1 (some r.2) 1

/-- The difference of TDIFF: signed 64-bit, saturating (R290). -/
def tdiff (x y : Time) : DWord × Bool :=
  let d : Int := (x.toNat : Int) - y.toNat
  if d < -(2 ^ 63) then (BitVec.intMin 64, true) else if d ≥ 2 ^ 63 then (BitVec.intMax 64, true) else (BitVec.ofInt 64 d, false)

/-- TDIFF (R290). -/
def execTdiff (n : Fin 12) (a : BitVec 5) (vb vc : BitVec 3) (s : State) : Host.Outcome State Fault Refusal :=
  s.issue [wordT 0x30 a 0 vb vc 4] n [.v vb, .v vc] fun s =>
    let r := tdiff (s.v n vb) (s.v n vc)
    let s := s.setG n a r.1
    (s.setFlags n { s.flags n with tsat := r.2 }).next n 1

/-- TCMP (R290). -/
def execTcmp (n : Fin 12) (vb vc : BitVec 3) (s : State) : Host.Outcome State Fault Refusal :=
  s.issue [wordT 0x30 0 0 vb vc 5] n [.v vb, .v vc] fun s => (s.setFlags n (tcmpFlags (s.flags n) (s.v n vb) (s.v n vc))).next n 1

/-- TGETS (R290). -/
def execTgets (n : Fin 12) (a : BitVec 5) (vb : BitVec 3) (s : State) : Host.Outcome State Fault Refusal :=
  s.issue [wordT 0x30 a 0 vb 0 6] n [.v vb] fun s => (s.setG n a (BitVec.ofNat 64 (secOf (s.v n vb)))).next n 1

/-- TGETF (R290). -/
def execTgetf (n : Fin 12) (a : BitVec 5) (vb : BitVec 3) (s : State) : Host.Outcome State Fault Refusal :=
  s.issue [wordT 0x30 a 0 vb 0 7] n [.v vb] fun s => (s.setG n a (BitVec.ofNat 64 (fracOf (s.v n vb)))).next n 1

/-- TSETS (R290). -/
def execTsets (n : Fin 12) (va vb : BitVec 3) (a : BitVec 5) (s : State) : Host.Outcome State Fault Refusal :=
  s.issue [wordT 0x30 a va vb 0 8] n [.v vb, .g a] fun s => s.timeOp n va (BitVec.ofNat 96 ((s.g n a).toNat % 2 ^ 48 * 2 ^ 48 + fracOf (s.v n vb))) none 1

/-- TSETF (R290). -/
def execTsetf (n : Fin 12) (va vb : BitVec 3) (a : BitVec 5) (s : State) : Host.Outcome State Fault Refusal :=
  s.issue [wordT 0x30 a va vb 0 9] n [.v vb, .g a] fun s => s.timeOp n va (BitVec.ofNat 96 (secOf (s.v n vb) * 2 ^ 48 + (s.g n a).toNat % 2 ^ 48)) none 1

/-- TTOSN (R290, R44). -/
def execTtosn (n : Fin 12) (va vb : BitVec 3) (s : State) : Host.Outcome State Fault Refusal :=
  s.issue [wordT 0x30 0 va vb 0 10] n [.v vb] fun s => s.timeOp n va (t96ToSn96 (s.v n vb)) none 4

/-- SN96 to T96 with saturation: the carry of nanoseconds of 10⁹ or more may pass the last second (R44, R290). -/
def fromSn (t : Time) : Time × Bool :=
  let whole := 1000000000 * 2 ^ 16
  satTime ((secOf t + snUnits t / whole) * 2 ^ 48 + snUnits t % whole * 2 ^ 48 / whole : Nat)

/-- TFROMSN (R290, R44). -/
def execTfromsn (n : Fin 12) (va vb : BitVec 3) (s : State) : Host.Outcome State Fault Refusal :=
  s.issue [wordT 0x30 0 va vb 0 11] n [.v vb] fun s =>
    let r := fromSn (s.v n vb)
    s.timeOp n va r.1 (some r.2) 4

/-- TNTP (R290). -/
def execTntp (n : Fin 12) (a : BitVec 5) (vb : BitVec 3) (s : State) : Host.Outcome State Fault Refusal :=
  s.issue [wordT 0x30 a 0 vb 0 12] n [.v vb] fun s =>
    let t := s.v n vb
    (s.setG n a (BitVec.ofNat 64 ((secOf t + 2208988800) % 2 ^ 32 * 2 ^ 32 + fracOf t / 2 ^ 16))).next n 2

/-- What TNOW puts in g[a] (R291): MODE of the replica, and CSET_VER. -/
def State.nowWord (s : State) : DWord := BitVec.ofNat 64 (s.mode + s.get R.KNL_TIME_MODE_CSET_VER * 2 ^ 16)

/-- TNOW (R256, R291). -/
def execTnow (n : Fin 12) (a : BitVec 5) (va : BitVec 3) (s : State) : Host.Outcome State Fault Refusal :=
  s.issue [wordT 0x31 a va 0 0 0] n [] fun s =>
    let w := s.nowWord
    let t := s.engineRt n
    let sn := !s.inLc
    let s := (s.setG n a w).setV n va t
    (s.setFlags n { s.flags n with tsn := sn }).next n 2

/-! ### System instructions (R300, R301) -/

/-- NOP (R280, R300). -/
def execNop (n : Fin 12) (s : State) : Host.Outcome State Fault Refusal := s.issue [wordR 0x3E 0 0 0 0, wordI 0x02 0 0 0] n [] fun s => s.next n 1

/-- ECALL (R300, R301): the trap saves the address after the ECALL. -/
def execEcall (n : Fin 12) (s : State) : Host.Outcome State Fault Refusal :=
  s.issue [wordR 0x3E 0 0 0 1] n [] fun s =>
    let pc := s.pc n
    (s.retired n pc 1).trapAt n cECALL (pc + 4) none false

/-- TRET (R300, R301): ILLEGAL outside a trap. An NMI that waited is taken after it. -/
def execTret (n : Fin 12) (s : State) : Host.Outcome State Fault Refusal :=
  s.issue [wordR 0x3E 0 0 0 2] n [] fun s =>
    if s.flag R.ENG_STAT_IN_TRAP n then
      let pc := s.pc n
      let s := (s.setPc n (BitVec.ofNat 16 (s.get R.ENG_EPC n))).setFlag R.ENG_STAT_IN_TRAP n false
      (s.retired n pc 3 true).boundaryTraps n
    else s.trap n cILLEGAL

/-- PMARK (R300, R471): a record of KIND 1 where MARKS is set, on E2 to E11; the one record of a PMARK that is
selected for sampling has SAMPLED set. -/
def execPmark (n : Fin 12) (b : BitVec 5) (s : State) : Host.Outcome State Fault Refusal :=
  s.issue [wordR 0x3E 0 b 0 5] n [.g b] fun s =>
    let m := (s.g n b).truncate 16
    let s := s.next n 1
    let s := s.setEng n { s.engine n with last := { (s.engine n).last with mark := some m } }
    if 2 ≤ n.val && s.flag R.OBS_SMP_CFG_MARKS n then
      if s.smpHit n then (s.smpRecord n true).smpArm n else s.smpRecord n false
    else s

/-- The engine items of SYSRD (R300). -/
def State.sysItem (s : State) (n : Fin 12) (idx : Nat) : Option Nat :=
  match idx with
  | 0 => some (s.get R.ENG_EPC n)
  | 1 => some (s.get R.ENG_STAT_CAUSE n)
  | 2 => some (s.get R.ENG_BADADDR n)
  | 3 => some n.val
  | 4 => some (s.get R.ENG_CYCLES n)
  | 5 => some (s.get R.ENG_RETIRED n)
  | 6 => some (s.flags n).pack
  | 7 => some (s.get R.ENG_STAT_WAKE n)
  | _ => none

/-- SYSRD (R300); a reserved index raises ILLEGAL. -/
def execSysrd (n : Fin 12) (a : BitVec 5) (idx : BitVec 7) (s : State) : Host.Outcome State Fault Refusal :=
  s.issue [wordR 0x3E a 0 0 (idx ++ 6#4)] n [] fun s => match s.sysItem n idx.toNat with
    | some v => (s.setG n a (BitVec.ofNat 64 v)).next n 1
    | none => s.trap n cILLEGAL

/-- SYSWR (R300): ENG_EPC and the flags; others raise ILLEGAL. -/
def execSyswr (n : Fin 12) (b : BitVec 5) (idx : BitVec 7) (s : State) : Host.Outcome State Fault Refusal :=
  s.issue [wordR 0x3E 0 b 0 (idx ++ 7#4)] n [.g b] fun s =>
    if idx = 0 then (s.set R.ENG_EPC n (s.g n b).toNat).next n 1
    else if idx = 6 then (s.setFlags n (Flags.ofWord (s.g n b))).next n 1
    else s.trap n cILLEGAL

/-- HBEAT (R299, R461). -/
def execHbeat (n : Fin 12) (b : BitVec 5) (s : State) : Host.Outcome State Fault Refusal :=
  s.issue [wordR 0x37 0 b 0 5] n [.g b] fun s => (s.heartbeat n ((s.g n b).truncate 32)).next n 1

/-- DBTAKE (R299): the named bits are read and cleared in one access. -/
def execDbtake (n : Fin 12) (a b : BitVec 5) (s : State) : Host.Outcome State Fault Refusal :=
  s.issue [wordR 0x37 a b 0 1] n [.g b] fun s =>
    let p := BitVec.ofNat 32 (s.get R.ENG_DBELL_PEND n)
    let m := (s.g n b).truncate 32
    let s := s.set R.ENG_DBELL_PEND n (p &&& ~~~m).toNat
    (s.setG n a ((p &&& m).zeroExtend 64)).next n 2

end Sys2Proof.Machine
end

