-- ==== Sys2Proof/Machine/Operands.lean ====
section
/-! DEFINITION. Addresses of engine loads and stores: how they are formed, what they reach and their alignment (R257, R278,
R287, R288). -/

namespace Sys2Proof.Machine

/-- The address g[b] + sext(imm), 32 bits (R257, R287). -/
def State.effAddr (s : State) (n : Fin 12) (b : BitVec 5) (imm : BitVec 16) : Nat :=
  ((s.g n b + imm.signExtend 64).truncate 32 : BitVec 32).toNat

/-- What an access of an engine reaches (R257). -/
inductive View where
  /-- DMEM, with the matrix address of its cells -/
  | dmem (cell : Nat)
  /-- the K-pair input log, by offset -/
  | kin (off : Nat)
  /-- shared or client SRAM -/
  | sram
  /-- a register block, by BAR0 offset -/
  | regs (off : Nat)
  /-- an address that R257 closes -/
  | closed
deriving DecidableEq, Repr

/-- Whether a BAR0 range belongs to KNL, REF, TIM, SYN, LSH or the windows of E0 and E1 (R257). -/
def kennelRegs (lo hi : Nat) : Bool :=
  (decide (0x1000000 ≤ lo) && decide (hi ≤ 0x1500000)) || (decide (0x4000000 ≤ lo) && decide (hi ≤ 0x4200000))

/-- What `len` bytes at an address reach for an engine (R257). IMEM is fetch only. -/
def engView (n : Fin 12) (a len : Nat) : View :=
  if 0x10000 ≤ a ∧ a + len ≤ 0x20000 then .dmem (dmemAt n + (a - 0x10000))
  else if n.val < 2 ∧ 0x20000 ≤ a ∧ a + len ≤ 0x30000 then .kin (a - 0x20000)
  else if 2 ≤ n.val ∧ inSram a len then .sram
  else if 0x40000000 ≤ a ∧ a + len ≤ 0x48000000 then
    if 2 ≤ n.val || kennelRegs (a - 0x40000000) (a - 0x40000000 + len) then .regs (a - 0x40000000) else .closed
  else .closed

/-- The alignment that an access of `len` bytes needs: natural, and 4 for the 12 bytes of TLD and TST (R287). -/
def alignOf (len : Nat) : Nat := if len = 12 then 4 else len

/-- The bytes of a descriptor or block of words in an engine's own DMEM; none where the address leaves DMEM (R295, R302). -/
def State.dmemBytes (s : State) (n : Fin 12) (a len : Nat) : Option (List Byte) :=
  match engView n a len with
  | .dmem c => some (s.bytes c len)
  | _ => none

/-- ECC has corrected `k` words of DMEM that an instruction read: a cycle of class DEP where there was one (R253, R278, R472). -/
def State.dmemSoft (s : State) (n : Fin 12) (k : Nat) : State :=
  if k = 0 then s
  else
    let s := s.slot n R.OBS_TD_DEP 1
    let e := s.engine n
    (if e.held.isSome || e.waiting.isSome then s else s.costMore n 4 1).corrected n k

/-- A block of words at a DMEM address in a register: `f` on its bytes, or the trap that the address raises (R287, R302). -/
def State.withDmem (s : State) (n : Fin 12) (b : BitVec 5) (align len : Nat) (f : List Byte → State → State) : State :=
  let a := ((s.g n b).truncate 32 : BitVec 32).toNat
  if a % align ≠ 0 then s.trap n cALIGN (some a)
  else match engView n a len with
    | .dmem c => if s.badAt c len then s.trap n 5 else (f (s.bytes c len) s).dmemSoft n (s.softs c len)
    | _ => s.trap n cBUSERR (some a)

end Sys2Proof.Machine
end

