-- ==== Sys2Proof/Machine/EngKnl.lean ====
section
/-! DEFINITION. The Kennel-only forms (R271, R302, R303). Only the lead's reach the time-bus source, LSH and REF; the standby's
are checked for form and discarded. -/

namespace Sys2Proof.Machine

/-- A Kennel-only form issues: ILLEGAL on E2 to E11 (R271). -/
def State.issueK (s : State) (ws : List Word) (n : Fin 12) (uses : List EReg) (f : State → State) : Host.Outcome State Fault Refusal :=
  s.issue ws n uses fun s => if n.val < 2 then f s else s.trap n cILLEGAL

/-- Whether an engine is the lead (R77). -/
def State.isLead (s : State) (n : Fin 12) : Bool := kEng s.lead == n

/-- ANCHOR (R302, R303). -/
def execAnchor (n : Fin 12) (a b c : BitVec 5) (s : State) : Host.Outcome State Fault Refusal :=
  s.issueK [wordR 0x3C a b c 0] n [.g b, .g c, .g a] fun s =>
    let freq := s.g n b
    let phase := s.g n c
    let req : BitVec 20 := (s.g n a).truncate 20
    let form := s.anchorForm freq.toInt phase.toInt req.toNat
    let s := if s.isLead n then s.anchorReq freq phase req else s
    (s.setG n a (BitVec.ofNat 64 form)).next n 8

/-- HANDOVER (R302, R303). -/
def execHandover (n : Fin 12) (a b : BitVec 5) (s : State) : Host.Outcome State Fault Refusal :=
  s.issueK [wordR 0x3C a b 0 1] n [.g b] fun s =>
    let freq := s.g n b
    let form := b2n s.inLc + 2 * b2n (!rateOk freq.toInt)
    let s := if s.isLead n then (s.handoverReq freq 0).2 else s
    (s.setG n a (BitVec.ofNat 64 form)).next n 8

/-- SPRD (R302): a word of the working copy; ALIGN and BUSERR for a bad offset. -/
def execSprd (n : Fin 12) (a b : BitVec 5) (s : State) : Host.Outcome State Fault Refusal :=
  s.issueK [wordR 0x3C a b 0 2] n [.g b] fun s =>
    let o := (s.g n b).toNat
    if o % 4 ≠ 0 then s.trap n cALIGN (some o)
    else if o > 0x3FFFC then s.trap n cBUSERR (some o)
    else (s.setG n a ((s.store o).zeroExtend 64)).next n 4

/-- The digest that an engine closes a second with (R78, R302). -/
def execDigest (n : Fin 12) (a b : BitVec 5) (s : State) : Host.Outcome State Fault Refusal :=
  s.issueK [wordR 0x3C a b 0 3] n [.g b] fun s => s.withDmem n b 32 32 fun bs s =>
    let r := s.digestIn (if n = 0 then 0 else 1) (BitVec.ofNat 256 (ofLe bs))
    (r.2.setG n a (BitVec.ofNat 64 r.1)).next n 6

/-- The Leash terms in five 8-byte words; a word above 48 bits counts as UNBOUNDED (R302). -/
def termsOf (bs : List Byte) : Terms :=
  { ref := lsat (leAt bs 0 8), path := lsat (leAt bs 8 8), meas := lsat (leAt bs 16 8), slew := lsat (leAt bs 24 8)
    hold := lsat (leAt bs 32 8) }

/-- LSHWR (R242, R302). -/
def execLshwr (n : Fin 12) (a b : BitVec 5) (s : State) : Host.Outcome State Fault Refusal :=
  s.issueK [wordR 0x3C a b 0 4] n [.g b] fun s => s.withDmem n b 8 40 fun bs s =>
    let late := s.termsLate
    let s := if s.isLead n then s.leadWrite (termsOf bs) else s
    (s.setG n a (BitVec.ofNat 64 (b2n late))).next n 8

/-- Whether a field code of ENSY is one of R302's table. -/
def ensyCode (c : Nat) : Bool :=
  c == 0 || (decide (0x100 ≤ c) && decide (c ≤ 0x116)) || (decide (0x200 ≤ c) && decide (c ≤ 0x203))
    || (decide (0x210 ≤ c) && decide (c ≤ 0x213)) || (decide (0x300 ≤ c) && decide (c ≤ 0x307)) || c == 0x400 || c == 0x401

/-- A field that the lead maintains takes a value (R302). -/
def State.ensyField (s : State) (c : Nat) (v : DWord) : State :=
  let x := v.toNat
  if c = 0 then State.set { s with refs := { s.refs with ensYGiven := true } } R.REF_ENS_Y 0 x
  else if c < 0x200 then s.set R.REF_WEIGHT (c - 0x100) x
  else if c < 0x210 then s.set R.OSC_STATE_WEIGHT (c - 0x200) x
  else if c < 0x300 then s.set R.OSC_FREQ (c - 0x210) x
  else match c with
    | 0x300 => s.set R.REF_HOLD_Y0 0 x
    | 0x301 => s.set R.REF_HOLD_D 0 x
    | 0x302 => s.set R.REF_HOLD_KT 0 x
    | 0x303 => s.set R.REF_HOLD_T0 0 x
    | 0x304 => (s.setFlag R.REF_HOLD_STAT_LEARNED_D 0 (v.getLsbD 0)).setFlag R.REF_HOLD_STAT_LEARNED_KT 0 (v.getLsbD 1)
    | 0x305 => s.set R.REF_HOLD_ELAPSED 0 x
    | 0x306 => s.set R.REF_LOCK_TIME 0 x
    | 0x307 => s.set R.REF_HOLD_TERM 0 x
    | 0x400 => s.setServo (x % 4)
    | _ =>
    let was := s.flag R.REF_STAT_FREQ_ONLY
    let s := s.setFlag R.REF_STAT_FREQ_ONLY 0 (v.getLsbD 0)
    if v.getLsbD 0 && !was then s.leashWiden else s

/-- The fields written with ENSY appear on the next tick (R302). -/
def State.ensyTick (s : State) : State :=
  let xs := s.refs.ensy
  xs.foldl (fun s x => s.ensyField x.1 x.2) { s with refs := { s.refs with ensy := [] } }

/-- ENSY (R302); any other code raises ILLEGAL. -/
def execEnsy (n : Fin 12) (b c : BitVec 5) (s : State) : Host.Outcome State Fault Refusal :=
  s.issueK [wordR 0x3C 0 b c 5] n [.g b, .g c] fun s =>
    let code := (s.g n b).toNat
    if !ensyCode code then s.trap n cILLEGAL
    else
      let v := s.g n c
      let s := if s.isLead n then { s with refs := { s.refs with ensy := s.refs.ensy ++ [(code, v)] } } else s
      s.next n 4

end Sys2Proof.Machine
end

