-- ==== Sys2Proof/Machine/Hst.lean ====
section
/-! DEFINITION. The host interface: messages, functions and their channels, up to the end of a chain (R362 to R384). The movement of
data is in Machine/FchData.lean. -/

namespace Sys2Proof.Machine

/-! ### Interrupt messages (R366) -/

/-- Messages of a vector that waited go when nothing holds them back any more. -/
def State.msgGo (s : State) (v : Fin 64) : State :=
  if s.hst.pba.getLsbD v.val && s.msgMay v then
    { s with hst := { s.hst with pba := s.hst.pba &&& ~~~(BitVec.ofNat 64 (2 ^ v.val)), msgs := s.hst.msgs ++ [v] } }
  else s

/-- The pending messages of a function are looked at again. -/
def State.msgScan (s : State) (f : Nat) : State :=
  (List.finRange 64).foldl (fun s v => if vecFn v.val = f then s.msgGo v else s) s

/-- A message of a vector goes, when it may (R366); otherwise its PBA bit is set. -/
def State.msgSend (s : State) (v : Fin 64) : State :=
  if s.hst.msgs.any (· == v) then
    let s := { s with hst := { s.hst with msgs := s.hst.msgs.erase v } }
    if s.msgMay v then { s with hst := { s.hst with last := s.hst.last.set v (some s.time.lc.toNat) } }
    else { s with hst := { s.hst with pba := s.hst.pba ||| BitVec.ofNat 64 (2 ^ v.val) } }
  else if s.hst.pba.getLsbD v.val && s.msgMay v then
    { s with hst := { s.hst with pba := s.hst.pba &&& ~~~(BitVec.ofNat 64 (2 ^ v.val))
                                 last := s.hst.last.set v (some s.time.lc.toNat) } }
  else s

/-- A write to HST_IRQ_PEND: bits of word `w` are cleared; a source whose condition still holds sets again, and a new message
follows (R366). -/
def State.irqClear (s : State) (w : Nat) (v : Word) : State :=
  let p := s.get R.HST_IRQ_PEND
  let clr := p &&& (v.toNat * 2 ^ (32 * w))
  let s := s.set R.HST_IRQ_PEND 0 (p - clr)
  (List.range 64).foldl (fun s k => if clr.testBit k && s.srcHolds k then s.irq k else s) s

/-- HST_H_DBELL sets bits in HST_H_DBELL_PEND (R366). -/
def State.hDbell (s : State) (v : Word) : State :=
  let t := s.set R.HST_H_DBELL_PEND 0 (s.get R.HST_H_DBELL_PEND ||| v.toNat)
  t.irqEdge s 33

/-! ### Functions (R371, R380) -/

/-- Whether a function is under FLR (R380). -/
def State.flrOn (s : State) (f : Nat) : Bool := (s.get R.HST_FN_STAT).testBit (4 + f)

/-- Whether a function is enabled: Bus Master Enable set and no FLR (R371). -/
def State.fnOn (s : State) (f : Nat) : Bool := (s.get R.HST_FN_STAT).testBit f && !s.flrOn f

/-- A bit of HST_FN_STAT at a value. -/
def State.fnBit (s : State) (b : Nat) (on : Bool) : State :=
  if on then s.set R.HST_FN_STAT 0 (s.get R.HST_FN_STAT ||| 2 ^ b) else s.clearBit R.HST_FN_STAT 0 b

/-! ### Channels (R371, R372, R377) -/

/-- The codes of FCH_CH_STAT.STATE (R371). -/
def chIDLE := 0
def chRUNNING := 1
def chHALTED := 2
def chDISABLED := 3

/-- The status codes of R378. -/
def fcOK := 0
def fcLOOP := 1
def fcNORESP := 2
def fcHOSTERR := 3
def fcCHIPERR := 4
def fcALIGN := 5
def fcCRC := 6
def fcBADDESC := 7
def fcABORTED := 8
def fcDISABLED := 9
def fcPERM := 10

/-- A channel's state beside its registers. -/
def State.fchCh (s : State) (c : Fin 16) : FchCh := s.fch.ch[c]

/-- A channel's state beside its registers, replaced. -/
def State.setFch (s : State) (c : Fin 16) (x : FchCh) : State := { s with fch := { s.fch with ch := s.fch.ch.set c x } }

/-- The function that owns a channel. -/
def State.chFn (s : State) (c : Fin 16) : Nat := s.get R.FCH_CH_CFG_FN c

/-- STATE of a channel. -/
def State.chState (s : State) (c : Fin 16) : Nat := s.get R.FCH_CH_STAT_STATE c

/-- STATE of a channel at a value, with FCH_STAT and QDEPTH. -/
def State.setChState (s : State) (c : Fin 16) (st : Nat) : State :=
  let s := s.set R.FCH_CH_STAT_STATE c st
  let b := fun (f : Fld) (on : Bool) (s : State) => if on then s.set f 0 (s.get f ||| 2 ^ c.val) else s.clearBit f 0 c.val
  let s := b R.FCH_STAT_HALTED (st == chHALTED) (b R.FCH_STAT_RUNNING (st == chRUNNING) s)
  s.set R.FCH_CH_STAT_QDEPTH c (s.fchCh c).chains.length

/-- A local event of a channel on the event bus (R466). -/
def State.chObs (s : State) (c : Fin 16) (e : Nat) : State := s.obs 7 (c.val * 4 + e)

/-- LEN and TAG of a descriptor (R373). -/
def descLen (d : List Byte) : Nat := leAt d 0x14 3
def descTag (d : List Byte) : Nat := leAt d 0x1A 2
def descBit (d : List Byte) (b : Nat) : Bool := (leAt d 0x18 4).testBit b

/-- The data CRC that a descriptor in progress shows: 0 without DCRC (R376). -/
def FchWork.dcrc (w : FchWork) : Nat := if descBit w.desc 4 then w.crc ^^^ 0xFFFFFFFF else 0

/-- The status record of a chain (R377), from the registers that show it. -/
def State.chRecord (s : State) (c : Fin 16) : List Byte :=
  leBytes 1 (s.get R.FCH_CH_STAT_LAST_STATUS c) ++ leBytes 1 0 ++ leBytes 2 (s.get R.FCH_CH_STAT_TAG c) ++ leBytes 4 (s.get R.FCH_CH_DCNT c)
    ++ leBytes 4 (s.get R.FCH_CH_RESID c) ++ leBytes 4 (s.get R.FCH_CH_DCRC c) ++ leBytes 8 (s.get R.FCH_CH_CUR c)
    ++ leBytes 4 (s.get R.FCH_CH_SEQ c) ++ leBytes 4 0

/-- The registers take what a chain ended with (R377, R384). -/
def State.chShow (s : State) (c : Fin 16) (status tag dcnt resid dcrc cur : Nat) : State :=
  let s := (s.set R.FCH_CH_STAT_LAST_STATUS c status).set R.FCH_CH_STAT_TAG c tag
  let s := ((s.set R.FCH_CH_DCNT c dcnt).set R.FCH_CH_RESID c resid).set R.FCH_CH_DCRC c dcrc
  ((s.set R.FCH_CH_CUR c cur).bumpW R.FCH_CH_SEQ c).chObs c 2

/-- Device Control of a function (R362). -/
def State.devCtl (s : State) (f : Nat) : BitVec 16 := if h : f < 4 then s.hst.devCtl[f] else 0

/-- A size field of Device Control at bit `b`: 128 bytes × 2^code; the codes 6 and 7 of PCI Express are reserved. -/
def tlpSize (v : BitVec 16) (b : Nat) : Nat := 128 * 2 ^ bits v.toNat b 3

/-- Max_Payload_Size of a function: 512 bytes at most are supported (R362). -/
def State.maxPayload (s : State) (f : Nat) : Nat := Nat.min 512 (tlpSize (s.devCtl f) 5)

/-- Max_Read_Request_Size of a function: 4,096 bytes at most (R362). -/
def State.maxRead (s : State) (f : Nat) : Nat := Nat.min 4096 (tlpSize (s.devCtl f) 12)

/-- Whether data writes of a function carry Relaxed Ordering (R369). -/
def State.relaxed (s : State) (f : Nat) : Bool := s.flag R.HST_CFG && (s.devCtl f).getLsbD 4

/-- A write TLP leaves for host memory (R376, R377). -/
def State.tlpOut (s : State) (c : Fin 16) (t : HostTlp) : State := ({ s with fch := { s.fch with tlp := some t } }).chObs c 0

/-- A descriptor is fetched: its read is outstanding. -/
def State.chFetch (s : State) (c : Fin 16) (addr : Nat) : State :=
  (s.setFch c { s.fchCh c with fetch := some addr, work := none, readLc := s.time.lc.toNat }).chObs c 1

/-- A chain ends with a status (R377). `cur` is shown where no descriptor is in progress. The status record goes to host memory unless
the function is disabled (R380). The next state of the channel is the caller's. -/
def State.chFinish (s : State) (c : Fin 16) (status cur : Nat) : State :=
  let x := s.fchCh c
  let s := match x.work with
    | some w => s.chShow c status (descTag w.desc) x.done (descLen w.desc - w.moved) w.dcrc w.addr
    | none => s.chShow c status x.tag x.done 0 0 cur
  let s := s.setFch c { x with fetch := none, work := none, stop := none }
  let s := s.raiseBit R.FCH_CH_EVT c (if status = fcOK then 0 else 1)
  let wb := s.get R.FCH_CH_WB c
  if wb ≠ 0 && s.fnOn (s.chFn c) then s.tlpOut c { addr := wb / 32 * 32, bytes := s.chRecord c, ro := false, ns := false } else s

/-- A chain begins: a misaligned HEAD ends it before the read (R374). -/
def State.chBegin (s : State) (c : Fin 16) : State :=
  let x := s.fchCh c
  match x.chains with
  | [] => s.setChState c chIDLE
  | h :: t =>
    let s := (s.setFch c { FchCh.reset with chains := t }).setChState c chRUNNING
    if h % 32 ≠ 0 then (s.chFinish c fcALIGN h).setChState c chHALTED else s.chFetch c h

/-- A running chain ends: OK lets the next one begin, anything else halts the channel (R371). -/
def State.chEnd (s : State) (c : Fin 16) (status cur : Nat) : State :=
  let s := s.chFinish c status cur
  if status = fcOK then s.chBegin c else s.setChState c chHALTED

/-- The work of a disabled channel ends, and every queued chain, with FN_DISABLED (R380). -/
def State.chDrain (s : State) (c : Fin 16) (status cur : Nat) : State :=
  let n := (s.fchCh c).chains.length
  let s := s.chFinish c status cur
  let s := s.forN n fun _ s => (s.bumpW R.FCH_CH_SEQ c).chObs c 2
  (s.setFch c FchCh.reset).setChState c chDISABLED

/-- Whether the reads issued for the descriptor in progress have not all completed: those of a descriptor that goes to the chip. -/
def State.chReads (s : State) (c : Fin 16) : Bool :=
  match (s.fchCh c).work with
  | some w => !descBit w.desc 0 && decide (w.moved < descLen w.desc)
  | none => (s.fchCh c).fetch.isSome

/-- A channel is disabled: a chain in progress ends once the reads issued have completed, at once where there are none (R371, R380). -/
def State.chDisable (s : State) (c : Fin 16) : State :=
  let st := s.chState c
  if st = chDISABLED then s
  else if st = chRUNNING then
    if s.chReads c then (s.setFch c { s.fchCh c with stop := some fcDISABLED }).setChState c chDISABLED
    else s.chDrain c fcDISABLED (((s.fchCh c).fetch).getD 0)
  else
    let n := (s.fchCh c).chains.length
    let s := if n = 0 then s else (s.set R.FCH_CH_STAT_LAST_STATUS c fcDISABLED).forN n fun _ s => (s.bumpW R.FCH_CH_SEQ c).chObs c 2
    (s.setFch c FchCh.reset).setChState c chDISABLED

/-- A channel follows its ENABLE bit and its function (R371). -/
def State.chSync (s : State) (c : Fin 16) : State :=
  if s.flag R.FCH_CH_CFG_ENABLE c && s.fnOn (s.chFn c) then
    if s.chState c = chDISABLED && (s.fchCh c).stop.isNone then s.chBegin c else s
  else s.chDisable c

/-- The channels of a function follow it. -/
def State.fnSync (s : State) (f : Nat) : State :=
  (List.finRange 16).foldl (fun s c => if s.chFn c = f then s.chSync c else s) s

/-- FCH_CH_HEAD1 has been written: the chain is queued, or the write is discarded (R372). -/
def State.chHead (s : State) (c : Fin 16) (addr : Nat) : State :=
  if s.chState c = chDISABLED then s.raiseBit R.FCH_CH_EVT c 3
  else if (s.fchCh c).chains.length ≥ 8 then (s.raiseBit R.FCH_CH_EVT c 2).raise fsFchDbellOvf c.val
  else
    let s := s.setFch c { s.fchCh c with chains := (s.fchCh c).chains ++ [addr] }
    if s.chState c = chIDLE then s.chBegin c else s.setChState c (s.chState c)

/-- ABORT (R379): a RUNNING chain ends once the reads issued have completed. -/
def State.chAbort (s : State) (c : Fin 16) : State :=
  if s.chState c ≠ chRUNNING then s
  else if s.chReads c then s.setFch c { s.fchCh c with stop := some fcABORTED }
  else s.chEnd c fcABORTED (((s.fchCh c).fetch).getD 0)

/-- CLEAR (R371). -/
def State.chClear (s : State) (c : Fin 16) : State := if s.chState c = chHALTED then s.chBegin c else s

/-- FLUSH (R371). -/
def State.chFlush (s : State) (c : Fin 16) : State :=
  if s.chState c = chHALTED then (s.setFch c FchCh.reset).setChState c chIDLE else s

/-! ### Function Level Reset, Bus Master Enable and the link (R371, R380, R381) -/

/-- The messages of a function are held back: what was to go waits in the PBA (R366, R380). -/
def State.msgHold (s : State) (f : Nat) : State :=
  let back := (s.hst.msgs.filter fun v => vecFn v.val == f).foldl (fun b v => b ||| BitVec.ofNat 64 (2 ^ v.val)) 0#64
  { s with hst := { s.hst with msgs := s.hst.msgs.filter fun v => vecFn v.val != f, pba := s.hst.pba ||| back } }

/-- The channel registers that an FLR keeps: LAST_STATUS and TAG, RESID, CUR, DCNT, DCRC and SEQ
(R384). -/
def flrKeeps (o : Nat) : Bool := o == 0x20 || o == 0x24 || o == 0x28 || o == 0x2C || o == 0x30 || o == 0x38

/-- The registers of a function's channels take their Block values (R380, R384). -/
def State.flrRegs (s : State) (f : Nat) : State :=
  let own := fun a => decide (0x601000 ≤ a) && decide (a < 0x602000)
    && (if h : (a - 0x601000) / 0x100 < 16 then s.chFn ⟨(a - 0x601000) / 0x100, h⟩ == f else false)
  let kept := fun a (r : RegRow) => flrKeeps (a % 0x100) || r.fld == R.FCH_CH_STAT_LAST_STATUS
    || r.fld == R.FCH_CH_STAT_TAG || r.fld == R.FCH_CH_STAT_STATE
  { s with regs := resetRegs (fun a r => own a && !kept a r) s.regs }

/-- The vectors of a function lose their table and their pending bits (R380). -/
def State.flrVectors (s : State) (f : Nat) : State :=
  let mine := fun v => vecFn v == f
  let pba := (List.range 64).foldl (fun (b : BitVec 64) v => if mine v then b &&& ~~~(BitVec.ofNat 64 (2 ^ v)) else b) s.hst.pba
  { s with hst := { s.hst with msix := s.hst.msix.filter fun c => !mine (c.1 / 16), pba := pba
                               devCtl := if h : f < 4 then s.hst.devCtl.set f 0x2810 else s.hst.devCtl
                               msgs := s.hst.msgs.filter fun v => !mine v.val } }

/-- A Function Level Reset (R380). -/
def State.flr (s : State) (f : Nat) : State :=
  let s := ((s.fnBit (4 + f) true).fnBit f false).fnBit (8 + f) false
  ((s.fnSync f).flrRegs f).flrVectors f

/-- An FLR completes (R380, R383). -/
def State.flrDone (s : State) (f : Nat) : State :=
  if s.flrOn f then (s.fnBit (4 + f) false).raiseBit R.HST_EVT 0 f else s

/-- Bus Master Enable is cleared (R380). -/
def State.bmeOff (s : State) (f : Nat) (memEn : Bool) : State := (((s.fnBit f false).fnBit (8 + f) memEn).fnSync f).msgHold f

/-- Bus Master Enable is set (R366, R371), with Device Control as the host has written it, over a link of a speed and a width. -/
def State.bmeOn (s : State) (f : Fin 4) (memEn : Bool) (ctl : BitVec 16) (speed width : Nat) : State :=
  if s.flrOn f then s
  else
    let s := (s.set R.HST_LINK_SPEED 0 speed).set R.HST_LINK_WIDTH 0 width
    let s := { s with hst := { s.hst with devCtl := s.hst.devCtl.set f ctl } }
    (((s.fnBit f true).fnBit (8 + f) memEn).fnSync f).msgScan f

/-- The link or the host resets the interface (R381): a Block reset of HOST, with no status kept. -/
def State.hostReset (s : State) : State :=
  let s := s.blockReset .host
  { s with hst := HstSt.reset, fch := FchSt.reset }

/-! ### Meanings -/

/-- MSIX_SEND (R366). -/
def execMsixSend (v : Fin 64) (s : State) : Host.Outcome State Fault Refusal := done (s.msgSend v)

/-- UNEXPECTED_COMPLETION (R379, R383). -/
def execUnexpectedCompletion (s : State) : Host.Outcome State Fault Refusal :=
  done ((s.bump R.HST_CNT_UNEXP_CPL).raiseBit R.HST_EVT 0 6)

/-- FUNCTION_LEVEL_RESET (R380). -/
def execFunctionLevelReset (f : Fin 4) (s : State) : Host.Outcome State Fault Refusal := done (s.flr f.val)

/-- FLR_COMPLETE (R380). -/
def execFlrComplete (f : Fin 4) (s : State) : Host.Outcome State Fault Refusal := done (s.flrDone f.val)

/-- BME_CLEAR (R380). -/
def execBmeClear (f : Fin 4) (memEn : Bool) (s : State) : Host.Outcome State Fault Refusal := done (s.bmeOff f.val memEn)

/-- BUS_MASTER_ENABLE_SET (R371). -/
def execBusMasterEnableSet (f : Fin 4) (memEn : Bool) (ctl : BitVec 16) (speed : BitVec 3) (width : BitVec 4) (s : State) :
    Host.Outcome State Fault Refusal := done (s.bmeOn f memEn ctl speed.toNat width.toNat)

/-- HOST_LINK_RESET (R381). -/
def execHostLinkReset (s : State) : Host.Outcome State Fault Refusal := done s.hostReset

end Sys2Proof.Machine
end

