-- ==== Sys2Proof/Machine/Access.lean ====
section
/-! DEFINITION. Who reaches which register word, and which bits of it a master can write (R11, R25 to R27, R257, R278, R363, R364, R371,
R383, R447, R460). -/

namespace Sys2Proof.Machine

/-- Every register block of R25. -/
def blocks : List Block :=
  [.clk, .pwr, .aon, .sec, .flt, .obs, .mtx, .hst, .fch, .knl, .ref, .tim, .syn, .lsh, .gns, .prt, .lch, .srv, .adr, .eng, .pck, .brc]

/-- The block that holds a BAR0 address (R25). -/
def blockAt (a : Nat) : Option Block := blocks.find? fun b => blkHas b a

/-- The channel whose registers hold a BAR0 address (R384). -/
def chanAt (a : Nat) : Option (Fin 16) :=
  if h : 0x601000 ≤ a ∧ a < 0x602000 then some ⟨(a - 0x601000) / 0x100, by omega⟩ else none

/-- The engine whose window holds a BAR0 address (R278). -/
def engAt (a : Nat) : Option (Fin 12) :=
  if h : 0x4000000 ≤ a ∧ a < 0x4C00000 then some ⟨(a - 0x4000000) / 0x100000, by omega⟩ else none

/-- What a master sees at a word. -/
inductive Rights where
  /-- no block is there -/
  | unmapped
  | ro
  | rw
deriving DecidableEq, Repr

/-- Whether a word is the HOLDOFF register of one of a function's vectors (R383). -/
def ownHoldoff (f a : Nat) : Bool :=
  decide (0x500200 ≤ a) && decide (a < 0x500300) && vecFn ((a - 0x500200) / 4) == f

/-- What a function sees at a word (R363, R364). Of FCH a function can read everything (R371; log entry 60). -/
def State.fnRights (s : State) (f : Fin 4) (a : Nat) : Rights :=
  match blockAt a with
  | none => .unmapped
  | some b =>
    let fch := match chanAt a with
      | some c => if s.get R.FCH_CH_CFG_FN c == f.val then Rights.rw else .ro
      | none => .ro
    if f = 0 then .rw
    else if b = .fch then fch
    else if ownHoldoff f.val a then .rw
    else if f = 1 then
      if [Block.prt, .lch, .srv, .pck, .brc, .adr].contains b then .rw else if b = .lsh then .ro else .unmapped
    else if f = 2 then (if b = .obs then .rw else .ro)
    else if b = .knl || b = .lsh then .ro
    else if 0x100000 ≤ a && a < 0x100010 then .ro
    else .unmapped

/-- What a master sees at a word (R257, R363, R447; log entry 61). -/
def State.rights (s : State) (m : Master) (a : Nat) : Rights :=
  match m with
  | .pf f => s.fnRights f a
  | .eng n => if (blockAt a).isNone then .unmapped else if 2 ≤ n.val || kennelRegs a (a + 4) then .rw else .unmapped
  | .fch _ => if (blockAt a).isNone then .unmapped else .rw
  | .dbg =>
    if (blockAt a).isNone then .unmapped
    else if s.get R.SEC_STATE_DBG = 2 then .rw else if s.get R.SEC_STATE_DBG = 1 then .ro else .unmapped
  | .hw => if (blockAt a).isNone then .unmapped else .rw

/-- Words that only PF0 can write (R364, R383, R415, R416, R440, R441, R448, R461). -/
def pf0Only (a : Nat) : Bool :=
  a == 0x40008 || a == 0x40014 || a == 0x500004 || a == 0x500008 || a == 0x200028 || a == 0x100020
    || (0x500100 ≤ a && a < 0x500200) || (0x1000A0 ≤ a && a < 0x1000C0) || (0x100400 ≤ a && a < 0x100474)

/-- Whether a master writes as PF0 does: PF0, the debug port, or the device itself. -/
def asPf0 : Master → Bool
  | .pf f => f == 0
  | .dbg => true
  | .hw => true
  | _ => false

/-- Whether a word is in the windows of E0 and E1, which only the Kennel writes (R278). -/
def kEngAt (a : Nat) : Bool := decide (0x4000000 ≤ a) && decide (a < 0x4200000)

/-- Whether the debug port reaches the memory window of an engine: with INVASIVE every one, with OBSERVE those of E2 to E11 (R18, R447). The halt,
step and resume of a K-engine are writes of its ENG_CTRL (log entry 83). -/
def State.dbgMem (s : State) (n : Fin 12) : Bool := s.get R.SEC_STATE_DBG = 2 || (s.get R.SEC_STATE_DBG = 1 && decide (2 ≤ n.val))

/-- Whether a write of a master to a word passes the rules that concern single words; `true` for most words. -/
def State.wordOpen (m : Master) (a : Nat) : Bool :=
  if pf0Only a then asPf0 m
  else if kEngAt a then (match m with
    | .hw => true
    | .eng n => decide (n.val < 2)
    | .dbg => a % 0x100000 == 0
    | _ => false)
  else match engAt a with
    | some n => a % 0x100000 != 0x20 || m == .hw || m == .eng n
    | none =>
      if blkHas .flt a then
        asPf0 m || m == .eng 2 || (a == 0x200038 && (match m with
          | .eng n => decide (2 ≤ n.val)
          | _ => false))
      else true

/-- The bits of a channel's registers that a master can write: those of the owning function, and FN for PF0 while the channel is
DISABLED (R371, R384). -/
def State.chanMask (s : State) (m : Master) (c : Fin 16) (a : Nat) : Nat :=
  let owner := match m with
    | .pf f => s.get R.FCH_CH_CFG_FN c == f.val
    | .hw => true
    | .dbg => s.get R.FCH_CH_CFG_FN c == 0
    | _ => false
  let body := if owner then 2 ^ 32 - 1 else 0
  if a % 0x100 = 0 then
    let fn := if asPf0 m && s.get R.FCH_CH_STAT_STATE c == 3 then 3 else 0
    body / 4 * 4 + fn
  else body

/-- The bits of a word that a write of a master reaches: RW, W1C and WO fields open to it. -/
def State.writeMask (s : State) (m : Master) (a : Nat) : Nat :=
  if s.rights m a != .rw || !State.wordOpen m a then 0
  else
    let base := maskAt (fun r => r.acc == .rw || r.acc == .w1c || r.acc == .wo) a
    match chanAt a with
    | some c => base &&& s.chanMask m c a
    | none => base

/-- An access of a function to an unmapped address (R26). -/
def State.unmappedAt (s : State) : State :=
  ((s.bump R.HST_CNT_UNMAPPED).raiseBit R.HST_EVT 0 4).raise fsHostUnmapped

/-- A write of a function that it cannot make (R364). -/
def State.roWrite (s : State) : State :=
  ((s.bump R.HST_CNT_ROWRITE).raiseBit R.HST_EVT 0 5).raise fsHostRoWrite

end Sys2Proof.Machine
end

