-- ==== Sys2Proof/Machine/Latch.lean ====
section
/-! DEFINITION. Reads of register words: which words form one value, and the copies that a read of the lowest word latches (R9, R57,
R59, R364). -/

namespace Sys2Proof.Machine

/-- Tables, masks and buffers whose words are independent entries: no read of them latches, no write of them waits (R9; log entry 62). -/
def wordTables : List Fld :=
  [R.LCH_MASK_SHADOW, R.LCH_MASK_ACTIVE, R.SRV_STEER_SHADOW, R.SRV_STEER_ACTIVE, R.ENG_LOAD_HDR, R.ADR_CS_SHADOW, R.ADR_U_SHADOW,
   R.ADR_CS_ACTIVE, R.ADR_IN_CS, R.SEC_HOST_EXT, R.SEC_KUM_BUF, R.SRV_MINT_KEY, R.PCK_PORT_EN, R.BRC_PORTS, R.HST_IRQ_PEND, R.GNS_SEALED]

/-- The wide field that holds a word: the address of its lowest word, and how many words it has. -/
def wideAt (a : Nat) : Option (Nat × Nat) :=
  ((rowsAt a).find? fun rk => decide (rk.1.fld.words > 1) && !wordTables.contains rk.1.fld).map fun rk =>
    (a - 4 * rk.2, rk.1.fld.words)

/-- A word among values of `n` words that begin at `lo`, one each `step` bytes, `k` of them. -/
def groupIn (a lo n step k : Nat) : Option (Nat × Nat) :=
  let d := a - lo
  if decide (lo ≤ a) && decide (d < step * k) && decide (d % step < 4 * n) then some (lo + d / step * step, n) else none

/-- The multi-word value that a word belongs to, as a write sees it: the wide fields, the SN count to load, MAC addresses, and the three
coordinates of GNS_POS (R9, R51, R160, R187). -/
def writeGroup (a : Nat) : Option (Nat × Nat) :=
  if a % 4 ≠ 0 then none
  else if 0x1002080 ≤ a && a < 0x1002090 then some (0x1002080, 4)
  else if 0x2000040 ≤ a && a < 0x2000058 then groupIn a 0x2000040 2 8 3
  else if 0x3000000 ≤ a && a < 0x3100000 && (a % 0x4000 = 0x20 || a % 0x4000 = 0x24) then some (a / 8 * 8, 2)
  else wideAt a

/-- The multi-word value that a word belongs to, as a read sees it. LC and RT are latched together, the correction set from OFS to
CSET_LATCH, an entry of the history, a Kennel record, and the slot counters of an engine; SLEW_REM and LEAP_AT are not latched
(R57, R59, R76, R472). -/
def readGroup (a : Nat) : Option (Nat × Nat) :=
  if a % 4 ≠ 0 then none
  else if 0x1002010 ≤ a && a < 0x1002028 then some (0x1002010, 6)
  else if 0x1002030 ≤ a && a < 0x100205C then some (0x1002030, 11)
  else if 0x1002060 ≤ a && a < 0x10020A0 then none
  else if 0x1003000 ≤ a && a < 0x1004000 then groupIn a 0x1003000 12 0x40 64
  else if 0x1004000 ≤ a && a < 0x102C000 then groupIn a 0x1004000 40 0xA0 1024
  else if 0x303000 ≤ a && a < 0x303300 then groupIn a 0x303000 14 0x40 12
  else writeGroup a

/-- A number that tells masters apart, for the copies each of them keeps (R364; log entry 63). -/
def readerId : Master → Nat
  | .pf f => f.val
  | .eng n => 4 + n.val
  | .fch c => 16 + c.val
  | .dbg => 32
  | .hw => 33

/-- An entry of KNL_CSET_HIST as its 12 words (R57, R59). -/
def HistEntry.bits (h : HistEntry) : Nat :=
  h.ofs.toNat + 2 ^ 96 * (h.anchor.toNat + 2 ^ 96 * (h.rate.toNat + 2 ^ 64 * (h.ver.toNat + 2 ^ 16 * (h.kind.toNat + 2 ^ 3 * (1 + 2 ^ 13 * h.step.toNat)))))

/-- What stands at a word now, for words that do not live in the word map: time, the set in force and its history, the Leash of a
port, the sources of KPLL, the sealed GNSS key, the program counters (R57, R59, R160, R173, R251, R278, R403). -/
def State.liveWord (s : State) (a : Nat) : Word :=
  let w := fun v => BitVec.ofNat 32 v
  if 0x1002010 ≤ a && a < 0x100201C then w (bits s.time.lc.toNat (8 * (a - 0x1002010)) 32)
  else if 0x100201C ≤ a && a < 0x1002028 then w (bits s.rt.toNat (8 * (a - 0x100201C)) 32)
  else if 0x1002030 ≤ a && a < 0x100203C then w (bits s.shownSet.ofs.toNat (8 * (a - 0x1002030)) 32)
  else if 0x1002040 ≤ a && a < 0x100204C then w (bits s.shownSet.anchor.toNat (8 * (a - 0x1002040)) 32)
  else if 0x1002050 ≤ a && a < 0x1002058 then w (bits s.shownSet.rate.toNat (8 * (a - 0x1002050)) 32)
  else if 0x1002060 ≤ a && a < 0x1002068 then w (bits (trunc 64 s.slewRem) (8 * (a - 0x1002060)) 32)
  else if a = 0x1002058 then w ((s.time.hist.head?.map (·.ver.toNat)).getD 0)
  else if 0x1003000 ≤ a && a < 0x1004000 then
    match s.time.hist[(a - 0x1003000) / 0x40]? with
    | some h => if a % 0x40 < 0x30 then w (bits h.bits (8 * (a % 0x40)) 32) else 0
    | none => 0
  else if 0x1401000 ≤ a && a < 0x1401400 then
    let p := (a - 0x1401000) / 16
    w (bits (if a % 16 < 8 then s.portTermReg p else s.portLeash p) (8 * (a % 8)) 32)
  else if 0x20 ≤ a && a < 0x30 then
    let k := (a - 0x20) / 4
    w (s.kpllSrc k % 256 + 256 * b2n (s.kpllReady k))
  else if 0x2000080 ≤ a && a < 0x20000C0 then s.store (0xA00 + (a - 0x2000080))
  else match engAt a with
    | some n => if a % 0x100000 = 0x18 then w (s.pc n).toNat else s.word a
    | none => s.word a

/-- What a read of a word shows now: unassigned, reserved and write-only bits read 0 (R10, R11). -/
def State.shown (s : State) (a : Nat) : Word :=
  s.liveWord a &&& BitVec.ofNat 32 (maskAt (fun r => r.acc != .wo) a)

/-- The copy of a word that a reader holds: 0 before it latched one. -/
def State.latched (s : State) (m : Master) (a : Nat) : Word :=
  ((s.latch.find? fun x => x.1 == readerId m && x.2.1 == a).map fun x => x.2.2).getD 0

/-- The words from `a` are latched for a reader. -/
def State.latchAll (s : State) (m : Master) (a n : Nat) : State :=
  let r := readerId m
  let rest := s.latch.filter fun x => !(x.1 == r && decide (a ≤ x.2.1) && decide (x.2.1 < a + 4 * n))
  { s with latch := rest ++ (List.range n).map fun i => (r, a + 4 * i, s.shown (a + 4 * i)) }

/-- A read of a register word with its latches (R9). -/
def State.readWord (s : State) (m : Master) (a : Nat) : Word × State :=
  match readGroup a with
  | some (base, n) => if a = base then (s.shown a, s.latchAll m base n) else (s.latched m a, s)
  | none => (s.shown a, s)

/-- Whether a BAR0 address is in the memory window of an engine that a master reaches, and the matrix address of the memory there (R278,
R447). -/
def State.engMem (s : State) (m : Master) (a : Nat) : Option (Fin 12 × Bool × Nat) :=
  match engAt a with
  | some n =>
    let o := a % 0x100000
    if 0x80000 ≤ o && o < 0xA0000 && (2 ≤ n.val || (m == .dbg && s.dbgMem n)) then some (n, decide (0x90000 ≤ o), 0x40000000 + a) else none
  | none => none

/-- A 32-bit read of a register block by a master (R26, R27, R63, R261, R278, R364). -/
def State.busRead32 (s : State) (m : Master) (a : Nat) : State :=
  if !s.answers m || a % 4 ≠ 0 then s.replyErr
  else if s.rights m a = .unmapped then
    (match m with
      | .pf _ => s.unmappedAt.replyErr
      | _ => s.replyErr)
  else match s.engMem m a with
    | some (n, dmem, cell) =>
      if s.badAt cell 4 then s.replyErr
      else (s.corrected n (s.softs cell 4)).reply (if dmem && s.engState n == stOff then 0 else BitVec.ofNat 32 (s.memN cell 4))
    | none =>
      if a = R.KNL_MBX_CLAIM.addr then
        let (k, s) := s.mbClaim m
        s.reply (BitVec.ofNat 32 k)
      else if 0x1000400 ≤ a && a < 0x1001400 && (m == .pf 2 || m == .pf 3) then s.reply 0
      else
        let (w, s) := s.readWord m a
        s.reply w

end Sys2Proof.Machine
end

