-- ==== Sys2Proof/Machine/ObsRows.lean ====
section
/-! DEFINITION. What OBS does beside counting: snapshots, the choice of samples, telemetry and the scrubber (R467 to R478). -/

namespace Sys2Proof.Machine

/-! ### Snapshots and counters -/

/-- The periodic instant within 20 ns of RT, in ms since the epoch: a multiple of SNAP_MS (R468). -/
def State.snapNear (s : State) : Option Nat :=
  let p := s.get R.OBS_SNAP_CFG_SNAP_MS
  if p = 0 then none
  else
    let x : Nat := s.rt.toNat * 1000
    let m : Nat := (x + p * 2 ^ 47) / (p * 2 ^ 48) * p
    let d : Nat := if x ≥ m * 2 ^ 48 then x - m * 2 ^ 48 else m * 2 ^ 48 - x
    if d * 50000 ≤ 2 ^ 48 then some m else none

/-- A write of OBS_SNAP (R468): one snapshot with a periodic instant of the same 20 ns. -/
def State.snapWrite (s : State) : State :=
  match s.snapNear with
  | some m =>
    if s.obsv.snapMs == some m then
      -- a snapshot that was lost has no entry to mark
      if s.obsv.snapLost ≠ 0 then s else
      let a := R.OBS_SNAP_WIN.addr + (s.obsv.snapSeq + 63) % 64 * 0x200 + 0x10
      s.setWord a (s.word a ||| 1)
    else ({ s with obsv := { s.obsv with snapMs := some m } } : State).snapshot 3
  | none => s.snapshot 1

/-- A periodic instant (R468): taken once. -/
def State.snapTimer (s : State) : State :=
  match s.snapNear with
  | some m => if s.obsv.snapMs == some m then s else ({ s with obsv := { s.obsv with snapMs := some m } } : State).snapshot 2
  | none => s

/-- Whether a selection is one that R467 refuses: a mode that does not fit the kind of the number, or a reserved number. -/
def selBad (num mode : Nat) : Bool :=
  match obsKind num with
  | some false => mode != 0
  | some true => mode == 0
  | none => true

/-- After a write of OBS_CNT_SEL (R467): a change clears the counter; a selection that cannot count sets SEL_BAD. -/
def State.cntSelSync (s : State) (before : State) (k : Nat) : State :=
  let a := R.OBS_CNT_SEL_EVENT.at k
  let s := if before.word a == s.word a then s else s.set R.OBS_CNT k 0
  if s.flag R.OBS_CNT_SEL_ENABLE k && selBad (s.get R.OBS_CNT_SEL_EVENT k) (s.get R.OBS_CNT_SEL_MODE k) then s.raiseBit R.OBS_EVT 0 7
  else s

/-! ### Samples (R470) -/

/-- After a write of OBS_SMP_CFG: a first interval begins when sampling is enabled. -/
def State.smpSync (s : State) (before : State) (n : Fin 12) : State :=
  if s.flag R.OBS_SMP_CFG_ENABLE n && !before.flag R.OBS_SMP_CFG_ENABLE n then s.smpArm n else s

/-- SAMPLE_SELECT (R470). -/
def execSampleSelect (n : Fin 12) (s : State) : Host.Outcome State Fault Refusal :=
  done (s.when_ (s.smpHit n) fun s => (s.smpRecord n true).smpArm n)

/-! ### Telemetry (R473, R474) -/

/-- A sample enters the running telemetry period (R473). -/
def ObsSt.telAdd (o : ObsSt) (temp : List Int) (vdd : List Nat) (vin vhold : Nat) (limit : Bool) : ObsSt :=
  { o with
    telN := o.telN + 1
    telTemp := (List.range 13).map fun r => (o.telTemp[r]?.getD 0) + (temp[r]?.getD 0)
    telVdd := (List.range 13).map fun r => (o.telVdd[r]?.getD 0) + (vdd[r]?.getD 0)
    telVin := o.telVin + vin
    telVhold := o.telVhold + vhold
    telTempMax := (List.range 13).foldl (fun m r => max m (temp[r]?.getD 0)) o.telTempMax
    telVinMin := Nat.min o.telVinMin vin
    telLimit := o.telLimit || limit }

/-- The regions outside their temperature limits, by bit (R474). -/
def State.tempOut (s : State) : Nat :=
  let hi := s.getS R.OBS_TEL_LIM_TEMP_HI
  let lo := s.getS R.OBS_TEL_LIM_TEMP_LO
  (List.range 13).foldl (fun m r => let t := s.getS R.PWR_TEMP r; if t > hi || t < lo then m + 2 ^ r else m) 0

/-- The supplies outside their limits, by bit (R474, R480). -/
def State.vddOut (s : State) : Nat :=
  (List.range 13).foldl
    (fun m r =>
      let v := s.get R.PWR_VDD r
      let lo := s.get R.OBS_TEL_VLIM_LO r
      let hi := s.get R.OBS_TEL_VLIM_HI r
      if (lo != 0 && decide (v < lo)) || (hi != 0x1FFF && decide (v > hi)) then m + 2 ^ r else m) 0

/-- The sensors are sampled and held against the limits (R418, R432, R473, R474). -/
def State.telTake (s : State) (temp : List Int) (vdd : List Nat) (vin vhold : BitVec 13) : State :=
  let s := (s.pwrSample temp vdd).vinShow vin vhold
  let t := s.tempOut
  let v := s.vddOut
  let bad := t != 0 || v != 0
  let s := (s.set R.OBS_TEL_STAT 0 (s.get R.OBS_TEL_STAT ||| t)).set R.OBS_TEL_VSTAT 0 (s.get R.OBS_TEL_VSTAT ||| v)
  let s := if bad then s.raiseBit R.OBS_EVT 0 5 else s
  { s with obsv := s.obsv.telAdd temp vdd vin.toNat vhold.toNat bad }

/-- A mean rounded to the nearest whole number. -/
def meanI (sum : Int) (n : Nat) : Int := (2 * sum + n).fdiv (2 * (n : Int))

/-- The 128 bytes of a telemetry record (R473). -/
def State.telBytes (s : State) : List Byte :=
  let o := s.obsv
  let m := fun (x : Int) => leBytes 2 (trunc 16 (meanI x o.telN))
  leBytes 12 s.rt.toNat ++ leBytes 4 o.telSeq ++ o.telTemp.flatMap m ++ o.telVdd.flatMap (fun (v : Nat) => m (v : Int))
    ++ m o.telVin ++ m o.telVhold
    ++ (List.range 4).flatMap (fun i => leBytes 4 (s.get R.OSC_FREQ i)) ++ leBytes 1 (s.get R.CLK_XTAL_STAT_AMP)
    ++ leBytes 1 (s.get R.CLK_STAT_AON_SRC) ++ leBytes 2 (b2n (o.telLost != 0) + 2 * b2n o.telLimit)
    ++ leBytes 2 (Nat.min o.telLost 65535) ++ leBytes 2 0 ++ leBytes 2 (trunc 16 o.telTempMax) ++ leBytes 2 o.telVinMin

/-- The next telemetry period begins. -/
def ObsSt.telClear (o : ObsSt) : ObsSt :=
  { o with telN := 0, telTemp := List.replicate 13 0, telVdd := List.replicate 13 0, telVin := 0, telVhold := 0
           telTempMax := -32768, telVinMin := 65535, telLimit := false }

/-- The record of a telemetry period (R473). -/
def State.telRecord (s : State) : State :=
  let o := s.obsv
  match s.obsRing R.OBS_TEL_WIN R.OBS_TEL_WR R.OBS_TEL_RD 256 0x80 o.telSeq s.telBytes with
  | some s' =>
    State.obsReady { s' with obsv := { o.telClear with telSeq := (o.telSeq + 1) % 2 ^ 32, telLost := 0 } }
      R.OBS_TEL_WR R.OBS_TEL_RD R.OBS_TEL_CFG_THRESH 4
  | none => State.bump { s with obsv := { o.telClear with telLost := o.telLost + 1 } } R.OBS_TEL_LOST

/-- TEL_SAMPLE (R474). -/
def execTelSample (temp : List Int) (vdd : List Nat) (vin vhold : BitVec 13) (s : State) : Host.Outcome State Fault Refusal :=
  done (s.when_ (s.pwr.power == Power.on) (·.telTake temp vdd vin vhold))

/-- TEL_RECORD (R473): when the period holds TEL_PERIOD samples. -/
def execTelRecord (s : State) : Host.Outcome State Fault Refusal :=
  done (s.when_ (s.pwr.power == Power.on && decide (s.obsv.telN ≥ s.get R.OBS_TEL_CFG_TEL_PERIOD)) State.telRecord)

/-- SNAP_PERIODIC (R468). -/
def execSnapPeriodic (s : State) : Host.Outcome State Fault Refusal := done (s.when_ (s.pwr.power == Power.on) State.snapTimer)

/-! ### The scrubber (R477, R478) -/

/-- Lines of a pass (R477): shared SRAM, client SRAM, then the memories of E2 to E11, addresses rising (log entry 71). -/
def scrubLines : Nat := 479232

/-- The memory address of a line, and the address that OBS_SCRUB_ERR shows for its first byte (R257, R477, R478). -/
def scrubAt (l : Nat) : Nat × Nat :=
  if l < 65536 then (0x10000000 + l * 64, 0x10000000 + l * 64)
  else if l < 458752 then (0x20000000 + (l - 65536) * 64, 0x20000000 + (l - 65536) * 64)
  else
    let k := l - 458752
    let n := 2 + k / 2048
    let o := k % 2048 * 64
    (0x44080000 + n * 0x100000 + o, 0xE0000000 + n * 0x20000 + o)

/-- A pass has ended: the next begins (R477). -/
def State.scrubEnd (s : State) : State :=
  let s := (s.set R.OBS_SCRUB_STAT 0 0).bump R.OBS_SCRUB_PASSES_PASSES
  ({ s with obsv := { s.obsv with passAt := s.time.lc.toNat, passLate := false } } : State).raiseBit R.OBS_EVT 0 8

/-- A correctable word that the scrubber finds: it is counted and raised (R478). -/
def State.scrubFixed (s : State) : State := ((s.bump R.OBS_SCRUB_CNT_CORRECTED).obs 11 1).raise fsSramEccCorr noInst

/-- What the scrubber finds in a line (R478): the correctable words, which it rewrites, and the uncorrectable ones, rising, so that
OBS_SCRUB_ERR shows the last. A bit that has flipped unseen is one correctable word more. -/
def State.scrubFind (s : State) (mem shown : Nat) (flipped : Bool) : State :=
  let s := s.forN (s.softs mem 64 + b2n flipped) fun _ s => s.scrubFixed
  let s := { s with soft := s.soft.filter fun w => !(decide (w < mem + 64) && decide (mem < w + 4)) }
  (s.bad.filter fun w => decide (mem ≤ w) && decide (w < mem + 64)).foldl
    (fun (s : State) w =>
      (((s.set R.OBS_SCRUB_ERR 0 (shown + (w - mem))).raiseBit R.OBS_EVT 0 9).obs 11 2).raise fsSramEccUncorr noInst) s

/-- A line is scrubbed (R477, R478). -/
def State.scrubLine (s : State) (flipped : Bool) : State :=
  let l := s.get R.OBS_SCRUB_STAT
  let p := scrubAt l
  let s := { s with obsv := { s.obsv with lineAt := s.time.lc.toNat } }
  let s := ((s.set R.OBS_SCRUB_STAT 0 (l + 1)).obs 11 0).scrubFind p.1 p.2 flipped
  if l + 1 ≥ scrubLines then s.scrubEnd else s

/-- SCRUB_LINE (R478): a bit of the line has flipped since it was last read, or none (log entry 21). -/
def execScrubLine (flipped : Bool) (s : State) : Host.Outcome State Fault Refusal :=
  done (s.when_ (s.pwr.power == Power.on && s.pwr.sramClear) (·.scrubLine flipped))

/-- SCRUB_STEAL (R477): the line takes a cycle that a request would have had, when 1 ms has passed since the line before it. -/
def execScrubSteal (flipped : Bool) (s : State) : Host.Outcome State Fault Refusal :=
  done (s.when_ (s.pwr.power == Power.on && s.pwr.sramClear && s.past s.obsv.lineAt 1 1000) fun s =>
    ((s.bump R.OBS_SCRUB_CNT_STEALS).obs 11 3).scrubLine flipped)

/-- SCRUB_PASS_LATE (R477): counted once in a pass. -/
def execScrubPassLate (s : State) : Host.Outcome State Fault Refusal :=
  let due := s.past s.obsv.passAt (s.get R.OBS_SCRUB_CFG * 3600)
  done (s.when_ (s.pwr.power == Power.on && due && !s.obsv.passLate) fun s =>
    State.bump { s with obsv := { s.obsv with passLate := true } } R.OBS_SCRUB_PASSES_LATE)

end Sys2Proof.Machine
end

