-- ==== Sys2Proof/Machine/Bus.lean ====
section
/-! DEFINITION. Writes of register words: held lower words, the fields that a write sets, clears or clamps, and what the write of a
word does beside (R8 to R11, R27, R364). -/

namespace Sys2Proof.Machine

/-! ### Fields of a word -/

/-- The instance of a field of `n` instances whose lowest word is at an address. -/
def Fld.hit (f : Fld) (n a : Nat) : Option (Fin n) :=
  if f.addr ≤ a then
    let d := a - f.addr
    let i := if f.stride = 0 then 0 else d / f.stride
    if h : i < n then (if d == i * f.stride then some ⟨i, h⟩ else none) else none
  else none

/-- RW fields that a write outside their range leaves at the nearest value of it, and fields whose 0 reads as 1: the field, its
instances, its lowest and highest value (R163, R176, R183, R190, R203, R209, R220, R330, R333, R343, R350, R366, R370, R377, R387,
R408, R461, R468 to R478). -/
def clamps : List (Fld × Nat × Nat × Nat) :=
  [(R.PRT_CFG_MAX_FRAME, 64, 64, 9600), (R.PRT_SHIFT_CFG_DOWN_UTIL, 64, 1, 30), (R.PRT_SHIFT_CFG_UP_UTIL, 64, 10, 95),
   (R.PRT_RECAL_CFG_RECAL_PERIOD, 64, 600, 262143), (R.PRT_PRP_CFG_FORGET, 64, 10, 1000), (R.LCH_CTRL_AHEAD_MAX, 1, 1, 2000),
   (R.LCH_RING_CFG_SIZE_LOG2, 11, 6, 12), (R.SRV_POOL_CFG, 1, 16, 2048), (R.SRV_NTS_LEAD, 1, 1000, 20000), (R.SRV_RXQ_CFG_SIZE_LOG2, 8, 6, 12),
   (R.PCK_CFG_DEPTH_MAX, 1, 1, 31), (R.PCK_EXCH_EXCH_MS, 1, 10, 1000), (R.PCK_LINK_CFG_RECAL_PERIOD, 4, 600, 262143),
   (R.BRC_TIMERS_SWAP_PERIOD, 1, 600, 86400), (R.ADR_RING_CFG_SIZE_LOG2, 4, 8, 20), (R.HST_CPL_TMO, 1, 50, 64000),
   (R.HST_FWD_CFG_SIZE_LOG2, 1, 4, 10), (R.FCH_CH_CFG_WEIGHT, 16, 1, 15), (R.FCH_CH_HOP_MAX, 16, 1, 65535), (R.MTX_STARVE, 1, 1, 255),
   (R.PWR_QUIESCE_TMO, 1, 64, 65535), (R.FLT_GUARD_CFG, 1, 10, 10000), (R.OBS_SNAP_CFG_SNAP_MS, 1, 0, 1000),
   (R.OBS_SNAP_CFG_THRESH, 1, 1, 64), (R.OBS_SMP_THRESH, 1, 1, 8192), (R.OBS_TEL_CFG_TEL_PERIOD, 1, 100, 60000),
   (R.OBS_SCRUB_CFG, 1, 1, 24), (R.OBS_SMP_CFG_PERIOD, 12, 16, 1048575), (R.OBS_SMP_CFG_JITTER, 12, 0, 8)]

/-- Fields whose low bits read 0: the field, its instances and the number of those bits (R203, R211, R370). -/
def aligned : List (Fld × Nat × Nat) := [(R.LCH_RING_BASE, 11, 5), (R.SRV_RXQ_BASE, 8, 5), (R.HST_FWD_BASE, 1, 11)]

/-- The fields of the word at `a` follow their ranges. -/
def State.clampAt (s : State) (a : Nat) : State :=
  let s := clamps.foldl (fun s c => match c.1.hit c.2.1 a with
    | some i => s.set c.1 i (Nat.max c.2.2.1 (Nat.min c.2.2.2 (s.get c.1 i)))
    | none => s) s
  let s := aligned.foldl (fun s c => match c.1.hit c.2.1 a with
    | some i => s.set c.1 i (s.get c.1 i / 2 ^ c.2.2 * 2 ^ c.2.2)
    | none => s) s
  let s := match R.SRV_SA_CFG_ICV_LEN.hit 256 a with
    | some i => if s.get R.SRV_SA_CFG_ICV_LEN i == 16 || s.get R.SRV_SA_CFG_ICV_LEN i == 32 then s else s.set R.SRV_SA_CFG_ICV_LEN i 16
    | none => s
  let s := match R.HST_IRQ_ROUTE_VEC.hit 64 a with
    | some i => s.set R.HST_IRQ_ROUTE_VEC i (Nat.min (s.get R.HST_IRQ_ROUTE_VEC i) (vecCount (s.get R.HST_IRQ_ROUTE_FN i) - 1))
    | none => s
  let s := if 0x3800100 ≤ a && a < 0x3800180 then s.setWord a (s.word a &&& 0x77777777#32) else s
  match R.PRT_CFG_PRP_EN.hit 64 a, R.PRT_PRP_CFG_FORGET.hit 64 a with
  | some p, _ => if p.val % 2 = 1 then s.setFlag R.PRT_CFG_PRP_EN p false else s
  | _, some p => if p.val % 2 = 1 then s.set R.PRT_PRP_CFG_FORGET p 0x190 else s
  | _, _ => s

/-- Write-only words whose value stands until a command uses it. -/
def woKept (a : Nat) : Bool :=
  (0x1002080 ≤ a && a < 0x1002090) || (0x3400100 ≤ a && a < 0x3400130) || (0x3800800 ≤ a && a < 0x3800814)
    || (0x3800C08 ≤ a && a < 0x3800C18) || (0x3800D00 ≤ a && a < 0x3800D40)
    || (0x3810000 ≤ a && a < 0x3818000 && 0x20 ≤ a % 0x80 && a % 0x80 < 0x60)

/-- The bits of a write land in a word: RW bits are set, W1C bits cleared by a 1 (R11). -/
def State.putMasked (s : State) (a : Nat) (v : Word) (mask : Nat) : State :=
  let of_ := fun (p : Acc → Bool) => BitVec.ofNat 32 (maskAt (fun r => p r.acc) a &&& mask)
  let rw := of_ fun x => x == .rw || (x == .wo && woKept a)
  let clr := of_ (· == .w1c)
  let old := s.word a
  (s.setWord a (((old &&& ~~~rw) ||| (v &&& rw)) &&& ~~~(v &&& clr))).clampAt a

/-! ### Words with a behaviour of their own -/

/-- FLT_RAISE (R454). -/
def State.fltRaise (s : State) (m : Master) (v : Word) : State :=
  let inst := match m with
    | .eng n => n.val
    | _ => noInst
  s.raise (144 + v.toNat % 16) inst

/-- A write of FLT_STATUS word `w` (R460). -/
def State.fltClear (s : State) (m : Master) (w : Nat) (v : Word) : State :=
  let f := fun (s : State) (b : Nat) =>
    let k := 32 * w + b
    let cls := ((fsInfo k).map (·.1)).getD 0
    if v.getLsbD b && (cls < 2 || asPf0 m) && !s.active k then s.clearBit R.FLT_STATUS w b else s
  ((List.range 32).foldl f s).syncFlt

/-- The reactions of a source that a write can set (R456). -/
def reactOpen (k : Nat) : Nat :=
  match fsInfo k with
  | none => 0
  | some (cls, _, _, blk, fix) =>
    (if cls = 2 then 0 else 0x11) + 0x2 + (if blk then 0x4 else 0) + (if cls = 0 then 0 else 0x8) + (if cls = 2 || fix then 0 else 0x20)

/-- A write of FLT_REACT k (R456). -/
def State.fltReact (s : State) (k : Nat) (v : Word) : State :=
  let o := reactOpen k
  (s.set R.FLT_REACT_REACT k ((s.get R.FLT_REACT_REACT k &&& (63 - o)) ||| (v.toNat &&& o))).syncFlt

/-- A write of ENG_CTRL of an engine (R260, R273). `beats` tells how far the burst in progress had come at an ERESET (R393). -/
def State.engCtrl (s : State) (m : Master) (n : Fin 12) (v : Word) (beats : Option Nat) : State :=
  let host := match m with
    | .pf _ => true
    | .dbg => true
    | _ => false
  let s := if v.getLsbD 1 != s.flag R.ENG_CTRL_GATE n then s.gateSet n (v.getLsbD 1) else s
  let s := if v.getLsbD 2 then s.loadDone n else s
  let s := if v.getLsbD 0 then (if !s.flag R.ENG_CTRL_RUN n || s.engState n == stStopped then s.runSet n else s)
    else if s.flag R.ENG_CTRL_RUN n then s.runOff n host else s
  if v.getLsbD 3 then
    let st := s.engState n
    if st = stOff || st = stMeasuring then s
    else
      let s := if h : 2 ≤ n.val then s.burstCut ⟨n.val - 2, by omega⟩ beats else s
      s.engineReset n
  else s

/-- A write of KNL_MB words: the claimant's, while the buffer is CLAIMED (R63). -/
def State.mbWrite (s : State) (m : Master) (a : Nat) (v : Word) : State :=
  if h : (a - 0x1000400) / 0x400 < 4 then
    let b : Fin 4 := ⟨(a - 0x1000400) / 0x400, h⟩
    if s.mbState b = 1 && s.mbOwner b = some m then s.setWord a v else s
  else s

/-- The Pack key is loaded (R327). -/
def State.packLoad (s : State) (m : Master) : State :=
  if h : s.get R.PCK_AUTH_SLOT < 32 then
    match s.wkrLoad 3 (consUses 3) ⟨s.get R.PCK_AUTH_SLOT, h⟩ (some m) [] with
    | (none, s) => s
    | (some d, s) => ({ s with sec := { s.sec with pckKey := some d } }).syncKeys
  else s

/-- PWR_GATE_CMD (R407 to R410, R417). -/
def State.gateCmd (s : State) (v : Word) : State :=
  let u := v.toNat % 16
  let op := v.toNat / 16 % 4
  if u > 10 then s
  else if op = 0 then s.gateReq u false
  else if op = 1 then s.ungateReq u
  else if op = 2 then s.forceReq u
  else s.unitReset u

/-- A write to CLK, PWR, SEC, FLT or HST whose word does not take it as an ordinary one. -/
def State.preHost (s : State) (m : Master) (a : Nat) (v : Word) : Option State :=
  if a = R.CLK_ROOT_SEL.addr then some (s.rootSel v)
  else if a = R.PWR_CTRL_DOZE_EN.addr then some (s.dozeEn v)
  else if a = R.PWR_DEEP.addr then some (s.deepReq v)
  else if a = R.PWR_CHIP_RESET.addr then some (if v = 0xC4E50001#32 then s.chipResetChecked 3 else s)
  else if a = R.PWR_GATE_CMD_UNIT.addr then some (s.gateCmd v)
  else if a = R.SEC_DBG_REQ.addr then some (s.dbgReq (v.toNat % 4))
  else if 0x1000A0 ≤ a && a < 0x1000C0 then
    let s := { s with sec := { s.sec with extBuf := BitVec.ofNat 256 (setBits s.sec.extBuf.toNat (8 * (a - 0x1000A0)) 32 v.toNat) } }
    some (if a = 0x1000BC then s.hostExtend else s)
  else if 0x100400 ≤ a && a < 0x100470 then
    some { s with sec := { s.sec with kumBuf := BitVec.ofNat 896 (setBits s.sec.kumBuf.toNat (8 * (a - 0x100400)) 32 v.toNat) } }
  else if a = R.SEC_KUM_GO.addr then some (if v.getLsbD 0 then s.kumGo else s)
  else if a = R.FLT_RAISE.addr then some (s.fltRaise m v)
  else if a = R.FLT_GUARD_CTRL.addr then some (if v.getLsbD 0 then s.guardRestart else s)
  else if 0x200100 ≤ a && a < 0x200120 then some (s.fltClear m ((a - 0x200100) / 4) v)
  else if 0x200400 ≤ a && a < 0x200800 then some (s.fltReact ((a - 0x200400) / 4) v)
  else if a = 0x500030 || a = 0x500034 then some (s.irqClear ((a - 0x500030) / 4) v)
  else if a = R.HST_H_DBELL.addr then some (s.hDbell v)
  else if a = R.OBS_SNAP.addr then some s.snapWrite
  else match R.FCH_CH_CTRL_ABORT.hit 16 a with
    | some c =>
      let s := if v.getLsbD 0 then s.chAbort c else s
      let s := if v.getLsbD 2 then s.chFlush c else s
      some (if v.getLsbD 1 then s.chClear c else s)
    | none => none

/-- A write to the Kennel's blocks or to an engine whose word does not take it as an ordinary one. -/
def State.preKnl (s : State) (m : Master) (a : Nat) (v : Word) : Option State :=
  if a = R.KNL_MBX_GO.addr then some (s.mbGo m v)
  else if a = R.KNL_MBX_REL.addr then some (s.mbRel m v)
  else if 0x1000400 ≤ a && a < 0x1001400 then some (s.mbWrite m a v)
  else match R.SYN_SP_COMMIT_AT.hit 4 a, R.SYN_OUT_EN.hit 16 a, engAt a with
    | some k, _, _ => some (s.synCommit k v)
    | _, some j, _ => some (s.outEnable j v)
    | _, _, some n =>
      let o := a % 0x100000
      if o = 0 then some (s.engCtrl m n v none)
      else if o = 0x0C && n.val < 2 then some s
      else if o = 0x1C then some (s.wdogSet n (v &&& 0xFFFFFF#32))
      else if o = 0x20 then some (s.heartbeat n v)
      else if o = 0x24 then some (s.dbellSet n v)
      else if 0x100 ≤ o && o < 0x180 then some (s.imemOpen n fun s => s.setWord a v)
      else none
    | _, _, _ => none

/-- PRT_CNT_CLR: every counter of a port reads 0 (R187). -/
def State.cntClr (s : State) (p : Fin 64) : State := s.setWordsN (R.PRT_RX_FRAMES.at p) 0 17

/-- A write to the serving and port blocks whose word does not take it as an ordinary one. -/
def State.prePort (s : State) (m : Master) (a : Nat) (v : Word) : Option State :=
  if a = R.SRV_STEER_COMMIT.addr then some (s.steerCommit v)
  else if 0x3800100 ≤ a && a < 0x3800180 && (s.get R.SRV_STAT).testBit 0 then some (s.srvEvt 9)
  else if a = R.SRV_POOL_RET.addr then some (s.poolRet v.toNat)
  else if a = R.SRV_CT_CMD.addr then some (s.ctCmd v)
  else if a = R.SRV_MINT_CMD.addr then some (s.mintCmd v)
  else if a = R.BRC_CTRL_UNMUTE.addr then some (s.brcCtrl v)
  else if a = R.PCK_NODE.addr && s.flag R.PCK_CFG_ENABLE then some s
  else if a = R.GNS_SNAP_DONE_SLOT.addr then some (s.snapDone v)
  else if a = R.GNS_POS.addr + 4 || a = R.GNS_POS.addr + 12 || a = R.GNS_POS.addr + 20 then
    some (s.posWrite m ⟨(a - R.GNS_POS.addr) / 4 % 6, by omega⟩ v)
  else match R.PRT_CNT_CLR.hit 64 a, R.LCH_MASK_COMMIT.hit 64 a, R.ADR_CS_COMMIT.hit 4 a with
    | some p, _, _ => some (if v.getLsbD 0 then s.cntClr p else s)
    | _, some p, _ => some (s.maskCommit p v)
    | _, _, some n => some (s.adrCommit n v)
    | _, _, _ =>
      if h : 0x3408000 ≤ a ∧ a < 0x3410000 ∧ 0x100 ≤ a % 0x200 ∧ a % 0x200 < 0x180 then
        (if s.flag R.LCH_PSTAT_COMMIT_PENDING ((a - 0x3408000) / 0x200) then some (s.lchEvt 5) else none)
      else if h : 0x3C01000 ≤ a ∧ a < 0x3C01800 ∧ 0x40 ≤ a % 0x200 ∧ a % 0x200 < 0xA0 then
        (if s.flag R.ADR_PSTAT_COMMIT_PENDING ((a - 0x3C01000) / 0x200) then some (s.adrEvt 18) else none)
      else none

/-- A write to CLK to FCH, after its bits have landed. -/
def State.postHost (s : State) (before : State) (a : Nat) : State :=
  let s := if a = R.FLT_CFG_BARK_TEST.addr || a = R.FLT_STICKY_PIN_HELD.addr then s.syncFlt else s
  match R.OBS_CNT_SEL_EVENT.hit 32 a, R.OBS_SMP_CFG_ENABLE.hit 12 a, R.FCH_CH_CFG_FN.hit 16 a with
  | some k, _, _ => s.cntSelSync before k
  | _, some n, _ => s.smpSync before n
  | _, _, some c => s.chSync c
  | _, _, _ =>
    match chanAt a with
    | some c => if a % 0x100 = 0x0C then s.chHead c (s.get R.FCH_CH_HEAD c) else s
    | none => if 0x500200 ≤ a && a < 0x500300 then (List.range 4).foldl State.msgScan s else s

/-- The SN count that KNL_SN_LOAD0 to LOAD3 name (R41, R59). -/
def State.snToLoad (s : State) : Time :=
  BitVec.ofNat 96 (s.get R.KNL_SN_LOAD0 + 2 ^ 16 * (s.get R.KNL_SN_LOAD1 + 2 ^ 32 * (s.get R.KNL_SN_LOAD2 + 2 ^ 32 * s.get R.KNL_SN_LOAD3)))

/-- A write to the Kennel's blocks, after its bits have landed. -/
def State.postKnl (s : State) (a : Nat) : State :=
  if a = 0x100208C then s.snLoadReq s.snToLoad
  else if a = R.KNL_AUDIT_ACK.addr then
    ({ s with kspi := { s.kspi with ack := BitVec.ofNat 32 (s.get R.KNL_AUDIT_ACK) } } : State).syncAudit.syncAuditFull
  else match R.OSC_TEMP.hit 4 a with
    | some k =>
      let o := s.refs.osc[k.val]
      { s with refs := { s.refs with osc := s.refs.osc.set k.val { o with stale := false, tempAt := s.time.lc.toNat } } }
    | none => s

/-- A write to the serving and port blocks, after its bits have landed. -/
def State.postPort (s : State) (before : State) (m : Master) (a : Nat) (v : Word) : State :=
  if a = R.SRV_CTRL_ENABLE.addr then
    (if s.flag R.SRV_CTRL_ENABLE && !before.flag R.SRV_CTRL_ENABLE then s.poolPut s.poolBuffers else s)
  else if a = R.SRV_COOKIE_ROT.addr + 4 then s.rotArm (some m)
  else if a = R.LCH_HSUB.addr + 44 then s.hostSubmit
  else if a = R.ADR_START2_PORTS.addr then s.adrStart
  else if a = R.PCK_CFG_ENABLE.addr then (if s.gateCond 10 && !before.gateCond 10 then s.idleNow 2 else s)
  else if (R.ADR_CFG_ENABLE.hit 4 a).isSome then (if s.gateCond 9 && !before.gateCond 9 then s.idleNow 1 else s)
  else if a = R.BRC_CFG_ENABLE.addr || a = R.BRC_PORTS.addr || a = R.BRC_PORTS.addr + 4 then (if s.gateCond 10 && !before.gateCond 10 then s.idleNow 2 else s).braceEval
  else if a = R.PCK_PORT_EN.addr || a = R.PCK_PORT_EN.addr + 4 then s.packCfgSync
  else if a = R.PCK_AUTH_SLOT.addr then (if v.getLsbD 8 then s.packLoad m else s)
  else if a = R.GNS_CFG_ENABLE.addr then s.gnsConfig before
  else if a = R.GNS_CTRL_RES_RELEASE.addr then (if v.getLsbD 2 then s.resRelease else s)
  else match R.PRT_CFG_ENABLE.hit 64 a with
    | some p => s.portSync p
    | none =>
      if 0x3401000 ≤ a && a < 0x3401160 then s.lringSync ((a - 0x3401000) / 0x20)
      else if 0x3810000 ≤ a && a < 0x3818000 then
        let i := (a - 0x3810000) / 0x80
        if a % 0x80 = 0x3C then s.saCommit i false else if a % 0x80 = 0x5C then s.saCommit i true else s
      else s

/-! ### A write -/

/-- What is counted up to the moment at which the bits of a write land: the integrals of a temperature input that changes (R111). -/
def State.preLand (s : State) (a : Nat) : State := if (R.OSC_TEMP.hit 4 a).isSome then s.tintNow else s

/-- A write of the word at `a` whose value is whole: the behaviour of its own, or its bits land and the consequences follow. -/
def State.wordWrite (s : State) (m : Master) (a : Nat) (v : Word) (mask : Nat) : State :=
  match s.preHost m a v, s.preKnl m a v, s.prePort m a v with
  | some t, _, _ => t
  | _, some t, _ => t
  | _, _, some t => t
  | _, _, _ => (((((s.preLand a).putMasked a v mask).postHost s a).postKnl a).postPort s m a v)

/-- ENABLE of a port, a Pack link or an AES3 port: the unit that holds it, and the mask of the bit (R410). -/
def enableAt (a : Nat) : Option Nat :=
  match R.PRT_CFG_ENABLE.hit 64 a, R.PCK_LINK_CFG_ENABLE.hit 4 a, R.ADR_CFG_ENABLE.hit 4 a with
  | some p, _, _ => some (p.val / 8)
  | _, some _, _ => some 10
  | _, _, some _ => some 9
  | _, _, _ => none

/-- The MODE field of a write of PRT_CFG that names no mode keeps its value, with CFG_ERR (R163, R187). -/
def State.modeFix (s : State) (a : Nat) (v : Word) : State × Word :=
  match R.PRT_CFG_ENABLE.hit 64 a with
  | some p =>
    if bits v.toNat 1 3 ≥ 5 then
      ((s.raiseBit R.PRT_EVT p 7).raise fsPortCfgErr p.val, BitVec.ofNat 32 (setBits v.toNat 1 3 (s.get R.PRT_CFG_MODE p)))
    else (s, v)
  | none => (s, v)

/-- A write of one word, or of the highest word of a value, with the words held for it (R9). -/
def State.valueWrite (s : State) (m : Master) (a : Nat) (v : Word) (mask : Nat) : State :=
  match writeGroup a with
  | none => s.wordWrite m a v mask
  | some (base, n) =>
    if a ≠ base + 4 * (n - 1) then
      { s with holdw := (s.holdw.filter fun x => x.1 != a) ++ [(a, v)] }
    else
      let held := s.holdw
      let s := { s with holdw := held.filter fun x => !(decide (base ≤ x.1) && decide (x.1 < a)) }
      let s := (List.range (n - 1)).foldl (fun s i =>
        match held.find? fun x => x.1 == base + 4 * i with
        | some x => s.putMasked x.1 x.2 (s.writeMask m x.1)
        | none => s) s
      s.wordWrite m a v mask

/-- An enabling write waits for its unit (R410); any other takes effect. -/
def State.enabledWrite (s : State) (m : Master) (a : Nat) (v : Word) (mask : Nat) : State :=
  let (s, v) := s.modeFix a v
  match enableAt a with
  | some u =>
    if v.getLsbD 0 then
      match s.enableWrite u a v with
      | (true, s) => s.valueWrite m a v mask
      | (false, s) => s
    else s.valueWrite m a v mask
  | none => s.valueWrite m a v mask

/-- The sources whose lasting condition a write can make true follow (R366). -/
def State.irqFollow (s : State) (before : State) : State :=
  [16, 17, 19, 31].foldl (fun s k => s.irqEdge before k) s

/-- The memory window of an engine is written (R261, R278). -/
def State.engMemWrite (s : State) (n : Fin 12) (dmem : Bool) (cell : Nat) (v : Word) : State :=
  let put := fun (s : State) => s.setBytes cell (leBytes 4 v.toNat)
  if dmem then (if s.engState n = stOff then s else put s) else s.imemOpen n put

/-- A 32-bit write of a register block by a master (R26, R27, R261, R364). -/
def State.busWrite32 (s : State) (m : Master) (a : Nat) (v : Word) : State :=
  let s := { s with answer := Answer.none }
  if !s.answers m || a % 4 ≠ 0 then s.replyErr
  else if s.rights m a = .unmapped then
    (match m with
      | .pf _ => s.unmappedAt
      | _ => s.replyErr)
  else match s.engMem m a with
    | some (n, dmem, cell) => if s.rights m a = .rw then s.engMemWrite n dmem cell v
      else (match m with
        | .pf _ => s.roWrite
        | _ => s)
    | none =>
      let mask := s.writeMask m a
      if mask = 0 then
        (match m with
          | .pf f => if f ≠ 0 && !(rowsAt a).isEmpty then s.roWrite else s
          | _ => s)
      else (s.enabledWrite m a v mask).irqFollow s

end Sys2Proof.Machine
end

