-- ==== Sys2Proof/Machine/FchData.lean ====
section
/-! DEFINITION. The movement of data by the Fetch channels (R373 to R380), and host accesses to shared SRAM (R365). -/

namespace Sys2Proof.Machine

/-! ### Accesses on chip -/

/-- A register range read as aligned 32-bit accesses in ascending order; none where one is answered with an error (R376). -/
def State.regsRead (s : State) (m : Master) (a : Nat) : Nat → Option (List Byte) × State
  | 0 => (some [], s)
  | n + 1 =>
    let s := s.busRead32 m a
    match s.answer with
    | .data w =>
      match s.regsRead m (a + 4) n with
      | (some bs, s) => (some (leBytes 4 w.toNat ++ bs), s)
      | (none, s) => (none, s)
    | _ => (none, s)

/-- A register range written as aligned 32-bit accesses in ascending order; false where one is answered with an error. -/
def State.regsWrite (s : State) (m : Master) (a : Nat) : List Word → Bool × State
  | [] => (true, s)
  | w :: t =>
    let s := s.busWrite32 m a w
    if s.answer = .error then (false, s) else s.regsWrite m (a + 4) t

/-- Whether `n` bytes from a matrix address lie in the register space (R257, R386). -/
def inRegs (a n : Nat) : Bool := decide (0x40000000 ≤ a) && decide (a + n ≤ 0x48000000)

/-- A Fetch channel reads on chip: SRAM or registers (R376, R378). -/
def State.chipRead (s : State) (c : Fin 16) (a n : Nat) : Option (List Byte) × State :=
  if inRegs a n then
    match s.regsRead (.fch c) (a - 0x40000000) (n / 4) with
    | (some bs, s) => (some bs, s)
    | (none, s) => (none, s.mtxErr 10 a (targetOf a) false mkUnmapped)
  else if n == 0 || s.sramOk a n then (some (s.bytes a n), s.sramSoft a n)
  else (none, s.sramErr 10 a n false)

/-- A Fetch channel writes on chip. -/
def State.chipWrite (s : State) (c : Fin 16) (a : Nat) (bs : List Byte) : Bool × State :=
  if inRegs a bs.length then
    match s.regsWrite (.fch c) (a - 0x40000000) (wordsOfBytes bs) with
    | (true, s) => (true, s)
    | (false, s) => (false, s.mtxErr 10 a (targetOf a) true mkUnmapped)
  else if inSram a bs.length && !s.hung (targetOf a) then (true, s.setBytes a bs)
  else (false, s.sramErr 10 a bs.length true)

/-! ### Checks of a descriptor (R374, R375) -/

/-- HOST_ADDR, NEXT and CHIP_ADDR of a descriptor (R373). -/
def descHost (d : List Byte) : Nat := leAt d 0 8
def descNext (d : List Byte) : Nat := leAt d 8 8
def descChip (d : List Byte) : Nat := leAt d 16 4

/-- Whether a range lies in blocks that pass a test. -/
def inBlocks (p : Block → Bool) (a n : Nat) : Bool :=
  inRegs a n && blocks.any fun b => p b && blkHas b (a - 0x40000000) && blkHas b (a - 0x40000000 + n - 1)

/-- Whether a function's channels may move a range of `n` bytes in a direction (R375). -/
def fchOpen (fn : Nat) (c2h : Bool) (a n : Nat) : Bool :=
  let shared := decide (0x10000000 ≤ a) && decide (a + n ≤ 0x10400000)
  if fn = 0 then inSram a n || inRegs a n
  else if fn = 1 then inSram a n || inBlocks (fun b => [Block.prt, .lch, .srv, .pck, .brc, .adr].contains b) a n
  else if fn = 2 then c2h && (shared || inBlocks (fun b => b == .obs) a n)
  else c2h && decide (0x41004000 ≤ a) && decide (a + n ≤ 0x4102C000)

/-- The first check of R374 that a descriptor fails, as its status; none where it passes. -/
def descFault (fn : Nat) (d : List Byte) : Option Nat :=
  let a := descChip d
  let n := descLen d
  if crc32c (d.take 28) ≠ leAt d 28 4 then some fcCRC
  else if leAt d 0x17 1 ≠ 0 || bits (leAt d 0x18 4) 5 11 ≠ 0 || (!descBit d 1 && descNext d % 32 ≠ 0) then some fcBADDESC
  else if !fchOpen fn (descBit d 0) a n then some fcPERM
  else if inRegs a n && (a % 4 ≠ 0 || n % 4 ≠ 0) then some fcALIGN
  else none

/-! ### The work of a channel -/

/-- A descriptor's data is complete (R373, R377, R379). -/
def State.descDone (s : State) (c : Fin 16) (w : FchWork) : State :=
  let x := s.fchCh c
  let s := s.setFch c { x with work := some w, done := x.done + 1, tag := descTag w.desc }
  let s := if descBit w.desc 2 then s.raiseBit R.FCH_CH_EVT c 4 else s
  match x.stop with
  | some st => if st = fcDISABLED then s.chDrain c st w.addr else s.chEnd c st w.addr
  | none =>
    if descBit w.desc 1 then s.chEnd c fcOK w.addr
    else if x.hops ≥ s.get R.FCH_CH_HOP_MAX c then (s.setFch c { s.fchCh c with work := none }).chEnd c fcLOOP (descNext w.desc)
    else s.chFetch c (descNext w.desc)

/-- A chain stops with an error status, or with the status that a stop in progress has set (R378: the higher row decides). -/
def State.chFail (s : State) (c : Fin 16) (status cur : Nat) : State :=
  if (s.fchCh c).stop = some fcDISABLED then s.chDrain c fcDISABLED cur else s.chEnd c status cur

/-- A descriptor has been read (R374). -/
def State.descTake (s : State) (c : Fin 16) (d : HostData) : State :=
  let x := s.fchCh c
  match x.fetch, d with
  | none, _ => s
  | some a, .error => s.chFail c fcHOSTERR a
  | some a, .data bytes =>
    let desc := padTo 32 bytes
    match x.stop with
    | some st => s.chFail c st a
    | none =>
      let w : FchWork := { addr := a, desc := desc, moved := 0, crc := 0xFFFFFFFF }
      let s := s.setFch c { x with fetch := none, work := some w, hops := x.hops + 1, readLc := s.time.lc.toNat }
      match descFault (s.chFn c) desc with
      | some st => s.chEnd c st a
      | none => if descLen desc = 0 then s.descDone c w else s

/-- Bytes of the descriptor in progress have moved (R376, R377). -/
def State.chMoved (s : State) (c : Fin 16) (w : FchWork) (bs : List Byte) : State :=
  let crc := bs.foldl (fun r b => crcSteps 0x82F63B78 8 (r ^^^ b.toNat)) w.crc
  let w := { w with moved := w.moved + bs.length, crc := crc }
  let s := s.bumpW R.FCH_CH_BYTES c bs.length
  if w.moved ≥ descLen w.desc then s.descDone c w else s.setFch c { s.fchCh c with work := some w, readLc := s.time.lc.toNat }

/-- Data of the descriptor in progress arrives from the host, at most Max_Read_Request_Size of it, or a write TLP of at most Max_Payload_Size is
sent (R376 to R378; log entry 64). -/
def State.chData (s : State) (c : Fin 16) (d : HostData) : State :=
  match (s.fchCh c).work, d with
  | none, _ => s
  | some w, .error => if descBit w.desc 0 then s else s.chFail c fcHOSTERR w.addr
  | some w, .data bytes =>
    let left := descLen w.desc - w.moved
    let a := descChip w.desc + w.moved
    if inSram a 1 && !s.pwr.sramClear then s
    else if descBit w.desc 0 then
      let max := s.maxPayload (s.chFn c)
      let n := Nat.min left (Nat.min max (if bytes.isEmpty then max else bytes.length))
      let n := if inRegs a n then (n + 3) / 4 * 4 else n
      match s.chipRead c a n with
      | (none, s) => s.chFail c fcCHIPERR w.addr
      | (some bs, s) =>
        let t : HostTlp := { addr := descHost w.desc + w.moved, bytes := bs, ro := s.relaxed (s.chFn c), ns := descBit w.desc 3 }
        (s.tlpOut c t).chMoved c w bs
    else
      let bs := bytes.take (Nat.min left (s.maxRead (s.chFn c)))
      let bs := if inRegs a bs.length then bs.take (bs.length / 4 * 4) else bs
      match s.chipWrite c a bs with
      | (false, s) => s.chFail c fcCHIPERR w.addr
      | (true, s) => s.chMoved c w bs

/-- A read of a channel receives no completion within HST_CPL_TMO (R379). -/
def State.chTimeout (s : State) (c : Fin 16) : State :=
  let x := s.fchCh c
  if s.chReads c && s.past x.readLc (s.get R.HST_CPL_TMO) 1000000 then s.chFail c fcNORESP (x.fetch.getD 0) else s

/-! ### BAR4 (R365) -/

/-- A host access through BAR4: a read of `len` bytes, or a write. PF0 and PF1 have a BAR4 (R363). -/
def State.bar4 (s : State) (f : Fin 4) (off len : Nat) (write : Option (List Byte)) : State :=
  let a := 0x10000000 + off
  let s := { s with answer := Answer.none }
  if !s.answers (.pf f) || f.val ≥ 2 then s.replyErr
  else match write with
    | some bs =>
      if off + bs.length ≤ 0x400000 then (if s.pwr.sramClear then s.setBytes a bs else s) else s.replyErr
    | none =>
      if off + len > 0x400000 then s.replyErr
      else if !s.pwr.sramClear then s
      else if s.badAt a len then (s.sramErr 10 a len false).replyErr
      else { s.sramSoft a len with answer := .bytes (s.bytes a len) }

/-! ### Meanings -/

/-- FCH_DESCRIPTOR_FETCH (R374). -/
def execFchDescriptorFetch (c : Fin 16) (d : HostData) (s : State) : Host.Outcome State Fault Refusal := done (s.descTake c d)

/-- FCH_DATA_COMPLETION (R376). -/
def execFchDataCompletion (c : Fin 16) (d : HostData) (s : State) : Host.Outcome State Fault Refusal := done (s.chData c d)

/-- FCH_CPL_TIMEOUT (R379). -/
def execFchCplTimeout (c : Fin 16) (s : State) : Host.Outcome State Fault Refusal := done (s.chTimeout c)

/-- BAR4_ACCESS (R365). -/
def execBar4Access (f : Fin 4) (off len : Nat) (write : Option (List Byte)) (s : State) : Host.Outcome State Fault Refusal :=
  done (s.bar4 f off len write)

end Sys2Proof.Machine
end

