-- ==== Sys2Proof/Machine/EngMem.lean ====
section
/-! DEFINITION. Loads, stores and atomic operations of the engines, and the bus matrix between them and memory (R253, R254, R257,
R287 to R289, R385 to R393). -/

namespace Sys2Proof.Machine

/-! ### Requests (R387 to R390) -/

/-- The matrix master of an engine E2 to E11 (R385). -/
def engMaster (n : Fin 12) : Fin 16 := ⟨n.val - 2, by omega⟩

/-- The engine of a master 0 to 9. -/
def masterEng (m : Fin 16) : Option (Fin 12) := if h : m.val < 10 then some ⟨m.val + 2, by omega⟩ else none

/-- Whether a request writes and reads nothing back. -/
def MReq.isWrite (r : MReq) : Bool :=
  match r.op with
  | .write _ => true
  | _ => false

/-- The outstanding limit of a master, for reads or for writes (R385). -/
def outLimit (m : Nat) : Nat := if m < 10 then 4 else if m = 10 then 64 else if m = 11 || m = 13 then 32 else if m = 12 then 16 else 8

/-- The granted requests of a master, of one kind, whose responses have not returned. -/
def State.outstanding (s : State) (m : Fin 16) (write : Bool) : Nat := s.mtx.resps.countP fun r => r.master == m && r.isWrite == write

/-- The requests with those before them, in the order issued. -/
def withEarlier {α : Type} (before : List α) : List α → List (α × List α)
  | [] => []
  | r :: t => (r, before) :: withEarlier (before ++ [r]) t

/-- Whether the matrix holds a request back (R390): its master is at its limit, or awaits responses from before its reset (R393), an earlier write
is not acknowledged, or its target cannot accept it. -/
def State.reqHeld (s : State) (r : MReq) (before : List MReq) : Bool :=
  let mine := before.filter fun x => x.master == r.master
  let earlierWrite := mine.any MReq.isWrite
  let reg := r.target == 9 || r.target == 10
  decide (s.outstanding r.master r.isWrite ≥ outLimit r.master.val)
    || (s.mtx.resps.any fun x => x.master == r.master && x.dead)
    || (r.isWrite && reg && (earlierWrite || decide (s.outstanding r.master true > 0)))
    || (r.target == 10 && s.mtx.resps.any fun x => x.target == 10 && x.isWrite)
    || (decide (r.target.val ≤ 8) && !s.pwr.sramClear)

/-- Whether a request stands behind an earlier one of its master: to the same target, or a store behind a store of the write buffer
(R254, R389). -/
def MReq.behind (r : MReq) (before : List MReq) : Bool :=
  before.any fun x => x.master == r.master && (x.target == r.target || (x.isWrite && r.isWrite))

/-- Requests that are held back from now on, or no more: the cycles count (R394, R466). -/
def State.heldSync (s : State) : State :=
  let step := fun (acc : State × List MReq) (p : MReq × List MReq) =>
    let (s, out) := acc
    let (r, before) := p
    let held := s.reqHeld r before
    match r.since with
    | none => (s, out ++ [if held then { r with since := some s.time.lc.toNat } else r])
    | some l =>
      if held then (s, out ++ [r])
      else
        let k := s.matrixCycles l
        ((s.bump R.MTX_HELD r.master k).obs 6 (r.master.val * 8 + 1) k, out ++ [{ r with since := none }])
  let (s, reqs) := (withEarlier [] s.mtx.reqs).foldl step (s, [])
  { s with mtx := { s.mtx with reqs := reqs } }

/-- A request reaches the matrix. -/
def State.request (s : State) (m : Fin 16) (a : Nat) (op : MOp) : State :=
  State.heldSync { s with mtx := { s.mtx with reqs := s.mtx.reqs ++ [{ master := m, target := targetOf a, addr := a, op := op, since := none }] } }

/-! ### Arbitration (R387, R388) -/

/-- The requests that a target can grant now. -/
def State.grantable (s : State) (t : Fin 12) : List MReq :=
  ((withEarlier [] s.mtx.reqs).filter fun p => p.1.target == t && !p.1.behind p.2 && !s.reqHeld p.1 p.2).map (·.1)

/-- The next request by round robin after a master. -/
def roundRobin (last : Fin 16) (rs : List MReq) : Option MReq :=
  let dist := fun (r : MReq) => (r.master.val + 16 - last.val - 1) % 16
  rs.foldl (fun b r => match b with
    | none => some r
    | some x => if dist r < dist x then some r else some x) none

/-- Whether a master is of the high class (R387). -/
def State.highClass (s : State) (m : Fin 16) : Bool := (s.get R.MTX_PRIO).testBit m.val

/-- The grants to others that a low-class master has waited through at a target. -/
def State.starved (s : State) (t : Fin 12) (m : Fin 16) : Nat := s.mtx.starve[t.val * 16 + m.val]'(by omega)

/-- The request that a target grants: one that has waited through STARVE_MAX grants, then the high class, then the low class. -/
def State.arbitrate (s : State) (t : Fin 12) : Option MReq :=
  let cs := s.grantable t
  let low := cs.filter fun r => !s.highClass r.master
  let late := low.filter fun r => decide (s.starved t r.master ≥ s.get R.MTX_STARVE)
  let high := cs.filter fun r => s.highClass r.master
  if !late.isEmpty then roundRobin s.mtx.rrLow[t] late
  else if !high.isEmpty then roundRobin s.mtx.rrHigh[t] high
  else roundRobin s.mtx.rrLow[t] low

/-- What a grant does to the arbiter: parking, round robin, and the count of those that wait. -/
def State.arbiter (s : State) (t : Fin 12) (r : MReq) : State :=
  let x := s.mtx
  let hi := s.highClass r.master
  let bumpOne := fun (v : Vector Nat 192) (m : Fin 16) =>
    if m = r.master then v.set (t.val * 16 + m.val) 0 (by omega)
    else if !s.highClass m && (s.grantable t).any (fun y => y.master == m) then
      v.set (t.val * 16 + m.val) (v[t.val * 16 + m.val]'(by omega) + 1) (by omega)
    else v
  let starve := (List.finRange 16).foldl bumpOne x.starve
  { s with mtx := { x with parked := x.parked.set t r.master, starve := starve
                           rrHigh := if hi then x.rrHigh.set t r.master else x.rrHigh
                           rrLow := if hi then x.rrLow else x.rrLow.set t r.master } }

/-! ### What a granted access does -/

/-- The new value of an atomic operation (R289): `x` is what CAS compares with, `y` the operand. -/
def Amo.apply (op : Amo) (old x y : DWord) : DWord :=
  match op with
  | .swap => y
  | .add => old + y
  | .and => old &&& y
  | .or => old ||| y
  | .cas => if old = x then y else old

/-- An access of an engine to registers: 32-bit accesses in ascending order, other widths refused (R8, R288). The answer shown to
the host stays. -/
def State.engRegs (s : State) (n : Fin 12) (off : Nat) (op : MOp) : Option (List Byte) × State :=
  let keep := s.answer
  let (r, s) := match op with
    | .read len => if len % 4 = 0 then s.regsRead (.eng n) off (len / 4) else (none, s)
    | .write bs =>
      if bs.length % 4 = 0 then
        match s.regsWrite (.eng n) off (wordsOfBytes bs) with
        | (true, s) => (some [], s)
        | (false, s) => (none, s)
      else (none, s)
    | .atomic _ _ _ => (none, s)
  (r, { s with answer := keep })

/-- An access to SRAM: data, or none where a read meets an uncorrectable word; with the bytes that a write replaced (R289, R454). -/
def State.sramAccess (s : State) (m a : Nat) (op : MOp) : Option (List Byte) × List Byte × State :=
  match op with
  | .read len => if s.badAt a len then (none, [], s.sramErr m a len false) else (some (s.bytes a len), [], s.sramSoft a len)
  | .write bs => (some [], s.bytes a bs.length, s.setBytes a bs)
  | .atomic o x y =>
    if s.badAt a 8 then (none, [], s.sramErr m a 8 false)
    else
      let old := BitVec.ofNat 64 (s.memN a 8)
      (some (s.bytes a 8), s.bytes a 8, (s.sramSoft a 8).setBytes a (leBytes 8 (o.apply old x y).toNat))

/-- A granted request takes effect (R389, R391, R392). -/
def State.perform (s : State) (r : MReq) : Option (List Byte) × List Byte × State :=
  if r.target = 11 then (none, [], s.mtxErr r.master r.addr 11 r.isWrite mkUnmapped)
  else if s.hung r.target then (none, [], s.mtxErr r.master r.addr r.target r.isWrite mkHung)
  else if r.target.val ≤ 8 then s.sramAccess r.master r.addr r.op
  else match masterEng r.master with
    | some n =>
      let (d, s) := s.engRegs n (r.addr - 0x40000000) r.op
      (d, [], s)
    | none => (none, [], s)

/-- How many bytes a request moves. -/
def MOp.size : MOp → Nat
  | .read n => n
  | .write bs => bs.length
  | .atomic _ _ _ => 8

/-! ### Where data goes -/

/-- A number in a destination: zero or sign extended, or a time register (R287). -/
def State.putDest (s : State) (n : Fin 12) (d : Dest) (v : Nat) : State :=
  match d with
  | .gpr a len signed => s.setG n a (if signed then BitVec.ofInt 64 (sext (8 * len) v) else BitVec.ofNat 64 v)
  | .time va => s.setV n va (BitVec.ofNat 96 v)

/-- The cycles that a stalled instruction waited count in its record (R470, R471). -/
def State.addStall (s : State) (n : Fin 12) (cls c : Nat) : State :=
  let e := s.engine n
  if e.held.isSome || e.waiting.isSome then s else s.costMore n cls c

/-- A held instruction goes on: its stall ends, then `f`; traps that waited for it follow (R253, R268). -/
def State.engResume (s : State) (n : Fin 12) (cls : Nat) (f : State → State) : State :=
  let c := s.cyclesSince n (s.engine n).heldAt
  ((f (s.stallEnd n cls)).addStall n cls c).boundaryTraps n

/-- The old value of an atomic operation and the flag of CAS (R289). -/
def State.amoResult (s : State) (n : Fin 12) (op : Amo) (a : BitVec 5) (x old : DWord) : State :=
  let s := if op = .cas then s.setFlags n { s.flags n with z := old == x } else s
  s.setG n a old

/-! ### Loads -/

/-- Whether a store to a line that an access touches is still in the write buffer (R254). -/
def State.lineBusy (s : State) (n : Fin 12) (a len : Nat) : Bool :=
  (s.engine n).wbuf.any fun w => decide (w.addr / 64 ≤ (a + len - 1) / 64) && decide (a / 64 ≤ (w.addr + w.bytes.length - 1) / 64)

/-- Whether a read of an engine is on its way. -/
def State.reading (s : State) (n : Fin 12) : Bool :=
  s.mtx.reqs.any (fun r => r.master == engMaster n && !r.isWrite) || s.mtx.resps.any fun r => r.master == engMaster n && !r.isWrite

/-- The read of a held load goes to the matrix once the stores before it to its line have left (R254). -/
def State.tryRead (s : State) (n : Fin 12) : State :=
  match (s.engine n).held with
  | some (.load a len _) => if s.reading n || s.lineBusy n a len then s else s.request (engMaster n) a (.read len)
  | some (.amo op a _ x y) => if s.reading n || s.lineBusy n a 8 then s else s.request (engMaster n) a (.atomic op x y)
  | _ => s

/-- A load of `len` bytes (R287, R288). -/
def State.loadOp (s : State) (n : Fin 12) (b : BitVec 5) (imm : BitVec 16) (len : Nat) (d : Dest) (cost : Nat) : State :=
  let a := s.effAddr n b imm
  if a % alignOf len ≠ 0 then s.trap n cALIGN (some a)
  else match engView n a len with
    | .dmem c => if s.badAt c len then s.trap n cECCD else (((s.putDest n d (s.memN c len)).loads n d).next n cost).dmemSoft n (s.softs c len)
    | .kin off => (s.putDest n d (ofLe ((List.range len).map fun i => s.kinByte (off + i)))).next n cost
    | .closed => s.trap n cBUSERR (some a)
    | .sram => (s.hold n (.load a len d)).tryRead n
    | .regs off =>
      if 2 ≤ n.val then (s.hold n (.load a len d)).tryRead n
      else match s.engRegs n off (.read len) with
        | (some bs, s) => (s.putDest n d (ofLe bs)).next n cost
        | (none, s) => s.trap n cBUSERR (some a)

/-- A load issues. -/
def State.load (s : State) (ws : List Word) (n : Fin 12) (b : BitVec 5) (imm : BitVec 16) (len : Nat) (d : Dest) (cost : Nat) :
    Host.Outcome State Fault Refusal := s.issue ws n [.g b] fun s => s.loadOp n b imm len d cost

/-! ### Stores -/

/-- A store enters the write buffer and the matrix (R254). -/
def State.bufferStore (s : State) (n : Fin 12) (a : Nat) (bs : List Byte) : State :=
  let e := s.engine n
  (s.setEng n { e with wbuf := e.wbuf ++ [{ addr := a, bytes := bs }] }).request (engMaster n) a (.write bs)

/-- A store to a matrix address: into the write buffer, or held while its four entries are in use (R253). -/
def State.matrixStore (s : State) (n : Fin 12) (a : Nat) (bs : List Byte) (cost : Nat) : State :=
  if (s.engine n).wbuf.length < 4 then (s.bufferStore n a bs).next n cost else s.hold n (.store a bs cost)

/-- A store of bytes (R287, R288). The input log is read only (R257). -/
def State.storeOp (s : State) (n : Fin 12) (b : BitVec 5) (imm : BitVec 16) (bs : List Byte) (cost : Nat) : State :=
  let len := bs.length
  let a := s.effAddr n b imm
  if a % alignOf len ≠ 0 then s.trap n cALIGN (some a)
  else match engView n a len with
    | .dmem c => (s.setBytes c bs).next n cost
    | .kin _ => s.trap n cBUSERR (some a)
    | .closed => s.trap n cBUSERR (some a)
    | .sram => s.matrixStore n a bs cost
    | .regs off =>
      if 2 ≤ n.val then s.matrixStore n a bs cost
      else match s.engRegs n off (.write bs) with
        | (some _, s) => s.next n cost
        | (none, s) => s.trap n cBUSERR (some a)

/-- A store issues. -/
def State.storeInst (s : State) (ws : List Word) (n : Fin 12) (r : EReg) (b : BitVec 5) (imm : BitVec 16) (v len cost : Nat) : Host.Outcome State Fault Refusal :=
  s.issue ws n [r, .g b] fun s => s.storeOp n b imm (leBytes len v) cost

/-! ### Atomic operations (R289) -/

/-- An operation of the AMO group at g[b]. -/
def State.amoOp (s : State) (n : Fin 12) (op : Amo) (a b c : BitVec 5) : State :=
  let addr := s.effAddr n b 0
  let x := s.g n a
  let y := s.g n c
  if addr % 8 ≠ 0 then s.trap n cALIGN (some addr)
  else match engView n addr 8 with
    | .dmem k =>
      if s.badAt k 8 then s.trap n cECCD
      else
        let old := BitVec.ofNat 64 (s.memN k 8)
        (((s.setBytes k (leBytes 8 (op.apply old x y).toNat)).amoResult n op a x old).next n 2).dmemSoft n (s.softs k 8)
    | .sram => (s.hold n (.amo op addr a x y)).tryRead n
    | .regs _ => if 2 ≤ n.val then (s.hold n (.amo op addr a x y)).tryRead n else s.trap n cBUSERR (some addr)
    | _ => s.trap n cBUSERR (some addr)

/-- An operation of the AMO group issues. -/
def State.amo (s : State) (ws : List Word) (n : Fin 12) (op : Amo) (a b c : BitVec 5) : Host.Outcome State Fault Refusal :=
  s.issue ws n (if op = .cas then [.g a, .g b, .g c] else [.g b, .g c]) fun s => s.amoOp n op a b c

/-! ### Grants and responses -/

/-- The store at the head of a write buffer leaves it (R254). -/
def State.storeLeaves (s : State) (n : Fin 12) : State :=
  let e := s.engine n
  s.setEng n { e with wbuf := e.wbuf.drop 1, unacked := e.unacked + 1 }

/-- A target grants a burst (R387, R388): it takes effect, and its response is on its way. -/
def State.grant (s : State) (t : Fin 12) : State :=
  match s.arbitrate t with
  | none => s
  | some r =>
    let s := s.arbiter t r
    let s := { s with mtx := { s.mtx with reqs := s.mtx.reqs.erase r } }
    let s := ((s.obs 6 (r.master.val * 8)).obs 6 (128 + t.val * 4)).obs 6 (128 + t.val * 4 + 1) (ceilDiv r.op.size 16)
    let s := match masterEng r.master with
      | some n => if r.isWrite then s.storeLeaves n else s
      | none => s
    let (d, old, s) := s.perform r
    let resp : MResp := { master := r.master, target := t, addr := r.addr, isWrite := r.isWrite, data := d, old := old, at_ := s.time.lc.toNat, dead := false }
    let s := State.heldSync { s with mtx := { s.mtx with resps := s.mtx.resps ++ [resp] } }
    match masterEng r.master with
    | some n => s.tryRead n
    | none => s

/-- FENCE completes once the write buffer is empty and every store acknowledged (R300). -/
def State.fenceEnd (s : State) (n : Fin 12) : State :=
  let e := s.engine n
  if e.held == some .fence && e.wbuf.isEmpty && e.unacked == 0 then s.engResume n 2 fun s => s.next n 1 else s

/-- A store is acknowledged; an error is kept until the next instruction boundary (R268). -/
def State.storeAck (s : State) (n : Fin 12) (r : MResp) : State :=
  let e := s.engine n
  (s.setEng n { e with unacked := e.unacked - 1, storeErr := if r.data.isNone && e.storeErr.isNone then some r.addr else e.storeErr }).fenceEnd n

/-- Read data reaches the instruction that waits for it (R287, R289). -/
def State.readBack (s : State) (n : Fin 12) (r : MResp) : State :=
  match (s.engine n).held, r.data with
  | some (.load a _ _), none => s.engResume n 1 fun s => s.trap n cBUSERR (some a)
  | some (.amo _ a _ _ _), none => s.engResume n 1 fun s => s.trap n cBUSERR (some a)
  | some (.load _ _ d), some bs => s.engResume n 1 fun s => (s.putDest n d (ofLe bs)).next n 1
  | some (.amo op _ a x _), some bs => s.engResume n 1 fun s => (s.amoResult n op a x (BitVec.ofNat 64 (ofLe bs))).next n 1
  | _, _ => s

/-- The oldest response of a master from a target returns (R389). -/
def State.respond (s : State) (m : Fin 16) (t : Fin 12) : State :=
  match s.mtx.resps.find? fun r => r.master == m && r.target == t with
  | none => s
  | some r =>
    let s := State.heldSync { s with mtx := { s.mtx with resps := s.mtx.resps.erase r } }
    match if r.dead then none else masterEng m with
    | none => s
    | some n => (if r.isWrite then s.storeAck n r else s.readBack n r).stopComplete n

/-- A target has been silent for 4,096 matrix cycles (R391, R392): it is HUNG, and what it owes is answered with errors, the first as a timeout. -/
def State.targetTimeout (s : State) (t : Fin 12) : State :=
  match s.mtx.resps.find? fun r => r.target == t with
  | none => s
  | some r =>
    if t.val = 0 || t.val = 11 || s.hung t || (s.time.running && s.matrixCycles r.at_ < 4096) then s
    else
      let more := (s.mtx.resps.countP fun (x : MResp) => x.target == t) - 1
      let s := { s with mtx := { s.mtx with resps := s.mtx.resps.map fun (x : MResp) => if x.target == t then { x with data := none } else x } }
      let s := s.set R.MTX_TGT_STAT 0 (s.get R.MTX_TGT_STAT ||| 2 ^ (t.val - 1))
      (s.mtxErr r.master r.addr t r.isWrite mkTimeout).forN more fun _ s => s.mtxErr r.master r.addr t r.isWrite mkHung

/-- A stalled store enters the write buffer once an entry is free (R253). -/
def State.storeRelease (s : State) (n : Fin 12) : State :=
  match (s.engine n).held with
  | some (.store a bs cost) =>
    if (s.engine n).wbuf.length < 4 then s.engResume n 1 fun s => (s.bufferStore n a bs).next n cost else s
  | _ => s

/-- An error that a store met is taken at the first instruction boundary (R268, R301). -/
def State.storeError (s : State) (n : Fin 12) : State :=
  let e := s.engine n
  match e.storeErr with
  | none => s
  | some a =>
    if s.engState n == stRunning && e.held.isNone then
      (s.setEng n { e with storeErr := none }).trapAt n cBUSERR e.pc (some a) true
    else s

/-! ### Meanings -/

/-- LD (R287). -/
def execLd (n : Fin 12) (a b : BitVec 5) (imm : BitVec 16) (s : State) : Host.Outcome State Fault Refusal := s.load [wordI 0x20 a b imm] n b imm 8 (.gpr a 8 false) 1

/-- LW (R287). -/
def execLw (n : Fin 12) (a b : BitVec 5) (imm : BitVec 16) (s : State) : Host.Outcome State Fault Refusal := s.load [wordI 0x21 a b imm] n b imm 4 (.gpr a 4 false) 1

/-- LWS (R287). -/
def execLws (n : Fin 12) (a b : BitVec 5) (imm : BitVec 16) (s : State) : Host.Outcome State Fault Refusal := s.load [wordI 0x22 a b imm] n b imm 4 (.gpr a 4 true) 1

/-- LH (R287). -/
def execLh (n : Fin 12) (a b : BitVec 5) (imm : BitVec 16) (s : State) : Host.Outcome State Fault Refusal := s.load [wordI 0x23 a b imm] n b imm 2 (.gpr a 2 false) 1

/-- LHS (R287). -/
def execLhs (n : Fin 12) (a b : BitVec 5) (imm : BitVec 16) (s : State) : Host.Outcome State Fault Refusal := s.load [wordI 0x24 a b imm] n b imm 2 (.gpr a 2 true) 1

/-- LB (R287). -/
def execLb (n : Fin 12) (a b : BitVec 5) (imm : BitVec 16) (s : State) : Host.Outcome State Fault Refusal := s.load [wordI 0x25 a b imm] n b imm 1 (.gpr a 1 false) 1

/-- LBS (R287). -/
def execLbs (n : Fin 12) (a b : BitVec 5) (imm : BitVec 16) (s : State) : Host.Outcome State Fault Refusal := s.load [wordI 0x26 a b imm] n b imm 1 (.gpr a 1 true) 1

/-- TLD (R287). -/
def execTld (n : Fin 12) (va : BitVec 3) (b : BitVec 5) (imm : BitVec 16) (s : State) : Host.Outcome State Fault Refusal :=
  s.load [wordI 0x27 (0#2 ++ va) b imm] n b imm 12 (.time va) 2

/-- SD (R287). -/
def execSd (n : Fin 12) (a b : BitVec 5) (imm : BitVec 16) (s : State) : Host.Outcome State Fault Refusal := s.storeInst [wordI 0x28 a b imm] n (.g a) b imm (s.g n a).toNat 8 1

/-- SW (R287). -/
def execSw (n : Fin 12) (a b : BitVec 5) (imm : BitVec 16) (s : State) : Host.Outcome State Fault Refusal := s.storeInst [wordI 0x29 a b imm] n (.g a) b imm (s.g n a).toNat 4 1

/-- SH (R287). -/
def execSh (n : Fin 12) (a b : BitVec 5) (imm : BitVec 16) (s : State) : Host.Outcome State Fault Refusal := s.storeInst [wordI 0x2A a b imm] n (.g a) b imm (s.g n a).toNat 2 1

/-- SB (R287). -/
def execSb (n : Fin 12) (a b : BitVec 5) (imm : BitVec 16) (s : State) : Host.Outcome State Fault Refusal := s.storeInst [wordI 0x2B a b imm] n (.g a) b imm (s.g n a).toNat 1 1

/-- TST (R287). -/
def execTst (n : Fin 12) (va : BitVec 3) (b : BitVec 5) (imm : BitVec 16) (s : State) : Host.Outcome State Fault Refusal :=
  s.storeInst [wordI 0x2C (0#2 ++ va) b imm] n (.v va) b imm (s.v n va).toNat 12 2

/-- SWAP (R289). -/
def execSwap (n : Fin 12) (a b c : BitVec 5) (s : State) : Host.Outcome State Fault Refusal := s.amo [wordR 0x2D a b c 0] n .swap a b c

/-- AADD (R289). -/
def execAadd (n : Fin 12) (a b c : BitVec 5) (s : State) : Host.Outcome State Fault Refusal := s.amo [wordR 0x2D a b c 1] n .add a b c

/-- AAND (R289). -/
def execAand (n : Fin 12) (a b c : BitVec 5) (s : State) : Host.Outcome State Fault Refusal := s.amo [wordR 0x2D a b c 2] n .and a b c

/-- AOR (R289). -/
def execAor (n : Fin 12) (a b c : BitVec 5) (s : State) : Host.Outcome State Fault Refusal := s.amo [wordR 0x2D a b c 3] n .or a b c

/-- CAS (R289). -/
def execCas (n : Fin 12) (a b c : BitVec 5) (s : State) : Host.Outcome State Fault Refusal := s.amo [wordR 0x2D a b c 4] n .cas a b c

/-- MATRIX_GRANT (R387). -/
def execMatrixGrant (t : Fin 12) (s : State) : Host.Outcome State Fault Refusal := done (s.grant t)

/-- MATRIX_RESPONSE (R389). -/
def execMatrixResponse (m : Fin 16) (t : Fin 12) (s : State) : Host.Outcome State Fault Refusal := done (s.respond m t)

/-- MTX_TIMEOUT (R391). -/
def execMtxTimeout (t : Fin 12) (s : State) : Host.Outcome State Fault Refusal := done (s.targetTimeout t)

/-- STORE_BUSERR (R268). -/
def execStoreBuserr (n : Fin 12) (s : State) : Host.Outcome State Fault Refusal := done (s.storeError n)

end Sys2Proof.Machine
end

