-- ==== Sys2Proof/Machine/EngTkt.lean ====
section
/-! DEFINITION. Tickets, launch, waits, doorbells and mailbox instructions of the engines, and what a drained write buffer or a free
entry releases (R253, R254, R262 to R266, R280, R292 to R300). -/

namespace Sys2Proof.Machine

/-! ### Job descriptors (R265, R295 to R297) -/

/-- Whether every byte of a list is 0. -/
def zeros (bs : List Byte) : Bool := bs.all (· == 0)

/-- Bytes of the descriptor of a target: 0 AEAD, 1 LOOKUP, 2 CRC, 3 HASH. -/
def tktLen (target : Nat) : Nat := if target = 0 then 64 else if target = 2 then 16 else 32

/-- Whether a target is open to an engine (R265). -/
def targetOpen (n : Fin 12) (target : Nat) : Bool :=
  match target with
  | 0 => decide (2 ≤ n.val)
  | 1 => decide (4 ≤ n.val) || n == 2
  | _ => true

/-- Whether KEYSEL is one that an OP of AEAD takes (R232, R296). -/
def keyselOk (op k : Nat) : Bool := if op ≤ 1 then k == 0 || k == 3 else if op ≤ 3 then decide (1 ≤ k ∧ k ≤ 3) else k == 0

/-- Whether every field of an AEAD descriptor lies in its range (R296). -/
def aeadRange (d : List Byte) : Bool :=
  let op := leAt d 0 1
  let mac := op == 2 || op == 3
  decide (op ≤ 5) && keyselOk op (leAt d 1 1) && decide (leAt d 2 2 < 16) && decide (leAt d 4 1 ≤ 63)
    && (!mac || leAt d 6 1 == 16 || leAt d 6 1 == 32) && (op != 4 || decide (1 ≤ leAt d 7 1 ∧ leAt d 7 1 ≤ 8))
    && decide (leAt d 0x1C 2 ≤ 2048) && decide (leAt d 0x1E 2 ≤ 2048) && decide (leAt d 0x20 2 ≤ 2048)
    && decide (leAt d 0x22 2 ≤ if mac then 2048 else 1024) && zeros (slice d 0x30 16)

/-- Whether every field of a descriptor lies in its range (R295 to R297). -/
def descRange (n : Fin 12) (target : Nat) (d : List Byte) : Bool :=
  match target with
  | 0 => aeadRange d
  | 1 => (ticketOp (leAt d 0 1)).isSome && (leAt d 0 1 != 2 || decide (leAt d 1 1 ≤ 63)) && zeros (slice d 2 2) && zeros (slice d 0x18 8)
  | 2 => decide (leAt d 0 1 ≤ 1) && decide (1 ≤ leAt d 8 4 ∧ leAt d 8 4 ≤ 65536)
  | _ =>
    let out := leAt d 12 4
    decide (leAt d 0 1 ≤ 2) && decide (leAt d 8 4 ≤ 65536) && out % 8 == 0
      && (match engView n out (if leAt d 0 1 = 0 then 32 else if leAt d 0 1 = 1 then 8 else 16) with | .dmem _ => true | _ => false)
      && zeros (slice d 0x14 12)

/-- Bytes of the inline key of an AEAD job, where it has one (R232, R296). -/
def inlineKey (d : List Byte) : Nat :=
  if leAt d 1 1 = 3 then (if leAt d 0 1 ≤ 1 then 32 else if leAt d 0 1 = 2 then 64 else 16) else 0

/-- The first ticket number after the last one that is not outstanding (R295). -/
def Engine.freeTicket (e : Engine) : Option (Fin 16) :=
  ((List.range 16).map fun i => (e.lastTicket + 1 + Fin.ofNat 16 i)).find? fun m => !e.tickets.any fun t => t.num == m

/-- Whether an AEAD job names a context (R233, R296). -/
def namesCtx (d : List Byte) : Bool := leAt d 0 1 == 4 || leAt d 0 1 == 5 || leAt d 1 1 == 0

/-- The AEAD unit with the shortest queue. -/
def State.shortest (s : State) : Nat := (List.range 8).foldl (fun b u => if s.unitDepth u < s.unitDepth b then u else b) 0

/-- A new ticket's job goes to its unit, or waits (R233, R265). -/
def State.routeJob (s : State) (n : Fin 12) (t : Ticket) : State :=
  if t.job.target = 0 then
    let u := s.homeUnit n
    if s.unitDepth u < 32 then s.deliver n t u
    else if namesCtx t.job.desc || decide (s.unitDepth s.shortest ≥ 32) then s
    else ((s.bump R.SRV_AU_SPILL s.shortest).srvEvt 3).deliver n t s.shortest
  else s.deliver n t (7 + t.job.target)

/-- A job is taken: its ticket, the number in g[a], and delivery. -/
def State.kickJob (s : State) (n : Fin 12) (a : BitVec 5) (job : Job) (num : Fin 16) : State :=
  let e := s.engine n
  let t : Ticket := { num := num, job := job, delivered := false, result := none, complete := false }
  let s := (s.setEng n { e with tickets := e.tickets ++ [t], lastTicket := num }).syncTickets n
  let s := (s.routeJob n t).setG n a (BitVec.ofNat 64 num.val)
  (if 2 ≤ n.val then s.obs 1 (n.val * 16 + 6) else s).next n 6

/-- KICK with the write buffer empty (R295). -/
def State.kickNow (s : State) (n : Fin 12) (a b : BitVec 5) (target : Nat) : State :=
  if !targetOpen n target then s.trap n cTICKET
  else s.withDmem n b 8 (tktLen target) fun d s =>
    let k := if target = 0 then inlineKey d else 0
    let key := if k = 0 then some (0, []) else match engView n (leAt d 8 4) k with
      | .dmem c => some (c, s.bytes c k)
      | _ => none
    match descRange n target d, key with
    | true, some (c, key) =>
      if k ≠ 0 && s.badAt c k then s.trap n cECCD
      else match (s.engine n).freeTicket with
        | some num => (s.kickJob n a { target := target, desc := d, key := key } num).dmemSoft n (s.softs c k)
        | none => s.hold n (.kickFull a b target)
    | _, _ => s.trap n cTICKET

/-! ### Collecting (R298) -/

/-- The result word of a ticket. -/
def Ticket.word (t : Ticket) : DWord :=
  let r := t.result.getD (0, 0)
  BitVec.ofNat 64 (r.1 + t.job.target * 2 ^ 8 + r.2 % 2 ^ 32 * 2 ^ 32)

/-- A complete ticket is collected: its result in g[a], and its entry free. -/
def State.collect (s : State) (n : Fin 12) (a : BitVec 5) (t : Ticket) : State :=
  let e := s.engine n
  ((s.setEng n { e with tickets := e.tickets.filter fun x => x.num != t.num }).syncTickets n).setG n a t.word

/-- COLL and CPOLL: the ticket g[b]. -/
def State.collOp (s : State) (n : Fin 12) (a b : BitVec 5) (poll : Bool) : State :=
  match (s.engine n).tickets.find? fun t => t.num.val == (s.g n b).toNat with
  | none => s.trap n cTICKET
  | some t =>
    if t.complete then (s.collect n a t).next n 4
    else if poll then (s.setG n a 0xFF).next n 4
    else s.waitFor n (.ticket a t.num)

/-! ### Waits (R262, R263, R292) -/

/-- The events that end a wait now. -/
def State.wakeSet (s : State) (n : Fin 12) (at_ : Option Time) (mask : BitVec 7) : BitVec 7 :=
  let t := match at_ with
    | some t => decide (t.toNat ≤ (s.engineRt n).toNat)
    | none => false
  ((s.engine n).events &&& mask &&& 0x7E) ||| (if t then 1 else 0)

/-- Events that are still true are held again (R292). -/
def State.rehold (s : State) (n : Fin 12) : State :=
  let s := if 4 ≤ n.val && decide (s.ringHeld R.SRV_RXQ_WR R.SRV_RXQ_RD (n.val - 4) > 0) then s.event n 2 else s
  let s := if 2 ≤ n.val && decide (s.ringHeld R.LCH_RING_WR R.LCH_RING_RD (n.val - 2) > 0) then s.event n 3 else s
  if s.get R.ENG_DBELL_PEND n = 0 then s else s.event n 4

/-- A wait completes: what ended it in g[a] and WAKE, the named events no longer held, and the next word. -/
def State.waitDone (s : State) (n : Fin 12) (a : BitVec 5) (mask wake : BitVec 7) : State :=
  let e := s.engine n
  let s := (s.setEng n { e with events := e.events &&& ~~~(mask ||| 1) }).set R.ENG_STAT_WAKE n wake.toNat
  ((s.setG n a (wake.zeroExtend 64)).rehold n).next n 2

/-- WAITT with the write buffer empty. -/
def State.waittNow (s : State) (n : Fin 12) (a : BitVec 5) (vb : BitVec 3) (mask : BitVec 7) : State :=
  let t := s.v n vb
  let late := decide (t.toNat < (s.engineRt n).toNat)
  let s := s.setFlags n { s.flags n with tlate := late }
  let s := if late && decide (2 ≤ n.val) then s.obs 1 (n.val * 16 + 4) else s
  let w := s.wakeSet n (some t) mask
  if w = 0 then s.waitFor n (.instant a t mask) else s.waitDone n a mask w

/-- SLEEP with the write buffer empty. -/
def State.sleepNow (s : State) (n : Fin 12) (a : BitVec 5) (mask : BitVec 7) : State :=
  let w := s.wakeSet n none mask
  if w = 0 then s.waitFor n (.event a mask) else s.waitDone n a mask w

/-- A waiting engine runs again. -/
def State.awake (s : State) (n : Fin 12) (f : State → State) : State :=
  (f ((s.waitEnd n).set R.ENG_STAT_STATE n stRunning)).boundaryTraps n

/-- A waiting engine wakes where its instant is reached, a masked event is held or its ticket is complete (R262, R263, R298). -/
def State.engWake (s : State) (n : Fin 12) : State :=
  match (s.engine n).waiting with
  | none => s
  | some (.instant a t mask) =>
    let w := s.wakeSet n (some t) mask
    if w = 0 then s else s.awake n fun s => s.waitDone n a mask w
  | some (.event a mask) =>
    let w := s.wakeSet n none mask
    if w = 0 then s else s.awake n fun s => s.waitDone n a mask w
  | some (.ticket a num) =>
    match (s.engine n).tickets.find? fun t => t.num == num && t.complete with
    | none => s
    | some t => s.awake n fun s => ((s.collect n a t).set R.ENG_STAT_WAKE n 2).next n 4

/-! ### LAUNCH and TSPOP (R293, R294) -/

/-- The descriptor is copied to LCH, and its code is the result. -/
def State.launchWith (s : State) (n : Fin 12) (a : BitVec 5) (d : List Byte) : State :=
  let (code, s) := s.launchDesc d (n.val - 2)
  let s := s.setG n a (BitVec.ofNat 64 code)
  (s.obs 1 (n.val * 16 + (if code = 0 then 7 else 8))).next n 10

/-- LAUNCH with the write buffer empty. The descriptor lies in DMEM or shared SRAM. -/
def State.launchNow (s : State) (n : Fin 12) (a b : BitVec 5) : State :=
  let p := s.effAddr n b 0
  if p % 8 ≠ 0 then s.trap n cALIGN (some p)
  else match engView n p 48 with
    | .dmem c => if s.badAt c 48 then s.trap n cECCD else (s.launchWith n a (s.bytes c 48)).dmemSoft n (s.softs c 48)
    | .sram =>
      if p + 48 > 0x10400000 then s.trap n cBUSERR (some p)
      else if s.sramOk p 48 then (s.launchWith n a (s.bytes p 48)).sramSoft p 48
      else (s.sramErr (engMaster n).val p 48 false).trap n cBUSERR (some p)
    | _ => s.trap n cBUSERR (some p)

/-- TSPOP: the report at RD of the engine's ring. -/
def State.tspopOp (s : State) (n : Fin 12) (a b : BitVec 5) : State :=
  let r := n.val - 2
  let p := s.effAddr n b 0
  if p % 8 ≠ 0 then s.trap n cALIGN (some p)
  else match engView n p 32 with
    | .dmem c =>
      if !s.flag R.LCH_RING_CFG_ENABLE r then (s.setG n a 2).next n 4
      else if s.ringHeld R.LCH_RING_WR R.LCH_RING_RD r = 0 then (s.setG n a 0).next n 4
      else
        let src := s.get R.LCH_RING_BASE r + s.get R.LCH_RING_RD r % s.lringSize r * 32
        if s.sramOk src 32 then
          ((((s.setBytes c (s.bytes src 32)).bumpW R.LCH_RING_RD r).lringSync r |>.setG n a 1).next n 4).sramSoft src 32
        else (s.sramErr (engMaster n).val src 32 false).trap n cBUSERR (some src)
    | _ => s.trap n cBUSERR (some p)

/-! ### Doorbells and the mailbox (R299) -/

/-- An address of a register as the engines see it. -/
def regAddr (off : Nat) : Nat := 0x40000000 + off

/-- DBELL. -/
def State.dbellOp (s : State) (n : Fin 12) (b c : BitVec 5) : State :=
  let k := (s.g n b).toNat
  let w : Word := (s.g n c).truncate 32
  if h : 2 ≤ k ∧ k ≤ 11 then
    if n.val < 2 then (s.dbellSet ⟨k, by omega⟩ w).next n 4
    else s.matrixStore n (regAddr (R.ENG_DBELL.at k)) (leBytes 4 w.toNat) 4
  else s.trap n cBUSERR

/-- MBXGO and MBXREL: a write of a mailbox register. -/
def State.mbxStore (s : State) (n : Fin 12) (f : Fld) (b : BitVec 5) : State :=
  if n.val < 2 then s.trap n cILLEGAL else s.matrixStore n (regAddr (f.at 0)) (leBytes 4 ((s.g n b).toNat % 2 ^ 32)) 2

/-! ### Instructions that wait for the write buffer (R254) -/

/-- What a drained write buffer lets an instruction do. -/
def Held.drained (h : Held) (n : Fin 12) : Option (State → State) :=
  match h with
  | .launch a b => some fun s => s.launchNow n a b
  | .kick a b t => some fun s => s.kickNow n a b t
  | .waitt a vb m => some fun s => s.waittNow n a vb m
  | .sleep a m => some fun s => s.sleepNow n a m
  | _ => none

/-- An instruction takes effect at once with the write buffer empty, else it is held. -/
def State.afterDrain (s : State) (n : Fin 12) (h : Held) (f : State → State) : State :=
  if (s.engine n).wbuf.isEmpty then f s else s.hold n h

/-- The write buffer is empty: the instruction that waited takes effect. -/
def State.drained (s : State) (n : Fin 12) : State :=
  if (s.engine n).wbuf.isEmpty then
    match (s.engine n).held with
    | none => s
    | some h => match h.drained n with
      | some f => s.engResume n 2 f
      | none => s.fenceEnd n
  else s

/-- An entry of the write buffer or the ticket queue is free: the stalled instruction goes on (R253, R266). -/
def State.stallRelease (s : State) (n : Fin 12) : State :=
  match (s.engine n).held with
  | some (.kickFull a b t) => if (s.engine n).tickets.length < 16 then s.engResume n 3 fun s => s.kickNow n a b t else s
  | _ => s.storeRelease n

/-- FENCE (R300). -/
def State.fenceOp (s : State) (n : Fin 12) : State :=
  if (s.engine n).wbuf.isEmpty && (s.engine n).unacked == 0 then s.next n 1 else s.hold n .fence

/-! ### Meanings -/

/-- KICK (R295): an fn above 3 is reserved. -/
def execKick (n : Fin 12) (a b : BitVec 5) (target : BitVec 11) (s : State) : Host.Outcome State Fault Refusal :=
  s.issue [wordR 0x35 a b 0 target] n [.g b] fun s =>
    if target.toNat > 3 then s.trap n cILLEGAL
    else s.afterDrain n (.kick a b target.toNat) fun s => s.kickNow n a b target.toNat

/-- COLL (R298). -/
def execColl (n : Fin 12) (a b : BitVec 5) (s : State) : Host.Outcome State Fault Refusal := s.issue [wordR 0x36 a b 0 0] n [.g b] fun s => s.collOp n a b false

/-- CPOLL (R298). -/
def execCpoll (n : Fin 12) (a b : BitVec 5) (s : State) : Host.Outcome State Fault Refusal := s.issue [wordR 0x36 a b 0 1] n [.g b] fun s => s.collOp n a b true

/-- WAITT (R292). -/
def execWaitt (n : Fin 12) (a : BitVec 5) (vb : BitVec 3) (mask : BitVec 7) (s : State) : Host.Outcome State Fault Refusal :=
  s.issue [wordT 0x32 a 0 vb 0 (0#4 ++ mask)] n [.v vb] fun s => s.afterDrain n (.waitt a vb mask) fun s => s.waittNow n a vb mask

/-- SLEEP (R300): a mask of 0 is ILLEGAL. -/
def execSleep (n : Fin 12) (a : BitVec 5) (mask : BitVec 7) (s : State) : Host.Outcome State Fault Refusal :=
  s.issue [wordR 0x3E a 0 0 (mask ++ 4#4)] n [] fun s => if mask = 0 then s.trap n cILLEGAL else s.afterDrain n (.sleep a mask) fun s => s.sleepNow n a mask

/-- LAUNCH (R293): ILLEGAL on E0 and E1. -/
def execLaunch (n : Fin 12) (a b : BitVec 5) (s : State) : Host.Outcome State Fault Refusal :=
  s.issue [wordR 0x33 a b 0 0] n [.g b] fun s => if n.val < 2 then s.trap n cILLEGAL else s.afterDrain n (.launch a b) fun s => s.launchNow n a b

/-- TSPOP (R294): ILLEGAL on E0 and E1. -/
def execTspop (n : Fin 12) (a b : BitVec 5) (s : State) : Host.Outcome State Fault Refusal :=
  s.issue [wordR 0x34 a b 0 0] n [.g b] fun s => if n.val < 2 then s.trap n cILLEGAL else s.tspopOp n a b

/-- DBELL (R299). -/
def execDbell (n : Fin 12) (b c : BitVec 5) (s : State) : Host.Outcome State Fault Refusal := s.issue [wordR 0x37 0 b c 0] n [.g b, .g c] fun s => s.dbellOp n b c

/-- MBXCLAIM (R299): a load of KNL_MBX_CLAIM; ILLEGAL on E0 and E1. -/
def execMbxclaim (n : Fin 12) (a : BitVec 5) (s : State) : Host.Outcome State Fault Refusal :=
  s.issue [wordR 0x37 a 0 0 2] n [] fun s =>
    if n.val < 2 then s.trap n cILLEGAL else (s.hold n (.load (regAddr (R.KNL_MBX_CLAIM.at 0)) 4 (.gpr a 4 false))).tryRead n

/-- MBXGO (R299). -/
def execMbxgo (n : Fin 12) (b : BitVec 5) (s : State) : Host.Outcome State Fault Refusal := s.issue [wordR 0x37 0 b 0 3] n [.g b] fun s => s.mbxStore n R.KNL_MBX_GO b

/-- MBXREL (R299). -/
def execMbxrel (n : Fin 12) (b : BitVec 5) (s : State) : Host.Outcome State Fault Refusal := s.issue [wordR 0x37 0 b 0 4] n [.g b] fun s => s.mbxStore n R.KNL_MBX_REL b

/-- FENCE (R300). -/
def execFence (n : Fin 12) (s : State) : Host.Outcome State Fault Refusal := s.issue [wordR 0x3E 0 0 0 3] n [] fun s => s.fenceOp n

/-- ENGINE_WAKE (R263). -/
def execEngineWake (n : Fin 12) (s : State) : Host.Outcome State Fault Refusal := done (s.engWake n)

/-- WRITE_BUFFER_DRAIN (R254). -/
def execWriteBufferDrain (n : Fin 12) (s : State) : Host.Outcome State Fault Refusal := done (s.drained n)

/-- ENGINE_STALL_RELEASE (R253). -/
def execEngineStallRelease (n : Fin 12) (s : State) : Host.Outcome State Fault Refusal := done (s.stallRelease n)

/-- ILLEGAL_ENCODING (R268, R280): an instruction word of a reserved encoding traps; a word of an instruction is not this event. -/
def execIllegalEncoding (n : Fin 12) (word : Word) (s : State) : Host.Outcome State Fault Refusal :=
  s.issue (if encLegal word then [] else [word]) n [] fun s => s.trap n cILLEGAL

end Sys2Proof.Machine
end

