-- ==== Sys2Proof/Machine/Rx.lean ====
section
/-! DEFINITION. Frame reception: timestamp, filter, duplicates, class and delivery (R165 to R168, R179, R180, R185, R209 to R211, R370), and
PRP supervision (R184). -/

namespace Sys2Proof.Machine

/-! ### Drops (R180) -/

/-- The counters of R180 in its order: 0 FCS, 1 RUNT, 2 OVERSIZE, 3 CODE, 4 MALFORMED, 5 NOQUEUE, 6 FILTER, 7 RECAL. -/
def rxDropFld (k : Nat) : Fld := ⟨R.PRT_RX_DROP_FCS.addr + 4 * k, R.PRT_RX_DROP_FCS.stride, 0, 32⟩

/-- A frame is dropped under R180. -/
def State.rxDrop (s : State) (p : Fin 64) (k : Nat) : State := (s.bump (rxDropFld k) p).obs 2 (p.val * 16 + 2)

/-- Why a frame is dropped before it is parsed, if it is (R180): looked for in the order FCS, RUNT, OVERSIZE, CODE. -/
def State.rxBad (s : State) (p : Fin 64) (b : List Byte) (fcsOk codeErr : Bool) : Option Nat :=
  if !fcsOk then some 0
  else if b.length + 4 < 64 then some 1
  else if b.length + 4 > s.get R.PRT_CFG_MAX_FRAME p then some 2
  else if codeErr then some 3
  else none

/-- Whether a port accepts a destination: its own MAC address, broadcast or multicast; with the address at 0 no unicast (R179). -/
def State.accepts (s : State) (p : Fin 64) (b : List Byte) : Bool :=
  (beAt b 0 1).testBit 0 || (b.take 6 == s.portMac p && s.get R.PRT_MAC0 p + s.get R.PRT_MAC1 p != 0)

/-! ### Duplicates (R185) -/

/-- The key of a frame in the duplicate window, and its slot. -/
def prpKeyOf (b : List Byte) (seq lc : Nat) : Nat × PrpKey :=
  let src := beAt b 6 6
  (Config.prpHash src seq % 65536, { src := src, seq := seq, lc := lc })

/-- Whether a key is present in the window of a pair; a key that is not enters it, in place of an older one in its slot. -/
def State.prpLook (s : State) (j : Fin 32) (b : List Byte) (seq : Nat) : Bool × State :=
  let (h, k) := prpKeyOf b seq s.time.lc.toNat
  let w := s.prt.prp[j]
  let hit := match sget w h with
    | some x => x.src == k.src && x.seq == k.seq
    | none => false
  (hit, if hit then s else { s with prt := { s.prt with prp := s.prt.prp.set j (sput false h k w) } })

/-- A trailer on a port of a working pair: the wrong LAN is counted; then whether the frame is a duplicate (R185). -/
def State.prpCheck (s : State) (p : Fin 64) (b : List Byte) (seq lan : Nat) : Bool × State :=
  let s := if (lan == 11) == (p.val % 2 == 1) then s else s.bump R.PRT_PRP_WRONG p
  match s.workPair p with
  | none => (false, s)
  | some j => s.prpLook j b seq

/-! ### Metadata (R168) -/

/-- The 16 bytes of receive metadata. -/
def State.rxMeta (s : State) (p : Fin 64) (cls : Nat) (phase : BitVec 16) (bitIdx : Byte) : List Byte :=
  let i := attOf p
  let ready := s.tsReady i
  let (t, ver, sn) := s.stamp i false phase bitIdx
  let flags := p.val + s.get R.PRT_STAT_MODE_ACT p * 2 ^ 6 + b2n (s.linkDegraded i) * 2 ^ 9 + b2n (ready && sn) * 2 ^ 10 + b2n (!ready) * 2 ^ 11
    + b2n (p.val % 2 == 1 && (s.workPair p).isSome) * 2 ^ 12 + cls * 2 ^ 13
  leBytes 12 (if ready then t.toNat else 0) ++ leBytes 2 (if ready then ver else 0) ++ leBytes 2 flags

/-! ### Delivery -/

/-- A frame of CLASS 0 goes to the host-forward ring, or is dropped (R179, R370). -/
def State.hostForward (s : State) (p : Fin 64) (b md : List Byte) : State :=
  if !s.flag R.PRT_CFG_HOST_FWD p then s.rxDrop p 6
  else
    let size := 2 ^ s.get R.HST_FWD_CFG_SIZE_LOG2
    if b.length > 2016 || !s.flag R.HST_FWD_CFG_ENABLE || s.ringHeld R.HST_FWD_WR R.HST_FWD_RD ≥ size then
      ((s.rxDrop p 5).bump R.HST_FWD_DROP).raiseBit R.HST_EVT 0 7
    else
      let before := s
      let wr := s.get R.HST_FWD_WR
      let s := s.devWrite 12 (s.get R.HST_FWD_BASE + wr % size * 2048) (md ++ leBytes 2 b.length ++ List.replicate 14 0#8 ++ b)
      ((s.bumpW R.HST_FWD_WR).delivered p md).irqEdge before 17

/-- A frame of CLASS 4 goes to PCK with its timestamp (R325). -/
def State.toPack (s : State) (p : Fin 64) (b md : List Byte) : State :=
  let fl := leAt md 14 2
  let s := s.delivered p md
  if s.gated 10 then s
  else match s.packCheck (attOf p) b (if fl.testBit 11 then none else some (leAt md 0 12)) (leAt md 12 2) (fl.testBit 9) with
  | (some r, s) => { s with pck := { s.pck with rx := s.pck.rx ++ [r] } }
  | (none, s) => s

/-- The client key of a frame (R210). -/
def Frame.key (f : Frame) (b : List Byte) : List Byte :=
  if f.cls = 3 then clientKey (if f.nts b then 2 else 1) 0 false f.v6 f.src
  else clientKey 0 (beAt b (f.hdr + 4) 1) f.l2 f.v6 f.src

/-- The parser's LOOKUP (R210, R214): LOOK and INDEX; a hit writes PORT. -/
def State.parserLook (s : State) (p : Fin 64) (key : List Byte) : Nat × Nat × State :=
  let (st, i, s) := s.assist .lookup key 0 false
  if st = 0 then (0, i, s.setByte (recAddr i + 7) (BitVec.ofNat 8 (s.recPort p)))
  else (if (s.freeWay (s.clientHash key)).isSome then 1 else 2, i, s)

/-- A frame of CLASS 1 to 3 goes to SRV: into a buffer of the pool, through the lookup, and to its queue; an NTS request, and what comes
behind it with its steering index, waits for the check of R226 (R209 to R211). -/
def State.toSrv (s : State) (p : Fin 64) (b md : List Byte) (f : Frame) : State :=
  match (if s.flag R.SRV_CTRL_ENABLE then pickOne s.srv.free s.draw else none) with
  | none =>
    let s := if s.flag R.SRV_CTRL_ENABLE then s.bump R.SRV_POOL_EMPTY else s
    (s.rxDrop p 5).srvEvt 0
  | some buf =>
    let s := (s.drawn.poolPut (s.srv.free.erase buf)).devWrite 12 buf b
    let key := f.key b
    let steer := hashSteer (s.clientHash key)
    let (look, index, s) := s.parserLook p key
    let nts := f.nts b
    let w : RxWait := { port := p, meta_ := md, buf := buf, len := b.length, hdr := f.hdr, look := look, index := index, steer := steer
                        eng := s.steerTo steer, nts := nts }
    if nts || s.srv.wait.any (fun x => x.steer == steer) then s.setSrv { s.srv with wait := s.srv.wait ++ [w] }
    else s.enqueue w 0

/-- The CLASS of a frame for delivery: one of 1 to 3 that is longer than a buffer is CLASS 0 (R209). -/
def rxClass (f : Frame) (n : Nat) : Nat := if 1 ≤ f.cls && f.cls ≤ 3 && n > 1536 then 0 else f.cls

/-- The Pack EtherType where the port carries Pack traffic (R179). -/
def State.packType (s : State) (p : Fin 64) : Option Nat := if s.carries (attOf p) then some (s.get R.PCK_ETYPE) else none

/-- A parsed frame is delivered (R179, R185). -/
def State.rxDeliver (s : State) (p : Fin 64) (b : List Byte) (f : Frame) (rct : Option (Nat × Nat)) (phase : BitVec 16) (bitIdx : Byte) : State :=
  let cls := rxClass f b.length
  let (dup, s) := match rct with
    | some (seq, lan) => if (s.workPair p).isSome then s.prpCheck p b seq lan else (false, s)
    | none => (false, s)
  let both := (cls == 1 || cls == 2) && s.flag R.PRT_CFG_PRP_PTP_BOTH (p.val / 2 * 2)
  if dup && !both then (s.bump R.PRT_PRP_DUP p).obs 2 (p.val * 16 + 4)
  else
    let md := s.rxMeta p cls phase bitIdx
    if cls = 0 then s.hostForward p b md
    else if cls = 4 then s.toPack p (b.drop f.hdr) md
    else s.toSrv p b md f

/-- A frame arrives at a port: its SFD `phase` after this tick at bit `bitIdx` of its word (R165, R179). -/
def State.frameReceive (s : State) (p : Fin 64) (b : List Byte) (fcsOk codeErr : Bool) (phase : BitVec 16) (bitIdx : Byte) : State :=
  let st := s.get R.PRT_STAT_LINK_STATE p
  if st = lkRECAL then s.rxDrop p 7
  else if st ≠ lkUP ∧ st ≠ lkSETTLE then s
  else match s.rxBad p b fcsOk codeErr with
    | some k => s.rxDrop p k
    | none =>
      let rct := if (s.workPair p).isSome || s.bracePort p then rctOf b else none
      let b := if rct.isSome then b.take (b.length - 6) else b
      match parseFrame b (s.packType p) with
      | .malformed => s.rxDrop p 4
      | .pause q => if s.accepts p b then s.pauseFrame p q else s.rxDrop p 6
      | .control => s.rxDrop p 6
      | .frame f => if s.accepts p b then s.rxDeliver p b f rct phase bitIdx else s.rxDrop p 6

/-! ### The pair itself (R184, R185) -/

/-- A key has been in the window for FORGET ms (R185). -/
def State.prpExpire (s : State) (j : Fin 32) (src seq : Nat) : State :=
  let h := Config.prpHash src seq % 65536
  let w := s.prt.prp[j]
  match sget w h with
  | none => s
  | some k =>
    if k.src = src && k.seq = seq && (s.time.lc.toNat - k.lc) * 1000 ≥ s.get R.PRT_PRP_CFG_FORGET (2 * j.val) * 2 ^ 48 then
      { s with prt := { s.prt with prp := s.prt.prp.set j (w.filter fun x => x.1 != h) } }
    else s

/-- A supervision frame of a pair, from the even port's MAC address. Its layout is that of IEC 62439-3 (PRESUMED, log entry 30). -/
def State.supFrame (s : State) (j : Fin 32) : List Byte :=
  let mac := s.portMac (evenPort j)
  pad60 ([0x01, 0x15, 0x4E, 0x00, 0x01, 0x00] ++ mac ++ beBytes 2 0x88FB ++ beBytes 2 1 ++ beBytes 2 (s.link (attOf (evenPort j))).supSeq
    ++ [20, 6] ++ mac ++ [0, 0])

/-- A working pair with SUP_EN sends a supervision frame on both ports (R184). -/
def State.prpSup (s : State) (j : Fin 32) : State :=
  let e := attOf (evenPort j)
  if !s.prpOn j || !s.flag R.PRT_PRP_CFG_SUP_EN (2 * j.val) || !(s.link e).supAt.all (s.past · 2) then s
  else
    let b := s.supFrame j
    let (n, s) := s.takeRct (evenPort j)
    let s := s.setLink e { s.link e with supSeq := ((s.link e).supSeq + 1) % 65536, supAt := some s.time.lc.toNat }
    let s := s.setLport (evenPort j) { s.lport (evenPort j) with sup := some (b, n) }
    s.setLport (oddPort j) { s.lport (oddPort j) with sup := some (b, n) }

/-! ### Meanings -/

/-- FRAME_RECEIVE (R179). -/
def execFrameReceive (p : Fin 64) (bytes : List Byte) (fcsOk codeErr : Bool) (phase : BitVec 16) (bitIdx : Byte) (s : State) :
    Host.Outcome State Fault Refusal :=
  done (s.run (p.val / 8) (·.frameReceive p bytes fcsOk codeErr phase bitIdx))

/-- PRP_ENTRY_EXPIRE (R185). -/
def execPrpEntryExpire (j : Fin 32) (src : BitVec 48) (seq : BitVec 16) (s : State) : Host.Outcome State Fault Refusal :=
  done (s.run (j.val / 4) (·.prpExpire j src.toNat seq.toNat))

/-- PRP_SUPERVISION (R184). -/
def execPrpSupervision (j : Fin 32) (s : State) : Host.Outcome State Fault Refusal := done (s.run (j.val / 4) (·.prpSup j))

end Sys2Proof.Machine
end

