-- ==== Sys2Proof/Machine/Serve.lean ====
section
/-! DEFINITION. What the serving engines' reference images send (R22, R206 to R225): frames built over a given header, the PTP messages,
authentication, and launch. Each row of the serving firmware is one step of the engine that it names (log entry 40). -/

namespace Sys2Proof.Machine

/-! ### Serving engines -/

/-- Engine Sk as an engine number (R211). -/
def servEng (k : Fin 8) : Fin 12 := ⟨k.val + 4, by omega⟩

/-- Whether Sk runs: RUNNING or WAITING. -/
def State.serves (s : State) (k : Fin 8) : Bool := s.engState (servEng k) == stRunning || s.engState (servEng k) == stWaiting

/-- PROFILE of a port, and what it allows (R206). -/
def State.profile (s : State) (p : Fin 64) : Nat := s.get R.SRV_PORT_SVC0_PROFILE p
def profNegotiates (f : Nat) : Bool := f == 1 || f == 3 || f == 5 || f == 6
def profP2p (f : Nat) : Bool := f == 2 || f == 7
def profG8275 (f : Nat) : Bool := f == 4 || f == 5

/-- Whether a profile runs over the transport of a frame (R206). -/
def profCarries (f : Nat) (x : Frame) : Bool :=
  if f = 4 ∨ f = 7 then x.l2 else if f = 5 then !x.l2 else if f = 6 then !x.l2 && !x.v6 else decide (1 ≤ f)

/-- AUTH_REQ of a port. -/
def State.authReq (s : State) (p : Fin 64) : Bool := s.flag R.SRV_PORT_SVC0_AUTH_REQ p

/-! ### Frames -/

/-- The ones' complement checksum of bytes. -/
def checksum (b : List Byte) : Nat := 65535 - onesSum b

/-- Offset of the IP header of a frame. -/
def ipOff (b : List Byte) : Nat := lsduOff b

/-- The lengths and checksums of a UDP frame follow its payload (R219, R224): IP length and header checksum, UDP length and checksum. -/
def fixUdp (f : Frame) (b : List Byte) : List Byte :=
  if f.l2 then b
  else
    let o := ipOff b
    let n := b.length - f.udp
    let b := putAt b (f.udp + 4) (beBytes 2 n ++ [0#8, 0#8])
    let addrs := if f.v6 then slice b (o + 8) 32 else slice b (o + 12) 8
    let sum := checksum (addrs ++ beBytes 4 n ++ beBytes 4 17 ++ b.drop f.udp)
    let b := putAt b (f.udp + 6) (beBytes 2 (if sum = 0 then 65535 else sum))
    if f.v6 then putAt b (o + 4) (beBytes 2 (b.length - o - 40))
    else
      let b := putAt (putAt b (o + 2) (beBytes 2 (b.length - o))) (o + 10) [0#8, 0#8]
      putAt b (o + 10) (beBytes 2 (checksum (slice b o (f.udp - o))))

/-- The header of a frame that answers another: MAC and IP addresses swapped, with the port's own MAC address. A request that was sent to
a group is answered to the group; the device's IP address then is a free value, since the manual does not give it. -/
def State.replyHdr (s : State) (p : Fin 64) (f : Frame) (b : List Byte) : List Byte :=
  let group := (beAt b 0 1).testBit 0
  let h := b.take f.hdr
  let h := putAt h 0 ((if group then slice b 0 6 else slice b 6 6) ++ s.portMac p)
  if f.l2 then h
  else
    let o := ipOff b
    let w := if f.v6 then 16 else 4
    let a := if f.v6 then o + 8 else o + 12
    let src := slice b a w
    let dst := slice b (a + w) w
    if group then putAt h a (leBytes w (Config.freeBits 128 s.draw).toNat ++ dst) else putAt h a (dst ++ src)

/-- The UDP ports of a header: from and to. -/
def withPorts (f : Frame) (src dst : Nat) (h : List Byte) : List Byte := if f.l2 then h else putAt h f.udp (beBytes 2 src ++ beBytes 2 dst)

/-- A frame of a header and a payload, lengths and checksums set, filled to 60 bytes. -/
def udpFrame (f : Frame) (hdr payload : List Byte) : List Byte := pad60 (fixUdp f (hdr ++ payload))

/-- What a launch asks for (R189): L, W in ns, KIND, the flags, where the fields stand, TAG and T_REF. -/
structure Launch where
  l : Nat := 0
  window : Nat := 0
  kind : Nat := 0
  fixed : Bool := false
  report : Bool := true
  cksum : Bool := false
  ins : Nat := 0
  cf : Nat := 0
  ck : Nat := 0
  tag : Nat
  tref : Nat := 0
deriving DecidableEq, Repr

/-- The descriptor of a launch (R189). -/
def Launch.desc (x : Launch) (p : Fin 64) (addr len : Nat) : List Byte :=
  leBytes 12 x.l ++ leBytes 4 x.window ++ leBytes 4 addr
    ++ leBytes 4 (len + p.val * 2 ^ 14 + x.kind * 2 ^ 20 + b2n x.fixed * 2 ^ 22 + b2n x.report * 2 ^ 23 + b2n x.cksum * 2 ^ 24)
    ++ leBytes 4 (x.ins + x.cf * 2 ^ 10 + x.ck * 2 ^ 20) ++ leBytes 8 x.tag ++ leBytes 12 x.tref

/-- BRC_FOLLOW_DELAY of a follower on a Brace port, in 2⁻⁴⁸ s (R342). -/
def State.followDelay (s : State) (p : Fin 64) : Nat :=
  if s.braceOn p && !s.flag R.BRC_STAT_LEAD then s.get R.BRC_FOLLOW_DELAY * 2 ^ 48 / 1000000000 else 0

/-- Sk writes a frame at an address and launches it (R189, R293): whether LCH accepted it. A follower delays what is not FIXED (R342). -/
def State.servLaunch (s : State) (k : Fin 8) (p : Fin 64) (x : Launch) (addr : Nat) (frame : List Byte) : Bool × State :=
  if !inSram addr frame.length then (false, s)
  else
    let d := if x.fixed then 0 else s.followDelay p
    let s := s.devWrite (k.val + 2) addr frame
    let x := if x.l = 0 then x else { x with l := x.l + d }
    let (code, s) := s.launchDesc (x.desc p addr frame.length) (k.val + 2) (if x.l = 0 then d else 0)
    (code == 0, s)

/-! ### PTP messages (R218 to R222) -/

/-- The bytes of portIdentity: SRV_CLOCK_ID and a port number, the number of the port plus 1 (PRESUMED, log entry 41). -/
def State.portId (s : State) (p : Fin 64) : List Byte := leBytes 8 (s.get R.SRV_CLOCK_ID) ++ beBytes 2 (p.val + 1)

/-- Message types. -/
def mSYNC := 0
def mDELAY_REQ := 1
def mPDELAY_REQ := 2
def mPDELAY_RESP := 3
def mFOLLOW_UP := 8
def mDELAY_RESP := 9
def mPDELAY_FUP := 10
def mANNOUNCE := 11
def mSIGNALING := 12
def mMANAGEMENT := 13

/-- controlField of a message type. -/
def ctlField (typ : Nat) : Nat := if typ = 0 then 0 else if typ = 1 then 1 else if typ = 8 then 2 else if typ = 9 then 3 else if typ = 13 then 4 else 5

/-- What a PTP message states, before its TLVs (IEEE 1588-2019 clause 13.3; PRESUMED, log entry 41). -/
structure PtpMsg where
  typ : Nat
  domain : Nat
  flags : Nat
  cf : Nat
  seq : Nat
  logInt : Int
  body : List Byte

/-- The TLV LEASH for a timestamp by its RT in 2⁻⁴⁸ s, with DEGRADED of the timestamp (R219, R247). -/
def State.leashOf (s : State) (p : Fin 64) (rt : Nat) (degraded before : Bool) (ver : Nat) : List Byte :=
  s.leashTlv (s.tsLeash p rt degraded before) ver degraded

/-- The Leash TLV of a message that carries a timestamp of now. -/
def State.leashNowTlv (s : State) (p : Fin 64) (before : Bool) : List Byte :=
  s.leashOf p s.rt.toNat (s.linkDegraded (attOf p)) before (s.get R.KNL_TIME_MODE_CSET_VER)

/-- The ICV of a message under a half of an association (R220): none where the half is not usable. -/
def State.icvOf (s : State) (spp : Nat) (b : Bool) (msg : List Byte) : Option (List Byte) :=
  match s.saKey spp b, s.get R.SRV_SA_CFG_ALG spp with
  | some key, 1 => some ((hmac256 key msg).take (if s.get R.SRV_SA_CFG_ICV_LEN spp = 32 then 32 else 16))
  | some key, 2 => some (cmac (padTo 16 key) msg)
  | _, _ => none

/-- Bytes that an ICV of an association takes. -/
def State.icvLen (s : State) (spp : Nat) : Nat :=
  if s.get R.SRV_SA_CFG_ALG spp = 1 && s.get R.SRV_SA_CFG_ICV_LEN spp = 32 then 32 else 16

/-- The bytes of a message with its TLVs (R219, R220): signed ones end with the AUTHENTICATION TLV; none where no key can sign. -/
def State.ptpBytes (s : State) (p : Fin 64) (m : PtpMsg) (tlvs : List Byte) (signed : Bool) : Option (List Byte) :=
  let spp := s.get R.SRV_PORT_SVC0_SPP p
  let txB := s.flag R.SRV_SA_CFG_TX_B spp
  let n := 34 + m.body.length + tlvs.length + (if signed then 10 + s.icvLen spp else 0)
  let msg := beBytes 1 m.typ ++ beBytes 1 0x12 ++ beBytes 2 n ++ beBytes 1 m.domain ++ [0#8] ++ beBytes 2 m.flags ++ beBytes 8 m.cf
    ++ List.replicate 4 0#8 ++ s.portId p ++ beBytes 2 m.seq ++ beBytes 1 (ctlField m.typ) ++ beBytes 1 (trunc 8 m.logInt) ++ m.body ++ tlvs
  if !signed then some msg
  else
    let keyId := s.get (if txB then R.SRV_SA_KEYID_B else R.SRV_SA_KEYID_A) spp
    let msg := msg ++ beBytes 2 0x8009 ++ beBytes 2 (6 + s.icvLen spp) ++ beBytes 1 spp ++ [0#8] ++ beBytes 4 keyId
    (s.icvOf spp txB msg).map (msg ++ ·)

/-- Flags of a message: twoStep, unicast. -/
def ptpFlags (twoStep unicast : Bool) : Nat := b2n twoStep * 2 ^ 9 + b2n unicast * 2 ^ 10

/-- The TLVs of a PTP message from an offset: type, offset of the value and its length. -/
def ptpTlvs (b : List Byte) (e : Nat) : Nat → Nat → List (Nat × Nat × Nat)
  | 0, _ => []
  | f + 1, o =>
    if o + 4 > e then []
    else
      let len := beAt b (o + 2) 2
      if o + 4 + len > e then [] else (beAt b o 2, o + 4, len) :: ptpTlvs b e f (o + 4 + len)

/-- Bytes before the TLVs of a message, by type. -/
def ptpFixed (typ : Nat) : Nat := if typ = 11 then 64 else if 2 ≤ typ ∧ typ ≤ 3 ∨ 9 ≤ typ ∧ typ ≤ 10 then 54 else 44

/-- Whether the AUTHENTICATION TLV at the end of a message verifies under the association of its port (R220, R221). -/
def State.icvOk (s : State) (p : Fin 64) (m : List Byte) (tlvs : List (Nat × Nat × Nat)) : Bool :=
  let spp := s.get R.SRV_PORT_SVC0_SPP p
  match tlvs.getLast? with
  | some (0x8009, o, len) =>
    let try_ := fun b => beAt m (o + 2) 4 == s.get (if b then R.SRV_SA_KEYID_B else R.SRV_SA_KEYID_A) spp
      && (match s.icvOf spp b (m.take (o + 6)) with | some icv => len == 6 + icv.length && slice m (o + 6) icv.length == icv | none => false)
    beAt m o 1 == spp && beAt m (o + 1) 1 == 0 && (try_ false || try_ true)
  | _ => false

/-! ### Requests at the head of a receive queue (R211) -/

/-- A received frame that an engine looks at: its descriptor and what the frame is. -/
structure Req where
  port : Fin 64
  /-- t2 or t4, its version, and DEGRADED, SN or NOTS -/
  rt : Nat
  ver : Nat
  degraded : Bool
  nots : Bool
  buf : Nat
  nts : Nat
  bytes : List Byte
  f : Frame
deriving DecidableEq, Repr

/-- The descriptor at the head of the queue of Sk. -/
def State.headReq (s : State) (k : Fin 8) : Option Req :=
  if s.ringHeld R.SRV_RXQ_WR R.SRV_RXQ_RD k = 0 then none
  else
    let d := s.bytes (s.get R.SRV_RXQ_BASE k + s.get R.SRV_RXQ_RD k % 2 ^ s.get R.SRV_RXQ_CFG_SIZE_LOG2 k * 32) 32
    let fl := leAt d 14 2
    let b := s.bytes (leAt d 0x10 4) (leAt d 0x14 2)
    some { port := ⟨fl % 64, Nat.mod_lt _ (by decide)⟩, rt := leAt d 0 12, ver := leAt d 12 2, degraded := fl.testBit 9, nots := fl.testBit 11
           buf := leAt d 0x10 4, nts := leAt d 0x1C 4, bytes := b
           f := match parseFrame b none with | .frame f => f | _ => Frame.other }

/-- The PTP message of a request, by messageLength. -/
def Req.msg (r : Req) : List Byte := (r.bytes.drop r.f.hdr).take (beAt r.bytes (r.f.hdr + 2) 2)
def Req.typ (r : Req) : Nat := beAt r.msg 0 1 % 16
def Req.tlvs (r : Req) : List (Nat × Nat × Nat) := ptpTlvs r.msg r.msg.length 64 (ptpFixed r.typ)
/-- Whether it came to this device alone. -/
def Req.unicast (r : Req) : Bool := !(beAt r.bytes 0 1).testBit 0

/-- What becomes of a request (R206 to R208, R216, R220, R224 to R226). -/
inductive Serve where
  /-- dropped and counted -/
  | drop (f : Fld)
  /-- dropped without a count -/
  | ignore
  /-- a message of the upstream session that runs on the port (R223) -/
  | session
  | signaling
  | delayReq
  | pdelayReq
  | ntp
  | nts
  | ntsn
deriving DecidableEq, Repr

/-- Whether a message type belongs to the delay mechanism that a profile does not use (R206). -/
def wrongDelay (prof typ : Nat) : Bool :=
  if profP2p prof then typ == mDELAY_REQ || typ == mDELAY_RESP else typ == mPDELAY_REQ || typ == mPDELAY_RESP || typ == mPDELAY_FUP

/-- The port that runs an upstream session, if any: the lowest-numbered that names it (R223). -/
def State.sessionPort (s : State) (us : Nat) : Option (Fin 64) :=
  (List.finRange 64).find? fun p => s.flag R.SRV_PORT_SVC1_US_EN p && s.get R.SRV_PORT_SVC1_US p == us

/-- Whether a port is the slave port of an upstream session (R223). -/
def State.isSlave (s : State) (p : Fin 64) : Bool := s.sessionPort (s.get R.SRV_PORT_SVC1_US p) == some p

/-- What becomes of a PTP message. -/
def State.servePtp (s : State) (r : Req) : Serve :=
  let p := r.port
  let prof := s.profile p
  let typ := r.typ
  let odd := beAt r.msg 0 1 / 16 != 0 || r.tlvs.any fun x => x.1 == 0x8009 && beAt r.msg (x.2.1 + 1) 1 != 0
  if prof = 0 || odd || typ == mMANAGEMENT || !profCarries prof r.f || wrongDelay prof typ then .drop R.SRV_CNT_UNSUPPORTED
  else if beAt r.msg 4 1 != s.get R.SRV_PORT_SVC0_DOMAIN p then .ignore
  else if typ == mSIGNALING && !profNegotiates prof then .drop R.SRV_CNT_UNSUPPORTED
  else if s.authReq p && !s.icvOk p r.msg r.tlvs then .drop R.SRV_CNT_PTP_AUTH_FAIL
  else if s.isSlave p && (typ == mANNOUNCE || typ == mSYNC || typ == mFOLLOW_UP || typ == mDELAY_RESP || typ == mSIGNALING) then .session
  else if s.isSlave p && typ == mDELAY_REQ then .ignore
  else if typ == mANNOUNCE then .drop R.SRV_CNT_ANN_FOREIGN
  else if typ == mSIGNALING then .signaling
  else if typ == mDELAY_REQ then .delayReq
  else if typ == mPDELAY_REQ then .pdelayReq
  else .ignore

/-- What becomes of an NTP message. -/
def State.serveNtp (s : State) (r : Req) : Serve :=
  let b0 := beAt r.bytes r.f.hdr 1
  let st := r.nts % 4
  if b0 % 8 != 3 || !(b0 / 8 % 8 == 3 || b0 / 8 % 8 == 4) || !s.flag R.SRV_PORT_SVC0_NTP_EN r.port then .drop R.SRV_CNT_UNSUPPORTED
  else if st = 0 then (if s.flag R.SRV_CTRL_PLAIN_NTP then .ntp else .drop R.SRV_CNT_UNSUPPORTED)
  else if st = 1 then .nts
  else if s.flag R.SRV_CTRL_NAK_EN then .ntsn else .ignore

/-- What becomes of a received message: one that an engine would answer, or an NTS request that it would drop, is not served in SN_BOOT (R208). -/
def State.serveOf (s : State) (r : Req) : Serve :=
  let x := if r.f.cls = 3 then s.serveNtp r else s.servePtp r
  let request := match x with
    | .drop _ | .session => false
    | .ignore => r.f.cls == 3
    | _ => true
  if s.mode = 0 && request then .drop R.SRV_CNT_NOT_READY else x

/-- The key context that a request brought, freed (R227). -/
def State.reqCtxFree (s : State) (k : Fin 8) (r : Req) : State := if r.nts % 4 = 1 then s.ctxFree k (r.nts / 4 % 64) else s

/-- Sk takes the request at the head of its queue if it is of the kind that a row serves; a request that nobody answers is dropped by
any row. -/
def State.serveHead (s : State) (k : Fin 8) (want : Serve → Req → Bool) (act : Req → State → State) : State :=
  if s.serves k then
    match s.headReq k with
    | none => s
    | some r =>
      let popped := s.bumpW R.SRV_RXQ_RD k
      match s.serveOf r with
      | .drop f => ((popped.bump f).poolRet r.buf).reqCtxFree k r
      | .ignore => (popped.poolRet r.buf).reqCtxFree k r
      | x => if want x r then act r popped else s
  else s

/-! ### Sending -/

/-- A PTP message over a header, launched at once from a buffer, which returns to the pool where the message is not sent. -/
def State.ptpReply (s : State) (k : Fin 8) (r : Req) (event : Bool) (m : PtpMsg) (tlvs : List Byte) (signed : Bool) (x : Launch) : Bool × State :=
  match s.ptpBytes r.port m tlvs signed with
  | none => (false, s.poolRet r.buf)
  | some msg =>
    let port := if event then 319 else 320
    let h := withPorts r.f port port (s.replyHdr r.port r.f r.bytes)
    let s := if r.unicast || r.f.l2 then s else s.drawn
    let (ok, s) := s.servLaunch k r.port x r.buf (udpFrame r.f h msg)
    (ok, if ok then s else s.poolRet r.buf)

/-- The record of the client that sent a PTP request. -/
def State.reqRec (s : State) (r : Req) : Option Nat := s.findRec (s.clientHash (r.f.key r.bytes)) (leAt (r.f.key r.bytes) 0 1)

/-- A field of a record. -/
def State.recFld (s : State) (i off n : Nat) : Nat := ofLe (s.bytes (recAddr i + off) n)
def State.setRecFld (s : State) (i off n v : Nat) : State := s.setBytes (recAddr i + off) (leBytes n v)

/-- Bytes 8 to 15 of a record at 0. -/
def State.recZero (s : State) (i : Nat) : State := s.setRecFld i 8 8 0

/-- Sk as the owner of a record's steering index (R215). -/
def State.recOwner (s : State) (i : Nat) : Nat := s.steerTo (i / 4 / 1024)

/-- A header that names how a message is sent; UDP when it holds an IP header. -/
def hdrFrame (hdr : List Byte) : Frame :=
  let t := beAt hdr (lsduOff hdr - 2) 2
  { cls := 1, hdr := hdr.length, l2 := t != 0x0800 && t != 0x86DD, v6 := t == 0x86DD, src := [], udp := hdr.length - 8 }

end Sys2Proof.Machine
end

