-- ==== Sys2Proof/Machine/Session.lean ====
section
/-! DEFINITION. Upstream sessions of the reference images (R223). The formats and the choice of the master follow IEEE 1588-2019, which the
manual names (PRESUMED, log entry 97). -/

namespace Sys2Proof.Machine

/-! ### Sessions and their masters -/

/-- The state with an upstream session replaced. -/
def State.setUp (s : State) (us : Fin 8) (x : UpSess) : State := s.setSrv { s.srv with up := s.srv.up.set us x }

/-- The session of a port, by SRV_PORT_SVC1.US. -/
def State.sessionOf (s : State) (p : Fin 64) : Fin 8 := ⟨s.get R.SRV_PORT_SVC1_US p % 8, Nat.mod_lt _ (by decide)⟩

/-- Sk of a port (R206). -/
def servOf (p : Fin 64) : Fin 8 := ⟨p.val % 8, Nat.mod_lt _ (by decide)⟩

/-- `2 ^ log` seconds in 2⁻⁴⁸ s. -/
def logUnits (log : Int) : Nat := if log ≥ 0 then 2 ^ (48 + log.toNat) else 2 ^ (48 - (-log).toNat)

/-- The keys by which IEEE 1588-2019 ranks the data of two Announce messages: priority1, clockClass, clockAccuracy, offsetScaledLogVariance,
priority2, grandmasterIdentity, stepsRemoved, and the sender. -/
def UpMaster.keys (m : UpMaster) : List Nat :=
  [beAt m.ds 0 1, beAt m.ds 1 1, beAt m.ds 2 1, beAt m.ds 3 2, beAt m.ds 5 1, beAt m.ds 6 8, beAt m.ds 14 2, ofBe m.id]

/-- Whether a master takes part in the choice: two Announce messages within four intervals, the newest not older than three. -/
def State.qualifies (s : State) (m : UpMaster) : Bool :=
  let n := s.time.lc.toNat
  decide (n ≤ m.at_ + 3 * logUnits m.log) && m.prev.any fun l => decide (m.at_ ≤ l + 4 * logUnits m.log)

/-- Whether the host has named the master of a session, and its port's profile negotiates (R223). -/
def State.named (s : State) (p : Fin 64) : Bool :=
  profNegotiates (s.profile p) && s.get R.SRV_US_MASTER0 (s.sessionOf p) != 0

/-- The address in SRV_US_MASTER (R236). -/
def State.masterAddr (s : State) (us : Fin 8) : List Byte :=
  let t := s.get R.SRV_US_MASTER0 us
  (leBytes 16 (s.get R.SRV_US_MADDR us)).take (if t = 1 then 6 else if t = 2 then 4 else 16)

/-- The master that a session follows: the one named in SRV_US_MASTER, or the best that the port hears (R223). -/
def State.upMaster (s : State) (p : Fin 64) : Option UpMaster :=
  let x := s.srv.up[s.sessionOf p]
  if s.named p then x.masters.find? fun m => m.addr == s.masterAddr (s.sessionOf p)
  else (x.masters.filter s.qualifies).foldl (fun b m => match b with
    | none => some m
    | some c => if ranksBefore m.keys c.keys then some m else b) none

/-! ### Messages -/

/-- The instant that a PTP timestamp names, in 2⁻⁴⁸ s. -/
def ptpInstant (b : List Byte) (o : Nat) : Nat := (sn96ToT96 (BitVec.ofNat 96 (beAt b o 6 * 2 ^ 48 + beAt b (o + 6) 4 * 2 ^ 16))).toNat

/-- A correctionField in 2⁻⁴⁸ s. -/
def ptpCorrection (m : List Byte) : Int := roundDiv (sext 64 (beAt m 8 8) * 2 ^ 32) 1000000000

/-- The Leash in the LEASH TLV of a message (R247), if it carries one. -/
def Req.leash (r : Req) : Option Nat :=
  (r.tlvs.find? fun x => x.1 == 3 && decide (16 ≤ x.2.2) && beAt r.msg x.2.1 6 == 0x5AC317000001).map fun x => beAt r.msg (x.2.1 + 10) 6

/-- sourcePortIdentity of a message. -/
def Req.sender (r : Req) : List Byte := slice r.msg 20 10

/-- logMessageInterval of a message. -/
def Req.log (r : Req) : Int := sext 8 (beAt r.msg 33 1)

/-- An Announce: its master is heard (IEEE 1588-2019 clause 9.3). -/
def State.upAnnounce (s : State) (p : Fin 64) (r : Req) : State :=
  let x := s.srv.up[s.sessionOf p]
  let old := x.masters.find? fun m => m.id == r.sender
  let m : UpMaster := { id := r.sender, addr := r.f.src, ds := slice r.msg 47 16, log := if r.log = 127 then x.askLog else r.log
                        at_ := s.time.lc.toNat, prev := old.map (·.at_) }
  s.setUp (s.sessionOf p) { x with masters := m :: x.masters.filter fun m => m.id != r.sender }

/-- A Sync of the session's master with its timestamp t2. -/
def State.upSync (s : State) (p : Fin 64) (r : Req) (auth : Bool) : State :=
  let x := s.srv.up[s.sessionOf p]
  let two := (beAt r.msg 6 2).testBit 9
  if r.nots then s
  else
    s.setUp (s.sessionOf p) { x with sync := some { id := r.sender, seq := beAt r.msg 30 2, t2 := r.rt, ver := r.ver, t1 := if two then none else some (ptpInstant r.msg 34)
                                                    c := ptpCorrection r.msg, log := if r.log = 127 then x.askLog else r.log, leash := r.leash, auth := auth
                                                    degraded := r.degraded, twoStep := two } }

/-- The Follow_Up of the Sync that awaits it: t1, and the rest of the correction. -/
def State.upFollow (s : State) (p : Fin 64) (r : Req) (auth : Bool) : State :=
  let x := s.srv.up[s.sessionOf p]
  match x.sync with
  | some y =>
    if y.twoStep && y.t1.isNone && y.id == r.sender && y.seq == beAt r.msg 30 2 then
      s.setUp (s.sessionOf p) { x with sync := some { y with t1 := some (ptpInstant r.msg 34), c := y.c + ptpCorrection r.msg
                                                             leash := if r.leash.isSome then r.leash else y.leash, auth := y.auth && auth } }
    else s
  | none => s

/-- The delay half of an exchange is complete once t3 and t4 are known. -/
def UpSess.halve (x : UpSess) : UpSess :=
  match x.req with
  | some q => (match q.t3, q.t4 with
    | some t3, some t4 => { x with req := none, delay := some (t4 - t3, q.auth, q.degraded) }
    | _, _ => x)
  | none => x

/-- A Delay_Resp to the session's Delay_Req: t4 − c_dresp. -/
def State.upDelayResp (s : State) (p : Fin 64) (r : Req) (auth : Bool) : State :=
  let x := s.srv.up[s.sessionOf p]
  match x.req with
  | some q =>
    if q.seq == beAt r.msg 30 2 && slice r.msg 44 10 == s.portId p then
      s.setUp (s.sessionOf p) ({ x with req := some { q with t4 := some ((ptpInstant r.msg 34 : Int) - ptpCorrection r.msg), auth := q.auth && auth } }.halve)
    else s
  | none => s

/-- The report of the session's Delay_Req gives t3; one without a departure instant ends the wait for it. -/
def State.upReport (s : State) (k : Fin 8) (tag port : Nat) (t3 : Option Nat) (degraded : Bool) : State :=
  (List.finRange 8).foldl (fun (s : State) (us : Fin 8) =>
    let x := s.srv.up[us]
    match x.req, s.sessionPort us with
    | some q, some p =>
      if q.tag = tag && p.val = port && servOf p = k && q.t3.isNone then
        s.setUp us (match t3 with
          | some t => { x with req := some { q with t3 := some t, degraded := q.degraded || degraded } }.halve
          | none => { x with req := none })
      else s
    | _, _ => s) s

/-! ### The record -/

/-- Half of a number, to nearest, ties away from zero. -/
def half (x : Int) : Int := roundDiv x 2

/-- An interval in ms, to nearest. -/
def intervalMs (log : Int) : Nat := (roundDiv (1000 * logUnits log) (2 ^ 48)).toNat

/-- A Sync that completes an exchange with the newest delay half: its record goes to the measurement inlet (R223). Its MEAS_PS, the 6σ of the
offset estimate, is formed by means the manual does not state (log entry 4). -/
def State.upRecord (s : State) (p : Fin 64) : State :=
  let us := s.sessionOf p
  let x := s.srv.up[us]
  match x.sync, x.delay with
  | some y, some (back, dAuth, dDeg) =>
    match y.t1 with
    | none => s
    | some t1 =>
      let auth := y.auth && dAuth
      let mpd := half (((y.t2 : Int) - t1 - y.c) + back)
      let ofs := (t1 : Int) + y.c + mpd + s.attAsym (attOf p) - y.t2
      let cls := ((s.upMaster p).map fun m => beAt m.ds 1 1).getD 0
      let b := leBytes 12 y.t2 ++ leBytes 8 (trunc 64 ofs) ++ leBytes 8 (trunc 64 mpd) ++ leBytes 4 (intervalMs y.log) ++ leBytes 4 (Config.freeNat s.draw % 2 ^ 32)
        ++ leBytes 6 (y.leash.getD 0) ++ leBytes 1 cls ++ leBytes 1 us.val ++ leBytes 2 x.recSeq ++ leBytes 2 y.ver
        ++ leBytes 2 (b2n auth + 2 * b2n y.leash.isSome + 4 * b2n (y.degraded || dDeg) + 8 * b2n y.twoStep) ++ leBytes 1 p.val ++ List.replicate 13 0#8
      let s := s.setUp us { x with sync := none, recSeq := (x.recSeq + 1) % 65536 }
      if s.authReq p && !auth then s else s.drawn.inletPut 3 b
  | _, _ => s

/-- A message of a session: only its master's Sync, Follow_Up and Delay_Resp count. -/
def State.upTake (s : State) (p : Fin 64) (r : Req) : State :=
  let auth := s.icvOk p r.msg r.tlvs
  let mine := match s.upMaster p with
    | some m => m.id == r.sender
    | none => false
  let s :=
    if r.typ = mANNOUNCE then s.upAnnounce p r
    else if !mine then s
    else if r.typ = mSYNC then s.upSync p r auth
    else if r.typ = mFOLLOW_UP then s.upFollow p r auth
    else if r.typ = mDELAY_RESP then s.upDelayResp p r auth
    else s
  (s.upRecord p).poolRet r.buf

/-! ### What a session sends -/

/-- A message of a session over a header, from a buffer: whether it was launched. -/
def State.upSend (s : State) (p : Fin 64) (hdr : List Byte) (buf : Nat) (event report : Bool) (m : PtpMsg) (tlvs : List Byte) : Bool × State :=
  let f := hdrFrame hdr
  match s.ptpBytes p m tlvs (s.authReq p) with
  | none => (false, s)
  | some msg =>
    let port := if event then 319 else 320
    s.servLaunch (servOf p) p { report := report, tag := buf } buf (udpFrame f (withPorts f port port hdr) msg)

/-- With unicast negotiation the session asks its master for Sync, Announce and Delay_Resp (R223). -/
def State.upAsk (s : State) (p : Fin 64) (hdr : List Byte) (buf dur log : Nat) : State :=
  let us := s.sessionOf p
  let x := s.srv.up[us]
  let one := fun (typ : Nat) => beBytes 2 4 ++ beBytes 2 6 ++ beBytes 1 (typ * 16) ++ beBytes 1 log ++ beBytes 4 dur
  let m : PtpMsg := { typ := mSIGNALING, domain := s.get R.SRV_PORT_SVC0_DOMAIN p, flags := ptpFlags false true, cf := 0, seq := x.sigSeq, logInt := 127
                      body := List.replicate 10 0xFF#8 }
  if !s.named p then s
  else
    let (ok, s) := s.upSend p hdr buf false false m (one mSYNC ++ one mANNOUNCE ++ one mDELAY_RESP)
    if ok then s.setUp us { x with askLog := sext 8 log, sigSeq := (x.sigSeq + 1) % 65536 } else s

/-- The session sends a Delay_Req and awaits its report and its Delay_Resp (R223). -/
def State.upDelayReq (s : State) (p : Fin 64) (hdr : List Byte) (buf : Nat) : State :=
  let us := s.sessionOf p
  let x := s.srv.up[us]
  let m : PtpMsg := { typ := mDELAY_REQ, domain := s.get R.SRV_PORT_SVC0_DOMAIN p, flags := ptpFlags false (s.named p), cf := 0, seq := x.reqSeq, logInt := 127
                      body := List.replicate 10 0#8 }
  if (s.upMaster p).isNone then s
  else
    let (ok, s) := s.upSend p hdr buf true true m []
    if ok then s.setUp us { x with req := some { seq := x.reqSeq, tag := buf, t3 := none, t4 := none, auth := true, degraded := false }
                                   reqSeq := (x.reqSeq + 1) % 65536 } else s

/-- What the firmware of a session does next, on the engine of its port (R223). -/
def State.upAct (s : State) (p : Fin 64) (x : UpAct) : State :=
  if !s.isSlave p || s.profile p = 0 || !s.serves (servOf p) then s
  else match x with
    | .take => s.serveHead (servOf p) (fun w r => w == .session && r.port == p) fun r s => s.upTake p r
    | .ask hdr buf dur log => s.upAsk p hdr buf.toNat dur.toNat log.toNat
    | .delayReq hdr buf => s.upDelayReq p hdr buf.toNat

/-! ### Meaning -/

/-- UPSTREAM_EXCHANGE (R223). -/
def execUpstreamExchange (p : Fin 64) (x : UpAct) (s : State) : Host.Outcome State Fault Refusal := done (s.upAct p x)

end Sys2Proof.Machine
end

