-- ==== Sys2Proof/Machine/ServeFw.lean ====
section
/-! DEFINITION. The rows of the serving engines' reference images: grants (R216, R217), PTP messages (R218 to R222), NTP and NTS
(R224 to R228), and the sweep of the client table (R215). -/

namespace Sys2Proof.Machine

/-! ### Grants (R213, R216, R217) -/

/-- The three kinds of grant: 0 Sync, 1 Announce, 2 Delay_Resp; by messageType. -/
def grantOf (typ : Nat) : Option (Fin 3) := if typ = 0 then some 0 else if typ = 11 then some 1 else if typ = 9 then some 2 else none

/-- messageType of a kind. -/
def grantType (g : Fin 3) : Nat := if g = 0 then 0 else if g = 1 then 11 else 9

/-- Expiry of a grant of a record, and logInterMessagePeriod + 8 of it. -/
def State.grantExp (s : State) (i : Nat) (g : Fin 3) : Nat := s.recFld i (8 + 2 * g.val) 2
def State.grantLog (s : State) (i : Nat) (g : Fin 3) : Nat :=
  if g = 0 then s.recFld i 14 1 % 16 else if g = 1 then s.recFld i 14 1 / 16 else s.recFld i 15 1 % 16

/-- AUTH and TWO_STEP of a record. -/
def State.recAuth (s : State) (i : Nat) : Bool := (s.recFld i 15 1).testBit 4
def State.recTwo (s : State) (i : Nat) : Bool := (s.recFld i 15 1).testBit 5

/-- Whether a grant is held now: its expiry second has not come (R213). -/
def State.grantHeld (s : State) (i : Nat) (g : Fin 3) : Bool :=
  let left := (s.grantExp i g + 65536 - s.rtSec % 65536) % 65536
  s.grantExp i g != 0 && decide (1 ≤ left) && decide (left < 32768)

/-- The rate that a grant commits, in 1/128 per s (R217). -/
def grantRate (g : Fin 3) (log : Nat) (two : Bool) : Nat := 2 ^ (15 - log) * (if g = 0 && two then 2 else 1)

/-- The rate that a record's grant commits; none when it holds none. -/
def State.grantNow (s : State) (i : Nat) (g : Fin 3) : Nat := if s.grantExp i g = 0 then 0 else grantRate g (s.grantLog i g) (s.recTwo i)

/-- The committed total of Sk changes; SRV_GRANT_SHARE shows whole transmissions per second (R217). -/
def State.setShare (s : State) (k : Fin 8) (v : Nat) : State :=
  (s.setSrv { s.srv with share := s.srv.share.set k v }).set R.SRV_GRANT_SHARE k (v / 128)

/-- A grant stops (R217). -/
def State.grantStop (s : State) (k : Fin 8) (i : Nat) (g : Fin 3) : State :=
  (s.setShare k (s.srv.share[k] - s.grantNow i g)).setRecFld i (8 + 2 * g.val) 2 0

/-- Every grant of a record stops. -/
def State.grantsStop (s : State) (k : Fin 8) (i : Nat) : State := [0, 1, 2].foldl (fun s g => s.grantStop k i g) s

/-- The shortest period allowed of a kind, as logInterMessagePeriod + 8 (R236). -/
def State.grantMin (s : State) (g : Fin 3) : Nat := bits (s.get R.SRV_GRANT_LOG) (4 * g.val) 4

/-- A record takes a grant (R213); TWO_STEP is that of its Sync (R217). -/
def State.grantPut (s : State) (i : Nat) (g : Fin 3) (log dur : Nat) (auth two : Bool) : State :=
  let e := (s.rtSec + dur) % 65536
  let s := s.setRecFld i (8 + 2 * g.val) 2 (if e = 0 then 65535 else e)
  let l := s.recFld i 14 1
  let l2 := s.recFld i 15 1
  let s := s.setRecFld i 14 1 (if g = 0 then setBits l 0 4 log else if g = 1 then setBits l 4 4 log else l)
  let l2 := setBits (if g = 2 then setBits l2 0 4 log else l2) 4 1 (b2n auth)
  s.setRecFld i 15 1 (if g = 0 then setBits l2 5 1 (b2n two) else l2)

/-- The decision on one REQUEST_UNICAST_TRANSMISSION TLV by rules 3 to 8 of R216: the granted duration, or none where it is denied. Rules
1 and 2 have been applied to the message. A period outside −7 to +7, which no record can hold, is denied. -/
def State.grantDecide (s : State) (k : Fin 8) (r : Req) (g : Fin 3) (log : Int) (dur : Nat) : Option Nat × State :=
  let i := s.reqRec r
  let adm := s.get R.SRV_CTRL_ADMIT
  let kind := (i.map s.recKind).getD 0
  let auth := s.icvOk r.port r.msg r.tlvs
  let two := auth || s.authReq r.port
  let lf := (log + 8).toNat
  if (i.isSome && kind.testBit 3) || (adm == 1 && !(i.isSome && kind.testBit 2)) || (adm == 2 && i.isNone) then (none, s)
  else if log < -7 ∨ log > 7 ∨ lf < s.grantMin g then (none, s)
  else if dur < s.get R.SRV_GRANT_DUR_DUR_MIN then (none, s)
  else
    let old := (i.map fun i => s.grantNow i g).getD 0
    let new := grantRate g lf two
    if s.srv.share[k] + new > s.get R.SRV_GRANT_BUDGET * 16000 + old then (none, s)
    else
      let key := r.f.key r.bytes
      let (ok, i, s) := match i with
        | some i => (true, i, s)
        | none =>
          let (st, i, s) := s.assistInsert (s.clientHash key) 0 (leAt key 0 4) r.port false
          (st == 0, i, if st = 0 then s.recZero i else s)
      if !ok then (none, s)
      else
        let d := Nat.min dur (s.get R.SRV_GRANT_DUR_DUR_MAX)
        (some d, (s.grantPut i g lf d auth two).setShare k (s.srv.share[k] + new - old))

/-- The TLV that answers one TLV of a Signaling message, if it needs an answer (R216, R217): GRANT_UNICAST_TRANSMISSION, or
ACKNOWLEDGE_CANCEL_UNICAST_TRANSMISSION. -/
def State.signalTlv (s : State) (k : Fin 8) (r : Req) (x : Nat × Nat × Nat) : List Byte × State :=
  let m := r.msg
  let typ := beAt m x.2.1 1 / 16
  if x.1 = 4 then
    let log := beAt m (x.2.1 + 1) 1
    let (d, s) := match grantOf typ with
      | none => (none, s)
      | some g => s.grantDecide k r g (sext 8 log) (beAt m (x.2.1 + 2) 4)
    let s := if d.isNone then s.bump R.SRV_CNT_GRANT_DENIED else s
    (beBytes 2 5 ++ beBytes 2 8 ++ beBytes 1 (typ * 16) ++ beBytes 1 log ++ beBytes 4 (d.getD 0) ++ [0#8] ++ beBytes 1 (b2n d.isSome), s)
  else if x.1 = 6 then
    let s := match grantOf typ, s.reqRec r with
      | some g, some i => s.grantStop k i g
      | _, _ => s
    (beBytes 2 7 ++ beBytes 2 2 ++ beBytes 1 (typ * 16) ++ [0#8], s)
  else ([], s)

/-- The reply to a Signaling message: its TLVs answered in their order (R216). -/
def State.signalReply (s : State) (k : Fin 8) (r : Req) : State :=
  let signed := s.authReq r.port || s.icvOk r.port r.msg r.tlvs
  let (tlvs, s) := r.tlvs.foldl (fun (a : List Byte × State) x => let (t, s) := a.2.signalTlv k r x; (a.1 ++ t, s)) ([], s)
  let m : PtpMsg := { typ := mSIGNALING, domain := beAt r.msg 4 1, flags := ptpFlags false r.unicast, cf := 0, seq := beAt r.msg 30 2, logInt := 127
                      body := slice r.msg 20 10 }
  (s.ptpReply k r false m tlvs signed { tag := r.buf }).2

/-- Whether a Signaling message holds a TLV of a type. -/
def Req.has (r : Req) (t : Nat) : Bool := r.tlvs.any fun x => x.1 == t

/-! ### Replies to Delay_Req and Pdelay_Req (R218, R219) -/

/-- A correctionField with a number of 2⁻¹⁶ ns added. -/
def cfPlus (cf : Nat) (d : Int) : Nat := trunc 64 (sext 64 cf + d)

/-- Delay_Resp (R218). A client of a negotiating profile has one while it holds the grant. -/
def State.delayReply (s : State) (k : Fin 8) (r : Req) : State :=
  let i := s.reqRec r
  let granted := match i with | some i => s.grantHeld i 2 | none => false
  if (profNegotiates (s.profile r.port) && r.unicast && !granted) || r.nots then s.poolRet r.buf
  else
    let t4 := t96ToSn96 (BitVec.ofNat 96 r.rt)
    let signed := s.authReq r.port || s.icvOk r.port r.msg r.tlvs
    let log : Int := match i with | some i => if r.unicast then (s.grantLog i 2 : Int) - 8 else 127 | none => 127
    let m : PtpMsg := { typ := mDELAY_RESP, domain := beAt r.msg 4 1, flags := ptpFlags false r.unicast, cf := cfPlus (beAt r.msg 8 8) (-(snUnits t4 % 65536 : Nat))
                        seq := beAt r.msg 30 2, logInt := log, body := sn80Wire t4 ++ slice r.msg 20 10 }
    let leash := s.leashOf r.port r.rt r.degraded false r.ver
    (s.ptpReply k r false m leash signed { tag := r.buf }).2

/-- A two-step message awaits its report (R218). -/
def State.awaitReport (s : State) (x : TwoStep) : State := s.setSrv { s.srv with sent := s.srv.sent ++ [x] }

/-- Pdelay_Resp (R218, R222): one-step with KIND 2, or two-step. -/
def State.pdelayReply (s : State) (k : Fin 8) (r : Req) : State :=
  if r.nots then s.poolRet r.buf
  else
    let p := r.port
    let signed := s.authReq p || s.icvOk p r.msg r.tlvs
    let two := s.flag R.SRV_PORT_SVC0_TWO_STEP p || signed
    let t2 := t96ToSn96 (BitVec.ofNat 96 r.rt)
    let cf := beAt r.msg 8 8
    let m : PtpMsg := { typ := mPDELAY_RESP, domain := beAt r.msg 4 1, flags := ptpFlags two r.unicast
                        cf := if two then trunc 64 (-(snUnits t2 % 65536 : Nat)) else cf, seq := beAt r.msg 30 2, logInt := 127
                        body := (if two then sn80Wire t2 else List.replicate 10 0#8) ++ slice r.msg 20 10 }
    let x : Launch := if two then { tag := r.buf } else
      { tag := r.buf, kind := 2, cf := r.f.hdr + 8, tref := r.rt, cksum := !r.f.l2, ck := if r.f.l2 then 0 else r.f.udp + 6 }
    let (ok, s) := s.ptpReply k r true m (if two then [] else s.leashNowTlv p false) signed x
    if ok && two then
      s.awaitReport { port := p, tag := r.buf, pdelay := true, hdr := (s.bytes r.buf r.f.hdr), unicast := r.unicast, domain := beAt r.msg 4 1
                      seqId := beAt r.msg 30 2, cf := cf, requester := slice r.msg 20 10, logInt := 127, signed := signed }
    else s

/-! ### Sync, Follow_Up and Announce (R206, R217, R218) -/

/-- The client that a transmission goes to: none for a group, or its record when it holds the grant and Sk owns it. -/
def State.sendTo (s : State) (k : Fin 8) (p : Fin 64) (index : Option (BitVec 20)) (g : Fin 3) (mcLog : Nat) : Option (Int × Bool × Bool) :=
  match index with
  | none => if k.val = p.val % 8 && mcLog != 0 then some ((mcLog : Int) - 8, s.flag R.SRV_PORT_SVC0_TWO_STEP p || s.authReq p, s.authReq p) else none
  | some i =>
    let i := i.toNat
    let signed := s.authReq p || s.recAuth i
    if s.recFp i != 0 && s.recKind i % 4 == 0 && s.grantHeld i g && s.recOwner i == k.val && s.recFld i 7 1 % 64 == p.val then
      some ((s.grantLog i g : Int) - 8, s.recTwo i || signed, signed)
    else none

/-- sequenceId of the next Sync or Announce of a port: by its counter, or on a Brace port by its launch instant (R341). -/
def seqAt (l : Nat) (log : Int) : Nat := (if log ≥ 0 then l / (2 ^ 48 * 2 ^ log.toNat) else l * 2 ^ (-log).toNat / 2 ^ 48) % 65536

/-- Sync (R218, R219, R222): a timed frame with a window of 10,000 ns. -/
def State.syncSend (s : State) (k : Fin 8) (p : Fin 64) (index : Option (BitVec 20)) (hdr : List Byte) (buf l : Nat) : State :=
  if !s.serves k || s.mode = 0 || s.profile p = 0 || s.isSlave p then s
  else
    match s.sendTo k p index 0 (s.get R.SRV_PORT_SVC0_MC_LOG_SYNC p) with
    | none => s
    | some (log, two, signed) =>
      let f := hdrFrame hdr
      let seq := if s.braceOn p then seqAt l log else s.srv.syncSeq[p]
      let sn := t96ToSn96 (BitVec.ofNat 96 (l + s.followDelay p))
      let dom := s.get R.SRV_PORT_SVC0_DOMAIN p
      let m : PtpMsg := { typ := mSYNC, domain := dom, flags := ptpFlags two index.isSome, cf := 0, seq := seq, logInt := if index.isSome then 127 else log
                          body := if two then sn80Wire sn else List.replicate 10 0#8 }
      let leash := if two then [] else s.leashOf p l (s.linkDegraded (attOf p)) false (s.get R.KNL_TIME_MODE_CSET_VER)
      match s.ptpBytes p m leash signed with
      | none => s
      | some msg =>
        let h := withPorts f 319 319 hdr
        let x : Launch := { l := l, window := 10000, report := two, tag := buf, kind := if two then 0 else 1, ins := if two then 0 else f.hdr + 34
                            cf := if two then 0 else f.hdr + 8, cksum := !two && !f.l2, ck := if two || f.l2 then 0 else f.udp + 6 }
        let (ok, s) := s.servLaunch k p x buf (udpFrame f h msg)
        if !ok then s
        else
          let s := if s.braceOn p then s else s.setSrv { s.srv with syncSeq := s.srv.syncSeq.set p ((seq + 1) % 65536) }
          if two then
            s.awaitReport { port := p, tag := buf, pdelay := false, hdr := hdr, unicast := index.isSome, domain := dom, seqId := seq, cf := 0, requester := []
                            logInt := trunc 8 (if index.isSome then 127 else log), signed := signed }
          else s

/-- The follow-up of a two-step message that a report of an instant A completes (R218, R219). -/
def State.followUp (s : State) (k : Fin 8) (t : TwoStep) (a : Nat) (degraded : Bool) (ver buf : Nat) : State :=
  let p := t.port
  let sn := t96ToSn96 (BitVec.ofNat 96 a)
  let m : PtpMsg := { typ := if t.pdelay then mPDELAY_FUP else mFOLLOW_UP, domain := t.domain, flags := ptpFlags false t.unicast
                      cf := cfPlus t.cf (snUnits sn % 65536 : Nat), seq := t.seqId, logInt := sext 8 t.logInt, body := sn80Wire sn ++ t.requester }
  let f := hdrFrame t.hdr
  match s.ptpBytes p m (s.leashOf p a degraded false ver) t.signed with
  | none => s
  | some msg => (s.servLaunch k p { report := false, tag := buf } buf (udpFrame f (withPorts f 320 320 t.hdr) msg)).2

/-- Sk takes the report at the head of its ring (R201, R203): a two-step message gets its follow-up, and a buffer of the pool returns. A
report that shows a gap, or LATE, gives no follow-up (R218). -/
def State.takeReport (s : State) (k : Fin 8) (buf : Nat) : State :=
  let ring := k.val + 2
  if !s.serves k || s.ringHeld R.LCH_RING_WR R.LCH_RING_RD ring = 0 then s
  else
    let d := s.bytes (s.get R.LCH_RING_BASE ring + s.get R.LCH_RING_RD ring % s.lringSize ring * 32) 32
    let fl := leAt d 28 2
    let tag := leAt d 16 8
    let s := (s.bumpW R.LCH_RING_RD ring).lringSync ring
    let port := fl % 64
    let mine := fun (t : TwoStep) => t.tag == tag && (t.port.val == port || t.port.val + 1 == port)
    let good := decide (bits fl 6 4 ≤ 1)
    let s := s.upReport k tag (fl % 64) (if good then some (leAt d 0 12) else none) (fl.testBit 11)
    match s.srv.sent.find? mine with
    | none => s.poolRet tag
    | some t =>
      let keep := if fl.testBit 10 then (s.srv.sent.dropWhile fun x => x.port == t.port && !mine x) else s.srv.sent
      let s := s.setSrv { s.srv with sent := keep.erase t }
      let s := if good && s.mode != 0 then s.followUp k t (leAt d 0 12) (fl.testBit 11) (leAt d 12 2) buf else s
      s.poolRet tag

/-- timeSource by SEL_REF (R218). -/
def timeSource (sel : Nat) : Nat := if sel = 8 then 0x20 else if (9 ≤ sel ∧ sel ≤ 17) ∨ sel = 22 then 0x40 else if sel = 31 then 0xA0 else 0x90

/-- Announce (R218, R219, R248, R249): its Leash fields use the Leash of the current second on the port. -/
def State.announceSend (s : State) (k : Fin 8) (p : Fin 64) (index : Option (BitVec 20)) (hdr : List Byte) (buf l : Nat) : State :=
  let prof := s.profile p
  if !s.serves k || s.mode = 0 || prof = 0 || s.isSlave p then s
  else
    match s.sendTo k p index 1 (s.get R.SRV_PORT_SVC1_MC_LOG_ANN p) with
    | none => s
    | some (log, _, signed) =>
      let f := hdrFrame hdr
      let core := s.get R.LSH_CORE
      let leash := s.portLeash p
      let rank := s.classNow core
      let sel := s.get R.REF_STAT_SEL_REF
      let fl := ptpFlags false index.isSome + s.time.ptpLeap.toNat + 4 * b2n (s.flag R.KNL_UTC_VALID) + 8 + 16 * b2n (decide (rank ≤ 1))
        + 32 * b2n (sel != 31 && decide (s.classRow core ≤ 2))
      let seq := if s.braceOn p then seqAt l log else s.srv.annSeq[p]
      let body := List.replicate 10 0#8 ++ beBytes 2 (s.get R.KNL_UTC_UTC_OFFSET) ++ [0#8] ++ beBytes 1 (s.get R.SRV_PORT_SVC1_PRIORITY1 p)
        ++ beBytes 1 (classOf (profG8275 prof) rank) ++ beBytes 1 (clockAccuracy leash) ++ beBytes 2 (oslv leash)
        ++ beBytes 1 (s.get R.SRV_PORT_SVC1_PRIORITY2 p) ++ leBytes 8 (s.get R.SRV_CLOCK_ID) ++ beBytes 2 0 ++ beBytes 1 (timeSource sel)
      let m : PtpMsg := { typ := mANNOUNCE, domain := s.get R.SRV_PORT_SVC0_DOMAIN p, flags := fl, cf := 0, seq := seq
                          logInt := if index.isSome then 127 else log, body := body }
      match s.ptpBytes p m (s.leashTlv leash (s.get R.KNL_TIME_MODE_CSET_VER) (s.flag R.PRT_STAT_DEGRADED p)) signed with
      | none => s
      | some msg =>
        let (ok, s) := s.servLaunch k p { l := l, window := if l = 0 then 0 else 10000, report := false, tag := buf } buf (udpFrame f (withPorts f 320 320 hdr) msg)
        if ok && !s.braceOn p then s.setSrv { s.srv with annSeq := s.srv.annSeq.set p ((seq + 1) % 65536) } else s

/-! ### Grants that end otherwise (R215, R217) -/

/-- The grants of a record that have reached their expiry second stop (R217). -/
def State.grantExpire (s : State) (i : Nat) : State :=
  if h : s.recOwner i < 8 then
    let k : Fin 8 := ⟨s.recOwner i, h⟩
    if !s.serves k || s.recFp i = 0 || s.recKind i % 4 ≠ 0 then s
    else [0, 1, 2].foldl (fun s g => if s.grantExp i g ≠ 0 && !s.grantHeld i g then s.grantStop k i g else s) s
  else s

/-- The owner sends CANCEL for each grant of a record that the host deleted or denied, and a deleted record is freed (R217). -/
def State.hostCancel (s : State) (k : Fin 8) (p : Fin 64) (hdr : List Byte) (buf : Nat) : State :=
  match s.srv.cancel.find? fun c => s.recOwner c.1 == k.val && s.recFld c.1 7 1 % 64 == p.val with
  | none => s
  | some (i, del) =>
    if !s.serves k then s
    else
      let f := hdrFrame hdr
      let signed := s.authReq p || s.recAuth i
      let held := ([0, 1, 2] : List (Fin 3)).filter fun g => s.grantExp i g != 0
      let tlvs := held.flatMap fun g => beBytes 2 6 ++ beBytes 2 2 ++ beBytes 1 (grantType g * 16) ++ [0#8]
      let m : PtpMsg := { typ := mSIGNALING, domain := s.get R.SRV_PORT_SVC0_DOMAIN p, flags := ptpFlags false true, cf := 0
                          seq := (Config.freeBits 16 s.draw).toNat, logInt := 127, body := List.replicate 10 0xFF#8 }
      let s := (s.setSrv { s.srv with cancel := s.srv.cancel.erase (i, del) }).drawn
      let s := match s.ptpBytes p m tlvs signed with
        | none => s
        | some msg => (s.servLaunch k p { report := false, tag := buf } buf (udpFrame f (withPorts f 320 320 hdr) msg)).2
      let s := s.grantsStop k i
      if del then s.recFree i else s

/-- The index of the record that a byte of client SRAM belongs to. -/
def recOfAddr (a : Nat) : Option Nat :=
  let o := a - 0x20000000
  if 0x20000000 ≤ a ∧ a < 0x21800000 ∧ o % 0x300000 < 0x200000 then
    some (((o % 0x300000 / 64) * 8 + o / 0x300000) * 4 + o % 64 / 16)
  else none

/-- The records that hold a byte other than 0, once each. -/
def State.recsUsed (s : State) : List Nat := (s.mem.filterMap fun c => recOfAddr c.1).eraseDups

/-- Whether the sweep frees a record (R215). -/
def State.sweeps (s : State) (i : Nat) : Bool :=
  let kind := s.recKind i
  s.recFp i != 0 && !kind.testBit 2
    && (if kind % 4 = 0 then ([0, 1, 2] : List (Fin 3)).all fun g => !s.grantHeld i g
        else decide ((s.rt.toNat / 2 ^ 40 + 2 ^ 32 - s.recFld i 8 4) % 2 ^ 32 > s.get R.SRV_NTP_IDLE * 256))

/-- The sweep of the buckets of Sk, once every 16 s (R215). -/
def State.clientSweep (s : State) (k : Fin 8) : State :=
  if !s.serves k || !s.srv.sweepAt[k].all (s.past · 16) then s
  else ({ s with srv := { s.srv with sweepAt := s.srv.sweepAt.set k (some s.time.lc.toNat) } }).recsUsed.foldl (fun s i =>
    if s.recOwner i == k.val && s.sweeps i then
      let s := if s.recKind i % 4 = 0 then s.grantsStop k i else s
      (s.recZero i).recFree i
    else s) s

/-! ### NTP and NTS (R224 to R228, R250) -/

/-- A request spends a token of its client's record (R225): the record and whether it had one. A client without a record gets one; where
its bucket is full it is served without. -/
def State.spend (s : State) (r : Req) : Option Nat × Bool × State :=
  let now := s.rt.toNat / 2 ^ 40 % 2 ^ 32
  let full := s.get R.SRV_NTP_CFG_BURST * 256
  let key := r.f.key r.bytes
  let (i, s) := match s.reqRec r with
    | some i => (some i, s)
    | none =>
      let (st, i, s) := s.assistInsert (s.clientHash key) (leAt key 0 1) (leAt key 0 4) r.port false
      if st = 0 then (some i, ((s.recZero i).setRecFld i 8 4 now).setRecFld i 12 2 (Nat.min full 65535)) else (none, s)
  match i with
  | none => (none, true, s)
  | some i =>
    let t := s.recFld i 12 2 + (now + 2 ^ 32 - s.recFld i 8 4) % 2 ^ 32 * s.get R.SRV_NTP_CFG_RATE / 16
    let t := Nat.min t (Nat.min full 65535)
    let ok := decide (t ≥ 256)
    (some i, ok, (s.setRecFld i 8 4 now).setRecFld i 12 2 (if ok then t - 256 else t))

/-- Reference timestamp (R224). -/
def State.ntpRefTime (s : State) : Nat := if s.srv.lockedSec = 0 then 0 else (s.ntpAt (BitVec.ofNat 96 (s.srv.lockedSec * 2 ^ 48))).toNat

/-- The 48 bytes of an NTP response (R224, R250); a kiss has stratum 0 and its code as Reference ID. -/
def State.ntpHeader (s : State) (r : Req) (kiss : Option String) (disp tx : Nat) : List Byte :=
  let b := r.bytes.drop r.f.hdr
  let sel := s.get R.REF_STAT_SEL_REF
  let poll := Nat.max 4 (Nat.min 17 (beAt b 2 1))
  let li := if s.servo = 0 then 3 else s.time.ntpLeap.toNat
  beBytes 1 (li * 64 + beAt b 0 1 / 8 % 8 * 8 + 4)
    ++ beBytes 1 (if kiss.isSome then 0 else s.stratumOf (s.classNow (s.get R.LSH_CORE)))
    ++ beBytes 1 poll ++ beBytes 1 (s.get R.SRV_NTP_CFG_PRECISION) ++ beBytes 4 0 ++ beBytes 4 disp
    ++ (match kiss with | some c => ascii c | none => leBytes 4 (s.get R.SRV_NTP_REFID (if sel = 31 then 23 else Nat.min sel 23)))
    ++ beBytes 8 s.ntpRefTime ++ slice b 40 8 ++ beBytes 8 (if r.nots then 0 else (s.ntpAt (BitVec.ofNat 96 r.rt)).toNat) ++ beBytes 8 tx

/-- An NTP response over the request's header, its UDP ports swapped. -/
def State.ntpFrame (s : State) (r : Req) (payload : List Byte) : List Byte :=
  let h := s.replyHdr r.port r.f r.bytes
  udpFrame r.f (withPorts r.f 123 (beAt r.bytes r.f.udp 2) h) payload

/-- A response launched at once, its transmit timestamp inserted with KIND 3 (R224). -/
def State.ntpLaunch (s : State) (k : Fin 8) (r : Req) (payload : List Byte) : State :=
  let (ok, s) := s.servLaunch k r.port { tag := r.buf, kind := 3, ins := r.f.hdr + 40, cksum := true, ck := r.f.udp + 6 } r.buf (s.ntpFrame r payload)
  if ok then s else s.poolRet r.buf

/-- Root dispersion of a response sent about now (R250). -/
def State.dispOf (s : State) (p : Fin 64) (rt : Nat) (before : Bool) : Nat := rootDisp (s.tsLeash p rt (s.linkDegraded (attOf p)) before)

/-- A plain NTP request (R224, R225). -/
def State.ntpReply (s : State) (k : Fin 8) (r : Req) : State :=
  let (i, ok, s) := s.spend r
  let disp := s.dispOf r.port s.rt.toNat false
  if ok then s.ntpLaunch k r (s.ntpHeader r none disp 0)
  else
    let s := s.bump R.SRV_CNT_KOD_SENT
    let s := match i with | some i => s.setRecFld i 14 1 (Nat.min 255 (s.recFld i 14 1 + 1)) | none => s
    s.ntpLaunch k r (s.ntpHeader r (some "RATE") disp 0)

/-- The Unique Identifier field of an NTS request, echoed (R226, R228). -/
def Req.uid (r : Req) : List Byte :=
  let o := r.nts / 2 ^ 12 % 2 ^ 11
  slice r.bytes o (beAt r.bytes (o + 2) 2)

/-- A request is dropped with its context. -/
def State.reqDrop (s : State) (k : Fin 8) (r : Req) : State := (s.poolRet r.buf).reqCtxFree k r

/-- An NTS request with its context (R225, R228): one fresh cookie for the cookie and one for each placeholder, sealed under S2C, launched at
L = now + LEAD with FIXED. MINT and SIV_SEAL run on the home unit within this step. -/
def State.ntsReply (s : State) (k : Fin 8) (r : Req) : State :=
  let (_, ok, s) := s.spend r
  if !ok then (s.bump R.SRV_CNT_RATE_DROP).reqDrop k r
  else
    let u := k.val
    match s.ctxOf u (r.nts / 4 % 64), s.sec.cookieCur with
    | some c, some key =>
      let n := 1 + r.nts / 256 % 8
      let (cs, s) := s.cookies key c.c2s c.s2c n
      let pt := (List.range n).flatMap fun i => beBytes 2 0x0204 ++ beBytes 2 108 ++ slice cs (104 * i) 104
      let l := s.rt.toNat + s.get R.SRV_NTS_LEAD * 2 ^ 48 / 1000000000
      let tx := (s.ntpAt (BitVec.ofNat 96 l)).toNat
      let clear := s.ntpHeader r none (s.dispOf r.port l true) tx ++ r.uid
      let nonce := Config.randomBytes s.draw 16
      let (v, ct) := sivSeal c.s2c [clear, nonce] pt
      let auth := beBytes 2 0x0404 ++ beBytes 2 (8 + 16 + 16 + pt.length) ++ beBytes 2 16 ++ beBytes 2 (16 + pt.length) ++ nonce ++ v ++ ct
      let s := ((((s.drawn.drbgUse.obs 5 46 n).bump R.SRV_AU_JOBS u 2).obs 5 (16 + u) 2).ctxFree u (r.nts / 4 % 64))
      let (ok, s) := s.servLaunch k r.port { l := l, fixed := true, tag := r.buf } r.buf (s.ntpFrame r (clear ++ auth))
      if ok then s else s.poolRet r.buf
    | _, _ => s.reqDrop k r

/-- The kiss NTSN (R226), not authenticated, with the Unique Identifier and the NTS NAK field. -/
def State.ntsnReply (s : State) (k : Fin 8) (r : Req) : State :=
  let (_, ok, s) := s.spend r
  if !ok then (s.bump R.SRV_CNT_RATE_DROP).reqDrop k r
  else s.ntpLaunch k r (s.ntpHeader r (some "NTSN") (s.dispOf r.port s.rt.toNat false) 0 ++ r.uid ++ Config.nakField)

/-! ### Meanings -/

/-- GRANT_REQUEST (R216). -/
def execGrantRequest (k : Fin 8) (s : State) : Host.Outcome State Fault Refusal :=
  done (s.serveHead k (fun x r => x == .signaling && r.has 4) fun r s => s.signalReply k r)

/-- GRANT_CANCEL (R217). -/
def execGrantCancel (k : Fin 8) (s : State) : Host.Outcome State Fault Refusal :=
  done (s.serveHead k (fun x r => x == .signaling && !r.has 4) fun r s => if r.has 6 then s.signalReply k r else s.poolRet r.buf)

/-- GRANT_EXPIRY (R217). -/
def execGrantExpiry (index : BitVec 20) (s : State) : Host.Outcome State Fault Refusal := done (s.grantExpire index.toNat)

/-- HOST_RECORD_CANCEL (R217). -/
def execHostRecordCancel (k : Fin 8) (p : Fin 64) (hdr : List Byte) (buf : Word) (s : State) : Host.Outcome State Fault Refusal :=
  done (s.hostCancel k p hdr buf.toNat)

/-- CLIENT_SWEEP (R215). -/
def execClientSweep (k : Fin 8) (s : State) : Host.Outcome State Fault Refusal := done (s.clientSweep k)

/-- SYNC_SEND (R218). -/
def execSyncSend (k : Fin 8) (p : Fin 64) (index : Option (BitVec 20)) (hdr : List Byte) (buf : Word) (l : BitVec 96) (s : State) :
    Host.Outcome State Fault Refusal := done (s.syncSend k p index hdr buf.toNat l.toNat)

/-- FOLLOW_UP_SEND (R218). -/
def execFollowUpSend (k : Fin 8) (buf : Word) (s : State) : Host.Outcome State Fault Refusal := done (s.takeReport k buf.toNat)

/-- DELAY_RESP_SEND (R218). -/
def execDelayRespSend (k : Fin 8) (s : State) : Host.Outcome State Fault Refusal :=
  done (s.serveHead k (fun x _ => x == .delayReq) fun r s => s.delayReply k r)

/-- PDELAY_RESP_SEND (R218). -/
def execPdelayRespSend (k : Fin 8) (s : State) : Host.Outcome State Fault Refusal :=
  done (s.serveHead k (fun x _ => x == .pdelayReq) fun r s => s.pdelayReply k r)

/-- ANNOUNCE_SEND (R218). -/
def execAnnounceSend (k : Fin 8) (p : Fin 64) (index : Option (BitVec 20)) (hdr : List Byte) (buf : Word) (l : BitVec 96) (s : State) :
    Host.Outcome State Fault Refusal := done (s.announceSend k p index hdr buf.toNat l.toNat)

/-- NTP_RESPONSE (R224). -/
def execNtpResponse (k : Fin 8) (s : State) : Host.Outcome State Fault Refusal :=
  done (s.serveHead k (fun x _ => x == .ntp) fun r s => s.ntpReply k r)

/-- NTS_RESPONSE (R228). -/
def execNtsResponse (k : Fin 8) (s : State) : Host.Outcome State Fault Refusal :=
  done (s.serveHead k (fun x _ => x == .nts) fun r s => s.ntsReply k r)

/-- NTSN_RESPONSE (R226). -/
def execNtsnResponse (k : Fin 8) (s : State) : Host.Outcome State Fault Refusal :=
  done (s.serveHead k (fun x _ => x == .ntsn) fun r s => s.ntsnReply k r)

end Sys2Proof.Machine
end

