-- ==== Sys2Proof/Machine/Replace.lean ====
section
/-! DEFINITION. The replacement of a serving engine by the Warden (R275). -/

namespace Sys2Proof.Machine

/-- The steering indices of Sk. -/
def State.indicesOf (s : State) (k : Nat) : List Nat := (List.range 256).filter fun i => s.steerTo i == k

/-- The table with some indices given to owners; the other indices keep theirs. -/
def State.steerWith (s : State) (owners : List (Nat × Nat)) : Nat :=
  owners.foldl (fun t o => setBits t (4 * o.1) 4 o.2) (s.get R.SRV_STEER_ACTIVE)

/-- The Warden commits a table (R212). -/
def State.wardenSteer (s : State) (owners : List (Nat × Nat)) : State :=
  (s.set R.SRV_STEER_SHADOW 0 (s.steerWith owners)).steerCommit 1

/-- The receiver of each index that Sk gives up: another serving engine, chosen by the Warden's image (free, log entry 72). -/
def receivers (draw : Nat) (k : Nat) (mine : List Nat) : List (Nat × Nat) :=
  mine.map fun i => (i, (k + 1 + (Config.freeNat draw / 7 ^ i) % 7) % 8)

/-- What each engine takes of a share, in proportion to the indices that it receives; what rounding leaves goes to the first receiver. -/
def shares (total : Nat) (owners : List (Nat × Nat)) : List Nat :=
  let part := (List.range 8).map fun j => total * (owners.countP fun o => o.2 == j) / Nat.max 1 owners.length
  let first := match owners with
    | [] => 8
    | o :: _ => o.2
  (List.range 8).map fun j => part.getD j 0 + (if j = first then total - part.sum else 0)

/-- Shares added to the engines. -/
def State.addShares (s : State) (xs : List Nat) : State :=
  (List.finRange 8).foldl (fun s j => s.setShare j (s.srv.share[j] + xs.getD j.val 0)) s

/-- Shares taken from the engines. -/
def State.takeShares (s : State) (xs : List Nat) : State :=
  (List.finRange 8).foldl (fun s j => s.setShare j (s.srv.share[j] - xs.getD j.val 0)) s

/-- The engine of Sk. -/
def engOfS (k : Fin 8) : Fin 12 := ⟨k.val + 4, by omega⟩

/-- Whether Sk has finished its work: no descriptor, no ticket, no frame out and no report (R275, step 2). -/
def State.idleS (s : State) (k : Fin 8) : Bool :=
  let ring := k.val + 2
  s.ringHeld R.SRV_RXQ_WR R.SRV_RXQ_RD k == 0 && (s.engine (engOfS k)).tickets.isEmpty && s.ringHeld R.LCH_RING_WR R.LCH_RING_RD ring == 0
    && (List.finRange 64).all fun p =>
      let x := s.lport p
      x.timed.all (fun e => e.ring != ring) && x.imm.all (fun e => e.ring != ring) && x.reports.all (fun r => r.ring != ring)

/-- One stage of the procedure, where its condition holds. -/
def State.replaceStep (s : State) (k : Fin 8) : State :=
  let pending := (s.get R.SRV_STAT).testBit 0
  let n := engOfS k
  match s.srv.repl with
  | none =>
    if pending then s
    else
      let mine := s.indicesOf k.val
      let owners := receivers s.draw k.val mine
      let total := if mine.isEmpty then 0 else s.srv.share[k]
      let given := shares total owners
      let s := (s.drawn.wardenSteer owners).setShare k (s.srv.share[k] - total)
      let s := s.addShares given
      s.setSrv { s.srv with repl := some { k := k, mine := mine, moved := given, phase := 1, hb := 0 } }
  | some r =>
    if r.k ≠ k then s
    else if r.phase = 1 then
      if pending || !s.idleS k then s
      else
        let s := (s.dbellSet 2 (BitVec.ofNat 32 (2 ^ (k.val + 4)))).runOff n false
        s.setSrv { s.srv with repl := some { r with phase := 2 } }
    else if r.phase = 2 then
      if s.engState n == stStopped && s.flag R.ENG_STAT_MEAS_VALID n then
        let s := s.runSet n
        s.setSrv { s.srv with repl := some { r with phase := 3, hb := s.get R.ENG_HB n } }
      else s
    else if s.get R.ENG_HB n = r.hb || pending then s
    else
      let s := s.wardenSteer (r.mine.map fun i => (i, k.val))
      let s := (s.takeShares r.moved).setShare k (s.srv.share[k] + r.moved.sum)
      s.setSrv { s.srv with repl := none }

/-- ENGINE_REPLACE (R275): a serving engine E4 to E11. -/
def execEngineReplace (n : Fin 12) (s : State) : Host.Outcome State Fault Refusal :=
  done (if h : 4 ≤ n.val then s.replaceStep ⟨n.val - 4, by omega⟩ else s)

end Sys2Proof.Machine
end

