-- ==== Sys2Proof/Machine/Rows.lean ====
section
/-! DEFINITION. The commands that write or read one register word. Each names its word; what the write does is `State.busWrite32`, which
applies the rights of the master, the access types of the fields and the behaviour of the word itself. -/

namespace Sys2Proof.Machine

/-! ### MSI-X tables in BAR2 (R363, R366) -/

/-- Operand addresses from here on stand for BAR2 of the function that accesses it. -/
def bar2Base : Nat := 0x8000000

/-- A write of a word of a function's MSI-X table; messages that an unmasked vector owes go (R366). A vector control word holds its mask
bit, and the low two bits of an address read 0 (PRESUMED: the PCIe MSI-X table). -/
def State.bar2Write (s : State) (m : Master) (o : Nat) (v : Word) : State :=
  let s := { s with answer := Answer.none }
  match m with
  | .pf f =>
    if !s.answers m || o % 4 ≠ 0 || o ≥ 0x4000 then s.replyErr
    else if o < 16 * vecCount f.val then
      let k := 16 * vecBase f.val + o
      let w := if o % 16 = 12 then v &&& 1 else if o % 16 = 0 then v &&& 0xFFFFFFFC#32 else v
      State.msgScan { s with hst := { s.hst with msix := sput (w == if o % 16 = 12 then 1#32 else 0#32) k w s.hst.msix } } f.val
    else s
  | _ => s.replyErr

/-- A read of a word of BAR2: the MSI-X table, the pending bits at 0x2000, or 0. -/
def State.bar2Read (s : State) (m : Master) (o : Nat) : State :=
  match m with
  | .pf f =>
    if !s.answers m || o % 4 ≠ 0 || o ≥ 0x4000 then s.replyErr
    else if o < 16 * vecCount f.val then s.reply (s.msixWord (16 * vecBase f.val + o))
    else if o = 0x2000 then s.reply (BitVec.ofNat 32 (bits s.hst.pba.toNat (vecBase f.val) (vecCount f.val)))
    else s.reply 0
  | _ => s.replyErr

/-! ### Operands of the commands below -/

/-- ENG_CTRL of an engine as it reads. -/
def State.ctrlWord (s : State) (n : Fin 12) : Word := s.word (R.ENG_CTRL_RUN.at n) &&& 3#32

/-- PWR_GATE_CMD of a unit and an operation. -/
def gateWord (u : Fin 11) (op : Nat) : Word := BitVec.ofNat 32 (u.val + 16 * op)

/-- Word 0 of an association key (R221). -/
def saKeyAt (spp : Byte) (half : Bool) : Nat := 0x3810000 + 0x80 * spp.toNat + (if half then 0x40 else 0x20)

/-- A write of ERESET; `beats` tells how far the burst in progress had come (R393). -/
def State.eresetWrite (s : State) (m : Master) (n : Fin 12) (beats : Option Nat) : State :=
  let a := R.ENG_CTRL_RUN.at n
  let v := s.ctrlWord n ||| 8
  if s.answers m && s.rights m a == .rw && s.writeMask m a != 0 then
    State.irqFollow (State.engCtrl { s with answer := Answer.none } m n v beats) s
  else s.busWrite32 m a v

/-! ### Meanings -/

/-- REGISTER_WRITE (R8 to R11, R364). -/
def execRegisterWrite (m : Master) (addr : Nat) (v : Word) (s : State) : Host.Outcome State Fault Refusal :=
  done (if addr ≥ bar2Base then s.bar2Write m (addr - bar2Base) v else s.busWrite32 m addr v)

/-- MULTIWORD_LATCH_READ (R9): a read of a register word. -/
def execMultiwordLatchRead (m : Master) (addr : Nat) (s : State) : Host.Outcome State Fault Refusal :=
  done (if addr ≥ bar2Base then s.bar2Read m (addr - bar2Base) else s.busRead32 m addr)

/-- REGISTER_BAD_ACCESS (R8): the error response, and no effect. -/
def execRegisterBadAccess (_m : Master) (_addr : Nat) (_write : Bool) (s : State) : Host.Outcome State Fault Refusal :=
  done s.replyErr

/-- HOST_UNMAPPED_ACCESS (R26, R364): an access to an address that is mapped is not this event. -/
def execHostUnmappedAccess (f : Fin 4) (addr : Nat) (write : Bool) (s : State) : Host.Outcome State Fault Refusal :=
  done (if s.answers (.pf f) && s.rights (.pf f) addr == .unmapped then
      (if write then State.unmappedAt { s with answer := Answer.none } else s.unmappedAt.replyErr)
    else if s.answers (.pf f) then s else s.replyErr)

/-- HOST_RO_WRITE (R364): the write of a function; where a field of the word is writable, that write takes effect. -/
def execHostRoWrite (f : Fin 4) (addr : Nat) (v : Word) (s : State) : Host.Outcome State Fault Refusal := done (s.busWrite32 (.pf f) addr v)

/-- UNGATE_CLOCKS_STABLE (R410): GATED clears, and the enabling writes that waited for the unit take effect. -/
def execUngateClocksStable (u : Fin 11) (s : State) : Host.Outcome State Fault Refusal :=
  done (
    if s.pwr.ungating.any (· == u.val) then
      let (mine, rest) := s.pwr.enables.partition fun e => e.1 == u.val
      let s := (State.clocksStable { s with pwr := { s.pwr with enables := rest } } u.val)
      mine.foldl (fun s e => s.valueWrite .hw e.2.1 e.2.2 0xFFFFFFFF) s
    else s)

/-- SN_LOAD_WRITE (R51). -/
def execSnLoadWrite (m : Master) (v : Word) (s : State) : Host.Outcome State Fault Refusal := done (s.busWrite32 m (R.KNL_SN_LOAD3.at 0) v)

/-- MBX_CLAIM (R63). -/
def execMbxClaim (m : Master) (s : State) : Host.Outcome State Fault Refusal := done (s.busRead32 m (R.KNL_MBX_CLAIM.at 0))

/-- MBX_GO_WRITE (R63). -/
def execMbxGoWrite (m : Master) (v : Word) (s : State) : Host.Outcome State Fault Refusal := done (s.busWrite32 m (R.KNL_MBX_GO.at 0) v)

/-- MBX_REL_WRITE (R63). -/
def execMbxRelWrite (m : Master) (v : Word) (s : State) : Host.Outcome State Fault Refusal := done (s.busWrite32 m (R.KNL_MBX_REL.at 0) v)

/-- AUDIT_ACK_WRITE (R74). -/
def execAuditAckWrite (m : Master) (v : Word) (s : State) : Host.Outcome State Fault Refusal := done (s.busWrite32 m (R.KNL_AUDIT_ACK.at 0) v)

/-- RES_RELEASE (R145). -/
def execResRelease (m : Master) (s : State) : Host.Outcome State Fault Refusal :=
  done (s.busWrite32 m (R.GNS_CTRL_RES_RELEASE.at 0) (s.word (R.GNS_CTRL_RES_RELEASE.at 0) ||| 4))

/-- GNS_SNAP_DONE (R152). -/
def execGnsSnapDone (m : Master) (v : Word) (s : State) : Host.Outcome State Fault Refusal := done (s.busWrite32 m (R.GNS_SNAP_DONE_SLOT.at 0) v)

/-- GNS_POS_WRITE (R156). -/
def execGnsPosWrite (m : Master) (k : Fin 6) (v : Word) (s : State) : Host.Outcome State Fault Refusal :=
  done (s.busWrite32 m (R.GNS_POS.at 0 + 4 * k.val) v)

/-- PRT_CNT_CLR (R187). -/
def execPrtCntClr (m : Master) (p : Fin 64) (v : Word) (s : State) : Host.Outcome State Fault Refusal := done (s.busWrite32 m (R.PRT_CNT_CLR.at p) v)

/-- LCH_HOST_SUBMIT (R190). -/
def execLchHostSubmit (m : Master) (v : Word) (s : State) : Host.Outcome State Fault Refusal := done (s.busWrite32 m (R.LCH_HSUB.at 0 + 44) v)

/-- MASK_COMMIT_WRITE (R192). -/
def execMaskCommitWrite (m : Master) (p : Fin 64) (v : Word) (s : State) : Host.Outcome State Fault Refusal :=
  done (s.busWrite32 m (R.LCH_MASK_COMMIT.at p) v)

/-- STEER_COMMIT_WRITE (R212). -/
def execSteerCommitWrite (m : Master) (v : Word) (s : State) : Host.Outcome State Fault Refusal := done (s.busWrite32 m (R.SRV_STEER_COMMIT.at 0) v)

/-- SRV_POOL_RET (R209). -/
def execSrvPoolRet (m : Master) (v : Word) (s : State) : Host.Outcome State Fault Refusal := done (s.busWrite32 m (R.SRV_POOL_RET.at 0) v)

/-- COOKIE_ROT_ARM (R230). -/
def execCookieRotArm (m : Master) (v : Word) (s : State) : Host.Outcome State Fault Refusal := done (s.busWrite32 m (R.SRV_COOKIE_ROT.at 0 + 4) v)

/-- SA_KEY_COMMIT (R221). -/
def execSaKeyCommit (m : Master) (spp : Byte) (half : Bool) (v : Word) (s : State) : Host.Outcome State Fault Refusal :=
  done (s.busWrite32 m (saKeyAt spp half + 28) v)

/-- ENG_RUN_SET (R260). -/
def execEngRunSet (m : Master) (n : Fin 12) (s : State) : Host.Outcome State Fault Refusal :=
  done (s.busWrite32 m (R.ENG_CTRL_RUN.at n) (s.ctrlWord n ||| 1))

/-- ENG_RUN_CLEAR (R260). -/
def execEngRunClear (m : Master) (n : Fin 12) (s : State) : Host.Outcome State Fault Refusal :=
  done (s.busWrite32 m (R.ENG_CTRL_RUN.at n) (s.ctrlWord n &&& 2))

/-- ENG_GATE_SET (R260). -/
def execEngGateSet (m : Master) (n : Fin 12) (s : State) : Host.Outcome State Fault Refusal :=
  done (s.busWrite32 m (R.ENG_CTRL_RUN.at n) (s.ctrlWord n ||| 2))

/-- ENG_GATE_CLEAR (R260). -/
def execEngGateClear (m : Master) (n : Fin 12) (s : State) : Host.Outcome State Fault Refusal :=
  done (s.busWrite32 m (R.ENG_CTRL_RUN.at n) (s.ctrlWord n &&& 1))

/-- LOAD_DONE (R273). -/
def execLoadDone (m : Master) (n : Fin 12) (s : State) : Host.Outcome State Fault Refusal :=
  done (s.busWrite32 m (R.ENG_CTRL_RUN.at n) (s.ctrlWord n ||| 4))

/-- ERESET (R260). -/
def execEreset (m : Master) (n : Fin 12) (beats : Option Nat) (s : State) : Host.Outcome State Fault Refusal := done (s.eresetWrite m n beats)

/-- IMEM_WRITE (R261). -/
def execImemWrite (m : Master) (n : Fin 12) (off : Nat) (v : Word) (s : State) : Host.Outcome State Fault Refusal :=
  done (s.busWrite32 m (R.ENG_CTRL_RUN.at n + off % 0x100000) v)

/-- ENG_DBELL_WRITE (R264). -/
def execEngDbellWrite (m : Master) (n : Fin 12) (v : Word) (s : State) : Host.Outcome State Fault Refusal :=
  done (s.busWrite32 m (R.ENG_DBELL.at n) v)

/-- ENG_WDOG_WRITE (R278). -/
def execEngWdogWrite (m : Master) (n : Fin 12) (v : Word) (s : State) : Host.Outcome State Fault Refusal := done (s.busWrite32 m (R.ENG_WDOG.at n) v)

/-- SYN_COMMIT_WRITE (R309). -/
def execSynCommitWrite (m : Master) (k : Fin 4) (v : Word) (s : State) : Host.Outcome State Fault Refusal :=
  done (s.busWrite32 m (R.SYN_SP_COMMIT_AT.at k) v)

/-- OUT_EN_WRITE (R311). -/
def execOutEnWrite (m : Master) (j : Fin 16) (v : Word) (s : State) : Host.Outcome State Fault Refusal := done (s.busWrite32 m (R.SYN_OUT_EN.at j) v)

/-- PACK_KEY_LOAD (R327). -/
def execPackKeyLoad (m : Master) (v : Word) (s : State) : Host.Outcome State Fault Refusal := done (s.busWrite32 m (R.PCK_AUTH_SLOT.at 0) v)

/-- BRC_UNMUTE (R347). -/
def execBrcUnmute (m : Master) (v : Word) (s : State) : Host.Outcome State Fault Refusal := done (s.busWrite32 m (R.BRC_CTRL_UNMUTE.at 0) (v ||| 1))

/-- BRC_MUTE (R349). -/
def execBrcMute (m : Master) (v : Word) (s : State) : Host.Outcome State Fault Refusal := done (s.busWrite32 m (R.BRC_CTRL_MUTE.at 0) (v ||| 2))

/-- ADR_START_WRITE (R355). -/
def execAdrStartWrite (m : Master) (v : Word) (s : State) : Host.Outcome State Fault Refusal := done (s.busWrite32 m (R.ADR_START2_PORTS.at 0) v)

/-- ADR_CS_COMMIT (R356). -/
def execAdrCsCommit (m : Master) (n : Fin 4) (v : Word) (s : State) : Host.Outcome State Fault Refusal :=
  done (s.busWrite32 m (R.ADR_CS_COMMIT.at n) v)

/-- FCH_HEAD_WRITE (R372). -/
def execFchHeadWrite (m : Master) (c : Fin 16) (v : Word) (s : State) : Host.Outcome State Fault Refusal :=
  done (s.busWrite32 m (R.FCH_CH_HEAD.at c + 4) v)

/-- FCH_ABORT (R379). -/
def execFchAbort (m : Master) (c : Fin 16) (s : State) : Host.Outcome State Fault Refusal := done (s.busWrite32 m (R.FCH_CH_CTRL_ABORT.at c) 1)

/-- FCH_CLEAR (R371). -/
def execFchClear (m : Master) (c : Fin 16) (s : State) : Host.Outcome State Fault Refusal := done (s.busWrite32 m (R.FCH_CH_CTRL_ABORT.at c) 2)

/-- FCH_FLUSH (R371). -/
def execFchFlush (m : Master) (c : Fin 16) (s : State) : Host.Outcome State Fault Refusal := done (s.busWrite32 m (R.FCH_CH_CTRL_ABORT.at c) 4)

/-- IRQ_PEND_CLEAR (R366). -/
def execIrqPendClear (m : Master) (w : Fin 2) (v : Word) (s : State) : Host.Outcome State Fault Refusal :=
  done (s.busWrite32 m (R.HST_IRQ_PEND.at 0 + 4 * w.val) v)

/-- HST_H_DBELL_WRITE (R366). -/
def execHstHDbellWrite (m : Master) (v : Word) (s : State) : Host.Outcome State Fault Refusal := done (s.busWrite32 m (R.HST_H_DBELL.at 0) v)

/-- CLK_ROOT_SEL_WRITE (R400). -/
def execClkRootSelWrite (m : Master) (v : Word) (s : State) : Host.Outcome State Fault Refusal := done (s.busWrite32 m (R.CLK_ROOT_SEL.at 0) v)

/-- GATE (R408). -/
def execPwrGate (m : Master) (u : Fin 11) (s : State) : Host.Outcome State Fault Refusal :=
  done (s.busWrite32 m (R.PWR_GATE_CMD_UNIT.at 0) (gateWord u 0))

/-- UNGATE (R410). -/
def execPwrUngate (m : Master) (u : Fin 11) (s : State) : Host.Outcome State Fault Refusal :=
  done (s.busWrite32 m (R.PWR_GATE_CMD_UNIT.at 0) (gateWord u 1))

/-- FORCE (R409). -/
def execPwrForce (m : Master) (u : Fin 11) (s : State) : Host.Outcome State Fault Refusal :=
  done (s.busWrite32 m (R.PWR_GATE_CMD_UNIT.at 0) (gateWord u 2))

/-- UNIT_BLOCK_RESET (R409). -/
def execUnitBlockReset (m : Master) (u : Fin 11) (s : State) : Host.Outcome State Fault Refusal :=
  done (s.busWrite32 m (R.PWR_GATE_CMD_UNIT.at 0) (gateWord u 3))

/-- DOZE_EN_WRITE (R413). -/
def execDozeEnWrite (m : Master) (v : Word) (s : State) : Host.Outcome State Fault Refusal := done (s.busWrite32 m (R.PWR_CTRL_DOZE_EN.at 0) v)

/-- DEEP_REQUEST (R415). -/
def execDeepRequest (m : Master) (v : Word) (s : State) : Host.Outcome State Fault Refusal := done (s.busWrite32 m (R.PWR_DEEP.at 0) v)

/-- PWR_CHIP_RESET (R416). -/
def execPwrChipReset (m : Master) (v : Word) (s : State) : Host.Outcome State Fault Refusal := done (s.busWrite32 m (R.PWR_CHIP_RESET.at 0) v)

/-- FLT_RAISE_WRITE (R454). -/
def execFltRaiseWrite (m : Master) (v : Word) (s : State) : Host.Outcome State Fault Refusal := done (s.busWrite32 m (R.FLT_RAISE.at 0) v)

/-- FLT_STATUS_CLEAR (R460). -/
def execFltStatusClear (m : Master) (w : Fin 8) (v : Word) (s : State) : Host.Outcome State Fault Refusal :=
  done (s.busWrite32 m (R.FLT_STATUS.at w) v)

/-- FLT_REACT_WRITE (R456). -/
def execFltReactWrite (m : Master) (k : BitVec 8) (v : Word) (s : State) : Host.Outcome State Fault Refusal :=
  done (s.busWrite32 m (R.FLT_REACT_REACT.at k.toNat) v)

/-- GUARD_RESTART (R461). -/
def execGuardRestart (m : Master) (s : State) : Host.Outcome State Fault Refusal := done (s.busWrite32 m (R.FLT_GUARD_CTRL.at 0) 1)

/-- OBS_SNAP (R468). -/
def execObsSnapWrite (m : Master) (v : Word) (s : State) : Host.Outcome State Fault Refusal := done (s.busWrite32 m (R.OBS_SNAP.at 0) v)

/-- OBS_CNT_SEL_WRITE (R467). -/
def execObsCntSelWrite (m : Master) (k : Fin 32) (v : Word) (s : State) : Host.Outcome State Fault Refusal :=
  done (s.busWrite32 m (R.OBS_CNT_SEL_EVENT.at k) v)

/-- OBS_CNT_WRITE (R467). -/
def execObsCntWrite (m : Master) (k : Fin 32) (v : Word) (s : State) : Host.Outcome State Fault Refusal :=
  done (s.busWrite32 m (R.OBS_CNT.at k + 4) v)

end Sys2Proof.Machine
end

