-- ==== Sys2Proof/Machine/Tick.lean ====
section
/-! DEFINITION. One tick of KPLL (R29, R50): the count, and what other rules tie to the tick. -/

namespace Sys2Proof.Machine

/-- The level that an occupancy number shows (R466). -/
def State.occupancy (s : State) (num : Nat) : Nat :=
  let l := num % 1024
  match num / 1024 with
  | 0x01 => s.get R.ENG_STAT_TICKETS (l / 16)
  | 0x02 => s.get R.PRT_STAT_PAUSED (l / 16)
  | 0x03 =>
    if h : l / 16 < 64 then
      let x := s.lport ⟨l / 16, h⟩
      if l % 16 = 8 then x.timed.length else if l % 16 = 9 then x.imm.length else x.reports.length
    else 0
  | 0x04 => s.ringHeld R.LCH_RING_WR R.LCH_RING_RD (l / 4)
  | 0x05 =>
    if l < 8 then s.ringHeld R.SRV_RXQ_WR R.SRV_RXQ_RD l
    else if 24 ≤ l && l < 32 then s.unitDepth (l - 24)
    else if 32 ≤ l && l < 40 then s.get R.SRV_AU_STAT_CTX_USED (l - 32)
    else s.srv.free.length
  | 0x06 =>
    (s.mtx.reqs.countP fun (r : MReq) => r.master.val == l / 8) + (s.mtx.resps.countP fun (r : MResp) => r.master.val == l / 8 && !r.dead)
  | 0x07 => if h : l / 4 < 16 then b2n (s.chReads ⟨l / 4, h⟩) else 0
  | _ => 0

/-- A counter that follows an occupancy counts one peripheral cycle (R467). -/
def State.occCount (s : State) (k : Nat) : State :=
  let num := s.get R.OBS_CNT_SEL_EVENT k
  let mode := s.get R.OBS_CNT_SEL_MODE k
  if s.flag R.OBS_CNT_SEL_ENABLE k && mode != 0 && obsKind num == some true then
    let v := s.occupancy num
    let t := s.get R.OBS_CNT_SEL_THRESH k
    s.obsAdd k (if mode = 1 then b2n (decide (v ≥ t)) else if mode = 2 then b2n (decide (v < t)) else v)
  else s

/-- A tick: the count first; then the TDC channels, fields written with ENSY, a save's capture, readers whose DEGRADED ends, and on every
fourth tick, a peripheral cycle, the counters of occupancies. -/
def State.tick (s : State) : State :=
  if !s.time.running then s
  else
    let s := s.tickOn.tdcTick.ensyTick.saveCapture
    let s := if s.time.readerDegr.any (· == s.time.tick) then s.degrSync else s
    if s.time.tick % 4 = 0 then s.forN 32 fun k s => s.occCount k else s

/-- KPLL_TICK (R29, R50). -/
def execKpllTick (s : State) : Host.Outcome State Fault Refusal := done s.tick

end Sys2Proof.Machine
end

