-- ==== Sys2Proof/Machine/Dispatch.lean ====
section
/-! DEFINITION. One arm per command: the meaning it calls. -/

namespace Sys2Proof.Machine

/-- The effect of a command on everything but the queue. -/
def exec (i : Instr) (s : State) : Host.Outcome State Fault Refusal :=
  match i with
  | .coldReset kspiQuad laneRev => Sys2Proof.Machine.execColdReset kspiQuad laneRev s
  | .chipReset cause => Sys2Proof.Machine.execChipReset cause s
  | .blockReset u => Sys2Proof.Machine.execBlockReset u s
  | .engineReset n beats => Sys2Proof.Machine.execEngineReset n beats s
  | .powerOff => Sys2Proof.Machine.execPowerOff s
  | .registerWrite m addr v => Sys2Proof.Machine.execRegisterWrite m addr v s
  | .multiwordLatchRead m addr => Sys2Proof.Machine.execMultiwordLatchRead m addr s
  | .registerBadAccess m addr write => Sys2Proof.Machine.execRegisterBadAccess m addr write s
  | .hostUnmappedAccess f addr write => Sys2Proof.Machine.execHostUnmappedAccess f addr write s
  | .hostRoWrite f addr v => Sys2Proof.Machine.execHostRoWrite f addr v s
  | .bar4Access f off len write => Sys2Proof.Machine.execBar4Access f off len write s
  | .kpllFirstLock edges => Sys2Proof.Machine.execKpllFirstLock edges s
  | .updateEffectiveTick => Sys2Proof.Machine.execUpdateEffectiveTick s
  | .endOfSlewUpdate => Sys2Proof.Machine.execEndOfSlewUpdate s
  | .stepSnEffect => Sys2Proof.Machine.execStepSnEffect s
  | .handoverTick => Sys2Proof.Machine.execHandoverTick s
  | .csetEccError badA badB => Sys2Proof.Machine.execCsetEccError badA badB s
  | .snLoadWrite m v => Sys2Proof.Machine.execSnLoadWrite m v s
  | .snLoadEffect => Sys2Proof.Machine.execSnLoadEffect s
  | .tbusFullWordCheck reader upset => Sys2Proof.Machine.execTbusFullWordCheck reader upset s
  | .boundaryEvent => Sys2Proof.Machine.execBoundaryEvent s
  | .leapFlagSet => Sys2Proof.Machine.execLeapFlagSet s
  | .leapSecondEvent => Sys2Proof.Machine.execLeapSecondEvent s
  | .kennelBoot => Sys2Proof.Machine.execKennelBoot s
  | .mbxClaim m => Sys2Proof.Machine.execMbxClaim m s
  | .mbxGoWrite m v => Sys2Proof.Machine.execMbxGoWrite m v s
  | .mbxRelWrite m v => Sys2Proof.Machine.execMbxRelWrite m v s
  | .claimExpiry b => Sys2Proof.Machine.execClaimExpiry b s
  | .doneExpiry b => Sys2Proof.Machine.execDoneExpiry b s
  | .authLockExpiry => Sys2Proof.Machine.execAuthLockExpiry s
  | .mbxStatus => Sys2Proof.Machine.execMbxStatus s
  | .mbxStage kspiOk => Sys2Proof.Machine.execMbxStage kspiOk s
  | .mbxChallenge => Sys2Proof.Machine.execMbxChallenge s
  | .mbxSetParam kspiOk => Sys2Proof.Machine.execMbxSetParam kspiOk s
  | .mbxSetLatency kspiOk => Sys2Proof.Machine.execMbxSetLatency kspiOk s
  | .mbxCommitFw kspiOk => Sys2Proof.Machine.execMbxCommitFw kspiOk s
  | .mbxCommitParam kspiOk => Sys2Proof.Machine.execMbxCommitParam kspiOk s
  | .mbxSeal => Sys2Proof.Machine.execMbxSeal s
  | .mbxUnseal => Sys2Proof.Machine.execMbxUnseal s
  | .mbxStep => Sys2Proof.Machine.execMbxStep s
  | .mbxUtc => Sys2Proof.Machine.execMbxUtc s
  | .mbxTestMode => Sys2Proof.Machine.execMbxTestMode s
  | .mbxKpairSelect => Sys2Proof.Machine.execMbxKpairSelect s
  | .auditAckWrite m v => Sys2Proof.Machine.execAuditAckWrite m v s
  | .digest n a b => Sys2Proof.Machine.execDigest n a b s
  | .kpairCompare => Sys2Proof.Machine.execKpairCompare s
  | .kpairRecomputeEnd => Sys2Proof.Machine.execKpairRecomputeEnd s
  | .kpairKatResult ran0 pass0 ran1 pass1 => Sys2Proof.Machine.execKpairKatResult ran0 pass0 ran1 pass1 s
  | .fwTrialEnd katPass => Sys2Proof.Machine.execFwTrialEnd katPass s
  | .refEdge id lc width => Sys2Proof.Machine.execRefEdge id lc width s
  | .measInletRecord => Sys2Proof.Machine.execMeasInletRecord s
  | .refLossTimeout id => Sys2Proof.Machine.execRefLossTimeout id s
  | .oscEdgeSeen k lc => Sys2Proof.Machine.execOscEdgeSeen k lc s
  | .oscLossTimeout k => Sys2Proof.Machine.execOscLossTimeout k s
  | .oscWarmupEnd k => Sys2Proof.Machine.execOscWarmupEnd k s
  | .oscExcludeEnd k => Sys2Proof.Machine.execOscExcludeEnd k s
  | .tempStaleTimeout k => Sys2Proof.Machine.execTempStaleTimeout k s
  | .servoUpdate residPs bounds est => Sys2Proof.Machine.execServoUpdate residPs bounds est s
  | .holdoverUpdate => Sys2Proof.Machine.execHoldoverUpdate s
  | .ensYBootstrap => Sys2Proof.Machine.execEnsYBootstrap s
  | .bootSnAlign => Sys2Proof.Machine.execBootSnAlign s
  | .bootWaitExpiry => Sys2Proof.Machine.execBootWaitExpiry s
  | .tdcEdge src falling width codes => Sys2Proof.Machine.execTdcEdge src falling width codes s
  | .tdcRecordAdmit => Sys2Proof.Machine.execTdcRecordAdmit s
  | .interpRoleSwap c => Sys2Proof.Machine.execInterpRoleSwap c s
  | .randomEdge codes => Sys2Proof.Machine.execRandomEdge codes s
  | .calTableComplete c ib => Sys2Proof.Machine.execCalTableComplete c ib s
  | .tbPresenceLoss => Sys2Proof.Machine.execTbPresenceLoss s
  | .tbFreqWindow count => Sys2Proof.Machine.execTbFreqWindow count s
  | .tbRebuildStart => Sys2Proof.Machine.execTbRebuildStart s
  | .rngRateCheck rate => Sys2Proof.Machine.execRngRateCheck rate s
  | .rngFaultPersist => Sys2Proof.Machine.execRngFaultPersist s
  | .gsiClkLoss => Sys2Proof.Machine.execGsiClkLoss s
  | .gsiClkReturn => Sys2Proof.Machine.execGsiClkReturn s
  | .gnssMsStrobe => Sys2Proof.Machine.execGnssMsStrobe s
  | .fePowerUp => Sys2Proof.Machine.execFePowerUp s
  | .gnssRegionWake => Sys2Proof.Machine.execGnssRegionWake s
  | .burstStart => Sys2Proof.Machine.execBurstStart s
  | .correlatorDump samples => Sys2Proof.Machine.execCorrelatorDump samples s
  | .burstEnd => Sys2Proof.Machine.execBurstEnd s
  | .resRelease m => Sys2Proof.Machine.execResRelease m s
  | .snapCapture samples => Sys2Proof.Machine.execSnapCapture samples s
  | .gnsSnapDone m v => Sys2Proof.Machine.execGnsSnapDone m v s
  | .gnsPosWrite m k v => Sys2Proof.Machine.execGnsPosWrite m k v s
  | .scoutSolution sats sol => Sys2Proof.Machine.execScoutSolution sats sol s
  | .osnmaVerify ch m => Sys2Proof.Machine.execOsnmaVerify ch m s
  | .dataSession heard => Sys2Proof.Machine.execDataSession heard s
  | .surveyEnd => Sys2Proof.Machine.execSurveyEnd s
  | .portCfgApply x => Sys2Proof.Machine.execPortCfgApply x s
  | .linkSignalDetect x => Sys2Proof.Machine.execLinkSignalDetect x s
  | .linkPcsLock x slip an10 => Sys2Proof.Machine.execLinkPcsLock x slip an10 s
  | .linkTrainTimeout x => Sys2Proof.Machine.execLinkTrainTimeout x s
  | .linkSettleDone x phase => Sys2Proof.Machine.execLinkSettleDone x phase s
  | .linkLoss x => Sys2Proof.Machine.execLinkLoss x s
  | .shiftTimeout p => Sys2Proof.Machine.execShiftTimeout p s
  | .frameReceive p bytes fcsOk codeErr phase bitIdx => Sys2Proof.Machine.execFrameReceive p bytes fcsOk codeErr phase bitIdx s
  | .prpEntryExpire j src seq => Sys2Proof.Machine.execPrpEntryExpire j src seq s
  | .prpSupervision j => Sys2Proof.Machine.execPrpSupervision j s
  | .xcompUpdate g rtt => Sys2Proof.Machine.execXcompUpdate g rtt s
  | .regionSkewCheck g temp vdd wordClk => Sys2Proof.Machine.execRegionSkewCheck g temp vdd wordClk s
  | .recalStart x => Sys2Proof.Machine.execRecalStart x s
  | .recalEnd x sum => Sys2Proof.Machine.execRecalEnd x sum s
  | .recalStale x => Sys2Proof.Machine.execRecalStale x s
  | .pauseWatchdog p => Sys2Proof.Machine.execPauseWatchdog p s
  | .pauseIgnoreEnd p => Sys2Proof.Machine.execPauseIgnoreEnd p s
  | .txUnderrun p => Sys2Proof.Machine.execTxUnderrun p s
  | .speedShiftStart p util => Sys2Proof.Machine.execSpeedShiftStart p util s
  | .prtCntClr m p v => Sys2Proof.Machine.execPrtCntClr m p v s
  | .lchHostSubmit m v => Sys2Proof.Machine.execLchHostSubmit m v s
  | .frameReady p => Sys2Proof.Machine.execFrameReady p s
  | .frameLaunch p q phase bitIdx => Sys2Proof.Machine.execFrameLaunch p q phase bitIdx s
  | .frameLate p => Sys2Proof.Machine.execFrameLate p s
  | .immediateLate p => Sys2Proof.Machine.execImmediateLate p s
  | .frameTxEnd p => Sys2Proof.Machine.execFrameTxEnd p s
  | .reportMove p => Sys2Proof.Machine.execReportMove p s
  | .scheduleCycleBoundary => Sys2Proof.Machine.execScheduleCycleBoundary s
  | .maskCommitWrite m p v => Sys2Proof.Machine.execMaskCommitWrite m p v s
  | .steerCommitWrite m v => Sys2Proof.Machine.execSteerCommitWrite m v s
  | .srvPoolRet m v => Sys2Proof.Machine.execSrvPoolRet m v s
  | .ntsRequestCheck u => Sys2Proof.Machine.execNtsRequestCheck u s
  | .assistLookup => Sys2Proof.Machine.execAssistLookup s
  | .assistInsert => Sys2Proof.Machine.execAssistInsert s
  | .assistDelete => Sys2Proof.Machine.execAssistDelete s
  | .assistPin => Sys2Proof.Machine.execAssistPin s
  | .assistUnpin => Sys2Proof.Machine.execAssistUnpin s
  | .assistSetDeny => Sys2Proof.Machine.execAssistSetDeny s
  | .assistClearDeny => Sys2Proof.Machine.execAssistClearDeny s
  | .contextExpiry u c => Sys2Proof.Machine.execContextExpiry u c s
  | .aeadSivSeal n num => Sys2Proof.Machine.execAeadSivSeal n num s
  | .aeadSivOpen n num => Sys2Proof.Machine.execAeadSivOpen n num s
  | .aeadHmac n num => Sys2Proof.Machine.execAeadHmac n num s
  | .aeadCmac n num => Sys2Proof.Machine.execAeadCmac n num s
  | .aeadMint n num => Sys2Proof.Machine.execAeadMint n num s
  | .aeadFree n num => Sys2Proof.Machine.execAeadFree n num s
  | .jobCrc32 n num => Sys2Proof.Machine.execJobCrc32 n num s
  | .jobCrc32c n num => Sys2Proof.Machine.execJobCrc32c n num s
  | .jobSha256 n num => Sys2Proof.Machine.execJobSha256 n num s
  | .jobSiphash64 n num => Sys2Proof.Machine.execJobSiphash64 n num s
  | .jobSiphash128 n num => Sys2Proof.Machine.execJobSiphash128 n num s
  | .ticketComplete n num => Sys2Proof.Machine.execTicketComplete n num s
  | .cookieRotArm m v => Sys2Proof.Machine.execCookieRotArm m v s
  | .cookieRotation => Sys2Proof.Machine.execCookieRotation s
  | .hostMint => Sys2Proof.Machine.execHostMint s
  | .saKeyCommit m spp half v => Sys2Proof.Machine.execSaKeyCommit m spp half v s
  | .grantRequest k => Sys2Proof.Machine.execGrantRequest k s
  | .grantCancel k => Sys2Proof.Machine.execGrantCancel k s
  | .grantExpiry index => Sys2Proof.Machine.execGrantExpiry index s
  | .hostRecordCancel k p hdr buf => Sys2Proof.Machine.execHostRecordCancel k p hdr buf s
  | .clientSweep k => Sys2Proof.Machine.execClientSweep k s
  | .syncSend k p index hdr buf l => Sys2Proof.Machine.execSyncSend k p index hdr buf l s
  | .followUpSend k buf => Sys2Proof.Machine.execFollowUpSend k buf s
  | .delayRespSend k => Sys2Proof.Machine.execDelayRespSend k s
  | .pdelayRespSend k => Sys2Proof.Machine.execPdelayRespSend k s
  | .announceSend k p index hdr buf l => Sys2Proof.Machine.execAnnounceSend k p index hdr buf l s
  | .ntpResponse k => Sys2Proof.Machine.execNtpResponse k s
  | .ntsResponse k => Sys2Proof.Machine.execNtsResponse k s
  | .ntsnResponse k => Sys2Proof.Machine.execNtsnResponse k s
  | .upstreamExchange p x => Sys2Proof.Machine.execUpstreamExchange p x s
  | .engineReplace n => Sys2Proof.Machine.execEngineReplace n s
  | .engRunSet m n => Sys2Proof.Machine.execEngRunSet m n s
  | .engRunClear m n => Sys2Proof.Machine.execEngRunClear m n s
  | .engStopComplete n => Sys2Proof.Machine.execEngStopComplete n s
  | .engGateSet m n => Sys2Proof.Machine.execEngGateSet m n s
  | .engGateClear m n => Sys2Proof.Machine.execEngGateClear m n s
  | .loadDone m n => Sys2Proof.Machine.execLoadDone m n s
  | .measurementDone n => Sys2Proof.Machine.execMeasurementDone n s
  | .ereset m n beats => Sys2Proof.Machine.execEreset m n beats s
  | .imemWrite m n off v => Sys2Proof.Machine.execImemWrite m n off v s
  | .engDbellWrite m n v => Sys2Proof.Machine.execEngDbellWrite m n v s
  | .engWdogWrite m n v => Sys2Proof.Machine.execEngWdogWrite m n v s
  | .engWdogExpiry n => Sys2Proof.Machine.execEngWdogExpiry n s
  | .engineWake n => Sys2Proof.Machine.execEngineWake n s
  | .storeBuserr n => Sys2Proof.Machine.execStoreBuserr n s
  | .matrixGrant t => Sys2Proof.Machine.execMatrixGrant t s
  | .matrixResponse m t => Sys2Proof.Machine.execMatrixResponse m t s
  | .writeBufferDrain n => Sys2Proof.Machine.execWriteBufferDrain n s
  | .engineStallRelease n => Sys2Proof.Machine.execEngineStallRelease n s
  | .mtxTimeout t => Sys2Proof.Machine.execMtxTimeout t s
  | .add n a b c setFlags => Sys2Proof.Machine.execAdd n a b c setFlags s
  | .sub n a b c setFlags => Sys2Proof.Machine.execSub n a b c setFlags s
  | .addc n a b c setFlags => Sys2Proof.Machine.execAddc n a b c setFlags s
  | .subb n a b c setFlags => Sys2Proof.Machine.execSubb n a b c setFlags s
  | .and n a b c setFlags => Sys2Proof.Machine.execAnd n a b c setFlags s
  | .or n a b c setFlags => Sys2Proof.Machine.execOr n a b c setFlags s
  | .xor n a b c setFlags => Sys2Proof.Machine.execXor n a b c setFlags s
  | .andn n a b c setFlags => Sys2Proof.Machine.execAndn n a b c setFlags s
  | .sll n a b c setFlags => Sys2Proof.Machine.execSll n a b c setFlags s
  | .srl n a b c setFlags => Sys2Proof.Machine.execSrl n a b c setFlags s
  | .sra n a b c setFlags => Sys2Proof.Machine.execSra n a b c setFlags s
  | .ror n a b c setFlags => Sys2Proof.Machine.execRor n a b c setFlags s
  | .mul n a b c setFlags => Sys2Proof.Machine.execMul n a b c setFlags s
  | .mulhu n a b c setFlags => Sys2Proof.Machine.execMulhu n a b c setFlags s
  | .mulhs n a b c setFlags => Sys2Proof.Machine.execMulhs n a b c setFlags s
  | .divu n a b c setFlags => Sys2Proof.Machine.execDivu n a b c setFlags s
  | .divs n a b c setFlags => Sys2Proof.Machine.execDivs n a b c setFlags s
  | .remu n a b c setFlags => Sys2Proof.Machine.execRemu n a b c setFlags s
  | .rems n a b c setFlags => Sys2Proof.Machine.execRems n a b c setFlags s
  | .mins n a b c setFlags => Sys2Proof.Machine.execMins n a b c setFlags s
  | .maxs n a b c setFlags => Sys2Proof.Machine.execMaxs n a b c setFlags s
  | .minu n a b c setFlags => Sys2Proof.Machine.execMinu n a b c setFlags s
  | .maxu n a b c setFlags => Sys2Proof.Machine.execMaxu n a b c setFlags s
  | .bswap16 n a b setFlags => Sys2Proof.Machine.execBswap16 n a b setFlags s
  | .bswap32 n a b setFlags => Sys2Proof.Machine.execBswap32 n a b setFlags s
  | .bswap64 n a b setFlags => Sys2Proof.Machine.execBswap64 n a b setFlags s
  | .clz n a b setFlags => Sys2Proof.Machine.execClz n a b setFlags s
  | .popc n a b setFlags => Sys2Proof.Machine.execPopc n a b setFlags s
  | .slt n a b c setFlags => Sys2Proof.Machine.execSlt n a b c setFlags s
  | .sltu n a b c setFlags => Sys2Proof.Machine.execSltu n a b c setFlags s
  | .sext32 n a b setFlags => Sys2Proof.Machine.execSext32 n a b setFlags s
  | .zext32 n a b setFlags => Sys2Proof.Machine.execZext32 n a b setFlags s
  | .addi n a b imm => Sys2Proof.Machine.execAddi n a b imm s
  | .andi n a b imm => Sys2Proof.Machine.execAndi n a b imm s
  | .ori n a b imm => Sys2Proof.Machine.execOri n a b imm s
  | .xori n a b imm => Sys2Proof.Machine.execXori n a b imm s
  | .shi n a b kind count => Sys2Proof.Machine.execShi n a b kind count s
  | .lui n a imm => Sys2Proof.Machine.execLui n a imm s
  | .movk n a k imm => Sys2Proof.Machine.execMovk n a k imm s
  | .slti n a b imm => Sys2Proof.Machine.execSlti n a b imm s
  | .sltiu n a b imm => Sys2Proof.Machine.execSltiu n a b imm s
  | .cmpi n b imm => Sys2Proof.Machine.execCmpi n b imm s
  | .brif n cond imm => Sys2Proof.Machine.execBrif n cond imm s
  | .beq n a b imm => Sys2Proof.Machine.execBeq n a b imm s
  | .bne n a b imm => Sys2Proof.Machine.execBne n a b imm s
  | .blt n a b imm => Sys2Proof.Machine.execBlt n a b imm s
  | .bge n a b imm => Sys2Proof.Machine.execBge n a b imm s
  | .bltu n a b imm => Sys2Proof.Machine.execBltu n a b imm s
  | .bgeu n a b imm => Sys2Proof.Machine.execBgeu n a b imm s
  | .go n off => Sys2Proof.Machine.execGo n off s
  | .call n a imm => Sys2Proof.Machine.execCall n a imm s
  | .gor n b => Sys2Proof.Machine.execGor n b s
  | .callr n a b => Sys2Proof.Machine.execCallr n a b s
  | .ld n a b imm => Sys2Proof.Machine.execLd n a b imm s
  | .lw n a b imm => Sys2Proof.Machine.execLw n a b imm s
  | .lws n a b imm => Sys2Proof.Machine.execLws n a b imm s
  | .lh n a b imm => Sys2Proof.Machine.execLh n a b imm s
  | .lhs n a b imm => Sys2Proof.Machine.execLhs n a b imm s
  | .lb n a b imm => Sys2Proof.Machine.execLb n a b imm s
  | .lbs n a b imm => Sys2Proof.Machine.execLbs n a b imm s
  | .tld n va b imm => Sys2Proof.Machine.execTld n va b imm s
  | .sd n a b imm => Sys2Proof.Machine.execSd n a b imm s
  | .sw n a b imm => Sys2Proof.Machine.execSw n a b imm s
  | .sh n a b imm => Sys2Proof.Machine.execSh n a b imm s
  | .sb n a b imm => Sys2Proof.Machine.execSb n a b imm s
  | .tst n va b imm => Sys2Proof.Machine.execTst n va b imm s
  | .swap n a b c => Sys2Proof.Machine.execSwap n a b c s
  | .aadd n a b c => Sys2Proof.Machine.execAadd n a b c s
  | .aand n a b c => Sys2Proof.Machine.execAand n a b c s
  | .aor n a b c => Sys2Proof.Machine.execAor n a b c s
  | .cas n a b c => Sys2Proof.Machine.execCas n a b c s
  | .tmov n va vb => Sys2Proof.Machine.execTmov n va vb s
  | .tadd n va vb vc => Sys2Proof.Machine.execTadd n va vb vc s
  | .tsub n va vb vc => Sys2Proof.Machine.execTsub n va vb vc s
  | .taddg n va vb a => Sys2Proof.Machine.execTaddg n va vb a s
  | .tdiff n a vb vc => Sys2Proof.Machine.execTdiff n a vb vc s
  | .tcmp n vb vc => Sys2Proof.Machine.execTcmp n vb vc s
  | .tgets n a vb => Sys2Proof.Machine.execTgets n a vb s
  | .tgetf n a vb => Sys2Proof.Machine.execTgetf n a vb s
  | .tsets n va vb a => Sys2Proof.Machine.execTsets n va vb a s
  | .tsetf n va vb a => Sys2Proof.Machine.execTsetf n va vb a s
  | .ttosn n va vb => Sys2Proof.Machine.execTtosn n va vb s
  | .tfromsn n va vb => Sys2Proof.Machine.execTfromsn n va vb s
  | .tntp n a vb => Sys2Proof.Machine.execTntp n a vb s
  | .tnow n a va => Sys2Proof.Machine.execTnow n a va s
  | .waitt n a vb mask => Sys2Proof.Machine.execWaitt n a vb mask s
  | .launch n a b => Sys2Proof.Machine.execLaunch n a b s
  | .tspop n a b => Sys2Proof.Machine.execTspop n a b s
  | .kick n a b target => Sys2Proof.Machine.execKick n a b target s
  | .coll n a b => Sys2Proof.Machine.execColl n a b s
  | .cpoll n a b => Sys2Proof.Machine.execCpoll n a b s
  | .dbell n b c => Sys2Proof.Machine.execDbell n b c s
  | .dbtake n a b => Sys2Proof.Machine.execDbtake n a b s
  | .mbxclaim n a => Sys2Proof.Machine.execMbxclaim n a s
  | .mbxgo n b => Sys2Proof.Machine.execMbxgo n b s
  | .mbxrel n b => Sys2Proof.Machine.execMbxrel n b s
  | .hbeat n b => Sys2Proof.Machine.execHbeat n b s
  | .nop n => Sys2Proof.Machine.execNop n s
  | .ecall n => Sys2Proof.Machine.execEcall n s
  | .tret n => Sys2Proof.Machine.execTret n s
  | .fence n => Sys2Proof.Machine.execFence n s
  | .sleep n a mask => Sys2Proof.Machine.execSleep n a mask s
  | .pmark n b => Sys2Proof.Machine.execPmark n b s
  | .sysrd n a idx => Sys2Proof.Machine.execSysrd n a idx s
  | .syswr n b idx => Sys2Proof.Machine.execSyswr n b idx s
  | .anchor n a b c => Sys2Proof.Machine.execAnchor n a b c s
  | .handover n a b => Sys2Proof.Machine.execHandover n a b s
  | .sprd n a b => Sys2Proof.Machine.execSprd n a b s
  | .lshwr n a b => Sys2Proof.Machine.execLshwr n a b s
  | .ensy n b c => Sys2Proof.Machine.execEnsy n b c s
  | .synCommitWrite m k v => Sys2Proof.Machine.execSynCommitWrite m k v s
  | .synCommitApply k => Sys2Proof.Machine.execSynCommitApply k s
  | .bandSearchStep k band => Sys2Proof.Machine.execBandSearchStep k band s
  | .pllLkfLock k => Sys2Proof.Machine.execPllLkfLock k s
  | .pllSettleTimeout k => Sys2Proof.Machine.execPllSettleTimeout k s
  | .pllLoss k slip => Sys2Proof.Machine.execPllLoss k slip s
  | .pllReferencePresent k => Sys2Proof.Machine.execPllReferencePresent k s
  | .outputGridResume j => Sys2Proof.Machine.execOutputGridResume j s
  | .outEnWrite m j v => Sys2Proof.Machine.execOutEnWrite m j v s
  | .heelRecord j => Sys2Proof.Machine.execHeelRecord j s
  | .heelHoldTimeout j => Sys2Proof.Machine.execHeelHoldTimeout j s
  | .todMessage j => Sys2Proof.Machine.execTodMessage j s
  | .bandCheck k vtune => Sys2Proof.Machine.execBandCheck k vtune s
  | .outputPhaseCheck k => Sys2Proof.Machine.execOutputPhaseCheck k s
  | .rollSend => Sys2Proof.Machine.execRollSend s
  | .rollReceive src => Sys2Proof.Machine.execRollReceive src s
  | .partnerArriveTimeout x => Sys2Proof.Machine.execPartnerArriveTimeout x s
  | .partnerDepart x => Sys2Proof.Machine.execPartnerDepart x s
  | .partnerRearm x => Sys2Proof.Machine.execPartnerRearm x s
  | .uplinkRevert => Sys2Proof.Machine.execUplinkRevert s
  | .uplinkWithholdEnd => Sys2Proof.Machine.execUplinkWithholdEnd s
  | .exchangeStart x => Sys2Proof.Machine.execExchangeStart x s
  | .tReqReceive src => Sys2Proof.Machine.execTReqReceive src s
  | .tRespReceive src => Sys2Proof.Machine.execTRespReceive src s
  | .packTxTimestamp x phase bitIdx => Sys2Proof.Machine.execPackTxTimestamp x phase bitIdx s
  | .tFupReceive src => Sys2Proof.Machine.execTFupReceive src s
  | .exchangeVoid x => Sys2Proof.Machine.execExchangeVoid x s
  | .packKeyLoad m v => Sys2Proof.Machine.execPackKeyLoad m v s
  | .braceSend => Sys2Proof.Machine.execBraceSend s
  | .braceReceive src => Sys2Proof.Machine.execBraceReceive src s
  | .braceSwap => Sys2Proof.Machine.execBraceSwap s
  | .brcUnmute m v => Sys2Proof.Machine.execBrcUnmute m v s
  | .brcMute m v => Sys2Proof.Machine.execBrcMute m v s
  | .autoUnmute => Sys2Proof.Machine.execAutoUnmute s
  | .adrStartWrite m v => Sys2Proof.Machine.execAdrStartWrite m v s
  | .adrStartTrigger => Sys2Proof.Machine.execAdrStartTrigger s
  | .adrBlockBoundary n => Sys2Proof.Machine.execAdrBlockBoundary n s
  | .adrOutputFrame n => Sys2Proof.Machine.execAdrOutputFrame n s
  | .adrInputFrame n f => Sys2Proof.Machine.execAdrInputFrame n f s
  | .adrInputLoss n => Sys2Proof.Machine.execAdrInputLoss n s
  | .adrSecondRecord n => Sys2Proof.Machine.execAdrSecondRecord n s
  | .adrCsCommit m n v => Sys2Proof.Machine.execAdrCsCommit m n v s
  | .adrClockLoss n => Sys2Proof.Machine.execAdrClockLoss n s
  | .fchHeadWrite m c v => Sys2Proof.Machine.execFchHeadWrite m c v s
  | .fchDescriptorFetch c d => Sys2Proof.Machine.execFchDescriptorFetch c d s
  | .fchDataCompletion c d => Sys2Proof.Machine.execFchDataCompletion c d s
  | .fchCplTimeout c => Sys2Proof.Machine.execFchCplTimeout c s
  | .fchAbort m c => Sys2Proof.Machine.execFchAbort m c s
  | .fchClear m c => Sys2Proof.Machine.execFchClear m c s
  | .fchFlush m c => Sys2Proof.Machine.execFchFlush m c s
  | .unexpectedCompletion => Sys2Proof.Machine.execUnexpectedCompletion s
  | .functionLevelReset f => Sys2Proof.Machine.execFunctionLevelReset f s
  | .bmeClear f memEn => Sys2Proof.Machine.execBmeClear f memEn s
  | .hostLinkReset => Sys2Proof.Machine.execHostLinkReset s
  | .msixSend v => Sys2Proof.Machine.execMsixSend v s
  | .irqPendClear m w v => Sys2Proof.Machine.execIrqPendClear m w v s
  | .hstHDbellWrite m v => Sys2Proof.Machine.execHstHDbellWrite m v s
  | .xtalReady count amp => Sys2Proof.Machine.execXtalReady count amp s
  | .xtalFreqWindow count amp => Sys2Proof.Machine.execXtalFreqWindow count amp s
  | .xtalLoss amp => Sys2Proof.Machine.execXtalLoss amp s
  | .aonXtalReady => Sys2Proof.Machine.execAonXtalReady s
  | .aonXtalLoss => Sys2Proof.Machine.execAonXtalLoss s
  | .syspllLock band vtune => Sys2Proof.Machine.execSyspllLock band vtune s
  | .syspllCoast unlock vtune => Sys2Proof.Machine.execSyspllCoast unlock vtune s
  | .syspllRampDone band vtune => Sys2Proof.Machine.execSyspllRampDone band vtune s
  | .clkRootSelWrite m v => Sys2Proof.Machine.execClkRootSelWrite m v s
  | .clkSwitchComplete aon => Sys2Proof.Machine.execClkSwitchComplete aon s
  | .kpllSourceLoss edges => Sys2Proof.Machine.execKpllSourceLoss edges s
  | .kpllBetterSource edges k => Sys2Proof.Machine.execKpllBetterSource edges k s
  | .kpllHoldExit edges => Sys2Proof.Machine.execKpllHoldExit edges s
  | .pwrGate m u => Sys2Proof.Machine.execPwrGate m u s
  | .quiesceEnd u ok => Sys2Proof.Machine.execQuiesceEnd u ok s
  | .pwrUngate m u => Sys2Proof.Machine.execPwrUngate m u s
  | .ungateClocksStable u => Sys2Proof.Machine.execUngateClocksStable u s
  | .pwrForce m u => Sys2Proof.Machine.execPwrForce m u s
  | .unitBlockReset m u => Sys2Proof.Machine.execUnitBlockReset m u s
  | .dozeEnWrite m v => Sys2Proof.Machine.execDozeEnWrite m v s
  | .dozeAutoGate u => Sys2Proof.Machine.execDozeAutoGate u s
  | .dozeGateRetry u => Sys2Proof.Machine.execDozeGateRetry u s
  | .crossingCheck temp vdd wordClk => Sys2Proof.Machine.execCrossingCheck temp vdd wordClk s
  | .deepRequest m v => Sys2Proof.Machine.execDeepRequest m v s
  | .deepWake cause age vin => Sys2Proof.Machine.execDeepWake cause age vin s
  | .pwrChipReset m v => Sys2Proof.Machine.execPwrChipReset m v s
  | .vinWarn vin vhold => Sys2Proof.Machine.execVinWarn vin vhold s
  | .saveCommit => Sys2Proof.Machine.execSaveCommit s
  | .burySurvival vin => Sys2Proof.Machine.execBurySurvival vin s
  | .vinReset vin vhold => Sys2Proof.Machine.execVinReset vin vhold s
  | .vholdCollapse vinAbsent bodyDone vhold => Sys2Proof.Machine.execVholdCollapse vinAbsent bodyDone vhold s
  | .periodicBoneSave => Sys2Proof.Machine.execPeriodicBoneSave s
  | .boneSectorErase ok => Sys2Proof.Machine.execBoneSectorErase ok s
  | .kumSlotWrite m => Sys2Proof.Machine.execKumSlotWrite m s
  | .kumSlotErase m => Sys2Proof.Machine.execKumSlotErase m s
  | .kumDebugToken m => Sys2Proof.Machine.execKumDebugToken m s
  | .kumRetire m => Sys2Proof.Machine.execKumRetire m s
  | .kumLockExpiry => Sys2Proof.Machine.execKumLockExpiry s
  | .wkrLoad cons slot m ctx => Sys2Proof.Machine.execWkrLoad cons slot m ctx s
  | .dbgObserve m => Sys2Proof.Machine.execDbgObserve m s
  | .dbgInvasive m => Sys2Proof.Machine.execDbgInvasive m s
  | .dbgClose m => Sys2Proof.Machine.execDbgClose m s
  | .debugTimerExpiry => Sys2Proof.Machine.execDebugTimerExpiry s
  | .hostMeasExtend m v => Sys2Proof.Machine.execHostMeasExtend m v s
  | .fltRaiseWrite m v => Sys2Proof.Machine.execFltRaiseWrite m v s
  | .fltStatusClear m w v => Sys2Proof.Machine.execFltStatusClear m w v s
  | .fltReactWrite m k v => Sys2Proof.Machine.execFltReactWrite m k v s
  | .guardHbMiss => Sys2Proof.Machine.execGuardHbMiss s
  | .guardRestart m => Sys2Proof.Machine.execGuardRestart m s
  | .guardHeartbeat => Sys2Proof.Machine.execGuardHeartbeat s
  | .guardFailTimeout => Sys2Proof.Machine.execGuardFailTimeout s
  | .obsSnapWrite m v => Sys2Proof.Machine.execObsSnapWrite m v s
  | .snapPeriodic => Sys2Proof.Machine.execSnapPeriodic s
  | .obsCntSelWrite m k v => Sys2Proof.Machine.execObsCntSelWrite m k v s
  | .obsCntWrite m k v => Sys2Proof.Machine.execObsCntWrite m k v s
  | .sampleSelect n => Sys2Proof.Machine.execSampleSelect n s
  | .telSample temp vdd vin vhold => Sys2Proof.Machine.execTelSample temp vdd vin vhold s
  | .telRecord => Sys2Proof.Machine.execTelRecord s
  | .scrubLine corrected => Sys2Proof.Machine.execScrubLine corrected s
  | .scrubSteal corrected => Sys2Proof.Machine.execScrubSteal corrected s
  | .scrubPassLate => Sys2Proof.Machine.execScrubPassLate s
  | .kpllTick => Sys2Proof.Machine.execKpllTick s
  | .illegalEncoding n word => Sys2Proof.Machine.execIllegalEncoding n word s
  | .mbxUnknownOpcode => Sys2Proof.Machine.execMbxUnknownOpcode s
  | .kumUnknownKind m => Sys2Proof.Machine.execKumUnknownKind m s
  | .acqTimeout => Sys2Proof.Machine.execAcqTimeout s
  | .weakTimeExpiry => Sys2Proof.Machine.execWeakTimeExpiry s
  | .retryPeriodExpiry => Sys2Proof.Machine.execRetryPeriodExpiry s
  | .pauseEnd p => Sys2Proof.Machine.execPauseEnd p s
  | .flrComplete f => Sys2Proof.Machine.execFlrComplete f s
  | .busMasterEnableSet f memEn ctl speed width => Sys2Proof.Machine.execBusMasterEnableSet f memEn ctl speed width s
  | .sramClearDone => Sys2Proof.Machine.execSramClearDone s
  | .holdRdyChange vhold => Sys2Proof.Machine.execHoldRdyChange vhold s
  | .barkNMinHold => Sys2Proof.Machine.execBarkNMinHold s

end Sys2Proof.Machine
end

