-- ==== Sys2Proof/Safety.lean ====
section
/-! DEFINITION. What the statements say of a command: that it completes, and with what; and what every command keeps. -/

namespace Sys2Proof

open Machine

/-- The engine that an instruction belongs to, and the registers that it reads (R282 to R303); none for a command that is no instruction. -/
def Instr.reads : Instr → Option (Fin 12 × List EReg)
  | .add n _ b c _ | .sub n _ b c _ | .addc n _ b c _ | .subb n _ b c _ | .and n _ b c _ | .or n _ b c _ | .xor n _ b c _
    | .andn n _ b c _ | .sll n _ b c _ | .srl n _ b c _ | .sra n _ b c _ | .ror n _ b c _ | .mul n _ b c _ | .mulhu n _ b c _
    | .mulhs n _ b c _ | .divu n _ b c _ | .divs n _ b c _ | .remu n _ b c _ | .rems n _ b c _ | .mins n _ b c _ | .maxs n _ b c _
    | .minu n _ b c _ | .maxu n _ b c _ | .slt n _ b c _ | .sltu n _ b c _ | .swap n _ b c | .aadd n _ b c | .aand n _ b c | .aor n _ b c
    | .dbell n b c | .ensy n b c => some (n, [.g b, .g c])
  | .bswap16 n _ b _ | .bswap32 n _ b _ | .bswap64 n _ b _ | .clz n _ b _ | .popc n _ b _ | .sext32 n _ b _ | .zext32 n _ b _
    | .addi n _ b _ | .andi n _ b _ | .ori n _ b _ | .xori n _ b _ | .slti n _ b _ | .sltiu n _ b _ | .ld n _ b _ | .lw n _ b _
    | .lws n _ b _ | .lh n _ b _ | .lhs n _ b _ | .lb n _ b _ | .lbs n _ b _ | .tld n _ b _ | .shi n _ b _ _ | .cmpi n b _ | .gor n b
    | .callr n _ b | .launch n _ b | .tspop n _ b | .coll n _ b | .cpoll n _ b | .dbtake n _ b | .handover n _ b | .sprd n _ b
    | .digest n _ b | .lshwr n _ b | .kick n _ b _ | .mbxgo n b | .mbxrel n b | .hbeat n b | .pmark n b | .syswr n b _ => some (n, [.g b])
  | .movk n a _ _ => some (n, [.g a])
  | .beq n a b _ | .bne n a b _ | .blt n a b _ | .bge n a b _ | .bltu n a b _ | .bgeu n a b _ | .sd n a b _ | .sw n a b _ | .sh n a b _
    | .sb n a b _ => some (n, [.g a, .g b])
  | .tst n va b _ => some (n, [.v va, .g b])
  | .cas n a b c | .anchor n a b c => some (n, [.g a, .g b, .g c])
  | .tadd n _ vb vc | .tsub n _ vb vc | .tdiff n _ vb vc | .tcmp n vb vc => some (n, [.v vb, .v vc])
  | .tmov n _ vb | .ttosn n _ vb | .tfromsn n _ vb | .tgets n _ vb | .tgetf n _ vb | .tntp n _ vb | .waitt n _ vb _ => some (n, [.v vb])
  | .taddg n _ vb a | .tsets n _ vb a | .tsetf n _ vb a => some (n, [.v vb, .g a])
  | .lui n _ _ | .brif n _ _ | .go n _ | .call n _ _ | .tnow n _ _ | .mbxclaim n _ | .nop n | .ecall n | .tret n | .fence n | .sleep n _ _
    | .sysrd n _ _ => some (n, [])
  | .illegalEncoding n w => if encLegal w then none else some (n, [])
  | _ => none

/-- The words that an instruction row stands for (R280 to R302); none for a row that is no instruction. NOP is ADDI G0, G0, 0 (R280), and has a
word of its own in the system group (R300). -/
def Instr.words : Instr → List Word
  | .add _ a b c f => [wordAlu 0x00 a b c f]
  | .sub _ a b c f => [wordAlu 0x01 a b c f]
  | .addc _ a b c f => [wordAlu 0x02 a b c f]
  | .subb _ a b c f => [wordAlu 0x03 a b c f]
  | .and _ a b c f => [wordAlu 0x04 a b c f]
  | .or _ a b c f => [wordAlu 0x05 a b c f]
  | .xor _ a b c f => [wordAlu 0x06 a b c f]
  | .andn _ a b c f => [wordAlu 0x07 a b c f]
  | .sll _ a b c f => [wordAlu 0x08 a b c f]
  | .srl _ a b c f => [wordAlu 0x09 a b c f]
  | .sra _ a b c f => [wordAlu 0x0A a b c f]
  | .ror _ a b c f => [wordAlu 0x0B a b c f]
  | .mul _ a b c f => [wordAlu 0x0C a b c f]
  | .mulhu _ a b c f => [wordAlu 0x0D a b c f]
  | .mulhs _ a b c f => [wordAlu 0x0E a b c f]
  | .divu _ a b c f => [wordAlu 0x0F a b c f]
  | .divs _ a b c f => [wordAlu 0x10 a b c f]
  | .remu _ a b c f => [wordAlu 0x11 a b c f]
  | .rems _ a b c f => [wordAlu 0x12 a b c f]
  | .mins _ a b c f => [wordAlu 0x13 a b c f]
  | .maxs _ a b c f => [wordAlu 0x14 a b c f]
  | .minu _ a b c f => [wordAlu 0x15 a b c f]
  | .maxu _ a b c f => [wordAlu 0x16 a b c f]
  | .bswap16 _ a b f => [wordAlu 0x17 a b 0 f]
  | .bswap32 _ a b f => [wordAlu 0x18 a b 0 f]
  | .bswap64 _ a b f => [wordAlu 0x19 a b 0 f]
  | .clz _ a b f => [wordAlu 0x1A a b 0 f]
  | .popc _ a b f => [wordAlu 0x1B a b 0 f]
  | .slt _ a b c f => [wordAlu 0x1C a b c f]
  | .sltu _ a b c f => [wordAlu 0x1D a b c f]
  | .sext32 _ a b f => [wordAlu 0x1E a b 0 f]
  | .zext32 _ a b f => [wordAlu 0x1F a b 0 f]
  | .addi _ a b imm => [wordI 0x02 a b imm]
  | .andi _ a b imm => [wordI 0x03 a b imm]
  | .ori _ a b imm => [wordI 0x04 a b imm]
  | .xori _ a b imm => [wordI 0x05 a b imm]
  | .shi _ a b kind count => [wordI 0x06 a b (0#8 ++ kind ++ count)]
  | .lui _ a imm => [wordI 0x07 a 0 imm]
  | .movk _ a k imm => [wordI 0x08 a (0#3 ++ k) imm]
  | .slti _ a b imm => [wordI 0x09 a b imm]
  | .sltiu _ a b imm => [wordI 0x0A a b imm]
  | .cmpi _ b imm => [wordI 0x0B 0 b imm]
  | .brif _ cond imm => [wordI 0x10 cond 0 imm]
  | .beq _ a b imm => [wordI 0x11 a b imm]
  | .bne _ a b imm => [wordI 0x12 a b imm]
  | .blt _ a b imm => [wordI 0x13 a b imm]
  | .bge _ a b imm => [wordI 0x14 a b imm]
  | .bltu _ a b imm => [wordI 0x15 a b imm]
  | .bgeu _ a b imm => [wordI 0x16 a b imm]
  | .go _ off => [0x18#6 ++ off]
  | .call _ a imm => [wordI 0x19 a 0 imm]
  | .gor _ b => [wordR 0x1A 0 b 0 0]
  | .callr _ a b => [wordR 0x1A a b 0 1]
  | .ld _ a b imm => [wordI 0x20 a b imm]
  | .lw _ a b imm => [wordI 0x21 a b imm]
  | .lws _ a b imm => [wordI 0x22 a b imm]
  | .lh _ a b imm => [wordI 0x23 a b imm]
  | .lhs _ a b imm => [wordI 0x24 a b imm]
  | .lb _ a b imm => [wordI 0x25 a b imm]
  | .lbs _ a b imm => [wordI 0x26 a b imm]
  | .tld _ va b imm => [wordI 0x27 (0#2 ++ va) b imm]
  | .sd _ a b imm => [wordI 0x28 a b imm]
  | .sw _ a b imm => [wordI 0x29 a b imm]
  | .sh _ a b imm => [wordI 0x2A a b imm]
  | .sb _ a b imm => [wordI 0x2B a b imm]
  | .tst _ va b imm => [wordI 0x2C (0#2 ++ va) b imm]
  | .swap _ a b c => [wordR 0x2D a b c 0]
  | .aadd _ a b c => [wordR 0x2D a b c 1]
  | .aand _ a b c => [wordR 0x2D a b c 2]
  | .aor _ a b c => [wordR 0x2D a b c 3]
  | .cas _ a b c => [wordR 0x2D a b c 4]
  | .tmov _ va vb => [wordT 0x30 0 va vb 0 0]
  | .tadd _ va vb vc => [wordT 0x30 0 va vb vc 1]
  | .tsub _ va vb vc => [wordT 0x30 0 va vb vc 2]
  | .taddg _ va vb a => [wordT 0x30 a va vb 0 3]
  | .tdiff _ a vb vc => [wordT 0x30 a 0 vb vc 4]
  | .tcmp _ vb vc => [wordT 0x30 0 0 vb vc 5]
  | .tgets _ a vb => [wordT 0x30 a 0 vb 0 6]
  | .tgetf _ a vb => [wordT 0x30 a 0 vb 0 7]
  | .tsets _ va vb a => [wordT 0x30 a va vb 0 8]
  | .tsetf _ va vb a => [wordT 0x30 a va vb 0 9]
  | .ttosn _ va vb => [wordT 0x30 0 va vb 0 10]
  | .tfromsn _ va vb => [wordT 0x30 0 va vb 0 11]
  | .tntp _ a vb => [wordT 0x30 a 0 vb 0 12]
  | .tnow _ a va => [wordT 0x31 a va 0 0 0]
  | .waitt _ a vb mask => [wordT 0x32 a 0 vb 0 (0#4 ++ mask)]
  | .launch _ a b => [wordR 0x33 a b 0 0]
  | .tspop _ a b => [wordR 0x34 a b 0 0]
  | .kick _ a b target => [wordR 0x35 a b 0 target]
  | .coll _ a b => [wordR 0x36 a b 0 0]
  | .cpoll _ a b => [wordR 0x36 a b 0 1]
  | .dbell _ b c => [wordR 0x37 0 b c 0]
  | .dbtake _ a b => [wordR 0x37 a b 0 1]
  | .mbxclaim _ a => [wordR 0x37 a 0 0 2]
  | .mbxgo _ b => [wordR 0x37 0 b 0 3]
  | .mbxrel _ b => [wordR 0x37 0 b 0 4]
  | .hbeat _ b => [wordR 0x37 0 b 0 5]
  | .anchor _ a b c => [wordR 0x3C a b c 0]
  | .handover _ a b => [wordR 0x3C a b 0 1]
  | .sprd _ a b => [wordR 0x3C a b 0 2]
  | .digest _ a b => [wordR 0x3C a b 0 3]
  | .lshwr _ a b => [wordR 0x3C a b 0 4]
  | .ensy _ b c => [wordR 0x3C 0 b c 5]
  | .nop _ => [wordR 0x3E 0 0 0 0, wordI 0x02 0 0 0]
  | .ecall _ => [wordR 0x3E 0 0 0 1]
  | .tret _ => [wordR 0x3E 0 0 0 2]
  | .fence _ => [wordR 0x3E 0 0 0 3]
  | .sleep _ a mask => [wordR 0x3E a 0 0 (mask ++ 4#4)]
  | .pmark _ b => [wordR 0x3E 0 b 0 5]
  | .sysrd _ a idx => [wordR 0x3E a 0 0 (idx ++ 6#4)]
  | .syswr _ b idx => [wordR 0x3E 0 b 0 (idx ++ 7#4)]
  | .illegalEncoding _ w => if encLegal w then [] else [w]
  | _ => []

/-- A command completes from a state with a next state of which `P` holds. -/
def Completes (c : Instr) (s : State) (P : State → Prop) : Prop := ∃ t, exec c s = .next t ∧ P t

/-- An instruction of engine `n` completes so, whenever its word is the one at the engine's program counter (R253, R279). -/
def Performs (n : Fin 12) (i : Instr) (s : State) (P : State → Prop) : Prop := s.fetched n ∈ i.words → Completes i s P

namespace Machine

/-- Every listed byte of memory stands at an address that exists. -/
def Memory.placed (m : List Host.Cell) : Bool := m.all fun c => memAddr c.1

/-- The registers and the memory are in their canonical form (keys strictly rising, nothing listed at what an unlisted key reads as), and
no byte is listed outside shared SRAM, client SRAM and the engine memories. -/
def State.wf (s : State) : Prop := Regs.wf s.regs = true ∧ Memory.wf s.mem = true ∧ Memory.placed s.mem = true

/-- What no command takes from a state: its canonical form, its queue, the free values that have been drawn, the Kennel root secret and
the burned seal fuses. -/
structure Keeps (s t : State) : Prop where
  wf : s.wf → t.wf
  pending : t.pending = s.pending
  draw : s.draw ≤ t.draw
  rootSecret : t.sec.rootSecret = s.sec.rootSecret
  sealFuses : s.sec.sealFuses ≤ t.sec.sealFuses

/-- Whether a word lies among those that count what engine `n` executes: ENG_CYCLES and ENG_RETIRED of it, the counters and OBS_EVT of
OBS, and HST_IRQ_PEND (R278, R366, R466, R467, R472). -/
def countWord (n : Fin 12) (a : Nat) : Bool :=
  (decide (R.ENG_CYCLES.at n ≤ a) && decide (a < R.ENG_CYCLES.at n + 16)) || (decide (0x300000 ≤ a) && decide (a < 0x304000))
    || (decide (0x500030 ≤ a) && decide (a < 0x500038))

/-- An instruction of engine `n` has completed in `cost` cycles, with the program counter at `pc`: `t` is `u` but for the program counter,
what counts the execution, and the record of the instruction that completed last. -/
structure Ran (n : Fin 12) (cost : Nat) (pc : BitVec 16) (u t : State) : Prop where
  pc : t.pc n = pc
  engine : { t.engine n with pc := u.pc n, last := (u.engine n).last } = u.engine n
  engines : ∀ m, m ≠ n → t.engine m = u.engine m
  cycles : t.get R.ENG_CYCLES n = (u.get R.ENG_CYCLES n + cost) % 2 ^ 64
  retired : t.get R.ENG_RETIRED n = (u.get R.ENG_RETIRED n + 1) % 2 ^ 64
  word : ∀ a, countWord n a = false → t.word a = u.word a
  rest : { t with regs := u.regs, hst := u.hst, eng := u.eng } = u

/-- An engine that can issue, whose next word is fetched without an error, and whose registers are all at hand: no load from DMEM was
the instruction before (R253, R268). -/
def State.ready (s : State) (n : Fin 12) : Prop :=
  s.issues n = true ∧ s.fetchBad n = false ∧ s.fetchSoft n = 0 ∧ (s.engine n).loaded = none

/-- A master is answered, and a write of it reaches some bits of the word at `a` (R11, R27, R364). -/
def State.writes (s : State) (m : Master) (a : Nat) : Prop := s.answers m = true ∧ s.rights m a = .rw ∧ s.writeMask m a ≠ 0

/-- A word with no behaviour of its own: all that a write of it does is that its bits land (R11). -/
def State.bare (s : State) (m : Master) (a : Nat) (v : Word) : Prop :=
  (writeGroup a = none ∧ enableAt a = none ∧ R.PRT_CFG_ENABLE.hit 64 a = none)
    ∧ (s.preHost m a v = none ∧ s.preKnl m a v = none ∧ s.prePort m a v = none)
    ∧ (∀ t : State, t.preLand a = t ∧ t.clampAt a = t ∧ t.postKnl a = t) ∧ ∀ t u : State, t.postHost u a = t ∧ t.postPort u m a v = t

/-- Whether a write of a master reaches bit `b` of the word at `a`, of an access kind (R11, R27, R364). -/
def State.reaches (s : State) (m : Master) (a : Nat) (p : Acc → Bool) (b : Nat) : Bool :=
  (maskAt (fun r => p r.acc) a).testBit b && (s.writeMask m a).testBit b

/-- Room in the event log for `n` more records before AUDIT_FULL (R74). -/
def State.room (s : State) (n : Nat) : Prop := (s.unexported + n) * 100 ≤ 95 * logCap

/-- A source whose reactions reset nothing, with room for its record: neither BLOCK nor CHIP (R455, R456). -/
def State.mild (s : State) (k : Nat) : Prop := (s.reactions k).testBit 2 = false ∧ (s.reactions k).testBit 3 = false ∧ s.room 1

/-- The state in which a write takes effect: no answer of an earlier access stands. -/
def State.quiet (s : State) : State := { s with answer := .none }

/-- A counter rises by one and holds at its all-ones value. -/
def State.counts (s t : State) (f : Fld) (i : Nat := 0) : Prop := t.get f i = Nat.min (s.get f i + 1) (2 ^ f.width - 1)

/-- A word of a value as the write of its highest word takes it: the word held for it, or what it holds (R9). -/
def State.heldWord (s : State) (a : Nat) : Word := ((s.holdw.find? fun x => x.1 == a).map (·.2)).getD (s.word a)

/-- A launch of Sk that LCH accepts, by a device that delays nothing (R190, R342). -/
def State.launchable (s : State) (k : Fin 8) (p : Fin 64) (x : Launch) (addr : Nat) (frame : List Byte) : Prop :=
  frame.length < 2 ^ 14 ∧ inSram addr frame.length = true ∧ s.hung (targetOf addr) = false ∧ s.followDelay p = 0 ∧ s.descCode (x.desc p addr frame.length) (k.val + 2) = 0

/-- Sk has launched a frame: it stands at its address, and its entry waits in the queue of the port, with a trailer number where the port is
one of a pair (R184, R190). -/
def State.launched (s t : State) (k : Fin 8) (p : Fin 64) (x : Launch) (addr : Nat) (frame : List Byte) : Prop :=
  t.bytes addr frame.length = frame ∧ t.prt = (s.acceptEntry p (entryOf (x.desc p addr frame.length) (k.val + 2) s.time.lc.toNat)).prt

/-- A chain of channel `c` has ended: what its registers show of it (R377, R384). -/
def State.chEnded (s t : State) (c : Fin 16) (status tag dcnt resid cur : Nat) : Prop :=
  t.get R.FCH_CH_STAT_LAST_STATUS c = status ∧ t.get R.FCH_CH_STAT_TAG c = tag % 2 ^ 16 ∧ t.get R.FCH_CH_DCNT c = dcnt % 2 ^ 32
    ∧ t.get R.FCH_CH_RESID c = resid % 2 ^ 24 ∧ t.get R.FCH_CH_CUR c = cur % 2 ^ 64 ∧ t.get R.FCH_CH_SEQ c = (s.get R.FCH_CH_SEQ c + 1) % 2 ^ 32
    ∧ (t.get R.FCH_CH_EVT c).testBit (if status = fcOK then 0 else 1) = true

/-- Only registers, HST and FCH of a state have changed, and of FCH only channel `c` and what left for the host. -/
def State.onlyCh (s t : State) (c : Fin 16) : Prop :=
  { t with regs := s.regs, hst := s.hst, fch := s.fch, holdw := s.holdw, answer := s.answer } = s
    ∧ ∀ d, d ≠ c → t.fchCh d = s.fchCh d ∧ t.chState d = s.chState d

/-- The result of an instruction in a general register, with the flags where the form sets them. -/
def State.result (s : State) (n : Fin 12) (a : BitVec 5) (r : DWord) (setFlags : Bool) (f : Flags) : State :=
  if setFlags then (s.setG n a r).setFlags n f else s.setG n a r

end Machine

end Sys2Proof
end

