-- ==== Sys2Proof/Certificates/Slice0/Obligations.lean ====
section
/-! DEFINITION. The statements for the provers. Where a statement speaks of a command's own effect, its hypotheses are on the state and
the operands alone; what a `let` names is read from the state before the command. -/

open Sys2Proof Sys2Proof.Machine


/-- The ALU group, sums and differences (R282, R283): the result, and Z N C V when S is 1. The ALU group, shifts and the rotate (R282, R283): the count is the low six bits of g[c], and C is the last bit shifted out. -/
def Obligations.EngineSumsAndShifts : Prop :=
  (∀ (s : State) (n : Fin 12) (a b c : BitVec 5) (f : Bool), s.ready n →
    let x := s.g n b
    let y := s.g n c
    let k : Nat := if (s.flags n).c then 1 else 0
    let gives := fun (i : Instr) (r : DWord) (carry ovf : Bool) =>
      Performs n i s (Ran n 1 (s.pc n + 4) (s.result n a r f { s.flags n with z := decide (r = 0), n := r.msb, c := carry, v := ovf }))
    gives (.add n a b c f) (x + y) (decide (2 ^ 64 ≤ x.toNat + y.toNat)) (x.saddOverflow y)
    ∧ gives (.sub n a b c f) (x - y) (decide (y.toNat ≤ x.toNat)) (x.ssubOverflow y)
    ∧ gives (.addc n a b c f) (x + y + BitVec.ofNat 64 k) (decide (2 ^ 64 ≤ x.toNat + y.toNat + k))
        (decide (x.toInt + y.toInt + k < -2 ^ 63 ∨ 2 ^ 63 ≤ x.toInt + y.toInt + k))
    ∧ gives (.subb n a b c f) (x - y - BitVec.ofNat 64 (1 - k)) (decide (y.toNat + (1 - k) ≤ x.toNat))
        (decide (x.toInt - y.toInt - (1 - k : Nat) < -2 ^ 63 ∨ 2 ^ 63 ≤ x.toInt - y.toInt - (1 - k : Nat))))
  ∧ (∀ (s : State) (n : Fin 12) (a b c : BitVec 5) (f : Bool), s.ready n →
    let x := s.g n b
    let k := (s.g n c).toNat % 64
    let gives := fun (i : Instr) (r : DWord) (out : Bool) =>
      Performs n i s (Ran n 1 (s.pc n + 4)
        (s.result n a r f { s.flags n with z := decide (r = 0), n := r.msb, c := if k = 0 then (s.flags n).c else out }))
    gives (.sll n a b c f) (x <<< k) (x.getLsbD (64 - k)) ∧ gives (.srl n a b c f) (x >>> k) (x.getLsbD (k - 1))
    ∧ gives (.sra n a b c f) (x.sshiftRight k) (x.getLsbD (k - 1)) ∧ gives (.ror n a b c f) (x.rotateRight k) (x.getLsbD (k - 1)))

/-- The ALU group, the operations that set Z and N only (R282, R283). The ALU group, multiplication and division (R282, R283): a divisor of 0 gives all ones and the dividend, sets V, and does not trap. -/
def Obligations.EngineLogicAndProducts : Prop :=
  (∀ (s : State) (n : Fin 12) (a b c : BitVec 5) (f : Bool), s.ready n →
    let x := s.g n b
    let y := s.g n c
    let gives := fun (i : Instr) (r : DWord) =>
      Performs n i s (Ran n 1 (s.pc n + 4) (s.result n a r f { s.flags n with z := decide (r = 0), n := r.msb }))
    gives (.and n a b c f) (x &&& y) ∧ gives (.or n a b c f) (x ||| y) ∧ gives (.xor n a b c f) (x ^^^ y) ∧ gives (.andn n a b c f) (x &&& ~~~y)
    ∧ gives (.mins n a b c f) (if x.toInt ≤ y.toInt then x else y) ∧ gives (.maxs n a b c f) (if x.toInt ≤ y.toInt then y else x)
    ∧ gives (.minu n a b c f) (if x.toNat ≤ y.toNat then x else y) ∧ gives (.maxu n a b c f) (if x.toNat ≤ y.toNat then y else x)
    ∧ gives (.slt n a b c f) (if x.toInt < y.toInt then 1 else 0) ∧ gives (.sltu n a b c f) (if x.toNat < y.toNat then 1 else 0)
    ∧ gives (.bswap16 n a b f) ((x.extractLsb' 0 8 ++ x.extractLsb' 8 8).setWidth 64)
    ∧ gives (.bswap32 n a b f) ((x.extractLsb' 0 8 ++ x.extractLsb' 8 8 ++ x.extractLsb' 16 8 ++ x.extractLsb' 24 8).setWidth 64)
    ∧ gives (.bswap64 n a b f) (x.extractLsb' 0 8 ++ x.extractLsb' 8 8 ++ x.extractLsb' 16 8 ++ x.extractLsb' 24 8
        ++ x.extractLsb' 32 8 ++ x.extractLsb' 40 8 ++ x.extractLsb' 48 8 ++ x.extractLsb' 56 8)
    ∧ gives (.clz n a b f) x.clz ∧ gives (.popc n a b f) x.cpop
    ∧ gives (.sext32 n a b f) ((x.setWidth 32).signExtend 64) ∧ gives (.zext32 n a b f) ((x.setWidth 32).setWidth 64))
  ∧ (∀ (s : State) (n : Fin 12) (a b c : BitVec 5) (f : Bool), s.ready n →
    let x := s.g n b
    let y := s.g n c
    let gives := fun (i : Instr) (cost : Nat) (r : DWord) (ovf : Bool) =>
      Performs n i s (Ran n cost (s.pc n + 4) (s.result n a r f { s.flags n with z := decide (r = 0), n := r.msb, v := ovf }))
    let v := (s.flags n).v
    let zero := decide (y = 0)
    gives (.mul n a b c f) 3 (x * y) v
    ∧ gives (.mulhu n a b c f) 3 ((x.setWidth 128 * y.setWidth 128).extractLsb' 64 64) v
    ∧ gives (.mulhs n a b c f) 3 ((x.signExtend 128 * y.signExtend 128).extractLsb' 64 64) v
    ∧ gives (.divu n a b c f) 36 (if y = 0 then 0xFFFFFFFFFFFFFFFF#64 else x.udiv y) zero
    ∧ gives (.divs n a b c f) 36 (if y = 0 then 0xFFFFFFFFFFFFFFFF#64 else x.sdiv y) zero
    ∧ gives (.remu n a b c f) 36 (if y = 0 then x else x.umod y) zero
    ∧ gives (.rems n a b c f) 36 (if y = 0 then x else x.srem y) zero)

/-- The immediate forms (R284). Branches and jumps (R285, R286): the target, the link, and ALIGN for a register target that is not a word. -/
def Obligations.EngineImmediatesAndTransfers : Prop :=
  (∀ (s : State) (n : Fin 12) (a b : BitVec 5) (imm : BitVec 16), s.ready n →
    let x := s.g n b
    let sx : DWord := imm.signExtend 64
    let zx : DWord := imm.setWidth 64
    let gives := fun (i : Instr) (r : DWord) => Performs n i s (Ran n 1 (s.pc n + 4) (s.setG n a r))
    gives (.addi n a b imm) (x + sx) ∧ gives (.andi n a b imm) (x &&& zx) ∧ gives (.ori n a b imm) (x ||| zx) ∧ gives (.xori n a b imm) (x ^^^ zx)
    ∧ (∀ k : BitVec 6, gives (.shi n a b 0 k) (x <<< k.toNat) ∧ gives (.shi n a b 1 k) (x >>> k.toNat)
        ∧ gives (.shi n a b 2 k) (x.sshiftRight k.toNat) ∧ gives (.shi n a b 3 k) (x.rotateRight k.toNat))
    ∧ gives (.lui n a imm) ((imm ++ 0#16 : BitVec 32).signExtend 64)
    ∧ (∀ k : BitVec 2, ∃ r : DWord, gives (.movk n a k imm) r
        ∧ ∀ j < 64, r.getLsbD j = if j / 16 = k.toNat then imm.getLsbD (j % 16) else (s.g n a).getLsbD j)
    ∧ gives (.slti n a b imm) (if x.toInt < sx.toInt then 1 else 0) ∧ gives (.sltiu n a b imm) (if x.toNat < sx.toNat then 1 else 0)
    ∧ Performs n (.cmpi n b imm) s (Ran n 1 (s.pc n + 4) (s.setFlags n { s.flags n with
        z := decide (x - sx = 0), n := (x - sx).msb, c := decide (sx.toNat ≤ x.toNat), v := x.ssubOverflow sx })))
  ∧ (∀ (s : State) (n : Fin 12) (a b : BitVec 5) (imm : BitVec 16), s.ready n →
    let x := s.g n a
    let y := s.g n b
    let pc := s.pc n
    let near := pc + 4 + imm * 4
    let branches := fun (i : Instr) (taken : Bool) => Performs n i s (Ran n (if taken then 3 else 1) (if taken then near else pc + 4) s)
    let q := s.flags n
    (∀ (k : Fin 21), branches (.brif n (BitVec.ofNat 5 k.val) imm) (
        let test := match k.val / 2 with
          | 0 => q.z
          | 1 => q.c && !q.z
          | 2 => q.c
          | 3 => !q.z && q.n == q.v
          | 4 => q.n == q.v
          | 5 => q.n
          | 6 => q.v
          | 7 => q.tsat
          | 8 => q.tsn
          | 9 => q.tlate
          | _ => true
        if k.val % 2 = 1 then !test else test))
    ∧ branches (.beq n a b imm) (decide (x = y)) ∧ branches (.bne n a b imm) (decide (x ≠ y))
    ∧ branches (.blt n a b imm) (decide (x.toInt < y.toInt)) ∧ branches (.bge n a b imm) (decide (y.toInt ≤ x.toInt))
    ∧ branches (.bltu n a b imm) (decide (x.toNat < y.toNat)) ∧ branches (.bgeu n a b imm) (decide (y.toNat ≤ x.toNat))
    ∧ (∀ off : BitVec 26, Performs n (.go n off) s (Ran n 3 (pc + 4 + off.setWidth 16 * 4) s))
    ∧ Performs n (.call n a imm) s (Ran n 3 near (s.setG n a ((pc + 4).setWidth 64)))
    ∧ (y.toNat % 4 = 0 → Performs n (.gor n b) s (Ran n 3 (y.setWidth 16) s)
        ∧ Performs n (.callr n a b) s (Ran n 3 (y.setWidth 16) (s.setG n a ((pc + 4).setWidth 64))))
    ∧ (y.toNat % 4 ≠ 0 → Performs n (.gor n b) s (· = s.trap n cALIGN (some y.toNat)) ∧ Performs n (.callr n a b) s (· = s.trap n cALIGN (some y.toNat))))

/-- Loads from DMEM (R287): `len` bytes at an aligned address of the engine's own DMEM, zero or sign extended; a word that ECC corrects costs a cycle
and is counted (R253, R278); and the traps of an address that is not aligned, that R257 closes, or that holds an uncorrectable word. Stores to DMEM (R287): the low bytes of the register, lowest first, at the address; every other byte of memory stays. Atomic operations on DMEM (R289): the old doubleword to g[a], the new one to memory in the same access; CAS stores only where the old
value is g[a], and Z says so. -/
def Obligations.EngineDmemAccesses : Prop :=
  (∀ (s : State) (n : Fin 12) (a b : BitVec 5) (va : BitVec 3) (imm : BitVec 16), s.ready n →
    let at_ := ((s.g n b + imm.signExtend 64).setWidth 32).toNat
    let cell := 0x44090000 + n.val * 0x100000 + (at_ - 0x10000)
    let mem := fun (len : Nat) => s.memN cell len
    let form := fun (i : Instr) (len align cost : Nat) (r : EReg) (u : State) =>
      (at_ % align = 0 → 0x10000 ≤ at_ → at_ + len ≤ 0x20000 → s.badAt cell len = false → s.softs cell len = 0 →
        Performs n i s (Ran n cost (s.pc n + 4) (u.setEng n { u.engine n with loaded := if r = .g 0 then none else some r })))
      ∧ (at_ % align = 0 → 0x10000 ≤ at_ → at_ + len ≤ 0x20000 → s.badAt cell len = false → s.softs cell len ≠ 0 → Performs n i s fun t =>
        t.pc n = s.pc n + 4 ∧ (t.engine n).g = (u.engine n).g ∧ (t.engine n).v = (u.engine n).v ∧ t.flags n = u.flags n ∧ t.mem = u.mem
        ∧ t.get R.ENG_CYCLES n = (s.get R.ENG_CYCLES n + cost + 1) % 2 ^ 64 ∧ (t.get R.ENG_EVT n).testBit 7 = true
        ∧ t.get R.ENG_ECC_CORRECTED n = Nat.min (s.get R.ENG_ECC_CORRECTED n + s.softs cell len) (2 ^ 16 - 1))
      ∧ (at_ % align ≠ 0 → Performs n i s (· = s.trap n cALIGN (some at_)))
      ∧ (at_ % align = 0 → at_ < 0x10000 → Performs n i s (· = s.trap n cBUSERR (some at_)))
      ∧ (at_ % align = 0 → 0x10000 ≤ at_ → at_ + len ≤ 0x20000 → s.badAt cell len = true → Performs n i s (· = s.trap n cECCD))
    form (.ld n a b imm) 8 8 1 (.g a) (s.setG n a (BitVec.ofNat 64 (mem 8)))
    ∧ form (.lw n a b imm) 4 4 1 (.g a) (s.setG n a ((BitVec.ofNat 32 (mem 4)).setWidth 64))
    ∧ form (.lws n a b imm) 4 4 1 (.g a) (s.setG n a ((BitVec.ofNat 32 (mem 4)).signExtend 64))
    ∧ form (.lh n a b imm) 2 2 1 (.g a) (s.setG n a ((BitVec.ofNat 16 (mem 2)).setWidth 64))
    ∧ form (.lhs n a b imm) 2 2 1 (.g a) (s.setG n a ((BitVec.ofNat 16 (mem 2)).signExtend 64))
    ∧ form (.lb n a b imm) 1 1 1 (.g a) (s.setG n a ((BitVec.ofNat 8 (mem 1)).setWidth 64))
    ∧ form (.lbs n a b imm) 1 1 1 (.g a) (s.setG n a ((BitVec.ofNat 8 (mem 1)).signExtend 64))
    ∧ form (.tld n va b imm) 12 4 2 (.v va) (s.setV n va (BitVec.ofNat 96 (mem 12))))
  ∧ (∀ (s : State) (n : Fin 12) (a b : BitVec 5) (va : BitVec 3) (imm : BitVec 16), s.ready n →
    let at_ := ((s.g n b + imm.signExtend 64).setWidth 32).toNat
    let cell := 0x44090000 + n.val * 0x100000 + (at_ - 0x10000)
    let form := fun (i : Instr) (len align cost v : Nat) =>
      (at_ % align = 0 → 0x10000 ≤ at_ → at_ + len ≤ 0x20000 → Performs n i s fun t =>
        Ran n cost (s.pc n + 4) (s.setBytes cell (leBytes len v)) t
        ∧ (∀ k < len, t.byte (cell + k) = BitVec.ofNat 8 (v / 256 ^ k))
        ∧ (∀ x, x < cell ∨ cell + len ≤ x → t.byte x = s.byte x)
        ∧ (∀ r, t.g n r = s.g n r) ∧ (∀ r, t.v n r = s.v n r) ∧ t.flags n = s.flags n)
      ∧ (at_ % align ≠ 0 → Performs n i s (· = s.trap n cALIGN (some at_)))
      ∧ (at_ % align = 0 → at_ < 0x10000 → Performs n i s (· = s.trap n cBUSERR (some at_)))
    form (.sd n a b imm) 8 8 1 (s.g n a).toNat ∧ form (.sw n a b imm) 4 4 1 (s.g n a).toNat ∧ form (.sh n a b imm) 2 2 1 (s.g n a).toNat
    ∧ form (.sb n a b imm) 1 1 1 (s.g n a).toNat ∧ form (.tst n va b imm) 12 4 2 (s.v n va).toNat)
  ∧ (∀ (s : State) (n : Fin 12) (a b c : BitVec 5), s.ready n →
    let at_ := ((s.g n b).setWidth 32).toNat
    let cell := 0x44090000 + n.val * 0x100000 + (at_ - 0x10000)
    let old : DWord := BitVec.ofNat 64 (s.memN cell 8)
    let y := s.g n c
    let form := fun (i : Instr) (new : DWord) (f : Flags) =>
      let u := ((s.setBytes cell (leBytes 8 new.toNat)).setFlags n f).setG n a old
      (at_ % 8 = 0 → 0x10000 ≤ at_ → at_ + 8 ≤ 0x20000 → s.badAt cell 8 = false → s.softs cell 8 = 0 → Performs n i s fun t =>
        Ran n 2 (s.pc n + 4) u t ∧ t.memN cell 8 = new.toNat ∧ (∀ x, x < cell ∨ cell + 8 ≤ x → t.byte x = s.byte x))
      ∧ (at_ % 8 = 0 → 0x10000 ≤ at_ → at_ + 8 ≤ 0x20000 → s.badAt cell 8 = false → s.softs cell 8 ≠ 0 → Performs n i s fun t =>
        t.pc n = s.pc n + 4 ∧ (t.engine n).g = (u.engine n).g ∧ (t.engine n).v = (u.engine n).v ∧ t.flags n = u.flags n ∧ t.mem = u.mem
        ∧ t.get R.ENG_CYCLES n = (s.get R.ENG_CYCLES n + 2 + 1) % 2 ^ 64 ∧ (t.get R.ENG_EVT n).testBit 7 = true
        ∧ t.get R.ENG_ECC_CORRECTED n = Nat.min (s.get R.ENG_ECC_CORRECTED n + s.softs cell 8) (2 ^ 16 - 1))
      ∧ (at_ % 8 ≠ 0 → Performs n i s (· = s.trap n cALIGN (some at_)))
      ∧ (at_ % 8 = 0 → at_ < 0x10000 → Performs n i s (· = s.trap n cBUSERR (some at_)))
    form (.swap n a b c) y (s.flags n) ∧ form (.aadd n a b c) (old + y) (s.flags n) ∧ form (.aand n a b c) (old &&& y) (s.flags n)
    ∧ form (.aor n a b c) (old ||| y) (s.flags n)
    ∧ form (.cas n a b c) (if old = s.g n a then y else old) { s.flags n with z := decide (old = s.g n a) })

/-- THE USE OF A LOADED REGISTER (R253, R472): an instruction that uses the register which the load from DMEM just before it gave costs one cycle of
class DEP more, which belongs to that load's record; but for that cycle every instruction runs as it does when no load came before it. A word of IMEM
that ECC corrects is counted at its fetch (R278). -/
def Obligations.EngineLoadUse : Prop :=
  (∀ (s : State) (i : Instr) (n : Fin 12) (uses : List EReg), i.reads = some (n, uses) → s.issues n = true → s.fetchBad n = false → s.fetchSoft n = 0 →
    s.fetched n ∈ i.words → ∃ t : State, exec i s = exec i t ∧ t.ready n ∧ t.fetched n = s.fetched n ∧ { t.engine n with loaded := (s.engine n).loaded, last := (s.engine n).last } = s.engine n
      ∧ (∀ m, m ≠ n → t.engine m = s.engine m) ∧ { t with regs := s.regs, hst := s.hst, eng := s.eng } = s
      ∧ (∀ x, countWord n x = false → t.word x = s.word x) ∧ t.get R.ENG_RETIRED n = s.get R.ENG_RETIRED n
      ∧ (∀ r, (s.engine n).loaded = some r → r ∈ uses → t.get R.ENG_CYCLES n = (s.get R.ENG_CYCLES n + 1) % 2 ^ 64
          ∧ (t.engine n).last.cost = (s.engine n).last.cost + 1)
      ∧ ((∀ r, (s.engine n).loaded = some r → r ∉ uses) → t.regs = s.regs ∧ t.hst = s.hst ∧ (t.engine n).last = (s.engine n).last))
  ∧ (∀ (s : State) (n : Fin 12), s.issues n = true → s.fetchBad n = false → s.fetchSoft n ≠ 0 → (s.engine n).loaded = none → Performs n (.nop n) s fun t =>
      t.pc n = s.pc n + 4 ∧ t.get R.ENG_CYCLES n = (s.get R.ENG_CYCLES n + 1) % 2 ^ 64 ∧ (t.get R.ENG_EVT n).testBit 7 = true
      ∧ t.get R.ENG_ECC_CORRECTED n = Nat.min (s.get R.ENG_ECC_CORRECTED n + s.fetchSoft n) (2 ^ 16 - 1) ∧ t.mem = s.mem)

/-- The time group and TNOW (R290, R291). Waits with an empty write buffer (R262, R263, R292, R300): WAITT completes at once where its instant is reached or a masked event is held, and
else, like SLEEP without an event, the engine waits. -/
def Obligations.EngineTimeAndWaits : Prop :=
  (∀ (s : State) (n : Fin 12) (a : BitVec 5) (va vb vc : BitVec 3), s.ready n →
    let x := s.v n vb
    let y := s.v n vc
    let g := s.g n a
    let q := s.flags n
    let ran := fun (i : Instr) (cost : Nat) (u : State) => Performs n i s (Ran n cost (s.pc n + 4) u)
    let clamp := fun (z : Int) => if z < 0 then (0 : Time) else if 2 ^ 96 ≤ z then 0xFFFFFFFFFFFFFFFFFFFFFFFF#96 else BitVec.ofInt 96 z
    let sat := fun (z : Int) => decide (z < 0 ∨ 2 ^ 96 ≤ z)
    let time := fun (i : Instr) (z : Int) => ran i 1 ((s.setV n va (clamp z)).setFlags n { q with tsat := sat z })
    let d : Int := (x.toNat : Int) - y.toNat
    ran (.tmov n va vb) 1 (s.setV n va x)
    ∧ time (.tadd n va vb vc) ((x.toNat : Int) + y.toNat) ∧ time (.tsub n va vb vc) d ∧ time (.taddg n va vb a) ((x.toNat : Int) + g.toInt)
    ∧ ran (.tdiff n a vb vc) 1 ((s.setG n a (if d < -2 ^ 63 then 0x8000000000000000#64 else if 2 ^ 63 ≤ d then 0x7FFFFFFFFFFFFFFF#64
        else BitVec.ofInt 64 d)).setFlags n { q with tsat := decide (d < -2 ^ 63 ∨ 2 ^ 63 ≤ d) })
    ∧ ran (.tcmp n vb vc) 1 (s.setFlags n { q with z := decide (x = y), c := decide (y.toNat ≤ x.toNat), n := decide (x.toNat < y.toNat), v := false })
    ∧ ran (.tgets n a vb) 1 (s.setG n a ((x.extractLsb' 48 48).setWidth 64)) ∧ ran (.tgetf n a vb) 1 (s.setG n a ((x.extractLsb' 0 48).setWidth 64))
    ∧ ran (.tsets n va vb a) 1 (s.setV n va (g.extractLsb' 0 48 ++ x.extractLsb' 0 48))
    ∧ ran (.tsetf n va vb a) 1 (s.setV n va (x.extractLsb' 48 48 ++ g.extractLsb' 0 48))
    ∧ ran (.ttosn n va vb) 4 (s.setV n va (t96ToSn96 x))
    ∧ ran (.tfromsn n va vb) 4 ((s.setV n va (fromSn x).1).setFlags n { q with tsat := (fromSn x).2 })
    ∧ ran (.tntp n a vb) 2 (s.setG n a ((x.extractLsb' 48 32 + 2208988800#32) ++ x.extractLsb' 16 32))
    ∧ ran (.tnow n a va) 2 (((s.setG n a (BitVec.ofNat 64 (s.mode + s.get R.KNL_TIME_MODE_CSET_VER * 2 ^ 16))).setV n va (s.engineRt n)).setFlags n
        { q with tsn := !s.inLc }))
  ∧ (∀ (s : State) (n : Fin 12) (a : BitVec 5) (vb : BitVec 3) (mask : BitVec 7), s.ready n → (s.engine n).wbuf = [] →
    let at_ := s.v n vb
    let held := (s.engine n).events &&& mask &&& 0x7E
    let wake : BitVec 7 := held ||| (if at_.toNat ≤ (s.engineRt n).toNat then 1 else 0)
    let q := s.flags n
    let woken := fun (w : BitVec 7) (f : Flags) (t : State) =>
      (∀ r, t.g n r = if r = a ∧ a ≠ 0 then w.setWidth 64 else s.g n r) ∧ t.get R.ENG_STAT_WAKE n = w.toNat ∧ t.flags n = f ∧ t.pc n = s.pc n + 4
      ∧ t.engState n = 3 ∧ (∀ r, t.v n r = s.v n r) ∧ t.mem = s.mem ∧ ∀ m, m ≠ n → t.engine m = s.engine m
    let waits := fun (w : Waiting) (f : Flags) (t : State) =>
      t.engState n = 4 ∧ (t.engine n).waiting = some w ∧ t.flags n = f ∧ t.pc n = s.pc n ∧ (∀ r, t.g n r = s.g n r) ∧ (∀ r, t.v n r = s.v n r)
      ∧ t.mem = s.mem ∧ ∀ m, m ≠ n → t.engine m = s.engine m
    (wake ≠ 0 → Performs n (.waitt n a vb mask) s (woken wake { q with tlate := decide (at_.toNat < (s.engineRt n).toNat) }))
    ∧ (wake = 0 → Performs n (.waitt n a vb mask) s (waits (.instant a at_ mask) { q with tlate := false }))
    ∧ (held ≠ 0 → Performs n (.sleep n a mask) s (woken held q))
    ∧ (held = 0 → mask ≠ 0 → Performs n (.sleep n a mask) s (waits (.event a mask) q)))

/-- System instructions that complete at once (R299 to R301, R471): NOP, TRET within a trap, SYSRD and SYSWR of the items of R300, PMARK without
marks, FENCE with every store acknowledged, HBEAT and DBTAKE. Engines E2 to E11 have no Kennel-only form (R271, R302); E0 and E1 have no LAUNCH, TSPOP or mailbox instruction (R293, R294, R299); a reserved
encoding, item or condition, a SLEEP with no event and a TRET outside a trap are ILLEGAL (R280, R285, R300, R301). -/
def Obligations.EngineSystemAndIllegal : Prop :=
  (∀ (s : State) (n : Fin 12) (a b : BitVec 5), s.ready n →
    let pc := s.pc n
    let e := s.engine n
    let ran := fun (i : Instr) (cost : Nat) (u : State) => Performs n i s (Ran n cost (pc + 4) u)
    let item := fun (k v : Nat) => ran (.sysrd n a (BitVec.ofNat 7 k)) 1 (s.setG n a (BitVec.ofNat 64 v))
    let q := s.flags n
    let y := s.g n b
    ran (.nop n) 1 s
    ∧ item 0 (s.get R.ENG_EPC n) ∧ item 1 (s.get R.ENG_STAT_CAUSE n) ∧ item 2 (s.get R.ENG_BADADDR n) ∧ item 3 n.val ∧ item 4 (s.get R.ENG_CYCLES n)
    ∧ item 5 (s.get R.ENG_RETIRED n) ∧ item 7 (s.get R.ENG_STAT_WAKE n)
    ∧ item 6 (q.z.toNat + 2 * q.n.toNat + 4 * q.c.toNat + 8 * q.v.toNat + 16 * q.tsat.toNat + 32 * q.tsn.toNat + 64 * q.tlate.toNat)
    ∧ ran (.syswr n b 0) 1 (s.set R.ENG_EPC n y.toNat)
    ∧ ran (.syswr n b 6) 1 (s.setFlags n { z := y.getLsbD 0, n := y.getLsbD 1, c := y.getLsbD 2, v := y.getLsbD 3, tsat := y.getLsbD 4
                                           tsn := y.getLsbD 5, tlate := y.getLsbD 6 })
    ∧ (e.wbuf = [] → e.unacked = 0 → ran (.fence n) 1 s)
    ∧ (s.flag R.OBS_SMP_CFG_MARKS n = false → ran (.pmark n b) 1 s)
    ∧ (n ≠ 2 ∨ s.get R.FLT_GUARD_STAT_STATE ≠ 2 ∨ s.get R.ENG_HB n = y.toNat % 2 ^ 32 → ran (.hbeat n b) 1 (s.set R.ENG_HB n (y.toNat % 2 ^ 32)))
    ∧ (n = 2 → s.get R.FLT_GUARD_STAT_STATE = 2 → s.get R.ENG_HB n ≠ y.toNat % 2 ^ 32 → Performs n (.hbeat n b) s fun t =>
        t.get R.ENG_HB n = y.toNat % 2 ^ 32 ∧ t.get R.FLT_GUARD_STAT_STATE = 0 ∧ t.pc n = pc + 4)
    ∧ (let p : Word := BitVec.ofNat 32 (s.get R.ENG_DBELL_PEND n)
       let m : Word := y.setWidth 32
       ran (.dbtake n a b) 2 ((s.set R.ENG_DBELL_PEND n (p &&& ~~~m).toNat).setG n a ((p &&& m).setWidth 64)))
    ∧ ((n = 2 → e.nmi = false) → e.wdogDue = false → s.flag R.ENG_STAT_IN_TRAP n = true →
        Performs n (.tret n) s (Ran n 3 (BitVec.ofNat 16 (s.get R.ENG_EPC n)) (s.setFlag R.ENG_STAT_IN_TRAP n false))))
  ∧ (∀ (s : State) (n : Fin 12) (a b c : BitVec 5) (imm : BitVec 16), s.ready n →
    let illegal := fun (i : Instr) => Performs n i s (· = s.trap n cILLEGAL)
    (2 ≤ n.val → illegal (.anchor n a b c) ∧ illegal (.handover n a b) ∧ illegal (.sprd n a b) ∧ illegal (.digest n a b) ∧ illegal (.lshwr n a b)
        ∧ illegal (.ensy n b c))
    ∧ (n.val < 2 → illegal (.launch n a b) ∧ illegal (.tspop n a b) ∧ illegal (.mbxclaim n a) ∧ illegal (.mbxgo n b) ∧ illegal (.mbxrel n b))
    ∧ (∀ k : BitVec 5, 20 < k.toNat → illegal (.brif n k imm))
    ∧ (∀ k : BitVec 7, 7 < k.toNat → illegal (.sysrd n a k)) ∧ (∀ k : BitVec 7, k ≠ 0 → k ≠ 6 → illegal (.syswr n b k))
    ∧ illegal (.sleep n a 0) ∧ (∀ k : BitVec 11, 3 < k.toNat → illegal (.kick n a b k))
    ∧ (s.flag R.ENG_STAT_IN_TRAP n = false → illegal (.tret n))
    ∧ illegal (.illegalEncoding n 0) ∧ illegal (.illegalEncoding n 0xFFFFFFFF#32)
    ∧ (∀ w : Word, encLegal w = false → illegal (.illegalEncoding n w)))

/-- The Kennel-only forms on the lead and the standby (R302, R303): the result word, and what only the lead's reaches. -/
def Obligations.KennelForms : Prop :=
  ∀ (s : State) (n : Fin 12) (a b c : BitVec 5), s.ready n → n.val < 2 →
    let x := s.g n b
    let y := s.g n c
    let ran := fun (i : Instr) (cost : Nat) (u : State) => Performs n i s (Ran n cost (s.pc n + 4) u)
    let cell := 0x44090000 + n.val * 0x100000 + ((x.setWidth 32).toNat - 0x10000)
    let inDmem := fun (align len : Nat) => (x.setWidth 32).toNat % align = 0 ∧ 0x10000 ≤ (x.setWidth 32).toNat
      ∧ (x.setWidth 32).toNat + len ≤ 0x20000 ∧ s.badAt cell len = false ∧ s.softs cell len = 0
    let bound := fun (w : Nat) => min w (2 ^ 48 - 1)
    let word := fun (k : Nat) => bound (leAt (s.bytes cell 40) (8 * k) 8)
    let terms : Terms := { ref := word 0, path := word 1, meas := word 2, slew := word 3, hold := word 4 }
    let req : BitVec 20 := (s.g n a).setWidth 20
    (s.isLead n = false →
        ran (.anchor n a b c) 8 (s.setG n a (BitVec.ofNat 64 (s.anchorForm x.toInt y.toInt req.toNat)))
        ∧ ran (.handover n a b) 8 (s.setG n a (BitVec.ofNat 64 (b2n s.inLc + 2 * b2n (!rateOk x.toInt))))
        ∧ (ensyCode x.toNat = true → ran (.ensy n b c) 4 s)
        ∧ (inDmem 8 40 → ran (.lshwr n a b) 8 (s.setG n a (if s.termsLate then 1 else 0))))
    ∧ (s.isLead n = true →
        ran (.anchor n a b c) 8 ((s.anchorReq x y req).setG n a (BitVec.ofNat 64 (s.anchorForm x.toInt y.toInt req.toNat)))
        ∧ ran (.handover n a b) 8 ((s.handoverReq x 0).2.setG n a (BitVec.ofNat 64 (b2n s.inLc + 2 * b2n (!rateOk x.toInt))))
        ∧ (ensyCode x.toNat = true → ran (.ensy n b c) 4 { s with refs := { s.refs with ensy := s.refs.ensy ++ [(x.toNat, y)] } })
        ∧ (inDmem 8 40 → s.termsLate = false → ran (.lshwr n a b) 8 (State.setG { s with lsh := { s.lsh with next := some terms } } n a 0))
        ∧ (inDmem 8 40 → s.termsLate = true → ran (.lshwr n a b) 8 (s.setG n a 1)))
    ∧ (x.toNat % 4 = 0 → x.toNat ≤ 0x3FFFC → ran (.sprd n a b) 4 (s.setG n a ((s.store x.toNat).setWidth 64)))
    ∧ (inDmem 32 32 →
        let p := s.knl.pair
        let given := if n = 0 then p.d0.isSome else p.d1.isSome
        let d : Digest := BitVec.ofNat 256 (s.memN cell 32)
        let taken : KPair := if n = 0 then { p with d0 := some d } else { p with d1 := some d }
        ((p.settled = true ∨ p.second = none) → ran (.digest n a b) 6 (s.setG n a 2))
        ∧ (p.settled = false → p.second ≠ none → given = true → ran (.digest n a b) 6 (s.setG n a 1))
        ∧ (p.settled = false → p.second ≠ none → given = false →
            ran (.digest n a b) 6 (State.setG { s with knl := { s.knl with pair := taken } } n a 0)))
    ∧ (ensyCode x.toNat = false → Performs n (.ensy n b c) s (· = s.trap n cILLEGAL))

/-- Tickets (R265, R266, R295, R298): KICK of a CRC job whose descriptor lies in its ranges takes the next free number and delivers the job; COLL and
CPOLL of a complete ticket give its result word and free its entry, CPOLL of another gives 0xFF, COLL waits, and a number that is not outstanding
traps. Launches and reports of E2 to E11 (R293, R294): LAUNCH gives the code with which LCH answers the 48 bytes of its descriptor; TSPOP copies the report at
RD, 0 means that the ring is empty and 2 that it is disabled. -/
def Obligations.EngineTicketsAndLaunches : Prop :=
  (∀ (s : State) (n : Fin 12) (a b : BitVec 5), s.ready n →
    let k := (s.g n b).toNat
    let found := (s.engine n).tickets.find? fun t => t.num.val == k
    let p := ((s.g n b).setWidth 32).toNat
    let cell := 0x44090000 + n.val * 0x100000 + (p - 0x10000)
    let d := s.bytes cell 16
    let written := fun (x : DWord) (t : State) => (∀ r, t.g n r = if r = a ∧ a ≠ 0 then x else s.g n r) ∧ t.pc n = s.pc n + 4 ∧ t.flags n = s.flags n
      ∧ t.mem = s.mem
    ((s.engine n).wbuf = [] → p % 8 = 0 → 0x10000 ≤ p → p + 16 ≤ 0x20000 → s.badAt cell 16 = false → leAt d 0 1 ≤ 1 → 1 ≤ leAt d 8 4 → leAt d 8 4 ≤ 65536 →
        ∀ num, (s.engine n).freeTicket = some num → (s.engine n).tickets.all (fun t => t.num != num) = true →
          Performs n (.kick n a b 2) s fun t => written (BitVec.ofNat 64 num.val) t ∧ (t.engine n).lastTicket = num
            ∧ (t.engine n).tickets = (s.engine n).tickets ++ [{ num := num, job := { target := 2, desc := d, key := [] }, delivered := true, result := none, complete := false }]
            ∧ t.jobs = s.jobs ++ [{ eng := n, num := num, unit := 9, job := { target := 2, desc := d, key := [] }, live := true }])
    ∧ (∀ t, found = some t → t.complete = true →
        let w := t.word
        let took := fun (u : State) => written w u ∧ (u.engine n).tickets = (s.engine n).tickets.filter fun x => x.num != t.num
        Performs n (.coll n a b) s took ∧ Performs n (.cpoll n a b) s took)
    ∧ (∀ t, found = some t → t.complete = false →
        Performs n (.cpoll n a b) s (fun u => written 0xFF u ∧ (u.engine n).tickets = (s.engine n).tickets)
        ∧ Performs n (.coll n a b) s fun u => u.engState n = 4 ∧ (u.engine n).waiting = some (.ticket a t.num) ∧ u.pc n = s.pc n)
    ∧ (found = none → Performs n (.coll n a b) s (· = s.trap n cTICKET) ∧ Performs n (.cpoll n a b) s (· = s.trap n cTICKET)))
  ∧ (∀ (s : State) (n : Fin 12) (a b : BitVec 5), s.ready n → 2 ≤ n.val →
    let p := ((s.g n b).setWidth 32).toNat
    let cell := 0x44090000 + n.val * 0x100000 + (p - 0x10000)
    let r := n.val - 2
    let inDmem := fun (len : Nat) => p % 8 = 0 ∧ 0x10000 ≤ p ∧ p + len ≤ 0x20000
    let written := fun (x : Nat) (t : State) => (∀ r, t.g n r = if r = a ∧ a ≠ 0 then BitVec.ofNat 64 x else s.g n r) ∧ t.pc n = s.pc n + 4
      ∧ t.flags n = s.flags n
    let src := s.get R.LCH_RING_BASE r + s.get R.LCH_RING_RD r % 2 ^ s.get R.LCH_RING_CFG_SIZE_LOG2 r * 32
    (inDmem 48 → (s.engine n).wbuf = [] → s.badAt cell 48 = false →
        Performs n (.launch n a b) s fun t => written (s.descCode (s.bytes cell 48) r) t ∧ t.prt = (s.launchDesc (s.bytes cell 48) r).2.prt ∧ t.mem = s.mem)
    ∧ (inDmem 32 → s.flag R.LCH_RING_CFG_ENABLE r = false → Performs n (.tspop n a b) s fun t => written 2 t ∧ t.mem = s.mem)
    ∧ (inDmem 32 → s.flag R.LCH_RING_CFG_ENABLE r = true → s.get R.LCH_RING_WR r = s.get R.LCH_RING_RD r →
        Performs n (.tspop n a b) s fun t => written 0 t ∧ t.mem = s.mem)
    ∧ (inDmem 32 → s.flag R.LCH_RING_CFG_ENABLE r = true → s.get R.LCH_RING_WR r ≠ s.get R.LCH_RING_RD r → s.sramOk src 32 = true → s.softs src 32 = 0 →
        Performs n (.tspop n a b) s fun t => written 1 t ∧ t.get R.LCH_RING_RD r = (s.get R.LCH_RING_RD r + 1) % 65536
          ∧ t.bytes cell 32 = s.bytes src 32 ∧ ∀ x, x < cell ∨ cell + 32 ≤ x → t.byte x = s.byte x))

/-- What leaves an engine for the matrix (R254, R257, R287, R289, R299): a store of E2 to E11 to SRAM, DBELL, MBXGO and MBXREL enter the write buffer and the
matrix, in program order; a load, an atomic operation and MBXCLAIM wait for their data. -/
def Obligations.EngineMatrixAccesses : Prop :=
  ∀ (s : State) (n : Fin 12) (a b c : BitVec 5) (va : BitVec 3) (imm : BitVec 16), s.ready n → 2 ≤ n.val →
    let at_ := ((s.g n b + imm.signExtend 64).setWidth 32).toNat
    let at0 := ((s.g n b).setWidth 32).toNat
    let asks := fun (rs : List MReq) => rs.map fun r => (r.master, r.addr, r.op)
    let me : Fin 16 := ⟨n.val - 2, by omega⟩
    let buffered := fun (i : Instr) (x : Nat) (bs : List Byte) => (s.engine n).wbuf.length < 4 → Performs n i s fun t =>
      t.pc n = s.pc n + 4 ∧ (t.engine n).wbuf = (s.engine n).wbuf ++ [{ addr := x, bytes := bs }]
      ∧ asks t.mtx.reqs = asks s.mtx.reqs ++ [(me, x, .write bs)] ∧ t.mem = s.mem
    let held := fun (i : Instr) (x len : Nat) (h : Held) (op : MOp) => s.reading n = false → s.lineBusy n x len = false → Performs n i s fun t =>
      t.pc n = s.pc n ∧ (t.engine n).held = some h ∧ (t.engine n).g = (s.engine n).g ∧ asks t.mtx.reqs = asks s.mtx.reqs ++ [(me, x, op)] ∧ t.mem = s.mem
    let sram := fun (x len align : Nat) => x % align = 0 ∧ inSram x len = true
    let g := (s.g n a).toNat
    (sram at_ 8 8 → buffered (.sd n a b imm) at_ (leBytes 8 g) ∧ held (.ld n a b imm) at_ 8 (.load at_ 8 (.gpr a 8 false)) (.read 8))
    ∧ (sram at_ 4 4 → buffered (.sw n a b imm) at_ (leBytes 4 g) ∧ held (.lw n a b imm) at_ 4 (.load at_ 4 (.gpr a 4 false)) (.read 4)
        ∧ held (.lws n a b imm) at_ 4 (.load at_ 4 (.gpr a 4 true)) (.read 4))
    ∧ (sram at_ 2 2 → buffered (.sh n a b imm) at_ (leBytes 2 g) ∧ held (.lh n a b imm) at_ 2 (.load at_ 2 (.gpr a 2 false)) (.read 2)
        ∧ held (.lhs n a b imm) at_ 2 (.load at_ 2 (.gpr a 2 true)) (.read 2))
    ∧ (sram at_ 1 1 → buffered (.sb n a b imm) at_ (leBytes 1 g) ∧ held (.lb n a b imm) at_ 1 (.load at_ 1 (.gpr a 1 false)) (.read 1)
        ∧ held (.lbs n a b imm) at_ 1 (.load at_ 1 (.gpr a 1 true)) (.read 1))
    ∧ (sram at_ 12 4 → buffered (.tst n va b imm) at_ (leBytes 12 (s.v n va).toNat) ∧ held (.tld n va b imm) at_ 12 (.load at_ 12 (.time va)) (.read 12))
    ∧ (sram at0 8 8 → held (.swap n a b c) at0 8 (.amo .swap at0 a (s.g n a) (s.g n c)) (.atomic .swap (s.g n a) (s.g n c))
        ∧ held (.aadd n a b c) at0 8 (.amo .add at0 a (s.g n a) (s.g n c)) (.atomic .add (s.g n a) (s.g n c))
        ∧ held (.aand n a b c) at0 8 (.amo .and at0 a (s.g n a) (s.g n c)) (.atomic .and (s.g n a) (s.g n c))
        ∧ held (.aor n a b c) at0 8 (.amo .or at0 a (s.g n a) (s.g n c)) (.atomic .or (s.g n a) (s.g n c))
        ∧ held (.cas n a b c) at0 8 (.amo .cas at0 a (s.g n a) (s.g n c)) (.atomic .cas (s.g n a) (s.g n c)))
    ∧ (2 ≤ (s.g n b).toNat → (s.g n b).toNat ≤ 11 → buffered (.dbell n b c) (0x40000000 + R.ENG_DBELL.at (s.g n b).toNat) (leBytes 4 ((s.g n c).toNat % 2 ^ 32)))
    ∧ buffered (.mbxgo n b) (0x40000000 + R.KNL_MBX_GO.at 0) (leBytes 4 ((s.g n b).toNat % 2 ^ 32))
    ∧ buffered (.mbxrel n b) (0x40000000 + R.KNL_MBX_REL.at 0) (leBytes 4 ((s.g n b).toNat % 2 ^ 32))
    ∧ held (.mbxclaim n a) (0x40000000 + R.KNL_MBX_CLAIM.at 0) 4 (.load (0x40000000 + R.KNL_MBX_CLAIM.at 0) 4 (.gpr a 4 false)) (.read 4)
    ∧ ((s.g n b).toNat < 2 ∨ 11 < (s.g n b).toNat → Performs n (.dbell n b c) s (· = s.trap n cBUSERR))

/-- Grants and responses (R387 to R389): the request that the arbitration of a target picks takes effect when it is granted, a write of an engine to SRAM
there and then; the response of a read brings its data to the load that waits for it, and that load completes. What goes wrong at a target, and what an engine waits for (R253, R254, R268, R391, R392): a silent target is HUNG and owes errors; the error of a store is
a BUSERR that saves the boundary at which it is taken; a drained write buffer lets a FENCE complete; a free entry lets a store in. -/
def Obligations.MatrixResponsesAndTimeouts : Prop :=
  ((∀ (s : State) (t : Fin 12) (r : MReq) (bs : List Byte), s.arbitrate t = some r → r.op = .write bs → r.target = t → t.val ≤ 8 → s.hung t = false →
      Completes (.matrixGrant t) s fun u => u.mem = (s.setBytes r.addr bs).mem ∧ u.mtx.parked[t] = r.master
        ∧ u.mtx.resps = s.mtx.resps ++ [{ master := r.master, target := t, addr := r.addr, isWrite := true, data := some [], old := s.bytes r.addr bs.length, at_ := s.time.lc.toNat, dead := false }])
  ∧ (∀ (s : State) (t : Fin 12) (r : MReq) (len : Nat), s.arbitrate t = some r → r.op = .read len → r.target = t → t.val ≤ 8 → s.hung t = false →
      s.badAt r.addr len = false → (s.softs r.addr len = 0 ∨ s.mild fsSramEccCorr) → Completes (.matrixGrant t) s fun u => u.mem = s.mem
        ∧ (s.softs r.addr len ≠ 0 → s.counts u R.FLT_COUNT fsSramEccCorr)
        ∧ u.mtx.resps = s.mtx.resps ++ [{ master := r.master, target := t, addr := r.addr, isWrite := false, data := some (s.bytes r.addr len), old := [], at_ := s.time.lc.toNat, dead := false }])
  ∧ (∀ (s : State) (n : Fin 12) (m : Fin 16) (t : Fin 12) (r : MResp) (x len : Nat) (a : BitVec 5) (bs : List Byte), m.val + 2 = n.val →
      s.mtx.resps.find? (fun r => r.master == m && r.target == t) = some r → r.isWrite = false → r.dead = false → r.data = some bs →
      (s.engine n).held = some (.load x len (.gpr a len false)) → (s.engine n).stopping = false → (s.engine n).wdogDue = false →
      (n = 2 → (s.engine n).nmi = false) →
      Completes (.matrixResponse m t) s fun u => (u.engine n).held = none ∧ u.pc n = s.pc n + 4 ∧ u.mtx.resps = s.mtx.resps.erase r
        ∧ ∀ y, u.g n y = if y = a ∧ a ≠ 0 then BitVec.ofNat 64 (ofLe bs) else s.g n y))
  ∧ ((∀ (s : State) (t : Fin 12) (r : MResp), s.mtx.resps.find? (fun r => r.target == t) = some r → t.val ≠ 0 → t.val ≠ 11 → s.hung t = false →
      (s.time.running = true → 4096 ≤ s.matrixCycles r.at_) →
      ∃ u : State, u.get R.MTX_TGT_STAT = s.get R.MTX_TGT_STAT ||| 2 ^ (t.val - 1) ∧ u.mem = s.mem
        ∧ u.mtx.resps = (s.mtx.resps.map fun x => if x.target == t then { x with data := none } else x)
        ∧ exec (.mtxTimeout t) s = .next ((u.mtxErr r.master r.addr t r.isWrite mkTimeout).forN ((s.mtx.resps.countP fun x => x.target == t) - 1) fun _ v =>
            v.mtxErr r.master r.addr t r.isWrite mkHung))
  ∧ (∀ (s : State) (n : Fin 12) (a : Nat), (s.engine n).storeErr = some a → s.engState n = 3 → (s.engine n).held = none →
      exec (.storeBuserr n) s = .next ((s.setEng n { s.engine n with storeErr := none }).trapAt n 3 (s.pc n) (some a) true))
  ∧ (∀ (s : State) (n : Fin 12), (s.engine n).held = some .fence → (s.engine n).wbuf = [] → (s.engine n).unacked = 0 → (s.engine n).wdogDue = false →
      (n = 2 → (s.engine n).nmi = false) → Completes (.writeBufferDrain n) s fun t =>
        (t.engine n).held = none ∧ t.pc n = s.pc n + 4 ∧ (t.engine n).g = (s.engine n).g ∧ t.mem = s.mem)
  ∧ (∀ (s : State) (n : Fin 12) (x cost : Nat) (bs : List Byte), (s.engine n).held = some (.store x bs cost) → (s.engine n).wbuf.length < 4 → 1 ≤ cost →
      (s.engine n).wdogDue = false → (n = 2 → (s.engine n).nmi = false) → Completes (.engineStallRelease n) s fun t =>
        (t.engine n).held = none ∧ t.pc n = s.pc n + 4 ∧ (t.engine n).wbuf = (s.engine n).wbuf ++ [{ addr := x, bytes := bs }])
  ∧ (∀ (s : State) (n : Fin 12) (a : BitVec 5) (at_ : Time) (mask : BitVec 7), (s.engine n).waiting = some (.instant a at_ mask) →
      let wake : BitVec 7 := ((s.engine n).events &&& mask &&& 0x7E) ||| (if at_.toNat ≤ (s.engineRt n).toNat then 1 else 0)
      wake ≠ 0 → (s.engine n).held = none → (s.engine n).wdogDue = false → (n = 2 → (s.engine n).nmi = false) →
      Completes (.engineWake n) s fun t => t.engState n = 3 ∧ (t.engine n).waiting = none ∧ t.get R.ENG_STAT_WAKE n = wake.toNat
        ∧ t.pc n = s.pc n + 4 ∧ (a ≠ 0 → t.g n a = wake.setWidth 64)))

/-- TAKING A TRAP (R268 to R270, R301): the pc, the cause and any address are saved and the flags kept; VECTOR sets IN_TRAP and goes on at TRAP_ENTRY, HALT
halts, and a trap other than NMI within a trap halts whatever is configured, as every trap of E0 and E1 does. ECALL (R300, R301): its trap saves the address after it, raises no fault, and is taken by the configured action; a trap of another cause raises the fault of
R268 besides. -/
def Obligations.TrapsOfEngines : Prop :=
  (∀ (s : State) (n : Fin 12) (cause : Nat) (epc : BitVec 16) (bad : Option Nat) (imp : Bool), 1 ≤ cause → cause ≤ 9 →
    let t := s.trapEnter n cause epc bad imp
    let act := if n.val < 2 then 1 else bits (s.get R.ENG_TRAP_CFG n) (2 * (cause - 1)) 2
    let double := s.flag R.ENG_STAT_IN_TRAP n = true ∧ cause ≠ 9
    let saved := t.get R.ENG_EPC n = epc.toNat ∧ t.get R.ENG_STAT_CAUSE n = cause
      ∧ (∀ x, bad = some x → t.get R.ENG_BADADDR n = x % 2 ^ 32) ∧ (cause = 3 → t.flag R.ENG_STAT_IMPRECISE n = imp)
      ∧ t.flags n = s.flags n ∧ (t.engine n).g = (s.engine n).g ∧ (t.engine n).v = (s.engine n).v ∧ t.mem = s.mem
      ∧ ∀ m, m ≠ n → t.engine m = s.engine m
    (¬double → act = 0 → saved ∧ t.flag R.ENG_STAT_IN_TRAP n = true ∧ t.engState n = 3 ∧ t.pc n = ((s.engine n).image.map (·.trapEntry)).getD 0)
    ∧ (double ∨ act = 1 → saved ∧ t.engState n = 5 ∧ (t.get R.ENG_EVT n).testBit 1 = true ∧ t.pc n = s.pc n)
    ∧ (¬double → act = 2 → ∃ u : State, t = u.engineReset n ∧ u.get R.ENG_EPC n = epc.toNat ∧ u.get R.ENG_STAT_CAUSE n = cause ∧ u.mem = s.mem))
  ∧ ((∀ (s : State) (n : Fin 12), s.ready n → 2 ≤ n.val → s.flag R.ENG_STAT_IN_TRAP n = false → bits (s.get R.ENG_TRAP_CFG n) 14 2 = 0 →
      Performs n (.ecall n) s fun t => t.get R.ENG_EPC n = (s.pc n + 4).toNat ∧ t.get R.ENG_STAT_CAUSE n = 8 ∧ t.flag R.ENG_STAT_IN_TRAP n = true
        ∧ t.pc n = ((s.engine n).image.map (·.trapEntry)).getD 0 ∧ t.engState n = 3 ∧ t.flags n = s.flags n ∧ (t.engine n).g = (s.engine n).g
        ∧ t.mem = s.mem)
  ∧ (∀ (s : State) (n : Fin 12) (cause : Nat) (bad : Option Nat), 2 ≤ n.val → s.flag R.ENG_STAT_IN_TRAP n = false →
      (cause = 1 ∨ cause = 2 ∨ cause = 3 ∨ cause = 6 ∨ cause = 7) → ∃ u : State, s.trap n cause bad = (u.trapEnter n cause (s.pc n) bad false).raise fsEngTrap n.val)
  ∧ (∀ (s : State) (n : Fin 12) (bad : Option Nat), 2 ≤ n.val → s.flag R.ENG_STAT_IN_TRAP n = false →
      ∃ u : State, s.trap n 4 bad = (u.trapEnter n 4 (s.pc n) bad false).raise fsEngEcc n.val)
  ∧ (∀ (s : State) (n : Fin 12), (s.engine n).wdogOn = true → s.passed (s.engine n).wdogAt (s.get R.ENG_WDOG n) = true → s.engState n = 3 → (s.engine n).held = none →
      ∃ u : State, exec (.engWdogExpiry n) s = .next (u.trap n 7) ∧ (u.engine n).wdogOn = false ∧ (u.get R.ENG_EVT n).testBit 6 = true ∧ u.pc n = s.pc n))

/-- RUN and GATE (R260): RUN in STOPPED starts an engine with a measured image at ENTRY and is refused without one, and in BLANK and RETIRED to E2 to E11 (R446, R450); clearing it asks a running engine to
stop, which completes once no matrix access is outstanding, and brings a HALTED one to STOPPED; GATE moves between STOPPED and OFF. Resets of one engine (R12, R255, R260, R267): every item of an engine takes its reset value, its image and memories stay, and it runs from ENTRY where RUN
and MEAS_VALID are set and is STOPPED else; nothing happens in OFF and MEASURING. -/
def Obligations.EngineRunGateAndReset : Prop :=
  (∀ (s : State) (m : Master) (n : Fin 12),
    let st := s.engState n
    let e := s.engine n
    let others := fun (t : State) => t.mem = s.mem ∧ ∀ k, k ≠ n → t.engine k = s.engine k
    (s.writes m (R.ENG_CTRL_RUN.at n) →
      let retired := 2 ≤ n.val ∧ (s.get R.SEC_STATE_LC = 4 ∨ s.get R.SEC_STATE_LC = 0)
      let since := { e with stopAt := s.time.lc.toNat }
      (st = 1 → ¬retired → s.flag R.ENG_STAT_MEAS_VALID n = true → (n = 2 → e.nmi = false) → Completes (.engRunSet m n) s fun t =>
        t.engState n = 3 ∧ t.flag R.ENG_CTRL_RUN n = true ∧ t.pc n = (e.image.map (·.entry)).getD 0 ∧ others t)
      ∧ (st = 1 → s.flag R.ENG_STAT_MEAS_VALID n = false ∨ retired → Completes (.engRunSet m n) s fun t =>
        t.engState n = 1 ∧ t.flag R.ENG_CTRL_RUN n = false ∧ t.get R.ENG_EVT n = s.get R.ENG_EVT n ||| 2 ^ 4 ∧ t.engine n = e ∧ others t)
      ∧ (s.flag R.ENG_CTRL_RUN n = true → st = 3 ∨ st = 4 → Completes (.engRunClear m n) s fun t =>
        t.engState n = st ∧ t.flag R.ENG_CTRL_RUN n = false ∧ t.engine n = { e with stopping := true } ∧ others t)
      ∧ (s.flag R.ENG_CTRL_RUN n = true → st = 5 → Completes (.engRunClear m n) s fun t =>
        t.engState n = 1 ∧ t.flag R.ENG_CTRL_RUN n = false ∧ t.engine n = since ∧ others t)
      ∧ (s.flag R.ENG_CTRL_GATE n = false → st = 1 → Completes (.engGateSet m n) s fun t =>
        t.engState n = 0 ∧ t.flag R.ENG_CTRL_GATE n = true ∧ t.engine n = e ∧ others t)
      ∧ (s.flag R.ENG_CTRL_GATE n = true → s.flag R.ENG_CTRL_RUN n = false → st = 0 → Completes (.engGateClear m n) s fun t =>
        t.engState n = 1 ∧ t.flag R.ENG_CTRL_GATE n = false ∧ t.engine n = since ∧ others t))
    ∧ (e.stopping = true → s.accessOut n = false → Completes (.engStopComplete n) s fun t =>
        t.engState n = 1 ∧ t.engine n = { e with stopping := false, tickets := [], held := none, waiting := none, stopAt := s.time.lc.toNat } ∧ t.get R.ENG_STAT_TICKETS n = 0
        ∧ t.jobs = s.jobs.map (fun j => if j.eng == n then { j with live := false } else j) ∧ others t)
    ∧ (e.stopping = true → s.accessOut n = true → exec (.engStopComplete n) s = .next s))
  ∧ (∀ (s : State) (m : Master) (n : Fin 12),
    let st := s.engState n
    let e := s.engine n
    let entry := (e.image.map (·.entry)).getD 0
    let fresh := fun (t : State) =>
      t.engine n = { Engine.reset with image := e.image, pc := entry, events := 0, lastTicket := e.lastTicket, wdogOn := e.wdogOn,
                                          wdogAt := e.wdogAt, stopAt := s.time.lc.toNat }
      ∧ t.engState n = (if s.flag R.ENG_CTRL_RUN n && s.flag R.ENG_STAT_MEAS_VALID n then 3 else 1)
      ∧ t.flag R.ENG_STAT_IN_TRAP n = false ∧ t.mem = s.mem ∧ (∀ k, k ≠ n → t.engine k = s.engine k)
      ∧ t.jobs = s.jobs.map fun j => if j.eng == n then { j with live := false } else j
    (st = 3 ∨ st = 4 ∨ st = 5 → Completes (.engineReset n none) s fresh)
    ∧ (st = 0 ∨ st = 2 → exec (.engineReset n none) s = .next s)
    ∧ (s.writes m (R.ENG_CTRL_RUN.at n) → st = 3 ∨ st = 4 ∨ st = 5 → Completes (.ereset m n none) s fresh))

/-- Loading an engine (R261, R272, R273): IMEM is written in STOPPED and HALTED and the measured image is then void; LOAD_DONE starts the measurement, and its
end reports the first check that failed or the digest, version and lengths of the image. Doorbell and watchdog registers of an engine (R263, R264, R268, R278): a write of ENG_DBELL sets pending bits and is the DBELL event; a write of ENG_WDOG sets
the period and starts the count; its expiry, once the period has passed without a write, sets the event bit and traps, at once or when the held instruction has completed. -/
def Obligations.EngineLoadingAndDoorbells : Prop :=
  (∀ (s : State) (m : Master) (n : Fin 12),
    let st := s.engState n
    let h := leBytes 128 (s.wordsN (R.ENG_LOAD_HDR.at n) 32)
    let il := leAt h 8 4
    let dl := leAt h 12 4
    (∀ (off : Nat) (v : Word), 2 ≤ n.val → off % 4 = 0 → 0x80000 ≤ off → off < 0x90000 → s.answers m = true → s.rights m (R.ENG_CTRL_RUN.at n + off) = .rw →
      let cell := 0x44000000 + n.val * 0x100000 + off
      (st = 1 ∨ st = 5 → Completes (.imemWrite m n off v) s fun t => t.bytes cell 4 = leBytes 4 v.toNat ∧ t.flag R.ENG_STAT_MEAS_VALID n = false
        ∧ t.engState n = st ∧ ∀ x, x < cell ∨ cell + 4 ≤ x → t.byte x = s.byte x)
      ∧ (st ≠ 1 → st ≠ 5 → Completes (.imemWrite m n off v) s fun t => t.mem = s.mem ∧ t.get R.ENG_EVT n = s.get R.ENG_EVT n ||| 2 ^ 5))
    ∧ (s.writes m (R.ENG_CTRL_RUN.at n) →
      (st = 1 → Completes (.loadDone m n) s fun t => t.engState n = 2 ∧ t.mem = s.mem ∧ t.eng = s.eng)
      ∧ (st ≠ 1 → Completes (.loadDone m n) s fun t => t.engState n = st ∧ t.get R.ENG_EVT n = s.get R.ENG_EVT n ||| 2 ^ 3 ∧ t.mem = s.mem ∧ t.eng = s.eng))
    ∧ (st = 2 → (s.engine n).rom = false →
      (headerFault n false h ≠ 0 → Completes (.measurementDone n) s fun t => t.engState n = 1 ∧ t.get R.ENG_STAT_LOAD_REASON n = headerFault n false h
        ∧ t.flag R.ENG_STAT_MEAS_VALID n = false ∧ t.get R.ENG_EVT n = s.get R.ENG_EVT n ||| 2 ^ 2 ∧ t.mem = s.mem)
      ∧ (headerFault n false h = 0 →
        let body := s.bytes (imemAt n) il ++ s.bytes (dmemAt n) dl
        (sha256 body ≠ slice h 0x20 32 → Completes (.measurementDone n) s fun t => t.engState n = 1 ∧ t.get R.ENG_STAT_LOAD_REASON n = 5
          ∧ t.flag R.ENG_STAT_MEAS_VALID n = false)
        ∧ (sha256 body = slice h 0x20 32 → Completes (.measurementDone n) s fun t => t.engState n = 1 ∧ t.get R.ENG_STAT_LOAD_REASON n = 0
          ∧ t.flag R.ENG_STAT_MEAS_VALID n = true ∧ t.get R.ENG_MEAS n = (sha256D (h ++ body)).toNat ∧ t.get R.ENG_IMG_VER n = leAt h 28 4
          ∧ t.get R.ENG_IMG_LEN_IMEM_WORDS n = il / 4 ∧ t.get R.ENG_IMG_LEN_DMEM_WORDS n = dl / 4
          ∧ (t.engine n).image = some { cls := leAt h 6 1, entry := BitVec.ofNat 16 (leAt h 16 4), trapEntry := BitVec.ofNat 16 (leAt h 20 4)
                                        restart := BitVec.ofNat 16 (leAt h 24 4) }))))
  ∧ (∀ (s : State) (m : Master) (n : Fin 12) (v : Word),
    let e := s.engine n
    (s.writes m (R.ENG_DBELL.at n) → v ≠ 0 → Completes (.engDbellWrite m n v) s fun t =>
        t.get R.ENG_DBELL_PEND n = s.get R.ENG_DBELL_PEND n ||| v.toNat ∧ t.engine n = { e with events := e.events ||| 0x10 } ∧ t.mem = s.mem)
    ∧ (s.writes m (R.ENG_WDOG.at n) → Completes (.engWdogWrite m n v) s fun t =>
        t.get R.ENG_WDOG n = v.toNat % 2 ^ 24 ∧ t.engine n = { e with wdogOn := decide (v.toNat % 2 ^ 24 ≠ 0), wdogAt := s.time.lc.toNat, wdogDue := false } ∧ t.mem = s.mem)
    ∧ (e.wdogOn = true → s.passed e.wdogAt (s.get R.ENG_WDOG n) = true → s.engState n = 3 ∨ s.engState n = 4 → e.held.isSome = true → Completes (.engWdogExpiry n) s fun t =>
        t.engine n = { e with wdogOn := false, wdogDue := true } ∧ t.get R.ENG_EVT n = s.get R.ENG_EVT n ||| 2 ^ 6 ∧ t.mem = s.mem)
    ∧ (e.wdogOn = true → s.passed e.wdogAt (s.get R.ENG_WDOG n) = true → s.engState n = 3 ∨ s.engState n = 4 → e.held = none →
        ∃ u : State, u.get R.ENG_EVT n = s.get R.ENG_EVT n ||| 2 ^ 6 ∧ u.engine n = { e with wdogOn := false } ∧ u.mem = s.mem
          ∧ exec (.engWdogExpiry n) s = .next (u.trap n cWDOG)))

/-- Guard and the Warden (R461 to R464): a miss in NORMAL or AWAIT, once HB_TIMEOUT has passed, raises WARDEN_HB_MISS and reloads the Warden from the recovery image, the third within 600 s
gives it up; RESTART leaves ABANDONED; GUARD_FAIL follows the heartbeat of Guard by 10 ms, and BARK_N its causes. Fault sources (R454 to R456, R460): a source that is raised sets its status bit and counts; a write of FLT_RAISE raises the SW_FAULT of its number; a write
of 1 clears a status bit but those of class F for engines and functions other than PF0, and those still active; the fixed reactions stay. REPLACING A SERVING ENGINE (R275): the Warden moves its indices and shares away, waits until it is idle and stops it, starts the new image, and gives the indices and shares back. -/
def Obligations.GuardFaultsAndReplacement : Prop :=
  (∀ (s : State) (m : Master),
    let recent := s.flt.misses.filter fun t => decide (s.rtSec < t + 600)
    let loaded := fun (t : State) => t.guard = 1 ∧ t.engState 2 = 2 ∧ t.flag R.ENG_CTRL_RUN 2 = false ∧ (t.engine 2).rom = true
    (loaded s.guardReload ∧ s.guardReload.get R.FLT_GUARD_STAT_RELOADS = Nat.min (s.get R.FLT_GUARD_STAT_RELOADS + 1) 65535)
    ∧ (s.guard = 0 ∨ s.guard = 2 → s.passed s.flt.hbAt (s.get R.FLT_GUARD_CFG * 1000) = true → ∃ u : State, u.flt.misses = recent ++ [s.rtSec] ∧ u.get R.FLT_GUARD_STAT_MISSES = Nat.min (recent.length + 1) 3
        ∧ exec .guardHbMiss s = .next (if recent.length + 1 ≥ 3 then (u.raise fsWardenHbMiss 2).guardAbandon else (u.raise fsWardenHbMiss 2).guardReload))
    ∧ ((s.guard ≠ 0 ∧ s.guard ≠ 2) ∨ s.passed s.flt.hbAt (s.get R.FLT_GUARD_CFG * 1000) = false → exec .guardHbMiss s = .next s)
    ∧ (s.writes m (R.FLT_GUARD_CTRL.at 0) → s.guard = 4 → Completes (.guardRestart m) s fun t =>
        loaded t ∧ t.flt.misses = [] ∧ t.get R.FLT_GUARD_STAT_MISSES = 0 ∧ t.active fsWardenAbandoned = false)
    ∧ (let gap := s.passed s.flt.guardAt 10000
       let beat : State := { s with flt := { s.flt with guardAt := s.time.lc.toNat, guardFrom := if gap then s.time.lc.toNat else s.flt.guardFrom } }
       (s.knl.guardFail = false ∨ gap = true ∨ s.passed s.flt.guardFrom 10000 = false → exec .guardHeartbeat s = .next beat)
       ∧ (s.knl.guardFail = true → gap = false → s.passed s.flt.guardFrom 10000 = true → Completes .guardHeartbeat s fun t =>
            t.knl.guardFail = false ∧ t.active fsGuardFail = false ∧ t.mem = s.mem))
    ∧ (s.passed s.flt.guardAt 10000 = false → exec .guardFailTimeout s = .next s)
    ∧ (s.passed s.flt.guardAt 10000 = true → s.active fsGuardFail = false → ∃ u : State, u.knl.guardFail = true ∧ u.active fsGuardFail = true ∧ u.mem = s.mem
        ∧ exec .guardFailTimeout s = .next (u.raise fsGuardFail).syncFlt)
    ∧ (s.passed s.flt.barkAt 10 = true → s.pinSource = false → s.guard ≠ 4 → s.knl.guardFail = false → s.flag R.FLT_CFG_BARK_TEST = false → s.flag R.FLT_STICKY_PIN_HELD = false →
        Completes .barkNMinHold s fun t => t.flt.bark = false ∧ t.flt.barkHold = false ∧ t.get R.FLT_STAT_BARK = 0))
  ∧ (∀ (s : State) (m : Master) (v : Word),
    (∀ (k inst : Nat) (info : List Byte), (fsInfo k).isSome = true → k < 256 →
      let t := s.raiseCore k inst info
      t.get R.FLT_STATUS (k / 32) = s.get R.FLT_STATUS (k / 32) ||| 2 ^ (k % 32) ∧ t.get R.FLT_COUNT k = Nat.min (s.get R.FLT_COUNT k + 1) 65535
        ∧ (∀ j, j < 8 → j ≠ k / 32 → t.get R.FLT_STATUS j = s.get R.FLT_STATUS j))
    ∧ (s.writes m (R.FLT_RAISE.at 0) → exec (.fltRaiseWrite m v) s
        = .next ((s.quiet.raise (144 + v.toNat % 16) (match m with | .eng n => n.val | _ => noInst)).irqFollow s.quiet))
    ∧ (∀ w : Fin 8, s.writes m (R.FLT_STATUS.at w) → Completes (.fltStatusClear m w v) s fun t =>
        ∀ b, b < 32 →
          let k := 32 * w.val + b
          let cls : Nat := ((fsInfo k).map (·.1)).getD 0
          (t.get R.FLT_STATUS w).testBit b = ((s.get R.FLT_STATUS w).testBit b && !(v.getLsbD b && (decide (cls < 2) || asPf0 m) && !s.active k)))
    ∧ (∀ k : BitVec 8, s.writes m (R.FLT_REACT_REACT.at k.toNat) → Completes (.fltReactWrite m k v) s fun t =>
        t.get R.FLT_REACT_REACT k.toNat
          = (s.get R.FLT_REACT_REACT k.toNat &&& (63 - reactOpen k.toNat)) ||| (v.toNat &&& reactOpen k.toNat)))
  ∧ (∀ (s : State) (n : Fin 12) (k : Fin 8), n.val = k.val + 4 →
    let waits := (s.get R.SRV_STAT).testBit 0 = true
    let sum := fun (t : State) => (t.srv.share.toList).sum
    (s.srv.repl = none → waits → exec (.engineReplace n) s = .next s)
    ∧ (s.srv.repl = none → ¬waits → Completes (.engineReplace n) s fun t => (t.get R.SRV_STAT).testBit 0 = true ∧ sum t = sum s ∧ t.mem = s.mem ∧ t.eng = s.eng
        ∧ (∀ i, i < 256 → s.steerTo i = k.val → bits (t.get R.SRV_STEER_SHADOW) (4 * i) 4 ≠ k.val) ∧ (∀ i, i < 256 → s.steerTo i ≠ k.val →
            bits (t.get R.SRV_STEER_SHADOW) (4 * i) 4 = bits (s.get R.SRV_STEER_ACTIVE) (4 * i) 4)
        ∧ ∃ r, t.srv.repl = some r ∧ r.k = k ∧ r.phase = 1 ∧ r.mine = (List.range 256).filter fun i => s.steerTo i == k.val)
    ∧ (∀ r, s.srv.repl = some r → r.k = k →
        (r.phase = 1 → waits ∨ s.idleS k = false → exec (.engineReplace n) s = .next s)
        ∧ (r.phase = 1 → ¬waits → s.idleS k = true → Completes (.engineReplace n) s fun t => t.srv = { s.srv with repl := some { r with phase := 2 } } ∧ t.flag R.ENG_CTRL_RUN n = false
            ∧ (t.get R.ENG_DBELL_PEND 2).testBit (k.val + 4) = true ∧ t.mem = s.mem)
        ∧ (r.phase = 2 → s.engState n = stStopped → s.flag R.ENG_STAT_MEAS_VALID n = true → s.lc ≠ 4 → Completes (.engineReplace n) s fun t => t.engState n = stRunning
            ∧ t.flag R.ENG_CTRL_RUN n = true ∧ t.srv = { s.srv with repl := some { r with phase := 3, hb := s.get R.ENG_HB n } } ∧ t.mem = s.mem)
        ∧ (r.phase = 2 → s.engState n ≠ stStopped ∨ s.flag R.ENG_STAT_MEAS_VALID n = false → exec (.engineReplace n) s = .next s)
        ∧ (r.phase = 3 → s.get R.ENG_HB n = r.hb ∨ waits → exec (.engineReplace n) s = .next s)
        ∧ (r.phase = 3 → s.get R.ENG_HB n ≠ r.hb → ¬waits → Completes (.engineReplace n) s fun t => t.srv.repl = none ∧ (t.get R.SRV_STAT).testBit 0 = true
            ∧ t.srv.share[k] = s.srv.share[k] + r.moved.sum ∧ t.mem = s.mem ∧ t.eng = s.eng))
    ∧ (∀ r, s.srv.repl = some r → r.k ≠ k → exec (.engineReplace n) s = .next s))

/-- THE COUNT (R29, R31, R50): on a tick LC with its hidden fraction advances by KNL_LC_INC modulo 2^128, the SN count by the next step of its cadence, three
of which make 2.5 ns; no set changes, and nothing happens before KPLL has locked. STEPS AND LOADS OF THE SN COUNT (R40, R51, R52): a step order due in an SN state adds STEP to the count; a write of KNL_SN_LOAD3 in SN_BOOT loads the count 256
ticks later, and is refused while a change of source is armed or out of SN_BOOT. -/
def Obligations.TicksStepsAndLoads : Prop :=
  ((∀ s : State, s.time.running = true → Completes .kpllTick s fun t =>
      t.time.lc.toNat * 2 ^ 32 + t.time.frac.toNat = (s.time.lc.toNat * 2 ^ 32 + s.time.frac.toNat + s.lcInc) % 2 ^ 128
      ∧ t.time.sn = snNext s.time.sn s.time.cad ∧ t.time.cad = (s.time.cad + 1) % 3 ∧ t.time.tick = s.time.tick + 1
      ∧ t.time.cset = s.time.cset ∧ t.mode = s.mode ∧ t.mem = s.mem ∧ t.eng = s.eng)
  ∧ (∀ s : State, s.time.running = false → exec .kpllTick s = .next s)
  ∧ ∀ x : Time, x.toNat % 2 ^ 48 < 1000000000 * 2 ^ 16 → x.toNat / 2 ^ 48 < 2 ^ 48 - 1 →
      let units := fun (y : Time) => y.toNat / 2 ^ 48 * (1000000000 * 2 ^ 16) + y.toNat % 2 ^ 48
      units (snNext (snNext (snNext x 0) 1) 2) = units x + 163840)
  ∧ (∀ s : State,
    (s.inLc = false → ∀ o : StepOrd, s.time.steps = [o] → o.due ≤ s.time.tick → s.room 1 → Completes .stepSnEffect s fun t =>
        t.time.sn = t96ToSn96 (sn96ToT96 s.time.sn + o.step) ∧ t.time.steps = [] ∧ t.get R.KNL_TIME_STAT_STEP_DONE = 1
        ∧ (t.time.hist.head?.map (·.kind)) = some 2 ∧ t.time.lc = s.time.lc)
    ∧ (s.inLc = true → exec .stepSnEffect s = .next s)
    ∧ (∀ (m : Master) (v : Word), s.writes m (R.KNL_SN_LOAD3.at 0) → s.holdw = [] →
        (s.time.armed = none → s.mode = 0 → Completes (.snLoadWrite m v) s fun t =>
          t.time.snLoad = some (BitVec.ofNat 96 (s.get R.KNL_SN_LOAD0 + 2 ^ 16 * s.get R.KNL_SN_LOAD1 + 2 ^ 48 * s.get R.KNL_SN_LOAD2
            + 2 ^ 80 * v.toNat), s.time.tick + 256))
        ∧ (s.mode ≠ 0 → Completes (.snLoadWrite m v) s fun t =>
          t.time.snLoad = s.time.snLoad ∧ t.get R.KNL_TIME_STAT_SN_LOAD_REFUSED = 1)
        ∧ (s.time.armed.isSome = true → Completes (.snLoadWrite m v) s fun t =>
          t.time.snLoad = s.time.snLoad ∧ t.get R.KNL_TIME_STAT_BUSY_REFUSED = 1))
    ∧ (∀ (v : Time) (due : Nat), s.time.snLoad = some (v, due) → due ≤ s.time.tick → s.mode = 0 → Completes .snLoadEffect s fun t =>
        t.time.sn = v ∧ t.time.snLoad = none ∧ t.regs = s.regs ∧ t.mem = s.mem)
    ∧ (∀ (v : Time) (due : Nat), s.time.snLoad = some (v, due) → s.time.tick < due → exec .snLoadEffect s = .next s))

/-- UPDATES IN LC (R34 to R40): at the effective tick the new set has its anchor at LC and its offset at the RT of the old set, so that RT goes on without a jump;
the rate is FREQ and the slew term, which the end of the slew takes away; a step order alone moves RT, by STEP; a rate beyond the limit changes no set;
a PHASE beyond JUMP_MAX is refused when the update is accepted, 256 ticks and 1 ms after the one before at the earliest. THE BOUNDARY OF A SECOND (R512): it is served once, while time runs and the second has changed, in the order bank switch, Scent, selection, oscillators,
K-pair, servo, Leash and what the other blocks do once per second; a second already served changes nothing; a seal asked for takes effect there unless the log or the image is bad (R84), and both K-engines have their wake event. -/
def Obligations.UpdatesAndBoundaries : Prop :=
  (∀ s : State, s.inLc = true →
    let due := fun (d : Nat) => d ≤ s.time.tick
    let made := fun (t : State) (ofs : Time) (rate : DWord) => t.time.cset = { ofs := ofs, anchor := s.time.lc, rate := rate } ∧ t.rt = ofs
      ∧ t.get R.KNL_TIME_MODE_CSET_VER = (s.get R.KNL_TIME_MODE_CSET_VER + 1) % 65536 ∧ t.time.fw = none ∧ t.time.lc = s.time.lc
    (s.time.fw = none → s.time.freeze = none → s.time.steps = [] → s.time.slew = none → exec .updateEffectiveTick s = .next s)
    ∧ (∀ u : FwUpd, s.time.fw = some u → due u.due → s.time.freeze = none → s.time.steps = [] → s.time.slew = none →
        (u.phase = 0 → rateOk u.freq.toInt = true → Completes .updateEffectiveTick s fun t =>
          made t s.rt u.freq ∧ t.time.slew = none ∧ t.time.lastFw = some s.time.tick)
        ∧ (u.phase = 0 → rateOk u.freq.toInt = false → Completes .updateEffectiveTick s fun t =>
          t.time.cset = s.time.cset ∧ t.time.fw = none ∧ t.get R.KNL_TIME_STAT_RATE_RANGE = 1 ∧ t.rt = s.rt)
        ∧ (u.phase ≠ 0 →
          let term := s.slewTerm u.phase.toInt u.slewReq.toNat
          rateOk (u.freq.toInt + term) = true → Completes .updateEffectiveTick s fun t =>
            made t s.rt (BitVec.ofInt 64 (u.freq.toInt + term)) ∧ t.get R.KNL_TIME_MODE_SLEWING = 1
            ∧ t.time.slew = some { s := BitVec.ofInt 64 term, phase := u.phase, start := s.time.lc, part := 0 }))
    ∧ (∀ z : FreezeUpd, s.time.freeze = some z → due z.due → s.time.steps = [] → s.time.slew = none → rateOk z.freq.toInt = true →
        Completes .updateEffectiveTick s fun t => made t s.rt z.freq ∧ t.time.freeze = none ∧ (t.time.hist.head?.map (·.kind)) = some 5)
    ∧ (∀ w : Slew, s.time.slew = some w → w.reached s.time.lc = true → s.time.fw = none → s.time.freeze = none → s.time.steps = [] →
        rateOk (s.time.cset.rate.toInt - w.s.toInt) = true → Completes .endOfSlewUpdate s fun t =>
          made t s.rt (BitVec.ofInt 64 (s.time.cset.rate.toInt - w.s.toInt)) ∧ t.time.slew = none ∧ t.get R.KNL_TIME_MODE_SLEWING = 0)
    ∧ (∀ o : StepOrd, s.time.steps = [o] → due o.due → s.time.fw = none → s.time.freeze = none → s.time.slew = none →
        rateOk s.time.cset.rate.toInt = true → s.room 1 → Completes .updateEffectiveTick s fun t =>
          made t (s.rt + o.step) s.time.cset.rate ∧ t.time.steps = [] ∧ t.get R.KNL_TIME_STAT_STEP_DONE = 1
          ∧ t.get R.KNL_MBX_CMD_CNT = o.counter.toNat)
    ∧ (∀ u : FwUpd, let t := s.acceptFw u
        let range := (s.anchorForm u.freq.toInt u.phase.toInt u.slewReq.toNat).testBit 1
        (s.beyondJump u.phase.toInt = true → t.get R.KNL_TIME_STAT_JUMP_REFUSED = 1)
        ∧ (s.slewMax < u.slewReq.toNat → t.get R.KNL_TIME_STAT_SLEW_CLAMPED = 1)
        ∧ (range = true → t.get R.KNL_TIME_STAT_RATE_RANGE = 1 ∧ t.time.fw = s.time.fw)
        ∧ (range = false → ∃ due, s.time.tick + 256 ≤ due ∧ (∀ l, s.time.lastFw = some l → l + 1200000 ≤ due)
            ∧ t.time.fw = some { u with phase := if s.beyondJump u.phase.toInt then 0 else u.phase, due := due })))
  ∧ ((∀ s : State, s.time.running = false ∨ s.rtSec ≤ s.time.prevSec → exec .boundaryEvent s = .next s)
  ∧ (∀ s : State, s.time.running = true → s.time.prevSec < s.rtSec →
      let a : State := { s with time := { s.time with prevSec := s.rtSec, lastSecond := s.rtSec } }
      let b := a.bankSwitch.latRefresh.refEnables.syncTb
      let core : State := { b with lsh := { b.lsh with due := some (b.leashBoundary.get R.LSH_CORE) } }
      let sel := (core.scentBoundary.select true).wholeSeconds
      let pair := (State.oscBoundary { sel with lsh := { sel.lsh with due := none } }).oscWeights.pairBoundary (a.get R.KNL_SEAL_STAT_STATE != 0)
      let c := pair.sealBoundary.servoBoundary.leashBoundary
      let d := (if (c.servo = 3 || c.frozen) && !(b.servo = 3 || b.frozen) then c.leashWiden else c).showHold.kinBoundary.tdcBoundary
      let e := (d.gnsBoundary.linkSecond.packSecond.braceSecond.guardSecond.ageBy 1).boneRefresh.buryRepeat.dbgSecond.snReturn
      Completes .boundaryEvent s fun t => (e.knl.guardFail = false → t = e) ∧ (e.knl.guardFail = true → e.flag R.BRC_STAT_PARTNER_SERVING = true → t = e.chipResetChecked 2))
  ∧ (∀ s : State, s.knl.sealPend = true → s.sealBoundary.knl.sealPend = false
      ∧ s.sealBoundary.sealState = (if s.sealState = 4 ∨ s.sealState = 5 then s.sealState else 0))
  ∧ ∀ s : State, (s.kinBoundary.engine 0).events = (s.engine 0).events ||| 0x40 ∧ (s.kinBoundary.engine 1).events = (s.engine 1).events ||| 0x40
      ∧ s.kinBoundary.knl.kinPrev = s.knl.kin ∧ s.kinBoundary.knl.kin = [])

/-- CHANGES OF THE TIME SOURCE (R51, R53, R54, R106): at tick H a handover into LC makes a set from the SN count, with FREQ as its rate; leaving LC seeds the SN count
from RT, discards updates and slew and puts the servo in FREE_RUN; a bad set copy in LC arms SN_RECOVERY. UTC AND THE TIME BUS (R47, R48, R56): the leap flags show an announced leap second from their instants on; its end moves the offset by one second and sets
LEAP_DONE; a reader whose replica differs from the full word sets its mismatch bit, counts, reloads it, and marks its
timestamps degraded. -/
def Obligations.TimeSourcesAndBus : Prop :=
  (∀ s : State,
    (∀ (a : Armed) (due : Nat), s.time.armed = some (a, due) → s.time.tick < due → exec .handoverTick s = .next s)
    ∧ (s.time.armed = none → exec .handoverTick s = .next s)
    ∧ (∀ (f : DWord) (due : Nat), s.time.armed = some (.toLc f, due) → due ≤ s.time.tick → Completes .handoverTick s fun t =>
        t.mode = 1 ∧ t.time.cset = { ofs := sn96ToT96 s.time.sn, anchor := s.time.lc, rate := f } ∧ t.rt = sn96ToT96 s.time.sn
        ∧ t.time.armed = none ∧ t.get R.KNL_TIME_MODE_ARMED = 0 ∧ t.get R.KNL_TIME_STAT_HANDOVER_DONE = 1 ∧ t.time.lastFw = some s.time.tick)
    ∧ (∀ (a : Armed) (due : Nat), s.inLc = true → s.time.armed = some (a, due) → due ≤ s.time.tick → a = .toTest ∨ a = .toRecovery →
        Completes .handoverTick s fun t => t.mode = (if a = .toTest then 3 else 2) ∧ t.time.sn = t96ToSn96 s.rt ∧ t.time.fw = none
          ∧ t.time.freeze = none ∧ t.time.slew = none ∧ t.servo = 0 ∧ t.time.armed = none ∧ t.get R.KNL_TIME_STAT_HANDOVER_DONE = 1
          ∧ (a = .toRecovery → t.get R.KNL_TIME_STAT_SN_ENTERED = 1))
    ∧ exec (.csetEccError false false) s = .next s
    ∧ (∀ a b : Bool, a = true ∨ b = true → ∃ u : State, u.get R.KNL_TIME_STAT_CSET_ECC = 1 ∧ u.time.cset = s.time.cset ∧ u.mode = s.mode
        ∧ (s.inLc = true → s.time.armed = none → u.time.armed = some (.toRecovery, s.time.tick + 256) ∧ u.get R.KNL_TIME_MODE_ARMED = 1)
        ∧ exec (.csetEccError a b) s = .next (u.raise fsCsetEcc)))
  ∧ (∀ s : State,
    (s.time.leap = none → Completes .leapFlagSet s fun t => t.time.ptpLeap = 0 ∧ t.time.ntpLeap = 0 ∧ t.regs = s.regs)
    ∧ (∀ l : Leap, s.time.leap = some l → Completes .leapFlagSet s fun t => t.regs = s.regs
        ∧ t.time.ptpLeap = (if s.rtSec + 43200 ≥ l.at_ then BitVec.ofNat 2 l.kind else 0)
        ∧ t.time.ntpLeap = (if s.rtSec + (if l.kind = 1 then 86401 else 86399) ≥ l.at_ then BitVec.ofNat 2 l.kind else 0))
    ∧ (s.time.leap = none → exec .leapSecondEvent s = .next s)
    ∧ (∀ l : Leap, s.time.leap = some l → s.rtSec < l.at_ → exec .leapSecondEvent s = .next s)
    ∧ (∀ l : Leap, s.time.leap = some l → l.at_ ≤ s.rtSec → Completes .leapSecondEvent s fun t =>
        t.get R.KNL_UTC_UTC_OFFSET = (s.get R.KNL_UTC_UTC_OFFSET + (if l.kind = 1 then 1 else 65535)) % 65536 ∧ t.time.leap = none
        ∧ t.get R.KNL_LEAP_AT = 0 ∧ t.get R.KNL_TIME_STAT_LEAP_DONE = 1 ∧ t.rt = s.rt)
    ∧ (∀ (n : Fin 11) (by_ : Int), let x := s.upset n by_
        (x.replicaWord n = x.fullWord.1 → exec (.tbusFullWordCheck n by_) s = .next x)
        ∧ (x.replicaWord n ≠ x.fullWord.1 →
          ∃ u : State, u.get R.KNL_TBUS_STAT_MISMATCH_CNT = Nat.min (s.get R.KNL_TBUS_STAT_MISMATCH_CNT + 1) (2 ^ R.KNL_TBUS_STAT_MISMATCH_CNT.width - 1)
          ∧ (n.val < 8 → u.get R.KNL_TBUS_STAT_PG_MISMATCH = s.get R.KNL_TBUS_STAT_PG_MISMATCH ||| 2 ^ n.val)
          ∧ (n.val = 8 → u.get R.KNL_TBUS_STAT_ENG_MISMATCH = 1) ∧ (n.val = 9 → u.get R.KNL_TBUS_STAT_SYN_MISMATCH = 1)
          ∧ (n.val = 10 → u.get R.KNL_TBUS_STAT_PCK_MISMATCH = 1) ∧ (u.time.readerDegr[n.val]?) = some (s.time.tick + 1024)
          ∧ (s.inLc = true → u.replicaWord n = u.fullWord.1)
          ∧ exec (.tbusFullWordCheck n by_) s = .next (u.degrSync.raise fsTbusMismatch n.val))))

/-- R33: in LC, RT is (ofs + delta + ⌊delta · rate / 2^64⌋) modulo 2^96 with delta = (lc − anchor) modulo 2^96, and every reader of one LC and one set has it:
the time register that TNOW writes, KNL_RT as it is read, and the tick of a boundary. -/
def Obligations.ReportedTime : Prop :=
  ∀ s : State, s.inLc = true →
    let delta : Nat := (s.time.lc.toNat + (2 ^ 96 - s.time.cset.anchor.toNat)) % 2 ^ 96
    let corr := Int.fdiv ((delta : Int) * s.time.cset.rate.toInt) (2 ^ 64)
    (s.rt.toNat : Int) = ((s.time.cset.ofs.toNat : Int) + delta + corr) % (2 ^ 96 : Int)
    ∧ s.rtSec = s.rt.toNat / 2 ^ 48
    ∧ (∀ k, k < 3 → (s.shown (0x100201C + 4 * k)).toNat = s.rt.toNat / 2 ^ (32 * k) % 2 ^ 32)
    ∧ (∀ (n : Fin 12) (a : BitVec 5) (va : BitVec 3), s.ready n → n.val < 2 ∨ s.time.replicas[8].lc = 0 →
        Performs n (.tnow n a va) s fun t => t.v n va = s.rt)

/-- R50: in every SN state the SN count advances on each tick by 54,613, 54,613 and 54,614 units of 2^-16 ns in turn, carrying into seconds at 1,000,000,000 ns,
with no offset and no rate; LC keeps running underneath; RT is the count converted by R44. -/
def Obligations.SnCountInSnStates : Prop :=
  ∀ s : State, s.inLc = false → s.time.running = true →
    let whole := 1000000000 * 2 ^ 16
    let units := s.time.sn.toNat % 2 ^ 48
    let secs := s.time.sn.toNat / 2 ^ 48
    let inc := if s.time.cad = 2 then 54614 else 54613
    s.rt.toNat = (secs + units / whole) % 2 ^ 48 * 2 ^ 48 + units % whole * 2 ^ 48 / whole
    ∧ Completes .kpllTick s fun t => t.inLc = false ∧ t.time.cad = (s.time.cad + 1) % 3
      ∧ (units + inc < whole → t.time.sn.toNat = secs * 2 ^ 48 + (units + inc))
      ∧ (units < whole → whole ≤ units + inc → t.time.sn.toNat = (secs + 1) % 2 ^ 48 * 2 ^ 48 + (units + inc - whole))
      ∧ t.time.lc.toNat * 2 ^ 32 + t.time.frac.toNat = (s.time.lc.toNat * 2 ^ 32 + s.time.frac.toNat + s.lcInc) % 2 ^ 128

/-- READS OF REGISTERS (R8 to R11, R26, R63, R278, R364, R366): a read answers what the word shows, in BAR0 and BAR2; the lowest word of a value latches all
its words for that master alone, and a read of a higher word answers the copy; an access that is not of an aligned word is answered with an error and
changes nothing else, whatever its address; an unmapped one of a function is counted and raised. WRITES OF REGISTERS (R9 to R11, R26, R27, R364, R366): in a word with no behaviour of its own the bits that the master reaches land: RW bits take the value,
W1C bits written as 1 become 0, others stand; a lower word of a value waits; a word with a behaviour has that; a write the master may not make changes no word, and is counted where a
function sees the field as read-only; a sealed word is out of reach of every direct write. R10: reserved bits read as 0, and an unassigned offset inside a block reads as 0 and ignores a write. -/
def Obligations.RegisterAccesses : Prop :=
  ((∀ (s : State) (m : Master) (a : Nat), a < bar2Base → s.answers m = true → a % 4 = 0 → s.rights m a ≠ .unmapped →
    let plain := s.engMem m a = none ∧ a ≠ R.KNL_MBX_CLAIM.addr ∧ ¬(0x1000400 ≤ a ∧ a < 0x1001400 ∧ (m = .pf 2 ∨ m = .pf 3))
    (plain → readGroup a = none → exec (.multiwordLatchRead m a) s = .next { s with answer := .data (s.shown a) })
    ∧ (∀ n, plain → readGroup a = some (a, n) → Completes (.multiwordLatchRead m a) s fun t => t.answer = .data (s.shown a)
        ∧ (∀ k, k < n → t.latched m (a + 4 * k) = s.shown (a + 4 * k)) ∧ (∀ m' x, readerId m' ≠ readerId m → t.latched m' x = s.latched m' x)
        ∧ { t with latch := s.latch, answer := s.answer } = s)
    ∧ (∀ b n, plain → readGroup a = some (b, n) → b ≠ a → exec (.multiwordLatchRead m a) s = .next { s with answer := .data (s.latched m a) })
    ∧ (0x1000400 ≤ a → a < 0x1001400 → m = .pf 2 ∨ m = .pf 3 → exec (.multiwordLatchRead m a) s = .next { s with answer := .data 0 })
    ∧ (a = R.KNL_MBX_CLAIM.addr → exec (.multiwordLatchRead m a) s = .next { (s.mbClaim m).2 with answer := .data (BitVec.ofNat 32 (s.mbClaim m).1) })
    ∧ (∀ n dmem cell, s.engMem m a = some (n, dmem, cell) → s.badAt cell 4 = false → s.softs cell 4 = 0 →
        exec (.multiwordLatchRead m a) s = .next { s with answer := .data (if dmem = true ∧ s.engState n = stOff then 0 else BitVec.ofNat 32 (s.memN cell 4)) }))
  ∧ (∀ (s : State) (m : Master) (a : Nat), a < bar2Base → s.answers m = false ∨ a % 4 ≠ 0 →
      exec (.multiwordLatchRead m a) s = .next { s with answer := .error })
  ∧ (∀ (s : State) (f : Fin 4) (o : Nat), s.answers (.pf f) = true → o % 4 = 0 → o < 0x4000 →
      exec (.multiwordLatchRead (.pf f) (bar2Base + o)) s = .next { s with answer := .data (if o < 16 * vecCount f.val then s.msixWord (16 * vecBase f.val + o)
        else if o = 0x2000 then BitVec.ofNat 32 (s.hst.pba.toNat / 2 ^ vecBase f.val % 2 ^ vecCount f.val) else 0) })
  ∧ (∀ (s : State) (m : Master) (a : Nat), a < bar2Base → s.answers m = true → a % 4 = 0 → s.rights m a = .unmapped → (∀ f, m ≠ .pf f) →
      exec (.multiwordLatchRead m a) s = .next { s with answer := .error } ∧ ∀ v, exec (.registerWrite m a v) s = .next { s with answer := .error })
  ∧ (∀ (s : State) (m : Master) (a : Nat) (w : Bool), exec (.registerBadAccess m a w) s = .next { s with answer := .error })
  ∧ (∀ (s : State) (f : Fin 4) (a : Nat) (w : Bool), s.answers (.pf f) = true → s.rights (.pf f) a = .unmapped →
      ∃ u : State, u.get R.HST_CNT_UNMAPPED = Nat.min (s.get R.HST_CNT_UNMAPPED + 1) (2 ^ 32 - 1)
        ∧ u.get R.HST_EVT = s.get R.HST_EVT ||| 2 ^ 4 ∧ u.mem = s.mem ∧ (w = true → u.answer = .none)
        ∧ exec (.hostUnmappedAccess f a w) s = .next (if w then u.raise fsHostUnmapped else { u.raise fsHostUnmapped with answer := .error })))
  ∧ ((∀ (s : State) (f : Fin 4) (o : Nat) (v : Word), s.answers (.pf f) = true → o % 4 = 0 → o < 0x4000 →
    (16 * vecCount f.val ≤ o → exec (.registerWrite (.pf f) (bar2Base + o) v) s = .next s.quiet)
    ∧ (o < 16 * vecCount f.val → Completes (.registerWrite (.pf f) (bar2Base + o) v) s fun t => t.mem = s.mem ∧ t.time = s.time
        ∧ t.msixWord (16 * vecBase f.val + o) = if o % 16 = 12 then v &&& 1 else if o % 16 = 0 then v &&& 0xFFFFFFFC#32 else v))
  ∧ (∀ (s : State) (m : Master) (o : Nat) (v : Word), s.answers m = false ∨ o % 4 ≠ 0 ∨ 0x4000 ≤ o ∨ (∀ f, m ≠ .pf f) →
      exec (.registerWrite m (bar2Base + o) v) s = .next { s with answer := .error } ∧ exec (.multiwordLatchRead m (bar2Base + o)) s = .next { s with answer := .error })
  ∧ ∀ (s : State) (m : Master) (a : Nat) (v : Word), a < bar2Base →
    let open_ := s.answers m = true ∧ a % 4 = 0 ∧ s.rights m a ≠ .unmapped ∧ s.engMem m a = none
    (s.answers m = false ∨ a % 4 ≠ 0 → exec (.registerWrite m a v) s = .next { s with answer := .error })
    ∧ (open_ → s.writeMask m a ≠ 0 → exec (.registerWrite m a v) s = .next ((s.quiet.enabledWrite m a v (s.writeMask m a)).irqFollow s.quiet))
    ∧ (open_ → s.writeMask m a ≠ 0 → s.quiet.bare m a v → Completes (.registerWrite m a v) s fun t =>
        (∀ b, b < 32 → (t.word a).getLsbD b =
          if s.reaches m a (fun x => x == .rw || (x == .wo && woKept a)) b then v.getLsbD b
          else if s.reaches m a (· == .w1c) b then (s.word a).getLsbD b && !v.getLsbD b else (s.word a).getLsbD b)
        ∧ (∀ x, x ≠ a → x < 0x500030 ∨ 0x500038 ≤ x → t.word x = s.word x) ∧ { t with regs := s.regs, hst := s.hst, answer := s.answer } = s)
    ∧ (∀ n cell, s.answers m = true → a % 4 = 0 → s.rights m a = .rw → s.engMem m a = some (n, true, cell) → s.engState n ≠ stOff →
        Completes (.registerWrite m a v) s fun t => t.mem = (s.setBytes cell (leBytes 4 v.toNat)).mem ∧ t.regs = s.regs ∧ t.time = s.time)
    ∧ (open_ → s.writeMask m a = 0 → (∀ f : Fin 4, m = .pf f → f = 0) → exec (.registerWrite m a v) s = .next s.quiet)
    ∧ (∀ f : Fin 4, f ≠ 0 → m = .pf f → open_ → s.writeMask m a = 0 → rowsAt a ≠ [] →
        ∃ u : State, u.get R.HST_CNT_ROWRITE = Nat.min (s.get R.HST_CNT_ROWRITE + 1) (2 ^ 32 - 1) ∧ u.get R.HST_EVT = s.get R.HST_EVT ||| 2 ^ 5
          ∧ (∀ x, x < 0x500000 ∨ 0x501000 ≤ x → u.word x = s.word x) ∧ u.mem = s.mem
          ∧ exec (.registerWrite m a v) s = .next (u.raise fsHostRoWrite) ∧ exec (.hostRoWrite f a v) s = .next (u.raise fsHostRoWrite))
    ∧ (∀ b n, open_ → s.writeMask m a ≠ 0 → writeGroup a = some (b, n) → a ≠ b + 4 * (n - 1) → enableAt a = none → R.PRT_CFG_ENABLE.hit 64 a = none →
        Completes (.registerWrite m a v) s fun t => t.holdw = (s.holdw.filter fun x => x.1 != a) ++ [(a, v)] ∧ ∀ x, x < 0x500030 ∨ 0x500038 ≤ x → t.word x = s.word x)
    ∧ (∀ k : Fin 64, a = R.HST_VEC_HOLDOFF.at k → s.writes m a → Completes (.registerWrite m a v) s fun t =>
        t.get R.HST_VEC_HOLDOFF k = v.toNat % 65536 ∧ t.get R.HST_EVT = s.get R.HST_EVT ∧ t.mem = s.mem)
    ∧ (a = R.HST_EVT.at 0 → s.writes m a → Completes (.registerWrite m a v) s fun t =>
        (∀ b, b < 8 → (t.get R.HST_EVT).testBit b = ((s.get R.HST_EVT).testBit b && !v.getLsbD b)) ∧ t.get R.HST_CNT_UNMAPPED = s.get R.HST_CNT_UNMAPPED
        ∧ t.mem = s.mem))
  ∧ (∀ (s : State) (m : Master) (a : Nat), a < bar2Base → a % 4 = 0 → s.answers m = true → s.rights m a ≠ .unmapped →
    (∀ b : Nat, (maskAt (fun _ => true) a).testBit b = false → (s.shown a).getLsbD b = false)
    ∧ (rowsAt a = [] → s.engMem m a = none → (0x1000400 > a ∨ a ≥ 0x1001400) → readGroup a = none →
        exec (.multiwordLatchRead m a) s = .next { s with answer := .data 0 } ∧ ∀ v : Word, exec (.registerWrite m a v) s = .next s.quiet))

/-- THE MAILBOX BUFFERS (R62, R63, R66): a read of KNL_MBX_CLAIM claims the lowest FREE buffer for PF0 or an engine E2 to E11 and reads 0xF else; GO by the claimant
queues it, REL frees a DONE one; a claim ends after 100 ms, a result after 1 s, and the refusals of R66 after 10 s. THE COURSE OF A MAILBOX COMMAND (R62, R65, R67, R68): the command at the front runs its checks; a check that fails ends it with its code; the end writes the code
and the response, makes the buffer DONE and asks for the interrupt. STATUS, STAGE and CHALLENGE need no key; an unknown opcode ends with OPCODE. -/
def Obligations.MailboxCourseAndBuffers : Prop :=
  (∀ (s : State) (m : Master) (v : Word),
    let others := fun (b : Fin 4) (t : State) => ∀ k : Fin 4, k ≠ b → t.mbState k = s.mbState k ∧ t.mbOwner k = s.mbOwner k
    let opened := s.answers m = true ∧ s.rights m R.KNL_MBX_CLAIM.addr ≠ .unmapped
    let b := bufOf v
    (∀ k : Fin 4, opened → mayClaim m = true → s.mbState k = 0 → (∀ j : Fin 4, j < k → s.mbState j ≠ 0) → Completes (.mbxClaim m) s fun t =>
        t.answer = .data (BitVec.ofNat 32 k.val) ∧ t.mbState k = 1 ∧ t.mbOwner k = some m ∧ others k t)
    ∧ (opened → mayClaim m = false ∨ (∀ k : Fin 4, s.mbState k ≠ 0) → exec (.mbxClaim m) s = .next { s with answer := .data 0xF })
    ∧ (s.writes m (R.KNL_MBX_GO.at 0) → s.mbState b = 1 → s.mbOwner b = some m → Completes (.mbxGoWrite m v) s fun t =>
        t.mbState b = 2 ∧ t.knl.order = s.knl.order ++ [b] ∧ t.mbOwner b = some m ∧ others b t)
    ∧ (s.writes m (R.KNL_MBX_GO.at 0) → s.mbState b ≠ 1 ∨ s.mbOwner b ≠ some m → Completes (.mbxGoWrite m v) s fun t =>
        t.knl = s.knl ∧ t.mbState b = s.mbState b ∧ others b t)
    ∧ (s.writes m (R.KNL_MBX_REL.at 0) → s.mbState b = 4 → s.mbOwner b = some m → Completes (.mbxRelWrite m v) s fun t =>
        t.mbState b = 0 ∧ t.mbOwner b = none ∧ others b t)
    ∧ (∀ k : Fin 4, (s.mbState k = 1 → s.past s.knl.mbAt[k] 1 10 = true → Completes (.claimExpiry k) s fun t => t.mbState k = 0 ∧ t.mbOwner k = none ∧ others k t
            ∧ t.get R.KNL_MBX_STAT_CLAIM_EXPIRED = Nat.min (s.get R.KNL_MBX_STAT_CLAIM_EXPIRED + 1) 255)
        ∧ (s.mbState k ≠ 1 ∨ s.past s.knl.mbAt[k] 1 10 = false → exec (.claimExpiry k) s = .next s)
        ∧ (s.mbState k = 4 → s.past s.knl.mbAt[k] 1 = true → Completes (.doneExpiry k) s fun t => t.mbState k = 0 ∧ t.mbOwner k = none ∧ others k t)
        ∧ (s.mbState k ≠ 4 ∨ s.past s.knl.mbAt[k] 1 = false → exec (.doneExpiry k) s = .next s))
    ∧ (s.flag R.KNL_MBX_STAT_AUTH_LOCK = true → s.past s.knl.lockAt 10 = true → Completes .authLockExpiry s fun t =>
        t.flag R.KNL_MBX_STAT_AUTH_LOCK = false ∧ t.knl.authAt = [])
    ∧ (s.flag R.KNL_MBX_STAT_AUTH_LOCK = false ∨ s.past s.knl.lockAt 10 = false → exec .authLockExpiry s = .next s))
  ∧ ((∀ (s : State) (b : Fin 4) (code : Nat) (resp : List Byte), code < 2 ^ 32 →
      let t := s.mbFinish b code resp
      t.word (0x1000400 + b.val * 0x400 + 0x3B0) = BitVec.ofNat 32 code ∧ t.mbState b = 4 ∧ t.knl.order = s.knl.order.drop 1
        ∧ (t.get R.HST_IRQ_PEND).testBit 18 = true ∧ t.mem = s.mem ∧ t.kspi = s.kspi ∧ t.time = s.time)
  ∧ (∀ (s s1 : State) (b : Fin 4) (code : Nat), s.knl.order.head? = some b → s.saveRuns = false → s.mbState b ≠ 3 → s.mbChecks b = (code, s1) → code ≠ 0 →
      let op := (s.mbCmd b).op
      let ends := fun (k : Nat) (i : Instr) => op = k → exec i s = .next (s1.mbFinish b code [])
      ends 0x00 .mbxStatus ∧ (∀ k, ends 0x01 (.mbxStage k) ∧ ends 0x10 (.mbxSetParam k) ∧ ends 0x11 (.mbxSetLatency k) ∧ ends 0x12 (.mbxCommitFw k)
        ∧ ends 0x13 (.mbxCommitParam k)) ∧ ends 0x02 .mbxChallenge ∧ ends 0x20 .mbxSeal ∧ ends 0x21 .mbxUnseal ∧ ends 0x30 .mbxStep ∧ ends 0x31 .mbxUtc ∧ ends 0x32 .mbxTestMode
        ∧ ends 0x33 .mbxKpairSelect)
  ∧ (∀ (s : State) (b : Fin 4), s.knl.order.head? = some b → s.saveRuns = false → s.mbState b ≠ 3 →
      let m := s.mbBytes b
      let p := slice m 0x10 (leAt m 2 2)
      (leAt m 0 1 = 0 → leAt m 2 2 = 0 →
          exec .mbxStatus s = .next (s.mbFinish b 0 (leBytes 4 (s.word 0x1000000).toNat ++ leBytes 4 (s.get R.KNL_SEAL_CNT) ++ leBytes 4 (s.get R.KNL_MBX_CMD_CNT))))
      ∧ (leAt m 0 1 = 1 → 5 ≤ leAt m 2 2 → leAt m 2 2 ≤ 896 → s.get R.SEC_STATE_LC ≠ 0 → s.get R.SEC_STATE_LC ≠ 4 →
          let off := leAt p 0 4
          let n := leAt m 2 2 - 4
          let at_ := fun (c : List Host.Cell) (x : Nat) => (sget c x).getD 0
          (∀ k, 0x40000 < off + n → exec (.mbxStage k) s = .next (s.mbFinish b 4 []))
          ∧ (off + n ≤ 0x40000 → exec (.mbxStage false) s = .next (s.mbFinish b 11 []))
          ∧ (off + n ≤ 0x40000 → Completes (.mbxStage true) s fun t => t.word (0x1000400 + b.val * 0x400 + 0x3B0) = 0 ∧ (∀ i, i < n → at_ t.kspi.staging (off + i) = p.getD (4 + i) 0)
              ∧ (∀ x, x < off ∨ off + n ≤ x → at_ t.kspi.staging x = at_ s.kspi.staging x) ∧ t.mbState b = 4))
      ∧ (leAt m 0 1 = 2 → leAt m 2 2 = 32 → s.get R.SEC_STATE_LC ≠ 0 →
          let msg := p ++ s.devId ++ leBytes 32 (s.get R.KNL_MEAS) ++ leBytes 32 (s.get R.KNL_PARAM_HASH) ++ leBytes 4 (s.get R.KNL_SEAL_CNT)
            ++ leBytes 4 (s.word 0x1000000).toNat
          exec .mbxChallenge s = .next (s.drawn.mbFinish b 0 (sigBytes (Config.ecdsaSign s.knl.attKey (sha256D msg) s.draw)
            ++ leBytes 4 (s.get R.KNL_SEAL_CNT) ++ leBytes 4 (s.word 0x1000000).toNat)))
      ∧ (knownOp (leAt m 0 1) = false → exec .mbxUnknownOpcode s = .next (s.mbFinish b 9 []))))

/-- AUTHENTICATED COMMANDS (R40, R47, R51, R70, R73, R80, R82, R84): with every check passed and room in the log, a change is staged in the inactive bank, a seal burns
a fuse and is due at the next boundary, UNSEAL reads SERVICE at once, a firmware image starts its trial, a step waits for its tick, the named engine leads. -/
def Obligations.MailboxCommands : Prop :=
  ∀ (s s1 : State) (b : Fin 4), s.knl.order.head? = some b → s.saveRuns = false → s.mbState b ≠ 3 → s.mbChecks b = (0, s1) → s1.room 1 →
    let c := s.mbCmd b
    let p := c.payload
    let counted := fun (t : State) => t.get R.KNL_SEAL_CNT = (s1.get R.KNL_SEAL_CNT + 1) % 2 ^ 32 ∧ t.get R.KNL_MBX_CMD_CNT = c.counter ∧ t.mbState b = 4
    let staged := fun (whole : Bool) (words : List (Nat × Word)) (t : State) => counted t ∧ t.kspi.staged = s1.kspi.staged
      ++ [{ counter := c.counter, opcode := c.op, change := changeOf p, at_ := s1.time.tick, words := words, whole := whole }]
      ∧ t.kspi.paramBank[s1.paramIx] = s1.kspi.paramBank[s1.paramIx]
    let ended := fun (code : Nat) (i : Instr) => Completes i s fun t => t.word (0x1000400 + b.val * 0x400 + 0x3B0) = BitVec.ofNat 32 code ∧ t.mbState b = 4
      ∧ t.kspi = s1.kspi ∧ t.time = s1.time ∧ t.get R.KNL_SEAL_CNT = s1.get R.KNL_SEAL_CNT
    (c.op = 0x10 → (s1.paramCheck (paramPairs 110 p) = 0 → ended 11 (.mbxSetParam false) ∧ Completes (.mbxSetParam true) s (staged false (s1.paramWords (paramPairs 110 p))))
        ∧ (s1.paramCheck (paramPairs 110 p) ≠ 0 → ∀ k, ended (s1.paramCheck (paramPairs 110 p)) (.mbxSetParam k)))
    ∧ (c.op = 0x11 → leAt p 0 1 = 0 → leAt p 1 1 < 64 → leAt p 2 1 ≤ 4 → leAt p 3 1 = 0 →
        ((List.range 12).all (fun i => latWordOk 0 (leAt p 1 1) (leAt p 2 1) (4 * i) (leAt p (4 * i) 4)) = true → ended 11 (.mbxSetLatency false) ∧ Completes (.mbxSetLatency true) s
          (staged false ((List.range 12).map fun i => (0x10000 + (leAt p 1 1 * 5 + leAt p 2 1) * 0x30 + 4 * i, BitVec.ofNat 32 (leAt p (4 * i) 4))))))
    ∧ (c.op = 0x12 → leAt p 32 4 ≤ 0x40000 →
        (slice p 0 32 ≠ sha256 (s1.staged (leAt p 32 4)) → ∀ k, ended 7 (.mbxCommitFw k))
        ∧ (slice p 0 32 = sha256 (s1.staged (leAt p 32 4)) → ended 11 (.mbxCommitFw false) ∧ Completes (.mbxCommitFw true) s fun t => counted t ∧ t.flag R.KNL_SEAL_STAT_TRIAL = true
            ∧ t.knl.pair.trial = some (kOther s1.lead) ∧ t.knl.pair.trialEnd = s1.rtSec + s1.get R.KNL_TRIAL_TIME
            ∧ (t.kspi.fwBank[if s1.flag R.KNL_SEAL_STAT_FW_BANK then (0 : Fin 2) else 1]) = ⟨some (s1.staged (leAt p 32 4))⟩))
    ∧ (c.op = 0x13 → leAt p 32 4 ≤ 0x40000 → s1.lcIncOk = true →
        (slice p 0 32 ≠ sha256 (s1.staged (leAt p 32 4)) → ∀ k, ended 7 (.mbxCommitParam k))
        ∧ (slice p 0 32 = sha256 (s1.staged (leAt p 32 4)) → (imageOk (s1.stagedWord (leAt p 32 4)) = false → ∀ k, ended 4 (.mbxCommitParam k))
          ∧ (imageOk (s1.stagedWord (leAt p 32 4)) = true → ended 11 (.mbxCommitParam false) ∧ Completes (.mbxCommitParam true) s (staged true []))))
    ∧ (c.op = 0x20 → leAt p 0 32 = s1.get R.KNL_MEAS → leAt p 32 32 = s1.get R.KNL_PARAM_HASH → s1.sec.sealFuses < 512 →
        Completes .mbxSeal s fun t => counted t ∧ t.sec.sealFuses = s1.sec.sealFuses + 1 ∧ t.get R.KNL_SEAL_STAT_FUSES = s1.sec.sealFuses + 1
          ∧ t.get R.SEC_STATE_LC = 2 ∧ t.knl.sealPend = true)
    ∧ (c.op = 0x20 → leAt p 0 32 ≠ s1.get R.KNL_MEAS ∨ leAt p 32 32 ≠ s1.get R.KNL_PARAM_HASH → ended 7 .mbxSeal)
    ∧ (c.op = 0x21 → Completes .mbxUnseal s fun t => counted t ∧ t.get R.SEC_STATE_LC = 3 ∧ t.sealState = (if s1.sealState = 4 ∨ s1.sealState = 5 then s1.sealState else 2)
        ∧ t.knl.sealPend = false)
    ∧ (c.op = 0x30 → s1.time.armed = none → s1.mode ≠ 0 → leAt p 0 12 ≠ 0 → s1.rt.toNat ≤ leAt p 12 6 * 2 ^ 48 → Completes .mbxStep s fun t =>
        t.time.steps = s1.time.steps ++ [{ step := BitVec.ofNat 96 (leAt p 0 12), due := s1.time.tick + 256, counter := BitVec.ofNat 64 c.counter
                                           keySlot := BitVec.ofNat 8 c.slot }] ∧ t.mbState b = 3
        ∧ t.knl.order = s1.knl.order)
    ∧ (c.op = 0x31 → leAt p 2 1 = 0 → leAt p 9 1 ≤ 1 → s1.time.utcGnss = none → Completes .mbxUtc s fun t => t.get R.KNL_UTC_UTC_OFFSET = leAt p 0 2
        ∧ t.get R.KNL_UTC_SRC = (if (leAt p 9 1).testBit 0 || s1.time.utcOverride then 3 else 2) ∧ t.get R.KNL_UTC_VALID = 1 ∧ t.time.leap = none)
    ∧ (c.op = 0x32 → leAt p 0 1 = 1 → s1.time.armed = none → s1.mode ≠ 2 → s1.mode ≠ 3 → Completes .mbxTestMode s fun t =>
        t.time.armed = some (.toTest, s1.time.tick + 256) ∧ t.get R.KNL_TIME_MODE_ARMED = 1 ∧ t.get R.KNL_MBX_CMD_CNT = c.counter)
    ∧ (c.op = 0x33 → leAt p 0 1 ≤ 1 → Completes .mbxKpairSelect s fun t => t.get R.KNL_KPAIR_STAT_LEAD = leAt p 0 1
        ∧ t.knl.pair.restore = some (if leAt p 0 1 = 0 then (1 : Fin 2) else 0) ∧ t.knl.pair.kat = false ∧ t.get R.KNL_MBX_CMD_CNT = c.counter)

/-- THE K-PAIR (R75, R78 to R80, R82): equal digests make a checkpoint and the record of the second; unequal ones hold updates and restart both engines from the
checkpoint; a second that differs again freezes steering; ten agreed seconds resume it; a trial that passes makes its bank and its engine those in force. THE KENNEL'S BOOT AND ITS LOG'S EXPORT (R60, R61, R73, R74, R81 to R85): once KPLL locks, an image that the active bank admits runs on both K-engines with the state that the life cycle
gives; any other is IMAGE_BAD; a log that is not genuine is LOG_BAD. The host's acknowledgement frees the log. -/
def Obligations.KernelPairBootAndLog : Prop :=
  (∀ (s : State) (r : SecRec), s.knl.pair.second = some r →
    let p := s.knl.pair
    let same := agreed p.d0 p.d1
    let recorded := fun (t : State) => t.knl.pair.settled = true ∧ t.knl.pair.recomputing = false
    (p.settled = true ∨ p.recomputing = true ∨ s.digestsDue 100 = false → exec .kpairCompare s = .next s)
    ∧ (p.settled = false → p.recomputing = false → s.digestsDue 100 = true → s.frozen = false → same = true → Completes .kpairCompare s fun t =>
        recorded t ∧ t.get R.KNL_KPAIR_STAT_LAST_AGREED = 1 ∧ t.get R.KNL_REC_WR = (s.get R.KNL_REC_WR + 1) % 2 ^ 32
        ∧ t.knl.pair.newest ≠ p.newest ∧ (t.ckpt.map (·.second)) = some r.second)
    ∧ (p.settled = false → p.recomputing = false → s.digestsDue 100 = true → s.frozen = false → same = false → p.trial = none → Completes .kpairCompare s fun t =>
        t.knl.pair.held = true ∧ t.knl.pair.recomputing = true ∧ t.knl.pair.first0 = p.d0 ∧ t.knl.pair.first1 = p.d1 ∧ t.knl.pair.d0 = none
        ∧ t.knl.pair.d1 = none ∧ t.get R.KNL_KPAIR_STAT_LAST_AGREED = 0 ∧ t.engState 0 = 3 ∧ t.engState 1 = 3)
    ∧ (p.settled = false → p.recomputing = false → s.digestsDue 100 = true → s.frozen = true → same = true → ∀ b, p.resumeFrom = some b → b ≤ r.second →
        let k := s.get R.KNL_KPAIR_STAT_RESUME_CNT + 1
        (k < 10 → Completes .kpairCompare s fun t => recorded t ∧ t.get R.KNL_KPAIR_STAT_RESUME_CNT = k ∧ t.frozen = true)
        ∧ (10 ≤ k → s.room 1 → Completes .kpairCompare s fun t => recorded t ∧ t.frozen = false ∧ t.knl.pair.held = false))
    ∧ (p.recomputing = false ∨ s.digestsDue 500 = false → exec .kpairRecomputeEnd s = .next s)
    ∧ (p.recomputing = true → s.digestsDue 500 = true → same = true → s.mild fsKpairTransient → s.room 2 → Completes .kpairRecomputeEnd s fun t =>
        recorded t ∧ t.knl.pair.held = false ∧ t.knl.pair.heldUpd = [] ∧ t.frozen = s.frozen ∧ t.get R.KNL_KPAIR_STAT_LAST_AGREED = 1
        ∧ t.get R.KNL_KPAIR_CNT_TRANSIENTS = Nat.min (s.get R.KNL_KPAIR_CNT_TRANSIENTS + 1) (2 ^ R.KNL_KPAIR_CNT_TRANSIENTS.width - 1))
    ∧ (p.recomputing = true → s.digestsDue 500 = true → same = false → s.mild fsKpairDisagree → s.room 2 → Completes .kpairRecomputeEnd s fun t =>
        recorded t ∧ t.frozen = true ∧ t.knl.pair.kat = true ∧ t.knl.pair.held = false ∧ t.get R.KNL_KPAIR_STAT_RESUME_CNT = 0
        ∧ t.get R.KNL_KPAIR_CNT_DISAGREES = Nat.min (s.get R.KNL_KPAIR_CNT_DISAGREES + 1) (2 ^ R.KNL_KPAIR_CNT_DISAGREES.width - 1))
    ∧ (s.frozen = true → p.kat = true → s.room 1 → Completes (.kpairKatResult true true true true) s fun t =>
        t.knl.pair.kat = false ∧ t.get R.KNL_KPAIR_STAT_LEAD = s.get R.KNL_KPAIR_STAT_LEAD ∧ t.frozen = true)
    ∧ (s.frozen = true → p.kat = true → s.room 1 → Completes (.kpairKatResult true true true false) s fun t =>
        t.knl.pair.kat = false ∧ t.get R.KNL_KPAIR_STAT_LEAD = 0 ∧ t.knl.pair.restore = some 1 ∧ t.frozen = true)
    ∧ (p.trial = none ∨ s.rtSec < p.trialEnd → ∀ k, exec (.fwTrialEnd k) s = .next s)
    ∧ (∀ n, p.trial = some n → p.trialEnd ≤ s.rtSec → Completes (.fwTrialEnd true) s fun t =>
        t.get R.KNL_SEAL_STAT_FW_BANK = 1 - s.get R.KNL_SEAL_STAT_FW_BANK ∧ t.get R.KNL_SEAL_STAT_TRIAL = 0 ∧ t.knl.pair.trial = none
        ∧ t.get R.KNL_KPAIR_STAT_LEAD = n.val ∧ t.kspi.fwPtr = t.flag R.KNL_SEAL_STAT_FW_BANK ∧ t.get R.KNL_MEAS = t.fwBank.meas.toNat ∧ t.knl.pair.restore = some (kOther n))
    ∧ (∀ n, p.trial = some n → p.trialEnd ≤ s.rtSec → s.room 1 → Completes (.fwTrialEnd false) s fun t =>
        t.get R.KNL_SEAL_STAT_FW_BANK = s.get R.KNL_SEAL_STAT_FW_BANK ∧ t.get R.KNL_SEAL_STAT_TRIAL = 0 ∧ t.knl.pair.trial = none
        ∧ t.knl.pair.restore = some n))
  ∧ (∀ (s : State),
    let may := s.knl.booted = false ∧ s.flag R.CLK_STAT_KPLL_LOCK = true ∧ s.pwr.power = .on ∧ s.aon.vrst = false
    let b := s.fwBank
    (¬may → exec .kennelBoot s = .next s)
    ∧ (may → b.meas ≠ s.bank.admits → s.kspi.staged = [] → s.mild fsKnlImageBad → Completes .kennelBoot s fun t => t.knl.booted = true ∧ t.sealState = 5 ∧ t.active fsKnlImageBad = true
        ∧ t.get R.KNL_MEAS = b.meas.toNat ∧ t.engine 0 = s.engine 0 ∧ t.engine 1 = s.engine 1 ∧ t.mem = s.mem)
    ∧ (may → b.meas = s.bank.admits → s.kspi.staged = [] → (∀ x i, s.boneChoose = some (x, i) → ∀ w, w ∈ x.body.words ++ x.body.utc → w.1 ∈ holdWords ++ utcWords) →
        let runs := fun (t : State) => t.knl.booted = true ∧ t.knl.bootAt = s.time.lc.toNat ∧ t.get R.KNL_MEAS = b.meas.toNat
          ∧ (s.lc = 0 → t.engine 0 = s.engine 0 ∧ t.engine 1 = s.engine 1) ∧ (s.lc ≠ 0 → t.engState 0 = stRunning ∧ t.engState 1 = stRunning
          ∧ t.pc 0 = BitVec.ofNat 16 (b.word 0) ∧ t.pc 1 = BitVec.ofNat 16 (b.word 0)) ∧ t.get R.KNL_PARAM_GEN = s.bank.gen % 2 ^ R.KNL_PARAM_GEN.width
          ∧ t.kspi.bones = s.kspi.bones
        (s.logGenuine = true → Completes .kennelBoot s fun t => runs t ∧ t.sealState = (if s.lc = 2 ∧ s.breached = true then 3 else lcSeal s.lc)
          ∧ t.get R.KNL_SEAL_CNT = s.get R.KNL_SEAL_CNT ∧ t.kspi = s.kspi)
        ∧ (s.logGenuine = false → s.mild fsKnlLogBad → Completes .kennelBoot s fun t => runs t ∧ t.sealState = 4 ∧ t.active fsKnlLogBad = true))
    ∧ (∀ (m : Master) (v : Word), s.writes m (R.KNL_AUDIT_ACK.at 0) →
        let left := s.kspi.events.countP fun r => decide (r.seq > v.toNat)
        (left * 100 ≤ 95 * logCap → Completes (.auditAckWrite m v) s fun t => t.get R.KNL_AUDIT_ACK = v.toNat ∧ t.active fsAuditFull = false ∧ t.flag R.KNL_AUDIT_STAT_FULL = false
          ∧ t.get R.KNL_AUDIT_STAT_FILL = left * 100 / logCap % 2 ^ 7 ∧ t.kspi = s.kspi ∧ t.mem = s.mem)
        ∧ (95 * logCap < left * 100 → s.active fsAuditFull = true → Completes (.auditAckWrite m v) s fun t => t.get R.KNL_AUDIT_ACK = v.toNat ∧ t.active fsAuditFull = true
          ∧ t.flag R.KNL_AUDIT_STAT_FULL = true ∧ t.kspi = s.kspi ∧ t.mem = s.mem)))

/-- EDGES AND LOSS OF REFERENCES (R88, R89, R94, R95): the first edge makes a reference QUALIFYING, one inside its window is a sample, one outside is remembered, a second
outside disqualifies by rate, one narrower than MIN_WIDTH is a glitch; four expected periods of silence make it ABSENT and count. Neither touches another reference that is not selected. THE MEASUREMENT INLET (R18, R77, R87, R259): the Kennel takes the oldest record, drops a GNSS record that its mask refuses and one that does not fit the input log,
which counts, and enters the others; a record of an ABSENT reference makes it QUALIFYING. -/
def Obligations.ReferencesAndInlets : Prop :=
  (∀ (s : State) (n : Fin 23) (lc : Time) (w : Nat),
    let st := s.refState n
    let r := s.refSt n
    let others := fun (t : State) => t.mem = s.mem ∧ t.time = s.time ∧ ∀ m : Fin 23, m ≠ n → t.refState m = s.refState m ∧ t.refSt m = s.refSt m
    (st = 0 ∨ edgeRef n = false → exec (.refEdge n lc w) s = .next s)
    ∧ (edgeRef n = true → st ≠ 0 →
      (100 * s.get R.REF_GLITCH_MIN_WIDTH n > w → Completes (.refEdge n lc w) s fun t => (t.refSt n).lastEdge = lc.toNat ∧ t.get R.REF_CNT_GLITCHES n = Nat.min (s.get R.REF_CNT_GLITCHES n + 1) (2 ^ R.REF_CNT_GLITCHES.width - 1)
          ∧ t.refState n = st ∧ (t.refSt n).verdict = 2 ∧ (t.refSt n).samples = r.samples ∧ others t)
      ∧ (100 * s.get R.REF_GLITCH_MIN_WIDTH n ≤ w →
        (r.lastOn = none → Completes (.refEdge n lc w) s fun t => t.refState n = 2 ∧ (t.refSt n).lastOn = some lc.toNat
          ∧ t.get R.REF_STATE_QUAL_ELAPSED n = 0 ∧ (n.val ≤ 7 → ((t.refSt n).samples.head?) = some { tau := 0, lc := lc.toNat }) ∧ others t)
      ∧ (∀ last, r.lastOn = some last → inWindow (s.get R.REF_NOM_FREQ n) last lc.toNat = true → Completes (.refEdge n lc w) s fun t =>
          t.refState n = st ∧ (t.refSt n).lastOn = some lc.toNat ∧ (t.refSt n).outside = none ∧ others t
          ∧ (n.val ≤ 7 → s.timeRef n = true → t.get R.REF_PHASE n = trunc 64 (unitsToPs (secondPhase (((s.rtAt lc).map (·.1)).getD s.rt)))))
      ∧ (∀ last, r.lastOn = some last → inWindow (s.get R.REF_NOM_FREQ n) last lc.toNat = false → r.outside = none → Completes (.refEdge n lc w) s fun t =>
          t.refState n = st ∧ (t.refSt n).outside = some lc.toNat ∧ (t.refSt n).lastOn = some last ∧ t.regs = s.regs ∧ others t)
      ∧ (∀ last, r.lastOn = some last → inWindow (s.get R.REF_NOM_FREQ n) last lc.toNat = false → r.outside ≠ none → st = 2 ∨ st = 3 →
          s.get R.REF_STAT_SEL_REF ≠ n.val → s.mild fsRefDisqualified → Completes (.refEdge n lc w) s fun t =>
            t.refState n = 5 ∧ t.get R.REF_STATE_CAUSE n = 3 ∧ t.flag R.REF_STATE_Y_VALID n = false ∧ (t.refSt n).rateRun = true)))
    ∧ (st < 2 ∨ s.refOverdue n = false → exec (.refLossTimeout n) s = .next s)
    ∧ (2 ≤ st → s.refOverdue n = true → s.get R.REF_STAT_SEL_REF ≠ n.val → s.mild fsRefLost → Completes (.refLossTimeout n) s fun t =>
        t.refState n = 1 ∧ t.get R.REF_STATE_CAUSE n = 1 ∧ t.flag R.REF_STATE_Y_VALID n = false ∧ (t.get R.REF_QUAL_MASK).testBit n = false
        ∧ t.get R.REF_CNT_LOSSES n = Nat.min (s.get R.REF_CNT_LOSSES n + 1) (2 ^ R.REF_CNT_LOSSES.width - 1)))
  ∧ (∀ s : State,
    (s.knl.inlet = [] → exec .measInletRecord s = .next s)
    ∧ ∀ (r : InRec) (q : List InRec), s.knl.inlet = r :: q →
      let size := 16 + (r.bytes.length + 15) / 16 * 16
      let off := s.get R.KNL_KIN_WR_OFFSET
      (r.typ = 2 → s.gnssRefused r.bytes = true → exec .measInletRecord s = .next { s with knl := { s.knl with inlet := q } })
      ∧ (3 ≤ r.typ → r.typ ≤ 6 → 31744 < off + size → Completes .measInletRecord s fun t => t.knl.inlet = q ∧ t.knl.kin = s.knl.kin
          ∧ t.get R.KNL_KIN_STAT = Nat.min (s.get R.KNL_KIN_STAT + 1) (2 ^ R.KNL_KIN_STAT.width - 1) ∧ t.refs = s.refs)
      ∧ (3 ≤ r.typ → r.typ ≤ 5 → off + size ≤ 31744 → ∀ n, inletId r.typ r.bytes = some n →
          (2 ≤ s.refState n → Completes .measInletRecord s fun t => t.knl.inlet = q ∧ t.knl.kin = s.knl.kin ++ [{ typ := r.typ, lc := r.lc, bytes := r.bytes }]
            ∧ t.get R.KNL_KIN_WR_OFFSET = off + size ∧ t.refState n = s.refState n ∧ (t.refSt n).offset = - s.recOffset r.typ r.bytes
            ∧ (t.refSt n).pathPs = s.recPath r.typ n r.bytes ∧ (t.refSt n).measPs = leAt r.bytes 0x20 4)
          ∧ (s.refState n = 1 → Completes .measInletRecord s fun t => t.knl.inlet = q ∧ t.refState n = 2)
          ∧ (s.refState n = 0 → Completes .measInletRecord s fun t => t.knl.inlet = q ∧ t.refs = s.refs)))

/-- OSCILLATORS (R102, R109): an enabled oscillator seen goes to WARMUP, after its time to MEMBER when it agrees or is the first, from EXCLUDED back to WARMUP, and to ABSENT
when lost, each with its weight at 0 until it is a MEMBER; the ensemble's faults follow. A temperature not written for its time is stale. THE FIRST TIME (R485, R486, R488): until a reference has qualified the lead takes REF_ENS_Y from a fresh Bone of the same source or, over 16 s, from the best time reference; in SN_BOOT it
loads the SN count, or asks for the handover once the residual is within JUMP_MAX, and asks without a reference when BOOT_WAIT has passed since the K-engines started. -/
def Obligations.OscillatorsAndFirstTime : Prop :=
  (∀ (s : State) (k : Fin 4),
    let st := s.oscState k
    let k5 : Fin 5 := ⟨k.val, by omega⟩
    let moves := fun (i : Instr) (goal : Nat) => ∃ u : State, u.oscState k = goal ∧ (∀ j : Fin 4, j ≠ k → u.oscState j = s.oscState j)
      ∧ (goal ≠ 2 → u.get R.OSC_STATE_WEIGHT k = 0) ∧ (u.refs.osc[k5]).since = s.time.lc.toNat ∧ u.mem = s.mem ∧ u.time = s.time ∧ exec i s = .next u.oscSync
    let first := s.refs.ensYFromRef = false ∧ ∀ j : Fin 4, s.oscState j ≠ 2
    let near := (s.getS R.OSC_FREQ k).natAbs < s.get R.OSC_REJECT k * 1000
    let warm := s.past (s.refs.osc[k5]).since (10 * s.get R.OSC_CFG_WARMUP k) = true
    (∀ lc, (s.flag R.OSC_CFG_ENABLE k = true → st = 0 → moves (.oscEdgeSeen k lc) 1)
        ∧ (s.flag R.OSC_CFG_ENABLE k = false ∨ st ≠ 0 → exec (.oscEdgeSeen k lc) s = .next (s.setOsc k5 { s.refs.osc[k5] with lastEdge := lc.toNat })))
    ∧ (st ≠ 0 → s.past (s.refs.osc[k5]).lastEdge 4 (s.oscFin k) = true → moves (.oscLossTimeout k) 0)
    ∧ (st = 0 ∨ s.past (s.refs.osc[k5]).lastEdge 4 (s.oscFin k) = false → exec (.oscLossTimeout k) s = .next s)
    ∧ (st = 1 → warm → s.oscMissing k = false → first ∨ near → moves (.oscWarmupEnd k) 2)
    ∧ (st ≠ 1 ∨ ¬warm ∨ s.oscMissing k = true ∨ (¬first ∧ ¬near) → exec (.oscWarmupEnd k) s = .next s)
    ∧ (st = 3 → s.past (s.refs.osc[k5]).since 60 = true → moves (.oscExcludeEnd k) 1) ∧ (st ≠ 3 ∨ s.past (s.refs.osc[k5]).since 60 = false → exec (.oscExcludeEnd k) s = .next s)
    ∧ (s.flag R.OSC_CFG_TEMP_SRC k = true → (s.refs.osc[k5]).stale = false → s.past (s.refs.osc[k5]).tempAt 5 = true → ∃ u : State, (u.refs.osc[k5]).stale = true
        ∧ u.get R.REF_EVT_TEMP_STALE = 1 ∧ u.mem = s.mem ∧ exec (.tempStaleTimeout k) s = .next (u.raise fsTempStale k.val))
    ∧ (s.flag R.OSC_CFG_TEMP_SRC k = false ∨ (s.refs.osc[k5]).stale = true ∨ s.past (s.refs.osc[k5]).tempAt 5 = false → exec (.tempStaleTimeout k) s = .next s))
  ∧ (∀ s : State,
    let f := BitVec.ofInt 64 (- s.getS R.REF_ENS_Y)
    let ready := s.leadUp = true ∧ s.mode = 0 ∧ s.time.armed = none ∧ s.frozen = false ∧ s.lcIncPending = false
    let arms := fun (i : Instr) => (rateOk f.toInt = true → Completes i s fun t => t.time.armed = some (.toLc f, s.time.tick + 256)
        ∧ t.get R.KNL_TIME_MODE_ARMED = 1 ∧ t.mode = 0 ∧ t.time.sn = s.time.sn)
      ∧ (rateOk f.toInt = false → Completes i s fun t => t.time.armed = none ∧ t.get R.KNL_TIME_STAT_RATE_RANGE = 1)
    let waited := s.past s.knl.bootAt (s.store 0xB10).toNat = true
    (s.refs.everQual = true ∨ s.leadUp = false → exec .ensYBootstrap s = .next s)
    ∧ (s.refs.everQual = false → s.leadUp = true → s.refs.boneSrc = some (s.get R.CLK_STAT_KPLL_SRC) → Completes .ensYBootstrap s fun t =>
        t.get R.REF_ENS_Y = s.get R.REF_HOLD_Y0 ∧ t.refs.ensYGiven = true)
    ∧ (∀ (n : Fin 23) (y : Int), s.refs.everQual = false → s.leadUp = true → s.refs.boneSrc ≠ some (s.get R.CLK_STAT_KPLL_SRC) → s.bootRef = some n → s.yt64 n 16 = some y →
        let aged := ∃ x, x ∈ (s.refSt n).samples ∧ x.lc + 16 * 2 ^ 48 ≤ s.time.lc.toNat
        (aged → Completes .ensYBootstrap s fun t => t.get R.REF_ENS_Y = trunc 64 (-y) ∧ t.refs.ensYGiven = true ∧ t.refs.ensYFromRef = true)
        ∧ (¬aged → exec .ensYBootstrap s = .next s))
    ∧ (∀ (n : Fin 23) (c : Int), ready → s.time.snLoad = none → s.get R.REF_STAT_SEL_REF = n.val → s.correction n = some c →
        (s.beyondJump c = true → Completes .bootSnAlign s fun t => t.time.snLoad = some (s.snAligned c, s.time.tick + 256) ∧ t.time.armed = none)
        ∧ (s.beyondJump c = false → arms .bootSnAlign))
    ∧ (s.leadUp = false ∨ s.mode ≠ 0 ∨ s.time.armed.isSome = true ∨ s.time.snLoad.isSome = true → exec .bootSnAlign s = .next s)
    ∧ (ready → s.timeQualified = false → waited → arms .bootWaitExpiry)
    ∧ (s.leadUp = false ∨ s.mode ≠ 0 ∨ s.timeQualified = true ∨ ¬waited → exec .bootWaitExpiry s = .next s))

/-- THE SERVO (R101, R106, R107, R110, R113, R242): once in an RT second while ACQUIRING or LOCKED the lead asks for one update with FREQ by the references' weights and the phase of the selected
one, 0 for one beyond JUMP_MAX, and locks after LOCK_TIME good seconds; in HOLDOVER it asks for the predicted FREQ; with the update it writes the Leash terms of the next second. -/
def Obligations.ServoUpdates : Prop :=
  ∀ s : State,
    let due := Nat.max (s.time.tick + 256) ((s.time.lastFw.map (· + 1200000)).getD 0)
    let asked := fun (f p : DWord) (t : State) => t.time.fw = some { freq := f, phase := p, slewReq := 0, due := due } ∧ t.time.cset = s.time.cset ∧ t.mem = s.mem
    let inRange := fun (f p : Int) => (s.anchorForm (BitVec.ofInt 64 f).toInt (BitVec.ofInt 64 p).toInt 0).testBit 1 = false
    let clear := s.leadUp = true ∧ s.inLc = true ∧ s.frozen = false ∧ s.time.armed = none ∧ s.knl.pair.held = false ∧ s.refs.servoDone = false
    (∀ (resid : Nat) (bounds : List Nat) (est : List (Nat × Nat)) (n : Fin 23), clear → s.servo = 1 ∨ s.servo = 2 → s.get R.REF_STAT_SEL_REF = n.val →
        let freq := (s.refWeights bounds).servoFreq
        let corr := s.correction n
        let big := (corr.map fun c => s.beyondJump c).getD (s.flag R.REF_STAT_FREQ_ONLY)
        let wants := (corr.map fun c => if s.beyondJump c && s.flag R.REF_STAT_FREQ_ONLY then 0 else c).getD 0
        let phase := (corr.map fun c => if s.beyondJump c then 0 else c).getD 0
        let good := decide (resid < s.get R.REF_LOCK_CFG_LOCK_PS) && s.time.slew.isNone && !big
        let run := if good then s.refs.lockRun + 1 else 0
        inRange freq wants → Completes (.servoUpdate resid bounds est) s fun t => asked (BitVec.ofInt 64 freq) (BitVec.ofInt 64 phase) t ∧ t.get R.REF_ENS_Y = trunc 64 (-freq)
          ∧ t.servo = (if s.servo = 1 ∧ s.get R.REF_LOCK_CFG_LOCK_TIME ≤ run then 2 else s.servo) ∧ (corr.isSome = true → t.flag R.REF_STAT_FREQ_ONLY = big)
          ∧ t.refs.servoDone = true ∧ (s.termsLate = false → ∃ x, t.lsh.next = some x ∧ resid ≤ x.meas) ∧ (s.termsLate = true → t.lsh.next = s.lsh.next))
    ∧ (∀ (resid : Nat) (bounds : List Nat) (est : List (Nat × Nat)), s.leadUp = false ∨ s.inLc = false ∨ s.frozen = true ∨ s.refs.servoDone = true ∨ s.servo = 0 ∨ s.servo = 3 →
        exec (.servoUpdate resid bounds est) s = .next s)
    ∧ (let t := s.rt.toNat - s.refs.tLast
       let f := - s.predict t (s.oscTemp s.kpllEntry)
       clear → s.servo = 3 → inRange f 0 → Completes .holdoverUpdate s fun u => asked (BitVec.ofInt 64 f) 0 u
        ∧ u.get R.REF_HOLD_ELAPSED = Nat.min (t / 2 ^ 48) (2 ^ 32 - 1) ∧ u.servo = 3 ∧ u.refs.servoDone = true)
    ∧ (s.leadUp = false ∨ (s.frozen = false ∧ (s.servo = 1 ∨ s.servo = 2)) → exec .holdoverUpdate s = .next s)
    ∧ (s.leadUp = true → s.servo = 0 ∨ (s.servo ≠ 3 ∧ s.frozen = true) → exec .holdoverUpdate s = .next (s.leadWrite (s.leadTerms 0 0)))

/-- EDGES OF A TIME-INTERVAL CHANNEL (R116, R118, R120 to R123, R133): an edge of a source reaches every channel that selects it and its polarity; prescaler and divider pass one edge in their counts; a
selected edge is converted on MEASURE, or on CAL whose hit is discarded, into a record with lc_edge and the sequence number that waits in the queue; it is missed without a time base or a free
interpolator, and lost with the budget spent. The write port takes the heads of the queues in turn. -/
def Obligations.TimeIntervalEdges : Prop :=
  (∀ (s : State) (src : Fin 32) (falling : Bool) (width : Nat) (codes : List Nat),
    let i := Instr.tdcEdge src falling width codes
    let takes := fun (c : Fin 16) => s.tdcSrc c = src.val ∧ s.flag R.TIM_CFG_EDGE c = falling ∧ s.flag R.TIM_CFG_ENABLE c = true
    ((∀ c, ¬takes c) → exec i s = .next s)
    ∧ (s.mild fsTdcOverflow → s.room 16 →
      Completes i s (fun t => t.mem = s.mem ∧ t.time.lc = s.time.lc ∧ ∀ c, ¬takes c → t.tdc c = s.tdc c)
      ∧ ∀ c, takes c → codes.getD c.val 0 < 512 →
        let x := s.tdc c
        let code := codes.getD c.val 0
        let p := 2 ^ s.get R.TIM_CFG_PRESC c
        let div := Nat.max 1 (s.get R.TIM_RECDIV c)
        let m := s.measIb c
        let pos := fun (ib : Bool) => s.get R.TIM_TABLE (tblIx c ib code)
        let busy := fun (ib : Bool) => s.time.lc.toNat - pos m < (x.interp ib).busyTill
        let missed := Completes i s fun t => t.tdc c = { x with presCnt := 1 % p, divCnt := 1 % div, lost := x.lost + 1 }
          ∧ t.get R.TIM_CNT1_MISSED c = Nat.min (s.get R.TIM_CNT1_MISSED c + 1) (2 ^ R.TIM_CNT1_MISSED.width - 1)
        let timed := fun (ib : Bool) =>
          let edge := lcEdge s.time.lc (pos ib) (s.tdcDelay c)
          (x.admitted + x.queue.length < 32 → x.queue.length < 8 → Completes i s fun t => ∃ r : List Byte, leAt r 0 12 = edge.toNat
            ∧ leAt r 12 12 = (s.convert edge).1.1.toNat ∧ leAt r 26 2 = x.seq % 65536 ∧ leAt r 30 2 % 512 = code
            ∧ (t.tdc c).queue = x.queue ++ [r] ∧ (t.tdc c).seq = (x.seq + 1) % 65536 ∧ (t.tdc c).lost = 0 ∧ (t.tdc c).admitted = x.admitted)
          ∧ (32 ≤ x.admitted + x.queue.length ∨ 8 ≤ x.queue.length → Completes i s fun t => (t.tdc c).queue = x.queue ∧ (t.tdc c).lost = x.lost + 1
            ∧ (t.tdc c).seq = (x.seq + 1) % 65536 ∧ t.get R.TIM_CNT1_LOST_QUEUE c = Nat.min (s.get R.TIM_CNT1_LOST_QUEUE c + 1) (2 ^ R.TIM_CNT1_LOST_QUEUE.width - 1))
        (x.presCnt ≠ 0 → Completes i s fun t => t.tdc c = { x with presCnt := (x.presCnt + 1) % p })
        ∧ (x.presCnt = 0 → x.divCnt ≠ 0 → Completes i s fun t => t.tdc c = { x with presCnt := 1 % p, divCnt := (x.divCnt + 1) % div })
        ∧ (x.presCnt = 0 → x.divCnt = 0 → (x.tb = 1 ∨ (busy m ∧ busy (!m) ∧ (x.interp (!m)).calConv = false) → missed)
          ∧ (x.tb ≠ 1 → ¬busy m → timed m)
          ∧ (x.tb ≠ 1 → busy m → ¬busy (!m) ∨ (x.interp (!m)).calConv = true → timed (!m) ∧ Completes i s fun t =>
              (t.tdc c).voidTick = some s.time.tick ∧ ((t.tdc c).interp (!m)).pend = none))))
  ∧ ∀ s : State,
    let at_ := fun (j : Nat) => (⟨(s.tim.turn + j) % 16, Nat.mod_lt _ (by decide)⟩ : Fin 16)
    ((∀ c, (s.tdc c).queue = []) → exec .tdcRecordAdmit s = .next s)
    ∧ ∀ (j : Nat) (r : List Byte) (q : List (List Byte)), j < 16 → (∀ k, k < j → (s.tdc (at_ k)).queue = []) → (s.tdc (at_ j)).queue = r :: q →
        let c := at_ j
        let x := s.tdc c
        let others := fun (t : State) => t.tim.turn = (c.val + 1) % 16 ∧ ∀ k, k ≠ c → t.tdc k = s.tdc k
        let size := 16 + (r.length + 15) / 16 * 16
        let off := s.get R.KNL_KIN_WR_OFFSET
        (off + size ≤ 31744 → Completes .tdcRecordAdmit s fun t => t.knl.kin = s.knl.kin ++ [{ typ := 1, lc := s.time.lc, bytes := r }]
          ∧ t.tdc c = { x with queue := q, admitted := x.admitted + 1 } ∧ others t ∧ t.get R.TIM_CNT0 c = Nat.min (s.get R.TIM_CNT0 c + 1) (2 ^ R.TIM_CNT0.width - 1))
        ∧ (31744 < off + size → Completes .tdcRecordAdmit s fun t => t.knl.kin = s.knl.kin ∧ t.tdc c = { x with queue := q } ∧ others t
          ∧ t.get R.KNL_KIN_STAT = Nat.min (s.get R.KNL_KIN_STAT + 1) (2 ^ R.KNL_KIN_STAT.width - 1))

/-- ROLES AND CALIBRATION (R122, R127 to R132): 65,536 ticks after the last exchange the roles of the interpolators change places once no conversion runs; a random edge is held by each idle CAL
interpolator, and measured where it is selected; a full histogram becomes the table or is rejected and counted; the rate of random edges decides RNG_OK; a fault of 60 s degrades every channel. THE TIME BASE OF THE CHANNELS (R125, R126): without ticks every channel is ABSENT, out of its frequency window those PRESENT or in REBUILD are OFF_FREQ, each with the fault;
after 1 ms of both they are in REBUILD and the fault ends. -/
def Obligations.CalibrationAndTimeBase : Prop :=
  (∀ (s : State) (c : Fin 16),
    let x := s.tdc c
    let m := s.measIb c
    let now := s.time.lc.toNat
    let due := x.swapTick + 65536 ≤ s.time.tick
    (¬due → exec (.interpRoleSwap c) s = .next s)
    ∧ (due → now < (x.interp m).busyTill → exec (.interpRoleSwap c) s = .next (s.setTdc c { x with swapTick := s.time.tick, swapDue := true }))
    ∧ (due → (x.interp m).busyTill ≤ now → Completes (.interpRoleSwap c) s fun t => t.measIb c = !m ∧ (t.tdc c).swapDue = false ∧ (t.tdc c).swapTick = s.time.tick
        ∧ (t.tdc c).ia.pend = none ∧ (t.tdc c).ib.pend = none ∧ (t.tdc c).queue = x.queue ∧ ∀ k, k ≠ c → t.tdc k = s.tdc k ∧ t.measIb k = s.measIb k)
    ∧ (∀ (codes : List Nat) (code : Nat), codes[c.val]? = some code → ∃ u : State, u.regs = s.regs
        ∧ (x.tb ≠ 1 → code < 384 → (x.interp (!m)).busyTill ≤ now →
          ((u.tdc c).interp (!m)).pend = (if s.active fsTdcRng then none else some code) ∧ ((u.tdc c).interp (!m)).busyTill = now + convUnits
          ∧ ((u.tdc c).interp (!m)).hist = (x.interp (!m)).hist ∧ (u.tdc c).interp m = x.interp m)
        ∧ (x.tb = 1 ∨ 384 ≤ code ∨ now < (x.interp (!m)).busyTill → u.tdc c = x)
        ∧ exec (.randomEdge codes) s = .next (u.sourceEdge 12 false 0 (codes.drop 16)))
    ∧ (∀ ib : Bool,
        let i := x.interp ib
        (i.total < 1048576 → exec (.calTableComplete c ib) s = .next s)
        ∧ (1048576 ≤ i.total → calOk s.lcInc i.hist 1048576 = true → Completes (.calTableComplete c ib) s fun t =>
            (∀ k, k < 384 → t.get R.TIM_TABLE (tblIx c ib k) = (((calTable s.lcInc i.hist 1048576)[k]?).getD 0) % 2 ^ R.TIM_TABLE.width)
            ∧ ((t.tdc c).interp ib).total = 0 ∧ ((t.tdc c).interp ib).rejects = 0 ∧ ((t.tdc c).interp ib).ready = true
            ∧ (t.get R.TIM_CAL_READY).testBit (2 * c.val + if ib then 1 else 0) = true)
        ∧ (1048576 ≤ i.total → calOk s.lcInc i.hist 1048576 = false → ∃ u : State, ((u.tdc c).interp ib).total = 0
            ∧ ((u.tdc c).interp ib).rejects = i.rejects + 1 ∧ u.get R.TIM_CNT2_CAL_REJECTS c = Nat.min (s.get R.TIM_CNT2_CAL_REJECTS c + 1) (2 ^ R.TIM_CNT2_CAL_REJECTS.width - 1)
            ∧ (∀ k, k < 384 → u.get R.TIM_TABLE (tblIx c ib k) = s.get R.TIM_TABLE (tblIx c ib k))
            ∧ exec (.calTableComplete c ib) s = .next ((u.raise fsTdcCalReject c.val).syncTdc c)))
    ∧ (∀ rate : Nat,
        (10000000 ≤ rate → rate ≤ 30000000 → Completes (.rngRateCheck rate) s fun t => t.flag R.TIM_STAT_RNG_OK = true ∧ t.get R.TIM_RNG_RATE = rate / 1000
          ∧ t.active fsTdcRng = false ∧ t.tim.rngGood = now)
        ∧ (rate < 10000000 ∨ 30000000 < rate → ∃ u : State, u.flag R.TIM_STAT_RNG_OK = false ∧ u.flag R.TIM_EVT_RNG_FAULT = true ∧ u.tim = s.tim
          ∧ exec (.rngRateCheck rate) s = .next (u.levelOn fsTdcRng)))
    ∧ (s.active fsTdcRng = false ∨ s.past s.tim.rngGood 60 = false → exec .rngFaultPersist s = .next s)
    ∧ (s.active fsTdcRng = true → s.past s.tim.rngGood 60 = true → Completes .rngFaultPersist s fun t => t.tim.rngDegr = true
        ∧ t.flag R.TIM_STATE_DEGRADED_A c = true ∧ t.flag R.TIM_STATE_DEGRADED_B c = true))
  ∧ (∀ s : State,
    let lost := fun (i : Instr) (goal : Nat) (tb' : TdcCh → Nat) => ∃ u : State, (∀ c, (u.tdc c).tb = tb' (s.tdc c) ∧ (u.tdc c).queue = (s.tdc c).queue)
      ∧ u.flag R.TIM_EVT_TB_LOST = true ∧ u.get R.TIM_TB_CNT = Nat.min (s.get R.TIM_TB_CNT + 1) (2 ^ R.TIM_TB_CNT.width - 1) ∧ u.mem = s.mem
      ∧ (goal = 1 → u.tim.presOk = false) ∧ (goal = 2 → u.tim.freqOk = false) ∧ u.tim.failAt = s.time.lc.toNat ∧ exec i s = .next (u.levelOn fsTdcTimebase)
    ((∃ c, (s.tdc c).tb ≠ 1) → lost .tbPresenceLoss 1 fun _ => 1)
    ∧ ((∀ c, (s.tdc c).tb = 1) → Completes .tbPresenceLoss s fun t => t.tim.presOk = false ∧ t.tim.ch = s.tim.ch ∧ t.regs = s.regs)
    ∧ (∀ count, s.flag R.CLK_STAT_XTAL_LOST = true → exec (.tbFreqWindow count) s = .next s)
    ∧ (∀ count, s.flag R.CLK_STAT_XTAL_LOST = false → 122757 ≤ count → count ≤ 123003 → Completes (.tbFreqWindow count) s fun t =>
        t.tim.freqOk = true ∧ t.tim.ch = s.tim.ch ∧ t.regs = s.regs)
    ∧ (∀ count, s.flag R.CLK_STAT_XTAL_LOST = false → count < 122757 ∨ 123003 < count → (∃ c, (s.tdc c).tb = 0 ∨ (s.tdc c).tb = 3) →
        lost (.tbFreqWindow count) 2 fun x => if x.tb = 1 then 1 else 2)
    ∧ (s.tbPassed = true → Completes .tbRebuildStart s fun t => t.active fsTdcTimebase = false
        ∧ ∀ c, (t.tdc c).tb = (if (s.tdc c).tb = 1 ∨ (s.tdc c).tb = 2 then 3 else (s.tdc c).tb) ∧ (t.tdc c).queue = (s.tdc c).queue)
    ∧ (s.tbPassed = false → exec .tbRebuildStart s = .next s))

/-- BURSTS AND CAPTURES OF GNSS (R139 to R145, R151): the strobe keeps its millisecond and set version, and on BURST_PHASE starts a capture or counts one skipped; front end, region and burst
start at their time before it, where mode and clock allow; the correlators of each channel in use dump; a burst ends after 25 dumps or 100 ms, a capture after 20 ms in a free slot. THE SCOUT (R144, R146 to R149, R152 to R157): its states follow their times; a data session starts where it is due and ends after 60 s; OSNMA accepts a key that leads to the root or the
chain, and a tag that verifies authenticates what it covers, one that fails does not; a survey ends with its mean; a solution that passes its checks gives one record a
second to the inlet; a host write frees a slot and delivers its result, releases the region, and sets the position. -/
def Obligations.GnssReceiver : Prop :=
  (∀ s : State,
    let up := fun (f : Fld) => Nat.min (s.get f + 1) (2 ^ f.width - 1)
    let act := s.get R.GNS_STAT_MODE_ACT
    let now := s.rt.toNat * 1000 / 2 ^ 48
    let ver := s.get R.KNL_TIME_MODE_CSET_VER
    let full := s.get R.GNS_SNAP_STAT
    let starts := now % 1000 = s.get R.GNS_CFG_BURST_PHASE ∧ s.mayBurst 3 = true
    (s.gated 8 = true → exec .gnssMsStrobe s = .next s)
    ∧ (s.gated 8 = false → Completes .gnssMsStrobe s fun t => t.gns.strobe = some (now, ver)
        ∧ (¬starts → t.gns = { s.gns with strobe := some (now, ver) } ∧ t.regs = s.regs)
        ∧ (starts → full = 3 → t.gns = { s.gns with strobe := some (now, ver) } ∧ (t.get R.GNS_EVT).testBit 3 = true ∧ t.get R.GNS_SNAP_CNT_SKIPPED = up R.GNS_SNAP_CNT_SKIPPED)
        ∧ (starts → full ≠ 3 → t.gns.cap = some (now, ver, false) ∧ t.gns.epoch = now ∧ t.flag R.GNS_STAT_BURST_ACTIVE = true))
    ∧ (let ready := s.flag R.GNS_CFG_ENABLE = true ∧ 2 ≤ act ∧ s.toPhase ≤ s.get R.GNS_CFG_FE_WARMUP
       (ready → Completes .fePowerUp s fun t => t.gns.gsiEn = true ∧ t.regs = s.regs) ∧ (¬ready → exec .fePowerUp s = .next s))
    ∧ (let ready := s.flag R.GNS_CFG_ENABLE = true ∧ s.toPhase ≤ 1 ∧ s.gated 8 = true ∧ s.gateInProg 8 = false
       (ready → exec .gnssRegionWake s = .next (s.ungateReq 8)) ∧ (¬ready → exec .gnssRegionWake s = .next s))
    ∧ (∀ ms v, s.phaseStrobe = some (ms, v) → s.mayBurst 2 = true → v < 65536 → Completes .burstStart s fun t =>
        t.flag R.GNS_STAT_BURST_ACTIVE = true ∧ t.get R.GNS_BURST_CSET_START = v ∧ t.gns.epoch = ms ∧ t.gns.dumps = 0)
    ∧ (s.phaseStrobe = none ∨ s.mayBurst 2 = false → exec .burstStart s = .next s)
    ∧ (let ready := s.flag R.GNS_STAT_BURST_ACTIVE = true ∧ s.gns.cap = none ∧ s.gated 8 = false ∧ (25 ≤ s.gns.dumps ∨ s.gns.epoch + 100 ≤ now)
       (ready → Completes .burstEnd s fun t => t.flag R.GNS_STAT_BURST_ACTIVE = false ∧ t.get R.GNS_CNT_BURSTS = up R.GNS_CNT_BURSTS
        ∧ t.get R.GNS_BURST_CSET_END = ver ∧ (t.get R.GNS_EVT).testBit 0 = true ∧ t.gns.gsiEn = (s.gns.gsiEn && !s.flag R.GNS_CFG_FE_GATE))
       ∧ (¬ready → exec .burstEnd s = .next s))
    ∧ (∀ samples : List Byte,
        let ready := ((s.flag R.GNS_STAT_BURST_ACTIVE = true ∧ s.gns.cap = none) ∨ act = 1) ∧ s.flag R.GNS_CFG_ENABLE = true ∧ s.flag R.GNS_STAT_CLK_OK = true
          ∧ s.gsiPll = true ∧ s.gated 8 = false
        (ready → Completes (.correlatorDump samples) s fun t => t.gns.dumps = s.gns.dumps + 1 ∧ (clips samples = true → (t.get R.GNS_EVT).testBit 7 = true)
          ∧ (s.flag R.GNS_AGC_AGC_HOLD = true → t.get R.GNS_AGC_AGC_OUT = s.get R.GNS_AGC_AGC_OUT)
          ∧ ∀ h i, h < 24 → i < 8 → s.get R.CH_CFG_SVID h ≠ 0 → t.word (0x200A000 + (h * 25 + s.gns.dumps % 25) * 32 + 4 * i)
            = (s.chanDump h (samples.map (sampleByte (s.flag R.GNS_CFG_SPECTRAL_INV)))).getD i 0)
        ∧ (¬ready → exec (.correlatorDump samples) s = .next s))
    ∧ (∀ samples : List Byte, (s.gns.cap = none → exec (.snapCapture samples) s = .next s)
        ∧ ∀ (ms v : Nat) (bad : Bool), s.gns.cap = some (ms, v, bad) →
          let base := 0x2010000 + (if full.testBit 0 then 0x78000 else 0)
          (bad = true ∨ (ms + 20 ≤ now ∧ s.gated 8 = false) → Completes (.snapCapture samples) s fun t => t.get R.GNS_SNAP_STAT = full ||| (if full.testBit 0 then 2 else 1)
            ∧ t.gns.snapSeq = (s.gns.snapSeq + 1) % 2 ^ 32 ∧ t.gns.cap = none ∧ t.flag R.GNS_STAT_BURST_ACTIVE = false
            ∧ t.word (base + 16) = BitVec.ofNat 32 (v % 65536 + 65536 * (ver % 65536)) ∧ (bad = false → (t.get R.GNS_EVT).testBit 2 = true)
            ∧ (snapClips samples = true → (t.get R.GNS_EVT).testBit 7 = true))
          ∧ (bad = false → now < ms + 20 ∨ s.gated 8 = true → exec (.snapCapture samples) s = .next s))
    ∧ (s.gated 8 = false → s.flag R.GNS_STAT_CLK_OK = true → ∃ u : State, u.flag R.GNS_STAT_CLK_OK = false ∧ u.flag R.GNS_STAT_BURST_ACTIVE = false
        ∧ (s.scoutUp = true → u.rx = 0) ∧ exec .gsiClkLoss s = .next (u.levelOn fsGnssClk))
    ∧ (s.gated 8 = true ∨ s.flag R.GNS_STAT_CLK_OK = false → exec .gsiClkLoss s = .next s)
    ∧ (s.gated 8 = false → s.gsiPll = true → s.flag R.GNS_STAT_CLK_OK = false → Completes .gsiClkReturn s fun t => t.flag R.GNS_STAT_CLK_OK = true ∧ t.active fsGnssClk = false
        ∧ t.rx = (if s.scoutUp && s.flag R.GNS_CFG_ENABLE && s.rx == 0 then 1 else s.rx))
    ∧ (s.gated 8 = true ∨ s.gsiPll = false ∨ s.flag R.GNS_STAT_CLK_OK = true → exec .gsiClkReturn s = .next s))
  ∧ (∀ (s : State) (m : Master) (v : Word),
    let moves := fun (i : Instr) (due : Prop) (st mode : Nat) => (due → Completes i s fun t => t.rx = st ∧ t.get R.GNS_CTRL_MODE = mode ∧ t.gns.recSeq = s.gns.recSeq ∧ t.mem = s.mem)
      ∧ (¬due → exec i s = .next s)
    let minSv := s.get R.GNS_MASK_SOL_MIN_SV
    moves .acqTimeout (s.scoutUp = true ∧ s.rx = 1 ∧ s.get R.GNS_STAT_NSV_TRACK < minSv ∧ s.gns.rxSec + s.get R.GNS_TIMERS1_ACQ_TIMEOUT ≤ s.rtSec) 4 3
    ∧ moves .weakTimeExpiry (s.scoutUp = true ∧ (s.rx = 2 ∨ s.rx = 3) ∧ ∃ w, s.gns.weakSince = some w ∧ w + s.get R.GNS_TIMERS0_WEAK_TIME ≤ s.rtSec) 4 3
    ∧ moves .retryPeriodExpiry (s.scoutUp = true ∧ s.rx = 4 ∧ s.gns.rxSec + s.get R.GNS_TIMERS1_RETRY_PERIOD ≤ s.rtSec) 1 1
    ∧ (∀ heard : List (Fin 24 × Nat × List Byte),
        let a := (s.hear heard).2
        let due := (s.hear heard).1 = true ∨ (∃ h, h < 24 ∧ a.get R.CH_STAT_STATE h = 3 ∧ a.flag R.CH_STAT_AUTH h = false) ∨ s.gns.lastSession + s.get R.GNS_TIMERS0_DATA_PERIOD ≤ s.rtSec
        (s.scoutUp = false → exec (.dataSession heard) s = .next s)
        ∧ (s.scoutUp = true → (s.rx ≠ 2 ∧ s.rx ≠ 3) ∨ (s.gns.session = none ∧ ¬due) ∨ (∃ q, s.gns.session = some q ∧ s.rtSec < q + 60) → exec (.dataSession heard) s = .next a)
        ∧ (s.scoutUp = true → s.rx = 2 ∨ s.rx = 3 → (s.gns.session = none → due → Completes (.dataSession heard) s fun t =>
            t.gns.session = some s.rtSec ∧ t.rx = 2 ∧ t.get R.GNS_CTRL_MODE = 1)
          ∧ ∀ q, s.gns.session = some q → q + 60 ≤ s.rtSec → Completes (.dataSession heard) s fun t => t.gns.session = none ∧ t.gns.lastSession = s.rtSec
            ∧ t.rx = (if s.timeUnc < 100000000 ∧ minSv ≤ a.get R.GNS_STAT_NSV_AUTH then 3 else s.rx)))
    ∧ (∀ y, s.gns.survey = some y → s.scoutUp = true → y.count ≠ 0 → y.start + s.get R.GNS_SURVEY_TIME ≤ s.rtSec → Completes .surveyEnd s fun t =>
        t.get R.GNS_POS = y.mean ∧ t.get R.GNS_POS_UNC = Nat.max 1 (Nat.min y.unc (2 ^ 24 - 1)) ∧ t.flag R.GNS_STAT_SURVEY = false ∧ t.gns.survey = none)
    ∧ (s.gns.survey = none ∨ s.scoutUp = false → exec .surveyEnd s = .next s)
    ∧ (∀ h : Fin 24, (s.scoutUp = false ∨ s.get R.CH_CFG_SVID h = 0 ∨ s.navRead = false → ∀ x, exec (.osnmaVerify h x) s = .next s)
        ∧ (s.scoutUp = true → s.get R.CH_CFG_SVID h ≠ 0 → s.navRead = true →
          (∀ npkt npkid mid key path, merkleUp mid path (sha256 (BitVec.ofNat 8 (npkt * 16 + npkid) :: key)) = s.merkleRoot →
            exec (.osnmaVerify h (.pkr npkt npkid mid key path)) s = .next (s.setGns { s.gns with pub := some { kind := npkt, id := npkid, key := key } }))
          ∧ (∀ p t signed sig, s.gns.pub = some p → exec (.osnmaVerify h (.kroot p.id t signed sig)) s
              = .next (if Config.osnmaSignature p.kind p.key signed sig then s.setGns { s.gns with tesla := some t } else s))
          ∧ (∀ (t : Tesla) (k : Nat) (key : List Byte), s.gns.tesla = some t → k ≠ 0 → exec (.osnmaVerify h (.key (t.gst + 30 * k) key)) s
              = .next (if chainBack t k (t.gst + 30 * k) key = t.key then s.setGns { s.gns with tesla := some { t with gst := t.gst + 30 * k, key := key } } else s))
          ∧ (∀ t key (x : OsnmaTag), s.gns.tesla = some t → teslaKey t (x.gst + 30 + (if x.adkd = 12 then 300 else 0)) = some key → s.timeUnc ≤ Config.osnmaLimit x.adkd →
              s.gns.lostRoot ≠ some s.merkleRoot →
              let good := teslaTagOk t key x (s.get R.CH_CFG_SVID h) = true
              (good → x.adkd = 4 → Completes (.osnmaVerify h (.tag x)) s fun u => u.gns = { s.gns with utcPar := some x.nav } ∧ u.regs = s.regs)
              ∧ (∀ o, good → x.adkd ≠ 4 → s.orbit x.prnd = some o → o.iod = x.iod → Completes (.osnmaVerify h (.tag x)) s fun u =>
                  ∀ k, k < 24 → s.get R.CH_CFG_SVID k = x.prnd → u.flag R.CH_STAT_AUTH k = true)
              ∧ (¬good → ∃ u : State, (u.get R.GNS_EVT).testBit 5 = true ∧ (s.get R.CH_CFG_SVID h, s.rtSec) ∈ u.gns.osnma
                ∧ (x.adkd ≠ 4 → ∀ k, k < 24 → s.get R.CH_CFG_SVID k = x.prnd → u.flag R.CH_STAT_AUTH k = false)
                ∧ exec (.osnmaVerify h (.tag x)) s = .next (u.raise fsGnssOsnmaFail)))
          ∧ Completes (.osnmaVerify h .renewal) s fun u => u.gns.lostRoot = some s.merkleRoot ∧ u.gns.utcPar = none ∧ ∀ k, k < 24 → u.flag R.CH_STAT_AUTH k = false))
    ∧ (∀ (sats : List SatObs) (sol : Solution),
        let runs := s.scoutUp = true ∧ s.flag R.GNS_CFG_ENABLE = true ∧ s.rx ≠ 0 ∧ s.gns.solSec ≠ some s.rtSec
        let a := (s.setGns { s.gns with solSec := some s.rtSec }).acquire
        let seen := sats.filter fun x => a.get R.CH_CFG_SVID x.ch != 0
        let b := (a.trackStep seen).set R.GNS_STAT_NSV_TRACK 0 (Nat.min seen.length 24)
        let c := weighted (b.residuals seen)
        let d := (((b.obsShow seen c).syncAuth).scoutStates seen).surveyStep sol
        (¬runs → exec (.scoutSolution sats sol) s = .next s)
        ∧ (runs → d.solEpoch = none → exec (.scoutSolution sats sol) s = .next d)
        ∧ ∀ ms v0 v1, runs → d.solEpoch = some (ms, v0, v1) →
          let e := d.setGns { d.gns with result := none }
          let used := e.satsUsed seen
          (e.csetBreak v0 v1 = true → exec (.scoutSolution sats sol) s = .next (e.bump R.GNS_CNT_BURSTS_DISCARDED))
          ∧ (e.csetBreak v0 v1 = false → 2 ≤ e.rx → minSv ≤ used.length → ¬(e.rx = 4 ∧ 2000000000 ≤ e.timeUnc) →
            (e.spoofChecks seen c ms ≠ 0 → ∃ u : State, u.gns.withheld = true ∧ (u.get R.GNS_EVT).testBit 4 = true ∧ u.knl.inlet = s.knl.inlet
              ∧ exec (.scoutSolution sats sol) s = .next (u.raise fsGnssSpoof))
            ∧ (e.spoofChecks seen c ms = 0 → s.gns.withheld = false → s.knl.inlet.length < 64 → Completes (.scoutSolution sats sol) s fun t => ∃ r : List Byte,
                leAt r 0 12 = (msRt ms).toNat ∧ leAt r 12 8 = trunc 64 (e.taiOffset (weighted (e.residuals used))) ∧ leAt r 40 1 = used.length % 256
                ∧ t.knl.inlet = s.knl.inlet ++ [{ typ := 2, lc := s.time.lc, bytes := r }] ∧ t.gns.recSeq = (s.gns.recSeq + 1) % 65536 ∧ t.gns.solSec = some s.rtSec)))
    ∧ (s.writes m (R.GNS_SNAP_DONE_SLOT.at 0) →
        let k := v.toNat % 2
        let base := 0x2010000 + k * 0x78000
        let first := s.wordsN base 3
        (s.gns.result = none → Completes (.gnsSnapDone m v) s fun t => (t.get R.GNS_SNAP_STAT).testBit k = false
          ∧ (t.get R.GNS_SNAP_STAT).testBit (1 - k) = (s.get R.GNS_SNAP_STAT).testBit (1 - k)
          ∧ (t.gns.result = none ∨ t.gns.result = some ((first + 2 ^ 37) % 2 ^ 96 * 1000 / 2 ^ 48, s.wordsN (base + 16) 1 % 65536, s.wordsN (base + 16) 1 / 65536)))
        ∧ ((s.get R.GNS_SNAP_STAT).testBit k = true → s.scoutUp = true → s.rt.toNat < first + 2 * 2 ^ 48 → v.getLsbD 1 = true → v.toNat / 65536 = s.wordsN (base + 12) 1 % 65536 →
          (s.word 0x2008000).toNat = s.wordsN (base + 12) 1 → s.csetBreak (s.wordsN (base + 16) 1 % 65536) (s.wordsN (base + 16) 1 / 65536) = false →
          Completes (.gnsSnapDone m v) s fun t => t.gns.result.isSome = true ∧ (s.rx = 4 → minSv ≤ s.resultGood → t.rx = 1)))
    ∧ (s.writes m (R.GNS_CTRL_RES_RELEASE.at 0) → s.flag R.GNS_STAT_BURST_ACTIVE = false → s.gateInProg 8 = false → s.gated 8 = false →
        s.gateCond 8 = true → Completes (.resRelease m) s fun t => t.pwr.quiesce = s.pwr.quiesce ++ [(8, false, s.time.lc.toNat)] ∧ t.gateInProg 8 = true)
    ∧ (∀ k : Fin 6, k.val % 2 = 1 → m = .eng 3 → s.holdw = [] → s.writes m (R.GNS_POS.at 0 + 4 * k.val) → Completes (.gnsPosWrite m k v) s fun t =>
        t.word (0x2000040 + 4 * k.val) = v ∧ ∀ j : Fin 6, j ≠ k → t.word (0x2000040 + 4 * j.val) = s.word (0x2000040 + 4 * j.val)))

/-- LINK STATES (R162, R163, R182): each event moves a link in the states that it applies to and does nothing in the others; a new ENABLE or MODE takes effect with
no frame on the wire; TS_READY is set in UP only; a timed move is no earlier than its time in the state before; a shift reaches its mode at PCS lock, and goes back to MODE after 2 s
without a link; no other link changes, and in a gated unit none moves. -/
def Obligations.LinkStates : Prop :=
  ∀ (s : State) (i : Fin 68),
    let st := s.linkState i
    let x := s.link i
    let now := s.time.lc.toNat
    let others := fun (t : State) => t.mem = s.mem ∧ t.time = s.time ∧ ∀ j, j ≠ i → t.linkState j = s.linkState j ∧ t.tsReady j = s.tsReady j ∧ t.link j = s.link j
    let goes := fun (c : Instr) (v : Nat) (P : State → Prop) => Completes c s fun t => t.linkState i = v ∧ t.tsReady i = (v == 4) ∧ others t ∧ P t
    let was := fun (y : PortSt) => match portOf i with
      | none => y
      | some p => { y with modeWas := s.get R.PRT_STAT_MODE_ACT p, modeAt := s.rt.toNat }
    let idle := fun (c : Instr) => exec c s = .next s
    (s.gated (unitOf i) = true → idle (.portCfgApply i) ∧ idle (.linkSignalDetect i) ∧ idle (.linkTrainTimeout i) ∧ idle (.linkLoss i)
      ∧ (∀ slip an10, idle (.linkPcsLock i slip an10)) ∧ (∀ phase, idle (.linkSettleDone i phase))
      ∧ ∀ p, portOf i = some p → idle (.shiftTimeout p) ∧ ∀ util, idle (.speedShiftStart p util))
    ∧ (s.gated (unitOf i) = false →
      (x.enabled = (s.linkCfg i).1 ∧ x.mode = (s.linkCfg i).2 ∨ s.wireFree i = false → idle (.portCfgApply i))
      ∧ (x.enabled ≠ (s.linkCfg i).1 ∨ x.mode ≠ (s.linkCfg i).2 → s.wireFree i = true → goes (.portCfgApply i) (if (s.linkCfg i).1 then 1 else 0) fun t =>
          t.link i = was { x with enabled := (s.linkCfg i).1, mode := (s.linkCfg i).2, shiftTo := none, since := now }
          ∧ ∀ p, portOf i = some p → t.get R.PRT_STAT_MODE_ACT p = s.get R.PRT_CFG_MODE p ∧ t.flag R.PRT_STAT_DOWNSHIFTED p = false)
      ∧ (st = 1 → goes (.linkSignalDetect i) 2 fun t => t.link i = { x with since := now })
      ∧ (st ≠ 1 → idle (.linkSignalDetect i))
      ∧ (∀ slip an10,
          let y : PortSt := { x with an10 := an10, fromTraining := st == 2, shiftTo := none, since := now }
          (st = 2 ∨ st = 5 → goes (.linkPcsLock i slip an10) 3 fun t => (st = 2 ∨ x.shiftTo = none → t.link i = y)
            ∧ ∀ p, portOf i = some p → t.get R.PRT_LANE_PHASE_SLIP p = slip.toNat
              ∧ (∀ m, x.shiftTo = some m → st = 5 → t.link i = was y ∧ t.get R.PRT_STAT_MODE_ACT p = m % 8 ∧ t.flag R.PRT_STAT_DOWNSHIFTED p = (m != x.mode)
                ∧ s.counts t R.PRT_SHIFT_CNT_SHIFTS p)
              ∧ (st = 2 → t.get R.PRT_STAT_MODE_ACT p = s.get R.PRT_STAT_MODE_ACT p))
          ∧ (st ≠ 2 → st ≠ 5 → idle (.linkPcsLock i slip an10)))
      ∧ (st = 2 → s.past x.since 500 1000 = true → goes (.linkTrainTimeout i) 1 fun t => t.link i = { x with since := now })
      ∧ (st ≠ 2 ∨ s.past x.since 500 1000 = false → idle (.linkTrainTimeout i))
      ∧ (∀ phase, (st = 3 → s.past x.since 2 1000 = true → goes (.linkSettleDone i phase) 4 fun t =>
            t.link i = { x with shiftBad := x.shiftBad && !x.fromTraining, since := now, upLc := now }
            ∧ ∀ p, portOf i = some p → t.get R.PRT_LANE_PHASE_PHASE p = phase.toNat ∧ (t.get R.PRT_EVT p).testBit 0 = true)
          ∧ (st ≠ 3 ∨ s.past x.since 2 1000 = false → idle (.linkSettleDone i phase)))
      ∧ (st = 3 ∨ st = 4 → goes (.linkLoss i) 1 fun t => t.link i = { x with since := now } ∧ ∀ p, portOf i = some p → (t.get R.PRT_EVT p).testBit 1 = true)
      ∧ (st ≠ 3 → st ≠ 4 → idle (.linkLoss i))
      ∧ (∀ (p : Fin 64) (util : Nat), i = attOf p →
          let far := x.shiftAge = none ∨ ∃ n, x.shiftAge = some n ∧ 60 ≤ n
          let may := st = 4 ∧ far ∧ s.mayShift p = true ∧ (s.lport p).wire = none
          let shifts := fun (m : Nat) => goes (.speedShiftStart p util) 5 fun t => t.link i = { x with shiftTo := some m, shiftAge := some 0, since := now }
          (may → s.flag R.PRT_STAT_DOWNSHIFTED p = false → s.flag R.PRT_STAT_DOWNSHIFT_UNAVAIL p = false → s.past x.upLc (s.get R.PRT_SHIFT_CFG_DOWN_TIME p) = true →
              util * 100 < s.get R.PRT_SHIFT_CFG_DOWN_UTIL p * 25000000 → shifts 2)
          ∧ (may → s.flag R.PRT_STAT_DOWNSHIFTED p = true → s.past x.upLc 1 = true → s.get R.PRT_SHIFT_CFG_UP_UTIL p * 10000000 < util * 100 → shifts x.mode)
          ∧ (¬may → idle (.speedShiftStart p util))
          ∧ (st = 5 → s.past x.since 2 = true → goes (.shiftTimeout p) 1 fun t => t.link i = was { x with shiftTo := none, shiftBad := true, since := now }
              ∧ t.get R.PRT_STAT_MODE_ACT p = x.mode % 8 ∧ t.flag R.PRT_STAT_DOWNSHIFTED p = false)
          ∧ (st ≠ 5 ∨ s.past x.since 2 = false → idle (.shiftTimeout p))))

/-- CROSSINGS AND RECALIBRATION (R170, R171, R175 to R178): the first measurement sets the crossing and later ones move it at most 1/2 ps; a due recalibration starts with
cover; a result within its limit gives both terms half the drift and a result beyond it leaves them, with the fault; a crossing beyond its limits is flagged; in a gated unit nothing
of this happens. -/
def Obligations.CrossingsAndRecalibration : Prop :=
  ∀ s : State,
    (∀ (g : Fin 9) (rtt : BitVec 24),
        let tg := if g.val = 8 then s.getS R.PWR_TEMP 2 else s.getS R.PRT_PG_TEMP_T_PG g
        let d : Int := rtt.toNat * 80 + 2 * s.xtab g (tg - s.getS R.PWR_TEMP 1)
        let x := s.prt.group[g]
        let new := if x.meas = 0 then d else x.xcomp + min (max (d - x.xcomp) (-640)) 640
        let u := if g.val = 8 then 10 else g.val
        (s.gated u = true → exec (.xcompUpdate g rtt) s = .next s)
        ∧ (s.gated u = false → Completes (.xcompUpdate g rtt) s fun t => t.prt.group[g] = ⟨new, Nat.min (x.meas + 1) 17⟩ ∧ (∀ h : Fin 9, h ≠ g → t.prt.group[h] = s.prt.group[h])
          ∧ t.prt.link = s.prt.link ∧ t.mem = s.mem ∧ t.time = s.time
          ∧ (g.val = 8 → ∀ l, l < 4 → t.get R.PCK_LINK_XCOMP l = xcomp16 new)
          ∧ (g.val < 8 → t.get R.PRT_PG_XCOMP g = xcomp16 new ∧ t.get R.PRT_PG_RTT g = rtt.toNat ∧ t.flag R.PRT_PG_STAT_XCOMP_VALID g = (16 ≤ x.meas : Bool))))
    ∧ (∀ i : Fin 68,
        let st := s.linkState i
        let x := s.link i
        let others := fun (t : State) => t.mem = s.mem ∧ t.time = s.time ∧ ∀ j, j ≠ i → t.linkState j = s.linkState j ∧ t.link j = s.link j
        let terms := fun (t : State) (v : Int) => match portOf i with
          | none => (t.link i).recalTerm = v
          | some p => t.getS R.PRT_RECAL_TX p = sext 24 (trunc 24 v) ∧ t.getS R.PRT_RECAL_RX p = sext 24 (trunc 24 v)
        let drift := fun (sum : Int) => sum * 64 - (s.tab32 i 0x24 * 256 + s.tab16 i 0x28 * (s.linkTemp i - s.tab16 i 0x20))
        let limit := (s.store (s.tableOff i + 0x20)).toNat / 65536 * 4096
        (s.gated (unitOf i) = true → exec (.recalStart i) s = .next s ∧ (∀ sum, exec (.recalEnd i sum) s = .next s) ∧ exec (.recalStale i) s = .next s)
        ∧ (s.gated (unitOf i) = false →
        (s.recalDue i = true → st = 4 ∨ st = 1 → s.linkSkew i = false → s.covered i = true → s.inRecal (fun j => groupOf j == groupOf i) = 0 → s.inRecal (fun _ => true) < 8 →
            Completes (.recalStart i) s fun t => t.linkState i = 6 ∧ t.link i = { x with recalUp := st == 4, recalRt := s.rt.toNat, recalWait := 0, deferred := false, since := s.time.lc.toNat } ∧ t.tsReady i = false ∧ others t)
        ∧ (s.recalDue i = false ∨ s.covered i = false ∨ s.linkSkew i = true ∨ s.inRecal (fun _ => true) ≥ 8 → exec (.recalStart i) s = .next s)
        ∧ (∀ sum : Int, st ≠ 6 ∨ s.recalRun i = false → exec (.recalEnd i sum) s = .next s)
        ∧ (∀ sum : Int, st = 6 → s.recalRun i = true → s.linkSkew i = false → (drift sum).natAbs ≤ limit → Completes (.recalEnd i sum) s fun t =>
            t.linkState i = (if x.recalUp then 2 else 1) ∧ terms t (roundDiv (drift sum) 512) ∧ t.linkStale i = false ∧ t.recalAge i = 0 ∧ others t)
        ∧ (∀ sum : Int, st = 6 → s.recalRun i = true → s.linkSkew i = false → limit < (drift sum).natAbs → ∃ u : State, u.linkState i = (if x.recalUp then 2 else 1)
            ∧ (∀ tx, u.recalOf i tx = s.recalOf i tx) ∧ (u.link i).recalBad = true ∧ others u
            ∧ exec (.recalEnd i sum) s = .next (u.raise fsPortRecalFail (if i.val < 4 then 64 + i.val else i.val - 4)))
        ∧ (∀ sum : Int, st = 6 → s.recalRun i = true → s.linkSkew i = true → Completes (.recalEnd i sum) s fun t => t.linkState i = (if x.recalUp then 2 else 1) ∧ t.link i = { x with since := s.time.lc.toNat }
            ∧ (∀ tx, t.recalOf i tx = s.recalOf i tx) ∧ others t)
        ∧ ((s.store 0xB00).toNat < s.recalAge i → Completes (.recalStale i) s fun t => t.linkStale i = true ∧ t.linkDegraded i = true ∧ others t)
        ∧ (s.recalAge i ≤ (s.store 0xB00).toNat → exec (.recalStale i) s = .next s)))
    ∧ (∀ (g : Fin 8) (temp : List Int) (vdd clk : List Nat),
        let u := s.pwrSample temp vdd
        let c : Fin 11 := ⟨g.val + 3, by omega⟩
        (s.gated g = true → exec (.regionSkewCheck g temp vdd clk) s = .next s)
        ∧ (s.pwr.power = .on → s.gated g = false → (∀ k : Fin 11, s.pwr.skew[k] = none) →
          (u.crossCauses c.val 60 30 clk = 0 → Completes (.regionSkewCheck g temp vdd clk) s fun t => t.pwr = s.pwr ∧ t.mem = s.mem
            ∧ t.flag R.PRT_PG_STAT_REGION_SKEW g = false ∧ t.flag R.PWR_SKEW_STAT_ACTIVE = false ∧ t.active fsRegionSkew = false
            ∧ ∀ r, r < 13 → t.get R.PWR_TEMP r = trunc 16 ((temp[r]?).getD 0) ∧ t.get R.PWR_VDD r = (vdd[r]?).getD 0 % 2 ^ R.PWR_VDD.width)
          ∧ (u.crossCauses c.val 60 30 clk ≠ 0 → ∃ w : State, w.flag R.PRT_PG_STAT_REGION_SKEW g = true ∧ w.flag R.PWR_SKEW_STAT_ACTIVE = true
            ∧ w.pwr.skew[c] = some (s.time.lc.toNat, u.crossCauses c.val 60 30 clk) ∧ u.counts w R.PRT_PG_XCNT g ∧ w.mem = s.mem
            ∧ exec (.regionSkewCheck g temp vdd clk) s = .next (w.levelOn fsRegionSkew (8 + g.val)).degrSync)))

/-- PAUSE, UNDERRUN AND RECEPTION (R179 to R181, R184, R185, R187, R370): a PAUSE frame stops its port and the watchdog ends that; an underrun spoils the frame and raises STEP; a
frame that R180 drops is counted; one of no class goes to the host-forward ring with its metadata; a supervision frame waits on both ports of its pair; in a gated group nothing of this happens. -/
def Obligations.PausesAndReception : Prop :=
  ∀ (s : State) (p : Fin 64),
    let q := s.lport p
    let st := s.get R.PRT_STAT_LINK_STATE p
    let paused := s.flag R.PRT_STAT_PAUSED p
    let x := s.link (attOf p)
    let over_ := s.past x.pausedAt (s.get R.PRT_PAUSE_PAUSE_MAX p) 10000
    let quanta := s.past x.quantaAt (x.quanta * 64 * bytePs (s.linkMode (attOf p))) 1000000000000
    let ignored := s.past x.ignoreAt (s.get R.PRT_PAUSE_PAUSE_IGNORE p) 1000
    (s.gated (p.val / 8) = true → exec (.pauseWatchdog p) s = .next s ∧ exec (.pauseEnd p) s = .next s ∧ exec (.pauseIgnoreEnd p) s = .next s ∧ exec (.txUnderrun p) s = .next s
      ∧ ∀ b fcsOk codeErr phase bitIdx, exec (.frameReceive p b fcsOk codeErr phase bitIdx) s = .next s)
    ∧ (s.gated (p.val / 8) = false →
    (paused = true → over_ = true → ∃ u : State, u.flag R.PRT_STAT_PAUSED p = false ∧ u.flag R.PRT_STAT_PAUSE_IGNORING p = true ∧ s.counts u R.PRT_PAUSE_CNT_PAUSE_BROKEN p
        ∧ u.lport p = { q with from_ := s.time.lc.toNat } ∧ u.link (attOf p) = { x with ignoreAt := s.time.lc.toNat } ∧ u.mem = s.mem
        ∧ exec (.pauseWatchdog p) s = .next (u.raise fsPortPauseBroken p.val))
    ∧ (paused = false ∨ over_ = false → exec (.pauseWatchdog p) s = .next s)
    ∧ (paused = false ∨ quanta = false → exec (.pauseEnd p) s = .next s)
    ∧ (paused = true → quanta = true → Completes (.pauseEnd p) s fun t => t.flag R.PRT_STAT_PAUSED p = false ∧ t.lport p = { q with from_ := s.time.lc.toNat } ∧ t.mem = s.mem)
    ∧ (ignored = true → Completes (.pauseIgnoreEnd p) s fun t => t.flag R.PRT_STAT_PAUSE_IGNORING p = false ∧ t.prt = s.prt ∧ t.mem = s.mem ∧ t.flag R.PRT_STAT_PAUSED p = paused)
    ∧ (ignored = false → exec (.pauseIgnoreEnd p) s = .next s)
    ∧ (∀ w, q.wire = some w → w.status ≠ 3 → s.get R.PRT_TX_START p ≠ 15 → ∃ u : State, u.lport p = { q with wire := some { w with status := 3 } }
        ∧ s.counts u R.PRT_UNDERRUN p ∧ u.get R.PRT_TX_START p = (s.get R.PRT_TX_START p + 1) % 2 ^ R.PRT_TX_START.width ∧ u.mem = s.mem
        ∧ exec (.txUnderrun p) s = .next (u.raise fsPortUnderrun p.val))
    ∧ (q.wire = none ∨ s.get R.PRT_TX_START p = 15 → exec (.txUnderrun p) s = .next s)
    ∧ (∀ (b : List Byte) (fcsOk codeErr : Bool) (phase : BitVec 16) (bitIdx : Byte),
        let rx : Instr := .frameReceive p b fcsOk codeErr phase bitIdx
        let dropped := fun (k : Nat) => Completes rx s fun t => s.counts t (rxDropFld k) p ∧ t.mem = s.mem ∧ t.prt = s.prt ∧ t.srv = s.srv ∧ t.pck = s.pck
        let fair := st = 4 ∧ s.rxBad p b fcsOk codeErr = none ∧ s.workPair p = none ∧ s.bracePort p = false
        (st = 6 → dropped 7)
        ∧ (st ≠ 6 → st ≠ 4 → st ≠ 3 → exec rx s = .next s)
        ∧ (st = 4 ∨ st = 3 → ∀ k, s.rxBad p b fcsOk codeErr = some k → dropped k)
        ∧ (fair → parseFrame b (s.packType p) = .malformed → dropped 4)
        ∧ (fair → parseFrame b (s.packType p) = .control → dropped 6)
        ∧ (∀ n, fair → parseFrame b (s.packType p) = .pause n → s.accepts p b = true → s.flag R.PRT_CFG_RX_PAUSE_EN p = true → s.flag R.PRT_STAT_PAUSE_IGNORING p = false →
            Completes rx s fun t => t.flag R.PRT_STAT_PAUSED p = (n != 0) ∧ t.link (attOf p) = { x with quanta := n, quantaAt := s.time.lc.toNat, pausedAt := if paused then x.pausedAt else s.time.lc.toNat }
              ∧ s.counts t R.PRT_PAUSE_CNT_PAUSE_RX p ∧ t.mem = s.mem)
        ∧ (∀ f, fair → parseFrame b (s.packType p) = .frame f → s.accepts p b = false → dropped 6)
        ∧ (∀ f, fair → parseFrame b (s.packType p) = .frame f → s.accepts p b = true → f.cls = 0 → s.flag R.PRT_CFG_HOST_FWD p = true →
            let size := 2 ^ s.get R.HST_FWD_CFG_SIZE_LOG2
            let wr := s.get R.HST_FWD_WR
            let a := s.get R.HST_FWD_BASE + wr % size * 2048
            s.flag R.HST_FWD_CFG_ENABLE = true → b.length ≤ 2016 → s.ringHeld R.HST_FWD_WR R.HST_FWD_RD < size → inSram a (32 + b.length) = true → s.hung (targetOf a) = false →
              Completes rx s fun t => t.bytes a (32 + b.length) = s.rxMeta p 0 phase bitIdx ++ leBytes 2 b.length ++ List.replicate 14 0#8 ++ b
                ∧ (∀ x, x < a ∨ a + (32 + b.length) ≤ x → t.byte x = s.byte x) ∧ t.get R.HST_FWD_WR = (wr + 1) % 2 ^ R.HST_FWD_WR.width ∧ s.counts t R.PRT_RX_FRAMES p)))
    ∧ (∀ (m : Master) (v : Word), s.writes m (R.PRT_CNT_CLR.at p) →
        (v.getLsbD 0 = true → Completes (.prtCntClr m p v) s fun t => (∀ k, k < 17 → t.word (R.PRT_RX_FRAMES.at p + 4 * k) = 0) ∧ t.prt = s.prt ∧ t.mem = s.mem)
        ∧ (v.getLsbD 0 = false → Completes (.prtCntClr m p v) s fun t => ∀ k, k < 17 → t.word (R.PRT_RX_FRAMES.at p + 4 * k) = s.word (R.PRT_RX_FRAMES.at p + 4 * k)))
    ∧ (∀ (j : Fin 32) (src : BitVec 48) (seq : BitVec 16) (k : PrpKey),
        let h := Config.prpHash src.toNat seq.toNat % 65536
        (s.gated (j.val / 4) = false → sget s.prt.prp[j] h = some k → k.src = src.toNat → k.seq = seq.toNat → s.get R.PRT_PRP_CFG_FORGET (2 * j.val) * 2 ^ 48 ≤ (s.time.lc.toNat - k.lc) * 1000 →
            Completes (.prpEntryExpire j src seq) s fun t => t.prt.prp[j] = s.prt.prp[j].filter (fun x => x.1 != h) ∧ t.regs = s.regs ∧ t.prt.port = s.prt.port)
        ∧ (s.gated (j.val / 4) = true ∨ sget s.prt.prp[j] h = none → exec (.prpEntryExpire j src seq) s = .next s))
    ∧ (∀ j : Fin 32,
        (s.gated (j.val / 4) = false → s.prpOn j = true → s.flag R.PRT_PRP_CFG_SUP_EN (2 * j.val) = true → (s.link (attOf (evenPort j))).supAt.all (s.past · 2) = true →
          let e := s.link (attOf (evenPort j))
          let f := some (s.supFrame j, e.rctSeq)
          Completes (.prpSupervision j) s fun t => (t.lport (evenPort j)).sup = f ∧ (t.lport (oddPort j)).sup = f ∧ t.regs = s.regs
            ∧ t.link (attOf (evenPort j)) = { e with rctSeq := (e.rctSeq + 1) % 65536, supSeq := (e.supSeq + 1) % 65536, supAt := some s.time.lc.toNat })
        ∧ (s.gated (j.val / 4) = true ∨ s.prpOn j = false ∨ (s.link (attOf (evenPort j))).supAt.all (s.past · 2) = false ∨ s.flag R.PRT_PRP_CFG_SUP_EN (2 * j.val) = false → exec (.prpSupervision j) s = .next s))

/-- SUBMISSION AND THE SCHEDULE CYCLE (R188 to R194, R212): the write of LCH_HSUB11 submits the descriptor, and its code is shown; an accepted frame enters its queue and a
refused one is counted; an entry is ready 640 ns on; at the first instant of a cycle a committed mask and the committed steering table become active, and not before. -/
def Obligations.SubmissionAndScheduleCycle : Prop :=
  ∀ (s : State) (m : Master),
    let lch := fun (t : State) => t.prt = s.prt ∧ t.mem = s.mem
    (∀ v : Word, s.writes m (R.LCH_HSUB.at 0 + 44) →
        let d := ((List.range 11).flatMap fun i => leBytes 4 (s.heldWord (R.LCH_HSUB.at 0 + 4 * i)).toNat) ++ leBytes 4 v.toNat
        let p := descPort d
        (s.descCode d 10 = 0 → Completes (.lchHostSubmit m v) s fun t => t.get R.LCH_HOST_STAT_LAST = 0 ∧ t.prt = (s.acceptEntry p (entryOf d 10 s.time.lc.toNat)).prt
          ∧ t.get R.LCH_HOST_STAT_ACCEPTED = (s.get R.LCH_HOST_STAT_ACCEPTED + 1) % 2 ^ R.LCH_HOST_STAT_ACCEPTED.width ∧ t.mem = s.mem)
        ∧ (s.descCode d 10 ≠ 0 → Completes (.lchHostSubmit m v) s fun t => t.get R.LCH_HOST_STAT_LAST = s.descCode d 10 ∧ lch t ∧ (t.get R.LCH_EVT).testBit 2 = true
          ∧ t.get R.LCH_HOST_STAT_ACCEPTED = s.get R.LCH_HOST_STAT_ACCEPTED ∧ s.counts t R.LCH_CNT_REFUSED (if p.val % 2 = 1 ∧ s.workPair p ≠ none then 0 else p.val)))
    ∧ (∀ (p : Fin 64) (e : LEntry), s.workPair p = none →
        (s.acceptEntry p e).lport p = (if e.l = 0 then { s.lport p with imm := (s.lport p).imm ++ [e] } else { s.lport p with timed := insertTimed e (s.lport p).timed })
        ∧ ∀ q, q ≠ p → (s.acceptEntry p e).lport q = s.lport q)
    ∧ (∀ (p : Fin 64) (v : Word), s.writes m (R.LCH_MASK_COMMIT.at p) →
        let pending := s.flag R.LCH_PSTAT_COMMIT_PENDING p
        (pending = false → v.getLsbD 0 = true → Completes (.maskCommitWrite m p v) s fun t => t.flag R.LCH_PSTAT_COMMIT_PENDING p = true
          ∧ t.get R.LCH_MASK_ACTIVE p = s.get R.LCH_MASK_ACTIVE p ∧ lch t)
        ∧ (pending = true → Completes (.maskCommitWrite m p v) s fun t => t.flag R.LCH_PSTAT_COMMIT_PENDING p = true ∧ (t.get R.LCH_EVT).testBit 5 = true
          ∧ t.get R.LCH_MASK_ACTIVE p = s.get R.LCH_MASK_ACTIVE p ∧ lch t))
    ∧ (∀ v : Word, s.writes m R.SRV_STEER_COMMIT.addr →
        let pending := (s.get R.SRV_STAT).testBit 0
        (pending = false → v.getLsbD 0 = true → Completes (.steerCommitWrite m v) s fun t => (t.get R.SRV_STAT).testBit 0 = true
          ∧ t.get R.SRV_STEER_ACTIVE = s.get R.SRV_STEER_ACTIVE ∧ t.srv = s.srv ∧ lch t)
        ∧ (pending = true → v.getLsbD 0 = true → Completes (.steerCommitWrite m v) s fun t => (t.get R.SRV_STAT).testBit 0 = true ∧ (t.get R.SRV_EVT).testBit 9 = true
          ∧ t.get R.SRV_STEER_ACTIVE = s.get R.SRV_STEER_ACTIVE ∧ t.srv = s.srv ∧ lch t))
    ∧ (s.rtMs = s.prt.cycle → exec .scheduleCycleBoundary s = .next s)
    ∧ (s.rtMs ≠ s.prt.cycle → Completes .scheduleCycleBoundary s fun t => t.prt.cycle = s.rtMs ∧ t.mem = s.mem ∧ t.time = s.time
        ∧ (∀ p : Fin 64, t.flag R.LCH_PSTAT_COMMIT_PENDING p = false ∧ (t.lport p).timed = (s.lport p).timed ∧ (t.lport p).imm = (s.lport p).imm
            ∧ t.get R.LCH_MASK_ACTIVE p = (if s.flag R.LCH_PSTAT_COMMIT_PENDING p then s.get R.LCH_MASK_SHADOW p else s.get R.LCH_MASK_ACTIVE p))
        ∧ (t.get R.SRV_STAT).testBit 0 = false
        ∧ t.get R.SRV_STEER_ACTIVE = (if (s.get R.SRV_STAT).testBit 0 then s.get R.SRV_STEER_SHADOW else s.get R.SRV_STEER_ACTIVE)
        ∧ ∀ i : Fin 68, t.linkState i = s.linkState i
          ∧ ((t.link i).deferred = (if !s.gated (unitOf i) && s.recalDue i && s.recalAble i && !s.covered i then true else (s.link i).deferred)))
    ∧ (∀ p : Fin 64, exec (.frameReady p) s = .next (s.setLport p { s.lport p with
        timed := (s.lport p).timed.map fun e => if e.at_ + readyUnits ≤ s.time.lc.toNat && e.ready.isNone then { e with ready := some (e.at_ + readyUnits) } else e }))

/-- DEPARTURE AND REPORTS (R165, R194, R195, R197, R199, R201 to R203): on a free wire the timed frame whose departure comes first starts with its timestamp inserted, an immediate frame
where it fits; a frame that cannot leave in its window is discarded as LATE; the end of a frame forms its report, which the mover takes to the submitter's ring. -/
def Obligations.DepartureAndReports : Prop :=
  ∀ (s : State) (p : Fin 64),
    let x := s.lport p
    let st := fun (ph : BitVec 16) (b : Byte) => s.stamp (attOf p) true ph b
    let others := fun (t : State) => t.mem = s.mem ∧ t.time = s.time ∧ ∀ q, q ≠ p → t.lport q = s.lport q
    let rep := fun (e : LEntry) (rt status : Nat) (r : LReport) => r.ring = e.ring ∧ r.bytes.length = 32 ∧ leAt r.bytes 0 12 = rt % 2 ^ 96 ∧ leAt r.bytes 14 2 = s.get R.LCH_RSEQ p
      ∧ leAt r.bytes 16 8 = e.tag % 2 ^ 64 ∧ leAt r.bytes 28 2 % 64 = p.val ∧ bits (leAt r.bytes 28 2) 6 4 = status % 16
    (∀ (q : LaunchQueue) (ph : BitVec 16) (b : Byte),
        let A := (st ph b).1.toNat
        let deg := s.linkDegraded (attOf p)
        (s.gated (p.val / 8) = true → exec (.frameLaunch p q ph b) s = .next s)
        ∧ (s.gated (p.val / 8) = false →
        let wire := fun (bs : List Byte) (e : Option LEntry) (status : Nat) (err : Int) => some
          (OnWire.mk bs e A (st ph b).2.1 (st ph b).2.2 deg status err)
        (s.portShut p = true ∨ x.wire ≠ none → exec (.frameLaunch p q ph b) s = .next s)
        ∧ (s.portShut p = false → x.wire = none →
          (∀ e d, s.firstTimed p = some (e, d) → placed (s.linkMode (attOf p)) A d = true → e.l ≠ 0 → s.mutes p (s.frameOf e) = false → Completes (.frameLaunch p .timed ph b) s fun t =>
            (t.lport p).wire = wire (s.trailed p e.rct (s.oneStep e A (s.frameOf e))).1 (some e) (if d = e.l then 0 else 1) (unitsToPs ((A : Int) - d))
            ∧ (t.lport p).timed = x.timed.erase e ∧ (t.lport p).imm = x.imm ∧ others t
            ∧ (if d = e.l then s.counts t R.LCH_CNT_SENT p else s.counts t R.LCH_CNT_MOVED p))
          ∧ (∀ e d, s.firstTimed p = some (e, d) → placed (s.linkMode (attOf p)) A d = false → exec (.frameLaunch p .timed ph b) s = .next s)
          ∧ (∀ e rest, x.imm = e :: rest → e.l = 0 → s.immFits p (s.trailLen p e.rct e.len) A = true → s.mutes p (s.frameOf e) = false → Completes (.frameLaunch p .immediate ph b) s fun t =>
            (t.lport p).wire = wire (s.trailed p e.rct (s.oneStep e A (s.frameOf e))).1 (some e) 0 0 ∧ (t.lport p).imm = rest ∧ (t.lport p).timed = x.timed ∧ others t)
          ∧ (∀ f, x.pack = some f → s.immFits p (s.trailLen p f.rct f.bytes.length) A = true → exec (.frameLaunch p .pack ph b) s =
              .next ((s.trailed p f.rct f.bytes).2.setLport p { x with pack := none, packTs := if f.own then some (f.bytes, A, deg) else x.packTs
                                                                       wire := wire (s.trailed p f.rct f.bytes).1 none 0 0 }))
          ∧ (∀ f n, x.sup = some (f, n) → s.immFits p (f.length + 6) A = true → exec (.frameLaunch p .supervision ph b) s =
              .next (s.setLport p { x with sup := none, wire := wire (addRct f n (p.val % 2 == 1)) none 0 0 })))))
    ∧ (∀ e rest d, x.timed = e :: rest → e.l ≠ 0 → s.earliest p e = some d → e.deadline < d →
        (e.report = false → Completes (.frameLate p) s fun t => (t.lport p).timed = rest ∧ (t.lport p).reports = x.reports ∧ s.counts t R.LCH_CNT_LATE p ∧ (t.get R.LCH_EVT).testBit 0 = true ∧ others t)
        ∧ (e.report = true → x.reports.length < 256 → ∃ r, rep e e.l 2 r ∧ Completes (.frameLate p) s fun t => (t.lport p).timed = rest ∧ (t.lport p).reports = x.reports ++ [r]
          ∧ s.counts t R.LCH_CNT_LATE p ∧ others t))
    ∧ (x.timed = [] → exec (.frameLate p) s = .next s)
    ∧ (∀ e rest, x.imm = e :: rest → e.l = 0 → e.at_ + 2 ^ 48 ≤ s.time.lc.toNat →
        (e.report = false → Completes (.immediateLate p) s fun t => (t.lport p).imm = rest ∧ (t.lport p).reports = x.reports ∧ s.counts t R.LCH_CNT_LATE p ∧ others t)
        ∧ (e.report = true → x.reports.length < 256 → ∃ r, rep e s.rt.toNat 2 r ∧ Completes (.immediateLate p) s fun t => (t.lport p).imm = rest ∧ (t.lport p).reports = x.reports ++ [r] ∧ others t))
    ∧ ((∀ e, e ∈ x.imm → s.time.lc.toNat < e.at_ + 2 ^ 48) → exec (.immediateLate p) s = .next s)
    ∧ (x.wire = none ∨ s.gated (p.val / 8) = true → exec (.frameTxEnd p) s = .next s)
    ∧ (∀ w, x.wire = some w → s.gated (p.val / 8) = false → Completes (.frameTxEnd p) s fun t => (t.lport p).wire = none ∧ (t.lport p).from_ = s.time.lc.toNat ∧ s.counts t R.PRT_TX_FRAMES p ∧ others t
        ∧ (t.lport p).timed = x.timed ∧ (t.lport p).imm = x.imm)
    ∧ (∀ w e, x.wire = some w → s.gated (p.val / 8) = false → w.entry = some e → e.report = true →
        (x.reports.length < 256 → ∃ r, rep e w.a w.status r ∧ leAt r.bytes 12 2 = w.ver % 65536 ∧ Completes (.frameTxEnd p) s fun t => (t.lport p).reports = x.reports ++ [r]
          ∧ t.get R.LCH_RSEQ p = (s.get R.LCH_RSEQ p + 1) % 2 ^ R.LCH_RSEQ.width ∧ t.get R.LCH_LOST_PEND p = 0)
        ∧ (256 ≤ x.reports.length → Completes (.frameTxEnd p) s fun t => (t.lport p).reports = x.reports ∧ s.counts t R.LCH_TSQ_LOST p ∧ s.counts t R.LCH_LOST_PEND p
          ∧ (t.get R.LCH_EVT).testBit 1 = true))
    ∧ (x.reports = [] → exec (.reportMove p) s = .next s)
    ∧ (∀ r rest, x.reports = r :: rest → r.ring ≤ 10 →
        let wr := s.get R.LCH_RING_WR r.ring
        let a := s.get R.LCH_RING_BASE r.ring + wr % 2 ^ s.get R.LCH_RING_CFG_SIZE_LOG2 r.ring * 32
        let stops := s.flag R.LCH_RING_CFG_ENABLE r.ring = false ∨ s.lringFull r.ring = true
        (¬stops → r.bytes.length = 32 → inSram a 32 = true → s.hung (targetOf a) = false → Completes (.reportMove p) s fun t => t.bytes a 32 = r.bytes
          ∧ (∀ y, y < a ∨ a + 32 ≤ y → t.byte y = s.byte y) ∧ (t.lport p).reports = rest ∧ t.get R.LCH_RING_WR r.ring = (wr + 1) % 2 ^ R.LCH_RING_WR.width)
        ∧ (stops → x.held = false → Completes (.reportMove p) s fun t => (t.lport p) = { x with held := true } ∧ s.counts t R.LCH_RING_STAT_HELD r.ring
          ∧ (t.get R.LCH_EVT).testBit 4 = true ∧ others t)
        ∧ (stops → x.held = true → exec (.reportMove p) s = .next s))

/-- THE CLIENT TABLE (R209, R210, R213, R214, R236): the assist runs an operation of the host or of the job in front and shows its status and index; LOOKUP changes nothing, INSERT and PIN
make one record, DELETE frees it unless it holds grants that the engine must cancel, the others change one bit; a pool buffer returns. -/
def Obligations.ClientTable : Prop :=
  (∀ (s : State) (op : AssistOp) (i : Instr), (i, op) ∈ [(Instr.assistLookup, AssistOp.lookup), (.assistInsert, .insert), (.assistDelete, .delete), (.assistPin, .pin),
        (.assistUnpin, .unpin), (.assistSetDeny, .setDeny), (.assistClearDeny, .clearDeny)] →
      (∀ n, s.srv.hostOp = some (n, 0) → hostOpOf n = some op →
          let r := s.assist op (leBytes 4 (s.get R.SRV_CT_KEY0) ++ leBytes 16 (s.get R.SRV_CT_ADDR)) 0 true
          Completes i s fun t => t.get R.SRV_CT_RES_STATUS = r.1 ∧ t.get R.SRV_CT_RES_INDEX = r.2.1 ∧ t.flag R.SRV_CT_RES_DONE = true ∧ t.mem = r.2.2.mem ∧ t.srv.hostOp = none
            ∧ t.jobs = s.jobs ∧ t.eng = s.eng)
      ∧ (∀ j, s.srv.hostOp = none → s.jobs.find? (fun j => j.unit == 8) = some j → ticketOp (leAt j.job.desc 0 1) = some op → j.live = true →
          let r := s.assist op (slice j.job.desc 4 20) (leAt j.job.desc 1 1) false
          Completes i s fun t => t.mem = r.2.2.mem ∧ t.jobs = s.jobs.filter (fun x => !(x == j)) ∧ (∀ n, n ≠ j.eng → t.engine n = s.engine n)
            ∧ (t.engine j.eng).tickets = (s.engine j.eng).tickets.map fun x => if x.num == j.num && x.result.isNone then { x with result := some (r.1, r.2.1) } else x)
      ∧ (s.srv.hostOp = none → s.jobs.find? (fun j => j.unit == 8) = none → exec i s = .next s))
  ∧ (∀ (s : State) (key : List Byte) (port : Nat) (host : Bool),
      let h := s.clientHash key
      let kind := leAt key 0 4 % 4
      let bit := fun (op : AssistOp) (b : Nat) (on : Bool) => ∀ i, s.findRec h kind = some i →
        let r := s.assist op key port host
        r.1 = 0 ∧ r.2.1 = i ∧ (r.2.2.recKind i).testBit b = on ∧ (∀ k, k ≠ b → (r.2.2.recKind i).testBit k = (s.recKind i).testBit k)
          ∧ (∀ a, a ≠ recAddr i + 6 → r.2.2.byte a = s.byte a)
      (∀ op, op ≠ .insert → op ≠ .pin → s.findRec h kind = none → (s.assist op key port host).1 = 1 ∧ (s.assist op key port host).2.1 = hashBucket h * 4 ∧ (s.assist op key port host).2.2.mem = s.mem)
      ∧ (∀ i, s.findRec h kind = some i → (s.assist .lookup key port host).1 = 0 ∧ (s.assist .lookup key port host).2.1 = i ∧ (s.assist .lookup key port host).2.2.mem = s.mem)
      ∧ (∀ i, s.findRec h kind = some i → (s.assist .insert key port host).1 = 2 ∧ (s.assist .insert key port host).2.1 = i ∧ (s.assist .insert key port host).2.2 = s)
      ∧ (∀ i, s.findRec h kind = some i → (s.assist .pin key port host).1 = 2 ∧ (s.assist .pin key port host).2.1 = i ∧ ((s.assist .pin key port host).2.2.recKind i).testBit 2 = true)
      ∧ (∀ op pinned, (op, pinned) ∈ [(AssistOp.insert, 0), (.pin, 1)] → s.findRec h kind = none →
          let r := s.assist op key port host
          (s.freeWay h = none → r.1 = 3 ∧ r.2.2.mem = s.mem ∧ s.counts r.2.2 R.SRV_CT_FULL ∧ (r.2.2.get R.SRV_EVT).testBit 1 = true)
          ∧ (∀ i, s.freeWay h = some i → r.1 = 0 ∧ r.2.1 = i
              ∧ r.2.2.bytes (recAddr i) 8 = leBytes 6 (hashFp h) ++ [BitVec.ofNat 8 (kind + pinned * 4 + leAt key 0 4 / 2 ^ 16 % 4 * 16), BitVec.ofNat 8 (s.recPort port)]
              ∧ (∀ a, a < recAddr i ∨ recAddr i + 8 ≤ a → r.2.2.byte a = s.byte a)))
      ∧ bit .unpin 2 false ∧ bit .setDeny 3 true ∧ bit .clearDeny 3 false
      ∧ (∀ i, s.findRec h kind = some i → host = false ∨ s.recGrants i = false →
          let r := s.assist .delete key port host
          r.1 = 0 ∧ r.2.1 = i ∧ r.2.2.bytes (recAddr i) 8 = List.replicate 8 0#8 ∧ ∀ a, a < recAddr i ∨ recAddr i + 8 ≤ a → r.2.2.byte a = s.byte a)
      ∧ (∀ i, s.findRec h kind = some i → host = true → s.recGrants i = true →
          let r := s.assist .delete key port host
          r.1 = 0 ∧ r.2.1 = i ∧ r.2.2.mem = s.mem ∧ r.2.2.srv.cancel = s.srv.cancel ++ [(i, true)]))
  ∧ (∀ (s : State) (m : Master) (v : Word), s.writes m R.SRV_POOL_RET.addr →
      (s.poolBuffers.contains v.toNat = true → s.srv.free.contains v.toNat = false → Completes (.srvPoolRet m v) s fun t => t.srv = { s.srv with free := s.srv.free ++ [v.toNat] }
        ∧ t.get R.SRV_POOL_FREE = (s.srv.free.length + 1) % 2 ^ R.SRV_POOL_FREE.width ∧ t.mem = s.mem)
      ∧ (s.poolBuffers.contains v.toNat = false ∨ s.srv.free.contains v.toNat = true → Completes (.srvPoolRet m v) s fun t => t.srv = s.srv ∧ t.mem = s.mem))

/-- ACCELERATOR JOBS (R227, R232, R233, R266, R296 to R298): a job runs when it is the first of its submitter on its unit: it writes its output and gives its ticket a status and value;
a tag that does not match gives TAGFAIL and writes nothing, a missing context NOCTX, a missing key NOKEY; the ticket completes with its event. (No word of memory
holds an error that ECC corrects.). -/
def Obligations.AcceleratorJobs : Prop :=
  ∀ (s : State) (n : Fin 12) (num : Fin 16) (j : UJob), s.soft = [] →
    let gives := fun (i : Instr) (t : State) (status value : Nat) => Completes i s fun u => u.mem = t.mem ∧ (∀ x, x ∈ s.jobs → x ≠ j → x ∈ u.jobs) ∧ u.srv.free = s.srv.free
      ∧ (j.live = true → (u.engine j.eng).tickets.map (fun x => (x.num, x.result)) = (s.engine j.eng).tickets.map fun x =>
          (x.num, if x.num == j.num && x.result.isNone then some (status, value) else x.result))
    let ctx := s.ctxOf j.unit (j.fld 4 1)
    let data := s.bytes (j.fld 0x24 4) (j.fld 0x22 2)
    let out := j.fld 0x28 4
    let ads := j.ads.map fun r => s.bytes r.1 r.2
    let nonce := s.bytes (j.fld 0x0C 4) 16
    (∀ key, s.jobFor n num (aeadOp 0) = some j → s.sivKey j = some key → s.sivMem j = true →
        let vc := fun (k : List Byte) => sivSeal key (ads ++ [k]) data
        let made := Config.randomBytes s.draw 16
        (j.flag 1 = false → gives (.aeadSivSeal n num) ((s.setBytes out (vc nonce).1).setBytes (j.fld 0x24 4) (vc nonce).2) 0 (j.csum ((vc nonce).1 ++ (vc nonce).2)))
        ∧ (j.flag 1 = true → gives (.aeadSivSeal n num) (((s.setBytes (out - 16) made).setBytes out (vc made).1).setBytes (j.fld 0x24 4) (vc made).2) 0
            (j.csum (made ++ (vc made).1 ++ (vc made).2))))
    ∧ (s.jobFor n num (aeadOp 0) = some j → s.sivKey j = none → gives (.aeadSivSeal n num) s 5 0)
    ∧ (∀ key, s.jobFor n num (aeadOp 1) = some j → s.sivKey j = some key → s.sivMem j = true → s.jobMem out 16 = true → s.jobMem (j.fld 0x0C 4) 16 = true →
        (∀ pt, sivOpen key (ads ++ [nonce]) (s.bytes out 16) data = some pt → gives (.aeadSivOpen n num) (s.setBytes (j.fld 0x24 4) pt) 0 (j.csum pt))
        ∧ (sivOpen key (ads ++ [nonce]) (s.bytes out 16) data = none → gives (.aeadSivOpen n num) s 4 0))
    ∧ (s.jobFor n num (aeadOp 1) = some j → s.sivKey j = none → gives (.aeadSivOpen n num) s 5 0)
    ∧ (∀ key, s.macKey j = some key → s.jobMem (j.fld 0x24 4) (j.fld 0x22 2) = true →
        let mac := fun (i : Instr) (op : Nat) (full : List Byte) (cap : Nat) => s.jobFor n num (aeadOp op) = some j →
          let len := Nat.min (j.fld 6 1) cap
          (j.flag 2 = false → inSram out len = true → gives i (s.setBytes out (full.take len)) 0 (j.csum (full.take len)))
          ∧ (j.flag 2 = true → s.jobMem (j.fld 0x2C 4) len = true → gives i s (if s.bytes (j.fld 0x2C 4) len = full.take len then 0 else 4) 0)
        mac (.aeadHmac n num) 2 (hmac256 key data) 32 ∧ mac (.aeadCmac n num) 3 (cmac (padTo 16 key) data) 16)
    ∧ (s.macKey j = none → (s.jobFor n num (aeadOp 2) = some j → gives (.aeadHmac n num) s 6 0) ∧ (s.jobFor n num (aeadOp 3) = some j → gives (.aeadCmac n num) s 6 0))
    ∧ (∀ c k, s.jobFor n num (aeadOp 4) = some j → ctx = some c → s.sec.cookieCur = some k → inSram out (104 * j.fld 7 1) = true →
        let bs := (s.cookies k c.c2s c.s2c (j.fld 7 1)).1
        gives (.aeadMint n num) (s.setBytes out bs) 0 (j.csum bs))
    ∧ (s.jobFor n num (aeadOp 4) = some j → ctx = none → gives (.aeadMint n num) s 5 0)
    ∧ (s.jobFor n num (aeadOp 5) = some j → ctx ≠ none → gives (.aeadFree n num) s 0 0 ∧ Completes (.aeadFree n num) s fun t => t.ctxOf j.unit (j.fld 4 1) = none)
    ∧ (s.jobFor n num (aeadOp 5) = some j → ctx = none → gives (.aeadFree n num) s 5 0)
    ∧ (∀ bs, s.jobRead j.eng (j.fld 4 4) (j.fld 8 4) = some bs →
        let crc := fun (poly : Nat) => (bs.foldl (fun r b => crcSteps poly 8 (r ^^^ b.toNat)) (j.fld 12 4)) ^^^ 0xFFFFFFFF
        (s.jobFor n num (crcAlg 0) = some j → gives (.jobCrc32 n num) s 0 (crc 0xEDB88320))
        ∧ (s.jobFor n num (crcAlg 1) = some j → gives (.jobCrc32c n num) s 0 (crc 0x82F63B78))
        ∧ (∀ o, s.jobFor n num (hashAlg 0) = some j → jobAddr j.eng (j.fld 12 4) 32 = some o → gives (.jobSha256 n num) (s.setBytes o (sha256 bs)) 0 0)
        ∧ (∀ a o, jobAddr j.eng (j.fld 16 4) 16 = some a → s.badAt a 16 = false →
          (s.jobFor n num (hashAlg 1) = some j → jobAddr j.eng (j.fld 12 4) 8 = some o → gives (.jobSiphash64 n num) (s.setBytes o (leBytes 8 (sip64 (s.bytes a 16) bs).toNat)) 0 0)
          ∧ (s.jobFor n num (hashAlg 2) = some j → jobAddr j.eng (j.fld 12 4) 16 = some o → gives (.jobSiphash128 n num) (s.setBytes o (sip128Bytes (s.bytes a 16) bs)) 0 0)))
    ∧ (∀ t, (s.engine n).tickets.find? (fun t => t.num == num) = some t → t.result ≠ none → t.complete = false → Completes (.ticketComplete n num) s fun u =>
        (u.engine n).tickets = (s.engine n).tickets.map (fun t => if t.num == num then { t with complete := true } else t) ∧ (u.engine n).events = (s.engine n).events ||| 2
        ∧ u.mem = s.mem ∧ u.jobs = s.jobs)
    ∧ ((∀ t, t ∈ (s.engine n).tickets → t.result = none ∨ t.complete = true) → exec (.ticketComplete n num) s = .next s)

/-- COOKIES, KEYS AND THE NTS CHECK (R221, R226 to R231): a context ends after 100 µs; a rotation is armed, made at once, or refused, and an armed one loads its key at its second; the host's mint
yields to serving mints, and fills its window under the key of its start; an association key takes effect with word 7; a request that passes its checks fills a context, and each failure has its count. -/
def Obligations.CookiesAndKeys : Prop :=
  ∀ (s : State) (m : Master),
    (∀ (u : Fin 8) (c : BitVec 6) (x : KeyCtx), s.ctxOf u c.toNat = some x →
        (2 ^ 48 ≤ (s.time.lc.toNat - x.at_) * 10000 → Completes (.contextExpiry u c) s fun t => t.ctxOf u c.toNat = none ∧ s.counts t R.SRV_AU_CTXEXP u ∧ t.mem = s.mem)
        ∧ ((s.time.lc.toNat - x.at_) * 10000 < 2 ^ 48 → exec (.contextExpiry u c) s = .next s))
    ∧ (∀ v : Word, s.writes m (R.SRV_COOKIE_ROT.at 0 + 4) →
        let at_ := (s.heldWord (R.SRV_COOKIE_ROT.at 0)).toNat + 2 ^ 32 * (v.toNat % 2 ^ 16)
        let now := s.flag R.SRV_COOKIE_ROT0_NOW
        let late := s.sec.cookieNext ≠ none ∨ (now = false ∧ at_ ≤ s.rtSec)
        (late → Completes (.cookieRotArm m v) s fun t => t.sec = s.sec ∧ (t.get R.SRV_EVT).testBit 7 = true)
        ∧ (∀ k : Fin 32, ¬late → s.get R.SRV_COOKIE_ROT0_SLOT = k.val →
          let x : RotArm := { slot := k, id := BitVec.ofNat 32 (s.get R.SRV_COOKIE_ROT1), req := some m, at_ := at_ }
          (now = false → s.rotBad x = false → Completes (.cookieRotArm m v) s fun t => t.sec.cookieNext = some x ∧ t.sec.cookieCur = s.sec.cookieCur ∧ t.sec.cookiePrev = s.sec.cookiePrev
            ∧ (t.get R.SRV_STAT).testBit 1 = true)
          ∧ (∀ d, now = true → (s.rotLoad x).1 = some d → Completes (.cookieRotArm m v) s fun t => t.sec.cookieNext = none ∧ t.sec.cookieCur = some d ∧ t.sec.cookiePrev = s.sec.cookieCur
            ∧ t.get R.SRV_COOKIE_CUR = d.id.toNat ∧ t.get R.SRV_COOKIE_PREV = s.get R.SRV_COOKIE_CUR ∧ (t.get R.SRV_EVT).testBit 6 = true)
          ∧ (now = true ∨ s.rotBad x = true → (s.rotLoad x).1 = none → Completes (.cookieRotArm m v) s fun t => (t.get R.SRV_EVT).testBit 7 = true)))
    ∧ (∀ x, s.sec.cookieNext = some x →
        (∀ d, x.at_ ≤ s.rtSec → (s.rotLoad x).1 = some d → Completes .cookieRotation s fun t => t.sec.cookieNext = none ∧ t.sec.cookieCur = some d ∧ t.sec.cookiePrev = s.sec.cookieCur
          ∧ t.get R.SRV_COOKIE_CUR = d.id.toNat ∧ t.get R.SRV_COOKIE_PREV = s.get R.SRV_COOKIE_CUR ∧ t.mem = s.mem)
        ∧ (x.at_ ≤ s.rtSec → (s.rotLoad x).1 = none → Completes .cookieRotation s fun t => t.sec.cookieNext = none ∧ (t.get R.SRV_EVT).testBit 7 = true)
        ∧ (s.rtSec < x.at_ → exec .cookieRotation s = .next s))
    ∧ (s.sec.cookieNext = none → exec .cookieRotation s = .next s)
    ∧ (s.flag R.SRV_MINT_STAT_BUSY = false ∨ s.jobs.any (aeadOp 4) = true → exec .hostMint s = .next s)
    ∧ (s.flag R.SRV_MINT_STAT_BUSY = true → s.jobs.any (aeadOp 4) = false →
        (s.srv.mintKey = none → Completes .hostMint s fun t => t.flag R.SRV_MINT_STAT_BUSY = false ∧ t.get R.SRV_MINT_STAT_ERR = 1 ∧ t.mem = s.mem ∧ t.sec = s.sec)
        ∧ (∀ k, s.srv.mintKey = some k → s.srv.mint ≤ 8 →
          let keys := leBytes 64 (s.get R.SRV_MINT_KEY)
          let bs := (s.cookies k (slice keys 0 32) (slice keys 32 32) s.srv.mint).1
          Completes .hostMint s fun t => t.flag R.SRV_MINT_STAT_BUSY = false ∧ t.flag R.SRV_MINT_STAT_DONE = true ∧ t.get R.SRV_MINT_STAT_MINTED = s.srv.mint
            ∧ bs.length = 104 * s.srv.mint ∧ t.wordsN R.SRV_MINT_OUT.addr (26 * s.srv.mint) = ofLe bs ∧ t.get R.SRV_MINT_KEY = 0 ∧ (t.get R.SRV_EVT).testBit 4 = true))
    ∧ (∀ (spp : Byte) (half : Bool) (v : Word), s.writes m (saKeyAt spp half + 28) → Completes (.saKeyCommit m spp half v) s fun t =>
        sget t.srv.saKey (spp.toNat * 2 + if half then 1 else 0) = some (((List.range 7).flatMap fun i => leBytes 4 (s.heldWord (saKeyAt spp half + 4 * i)).toNat) ++ leBytes 4 v.toNat)
        ∧ (∀ k, k ≠ spp.toNat * 2 + (if half then 1 else 0) → sget t.srv.saKey k = sget s.srv.saKey k) ∧ t.mem = s.mem)
    ∧ (∀ (u : Fin 8) (w : RxWait), s.srv.wait = [w] → w.nts = true → w.eng = u.val →
        let b := s.bytes w.buf w.len
        let wr := s.get R.SRV_RXQ_WR u
        let size := 2 ^ s.get R.SRV_RXQ_CFG_SIZE_LOG2 u
        let a := s.get R.SRV_RXQ_BASE u + wr % size * 32
        let ends := fun (f : Fld) (P : State → Prop) => Completes (.ntsRequestCheck u) s fun t => s.counts t f ∧ t.srv.wait = [] ∧ P t
        let dropped := fun (t : State) => t.srv.ctx = s.srv.ctx ∧ t.mem = s.mem
        let open_ := w.meta_.length = 16 ∧ s.flag R.SRV_RXQ_CFG_ENABLE u = true ∧ s.ringHeld R.SRV_RXQ_WR R.SRV_RXQ_RD u < size ∧ inSram a 32 = true ∧ s.hung (targetOf a) = false
        let queued := fun (t : State) (nts : Nat) => t.bytes a 32 = rxDescriptor w nts ∧ t.get R.SRV_RXQ_WR u = (wr + 1) % 2 ^ R.SRV_RXQ_WR.width
          ∧ ∀ x, x < a ∨ a + 32 ≤ x → t.byte x = s.byte x
        (s.flag R.SRV_CTRL_NTS_EN = false → ends R.SRV_CNT_NTS_REFUSED dropped)
        ∧ (∀ fr, s.flag R.SRV_CTRL_NTS_EN = true → parseFrame b none = .frame fr →
          (ntsForm (fr.exts b) = none → ends R.SRV_CNT_NTS_REFUSED dropped)
          ∧ (∀ f, ntsForm (fr.exts b) = some f →
            let base := f.places * 2 ^ 8 + (f.uid.1 - 4) * 2 ^ 12
            (s.ctxAvail u = [] → ends R.SRV_CNT_NTS_CTX_FULL dropped)
            ∧ (∀ c, pickOne (s.ctxAvail u) s.draw = some c →
              let ck := slice b f.cookie.1 f.cookie.2
              (s.openCookie ck = none → open_ → ends R.SRV_CNT_NTS_COOKIE_BAD fun t => t.srv.ctx = s.srv.ctx ∧ queued t (2 + base))
              ∧ (∀ c2s s2c prev, s.openCookie ck = some (c2s, s2c, prev) →
                let au := authParts b f.auth
                let opened := sivOpen c2s [slice b w.hdr (f.auth.1 - 4 - w.hdr), au.1] au.2.1 au.2.2
                (opened = none → ends R.SRV_CNT_NTS_AUTH_FAIL fun t => dropped t ∧ s.counts t R.SRV_AU_TAGFAIL u)
                ∧ (opened ≠ none → open_ → ends R.SRV_CNT_NTS_OK fun t => queued t (1 + c * 4 + base + (if prev then 1 else 0) * 2 ^ 11)
                    ∧ t.ctxOf u c = some { unit := u, num := c, c2s := c2s, s2c := s2c, at_ := s.time.lc.toNat }))))))
    ∧ (∀ u : Fin 8, s.srv.wait.find? (fun w => w.nts && w.eng == u.val) = none → exec (.ntsRequestCheck u) s = .next s)

/-- WHAT THE SERVING ENGINES SEND (R201, R203, R206, R217 to R219, R222): Sync and Announce on their port or to the client that holds the grant, the follow-up of a two-step message
once its report has come, Delay_Resp and Pdelay_Resp to the request at the head of the queue; each with the fields of R218, and its frame launched. -/
def Obligations.ServedMessages : Prop :=
  ∀ (s : State) (k : Fin 8), s.serves k = true → s.mode ≠ 0 →
    let ver := s.get R.KNL_TIME_MODE_CSET_VER
    (∀ (p : Fin 64) (index : Option (BitVec 20)) (hdr : List Byte) (buf : Word) (l : BitVec 96), s.profile p ≠ 0 → s.braceOn p = false → s.isSlave p = false →
      let f := hdrFrame hdr
      let dom := s.get R.SRV_PORT_SVC0_DOMAIN p
      (∀ log two signed msg, s.sendTo k p index 0 (s.get R.SRV_PORT_SVC0_MC_LOG_SYNC p) = some (log, two, signed) →
          let seq := s.srv.syncSeq[p]
          let m : PtpMsg := { typ := 0, domain := dom, flags := ptpFlags two index.isSome, cf := 0, seq := seq, logInt := if index.isSome then 127 else log
                              body := if two then sn80Wire (t96ToSn96 l) else List.replicate 10 0#8 }
          s.ptpBytes p m (if two then [] else s.leashOf p l.toNat (s.linkDegraded (attOf p)) false ver) signed = some msg →
          let frame := udpFrame f (withPorts f 319 319 hdr) msg
          let x : Launch := { l := l.toNat, window := 10000, report := two, tag := buf.toNat, kind := if two then 0 else 1, ins := if two then 0 else f.hdr + 34
                              cf := if two then 0 else f.hdr + 8, cksum := !two && !f.l2, ck := if two || f.l2 then 0 else f.udp + 6 }
          s.launchable k p x buf.toNat frame → Completes (.syncSend k p index hdr buf l) s fun t => s.launched t k p x buf.toNat frame
            ∧ t.srv.syncSeq[p] = (seq + 1) % 65536 ∧ (two = false → t.srv.sent = s.srv.sent)
            ∧ (two = true → t.srv.sent = s.srv.sent ++ [{ port := p, tag := buf.toNat, pdelay := false, hdr := hdr, unicast := index.isSome, domain := dom, seqId := seq, cf := 0
                                                          requester := [], logInt := trunc 8 (if index.isSome then 127 else log), signed := signed }]))
      ∧ (s.sendTo k p index 0 (s.get R.SRV_PORT_SVC0_MC_LOG_SYNC p) = none → exec (.syncSend k p index hdr buf l) s = .next s)
      ∧ (∀ log two signed msg, s.sendTo k p index 1 (s.get R.SRV_PORT_SVC1_MC_LOG_ANN p) = some (log, two, signed) →
          let core := s.get R.LSH_CORE
          let sel := s.get R.REF_STAT_SEL_REF
          let rank := s.classNow core
          let leash := s.portLeash p
          let fl := ptpFlags false index.isSome + s.time.ptpLeap.toNat + (if s.flag R.KNL_UTC_VALID then 4 else 0) + 8 + (if rank ≤ 1 then 16 else 0)
            + (if sel ≠ 31 ∧ s.classRow core ≤ 2 then 32 else 0)
          let body := List.replicate 10 0#8 ++ beBytes 2 (s.get R.KNL_UTC_UTC_OFFSET) ++ [0#8] ++ beBytes 1 (s.get R.SRV_PORT_SVC1_PRIORITY1 p)
            ++ beBytes 1 (classOf (profG8275 (s.profile p)) rank) ++ beBytes 1 (clockAccuracy leash) ++ beBytes 2 (oslv leash)
            ++ beBytes 1 (s.get R.SRV_PORT_SVC1_PRIORITY2 p) ++ leBytes 8 (s.get R.SRV_CLOCK_ID) ++ beBytes 2 0 ++ beBytes 1 (timeSource sel)
          let m : PtpMsg := { typ := 11, domain := dom, flags := fl, cf := 0, seq := s.srv.annSeq[p], logInt := if index.isSome then 127 else log, body := body }
          s.ptpBytes p m (s.leashTlv leash ver (s.flag R.PRT_STAT_DEGRADED p)) signed = some msg →
          let frame := udpFrame f (withPorts f 320 320 hdr) msg
          let x : Launch := { l := l.toNat, window := if l.toNat = 0 then 0 else 10000, report := false, tag := buf.toNat }
          s.launchable k p x buf.toNat frame → Completes (.announceSend k p index hdr buf l) s fun t => s.launched t k p x buf.toNat frame
            ∧ t.srv.annSeq[p] = (s.srv.annSeq[p] + 1) % 65536))
    ∧ (∀ buf : Word,
        let ring := k.val + 2
        let d := s.bytes (s.get R.LCH_RING_BASE ring + s.get R.LCH_RING_RD ring % s.lringSize ring * 32) 32
        let fl := leAt d 28 2
        let tag := leAt d 16 8
        let popped := fun (t : State) => t.get R.LCH_RING_RD ring = (s.get R.LCH_RING_RD ring + 1) % 2 ^ R.LCH_RING_RD.width
        (s.ringHeld R.LCH_RING_WR R.LCH_RING_RD ring = 0 → exec (.followUpSend k buf) s = .next s)
        ∧ (s.ringHeld R.LCH_RING_WR R.LCH_RING_RD ring ≠ 0 → s.srv.sent = [] → Completes (.followUpSend k buf) s fun t => popped t ∧ t.mem = s.mem ∧ t.prt = s.prt)
        ∧ (∀ y msg, s.ringHeld R.LCH_RING_WR R.LCH_RING_RD ring ≠ 0 → s.srv.sent = [y] → y.tag = tag → y.port.val = fl % 64 →
          let a := leAt d 0 12
          let sn := t96ToSn96 (BitVec.ofNat 96 a)
          let m : PtpMsg := { typ := if y.pdelay then 10 else 8, domain := y.domain, flags := ptpFlags false y.unicast, cf := trunc 64 (sext 64 y.cf + (snUnits sn % 65536 : Nat))
                              seq := y.seqId, logInt := sext 8 y.logInt, body := sn80Wire sn ++ y.requester }
          (2 ≤ bits fl 6 4 → Completes (.followUpSend k buf) s fun t => popped t ∧ t.srv.sent = [] ∧ t.mem = s.mem ∧ t.prt = s.prt)
          ∧ (bits fl 6 4 ≤ 1 → s.ptpBytes y.port m (s.leashOf y.port a (fl.testBit 11) false (leAt d 12 2)) y.signed = some msg →
            let frame := udpFrame (hdrFrame y.hdr) (withPorts (hdrFrame y.hdr) 320 320 y.hdr) msg
            let x : Launch := { report := false, tag := buf.toNat }
            s.launchable k y.port x buf.toNat frame → Completes (.followUpSend k buf) s fun t => popped t ∧ t.srv.sent = [] ∧ s.launched t k y.port x buf.toNat frame)))
    ∧ (∀ (r : Req) (msg : List Byte), s.headReq k = some r →
        let p := r.port
        let popped := fun (t : State) => t.get R.SRV_RXQ_RD k = (s.get R.SRV_RXQ_RD k + 1) % 2 ^ R.SRV_RXQ_RD.width
        let signed := s.authReq p || s.icvOk p r.msg r.tlvs
        let sn := t96ToSn96 (BitVec.ofNat 96 r.rt)
        (s.serveOf r = .delayReq → r.unicast = false → r.nots = false →
          let m : PtpMsg := { typ := 9, domain := beAt r.msg 4 1, flags := ptpFlags false false, cf := trunc 64 (sext 64 (beAt r.msg 8 8) - (snUnits sn % 65536 : Nat))
                              seq := beAt r.msg 30 2, logInt := 127, body := sn80Wire sn ++ slice r.msg 20 10 }
          s.ptpBytes p m (s.leashOf p r.rt r.degraded false r.ver) signed = some msg →
          let frame := udpFrame r.f (withPorts r.f 320 320 (s.replyHdr p r.f r.bytes)) msg
          let x : Launch := { tag := r.buf }
          s.launchable k p x r.buf frame → Completes (.delayRespSend k) s fun t => popped t ∧ s.launched t k p x r.buf frame)
        ∧ (s.serveOf r = .pdelayReq → r.nots = false → s.flag R.SRV_PORT_SVC0_TWO_STEP p = false → signed = false →
          let m : PtpMsg := { typ := 3, domain := beAt r.msg 4 1, flags := ptpFlags false r.unicast, cf := beAt r.msg 8 8, seq := beAt r.msg 30 2, logInt := 127
                              body := List.replicate 10 0#8 ++ slice r.msg 20 10 }
          s.ptpBytes p m (s.leashNowTlv p false) false = some msg →
          let frame := udpFrame r.f (withPorts r.f 319 319 (s.replyHdr p r.f r.bytes)) msg
          let x : Launch := { tag := r.buf, kind := 2, cf := r.f.hdr + 8, tref := r.rt, cksum := !r.f.l2, ck := if r.f.l2 then 0 else r.f.udp + 6 }
          s.launchable k p x r.buf frame → Completes (.pdelayRespSend k) s fun t => popped t ∧ t.srv.sent = s.srv.sent ∧ s.launched t k p x r.buf frame)
        ∧ (∀ f, s.serveOf r = .drop f → f = R.SRV_CNT_UNSUPPORTED ∨ f = R.SRV_CNT_PTP_AUTH_FAIL ∨ f = R.SRV_CNT_ANN_FOREIGN → Completes (.delayRespSend k) s fun t =>
            popped t ∧ s.counts t f ∧ t.mem = s.mem ∧ t.prt = s.prt))

/-- GRANTS, NTP AND UPSTREAM SESSIONS (R213, R215 to R217, R223 to R228): a request that passes the rules of R216 is granted, and the record, the committed rate and the answer follow; a
cancel, an expiry and the host's removal stop grants; the sweep frees idle records; NTP and NTS answers cost a token each; an upstream session hears its masters, asks,
sends Delay_Req, and a Sync that completes an exchange puts its record into the inlet. -/
def Obligations.GrantsNtpAndSessions : Prop :=
  ∀ (s : State) (k : Fin 8), s.serves k = true →
    let client := fun (t : State) => ∀ a, 0x20000000 ≤ a → t.byte a = s.byte a
    (∀ r : Req, s.headReq k = some r → r.buf < 0x10400000 →
        let p := r.port
        let popped := fun (t : State) => t.get R.SRV_RXQ_RD k = (s.get R.SRV_RXQ_RD k + 1) % 2 ^ R.SRV_RXQ_RD.width
        let signed := s.authReq p || s.icvOk p r.msg r.tlvs
        (∀ o len g i, s.serveOf r = .signaling → r.tlvs = [(4, o, len)] → grantOf (beAt r.msg o 1 / 16) = some g → s.reqRec r = some i → i < 2 ^ 20 →
            let log := sext 8 (beAt r.msg (o + 1) 1)
            let dur := beAt r.msg (o + 2) 4
            let rate := grantRate g (log + 8).toNat signed
            let open_ := (s.recKind i).testBit 3 = false ∧ (s.get R.SRV_CTRL_ADMIT ≠ 1 ∨ (s.recKind i).testBit 2 = true)
            let reply := fun (d : Nat) (ok : Bool) (t : State) => ∀ msg,
              let m : PtpMsg := { typ := 12, domain := beAt r.msg 4 1, flags := ptpFlags false r.unicast, cf := 0, seq := beAt r.msg 30 2, logInt := 127, body := slice r.msg 20 10 }
              s.ptpBytes p m (beBytes 2 5 ++ beBytes 2 8 ++ beBytes 1 (beAt r.msg o 1 / 16 * 16) ++ beBytes 1 (beAt r.msg (o + 1) 1) ++ beBytes 4 d ++ [0#8] ++ beBytes 1 (if ok then 1 else 0))
                signed = some msg →
              let frame := udpFrame r.f (withPorts r.f 320 320 (s.replyHdr p r.f r.bytes)) msg
              s.launchable k p { tag := r.buf } r.buf frame → s.launched t k p { tag := r.buf } r.buf frame
            (open_ → -7 ≤ log → log ≤ 7 → s.grantMin g ≤ (log + 8).toNat → s.get R.SRV_GRANT_DUR_DUR_MIN ≤ dur →
              s.srv.share[k] + rate ≤ s.get R.SRV_GRANT_BUDGET * 16000 + s.grantNow i g →
              let d := Nat.min dur (s.get R.SRV_GRANT_DUR_DUR_MAX)
              let e := (s.rtSec + d) % 65536
              Completes (.grantRequest k) s fun t => popped t ∧ reply d true t ∧ t.grantExp i g = (if e = 0 then 65535 else e) ∧ t.grantLog i g = (log + 8).toNat
                ∧ t.srv.share[k] = s.srv.share[k] + rate - s.grantNow i g ∧ ∀ h, h ≠ g → t.grantExp i h = s.grantExp i h ∧ t.grantLog i h = s.grantLog i h)
            ∧ (open_ → -7 ≤ log → log ≤ 7 → s.grantMin g ≤ (log + 8).toNat → dur < s.get R.SRV_GRANT_DUR_DUR_MIN →
              Completes (.grantRequest k) s fun t => popped t ∧ reply 0 false t ∧ client t ∧ t.srv.share = s.srv.share ∧ s.counts t R.SRV_CNT_GRANT_DENIED)
            ∧ (¬open_ → Completes (.grantRequest k) s fun t => popped t ∧ reply 0 false t ∧ client t ∧ t.srv.share = s.srv.share ∧ s.counts t R.SRV_CNT_GRANT_DENIED))
        ∧ (∀ o len g i, s.serveOf r = .signaling → r.tlvs = [(6, o, len)] → grantOf (beAt r.msg o 1 / 16) = some g → s.reqRec r = some i → i < 2 ^ 20 →
            Completes (.grantCancel k) s fun t => popped t ∧ t.grantExp i g = 0 ∧ t.srv.share[k] = s.srv.share[k] - s.grantNow i g ∧ ∀ h, h ≠ g → t.grantExp i h = s.grantExp i h)
        ∧ (∀ i, s.reqRec r = some i → i < 2 ^ 20 →
            let now := s.rt.toNat / 2 ^ 40 % 2 ^ 32
            let full := Nat.min (s.get R.SRV_NTP_CFG_BURST * 256) 65535
            let tokens := Nat.min (s.recFld i 12 2 + (now + 2 ^ 32 - s.recFld i 8 4) % 2 ^ 32 * s.get R.SRV_NTP_CFG_RATE / 16) full
            let spent := fun (t : State) => t.recFld i 8 4 = now ∧ t.recFld i 12 2 = (if 256 ≤ tokens then tokens - 256 else tokens)
            let x : Launch := { tag := r.buf, kind := 3, ins := r.f.hdr + 40, cksum := true, ck := r.f.udp + 6 }
            let sends := fun (t : State) (payload : List Byte) => s.launchable k p x r.buf (s.ntpFrame r payload) → s.launched t k p x r.buf (s.ntpFrame r payload)
            let disp := s.dispOf p s.rt.toNat false
            (s.serveOf r = .ntp → 256 ≤ tokens → Completes (.ntpResponse k) s fun t => popped t ∧ spent t ∧ sends t (s.ntpHeader r none disp 0))
            ∧ (s.serveOf r = .ntp → tokens < 256 → Completes (.ntpResponse k) s fun t => popped t ∧ spent t ∧ sends t (s.ntpHeader r (some "RATE") disp 0) ∧ s.counts t R.SRV_CNT_KOD_SENT)
            ∧ (s.serveOf r = .ntsn → 256 ≤ tokens → Completes (.ntsnResponse k) s fun t => popped t ∧ spent t ∧ sends t (s.ntpHeader r (some "NTSN") disp 0 ++ r.uid ++ Config.nakField))
            ∧ (s.serveOf r = .ntsn → tokens < 256 → Completes (.ntsnResponse k) s fun t => popped t ∧ spent t ∧ s.counts t R.SRV_CNT_RATE_DROP ∧ t.prt = s.prt)
            ∧ (s.serveOf r = .nts → tokens < 256 → Completes (.ntsResponse k) s fun t => popped t ∧ spent t ∧ s.counts t R.SRV_CNT_RATE_DROP ∧ t.prt = s.prt)
            ∧ (∀ c key, s.serveOf r = .nts → 256 ≤ tokens → s.ctxOf k.val (r.nts / 4 % 64) = some c → s.sec.cookieCur = some key →
              let n := 1 + r.nts / 256 % 8
              let cs := (s.cookies key c.c2s c.s2c n).1
              let pt := (List.range n).flatMap fun i => beBytes 2 0x0204 ++ beBytes 2 108 ++ slice cs (104 * i) 104
              let l := s.rt.toNat + s.get R.SRV_NTS_LEAD * 2 ^ 48 / 1000000000
              let clear := s.ntpHeader r none (s.dispOf p l true) (s.ntpAt (BitVec.ofNat 96 l)).toNat ++ r.uid
              let nonce := Config.randomBytes (s.draw + n) 16
              let vc := sivSeal c.s2c [clear, nonce] pt
              let auth := beBytes 2 0x0404 ++ beBytes 2 (8 + 16 + 16 + pt.length) ++ beBytes 2 16 ++ beBytes 2 (16 + pt.length) ++ nonce ++ vc.1 ++ vc.2
              r.unicast = true → Completes (.ntsResponse k) s fun t => popped t ∧ spent t ∧ t.ctxOf k.val (r.nts / 4 % 64) = none
                ∧ (s.launchable k p { l := l, fixed := true, tag := r.buf } r.buf (s.ntpFrame r (clear ++ auth)) →
                    s.launched t k p { l := l, fixed := true, tag := r.buf } r.buf (s.ntpFrame r (clear ++ auth))))))
    ∧ (∀ i : BitVec 20, s.recOwner i.toNat = k.val → s.recFp i.toNat ≠ 0 → s.recKind i.toNat % 4 = 0 → Completes (.grantExpiry i) s fun t =>
        (∀ g, t.grantExp i.toNat g = if s.grantExp i.toNat g ≠ 0 ∧ s.grantHeld i.toNat g = false then 0 else s.grantExp i.toNat g)
        ∧ ∀ a, a < recAddr i.toNat + 8 ∨ recAddr i.toNat + 14 ≤ a → t.byte a = s.byte a)
    ∧ (∀ (p : Fin 64) (hdr : List Byte) (buf : Word) (i : Nat) (del : Bool), i < 2 ^ 20 → buf.toNat < 0x10400000 →
        s.srv.cancel.find? (fun c => s.recOwner c.1 == k.val && s.recFld c.1 7 1 % 64 == p.val) = some (i, del) →
        Completes (.hostRecordCancel k p hdr buf) s fun t => t.srv.cancel = s.srv.cancel.erase (i, del) ∧ (∀ g, t.grantExp i g = 0)
          ∧ (del = true → t.bytes (recAddr i) 8 = List.replicate 8 0#8) ∧ (del = false → t.bytes (recAddr i) 8 = s.bytes (recAddr i) 8))
    ∧ (s.srv.sweepAt[k].all (s.past · 16) = false → exec (.clientSweep k) s = .next s)
    ∧ (s.srv.sweepAt[k].all (s.past · 16) = true → Completes (.clientSweep k) s fun t => t.prt = s.prt ∧ t.srv.sweepAt[k] = some s.time.lc.toNat ∧ ∀ i, i < 2 ^ 20 →
        t.bytes (recAddr i) 16 = if s.recOwner i = k.val ∧ s.sweeps i = true then List.replicate 16 0#8 else s.bytes (recAddr i) 16)
    ∧ (∀ (p : Fin 64) (act : UpAct), s.isSlave p = false ∨ s.profile p = 0 ∨ s.serves (servOf p) = false → exec (.upstreamExchange p act) s = .next s)
    ∧ (∀ p : Fin 64, servOf p = k → s.isSlave p = true → s.profile p ≠ 0 →
        let us := s.sessionOf p
        let x := s.srv.up[us]
        let popped := fun (t : State) => t.get R.SRV_RXQ_RD k = (s.get R.SRV_RXQ_RD k + 1) % 2 ^ R.SRV_RXQ_RD.width
        (∀ r : Req, s.headReq k = some r → r.port = p → s.serveOf r = .session →
          let auth := s.icvOk p r.msg r.tlvs
          let takes := fun (P : State → Prop) => Completes (.upstreamExchange p .take) s fun t => popped t ∧ t.mem = s.mem ∧ t.prt = s.prt ∧ P t
          (r.typ = 11 → x.sync = none → takes fun t => t.knl.inlet = s.knl.inlet ∧ t.srv.up[us].masters.head? = some { id := r.sender, addr := r.f.src, ds := slice r.msg 47 16, log := if r.log = 127 then x.askLog else r.log, at_ := s.time.lc.toNat, prev := (x.masters.find? fun m => m.id == r.sender).map (·.at_) })
          ∧ (∀ mst, s.upMaster p = some mst → mst.id = r.sender → r.typ = 0 → r.nots = false →
            let sync : UpSync := { id := r.sender, seq := beAt r.msg 30 2, t2 := r.rt, ver := r.ver, t1 := none, c := ptpCorrection r.msg
                                   log := if r.log = 127 then x.askLog else r.log, leash := r.leash, auth := auth, degraded := r.degraded, twoStep := true }
            let t1 := ptpInstant r.msg 34
            ((beAt r.msg 6 2).testBit 9 = true → takes fun t => t.srv.up[us] = { x with sync := some sync } ∧ t.knl.inlet = s.knl.inlet)
            ∧ ((beAt r.msg 6 2).testBit 9 = false → x.delay = none → takes fun t => t.srv.up[us] = { x with sync := some { sync with t1 := some t1, twoStep := false } }
                ∧ t.knl.inlet = s.knl.inlet)
            ∧ (∀ back dAuth dDeg, (beAt r.msg 6 2).testBit 9 = false → x.delay = some (back, dAuth, dDeg) → s.authReq p = false ∨ (auth && dAuth) = true → s.knl.inlet.length < 64 →
              let mpd := half (((r.rt : Int) - t1 - ptpCorrection r.msg) + back)
              let ofs := (t1 : Int) + ptpCorrection r.msg + mpd + s.attAsym (attOf p) - r.rt
              ∃ b : List Byte, leAt b 0 12 = r.rt % 2 ^ 96 ∧ leAt b 12 8 = trunc 64 ofs ∧ leAt b 20 8 = trunc 64 mpd
                ∧ takes fun t => t.knl.inlet = s.knl.inlet ++ [{ typ := 3, lc := s.time.lc, bytes := b }] ∧ t.srv.up[us] = { x with sync := none, recSeq := (x.recSeq + 1) % 65536 })))
        ∧ (∀ (hdr : List Byte) (buf : Word) (msg : List Byte),
          let send := fun (act : UpAct) (report : Bool) (port : Nat) (m : PtpMsg) (tlvs : List Byte) (after : UpSess) => s.ptpBytes p m tlvs (s.authReq p) = some msg →
            let frame := udpFrame (hdrFrame hdr) (withPorts (hdrFrame hdr) port port hdr) msg
            let l : Launch := { report := report, tag := buf.toNat }
            s.launchable k p l buf.toNat frame → Completes (.upstreamExchange p act) s fun t => s.launched t k p l buf.toNat frame ∧ t.srv.up[us] = after
          let one := fun (typ log : Nat) (dur : Word) => beBytes 2 4 ++ beBytes 2 6 ++ beBytes 1 (typ * 16) ++ beBytes 1 log ++ beBytes 4 dur.toNat
          let dom := s.get R.SRV_PORT_SVC0_DOMAIN p
          (∀ (dur : Word) (log : Byte), s.named p = true → send (.ask hdr buf dur log) false 320
            { typ := 12, domain := dom, flags := ptpFlags false true, cf := 0, seq := x.sigSeq, logInt := 127, body := List.replicate 10 0xFF#8 }
            (one 0 log.toNat dur ++ one 11 log.toNat dur ++ one 9 log.toNat dur) { x with askLog := sext 8 log.toNat, sigSeq := (x.sigSeq + 1) % 65536 })
          ∧ (s.upMaster p ≠ none → send (.delayReq hdr buf) true 319
            { typ := 1, domain := dom, flags := ptpFlags false (s.named p), cf := 0, seq := x.reqSeq, logInt := 127, body := List.replicate 10 0#8 } []
            { x with req := some { seq := x.reqSeq, tag := buf.toNat, t3 := none, t4 := none, auth := true, degraded := false }, reqSeq := (x.reqSeq + 1) % 65536 })))

/-- SYNTHESIS PLLS (R304 to R310): a commit is checked, refused with its code, or waits for its instant; there the shadow is active and the PLL relocks where it must; the sixth search
step of 25 µs takes a band; lock, a timeout, a loss and the return of the reference move the PLL, its outputs to bypass and back, and raise the faults of R306; a PLL
that feeds GNS takes its sample clock away with it (R141). -/
def Obligations.SynthesisPlls : Prop :=
  ∀ (s : State) (k : Fin 4),
    let st := s.pllState k
    let x := s.syn.pll[k]
    let others := fun (t : State) => t.mem = s.mem ∧ t.time = s.time ∧ ∀ j : Fin 4, j ≠ k → t.pllState j = s.pllState j ∧ t.syn.pll[j] = s.syn.pll[j]
    let now := s.time.lc.toNat
    let calm := s.flag R.GNS_STAT_CLK_OK = false ∨ (s.gsiPll = true ∧ s.get R.GNS_CFG_CLK_OUT / 4 ≠ k.val)
    let enters := fun (t : State) (v : Nat) => t.pllState k = v ∧ others t ∧ t.flag R.SYN_SP_STAT_LKF_HIGH k = false ∧ (t.get R.SYN_STAT_BYPASS).testBit k.val = true
    (∀ (m : Master) (v : Word), s.writes m (R.SYN_SP_COMMIT_AT.at k) →
        let sec := s.get R.SYN_SP_AT_SEC k
        let code := if s.commitRefuse k = 0 ∧ v.getLsbD 0 = true ∧ sec ≤ s.rtSec then 9 else s.commitRefuse k
        let at_ := (if v.getLsbD 0 then sec else s.rtSec + 1) * 2 ^ 48 + ceilDiv (bits v.toNat 2 10 * 2 ^ 48) 1000
        (x.commit ≠ none → Completes (.synCommitWrite m k v) s fun t => t.syn = s.syn ∧ (t.get R.SYN_EVT).testBit 17 = true ∧ others t)
        ∧ (x.commit = none → code ≠ 0 → Completes (.synCommitWrite m k v) s fun t => t.syn = s.syn ∧ t.get R.SYN_SP_STAT_REFUSE_CODE k = code ∧ (t.get R.SYN_EVT).testBit 16 = true ∧ others t)
        ∧ (x.commit = none → code = 0 → Completes (.synCommitWrite m k v) s fun t => t.syn.pll[k] = { x with commit := some ⟨at_, v.getLsbD 1⟩ } ∧ t.pllState k = st
          ∧ (t.get R.SYN_STAT_PENDING).testBit k.val = true ∧ t.get R.SYN_SP_STAT_REFUSE_CODE k = 0 ∧ others t))
    ∧ (x.commit = none → exec (.synCommitApply k) s = .next s)
    ∧ (∀ c, x.commit = some c →
        let mode := s.sh false R.SYN_SP_CFG_MODE k
        let relock := c.relock || s.pllChanged k
        let active := fun (t : State) => (∀ i, i < 4 → t.word (0x1301800 + k.val * 0x100 + 4 * i) = s.word (0x1301000 + k.val * 0x100 + 4 * i))
          ∧ (∀ o i, o < 4 → i < 7 → t.word (0x1302800 + (4 * k.val + o) * 0x40 + 4 * i) = s.word (0x1302000 + (4 * k.val + o) * 0x40 + 4 * i))
          ∧ t.syn.pll[k].commit = none ∧ (t.get R.SYN_STAT_PENDING).testBit k.val = false
        (s.rt.toNat < c.t → exec (.synCommitApply k) s = .next s)
        ∧ (c.t ≤ s.rt.toNat →
          (mode = 0 → calm → Completes (.synCommitApply k) s fun t => active t ∧ enters t 0 ∧ (t.get R.SYN_EVT).testBit (12 + k.val) = true)
          ∧ (mode ≠ 0 → calm → st = 5 ∨ (relock = true ∧ (st = 1 ∨ st = 2 ∨ st = 3)) → Completes (.synCommitApply k) s fun t => active t ∧ enters t 1 ∧ t.syn.pll[k].steps = 0)
          ∧ (mode ≠ 0 → relock = false → st = 1 ∨ st = 2 ∨ st = 3 → Completes (.synCommitApply k) s fun t => active t ∧ t.pllState k = st ∧ others t
            ∧ (t.get R.SYN_EVT).testBit (12 + k.val) = true)))
    ∧ (∀ band : Option (Fin 64),
        let ran := s.passed x.since 25
        (st ≠ 1 ∨ ran = false → exec (.bandSearchStep k band) s = .next s)
        ∧ (st = 1 → ran = true → x.steps < 5 → exec (.bandSearchStep k band) s = .next (s.setPll k { x with steps := x.steps + 1, since := now }))
        ∧ (∀ b, st = 1 → ran = true → 5 ≤ x.steps → band = some b → Completes (.bandSearchStep k band) s fun t => t.pllState k = 2 ∧ t.get R.SYN_SP_STAT_BAND k = b.val
          ∧ t.syn.pll[k] = { x with steps := 0, since := now } ∧ others t)
        ∧ (st = 1 → ran = true → calm → 5 ≤ x.steps → band = none → ∃ u, enters u 5 ∧ exec (.bandSearchStep k band) s = .next (u.raise fsSynFail k.val)))
    ∧ (st ≠ 2 → exec (.pllLkfLock k) s = .next s)
    ∧ (st ≠ 2 ∨ s.passed x.since 100000 = false → exec (.pllSettleTimeout k) s = .next s)
    ∧ (st = 2 → Completes (.pllLkfLock k) s fun t => t.pllState k = 3 ∧ t.flag R.SYN_SP_STAT_LKF_HIGH k = true ∧ others t ∧ (t.get R.SYN_STAT_BYPASS).testBit k.val = false
        ∧ t.syn.pll[k] = { x with retries := 0, doneAtLock := false, lockRt := s.rt.toNat, since := now } ∧ (t.get R.SYN_EVT).testBit k.val = true
        ∧ ∀ i, i < 4 → t.get R.SYN_OUT_STAT_STATE (4 * k.val + i) = if s.flag R.SYN_OUT_EN (4 * k.val + i) then 1 else 0)
    ∧ (st = 2 → s.passed x.since 100000 = true → calm → x.retries < 2 → Completes (.pllSettleTimeout k) s fun t => enters t 1 ∧ t.syn.pll[k] = { x with retries := x.retries + 1, steps := 0, since := now })
    ∧ (st = 2 → s.passed x.since 100000 = true → calm → 2 ≤ x.retries → ∃ u, enters u 5 ∧ exec (.pllSettleTimeout k) s = .next (u.raise fsSynFail k.val))
    ∧ (∀ slip, (st = 3 → calm → ∃ u, enters u 4 ∧ s.counts u R.SYN_SP_CNT_RELOCKS k ∧ (slip = true → s.counts u R.SYN_SP_CNT_SLIPS k)
          ∧ (∀ i, i < 4 → u.get R.SYN_OUT_STAT_STATE (4 * k.val + i) = u.outBypass (4 * k.val + i)) ∧ exec (.pllLoss k slip) s = .next (u.raise fsSynLockLost k.val))
        ∧ (st ≠ 3 → exec (.pllLoss k slip) s = .next s)
        ∧ (st = 3 → s.get R.GNS_CFG_CLK_OUT / 4 = k.val → s.flag R.GNS_STAT_CLK_OK = true → s.mild fsGnssClk → s.mild fsSynLockLost → s.room 2 → Completes (.pllLoss k slip) s fun t =>
            t.pllState k = 4 ∧ t.flag R.GNS_STAT_CLK_OK = false ∧ t.active fsGnssClk = true ∧ (t.get R.GNS_EVT).testBit 1 = true))
    ∧ (st = 4 → s.pllRef k = true → calm → Completes (.pllReferencePresent k) s fun t => enters t 1 ∧ t.syn.pll[k] = { x with steps := 0, since := now })
    ∧ (st ≠ 4 ∨ s.pllRef k = false → exec (.pllReferencePresent k) s = .next s)

/-- OUTPUTS AND HEEL (R308, R311, R315, R317 to R319, R322): OUT_EN switches an output, which resumes at its grid 10 µs after lock; the first record of a Heel source sets the grid, later
ones move it or, too far off, stop it with the fault; a time-of-day output sends its message; the checks of phase and band flag and report. -/
def Obligations.OutputsAndHeel : Prop :=
  ∀ (s : State) (j : Fin 16),
    let st := s.get R.SYN_OUT_STAT_STATE j
    let locked := s.pllState (j.val / 4) = 3
    let others := fun (t : State) => t.mem = s.mem ∧ t.time = s.time ∧ ∀ i : Fin 16, i ≠ j → t.get R.SYN_OUT_STAT_STATE i = s.get R.SYN_OUT_STAT_STATE i ∧ t.syn.out[i] = s.syn.out[i]
    (∀ (m : Master) (v : Word), s.writes m (R.SYN_OUT_EN.at j) →
        (v.getLsbD 0 = false → Completes (.outEnWrite m j v) s fun t => t.flag R.SYN_OUT_EN j = false ∧ t.get R.SYN_OUT_STAT_STATE j = 0 ∧ others t)
        ∧ (v.getLsbD 0 = true → Completes (.outEnWrite m j v) s fun t => t.flag R.SYN_OUT_EN j = true ∧ others t
          ∧ t.get R.SYN_OUT_STAT_STATE j = (if st ≠ 0 then st else if s.pllState (j.val / 4) = 3 then 1 else if s.pllState (j.val / 4) = 0 then 0
            else if s.sh true R.SYN_OUT_CFG_KIND j = 0 ∧ s.sh true R.SYN_OUT_CFG_BYP_ACT j = 1 then 3 else 4)))
    ∧ (∀ k : Fin 4, k.val = j.val / 4 → st = 1 → locked → s.syn.pll[k].lockRt + 10 * 2 ^ 48 / 1000000 ≤ s.rt.toNat → Completes (.outputGridResume j) s fun t =>
        t.get R.SYN_OUT_STAT_STATE j = 2 ∧ others t ∧ t.syn = s.syn)
    ∧ (st ≠ 1 ∨ ¬locked → exec (.outputGridResume j) s = .next s)
    ∧ (let hs := s.get R.SYN_OUT_STAT_HEEL_STATE j
       let o := s.syn.out[j]
       (let c := s.sh true R.SYN_OUT_CFG_HEEL_TI j
          let t := (s.tiRecord c).1
          let fresh := s.tiSeq c ≠ o.heelSeq
          let used := fresh ∧ (s.tiRecord c).2 = true
          let o := { o with heelSeq := s.tiSeq c }
          let run := if s.sh true R.SYN_OUT_CFG_HEEL_MODE j = 1 then 3 else 2
          let tin : Int := (t.toNat : Int) + psToUnits (s.outOffset true j)
          let p := s.outPeriod true j
          let e := gridErr tin (s.gridOrigin j) p.1 p.2
          let ps := roundDiv (e.1 * 1000000000000) e.2
          let sn := s.tiInterval c
          let lim : Int := if sn.2 = 0 then 0 else (s.get R.SYN_OUT_HEEL_CFG_SLEW j * sn.1 * 2 ^ 48 / (sn.2 * 1000000000) : Nat)
          (¬fresh → exec (.heelRecord j) s = .next s)
          ∧ (fresh → (s.tiRecord c).2 = false ∨ hs = 0 ∨ hs = 5 → exec (.heelRecord j) s = .next (s.setSynOut j o))
          ∧ (hs = 1 → used → Completes (.heelRecord j) s fun u => u.get R.SYN_OUT_STAT_HEEL_STATE j = run ∧ u.syn.out[j] = { o with heelLast := s.rt.toNat, heelG := some tin }
            ∧ u.get R.SYN_OUT_STAT_STATE j = (if s.flag R.SYN_OUT_EN j ∧ s.pllState (j.val / 4) = 3 then 1 else st) ∧ others u)
          ∧ (hs = 2 ∨ hs = 4 → used → Completes (.heelRecord j) s fun u => u.get R.SYN_OUT_STAT_HEEL_STATE j = run ∧ u.syn.out[j] = { o with heelLast := s.rt.toNat } ∧ others u)
          ∧ (hs = 3 → ps.natAbs ≤ s.get R.SYN_OUT_HEEL_CFG_STEP_MAX j * 1000 → used → Completes (.heelRecord j) s fun u => u.get R.SYN_OUT_HEEL_ERR j = trunc 32 ps
            ∧ u.get R.SYN_OUT_STAT_HEEL_STATE j = 3 ∧ u.syn.out[j] = { o with heelLast := s.rt.toNat, heelG := some (s.gridOrigin j + max (min (psToUnits ps) lim) (-lim)) } ∧ others u)
          ∧ (hs = 3 → s.get R.SYN_OUT_HEEL_CFG_STEP_MAX j * 1000 < ps.natAbs → used → ∃ u, u.get R.SYN_OUT_STAT_HEEL_STATE j = 5 ∧ u.get R.SYN_OUT_HEEL_ERR j = trunc 32 ps
            ∧ u.syn.out[j] = { o with heelLast := s.rt.toNat } ∧ others u ∧ exec (.heelRecord j) s = .next (u.raise fsSynHeelJump j.val)))
       ∧ (let sn := s.tiInterval (s.sh true R.SYN_OUT_CFG_HEEL_TI j)
          let late := 4 * sn.1 * 2 ^ 48 ≤ (s.rt.toNat - o.heelLast) * sn.2
          (hs = 2 ∨ hs = 3 → late → Completes (.heelHoldTimeout j) s fun u => u.get R.SYN_OUT_STAT_HEEL_STATE j = 4 ∧ u.syn = s.syn ∧ others u)
       ∧ (hs ≠ 2 ∧ hs ≠ 3 ∨ ¬late → exec (.heelHoldTimeout j) s = .next s)))
    ∧ (let kind := s.sh true R.SYN_OUT_CFG_KIND j
       let p : Fin 16 := ⟨s.sh true R.SYN_OUT_CFG_TOD_PPS j % 16, Nat.mod_lt _ (by decide)⟩
       let lag : Nat := if kind = 4 then 0 else s.sh true R.SYN_OUT_OFFSET1_TOD_LAG j
       (∀ at_ sec, s.lastPulse p = some (at_, sec) →
          let due := s.syn.out[j].todFor ≠ some at_ ∧ at_ * 1000 + lag * 2 ^ 48 ≤ (s.rt.toNat : Int) * 1000
          let sends := fun (msg : List Byte) => exec (.todMessage j) s = .next (s.setSynOut j { s.syn.out[j] with tod := msg, todFor := some at_ })
          (st = 2 → due → kind = 2 → sends (s.zda sec)) ∧ (st = 2 → due → kind = 3 → sends (s.ztod p sec)) ∧ (st = 2 → due → kind = 4 → sends (s.irig j p sec))
          ∧ (¬due → exec (.todMessage j) s = .next s))
       ∧ (st ≠ 2 ∨ kind ≤ 1 ∨ s.lastPulse p = none → exec (.todMessage j) s = .next s))
    ∧ (∀ (k : Fin 4) (vtune : Byte),
        let busy := s.syn.pll[k].commit.isSome || decide (s.rtSec < s.syn.pll[k].checkSec) || (List.range 4).any fun i => s.get R.SYN_OUT_STAT_STATE (4 * k.val + i) == 1
        let marked := (s.setPll k { s.syn.pll[k] with checkSec := s.rtSec + 1 }).syn
        let out := vtune.toNat * 5 < 256 ∨ 4 * 256 < vtune.toNat * 5
        (s.pllState k ≠ 3 ∨ busy = true → exec (.bandCheck k vtune) s = .next s)
        ∧ (s.pllState k = 3 → busy = false → ¬out → Completes (.bandCheck k vtune) s fun t => t.get R.SYN_SP_STAT_VTUNE k = vtune.toNat ∧ t.flag R.SYN_SP_STAT_BAND_MARGIN k = false
          ∧ t.pllState k = 3 ∧ t.syn = marked)
        ∧ (s.pllState k = 3 → busy = false → out → ∃ u : State, u.get R.SYN_SP_STAT_VTUNE k = vtune.toNat ∧ u.flag R.SYN_SP_STAT_BAND_MARGIN k = true ∧ u.pllState k = 3
          ∧ (u.get R.SYN_EVT).testBit 21 = true ∧ u.syn = marked ∧ exec (.bandCheck k vtune) s = .next (u.raise fsSynBandMargin k.val)))
    ∧ (∀ k : Fin 4, 4 * k.val = j.val →
        let c := 12 + k.val
        let t := (s.tiRecord c).1
        let fresh := s.tiSeq c ≠ s.syn.pll[k].phaseSeq ∧ s.get R.TIM_CFG_SRC c = 16 + j.val
        let taken := s.setPll k { s.syn.pll[k] with phaseSeq := s.tiSeq c }
        let off := (s.tiRecord c).2 = true ∧ st = 2 ∧ s.sh true R.SYN_SP_CFG_MODE k = 1 ∧ s.get R.SYN_OUT_UNC j < (s.edgeErr j t).natAbs
        (fresh → off → ∃ u : State, (∀ i, i < 4 → u.flag R.SYN_OUT_STAT_DEGRADED (4 * k.val + i) = true) ∧ u.syn = taken.syn
          ∧ exec (.outputPhaseCheck k) s = .next (u.raise fsSynPhaseErr k.val))
        ∧ (fresh → ¬off → exec (.outputPhaseCheck k) s = .next taken)
        ∧ (¬fresh → exec (.outputPhaseCheck k) s = .next s))

/-- PARTNERS AND THE UPLINK (R325, R326, R329 to R334): a due ROLL leaves on every attachment that carries Pack traffic, and on both ports of a pair; one that is received is shown and counts towards UP; a partner departs,
waits and is rearmed; a better candidate that has lasted becomes the uplink, whose records are withheld for a time. -/
def Obligations.PackPartnersAndUplink : Prop :=
  ∀ (s : State),
    let calm := s.flag R.PCK_CFG_ROLE = true ∨ s.active fsPckNoUplink = true
    let free := fun (p : Fin 64) => (s.lport p).pack = none ∧ (s.workPair p ≠ none → (s.lport (twin p)).pack = none)
    let holds := fun (t : State) (p : Fin 64) (b : List Byte) => match s.workPair p with
      | none => (t.lport p).pack = some { bytes := b, rct := none, own := true }
      | some j =>
        let n := (s.link (attOf (evenPort j))).rctSeq
        (t.lport p).pack = some { bytes := b, rct := some n, own := true } ∧ (t.lport (twin p)).pack = some { bytes := b, rct := some n, own := false }
    let idle := fun (c : Instr) => exec c s = .next s
    (s.gated 10 = true → idle .rollSend ∧ idle .uplinkRevert ∧ idle .uplinkWithholdEnd ∧ (∀ src, idle (.rollReceive src))
      ∧ ∀ i, idle (.partnerArriveTimeout i) ∧ idle (.partnerDepart i) ∧ idle (.partnerRearm i))
    ∧ (s.gated 10 = false →
    (s.rollDue = false → idle .rollSend)
    ∧ (s.rollDue = true →
        let c := ({ s with pck := { s.pck with rollSec := some s.rtSec } } : State).packCfgSync
        let u := (if s.flag R.PCK_CFG_ROLE then c.bumpW R.PCK_GM_SEQ else c).packFollow
        Completes .rollSend s fun t => (s.flag R.PCK_CFG_ROLE = true → t.get R.PCK_GM_SEQ = (s.get R.PCK_GM_SEQ + 1) % 2 ^ R.PCK_GM_SEQ.width ∧ t.get R.PCK_STAT_DEPTH = 0)
          ∧ u.rollPayload.length = 32 ∧ t.mem = s.mem
          ∧ t.pck.rollSec = some s.rtSec
          ∧ ∀ p : Fin 64, (s.workPair p = none ∨ s.carries (attOf (twin p)) = false →
              (s.carries (attOf p) = false → (t.lport p).pack = (s.lport p).pack ∧ t.att (attOf p) = s.att (attOf p))
              ∧ (s.carries (attOf p) = true → free p →
                let x := s.att (attOf p)
                holds t p (pad60 (packGroup ++ s.portMac p ++ beBytes 2 (s.get R.PCK_ETYPE) ++ u.packBody 0 0xFFFF x.txSeq[(0 : Fin 5)] u.rollPayload))
                ∧ t.att (attOf p) = { x with txSeq := x.txSeq.set 0 ((x.txSeq[(0 : Fin 5)] + 1) % 65536) })))
    ∧ (∀ (r : PackRx) (q : List PackRx), s.pck.rx = r :: q → r.typ = 0 →
        let i := r.att
        let st := s.partner i
        let n := if st = 1 then (if (s.att i).rollSec = s.rtSec then (s.att i).rolls else (s.att i).rolls + 1) else 1
        (s.carries i = true → r.src = s.get R.PCK_NODE → ∃ u : State, u.pck = { s.pck with rx := q } ∧ (u.get R.PCK_EVT).testBit 3 = true
          ∧ exec (.rollReceive .queued) s = .next ((u.raise fsPckNodeConflict i.val).braceEval))
        ∧ (s.carries i = true → r.src ≠ s.get R.PCK_NODE → s.flag R.PCK_ATT_PARTNER_VALID i = false ∨ s.partnerId i = r.src → s.flag R.BRC_CFG_ENABLE = false → calm →
          Completes (.rollReceive .queued) s fun t => t.pck.rx = q
            ∧ t.partner i = (if st = 0 ∨ st = 1 then (if s.get R.PCK_TIMERS_ARRIVE_HOLD ≤ n then 2 else 1) else st)
            ∧ (st = 0 ∨ st = 1 → (t.att i).rolls = n) ∧ (t.att i).rollLc = s.time.lc.toNat ∧ (t.att i).rollSec = s.rtSec
            ∧ t.partnerId i = r.src % 2 ^ R.PCK_ATT_PARTNER_NODE.width ∧ t.flag R.PCK_ATT_PARTNER_VALID i = true
            ∧ t.get R.PCK_ATT_STAT_P_DEPTH i = beAt r.payload 1 1 % 2 ^ R.PCK_ATT_STAT_P_DEPTH.width ∧ t.get R.PCK_ATT_SEQ i = beAt r.payload 12 4
            ∧ ∀ j, j ≠ i → t.partner j = s.partner j))
    ∧ (∀ i : Fin 68,
        let now := s.time.lc.toNat
        let x := s.att i
        let quiet := s.flag R.BRC_CFG_ENABLE = false
        (s.partner i = 1 → 2 ^ 48 ≤ now - x.rollLc → Completes (.partnerArriveTimeout i) s fun t => t.partner i = 0 ∧ t.flag R.PCK_ATT_PARTNER_VALID i = false ∧ t.pck = s.pck)
        ∧ (s.partner i ≠ 1 ∨ now - x.rollLc < 2 ^ 48 → exec (.partnerArriveTimeout i) s = .next s)
        ∧ (s.partner i = 2 → s.departs i = true → quiet → calm → Completes (.partnerDepart i) s fun t => t.partner i = 3 ∧ (t.att i).since = now ∧ (t.att i).unanswered = 0
          ∧ t.uplinkAtt ≠ some i ∧ s.counts t R.PCK_ATT_CNT_LOSSES i ∧ ∀ j, j ≠ i → t.partner j = s.partner j)
        ∧ (s.partner i ≠ 2 ∨ s.departs i = false → exec (.partnerDepart i) s = .next s)
        ∧ (s.partner i = 3 → s.get R.PCK_TIMERS_REARM_HOLD * 2 ^ 48 ≤ now - x.since → Completes (.partnerRearm i) s fun t => t.partner i = 0
          ∧ t.flag R.PCK_ATT_PARTNER_VALID i = false ∧ t.pck = s.pck)
        ∧ (s.partner i ≠ 3 ∨ now - x.since < s.get R.PCK_TIMERS_REARM_HOLD * 2 ^ 48 → exec (.partnerRearm i) s = .next s))
    ∧ (∀ u : Fin 68, s.flag R.PCK_CFG_ROLE = false → s.uplinkAtt = some u → s.eligible u = true →
        let better := fun (d : Fin 68) => d ≠ u ∧ s.eligible d = true ∧ ranksBefore (s.keys3 d) (s.keys3 u) = true
        ((∀ d, ¬better d) → Completes .uplinkRevert s fun t => t.uplinkAtt = some u ∧ t.pck.withhold = s.pck.withhold ∧ ∀ d, (t.att d).better = none)
        ∧ (∀ (c : Fin 68) (l : Nat), better c → (∀ d, d ≠ c → ¬better d) → (s.att c).better = some l →
          (s.get R.PCK_EXCH_REVERT_HOLD * 2 ^ 48 ≤ s.time.lc.toNat - l → Completes .uplinkRevert s fun t => t.uplinkAtt = some c ∧ s.counts t R.PCK_UPLINK_CHANGES
            ∧ t.pck.withhold = some (s.time.lc.toNat + ceilDiv (5 * s.get R.PCK_EXCH_EXCH_MS * 2 ^ 48) 1000) ∧ (t.get R.PCK_EVT).testBit 2 = true)
          ∧ (s.time.lc.toNat - l < s.get R.PCK_EXCH_REVERT_HOLD * 2 ^ 48 → Completes .uplinkRevert s fun t => t.uplinkAtt = some u ∧ (t.att c).better = some l)))
    ∧ (∀ l, s.pck.withhold = some l → (l ≤ s.time.lc.toNat → exec .uplinkWithholdEnd s = .next { s with pck := { s.pck with withhold := none } })
        ∧ (s.time.lc.toNat < l → exec .uplinkWithholdEnd s = .next s))
    ∧ (s.pck.withhold = none → exec .uplinkWithholdEnd s = .next s))

/-- EXCHANGES (R325, R327, R335, R336): a T_REQ opens an exchange with the UP partner, no sooner than EXCH_MS after the last; each frame and timestamp fills its instant; the T_FUP completes it with offset and mean path delay, and
an exchange that misses a timestamp, or its T_FUP for 10 ms, is void, and so is one
without a T_RESP once the next is due (the model's choice, log entry 101); the Pack key is loaded from its slot. -/
def Obligations.PackExchanges : Prop :=
  ∀ (s : State) (p : Fin 64),
    let i := attOf p
    let x := s.att i
    let free := fun (p : Fin 64) => (s.lport p).pack = none ∧ (s.workPair p ≠ none → (s.lport (twin p)).pack = none)
    let holds := fun (t : State) (p : Fin 64) (b : List Byte) => match s.workPair p with
      | none => (t.lport p).pack = some { bytes := b, rct := none, own := true }
      | some j =>
        let n := (s.link (attOf (evenPort j))).rctSeq
        (t.lport p).pack = some { bytes := b, rct := some n, own := true } ∧ (t.lport (twin p)).pack = some { bytes := b, rct := some n, own := false }
    let frame := fun (typ dst seq : Nat) (b : List Byte) => pad60 (packGroup ++ s.portMac p ++ beBytes 2 (s.get R.PCK_ETYPE) ++ s.packBody typ dst seq b)
    let idle := fun (c : Instr) => exec c s = .next s
    let others := fun (t : State) => t.mem = s.mem ∧ ∀ j, j ≠ i → t.att j = s.att j
    let voids := fun (c : Instr) => Completes c s fun t => (t.att i).ex = none ∧ (t.att i).unanswered = x.unanswered + 1 ∧ s.counts t R.PCK_ATT_CNT_VOID i ∧ others t
    (s.gated 10 = true → idle (.exchangeStart i) ∧ idle (.exchangeVoid i) ∧ (∀ ph b, idle (.packTxTimestamp i ph b))
      ∧ ∀ src, idle (.tReqReceive src) ∧ idle (.tRespReceive src) ∧ idle (.tFupReceive src))
    ∧ (s.gated 10 = false →
    (s.partner i ≠ 2 ∨ s.carries i = false ∨ s.exDue i = false → idle (.exchangeStart i))
    ∧ (s.partner i = 2 → s.carries i = true → s.exDue i = true → free p →
        let seq := x.txSeq[(1 : Fin 5)]
        Completes (.exchangeStart i) s fun t => (t.att i).ex = some { seq := seq, start := s.time.lc.toNat, t1 := none, t2 := none, t4 := none, ver := 0, at_ := none, degraded := false, auth := true }
          ∧ (t.att i).exLc = some s.time.lc.toNat ∧ holds t p (frame 1 (s.partnerId i) seq []) ∧ (t.att i).txSeq = x.txSeq.set 1 ((seq + 1) % 65536) ∧ others t
          ∧ (x.ex = none → (t.att i).unanswered = x.unanswered) ∧ (x.ex ≠ none → (t.att i).unanswered = x.unanswered + 1 ∧ s.counts t R.PCK_ATT_CNT_VOID i))
    ∧ (∀ (r : PackRx) (q : List PackRx), s.pck.rx = r :: q → r.att = i → s.fromPartner r = true →
        (∀ t2, r.typ = 1 → r.ts = some t2 → free p → Completes (.tReqReceive .queued) s fun t => t.pck.rx = q ∧ t.att i = { x with reply := some (r.seq, r.degraded) }
          ∧ holds t p (frame 2 r.src r.seq (beBytes 12 t2)) ∧ others t)
        ∧ (∀ e, r.typ = 2 → x.ex = some e → e.seq = r.seq → Completes (.tRespReceive .queued) s fun t => t.pck.rx = q ∧ others t
          ∧ t.att i = { x with ex := some { e with t2 := some (beAt r.payload 0 12), t4 := r.ts, ver := r.ver, at_ := some s.time.lc.toNat
                                                   degraded := e.degraded || r.degraded, auth := e.auth && r.auth } })
        ∧ (∀ e t1 t2 t4, r.typ = 3 → x.ex = some e → e.seq = r.seq → e.t1 = some t1 → e.t2 = some t2 → e.t4 = some t4 →
          let t3 := beAt r.payload 0 12
          let mpd := roundDiv (((t2 : Int) - t1) + ((t4 : Int) - t3)) 2
          let ofs := (t3 : Int) + mpd + s.attAsym i - t4
          Completes (.tFupReceive .queued) s fun t => t.pck.rx = q ∧ (t.att i).ex = none ∧ (t.att i).unanswered = 0 ∧ t.get R.PCK_ATT_OFS i = trunc 64 ofs
            ∧ t.get R.PCK_ATT_MPD i = trunc 64 mpd ∧ (t.att i).rec_.map (fun e => (e.t4, e.ofs, e.mpd, e.leash)) = some (t4, ofs, mpd, beAt r.payload 12 6) ∧ others t
            ∧ (s.uplinkAtt = some i → s.pck.withhold = none → s.knl.inlet.length < 64 → ∃ b : List Byte, leAt b 0 12 = t4 % 2 ^ 96 ∧ leAt b 12 8 = trunc 64 ofs
                ∧ t.knl.inlet = s.knl.inlet ++ [{ typ := 4, lc := s.time.lc, bytes := b }])
            ∧ (s.uplinkAtt ≠ some i ∨ s.pck.withhold ≠ none → t.knl.inlet = s.knl.inlet))
        ∧ (∀ e, r.typ = 3 → x.ex = some e → e.seq = r.seq → e.t1 = none ∨ e.t2 = none ∨ e.t4 = none → voids (.tFupReceive .queued)))
    ∧ (∀ (ph : BitVec 16) (b : Byte) (f : List Byte) (tx : Nat) (d : Bool), (s.lport p).packTs = some (f, tx, d) →
        let h := f.drop 14
        (∀ e, beAt h 1 1 = 1 → x.ex = some e → e.seq = beAt h 6 2 → Completes (.packTxTimestamp i ph b) s fun t =>
          t.att i = { x with ex := some { e with t1 := some tx, degraded := e.degraded || d } } ∧ (t.lport p).packTs = none ∧ others t)
        ∧ (∀ d2, beAt h 1 1 = 2 → x.reply = some (beAt h 6 2, d2) → free p → Completes (.packTxTimestamp i ph b) s fun t =>
          t.att i = { x with reply := none } ∧ (t.lport p).packTs = none ∧ others t
          ∧ holds t p (frame 3 (beAt h 4 2) (beAt h 6 2) (beBytes 12 tx ++ beBytes 6 (s.attLeash i tx d) ++ beBytes 1 (s.get R.LSH_STAT_CLOCK_CLASS) ++ beBytes 1 (s.tlvFlags (d2 || d))))))
    ∧ (∀ ph b, (s.lport p).packTs = none → exec (.packTxTimestamp i ph b) s = .next s)
    ∧ (x.ex = none → exec (.exchangeVoid i) s = .next s)
    ∧ (∀ e, x.ex = some e →
        (∀ l, e.at_ = some l → s.passed l 10000 = false → e.t1 ≠ none → e.t4 ≠ none → idle (.exchangeVoid i))
        ∧ (∀ l, e.at_ = some l → s.passed l 10000 = true ∨ e.t1 = none ∨ e.t4 = none → voids (.exchangeVoid i))
        ∧ (e.at_ = none → s.passed e.start (s.exchMs * 1000) = true → voids (.exchangeVoid i))
        ∧ (e.at_ = none → s.passed e.start (s.exchMs * 1000) = false → idle (.exchangeVoid i))))
    ∧ (∀ (m : Master) (v : Word) (k : Fin 32), s.writes m R.PCK_AUTH_SLOT.addr → v.toNat % 32 = k.val →
        (∀ d, v.getLsbD 8 = true → (s.wkrLoad 3 [16] k (some m) []).1 = some d → Completes (.packKeyLoad m v) s fun t => t.sec.pckKey = some d ∧ t.flag R.PCK_AUTH_KEY_OK = true
          ∧ t.get R.PCK_AUTH_SLOT = k.val ∧ t.sec.cookieCur = s.sec.cookieCur)
        ∧ (v.getLsbD 8 = false → Completes (.packKeyLoad m v) s fun t => t.sec = s.sec ∧ t.get R.PCK_AUTH_SLOT = k.val))

/-- THE BRACE PAIR (R339 to R343, R346, R347): a due BRACE frame carries the pair's state on the Brace attachment; one that is received is kept, its proposal echoed; both devices change role
at the second that is fixed, unless that is deferred; a device mutes and unmutes by BRC_CTRL, by its partner's MUTED, and after UNMUTE_TIME. -/
def Obligations.BracePair : Prop :=
  ∀ (s : State) (m : Master),
    let muted := s.flag R.BRC_STAT_MUTED
    let free := fun (p : Fin 64) => (s.lport p).pack = none ∧ (s.workPair p ≠ none → (s.lport (twin p)).pack = none)
    let holds := fun (t : State) (p : Fin 64) (b : List Byte) => match s.workPair p with
      | none => (t.lport p).pack = some { bytes := b, rct := none, own := true }
      | some j =>
        let n := (s.link (attOf (evenPort j))).rctSeq
        (t.lport p).pack = some { bytes := b, rct := some n, own := true } ∧ (t.lport (twin p)).pack = some { bytes := b, rct := some n, own := false }
    let idle := fun (c : Instr) => exec c s = .next s
    (s.gated 10 = true → idle .braceSend ∧ idle .braceSwap ∧ idle .autoUnmute ∧ ∀ src, idle (.braceReceive src))
    ∧ (s.gated 10 = false →
    (∀ p : Fin 64, s.braceAtt = some (attOf p) → s.flag R.BRC_CFG_ENABLE = true → s.carries (attOf p) = true →
        let x := s.att (attOf p)
        let u := s.proposal
        (u.braceDue = false → exec .braceSend s = .next u)
        ∧ (u.braceDue = true → free p → Completes .braceSend s fun t => t.brc = { u.brc with sendSec := u.braceSlot, said := u.braceSays } ∧ t.mem = s.mem
            ∧ holds t p (pad60 (packGroup ++ s.portMac p ++ beBytes 2 (s.get R.PCK_ETYPE) ++ s.packBody 4 (s.partnerId (attOf p)) x.txSeq[(4 : Fin 5)] u.bracePayload))
            ∧ u.bracePayload.length = 16))
    ∧ (s.flag R.BRC_CFG_ENABLE = false ∨ s.braceAtt = none → exec .braceSend s = .next s)
    ∧ (∀ (r : PackRx) (q : List PackRx), s.pck.rx = r :: q → r.typ = 4 → s.flag R.BRC_CFG_ENABLE = true → s.braceAtt = some r.att → s.fromPartner r = true →
        let p := r.payload
        let f : BraceFrame := { side := beAt p 0 1, role := beAt p 1 1, flags := beAt p 2 2, swapAt := beAt p 4 6, verdict := beAt p 10 1, state := beAt p 11 1, at_ := s.time.lc.toNat }
        Completes (.braceReceive .queued) s fun t => t.pck.rx = q ∧ t.brc.frame = some f ∧ t.flag R.BRC_STAT_PARTNER_MUTED = f.flags.testBit 0 ∧ t.mem = s.mem
          ∧ t.get R.BRC_STAT_P_VERDICT = f.verdict % 2 ^ R.BRC_STAT_P_VERDICT.width ∧ t.flag R.BRC_STAT_MUTED = (muted && !f.flags.testBit 0)
          ∧ (s.pairState = 2 → f.flags.testBit 1 = true → s.flag R.BRC_STAT_LEAD = false →
              let e := if s.kSwapOn f.swapAt then f.swapAt + 1 else f.swapAt
              t.brc.echo = some e ∧ t.brc.swapAt = some e)
          ∧ (∀ b, s.pairState = 2 → f.flags.testBit 2 = true → s.flag R.BRC_STAT_LEAD = true → s.brc.propose = some b → s.brc.swapAt = none →
              s.rt.toNat * 10 + 2 ^ 48 ≤ b * 2 ^ 48 * 10 → t.brc.swapAt = some f.swapAt))
    ∧ (s.brc.swapAt = none → exec .braceSwap s = .next s)
    ∧ (∀ a, s.brc.swapAt = some a →
        let cleared := fun (t : State) => t.brc = { s.brc with propose := none, echo := none, swapAt := none } ∧ t.mem = s.mem
        (s.rtSec < a → exec .braceSwap s = .next s)
        ∧ (a ≤ s.rtSec → s.pairState = 2 → muted = false → s.flag R.BRC_STAT_PARTNER_MUTED = false → Completes .braceSwap s fun t =>
          t.flag R.BRC_STAT_LEAD = (!s.flag R.BRC_STAT_LEAD) ∧ s.counts t R.BRC_CNT0_SWAPS ∧ (t.get R.BRC_EVT).testBit 5 = true ∧ cleared t)
        ∧ (a ≤ s.rtSec → s.pairState ≠ 2 ∨ muted = true ∨ s.flag R.BRC_STAT_PARTNER_MUTED = true → Completes .braceSwap s fun t =>
          t.flag R.BRC_STAT_LEAD = s.flag R.BRC_STAT_LEAD ∧ s.counts t R.BRC_CNT0_SWAP_DEFERRED ∧ cleared t))
    ∧ (let due := s.flag R.BRC_CFG_AUTO_UNMUTE = true ∧ s.pairState = 2 ∧ s.get R.BRC_UNMUTE_TIME ≤ s.brc.calm
       (due → Completes .autoUnmute s fun t => t.flag R.BRC_STAT_MUTED = false ∧ (muted = true → t.active fsBrcMuted = false) ∧ t.brc = s.brc ∧ t.mem = s.mem)
       ∧ (¬due → exec .autoUnmute s = .next s)))
    ∧ (∀ v : Word, s.writes m R.BRC_CTRL_UNMUTE.addr →
        (v.getLsbD 1 = false → Completes (.brcUnmute m v) s fun t => t.flag R.BRC_STAT_MUTED = false ∧ (muted = true → t.active fsBrcMuted = false ∧ (t.get R.BRC_EVT).testBit 4 = true) ∧ t.mem = s.mem)
        ∧ (v.getLsbD 0 = false → muted = true ∨ s.flag R.BRC_STAT_PARTNER_MUTED = true → Completes (.brcMute m v) s fun t => t.flag R.BRC_STAT_MUTED = muted ∧ t.mem = s.mem)
        ∧ (v.getLsbD 0 = false → muted = false → s.flag R.BRC_STAT_PARTNER_MUTED = false → s.mild fsBrcMuted → Completes (.brcMute m v) s fun t =>
          t.flag R.BRC_STAT_MUTED = true ∧ s.counts t R.BRC_CNT1_MUTES ∧ (t.get R.BRC_EVT).testBit 3 = true ∧ t.mem = s.mem))

/-- AES REFERENCE PORTS (R350 to R360): a start is armed or refused, and its instant starts the ports of it; a block boundary applies the configuration and the committed channel status, and
forms steer; an output sends its frame from the ring, held or silent, under its gain; an input locks, loses lock, captures its frames and gives a record a second; in the gated unit nothing of this happens. -/
def Obligations.AesPorts : Prop :=
  ∀ (s : State) (m : Master) (n : Fin 4),
    let x := s.adrPort n
    let others := fun (t : State) => t.time = s.time ∧ ∀ k, k ≠ n → t.adrPort k = s.adrPort k
    (∀ v : Word, s.writes m R.ADR_START2_PORTS.addr →
        let at_ := s.get R.ADR_START
        let ms := bits v.toNat 0 10
        let ports := bits v.toNat 16 4
        (s.adrRefuses at_ ms ports = true → Completes (.adrStartWrite m v) s fun t => t.adr = s.adr ∧ (t.get R.ADR_EVT).testBit 17 = true ∧ t.mem = s.mem)
        ∧ (s.adrRefuses at_ ms ports = false → Completes (.adrStartWrite m v) s fun t => t.adr = { s.adr with armed := some (at_, ms, ports) } ∧ t.flag R.ADR_STAT = true ∧ t.mem = s.mem))
    ∧ (∀ v : Word, s.writes m (R.ADR_CS_COMMIT.at n) →
        (s.flag R.ADR_PSTAT_COMMIT_PENDING n = true → Completes (.adrCsCommit m n v) s fun t => (t.get R.ADR_EVT).testBit 18 = true ∧ t.adr = s.adr ∧ t.get R.ADR_CS_ACTIVE n = s.get R.ADR_CS_ACTIVE n)
        ∧ (s.flag R.ADR_PSTAT_COMMIT_PENDING n = false → v.getLsbD 0 = true → Completes (.adrCsCommit m n v) s fun t => t.flag R.ADR_PSTAT_COMMIT_PENDING n = true ∧ t.adr = s.adr
          ∧ t.get R.ADR_CS_ACTIVE n = s.get R.ADR_CS_ACTIVE n))
    ∧ (s.gated 9 = true → exec .adrStartTrigger s = .next s ∧ exec (.adrBlockBoundary n) s = .next s ∧ exec (.adrOutputFrame n) s = .next s ∧ exec (.adrInputLoss n) s = .next s
      ∧ exec (.adrSecondRecord n) s = .next s ∧ exec (.adrClockLoss n) s = .next s ∧ ∀ f, exec (.adrInputFrame n f) s = .next s)
    ∧ (s.gated 9 = false →
    (s.adr.armed = none → exec .adrStartTrigger s = .next s)
    ∧ (∀ at_ ms ports, s.adr.armed = some (at_, ms, ports) →
        (s.rt.toNat * 1000 < (at_ * 1000 + ms) * 2 ^ 48 → exec .adrStartTrigger s = .next s)
        ∧ ((at_ * 1000 + ms) * 2 ^ 48 ≤ s.rt.toNat * 1000 → Completes .adrStartTrigger s fun t => t.adr.armed = none ∧ t.flag R.ADR_STAT = false ∧ (t.get R.ADR_EVT).testBit 16 = true
          ∧ ∀ k : Fin 4, (ports.testBit k.val = true → s.adrOut k = true → s.flag R.ADR_CFG_SRC k = true → t.flag R.ADR_PSTAT_PLAYING k = true
              ∧ t.adrPort k = { s.adrPort k with origin := some ((at_ * 1000 + ms) * fsRate (s.adrPort k).fs / 1000), acc := 0, dry := false })
            ∧ (ports.testBit k.val = false ∨ s.adrOut k = false ∨ s.flag R.ADR_CFG_SRC k = false → t.adrPort k = s.adrPort k ∧ t.flag R.ADR_PSTAT_PLAYING k = s.flag R.ADR_PSTAT_PLAYING k)))
    ∧ (let fs := s.get R.ADR_CFG_FS n
       (s.adrAtBlock n = false → exec (.adrBlockBoundary n) s = .next s)
       ∧ (x.on = false → s.flag R.ADR_CFG_ENABLE n = true → s.flag R.ADR_CFG_DIR n = true → Completes (.adrBlockBoundary n) s fun t => t.adrPort n = x.restart true true fs
          ∧ t.get R.ADR_PSTAT_IN_STATE n = 0 ∧ t.flag R.ADR_PSTAT_PLAYING n = false ∧ t.flag R.ADR_PSTAT_CLK_ERR n = false ∧ others t)
       ∧ (x.on = false → s.flag R.ADR_CFG_ENABLE n = true → s.flag R.ADR_CFG_DIR n = false → s.adrAtBlock n = true → s.adrClkOk n fs = false → Completes (.adrBlockBoundary n) s fun t =>
          t.adrPort n = x ∧ t.flag R.ADR_PSTAT_CLK_ERR n = true ∧ others t)
       ∧ (x.on = true → x.input = false → s.adrFrame x.fs % 192 = 0 → s.flag R.ADR_CFG_ENABLE n = false → Completes (.adrBlockBoundary n) s fun t => (t.adrPort n).on = false
          ∧ t.flag R.ADR_PSTAT_PLAYING n = false ∧ others t)
       ∧ (x.on = true → x.input = false → x.lost = false → s.adrFrame x.fs % 192 = 0 → s.flag R.ADR_CFG_ENABLE n = true → s.flag R.ADR_CFG_DIR n = false → fs = x.fs → s.adrClkOk n fs = true →
          s.adrAligned n = true →
          (x.block = some (s.adrFrame x.fs) → exec (.adrBlockBoundary n) s = .next (s.setFlag R.ADR_PSTAT_CLK_ERR n false))
          ∧ (x.block ≠ some (s.adrFrame x.fs) →
          let pend := s.flag R.ADR_PSTAT_COMMIT_PENDING n
          let cs := leBytes 48 (s.get (if pend then R.ADR_CS_SHADOW else R.ADR_CS_ACTIVE) n)
          let fill := s.adrFill n (s.adrFrame x.fs) (Config.freeBits 32 s.draw).toNat
          let e : Int := (s.adrHeld n : Int) - s.get R.ADR_STEER_CFG_TARGET n
          let acc := max (min (x.acc + e) (2 ^ 20)) (-(2 ^ 20))
          let steers := s.flag R.ADR_CFG_SRC n
          Completes (.adrBlockBoundary n) s fun t => t.get R.ADR_CS_ACTIVE n = ofLe (fill (cs.take 24) ++ fill (cs.drop 24)) ∧ t.flag R.ADR_PSTAT_COMMIT_PENDING n = false
            ∧ (t.adrPort n).user = (if pend then leBytes 48 (s.get R.ADR_U_SHADOW n) else x.user) ∧ (t.adrPort n).sent = x.sent ∧ (t.adrPort n).block = some (s.adrFrame x.fs) ∧ others t
            ∧ (steers = true → (t.adrPort n).acc = acc ∧ t.get R.ADR_STEER n = trunc 32 (steerOf e acc (fsRate x.fs) (s.get R.ADR_STEER_CFG_TC n)))
            ∧ (steers = false → (t.adrPort n).acc = x.acc ∧ t.get R.ADR_STEER n = s.get R.ADR_STEER n))))
    ∧ (s.adrOut n = true → s.adrAligned n = false → x.lost = false → Completes (.adrClockLoss n) s fun t => t.adrPort n = { x with lost := true }
        ∧ (t.get R.ADR_EVT).testBit (12 + n.val) = true ∧ others t ∧ t.mem = s.mem)
    ∧ (s.adrOut n = false ∨ s.adrAligned n = true ∨ x.lost = true → exec (.adrClockLoss n) s = .next s)
    ∧ (let k := s.adrFrame x.fs
       let rd := s.get R.ADR_RING_RD n
       let held := s.adrHeld n
       let silent := s.flag R.ADR_CFG_SRC n = false ∨ s.flag R.ADR_PSTAT_PLAYING n = false
       let dry := held = 0 ∨ (x.dry = true ∧ held < s.get R.ADR_RING_CFG_START_LEVEL n)
       let sends := fun (y : (Int × Int) × Bool × Bool) (isDry : Bool) (t : State) =>
         let g := gainStep (x.gNum, x.gDen) (s.flag R.ADR_MUTE_MUTE n || isDry) (s.get R.ADR_MUTE_RAMP n)
         let cs := s.get R.ADR_CS_ACTIVE n
         let u := ofLe x.user
         (t.adrPort n).sent = some (k, k % 192 == 0, subframe (scaled y.1.1 g) y.2.1 (u.testBit (k % 192)) (cs.testBit (k % 192)) (k % 192 == 0),
             subframe (scaled y.1.2 g) y.2.2 (u.testBit (192 + k % 192)) (cs.testBit (192 + k % 192)) (k % 192 == 0))
           ∧ ((t.adrPort n).gNum, (t.adrPort n).gDen) = g ∧ t.flag R.ADR_PSTAT_GAIN_ZERO n = (g.1 == 0) ∧ (t.adrPort n).dry = isDry ∧ others t ∧ t.mem = s.mem
       (s.adrOut n = false ∨ x.lost = true → exec (.adrOutputFrame n) s = .next s)
       ∧ (s.adrOut n = true → x.lost = false → x.sent = none ∨ (∃ j r, x.sent = some (j, r) ∧ j < k) →
          (silent → Completes (.adrOutputFrame n) s fun t => sends ((0, 0), false, false) false t ∧ t.get R.ADR_RING_RD n = rd)
          ∧ (¬silent → dry → Completes (.adrOutputFrame n) s fun t => sends (x.last, true, true) true t ∧ t.get R.ADR_RING_RD n = rd
            ∧ (x.dry = false → s.counts t R.ADR_UNDERRUNS n ∧ (t.get R.ADR_EVT).testBit n.val = true ∧ (t.adrPort n).acc = 0))
          ∧ (¬silent → ¬dry → Completes (.adrOutputFrame n) s fun t => sends (s.adrRead n rd) false t ∧ t.get R.ADR_RING_RD n = (rd + 1) % 2 ^ 32
            ∧ (t.adrPort n).last = (s.adrRead n rd).1)))
    ∧ (∀ f : AesFrame,
        let st := s.get R.ADR_PSTAT_IN_STATE n
        let clean := parityBad f.a = false ∧ parityBad f.b = false ∧ f.codeErr = false ∧ s.refState (18 + n.val) = 0
        (x.on = false ∨ x.input = false → exec (.adrInputFrame n f) s = .next s)
        ∧ (x.on = true → x.input = true → f.preamble = none → Completes (.adrInputFrame n f) s fun t => (t.adrPort n).missing = x.missing + 1 ∧ (t.adrPort n).clean = false
          ∧ (t.adrPort n).codeErr = (x.codeErr || f.codeErr) ∧ ((parityBad f.a != parityBad f.b) = true → s.counts t R.ADR_PARITY_ERR n) ∧ (f.codeErr = true → s.counts t R.ADR_CODE_ERR n) ∧ others t)
        ∧ (∀ lc, x.on = true → x.input = true → clean → f.preamble = some (false, lc) → st = 2 → s.flag R.ADR_CFG_CAP_EN n = true →
          let wr := s.get R.ADR_RING_WR n
          let a := s.adrSlot n wr
          let sub := fun (w : Word) => if s.flag R.ADR_CFG_PACK n then leBytes 4 (w.toNat / 256 * 256 + w.toNat % 16) else leBytes 3 (w.toNat / 256)
          s.adrHeld n < 2 ^ s.get R.ADR_RING_CFG_SIZE_LOG2 n → inSram a (s.adrBytes n) = true → s.hung (targetOf a) = false → Completes (.adrInputFrame n f) s fun t =>
            t.bytes a (s.adrBytes n) = sub f.a ++ sub f.b ∧ t.get R.ADR_RING_WR n = (wr + 1) % 2 ^ 32 ∧ t.get R.ADR_PSTAT_IN_STATE n = 2 ∧ (t.adrPort n).missing = 0
            ∧ (t.adrPort n).frames = x.frames + 1 ∧ others t)
        ∧ (∀ lc, x.on = true → x.input = true → clean → s.adrRateOk n lc = true → f.preamble = some (true, lc) → st = 1 → x.frames = 192 → x.clean = true → 1 ≤ x.good → s.flag R.ADR_CFG_CAP_EN n = false →
          Completes (.adrInputFrame n f) s fun t => t.get R.ADR_PSTAT_IN_STATE n = 2 ∧ (t.adrPort n).frames = 1 ∧ (t.adrPort n).good = x.good + 1 ∧ (t.adrPort n).lastLc = lc
            ∧ (t.adrPort n).first = some (x.first.getD lc) ∧ others t ∧ t.mem = s.mem)
        ∧ (∀ lc, x.on = true → x.input = true → clean → s.adrRateOk n lc = false → f.preamble = some (true, lc) → st = 2 → Completes (.adrInputFrame n f) s fun t =>
          t.get R.ADR_PSTAT_IN_STATE n = 3 ∧ (t.get R.ADR_EVT).testBit (8 + n.val) = true ∧ (t.adrPort n).good = 0 ∧ others t))
    ∧ (let st := s.get R.ADR_PSTAT_IN_STATE n
       (x.on = true → x.input = true → 4 ≤ x.missing → Completes (.adrInputLoss n) s fun t => t.get R.ADR_PSTAT_IN_STATE n = 0 ∧ t.adrPort n = { x with good := 0, clean := false, startLc := none }
          ∧ (st = 2 → (t.get R.ADR_EVT).testBit (8 + n.val) = true) ∧ others t)
       ∧ (x.on = false ∨ x.input = false ∨ x.missing < 4 → exec (.adrInputLoss n) s = .next s)
       ∧ (x.on = true → x.input = true → st = 2 → x.recSec ≠ some s.rtSec → s.knl.inlet.length < 64 → ∃ b : List Byte, b.length = 32 ∧ leAt b 0 12 = ((x.first.map (·.toNat)).getD 0) ∧ leAt b 24 4 = x.count % 2 ^ 32
          ∧ leAt b 28 1 = n.val ∧ leAt b 30 2 = x.seq % 65536 ∧ Completes (.adrSecondRecord n) s fun t => t.knl.inlet = s.knl.inlet ++ [{ typ := 6, lc := s.time.lc, bytes := b }]
            ∧ t.adrPort n = { x with first := none, count := 0, codeErr := false, recSec := some s.rtSec, seq := (x.seq + 1) % 65536 } ∧ others t)
       ∧ (x.on = false ∨ x.input = false ∨ st ≠ 2 ∨ x.recSec = some s.rtSec → exec (.adrSecondRecord n) s = .next s)))

/-- FETCH CHANNELS (R371 to R374, R376 to R379): a write of HEAD1 queues a chain, starts it, or is discarded with its event; a descriptor is checked in the order of R374 before any of its data
moves; data moves in ascending order by Max_Read_Request_Size and Max_Payload_Size, and the chain goes on, ends OK, or ends with LOOP; timeouts, errors and aborts end it; CLEAR and FLUSH leave HALTED. -/
def Obligations.FetchChannels : Prop :=
  ∀ (s : State) (c : Fin 16),
    let x := s.fchCh c
    let now := s.time.lc.toNat
    (∀ (m : Master) (v : Word), s.writes m (R.FCH_CH_HEAD.at c + 4) →
        let head := (s.heldWord (R.FCH_CH_HEAD.at c)).toNat + 2 ^ 32 * v.toNat
        (s.chState c = chDISABLED → Completes (.fchHeadWrite m c v) s fun t => (t.get R.FCH_CH_EVT c).testBit 3 = true ∧ t.fch = s.fch ∧ t.chState c = chDISABLED ∧ s.onlyCh t c)
        ∧ (s.chState c ≠ chDISABLED → 8 ≤ x.chains.length → s.mild fsFchDbellOvf → Completes (.fchHeadWrite m c v) s fun t =>
            (t.get R.FCH_CH_EVT c).testBit 2 = true ∧ t.fch = s.fch ∧ t.chState c = s.chState c ∧ s.counts t R.FLT_COUNT fsFchDbellOvf)
        ∧ (s.chState c ≠ chDISABLED → s.chState c ≠ chIDLE → x.chains.length < 8 → Completes (.fchHeadWrite m c v) s fun t => t.get R.FCH_CH_HEAD c = head
            ∧ t.fchCh c = { x with chains := x.chains ++ [head] } ∧ t.chState c = s.chState c ∧ t.get R.FCH_CH_STAT_QDEPTH c = x.chains.length + 1 ∧ s.onlyCh t c)
        ∧ (s.chState c = chIDLE → x.chains = [] →
            (head % 32 = 0 → Completes (.fchHeadWrite m c v) s fun t => t.chState c = chRUNNING ∧ t.fchCh c = { FchCh.reset with fetch := some head, readLc := now }
              ∧ t.get R.FCH_CH_STAT_QDEPTH c = 0 ∧ s.onlyCh t c)
            ∧ (head % 32 ≠ 0 → Completes (.fchHeadWrite m c v) s fun t => t.chState c = chHALTED ∧ s.chEnded t c fcALIGN 0 0 0 head ∧ (t.fchCh c).fetch = none ∧ s.onlyCh t c)))
    ∧ (∀ (fn : Nat) (d : List Byte),
        let crcBad := crc32c (d.take 28) ≠ leAt d 28 4
        let badDesc := leAt d 0x17 1 ≠ 0 ∨ bits (leAt d 0x18 4) 5 11 ≠ 0 ∨ (descBit d 1 = false ∧ descNext d % 32 ≠ 0)
        let closed := fchOpen fn (descBit d 0) (descChip d) (descLen d) = false
        let odd := inRegs (descChip d) (descLen d) = true ∧ (descChip d % 4 ≠ 0 ∨ descLen d % 4 ≠ 0)
        (crcBad → descFault fn d = some fcCRC) ∧ (¬crcBad → badDesc → descFault fn d = some fcBADDESC) ∧ (¬crcBad → ¬badDesc → closed → descFault fn d = some fcPERM)
          ∧ (¬crcBad → ¬badDesc → ¬closed → odd → descFault fn d = some fcALIGN) ∧ (¬crcBad → ¬badDesc → ¬closed → ¬odd → descFault fn d = none))
    ∧ (∀ a, x.fetch = some a → x.work = none → x.stop = none →
        (Completes (.fchDescriptorFetch c .error) s fun t => t.chState c = chHALTED ∧ s.chEnded t c fcHOSTERR x.tag x.done 0 a ∧ s.onlyCh t c)
        ∧ (∀ bytes,
            let d := padTo 32 bytes
            let w : FchWork := { addr := a, desc := d, moved := 0, crc := 0xFFFFFFFF }
            (∀ st, descFault (s.chFn c) d = some st → Completes (.fchDescriptorFetch c (.data bytes)) s fun t => t.chState c = chHALTED
              ∧ s.chEnded t c st (descTag d) x.done (descLen d) a ∧ t.mem = s.mem ∧ s.onlyCh t c)
            ∧ (descFault (s.chFn c) d = none → descLen d ≠ 0 → exec (.fchDescriptorFetch c (.data bytes)) s
                = .next (s.setFch c { x with fetch := none, work := some w, hops := x.hops + 1, readLc := now }))
            ∧ (descFault (s.chFn c) d = none → descLen d = 0 → descBit d 1 = true → x.chains = [] → Completes (.fchDescriptorFetch c (.data bytes)) s fun t =>
                t.chState c = chIDLE ∧ s.chEnded t c fcOK (descTag d) (x.done + 1) 0 a ∧ t.mem = s.mem ∧ s.onlyCh t c)))
    ∧ (∀ d, x.fetch = none → exec (.fchDescriptorFetch c d) s = .next s)
    ∧ (∀ d, x.work = none → exec (.fchDataCompletion c d) s = .next s)
    ∧ (∀ w, x.work = some w → x.stop = none → s.pwr.sramClear = true →
        let left := descLen w.desc - w.moved
        let a := descChip w.desc + w.moved
        let crc := fun (bs : List Byte) => bs.foldl (fun r b => crcSteps 0x82F63B78 8 (r ^^^ b.toNat)) w.crc
        let bytesUp := fun (t : State) (n : Nat) => t.get R.FCH_CH_BYTES c = (s.get R.FCH_CH_BYTES c + n) % 2 ^ 64
        (descBit w.desc 0 = false → Completes (.fchDataCompletion c .error) s fun t => t.chState c = chHALTED
            ∧ s.chEnded t c fcHOSTERR (descTag w.desc) x.done (descLen w.desc - w.moved) w.addr ∧ t.mem = s.mem)
        ∧ (∀ bytes, descBit w.desc 0 = false →
            let bs := bytes.take (Nat.min left (s.maxRead (s.chFn c)))
            let ends := fun (P : State → Prop) => Completes (.fchDataCompletion c (.data bytes)) s fun t => t.bytes a bs.length = bs
              ∧ (∀ b, b < a ∨ a + bs.length ≤ b → t.byte b = s.byte b) ∧ bytesUp t bs.length ∧ P t
            let whole := descLen w.desc ≤ w.moved + bs.length
            inSram a bs.length = true → s.hung (targetOf a) = false →
              (¬whole → ends fun t => t.fchCh c = { x with work := some { w with moved := w.moved + bs.length, crc := crc bs }, readLc := now } ∧ t.chState c = s.chState c)
              ∧ (whole → descBit w.desc 2 = true → ends fun t => (t.get R.FCH_CH_EVT c).testBit 4 = true)
              ∧ (whole → descBit w.desc 1 = true → x.chains = [] → ends fun t => t.chState c = chIDLE ∧ s.chEnded t c fcOK (descTag w.desc) (x.done + 1) 0 w.addr
                  ∧ t.get R.FCH_CH_DCRC c = (if descBit w.desc 4 then (crc bs ^^^ 0xFFFFFFFF) % 2 ^ 32 else 0))
              ∧ (whole → descBit w.desc 1 = false → s.get R.FCH_CH_HOP_MAX c ≤ x.hops → ends fun t => t.chState c = chHALTED
                  ∧ s.chEnded t c fcLOOP (descTag w.desc) (x.done + 1) 0 (descNext w.desc))
              ∧ (whole → descBit w.desc 1 = false → x.hops < s.get R.FCH_CH_HOP_MAX c → ends fun t => t.chState c = s.chState c
                  ∧ t.fchCh c = { x with done := x.done + 1, tag := descTag w.desc, fetch := some (descNext w.desc), work := none, readLc := now }))
        ∧ (∀ bytes, descBit w.desc 0 = true →
            let max := s.maxPayload (s.chFn c)
            let n := Nat.min left (Nat.min max (if bytes.isEmpty then max else bytes.length))
            s.sramOk a n = true → w.moved + n < descLen w.desc → Completes (.fchDataCompletion c (.data bytes)) s fun t =>
              t.fch.tlp = some { addr := descHost w.desc + w.moved, bytes := s.bytes a n, ro := s.relaxed (s.chFn c), ns := descBit w.desc 3 } ∧ t.mem = s.mem ∧ bytesUp t n
              ∧ t.fchCh c = { x with work := some { w with moved := w.moved + n, crc := crc (s.bytes a n) }, readLc := now } ∧ t.chState c = s.chState c))
    ∧ (s.chReads c = true → x.stop = none → s.past x.readLc (s.get R.HST_CPL_TMO) 1000000 = true → Completes (.fchCplTimeout c) s fun t => t.chState c = chHALTED ∧ t.get R.FCH_CH_STAT_LAST_STATUS c = fcNORESP
        ∧ t.get R.FCH_CH_CUR c = (match x.work with | some w => w.addr | none => x.fetch.getD 0) % 2 ^ 64 ∧ (t.fchCh c).work = none ∧ (t.fchCh c).fetch = none ∧ t.mem = s.mem
        ∧ s.onlyCh t c)
    ∧ (s.chReads c = false ∨ s.past x.readLc (s.get R.HST_CPL_TMO) 1000000 = false → exec (.fchCplTimeout c) s = .next s)
    ∧ (∀ m : Master, s.writes m (R.FCH_CH_CTRL_ABORT.at c) →
        (s.chState c ≠ chRUNNING → Completes (.fchAbort m c) s fun t => t.fch = s.fch ∧ t.chState c = s.chState c ∧ s.onlyCh t c)
        ∧ (s.chState c = chRUNNING → s.chReads c = true → Completes (.fchAbort m c) s fun t => t.fchCh c = { x with stop := some fcABORTED } ∧ t.chState c = chRUNNING ∧ s.onlyCh t c)
        ∧ (s.chState c = chRUNNING → s.chReads c = false → Completes (.fchAbort m c) s fun t => t.chState c = chHALTED ∧ t.get R.FCH_CH_STAT_LAST_STATUS c = fcABORTED
            ∧ (t.fchCh c).work = none ∧ (t.fchCh c).chains = x.chains ∧ s.onlyCh t c)
        ∧ (s.chState c = chHALTED →
            (x.chains = [] → Completes (.fchClear m c) s fun t => t.chState c = chIDLE ∧ s.onlyCh t c)
            ∧ (∀ h r, x.chains = h :: r → h % 32 = 0 → Completes (.fchClear m c) s fun t => t.chState c = chRUNNING
                ∧ t.fchCh c = { FchCh.reset with chains := r, fetch := some h, readLc := now } ∧ s.onlyCh t c)
            ∧ Completes (.fchFlush m c) s fun t => t.chState c = chIDLE ∧ t.fchCh c = FchCh.reset ∧ t.get R.FCH_CH_STAT_QDEPTH c = 0 ∧ s.onlyCh t c)
        ∧ (s.chState c ≠ chHALTED → (Completes (.fchClear m c) s fun t => t.fch = s.fch ∧ t.chState c = s.chState c) ∧ Completes (.fchFlush m c) s fun t =>
            t.fch = s.fch ∧ t.chState c = s.chState c))

/-- THE HOST INTERFACE (R365, R366, R371, R379 to R381): BAR4 is shared SRAM; an FLR or a cleared Bus Master Enable disables the channels of a function and holds its messages; enabling
starts them; a reset of the link is a Block reset of HOST that keeps memory and engines; a message goes or waits in the PBA; pending bits clear and set again. -/
def Obligations.HostInterface : Prop :=
  (∀ (s : State) (f : Fin 4) (off len : Nat), s.answers (.pf f) = true → f.val < 2 →
      (off + len ≤ 0x400000 → s.pwr.sramClear = true → s.badAt (0x10000000 + off) len = false → s.softs (0x10000000 + off) len = 0 →
        exec (.bar4Access f off len none) s = .next { s with answer := .bytes (s.bytes (0x10000000 + off) len) })
      ∧ (off + len ≤ 0x400000 → s.pwr.sramClear = true → s.badAt (0x10000000 + off) len = false → s.softs (0x10000000 + off) len ≠ 0 → s.mild fsSramEccCorr →
        Completes (.bar4Access f off len none) s fun t => t.answer = .bytes (s.bytes (0x10000000 + off) len) ∧ s.counts t R.FLT_COUNT fsSramEccCorr ∧ t.mem = s.mem)
      ∧ (0x400000 < off + len → exec (.bar4Access f off len none) s = .next { s with answer := .error })
      ∧ (∀ bs, (off + bs.length ≤ 0x400000 → s.pwr.sramClear = true → Completes (.bar4Access f off len (some bs)) s fun t => t.bytes (0x10000000 + off) bs.length = bs
          ∧ (∀ a, a < 0x10000000 + off ∨ 0x10000000 + off + bs.length ≤ a → t.byte a = s.byte a) ∧ t.regs = s.regs ∧ t.eng = s.eng ∧ t.fch = s.fch)
        ∧ (0x400000 < off + bs.length → exec (.bar4Access f off len (some bs)) s = .next { s with answer := .error })))
  ∧ (∀ (s : State) (f : Fin 4) (off len : Nat) w, s.answers (.pf f) = false ∨ 2 ≤ f.val → exec (.bar4Access f off len w) s = .next { s with answer := .error })
  ∧ (∀ s : State, Completes .unexpectedCompletion s fun t => s.counts t R.HST_CNT_UNEXP_CPL ∧ (t.get R.HST_EVT).testBit 6 = true ∧ { t with regs := s.regs, hst := s.hst } = s)
  ∧ (∀ (s : State) (f : Fin 4) (memEn : Bool),
      let only := fun (t : State) => { t with regs := s.regs, hst := s.hst, fch := s.fch } = s ∧ t.fch.tlp = s.fch.tlp
      let stops := fun (t : State) => t.fnOn f = false ∧ only t
        ∧ (∀ c, s.chFn c = f.val → t.chState c = chDISABLED ∧ (s.chState c ≠ chDISABLED → s.chReads c = false → t.fchCh c = FchCh.reset)
          ∧ (s.chState c = chRUNNING → s.chReads c = true → t.fchCh c = { s.fchCh c with stop := some fcDISABLED })
          ∧ (s.chState c = chRUNNING → s.chReads c = false → t.get R.FCH_CH_STAT_LAST_STATUS c = fcDISABLED))
        ∧ ∀ c, s.chFn c ≠ f.val → t.fchCh c = s.fchCh c ∧ t.chState c = s.chState c
      (Completes (.functionLevelReset f) s fun t => stops t ∧ t.flrOn f = true ∧ (∀ v, vecFn v.val = f.val → v ∉ t.hst.msgs ∧ t.hst.pba.getLsbD v.val = false))
      ∧ (Completes (.bmeClear f memEn) s fun t => stops t ∧ (∀ v, vecFn v.val = f.val → v ∉ t.hst.msgs ∧ (v ∈ s.hst.msgs → t.hst.pba.getLsbD v.val = true))
          ∧ ∀ c, t.get R.FCH_CH_CFG_FN c = s.get R.FCH_CH_CFG_FN c ∧ t.flag R.FCH_CH_CFG_ENABLE c = s.flag R.FCH_CH_CFG_ENABLE c)
      ∧ (s.flrOn f = true → Completes (.flrComplete f) s fun t => t.flrOn f = false ∧ (t.get R.HST_EVT).testBit f.val = true ∧ only t ∧ t.fch = s.fch)
      ∧ (s.flrOn f = false → exec (.flrComplete f) s = .next s)
      ∧ (∀ ctl speed width, (s.flrOn f = true → exec (.busMasterEnableSet f memEn ctl speed width) s = .next s)
        ∧ (s.flrOn f = false → Completes (.busMasterEnableSet f memEn ctl speed width) s fun t => t.fnOn f = true ∧ t.hst.devCtl[f] = ctl ∧ t.get R.HST_LINK_SPEED = speed.toNat
          ∧ t.get R.HST_LINK_WIDTH = width.toNat ∧ { t with regs := s.regs, hst := s.hst, fch := s.fch } = s
          ∧ (∀ c, s.chFn c = f.val → s.flag R.FCH_CH_CFG_ENABLE c = true → s.chState c = chDISABLED → (s.fchCh c).stop = none → (s.fchCh c).chains = [] → t.chState c = chIDLE)
          ∧ (∀ v, vecFn v.val = f.val → s.hst.pba.getLsbD v.val = true → t.msgMay v = true → v ∈ t.hst.msgs ∧ t.hst.pba.getLsbD v.val = false))))
  ∧ (∀ s : State, Completes .hostLinkReset s fun t => t.hst = HstSt.reset ∧ t.fch = FchSt.reset ∧ (∀ c, t.chState c = chDISABLED) ∧ t.mem = s.mem ∧ t.eng = s.eng
      ∧ ∀ n, t.get R.ENG_DBELL_PEND n = s.get R.ENG_DBELL_PEND n)
  ∧ (∀ (s : State) (v : Fin 64),
      let lc := s.time.lc.toNat
      let bit := BitVec.ofNat 64 (2 ^ v.val)
      (v ∈ s.hst.msgs → s.msgMay v = true → exec (.msixSend v) s = .next { s with hst := { s.hst with msgs := s.hst.msgs.erase v, last := s.hst.last.set v (some lc) } })
      ∧ (v ∈ s.hst.msgs → s.msgMay v = false → exec (.msixSend v) s = .next { s with hst := { s.hst with msgs := s.hst.msgs.erase v, pba := s.hst.pba ||| bit } })
      ∧ (v ∉ s.hst.msgs → s.hst.pba.getLsbD v.val = true → s.msgMay v = true →
          exec (.msixSend v) s = .next { s with hst := { s.hst with pba := s.hst.pba &&& ~~~bit, last := s.hst.last.set v (some lc) } })
      ∧ (v ∉ s.hst.msgs → s.hst.pba.getLsbD v.val = false ∨ s.msgMay v = false → exec (.msixSend v) s = .next s))
  ∧ (∀ (s : State) (m : Master) (w : Fin 2) (v : Word), s.writes m (R.HST_IRQ_PEND.at 0 + 4 * w.val) → Completes (.irqPendClear m w v) s fun t =>
      (∀ k, k < 64 → (t.get R.HST_IRQ_PEND).testBit k = ((s.get R.HST_IRQ_PEND).testBit k && (!(v.toNat * 2 ^ (32 * w.val)).testBit k || s.srcHolds k)))
        ∧ { t with regs := s.regs, hst := s.hst, answer := s.answer } = s ∧ t.hst.last = s.hst.last)
  ∧ (∀ (s : State) (m : Master) (v : Word), s.writes m (R.HST_H_DBELL.at 0) → Completes (.hstHDbellWrite m v) s fun t =>
      t.get R.HST_H_DBELL_PEND = s.get R.HST_H_DBELL_PEND ||| v.toNat ∧ (s.get R.HST_H_DBELL_PEND = 0 → v ≠ 0 → (t.get R.HST_IRQ_PEND).testBit 33 = true)
        ∧ { t with regs := s.regs, hst := s.hst, answer := s.answer } = s)

/-- CRYSTALS, SYSPLL AND SELECTORS (R395 to R402): a window that passes makes XTAL ready; one that fails, or a lost amplitude, loses it with its fault and moves a root that ran from it; SYSPLL
locks, coasts and ramps back; a selector takes a request only when it is idle and the source is ready, and completes it. KPLL (R31, R404 to R406): the source is the ready oscillator of lowest PREF, XTAL when none is ready; a switch or a hold leaves the time as it is and is counted; the first lock starts LC at 0. -/
def Obligations.ClocksAndKpll : Prop :=
  (∀ (s : State),
    let rdy := s.flag R.CLK_STAT_XTAL_RDY
    let lost := fun (t : State) => t.flag R.CLK_STAT_XTAL_RDY = false ∧ t.flag R.CLK_STAT_XTAL_LOST = true ∧ (t.get R.CLK_EVT).testBit 0 = true ∧ t.active fsXtalLost = true
      ∧ (s.get R.CLK_STAT_ROOT_SRC = 0 → t.get R.CLK_ROOT_SEL = 1 ∧ t.pwr.rootSw = some 1 ∧ t.flag R.CLK_STAT_SW_BUSY = true) ∧ t.time = s.time ∧ t.mem = s.mem
    (∀ count amp,
        let shows := fun (t : State) => t.get R.CLK_XTAL_STAT_AMP = amp.toNat ∧ ((s.windowErr count).natAbs < 32768 → t.get R.CLK_XTAL_STAT_FREQ_ERR = trunc 16 (s.windowErr count))
        (s.powered = true → rdy = false → Completes (.xtalReady count amp) s fun t => shows t ∧ t.flag R.CLK_STAT_XTAL_RDY = (s.windowOk count && decide (60 < amp.toNat))
          ∧ t.pwr = (if s.windowOk count ∧ 60 < amp.toNat then { s.pwr with rampFrom := s.time.lc.toNat } else s.pwr) ∧ t.mem = s.mem ∧ t.time = s.time)
        ∧ (s.powered = false ∨ rdy = true → exec (.xtalReady count amp) s = .next s)
        ∧ (s.powered = true → s.windowOk count = true ∨ rdy = false → Completes (.xtalFreqWindow count amp) s fun t => shows t ∧ t.flag R.CLK_STAT_XTAL_RDY = rdy ∧ t.pwr = s.pwr ∧ t.mem = s.mem)
        ∧ (s.powered = true → s.windowOk count = false → rdy = true → s.mild fsXtalLost → Completes (.xtalFreqWindow count amp) s fun t => shows t ∧ lost t)
        ∧ (s.powered = false → exec (.xtalFreqWindow count amp) s = .next s ∧ exec (.xtalLoss amp) s = .next s))
    ∧ (∀ amp : Byte, (s.powered = true → rdy = true → amp.toNat < 30 → s.mild fsXtalLost → Completes (.xtalLoss amp) s fun t => t.get R.CLK_XTAL_STAT_AMP = amp.toNat ∧ lost t)
        ∧ (s.powered = true → rdy = false ∨ 30 ≤ amp.toNat → Completes (.xtalLoss amp) s fun t => t.get R.CLK_XTAL_STAT_AMP = amp.toNat ∧ t.flag R.CLK_STAT_XTAL_RDY = rdy ∧ t.pwr = s.pwr))
    ∧ (s.powered = true → s.flag R.CLK_STAT_AON_XTAL_RDY = false → Completes .aonXtalReady s fun t => t.flag R.CLK_STAT_AON_XTAL_RDY = true ∧ t.pwr.aonSw = some 1
        ∧ t.flag R.CLK_STAT_SW_BUSY = true ∧ t.active fsAonXtalLost = false ∧ t.time = s.time)
    ∧ (s.powered = true → s.flag R.CLK_STAT_AON_XTAL_RDY = true → s.mild fsAonXtalLost → Completes .aonXtalLoss s fun t => t.flag R.CLK_STAT_AON_XTAL_RDY = false ∧ t.pwr.aonSw = some 0
        ∧ t.flag R.CLK_STAT_SW_BUSY = true ∧ (t.get R.CLK_EVT).testBit 5 = true ∧ t.active fsAonXtalLost = true ∧ t.time = s.time)
    ∧ (s.powered = false ∨ s.flag R.CLK_STAT_AON_XTAL_RDY = true → exec .aonXtalReady s = .next s)
    ∧ (s.powered = false ∨ s.flag R.CLK_STAT_AON_XTAL_RDY = false → exec .aonXtalLoss s = .next s)
    ∧ (∀ (band : BitVec 6) (vtune : Byte) (unlock : Bool),
        let lock := s.flag R.CLK_STAT_SYSPLL_LOCK
        let coast := s.flag R.CLK_STAT_SYSPLL_COAST
        let shows := fun (t : State) => t.get R.CLK_SYSPLL_STAT_BAND = band.toNat ∧ t.get R.CLK_SYSPLL_STAT_VTUNE = vtune.toNat
        (rdy = true → lock = false → coast = false → Completes (.syspllLock band vtune) s fun t => t.flag R.CLK_STAT_SYSPLL_LOCK = true ∧ shows t
          ∧ (s.get R.CLK_STAT_ROOT_SRC = 0 → s.pwr.rootSw = none → t.get R.CLK_ROOT_SEL = 1 ∧ t.pwr.rootSw = some 1) ∧ t.get R.CLK_STAT_ROOT_SRC = s.get R.CLK_STAT_ROOT_SRC ∧ t.time = s.time)
        ∧ (rdy = false ∨ lock = true ∨ coast = true → exec (.syspllLock band vtune) s = .next s)
        ∧ (coast = false → s.flag R.CLK_STAT_XTAL_LOST = true ∨ (unlock = true ∧ rdy = true ∧ lock = true) → rdy = false ∨ s.mild fsSyspllUnlock →
            Completes (.syspllCoast unlock vtune) s fun t => t.flag R.CLK_STAT_SYSPLL_COAST = true ∧ t.flag R.CLK_STAT_SYSPLL_LOCK = false ∧ s.counts t R.CLK_SYSPLL_STAT_UNLOCKS
              ∧ t.get R.CLK_SYSPLL_STAT_BAND = 0 ∧ t.get R.CLK_SYSPLL_STAT_VTUNE = vtune.toNat ∧ (rdy = true → (t.get R.CLK_EVT).testBit 2 = true ∧ t.active fsSyspllUnlock = true)
              ∧ t.pwr = { s.pwr with rampFrom := s.time.lc.toNat } ∧ t.time = s.time)
        ∧ (coast = true ∨ (s.flag R.CLK_STAT_XTAL_LOST = false ∧ (unlock = false ∨ rdy = false ∨ lock = false)) → exec (.syspllCoast unlock vtune) s = .next s)
        ∧ (coast = true → rdy = true → s.past s.pwr.rampFrom 1 1000 = true → Completes (.syspllRampDone band vtune) s fun t => t.flag R.CLK_STAT_SYSPLL_COAST = false ∧ t.flag R.CLK_STAT_XTAL_LOST = false
            ∧ t.flag R.CLK_STAT_SYSPLL_LOCK = true ∧ shows t ∧ (t.get R.CLK_EVT).testBit 1 = true ∧ t.active fsXtalLost = false ∧ t.active fsSyspllUnlock = false ∧ t.pwr = s.pwr)
        ∧ (coast = false ∨ rdy = false ∨ s.past s.pwr.rampFrom 1 1000 = false → exec (.syspllRampDone band vtune) s = .next s))
    ∧ (∀ (m : Master) (v : Word), s.writes m (R.CLK_ROOT_SEL.at 0) →
        let want := v.toNat % 2
        let ready := if want = 0 then rdy else s.flag R.CLK_STAT_SYSPLL_LOCK || s.flag R.CLK_STAT_SYSPLL_COAST
        (s.pwr.rootSw ≠ none ∨ ready = false → Completes (.clkRootSelWrite m v) s fun t => (t.get R.CLK_EVT).testBit 3 = true ∧ t.pwr = s.pwr ∧ t.get R.CLK_ROOT_SEL = s.get R.CLK_ROOT_SEL)
        ∧ (s.pwr.rootSw = none → ready = true → want = s.get R.CLK_STAT_ROOT_SRC → Completes (.clkRootSelWrite m v) s fun t => t.pwr = s.pwr ∧ t.regs = s.regs)
        ∧ (s.pwr.rootSw = none → ready = true → want ≠ s.get R.CLK_STAT_ROOT_SRC → Completes (.clkRootSelWrite m v) s fun t => t.pwr = { s.pwr with rootSw := some want }
            ∧ t.get R.CLK_ROOT_SEL = want ∧ t.flag R.CLK_STAT_SW_BUSY = true ∧ t.get R.CLK_STAT_ROOT_SRC = s.get R.CLK_STAT_ROOT_SRC ∧ t.mem = s.mem ∧ t.time = s.time))
    ∧ (∀ src : Nat,
        (s.pwr.rootSw = some src → Completes (.clkSwitchComplete false) s fun t => t.get R.CLK_STAT_ROOT_SRC = src % 2 ^ R.CLK_STAT_ROOT_SRC.width ∧ t.pwr = { s.pwr with rootSw := none }
          ∧ t.flag R.CLK_STAT_SW_BUSY = s.pwr.aonSw.isSome ∧ (s.oldStopped false = true → (t.get R.CLK_EVT).testBit 4 = true) ∧ t.mem = s.mem ∧ t.time = s.time)
        ∧ (s.pwr.aonSw = some src → Completes (.clkSwitchComplete true) s fun t => t.get R.CLK_STAT_AON_SRC = src % 2 ^ R.CLK_STAT_AON_SRC.width ∧ t.pwr = { s.pwr with aonSw := none }
          ∧ t.flag R.CLK_STAT_SW_BUSY = s.pwr.rootSw.isSome ∧ (s.oldStopped true = true → (t.get R.CLK_EVT).testBit 4 = true) ∧ t.mem = s.mem ∧ t.time = s.time)))
  ∧ (∀ (s : State) (edges : BitVec 4),
    let e := s.kpllEdges edges
    let cur := s.get R.CLK_STAT_KPLL_SRC
    let lock := s.flag R.CLK_STAT_KPLL_LOCK
    let hold := s.flag R.CLK_STAT_KPLL_HOLD
    let on := fun (t : State) (k : Nat) => t.get R.CLK_STAT_KPLL_SRC = k ∧ (∀ i, i < 4 → t.flag R.OSC_STATE_TICK_SRC i = (i == k)) ∧ t.pwr = e.pwr
    let moved := fun (t : State) (k : Nat) => on t k ∧ s.counts t R.CLK_KPLL_CNT_SWITCHES ∧ (t.get R.CLK_EVT).testBit 6 = true ∧ t.time = s.time ∧ t.mem = s.mem
    (∀ k, s.kpllBest = some k → s.kpllReady k = true ∧ (k < 4 → ∀ j, j < 4 → s.kpllReady j = true → s.kpllPref k ≤ s.kpllPref j ∧ (s.kpllPref j = s.kpllPref k → k ≤ j))
        ∧ (4 ≤ k → k = 4 ∧ ∀ j, j < 4 → s.kpllReady j = false))
    ∧ (s.kpllBest = none → ∀ j, j < 5 → s.kpllReady j = false)
    ∧ (lock = true → cur ≠ 7 → e.kpllReady cur = false →
        (∀ k, e.kpllBest = some k → Completes (.kpllSourceLoss edges) s fun t => moved t k)
        ∧ (e.kpllBest = none → hold = false → s.mild fsKpllHold → Completes (.kpllSourceLoss edges) s fun t => on t 7 ∧ t.flag R.CLK_STAT_KPLL_HOLD = true ∧ s.counts t R.CLK_KPLL_CNT_HOLDS
            ∧ (t.get R.CLK_EVT).testBit 7 = true ∧ t.active fsKpllHold = true ∧ t.time = s.time ∧ t.mem = s.mem))
    ∧ (lock = false ∨ cur = 7 ∨ e.kpllReady cur = true → exec (.kpllSourceLoss edges) s = .next e)
    ∧ (∀ k : Fin 4,
        let better := e.kpllReady k = true ∧ s.oscState k = 2 ∧ 60 ≤ (s.refs.osc[(⟨k.val, by omega⟩ : Fin 5)]).memberFor ∧ s.kpllPref k < s.kpllPref cur
        (lock = true → cur ≠ 7 → better → Completes (.kpllBetterSource edges k) s fun t => moved t k)
        ∧ (lock = false ∨ cur = 7 ∨ ¬better → exec (.kpllBetterSource edges k) s = .next e))
    ∧ (∀ k, hold = true → e.kpllBest = some k → Completes (.kpllHoldExit edges) s fun t => moved t k ∧ t.flag R.CLK_STAT_KPLL_HOLD = false ∧ t.active fsKpllHold = false)
    ∧ (hold = false ∨ e.kpllBest = none → exec (.kpllHoldExit edges) s = .next e)
    ∧ (∀ k, e.kpllBest = some k → lock = false → s.pwr.power = .on → s.aon.vrst = false → Completes (.kpllFirstLock edges) s fun t => on t k ∧ t.flag R.CLK_STAT_KPLL_LOCK = true
        ∧ (t.get R.CLK_EVT).testBit 8 = true ∧ t.time = { s.time with running := true, lc := 0, frac := 0 } ∧ t.mem = s.mem)
    ∧ (e.kpllBest = none ∨ lock = true ∨ s.pwr.power ≠ .on ∨ s.aon.vrst = true → exec (.kpllFirstLock edges) s = .next e))

/-- GATED UNITS AND DOZE (R407 to R414): GATE, UNGATE, FORCE and BLOCK_RESET end with the outcome of R418; a quiesce ends done or with GATE_BUSY; stable clocks end the gating and let the
writes that waited go; DOZE_EN moves RUN and DOZE; AON gates and tries again. Every crossing is checked against its limits. -/
def Obligations.GatedUnitsAndCrossings : Prop :=
  (∀ (s : State) (m : Master) (u : Fin 11), s.writes m (R.PWR_GATE_CMD_UNIT.at 0) →
      let ends := fun (c : Instr) (code : Nat) => Completes c s fun t => t.get R.PWR_GATE_STAT_LAST = code ∧ t.pwr = s.pwr ∧ t.gated u = s.gated u ∧ t.needsReset u = s.needsReset u
        ∧ t.mem = s.mem ∧ t.time = s.time
      (s.gateInProg u = true → ends (.pwrGate m u) gCmdRefused ∧ ends (.pwrUngate m u) gCmdRefused ∧ ends (.pwrForce m u) gCmdRefused ∧ ends (.unitBlockReset m u) gCmdRefused)
      ∧ (s.gateInProg u = false →
          (s.gated u = true → ends (.pwrGate m u) gDone)
          ∧ (s.gated u = false → s.gateCond u = false → ends (.pwrGate m u) gRefused)
          ∧ (s.gated u = false → s.gateCond u = true → Completes (.pwrGate m u) s fun t => t.pwr = { s.pwr with quiesce := s.pwr.quiesce ++ [(u.val, false, s.time.lc.toNat)] }
              ∧ t.flag R.PWR_GATE_STAT_BUSY = true ∧ t.gated u = false ∧ t.mem = s.mem)
          ∧ (s.needsReset u = true → ends (.pwrUngate m u) gUngateRefused)
          ∧ (s.needsReset u = false → s.gated u = false → ends (.pwrUngate m u) gDone)
          ∧ (s.needsReset u = false → s.gated u = true → Completes (.pwrUngate m u) s fun t => t.pwr = { s.pwr with ungating := s.pwr.ungating ++ [u.val], auto := s.pwr.auto.filter (· != u.val) }
              ∧ t.flag R.PWR_GATE_STAT_BUSY = true ∧ t.gated u = true ∧ t.mem = s.mem)
          ∧ (let forced := fun (P : State → Prop) => Completes (.pwrForce m u) s fun t => t.gated u = true ∧ t.needsReset u = true ∧ s.counts t R.PWR_GATE_CNT_GATES
               ∧ t.get R.PWR_GATE_STAT_LAST = gDone ∧ t.mem = s.mem ∧ P t
             let cut := fun (n : Nat) => s.mtx.reqs.any (fun r => r.master.val == n) || s.mtx.resps.any (fun r => r.master.val == n && !r.dead)
             (u.val = 8 → s.flag R.GNS_STAT_BURST_ACTIVE = true → forced fun t => t.flag R.GNS_STAT_BURST_ACTIVE = false ∧ s.counts t R.GNS_CNT_BURSTS_DISCARDED)
             ∧ (u.val = 8 → s.flag R.GNS_STAT_BURST_ACTIVE = false → forced fun t => t.pwr = s.pwr ∧ t.gns = s.gns)
             ∧ (unitMaster u.val = none → u.val ≠ 8 → forced fun t => t.pwr = s.pwr ∧ t.mtx = s.mtx)
             ∧ (∀ n, unitMaster u.val = some n → cut n = false → forced fun t => t.pwr = s.pwr ∧ t.get R.FLT_COUNT fsMtxTimeout = s.get R.FLT_COUNT fsMtxTimeout)
             ∧ (∀ n, unitMaster u.val = some n → cut n = true → ∃ v : State, s.counts v R.MTX_CNT_TMO_TIMEOUTS ∧ (v.get R.MTX_EVT).testBit 1 = true ∧ v.mem = s.mem ∧
                 let w := v.raise fsMtxTimeout
                 exec (.pwrForce m u) s = .next (((((State.raiseBit { w with mtx := w.mtx.cut (· == n) } R.PWR_GATE_STAT_GATED 0 u).raiseBit R.PWR_GATE_STAT_NEEDS_RESET 0 u).bump
                   R.PWR_GATE_CNT_GATES).gateLast gDone).irqFollow s.quiet))
             ∧ (∀ n, unitMaster u.val = some n → cut n = true → s.mild fsMtxTimeout → forced fun t => s.counts t R.FLT_COUNT fsMtxTimeout
                 ∧ s.counts t R.MTX_CNT_TMO_TIMEOUTS ∧ (t.get R.MTX_EVT).testBit 1 = true ∧ t.mtx = s.mtx.cut (· == n)))
          ∧ (Completes (.unitBlockReset m u) s fun t => t.gated u = s.gated u ∧ t.needsReset u = false ∧ t.get R.PWR_GATE_STAT_LAST = gDone ∧ t.time = s.time ∧ t.mem = s.mem
              ∧ (u.val < 8 → ∀ i, i < 8 → t.get R.PRT_STAT_LINK_STATE (8 * u.val + i) = 0) ∧ (u.val = 8 → t.gns = GnsSt.reset) ∧ (u.val = 9 → t.adr = AdrSt.reset)
              ∧ (u.val = 10 → t.pck = PckSt.reset ∧ t.brc = BrcSt.reset))))
  ∧ (∀ (s : State) (u : Fin 11),
      (∀ q, s.pwr.quiesce.find? (fun q => q.1 == u.val) = some q →
          let left := s.pwr.quiesce.filter fun q => q.1 != u.val
          let late := s.time.running && decide (s.matrixCycles q.2.2 > s.get R.PWR_QUIESCE_TMO)
          (late = false → Completes (.quiesceEnd u true) s fun t => t.gated u = true ∧ s.counts t R.PWR_GATE_CNT_GATES ∧ t.get R.PWR_GATE_STAT_LAST = gDone
            ∧ t.pwr = { s.pwr with quiesce := left, auto := if q.2.1 then s.pwr.auto ++ [u.val] else s.pwr.auto } ∧ t.mem = s.mem)
          ∧ (late = false → s.time.running = true → exec (.quiesceEnd u false) s = .next s)
          ∧ (∀ all, late = true ∨ (all = false ∧ s.time.running = false) → s.mild fsGateBusy → Completes (.quiesceEnd u all) s fun t => t.gated u = s.gated u ∧ s.counts t R.PWR_GATE_CNT_BUSY_CNT ∧ t.get R.PWR_GATE_STAT_LAST = gBusy
            ∧ t.pwr = { s.pwr with quiesce := left, retry := if q.2.1 then s.pwr.retry ++ [(u.val, s.time.lc.toNat)] else s.pwr.retry } ∧ t.mem = s.mem ∧ s.counts t R.FLT_COUNT fsGateBusy))
      ∧ (∀ ok, s.pwr.quiesce.find? (fun q => q.1 == u.val) = none → exec (.quiesceEnd u ok) s = .next s)
      ∧ (s.pwr.ungating.any (· == u.val) = true → ∃ v : State, v.gated u = false ∧ v.get R.PWR_GATE_STAT_LAST = gDone ∧ v.mem = s.mem
          ∧ v.pwr = { s.pwr with ungating := s.pwr.ungating.filter (· != u.val), enables := s.pwr.enables.filter fun e => !(e.1 == u.val) }
          ∧ exec (.ungateClocksStable u) s = .next ((s.pwr.enables.filter fun e => e.1 == u.val).foldl (fun s e => s.valueWrite .hw e.2.1 e.2.2 0xFFFFFFFF) v))
      ∧ (s.pwr.ungating.any (· == u.val) = false → exec (.ungateClocksStable u) s = .next s)
      ∧ (∀ (m : Master) (v : Word), s.writes m (R.PWR_CTRL_DOZE_EN.at 0) → s.get R.PWR_STATE ≠ 2 → Completes (.dozeEnWrite m v) s fun t => t.get R.PWR_CTRL_DOZE_EN = v.toNat % 2
          ∧ t.get R.PWR_STATE = v.toNat % 2 ∧ t.mem = s.mem ∧ t.time = s.time
          ∧ (v.toNat % 2 = 1 → t.pwr = s.pwr)
          ∧ (v.toNat % 2 = 0 → t.pwr.retry = [] ∧ (u.val ∈ s.pwr.auto → s.gated u = true → s.needsReset u = false → s.gateInProg u = false → u.val ∈ t.pwr.ungating)))
      ∧ (let free := s.gateHeld u = true ∧ s.gated u = false ∧ s.gateInProg u = false
         let may := free ∧ s.pwr.retry.any (fun q => q.1 == u.val) = false
         let due := s.pwr.retry.any (fun q => q.1 == u.val && s.past q.2 1)
         let more := { s.pwr with quiesce := s.pwr.quiesce ++ [(u.val, true, s.time.lc.toNat)] }
         (s.get R.PWR_STATE = 1 → may → Completes (.dozeAutoGate ⟨u.val, by omega⟩) s fun t => t.pwr = more ∧ t.flag R.PWR_GATE_STAT_BUSY = true ∧ t.mem = s.mem)
         ∧ (s.get R.PWR_STATE ≠ 1 ∨ ¬may → exec (.dozeAutoGate ⟨u.val, by omega⟩) s = .next s)
         ∧ (due = true → s.get R.PWR_STATE = 1 → free → Completes (.dozeGateRetry u) s fun t =>
             t.pwr = { more with retry := s.pwr.retry.filter fun q => q.1 != u.val } ∧ t.mem = s.mem)
         ∧ (due = false → exec (.dozeGateRetry u) s = .next s)))
  ∧ (∀ (s : State) (n : Fin 12), s.get R.PWR_STATE = 1 →
      (s.engState n = stStopped → s.past (s.engine n).stopAt 10 1000 = true → Completes (.dozeAutoGate ⟨n.val + 11, by omega⟩) s fun t => t.engState n = stOff
        ∧ t.flag R.ENG_CTRL_GATE n = true ∧ t.eng = s.eng ∧ t.mem = s.mem ∧ t.pwr = s.pwr)
      ∧ (s.past (s.engine n).stopAt 10 1000 = false → exec (.dozeAutoGate ⟨n.val + 11, by omega⟩) s = .next s))
  ∧ (∀ (s : State) (temp : List Int) (vdd clk : List Nat),
      (s.pwr.power ≠ .on → exec (.crossingCheck temp vdd clk) s = .next s)
      ∧ (s.pwr.power = .on → ∃ w : State,
          (∀ r, r < 13 → w.get R.PWR_TEMP r = trunc 16 ((temp[r]?).getD 0) ∧ w.get R.PWR_VDD r = (vdd[r]?).getD 0 % 2 ^ R.PWR_VDD.width)
          ∧ (∀ c : Fin 11,
              let bad := (s.pwrSample temp vdd).crossCauses c 60 30 clk
              let near := (s.pwrSample temp vdd).crossCauses c 50 28 clk
              let now := s.time.lc.toNat
              (s.pwr.skew[c] = none → w.pwr.skew[c] = if bad = 0 then none else some (now, bad))
              ∧ (∀ n k, s.pwr.skew[c] = some (n, k) → w.pwr.skew[c] = if bad ≠ 0 ∨ near ≠ 0 then some (now, k ||| bad) else if n + 2 ^ 48 ≤ now then none else some (n, k))
              ∧ (3 ≤ c.val → s.gated (c.val - 3) = false → w.pwr.skew[c] ≠ s.pwr.skew[c] → w.flag R.PRT_PG_STAT_REGION_SKEW (c.val - 3) = (w.pwr.skew[c]).isSome))
          ∧ w.mem = s.mem ∧ w.time = s.time ∧ w.eng = s.eng ∧ exec (.crossingCheck temp vdd clk) s = .next w.syncSkew.degrSync))

/-- SAVE AND SURVIVAL (R415, R419 to R428): VIN below VWARN enters BURY and starts a save; a save captures, commits to the retention store and its KSPI slot, and lets the next one run; a
brownout survived leaves BURY and marks the Bone stale; a request for DEEP starts a save whose commit ends the state of every region but AON. -/
def Obligations.SaveAndSurvival : Prop :=
  ∀ (s : State),
    let starts := fun (t : State) (cause : Nat) => (s.aon.save = none → t.aon.save = some { cause := cause, bone := none } ∧ t.get R.AON_VIN_STAT_SAVE_STATE = 1)
      ∧ (s.aon.save ≠ none → t.aon.save = s.aon.save ∧ t.aon.next = s.aon.next ++ [cause])
    (∀ vin vhold,
        let mayWarn := s.pwr.power = .on ∧ s.get R.PWR_STATE ≤ 1 ∧ s.aon.vrst = false ∧ BitVec.toNat vin < 3000
        (mayWarn → 4500 ≤ vhold.toNat → Completes (.vinWarn vin vhold) s fun t => t.get R.PWR_STATE = 2 ∧ t.flag R.AON_VIN_STAT_BURY_ACTIVE = true
          ∧ (t.get R.AON_BURY_EVT).testBit 0 = true ∧ s.counts t R.AON_BURY_CNT_SAGS ∧ t.dbg = 0 ∧ t.get R.AON_VIN_STAT_VIN_MV = vin.toNat ∧ t.get R.AON_VHOLD = vhold.toNat
          ∧ t.flag R.AON_VIN_STAT_HOLD_RDY = true ∧ t.aon.sagAt = s.time.lc.toNat ∧ t.aon.from_ = s.get R.PWR_STATE ∧ starts t 0 ∧ t.time = s.time ∧ t.mem = s.mem)
        ∧ (mayWarn → vhold.toNat < 4500 → s.mild fsHoldLow → Completes (.vinWarn vin vhold) s fun t => t.get R.PWR_STATE = 2 ∧ (t.get R.AON_BURY_EVT).testBit 3 = true
          ∧ s.counts t R.FLT_COUNT fsHoldLow ∧ starts t 0 ∧ t.time = s.time)
        ∧ (¬mayWarn → exec (.vinWarn vin vhold) s = .next s)
        ∧ (s.pwr.power ≠ .on ∨ s.aon.vrst = true ∨ 2700 < vin.toNat → exec (.vinReset vin vhold) s = .next s)
        ∧ (s.pwr.power = .on → s.aon.vrst = false → vin.toNat ≤ 2700 → 2 ≤ s.get R.PWR_STATE ∨ 4500 ≤ vhold.toNat → Completes (.vinReset vin vhold) s fun t => t.aon.vrst = true ∧ t.aon.next = [] ∧ t.mem = []
          ∧ t.get R.PWR_RESET_CAUSE = 1 ∧ t.time = TimeSt.reset ∧ (∀ n : Fin 12, t.engine n = Engine.reset) ∧ t.kspi = s.kspi
          ∧ (∃ x b, t.aon.save = some x ∧ x.bone = some b ∧ x.cause = ((s.aon.save.map (·.cause)).getD (if s.get R.PWR_STATE ≤ 1 then 0 else 1))
              ∧ ((∀ y, s.aon.save = some y → y.bone = none) → b.cause = x.cause ∧ b.fresh = (x.cause != 3) ∧ b.rt = s.rt ∧ b.seq = (s.get R.AON_BONE_SEQ + 1) % 2 ^ 32))))
    ∧ (∀ x b, s.aon.save = some x → s.saveCapture.aon.save.bind (·.bone) = some b →
        (x.bone = none → b.cause = x.cause ∧ b.fresh = (x.cause != 3) ∧ b.rt = s.rt ∧ b.seq = (s.get R.AON_BONE_SEQ + 1) % 2 ^ 32 ∧ b.paramGen = s.get R.KNL_PARAM_GEN
          ∧ b.body = s.aon.body.getD s.boneBody)
        ∧ (∀ c, x.bone = some c → b = c)
        ∧ (s.aon.vrst = false → s.aon.deep = false →
            let kept := s.active fsBoneNoSlot = false ∧ s.aon.erased ≠ 0
            (kept → s.aon.erased - 1 < 4 → s.mild fsBoneNoSlot → Completes .saveCommit s fun t => t.aon.erased = s.aon.erased - 1 ∧ t.active fsBoneNoSlot = true
              ∧ (t.get R.AON_BURY_EVT).testBit 4 = true ∧ t.aon.kept = some b)
            ∧ (kept → 5 ≤ s.aon.erased → s.aon.next = [] → Completes .saveCommit s fun t => t.aon.kept = some b ∧ t.aon.save = none ∧ t.aon.slot = some s.kspi.boneNext
              ∧ t.kspi = { s.kspi with bones := sput false s.kspi.boneNext (some b) s.kspi.bones, boneNext := (s.kspi.boneNext + 1) % 14336 } ∧ t.aon.erased = s.aon.erased - 1
              ∧ t.get R.AON_VIN_STAT_SAVE_STATE = 4 ∧ (t.get R.AON_BURY_EVT).testBit 1 = true ∧ t.get R.AON_BONE_SEQ = b.seq % 2 ^ 32 ∧ t.get R.AON_BONE_AGE = 0
              ∧ t.mem = s.mem ∧ t.time = s.time)
            ∧ (s.active fsBoneNoSlot = true → s.aon.next = [] → Completes .saveCommit s fun t => t.aon.kept = some b ∧ t.aon.slot = none ∧ t.kspi = s.kspi
              ∧ t.get R.AON_VIN_STAT_SAVE_STATE = 5 ∧ t.aon.save = none ∧ t.mem = s.mem)
            ∧ (∀ c cs, kept → 5 ≤ s.aon.erased → s.aon.next = c :: cs → Completes .saveCommit s fun t => t.aon.kept = some b ∧ t.aon.next = cs ∧ t.aon.save = some { cause := c, bone := none }
              ∧ t.get R.AON_VIN_STAT_SAVE_STATE = 1))
        ∧ (s.aon.vrst = true ∨ s.aon.deep = true → s.active fsBoneNoSlot = true ∨ 5 ≤ s.aon.erased → Completes .saveCommit s fun t => t.pwr.power = .deep ∧ t.aon.kept = some b ∧ t.aon.save = none
            ∧ t.aon.deep = false ∧ t.mem = [] ∧ t.time = TimeSt.reset ∧ (∀ n : Fin 12, t.engine n = Engine.reset) ∧ t.flag R.AON_VIN_STAT_BURY_ACTIVE = false))
    ∧ (s.aon.save = none → exec .saveCommit s = .next s)
    ∧ (∀ vin : BitVec 13,
        let st := s.get R.AON_VIN_STAT_SAVE_STATE
        let survives := s.pwr.power = .on ∧ s.get R.PWR_STATE = 2 ∧ (st = 4 ∨ st = 5) ∧ s.aon.save = none ∧ s.aon.vrst = false ∧ 3075 < vin.toNat ∧ s.past s.aon.sagAt 1 1000 = true
        (survives → s.mild fsBrownoutSurvived → Completes (.burySurvival vin) s fun t => t.get R.PWR_STATE = s.aon.from_ % 2 ^ R.PWR_STATE.width ∧ t.flag R.AON_VIN_STAT_BURY_ACTIVE = false
          ∧ (t.get R.AON_BURY_EVT).testBit 2 = true ∧ s.counts t R.AON_BURY_CNT_SURVIVED ∧ t.get R.AON_VIN_STAT_SAVE_STATE = 0
          ∧ t.aon.kept = s.aon.kept.map (fun (b : Bone) => { b with fresh := false }) ∧ s.counts t R.FLT_COUNT fsBrownoutSurvived ∧ t.time = s.time ∧ t.mem = s.mem)
        ∧ (¬survives → exec (.burySurvival vin) s = .next s))
    ∧ (let up := s.pwr.power = .on ∧ s.aon.vrst = false ∧ s.leadUp = true ∧ s.past s.aon.periodAt 600 = true
       (up → Completes .periodicBoneSave s fun t => starts t 3 ∧ t.mem = s.mem ∧ t.time = s.time) ∧ (¬up → exec .periodicBoneSave s = .next s))
    ∧ (∀ (m : Master) (v : Word), s.writes m (R.PWR_DEEP.at 0) → s.pwr.power = .on →
        let same := fun (t : State) => t.aon = s.aon ∧ t.pwr = s.pwr ∧ t.mem = s.mem
        (v ≠ 0xDEE90001#32 → Completes (.deepRequest m v) s fun t => same t ∧ t.get R.PWR_STATE = s.get R.PWR_STATE)
        ∧ (v = 0xDEE90001#32 → s.get R.PWR_STATE = 2 ∨ s.dbg = 2 → Completes (.deepRequest m v) s fun t => same t ∧ t.flag R.PWR_CTRL_DEEP_REFUSED = true)
        ∧ (v = 0xDEE90001#32 → s.get R.PWR_STATE ≠ 2 → s.dbg ≠ 2 → s.aon.deep = false → Completes (.deepRequest m v) s fun t => t.aon.deep = true ∧ starts t 2 ∧ t.mem = s.mem ∧ t.pwr = s.pwr))

/-- THE HOLD CAPACITOR, THE BONE REGION, WAKE AND CLEARED SRAM (R415, R416, R420, R424, R428, R481): HOLD_RDY is VHOLD at 4,500 mV or above; below HOLD_MIN without VIN everything on chip is
lost; an erased sector gives four slots; a wake is a Chip reset into RUN; a written code resets the chip; once the root runs from SYSPLL, SRAM is cleared. THE RESET KINDS (R12, R13, R31, R60, R73, R76, R435, R460): a Cold, Chip or Block reset puts every field of its kinds at its reset entry and keeps the others; a Cold reset keeps only KSPI,
the fuses and the key store; a Chip reset keeps AON and the retention store too, and LC waits for KPLL; a Block reset keeps memory and time. -/
def Obligations.WakeClearAndResets : Prop :=
  (∀ (s : State),
    (∀ vhold, (s.powered = true → Completes (.holdRdyChange vhold) s fun t => t.get R.AON_VHOLD = vhold.toNat ∧ t.flag R.AON_VIN_STAT_HOLD_RDY = decide (4500 ≤ vhold.toNat)
          ∧ { t with regs := s.regs } = s)
        ∧ (s.powered = false → exec (.holdRdyChange vhold) s = .next s ∧ ∀ a b, exec (.vholdCollapse a b vhold) s = .next s))
    ∧ (∀ (absent body : Bool) (vhold : BitVec 13), s.powered = true →
        (absent = false ∨ 2400 ≤ vhold.toNat → Completes (.vholdCollapse absent body vhold) s fun t => t.get R.AON_VHOLD = vhold.toNat
          ∧ t.flag R.AON_VIN_STAT_HOLD_RDY = decide (4500 ≤ vhold.toNat) ∧ { t with regs := s.regs } = s)
        ∧ (absent = true → vhold.toNat < 2400 → Completes (.vholdCollapse absent body vhold) s fun t => t.pwr.power = .off ∧ t.aon.kept = none ∧ t.aon.save = none ∧ t.mem = []
          ∧ t.sec.slotA = s.sec.slotA ∧ t.sec.sealFuses = s.sec.sealFuses
          ∧ (s.aon.save = none → t.kspi = s.kspi)
          ∧ (∀ x b, s.aon.save = some x → x.bone = some b → body = true → s.active fsBoneNoSlot = false → s.aon.erased ≠ 0 →
              t.kspi = { s.kspi with bones := sput false s.kspi.boneNext none s.kspi.bones, boneNext := (s.kspi.boneNext + 1) % 14336 } ∧ t.aon.erased = s.aon.erased - 1)))
    ∧ (s.saveRuns = false → s.aon.erased + 4 ≤ 14336 → Completes (.boneSectorErase true) s fun t => t.aon.erased = s.aon.erased + 4 ∧ t.active fsBoneNoSlot = false
        ∧ (let i := (s.kspi.boneNext + s.aon.erased) % 14336 / 4 * 4
           ∀ k, k / 4 * 4 = i → ∀ x, x ∈ t.kspi.bones → x.1 ≠ k) ∧ t.mem = s.mem ∧ t.aon.kept = s.aon.kept)
    ∧ (s.saveRuns = true ∨ 14336 < s.aon.erased + 4 → exec (.boneSectorErase true) s = .next s)
    ∧ (s.aon.erased ≤ 4 → s.mild fsBoneNoSlot → Completes (.boneSectorErase false) s fun t => t.active fsBoneNoSlot = true ∧ (t.get R.AON_BURY_EVT).testBit 4 = true ∧ t.aon = s.aon)
    ∧ (4 < s.aon.erased → exec (.boneSectorErase false) s = .next s)
    ∧ (∀ (cause : Fin 3) (age : Nat) (vin : BitVec 13),
        let ok := if cause = 0 then s.flag R.PWR_WAKE_CFG_WAKE_PIN_EN = true else if cause = 1 then s.flag R.PWR_WAKE_CFG_TIMER_EN = true ∧ s.get R.PWR_WAKE_TIME ≤ age else s.aon.vrst = true ∧ 3075 < vin.toNat
        (s.pwr.power = .deep → ok → Completes (.deepWake cause age vin) s fun t => t.pwr.power = .on ∧ t.aon.vrst = false ∧ t.get R.PWR_STATE = 0 ∧ t.get R.PWR_RESET_CAUSE = 4 ∧ t.mem = []
          ∧ t.time = TimeSt.reset ∧ t.aon.kept = s.aon.kept ∧ t.kspi.bones = s.kspi.bones)
        ∧ (s.pwr.power ≠ .deep ∨ ¬ok → exec (.deepWake cause age vin) s = .next s))
    ∧ (∀ (m : Master) (v : Word), s.writes m (R.PWR_CHIP_RESET.at 0) →
        (v = 0xC4E50001#32 → Completes (.pwrChipReset m v) s fun t => t.get R.PWR_RESET_CAUSE = 3 ∧ t.mem = [] ∧ t.time = TimeSt.reset ∧ (∀ n : Fin 12, t.engine n = Engine.reset)
          ∧ t.kspi.bones = s.kspi.bones ∧ t.aon = { s.aon with sagAt := 0, periodAt := 0 })
        ∧ (v ≠ 0xC4E50001#32 → Completes (.pwrChipReset m v) s fun t => t.regs = s.regs ∧ t.mem = s.mem ∧ t.time = s.time ∧ t.eng = s.eng))
    ∧ (s.pwr.sramClear = false → s.get R.CLK_STAT_ROOT_SRC = 1 → Completes .sramClearDone s fun t => t.pwr.sramClear = true ∧ t.regs = s.regs
        ∧ (∀ a, inSram a 1 = true → t.byte a = 0) ∧ (∀ a, inSram a 1 = false → t.byte a = s.byte a))
    ∧ (s.pwr.sramClear = true ∨ s.get R.CLK_STAT_ROOT_SRC ≠ 1 → exec .sramClearDone s = .next s))
  ∧ (∀ (s : State),
    let takes := fun (t : State) (p : RegRow → Bool) (a : Nat) =>
      let m := BitVec.ofNat 32 (maskAt p a)
      t.word a = (s.word a &&& ~~~m) ||| (coldWord a &&& m)
    let sound := ∀ k : Fin 32, s.copyOk k s.sec.slotA[k] = true ∧ s.copyOk k s.sec.slotB[k] = true
    let cleared := fun (t : State) => t.mem = [] ∧ t.time = TimeSt.reset ∧ (∀ n : Fin 12, t.engine n = Engine.reset) ∧ t.jobs = [] ∧ t.kspi = s.kspi ∧ t.sec.slotA = s.sec.slotA
      ∧ t.sec.slotB = s.sec.slotB ∧ t.sec.sealFuses = s.sec.sealFuses
    let last := newestGood s.kspi.events.reverse
    let logged := fun (t : State) => t.get R.KNL_SEAL_CNT = last.elim 0 (·.sealCnt) % 2 ^ 32 ∧ t.get R.KNL_MBX_CMD_CNT = lastCounter s.kspi.events % 2 ^ 64
      ∧ t.get R.KNL_REC_WR = last.elim 0 (·.seq) % 2 ^ 32 ∧ t.get R.KNL_REC_RD = t.get R.KNL_REC_WR ∧ t.get R.KNL_AUDIT_ACK = s.kspi.ack.toNat
      ∧ t.knl.prevDig = last.elim 0 (fun r => sha256D r.bytes) ∧ t.flag R.KNL_SEAL_STAT_FW_BANK = s.kspi.fwPtr ∧ t.flag R.KNL_SEAL_STAT_PARAM_BANK = s.kspi.paramPtr
      ∧ t.get R.KNL_SEAL_STAT_FUSES = s.sec.sealFuses % 1024 ∧ t.get R.KNL_PARAM_GEN = t.bank.gen % 2 ^ 32
    let ownWord := fun (a : Nat) => a ∈ [0x1000000, 0x1000004, 0x1000008, 0x1000210, 0x1000214, 0x1001400, 0x1001404, 0x1001410]
    let cold := fun (t : State) => cleared t ∧ t.aon.kept = none ∧ logged t ∧ ∀ a, rwsOff a = none → ¬ownWord a → takes t (fun r => chipSets r || r.kind == .cold) a
    (∀ quad rev : Bool, s.wf → sound → Completes (.coldReset quad rev) s fun t => cold t ∧ t.pwr = { State.reset.pwr with kspiQuad := quad, laneRev := rev })
    ∧ (s.wf → Completes .powerOff s fun t => cold t ∧ t.pwr.power = .off)
    ∧ (∀ cause : BitVec 3, (s.pwr.power ≠ .on → exec (.chipReset cause) s = .next s)
        ∧ (s.wf → sound → s.pwr.power = .on → Completes (.chipReset cause) s fun t => cleared t ∧ t.aon = { s.aon with sagAt := 0, periodAt := 0 } ∧ t.get R.PWR_RESET_CAUSE = cause.toNat
            ∧ t.get R.KNL_REC_RD = t.get R.KNL_REC_WR ∧ t.get R.KNL_REC_WR = s.get R.KNL_REC_WR ∧ t.knl.prevDig = s.knl.prevDig
            ∧ t.get R.FLT_STICKY_FS = s.get R.FLT_FIRST_FS ∧ t.flag R.FLT_STICKY_VALID = s.flag R.FLT_FIRST_VALID ∧ t.flag R.FLT_FIRST_VALID = false
            ∧ ∀ a, rwsOff a = none → a ≠ R.PWR_RESET_CAUSE.addr → a ≠ R.KNL_REC_RD.addr → a ≠ R.FLT_STICKY_FS.addr → a ≠ R.FLT_STAT_BARK.addr → takes t chipSets a))
    ∧ (∀ u : ResetUnit, s.wf → Completes (.blockReset u) s fun t => t.mem = s.mem ∧ t.time = s.time ∧ t.kspi = s.kspi ∧ { t.pwr with idleAt := s.pwr.idleAt } = s.pwr ∧ t.aon = s.aon ∧ t.knl = s.knl
        ∧ (∀ n, u = .engine n → t.engine n = { Engine.reset with stopAt := s.time.lc.toNat } ∧ ∀ k, k ≠ n → t.engine k = s.engine k)
        ∧ (u = .host → t.hst = HstSt.reset ∧ t.fch = FchSt.reset) ∧ (u = .gnss → t.gns = GnsSt.reset) ∧ (u = .core ∨ u = .block .sec → t.dbg = 0)
        ∧ ∀ a, rwsOff a = none → a ≠ R.MTX_TGT_STAT.addr → a ∉ [R.SEC_STATE_DBG.addr, R.SEC_EVT.addr, R.SEC_DBG_STAT_REMAIN.addr] → (let m := BitVec.ofNat 32 (maskAt (fun r => unitHas u a && blockSets r) a)
            t.word a = (s.word a &&& ~~~m) ||| (coldWord a &&& m))))

/-- KEY UPDATE MESSAGES (R434, R435, R442 to R446): the checks in their order give the result of the first that fails, and nothing else changes; an accepted message sets the count and acts by
its kind. Only PF0 starts one. -/
def Obligations.KeyUpdateMessages : Prop :=
  ∀ (s : State) (m : Master) (i : Instr) (n : Nat),
    (i, n) ∈ [(Instr.kumSlotWrite m, 0), (.kumSlotErase m, 1), (.kumDebugToken m, 2), (.kumRetire m, 3), (.kumUnknownKind m, 4)] →
    let k := s.kum
    let kind := leAt k 4 1
    let slot := leAt k 5 1
    let attr := BitVec.ofNat 32 (leAt k 0x20 4)
    let lc := s.lc
    let fails := fun (code : Nat) => Completes i s fun t => t.get R.SEC_KUM_STAT_RESULT = code ∧ s.counts t R.SEC_KUM_TALLY_FAILS ∧ (t.get R.SEC_EVT).testBit 1 = true
      ∧ t.sec = s.sec ∧ t.get R.SEC_KUM_CNT = s.get R.SEC_KUM_CNT ∧ t.lc = lc ∧ t.dbg = s.dbg ∧ t.mem = s.mem
    let c1 := s.flag R.SEC_KUM_STAT_BUSY = true ∨ s.get R.PWR_STATE = 2
    let c2 := s.flag R.SEC_KUM_STAT_LOCK = true
    let c3 := kumForm k = false
    let c4 := slice k 8 16 ≠ s.devId
    let c5 := lc = 0 ∨ (lc = 4 ∧ kind ≠ 2)
    (m ≠ .pf 0 ∨ s.answers m = false ∨ Nat.min kind 4 ≠ n → exec i s = .next s)
    ∧ (m = .pf 0 → s.answers m = true → Nat.min kind 4 = n →
        (c1 → fails 10) ∧ (¬c1 → c2 → fails 9) ∧ (¬c1 → ¬c2 → c3 → fails 2) ∧ (¬c1 → ¬c2 → ¬c3 → c4 → fails 3) ∧ (¬c1 → ¬c2 → ¬c3 → ¬c4 → c5 → fails 1)
        ∧ (4 ≤ kind → c3)
        ∧ (¬c1 → ¬c2 → ¬c3 → ¬c4 → ¬c5 → leAt k 6 1 = 0 →
            let tkOk := s.flag R.SEC_STATE_TK_USED = false ∨ (kind = 0 ∧ slot = 0 ∧ s.slotBad 0 = true) ∨ (kind = 2 ∧ lc = 4)
            let opened := sivOpen (s.rootKey "KUM-TK" []) [slice k 0 0x40] (slice k 0x40 16) (slice k 0x50 32)
            let now := s.time.lc.toNat
            let last := (now :: s.sec.authAt).filter fun l => decide (now < l + 2 ^ 48)
            let auth := fun (P : State → Prop) => Completes i s fun t => t.get R.SEC_KUM_STAT_RESULT = 4 ∧ s.counts t R.SEC_KUM_TALLY_FAILS
              ∧ t.get R.SEC_KUM_CNT = s.get R.SEC_KUM_CNT ∧ t.mem = s.mem ∧ P t
            (¬tkOk ∨ opened = none → last.length < 16 → auth fun t => t.sec = { s.sec with authAt := last } ∧ t.flag R.SEC_KUM_STAT_LOCK = s.flag R.SEC_KUM_STAT_LOCK)
            ∧ (¬tkOk ∨ opened = none → 16 ≤ last.length → s.mild fsKumFlood → auth fun t => t.sec = { s.sec with authAt := last, lockAt := now }
                ∧ t.flag R.SEC_KUM_STAT_LOCK = true ∧ s.counts t R.FLT_COUNT fsKumFlood)
            ∧ (∀ pt, tkOk → opened = some pt →
                (leAt k 0x18 8 ≤ s.get R.SEC_KUM_CNT → fails 5)
                ∧ (s.get R.SEC_KUM_CNT < leAt k 0x18 8 → s.kumSlotCheck k pt = 0 → kind = 2 → attr = 2 → s.auditOver = true → fails 8)
                ∧ (s.get R.SEC_KUM_CNT < leAt k 0x18 8 → s.kumSlotCheck k pt ≠ 0 → fails (s.kumSlotCheck k pt))
                ∧ (s.get R.SEC_KUM_CNT < leAt k 0x18 8 → s.kumSlotCheck k pt = 0 → s.mild fsKeyUpdated → s.mild fsDebugOpen → s.room 3 →
                    let acts := fun (P : State → Prop) => Completes i s fun t => t.get R.SEC_KUM_STAT_RESULT = 0 ∧ s.counts t R.SEC_KUM_TALLY_ACCEPTED ∧ (t.get R.SEC_EVT).testBit 0 = true
                      ∧ t.get R.SEC_KUM_CNT = leAt k 0x18 8 ∧ s.counts t R.FLT_COUNT fsKeyUpdated ∧ t.mem = s.mem ∧ P t
                    (∀ x : Fin 32, x.val = slot →
                      let held := fun (t : State) (v : Digest) (a : Word) => ∃ c : SlotCopy, c.value = v ∧ c.attr = a ∧ (t.sec.slotA[x] = some c ∨ t.sec.slotB[x] = some c)
                      (kind = 0 → acts fun t => held t (BitVec.ofNat 256 (ofLe pt)) attr ∧ t.slotValid x = true ∧ t.slotBad x = false ∧ t.get R.SEC_SLOT_ATTR x = attr.toNat
                        ∧ (slot = 0 → t.flag R.SEC_STATE_TK_USED = true) ∧ ∀ y, y ≠ x → t.sec.slotA[y] = s.sec.slotA[y] ∧ t.sec.slotB[y] = s.sec.slotB[y])
                      ∧ (kind = 1 → acts fun t => held t 0 (BitVec.ofNat 32 (s.get R.SEC_SLOT_ATTR x) &&& ~~~1#32) ∧ t.slotValid x = false
                        ∧ ∀ y, y ≠ x → t.sec.slotA[y] = s.sec.slotA[y] ∧ t.sec.slotB[y] = s.sec.slotB[y]))
                    ∧ (kind = 2 → attr = 1 → acts fun t => t.dbg = 1 ∧ t.get R.SEC_DBG_STAT_REMAIN = leAt k 0x24 4 ∧ t.sec.dbgTimer = true ∧ t.sec.dbgAt = now ∧ t.sec.dbgFor = leAt k 0x24 4
                      ∧ t.sec.slotA = s.sec.slotA)
                    ∧ (kind = 2 → attr = 2 → acts fun t => t.dbg = 2 ∧ t.get R.SEC_DBG_STAT_REMAIN = leAt k 0x24 4 ∧ t.sec.dbgTimer = true ∧ t.sec.slotA = s.sec.slotA
                      ∧ t.get R.KNL_SEAL_CNT = (s.get R.KNL_SEAL_CNT + 1) % 2 ^ 32)
                    ∧ (kind = 3 → acts fun t => t.lc = 4 ∧ t.sec.slotA = Vector.replicate 32 none ∧ t.sec.slotB = Vector.replicate 32 none ∧ t.get R.SEC_SLOT_VALID = 0 ∧ t.dbg = 0
                        ∧ t.sec.verKey = none ∧ t.sec.cookieCur = none ∧ t.sec.cookiePrev = none ∧ t.sec.pckKey = none ∧ t.srv.mintKey = none ∧ t.sealState = (if s.sealState = 4 ∨ s.sealState = 5 then s.sealState else 6)
                        ∧ ∀ e : Fin 12, 2 ≤ e.val → t.flag R.ENG_CTRL_RUN e = false)))))
    ∧ (let ends := s.flag R.SEC_KUM_STAT_LOCK = true ∧ s.past s.sec.lockAt 10 = true
       (ends → Completes .kumLockExpiry s fun t => t.flag R.SEC_KUM_STAT_LOCK = false ∧ t.sec = { s.sec with authAt := [] } ∧ { t with regs := s.regs, sec := s.sec } = s)
       ∧ (¬ends → exec .kumLockExpiry s = .next s))

/-- THE WORKING KEY REGISTER AND DEBUG (R435, R438 to R440, R448, R449): a load that passes delivers the derived key to its consumer and counts, one that fails shows why and gives nothing; a
requested debug state opens where the life cycle lets it, after the Kennel's breach record for INVASIVE, and closes; the host measurement is extended. -/
def Obligations.WkrLoadsAndDebug : Prop :=
  ∀ (s : State) (m : Master),
    (∀ (cons : Fin 4) (k : Fin 32) (ctx : Word),
        let x : Fin 32 := if cons = 1 then 0 else k
        let req := if cons = 1 then none else some m
        let info := if cons = 2 then beBytes 4 ctx.toNat else []
        let shown := fun (t : State) (r : Nat) => t.get R.SEC_WKR_STAT_LAST_SLOT = x.val ∧ t.get R.SEC_WKR_STAT_LAST_CONS = cons.val ∧ t.get R.SEC_WKR_STAT_LAST_RESULT = r ∧ t.mem = s.mem
        let sound := s.copyOk x s.sec.slotA[x] = true ∧ s.copyOk x s.sec.slotB[x] = true
        let c := s.slotInForce x
        let r := s.wkrRefuse x c (consUses cons) req
        (sound → r ≠ 0 → Completes (.wkrLoad cons k m ctx) s fun t => shown t r ∧ s.counts t R.SEC_WKR_CNT_REFUSED ∧ (t.get R.SEC_EVT).testBit 6 = true ∧ t.sec = s.sec)
        ∧ (∀ y, sound → r = 0 → c = some y → Completes (.wkrLoad cons k m ctx) s fun t => shown t 0 ∧ s.counts t R.SEC_WKR_CNT_LOADS
            ∧ (let d : Delivered := { key := s.deriveKey x y info, slot := x.val, id := BitVec.ofNat 32 (ofBe info) }
               t.sec = (if cons = 0 then { s.sec with verKey := some d } else if cons = 3 then { s.sec with pckKey := some d } else s.sec))
            ∧ (cons = 3 → t.flag R.PCK_AUTH_KEY_OK = true))
        ∧ (sound → s.slotBad x = false → c = none → r = 1)
        ∧ (∀ y, c = some y → s.slotBad x = false →
            (y.attr.getLsbD 0 = false → r = 1)
            ∧ (y.attr.getLsbD 0 = true → (consUses cons).contains (attrUse y.attr) = false → r = 3)
            ∧ (r = 0 → s.dbg = 2 → y.attr.getLsbD 11 = true) ∧ (r = 0 → s.get R.PWR_STATE ≤ 2))
        ∧ (s.copyOk x s.sec.slotA[x] = true → s.copyOk x s.sec.slotB[x] = false → Completes (.wkrLoad cons k m ctx) s fun t => t.sec.slotB[x] = s.sec.slotA[x]
            ∧ t.sec.slotA = s.sec.slotA ∧ (t.get R.SEC_EVT).testBit 3 = true)
        ∧ (s.copyOk x s.sec.slotA[x] = false → s.copyOk x s.sec.slotB[x] = false → s.mild fsKeySlotBad → Completes (.wkrLoad cons k m ctx) s fun t => shown t 2 ∧ t.slotBad x = true
            ∧ (t.get R.SEC_EVT).testBit 2 = true ∧ s.counts t R.FLT_COUNT fsKeySlotBad ∧ t.sec = s.sec))
    ∧ (let open_ := fun (t : State) (level : Nat) => t.dbg = level ∧ t.get R.SEC_DBG_STAT_REMAIN = 0 ∧ t.get R.SEC_DBG_STAT_LAST = 0 ∧ (t.get R.SEC_EVT).testBit 4 = true
         ∧ t.sec.dbgTimer = false ∧ (t.get R.SEC_STATE_WORLDS).testBit 3 = true ∧ s.counts t R.FLT_COUNT fsDebugOpen ∧ t.mem = s.mem
       let refused := fun (t : State) (why : Nat) => t.get R.SEC_DBG_STAT_LAST = why ∧ t.dbg = s.dbg ∧ t.sec = s.sec ∧ t.mem = s.mem
       let bury := s.get R.PWR_STATE = 2
       (m = .pf 0 → s.answers m = true →
         (bury → (Completes (.dbgObserve m) s fun t => refused t 2) ∧ (Completes (.dbgInvasive m) s fun t => refused t 2))
         ∧ (¬bury → s.lc = 1 ∨ s.lc = 3 ∨ s.lc = 4 → s.mild fsDebugOpen → Completes (.dbgObserve m) s fun t => open_ t 1)
         ∧ (¬bury → s.lc ≠ 1 → s.lc ≠ 3 → s.lc ≠ 4 → Completes (.dbgObserve m) s fun t => refused t 1)
         ∧ (¬bury → s.lc ≠ 1 → Completes (.dbgInvasive m) s fun t => refused t 1)
         ∧ (¬bury → s.lc = 1 → s.auditOver = true → Completes (.dbgInvasive m) s fun t => refused t 3)
         ∧ (¬bury → s.lc = 1 → s.mild fsDebugOpen → s.room 3 → Completes (.dbgInvasive m) s fun t => open_ t 2 ∧ t.get R.KNL_SEAL_CNT = (s.get R.KNL_SEAL_CNT + 1) % 2 ^ 32
             ∧ ∀ d, t.sec.verKey = some d ∨ t.sec.pckKey = some d ∨ t.sec.cookieCur = some d → ∀ x : Fin 32, x.val = d.slot → (s.get R.SEC_SLOT_ATTR x).testBit 11 = true)
         ∧ (Completes (.dbgClose m) s fun t => t.dbg = 0 ∧ t.get R.SEC_DBG_STAT_LAST = 0 ∧ (s.dbg ≠ 0 → (t.get R.SEC_EVT).testBit 5 = true ∧ t.get R.SEC_DBG_STAT_REMAIN = 0
             ∧ t.sec.dbgTimer = false ∧ (t.get R.SEC_STATE_WORLDS).testBit 3 = false) ∧ t.sealState = s.sealState ∧ t.mem = s.mem)
         ∧ (∀ v, let ext := setBits s.sec.extBuf.toNat 224 32 v.toNat
             Completes (.hostMeasExtend m v) s fun t => t.get R.SEC_HOST_MEAS = ofLe (sha256 (leBytes 32 (s.get R.SEC_HOST_MEAS) ++ digestBytes (BitVec.ofNat 256 ext)))
               ∧ t.sec = { s.sec with extBuf := BitVec.ofNat 256 ext } ∧ t.mem = s.mem))
       ∧ (m ≠ .pf 0 ∨ s.answers m = false → exec (.dbgObserve m) s = .next s ∧ exec (.dbgInvasive m) s = .next s ∧ exec (.dbgClose m) s = .next s
           ∧ ∀ v, exec (.hostMeasExtend m v) s = .next s))
    ∧ (s.sec.dbgTimer = true → s.dbg ≠ 0 → s.past s.sec.dbgAt s.sec.dbgFor = true → Completes .debugTimerExpiry s fun t => t.dbg = 0 ∧ t.sec.dbgTimer = false ∧ t.get R.SEC_DBG_STAT_REMAIN = 0
        ∧ (t.get R.SEC_EVT).testBit 5 = true ∧ t.sealState = s.sealState ∧ t.mem = s.mem)
    ∧ (s.sec.dbgTimer = false ∨ s.dbg = 0 ∨ s.past s.sec.dbgAt s.sec.dbgFor = false → exec .debugTimerExpiry s = .next s)

/-- SNAPSHOTS, COUNTERS, SAMPLES AND TELEMETRY (R467 to R474): a snapshot, a sampling record or a telemetry record enters its ring, or is counted as lost when the ring is full; a host snapshot
and a periodic one of the same 20 ns are one; a changed selection clears its counter; the next interval of samples lies in its bounds. THE SCRUBBER (R477, R478): a line is scrubbed, and the pass ends after the last; a correctable word counts and is reported, an uncorrectable one shows its address; a late pass counts once. -/
def Obligations.ObservationAndScrubber : Prop :=
  (∀ (s : State),
    let full := fun (wr rd : Fld) (n : Nat) => n ≤ (s.get wr + 65536 - s.get rd) % 65536
    let snap := fun (i : Instr) (cause : Nat) (ms : Option Nat) =>
      (¬full R.OBS_SNAP_WR R.OBS_SNAP_RD 64 → Completes i s fun t =>
          t.wordsN (R.OBS_SNAP_WIN.addr + s.obsv.snapSeq % 64 * 0x200) 128 = ofLe (padTo 0x200 (s.snapBytes cause)) ∧ t.get R.OBS_SNAP_WR = (s.get R.OBS_SNAP_WR + 1) % 2 ^ 16
          ∧ t.obsv = { s.obsv with snapMs := ms, snapSeq := (s.obsv.snapSeq + 1) % 2 ^ 32, snapLost := 0 } ∧ t.mem = s.mem ∧ t.eng = s.eng)
      ∧ (full R.OBS_SNAP_WR R.OBS_SNAP_RD 64 → Completes i s fun t => t.get R.OBS_SNAP_WR = s.get R.OBS_SNAP_WR ∧ s.counts t R.OBS_SNAP_LOST ∧ (t.get R.OBS_EVT).testBit 1 = true
          ∧ t.obsv = { s.obsv with snapMs := ms, snapLost := s.obsv.snapLost + 1 } ∧ t.mem = s.mem ∧ t.eng = s.eng)
    (∀ (m : Master) (v : Word), s.writes m (R.OBS_SNAP.at 0) →
        (s.snapNear = none → snap (.obsSnapWrite m v) 1 s.obsv.snapMs)
        ∧ (∀ ms, s.snapNear = some ms → s.obsv.snapMs ≠ some ms → snap (.obsSnapWrite m v) 3 (some ms))
        ∧ (∀ ms, s.snapNear = some ms → s.obsv.snapMs = some ms → s.obsv.snapLost ≠ 0 → Completes (.obsSnapWrite m v) s fun t => t.obsv = s.obsv
            ∧ t.get R.OBS_SNAP_WR = s.get R.OBS_SNAP_WR ∧ t.mem = s.mem ∧ ∀ a, R.OBS_SNAP_WIN.addr ≤ a → a < R.OBS_SNAP_WIN.addr + 64 * 0x200 → t.word a = s.word a)
        ∧ (∀ ms, s.snapNear = some ms → s.obsv.snapMs = some ms → s.obsv.snapLost = 0 →
            let a := R.OBS_SNAP_WIN.addr + (s.obsv.snapSeq + 63) % 64 * 0x200 + 0x10
            Completes (.obsSnapWrite m v) s fun t => t.word a = s.word a ||| 1 ∧ t.get R.OBS_SNAP_WR = s.get R.OBS_SNAP_WR ∧ t.obsv = s.obsv))
    ∧ (∀ ms, s.pwr.power = .on → s.snapNear = some ms → s.obsv.snapMs ≠ some ms → snap .snapPeriodic 2 (some ms))
    ∧ (s.pwr.power ≠ .on ∨ s.snapNear = none ∨ s.snapNear = s.obsv.snapMs → exec .snapPeriodic s = .next s)
    ∧ (∀ (m : Master) (k : Fin 32) (v : Word),
        let a := R.OBS_CNT_SEL_EVENT.at k
        (s.writes m a → Completes (.obsCntSelWrite m k v) s fun t => t.get R.OBS_CNT_SEL_EVENT k = v.toNat % 2 ^ 16 ∧ t.get R.OBS_CNT_SEL_MODE k = v.toNat / 2 ^ 16 % 4
          ∧ t.flag R.OBS_CNT_SEL_ENABLE k = v.getLsbD 31 ∧ t.get R.OBS_CNT k = (if t.word a = s.word a then s.get R.OBS_CNT k else 0)
          ∧ (v.getLsbD 31 = true → selBad (v.toNat % 2 ^ 16) (v.toNat / 2 ^ 16 % 4) = true → (t.get R.OBS_EVT).testBit 7 = true)
          ∧ ∀ j : Fin 32, j ≠ k → t.get R.OBS_CNT j = s.get R.OBS_CNT j)
        ∧ (s.writes m (R.OBS_CNT.at k + 4) → Completes (.obsCntWrite m k v) s fun t =>
            t.get R.OBS_CNT k = (s.heldWord (R.OBS_CNT.at k)).toNat + 2 ^ 32 * (v.toNat % 2 ^ 16) ∧ ∀ j : Fin 32, j ≠ k → t.get R.OBS_CNT j = s.get R.OBS_CNT j))
    ∧ (∀ n : Fin 12,
        let j := 2 ^ s.get R.OBS_SMP_CFG_JITTER n
        let p := s.get R.OBS_SMP_CFG_PERIOD n / j * j
        let next := fun (t : State) => s.get R.ENG_RETIRED n + p ≤ t.obsv.smpAt[n] ∧ t.obsv.smpAt[n] < s.get R.ENG_RETIRED n + p + j ∧ t.mem = s.mem ∧ t.eng = s.eng
        let a := R.OBS_SMP_WIN.addr + s.get R.OBS_SMP_WR % 8192 * 0x20
        (s.smpHit n = false → exec (.sampleSelect n) s = .next s)
        ∧ (s.smpHit n = true → ¬full R.OBS_SMP_WR R.OBS_SMP_RD 8192 → Completes (.sampleSelect n) s fun t => next t ∧ t.get R.OBS_SMP_WR = (s.get R.OBS_SMP_WR + 1) % 2 ^ 16
            ∧ t.get R.OBS_SMP_CNT n = (s.get R.OBS_SMP_CNT n + 1) % 2 ^ 32 ∧ t.obsv.smpLost = 0 ∧ (t.word a).toNat % 2 ^ 8 = n.val
            ∧ (t.word a).toNat / 2 ^ 16 = (s.engine n).last.pc.toNat ∧ (t.word (a + 4)).toNat % 2 ^ 16 = Nat.min (s.engine n).last.cost 65535
            ∧ ((t.word (a + 4)).toNat.testBit 24 = (s.engine n).last.trapped) ∧ t.wordsN (a + 12) 2 = s.get R.ENG_CYCLES n)
        ∧ (s.smpHit n = true → full R.OBS_SMP_WR R.OBS_SMP_RD 8192 → Completes (.sampleSelect n) s fun t => next t ∧ s.counts t R.OBS_SMP_LOST ∧ t.obsv.smpLost = s.obsv.smpLost + 1
            ∧ (t.get R.OBS_EVT).testBit 3 = true))
    ∧ (∀ (temp : List Int) (vdd : List Nat) (vin vhold : BitVec 13),
        (s.pwr.power ≠ .on → exec (.telSample temp vdd vin vhold) s = .next s)
        ∧ (s.pwr.power = .on → Completes (.telSample temp vdd vin vhold) s fun t => t.obsv = s.obsv.telAdd temp vdd vin.toNat vhold.toNat (t.tempOut != 0 || t.vddOut != 0)
            ∧ t.get R.AON_VIN_STAT_VIN_MV = vin.toNat ∧ t.get R.AON_VHOLD = vhold.toNat ∧ t.mem = s.mem ∧ t.time = s.time
            ∧ ∀ r, r < 13 → t.get R.PWR_TEMP r = trunc 16 ((temp[r]?).getD 0)
              ∧ (t.getS R.OBS_TEL_LIM_TEMP_HI < t.getS R.PWR_TEMP r ∨ t.getS R.PWR_TEMP r < t.getS R.OBS_TEL_LIM_TEMP_LO →
                  (t.get R.OBS_TEL_STAT).testBit r = true ∧ (t.get R.OBS_EVT).testBit 5 = true)))
    ∧ (let due := s.pwr.power = .on ∧ s.get R.OBS_TEL_CFG_TEL_PERIOD ≤ s.obsv.telN
       (¬due → exec .telRecord s = .next s)
       ∧ (due → ¬full R.OBS_TEL_WR R.OBS_TEL_RD 256 → Completes .telRecord s fun t =>
           t.wordsN (R.OBS_TEL_WIN.addr + s.obsv.telSeq % 256 * 0x80) 32 = ofLe (padTo 0x80 s.telBytes) ∧ t.get R.OBS_TEL_WR = (s.get R.OBS_TEL_WR + 1) % 2 ^ 16
           ∧ t.obsv = { s.obsv.telClear with telSeq := (s.obsv.telSeq + 1) % 2 ^ 32, telLost := 0 } ∧ t.mem = s.mem)
       ∧ (due → full R.OBS_TEL_WR R.OBS_TEL_RD 256 → Completes .telRecord s fun t => s.counts t R.OBS_TEL_LOST ∧ t.obsv = { s.obsv.telClear with telLost := s.obsv.telLost + 1 }
           ∧ t.get R.OBS_TEL_WR = s.get R.OBS_TEL_WR ∧ t.mem = s.mem)))
  ∧ (∀ (s : State) (flipped : Bool),
    let l := s.get R.OBS_SCRUB_STAT
    let p := scrubAt l
    let fixes := s.softs p.1 64 + (if flipped then 1 else 0)
    let here := s.bad.filter fun w => decide (p.1 ≤ w) && decide (w < p.1 + 64)
    let on := s.pwr.power = .on ∧ s.pwr.sramClear = true
    let goes := fun (t : State) => (l + 1 < scrubLines → t.get R.OBS_SCRUB_STAT = l + 1 ∧ t.get R.OBS_SCRUB_PASSES_PASSES = s.get R.OBS_SCRUB_PASSES_PASSES)
      ∧ (scrubLines ≤ l + 1 → t.get R.OBS_SCRUB_STAT = 0 ∧ s.counts t R.OBS_SCRUB_PASSES_PASSES ∧ (t.get R.OBS_EVT).testBit 8 = true ∧ t.obsv.passAt = s.time.lc.toNat)
      ∧ t.mem = s.mem ∧ t.bad = s.bad ∧ t.soft = (s.soft.filter fun w => !(decide (w < p.1 + 64) && decide (p.1 < w + 4))) ∧ t.time = s.time
    let finds := fun (i : Instr) (P : State → Prop) =>
      (fixes = 0 → here = [] → Completes i s fun t => goes t ∧ P t)
      ∧ (fixes = 1 → here = [] → s.mild fsSramEccCorr → Completes i s fun t => goes t ∧ s.counts t R.OBS_SCRUB_CNT_CORRECTED ∧ s.counts t R.FLT_COUNT fsSramEccCorr ∧ P t)
      ∧ (∀ w, fixes = 0 → here = [w] → s.mild fsSramEccUncorr → Completes i s fun t => goes t ∧ t.get R.OBS_SCRUB_ERR = (p.2 + (w - p.1)) % 2 ^ 32
          ∧ (t.get R.OBS_EVT).testBit 9 = true ∧ s.counts t R.FLT_COUNT fsSramEccUncorr ∧ P t)
    (on → finds (.scrubLine flipped) (fun _ => True) ∧ (s.past s.obsv.lineAt 1 1000 = true → finds (.scrubSteal flipped) (fun t => s.counts t R.OBS_SCRUB_CNT_STEALS))
      ∧ (s.past s.obsv.lineAt 1 1000 = false → exec (.scrubSteal flipped) s = .next s))
    ∧ (¬on → exec (.scrubLine flipped) s = .next s ∧ exec (.scrubSteal flipped) s = .next s)
    ∧ (let late := s.pwr.power = .on ∧ s.obsv.passLate = false ∧ s.past s.obsv.passAt (s.get R.OBS_SCRUB_CFG * 3600) = true
       (late → Completes .scrubPassLate s fun t => s.counts t R.OBS_SCRUB_PASSES_LATE ∧ t.obsv = { s.obsv with passLate := true } ∧ t.mem = s.mem)
       ∧ (¬late → exec .scrubPassLate s = .next s)))

/-- A STEP RUNS THE COMMAND IN FRONT: it takes effect on the state with the queue's rest; on an empty queue nothing happens (the model's choice, log entry 8). -/
def Obligations.StepRunsTheCommand : Prop :=
  (∀ (s : State) (c : Instr) (q : List Instr), step { s with pending := c :: q } = exec c { s with pending := q })
    ∧ (∀ s : State, s.pending = [] → step s = .next s)

/-- RESET: the queue is empty, registers and memory are in their canonical form, every register word reads its reset entry (R13), LC stands at 0 until KPLL locks (R31), every engine is
as a reset leaves it, no debug is open, and the chip is in RUN with SRAM not yet cleared. -/
def Obligations.ResetState : Prop :=
  State.reset.wf ∧ State.reset.pending = [] ∧ State.reset.mem = [] ∧ (∀ a, rwsOff a = none → State.reset.word a = coldWord a) ∧ State.reset.time.lc = 0 ∧ State.reset.time.running = false
    ∧ (∀ n : Fin 12, State.reset.engine n = Engine.reset) ∧ State.reset.dbg = 0 ∧ State.reset.pwr.power = .on ∧ State.reset.get R.PWR_STATE = 0 ∧ State.reset.pwr.sramClear = false
    ∧ State.reset.jobs = [] ∧ State.reset.bad = [] ∧ State.reset.soft = [] ∧ (∀ c : Fin 16, State.reset.chState c = chDISABLED)

/-- THE INVARIANT: registers and memory keep their canonical form through every step (the invariant of the whole machine). -/
def Obligations.StepKeepsCanonicalForm : Prop :=
  ∀ s t : State, s.wf → step s = .next t → t.wf

/-- EVERY COMMAND COMPLETES, AND WHAT NONE OF THEM TAKES AWAY: from any state, any command gives a next state; the queue, the root secret and the burned seal fuses stay, the draw count of free
values never falls, and the canonical form is kept. -/
def Obligations.EveryCommandCompletes : Prop :=
  ∀ (c : Instr) (s : State), ∃ t, exec c s = .next t ∧ Keeps s t

/-- A RUN: any number of steps from a canonical state gives a canonical state, none of them stops, and each takes one command from the queue. -/
def Obligations.RunsOfTheQueue : Prop :=
  ∀ (n : Nat) (s : State), s.wf → ∃ t : State, Host.Core.run Sys2Proof.core n s = .next t
    ∧ t.wf ∧ t.pending = s.pending.drop n ∧ t.sec.rootSecret = s.sec.rootSecret ∧ s.sec.sealFuses ≤ t.sec.sealFuses
end

