-- ==== Sys2Proof/Laws/Map.lean ====
section
/-! SUPPORT. Laws of the sparse maps: a read after a write, and the canonical form. -/

namespace Sys2Proof.Machine

variable {α : Type}

theorem sget_sdel_same (x : Nat) (l : List (Nat × α)) : sget (sdel x l) x = none := by
  induction l with
  | nil => rfl
  | cons c t ih =>
    obtain ⟨k, v⟩ := c
    simp only [sdel, List.filter_cons] at *
    by_cases h : k = x
    · simpa [h] using ih
    · simpa [h, sget] using ih

theorem sget_sdel_ne {x y : Nat} (h : y ≠ x) (l : List (Nat × α)) : sget (sdel x l) y = sget l y := by
  induction l with
  | nil => rfl
  | cons c t ih =>
    obtain ⟨k, v⟩ := c
    simp only [sdel, List.filter_cons] at *
    by_cases hk : k = x
    · have : k ≠ y := fun e => h (e.symm.trans hk)
      simpa [hk, sget, this, Ne.symm h] using ih
    · simp only [bne_iff_ne, ne_eq, hk, not_false_eq_true, if_true, sget]
      split
      · rfl
      · exact ih

/-- A read after a write at the same key. -/
theorem sget_sput_same (drop : Bool) (x : Nat) (v : α) (l : List (Nat × α)) :
    sget (sput drop x v l) x = if drop then none else some v := by
  induction l with
  | nil => cases drop <;> simp [sput, sget]
  | cons c t ih =>
    obtain ⟨k, w⟩ := c
    by_cases h1 : x < k
    · have : k ≠ x := by omega
      cases drop <;> simp [sput, h1, sget, this, sget_sdel_same]
    · by_cases h2 : x = k
      · cases drop <;> simp [sput, h2, sget, sget_sdel_same]
      · have : k ≠ x := fun e => h2 e.symm
        simpa [sput, h1, h2, sget, this] using ih

/-- A write leaves every other key alone. -/
theorem sget_sput_ne (drop : Bool) {x y : Nat} (h : y ≠ x) (v : α) (l : List (Nat × α)) :
    sget (sput drop x v l) y = sget l y := by
  have hx : ¬ x = y := Ne.symm h
  induction l with
  | nil => cases drop <;> simp [sput, sget, hx]
  | cons c t ih =>
    obtain ⟨k, w⟩ := c
    unfold sput
    split
    · cases drop <;> simp only [Bool.false_eq_true, if_false, if_true, sget, hx, sget_sdel_ne h]
    · split
      · next hk =>
        subst hk
        cases drop <;> simp only [Bool.false_eq_true, if_false, if_true, sget, hx, sget_sdel_ne h]
      · simp only [sget, ih]

/-- The canonical form as a statement about the list. -/
theorem swf_iff (d : Nat → α → Bool) (l : List (Nat × α)) :
    swf d l = true ↔ l.Pairwise (fun a b => a.1 < b.1) ∧ ∀ c ∈ l, d c.1 c.2 = false := by
  induction l with
  | nil => simp [swf]
  | cons c t ih =>
    obtain ⟨k, v⟩ := c
    cases t with
    | nil => simp [swf]
    | cons c' t =>
      obtain ⟨k', v'⟩ := c'
      simp only [swf, Bool.and_eq_true, Bool.not_eq_true', decide_eq_true_eq, ih]
      constructor
      · rintro ⟨⟨h1, h2⟩, h3, h4⟩
        refine ⟨List.pairwise_cons.2 ⟨?_, h3⟩, ?_⟩
        · intro a ha
          rcases List.mem_cons.1 ha with rfl | ha
          · exact h2
          · exact lt_trans h2 ((List.pairwise_cons.1 h3).1 a ha)
        · intro a ha
          rcases List.mem_cons.1 ha with rfl | ha
          · exact h1
          · exact h4 a ha
      · rintro ⟨h1, h2⟩
        have h3 := List.pairwise_cons.1 h1
        exact ⟨⟨h2 (k, v) (by simp), h3.1 (k', v') (by simp)⟩, h3.2, fun c hc => h2 c (List.mem_cons_of_mem _ hc)⟩

/-- A part of a canonical map is canonical. -/
theorem swf_filter (d : Nat → α → Bool) (p : Nat × α → Bool) {l : List (Nat × α)} (h : swf d l = true) :
    swf d (l.filter p) = true := by
  rw [swf_iff] at *
  exact ⟨h.1.sublist List.filter_sublist, fun c hc => h.2 c (List.mem_filter.1 hc).1⟩

theorem sput_keys (drop : Bool) (x : Nat) (v : α) (l : List (Nat × α)) :
    ∀ c ∈ sput drop x v l, c ∈ l ∨ (drop = false ∧ c = (x, v)) := by
  induction l with
  | nil => cases drop <;> simp [sput]
  | cons c t ih =>
    obtain ⟨k, w⟩ := c
    intro c hc
    unfold sput at hc
    split at hc
    · cases drop <;> simp at hc
      · rcases hc with h | h | h <;> simp_all
      · rcases hc with h | h
        · simp [h]
        · exact .inl (List.mem_cons_of_mem _ (List.mem_filter.1 h).1)
    · split at hc
      · cases drop <;> simp at hc
        · rcases hc with h | h <;> simp_all
        · exact .inl (List.mem_cons_of_mem _ (List.mem_filter.1 hc).1)
      · rcases List.mem_cons.1 hc with h | h
        · simp [h]
        · rcases ih c h with h | h
          · exact .inl (List.mem_cons_of_mem _ h)
          · exact .inr h

/-- A write keeps the canonical form. -/
theorem sput_wf (d : Nat → α → Bool) (x : Nat) (v : α) {l : List (Nat × α)} (h : swf d l = true) :
    swf d (sput (d x v) x v l) = true := by
  rw [swf_iff] at *
  obtain ⟨h1, h2⟩ := h
  refine ⟨?_, fun c hc => ?_⟩
  · clear h2
    induction l with
    | nil => cases d x v <;> simp [sput]
    | cons c t ih =>
      obtain ⟨k, w⟩ := c
      have ht := List.pairwise_cons.1 h1
      unfold sput
      split
      · next hx =>
        cases d x v <;> simp only [Bool.false_eq_true, if_false, if_true]
        · refine List.pairwise_cons.2 ⟨fun a ha => ?_, h1⟩
          rcases List.mem_cons.1 ha with rfl | ha
          · exact hx
          · exact lt_trans hx (ht.1 a ha)
        · exact List.pairwise_cons.2 ⟨fun a ha => ht.1 a (List.mem_filter.1 ha).1, ht.2.sublist List.filter_sublist⟩
      · split
        · next hx =>
          subst hx
          cases d x v <;> simp only [Bool.false_eq_true, if_false, if_true]
          · exact List.pairwise_cons.2 ⟨fun a ha => ht.1 a ha, ht.2⟩
          · exact ht.2.sublist List.filter_sublist
        · next hx hk =>
          refine List.pairwise_cons.2 ⟨fun a ha => ?_, ih ht.2⟩
          rcases sput_keys _ _ _ _ a ha with h | ⟨-, rfl⟩
          · exact ht.1 a h
          · show k < x
            omega
  · rcases sput_keys _ _ _ _ c hc with h | ⟨hd, rfl⟩
    · exact h2 c h
    · exact hd

end Sys2Proof.Machine
end

