-- ==== Sys2Proof/Laws/Memory.lean ====
section
/-! SUPPORT. Laws of memory: a read after a write, and what a write leaves. -/

namespace Sys2Proof.Machine

/-- A byte at an address that exists reads as it was written. -/
theorem byte_setByte_same {s : State} {a : Nat} (b : Byte) (h : memAddr a = true) : (s.setByte a b).byte a = b := by
  simp only [State.setByte, h, if_true, State.byte, sget_sput_same]
  by_cases hb : b = 0#8 <;> simp [hb]

/-- A write of one byte leaves every other byte. -/
theorem byte_setByte_ne {s : State} {a x : Nat} (b : Byte) (h : x ≠ a) : (s.setByte a b).byte x = s.byte x := by
  unfold State.setByte
  split
  · simp only [State.byte, sget_sput_ne _ h]
  · rfl

theorem byte_putBytes_out {s : State} {a x : Nat} (bs : List Byte) (h : x < a ∨ a + bs.length ≤ x) : (s.putBytes a bs).byte x = s.byte x := by
  induction bs generalizing s a with
  | nil => rfl
  | cons b bs ih =>
    simp only [List.length_cons] at h
    unfold State.putBytes
    rw [ih (by omega), byte_setByte_ne _ (by omega)]

theorem byte_putBytes_in {s : State} {a k : Nat} (bs : List Byte) (hk : k < bs.length) (h : ∀ i < bs.length, memAddr (a + i) = true) :
    (s.putBytes a bs).byte (a + k) = bs[k] := by
  induction bs generalizing s a k with
  | nil => simp at hk
  | cons b bs ih =>
    unfold State.putBytes
    cases k with
    | zero =>
      rw [byte_putBytes_out _ (by omega)]
      simpa using byte_setByte_same b (h 0 (by simp))
    | succ k =>
      have := ih (s := s.setByte a b) (a := a + 1) (k := k) (by simpa using hk) (fun i hi => by
        have := h (i + 1) (by simpa using hi)
        rwa [show a + (i + 1) = a + 1 + i by omega] at this)
      rw [show a + (k + 1) = a + 1 + k by omega, this]
      rfl

/-- Bytes outside those that a write puts stay. -/
theorem byte_setBytes_out {s : State} {a x : Nat} (bs : List Byte) (h : x < a ∨ a + bs.length ≤ x) : (s.setBytes a bs).byte x = s.byte x :=
  byte_putBytes_out bs h

/-- The bytes that a write puts read as written, where their addresses exist. -/
theorem byte_setBytes_in {s : State} {a k : Nat} (bs : List Byte) (hk : k < bs.length) (h : ∀ i < bs.length, memAddr (a + i) = true) :
    (s.setBytes a bs).byte (a + k) = bs[k] := byte_putBytes_in bs hk h

theorem leBytes_length (n v : Nat) : (leBytes n v).length = n := by
  induction n generalizing v with
  | zero => rfl
  | succ n ih => simp [leBytes, ih]

theorem leBytes_get (n v k : Nat) (h : k < (leBytes n v).length) : (leBytes n v)[k] = BitVec.ofNat 8 (v / 256 ^ k) := by
  induction n generalizing v k with
  | zero => simp [leBytes] at h
  | succ n ih =>
    cases k with
    | zero => simp [leBytes]
    | succ k =>
      simp only [leBytes, List.getElem_cons_succ]
      rw [ih, pow_succ, Nat.div_div_eq_div_mul, Nat.mul_comm]

theorem ofLe_leBytes (n v : Nat) : ofLe (leBytes n v) = v % 256 ^ n := by
  induction n generalizing v with
  | zero => simp [leBytes, ofLe, Nat.mod_one]
  | succ n ih =>
    simp only [leBytes, ofLe, ih, BitVec.toNat_ofNat]
    have e : (256 : Nat) ^ (n + 1) = 256 * 256 ^ n := by rw [pow_succ, Nat.mul_comm]
    rw [e]
    exact (Nat.mod_mul (a := 256) (b := 256 ^ n) (x := v)).symm

theorem bytes_congr {s t : State} {a n : Nat} (h : ∀ k < n, t.byte (a + k) = s.byte (a + k)) : t.bytes a n = s.bytes a n := by
  induction n generalizing a with
  | zero => rfl
  | succ n ih =>
    unfold State.bytes
    rw [show t.byte a = s.byte a by simpa using h 0 (by omega), ih]
    intro k hk
    have := h (k + 1) (by omega)
    rwa [show a + (k + 1) = a + 1 + k by omega] at this

theorem bytes_setBytes {s : State} {a : Nat} (bs : List Byte) (h : ∀ i < bs.length, memAddr (a + i) = true) : (s.setBytes a bs).bytes a bs.length = bs := by
  have len : ∀ (u : State) (a n : Nat), (u.bytes a n).length = n := by
    intro u a n
    induction n generalizing a with
    | zero => rfl
    | succ n ih => simp [State.bytes, ih]
  have get : ∀ (u : State) (a n k : Nat) (hk : k < (u.bytes a n).length), (u.bytes a n)[k] = u.byte (a + k) := by
    intro u a n
    induction n generalizing a with
    | zero => intro k hk; simp [State.bytes] at hk
    | succ n ih =>
      intro k hk
      cases k with
      | zero => rfl
      | succ k => simp only [State.bytes, List.getElem_cons_succ, ih]; congr 1; omega
  apply List.ext_getElem (len ..)
  intro k h1 h2
  rw [get, byte_setBytes_in bs h2 h]

/-- A number read back from the bytes that it was written to. -/
theorem memN_setBytes {s : State} {a n v : Nat} (h : ∀ i < n, memAddr (a + i) = true) : (s.setBytes a (leBytes n v)).memN a n = v % 256 ^ n := by
  have := bytes_setBytes (s := s) (a := a) (leBytes n v) (by rwa [leBytes_length])
  rw [leBytes_length] at this
  rw [State.memN, this, ofLe_leBytes]

/-- DMEM of an engine exists. -/
theorem memAddr_dmem (n : Fin 12) {i : Nat} (h : i < 0x10000) : memAddr (0x44090000 + n.val * 0x100000 + i) = true := by
  unfold memAddr
  simp only [Bool.or_eq_true, Bool.and_eq_true, decide_eq_true_eq]
  omega

end Sys2Proof.Machine
end

