-- ==== Sys2Proof/Laws/Crypto.lean ====
section
/-! SUPPORT. Lengths of the AES-128 forms, and that AEAD_AES_SIV_CMAC_256 opens what it sealed. -/

namespace Sys2Proof.Machine

@[simp] theorem xorBytes_length (a b : List Byte) : (xorBytes a b).length = Nat.min a.length b.length := by
  simp only [xorBytes, List.length_zipWith]

theorem aesSubShift_length (s : List Byte) : (aesSubShift s).length = 16 := by
  simp [aesSubShift, shiftRowsIx]

/-- Every round key is as long as the first. -/
theorem aesExpand_length : ∀ (n : Nat) (rc : Byte) (k : List Byte), k.length = 16 → ∀ x ∈ aesExpand n rc k, x.length = 16
  | 0, _, _, _, x, hx => by simp [aesExpand] at hx
  | n + 1, rc, k, hk, x, hx => by
    simp only [aesExpand, List.mem_cons] at hx
    rcases hx with rfl | hx
    · simp [slice, hk]
    · exact aesExpand_length n (xtime rc) _ (by simp [slice, hk]) x hx

theorem aesRounds_length : ∀ (ks : List (List Byte)) (s : List Byte), ks ≠ [] → (∀ k ∈ ks, k.length = 16) → (aesRounds ks s).length = 16
  | [], _, h, _ => absurd rfl h
  | [k], s, _, h => by simp [aesRounds, aesSubShift_length, h k (by simp)]
  | k :: k' :: ks, s, _, h => by
    rw [aesRounds]
    · exact aesRounds_length (k' :: ks) _ (by simp) fun x hx => h x (List.mem_cons_of_mem _ hx)
    · simp

/-- A block of AES-128 under a key of 16 bytes has 16 bytes. -/
theorem aes128_length {key : List Byte} (hk : key.length = 16) (blk : List Byte) : (aes128 key blk).length = 16 :=
  aesRounds_length _ _ (by rw [aesExpand]; exact List.cons_ne_nil _ _) (aesExpand_length 10 1 key hk)

theorem ctrStream_length {key : List Byte} (hk : key.length = 16) : ∀ (n c : Nat), (ctrStream key n c).length = 16 * n
  | 0, _ => rfl
  | n + 1, c => by simp only [ctrStream, List.length_append, aes128_length hk, ctrStream_length hk n]; omega

/-- Exclusive or with a stream at least as long, twice. -/
theorem xorBytes_twice : ∀ (a k : List Byte), a.length ≤ k.length → xorBytes (xorBytes a k) k = a
  | [], _, _ => by simp [xorBytes]
  | _ :: _, [], h => absurd h (by simp)
  | x :: a, y :: k, h => by
    have ih := xorBytes_twice a k (by simpa using h)
    simp only [xorBytes, List.zipWith_cons_cons] at ih ⊢
    rw [ih, BitVec.xor_assoc, BitVec.xor_self, BitVec.xor_zero]

theorem sivCtr_length {key : List Byte} (hk : key.length = 16) (iv data : List Byte) : (sivCtr key iv data).length = data.length := by
  simp only [sivCtr, xorBytes_length, ctrStream_length hk]
  exact Nat.min_eq_left (by omega)

/-- What SIV sealed under a key of 32 bytes, it opens (R232). -/
theorem sivOpen_sivSeal {key : List Byte} (hk : key.length = 32) (ads : List (List Byte)) (pt : List Byte) :
    sivOpen key ads (sivSeal key ads pt).1 (sivSeal key ads pt).2 = some pt := by
  have hd : (key.drop 16).length = 16 := by simp [hk]
  have hp : sivCtr (key.drop 16) (sivSeal key ads pt).1 (sivSeal key ads pt).2 = pt := by
    have hl : ((sivSeal key ads pt).2).length = pt.length := sivCtr_length hd _ _
    conv => lhs; unfold sivCtr
    rw [hl]
    simp only [sivSeal, sivCtr]
    exact xorBytes_twice _ _ (by rw [ctrStream_length hd]; omega)
  simp only [sivOpen, hp]
  exact if_pos rfl

theorem cmacChain_length {key : List Byte} (hk : key.length = 16) : ∀ (n : Nat) (x m : List Byte), (cmacChain key (n + 1) x m).length = 16 := by
  intro n
  induction n with
  | zero => intro x m; simp only [cmacChain]; exact aes128_length hk _
  | succ n ih => intro x m; rw [cmacChain]; exact ih _ _

theorem cmac_length {key : List Byte} (hk : key.length = 16) (msg : List Byte) : (cmac key msg).length = 16 := by
  unfold cmac
  simp only []
  generalize hn : (if (msg.length + 15) / 16 = 0 then 1 else (msg.length + 15) / 16) = n
  obtain ⟨m, rfl⟩ : ∃ m, n = m + 1 := ⟨n - 1, by split at hn <;> omega⟩
  exact cmacChain_length hk _ _ _

theorem sivSeal_length {key : List Byte} (hk : key.length = 32) (ads : List (List Byte)) (pt : List Byte) :
    (sivSeal key ads pt).1.length = 16 ∧ (sivSeal key ads pt).2.length = pt.length :=
  ⟨cmac_length (by simp [hk]) _, sivCtr_length (by simp [hk]) _ _⟩

theorem padTo_length (n : Nat) (x : List Byte) : (padTo n x).length = n := by
  simp [padTo]; omega

/-- A cookie of R229: its length, and its fields as they stand. -/
theorem cookieOf_fields {k : Delivered} {nonce : List Byte} (hn : nonce.length = 16) (c2s s2c : List Byte) :
    let b := cookieOf k nonce c2s s2c
    let pt := beBytes 2 15 ++ [0#8, 0#8] ++ padTo 32 c2s ++ padTo 32 s2c
    let x := sivSeal (digestBytes k.key) [beBytes 4 k.id.toNat, nonce] pt
    b.length = 104 ∧ slice b 0 4 = beBytes 4 k.id.toNat ∧ slice b 4 16 = nonce ∧ slice b 20 16 = x.1 ∧ slice b 36 68 = x.2 := by
  intro b pt x
  have hb : ∀ n v, (beBytes n v).length = n := fun n v => by simp [beBytes, leBytes_length]
  have hpt : pt.length = 68 := by simp [pt, hb, padTo_length]
  have hx := sivSeal_length (leBytes_length 32 k.key.toNat) [beBytes 4 k.id.toNat, nonce] pt
  have h1 : x.1.length = 16 := hx.1
  have h2 : x.2.length = 68 := hx.2.trans hpt
  have hbe : b = beBytes 4 k.id.toNat ++ nonce ++ x.1 ++ x.2 := rfl
  rw [hbe]
  generalize hi : beBytes 4 k.id.toNat = i
  have hi4 : i.length = 4 := hi ▸ hb 4 _
  refine ⟨by simp [hi4, hn, h1, h2], ?_, ?_, ?_, ?_⟩
  · simp [slice, hi4]
  · simp [slice, hi4, hn]
  · simp [slice, List.drop_append, List.take_append, hi4, hn, h1]
  · have h36 : (i ++ nonce ++ x.1).length = 36 := by simp [hi4, hn, h1]
    rw [slice, ← h36, List.drop_left, List.take_of_length_le (by omega)]

/-- Bytes of the number that they spell. -/
theorem leBytes_ofLe : ∀ bs : List Byte, leBytes bs.length (ofLe bs) = bs
  | [] => rfl
  | b :: bs => by
    simp only [List.length_cons, leBytes, ofLe]
    have h1 : BitVec.ofNat 8 (b.toNat + 256 * ofLe bs) = b := by
      apply BitVec.eq_of_toNat_eq; simp; omega
    have h2 : (b.toNat + 256 * ofLe bs) / 256 = ofLe bs := by have := b.isLt; omega
    rw [h1, h2, leBytes_ofLe bs]
theorem ofLe_lt : ∀ bs : List Byte, ofLe bs < 256 ^ bs.length
  | [] => by simp [ofLe]
  | b :: bs => by have := ofLe_lt bs; have := b.isLt; simp only [ofLe, List.length_cons, Nat.pow_succ]; omega

end Sys2Proof.Machine
end

