-- ==== Sys2Proof/Laws/Regs.lean ====
section
/-! SUPPORT. Laws of the register operations: what `set` writes, and what it leaves. -/

namespace Sys2Proof.Machine

/-! ### Words -/

/-- A word that the sealed store does not hold reads as it was written. -/
theorem word_setWord_same {s : State} {a : Nat} (w : Word) (h : rwsOff a = none) : (s.setWord a w).word a = w := by
  simp only [State.setWord, State.word, h, sget_sput_same]
  by_cases hw : w = coldWord a <;> simp [hw]

/-- A write of one word leaves every other word. -/
theorem word_setWord_ne {s : State} {a b : Nat} (w : Word) (h : b ≠ a) : (s.setWord a w).word b = s.word b := by
  unfold State.setWord
  split
  · rfl
  · unfold State.word
    split
    · rfl
    · rw [sget_sput_ne _ h]

/-- A sealed word is not written. -/
theorem setWord_sealed {s : State} {a : Nat} (w : Word) (h : (rwsOff a).isSome) : s.setWord a w = s := by
  unfold State.setWord
  cases hh : rwsOff a with
  | none => simp [hh] at h
  | some o => rfl

/-- The registers keep their canonical form. -/
theorem regs_wf_setWord {s : State} (a : Nat) (w : Word) (h : Regs.wf s.regs = true) : Regs.wf (s.setWord a w).regs = true := by
  unfold State.setWord
  split
  · exact h
  · exact sput_wf (fun a w => w == coldWord a) a w h

/-! ### Runs of words -/

theorem word_setWordsN_ne {s : State} {a b : Nat} (v n : Nat) (h : ∀ k < n, b ≠ a + 4 * k) :
    (s.setWordsN a v n).word b = s.word b := by
  induction n generalizing s a v with
  | zero => rfl
  | succ n ih =>
    unfold State.setWordsN
    rw [ih, word_setWord_ne _ (by simpa using h 0 (by omega))]
    intro k hk
    have := h (k + 1) (by omega)
    omega

theorem wordsN_lt (s : State) (a n : Nat) : s.wordsN a n < 2 ^ (32 * n) := by
  induction n generalizing a with
  | zero => simp [State.wordsN]
  | succ n ih =>
    unfold State.wordsN
    have h1 := (s.word a).isLt
    have h2 := ih (a + 4)
    have h3 : 2 ^ (32 * (n + 1)) = 2 ^ 32 * 2 ^ (32 * n) := by rw [← pow_add]; congr 1; omega
    rw [h3]
    calc (s.word a).toNat + 2 ^ 32 * s.wordsN (a + 4) n
        < 2 ^ 32 + 2 ^ 32 * s.wordsN (a + 4) n := by omega
      _ = 2 ^ 32 * (s.wordsN (a + 4) n + 1) := by ring
      _ ≤ 2 ^ 32 * 2 ^ (32 * n) := Nat.mul_le_mul_left _ h2

theorem wordsN_congr {s t : State} {a n : Nat} (h : ∀ k < n, t.word (a + 4 * k) = s.word (a + 4 * k)) : t.wordsN a n = s.wordsN a n := by
  induction n generalizing a with
  | zero => rfl
  | succ n ih =>
    have h0 := h 0 (by omega)
    simp only [Nat.mul_zero, Nat.add_zero] at h0
    unfold State.wordsN
    rw [h0, ih]
    intro k hk
    have := h (k + 1) (by omega)
    rwa [show a + 4 * (k + 1) = a + 4 + 4 * k by omega] at this

theorem wordsN_setWordsN_same {s : State} {a v n : Nat} (h : ∀ k < n, rwsOff (a + 4 * k) = none) :
    (s.setWordsN a v n).wordsN a n = v % 2 ^ (32 * n) := by
  induction n generalizing s a v with
  | zero => simp [State.wordsN, Nat.mod_one]
  | succ n ih =>
    unfold State.setWordsN State.wordsN
    rw [word_setWordsN_ne _ _ (by intro k _; omega), word_setWord_same _ (by simpa using h 0 (by omega)),
      ih (by intro k hk; have := h (k + 1) (by omega); rwa [show a + 4 * (k + 1) = a + 4 + 4 * k by omega] at this)]
    rw [BitVec.toNat_ofNat, show 32 * (n + 1) = 32 + 32 * n by omega, pow_add]
    exact Nat.mod_mul.symm

/-! ### Bit fields -/

theorem setBits_low (v lsb w x : Nat) : setBits v lsb w x = v % 2 ^ lsb + (x % 2 ^ w) * 2 ^ lsb + v / 2 ^ (lsb + w) * 2 ^ (lsb + w) := by
  unfold setBits bits
  have e1 := Nat.div_add_mod v (2 ^ lsb)
  have e2 := Nat.div_add_mod (v / 2 ^ lsb) (2 ^ w)
  have e3 : v / 2 ^ (lsb + w) = v / 2 ^ lsb / 2 ^ w := by rw [pow_add, Nat.div_div_eq_div_mul]
  have e4 : 2 ^ (lsb + w) = 2 ^ lsb * 2 ^ w := pow_add ..
  rw [e3, e4]
  generalize v / 2 ^ lsb / 2 ^ w = q at *
  generalize v / 2 ^ lsb % 2 ^ w = r at *
  generalize v % 2 ^ lsb = m at *
  have e5 : v = 2 ^ lsb * (2 ^ w * q + r) + m := by rw [e2]; exact e1.symm
  have e6 : v - r * 2 ^ lsb = m + q * (2 ^ lsb * 2 ^ w) := by
    rw [e5]
    have : 2 ^ lsb * (2 ^ w * q + r) + m = r * 2 ^ lsb + (m + q * (2 ^ lsb * 2 ^ w)) := by ring
    omega
  rw [e6]; ring

theorem bits_setBits_same (v lsb w x : Nat) : bits (setBits v lsb w x) lsb w = x % 2 ^ w := by
  rw [setBits_low]
  unfold bits
  have h1 : v % 2 ^ lsb < 2 ^ lsb := Nat.mod_lt _ (by positivity)
  have : v % 2 ^ lsb + x % 2 ^ w * 2 ^ lsb + v / 2 ^ (lsb + w) * 2 ^ (lsb + w)
      = v % 2 ^ lsb + 2 ^ lsb * (x % 2 ^ w + 2 ^ w * (v / 2 ^ (lsb + w))) := by rw [pow_add]; ring
  rw [this, Nat.add_mul_div_left _ _ (by positivity), Nat.div_eq_of_lt h1, Nat.zero_add, Nat.add_mul_mod_self_left, Nat.mod_mod]

theorem setBits_lt {v lsb w n : Nat} (x : Nat) (hv : v < 2 ^ n) (h : lsb + w ≤ n) : setBits v lsb w x < 2 ^ n := by
  rw [setBits_low]
  have h1 : v % 2 ^ lsb < 2 ^ lsb := Nat.mod_lt _ (by positivity)
  have h2 : x % 2 ^ w < 2 ^ w := Nat.mod_lt _ (by positivity)
  obtain ⟨d, rfl⟩ := Nat.le.dest h
  have h3 : v / 2 ^ (lsb + w) < 2 ^ d := by rw [Nat.div_lt_iff_lt_mul (by positivity), mul_comm, ← pow_add]; exact hv
  have h4 : v % 2 ^ lsb + x % 2 ^ w * 2 ^ lsb < 2 ^ (lsb + w) := by
    rw [pow_add]
    calc v % 2 ^ lsb + x % 2 ^ w * 2 ^ lsb < 2 ^ lsb + x % 2 ^ w * 2 ^ lsb := by omega
      _ = (x % 2 ^ w + 1) * 2 ^ lsb := by ring
      _ ≤ 2 ^ w * 2 ^ lsb := Nat.mul_le_mul_right _ h2
      _ = 2 ^ lsb * 2 ^ w := by ring
  calc _ < 2 ^ (lsb + w) + v / 2 ^ (lsb + w) * 2 ^ (lsb + w) := by omega
    _ = (v / 2 ^ (lsb + w) + 1) * 2 ^ (lsb + w) := by ring
    _ ≤ 2 ^ d * 2 ^ (lsb + w) := Nat.mul_le_mul_right _ h3
    _ = 2 ^ (lsb + w + d) := by rw [pow_add _ _ d]; ring

theorem testBit_bits (v lsb w i : Nat) : (bits v lsb w).testBit i = (decide (i < w) && v.testBit (lsb + i)) := by
  unfold bits
  rw [Nat.testBit_mod_two_pow, Nat.testBit_div_two_pow]
  rw [Nat.add_comm]

theorem testBit_setBits_out {v lsb w x i : Nat} (h : i < lsb ∨ lsb + w ≤ i) : (setBits v lsb w x).testBit i = v.testBit i := by
  rw [setBits_low]
  have h2 : x % 2 ^ w < 2 ^ w := Nat.mod_lt _ (by positivity)
  have h1 : v % 2 ^ lsb < 2 ^ lsb := Nat.mod_lt _ (by positivity)
  rcases h with h | h
  · have e : v % 2 ^ lsb + x % 2 ^ w * 2 ^ lsb + v / 2 ^ (lsb + w) * 2 ^ (lsb + w)
        = 2 ^ lsb * (x % 2 ^ w + 2 ^ w * (v / 2 ^ (lsb + w))) + v % 2 ^ lsb := by rw [pow_add]; ring
    rw [e, Nat.testBit_two_pow_mul_add _ h1, if_pos h, Nat.testBit_mod_two_pow]
    simp [h]
  · have h4 : v % 2 ^ lsb + x % 2 ^ w * 2 ^ lsb < 2 ^ (lsb + w) := by
      rw [pow_add]
      calc v % 2 ^ lsb + x % 2 ^ w * 2 ^ lsb < 2 ^ lsb + x % 2 ^ w * 2 ^ lsb := by omega
        _ = (x % 2 ^ w + 1) * 2 ^ lsb := by ring
        _ ≤ 2 ^ w * 2 ^ lsb := Nat.mul_le_mul_right _ h2
        _ = 2 ^ lsb * 2 ^ w := by ring
    rw [show v % 2 ^ lsb + x % 2 ^ w * 2 ^ lsb + v / 2 ^ (lsb + w) * 2 ^ (lsb + w)
        = 2 ^ (lsb + w) * (v / 2 ^ (lsb + w)) + (v % 2 ^ lsb + x % 2 ^ w * 2 ^ lsb) by ring,
      Nat.testBit_two_pow_mul_add _ h4, if_neg (by omega), Nat.testBit_div_two_pow]
    congr 1; omega

theorem bits_setBits_ne {v lsb w x lsb' w' : Nat} (h : lsb' + w' ≤ lsb ∨ lsb + w ≤ lsb') :
    bits (setBits v lsb w x) lsb' w' = bits v lsb' w' := by
  apply Nat.eq_of_testBit_eq
  intro i
  rw [testBit_bits, testBit_bits]
  by_cases hi : i < w'
  · rw [testBit_setBits_out (by omega)]
  · simp [hi]

/-! ### Fields -/

/-- Whether no word of a field lies in the sealed store. -/
def Fld.plain (f : Fld) (i : Nat) : Prop := ∀ k < f.words, rwsOff (f.at i + 4 * k) = none

theorem words_fit (f : Fld) : f.lsb + f.width ≤ 32 * f.words := by unfold Fld.words; omega

/-- A field reads as it was set. -/
theorem get_set_same {s : State} {f : Fld} {i : Nat} (v : Nat) (h : f.plain i) : (s.set f i v).get f i = v % 2 ^ f.width := by
  unfold State.get State.set
  rw [wordsN_setWordsN_same h, Nat.mod_eq_of_lt (setBits_lt _ (wordsN_lt ..) (words_fit f)), bits_setBits_same]

/-- A field in other words stays. -/
theorem get_set_apart {s : State} {f g : Fld} {i j v : Nat} (h : g.at j + 4 * g.words ≤ f.at i ∨ f.at i + 4 * f.words ≤ g.at j) :
    (s.set f i v).get g j = s.get g j := by
  unfold State.get State.set
  congr 1
  refine wordsN_congr fun k hk => word_setWordsN_ne _ _ fun k' hk' => ?_
  omega

/-- Another field of the same words stays. -/
theorem get_set_beside {s : State} {f g : Fld} {i j v : Nat} (ha : g.at j = f.at i) (hw : g.words = f.words)
    (hb : g.lsb + g.width ≤ f.lsb ∨ f.lsb + f.width ≤ g.lsb) (hp : f.plain i) : (s.set f i v).get g j = s.get g j := by
  unfold State.get State.set
  rw [ha, hw, wordsN_setWordsN_same hp, Nat.mod_eq_of_lt (setBits_lt _ (wordsN_lt ..) (words_fit f)), bits_setBits_ne hb]

/-- A one-bit field reads as it was set. -/
theorem flag_setFlag_same {s : State} {f : Fld} {i : Nat} (b : Bool) (h : f.plain i) (hw : f.width = 1) :
    (s.setFlag f i b).flag f i = b := by
  unfold State.flag State.setFlag
  rw [get_set_same _ h, hw]
  cases b <;> rfl

end Sys2Proof.Machine
end

