-- ==== Sys2Proof/Laws/Run.lean ====
section
/-! SUPPORT. What an engine's completing instruction changes: laws of counting, of interrupt sources and of the program counter. -/

namespace Sys2Proof.Machine

/-! ### Operations that touch register words of a set and what HST holds, and nothing else -/

/-- `t` is `s` but for register words of a set and what HST holds beside its registers. -/
structure Within (p : Nat → Bool) (s t : State) : Prop where
  rest : { t with regs := s.regs, hst := s.hst } = s
  word : ∀ a, p a = false → t.word a = s.word a

theorem Within.refl (p : Nat → Bool) (s : State) : Within p s s := ⟨rfl, fun _ _ => rfl⟩

theorem Within.trans {p : Nat → Bool} {r s t : State} (h : Within p r s) (k : Within p s t) : Within p r t := by
  refine ⟨?_, fun a ha => (k.word a ha).trans (h.word a ha)⟩
  have h1 := h.rest
  have h2 := k.rest
  rw [← h1, ← h2]

theorem Within.mono {p q : Nat → Bool} {s t : State} (h : Within p s t) (hq : ∀ a, q a = false → p a = false) : Within q s t :=
  ⟨h.rest, fun a ha => h.word a (hq a ha)⟩

/-- A field whose words a set does not hold keeps its value. -/
theorem Within.get {p : Nat → Bool} {s t : State} (h : Within p s t) (f : Fld) (i : Nat)
    (hf : ∀ k < f.words, p (f.at i + 4 * k) = false) : t.get f i = s.get f i := by
  unfold State.get
  congr 1
  exact wordsN_congr fun k hk => h.word _ (hf k hk)

theorem Within.flag {p : Nat → Bool} {s t : State} (h : Within p s t) (f : Fld) (i : Nat)
    (hf : ∀ k < f.words, p (f.at i + 4 * k) = false) : t.flag f i = s.flag f i := by
  unfold State.flag; rw [h.get f i hf]

theorem setWord_regs (s : State) (a : Nat) (w : Word) : ∃ r, s.setWord a w = { s with regs := r } := by
  unfold State.setWord; split <;> exact ⟨_, rfl⟩

theorem setWordsN_regs (s : State) (a v n : Nat) : ∃ r, s.setWordsN a v n = { s with regs := r } := by
  induction n generalizing s a v with
  | zero => exact ⟨s.regs, rfl⟩
  | succ n ih =>
    obtain ⟨r, hr⟩ := setWord_regs s a (BitVec.ofNat 32 v)
    obtain ⟨q, hq⟩ := ih (s.setWord a (BitVec.ofNat 32 v)) (a + 4) (v / 2 ^ 32)
    exact ⟨q, by unfold State.setWordsN; rw [hq, hr]⟩

theorem set_regs (s : State) (f : Fld) (i v : Nat) : ∃ r, s.set f i v = { s with regs := r } := setWordsN_regs ..

theorem within_set {p : Nat → Bool} (s : State) (f : Fld) (i v : Nat) (hf : ∀ k < f.words, p (f.at i + 4 * k) = true) :
    Within p s (s.set f i v) := by
  obtain ⟨r, hr⟩ := set_regs s f i v
  refine ⟨by rw [hr], fun a ha => ?_⟩
  unfold State.set
  exact word_setWordsN_ne _ _ fun k hk e => by rw [e, hf k hk] at ha; exact absurd ha (by decide)

theorem within_ite {p : Nat → Bool} {s t u : State} {c : Prop} [Decidable c] (h : Within p s t) (k : Within p s u) :
    Within p s (if c then t else u) := by split; exact h; exact k

theorem within_msgAsk {p : Nat → Bool} (s : State) (src : Nat) : Within p s (s.msgAsk src) := by
  unfold State.msgAsk
  repeat' split
  all_goals first
    | exact Within.refl p s
    | exact ⟨rfl, fun _ _ => rfl⟩
    | (dsimp only; split <;> [(split <;> exact ⟨rfl, fun _ _ => rfl⟩); exact Within.refl p s])

theorem within_irq {p : Nat → Bool} (s : State) (src : Nat) (h0 : p 0x500030 = true) (h1 : p 0x500034 = true) : Within p s (s.irq src) := by
  unfold State.irq
  dsimp only
  split
  · exact Within.refl p s
  · refine (within_set s R.HST_IRQ_PEND 0 _ ?_).trans (within_msgAsk _ _)
    intro k hk
    have : k < 2 := hk
    interval_cases k <;> assumption

theorem within_raiseBit {p : Nat → Bool} (s : State) (f : Fld) (i b : Nat) (h0 : p 0x500030 = true) (h1 : p 0x500034 = true)
    (hf : ∀ k < f.words, p (f.at i + 4 * k) = true) : Within p s (s.raiseBit f i b) := by
  unfold State.raiseBit
  dsimp only
  have h := within_set s f i (s.get f i ||| 2 ^ b) hf
  split
  · exact h
  · unfold State.irqEdge
    split
    · exact h.trans (within_irq _ _ h0 h1)
    · exact h

theorem within_foldl {p : Nat → Bool} {s : State} {α : Type} (l : List α) (g : State → α → State) (h : ∀ u x, Within p u (g u x)) :
    Within p s (l.foldl g s) := by
  induction l generalizing s with
  | nil => exact Within.refl p s
  | cons x l ih => exact (h s x).trans ih

/-- The words of OBS that events count in, and HST_IRQ_PEND. -/
def obsWord (a : Nat) : Bool := (decide (0x300000 ≤ a) && decide (a < 0x304000)) || (decide (0x500030 ≤ a) && decide (a < 0x500038))

theorem within_obs (s : State) (code loc k : Nat) : Within obsWord s (s.obs code loc k) := by
  unfold State.obs State.forN
  have h : ∀ (u : State), ∀ c < 32, Within obsWord u (if u.obsWants c (code * 1024 + loc) then u.obsAdd c k else u) := by
    intro u c hc
    split
    · unfold State.obsAdd
      have h1 : Within obsWord u (u.set R.OBS_CNT c (u.get R.OBS_CNT c + k)) := by
        refine within_set _ _ _ _ fun j hj => ?_
        have hj : j < 2 := hj
        simp only [obsWord, Bool.or_eq_true, Bool.and_eq_true, decide_eq_true_eq]
        simp only [Fld.at, R.OBS_CNT]
        omega
      dsimp only
      split
      · exact h1.trans (within_raiseBit _ _ _ _ rfl rfl fun j hj => by have hj : j < 1 := hj; interval_cases j; rfl)
      · exact h1
    · exact Within.refl _ _
  have : ∀ (l : List Nat), (∀ c ∈ l, c < 32) → ∀ u : State, Within obsWord u (l.foldl (fun s i => (fun k' s => if s.obsWants k' (code * 1024 + loc) then s.obsAdd k' k else s) i s) u) := by
    intro l
    induction l with
    | nil => intro _ u; exact Within.refl _ _
    | cons c l ih =>
      intro hl u
      exact (h u c (hl c (List.mem_cons_self ..))).trans (ih (fun d hd => hl d (List.mem_cons_of_mem _ hd)) _)
  exact this _ (fun c hc => List.mem_range.mp hc) s

/-! ### Counting an instruction (R253, R278, R472) -/

theorem Ran_words (n : Fin 12) : (∀ k < 2, countWord n (R.ENG_CYCLES.at n + 4 * k) = true) ∧ ∀ k < 2, countWord n (R.ENG_RETIRED.at n + 4 * k) = true := by
  refine ⟨fun k hk => ?_, fun k hk => ?_⟩ <;>
    simp only [countWord, Bool.or_eq_true, Bool.and_eq_true, decide_eq_true_eq] <;> simp only [Fld.at, R.ENG_CYCLES, R.ENG_RETIRED] <;> omega

theorem countWord_obs {n : Fin 12} (a : Nat) (h : countWord n a = false) : obsWord a = false := by
  simp only [countWord, obsWord, Bool.or_eq_false_iff] at *
  exact ⟨h.1.2, h.2⟩

/-- A counter of slots that is one of OBS. -/
def Fld.td (f : Fld) : Prop := f.words = 2 ∧ f.stride = 0x40 ∧ 0x303000 ≤ f.addr ∧ f.addr < 0x303039 ∧ f.lsb = 0 ∧ f.width = 64

theorem within_td {n : Fin 12} (s : State) (f : Fld) (v : Nat) (hf : f.td) : Within (countWord n) s (s.set f n v) := by
  refine within_set _ _ _ _ fun k hk => ?_
  obtain ⟨h1, h2, h3, h4, _, _⟩ := hf
  rw [h1] at hk
  simp only [countWord, Bool.or_eq_true, Bool.and_eq_true, decide_eq_true_eq]
  simp only [Fld.at, h2]
  omega

theorem eng_plain (n : Fin 12) : R.ENG_CYCLES.plain n ∧ R.ENG_RETIRED.plain n := by
  have h : ∀ f : Fld, 0x1400000 ≤ f.addr → f.plain n := fun f hf k _ => by
    unfold rwsOff Fld.at
    rw [if_neg (by omega), if_neg (by omega), if_neg (by omega), if_neg (by omega), if_neg (by omega)]
  exact ⟨h _ (by decide), h _ (by decide)⟩

/-- Slots count in ENG_CYCLES of the engine and in words of OBS. -/
theorem within_slot (s : State) (n : Fin 12) (f : Fld) (k : Nat) (hf : f.td) :
    Within (countWord n) s (s.slot n f k) ∧ (s.slot n f k).get R.ENG_CYCLES n = (s.get R.ENG_CYCLES n + k) % 2 ^ 64
      ∧ (s.slot n f k).get R.ENG_RETIRED n = s.get R.ENG_RETIRED n := by
  have hc : Within (countWord n) s (s.bumpW R.ENG_CYCLES n k) := within_set _ _ _ _ (Ran_words n).1
  have c1 : (s.bumpW R.ENG_CYCLES n k).get R.ENG_CYCLES n = (s.get R.ENG_CYCLES n + k) % 2 ^ 64 := get_set_same _ (eng_plain n).1
  have c2 : (s.bumpW R.ENG_CYCLES n k).get R.ENG_RETIRED n = s.get R.ENG_RETIRED n :=
    get_set_apart (by simp only [Fld.at, R.ENG_CYCLES, R.ENG_RETIRED, Fld.words]; omega)
  unfold State.slot
  dsimp only
  split
  · have ht : Within (countWord n) (s.bumpW R.ENG_CYCLES n k) ((s.bumpW R.ENG_CYCLES n k).bumpW f n k) := within_td _ _ _ hf
    obtain ⟨h1, h2, h3, h4, h5, h6⟩ := hf
    have ap : ∀ g : Fld, g.words = 2 → 0x4000000 ≤ g.at n → ((s.bumpW R.ENG_CYCLES n k).bumpW f n k).get g n = (s.bumpW R.ENG_CYCLES n k).get g n := by
      intro g hg hg'
      refine get_set_apart (Or.inr ?_)
      have : f.at n = f.addr + 0x40 * n.val := by unfold Fld.at; rw [h2]
      omega
    have ob := within_obs ((s.bumpW R.ENG_CYCLES n k).bumpW f n k) 1 (n.val * 16 + 1) k
    have og : ∀ g : Fld, 0x4000000 ≤ g.at n → (((s.bumpW R.ENG_CYCLES n k).bumpW f n k).obs 1 (n.val * 16 + 1) k).get g n
        = ((s.bumpW R.ENG_CYCLES n k).bumpW f n k).get g n := by
      intro g hg
      refine ob.get g n fun j _ => ?_
      simp only [obsWord, Bool.or_eq_false_iff, Bool.and_eq_false_iff, decide_eq_false_iff_not]
      omega
    have e1 : 0x4000000 ≤ R.ENG_CYCLES.at n := by simp only [Fld.at, R.ENG_CYCLES]; omega
    have e2 : 0x4000000 ≤ R.ENG_RETIRED.at n := by simp only [Fld.at, R.ENG_RETIRED]; omega
    exact ⟨(hc.trans ht).trans (ob.mono countWord_obs), by rw [og _ e1, ap _ rfl e1, c1], by rw [og _ e2, ap _ rfl e2, c2]⟩
  · exact ⟨hc, c1, c2⟩

theorem td_issue : R.OBS_TD_ISSUE.td := by unfold Fld.td; decide
theorem td_exec : R.OBS_TD_EXEC.td := by unfold Fld.td; decide
theorem td_redirect : R.OBS_TD_REDIRECT.td := by unfold Fld.td; decide

@[simp] theorem engine_setEng_same (s : State) (n : Fin 12) (e : Engine) : (s.setEng n e).engine n = e := by
  simp [State.setEng, State.engine]

theorem engine_setEng_ne (s : State) {n m : Fin 12} (e : Engine) (h : m ≠ n) : (s.setEng n e).engine m = s.engine m := by
  simp only [State.setEng, State.engine, Fin.getElem_fin]
  exact Vector.getElem_set_ne _ _ (fun k => h (Fin.ext k.symm))

@[simp] theorem get_setEng (s : State) (n : Fin 12) (e : Engine) (f : Fld) (i : Nat) : (s.setEng n e).get f i = s.get f i := by
  unfold State.get
  congr 1
  exact wordsN_congr fun _ _ => rfl

@[simp] theorem word_setEng (s : State) (n : Fin 12) (e : Engine) (a : Nat) : (s.setEng n e).word a = s.word a := rfl

/-- An instruction that completes counts. -/
theorem retired_within (s : State) (n : Fin 12) (pc : BitVec 16) (cost : Nat) (redirect : Bool) (hc : 1 ≤ cost) :
    ∃ u l, s.retired n pc cost redirect = u.setEng n { u.engine n with last := l } ∧ Within (countWord n) s u
      ∧ u.get R.ENG_CYCLES n = (s.get R.ENG_CYCLES n + cost) % 2 ^ 64 ∧ u.get R.ENG_RETIRED n = (s.get R.ENG_RETIRED n + 1) % 2 ^ 64 := by
  unfold State.retired
  dsimp only
  generalize hr : (if redirect = true then R.OBS_TD_REDIRECT else R.OBS_TD_EXEC) = f
  have hf : f.td := by subst hr; split; exact td_redirect; exact td_exec
  obtain ⟨a1, a2, a3⟩ := within_slot s n R.OBS_TD_ISSUE 1 td_issue
  obtain ⟨b1, b2, b3⟩ := within_slot (s.slot n R.OBS_TD_ISSUE 1) n f (cost - 1) hf
  generalize s.slot n R.OBS_TD_ISSUE 1 = u1 at *
  generalize u1.slot n f (cost - 1) = u2 at *
  have c1 : Within (countWord n) u2 (u2.bumpW R.ENG_RETIRED n 1) := within_set _ _ _ _ (Ran_words n).2
  have c2 : (u2.bumpW R.ENG_RETIRED n 1).get R.ENG_RETIRED n = (u2.get R.ENG_RETIRED n + 1) % 2 ^ 64 := get_set_same _ (eng_plain n).2
  have c3 : (u2.bumpW R.ENG_RETIRED n 1).get R.ENG_CYCLES n = u2.get R.ENG_CYCLES n :=
    get_set_apart (by simp only [Fld.at, R.ENG_CYCLES, R.ENG_RETIRED, Fld.words]; omega)
  generalize u2.bumpW R.ENG_RETIRED n 1 = u3 at *
  have e1 : u3.get R.ENG_CYCLES n = (s.get R.ENG_CYCLES n + cost) % 2 ^ 64 := by
    rw [c3, b2, a2, Nat.mod_add_mod]; congr 1; omega
  have e2 : u3.get R.ENG_RETIRED n = (s.get R.ENG_RETIRED n + 1) % 2 ^ 64 := by rw [c2, b3, a3]
  refine ⟨_, _, rfl, ?_, ?_, ?_⟩
  · refine ((a1.trans b1).trans c1).trans ?_
    split
    · exact (within_obs _ _ _ _).mono countWord_obs
    · exact Within.refl _ _
  all_goals
    split
    · rw [(within_obs u3 1 (n.val * 16) 1).get]
      · assumption
      · intro k hk
        simp only [obsWord, Bool.or_eq_false_iff, Bool.and_eq_false_iff, decide_eq_false_iff_not]
        simp only [Fld.at, R.ENG_CYCLES, R.ENG_RETIRED]
        omega
    · assumption

/-- An instruction that completes with the program counter moved: nothing else changes but what counts it. -/
theorem retired_ran (s : State) (n : Fin 12) (pc0 pc : BitVec 16) (cost : Nat) (redirect : Bool) (hc : 1 ≤ cost) :
    Ran n cost pc s ((s.setPc n pc).retired n pc0 cost redirect) := by
  obtain ⟨u, l, e, w, c, r⟩ := retired_within (s.setPc n pc) n pc0 cost redirect hc
  rw [e]
  have hu : u = { s.setPc n pc with regs := u.regs, hst := u.hst } := by
    have := w.rest
    rw [← this]
  have he : ∀ m, u.engine m = (s.setPc n pc).engine m := by intro m; rw [hu]; rfl
  refine ⟨?_, ?_, ?_, ?_, ?_, ?_, ?_⟩
  · simp [State.pc, he, State.setPc]
  · rw [engine_setEng_same, he n]; simp [State.setPc, State.pc]
  · intro m hm
    rw [engine_setEng_ne _ _ hm, he]
    exact engine_setEng_ne _ _ hm
  · rw [get_setEng, c]; simp [State.setPc]
  · rw [get_setEng, r]; simp [State.setPc]
  · intro a ha
    rw [word_setEng, w.word a ha]; rfl
  · rw [hu]; rfl

theorem next_ran (s : State) (n : Fin 12) (cost : Nat) (hc : 1 ≤ cost) : Ran n cost (s.pc n + 4) s (s.next n cost) :=
  retired_ran s n _ _ cost false hc

theorem transfer_ran (s : State) (n : Fin 12) (taken : Bool) (target : BitVec 16) :
    Ran n (if taken then 3 else 1) (if taken then target else s.pc n + 4) s (s.transfer n taken target) := by
  cases taken
  · exact next_ran s n 1 (by decide)
  · exact retired_ran s n _ target 3 true (by decide)

/-- An engine that is ready runs the instruction that its program counter stands at. -/
theorem issue_ready {s : State} {n : Fin 12} (h : s.ready n) {ws : List Word} (hw : s.fetched n ∈ ws) (uses : List EReg) (f : State → State) :
    s.issue ws n uses f = .next (f s) := by
  obtain ⟨h1, h2, h3, h4⟩ := h
  simp [State.issue, State.depend, State.corrected, h1, h2, h3, h4, hw]

/-- An engine whose word is another instruction's does nothing with this one. -/
theorem issue_other {s : State} {n : Fin 12} (h : s.fetchBad n = false) {ws : List Word} (hw : s.fetched n ∉ ws) (uses : List EReg)
    (f : State → State) : s.issue ws n uses f = .next s := by
  simp [State.issue, h, hw]

end Sys2Proof.Machine
end

