-- ==== Sys2Proof/Laws/State.lean ====
section
/-! SUPPORT. What the updates of State leave as it is, and what they write: one lemma per field per update. -/

namespace Sys2Proof.Machine

/-! ### setEng -/

@[simp] theorem State.setEng_regs (s : State) (n : Fin 12) (e : Engine) : (s.setEng n e).regs = s.regs := rfl
@[simp] theorem State.setEng_mem (s : State) (n : Fin 12) (e : Engine) : (s.setEng n e).mem = s.mem := rfl
@[simp] theorem State.setEng_bad (s : State) (n : Fin 12) (e : Engine) : (s.setEng n e).bad = s.bad := rfl
@[simp] theorem State.setEng_soft (s : State) (n : Fin 12) (e : Engine) : (s.setEng n e).soft = s.soft := rfl
@[simp] theorem State.setEng_pending (s : State) (n : Fin 12) (e : Engine) : (s.setEng n e).pending = s.pending := rfl
@[simp] theorem State.setEng_draw (s : State) (n : Fin 12) (e : Engine) : (s.setEng n e).draw = s.draw := rfl
@[simp] theorem State.setEng_answer (s : State) (n : Fin 12) (e : Engine) : (s.setEng n e).answer = s.answer := rfl
@[simp] theorem State.setEng_latch (s : State) (n : Fin 12) (e : Engine) : (s.setEng n e).latch = s.latch := rfl
@[simp] theorem State.setEng_holdw (s : State) (n : Fin 12) (e : Engine) : (s.setEng n e).holdw = s.holdw := rfl
@[simp] theorem State.setEng_time (s : State) (n : Fin 12) (e : Engine) : (s.setEng n e).time = s.time := rfl
@[simp] theorem State.setEng_knl (s : State) (n : Fin 12) (e : Engine) : (s.setEng n e).knl = s.knl := rfl
@[simp] theorem State.setEng_kspi (s : State) (n : Fin 12) (e : Engine) : (s.setEng n e).kspi = s.kspi := rfl
@[simp] theorem State.setEng_flt (s : State) (n : Fin 12) (e : Engine) : (s.setEng n e).flt = s.flt := rfl
@[simp] theorem State.setEng_refs (s : State) (n : Fin 12) (e : Engine) : (s.setEng n e).refs = s.refs := rfl
@[simp] theorem State.setEng_lsh (s : State) (n : Fin 12) (e : Engine) : (s.setEng n e).lsh = s.lsh := rfl
@[simp] theorem State.setEng_tim (s : State) (n : Fin 12) (e : Engine) : (s.setEng n e).tim = s.tim := rfl
@[simp] theorem State.setEng_eng (s : State) (n : Fin 12) (e : Engine) : (s.setEng n e).eng = s.eng.set n e := rfl
@[simp] theorem State.setEng_mtx (s : State) (n : Fin 12) (e : Engine) : (s.setEng n e).mtx = s.mtx := rfl
@[simp] theorem State.setEng_jobs (s : State) (n : Fin 12) (e : Engine) : (s.setEng n e).jobs = s.jobs := rfl
@[simp] theorem State.setEng_sec (s : State) (n : Fin 12) (e : Engine) : (s.setEng n e).sec = s.sec := rfl
@[simp] theorem State.setEng_syn (s : State) (n : Fin 12) (e : Engine) : (s.setEng n e).syn = s.syn := rfl
@[simp] theorem State.setEng_obsv (s : State) (n : Fin 12) (e : Engine) : (s.setEng n e).obsv = s.obsv := rfl
@[simp] theorem State.setEng_pwr (s : State) (n : Fin 12) (e : Engine) : (s.setEng n e).pwr = s.pwr := rfl
@[simp] theorem State.setEng_aon (s : State) (n : Fin 12) (e : Engine) : (s.setEng n e).aon = s.aon := rfl
@[simp] theorem State.setEng_gns (s : State) (n : Fin 12) (e : Engine) : (s.setEng n e).gns = s.gns := rfl
@[simp] theorem State.setEng_prt (s : State) (n : Fin 12) (e : Engine) : (s.setEng n e).prt = s.prt := rfl
@[simp] theorem State.setEng_hst (s : State) (n : Fin 12) (e : Engine) : (s.setEng n e).hst = s.hst := rfl
@[simp] theorem State.setEng_srv (s : State) (n : Fin 12) (e : Engine) : (s.setEng n e).srv = s.srv := rfl
@[simp] theorem State.setEng_pck (s : State) (n : Fin 12) (e : Engine) : (s.setEng n e).pck = s.pck := rfl
@[simp] theorem State.setEng_brc (s : State) (n : Fin 12) (e : Engine) : (s.setEng n e).brc = s.brc := rfl
@[simp] theorem State.setEng_adr (s : State) (n : Fin 12) (e : Engine) : (s.setEng n e).adr = s.adr := rfl
@[simp] theorem State.setEng_fch (s : State) (n : Fin 12) (e : Engine) : (s.setEng n e).fch = s.fch := rfl

/-! ### drawn -/

@[simp] theorem State.drawn_regs (s : State) : (s.drawn).regs = s.regs := rfl
@[simp] theorem State.drawn_mem (s : State) : (s.drawn).mem = s.mem := rfl
@[simp] theorem State.drawn_bad (s : State) : (s.drawn).bad = s.bad := rfl
@[simp] theorem State.drawn_soft (s : State) : (s.drawn).soft = s.soft := rfl
@[simp] theorem State.drawn_pending (s : State) : (s.drawn).pending = s.pending := rfl
@[simp] theorem State.drawn_draw (s : State) : (s.drawn).draw = s.draw + 1 := rfl
@[simp] theorem State.drawn_answer (s : State) : (s.drawn).answer = s.answer := rfl
@[simp] theorem State.drawn_latch (s : State) : (s.drawn).latch = s.latch := rfl
@[simp] theorem State.drawn_holdw (s : State) : (s.drawn).holdw = s.holdw := rfl
@[simp] theorem State.drawn_time (s : State) : (s.drawn).time = s.time := rfl
@[simp] theorem State.drawn_knl (s : State) : (s.drawn).knl = s.knl := rfl
@[simp] theorem State.drawn_kspi (s : State) : (s.drawn).kspi = s.kspi := rfl
@[simp] theorem State.drawn_flt (s : State) : (s.drawn).flt = s.flt := rfl
@[simp] theorem State.drawn_refs (s : State) : (s.drawn).refs = s.refs := rfl
@[simp] theorem State.drawn_lsh (s : State) : (s.drawn).lsh = s.lsh := rfl
@[simp] theorem State.drawn_tim (s : State) : (s.drawn).tim = s.tim := rfl
@[simp] theorem State.drawn_eng (s : State) : (s.drawn).eng = s.eng := rfl
@[simp] theorem State.drawn_mtx (s : State) : (s.drawn).mtx = s.mtx := rfl
@[simp] theorem State.drawn_jobs (s : State) : (s.drawn).jobs = s.jobs := rfl
@[simp] theorem State.drawn_sec (s : State) : (s.drawn).sec = s.sec := rfl
@[simp] theorem State.drawn_syn (s : State) : (s.drawn).syn = s.syn := rfl
@[simp] theorem State.drawn_obsv (s : State) : (s.drawn).obsv = s.obsv := rfl
@[simp] theorem State.drawn_pwr (s : State) : (s.drawn).pwr = s.pwr := rfl
@[simp] theorem State.drawn_aon (s : State) : (s.drawn).aon = s.aon := rfl
@[simp] theorem State.drawn_gns (s : State) : (s.drawn).gns = s.gns := rfl
@[simp] theorem State.drawn_prt (s : State) : (s.drawn).prt = s.prt := rfl
@[simp] theorem State.drawn_hst (s : State) : (s.drawn).hst = s.hst := rfl
@[simp] theorem State.drawn_srv (s : State) : (s.drawn).srv = s.srv := rfl
@[simp] theorem State.drawn_pck (s : State) : (s.drawn).pck = s.pck := rfl
@[simp] theorem State.drawn_brc (s : State) : (s.drawn).brc = s.brc := rfl
@[simp] theorem State.drawn_adr (s : State) : (s.drawn).adr = s.adr := rfl
@[simp] theorem State.drawn_fch (s : State) : (s.drawn).fch = s.fch := rfl

/-! ### reply -/

@[simp] theorem State.reply_regs (s : State) (w : Word) : (s.reply w).regs = s.regs := rfl
@[simp] theorem State.reply_mem (s : State) (w : Word) : (s.reply w).mem = s.mem := rfl
@[simp] theorem State.reply_bad (s : State) (w : Word) : (s.reply w).bad = s.bad := rfl
@[simp] theorem State.reply_soft (s : State) (w : Word) : (s.reply w).soft = s.soft := rfl
@[simp] theorem State.reply_pending (s : State) (w : Word) : (s.reply w).pending = s.pending := rfl
@[simp] theorem State.reply_draw (s : State) (w : Word) : (s.reply w).draw = s.draw := rfl
@[simp] theorem State.reply_answer (s : State) (w : Word) : (s.reply w).answer = .data w := rfl
@[simp] theorem State.reply_latch (s : State) (w : Word) : (s.reply w).latch = s.latch := rfl
@[simp] theorem State.reply_holdw (s : State) (w : Word) : (s.reply w).holdw = s.holdw := rfl
@[simp] theorem State.reply_time (s : State) (w : Word) : (s.reply w).time = s.time := rfl
@[simp] theorem State.reply_knl (s : State) (w : Word) : (s.reply w).knl = s.knl := rfl
@[simp] theorem State.reply_kspi (s : State) (w : Word) : (s.reply w).kspi = s.kspi := rfl
@[simp] theorem State.reply_flt (s : State) (w : Word) : (s.reply w).flt = s.flt := rfl
@[simp] theorem State.reply_refs (s : State) (w : Word) : (s.reply w).refs = s.refs := rfl
@[simp] theorem State.reply_lsh (s : State) (w : Word) : (s.reply w).lsh = s.lsh := rfl
@[simp] theorem State.reply_tim (s : State) (w : Word) : (s.reply w).tim = s.tim := rfl
@[simp] theorem State.reply_eng (s : State) (w : Word) : (s.reply w).eng = s.eng := rfl
@[simp] theorem State.reply_mtx (s : State) (w : Word) : (s.reply w).mtx = s.mtx := rfl
@[simp] theorem State.reply_jobs (s : State) (w : Word) : (s.reply w).jobs = s.jobs := rfl
@[simp] theorem State.reply_sec (s : State) (w : Word) : (s.reply w).sec = s.sec := rfl
@[simp] theorem State.reply_syn (s : State) (w : Word) : (s.reply w).syn = s.syn := rfl
@[simp] theorem State.reply_obsv (s : State) (w : Word) : (s.reply w).obsv = s.obsv := rfl
@[simp] theorem State.reply_pwr (s : State) (w : Word) : (s.reply w).pwr = s.pwr := rfl
@[simp] theorem State.reply_aon (s : State) (w : Word) : (s.reply w).aon = s.aon := rfl
@[simp] theorem State.reply_gns (s : State) (w : Word) : (s.reply w).gns = s.gns := rfl
@[simp] theorem State.reply_prt (s : State) (w : Word) : (s.reply w).prt = s.prt := rfl
@[simp] theorem State.reply_hst (s : State) (w : Word) : (s.reply w).hst = s.hst := rfl
@[simp] theorem State.reply_srv (s : State) (w : Word) : (s.reply w).srv = s.srv := rfl
@[simp] theorem State.reply_pck (s : State) (w : Word) : (s.reply w).pck = s.pck := rfl
@[simp] theorem State.reply_brc (s : State) (w : Word) : (s.reply w).brc = s.brc := rfl
@[simp] theorem State.reply_adr (s : State) (w : Word) : (s.reply w).adr = s.adr := rfl
@[simp] theorem State.reply_fch (s : State) (w : Word) : (s.reply w).fch = s.fch := rfl

/-! ### replyErr -/

@[simp] theorem State.replyErr_regs (s : State) : (s.replyErr).regs = s.regs := rfl
@[simp] theorem State.replyErr_mem (s : State) : (s.replyErr).mem = s.mem := rfl
@[simp] theorem State.replyErr_bad (s : State) : (s.replyErr).bad = s.bad := rfl
@[simp] theorem State.replyErr_soft (s : State) : (s.replyErr).soft = s.soft := rfl
@[simp] theorem State.replyErr_pending (s : State) : (s.replyErr).pending = s.pending := rfl
@[simp] theorem State.replyErr_draw (s : State) : (s.replyErr).draw = s.draw := rfl
@[simp] theorem State.replyErr_answer (s : State) : (s.replyErr).answer = .error := rfl
@[simp] theorem State.replyErr_latch (s : State) : (s.replyErr).latch = s.latch := rfl
@[simp] theorem State.replyErr_holdw (s : State) : (s.replyErr).holdw = s.holdw := rfl
@[simp] theorem State.replyErr_time (s : State) : (s.replyErr).time = s.time := rfl
@[simp] theorem State.replyErr_knl (s : State) : (s.replyErr).knl = s.knl := rfl
@[simp] theorem State.replyErr_kspi (s : State) : (s.replyErr).kspi = s.kspi := rfl
@[simp] theorem State.replyErr_flt (s : State) : (s.replyErr).flt = s.flt := rfl
@[simp] theorem State.replyErr_refs (s : State) : (s.replyErr).refs = s.refs := rfl
@[simp] theorem State.replyErr_lsh (s : State) : (s.replyErr).lsh = s.lsh := rfl
@[simp] theorem State.replyErr_tim (s : State) : (s.replyErr).tim = s.tim := rfl
@[simp] theorem State.replyErr_eng (s : State) : (s.replyErr).eng = s.eng := rfl
@[simp] theorem State.replyErr_mtx (s : State) : (s.replyErr).mtx = s.mtx := rfl
@[simp] theorem State.replyErr_jobs (s : State) : (s.replyErr).jobs = s.jobs := rfl
@[simp] theorem State.replyErr_sec (s : State) : (s.replyErr).sec = s.sec := rfl
@[simp] theorem State.replyErr_syn (s : State) : (s.replyErr).syn = s.syn := rfl
@[simp] theorem State.replyErr_obsv (s : State) : (s.replyErr).obsv = s.obsv := rfl
@[simp] theorem State.replyErr_pwr (s : State) : (s.replyErr).pwr = s.pwr := rfl
@[simp] theorem State.replyErr_aon (s : State) : (s.replyErr).aon = s.aon := rfl
@[simp] theorem State.replyErr_gns (s : State) : (s.replyErr).gns = s.gns := rfl
@[simp] theorem State.replyErr_prt (s : State) : (s.replyErr).prt = s.prt := rfl
@[simp] theorem State.replyErr_hst (s : State) : (s.replyErr).hst = s.hst := rfl
@[simp] theorem State.replyErr_srv (s : State) : (s.replyErr).srv = s.srv := rfl
@[simp] theorem State.replyErr_pck (s : State) : (s.replyErr).pck = s.pck := rfl
@[simp] theorem State.replyErr_brc (s : State) : (s.replyErr).brc = s.brc := rfl
@[simp] theorem State.replyErr_adr (s : State) : (s.replyErr).adr = s.adr := rfl
@[simp] theorem State.replyErr_fch (s : State) : (s.replyErr).fch = s.fch := rfl

/-! ### setFch -/

@[simp] theorem State.setFch_regs (s : State) (c : Fin 16) (x : FchCh) : (s.setFch c x).regs = s.regs := rfl
@[simp] theorem State.setFch_mem (s : State) (c : Fin 16) (x : FchCh) : (s.setFch c x).mem = s.mem := rfl
@[simp] theorem State.setFch_bad (s : State) (c : Fin 16) (x : FchCh) : (s.setFch c x).bad = s.bad := rfl
@[simp] theorem State.setFch_soft (s : State) (c : Fin 16) (x : FchCh) : (s.setFch c x).soft = s.soft := rfl
@[simp] theorem State.setFch_pending (s : State) (c : Fin 16) (x : FchCh) : (s.setFch c x).pending = s.pending := rfl
@[simp] theorem State.setFch_draw (s : State) (c : Fin 16) (x : FchCh) : (s.setFch c x).draw = s.draw := rfl
@[simp] theorem State.setFch_answer (s : State) (c : Fin 16) (x : FchCh) : (s.setFch c x).answer = s.answer := rfl
@[simp] theorem State.setFch_latch (s : State) (c : Fin 16) (x : FchCh) : (s.setFch c x).latch = s.latch := rfl
@[simp] theorem State.setFch_holdw (s : State) (c : Fin 16) (x : FchCh) : (s.setFch c x).holdw = s.holdw := rfl
@[simp] theorem State.setFch_time (s : State) (c : Fin 16) (x : FchCh) : (s.setFch c x).time = s.time := rfl
@[simp] theorem State.setFch_knl (s : State) (c : Fin 16) (x : FchCh) : (s.setFch c x).knl = s.knl := rfl
@[simp] theorem State.setFch_kspi (s : State) (c : Fin 16) (x : FchCh) : (s.setFch c x).kspi = s.kspi := rfl
@[simp] theorem State.setFch_flt (s : State) (c : Fin 16) (x : FchCh) : (s.setFch c x).flt = s.flt := rfl
@[simp] theorem State.setFch_refs (s : State) (c : Fin 16) (x : FchCh) : (s.setFch c x).refs = s.refs := rfl
@[simp] theorem State.setFch_lsh (s : State) (c : Fin 16) (x : FchCh) : (s.setFch c x).lsh = s.lsh := rfl
@[simp] theorem State.setFch_tim (s : State) (c : Fin 16) (x : FchCh) : (s.setFch c x).tim = s.tim := rfl
@[simp] theorem State.setFch_eng (s : State) (c : Fin 16) (x : FchCh) : (s.setFch c x).eng = s.eng := rfl
@[simp] theorem State.setFch_mtx (s : State) (c : Fin 16) (x : FchCh) : (s.setFch c x).mtx = s.mtx := rfl
@[simp] theorem State.setFch_jobs (s : State) (c : Fin 16) (x : FchCh) : (s.setFch c x).jobs = s.jobs := rfl
@[simp] theorem State.setFch_sec (s : State) (c : Fin 16) (x : FchCh) : (s.setFch c x).sec = s.sec := rfl
@[simp] theorem State.setFch_syn (s : State) (c : Fin 16) (x : FchCh) : (s.setFch c x).syn = s.syn := rfl
@[simp] theorem State.setFch_obsv (s : State) (c : Fin 16) (x : FchCh) : (s.setFch c x).obsv = s.obsv := rfl
@[simp] theorem State.setFch_pwr (s : State) (c : Fin 16) (x : FchCh) : (s.setFch c x).pwr = s.pwr := rfl
@[simp] theorem State.setFch_aon (s : State) (c : Fin 16) (x : FchCh) : (s.setFch c x).aon = s.aon := rfl
@[simp] theorem State.setFch_gns (s : State) (c : Fin 16) (x : FchCh) : (s.setFch c x).gns = s.gns := rfl
@[simp] theorem State.setFch_prt (s : State) (c : Fin 16) (x : FchCh) : (s.setFch c x).prt = s.prt := rfl
@[simp] theorem State.setFch_hst (s : State) (c : Fin 16) (x : FchCh) : (s.setFch c x).hst = s.hst := rfl
@[simp] theorem State.setFch_srv (s : State) (c : Fin 16) (x : FchCh) : (s.setFch c x).srv = s.srv := rfl
@[simp] theorem State.setFch_pck (s : State) (c : Fin 16) (x : FchCh) : (s.setFch c x).pck = s.pck := rfl
@[simp] theorem State.setFch_brc (s : State) (c : Fin 16) (x : FchCh) : (s.setFch c x).brc = s.brc := rfl
@[simp] theorem State.setFch_adr (s : State) (c : Fin 16) (x : FchCh) : (s.setFch c x).adr = s.adr := rfl
@[simp] theorem State.setFch_fch (s : State) (c : Fin 16) (x : FchCh) : (s.setFch c x).fch = { s.fch with ch := s.fch.ch.set c x } := rfl

/-! ### setSrv -/

@[simp] theorem State.setSrv_regs (s : State) (x : SrvSt) : (s.setSrv x).regs = s.regs := rfl
@[simp] theorem State.setSrv_mem (s : State) (x : SrvSt) : (s.setSrv x).mem = s.mem := rfl
@[simp] theorem State.setSrv_bad (s : State) (x : SrvSt) : (s.setSrv x).bad = s.bad := rfl
@[simp] theorem State.setSrv_soft (s : State) (x : SrvSt) : (s.setSrv x).soft = s.soft := rfl
@[simp] theorem State.setSrv_pending (s : State) (x : SrvSt) : (s.setSrv x).pending = s.pending := rfl
@[simp] theorem State.setSrv_draw (s : State) (x : SrvSt) : (s.setSrv x).draw = s.draw := rfl
@[simp] theorem State.setSrv_answer (s : State) (x : SrvSt) : (s.setSrv x).answer = s.answer := rfl
@[simp] theorem State.setSrv_latch (s : State) (x : SrvSt) : (s.setSrv x).latch = s.latch := rfl
@[simp] theorem State.setSrv_holdw (s : State) (x : SrvSt) : (s.setSrv x).holdw = s.holdw := rfl
@[simp] theorem State.setSrv_time (s : State) (x : SrvSt) : (s.setSrv x).time = s.time := rfl
@[simp] theorem State.setSrv_knl (s : State) (x : SrvSt) : (s.setSrv x).knl = s.knl := rfl
@[simp] theorem State.setSrv_kspi (s : State) (x : SrvSt) : (s.setSrv x).kspi = s.kspi := rfl
@[simp] theorem State.setSrv_flt (s : State) (x : SrvSt) : (s.setSrv x).flt = s.flt := rfl
@[simp] theorem State.setSrv_refs (s : State) (x : SrvSt) : (s.setSrv x).refs = s.refs := rfl
@[simp] theorem State.setSrv_lsh (s : State) (x : SrvSt) : (s.setSrv x).lsh = s.lsh := rfl
@[simp] theorem State.setSrv_tim (s : State) (x : SrvSt) : (s.setSrv x).tim = s.tim := rfl
@[simp] theorem State.setSrv_eng (s : State) (x : SrvSt) : (s.setSrv x).eng = s.eng := rfl
@[simp] theorem State.setSrv_mtx (s : State) (x : SrvSt) : (s.setSrv x).mtx = s.mtx := rfl
@[simp] theorem State.setSrv_jobs (s : State) (x : SrvSt) : (s.setSrv x).jobs = s.jobs := rfl
@[simp] theorem State.setSrv_sec (s : State) (x : SrvSt) : (s.setSrv x).sec = s.sec := rfl
@[simp] theorem State.setSrv_syn (s : State) (x : SrvSt) : (s.setSrv x).syn = s.syn := rfl
@[simp] theorem State.setSrv_obsv (s : State) (x : SrvSt) : (s.setSrv x).obsv = s.obsv := rfl
@[simp] theorem State.setSrv_pwr (s : State) (x : SrvSt) : (s.setSrv x).pwr = s.pwr := rfl
@[simp] theorem State.setSrv_aon (s : State) (x : SrvSt) : (s.setSrv x).aon = s.aon := rfl
@[simp] theorem State.setSrv_gns (s : State) (x : SrvSt) : (s.setSrv x).gns = s.gns := rfl
@[simp] theorem State.setSrv_prt (s : State) (x : SrvSt) : (s.setSrv x).prt = s.prt := rfl
@[simp] theorem State.setSrv_hst (s : State) (x : SrvSt) : (s.setSrv x).hst = s.hst := rfl
@[simp] theorem State.setSrv_srv (s : State) (x : SrvSt) : (s.setSrv x).srv = x := rfl
@[simp] theorem State.setSrv_pck (s : State) (x : SrvSt) : (s.setSrv x).pck = s.pck := rfl
@[simp] theorem State.setSrv_brc (s : State) (x : SrvSt) : (s.setSrv x).brc = s.brc := rfl
@[simp] theorem State.setSrv_adr (s : State) (x : SrvSt) : (s.setSrv x).adr = s.adr := rfl
@[simp] theorem State.setSrv_fch (s : State) (x : SrvSt) : (s.setSrv x).fch = s.fch := rfl

/-! ### setLink -/

@[simp] theorem State.setLink_regs (s : State) (i : Fin 68) (x : PortSt) : (s.setLink i x).regs = s.regs := rfl
@[simp] theorem State.setLink_mem (s : State) (i : Fin 68) (x : PortSt) : (s.setLink i x).mem = s.mem := rfl
@[simp] theorem State.setLink_bad (s : State) (i : Fin 68) (x : PortSt) : (s.setLink i x).bad = s.bad := rfl
@[simp] theorem State.setLink_soft (s : State) (i : Fin 68) (x : PortSt) : (s.setLink i x).soft = s.soft := rfl
@[simp] theorem State.setLink_pending (s : State) (i : Fin 68) (x : PortSt) : (s.setLink i x).pending = s.pending := rfl
@[simp] theorem State.setLink_draw (s : State) (i : Fin 68) (x : PortSt) : (s.setLink i x).draw = s.draw := rfl
@[simp] theorem State.setLink_answer (s : State) (i : Fin 68) (x : PortSt) : (s.setLink i x).answer = s.answer := rfl
@[simp] theorem State.setLink_latch (s : State) (i : Fin 68) (x : PortSt) : (s.setLink i x).latch = s.latch := rfl
@[simp] theorem State.setLink_holdw (s : State) (i : Fin 68) (x : PortSt) : (s.setLink i x).holdw = s.holdw := rfl
@[simp] theorem State.setLink_time (s : State) (i : Fin 68) (x : PortSt) : (s.setLink i x).time = s.time := rfl
@[simp] theorem State.setLink_knl (s : State) (i : Fin 68) (x : PortSt) : (s.setLink i x).knl = s.knl := rfl
@[simp] theorem State.setLink_kspi (s : State) (i : Fin 68) (x : PortSt) : (s.setLink i x).kspi = s.kspi := rfl
@[simp] theorem State.setLink_flt (s : State) (i : Fin 68) (x : PortSt) : (s.setLink i x).flt = s.flt := rfl
@[simp] theorem State.setLink_refs (s : State) (i : Fin 68) (x : PortSt) : (s.setLink i x).refs = s.refs := rfl
@[simp] theorem State.setLink_lsh (s : State) (i : Fin 68) (x : PortSt) : (s.setLink i x).lsh = s.lsh := rfl
@[simp] theorem State.setLink_tim (s : State) (i : Fin 68) (x : PortSt) : (s.setLink i x).tim = s.tim := rfl
@[simp] theorem State.setLink_eng (s : State) (i : Fin 68) (x : PortSt) : (s.setLink i x).eng = s.eng := rfl
@[simp] theorem State.setLink_mtx (s : State) (i : Fin 68) (x : PortSt) : (s.setLink i x).mtx = s.mtx := rfl
@[simp] theorem State.setLink_jobs (s : State) (i : Fin 68) (x : PortSt) : (s.setLink i x).jobs = s.jobs := rfl
@[simp] theorem State.setLink_sec (s : State) (i : Fin 68) (x : PortSt) : (s.setLink i x).sec = s.sec := rfl
@[simp] theorem State.setLink_syn (s : State) (i : Fin 68) (x : PortSt) : (s.setLink i x).syn = s.syn := rfl
@[simp] theorem State.setLink_obsv (s : State) (i : Fin 68) (x : PortSt) : (s.setLink i x).obsv = s.obsv := rfl
@[simp] theorem State.setLink_pwr (s : State) (i : Fin 68) (x : PortSt) : (s.setLink i x).pwr = s.pwr := rfl
@[simp] theorem State.setLink_aon (s : State) (i : Fin 68) (x : PortSt) : (s.setLink i x).aon = s.aon := rfl
@[simp] theorem State.setLink_gns (s : State) (i : Fin 68) (x : PortSt) : (s.setLink i x).gns = s.gns := rfl
@[simp] theorem State.setLink_prt (s : State) (i : Fin 68) (x : PortSt) : (s.setLink i x).prt = { s.prt with link := s.prt.link.set i x } := rfl
@[simp] theorem State.setLink_hst (s : State) (i : Fin 68) (x : PortSt) : (s.setLink i x).hst = s.hst := rfl
@[simp] theorem State.setLink_srv (s : State) (i : Fin 68) (x : PortSt) : (s.setLink i x).srv = s.srv := rfl
@[simp] theorem State.setLink_pck (s : State) (i : Fin 68) (x : PortSt) : (s.setLink i x).pck = s.pck := rfl
@[simp] theorem State.setLink_brc (s : State) (i : Fin 68) (x : PortSt) : (s.setLink i x).brc = s.brc := rfl
@[simp] theorem State.setLink_adr (s : State) (i : Fin 68) (x : PortSt) : (s.setLink i x).adr = s.adr := rfl
@[simp] theorem State.setLink_fch (s : State) (i : Fin 68) (x : PortSt) : (s.setLink i x).fch = s.fch := rfl

/-! ### setLport -/

@[simp] theorem State.setLport_regs (s : State) (p : Fin 64) (x : LchPort) : (s.setLport p x).regs = s.regs := rfl
@[simp] theorem State.setLport_mem (s : State) (p : Fin 64) (x : LchPort) : (s.setLport p x).mem = s.mem := rfl
@[simp] theorem State.setLport_bad (s : State) (p : Fin 64) (x : LchPort) : (s.setLport p x).bad = s.bad := rfl
@[simp] theorem State.setLport_soft (s : State) (p : Fin 64) (x : LchPort) : (s.setLport p x).soft = s.soft := rfl
@[simp] theorem State.setLport_pending (s : State) (p : Fin 64) (x : LchPort) : (s.setLport p x).pending = s.pending := rfl
@[simp] theorem State.setLport_draw (s : State) (p : Fin 64) (x : LchPort) : (s.setLport p x).draw = s.draw := rfl
@[simp] theorem State.setLport_answer (s : State) (p : Fin 64) (x : LchPort) : (s.setLport p x).answer = s.answer := rfl
@[simp] theorem State.setLport_latch (s : State) (p : Fin 64) (x : LchPort) : (s.setLport p x).latch = s.latch := rfl
@[simp] theorem State.setLport_holdw (s : State) (p : Fin 64) (x : LchPort) : (s.setLport p x).holdw = s.holdw := rfl
@[simp] theorem State.setLport_time (s : State) (p : Fin 64) (x : LchPort) : (s.setLport p x).time = s.time := rfl
@[simp] theorem State.setLport_knl (s : State) (p : Fin 64) (x : LchPort) : (s.setLport p x).knl = s.knl := rfl
@[simp] theorem State.setLport_kspi (s : State) (p : Fin 64) (x : LchPort) : (s.setLport p x).kspi = s.kspi := rfl
@[simp] theorem State.setLport_flt (s : State) (p : Fin 64) (x : LchPort) : (s.setLport p x).flt = s.flt := rfl
@[simp] theorem State.setLport_refs (s : State) (p : Fin 64) (x : LchPort) : (s.setLport p x).refs = s.refs := rfl
@[simp] theorem State.setLport_lsh (s : State) (p : Fin 64) (x : LchPort) : (s.setLport p x).lsh = s.lsh := rfl
@[simp] theorem State.setLport_tim (s : State) (p : Fin 64) (x : LchPort) : (s.setLport p x).tim = s.tim := rfl
@[simp] theorem State.setLport_eng (s : State) (p : Fin 64) (x : LchPort) : (s.setLport p x).eng = s.eng := rfl
@[simp] theorem State.setLport_mtx (s : State) (p : Fin 64) (x : LchPort) : (s.setLport p x).mtx = s.mtx := rfl
@[simp] theorem State.setLport_jobs (s : State) (p : Fin 64) (x : LchPort) : (s.setLport p x).jobs = s.jobs := rfl
@[simp] theorem State.setLport_sec (s : State) (p : Fin 64) (x : LchPort) : (s.setLport p x).sec = s.sec := rfl
@[simp] theorem State.setLport_syn (s : State) (p : Fin 64) (x : LchPort) : (s.setLport p x).syn = s.syn := rfl
@[simp] theorem State.setLport_obsv (s : State) (p : Fin 64) (x : LchPort) : (s.setLport p x).obsv = s.obsv := rfl
@[simp] theorem State.setLport_pwr (s : State) (p : Fin 64) (x : LchPort) : (s.setLport p x).pwr = s.pwr := rfl
@[simp] theorem State.setLport_aon (s : State) (p : Fin 64) (x : LchPort) : (s.setLport p x).aon = s.aon := rfl
@[simp] theorem State.setLport_gns (s : State) (p : Fin 64) (x : LchPort) : (s.setLport p x).gns = s.gns := rfl
@[simp] theorem State.setLport_prt (s : State) (p : Fin 64) (x : LchPort) : (s.setLport p x).prt = { s.prt with port := s.prt.port.set p x } := rfl
@[simp] theorem State.setLport_hst (s : State) (p : Fin 64) (x : LchPort) : (s.setLport p x).hst = s.hst := rfl
@[simp] theorem State.setLport_srv (s : State) (p : Fin 64) (x : LchPort) : (s.setLport p x).srv = s.srv := rfl
@[simp] theorem State.setLport_pck (s : State) (p : Fin 64) (x : LchPort) : (s.setLport p x).pck = s.pck := rfl
@[simp] theorem State.setLport_brc (s : State) (p : Fin 64) (x : LchPort) : (s.setLport p x).brc = s.brc := rfl
@[simp] theorem State.setLport_adr (s : State) (p : Fin 64) (x : LchPort) : (s.setLport p x).adr = s.adr := rfl
@[simp] theorem State.setLport_fch (s : State) (p : Fin 64) (x : LchPort) : (s.setLport p x).fch = s.fch := rfl

/-! ### setRef -/

@[simp] theorem State.setRef_regs (s : State) (n : Fin 23) (r : RefSt) : (s.setRef n r).regs = s.regs := rfl
@[simp] theorem State.setRef_mem (s : State) (n : Fin 23) (r : RefSt) : (s.setRef n r).mem = s.mem := rfl
@[simp] theorem State.setRef_bad (s : State) (n : Fin 23) (r : RefSt) : (s.setRef n r).bad = s.bad := rfl
@[simp] theorem State.setRef_soft (s : State) (n : Fin 23) (r : RefSt) : (s.setRef n r).soft = s.soft := rfl
@[simp] theorem State.setRef_pending (s : State) (n : Fin 23) (r : RefSt) : (s.setRef n r).pending = s.pending := rfl
@[simp] theorem State.setRef_draw (s : State) (n : Fin 23) (r : RefSt) : (s.setRef n r).draw = s.draw := rfl
@[simp] theorem State.setRef_answer (s : State) (n : Fin 23) (r : RefSt) : (s.setRef n r).answer = s.answer := rfl
@[simp] theorem State.setRef_latch (s : State) (n : Fin 23) (r : RefSt) : (s.setRef n r).latch = s.latch := rfl
@[simp] theorem State.setRef_holdw (s : State) (n : Fin 23) (r : RefSt) : (s.setRef n r).holdw = s.holdw := rfl
@[simp] theorem State.setRef_time (s : State) (n : Fin 23) (r : RefSt) : (s.setRef n r).time = s.time := rfl
@[simp] theorem State.setRef_knl (s : State) (n : Fin 23) (r : RefSt) : (s.setRef n r).knl = s.knl := rfl
@[simp] theorem State.setRef_kspi (s : State) (n : Fin 23) (r : RefSt) : (s.setRef n r).kspi = s.kspi := rfl
@[simp] theorem State.setRef_flt (s : State) (n : Fin 23) (r : RefSt) : (s.setRef n r).flt = s.flt := rfl
@[simp] theorem State.setRef_refs (s : State) (n : Fin 23) (r : RefSt) : (s.setRef n r).refs = { s.refs with refs := s.refs.refs.set n r } := rfl
@[simp] theorem State.setRef_lsh (s : State) (n : Fin 23) (r : RefSt) : (s.setRef n r).lsh = s.lsh := rfl
@[simp] theorem State.setRef_tim (s : State) (n : Fin 23) (r : RefSt) : (s.setRef n r).tim = s.tim := rfl
@[simp] theorem State.setRef_eng (s : State) (n : Fin 23) (r : RefSt) : (s.setRef n r).eng = s.eng := rfl
@[simp] theorem State.setRef_mtx (s : State) (n : Fin 23) (r : RefSt) : (s.setRef n r).mtx = s.mtx := rfl
@[simp] theorem State.setRef_jobs (s : State) (n : Fin 23) (r : RefSt) : (s.setRef n r).jobs = s.jobs := rfl
@[simp] theorem State.setRef_sec (s : State) (n : Fin 23) (r : RefSt) : (s.setRef n r).sec = s.sec := rfl
@[simp] theorem State.setRef_syn (s : State) (n : Fin 23) (r : RefSt) : (s.setRef n r).syn = s.syn := rfl
@[simp] theorem State.setRef_obsv (s : State) (n : Fin 23) (r : RefSt) : (s.setRef n r).obsv = s.obsv := rfl
@[simp] theorem State.setRef_pwr (s : State) (n : Fin 23) (r : RefSt) : (s.setRef n r).pwr = s.pwr := rfl
@[simp] theorem State.setRef_aon (s : State) (n : Fin 23) (r : RefSt) : (s.setRef n r).aon = s.aon := rfl
@[simp] theorem State.setRef_gns (s : State) (n : Fin 23) (r : RefSt) : (s.setRef n r).gns = s.gns := rfl
@[simp] theorem State.setRef_prt (s : State) (n : Fin 23) (r : RefSt) : (s.setRef n r).prt = s.prt := rfl
@[simp] theorem State.setRef_hst (s : State) (n : Fin 23) (r : RefSt) : (s.setRef n r).hst = s.hst := rfl
@[simp] theorem State.setRef_srv (s : State) (n : Fin 23) (r : RefSt) : (s.setRef n r).srv = s.srv := rfl
@[simp] theorem State.setRef_pck (s : State) (n : Fin 23) (r : RefSt) : (s.setRef n r).pck = s.pck := rfl
@[simp] theorem State.setRef_brc (s : State) (n : Fin 23) (r : RefSt) : (s.setRef n r).brc = s.brc := rfl
@[simp] theorem State.setRef_adr (s : State) (n : Fin 23) (r : RefSt) : (s.setRef n r).adr = s.adr := rfl
@[simp] theorem State.setRef_fch (s : State) (n : Fin 23) (r : RefSt) : (s.setRef n r).fch = s.fch := rfl

/-! ### setOsc -/

@[simp] theorem State.setOsc_regs (s : State) (k : Fin 5) (o : OscSt) : (s.setOsc k o).regs = s.regs := rfl
@[simp] theorem State.setOsc_mem (s : State) (k : Fin 5) (o : OscSt) : (s.setOsc k o).mem = s.mem := rfl
@[simp] theorem State.setOsc_bad (s : State) (k : Fin 5) (o : OscSt) : (s.setOsc k o).bad = s.bad := rfl
@[simp] theorem State.setOsc_soft (s : State) (k : Fin 5) (o : OscSt) : (s.setOsc k o).soft = s.soft := rfl
@[simp] theorem State.setOsc_pending (s : State) (k : Fin 5) (o : OscSt) : (s.setOsc k o).pending = s.pending := rfl
@[simp] theorem State.setOsc_draw (s : State) (k : Fin 5) (o : OscSt) : (s.setOsc k o).draw = s.draw := rfl
@[simp] theorem State.setOsc_answer (s : State) (k : Fin 5) (o : OscSt) : (s.setOsc k o).answer = s.answer := rfl
@[simp] theorem State.setOsc_latch (s : State) (k : Fin 5) (o : OscSt) : (s.setOsc k o).latch = s.latch := rfl
@[simp] theorem State.setOsc_holdw (s : State) (k : Fin 5) (o : OscSt) : (s.setOsc k o).holdw = s.holdw := rfl
@[simp] theorem State.setOsc_time (s : State) (k : Fin 5) (o : OscSt) : (s.setOsc k o).time = s.time := rfl
@[simp] theorem State.setOsc_knl (s : State) (k : Fin 5) (o : OscSt) : (s.setOsc k o).knl = s.knl := rfl
@[simp] theorem State.setOsc_kspi (s : State) (k : Fin 5) (o : OscSt) : (s.setOsc k o).kspi = s.kspi := rfl
@[simp] theorem State.setOsc_flt (s : State) (k : Fin 5) (o : OscSt) : (s.setOsc k o).flt = s.flt := rfl
@[simp] theorem State.setOsc_refs (s : State) (k : Fin 5) (o : OscSt) : (s.setOsc k o).refs = { s.refs with osc := s.refs.osc.set k o } := rfl
@[simp] theorem State.setOsc_lsh (s : State) (k : Fin 5) (o : OscSt) : (s.setOsc k o).lsh = s.lsh := rfl
@[simp] theorem State.setOsc_tim (s : State) (k : Fin 5) (o : OscSt) : (s.setOsc k o).tim = s.tim := rfl
@[simp] theorem State.setOsc_eng (s : State) (k : Fin 5) (o : OscSt) : (s.setOsc k o).eng = s.eng := rfl
@[simp] theorem State.setOsc_mtx (s : State) (k : Fin 5) (o : OscSt) : (s.setOsc k o).mtx = s.mtx := rfl
@[simp] theorem State.setOsc_jobs (s : State) (k : Fin 5) (o : OscSt) : (s.setOsc k o).jobs = s.jobs := rfl
@[simp] theorem State.setOsc_sec (s : State) (k : Fin 5) (o : OscSt) : (s.setOsc k o).sec = s.sec := rfl
@[simp] theorem State.setOsc_syn (s : State) (k : Fin 5) (o : OscSt) : (s.setOsc k o).syn = s.syn := rfl
@[simp] theorem State.setOsc_obsv (s : State) (k : Fin 5) (o : OscSt) : (s.setOsc k o).obsv = s.obsv := rfl
@[simp] theorem State.setOsc_pwr (s : State) (k : Fin 5) (o : OscSt) : (s.setOsc k o).pwr = s.pwr := rfl
@[simp] theorem State.setOsc_aon (s : State) (k : Fin 5) (o : OscSt) : (s.setOsc k o).aon = s.aon := rfl
@[simp] theorem State.setOsc_gns (s : State) (k : Fin 5) (o : OscSt) : (s.setOsc k o).gns = s.gns := rfl
@[simp] theorem State.setOsc_prt (s : State) (k : Fin 5) (o : OscSt) : (s.setOsc k o).prt = s.prt := rfl
@[simp] theorem State.setOsc_hst (s : State) (k : Fin 5) (o : OscSt) : (s.setOsc k o).hst = s.hst := rfl
@[simp] theorem State.setOsc_srv (s : State) (k : Fin 5) (o : OscSt) : (s.setOsc k o).srv = s.srv := rfl
@[simp] theorem State.setOsc_pck (s : State) (k : Fin 5) (o : OscSt) : (s.setOsc k o).pck = s.pck := rfl
@[simp] theorem State.setOsc_brc (s : State) (k : Fin 5) (o : OscSt) : (s.setOsc k o).brc = s.brc := rfl
@[simp] theorem State.setOsc_adr (s : State) (k : Fin 5) (o : OscSt) : (s.setOsc k o).adr = s.adr := rfl
@[simp] theorem State.setOsc_fch (s : State) (k : Fin 5) (o : OscSt) : (s.setOsc k o).fch = s.fch := rfl

/-! ### setPair -/

@[simp] theorem State.setPair_regs (s : State) (p : KPair) : (s.setPair p).regs = s.regs := rfl
@[simp] theorem State.setPair_mem (s : State) (p : KPair) : (s.setPair p).mem = s.mem := rfl
@[simp] theorem State.setPair_bad (s : State) (p : KPair) : (s.setPair p).bad = s.bad := rfl
@[simp] theorem State.setPair_soft (s : State) (p : KPair) : (s.setPair p).soft = s.soft := rfl
@[simp] theorem State.setPair_pending (s : State) (p : KPair) : (s.setPair p).pending = s.pending := rfl
@[simp] theorem State.setPair_draw (s : State) (p : KPair) : (s.setPair p).draw = s.draw := rfl
@[simp] theorem State.setPair_answer (s : State) (p : KPair) : (s.setPair p).answer = s.answer := rfl
@[simp] theorem State.setPair_latch (s : State) (p : KPair) : (s.setPair p).latch = s.latch := rfl
@[simp] theorem State.setPair_holdw (s : State) (p : KPair) : (s.setPair p).holdw = s.holdw := rfl
@[simp] theorem State.setPair_time (s : State) (p : KPair) : (s.setPair p).time = s.time := rfl
@[simp] theorem State.setPair_knl (s : State) (p : KPair) : (s.setPair p).knl = { s.knl with pair := p } := rfl
@[simp] theorem State.setPair_kspi (s : State) (p : KPair) : (s.setPair p).kspi = s.kspi := rfl
@[simp] theorem State.setPair_flt (s : State) (p : KPair) : (s.setPair p).flt = s.flt := rfl
@[simp] theorem State.setPair_refs (s : State) (p : KPair) : (s.setPair p).refs = s.refs := rfl
@[simp] theorem State.setPair_lsh (s : State) (p : KPair) : (s.setPair p).lsh = s.lsh := rfl
@[simp] theorem State.setPair_tim (s : State) (p : KPair) : (s.setPair p).tim = s.tim := rfl
@[simp] theorem State.setPair_eng (s : State) (p : KPair) : (s.setPair p).eng = s.eng := rfl
@[simp] theorem State.setPair_mtx (s : State) (p : KPair) : (s.setPair p).mtx = s.mtx := rfl
@[simp] theorem State.setPair_jobs (s : State) (p : KPair) : (s.setPair p).jobs = s.jobs := rfl
@[simp] theorem State.setPair_sec (s : State) (p : KPair) : (s.setPair p).sec = s.sec := rfl
@[simp] theorem State.setPair_syn (s : State) (p : KPair) : (s.setPair p).syn = s.syn := rfl
@[simp] theorem State.setPair_obsv (s : State) (p : KPair) : (s.setPair p).obsv = s.obsv := rfl
@[simp] theorem State.setPair_pwr (s : State) (p : KPair) : (s.setPair p).pwr = s.pwr := rfl
@[simp] theorem State.setPair_aon (s : State) (p : KPair) : (s.setPair p).aon = s.aon := rfl
@[simp] theorem State.setPair_gns (s : State) (p : KPair) : (s.setPair p).gns = s.gns := rfl
@[simp] theorem State.setPair_prt (s : State) (p : KPair) : (s.setPair p).prt = s.prt := rfl
@[simp] theorem State.setPair_hst (s : State) (p : KPair) : (s.setPair p).hst = s.hst := rfl
@[simp] theorem State.setPair_srv (s : State) (p : KPair) : (s.setPair p).srv = s.srv := rfl
@[simp] theorem State.setPair_pck (s : State) (p : KPair) : (s.setPair p).pck = s.pck := rfl
@[simp] theorem State.setPair_brc (s : State) (p : KPair) : (s.setPair p).brc = s.brc := rfl
@[simp] theorem State.setPair_adr (s : State) (p : KPair) : (s.setPair p).adr = s.adr := rfl
@[simp] theorem State.setPair_fch (s : State) (p : KPair) : (s.setPair p).fch = s.fch := rfl

/-! ### setTdc -/

@[simp] theorem State.setTdc_regs (s : State) (c : Fin 16) (x : TdcCh) : (s.setTdc c x).regs = s.regs := rfl
@[simp] theorem State.setTdc_mem (s : State) (c : Fin 16) (x : TdcCh) : (s.setTdc c x).mem = s.mem := rfl
@[simp] theorem State.setTdc_bad (s : State) (c : Fin 16) (x : TdcCh) : (s.setTdc c x).bad = s.bad := rfl
@[simp] theorem State.setTdc_soft (s : State) (c : Fin 16) (x : TdcCh) : (s.setTdc c x).soft = s.soft := rfl
@[simp] theorem State.setTdc_pending (s : State) (c : Fin 16) (x : TdcCh) : (s.setTdc c x).pending = s.pending := rfl
@[simp] theorem State.setTdc_draw (s : State) (c : Fin 16) (x : TdcCh) : (s.setTdc c x).draw = s.draw := rfl
@[simp] theorem State.setTdc_answer (s : State) (c : Fin 16) (x : TdcCh) : (s.setTdc c x).answer = s.answer := rfl
@[simp] theorem State.setTdc_latch (s : State) (c : Fin 16) (x : TdcCh) : (s.setTdc c x).latch = s.latch := rfl
@[simp] theorem State.setTdc_holdw (s : State) (c : Fin 16) (x : TdcCh) : (s.setTdc c x).holdw = s.holdw := rfl
@[simp] theorem State.setTdc_time (s : State) (c : Fin 16) (x : TdcCh) : (s.setTdc c x).time = s.time := rfl
@[simp] theorem State.setTdc_knl (s : State) (c : Fin 16) (x : TdcCh) : (s.setTdc c x).knl = s.knl := rfl
@[simp] theorem State.setTdc_kspi (s : State) (c : Fin 16) (x : TdcCh) : (s.setTdc c x).kspi = s.kspi := rfl
@[simp] theorem State.setTdc_flt (s : State) (c : Fin 16) (x : TdcCh) : (s.setTdc c x).flt = s.flt := rfl
@[simp] theorem State.setTdc_refs (s : State) (c : Fin 16) (x : TdcCh) : (s.setTdc c x).refs = s.refs := rfl
@[simp] theorem State.setTdc_lsh (s : State) (c : Fin 16) (x : TdcCh) : (s.setTdc c x).lsh = s.lsh := rfl
@[simp] theorem State.setTdc_tim (s : State) (c : Fin 16) (x : TdcCh) : (s.setTdc c x).tim = { s.tim with ch := s.tim.ch.set c x } := rfl
@[simp] theorem State.setTdc_eng (s : State) (c : Fin 16) (x : TdcCh) : (s.setTdc c x).eng = s.eng := rfl
@[simp] theorem State.setTdc_mtx (s : State) (c : Fin 16) (x : TdcCh) : (s.setTdc c x).mtx = s.mtx := rfl
@[simp] theorem State.setTdc_jobs (s : State) (c : Fin 16) (x : TdcCh) : (s.setTdc c x).jobs = s.jobs := rfl
@[simp] theorem State.setTdc_sec (s : State) (c : Fin 16) (x : TdcCh) : (s.setTdc c x).sec = s.sec := rfl
@[simp] theorem State.setTdc_syn (s : State) (c : Fin 16) (x : TdcCh) : (s.setTdc c x).syn = s.syn := rfl
@[simp] theorem State.setTdc_obsv (s : State) (c : Fin 16) (x : TdcCh) : (s.setTdc c x).obsv = s.obsv := rfl
@[simp] theorem State.setTdc_pwr (s : State) (c : Fin 16) (x : TdcCh) : (s.setTdc c x).pwr = s.pwr := rfl
@[simp] theorem State.setTdc_aon (s : State) (c : Fin 16) (x : TdcCh) : (s.setTdc c x).aon = s.aon := rfl
@[simp] theorem State.setTdc_gns (s : State) (c : Fin 16) (x : TdcCh) : (s.setTdc c x).gns = s.gns := rfl
@[simp] theorem State.setTdc_prt (s : State) (c : Fin 16) (x : TdcCh) : (s.setTdc c x).prt = s.prt := rfl
@[simp] theorem State.setTdc_hst (s : State) (c : Fin 16) (x : TdcCh) : (s.setTdc c x).hst = s.hst := rfl
@[simp] theorem State.setTdc_srv (s : State) (c : Fin 16) (x : TdcCh) : (s.setTdc c x).srv = s.srv := rfl
@[simp] theorem State.setTdc_pck (s : State) (c : Fin 16) (x : TdcCh) : (s.setTdc c x).pck = s.pck := rfl
@[simp] theorem State.setTdc_brc (s : State) (c : Fin 16) (x : TdcCh) : (s.setTdc c x).brc = s.brc := rfl
@[simp] theorem State.setTdc_adr (s : State) (c : Fin 16) (x : TdcCh) : (s.setTdc c x).adr = s.adr := rfl
@[simp] theorem State.setTdc_fch (s : State) (c : Fin 16) (x : TdcCh) : (s.setTdc c x).fch = s.fch := rfl

/-! ### setPll -/

@[simp] theorem State.setPll_regs (s : State) (k : Fin 4) (p : SynPll) : (s.setPll k p).regs = s.regs := rfl
@[simp] theorem State.setPll_mem (s : State) (k : Fin 4) (p : SynPll) : (s.setPll k p).mem = s.mem := rfl
@[simp] theorem State.setPll_bad (s : State) (k : Fin 4) (p : SynPll) : (s.setPll k p).bad = s.bad := rfl
@[simp] theorem State.setPll_soft (s : State) (k : Fin 4) (p : SynPll) : (s.setPll k p).soft = s.soft := rfl
@[simp] theorem State.setPll_pending (s : State) (k : Fin 4) (p : SynPll) : (s.setPll k p).pending = s.pending := rfl
@[simp] theorem State.setPll_draw (s : State) (k : Fin 4) (p : SynPll) : (s.setPll k p).draw = s.draw := rfl
@[simp] theorem State.setPll_answer (s : State) (k : Fin 4) (p : SynPll) : (s.setPll k p).answer = s.answer := rfl
@[simp] theorem State.setPll_latch (s : State) (k : Fin 4) (p : SynPll) : (s.setPll k p).latch = s.latch := rfl
@[simp] theorem State.setPll_holdw (s : State) (k : Fin 4) (p : SynPll) : (s.setPll k p).holdw = s.holdw := rfl
@[simp] theorem State.setPll_time (s : State) (k : Fin 4) (p : SynPll) : (s.setPll k p).time = s.time := rfl
@[simp] theorem State.setPll_knl (s : State) (k : Fin 4) (p : SynPll) : (s.setPll k p).knl = s.knl := rfl
@[simp] theorem State.setPll_kspi (s : State) (k : Fin 4) (p : SynPll) : (s.setPll k p).kspi = s.kspi := rfl
@[simp] theorem State.setPll_flt (s : State) (k : Fin 4) (p : SynPll) : (s.setPll k p).flt = s.flt := rfl
@[simp] theorem State.setPll_refs (s : State) (k : Fin 4) (p : SynPll) : (s.setPll k p).refs = s.refs := rfl
@[simp] theorem State.setPll_lsh (s : State) (k : Fin 4) (p : SynPll) : (s.setPll k p).lsh = s.lsh := rfl
@[simp] theorem State.setPll_tim (s : State) (k : Fin 4) (p : SynPll) : (s.setPll k p).tim = s.tim := rfl
@[simp] theorem State.setPll_eng (s : State) (k : Fin 4) (p : SynPll) : (s.setPll k p).eng = s.eng := rfl
@[simp] theorem State.setPll_mtx (s : State) (k : Fin 4) (p : SynPll) : (s.setPll k p).mtx = s.mtx := rfl
@[simp] theorem State.setPll_jobs (s : State) (k : Fin 4) (p : SynPll) : (s.setPll k p).jobs = s.jobs := rfl
@[simp] theorem State.setPll_sec (s : State) (k : Fin 4) (p : SynPll) : (s.setPll k p).sec = s.sec := rfl
@[simp] theorem State.setPll_syn (s : State) (k : Fin 4) (p : SynPll) : (s.setPll k p).syn = { s.syn with pll := s.syn.pll.set k p } := rfl
@[simp] theorem State.setPll_obsv (s : State) (k : Fin 4) (p : SynPll) : (s.setPll k p).obsv = s.obsv := rfl
@[simp] theorem State.setPll_pwr (s : State) (k : Fin 4) (p : SynPll) : (s.setPll k p).pwr = s.pwr := rfl
@[simp] theorem State.setPll_aon (s : State) (k : Fin 4) (p : SynPll) : (s.setPll k p).aon = s.aon := rfl
@[simp] theorem State.setPll_gns (s : State) (k : Fin 4) (p : SynPll) : (s.setPll k p).gns = s.gns := rfl
@[simp] theorem State.setPll_prt (s : State) (k : Fin 4) (p : SynPll) : (s.setPll k p).prt = s.prt := rfl
@[simp] theorem State.setPll_hst (s : State) (k : Fin 4) (p : SynPll) : (s.setPll k p).hst = s.hst := rfl
@[simp] theorem State.setPll_srv (s : State) (k : Fin 4) (p : SynPll) : (s.setPll k p).srv = s.srv := rfl
@[simp] theorem State.setPll_pck (s : State) (k : Fin 4) (p : SynPll) : (s.setPll k p).pck = s.pck := rfl
@[simp] theorem State.setPll_brc (s : State) (k : Fin 4) (p : SynPll) : (s.setPll k p).brc = s.brc := rfl
@[simp] theorem State.setPll_adr (s : State) (k : Fin 4) (p : SynPll) : (s.setPll k p).adr = s.adr := rfl
@[simp] theorem State.setPll_fch (s : State) (k : Fin 4) (p : SynPll) : (s.setPll k p).fch = s.fch := rfl

/-! ### setSynOut -/

@[simp] theorem State.setSynOut_regs (s : State) (j : Fin 16) (o : SynOut) : (s.setSynOut j o).regs = s.regs := rfl
@[simp] theorem State.setSynOut_mem (s : State) (j : Fin 16) (o : SynOut) : (s.setSynOut j o).mem = s.mem := rfl
@[simp] theorem State.setSynOut_bad (s : State) (j : Fin 16) (o : SynOut) : (s.setSynOut j o).bad = s.bad := rfl
@[simp] theorem State.setSynOut_soft (s : State) (j : Fin 16) (o : SynOut) : (s.setSynOut j o).soft = s.soft := rfl
@[simp] theorem State.setSynOut_pending (s : State) (j : Fin 16) (o : SynOut) : (s.setSynOut j o).pending = s.pending := rfl
@[simp] theorem State.setSynOut_draw (s : State) (j : Fin 16) (o : SynOut) : (s.setSynOut j o).draw = s.draw := rfl
@[simp] theorem State.setSynOut_answer (s : State) (j : Fin 16) (o : SynOut) : (s.setSynOut j o).answer = s.answer := rfl
@[simp] theorem State.setSynOut_latch (s : State) (j : Fin 16) (o : SynOut) : (s.setSynOut j o).latch = s.latch := rfl
@[simp] theorem State.setSynOut_holdw (s : State) (j : Fin 16) (o : SynOut) : (s.setSynOut j o).holdw = s.holdw := rfl
@[simp] theorem State.setSynOut_time (s : State) (j : Fin 16) (o : SynOut) : (s.setSynOut j o).time = s.time := rfl
@[simp] theorem State.setSynOut_knl (s : State) (j : Fin 16) (o : SynOut) : (s.setSynOut j o).knl = s.knl := rfl
@[simp] theorem State.setSynOut_kspi (s : State) (j : Fin 16) (o : SynOut) : (s.setSynOut j o).kspi = s.kspi := rfl
@[simp] theorem State.setSynOut_flt (s : State) (j : Fin 16) (o : SynOut) : (s.setSynOut j o).flt = s.flt := rfl
@[simp] theorem State.setSynOut_refs (s : State) (j : Fin 16) (o : SynOut) : (s.setSynOut j o).refs = s.refs := rfl
@[simp] theorem State.setSynOut_lsh (s : State) (j : Fin 16) (o : SynOut) : (s.setSynOut j o).lsh = s.lsh := rfl
@[simp] theorem State.setSynOut_tim (s : State) (j : Fin 16) (o : SynOut) : (s.setSynOut j o).tim = s.tim := rfl
@[simp] theorem State.setSynOut_eng (s : State) (j : Fin 16) (o : SynOut) : (s.setSynOut j o).eng = s.eng := rfl
@[simp] theorem State.setSynOut_mtx (s : State) (j : Fin 16) (o : SynOut) : (s.setSynOut j o).mtx = s.mtx := rfl
@[simp] theorem State.setSynOut_jobs (s : State) (j : Fin 16) (o : SynOut) : (s.setSynOut j o).jobs = s.jobs := rfl
@[simp] theorem State.setSynOut_sec (s : State) (j : Fin 16) (o : SynOut) : (s.setSynOut j o).sec = s.sec := rfl
@[simp] theorem State.setSynOut_syn (s : State) (j : Fin 16) (o : SynOut) : (s.setSynOut j o).syn = { s.syn with out := s.syn.out.set j o } := rfl
@[simp] theorem State.setSynOut_obsv (s : State) (j : Fin 16) (o : SynOut) : (s.setSynOut j o).obsv = s.obsv := rfl
@[simp] theorem State.setSynOut_pwr (s : State) (j : Fin 16) (o : SynOut) : (s.setSynOut j o).pwr = s.pwr := rfl
@[simp] theorem State.setSynOut_aon (s : State) (j : Fin 16) (o : SynOut) : (s.setSynOut j o).aon = s.aon := rfl
@[simp] theorem State.setSynOut_gns (s : State) (j : Fin 16) (o : SynOut) : (s.setSynOut j o).gns = s.gns := rfl
@[simp] theorem State.setSynOut_prt (s : State) (j : Fin 16) (o : SynOut) : (s.setSynOut j o).prt = s.prt := rfl
@[simp] theorem State.setSynOut_hst (s : State) (j : Fin 16) (o : SynOut) : (s.setSynOut j o).hst = s.hst := rfl
@[simp] theorem State.setSynOut_srv (s : State) (j : Fin 16) (o : SynOut) : (s.setSynOut j o).srv = s.srv := rfl
@[simp] theorem State.setSynOut_pck (s : State) (j : Fin 16) (o : SynOut) : (s.setSynOut j o).pck = s.pck := rfl
@[simp] theorem State.setSynOut_brc (s : State) (j : Fin 16) (o : SynOut) : (s.setSynOut j o).brc = s.brc := rfl
@[simp] theorem State.setSynOut_adr (s : State) (j : Fin 16) (o : SynOut) : (s.setSynOut j o).adr = s.adr := rfl
@[simp] theorem State.setSynOut_fch (s : State) (j : Fin 16) (o : SynOut) : (s.setSynOut j o).fch = s.fch := rfl

/-! ### setAtt -/

@[simp] theorem State.setAtt_regs (s : State) (i : Fin 68) (x : AttSt) : (s.setAtt i x).regs = s.regs := rfl
@[simp] theorem State.setAtt_mem (s : State) (i : Fin 68) (x : AttSt) : (s.setAtt i x).mem = s.mem := rfl
@[simp] theorem State.setAtt_bad (s : State) (i : Fin 68) (x : AttSt) : (s.setAtt i x).bad = s.bad := rfl
@[simp] theorem State.setAtt_soft (s : State) (i : Fin 68) (x : AttSt) : (s.setAtt i x).soft = s.soft := rfl
@[simp] theorem State.setAtt_pending (s : State) (i : Fin 68) (x : AttSt) : (s.setAtt i x).pending = s.pending := rfl
@[simp] theorem State.setAtt_draw (s : State) (i : Fin 68) (x : AttSt) : (s.setAtt i x).draw = s.draw := rfl
@[simp] theorem State.setAtt_answer (s : State) (i : Fin 68) (x : AttSt) : (s.setAtt i x).answer = s.answer := rfl
@[simp] theorem State.setAtt_latch (s : State) (i : Fin 68) (x : AttSt) : (s.setAtt i x).latch = s.latch := rfl
@[simp] theorem State.setAtt_holdw (s : State) (i : Fin 68) (x : AttSt) : (s.setAtt i x).holdw = s.holdw := rfl
@[simp] theorem State.setAtt_time (s : State) (i : Fin 68) (x : AttSt) : (s.setAtt i x).time = s.time := rfl
@[simp] theorem State.setAtt_knl (s : State) (i : Fin 68) (x : AttSt) : (s.setAtt i x).knl = s.knl := rfl
@[simp] theorem State.setAtt_kspi (s : State) (i : Fin 68) (x : AttSt) : (s.setAtt i x).kspi = s.kspi := rfl
@[simp] theorem State.setAtt_flt (s : State) (i : Fin 68) (x : AttSt) : (s.setAtt i x).flt = s.flt := rfl
@[simp] theorem State.setAtt_refs (s : State) (i : Fin 68) (x : AttSt) : (s.setAtt i x).refs = s.refs := rfl
@[simp] theorem State.setAtt_lsh (s : State) (i : Fin 68) (x : AttSt) : (s.setAtt i x).lsh = s.lsh := rfl
@[simp] theorem State.setAtt_tim (s : State) (i : Fin 68) (x : AttSt) : (s.setAtt i x).tim = s.tim := rfl
@[simp] theorem State.setAtt_eng (s : State) (i : Fin 68) (x : AttSt) : (s.setAtt i x).eng = s.eng := rfl
@[simp] theorem State.setAtt_mtx (s : State) (i : Fin 68) (x : AttSt) : (s.setAtt i x).mtx = s.mtx := rfl
@[simp] theorem State.setAtt_jobs (s : State) (i : Fin 68) (x : AttSt) : (s.setAtt i x).jobs = s.jobs := rfl
@[simp] theorem State.setAtt_sec (s : State) (i : Fin 68) (x : AttSt) : (s.setAtt i x).sec = s.sec := rfl
@[simp] theorem State.setAtt_syn (s : State) (i : Fin 68) (x : AttSt) : (s.setAtt i x).syn = s.syn := rfl
@[simp] theorem State.setAtt_obsv (s : State) (i : Fin 68) (x : AttSt) : (s.setAtt i x).obsv = s.obsv := rfl
@[simp] theorem State.setAtt_pwr (s : State) (i : Fin 68) (x : AttSt) : (s.setAtt i x).pwr = s.pwr := rfl
@[simp] theorem State.setAtt_aon (s : State) (i : Fin 68) (x : AttSt) : (s.setAtt i x).aon = s.aon := rfl
@[simp] theorem State.setAtt_gns (s : State) (i : Fin 68) (x : AttSt) : (s.setAtt i x).gns = s.gns := rfl
@[simp] theorem State.setAtt_prt (s : State) (i : Fin 68) (x : AttSt) : (s.setAtt i x).prt = s.prt := rfl
@[simp] theorem State.setAtt_hst (s : State) (i : Fin 68) (x : AttSt) : (s.setAtt i x).hst = s.hst := rfl
@[simp] theorem State.setAtt_srv (s : State) (i : Fin 68) (x : AttSt) : (s.setAtt i x).srv = s.srv := rfl
@[simp] theorem State.setAtt_pck (s : State) (i : Fin 68) (x : AttSt) : (s.setAtt i x).pck = { s.pck with att := s.pck.att.set i x } := rfl
@[simp] theorem State.setAtt_brc (s : State) (i : Fin 68) (x : AttSt) : (s.setAtt i x).brc = s.brc := rfl
@[simp] theorem State.setAtt_adr (s : State) (i : Fin 68) (x : AttSt) : (s.setAtt i x).adr = s.adr := rfl
@[simp] theorem State.setAtt_fch (s : State) (i : Fin 68) (x : AttSt) : (s.setAtt i x).fch = s.fch := rfl

/-! ### setBrc -/

@[simp] theorem State.setBrc_regs (s : State) (x : BrcSt) : (s.setBrc x).regs = s.regs := rfl
@[simp] theorem State.setBrc_mem (s : State) (x : BrcSt) : (s.setBrc x).mem = s.mem := rfl
@[simp] theorem State.setBrc_bad (s : State) (x : BrcSt) : (s.setBrc x).bad = s.bad := rfl
@[simp] theorem State.setBrc_soft (s : State) (x : BrcSt) : (s.setBrc x).soft = s.soft := rfl
@[simp] theorem State.setBrc_pending (s : State) (x : BrcSt) : (s.setBrc x).pending = s.pending := rfl
@[simp] theorem State.setBrc_draw (s : State) (x : BrcSt) : (s.setBrc x).draw = s.draw := rfl
@[simp] theorem State.setBrc_answer (s : State) (x : BrcSt) : (s.setBrc x).answer = s.answer := rfl
@[simp] theorem State.setBrc_latch (s : State) (x : BrcSt) : (s.setBrc x).latch = s.latch := rfl
@[simp] theorem State.setBrc_holdw (s : State) (x : BrcSt) : (s.setBrc x).holdw = s.holdw := rfl
@[simp] theorem State.setBrc_time (s : State) (x : BrcSt) : (s.setBrc x).time = s.time := rfl
@[simp] theorem State.setBrc_knl (s : State) (x : BrcSt) : (s.setBrc x).knl = s.knl := rfl
@[simp] theorem State.setBrc_kspi (s : State) (x : BrcSt) : (s.setBrc x).kspi = s.kspi := rfl
@[simp] theorem State.setBrc_flt (s : State) (x : BrcSt) : (s.setBrc x).flt = s.flt := rfl
@[simp] theorem State.setBrc_refs (s : State) (x : BrcSt) : (s.setBrc x).refs = s.refs := rfl
@[simp] theorem State.setBrc_lsh (s : State) (x : BrcSt) : (s.setBrc x).lsh = s.lsh := rfl
@[simp] theorem State.setBrc_tim (s : State) (x : BrcSt) : (s.setBrc x).tim = s.tim := rfl
@[simp] theorem State.setBrc_eng (s : State) (x : BrcSt) : (s.setBrc x).eng = s.eng := rfl
@[simp] theorem State.setBrc_mtx (s : State) (x : BrcSt) : (s.setBrc x).mtx = s.mtx := rfl
@[simp] theorem State.setBrc_jobs (s : State) (x : BrcSt) : (s.setBrc x).jobs = s.jobs := rfl
@[simp] theorem State.setBrc_sec (s : State) (x : BrcSt) : (s.setBrc x).sec = s.sec := rfl
@[simp] theorem State.setBrc_syn (s : State) (x : BrcSt) : (s.setBrc x).syn = s.syn := rfl
@[simp] theorem State.setBrc_obsv (s : State) (x : BrcSt) : (s.setBrc x).obsv = s.obsv := rfl
@[simp] theorem State.setBrc_pwr (s : State) (x : BrcSt) : (s.setBrc x).pwr = s.pwr := rfl
@[simp] theorem State.setBrc_aon (s : State) (x : BrcSt) : (s.setBrc x).aon = s.aon := rfl
@[simp] theorem State.setBrc_gns (s : State) (x : BrcSt) : (s.setBrc x).gns = s.gns := rfl
@[simp] theorem State.setBrc_prt (s : State) (x : BrcSt) : (s.setBrc x).prt = s.prt := rfl
@[simp] theorem State.setBrc_hst (s : State) (x : BrcSt) : (s.setBrc x).hst = s.hst := rfl
@[simp] theorem State.setBrc_srv (s : State) (x : BrcSt) : (s.setBrc x).srv = s.srv := rfl
@[simp] theorem State.setBrc_pck (s : State) (x : BrcSt) : (s.setBrc x).pck = s.pck := rfl
@[simp] theorem State.setBrc_brc (s : State) (x : BrcSt) : (s.setBrc x).brc = x := rfl
@[simp] theorem State.setBrc_adr (s : State) (x : BrcSt) : (s.setBrc x).adr = s.adr := rfl
@[simp] theorem State.setBrc_fch (s : State) (x : BrcSt) : (s.setBrc x).fch = s.fch := rfl

/-! ### setAdr -/

@[simp] theorem State.setAdr_regs (s : State) (n : Fin 4) (x : AdrPort) : (s.setAdr n x).regs = s.regs := rfl
@[simp] theorem State.setAdr_mem (s : State) (n : Fin 4) (x : AdrPort) : (s.setAdr n x).mem = s.mem := rfl
@[simp] theorem State.setAdr_bad (s : State) (n : Fin 4) (x : AdrPort) : (s.setAdr n x).bad = s.bad := rfl
@[simp] theorem State.setAdr_soft (s : State) (n : Fin 4) (x : AdrPort) : (s.setAdr n x).soft = s.soft := rfl
@[simp] theorem State.setAdr_pending (s : State) (n : Fin 4) (x : AdrPort) : (s.setAdr n x).pending = s.pending := rfl
@[simp] theorem State.setAdr_draw (s : State) (n : Fin 4) (x : AdrPort) : (s.setAdr n x).draw = s.draw := rfl
@[simp] theorem State.setAdr_answer (s : State) (n : Fin 4) (x : AdrPort) : (s.setAdr n x).answer = s.answer := rfl
@[simp] theorem State.setAdr_latch (s : State) (n : Fin 4) (x : AdrPort) : (s.setAdr n x).latch = s.latch := rfl
@[simp] theorem State.setAdr_holdw (s : State) (n : Fin 4) (x : AdrPort) : (s.setAdr n x).holdw = s.holdw := rfl
@[simp] theorem State.setAdr_time (s : State) (n : Fin 4) (x : AdrPort) : (s.setAdr n x).time = s.time := rfl
@[simp] theorem State.setAdr_knl (s : State) (n : Fin 4) (x : AdrPort) : (s.setAdr n x).knl = s.knl := rfl
@[simp] theorem State.setAdr_kspi (s : State) (n : Fin 4) (x : AdrPort) : (s.setAdr n x).kspi = s.kspi := rfl
@[simp] theorem State.setAdr_flt (s : State) (n : Fin 4) (x : AdrPort) : (s.setAdr n x).flt = s.flt := rfl
@[simp] theorem State.setAdr_refs (s : State) (n : Fin 4) (x : AdrPort) : (s.setAdr n x).refs = s.refs := rfl
@[simp] theorem State.setAdr_lsh (s : State) (n : Fin 4) (x : AdrPort) : (s.setAdr n x).lsh = s.lsh := rfl
@[simp] theorem State.setAdr_tim (s : State) (n : Fin 4) (x : AdrPort) : (s.setAdr n x).tim = s.tim := rfl
@[simp] theorem State.setAdr_eng (s : State) (n : Fin 4) (x : AdrPort) : (s.setAdr n x).eng = s.eng := rfl
@[simp] theorem State.setAdr_mtx (s : State) (n : Fin 4) (x : AdrPort) : (s.setAdr n x).mtx = s.mtx := rfl
@[simp] theorem State.setAdr_jobs (s : State) (n : Fin 4) (x : AdrPort) : (s.setAdr n x).jobs = s.jobs := rfl
@[simp] theorem State.setAdr_sec (s : State) (n : Fin 4) (x : AdrPort) : (s.setAdr n x).sec = s.sec := rfl
@[simp] theorem State.setAdr_syn (s : State) (n : Fin 4) (x : AdrPort) : (s.setAdr n x).syn = s.syn := rfl
@[simp] theorem State.setAdr_obsv (s : State) (n : Fin 4) (x : AdrPort) : (s.setAdr n x).obsv = s.obsv := rfl
@[simp] theorem State.setAdr_pwr (s : State) (n : Fin 4) (x : AdrPort) : (s.setAdr n x).pwr = s.pwr := rfl
@[simp] theorem State.setAdr_aon (s : State) (n : Fin 4) (x : AdrPort) : (s.setAdr n x).aon = s.aon := rfl
@[simp] theorem State.setAdr_gns (s : State) (n : Fin 4) (x : AdrPort) : (s.setAdr n x).gns = s.gns := rfl
@[simp] theorem State.setAdr_prt (s : State) (n : Fin 4) (x : AdrPort) : (s.setAdr n x).prt = s.prt := rfl
@[simp] theorem State.setAdr_hst (s : State) (n : Fin 4) (x : AdrPort) : (s.setAdr n x).hst = s.hst := rfl
@[simp] theorem State.setAdr_srv (s : State) (n : Fin 4) (x : AdrPort) : (s.setAdr n x).srv = s.srv := rfl
@[simp] theorem State.setAdr_pck (s : State) (n : Fin 4) (x : AdrPort) : (s.setAdr n x).pck = s.pck := rfl
@[simp] theorem State.setAdr_brc (s : State) (n : Fin 4) (x : AdrPort) : (s.setAdr n x).brc = s.brc := rfl
@[simp] theorem State.setAdr_adr (s : State) (n : Fin 4) (x : AdrPort) : (s.setAdr n x).adr = { s.adr with port := s.adr.port.set n x } := rfl
@[simp] theorem State.setAdr_fch (s : State) (n : Fin 4) (x : AdrPort) : (s.setAdr n x).fch = s.fch := rfl

/-! ### kpllEdges -/

@[simp] theorem State.kpllEdges_regs (s : State) (edges : BitVec 4) : (s.kpllEdges edges).regs = s.regs := rfl
@[simp] theorem State.kpllEdges_mem (s : State) (edges : BitVec 4) : (s.kpllEdges edges).mem = s.mem := rfl
@[simp] theorem State.kpllEdges_bad (s : State) (edges : BitVec 4) : (s.kpllEdges edges).bad = s.bad := rfl
@[simp] theorem State.kpllEdges_soft (s : State) (edges : BitVec 4) : (s.kpllEdges edges).soft = s.soft := rfl
@[simp] theorem State.kpllEdges_pending (s : State) (edges : BitVec 4) : (s.kpllEdges edges).pending = s.pending := rfl
@[simp] theorem State.kpllEdges_draw (s : State) (edges : BitVec 4) : (s.kpllEdges edges).draw = s.draw := rfl
@[simp] theorem State.kpllEdges_answer (s : State) (edges : BitVec 4) : (s.kpllEdges edges).answer = s.answer := rfl
@[simp] theorem State.kpllEdges_latch (s : State) (edges : BitVec 4) : (s.kpllEdges edges).latch = s.latch := rfl
@[simp] theorem State.kpllEdges_holdw (s : State) (edges : BitVec 4) : (s.kpllEdges edges).holdw = s.holdw := rfl
@[simp] theorem State.kpllEdges_time (s : State) (edges : BitVec 4) : (s.kpllEdges edges).time = s.time := rfl
@[simp] theorem State.kpllEdges_knl (s : State) (edges : BitVec 4) : (s.kpllEdges edges).knl = s.knl := rfl
@[simp] theorem State.kpllEdges_kspi (s : State) (edges : BitVec 4) : (s.kpllEdges edges).kspi = s.kspi := rfl
@[simp] theorem State.kpllEdges_flt (s : State) (edges : BitVec 4) : (s.kpllEdges edges).flt = s.flt := rfl
@[simp] theorem State.kpllEdges_refs (s : State) (edges : BitVec 4) : (s.kpllEdges edges).refs = s.refs := rfl
@[simp] theorem State.kpllEdges_lsh (s : State) (edges : BitVec 4) : (s.kpllEdges edges).lsh = s.lsh := rfl
@[simp] theorem State.kpllEdges_tim (s : State) (edges : BitVec 4) : (s.kpllEdges edges).tim = s.tim := rfl
@[simp] theorem State.kpllEdges_eng (s : State) (edges : BitVec 4) : (s.kpllEdges edges).eng = s.eng := rfl
@[simp] theorem State.kpllEdges_mtx (s : State) (edges : BitVec 4) : (s.kpllEdges edges).mtx = s.mtx := rfl
@[simp] theorem State.kpllEdges_jobs (s : State) (edges : BitVec 4) : (s.kpllEdges edges).jobs = s.jobs := rfl
@[simp] theorem State.kpllEdges_sec (s : State) (edges : BitVec 4) : (s.kpllEdges edges).sec = s.sec := rfl
@[simp] theorem State.kpllEdges_syn (s : State) (edges : BitVec 4) : (s.kpllEdges edges).syn = s.syn := rfl
@[simp] theorem State.kpllEdges_obsv (s : State) (edges : BitVec 4) : (s.kpllEdges edges).obsv = s.obsv := rfl
@[simp] theorem State.kpllEdges_pwr (s : State) (edges : BitVec 4) : (s.kpllEdges edges).pwr = { s.pwr with edges := edges } := rfl
@[simp] theorem State.kpllEdges_aon (s : State) (edges : BitVec 4) : (s.kpllEdges edges).aon = s.aon := rfl
@[simp] theorem State.kpllEdges_gns (s : State) (edges : BitVec 4) : (s.kpllEdges edges).gns = s.gns := rfl
@[simp] theorem State.kpllEdges_prt (s : State) (edges : BitVec 4) : (s.kpllEdges edges).prt = s.prt := rfl
@[simp] theorem State.kpllEdges_hst (s : State) (edges : BitVec 4) : (s.kpllEdges edges).hst = s.hst := rfl
@[simp] theorem State.kpllEdges_srv (s : State) (edges : BitVec 4) : (s.kpllEdges edges).srv = s.srv := rfl
@[simp] theorem State.kpllEdges_pck (s : State) (edges : BitVec 4) : (s.kpllEdges edges).pck = s.pck := rfl
@[simp] theorem State.kpllEdges_brc (s : State) (edges : BitVec 4) : (s.kpllEdges edges).brc = s.brc := rfl
@[simp] theorem State.kpllEdges_adr (s : State) (edges : BitVec 4) : (s.kpllEdges edges).adr = s.adr := rfl
@[simp] theorem State.kpllEdges_fch (s : State) (edges : BitVec 4) : (s.kpllEdges edges).fch = s.fch := rfl

/-! ### set -/

@[simp] theorem State.set_mem (s : State) (f : Fld) (i v : Nat) : (s.set f i v).mem = s.mem := by
  obtain ⟨r, h⟩ := set_regs s f i v; rw [h]
@[simp] theorem State.set_bad (s : State) (f : Fld) (i v : Nat) : (s.set f i v).bad = s.bad := by
  obtain ⟨r, h⟩ := set_regs s f i v; rw [h]
@[simp] theorem State.set_soft (s : State) (f : Fld) (i v : Nat) : (s.set f i v).soft = s.soft := by
  obtain ⟨r, h⟩ := set_regs s f i v; rw [h]
@[simp] theorem State.set_pending (s : State) (f : Fld) (i v : Nat) : (s.set f i v).pending = s.pending := by
  obtain ⟨r, h⟩ := set_regs s f i v; rw [h]
@[simp] theorem State.set_draw (s : State) (f : Fld) (i v : Nat) : (s.set f i v).draw = s.draw := by
  obtain ⟨r, h⟩ := set_regs s f i v; rw [h]
@[simp] theorem State.set_answer (s : State) (f : Fld) (i v : Nat) : (s.set f i v).answer = s.answer := by
  obtain ⟨r, h⟩ := set_regs s f i v; rw [h]
@[simp] theorem State.set_latch (s : State) (f : Fld) (i v : Nat) : (s.set f i v).latch = s.latch := by
  obtain ⟨r, h⟩ := set_regs s f i v; rw [h]
@[simp] theorem State.set_holdw (s : State) (f : Fld) (i v : Nat) : (s.set f i v).holdw = s.holdw := by
  obtain ⟨r, h⟩ := set_regs s f i v; rw [h]
@[simp] theorem State.set_time (s : State) (f : Fld) (i v : Nat) : (s.set f i v).time = s.time := by
  obtain ⟨r, h⟩ := set_regs s f i v; rw [h]
@[simp] theorem State.set_knl (s : State) (f : Fld) (i v : Nat) : (s.set f i v).knl = s.knl := by
  obtain ⟨r, h⟩ := set_regs s f i v; rw [h]
@[simp] theorem State.set_kspi (s : State) (f : Fld) (i v : Nat) : (s.set f i v).kspi = s.kspi := by
  obtain ⟨r, h⟩ := set_regs s f i v; rw [h]
@[simp] theorem State.set_flt (s : State) (f : Fld) (i v : Nat) : (s.set f i v).flt = s.flt := by
  obtain ⟨r, h⟩ := set_regs s f i v; rw [h]
@[simp] theorem State.set_refs (s : State) (f : Fld) (i v : Nat) : (s.set f i v).refs = s.refs := by
  obtain ⟨r, h⟩ := set_regs s f i v; rw [h]
@[simp] theorem State.set_lsh (s : State) (f : Fld) (i v : Nat) : (s.set f i v).lsh = s.lsh := by
  obtain ⟨r, h⟩ := set_regs s f i v; rw [h]
@[simp] theorem State.set_tim (s : State) (f : Fld) (i v : Nat) : (s.set f i v).tim = s.tim := by
  obtain ⟨r, h⟩ := set_regs s f i v; rw [h]
@[simp] theorem State.set_eng (s : State) (f : Fld) (i v : Nat) : (s.set f i v).eng = s.eng := by
  obtain ⟨r, h⟩ := set_regs s f i v; rw [h]
@[simp] theorem State.set_mtx (s : State) (f : Fld) (i v : Nat) : (s.set f i v).mtx = s.mtx := by
  obtain ⟨r, h⟩ := set_regs s f i v; rw [h]
@[simp] theorem State.set_jobs (s : State) (f : Fld) (i v : Nat) : (s.set f i v).jobs = s.jobs := by
  obtain ⟨r, h⟩ := set_regs s f i v; rw [h]
@[simp] theorem State.set_sec (s : State) (f : Fld) (i v : Nat) : (s.set f i v).sec = s.sec := by
  obtain ⟨r, h⟩ := set_regs s f i v; rw [h]
@[simp] theorem State.set_syn (s : State) (f : Fld) (i v : Nat) : (s.set f i v).syn = s.syn := by
  obtain ⟨r, h⟩ := set_regs s f i v; rw [h]
@[simp] theorem State.set_obsv (s : State) (f : Fld) (i v : Nat) : (s.set f i v).obsv = s.obsv := by
  obtain ⟨r, h⟩ := set_regs s f i v; rw [h]
@[simp] theorem State.set_pwr (s : State) (f : Fld) (i v : Nat) : (s.set f i v).pwr = s.pwr := by
  obtain ⟨r, h⟩ := set_regs s f i v; rw [h]
@[simp] theorem State.set_aon (s : State) (f : Fld) (i v : Nat) : (s.set f i v).aon = s.aon := by
  obtain ⟨r, h⟩ := set_regs s f i v; rw [h]
@[simp] theorem State.set_gns (s : State) (f : Fld) (i v : Nat) : (s.set f i v).gns = s.gns := by
  obtain ⟨r, h⟩ := set_regs s f i v; rw [h]
@[simp] theorem State.set_prt (s : State) (f : Fld) (i v : Nat) : (s.set f i v).prt = s.prt := by
  obtain ⟨r, h⟩ := set_regs s f i v; rw [h]
@[simp] theorem State.set_hst (s : State) (f : Fld) (i v : Nat) : (s.set f i v).hst = s.hst := by
  obtain ⟨r, h⟩ := set_regs s f i v; rw [h]
@[simp] theorem State.set_srv (s : State) (f : Fld) (i v : Nat) : (s.set f i v).srv = s.srv := by
  obtain ⟨r, h⟩ := set_regs s f i v; rw [h]
@[simp] theorem State.set_pck (s : State) (f : Fld) (i v : Nat) : (s.set f i v).pck = s.pck := by
  obtain ⟨r, h⟩ := set_regs s f i v; rw [h]
@[simp] theorem State.set_brc (s : State) (f : Fld) (i v : Nat) : (s.set f i v).brc = s.brc := by
  obtain ⟨r, h⟩ := set_regs s f i v; rw [h]
@[simp] theorem State.set_adr (s : State) (f : Fld) (i v : Nat) : (s.set f i v).adr = s.adr := by
  obtain ⟨r, h⟩ := set_regs s f i v; rw [h]
@[simp] theorem State.set_fch (s : State) (f : Fld) (i v : Nat) : (s.set f i v).fch = s.fch := by
  obtain ⟨r, h⟩ := set_regs s f i v; rw [h]

/-! ### setFlag -/

theorem setFlag_regs (s : State) (f : Fld) (i : Nat) (b : Bool) : ∃ r, s.setFlag f i b = { s with regs := r } := set_regs ..

@[simp] theorem State.setFlag_mem (s : State) (f : Fld) (i : Nat) (b : Bool) : (s.setFlag f i b).mem = s.mem := by
  obtain ⟨r, h⟩ := setFlag_regs s f i b; rw [h]
@[simp] theorem State.setFlag_bad (s : State) (f : Fld) (i : Nat) (b : Bool) : (s.setFlag f i b).bad = s.bad := by
  obtain ⟨r, h⟩ := setFlag_regs s f i b; rw [h]
@[simp] theorem State.setFlag_soft (s : State) (f : Fld) (i : Nat) (b : Bool) : (s.setFlag f i b).soft = s.soft := by
  obtain ⟨r, h⟩ := setFlag_regs s f i b; rw [h]
@[simp] theorem State.setFlag_pending (s : State) (f : Fld) (i : Nat) (b : Bool) : (s.setFlag f i b).pending = s.pending := by
  obtain ⟨r, h⟩ := setFlag_regs s f i b; rw [h]
@[simp] theorem State.setFlag_draw (s : State) (f : Fld) (i : Nat) (b : Bool) : (s.setFlag f i b).draw = s.draw := by
  obtain ⟨r, h⟩ := setFlag_regs s f i b; rw [h]
@[simp] theorem State.setFlag_answer (s : State) (f : Fld) (i : Nat) (b : Bool) : (s.setFlag f i b).answer = s.answer := by
  obtain ⟨r, h⟩ := setFlag_regs s f i b; rw [h]
@[simp] theorem State.setFlag_latch (s : State) (f : Fld) (i : Nat) (b : Bool) : (s.setFlag f i b).latch = s.latch := by
  obtain ⟨r, h⟩ := setFlag_regs s f i b; rw [h]
@[simp] theorem State.setFlag_holdw (s : State) (f : Fld) (i : Nat) (b : Bool) : (s.setFlag f i b).holdw = s.holdw := by
  obtain ⟨r, h⟩ := setFlag_regs s f i b; rw [h]
@[simp] theorem State.setFlag_time (s : State) (f : Fld) (i : Nat) (b : Bool) : (s.setFlag f i b).time = s.time := by
  obtain ⟨r, h⟩ := setFlag_regs s f i b; rw [h]
@[simp] theorem State.setFlag_knl (s : State) (f : Fld) (i : Nat) (b : Bool) : (s.setFlag f i b).knl = s.knl := by
  obtain ⟨r, h⟩ := setFlag_regs s f i b; rw [h]
@[simp] theorem State.setFlag_kspi (s : State) (f : Fld) (i : Nat) (b : Bool) : (s.setFlag f i b).kspi = s.kspi := by
  obtain ⟨r, h⟩ := setFlag_regs s f i b; rw [h]
@[simp] theorem State.setFlag_flt (s : State) (f : Fld) (i : Nat) (b : Bool) : (s.setFlag f i b).flt = s.flt := by
  obtain ⟨r, h⟩ := setFlag_regs s f i b; rw [h]
@[simp] theorem State.setFlag_refs (s : State) (f : Fld) (i : Nat) (b : Bool) : (s.setFlag f i b).refs = s.refs := by
  obtain ⟨r, h⟩ := setFlag_regs s f i b; rw [h]
@[simp] theorem State.setFlag_lsh (s : State) (f : Fld) (i : Nat) (b : Bool) : (s.setFlag f i b).lsh = s.lsh := by
  obtain ⟨r, h⟩ := setFlag_regs s f i b; rw [h]
@[simp] theorem State.setFlag_tim (s : State) (f : Fld) (i : Nat) (b : Bool) : (s.setFlag f i b).tim = s.tim := by
  obtain ⟨r, h⟩ := setFlag_regs s f i b; rw [h]
@[simp] theorem State.setFlag_eng (s : State) (f : Fld) (i : Nat) (b : Bool) : (s.setFlag f i b).eng = s.eng := by
  obtain ⟨r, h⟩ := setFlag_regs s f i b; rw [h]
@[simp] theorem State.setFlag_mtx (s : State) (f : Fld) (i : Nat) (b : Bool) : (s.setFlag f i b).mtx = s.mtx := by
  obtain ⟨r, h⟩ := setFlag_regs s f i b; rw [h]
@[simp] theorem State.setFlag_jobs (s : State) (f : Fld) (i : Nat) (b : Bool) : (s.setFlag f i b).jobs = s.jobs := by
  obtain ⟨r, h⟩ := setFlag_regs s f i b; rw [h]
@[simp] theorem State.setFlag_sec (s : State) (f : Fld) (i : Nat) (b : Bool) : (s.setFlag f i b).sec = s.sec := by
  obtain ⟨r, h⟩ := setFlag_regs s f i b; rw [h]
@[simp] theorem State.setFlag_syn (s : State) (f : Fld) (i : Nat) (b : Bool) : (s.setFlag f i b).syn = s.syn := by
  obtain ⟨r, h⟩ := setFlag_regs s f i b; rw [h]
@[simp] theorem State.setFlag_obsv (s : State) (f : Fld) (i : Nat) (b : Bool) : (s.setFlag f i b).obsv = s.obsv := by
  obtain ⟨r, h⟩ := setFlag_regs s f i b; rw [h]
@[simp] theorem State.setFlag_pwr (s : State) (f : Fld) (i : Nat) (b : Bool) : (s.setFlag f i b).pwr = s.pwr := by
  obtain ⟨r, h⟩ := setFlag_regs s f i b; rw [h]
@[simp] theorem State.setFlag_aon (s : State) (f : Fld) (i : Nat) (b : Bool) : (s.setFlag f i b).aon = s.aon := by
  obtain ⟨r, h⟩ := setFlag_regs s f i b; rw [h]
@[simp] theorem State.setFlag_gns (s : State) (f : Fld) (i : Nat) (b : Bool) : (s.setFlag f i b).gns = s.gns := by
  obtain ⟨r, h⟩ := setFlag_regs s f i b; rw [h]
@[simp] theorem State.setFlag_prt (s : State) (f : Fld) (i : Nat) (b : Bool) : (s.setFlag f i b).prt = s.prt := by
  obtain ⟨r, h⟩ := setFlag_regs s f i b; rw [h]
@[simp] theorem State.setFlag_hst (s : State) (f : Fld) (i : Nat) (b : Bool) : (s.setFlag f i b).hst = s.hst := by
  obtain ⟨r, h⟩ := setFlag_regs s f i b; rw [h]
@[simp] theorem State.setFlag_srv (s : State) (f : Fld) (i : Nat) (b : Bool) : (s.setFlag f i b).srv = s.srv := by
  obtain ⟨r, h⟩ := setFlag_regs s f i b; rw [h]
@[simp] theorem State.setFlag_pck (s : State) (f : Fld) (i : Nat) (b : Bool) : (s.setFlag f i b).pck = s.pck := by
  obtain ⟨r, h⟩ := setFlag_regs s f i b; rw [h]
@[simp] theorem State.setFlag_brc (s : State) (f : Fld) (i : Nat) (b : Bool) : (s.setFlag f i b).brc = s.brc := by
  obtain ⟨r, h⟩ := setFlag_regs s f i b; rw [h]
@[simp] theorem State.setFlag_adr (s : State) (f : Fld) (i : Nat) (b : Bool) : (s.setFlag f i b).adr = s.adr := by
  obtain ⟨r, h⟩ := setFlag_regs s f i b; rw [h]
@[simp] theorem State.setFlag_fch (s : State) (f : Fld) (i : Nat) (b : Bool) : (s.setFlag f i b).fch = s.fch := by
  obtain ⟨r, h⟩ := setFlag_regs s f i b; rw [h]

/-! ### bump -/

theorem bump_regs (s : State) (f : Fld) (i by_ : Nat) : ∃ r, s.bump f i by_ = { s with regs := r } := set_regs ..

@[simp] theorem State.bump_mem (s : State) (f : Fld) (i by_ : Nat) : (s.bump f i by_).mem = s.mem := by
  obtain ⟨r, h⟩ := bump_regs s f i by_; rw [h]
@[simp] theorem State.bump_bad (s : State) (f : Fld) (i by_ : Nat) : (s.bump f i by_).bad = s.bad := by
  obtain ⟨r, h⟩ := bump_regs s f i by_; rw [h]
@[simp] theorem State.bump_soft (s : State) (f : Fld) (i by_ : Nat) : (s.bump f i by_).soft = s.soft := by
  obtain ⟨r, h⟩ := bump_regs s f i by_; rw [h]
@[simp] theorem State.bump_pending (s : State) (f : Fld) (i by_ : Nat) : (s.bump f i by_).pending = s.pending := by
  obtain ⟨r, h⟩ := bump_regs s f i by_; rw [h]
@[simp] theorem State.bump_draw (s : State) (f : Fld) (i by_ : Nat) : (s.bump f i by_).draw = s.draw := by
  obtain ⟨r, h⟩ := bump_regs s f i by_; rw [h]
@[simp] theorem State.bump_answer (s : State) (f : Fld) (i by_ : Nat) : (s.bump f i by_).answer = s.answer := by
  obtain ⟨r, h⟩ := bump_regs s f i by_; rw [h]
@[simp] theorem State.bump_latch (s : State) (f : Fld) (i by_ : Nat) : (s.bump f i by_).latch = s.latch := by
  obtain ⟨r, h⟩ := bump_regs s f i by_; rw [h]
@[simp] theorem State.bump_holdw (s : State) (f : Fld) (i by_ : Nat) : (s.bump f i by_).holdw = s.holdw := by
  obtain ⟨r, h⟩ := bump_regs s f i by_; rw [h]
@[simp] theorem State.bump_time (s : State) (f : Fld) (i by_ : Nat) : (s.bump f i by_).time = s.time := by
  obtain ⟨r, h⟩ := bump_regs s f i by_; rw [h]
@[simp] theorem State.bump_knl (s : State) (f : Fld) (i by_ : Nat) : (s.bump f i by_).knl = s.knl := by
  obtain ⟨r, h⟩ := bump_regs s f i by_; rw [h]
@[simp] theorem State.bump_kspi (s : State) (f : Fld) (i by_ : Nat) : (s.bump f i by_).kspi = s.kspi := by
  obtain ⟨r, h⟩ := bump_regs s f i by_; rw [h]
@[simp] theorem State.bump_flt (s : State) (f : Fld) (i by_ : Nat) : (s.bump f i by_).flt = s.flt := by
  obtain ⟨r, h⟩ := bump_regs s f i by_; rw [h]
@[simp] theorem State.bump_refs (s : State) (f : Fld) (i by_ : Nat) : (s.bump f i by_).refs = s.refs := by
  obtain ⟨r, h⟩ := bump_regs s f i by_; rw [h]
@[simp] theorem State.bump_lsh (s : State) (f : Fld) (i by_ : Nat) : (s.bump f i by_).lsh = s.lsh := by
  obtain ⟨r, h⟩ := bump_regs s f i by_; rw [h]
@[simp] theorem State.bump_tim (s : State) (f : Fld) (i by_ : Nat) : (s.bump f i by_).tim = s.tim := by
  obtain ⟨r, h⟩ := bump_regs s f i by_; rw [h]
@[simp] theorem State.bump_eng (s : State) (f : Fld) (i by_ : Nat) : (s.bump f i by_).eng = s.eng := by
  obtain ⟨r, h⟩ := bump_regs s f i by_; rw [h]
@[simp] theorem State.bump_mtx (s : State) (f : Fld) (i by_ : Nat) : (s.bump f i by_).mtx = s.mtx := by
  obtain ⟨r, h⟩ := bump_regs s f i by_; rw [h]
@[simp] theorem State.bump_jobs (s : State) (f : Fld) (i by_ : Nat) : (s.bump f i by_).jobs = s.jobs := by
  obtain ⟨r, h⟩ := bump_regs s f i by_; rw [h]
@[simp] theorem State.bump_sec (s : State) (f : Fld) (i by_ : Nat) : (s.bump f i by_).sec = s.sec := by
  obtain ⟨r, h⟩ := bump_regs s f i by_; rw [h]
@[simp] theorem State.bump_syn (s : State) (f : Fld) (i by_ : Nat) : (s.bump f i by_).syn = s.syn := by
  obtain ⟨r, h⟩ := bump_regs s f i by_; rw [h]
@[simp] theorem State.bump_obsv (s : State) (f : Fld) (i by_ : Nat) : (s.bump f i by_).obsv = s.obsv := by
  obtain ⟨r, h⟩ := bump_regs s f i by_; rw [h]
@[simp] theorem State.bump_pwr (s : State) (f : Fld) (i by_ : Nat) : (s.bump f i by_).pwr = s.pwr := by
  obtain ⟨r, h⟩ := bump_regs s f i by_; rw [h]
@[simp] theorem State.bump_aon (s : State) (f : Fld) (i by_ : Nat) : (s.bump f i by_).aon = s.aon := by
  obtain ⟨r, h⟩ := bump_regs s f i by_; rw [h]
@[simp] theorem State.bump_gns (s : State) (f : Fld) (i by_ : Nat) : (s.bump f i by_).gns = s.gns := by
  obtain ⟨r, h⟩ := bump_regs s f i by_; rw [h]
@[simp] theorem State.bump_prt (s : State) (f : Fld) (i by_ : Nat) : (s.bump f i by_).prt = s.prt := by
  obtain ⟨r, h⟩ := bump_regs s f i by_; rw [h]
@[simp] theorem State.bump_hst (s : State) (f : Fld) (i by_ : Nat) : (s.bump f i by_).hst = s.hst := by
  obtain ⟨r, h⟩ := bump_regs s f i by_; rw [h]
@[simp] theorem State.bump_srv (s : State) (f : Fld) (i by_ : Nat) : (s.bump f i by_).srv = s.srv := by
  obtain ⟨r, h⟩ := bump_regs s f i by_; rw [h]
@[simp] theorem State.bump_pck (s : State) (f : Fld) (i by_ : Nat) : (s.bump f i by_).pck = s.pck := by
  obtain ⟨r, h⟩ := bump_regs s f i by_; rw [h]
@[simp] theorem State.bump_brc (s : State) (f : Fld) (i by_ : Nat) : (s.bump f i by_).brc = s.brc := by
  obtain ⟨r, h⟩ := bump_regs s f i by_; rw [h]
@[simp] theorem State.bump_adr (s : State) (f : Fld) (i by_ : Nat) : (s.bump f i by_).adr = s.adr := by
  obtain ⟨r, h⟩ := bump_regs s f i by_; rw [h]
@[simp] theorem State.bump_fch (s : State) (f : Fld) (i by_ : Nat) : (s.bump f i by_).fch = s.fch := by
  obtain ⟨r, h⟩ := bump_regs s f i by_; rw [h]

/-! ### bumpW -/

theorem bumpW_regs (s : State) (f : Fld) (i by_ : Nat) : ∃ r, s.bumpW f i by_ = { s with regs := r } := set_regs ..

@[simp] theorem State.bumpW_mem (s : State) (f : Fld) (i by_ : Nat) : (s.bumpW f i by_).mem = s.mem := by
  obtain ⟨r, h⟩ := bumpW_regs s f i by_; rw [h]
@[simp] theorem State.bumpW_bad (s : State) (f : Fld) (i by_ : Nat) : (s.bumpW f i by_).bad = s.bad := by
  obtain ⟨r, h⟩ := bumpW_regs s f i by_; rw [h]
@[simp] theorem State.bumpW_soft (s : State) (f : Fld) (i by_ : Nat) : (s.bumpW f i by_).soft = s.soft := by
  obtain ⟨r, h⟩ := bumpW_regs s f i by_; rw [h]
@[simp] theorem State.bumpW_pending (s : State) (f : Fld) (i by_ : Nat) : (s.bumpW f i by_).pending = s.pending := by
  obtain ⟨r, h⟩ := bumpW_regs s f i by_; rw [h]
@[simp] theorem State.bumpW_draw (s : State) (f : Fld) (i by_ : Nat) : (s.bumpW f i by_).draw = s.draw := by
  obtain ⟨r, h⟩ := bumpW_regs s f i by_; rw [h]
@[simp] theorem State.bumpW_answer (s : State) (f : Fld) (i by_ : Nat) : (s.bumpW f i by_).answer = s.answer := by
  obtain ⟨r, h⟩ := bumpW_regs s f i by_; rw [h]
@[simp] theorem State.bumpW_latch (s : State) (f : Fld) (i by_ : Nat) : (s.bumpW f i by_).latch = s.latch := by
  obtain ⟨r, h⟩ := bumpW_regs s f i by_; rw [h]
@[simp] theorem State.bumpW_holdw (s : State) (f : Fld) (i by_ : Nat) : (s.bumpW f i by_).holdw = s.holdw := by
  obtain ⟨r, h⟩ := bumpW_regs s f i by_; rw [h]
@[simp] theorem State.bumpW_time (s : State) (f : Fld) (i by_ : Nat) : (s.bumpW f i by_).time = s.time := by
  obtain ⟨r, h⟩ := bumpW_regs s f i by_; rw [h]
@[simp] theorem State.bumpW_knl (s : State) (f : Fld) (i by_ : Nat) : (s.bumpW f i by_).knl = s.knl := by
  obtain ⟨r, h⟩ := bumpW_regs s f i by_; rw [h]
@[simp] theorem State.bumpW_kspi (s : State) (f : Fld) (i by_ : Nat) : (s.bumpW f i by_).kspi = s.kspi := by
  obtain ⟨r, h⟩ := bumpW_regs s f i by_; rw [h]
@[simp] theorem State.bumpW_flt (s : State) (f : Fld) (i by_ : Nat) : (s.bumpW f i by_).flt = s.flt := by
  obtain ⟨r, h⟩ := bumpW_regs s f i by_; rw [h]
@[simp] theorem State.bumpW_refs (s : State) (f : Fld) (i by_ : Nat) : (s.bumpW f i by_).refs = s.refs := by
  obtain ⟨r, h⟩ := bumpW_regs s f i by_; rw [h]
@[simp] theorem State.bumpW_lsh (s : State) (f : Fld) (i by_ : Nat) : (s.bumpW f i by_).lsh = s.lsh := by
  obtain ⟨r, h⟩ := bumpW_regs s f i by_; rw [h]
@[simp] theorem State.bumpW_tim (s : State) (f : Fld) (i by_ : Nat) : (s.bumpW f i by_).tim = s.tim := by
  obtain ⟨r, h⟩ := bumpW_regs s f i by_; rw [h]
@[simp] theorem State.bumpW_eng (s : State) (f : Fld) (i by_ : Nat) : (s.bumpW f i by_).eng = s.eng := by
  obtain ⟨r, h⟩ := bumpW_regs s f i by_; rw [h]
@[simp] theorem State.bumpW_mtx (s : State) (f : Fld) (i by_ : Nat) : (s.bumpW f i by_).mtx = s.mtx := by
  obtain ⟨r, h⟩ := bumpW_regs s f i by_; rw [h]
@[simp] theorem State.bumpW_jobs (s : State) (f : Fld) (i by_ : Nat) : (s.bumpW f i by_).jobs = s.jobs := by
  obtain ⟨r, h⟩ := bumpW_regs s f i by_; rw [h]
@[simp] theorem State.bumpW_sec (s : State) (f : Fld) (i by_ : Nat) : (s.bumpW f i by_).sec = s.sec := by
  obtain ⟨r, h⟩ := bumpW_regs s f i by_; rw [h]
@[simp] theorem State.bumpW_syn (s : State) (f : Fld) (i by_ : Nat) : (s.bumpW f i by_).syn = s.syn := by
  obtain ⟨r, h⟩ := bumpW_regs s f i by_; rw [h]
@[simp] theorem State.bumpW_obsv (s : State) (f : Fld) (i by_ : Nat) : (s.bumpW f i by_).obsv = s.obsv := by
  obtain ⟨r, h⟩ := bumpW_regs s f i by_; rw [h]
@[simp] theorem State.bumpW_pwr (s : State) (f : Fld) (i by_ : Nat) : (s.bumpW f i by_).pwr = s.pwr := by
  obtain ⟨r, h⟩ := bumpW_regs s f i by_; rw [h]
@[simp] theorem State.bumpW_aon (s : State) (f : Fld) (i by_ : Nat) : (s.bumpW f i by_).aon = s.aon := by
  obtain ⟨r, h⟩ := bumpW_regs s f i by_; rw [h]
@[simp] theorem State.bumpW_gns (s : State) (f : Fld) (i by_ : Nat) : (s.bumpW f i by_).gns = s.gns := by
  obtain ⟨r, h⟩ := bumpW_regs s f i by_; rw [h]
@[simp] theorem State.bumpW_prt (s : State) (f : Fld) (i by_ : Nat) : (s.bumpW f i by_).prt = s.prt := by
  obtain ⟨r, h⟩ := bumpW_regs s f i by_; rw [h]
@[simp] theorem State.bumpW_hst (s : State) (f : Fld) (i by_ : Nat) : (s.bumpW f i by_).hst = s.hst := by
  obtain ⟨r, h⟩ := bumpW_regs s f i by_; rw [h]
@[simp] theorem State.bumpW_srv (s : State) (f : Fld) (i by_ : Nat) : (s.bumpW f i by_).srv = s.srv := by
  obtain ⟨r, h⟩ := bumpW_regs s f i by_; rw [h]
@[simp] theorem State.bumpW_pck (s : State) (f : Fld) (i by_ : Nat) : (s.bumpW f i by_).pck = s.pck := by
  obtain ⟨r, h⟩ := bumpW_regs s f i by_; rw [h]
@[simp] theorem State.bumpW_brc (s : State) (f : Fld) (i by_ : Nat) : (s.bumpW f i by_).brc = s.brc := by
  obtain ⟨r, h⟩ := bumpW_regs s f i by_; rw [h]
@[simp] theorem State.bumpW_adr (s : State) (f : Fld) (i by_ : Nat) : (s.bumpW f i by_).adr = s.adr := by
  obtain ⟨r, h⟩ := bumpW_regs s f i by_; rw [h]
@[simp] theorem State.bumpW_fch (s : State) (f : Fld) (i by_ : Nat) : (s.bumpW f i by_).fch = s.fch := by
  obtain ⟨r, h⟩ := bumpW_regs s f i by_; rw [h]

/-! ### clearBit -/

theorem clearBit_regs (s : State) (f : Fld) (i b : Nat) : ∃ r, s.clearBit f i b = { s with regs := r } := set_regs ..

@[simp] theorem State.clearBit_mem (s : State) (f : Fld) (i b : Nat) : (s.clearBit f i b).mem = s.mem := by
  obtain ⟨r, h⟩ := clearBit_regs s f i b; rw [h]
@[simp] theorem State.clearBit_bad (s : State) (f : Fld) (i b : Nat) : (s.clearBit f i b).bad = s.bad := by
  obtain ⟨r, h⟩ := clearBit_regs s f i b; rw [h]
@[simp] theorem State.clearBit_soft (s : State) (f : Fld) (i b : Nat) : (s.clearBit f i b).soft = s.soft := by
  obtain ⟨r, h⟩ := clearBit_regs s f i b; rw [h]
@[simp] theorem State.clearBit_pending (s : State) (f : Fld) (i b : Nat) : (s.clearBit f i b).pending = s.pending := by
  obtain ⟨r, h⟩ := clearBit_regs s f i b; rw [h]
@[simp] theorem State.clearBit_draw (s : State) (f : Fld) (i b : Nat) : (s.clearBit f i b).draw = s.draw := by
  obtain ⟨r, h⟩ := clearBit_regs s f i b; rw [h]
@[simp] theorem State.clearBit_answer (s : State) (f : Fld) (i b : Nat) : (s.clearBit f i b).answer = s.answer := by
  obtain ⟨r, h⟩ := clearBit_regs s f i b; rw [h]
@[simp] theorem State.clearBit_latch (s : State) (f : Fld) (i b : Nat) : (s.clearBit f i b).latch = s.latch := by
  obtain ⟨r, h⟩ := clearBit_regs s f i b; rw [h]
@[simp] theorem State.clearBit_holdw (s : State) (f : Fld) (i b : Nat) : (s.clearBit f i b).holdw = s.holdw := by
  obtain ⟨r, h⟩ := clearBit_regs s f i b; rw [h]
@[simp] theorem State.clearBit_time (s : State) (f : Fld) (i b : Nat) : (s.clearBit f i b).time = s.time := by
  obtain ⟨r, h⟩ := clearBit_regs s f i b; rw [h]
@[simp] theorem State.clearBit_knl (s : State) (f : Fld) (i b : Nat) : (s.clearBit f i b).knl = s.knl := by
  obtain ⟨r, h⟩ := clearBit_regs s f i b; rw [h]
@[simp] theorem State.clearBit_kspi (s : State) (f : Fld) (i b : Nat) : (s.clearBit f i b).kspi = s.kspi := by
  obtain ⟨r, h⟩ := clearBit_regs s f i b; rw [h]
@[simp] theorem State.clearBit_flt (s : State) (f : Fld) (i b : Nat) : (s.clearBit f i b).flt = s.flt := by
  obtain ⟨r, h⟩ := clearBit_regs s f i b; rw [h]
@[simp] theorem State.clearBit_refs (s : State) (f : Fld) (i b : Nat) : (s.clearBit f i b).refs = s.refs := by
  obtain ⟨r, h⟩ := clearBit_regs s f i b; rw [h]
@[simp] theorem State.clearBit_lsh (s : State) (f : Fld) (i b : Nat) : (s.clearBit f i b).lsh = s.lsh := by
  obtain ⟨r, h⟩ := clearBit_regs s f i b; rw [h]
@[simp] theorem State.clearBit_tim (s : State) (f : Fld) (i b : Nat) : (s.clearBit f i b).tim = s.tim := by
  obtain ⟨r, h⟩ := clearBit_regs s f i b; rw [h]
@[simp] theorem State.clearBit_eng (s : State) (f : Fld) (i b : Nat) : (s.clearBit f i b).eng = s.eng := by
  obtain ⟨r, h⟩ := clearBit_regs s f i b; rw [h]
@[simp] theorem State.clearBit_mtx (s : State) (f : Fld) (i b : Nat) : (s.clearBit f i b).mtx = s.mtx := by
  obtain ⟨r, h⟩ := clearBit_regs s f i b; rw [h]
@[simp] theorem State.clearBit_jobs (s : State) (f : Fld) (i b : Nat) : (s.clearBit f i b).jobs = s.jobs := by
  obtain ⟨r, h⟩ := clearBit_regs s f i b; rw [h]
@[simp] theorem State.clearBit_sec (s : State) (f : Fld) (i b : Nat) : (s.clearBit f i b).sec = s.sec := by
  obtain ⟨r, h⟩ := clearBit_regs s f i b; rw [h]
@[simp] theorem State.clearBit_syn (s : State) (f : Fld) (i b : Nat) : (s.clearBit f i b).syn = s.syn := by
  obtain ⟨r, h⟩ := clearBit_regs s f i b; rw [h]
@[simp] theorem State.clearBit_obsv (s : State) (f : Fld) (i b : Nat) : (s.clearBit f i b).obsv = s.obsv := by
  obtain ⟨r, h⟩ := clearBit_regs s f i b; rw [h]
@[simp] theorem State.clearBit_pwr (s : State) (f : Fld) (i b : Nat) : (s.clearBit f i b).pwr = s.pwr := by
  obtain ⟨r, h⟩ := clearBit_regs s f i b; rw [h]
@[simp] theorem State.clearBit_aon (s : State) (f : Fld) (i b : Nat) : (s.clearBit f i b).aon = s.aon := by
  obtain ⟨r, h⟩ := clearBit_regs s f i b; rw [h]
@[simp] theorem State.clearBit_gns (s : State) (f : Fld) (i b : Nat) : (s.clearBit f i b).gns = s.gns := by
  obtain ⟨r, h⟩ := clearBit_regs s f i b; rw [h]
@[simp] theorem State.clearBit_prt (s : State) (f : Fld) (i b : Nat) : (s.clearBit f i b).prt = s.prt := by
  obtain ⟨r, h⟩ := clearBit_regs s f i b; rw [h]
@[simp] theorem State.clearBit_hst (s : State) (f : Fld) (i b : Nat) : (s.clearBit f i b).hst = s.hst := by
  obtain ⟨r, h⟩ := clearBit_regs s f i b; rw [h]
@[simp] theorem State.clearBit_srv (s : State) (f : Fld) (i b : Nat) : (s.clearBit f i b).srv = s.srv := by
  obtain ⟨r, h⟩ := clearBit_regs s f i b; rw [h]
@[simp] theorem State.clearBit_pck (s : State) (f : Fld) (i b : Nat) : (s.clearBit f i b).pck = s.pck := by
  obtain ⟨r, h⟩ := clearBit_regs s f i b; rw [h]
@[simp] theorem State.clearBit_brc (s : State) (f : Fld) (i b : Nat) : (s.clearBit f i b).brc = s.brc := by
  obtain ⟨r, h⟩ := clearBit_regs s f i b; rw [h]
@[simp] theorem State.clearBit_adr (s : State) (f : Fld) (i b : Nat) : (s.clearBit f i b).adr = s.adr := by
  obtain ⟨r, h⟩ := clearBit_regs s f i b; rw [h]
@[simp] theorem State.clearBit_fch (s : State) (f : Fld) (i b : Nat) : (s.clearBit f i b).fch = s.fch := by
  obtain ⟨r, h⟩ := clearBit_regs s f i b; rw [h]

/-! ### raiseBit and obs: registers and what HST holds, and nothing else -/

theorem raiseBit_rest (s : State) (f : Fld) (i b : Nat) : { s.raiseBit f i b with regs := s.regs, hst := s.hst } = s :=
  (within_raiseBit (p := fun _ => true) s f i b rfl rfl fun _ _ => rfl).rest

@[simp] theorem State.raiseBit_mem (s : State) (f : Fld) (i b : Nat) : (s.raiseBit f i b).mem = s.mem := by
  have h := congrArg State.mem (raiseBit_rest s f i b); exact h
@[simp] theorem State.obs_mem (s : State) (code loc k : Nat) : (s.obs code loc k).mem = s.mem := by
  have h := congrArg State.mem (within_obs s code loc k).rest; exact h
@[simp] theorem State.raiseBit_bad (s : State) (f : Fld) (i b : Nat) : (s.raiseBit f i b).bad = s.bad := by
  have h := congrArg State.bad (raiseBit_rest s f i b); exact h
@[simp] theorem State.obs_bad (s : State) (code loc k : Nat) : (s.obs code loc k).bad = s.bad := by
  have h := congrArg State.bad (within_obs s code loc k).rest; exact h
@[simp] theorem State.raiseBit_soft (s : State) (f : Fld) (i b : Nat) : (s.raiseBit f i b).soft = s.soft := by
  have h := congrArg State.soft (raiseBit_rest s f i b); exact h
@[simp] theorem State.obs_soft (s : State) (code loc k : Nat) : (s.obs code loc k).soft = s.soft := by
  have h := congrArg State.soft (within_obs s code loc k).rest; exact h
@[simp] theorem State.raiseBit_pending (s : State) (f : Fld) (i b : Nat) : (s.raiseBit f i b).pending = s.pending := by
  have h := congrArg State.pending (raiseBit_rest s f i b); exact h
@[simp] theorem State.obs_pending (s : State) (code loc k : Nat) : (s.obs code loc k).pending = s.pending := by
  have h := congrArg State.pending (within_obs s code loc k).rest; exact h
@[simp] theorem State.raiseBit_draw (s : State) (f : Fld) (i b : Nat) : (s.raiseBit f i b).draw = s.draw := by
  have h := congrArg State.draw (raiseBit_rest s f i b); exact h
@[simp] theorem State.obs_draw (s : State) (code loc k : Nat) : (s.obs code loc k).draw = s.draw := by
  have h := congrArg State.draw (within_obs s code loc k).rest; exact h
@[simp] theorem State.raiseBit_answer (s : State) (f : Fld) (i b : Nat) : (s.raiseBit f i b).answer = s.answer := by
  have h := congrArg State.answer (raiseBit_rest s f i b); exact h
@[simp] theorem State.obs_answer (s : State) (code loc k : Nat) : (s.obs code loc k).answer = s.answer := by
  have h := congrArg State.answer (within_obs s code loc k).rest; exact h
@[simp] theorem State.raiseBit_latch (s : State) (f : Fld) (i b : Nat) : (s.raiseBit f i b).latch = s.latch := by
  have h := congrArg State.latch (raiseBit_rest s f i b); exact h
@[simp] theorem State.obs_latch (s : State) (code loc k : Nat) : (s.obs code loc k).latch = s.latch := by
  have h := congrArg State.latch (within_obs s code loc k).rest; exact h
@[simp] theorem State.raiseBit_holdw (s : State) (f : Fld) (i b : Nat) : (s.raiseBit f i b).holdw = s.holdw := by
  have h := congrArg State.holdw (raiseBit_rest s f i b); exact h
@[simp] theorem State.obs_holdw (s : State) (code loc k : Nat) : (s.obs code loc k).holdw = s.holdw := by
  have h := congrArg State.holdw (within_obs s code loc k).rest; exact h
@[simp] theorem State.raiseBit_time (s : State) (f : Fld) (i b : Nat) : (s.raiseBit f i b).time = s.time := by
  have h := congrArg State.time (raiseBit_rest s f i b); exact h
@[simp] theorem State.obs_time (s : State) (code loc k : Nat) : (s.obs code loc k).time = s.time := by
  have h := congrArg State.time (within_obs s code loc k).rest; exact h
@[simp] theorem State.raiseBit_knl (s : State) (f : Fld) (i b : Nat) : (s.raiseBit f i b).knl = s.knl := by
  have h := congrArg State.knl (raiseBit_rest s f i b); exact h
@[simp] theorem State.obs_knl (s : State) (code loc k : Nat) : (s.obs code loc k).knl = s.knl := by
  have h := congrArg State.knl (within_obs s code loc k).rest; exact h
@[simp] theorem State.raiseBit_kspi (s : State) (f : Fld) (i b : Nat) : (s.raiseBit f i b).kspi = s.kspi := by
  have h := congrArg State.kspi (raiseBit_rest s f i b); exact h
@[simp] theorem State.obs_kspi (s : State) (code loc k : Nat) : (s.obs code loc k).kspi = s.kspi := by
  have h := congrArg State.kspi (within_obs s code loc k).rest; exact h
@[simp] theorem State.raiseBit_flt (s : State) (f : Fld) (i b : Nat) : (s.raiseBit f i b).flt = s.flt := by
  have h := congrArg State.flt (raiseBit_rest s f i b); exact h
@[simp] theorem State.obs_flt (s : State) (code loc k : Nat) : (s.obs code loc k).flt = s.flt := by
  have h := congrArg State.flt (within_obs s code loc k).rest; exact h
@[simp] theorem State.raiseBit_refs (s : State) (f : Fld) (i b : Nat) : (s.raiseBit f i b).refs = s.refs := by
  have h := congrArg State.refs (raiseBit_rest s f i b); exact h
@[simp] theorem State.obs_refs (s : State) (code loc k : Nat) : (s.obs code loc k).refs = s.refs := by
  have h := congrArg State.refs (within_obs s code loc k).rest; exact h
@[simp] theorem State.raiseBit_lsh (s : State) (f : Fld) (i b : Nat) : (s.raiseBit f i b).lsh = s.lsh := by
  have h := congrArg State.lsh (raiseBit_rest s f i b); exact h
@[simp] theorem State.obs_lsh (s : State) (code loc k : Nat) : (s.obs code loc k).lsh = s.lsh := by
  have h := congrArg State.lsh (within_obs s code loc k).rest; exact h
@[simp] theorem State.raiseBit_tim (s : State) (f : Fld) (i b : Nat) : (s.raiseBit f i b).tim = s.tim := by
  have h := congrArg State.tim (raiseBit_rest s f i b); exact h
@[simp] theorem State.obs_tim (s : State) (code loc k : Nat) : (s.obs code loc k).tim = s.tim := by
  have h := congrArg State.tim (within_obs s code loc k).rest; exact h
@[simp] theorem State.raiseBit_eng (s : State) (f : Fld) (i b : Nat) : (s.raiseBit f i b).eng = s.eng := by
  have h := congrArg State.eng (raiseBit_rest s f i b); exact h
@[simp] theorem State.obs_eng (s : State) (code loc k : Nat) : (s.obs code loc k).eng = s.eng := by
  have h := congrArg State.eng (within_obs s code loc k).rest; exact h
@[simp] theorem State.raiseBit_mtx (s : State) (f : Fld) (i b : Nat) : (s.raiseBit f i b).mtx = s.mtx := by
  have h := congrArg State.mtx (raiseBit_rest s f i b); exact h
@[simp] theorem State.obs_mtx (s : State) (code loc k : Nat) : (s.obs code loc k).mtx = s.mtx := by
  have h := congrArg State.mtx (within_obs s code loc k).rest; exact h
@[simp] theorem State.raiseBit_jobs (s : State) (f : Fld) (i b : Nat) : (s.raiseBit f i b).jobs = s.jobs := by
  have h := congrArg State.jobs (raiseBit_rest s f i b); exact h
@[simp] theorem State.obs_jobs (s : State) (code loc k : Nat) : (s.obs code loc k).jobs = s.jobs := by
  have h := congrArg State.jobs (within_obs s code loc k).rest; exact h
@[simp] theorem State.raiseBit_sec (s : State) (f : Fld) (i b : Nat) : (s.raiseBit f i b).sec = s.sec := by
  have h := congrArg State.sec (raiseBit_rest s f i b); exact h
@[simp] theorem State.obs_sec (s : State) (code loc k : Nat) : (s.obs code loc k).sec = s.sec := by
  have h := congrArg State.sec (within_obs s code loc k).rest; exact h
@[simp] theorem State.raiseBit_syn (s : State) (f : Fld) (i b : Nat) : (s.raiseBit f i b).syn = s.syn := by
  have h := congrArg State.syn (raiseBit_rest s f i b); exact h
@[simp] theorem State.obs_syn (s : State) (code loc k : Nat) : (s.obs code loc k).syn = s.syn := by
  have h := congrArg State.syn (within_obs s code loc k).rest; exact h
@[simp] theorem State.raiseBit_obsv (s : State) (f : Fld) (i b : Nat) : (s.raiseBit f i b).obsv = s.obsv := by
  have h := congrArg State.obsv (raiseBit_rest s f i b); exact h
@[simp] theorem State.obs_obsv (s : State) (code loc k : Nat) : (s.obs code loc k).obsv = s.obsv := by
  have h := congrArg State.obsv (within_obs s code loc k).rest; exact h
@[simp] theorem State.raiseBit_pwr (s : State) (f : Fld) (i b : Nat) : (s.raiseBit f i b).pwr = s.pwr := by
  have h := congrArg State.pwr (raiseBit_rest s f i b); exact h
@[simp] theorem State.obs_pwr (s : State) (code loc k : Nat) : (s.obs code loc k).pwr = s.pwr := by
  have h := congrArg State.pwr (within_obs s code loc k).rest; exact h
@[simp] theorem State.raiseBit_aon (s : State) (f : Fld) (i b : Nat) : (s.raiseBit f i b).aon = s.aon := by
  have h := congrArg State.aon (raiseBit_rest s f i b); exact h
@[simp] theorem State.obs_aon (s : State) (code loc k : Nat) : (s.obs code loc k).aon = s.aon := by
  have h := congrArg State.aon (within_obs s code loc k).rest; exact h
@[simp] theorem State.raiseBit_gns (s : State) (f : Fld) (i b : Nat) : (s.raiseBit f i b).gns = s.gns := by
  have h := congrArg State.gns (raiseBit_rest s f i b); exact h
@[simp] theorem State.obs_gns (s : State) (code loc k : Nat) : (s.obs code loc k).gns = s.gns := by
  have h := congrArg State.gns (within_obs s code loc k).rest; exact h
@[simp] theorem State.raiseBit_prt (s : State) (f : Fld) (i b : Nat) : (s.raiseBit f i b).prt = s.prt := by
  have h := congrArg State.prt (raiseBit_rest s f i b); exact h
@[simp] theorem State.obs_prt (s : State) (code loc k : Nat) : (s.obs code loc k).prt = s.prt := by
  have h := congrArg State.prt (within_obs s code loc k).rest; exact h
@[simp] theorem State.raiseBit_srv (s : State) (f : Fld) (i b : Nat) : (s.raiseBit f i b).srv = s.srv := by
  have h := congrArg State.srv (raiseBit_rest s f i b); exact h
@[simp] theorem State.obs_srv (s : State) (code loc k : Nat) : (s.obs code loc k).srv = s.srv := by
  have h := congrArg State.srv (within_obs s code loc k).rest; exact h
@[simp] theorem State.raiseBit_pck (s : State) (f : Fld) (i b : Nat) : (s.raiseBit f i b).pck = s.pck := by
  have h := congrArg State.pck (raiseBit_rest s f i b); exact h
@[simp] theorem State.obs_pck (s : State) (code loc k : Nat) : (s.obs code loc k).pck = s.pck := by
  have h := congrArg State.pck (within_obs s code loc k).rest; exact h
@[simp] theorem State.raiseBit_brc (s : State) (f : Fld) (i b : Nat) : (s.raiseBit f i b).brc = s.brc := by
  have h := congrArg State.brc (raiseBit_rest s f i b); exact h
@[simp] theorem State.obs_brc (s : State) (code loc k : Nat) : (s.obs code loc k).brc = s.brc := by
  have h := congrArg State.brc (within_obs s code loc k).rest; exact h
@[simp] theorem State.raiseBit_adr (s : State) (f : Fld) (i b : Nat) : (s.raiseBit f i b).adr = s.adr := by
  have h := congrArg State.adr (raiseBit_rest s f i b); exact h
@[simp] theorem State.obs_adr (s : State) (code loc k : Nat) : (s.obs code loc k).adr = s.adr := by
  have h := congrArg State.adr (within_obs s code loc k).rest; exact h
@[simp] theorem State.raiseBit_fch (s : State) (f : Fld) (i b : Nat) : (s.raiseBit f i b).fch = s.fch := by
  have h := congrArg State.fch (raiseBit_rest s f i b); exact h
@[simp] theorem State.obs_fch (s : State) (code loc k : Nat) : (s.obs code loc k).fch = s.fch := by
  have h := congrArg State.fch (within_obs s code loc k).rest; exact h

end Sys2Proof.Machine
end

