-- ==== Sys2Proof/Laws/Issue.lean ====
section
/-! SUPPORT. Laws of issuing an instruction: what the use of a register that was just loaded costs. -/

namespace Sys2Proof.Machine

theorem get_eng (s : State) (e : Vector Engine 12) (f : Fld) (i : Nat) : ({ s with eng := e } : State).get f i = s.get f i := by
  unfold State.get
  congr 1
  exact wordsN_congr fun _ _ => rfl

theorem td_dep : R.OBS_TD_DEP.td := by unfold Fld.td; decide

@[simp] theorem depend_settled {s : State} {n : Fin 12} (h : (s.engine n).loaded = none) (uses : List EReg) : s.depend n uses = s := by
  simp [State.depend, h]

/-- What the use of a register that was just loaded costs: nothing else changes. -/
theorem depend_spec (s : State) (n : Fin 12) (uses : List EReg) :
    ∃ u l, s.depend n uses = u.setEng n { u.engine n with loaded := none, last := l } ∧ Within (countWord n) s u
      ∧ u.get R.ENG_RETIRED n = s.get R.ENG_RETIRED n
      ∧ (∀ r, (s.engine n).loaded = some r → r ∈ uses →
          u.get R.ENG_CYCLES n = (s.get R.ENG_CYCLES n + 1) % 2 ^ 64 ∧ l.cost = (s.engine n).last.cost + 1)
      ∧ ((∀ r, (s.engine n).loaded = some r → r ∉ uses) → u = s ∧ l = (s.engine n).last) := by
  unfold State.depend
  cases h : (s.engine n).loaded with
  | none =>
    refine ⟨s, (s.engine n).last, ?_, Within.refl _ _, rfl, (by intro r hr; cases hr), fun _ => ⟨rfl, rfl⟩⟩
    have : ({ s.engine n with loaded := none, last := (s.engine n).last } : Engine) = s.engine n := by rw [← h]
    rw [this]
    simp [State.setEng, State.engine]
  | some r =>
    dsimp only
    by_cases hr : r ∈ uses
    · rw [if_pos (by simpa using hr)]
      generalize hv : s.setEng n { s.engine n with loaded := none } = v
      obtain ⟨w1, w2, w3⟩ := within_slot v n R.OBS_TD_DEP 1 td_dep
      have we : (v.slot n R.OBS_TD_DEP 1).eng = s.eng.set n { s.engine n with loaded := none } := by
        have := congrArg State.eng w1.rest
        rw [← hv] at this ⊢
        exact this
      generalize v.slot n R.OBS_TD_DEP 1 = w at *
      have en : w.engine n = { s.engine n with loaded := none } := by simp [State.engine, we]
      refine ⟨{ w with eng := s.eng }, (w.costMore n 4 1 |>.engine n).last, ?_, ⟨?_, fun a ha => ?_⟩, ?_, ?_, ?_⟩
      · simp only [State.costMore, State.setEng, en, we]
        simp [State.engine]
      · have := w1.rest
        rw [← hv] at this
        have h2 := congrArg (fun x : State => { x with eng := s.eng }) this
        exact h2.trans rfl
      · have := w1.word a ha
        rw [← hv] at this
        exact this
      · have := w3
        rw [← hv, get_setEng] at this
        exact (get_eng _ _ _ _).trans this
      · intro x _ _
        refine ⟨?_, ?_⟩
        · have := w2
          rw [← hv, get_setEng] at this
          exact (get_eng _ _ _ _).trans this
        · simp [State.costMore, en]
      · intro hn
        exact absurd hr (hn r rfl)
    · rw [if_neg (by simpa using hr)]
      exact ⟨s, (s.engine n).last, rfl, Within.refl _ _, rfl, fun x hx hm => absurd (by cases hx; exact hm) hr, fun _ => ⟨rfl, rfl⟩⟩

/-- Bytes read are those of the memory. -/
theorem bytes_mem_eq {s t : State} (hm : s.mem = t.mem) : ∀ (n a : Nat), s.bytes a n = t.bytes a n
  | 0, _ => rfl
  | n + 1, a => by simp only [State.bytes, State.byte, hm, bytes_mem_eq hm n]

/-- An instruction that uses a register which has just been loaded runs as it would a cycle later. -/
theorem issue_depends {s : State} {n : Fin 12} (h1 : s.issues n = true) (h2 : s.fetchBad n = false) (h3 : s.fetchSoft n = 0)
    {ws : List Word} (hw : s.fetched n ∈ ws) (uses : List EReg) :
    (s.depend n uses).ready n ∧ (s.depend n uses).fetched n = s.fetched n
      ∧ ∀ f, s.issue ws n uses f = (s.depend n uses).issue ws n uses f := by
  obtain ⟨u, l, e, w, -⟩ := depend_spec s n uses
  have hf : (s.depend n uses).fetched n = s.fetched n := by
    have ue : u.eng = s.eng := by have := congrArg State.eng w.rest; exact this
    have um : u.mem = s.mem := by have := congrArg State.mem w.rest; exact this
    rw [e]
    simp only [State.fetched, State.memN, State.pc, engine_setEng_same]
    rw [bytes_mem_eq (t := s) (by simp [um])]
    simp [State.engine, ue]
  have hr : (s.depend n uses).ready n := by
    rw [e]
    have hu := w.rest
    have ue : u.eng = s.eng := by have := congrArg State.eng hu; exact this
    have um : u.mem = s.mem := by have := congrArg State.mem hu; exact this
    have ub : u.bad = s.bad := by have := congrArg State.bad hu; exact this
    have us : u.soft = s.soft := by have := congrArg State.soft hu; exact this
    have en : u.engine n = s.engine n := by simp [State.engine, ue]
    have st : u.engState n = s.engState n := by
      unfold State.engState
      refine w.get _ _ fun k hk => ?_
      have hk : k = 0 := Nat.lt_one_iff.mp hk
      subst hk
      have ha : R.ENG_STAT_STATE.at n + 4 * 0 = R.ENG_CYCLES.at n - 124 := by simp only [Fld.at, R.ENG_STAT_STATE, R.ENG_CYCLES]; omega
      have hb : 0x4000080 ≤ R.ENG_CYCLES.at n := by simp only [Fld.at, R.ENG_CYCLES]; omega
      rw [ha, countWord]
      simp only [Bool.or_eq_false_iff, Bool.and_eq_false_iff, decide_eq_false_iff_not]
      omega
    refine ⟨?_, ?_, ?_, ?_⟩
    · simp only [State.issues, State.engState, get_setEng, engine_setEng_same, en] at h1 st ⊢
      rw [st]; exact h1
    · simp only [State.fetchBad, State.badAt, State.pc, engine_setEng_same, State.setEng_bad, en, ub] at h2 ⊢; exact h2
    · simp only [State.fetchSoft, State.softs, State.pc, engine_setEng_same, State.setEng_soft, en, us] at h3 ⊢; exact h3
    · simp
  refine ⟨hr, hf, fun f => ?_⟩
  rw [issue_ready hr (hf ▸ hw)]
  simp [State.issue, h1, h2, h3, State.corrected, hw]

end Sys2Proof.Machine
end

