-- ==== Sys2Proof/Laws/Keeps.lean ====
section
/-! SUPPORT. What every operation keeps (`Keeps`): the rules that the proofs go by, and the operations over registers and memory. -/

namespace Sys2Proof.Machine

theorem Keeps.refl (s : State) : Keeps s s := ⟨id, rfl, Nat.le_refl _, rfl, Nat.le_refl _⟩

theorem Keeps.trans {r s t : State} (h : Keeps r s) (k : Keeps s t) : Keeps r t :=
  ⟨fun w => k.wf (h.wf w), k.pending.trans h.pending, h.draw.trans k.draw, k.rootSecret.trans h.rootSecret, h.sealFuses.trans k.sealFuses⟩

/-! ### Rules -/

theorem keeps_ite {r a b : State} {c : Prop} [Decidable c] (ha : Keeps r a) (hb : Keeps r b) : Keeps r (if c then a else b) := by
  split <;> assumption

theorem keeps_ite2 {α : Type} {r : State} {a b : α × State} {c : Prop} [Decidable c] (ha : Keeps r a.2) (hb : Keeps r b.2) :
    Keeps r (if c then a else b).2 := by
  split <;> assumption

theorem keeps_ite3 {α β : Type} {r : State} {a b : α × β × State} {c : Prop} [Decidable c] (ha : Keeps r a.2.2) (hb : Keeps r b.2.2) :
    Keeps r (if c then a else b).2.2 := by
  split <;> assumption

/-- An update that leaves the registers, the memory, the queue, the draws and the fuses. -/
theorem keeps_mk {r s : State} {bad soft : List Nat} {answer : Answer} {latch : List (Nat × Nat × Word)} {holdw : List (Nat × Word)} {time : TimeSt} {knl : KnlSt} {kspi : Kspi} {flt : FltSt} {refs : RefsSt} {lsh : LshSt} {tim : TimSt} {eng : Vector Engine 12} {mtx : MtxSt} {jobs : List UJob} {sec : SecSt} {syn : SynSt} {obsv : ObsSt} {pwr : PwrSt} {aon : AonSt} {gns : GnsSt} {prt : PrtSt} {hst : HstSt} {srv : SrvSt} {pck : PckSt} {brc : BrcSt} {adr : AdrSt} {fch : FchSt}
    (h : Keeps r s) (e5 : sec.rootSecret = s.sec.rootSecret) (e6 : sec.sealFuses = s.sec.sealFuses) :
    Keeps r ⟨s.regs, s.mem, bad, soft, s.pending, s.draw, answer, latch, holdw, time, knl, kspi, flt, refs, lsh, tim, eng, mtx, jobs, sec, syn, obsv, pwr, aon, gns, prt, hst, srv, pck, brc, adr, fch⟩ :=
  h.trans ⟨id, rfl, Nat.le_refl _, e5, e6.ge⟩

/-- The same with free values drawn. -/
theorem keeps_draw {r s : State} {k : Nat} {bad soft : List Nat} {answer : Answer} {latch : List (Nat × Nat × Word)} {holdw : List (Nat × Word)} {time : TimeSt} {knl : KnlSt} {kspi : Kspi} {flt : FltSt} {refs : RefsSt} {lsh : LshSt} {tim : TimSt} {eng : Vector Engine 12} {mtx : MtxSt} {jobs : List UJob} {sec : SecSt} {syn : SynSt} {obsv : ObsSt} {pwr : PwrSt} {aon : AonSt} {gns : GnsSt} {prt : PrtSt} {hst : HstSt} {srv : SrvSt} {pck : PckSt} {brc : BrcSt} {adr : AdrSt} {fch : FchSt}
    (h : Keeps r s) (e5 : sec.rootSecret = s.sec.rootSecret) (e6 : sec.sealFuses = s.sec.sealFuses) :
    Keeps r ⟨s.regs, s.mem, bad, soft, s.pending, s.draw + k, answer, latch, holdw, time, knl, kspi, flt, refs, lsh, tim, eng, mtx, jobs, sec, syn, obsv, pwr, aon, gns, prt, hst, srv, pck, brc, adr, fch⟩ :=
  h.trans ⟨id, rfl, Nat.le_add_right _ _, e5, e6.ge⟩

theorem keeps_snd {α : Type} {r b : State} {a : α} {p : α × State} (e : p = (a, b)) (h : Keeps r p.2) : Keeps r b := by rw [e] at h; exact h

theorem keeps_fst {β : Type} {r b : State} {c : β} {p : State × β} (e : p = (b, c)) (h : Keeps r p.1) : Keeps r b := by rw [e] at h; exact h

theorem keeps_snd2 {α β : Type} {r b : State} {a : α} {c : β} {p : α × β × State} (e : p = (a, c, b)) (h : Keeps r p.2.2) : Keeps r b := by
  rw [e] at h; exact h

/-- The same of an operation that may not apply. -/
def KeepsO (r : State) (p : Option State) : Prop := ∀ x, p = some x → Keeps r x

theorem keeps_some {r b : State} {p : Option State} (e : p = some b) (h : KeepsO r p) : Keeps r b := h b e

theorem keepsO_some {r b : State} (h : Keeps r b) : KeepsO r (some b) := by rintro x ⟨⟩; exact h

theorem keepsO_none {r : State} : KeepsO r none := by rintro x ⟨⟩

theorem keepsO_ite {r : State} {a b : Option State} {c : Prop} [Decidable c] (ha : KeepsO r a) (hb : KeepsO r b) :
    KeepsO r (if c then a else b) := by
  split <;> assumption

theorem keeps_foldl {β : Type} {r s : State} {g : State → β → State} {l : List β} (h : Keeps r s)
    (hg : ∀ s, Keeps r s → ∀ x, Keeps r (g s x)) : Keeps r (l.foldl g s) := by
  induction l generalizing s with
  | nil => exact h
  | cons x l ih => exact ih (hg s h x)

theorem keeps_foldl2 {α β : Type} {r : State} {g : α × State → β → α × State} {l : List β} {p : α × State} (h : Keeps r p.2)
    (hg : ∀ s, Keeps r s → ∀ a x, Keeps r (g (a, s) x).2) : Keeps r (l.foldl g p).2 := by
  induction l generalizing p with
  | nil => exact h
  | cons x l ih => exact ih (hg p.2 h p.1 x)

theorem keeps_foldl1 {α β : Type} {r : State} {g : State × α → β → State × α} {l : List β} {p : State × α} (h : Keeps r p.1)
    (hg : ∀ s, Keeps r s → ∀ a x, Keeps r (g (s, a) x).1) : Keeps r (l.foldl g p).1 := by
  induction l generalizing p with
  | nil => exact h
  | cons x l ih => exact ih (hg p.1 h p.2 x)

/-! ### Registers -/

theorem swf_append (d : Nat → α → Bool) (l m : List (Nat × α)) :
    swf d (l ++ m) = true ↔ swf d l = true ∧ swf d m = true ∧ ∀ x ∈ l, ∀ y ∈ m, x.1 < y.1 := by
  simp only [swf_iff, List.pairwise_append, List.mem_append]
  aesop

theorem State.setWord_keeps {r s : State} (a : Nat) (w : Word) (h : Keeps r s) : Keeps r (s.setWord a w) := by
  refine h.trans ?_
  unfold State.setWord
  split
  · exact .refl s
  · exact ⟨fun k => ⟨sput_wf (fun a w => w == coldWord a) a w k.1, k.2⟩, rfl, Nat.le_refl _, rfl, Nat.le_refl _⟩

theorem State.setWordsN_keeps {r s : State} (a v n : Nat) (h : Keeps r s) : Keeps r (s.setWordsN a v n) := by
  induction n generalizing s a v with
  | zero => exact h
  | succ n ih => exact ih _ _ (State.setWord_keeps a _ h)

theorem resetRegs_mem {p : Nat → RegRow → Bool} {l : List (Nat × Word)} {x : Nat × Word} (h : x ∈ resetRegs p l) :
    x.2 ≠ coldWord x.1 ∧ ∃ y ∈ l, y.1 = x.1 := by
  induction l with
  | nil => simp [resetRegs] at h
  | cons y l ih =>
    obtain ⟨a, v⟩ := y
    simp only [resetRegs] at h
    split at h
    · obtain ⟨h1, z, hz, e⟩ := ih h
      exact ⟨h1, z, List.mem_cons_of_mem _ hz, e⟩
    · rename_i hn
      rcases List.mem_cons.mp h with rfl | h
      · exact ⟨hn, ⟨_, List.mem_cons_self .., rfl⟩⟩
      · obtain ⟨h1, z, hz, e⟩ := ih h
        exact ⟨h1, z, List.mem_cons_of_mem _ hz, e⟩

theorem resetRegs_wf (p : Nat → RegRow → Bool) {l : List (Nat × Word)} (h : Regs.wf l = true) : Regs.wf (resetRegs p l) = true := by
  unfold Regs.wf at *
  rw [swf_iff] at *
  refine ⟨?_, fun x hx => by simpa using (resetRegs_mem hx).1⟩
  replace h := h.1
  induction l with
  | nil => simp [resetRegs]
  | cons y l ih =>
    obtain ⟨a, v⟩ := y
    rw [List.pairwise_cons] at h
    simp only [resetRegs]
    split
    · exact ih h.2
    · refine List.pairwise_cons.mpr ⟨fun x hx => ?_, ih h.2⟩
      obtain ⟨_, z, hz, e⟩ := resetRegs_mem hx
      exact e ▸ h.1 z hz

/-! ### Memory -/

theorem placed_sput (drop : Bool) {x : Nat} (v : Byte) {m : List Host.Cell} (hx : memAddr x = true) (h : Memory.placed m = true) :
    Memory.placed (sput drop x v m) = true := by
  unfold Memory.placed at *
  rw [List.all_eq_true] at *
  intro c hc
  rcases sput_keys _ _ _ _ c hc with h' | ⟨-, rfl⟩
  · exact h c h'
  · exact hx

theorem placed_filter {m : List Host.Cell} (p : Host.Cell → Bool) (h : Memory.placed m = true) : Memory.placed (m.filter p) = true := by
  unfold Memory.placed at *
  rw [List.all_eq_true] at *
  exact fun c hc => h c (List.mem_filter.1 hc).1

theorem State.setByte_keeps {r s : State} (a : Nat) (b : Byte) (h : Keeps r s) : Keeps r (s.setByte a b) := by
  refine h.trans ?_
  unfold State.setByte
  split
  · next ha =>
    exact ⟨fun k => ⟨k.1, sput_wf (fun _ b => b == 0#8) a b k.2.1, placed_sput _ _ ha k.2.2⟩, rfl, Nat.le_refl _, rfl, Nat.le_refl _⟩
  · exact .refl s

theorem State.putBytes_keeps {r s : State} (a : Nat) (bs : List Byte) (h : Keeps r s) : Keeps r (s.putBytes a bs) := by
  induction bs generalizing s a with
  | nil => exact h
  | cons b bs ih => exact ih _ (State.setByte_keeps a b h)

theorem State.memCut_keeps {r s : State} (lo hi : Nat) (h : Keeps r s) : Keeps r (s.memCut lo hi) :=
  h.trans ⟨fun k => ⟨k.1, swf_filter _ _ k.2.1, placed_filter _ k.2.2⟩, rfl, Nat.le_refl _, rfl, Nat.le_refl _⟩

theorem State.memLoad_keeps {r s : State} (lo n : Nat) (f : Nat → Byte) (hp : ∀ i < n, memAddr (lo + i) = true) (h : Keeps r s) :
    Keeps r (s.memLoad lo n f) := by
  refine h.trans ⟨fun k => ⟨k.1, ?_, ?_⟩, rfl, Nat.le_refl _, rfl, Nat.le_refl _⟩
  · show swf (fun _ b => b == 0#8) (_ ++ _ ++ _) = true
    rw [swf_append, swf_append]
    refine ⟨⟨swf_filter _ _ k.2.1, ?_, ?_⟩, swf_filter _ _ k.2.1, ?_⟩
    · rw [swf_iff]
      refine ⟨?_, fun c hc => by simpa using (List.mem_filter.1 hc).2⟩
      refine List.Pairwise.sublist List.filter_sublist ?_
      rw [List.pairwise_map]
      exact List.pairwise_lt_range.imp (by intro a b hab; simp only; omega)
    · intro x hx y hy
      have hx := (List.mem_filter.1 hx).2
      have hy := (List.mem_filter.1 hy).1
      obtain ⟨i, -, rfl⟩ := List.mem_map.1 hy
      simp only [decide_eq_true_eq] at hx
      show x.1 < lo + i
      omega
    · intro x hx y hy
      have hy := (List.mem_filter.1 hy).2
      simp only [decide_eq_true_eq] at hy
      rcases List.mem_append.1 hx with hx | hx
      · have hx := (List.mem_filter.1 hx).2
        simp only [decide_eq_true_eq] at hx
        omega
      · have hx := (List.mem_filter.1 hx).1
        obtain ⟨i, hi, rfl⟩ := List.mem_map.1 hx
        have := List.mem_range.1 hi
        show lo + i < y.1
        omega
  · have hm := k.2.2
    unfold Memory.placed at *
    rw [List.all_eq_true] at *
    intro c hc
    rcases List.mem_append.1 hc with hc | hc
    · rcases List.mem_append.1 hc with hc | hc
      · exact hm c (List.mem_filter.1 hc).1
      · have hc := (List.mem_filter.1 hc).1
        obtain ⟨i, hi, rfl⟩ := List.mem_map.1 hc
        exact hp i (List.mem_range.1 hi)
    · exact hm c (List.mem_filter.1 hc).1

theorem State.memPut_keeps {r s : State} (lo : Nat) (cells : List Host.Cell) (h : Keeps r s) : Keeps r (s.memPut lo cells) :=
  keeps_foldl h fun _ hs _ => State.setByte_keeps _ _ hs

theorem placeWords_mem {a : Nat} {ws : List Word} {x : Nat × Word} (h : x ∈ placeWords a ws) :
    a ≤ x.1 ∧ x.1 < a + 4 * ws.length ∧ x.2 ≠ coldWord x.1 := by
  induction ws generalizing a with
  | nil => simp [placeWords] at h
  | cons w t ih =>
    simp only [placeWords] at h
    split at h
    · obtain ⟨h1, h2, h3⟩ := ih h
      refine ⟨by omega, ?_, h3⟩
      simp only [List.length_cons]; omega
    · next hn =>
      rcases List.mem_cons.1 h with rfl | h
      · refine ⟨Nat.le_refl _, ?_, by simpa using hn⟩
        simp only [List.length_cons]; omega
      · obtain ⟨h1, h2, h3⟩ := ih h
        refine ⟨by omega, ?_, h3⟩
        simp only [List.length_cons]; omega

theorem placeWords_wf (a : Nat) (ws : List Word) : swf (fun a w => w == coldWord a) (placeWords a ws) = true := by
  rw [swf_iff]
  refine ⟨?_, fun c hc => by simpa using (placeWords_mem hc).2.2⟩
  induction ws generalizing a with
  | nil => simp [placeWords]
  | cons w t ih =>
    simp only [placeWords]
    split
    · exact ih _
    · refine List.pairwise_cons.2 ⟨fun x hx => ?_, ih _⟩
      have := (placeWords_mem hx).1
      show a < x.1
      omega

theorem State.winPut_keeps {r s : State} (a : Nat) (ws : List Word) (h : Keeps r s) : Keeps r (s.winPut a ws) := by
  refine h.trans ⟨fun k => ⟨?_, k.2⟩, rfl, Nat.le_refl _, rfl, Nat.le_refl _⟩
  show swf (fun a w => w == coldWord a) (_ ++ _ ++ _) = true
  rw [swf_append, swf_append]
  refine ⟨⟨swf_filter _ _ k.1, placeWords_wf a ws, ?_⟩, swf_filter _ _ k.1, ?_⟩
  · intro x hx y hy
    have hx := (List.mem_filter.1 hx).2
    have hy := (placeWords_mem hy).1
    simp only [decide_eq_true_eq] at hx
    omega
  · intro x hx y hy
    have hy := (List.mem_filter.1 hy).2
    simp only [decide_eq_true_eq] at hy
    rcases List.mem_append.1 hx with hx | hx
    · have hx := (List.mem_filter.1 hx).2
      simp only [decide_eq_true_eq] at hx
      omega
    · have := (placeWords_mem hx).2.1
      omega

theorem memAddr_eng (n : Fin 12) {i : Nat} (h : i < 0x20000) : memAddr (0x44000000 + n.val * 0x100000 + 0x80000 + i) = true := by
  have hn := n.isLt
  unfold memAddr
  simp only [Bool.or_eq_true, Bool.and_eq_true, decide_eq_true_eq]
  right
  omega

theorem State.loadBodies_keeps {r s : State} (n : Fin 12) (il dl : Nat) (f : Nat → Byte) (h : Keeps r s) : Keeps r (s.loadBodies n il dl f) := by
  unfold State.loadBodies imemAt
  refine State.memLoad_keeps _ _ _ (fun i hi => ?_) (State.memLoad_keeps _ _ _ (fun i hi => ?_) h)
  · rw [Nat.add_assoc]; exact memAddr_eng n (by omega)
  · exact memAddr_eng n (by omega)

/-! ### Resets -/

/-- Registers put back to their reset entries, the other fields as an update may leave them. -/
theorem keeps_regs {r s : State} {p : Nat → RegRow → Bool} {bad soft : List Nat} {answer : Answer} {latch : List (Nat × Nat × Word)} {holdw : List (Nat × Word)} {time : TimeSt} {knl : KnlSt} {kspi : Kspi} {flt : FltSt} {refs : RefsSt} {lsh : LshSt} {tim : TimSt} {eng : Vector Engine 12} {mtx : MtxSt} {jobs : List UJob} {sec : SecSt} {syn : SynSt} {obsv : ObsSt} {pwr : PwrSt} {aon : AonSt} {gns : GnsSt} {prt : PrtSt} {hst : HstSt} {srv : SrvSt} {pck : PckSt} {brc : BrcSt} {adr : AdrSt} {fch : FchSt}
    (h : Keeps r s) (e5 : sec.rootSecret = s.sec.rootSecret) (e6 : sec.sealFuses = s.sec.sealFuses) :
    Keeps r ⟨(resetRegs p s.regs), s.mem, bad, soft, s.pending, s.draw, answer, latch, holdw, time, knl, kspi, flt, refs, lsh, tim, eng, mtx, jobs, sec, syn, obsv, pwr, aon, gns, prt, hst, srv, pck, brc, adr, fch⟩ :=
  h.trans ⟨fun w => ⟨resetRegs_wf p w.1, w.2⟩, rfl, Nat.le_refl _, e5, e6.ge⟩

/-- The same with memory emptied and a value drawn. -/
theorem keeps_chip {r s : State} {p : Nat → RegRow → Bool} {bad soft : List Nat} {answer : Answer} {latch : List (Nat × Nat × Word)} {holdw : List (Nat × Word)} {time : TimeSt} {knl : KnlSt} {kspi : Kspi} {flt : FltSt} {refs : RefsSt} {lsh : LshSt} {tim : TimSt} {eng : Vector Engine 12} {mtx : MtxSt} {jobs : List UJob} {sec : SecSt} {syn : SynSt} {obsv : ObsSt} {pwr : PwrSt} {aon : AonSt} {gns : GnsSt} {prt : PrtSt} {hst : HstSt} {srv : SrvSt} {pck : PckSt} {brc : BrcSt} {adr : AdrSt} {fch : FchSt}
    (h : Keeps r s) (e5 : sec.rootSecret = s.sec.rootSecret) (e6 : sec.sealFuses = s.sec.sealFuses) :
    Keeps r ⟨(resetRegs p s.regs), [], bad, soft, s.pending, (s.draw + 1), answer, latch, holdw, time, knl, kspi, flt, refs, lsh, tim, eng, mtx, jobs, sec, syn, obsv, pwr, aon, gns, prt, hst, srv, pck, brc, adr, fch⟩ :=
  h.trans ⟨fun w => ⟨resetRegs_wf p w.1, rfl, rfl⟩, rfl, Nat.le_add_right _ _, e5, e6.ge⟩

end Sys2Proof.Machine
end

