-- ==== Sys2Proof/Laws/Keeps1.lean ====
section
/-! SUPPORT. What every operation keeps, continued: one lemma per operation, callees first (part 1). -/

set_option linter.all false

namespace Sys2Proof.Machine

theorem State.when__keeps {r : State} {s : State} (c : Bool) {f : State → State} (hs : Keeps r s) (hf : (∀ s, Keeps r s → Keeps r (f s))) : Keeps r (State.when_ s c f) := by
  unfold State.when_
  repeat' first | with_reducible assumption | with_reducible apply keeps_ite | with_reducible apply hf

theorem State.setGns_keeps {r : State} {s : State} (g : GnsSt) (hs : Keeps r s) : Keeps r (State.setGns s g) := by
  unfold State.setGns
  repeat' first | with_reducible assumption | (fail_if_no_progress with_reducible refine keeps_mk ?_ rfl rfl)

theorem State.set_keeps {r : State} {s : State} (f : Fld) (i : Nat) (v : Nat) (hs : Keeps r s) : Keeps r (State.set s f i v) := by
  unfold State.set
  repeat' first | with_reducible assumption | with_reducible apply State.setWordsN_keeps

theorem State.rxMove_keeps {r : State} {s : State} (st : Nat) (mode : Nat) (hs : Keeps r s) : Keeps r (State.rxMove s st mode) := by
  unfold State.rxMove
  repeat' first | with_reducible assumption | with_reducible apply State.setGns_keeps | with_reducible apply State.set_keeps

theorem execWeakTimeExpiry_keeps {r : State} {s : State} (hs : Keeps r s) : ∃ t, execWeakTimeExpiry s = .next t ∧ Keeps r t := by
  unfold execWeakTimeExpiry
  repeat' first
    | with_reducible assumption | with_reducible apply State.when__keeps | with_reducible apply State.rxMove_keeps
    | (with_reducible refine ⟨_, rfl, ?_⟩) | intro x

theorem State.setLink_keeps {r : State} {s : State} (i : Fin 68) (y3 : PortSt) (hs : Keeps r s) : Keeps r (State.setLink s i y3) := by
  unfold State.setLink
  repeat' first | with_reducible assumption | (fail_if_no_progress with_reducible refine keeps_mk ?_ rfl rfl)

theorem State.takeRct_keeps {r : State} {s : State} (p : Fin 64) (hs : Keeps r s) : Keeps r (State.takeRct s p).2 := by
  unfold State.takeRct
  repeat' first | with_reducible assumption | with_reducible apply State.setLink_keeps

theorem State.braceSeq_keeps {r : State} {s : State} (p : Fin 64) (b : List Byte) (hs : Keeps r s) : Keeps r (State.braceSeq s p b).2 := by
  unfold State.braceSeq
  repeat' first | with_reducible assumption | with_reducible apply State.takeRct_keeps | split

theorem State.trailed_keeps {r : State} {s : State} (p : Fin 64) (rct : Option Nat) (b : List Byte) (hs : Keeps r s) : Keeps r (State.trailed s p rct b).2 := by
  unfold State.trailed
  repeat' first | with_reducible assumption | with_reducible apply State.braceSeq_keeps | split

theorem State.setLport_keeps {r : State} {s : State} (p : Fin 64) (y3 : LchPort) (hs : Keeps r s) : Keeps r (State.setLport s p y3) := by
  unfold State.setLport
  repeat' first | with_reducible assumption | (fail_if_no_progress with_reducible refine keeps_mk ?_ rfl rfl)

theorem State.launchPack_keeps {r : State} {s : State} (p : Fin 64) (y3 : Time × Nat × Bool) (hs : Keeps r s) : Keeps r (State.launchPack s p y3) := by
  unfold State.launchPack
  repeat' first | with_reducible assumption | with_reducible apply State.trailed_keeps | with_reducible apply State.setLport_keeps | split

theorem State.mapTdc_keeps {r : State} {s : State} (f : TdcCh → TdcCh) (hs : Keeps r s) : Keeps r (State.mapTdc s f) := by
  unfold State.mapTdc
  repeat' first | with_reducible assumption | (fail_if_no_progress with_reducible refine keeps_mk ?_ rfl rfl)

theorem State.syncTb_keeps {r : State} {s : State} (hs : Keeps r s) : Keeps r (State.syncTb s) := by
  unfold State.syncTb
  repeat' first | with_reducible assumption | with_reducible apply State.set_keeps

theorem State.clearBit_keeps {r : State} {s : State} (f : Fld) (i : Nat) (b : Nat) (hs : Keeps r s) : Keeps r (State.clearBit s f i b) := by
  unfold State.clearBit
  repeat' first | with_reducible assumption | with_reducible apply State.set_keeps

theorem State.levelOff_keeps {r : State} {s : State} (k : Nat) (hs : Keeps r s) : Keeps r (State.levelOff s k) := by
  unfold State.levelOff
  repeat' first | with_reducible assumption | with_reducible apply State.clearBit_keeps

theorem State.tbRebuild_keeps {r : State} {s : State} (hs : Keeps r s) : Keeps r (State.tbRebuild s) := by
  unfold State.tbRebuild
  repeat' first
    | with_reducible assumption | with_reducible apply State.mapTdc_keeps | with_reducible apply State.syncTb_keeps
    | with_reducible apply State.levelOff_keeps

theorem State.runJob_keeps {r : State} {s : State} (n : Fin 12) (num : Fin 16) (p : UJob → Bool) {f : UJob → State → State} (hs : Keeps r s) (hf : (∀ s, Keeps r s → ∀ y0, Keeps r (f y0 s))) : Keeps r (State.runJob s n num p f) := by
  unfold State.runJob
  repeat' first | with_reducible assumption | with_reducible apply hf | split

theorem State.ctxSync_keeps {r : State} {s : State} (u : Nat) (hs : Keeps r s) : Keeps r (State.ctxSync s u) := by
  unfold State.ctxSync
  repeat' first | with_reducible assumption | with_reducible apply State.set_keeps

theorem State.setSrv_keeps {r : State} {s : State} (y2 : SrvSt) (hs : Keeps r s) : Keeps r (State.setSrv s y2) := by
  unfold State.setSrv
  repeat' first | with_reducible assumption | (fail_if_no_progress with_reducible refine keeps_mk ?_ rfl rfl)

theorem State.ctxFree_keeps {r : State} {s : State} (u : Nat) (c : Nat) (hs : Keeps r s) : Keeps r (State.ctxFree s u c) := by
  unfold State.ctxFree
  repeat' first | with_reducible assumption | with_reducible apply State.ctxSync_keeps | with_reducible apply State.setSrv_keeps

theorem State.depthSync_keeps {r : State} {s : State} (u : Nat) (hs : Keeps r s) : Keeps r (State.depthSync s u) := by
  unfold State.depthSync
  repeat' first | with_reducible assumption | with_reducible apply keeps_ite | with_reducible apply State.set_keeps

theorem State.setEng_keeps {r : State} {s : State} (n : Fin 12) (e : Engine) (hs : Keeps r s) : Keeps r (State.setEng s n e) := by
  unfold State.setEng
  repeat' first | with_reducible assumption | (fail_if_no_progress with_reducible refine keeps_mk ?_ rfl rfl)

theorem State.deliver_keeps {r : State} {s : State} (n : Fin 12) (y3 : Ticket) (u : Nat) (hs : Keeps r s) : Keeps r (State.deliver s n y3 u) := by
  unfold State.deliver
  repeat' first
    | with_reducible assumption | with_reducible apply State.setEng_keeps | with_reducible apply State.depthSync_keeps
    | (fail_if_no_progress with_reducible refine keeps_mk ?_ rfl rfl)

theorem State.deliverWaiting_keeps {r : State} {s : State} (u : Nat) (hs : Keeps r s) : Keeps r (State.deliverWaiting s u) := by
  unfold State.deliverWaiting
  repeat' first | with_reducible assumption | with_reducible apply State.deliver_keeps | lift_lets -underBinder | intro x | split

theorem State.jobDone_keeps {r : State} {s : State} (j : UJob) (status : Nat) (value : Nat) (hs : Keeps r s) : Keeps r (State.jobDone s j status value) := by
  unfold State.jobDone
  repeat' first
    | with_reducible assumption | with_reducible apply keeps_ite | with_reducible apply State.deliverWaiting_keeps
    | with_reducible apply State.setEng_keeps | (fail_if_no_progress with_reducible refine keeps_mk ?_ rfl rfl)

theorem State.forN_keeps {r : State} {s : State} (n : Nat) {f : Nat → State → State} (hs : Keeps r s) (hf : (∀ s, Keeps r s → ∀ y0, Keeps r (f y0 s))) : Keeps r (State.forN s n f) := by
  unfold State.forN
  repeat' first | with_reducible assumption | with_reducible apply hf | with_reducible apply keeps_foldl

theorem State.msgAsk_keeps {r : State} {s : State} (src : Nat) (hs : Keeps r s) : Keeps r (State.msgAsk s src) := by
  unfold State.msgAsk
  repeat' first
    | with_reducible assumption | lift_lets -underBinder | intro x | (fail_if_no_progress with_reducible refine keeps_mk ?_ rfl rfl) | split

theorem State.irq_keeps {r : State} {s : State} (src : Nat) (hs : Keeps r s) : Keeps r (State.irq s src) := by
  unfold State.irq
  repeat' first
    | with_reducible assumption | with_reducible apply keeps_ite | with_reducible apply State.msgAsk_keeps
    | with_reducible apply State.set_keeps

theorem State.irqEdge_keeps {r : State} {s : State} {before : State} (src : Nat) (hs : Keeps r s) (hbefore : Keeps r before) : Keeps r (State.irqEdge s before src) := by
  unfold State.irqEdge
  repeat' first | with_reducible assumption | with_reducible apply keeps_ite | with_reducible apply State.irq_keeps

theorem State.raiseBit_keeps {r : State} {s : State} (f : Fld) (i : Nat) (b : Nat) (hs : Keeps r s) : Keeps r (State.raiseBit s f i b) := by
  unfold State.raiseBit
  repeat' first | with_reducible assumption | with_reducible apply State.set_keeps | with_reducible apply State.irqEdge_keeps | split

theorem State.obsAdd_keeps {r : State} {s : State} (k : Nat) (by_ : Nat) (hs : Keeps r s) : Keeps r (State.obsAdd s k by_) := by
  unfold State.obsAdd
  repeat' first
    | with_reducible assumption | with_reducible apply keeps_ite | with_reducible apply State.set_keeps
    | with_reducible apply State.raiseBit_keeps

theorem State.obs_keeps {r : State} {s : State} (code : Nat) (loc : Nat) (by_ : optParam Nat 1) (hs : Keeps r s) : Keeps r (State.obs s code loc by_) := by
  unfold State.obs
  repeat' first
    | with_reducible assumption | with_reducible apply keeps_ite | with_reducible apply State.forN_keeps
    | with_reducible apply State.obsAdd_keeps | intro x

theorem State.bump_keeps {r : State} {s : State} (f : Fld) (i : optParam Nat 0) (by_ : optParam Nat 1) (hs : Keeps r s) : Keeps r (State.bump s f i by_) := by
  unfold State.bump
  repeat' first | with_reducible assumption | with_reducible apply State.set_keeps

theorem State.setFlag_keeps {r : State} {s : State} (f : Fld) (i : Nat) (b : Bool) (hs : Keeps r s) : Keeps r (State.setFlag s f i b) := by
  unfold State.setFlag
  repeat' first | with_reducible assumption | with_reducible apply State.set_keeps

theorem State.capture_keeps {r : State} {s : State} (k : Nat) (cls : Nat) (hs : Keeps r s) : Keeps r (State.capture s k cls) := by
  unfold State.capture
  repeat' first
    | with_reducible assumption | with_reducible apply keeps_ite | with_reducible apply State.setFlag_keeps
    | with_reducible apply State.set_keeps

theorem State.trapSave_keeps {r : State} {s : State} (n : Fin 12) (cause : Nat) (epc : BitVec 16) (bad : Option Nat) (imprecise : Bool) (hs : Keeps r s) : Keeps r (State.trapSave s n cause epc bad imprecise) := by
  unfold State.trapSave
  repeat' first
    | with_reducible assumption | with_reducible apply State.set_keeps | with_reducible apply State.setFlag_keeps
    | with_reducible apply State.bump_keeps | with_reducible apply State.raiseBit_keeps | with_reducible apply State.obs_keeps | split

theorem State.halt_keeps {r : State} {s : State} (n : Fin 12) (hs : Keeps r s) : Keeps r (State.halt s n) := by
  unfold State.halt
  repeat' first
    | with_reducible assumption | with_reducible apply State.setEng_keeps | with_reducible apply State.raiseBit_keeps
    | with_reducible apply State.set_keeps

theorem State.orphan_keeps {r : State} {s : State} (n : Fin 12) (hs : Keeps r s) : Keeps r (State.orphan s n) := by
  unfold State.orphan
  repeat' first | with_reducible assumption | (fail_if_no_progress with_reducible refine keeps_mk ?_ rfl rfl)

theorem State.engineReset_keeps {r : State} {s : State} (n : Fin 12) (hs : Keeps r s) : Keeps r (State.engineReset s n) := by
  unfold State.engineReset
  repeat' first
    | with_reducible assumption | with_reducible apply keeps_ite | with_reducible apply State.orphan_keeps
    | with_reducible apply State.setEng_keeps | with_reducible apply State.set_keeps
    | exact keeps_regs (s := s.orphan n) (State.orphan_keeps n hs) rfl rfl | (with_reducible refine keeps_regs ?_ rfl rfl)

theorem State.bumpW_keeps {r : State} {s : State} (f : Fld) (i : optParam Nat 0) (by_ : optParam Nat 1) (hs : Keeps r s) : Keeps r (State.bumpW s f i by_) := by
  unfold State.bumpW
  repeat' first | with_reducible assumption | with_reducible apply State.set_keeps

theorem State.slot_keeps {r : State} {s : State} (n : Fin 12) (f : Fld) (k : Nat) (hs : Keeps r s) : Keeps r (State.slot s n f k) := by
  unfold State.slot
  repeat' first
    | with_reducible assumption | with_reducible apply keeps_ite | with_reducible apply State.bumpW_keeps
    | with_reducible apply State.obs_keeps

theorem State.trapVector_keeps {r : State} {s : State} (n : Fin 12) (hs : Keeps r s) : Keeps r (State.trapVector s n) := by
  unfold State.trapVector
  repeat' first
    | with_reducible assumption | with_reducible apply State.setFlag_keeps | with_reducible apply State.setEng_keeps
    | with_reducible apply State.slot_keeps | with_reducible apply State.set_keeps

theorem State.trapEnter_keeps {r : State} {s : State} (n : Fin 12) (cause : Nat) (epc : BitVec 16) (bad : Option Nat) (imprecise : Bool) (hs : Keeps r s) : Keeps r (State.trapEnter s n cause epc bad imprecise) := by
  unfold State.trapEnter
  repeat' first
    | with_reducible assumption | with_reducible apply keeps_ite | with_reducible apply State.trapSave_keeps
    | with_reducible apply State.halt_keeps | with_reducible apply State.engineReset_keeps | with_reducible apply State.trapVector_keeps

theorem State.takeNmi_keeps {r : State} {s : State} (hs : Keeps r s) : Keeps r (State.takeNmi s) := by
  unfold State.takeNmi
  repeat' first
    | with_reducible assumption | with_reducible apply keeps_ite | with_reducible apply State.trapEnter_keeps
    | with_reducible apply State.setEng_keeps

theorem State.drawn_keeps {r : State} {s : State} (hs : Keeps r s) : Keeps r (State.drawn s) := by
  unfold State.drawn
  repeat' first | with_reducible assumption | (with_reducible refine keeps_draw ?_ rfl rfl)

theorem State.ringPut_keeps {r : State} {s : State} (y2 : KRec) (hs : Keeps r s) : Keeps r (State.ringPut s y2) := by
  unfold State.ringPut
  repeat' first
    | with_reducible assumption | with_reducible apply keeps_ite | with_reducible apply State.bump_keeps
    | with_reducible apply State.setWordsN_keeps

theorem State.mkRecordBy_keeps {r : State} {s : State} (key : Digest) (typ : Nat) (flags : Nat) (keySlot : Nat) (rt : Time) (detail : List Byte) (hs : Keeps r s) : Keeps r (State.mkRecordBy s key typ flags keySlot rt detail).2 := by
  unfold State.mkRecordBy
  repeat' first
    | with_reducible assumption | with_reducible apply State.drawn_keeps | with_reducible apply State.irqEdge_keeps
    | with_reducible apply State.set_keeps | with_reducible apply State.ringPut_keeps
    | (fail_if_no_progress with_reducible refine keeps_mk ?_ rfl rfl)

theorem State.syncAudit_keeps {r : State} {s : State} (hs : Keeps r s) : Keeps r (State.syncAudit s) := by
  unfold State.syncAudit
  repeat' first | with_reducible assumption | with_reducible apply State.setFlag_keeps | with_reducible apply State.set_keeps

theorem State.logEventBy_keeps {r : State} {s : State} (key : Digest) (typ : Nat) (flags : Nat) (keySlot : Nat) (rt : Time) (detail : List Byte) (hs : Keeps r s) : Keeps r (State.logEventBy s key typ flags keySlot rt detail) := by
  unfold State.logEventBy
  repeat' first
    | with_reducible assumption | with_reducible apply keeps_ite | with_reducible apply State.mkRecordBy_keeps
    | with_reducible apply State.bump_keeps | with_reducible apply State.syncAudit_keeps
    | (fail_if_no_progress with_reducible refine keeps_mk ?_ rfl rfl)

theorem State.logEvent_keeps {r : State} {s : State} (typ : Nat) (keySlot : Nat) (rt : Time) (detail : List Byte) (hs : Keeps r s) : Keeps r (State.logEvent s typ keySlot rt detail) := by
  unfold State.logEvent
  repeat' first | with_reducible assumption | with_reducible apply State.logEventBy_keeps

theorem State.faultLog_keeps {r : State} {s : State} (k : Nat) (cls : Nat) (react : Nat) (inst : Nat) (info : List Byte) (hs : Keeps r s) : Keeps r (State.faultLog s k cls react inst info) := by
  unfold State.faultLog
  repeat' first
    | with_reducible assumption | with_reducible apply keeps_ite | with_reducible apply State.logEvent_keeps
    | (fail_if_no_progress with_reducible refine keeps_mk ?_ rfl rfl)

theorem State.syncBark_keeps {r : State} {s : State} (other : Bool) (hs : Keeps r s) : Keeps r (State.syncBark s other) := by
  unfold State.syncBark
  repeat' first
    | with_reducible assumption | with_reducible apply keeps_ite | with_reducible apply State.setFlag_keeps
    | (fail_if_no_progress with_reducible refine keeps_mk ?_ rfl rfl)

theorem State.syncFlt_keeps {r : State} {s : State} (hs : Keeps r s) : Keeps r (State.syncFlt s) := by
  unfold State.syncFlt
  repeat' first | with_reducible assumption | with_reducible apply State.setFlag_keeps | with_reducible apply State.syncBark_keeps

theorem State.raiseCore_keeps {r : State} {s : State} (k : Nat) (inst : Nat) (info : List Byte) (hs : Keeps r s) : Keeps r (State.raiseCore s k inst info) := by
  unfold State.raiseCore
  repeat' first
    | with_reducible assumption | with_reducible apply State.raiseBit_keeps | with_reducible apply State.bump_keeps
    | with_reducible apply State.capture_keeps | with_reducible apply State.irq_keeps | with_reducible apply State.takeNmi_keeps
    | with_reducible apply State.setEng_keeps | with_reducible apply State.faultLog_keeps | with_reducible apply State.syncFlt_keeps | split

theorem State.slotCheck1_keeps {r : State} {s : State} (k : Fin 32) (hs : Keeps r s) : Keeps r (State.slotCheck1 s k).2 := by
  unfold State.slotCheck1
  repeat' first
    | with_reducible assumption | with_reducible apply State.raiseBit_keeps | lift_lets -underBinder | intro x
    | (fail_if_no_progress with_reducible refine keeps_mk ?_ rfl rfl) | split

theorem State.chipReset_keeps {r : State} {s : State} (cause : Nat) (hs : Keeps r s) : Keeps r (State.chipReset s cause) := by
  unfold State.chipReset
  repeat' first
    | with_reducible assumption | with_reducible apply keeps_ite | with_reducible apply State.set_keeps
    | with_reducible apply State.setFlag_keeps | with_reducible apply State.syncFlt_keeps | (with_reducible refine keeps_chip ?_ rfl rfl)

theorem State.chipResetChecked_keeps {r : State} {s : State} (cause : Nat) (hs : Keeps r s) : Keeps r (State.chipResetChecked s cause) := by
  unfold State.chipResetChecked
  repeat' first
    | with_reducible assumption | with_reducible apply keeps_ite | with_reducible apply State.slotCheck1_keeps
    | with_reducible apply State.raiseCore_keeps | with_reducible apply State.chipReset_keeps | with_reducible apply keeps_foldl | intro x

theorem State.engineBlockReset_keeps {r : State} {s : State} (n : Fin 12) (hs : Keeps r s) : Keeps r (State.engineBlockReset s n) := by
  unfold State.engineBlockReset
  repeat' first
    | with_reducible assumption | with_reducible apply State.orphan_keeps | with_reducible apply State.setEng_keeps
    | exact keeps_regs (s := s.orphan n) (State.orphan_keeps n hs) rfl rfl | (with_reducible refine keeps_regs ?_ rfl rfl)

theorem State.idleNow_keeps {r : State} {s : State} (u : Fin 3) (hs : Keeps r s) : Keeps r (State.idleNow s u) := by
  unfold State.idleNow
  repeat' first | with_reducible assumption | (fail_if_no_progress with_reducible refine keeps_mk ?_ rfl rfl)

theorem State.resetLinks_keeps {r : State} {s : State} (link : Nat → Bool) (group : Nat → Bool) (hs : Keeps r s) : Keeps r (State.resetLinks s link group) := by
  unfold State.resetLinks
  repeat' first | with_reducible assumption | (fail_if_no_progress with_reducible refine keeps_mk ?_ rfl rfl)

theorem State.resetLch_keeps {r : State} {s : State} (hs : Keeps r s) : Keeps r (State.resetLch s) := by
  unfold State.resetLch
  repeat' first | with_reducible assumption | (fail_if_no_progress with_reducible refine keeps_mk ?_ rfl rfl)

theorem State.resetSrv_keeps {r : State} {s : State} (hs : Keeps r s) : Keeps r (State.resetSrv s) := by
  unfold State.resetSrv
  repeat' first | with_reducible assumption | (with_reducible refine keeps_draw ?_ rfl rfl)

theorem State.resetPck_keeps {r : State} {s : State} (hs : Keeps r s) : Keeps r (State.resetPck s) := by
  unfold State.resetPck
  repeat' first
    | with_reducible assumption | with_reducible apply State.resetLinks_keeps
    | (fail_if_no_progress with_reducible refine keeps_mk ?_ rfl rfl)

theorem State.resetEngines_keeps {r : State} {s : State} (hs : Keeps r s) : Keeps r (State.resetEngines s) := by
  unfold State.resetEngines
  repeat' first
    | with_reducible assumption | with_reducible apply keeps_ite | with_reducible apply State.engineBlockReset_keeps
    | with_reducible apply keeps_foldl | intro x

theorem State.syncWorlds_keeps {r : State} {s : State} (hs : Keeps r s) : Keeps r (State.syncWorlds s) := by
  unfold State.syncWorlds
  repeat' first | with_reducible assumption | with_reducible apply State.set_keeps

theorem State.secEvt_keeps {r : State} {s : State} (b : Nat) (hs : Keeps r s) : Keeps r (State.secEvt s b) := by
  unfold State.secEvt
  repeat' first | with_reducible assumption | with_reducible apply State.raiseBit_keeps

theorem State.dbgClose_keeps {r : State} {s : State} (hs : Keeps r s) : Keeps r (State.dbgClose s) := by
  unfold State.dbgClose
  repeat' first
    | with_reducible assumption | with_reducible apply keeps_ite | with_reducible apply State.syncWorlds_keeps
    | with_reducible apply State.secEvt_keeps | with_reducible apply State.set_keeps
    | (fail_if_no_progress with_reducible refine keeps_mk ?_ rfl rfl)

theorem State.resetHidden_keeps {r : State} {s : State} (b : Block) (hs : Keeps r s) : Keeps r (State.resetHidden s b) := by
  unfold State.resetHidden
  repeat' first
    | with_reducible assumption | with_reducible apply State.idleNow_keeps | with_reducible apply State.resetLinks_keeps
    | with_reducible apply State.resetLch_keeps | with_reducible apply State.resetSrv_keeps | with_reducible apply State.resetPck_keeps
    | with_reducible apply State.resetEngines_keeps | with_reducible apply State.dbgClose_keeps
    | (fail_if_no_progress with_reducible refine keeps_mk ?_ rfl rfl) | split

theorem State.blockReset_keeps {r : State} {s : State} (u : ResetUnit) (hs : Keeps r s) : Keeps r (State.blockReset s u) := by
  unfold State.blockReset
  repeat' first
    | with_reducible assumption | with_reducible apply State.engineBlockReset_keeps | with_reducible apply State.set_keeps
    | with_reducible apply State.resetHidden_keeps | with_reducible apply State.dbgClose_keeps | with_reducible apply State.resetLinks_keeps
    | with_reducible apply keeps_foldl | intro x | (with_reducible refine keeps_regs ?_ rfl rfl) | split

theorem State.blockReact_keeps {r : State} {s : State} (k : Nat) (inst : Nat) (hs : Keeps r s) : Keeps r (State.blockReact s k inst) := by
  unfold State.blockReact
  repeat' first
    | with_reducible assumption | with_reducible apply State.bump_keeps | with_reducible apply State.engineReset_keeps
    | with_reducible apply State.blockReset_keeps | (fail_if_no_progress with_reducible refine keeps_mk ?_ rfl rfl) | split

theorem State.raise1_keeps {r : State} {s : State} (k : Nat) (inst : Nat) (info : List Byte) (hs : Keeps r s) : Keeps r (State.raise1 s k inst info) := by
  unfold State.raise1
  repeat' first
    | with_reducible assumption | with_reducible apply keeps_ite | with_reducible apply State.raiseCore_keeps
    | with_reducible apply State.chipResetChecked_keeps | with_reducible apply State.bump_keeps | with_reducible apply State.blockReact_keeps
    | split

theorem State.syncAuditFull_keeps {r : State} {s : State} (hs : Keeps r s) : Keeps r (State.syncAuditFull s) := by
  unfold State.syncAuditFull
  repeat' first
    | with_reducible assumption | with_reducible apply keeps_ite | with_reducible apply State.raise1_keeps
    | with_reducible apply State.raiseBit_keeps | with_reducible apply State.clearBit_keeps

theorem State.raise_keeps {r : State} {s : State} (k : Nat) (inst : optParam Nat noInst) (info : optParam (List Byte) []) (hs : Keeps r s) : Keeps r (State.raise s k inst info) := by
  unfold State.raise
  repeat' first | with_reducible assumption | with_reducible apply State.syncAuditFull_keeps | with_reducible apply State.raise1_keeps

theorem State.mtxErr_keeps {r : State} {s : State} (master : Nat) (a : Nat) (y4 : Fin 12) (write : Bool) (kind : Nat) (hs : Keeps r s) : Keeps r (State.mtxErr s master a y4 write kind) := by
  unfold State.mtxErr
  repeat' first
    | with_reducible assumption | with_reducible apply keeps_ite | with_reducible apply State.set_keeps
    | with_reducible apply State.setFlag_keeps | with_reducible apply State.obs_keeps | with_reducible apply State.bump_keeps
    | with_reducible apply State.raise_keeps | with_reducible apply State.raiseBit_keeps

theorem State.sramErr_keeps {r : State} {s : State} (master : Nat) (a : Nat) (n : Nat) (write : Bool) (hs : Keeps r s) : Keeps r (State.sramErr s master a n write) := by
  unfold State.sramErr
  repeat' first
    | with_reducible assumption | with_reducible apply keeps_ite | with_reducible apply State.mtxErr_keeps
    | with_reducible apply State.raise_keeps

theorem State.memErr_keeps {r : State} {s : State} (j : UJob) (hs : Keeps r s) : Keeps r (State.memErr s j) := by
  unfold State.memErr
  repeat' first | with_reducible assumption | with_reducible apply State.sramErr_keeps | with_reducible apply State.raise_keeps | split

theorem State.aeadDone_keeps {r : State} {s : State} (j : UJob) (status : Nat) (value : Nat) (hs : Keeps r s) : Keeps r (State.aeadDone s j status value) := by
  unfold State.aeadDone
  repeat' first
    | with_reducible assumption | with_reducible apply keeps_ite | with_reducible apply State.ctxFree_keeps
    | with_reducible apply State.depthSync_keeps | with_reducible apply State.jobDone_keeps | with_reducible apply State.obs_keeps
    | with_reducible apply State.bump_keeps | with_reducible apply State.memErr_keeps

theorem State.freeJob_keeps {r : State} {s : State} (j : UJob) (hs : Keeps r s) : Keeps r (State.freeJob s j) := by
  unfold State.freeJob
  repeat' first | with_reducible assumption | with_reducible apply State.aeadDone_keeps | with_reducible apply State.ctxFree_keeps | split

theorem execAeadFree_keeps {r : State} (n : Fin 12) (num : Fin 16) {s : State} (hs : Keeps r s) : ∃ t, execAeadFree n num s = .next t ∧ Keeps r t := by
  unfold execAeadFree
  repeat' first
    | with_reducible assumption | with_reducible apply State.runJob_keeps | with_reducible apply State.freeJob_keeps
    | (with_reducible refine ⟨_, rfl, ?_⟩) | intro x

theorem State.setAdr_keeps {r : State} {s : State} (n : Fin 4) (y3 : AdrPort) (hs : Keeps r s) : Keeps r (State.setAdr s n y3) := by
  unfold State.setAdr
  repeat' first | with_reducible assumption | (fail_if_no_progress with_reducible refine keeps_mk ?_ rfl rfl)

theorem State.adrSteer_keeps {r : State} {s : State} (n : Fin 4) (hs : Keeps r s) : Keeps r (State.adrSteer s n) := by
  unfold State.adrSteer
  repeat' first
    | with_reducible assumption | with_reducible apply keeps_ite | with_reducible apply State.set_keeps
    | with_reducible apply State.setAdr_keeps

theorem State.renew_keeps {r : State} {s : State} (lo : Nat) (hi : Nat) (hs : Keeps r s) : Keeps r (State.renew s lo hi) := by
  unfold State.renew
  repeat' first | with_reducible assumption | (fail_if_no_progress with_reducible refine keeps_mk ?_ rfl rfl)

theorem State.setBytes_keeps {r : State} {s : State} (a : Nat) (bs : List Byte) (hs : Keeps r s) : Keeps r (State.setBytes s a bs) := by
  unfold State.setBytes
  repeat' first | with_reducible assumption | with_reducible apply State.renew_keeps | with_reducible apply State.putBytes_keeps

theorem State.devWrite_keeps {r : State} {s : State} (master : Nat) (a : Nat) (bs : List Byte) (hs : Keeps r s) : Keeps r (State.devWrite s master a bs) := by
  unfold State.devWrite
  repeat' first
    | with_reducible assumption | with_reducible apply keeps_ite | with_reducible apply State.setBytes_keeps
    | with_reducible apply State.sramErr_keeps

theorem State.pstatSync_keeps {r : State} {s : State} (p : Fin 64) (hs : Keeps r s) : Keeps r (State.pstatSync s p) := by
  unfold State.pstatSync
  repeat' first | with_reducible assumption | with_reducible apply State.set_keeps

theorem State.putLport_keeps {r : State} {s : State} (p : Fin 64) (y3 : LchPort) (hs : Keeps r s) : Keeps r (State.putLport s p y3) := by
  unfold State.putLport
  repeat' first | with_reducible assumption | with_reducible apply State.pstatSync_keeps | with_reducible apply State.setLport_keeps

theorem State.enterQueue_keeps {r : State} {s : State} (p : Fin 64) (e : LEntry) (hs : Keeps r s) : Keeps r (State.enterQueue s p e) := by
  unfold State.enterQueue
  repeat' first | with_reducible assumption | with_reducible apply State.putLport_keeps

theorem State.acceptEntry_keeps {r : State} {s : State} (p : Fin 64) (e : LEntry) (hs : Keeps r s) : Keeps r (State.acceptEntry s p e) := by
  unfold State.acceptEntry
  repeat' first | with_reducible assumption | with_reducible apply State.takeRct_keeps | with_reducible apply State.enterQueue_keeps | split

theorem State.lchEvt_keeps {r : State} {s : State} (b : Nat) (hs : Keeps r s) : Keeps r (State.lchEvt s b) := by
  unfold State.lchEvt
  repeat' first | with_reducible assumption | with_reducible apply State.raiseBit_keeps

theorem State.launchDesc_keeps {r : State} {s : State} (d : List Byte) (ring : Nat) (late : optParam Nat 0) (hs : Keeps r s) : Keeps r (State.launchDesc s d ring late).2 := by
  unfold State.launchDesc
  repeat' first
    | with_reducible assumption | with_reducible apply State.acceptEntry_keeps | with_reducible apply State.lchEvt_keeps
    | with_reducible apply State.bump_keeps | lift_lets -underBinder | intro x | split

theorem State.servLaunch_keeps {r : State} {s : State} (k : Fin 8) (p : Fin 64) (y4 : Launch) (addr : Nat) (frame : List Byte) (hs : Keeps r s) : Keeps r (State.servLaunch s k p y4 addr frame).2 := by
  unfold State.servLaunch
  repeat' first | with_reducible assumption | with_reducible apply State.devWrite_keeps | with_reducible apply State.launchDesc_keeps | split

theorem State.awaitReport_keeps {r : State} {s : State} (y2 : TwoStep) (hs : Keeps r s) : Keeps r (State.awaitReport s y2) := by
  unfold State.awaitReport
  repeat' first | with_reducible assumption | with_reducible apply State.setSrv_keeps

theorem State.syncSend_keeps {r : State} {s : State} (k : Fin 8) (p : Fin 64) (index : Option (BitVec 20)) (hdr : List Byte) (buf : Nat) (l : Nat) (hs : Keeps r s) : Keeps r (State.syncSend s k p index hdr buf l) := by
  unfold State.syncSend
  repeat' first
    | with_reducible assumption | with_reducible apply keeps_ite | with_reducible apply State.servLaunch_keeps
    | with_reducible apply State.setSrv_keeps | with_reducible apply State.awaitReport_keeps | lift_lets -underBinder | intro x | split

theorem execSyncSend_keeps {r : State} (k : Fin 8) (p : Fin 64) (index : Option (BitVec 20)) (hdr : List Byte) (buf : Word) (l : BitVec 96) {s : State} (hs : Keeps r s) : ∃ t, execSyncSend k p index hdr buf l s = .next t ∧ Keeps r t := by
  unfold execSyncSend
  repeat' first | with_reducible assumption | with_reducible apply State.syncSend_keeps | (with_reducible refine ⟨_, rfl, ?_⟩)

theorem State.gateLast_keeps {r : State} {s : State} (v : Nat) (hs : Keeps r s) : Keeps r (State.gateLast s v) := by
  unfold State.gateLast
  repeat' first | with_reducible assumption | with_reducible apply State.set_keeps

theorem State.syncGate_keeps {r : State} {s : State} (hs : Keeps r s) : Keeps r (State.syncGate s) := by
  unfold State.syncGate
  repeat' first | with_reducible assumption | with_reducible apply State.setFlag_keeps

theorem State.ungateStart_keeps {r : State} {s : State} (u : Nat) (hs : Keeps r s) : Keeps r (State.ungateStart s u) := by
  unfold State.ungateStart
  repeat' first
    | with_reducible assumption | with_reducible apply State.syncGate_keeps | (fail_if_no_progress with_reducible refine keeps_mk ?_ rfl rfl)

theorem State.ungateReq_keeps {r : State} {s : State} (u : Nat) (hs : Keeps r s) : Keeps r (State.ungateReq s u) := by
  unfold State.ungateReq
  repeat' first
    | with_reducible assumption | with_reducible apply keeps_ite | with_reducible apply State.gateLast_keeps
    | with_reducible apply State.ungateStart_keeps

theorem State.gnssWake_keeps {r : State} {s : State} (hs : Keeps r s) : Keeps r (State.gnssWake s) := by
  unfold State.gnssWake
  repeat' first | with_reducible assumption | with_reducible apply keeps_ite | with_reducible apply State.ungateReq_keeps

theorem State.setUp_keeps {r : State} {s : State} (us : Fin 8) (y3 : UpSess) (hs : Keeps r s) : Keeps r (State.setUp s us y3) := by
  unfold State.setUp
  repeat' first | with_reducible assumption | with_reducible apply State.setSrv_keeps

theorem State.upAnnounce_keeps {r : State} {s : State} (p : Fin 64) (y3 : Req) (hs : Keeps r s) : Keeps r (State.upAnnounce s p y3) := by
  unfold State.upAnnounce
  repeat' first | with_reducible assumption | with_reducible apply State.setUp_keeps

theorem State.saveState_keeps {r : State} {s : State} (v : Nat) (hs : Keeps r s) : Keeps r (State.saveState s v) := by
  unfold State.saveState
  repeat' first | with_reducible assumption | with_reducible apply State.set_keeps

theorem State.saveStart_keeps {r : State} {s : State} (cause : Nat) (hs : Keeps r s) : Keeps r (State.saveStart s cause) := by
  unfold State.saveStart
  repeat' first
    | with_reducible assumption | with_reducible apply State.saveState_keeps
    | (fail_if_no_progress with_reducible refine keeps_mk ?_ rfl rfl) | split

theorem State.dropNoQueue_keeps {r : State} {s : State} (p : Fin 64) (hs : Keeps r s) : Keeps r (State.dropNoQueue s p) := by
  unfold State.dropNoQueue
  repeat' first | with_reducible assumption | with_reducible apply State.obs_keeps | with_reducible apply State.bump_keeps

theorem State.poolPut_keeps {r : State} {s : State} (free : List Nat) (hs : Keeps r s) : Keeps r (State.poolPut s free) := by
  unfold State.poolPut
  repeat' first | with_reducible assumption | with_reducible apply State.set_keeps | with_reducible apply State.setSrv_keeps

theorem State.poolRet_keeps {r : State} {s : State} (a : Nat) (hs : Keeps r s) : Keeps r (State.poolRet s a) := by
  unfold State.poolRet
  repeat' first | with_reducible assumption | with_reducible apply keeps_ite | with_reducible apply State.poolPut_keeps

theorem State.delivered_keeps {r : State} {s : State} (p : Fin 64) (md : List Byte) (hs : Keeps r s) : Keeps r (State.delivered s p md) := by
  unfold State.delivered
  repeat' first
    | with_reducible assumption | with_reducible apply keeps_ite | with_reducible apply State.bump_keeps
    | with_reducible apply State.set_keeps | with_reducible apply State.obs_keeps

theorem State.event_keeps {r : State} {s : State} (n : Fin 12) (b : Nat) (hs : Keeps r s) : Keeps r (State.event s n b) := by
  unfold State.event
  repeat' first | with_reducible assumption | with_reducible apply keeps_ite | with_reducible apply State.setEng_keeps

theorem State.enqueue_keeps {r : State} {s : State} (w : RxWait) (nts : Nat) (hs : Keeps r s) : Keeps r (State.enqueue s w nts) := by
  unfold State.enqueue
  repeat' first
    | with_reducible assumption | with_reducible apply keeps_ite | with_reducible apply State.dropNoQueue_keeps
    | with_reducible apply State.poolRet_keeps | with_reducible apply State.bump_keeps | with_reducible apply State.devWrite_keeps
    | with_reducible apply State.obs_keeps | with_reducible apply State.bumpW_keeps | with_reducible apply State.delivered_keeps
    | with_reducible apply State.event_keeps | split

theorem State.unqueue_keeps {r : State} {s : State} (p : Fin 64) (e : LEntry) (hs : Keeps r s) : Keeps r (State.unqueue s p e) := by
  unfold State.unqueue
  repeat' first | with_reducible assumption | with_reducible apply State.putLport_keeps

theorem State.report_keeps {r : State} {s : State} (p : Fin 64) (e : LEntry) (rt : Nat) (ver : Nat) (status : Nat) (err : Int) (degraded : Bool) (sn : Bool) (hs : Keeps r s) : Keeps r (State.report s p e rt ver status err degraded sn) := by
  unfold State.report
  repeat' first
    | with_reducible assumption | with_reducible apply keeps_ite | with_reducible apply State.bumpW_keeps
    | with_reducible apply State.obs_keeps | with_reducible apply State.lchEvt_keeps | with_reducible apply State.bump_keeps
    | with_reducible apply State.putLport_keeps | with_reducible apply State.set_keeps

theorem State.countSent_keeps {r : State} {s : State} (p : Fin 64) (e : LEntry) (moved : Bool) (hs : Keeps r s) : Keeps r (State.countSent s p e moved) := by
  unfold State.countSent
  repeat' first
    | with_reducible assumption | with_reducible apply keeps_ite | with_reducible apply State.obs_keeps
    | with_reducible apply State.bump_keeps

theorem State.send_keeps {r : State} {s : State} (p : Fin 64) (e : LEntry) (y4 : Time × Nat × Bool) (d : Nat) (hs : Keeps r s) : Keeps r (State.send s p e y4 d) := by
  unfold State.send
  repeat' first
    | with_reducible assumption | with_reducible apply keeps_ite | with_reducible apply State.unqueue_keeps
    | with_reducible apply State.report_keeps | with_reducible apply State.drawn_keeps | with_reducible apply State.bump_keeps
    | with_reducible apply State.trailed_keeps | with_reducible apply State.countSent_keeps | with_reducible apply State.setLport_keeps

theorem State.launchTimed_keeps {r : State} {s : State} (p : Fin 64) (y3 : Time × Nat × Bool) (hs : Keeps r s) : Keeps r (State.launchTimed s p y3) := by
  unfold State.launchTimed
  repeat' first | with_reducible assumption | with_reducible apply State.send_keeps | split

theorem State.launchImm_keeps {r : State} {s : State} (p : Fin 64) (y3 : Time × Nat × Bool) (hs : Keeps r s) : Keeps r (State.launchImm s p y3) := by
  unfold State.launchImm
  repeat' first | with_reducible assumption | with_reducible apply State.send_keeps | split

theorem State.launchSup_keeps {r : State} {s : State} (p : Fin 64) (y3 : Time × Nat × Bool) (hs : Keeps r s) : Keeps r (State.launchSup s p y3) := by
  unfold State.launchSup
  repeat' first | with_reducible assumption | with_reducible apply State.setLport_keeps | split

theorem State.frameLaunch_keeps {r : State} {s : State} (p : Fin 64) (q : LaunchQueue) (phase : BitVec 16) (bitIdx : Byte) (hs : Keeps r s) : Keeps r (State.frameLaunch s p q phase bitIdx) := by
  unfold State.frameLaunch
  repeat' first
    | with_reducible assumption | with_reducible apply State.launchTimed_keeps | with_reducible apply State.launchImm_keeps
    | with_reducible apply State.launchPack_keeps | with_reducible apply State.launchSup_keeps | split

theorem State.refWeights_keeps {r : State} {s : State} (bounds : List Nat) (hs : Keeps r s) : Keeps r (State.refWeights s bounds) := by
  unfold State.refWeights
  repeat' first | with_reducible assumption | with_reducible apply State.set_keeps | with_reducible apply keeps_foldl | intro x

theorem State.setOsc_keeps {r : State} {s : State} (k : Fin 5) (o : OscSt) (hs : Keeps r s) : Keeps r (State.setOsc s k o) := by
  unfold State.setOsc
  repeat' first | with_reducible assumption | (fail_if_no_progress with_reducible refine keeps_mk ?_ rfl rfl)

theorem State.oscModel_keeps {r : State} {s : State} (k : Fin 4) (hs : Keeps r s) : Keeps r (State.oscModel s k) := by
  unfold State.oscModel
  repeat' first | with_reducible assumption | with_reducible apply State.setOsc_keeps | split

end Sys2Proof.Machine
end

