-- ==== Sys2Proof/Laws/Keeps2.lean ====
section
/-! SUPPORT. What every operation keeps, continued: one lemma per operation, callees first (part 2). -/

set_option linter.all false

namespace Sys2Proof.Machine

theorem State.setFreqOnly_keeps {r : State} {s : State} (n : Nat) (b : Bool) (hs : Keeps r s) : Keeps r (State.setFreqOnly s n b) := by
  unfold State.setFreqOnly
  repeat' first | with_reducible assumption | with_reducible apply State.setFlag_keeps

theorem State.lshShow_keeps {r : State} {s : State} (core : Nat) (held : Nat) (flags : Nat) (y5 : Terms) (hs : Keeps r s) : Keeps r (State.lshShow s core held flags y5) := by
  unfold State.lshShow
  repeat' first
    | with_reducible assumption | with_reducible apply keeps_ite | with_reducible apply State.set_keeps
    | with_reducible apply State.setFlag_keeps | with_reducible apply State.irq_keeps

theorem State.leashWiden_keeps {r : State} {s : State} (hs : Keeps r s) : Keeps r (State.leashWiden s) := by
  unfold State.leashWiden
  repeat' first
    | with_reducible assumption | with_reducible apply State.lshShow_keeps | (fail_if_no_progress with_reducible refine keeps_mk ?_ rfl rfl)

theorem State.showHold_keeps {r : State} {s : State} (hs : Keeps r s) : Keeps r (State.showHold s) := by
  unfold State.showHold
  repeat' first | with_reducible assumption | with_reducible apply State.set_keeps

theorem State.setServo_keeps {r : State} {s : State} (v : Nat) (hs : Keeps r s) : Keeps r (State.setServo s v) := by
  unfold State.setServo
  repeat' first
    | with_reducible assumption | with_reducible apply keeps_ite | with_reducible apply State.set_keeps
    | with_reducible apply State.setFlag_keeps | with_reducible apply State.raiseBit_keeps | with_reducible apply State.showHold_keeps
    | (fail_if_no_progress with_reducible refine keeps_mk ?_ rfl rfl)

theorem State.leadWrite_keeps {r : State} {s : State} (y2 : Terms) (hs : Keeps r s) : Keeps r (State.leadWrite s y2) := by
  unfold State.leadWrite
  repeat' first | with_reducible assumption | with_reducible apply keeps_ite | (fail_if_no_progress with_reducible refine keeps_mk ?_ rfl rfl)

theorem State.timeStat_keeps {r : State} {s : State} (f : Fld) (hs : Keeps r s) : Keeps r (State.timeStat s f) := by
  unfold State.timeStat
  repeat' first | with_reducible assumption | with_reducible apply State.set_keeps

theorem State.acceptFw_keeps {r : State} {s : State} (u : FwUpd) (hs : Keeps r s) : Keeps r (State.acceptFw s u) := by
  unfold State.acceptFw
  repeat' first
    | with_reducible assumption | with_reducible apply keeps_ite | with_reducible apply State.timeStat_keeps
    | (fail_if_no_progress with_reducible refine keeps_mk ?_ rfl rfl)

theorem State.fwArrive_keeps {r : State} {s : State} (u : FwUpd) (hs : Keeps r s) : Keeps r (State.fwArrive s u) := by
  unfold State.fwArrive
  repeat' first
    | with_reducible assumption | with_reducible apply keeps_ite | with_reducible apply State.timeStat_keeps
    | with_reducible apply State.acceptFw_keeps

theorem State.anchorReq_keeps {r : State} {s : State} (freq : DWord) (phase : DWord) (req : BitVec 20) (hs : Keeps r s) : Keeps r (State.anchorReq s freq phase req) := by
  unfold State.anchorReq
  repeat' first
    | with_reducible assumption | with_reducible apply keeps_ite | with_reducible apply State.fwArrive_keeps
    | (fail_if_no_progress with_reducible refine keeps_mk ?_ rfl rfl)

theorem State.servoUpdate_keeps {r : State} {s : State} (residPs : Nat) (bounds : List Nat) (est : List (Nat × Nat)) (hs : Keeps r s) : Keeps r (State.servoUpdate s residPs bounds est) := by
  unfold State.servoUpdate
  repeat' first
    | with_reducible assumption | with_reducible apply keeps_ite | with_reducible apply State.refWeights_keeps
    | with_reducible apply State.set_keeps | with_reducible apply State.oscModel_keeps | with_reducible apply State.setFreqOnly_keeps
    | with_reducible apply State.leashWiden_keeps | with_reducible apply State.setServo_keeps | with_reducible apply State.leadWrite_keeps
    | with_reducible apply State.anchorReq_keeps | with_reducible apply keeps_foldl | intro x
    | (fail_if_no_progress with_reducible refine keeps_mk ?_ rfl rfl) | split

theorem State.setAtt_keeps {r : State} {s : State} (i : Fin 68) (y3 : AttSt) (hs : Keeps r s) : Keeps r (State.setAtt s i y3) := by
  unfold State.setAtt
  repeat' first | with_reducible assumption | (fail_if_no_progress with_reducible refine keeps_mk ?_ rfl rfl)

theorem State.rollTake_keeps {r : State} {s : State} (i : Fin 68) (y3 : PackRx) (hs : Keeps r s) : Keeps r (State.rollTake s i y3) := by
  unfold State.rollTake
  repeat' first
    | with_reducible assumption | with_reducible apply State.setAtt_keeps | with_reducible apply State.setFlag_keeps
    | with_reducible apply State.set_keeps

theorem State.hostSubmit_keeps {r : State} {s : State} (hs : Keeps r s) : Keeps r (State.hostSubmit s) := by
  unfold State.hostSubmit
  repeat' first
    | with_reducible assumption | with_reducible apply keeps_ite | with_reducible apply State.launchDesc_keeps
    | with_reducible apply State.set_keeps | with_reducible apply State.bumpW_keeps

theorem State.run_keeps {r : State} {s : State} (u : Nat) {f : State → State} (hs : Keeps r s) (hf : (∀ s, Keeps r s → Keeps r (f s))) : Keeps r (State.run s u f) := by
  unfold State.run
  repeat' first | with_reducible assumption | with_reducible apply keeps_ite | with_reducible apply hf

theorem State.degrSync1_keeps {r : State} {s : State} (i : Fin 68) (hs : Keeps r s) : Keeps r (State.degrSync1 s i) := by
  unfold State.degrSync1
  repeat' first
    | with_reducible assumption | with_reducible apply keeps_ite | with_reducible apply State.setFlag_keeps
    | with_reducible apply State.raiseBit_keeps | split

theorem State.setStale_keeps {r : State} {s : State} (i : Fin 68) (on : Bool) (hs : Keeps r s) : Keeps r (State.setStale s i on) := by
  unfold State.setStale
  repeat' first | with_reducible assumption | with_reducible apply State.setLink_keeps | with_reducible apply State.setFlag_keeps | split

theorem State.recalStale_keeps {r : State} {s : State} (i : Fin 68) (hs : Keeps r s) : Keeps r (State.recalStale s i) := by
  unfold State.recalStale
  repeat' first
    | with_reducible assumption | with_reducible apply keeps_ite | with_reducible apply State.degrSync1_keeps
    | with_reducible apply State.setStale_keeps

theorem execRecalStale_keeps {r : State} (i : Fin 68) {s : State} (hs : Keeps r s) : ∃ t, execRecalStale i s = .next t ∧ Keeps r t := by
  unfold execRecalStale
  repeat' first
    | with_reducible assumption | with_reducible apply State.run_keeps | with_reducible apply State.recalStale_keeps
    | (with_reducible refine ⟨_, rfl, ?_⟩) | intro x

theorem State.maskCommit_keeps {r : State} {s : State} (p : Fin 64) (v : Word) (hs : Keeps r s) : Keeps r (State.maskCommit s p v) := by
  unfold State.maskCommit
  repeat' first
    | with_reducible assumption | with_reducible apply keeps_ite | with_reducible apply State.lchEvt_keeps
    | with_reducible apply State.setFlag_keeps

theorem State.launchAgain_keeps {r : State} {s : State} (hs : Keeps r s) : Keeps r (State.launchAgain s) := by
  unfold State.launchAgain
  repeat' first | with_reducible assumption | (fail_if_no_progress with_reducible refine keeps_mk ?_ rfl rfl)

theorem State.wkrLoad_keeps {r : State} {s : State} (cons : Nat) (uses : List Nat) (k : Fin 32) (req : Option Master) (ctx : List Byte) (hs : Keeps r s) : Keeps r (State.wkrLoad s cons uses k req ctx).2 := by
  unfold State.wkrLoad
  repeat' first
    | with_reducible assumption | with_reducible apply keeps_ite2 | with_reducible apply keeps_ite3
    | with_reducible apply State.slotCheck1_keeps | with_reducible apply State.raise_keeps | with_reducible apply State.set_keeps
    | with_reducible apply State.secEvt_keeps | with_reducible apply State.bump_keeps | split

theorem State.mbAuthFail_keeps {r : State} {s : State} (hs : Keeps r s) : Keeps r (State.mbAuthFail s) := by
  unfold State.mbAuthFail
  repeat' first
    | with_reducible assumption | with_reducible apply keeps_ite | with_reducible apply State.raise_keeps
    | with_reducible apply State.setFlag_keeps | (fail_if_no_progress with_reducible refine keeps_mk ?_ rfl rfl)

theorem State.mbChecks_keeps {r : State} {s : State} (b : Fin 4) (hs : Keeps r s) : Keeps r (State.mbChecks s b).2 := by
  unfold State.mbChecks
  repeat' first
    | with_reducible assumption | with_reducible apply State.wkrLoad_keeps | with_reducible apply State.mbAuthFail_keeps
    | lift_lets -underBinder | intro x | with_reducible refine keeps_snd ‹_› ?_
    | (fail_if_no_progress with_reducible refine keeps_mk ?_ rfl rfl) | split

theorem State.setMbState_keeps {r : State} {s : State} (b : Fin 4) (v : Nat) (hs : Keeps r s) : Keeps r (State.setMbState s b v) := by
  unfold State.setMbState
  repeat' first | with_reducible assumption | with_reducible apply State.set_keeps

theorem State.kinPut_keeps {r : State} {s : State} (typ : Nat) (lc : Time) (bytes : List Byte) (hs : Keeps r s) : Keeps r (State.kinPut s typ lc bytes).2 := by
  unfold State.kinPut
  repeat' first
    | with_reducible assumption | with_reducible apply State.bump_keeps | with_reducible apply State.set_keeps
    | with_reducible apply State.event_keeps | lift_lets -underBinder | intro x
    | (fail_if_no_progress with_reducible refine keeps_mk ?_ rfl rfl) | split

theorem State.kinNote_keeps {r : State} {s : State} (typ : Nat) (hs : Keeps r s) : Keeps r (State.kinNote s typ) := by
  unfold State.kinNote
  repeat' first | with_reducible assumption | with_reducible apply State.kinPut_keeps | with_reducible apply State.drawn_keeps

theorem State.mbStamp_keeps {r : State} {s : State} (b : Fin 4) (hs : Keeps r s) : Keeps r (State.mbStamp s b) := by
  unfold State.mbStamp
  repeat' first | with_reducible assumption | (fail_if_no_progress with_reducible refine keeps_mk ?_ rfl rfl)

theorem State.mbFinish_keeps {r : State} {s : State} (b : Fin 4) (code : Nat) (resp : List Byte) (hs : Keeps r s) : Keeps r (State.mbFinish s b code resp) := by
  unfold State.mbFinish
  repeat' first
    | with_reducible assumption | with_reducible apply keeps_ite | with_reducible apply State.setWord_keeps
    | with_reducible apply State.setWordsN_keeps | with_reducible apply State.obs_keeps | with_reducible apply State.kinNote_keeps
    | with_reducible apply State.mbStamp_keeps | with_reducible apply State.setMbState_keeps | with_reducible apply State.irq_keeps
    | (fail_if_no_progress with_reducible refine keeps_mk ?_ rfl rfl)

theorem State.mbRun_keeps {r : State} {s : State} (p : Nat → Bool) {f : MbCmd → State → Nat × List Byte × State} (kspiOk : optParam Bool true) (hs : Keeps r s) (hf : (∀ s, Keeps r s → ∀ y0, Keeps r (f y0 s).2.2)) : Keeps r (State.mbRun s p f kspiOk) := by
  unfold State.mbRun
  repeat' first
    | with_reducible assumption | with_reducible apply keeps_ite | with_reducible apply hf | with_reducible apply State.mbChecks_keeps
    | with_reducible apply State.setMbState_keeps | with_reducible apply State.mbFinish_keeps | with_reducible refine keeps_snd ‹_› ?_
    | split

theorem State.cmdStatus_keeps {r : State} (y1 : MbCmd) {s : State} (hs : Keeps r s) : Keeps r (State.cmdStatus y1 s).2.2 := by
  unfold State.cmdStatus
  repeat' first | with_reducible assumption

theorem execMbxStatus_keeps {r : State} {s : State} (hs : Keeps r s) : ∃ t, execMbxStatus s = .next t ∧ Keeps r t := by
  unfold execMbxStatus
  repeat' first
    | with_reducible assumption | with_reducible apply State.mbRun_keeps | with_reducible apply State.cmdStatus_keeps
    | (with_reducible refine ⟨_, rfl, ?_⟩) | intro x

theorem State.kumAuth_keeps {r : State} {s : State} (hs : Keeps r s) : Keeps r (State.kumAuth s) := by
  unfold State.kumAuth
  repeat' first
    | with_reducible assumption | with_reducible apply keeps_ite | with_reducible apply State.raise_keeps
    | with_reducible apply State.setFlag_keeps | (fail_if_no_progress with_reducible refine keeps_mk ?_ rfl rfl)

theorem State.kumFail_keeps {r : State} {s : State} (result : Nat) (hs : Keeps r s) : Keeps r (State.kumFail s result) := by
  unfold State.kumFail
  repeat' first
    | with_reducible assumption | with_reducible apply keeps_ite | with_reducible apply State.secEvt_keeps
    | with_reducible apply State.bump_keeps | with_reducible apply State.set_keeps | with_reducible apply State.kumAuth_keeps

theorem State.sealBroken_keeps {r : State} {s : State} (v : Nat) (hs : Keeps r s) : Keeps r (State.sealBroken s v) := by
  unfold State.sealBroken
  repeat' first
    | with_reducible assumption | with_reducible apply keeps_ite | with_reducible apply State.set_keeps
    | (fail_if_no_progress with_reducible refine keeps_mk ?_ rfl rfl)

theorem State.record_keeps {r : State} {s : State} (typ : Nat) (keySlot : Nat) (rt : Time) (detail : List Byte) (hs : Keeps r s) : Keeps r (State.record s typ keySlot rt detail) := by
  unfold State.record
  repeat' first | with_reducible assumption | with_reducible apply State.syncAuditFull_keeps | with_reducible apply State.logEvent_keeps

theorem State.recordFree_keeps {r : State} {s : State} (typ : Nat) (hs : Keeps r s) : Keeps r (State.recordFree s typ) := by
  unfold State.recordFree
  repeat' first | with_reducible assumption | with_reducible apply State.record_keeps | with_reducible apply State.drawn_keeps

theorem State.syncKeys_keeps {r : State} {s : State} (hs : Keeps r s) : Keeps r (State.syncKeys s) := by
  unfold State.syncKeys
  repeat' first
    | with_reducible assumption | with_reducible apply keeps_ite | with_reducible apply State.raiseBit_keeps
    | with_reducible apply State.clearBit_keeps | with_reducible apply State.setFlag_keeps

theorem State.clearKeys_keeps {r : State} {s : State} (p : Nat → Bool) (hs : Keeps r s) : Keeps r (State.clearKeys s p) := by
  unfold State.clearKeys
  repeat' first
    | with_reducible assumption | with_reducible apply State.syncKeys_keeps | (fail_if_no_progress with_reducible refine keeps_mk ?_ rfl rfl)

theorem State.breach_keeps {r : State} {s : State} (hs : Keeps r s) : KeepsO r (State.breach s) := by
  unfold State.breach
  repeat' first
    | with_reducible exact keepsO_none | with_reducible apply keepsO_some | with_reducible apply keepsO_ite | with_reducible assumption
    | with_reducible apply keeps_ite | with_reducible apply State.bumpW_keeps | with_reducible apply State.sealBroken_keeps
    | with_reducible apply State.leashWiden_keeps | with_reducible apply State.recordFree_keeps | with_reducible apply State.clearKeys_keeps

theorem State.slotPut_keeps {r : State} {s : State} (k : Fin 32) (value : Digest) (attr : Word) (hs : Keeps r s) : Keeps r (State.slotPut s k value attr) := by
  unfold State.slotPut
  repeat' first
    | with_reducible assumption | with_reducible apply keeps_ite | with_reducible apply State.clearBit_keeps
    | with_reducible apply State.raiseBit_keeps | with_reducible apply State.set_keeps
    | (fail_if_no_progress with_reducible refine keeps_mk ?_ rfl rfl)

theorem State.dbgOpen_keeps {r : State} {s : State} (level : Nat) (duration : Nat) (hs : Keeps r s) : Keeps r (State.dbgOpen s level duration) := by
  unfold State.dbgOpen
  repeat' first
    | with_reducible assumption | with_reducible apply State.secEvt_keeps | with_reducible apply State.set_keeps
    | with_reducible apply State.raise_keeps | with_reducible apply State.syncWorlds_keeps
    | (fail_if_no_progress with_reducible refine keeps_mk ?_ rfl rfl)

theorem State.runClear_keeps {r : State} {s : State} (n : Fin 12) (hs : Keeps r s) : Keeps r (State.runClear s n) := by
  unfold State.runClear
  repeat' first
    | with_reducible assumption | with_reducible apply keeps_ite | with_reducible apply State.setFlag_keeps
    | with_reducible apply State.setEng_keeps | with_reducible apply State.set_keeps

theorem State.retire_keeps {r : State} {s : State} (hs : Keeps r s) : Keeps r (State.retire s) := by
  unfold State.retire
  repeat' first
    | with_reducible assumption | with_reducible apply State.forN_keeps | with_reducible apply State.set_keeps
    | with_reducible apply State.dbgClose_keeps | with_reducible apply State.clearKeys_keeps | with_reducible apply State.secEvt_keeps
    | with_reducible apply State.sealBroken_keeps | with_reducible apply State.runClear_keeps | with_reducible apply State.leashWiden_keeps
    | with_reducible apply State.syncWorlds_keeps | with_reducible apply keeps_foldl | intro x
    | (fail_if_no_progress with_reducible refine keeps_mk ?_ rfl rfl)

theorem State.kumAct_keeps {r : State} {s : State} (k : List Byte) (pt : List Byte) (hs : Keeps r s) : Keeps r (State.kumAct s k pt) := by
  unfold State.kumAct
  repeat' first
    | with_reducible assumption | with_reducible apply State.set_keeps | with_reducible apply State.when__keeps
    | with_reducible apply State.slotPut_keeps | with_reducible apply State.setFlag_keeps | with_reducible apply State.dbgOpen_keeps
    | with_reducible apply State.retire_keeps | with_reducible apply State.raise_keeps | with_reducible apply State.secEvt_keeps
    | with_reducible apply State.bump_keeps | intro x | split

theorem State.kumGo_keeps {r : State} {s : State} (hs : Keeps r s) : Keeps r (State.kumGo s) := by
  unfold State.kumGo
  repeat' first
    | with_reducible assumption | with_reducible apply State.kumFail_keeps | with_reducible apply State.wkrLoad_keeps
    | with_reducible apply State.kumAct_keeps | lift_lets -underBinder | intro x | with_reducible refine keeps_snd ‹_› ?_
    | with_reducible refine keeps_some ‹_› (State.breach_keeps ?_) | split

theorem State.kumOf_keeps {r : State} {s : State} (m : Master) (p : Nat → Bool) (hs : Keeps r s) : Keeps r (State.kumOf s m p) := by
  unfold State.kumOf
  repeat' first | with_reducible assumption | with_reducible apply State.when__keeps | with_reducible apply State.kumGo_keeps

theorem execKumDebugToken_keeps {r : State} (m : Master) {s : State} (hs : Keeps r s) : ∃ t, execKumDebugToken m s = .next t ∧ Keeps r t := by
  unfold execKumDebugToken
  repeat' first | with_reducible assumption | with_reducible apply State.kumOf_keeps | (with_reducible refine ⟨_, rfl, ?_⟩)

theorem State.replyErr_keeps {r : State} {s : State} (hs : Keeps r s) : Keeps r (State.replyErr s) := by
  unfold State.replyErr
  repeat' first | with_reducible assumption | (fail_if_no_progress with_reducible refine keeps_mk ?_ rfl rfl)

theorem State.unmappedAt_keeps {r : State} {s : State} (hs : Keeps r s) : Keeps r (State.unmappedAt s) := by
  unfold State.unmappedAt
  repeat' first
    | with_reducible assumption | with_reducible apply State.raise_keeps | with_reducible apply State.raiseBit_keeps
    | with_reducible apply State.bump_keeps

theorem State.imemOpen_keeps {r : State} {s : State} (n : Fin 12) {f : State → State} (hs : Keeps r s) (hf : (∀ s, Keeps r s → Keeps r (f s))) : Keeps r (State.imemOpen s n f) := by
  unfold State.imemOpen
  repeat' first
    | with_reducible assumption | with_reducible apply keeps_ite | with_reducible apply hf | with_reducible apply State.setFlag_keeps
    | with_reducible apply State.raiseBit_keeps

theorem State.engMemWrite_keeps {r : State} {s : State} (n : Fin 12) (dmem : Bool) (cell : Nat) (v : Word) (hs : Keeps r s) : Keeps r (State.engMemWrite s n dmem cell v) := by
  unfold State.engMemWrite
  repeat' first
    | with_reducible assumption | with_reducible apply keeps_ite | with_reducible apply State.setBytes_keeps
    | with_reducible apply State.imemOpen_keeps | intro x

theorem State.roWrite_keeps {r : State} {s : State} (hs : Keeps r s) : Keeps r (State.roWrite s) := by
  unfold State.roWrite
  repeat' first
    | with_reducible assumption | with_reducible apply State.raise_keeps | with_reducible apply State.raiseBit_keeps
    | with_reducible apply State.bump_keeps

theorem State.irqFollow_keeps {r : State} {s : State} {before : State} (hs : Keeps r s) (hbefore : Keeps r before) : Keeps r (State.irqFollow s before) := by
  unfold State.irqFollow
  repeat' first | with_reducible assumption | with_reducible apply State.irqEdge_keeps | with_reducible apply keeps_foldl | intro x

theorem State.modeFix_keeps {r : State} {s : State} (a : Nat) (v : Word) (hs : Keeps r s) : Keeps r (State.modeFix s a v).1 := by
  unfold State.modeFix
  split
  · split
    · exact State.raise_keeps _ _ _ (State.raiseBit_keeps _ _ _ hs)
    · exact hs
  · exact hs

theorem State.enableWrite_keeps {r : State} {s : State} (u : Nat) (a : Nat) (w : Word) (hs : Keeps r s) : Keeps r (State.enableWrite s u a w).2 := by
  unfold State.enableWrite
  repeat' first
    | with_reducible assumption | with_reducible apply keeps_ite | with_reducible apply State.syncGate_keeps
    | with_reducible apply State.gateLast_keeps | with_reducible apply State.ungateReq_keeps
    | (fail_if_no_progress with_reducible refine keeps_mk ?_ rfl rfl) | split

theorem State.clkEvt_keeps {r : State} {s : State} (b : Nat) (hs : Keeps r s) : Keeps r (State.clkEvt s b) := by
  unfold State.clkEvt
  repeat' first | with_reducible assumption | with_reducible apply State.raiseBit_keeps

theorem State.syncSw_keeps {r : State} {s : State} (hs : Keeps r s) : Keeps r (State.syncSw s) := by
  unfold State.syncSw
  repeat' first | with_reducible assumption | with_reducible apply State.setFlag_keeps

theorem State.rootTo_keeps {r : State} {s : State} (src : Nat) (hs : Keeps r s) : Keeps r (State.rootTo s src) := by
  unfold State.rootTo
  repeat' first
    | with_reducible assumption | with_reducible apply State.syncSw_keeps | (fail_if_no_progress with_reducible refine keeps_mk ?_ rfl rfl)

theorem State.rootSel_keeps {r : State} {s : State} (v : Word) (hs : Keeps r s) : Keeps r (State.rootSel s v) := by
  unfold State.rootSel
  repeat' first
    | with_reducible assumption | with_reducible apply keeps_ite | with_reducible apply State.clkEvt_keeps
    | with_reducible apply State.rootTo_keeps | with_reducible apply State.set_keeps

theorem State.dozeEn_keeps {r : State} {s : State} (v : Word) (hs : Keeps r s) : Keeps r (State.dozeEn s v) := by
  unfold State.dozeEn
  repeat' first
    | with_reducible assumption | with_reducible apply keeps_ite | with_reducible apply State.set_keeps
    | with_reducible apply State.ungateReq_keeps | with_reducible apply keeps_foldl | intro x
    | (fail_if_no_progress with_reducible refine keeps_mk ?_ rfl rfl)

theorem State.deepReq_keeps {r : State} {s : State} (v : Word) (hs : Keeps r s) : Keeps r (State.deepReq s v) := by
  unfold State.deepReq
  repeat' first
    | with_reducible assumption | with_reducible apply keeps_ite | with_reducible apply State.set_keeps
    | with_reducible apply State.saveStart_keeps | (fail_if_no_progress with_reducible refine keeps_mk ?_ rfl rfl)

theorem State.gateReq_keeps {r : State} {s : State} (u : Nat) (auto : Bool) (hs : Keeps r s) : Keeps r (State.gateReq s u auto) := by
  unfold State.gateReq
  repeat' first
    | with_reducible assumption | with_reducible apply keeps_ite | with_reducible apply State.gateLast_keeps
    | with_reducible apply State.syncGate_keeps | (fail_if_no_progress with_reducible refine keeps_mk ?_ rfl rfl)

theorem State.feDown_keeps {r : State} {s : State} (hs : Keeps r s) : Keeps r (State.feDown s) := by
  unfold State.feDown
  repeat' first | with_reducible assumption | with_reducible apply keeps_ite | with_reducible apply State.setGns_keeps

theorem State.burstDrop_keeps {r : State} {s : State} (hs : Keeps r s) : Keeps r (State.burstDrop s) := by
  unfold State.burstDrop
  repeat' first
    | with_reducible assumption | with_reducible apply keeps_ite | with_reducible apply State.setGns_keeps
    | with_reducible apply State.obs_keeps | with_reducible apply State.bump_keeps | with_reducible apply State.feDown_keeps
    | with_reducible apply State.setFlag_keeps | with_reducible apply State.idleNow_keeps

theorem State.forceCut_keeps {r : State} {s : State} (u : Nat) (hs : Keeps r s) : Keeps r (State.forceCut s u) := by
  unfold State.forceCut
  repeat' first
    | with_reducible assumption | with_reducible apply State.mtxErr_keeps | with_reducible apply State.raise_keeps
    | with_reducible apply State.raiseBit_keeps | with_reducible apply State.bump_keeps | with_reducible apply keeps_foldl | intro x
    | (fail_if_no_progress with_reducible refine keeps_mk ?_ rfl rfl) | split

theorem State.forceReq_keeps {r : State} {s : State} (u : Nat) (hs : Keeps r s) : Keeps r (State.forceReq s u) := by
  unfold State.forceReq
  repeat' first
    | with_reducible assumption | with_reducible apply keeps_ite | with_reducible apply State.gateLast_keeps
    | with_reducible apply State.burstDrop_keeps | with_reducible apply State.forceCut_keeps | with_reducible apply State.raiseBit_keeps
    | with_reducible apply State.bump_keeps

theorem State.unitReset_keeps {r : State} {s : State} (u : Nat) (hs : Keeps r s) : Keeps r (State.unitReset s u) := by
  unfold State.unitReset
  repeat' first
    | with_reducible assumption | with_reducible apply State.gateLast_keeps | with_reducible apply State.blockReset_keeps
    | with_reducible apply State.clearBit_keeps | split

theorem State.gateCmd_keeps {r : State} {s : State} (v : Word) (hs : Keeps r s) : Keeps r (State.gateCmd s v) := by
  unfold State.gateCmd
  repeat' first
    | with_reducible assumption | with_reducible apply keeps_ite | with_reducible apply State.gateReq_keeps
    | with_reducible apply State.ungateReq_keeps | with_reducible apply State.forceReq_keeps | with_reducible apply State.unitReset_keeps

theorem State.dbgReq_keeps {r : State} {s : State} (op : Nat) (hs : Keeps r s) : Keeps r (State.dbgReq s op) := by
  unfold State.dbgReq
  repeat' first
    | with_reducible assumption | with_reducible apply keeps_ite | with_reducible apply State.set_keeps
    | with_reducible apply State.dbgClose_keeps | with_reducible apply State.dbgOpen_keeps
    | with_reducible refine keeps_some ‹_› (State.breach_keeps ?_) | split

theorem State.hostExtend_keeps {r : State} {s : State} (hs : Keeps r s) : Keeps r (State.hostExtend s) := by
  unfold State.hostExtend
  repeat' first | with_reducible assumption | with_reducible apply State.set_keeps

theorem State.fltRaise_keeps {r : State} {s : State} (m : Master) (v : Word) (hs : Keeps r s) : Keeps r (State.fltRaise s m v) := by
  unfold State.fltRaise
  repeat' first | with_reducible assumption | with_reducible apply State.raise_keeps

theorem State.setGuard_keeps {r : State} {s : State} (g : Nat) (hs : Keeps r s) : Keeps r (State.setGuard s g) := by
  unfold State.setGuard
  repeat' first
    | with_reducible assumption | with_reducible apply keeps_ite | with_reducible apply State.syncFlt_keeps
    | with_reducible apply State.set_keeps | (fail_if_no_progress with_reducible refine keeps_mk ?_ rfl rfl)

theorem State.loadDone_keeps {r : State} {s : State} (n : Fin 12) (hs : Keeps r s) : Keeps r (State.loadDone s n) := by
  unfold State.loadDone
  repeat' first
    | with_reducible assumption | with_reducible apply keeps_ite | with_reducible apply State.set_keeps
    | with_reducible apply State.raiseBit_keeps

theorem State.guardReload_keeps {r : State} {s : State} (hs : Keeps r s) : Keeps r (State.guardReload s) := by
  unfold State.guardReload
  repeat' first
    | with_reducible assumption | with_reducible apply State.bump_keeps | with_reducible apply State.setGuard_keeps
    | with_reducible apply State.engineBlockReset_keeps | with_reducible apply State.setFlag_keeps
    | with_reducible apply State.loadBodies_keeps | with_reducible apply State.setEng_keeps | with_reducible apply State.loadDone_keeps

theorem State.guardRestart_keeps {r : State} {s : State} (hs : Keeps r s) : Keeps r (State.guardRestart s) := by
  unfold State.guardRestart
  repeat' first
    | with_reducible assumption | with_reducible apply keeps_ite | with_reducible apply State.set_keeps
    | with_reducible apply State.guardReload_keeps | with_reducible apply State.levelOff_keeps
    | (fail_if_no_progress with_reducible refine keeps_mk ?_ rfl rfl)

theorem State.fltClear_keeps {r : State} {s : State} (m : Master) (w : Nat) (v : Word) (hs : Keeps r s) : Keeps r (State.fltClear s m w v) := by
  unfold State.fltClear
  repeat' first
    | with_reducible assumption | with_reducible apply keeps_ite | with_reducible apply State.clearBit_keeps
    | with_reducible apply State.syncFlt_keeps | with_reducible apply keeps_foldl | intro x

theorem State.fltReact_keeps {r : State} {s : State} (k : Nat) (v : Word) (hs : Keeps r s) : Keeps r (State.fltReact s k v) := by
  unfold State.fltReact
  repeat' first | with_reducible assumption | with_reducible apply State.syncFlt_keeps | with_reducible apply State.set_keeps

theorem State.irqClear_keeps {r : State} {s : State} (w : Nat) (v : Word) (hs : Keeps r s) : Keeps r (State.irqClear s w v) := by
  unfold State.irqClear
  repeat' first
    | with_reducible assumption | with_reducible apply keeps_ite | with_reducible apply State.set_keeps
    | with_reducible apply State.irq_keeps | with_reducible apply keeps_foldl | intro x

theorem State.hDbell_keeps {r : State} {s : State} (v : Word) (hs : Keeps r s) : Keeps r (State.hDbell s v) := by
  unfold State.hDbell
  repeat' first | with_reducible assumption | with_reducible apply State.set_keeps | with_reducible apply State.irqEdge_keeps

theorem State.obsRing_keeps {r : State} {s : State} (win : Fld) (wr : Fld) (rd : Fld) (n : Nat) (size : Nat) (idx : Nat) (bytes : List Byte) (hs : Keeps r s) : KeepsO r (State.obsRing s win wr rd n size idx bytes) := by
  unfold State.obsRing
  repeat' first
    | with_reducible exact keepsO_none | with_reducible apply keepsO_some | with_reducible apply keepsO_ite | with_reducible assumption
    | with_reducible apply State.bumpW_keeps | with_reducible apply State.setWordsN_keeps

theorem State.obsReady_keeps {r : State} {s : State} (wr : Fld) (rd : Fld) (thr : Fld) (b : Nat) (hs : Keeps r s) : Keeps r (State.obsReady s wr rd thr b) := by
  unfold State.obsReady
  repeat' first | with_reducible assumption | with_reducible apply keeps_ite | with_reducible apply State.raiseBit_keeps

theorem State.snapshot_keeps {r : State} {s : State} (cause : Nat) (hs : Keeps r s) : Keeps r (State.snapshot s cause) := by
  unfold State.snapshot
  repeat' first
    | with_reducible assumption | with_reducible apply State.obsReady_keeps | with_reducible apply State.raiseBit_keeps
    | with_reducible apply State.bump_keeps | lift_lets -underBinder | intro x
    | with_reducible refine keeps_some ‹_› (State.obsRing_keeps _ _ _ _ _ _ _ ?_)
    | (fail_if_no_progress with_reducible refine keeps_mk ?_ rfl rfl) | split

theorem State.snapWrite_keeps {r : State} {s : State} (hs : Keeps r s) : Keeps r (State.snapWrite s) := by
  unfold State.snapWrite
  repeat' first
    | with_reducible assumption | with_reducible apply State.setWord_keeps | with_reducible apply State.snapshot_keeps
    | (fail_if_no_progress with_reducible refine keeps_mk ?_ rfl rfl) | split

theorem State.setFch_keeps {r : State} {s : State} (c : Fin 16) (y3 : FchCh) (hs : Keeps r s) : Keeps r (State.setFch s c y3) := by
  unfold State.setFch
  repeat' first | with_reducible assumption | (fail_if_no_progress with_reducible refine keeps_mk ?_ rfl rfl)

theorem State.chObs_keeps {r : State} {s : State} (c : Fin 16) (e : Nat) (hs : Keeps r s) : Keeps r (State.chObs s c e) := by
  unfold State.chObs
  repeat' first | with_reducible assumption | with_reducible apply State.obs_keeps

theorem State.chShow_keeps {r : State} {s : State} (c : Fin 16) (status : Nat) (tag : Nat) (dcnt : Nat) (resid : Nat) (dcrc : Nat) (cur : Nat) (hs : Keeps r s) : Keeps r (State.chShow s c status tag dcnt resid dcrc cur) := by
  unfold State.chShow
  repeat' first
    | with_reducible assumption | with_reducible apply State.set_keeps | with_reducible apply State.chObs_keeps
    | with_reducible apply State.bumpW_keeps

theorem State.tlpOut_keeps {r : State} {s : State} (c : Fin 16) (y3 : HostTlp) (hs : Keeps r s) : Keeps r (State.tlpOut s c y3) := by
  unfold State.tlpOut
  repeat' first | with_reducible assumption | with_reducible apply State.chObs_keeps | (fail_if_no_progress with_reducible refine keeps_mk ?_ rfl rfl)

theorem State.chFinish_keeps {r : State} {s : State} (c : Fin 16) (status : Nat) (cur : Nat) (hs : Keeps r s) : Keeps r (State.chFinish s c status cur) := by
  unfold State.chFinish
  repeat' first
    | with_reducible assumption | with_reducible apply keeps_ite | with_reducible apply State.chShow_keeps
    | with_reducible apply State.setFch_keeps | with_reducible apply State.raiseBit_keeps | with_reducible apply State.tlpOut_keeps | split

theorem State.setChState_keeps {r : State} {s : State} (c : Fin 16) (st : Nat) (hs : Keeps r s) : Keeps r (State.setChState s c st) := by
  unfold State.setChState
  repeat' first
    | with_reducible assumption | with_reducible apply keeps_ite | with_reducible apply State.set_keeps
    | with_reducible apply State.clearBit_keeps

theorem State.chFetch_keeps {r : State} {s : State} (c : Fin 16) (addr : Nat) (hs : Keeps r s) : Keeps r (State.chFetch s c addr) := by
  unfold State.chFetch
  repeat' first | with_reducible assumption | with_reducible apply State.chObs_keeps | with_reducible apply State.setFch_keeps

theorem State.chBegin_keeps {r : State} {s : State} (c : Fin 16) (hs : Keeps r s) : Keeps r (State.chBegin s c) := by
  unfold State.chBegin
  repeat' first
    | with_reducible assumption | with_reducible apply State.setChState_keeps | with_reducible apply State.setFch_keeps
    | with_reducible apply State.chFinish_keeps | with_reducible apply State.chFetch_keeps | lift_lets -underBinder | intro x | split

theorem State.chEnd_keeps {r : State} {s : State} (c : Fin 16) (status : Nat) (cur : Nat) (hs : Keeps r s) : Keeps r (State.chEnd s c status cur) := by
  unfold State.chEnd
  repeat' first
    | with_reducible assumption | with_reducible apply keeps_ite | with_reducible apply State.chFinish_keeps
    | with_reducible apply State.chBegin_keeps | with_reducible apply State.setChState_keeps

theorem State.chAbort_keeps {r : State} {s : State} (c : Fin 16) (hs : Keeps r s) : Keeps r (State.chAbort s c) := by
  unfold State.chAbort
  repeat' first
    | with_reducible assumption | with_reducible apply keeps_ite | with_reducible apply State.setFch_keeps
    | with_reducible apply State.chEnd_keeps

theorem State.chFlush_keeps {r : State} {s : State} (c : Fin 16) (hs : Keeps r s) : Keeps r (State.chFlush s c) := by
  unfold State.chFlush
  repeat' first
    | with_reducible assumption | with_reducible apply keeps_ite | with_reducible apply State.setChState_keeps
    | with_reducible apply State.setFch_keeps

theorem State.chClear_keeps {r : State} {s : State} (c : Fin 16) (hs : Keeps r s) : Keeps r (State.chClear s c) := by
  unfold State.chClear
  repeat' first | with_reducible assumption | with_reducible apply keeps_ite | with_reducible apply State.chBegin_keeps

theorem State.preHost_keeps {r : State} {s : State} (m : Master) (a : Nat) (v : Word) (hs : Keeps r s) : KeepsO r (State.preHost s m a v) := by
  unfold State.preHost
  repeat' first
    | with_reducible exact keepsO_none | with_reducible apply keepsO_some | with_reducible apply keepsO_ite | with_reducible assumption
    | with_reducible apply State.rootSel_keeps | with_reducible apply State.dozeEn_keeps | with_reducible apply State.deepReq_keeps
    | with_reducible apply State.chipResetChecked_keeps | with_reducible apply State.gateCmd_keeps | with_reducible apply State.dbgReq_keeps
    | with_reducible apply State.hostExtend_keeps | with_reducible apply State.kumGo_keeps | with_reducible apply State.fltRaise_keeps
    | with_reducible apply State.guardRestart_keeps | with_reducible apply State.fltClear_keeps | with_reducible apply State.fltReact_keeps
    | with_reducible apply State.irqClear_keeps | with_reducible apply State.hDbell_keeps | with_reducible apply State.snapWrite_keeps
    | with_reducible apply State.chAbort_keeps | with_reducible apply State.chFlush_keeps | with_reducible apply State.chClear_keeps | split
    | (fail_if_no_progress with_reducible refine keeps_mk ?_ rfl rfl)

theorem State.mbGo_keeps {r : State} {s : State} (m : Master) (v : Word) (hs : Keeps r s) : Keeps r (State.mbGo s m v) := by
  unfold State.mbGo
  repeat' first
    | with_reducible assumption | with_reducible apply keeps_ite | with_reducible apply State.setMbState_keeps
    | (fail_if_no_progress with_reducible refine keeps_mk ?_ rfl rfl)

theorem State.setMbOwner_keeps {r : State} {s : State} (b : Fin 4) (m : Option Master) (hs : Keeps r s) : Keeps r (State.setMbOwner s b m) := by
  unfold State.setMbOwner
  repeat' first | with_reducible assumption | (fail_if_no_progress with_reducible refine keeps_mk ?_ rfl rfl)

theorem State.mbFree_keeps {r : State} {s : State} (b : Fin 4) (hs : Keeps r s) : Keeps r (State.mbFree s b) := by
  unfold State.mbFree
  repeat' first | with_reducible assumption | with_reducible apply State.setMbOwner_keeps | with_reducible apply State.setMbState_keeps

theorem State.mbRel_keeps {r : State} {s : State} (m : Master) (v : Word) (hs : Keeps r s) : Keeps r (State.mbRel s m v) := by
  unfold State.mbRel
  repeat' first | with_reducible assumption | with_reducible apply keeps_ite | with_reducible apply State.mbFree_keeps

theorem State.mbWrite_keeps {r : State} {s : State} (m : Master) (a : Nat) (v : Word) (hs : Keeps r s) : Keeps r (State.mbWrite s m a v) := by
  unfold State.mbWrite
  repeat' first | with_reducible assumption | with_reducible apply keeps_ite | with_reducible apply State.setWord_keeps | split

theorem State.synEvt_keeps {r : State} {s : State} (b : Nat) (hs : Keeps r s) : Keeps r (State.synEvt s b) := by
  unfold State.synEvt
  repeat' first | with_reducible assumption | with_reducible apply State.raiseBit_keeps

theorem State.setPll_keeps {r : State} {s : State} (k : Fin 4) (p : SynPll) (hs : Keeps r s) : Keeps r (State.setPll s k p) := by
  unfold State.setPll
  repeat' first | with_reducible assumption | (fail_if_no_progress with_reducible refine keeps_mk ?_ rfl rfl)

theorem State.synCommit_keeps {r : State} {s : State} (k : Fin 4) (v : Word) (hs : Keeps r s) : Keeps r (State.synCommit s k v) := by
  unfold State.synCommit
  repeat' first
    | with_reducible assumption | with_reducible apply keeps_ite | with_reducible apply State.synEvt_keeps
    | with_reducible apply State.set_keeps | with_reducible apply State.raiseBit_keeps | with_reducible apply State.setPll_keeps

theorem State.outEnable_keeps {r : State} {s : State} (j : Fin 16) (v : Word) (hs : Keeps r s) : Keeps r (State.outEnable s j v) := by
  unfold State.outEnable
  repeat' first
    | with_reducible assumption | with_reducible apply keeps_ite | with_reducible apply State.setFlag_keeps
    | with_reducible apply State.set_keeps

theorem State.gateSet_keeps {r : State} {s : State} (n : Fin 12) (on : Bool) (hs : Keeps r s) : Keeps r (State.gateSet s n on) := by
  unfold State.gateSet
  repeat' first
    | with_reducible assumption | with_reducible apply keeps_ite | with_reducible apply State.set_keeps
    | with_reducible apply State.setFlag_keeps | with_reducible apply State.setEng_keeps

theorem State.startAt_keeps {r : State} {s : State} (n : Fin 12) (hs : Keeps r s) : Keeps r (State.startAt s n) := by
  unfold State.startAt
  repeat' first
    | with_reducible assumption | with_reducible apply keeps_ite | with_reducible apply State.setEng_keeps
    | with_reducible apply State.set_keeps | with_reducible apply State.takeNmi_keeps

theorem State.runSet_keeps {r : State} {s : State} (n : Fin 12) (hs : Keeps r s) : Keeps r (State.runSet s n) := by
  unfold State.runSet
  repeat' first
    | with_reducible assumption | with_reducible apply keeps_ite | with_reducible apply State.raiseBit_keeps
    | with_reducible apply State.setFlag_keeps | with_reducible apply State.startAt_keeps | with_reducible apply State.setGuard_keeps

theorem State.runOff_keeps {r : State} {s : State} (n : Fin 12) (host : Bool) (hs : Keeps r s) : Keeps r (State.runOff s n host) := by
  unfold State.runOff
  repeat' first
    | with_reducible assumption | with_reducible apply keeps_ite | with_reducible apply State.runClear_keeps
    | with_reducible apply State.setGuard_keeps

theorem State.burstCut_keeps {r : State} {s : State} (m : Fin 16) (beats : Option Nat) (hs : Keeps r s) : Keeps r (State.burstCut s m beats) := by
  unfold State.burstCut
  repeat' first
    | with_reducible assumption | with_reducible apply State.setBytes_keeps | with_reducible apply State.raiseBit_keeps
    | with_reducible apply State.bump_keeps | split

theorem State.engCtrl_keeps {r : State} {s : State} (m : Master) (n : Fin 12) (v : Word) (beats : Option Nat) (hs : Keeps r s) : Keeps r (State.engCtrl s m n v beats) := by
  unfold State.engCtrl
  repeat' first
    | with_reducible assumption | with_reducible apply keeps_ite | with_reducible apply State.gateSet_keeps
    | with_reducible apply State.loadDone_keeps | with_reducible apply State.runSet_keeps | with_reducible apply State.runOff_keeps
    | with_reducible apply State.burstCut_keeps | with_reducible apply State.engineReset_keeps | split

theorem State.wdogSet_keeps {r : State} {s : State} (n : Fin 12) (v : Word) (hs : Keeps r s) : Keeps r (State.wdogSet s n v) := by
  unfold State.wdogSet
  repeat' first | with_reducible assumption | with_reducible apply State.set_keeps | with_reducible apply State.setEng_keeps

theorem State.heartbeat_keeps {r : State} {s : State} (n : Fin 12) (v : Word) (hs : Keeps r s) : Keeps r (State.heartbeat s n v) := by
  unfold State.heartbeat
  repeat' first
    | with_reducible assumption | with_reducible apply keeps_ite | with_reducible apply State.set_keeps
    | with_reducible apply State.setGuard_keeps | (fail_if_no_progress with_reducible refine keeps_mk ?_ rfl rfl)

theorem State.dbellSet_keeps {r : State} {s : State} (n : Fin 12) (v : Word) (hs : Keeps r s) : Keeps r (State.dbellSet s n v) := by
  unfold State.dbellSet
  repeat' first
    | with_reducible assumption | with_reducible apply keeps_ite | with_reducible apply State.event_keeps
    | with_reducible apply State.set_keeps

theorem State.preKnl_keeps {r : State} {s : State} (m : Master) (a : Nat) (v : Word) (hs : Keeps r s) : KeepsO r (State.preKnl s m a v) := by
  unfold State.preKnl
  repeat' first
    | with_reducible exact keepsO_none | with_reducible apply keepsO_some | with_reducible apply keepsO_ite | with_reducible assumption
    | with_reducible apply State.mbGo_keeps | with_reducible apply State.mbRel_keeps | with_reducible apply State.mbWrite_keeps
    | with_reducible apply State.synCommit_keeps | with_reducible apply State.outEnable_keeps | with_reducible apply State.engCtrl_keeps
    | with_reducible apply State.wdogSet_keeps | with_reducible apply State.heartbeat_keeps | with_reducible apply State.dbellSet_keeps
    | with_reducible apply State.imemOpen_keeps | with_reducible apply State.setWord_keeps | split | intro x

theorem State.srvEvt_keeps {r : State} {s : State} (b : Nat) (hs : Keeps r s) : Keeps r (State.srvEvt s b) := by
  unfold State.srvEvt
  repeat' first | with_reducible assumption | with_reducible apply State.raiseBit_keeps

theorem State.steerCommit_keeps {r : State} {s : State} (v : Word) (hs : Keeps r s) : Keeps r (State.steerCommit s v) := by
  unfold State.steerCommit
  repeat' first
    | with_reducible assumption | with_reducible apply keeps_ite | with_reducible apply State.srvEvt_keeps
    | with_reducible apply State.raiseBit_keeps

theorem State.ctCmd_keeps {r : State} {s : State} (v : Word) (hs : Keeps r s) : Keeps r (State.ctCmd s v) := by
  unfold State.ctCmd
  repeat' first
    | with_reducible assumption | with_reducible apply keeps_ite | with_reducible apply State.setFlag_keeps
    | with_reducible apply State.setSrv_keeps

theorem State.mintCmd_keeps {r : State} {s : State} (v : Word) (hs : Keeps r s) : Keeps r (State.mintCmd s v) := by
  unfold State.mintCmd
  repeat' first
    | with_reducible assumption | with_reducible apply keeps_ite | with_reducible apply State.srvEvt_keeps
    | with_reducible apply State.set_keeps | with_reducible apply State.setFlag_keeps | with_reducible apply State.raiseBit_keeps
    | with_reducible apply State.setSrv_keeps

end Sys2Proof.Machine
end

