-- ==== Sys2Proof/Laws/Keeps3.lean ====
section
/-! SUPPORT. What every operation keeps, continued: one lemma per operation, callees first (part 3). -/

set_option linter.all false

namespace Sys2Proof.Machine

theorem State.unmute_keeps {r : State} {s : State} (hs : Keeps r s) : Keeps r (State.unmute s) := by
  unfold State.unmute
  repeat' first
    | with_reducible assumption | with_reducible apply keeps_ite | with_reducible apply State.levelOff_keeps
    | with_reducible apply State.raiseBit_keeps | with_reducible apply State.setFlag_keeps

theorem State.levelOn_keeps {r : State} {s : State} (k : Nat) (inst : optParam Nat noInst) (info : optParam (List Byte) []) (hs : Keeps r s) : Keeps r (State.levelOn s k inst info) := by
  unfold State.levelOn
  repeat' first
    | with_reducible assumption | with_reducible apply keeps_ite | with_reducible apply State.raise_keeps
    | with_reducible apply State.raiseBit_keeps

theorem State.mute_keeps {r : State} {s : State} (hs : Keeps r s) : Keeps r (State.mute s) := by
  unfold State.mute
  repeat' first
    | with_reducible assumption | with_reducible apply keeps_ite | with_reducible apply State.levelOn_keeps
    | with_reducible apply State.raiseBit_keeps | with_reducible apply State.bump_keeps | with_reducible apply State.setFlag_keeps

theorem State.brcCtrl_keeps {r : State} {s : State} (v : Word) (hs : Keeps r s) : Keeps r (State.brcCtrl s v) := by
  unfold State.brcCtrl
  repeat' first
    | with_reducible assumption | with_reducible apply keeps_ite | with_reducible apply State.unmute_keeps
    | with_reducible apply State.mute_keeps

theorem State.snapDone_keeps {r : State} {s : State} (v : Word) (hs : Keeps r s) : Keeps r (State.snapDone s v) := by
  unfold State.snapDone
  repeat' first
    | with_reducible assumption | with_reducible apply keeps_ite | with_reducible apply State.clearBit_keeps
    | with_reducible apply State.bump_keeps | with_reducible apply State.setGns_keeps | with_reducible apply State.rxMove_keeps

theorem State.posWrite_keeps {r : State} {s : State} (m : Master) (k : Fin 6) (v : Word) (hs : Keeps r s) : Keeps r (State.posWrite s m k v) := by
  unfold State.posWrite
  repeat' first
    | with_reducible assumption | with_reducible apply keeps_ite | with_reducible apply State.setWord_keeps
    | with_reducible apply State.raise_keeps

theorem State.cntClr_keeps {r : State} {s : State} (p : Fin 64) (hs : Keeps r s) : Keeps r (State.cntClr s p) := by
  unfold State.cntClr
  repeat' first | with_reducible assumption | with_reducible apply State.setWordsN_keeps

theorem State.adrEvt_keeps {r : State} {s : State} (b : Nat) (hs : Keeps r s) : Keeps r (State.adrEvt s b) := by
  unfold State.adrEvt
  repeat' first | with_reducible assumption | with_reducible apply State.raiseBit_keeps

theorem State.adrCommit_keeps {r : State} {s : State} (n : Fin 4) (v : Word) (hs : Keeps r s) : Keeps r (State.adrCommit s n v) := by
  unfold State.adrCommit
  repeat' first
    | with_reducible assumption | with_reducible apply keeps_ite | with_reducible apply State.adrEvt_keeps
    | with_reducible apply State.setFlag_keeps

theorem State.prePort_keeps {r : State} {s : State} (m : Master) (a : Nat) (v : Word) (hs : Keeps r s) : KeepsO r (State.prePort s m a v) := by
  unfold State.prePort
  repeat' first
    | with_reducible exact keepsO_none | with_reducible apply keepsO_some | with_reducible apply keepsO_ite | with_reducible assumption
    | with_reducible apply State.steerCommit_keeps | with_reducible apply State.srvEvt_keeps | with_reducible apply State.poolRet_keeps
    | with_reducible apply State.ctCmd_keeps | with_reducible apply State.mintCmd_keeps | with_reducible apply State.brcCtrl_keeps
    | with_reducible apply State.snapDone_keeps | with_reducible apply State.posWrite_keeps | with_reducible apply State.cntClr_keeps
    | with_reducible apply State.maskCommit_keeps | with_reducible apply State.adrCommit_keeps | with_reducible apply State.lchEvt_keeps
    | with_reducible apply State.adrEvt_keeps | split

theorem State.rotLoad_keeps {r : State} {s : State} (y2 : RotArm) (hs : Keeps r s) : Keeps r (State.rotLoad s y2).2 := by
  unfold State.rotLoad
  repeat' first | with_reducible assumption | with_reducible apply State.wkrLoad_keeps

theorem State.rotate_keeps {r : State} {s : State} (d : Delivered) (hs : Keeps r s) : Keeps r (State.rotate s d) := by
  unfold State.rotate
  repeat' first
    | with_reducible assumption | with_reducible apply State.set_keeps | with_reducible apply State.srvEvt_keeps
    | with_reducible apply State.syncKeys_keeps | (fail_if_no_progress with_reducible refine keeps_mk ?_ rfl rfl)

theorem State.rotArm_keeps {r : State} {s : State} (req : Option Master) (hs : Keeps r s) : Keeps r (State.rotArm s req) := by
  unfold State.rotArm
  repeat' first
    | with_reducible assumption | with_reducible apply State.srvEvt_keeps | with_reducible apply State.rotLoad_keeps
    | with_reducible apply State.rotate_keeps | with_reducible apply State.syncKeys_keeps | lift_lets -underBinder | intro x
    | with_reducible refine keeps_snd ‹_› ?_ | (fail_if_no_progress with_reducible refine keeps_mk ?_ rfl rfl) | split

theorem State.adrStart_keeps {r : State} {s : State} (hs : Keeps r s) : Keeps r (State.adrStart s) := by
  unfold State.adrStart
  repeat' first
    | with_reducible assumption | with_reducible apply keeps_ite | with_reducible apply State.adrEvt_keeps
    | with_reducible apply State.setFlag_keeps | (fail_if_no_progress with_reducible refine keeps_mk ?_ rfl rfl)

theorem State.setBrc_keeps {r : State} {s : State} (y2 : BrcSt) (hs : Keeps r s) : Keeps r (State.setBrc s y2) := by
  unfold State.setBrc
  repeat' first | with_reducible assumption | (fail_if_no_progress with_reducible refine keeps_mk ?_ rfl rfl)

theorem State.bracePair_keeps {r : State} {s : State} (hs : Keeps r s) : Keeps r (State.bracePair s) := by
  unfold State.bracePair
  repeat' first
    | with_reducible assumption | with_reducible apply State.setFlag_keeps | with_reducible apply State.raiseBit_keeps
    | with_reducible apply State.set_keeps | with_reducible apply State.setBrc_keeps

theorem State.servingSync_keeps {r : State} {s : State} (hs : Keeps r s) : Keeps r (State.servingSync s) := by
  unfold State.servingSync
  repeat' first | with_reducible assumption | with_reducible apply State.setFlag_keeps

theorem State.braceEval_keeps {r : State} {s : State} (hs : Keeps r s) : Keeps r (State.braceEval s) := by
  unfold State.braceEval
  repeat' first
    | with_reducible assumption | with_reducible apply keeps_ite | with_reducible apply State.levelOff_keeps
    | with_reducible apply State.set_keeps | with_reducible apply State.bracePair_keeps | with_reducible apply State.servingSync_keeps
    | with_reducible apply State.setFlag_keeps

theorem State.packCfgSync_keeps {r : State} {s : State} (hs : Keeps r s) : Keeps r (State.packCfgSync s) := by
  unfold State.packCfgSync
  repeat' first | with_reducible assumption | with_reducible apply State.setFlag_keeps

theorem State.packLoad_keeps {r : State} {s : State} (m : Master) (hs : Keeps r s) : Keeps r (State.packLoad s m) := by
  unfold State.packLoad
  repeat' first
    | with_reducible assumption | with_reducible apply State.wkrLoad_keeps | with_reducible apply State.syncKeys_keeps
    | with_reducible refine keeps_snd ‹_› ?_ | (fail_if_no_progress with_reducible refine keeps_mk ?_ rfl rfl) | split

theorem State.gnsEvt_keeps {r : State} {s : State} (b : Nat) (hs : Keeps r s) : Keeps r (State.gnsEvt s b) := by
  unfold State.gnsEvt
  repeat' first | with_reducible assumption | with_reducible apply State.raiseBit_keeps

theorem State.gsiLoss_keeps {r : State} {s : State} (hs : Keeps r s) : Keeps r (State.gsiLoss s) := by
  unfold State.gsiLoss
  repeat' first
    | with_reducible assumption | with_reducible apply keeps_ite | with_reducible apply State.burstDrop_keeps
    | with_reducible apply State.gnsEvt_keeps | with_reducible apply State.setFlag_keeps | with_reducible apply State.rxMove_keeps
    | with_reducible apply State.levelOn_keeps

theorem State.gsiCheck_keeps {r : State} {s : State} (hs : Keeps r s) : Keeps r (State.gsiCheck s) := by
  unfold State.gsiCheck
  repeat' first | with_reducible assumption | with_reducible apply keeps_ite | with_reducible apply State.gsiLoss_keeps

theorem State.gnsConfig_keeps {r : State} {s : State} {before : State} (hs : Keeps r s) (hbefore : Keeps r before) : Keeps r (State.gnsConfig s before) := by
  unfold State.gnsConfig
  repeat' first
    | with_reducible assumption | with_reducible apply keeps_ite | with_reducible apply State.rxMove_keeps
    | with_reducible apply State.gsiCheck_keeps

theorem State.resRelease_keeps {r : State} {s : State} (hs : Keeps r s) : Keeps r (State.resRelease s) := by
  unfold State.resRelease
  repeat' first | with_reducible assumption | with_reducible apply keeps_ite | with_reducible apply State.gateReq_keeps

theorem State.shiftSync_keeps {r : State} {s : State} (p : Fin 64) (hs : Keeps r s) : Keeps r (State.shiftSync s p) := by
  unfold State.shiftSync
  repeat' first | with_reducible assumption | with_reducible apply State.setFlag_keeps

theorem State.portSync_keeps {r : State} {s : State} (p : Fin 64) (hs : Keeps r s) : Keeps r (State.portSync s p) := by
  unfold State.portSync
  repeat' first | with_reducible assumption | with_reducible apply State.setFlag_keeps | with_reducible apply State.shiftSync_keeps

theorem State.lringSync_keeps {r : State} {s : State} (y2 : Nat) (hs : Keeps r s) : Keeps r (State.lringSync s y2) := by
  unfold State.lringSync
  repeat' first | with_reducible assumption | with_reducible apply State.setFlag_keeps

theorem State.saCommit_keeps {r : State} {s : State} (spp : Nat) (b : Bool) (hs : Keeps r s) : Keeps r (State.saCommit s spp b) := by
  unfold State.saCommit
  repeat' first | with_reducible assumption | with_reducible apply State.setSrv_keeps

theorem State.postPort_keeps {r : State} {s : State} {before : State} (m : Master) (a : Nat) (v : Word) (hs : Keeps r s) (hbefore : Keeps r before) : Keeps r (State.postPort s before m a v) := by
  unfold State.postPort
  repeat' first
    | with_reducible assumption | with_reducible apply keeps_ite | with_reducible apply State.poolPut_keeps
    | with_reducible apply State.rotArm_keeps | with_reducible apply State.hostSubmit_keeps | with_reducible apply State.adrStart_keeps
    | with_reducible apply State.idleNow_keeps | with_reducible apply State.braceEval_keeps | with_reducible apply State.packCfgSync_keeps
    | with_reducible apply State.packLoad_keeps | with_reducible apply State.gnsConfig_keeps | with_reducible apply State.resRelease_keeps
    | with_reducible apply State.portSync_keeps | with_reducible apply State.lringSync_keeps | with_reducible apply State.saCommit_keeps
    | split

theorem State.snLoadReq_keeps {r : State} {s : State} (v : Time) (hs : Keeps r s) : Keeps r (State.snLoadReq s v) := by
  unfold State.snLoadReq
  repeat' first
    | with_reducible assumption | with_reducible apply keeps_ite | with_reducible apply State.timeStat_keeps
    | (fail_if_no_progress with_reducible refine keeps_mk ?_ rfl rfl)

theorem State.postKnl_keeps {r : State} {s : State} (a : Nat) (hs : Keeps r s) : Keeps r (State.postKnl s a) := by
  unfold State.postKnl
  repeat' first
    | with_reducible assumption | with_reducible apply State.snLoadReq_keeps | with_reducible apply State.syncAuditFull_keeps
    | with_reducible apply State.syncAudit_keeps | (fail_if_no_progress with_reducible refine keeps_mk ?_ rfl rfl) | split

theorem State.cntSelSync_keeps {r : State} {s : State} {before : State} (k : Nat) (hs : Keeps r s) (hbefore : Keeps r before) : Keeps r (State.cntSelSync s before k) := by
  unfold State.cntSelSync
  repeat' first
    | with_reducible assumption | with_reducible apply keeps_ite | with_reducible apply State.set_keeps
    | with_reducible apply State.raiseBit_keeps

theorem State.smpArm_keeps {r : State} {s : State} (n : Fin 12) (hs : Keeps r s) : Keeps r (State.smpArm s n) := by
  unfold State.smpArm
  repeat' first | with_reducible assumption | with_reducible apply State.drawn_keeps | (fail_if_no_progress with_reducible refine keeps_mk ?_ rfl rfl)

theorem State.smpSync_keeps {r : State} {s : State} {before : State} (n : Fin 12) (hs : Keeps r s) (hbefore : Keeps r before) : Keeps r (State.smpSync s before n) := by
  unfold State.smpSync
  repeat' first | with_reducible assumption | with_reducible apply keeps_ite | with_reducible apply State.smpArm_keeps

theorem State.chDrain_keeps {r : State} {s : State} (c : Fin 16) (status : Nat) (cur : Nat) (hs : Keeps r s) : Keeps r (State.chDrain s c status cur) := by
  unfold State.chDrain
  repeat' first
    | with_reducible assumption | with_reducible apply State.chFinish_keeps | with_reducible apply State.forN_keeps
    | with_reducible apply State.chObs_keeps | with_reducible apply State.bumpW_keeps | with_reducible apply State.setChState_keeps
    | with_reducible apply State.setFch_keeps | intro x

theorem State.chDisable_keeps {r : State} {s : State} (c : Fin 16) (hs : Keeps r s) : Keeps r (State.chDisable s c) := by
  unfold State.chDisable
  repeat' first
    | with_reducible assumption | with_reducible apply keeps_ite | with_reducible apply State.setChState_keeps
    | with_reducible apply State.setFch_keeps | with_reducible apply State.chDrain_keeps | with_reducible apply State.forN_keeps
    | with_reducible apply State.set_keeps | with_reducible apply State.chObs_keeps | with_reducible apply State.bumpW_keeps | intro x

theorem State.chSync_keeps {r : State} {s : State} (c : Fin 16) (hs : Keeps r s) : Keeps r (State.chSync s c) := by
  unfold State.chSync
  repeat' first
    | with_reducible assumption | with_reducible apply keeps_ite | with_reducible apply State.chBegin_keeps
    | with_reducible apply State.chDisable_keeps

theorem State.chHead_keeps {r : State} {s : State} (c : Fin 16) (addr : Nat) (hs : Keeps r s) : Keeps r (State.chHead s c addr) := by
  unfold State.chHead
  repeat' first
    | with_reducible assumption | with_reducible apply keeps_ite | with_reducible apply State.raiseBit_keeps
    | with_reducible apply State.raise_keeps | with_reducible apply State.setFch_keeps | with_reducible apply State.chBegin_keeps
    | with_reducible apply State.setChState_keeps

theorem State.msgGo_keeps {r : State} {s : State} (v : Fin 64) (hs : Keeps r s) : Keeps r (State.msgGo s v) := by
  unfold State.msgGo
  repeat' first | with_reducible assumption | with_reducible apply keeps_ite | (fail_if_no_progress with_reducible refine keeps_mk ?_ rfl rfl)

theorem State.msgScan_keeps {r : State} {s : State} (f : Nat) (hs : Keeps r s) : Keeps r (State.msgScan s f) := by
  unfold State.msgScan
  repeat' first
    | with_reducible assumption | with_reducible apply keeps_ite | with_reducible apply State.msgGo_keeps | with_reducible apply keeps_foldl
    | intro x

theorem State.postHost_keeps {r : State} {s : State} {before : State} (a : Nat) (hs : Keeps r s) (hbefore : Keeps r before) : Keeps r (State.postHost s before a) := by
  unfold State.postHost
  repeat' first
    | with_reducible assumption | with_reducible apply State.syncFlt_keeps | with_reducible apply State.cntSelSync_keeps
    | with_reducible apply State.smpSync_keeps | with_reducible apply State.chSync_keeps | with_reducible apply State.chHead_keeps
    | with_reducible apply State.msgScan_keeps | with_reducible apply keeps_foldl | intro x | split

theorem State.clampAt_keeps {r : State} {s : State} (a : Nat) (hs : Keeps r s) : Keeps r (State.clampAt s a) := by
  unfold State.clampAt
  repeat' first
    | with_reducible assumption | with_reducible apply keeps_ite | with_reducible apply State.set_keeps
    | with_reducible apply State.setWord_keeps | with_reducible apply State.setFlag_keeps | with_reducible apply keeps_foldl
    | (intro x; (have hd : x = x := by unfold x; rfl); clear hd; refine (fun (hx : Keeps r x) => ?_) ?_) | intro x | split | unfold x

theorem State.putMasked_keeps {r : State} {s : State} (a : Nat) (v : Word) (mask : Nat) (hs : Keeps r s) : Keeps r (State.putMasked s a v mask) := by
  unfold State.putMasked
  repeat' first | with_reducible assumption | with_reducible apply State.clampAt_keeps | with_reducible apply State.setWord_keeps

theorem State.tintNow_keeps {r : State} {s : State} (hs : Keeps r s) : Keeps r (State.tintNow s) := by
  unfold State.tintNow
  repeat' first | with_reducible assumption | (fail_if_no_progress with_reducible refine keeps_mk ?_ rfl rfl)

theorem State.preLand_keeps {r : State} {s : State} (a : Nat) (hs : Keeps r s) : Keeps r (State.preLand s a) := by
  unfold State.preLand
  repeat' first | with_reducible assumption | with_reducible apply keeps_ite | with_reducible apply State.tintNow_keeps

theorem State.wordWrite_keeps {r : State} {s : State} (m : Master) (a : Nat) (v : Word) (mask : Nat) (hs : Keeps r s) : Keeps r (State.wordWrite s m a v mask) := by
  unfold State.wordWrite
  repeat' first
    | with_reducible assumption | with_reducible apply State.postPort_keeps | with_reducible apply State.postKnl_keeps
    | with_reducible apply State.postHost_keeps | with_reducible apply State.putMasked_keeps | with_reducible apply State.preLand_keeps
    | with_reducible refine keeps_some ‹_› (State.preHost_keeps _ _ _ ?_)
    | with_reducible refine keeps_some ‹_› (State.preKnl_keeps _ _ _ ?_)
    | with_reducible refine keeps_some ‹_› (State.prePort_keeps _ _ _ ?_) | split

theorem State.valueWrite_keeps {r : State} {s : State} (m : Master) (a : Nat) (v : Word) (mask : Nat) (hs : Keeps r s) : Keeps r (State.valueWrite s m a v mask) := by
  unfold State.valueWrite
  repeat' first
    | with_reducible assumption | with_reducible apply State.wordWrite_keeps | with_reducible apply State.putMasked_keeps
    | with_reducible apply keeps_foldl | intro x | (fail_if_no_progress with_reducible refine keeps_mk ?_ rfl rfl) | split

theorem State.enabledWrite_keeps {r : State} {s : State} (m : Master) (a : Nat) (v : Word) (mask : Nat) (hs : Keeps r s) : Keeps r (State.enabledWrite s m a v mask) := by
  unfold State.enabledWrite
  repeat' first
    | with_reducible assumption | with_reducible apply State.modeFix_keeps | with_reducible apply State.enableWrite_keeps
    | with_reducible apply State.valueWrite_keeps | with_reducible refine keeps_snd ‹_› ?_ | with_reducible refine keeps_fst ‹_› ?_ | split

theorem State.busWrite32_keeps {r : State} {s : State} (m : Master) (a : Nat) (v : Word) (hs : Keeps r s) : Keeps r (State.busWrite32 s m a v) := by
  unfold State.busWrite32
  repeat' first
    | with_reducible assumption | with_reducible apply keeps_ite | with_reducible apply State.replyErr_keeps
    | with_reducible apply State.unmappedAt_keeps | with_reducible apply State.engMemWrite_keeps | with_reducible apply State.roWrite_keeps
    | with_reducible apply State.irqFollow_keeps | with_reducible apply State.enabledWrite_keeps
    | (fail_if_no_progress with_reducible refine keeps_mk ?_ rfl rfl) | split

theorem execDozeEnWrite_keeps {r : State} (m : Master) (v : Word) {s : State} (hs : Keeps r s) : ∃ t, execDozeEnWrite m v s = .next t ∧ Keeps r t := by
  unfold execDozeEnWrite
  repeat' first | with_reducible assumption | with_reducible apply State.busWrite32_keeps | (with_reducible refine ⟨_, rfl, ?_⟩)

theorem State.arm_keeps {r : State} {s : State} (a : Armed) (hs : Keeps r s) : Keeps r (State.arm s a) := by
  unfold State.arm
  repeat' first
    | with_reducible assumption | with_reducible apply State.setFlag_keeps | (fail_if_no_progress with_reducible refine keeps_mk ?_ rfl rfl)

theorem State.handoverReq_keeps {r : State} {s : State} (freq : DWord) (phase : DWord) (hs : Keeps r s) : Keeps r (State.handoverReq s freq phase).2 := by
  unfold State.handoverReq
  repeat' first | with_reducible assumption | with_reducible apply State.timeStat_keeps | with_reducible apply State.arm_keeps | split

theorem State.setShare_keeps {r : State} {s : State} (k : Fin 8) (v : Nat) (hs : Keeps r s) : Keeps r (State.setShare s k v) := by
  unfold State.setShare
  repeat' first | with_reducible assumption | with_reducible apply State.set_keeps | with_reducible apply State.setSrv_keeps

theorem State.wardenSteer_keeps {r : State} {s : State} (owners : List (Nat × Nat)) (hs : Keeps r s) : Keeps r (State.wardenSteer s owners) := by
  unfold State.wardenSteer
  repeat' first | with_reducible assumption | with_reducible apply State.steerCommit_keeps | with_reducible apply State.set_keeps

theorem State.addShares_keeps {r : State} {s : State} (xs : List Nat) (hs : Keeps r s) : Keeps r (State.addShares s xs) := by
  unfold State.addShares
  repeat' first | with_reducible assumption | with_reducible apply State.setShare_keeps | with_reducible apply keeps_foldl | intro x

theorem State.takeShares_keeps {r : State} {s : State} (xs : List Nat) (hs : Keeps r s) : Keeps r (State.takeShares s xs) := by
  unfold State.takeShares
  repeat' first | with_reducible assumption | with_reducible apply State.setShare_keeps | with_reducible apply keeps_foldl | intro x

theorem State.replaceStep_keeps {r : State} {s : State} (k : Fin 8) (hs : Keeps r s) : Keeps r (State.replaceStep s k) := by
  unfold State.replaceStep
  repeat' first
    | with_reducible assumption | with_reducible apply keeps_ite | with_reducible apply State.setShare_keeps
    | with_reducible apply State.wardenSteer_keeps | with_reducible apply State.drawn_keeps | with_reducible apply State.addShares_keeps
    | with_reducible apply State.setSrv_keeps | with_reducible apply State.runOff_keeps | with_reducible apply State.dbellSet_keeps
    | with_reducible apply State.runSet_keeps | with_reducible apply State.takeShares_keeps | split

theorem State.level_keeps {r : State} {s : State} (k : Nat) (on : Bool) (inst : optParam Nat noInst) (info : optParam (List Byte) []) (hs : Keeps r s) : Keeps r (State.level s k on inst info) := by
  unfold State.level
  repeat' first
    | with_reducible assumption | with_reducible apply keeps_ite | with_reducible apply State.levelOn_keeps
    | with_reducible apply State.levelOff_keeps

theorem State.oscSync_keeps {r : State} {s : State} (hs : Keeps r s) : Keeps r (State.oscSync s) := by
  unfold State.oscSync
  repeat' first
    | with_reducible assumption | with_reducible apply keeps_ite | with_reducible apply State.raiseBit_keeps
    | with_reducible apply State.level_keeps

theorem State.abandon_keeps {r : State} {s : State} (hs : Keeps r s) : Keeps r (State.abandon s) := by
  unfold State.abandon
  repeat' first
    | with_reducible assumption | with_reducible apply State.record_keeps | with_reducible apply keeps_foldl | intro x
    | (fail_if_no_progress with_reducible refine keeps_mk ?_ rfl rfl)

theorem State.timeBetter_keeps {r : State} {s : State} (i : Fin 68) (hs : Keeps r s) : Keeps r (State.timeBetter s i) := by
  unfold State.timeBetter
  repeat' first | with_reducible assumption | with_reducible apply State.setAtt_keeps

theorem State.kLoad_keeps {r : State} {s : State} (n : Fin 2) (b : FwBank) (restart : Bool) (hs : Keeps r s) : Keeps r (State.kLoad s n b restart) := by
  unfold State.kLoad
  repeat' first
    | with_reducible assumption | with_reducible apply State.loadBodies_keeps | with_reducible apply State.engineBlockReset_keeps
    | with_reducible apply State.setEng_keeps | with_reducible apply State.set_keeps | with_reducible apply State.setFlag_keeps

theorem State.kReload_keeps {r : State} {s : State} (n : Fin 2) (hs : Keeps r s) : Keeps r (State.kReload s n) := by
  unfold State.kReload
  repeat' first | with_reducible assumption | with_reducible apply State.kLoad_keeps | (fail_if_no_progress with_reducible refine keeps_mk ?_ rfl rfl)

theorem State.fwTrialFail_keeps {r : State} {s : State} (n : Fin 2) (hs : Keeps r s) : Keeps r (State.fwTrialFail s n) := by
  unfold State.fwTrialFail
  repeat' first
    | with_reducible assumption | with_reducible apply State.setFlag_keeps | with_reducible apply State.record_keeps
    | with_reducible apply State.kReload_keeps | (fail_if_no_progress with_reducible refine keeps_mk ?_ rfl rfl)

theorem State.trapAt_keeps {r : State} {s : State} (n : Fin 12) (cause : Nat) (epc : BitVec 16) (bad : Option Nat) (imprecise : Bool) (hs : Keeps r s) : Keeps r (State.trapAt s n cause epc bad imprecise) := by
  unfold State.trapAt
  repeat' first
    | with_reducible assumption | with_reducible apply keeps_ite | with_reducible apply State.trapEnter_keeps
    | with_reducible apply State.fwTrialFail_keeps | with_reducible apply State.raise_keeps | split

theorem State.trap_keeps {r : State} {s : State} (n : Fin 12) (cause : Nat) (bad : optParam (Option Nat) none) (hs : Keeps r s) : Keeps r (State.trap s n cause bad) := by
  unfold State.trap
  repeat' first
    | with_reducible assumption | with_reducible apply State.slot_keeps | with_reducible apply State.trapAt_keeps
    | with_reducible apply State.setEng_keeps

theorem State.wdogExpire_keeps {r : State} {s : State} (n : Fin 12) (hs : Keeps r s) : Keeps r (State.wdogExpire s n) := by
  unfold State.wdogExpire
  repeat' first
    | with_reducible assumption | with_reducible apply keeps_ite | with_reducible apply State.raiseBit_keeps
    | with_reducible apply State.setEng_keeps | with_reducible apply State.trap_keeps

theorem State.showBank_keeps {r : State} {s : State} (hs : Keeps r s) : Keeps r (State.showBank s) := by
  unfold State.showBank
  repeat' first | with_reducible assumption | with_reducible apply State.set_keeps

theorem State.takeMeas_keeps {r : State} {s : State} (d : Digest) (hs : Keeps r s) : Keeps r (State.takeMeas s d) := by
  unfold State.takeMeas
  repeat' first | with_reducible assumption | with_reducible apply State.set_keeps | (fail_if_no_progress with_reducible refine keeps_mk ?_ rfl rfl)

theorem State.logVerify_keeps {r : State} {s : State} (hs : Keeps r s) : Keeps r (State.logVerify s) := by
  unfold State.logVerify
  repeat' first
    | with_reducible assumption | with_reducible apply keeps_ite | with_reducible apply State.set_keeps
    | with_reducible apply State.levelOn_keeps

theorem State.aonEvt_keeps {r : State} {s : State} (b : Nat) (hs : Keeps r s) : Keeps r (State.aonEvt s b) := by
  unfold State.aonEvt
  repeat' first | with_reducible assumption | with_reducible apply State.raiseBit_keeps

theorem State.putWords_keeps {r : State} {s : State} (ws : List (Nat × Word)) (hs : Keeps r s) : Keeps r (State.putWords s ws) := by
  unfold State.putWords
  repeat' first | with_reducible assumption | with_reducible apply State.setWord_keeps | with_reducible apply keeps_foldl | intro x

theorem State.utcRestore_keeps {r : State} {s : State} (b : BoneBody) (hs : Keeps r s) : Keeps r (State.utcRestore s b) := by
  unfold State.utcRestore
  repeat' first
    | with_reducible assumption | with_reducible apply State.putWords_keeps | (fail_if_no_progress with_reducible refine keeps_mk ?_ rfl rfl)

theorem State.boneBack_keeps {r : State} {s : State} (b : Bone) (hs : Keeps r s) : Keeps r (State.boneBack s b) := by
  unfold State.boneBack
  repeat' first
    | with_reducible assumption | with_reducible apply keeps_ite | with_reducible apply State.utcRestore_keeps
    | with_reducible apply State.putWords_keeps | with_reducible apply State.setFlag_keeps
    | (fail_if_no_progress with_reducible refine keeps_mk ?_ rfl rfl)

theorem State.estShow_keeps {r : State} {s : State} (rtSave : Nat) (hs : Keeps r s) : Keeps r (State.estShow s rtSave) := by
  unfold State.estShow
  repeat' first | with_reducible assumption | with_reducible apply keeps_ite | with_reducible apply State.set_keeps

theorem State.boneRestore_keeps {r : State} {s : State} (hs : Keeps r s) : Keeps r (State.boneRestore s) := by
  unfold State.boneRestore
  repeat' first
    | with_reducible assumption | with_reducible apply keeps_ite | with_reducible apply State.set_keeps
    | with_reducible apply State.aonEvt_keeps | with_reducible apply State.setFlag_keeps | with_reducible apply State.boneBack_keeps
    | with_reducible apply State.estShow_keeps | lift_lets -underBinder | intro x | split

theorem State.kennelBoot_keeps {r : State} {s : State} (hs : Keeps r s) : Keeps r (State.kennelBoot s) := by
  unfold State.kennelBoot
  repeat' first
    | with_reducible assumption | with_reducible apply keeps_ite | with_reducible apply State.showBank_keeps
    | with_reducible apply State.takeMeas_keeps | with_reducible apply State.syncAudit_keeps | with_reducible apply State.abandon_keeps
    | with_reducible apply State.levelOn_keeps | with_reducible apply State.set_keeps | with_reducible apply State.kLoad_keeps
    | with_reducible apply State.logVerify_keeps | with_reducible apply State.boneRestore_keeps
    | (fail_if_no_progress with_reducible refine keeps_mk ?_ rfl rfl)

theorem execKennelBoot_keeps {r : State} {s : State} (hs : Keeps r s) : ∃ t, execKennelBoot s = .next t ∧ Keeps r t := by
  unfold execKennelBoot
  repeat' first | with_reducible assumption | with_reducible apply State.kennelBoot_keeps | (with_reducible refine ⟨_, rfl, ?_⟩)

theorem State.msgSend_keeps {r : State} {s : State} (v : Fin 64) (hs : Keeps r s) : Keeps r (State.msgSend s v) := by
  unfold State.msgSend
  repeat' first | with_reducible assumption | with_reducible apply keeps_ite | (fail_if_no_progress with_reducible refine keeps_mk ?_ rfl rfl)

theorem State.costMore_keeps {r : State} {s : State} (n : Fin 12) (cls : Nat) (c : Nat) (hs : Keeps r s) : Keeps r (State.costMore s n cls c) := by
  unfold State.costMore
  repeat' first | with_reducible assumption | with_reducible apply State.setEng_keeps

theorem State.depend_keeps {r : State} {s : State} (n : Fin 12) (uses : List EReg) (hs : Keeps r s) : Keeps r (State.depend s n uses) := by
  unfold State.depend
  repeat' first
    | with_reducible assumption | with_reducible apply State.setEng_keeps | with_reducible apply State.costMore_keeps
    | with_reducible apply State.slot_keeps | split

theorem State.corrected_keeps {r : State} {s : State} (n : Fin 12) (k : Nat) (hs : Keeps r s) : Keeps r (State.corrected s n k) := by
  unfold State.corrected
  repeat' first
    | with_reducible assumption | with_reducible apply keeps_ite | with_reducible apply State.raiseBit_keeps
    | with_reducible apply State.bump_keeps

theorem State.issue_keeps {r : State} {s : State} (ws : List Word) (n : Fin 12) (uses : List EReg) {f : State → State} (hs : Keeps r s) (hf : (∀ s, Keeps r s → Keeps r (f s))) : ∃ t, State.issue s ws n uses f = .next t ∧ Keeps r t := by
  unfold State.issue
  repeat' first
    | with_reducible assumption | with_reducible apply keeps_ite | with_reducible apply hf | with_reducible apply State.trap_keeps
    | with_reducible apply State.depend_keeps | with_reducible apply State.corrected_keeps | (with_reducible refine ⟨_, rfl, ?_⟩)

theorem State.retired_keeps {r : State} {s : State} (n : Fin 12) (pc : BitVec 16) (cost : Nat) (redirect : optParam Bool false) (hs : Keeps r s) : Keeps r (State.retired s n pc cost redirect) := by
  unfold State.retired
  repeat' first
    | with_reducible assumption | with_reducible apply keeps_ite | with_reducible apply State.slot_keeps
    | with_reducible apply State.bumpW_keeps | with_reducible apply State.obs_keeps | with_reducible apply State.setEng_keeps

theorem execEcall_keeps {r : State} (n : Fin 12) {s : State} (hs : Keeps r s) : ∃ t, execEcall n s = .next t ∧ Keeps r t := by
  unfold execEcall
  repeat' first
    | with_reducible assumption | with_reducible apply State.issue_keeps | with_reducible apply State.trapAt_keeps
    | with_reducible apply State.retired_keeps | (with_reducible refine ⟨_, rfl, ?_⟩) | intro x

theorem State.leapFlags_keeps {r : State} {s : State} (hs : Keeps r s) : Keeps r (State.leapFlags s) := by
  unfold State.leapFlags
  repeat' first | with_reducible assumption | (fail_if_no_progress with_reducible refine keeps_mk ?_ rfl rfl) | split

theorem State.cmdStage_keeps {r : State} (c : MbCmd) {s : State} (hs : Keeps r s) : Keeps r (State.cmdStage c s).2.2 := by
  unfold State.cmdStage
  repeat' first
    | with_reducible assumption | lift_lets -underBinder | intro x | (fail_if_no_progress with_reducible refine keeps_mk ?_ rfl rfl) | split

theorem execMbxStage_keeps {r : State} (kspiOk : Bool) {s : State} (hs : Keeps r s) : ∃ t, execMbxStage kspiOk s = .next t ∧ Keeps r t := by
  unfold execMbxStage
  repeat' first
    | with_reducible assumption | with_reducible apply State.mbRun_keeps | with_reducible apply State.cmdStage_keeps
    | (with_reducible refine ⟨_, rfl, ?_⟩) | intro x

theorem State.setRef_keeps {r : State} {s : State} (n : Fin 23) (y3 : RefSt) (hs : Keeps r s) : Keeps r (State.setRef s n y3) := by
  unfold State.setRef
  repeat' first | with_reducible assumption | (fail_if_no_progress with_reducible refine keeps_mk ?_ rfl rfl)

theorem State.glitch_keeps {r : State} {s : State} (n : Fin 23) (hs : Keeps r s) : Keeps r (State.glitch s n) := by
  unfold State.glitch
  repeat' first | with_reducible assumption | with_reducible apply State.setRef_keeps | with_reducible apply State.bump_keeps

theorem State.holdBase_keeps {r : State} {s : State} (rt : Nat) (hs : Keeps r s) : Keeps r (State.holdBase s rt) := by
  unfold State.holdBase
  repeat' first | with_reducible assumption | (fail_if_no_progress with_reducible refine keeps_mk ?_ rfl rfl)

theorem State.lastValid_keeps {r : State} {s : State} (n : Nat) (rt : Nat) (hs : Keeps r s) : Keeps r (State.lastValid s n rt) := by
  unfold State.lastValid
  repeat' first
    | with_reducible assumption | with_reducible apply keeps_ite | with_reducible apply State.set_keeps
    | with_reducible apply State.holdBase_keeps | (fail_if_no_progress with_reducible refine keeps_mk ?_ rfl rfl)

theorem State.refSample_keeps {r : State} {s : State} (n : Fin 23) (tau : Int) (lc : Time) (phase : Int) (rt : Time) (hs : Keeps r s) : Keeps r (State.refSample s n tau lc phase rt) := by
  unfold State.refSample
  repeat' first
    | with_reducible assumption | with_reducible apply State.setRef_keeps | with_reducible apply State.lastValid_keeps
    | with_reducible apply State.set_keeps

theorem State.edgeSample_keeps {r : State} {s : State} (n : Fin 23) (tau : Int) (lc : Time) (rt : Time) (hs : Keeps r s) : Keeps r (State.edgeSample s n tau lc rt) := by
  unfold State.edgeSample
  repeat' first
    | with_reducible assumption | with_reducible apply keeps_ite | with_reducible apply State.refSample_keeps
    | with_reducible apply State.setRef_keeps

theorem State.maskBit_keeps {r : State} {s : State} (f : Fld) (n : Nat) (on : Bool) (hs : Keeps r s) : Keeps r (State.maskBit s f n on) := by
  unfold State.maskBit
  repeat' first
    | with_reducible assumption | with_reducible apply keeps_ite | with_reducible apply State.raiseBit_keeps
    | with_reducible apply State.clearBit_keeps

theorem State.noTtr_keeps {r : State} {s : State} (n : Nat) (hs : Keeps r s) : Keeps r (State.noTtr s n) := by
  unfold State.noTtr
  repeat' first
    | with_reducible assumption | with_reducible apply State.maskBit_keeps | with_reducible apply State.setFlag_keeps
    | with_reducible apply State.set_keeps

theorem State.noY_keeps {r : State} {s : State} (n : Nat) (hs : Keeps r s) : Keeps r (State.noY s n) := by
  unfold State.noY
  repeat' first
    | with_reducible assumption | with_reducible apply State.noTtr_keeps | with_reducible apply State.setFlag_keeps
    | with_reducible apply State.set_keeps

theorem State.refMove_keeps {r : State} {s : State} (n : Fin 23) (st : Nat) (cause : Option Nat) (hs : Keeps r s) : Keeps r (State.refMove s n st cause) := by
  unfold State.refMove
  repeat' first
    | with_reducible assumption | with_reducible apply State.set_keeps | with_reducible apply State.maskBit_keeps
    | with_reducible apply State.kinNote_keeps | with_reducible apply State.setFlag_keeps | with_reducible apply State.noTtr_keeps
    | with_reducible apply State.noY_keeps | with_reducible apply State.setRef_keeps
    | (fail_if_no_progress with_reducible refine keeps_mk ?_ rfl rfl) | split

theorem State.disqualify_keeps {r : State} {s : State} (n : Fin 23) (cause : Nat) (hs : Keeps r s) : Keeps r (State.disqualify s n cause) := by
  unfold State.disqualify
  repeat' first
    | with_reducible assumption | with_reducible apply keeps_ite | with_reducible apply State.raise_keeps
    | with_reducible apply State.refMove_keeps

theorem State.endPairs_keeps {r : State} {s : State} (hs : Keeps r s) : Keeps r (State.endPairs s) := by
  unfold State.endPairs
  repeat' first | with_reducible assumption | (fail_if_no_progress with_reducible refine keeps_mk ?_ rfl rfl)

theorem Contest.judge_keeps {r : State} {c : Contest} (x y : Nat) (h : Keeps r c.st) : Keeps r (c.judge x y).st := by
  unfold Contest.judge
  lift_lets -underBinder
  intro a b s o known refs s1 s2 mark
  have h1 : Keeps r s1 := keeps_mk h rfl rfl
  have h2 : Keeps r s2 := by
    unfold s2
    split
    · exact h1
    · exact State.raise_keeps _ _ _ (State.raiseBit_keeps _ _ _ h1)
  have hm : ∀ t, Keeps r t → ∀ n, Keeps r (mark t n) := by
    intro t ht n
    unfold mark
    split
    · split
      · exact State.refMove_keeps _ _ _ ht
      · exact State.set_keeps _ _ _ (State.setRef_keeps _ _ ht)
    · exact ht
  clear_value mark s2 known
  split
  · exact h
  · split
    · exact hm _ h2 _
    · split
      · exact hm _ h2 _
      · exact hm _ (hm _ h2 _) _

theorem Contest.foldl_keeps {r : State} {c : Contest} (sel : Nat) (l : List Nat) (h : Keeps r c.st) :
    Keeps r (l.foldl (fun c x => c.judge sel x) c).st := by
  induction l generalizing c with
  | nil => exact h
  | cons x l ih => exact ih (Contest.judge_keeps sel x h)

theorem State.chooseRank_keeps {r : State} {s : State} (rank : Nat) (sel : Nat) (hs : Keeps r s) : Keeps r (State.chooseRank s rank sel).2 := by
  unfold State.chooseRank
  lift_lets -underBinder
  intro g nd g1 c c1 rest c2 left
  have h1 : Keeps r c1.st := by
    unfold c1
    split
    · exact Contest.foldl_keeps sel _ hs
    · exact hs
  have h2 : Keeps r c2.st := by
    unfold c2
    split
    · exact Contest.judge_keeps _ _ h1
    · exact h1
  exact h2

theorem State.chooseFrom_keeps {r : State} {s : State} (sel : Nat) (y3 : List Nat) (hs : Keeps r s) : Keeps r (State.chooseFrom s sel y3).2 := by
  induction y3 generalizing s with
  | nil => exact hs
  | cons q rs ih =>
    unfold State.chooseFrom
    split
    · exact keeps_snd ‹_› (State.chooseRank_keeps q sel hs)
    · exact ih (keeps_snd ‹_› (State.chooseRank_keeps q sel hs))

theorem State.servoSel_keeps {r : State} {s : State} (sel : Nat) (changed : Bool) (boundary : Bool) (hs : Keeps r s) : Keeps r (State.servoSel s sel changed boundary) := by
  unfold State.servoSel
  repeat' first | with_reducible assumption | with_reducible apply State.setServo_keeps | split

theorem State.select_keeps {r : State} {s : State} (boundary : Bool) (hs : Keeps r s) : Keeps r (State.select s boundary) := by
  unfold State.select
  repeat' first
    | with_reducible assumption | with_reducible apply keeps_ite | with_reducible apply State.endPairs_keeps
    | with_reducible apply State.chooseRank_keeps | with_reducible apply State.chooseFrom_keeps | with_reducible apply State.servoSel_keeps
    | with_reducible apply State.bump_keeps | with_reducible apply State.set_keeps | with_reducible apply State.raiseBit_keeps
    | with_reducible apply State.setFlag_keeps | with_reducible refine keeps_snd ‹_› ?_ | split

theorem State.selectNow_keeps {r : State} {s : State} (n : Nat) (hs : Keeps r s) : Keeps r (State.selectNow s n) := by
  unfold State.selectNow
  repeat' first
    | with_reducible assumption | with_reducible apply keeps_ite | with_reducible apply State.leashWiden_keeps
    | with_reducible apply State.select_keeps

theorem State.refEdge_keeps {r : State} {s : State} (n : Fin 23) (lc : Time) (width : Nat) (hs : Keeps r s) : Keeps r (State.refEdge s n lc width) := by
  unfold State.refEdge
  repeat' first
    | with_reducible assumption | with_reducible apply keeps_ite | with_reducible apply State.setRef_keeps
    | with_reducible apply State.glitch_keeps | with_reducible apply State.edgeSample_keeps | with_reducible apply State.refMove_keeps
    | with_reducible apply State.disqualify_keeps | with_reducible apply State.selectNow_keeps | with_reducible apply State.noY_keeps
    | intro x | split

theorem State.adrMove_keeps {r : State} {s : State} (n : Fin 4) (v : Nat) (hs : Keeps r s) : Keeps r (State.adrMove s n v) := by
  unfold State.adrMove
  repeat' first
    | with_reducible assumption | with_reducible apply keeps_ite | with_reducible apply State.set_keeps
    | with_reducible apply State.adrEvt_keeps

theorem State.adrBlockEnd_keeps {r : State} {s : State} (n : Fin 4) (hs : Keeps r s) : Keeps r (State.adrBlockEnd s n) := by
  unfold State.adrBlockEnd
  repeat' first
    | with_reducible assumption | with_reducible apply keeps_ite | with_reducible apply State.set_keeps
    | with_reducible apply State.bump_keeps | with_reducible apply State.setAdr_keeps

theorem State.adrBlockStart_keeps {r : State} {s : State} (n : Fin 4) (lc : Time) (hs : Keeps r s) : Keeps r (State.adrBlockStart s n lc) := by
  unfold State.adrBlockStart
  repeat' first
    | with_reducible assumption | with_reducible apply keeps_ite | with_reducible apply State.adrBlockEnd_keeps
    | with_reducible apply State.setAdr_keeps | with_reducible apply State.adrMove_keeps

theorem State.adrCapture_keeps {r : State} {s : State} (n : Fin 4) (f : AesFrame) (start : Bool) (lc : Time) (hs : Keeps r s) : Keeps r (State.adrCapture s n f start lc) := by
  unfold State.adrCapture
  repeat' first
    | with_reducible assumption | with_reducible apply keeps_ite | with_reducible apply State.adrEvt_keeps
    | with_reducible apply State.bump_keeps | with_reducible apply State.devWrite_keeps | with_reducible apply State.set_keeps
    | with_reducible apply State.bumpW_keeps

theorem State.adrFrameIn_keeps {r : State} {s : State} (n : Fin 4) (f : AesFrame) (z : Bool) (lc : Time) (hs : Keeps r s) : Keeps r (State.adrFrameIn s n f z lc) := by
  unfold State.adrFrameIn
  repeat' first
    | with_reducible assumption | with_reducible apply keeps_ite | with_reducible apply State.refEdge_keeps
    | with_reducible apply State.adrMove_keeps | with_reducible apply State.adrBlockStart_keeps | with_reducible apply State.setAdr_keeps
    | with_reducible apply State.adrCapture_keeps

theorem State.adrReceive_keeps {r : State} {s : State} (n : Fin 4) (f : AesFrame) (hs : Keeps r s) : Keeps r (State.adrReceive s n f) := by
  unfold State.adrReceive
  repeat' first
    | with_reducible assumption | with_reducible apply keeps_ite | with_reducible apply State.bump_keeps
    | with_reducible apply State.setAdr_keeps | with_reducible apply State.adrFrameIn_keeps | split

theorem execAdrInputFrame_keeps {r : State} (n : Fin 4) (f : AesFrame) {s : State} (hs : Keeps r s) : ∃ t, execAdrInputFrame n f s = .next t ∧ Keeps r t := by
  unfold execAdrInputFrame
  repeat' first
    | with_reducible assumption | with_reducible apply State.run_keeps | with_reducible apply State.adrReceive_keeps
    | (with_reducible refine ⟨_, rfl, ?_⟩) | intro x

theorem State.autoUnmute_keeps {r : State} {s : State} (hs : Keeps r s) : Keeps r (State.autoUnmute s) := by
  unfold State.autoUnmute
  repeat' first | with_reducible assumption | with_reducible apply keeps_ite | with_reducible apply State.unmute_keeps

theorem execKumRetire_keeps {r : State} (m : Master) {s : State} (hs : Keeps r s) : ∃ t, execKumRetire m s = .next t ∧ Keeps r t := by
  unfold execKumRetire
  repeat' first | with_reducible assumption | with_reducible apply State.kumOf_keeps | (with_reducible refine ⟨_, rfl, ?_⟩)

theorem State.sramSoft_keeps {r : State} {s : State} (a : Nat) (n : Nat) (hs : Keeps r s) : Keeps r (State.sramSoft s a n) := by
  unfold State.sramSoft
  repeat' first | with_reducible assumption | with_reducible apply keeps_ite | with_reducible apply State.raise_keeps

theorem State.sramAccess_keeps {r : State} {s : State} (m : Nat) (a : Nat) (op : MOp) (hs : Keeps r s) : Keeps r (State.sramAccess s m a op).2.2 := by
  unfold State.sramAccess
  repeat' first
    | with_reducible assumption | with_reducible apply State.sramErr_keeps | with_reducible apply State.sramSoft_keeps
    | with_reducible apply State.setBytes_keeps | split

theorem State.refLoss_keeps {r : State} {s : State} (n : Fin 23) (hs : Keeps r s) : Keeps r (State.refLoss s n) := by
  unfold State.refLoss
  repeat' first
    | with_reducible assumption | with_reducible apply keeps_ite | with_reducible apply State.bump_keeps
    | with_reducible apply State.refMove_keeps | with_reducible apply State.selectNow_keeps | with_reducible apply State.raise_keeps

theorem State.bar4_keeps {r : State} {s : State} (f : Fin 4) (off : Nat) (len : Nat) (write : Option (List Byte)) (hs : Keeps r s) : Keeps r (State.bar4 s f off len write) := by
  unfold State.bar4
  repeat' first
    | with_reducible assumption | with_reducible apply keeps_ite | with_reducible apply State.replyErr_keeps
    | with_reducible apply State.setBytes_keeps | with_reducible apply State.sramErr_keeps | with_reducible apply State.sramSoft_keeps
    | (fail_if_no_progress with_reducible refine keeps_mk ?_ rfl rfl) | split

end Sys2Proof.Machine
end

