-- ==== Sys2Proof/Laws/Keeps4.lean ====
section
/-! SUPPORT. What every operation keeps, continued: one lemma per operation, callees first (part 4). -/

set_option linter.all false

namespace Sys2Proof.Machine

theorem execBar4Access_keeps {r : State} (f : Fin 4) (off : Nat) (len : Nat) (write : Option (List Byte)) {s : State} (hs : Keeps r s) : ∃ t, execBar4Access f off len write s = .next t ∧ Keeps r t := by
  unfold execBar4Access
  repeat' first | with_reducible assumption | with_reducible apply State.bar4_keeps | (with_reducible refine ⟨_, rfl, ?_⟩)

theorem State.phaseAgain_keeps {r : State} {s : State} (hs : Keeps r s) : Keeps r (State.phaseAgain s) := by
  unfold State.phaseAgain
  repeat' first | with_reducible assumption | with_reducible apply keeps_ite | with_reducible apply State.setFlag_keeps

theorem State.txEnd_keeps {r : State} {s : State} (p : Fin 64) (hs : Keeps r s) : Keeps r (State.txEnd s p) := by
  unfold State.txEnd
  repeat' first
    | with_reducible assumption | with_reducible apply State.setLport_keeps | with_reducible apply State.obs_keeps
    | with_reducible apply State.bump_keeps | with_reducible apply State.report_keeps | lift_lets -underBinder | intro x | split

theorem State.drbgUse_keeps {r : State} {s : State} (hs : Keeps r s) : Keeps r (State.drbgUse s) := by
  unfold State.drbgUse
  repeat' first | with_reducible assumption | with_reducible apply State.raiseBit_keeps

theorem State.cookies_keeps {r : State} {s : State} (k : Delivered) (c2s : List Byte) (s2c : List Byte) (n : Nat) (hs : Keeps r s) : Keeps r (State.cookies s k c2s s2c n).2 := by
  unfold State.cookies
  repeat' first | with_reducible assumption | with_reducible apply State.drbgUse_keeps | (with_reducible refine keeps_draw ?_ rfl rfl)

theorem State.deepEnter_keeps {r : State} {s : State} (cause : Nat) (hs : Keeps r s) : Keeps r (State.deepEnter s cause) := by
  unfold State.deepEnter
  repeat' first
    | with_reducible assumption | with_reducible apply State.chipReset_keeps | with_reducible apply State.dbgClose_keeps
    | with_reducible apply State.setFlag_keeps | (fail_if_no_progress with_reducible refine keeps_mk ?_ rfl rfl)

theorem State.linkMove_keeps {r : State} {s : State} (i : Fin 68) (v : Nat) (hs : Keeps r s) : Keeps r (State.linkMove s i v) := by
  unfold State.linkMove
  repeat' first
    | with_reducible assumption | with_reducible apply keeps_ite | with_reducible apply State.setLink_keeps
    | with_reducible apply State.setFlag_keeps | with_reducible apply State.set_keeps | with_reducible apply State.raiseBit_keeps
    | with_reducible apply State.setLport_keeps | split

theorem State.signalDetect_keeps {r : State} {s : State} (i : Fin 68) (hs : Keeps r s) : Keeps r (State.signalDetect s i) := by
  unfold State.signalDetect
  repeat' first | with_reducible assumption | with_reducible apply State.when__keeps | with_reducible apply State.linkMove_keeps | intro x

theorem execLinkSignalDetect_keeps {r : State} (i : Fin 68) {s : State} (hs : Keeps r s) : ∃ t, execLinkSignalDetect i s = .next t ∧ Keeps r t := by
  unfold execLinkSignalDetect
  repeat' first
    | with_reducible assumption | with_reducible apply State.run_keeps | with_reducible apply State.signalDetect_keeps
    | (with_reducible refine ⟨_, rfl, ?_⟩) | intro x

theorem State.pckEvt_keeps {r : State} {s : State} (b : Nat) (hs : Keeps r s) : Keeps r (State.pckEvt s b) := by
  unfold State.pckEvt
  repeat' first | with_reducible assumption | with_reducible apply State.raiseBit_keeps

theorem State.upDelayResp_keeps {r : State} {s : State} (p : Fin 64) (y3 : Req) (auth : Bool) (hs : Keeps r s) : Keeps r (State.upDelayResp s p y3 auth) := by
  unfold State.upDelayResp
  repeat' first | with_reducible assumption | with_reducible apply State.setUp_keeps | lift_lets -underBinder | intro x | split

theorem State.setG_keeps {r : State} {s : State} (n : Fin 12) (a : BitVec 5) (v : DWord) (hs : Keeps r s) : Keeps r (State.setG s n a v) := by
  unfold State.setG
  repeat' first | with_reducible assumption | with_reducible apply keeps_ite | with_reducible apply State.setEng_keeps

theorem State.setFlags_keeps {r : State} {s : State} (n : Fin 12) (f : Flags) (hs : Keeps r s) : Keeps r (State.setFlags s n f) := by
  unfold State.setFlags
  repeat' first | with_reducible assumption | with_reducible apply State.setEng_keeps

theorem State.setPc_keeps {r : State} {s : State} (n : Fin 12) (pc : BitVec 16) (hs : Keeps r s) : Keeps r (State.setPc s n pc) := by
  unfold State.setPc
  repeat' first | with_reducible assumption | with_reducible apply State.setEng_keeps

theorem State.next_keeps {r : State} {s : State} (n : Fin 12) (cost : Nat) (hs : Keeps r s) : Keeps r (State.next s n cost) := by
  unfold State.next
  repeat' first | with_reducible assumption | with_reducible apply State.retired_keeps | with_reducible apply State.setPc_keeps

theorem State.write_keeps {r : State} {s : State} (n : Fin 12) (a : BitVec 5) (y4 : DWord × Flags) (setFlags : Bool) (cost : Nat) (hs : Keeps r s) : Keeps r (State.write s n a y4 setFlags cost) := by
  unfold State.write
  repeat' first
    | with_reducible assumption | with_reducible apply keeps_ite | with_reducible apply State.setG_keeps
    | with_reducible apply State.setFlags_keeps | with_reducible apply State.next_keeps

theorem State.alu_keeps {r : State} {s : State} (ws : List Word) (n : Fin 12) (a : BitVec 5) (b : BitVec 5) (c : BitVec 5) (setFlags : Bool) (cost : Nat) (op : DWord → DWord → Flags → DWord × Flags) (hs : Keeps r s) : ∃ t, State.alu s ws n a b c setFlags cost op = .next t ∧ Keeps r t := by
  unfold State.alu
  repeat' first
    | with_reducible assumption | with_reducible apply State.issue_keeps | with_reducible apply State.write_keeps
    | (with_reducible refine ⟨_, rfl, ?_⟩) | intro x

theorem execRor_keeps {r : State} (n : Fin 12) (a : BitVec 5) (b : BitVec 5) (c : BitVec 5) (setFlags : Bool) {s : State} (hs : Keeps r s) : ∃ t, execRor n a b c setFlags s = .next t ∧ Keeps r t := by
  unfold execRor
  repeat' first | with_reducible assumption | with_reducible apply State.alu_keeps | (with_reducible refine ⟨_, rfl, ?_⟩)

theorem State.alu1_keeps {r : State} {s : State} (ws : List Word) (n : Fin 12) (a : BitVec 5) (b : BitVec 5) (setFlags : Bool) (op : DWord → DWord) (hs : Keeps r s) : ∃ t, State.alu1 s ws n a b setFlags op = .next t ∧ Keeps r t := by
  unfold State.alu1
  repeat' first
    | with_reducible assumption | with_reducible apply State.issue_keeps | with_reducible apply State.write_keeps
    | (with_reducible refine ⟨_, rfl, ?_⟩) | intro x

theorem execSext32_keeps {r : State} (n : Fin 12) (a : BitVec 5) (b : BitVec 5) (setFlags : Bool) {s : State} (hs : Keeps r s) : ∃ t, execSext32 n a b setFlags s = .next t ∧ Keeps r t := by
  unfold execSext32
  repeat' first | with_reducible assumption | with_reducible apply State.alu1_keeps | (with_reducible refine ⟨_, rfl, ?_⟩)

theorem State.maskApply_keeps {r : State} {s : State} (p : Fin 64) (hs : Keeps r s) : Keeps r (State.maskApply s p) := by
  unfold State.maskApply
  repeat' first
    | with_reducible assumption | with_reducible apply keeps_ite | with_reducible apply State.setFlag_keeps
    | with_reducible apply State.set_keeps | with_reducible apply State.lchEvt_keeps | with_reducible apply State.setLport_keeps

theorem State.steerApply_keeps {r : State} {s : State} (hs : Keeps r s) : Keeps r (State.steerApply s) := by
  unfold State.steerApply
  repeat' first
    | with_reducible assumption | with_reducible apply keeps_ite | with_reducible apply State.srvEvt_keeps
    | with_reducible apply State.clearBit_keeps | with_reducible apply State.set_keeps

theorem State.recalDefer_keeps {r : State} {s : State} (i : Fin 68) (hs : Keeps r s) : Keeps r (State.recalDefer s i) := by
  unfold State.recalDefer
  repeat' first | with_reducible assumption | with_reducible apply State.setLink_keeps | with_reducible apply State.bump_keeps | split

theorem State.cycleBoundary_keeps {r : State} {s : State} (hs : Keeps r s) : Keeps r (State.cycleBoundary s) := by
  unfold State.cycleBoundary
  repeat' first
    | with_reducible assumption | with_reducible apply keeps_ite | with_reducible apply State.maskApply_keeps
    | with_reducible apply State.steerApply_keeps | with_reducible apply State.run_keeps | with_reducible apply State.recalDefer_keeps
    | with_reducible apply keeps_foldl | intro x | (fail_if_no_progress with_reducible refine keeps_mk ?_ rfl rfl)

theorem State.tbLost_keeps {r : State} {s : State} (st : Nat) (hs : Keeps r s) : Keeps r (State.tbLost s st) := by
  unfold State.tbLost
  repeat' first
    | with_reducible assumption | with_reducible apply keeps_ite | with_reducible apply State.mapTdc_keeps
    | with_reducible apply State.syncTb_keeps | with_reducible apply State.bump_keeps | with_reducible apply State.raiseBit_keeps
    | with_reducible apply State.levelOn_keeps

theorem State.kSwap_keeps {r : State} {s : State} (hs : Keeps r s) : Keeps r (State.kSwap s) := by
  unfold State.kSwap
  repeat' first
    | with_reducible assumption | with_reducible apply keeps_ite | with_reducible apply State.bump_keeps
    | with_reducible apply State.set_keeps

theorem State.kPutArea_keeps {r : State} {s : State} (n : Fin 2) (cells : List Host.Cell) (hs : Keeps r s) : Keeps r (State.kPutArea s n cells) := by
  unfold State.kPutArea
  repeat' first | with_reducible assumption | with_reducible apply State.memPut_keeps | with_reducible apply State.memCut_keeps

theorem State.kRestart_keeps {r : State} {s : State} (n : Fin 2) (c : Option Ckpt) (hs : Keeps r s) : Keeps r (State.kRestart s n c) := by
  unfold State.kRestart
  repeat' first
    | with_reducible assumption | with_reducible apply State.kPutArea_keeps | with_reducible apply State.setEng_keeps
    | with_reducible apply State.set_keeps | (with_reducible refine keeps_regs ?_ rfl rfl) | split

theorem State.setPair_keeps {r : State} {s : State} (p : KPair) (hs : Keeps r s) : Keeps r (State.setPair s p) := by
  unfold State.setPair
  repeat' first | with_reducible assumption | (fail_if_no_progress with_reducible refine keeps_mk ?_ rfl rfl)

theorem State.kpairRecord_keeps {r : State} {s : State} (outcome : Nat) (engine : Nat) (kat : Nat) (second : Nat) (d0 : Option Digest) (d1 : Option Digest) (hs : Keeps r s) : Keeps r (State.kpairRecord s outcome engine kat second d0 d1) := by
  unfold State.kpairRecord
  repeat' first | with_reducible assumption | with_reducible apply State.record_keeps

theorem State.kRestoreDue_keeps {r : State} {s : State} (hs : Keeps r s) : Keeps r (State.kRestoreDue s) := by
  unfold State.kRestoreDue
  repeat' first
    | with_reducible assumption | with_reducible apply keeps_ite | with_reducible apply State.kRestart_keeps
    | with_reducible apply State.kPutArea_keeps | with_reducible apply State.setPair_keeps | with_reducible apply State.set_keeps
    | with_reducible apply State.kpairRecord_keeps | split

theorem State.secOpen_keeps {r : State} {s : State} (unsealed : Bool) (hs : Keeps r s) : Keeps r (State.secOpen s unsealed) := by
  unfold State.secOpen
  repeat' first | with_reducible assumption | with_reducible apply State.setPair_keeps

theorem State.checkpoint_keeps {r : State} {s : State} (y2 : SecRec) (hs : Keeps r s) : Keeps r (State.checkpoint s y2) := by
  unfold State.checkpoint
  repeat' first
    | with_reducible assumption | with_reducible apply State.setPair_keeps | with_reducible apply State.setFlag_keeps
    | (fail_if_no_progress with_reducible refine keeps_mk ?_ rfl rfl)

theorem State.resume_keeps {r : State} {s : State} (y2 : SecRec) (hs : Keeps r s) : Keeps r (State.resume s y2) := by
  unfold State.resume
  repeat' first
    | with_reducible assumption | with_reducible apply State.setFlag_keeps | with_reducible apply State.setPair_keeps
    | with_reducible apply State.kpairRecord_keeps

theorem State.secRecord_keeps {r : State} {s : State} (y2 : SecRec) (kflags : Nat) (hs : Keeps r s) : Keeps r (State.secRecord s y2 kflags) := by
  unfold State.secRecord
  repeat' first
    | with_reducible assumption | with_reducible apply keeps_ite | with_reducible apply State.mkRecordBy_keeps
    | (fail_if_no_progress with_reducible refine keeps_mk ?_ rfl rfl)

theorem State.settle_keeps {r : State} {s : State} (y2 : SecRec) (kflags : Nat) (hs : Keeps r s) : Keeps r (State.settle s y2 kflags) := by
  unfold State.settle
  repeat' first | with_reducible assumption | with_reducible apply State.secRecord_keeps | with_reducible apply State.setPair_keeps

theorem State.compareFrozen_keeps {r : State} {s : State} (y2 : SecRec) (same : Bool) (hs : Keeps r s) : Keeps r (State.compareFrozen s y2 same) := by
  unfold State.compareFrozen
  repeat' first
    | with_reducible assumption | with_reducible apply keeps_ite | with_reducible apply State.checkpoint_keeps
    | with_reducible apply State.set_keeps | with_reducible apply State.resume_keeps | with_reducible apply State.settle_keeps
    | with_reducible apply State.setFlag_keeps | with_reducible apply State.kpairRecord_keeps

theorem State.kCompare_keeps {r : State} {s : State} (hs : Keeps r s) : Keeps r (State.kCompare s) := by
  unfold State.kCompare
  repeat' first
    | with_reducible assumption | with_reducible apply State.compareFrozen_keeps | with_reducible apply State.settle_keeps
    | with_reducible apply State.checkpoint_keeps | with_reducible apply State.setFlag_keeps | with_reducible apply State.kpairRecord_keeps
    | with_reducible apply State.setPair_keeps | with_reducible apply State.kRestart_keeps | lift_lets -underBinder | intro x | split

theorem State.freezeReq_keeps {r : State} {s : State} (freq : DWord) (hs : Keeps r s) : Keeps r (State.freezeReq s freq) := by
  unfold State.freezeReq
  repeat' first | with_reducible assumption | with_reducible apply keeps_ite | (fail_if_no_progress with_reducible refine keeps_mk ?_ rfl rfl)

theorem State.freeze_keeps {r : State} {s : State} (y2 : SecRec) (hs : Keeps r s) : Keeps r (State.freeze s y2) := by
  unfold State.freeze
  repeat' first
    | with_reducible assumption | with_reducible apply keeps_ite | with_reducible apply State.setPair_keeps
    | with_reducible apply State.set_keeps | with_reducible apply State.setFlag_keeps | with_reducible apply State.freezeReq_keeps
    | with_reducible apply State.bump_keeps | with_reducible apply State.setServo_keeps | with_reducible apply State.raise_keeps
    | with_reducible apply State.leashWiden_keeps | with_reducible apply State.settle_keeps | with_reducible apply State.kpairRecord_keeps

theorem State.recomputeEnd_keeps {r : State} {s : State} (hs : Keeps r s) : Keeps r (State.recomputeEnd s) := by
  unfold State.recomputeEnd
  repeat' first
    | with_reducible assumption | with_reducible apply State.checkpoint_keeps | with_reducible apply State.setPair_keeps
    | with_reducible apply State.fwArrive_keeps | with_reducible apply State.raise_keeps | with_reducible apply State.bump_keeps
    | with_reducible apply State.settle_keeps | with_reducible apply State.kpairRecord_keeps | with_reducible apply State.freeze_keeps
    | with_reducible apply keeps_foldl | lift_lets -underBinder | intro x | split

theorem State.pairOverdue_keeps {r : State} {s : State} (hs : Keeps r s) : Keeps r (State.pairOverdue s) := by
  unfold State.pairOverdue
  repeat' first
    | with_reducible assumption | with_reducible apply keeps_ite | with_reducible apply State.kCompare_keeps
    | with_reducible apply State.recomputeEnd_keeps

theorem State.pairBoundary_keeps {r : State} {s : State} (unsealed : Bool) (hs : Keeps r s) : Keeps r (State.pairBoundary s unsealed) := by
  unfold State.pairBoundary
  repeat' first
    | with_reducible assumption | with_reducible apply keeps_ite | with_reducible apply State.kSwap_keeps
    | with_reducible apply State.kRestoreDue_keeps | with_reducible apply State.secOpen_keeps | with_reducible apply State.pairOverdue_keeps

theorem State.regsWrite_keeps {r : State} {s : State} (m : Master) (a : Nat) (y4 : List Word) (hs : Keeps r s) : Keeps r (State.regsWrite s m a y4).2 := by
  induction y4 generalizing s a with
  | nil => exact hs
  | cons w t ih =>
    unfold State.regsWrite
    have h1 := State.busWrite32_keeps m a w hs
    dsimp only
    split
    · exact h1
    · exact ih (a + 4) h1

theorem State.setTdc_keeps {r : State} {s : State} (c : Fin 16) (y3 : TdcCh) (hs : Keeps r s) : Keeps r (State.setTdc s c y3) := by
  unfold State.setTdc
  repeat' first | with_reducible assumption | (fail_if_no_progress with_reducible refine keeps_mk ?_ rfl rfl)

theorem State.tdcMiss_keeps {r : State} {s : State} (c : Fin 16) (hs : Keeps r s) : Keeps r (State.tdcMiss s c) := by
  unfold State.tdcMiss
  repeat' first | with_reducible assumption | with_reducible apply State.bump_keeps | with_reducible apply State.setTdc_keeps

theorem State.convert_keeps {r : State} {s : State} (lc : Time) (hs : Keeps r s) : Keeps r (State.convert s lc).2 := by
  unfold State.convert
  repeat' first | with_reducible assumption | with_reducible apply State.timeStat_keeps | split

theorem State.syncTdc_keeps {r : State} {s : State} (c : Fin 16) (hs : Keeps r s) : Keeps r (State.syncTdc s c) := by
  unfold State.syncTdc
  repeat' first | with_reducible assumption | with_reducible apply State.setFlag_keeps

theorem State.tdcForm_keeps {r : State} {s : State} (c : Fin 16) (ib : Bool) (short : Bool) (code : Nat) (lc : Time) (hs : Keeps r s) : Keeps r (State.tdcForm s c ib short code lc) := by
  unfold State.tdcForm
  repeat' first
    | with_reducible assumption | with_reducible apply keeps_ite | with_reducible apply State.convert_keeps
    | with_reducible apply State.set_keeps | with_reducible apply State.bump_keeps | with_reducible apply State.obs_keeps
    | with_reducible apply State.setTdc_keeps | with_reducible apply State.syncTdc_keeps | with_reducible apply State.raise_keeps
    | with_reducible apply State.raiseBit_keeps

theorem State.tdcConvert_keeps {r : State} {s : State} (c : Fin 16) (code : Nat) (short : Bool) (hs : Keeps r s) : Keeps r (State.tdcConvert s c code short) := by
  unfold State.tdcConvert
  repeat' first
    | with_reducible assumption | with_reducible apply keeps_ite | with_reducible apply State.tdcMiss_keeps
    | with_reducible apply State.tdcForm_keeps | with_reducible apply State.setTdc_keeps

theorem State.tdcEdge_keeps {r : State} {s : State} (c : Fin 16) (code : Nat) (short : Bool) (hs : Keeps r s) : Keeps r (State.tdcEdge s c code short) := by
  unfold State.tdcEdge
  repeat' first
    | with_reducible assumption | with_reducible apply keeps_ite | with_reducible apply State.setTdc_keeps
    | with_reducible apply State.tdcConvert_keeps

theorem State.sourceEdge_keeps {r : State} {s : State} (src : Nat) (falling : Bool) (width : Nat) (codes : List Nat) (hs : Keeps r s) : Keeps r (State.sourceEdge s src falling width codes) := by
  unfold State.sourceEdge
  repeat' first
    | with_reducible assumption | with_reducible apply keeps_ite | with_reducible apply State.forN_keeps
    | with_reducible apply State.tdcEdge_keeps | intro x | split

theorem State.randomEdge_keeps {r : State} {s : State} (codes : List Nat) (hs : Keeps r s) : Keeps r (State.randomEdge s codes) := by
  unfold State.randomEdge
  repeat' first
    | with_reducible assumption | with_reducible apply State.forN_keeps | with_reducible apply State.setTdc_keeps
    | with_reducible apply State.sourceEdge_keeps | lift_lets -underBinder | intro x | split

theorem execRandomEdge_keeps {r : State} (codes : List Nat) {s : State} (hs : Keeps r s) : ∃ t, execRandomEdge codes s = .next t ∧ Keeps r t := by
  unfold execRandomEdge
  repeat' first | with_reducible assumption | with_reducible apply State.randomEdge_keeps | (with_reducible refine ⟨_, rfl, ?_⟩)

theorem State.inletPut_keeps {r : State} {s : State} (typ : Nat) (bytes : List Byte) (hs : Keeps r s) : Keeps r (State.inletPut s typ bytes) := by
  unfold State.inletPut
  repeat' first
    | with_reducible assumption | with_reducible apply keeps_ite | with_reducible apply State.obs_keeps
    | (fail_if_no_progress with_reducible refine keeps_mk ?_ rfl rfl)

theorem State.phaseCheck_keeps {r : State} {s : State} (k : Fin 4) (hs : Keeps r s) : Keeps r (State.phaseCheck s k) := by
  unfold State.phaseCheck
  repeat' first
    | with_reducible assumption | with_reducible apply keeps_ite | with_reducible apply State.setPll_keeps
    | with_reducible apply State.raise_keeps | with_reducible apply State.forN_keeps | with_reducible apply State.setFlag_keeps | intro x

theorem State.latSync_keeps {r : State} {s : State} (p : Fin 64) (hs : Keeps r s) : Keeps r (State.latSync s p) := by
  unfold State.latSync
  repeat' first | with_reducible assumption | with_reducible apply State.run_keeps | with_reducible apply State.set_keeps | intro x

theorem State.setModeAct_keeps {r : State} {s : State} (p : Fin 64) (m : Nat) (hs : Keeps r s) : Keeps r (State.setModeAct s p m) := by
  unfold State.setModeAct
  repeat' first
    | with_reducible assumption | with_reducible apply State.setLink_keeps | with_reducible apply State.latSync_keeps
    | with_reducible apply State.set_keeps

theorem State.cfgApply_keeps {r : State} {s : State} (i : Fin 68) (hs : Keeps r s) : Keeps r (State.cfgApply s i) := by
  unfold State.cfgApply
  repeat' first
    | with_reducible assumption | with_reducible apply keeps_ite | with_reducible apply State.setLink_keeps
    | with_reducible apply State.linkMove_keeps | with_reducible apply State.portSync_keeps | with_reducible apply State.setFlag_keeps
    | with_reducible apply State.setModeAct_keeps | split

theorem execPortCfgApply_keeps {r : State} (i : Fin 68) {s : State} (hs : Keeps r s) : ∃ t, execPortCfgApply i s = .next t ∧ Keeps r t := by
  unfold execPortCfgApply
  repeat' first
    | with_reducible assumption | with_reducible apply State.run_keeps | with_reducible apply State.cfgApply_keeps
    | (with_reducible refine ⟨_, rfl, ?_⟩) | intro x

theorem State.syspllLock_keeps {r : State} {s : State} (band : BitVec 6) (vtune : Byte) (hs : Keeps r s) : Keeps r (State.syspllLock s band vtune) := by
  unfold State.syspllLock
  repeat' first
    | with_reducible assumption | with_reducible apply keeps_ite | with_reducible apply State.setFlag_keeps
    | with_reducible apply State.set_keeps | with_reducible apply State.rootTo_keeps

theorem execSyspllLock_keeps {r : State} (band : BitVec 6) (vtune : Byte) {s : State} (hs : Keeps r s) : ∃ t, execSyspllLock band vtune s = .next t ∧ Keeps r t := by
  unfold execSyspllLock
  repeat' first | with_reducible assumption | with_reducible apply State.syspllLock_keeps | (with_reducible refine ⟨_, rfl, ?_⟩)

theorem execEngGateClear_keeps {r : State} (m : Master) (n : Fin 12) {s : State} (hs : Keeps r s) : ∃ t, execEngGateClear m n s = .next t ∧ Keeps r t := by
  unfold execEngGateClear
  repeat' first | with_reducible assumption | with_reducible apply State.busWrite32_keeps | (with_reducible refine ⟨_, rfl, ?_⟩)

theorem State.kpllEdges_keeps {r : State} {s : State} (edges : BitVec 4) (hs : Keeps r s) : Keeps r (State.kpllEdges s edges) := by
  unfold State.kpllEdges
  repeat' first | with_reducible assumption | (fail_if_no_progress with_reducible refine keeps_mk ?_ rfl rfl)

theorem State.kpllTake_keeps {r : State} {s : State} (k : Nat) (hs : Keeps r s) : Keeps r (State.kpllTake s k) := by
  unfold State.kpllTake
  repeat' first
    | with_reducible assumption | with_reducible apply State.set_keeps | with_reducible apply State.forN_keeps
    | with_reducible apply State.setFlag_keeps | intro x

theorem State.kpllSwitch_keeps {r : State} {s : State} (k : Nat) (hs : Keeps r s) : Keeps r (State.kpllSwitch s k) := by
  unfold State.kpllSwitch
  repeat' first
    | with_reducible assumption | with_reducible apply State.kinNote_keeps | with_reducible apply State.clkEvt_keeps
    | with_reducible apply State.bump_keeps | with_reducible apply State.kpllTake_keeps

theorem State.kpllBetter_keeps {r : State} {s : State} (edges : BitVec 4) (k : Fin 4) (hs : Keeps r s) : Keeps r (State.kpllBetter s edges k) := by
  unfold State.kpllBetter
  repeat' first
    | with_reducible assumption | with_reducible apply keeps_ite | with_reducible apply State.kpllEdges_keeps
    | with_reducible apply State.kpllSwitch_keeps

theorem execKpllBetterSource_keeps {r : State} (edges : BitVec 4) (k : Fin 4) {s : State} (hs : Keeps r s) : ∃ t, execKpllBetterSource edges k s = .next t ∧ Keeps r t := by
  unfold execKpllBetterSource
  repeat' first | with_reducible assumption | with_reducible apply State.kpllBetter_keeps | (with_reducible refine ⟨_, rfl, ?_⟩)

theorem State.ptpReply_keeps {r : State} {s : State} (k : Fin 8) (y3 : Req) (event : Bool) (m : PtpMsg) (tlvs : List Byte) (signed : Bool) (y8 : Launch) (hs : Keeps r s) : Keeps r (State.ptpReply s k y3 event m tlvs signed y8).2 := by
  unfold State.ptpReply
  repeat' first
    | with_reducible assumption | with_reducible apply keeps_ite | with_reducible apply State.poolRet_keeps
    | with_reducible apply State.drawn_keeps | with_reducible apply State.servLaunch_keeps | split

theorem State.delayReply_keeps {r : State} {s : State} (k : Fin 8) (y3 : Req) (hs : Keeps r s) : Keeps r (State.delayReply s k y3) := by
  unfold State.delayReply
  repeat' first
    | with_reducible assumption | with_reducible apply keeps_ite | with_reducible apply State.poolRet_keeps
    | with_reducible apply State.ptpReply_keeps

theorem State.hold_keeps {r : State} {s : State} (n : Fin 12) (y3 : Held) (hs : Keeps r s) : Keeps r (State.hold s n y3) := by
  unfold State.hold
  repeat' first | with_reducible assumption | with_reducible apply State.setEng_keeps

theorem State.afterDrain_keeps {r : State} {s : State} (n : Fin 12) (y3 : Held) {f : State → State} (hs : Keeps r s) (hf : (∀ s, Keeps r s → Keeps r (f s))) : Keeps r (State.afterDrain s n y3 f) := by
  unfold State.afterDrain
  repeat' first | with_reducible assumption | with_reducible apply keeps_ite | with_reducible apply hf | with_reducible apply State.hold_keeps

theorem State.bypassOuts_keeps {r : State} {s : State} (k : Nat) (hs : Keeps r s) : Keeps r (State.bypassOuts s k) := by
  unfold State.bypassOuts
  repeat' first
    | with_reducible assumption | with_reducible apply State.raiseBit_keeps | with_reducible apply State.gsiCheck_keeps
    | with_reducible apply State.forN_keeps | with_reducible apply State.set_keeps | intro x

theorem State.pllEnter_keeps {r : State} {s : State} (k : Fin 4) (st : Nat) (hs : Keeps r s) : Keeps r (State.pllEnter s k st) := by
  unfold State.pllEnter
  repeat' first
    | with_reducible assumption | with_reducible apply keeps_ite | with_reducible apply State.set_keeps
    | with_reducible apply State.setPll_keeps | with_reducible apply State.setFlag_keeps | with_reducible apply State.bypassOuts_keeps
    | with_reducible apply State.raise_keeps | with_reducible apply State.synEvt_keeps | with_reducible apply State.bump_keeps

theorem State.settleTimeout_keeps {r : State} {s : State} (k : Fin 4) (hs : Keeps r s) : Keeps r (State.settleTimeout s k) := by
  unfold State.settleTimeout
  repeat' first
    | with_reducible assumption | with_reducible apply keeps_ite | with_reducible apply State.pllEnter_keeps
    | with_reducible apply State.setPll_keeps

theorem execPllSettleTimeout_keeps {r : State} (k : Fin 4) {s : State} (hs : Keeps r s) : ∃ t, execPllSettleTimeout k s = .next t ∧ Keeps r t := by
  unfold execPllSettleTimeout
  repeat' first | with_reducible assumption | with_reducible apply State.settleTimeout_keeps | (with_reducible refine ⟨_, rfl, ?_⟩)

theorem State.rangesSoft_keeps {r : State} {s : State} (rs : List (Nat × Nat)) (hs : Keeps r s) : Keeps r (State.rangesSoft s rs) := by
  unfold State.rangesSoft
  repeat' first | with_reducible assumption | with_reducible apply State.sramSoft_keeps | with_reducible apply keeps_foldl | intro x

theorem State.macJob_keeps {r : State} {s : State} (j : UJob) (mac : List Byte → List Byte → List Byte) (cap : Nat) (hs : Keeps r s) : Keeps r (State.macJob s j mac cap) := by
  unfold State.macJob
  repeat' first
    | with_reducible assumption | with_reducible apply keeps_ite | with_reducible apply State.aeadDone_keeps
    | with_reducible apply State.rangesSoft_keeps | with_reducible apply State.setBytes_keeps | split

theorem execAeadCmac_keeps {r : State} (n : Fin 12) (num : Fin 16) {s : State} (hs : Keeps r s) : ∃ t, execAeadCmac n num s = .next t ∧ Keeps r t := by
  unfold execAeadCmac
  repeat' first
    | with_reducible assumption | with_reducible apply State.runJob_keeps | with_reducible apply State.macJob_keeps
    | (with_reducible refine ⟨_, rfl, ?_⟩) | intro x

theorem State.uplinkRecord_keeps {r : State} {s : State} (i : Fin 68) (y3 : ExRec) (hs : Keeps r s) : Keeps r (State.uplinkRecord s i y3) := by
  unfold State.uplinkRecord
  repeat' first
    | with_reducible assumption | with_reducible apply keeps_ite | with_reducible apply State.inletPut_keeps
    | with_reducible apply State.drawn_keeps | (fail_if_no_progress with_reducible refine keeps_mk ?_ rfl rfl)

theorem State.exDone_keeps {r : State} {s : State} (i : Fin 68) (e : Exch) (y4 : PackRx) (t1 : Nat) (t2 : Nat) (t4 : Nat) (hs : Keeps r s) : Keeps r (State.exDone s i e y4 t1 t2 t4) := by
  unfold State.exDone
  repeat' first
    | with_reducible assumption | with_reducible apply keeps_ite | with_reducible apply State.setAtt_keeps
    | with_reducible apply State.set_keeps | with_reducible apply State.obs_keeps | with_reducible apply State.uplinkRecord_keeps
    | (fail_if_no_progress with_reducible refine keeps_mk ?_ rfl rfl)

theorem State.driftEval_keeps {r : State} {s : State} (n : Fin 23) (hs : Keeps r s) : Keeps r (State.driftEval s n) := by
  unfold State.driftEval
  repeat' first
    | with_reducible assumption | with_reducible apply keeps_ite | with_reducible apply State.noTtr_keeps
    | with_reducible apply State.set_keeps | with_reducible apply State.maskBit_keeps | with_reducible apply State.setFlag_keeps
    | with_reducible apply State.raise_keeps | with_reducible apply State.raiseBit_keeps

theorem State.refBoundary1_keeps {r : State} {s : State} (n : Fin 23) (hs : Keeps r s) : Keeps r (State.refBoundary1 s n) := by
  unfold State.refBoundary1
  repeat' first
    | with_reducible assumption | with_reducible apply keeps_ite | with_reducible apply State.setRef_keeps
    | with_reducible apply State.setFlag_keeps | with_reducible apply State.set_keeps | with_reducible apply State.noY_keeps
    | with_reducible apply State.disqualify_keeps | with_reducible apply State.refMove_keeps | with_reducible apply State.bump_keeps
    | with_reducible apply State.driftEval_keeps | split

theorem State.heldSync_keeps {r : State} {s : State} (hs : Keeps r s) : Keeps r (State.heldSync s) := by
  unfold State.heldSync
  dsimp only
  refine keeps_mk (keeps_foldl1 hs ?_) rfl rfl
  intro t ht a x
  obtain ⟨q, before⟩ := x
  dsimp only
  split
  · exact ht
  · split
    · exact ht
    · exact State.obs_keeps _ _ _ (State.bump_keeps _ _ _ ht)

theorem State.request_keeps {r : State} {s : State} (m : Fin 16) (a : Nat) (op : MOp) (hs : Keeps r s) : Keeps r (State.request s m a op) := by
  unfold State.request
  repeat' first
    | with_reducible assumption | with_reducible apply State.heldSync_keeps | (fail_if_no_progress with_reducible refine keeps_mk ?_ rfl rfl)

theorem State.bufferStore_keeps {r : State} {s : State} (n : Fin 12) (a : Nat) (bs : List Byte) (hs : Keeps r s) : Keeps r (State.bufferStore s n a bs) := by
  unfold State.bufferStore
  repeat' first | with_reducible assumption | with_reducible apply State.request_keeps | with_reducible apply State.setEng_keeps

theorem State.matrixStore_keeps {r : State} {s : State} (n : Fin 12) (a : Nat) (bs : List Byte) (cost : Nat) (hs : Keeps r s) : Keeps r (State.matrixStore s n a bs cost) := by
  unfold State.matrixStore
  repeat' first
    | with_reducible assumption | with_reducible apply keeps_ite | with_reducible apply State.next_keeps
    | with_reducible apply State.bufferStore_keeps | with_reducible apply State.hold_keeps

theorem State.reply_keeps {r : State} {s : State} (w : Word) (hs : Keeps r s) : Keeps r (State.reply s w) := by
  unfold State.reply
  repeat' first | with_reducible assumption | (fail_if_no_progress with_reducible refine keeps_mk ?_ rfl rfl)

theorem State.mbClaim_keeps {r : State} {s : State} (m : Master) (hs : Keeps r s) : Keeps r (State.mbClaim s m).2 := by
  unfold State.mbClaim
  repeat' first
    | with_reducible assumption | with_reducible apply State.mbStamp_keeps | with_reducible apply State.setMbOwner_keeps
    | with_reducible apply State.setMbState_keeps | split

theorem State.latchAll_keeps {r : State} {s : State} (m : Master) (a : Nat) (n : Nat) (hs : Keeps r s) : Keeps r (State.latchAll s m a n) := by
  unfold State.latchAll
  repeat' first | with_reducible assumption | (fail_if_no_progress with_reducible refine keeps_mk ?_ rfl rfl)

theorem State.readWord_keeps {r : State} {s : State} (m : Master) (a : Nat) (hs : Keeps r s) : Keeps r (State.readWord s m a).2 := by
  unfold State.readWord
  repeat' first | with_reducible assumption | with_reducible apply State.latchAll_keeps | split

theorem State.busRead32_keeps {r : State} {s : State} (m : Master) (a : Nat) (hs : Keeps r s) : Keeps r (State.busRead32 s m a) := by
  unfold State.busRead32
  repeat' first
    | with_reducible assumption | with_reducible apply State.replyErr_keeps | with_reducible apply State.unmappedAt_keeps
    | with_reducible apply State.reply_keeps | with_reducible apply State.corrected_keeps | with_reducible apply State.mbClaim_keeps
    | with_reducible apply State.readWord_keeps | split

theorem State.regsRead_keeps {r : State} {s : State} (m : Master) (a : Nat) (y4 : Nat) (hs : Keeps r s) : Keeps r (State.regsRead s m a y4).2 := by
  induction y4 generalizing s a with
  | zero => exact hs
  | succ n ih =>
    unfold State.regsRead
    have h1 := State.busRead32_keeps m a hs
    have h2 := ih (a + 4) h1
    dsimp only
    split
    · split
      · exact keeps_snd ‹_› h2
      · exact keeps_snd ‹_› h2
    · exact h1

theorem State.engRegs_keeps {r : State} {s : State} (n : Fin 12) (off : Nat) (op : MOp) (hs : Keeps r s) : Keeps r (State.engRegs s n off op).2 := by
  unfold State.engRegs
  repeat' first
    | with_reducible assumption | with_reducible apply State.regsRead_keeps | with_reducible apply State.regsWrite_keeps
    | with_reducible refine keeps_snd ‹_› ?_ | (fail_if_no_progress with_reducible refine keeps_mk ?_ rfl rfl) | split

theorem State.storeOp_keeps {r : State} {s : State} (n : Fin 12) (b : BitVec 5) (imm : BitVec 16) (bs : List Byte) (cost : Nat) (hs : Keeps r s) : Keeps r (State.storeOp s n b imm bs cost) := by
  unfold State.storeOp
  repeat' first
    | with_reducible assumption | with_reducible apply keeps_ite | with_reducible apply State.trap_keeps
    | with_reducible apply State.next_keeps | with_reducible apply State.setBytes_keeps | with_reducible apply State.matrixStore_keeps
    | with_reducible apply State.engRegs_keeps | with_reducible refine keeps_snd ‹_› ?_ | split

theorem State.storeInst_keeps {r : State} {s : State} (ws : List Word) (n : Fin 12) (y4 : EReg) (b : BitVec 5) (imm : BitVec 16) (v : Nat) (len : Nat) (cost : Nat) (hs : Keeps r s) : ∃ t, State.storeInst s ws n y4 b imm v len cost = .next t ∧ Keeps r t := by
  unfold State.storeInst
  repeat' first
    | with_reducible assumption | with_reducible apply State.issue_keeps | with_reducible apply State.storeOp_keeps
    | (with_reducible refine ⟨_, rfl, ?_⟩) | intro x

theorem execSw_keeps {r : State} (n : Fin 12) (a : BitVec 5) (b : BitVec 5) (imm : BitVec 16) {s : State} (hs : Keeps r s) : ∃ t, execSw n a b imm s = .next t ∧ Keeps r t := by
  unfold execSw
  repeat' first | with_reducible assumption | with_reducible apply State.storeInst_keeps | (with_reducible refine ⟨_, rfl, ?_⟩)

theorem State.dmemSoft_keeps {r : State} {s : State} (n : Fin 12) (k : Nat) (hs : Keeps r s) : Keeps r (State.dmemSoft s n k) := by
  unfold State.dmemSoft
  repeat' first
    | with_reducible assumption | with_reducible apply keeps_ite | with_reducible apply State.slot_keeps
    | with_reducible apply State.corrected_keeps | with_reducible apply State.costMore_keeps

theorem State.amoResult_keeps {r : State} {s : State} (n : Fin 12) (op : Amo) (a : BitVec 5) (y5 : DWord) (old : DWord) (hs : Keeps r s) : Keeps r (State.amoResult s n op a y5 old) := by
  unfold State.amoResult
  repeat' first
    | with_reducible assumption | with_reducible apply keeps_ite | with_reducible apply State.setFlags_keeps
    | with_reducible apply State.setG_keeps

theorem State.tryRead_keeps {r : State} {s : State} (n : Fin 12) (hs : Keeps r s) : Keeps r (State.tryRead s n) := by
  unfold State.tryRead
  repeat' first | with_reducible assumption | with_reducible apply State.request_keeps | split

theorem State.amoOp_keeps {r : State} {s : State} (n : Fin 12) (op : Amo) (a : BitVec 5) (b : BitVec 5) (c : BitVec 5) (hs : Keeps r s) : Keeps r (State.amoOp s n op a b c) := by
  unfold State.amoOp
  repeat' first
    | with_reducible assumption | with_reducible apply keeps_ite | with_reducible apply State.trap_keeps
    | with_reducible apply State.dmemSoft_keeps | with_reducible apply State.next_keeps | with_reducible apply State.amoResult_keeps
    | with_reducible apply State.setBytes_keeps | with_reducible apply State.tryRead_keeps | with_reducible apply State.hold_keeps | split

theorem State.amo_keeps {r : State} {s : State} (ws : List Word) (n : Fin 12) (op : Amo) (a : BitVec 5) (b : BitVec 5) (c : BitVec 5) (hs : Keeps r s) : ∃ t, State.amo s ws n op a b c = .next t ∧ Keeps r t := by
  unfold State.amo
  repeat' first
    | with_reducible assumption | with_reducible apply State.issue_keeps | with_reducible apply State.amoOp_keeps
    | (with_reducible refine ⟨_, rfl, ?_⟩) | intro x

theorem execAor_keeps {r : State} (n : Fin 12) (a : BitVec 5) (b : BitVec 5) (c : BitVec 5) {s : State} (hs : Keeps r s) : ∃ t, execAor n a b c s = .next t ∧ Keeps r t := by
  unfold execAor
  repeat' first | with_reducible assumption | with_reducible apply State.amo_keeps | (with_reducible refine ⟨_, rfl, ?_⟩)

theorem State.transfer_keeps {r : State} {s : State} (n : Fin 12) (taken : Bool) (target : BitVec 16) (hs : Keeps r s) : Keeps r (State.transfer s n taken target) := by
  unfold State.transfer
  repeat' first
    | with_reducible assumption | with_reducible apply keeps_ite | with_reducible apply State.retired_keeps
    | with_reducible apply State.setPc_keeps | with_reducible apply State.next_keeps

theorem execCall_keeps {r : State} (n : Fin 12) (a : BitVec 5) (imm : BitVec 16) {s : State} (hs : Keeps r s) : ∃ t, execCall n a imm s = .next t ∧ Keeps r t := by
  unfold execCall
  repeat' first
    | with_reducible assumption | with_reducible apply State.issue_keeps | with_reducible apply State.transfer_keeps
    | with_reducible apply State.setG_keeps | (with_reducible refine ⟨_, rfl, ?_⟩) | intro x

theorem State.mbStepEnd_keeps {r : State} {s : State} (code : Nat) (hs : Keeps r s) : Keeps r (State.mbStepEnd s code) := by
  unfold State.mbStepEnd
  repeat' first | with_reducible assumption | with_reducible apply State.mbFinish_keeps | split

theorem State.stepRecord_keeps {r : State} {s : State} (o : StepOrd) (before : Time) (hs : Keeps r s) : Keeps r (State.stepRecord s o before) := by
  unfold State.stepRecord
  repeat' first
    | with_reducible assumption | with_reducible apply State.record_keeps | with_reducible apply State.set_keeps
    | with_reducible apply State.mbStepEnd_keeps | with_reducible apply State.timeStat_keeps
    | (fail_if_no_progress with_reducible refine keeps_mk ?_ rfl rfl)

theorem State.newSet_keeps {r : State} {s : State} (c : CorrSet) (kind : Nat) (step : Time) (hs : Keeps r s) : Keeps r (State.newSet s c kind step) := by
  unfold State.newSet
  repeat' first
    | with_reducible assumption | with_reducible apply keeps_ite | with_reducible apply State.set_keeps
    | (fail_if_no_progress with_reducible refine keeps_mk ?_ rfl rfl)

theorem State.carryLess_keeps {r : State} {s : State} (ps : Nat) (hs : Keeps r s) : Keeps r (State.carryLess s ps) := by
  unfold State.carryLess
  repeat' first
    | with_reducible assumption | with_reducible apply keeps_ite | with_reducible apply State.showHold_keeps
    | (fail_if_no_progress with_reducible refine keeps_mk ?_ rfl rfl)

theorem State.outRealign_keeps {r : State} {s : State} (j : Nat) (hs : Keeps r s) : Keeps r (State.outRealign s j) := by
  unfold State.outRealign
  repeat' first | with_reducible assumption | with_reducible apply keeps_ite | with_reducible apply State.set_keeps

theorem State.stepRealign_keeps {r : State} {s : State} (hs : Keeps r s) : Keeps r (State.stepRealign s) := by
  unfold State.stepRealign
  repeat' first
    | with_reducible assumption | with_reducible apply keeps_ite | with_reducible apply State.forN_keeps
    | with_reducible apply State.outRealign_keeps | with_reducible apply State.synEvt_keeps | intro x

theorem State.syncSlew_keeps {r : State} {s : State} (hs : Keeps r s) : Keeps r (State.syncSlew s) := by
  unfold State.syncSlew
  repeat' first | with_reducible assumption | with_reducible apply State.setFlag_keeps

theorem State.applyMerge_keeps {r : State} {s : State} (m : Merge) (hs : Keeps r s) : Keeps r (State.applyMerge s m) := by
  unfold State.applyMerge
  repeat' first
    | with_reducible assumption | with_reducible apply keeps_ite | with_reducible apply State.timeStat_keeps
    | with_reducible apply State.mbStepEnd_keeps | with_reducible apply State.stepRecord_keeps | with_reducible apply State.newSet_keeps
    | with_reducible apply State.obs_keeps | with_reducible apply State.carryLess_keeps | with_reducible apply State.launchAgain_keeps
    | with_reducible apply State.phaseAgain_keeps | with_reducible apply State.stepRealign_keeps | with_reducible apply State.syncSlew_keeps
    | with_reducible apply keeps_foldl | intro x | (fail_if_no_progress with_reducible refine keeps_mk ?_ rfl rfl)

theorem State.stepSn_keeps {r : State} {s : State} (hs : Keeps r s) : Keeps r (State.stepSn s) := by
  unfold State.stepSn
  repeat' first
    | with_reducible assumption | with_reducible apply keeps_ite | with_reducible apply State.stepRecord_keeps
    | with_reducible apply State.launchAgain_keeps | with_reducible apply State.phaseAgain_keeps
    | with_reducible apply State.stepRealign_keeps | with_reducible apply State.newSet_keeps | with_reducible apply keeps_foldl | intro x
    | (fail_if_no_progress with_reducible refine keeps_mk ?_ rfl rfl)

theorem State.updateTick_keeps {r : State} {s : State} (hs : Keeps r s) : Keeps r (State.updateTick s) := by
  unfold State.updateTick
  repeat' first
    | with_reducible assumption | with_reducible apply keeps_ite | with_reducible apply State.applyMerge_keeps
    | with_reducible apply State.stepSn_keeps

theorem State.takeProposal_keeps {r : State} {s : State} (f : BraceFrame) (hs : Keeps r s) : Keeps r (State.takeProposal s f) := by
  unfold State.takeProposal
  repeat' first | with_reducible assumption | with_reducible apply keeps_ite | with_reducible apply State.setBrc_keeps

theorem State.trainTimeout_keeps {r : State} {s : State} (i : Fin 68) (hs : Keeps r s) : Keeps r (State.trainTimeout s i) := by
  unfold State.trainTimeout
  repeat' first | with_reducible assumption | with_reducible apply State.when__keeps | with_reducible apply State.linkMove_keeps | intro x

theorem State.mbxStore_keeps {r : State} {s : State} (n : Fin 12) (f : Fld) (b : BitVec 5) (hs : Keeps r s) : Keeps r (State.mbxStore s n f b) := by
  unfold State.mbxStore
  repeat' first
    | with_reducible assumption | with_reducible apply keeps_ite | with_reducible apply State.trap_keeps
    | with_reducible apply State.matrixStore_keeps

theorem execTempStaleTimeout_keeps {r : State} (k : Fin 4) {s : State} (hs : Keeps r s) : ∃ t, execTempStaleTimeout k s = .next t ∧ Keeps r t := by
  unfold execTempStaleTimeout
  repeat' first
    | with_reducible assumption | with_reducible apply State.when__keeps | with_reducible apply State.tintNow_keeps
    | with_reducible apply State.setOsc_keeps | with_reducible apply State.raise_keeps | with_reducible apply State.raiseBit_keeps
    | (with_reducible refine ⟨_, rfl, ?_⟩) | intro x

theorem State.oscFreqs_keeps {r : State} {s : State} (hs : Keeps r s) : Keeps r (State.oscFreqs s) := by
  unfold State.oscFreqs
  repeat' first | with_reducible assumption | with_reducible apply State.set_keeps | with_reducible apply keeps_foldl | intro x | split

end Sys2Proof.Machine
end

