-- ==== Sys2Proof/Laws/Keeps5.lean ====
section
/-! SUPPORT. What every operation keeps, continued: one lemma per operation, callees first (part 5). -/

set_option linter.all false

namespace Sys2Proof.Machine

theorem State.jobSoft_keeps {r : State} {s : State} (n : Fin 12) (a : Nat) (len : Nat) (hs : Keeps r s) : Keeps r (State.jobSoft s n a len) := by
  unfold State.jobSoft
  repeat' first
    | with_reducible assumption | with_reducible apply State.sramSoft_keeps | with_reducible apply State.corrected_keeps
    | lift_lets -underBinder | intro x | split

theorem State.unitDone_keeps {r : State} {s : State} (j : UJob) (status : Nat) (value : Nat) (hs : Keeps r s) : Keeps r (State.unitDone s j status value) := by
  unfold State.unitDone
  repeat' first
    | with_reducible assumption | with_reducible apply keeps_ite | with_reducible apply State.jobDone_keeps
    | with_reducible apply State.memErr_keeps

theorem State.hashJob_keeps {r : State} {s : State} (j : UJob) (y3 : List Byte → List Byte → List Byte) (keyed : Bool) (outLen : Nat) (hs : Keeps r s) : Keeps r (State.hashJob s j y3 keyed outLen) := by
  unfold State.hashJob
  repeat' first
    | with_reducible assumption | with_reducible apply State.jobSoft_keeps | with_reducible apply State.unitDone_keeps
    | with_reducible apply State.setBytes_keeps | lift_lets -underBinder | intro x | split

theorem execJobSiphash64_keeps {r : State} (n : Fin 12) (num : Fin 16) {s : State} (hs : Keeps r s) : ∃ t, execJobSiphash64 n num s = .next t ∧ Keeps r t := by
  unfold execJobSiphash64
  repeat' first
    | with_reducible assumption | with_reducible apply State.runJob_keeps | with_reducible apply State.hashJob_keeps
    | (with_reducible refine ⟨_, rfl, ?_⟩) | intro x

theorem State.msgHold_keeps {r : State} {s : State} (f : Nat) (hs : Keeps r s) : Keeps r (State.msgHold s f) := by
  unfold State.msgHold
  repeat' first | with_reducible assumption | (fail_if_no_progress with_reducible refine keeps_mk ?_ rfl rfl)

theorem State.fnSync_keeps {r : State} {s : State} (f : Nat) (hs : Keeps r s) : Keeps r (State.fnSync s f) := by
  unfold State.fnSync
  repeat' first
    | with_reducible assumption | with_reducible apply keeps_ite | with_reducible apply State.chSync_keeps | with_reducible apply keeps_foldl
    | intro x

theorem State.fnBit_keeps {r : State} {s : State} (b : Nat) (on : Bool) (hs : Keeps r s) : Keeps r (State.fnBit s b on) := by
  unfold State.fnBit
  repeat' first
    | with_reducible assumption | with_reducible apply keeps_ite | with_reducible apply State.set_keeps
    | with_reducible apply State.clearBit_keeps

theorem State.bmeOff_keeps {r : State} {s : State} (f : Nat) (memEn : Bool) (hs : Keeps r s) : Keeps r (State.bmeOff s f memEn) := by
  unfold State.bmeOff
  repeat' first
    | with_reducible assumption | with_reducible apply State.msgHold_keeps | with_reducible apply State.fnSync_keeps
    | with_reducible apply State.fnBit_keeps

theorem State.braceLost_keeps {r : State} {s : State} (hs : Keeps r s) : Keeps r (State.braceLost s) := by
  unfold State.braceLost
  repeat' first
    | with_reducible assumption | with_reducible apply keeps_ite | with_reducible apply State.unmute_keeps
    | with_reducible apply State.set_keeps | with_reducible apply State.raiseBit_keeps | with_reducible apply State.servingSync_keeps
    | with_reducible apply State.raise_keeps | with_reducible apply State.levelOff_keeps
    | (fail_if_no_progress with_reducible refine keeps_mk ?_ rfl rfl)

theorem State.partnerMove_keeps {r : State} {s : State} (i : Fin 68) (st : Nat) (hs : Keeps r s) : Keeps r (State.partnerMove s i st) := by
  unfold State.partnerMove
  repeat' first
    | with_reducible assumption | with_reducible apply keeps_ite | with_reducible apply State.set_keeps
    | with_reducible apply State.setFlag_keeps | with_reducible apply State.pckEvt_keeps | with_reducible apply State.setAtt_keeps
    | with_reducible apply State.bump_keeps | with_reducible apply State.braceLost_keeps

theorem State.rearm_keeps {r : State} {s : State} (i : Fin 68) (hs : Keeps r s) : Keeps r (State.rearm s i) := by
  unfold State.rearm
  repeat' first | with_reducible assumption | with_reducible apply keeps_ite | with_reducible apply State.partnerMove_keeps

theorem execPartnerRearm_keeps {r : State} (i : Fin 68) {s : State} (hs : Keeps r s) : ∃ t, execPartnerRearm i s = .next t ∧ Keeps r t := by
  unfold execPartnerRearm
  repeat' first
    | with_reducible assumption | with_reducible apply State.run_keeps | with_reducible apply State.rearm_keeps
    | (with_reducible refine ⟨_, rfl, ?_⟩) | intro x

theorem State.prpSup_keeps {r : State} {s : State} (j : Fin 32) (hs : Keeps r s) : Keeps r (State.prpSup s j) := by
  unfold State.prpSup
  repeat' first
    | with_reducible assumption | with_reducible apply keeps_ite | with_reducible apply State.takeRct_keeps
    | with_reducible apply State.setLink_keeps | with_reducible apply State.setLport_keeps

theorem execPrpSupervision_keeps {r : State} (j : Fin 32) {s : State} (hs : Keeps r s) : ∃ t, execPrpSupervision j s = .next t ∧ Keeps r t := by
  unfold execPrpSupervision
  repeat' first
    | with_reducible assumption | with_reducible apply State.run_keeps | with_reducible apply State.prpSup_keeps
    | (with_reducible refine ⟨_, rfl, ?_⟩) | intro x

theorem State.rxDrop_keeps {r : State} {s : State} (p : Fin 64) (k : Nat) (hs : Keeps r s) : Keeps r (State.rxDrop s p k) := by
  unfold State.rxDrop
  repeat' first | with_reducible assumption | with_reducible apply State.obs_keeps | with_reducible apply State.bump_keeps

theorem State.setRecKind_keeps {r : State} {s : State} (index : Nat) (v : Nat) (hs : Keeps r s) : Keeps r (State.setRecKind s index v) := by
  unfold State.setRecKind
  repeat' first | with_reducible assumption | with_reducible apply State.setByte_keeps

theorem State.recBit_keeps {r : State} {s : State} (index : Nat) (b : Nat) (on : Bool) (hs : Keeps r s) : Keeps r (State.recBit s index b on) := by
  unfold State.recBit
  repeat' first | with_reducible assumption | with_reducible apply State.setRecKind_keeps

theorem State.assistInsert_keeps {r : State} {s : State} (y2 : Nat) (kind : Nat) (hdr : Nat) (port : Nat) (pinned : Bool) (hs : Keeps r s) : Keeps r (State.assistInsert s y2 kind hdr port pinned).2.2 := by
  unfold State.assistInsert
  repeat' first
    | with_reducible assumption | with_reducible apply State.recBit_keeps | with_reducible apply State.obs_keeps
    | with_reducible apply State.srvEvt_keeps | with_reducible apply State.bump_keeps | with_reducible apply State.setBytes_keeps
    | with_reducible apply State.bumpW_keeps | split

theorem State.recFree_keeps {r : State} {s : State} (i : Nat) (hs : Keeps r s) : Keeps r (State.recFree s i) := by
  unfold State.recFree
  repeat' first | with_reducible assumption | with_reducible apply State.set_keeps | with_reducible apply State.setBytes_keeps

theorem State.assist_keeps {r : State} {s : State} (op : AssistOp) (key : List Byte) (port : Nat) (host : Bool) (hs : Keeps r s) : Keeps r (State.assist s op key port host).2.2 := by
  unfold State.assist
  repeat' first
    | with_reducible assumption | with_reducible apply State.setSrv_keeps | with_reducible apply State.obs_keeps
    | with_reducible apply State.assistInsert_keeps | with_reducible apply State.recFree_keeps | with_reducible apply State.recBit_keeps
    | lift_lets -underBinder | intro x | split

theorem State.parserLook_keeps {r : State} {s : State} (p : Fin 64) (key : List Byte) (hs : Keeps r s) : Keeps r (State.parserLook s p key).2.2 := by
  unfold State.parserLook
  repeat' first
    | with_reducible assumption | with_reducible apply keeps_ite2 | with_reducible apply keeps_ite3 | with_reducible apply State.assist_keeps
    | with_reducible apply State.setByte_keeps

theorem State.toSrv_keeps {r : State} {s : State} (p : Fin 64) (b : List Byte) (md : List Byte) (f : Frame) (hs : Keeps r s) : Keeps r (State.toSrv s p b md f) := by
  unfold State.toSrv
  repeat' first
    | with_reducible assumption | with_reducible apply keeps_ite | with_reducible apply State.bump_keeps
    | with_reducible apply State.srvEvt_keeps | with_reducible apply State.rxDrop_keeps | with_reducible apply State.devWrite_keeps
    | with_reducible apply State.poolPut_keeps | with_reducible apply State.drawn_keeps | with_reducible apply State.parserLook_keeps
    | with_reducible apply State.setSrv_keeps | with_reducible apply State.enqueue_keeps | split

theorem State.aluImm_keeps {r : State} {s : State} (ws : List Word) (n : Fin 12) (a : BitVec 5) (b : BitVec 5) (op : DWord → DWord) (hs : Keeps r s) : ∃ t, State.aluImm s ws n a b op = .next t ∧ Keeps r t := by
  unfold State.aluImm
  repeat' first
    | with_reducible assumption | with_reducible apply State.issue_keeps | with_reducible apply State.next_keeps
    | with_reducible apply State.setG_keeps | (with_reducible refine ⟨_, rfl, ?_⟩) | intro x

theorem execSltiu_keeps {r : State} (n : Fin 12) (a : BitVec 5) (b : BitVec 5) (imm : BitVec 16) {s : State} (hs : Keeps r s) : ∃ t, execSltiu n a b imm s = .next t ∧ Keeps r t := by
  unfold execSltiu
  repeat' first | with_reducible assumption | with_reducible apply State.aluImm_keeps | (with_reducible refine ⟨_, rfl, ?_⟩)

theorem State.pauseIgnoreEnd_keeps {r : State} {s : State} (p : Fin 64) (hs : Keeps r s) : Keeps r (State.pauseIgnoreEnd s p) := by
  unfold State.pauseIgnoreEnd
  repeat' first | with_reducible assumption | with_reducible apply State.when__keeps | with_reducible apply State.setFlag_keeps | intro x

theorem execAadd_keeps {r : State} (n : Fin 12) (a : BitVec 5) (b : BitVec 5) (c : BitVec 5) {s : State} (hs : Keeps r s) : ∃ t, execAadd n a b c s = .next t ∧ Keeps r t := by
  unfold execAadd
  repeat' first | with_reducible assumption | with_reducible apply State.amo_keeps | (with_reducible refine ⟨_, rfl, ?_⟩)

theorem State.mbRecord_keeps {r : State} {s : State} (c : MbCmd) (typ : Nat) (flags : Nat) (change : List Byte) (hs : Keeps r s) : Keeps r (State.mbRecord s c typ flags change) := by
  unfold State.mbRecord
  repeat' first
    | with_reducible assumption | with_reducible apply State.syncAuditFull_keeps | with_reducible apply State.logEventBy_keeps
    | with_reducible apply State.set_keeps

theorem State.stage_keeps {r : State} {s : State} (c : MbCmd) (words : List (Nat × Word)) (whole : Option (List Host.Cell × Digest)) (hs : Keeps r s) : Keeps r (State.stage s c words whole) := by
  unfold State.stage
  repeat' first
    | with_reducible assumption | with_reducible apply State.bumpW_keeps | with_reducible apply State.mbRecord_keeps
    | (fail_if_no_progress with_reducible refine keeps_mk ?_ rfl rfl)

theorem State.cmdSetParam_keeps {r : State} (c : MbCmd) {s : State} (hs : Keeps r s) : Keeps r (State.cmdSetParam c s).2.2 := by
  unfold State.cmdSetParam
  repeat' first | with_reducible assumption | with_reducible apply State.stage_keeps | lift_lets -underBinder | intro x | split

theorem execSub_keeps {r : State} (n : Fin 12) (a : BitVec 5) (b : BitVec 5) (c : BitVec 5) (setFlags : Bool) {s : State} (hs : Keeps r s) : ∃ t, execSub n a b c setFlags s = .next t ∧ Keeps r t := by
  unfold execSub
  repeat' first | with_reducible assumption | with_reducible apply State.alu_keeps | (with_reducible refine ⟨_, rfl, ?_⟩)

theorem State.boundaryTraps_keeps {r : State} {s : State} (n : Fin 12) (hs : Keeps r s) : Keeps r (State.boundaryTraps s n) := by
  unfold State.boundaryTraps
  repeat' first
    | with_reducible assumption | with_reducible apply keeps_ite | with_reducible apply State.trap_keeps
    | with_reducible apply State.setEng_keeps | with_reducible apply State.takeNmi_keeps

theorem State.addStall_keeps {r : State} {s : State} (n : Fin 12) (cls : Nat) (c : Nat) (hs : Keeps r s) : Keeps r (State.addStall s n cls c) := by
  unfold State.addStall
  repeat' first | with_reducible assumption | with_reducible apply keeps_ite | with_reducible apply State.costMore_keeps

theorem State.stallEnd_keeps {r : State} {s : State} (n : Fin 12) (cls : Nat) (hs : Keeps r s) : Keeps r (State.stallEnd s n cls) := by
  unfold State.stallEnd
  repeat' first
    | with_reducible assumption | with_reducible apply keeps_ite | with_reducible apply State.setEng_keeps
    | with_reducible apply State.slot_keeps | with_reducible apply State.bump_keeps | with_reducible apply State.obs_keeps

theorem State.engResume_keeps {r : State} {s : State} (n : Fin 12) (cls : Nat) {f : State → State} (hs : Keeps r s) (hf : (∀ s, Keeps r s → Keeps r (f s))) : Keeps r (State.engResume s n cls f) := by
  unfold State.engResume
  repeat' first
    | with_reducible assumption | with_reducible apply hf | with_reducible apply State.boundaryTraps_keeps
    | with_reducible apply State.addStall_keeps | with_reducible apply State.stallEnd_keeps

theorem State.withDmem_keeps {r : State} {s : State} (n : Fin 12) (b : BitVec 5) (align : Nat) (len : Nat) {f : List Byte → State → State} (hs : Keeps r s) (hf : (∀ s, Keeps r s → ∀ y0, Keeps r (f y0 s))) : Keeps r (State.withDmem s n b align len f) := by
  unfold State.withDmem
  repeat' first
    | with_reducible assumption | with_reducible apply keeps_ite | with_reducible apply hf | with_reducible apply State.trap_keeps
    | with_reducible apply State.dmemSoft_keeps | split

theorem State.syncTickets_keeps {r : State} {s : State} (n : Fin 12) (hs : Keeps r s) : Keeps r (State.syncTickets s n) := by
  unfold State.syncTickets
  repeat' first | with_reducible assumption | with_reducible apply State.set_keeps

theorem State.routeJob_keeps {r : State} {s : State} (n : Fin 12) (y3 : Ticket) (hs : Keeps r s) : Keeps r (State.routeJob s n y3) := by
  unfold State.routeJob
  repeat' first
    | with_reducible assumption | with_reducible apply keeps_ite | with_reducible apply State.deliver_keeps
    | with_reducible apply State.srvEvt_keeps | with_reducible apply State.bump_keeps

theorem State.kickJob_keeps {r : State} {s : State} (n : Fin 12) (a : BitVec 5) (job : Job) (num : Fin 16) (hs : Keeps r s) : Keeps r (State.kickJob s n a job num) := by
  unfold State.kickJob
  repeat' first
    | with_reducible assumption | with_reducible apply keeps_ite | with_reducible apply State.syncTickets_keeps
    | with_reducible apply State.setEng_keeps | with_reducible apply State.setG_keeps | with_reducible apply State.routeJob_keeps
    | with_reducible apply State.next_keeps | with_reducible apply State.obs_keeps

theorem State.kickNow_keeps {r : State} {s : State} (n : Fin 12) (a : BitVec 5) (b : BitVec 5) (target : Nat) (hs : Keeps r s) : Keeps r (State.kickNow s n a b target) := by
  unfold State.kickNow
  repeat' first
    | with_reducible assumption | with_reducible apply State.trap_keeps | with_reducible apply State.withDmem_keeps
    | with_reducible apply State.dmemSoft_keeps | with_reducible apply State.kickJob_keeps | with_reducible apply State.hold_keeps
    | lift_lets -underBinder | intro x | split

theorem State.storeRelease_keeps {r : State} {s : State} (n : Fin 12) (hs : Keeps r s) : Keeps r (State.storeRelease s n) := by
  unfold State.storeRelease
  repeat' first
    | with_reducible assumption | with_reducible apply State.engResume_keeps | with_reducible apply State.next_keeps
    | with_reducible apply State.bufferStore_keeps | intro x | split

theorem State.stallRelease_keeps {r : State} {s : State} (n : Fin 12) (hs : Keeps r s) : Keeps r (State.stallRelease s n) := by
  unfold State.stallRelease
  repeat' first
    | with_reducible assumption | with_reducible apply State.engResume_keeps | with_reducible apply State.kickNow_keeps
    | with_reducible apply State.storeRelease_keeps | intro x | split

theorem execEngineStallRelease_keeps {r : State} (n : Fin 12) {s : State} (hs : Keeps r s) : ∃ t, execEngineStallRelease n s = .next t ∧ Keeps r t := by
  unfold execEngineStallRelease
  repeat' first | with_reducible assumption | with_reducible apply State.stallRelease_keeps | (with_reducible refine ⟨_, rfl, ?_⟩)

theorem State.takeEcho_keeps {r : State} {s : State} (f : BraceFrame) (hs : Keeps r s) : Keeps r (State.takeEcho s f) := by
  unfold State.takeEcho
  repeat' first | with_reducible assumption | with_reducible apply State.setBrc_keeps | split

theorem State.braceReceive_keeps {r : State} {s : State} (y2 : PackRx) (hs : Keeps r s) : Keeps r (State.braceReceive s y2) := by
  unfold State.braceReceive
  repeat' first
    | with_reducible assumption | with_reducible apply keeps_ite | with_reducible apply State.setBrc_keeps
    | with_reducible apply State.set_keeps | with_reducible apply State.setFlag_keeps | with_reducible apply State.unmute_keeps
    | with_reducible apply State.takeEcho_keeps | with_reducible apply State.takeProposal_keeps | with_reducible apply State.braceEval_keeps

theorem execTntp_keeps {r : State} (n : Fin 12) (a : BitVec 5) (vb : BitVec 3) {s : State} (hs : Keeps r s) : ∃ t, execTntp n a vb s = .next t ∧ Keeps r t := by
  unfold execTntp
  repeat' first
    | with_reducible assumption | with_reducible apply State.issue_keeps | with_reducible apply State.next_keeps
    | with_reducible apply State.setG_keeps | (with_reducible refine ⟨_, rfl, ?_⟩) | intro x

theorem State.setGm_keeps {r : State} {s : State} (g : Option (Nat × Nat × Nat)) (hs : Keeps r s) : Keeps r (State.setGm s g) := by
  unfold State.setGm
  repeat' first | with_reducible assumption | with_reducible apply State.set_keeps | with_reducible apply State.setFlag_keeps | split

theorem State.packFollow_keeps {r : State} {s : State} (hs : Keeps r s) : Keeps r (State.packFollow s) := by
  unfold State.packFollow
  repeat' first | with_reducible assumption | with_reducible apply State.setGm_keeps | with_reducible apply State.set_keeps | split

theorem State.setUplink_keeps {r : State} {s : State} (u : Option (Fin 68)) (hs : Keeps r s) : Keeps r (State.setUplink s u) := by
  unfold State.setUplink
  repeat' first
    | with_reducible assumption | with_reducible apply State.setFlag_keeps | with_reducible apply State.set_keeps
    | with_reducible apply State.bump_keeps | with_reducible apply State.packFollow_keeps | with_reducible apply State.pckEvt_keeps
    | (fail_if_no_progress with_reducible refine keeps_mk ?_ rfl rfl) | split

theorem State.noUplinkSync_keeps {r : State} {s : State} (hs : Keeps r s) : Keeps r (State.noUplinkSync s) := by
  unfold State.noUplinkSync
  repeat' first
    | with_reducible assumption | with_reducible apply keeps_ite | with_reducible apply State.pckEvt_keeps
    | with_reducible apply State.level_keeps

theorem State.uplinkEval_keeps {r : State} {s : State} (hs : Keeps r s) : Keeps r (State.uplinkEval s) := by
  unfold State.uplinkEval
  repeat' first
    | with_reducible assumption | with_reducible apply keeps_ite | with_reducible apply State.setFlag_keeps
    | with_reducible apply State.setUplink_keeps | with_reducible apply State.timeBetter_keeps
    | with_reducible apply State.noUplinkSync_keeps | with_reducible apply State.packFollow_keeps | with_reducible apply keeps_foldl
    | intro x

theorem State.rngRecover_keeps {r : State} {s : State} (hs : Keeps r s) : Keeps r (State.rngRecover s) := by
  unfold State.rngRecover
  repeat' first
    | with_reducible assumption | with_reducible apply State.forN_keeps | with_reducible apply State.syncTdc_keeps | intro x
    | (fail_if_no_progress with_reducible refine keeps_mk ?_ rfl rfl) | split

theorem State.rngRate_keeps {r : State} {s : State} (rate : Nat) (hs : Keeps r s) : Keeps r (State.rngRate s rate) := by
  unfold State.rngRate
  repeat' first
    | with_reducible assumption | with_reducible apply keeps_ite | with_reducible apply State.set_keeps
    | with_reducible apply State.setFlag_keeps | with_reducible apply State.mapTdc_keeps | with_reducible apply State.rngRecover_keeps
    | with_reducible apply State.levelOff_keeps | with_reducible apply State.raiseBit_keeps | with_reducible apply State.levelOn_keeps
    | (fail_if_no_progress with_reducible refine keeps_mk ?_ rfl rfl)

theorem execRngRateCheck_keeps {r : State} (rate : Nat) {s : State} (hs : Keeps r s) : ∃ t, execRngRateCheck rate s = .next t ∧ Keeps r t := by
  unfold execRngRateCheck
  repeat' first | with_reducible assumption | with_reducible apply State.rngRate_keeps | (with_reducible refine ⟨_, rfl, ?_⟩)

theorem execSltu_keeps {r : State} (n : Fin 12) (a : BitVec 5) (b : BitVec 5) (c : BitVec 5) (setFlags : Bool) {s : State} (hs : Keeps r s) : ∃ t, execSltu n a b c setFlags s = .next t ∧ Keeps r t := by
  unfold execSltu
  repeat' first | with_reducible assumption | with_reducible apply State.alu_keeps | (with_reducible refine ⟨_, rfl, ?_⟩)

theorem execGnsSnapDone_keeps {r : State} (m : Master) (v : Word) {s : State} (hs : Keeps r s) : ∃ t, execGnsSnapDone m v s = .next t ∧ Keeps r t := by
  unfold execGnsSnapDone
  repeat' first | with_reducible assumption | with_reducible apply State.busWrite32_keeps | (with_reducible refine ⟨_, rfl, ?_⟩)

theorem State.recalAccept_keeps {r : State} {s : State} (i : Fin 68) (drift : Int) (hs : Keeps r s) : Keeps r (State.recalAccept s i drift) := by
  unfold State.recalAccept
  repeat' first
    | with_reducible assumption | with_reducible apply State.setLink_keeps | with_reducible apply State.bump_keeps
    | with_reducible apply State.set_keeps | with_reducible apply State.latSync_keeps | with_reducible apply State.raiseBit_keeps
    | with_reducible apply State.degrSync1_keeps | with_reducible apply State.setStale_keeps | split

theorem State.recalFail_keeps {r : State} {s : State} (i : Fin 68) (hs : Keeps r s) : Keeps r (State.recalFail s i) := by
  unfold State.recalFail
  repeat' first
    | with_reducible assumption | with_reducible apply State.setLink_keeps | with_reducible apply State.raise_keeps
    | with_reducible apply State.degrSync1_keeps | with_reducible apply State.bump_keeps | with_reducible apply State.raiseBit_keeps | split

theorem State.recalEnd_keeps {r : State} {s : State} (i : Fin 68) (sum : Int) (hs : Keeps r s) : Keeps r (State.recalEnd s i sum) := by
  unfold State.recalEnd
  repeat' first
    | with_reducible assumption | with_reducible apply keeps_ite | with_reducible apply State.linkMove_keeps
    | with_reducible apply State.recalAccept_keeps | with_reducible apply State.recalFail_keeps

theorem State.leaveLc_keeps {r : State} {s : State} (mode : Nat) (hs : Keeps r s) : Keeps r (State.leaveLc s mode) := by
  unfold State.leaveLc
  repeat' first
    | with_reducible assumption | with_reducible apply State.holdBase_keeps | with_reducible apply State.set_keeps
    | with_reducible apply State.newSet_keeps | with_reducible apply State.syncSlew_keeps | with_reducible apply State.setServo_keeps
    | (fail_if_no_progress with_reducible refine keeps_mk ?_ rfl rfl)

theorem State.handoverTick_keeps {r : State} {s : State} (hs : Keeps r s) : Keeps r (State.handoverTick s) := by
  unfold State.handoverTick
  repeat' first
    | with_reducible assumption | with_reducible apply State.setFlag_keeps | with_reducible apply State.set_keeps
    | with_reducible apply State.newSet_keeps | with_reducible apply State.leaveLc_keeps | with_reducible apply State.timeStat_keeps
    | with_reducible apply State.leashWiden_keeps | (fail_if_no_progress with_reducible refine keeps_mk ?_ rfl rfl) | split

theorem execHandoverTick_keeps {r : State} {s : State} (hs : Keeps r s) : ∃ t, execHandoverTick s = .next t ∧ Keeps r t := by
  unfold execHandoverTick
  repeat' first | with_reducible assumption | with_reducible apply State.handoverTick_keeps | (with_reducible refine ⟨_, rfl, ?_⟩)

theorem State.reqCtxFree_keeps {r : State} {s : State} (k : Fin 8) (y3 : Req) (hs : Keeps r s) : Keeps r (State.reqCtxFree s k y3) := by
  unfold State.reqCtxFree
  repeat' first | with_reducible assumption | with_reducible apply keeps_ite | with_reducible apply State.ctxFree_keeps

theorem State.serveHead_keeps {r : State} {s : State} (k : Fin 8) (want : Serve → Req → Bool) {act : Req → State → State} (hs : Keeps r s) (hact : (∀ s, Keeps r s → ∀ y0, Keeps r (act y0 s))) : Keeps r (State.serveHead s k want act) := by
  unfold State.serveHead
  have hp := State.bumpW_keeps R.SRV_RXQ_RD k 1 hs
  refine keeps_ite ?_ hs
  generalize s.headReq k = q
  rcases q with _ | q
  · exact hs
  · show Keeps r (let popped := s.bumpW R.SRV_RXQ_RD k
      match s.serveOf q with
      | .drop f => ((popped.bump f).poolRet q.buf).reqCtxFree k q
      | .ignore => (popped.poolRet q.buf).reqCtxFree k q
      | x => if want x q then act q popped else s)
    generalize s.serveOf q = x
    rcases x with f | _ | _ | _ | _ | _ | _ | _
    · exact State.reqCtxFree_keeps _ _ (State.poolRet_keeps _ (State.bump_keeps _ _ _ hp))
    · exact State.reqCtxFree_keeps _ _ (State.poolRet_keeps _ hp)
    all_goals exact keeps_ite (hact _ hp _) hs

theorem State.arbiter_keeps {r : State} {s : State} (y2 : Fin 12) (y3 : MReq) (hs : Keeps r s) : Keeps r (State.arbiter s y2 y3) := by
  unfold State.arbiter
  repeat' first | with_reducible assumption | (fail_if_no_progress with_reducible refine keeps_mk ?_ rfl rfl)

theorem State.withholdEnd_keeps {r : State} {s : State} (hs : Keeps r s) : Keeps r (State.withholdEnd s) := by
  unfold State.withholdEnd
  repeat' first | with_reducible assumption | (fail_if_no_progress with_reducible refine keeps_mk ?_ rfl rfl) | split

theorem State.dozeGate_keeps {r : State} {s : State} (u : Nat) (hs : Keeps r s) : Keeps r (State.dozeGate s u) := by
  unfold State.dozeGate
  repeat' first | with_reducible assumption | with_reducible apply State.gateReq_keeps | with_reducible apply State.gateSet_keeps | split

theorem State.oscMove_keeps {r : State} {s : State} (k : Fin 4) (st : Nat) (hs : Keeps r s) : Keeps r (State.oscMove s k st) := by
  unfold State.oscMove
  repeat' first
    | with_reducible assumption | with_reducible apply keeps_ite | with_reducible apply State.set_keeps
    | with_reducible apply State.setOsc_keeps

theorem execKumUnknownKind_keeps {r : State} (m : Master) {s : State} (hs : Keeps r s) : ∃ t, execKumUnknownKind m s = .next t ∧ Keeps r t := by
  unfold execKumUnknownKind
  repeat' first | with_reducible assumption | with_reducible apply State.kumOf_keeps | (with_reducible refine ⟨_, rfl, ?_⟩)

theorem State.setRecFld_keeps {r : State} {s : State} (i : Nat) (off : Nat) (n : Nat) (v : Nat) (hs : Keeps r s) : Keeps r (State.setRecFld s i off n v) := by
  unfold State.setRecFld
  repeat' first | with_reducible assumption | with_reducible apply State.setBytes_keeps

theorem State.grantStop_keeps {r : State} {s : State} (k : Fin 8) (i : Nat) (g : Fin 3) (hs : Keeps r s) : Keeps r (State.grantStop s k i g) := by
  unfold State.grantStop
  repeat' first | with_reducible assumption | with_reducible apply State.setRecFld_keeps | with_reducible apply State.setShare_keeps

theorem State.grantsStop_keeps {r : State} {s : State} (k : Fin 8) (i : Nat) (hs : Keeps r s) : Keeps r (State.grantsStop s k i) := by
  unfold State.grantsStop
  repeat' first | with_reducible assumption | with_reducible apply State.grantStop_keeps | with_reducible apply keeps_foldl | intro x

theorem State.hostCancel_keeps {r : State} {s : State} (k : Fin 8) (p : Fin 64) (hdr : List Byte) (buf : Nat) (hs : Keeps r s) : Keeps r (State.hostCancel s k p hdr buf) := by
  unfold State.hostCancel
  repeat' first
    | with_reducible assumption | with_reducible apply State.drawn_keeps | with_reducible apply State.setSrv_keeps
    | with_reducible apply State.servLaunch_keeps | with_reducible apply State.grantsStop_keeps | with_reducible apply State.recFree_keeps
    | intro x | split

theorem execClz_keeps {r : State} (n : Fin 12) (a : BitVec 5) (b : BitVec 5) (setFlags : Bool) {s : State} (hs : Keeps r s) : ∃ t, execClz n a b setFlags s = .next t ∧ Keeps r t := by
  unfold execClz
  repeat' first | with_reducible assumption | with_reducible apply State.alu1_keeps | (with_reducible refine ⟨_, rfl, ?_⟩)

theorem execKick_keeps {r : State} (n : Fin 12) (a : BitVec 5) (b : BitVec 5) (target : BitVec 11) {s : State} (hs : Keeps r s) : ∃ t, execKick n a b target s = .next t ∧ Keeps r t := by
  unfold execKick
  repeat' first
    | with_reducible assumption | with_reducible apply keeps_ite | with_reducible apply State.issue_keeps
    | with_reducible apply State.trap_keeps | with_reducible apply State.afterDrain_keeps | with_reducible apply State.kickNow_keeps
    | (with_reducible refine ⟨_, rfl, ?_⟩) | intro x

theorem State.ntsDrop_keeps {r : State} {s : State} (w : RxWait) (hs : Keeps r s) : Keeps r (State.ntsDrop s w) := by
  unfold State.ntsDrop
  repeat' first | with_reducible assumption | with_reducible apply State.poolRet_keeps | with_reducible apply State.setSrv_keeps

theorem State.adrRecord_keeps {r : State} {s : State} (n : Fin 4) (hs : Keeps r s) : Keeps r (State.adrRecord s n) := by
  unfold State.adrRecord
  repeat' first
    | with_reducible assumption | with_reducible apply keeps_ite | with_reducible apply State.setAdr_keeps
    | with_reducible apply State.inletPut_keeps

theorem execAdrSecondRecord_keeps {r : State} (n : Fin 4) {s : State} (hs : Keeps r s) : ∃ t, execAdrSecondRecord n s = .next t ∧ Keeps r t := by
  unfold execAdrSecondRecord
  repeat' first
    | with_reducible assumption | with_reducible apply State.run_keeps | with_reducible apply State.adrRecord_keeps
    | (with_reducible refine ⟨_, rfl, ?_⟩) | intro x

theorem State.fenceEnd_keeps {r : State} {s : State} (n : Fin 12) (hs : Keeps r s) : Keeps r (State.fenceEnd s n) := by
  unfold State.fenceEnd
  repeat' first
    | with_reducible assumption | with_reducible apply keeps_ite | with_reducible apply State.engResume_keeps
    | with_reducible apply State.next_keeps | intro x

theorem execAuditAckWrite_keeps {r : State} (m : Master) (v : Word) {s : State} (hs : Keeps r s) : ∃ t, execAuditAckWrite m v s = .next t ∧ Keeps r t := by
  unfold execAuditAckWrite
  repeat' first | with_reducible assumption | with_reducible apply State.busWrite32_keeps | (with_reducible refine ⟨_, rfl, ?_⟩)

theorem State.storeLeaves_keeps {r : State} {s : State} (n : Fin 12) (hs : Keeps r s) : Keeps r (State.storeLeaves s n) := by
  unfold State.storeLeaves
  repeat' first | with_reducible assumption | with_reducible apply State.setEng_keeps

theorem State.perform_keeps {r : State} {s : State} (y2 : MReq) (hs : Keeps r s) : Keeps r (State.perform s y2).2.2 := by
  unfold State.perform
  repeat' first
    | with_reducible assumption | with_reducible apply State.mtxErr_keeps | with_reducible apply State.sramAccess_keeps
    | with_reducible apply State.engRegs_keeps | split

theorem State.grant_keeps {r : State} {s : State} (y2 : Fin 12) (hs : Keeps r s) : Keeps r (State.grant s y2) := by
  unfold State.grant
  repeat' first
    | with_reducible assumption | with_reducible apply State.arbiter_keeps | with_reducible apply State.obs_keeps
    | with_reducible apply State.storeLeaves_keeps | with_reducible apply State.perform_keeps | with_reducible apply State.heldSync_keeps
    | with_reducible apply State.tryRead_keeps
    | (intro x; (have hd : x = x := by unfold x; rfl); clear hd; refine (fun (hx : Keeps r x) => ?_) ?_)
    | with_reducible refine keeps_snd2 ‹_› ?_ | (fail_if_no_progress with_reducible refine keeps_mk ?_ rfl rfl) | split | unfold x

theorem State.utcShow_keeps {r : State} {s : State} (offset : Nat) (leap : Option Leap) (src : Nat) (hs : Keeps r s) : Keeps r (State.utcShow s offset leap src) := by
  unfold State.utcShow
  repeat' first
    | with_reducible assumption | with_reducible apply State.set_keeps | with_reducible apply State.setFlag_keeps
    | (fail_if_no_progress with_reducible refine keeps_mk ?_ rfl rfl)

theorem State.pllLost_keeps {r : State} {s : State} (k : Fin 4) (slip : Bool) (hs : Keeps r s) : Keeps r (State.pllLost s k slip) := by
  unfold State.pllLost
  repeat' first
    | with_reducible assumption | with_reducible apply keeps_ite | with_reducible apply State.pllEnter_keeps
    | with_reducible apply State.bump_keeps

theorem State.tspopOp_keeps {r : State} {s : State} (n : Fin 12) (a : BitVec 5) (b : BitVec 5) (hs : Keeps r s) : Keeps r (State.tspopOp s n a b) := by
  unfold State.tspopOp
  repeat' first
    | with_reducible assumption | with_reducible apply keeps_ite | with_reducible apply State.trap_keeps
    | with_reducible apply State.next_keeps | with_reducible apply State.setG_keeps | with_reducible apply State.sramSoft_keeps
    | with_reducible apply State.lringSync_keeps | with_reducible apply State.bumpW_keeps | with_reducible apply State.setBytes_keeps
    | with_reducible apply State.sramErr_keeps | split

theorem State.dbellOp_keeps {r : State} {s : State} (n : Fin 12) (b : BitVec 5) (c : BitVec 5) (hs : Keeps r s) : Keeps r (State.dbellOp s n b c) := by
  unfold State.dbellOp
  repeat' first
    | with_reducible assumption | with_reducible apply State.next_keeps | with_reducible apply State.dbellSet_keeps
    | with_reducible apply State.matrixStore_keeps | with_reducible apply State.trap_keeps | lift_lets -underBinder | intro x | split

theorem execDbtake_keeps {r : State} (n : Fin 12) (a : BitVec 5) (b : BitVec 5) {s : State} (hs : Keeps r s) : ∃ t, execDbtake n a b s = .next t ∧ Keeps r t := by
  unfold execDbtake
  repeat' first
    | with_reducible assumption | with_reducible apply State.issue_keeps | with_reducible apply State.set_keeps
    | with_reducible apply State.next_keeps | with_reducible apply State.setG_keeps | (with_reducible refine ⟨_, rfl, ?_⟩) | intro x

theorem execCas_keeps {r : State} (n : Fin 12) (a : BitVec 5) (b : BitVec 5) (c : BitVec 5) {s : State} (hs : Keeps r s) : ∃ t, execCas n a b c s = .next t ∧ Keeps r t := by
  unfold execCas
  repeat' first | with_reducible assumption | with_reducible apply State.amo_keeps | (with_reducible refine ⟨_, rfl, ?_⟩)

theorem State.logRestore_keeps {r : State} {s : State} (hs : Keeps r s) : Keeps r (State.logRestore s) := by
  unfold State.logRestore
  repeat' first
    | with_reducible assumption | with_reducible apply State.set_keeps | with_reducible apply State.setFlag_keeps
    | (fail_if_no_progress with_reducible refine keeps_mk ?_ rfl rfl)

theorem execScheduleCycleBoundary_keeps {r : State} {s : State} (hs : Keeps r s) : ∃ t, execScheduleCycleBoundary s = .next t ∧ Keeps r t := by
  unfold execScheduleCycleBoundary
  repeat' first | with_reducible assumption | with_reducible apply State.cycleBoundary_keeps | (with_reducible refine ⟨_, rfl, ?_⟩)

theorem execSteerCommitWrite_keeps {r : State} (m : Master) (v : Word) {s : State} (hs : Keeps r s) : ∃ t, execSteerCommitWrite m v s = .next t ∧ Keeps r t := by
  unfold execSteerCommitWrite
  repeat' first | with_reducible assumption | with_reducible apply State.busWrite32_keeps | (with_reducible refine ⟨_, rfl, ?_⟩)

theorem State.timChanged_keeps {r : State} {s : State} (old : Nat → Word) (hs : Keeps r s) : Keeps r (State.timChanged s old) := by
  unfold State.timChanged
  repeat' first
    | with_reducible assumption | with_reducible apply keeps_ite | with_reducible apply State.forN_keeps | intro x
    | (fail_if_no_progress with_reducible refine keeps_mk ?_ rfl rfl) | split

theorem State.setV_keeps {r : State} {s : State} (n : Fin 12) (va : BitVec 3) (y4 : Time) (hs : Keeps r s) : Keeps r (State.setV s n va y4) := by
  unfold State.setV
  repeat' first | with_reducible assumption | with_reducible apply State.setEng_keeps

theorem State.timeOp_keeps {r : State} {s : State} (n : Fin 12) (va : BitVec 3) (y4 : Time) (sat : Option Bool) (cost : Nat) (hs : Keeps r s) : Keeps r (State.timeOp s n va y4 sat cost) := by
  unfold State.timeOp
  repeat' first
    | with_reducible assumption | with_reducible apply State.setV_keeps | with_reducible apply State.setFlags_keeps
    | with_reducible apply State.next_keeps | split

theorem execTfromsn_keeps {r : State} (n : Fin 12) (va : BitVec 3) (vb : BitVec 3) {s : State} (hs : Keeps r s) : ∃ t, execTfromsn n va vb s = .next t ∧ Keeps r t := by
  unfold execTfromsn
  repeat' first
    | with_reducible assumption | with_reducible apply State.issue_keeps | with_reducible apply State.timeOp_keeps
    | (with_reducible refine ⟨_, rfl, ?_⟩) | intro x

theorem State.roleExchange_keeps {r : State} {s : State} (c : Fin 16) (hs : Keeps r s) : Keeps r (State.roleExchange s c) := by
  unfold State.roleExchange
  repeat' first
    | with_reducible assumption | with_reducible apply keeps_ite | with_reducible apply State.setTdc_keeps
    | with_reducible apply State.setFlag_keeps

theorem State.tdcTick_keeps {r : State} {s : State} (hs : Keeps r s) : Keeps r (State.tdcTick s) := by
  unfold State.tdcTick
  repeat' first
    | with_reducible assumption | with_reducible apply State.roleExchange_keeps | with_reducible apply keeps_foldl | intro x
    | (fail_if_no_progress with_reducible refine keeps_mk ?_ rfl rfl)

theorem execSd_keeps {r : State} (n : Fin 12) (a : BitVec 5) (b : BitVec 5) (imm : BitVec 16) {s : State} (hs : Keeps r s) : ∃ t, execSd n a b imm s = .next t ∧ Keeps r t := by
  unfold execSd
  repeat' first | with_reducible assumption | with_reducible apply State.storeInst_keeps | (with_reducible refine ⟨_, rfl, ?_⟩)

theorem State.txResume_keeps {r : State} {s : State} (p : Fin 64) (hs : Keeps r s) : Keeps r (State.txResume s p) := by
  unfold State.txResume
  repeat' first | with_reducible assumption | with_reducible apply State.setLport_keeps | with_reducible apply State.setFlag_keeps

theorem State.pauseBreak_keeps {r : State} {s : State} (p : Fin 64) (hs : Keeps r s) : Keeps r (State.pauseBreak s p) := by
  unfold State.pauseBreak
  repeat' first
    | with_reducible assumption | with_reducible apply keeps_ite | with_reducible apply State.setLink_keeps
    | with_reducible apply State.bump_keeps | with_reducible apply State.setFlag_keeps | with_reducible apply State.txResume_keeps
    | with_reducible apply State.raise_keeps | with_reducible apply State.raiseBit_keeps

theorem execIllegalEncoding_keeps {r : State} (n : Fin 12) (word : Word) {s : State} (hs : Keeps r s) : ∃ t, execIllegalEncoding n word s = .next t ∧ Keeps r t := by
  unfold execIllegalEncoding
  repeat' first
    | with_reducible assumption | with_reducible apply State.issue_keeps | with_reducible apply State.trap_keeps
    | (with_reducible refine ⟨_, rfl, ?_⟩) | intro x

theorem State.smpRecord_keeps {r : State} {s : State} (n : Fin 12) (sampled : Bool) (hs : Keeps r s) : Keeps r (State.smpRecord s n sampled) := by
  unfold State.smpRecord
  repeat' first
    | with_reducible assumption | with_reducible apply State.obsReady_keeps | with_reducible apply State.bumpW_keeps
    | with_reducible apply State.raiseBit_keeps | with_reducible apply State.bump_keeps | lift_lets -underBinder | intro x
    | with_reducible refine keeps_some ‹_› (State.obsRing_keeps _ _ _ _ _ _ _ ?_)
    | (fail_if_no_progress with_reducible refine keeps_mk ?_ rfl rfl) | split

theorem State.testModeReq_keeps {r : State} {s : State} (b : Nat) (hs : Keeps r s) : Keeps r (State.testModeReq s b).2 := by
  unfold State.testModeReq
  repeat' first
    | with_reducible assumption | with_reducible apply State.timeStat_keeps | with_reducible apply State.arm_keeps
    | (fail_if_no_progress with_reducible refine keeps_mk ?_ rfl rfl) | split

theorem State.cmdTestMode_keeps {r : State} (c : MbCmd) {s : State} (hs : Keeps r s) : Keeps r (State.cmdTestMode c s).2.2 := by
  unfold State.cmdTestMode
  repeat' first
    | with_reducible assumption | with_reducible apply State.testModeReq_keeps | with_reducible apply State.mbRecord_keeps
    | with_reducible refine keeps_snd ‹_› ?_ | split

theorem State.chFail_keeps {r : State} {s : State} (c : Fin 16) (status : Nat) (cur : Nat) (hs : Keeps r s) : Keeps r (State.chFail s c status cur) := by
  unfold State.chFail
  repeat' first
    | with_reducible assumption | with_reducible apply keeps_ite | with_reducible apply State.chDrain_keeps
    | with_reducible apply State.chEnd_keeps

theorem State.chipRead_keeps {r : State} {s : State} (c : Fin 16) (a : Nat) (n : Nat) (hs : Keeps r s) : Keeps r (State.chipRead s c a n).2 := by
  unfold State.chipRead
  repeat' first
    | with_reducible assumption | with_reducible apply State.regsRead_keeps | with_reducible apply State.mtxErr_keeps
    | with_reducible apply State.sramSoft_keeps | with_reducible apply State.sramErr_keeps | with_reducible refine keeps_snd ‹_› ?_ | split

theorem State.descDone_keeps {r : State} {s : State} (c : Fin 16) (w : FchWork) (hs : Keeps r s) : Keeps r (State.descDone s c w) := by
  unfold State.descDone
  repeat' first
    | with_reducible assumption | with_reducible apply keeps_ite | with_reducible apply State.setFch_keeps
    | with_reducible apply State.raiseBit_keeps | with_reducible apply State.chDrain_keeps | with_reducible apply State.chEnd_keeps
    | with_reducible apply State.chFetch_keeps | lift_lets -underBinder | intro x | split

theorem State.chMoved_keeps {r : State} {s : State} (c : Fin 16) (w : FchWork) (bs : List Byte) (hs : Keeps r s) : Keeps r (State.chMoved s c w bs) := by
  unfold State.chMoved
  repeat' first
    | with_reducible assumption | with_reducible apply keeps_ite | with_reducible apply State.bumpW_keeps
    | with_reducible apply State.descDone_keeps | with_reducible apply State.setFch_keeps

theorem State.chipWrite_keeps {r : State} {s : State} (c : Fin 16) (a : Nat) (bs : List Byte) (hs : Keeps r s) : Keeps r (State.chipWrite s c a bs).2 := by
  unfold State.chipWrite
  repeat' first
    | with_reducible assumption | with_reducible apply State.regsWrite_keeps | with_reducible apply State.mtxErr_keeps
    | with_reducible apply State.setBytes_keeps | with_reducible apply State.sramErr_keeps | with_reducible refine keeps_snd ‹_› ?_ | split

theorem State.chData_keeps {r : State} {s : State} (c : Fin 16) (d : HostData) (hs : Keeps r s) : Keeps r (State.chData s c d) := by
  unfold State.chData
  repeat' first
    | with_reducible assumption | with_reducible apply State.chFail_keeps | with_reducible apply State.chipRead_keeps
    | with_reducible apply State.chMoved_keeps | with_reducible apply State.tlpOut_keeps | with_reducible apply State.chipWrite_keeps
    | lift_lets -underBinder | intro x | with_reducible refine keeps_snd ‹_› ?_ | split

theorem State.buryEnter_keeps {r : State} {s : State} (hs : Keeps r s) : Keeps r (State.buryEnter s) := by
  unfold State.buryEnter
  repeat' first
    | with_reducible assumption | with_reducible apply keeps_ite | with_reducible apply State.aonEvt_keeps
    | with_reducible apply State.setFlag_keeps | with_reducible apply State.set_keeps | with_reducible apply State.saveStart_keeps
    | with_reducible apply State.dbgClose_keeps | with_reducible apply State.bump_keeps | with_reducible apply State.raise_keeps
    | (fail_if_no_progress with_reducible refine keeps_mk ?_ rfl rfl)

theorem State.vholdShow_keeps {r : State} {s : State} (vhold : BitVec 13) (hs : Keeps r s) : Keeps r (State.vholdShow s vhold) := by
  unfold State.vholdShow
  repeat' first | with_reducible assumption | with_reducible apply State.setFlag_keeps | with_reducible apply State.set_keeps

theorem State.vinShow_keeps {r : State} {s : State} (vin : BitVec 13) (vhold : BitVec 13) (hs : Keeps r s) : Keeps r (State.vinShow s vin vhold) := by
  unfold State.vinShow
  repeat' first | with_reducible assumption | with_reducible apply State.vholdShow_keeps | with_reducible apply State.set_keeps

theorem State.vinWarn_keeps {r : State} {s : State} (vin : BitVec 13) (vhold : BitVec 13) (hs : Keeps r s) : Keeps r (State.vinWarn s vin vhold) := by
  unfold State.vinWarn
  repeat' first
    | with_reducible assumption | with_reducible apply keeps_ite | with_reducible apply State.buryEnter_keeps
    | with_reducible apply State.vinShow_keeps

theorem execFrameLaunch_keeps {r : State} (p : Fin 64) (q : LaunchQueue) (phase : BitVec 16) (bitIdx : Byte) {s : State} (hs : Keeps r s) : ∃ t, execFrameLaunch p q phase bitIdx s = .next t ∧ Keeps r t := by
  unfold execFrameLaunch
  repeat' first
    | with_reducible assumption | with_reducible apply State.run_keeps | with_reducible apply State.frameLaunch_keeps
    | (with_reducible refine ⟨_, rfl, ?_⟩) | intro x

theorem execOutEnWrite_keeps {r : State} (m : Master) (j : Fin 16) (v : Word) {s : State} (hs : Keeps r s) : ∃ t, execOutEnWrite m j v s = .next t ∧ Keeps r t := by
  unfold execOutEnWrite
  repeat' first | with_reducible assumption | with_reducible apply State.busWrite32_keeps | (with_reducible refine ⟨_, rfl, ?_⟩)

theorem State.holdoverUpdate_keeps {r : State} {s : State} (hs : Keeps r s) : Keeps r (State.holdoverUpdate s) := by
  unfold State.holdoverUpdate
  repeat' first
    | with_reducible assumption | with_reducible apply keeps_ite | with_reducible apply State.leadWrite_keeps
    | with_reducible apply State.set_keeps | with_reducible apply State.showHold_keeps | with_reducible apply State.anchorReq_keeps
    | (fail_if_no_progress with_reducible refine keeps_mk ?_ rfl rfl)

theorem execMinu_keeps {r : State} (n : Fin 12) (a : BitVec 5) (b : BitVec 5) (c : BitVec 5) (setFlags : Bool) {s : State} (hs : Keeps r s) : ∃ t, execMinu n a b c setFlags s = .next t ∧ Keeps r t := by
  unfold execMinu
  repeat' first | with_reducible assumption | with_reducible apply State.alu_keeps | (with_reducible refine ⟨_, rfl, ?_⟩)

theorem State.degrSync_keeps {r : State} {s : State} (hs : Keeps r s) : Keeps r (State.degrSync s) := by
  unfold State.degrSync
  repeat' first | with_reducible assumption | with_reducible apply State.degrSync1_keeps | with_reducible apply keeps_foldl | intro x

theorem State.syncSkew_keeps {r : State} {s : State} (hs : Keeps r s) : Keeps r (State.syncSkew s) := by
  unfold State.syncSkew
  repeat' first
    | with_reducible assumption | with_reducible apply State.setFlag_keeps | with_reducible apply State.set_keeps
    | with_reducible apply State.levelOff_keeps | with_reducible apply State.levelOn_keeps | split

end Sys2Proof.Machine
end

