-- ==== Sys2Proof/Laws/Keeps6.lean ====
section
/-! SUPPORT. What every operation keeps, continued: one lemma per operation, callees first (part 6). -/

set_option linter.all false

namespace Sys2Proof.Machine

theorem State.crossShow_keeps {r : State} {s : State} (c : Fin 11) (hs : Keeps r s) : Keeps r (State.crossShow s c) := by
  unfold State.crossShow
  repeat' first
    | with_reducible assumption | with_reducible apply keeps_ite | with_reducible apply State.run_keeps
    | with_reducible apply State.setFlag_keeps | with_reducible apply State.forN_keeps | intro x

theorem State.skewBegin_keeps {r : State} {s : State} (c : Fin 11) (hs : Keeps r s) : Keeps r (State.skewBegin s c) := by
  unfold State.skewBegin
  repeat' first
    | with_reducible assumption | with_reducible apply keeps_ite | with_reducible apply State.bump_keeps
    | with_reducible apply State.run_keeps | intro x

theorem State.crossCheck_keeps {r : State} {s : State} (c : Fin 11) (wordClk : List Nat) (hs : Keeps r s) : Keeps r (State.crossCheck s c wordClk) := by
  unfold State.crossCheck
  repeat' first
    | with_reducible assumption | with_reducible apply keeps_ite | with_reducible apply State.crossShow_keeps
    | with_reducible apply State.skewBegin_keeps | (fail_if_no_progress with_reducible refine keeps_mk ?_ rfl rfl) | split

theorem State.pgShow_keeps {r : State} {s : State} (g : Nat) (hs : Keeps r s) : Keeps r (State.pgShow s g) := by
  unfold State.pgShow
  repeat' first
    | with_reducible assumption | with_reducible apply State.set_keeps | with_reducible apply State.forN_keeps
    | with_reducible apply State.latSync_keeps | intro x

theorem State.pwrSample_keeps {r : State} {s : State} (temp : List Int) (vdd : List Nat) (hs : Keeps r s) : Keeps r (State.pwrSample s temp vdd) := by
  unfold State.pwrSample
  repeat' first
    | with_reducible assumption | with_reducible apply State.forN_keeps | with_reducible apply State.tintNow_keeps
    | with_reducible apply State.set_keeps | with_reducible apply State.run_keeps | with_reducible apply State.pgShow_keeps | intro x

theorem State.crossAll_keeps {r : State} {s : State} (temp : List Int) (vdd : List Nat) (wordClk : List Nat) (hs : Keeps r s) : Keeps r (State.crossAll s temp vdd wordClk) := by
  unfold State.crossAll
  repeat' first
    | with_reducible assumption | with_reducible apply State.degrSync_keeps | with_reducible apply State.syncSkew_keeps
    | with_reducible apply State.crossCheck_keeps | with_reducible apply State.pwrSample_keeps | with_reducible apply keeps_foldl | intro x

theorem execCrossingCheck_keeps {r : State} (temp : List Int) (vdd : List Nat) (wordClk : List Nat) {s : State} (hs : Keeps r s) : ∃ t, execCrossingCheck temp vdd wordClk s = .next t ∧ Keeps r t := by
  unfold execCrossingCheck
  repeat' first
    | with_reducible assumption | with_reducible apply State.when__keeps | with_reducible apply State.crossAll_keeps
    | (with_reducible refine ⟨_, rfl, ?_⟩) | intro x

theorem execPwrForce_keeps {r : State} (m : Master) (u : Fin 11) {s : State} (hs : Keeps r s) : ∃ t, execPwrForce m u s = .next t ∧ Keeps r t := by
  unfold execPwrForce
  repeat' first | with_reducible assumption | with_reducible apply State.busWrite32_keeps | (with_reducible refine ⟨_, rfl, ?_⟩)

theorem State.aesSample_keeps {r : State} {s : State} (n : Fin 23) (b : List Byte) (hs : Keeps r s) : Keeps r (State.aesSample s n b) := by
  unfold State.aesSample
  repeat' first
    | with_reducible assumption | with_reducible apply keeps_ite | with_reducible apply State.setRef_keeps
    | with_reducible apply State.lastValid_keeps

theorem State.rehold_keeps {r : State} {s : State} (n : Fin 12) (hs : Keeps r s) : Keeps r (State.rehold s n) := by
  unfold State.rehold
  repeat' first | with_reducible assumption | with_reducible apply keeps_ite | with_reducible apply State.event_keeps

theorem execBswap32_keeps {r : State} (n : Fin 12) (a : BitVec 5) (b : BitVec 5) (setFlags : Bool) {s : State} (hs : Keeps r s) : ∃ t, execBswap32 n a b setFlags s = .next t ∧ Keeps r t := by
  unfold execBswap32
  repeat' first | with_reducible assumption | with_reducible apply State.alu1_keeps | (with_reducible refine ⟨_, rfl, ?_⟩)

theorem State.coldClear_keeps {r : State} {s : State} (hs : Keeps r s) : Keeps r (State.coldClear s) := by
  exact keeps_chip (s := s) hs rfl rfl

theorem State.coldReset_keeps {r : State} {s : State} (hs : Keeps r s) : Keeps r (State.coldReset s) := by
  unfold State.coldReset
  repeat' first | with_reducible assumption | with_reducible apply State.logRestore_keeps | with_reducible apply State.coldClear_keeps

theorem State.powerOff_keeps {r : State} {s : State} (hs : Keeps r s) : Keeps r (State.powerOff s) := by
  unfold State.powerOff
  repeat' first
    | with_reducible assumption | with_reducible apply State.coldReset_keeps
    | (fail_if_no_progress with_reducible refine keeps_mk ?_ rfl rfl)

theorem State.upSync_keeps {r : State} {s : State} (p : Fin 64) (y3 : Req) (auth : Bool) (hs : Keeps r s) : Keeps r (State.upSync s p y3 auth) := by
  unfold State.upSync
  repeat' first | with_reducible assumption | with_reducible apply keeps_ite | with_reducible apply State.setUp_keeps

theorem State.upFollow_keeps {r : State} {s : State} (p : Fin 64) (y3 : Req) (auth : Bool) (hs : Keeps r s) : Keeps r (State.upFollow s p y3 auth) := by
  unfold State.upFollow
  repeat' first | with_reducible assumption | with_reducible apply State.setUp_keeps | lift_lets -underBinder | intro x | split

theorem State.upRecord_keeps {r : State} {s : State} (p : Fin 64) (hs : Keeps r s) : Keeps r (State.upRecord s p) := by
  unfold State.upRecord
  repeat' first
    | with_reducible assumption | with_reducible apply State.setUp_keeps | with_reducible apply State.inletPut_keeps
    | with_reducible apply State.drawn_keeps | lift_lets -underBinder | intro x | split

theorem State.upTake_keeps {r : State} {s : State} (p : Fin 64) (y3 : Req) (hs : Keeps r s) : Keeps r (State.upTake s p y3) := by
  unfold State.upTake
  repeat' first
    | with_reducible assumption | with_reducible apply keeps_ite | with_reducible apply State.upAnnounce_keeps
    | with_reducible apply State.upSync_keeps | with_reducible apply State.upFollow_keeps | with_reducible apply State.upDelayResp_keeps
    | with_reducible apply State.poolRet_keeps | with_reducible apply State.upRecord_keeps

theorem execJobSha256_keeps {r : State} (n : Fin 12) (num : Fin 16) {s : State} (hs : Keeps r s) : ∃ t, execJobSha256 n num s = .next t ∧ Keeps r t := by
  unfold execJobSha256
  repeat' first
    | with_reducible assumption | with_reducible apply State.runJob_keeps | with_reducible apply State.hashJob_keeps
    | (with_reducible refine ⟨_, rfl, ?_⟩) | intro x

theorem State.adrStart1_keeps {r : State} {s : State} (n : Fin 4) (msNow : Nat) (hs : Keeps r s) : Keeps r (State.adrStart1 s n msNow) := by
  unfold State.adrStart1
  repeat' first
    | with_reducible assumption | with_reducible apply keeps_ite | with_reducible apply State.setFlag_keeps
    | with_reducible apply State.setAdr_keeps

theorem State.adrTrigger_keeps {r : State} {s : State} (hs : Keeps r s) : Keeps r (State.adrTrigger s) := by
  unfold State.adrTrigger
  repeat' first
    | with_reducible assumption | with_reducible apply keeps_ite | with_reducible apply State.adrStart1_keeps
    | with_reducible apply State.adrEvt_keeps | with_reducible apply State.setFlag_keeps | with_reducible apply keeps_foldl | intro x
    | (fail_if_no_progress with_reducible refine keeps_mk ?_ rfl rfl) | split

theorem State.vholdCollapse_keeps {r : State} {s : State} (vinAbsent : Bool) (bodyDone : Bool) (vhold : BitVec 13) (hs : Keeps r s) : Keeps r (State.vholdCollapse s vinAbsent bodyDone vhold) := by
  unfold State.vholdCollapse
  repeat' first
    | with_reducible assumption | with_reducible apply keeps_ite | with_reducible apply State.vholdShow_keeps
    | with_reducible apply State.powerOff_keeps | (fail_if_no_progress with_reducible refine keeps_mk ?_ rfl rfl)

theorem execVholdCollapse_keeps {r : State} (vinAbsent : Bool) (bodyDone : Bool) (vhold : BitVec 13) {s : State} (hs : Keeps r s) : ∃ t, execVholdCollapse vinAbsent bodyDone vhold s = .next t ∧ Keeps r t := by
  unfold execVholdCollapse
  repeat' first
    | with_reducible assumption | with_reducible apply State.when__keeps | with_reducible apply State.vholdCollapse_keeps
    | (with_reducible refine ⟨_, rfl, ?_⟩) | intro x

theorem State.recZero_keeps {r : State} {s : State} (i : Nat) (hs : Keeps r s) : Keeps r (State.recZero s i) := by
  unfold State.recZero
  repeat' first | with_reducible assumption | with_reducible apply State.setRecFld_keeps

theorem State.packSlot_keeps {r : State} {s : State} (p : Fin 64) (f : PackFrame) (hs : Keeps r s) : Keeps r (State.packSlot s p f) := by
  unfold State.packSlot
  repeat' first | with_reducible assumption | with_reducible apply keeps_ite | with_reducible apply State.setLport_keeps

theorem State.packPut_keeps {r : State} {s : State} (i : Fin 68) (body : List Byte) (hs : Keeps r s) : Keeps r (State.packPut s i body) := by
  unfold State.packPut
  repeat' first
    | with_reducible assumption | with_reducible apply State.packSlot_keeps | with_reducible apply State.takeRct_keeps
    | with_reducible apply State.setAtt_keeps | with_reducible apply State.drawn_keeps | split

theorem State.txStamped_keeps {r : State} {s : State} (i : Fin 68) (frame : List Byte) (ts : Option Nat) (degraded : Bool) (hs : Keeps r s) : Keeps r (State.txStamped s i frame ts degraded) := by
  unfold State.txStamped
  repeat' first
    | with_reducible assumption | with_reducible apply State.setAtt_keeps | with_reducible apply State.packPut_keeps | lift_lets -underBinder
    | intro x | split

theorem State.mintOut_keeps {r : State} {s : State} (k : Delivered) (n : Nat) (hs : Keeps r s) : Keeps r (State.mintOut s k n) := by
  unfold State.mintOut
  repeat' first
    | with_reducible assumption | with_reducible apply State.cookies_keeps | with_reducible apply State.obs_keeps
    | with_reducible apply State.setWordsN_keeps | with_reducible apply State.set_keeps | with_reducible apply State.srvEvt_keeps
    | with_reducible apply State.setFlag_keeps

theorem State.discardLate_keeps {r : State} {s : State} (p : Fin 64) (e : LEntry) (rt : Nat) (hs : Keeps r s) : Keeps r (State.discardLate s p e rt) := by
  unfold State.discardLate
  repeat' first
    | with_reducible assumption | with_reducible apply State.obs_keeps | with_reducible apply State.lchEvt_keeps
    | with_reducible apply State.bump_keeps | with_reducible apply State.unqueue_keeps | with_reducible apply State.report_keeps

theorem State.immLate_keeps {r : State} {s : State} (p : Fin 64) (hs : Keeps r s) : Keeps r (State.immLate s p) := by
  unfold State.immLate
  repeat' first | with_reducible assumption | with_reducible apply State.discardLate_keeps | split

theorem execMbxSetParam_keeps {r : State} (kspiOk : Bool) {s : State} (hs : Keeps r s) : ∃ t, execMbxSetParam kspiOk s = .next t ∧ Keeps r t := by
  unfold execMbxSetParam
  repeat' first
    | with_reducible assumption | with_reducible apply State.mbRun_keeps | with_reducible apply State.cmdSetParam_keeps
    | (with_reducible refine ⟨_, rfl, ?_⟩) | intro x

theorem execSrvPoolRet_keeps {r : State} (m : Master) (v : Word) {s : State} (hs : Keeps r s) : ∃ t, execSrvPoolRet m v s = .next t ∧ Keeps r t := by
  unfold execSrvPoolRet
  repeat' first | with_reducible assumption | with_reducible apply State.busWrite32_keeps | (with_reducible refine ⟨_, rfl, ?_⟩)

theorem State.spoofGate_keeps {r : State} {s : State} (bad : Nat) (hs : Keeps r s) : Keeps r (State.spoofGate s bad).2 := by
  unfold State.spoofGate
  repeat' first
    | with_reducible assumption | with_reducible apply keeps_ite | with_reducible apply State.setGns_keeps
    | with_reducible apply State.gnsEvt_keeps | with_reducible apply State.raise_keeps | lift_lets -underBinder | intro x | split

theorem execAdrStartWrite_keeps {r : State} (m : Master) (v : Word) {s : State} (hs : Keeps r s) : ∃ t, execAdrStartWrite m v s = .next t ∧ Keeps r t := by
  unfold execAdrStartWrite
  repeat' first | with_reducible assumption | with_reducible apply State.busWrite32_keeps | (with_reducible refine ⟨_, rfl, ?_⟩)

theorem State.braceCompare_keeps {r : State} {s : State} (hs : Keeps r s) : Keeps r (State.braceCompare s) := by
  unfold State.braceCompare
  repeat' first
    | with_reducible assumption | with_reducible apply keeps_ite | with_reducible apply State.setBrc_keeps
    | with_reducible apply State.raiseBit_keeps | with_reducible apply State.bump_keeps | with_reducible apply State.set_keeps
    | with_reducible apply State.levelOn_keeps | with_reducible apply State.levelOff_keeps

theorem State.katResult_keeps {r : State} {s : State} (ran0 : Bool) (pass0 : Bool) (ran1 : Bool) (pass1 : Bool) (hs : Keeps r s) : Keeps r (State.katResult s ran0 pass0 ran1 pass1) := by
  unfold State.katResult
  repeat' first
    | with_reducible assumption | with_reducible apply keeps_ite | with_reducible apply State.setPair_keeps
    | with_reducible apply State.kReload_keeps | with_reducible apply State.engineReset_keeps | with_reducible apply State.set_keeps
    | with_reducible apply State.kpairRecord_keeps | split

theorem State.utcTake_keeps {r : State} {s : State} (u : UtcSrc) (src : Nat) (hs : Keeps r s) : Keeps r (State.utcTake s u src) := by
  unfold State.utcTake
  repeat' first
    | with_reducible assumption | with_reducible apply keeps_ite | with_reducible apply State.timeStat_keeps
    | with_reducible apply State.leapFlags_keeps | with_reducible apply State.utcShow_keeps

theorem State.pauseFrame_keeps {r : State} {s : State} (p : Fin 64) (quanta : Nat) (hs : Keeps r s) : Keeps r (State.pauseFrame s p quanta) := by
  unfold State.pauseFrame
  repeat' first
    | with_reducible assumption | with_reducible apply keeps_ite | with_reducible apply State.bump_keeps
    | with_reducible apply State.setLink_keeps | with_reducible apply State.setFlag_keeps | with_reducible apply State.setLport_keeps

theorem State.hostOpDone_keeps {r : State} {s : State} (status : Nat) (index : Nat) (hs : Keeps r s) : Keeps r (State.hostOpDone s status index) := by
  unfold State.hostOpDone
  repeat' first
    | with_reducible assumption | with_reducible apply State.setSrv_keeps | with_reducible apply State.setFlag_keeps
    | with_reducible apply State.set_keeps

theorem State.assistStep_keeps {r : State} {s : State} (op : AssistOp) (hs : Keeps r s) : Keeps r (State.assistStep s op) := by
  unfold State.assistStep
  repeat' first
    | with_reducible assumption | with_reducible apply State.assist_keeps | with_reducible apply State.hostOpDone_keeps
    | with_reducible apply State.setSrv_keeps | with_reducible apply State.jobDone_keeps | lift_lets -underBinder | intro x | split

theorem execAssistClearDeny_keeps {r : State} {s : State} (hs : Keeps r s) : ∃ t, execAssistClearDeny s = .next t ∧ Keeps r t := by
  unfold execAssistClearDeny
  repeat' first | with_reducible assumption | with_reducible apply State.assistStep_keeps | (with_reducible refine ⟨_, rfl, ?_⟩)

theorem execSyswr_keeps {r : State} (n : Fin 12) (b : BitVec 5) (idx : BitVec 7) {s : State} (hs : Keeps r s) : ∃ t, execSyswr n b idx s = .next t ∧ Keeps r t := by
  unfold execSyswr
  repeat' first
    | with_reducible assumption | with_reducible apply keeps_ite | with_reducible apply State.issue_keeps
    | with_reducible apply State.next_keeps | with_reducible apply State.set_keeps | with_reducible apply State.setFlags_keeps
    | with_reducible apply State.trap_keeps | (with_reducible refine ⟨_, rfl, ?_⟩) | intro x

theorem State.mintJob_keeps {r : State} {s : State} (j : UJob) (hs : Keeps r s) : Keeps r (State.mintJob s j) := by
  unfold State.mintJob
  repeat' first
    | with_reducible assumption | with_reducible apply keeps_ite | with_reducible apply State.aeadDone_keeps
    | with_reducible apply State.cookies_keeps | with_reducible apply State.obs_keeps | with_reducible apply State.setBytes_keeps | split

theorem State.leadHandover_keeps {r : State} {s : State} (hs : Keeps r s) : Keeps r (State.leadHandover s) := by
  unfold State.leadHandover
  repeat' first | with_reducible assumption | with_reducible apply State.handoverReq_keeps

theorem State.snReturn_keeps {r : State} {s : State} (hs : Keeps r s) : Keeps r (State.snReturn s) := by
  unfold State.snReturn
  repeat' first | with_reducible assumption | with_reducible apply keeps_ite | with_reducible apply State.leadHandover_keeps

theorem State.chTimeout_keeps {r : State} {s : State} (c : Fin 16) (hs : Keeps r s) : Keeps r (State.chTimeout s c) := by
  unfold State.chTimeout
  repeat' first | with_reducible assumption | with_reducible apply keeps_ite | with_reducible apply State.chFail_keeps

theorem execFchCplTimeout_keeps {r : State} (c : Fin 16) {s : State} (hs : Keeps r s) : ∃ t, execFchCplTimeout c s = .next t ∧ Keeps r t := by
  unfold execFchCplTimeout
  repeat' first | with_reducible assumption | with_reducible apply State.chTimeout_keeps | (with_reducible refine ⟨_, rfl, ?_⟩)

theorem State.fePowerUp_keeps {r : State} {s : State} (hs : Keeps r s) : Keeps r (State.fePowerUp s) := by
  unfold State.fePowerUp
  repeat' first | with_reducible assumption | with_reducible apply keeps_ite | with_reducible apply State.setGns_keeps

theorem execFePowerUp_keeps {r : State} {s : State} (hs : Keeps r s) : ∃ t, execFePowerUp s = .next t ∧ Keeps r t := by
  unfold execFePowerUp
  repeat' first | with_reducible assumption | with_reducible apply State.fePowerUp_keeps | (with_reducible refine ⟨_, rfl, ?_⟩)

theorem State.surveyStep_keeps {r : State} {s : State} (sol : Solution) (hs : Keeps r s) : Keeps r (State.surveyStep s sol) := by
  unfold State.surveyStep
  repeat' first
    | with_reducible assumption | with_reducible apply keeps_ite | with_reducible apply State.setFlag_keeps
    | with_reducible apply State.setGns_keeps

theorem State.staleBone_keeps {r : State} {s : State} (hs : Keeps r s) : Keeps r (State.staleBone s) := by
  unfold State.staleBone
  repeat' first
    | with_reducible assumption | lift_lets -underBinder | intro x | (fail_if_no_progress with_reducible refine keeps_mk ?_ rfl rfl) | split

theorem State.survive_keeps {r : State} {s : State} (vin : BitVec 13) (hs : Keeps r s) : Keeps r (State.survive s vin) := by
  unfold State.survive
  repeat' first
    | with_reducible assumption | with_reducible apply keeps_ite | with_reducible apply State.set_keeps
    | with_reducible apply State.bump_keeps | with_reducible apply State.aonEvt_keeps | with_reducible apply State.setFlag_keeps
    | with_reducible apply State.raise_keeps | with_reducible apply State.saveState_keeps | with_reducible apply State.staleBone_keeps

theorem execBurySurvival_keeps {r : State} (vin : BitVec 13) {s : State} (hs : Keeps r s) : ∃ t, execBurySurvival vin s = .next t ∧ Keeps r t := by
  unfold execBurySurvival
  repeat' first | with_reducible assumption | with_reducible apply State.survive_keeps | (with_reducible refine ⟨_, rfl, ?_⟩)

theorem State.tdcBoundary_keeps {r : State} {s : State} (hs : Keeps r s) : Keeps r (State.tdcBoundary s) := by
  unfold State.tdcBoundary
  repeat' first
    | with_reducible assumption | with_reducible apply State.forN_keeps | with_reducible apply State.syncTdc_keeps
    | with_reducible apply State.setTdc_keeps | intro x | split

theorem execSubb_keeps {r : State} (n : Fin 12) (a : BitVec 5) (b : BitVec 5) (c : BitVec 5) (setFlags : Bool) {s : State} (hs : Keeps r s) : ∃ t, execSubb n a b c setFlags s = .next t ∧ Keeps r t := by
  unfold execSubb
  repeat' first | with_reducible assumption | with_reducible apply State.alu_keeps | (with_reducible refine ⟨_, rfl, ?_⟩)

theorem execDbgInvasive_keeps {r : State} (m : Master) {s : State} (hs : Keeps r s) : ∃ t, execDbgInvasive m s = .next t ∧ Keeps r t := by
  unfold execDbgInvasive
  repeat' first
    | with_reducible assumption | with_reducible apply State.when__keeps | with_reducible apply State.dbgReq_keeps
    | (with_reducible refine ⟨_, rfl, ?_⟩) | intro x

theorem State.stopped_keeps {r : State} {s : State} (n : Fin 12) (hs : Keeps r s) : Keeps r (State.stopped s n) := by
  unfold State.stopped
  repeat' first
    | with_reducible assumption | with_reducible apply State.orphan_keeps | with_reducible apply State.setEng_keeps
    | with_reducible apply State.syncTickets_keeps | with_reducible apply State.set_keeps

theorem State.guardAbandon_keeps {r : State} {s : State} (hs : Keeps r s) : Keeps r (State.guardAbandon s) := by
  unfold State.guardAbandon
  repeat' first
    | with_reducible assumption | with_reducible apply State.setFlag_keeps | with_reducible apply State.setGuard_keeps
    | with_reducible apply State.levelOn_keeps | with_reducible apply State.stopped_keeps

theorem State.hbMiss_keeps {r : State} {s : State} (hs : Keeps r s) : Keeps r (State.hbMiss s) := by
  unfold State.hbMiss
  repeat' first
    | with_reducible assumption | with_reducible apply keeps_ite | with_reducible apply State.set_keeps
    | with_reducible apply State.raise_keeps | with_reducible apply State.guardAbandon_keeps | with_reducible apply State.guardReload_keeps
    | (fail_if_no_progress with_reducible refine keeps_mk ?_ rfl rfl)

theorem State.oscRecord_keeps {r : State} {s : State} (k : Fin 4) (lc : Nat) (step : Nat) (valid : Bool) (hs : Keeps r s) : Keeps r (State.oscRecord s k lc step valid) := by
  unfold State.oscRecord
  repeat' first | with_reducible assumption | with_reducible apply State.setOsc_keeps

theorem State.hostForward_keeps {r : State} {s : State} (p : Fin 64) (b : List Byte) (md : List Byte) (hs : Keeps r s) : Keeps r (State.hostForward s p b md) := by
  unfold State.hostForward
  repeat' first
    | with_reducible assumption | with_reducible apply keeps_ite | with_reducible apply State.rxDrop_keeps
    | with_reducible apply State.raiseBit_keeps | with_reducible apply State.bump_keeps | with_reducible apply State.devWrite_keeps
    | with_reducible apply State.irqEdge_keeps | with_reducible apply State.delivered_keeps | with_reducible apply State.bumpW_keeps

theorem State.coast_keeps {r : State} {s : State} (unlock : Bool) (vtune : Byte) (hs : Keeps r s) : Keeps r (State.coast s unlock vtune) := by
  unfold State.coast
  repeat' first
    | with_reducible assumption | with_reducible apply keeps_ite | with_reducible apply State.setFlag_keeps
    | with_reducible apply State.set_keeps | with_reducible apply State.bump_keeps | with_reducible apply State.levelOn_keeps
    | with_reducible apply State.clkEvt_keeps | (fail_if_no_progress with_reducible refine keeps_mk ?_ rfl rfl)

theorem State.upSend_keeps {r : State} {s : State} (p : Fin 64) (hdr : List Byte) (buf : Nat) (event : Bool) (report : Bool) (m : PtpMsg) (tlvs : List Byte) (hs : Keeps r s) : Keeps r (State.upSend s p hdr buf event report m tlvs).2 := by
  unfold State.upSend
  repeat' first | with_reducible assumption | with_reducible apply State.servLaunch_keeps | split

theorem State.upDelayReq_keeps {r : State} {s : State} (p : Fin 64) (hdr : List Byte) (buf : Nat) (hs : Keeps r s) : Keeps r (State.upDelayReq s p hdr buf) := by
  unfold State.upDelayReq
  repeat' first
    | with_reducible assumption | with_reducible apply keeps_ite | with_reducible apply State.upSend_keeps
    | with_reducible apply State.setUp_keeps

theorem State.putDest_keeps {r : State} {s : State} (n : Fin 12) (d : Dest) (v : Nat) (hs : Keeps r s) : Keeps r (State.putDest s n d v) := by
  unfold State.putDest
  repeat' first | with_reducible assumption | with_reducible apply State.setG_keeps | with_reducible apply State.setV_keeps | split

theorem State.readBack_keeps {r : State} {s : State} (n : Fin 12) (y3 : MResp) (hs : Keeps r s) : Keeps r (State.readBack s n y3) := by
  unfold State.readBack
  repeat' first
    | with_reducible assumption | with_reducible apply State.engResume_keeps | with_reducible apply State.trap_keeps
    | with_reducible apply State.next_keeps | with_reducible apply State.putDest_keeps | with_reducible apply State.amoResult_keeps | intro x
    | split

theorem State.synMismatch_keeps {r : State} {s : State} (err : Nat) (hs : Keeps r s) : Keeps r (State.synMismatch s err) := by
  unfold State.synMismatch
  repeat' first
    | with_reducible assumption | with_reducible apply keeps_ite | with_reducible apply State.outRealign_keeps
    | with_reducible apply State.synEvt_keeps | with_reducible apply keeps_foldl | intro x

theorem State.packTxStamp_keeps {r : State} {s : State} (i : Fin 68) (phase : BitVec 16) (bitIdx : Byte) (hs : Keeps r s) : Keeps r (State.packTxStamp s i phase bitIdx) := by
  unfold State.packTxStamp
  repeat' first
    | with_reducible assumption | with_reducible apply State.txStamped_keeps | with_reducible apply State.setAtt_keeps
    | with_reducible apply State.setLport_keeps | lift_lets -underBinder | intro x | split

theorem State.frameReady_keeps {r : State} {s : State} (p : Fin 64) (hs : Keeps r s) : Keeps r (State.frameReady s p) := by
  unfold State.frameReady
  repeat' first | with_reducible assumption | with_reducible apply State.setLport_keeps

theorem execTbRebuildStart_keeps {r : State} {s : State} (hs : Keeps r s) : ∃ t, execTbRebuildStart s = .next t ∧ Keeps r t := by
  unfold execTbRebuildStart
  repeat' first
    | with_reducible assumption | with_reducible apply State.when__keeps | with_reducible apply State.tbRebuild_keeps
    | (with_reducible refine ⟨_, rfl, ?_⟩)

theorem State.flrDone_keeps {r : State} {s : State} (f : Nat) (hs : Keeps r s) : Keeps r (State.flrDone s f) := by
  unfold State.flrDone
  repeat' first
    | with_reducible assumption | with_reducible apply keeps_ite | with_reducible apply State.raiseBit_keeps
    | with_reducible apply State.fnBit_keeps

theorem execMul_keeps {r : State} (n : Fin 12) (a : BitVec 5) (b : BitVec 5) (c : BitVec 5) (setFlags : Bool) {s : State} (hs : Keeps r s) : ∃ t, execMul n a b c setFlags s = .next t ∧ Keeps r t := by
  unfold execMul
  repeat' first | with_reducible assumption | with_reducible apply State.alu_keeps | (with_reducible refine ⟨_, rfl, ?_⟩)

theorem State.ageBy_keeps {r : State} {s : State} (n : Nat) (hs : Keeps r s) : Keeps r (State.ageBy s n) := by
  unfold State.ageBy
  repeat' first
    | with_reducible assumption | with_reducible apply keeps_ite | with_reducible apply State.set_keeps
    | with_reducible apply State.estShow_keeps

theorem State.wake_keeps {r : State} {s : State} (age : Nat) (hs : Keeps r s) : Keeps r (State.wake s age) := by
  unfold State.wake
  repeat' first
    | with_reducible assumption | with_reducible apply State.ageBy_keeps | with_reducible apply State.set_keeps
    | with_reducible apply State.chipResetChecked_keeps | (fail_if_no_progress with_reducible refine keeps_mk ?_ rfl rfl)

theorem State.deepWake_keeps {r : State} {s : State} (cause : Fin 3) (age : Nat) (vin : BitVec 13) (hs : Keeps r s) : Keeps r (State.deepWake s cause age vin) := by
  unfold State.deepWake
  repeat' first
    | with_reducible assumption | with_reducible apply keeps_ite | with_reducible apply State.wake_keeps
    | with_reducible apply State.set_keeps

theorem State.seenBy_keeps {r : State} {s : State} (n : Fin 11) (hs : Keeps r s) : Keeps r (State.seenBy s n) := by
  unfold State.seenBy
  repeat' first | with_reducible assumption | (fail_if_no_progress with_reducible refine keeps_mk ?_ rfl rfl)

theorem execSynCommitWrite_keeps {r : State} (m : Master) (k : Fin 4) (v : Word) {s : State} (hs : Keeps r s) : ∃ t, execSynCommitWrite m k v s = .next t ∧ Keeps r t := by
  unfold execSynCommitWrite
  repeat' first | with_reducible assumption | with_reducible apply State.busWrite32_keeps | (with_reducible refine ⟨_, rfl, ?_⟩)

theorem execLui_keeps {r : State} (n : Fin 12) (a : BitVec 5) (imm : BitVec 16) {s : State} (hs : Keeps r s) : ∃ t, execLui n a imm s = .next t ∧ Keeps r t := by
  unfold execLui
  repeat' first
    | with_reducible assumption | with_reducible apply State.issue_keeps | with_reducible apply State.next_keeps
    | with_reducible apply State.setG_keeps | (with_reducible refine ⟨_, rfl, ?_⟩) | intro x

theorem State.spend_keeps {r : State} {s : State} (y2 : Req) (hs : Keeps r s) : Keeps r (State.spend s y2).2.2 := by
  unfold State.spend
  repeat' first
    | with_reducible assumption | with_reducible apply keeps_ite2 | with_reducible apply keeps_ite3
    | with_reducible apply State.assistInsert_keeps | with_reducible apply State.setRecFld_keeps | with_reducible apply State.recZero_keeps
    | lift_lets -underBinder | intro x | with_reducible refine keeps_snd ‹_› ?_ | split

theorem State.ntpLaunch_keeps {r : State} {s : State} (k : Fin 8) (y3 : Req) (payload : List Byte) (hs : Keeps r s) : Keeps r (State.ntpLaunch s k y3 payload) := by
  unfold State.ntpLaunch
  repeat' first
    | with_reducible assumption | with_reducible apply keeps_ite | with_reducible apply State.servLaunch_keeps
    | with_reducible apply State.poolRet_keeps

theorem State.ntpReply_keeps {r : State} {s : State} (k : Fin 8) (y3 : Req) (hs : Keeps r s) : Keeps r (State.ntpReply s k y3) := by
  unfold State.ntpReply
  repeat' first
    | with_reducible assumption | with_reducible apply keeps_ite | with_reducible apply State.spend_keeps
    | with_reducible apply State.ntpLaunch_keeps | with_reducible apply State.bump_keeps | with_reducible apply State.setRecFld_keeps | split

theorem execNtpResponse_keeps {r : State} (k : Fin 8) {s : State} (hs : Keeps r s) : ∃ t, execNtpResponse k s = .next t ∧ Keeps r t := by
  unfold execNtpResponse
  repeat' first
    | with_reducible assumption | with_reducible apply State.serveHead_keeps | with_reducible apply State.ntpReply_keeps
    | (with_reducible refine ⟨_, rfl, ?_⟩) | intro x

theorem State.loads_keeps {r : State} {s : State} (n : Fin 12) (d : Dest) (hs : Keeps r s) : Keeps r (State.loads s n d) := by
  unfold State.loads
  repeat' first | with_reducible assumption | with_reducible apply State.setEng_keeps

theorem State.saveCapture_keeps {r : State} {s : State} (hs : Keeps r s) : Keeps r (State.saveCapture s) := by
  unfold State.saveCapture
  repeat' first
    | with_reducible assumption | with_reducible apply State.saveState_keeps
    | (fail_if_no_progress with_reducible refine keeps_mk ?_ rfl rfl) | split

theorem State.noSlot_keeps {r : State} {s : State} (hs : Keeps r s) : Keeps r (State.noSlot s) := by
  unfold State.noSlot
  repeat' first | with_reducible assumption | with_reducible apply State.levelOn_keeps | with_reducible apply State.aonEvt_keeps

theorem State.saveCommit_keeps {r : State} {s : State} (hs : Keeps r s) : Keeps r (State.saveCommit s) := by
  unfold State.saveCommit
  repeat' first
    | with_reducible assumption | with_reducible apply State.saveCapture_keeps | with_reducible apply State.set_keeps
    | with_reducible apply State.aonEvt_keeps | with_reducible apply State.saveState_keeps | with_reducible apply State.noSlot_keeps
    | with_reducible apply State.deepEnter_keeps | with_reducible apply State.saveStart_keeps | split | lift_lets -underBinder | intro x
    | (fail_if_no_progress with_reducible refine keeps_mk ?_ rfl rfl)

theorem execSaveCommit_keeps {r : State} {s : State} (hs : Keeps r s) : ∃ t, execSaveCommit s = .next t ∧ Keeps r t := by
  unfold execSaveCommit
  repeat' first | with_reducible assumption | with_reducible apply State.saveCommit_keeps | (with_reducible refine ⟨_, rfl, ?_⟩)

theorem execAnd_keeps {r : State} (n : Fin 12) (a : BitVec 5) (b : BitVec 5) (c : BitVec 5) (setFlags : Bool) {s : State} (hs : Keeps r s) : ∃ t, execAnd n a b c setFlags s = .next t ∧ Keeps r t := by
  unfold execAnd
  repeat' first | with_reducible assumption | with_reducible apply State.alu_keeps | (with_reducible refine ⟨_, rfl, ?_⟩)

theorem execDbgClose_keeps {r : State} (m : Master) {s : State} (hs : Keeps r s) : ∃ t, execDbgClose m s = .next t ∧ Keeps r t := by
  unfold execDbgClose
  repeat' first
    | with_reducible assumption | with_reducible apply State.when__keeps | with_reducible apply State.dbgReq_keeps
    | (with_reducible refine ⟨_, rfl, ?_⟩) | intro x

theorem State.scrubEnd_keeps {r : State} {s : State} (hs : Keeps r s) : Keeps r (State.scrubEnd s) := by
  unfold State.scrubEnd
  repeat' first
    | with_reducible assumption | with_reducible apply State.bump_keeps | with_reducible apply State.set_keeps
    | with_reducible apply State.raiseBit_keeps | (fail_if_no_progress with_reducible refine keeps_mk ?_ rfl rfl)

theorem State.periodicSave_keeps {r : State} {s : State} (hs : Keeps r s) : Keeps r (State.periodicSave s) := by
  unfold State.periodicSave
  repeat' first
    | with_reducible assumption | with_reducible apply keeps_ite | with_reducible apply State.saveStart_keeps
    | (fail_if_no_progress with_reducible refine keeps_mk ?_ rfl rfl)

theorem State.loadOp_keeps {r : State} {s : State} (n : Fin 12) (b : BitVec 5) (imm : BitVec 16) (len : Nat) (d : Dest) (cost : Nat) (hs : Keeps r s) : Keeps r (State.loadOp s n b imm len d cost) := by
  unfold State.loadOp
  repeat' first
    | with_reducible assumption | with_reducible apply keeps_ite | with_reducible apply State.trap_keeps
    | with_reducible apply State.dmemSoft_keeps | with_reducible apply State.next_keeps | with_reducible apply State.loads_keeps
    | with_reducible apply State.putDest_keeps | with_reducible apply State.tryRead_keeps | with_reducible apply State.hold_keeps
    | with_reducible apply State.engRegs_keeps | with_reducible refine keeps_snd ‹_› ?_ | split

theorem State.load_keeps {r : State} {s : State} (ws : List Word) (n : Fin 12) (b : BitVec 5) (imm : BitVec 16) (len : Nat) (d : Dest) (cost : Nat) (hs : Keeps r s) : ∃ t, State.load s ws n b imm len d cost = .next t ∧ Keeps r t := by
  unfold State.load
  repeat' first
    | with_reducible assumption | with_reducible apply State.issue_keeps | with_reducible apply State.loadOp_keeps
    | (with_reducible refine ⟨_, rfl, ?_⟩) | intro x

theorem execPackTxTimestamp_keeps {r : State} (i : Fin 68) (phase : BitVec 16) (bitIdx : Byte) {s : State} (hs : Keeps r s) : ∃ t, execPackTxTimestamp i phase bitIdx s = .next t ∧ Keeps r t := by
  unfold execPackTxTimestamp
  repeat' first
    | with_reducible assumption | with_reducible apply State.run_keeps | with_reducible apply State.packTxStamp_keeps
    | (with_reducible refine ⟨_, rfl, ?_⟩) | intro x

theorem State.orbitPut_keeps {r : State} {s : State} (o : Orbit) (hs : Keeps r s) : Keeps r (State.orbitPut s o) := by
  unfold State.orbitPut
  repeat' first | with_reducible assumption | with_reducible apply State.setGns_keeps

theorem State.syncAuth_keeps {r : State} {s : State} (hs : Keeps r s) : Keeps r (State.syncAuth s) := by
  unfold State.syncAuth
  repeat' first | with_reducible assumption | with_reducible apply State.set_keeps

theorem State.authSet_keeps {r : State} {s : State} (sv : Nat) (on : Bool) (hs : Keeps r s) : Keeps r (State.authSet s sv on) := by
  unfold State.authSet
  repeat' first
    | with_reducible assumption | with_reducible apply State.orbitPut_keeps | with_reducible apply State.syncAuth_keeps
    | with_reducible apply State.forN_keeps | with_reducible apply State.setFlag_keeps | intro x | split

theorem State.orbitHear_keeps {r : State} {s : State} (y2 : Fin 24) (iod : Nat) (words : List Byte) (hs : Keeps r s) : Keeps r (State.orbitHear s y2 iod words).2 := by
  unfold State.orbitHear
  repeat' first
    | with_reducible assumption | with_reducible apply State.authSet_keeps | with_reducible apply State.orbitPut_keeps
    | lift_lets -underBinder | intro x | split

theorem State.hear_keeps {r : State} {s : State} (heard : List (Fin 24 × Nat × List Byte)) (hs : Keeps r s) : Keeps r (State.hear s heard).2 := by
  unfold State.hear
  split
  · exact hs
  · refine keeps_foldl2 hs fun s hs a x => ?_
    dsimp only
    split
    · exact hs
    · exact State.orbitHear_keeps _ _ _ hs

theorem State.ctxFill_keeps {r : State} {s : State} (u : Nat) (c : Nat) (c2s : List Byte) (s2c : List Byte) (hs : Keeps r s) : Keeps r (State.ctxFill s u c c2s s2c) := by
  unfold State.ctxFill
  repeat' first | with_reducible assumption | with_reducible apply State.ctxSync_keeps | with_reducible apply State.setSrv_keeps

theorem State.waitFor_keeps {r : State} {s : State} (n : Fin 12) (w : Waiting) (hs : Keeps r s) : Keeps r (State.waitFor s n w) := by
  unfold State.waitFor
  repeat' first | with_reducible assumption | with_reducible apply State.set_keeps | with_reducible apply State.setEng_keeps

theorem State.waitDone_keeps {r : State} {s : State} (n : Fin 12) (a : BitVec 5) (mask : BitVec 7) (wake : BitVec 7) (hs : Keeps r s) : Keeps r (State.waitDone s n a mask wake) := by
  unfold State.waitDone
  repeat' first
    | with_reducible assumption | with_reducible apply State.set_keeps | with_reducible apply State.setEng_keeps
    | with_reducible apply State.next_keeps | with_reducible apply State.rehold_keeps | with_reducible apply State.setG_keeps

theorem State.waittNow_keeps {r : State} {s : State} (n : Fin 12) (a : BitVec 5) (vb : BitVec 3) (mask : BitVec 7) (hs : Keeps r s) : Keeps r (State.waittNow s n a vb mask) := by
  unfold State.waittNow
  repeat' first
    | with_reducible assumption | with_reducible apply keeps_ite | with_reducible apply State.setFlags_keeps
    | with_reducible apply State.obs_keeps | with_reducible apply State.waitFor_keeps | with_reducible apply State.waitDone_keeps

theorem execHostUnmappedAccess_keeps {r : State} (f : Fin 4) (addr : Nat) (write : Bool) {s : State} (hs : Keeps r s) : ∃ t, execHostUnmappedAccess f addr write s = .next t ∧ Keeps r t := by
  unfold execHostUnmappedAccess
  repeat' first
    | with_reducible assumption | with_reducible apply keeps_ite | with_reducible apply State.unmappedAt_keeps
    | with_reducible apply State.replyErr_keeps | (with_reducible refine ⟨_, rfl, ?_⟩)
    | (fail_if_no_progress with_reducible refine keeps_mk ?_ rfl rfl)

theorem State.shiftStart_keeps {r : State} {s : State} (p : Fin 64) (util : Nat) (hs : Keeps r s) : Keeps r (State.shiftStart s p util) := by
  unfold State.shiftStart
  repeat' first | with_reducible assumption | with_reducible apply State.linkMove_keeps | with_reducible apply State.setLink_keeps | split

theorem State.snapTimer_keeps {r : State} {s : State} (hs : Keeps r s) : Keeps r (State.snapTimer s) := by
  unfold State.snapTimer
  repeat' first
    | with_reducible assumption | with_reducible apply State.snapshot_keeps | (fail_if_no_progress with_reducible refine keeps_mk ?_ rfl rfl)
    | split

theorem execSnapPeriodic_keeps {r : State} {s : State} (hs : Keeps r s) : ∃ t, execSnapPeriodic s = .next t ∧ Keeps r t := by
  unfold execSnapPeriodic
  repeat' first
    | with_reducible assumption | with_reducible apply State.when__keeps | with_reducible apply State.snapTimer_keeps
    | (with_reducible refine ⟨_, rfl, ?_⟩)

theorem execObsCntSelWrite_keeps {r : State} (m : Master) (k : Fin 32) (v : Word) {s : State} (hs : Keeps r s) : ∃ t, execObsCntSelWrite m k v s = .next t ∧ Keeps r t := by
  unfold execObsCntSelWrite
  repeat' first | with_reducible assumption | with_reducible apply State.busWrite32_keeps | (with_reducible refine ⟨_, rfl, ?_⟩)

theorem State.collect_keeps {r : State} {s : State} (n : Fin 12) (a : BitVec 5) (y4 : Ticket) (hs : Keeps r s) : Keeps r (State.collect s n a y4) := by
  unfold State.collect
  repeat' first
    | with_reducible assumption | with_reducible apply State.setG_keeps | with_reducible apply State.syncTickets_keeps
    | with_reducible apply State.setEng_keeps

theorem State.rotDue_keeps {r : State} {s : State} (hs : Keeps r s) : Keeps r (State.rotDue s) := by
  unfold State.rotDue
  repeat' first
    | with_reducible assumption | with_reducible apply State.rotLoad_keeps | with_reducible apply State.rotate_keeps
    | with_reducible apply State.srvEvt_keeps | with_reducible apply State.syncKeys_keeps | with_reducible refine keeps_snd ‹_› ?_
    | (fail_if_no_progress with_reducible refine keeps_mk ?_ rfl rfl) | split

theorem execResRelease_keeps {r : State} (m : Master) {s : State} (hs : Keeps r s) : ∃ t, execResRelease m s = .next t ∧ Keeps r t := by
  unfold execResRelease
  repeat' first | with_reducible assumption | with_reducible apply State.busWrite32_keeps | (with_reducible refine ⟨_, rfl, ?_⟩)

theorem execSb_keeps {r : State} (n : Fin 12) (a : BitVec 5) (b : BitVec 5) (imm : BitVec 16) {s : State} (hs : Keeps r s) : ∃ t, execSb n a b imm s = .next t ∧ Keeps r t := by
  unfold execSb
  repeat' first | with_reducible assumption | with_reducible apply State.storeInst_keeps | (with_reducible refine ⟨_, rfl, ?_⟩)

theorem State.guardSecond_keeps {r : State} {s : State} (hs : Keeps r s) : Keeps r (State.guardSecond s) := by
  unfold State.guardSecond
  repeat' first | with_reducible assumption | with_reducible apply State.set_keeps | (fail_if_no_progress with_reducible refine keeps_mk ?_ rfl rfl)

theorem State.braceSwapMissed_keeps {r : State} {s : State} (hs : Keeps r s) : Keeps r (State.braceSwapMissed s) := by
  unfold State.braceSwapMissed
  repeat' first
    | with_reducible assumption | with_reducible apply keeps_ite | with_reducible apply State.bump_keeps
    | with_reducible apply State.setBrc_keeps

theorem State.braceOfsSecond_keeps {r : State} {s : State} (hs : Keeps r s) : Keeps r (State.braceOfsSecond s) := by
  unfold State.braceOfsSecond
  repeat' first
    | with_reducible assumption | with_reducible apply State.setBrc_keeps | with_reducible apply State.set_keeps
    | with_reducible apply State.inletPut_keeps | with_reducible apply State.drawn_keeps | lift_lets -underBinder | intro x | split

theorem State.braceAct_keeps {r : State} {s : State} (hs : Keeps r s) : Keeps r (State.braceAct s) := by
  unfold State.braceAct
  repeat' first
    | with_reducible assumption | with_reducible apply keeps_ite | with_reducible apply State.mute_keeps
    | with_reducible apply State.raise_keeps

theorem State.braceSecond_keeps {r : State} {s : State} (hs : Keeps r s) : Keeps r (State.braceSecond s) := by
  unfold State.braceSecond
  repeat' first
    | with_reducible assumption | with_reducible apply keeps_ite | with_reducible apply State.braceEval_keeps
    | with_reducible apply State.braceSwapMissed_keeps | with_reducible apply State.braceCompare_keeps
    | with_reducible apply State.braceOfsSecond_keeps | with_reducible apply State.set_keeps | with_reducible apply State.setBrc_keeps
    | with_reducible apply State.braceAct_keeps | with_reducible apply State.servingSync_keeps

theorem State.packSecond_keeps {r : State} {s : State} (hs : Keeps r s) : Keeps r (State.packSecond s) := by
  unfold State.packSecond
  repeat' first
    | with_reducible assumption | with_reducible apply keeps_ite | with_reducible apply State.run_keeps
    | with_reducible apply State.uplinkEval_keeps

theorem State.linkSecond_keeps {r : State} {s : State} (hs : Keeps r s) : Keeps r (State.linkSecond s) := by
  unfold State.linkSecond
  repeat' first
    | with_reducible assumption | with_reducible apply State.run_keeps | with_reducible apply State.setLink_keeps
    | with_reducible apply State.bump_keeps | with_reducible apply keeps_foldl | intro x | split

theorem State.gnsBoundary_keeps {r : State} {s : State} (hs : Keeps r s) : Keeps r (State.gnsBoundary s) := by
  unfold State.gnsBoundary
  repeat' first
    | with_reducible assumption | with_reducible apply keeps_ite | with_reducible apply State.set_keeps
    | with_reducible apply State.ungateReq_keeps | with_reducible apply State.setGns_keeps

end Sys2Proof.Machine
end

