-- ==== Sys2Proof/Laws/Keeps7.lean ====
section
/-! SUPPORT. What every operation keeps, continued: one lemma per operation, callees first (part 7). -/

set_option linter.all false

namespace Sys2Proof.Machine

theorem State.dbgSecond_keeps {r : State} {s : State} (hs : Keeps r s) : Keeps r (State.dbgSecond s) := by
  unfold State.dbgSecond
  repeat' first | with_reducible assumption | with_reducible apply keeps_ite | with_reducible apply State.set_keeps

theorem State.buryRepeat_keeps {r : State} {s : State} (hs : Keeps r s) : Keeps r (State.buryRepeat s) := by
  unfold State.buryRepeat
  repeat' first | with_reducible assumption | with_reducible apply keeps_ite | with_reducible apply State.saveStart_keeps

theorem State.boneRefresh_keeps {r : State} {s : State} (hs : Keeps r s) : Keeps r (State.boneRefresh s) := by
  unfold State.boneRefresh
  repeat' first | with_reducible assumption | with_reducible apply keeps_ite | (fail_if_no_progress with_reducible refine keeps_mk ?_ rfl rfl)

theorem State.blockBoundary_keeps {r : State} {s : State} (hs : Keeps r s) : Keeps r (State.blockBoundary s) := by
  unfold State.blockBoundary
  repeat' first
    | with_reducible assumption | with_reducible apply State.guardSecond_keeps | with_reducible apply State.braceSecond_keeps
    | with_reducible apply State.packSecond_keeps | with_reducible apply State.linkSecond_keeps
    | with_reducible apply State.gnsBoundary_keeps | with_reducible apply State.dbgSecond_keeps | with_reducible apply State.buryRepeat_keeps
    | with_reducible apply State.boneRefresh_keeps | with_reducible apply State.ageBy_keeps

theorem State.setSynOut_keeps {r : State} {s : State} (j : Fin 16) (o : SynOut) (hs : Keeps r s) : Keeps r (State.setSynOut s j o) := by
  unfold State.setSynOut
  repeat' first | with_reducible assumption | (fail_if_no_progress with_reducible refine keeps_mk ?_ rfl rfl)

theorem State.heelRecord_keeps {r : State} {s : State} (j : Fin 16) (y3 : Time) (hs : Keeps r s) : Keeps r (State.heelRecord s j y3) := by
  unfold State.heelRecord
  repeat' first
    | with_reducible assumption | with_reducible apply keeps_ite | with_reducible apply State.setSynOut_keeps
    | with_reducible apply State.set_keeps | with_reducible apply State.outRealign_keeps | with_reducible apply State.raise_keeps
    | with_reducible apply State.synEvt_keeps

theorem State.heelTake_keeps {r : State} {s : State} (j : Fin 16) (hs : Keeps r s) : Keeps r (State.heelTake s j) := by
  unfold State.heelTake
  repeat' first
    | with_reducible assumption | with_reducible apply keeps_ite | with_reducible apply State.setSynOut_keeps
    | with_reducible apply State.heelRecord_keeps

theorem State.pllLock_keeps {r : State} {s : State} (k : Fin 4) (hs : Keeps r s) : Keeps r (State.pllLock s k) := by
  unfold State.pllLock
  repeat' first
    | with_reducible assumption | with_reducible apply keeps_ite | with_reducible apply State.set_keeps
    | with_reducible apply State.setFlag_keeps | with_reducible apply State.setPll_keeps | with_reducible apply State.clearBit_keeps
    | with_reducible apply State.synEvt_keeps | with_reducible apply State.forN_keeps | intro x

theorem State.waitEnd_keeps {r : State} {s : State} (n : Fin 12) (hs : Keeps r s) : Keeps r (State.waitEnd s n) := by
  unfold State.waitEnd
  repeat' first | with_reducible assumption | with_reducible apply State.setEng_keeps | with_reducible apply State.set_keeps

theorem State.awake_keeps {r : State} {s : State} (n : Fin 12) {f : State → State} (hs : Keeps r s) (hf : (∀ s, Keeps r s → Keeps r (f s))) : Keeps r (State.awake s n f) := by
  unfold State.awake
  repeat' first
    | with_reducible assumption | with_reducible apply hf | with_reducible apply State.boundaryTraps_keeps
    | with_reducible apply State.set_keeps | with_reducible apply State.waitEnd_keeps

theorem execWaitt_keeps {r : State} (n : Fin 12) (a : BitVec 5) (vb : BitVec 3) (mask : BitVec 7) {s : State} (hs : Keeps r s) : ∃ t, execWaitt n a vb mask s = .next t ∧ Keeps r t := by
  unfold execWaitt
  repeat' first
    | with_reducible assumption | with_reducible apply State.issue_keeps | with_reducible apply State.afterDrain_keeps
    | with_reducible apply State.waittNow_keeps | (with_reducible refine ⟨_, rfl, ?_⟩) | intro x

theorem State.kpllHoldExit_keeps {r : State} {s : State} (edges : BitVec 4) (hs : Keeps r s) : Keeps r (State.kpllHoldExit s edges) := by
  unfold State.kpllHoldExit
  repeat' first
    | with_reducible assumption | with_reducible apply State.kpllEdges_keeps | with_reducible apply State.kpllSwitch_keeps
    | with_reducible apply State.levelOff_keeps | with_reducible apply State.setFlag_keeps | lift_lets -underBinder | intro x | split

theorem State.seed_keeps {r : State} {s : State} (y2 : Nat) (orbit : List Byte) (ms : Nat) (hs : Keeps r s) : Keeps r (State.seed s y2 orbit ms) := by
  unfold State.seed
  repeat' first | with_reducible assumption | with_reducible apply State.set_keeps

theorem State.searchOn_keeps {r : State} {s : State} (y2 : Nat) (orbit : List Byte) (hs : Keeps r s) : Keeps r (State.searchOn s y2 orbit) := by
  unfold State.searchOn
  repeat' first
    | with_reducible assumption | with_reducible apply State.seed_keeps | with_reducible apply State.set_keeps
    | with_reducible apply State.setFlag_keeps

theorem State.acquire_keeps {r : State} {s : State} (hs : Keeps r s) : Keeps r (State.acquire s) := by
  unfold State.acquire
  repeat' first
    | with_reducible assumption | with_reducible apply keeps_ite | with_reducible apply State.forN_keeps
    | with_reducible apply State.searchOn_keeps | with_reducible apply State.setFlag_keeps | with_reducible apply State.set_keeps | intro x
    | split

theorem State.trackStep_keeps {r : State} {s : State} (sats : List SatObs) (hs : Keeps r s) : Keeps r (State.trackStep s sats) := by
  unfold State.trackStep
  repeat' first
    | with_reducible assumption | with_reducible apply keeps_ite | with_reducible apply State.forN_keeps
    | with_reducible apply State.set_keeps | with_reducible apply State.setFlag_keeps | with_reducible apply State.seed_keeps
    | with_reducible apply State.searchOn_keeps | intro x | split

theorem State.scoutStates_keeps {r : State} {s : State} (sats : List SatObs) (hs : Keeps r s) : Keeps r (State.scoutStates s sats) := by
  unfold State.scoutStates
  repeat' first
    | with_reducible assumption | with_reducible apply keeps_ite | with_reducible apply State.rxMove_keeps
    | with_reducible apply State.setGns_keeps

theorem State.obsShow_keeps {r : State} {s : State} (sats : List SatObs) (c : Int) (hs : Keeps r s) : Keeps r (State.obsShow s sats c) := by
  unfold State.obsShow
  repeat' first
    | with_reducible assumption | with_reducible apply State.set_keeps | with_reducible apply keeps_foldl | lift_lets -underBinder | intro x
    | split

theorem State.scoutSolution_keeps {r : State} {s : State} (sats : List SatObs) (sol : Solution) (hs : Keeps r s) : Keeps r (State.scoutSolution s sats sol) := by
  unfold State.scoutSolution
  repeat' first
    | with_reducible assumption | with_reducible apply keeps_ite | with_reducible apply State.acquire_keeps
    | with_reducible apply State.setGns_keeps | with_reducible apply State.set_keeps | with_reducible apply State.trackStep_keeps
    | with_reducible apply State.surveyStep_keeps | with_reducible apply State.scoutStates_keeps | with_reducible apply State.syncAuth_keeps
    | with_reducible apply State.obsShow_keeps | with_reducible apply State.bump_keeps | with_reducible apply State.spoofGate_keeps
    | with_reducible apply State.inletPut_keeps | lift_lets -underBinder | intro x | split

theorem execScoutSolution_keeps {r : State} (sats : List SatObs) (sol : Solution) {s : State} (hs : Keeps r s) : ∃ t, execScoutSolution sats sol s = .next t ∧ Keeps r t := by
  unfold execScoutSolution
  repeat' first | with_reducible assumption | with_reducible apply State.scoutSolution_keeps | (with_reducible refine ⟨_, rfl, ?_⟩)

theorem State.csetEcc_keeps {r : State} {s : State} (badA : Bool) (badB : Bool) (hs : Keeps r s) : Keeps r (State.csetEcc s badA badB) := by
  unfold State.csetEcc
  repeat' first
    | with_reducible assumption | with_reducible apply keeps_ite | with_reducible apply State.timeStat_keeps
    | with_reducible apply State.arm_keeps | with_reducible apply State.raise_keeps
    | (fail_if_no_progress with_reducible refine keeps_mk ?_ rfl rfl)

theorem State.telRecord_keeps {r : State} {s : State} (hs : Keeps r s) : Keeps r (State.telRecord s) := by
  unfold State.telRecord
  repeat' first
    | with_reducible assumption | with_reducible apply State.obsReady_keeps | with_reducible apply State.bump_keeps | lift_lets -underBinder
    | intro x | with_reducible refine keeps_some ‹_› (State.obsRing_keeps _ _ _ _ _ _ _ ?_)
    | (fail_if_no_progress with_reducible refine keeps_mk ?_ rfl rfl) | split

theorem State.flushWait.go_keeps {r : State} {s : State} (kept : List RxWait) (y3 : List RxWait) (hs : Keeps r s) : Keeps r (State.flushWait.go s kept y3) := by
  induction y3 generalizing s kept with
  | nil => exact State.setSrv_keeps _ hs
  | cons w q ih =>
    unfold State.flushWait.go
    exact keeps_ite (ih _ hs) (ih _ (State.enqueue_keeps _ _ hs))

theorem State.packCheck_keeps {r : State} {s : State} (i : Fin 68) (b : List Byte) (ts : Option Nat) (ver : Nat) (degraded : Bool) (hs : Keeps r s) : Keeps r (State.packCheck s i b ts ver degraded).2 := by
  unfold State.packCheck
  repeat' first
    | with_reducible assumption | with_reducible apply State.bump_keeps | with_reducible apply State.obs_keeps
    | with_reducible apply State.pckEvt_keeps | with_reducible apply State.raise_keeps | lift_lets -underBinder | intro x
    | (fail_if_no_progress with_reducible refine keeps_mk ?_ rfl rfl) | split

theorem State.grantPut_keeps {r : State} {s : State} (i : Nat) (g : Fin 3) (log : Nat) (dur : Nat) (auth : Bool) (two : Bool) (hs : Keeps r s) : Keeps r (State.grantPut s i g log dur auth two) := by
  unfold State.grantPut
  repeat' first | with_reducible assumption | with_reducible apply State.setRecFld_keeps

theorem State.grantDecide_keeps {r : State} {s : State} (k : Fin 8) (y3 : Req) (g : Fin 3) (log : Int) (dur : Nat) (hs : Keeps r s) : Keeps r (State.grantDecide s k y3 g log dur).2 := by
  unfold State.grantDecide
  repeat' first
    | with_reducible assumption | with_reducible apply keeps_ite | with_reducible apply keeps_ite2 | with_reducible apply keeps_ite3
    | with_reducible apply State.assistInsert_keeps | with_reducible apply State.recZero_keeps | with_reducible apply State.setShare_keeps
    | with_reducible apply State.grantPut_keeps | split

theorem State.kpllHold_keeps {r : State} {s : State} (hs : Keeps r s) : Keeps r (State.kpllHold s) := by
  unfold State.kpllHold
  repeat' first
    | with_reducible assumption | with_reducible apply keeps_ite | with_reducible apply State.kpllTake_keeps
    | with_reducible apply State.setFlag_keeps | with_reducible apply State.levelOn_keeps | with_reducible apply State.clkEvt_keeps
    | with_reducible apply State.bump_keeps

theorem State.kpllLoss_keeps {r : State} {s : State} (edges : BitVec 4) (hs : Keeps r s) : Keeps r (State.kpllLoss s edges) := by
  unfold State.kpllLoss
  repeat' first
    | with_reducible assumption | with_reducible apply keeps_ite | with_reducible apply State.kpllEdges_keeps
    | with_reducible apply State.kpllSwitch_keeps | with_reducible apply State.kpllHold_keeps | split

theorem execKpllSourceLoss_keeps {r : State} (edges : BitVec 4) {s : State} (hs : Keeps r s) : ∃ t, execKpllSourceLoss edges s = .next t ∧ Keeps r t := by
  unfold execKpllSourceLoss
  repeat' first | with_reducible assumption | with_reducible apply State.kpllLoss_keeps | (with_reducible refine ⟨_, rfl, ?_⟩)

theorem execLws_keeps {r : State} (n : Fin 12) (a : BitVec 5) (b : BitVec 5) (imm : BitVec 16) {s : State} (hs : Keeps r s) : ∃ t, execLws n a b imm s = .next t ∧ Keeps r t := by
  unfold execLws
  repeat' first | with_reducible assumption | with_reducible apply State.load_keeps | (with_reducible refine ⟨_, rfl, ?_⟩)

theorem execAndi_keeps {r : State} (n : Fin 12) (a : BitVec 5) (b : BitVec 5) (imm : BitVec 16) {s : State} (hs : Keeps r s) : ∃ t, execAndi n a b imm s = .next t ∧ Keeps r t := by
  unfold execAndi
  repeat' first | with_reducible assumption | with_reducible apply State.aluImm_keeps | (with_reducible refine ⟨_, rfl, ?_⟩)

theorem State.underrun_keeps {r : State} {s : State} (p : Fin 64) (hs : Keeps r s) : Keeps r (State.underrun s p) := by
  unfold State.underrun
  repeat' first
    | with_reducible assumption | with_reducible apply State.setLport_keeps | with_reducible apply State.set_keeps
    | with_reducible apply State.obs_keeps | with_reducible apply State.bump_keeps | with_reducible apply State.raise_keeps
    | with_reducible apply State.raiseBit_keeps | lift_lets -underBinder | intro x | split

theorem execSramClearDone_keeps {r : State} {s : State} (hs : Keeps r s) : ∃ t, execSramClearDone s = .next t ∧ Keeps r t := by
  unfold execSramClearDone
  repeat' first
    | with_reducible assumption | with_reducible apply State.when__keeps | with_reducible apply State.memCut_keeps
    | (with_reducible refine ⟨_, rfl, ?_⟩) | intro x | (fail_if_no_progress with_reducible refine keeps_mk ?_ rfl rfl)

theorem State.prpLook_keeps {r : State} {s : State} (j : Fin 32) (b : List Byte) (seq : Nat) (hs : Keeps r s) : Keeps r (State.prpLook s j b seq).2 := by
  unfold State.prpLook
  repeat' first | with_reducible assumption | with_reducible apply keeps_ite | (fail_if_no_progress with_reducible refine keeps_mk ?_ rfl rfl)

theorem State.prpCheck_keeps {r : State} {s : State} (p : Fin 64) (b : List Byte) (seq : Nat) (lan : Nat) (hs : Keeps r s) : Keeps r (State.prpCheck s p b seq lan).2 := by
  unfold State.prpCheck
  repeat' first
    | with_reducible assumption | with_reducible apply keeps_ite | with_reducible apply State.bump_keeps
    | with_reducible apply State.prpLook_keeps | lift_lets -underBinder | intro x | split

theorem State.toPack_keeps {r : State} {s : State} (p : Fin 64) (b : List Byte) (md : List Byte) (hs : Keeps r s) : Keeps r (State.toPack s p b md) := by
  unfold State.toPack
  repeat' first
    | with_reducible assumption | with_reducible apply keeps_ite | with_reducible apply State.delivered_keeps
    | with_reducible apply State.packCheck_keeps | with_reducible refine keeps_snd ‹_› ?_
    | (fail_if_no_progress with_reducible refine keeps_mk ?_ rfl rfl) | split

theorem State.rxDeliver_keeps {r : State} {s : State} (p : Fin 64) (b : List Byte) (f : Frame) (rct : Option (Nat × Nat)) (phase : BitVec 16) (bitIdx : Byte) (hs : Keeps r s) : Keeps r (State.rxDeliver s p b f rct phase bitIdx) := by
  unfold State.rxDeliver
  repeat' first
    | with_reducible assumption | with_reducible apply keeps_ite | with_reducible apply State.prpCheck_keeps
    | with_reducible apply State.obs_keeps | with_reducible apply State.bump_keeps | with_reducible apply State.hostForward_keeps
    | with_reducible apply State.toPack_keeps | with_reducible apply State.toSrv_keeps | split

theorem execShi_keeps {r : State} (n : Fin 12) (a : BitVec 5) (b : BitVec 5) (kind : BitVec 2) (count : BitVec 6) {s : State} (hs : Keeps r s) : ∃ t, execShi n a b kind count s = .next t ∧ Keeps r t := by
  unfold execShi
  repeat' first
    | with_reducible assumption | with_reducible apply State.issue_keeps | with_reducible apply State.next_keeps
    | with_reducible apply State.setG_keeps | (with_reducible refine ⟨_, rfl, ?_⟩) | intro x

theorem State.signalTlv_keeps {r : State} {s : State} (k : Fin 8) (y3 : Req) (y4 : Nat × Nat × Nat) (hs : Keeps r s) : Keeps r (State.signalTlv s k y3 y4).2 := by
  unfold State.signalTlv
  repeat' first
    | with_reducible assumption | with_reducible apply keeps_ite | with_reducible apply State.grantDecide_keeps
    | with_reducible apply State.bump_keeps | with_reducible apply State.grantStop_keeps | lift_lets -underBinder | intro x | split
    | unfold x

theorem execEngineReset_keeps {r : State} (n : Fin 12) (beats : Option Nat) {s : State} (hs : Keeps r s) : ∃ t, execEngineReset n beats s = .next t ∧ Keeps r t := by
  unfold execEngineReset
  repeat' first
    | with_reducible assumption | with_reducible apply State.engineReset_keeps | with_reducible apply State.burstCut_keeps
    | (with_reducible refine ⟨_, rfl, ?_⟩) | split

theorem State.ticketDone_keeps {r : State} {s : State} (n : Fin 12) (num : Fin 16) (hs : Keeps r s) : Keeps r (State.ticketDone s n num) := by
  unfold State.ticketDone
  repeat' first
    | with_reducible assumption | with_reducible apply State.event_keeps | with_reducible apply State.setEng_keeps | lift_lets -underBinder
    | intro x | split

theorem State.agcStep_keeps {r : State} {s : State} (xs : List Byte) (hs : Keeps r s) : Keeps r (State.agcStep s xs) := by
  unfold State.agcStep
  repeat' first
    | with_reducible assumption | with_reducible apply keeps_ite | with_reducible apply State.set_keeps
    | with_reducible apply State.drawn_keeps

theorem State.dump_keeps {r : State} {s : State} (samples : List Byte) (hs : Keeps r s) : Keeps r (State.dump s samples) := by
  unfold State.dump
  repeat' first
    | with_reducible assumption | with_reducible apply keeps_ite | with_reducible apply State.forN_keeps
    | with_reducible apply State.winPut_keeps | with_reducible apply State.setGns_keeps | with_reducible apply State.gnsEvt_keeps
    | with_reducible apply State.agcStep_keeps | intro x

theorem execCorrelatorDump_keeps {r : State} (samples : List Byte) {s : State} (hs : Keeps r s) : ∃ t, execCorrelatorDump samples s = .next t ∧ Keeps r t := by
  unfold execCorrelatorDump
  repeat' first | with_reducible assumption | with_reducible apply State.dump_keeps | (with_reducible refine ⟨_, rfl, ?_⟩)

theorem State.utcCombine_keeps {r : State} {s : State} (hs : Keeps r s) : Keeps r (State.utcCombine s) := by
  unfold State.utcCombine
  repeat' first
    | with_reducible assumption | with_reducible apply State.utcTake_keeps | with_reducible apply State.leapFlags_keeps
    | with_reducible apply State.utcShow_keeps | with_reducible apply State.timeStat_keeps | with_reducible apply State.recordFree_keeps
    | with_reducible apply State.raise_keeps | split

theorem State.gnssUtc_keeps {r : State} {s : State} (b : List Byte) (hs : Keeps r s) : Keeps r (State.gnssUtc s b) := by
  unfold State.gnssUtc
  repeat' first
    | with_reducible assumption | with_reducible apply keeps_ite | with_reducible apply State.utcCombine_keeps
    | (fail_if_no_progress with_reducible refine keeps_mk ?_ rfl rfl)

theorem State.cmdUnseal_keeps {r : State} (c : MbCmd) {s : State} (hs : Keeps r s) : Keeps r (State.cmdUnseal c s).2.2 := by
  unfold State.cmdUnseal
  repeat' first
    | with_reducible assumption | with_reducible apply State.bumpW_keeps | with_reducible apply State.mbRecord_keeps
    | with_reducible apply State.leashWiden_keeps | with_reducible apply State.syncWorlds_keeps | with_reducible apply State.sealBroken_keeps
    | with_reducible apply State.set_keeps | split

theorem execMbxUnseal_keeps {r : State} {s : State} (hs : Keeps r s) : ∃ t, execMbxUnseal s = .next t ∧ Keeps r t := by
  unfold execMbxUnseal
  repeat' first
    | with_reducible assumption | with_reducible apply State.mbRun_keeps | with_reducible apply State.cmdUnseal_keeps
    | (with_reducible refine ⟨_, rfl, ?_⟩) | intro x

theorem State.snapStart_keeps {r : State} {s : State} (ms : Nat) (ver : Nat) (hs : Keeps r s) : Keeps r (State.snapStart s ms ver) := by
  unfold State.snapStart
  repeat' first
    | with_reducible assumption | with_reducible apply keeps_ite | with_reducible apply State.gnsEvt_keeps
    | with_reducible apply State.bump_keeps | with_reducible apply State.setFlag_keeps | with_reducible apply State.setGns_keeps

theorem execLhs_keeps {r : State} (n : Fin 12) (a : BitVec 5) (b : BitVec 5) (imm : BitVec 16) {s : State} (hs : Keeps r s) : ∃ t, execLhs n a b imm s = .next t ∧ Keeps r t := by
  unfold execLhs
  repeat' first | with_reducible assumption | with_reducible apply State.load_keeps | (with_reducible refine ⟨_, rfl, ?_⟩)

theorem execUnitBlockReset_keeps {r : State} (m : Master) (u : Fin 11) {s : State} (hs : Keeps r s) : ∃ t, execUnitBlockReset m u s = .next t ∧ Keeps r t := by
  unfold execUnitBlockReset
  repeat' first | with_reducible assumption | with_reducible apply State.busWrite32_keeps | (with_reducible refine ⟨_, rfl, ?_⟩)

theorem State.calDone_keeps {r : State} {s : State} (c : Fin 16) (ib : Bool) (hs : Keeps r s) : Keeps r (State.calDone s c ib) := by
  unfold State.calDone
  repeat' first
    | with_reducible assumption | with_reducible apply keeps_ite | with_reducible apply State.forN_keeps
    | with_reducible apply State.set_keeps | with_reducible apply State.bumpW_keeps | with_reducible apply State.raiseBit_keeps
    | with_reducible apply State.setTdc_keeps | with_reducible apply State.syncTb_keeps | with_reducible apply State.rngRecover_keeps
    | with_reducible apply State.syncTdc_keeps | with_reducible apply State.raise_keeps | with_reducible apply State.bump_keeps | intro x

theorem execDozeAutoGate_keeps {r : State} (u : Fin 23) {s : State} (hs : Keeps r s) : ∃ t, execDozeAutoGate u s = .next t ∧ Keeps r t := by
  unfold execDozeAutoGate
  repeat' first | with_reducible assumption | with_reducible apply State.dozeGate_keeps | (with_reducible refine ⟨_, rfl, ?_⟩)

theorem State.measFailed_keeps {r : State} {s : State} (n : Fin 12) (reason : Nat) (hs : Keeps r s) : Keeps r (State.measFailed s n reason) := by
  unfold State.measFailed
  repeat' first
    | with_reducible assumption | with_reducible apply State.setEng_keeps | with_reducible apply State.setFlag_keeps
    | with_reducible apply State.set_keeps | with_reducible apply State.raiseBit_keeps

theorem State.exVoid_keeps {r : State} {s : State} (i : Fin 68) (hs : Keeps r s) : Keeps r (State.exVoid s i) := by
  unfold State.exVoid
  repeat' first
    | with_reducible assumption | with_reducible apply State.obs_keeps | with_reducible apply State.bump_keeps
    | with_reducible apply State.setAtt_keeps | lift_lets -underBinder | intro x | split

theorem State.packSend_keeps {r : State} {s : State} (i : Fin 68) (typ : Fin 5) (dst : Nat) (payload : List Byte) (hs : Keeps r s) : Keeps r (State.packSend s i typ dst payload).2 := by
  unfold State.packSend
  repeat' first | with_reducible assumption | with_reducible apply State.setAtt_keeps | with_reducible apply State.packPut_keeps

theorem State.exStart_keeps {r : State} {s : State} (i : Fin 68) (hs : Keeps r s) : Keeps r (State.exStart s i) := by
  unfold State.exStart
  repeat' first
    | with_reducible assumption | with_reducible apply keeps_ite | with_reducible apply State.exVoid_keeps
    | with_reducible apply State.packSend_keeps | with_reducible apply State.setAtt_keeps

theorem execExchangeStart_keeps {r : State} (i : Fin 68) {s : State} (hs : Keeps r s) : ∃ t, execExchangeStart i s = .next t ∧ Keeps r t := by
  unfold execExchangeStart
  repeat' first
    | with_reducible assumption | with_reducible apply State.run_keeps | with_reducible apply State.exStart_keeps
    | (with_reducible refine ⟨_, rfl, ?_⟩) | intro x

theorem State.quiesceEnd_keeps {r : State} {s : State} (u : Nat) (all : Bool) (hs : Keeps r s) : Keeps r (State.quiesceEnd s u all) := by
  unfold State.quiesceEnd
  repeat' first
    | with_reducible assumption | with_reducible apply keeps_ite | with_reducible apply State.syncGate_keeps
    | with_reducible apply State.gateLast_keeps | with_reducible apply State.bump_keeps | with_reducible apply State.raiseBit_keeps
    | with_reducible apply State.raise_keeps | (fail_if_no_progress with_reducible refine keeps_mk ?_ rfl rfl) | split

theorem execQuiesceEnd_keeps {r : State} (u : Fin 11) (ok : Bool) {s : State} (hs : Keeps r s) : ∃ t, execQuiesceEnd u ok s = .next t ∧ Keeps r t := by
  unfold execQuiesceEnd
  repeat' first | with_reducible assumption | with_reducible apply State.quiesceEnd_keeps | (with_reducible refine ⟨_, rfl, ?_⟩)

theorem execFchAbort_keeps {r : State} (m : Master) (c : Fin 16) {s : State} (hs : Keeps r s) : ∃ t, execFchAbort m c s = .next t ∧ Keeps r t := by
  unfold execFchAbort
  repeat' first | with_reducible assumption | with_reducible apply State.busWrite32_keeps | (with_reducible refine ⟨_, rfl, ?_⟩)

theorem State.issueK_keeps {r : State} {s : State} (ws : List Word) (n : Fin 12) (uses : List EReg) {f : State → State} (hs : Keeps r s) (hf : (∀ s, Keeps r s → Keeps r (f s))) : ∃ t, State.issueK s ws n uses f = .next t ∧ Keeps r t := by
  unfold State.issueK
  repeat' first
    | with_reducible assumption | with_reducible apply keeps_ite | with_reducible apply hf | with_reducible apply State.issue_keeps
    | with_reducible apply State.trap_keeps | (with_reducible refine ⟨_, rfl, ?_⟩) | intro x

theorem execLshwr_keeps {r : State} (n : Fin 12) (a : BitVec 5) (b : BitVec 5) {s : State} (hs : Keeps r s) : ∃ t, execLshwr n a b s = .next t ∧ Keeps r t := by
  unfold execLshwr
  repeat' first
    | with_reducible assumption | with_reducible apply keeps_ite | with_reducible apply State.issueK_keeps
    | with_reducible apply State.withDmem_keeps | with_reducible apply State.leadWrite_keeps | with_reducible apply State.next_keeps
    | with_reducible apply State.setG_keeps | (with_reducible refine ⟨_, rfl, ?_⟩) | intro x

theorem execCookieRotArm_keeps {r : State} (m : Master) (v : Word) {s : State} (hs : Keeps r s) : ∃ t, execCookieRotArm m v s = .next t ∧ Keeps r t := by
  unfold execCookieRotArm
  repeat' first | with_reducible assumption | with_reducible apply State.busWrite32_keeps | (with_reducible refine ⟨_, rfl, ?_⟩)

theorem State.roleSwap_keeps {r : State} {s : State} (c : Fin 16) (hs : Keeps r s) : Keeps r (State.roleSwap s c) := by
  unfold State.roleSwap
  repeat' first
    | with_reducible assumption | with_reducible apply keeps_ite | with_reducible apply State.roleExchange_keeps
    | with_reducible apply State.setTdc_keeps

theorem execInterpRoleSwap_keeps {r : State} (c : Fin 16) {s : State} (hs : Keeps r s) : ∃ t, execInterpRoleSwap c s = .next t ∧ Keeps r t := by
  unfold execInterpRoleSwap
  repeat' first | with_reducible assumption | with_reducible apply State.roleSwap_keeps | (with_reducible refine ⟨_, rfl, ?_⟩)

theorem execDbell_keeps {r : State} (n : Fin 12) (b : BitVec 5) (c : BitVec 5) {s : State} (hs : Keeps r s) : ∃ t, execDbell n b c s = .next t ∧ Keeps r t := by
  unfold execDbell
  repeat' first
    | with_reducible assumption | with_reducible apply State.issue_keeps | with_reducible apply State.dbellOp_keeps
    | (with_reducible refine ⟨_, rfl, ?_⟩) | intro x

theorem execLchHostSubmit_keeps {r : State} (m : Master) (v : Word) {s : State} (hs : Keeps r s) : ∃ t, execLchHostSubmit m v s = .next t ∧ Keeps r t := by
  unfold execLchHostSubmit
  repeat' first | with_reducible assumption | with_reducible apply State.busWrite32_keeps | (with_reducible refine ⟨_, rfl, ?_⟩)

theorem State.recalStart_keeps {r : State} {s : State} (i : Fin 68) (hs : Keeps r s) : Keeps r (State.recalStart s i) := by
  unfold State.recalStart
  repeat' first
    | with_reducible assumption | with_reducible apply keeps_ite | with_reducible apply State.setLink_keeps
    | with_reducible apply State.linkMove_keeps

theorem execRecalStart_keeps {r : State} (i : Fin 68) {s : State} (hs : Keeps r s) : ∃ t, execRecalStart i s = .next t ∧ Keeps r t := by
  unfold execRecalStart
  repeat' first
    | with_reducible assumption | with_reducible apply State.run_keeps | with_reducible apply State.recalStart_keeps
    | (with_reducible refine ⟨_, rfl, ?_⟩) | intro x

theorem State.branch_keeps {r : State} {s : State} (ws : List Word) (n : Fin 12) (a : BitVec 5) (b : BitVec 5) (imm : BitVec 16) (cond : DWord → DWord → Bool) (hs : Keeps r s) : ∃ t, State.branch s ws n a b imm cond = .next t ∧ Keeps r t := by
  unfold State.branch
  repeat' first
    | with_reducible assumption | with_reducible apply State.issue_keeps | with_reducible apply State.transfer_keeps
    | (with_reducible refine ⟨_, rfl, ?_⟩) | intro x

theorem execBne_keeps {r : State} (n : Fin 12) (a : BitVec 5) (b : BitVec 5) (imm : BitVec 16) {s : State} (hs : Keeps r s) : ∃ t, execBne n a b imm s = .next t ∧ Keeps r t := by
  unfold execBne
  repeat' first | with_reducible assumption | with_reducible apply State.branch_keeps | (with_reducible refine ⟨_, rfl, ?_⟩)

theorem execOscExcludeEnd_keeps {r : State} (k : Fin 4) {s : State} (hs : Keeps r s) : ∃ t, execOscExcludeEnd k s = .next t ∧ Keeps r t := by
  unfold execOscExcludeEnd
  repeat' first
    | with_reducible assumption | with_reducible apply State.when__keeps | with_reducible apply State.oscSync_keeps
    | with_reducible apply State.oscMove_keeps | (with_reducible refine ⟨_, rfl, ?_⟩) | intro x

theorem State.tickOn_keeps {r : State} {s : State} (hs : Keeps r s) : Keeps r (State.tickOn s) := by
  unfold State.tickOn
  repeat' first | with_reducible assumption | with_reducible apply keeps_ite | (fail_if_no_progress with_reducible refine keeps_mk ?_ rfl rfl)

theorem State.sivSealJob_keeps {r : State} {s : State} (j : UJob) (hs : Keeps r s) : Keeps r (State.sivSealJob s j) := by
  unfold State.sivSealJob
  repeat' first
    | with_reducible assumption | with_reducible apply State.aeadDone_keeps | with_reducible apply State.rangesSoft_keeps
    | with_reducible apply State.drbgUse_keeps | with_reducible apply State.drawn_keeps | with_reducible apply State.setBytes_keeps | split

theorem execAeadSivSeal_keeps {r : State} (n : Fin 12) (num : Fin 16) {s : State} (hs : Keeps r s) : ∃ t, execAeadSivSeal n num s = .next t ∧ Keeps r t := by
  unfold execAeadSivSeal
  repeat' first
    | with_reducible assumption | with_reducible apply State.runJob_keeps | with_reducible apply State.sivSealJob_keeps
    | (with_reducible refine ⟨_, rfl, ?_⟩) | intro x

theorem execObsSnapWrite_keeps {r : State} (m : Master) (v : Word) {s : State} (hs : Keeps r s) : ∃ t, execObsSnapWrite m v s = .next t ∧ Keeps r t := by
  unfold execObsSnapWrite
  repeat' first | with_reducible assumption | with_reducible apply State.busWrite32_keeps | (with_reducible refine ⟨_, rfl, ?_⟩)

theorem execHostRoWrite_keeps {r : State} (f : Fin 4) (addr : Nat) (v : Word) {s : State} (hs : Keeps r s) : ∃ t, execHostRoWrite f addr v s = .next t ∧ Keeps r t := by
  unfold execHostRoWrite
  repeat' first | with_reducible assumption | with_reducible apply State.busWrite32_keeps | (with_reducible refine ⟨_, rfl, ?_⟩)

theorem execLw_keeps {r : State} (n : Fin 12) (a : BitVec 5) (b : BitVec 5) (imm : BitVec 16) {s : State} (hs : Keeps r s) : ∃ t, execLw n a b imm s = .next t ∧ Keeps r t := by
  unfold execLw
  repeat' first | with_reducible assumption | with_reducible apply State.load_keeps | (with_reducible refine ⟨_, rfl, ?_⟩)

theorem State.ensyField_keeps {r : State} {s : State} (c : Nat) (v : DWord) (hs : Keeps r s) : Keeps r (State.ensyField s c v) := by
  unfold State.ensyField
  repeat' first
    | with_reducible assumption | with_reducible apply keeps_ite | with_reducible apply State.set_keeps
    | with_reducible apply State.setFlag_keeps | with_reducible apply State.setServo_keeps | with_reducible apply State.leashWiden_keeps
    | (fail_if_no_progress with_reducible refine keeps_mk ?_ rfl rfl) | split

theorem State.ensyTick_keeps {r : State} {s : State} (hs : Keeps r s) : Keeps r (State.ensyTick s) := by
  unfold State.ensyTick
  repeat' first
    | with_reducible assumption | with_reducible apply State.ensyField_keeps | with_reducible apply keeps_foldl | intro x
    | (fail_if_no_progress with_reducible refine keeps_mk ?_ rfl rfl)

theorem State.occCount_keeps {r : State} {s : State} (k : Nat) (hs : Keeps r s) : Keeps r (State.occCount s k) := by
  unfold State.occCount
  repeat' first | with_reducible assumption | with_reducible apply keeps_ite | with_reducible apply State.obsAdd_keeps

theorem State.tick_keeps {r : State} {s : State} (hs : Keeps r s) : Keeps r (State.tick s) := by
  unfold State.tick
  repeat' first
    | with_reducible assumption | with_reducible apply keeps_ite | with_reducible apply State.saveCapture_keeps
    | with_reducible apply State.ensyTick_keeps | with_reducible apply State.tdcTick_keeps | with_reducible apply State.tickOn_keeps
    | with_reducible apply State.degrSync_keeps | with_reducible apply State.forN_keeps | with_reducible apply State.occCount_keeps | intro x

theorem State.aonTo_keeps {r : State} {s : State} (src : Nat) (hs : Keeps r s) : Keeps r (State.aonTo s src) := by
  unfold State.aonTo
  repeat' first
    | with_reducible assumption | with_reducible apply State.syncSw_keeps | (fail_if_no_progress with_reducible refine keeps_mk ?_ rfl rfl)

theorem execAonXtalLoss_keeps {r : State} {s : State} (hs : Keeps r s) : ∃ t, execAonXtalLoss s = .next t ∧ Keeps r t := by
  unfold execAonXtalLoss
  repeat' first
    | with_reducible assumption | with_reducible apply State.when__keeps | with_reducible apply State.levelOn_keeps
    | with_reducible apply State.clkEvt_keeps | with_reducible apply State.aonTo_keeps | with_reducible apply State.setFlag_keeps
    | (with_reducible refine ⟨_, rfl, ?_⟩) | intro x

theorem State.windowShow_keeps {r : State} {s : State} (count : Nat) (amp : Byte) (hs : Keeps r s) : Keeps r (State.windowShow s count amp) := by
  unfold State.windowShow
  repeat' first
    | with_reducible assumption | with_reducible apply keeps_ite | with_reducible apply State.set_keeps
    | with_reducible apply State.drawn_keeps

theorem State.xtalLost_keeps {r : State} {s : State} (hs : Keeps r s) : Keeps r (State.xtalLost s) := by
  unfold State.xtalLost
  repeat' first
    | with_reducible assumption | with_reducible apply keeps_ite | with_reducible apply State.clkEvt_keeps
    | with_reducible apply State.setFlag_keeps | with_reducible apply State.levelOn_keeps | with_reducible apply State.rootTo_keeps
    | with_reducible apply State.set_keeps

theorem execXtalFreqWindow_keeps {r : State} (count : Nat) (amp : Byte) {s : State} (hs : Keeps r s) : ∃ t, execXtalFreqWindow count amp s = .next t ∧ Keeps r t := by
  unfold execXtalFreqWindow
  repeat' first
    | with_reducible assumption | with_reducible apply keeps_ite | with_reducible apply State.when__keeps
    | with_reducible apply State.windowShow_keeps | with_reducible apply State.xtalLost_keeps | (with_reducible refine ⟨_, rfl, ?_⟩)
    | intro x

theorem execBge_keeps {r : State} (n : Fin 12) (a : BitVec 5) (b : BitVec 5) (imm : BitVec 16) {s : State} (hs : Keeps r s) : ∃ t, execBge n a b imm s = .next t ∧ Keeps r t := by
  unfold execBge
  repeat' first | with_reducible assumption | with_reducible apply State.branch_keeps | (with_reducible refine ⟨_, rfl, ?_⟩)

theorem execEnsy_keeps {r : State} (n : Fin 12) (b : BitVec 5) (c : BitVec 5) {s : State} (hs : Keeps r s) : ∃ t, execEnsy n b c s = .next t ∧ Keeps r t := by
  unfold execEnsy
  repeat' first
    | with_reducible assumption | with_reducible apply keeps_ite | with_reducible apply State.issueK_keeps
    | with_reducible apply State.trap_keeps | with_reducible apply State.next_keeps | (with_reducible refine ⟨_, rfl, ?_⟩) | intro x
    | (fail_if_no_progress with_reducible refine keeps_mk ?_ rfl rfl)

theorem execAssistUnpin_keeps {r : State} {s : State} (hs : Keeps r s) : ∃ t, execAssistUnpin s = .next t ∧ Keeps r t := by
  unfold execAssistUnpin
  repeat' first | with_reducible assumption | with_reducible apply State.assistStep_keeps | (with_reducible refine ⟨_, rfl, ?_⟩)

theorem State.bootAlign_keeps {r : State} {s : State} (hs : Keeps r s) : Keeps r (State.bootAlign s) := by
  unfold State.bootAlign
  repeat' first
    | with_reducible assumption | with_reducible apply State.snLoadReq_keeps | with_reducible apply State.handoverReq_keeps
    | lift_lets -underBinder | intro x | (fail_if_no_progress with_reducible refine keeps_mk ?_ rfl rfl) | split

theorem State.oscAdmit_keeps {r : State} {s : State} (c : Fin 16) (y3 : List Byte) (hs : Keeps r s) : Keeps r (State.oscAdmit s c y3) := by
  unfold State.oscAdmit
  repeat' first | with_reducible assumption | with_reducible apply State.oscRecord_keeps | lift_lets -underBinder | intro x | split

theorem State.tdcAdmit_keeps {r : State} {s : State} (c : Fin 16) (hs : Keeps r s) : Keeps r (State.tdcAdmit s c) := by
  unfold State.tdcAdmit
  repeat' first
    | with_reducible assumption | with_reducible apply State.kinPut_keeps | with_reducible apply State.setTdc_keeps
    | with_reducible apply State.oscAdmit_keeps | with_reducible apply State.bump_keeps | with_reducible apply State.leashWiden_keeps
    | with_reducible apply State.syncTdc_keeps | lift_lets -underBinder | intro x
    | (fail_if_no_progress with_reducible refine keeps_mk ?_ rfl rfl) | split

theorem execMbxrel_keeps {r : State} (n : Fin 12) (b : BitVec 5) {s : State} (hs : Keeps r s) : ∃ t, execMbxrel n b s = .next t ∧ Keeps r t := by
  unfold execMbxrel
  repeat' first
    | with_reducible assumption | with_reducible apply State.issue_keeps | with_reducible apply State.mbxStore_keeps
    | (with_reducible refine ⟨_, rfl, ?_⟩) | intro x

theorem execTsub_keeps {r : State} (n : Fin 12) (va : BitVec 3) (vb : BitVec 3) (vc : BitVec 3) {s : State} (hs : Keeps r s) : ∃ t, execTsub n va vb vc s = .next t ∧ Keeps r t := by
  unfold execTsub
  repeat' first
    | with_reducible assumption | with_reducible apply State.issue_keeps | with_reducible apply State.timeOp_keeps
    | (with_reducible refine ⟨_, rfl, ?_⟩) | intro x

theorem State.descTake_keeps {r : State} {s : State} (c : Fin 16) (d : HostData) (hs : Keeps r s) : Keeps r (State.descTake s c d) := by
  unfold State.descTake
  repeat' first
    | with_reducible assumption | with_reducible apply State.chFail_keeps | with_reducible apply State.setFch_keeps
    | with_reducible apply State.chEnd_keeps | with_reducible apply State.descDone_keeps | lift_lets -underBinder | intro x | split

theorem execFchDescriptorFetch_keeps {r : State} (c : Fin 16) (d : HostData) {s : State} (hs : Keeps r s) : ∃ t, execFchDescriptorFetch c d s = .next t ∧ Keeps r t := by
  unfold execFchDescriptorFetch
  repeat' first | with_reducible assumption | with_reducible apply State.descTake_keeps | (with_reducible refine ⟨_, rfl, ?_⟩)

theorem State.giveEnsY_keeps {r : State} {s : State} (v : Int) (fromRef : Bool) (hs : Keeps r s) : Keeps r (State.giveEnsY s v fromRef) := by
  unfold State.giveEnsY
  repeat' first | with_reducible assumption | with_reducible apply State.set_keeps | (fail_if_no_progress with_reducible refine keeps_mk ?_ rfl rfl)

theorem State.ensYBootstrap_keeps {r : State} {s : State} (hs : Keeps r s) : Keeps r (State.ensYBootstrap s) := by
  unfold State.ensYBootstrap
  repeat' first | with_reducible assumption | with_reducible apply State.giveEnsY_keeps | split

theorem execEnsYBootstrap_keeps {r : State} {s : State} (hs : Keeps r s) : ∃ t, execEnsYBootstrap s = .next t ∧ Keeps r t := by
  unfold execEnsYBootstrap
  repeat' first | with_reducible assumption | with_reducible apply State.ensYBootstrap_keeps | (with_reducible refine ⟨_, rfl, ?_⟩)

theorem execBmeClear_keeps {r : State} (f : Fin 4) (memEn : Bool) {s : State} (hs : Keeps r s) : ∃ t, execBmeClear f memEn s = .next t ∧ Keeps r t := by
  unfold execBmeClear
  repeat' first | with_reducible assumption | with_reducible apply State.bmeOff_keeps | (with_reducible refine ⟨_, rfl, ?_⟩)

theorem State.stepReq_keeps {r : State} {s : State} (step : Time) (expiry : Nat) (counter : Nat) (keySlot : Nat) (hs : Keeps r s) : Keeps r (State.stepReq s step expiry counter keySlot).2 := by
  unfold State.stepReq
  repeat' first
    | with_reducible assumption | with_reducible apply State.timeStat_keeps | (fail_if_no_progress with_reducible refine keeps_mk ?_ rfl rfl)
    | split

theorem State.cmdStep_keeps {r : State} (c : MbCmd) {s : State} (hs : Keeps r s) : Keeps r (State.cmdStep c s).2.2 := by
  unfold State.cmdStep
  repeat' first | with_reducible assumption | with_reducible apply State.stepReq_keeps | with_reducible refine keeps_snd ‹_› ?_ | split

theorem execSnLoadWrite_keeps {r : State} (m : Master) (v : Word) {s : State} (hs : Keeps r s) : ∃ t, execSnLoadWrite m v s = .next t ∧ Keeps r t := by
  unfold execSnLoadWrite
  repeat' first | with_reducible assumption | with_reducible apply State.busWrite32_keeps | (with_reducible refine ⟨_, rfl, ?_⟩)

theorem State.kpllFirstLock_keeps {r : State} {s : State} (edges : BitVec 4) (hs : Keeps r s) : Keeps r (State.kpllFirstLock s edges) := by
  unfold State.kpllFirstLock
  repeat' first
    | with_reducible assumption | with_reducible apply State.kpllEdges_keeps | with_reducible apply State.clkEvt_keeps
    | with_reducible apply State.kpllTake_keeps | with_reducible apply State.setFlag_keeps | lift_lets -underBinder | intro x
    | (fail_if_no_progress with_reducible refine keeps_mk ?_ rfl rfl) | split

theorem State.scrubFixed_keeps {r : State} {s : State} (hs : Keeps r s) : Keeps r (State.scrubFixed s) := by
  unfold State.scrubFixed
  repeat' first
    | with_reducible assumption | with_reducible apply State.raise_keeps | with_reducible apply State.obs_keeps
    | with_reducible apply State.bump_keeps

theorem execMbxUnknownOpcode_keeps {r : State} {s : State} (hs : Keeps r s) : ∃ t, execMbxUnknownOpcode s = .next t ∧ Keeps r t := by
  unfold execMbxUnknownOpcode
  repeat' first | with_reducible assumption | with_reducible apply State.mbRun_keeps | (with_reducible refine ⟨_, rfl, ?_⟩) | intro x

theorem State.hostReset_keeps {r : State} {s : State} (hs : Keeps r s) : Keeps r (State.hostReset s) := by
  unfold State.hostReset
  repeat' first
    | with_reducible assumption | with_reducible apply State.blockReset_keeps
    | (fail_if_no_progress with_reducible refine keeps_mk ?_ rfl rfl)

theorem execFchClear_keeps {r : State} (m : Master) (c : Fin 16) {s : State} (hs : Keeps r s) : ∃ t, execFchClear m c s = .next t ∧ Keeps r t := by
  unfold execFchClear
  repeat' first | with_reducible assumption | with_reducible apply State.busWrite32_keeps | (with_reducible refine ⟨_, rfl, ?_⟩)

theorem execPllReferencePresent_keeps {r : State} (k : Fin 4) {s : State} (hs : Keeps r s) : ∃ t, execPllReferencePresent k s = .next t ∧ Keeps r t := by
  unfold execPllReferencePresent
  repeat' first
    | with_reducible assumption | with_reducible apply State.when__keeps | with_reducible apply State.pllEnter_keeps
    | (with_reducible refine ⟨_, rfl, ?_⟩) | intro x

theorem execAuthLockExpiry_keeps {r : State} {s : State} (hs : Keeps r s) : ∃ t, execAuthLockExpiry s = .next t ∧ Keeps r t := by
  unfold execAuthLockExpiry
  repeat' first
    | with_reducible assumption | with_reducible apply State.when__keeps | with_reducible apply State.setFlag_keeps
    | (with_reducible refine ⟨_, rfl, ?_⟩) | intro x | (fail_if_no_progress with_reducible refine keeps_mk ?_ rfl rfl)

theorem execSprd_keeps {r : State} (n : Fin 12) (a : BitVec 5) (b : BitVec 5) {s : State} (hs : Keeps r s) : ∃ t, execSprd n a b s = .next t ∧ Keeps r t := by
  unfold execSprd
  repeat' first
    | with_reducible assumption | with_reducible apply keeps_ite | with_reducible apply State.issueK_keeps
    | with_reducible apply State.trap_keeps | with_reducible apply State.next_keeps | with_reducible apply State.setG_keeps
    | (with_reducible refine ⟨_, rfl, ?_⟩) | intro x

theorem State.cmdCommitParam_keeps {r : State} (c : MbCmd) {s : State} (hs : Keeps r s) : Keeps r (State.cmdCommitParam c s).2.2 := by
  unfold State.cmdCommitParam
  repeat' first | with_reducible assumption | with_reducible apply State.stage_keeps | lift_lets -underBinder | intro x | split

theorem State.trialEnd_keeps {r : State} {s : State} (katPass : Bool) (hs : Keeps r s) : Keeps r (State.trialEnd s katPass) := by
  unfold State.trialEnd
  repeat' first
    | with_reducible assumption | with_reducible apply State.fwTrialFail_keeps | with_reducible apply State.set_keeps
    | with_reducible apply State.setFlag_keeps | with_reducible apply State.takeMeas_keeps | with_reducible apply State.showBank_keeps
    | with_reducible apply State.setPair_keeps | with_reducible apply State.kReload_keeps | lift_lets -underBinder | intro x
    | (fail_if_no_progress with_reducible refine keeps_mk ?_ rfl rfl) | split

theorem execTsets_keeps {r : State} (n : Fin 12) (va : BitVec 3) (vb : BitVec 3) (a : BitVec 5) {s : State} (hs : Keeps r s) : ∃ t, execTsets n va vb a s = .next t ∧ Keeps r t := by
  unfold execTsets
  repeat' first
    | with_reducible assumption | with_reducible apply State.issue_keeps | with_reducible apply State.timeOp_keeps
    | (with_reducible refine ⟨_, rfl, ?_⟩) | intro x

theorem State.reqDrop_keeps {r : State} {s : State} (k : Fin 8) (y3 : Req) (hs : Keeps r s) : Keeps r (State.reqDrop s k y3) := by
  unfold State.reqDrop
  repeat' first | with_reducible assumption | with_reducible apply State.reqCtxFree_keeps | with_reducible apply State.poolRet_keeps

theorem State.ntsReply_keeps {r : State} {s : State} (k : Fin 8) (y3 : Req) (hs : Keeps r s) : Keeps r (State.ntsReply s k y3) := by
  unfold State.ntsReply
  repeat' first
    | with_reducible assumption | with_reducible apply keeps_ite | with_reducible apply State.spend_keeps
    | with_reducible apply State.reqDrop_keeps | with_reducible apply State.bump_keeps | with_reducible apply State.cookies_keeps
    | with_reducible apply State.ctxFree_keeps | with_reducible apply State.obs_keeps | with_reducible apply State.drbgUse_keeps
    | with_reducible apply State.drawn_keeps | with_reducible apply State.servLaunch_keeps | with_reducible apply State.poolRet_keeps
    | lift_lets -underBinder | intro x | split

theorem execNtsResponse_keeps {r : State} (k : Fin 8) {s : State} (hs : Keeps r s) : ∃ t, execNtsResponse k s = .next t ∧ Keeps r t := by
  unfold execNtsResponse
  repeat' first
    | with_reducible assumption | with_reducible apply State.serveHead_keeps | with_reducible apply State.ntsReply_keeps
    | (with_reducible refine ⟨_, rfl, ?_⟩) | intro x

theorem execXori_keeps {r : State} (n : Fin 12) (a : BitVec 5) (b : BitVec 5) (imm : BitVec 16) {s : State} (hs : Keeps r s) : ∃ t, execXori n a b imm s = .next t ∧ Keeps r t := by
  unfold execXori
  repeat' first | with_reducible assumption | with_reducible apply State.aluImm_keeps | (with_reducible refine ⟨_, rfl, ?_⟩)

end Sys2Proof.Machine
end

