-- ==== Sys2Proof/Laws/Keeps8.lean ====
section
/-! SUPPORT. What every operation keeps, continued: one lemma per operation, callees first (part 8). -/

set_option linter.all false

namespace Sys2Proof.Machine

theorem execBrcUnmute_keeps {r : State} (m : Master) (v : Word) {s : State} (hs : Keeps r s) : ∃ t, execBrcUnmute m v s = .next t ∧ Keeps r t := by
  unfold execBrcUnmute
  repeat' first | with_reducible assumption | with_reducible apply State.busWrite32_keeps | (with_reducible refine ⟨_, rfl, ?_⟩)

theorem State.proposal_keeps {r : State} {s : State} (hs : Keeps r s) : Keeps r (State.proposal s) := by
  unfold State.proposal
  repeat' first | with_reducible assumption | with_reducible apply keeps_ite | with_reducible apply State.setBrc_keeps

theorem State.braceSend_keeps {r : State} {s : State} (hs : Keeps r s) : Keeps r (State.braceSend s) := by
  unfold State.braceSend
  repeat' first
    | with_reducible assumption | with_reducible apply keeps_ite | with_reducible apply State.proposal_keeps
    | with_reducible apply State.setBrc_keeps | with_reducible apply State.packSend_keeps | split

theorem State.upset_keeps {r : State} {s : State} (n : Fin 11) (by_ : Int) (hs : Keeps r s) : Keeps r (State.upset s n by_) := by
  unfold State.upset
  repeat' first | with_reducible assumption | (fail_if_no_progress with_reducible refine keeps_mk ?_ rfl rfl)

theorem State.readerMismatch_keeps {r : State} {s : State} (n : Fin 11) (hs : Keeps r s) : Keeps r (State.readerMismatch s n) := by
  unfold State.readerMismatch
  repeat' first
    | with_reducible assumption | with_reducible apply keeps_ite | with_reducible apply State.raiseBit_keeps
    | with_reducible apply State.timeStat_keeps | with_reducible apply State.bump_keeps | with_reducible apply State.synMismatch_keeps
    | with_reducible apply State.raise_keeps | with_reducible apply State.degrSync_keeps
    | (fail_if_no_progress with_reducible refine keeps_mk ?_ rfl rfl)

theorem execTbusFullWordCheck_keeps {r : State} (reader : Fin 11) (upset : Int) {s : State} (hs : Keeps r s) : ∃ t, execTbusFullWordCheck reader upset s = .next t ∧ Keeps r t := by
  unfold execTbusFullWordCheck
  repeat' first
    | with_reducible assumption | with_reducible apply State.upset_keeps | with_reducible apply State.when__keeps
    | with_reducible apply State.readerMismatch_keeps | (with_reducible refine ⟨_, rfl, ?_⟩) | intro x

theorem State.cmdKpairSelect_keeps {r : State} (c : MbCmd) {s : State} (hs : Keeps r s) : Keeps r (State.cmdKpairSelect c s).2.2 := by
  unfold State.cmdKpairSelect
  repeat' first
    | with_reducible assumption | with_reducible apply State.mbRecord_keeps | with_reducible apply State.kReload_keeps
    | with_reducible apply State.set_keeps | with_reducible apply State.setPair_keeps | lift_lets -underBinder | intro x | split

theorem execMaxs_keeps {r : State} (n : Fin 12) (a : BitVec 5) (b : BitVec 5) (c : BitVec 5) (setFlags : Bool) {s : State} (hs : Keeps r s) : ∃ t, execMaxs n a b c setFlags s = .next t ∧ Keeps r t := by
  unfold execMaxs
  repeat' first | with_reducible assumption | with_reducible apply State.alu_keeps | (with_reducible refine ⟨_, rfl, ?_⟩)

theorem State.adrLoss_keeps {r : State} {s : State} (n : Fin 4) (hs : Keeps r s) : Keeps r (State.adrLoss s n) := by
  unfold State.adrLoss
  repeat' first
    | with_reducible assumption | with_reducible apply keeps_ite | with_reducible apply State.setAdr_keeps
    | with_reducible apply State.adrMove_keeps

theorem execAdrInputLoss_keeps {r : State} (n : Fin 4) {s : State} (hs : Keeps r s) : ∃ t, execAdrInputLoss n s = .next t ∧ Keeps r t := by
  unfold execAdrInputLoss
  repeat' first
    | with_reducible assumption | with_reducible apply State.run_keeps | with_reducible apply State.adrLoss_keeps
    | (with_reducible refine ⟨_, rfl, ?_⟩) | intro x

theorem State.msStrobe_keeps {r : State} {s : State} (hs : Keeps r s) : Keeps r (State.msStrobe s) := by
  unfold State.msStrobe
  repeat' first
    | with_reducible assumption | with_reducible apply keeps_ite | with_reducible apply State.setGns_keeps
    | with_reducible apply State.snapStart_keeps

theorem State.packOffLink_keeps {r : State} {s : State} (l : Fin 4) (bytes : List Byte) (phase : BitVec 16) (bitIdx : Byte) (hs : Keeps r s) : Keeps r (State.packOffLink s l bytes phase bitIdx).2 := by
  unfold State.packOffLink
  repeat' first | with_reducible assumption | with_reducible apply State.packCheck_keeps | lift_lets -underBinder | intro x | split

theorem State.fenceOp_keeps {r : State} {s : State} (n : Fin 12) (hs : Keeps r s) : Keeps r (State.fenceOp s n) := by
  unfold State.fenceOp
  repeat' first
    | with_reducible assumption | with_reducible apply keeps_ite | with_reducible apply State.next_keeps
    | with_reducible apply State.hold_keeps

theorem execFence_keeps {r : State} (n : Fin 12) {s : State} (hs : Keeps r s) : ∃ t, execFence n s = .next t ∧ Keeps r t := by
  unfold execFence
  repeat' first
    | with_reducible assumption | with_reducible apply State.issue_keeps | with_reducible apply State.fenceOp_keeps
    | (with_reducible refine ⟨_, rfl, ?_⟩) | intro x

theorem State.kumUnlock_keeps {r : State} {s : State} (hs : Keeps r s) : Keeps r (State.kumUnlock s) := by
  unfold State.kumUnlock
  repeat' first
    | with_reducible assumption | with_reducible apply keeps_ite | with_reducible apply State.setFlag_keeps
    | (fail_if_no_progress with_reducible refine keeps_mk ?_ rfl rfl)

theorem execEngWdogExpiry_keeps {r : State} (n : Fin 12) {s : State} (hs : Keeps r s) : ∃ t, execEngWdogExpiry n s = .next t ∧ Keeps r t := by
  unfold execEngWdogExpiry
  repeat' first | with_reducible assumption | with_reducible apply State.wdogExpire_keeps | (with_reducible refine ⟨_, rfl, ?_⟩)

theorem State.scentBoundary_keeps {r : State} {s : State} (hs : Keeps r s) : Keeps r (State.scentBoundary s) := by
  unfold State.scentBoundary
  repeat' first | with_reducible assumption | with_reducible apply State.refBoundary1_keeps | with_reducible apply keeps_foldl | intro x

theorem State.rollSend_keeps {r : State} {s : State} (hs : Keeps r s) : Keeps r (State.rollSend s) := by
  unfold State.rollSend
  repeat' first
    | with_reducible assumption | with_reducible apply keeps_ite | with_reducible apply State.packCfgSync_keeps
    | with_reducible apply State.bumpW_keeps | with_reducible apply State.packFollow_keeps | with_reducible apply State.obs_keeps
    | with_reducible apply State.packSend_keeps | with_reducible apply keeps_foldl | intro x
    | (fail_if_no_progress with_reducible refine keeps_mk ?_ rfl rfl)

theorem State.adrCfgApply_keeps {r : State} {s : State} (n : Fin 4) (hs : Keeps r s) : Keeps r (State.adrCfgApply s n) := by
  unfold State.adrCfgApply
  repeat' first
    | with_reducible assumption | with_reducible apply keeps_ite | with_reducible apply State.setFlag_keeps
    | with_reducible apply State.set_keeps | with_reducible apply State.setAdr_keeps

theorem State.adrClockLoss_keeps {r : State} {s : State} (n : Fin 4) (hs : Keeps r s) : Keeps r (State.adrClockLoss s n) := by
  unfold State.adrClockLoss
  repeat' first
    | with_reducible assumption | with_reducible apply keeps_ite | with_reducible apply State.adrEvt_keeps
    | with_reducible apply State.setAdr_keeps

theorem State.adrBlock_keeps {r : State} {s : State} (n : Fin 4) (k : Nat) (hs : Keeps r s) : Keeps r (State.adrBlock s n k) := by
  unfold State.adrBlock
  repeat' first
    | with_reducible assumption | with_reducible apply keeps_ite | with_reducible apply State.setFlag_keeps
    | with_reducible apply State.set_keeps | with_reducible apply State.setAdr_keeps | with_reducible apply State.drawn_keeps
    | with_reducible apply State.adrSteer_keeps

theorem State.adrBoundary_keeps {r : State} {s : State} (n : Fin 4) (hs : Keeps r s) : Keeps r (State.adrBoundary s n) := by
  unfold State.adrBoundary
  repeat' first
    | with_reducible assumption | with_reducible apply keeps_ite | with_reducible apply State.adrCfgApply_keeps
    | with_reducible apply State.adrClockLoss_keeps | with_reducible apply State.adrBlock_keeps | with_reducible apply State.setAdr_keeps

theorem State.gridResume_keeps {r : State} {s : State} (j : Fin 16) (hs : Keeps r s) : Keeps r (State.gridResume s j) := by
  unfold State.gridResume
  repeat' first | with_reducible assumption | with_reducible apply keeps_ite | with_reducible apply State.set_keeps

theorem execOutputGridResume_keeps {r : State} (j : Fin 16) {s : State} (hs : Keeps r s) : ∃ t, execOutputGridResume j s = .next t ∧ Keeps r t := by
  unfold execOutputGridResume
  repeat' first | with_reducible assumption | with_reducible apply State.gridResume_keeps | (with_reducible refine ⟨_, rfl, ?_⟩)

theorem State.stopComplete_keeps {r : State} {s : State} (n : Fin 12) (hs : Keeps r s) : Keeps r (State.stopComplete s n) := by
  unfold State.stopComplete
  repeat' first | with_reducible assumption | with_reducible apply keeps_ite | with_reducible apply State.stopped_keeps

theorem State.storeAck_keeps {r : State} {s : State} (n : Fin 12) (y3 : MResp) (hs : Keeps r s) : Keeps r (State.storeAck s n y3) := by
  unfold State.storeAck
  repeat' first | with_reducible assumption | with_reducible apply State.fenceEnd_keeps | with_reducible apply State.setEng_keeps

theorem State.respond_keeps {r : State} {s : State} (m : Fin 16) (y3 : Fin 12) (hs : Keeps r s) : Keeps r (State.respond s m y3) := by
  unfold State.respond
  repeat' first
    | with_reducible assumption | with_reducible apply State.heldSync_keeps | with_reducible apply State.stopComplete_keeps
    | with_reducible apply State.storeAck_keeps | with_reducible apply State.readBack_keeps
    | (fail_if_no_progress with_reducible refine keeps_mk ?_ rfl rfl) | split

theorem execChipReset_keeps {r : State} (cause : BitVec 3) {s : State} (hs : Keeps r s) : ∃ t, execChipReset cause s = .next t ∧ Keeps r t := by
  unfold execChipReset
  repeat' first
    | with_reducible assumption | with_reducible apply State.when__keeps | with_reducible apply State.chipResetChecked_keeps
    | (with_reducible refine ⟨_, rfl, ?_⟩) | intro x

theorem State.refEnables_keeps {r : State} {s : State} (hs : Keeps r s) : Keeps r (State.refEnables s) := by
  unfold State.refEnables
  repeat' first
    | with_reducible assumption | with_reducible apply keeps_ite | with_reducible apply State.selectNow_keeps
    | with_reducible apply State.refMove_keeps | with_reducible apply keeps_foldl | intro x

theorem State.latRefresh_keeps {r : State} {s : State} (hs : Keeps r s) : Keeps r (State.latRefresh s) := by
  unfold State.latRefresh
  repeat' first | with_reducible assumption | with_reducible apply State.latSync_keeps | with_reducible apply keeps_foldl | intro x

theorem State.loadWork_keeps {r : State} {s : State} (hs : Keeps r s) : Keeps r (State.loadWork s) := by
  unfold State.loadWork
  repeat' first | with_reducible assumption | (fail_if_no_progress with_reducible refine keeps_mk ?_ rfl rfl)

theorem State.bankSwitch_keeps {r : State} {s : State} (hs : Keeps r s) : Keeps r (State.bankSwitch s) := by
  unfold State.bankSwitch
  repeat' first
    | with_reducible assumption | with_reducible apply keeps_ite | with_reducible apply State.set_keeps
    | with_reducible apply State.kinNote_keeps | with_reducible apply State.timChanged_keeps | with_reducible apply State.showBank_keeps
    | with_reducible apply State.loadWork_keeps | (fail_if_no_progress with_reducible refine keeps_mk ?_ rfl rfl)

theorem State.leashBoundary_keeps {r : State} {s : State} (hs : Keeps r s) : Keeps r (State.leashBoundary s) := by
  unfold State.leashBoundary
  repeat' first
    | with_reducible assumption | with_reducible apply keeps_ite | with_reducible apply State.set_keeps
    | with_reducible apply State.lshShow_keeps | with_reducible apply State.bump_keeps | with_reducible apply State.raise_keeps | intro x
    | (fail_if_no_progress with_reducible refine keeps_mk ?_ rfl rfl) | split

theorem State.wholeSeconds_keeps {r : State} {s : State} (hs : Keeps r s) : Keeps r (State.wholeSeconds s) := by
  unfold State.wholeSeconds
  repeat' first | with_reducible assumption | (fail_if_no_progress with_reducible refine keeps_mk ?_ rfl rfl)

theorem State.oscWeights_keeps {r : State} {s : State} (hs : Keeps r s) : Keeps r (State.oscWeights s) := by
  unfold State.oscWeights
  repeat' first | with_reducible assumption | with_reducible apply State.set_keeps | with_reducible apply keeps_foldl | intro x

theorem State.ensemble_keeps {r : State} {s : State} (hs : Keeps r s) : Keeps r (State.ensemble s) := by
  unfold State.ensemble
  repeat' first | with_reducible assumption | with_reducible apply keeps_ite | with_reducible apply State.set_keeps

theorem State.oscBoundary_keeps {r : State} {s : State} (hs : Keeps r s) : Keeps r (State.oscBoundary s) := by
  unfold State.oscBoundary
  repeat' first
    | with_reducible assumption | with_reducible apply keeps_ite | with_reducible apply State.oscFreqs_keeps
    | with_reducible apply State.ensemble_keeps | with_reducible apply State.oscMove_keeps | with_reducible apply State.raise_keeps
    | with_reducible apply State.raiseBit_keeps | with_reducible apply State.setOsc_keeps | with_reducible apply State.tintNow_keeps
    | with_reducible apply State.oscSync_keeps | with_reducible apply keeps_foldl | intro x
    | (fail_if_no_progress with_reducible refine keeps_mk ?_ rfl rfl)

theorem State.learnSecond_keeps {r : State} {s : State} (hs : Keeps r s) : Keeps r (State.learnSecond s) := by
  unfold State.learnSecond
  repeat' first
    | with_reducible assumption | with_reducible apply keeps_ite | with_reducible apply State.bump_keeps
    | with_reducible apply State.set_keeps | with_reducible apply State.setFlag_keeps
    | (fail_if_no_progress with_reducible refine keeps_mk ?_ rfl rfl)

theorem State.servoBoundary_keeps {r : State} {s : State} (hs : Keeps r s) : Keeps r (State.servoBoundary s) := by
  unfold State.servoBoundary
  repeat' first
    | with_reducible assumption | with_reducible apply keeps_ite | with_reducible apply State.learnSecond_keeps
    | with_reducible apply State.setSrv_keeps | (fail_if_no_progress with_reducible refine keeps_mk ?_ rfl rfl)

theorem State.sealBoundary_keeps {r : State} {s : State} (hs : Keeps r s) : Keeps r (State.sealBoundary s) := by
  unfold State.sealBoundary
  repeat' first
    | with_reducible assumption | with_reducible apply keeps_ite | with_reducible apply State.set_keeps
    | (fail_if_no_progress with_reducible refine keeps_mk ?_ rfl rfl)

theorem State.kinSwap_keeps {r : State} {s : State} (hs : Keeps r s) : Keeps r (State.kinSwap s) := by
  unfold State.kinSwap
  repeat' first | with_reducible assumption | with_reducible apply State.set_keeps | (fail_if_no_progress with_reducible refine keeps_mk ?_ rfl rfl)

theorem State.kinBoundary_keeps {r : State} {s : State} (hs : Keeps r s) : Keeps r (State.kinBoundary s) := by
  unfold State.kinBoundary
  repeat' first | with_reducible assumption | with_reducible apply State.event_keeps | with_reducible apply State.kinSwap_keeps

theorem State.kennelBoundary_keeps {r : State} {s : State} (hs : Keeps r s) : Keeps r (State.kennelBoundary s) := by
  unfold State.kennelBoundary
  repeat' first
    | with_reducible assumption | with_reducible apply keeps_ite | with_reducible apply State.syncTb_keeps
    | with_reducible apply State.refEnables_keeps | with_reducible apply State.latRefresh_keeps | with_reducible apply State.bankSwitch_keeps
    | with_reducible apply State.leashBoundary_keeps | with_reducible apply State.wholeSeconds_keeps
    | with_reducible apply State.select_keeps | with_reducible apply State.scentBoundary_keeps
    | with_reducible apply State.pairBoundary_keeps | with_reducible apply State.oscWeights_keeps
    | with_reducible apply State.oscBoundary_keeps | with_reducible apply State.servoBoundary_keeps
    | with_reducible apply State.sealBoundary_keeps | with_reducible apply State.leashWiden_keeps | with_reducible apply State.showHold_keeps
    | with_reducible apply State.tdcBoundary_keeps | with_reducible apply State.kinBoundary_keeps
    | (fail_if_no_progress with_reducible refine keeps_mk ?_ rfl rfl)

theorem State.boundary_keeps {r : State} {s : State} (hs : Keeps r s) : Keeps r (State.boundary s) := by
  unfold State.boundary
  repeat' first
    | with_reducible assumption | with_reducible apply keeps_ite | with_reducible apply State.snReturn_keeps
    | with_reducible apply State.blockBoundary_keeps | with_reducible apply State.kennelBoundary_keeps
    | with_reducible apply State.chipResetChecked_keeps | (fail_if_no_progress with_reducible refine keeps_mk ?_ rfl rfl)

theorem State.pdelayReply_keeps {r : State} {s : State} (k : Fin 8) (y3 : Req) (hs : Keeps r s) : Keeps r (State.pdelayReply s k y3) := by
  unfold State.pdelayReply
  repeat' first
    | with_reducible assumption | with_reducible apply keeps_ite | with_reducible apply State.poolRet_keeps
    | with_reducible apply State.ptpReply_keeps | with_reducible apply State.awaitReport_keeps

theorem execTspop_keeps {r : State} (n : Fin 12) (a : BitVec 5) (b : BitVec 5) {s : State} (hs : Keeps r s) : ∃ t, execTspop n a b s = .next t ∧ Keeps r t := by
  unfold execTspop
  repeat' first
    | with_reducible assumption | with_reducible apply keeps_ite | with_reducible apply State.issue_keeps
    | with_reducible apply State.trap_keeps | with_reducible apply State.tspopOp_keeps | (with_reducible refine ⟨_, rfl, ?_⟩) | intro x

theorem execFwTrialEnd_keeps {r : State} (katPass : Bool) {s : State} (hs : Keeps r s) : ∃ t, execFwTrialEnd katPass s = .next t ∧ Keeps r t := by
  unfold execFwTrialEnd
  repeat' first | with_reducible assumption | with_reducible apply State.trialEnd_keeps | (with_reducible refine ⟨_, rfl, ?_⟩)

theorem State.burstEnd_keeps {r : State} {s : State} (hs : Keeps r s) : Keeps r (State.burstEnd s) := by
  unfold State.burstEnd
  repeat' first
    | with_reducible assumption | with_reducible apply keeps_ite | with_reducible apply State.set_keeps
    | with_reducible apply State.feDown_keeps | with_reducible apply State.setFlag_keeps | with_reducible apply State.idleNow_keeps
    | with_reducible apply State.obs_keeps | with_reducible apply State.gnsEvt_keeps | with_reducible apply State.bump_keeps

theorem execBurstEnd_keeps {r : State} {s : State} (hs : Keeps r s) : ∃ t, execBurstEnd s = .next t ∧ Keeps r t := by
  unfold execBurstEnd
  repeat' first | with_reducible assumption | with_reducible apply State.burstEnd_keeps | (with_reducible refine ⟨_, rfl, ?_⟩)

theorem State.jumpReg_keeps {r : State} {s : State} (n : Fin 12) (b : BitVec 5) (link : Option (BitVec 5)) (hs : Keeps r s) : Keeps r (State.jumpReg s n b link) := by
  unfold State.jumpReg
  repeat' first
    | with_reducible assumption | with_reducible apply keeps_ite | with_reducible apply State.trap_keeps
    | with_reducible apply State.setG_keeps | with_reducible apply State.transfer_keeps | split

theorem execCallr_keeps {r : State} (n : Fin 12) (a : BitVec 5) (b : BitVec 5) {s : State} (hs : Keeps r s) : ∃ t, execCallr n a b s = .next t ∧ Keeps r t := by
  unfold execCallr
  repeat' first
    | with_reducible assumption | with_reducible apply State.issue_keeps | with_reducible apply State.jumpReg_keeps
    | (with_reducible refine ⟨_, rfl, ?_⟩) | intro x

theorem State.grantExpire_keeps {r : State} {s : State} (i : Nat) (hs : Keeps r s) : Keeps r (State.grantExpire s i) := by
  unfold State.grantExpire
  repeat' first
    | with_reducible assumption | with_reducible apply keeps_ite | with_reducible apply State.grantStop_keeps
    | with_reducible apply keeps_foldl | intro x | split

theorem execGrantExpiry_keeps {r : State} (index : BitVec 20) {s : State} (hs : Keeps r s) : ∃ t, execGrantExpiry index s = .next t ∧ Keeps r t := by
  unfold execGrantExpiry
  repeat' first | with_reducible assumption | with_reducible apply State.grantExpire_keeps | (with_reducible refine ⟨_, rfl, ?_⟩)

theorem State.dozeRetry_keeps {r : State} {s : State} (u : Nat) (hs : Keeps r s) : Keeps r (State.dozeRetry s u) := by
  unfold State.dozeRetry
  repeat' first
    | with_reducible assumption | with_reducible apply keeps_ite | with_reducible apply State.dozeGate_keeps
    | (fail_if_no_progress with_reducible refine keeps_mk ?_ rfl rfl)

theorem State.surveyEnd_keeps {r : State} {s : State} (hs : Keeps r s) : Keeps r (State.surveyEnd s) := by
  unfold State.surveyEnd
  repeat' first
    | with_reducible assumption | with_reducible apply State.set_keeps | with_reducible apply State.setFlag_keeps
    | with_reducible apply State.setGns_keeps | split

theorem execAdrBlockBoundary_keeps {r : State} (n : Fin 4) {s : State} (hs : Keeps r s) : ∃ t, execAdrBlockBoundary n s = .next t ∧ Keeps r t := by
  unfold execAdrBlockBoundary
  repeat' first
    | with_reducible assumption | with_reducible apply State.run_keeps | with_reducible apply State.adrBoundary_keeps
    | (with_reducible refine ⟨_, rfl, ?_⟩) | intro x

theorem State.launchWith_keeps {r : State} {s : State} (n : Fin 12) (a : BitVec 5) (d : List Byte) (hs : Keeps r s) : Keeps r (State.launchWith s n a d) := by
  unfold State.launchWith
  repeat' first
    | with_reducible assumption | with_reducible apply State.launchDesc_keeps | with_reducible apply State.setG_keeps
    | with_reducible apply State.next_keeps | with_reducible apply State.obs_keeps

theorem State.launchNow_keeps {r : State} {s : State} (n : Fin 12) (a : BitVec 5) (b : BitVec 5) (hs : Keeps r s) : Keeps r (State.launchNow s n a b) := by
  unfold State.launchNow
  repeat' first
    | with_reducible assumption | with_reducible apply keeps_ite | with_reducible apply State.trap_keeps
    | with_reducible apply State.dmemSoft_keeps | with_reducible apply State.launchWith_keeps | with_reducible apply State.sramSoft_keeps
    | with_reducible apply State.sramErr_keeps | split

theorem State.sleepNow_keeps {r : State} {s : State} (n : Fin 12) (a : BitVec 5) (mask : BitVec 7) (hs : Keeps r s) : Keeps r (State.sleepNow s n a mask) := by
  unfold State.sleepNow
  repeat' first
    | with_reducible assumption | with_reducible apply keeps_ite | with_reducible apply State.waitFor_keeps
    | with_reducible apply State.waitDone_keeps

theorem Held.drained_keeps {r s : State} {h : Held} {n : Fin 12} {f : State → State} (e : h.drained n = some f) (hs : Keeps r s) :
    Keeps r (f s) := by
  unfold Held.drained at e
  split at e
  all_goals first
    | (injection e with e; subst e; first
        | with_reducible exact State.launchNow_keeps _ _ _ hs
        | with_reducible exact State.kickNow_keeps _ _ _ _ hs
        | with_reducible exact State.waittNow_keeps _ _ _ _ hs
        | with_reducible exact State.sleepNow_keeps _ _ _ hs)
    | cases e

theorem State.drained_keeps {r : State} {s : State} (n : Fin 12) (hs : Keeps r s) : Keeps r (State.drained s n) := by
  unfold State.drained
  refine keeps_ite ?_ hs
  generalize (s.engine n).held = q
  rcases q with _ | q
  · exact hs
  · show Keeps r (match q.drained n with | some f => s.engResume n 2 f | none => s.fenceEnd n)
    rcases hq : q.drained n with _ | f
    · exact State.fenceEnd_keeps n hs
    · exact State.engResume_keeps n 2 hs fun t ht => Held.drained_keeps hq ht

theorem execWriteBufferDrain_keeps {r : State} (n : Fin 12) {s : State} (hs : Keeps r s) : ∃ t, execWriteBufferDrain n s = .next t ∧ Keeps r t := by
  unfold execWriteBufferDrain
  repeat' first | with_reducible assumption | with_reducible apply State.drained_keeps | (with_reducible refine ⟨_, rfl, ?_⟩)

theorem execFchFlush_keeps {r : State} (m : Master) (c : Fin 16) {s : State} (hs : Keeps r s) : ∃ t, execFchFlush m c s = .next t ∧ Keeps r t := by
  unfold execFchFlush
  repeat' first | with_reducible assumption | with_reducible apply State.busWrite32_keeps | (with_reducible refine ⟨_, rfl, ?_⟩)

theorem execKumSlotWrite_keeps {r : State} (m : Master) {s : State} (hs : Keeps r s) : ∃ t, execKumSlotWrite m s = .next t ∧ Keeps r t := by
  unfold execKumSlotWrite
  repeat' first | with_reducible assumption | with_reducible apply State.kumOf_keeps | (with_reducible refine ⟨_, rfl, ?_⟩)

theorem State.storeError_keeps {r : State} {s : State} (n : Fin 12) (hs : Keeps r s) : Keeps r (State.storeError s n) := by
  unfold State.storeError
  repeat' first
    | with_reducible assumption | with_reducible apply State.trapAt_keeps | with_reducible apply State.setEng_keeps | lift_lets -underBinder
    | intro x | split

theorem State.packTake_keeps {r : State} {s : State} (src : PackSrc) (typ : Nat) {f : PackRx → State → State} (hs : Keeps r s) (hf : (∀ s, Keeps r s → ∀ y0, Keeps r (f y0 s))) : Keeps r (State.packTake s src typ f) := by
  unfold State.packTake
  repeat' first
    | with_reducible assumption | with_reducible apply hf | with_reducible apply State.packOffLink_keeps
    | with_reducible refine keeps_snd ‹_› ?_ | (fail_if_no_progress with_reducible refine keeps_mk ?_ rfl rfl) | split

theorem execBraceReceive_keeps {r : State} (src : PackSrc) {s : State} (hs : Keeps r s) : ∃ t, execBraceReceive src s = .next t ∧ Keeps r t := by
  unfold execBraceReceive
  repeat' first
    | with_reducible assumption | with_reducible apply State.run_keeps | with_reducible apply State.packTake_keeps
    | with_reducible apply State.braceReceive_keeps | (with_reducible refine ⟨_, rfl, ?_⟩) | intro x

theorem keeps_seal {r s : State} (n : Nat) (hs : Keeps r s) (hn : s.sec.sealFuses ≤ n) :
    Keeps r { s with sec := { s.sec with sealFuses := n } } := hs.trans ⟨id, rfl, Nat.le_refl _, rfl, hn⟩

theorem State.cmdSeal_keeps {r : State} (c : MbCmd) {s : State} (hs : Keeps r s) : Keeps r (State.cmdSeal c s).2.2 := by
  unfold State.cmdSeal
  refine keeps_ite3 hs (keeps_ite3 hs (keeps_ite3 hs ?_))
  lift_lets -underBinder
  intro s1 n x s2 s3 s4 y
  have h1 : Keeps r s1 := State.bumpW_keeps _ _ _ hs
  have h2 : Keeps r s2 := State.set_keeps _ _ _ (keeps_seal n h1 (Nat.le_succ _))
  have h3 : Keeps r s3 := State.mbRecord_keeps _ _ _ _ h2
  have h4 : Keeps r s4 := State.set_keeps _ _ _ h3
  exact State.syncWorlds_keeps (keeps_mk h4 rfl rfl)

theorem execTbPresenceLoss_keeps {r : State} {s : State} (hs : Keeps r s) : ∃ t, execTbPresenceLoss s = .next t ∧ Keeps r t := by
  unfold execTbPresenceLoss
  repeat' first
    | with_reducible assumption | with_reducible apply State.tbLost_keeps | (with_reducible refine ⟨_, rfl, ?_⟩)
    | (fail_if_no_progress with_reducible refine keeps_mk ?_ rfl rfl)

theorem State.inletSample_keeps {r : State} {s : State} (n : Fin 23) (typ : Nat) (b : List Byte) (hs : Keeps r s) : Keeps r (State.inletSample s n typ b) := by
  unfold State.inletSample
  repeat' first
    | with_reducible assumption | with_reducible apply keeps_ite | with_reducible apply State.refMove_keeps
    | with_reducible apply State.refSample_keeps | with_reducible apply State.setRef_keeps

theorem State.inletTake_keeps {r : State} {s : State} (hs : Keeps r s) : Keeps r (State.inletTake s) := by
  unfold State.inletTake
  repeat' first
    | with_reducible assumption | with_reducible apply keeps_ite | with_reducible apply State.kinPut_keeps
    | with_reducible apply State.gnssUtc_keeps | with_reducible apply State.aesSample_keeps | with_reducible apply State.inletSample_keeps
    | (fail_if_no_progress with_reducible refine keeps_mk ?_ rfl rfl) | split

theorem execSll_keeps {r : State} (n : Fin 12) (a : BitVec 5) (b : BitVec 5) (c : BitVec 5) (setFlags : Bool) {s : State} (hs : Keeps r s) : ∃ t, execSll n a b c setFlags s = .next t ∧ Keeps r t := by
  unfold execSll
  repeat' first | with_reducible assumption | with_reducible apply State.alu_keeps | (with_reducible refine ⟨_, rfl, ?_⟩)

theorem execEngStopComplete_keeps {r : State} (n : Fin 12) {s : State} (hs : Keeps r s) : ∃ t, execEngStopComplete n s = .next t ∧ Keeps r t := by
  unfold execEngStopComplete
  repeat' first | with_reducible assumption | with_reducible apply State.stopComplete_keeps | (with_reducible refine ⟨_, rfl, ?_⟩)

theorem State.eresetWrite_keeps {r : State} {s : State} (m : Master) (n : Fin 12) (beats : Option Nat) (hs : Keeps r s) : Keeps r (State.eresetWrite s m n beats) := by
  unfold State.eresetWrite
  repeat' first
    | with_reducible assumption | with_reducible apply keeps_ite | with_reducible apply State.irqFollow_keeps
    | with_reducible apply State.engCtrl_keeps | with_reducible apply State.busWrite32_keeps
    | (fail_if_no_progress with_reducible refine keeps_mk ?_ rfl rfl)

theorem execEreset_keeps {r : State} (m : Master) (n : Fin 12) (beats : Option Nat) {s : State} (hs : Keeps r s) : ∃ t, execEreset m n beats s = .next t ∧ Keeps r t := by
  unfold execEreset
  repeat' first | with_reducible assumption | with_reducible apply State.eresetWrite_keeps | (with_reducible refine ⟨_, rfl, ?_⟩)

theorem execKumLockExpiry_keeps {r : State} {s : State} (hs : Keeps r s) : ∃ t, execKumLockExpiry s = .next t ∧ Keeps r t := by
  unfold execKumLockExpiry
  repeat' first | with_reducible assumption | with_reducible apply State.kumUnlock_keeps | (with_reducible refine ⟨_, rfl, ?_⟩)

theorem State.gsiReturn_keeps {r : State} {s : State} (hs : Keeps r s) : Keeps r (State.gsiReturn s) := by
  unfold State.gsiReturn
  repeat' first
    | with_reducible assumption | with_reducible apply keeps_ite | with_reducible apply State.levelOff_keeps
    | with_reducible apply State.setFlag_keeps | with_reducible apply State.rxMove_keeps

theorem execGsiClkReturn_keeps {r : State} {s : State} (hs : Keeps r s) : ∃ t, execGsiClkReturn s = .next t ∧ Keeps r t := by
  unfold execGsiClkReturn
  repeat' first
    | with_reducible assumption | with_reducible apply State.run_keeps | with_reducible apply State.when__keeps
    | with_reducible apply State.gsiReturn_keeps | (with_reducible refine ⟨_, rfl, ?_⟩) | intro x

theorem State.sectorErase_keeps {r : State} {s : State} (ok : Bool) (hs : Keeps r s) : Keeps r (State.sectorErase s ok) := by
  unfold State.sectorErase
  repeat' first
    | with_reducible assumption | with_reducible apply keeps_ite | with_reducible apply State.noSlot_keeps
    | with_reducible apply State.levelOff_keeps | (fail_if_no_progress with_reducible refine keeps_mk ?_ rfl rfl)

theorem execSrl_keeps {r : State} (n : Fin 12) (a : BitVec 5) (b : BitVec 5) (c : BitVec 5) (setFlags : Bool) {s : State} (hs : Keeps r s) : ∃ t, execSrl n a b c setFlags s = .next t ∧ Keeps r t := by
  unfold execSrl
  repeat' first | with_reducible assumption | with_reducible apply State.alu_keeps | (with_reducible refine ⟨_, rfl, ?_⟩)

theorem execMbxgo_keeps {r : State} (n : Fin 12) (b : BitVec 5) {s : State} (hs : Keeps r s) : ∃ t, execMbxgo n b s = .next t ∧ Keeps r t := by
  unfold execMbxgo
  repeat' first
    | with_reducible assumption | with_reducible apply State.issue_keeps | with_reducible apply State.mbxStore_keeps
    | (with_reducible refine ⟨_, rfl, ?_⟩) | intro x

theorem State.collOp_keeps {r : State} {s : State} (n : Fin 12) (a : BitVec 5) (b : BitVec 5) (poll : Bool) (hs : Keeps r s) : Keeps r (State.collOp s n a b poll) := by
  unfold State.collOp
  repeat' first
    | with_reducible assumption | with_reducible apply State.trap_keeps | with_reducible apply State.next_keeps
    | with_reducible apply State.collect_keeps | with_reducible apply State.setG_keeps | with_reducible apply State.waitFor_keeps | split

theorem State.bmeOn_keeps {r : State} {s : State} (f : Fin 4) (memEn : Bool) (ctl : BitVec 16) (speed : Nat) (width : Nat) (hs : Keeps r s) : Keeps r (State.bmeOn s f memEn ctl speed width) := by
  unfold State.bmeOn
  repeat' first
    | with_reducible assumption | with_reducible apply keeps_ite | with_reducible apply State.set_keeps
    | with_reducible apply State.msgScan_keeps | with_reducible apply State.fnSync_keeps | with_reducible apply State.fnBit_keeps
    | (fail_if_no_progress with_reducible refine keeps_mk ?_ rfl rfl)

theorem execBusMasterEnableSet_keeps {r : State} (f : Fin 4) (memEn : Bool) (ctl : BitVec 16) (speed : BitVec 3) (width : BitVec 4) {s : State} (hs : Keeps r s) : ∃ t, execBusMasterEnableSet f memEn ctl speed width s = .next t ∧ Keeps r t := by
  unfold execBusMasterEnableSet
  repeat' first | with_reducible assumption | with_reducible apply State.bmeOn_keeps | (with_reducible refine ⟨_, rfl, ?_⟩)

theorem State.targetTimeout_keeps {r : State} {s : State} (y2 : Fin 12) (hs : Keeps r s) : Keeps r (State.targetTimeout s y2) := by
  unfold State.targetTimeout
  repeat' first
    | with_reducible assumption | with_reducible apply State.set_keeps | with_reducible apply State.forN_keeps
    | with_reducible apply State.mtxErr_keeps | intro x | (fail_if_no_progress with_reducible refine keeps_mk ?_ rfl rfl) | split

theorem execMtxTimeout_keeps {r : State} (y1 : Fin 12) {s : State} (hs : Keeps r s) : ∃ t, execMtxTimeout y1 s = .next t ∧ Keeps r t := by
  unfold execMtxTimeout
  repeat' first | with_reducible assumption | with_reducible apply State.targetTimeout_keeps | (with_reducible refine ⟨_, rfl, ?_⟩)

theorem State.utcHostCmd_keeps {r : State} {s : State} (payload : List Byte) (hs : Keeps r s) : Keeps r (State.utcHostCmd s payload) := by
  unfold State.utcHostCmd
  repeat' first
    | with_reducible assumption | with_reducible apply keeps_ite | with_reducible apply State.utcCombine_keeps
    | (fail_if_no_progress with_reducible refine keeps_mk ?_ rfl rfl)

theorem execColl_keeps {r : State} (n : Fin 12) (a : BitVec 5) (b : BitVec 5) {s : State} (hs : Keeps r s) : ∃ t, execColl n a b s = .next t ∧ Keeps r t := by
  unfold execColl
  repeat' first
    | with_reducible assumption | with_reducible apply State.issue_keeps | with_reducible apply State.collOp_keeps
    | (with_reducible refine ⟨_, rfl, ?_⟩) | intro x

theorem State.later_keeps {r : State} {s : State} (k : Nat) (hs : Keeps r s) : Keeps r (State.later s k) := by
  unfold State.later
  repeat' first | with_reducible assumption | (fail_if_no_progress with_reducible refine keeps_mk ?_ rfl rfl)

theorem State.ahead_keeps {r : State} {s : State} (k : Nat) (hs : Keeps r s) : Keeps r (State.ahead s k) := by
  unfold State.ahead
  repeat' first
    | with_reducible assumption | with_reducible apply State.handoverTick_keeps | with_reducible apply State.updateTick_keeps
    | with_reducible apply State.later_keeps | with_reducible apply keeps_foldl | intro x

theorem execAssistInsert_keeps {r : State} {s : State} (hs : Keeps r s) : ∃ t, execAssistInsert s = .next t ∧ Keeps r t := by
  unfold execAssistInsert
  repeat' first | with_reducible assumption | with_reducible apply State.assistStep_keeps | (with_reducible refine ⟨_, rfl, ?_⟩)

theorem State.signalReply_keeps {r : State} {s : State} (k : Fin 8) (y3 : Req) (hs : Keeps r s) : Keeps r (State.signalReply s k y3) := by
  unfold State.signalReply
  lift_lets -underBinder
  intro signed
  have h1 : Keeps r (List.foldl (fun (a : List Byte × State) x => let (t, s) := a.2.signalTlv k y3 x; (a.1 ++ t, s)) ([], s) y3.tlvs).2 :=
    keeps_foldl2 hs fun s hs a x => State.signalTlv_keeps k y3 x hs
  split
  exact State.ptpReply_keeps _ _ _ _ _ _ _ (keeps_snd ‹_› h1)

theorem execGrantCancel_keeps {r : State} (k : Fin 8) {s : State} (hs : Keeps r s) : ∃ t, execGrantCancel k s = .next t ∧ Keeps r t := by
  unfold execGrantCancel
  repeat' first
    | with_reducible assumption | with_reducible apply keeps_ite | with_reducible apply State.serveHead_keeps
    | with_reducible apply State.signalReply_keeps | with_reducible apply State.poolRet_keeps | (with_reducible refine ⟨_, rfl, ?_⟩)
    | intro x

theorem State.copyShadow_keeps {r : State} {s : State} (k : Nat) (hs : Keeps r s) : Keeps r (State.copyShadow s k) := by
  unfold State.copyShadow
  repeat' first | with_reducible assumption | with_reducible apply State.forN_keeps | with_reducible apply State.setWord_keeps | intro x

theorem State.braceSwap_keeps {r : State} {s : State} (hs : Keeps r s) : Keeps r (State.braceSwap s) := by
  unfold State.braceSwap
  repeat' first
    | with_reducible assumption | with_reducible apply keeps_ite | with_reducible apply State.setBrc_keeps
    | with_reducible apply State.raiseBit_keeps | with_reducible apply State.bump_keeps | with_reducible apply State.setFlag_keeps | split

theorem execEngDbellWrite_keeps {r : State} (m : Master) (n : Fin 12) (v : Word) {s : State} (hs : Keeps r s) : ∃ t, execEngDbellWrite m n v s = .next t ∧ Keeps r t := by
  unfold execEngDbellWrite
  repeat' first | with_reducible assumption | with_reducible apply State.busWrite32_keeps | (with_reducible refine ⟨_, rfl, ?_⟩)

theorem State.fupReceive_keeps {r : State} {s : State} (y2 : PackRx) (hs : Keeps r s) : Keeps r (State.fupReceive s y2) := by
  unfold State.fupReceive
  repeat' first | with_reducible assumption | with_reducible apply State.exDone_keeps | with_reducible apply State.exVoid_keeps | split

theorem execPauseIgnoreEnd_keeps {r : State} (p : Fin 64) {s : State} (hs : Keeps r s) : ∃ t, execPauseIgnoreEnd p s = .next t ∧ Keeps r t := by
  unfold execPauseIgnoreEnd
  repeat' first
    | with_reducible assumption | with_reducible apply State.run_keeps | with_reducible apply State.pauseIgnoreEnd_keeps
    | (with_reducible refine ⟨_, rfl, ?_⟩) | intro x

theorem State.flushWait_keeps {r : State} {s : State} (hs : Keeps r s) : Keeps r (State.flushWait s) := by
  unfold State.flushWait
  repeat' first | with_reducible assumption | with_reducible apply State.flushWait.go_keeps

theorem State.searchStep_keeps {r : State} {s : State} (k : Fin 4) (band : Option (Fin 64)) (hs : Keeps r s) : Keeps r (State.searchStep s k band) := by
  unfold State.searchStep
  repeat' first
    | with_reducible assumption | with_reducible apply keeps_ite | with_reducible apply State.setPll_keeps
    | with_reducible apply State.set_keeps | with_reducible apply State.pllEnter_keeps | split

theorem execBandSearchStep_keeps {r : State} (k : Fin 4) (band : Option (Fin 64)) {s : State} (hs : Keeps r s) : ∃ t, execBandSearchStep k band s = .next t ∧ Keeps r t := by
  unfold execBandSearchStep
  repeat' first | with_reducible assumption | with_reducible apply State.searchStep_keeps | (with_reducible refine ⟨_, rfl, ?_⟩)

theorem State.serveExtend_keeps {r : State} {s : State} (n : Fin 12) (hs : Keeps r s) : Keeps r (State.serveExtend s n) := by
  unfold State.serveExtend
  repeat' first | with_reducible assumption | with_reducible apply State.set_keeps

theorem execFrameTxEnd_keeps {r : State} (p : Fin 64) {s : State} (hs : Keeps r s) : ∃ t, execFrameTxEnd p s = .next t ∧ Keeps r t := by
  unfold execFrameTxEnd
  repeat' first
    | with_reducible assumption | with_reducible apply State.run_keeps | with_reducible apply State.txEnd_keeps
    | (with_reducible refine ⟨_, rfl, ?_⟩) | intro x

theorem execMbxStep_keeps {r : State} {s : State} (hs : Keeps r s) : ∃ t, execMbxStep s = .next t ∧ Keeps r t := by
  unfold execMbxStep
  repeat' first
    | with_reducible assumption | with_reducible apply State.mbRun_keeps | with_reducible apply State.cmdStep_keeps
    | (with_reducible refine ⟨_, rfl, ?_⟩) | intro x

theorem State.digestIn_keeps {r : State} {s : State} (n : Fin 2) (d : Digest) (hs : Keeps r s) : Keeps r (State.digestIn s n d).2 := by
  unfold State.digestIn
  repeat' first | with_reducible assumption | with_reducible apply State.setPair_keeps | lift_lets -underBinder | intro x | split

theorem execEndOfSlewUpdate_keeps {r : State} {s : State} (hs : Keeps r s) : ∃ t, execEndOfSlewUpdate s = .next t ∧ Keeps r t := by
  unfold execEndOfSlewUpdate
  repeat' first
    | with_reducible assumption | with_reducible apply State.when__keeps | with_reducible apply State.applyMerge_keeps
    | (with_reducible refine ⟨_, rfl, ?_⟩) | intro x

theorem State.burstStart_keeps {r : State} {s : State} (hs : Keeps r s) : Keeps r (State.burstStart s) := by
  unfold State.burstStart
  repeat' first
    | with_reducible assumption | with_reducible apply State.setGns_keeps | with_reducible apply State.set_keeps
    | with_reducible apply State.setFlag_keeps | split

theorem execBurstStart_keeps {r : State} {s : State} (hs : Keeps r s) : ∃ t, execBurstStart s = .next t ∧ Keeps r t := by
  unfold execBurstStart
  repeat' first | with_reducible assumption | with_reducible apply State.burstStart_keeps | (with_reducible refine ⟨_, rfl, ?_⟩)

theorem State.leapSecond_keeps {r : State} {s : State} (hs : Keeps r s) : Keeps r (State.leapSecond s) := by
  unfold State.leapSecond
  repeat' first
    | with_reducible assumption | with_reducible apply State.timeStat_keeps | with_reducible apply State.leapFlags_keeps
    | with_reducible apply State.utcShow_keeps | (fail_if_no_progress with_reducible refine keeps_mk ?_ rfl rfl) | split

theorem State.ntsQueue_keeps {r : State} {s : State} (w : RxWait) (nts : Nat) (hs : Keeps r s) : Keeps r (State.ntsQueue s w nts) := by
  unfold State.ntsQueue
  repeat' first
    | with_reducible assumption | with_reducible apply State.flushWait_keeps | with_reducible apply State.enqueue_keeps
    | with_reducible apply State.setSrv_keeps

theorem State.auJob_keeps {r : State} {s : State} (u : Nat) (ok : Bool) (hs : Keeps r s) : Keeps r (State.auJob s u ok) := by
  unfold State.auJob
  repeat' first
    | with_reducible assumption | with_reducible apply keeps_ite | with_reducible apply State.obs_keeps
    | with_reducible apply State.bump_keeps

theorem State.ntsCheck_keeps {r : State} {s : State} (u : Nat) (hs : Keeps r s) : Keeps r (State.ntsCheck s u) := by
  unfold State.ntsCheck
  repeat' first
    | with_reducible assumption | with_reducible apply State.flushWait_keeps | with_reducible apply State.bump_keeps
    | with_reducible apply State.ntsDrop_keeps | with_reducible apply State.srvEvt_keeps | with_reducible apply State.drawn_keeps
    | with_reducible apply State.ntsQueue_keeps | with_reducible apply State.auJob_keeps | with_reducible apply State.obs_keeps
    | with_reducible apply State.ctxFill_keeps | lift_lets -underBinder | intro x | split

theorem execHoldoverUpdate_keeps {r : State} {s : State} (hs : Keeps r s) : ∃ t, execHoldoverUpdate s = .next t ∧ Keeps r t := by
  unfold execHoldoverUpdate
  repeat' first
    | with_reducible assumption | with_reducible apply State.when__keeps | with_reducible apply State.holdoverUpdate_keeps
    | (with_reducible refine ⟨_, rfl, ?_⟩)

theorem execSaKeyCommit_keeps {r : State} (m : Master) (spp : Byte) (half : Bool) (v : Word) {s : State} (hs : Keeps r s) : ∃ t, execSaKeyCommit m spp half v s = .next t ∧ Keeps r t := by
  unfold execSaKeyCommit
  repeat' first | with_reducible assumption | with_reducible apply State.busWrite32_keeps | (with_reducible refine ⟨_, rfl, ?_⟩)

theorem execEngRunClear_keeps {r : State} (m : Master) (n : Fin 12) {s : State} (hs : Keeps r s) : ∃ t, execEngRunClear m n s = .next t ∧ Keeps r t := by
  unfold execEngRunClear
  repeat' first | with_reducible assumption | with_reducible apply State.busWrite32_keeps | (with_reducible refine ⟨_, rfl, ?_⟩)

theorem execBswap16_keeps {r : State} (n : Fin 12) (a : BitVec 5) (b : BitVec 5) (setFlags : Bool) {s : State} (hs : Keeps r s) : ∃ t, execBswap16 n a b setFlags s = .next t ∧ Keeps r t := by
  unfold execBswap16
  repeat' first | with_reducible assumption | with_reducible apply State.alu1_keeps | (with_reducible refine ⟨_, rfl, ?_⟩)

theorem State.announceSend_keeps {r : State} {s : State} (k : Fin 8) (p : Fin 64) (index : Option (BitVec 20)) (hdr : List Byte) (buf : Nat) (l : Nat) (hs : Keeps r s) : Keeps r (State.announceSend s k p index hdr buf l) := by
  unfold State.announceSend
  repeat' first
    | with_reducible assumption | with_reducible apply keeps_ite | with_reducible apply State.servLaunch_keeps
    | with_reducible apply State.setSrv_keeps | lift_lets -underBinder | intro x | split

theorem State.rngPersist_keeps {r : State} {s : State} (hs : Keeps r s) : Keeps r (State.rngPersist s) := by
  unfold State.rngPersist
  repeat' first
    | with_reducible assumption | with_reducible apply State.forN_keeps | with_reducible apply State.syncTdc_keeps | intro x
    | (fail_if_no_progress with_reducible refine keeps_mk ?_ rfl rfl) | split

theorem execRngFaultPersist_keeps {r : State} {s : State} (hs : Keeps r s) : ∃ t, execRngFaultPersist s = .next t ∧ Keeps r t := by
  unfold execRngFaultPersist
  repeat' first | with_reducible assumption | with_reducible apply State.rngPersist_keeps | (with_reducible refine ⟨_, rfl, ?_⟩)

theorem State.arriveTimeout_keeps {r : State} {s : State} (i : Fin 68) (hs : Keeps r s) : Keeps r (State.arriveTimeout s i) := by
  unfold State.arriveTimeout
  repeat' first | with_reducible assumption | with_reducible apply keeps_ite | with_reducible apply State.partnerMove_keeps

theorem execPartnerArriveTimeout_keeps {r : State} (i : Fin 68) {s : State} (hs : Keeps r s) : ∃ t, execPartnerArriveTimeout i s = .next t ∧ Keeps r t := by
  unfold execPartnerArriveTimeout
  repeat' first
    | with_reducible assumption | with_reducible apply State.run_keeps | with_reducible apply State.arriveTimeout_keeps
    | (with_reducible refine ⟨_, rfl, ?_⟩) | intro x

end Sys2Proof.Machine
end

