-- ==== Sys2Proof/Laws/Keeps9.lean ====
section
/-! SUPPORT. What every operation keeps, continued: one lemma per operation, callees first (part 9). -/

set_option linter.all false

namespace Sys2Proof.Machine

theorem State.depart_keeps {r : State} {s : State} (i : Fin 68) (hs : Keeps r s) : Keeps r (State.depart s i) := by
  unfold State.depart
  repeat' first
    | with_reducible assumption | with_reducible apply keeps_ite | with_reducible apply State.uplinkEval_keeps
    | with_reducible apply State.partnerMove_keeps

theorem execHstHDbellWrite_keeps {r : State} (m : Master) (v : Word) {s : State} (hs : Keeps r s) : ∃ t, execHstHDbellWrite m v s = .next t ∧ Keeps r t := by
  unfold execHstHDbellWrite
  repeat' first | with_reducible assumption | with_reducible apply State.busWrite32_keeps | (with_reducible refine ⟨_, rfl, ?_⟩)

theorem execEngRunSet_keeps {r : State} (m : Master) (n : Fin 12) {s : State} (hs : Keeps r s) : ∃ t, execEngRunSet m n s = .next t ∧ Keeps r t := by
  unfold execEngRunSet
  repeat' first | with_reducible assumption | with_reducible apply State.busWrite32_keeps | (with_reducible refine ⟨_, rfl, ?_⟩)

theorem execGuardHbMiss_keeps {r : State} {s : State} (hs : Keeps r s) : ∃ t, execGuardHbMiss s = .next t ∧ Keeps r t := by
  unfold execGuardHbMiss
  repeat' first | with_reducible assumption | with_reducible apply State.hbMiss_keeps | (with_reducible refine ⟨_, rfl, ?_⟩)

theorem execMbxClaim_keeps {r : State} (m : Master) {s : State} (hs : Keeps r s) : ∃ t, execMbxClaim m s = .next t ∧ Keeps r t := by
  unfold execMbxClaim
  repeat' first | with_reducible assumption | with_reducible apply State.busRead32_keeps | (with_reducible refine ⟨_, rfl, ?_⟩)

theorem State.prpExpire_keeps {r : State} {s : State} (j : Fin 32) (src : Nat) (seq : Nat) (hs : Keeps r s) : Keeps r (State.prpExpire s j src seq) := by
  unfold State.prpExpire
  repeat' first
    | with_reducible assumption | lift_lets -underBinder | intro x | (fail_if_no_progress with_reducible refine keeps_mk ?_ rfl rfl) | split

theorem execPrpEntryExpire_keeps {r : State} (j : Fin 32) (src : BitVec 48) (seq : BitVec 16) {s : State} (hs : Keeps r s) : ∃ t, execPrpEntryExpire j src seq s = .next t ∧ Keeps r t := by
  unfold execPrpEntryExpire
  repeat' first
    | with_reducible assumption | with_reducible apply State.run_keeps | with_reducible apply State.prpExpire_keeps
    | (with_reducible refine ⟨_, rfl, ?_⟩) | intro x

theorem execSleep_keeps {r : State} (n : Fin 12) (a : BitVec 5) (mask : BitVec 7) {s : State} (hs : Keeps r s) : ∃ t, execSleep n a mask s = .next t ∧ Keeps r t := by
  unfold execSleep
  repeat' first
    | with_reducible assumption | with_reducible apply keeps_ite | with_reducible apply State.issue_keeps
    | with_reducible apply State.trap_keeps | with_reducible apply State.afterDrain_keeps | with_reducible apply State.sleepNow_keeps
    | (with_reducible refine ⟨_, rfl, ?_⟩) | intro x

theorem execGnsPosWrite_keeps {r : State} (m : Master) (k : Fin 6) (v : Word) {s : State} (hs : Keeps r s) : ∃ t, execGnsPosWrite m k v s = .next t ∧ Keeps r t := by
  unfold execGnsPosWrite
  repeat' first | with_reducible assumption | with_reducible apply State.busWrite32_keeps | (with_reducible refine ⟨_, rfl, ?_⟩)

theorem State.heelCommit_keeps {r : State} {s : State} (j : Fin 16) (hs : Keeps r s) : Keeps r (State.heelCommit s j) := by
  unfold State.heelCommit
  repeat' first
    | with_reducible assumption | with_reducible apply keeps_ite | with_reducible apply State.setSynOut_keeps
    | with_reducible apply State.set_keeps

theorem execSpeedShiftStart_keeps {r : State} (p : Fin 64) (util : Nat) {s : State} (hs : Keeps r s) : ∃ t, execSpeedShiftStart p util s = .next t ∧ Keeps r t := by
  unfold execSpeedShiftStart
  repeat' first
    | with_reducible assumption | with_reducible apply State.run_keeps | with_reducible apply State.shiftStart_keeps
    | (with_reducible refine ⟨_, rfl, ?_⟩) | intro x

theorem State.clientSweep_keeps {r : State} {s : State} (k : Fin 8) (hs : Keeps r s) : Keeps r (State.clientSweep s k) := by
  unfold State.clientSweep
  repeat' first
    | with_reducible assumption | with_reducible apply keeps_ite | with_reducible apply State.grantsStop_keeps
    | with_reducible apply State.recFree_keeps | with_reducible apply State.recZero_keeps | with_reducible apply keeps_foldl | intro x

theorem execClientSweep_keeps {r : State} (k : Fin 8) {s : State} (hs : Keeps r s) : ∃ t, execClientSweep k s = .next t ∧ Keeps r t := by
  unfold execClientSweep
  repeat' first | with_reducible assumption | with_reducible apply State.clientSweep_keeps | (with_reducible refine ⟨_, rfl, ?_⟩)

theorem execOscLossTimeout_keeps {r : State} (k : Fin 4) {s : State} (hs : Keeps r s) : ∃ t, execOscLossTimeout k s = .next t ∧ Keeps r t := by
  unfold execOscLossTimeout
  repeat' first
    | with_reducible assumption | with_reducible apply State.when__keeps | with_reducible apply State.oscSync_keeps
    | with_reducible apply State.oscMove_keeps | (with_reducible refine ⟨_, rfl, ?_⟩) | intro x

theorem execMovk_keeps {r : State} (n : Fin 12) (a : BitVec 5) (k : BitVec 2) (imm : BitVec 16) {s : State} (hs : Keeps r s) : ∃ t, execMovk n a k imm s = .next t ∧ Keeps r t := by
  unfold execMovk
  repeat' first
    | with_reducible assumption | with_reducible apply State.issue_keeps | with_reducible apply State.next_keeps
    | with_reducible apply State.setG_keeps | (with_reducible refine ⟨_, rfl, ?_⟩) | intro x

theorem State.adrSource_keeps {r : State} {s : State} (n : Fin 4) (hs : Keeps r s) : Keeps r (State.adrSource s n).2.2.2 := by
  unfold State.adrSource
  repeat' first
    | with_reducible assumption | with_reducible apply keeps_ite | with_reducible apply State.setAdr_keeps
    | with_reducible apply State.adrEvt_keeps | with_reducible apply State.bump_keeps | with_reducible apply State.bumpW_keeps
    | lift_lets -underBinder | intro x | split

theorem execAutoUnmute_keeps {r : State} {s : State} (hs : Keeps r s) : ∃ t, execAutoUnmute s = .next t ∧ Keeps r t := by
  unfold execAutoUnmute
  repeat' first
    | with_reducible assumption | with_reducible apply State.run_keeps | with_reducible apply State.autoUnmute_keeps
    | (with_reducible refine ⟨_, rfl, ?_⟩)

theorem execBraceSend_keeps {r : State} {s : State} (hs : Keeps r s) : ∃ t, execBraceSend s = .next t ∧ Keeps r t := by
  unfold execBraceSend
  repeat' first
    | with_reducible assumption | with_reducible apply State.run_keeps | with_reducible apply State.braceSend_keeps
    | (with_reducible refine ⟨_, rfl, ?_⟩)

theorem execAonXtalReady_keeps {r : State} {s : State} (hs : Keeps r s) : ∃ t, execAonXtalReady s = .next t ∧ Keeps r t := by
  unfold execAonXtalReady
  repeat' first
    | with_reducible assumption | with_reducible apply State.when__keeps | with_reducible apply State.aonTo_keeps
    | with_reducible apply State.levelOff_keeps | with_reducible apply State.setFlag_keeps | (with_reducible refine ⟨_, rfl, ?_⟩) | intro x

theorem execMbxSeal_keeps {r : State} {s : State} (hs : Keeps r s) : ∃ t, execMbxSeal s = .next t ∧ Keeps r t := by
  unfold execMbxSeal
  repeat' first
    | with_reducible assumption | with_reducible apply State.mbRun_keeps | with_reducible apply State.cmdSeal_keeps
    | (with_reducible refine ⟨_, rfl, ?_⟩) | intro x

theorem State.frameReceive_keeps {r : State} {s : State} (p : Fin 64) (b : List Byte) (fcsOk : Bool) (codeErr : Bool) (phase : BitVec 16) (bitIdx : Byte) (hs : Keeps r s) : Keeps r (State.frameReceive s p b fcsOk codeErr phase bitIdx) := by
  unfold State.frameReceive
  repeat' first
    | with_reducible assumption | with_reducible apply State.rxDrop_keeps | with_reducible apply State.pauseFrame_keeps
    | with_reducible apply State.rxDeliver_keeps | lift_lets -underBinder | intro x | split

theorem execEngineReplace_keeps {r : State} (n : Fin 12) {s : State} (hs : Keeps r s) : ∃ t, execEngineReplace n s = .next t ∧ Keeps r t := by
  unfold execEngineReplace
  repeat' first | with_reducible assumption | with_reducible apply State.replaceStep_keeps | (with_reducible refine ⟨_, rfl, ?_⟩) | split

theorem State.guardBeat_keeps {r : State} {s : State} (hs : Keeps r s) : Keeps r (State.guardBeat s) := by
  unfold State.guardBeat
  repeat' first
    | with_reducible assumption | with_reducible apply keeps_ite | with_reducible apply State.syncFlt_keeps
    | with_reducible apply State.levelOff_keeps | (fail_if_no_progress with_reducible refine keeps_mk ?_ rfl rfl)

theorem execIrqPendClear_keeps {r : State} (m : Master) (w : Fin 2) (v : Word) {s : State} (hs : Keeps r s) : ∃ t, execIrqPendClear m w v s = .next t ∧ Keeps r t := by
  unfold execIrqPendClear
  repeat' first | with_reducible assumption | with_reducible apply State.busWrite32_keeps | (with_reducible refine ⟨_, rfl, ?_⟩)

theorem State.pauseEnd_keeps {r : State} {s : State} (p : Fin 64) (hs : Keeps r s) : Keeps r (State.pauseEnd s p) := by
  unfold State.pauseEnd
  repeat' first | with_reducible assumption | with_reducible apply State.when__keeps | with_reducible apply State.txResume_keeps | intro x

theorem execHandover_keeps {r : State} (n : Fin 12) (a : BitVec 5) (b : BitVec 5) {s : State} (hs : Keeps r s) : ∃ t, execHandover n a b s = .next t ∧ Keeps r t := by
  unfold execHandover
  repeat' first
    | with_reducible assumption | with_reducible apply keeps_ite | with_reducible apply State.issueK_keeps
    | with_reducible apply State.handoverReq_keeps | with_reducible apply State.next_keeps | with_reducible apply State.setG_keeps
    | (with_reducible refine ⟨_, rfl, ?_⟩) | intro x

theorem execTsetf_keeps {r : State} (n : Fin 12) (va : BitVec 3) (vb : BitVec 3) (a : BitVec 5) {s : State} (hs : Keeps r s) : ∃ t, execTsetf n va vb a s = .next t ∧ Keeps r t := by
  unfold execTsetf
  repeat' first
    | with_reducible assumption | with_reducible apply State.issue_keeps | with_reducible apply State.timeOp_keeps
    | (with_reducible refine ⟨_, rfl, ?_⟩) | intro x

theorem execRefEdge_keeps {r : State} (id : Fin 23) (lc : Time) (width : Nat) {s : State} (hs : Keeps r s) : ∃ t, execRefEdge id lc width s = .next t ∧ Keeps r t := by
  unfold execRefEdge
  repeat' first | with_reducible assumption | with_reducible apply State.refEdge_keeps | (with_reducible refine ⟨_, rfl, ?_⟩)

theorem execMaskCommitWrite_keeps {r : State} (m : Master) (p : Fin 64) (v : Word) {s : State} (hs : Keeps r s) : ∃ t, execMaskCommitWrite m p v s = .next t ∧ Keeps r t := by
  unfold execMaskCommitWrite
  repeat' first | with_reducible assumption | with_reducible apply State.busWrite32_keeps | (with_reducible refine ⟨_, rfl, ?_⟩)

theorem execRefLossTimeout_keeps {r : State} (id : Fin 23) {s : State} (hs : Keeps r s) : ∃ t, execRefLossTimeout id s = .next t ∧ Keeps r t := by
  unfold execRefLossTimeout
  repeat' first
    | with_reducible assumption | with_reducible apply State.when__keeps | with_reducible apply State.refLoss_keeps
    | (with_reducible refine ⟨_, rfl, ?_⟩) | intro x

theorem execNtsRequestCheck_keeps {r : State} (u : Fin 8) {s : State} (hs : Keeps r s) : ∃ t, execNtsRequestCheck u s = .next t ∧ Keeps r t := by
  unfold execNtsRequestCheck
  repeat' first | with_reducible assumption | with_reducible apply State.ntsCheck_keeps | (with_reducible refine ⟨_, rfl, ?_⟩)

theorem State.telTake_keeps {r : State} {s : State} (temp : List Int) (vdd : List Nat) (vin : BitVec 13) (vhold : BitVec 13) (hs : Keeps r s) : Keeps r (State.telTake s temp vdd vin vhold) := by
  unfold State.telTake
  repeat' first
    | with_reducible assumption | with_reducible apply keeps_ite | with_reducible apply State.vinShow_keeps
    | with_reducible apply State.pwrSample_keeps | with_reducible apply State.set_keeps | with_reducible apply State.raiseBit_keeps
    | (fail_if_no_progress with_reducible refine keeps_mk ?_ rfl rfl)

theorem execStepSnEffect_keeps {r : State} {s : State} (hs : Keeps r s) : ∃ t, execStepSnEffect s = .next t ∧ Keeps r t := by
  unfold execStepSnEffect
  repeat' first
    | with_reducible assumption | with_reducible apply State.when__keeps | with_reducible apply State.stepSn_keeps
    | (with_reducible refine ⟨_, rfl, ?_⟩)

theorem execXtalLoss_keeps {r : State} (amp : Byte) {s : State} (hs : Keeps r s) : ∃ t, execXtalLoss amp s = .next t ∧ Keeps r t := by
  unfold execXtalLoss
  repeat' first
    | with_reducible assumption | with_reducible apply keeps_ite | with_reducible apply State.when__keeps
    | with_reducible apply State.set_keeps | with_reducible apply State.xtalLost_keeps | (with_reducible refine ⟨_, rfl, ?_⟩) | intro x

theorem execAdrCsCommit_keeps {r : State} (m : Master) (n : Fin 4) (v : Word) {s : State} (hs : Keeps r s) : ∃ t, execAdrCsCommit m n v s = .next t ∧ Keeps r t := by
  unfold execAdrCsCommit
  repeat' first | with_reducible assumption | with_reducible apply State.busWrite32_keeps | (with_reducible refine ⟨_, rfl, ?_⟩)

theorem execAdrClockLoss_keeps {r : State} (n : Fin 4) {s : State} (hs : Keeps r s) : ∃ t, execAdrClockLoss n s = .next t ∧ Keeps r t := by
  unfold execAdrClockLoss
  repeat' first
    | with_reducible assumption | with_reducible apply State.run_keeps | with_reducible apply State.adrClockLoss_keeps
    | (with_reducible refine ⟨_, rfl, ?_⟩) | intro x

theorem execAdrStartTrigger_keeps {r : State} {s : State} (hs : Keeps r s) : ∃ t, execAdrStartTrigger s = .next t ∧ Keeps r t := by
  unfold execAdrStartTrigger
  repeat' first
    | with_reducible assumption | with_reducible apply State.run_keeps | with_reducible apply State.adrTrigger_keeps
    | (with_reducible refine ⟨_, rfl, ?_⟩)

theorem State.clocksStable_keeps {r : State} {s : State} (u : Nat) (hs : Keeps r s) : Keeps r (State.clocksStable s u) := by
  unfold State.clocksStable
  repeat' first
    | with_reducible assumption | with_reducible apply keeps_ite | with_reducible apply State.syncGate_keeps
    | with_reducible apply State.gateLast_keeps | with_reducible apply State.clearBit_keeps
    | (fail_if_no_progress with_reducible refine keeps_mk ?_ rfl rfl)

theorem execUngateClocksStable_keeps {r : State} (u : Fin 11) {s : State} (hs : Keeps r s) : ∃ t, execUngateClocksStable u s = .next t ∧ Keeps r t := by
  unfold execUngateClocksStable
  repeat' first
    | with_reducible assumption | with_reducible apply keeps_ite | with_reducible apply State.clocksStable_keeps
    | with_reducible apply State.valueWrite_keeps | (with_reducible refine ⟨_, rfl, ?_⟩) | with_reducible apply keeps_foldl | intro x
    | (fail_if_no_progress with_reducible refine keeps_mk ?_ rfl rfl)

theorem execBandCheck_keeps {r : State} (k : Fin 4) (vtune : Byte) {s : State} (hs : Keeps r s) : ∃ t, execBandCheck k vtune s = .next t ∧ Keeps r t := by
  unfold execBandCheck
  repeat' first
    | with_reducible assumption | with_reducible apply keeps_ite | with_reducible apply State.when__keeps
    | with_reducible apply State.setPll_keeps | with_reducible apply State.set_keeps | with_reducible apply State.setFlag_keeps
    | with_reducible apply State.raise_keeps | with_reducible apply State.synEvt_keeps | (with_reducible refine ⟨_, rfl, ?_⟩) | intro x

theorem execTst_keeps {r : State} (n : Fin 12) (va : BitVec 3) (b : BitVec 5) (imm : BitVec 16) {s : State} (hs : Keeps r s) : ∃ t, execTst n va b imm s = .next t ∧ Keeps r t := by
  unfold execTst
  repeat' first | with_reducible assumption | with_reducible apply State.storeInst_keeps | (with_reducible refine ⟨_, rfl, ?_⟩)

theorem State.tdcPort_keeps {r : State} {s : State} (hs : Keeps r s) : Keeps r (State.tdcPort s) := by
  unfold State.tdcPort
  repeat' first
    | with_reducible assumption | with_reducible apply State.tdcAdmit_keeps | lift_lets -underBinder | intro x
    | (fail_if_no_progress with_reducible refine keeps_mk ?_ rfl rfl) | split

theorem State.tagGood_keeps {r : State} {s : State} (y2 : OsnmaTag) (hs : Keeps r s) : Keeps r (State.tagGood s y2) := by
  unfold State.tagGood
  repeat' first | with_reducible assumption | with_reducible apply State.setGns_keeps | with_reducible apply State.authSet_keeps | split

theorem execKumSlotErase_keeps {r : State} (m : Master) {s : State} (hs : Keeps r s) : ∃ t, execKumSlotErase m s = .next t ∧ Keeps r t := by
  unfold execKumSlotErase
  repeat' first | with_reducible assumption | with_reducible apply State.kumOf_keeps | (with_reducible refine ⟨_, rfl, ?_⟩)

theorem State.dataSession_keeps {r : State} {s : State} (heard : List (Fin 24 × Nat × List Byte)) (hs : Keeps r s) : Keeps r (State.dataSession s heard) := by
  unfold State.dataSession
  repeat' first
    | with_reducible assumption | with_reducible apply keeps_ite | with_reducible apply State.hear_keeps
    | with_reducible apply State.rxMove_keeps | with_reducible apply State.setGns_keeps | split

theorem execDataSession_keeps {r : State} (heard : List (Fin 24 × Nat × List Byte)) {s : State} (hs : Keeps r s) : ∃ t, execDataSession heard s = .next t ∧ Keeps r t := by
  unfold execDataSession
  repeat' first | with_reducible assumption | with_reducible apply State.dataSession_keeps | (with_reducible refine ⟨_, rfl, ?_⟩)

theorem execAssistLookup_keeps {r : State} {s : State} (hs : Keeps r s) : ∃ t, execAssistLookup s = .next t ∧ Keeps r t := by
  unfold execAssistLookup
  repeat' first | with_reducible assumption | with_reducible apply State.assistStep_keeps | (with_reducible refine ⟨_, rfl, ?_⟩)

theorem State.rampDone_keeps {r : State} {s : State} (band : BitVec 6) (vtune : Byte) (hs : Keeps r s) : Keeps r (State.rampDone s band vtune) := by
  unfold State.rampDone
  repeat' first
    | with_reducible assumption | with_reducible apply keeps_ite | with_reducible apply State.setFlag_keeps
    | with_reducible apply State.clkEvt_keeps | with_reducible apply State.set_keeps | with_reducible apply State.levelOff_keeps

theorem execLeapSecondEvent_keeps {r : State} {s : State} (hs : Keeps r s) : ∃ t, execLeapSecondEvent s = .next t ∧ Keeps r t := by
  unfold execLeapSecondEvent
  repeat' first | with_reducible assumption | with_reducible apply State.leapSecond_keeps | (with_reducible refine ⟨_, rfl, ?_⟩)

theorem State.bar2Read_keeps {r : State} {s : State} (m : Master) (o : Nat) (hs : Keeps r s) : Keeps r (State.bar2Read s m o) := by
  unfold State.bar2Read
  repeat' first | with_reducible assumption | with_reducible apply State.replyErr_keeps | with_reducible apply State.reply_keeps | split

theorem execDelayRespSend_keeps {r : State} (k : Fin 8) {s : State} (hs : Keeps r s) : ∃ t, execDelayRespSend k s = .next t ∧ Keeps r t := by
  unfold execDelayRespSend
  repeat' first
    | with_reducible assumption | with_reducible apply State.serveHead_keeps | with_reducible apply State.delayReply_keeps
    | (with_reducible refine ⟨_, rfl, ?_⟩) | intro x

theorem execHoldRdyChange_keeps {r : State} (vhold : BitVec 13) {s : State} (hs : Keeps r s) : ∃ t, execHoldRdyChange vhold s = .next t ∧ Keeps r t := by
  unfold execHoldRdyChange
  repeat' first
    | with_reducible assumption | with_reducible apply State.when__keeps | with_reducible apply State.vholdShow_keeps
    | (with_reducible refine ⟨_, rfl, ?_⟩) | intro x

theorem execDozeGateRetry_keeps {r : State} (u : Fin 11) {s : State} (hs : Keeps r s) : ∃ t, execDozeGateRetry u s = .next t ∧ Keeps r t := by
  unfold execDozeGateRetry
  repeat' first | with_reducible assumption | with_reducible apply State.dozeRetry_keeps | (with_reducible refine ⟨_, rfl, ?_⟩)

theorem execLd_keeps {r : State} (n : Fin 12) (a : BitVec 5) (b : BitVec 5) (imm : BitVec 16) {s : State} (hs : Keeps r s) : ∃ t, execLd n a b imm s = .next t ∧ Keeps r t := by
  unfold execLd
  repeat' first | with_reducible assumption | with_reducible apply State.load_keeps | (with_reducible refine ⟨_, rfl, ?_⟩)

theorem State.dbgExpire_keeps {r : State} {s : State} (hs : Keeps r s) : Keeps r (State.dbgExpire s) := by
  unfold State.dbgExpire
  repeat' first | with_reducible assumption | with_reducible apply keeps_ite | with_reducible apply State.dbgClose_keeps

theorem execBlt_keeps {r : State} (n : Fin 12) (a : BitVec 5) (b : BitVec 5) (imm : BitVec 16) {s : State} (hs : Keeps r s) : ∃ t, execBlt n a b imm s = .next t ∧ Keeps r t := by
  unfold execBlt
  repeat' first | with_reducible assumption | with_reducible apply State.branch_keeps | (with_reducible refine ⟨_, rfl, ?_⟩)

theorem execTcmp_keeps {r : State} (n : Fin 12) (vb : BitVec 3) (vc : BitVec 3) {s : State} (hs : Keeps r s) : ∃ t, execTcmp n vb vc s = .next t ∧ Keeps r t := by
  unfold execTcmp
  repeat' first
    | with_reducible assumption | with_reducible apply State.issue_keeps | with_reducible apply State.next_keeps
    | with_reducible apply State.setFlags_keeps | (with_reducible refine ⟨_, rfl, ?_⟩) | intro x

theorem State.strapped_keeps {r : State} {s : State} (kspiQuad : Bool) (laneRev : Bool) (hs : Keeps r s) : Keeps r (State.strapped s kspiQuad laneRev) := by
  unfold State.strapped
  repeat' first | with_reducible assumption | (fail_if_no_progress with_reducible refine keeps_mk ?_ rfl rfl)

theorem execColdReset_keeps {r : State} (kspiQuad : Bool) (laneRev : Bool) {s : State} (hs : Keeps r s) : ∃ t, execColdReset kspiQuad laneRev s = .next t ∧ Keeps r t := by
  unfold execColdReset
  repeat' first
    | with_reducible assumption | with_reducible apply keeps_ite | with_reducible apply State.slotCheck1_keeps
    | with_reducible apply State.raiseCore_keeps | with_reducible apply State.strapped_keeps | with_reducible apply State.coldReset_keeps
    | (with_reducible refine ⟨_, rfl, ?_⟩) | with_reducible apply keeps_foldl | intro x

theorem State.settleDone_keeps {r : State} {s : State} (i : Fin 68) (phase : BitVec 16) (hs : Keeps r s) : Keeps r (State.settleDone s i phase) := by
  unfold State.settleDone
  repeat' first
    | with_reducible assumption | with_reducible apply State.linkMove_keeps | with_reducible apply State.setLink_keeps
    | with_reducible apply State.portSync_keeps | with_reducible apply State.set_keeps | split

theorem execSh_keeps {r : State} (n : Fin 12) (a : BitVec 5) (b : BitVec 5) (imm : BitVec 16) {s : State} (hs : Keeps r s) : ∃ t, execSh n a b imm s = .next t ∧ Keeps r t := by
  unfold execSh
  repeat' first | with_reducible assumption | with_reducible apply State.storeInst_keeps | (with_reducible refine ⟨_, rfl, ?_⟩)

theorem State.frameLate_keeps {r : State} {s : State} (p : Fin 64) (hs : Keeps r s) : Keeps r (State.frameLate s p) := by
  unfold State.frameLate
  repeat' first | with_reducible assumption | with_reducible apply State.discardLate_keeps | split

theorem State.exTimeout_keeps {r : State} {s : State} (i : Fin 68) (hs : Keeps r s) : Keeps r (State.exTimeout s i) := by
  unfold State.exTimeout
  repeat' first | with_reducible assumption | with_reducible apply State.exVoid_keeps | split

theorem execOscWarmupEnd_keeps {r : State} (k : Fin 4) {s : State} (hs : Keeps r s) : ∃ t, execOscWarmupEnd k s = .next t ∧ Keeps r t := by
  unfold execOscWarmupEnd
  repeat' first
    | with_reducible assumption | with_reducible apply State.when__keeps | with_reducible apply State.oscSync_keeps
    | with_reducible apply State.oscModel_keeps | with_reducible apply State.oscMove_keeps | (with_reducible refine ⟨_, rfl, ?_⟩) | intro x

theorem State.scrubFind_keeps {r : State} {s : State} (mem : Nat) (shown : Nat) (flipped : Bool) (hs : Keeps r s) : Keeps r (State.scrubFind s mem shown flipped) := by
  unfold State.scrubFind
  repeat' first
    | with_reducible assumption | with_reducible apply State.forN_keeps | with_reducible apply State.scrubFixed_keeps
    | with_reducible apply State.raise_keeps | with_reducible apply State.obs_keeps | with_reducible apply State.raiseBit_keeps
    | with_reducible apply State.set_keeps | with_reducible apply keeps_foldl | intro x
    | (fail_if_no_progress with_reducible refine keeps_mk ?_ rfl rfl)

theorem State.scrubLine_keeps {r : State} {s : State} (flipped : Bool) (hs : Keeps r s) : Keeps r (State.scrubLine s flipped) := by
  unfold State.scrubLine
  repeat' first
    | with_reducible assumption | with_reducible apply keeps_ite | with_reducible apply State.scrubFind_keeps
    | with_reducible apply State.obs_keeps | with_reducible apply State.set_keeps | with_reducible apply State.scrubEnd_keeps
    | (fail_if_no_progress with_reducible refine keeps_mk ?_ rfl rfl)

theorem execFrameLate_keeps {r : State} (p : Fin 64) {s : State} (hs : Keeps r s) : ∃ t, execFrameLate p s = .next t ∧ Keeps r t := by
  unfold execFrameLate
  repeat' first | with_reducible assumption | with_reducible apply State.frameLate_keeps | (with_reducible refine ⟨_, rfl, ?_⟩)

theorem execOri_keeps {r : State} (n : Fin 12) (a : BitVec 5) (b : BitVec 5) (imm : BitVec 16) {s : State} (hs : Keeps r s) : ∃ t, execOri n a b imm s = .next t ∧ Keeps r t := by
  unfold execOri
  repeat' first | with_reducible assumption | with_reducible apply State.aluImm_keeps | (with_reducible refine ⟨_, rfl, ?_⟩)

theorem State.osnmaRenew_keeps {r : State} {s : State} (hs : Keeps r s) : Keeps r (State.osnmaRenew s) := by
  unfold State.osnmaRenew
  repeat' first
    | with_reducible assumption | with_reducible apply State.setGns_keeps | with_reducible apply State.syncAuth_keeps
    | with_reducible apply State.forN_keeps | with_reducible apply State.setFlag_keeps | intro x

theorem execTaddg_keeps {r : State} (n : Fin 12) (va : BitVec 3) (vb : BitVec 3) (a : BitVec 5) {s : State} (hs : Keeps r s) : ∃ t, execTaddg n va vb a s = .next t ∧ Keeps r t := by
  unfold execTaddg
  repeat' first
    | with_reducible assumption | with_reducible apply State.issue_keeps | with_reducible apply State.timeOp_keeps
    | (with_reducible refine ⟨_, rfl, ?_⟩) | intro x

theorem execTxUnderrun_keeps {r : State} (p : Fin 64) {s : State} (hs : Keeps r s) : ∃ t, execTxUnderrun p s = .next t ∧ Keeps r t := by
  unfold execTxUnderrun
  repeat' first
    | with_reducible assumption | with_reducible apply State.run_keeps | with_reducible apply State.underrun_keeps
    | (with_reducible refine ⟨_, rfl, ?_⟩) | intro x

theorem execXor_keeps {r : State} (n : Fin 12) (a : BitVec 5) (b : BitVec 5) (c : BitVec 5) (setFlags : Bool) {s : State} (hs : Keeps r s) : ∃ t, execXor n a b c setFlags s = .next t ∧ Keeps r t := by
  unfold execXor
  repeat' first | with_reducible assumption | with_reducible apply State.alu_keeps | (with_reducible refine ⟨_, rfl, ?_⟩)

theorem execMbxRelWrite_keeps {r : State} (m : Master) (v : Word) {s : State} (hs : Keeps r s) : ∃ t, execMbxRelWrite m v s = .next t ∧ Keeps r t := by
  unfold execMbxRelWrite
  repeat' first | with_reducible assumption | with_reducible apply State.busWrite32_keeps | (with_reducible refine ⟨_, rfl, ?_⟩)

theorem execObsCntWrite_keeps {r : State} (m : Master) (k : Fin 32) (v : Word) {s : State} (hs : Keeps r s) : ∃ t, execObsCntWrite m k v s = .next t ∧ Keeps r t := by
  unfold execObsCntWrite
  repeat' first | with_reducible assumption | with_reducible apply State.busWrite32_keeps | (with_reducible refine ⟨_, rfl, ?_⟩)

theorem execTFupReceive_keeps {r : State} (src : PackSrc) {s : State} (hs : Keeps r s) : ∃ t, execTFupReceive src s = .next t ∧ Keeps r t := by
  unfold execTFupReceive
  repeat' first
    | with_reducible assumption | with_reducible apply State.run_keeps | with_reducible apply State.packTake_keeps
    | with_reducible apply State.fupReceive_keeps | (with_reducible refine ⟨_, rfl, ?_⟩) | intro x

theorem State.mintLeave_keeps {r : State} {s : State} (hs : Keeps r s) : Keeps r (State.mintLeave s) := by
  unfold State.mintLeave
  repeat' first
    | with_reducible assumption | with_reducible apply State.clearBit_keeps | with_reducible apply State.setFlag_keeps
    | with_reducible apply State.setSrv_keeps

theorem State.hostMint_keeps {r : State} {s : State} (hs : Keeps r s) : Keeps r (State.hostMint s) := by
  unfold State.hostMint
  repeat' first
    | with_reducible assumption | with_reducible apply State.set_keeps | with_reducible apply State.mintLeave_keeps
    | with_reducible apply State.mintOut_keeps | split

theorem State.crossGroup_keeps {r : State} {s : State} (g : Fin 8) (temp : List Int) (vdd : List Nat) (wordClk : List Nat) (hs : Keeps r s) : Keeps r (State.crossGroup s g temp vdd wordClk) := by
  unfold State.crossGroup
  repeat' first
    | with_reducible assumption | with_reducible apply State.run_keeps | with_reducible apply State.degrSync_keeps
    | with_reducible apply State.syncSkew_keeps | with_reducible apply State.crossCheck_keeps | with_reducible apply State.pwrSample_keeps
    | intro x

theorem execFchHeadWrite_keeps {r : State} (m : Master) (c : Fin 16) (v : Word) {s : State} (hs : Keeps r s) : ∃ t, execFchHeadWrite m c v s = .next t ∧ Keeps r t := by
  unfold execFchHeadWrite
  repeat' first | with_reducible assumption | with_reducible apply State.busWrite32_keeps | (with_reducible refine ⟨_, rfl, ?_⟩)

theorem State.snapCapture_keeps {r : State} {s : State} (samples : List Byte) (hs : Keeps r s) : Keeps r (State.snapCapture s samples) := by
  unfold State.snapCapture
  repeat' first
    | with_reducible assumption | with_reducible apply keeps_ite | with_reducible apply State.winPut_keeps
    | with_reducible apply State.setGns_keeps | with_reducible apply State.obs_keeps | with_reducible apply State.feDown_keeps
    | with_reducible apply State.setFlag_keeps | with_reducible apply State.raiseBit_keeps | with_reducible apply State.idleNow_keeps
    | with_reducible apply State.gnsEvt_keeps | split

theorem execOr_keeps {r : State} (n : Fin 12) (a : BitVec 5) (b : BitVec 5) (c : BitVec 5) (setFlags : Bool) {s : State} (hs : Keeps r s) : ∃ t, execOr n a b c setFlags s = .next t ∧ Keeps r t := by
  unfold execOr
  repeat' first | with_reducible assumption | with_reducible apply State.alu_keeps | (with_reducible refine ⟨_, rfl, ?_⟩)

theorem execAssistSetDeny_keeps {r : State} {s : State} (hs : Keeps r s) : ∃ t, execAssistSetDeny s = .next t ∧ Keeps r t := by
  unfold execAssistSetDeny
  repeat' first | with_reducible assumption | with_reducible apply State.assistStep_keeps | (with_reducible refine ⟨_, rfl, ?_⟩)

theorem State.respReceive_keeps {r : State} {s : State} (y2 : PackRx) (hs : Keeps r s) : Keeps r (State.respReceive s y2) := by
  unfold State.respReceive
  repeat' first | with_reducible assumption | with_reducible apply State.setAtt_keeps | lift_lets -underBinder | intro x | split

theorem State.bar2Write_keeps {r : State} {s : State} (m : Master) (o : Nat) (v : Word) (hs : Keeps r s) : Keeps r (State.bar2Write s m o v) := by
  unfold State.bar2Write
  repeat' first
    | with_reducible assumption | with_reducible apply keeps_ite | with_reducible apply State.replyErr_keeps
    | with_reducible apply State.msgScan_keeps | (fail_if_no_progress with_reducible refine keeps_mk ?_ rfl rfl) | split

theorem execRegisterWrite_keeps {r : State} (m : Master) (addr : Nat) (v : Word) {s : State} (hs : Keeps r s) : ∃ t, execRegisterWrite m addr v s = .next t ∧ Keeps r t := by
  unfold execRegisterWrite
  repeat' first
    | with_reducible assumption | with_reducible apply keeps_ite | with_reducible apply State.bar2Write_keeps
    | with_reducible apply State.busWrite32_keeps | (with_reducible refine ⟨_, rfl, ?_⟩)

theorem State.cmdChallenge_keeps {r : State} (c : MbCmd) {s : State} (hs : Keeps r s) : Keeps r (State.cmdChallenge c s).2.2 := by
  unfold State.cmdChallenge
  repeat' first | with_reducible assumption | with_reducible apply State.drawn_keeps

theorem execMbxChallenge_keeps {r : State} {s : State} (hs : Keeps r s) : ∃ t, execMbxChallenge s = .next t ∧ Keeps r t := by
  unfold execMbxChallenge
  repeat' first
    | with_reducible assumption | with_reducible apply State.mbRun_keeps | with_reducible apply State.cmdChallenge_keeps
    | (with_reducible refine ⟨_, rfl, ?_⟩) | intro x

theorem State.adrSend_keeps {r : State} {s : State} (n : Fin 4) (hs : Keeps r s) : Keeps r (State.adrSend s n) := by
  unfold State.adrSend
  repeat' first
    | with_reducible assumption | with_reducible apply keeps_ite | with_reducible apply State.adrSource_keeps
    | with_reducible apply State.setFlag_keeps | with_reducible apply State.setAdr_keeps

theorem execAdrOutputFrame_keeps {r : State} (n : Fin 4) {s : State} (hs : Keeps r s) : ∃ t, execAdrOutputFrame n s = .next t ∧ Keeps r t := by
  unfold execAdrOutputFrame
  repeat' first
    | with_reducible assumption | with_reducible apply State.run_keeps | with_reducible apply State.adrSend_keeps
    | (with_reducible refine ⟨_, rfl, ?_⟩) | intro x

theorem State.measured_keeps {r : State} {s : State} (n : Fin 12) (cls : Nat) (entry : Nat) (trap : Nat) (restart : Nat) (ver : Nat) (iw : Nat) (dw : Nat) (d : Digest) (hs : Keeps r s) : Keeps r (State.measured s n cls entry trap restart ver iw dw d) := by
  unfold State.measured
  repeat' first
    | with_reducible assumption | with_reducible apply State.setEng_keeps | with_reducible apply State.set_keeps
    | with_reducible apply State.serveExtend_keeps | with_reducible apply State.setFlag_keeps

theorem execSurveyEnd_keeps {r : State} {s : State} (hs : Keeps r s) : ∃ t, execSurveyEnd s = .next t ∧ Keeps r t := by
  unfold execSurveyEnd
  repeat' first | with_reducible assumption | with_reducible apply State.surveyEnd_keeps | (with_reducible refine ⟨_, rfl, ?_⟩)

theorem State.todSend_keeps {r : State} {s : State} (j : Fin 16) (hs : Keeps r s) : Keeps r (State.todSend s j) := by
  unfold State.todSend
  repeat' first | with_reducible assumption | with_reducible apply keeps_ite | with_reducible apply State.setSynOut_keeps | split

theorem execKpairRecomputeEnd_keeps {r : State} {s : State} (hs : Keeps r s) : ∃ t, execKpairRecomputeEnd s = .next t ∧ Keeps r t := by
  unfold execKpairRecomputeEnd
  repeat' first | with_reducible assumption | with_reducible apply State.recomputeEnd_keeps | (with_reducible refine ⟨_, rfl, ?_⟩)

theorem execDbgObserve_keeps {r : State} (m : Master) {s : State} (hs : Keeps r s) : ∃ t, execDbgObserve m s = .next t ∧ Keeps r t := by
  unfold execDbgObserve
  repeat' first
    | with_reducible assumption | with_reducible apply State.when__keeps | with_reducible apply State.dbgReq_keeps
    | (with_reducible refine ⟨_, rfl, ?_⟩) | intro x

theorem State.heelTimeout_keeps {r : State} {s : State} (j : Fin 16) (hs : Keeps r s) : Keeps r (State.heelTimeout s j) := by
  unfold State.heelTimeout
  repeat' first | with_reducible assumption | with_reducible apply keeps_ite | with_reducible apply State.set_keeps

theorem execFltStatusClear_keeps {r : State} (m : Master) (w : Fin 8) (v : Word) {s : State} (hs : Keeps r s) : ∃ t, execFltStatusClear m w v s = .next t ∧ Keeps r t := by
  unfold execFltStatusClear
  repeat' first | with_reducible assumption | with_reducible apply State.busWrite32_keeps | (with_reducible refine ⟨_, rfl, ?_⟩)

theorem execMsixSend_keeps {r : State} (v : Fin 64) {s : State} (hs : Keeps r s) : ∃ t, execMsixSend v s = .next t ∧ Keeps r t := by
  unfold execMsixSend
  repeat' first | with_reducible assumption | with_reducible apply State.msgSend_keeps | (with_reducible refine ⟨_, rfl, ?_⟩)

theorem execScrubLine_keeps {r : State} (flipped : Bool) {s : State} (hs : Keeps r s) : ∃ t, execScrubLine flipped s = .next t ∧ Keeps r t := by
  unfold execScrubLine
  repeat' first
    | with_reducible assumption | with_reducible apply State.when__keeps | with_reducible apply State.scrubLine_keeps
    | (with_reducible refine ⟨_, rfl, ?_⟩) | intro x

theorem execAddi_keeps {r : State} (n : Fin 12) (a : BitVec 5) (b : BitVec 5) (imm : BitVec 16) {s : State} (hs : Keeps r s) : ∃ t, execAddi n a b imm s = .next t ∧ Keeps r t := by
  unfold execAddi
  repeat' first | with_reducible assumption | with_reducible apply State.aluImm_keeps | (with_reducible refine ⟨_, rfl, ?_⟩)

theorem execLbs_keeps {r : State} (n : Fin 12) (a : BitVec 5) (b : BitVec 5) (imm : BitVec 16) {s : State} (hs : Keeps r s) : ∃ t, execLbs n a b imm s = .next t ∧ Keeps r t := by
  unfold execLbs
  repeat' first | with_reducible assumption | with_reducible apply State.load_keeps | (with_reducible refine ⟨_, rfl, ?_⟩)

theorem execDeepWake_keeps {r : State} (cause : Fin 3) (age : Nat) (vin : BitVec 13) {s : State} (hs : Keeps r s) : ∃ t, execDeepWake cause age vin s = .next t ∧ Keeps r t := by
  unfold execDeepWake
  repeat' first | with_reducible assumption | with_reducible apply State.deepWake_keeps | (with_reducible refine ⟨_, rfl, ?_⟩)

theorem State.xcompUpdate_keeps {r : State} {s : State} (g : Fin 9) (rtt : BitVec 24) (hs : Keeps r s) : Keeps r (State.xcompUpdate s g rtt) := by
  unfold State.xcompUpdate
  repeat' first
    | with_reducible assumption | with_reducible apply keeps_ite | with_reducible apply State.forN_keeps
    | with_reducible apply State.set_keeps | with_reducible apply State.setFlag_keeps | with_reducible apply State.degrSync_keeps | intro x
    | (fail_if_no_progress with_reducible refine keeps_mk ?_ rfl rfl)

theorem execPwrUngate_keeps {r : State} (m : Master) (u : Fin 11) {s : State} (hs : Keeps r s) : ∃ t, execPwrUngate m u s = .next t ∧ Keeps r t := by
  unfold execPwrUngate
  repeat' first | with_reducible assumption | with_reducible apply State.busWrite32_keeps | (with_reducible refine ⟨_, rfl, ?_⟩)

theorem execNop_keeps {r : State} (n : Fin 12) {s : State} (hs : Keeps r s) : ∃ t, execNop n s = .next t ∧ Keeps r t := by
  unfold execNop
  repeat' first
    | with_reducible assumption | with_reducible apply State.issue_keeps | with_reducible apply State.next_keeps
    | (with_reducible refine ⟨_, rfl, ?_⟩) | intro x

theorem execLinkTrainTimeout_keeps {r : State} (i : Fin 68) {s : State} (hs : Keeps r s) : ∃ t, execLinkTrainTimeout i s = .next t ∧ Keeps r t := by
  unfold execLinkTrainTimeout
  repeat' first
    | with_reducible assumption | with_reducible apply State.run_keeps | with_reducible apply State.trainTimeout_keeps
    | (with_reducible refine ⟨_, rfl, ?_⟩) | intro x

theorem execClaimExpiry_keeps {r : State} (b : Fin 4) {s : State} (hs : Keeps r s) : ∃ t, execClaimExpiry b s = .next t ∧ Keeps r t := by
  unfold execClaimExpiry
  repeat' first
    | with_reducible assumption | with_reducible apply State.when__keeps | with_reducible apply State.bump_keeps
    | with_reducible apply State.mbFree_keeps | (with_reducible refine ⟨_, rfl, ?_⟩) | intro x

theorem execKpllFirstLock_keeps {r : State} (edges : BitVec 4) {s : State} (hs : Keeps r s) : ∃ t, execKpllFirstLock edges s = .next t ∧ Keeps r t := by
  unfold execKpllFirstLock
  repeat' first | with_reducible assumption | with_reducible apply State.kpllFirstLock_keeps | (with_reducible refine ⟨_, rfl, ?_⟩)

theorem execBarkNMinHold_keeps {r : State} {s : State} (hs : Keeps r s) : ∃ t, execBarkNMinHold s = .next t ∧ Keeps r t := by
  unfold execBarkNMinHold
  repeat' first
    | with_reducible assumption | with_reducible apply State.when__keeps | with_reducible apply State.syncFlt_keeps
    | (with_reducible refine ⟨_, rfl, ?_⟩) | intro x | (fail_if_no_progress with_reducible refine keeps_mk ?_ rfl rfl)

theorem execTbFreqWindow_keeps {r : State} (count : Nat) {s : State} (hs : Keeps r s) : ∃ t, execTbFreqWindow count s = .next t ∧ Keeps r t := by
  unfold execTbFreqWindow
  repeat' first
    | with_reducible assumption | with_reducible apply keeps_ite | with_reducible apply State.when__keeps
    | with_reducible apply State.tbLost_keeps | (with_reducible refine ⟨_, rfl, ?_⟩) | intro x
    | (fail_if_no_progress with_reducible refine keeps_mk ?_ rfl rfl)

theorem State.measureEnd_keeps {r : State} {s : State} (n : Fin 12) (hs : Keeps r s) : Keeps r (State.measureEnd s n) := by
  unfold State.measureEnd
  repeat' first
    | with_reducible assumption | with_reducible apply keeps_ite | with_reducible apply State.measured_keeps
    | with_reducible apply State.runSet_keeps | with_reducible apply State.measFailed_keeps | with_reducible apply State.memCut_keeps

theorem execMeasurementDone_keeps {r : State} (n : Fin 12) {s : State} (hs : Keeps r s) : ∃ t, execMeasurementDone n s = .next t ∧ Keeps r t := by
  unfold execMeasurementDone
  repeat' first | with_reducible assumption | with_reducible apply State.measureEnd_keeps | (with_reducible refine ⟨_, rfl, ?_⟩)

theorem State.guardFails_keeps {r : State} {s : State} (hs : Keeps r s) : Keeps r (State.guardFails s) := by
  unfold State.guardFails
  repeat' first
    | with_reducible assumption | with_reducible apply keeps_ite | with_reducible apply State.syncFlt_keeps
    | with_reducible apply State.levelOn_keeps | (fail_if_no_progress with_reducible refine keeps_mk ?_ rfl rfl)

theorem execGuardFailTimeout_keeps {r : State} {s : State} (hs : Keeps r s) : ∃ t, execGuardFailTimeout s = .next t ∧ Keeps r t := by
  unfold execGuardFailTimeout
  repeat' first | with_reducible assumption | with_reducible apply State.guardFails_keeps | (with_reducible refine ⟨_, rfl, ?_⟩)

theorem execWkrLoad_keeps {r : State} (cons : Fin 4) (slot : Fin 32) (m : Master) (ctx : Word) {s : State} (hs : Keeps r s) : ∃ t, execWkrLoad cons slot m ctx s = .next t ∧ Keeps r t := by
  unfold execWkrLoad
  repeat' first
    | with_reducible assumption | with_reducible apply State.wkrLoad_keeps | with_reducible apply State.syncKeys_keeps
    | (with_reducible refine ⟨_, rfl, ?_⟩) | (fail_if_no_progress with_reducible refine keeps_mk ?_ rfl rfl) | split

theorem execAeadMint_keeps {r : State} (n : Fin 12) (num : Fin 16) {s : State} (hs : Keeps r s) : ∃ t, execAeadMint n num s = .next t ∧ Keeps r t := by
  unfold execAeadMint
  repeat' first
    | with_reducible assumption | with_reducible apply State.runJob_keeps | with_reducible apply State.mintJob_keeps
    | (with_reducible refine ⟨_, rfl, ?_⟩) | intro x

theorem execMatrixResponse_keeps {r : State} (m : Fin 16) (y2 : Fin 12) {s : State} (hs : Keeps r s) : ∃ t, execMatrixResponse m y2 s = .next t ∧ Keeps r t := by
  unfold execMatrixResponse
  repeat' first | with_reducible assumption | with_reducible apply State.respond_keeps | (with_reducible refine ⟨_, rfl, ?_⟩)

theorem execHostMeasExtend_keeps {r : State} (m : Master) (v : Word) {s : State} (hs : Keeps r s) : ∃ t, execHostMeasExtend m v s = .next t ∧ Keeps r t := by
  unfold execHostMeasExtend
  repeat' first
    | with_reducible assumption | with_reducible apply State.when__keeps | with_reducible apply State.hostExtend_keeps
    | (with_reducible refine ⟨_, rfl, ?_⟩) | intro x | (fail_if_no_progress with_reducible refine keeps_mk ?_ rfl rfl)

theorem State.flrRegs_keeps {r : State} {s : State} (f : Nat) (hs : Keeps r s) : Keeps r (State.flrRegs s f) := by
  unfold State.flrRegs
  repeat' first | with_reducible assumption | (with_reducible refine keeps_regs ?_ rfl rfl)

theorem execLeapFlagSet_keeps {r : State} {s : State} (hs : Keeps r s) : ∃ t, execLeapFlagSet s = .next t ∧ Keeps r t := by
  unfold execLeapFlagSet
  repeat' first | with_reducible assumption | with_reducible apply State.leapFlags_keeps | (with_reducible refine ⟨_, rfl, ?_⟩)

theorem State.osnmaPkr_keeps {r : State} {s : State} (npkt : Nat) (npkid : Nat) (mid : Nat) (key : List Byte) (path : List (List Byte)) (hs : Keeps r s) : Keeps r (State.osnmaPkr s npkt npkid mid key path) := by
  unfold State.osnmaPkr
  repeat' first | with_reducible assumption | with_reducible apply keeps_ite | with_reducible apply State.setGns_keeps

end Sys2Proof.Machine
end

