-- ==== Sys2Proof/Laws/Keeps10.lean ====
section
/-! SUPPORT. What every operation keeps, continued: one lemma per operation, callees first (part 10). -/

set_option linter.all false

namespace Sys2Proof.Machine

theorem State.osnmaKroot_keeps {r : State} {s : State} (pkid : Nat) (y3 : Tesla) (signed : List Byte) (sig : List Byte) (hs : Keeps r s) : Keeps r (State.osnmaKroot s pkid y3 signed sig) := by
  unfold State.osnmaKroot
  repeat' first | with_reducible assumption | with_reducible apply State.setGns_keeps | split

theorem State.osnmaKey_keeps {r : State} {s : State} (gst : Nat) (key : List Byte) (hs : Keeps r s) : Keeps r (State.osnmaKey s gst key) := by
  unfold State.osnmaKey
  repeat' first | with_reducible assumption | with_reducible apply State.setGns_keeps | split

theorem State.tagBad_keeps {r : State} {s : State} (from_ : Nat) (y3 : OsnmaTag) (hs : Keeps r s) : Keeps r (State.tagBad s from_ y3) := by
  unfold State.tagBad
  repeat' first
    | with_reducible assumption | with_reducible apply keeps_ite | with_reducible apply State.setGns_keeps
    | with_reducible apply State.gnsEvt_keeps | with_reducible apply State.authSet_keeps | with_reducible apply State.raise_keeps

theorem State.osnmaTag_keeps {r : State} {s : State} (from_ : Nat) (y3 : OsnmaTag) (hs : Keeps r s) : Keeps r (State.osnmaTag s from_ y3) := by
  unfold State.osnmaTag
  repeat' first | with_reducible assumption | with_reducible apply State.tagGood_keeps | with_reducible apply State.tagBad_keeps | split

theorem State.osnma_keeps {r : State} {s : State} (y2 : Fin 24) (m : OsnmaMsg) (hs : Keeps r s) : Keeps r (State.osnma s y2 m) := by
  unfold State.osnma
  repeat' first
    | with_reducible assumption | with_reducible apply keeps_ite | with_reducible apply State.osnmaPkr_keeps
    | with_reducible apply State.osnmaKroot_keeps | with_reducible apply State.osnmaKey_keeps | with_reducible apply State.osnmaTag_keeps
    | with_reducible apply State.osnmaRenew_keeps | split

theorem execOsnmaVerify_keeps {r : State} (ch : Fin 24) (m : OsnmaMsg) {s : State} (hs : Keeps r s) : ∃ t, execOsnmaVerify ch m s = .next t ∧ Keeps r t := by
  unfold execOsnmaVerify
  repeat' first | with_reducible assumption | with_reducible apply State.osnma_keeps | (with_reducible refine ⟨_, rfl, ?_⟩)

theorem State.pcsLock_keeps {r : State} {s : State} (i : Fin 68) (slip : Byte) (an10 : Bool) (hs : Keeps r s) : Keeps r (State.pcsLock s i slip an10) := by
  unfold State.pcsLock
  repeat' first
    | with_reducible assumption | with_reducible apply keeps_ite | with_reducible apply State.setLink_keeps
    | with_reducible apply State.linkMove_keeps | with_reducible apply State.set_keeps | with_reducible apply State.setFlag_keeps
    | with_reducible apply State.setModeAct_keeps | with_reducible apply State.raiseBit_keeps | with_reducible apply State.bump_keeps
    | with_reducible apply State.portSync_keeps | split

theorem execAssistDelete_keeps {r : State} {s : State} (hs : Keeps r s) : ∃ t, execAssistDelete s = .next t ∧ Keeps r t := by
  unfold execAssistDelete
  repeat' first | with_reducible assumption | with_reducible apply State.assistStep_keeps | (with_reducible refine ⟨_, rfl, ?_⟩)

theorem State.xtalReady_keeps {r : State} {s : State} (hs : Keeps r s) : Keeps r (State.xtalReady s) := by
  unfold State.xtalReady
  repeat' first
    | with_reducible assumption | with_reducible apply State.setFlag_keeps | (fail_if_no_progress with_reducible refine keeps_mk ?_ rfl rfl)

theorem execMulhu_keeps {r : State} (n : Fin 12) (a : BitVec 5) (b : BitVec 5) (c : BitVec 5) (setFlags : Bool) {s : State} (hs : Keeps r s) : ∃ t, execMulhu n a b c setFlags s = .next t ∧ Keeps r t := by
  unfold execMulhu
  repeat' first | with_reducible assumption | with_reducible apply State.alu_keeps | (with_reducible refine ⟨_, rfl, ?_⟩)

theorem execPmark_keeps {r : State} (n : Fin 12) (b : BitVec 5) {s : State} (hs : Keeps r s) : ∃ t, execPmark n b s = .next t ∧ Keeps r t := by
  unfold execPmark
  repeat' first
    | with_reducible assumption | with_reducible apply keeps_ite | with_reducible apply State.issue_keeps
    | with_reducible apply State.next_keeps | with_reducible apply State.setEng_keeps | with_reducible apply State.smpArm_keeps
    | with_reducible apply State.smpRecord_keeps | (with_reducible refine ⟨_, rfl, ?_⟩) | intro x

theorem State.flrVectors_keeps {r : State} {s : State} (f : Nat) (hs : Keeps r s) : Keeps r (State.flrVectors s f) := by
  unfold State.flrVectors
  repeat' first | with_reducible assumption | (fail_if_no_progress with_reducible refine keeps_mk ?_ rfl rfl)

theorem State.flr_keeps {r : State} {s : State} (f : Nat) (hs : Keeps r s) : Keeps r (State.flr s f) := by
  unfold State.flr
  repeat' first
    | with_reducible assumption | with_reducible apply State.fnBit_keeps | with_reducible apply State.flrVectors_keeps
    | with_reducible apply State.flrRegs_keeps | with_reducible apply State.fnSync_keeps

theorem execFunctionLevelReset_keeps {r : State} (f : Fin 4) {s : State} (hs : Keeps r s) : ∃ t, execFunctionLevelReset f s = .next t ∧ Keeps r t := by
  unfold execFunctionLevelReset
  repeat' first | with_reducible assumption | with_reducible apply State.flr_keeps | (with_reducible refine ⟨_, rfl, ?_⟩)

theorem execEngWdogWrite_keeps {r : State} (m : Master) (n : Fin 12) (v : Word) {s : State} (hs : Keeps r s) : ∃ t, execEngWdogWrite m n v s = .next t ∧ Keeps r t := by
  unfold execEngWdogWrite
  repeat' first | with_reducible assumption | with_reducible apply State.busWrite32_keeps | (with_reducible refine ⟨_, rfl, ?_⟩)

theorem execSyspllCoast_keeps {r : State} (unlock : Bool) (vtune : Byte) {s : State} (hs : Keeps r s) : ∃ t, execSyspllCoast unlock vtune s = .next t ∧ Keeps r t := by
  unfold execSyspllCoast
  repeat' first | with_reducible assumption | with_reducible apply State.coast_keeps | (with_reducible refine ⟨_, rfl, ?_⟩)

theorem State.reqReceive_keeps {r : State} {s : State} (y2 : PackRx) (hs : Keeps r s) : Keeps r (State.reqReceive s y2) := by
  unfold State.reqReceive
  repeat' first | with_reducible assumption | with_reducible apply State.setAtt_keeps | with_reducible apply State.packPut_keeps | split

theorem execTReqReceive_keeps {r : State} (src : PackSrc) {s : State} (hs : Keeps r s) : ∃ t, execTReqReceive src s = .next t ∧ Keeps r t := by
  unfold execTReqReceive
  repeat' first
    | with_reducible assumption | with_reducible apply State.run_keeps | with_reducible apply State.packTake_keeps
    | with_reducible apply State.reqReceive_keeps | (with_reducible refine ⟨_, rfl, ?_⟩) | intro x

theorem execLoadDone_keeps {r : State} (m : Master) (n : Fin 12) {s : State} (hs : Keeps r s) : ∃ t, execLoadDone m n s = .next t ∧ Keeps r t := by
  unfold execLoadDone
  repeat' first | with_reducible assumption | with_reducible apply State.busWrite32_keeps | (with_reducible refine ⟨_, rfl, ?_⟩)

theorem execCmpi_keeps {r : State} (n : Fin 12) (b : BitVec 5) (imm : BitVec 16) {s : State} (hs : Keeps r s) : ∃ t, execCmpi n b imm s = .next t ∧ Keeps r t := by
  unfold execCmpi
  repeat' first
    | with_reducible assumption | with_reducible apply State.issue_keeps | with_reducible apply State.next_keeps
    | with_reducible apply State.setFlags_keeps | (with_reducible refine ⟨_, rfl, ?_⟩) | intro x

theorem execMatrixGrant_keeps {r : State} (y1 : Fin 12) {s : State} (hs : Keeps r s) : ∃ t, execMatrixGrant y1 s = .next t ∧ Keeps r t := by
  unfold execMatrixGrant
  repeat' first | with_reducible assumption | with_reducible apply State.grant_keeps | (with_reducible refine ⟨_, rfl, ?_⟩)

theorem State.upReport_keeps {r : State} {s : State} (k : Fin 8) (tag : Nat) (port : Nat) (t3 : Option Nat) (degraded : Bool) (hs : Keeps r s) : Keeps r (State.upReport s k tag port t3 degraded) := by
  unfold State.upReport
  repeat' first
    | with_reducible assumption | with_reducible apply State.setUp_keeps | with_reducible apply keeps_foldl | lift_lets -underBinder
    | intro x | split

theorem State.followUp_keeps {r : State} {s : State} (k : Fin 8) (y3 : TwoStep) (a : Nat) (degraded : Bool) (ver : Nat) (buf : Nat) (hs : Keeps r s) : Keeps r (State.followUp s k y3 a degraded ver buf) := by
  unfold State.followUp
  repeat' first | with_reducible assumption | with_reducible apply State.servLaunch_keeps | lift_lets -underBinder | intro x | split

theorem State.takeReport_keeps {r : State} {s : State} (k : Fin 8) (buf : Nat) (hs : Keeps r s) : Keeps r (State.takeReport s k buf) := by
  unfold State.takeReport
  repeat' first
    | with_reducible assumption | with_reducible apply State.lringSync_keeps | with_reducible apply State.bumpW_keeps
    | with_reducible apply State.upReport_keeps | with_reducible apply State.poolRet_keeps | with_reducible apply State.setSrv_keeps
    | with_reducible apply State.followUp_keeps | lift_lets -underBinder | intro x | split

theorem execBgeu_keeps {r : State} (n : Fin 12) (a : BitVec 5) (b : BitVec 5) (imm : BitVec 16) {s : State} (hs : Keeps r s) : ∃ t, execBgeu n a b imm s = .next t ∧ Keeps r t := by
  unfold execBgeu
  repeat' first | with_reducible assumption | with_reducible apply State.branch_keeps | (with_reducible refine ⟨_, rfl, ?_⟩)

theorem execGuardRestart_keeps {r : State} (m : Master) {s : State} (hs : Keeps r s) : ∃ t, execGuardRestart m s = .next t ∧ Keeps r t := by
  unfold execGuardRestart
  repeat' first | with_reducible assumption | with_reducible apply State.busWrite32_keeps | (with_reducible refine ⟨_, rfl, ?_⟩)

theorem execHeelRecord_keeps {r : State} (j : Fin 16) {s : State} (hs : Keeps r s) : ∃ t, execHeelRecord j s = .next t ∧ Keeps r t := by
  unfold execHeelRecord
  repeat' first | with_reducible assumption | with_reducible apply State.heelTake_keeps | (with_reducible refine ⟨_, rfl, ?_⟩)

theorem execStoreBuserr_keeps {r : State} (n : Fin 12) {s : State} (hs : Keeps r s) : ∃ t, execStoreBuserr n s = .next t ∧ Keeps r t := by
  unfold execStoreBuserr
  repeat' first | with_reducible assumption | with_reducible apply State.storeError_keeps | (with_reducible refine ⟨_, rfl, ?_⟩)

theorem execGrantRequest_keeps {r : State} (k : Fin 8) {s : State} (hs : Keeps r s) : ∃ t, execGrantRequest k s = .next t ∧ Keeps r t := by
  unfold execGrantRequest
  repeat' first
    | with_reducible assumption | with_reducible apply State.serveHead_keeps | with_reducible apply State.signalReply_keeps
    | (with_reducible refine ⟨_, rfl, ?_⟩) | intro x

theorem execTodMessage_keeps {r : State} (j : Fin 16) {s : State} (hs : Keeps r s) : ∃ t, execTodMessage j s = .next t ∧ Keeps r t := by
  unfold execTodMessage
  repeat' first | with_reducible assumption | with_reducible apply State.todSend_keeps | (with_reducible refine ⟨_, rfl, ?_⟩)

theorem State.cmdCommitFw_keeps {r : State} (c : MbCmd) {s : State} (hs : Keeps r s) : Keeps r (State.cmdCommitFw c s).2.2 := by
  unfold State.cmdCommitFw
  repeat' first
    | with_reducible assumption | with_reducible apply State.bumpW_keeps | with_reducible apply State.mbRecord_keeps
    | with_reducible apply State.kLoad_keeps | with_reducible apply State.kPutArea_keeps | with_reducible apply State.setFlag_keeps
    | with_reducible apply State.setPair_keeps | lift_lets -underBinder
    | (intro x; (have hd : x = x := by unfold x; rfl); clear hd; refine (fun (hx : Keeps r x) => ?_) ?_) | intro x
    | (fail_if_no_progress with_reducible refine keeps_mk ?_ rfl rfl) | split | unfold x

theorem execMbxCommitFw_keeps {r : State} (kspiOk : Bool) {s : State} (hs : Keeps r s) : ∃ t, execMbxCommitFw kspiOk s = .next t ∧ Keeps r t := by
  unfold execMbxCommitFw
  repeat' first
    | with_reducible assumption | with_reducible apply State.mbRun_keeps | with_reducible apply State.cmdCommitFw_keeps
    | (with_reducible refine ⟨_, rfl, ?_⟩) | intro x

theorem execPauseWatchdog_keeps {r : State} (p : Fin 64) {s : State} (hs : Keeps r s) : ∃ t, execPauseWatchdog p s = .next t ∧ Keeps r t := by
  unfold execPauseWatchdog
  repeat' first
    | with_reducible assumption | with_reducible apply State.run_keeps | with_reducible apply State.pauseBreak_keeps
    | (with_reducible refine ⟨_, rfl, ?_⟩) | intro x

theorem execMbxTestMode_keeps {r : State} {s : State} (hs : Keeps r s) : ∃ t, execMbxTestMode s = .next t ∧ Keeps r t := by
  unfold execMbxTestMode
  repeat' first
    | with_reducible assumption | with_reducible apply State.mbRun_keeps | with_reducible apply State.cmdTestMode_keeps
    | (with_reducible refine ⟨_, rfl, ?_⟩) | intro x

theorem execHostRecordCancel_keeps {r : State} (k : Fin 8) (p : Fin 64) (hdr : List Byte) (buf : Word) {s : State} (hs : Keeps r s) : ∃ t, execHostRecordCancel k p hdr buf s = .next t ∧ Keeps r t := by
  unfold execHostRecordCancel
  repeat' first | with_reducible assumption | with_reducible apply State.hostCancel_keeps | (with_reducible refine ⟨_, rfl, ?_⟩)

theorem execSampleSelect_keeps {r : State} (n : Fin 12) {s : State} (hs : Keeps r s) : ∃ t, execSampleSelect n s = .next t ∧ Keeps r t := by
  unfold execSampleSelect
  repeat' first
    | with_reducible assumption | with_reducible apply State.when__keeps | with_reducible apply State.smpArm_keeps
    | with_reducible apply State.smpRecord_keeps | (with_reducible refine ⟨_, rfl, ?_⟩) | intro x

theorem State.uplinkRevert_keeps {r : State} {s : State} (hs : Keeps r s) : Keeps r (State.uplinkRevert s) := by
  unfold State.uplinkRevert
  repeat' first
    | with_reducible assumption | with_reducible apply State.uplinkEval_keeps | with_reducible apply State.setUplink_keeps
    | lift_lets -underBinder | intro x | split

theorem execMbxCommitParam_keeps {r : State} (kspiOk : Bool) {s : State} (hs : Keeps r s) : ∃ t, execMbxCommitParam kspiOk s = .next t ∧ Keeps r t := by
  unfold execMbxCommitParam
  repeat' first
    | with_reducible assumption | with_reducible apply State.mbRun_keeps | with_reducible apply State.cmdCommitParam_keeps
    | (with_reducible refine ⟨_, rfl, ?_⟩) | intro x

theorem execKpllTick_keeps {r : State} {s : State} (hs : Keeps r s) : ∃ t, execKpllTick s = .next t ∧ Keeps r t := by
  unfold execKpllTick
  repeat' first | with_reducible assumption | with_reducible apply State.tick_keeps | (with_reducible refine ⟨_, rfl, ?_⟩)

theorem execMeasInletRecord_keeps {r : State} {s : State} (hs : Keeps r s) : ∃ t, execMeasInletRecord s = .next t ∧ Keeps r t := by
  unfold execMeasInletRecord
  repeat' first | with_reducible assumption | with_reducible apply State.inletTake_keeps | (with_reducible refine ⟨_, rfl, ?_⟩)

theorem execBrif_keeps {r : State} (n : Fin 12) (cond : BitVec 5) (imm : BitVec 16) {s : State} (hs : Keeps r s) : ∃ t, execBrif n cond imm s = .next t ∧ Keeps r t := by
  unfold execBrif
  repeat' first
    | with_reducible assumption | with_reducible apply State.issue_keeps | with_reducible apply State.transfer_keeps
    | with_reducible apply State.trap_keeps | (with_reducible refine ⟨_, rfl, ?_⟩) | intro x | split

theorem execScrubPassLate_keeps {r : State} {s : State} (hs : Keeps r s) : ∃ t, execScrubPassLate s = .next t ∧ Keeps r t := by
  unfold execScrubPassLate
  repeat' first
    | with_reducible assumption | with_reducible apply State.when__keeps | with_reducible apply State.bump_keeps
    | (with_reducible refine ⟨_, rfl, ?_⟩) | intro x | (fail_if_no_progress with_reducible refine keeps_mk ?_ rfl rfl)

theorem execLb_keeps {r : State} (n : Fin 12) (a : BitVec 5) (b : BitVec 5) (imm : BitVec 16) {s : State} (hs : Keeps r s) : ∃ t, execLb n a b imm s = .next t ∧ Keeps r t := by
  unfold execLb
  repeat' first | with_reducible assumption | with_reducible apply State.load_keeps | (with_reducible refine ⟨_, rfl, ?_⟩)

theorem execGnssRegionWake_keeps {r : State} {s : State} (hs : Keeps r s) : ∃ t, execGnssRegionWake s = .next t ∧ Keeps r t := by
  unfold execGnssRegionWake
  repeat' first | with_reducible assumption | with_reducible apply State.gnssWake_keeps | (with_reducible refine ⟨_, rfl, ?_⟩)

theorem State.showDelay_keeps {r : State} {s : State} (j : Nat) (hs : Keeps r s) : Keeps r (State.showDelay s j) := by
  unfold State.showDelay
  repeat' first | with_reducible assumption | with_reducible apply State.set_keeps

theorem State.synApply_keeps {r : State} {s : State} (k : Fin 4) (hs : Keeps r s) : Keeps r (State.synApply s k) := by
  unfold State.synApply
  repeat' first
    | with_reducible assumption | with_reducible apply State.copyShadow_keeps | with_reducible apply State.setPll_keeps
    | with_reducible apply State.clearBit_keeps | with_reducible apply State.forN_keeps | with_reducible apply State.showDelay_keeps
    | with_reducible apply State.heelCommit_keeps | with_reducible apply State.synEvt_keeps | with_reducible apply State.pllEnter_keeps
    | with_reducible apply State.outRealign_keeps | with_reducible apply keeps_foldl | lift_lets -underBinder | intro x | split

theorem execDivs_keeps {r : State} (n : Fin 12) (a : BitVec 5) (b : BitVec 5) (c : BitVec 5) (setFlags : Bool) {s : State} (hs : Keeps r s) : ∃ t, execDivs n a b c setFlags s = .next t ∧ Keeps r t := by
  unfold execDivs
  repeat' first | with_reducible assumption | with_reducible apply State.alu_keeps | (with_reducible refine ⟨_, rfl, ?_⟩)

theorem State.ntsnReply_keeps {r : State} {s : State} (k : Fin 8) (y3 : Req) (hs : Keeps r s) : Keeps r (State.ntsnReply s k y3) := by
  unfold State.ntsnReply
  repeat' first
    | with_reducible assumption | with_reducible apply keeps_ite | with_reducible apply State.spend_keeps
    | with_reducible apply State.reqDrop_keeps | with_reducible apply State.bump_keeps | with_reducible apply State.ntpLaunch_keeps

theorem execFltRaiseWrite_keeps {r : State} (m : Master) (v : Word) {s : State} (hs : Keeps r s) : ∃ t, execFltRaiseWrite m v s = .next t ∧ Keeps r t := by
  unfold execFltRaiseWrite
  repeat' first | with_reducible assumption | with_reducible apply State.busWrite32_keeps | (with_reducible refine ⟨_, rfl, ?_⟩)

theorem State.rollReceive_keeps {r : State} {s : State} (y2 : PackRx) (hs : Keeps r s) : Keeps r (State.rollReceive s y2) := by
  unfold State.rollReceive
  repeat' first
    | with_reducible assumption | with_reducible apply keeps_ite | with_reducible apply State.raise_keeps
    | with_reducible apply State.pckEvt_keeps | with_reducible apply State.setAtt_keeps | with_reducible apply State.partnerMove_keeps
    | with_reducible apply State.rollTake_keeps | with_reducible apply State.uplinkEval_keeps

theorem execRollReceive_keeps {r : State} (src : PackSrc) {s : State} (hs : Keeps r s) : ∃ t, execRollReceive src s = .next t ∧ Keeps r t := by
  unfold execRollReceive
  repeat' first
    | with_reducible assumption | with_reducible apply State.run_keeps | with_reducible apply State.packTake_keeps
    | with_reducible apply State.braceEval_keeps | with_reducible apply State.rollReceive_keeps | (with_reducible refine ⟨_, rfl, ?_⟩)
    | intro x

theorem State.quiet_keeps {r : State} {s : State} (hs : Keeps r s) : Keeps r (State.quiet s) := by
  unfold State.quiet
  repeat' first | with_reducible assumption | (fail_if_no_progress with_reducible refine keeps_mk ?_ rfl rfl)

theorem execImmediateLate_keeps {r : State} (p : Fin 64) {s : State} (hs : Keeps r s) : ∃ t, execImmediateLate p s = .next t ∧ Keeps r t := by
  unfold execImmediateLate
  repeat' first | with_reducible assumption | with_reducible apply State.immLate_keeps | (with_reducible refine ⟨_, rfl, ?_⟩)

theorem execAeadHmac_keeps {r : State} (n : Fin 12) (num : Fin 16) {s : State} (hs : Keeps r s) : ∃ t, execAeadHmac n num s = .next t ∧ Keeps r t := by
  unfold execAeadHmac
  repeat' first
    | with_reducible assumption | with_reducible apply State.runJob_keeps | with_reducible apply State.macJob_keeps
    | (with_reducible refine ⟨_, rfl, ?_⟩) | intro x

theorem execTicketComplete_keeps {r : State} (n : Fin 12) (num : Fin 16) {s : State} (hs : Keeps r s) : ∃ t, execTicketComplete n num s = .next t ∧ Keeps r t := by
  unfold execTicketComplete
  repeat' first | with_reducible assumption | with_reducible apply State.ticketDone_keeps | (with_reducible refine ⟨_, rfl, ?_⟩)

theorem execTRespReceive_keeps {r : State} (src : PackSrc) {s : State} (hs : Keeps r s) : ∃ t, execTRespReceive src s = .next t ∧ Keeps r t := by
  unfold execTRespReceive
  repeat' first
    | with_reducible assumption | with_reducible apply State.run_keeps | with_reducible apply State.packTake_keeps
    | with_reducible apply State.respReceive_keeps | (with_reducible refine ⟨_, rfl, ?_⟩) | intro x

theorem execKpairKatResult_keeps {r : State} (ran0 : Bool) (pass0 : Bool) (ran1 : Bool) (pass1 : Bool) {s : State} (hs : Keeps r s) : ∃ t, execKpairKatResult ran0 pass0 ran1 pass1 s = .next t ∧ Keeps r t := by
  unfold execKpairKatResult
  repeat' first | with_reducible assumption | with_reducible apply State.katResult_keeps | (with_reducible refine ⟨_, rfl, ?_⟩)

theorem execTdcEdge_keeps {r : State} (src : Fin 32) (falling : Bool) (width : Nat) (codes : List Nat) {s : State} (hs : Keeps r s) : ∃ t, execTdcEdge src falling width codes s = .next t ∧ Keeps r t := by
  unfold execTdcEdge
  repeat' first | with_reducible assumption | with_reducible apply State.sourceEdge_keeps | (with_reducible refine ⟨_, rfl, ?_⟩)

theorem execTld_keeps {r : State} (n : Fin 12) (va : BitVec 3) (b : BitVec 5) (imm : BitVec 16) {s : State} (hs : Keeps r s) : ∃ t, execTld n va b imm s = .next t ∧ Keeps r t := by
  unfold execTld
  repeat' first | with_reducible assumption | with_reducible apply State.load_keeps | (with_reducible refine ⟨_, rfl, ?_⟩)

theorem State.ctxExpire_keeps {r : State} {s : State} (u : Nat) (c : Nat) (hs : Keeps r s) : Keeps r (State.ctxExpire s u c) := by
  unfold State.ctxExpire
  repeat' first | with_reducible assumption | with_reducible apply State.bump_keeps | with_reducible apply State.ctxFree_keeps | split

theorem execContextExpiry_keeps {r : State} (u : Fin 8) (c : BitVec 6) {s : State} (hs : Keeps r s) : ∃ t, execContextExpiry u c s = .next t ∧ Keeps r t := by
  unfold execContextExpiry
  repeat' first | with_reducible assumption | with_reducible apply State.ctxExpire_keeps | (with_reducible refine ⟨_, rfl, ?_⟩)

theorem execExchangeVoid_keeps {r : State} (i : Fin 68) {s : State} (hs : Keeps r s) : ∃ t, execExchangeVoid i s = .next t ∧ Keeps r t := by
  unfold execExchangeVoid
  repeat' first
    | with_reducible assumption | with_reducible apply State.run_keeps | with_reducible apply State.exTimeout_keeps
    | (with_reducible refine ⟨_, rfl, ?_⟩) | intro x

theorem execRetryPeriodExpiry_keeps {r : State} {s : State} (hs : Keeps r s) : ∃ t, execRetryPeriodExpiry s = .next t ∧ Keeps r t := by
  unfold execRetryPeriodExpiry
  repeat' first
    | with_reducible assumption | with_reducible apply State.when__keeps | with_reducible apply State.rxMove_keeps
    | (with_reducible refine ⟨_, rfl, ?_⟩) | intro x

theorem State.cmdUtc_keeps {r : State} (c : MbCmd) {s : State} (hs : Keeps r s) : Keeps r (State.cmdUtc c s).2.2 := by
  unfold State.cmdUtc
  repeat' first | with_reducible assumption | with_reducible apply State.utcHostCmd_keeps | with_reducible apply State.mbRecord_keeps | split

theorem execMulhs_keeps {r : State} (n : Fin 12) (a : BitVec 5) (b : BitVec 5) (c : BitVec 5) (setFlags : Bool) {s : State} (hs : Keeps r s) : ∃ t, execMulhs n a b c setFlags s = .next t ∧ Keeps r t := by
  unfold execMulhs
  repeat' first | with_reducible assumption | with_reducible apply State.alu_keeps | (with_reducible refine ⟨_, rfl, ?_⟩)

theorem execTmov_keeps {r : State} (n : Fin 12) (va : BitVec 3) (vb : BitVec 3) {s : State} (hs : Keeps r s) : ∃ t, execTmov n va vb s = .next t ∧ Keeps r t := by
  unfold execTmov
  repeat' first
    | with_reducible assumption | with_reducible apply State.issue_keeps | with_reducible apply State.timeOp_keeps
    | (with_reducible refine ⟨_, rfl, ?_⟩) | intro x

theorem execRollSend_keeps {r : State} {s : State} (hs : Keeps r s) : ∃ t, execRollSend s = .next t ∧ Keeps r t := by
  unfold execRollSend
  repeat' first
    | with_reducible assumption | with_reducible apply State.run_keeps | with_reducible apply State.rollSend_keeps
    | (with_reducible refine ⟨_, rfl, ?_⟩)

theorem execCalTableComplete_keeps {r : State} (c : Fin 16) (ib : Bool) {s : State} (hs : Keeps r s) : ∃ t, execCalTableComplete c ib s = .next t ∧ Keeps r t := by
  unfold execCalTableComplete
  repeat' first | with_reducible assumption | with_reducible apply State.calDone_keeps | (with_reducible refine ⟨_, rfl, ?_⟩)

theorem State.upAsk_keeps {r : State} {s : State} (p : Fin 64) (hdr : List Byte) (buf : Nat) (dur : Nat) (log : Nat) (hs : Keeps r s) : Keeps r (State.upAsk s p hdr buf dur log) := by
  unfold State.upAsk
  repeat' first
    | with_reducible assumption | with_reducible apply keeps_ite | with_reducible apply State.upSend_keeps
    | with_reducible apply State.setUp_keeps

theorem State.upAct_keeps {r : State} {s : State} (p : Fin 64) (y3 : UpAct) (hs : Keeps r s) : Keeps r (State.upAct s p y3) := by
  unfold State.upAct
  repeat' first
    | with_reducible assumption | with_reducible apply State.serveHead_keeps | with_reducible apply State.upTake_keeps
    | with_reducible apply State.upAsk_keeps | with_reducible apply State.upDelayReq_keeps | intro x | split

theorem execUpstreamExchange_keeps {r : State} (p : Fin 64) (y2 : UpAct) {s : State} (hs : Keeps r s) : ∃ t, execUpstreamExchange p y2 s = .next t ∧ Keeps r t := by
  unfold execUpstreamExchange
  repeat' first | with_reducible assumption | with_reducible apply State.upAct_keeps | (with_reducible refine ⟨_, rfl, ?_⟩)

theorem execBlockReset_keeps {r : State} (u : ResetUnit) {s : State} (hs : Keeps r s) : ∃ t, execBlockReset u s = .next t ∧ Keeps r t := by
  unfold execBlockReset
  repeat' first | with_reducible assumption | with_reducible apply State.blockReset_keeps | (with_reducible refine ⟨_, rfl, ?_⟩)

theorem execAnnounceSend_keeps {r : State} (k : Fin 8) (p : Fin 64) (index : Option (BitVec 20)) (hdr : List Byte) (buf : Word) (l : BitVec 96) {s : State} (hs : Keeps r s) : ∃ t, execAnnounceSend k p index hdr buf l s = .next t ∧ Keeps r t := by
  unfold execAnnounceSend
  repeat' first | with_reducible assumption | with_reducible apply State.announceSend_keeps | (with_reducible refine ⟨_, rfl, ?_⟩)

theorem execDeepRequest_keeps {r : State} (m : Master) (v : Word) {s : State} (hs : Keeps r s) : ∃ t, execDeepRequest m v s = .next t ∧ Keeps r t := by
  unfold execDeepRequest
  repeat' first | with_reducible assumption | with_reducible apply State.busWrite32_keeps | (with_reducible refine ⟨_, rfl, ?_⟩)

theorem execCookieRotation_keeps {r : State} {s : State} (hs : Keeps r s) : ∃ t, execCookieRotation s = .next t ∧ Keeps r t := by
  unfold execCookieRotation
  repeat' first | with_reducible assumption | with_reducible apply State.rotDue_keeps | (with_reducible refine ⟨_, rfl, ?_⟩)

theorem execTtosn_keeps {r : State} (n : Fin 12) (va : BitVec 3) (vb : BitVec 3) {s : State} (hs : Keeps r s) : ∃ t, execTtosn n va vb s = .next t ∧ Keeps r t := by
  unfold execTtosn
  repeat' first
    | with_reducible assumption | with_reducible apply State.issue_keeps | with_reducible apply State.timeOp_keeps
    | (with_reducible refine ⟨_, rfl, ?_⟩) | intro x

theorem execEngGateSet_keeps {r : State} (m : Master) (n : Fin 12) {s : State} (hs : Keeps r s) : ∃ t, execEngGateSet m n s = .next t ∧ Keeps r t := by
  unfold execEngGateSet
  repeat' first | with_reducible assumption | with_reducible apply State.busWrite32_keeps | (with_reducible refine ⟨_, rfl, ?_⟩)

theorem State.reportMove_keeps {r : State} {s : State} (p : Fin 64) (hs : Keeps r s) : Keeps r (State.reportMove s p) := by
  unfold State.reportMove
  repeat' first
    | with_reducible assumption | with_reducible apply keeps_ite | with_reducible apply State.obs_keeps
    | with_reducible apply State.lchEvt_keeps | with_reducible apply State.bump_keeps | with_reducible apply State.setLport_keeps
    | with_reducible apply State.devWrite_keeps | with_reducible apply State.putLport_keeps | with_reducible apply State.lringSync_keeps
    | with_reducible apply State.bumpW_keeps | with_reducible apply State.event_keeps | with_reducible apply State.irqEdge_keeps
    | lift_lets -underBinder | intro x | split

theorem execGnssMsStrobe_keeps {r : State} {s : State} (hs : Keeps r s) : ∃ t, execGnssMsStrobe s = .next t ∧ Keeps r t := by
  unfold execGnssMsStrobe
  repeat' first
    | with_reducible assumption | with_reducible apply State.run_keeps | with_reducible apply State.msStrobe_keeps
    | (with_reducible refine ⟨_, rfl, ?_⟩)

theorem execPauseEnd_keeps {r : State} (p : Fin 64) {s : State} (hs : Keeps r s) : ∃ t, execPauseEnd p s = .next t ∧ Keeps r t := by
  unfold execPauseEnd
  repeat' first
    | with_reducible assumption | with_reducible apply State.run_keeps | with_reducible apply State.pauseEnd_keeps
    | (with_reducible refine ⟨_, rfl, ?_⟩) | intro x

theorem execMbxGoWrite_keeps {r : State} (m : Master) (v : Word) {s : State} (hs : Keeps r s) : ∃ t, execMbxGoWrite m v s = .next t ∧ Keeps r t := by
  unfold execMbxGoWrite
  repeat' first | with_reducible assumption | with_reducible apply State.busWrite32_keeps | (with_reducible refine ⟨_, rfl, ?_⟩)

theorem execPopc_keeps {r : State} (n : Fin 12) (a : BitVec 5) (b : BitVec 5) (setFlags : Bool) {s : State} (hs : Keeps r s) : ∃ t, execPopc n a b setFlags s = .next t ∧ Keeps r t := by
  unfold execPopc
  repeat' first | with_reducible assumption | with_reducible apply State.alu1_keeps | (with_reducible refine ⟨_, rfl, ?_⟩)

theorem execGuardHeartbeat_keeps {r : State} {s : State} (hs : Keeps r s) : ∃ t, execGuardHeartbeat s = .next t ∧ Keeps r t := by
  unfold execGuardHeartbeat
  repeat' first | with_reducible assumption | with_reducible apply State.guardBeat_keeps | (with_reducible refine ⟨_, rfl, ?_⟩)

theorem State.cmdSetLatency_keeps {r : State} (c : MbCmd) {s : State} (hs : Keeps r s) : Keeps r (State.cmdSetLatency c s).2.2 := by
  unfold State.cmdSetLatency
  repeat' first | with_reducible assumption | with_reducible apply State.stage_keeps | lift_lets -underBinder | intro x | split

theorem execTdiff_keeps {r : State} (n : Fin 12) (a : BitVec 5) (vb : BitVec 3) (vc : BitVec 3) {s : State} (hs : Keeps r s) : ∃ t, execTdiff n a vb vc s = .next t ∧ Keeps r t := by
  unfold execTdiff
  repeat' first
    | with_reducible assumption | with_reducible apply State.issue_keeps | with_reducible apply State.setG_keeps
    | with_reducible apply State.next_keeps | with_reducible apply State.setFlags_keeps | (with_reducible refine ⟨_, rfl, ?_⟩) | intro x

theorem execUplinkWithholdEnd_keeps {r : State} {s : State} (hs : Keeps r s) : ∃ t, execUplinkWithholdEnd s = .next t ∧ Keeps r t := by
  unfold execUplinkWithholdEnd
  repeat' first
    | with_reducible assumption | with_reducible apply State.run_keeps | with_reducible apply State.withholdEnd_keeps
    | (with_reducible refine ⟨_, rfl, ?_⟩)

theorem execDivu_keeps {r : State} (n : Fin 12) (a : BitVec 5) (b : BitVec 5) (c : BitVec 5) (setFlags : Bool) {s : State} (hs : Keeps r s) : ∃ t, execDivu n a b c setFlags s = .next t ∧ Keeps r t := by
  unfold execDivu
  repeat' first | with_reducible assumption | with_reducible apply State.alu_keeps | (with_reducible refine ⟨_, rfl, ?_⟩)

theorem execDoneExpiry_keeps {r : State} (b : Fin 4) {s : State} (hs : Keeps r s) : ∃ t, execDoneExpiry b s = .next t ∧ Keeps r t := by
  unfold execDoneExpiry
  repeat' first
    | with_reducible assumption | with_reducible apply State.when__keeps | with_reducible apply State.mbFree_keeps
    | (with_reducible refine ⟨_, rfl, ?_⟩) | intro x

theorem execPllLoss_keeps {r : State} (k : Fin 4) (slip : Bool) {s : State} (hs : Keeps r s) : ∃ t, execPllLoss k slip s = .next t ∧ Keeps r t := by
  unfold execPllLoss
  repeat' first | with_reducible assumption | with_reducible apply State.pllLost_keeps | (with_reducible refine ⟨_, rfl, ?_⟩)

theorem execTgetf_keeps {r : State} (n : Fin 12) (a : BitVec 5) (vb : BitVec 3) {s : State} (hs : Keeps r s) : ∃ t, execTgetf n a vb s = .next t ∧ Keeps r t := by
  unfold execTgetf
  repeat' first
    | with_reducible assumption | with_reducible apply State.issue_keeps | with_reducible apply State.next_keeps
    | with_reducible apply State.setG_keeps | (with_reducible refine ⟨_, rfl, ?_⟩) | intro x

theorem execOutputPhaseCheck_keeps {r : State} (k : Fin 4) {s : State} (hs : Keeps r s) : ∃ t, execOutputPhaseCheck k s = .next t ∧ Keeps r t := by
  unfold execOutputPhaseCheck
  repeat' first | with_reducible assumption | with_reducible apply State.phaseCheck_keeps | (with_reducible refine ⟨_, rfl, ?_⟩)

theorem execFlrComplete_keeps {r : State} (f : Fin 4) {s : State} (hs : Keeps r s) : ∃ t, execFlrComplete f s = .next t ∧ Keeps r t := by
  unfold execFlrComplete
  repeat' first | with_reducible assumption | with_reducible apply State.flrDone_keeps | (with_reducible refine ⟨_, rfl, ?_⟩)

theorem State.vinReset_keeps {r : State} {s : State} (vin : BitVec 13) (vhold : BitVec 13) (hs : Keeps r s) : Keeps r (State.vinReset s vin vhold) := by
  unfold State.vinReset
  repeat' first
    | with_reducible assumption | with_reducible apply keeps_ite | with_reducible apply State.vinShow_keeps
    | with_reducible apply State.vinWarn_keeps | with_reducible apply State.saveCapture_keeps | with_reducible apply State.saveStart_keeps
    | with_reducible apply State.chipReset_keeps | (fail_if_no_progress with_reducible refine keeps_mk ?_ rfl rfl)

theorem execVinReset_keeps {r : State} (vin : BitVec 13) (vhold : BitVec 13) {s : State} (hs : Keeps r s) : ∃ t, execVinReset vin vhold s = .next t ∧ Keeps r t := by
  unfold execVinReset
  repeat' first | with_reducible assumption | with_reducible apply State.vinReset_keeps | (with_reducible refine ⟨_, rfl, ?_⟩)

theorem execBoundaryEvent_keeps {r : State} {s : State} (hs : Keeps r s) : ∃ t, execBoundaryEvent s = .next t ∧ Keeps r t := by
  unfold execBoundaryEvent
  repeat' first | with_reducible assumption | with_reducible apply State.boundary_keeps | (with_reducible refine ⟨_, rfl, ?_⟩)

theorem execPwrGate_keeps {r : State} (m : Master) (u : Fin 11) {s : State} (hs : Keeps r s) : ∃ t, execPwrGate m u s = .next t ∧ Keeps r t := by
  unfold execPwrGate
  repeat' first | with_reducible assumption | with_reducible apply State.busWrite32_keeps | (with_reducible refine ⟨_, rfl, ?_⟩)

theorem State.engWake_keeps {r : State} {s : State} (n : Fin 12) (hs : Keeps r s) : Keeps r (State.engWake s n) := by
  unfold State.engWake
  repeat' first
    | with_reducible assumption | with_reducible apply keeps_ite | with_reducible apply State.awake_keeps
    | with_reducible apply State.waitDone_keeps | with_reducible apply State.next_keeps | with_reducible apply State.set_keeps
    | with_reducible apply State.collect_keeps | intro x | split

theorem execEngineWake_keeps {r : State} (n : Fin 12) {s : State} (hs : Keeps r s) : ∃ t, execEngineWake n s = .next t ∧ Keeps r t := by
  unfold execEngineWake
  repeat' first | with_reducible assumption | with_reducible apply State.engWake_keeps | (with_reducible refine ⟨_, rfl, ?_⟩)

theorem execTadd_keeps {r : State} (n : Fin 12) (va : BitVec 3) (vb : BitVec 3) (vc : BitVec 3) {s : State} (hs : Keeps r s) : ∃ t, execTadd n va vb vc s = .next t ∧ Keeps r t := by
  unfold execTadd
  repeat' first
    | with_reducible assumption | with_reducible apply State.issue_keeps | with_reducible apply State.timeOp_keeps
    | (with_reducible refine ⟨_, rfl, ?_⟩) | intro x

theorem execTnow_keeps {r : State} (n : Fin 12) (a : BitVec 5) (va : BitVec 3) {s : State} (hs : Keeps r s) : ∃ t, execTnow n a va s = .next t ∧ Keeps r t := by
  unfold execTnow
  repeat' first
    | with_reducible assumption | with_reducible apply State.issue_keeps | with_reducible apply State.setV_keeps
    | with_reducible apply State.setG_keeps | with_reducible apply State.next_keeps | with_reducible apply State.setFlags_keeps
    | (with_reducible refine ⟨_, rfl, ?_⟩) | intro x

theorem execClkRootSelWrite_keeps {r : State} (m : Master) (v : Word) {s : State} (hs : Keeps r s) : ∃ t, execClkRootSelWrite m v s = .next t ∧ Keeps r t := by
  unfold execClkRootSelWrite
  repeat' first | with_reducible assumption | with_reducible apply State.busWrite32_keeps | (with_reducible refine ⟨_, rfl, ?_⟩)

theorem execLaunch_keeps {r : State} (n : Fin 12) (a : BitVec 5) (b : BitVec 5) {s : State} (hs : Keeps r s) : ∃ t, execLaunch n a b s = .next t ∧ Keeps r t := by
  unfold execLaunch
  repeat' first
    | with_reducible assumption | with_reducible apply keeps_ite | with_reducible apply State.issue_keeps
    | with_reducible apply State.trap_keeps | with_reducible apply State.afterDrain_keeps | with_reducible apply State.launchNow_keeps
    | (with_reducible refine ⟨_, rfl, ?_⟩) | intro x

theorem State.result_keeps {r : State} {s : State} (n : Fin 12) (a : BitVec 5) (y4 : DWord) (setFlags : Bool) (f : Flags) (hs : Keeps r s) : Keeps r (State.result s n a y4 setFlags f) := by
  unfold State.result
  repeat' first
    | with_reducible assumption | with_reducible apply keeps_ite | with_reducible apply State.setFlags_keeps
    | with_reducible apply State.setG_keeps

theorem execBootSnAlign_keeps {r : State} {s : State} (hs : Keeps r s) : ∃ t, execBootSnAlign s = .next t ∧ Keeps r t := by
  unfold execBootSnAlign
  repeat' first | with_reducible assumption | with_reducible apply State.bootAlign_keeps | (with_reducible refine ⟨_, rfl, ?_⟩)

theorem execSysrd_keeps {r : State} (n : Fin 12) (a : BitVec 5) (idx : BitVec 7) {s : State} (hs : Keeps r s) : ∃ t, execSysrd n a idx s = .next t ∧ Keeps r t := by
  unfold execSysrd
  repeat' first
    | with_reducible assumption | with_reducible apply State.issue_keeps | with_reducible apply State.next_keeps
    | with_reducible apply State.setG_keeps | with_reducible apply State.trap_keeps | (with_reducible refine ⟨_, rfl, ?_⟩) | intro x | split

theorem execBrcMute_keeps {r : State} (m : Master) (v : Word) {s : State} (hs : Keeps r s) : ∃ t, execBrcMute m v s = .next t ∧ Keeps r t := by
  unfold execBrcMute
  repeat' first | with_reducible assumption | with_reducible apply State.busWrite32_keeps | (with_reducible refine ⟨_, rfl, ?_⟩)

theorem execBeq_keeps {r : State} (n : Fin 12) (a : BitVec 5) (b : BitVec 5) (imm : BitVec 16) {s : State} (hs : Keeps r s) : ∃ t, execBeq n a b imm s = .next t ∧ Keeps r t := by
  unfold execBeq
  repeat' first | with_reducible assumption | with_reducible apply State.branch_keeps | (with_reducible refine ⟨_, rfl, ?_⟩)

theorem execSlti_keeps {r : State} (n : Fin 12) (a : BitVec 5) (b : BitVec 5) (imm : BitVec 16) {s : State} (hs : Keeps r s) : ∃ t, execSlti n a b imm s = .next t ∧ Keeps r t := by
  unfold execSlti
  repeat' first | with_reducible assumption | with_reducible apply State.aluImm_keeps | (with_reducible refine ⟨_, rfl, ?_⟩)

theorem execPackKeyLoad_keeps {r : State} (m : Master) (v : Word) {s : State} (hs : Keeps r s) : ∃ t, execPackKeyLoad m v s = .next t ∧ Keeps r t := by
  unfold execPackKeyLoad
  repeat' first | with_reducible assumption | with_reducible apply State.busWrite32_keeps | (with_reducible refine ⟨_, rfl, ?_⟩)

theorem execMbxclaim_keeps {r : State} (n : Fin 12) (a : BitVec 5) {s : State} (hs : Keeps r s) : ∃ t, execMbxclaim n a s = .next t ∧ Keeps r t := by
  unfold execMbxclaim
  repeat' first
    | with_reducible assumption | with_reducible apply keeps_ite | with_reducible apply State.issue_keeps
    | with_reducible apply State.trap_keeps | with_reducible apply State.tryRead_keeps | with_reducible apply State.hold_keeps
    | (with_reducible refine ⟨_, rfl, ?_⟩) | intro x

theorem State.crcJob_keeps {r : State} {s : State} (j : UJob) (poly : Nat) (hs : Keeps r s) : Keeps r (State.crcJob s j poly) := by
  unfold State.crcJob
  repeat' first | with_reducible assumption | with_reducible apply State.unitDone_keeps | with_reducible apply State.jobSoft_keeps | split

theorem execBootWaitExpiry_keeps {r : State} {s : State} (hs : Keeps r s) : ∃ t, execBootWaitExpiry s = .next t ∧ Keeps r t := by
  unfold execBootWaitExpiry
  repeat' first
    | with_reducible assumption | with_reducible apply State.when__keeps | with_reducible apply State.leadHandover_keeps
    | (with_reducible refine ⟨_, rfl, ?_⟩)

theorem execImemWrite_keeps {r : State} (m : Master) (n : Fin 12) (off : Nat) (v : Word) {s : State} (hs : Keeps r s) : ∃ t, execImemWrite m n off v s = .next t ∧ Keeps r t := by
  unfold execImemWrite
  repeat' first | with_reducible assumption | with_reducible apply State.busWrite32_keeps | (with_reducible refine ⟨_, rfl, ?_⟩)

theorem State.shiftTimeout_keeps {r : State} {s : State} (p : Fin 64) (hs : Keeps r s) : Keeps r (State.shiftTimeout s p) := by
  unfold State.shiftTimeout
  repeat' first
    | with_reducible assumption | with_reducible apply keeps_ite | with_reducible apply State.linkMove_keeps
    | with_reducible apply State.setLink_keeps | with_reducible apply State.portSync_keeps | with_reducible apply State.setFlag_keeps
    | with_reducible apply State.setModeAct_keeps

theorem execOscEdgeSeen_keeps {r : State} (k : Fin 4) (lc : Time) {s : State} (hs : Keeps r s) : ∃ t, execOscEdgeSeen k lc s = .next t ∧ Keeps r t := by
  unfold execOscEdgeSeen
  repeat' first
    | with_reducible assumption | with_reducible apply State.setOsc_keeps | with_reducible apply State.when__keeps
    | with_reducible apply State.oscSync_keeps | with_reducible apply State.oscMove_keeps | (with_reducible refine ⟨_, rfl, ?_⟩) | intro x

theorem execBoneSectorErase_keeps {r : State} (ok : Bool) {s : State} (hs : Keeps r s) : ∃ t, execBoneSectorErase ok s = .next t ∧ Keeps r t := by
  unfold execBoneSectorErase
  repeat' first | with_reducible assumption | with_reducible apply State.sectorErase_keeps | (with_reducible refine ⟨_, rfl, ?_⟩)

theorem execFrameReady_keeps {r : State} (p : Fin 64) {s : State} (hs : Keeps r s) : ∃ t, execFrameReady p s = .next t ∧ Keeps r t := by
  unfold execFrameReady
  repeat' first | with_reducible assumption | with_reducible apply State.frameReady_keeps | (with_reducible refine ⟨_, rfl, ?_⟩)

theorem execCsetEccError_keeps {r : State} (badA : Bool) (badB : Bool) {s : State} (hs : Keeps r s) : ∃ t, execCsetEccError badA badB s = .next t ∧ Keeps r t := by
  unfold execCsetEccError
  repeat' first
    | with_reducible assumption | with_reducible apply State.when__keeps | with_reducible apply State.csetEcc_keeps
    | (with_reducible refine ⟨_, rfl, ?_⟩) | intro x

theorem execNtsnResponse_keeps {r : State} (k : Fin 8) {s : State} (hs : Keeps r s) : ∃ t, execNtsnResponse k s = .next t ∧ Keeps r t := by
  unfold execNtsnResponse
  repeat' first
    | with_reducible assumption | with_reducible apply State.serveHead_keeps | with_reducible apply State.ntsnReply_keeps
    | (with_reducible refine ⟨_, rfl, ?_⟩) | intro x

theorem execKpllHoldExit_keeps {r : State} (edges : BitVec 4) {s : State} (hs : Keeps r s) : ∃ t, execKpllHoldExit edges s = .next t ∧ Keeps r t := by
  unfold execKpllHoldExit
  repeat' first | with_reducible assumption | with_reducible apply State.kpllHoldExit_keeps | (with_reducible refine ⟨_, rfl, ?_⟩)

end Sys2Proof.Machine
end

