-- ==== Sys2Proof/Laws/Keeps11.lean ====
section
/-! SUPPORT. What every operation keeps, continued: one lemma per operation, callees first (part 11). -/

set_option linter.all false

namespace Sys2Proof.Machine

theorem execHeelHoldTimeout_keeps {r : State} (j : Fin 16) {s : State} (hs : Keeps r s) : ∃ t, execHeelHoldTimeout j s = .next t ∧ Keeps r t := by
  unfold execHeelHoldTimeout
  repeat' first | with_reducible assumption | with_reducible apply State.heelTimeout_keeps | (with_reducible refine ⟨_, rfl, ?_⟩)

theorem execUnexpectedCompletion_keeps {r : State} {s : State} (hs : Keeps r s) : ∃ t, execUnexpectedCompletion s = .next t ∧ Keeps r t := by
  unfold execUnexpectedCompletion
  repeat' first
    | with_reducible assumption | with_reducible apply State.raiseBit_keeps | with_reducible apply State.bump_keeps
    | (with_reducible refine ⟨_, rfl, ?_⟩)

theorem execPwrChipReset_keeps {r : State} (m : Master) (v : Word) {s : State} (hs : Keeps r s) : ∃ t, execPwrChipReset m v s = .next t ∧ Keeps r t := by
  unfold execPwrChipReset
  repeat' first | with_reducible assumption | with_reducible apply State.busWrite32_keeps | (with_reducible refine ⟨_, rfl, ?_⟩)

theorem execCpoll_keeps {r : State} (n : Fin 12) (a : BitVec 5) (b : BitVec 5) {s : State} (hs : Keeps r s) : ∃ t, execCpoll n a b s = .next t ∧ Keeps r t := by
  unfold execCpoll
  repeat' first
    | with_reducible assumption | with_reducible apply State.issue_keeps | with_reducible apply State.collOp_keeps
    | (with_reducible refine ⟨_, rfl, ?_⟩) | intro x

theorem execAand_keeps {r : State} (n : Fin 12) (a : BitVec 5) (b : BitVec 5) (c : BitVec 5) {s : State} (hs : Keeps r s) : ∃ t, execAand n a b c s = .next t ∧ Keeps r t := by
  unfold execAand
  repeat' first | with_reducible assumption | with_reducible apply State.amo_keeps | (with_reducible refine ⟨_, rfl, ?_⟩)

theorem execKpairCompare_keeps {r : State} {s : State} (hs : Keeps r s) : ∃ t, execKpairCompare s = .next t ∧ Keeps r t := by
  unfold execKpairCompare
  repeat' first | with_reducible assumption | with_reducible apply State.kCompare_keeps | (with_reducible refine ⟨_, rfl, ?_⟩)

theorem State.switched_keeps {r : State} {s : State} (aon : Bool) (hs : Keeps r s) : Keeps r (State.switched s aon) := by
  unfold State.switched
  repeat' first
    | with_reducible assumption | with_reducible apply State.set_keeps | with_reducible apply State.clkEvt_keeps
    | with_reducible apply State.syncSw_keeps | (fail_if_no_progress with_reducible refine keeps_mk ?_ rfl rfl) | split

theorem execClkSwitchComplete_keeps {r : State} (aon : Bool) {s : State} (hs : Keeps r s) : ∃ t, execClkSwitchComplete aon s = .next t ∧ Keeps r t := by
  unfold execClkSwitchComplete
  repeat' first | with_reducible assumption | with_reducible apply State.switched_keeps | (with_reducible refine ⟨_, rfl, ?_⟩)

theorem execSwap_keeps {r : State} (n : Fin 12) (a : BitVec 5) (b : BitVec 5) (c : BitVec 5) {s : State} (hs : Keeps r s) : ∃ t, execSwap n a b c s = .next t ∧ Keeps r t := by
  unfold execSwap
  repeat' first | with_reducible assumption | with_reducible apply State.amo_keeps | (with_reducible refine ⟨_, rfl, ?_⟩)

theorem execBraceSwap_keeps {r : State} {s : State} (hs : Keeps r s) : ∃ t, execBraceSwap s = .next t ∧ Keeps r t := by
  unfold execBraceSwap
  repeat' first
    | with_reducible assumption | with_reducible apply State.run_keeps | with_reducible apply State.braceSwap_keeps
    | (with_reducible refine ⟨_, rfl, ?_⟩)

theorem execAddc_keeps {r : State} (n : Fin 12) (a : BitVec 5) (b : BitVec 5) (c : BitVec 5) (setFlags : Bool) {s : State} (hs : Keeps r s) : ∃ t, execAddc n a b c setFlags s = .next t ∧ Keeps r t := by
  unfold execAddc
  repeat' first | with_reducible assumption | with_reducible apply State.alu_keeps | (with_reducible refine ⟨_, rfl, ?_⟩)

theorem execSyspllRampDone_keeps {r : State} (band : BitVec 6) (vtune : Byte) {s : State} (hs : Keeps r s) : ∃ t, execSyspllRampDone band vtune s = .next t ∧ Keeps r t := by
  unfold execSyspllRampDone
  repeat' first | with_reducible assumption | with_reducible apply State.rampDone_keeps | (with_reducible refine ⟨_, rfl, ?_⟩)

theorem execUpdateEffectiveTick_keeps {r : State} {s : State} (hs : Keeps r s) : ∃ t, execUpdateEffectiveTick s = .next t ∧ Keeps r t := by
  unfold execUpdateEffectiveTick
  repeat' first | with_reducible assumption | with_reducible apply State.updateTick_keeps | (with_reducible refine ⟨_, rfl, ?_⟩)

theorem execJobSiphash128_keeps {r : State} (n : Fin 12) (num : Fin 16) {s : State} (hs : Keeps r s) : ∃ t, execJobSiphash128 n num s = .next t ∧ Keeps r t := by
  unfold execJobSiphash128
  repeat' first
    | with_reducible assumption | with_reducible apply State.runJob_keeps | with_reducible apply State.hashJob_keeps
    | (with_reducible refine ⟨_, rfl, ?_⟩) | intro x

theorem execTret_keeps {r : State} (n : Fin 12) {s : State} (hs : Keeps r s) : ∃ t, execTret n s = .next t ∧ Keeps r t := by
  unfold execTret
  repeat' first
    | with_reducible assumption | with_reducible apply keeps_ite | with_reducible apply State.issue_keeps
    | with_reducible apply State.setFlag_keeps | with_reducible apply State.setPc_keeps | with_reducible apply State.boundaryTraps_keeps
    | with_reducible apply State.retired_keeps | with_reducible apply State.trap_keeps | (with_reducible refine ⟨_, rfl, ?_⟩) | intro x

theorem execMaxu_keeps {r : State} (n : Fin 12) (a : BitVec 5) (b : BitVec 5) (c : BitVec 5) (setFlags : Bool) {s : State} (hs : Keeps r s) : ∃ t, execMaxu n a b c setFlags s = .next t ∧ Keeps r t := by
  unfold execMaxu
  repeat' first | with_reducible assumption | with_reducible apply State.alu_keeps | (with_reducible refine ⟨_, rfl, ?_⟩)

theorem execPllLkfLock_keeps {r : State} (k : Fin 4) {s : State} (hs : Keeps r s) : ∃ t, execPllLkfLock k s = .next t ∧ Keeps r t := by
  unfold execPllLkfLock
  repeat' first | with_reducible assumption | with_reducible apply State.pllLock_keeps | (with_reducible refine ⟨_, rfl, ?_⟩)

theorem execRecalEnd_keeps {r : State} (i : Fin 68) (sum : Int) {s : State} (hs : Keeps r s) : ∃ t, execRecalEnd i sum s = .next t ∧ Keeps r t := by
  unfold execRecalEnd
  repeat' first
    | with_reducible assumption | with_reducible apply State.run_keeps | with_reducible apply State.recalEnd_keeps
    | (with_reducible refine ⟨_, rfl, ?_⟩) | intro x

theorem execHostLinkReset_keeps {r : State} {s : State} (hs : Keeps r s) : ∃ t, execHostLinkReset s = .next t ∧ Keeps r t := by
  unfold execHostLinkReset
  repeat' first | with_reducible assumption | with_reducible apply State.hostReset_keeps | (with_reducible refine ⟨_, rfl, ?_⟩)

theorem execRegisterBadAccess_keeps {r : State} (y1 : Master) (y2 : Nat) (y3 : Bool) {s : State} (hs : Keeps r s) : ∃ t, execRegisterBadAccess y1 y2 y3 s = .next t ∧ Keeps r t := by
  unfold execRegisterBadAccess
  repeat' first | with_reducible assumption | with_reducible apply State.replyErr_keeps | (with_reducible refine ⟨_, rfl, ?_⟩)

theorem execGsiClkLoss_keeps {r : State} {s : State} (hs : Keeps r s) : ∃ t, execGsiClkLoss s = .next t ∧ Keeps r t := by
  unfold execGsiClkLoss
  repeat' first
    | with_reducible assumption | with_reducible apply State.run_keeps | with_reducible apply State.gsiLoss_keeps
    | (with_reducible refine ⟨_, rfl, ?_⟩)

theorem State.linkLoss_keeps {r : State} {s : State} (i : Fin 68) (hs : Keeps r s) : Keeps r (State.linkLoss s i) := by
  unfold State.linkLoss
  repeat' first | with_reducible assumption | with_reducible apply State.when__keeps | with_reducible apply State.linkMove_keeps | intro x

theorem execLinkLoss_keeps {r : State} (i : Fin 68) {s : State} (hs : Keeps r s) : ∃ t, execLinkLoss i s = .next t ∧ Keeps r t := by
  unfold execLinkLoss
  repeat' first
    | with_reducible assumption | with_reducible apply State.run_keeps | with_reducible apply State.linkLoss_keeps
    | (with_reducible refine ⟨_, rfl, ?_⟩) | intro x

theorem execXcompUpdate_keeps {r : State} (g : Fin 9) (rtt : BitVec 24) {s : State} (hs : Keeps r s) : ∃ t, execXcompUpdate g rtt s = .next t ∧ Keeps r t := by
  unfold execXcompUpdate
  repeat' first
    | with_reducible assumption | with_reducible apply State.run_keeps | with_reducible apply State.xcompUpdate_keeps
    | (with_reducible refine ⟨_, rfl, ?_⟩) | intro x

theorem execTdcRecordAdmit_keeps {r : State} {s : State} (hs : Keeps r s) : ∃ t, execTdcRecordAdmit s = .next t ∧ Keeps r t := by
  unfold execTdcRecordAdmit
  repeat' first | with_reducible assumption | with_reducible apply State.tdcPort_keeps | (with_reducible refine ⟨_, rfl, ?_⟩)

theorem execTelRecord_keeps {r : State} {s : State} (hs : Keeps r s) : ∃ t, execTelRecord s = .next t ∧ Keeps r t := by
  unfold execTelRecord
  repeat' first
    | with_reducible assumption | with_reducible apply State.when__keeps | with_reducible apply State.telRecord_keeps
    | (with_reducible refine ⟨_, rfl, ?_⟩)

theorem execTgets_keeps {r : State} (n : Fin 12) (a : BitVec 5) (vb : BitVec 3) {s : State} (hs : Keeps r s) : ∃ t, execTgets n a vb s = .next t ∧ Keeps r t := by
  unfold execTgets
  repeat' first
    | with_reducible assumption | with_reducible apply State.issue_keeps | with_reducible apply State.next_keeps
    | with_reducible apply State.setG_keeps | (with_reducible refine ⟨_, rfl, ?_⟩) | intro x

theorem execMins_keeps {r : State} (n : Fin 12) (a : BitVec 5) (b : BitVec 5) (c : BitVec 5) (setFlags : Bool) {s : State} (hs : Keeps r s) : ∃ t, execMins n a b c setFlags s = .next t ∧ Keeps r t := by
  unfold execMins
  repeat' first | with_reducible assumption | with_reducible apply State.alu_keeps | (with_reducible refine ⟨_, rfl, ?_⟩)

theorem execMultiwordLatchRead_keeps {r : State} (m : Master) (addr : Nat) {s : State} (hs : Keeps r s) : ∃ t, execMultiwordLatchRead m addr s = .next t ∧ Keeps r t := by
  unfold execMultiwordLatchRead
  repeat' first
    | with_reducible assumption | with_reducible apply keeps_ite | with_reducible apply State.bar2Read_keeps
    | with_reducible apply State.busRead32_keeps | (with_reducible refine ⟨_, rfl, ?_⟩)

theorem State.storeOf_keeps {r : State} {s : State} (rt : Nat) (hs : Keeps r s) : Keeps r (State.storeOf s rt) := by
  unfold State.storeOf
  repeat' first | with_reducible assumption | with_reducible apply keeps_ite | (fail_if_no_progress with_reducible refine keeps_mk ?_ rfl rfl)

theorem execGo_keeps {r : State} (n : Fin 12) (off : BitVec 26) {s : State} (hs : Keeps r s) : ∃ t, execGo n off s = .next t ∧ Keeps r t := by
  unfold execGo
  repeat' first
    | with_reducible assumption | with_reducible apply State.issue_keeps | with_reducible apply State.transfer_keeps
    | (with_reducible refine ⟨_, rfl, ?_⟩) | intro x

theorem execMbxUtc_keeps {r : State} {s : State} (hs : Keeps r s) : ∃ t, execMbxUtc s = .next t ∧ Keeps r t := by
  unfold execMbxUtc
  repeat' first
    | with_reducible assumption | with_reducible apply State.mbRun_keeps | with_reducible apply State.cmdUtc_keeps
    | (with_reducible refine ⟨_, rfl, ?_⟩) | intro x

theorem execFltReactWrite_keeps {r : State} (m : Master) (k : BitVec 8) (v : Word) {s : State} (hs : Keeps r s) : ∃ t, execFltReactWrite m k v s = .next t ∧ Keeps r t := by
  unfold execFltReactWrite
  repeat' first | with_reducible assumption | with_reducible apply State.busWrite32_keeps | (with_reducible refine ⟨_, rfl, ?_⟩)

theorem execPdelayRespSend_keeps {r : State} (k : Fin 8) {s : State} (hs : Keeps r s) : ∃ t, execPdelayRespSend k s = .next t ∧ Keeps r t := by
  unfold execPdelayRespSend
  repeat' first
    | with_reducible assumption | with_reducible apply State.serveHead_keeps | with_reducible apply State.pdelayReply_keeps
    | (with_reducible refine ⟨_, rfl, ?_⟩) | intro x

theorem execPartnerDepart_keeps {r : State} (i : Fin 68) {s : State} (hs : Keeps r s) : ∃ t, execPartnerDepart i s = .next t ∧ Keeps r t := by
  unfold execPartnerDepart
  repeat' first
    | with_reducible assumption | with_reducible apply State.run_keeps | with_reducible apply State.depart_keeps
    | (with_reducible refine ⟨_, rfl, ?_⟩) | intro x

theorem execFrameReceive_keeps {r : State} (p : Fin 64) (bytes : List Byte) (fcsOk : Bool) (codeErr : Bool) (phase : BitVec 16) (bitIdx : Byte) {s : State} (hs : Keeps r s) : ∃ t, execFrameReceive p bytes fcsOk codeErr phase bitIdx s = .next t ∧ Keeps r t := by
  unfold execFrameReceive
  repeat' first
    | with_reducible assumption | with_reducible apply State.run_keeps | with_reducible apply State.frameReceive_keeps
    | (with_reducible refine ⟨_, rfl, ?_⟩) | intro x

theorem execZext32_keeps {r : State} (n : Fin 12) (a : BitVec 5) (b : BitVec 5) (setFlags : Bool) {s : State} (hs : Keeps r s) : ∃ t, execZext32 n a b setFlags s = .next t ∧ Keeps r t := by
  unfold execZext32
  repeat' first | with_reducible assumption | with_reducible apply State.alu1_keeps | (with_reducible refine ⟨_, rfl, ?_⟩)

theorem execPowerOff_keeps {r : State} {s : State} (hs : Keeps r s) : ∃ t, execPowerOff s = .next t ∧ Keeps r t := by
  unfold execPowerOff
  repeat' first | with_reducible assumption | with_reducible apply State.powerOff_keeps | (with_reducible refine ⟨_, rfl, ?_⟩)

theorem execFollowUpSend_keeps {r : State} (k : Fin 8) (buf : Word) {s : State} (hs : Keeps r s) : ∃ t, execFollowUpSend k buf s = .next t ∧ Keeps r t := by
  unfold execFollowUpSend
  repeat' first | with_reducible assumption | with_reducible apply State.takeReport_keeps | (with_reducible refine ⟨_, rfl, ?_⟩)

theorem execDebugTimerExpiry_keeps {r : State} {s : State} (hs : Keeps r s) : ∃ t, execDebugTimerExpiry s = .next t ∧ Keeps r t := by
  unfold execDebugTimerExpiry
  repeat' first | with_reducible assumption | with_reducible apply State.dbgExpire_keeps | (with_reducible refine ⟨_, rfl, ?_⟩)

theorem execMbxKpairSelect_keeps {r : State} {s : State} (hs : Keeps r s) : ∃ t, execMbxKpairSelect s = .next t ∧ Keeps r t := by
  unfold execMbxKpairSelect
  repeat' first
    | with_reducible assumption | with_reducible apply State.mbRun_keeps | with_reducible apply State.cmdKpairSelect_keeps
    | (with_reducible refine ⟨_, rfl, ?_⟩) | intro x

theorem execAssistPin_keeps {r : State} {s : State} (hs : Keeps r s) : ∃ t, execAssistPin s = .next t ∧ Keeps r t := by
  unfold execAssistPin
  repeat' first | with_reducible assumption | with_reducible apply State.assistStep_keeps | (with_reducible refine ⟨_, rfl, ?_⟩)

theorem execLinkPcsLock_keeps {r : State} (i : Fin 68) (slip : Byte) (an10 : Bool) {s : State} (hs : Keeps r s) : ∃ t, execLinkPcsLock i slip an10 s = .next t ∧ Keeps r t := by
  unfold execLinkPcsLock
  repeat' first
    | with_reducible assumption | with_reducible apply State.run_keeps | with_reducible apply State.pcsLock_keeps
    | (with_reducible refine ⟨_, rfl, ?_⟩) | intro x

theorem execAnchor_keeps {r : State} (n : Fin 12) (a : BitVec 5) (b : BitVec 5) (c : BitVec 5) {s : State} (hs : Keeps r s) : ∃ t, execAnchor n a b c s = .next t ∧ Keeps r t := by
  unfold execAnchor
  repeat' first
    | with_reducible assumption | with_reducible apply keeps_ite | with_reducible apply State.issueK_keeps
    | with_reducible apply State.anchorReq_keeps | with_reducible apply State.next_keeps | with_reducible apply State.setG_keeps
    | (with_reducible refine ⟨_, rfl, ?_⟩) | intro x

theorem execJobCrc32c_keeps {r : State} (n : Fin 12) (num : Fin 16) {s : State} (hs : Keeps r s) : ∃ t, execJobCrc32c n num s = .next t ∧ Keeps r t := by
  unfold execJobCrc32c
  repeat' first
    | with_reducible assumption | with_reducible apply State.runJob_keeps | with_reducible apply State.crcJob_keeps
    | (with_reducible refine ⟨_, rfl, ?_⟩) | intro x

theorem execServoUpdate_keeps {r : State} (residPs : Nat) (bounds : List Nat) (est : List (Nat × Nat)) {s : State} (hs : Keeps r s) : ∃ t, execServoUpdate residPs bounds est s = .next t ∧ Keeps r t := by
  unfold execServoUpdate
  repeat' first | with_reducible assumption | with_reducible apply State.servoUpdate_keeps | (with_reducible refine ⟨_, rfl, ?_⟩)

theorem execAdd_keeps {r : State} (n : Fin 12) (a : BitVec 5) (b : BitVec 5) (c : BitVec 5) (setFlags : Bool) {s : State} (hs : Keeps r s) : ∃ t, execAdd n a b c setFlags s = .next t ∧ Keeps r t := by
  unfold execAdd
  repeat' first | with_reducible assumption | with_reducible apply State.alu_keeps | (with_reducible refine ⟨_, rfl, ?_⟩)

theorem execJobCrc32_keeps {r : State} (n : Fin 12) (num : Fin 16) {s : State} (hs : Keeps r s) : ∃ t, execJobCrc32 n num s = .next t ∧ Keeps r t := by
  unfold execJobCrc32
  repeat' first
    | with_reducible assumption | with_reducible apply State.runJob_keeps | with_reducible apply State.crcJob_keeps
    | (with_reducible refine ⟨_, rfl, ?_⟩) | intro x

theorem execSlt_keeps {r : State} (n : Fin 12) (a : BitVec 5) (b : BitVec 5) (c : BitVec 5) (setFlags : Bool) {s : State} (hs : Keeps r s) : ∃ t, execSlt n a b c setFlags s = .next t ∧ Keeps r t := by
  unfold execSlt
  repeat' first | with_reducible assumption | with_reducible apply State.alu_keeps | (with_reducible refine ⟨_, rfl, ?_⟩)

theorem execRemu_keeps {r : State} (n : Fin 12) (a : BitVec 5) (b : BitVec 5) (c : BitVec 5) (setFlags : Bool) {s : State} (hs : Keeps r s) : ∃ t, execRemu n a b c setFlags s = .next t ∧ Keeps r t := by
  unfold execRemu
  repeat' first | with_reducible assumption | with_reducible apply State.alu_keeps | (with_reducible refine ⟨_, rfl, ?_⟩)

theorem execBswap64_keeps {r : State} (n : Fin 12) (a : BitVec 5) (b : BitVec 5) (setFlags : Bool) {s : State} (hs : Keeps r s) : ∃ t, execBswap64 n a b setFlags s = .next t ∧ Keeps r t := by
  unfold execBswap64
  repeat' first | with_reducible assumption | with_reducible apply State.alu1_keeps | (with_reducible refine ⟨_, rfl, ?_⟩)

theorem execPeriodicBoneSave_keeps {r : State} {s : State} (hs : Keeps r s) : ∃ t, execPeriodicBoneSave s = .next t ∧ Keeps r t := by
  unfold execPeriodicBoneSave
  repeat' first | with_reducible assumption | with_reducible apply State.periodicSave_keeps | (with_reducible refine ⟨_, rfl, ?_⟩)

theorem execLinkSettleDone_keeps {r : State} (i : Fin 68) (phase : BitVec 16) {s : State} (hs : Keeps r s) : ∃ t, execLinkSettleDone i phase s = .next t ∧ Keeps r t := by
  unfold execLinkSettleDone
  repeat' first
    | with_reducible assumption | with_reducible apply State.run_keeps | with_reducible apply State.settleDone_keeps
    | (with_reducible refine ⟨_, rfl, ?_⟩) | intro x

theorem execFchDataCompletion_keeps {r : State} (c : Fin 16) (d : HostData) {s : State} (hs : Keeps r s) : ∃ t, execFchDataCompletion c d s = .next t ∧ Keeps r t := by
  unfold execFchDataCompletion
  repeat' first | with_reducible assumption | with_reducible apply State.chData_keeps | (with_reducible refine ⟨_, rfl, ?_⟩)

theorem execVinWarn_keeps {r : State} (vin : BitVec 13) (vhold : BitVec 13) {s : State} (hs : Keeps r s) : ∃ t, execVinWarn vin vhold s = .next t ∧ Keeps r t := by
  unfold execVinWarn
  repeat' first | with_reducible assumption | with_reducible apply State.vinWarn_keeps | (with_reducible refine ⟨_, rfl, ?_⟩)

theorem execLh_keeps {r : State} (n : Fin 12) (a : BitVec 5) (b : BitVec 5) (imm : BitVec 16) {s : State} (hs : Keeps r s) : ∃ t, execLh n a b imm s = .next t ∧ Keeps r t := by
  unfold execLh
  repeat' first | with_reducible assumption | with_reducible apply State.load_keeps | (with_reducible refine ⟨_, rfl, ?_⟩)

theorem execRems_keeps {r : State} (n : Fin 12) (a : BitVec 5) (b : BitVec 5) (c : BitVec 5) (setFlags : Bool) {s : State} (hs : Keeps r s) : ∃ t, execRems n a b c setFlags s = .next t ∧ Keeps r t := by
  unfold execRems
  repeat' first | with_reducible assumption | with_reducible apply State.alu_keeps | (with_reducible refine ⟨_, rfl, ?_⟩)

theorem execHostMint_keeps {r : State} {s : State} (hs : Keeps r s) : ∃ t, execHostMint s = .next t ∧ Keeps r t := by
  unfold execHostMint
  repeat' first | with_reducible assumption | with_reducible apply State.hostMint_keeps | (with_reducible refine ⟨_, rfl, ?_⟩)

theorem execHbeat_keeps {r : State} (n : Fin 12) (b : BitVec 5) {s : State} (hs : Keeps r s) : ∃ t, execHbeat n b s = .next t ∧ Keeps r t := by
  unfold execHbeat
  repeat' first
    | with_reducible assumption | with_reducible apply State.issue_keeps | with_reducible apply State.next_keeps
    | with_reducible apply State.heartbeat_keeps | (with_reducible refine ⟨_, rfl, ?_⟩) | intro x

theorem execReportMove_keeps {r : State} (p : Fin 64) {s : State} (hs : Keeps r s) : ∃ t, execReportMove p s = .next t ∧ Keeps r t := by
  unfold execReportMove
  repeat' first | with_reducible assumption | with_reducible apply State.reportMove_keeps | (with_reducible refine ⟨_, rfl, ?_⟩)

theorem execMbxSetLatency_keeps {r : State} (kspiOk : Bool) {s : State} (hs : Keeps r s) : ∃ t, execMbxSetLatency kspiOk s = .next t ∧ Keeps r t := by
  unfold execMbxSetLatency
  repeat' first
    | with_reducible assumption | with_reducible apply State.mbRun_keeps | with_reducible apply State.cmdSetLatency_keeps
    | (with_reducible refine ⟨_, rfl, ?_⟩) | intro x

theorem execPrtCntClr_keeps {r : State} (m : Master) (p : Fin 64) (v : Word) {s : State} (hs : Keeps r s) : ∃ t, execPrtCntClr m p v s = .next t ∧ Keeps r t := by
  unfold execPrtCntClr
  repeat' first | with_reducible assumption | with_reducible apply State.busWrite32_keeps | (with_reducible refine ⟨_, rfl, ?_⟩)

theorem execSnLoadEffect_keeps {r : State} {s : State} (hs : Keeps r s) : ∃ t, execSnLoadEffect s = .next t ∧ Keeps r t := by
  unfold execSnLoadEffect
  repeat' first
    | with_reducible assumption | with_reducible apply keeps_ite | (with_reducible refine ⟨_, rfl, ?_⟩)
    | (fail_if_no_progress with_reducible refine keeps_mk ?_ rfl rfl) | split

theorem execShiftTimeout_keeps {r : State} (p : Fin 64) {s : State} (hs : Keeps r s) : ∃ t, execShiftTimeout p s = .next t ∧ Keeps r t := by
  unfold execShiftTimeout
  repeat' first
    | with_reducible assumption | with_reducible apply State.run_keeps | with_reducible apply State.shiftTimeout_keeps
    | (with_reducible refine ⟨_, rfl, ?_⟩) | intro x

theorem execSra_keeps {r : State} (n : Fin 12) (a : BitVec 5) (b : BitVec 5) (c : BitVec 5) (setFlags : Bool) {s : State} (hs : Keeps r s) : ∃ t, execSra n a b c setFlags s = .next t ∧ Keeps r t := by
  unfold execSra
  repeat' first | with_reducible assumption | with_reducible apply State.alu_keeps | (with_reducible refine ⟨_, rfl, ?_⟩)

theorem execUplinkRevert_keeps {r : State} {s : State} (hs : Keeps r s) : ∃ t, execUplinkRevert s = .next t ∧ Keeps r t := by
  unfold execUplinkRevert
  repeat' first
    | with_reducible assumption | with_reducible apply State.run_keeps | with_reducible apply State.uplinkRevert_keeps
    | (with_reducible refine ⟨_, rfl, ?_⟩)

theorem execRegionSkewCheck_keeps {r : State} (g : Fin 8) (temp : List Int) (vdd : List Nat) (wordClk : List Nat) {s : State} (hs : Keeps r s) : ∃ t, execRegionSkewCheck g temp vdd wordClk s = .next t ∧ Keeps r t := by
  unfold execRegionSkewCheck
  repeat' first
    | with_reducible assumption | with_reducible apply State.when__keeps | with_reducible apply State.crossGroup_keeps
    | (with_reducible refine ⟨_, rfl, ?_⟩) | intro x

theorem execXtalReady_keeps {r : State} (count : Nat) (amp : Byte) {s : State} (hs : Keeps r s) : ∃ t, execXtalReady count amp s = .next t ∧ Keeps r t := by
  unfold execXtalReady
  repeat' first
    | with_reducible assumption | with_reducible apply keeps_ite | with_reducible apply State.when__keeps
    | with_reducible apply State.windowShow_keeps | with_reducible apply State.xtalReady_keeps | (with_reducible refine ⟨_, rfl, ?_⟩)
    | intro x

theorem State.sivOpenJob_keeps {r : State} {s : State} (j : UJob) (hs : Keeps r s) : Keeps r (State.sivOpenJob s j) := by
  unfold State.sivOpenJob
  repeat' first
    | with_reducible assumption | with_reducible apply State.aeadDone_keeps | with_reducible apply State.rangesSoft_keeps
    | with_reducible apply State.setBytes_keeps | lift_lets -underBinder | intro x | split

theorem execAeadSivOpen_keeps {r : State} (n : Fin 12) (num : Fin 16) {s : State} (hs : Keeps r s) : ∃ t, execAeadSivOpen n num s = .next t ∧ Keeps r t := by
  unfold execAeadSivOpen
  repeat' first
    | with_reducible assumption | with_reducible apply State.runJob_keeps | with_reducible apply State.sivOpenJob_keeps
    | (with_reducible refine ⟨_, rfl, ?_⟩) | intro x

theorem execAcqTimeout_keeps {r : State} {s : State} (hs : Keeps r s) : ∃ t, execAcqTimeout s = .next t ∧ Keeps r t := by
  unfold execAcqTimeout
  repeat' first
    | with_reducible assumption | with_reducible apply State.when__keeps | with_reducible apply State.rxMove_keeps
    | (with_reducible refine ⟨_, rfl, ?_⟩) | intro x

theorem execDigest_keeps {r : State} (n : Fin 12) (a : BitVec 5) (b : BitVec 5) {s : State} (hs : Keeps r s) : ∃ t, execDigest n a b s = .next t ∧ Keeps r t := by
  unfold execDigest
  repeat' first
    | with_reducible assumption | with_reducible apply State.issueK_keeps | with_reducible apply State.withDmem_keeps
    | with_reducible apply State.digestIn_keeps | with_reducible apply State.next_keeps | with_reducible apply State.setG_keeps
    | (with_reducible refine ⟨_, rfl, ?_⟩) | intro x

theorem execScrubSteal_keeps {r : State} (flipped : Bool) {s : State} (hs : Keeps r s) : ∃ t, execScrubSteal flipped s = .next t ∧ Keeps r t := by
  unfold execScrubSteal
  repeat' first
    | with_reducible assumption | with_reducible apply State.when__keeps | with_reducible apply State.scrubLine_keeps
    | with_reducible apply State.obs_keeps | with_reducible apply State.bump_keeps | (with_reducible refine ⟨_, rfl, ?_⟩) | intro x

theorem execGor_keeps {r : State} (n : Fin 12) (b : BitVec 5) {s : State} (hs : Keeps r s) : ∃ t, execGor n b s = .next t ∧ Keeps r t := by
  unfold execGor
  repeat' first
    | with_reducible assumption | with_reducible apply State.issue_keeps | with_reducible apply State.jumpReg_keeps
    | (with_reducible refine ⟨_, rfl, ?_⟩) | intro x

theorem execAndn_keeps {r : State} (n : Fin 12) (a : BitVec 5) (b : BitVec 5) (c : BitVec 5) (setFlags : Bool) {s : State} (hs : Keeps r s) : ∃ t, execAndn n a b c setFlags s = .next t ∧ Keeps r t := by
  unfold execAndn
  repeat' first | with_reducible assumption | with_reducible apply State.alu_keeps | (with_reducible refine ⟨_, rfl, ?_⟩)

theorem execBltu_keeps {r : State} (n : Fin 12) (a : BitVec 5) (b : BitVec 5) (imm : BitVec 16) {s : State} (hs : Keeps r s) : ∃ t, execBltu n a b imm s = .next t ∧ Keeps r t := by
  unfold execBltu
  repeat' first | with_reducible assumption | with_reducible apply State.branch_keeps | (with_reducible refine ⟨_, rfl, ?_⟩)

theorem execTelSample_keeps {r : State} (temp : List Int) (vdd : List Nat) (vin : BitVec 13) (vhold : BitVec 13) {s : State} (hs : Keeps r s) : ∃ t, execTelSample temp vdd vin vhold s = .next t ∧ Keeps r t := by
  unfold execTelSample
  repeat' first
    | with_reducible assumption | with_reducible apply State.when__keeps | with_reducible apply State.telTake_keeps
    | (with_reducible refine ⟨_, rfl, ?_⟩) | intro x

theorem execSnapCapture_keeps {r : State} (samples : List Byte) {s : State} (hs : Keeps r s) : ∃ t, execSnapCapture samples s = .next t ∧ Keeps r t := by
  unfold execSnapCapture
  repeat' first | with_reducible assumption | with_reducible apply State.snapCapture_keeps | (with_reducible refine ⟨_, rfl, ?_⟩)

theorem execSynCommitApply_keeps {r : State} (k : Fin 4) {s : State} (hs : Keeps r s) : ∃ t, execSynCommitApply k s = .next t ∧ Keeps r t := by
  unfold execSynCommitApply
  repeat' first | with_reducible assumption | with_reducible apply State.synApply_keeps | (with_reducible refine ⟨_, rfl, ?_⟩)

end Sys2Proof.Machine
end

