-- ==== Sys2Proof/Machine/Pins.lean ====
section
/-! DEFINITION. The balls of the package (R493 to R498): plain data beside the machine. Rows are counted 1 to 42 from the marked edge and
columns 1 to 42 from the left, viewed from the top. What a ball does to the machine is a row of the opcode table. -/

namespace Sys2Proof.Machine

/-- Rows as they are lettered (R493). -/
def rowNames : List String :=
  ["A", "B", "C", "D", "E", "F", "G", "H", "J", "K", "L", "M", "N", "P", "T", "U", "V", "W", "Y"]
    ++ ["AA", "AB", "AC", "AD", "AE", "AF", "AG", "AH", "AJ", "AK", "AL", "AM", "AN", "AP", "AT", "AU", "AV", "AW", "AY"]
    ++ ["BA", "BB", "BC", "BD"]

/-- The zones of R494. -/
inductive Zone where
  | northPorts
  | northSupplies
  | centre
  | southSupplies
  | southPorts
  | west
  | east
deriving DecidableEq, Repr

/-- The zone of a ball (R494). -/
def zoneOf (row col : Nat) : Zone :=
  if col ≤ 3 then .west else if 39 ≤ col then .east
  else if row ≤ 7 then .northPorts else if row ≤ 13 then .northSupplies else if row ≤ 29 then .centre
  else if row ≤ 35 then .southSupplies else .southPorts

/-- The supplies of R498. -/
inductive Supply where
  | pg (g : Nat)
  | pgAnalogue (g : Nat)
  | knl
  | knlAnalogue
  | core
  | host
  | hostAnalogue
  | pckAnalogue
  | ioKnl
  | gnss
  | ioGen
  | aon
  | vin
  | vss
deriving DecidableEq, Repr

/-- The four balls of a SerDes lane or an AES3 port. -/
inductive Wire where
  | txp
  | txn
  | rxp
  | rxn
deriving DecidableEq, Repr

/-- What a ball carries (R495 to R498). `neg` tells the two balls of a differential pair; OUT12 to OUT15 have one ball each. -/
inductive Ball where
  | supply (x : Supply)
  | port (p : Nat) (w : Wire)
  | pack (l : Nat) (w : Wire)
  | pcie (lane : Nat) (w : Wire)
  | pcieRefclk (neg : Bool)
  | aes (a : Nat) (w : Wire)
  | ref (n : Nat) (neg : Bool)
  | osc (k : Nat) (neg : Bool)
  | out (j : Nat) (neg : Bool)
  | xtal (out : Bool)
  | x32k (out : Bool)
  | vhold
  | lkf (k : Nat)
  | kspiSck
  | kspiCsN
  | kspiIo (k : Nat)
  | gsiI (k : Nat)
  | gsiQ (k : Nat)
  | gsiClk
  | gsiEn
  | gsiAgc
  | dbgTck
  | dbgTms
  | dbgTdi
  | dbgTdo
  | dbgTrstN
  | perstN
  | barkN
  | wakeN
  | testEn
  | rext
  | strapKspiQuad
  | strapLaneRev
deriving DecidableEq, Repr

/-- Ground. -/
def vss : Ball := .supply .vss

/-- A ball of a supply area: the supply where row and column add up to an even number (R498). -/
def area (x : Supply) (row col : Nat) : Ball := if (row + col) % 2 = 0 then .supply x else vss

/-- The balls of the port zones (R495): port 8g + j in column 4 + 9 × (g mod 4) + j. -/
def portBall (south : Bool) (row col : Nat) : Ball :=
  let j := (col - 4) % 9
  let p := 8 * ((col - 4) / 9 + (if south then 4 else 0)) + j
  if j = 8 then vss
  else match (if south then 43 - row else row) with
    | 2 => .port p .txp
    | 3 => .port p .txn
    | 5 => .port p .rxp
    | 6 => .port p .rxn
    | _ => vss

/-- The balls of the port-supply zones (R495, R498): the outer two rows feed the SerDes. -/
def portSupplyBall (south : Bool) (row col : Nat) : Ball :=
  let g := (col - 4) / 9 + (if south then 4 else 0)
  if (col - 4) % 9 = 8 then vss
  else if row = 8 || row = 9 || row = 34 || row = 35 then area (.pgAnalogue g) row col else area (.pg g) row col

/-- The balls of the centre (R498). -/
def centreBall (row col : Nat) : Ball :=
  if col ≤ 8 then area .knl row col
  else if col = 9 then area .knlAnalogue row col
  else if col ≤ 33 then area .core row col
  else if row ≤ 19 then area .host row col
  else if row ≤ 23 then area .hostAnalogue row col
  else if row ≤ 27 then area .pckAnalogue row col
  else vss

/-- The four wires in the order of rows A to D. -/
def wireAt (k : Nat) : Wire := if k = 0 then .txp else if k = 1 then .txn else if k = 2 then .rxp else .rxn

/-- The balls of the east edge (R496); with STRAP_LANE_REV PCIe lane i uses those of lane 3 − i (R501). -/
def eastBall (laneRev : Bool) (row col : Nat) : Ball :=
  let lane := fun (i : Nat) => if laneRev then 3 - i else i
  let pcie := fun (i : Nat) (n p : Wire) => if col = 41 then .pcie (lane i) n else if col = 42 then .pcie (lane i) p else vss
  let four := fun (a b c d : Ball) => if col = 39 then a else if col = 40 then b else if col = 41 then c else d
  if row ≤ 4 then .aes (col - 39) (wireAt (row - 1))
  else match row with
    | 5 => four .dbgTck .dbgTms .dbgTdi .dbgTdo
    | 6 => four .dbgTrstN (.supply .ioGen) vss vss
    | 9 => pcie 0 .txn .txp
    | 13 => pcie 1 .txn .txp
    | 17 => pcie 2 .txn .txp
    | 21 => pcie 3 .txn .txp
    | 11 => pcie 0 .rxn .rxp
    | 15 => pcie 1 .rxn .rxp
    | 19 => pcie 2 .rxn .rxp
    | 23 => pcie 3 .rxn .rxp
    | 25 => four .perstN vss (.pcieRefclk true) (.pcieRefclk false)
    | 27 => four (.pack 0 .rxn) (.pack 0 .rxp) (.pack 0 .txn) (.pack 0 .txp)
    | 29 => four (.pack 1 .rxn) (.pack 1 .rxp) (.pack 1 .txn) (.pack 1 .txp)
    | 31 => four (.pack 2 .rxn) (.pack 2 .rxp) (.pack 2 .txn) (.pack 2 .txp)
    | 33 => four (.pack 3 .rxn) (.pack 3 .rxp) (.pack 3 .txn) (.pack 3 .txp)
    | 35 => four .barkN .wakeN .testEn .rext
    | 36 => four .strapKspiQuad .strapLaneRev (.supply .ioGen) vss
    | 39 => .supply .vin
    | 40 => .supply .vin
    | 41 => .supply .vin
    | _ => vss

/-- The balls of the west edge (R497). -/
def westBall (row col : Nat) : Ball :=
  let pair := (row - 1) / 2
  let neg := row % 2 == 0
  if col = 1 then
    if row ≤ 16 then .ref pair neg
    else if row ≤ 24 then .osc (pair - 8) neg
    else if row ≤ 26 then .xtal neg
    else if row ≤ 28 then .x32k neg
    else if row ≤ 30 then .vhold
    else if row = 31 then .kspiSck
    else if row = 32 then .kspiCsN
    else if row ≤ 36 then .kspiIo (row - 33)
    else if row ≤ 40 then .lkf (row - 37)
    else vss
  else if col = 2 then
    if row ≤ 28 then (if neg then vss else .supply .ioKnl)
    else if row ≤ 30 then .supply .aon
    else if neg then vss
    else if row ≤ 37 then .supply .gnss
    else .supply .ioGen
  else
    if row ≤ 24 then .out pair neg
    else if row ≤ 28 then .out (row - 13) false
    else if row ≤ 30 then vss
    else if row ≤ 34 then .gsiI (row - 31)
    else if row ≤ 38 then .gsiQ (row - 35)
    else if row = 39 then .gsiClk
    else if row = 40 then .gsiEn
    else if row = 41 then .gsiAgc
    else vss

/-- What a ball carries (R495 to R498, R501). -/
def ballAt (laneRev : Bool) (row col : Nat) : Ball :=
  match zoneOf row col with
  | .west => westBall row col
  | .east => eastBall laneRev row col
  | .northPorts => portBall false row col
  | .southPorts => portBall true row col
  | .northSupplies => portSupplyBall false row col
  | .southSupplies => portSupplyBall true row col
  | .centre => centreBall row col

/-- The balls of this device: the lane strap stands as it was sampled at the Cold reset (R501). -/
def State.ball (s : State) (row col : Nat) : Ball := ballAt s.pwr.laneRev row col

/-- How many of the 1,764 balls carry something (R492, R498). -/
def ballCount (p : Ball → Bool) : Nat :=
  ((List.range 42).flatMap fun r => (List.range 42).filter fun c => p (ballAt false (r + 1) (c + 1))).length

end Sys2Proof.Machine
end

