-- ==== Sys2Proof/WellFormed.lean ====
section
/-! DEFINITION. Which commands are well formed: operands that the world outside the block could bring. The types bound most operands; the
checks here bound the others. -/

namespace Sys2Proof

/-- The end of BAR0 (R25, R363). -/
def bar0Size : Nat := 0x8000000

/-- An address of BAR0, or of BAR2 of the function that accesses, which operands carry above BAR0. -/
def addrOk (m : Master) (a : Nat) : Bool :=
  match m with
  | .pf _ => decide (a < bar0Size + 0x4000)
  | _ => decide (a < bar0Size)

/-- A frame on a link: 64 bytes with its FCS to 9,600 with what a port may accept (R163, R180). -/
def frameOk (bytes : List Byte) : Bool := decide (14 ≤ bytes.length) && decide (bytes.length ≤ 16384)

/-- Where PCK takes a frame from: off a link, a frame. -/
def srcOk (src : PackSrc) : Bool :=
  match src with
  | .link _ bytes _ _ => frameOk bytes
  | .queued => true

/-- The readings of the 13 regions and of the words that they clock (R407, R411, R418). -/
def readingsOk (temp : List Int) (vdd : List Nat) : Bool :=
  temp.length == 13 && vdd.length == 13 && vdd.all (fun v => decide (v < 4096)) && temp.all fun t => decide (-32768 ≤ t) && decide (t < 32768)

/-- Whether a command is well formed. -/
def Instr.wf : Instr → Bool
  | .registerWrite m a _ => addrOk m a
  | .multiwordLatchRead m a => addrOk m a
  | .registerBadAccess _ a _ => decide (a < bar0Size)
  | .hostUnmappedAccess _ a _ => decide (a < bar0Size)
  | .hostRoWrite _ a _ => decide (a < bar0Size) && a % 4 == 0
  | .bar4Access _ off len w =>
    decide (1 ≤ len) && decide (off + len ≤ 0x400000) && (match w with
      | some bs => bs.length == len
      | none => true)
  | .engineReset _ beats => beats.all fun k => decide (k ≤ 16)
  | .ereset _ _ beats => beats.all fun k => decide (k ≤ 16)
  | .imemWrite _ _ off _ => decide (off < 0x100000) && off % 4 == 0
  | .servoUpdate _ bounds est => decide (bounds.length ≤ 23) && decide (est.length ≤ 5)
  | .tdcEdge _ _ _ codes => decide (codes.length ≤ 16) && codes.all fun x => decide (x < 384)
  | .randomEdge codes => decide (codes.length ≤ 32)
  | .correlatorDump samples => decide (samples.length ≤ 81840)
  | .snapCapture samples => decide (samples.length ≤ 409200)
  | .scoutSolution sats _ => decide (sats.length ≤ 24)
  | .frameReceive _ bytes _ _ _ _ => frameOk bytes
  | .rollReceive src => srcOk src
  | .tReqReceive src => srcOk src
  | .tRespReceive src => srcOk src
  | .tFupReceive src => srcOk src
  | .braceReceive src => srcOk src
  | .regionSkewCheck _ temp vdd _ => readingsOk temp vdd
  | .crossingCheck temp vdd _ => readingsOk temp vdd
  | .telSample temp vdd _ _ => readingsOk temp vdd
  | .speedShiftStart _ util => decide (util ≤ 100)
  | .syncSend _ _ _ hdr _ _ => decide (hdr.length ≤ 128)
  | .announceSend _ _ _ hdr _ _ => decide (hdr.length ≤ 128)
  | .hostRecordCancel _ _ hdr _ => decide (hdr.length ≤ 128)
  | .coldReset _ _ | .chipReset _ | .blockReset _ | .powerOff | .kpllFirstLock _ | .updateEffectiveTick | .endOfSlewUpdate | .stepSnEffect
  | .handoverTick | .csetEccError _ _ | .snLoadWrite _ _ | .snLoadEffect | .boundaryEvent | .leapFlagSet | .leapSecondEvent | .kennelBoot
  | .mbxClaim _ | .mbxGoWrite _ _ | .mbxRelWrite _ _ | .claimExpiry _ | .doneExpiry _ | .authLockExpiry | .mbxStatus | .mbxStage _
  | .mbxChallenge | .mbxSetParam _ | .mbxSetLatency _ | .mbxCommitFw _ | .mbxCommitParam _ | .mbxSeal | .mbxUnseal | .mbxStep | .mbxUtc
  | .mbxTestMode | .mbxKpairSelect | .auditAckWrite _ _ | .digest _ _ _ | .kpairCompare | .kpairRecomputeEnd | .kpairKatResult _ _ _ _
  | .fwTrialEnd _ | .refEdge _ _ _ | .measInletRecord | .refLossTimeout _ | .oscEdgeSeen _ _ | .oscLossTimeout _ | .oscWarmupEnd _
  | .oscExcludeEnd _ | .tempStaleTimeout _ | .holdoverUpdate | .ensYBootstrap | .bootSnAlign | .bootWaitExpiry
  | .tdcRecordAdmit | .interpRoleSwap _ | .calTableComplete _ _ | .tbPresenceLoss | .tbFreqWindow _ | .tbRebuildStart | .rngRateCheck _
  | .rngFaultPersist | .gsiClkLoss | .gsiClkReturn | .gnssMsStrobe | .fePowerUp | .gnssRegionWake | .burstStart | .burstEnd | .resRelease _
  | .gnsSnapDone _ _ | .gnsPosWrite _ _ _ | .osnmaVerify _ _ | .dataSession _ | .surveyEnd | .portCfgApply _
  | .linkSignalDetect _ | .linkPcsLock _ _ _ | .linkTrainTimeout _ | .linkSettleDone _ _ | .linkLoss _ | .shiftTimeout _
  | .prpEntryExpire _ _ _ | .prpSupervision _ | .xcompUpdate _ _ | .recalStart _ | .recalEnd _ _ | .recalStale _ | .pauseWatchdog _
  | .pauseIgnoreEnd _ | .txUnderrun _ | .prtCntClr _ _ _ | .lchHostSubmit _ _ | .frameReady _ | .frameLaunch _ _ _ _ | .frameLate _
  | .immediateLate _ | .frameTxEnd _ | .reportMove _ | .scheduleCycleBoundary | .maskCommitWrite _ _ _ | .steerCommitWrite _ _
  | .srvPoolRet _ _ | .ntsRequestCheck _ | .assistLookup | .assistInsert | .assistDelete | .assistPin | .assistUnpin | .assistSetDeny
  | .assistClearDeny | .contextExpiry _ _ | .aeadSivSeal _ _ | .aeadSivOpen _ _ | .aeadHmac _ _ | .aeadCmac _ _ | .aeadMint _ _
  | .aeadFree _ _ | .jobCrc32 _ _ | .jobCrc32c _ _ | .jobSha256 _ _ | .jobSiphash64 _ _ | .jobSiphash128 _ _ | .ticketComplete _ _
  | .cookieRotArm _ _ | .cookieRotation | .hostMint | .saKeyCommit _ _ _ _ | .grantRequest _ | .grantCancel _ | .grantExpiry _
  | .clientSweep _ | .followUpSend _ _ | .delayRespSend _ | .pdelayRespSend _ | .ntpResponse _ | .ntsResponse _ | .ntsnResponse _
  | .upstreamExchange _ _ | .engineReplace _ | .engRunSet _ _ | .engRunClear _ _ | .engStopComplete _ | .engGateSet _ _ | .engGateClear _ _
  | .loadDone _ _ | .measurementDone _ | .engDbellWrite _ _ _ | .engWdogWrite _ _ _ | .engWdogExpiry _ | .engineWake _ | .storeBuserr _
  | .matrixGrant _ | .matrixResponse _ _ | .writeBufferDrain _ | .engineStallRelease _ | .mtxTimeout _ | .add _ _ _ _ _ | .sub _ _ _ _ _
  | .addc _ _ _ _ _ | .subb _ _ _ _ _ | .and _ _ _ _ _ | .or _ _ _ _ _ | .xor _ _ _ _ _ | .andn _ _ _ _ _ | .sll _ _ _ _ _ | .srl _ _ _ _ _
  | .sra _ _ _ _ _ | .ror _ _ _ _ _ | .mul _ _ _ _ _ | .mulhu _ _ _ _ _ | .mulhs _ _ _ _ _ | .divu _ _ _ _ _ | .divs _ _ _ _ _
  | .remu _ _ _ _ _ | .rems _ _ _ _ _ | .mins _ _ _ _ _ | .maxs _ _ _ _ _ | .minu _ _ _ _ _ | .maxu _ _ _ _ _ | .bswap16 _ _ _ _
  | .bswap32 _ _ _ _ | .bswap64 _ _ _ _ | .clz _ _ _ _ | .popc _ _ _ _ | .slt _ _ _ _ _ | .sltu _ _ _ _ _ | .sext32 _ _ _ _
  | .zext32 _ _ _ _ | .addi _ _ _ _ | .andi _ _ _ _ | .ori _ _ _ _ | .xori _ _ _ _ | .shi _ _ _ _ _ | .lui _ _ _ | .movk _ _ _ _
  | .slti _ _ _ _ | .sltiu _ _ _ _ | .cmpi _ _ _ | .brif _ _ _ | .beq _ _ _ _ | .bne _ _ _ _ | .blt _ _ _ _ | .bge _ _ _ _ | .bltu _ _ _ _
  | .bgeu _ _ _ _ | .go _ _ | .call _ _ _ | .gor _ _ | .callr _ _ _ | .ld _ _ _ _ | .lw _ _ _ _ | .lws _ _ _ _ | .lh _ _ _ _ | .lhs _ _ _ _
  | .lb _ _ _ _ | .lbs _ _ _ _ | .tld _ _ _ _ | .sd _ _ _ _ | .sw _ _ _ _ | .sh _ _ _ _ | .sb _ _ _ _ | .tst _ _ _ _ | .swap _ _ _ _
  | .aadd _ _ _ _ | .aand _ _ _ _ | .aor _ _ _ _ | .cas _ _ _ _ | .tmov _ _ _ | .tadd _ _ _ _ | .tsub _ _ _ _ | .taddg _ _ _ _
  | .tdiff _ _ _ _ | .tcmp _ _ _ | .tgets _ _ _ | .tgetf _ _ _ | .tsets _ _ _ _ | .tsetf _ _ _ _ | .ttosn _ _ _ | .tfromsn _ _ _
  | .tntp _ _ _ | .tnow _ _ _ | .waitt _ _ _ _ | .launch _ _ _ | .tspop _ _ _ | .kick _ _ _ _ | .coll _ _ _ | .cpoll _ _ _ | .dbell _ _ _
  | .dbtake _ _ _ | .mbxclaim _ _ | .mbxgo _ _ | .mbxrel _ _ | .hbeat _ _ | .nop _ | .ecall _ | .tret _ | .fence _ | .sleep _ _ _
  | .pmark _ _ | .sysrd _ _ _ | .syswr _ _ _ | .anchor _ _ _ _ | .handover _ _ _ | .sprd _ _ _ | .lshwr _ _ _ | .ensy _ _ _
  | .synCommitWrite _ _ _ | .synCommitApply _ | .bandSearchStep _ _ | .pllLkfLock _ | .pllSettleTimeout _ | .pllLoss _ _
  | .pllReferencePresent _ | .outputGridResume _ | .outEnWrite _ _ _ | .heelRecord _ | .heelHoldTimeout _ | .todMessage _
  | .bandCheck _ _ | .tbusFullWordCheck _ _ | .outputPhaseCheck _ | .rollSend | .partnerArriveTimeout _ | .partnerDepart _ | .partnerRearm _ | .uplinkRevert
  | .uplinkWithholdEnd | .exchangeStart _ | .packTxTimestamp _ _ _ | .exchangeVoid _ | .packKeyLoad _ _ | .braceSend | .braceSwap
  | .brcUnmute _ _ | .brcMute _ _ | .autoUnmute | .adrStartWrite _ _ | .adrStartTrigger | .adrBlockBoundary _ | .adrOutputFrame _
  | .adrInputFrame _ _ | .adrInputLoss _ | .adrSecondRecord _ | .adrCsCommit _ _ _ | .adrClockLoss _ | .fchHeadWrite _ _ _
  | .fchDescriptorFetch _ _ | .fchDataCompletion _ _ | .fchCplTimeout _ | .fchAbort _ _ | .fchClear _ _ | .fchFlush _ _
  | .unexpectedCompletion | .functionLevelReset _ | .bmeClear _ _ | .hostLinkReset | .msixSend _ | .irqPendClear _ _ _
  | .hstHDbellWrite _ _ | .xtalReady _ _ | .xtalFreqWindow _ _ | .xtalLoss _ | .aonXtalReady | .aonXtalLoss | .syspllLock _ _
  | .syspllCoast _ _ | .syspllRampDone _ _ | .clkRootSelWrite _ _ | .clkSwitchComplete _ | .kpllSourceLoss _ | .kpllBetterSource _ _
  | .kpllHoldExit _ | .pwrGate _ _ | .quiesceEnd _ _ | .pwrUngate _ _ | .ungateClocksStable _ | .pwrForce _ _ | .unitBlockReset _ _
  | .dozeEnWrite _ _ | .dozeAutoGate _ | .dozeGateRetry _ | .deepRequest _ _ | .deepWake _ _ _ | .pwrChipReset _ _ | .vinWarn _ _
  | .saveCommit | .burySurvival _ | .vinReset _ _ | .vholdCollapse _ _ _ | .periodicBoneSave | .boneSectorErase _ | .kumSlotWrite _
  | .kumSlotErase _ | .kumDebugToken _ | .kumRetire _ | .kumLockExpiry | .wkrLoad _ _ _ _ | .dbgObserve _ | .dbgInvasive _ | .dbgClose _
  | .debugTimerExpiry | .hostMeasExtend _ _ | .fltRaiseWrite _ _ | .fltStatusClear _ _ _ | .fltReactWrite _ _ _ | .guardHbMiss
  | .guardRestart _ | .guardHeartbeat | .guardFailTimeout | .obsSnapWrite _ _ | .snapPeriodic | .obsCntSelWrite _ _ _
  | .obsCntWrite _ _ _ | .sampleSelect _ | .telRecord | .scrubLine _ | .scrubSteal _ | .scrubPassLate | .kpllTick | .illegalEncoding _ _
  | .mbxUnknownOpcode | .kumUnknownKind _ | .acqTimeout | .weakTimeExpiry | .retryPeriodExpiry | .pauseEnd _ | .flrComplete _
  | .busMasterEnableSet _ _ _ _ _ | .sramClearDone | .holdRdyChange _ | .barkNMinHold => true

end Sys2Proof
end

