-- ==== Sys2Proof/Tests/Slice0.lean ====
section
/-! SUPPORT. The model's own tests: ill-formed terms that WellFormed refuses, witnesses that the hypotheses of the statements can be met (for each clause a
state and operands that meet them together), and a few results worked out by hand from the spec. -/

set_option maxRecDepth 100000

namespace Sys2Proof.Tests

set_option Elab.async false

open Machine

/-- The outcome is a next state of which a test holds. -/
def nextIs (o : Host.Outcome State Fault Refusal) (p : State → Bool) : Bool :=
  match o with
  | .next t => p t
  | _ => false

/-- From reset, engine `n` in a state of R260. -/
def engAt (n : Fin 12) (st : Nat) : State := State.reset.set R.ENG_STAT_STATE n st

/-- From reset, engine `n` RUNNING. -/
def run (n : Fin 12) : State := engAt n 3

/-- The next word of an engine. -/
def word (s : State) (n : Fin 12) (w : Word) : State := s.setBytes (imemAt n + (s.pc n).toNat) (leBytes 4 w.toNat)

/-- An engine changed. -/
def eng (s : State) (n : Fin 12) (f : Engine → Engine) : State := s.setEng n (f (s.engine n))

/-- From reset, in LC with LC running. -/
def inLc : State := { State.reset.set R.KNL_TIME_MODE_MODE 0 1 with time := { TimeSt.reset with running := true } }

/-- From reset, with SRAM cleared. -/
def ram : State := { State.reset with pwr := { State.reset.pwr with sramClear := true } }

/-- PF0. -/
abbrev pf0 : Master := .pf 0

/-- The time model changed. -/
def tm (s : State) (f : TimeSt → TimeSt) : State := { s with time := f s.time }

/-- A word of the sealed store's working copy, by its register address. -/
def storeSet (s : State) (a : Nat) (w : Word) : State :=
  match rwsOff a with
  | some o => { s with knl := { s.knl with work := sput false o w s.knl.work } }
  | none => s

/-- A word of the sealed store's working copy, by its offset. -/
def workSet (s : State) (o : Nat) (w : Word) : State := { s with knl := { s.knl with work := sput false o w s.knl.work } }

/-! ### WellFormed refuses -/

theorem wf_refuses_address : (Instr.registerWrite pf0 (bar0Size + 0x4000) 0).wf = false ∧ (Instr.multiwordLatchRead (.eng 2) bar0Size).wf = false := by decide
theorem wf_refuses_bar0 : (Instr.registerBadAccess pf0 bar0Size true).wf = false ∧ (Instr.hostUnmappedAccess 0 bar0Size true).wf = false := by decide
theorem wf_refuses_unaligned : (Instr.hostRoWrite 0 2 0).wf = false ∧ (Instr.imemWrite pf0 3 0x80002 0).wf = false ∧ (Instr.imemWrite pf0 3 0x100000 0).wf = false := by decide
theorem wf_refuses_bar4 : (Instr.bar4Access 0 0 0 none).wf = false ∧ (Instr.bar4Access 0 0x400000 1 none).wf = false ∧ (Instr.bar4Access 0 0 2 (some [1])).wf = false := by decide
theorem wf_refuses_beats : (Instr.engineReset 3 (some 17)).wf = false ∧ (Instr.ereset pf0 3 (some 17)).wf = false := by decide
theorem wf_refuses_lists : (Instr.randomEdge (List.replicate 33 0)).wf = false ∧ (Instr.tdcEdge 0 false 0 (List.replicate 17 0)).wf = false ∧ (Instr.tdcEdge 0 false 0 [384]).wf = false := by decide
theorem wf_refuses_frame : (Instr.frameReceive 0 [] true false 0 0).wf = false := by decide
theorem wf_refuses_readings : (Instr.crossingCheck [] [] []).wf = false ∧ (Instr.telSample (List.replicate 13 0) (List.replicate 13 4096) 0 0).wf = false
    ∧ (Instr.regionSkewCheck 0 (List.replicate 13 40000) (List.replicate 13 0) []).wf = false := by decide
theorem wf_refuses_share : (Instr.speedShiftStart 0 101).wf = false := by decide
theorem wf_takes : (Instr.nop 3).wf = true ∧ (Instr.bar4Access 0 0x3FFFFF 1 none).wf = true ∧ (Instr.registerWrite pf0 0 0).wf = true := by decide

/-! ### Engines -/

theorem witness_ready : (run 3).ready 3 ∧ (run 0).ready 0 ∧ (run 2).ready 2 := by unfold State.ready; decide +kernel
theorem test_add_carries : nextIs (exec (.add 3 1 2 2 true) (word ((run 3).setG 3 2 0x8000000000000000) 3 0x04221400)) (fun t =>
    t.g 3 1 == 0 && (t.flags 3).z && (t.flags 3).c && (t.flags 3).v && !(t.flags 3).n && t.pc 3 == 4) = true := by decide +kernel
theorem test_divide_by_zero : nextIs (exec (.divu 3 1 2 0 true) (word ((run 3).setG 3 2 7) 3 0x0422040F)) (fun t => t.g 3 1 == 0xFFFFFFFFFFFFFFFF#64 && (t.flags 3).v) = true
    ∧ nextIs (exec (.rems 3 1 2 0 true) (word ((run 3).setG 3 2 7) 3 0x04220412)) (fun t => t.g 3 1 == 7#64) = true := by decide +kernel
theorem test_shift_by_zero_keeps_carry : nextIs (exec (.sll 3 1 2 4 true) (word ((((run 3).setG 3 2 3).setG 3 4 64).setFlags 3 ⟨false, false, true, false, false, false, false⟩) 3 0x04222408))
    (fun t => t.g 3 1 == 3#64 && (t.flags 3).c) = true := by decide +kernel
theorem test_discarded_register : nextIs (exec (.addi 3 0 0 5) (word (run 3) 3 0x08000005)) (fun t => t.g 3 0 == 0#64 && t.pc 3 == 4) = true := by decide +kernel
/-- The instruction before was a load from DMEM that gave G1. -/
def afterLoad : State := eng (run 3) 3 fun e => { e with loaded := some (.g 1) }
theorem witness_load_use : afterLoad.issues 3 = true ∧ afterLoad.fetchBad 3 = false ∧ afterLoad.fetchSoft 3 = 0 ∧ (afterLoad.engine 3).loaded = some (.g 1)
    ∧ (Instr.add 3 2 1 1 false).reads = some (3, [.g 1, .g 1]) ∧ EReg.g 1 ∈ [EReg.g 1, EReg.g 1] ∧ (Instr.addi 3 2 4 1).reads = some (3, [.g 4]) ∧ EReg.g 1 ∉ [EReg.g 4]
    ∧ (let s : State := { run 3 with soft := [0x44380000] }; s.issues 3 = true ∧ s.fetchBad 3 = false ∧ s.fetchSoft 3 ≠ 0 ∧ (s.engine 3).loaded = none) := by decide +kernel
theorem test_use_costs_a_cycle : nextIs (exec (.add 3 2 1 1 false) (word afterLoad 3 0x04410800)) (fun t => t.get R.ENG_CYCLES 3 == 2 && t.get R.ENG_RETIRED 3 == 1 && t.get R.OBS_TD_DEP 3 == 1) = true
    ∧ nextIs (exec (.addi 3 2 4 1) (word afterLoad 3 0x08440001)) (fun t => t.get R.ENG_CYCLES 3 == 1) = true := by decide +kernel
theorem witness_gor : ((run 3).setG 3 2 8).ready 3 ∧ (((run 3).setG 3 2 8).g 3 2).toNat % 4 = 0 ∧ (((run 3).setG 3 2 6).g 3 2).toNat % 4 ≠ 0 := by unfold State.ready; decide +kernel
theorem witness_dmem : ((run 3).setG 3 2 0x1FFF8).ready 3 ∧ ((((run 3).setG 3 2 0x1FFF8).g 3 2 + (0 : DWord)).setWidth 32).toNat % 8 = 0 ∧ 0x1FFF8 + 8 ≤ 0x20000
    ∧ ((run 3).setG 3 2 0x1FFF8).badAt (0x44090000 + 3 * 0x100000 + 0xFFF8) 8 = false ∧ ((run 3).setG 3 2 0x1FFF8).softs (0x44090000 + 3 * 0x100000 + 0xFFF8) 8 = 0 := by unfold State.ready; decide +kernel
theorem witness_dmem_soft : let s : State := { (run 3).setG 3 2 0x10000 with soft := [0x44390000] }
    s.ready 3 ∧ s.badAt 0x44390000 8 = false ∧ s.softs 0x44390000 8 ≠ 0 := by unfold State.ready; decide +kernel
theorem test_corrected_load : nextIs (exec (.ld 3 1 2 0) { word ((run 3).setG 3 2 0x10000) 3 0x80220000 with soft := [0x44390004] }) (fun t =>
    t.get R.ENG_ECC_CORRECTED 3 == 1 && (t.get R.ENG_EVT 3).testBit 7 && t.get R.ENG_CYCLES 3 == 2) = true := by decide +kernel
theorem witness_dmem_bad : ({ (run 3).setG 3 2 0x10000 with bad := [0x44390000] } : State).ready 3
    ∧ ({ (run 3).setG 3 2 0x10000 with bad := [0x44390000] } : State).badAt 0x44390000 8 = true := by unfold State.ready; decide +kernel
theorem test_store_then_byte : nextIs (exec (.sw 3 1 2 0) (word (((run 3).setG 3 2 0x1FFFC).setG 3 1 0x11223344) 3 0xA4220000)) (fun t =>
    t.byte 0x4439FFFC == 0x44 && t.byte 0x4439FFFF == 0x11) = true := by decide +kernel
theorem test_store_misaligned_traps : nextIs (exec (.sw 3 1 2 2) (word ((run 3).setG 3 2 0x10000) 3 0xA4220002)) (fun t =>
    t.get R.ENG_STAT_CAUSE 3 == 2 && t.get R.ENG_BADADDR 3 == 0x10002 && t.flag R.ENG_STAT_IN_TRAP 3) = true := by decide +kernel
theorem test_cas_equal : nextIs (exec (.cas 3 1 2 4) (word (((run 3).setG 3 2 0x10000).setG 3 4 9) 3 0xB4222004)) (fun t => t.memN 0x44390000 8 == 9 && (t.flags 3).z) = true := by decide +kernel
theorem witness_kennel : (run 0).ready 0 ∧ (run 0).isLead 0 = true ∧ (run 1).isLead 1 = false ∧ (run 1).ready 1 ∧ ensyCode ((run 0).setG 0 2 0 |>.g 0 2).toNat = true := by
  unfold State.ready; decide +kernel
theorem witness_lshwr : ((run 0).setG 0 2 0x10000).ready 0 ∧ (((run 0).setG 0 2 0x10000).g 0 2).toNat % 8 = 0 ∧ ((run 0).setG 0 2 0x10000).badAt 0x44090000 40 = false
    ∧ ((run 0).setG 0 2 0x10000).softs 0x44090000 40 = 0 ∧ (run 0).termsLate = false := by unfold State.ready; decide +kernel
theorem witness_digest : ((run 0).knl.pair.settled = true ∨ (run 0).knl.pair.second = none)
    ∧ (((run 0).setG 0 2 0x10020).g 0 2).toNat % 32 = 0 := by decide +kernel
theorem witness_waits : (run 3).ready 3 ∧ ((run 3).engine 3).wbuf = [] ∧ (((run 3).setV 3 1 5).v 3 1).toNat > (run 3).rt.toNat
    ∧ ((eng (run 3) 3 fun e => { e with events := 0x10 }).engine 3).events &&& 0x10#7 &&& 0x7E ≠ 0 := by unfold State.ready; decide +kernel
theorem witness_kick : let s := ((run 3).setG 3 2 0x10000).setBytes 0x44390000 [0, 0, 0, 0, 0, 0, 1, 0, 1, 0, 0, 0, 0, 0, 0, 0]
    s.ready 3 ∧ leAt (s.bytes 0x44390000 16) 0 1 ≤ 1 ∧ 1 ≤ leAt (s.bytes 0x44390000 16) 8 4 ∧ leAt (s.bytes 0x44390000 16) 8 4 ≤ 65536
    ∧ (s.engine 3).freeTicket = some 0 ∧ ((s.engine 3).tickets.all fun t => t.num != 0) = true := by unfold State.ready; decide +kernel
/-- A ticket of a CRC job. -/
def tkt (done : Bool) : Ticket := { num := 0, job := { target := 2, desc := [], key := [] }, delivered := true, result := some (0, 5), complete := done }
theorem witness_collect : let f := fun (b : Bool) => eng (run 3) 3 fun e => { e with tickets := [tkt b] }
    (f true).ready 3 ∧ (((f true).engine 3).tickets.find? fun t => t.num.val == ((f true).g 3 2).toNat) = some (tkt true) ∧ (tkt true).complete = true
    ∧ (((f false).engine 3).tickets.find? fun t => t.num.val == ((f false).g 3 2).toNat) = some (tkt false) ∧ (tkt false).complete = false
    ∧ (((run 3).engine 3).tickets.find? fun t => t.num.val == 0) = none := by unfold State.ready; decide +kernel
theorem witness_launch : let s := (run 3).setG 3 2 0x10000
    s.ready 3 ∧ s.badAt 0x44390000 48 = false ∧ s.flag R.LCH_RING_CFG_ENABLE 1 = false ∧ (s.setFlag R.LCH_RING_CFG_ENABLE 1 true).flag R.LCH_RING_CFG_ENABLE 1 = true
    ∧ s.get R.LCH_RING_WR 1 = s.get R.LCH_RING_RD 1 ∧ (s.set R.LCH_RING_WR 1 1).get R.LCH_RING_WR 1 ≠ s.get R.LCH_RING_RD 1
    ∧ ram.sramOk 0x10000000 32 = true ∧ ram.softs 0x10000000 32 = 0 := by unfold State.ready; decide +kernel
theorem witness_matrix_access : let s := (run 3).setG 3 2 0x10000000
    s.ready 3 ∧ inSram 0x10000000 12 = true ∧ (s.engine 3).wbuf.length < 4 ∧ s.reading 3 = false ∧ s.lineBusy 3 0x10000000 12 = false := by unfold State.ready; decide +kernel
theorem witness_dbell : (((run 3).setG 3 2 11).g 3 2).toNat = 11 ∧ (((run 3).setG 3 2 12).g 3 2).toNat = 12 := by decide +kernel
/-- A request of E3 at a target. -/
def reqOf (op : MOp) : State := { ram with mtx := { MtxSt.reset with reqs := [{ master := 1, target := 3, addr := 0x10000000, op := op, since := none }] } }
theorem witness_grant : ((reqOf (.write [1])).arbitrate 3).isSome = true ∧ ((reqOf (.read 4)).arbitrate 3).isSome = true ∧ (reqOf (.read 4)).hung 3 = false
    ∧ (reqOf (.read 4)).badAt 0x10000000 4 = false ∧ (reqOf (.read 4)).softs 0x10000000 4 = 0
    ∧ (let s : State := { reqOf (.read 4) with soft := [0x10000000] }; (s.arbitrate 3).isSome = true ∧ s.softs 0x10000000 4 ≠ 0 ∧ s.badAt 0x10000000 4 = false ∧ s.mild fsSramEccCorr) := by
  unfold State.mild State.room; decide +kernel
/-- A response that E3 waits for. -/
def respTo : State :=
  eng { State.reset with mtx := { MtxSt.reset with resps := [{ master := 1, target := 3, addr := 0, isWrite := false, data := some [7], old := [], at_ := 0, dead := false }] } } 3
    fun e => { e with held := some (.load 0 1 (.gpr 1 1 false)) }
theorem witness_response : (respTo.mtx.resps.find? fun r => r.master == 1 && r.target == 3).isSome = true ∧ (respTo.mtx.resps.find? fun r => r.target == 3).isSome = true
    ∧ (respTo.engine 3).stopping = false ∧ (respTo.engine 3).wdogDue = false := by decide +kernel
theorem test_response_completes_the_load : nextIs (exec (.matrixResponse 1 3) (respTo.set R.ENG_STAT_STATE 3 3)) (fun t => t.g 3 1 == 7#64 && t.pc 3 == 4) = true := by decide +kernel
theorem witness_stalls : ((eng (run 3) 3 fun e => { e with storeErr := some 4 }).engine 3).storeErr = some 4 ∧ (run 3).engState 3 = 3
    ∧ ((eng (run 3) 3 fun e => { e with held := some .fence }).engine 3).held = some .fence
    ∧ ((eng (run 3) 3 fun e => { e with held := some (.store 0 [1] 1) }).engine 3).held = some (.store 0 [1] 1)
    ∧ ((eng (run 3) 3 fun e => { e with waiting := some (.instant 1 0 1) }).engine 3).waiting = some (.instant 1 0 1) := by decide +kernel
theorem witness_traps : (run 3).flag R.ENG_STAT_IN_TRAP 3 = false ∧ bits ((run 3).get R.ENG_TRAP_CFG 3) 14 2 = 0 ∧ ((run 3).setFlag R.ENG_STAT_IN_TRAP 3 true).flag R.ENG_STAT_IN_TRAP 3 = true
    ∧ bits (((run 3).set R.ENG_TRAP_CFG 3 1).get R.ENG_TRAP_CFG 3) 0 2 = 1 ∧ bits (((run 3).set R.ENG_TRAP_CFG 3 2).get R.ENG_TRAP_CFG 3) 0 2 = 2 := by decide +kernel
theorem test_trap_of_a_k_engine_halts : ((run 0).trapEnter 0 1 4 none false).engState 0 = 5 ∧ ((run 3).trapEnter 3 1 4 none false).engState 3 = 3 := by decide +kernel
theorem test_retired_refuses_run : nextIs (exec (.engRunSet pf0 3) (((engAt 3 1).setFlag R.ENG_STAT_MEAS_VALID 3 true).set R.SEC_STATE_LC 0 4)) (fun t =>
    t.engState 3 == 1 && (t.get R.ENG_EVT 3).testBit 4) = true
    ∧ nextIs (exec (.engRunSet pf0 3) ((engAt 3 1).setFlag R.ENG_STAT_MEAS_VALID 3 true)) (fun t => t.engState 3 == 3) = true := by decide +kernel
theorem witness_run_and_gate : State.reset.writes pf0 (R.ENG_CTRL_RUN.at 3) ∧ State.reset.engState 3 = 1 ∧ (engAt 3 5).engState 3 = 5 ∧ (engAt 3 0).engState 3 = 0
    ∧ ((engAt 3 1).setFlag R.ENG_STAT_MEAS_VALID 3 true).flag R.ENG_STAT_MEAS_VALID 3 = true ∧ ((run 3).setFlag R.ENG_CTRL_RUN 3 true).flag R.ENG_CTRL_RUN 3 = true
    ∧ ((engAt 3 0).setFlag R.ENG_CTRL_GATE 3 true).flag R.ENG_CTRL_GATE 3 = true ∧ ((eng (run 3) 3 fun e => { e with stopping := true }).engine 3).stopping = true
    ∧ (run 3).accessOut 3 = false ∧ (eng (run 3) 3 fun e => { e with unacked := 1 }).accessOut 3 = true := by unfold State.writes; decide +kernel
theorem witness_loading : State.reset.answers pf0 = true ∧ State.reset.rights pf0 (R.ENG_CTRL_RUN.at 3 + 0x80000) = .rw ∧ (engAt 3 2).engState 3 = 2
    ∧ (((engAt 3 2).engine 3).rom = false) ∧ headerFault 3 false (leBytes 128 ((engAt 3 2).wordsN (R.ENG_LOAD_HDR.at 3) 32)) = 1 := by decide +kernel
theorem witness_doorbell : State.reset.writes pf0 (R.ENG_DBELL.at 3) ∧ State.reset.writes pf0 (R.ENG_WDOG.at 3)
    ∧ ((eng (run 3) 3 fun e => { e with wdogOn := true, held := some .fence }).engine 3).wdogOn = true := by unfold State.writes; decide +kernel
theorem witness_guard : State.reset.guard = 3 ∨ State.reset.guard ≠ 4 := by decide +kernel
theorem witness_guard_states : (State.reset.set R.FLT_GUARD_STAT_STATE 0 0).guard = 0 ∧ (State.reset.set R.FLT_GUARD_STAT_STATE 0 4).guard = 4
    ∧ State.reset.writes pf0 (R.FLT_GUARD_CTRL.at 0) ∧ State.reset.active fsGuardFail = false ∧ ({ State.reset with knl := { KnlSt.reset with guardFail := true } } : State).knl.guardFail = true
    ∧ State.reset.pinSource = false := by unfold State.writes; decide +kernel
theorem witness_faults : (fsInfo 0).isSome = true ∧ (fsInfo 159).isSome = true ∧ State.reset.writes pf0 (R.FLT_RAISE.at 0) ∧ State.reset.writes pf0 (R.FLT_STATUS.at 0)
    ∧ State.reset.writes pf0 (R.FLT_REACT_REACT.at 0) := by unfold State.writes; decide +kernel
/-- E4 to be replaced, at a phase. -/
def replAt (phase : Nat) : State := engAt 4 1 |>.setFlag R.ENG_STAT_MEAS_VALID 4 true |>.setSrv { State.reset.srv with repl := some { k := 0, mine := [1], moved := [0, 5], phase := phase, hb := 9 } }
theorem witness_replacement : State.reset.srv.repl = none ∧ (State.reset.get R.SRV_STAT).testBit 0 = false ∧ ((State.reset.set R.SRV_STAT 0 1).get R.SRV_STAT).testBit 0 = true
    ∧ (replAt 1).srv.repl.isSome = true ∧ (replAt 1).idleS 0 = true ∧ (replAt 2).engState 4 = stStopped ∧ (replAt 2).lc ≠ 4 ∧ (replAt 3).get R.ENG_HB 4 ≠ 9 := by decide +kernel
theorem test_replacement_returns_shares : nextIs (exec (.engineReplace 4) (replAt 3)) (fun t => t.srv.repl.isNone && t.srv.share[(0 : Fin 8)] == State.reset.srv.share[(0 : Fin 8)] + 5) = true := by decide +kernel


/-! ### Time -/

theorem witness_tick : inLc.time.running = true ∧ State.reset.time.running = false ∧ (tm State.reset fun x => { x with running := true }).inLc = false
    ∧ (0x3B9AC9FFFFFF : Nat) % 2 ^ 48 < 1000000000 * 2 ^ 16 := by decide +kernel
theorem test_sn_carries_into_seconds : snNext 0x3B9AC9FFFFFF 0 = 0x100000000D554#96 := by decide +kernel
theorem test_tick_before_lock : nextIs (exec .kpllTick State.reset) (fun t => t.time == State.reset.time && t.regs.isEmpty && t.mem.isEmpty) = true := by decide +kernel
theorem test_tick_counts : nextIs (exec .kpllTick inLc) (fun t => t.time.tick == 1 && t.time.cad == 1 && t.time.sn == 54613#96) = true := by decide +kernel
/-- A firmware update that is due. -/
def fwDue (f p : DWord) : State := tm inLc fun x => { x with fw := some { freq := f, phase := p, slewReq := 0, due := 0 } }
theorem witness_fw_update : (fwDue 0 0).inLc = true ∧ rateOk 0 = true ∧ rateOk (2 ^ 62) = false ∧ (fwDue 0 5).beyondJump 5 = false
    ∧ rateOk ((0 : Int) + (fwDue 0 5).slewTerm 5 0) = true ∧ (fwDue 0 0x7000000000000000).beyondJump (0x7000000000000000 : DWord).toInt = true := by decide +kernel
theorem test_rate_beyond_the_limit : nextIs (exec .updateEffectiveTick (fwDue 0x4000000000000000 0)) (fun t =>
    t.get R.KNL_TIME_STAT_RATE_RANGE == 1 && t.time.cset == inLc.time.cset && t.time.fw.isNone) = true := by decide +kernel
theorem test_update_makes_a_set : nextIs (exec .updateEffectiveTick (tm (fwDue 1000 0) fun x => { x with lc := 2 ^ 48 })) (fun t =>
    t.time.cset.anchor == (0x1000000000000 : Time) && t.time.cset.ofs == (0x1000000000000 : Time) && t.time.cset.rate == 1000#64
      && t.get R.KNL_TIME_MODE_CSET_VER == 1) = true := by decide +kernel
theorem witness_freeze_slew_step :
    let z := tm inLc fun x => { x with freeze := some { freq := 0, due := 0 } }
    let w := tm inLc fun x => { x with slew := some { s := 0, phase := 0, start := 0, part := 0 }, lc := 1 }
    let o := tm inLc fun x => { x with steps := [{ step := 2 ^ 48, due := 0, counter := 1, keySlot := 0 }] }
    z.time.freeze.isSome = true ∧ z.time.steps = [] ∧ z.time.slew = none ∧ (w.time.slew.map fun y => y.reached w.time.lc) = some true
    ∧ w.time.fw = none ∧ w.time.freeze = none ∧ rateOk (w.time.cset.rate.toInt - 0) = true ∧ o.inLc = true ∧ o.time.steps.length = 1
    ∧ rateOk o.time.cset.rate.toInt = true ∧ o.room 1 := by unfold State.room; decide +kernel
theorem witness_sn_steps_and_loads :
    let o := tm State.reset fun x => { x with steps := [{ step := 2 ^ 48, due := 0, counter := 1, keySlot := 0 }] }
    o.inLc = false ∧ o.room 1 ∧ State.reset.writes pf0 (R.KNL_SN_LOAD3.at 0) ∧ State.reset.holdw = [] ∧ State.reset.time.armed = none ∧ State.reset.mode = 0
    ∧ inLc.mode ≠ 0 ∧ inLc.writes pf0 (R.KNL_SN_LOAD3.at 0) ∧ (tm State.reset fun x => { x with armed := some (.toTest, 256) }).time.armed.isSome = true
    ∧ (tm State.reset fun x => { x with armed := some (.toTest, 256) }).writes pf0 (R.KNL_SN_LOAD3.at 0)
    ∧ (tm State.reset fun x => { x with snLoad := some (5, 256) }).time.tick < 256 ∧ (tm State.reset fun x => { x with snLoad := some (5, 256), tick := 256 }).mode = 0 := by
  unfold State.room State.writes; decide +kernel
theorem test_load_of_the_count : nextIs (exec .snLoadEffect (tm State.reset fun x => { x with snLoad := some (5, 256), tick := 256 })) (fun t => t.time.sn == 5#96) = true := by decide +kernel
theorem witness_handover :
    let h := fun (m : Nat) (a : Armed) => tm (State.reset.set R.KNL_TIME_MODE_MODE 0 m) fun x => { x with armed := some (a, 256), tick := 256 }
    (h 0 (.toLc 0)).time.armed = some (.toLc 0, 256) ∧ 256 ≤ (h 0 (.toLc 0)).time.tick ∧ (h 1 .toTest).inLc = true ∧ (h 1 .toRecovery).inLc = true
    ∧ (tm (h 0 .toTest) fun x => { x with tick := 255 }).time.tick < 256 ∧ State.reset.time.armed = none ∧ inLc.time.armed = none := by decide +kernel
theorem test_recovery_seeds_the_count : nextIs (exec .handoverTick (tm inLc fun x => { x with armed := some (.toRecovery, 0), lc := 3 * 2 ^ 48 })) (fun t =>
    t.mode == 2 && t.time.sn == (3 : Time) * (0x1000000000000 : Time)) = true := by decide +kernel
theorem witness_leap :
    let l := fun (k : Nat) (a : Nat) => tm State.reset fun x => { x with leap := some { kind := k, at_ := a } }
    State.reset.time.leap = none ∧ (l 1 7).rtSec < 7 ∧ (l 1 0).rtSec ≥ 0 ∧ (l 2 0).time.leap = some { kind := 2, at_ := 0 } := by decide +kernel
theorem test_leap_second_inserted : nextIs (exec .leapSecondEvent (tm (State.reset.set R.KNL_UTC_UTC_OFFSET 0 37) fun x => { x with leap := some { kind := 1, at_ := 0 } })) (fun t =>
    t.get R.KNL_UTC_UTC_OFFSET == 38 && t.get R.KNL_TIME_STAT_LEAP_DONE == 1 && t.time.leap.isNone) = true := by decide +kernel
theorem witness_boundary :
    let b := tm inLc fun x => { x with lc := 2 ^ 48 }
    let g : State := { (b.setFlag R.BRC_STAT_PARTNER_SERVING 0 true) with knl := { KnlSt.reset with guardFail := true } }
    b.time.running = true ∧ b.time.prevSec < b.rtSec ∧ State.reset.time.running = false ∧ inLc.rtSec ≤ inLc.time.prevSec
    ∧ g.flag R.BRC_STAT_PARTNER_SERVING = true ∧ g.knl.guardFail = true ∧ ({ State.reset with knl := { KnlSt.reset with sealPend := true } } : State).knl.sealPend = true := by decide +kernel
theorem witness_reported_time : (inLc.set R.ENG_STAT_STATE 3 3).inLc = true ∧ (inLc.set R.ENG_STAT_STATE 3 3).ready 3 := by unfold State.ready; decide +kernel
theorem test_reported_time : (tm inLc fun x => { x with lc := 3 * 2 ^ 48, cset := { ofs := 2 ^ 48, anchor := 2 ^ 48, rate := 2 ^ 32 } }).rt = 0x3000000020000#96 := by decide +kernel
theorem witness_sn_count : (tm State.reset fun x => { x with running := true }).inLc = false
    ∧ (tm State.reset fun x => { x with running := true, sn := 0x3B9AC9FFFFFF }).time.sn.toNat % 2 ^ 48 + 54613 ≥ 1000000000 * 2 ^ 16 := by decide +kernel

/-! ### Registers -/

theorem witness_register_reads : State.reset.answers pf0 = true ∧ State.reset.rights pf0 0x1000000 ≠ .unmapped ∧ readGroup 0x1000000 = none ∧ State.reset.engMem pf0 0x1000000 = none
    ∧ readGroup 0x1002010 = some (0x1002010, 6) ∧ readGroup 0x100201C = some (0x1002010, 6)
    ∧ State.reset.rights pf0 0x1002010 ≠ .unmapped ∧ State.reset.rights pf0 0x100201C ≠ .unmapped ∧ State.reset.answers (.pf 1) = true ∧ State.reset.rights (.pf 1) 0x1000000 = .unmapped
    ∧ ({ State.reset with pwr := { State.reset.pwr with power := .off } } : State).answers pf0 = false := by decide +kernel
theorem test_identity_reads : nextIs (exec (.multiwordLatchRead pf0 (R.HST_CNT_UNMAPPED.at 0)) State.reset) (fun t => t.answer == .data 0) = true
    ∧ nextIs (exec (.multiwordLatchRead pf0 2) State.reset) (fun t => t.answer == .error) = true := by decide +kernel
theorem witness_register_writes : State.reset.writeMask pf0 (R.HST_CNT_UNMAPPED.at 0) = 0 ∧ State.reset.rights pf0 (R.HST_CNT_UNMAPPED.at 0) ≠ .unmapped
    ∧ State.reset.engMem pf0 (R.HST_CNT_UNMAPPED.at 0) = none ∧ State.reset.writeMask (.pf 1) (R.SRV_STAT.at 0) = 0 ∧ rowsAt (R.SRV_STAT.at 0) ≠ []
    ∧ State.reset.writes pf0 (R.HST_VEC_HOLDOFF.at 3) ∧ State.reset.writes pf0 (R.HST_EVT.at 0) := by unfold State.writes; decide +kernel
theorem witness_held_words : writeGroup 0x1002080 = some (0x1002080, 4) ∧ State.reset.writeMask pf0 0x1002080 ≠ 0 ∧ State.reset.rights pf0 0x1002080 ≠ .unmapped
    ∧ State.reset.engMem pf0 0x1002080 = none ∧ enableAt 0x1002080 = none ∧ R.PRT_CFG_ENABLE.hit 64 0x1002080 = none
    ∧ rowsAt 0x500FFC = [] ∧ State.reset.rights pf0 0x500FFC ≠ .unmapped ∧ State.reset.engMem pf0 0x500FFC = none ∧ readGroup 0x500FFC = none := by decide +kernel
theorem test_readonly_write_of_pf2 : nextIs (exec (.hostRoWrite 2 (R.SRV_STAT.at 0) 1) State.reset) (fun t => t.get R.HST_CNT_ROWRITE == 1 && (t.get R.HST_EVT).testBit 5) = true := by
  decide +kernel

/-! ### Mailbox, K-pair, log -/

/-- Buffer 0 in a state, claimed by PF0. -/
def mb0 (st : Nat) : State := (State.reset.setMbState 0 st).setMbOwner 0 (some pf0)
theorem witness_mailbox_buffers : State.reset.answers pf0 = true ∧ State.reset.rights pf0 R.KNL_MBX_CLAIM.addr ≠ .unmapped ∧ mayClaim pf0 = true ∧ State.reset.mbState 0 = 0
    ∧ (mb0 1).mbState 0 = 1 ∧ (mb0 1).mbState 1 = 0 ∧ mayClaim (.pf 1) = false ∧ (mb0 1).writes pf0 (R.KNL_MBX_GO.at 0) ∧ (mb0 1).mbOwner 0 = some pf0
    ∧ (mb0 4).mbState 0 = 4 ∧ (mb0 4).writes pf0 (R.KNL_MBX_REL.at 0) ∧ (mb0 2).writes pf0 (R.KNL_MBX_GO.at 0) ∧ (mb0 2).mbState 0 ≠ 1
    ∧ (State.reset.setFlag R.KNL_MBX_STAT_AUTH_LOCK 0 true).flag R.KNL_MBX_STAT_AUTH_LOCK = true := by unfold State.writes; decide +kernel
/-- Buffer 0 QUEUED with a command of slot 0: OPCODE, PAYLOAD_LEN, COUNTER 1 and payload, without a tag, in a life cycle. -/
def queued (lc op : Nat) (payload : List Byte) : State :=
  let b := leBytes 2 op ++ leBytes 2 payload.length ++ leBytes 4 0 ++ leBytes 8 1 ++ payload
  let s := ((mb0 2).set R.SEC_STATE_LC 0 lc).setWordsN (mbAddr 0) (ofLe b) ((b.length + 3) / 4)
  { s with knl := { s.knl with order := [0] } }
theorem witness_open_commands : (queued 1 0 []).knl.order.head? = some 0 ∧ (queued 1 0 []).saveRuns = false ∧ leAt ((queued 1 0 []).mbBytes 0) 0 1 = 0
    ∧ leAt ((queued 1 0 []).mbBytes 0) 2 2 = 0 ∧ leAt ((queued 1 1 (List.replicate 5 1)).mbBytes 0) 2 2 = 5 ∧ (queued 1 1 []).get R.SEC_STATE_LC = 1
    ∧ 0x40000 < leAt (slice ((queued 1 1 [0, 0, 4, 0, 1]).mbBytes 0) 0x10 5) 0 4 + 1
    ∧ leAt ((queued 1 2 (List.replicate 32 0)).mbBytes 0) 2 2 = 32 ∧ knownOp (leAt ((queued 1 0x77 []).mbBytes 0) 0 1) = false := by decide +kernel
theorem witness_failed_checks : ([0, 1, 2, 0x10, 0x11, 0x12, 0x13, 0x20, 0x21, 0x30, 0x31, 0x32, 0x33].all fun op =>
    ((queued 1 op [1, 2]).mbChecks 0).1 == 9 && ((queued 1 op [1, 2]).mbCmd 0).op == op) = true := by decide +kernel
/-- The words of a buffer as the register list holds them. -/
def bufWords (r : List (Nat × Word)) (a : Nat) : Nat → Nat
  | 0 => 0
  | n + 1 => ((sget r a).getD 0).toNat + 2 ^ 32 * bufWords r (a + 4) n
theorem wordsN_buf (s : State) : ∀ (n a : Nat), ((List.range n).all fun i => rwsOff (a + 4 * i) == none && coldWord (a + 4 * i) == 0) = true →
    s.wordsN a n = bufWords s.regs a n
  | 0, _, _ => rfl
  | n + 1, a, h => by
    simp only [List.all_eq_true, List.mem_range, Bool.and_eq_true, beq_iff_eq] at h
    have h0 := h 0 (by omega)
    have ih := wordsN_buf s n (a + 4) (by
      simp only [List.all_eq_true, List.mem_range, Bool.and_eq_true, beq_iff_eq]
      intro i hi
      have := h (i + 1) (by omega)
      rwa [show a + 4 * (i + 1) = a + 4 + 4 * i by omega] at this)
    simp only [Nat.mul_zero, Nat.add_zero] at h0
    simp only [State.wordsN, bufWords, ih, State.word, h0.1, h0.2]
theorem buffer_cold : ((List.range 256).all fun i => rwsOff (mbAddr 0 + 4 * i) == none && coldWord (mbAddr 0 + 4 * i) == 0) = true := by decide +kernel
/-- The bytes of buffer 0 from a register list. -/
def bufBytes (r : List (Nat × Word)) : List Byte := leBytes 1024 (bufWords r (mbAddr 0) 256)
theorem mbBytes_buf (s : State) : s.mbBytes 0 = bufBytes s.regs := by unfold State.mbBytes bufBytes; rw [wordsN_buf s 256 _ buffer_cold]
/-- The command at the front with these registers, sent by PF0, and a copy in slot 0. -/
def signed (r : List (Nat × Word)) (c : SlotCopy) : State :=
  { State.reset with regs := r, knl := { KnlSt.reset with order := [0], owner := KnlSt.reset.owner.set 0 (some pf0) },
                     sec := { SecSt.factory with slotA := SecSt.factory.slotA.set 0 (some c) } }
/-- A copy for KNL-MET. -/
def met : SlotCopy := { value := 0, attr := 0x10705, gen := 1, tag := 0xcc033ce9de3383cf659061429767123a }
/-- A copy for KNL-TIME. -/
def knt : SlotCopy := { value := 0, attr := 0x10709, gen := 1, tag := 0x4853ffd843ffc4ab3094c111efee028a }
theorem met_tag : met.tag = State.reset.slotTag 0 met := by decide +kernel
theorem knt_tag : knt.tag = State.reset.slotTag 0 knt := by decide +kernel
/-- The state after the checks of R65 with the key of slot 0. -/
def passed (s : State) (c : SlotCopy) : State :=
  let u := (((s.set R.SEC_WKR_STAT_LAST_SLOT 0 0).set R.SEC_WKR_STAT_LAST_CONS 0 0).set R.SEC_WKR_STAT_LAST_RESULT 0 0).bump R.SEC_WKR_CNT_LOADS
  { u with sec := { u.sec with verKey := some { key := c.value, slot := 0, id := 0 } } }
/-- A slot's tag rests on DEV_ID and the root secret alone. -/
theorem slotTag_devId {s t : State} (k : Nat) (c : SlotCopy) (h : s.get R.SEC_ID = t.get R.SEC_ID) (h' : s.sec.rootSecret = t.sec.rootSecret) : s.slotTag k c = t.slotTag k c := by
  simp [State.slotTag, State.rootKey, State.devId, h, h']
/-- A load of slot 0 whose copy A is sound. -/
theorem wkr_pass {s : State} {cons : Nat} {uses : List Nat} {req : Option Master} {ctx : List Byte} {c : SlotCopy} (hA : s.sec.slotA[(0 : Fin 32)] = some c)
    (hB : s.sec.slotB[(0 : Fin 32)] = none) (ht : c.tag = s.slotTag 0 c) (hr : s.wkrRefuse 0 (some c) uses req = 0) :
    s.wkrLoad cons uses 0 req ctx = (some { key := c.value, slot := 0, id := BitVec.ofNat 32 (ofBe ctx) },
      (((s.set R.SEC_WKR_STAT_LAST_SLOT 0 0).set R.SEC_WKR_STAT_LAST_CONS 0 cons).set R.SEC_WKR_STAT_LAST_RESULT 0 0).bump R.SEC_WKR_CNT_LOADS) := by
  have hc : s.slotCheck1 0 = (false, s) := by simp [State.slotCheck1, State.copyOk, hA, hB, ht.symm]
  have hi : s.slotInForce 0 = some c := by simp [State.slotInForce, State.copyOk, hA, hB, ht.symm]
  unfold State.wkrLoad
  simp only [hc, Bool.false_eq_true, if_false, hi, hr, ne_eq, not_true, State.deriveKey, if_true]
  rfl
/-- The checks of R65 pass. -/
theorem mbChecks_pass {s : State} {b : Fin 4} {use : Nat} {c : SlotCopy} (hA : s.sec.slotA[(0 : Fin 32)] = some c) (hB : s.sec.slotB[(0 : Fin 32)] = none)
    (ht : c.tag = s.slotTag 0 c)
    (h : (mbLenOk (leAt (s.mbBytes b) 0 1) (leAt (s.mbBytes b) 2 2) && s.mbAccepted (leAt (s.mbBytes b) 0 1) && mbUse (leAt (s.mbBytes b) 0 1) == some use
      && !s.flag R.KNL_MBX_STAT_AUTH_LOCK && leAt (s.mbBytes b) 1 1 % 32 == 0 && s.wkrRefuse 0 (some c) [use] (s.mbOwner b) == 0
      && !(decide (leAt (s.mbBytes b) 8 8 ≤ (passed s c).get R.KNL_MBX_CMD_CNT))) = true)
    (hm : hmac256 (digestBytes c.value) ((passed s c).devId ++ slice (s.mbBytes b) 0 16 ++ slice (s.mbBytes b) 0x10 (leAt (s.mbBytes b) 2 2)) = slice (s.mbBytes b) 0x390 32) :
    s.mbChecks b = (0, passed s c) := by
  simp only [Bool.and_eq_true, Bool.not_eq_true', beq_iff_eq, decide_eq_false_iff_not] at h
  obtain ⟨⟨⟨⟨⟨⟨h1, h2⟩, h3⟩, h4⟩, h5⟩, h6⟩, h7⟩ := h
  have hw : s.wkrLoad 0 [use] 0 (s.mbOwner b) [] = (some { key := c.value, slot := 0, id := 0 },
      (((s.set R.SEC_WKR_STAT_LAST_SLOT 0 0).set R.SEC_WKR_STAT_LAST_CONS 0 0).set R.SEC_WKR_STAT_LAST_RESULT 0 0).bump R.SEC_WKR_CNT_LOADS) := wkr_pass hA hB ht h6
  unfold State.mbChecks
  have h0 : (⟨0, by decide⟩ : Fin 32) = 0 := rfl
  simp only [h1, h2, h3, h4, h5, Bool.not_true, Bool.false_eq_true, if_false, h0, hw]
  rw [if_neg (by simpa [passed] using hm), if_neg (by simpa [passed] using h7)]
  rfl
/-- The same, from a list of conditions that can be evaluated. -/
theorem passes {s : State} (use : Nat) {c : SlotCopy} (ht : c.tag = State.reset.slotTag 0 c)
    (h0 : (s.get R.SEC_ID == State.reset.get R.SEC_ID && s.sec.rootSecret == State.reset.sec.rootSecret && s.sec.slotA[(0 : Fin 32)] == some c
      && s.sec.slotB[(0 : Fin 32)] == none) = true)
    (h : (mbLenOk (leAt (bufBytes s.regs) 0 1) (leAt (bufBytes s.regs) 2 2) && s.mbAccepted (leAt (bufBytes s.regs) 0 1) && mbUse (leAt (bufBytes s.regs) 0 1) == some use
      && !s.flag R.KNL_MBX_STAT_AUTH_LOCK && leAt (bufBytes s.regs) 1 1 % 32 == 0 && s.wkrRefuse 0 (some c) [use] (s.mbOwner 0) == 0
      && !(decide (leAt (bufBytes s.regs) 8 8 ≤ (passed s c).get R.KNL_MBX_CMD_CNT))) = true)
    (hm : hmac256 (digestBytes c.value) ((passed s c).devId ++ slice (bufBytes s.regs) 0 16 ++ slice (bufBytes s.regs) 0x10 (leAt (bufBytes s.regs) 2 2)) = slice (bufBytes s.regs) 0x390 32) :
    s.mbChecks 0 = (0, passed s c) := by
  simp only [Bool.and_eq_true, beq_iff_eq] at h0
  obtain ⟨⟨⟨a, b⟩, c'⟩, d⟩ := h0
  exact mbChecks_pass c' d (ht.trans (slotTag_devId 0 c a b).symm) (by rw [mbBytes_buf]; exact h) (by rw [mbBytes_buf]; exact hm)
/-- The latency block of PHY 0 in mode 0: word 0x18 is 1, and word 0x20 has 1 in its high half. -/
def latency : List Byte := List.replicate 0x18 0 ++ [1, 0, 0, 0, 0, 0, 0, 0, 0, 0, 1, 0] ++ List.replicate 12 0
/-- SHA-256 of nothing. -/
def emptyHash : List Byte := beBytes 32 0xe3b0c44298fc1c149afbf4c8996fb92427ae41e4649b934ca495991b7852b855
def cmd_set_param : State := signed [(0x100010, 0x3), (0x1000204, 0x2), (0x1000400, 0x80010), (0x1000408, 0x1), (0x1000790, 0x623c0146), (0x1000794, 0x980fc763), (0x1000798, 0x3be4e428), (0x100079c, 0xfe453da2), (0x10007a0, 0xf0550034), (0x10007a4, 0xa0be91f2), (0x10007a8, 0xbbf96adb), (0x10007ac, 0x8df46017)] met
theorem witness_cmd_set_param : ∃ u, cmd_set_param.mbChecks 0 = (0, u) ∧ cmd_set_param.knl.order.head? = some 0 ∧ cmd_set_param.saveRuns = false ∧ u.room 1 ∧ u.paramCheck (paramPairs 110 (List.replicate 8 0)) = 0 :=
  ⟨_, passes useKnlMet met_tag (by decide +kernel) (by decide +kernel) (by decide +kernel), by unfold State.room; decide +kernel⟩
def cmd_set_param_range : State := signed [(0x100010, 0x3), (0x1000204, 0x2), (0x1000400, 0x80010), (0x1000408, 0x1), (0x1000410, 0x1), (0x1000790, 0x408673eb), (0x1000794, 0x1d4c8756), (0x1000798, 0xea711ab9), (0x100079c, 0x644f466b), (0x10007a0, 0xe7b4cf09), (0x10007a4, 0x6fc9324d), (0x10007a8, 0x53b626b4), (0x10007ac, 0xf05db88c)] met
theorem witness_cmd_set_param_range : ∃ u, cmd_set_param_range.mbChecks 0 = (0, u) ∧ cmd_set_param_range.knl.order.head? = some 0 ∧ cmd_set_param_range.saveRuns = false ∧ u.room 1 ∧ u.paramCheck (paramPairs 110 [1, 0, 0, 0, 0, 0, 0, 0]) ≠ 0 :=
  ⟨_, passes useKnlMet met_tag (by decide +kernel) (by decide +kernel) (by decide +kernel), by unfold State.room; decide +kernel⟩
def cmd_set_latency : State := signed [(0x100010, 0x3), (0x1000204, 0x2), (0x1000400, 0x300011), (0x1000408, 0x1), (0x1000428, 0x1), (0x1000430, 0x10000), (0x1000790, 0xa5cc7f6e), (0x1000794, 0xa4415e6c), (0x1000798, 0xa89db844), (0x100079c, 0x4370ad7b), (0x10007a0, 0x7e0841e4), (0x10007a4, 0x4861dbc6), (0x10007a8, 0x77e7c8e1), (0x10007ac, 0x2ff38304)] met
theorem witness_cmd_set_latency : ∃ u, cmd_set_latency.mbChecks 0 = (0, u) ∧ cmd_set_latency.knl.order.head? = some 0 ∧ cmd_set_latency.saveRuns = false ∧ u.room 1 ∧ (List.range 12).all (fun i => latWordOk 0 (leAt latency 1 1) (leAt latency 2 1) (4 * i) (leAt latency (4 * i) 4)) = true :=
  ⟨_, passes useKnlMet met_tag (by decide +kernel) (by decide +kernel) (by decide +kernel), by unfold State.room; decide +kernel⟩
def cmd_commit_fw : State := signed [(0x100010, 0x3), (0x1000204, 0x2), (0x1000400, 0x240012), (0x1000408, 0x1), (0x1000410, 0x42c4b0e3), (0x1000414, 0x141cfc98), (0x1000418, 0xc8f4fb9a), (0x100041c, 0x24b96f99), (0x1000420, 0xe441ae27), (0x1000424, 0x4c939b64), (0x1000428, 0x1b9995a4), (0x100042c, 0x55b85278), (0x1000790, 0xecb2f05f), (0x1000794, 0xa1d73f21), (0x1000798, 0x7da23856), (0x100079c, 0x5b21d629), (0x10007a0, 0x3d5f55e7), (0x10007a4, 0xccbf904f), (0x10007a8, 0xea076b65), (0x10007ac, 0x70e57e2b)] met
theorem witness_cmd_commit_fw : ∃ u, cmd_commit_fw.mbChecks 0 = (0, u) ∧ cmd_commit_fw.knl.order.head? = some 0 ∧ cmd_commit_fw.saveRuns = false ∧ u.room 1 ∧ slice (emptyHash ++ [0, 0, 0, 0]) 0 32 = sha256 (u.staged 0) :=
  ⟨_, passes useKnlMet met_tag (by decide +kernel) (by decide +kernel) (by decide +kernel), by unfold State.room; decide +kernel⟩
def cmd_commit_fw_hash : State := signed [(0x100010, 0x3), (0x1000204, 0x2), (0x1000400, 0x240012), (0x1000408, 0x1), (0x1000790, 0x55b090cb), (0x1000794, 0x507f8904), (0x1000798, 0x2d5765b0), (0x100079c, 0xd08a0563), (0x10007a0, 0xe27cedfd), (0x10007a4, 0xa6820ac7), (0x10007a8, 0xfe8a6591), (0x10007ac, 0x84f6bfb1)] met
theorem witness_cmd_commit_fw_hash : ∃ u, cmd_commit_fw_hash.mbChecks 0 = (0, u) ∧ cmd_commit_fw_hash.knl.order.head? = some 0 ∧ cmd_commit_fw_hash.saveRuns = false ∧ u.room 1 ∧ slice (List.replicate 36 0) 0 32 ≠ sha256 (u.staged 0) :=
  ⟨_, passes useKnlMet met_tag (by decide +kernel) (by decide +kernel) (by decide +kernel), by unfold State.room; decide +kernel⟩
def cmd_commit_param : State := signed [(0x100010, 0x3), (0x1000204, 0x2), (0x1000400, 0x240013), (0x1000408, 0x1), (0x1000410, 0x42c4b0e3), (0x1000414, 0x141cfc98), (0x1000418, 0xc8f4fb9a), (0x100041c, 0x24b96f99), (0x1000420, 0xe441ae27), (0x1000424, 0x4c939b64), (0x1000428, 0x1b9995a4), (0x100042c, 0x55b85278), (0x1000790, 0x450ee4f2), (0x1000794, 0x1bcf0d04), (0x1000798, 0x338555d5), (0x100079c, 0x1ad6724a), (0x10007a0, 0xcf4391af), (0x10007a4, 0x50eece5), (0x10007a8, 0x5411e102), (0x10007ac, 0x18df5abc)] met
theorem witness_cmd_commit_param : ∃ u, cmd_commit_param.mbChecks 0 = (0, u) ∧ cmd_commit_param.knl.order.head? = some 0 ∧ cmd_commit_param.saveRuns = false ∧ u.room 1 ∧ u.lcIncOk = true ∧ slice (emptyHash ++ [0, 0, 0, 0]) 0 32 = sha256 (u.staged 0) :=
  ⟨_, passes useKnlMet met_tag (by decide +kernel) (by decide +kernel) (by decide +kernel), by unfold State.room; decide +kernel⟩
def cmd_commit_param_hash : State := signed [(0x100010, 0x3), (0x1000204, 0x2), (0x1000400, 0x240013), (0x1000408, 0x1), (0x1000790, 0xd6dd3ba2), (0x1000794, 0x8454d8ff), (0x1000798, 0x3f98cf85), (0x100079c, 0x1644c8cf), (0x10007a0, 0x2589d30c), (0x10007a4, 0xdf8c815), (0x10007a8, 0xb800c220), (0x10007ac, 0x5d0af7b5)] met
theorem witness_cmd_commit_param_hash : ∃ u, cmd_commit_param_hash.mbChecks 0 = (0, u) ∧ cmd_commit_param_hash.knl.order.head? = some 0 ∧ cmd_commit_param_hash.saveRuns = false ∧ u.room 1 ∧ u.lcIncOk = true ∧ slice (List.replicate 36 0) 0 32 ≠ sha256 (u.staged 0) :=
  ⟨_, passes useKnlMet met_tag (by decide +kernel) (by decide +kernel) (by decide +kernel), by unfold State.room; decide +kernel⟩
def cmd_seal : State := signed [(0x1000204, 0x2), (0x1000400, 0x400020), (0x1000408, 0x1), (0x1000790, 0xdfdb749a), (0x1000794, 0x49097e4c), (0x1000798, 0xf2a19eb6), (0x100079c, 0x60ffa180), (0x10007a0, 0xd120f660), (0x10007a4, 0xbb1ad336), (0x10007a8, 0x6493e8b0), (0x10007ac, 0xdae9daea)] met
theorem witness_cmd_seal : ∃ u, cmd_seal.mbChecks 0 = (0, u) ∧ cmd_seal.knl.order.head? = some 0 ∧ cmd_seal.saveRuns = false ∧ u.room 1 ∧ u.get R.KNL_MEAS = 0 ∧ u.get R.KNL_PARAM_HASH = 0 ∧ u.sec.sealFuses < 512 :=
  ⟨_, passes useKnlMet met_tag (by decide +kernel) (by decide +kernel) (by decide +kernel), by unfold State.room; decide +kernel⟩
def cmd_seal_hash : State := signed [(0x1000204, 0x2), (0x1000400, 0x400020), (0x1000408, 0x1), (0x1000410, 0x1), (0x1000790, 0x8cbc0d2b), (0x1000794, 0x9b11698f), (0x1000798, 0x71e2aa2b), (0x100079c, 0xb2ecf908), (0x10007a0, 0x80e293f9), (0x10007a4, 0x552ff929), (0x10007a8, 0x90908218), (0x10007ac, 0x17dccd1e)] met
theorem witness_cmd_seal_hash : ∃ u, cmd_seal_hash.mbChecks 0 = (0, u) ∧ cmd_seal_hash.knl.order.head? = some 0 ∧ cmd_seal_hash.saveRuns = false ∧ u.room 1 ∧ leAt (1 :: List.replicate 63 0) 0 32 ≠ u.get R.KNL_MEAS :=
  ⟨_, passes useKnlMet met_tag (by decide +kernel) (by decide +kernel) (by decide +kernel), by unfold State.room; decide +kernel⟩
def cmd_unseal : State := signed [(0x100010, 0x2), (0x1000204, 0x2), (0x1000400, 0x21), (0x1000408, 0x1), (0x1000790, 0xeaf294c2), (0x1000794, 0xfedf951a), (0x1000798, 0xf42484e1), (0x100079c, 0x90e4dfa7), (0x10007a0, 0x2192c5c5), (0x10007a4, 0x6ea8f998), (0x10007a8, 0x39c42f4e), (0x10007ac, 0xaedcd429)] met
theorem witness_cmd_unseal : ∃ u, cmd_unseal.mbChecks 0 = (0, u) ∧ cmd_unseal.knl.order.head? = some 0 ∧ cmd_unseal.saveRuns = false ∧ u.room 1 ∧ True :=
  ⟨_, passes useKnlMet met_tag (by decide +kernel) (by decide +kernel) (by decide +kernel), by unfold State.room; decide +kernel⟩
def cmd_step : State := signed [(0x1000204, 0x2), (0x1000400, 0x120030), (0x1000408, 0x1), (0x1000410, 0x1010101), (0x1000414, 0x1010101), (0x1000418, 0x1010101), (0x100041c, 0x1010101), (0x1000420, 0x101), (0x1000790, 0x547def0), (0x1000794, 0xfceeb8e5), (0x1000798, 0x89c523b9), (0x100079c, 0x1d09acd6), (0x10007a0, 0x336c6f7d), (0x10007a4, 0xf00632b), (0x10007a8, 0x1a3d208f), (0x10007ac, 0xdd27a0fa), (0x1002000, 0x2)] knt
theorem witness_cmd_step : ∃ u, cmd_step.mbChecks 0 = (0, u) ∧ cmd_step.knl.order.head? = some 0 ∧ cmd_step.saveRuns = false ∧ u.room 1 ∧ u.time.armed = none ∧ u.mode ≠ 0 ∧ leAt (List.replicate 18 1) 0 12 ≠ 0 ∧ u.rt.toNat ≤ leAt (List.replicate 18 1) 12 6 * 2 ^ 48 :=
  ⟨_, passes useKnlTime knt_tag (by decide +kernel) (by decide +kernel) (by decide +kernel), by unfold State.room; decide +kernel⟩
def cmd_utc : State := signed [(0x1000204, 0x2), (0x1000400, 0xa0031), (0x1000408, 0x1), (0x1000790, 0x72273bfb), (0x1000794, 0xf8ec6690), (0x1000798, 0xa9695416), (0x100079c, 0xe1ae9387), (0x10007a0, 0xa626563b), (0x10007a4, 0xb2064f7d), (0x10007a8, 0xf91c7a52), (0x10007ac, 0x618423e5)] knt
theorem witness_cmd_utc : ∃ u, cmd_utc.mbChecks 0 = (0, u) ∧ cmd_utc.knl.order.head? = some 0 ∧ cmd_utc.saveRuns = false ∧ u.room 1 ∧ u.time.utcGnss = none :=
  ⟨_, passes useKnlTime knt_tag (by decide +kernel) (by decide +kernel) (by decide +kernel), by unfold State.room; decide +kernel⟩
def cmd_test_mode : State := signed [(0x1000204, 0x2), (0x1000400, 0x10032), (0x1000408, 0x1), (0x1000410, 0x1), (0x1000790, 0xa24facf1), (0x1000794, 0xf99479b6), (0x1000798, 0xbc83c115), (0x100079c, 0x862834c9), (0x10007a0, 0x4248f77e), (0x10007a4, 0xf87b66d4), (0x10007a8, 0x1ea4ede0), (0x10007ac, 0xc72da3df)] met
theorem witness_cmd_test_mode : ∃ u, cmd_test_mode.mbChecks 0 = (0, u) ∧ cmd_test_mode.knl.order.head? = some 0 ∧ cmd_test_mode.saveRuns = false ∧ u.room 1 ∧ u.time.armed = none ∧ u.mode ≠ 2 ∧ u.mode ≠ 3 :=
  ⟨_, passes useKnlMet met_tag (by decide +kernel) (by decide +kernel) (by decide +kernel), by unfold State.room; decide +kernel⟩
def cmd_kpair_select : State := signed [(0x1000100, 0x2), (0x1000204, 0x2), (0x1000400, 0x10033), (0x1000408, 0x1), (0x1000790, 0xa59973ab), (0x1000794, 0xefebc0b5), (0x1000798, 0xed9901ae), (0x100079c, 0x8e203833), (0x10007a0, 0x7f3f7b24), (0x10007a4, 0xb850918b), (0x10007a8, 0x90748655), (0x10007ac, 0xa560cbc)] knt
theorem witness_cmd_kpair_select : ∃ u, cmd_kpair_select.mbChecks 0 = (0, u) ∧ cmd_kpair_select.knl.order.head? = some 0 ∧ cmd_kpair_select.saveRuns = false ∧ u.room 1 ∧ leAt [0] 0 1 ≤ 1 :=
  ⟨_, passes useKnlTime knt_tag (by decide +kernel) (by decide +kernel) (by decide +kernel), by unfold State.room; decide +kernel⟩

/-- The record of a second. -/
def sec0 : SecRec := { second := 20, freq := 0, unsealed := false, leash := 0, selRef := 0, csetVer := 0, rate := 0, qual := 0, utcOffset := 0, leap := 0, temp := 0, stepped := false, jumped := false }
/-- The K-pair with a second closed. -/
def kp (d0 d1 : Option Digest) (f : KPair → KPair) : State := { State.reset with knl := { KnlSt.reset with pair := f { KPair.reset with second := some sec0, d0 := d0, d1 := d1 } } }
theorem witness_kernel_pair : agreed (some 1) (some 1) = true ∧ agreed (some 1) none = false ∧ (kp (some 1) (some 1) id).knl.pair.second = some sec0
    ∧ (kp (some 1) (some 1) id).frozen = false ∧ (kp (some 1) (some 1) id).knl.pair.settled = false ∧ (kp (some 1) (some 1) id).knl.pair.recomputing = false
    ∧ ((kp (some 1) (some 2) id).knl.pair.trial = none) ∧ (kp none none fun p => { p with settled := true }).knl.pair.settled = true := by decide +kernel
theorem witness_kernel_pair_frozen : let f := fun (n : Nat) => ((kp (some 1) (some 1) fun p => { p with resumeFrom := some 20 }).setFlag R.KNL_KPAIR_STAT_FROZEN 0 true).set R.KNL_KPAIR_STAT_RESUME_CNT 0 n
    (f 0).frozen = true ∧ (f 0).get R.KNL_KPAIR_STAT_RESUME_CNT + 1 < 10 ∧ 10 ≤ (f 9).get R.KNL_KPAIR_STAT_RESUME_CNT + 1 ∧ (f 9).room 1 ∧ (20 : Nat) ≤ sec0.second := by
  unfold State.room; decide +kernel
theorem witness_kernel_pair_recompute : let f := fun (b : Digest) => kp (some 1) (some b) fun p => { p with recomputing := true }
    (f 1).knl.pair.recomputing = true ∧ (f 1).mild fsKpairTransient ∧ (f 1).room 2 ∧ (f 2).mild fsKpairDisagree ∧ (f 2).room 2 := by
  unfold State.mild State.room; decide +kernel
theorem witness_kat_and_trial : let f := (kp none none fun p => { p with kat := true }).setFlag R.KNL_KPAIR_STAT_FROZEN 0 true
    let t := kp none none fun p => { p with trial := some 1 }
    f.frozen = true ∧ f.knl.pair.kat = true ∧ f.room 1 ∧ t.knl.pair.trial = some 1 ∧ t.room 1 ∧ (kp none none id).knl.pair.trial = none := by unfold State.room; decide +kernel

/-! ### References, oscillators, servo -/

/-- Reference `n` in a state, with its hidden state. -/
def ref (n : Fin 23) (st : Nat) (f : RefSt → RefSt) : State := (State.reset.set R.REF_STATE_STATE n st).setRef n (f RefSt.reset)
theorem witness_reference_edges :
    let s := fun (st : Nat) (on out : Option Nat) => ref 3 st fun r => { r with lastOn := on, outside := out }
    edgeRef 3 = true ∧ edgeRef 8 = false ∧ edgeRef 22 = false ∧ edgeRef 18 = true ∧ (s 0 none none).refState 3 = 0 ∧ (s 1 none none).refState 3 ≠ 0 ∧ ((s 1 none none).refSt 3).lastOn = none
    ∧ inWindow ((s 2 (some 0) none).get R.REF_NOM_FREQ 3) 0 (2 ^ 48) = true ∧ (s 2 (some 0) none).timeRef 3 = true
    ∧ inWindow ((s 2 (some 0) none).get R.REF_NOM_FREQ 3) 0 (2 ^ 47) = false ∧ ((s 2 (some 0) (some 5)).refSt 3).outside ≠ none
    ∧ (s 3 (some 0) (some 5)).get R.REF_STAT_SEL_REF ≠ 3 ∧ (s 3 (some 0) (some 5)).mild fsRefDisqualified ∧ (s 2 none none).mild fsRefLost := by
  unfold State.mild State.room; decide +kernel
theorem witness_narrow_and_silent : let s := ref 3 2 id
    100 * s.get R.REF_GLITCH_MIN_WIDTH 3 > 0 ∧ 100 * s.get R.REF_GLITCH_MIN_WIDTH 3 ≤ 100000 ∧ s.refOverdue 3 = true ∧ 2 ≤ s.refState 3
    ∧ (let u := tm (s.setRef 3 { RefSt.reset with lastEdge := 2 ^ 48 }) fun x => { x with running := true, lc := 2 ^ 48 }; u.refOverdue 3 = false) := by decide +kernel
theorem test_first_edge_qualifies : nextIs (exec (.refEdge 3 77 100000) (ref 3 1 id)) (fun t => t.refState 3 == 2 && (t.refSt 3).lastOn == some 77) = true := by decide +kernel
/-- Oscillator 1 in a state. -/
def osc (st : Nat) : State := State.reset.set R.OSC_STATE_STATE 1 st
theorem witness_oscillator_times : let s := osc 1
    let at_ := fun (l : Nat) => tm s fun x => { x with running := true, lc := BitVec.ofNat 96 l }
    (at_ 0).past 0 (10 * s.get R.OSC_CFG_WARMUP 1) = false ∧ (at_ (2 ^ 70)).past 0 (10 * s.get R.OSC_CFG_WARMUP 1) = true ∧ (at_ 0).past 0 60 = false ∧ (at_ (60 * 2 ^ 48)).past 0 60 = true
    ∧ (at_ 0).past 0 4 (s.oscFin 1) = false ∧ (at_ (2 ^ 48)).past 0 4 (s.oscFin 1) = true ∧ (at_ 0).past 0 5 = false ∧ (at_ (5 * 2 ^ 48)).past 0 5 = true := by decide +kernel
theorem witness_oscillators :
    let full := (((storeSet (storeSet (storeSet (osc 1) (R.OSC_SIGMA1.at 1) 1) (R.OSC_RWFM.at 1) 1) (R.OSC_AGE_BOUND.at 1) 1)) |> (storeSet · (R.OSC_TEMPCO_TEMPCO.at 1) 1))
    let on := storeSet (osc 0) (R.OSC_CFG_ENABLE.at 1) 0xFFFFFFFF
    on.flag R.OSC_CFG_ENABLE 1 = true ∧ on.oscState 1 = 0 ∧ (osc 2).oscState 1 ≠ 0 ∧ full.oscState 1 = 1 ∧ full.oscMissing 1 = false ∧ full.refs.ensYFromRef = false
    ∧ (∀ j : Fin 4, full.oscState j ≠ 2) ∧ (osc 1).oscMissing 1 = true ∧ (osc 3).oscState 1 = 3 ∧ on.flag R.OSC_CFG_TEMP_SRC 1 = true
    ∧ ((osc 0).refs.osc[(1 : Fin 5)]).stale = false ∧ (storeSet (osc 0) (R.OSC_CFG_ENABLE.at 1) 0).flag R.OSC_CFG_TEMP_SRC 1 = false := by decide +kernel
/-- A record at the inlet. -/
def inl (n : Fin 23) (st : Nat) (r : InRec) : State := { State.reset.set R.REF_STATE_STATE n st with knl := { KnlSt.reset with inlet := [r] } }
theorem witness_inlet : let r : InRec := { typ := 4, lc := 5, bytes := List.replicate 48 0 }
    let f := (inl 17 2 r).set R.KNL_KIN_WR_OFFSET 0 31744
    State.reset.knl.inlet = [] ∧ (inl 17 2 r).knl.inlet = [r] ∧ inletId r.typ r.bytes = some 17 ∧ (inl 17 2 r).refState 17 = 2 ∧ (inl 17 1 r).refState 17 = 1
    ∧ (inl 17 0 r).refState 17 = 0 ∧ (inl 17 2 r).get R.KNL_KIN_WR_OFFSET + (16 + (r.bytes.length + 15) / 16 * 16) ≤ 31744
    ∧ 31744 < f.get R.KNL_KIN_WR_OFFSET + (16 + (r.bytes.length + 15) / 16 * 16) ∧ State.reset.gnssRefused (List.replicate 0x2A 0 ++ [2, 0]) = true := by decide +kernel
/-- LC in force, with reference 3 selected, the servo in a state. -/
def srvo (st : Nat) (off : Int) : State :=
  (((inLc.set R.ENG_STAT_STATE 0 3).set R.REF_STAT_SERVO 0 st).set R.REF_STAT_SEL_REF 0 3).setRef 3 { RefSt.reset with samples := [{ tau := 0, lc := 0 }], offset := off, lastRt := 9 }
theorem witness_servo : (srvo 1 0).leadUp = true ∧ inLc.leadUp = false ∧ (srvo 1 0).refs.servoDone = false ∧ (srvo 1 0).termsLate = false ∧ (srvo 1 0).inLc = true ∧ (srvo 1 0).frozen = false ∧ (srvo 1 0).time.armed = none ∧ (srvo 1 0).knl.pair.held = false ∧ (srvo 1 0).servo = 1
    ∧ (srvo 2 0).servo = 2 ∧ (srvo 1 0).get R.REF_STAT_SEL_REF = 3 ∧ (srvo 1 0).correction 3 = some 0 ∧ ((srvo 1 (2 ^ 60)).correction 3).isSome = true
    ∧ (srvo 3 0).servo = 3 ∧ (srvo 0 0).servo = 0 ∧ State.reset.inLc = false := by decide +kernel
theorem test_servo_asks : nextIs (exec (.servoUpdate 0 [] []) (srvo 1 0)) (fun t => (t.time.fw.map fun u => (u.freq, u.phase)) == some (0#64, 0#64) && t.refs.servoDone) = true := by decide +kernel
theorem witness_first_time :
    let b : State := { State.reset with refs := { RefsSt.reset with boneSrc := some (State.reset.get R.CLK_STAT_KPLL_SRC) } }
    let two := (State.reset.set R.REF_STATE_STATE 3 2).setRef 3 { RefSt.reset with samples := [{ tau := 2 ^ 48, lc := 2 ^ 48 }, { tau := 0, lc := 0 }], lastRt := 9 }
    State.reset.refs.everQual = false ∧ b.refs.boneSrc = some (b.get R.CLK_STAT_KPLL_SRC) ∧ two.bootRef = some 3 ∧ (two.yt64 3 16).isSome = true ∧ (State.reset.set R.ENG_STAT_STATE 0 3).leadUp = true
    ∧ State.reset.refs.boneSrc ≠ some (State.reset.get R.CLK_STAT_KPLL_SRC) ∧ State.reset.mode = 0 ∧ State.reset.time.armed = none ∧ State.reset.frozen = false
    ∧ State.reset.lcIncPending = false ∧ State.reset.time.snLoad = none ∧ State.reset.timeQualified = false ∧ rateOk 0 = true
    ∧ ((two.set R.REF_STAT_SEL_REF 0 3).correction 3) = some 0 ∧ (two.set R.REF_STAT_SEL_REF 0 3).beyondJump 0 = false
    ∧ (two.set R.REF_STAT_SEL_REF 0 3).beyondJump (2 ^ 90) = true ∧ inLc.mode ≠ 0 := by decide +kernel

/-! ### Time-interval channels -/

/-- Channel 2 enabled, changed. -/
def td (f : TdcCh → TdcCh) : State :=
  let s := storeSet (State.reset.setFlag R.TIM_STAT_RNG_OK 0 true) (R.TIM_CFG_ENABLE.at 2) 1
  s.setTdc 2 (f (s.tdc 2))
theorem witness_edges :
    let on := td fun x => { x with tb := 0 }
    (storeSet State.reset (R.TIM_CFG_ENABLE.at 2) 0).flag R.TIM_CFG_ENABLE 2 = false ∧ on.flag R.TIM_CFG_ENABLE 2 = true ∧ (on.tdc 2).presCnt = 0 ∧ (on.tdc 2).divCnt = 0 ∧ (on.tdc 2).tb ≠ 1
    ∧ ((td id).tdc 2).tb = 1 ∧ ((td fun x => { x with presCnt := 1 }).tdc 2).presCnt ≠ 0 ∧ ((td fun x => { x with divCnt := 1 }).tdc 2).divCnt ≠ 0
    ∧ ((on.tdc 2).interp (on.measIb 2)).busyTill = 0 ∧ (on.tdc 2).admitted + (on.tdc 2).queue.length < 32 ∧ ((td fun x => { x with tb := 0, admitted := 32 }).tdc 2).admitted = 32
    ∧ ((td fun x => { x with tb := 0, queue := List.replicate 8 [] }).tdc 2).queue.length = 8 ∧ (on.tdc 2).queue = []
    ∧ ((td fun x => { x with queue := [[1]] }).tdc 2).queue = [[1]] ∧ on.get R.KNL_KIN_WR_OFFSET + 32 ≤ 31744
    ∧ 31744 < (on.set R.KNL_KIN_WR_OFFSET 0 31744).get R.KNL_KIN_WR_OFFSET + 32 := by decide +kernel
theorem test_edge_makes_a_record : nextIs (exec (.tdcEdge 2 false 1000 (List.replicate 16 5)) (td fun x => { x with tb := 0, seq := 65535 })) (fun t =>
    (t.tdc 2).queue.length == 1 && (t.tdc 2).seq == 0) = true := by decide +kernel
theorem witness_calibration :
    let busy := (td fun x => { x with ia := { x.ia with busyTill := 9 }, ib := { x.ib with busyTill := 9 } })
    let full := fun (h : List (Nat × Nat)) => (td fun x => { x with ia := { x.ia with total := 1048576, hist := h } })
    busy.time.lc.toNat < ((busy.tdc 2).interp (busy.measIb 2)).busyTill ∧ (((td id).tdc 2).interp ((td id).measIb 2)).busyTill ≤ (td id).time.lc.toNat
    ∧ (State.reset.setFlag R.TIM_STAT_RNG_OK 0 false).flag R.TIM_STAT_RNG_OK = false ∧ (td id).flag R.TIM_STAT_RNG_OK = true
    ∧ ((td fun x => { x with tb := 0 }).tdc 2).tb ≠ 1 ∧ ((List.replicate 16 7)[(2 : Fin 16).val]?) = some 7 ∧ ((td id).tdc 2).tb = 1
    ∧ (((td id).tdc 2).interp false).total < 1048576 ∧ (((full []).tdc 2).interp false).total = 1048576 ∧ calOk (full []).lcInc [] 1048576 = false := by decide +kernel
theorem witness_table : let x := td fun x => { x with ia := { x.ia with total := 1048576, hist := (List.range 256).map fun k => (k, 4096) } }
    1048576 ≤ ((x.tdc 2).interp false).total ∧ calOk x.lcInc ((x.tdc 2).interp false).hist 1048576 = true := by decide +kernel
theorem test_table_is_taken : nextIs (exec (.calTableComplete 2 false) (td fun x => { x with ia := { x.ia with total := 1048576, hist := (List.range 256).map fun k => (k, 4096) } })) (fun t =>
    ((t.tdc 2).interp false).ready && ((t.tdc 2).interp false).total == 0) = true := by decide +kernel
theorem witness_time_base :
    let all := fun (k : Nat) => { State.reset with tim := { TimSt.reset with ch := Vector.replicate 16 { TdcCh.reset with tb := k } } }
    ((all 0).tdc 3).tb ≠ 1 ∧ (∀ c, ((all 1).tdc c).tb = 1) ∧ (State.reset.setFlag R.CLK_STAT_XTAL_LOST 0 true).flag R.CLK_STAT_XTAL_LOST = true
    ∧ (all 0).flag R.CLK_STAT_XTAL_LOST = false ∧ ((all 3).tdc 3).tb = 3 := by decide +kernel

/-! ### GNSS -/

/-- The receiver enabled, MODE_ACT and RX_STATE as given, the Scout RUNNING, a strobe at millisecond 0 with set version 0. -/
def gn (act rx : Nat) : State :=
  let s := ((((((run 3).set R.SYN_STAT_BYPASS 0 0).setFlag R.GNS_CFG_ENABLE 0 true).setFlag R.GNS_STAT_CLK_OK 0 true).set R.GNS_STAT_MODE_ACT 0 act).set R.GNS_STAT_RX_STATE 0 rx).set R.PWR_GATE_STAT_GATED 0 0
  { s with gns := { s.gns with strobe := some (s.get R.GNS_CFG_BURST_PHASE, 0) } }
theorem witness_bursts :
    (gn 2 2).flag R.GNS_CFG_ENABLE = true ∧ State.reset.flag R.GNS_CFG_ENABLE = false ∧ (((gn 2 2).set R.PWR_GATE_STAT_GATED 0 0x100).gated 8 = true)
    ∧ ((gn 2 2).set R.PWR_GATE_STAT_GATED 0 0x100).gateInProg 8 = false ∧ (gn 2 2).gated 8 = false ∧ (gn 2 2).phaseStrobe.isSome = true ∧ (gn 2 2).mayBurst 2 = true
    ∧ (gn 1 2).mayBurst 2 = false ∧ State.reset.phaseStrobe = none ∧ ((gn 2 2).setFlag R.GNS_STAT_BURST_ACTIVE 0 true).flag R.GNS_STAT_BURST_ACTIVE = true
    ∧ (gn 2 2).flag R.GNS_STAT_BURST_ACTIVE = false ∧ ((gn 2 2).set R.CH_CFG_SVID 5 9).get R.CH_CFG_SVID 5 ≠ 0
    ∧ (gn 3 2).mayBurst 3 = true ∧ (gn 3 2).get R.GNS_SNAP_STAT ≠ 3 ∧ ((gn 3 2).set R.GNS_SNAP_STAT 0 3).get R.GNS_SNAP_STAT = 3
    ∧ (gn 2 2).flag R.GNS_STAT_CLK_OK = true ∧ State.reset.flag R.GNS_STAT_CLK_OK = false := by decide +kernel
theorem witness_gsi_clock : (State.reset.set R.SYN_STAT_BYPASS 0 0).gsiPll = true ∧ (State.reset.set R.SYN_STAT_BYPASS 0 0).flag R.GNS_STAT_CLK_OK = false ∧ (gn 2 2).scoutUp = true := by
  decide +kernel
theorem witness_burst_times : let b := (gn 2 2).setFlag R.GNS_STAT_BURST_ACTIVE 0 true
    (b.setGns { b.gns with dumps := 25 }).gns.dumps = 25 ∧ b.gns.cap = none ∧ b.gns.dumps < 25 ∧ b.gsiPll = true ∧ (gn 2 2).toPhase ≤ 1000
    ∧ ((gn 3 2).setGns { (gn 3 2).gns with cap := some (0, 0, true) }).gns.cap = some (0, 0, true) ∧ clips (List.replicate 4 0x88) = true ∧ snapClips [] = false := by decide +kernel
theorem test_burst_numbers : nextIs (exec .burstEnd (let b := (gn 2 2).setFlag R.GNS_STAT_BURST_ACTIVE 0 true; b.setGns { b.gns with dumps := 25 })) (fun t => t.get R.GNS_CNT_BURSTS == 1 && !t.flag R.GNS_STAT_BURST_ACTIVE) = true := by decide +kernel
theorem witness_scout : (gn 1 1).scoutUp = true ∧ (gn 1 1).rx = 1 ∧ (gn 1 1).get R.GNS_STAT_NSV_TRACK < (gn 1 1).get R.GNS_MASK_SOL_MIN_SV ∧ (gn 1 2).rx = 2 ∧ (gn 1 3).rx = 3 ∧ (gn 1 4).rx = 4
    ∧ State.reset.scoutUp = false ∧ (gn 1 2).gns.session = none ∧ ((gn 1 2).setFlag R.GNS_STAT_SURVEY 0 true).flag R.GNS_STAT_SURVEY = true
    ∧ ((gn 1 2).set R.CH_CFG_SVID 4 9).get R.CH_CFG_SVID 4 ≠ 0 ∧ State.reset.writes pf0 (R.GNS_SNAP_DONE_SLOT.at 0) ∧ State.reset.scoutUp = false
    ∧ (gn 1 2).writes pf0 (R.GNS_CTRL_RES_RELEASE.at 0) ∧ (gn 1 2).flag R.GNS_STAT_BURST_ACTIVE = false ∧ (gn 1 2).gateInProg 8 = false ∧ (gn 1 2).gateCond 8 = true
    ∧ (gn 1 2).gated 8 = false ∧ (gn 1 2).writes (.eng 3) (R.GNS_POS.at 0 + 4) ∧ (gn 1 2).holdw = [] := by unfold State.writes; decide +kernel
/-- Five satellites in view, C/N0 spread from 30 to 50 dB-Hz, and a solution of 1 ns. -/
def sats : List SatObs := [⟨0, 0, 1000, 300⟩, ⟨1, 0, 1000, 350⟩, ⟨2, 0, 1000, 400⟩, ⟨3, 0, 1000, 450⟩, ⟨4, 0, 1000, 500⟩]
def sol1 : Solution := { freq := 0, measPs := 1000, pathPs := 1000, pos := none, surveyMm := 100 }
theorem witness_solution :
    let s := ((gn 1 2).set R.GNS_POS_UNC 0 100).set R.GNS_MASK_SOL_MIN_SV 0 0
    let a := (s.setGns { s.gns with solSec := some s.rtSec }).acquire
    let seen := sats.filter fun x => a.get R.CH_CFG_SVID x.ch != 0
    let b := (a.trackStep seen).set R.GNS_STAT_NSV_TRACK 0 (Nat.min seen.length 24)
    let d := (((b.obsShow seen (weighted (b.residuals seen))).syncAuth).scoutStates seen).surveyStep sol1
    s.scoutUp = true ∧ s.flag R.GNS_CFG_ENABLE = true ∧ s.rx ≠ 0 ∧ s.gns.solSec ≠ some s.rtSec ∧ seen = [] ∧ d.solEpoch.isSome = true ∧ d.csetBreak 0 0 = false ∧ 2 ≤ d.rx
    ∧ s.get R.GNS_MASK_SOL_MIN_SV ≤ (d.satsUsed seen).length ∧ d.spoofChecks seen (weighted (b.residuals seen)) 0 = 0 ∧ s.gns.withheld = false ∧ s.knl.inlet.length < 64
    ∧ (State.setGns s { s.gns with solSec := some s.rtSec }).gns.solSec = some s.rtSec := by decide +kernel
/-- A chain whose newest key is that of GST 60, a tag of GST 30 under it, and a state in which the Scout reads navigation data. -/
def tesla1 : Tesla := { hf := 0, mf := 0, keyLen := 16, tagBits := 40, alpha := [], gst := 60, key := [1, 2] }
def tag1 (adkd tag : Nat) : OsnmaTag := { adkd := adkd, prnd := 9, iod := 7, gst := 30, ctr := 1, nmas := 1, nav := 5, tag := tag }
def osn : State := ((gn 1 2).set R.CH_CFG_SVID 4 9).setGns { (gn 1 2).gns with tesla := some tesla1, pub := some { kind := 1, id := 3, key := [] }
                                                                               orbits := [{ sv := 9, iod := 7, words := [], auth := false, heard := 0 }] }
theorem witness_osnma : osn.scoutUp = true ∧ osn.get R.CH_CFG_SVID 4 ≠ 0 ∧ osn.navRead = true ∧ osn.gns.tesla = some tesla1 ∧ osn.gns.pub = some { kind := 1, id := 3, key := [] }
    ∧ teslaKey tesla1 ((tag1 0 0).gst + 30) = some [1, 2] ∧ (osn.set R.LSH_CORE 0 0).timeUnc = 0 ∧ osn.gns.lostRoot ≠ some osn.merkleRoot
    ∧ ((osn.orbit 9).map (·.iod)) = some 7 ∧ ((gn 2 2).setGns { (gn 2 2).gns with lastSession := 0 }).navRead = true := by decide +kernel
theorem test_tags : teslaTagOk { tesla1 with tagBits := 0 } [1, 2] (tag1 0 0) 9 = true ∧ teslaTagOk { tesla1 with tagBits := 0 } [1, 2] (tag1 4 1) 9 = false := by decide +kernel
theorem witness_sessions : let s := gn 1 2
    let r := fun (q : Option Nat) => s.setGns { s.gns with session := q, survey := some ⟨0, 1, 0, 0, 0, 0⟩ }
    (s.hear []).1 = false ∧ s.gns.session = none ∧ (r (some 0)).gns.session = some 0 ∧ s.gns.lastSession + s.get R.GNS_TIMERS0_DATA_PERIOD > s.rtSec
    ∧ ((tm s fun x => { x with sn := 3601 * 2 ^ 48 }).rtSec = 3601) ∧ (gn 1 4).rx = 4 ∧ ((s.set R.CH_CFG_SVID 4 9).set R.CH_STAT_STATE 4 3).flag R.CH_STAT_AUTH 4 = false := by decide +kernel


/-! ### Ports and timed launch -/

/-- P3 with its link in a state, MODE_ACT 3 as after reset. -/
def port (st : Nat) : State := State.reset.set R.PRT_STAT_LINK_STATE 3 st
/-- Link 7, of P3, changed. -/
def lnk (s : State) (f : PortSt → PortSt) : State := s.setLink 7 (f (s.link 7))
/-- The queues of P3 changed. -/
def lq (s : State) (f : LchPort → LchPort) : State := s.setLport 3 (f (s.lport 3))
theorem witness_link_states :
    let fresh := (port 4).setFlag R.PRT_CFG_ENABLE 3 true
    let dn := (lnk (port 4) fun x => { x with shiftAge := some 60 })
    portOf 7 = some 3 ∧ attOf 3 = 7 ∧ portOf 2 = none ∧ ((State.reset.link 7).enabled = (State.reset.linkCfg 7).1 ∧ (State.reset.link 7).mode = (State.reset.linkCfg 7).2)
    ∧ (fresh.link 7).enabled ≠ (fresh.linkCfg 7).1 ∧ fresh.wireFree 7 = true ∧ (port 0).linkState 7 = 0 ∧ (port 1).linkState 7 = 1 ∧ (port 2).linkState 7 = 2 ∧ (port 3).linkState 7 = 3
    ∧ (port 4).linkState 7 = 4 ∧ (port 5).linkState 7 = 5 ∧ ((lnk (port 5) fun x => { x with shiftTo := some 2 }).link 7).shiftTo = some 2
    ∧ ((port 4).link 7).shiftAge = none ∧ (dn.link 7).shiftAge = some 60 ∧ ((port 4).lport 3).wire = none ∧ (port 4).flag R.PRT_STAT_DOWNSHIFTED 3 = false
    ∧ ((port 4).setFlag R.PRT_STAT_DOWNSHIFT_UNAVAIL 3 false).flag R.PRT_STAT_DOWNSHIFT_UNAVAIL 3 = false
    ∧ 0 < ((port 4).set R.PRT_SHIFT_CFG_DOWN_UTIL 3 1).get R.PRT_SHIFT_CFG_DOWN_UTIL 3 * 25000000 ∧ ((port 4).setFlag R.PRT_STAT_DOWNSHIFTED 3 true).flag R.PRT_STAT_DOWNSHIFTED 3 = true
    ∧ ((port 4).set R.PRT_SHIFT_CFG_UP_UTIL 3 1).get R.PRT_SHIFT_CFG_UP_UTIL 3 * 10000000 < 1000000000 * 100
    ∧ ((lnk (port 4) fun x => { x with shiftAge := some 59 }).link 7).shiftAge = some 59 := by decide +kernel
theorem test_settled_link_is_up : nextIs (exec (.linkSettleDone 7 9) (port 3)) (fun t => t.linkState 7 == 4 && t.tsReady 7 && t.get R.PRT_LANE_PHASE_PHASE 3 == 9) = true := by decide +kernel
theorem test_lost_link : nextIs (exec (.linkLoss 7) (port 4)) (fun t => t.linkState 7 == 1 && !t.tsReady 7 && (t.get R.PRT_EVT 3).testBit 1) = true := by decide +kernel
/-- P3 enabled and UP with a recalibration due, its table words as given. -/
def rec_ (st : Nat) : State :=
  let s := lnk ((port st).set R.PRT_RECAL_CFG_COVER 3 3) fun x => { x with enabled := true, recalWait := 10000000 }
  workSet (workSet (workSet s (s.tableOff 7 + 0x20) 0x10000) (s.tableOff 7 + 0x24) 0) (s.tableOff 7 + 0x28) 0
theorem witness_recalibration : let s := workSet State.reset 0xB00 100
    (rec_ 6).linkState 7 = 6 ∧ (rec_ 6).linkSkew 7 = false ∧ (rec_ 6).tab32 7 0x24 = 0 ∧ (rec_ 6).tab16 7 0x28 = 0 ∧ (rec_ 6).tab16 7 0x20 = 0
    ∧ ((rec_ 6).store ((rec_ 6).tableOff 7 + 0x20)).toNat / 65536 * 4096 = 4096 ∧ ((1 : Int) * 64).natAbs ≤ 4096 ∧ 4096 < ((1000 : Int) * 64).natAbs
    ∧ (rec_ 4).recalDue 7 = true ∧ (rec_ 4).linkState 7 = 4 ∧ (rec_ 1).linkState 7 = 1 ∧ (rec_ 4).inRecal (fun j => groupOf j == groupOf 7) = 0 ∧ (rec_ 4).inRecal (fun _ => true) < 8
    ∧ (port 4).recalDue 7 = false ∧ s.recalAge 7 ≤ (s.store 0xB00).toNat
    ∧ (s.store 0xB00).toNat < (s.set R.PRT_RECAL_AGE 3 5000).recalAge 7 ∧ ((rec_ 6).setFlag R.PRT_PG_STAT_REGION_SKEW 0 true).linkSkew 7 = true := by decide +kernel
theorem witness_cover : (rec_ 4).covered 7 = true ∧ ((rec_ 4).set R.PRT_RECAL_CFG_COVER 3 0).covered 7 = false := by decide +kernel
/-- From reset with the latency tables of PG0 all zeros, and every other unit gated. -/
def onePg : State :=
  (List.range 8).foldl (fun s p => (List.range 12).foldl (fun s k => workSet s (s.tableOff ⟨(p + 4) % 68, by omega⟩ + 4 * k) 0) s) (State.reset.set R.PWR_GATE_STAT_GATED 0 0x7FE)
theorem witness_skew : onePg.pwr.power = .on ∧ onePg.gated 0 = false ∧ onePg.gated 1 = true ∧ (∀ k : Fin 11, onePg.pwr.skew[k] = none)
    ∧ (onePg.pwrSample (List.replicate 13 800) (List.replicate 13 850)).crossCauses 3 60 30 [] = 0
    ∧ (onePg.pwrSample ([800, 2000, 3200, 4400, 5600, 6800, 8000, 9200, 10400, 11600, 12800, 14000, 15200] : List Int) (List.replicate 13 850)).crossCauses 3 60 30 [] ≠ 0 := by decide +kernel
theorem witness_crossings : (State.reset.prt.group[(3 : Fin 9)]).meas = 0 ∧ (((0 : BitVec 24).toNat : Int) * 80) = 0 := by decide +kernel
theorem test_first_crossing : nextIs (exec (.xcompUpdate 8 10) State.reset) (fun t => (t.prt.group[(8 : Fin 9)]).meas == 1) = true := by decide +kernel
/-- A frame on the wire of P3, without a report. -/
def onW (e : Option LEntry) : OnWire := { bytes := List.replicate 60 0, entry := e, a := 0, ver := 0, sn := true, degraded := false, status := 0, err := 0 }
/-- An entry of 64 bytes at the start of shared SRAM, due at `l`. -/
def ent (l : Nat) (report : Bool) : LEntry :=
  { l := l, window := 0, addr := 0x10000000, len := 64, kind := 0, fixed := false, report := report, cksum := false, ins := 0, cf := 0, ck := 0, tag := 5, tref := 0, ring := 10, at_ := 0, ready := none, rct := none }
/-- An Ethernet frame to P3's own address, of ETHERTYPE 0x1234. -/
def ethFrame : List Byte := List.replicate 6 0xFF ++ List.replicate 6 2 ++ [0x12, 0x34] ++ List.replicate 50 0
theorem witness_pause_and_underrun : ((port 4).setFlag R.PRT_STAT_PAUSED 3 true).flag R.PRT_STAT_PAUSED 3 = true ∧ (port 4).flag R.PRT_STAT_PAUSED 3 = false
    ∧ ((lq (port 4) fun x => { x with wire := some (onW none) }).lport 3).wire = some (onW none) ∧ (onW none).status ≠ 3 ∧ (port 4).get R.PRT_TX_START 3 ≠ 15
    ∧ ((port 4).set R.PRT_TX_START 3 15).get R.PRT_TX_START 3 = 15 ∧ State.reset.writes pf0 (R.PRT_CNT_CLR.at 3) := by unfold State.writes; decide +kernel
theorem witness_reception : let f := (port 4).setFlag R.PRT_CFG_HOST_FWD 3 true
    let r := (((ram.set R.PRT_STAT_LINK_STATE 3 4).setFlag R.HST_FWD_CFG_ENABLE 0 true).set R.HST_FWD_BASE 0 0x10000000).set R.HST_FWD_CFG_SIZE_LOG2 0 4
    (port 6).get R.PRT_STAT_LINK_STATE 3 = 6 ∧ (port 4).rxBad 3 ethFrame true false = none ∧ (port 4).workPair 3 = none ∧ (port 4).bracePort 3 = false
    ∧ ((port 4).rxBad 3 [] true false).isSome = true ∧ ((port 4).rxBad 3 ethFrame false false).isSome = true ∧ (port 4).accepts 3 ethFrame = true
    ∧ f.flag R.PRT_CFG_HOST_FWD 3 = true ∧ r.flag R.HST_FWD_CFG_ENABLE = true ∧ ethFrame.length ≤ 2016 ∧ r.ringHeld R.HST_FWD_WR R.HST_FWD_RD < 2 ^ r.get R.HST_FWD_CFG_SIZE_LOG2
    ∧ inSram (r.get R.HST_FWD_BASE) (32 + ethFrame.length) = true ∧ r.hung (targetOf (r.get R.HST_FWD_BASE)) = false ∧ ((port 4).setFlag R.PRT_CFG_RX_PAUSE_EN 3 true).flag R.PRT_CFG_RX_PAUSE_EN 3 = true
    ∧ (port 4).flag R.PRT_STAT_PAUSE_IGNORING 3 = false := by decide +kernel
theorem witness_parses : let c := fun (op : Byte) => [0x01, 0x80, 0xC2, 0, 0, 1] ++ List.replicate 6 2 ++ [0x88, 0x08, 0, op, 0, 9] ++ List.replicate 46 (0 : Byte)
    parseFrame (c 1) none = .pause 9 ∧ parseFrame (c 7) none = .control ∧ (match parseFrame ethFrame none with | .frame f => f.cls == 0 | _ => false) = true := by decide +kernel
theorem test_frame_on_a_link_that_is_down : nextIs (exec (.frameReceive 3 ethFrame true false 0 0) (port 1)) (fun t => t.regs == (port 1).regs && t.mem.isEmpty) = true := by decide +kernel
/-- A key of the duplicate window of pair 1, seen at LC 0. -/
def dup : State :=
  { State.reset with prt := { PrtSt.reset with prp := PrtSt.reset.prp.set 1 [(Config.prpHash 5 7 % 65536, { src := 5, seq := 7, lc := 0 })] }, time := { TimeSt.reset with lc := 2 ^ 56 } }
theorem witness_duplicate : sget dup.prt.prp[(1 : Fin 32)] (Config.prpHash (5 : BitVec 48).toNat (7 : BitVec 16).toNat % 65536) = some { src := 5, seq := 7, lc := 0 } := by
  simp [dup, sget]
theorem witness_forget : dup.get R.PRT_PRP_CFG_FORGET 2 * 2 ^ 48 ≤ (dup.time.lc.toNat - 0) * 1000 ∧ (sget State.reset.prt.prp[(1 : Fin 32)] 0 = none) := by decide +kernel
theorem witness_supervision : let s := ((State.reset.setFlag R.PRT_CFG_PRP_EN 2 true).setFlag R.PRT_PRP_CFG_SUP_EN 2 true)
    s.prpOn 1 = true ∧ s.flag R.PRT_PRP_CFG_SUP_EN (2 * (1 : Fin 32).val) = true ∧ State.reset.prpOn 1 = false := by decide +kernel
theorem witness_submission : let on := State.reset.setFlag R.LCH_CTRL_ENABLE 0 true
    let d := leBytes 12 0 ++ leBytes 4 0 ++ leBytes 4 0x10000000 ++ leBytes 4 (64 + 3 * 2 ^ 14) ++ List.replicate 24 0
    State.reset.writes pf0 (R.LCH_HSUB.at 0 + 44) ∧ on.descCode d 10 = 0 ∧ (State.reset.setFlag R.LCH_CTRL_ENABLE 0 false).descCode d 10 ≠ 0 ∧ State.reset.workPair 3 = none
    ∧ State.reset.writes pf0 (R.LCH_MASK_COMMIT.at 3) ∧ State.reset.flag R.LCH_PSTAT_COMMIT_PENDING 3 = false
    ∧ (State.reset.setFlag R.LCH_PSTAT_COMMIT_PENDING 3 true).flag R.LCH_PSTAT_COMMIT_PENDING 3 = true ∧ State.reset.writes pf0 R.SRV_STEER_COMMIT.addr
    ∧ (State.reset.get R.SRV_STAT).testBit 0 = false ∧ ((State.reset.set R.SRV_STAT 0 1).get R.SRV_STAT).testBit 0 = true
    ∧ State.reset.rtMs ≤ State.reset.prt.cycle ∧ (tm inLc fun x => { x with lc := 2 ^ 48 }).prt.cycle < (tm inLc fun x => { x with lc := 2 ^ 48 }).rtMs := by
  unfold State.writes; decide +kernel
theorem test_submit_refused : nextIs (exec (.lchHostSubmit pf0 0) State.reset) (fun t => t.get R.LCH_HOST_STAT_LAST == 3 && (t.get R.LCH_EVT).testBit 2) = true := by decide +kernel
/-- P3 UP at 1 s of LC, its latency table all zeros. -/
def lnch (f : LchPort → LchPort) : State :=
  let s := tm ((ram.set R.PRT_STAT_LINK_STATE 3 4).set R.KNL_TIME_MODE_MODE 0 1) fun x =>
    { x with lc := 2 ^ 48, running := true, hist := [{ ofs := 0, anchor := 0, rate := 0, ver := 0, kind := 3, step := 0, inSn := false }] }
  lq ((List.range 12).foldl (fun s k => workSet s (s.tableOff 7 + 4 * k) 0) s) f
theorem witness_departure : let s := lnch fun x => { x with imm := [ent 0 true] }
    let p := lnch fun x => { x with pack := some { bytes := List.replicate 60 1, rct := none, own := false }, sup := some (List.replicate 60 1, 4) }
    s.portShut 3 = false ∧ (s.lport 3).wire = none ∧ (port 1).portShut 3 = true ∧ s.mutes 3 (s.frameOf (ent 0 true)) = false ∧ (ent 0 true).l = 0
    ∧ s.immFits 3 64 (s.stamp 7 true 0 0).1.toNat = true ∧ (p.lport 3).pack.isSome = true ∧ (p.lport 3).sup.isSome = true
    ∧ p.immFits 3 60 (p.stamp 7 true 0 0).1.toNat = true := by decide +kernel
/-- A timed frame that is ready. -/
def due : LEntry := { ent (2 ^ 48) true with ready := some 0 }
theorem witness_timed_departure : let s := lnch fun x => { x with timed := [due] }
    s.firstTimed 3 = some (due, 2 ^ 48) ∧ placed (s.linkMode 7) (s.stamp 7 true 0 0).1.toNat (2 ^ 48) = true ∧ due.l ≠ 0 ∧ s.mutes 3 (s.frameOf due) = false
    ∧ placed (s.linkMode 7) 0 (2 ^ 48) = false := by decide +kernel
theorem test_timed_frame_leaves : nextIs (exec (.frameLaunch 3 .timed 0 0) (lnch fun x => { x with timed := [due] })) (fun t =>
    (t.lport 3).timed.isEmpty && ((t.lport 3).wire.map fun w => (w.a, w.status)) == some (2 ^ 48, 0)) = true := by decide +kernel
theorem witness_late : let s := fun (r : Bool) => lnch fun x => { x with timed := [ent 5 r], from_ := 2 ^ 48 }
    ((s true).lport 3).timed = [ent 5 true] ∧ (ent 5 true).l ≠ 0 ∧ ((s true).earliest 3 (ent 5 true)).isSome = true
    ∧ (ent 5 true).deadline < (((s true).earliest 3 (ent 5 true)).getD 0) ∧ ((s false).lport 3).timed = [ent 5 false] ∧ ((s true).lport 3).reports.length < 256
    ∧ (ent 0 true).at_ + 2 ^ 48 ≤ (s true).time.lc.toNat ∧ ((lnch fun x => { x with imm := [ent 0 false] }).lport 3).imm = [ent 0 false]
    ∧ (∀ e, e ∈ (State.reset.lport 3).imm → State.reset.time.lc.toNat < e.at_ + 2 ^ 48) := by decide +kernel
theorem witness_reports : let s := fun (n : Nat) => lq (port 4) fun x => { x with wire := some (onW (some (ent 0 true))), reports := List.replicate n ⟨10, List.replicate 32 0⟩ }
    let r := fun (held : Bool) => (((lq ram fun x => { x with reports := [⟨3, List.replicate 32 1⟩], held := held }).setFlag R.LCH_RING_CFG_ENABLE 3 true).set R.LCH_RING_BASE 3 0x10000000).set R.LCH_RING_CFG_SIZE_LOG2 3 5
    ((s 0).lport 3).wire = some (onW (some (ent 0 true))) ∧ (onW (some (ent 0 true))).entry = some (ent 0 true) ∧ ((s 0).lport 3).reports.length < 256 ∧ 256 ≤ ((s 256).lport 3).reports.length
    ∧ ((s 0).lport 3).reports = [] ∧ (r false).flag R.LCH_RING_CFG_ENABLE 3 = true ∧ (r false).lringFull 3 = false ∧ inSram ((r false).get R.LCH_RING_BASE 3) 32 = true
    ∧ (r false).hung (targetOf ((r false).get R.LCH_RING_BASE 3)) = false ∧ ((r false).setFlag R.LCH_RING_CFG_ENABLE 3 false).flag R.LCH_RING_CFG_ENABLE 3 = false
    ∧ ((r true).lport 3).held = true ∧ ((r false).lport 3).held = false := by decide +kernel

/-! ### Serving hardware -/

/-- Shared SRAM cleared, hash key 0. -/
def tbl : State := ram.setSrv { ram.srv with hashKey := List.replicate 16 0 }
/-- The key of a PTP client over IEEE 802.3 with MAC address 02:02:02:02:02:02. -/
def key0 : List Byte := clientKey 0 0 true false (List.replicate 6 2)
/-- The table with that client as a record, with a grant where `e` is not 0. -/
def rec0 (e : Nat) : State :=
  let r := tbl.assist .insert key0 3 false
  r.2.2.setBytes (recAddr r.2.1 + 8) (leBytes 2 e)
theorem witness_client_table : (tbl.findRec (tbl.clientHash key0) 0 = none) ∧ (tbl.freeWay (tbl.clientHash key0)).isSome = true
    ∧ ((rec0 0).findRec ((rec0 0).clientHash key0) 0).isSome = true ∧ ((((rec0 0).findRec ((rec0 0).clientHash key0) 0).map (rec0 0).recGrants) = some false)
    ∧ ((((rec0 5).findRec ((rec0 5).clientHash key0) 0).map (rec0 5).recGrants) = some true) ∧ leAt key0 0 4 % 4 = 0 := by decide +kernel
theorem witness_full_bucket : let i := hashBucket (tbl.clientHash key0) * 4
    let s := (List.range 4).foldl (fun s k => s.setBytes (recAddr (i + k)) [255, 255, 255, 255, 255, 255, 0, 0]) tbl
    s.findRec (s.clientHash key0) 0 = none ∧ s.freeWay (s.clientHash key0) = none := by decide +kernel
/-- A job of E4 at the lookup assist. -/
def lookJob : UJob := { eng := 4, num := 0, unit := 8, job := { target := 8, desc := [1, 0, 0, 0] ++ key0, key := [] }, live := true }
theorem witness_assist : let h := tbl.setSrv { tbl.srv with hostOp := some (1, 0) }
    let j : State := { tbl with jobs := [lookJob] }
    h.srv.hostOp = some (1, 0) ∧ hostOpOf 1 = some .lookup ∧ hostOpOf 2 = some .pin ∧ j.srv.hostOp = none ∧ j.jobs.find? (fun j => j.unit == 8) = some lookJob
    ∧ ticketOp (leAt lookJob.job.desc 0 1) = some .lookup ∧ lookJob.live = true ∧ tbl.srv.hostOp = none ∧ tbl.jobs.find? (fun j => j.unit == 8) = none := by decide +kernel
theorem witness_pool : let s := ((tbl.set R.SRV_POOL_CFG 0 2).set R.SRV_POOL_BASE 0 0x10010000)
    s.writes pf0 R.SRV_POOL_RET.addr ∧ s.poolBuffers.contains 0x10010600 = true ∧ s.srv.free.contains 0x10010600 = false ∧ s.poolBuffers.contains 0x10020000 = false := by
  unfold State.writes; decide +kernel
/-- A job of E4 with a descriptor: OP, KSEL, FLAGS, context or association, tag length, count, and its addresses in shared SRAM. -/
def aeadJob (op ksel fl : Nat) : UJob :=
  { eng := 4, num := 0, unit := 0, live := true
    job := { target := 0, key := List.replicate 64 3
             desc := leBytes 1 op ++ leBytes 1 ksel ++ leBytes 2 fl ++ leBytes 4 0x01100000 ++ leBytes 4 0 ++ leBytes 4 0x10000100 ++ List.replicate 12 0 ++ leBytes 4 0 ++ leBytes 2 0
               ++ leBytes 2 16 ++ leBytes 4 0x10000200 ++ leBytes 4 0x10000300 ++ leBytes 4 0x10000400 } }
/-- It is the first job of its unit; context 0 of unit 0 is filled, and a current cookie key is held. -/
def atAu (j : UJob) : State :=
  { ram with jobs := [j], srv := { ram.srv with ctx := [{ unit := 0, num := 0, c2s := List.replicate 32 1, s2c := List.replicate 32 2, at_ := 0 }] }
             sec := { ram.sec with cookieCur := some { key := 5, slot := 1, id := 7 } } }
theorem witness_aead : let s := fun (op ksel fl : Nat) => atAu (aeadJob op ksel fl)
    (s 0 0 0).jobFor 4 0 (aeadOp 0) = some (aeadJob 0 0 0) ∧ ((s 0 0 0).sivKey (aeadJob 0 0 0)).isSome = true ∧ (s 0 0 0).sivMem (aeadJob 0 0 0) = true ∧ (aeadJob 0 0 0).flag 1 = false
    ∧ (aeadJob 0 0 2).flag 1 = true ∧ (s 0 0 2).sivMem (aeadJob 0 0 2) = true ∧ ({ ram with jobs := [aeadJob 0 0 0] } : State).sivKey (aeadJob 0 0 0) = none
    ∧ (s 1 0 0).jobFor 4 0 (aeadOp 1) = some (aeadJob 1 0 0) ∧ ((s 1 0 0).sivKey (aeadJob 1 0 0)).isSome = true ∧ (s 1 0 0).sivMem (aeadJob 1 0 0) = true
    ∧ (s 1 0 0).jobMem 0x10000300 16 = true ∧ (aeadJob 1 0 0).fld 0x28 4 = 0x10000300 ∧ (aeadJob 1 0 0).fld 0x0C 4 = 0x10000100
    ∧ (s 2 0 0).jobFor 4 0 (aeadOp 2) = some (aeadJob 2 0 0) ∧ ((s 2 0 0).macKey (aeadJob 2 0 0)).isSome = true ∧ (s 2 1 0).macKey (aeadJob 2 1 0) = none ∧ (aeadJob 2 0 4).flag 2 = true
    ∧ (s 3 0 0).jobFor 4 0 (aeadOp 3) = some (aeadJob 3 0 0) ∧ inSram 0x10000300 (Nat.min ((aeadJob 2 0 0).fld 6 1) 32) = true ∧ (s 2 0 4).jobMem ((aeadJob 2 0 4).fld 0x2C 4) 16 = true
    ∧ (s 4 0 0).jobFor 4 0 (aeadOp 4) = some (aeadJob 4 0 0) ∧ ((s 4 0 0).ctxOf 0 ((aeadJob 4 0 0).fld 4 1)).isSome = true ∧ (s 4 0 0).sec.cookieCur.isSome = true
    ∧ inSram 0x10000300 (104 * (aeadJob 4 0 0).fld 7 1) = true ∧ (s 5 0 0).jobFor 4 0 (aeadOp 5) = some (aeadJob 5 0 0)
    ∧ ({ ram with jobs := [aeadJob 5 0 0] } : State).ctxOf 0 0 = none ∧ (s 0 0 0).soft = [] := by decide +kernel
theorem witness_siv_open_fails (key : List Byte) (ads : List (List Byte)) : ∃ v : List Byte, v.length = 16 ∧ sivOpen key ads v [] = none := by
  have hc : ∀ v, sivCtr (key.drop 16) v [] = [] := fun v => by simp [sivCtr, xorBytes]
  by_cases h : s2v (key.take 16) ads [] = List.replicate 16 0
  · exact ⟨List.replicate 16 1, rfl, by simp only [sivOpen, hc, h]; decide⟩
  · exact ⟨List.replicate 16 0, rfl, by simp only [sivOpen, hc]; exact if_neg h⟩
/-- A CRC or HASH job of E4 over 4 bytes of shared SRAM. -/
def unitJob (unit alg : Nat) : UJob :=
  { eng := 4, num := 0, unit := unit, live := true, job := { target := unit, key := [], desc := leBytes 4 alg ++ leBytes 4 0x10000000 ++ leBytes 4 4 ++ leBytes 4 0x10000100 ++ leBytes 4 0x10000200 } }
theorem witness_crc_and_hash : let s := fun (unit alg : Nat) => ({ ram with jobs := [unitJob unit alg] } : State)
    (s 9 0).jobFor 4 0 (crcAlg 0) = some (unitJob 9 0) ∧ (s 9 1).jobFor 4 0 (crcAlg 1) = some (unitJob 9 1) ∧ ((s 9 0).jobRead 4 0x10000000 4).isSome = true
    ∧ (s 10 0).jobFor 4 0 (hashAlg 0) = some (unitJob 10 0) ∧ (s 10 1).jobFor 4 0 (hashAlg 1) = some (unitJob 10 1) ∧ (s 10 2).jobFor 4 0 (hashAlg 2) = some (unitJob 10 2)
    ∧ jobAddr 4 0x10000100 32 = some 0x10000100 ∧ jobAddr 4 0x10000200 16 = some 0x10000200 ∧ (s 10 0).badAt 0x10000200 16 = false ∧ (s 10 0).soft = [] := by decide +kernel
theorem test_crc32_of_zeros : nextIs (exec (.jobCrc32 4 0) { eng { ram with jobs := [{ unitJob 9 0 with job := { (unitJob 9 0).job with desc := leBytes 4 0 ++ leBytes 4 0x10000000 ++ leBytes 4 4 ++ leBytes 4 0xFFFFFFFF } }] } 4 fun e =>
      { e with tickets := [{ num := 0, job := (unitJob 9 0).job, delivered := true, result := none, complete := false }] } with draw := 1 })
    (fun t => (t.engine 4).tickets.map (·.result) == [some (0, 0x2144DF1C)]) = true := by decide +kernel
theorem witness_ticket_complete : let t : Ticket := { num := 0, job := (unitJob 9 0).job, delivered := true, result := some (0, 1), complete := false }
    let s := eng ram 4 fun e => { e with tickets := [t] }
    (s.engine 4).tickets.find? (fun t => t.num == 0) = some t ∧ t.result ≠ none ∧ t.complete = false ∧ (ram.engine 4).tickets = [] := by decide +kernel
theorem witness_contexts : let s := tm (atAu (aeadJob 0 0 0)) fun x => { x with lc := 2 ^ 48 }
    (s.ctxOf 0 0).isSome = true ∧ (2 ^ 48 ≤ (s.time.lc.toNat - 0) * 10000) ∧ ((atAu (aeadJob 0 0 0)).time.lc.toNat - 0) * 10000 < 2 ^ 48 := by decide +kernel
theorem witness_rotation : let x : Nat → RotArm := fun n => { slot := 1, id := 7, req := none, at_ := n }
    let s := fun (n : Nat) => ({ State.reset with sec := { State.reset.sec with cookieNext := some (x n) } } : State)
    State.reset.writes pf0 (R.SRV_COOKIE_ROT.at 0 + 4) ∧ (s 0).sec.cookieNext = some (x 0) ∧ (x 0).at_ ≤ (s 0).rtSec ∧ ((s 0).rotLoad (x 0)).1 = none ∧ (s 0).rotBad (x 0) = true ∧ (s 5).rtSec < 5 ∧ State.reset.sec.cookieNext = none
    ∧ (State.reset.setFlag R.SRV_COOKIE_ROT0_NOW 0 true).flag R.SRV_COOKIE_ROT0_NOW = true ∧ State.reset.flag R.SRV_COOKIE_ROT0_NOW = false
    ∧ State.reset.flag R.SRV_MINT_STAT_BUSY = false ∧ (State.reset.setFlag R.SRV_MINT_STAT_BUSY 0 true).flag R.SRV_MINT_STAT_BUSY = true ∧ State.reset.sec.cookieCur = none
    ∧ (atAu (aeadJob 0 0 0)).sec.cookieCur.isSome = true ∧ (atAu (aeadJob 0 0 0)).srv.mint ≤ 8 ∧ State.reset.writes pf0 (saKeyAt 9 true + 28) := by unfold State.writes; decide +kernel
theorem test_rotation_without_a_key : nextIs (exec .cookieRotation { State.reset with sec := { State.reset.sec with cookieNext := some { slot := 1, id := 7, req := none, at_ := 0 } } }) (fun t =>
    t.sec.cookieNext.isNone && (t.get R.SRV_EVT).testBit 7 && t.sec.cookieCur.isNone) = true := by decide +kernel
/-- A copy for NTS-MASTER in slot 0, which SRV_COOKIE_ROT0 names after reset. -/
def ntsCopy : SlotCopy := { value := 0, attr := 0x10711, gen := 1, tag := 0x005faa76a95716c2b1766e5d2e1e7de6 }
theorem nts_tag : ntsCopy.tag = State.reset.slotTag 0 ntsCopy := by decide +kernel
/-- From reset, with a copy in slot 0. -/
def slot0 (c : SlotCopy) : State := { State.reset with sec := { SecSt.factory with slotA := SecSt.factory.slotA.set 0 (some c) } }
theorem witness_rotation_key : ∃ d, (slot0 ntsCopy).get R.SRV_COOKIE_ROT0_SLOT = 0 ∧ (slot0 ntsCopy).sec.cookieNext = none ∧ (slot0 ntsCopy).rtSec < 5
    ∧ ((slot0 ntsCopy).wkrLoad 2 [8] 0 (some pf0) (beBytes 4 ((slot0 ntsCopy).get R.SRV_COOKIE_ROT1))).1 = some d :=
  ⟨_, by decide +kernel, by decide +kernel, by decide +kernel,
    by rw [wkr_pass (c := ntsCopy) (by decide +kernel) (by decide +kernel) (nts_tag.trans (slotTag_devId 0 ntsCopy (by decide +kernel) (by decide +kernel)).symm) (by decide +kernel)]⟩
/-- An NTS request over UDP and IPv4 with a cookie and an authenticator of zeros. -/
def ntsFrame : List Byte :=
  List.replicate 12 2 ++ [8, 0, 69, 0, 1, 4, 0, 0, 0, 0, 64, 17, 101, 231, 10, 0, 0, 1, 10, 0, 0, 2, 0, 123, 0, 123, 0, 240, 5, 121] ++ [0x23] ++ List.replicate 47 0
    ++ [1, 4, 0, 36] ++ List.replicate 32 7 ++ [2, 4, 0, 108] ++ List.replicate 104 0 ++ [4, 4, 0, 40, 0, 16, 0, 16] ++ List.replicate 16 9 ++ List.replicate 16 0
/-- The cookie of key 5, identifier 7. -/
def ck0 : List Byte := cookieOf { key := 5, slot := 1, id := 7 } (List.replicate 16 4) (List.replicate 32 1) (List.replicate 32 2)
theorem witness_nts_form : parseFrame ntsFrame none = .frame { cls := 3, hdr := 42, l2 := false, v6 := false, src := [10, 0, 0, 1], udp := 34 } := by decide +kernel
theorem witness_nts_fields : let f : Frame := { cls := 3, hdr := 42, l2 := false, v6 := false, src := [10, 0, 0, 1], udp := 34 }
    (ntsForm (f.exts ntsFrame)).isSome = true ∧ ntsForm (f.exts (ntsFrame.take 200)) = none := by decide +kernel
theorem witness_cookie_of_another_key : (atAu (aeadJob 0 0 0)).openCookie (List.replicate 104 0) = none := by decide +kernel
theorem openCookie_current {s : State} {k : Delivered} (hk : s.sec.cookieCur = some k) (hi : ofBe (beBytes 4 k.id.toNat) = k.id.toNat) {nonce : List Byte} (hn : nonce.length = 16)
    (c2s s2c : List Byte) : ∃ x y, s.openCookie (cookieOf k nonce c2s s2c) = some (x, y, false) := by
  obtain ⟨hl, h0, h1, h2, h3⟩ := cookieOf_fields (k := k) hn c2s s2c
  have hid : beAt (cookieOf k nonce c2s s2c) 0 4 = k.id.toNat := by unfold beAt; rw [h0, hi]
  unfold State.openCookie
  simp only [hk, hid, hl, h0, h1, h2, h3]
  rw [sivOpen_sivSeal (key := digestBytes k.key) (leBytes_length 32 _)]
  simp
theorem witness_cookie : ∃ x y, (atAu (aeadJob 0 0 0)).openCookie ck0 = some (x, y, false) :=
  openCookie_current (k := { key := 5, slot := 1, id := 7 }) rfl (by decide) rfl _ _
theorem witness_authenticator : ∀ aad nonce : List Byte, sivOpen (List.replicate 32 1) [aad, nonce] (sivSeal (List.replicate 32 1) [aad, nonce] []).1 (sivSeal (List.replicate 32 1) [aad, nonce] []).2 ≠ none :=
  fun aad nonce => by rw [sivOpen_sivSeal (by rfl)]; simp
theorem witness_free_context : ∃ c, pickOne (State.reset.ctxAvail 3) State.reset.draw = some c := by
  have h : (State.reset.ctxAvail 3).length = 64 := by decide +kernel
  refine ⟨(State.reset.ctxAvail 3)[Config.freeNat State.reset.draw % Nat.max 1 (State.reset.ctxAvail 3).length]'(by rw [h]; exact Nat.mod_lt _ (by decide)), ?_⟩
  unfold pickOne
  exact List.getElem?_eq_getElem _
theorem witness_nts_check : let w : RxWait := { port := 3, meta_ := List.replicate 16 0, buf := 0x10001000, len := 274, hdr := 42, look := 0, index := 0, steer := 0, eng := 3, nts := true }
    let s := ((ram.setSrv { ram.srv with wait := [w] }).setFlag R.SRV_RXQ_CFG_ENABLE 3 true).set R.SRV_RXQ_BASE 3 0x10002000
    s.srv.wait = [w] ∧ w.nts = true ∧ w.meta_.length = 16 ∧ s.flag R.SRV_RXQ_CFG_ENABLE 3 = true ∧ s.ringHeld R.SRV_RXQ_WR R.SRV_RXQ_RD 3 < 2 ^ s.get R.SRV_RXQ_CFG_SIZE_LOG2 3
    ∧ inSram (s.get R.SRV_RXQ_BASE 3) 32 = true ∧ s.hung (targetOf (s.get R.SRV_RXQ_BASE 3)) = false ∧ (s.setFlag R.SRV_CTRL_NTS_EN 0 false).flag R.SRV_CTRL_NTS_EN = false
    ∧ (s.setFlag R.SRV_CTRL_NTS_EN 0 true).flag R.SRV_CTRL_NTS_EN = true ∧ State.reset.srv.wait.find? (fun w => w.nts && w.eng == 3) = none := by decide +kernel

/-! ### Serving firmware -/

/-- The bytes of a string that are not 0, as cells from an address. -/
def cells : Nat → List Byte → List Host.Cell
  | _, [] => []
  | a, b :: t => if b = 0 then cells (a + 1) t else (a, b) :: cells (a + 1) t
/-- LC in force, E4 to E11 RUNNING, PROFILE of P3 given, report ring 5 enabled, no hash secret, and a request of P3 at the head of the queue of S3: its frame, and NTS status. -/
def asks (prof : Nat) (b : List Byte) (nts : Nat) : State :=
  let s := ([4, 5, 6, 7, 8, 9, 10, 11].foldl (fun s n => s.set R.ENG_STAT_STATE n 3) ram).set R.KNL_TIME_MODE_MODE 0 1
  let s := (((s.set R.SRV_PORT_SVC0_PROFILE 3 prof).set R.SRV_PORT_SVC0_DOMAIN 3 0).set R.LCH_RING_CFG_ENABLE 5 1).set R.SRV_RXQ_BASE 3 0x10002000
  let d := List.replicate 14 0 ++ leBytes 2 3 ++ leBytes 4 0x10001000 ++ leBytes 2 b.length ++ List.replicate 6 0 ++ leBytes 4 nts
  { s.set R.SRV_RXQ_WR 3 1 with mem := cells 0x10001000 b ++ cells 0x10002000 d, srv := { s.srv with hashKey := List.replicate 16 0 } }
/-- A PTP message over IEEE 802.3, to the device alone, from 02:02:02:02:02:02. -/
def ptp (typ : Byte) (tail : List Byte) : List Byte :=
  List.replicate 6 4 ++ List.replicate 6 2 ++ [0x88, 0xF7, typ, 0x12, 0, 34 + BitVec.ofNat 8 tail.length] ++ List.replicate 30 0 ++ tail
/-- Whether the head request passes a test. -/
def headIs (s : State) (p : Req → Bool) : Bool := match s.headReq 3 with | some r => p r | none => false
theorem witness_requests : headIs (asks 1 (ptp 1 (List.replicate 10 0)) 0) (fun r => (asks 1 (ptp 1 (List.replicate 10 0)) 0).serveOf r == .delayReq && r.unicast && !r.nots && r.port == 3) = true
    ∧ headIs (asks 1 (ptp 1 (List.replicate 10 0) |>.set 0 5) 0) (fun r => (asks 1 (ptp 1 (List.replicate 10 0)) 0).serveOf r == .delayReq && !r.unicast && !r.nots) = true
    ∧ headIs (asks 2 (ptp 2 (List.replicate 20 0)) 0) (fun r => (asks 2 (ptp 2 (List.replicate 20 0)) 0).serveOf r == .pdelayReq && !r.nots) = true
    ∧ headIs (asks 1 (ptp 11 (List.replicate 30 0)) 0) (fun r => (asks 1 (ptp 11 (List.replicate 30 0)) 0).serveOf r == .drop R.SRV_CNT_ANN_FOREIGN) = true
    ∧ (asks 1 [] 0).serves 3 = true ∧ (asks 1 [] 0).mode ≠ 0 ∧ (asks 1 [] 0).profile 3 ≠ 0 ∧ (asks 1 [] 0).braceOn 3 = false ∧ (asks 1 [] 0).authReq 3 = false
    ∧ (asks 1 [] 0).flag R.SRV_PORT_SVC0_TWO_STEP 3 = false := by decide +kernel
/-- The message is made, and LCH takes its launch. -/
def sends (s : State) (m : PtpMsg) (tlvs : List Byte) (f : Frame) (hdr : List Byte) (x : Nat → Launch) (buf : Nat) : Bool :=
  match s.ptpBytes 3 m tlvs false with
  | some msg =>
    let frame := udpFrame f (withPorts f 319 319 hdr) msg
    decide (frame.length < 2 ^ 14) && inSram buf frame.length && !s.hung (targetOf buf) && s.followDelay 3 == 0 && s.descCode ((x f.hdr).desc 3 buf frame.length) 5 == 0
  | none => false
theorem witness_sync : let s := (asks 1 [] 0).set R.SRV_PORT_SVC0_MC_LOG_SYNC 3 5
    let hdr := List.replicate 12 2 ++ [0x88, 0xF7]
    s.sendTo 3 3 none 0 (s.get R.SRV_PORT_SVC0_MC_LOG_SYNC 3) = some (-3, false, false) ∧ s.sendTo 3 3 none 0 0 = none ∧ s.sendTo 3 3 none 1 5 = some (-3, false, false)
    ∧ sends s { typ := 0, domain := 0, flags := 0, cf := 0, seq := 0, logInt := -3, body := List.replicate 10 0 } (s.leashOf 3 0 (s.linkDegraded 7) false 0) (hdrFrame hdr) hdr
        (fun h => { l := 0, window := 10000, report := false, tag := 0x10003000, kind := 1, ins := h + 34, cf := h + 8 }) 0x10003000 = true
    ∧ sends s { typ := 11, domain := 0, flags := 8, cf := 0, seq := 0, logInt := -3, body := List.replicate 30 0 } (s.leashTlv (s.portLeash 3) 0 false) (hdrFrame hdr) hdr
        (fun _ => { report := false, tag := 0x10003000 }) 0x10003000 = true := by decide +kernel
theorem witness_replies : let s := asks 1 (ptp 1 (List.replicate 10 0)) 0
    headIs s (fun r => sends s { typ := 9, domain := 0, flags := 0, cf := 0, seq := 0, logInt := 127, body := List.replicate 20 0 } (s.leashOf 3 0 r.degraded false r.ver) r.f
      (s.replyHdr 3 r.f r.bytes) (fun _ => { tag := r.buf }) r.buf) = true := by decide +kernel
theorem witness_follow_up : let y : TwoStep := { port := 3, tag := 9, pdelay := false, hdr := List.replicate 12 2 ++ [0x88, 0xF7], unicast := false, domain := 0, seqId := 0, cf := 0, requester := [], logInt := 0, signed := false }
    let s0 := (asks 1 [] 0).set R.LCH_RING_BASE 5 0x10004000
    let s := fun (st : Nat) => ({ s0.set R.LCH_RING_WR 5 1 with mem := cells 0x10004000 (List.replicate 16 0 ++ leBytes 8 9 ++ List.replicate 4 0 ++ leBytes 2 (3 + st * 64) ++ [0, 0]), srv := { s0.srv with sent := [y] } } : State)
    let d := fun (st : Nat) => (s st).bytes ((s st).get R.LCH_RING_BASE 5 + (s st).get R.LCH_RING_RD 5 % (s st).lringSize 5 * 32) 32
    s0.ringHeld R.LCH_RING_WR R.LCH_RING_RD 5 = 0 ∧ (s 0).ringHeld R.LCH_RING_WR R.LCH_RING_RD 5 ≠ 0 ∧ s0.srv.sent = [] ∧ y.tag = leAt (d 0) 16 8 ∧ y.port.val = leAt (d 0) 28 2 % 64
    ∧ bits (leAt (d 0) 28 2) 6 4 ≤ 1 ∧ 2 ≤ bits (leAt (d 2) 28 2) 6 4
    ∧ sends (s 0) { typ := 8, domain := 0, flags := 0, cf := 0, seq := 0, logInt := 0, body := List.replicate 10 0 } ((s 0).leashOf 3 0 false false 0) (hdrFrame y.hdr) y.hdr
        (fun _ => { report := false, tag := 0x10003000 }) 0x10003000 = true := by decide +kernel
/-- Signaling from that client with one TLV: a request of Sync at 1/s for 300 s, or a cancel of it. -/
def signal (tlv : Byte) (dur : Byte) : List Byte := ptp 12 (List.replicate 10 0xFF ++ (if tlv = 4 then [0, 4, 0, 6, 0, 0, 0, 0, 1, dur] else [0, 6, 0, 2, 0, 0]))
/-- A signaling request of a client of the table, whose record has a KIND byte. -/
def grants (tlv dur : Byte) (kind : Byte) : State :=
  let s := asks 1 (signal tlv dur) 0
  let r := s.assist .insert key0 3 false
  r.2.2.setByte (recAddr r.2.1 + 6) kind
theorem witness_grants : headIs (grants 4 44 0) (fun r =>
      let s := grants 4 44 0
      s.serveOf r == .signaling && r.tlvs.length == 1 && (r.tlvs.head?.map (·.1)) == some 4 && grantOf (beAt r.msg 48 1 / 16) == some 0 && decide (r.buf < 0x10400000)
        && (match s.reqRec r with
          | some i => decide (i < 2 ^ 20) && !(s.recKind i).testBit 3 && s.get R.SRV_CTRL_ADMIT != 1 && sext 8 (beAt r.msg 49 1) == 0 && decide (s.grantMin 0 ≤ 8)
              && decide (s.get R.SRV_GRANT_DUR_DUR_MIN ≤ beAt r.msg 50 4) && decide (s.srv.share[(3 : Fin 8)] + grantRate 0 8 false ≤ s.get R.SRV_GRANT_BUDGET * 16000 + s.grantNow i 0)
          | none => false)) = true
    ∧ headIs ((grants 4 44 0).set R.SRV_GRANT_DUR_DUR_MIN 0 1000) (fun r => decide (beAt r.msg 50 4 < ((grants 4 44 0).set R.SRV_GRANT_DUR_DUR_MIN 0 1000).get R.SRV_GRANT_DUR_DUR_MIN)) = true
    ∧ headIs (grants 4 44 8) (fun r => match (grants 4 44 8).reqRec r with | some i => ((grants 4 44 8).recKind i).testBit 3 | none => false) = true
    ∧ headIs (grants 6 0 0) (fun r => r.tlvs.length == 1 && (r.tlvs.head?.map (·.1)) == some 6 && grantOf (beAt r.msg 48 1 / 16) == some 0 && ((grants 6 0 0).reqRec r).isSome) = true := by decide +kernel
/-- A plain NTP request of the client of `ntsFrame`. -/
def ntpReq : List Byte := List.replicate 12 2 ++ [8, 0, 69, 0, 0, 76, 0, 0, 0, 0, 64, 17, 102, 159, 10, 0, 0, 1, 10, 0, 0, 2, 0, 123, 0, 123, 0, 56, 199, 133] ++ [0x23] ++ List.replicate 47 0
/-- An NTP request whose record exists, with LAST 0 and tokens as given. -/
def ntps (b : List Byte) (kind nts tokens : Nat) : State :=
  let s := (((asks 1 b nts).setFlag R.SRV_PORT_SVC0_NTP_EN 3 true).setFlag R.SRV_CTRL_PLAIN_NTP 0 true).setFlag R.SRV_CTRL_NAK_EN 0 true
  let r := s.assist .insert (clientKey kind 0 false false [10, 0, 0, 1]) 3 false
  let s := r.2.2.setBytes (recAddr r.2.1 + 8) (leBytes 4 0 ++ leBytes 2 tokens)
  { s with sec := { s.sec with cookieCur := some { key := 5, slot := 1, id := 7 } }, srv := { s.srv with ctx := [{ unit := 3, num := 0, c2s := List.replicate 32 1, s2c := List.replicate 32 2, at_ := 0 }] } }
theorem witness_ntp : let held := fun (s : State) (r : Req) => match s.reqRec r with | some i => s.recFld i 12 2 | none => 0
    headIs (ntps ntpReq 1 0 256) (fun r => (ntps ntpReq 1 0 256).serveOf r == .ntp && held (ntps ntpReq 1 0 256) r == 256 && r.buf == 0x10001000) = true
    ∧ headIs (ntps ntpReq 1 0 255) (fun r => held (ntps ntpReq 1 0 255) r == 255) = true
    ∧ headIs (ntps ntsFrame 2 2 256) (fun r => (ntps ntsFrame 2 2 256).serveOf r == .ntsn && held (ntps ntsFrame 2 2 256) r == 256) = true
    ∧ headIs (ntps ntsFrame 2 1 256) (fun r => (ntps ntsFrame 2 1 256).serveOf r == .nts && r.unicast && ((ntps ntsFrame 2 1 256).ctxOf 3 (r.nts / 4 % 64)).isSome) = true
    ∧ (ntps ntsFrame 2 1 256).sec.cookieCur.isSome = true ∧ (256 : Nat) ≤ Nat.min (256 + 0) (Nat.min ((ntps ntpReq 1 0 256).get R.SRV_NTP_CFG_BURST * 256) 65535) := by decide +kernel
theorem witness_records : let s := grants 4 44 0
    let i := (s.findRec (s.clientHash key0) 0).getD 0
    s.recFp i ≠ 0 ∧ s.recKind i % 4 = 0 ∧ s.recOwner i < 8 ∧ s.serves 3 = true
    ∧ (s.setSrv { s.srv with cancel := [(i, true)] }).srv.cancel.find? (fun c => s.recOwner c.1 == s.recOwner i && s.recFld c.1 7 1 % 64 == 3) = some (i, true) ∧ i < 2 ^ 20 := by decide +kernel
theorem witness_uplink_sessions : let s := ((asks 1 [] 0).setFlag R.SRV_PORT_SVC1_US_EN 3 true).set R.SRV_PORT_SVC1_US 3 2
    s.get R.SRV_PORT_SVC1_US 3 = 2 ∧ s.sessionPort 2 = some 3 ∧ s.profile 3 ≠ 0 ∧ s.authReq 3 = false ∧ s.knl.inlet.length < 64 ∧ s.serves 3 = true := by decide +kernel

/-! ### Synthesis -/

/-- PLL 1 in a state of R306. -/
def pll (st : Nat) (f : SynPll → SynPll) : State :=
  let s := State.reset.set R.SYN_SP_STAT_STATE 1 st
  s.setPll 1 (f s.syn.pll[(1 : Fin 4)])
/-- PLL 1 with a shadow that is valid: MODE 1, N = 50 + 1/2. -/
def shadow : State := (((pll 3 id).set R.SYN_SP_CFG_MODE 1 1).set R.SYN_SP_N_DEN 1 2).set R.SYN_SP_N_NUM 1 1
theorem witness_commit : State.reset.writes pf0 (R.SYN_SP_COMMIT_AT.at 1) ∧ (pll 3 fun p => { p with commit := some ⟨0, false⟩ }).syn.pll[(1 : Fin 4)].commit ≠ none
    ∧ (pll 3 id).syn.pll[(1 : Fin 4)].commit = none ∧ ((pll 3 id).set R.SYN_SP_N_DEN 1 0).commitRefuse 1 = 2 := by unfold State.writes; decide +kernel
/-- PLL 1 with a commit due at 0. -/
def due0 (st mode : Nat) (relock : Bool) : State := (pll st fun p => { p with commit := some ⟨0, relock⟩ }).set R.SYN_SP_CFG_MODE 1 mode
theorem witness_commit_applies : (pll 3 fun p => { p with commit := some ⟨2 ^ 60, false⟩ }).rt.toNat < 2 ^ 60 ∧ 0 ≤ (due0 3 1 true).rt.toNat ∧ (due0 3 0 false).sh false R.SYN_SP_CFG_MODE 1 = 0
    ∧ (due0 5 1 false).pllState 1 = 5 ∧ (due0 5 1 false).sh false R.SYN_SP_CFG_MODE 1 ≠ 0 ∧ (due0 3 1 true).pllState 1 = 3
    ∧ (((due0 3 1 false).set R.SYN_SP_CFG_MODE.act 1 1).pllChanged 1 = false) := by decide +kernel
theorem witness_search_and_settle : (pll 2 id).pllState 1 ≠ 1 ∧ (pll 1 id).pllState 1 = 1 ∧ (pll 1 id).syn.pll[(1 : Fin 4)].steps < 5
    ∧ 5 ≤ (pll 1 fun p => { p with steps := 5 }).syn.pll[(1 : Fin 4)].steps ∧ (pll 2 id).pllState 1 = 2 ∧ (pll 2 id).syn.pll[(1 : Fin 4)].retries < 2
    ∧ 2 ≤ (pll 2 fun p => { p with retries := 2 }).syn.pll[(1 : Fin 4)].retries ∧ (pll 3 id).pllState 1 = 3 ∧ (pll 4 id).pllState 1 = 4
    ∧ ((((pll 4 id).set R.SYN_SP_CFG_MODE.act 1 1).set R.TIM_STAT_TB_STATE 0 2).pllRef 1 = true) ∧ (pll 4 id).pllRef 1 = false := by decide +kernel
theorem test_sixth_step_takes_a_band : nextIs (exec (.bandSearchStep 1 (some 17)) (tm (pll 1 fun p => { p with steps := 5 }) fun x => { x with lc := 2 ^ 48, running := true })) (fun t => t.pllState 1 == 2 && t.get R.SYN_SP_STAT_BAND 1 == 17) = true := by decide +kernel
theorem test_lock_ends_the_bypass : nextIs (exec (.pllLkfLock 1) ((pll 2 id).set R.SYN_STAT_BYPASS 0 2)) (fun t => t.pllState 1 == 3 && t.get R.SYN_STAT_BYPASS == 0) = true := by decide +kernel
/-- Output 4, of PLL 1, in a state of its own with its PLL in one. -/
def outp (st pllSt : Nat) : State := (State.reset.set R.SYN_OUT_STAT_STATE 4 st).set R.SYN_SP_STAT_STATE 1 pllSt
theorem witness_outputs : State.reset.writes pf0 (R.SYN_OUT_EN.at 4) ∧ (0 : Word).getLsbD 0 = false ∧ (1 : Word).getLsbD 0 = true ∧ (1 : Fin 4).val = (4 : Fin 16).val / 4
    ∧ (outp 1 3).get R.SYN_OUT_STAT_STATE 4 = 1 ∧ (outp 1 3).pllState ((4 : Fin 16).val / 4) = 3
    ∧ (tm (outp 1 3) fun x => { x with lc := 2 ^ 48, running := true }).syn.pll[(1 : Fin 4)].lockRt + 10 * 2 ^ 48 / 1000000 ≤ 2 ^ 48
    ∧ (outp 2 3).get R.SYN_OUT_STAT_STATE 4 ≠ 1 ∧ (outp 2 3).get R.SYN_OUT_STAT_STATE 4 = 2 := by unfold State.writes; decide +kernel
/-- Output 4 with Heel in a state, a period of 1 s and a slew and step limit as given. -/
def heel (st step : Nat) : State :=
  ((((outp 2 3).set R.SYN_OUT_STAT_HEEL_STATE 4 st).set R.SYN_OUT_PER_NUM.act 4 1000000000).set R.SYN_OUT_PER_DEN.act 4 1).set R.SYN_OUT_HEEL_CFG_STEP_MAX 4 step
theorem witness_heel :
    let ps := fun (s : State) (t : Time) =>
      let p := s.outPeriod true 4
      let e := gridErr ((t.toNat : Int) + psToUnits (s.outOffset true 4)) (s.gridOrigin 4) p.1 p.2
      roundDiv (e.1 * 1000000000000) e.2
    (heel 0 0).get R.SYN_OUT_STAT_HEEL_STATE 4 = 0 ∧ (heel 1 0).get R.SYN_OUT_STAT_HEEL_STATE 4 = 1 ∧ (heel 2 0).get R.SYN_OUT_STAT_HEEL_STATE 4 = 2
    ∧ (heel 3 9).get R.SYN_OUT_STAT_HEEL_STATE 4 = 3 ∧ (ps (heel 3 9) (2 ^ 48 + 281475)).natAbs ≤ (heel 3 9).get R.SYN_OUT_HEEL_CFG_STEP_MAX 4 * 1000
    ∧ (heel 3 0).get R.SYN_OUT_HEEL_CFG_STEP_MAX 4 * 1000 < (ps (heel 3 0) (2 ^ 48 + 281475)).natAbs ∧ ps (heel 3 0) (2 ^ 48 + 281475) = 1000 := by decide +kernel
/-- Output 4 of a kind that runs. -/
def todOut (kind : Nat) : State := (outp 2 3).set R.SYN_OUT_CFG_KIND.act 4 kind
theorem witness_messages_and_checks : (todOut 2).sh true R.SYN_OUT_CFG_KIND 4 = 2 ∧ (todOut 3).sh true R.SYN_OUT_CFG_KIND 4 = 3 ∧ (todOut 4).sh true R.SYN_OUT_CFG_KIND 4 = 4
    ∧ (todOut 1).sh true R.SYN_OUT_CFG_KIND 4 ≤ 1 ∧ (todOut 4).get R.SYN_OUT_STAT_STATE 4 = 2 ∧ (pll 2 id).pllState 1 ≠ 3
    ∧ ((pll 3 id).syn.pll[(1 : Fin 4)].commit.isSome || (List.range 4).any fun i => (pll 3 id).get R.SYN_OUT_STAT_STATE (4 + i) == 1) = false
    ∧ (20 : Byte).toNat * 5 < 256 ∧ ¬((128 : Byte).toNat * 5 < 256 ∨ 4 * 256 < (128 : Byte).toNat * 5) ∧ 4 * (1 : Fin 4).val = (4 : Fin 16).val
    ∧ ((heel 0 0).set R.SYN_OUT_UNC 4 100).get R.SYN_OUT_UNC 4 < ((heel 0 0).edgeErr 4 (2 ^ 48 + 281475)).natAbs ∧ ((heel 0 0).edgeErr 4 (2 ^ 48)).natAbs ≤ (heel 0 0).get R.SYN_OUT_UNC 4 := by
  decide +kernel
theorem test_zda_sentence : State.reset.zda 0 ≠ [] := by decide +kernel

/-! ### Pack and Brace -/

/-- Pack enabled, with attachment 0, a Pack link, UP and its partner, node 5, in a state of R330; LC at 10 s. -/
def pck (st : Nat) : State :=
  let s := (((State.reset.setFlag R.PCK_CFG_ENABLE 0 true).set R.PCK_LINK_STAT_LINK_STATE 0 4).set R.PCK_ATT_STAT_STATE 0 st).set R.PCK_ATT_PARTNER_NODE 0 5
  tm (s.setFlag R.PCK_ATT_PARTNER_VALID 0 true) fun x => { x with lc := 10 * 2 ^ 48, running := true }
/-- The same on P3, attachment 7. -/
def pckP (st : Nat) : State :=
  let s := ((((port 4).setFlag R.PCK_CFG_ENABLE 0 true).set R.PCK_PORT_EN 0 8).set R.PCK_ATT_STAT_STATE 7 st).set R.PCK_ATT_PARTNER_NODE 7 5
  tm (s.setFlag R.PCK_ATT_PARTNER_VALID 7 true) fun x => { x with lc := 10 * 2 ^ 48, running := true }
/-- A Pack frame that waits. -/
def prx (s : State) (i : Fin 68) (typ src : Nat) (b : List Byte) : State :=
  { s with pck := { s.pck with rx := [{ att := i, typ := typ, src := src, seq := 3, payload := b, ts := some (2 ^ 60), ver := 1, degraded := false, auth := true }] } }
/-- The hidden state of attachment 7 changed. -/
def at7 (s : State) (f : AttSt → AttSt) : State := s.setAtt 7 (f (s.att 7))
/-- An exchange of SEQ 3 with the given instants. -/
def exch (t1 t2 t4 : Option Nat) (at_ : Option Nat) : Exch := { seq := 3, start := 0, t1 := t1, t2 := t2, t4 := t4, ver := 0, at_ := at_, degraded := false, auth := true }
theorem witness_rolls : State.reset.flag R.PCK_CFG_ENABLE = false ∧ (pckP 0).flag R.PCK_CFG_ENABLE = true ∧ ((pckP 0).setFlag R.PCK_CFG_ROLE 0 true).flag R.PCK_CFG_ROLE = true
    ∧ State.reset.carries (attOf 3) = false ∧ (pckP 0).carries (attOf 3) = true ∧ ((pckP 0).lport 3).pack = none
    ∧ (prx (pckP 1) 7 0 5 []).pck.rx.length = 1 ∧ (prx (pckP 1) 7 0 5 []).carries 7 = true ∧ (pckP 1).get R.PCK_NODE ≠ 5 ∧ ((pckP 1).set R.PCK_NODE 0 5).get R.PCK_NODE = 5
    ∧ (pckP 1).partnerId 7 = 5 ∧ (pckP 1).flag R.BRC_CFG_ENABLE = false ∧ ((pckP 1).setFlag R.PCK_CFG_ROLE 0 true).flag R.PCK_CFG_ROLE = true ∧ (pckP 1).partner 7 = 1 := by decide +kernel
theorem witness_partners : (pckP 1).partner 7 = 1 ∧ 2 ^ 48 ≤ (pckP 1).time.lc.toNat - ((pckP 1).att 7).rollLc ∧ (pckP 2).partner 7 ≠ 1 ∧ (pckP 2).partner 7 = 2
    ∧ (at7 (pckP 2) fun x => { x with unanswered := 8 }).departs 7 = true ∧ (pckP 2).flag R.BRC_CFG_ENABLE = false ∧ ((pckP 2).setFlag R.PCK_CFG_ROLE 0 true).flag R.PCK_CFG_ROLE = true
    ∧ (at7 (pckP 2) fun x => { x with rollLc := 10 * 2 ^ 48 }).departs 7 = false ∧ ((pckP 2).setFlag R.PCK_CFG_ROLE 0 true).uplinkAtt ≠ some 7
    ∧ (pckP 3).partner 7 = 3 ∧ ((pckP 3).set R.PCK_TIMERS_REARM_HOLD 0 1).get R.PCK_TIMERS_REARM_HOLD * 2 ^ 48 ≤ (pckP 3).time.lc.toNat - ((pckP 3).att 7).since
    ∧ (pckP 3).time.lc.toNat - ((at7 (pckP 3) fun x => { x with since := 10 * 2 ^ 48 }).att 7).since < ((pckP 3).set R.PCK_TIMERS_REARM_HOLD 0 1).get R.PCK_TIMERS_REARM_HOLD * 2 ^ 48 := by
  decide +kernel
/-- P3's partner as the uplink with GM_PRIO 9, and attachment 0 with a partner of GM_PRIO `b`, better since LC `l`. -/
def upl (b l : Nat) : State :=
  let elig := fun (s : State) (i : Fin 68) (pr : Nat) => ((s.setFlag R.PCK_ATT_PARTNER_P_GM_VALID i true).set R.PCK_ATT_STAT_STATE i 2 |>.set R.PCK_ATT_STAT_P_DEPTH i 1).setAtt i { s.att i with gmPrio := pr, seqLc := some (10 * 2 ^ 48), uplink := 9 }
  let s := elig (elig ((pckP 2).set R.PCK_STAT_UPLINK_ATT 0 7) 7 9) 0 b
  s.setAtt 0 { s.att 0 with better := some l }
theorem witness_uplink : (upl 1 0).flag R.PCK_CFG_ROLE = false ∧ (upl 1 0).uplinkAtt = some 7 ∧ (upl 1 0).eligible 7 = true ∧ (upl 1 0).eligible 0 = true
    ∧ ranksBefore ((upl 1 0).keys3 0) ((upl 1 0).keys3 7) = true ∧ (∀ d : Fin 68, d ≠ 0 → d = 7 ∨ (upl 1 0).eligible d = false)
    ∧ ((upl 1 0).att 0).better = some 0 ∧ (upl 1 0).get R.PCK_EXCH_REVERT_HOLD * 2 ^ 48 ≤ (upl 1 0).time.lc.toNat + 2 ^ 56
    ∧ ((upl 1 0).set R.PCK_EXCH_REVERT_HOLD 0 1).get R.PCK_EXCH_REVERT_HOLD * 2 ^ 48 ≤ (upl 1 0).time.lc.toNat - 0
    ∧ (upl 1 (10 * 2 ^ 48)).time.lc.toNat - 10 * 2 ^ 48 < ((upl 1 0).set R.PCK_EXCH_REVERT_HOLD 0 1).get R.PCK_EXCH_REVERT_HOLD * 2 ^ 48
    ∧ ranksBefore ((upl 200 0).keys3 0) ((upl 200 0).keys3 7) = false ∧ (pckP 2).pck.withhold = none ∧ (5 : Nat) ≤ (pckP 2).time.lc.toNat := by decide +kernel
theorem witness_exchanges : let s := pckP 2
    (pckP 1).partner 7 ≠ 2 ∧ s.partner 7 = 2 ∧ s.carries 7 = true ∧ (s.lport 3).pack = none ∧ (s.att 7).ex = none ∧ attOf 3 = 7
    ∧ ((prx s 7 1 5 []).pck.rx.all fun r => (prx s 7 1 5 []).fromPartner r) = true ∧ (at7 s fun x => { x with ex := some (exch (some 1) (some 2) (some 4) (some 0)) }).att 7 ≠ s.att 7
    ∧ ((s.lport 3).packTs = none) ∧ s.pck.withhold = none ∧ s.knl.inlet.length < 64 ∧ (s.set R.PCK_STAT_UPLINK_ATT 0 7).uplinkAtt = some 7 ∧ s.uplinkAtt ≠ some 7
    ∧ ((10 * 2 ^ 48 : Nat) - 10 * 2 ^ 48) * 100 < 2 ^ 48 ∧ 2 ^ 48 ≤ (10 * 2 ^ 48 - 0) * 100 := by decide +kernel
/-- A T_REQ of SEQ 3 that waits for its transmit timestamp. -/
def tsReq : List Byte := List.replicate 14 0 ++ [1, 1, 0, 0, 0, 5, 0, 3, 0, 0]
theorem witness_pack_timestamps : let f := fun (typ : Byte) => List.replicate 14 0 ++ [1, typ, 0, 0, 0, 5, 0, 3, 0, 0]
    let s := fun (typ : Byte) => lq (pckP 2) fun x => { x with packTs := some (f typ, 7, false) }
    ((s 1).lport 3).packTs = some (f 1, 7, false) ∧ beAt ((f 1).drop 14) 1 1 = 1 ∧ beAt ((f 2).drop 14) 1 1 = 2 ∧ (exch none none none none).seq = beAt ((f 1).drop 14) 6 2
    ∧ ((at7 (s 2) fun x => { x with reply := some (3, false) }).att 7).reply = some (beAt ((f 2).drop 14) 6 2, false) ∧ ((s 2).lport 3).pack = none := by decide +kernel
theorem test_exchange_result : nextIs (exec (.tFupReceive .queued) (at7 (prx (pckP 2) 7 3 5 (beBytes 12 (1000 + 2 ^ 59) ++ List.replicate 8 0)) fun x =>
      { x with ex := some (exch (some 0) (some 1000) (some (2000 + 2 ^ 59)) (some 0)) }))
    (fun t => t.get R.PCK_ATT_MPD 7 == 1000 && t.get R.PCK_ATT_OFS 7 == 0 && (t.att 7).ex.isNone) = true := by decide +kernel
def packCopy : SlotCopy := { value := 0, attr := 0x10721, gen := 1, tag := 0x27ab12a47ac7c691f7abfc8746089e5c }
theorem pack_tag : packCopy.tag = State.reset.slotTag 0 packCopy := by decide +kernel
theorem witness_pack_key : ∃ d, State.reset.writes pf0 R.PCK_AUTH_SLOT.addr ∧ (0x100 : Word).toNat % 32 = (0 : Fin 32).val ∧ (0x100 : Word).getLsbD 8 = true
    ∧ ((slot0 packCopy).wkrLoad 3 [16] 0 (some pf0) []).1 = some d :=
  ⟨_, by unfold State.writes; decide +kernel, rfl, rfl,
    by rw [wkr_pass (c := packCopy) (by decide +kernel) (by decide +kernel) (pack_tag.trans (slotTag_devId 0 packCopy (by decide +kernel) (by decide +kernel)).symm) (by decide +kernel)]⟩
/-- Brace enabled on P3's attachment, the pair in a state, LEAD as given. -/
def brc (st : Nat) (lead : Bool) (f : BrcSt → BrcSt) : State :=
  let s := ((((pckP 2).setFlag R.BRC_CFG_ENABLE 0 true).set R.KNL_TIME_MODE_MODE 0 1 |>.set R.BRC_CFG_ATT 0 7).set R.BRC_STAT_PAIR_STATE 0 st).setFlag R.BRC_STAT_LEAD 0 lead
  { s with brc := f s.brc }
/-- The 16 bytes of a BRACE frame with the given FLAGS, and SWAP_AT 30. -/
def braceBytes (flags : Byte) : List Byte := [1, 0, 0, flags, 0, 0, 0, 0, 0, 30, 0, 0, 0, 0, 0, 0]
theorem witness_brace : let s := brc 2 true id
    s.braceAtt = some (attOf 3) ∧ s.flag R.BRC_CFG_ENABLE = true ∧ s.carries (attOf 3) = true ∧ (s.lport 3).pack = none ∧ State.reset.flag R.BRC_CFG_ENABLE = false
    ∧ ((prx s 7 4 5 (braceBytes 4)).pck.rx.all fun r => (prx s 7 4 5 (braceBytes 4)).fromPartner r && r.typ == 4) = true ∧ s.pairState = 2
    ∧ (beAt (braceBytes 2) 2 2).testBit 1 = true ∧ (brc 2 false id).flag R.BRC_STAT_LEAD = false ∧ (beAt (braceBytes 4) 2 2).testBit 2 = true ∧ s.flag R.BRC_STAT_LEAD = true
    ∧ (brc 2 true fun b => { b with propose := some 30 }).brc.propose = some 30 ∧ s.brc.swapAt = none ∧ s.rt.toNat * 10 + 2 ^ 48 ≤ 30 * 2 ^ 48 * 10
    ∧ (brc 2 true fun b => { b with swapAt := some 30 }).rtSec < 30 ∧ 5 ≤ (brc 2 true fun b => { b with swapAt := some 5 }).rtSec
    ∧ s.flag R.BRC_STAT_MUTED = false ∧ s.flag R.BRC_STAT_PARTNER_MUTED = false ∧ (brc 3 true id).pairState ≠ 2 := by decide +kernel
theorem witness_mute : let s := (brc 2 true fun b => { b with calm := 20 })
    s.writes pf0 R.BRC_CTRL_UNMUTE.addr ∧ (2 : Word).getLsbD 0 = false ∧ (1 : Word).getLsbD 1 = false ∧ s.mild fsBrcMuted ∧ (s.setFlag R.BRC_STAT_MUTED 0 true).flag R.BRC_STAT_MUTED = true
    ∧ ((s.setFlag R.BRC_CFG_AUTO_UNMUTE 0 true).set R.BRC_UNMUTE_TIME 0 10).flag R.BRC_CFG_AUTO_UNMUTE = true ∧ ((s.setFlag R.BRC_CFG_AUTO_UNMUTE 0 true).set R.BRC_UNMUTE_TIME 0 10).get R.BRC_UNMUTE_TIME ≤ s.brc.calm
    ∧ s.pairState = 2 ∧ State.reset.pairState ≠ 2 := by
  unfold State.writes State.mild State.room; decide +kernel
theorem test_braces_swap : nextIs (exec .braceSwap (brc 2 true fun b => { b with swapAt := some 5 })) (fun t => !t.flag R.BRC_STAT_LEAD && t.get R.BRC_CNT0_SWAPS == 1) = true := by decide +kernel

/-! ### AES ports, fetch channels and the host -/

/-- In LC at second 1, hidden state of AES port 1 changed. -/
def adr (f : AdrPort → AdrPort) : State := let s := tm inLc fun x => { x with lc := 2 ^ 48 }; s.setAdr 1 (f (s.adrPort 1))
/-- A clock for AES port 1: output 4 of PLL 1 in RT mode at 128 × 48 kHz, aligned. -/
def clk (s : State) : State :=
  let p := ((s.set R.SYN_SP_CFG_MODE.act 1 1).set R.SYN_SP_N_INT.act 1 49).set R.SYN_SP_N_DEN.act 1 125 |>.set R.SYN_SP_N_NUM.act 1 19
  ((p.set R.SYN_OUT_DIV.act 4 800).set R.SYN_OUT_CFG_KIND.act 4 0 |>.set R.SYN_OUT_STAT_STATE 4 2).set R.ADR_CFG_CLK_OUT 1 4 |>.set R.ADR_CFG_FS 1 2 |>.setFlag R.ADR_CFG_ENABLE 1 true
/-- AES port 1 as an output that runs. -/
def aout (f : AdrPort → AdrPort) : State := clk (adr fun x => f { x with on := true })
/-- AES port 1 as an input that runs, in a state of R358. -/
def ain (st : Nat) (f : AdrPort → AdrPort) : State := (adr fun x => f { x with on := true, input := true }).set R.ADR_PSTAT_IN_STATE 1 st
theorem witness_start : State.reset.writes pf0 R.ADR_START2_PORTS.addr ∧ (clk (adr id)).adrRefuses 5 0 2 = false ∧ (clk (adr id)).adrRefuses 0 0 2 = true ∧ (adr id).adr.armed = none
    ∧ (adr id).rt.toNat * 1000 < (5 * 1000 + 0) * 2 ^ 48 ∧ (1 * 1000 + 0) * 2 ^ 48 ≤ (adr id).rt.toNat * 1000 ∧ (2 : Nat).testBit (1 : Fin 4).val = true ∧ (aout id).adrOut 1 = true
    ∧ ((aout id).setFlag R.ADR_CFG_SRC 1 true).flag R.ADR_CFG_SRC 1 = true ∧ (adr id).adrOut 1 = false := by unfold State.writes; decide +kernel
theorem witness_commit_and_blocks : State.reset.writes pf0 (R.ADR_CS_COMMIT.at 1) ∧ ((adr id).setFlag R.ADR_PSTAT_COMMIT_PENDING 1 true).flag R.ADR_PSTAT_COMMIT_PENDING 1 = true
    ∧ (adr id).flag R.ADR_PSTAT_COMMIT_PENDING 1 = false ∧ (tm (aout id) fun x => { x with lc := 2 ^ 48 + 2 ^ 35 }).adrFrame 2 % 192 ≠ 0 ∧ (aout id).adrFrame 2 % 192 = 0
    ∧ ((adr id).setFlag R.ADR_CFG_ENABLE 1 true |>.setFlag R.ADR_CFG_DIR 1 true).flag R.ADR_CFG_DIR 1 = true ∧ (adr id).flag R.ADR_CFG_ENABLE 1 = false
    ∧ (aout id).flag R.ADR_CFG_ENABLE 1 = true ∧ (aout id).flag R.ADR_CFG_DIR 1 = false ∧ (aout id).get R.ADR_CFG_FS 1 = ((aout id).adrPort 1).fs ∧ (aout id).adrClkOk 1 2 = true
    ∧ (aout id).adrAligned 1 = true ∧ ((aout id).setFlag R.ADR_PSTAT_PLAYING 1 true).flag R.ADR_PSTAT_PLAYING 1 = true ∧ ((aout id).adrPort 1).lost = false
    ∧ ((aout id).set R.SYN_OUT_STAT_STATE 4 1).adrAligned 1 = false := by unfold State.writes; decide +kernel
/-- AES port 1 playing from a ring that holds `n` frames. -/
def plays (n : Nat) : State := ((aout id).setFlag R.ADR_CFG_SRC 1 true |>.setFlag R.ADR_PSTAT_PLAYING 1 true).set R.ADR_RING_WR 1 n
theorem witness_frames_out : (plays 0).adrOut 1 = true ∧ ((plays 0).adrPort 1).sent = none ∧ (aout id).flag R.ADR_CFG_SRC 1 = false ∧ (plays 0).flag R.ADR_CFG_SRC 1 = true
    ∧ (plays 0).flag R.ADR_PSTAT_PLAYING 1 = true ∧ (plays 0).adrHeld 1 = 0 ∧ ((plays 0).adrPort 1).dry = false ∧ (plays 9).adrHeld 1 = 9
    ∧ (adr fun x => { x with lost := true }).adrPort 1 ≠ (adr id).adrPort 1 := by decide +kernel
/-- A frame of an AES input. -/
def aes (pre : Option (Bool × BitVec 96)) : AesFrame := { preamble := pre, a := 0x12345600, b := 0x789ABC00, codeErr := false }
theorem witness_frames_in : let c := ((ain 2 id).setFlag R.ADR_CFG_CAP_EN 1 true).set R.ADR_RING_BASE 1 0x10000000
    (ain 1 id).refState (18 + (1 : Fin 4).val) = 0 ∧ ((ain 1 id).adrPort 1).on = true ∧ ((ain 1 id).adrPort 1).input = true ∧ (ain 2 id).get R.ADR_PSTAT_IN_STATE 1 = 2
    ∧ c.flag R.ADR_CFG_CAP_EN 1 = true ∧ c.adrHeld 1 < 2 ^ c.get R.ADR_RING_CFG_SIZE_LOG2 1 ∧ inSram (c.adrSlot 1 (c.get R.ADR_RING_WR 1)) (c.adrBytes 1) = true
    ∧ c.hung (targetOf (c.adrSlot 1 (c.get R.ADR_RING_WR 1))) = false ∧ (ain 1 id).get R.ADR_PSTAT_IN_STATE 1 = 1 ∧ (ain 1 id).flag R.ADR_CFG_CAP_EN 1 = false
    ∧ ((ain 1 fun x => { x with frames := 192, clean := true, good := 1 }).adrPort 1).frames = 192 ∧ 4 ≤ ((ain 2 fun x => { x with missing := 4 }).adrPort 1).missing
    ∧ ((ain 2 id).adrPort 1).missing < 4 ∧ (ain 2 id).knl.inlet.length < 64 := by decide +kernel
theorem test_capture : nextIs (exec (.adrInputFrame 1 (aes (some (false, 7)))) (((ain 2 id).setFlag R.ADR_CFG_CAP_EN 1 true).set R.ADR_RING_BASE 1 0x10000000))
    (fun t => t.bytes 0x10000000 6 == [0x56, 0x34, 0x12, 0xBC, 0x9A, 0x78] && t.get R.ADR_RING_WR 1 == 1) = true := by decide +kernel
/-- Channel 2, of PF0, in a state of R371. -/
def fch (st : Nat) (f : FchCh → FchCh) : State := let s := ram.set R.FCH_CH_STAT_STATE 2 st; s.setFch 2 (f (s.fchCh 2))
/-- The first 28 bytes of a descriptor, and the whole of it. -/
def desc28 (next chip len ctl : Nat) : List Byte := leBytes 8 0x1000 ++ leBytes 8 next ++ leBytes 4 chip ++ leBytes 4 len ++ leBytes 4 ctl
def desc (next chip len ctl : Nat) : List Byte := desc28 next chip len ctl ++ leBytes 4 (crc32c (desc28 next chip len ctl))
theorem witness_heads : (fch 0 id).writes pf0 (R.FCH_CH_HEAD.at 2 + 4) ∧ (fch 3 id).chState 2 = chDISABLED ∧ (fch 1 id).chState 2 ≠ chDISABLED ∧ (fch 1 id).chState 2 ≠ chIDLE
    ∧ 8 ≤ ((fch 1 fun x => { x with chains := List.replicate 8 0 }).fchCh 2).chains.length ∧ ((fch 1 id).fchCh 2).chains.length < 8 ∧ (fch 1 id).mild fsFchDbellOvf
    ∧ (fch 0 id).chState 2 = chIDLE ∧ ((fch 0 id).fchCh 2).chains = [] ∧ ((fch 0 id).heldWord (R.FCH_CH_HEAD.at 2)).toNat = 0 ∧ (2 ^ 32 * 1 : Nat) % 32 = 0
    ∧ ({ fch 0 id with holdw := [(R.FCH_CH_HEAD.at 2, 4)] }.heldWord (R.FCH_CH_HEAD.at 2)).toNat % 32 ≠ 0 := by unfold State.writes State.mild State.room; decide +kernel
theorem witness_descriptor_checks : descFault 0 (desc 0 0x10000000 16 2) = none ∧ descFault 0 (desc28 0 0x10000000 16 2 ++ leBytes 4 0) = some fcCRC ∧ descFault 0 (desc 4 0x10000000 16 0) = some fcBADDESC
    ∧ descFault 2 (desc 0 0x10000000 16 2) = some fcPERM ∧ descFault 0 (desc 0 0x41004001 16 2) = some fcALIGN ∧ descLen (desc 0 0x10000000 16 2) = 16 ∧ descLen (desc 0 0x10000000 0 2) = 0
    ∧ descFault 0 (desc 0 0x10000000 0 2) = none ∧ descBit (desc 0 0x10000000 0 2) 1 = true ∧ (fch 1 id).chFn 2 = 0 := by decide +kernel
/-- The work on a descriptor. -/
def work (next len ctl : Nat) : FchWork := { addr := 0x2000, desc := desc next 0x10000000 len ctl, moved := 0, crc := 0xFFFFFFFF }
theorem witness_fetch_data : let s := fch 1 fun x => { x with work := some (work 0x40 16 0) }
    ((fch 1 fun x => { x with fetch := some 0x2000 }).fchCh 2).fetch = some 0x2000 ∧ (s.fchCh 2).work = some (work 0x40 16 0) ∧ (s.fchCh 2).stop = none ∧ s.pwr.sramClear = true
    ∧ descBit (work 0x40 16 0).desc 0 = false ∧ inSram (descChip (work 0x40 16 0).desc) 16 = true ∧ s.hung (targetOf (descChip (work 0x40 16 0).desc)) = false
    ∧ ¬descLen (work 0 2000 2).desc ≤ 0 + 16 ∧ descLen (work 0 16 6).desc ≤ 0 + 16 ∧ descBit (work 0 16 6).desc 2 = true ∧ descBit (work 0 16 2).desc 1 = true ∧ (s.fchCh 2).chains = []
    ∧ descBit (work 0x40 16 0).desc 1 = false ∧ (s.set R.FCH_CH_HOP_MAX 2 0).get R.FCH_CH_HOP_MAX 2 ≤ (s.fchCh 2).hops ∧ (s.fchCh 2).hops < s.get R.FCH_CH_HOP_MAX 2
    ∧ descBit (work 0 2000 3).desc 0 = true ∧ s.sramOk (descChip (work 0 2000 3).desc) 512 = true ∧ 0 + 512 < descLen (work 0 2000 3).desc := by decide +kernel
theorem witness_channel_ends : (fch 1 fun x => { x with fetch := some 0x2000 }).chReads 2 = true ∧ (fch 1 id).chReads 2 = false ∧ (fch 1 id).writes pf0 (R.FCH_CH_CTRL_ABORT.at 2)
    ∧ (fch 0 id).chState 2 ≠ chRUNNING ∧ (fch 1 id).chState 2 = chRUNNING ∧ (fch 2 id).chState 2 = chHALTED ∧ (0x2000 : Nat) % 32 = 0 ∧ (fch 1 id).chState 2 ≠ chHALTED := by
  unfold State.writes; decide +kernel
theorem test_descriptor_with_a_bad_crc : nextIs (exec (.fchDescriptorFetch 2 (.data (List.replicate 32 1))) (fch 1 fun x => { x with fetch := some 0x2000 }))
    (fun t => t.chState 2 == chHALTED && t.get R.FCH_CH_STAT_LAST_STATUS 2 == fcCRC) = true := by decide +kernel
theorem witness_host : let on := State.reset.fnBit 0 true
    ram.answers pf0 = true ∧ (0 : Fin 4).val < 2 ∧ ram.pwr.sramClear = true ∧ ram.badAt 0x10000000 8 = false ∧ ram.softs 0x10000000 8 = 0
    ∧ (let s : State := { ram with soft := [0x10000004] }; s.answers pf0 = true ∧ s.badAt 0x10000000 8 = false ∧ s.softs 0x10000000 8 ≠ 0 ∧ s.mild fsSramEccCorr) ∧ ram.answers (.pf 0) = true ∧ 2 ≤ (2 : Fin 4).val
    ∧ (State.reset.fnBit 4 true).flrOn 0 = true ∧ State.reset.flrOn 0 = false ∧ ((fch 3 id).setFlag R.FCH_CH_CFG_ENABLE 2 true).flag R.FCH_CH_CFG_ENABLE 2 = true ∧ (fch 3 id).chFn 2 = (0 : Fin 4).val
    ∧ (fch 3 id).chState 2 = chDISABLED ∧ ((fch 3 id).fchCh 2).stop = none ∧ ((fch 3 id).fchCh 2).chains = [] ∧ vecFn (3 : Fin 64).val = (0 : Fin 4).val
    ∧ ({ on with hst := { on.hst with msgs := [3] } }).hst.msgs = [3]
    ∧ ({ on with hst := { on.hst with msgs := [3], msix := [(3 * 16 + 12, 0)] } }).msgMay 3 = true ∧ State.reset.msgMay 3 = false
    ∧ ({ on with hst := { on.hst with pba := 8, msix := [(3 * 16 + 12, 0)] } }).hst.pba.getLsbD (3 : Fin 64).val = true ∧ State.reset.hst.pba.getLsbD (3 : Fin 64).val = false
    ∧ State.reset.writes pf0 (R.HST_IRQ_PEND.at 0 + 4 * (1 : Fin 2).val) ∧ State.reset.writes pf0 (R.HST_H_DBELL.at 0) ∧ State.reset.get R.HST_H_DBELL_PEND = 0 := by
  unfold State.writes State.mild State.room; decide +kernel

/-! ### Clocks, power and the Bury save -/

/-- XTAL ready, and the rest changed. -/
def xt (f : State → State) : State := f (State.reset.setFlag R.CLK_STAT_XTAL_RDY 0 true)
theorem witness_crystals : State.reset.powered = true ∧ (State.reset.setFlag R.CLK_STAT_XTAL_RDY 0 false).flag R.CLK_STAT_XTAL_RDY = false ∧ (xt id).flag R.CLK_STAT_XTAL_RDY = true
    ∧ { State.reset with pwr := { State.reset.pwr with power := .off } }.powered = false ∧ (State.reset.setFlag R.CLK_STAT_AON_SRC 0 false).windowOk 40000 = true
    ∧ (State.reset.setFlag R.CLK_STAT_AON_SRC 0 false).windowOk 43200 = true ∧ (State.reset.setFlag R.CLK_STAT_AON_SRC 0 false).windowOk 43201 = false
    ∧ (State.reset.setFlag R.CLK_STAT_AON_SRC 0 true).windowOk 39453 = true ∧ (State.reset.setFlag R.CLK_STAT_AON_SRC 0 true).windowOk 39454 = false
    ∧ (xt id).mild fsXtalLost ∧ (State.reset.setFlag R.CLK_STAT_AON_XTAL_RDY 0 true).flag R.CLK_STAT_AON_XTAL_RDY = true ∧ State.reset.mild fsAonXtalLost
    ∧ (State.reset.setFlag R.CLK_STAT_AON_XTAL_RDY 0 false).flag R.CLK_STAT_AON_XTAL_RDY = false := by
  unfold State.mild State.room; decide +kernel
theorem witness_syspll : let l := xt fun s => s.setFlag R.CLK_STAT_SYSPLL_LOCK 0 true
    let c := xt fun s => s.setFlag R.CLK_STAT_SYSPLL_COAST 0 true
    (xt id).flag R.CLK_STAT_SYSPLL_LOCK = false ∧ (xt id).flag R.CLK_STAT_SYSPLL_COAST = false ∧ l.flag R.CLK_STAT_SYSPLL_LOCK = true ∧ l.mild fsSyspllUnlock
    ∧ (State.reset.setFlag R.CLK_STAT_XTAL_LOST 0 true).flag R.CLK_STAT_XTAL_LOST = true ∧ l.flag R.CLK_STAT_XTAL_LOST = false ∧ c.flag R.CLK_STAT_SYSPLL_COAST = true
    ∧ State.reset.writes pf0 (R.CLK_ROOT_SEL.at 0) ∧ l.pwr.rootSw = none ∧ l.get R.CLK_STAT_ROOT_SRC = 0 ∧ (1 : Word).toNat % 2 ≠ l.get R.CLK_STAT_ROOT_SRC
    ∧ { l with pwr := { l.pwr with rootSw := some 1 } }.pwr.rootSw = some 1 ∧ { l with pwr := { l.pwr with aonSw := some 0 } }.pwr.aonSw = some 0 := by
  unfold State.mild State.room State.writes; decide +kernel
/-- Oscillators 1 and 2 enabled for KPLL with PREF 3 and 1, in states as given. -/
def kpll (a b : Nat) : State :=
  workSet (workSet ((State.reset.set R.OSC_STATE_STATE 1 a).set R.OSC_STATE_STATE 2 b) 0xB84 0xB0) 0xB88 0x90 |>.setFlag R.CLK_STAT_XTAL_RDY 0 false
/-- KPLL locked to a source. -/
def onSrc (s : State) (k : Nat) : State := (s.setFlag R.CLK_STAT_KPLL_LOCK 0 true).set R.CLK_STAT_KPLL_SRC 0 k
theorem witness_kpll : ((kpll 1 0).kpllEdges 15).kpllBest = some 1 ∧ ((kpll 1 2).kpllEdges 15).kpllBest = some 2 ∧ (kpll 0 0).kpllBest = none ∧ ((kpll 0 0).setFlag R.CLK_STAT_XTAL_RDY 0 true).kpllBest = some 4
    ∧ (onSrc (kpll 1 0) 2).flag R.CLK_STAT_KPLL_LOCK = true ∧ (onSrc (kpll 1 0) 2).get R.CLK_STAT_KPLL_SRC ≠ 7 ∧ ((onSrc (kpll 1 0) 2).kpllEdges 15).kpllReady 2 = false
    ∧ ((onSrc (kpll 1 0) 2).kpllEdges 15).kpllBest = some 1 ∧ ((onSrc (kpll 0 0) 2).kpllEdges 15).kpllBest = none ∧ (onSrc (kpll 0 0) 2).flag R.CLK_STAT_KPLL_HOLD = false
    ∧ (onSrc (kpll 0 0) 2).mild fsKpllHold ∧ (onSrc (kpll 1 0) 7).get R.CLK_STAT_KPLL_SRC = 7 ∧ ((onSrc (kpll 1 0) 7).setFlag R.CLK_STAT_KPLL_HOLD 0 true).flag R.CLK_STAT_KPLL_HOLD = true
    ∧ (kpll 1 0).flag R.CLK_STAT_KPLL_LOCK = false ∧ (kpll 1 0).pwr.power = .on ∧ (kpll 1 0).aon.vrst = false := by
  unfold State.mild State.room; decide +kernel
theorem witness_better_source : let s := onSrc (kpll 1 2) 1
    let t := { s with refs := { s.refs with osc := s.refs.osc.set 2 { s.refs.osc[(2 : Fin 5)] with memberFor := 60 } } }
    (t.kpllEdges 15).kpllReady 2 = true ∧ t.oscState 2 = 2 ∧ 60 ≤ t.refs.osc[(2 : Fin 5)].memberFor ∧ t.kpllPref 2 < t.kpllPref (t.get R.CLK_STAT_KPLL_SRC) := by decide +kernel
theorem test_first_lock : nextIs (exec (.kpllFirstLock 15) (kpll 1 0)) (fun t => t.time.running && t.get R.CLK_STAT_KPLL_SRC == 1 && t.flag R.CLK_STAT_KPLL_LOCK) = true := by decide +kernel
/-- Hidden state of power and regions changed. -/
def pw (f : PwrSt → PwrSt) : State := { State.reset with pwr := f State.reset.pwr }
theorem witness_gates : let g := State.reset.set R.PWR_GATE_STAT_GATED 0 4
    State.reset.writes pf0 (R.PWR_GATE_CMD_UNIT.at 0) ∧ (pw fun p => { p with ungating := [2] }).gateInProg 2 = true ∧ State.reset.gateInProg 2 = false ∧ g.gated 2 = true ∧ State.reset.gated 2 = false
    ∧ State.reset.gateCond 2 = true ∧ (State.reset.set R.PRT_STAT_LINK_STATE 16 4).gateCond 2 = false ∧ (g.set R.PWR_GATE_STAT_NEEDS_RESET 0 4).needsReset 2 = true ∧ g.needsReset 2 = false
    ∧ (pw fun p => { p with quiesce := [(2, true, 0)] }).pwr.quiesce.find? (fun q => q.1 == (2 : Fin 11).val) = some (2, true, 0) ∧ State.reset.mild fsGateBusy
    ∧ State.reset.pwr.quiesce.find? (fun q => q.1 == (2 : Fin 11).val) = none ∧ (pw fun p => { p with ungating := [2] }).pwr.ungating.any (· == (2 : Fin 11).val) = true
    ∧ State.reset.pwr.ungating.any (· == (2 : Fin 11).val) = false ∧ State.reset.writes pf0 (R.PWR_CTRL_DOZE_EN.at 0) ∧ State.reset.get R.PWR_STATE ≠ 2
    ∧ (2 : Fin 11).val ∈ (pw fun p => { p with auto := [2] }).pwr.auto ∧ (State.reset.set R.PWR_STATE 0 1).get R.PWR_STATE = 1 ∧ (pw fun p => { p with retry := [(2, 0)] }).pwr.retry.any (fun q => q.1 == (2 : Fin 11).val) = true
    ∧ State.reset.pwr.retry.any (fun q => q.1 == (2 : Fin 11).val) = false ∧ ((engAt 5 stStopped).set R.PWR_STATE 0 1).engState 5 = stStopped := by
  unfold State.writes State.mild State.room; decide +kernel
theorem witness_crossing_checks : (pw fun p => { p with power := .deep }).pwr.power ≠ .on ∧ State.reset.pwr.power = .on ∧ State.reset.pwr.skew[(3 : Fin 11)] = none
    ∧ (pw fun p => { p with skew := p.skew.set 3 (some (999, 1)) }).pwr.skew[(3 : Fin 11)] = some (999, 1)
    ∧ (onePg.pwrSample (List.replicate 13 800) (List.replicate 13 850)).crossCauses 3 50 28 [] = 0 := by decide +kernel
theorem test_forced_gate_needs_reset : nextIs (exec (.pwrForce pf0 2) State.reset) (fun t => t.gated 2 && t.needsReset 2) = true := by decide +kernel
/-- AON changed. -/
def ao (f : AonSt → AonSt) : State := { State.reset with aon := f State.reset.aon }
/-- A save of a cause that has not captured. -/
def saving (f : AonSt → AonSt) : State := ao fun a => f { a with save := some { cause := 0, bone := none } }
theorem witness_save : (ao id).pwr.power = .on ∧ (ao id).get R.PWR_STATE ≤ 1 ∧ (ao id).aon.vrst = false ∧ (State.reset.setFlag R.AON_VIN_STAT_HOLD_RDY 0 true).flag R.AON_VIN_STAT_HOLD_RDY = true
    ∧ (State.reset.setFlag R.AON_VIN_STAT_HOLD_RDY 0 false).flag R.AON_VIN_STAT_HOLD_RDY = false ∧ State.reset.mild fsHoldLow ∧ (ao id).aon.save = none ∧ (saving id).aon.save ≠ none
    ∧ 2 ≤ (State.reset.set R.PWR_STATE 0 2).get R.PWR_STATE ∧ (ao fun a => { a with vrst := true }).aon.vrst = true := by unfold State.mild State.room; decide +kernel
theorem witness_save_commit : (saving id).saveCapture.aon.save.bind (·.bone) ≠ none ∧ (saving id).aon.deep = false ∧ (saving id).active fsBoneNoSlot = false ∧ (saving id).aon.erased ≠ 0
    ∧ 5 ≤ (saving id).aon.erased ∧ (saving id).aon.next = [] ∧ (saving fun a => { a with erased := 4 }).aon.erased - 1 < 4 ∧ (saving fun a => { a with erased := 4 }).mild fsBoneNoSlot
    ∧ ((saving id).set R.FLT_ACTIVE (fsBoneNoSlot / 32) (2 ^ (fsBoneNoSlot % 32))).active fsBoneNoSlot = true ∧ (saving fun a => { a with next := [3] }).aon.next = [3] ∧ (saving fun a => { a with deep := true }).aon.deep = true := by
  unfold State.mild State.room; decide +kernel
theorem witness_survival : let s := ((ao id).set R.PWR_STATE 0 2).set R.AON_VIN_STAT_SAVE_STATE 0 4
    s.pwr.power = .on ∧ s.get R.PWR_STATE = 2 ∧ s.get R.AON_VIN_STAT_SAVE_STATE = 4 ∧ s.aon.save = none ∧ s.aon.vrst = false ∧ 3075 < (4000 : BitVec 13).toNat ∧ s.mild fsBrownoutSurvived
    ∧ (engAt 0 stRunning).engState (kEng (engAt 0 stRunning).lead) = stRunning ∧ State.reset.writes pf0 (R.PWR_DEEP.at 0) ∧ s.dbg ≠ 2 ∧ State.reset.get R.PWR_STATE ≠ 2 ∧ State.reset.aon.deep = false := by
  unfold State.mild State.room State.writes; decide +kernel
theorem test_survival_needs_recovered_vin : nextIs (exec (.burySurvival 3075) (((ao id).set R.PWR_STATE 0 2).set R.AON_VIN_STAT_SAVE_STATE 0 4)) (fun t => t.get R.PWR_STATE == 2) = true := by decide +kernel
theorem witness_hold : State.reset.powered = true ∧ (2000 : BitVec 13).toNat < 2400 ∧ State.reset.aon.save = none ∧ State.reset.saveRuns = false ∧ (State.reset.set R.AON_VIN_STAT_SAVE_STATE 0 1).saveRuns = true
    ∧ (ao fun a => { a with erased := 14332 }).aon.erased + 4 ≤ 14336 ∧ 14336 < State.reset.aon.erased + 4 ∧ (ao fun a => { a with erased := 4 }).aon.erased ≤ 4 ∧ State.reset.mild fsBoneNoSlot
    ∧ (pw fun p => { p with power := .deep }).pwr.power = .deep ∧ ((pw fun p => { p with power := .deep }).setFlag R.PWR_WAKE_CFG_WAKE_PIN_EN 0 true).flag R.PWR_WAKE_CFG_WAKE_PIN_EN = true
    ∧ (((pw fun p => { p with power := .deep }).setFlag R.PWR_WAKE_CFG_TIMER_EN 0 true).set R.PWR_WAKE_TIME 0 60).get R.PWR_WAKE_TIME ≤ 60 ∧ State.reset.writes pf0 (R.PWR_CHIP_RESET.at 0)
    ∧ State.reset.pwr.sramClear = false ∧ (State.reset.set R.CLK_STAT_ROOT_SRC 0 1).get R.CLK_STAT_ROOT_SRC = 1 ∧ ram.pwr.sramClear = true := by
  unfold State.mild State.room State.writes; decide +kernel
theorem test_hold_rdy_at_the_limit : nextIs (exec (.holdRdyChange 4500) State.reset) (fun t => t.flag R.AON_VIN_STAT_HOLD_RDY) = true
    ∧ nextIs (exec (.holdRdyChange 4499) State.reset) (fun t => !t.flag R.AON_VIN_STAT_HOLD_RDY) = true := by decide +kernel

/-! ### Keys, life cycle and debug -/

/-- What a key update message whose command is sealed under a key of 32 bytes reads as (R441, R442). -/
theorem kum_sealed {s : State} {key h pt : List Byte} (hk : key.length = 32) (hh : h.length = 64) (hp : pt.length = 32)
    (hb : s.sec.kumBuf = BitVec.ofNat 896 (ofLe (h ++ (sivSeal key [h] pt).1 ++ (sivSeal key [h] pt).2))) :
    (∀ o n, o + n ≤ 64 → slice s.kum o n = slice h o n) ∧ sivOpen key [slice s.kum 0 0x40] (slice s.kum 0x40 16) (slice s.kum 0x50 32) = some pt := by
  obtain ⟨h1, h2⟩ := sivSeal_length hk [h] pt
  have ho := sivOpen_sivSeal hk [h] pt
  generalize (sivSeal key [h] pt).1 = a at *
  generalize (sivSeal key [h] pt).2 = b at *
  have hl : (h ++ a ++ b).length = 112 := by simp [hh, h1, h2, hp]
  have hq : s.kum = h ++ a ++ b := by
    have hm : ofLe (h ++ a ++ b) % 2 ^ 896 = ofLe (h ++ a ++ b) := Nat.mod_eq_of_lt (by have := ofLe_lt (h ++ a ++ b); rw [hl] at this; exact lt_of_lt_of_eq this (by rw [show (256 : Nat) = 2 ^ 8 from rfl, ← Nat.pow_mul]))
    have hx := leBytes_ofLe (h ++ a ++ b)
    rw [hl] at hx
    rw [State.kum, hb, BitVec.toNat_ofNat, hm, hx]
  have hs : ∀ o n, o + n ≤ 64 → slice s.kum o n = slice h o n := by
    intro o n hon
    rw [hq, List.append_assoc, slice, slice, List.drop_append_of_le_length (by omega), List.take_append_of_le_length (by simp [hh]; omega)]
  refine ⟨hs, ?_⟩
  have e1 : slice s.kum 0 0x40 = h := by rw [hs 0 64 (by omega), slice, List.drop_zero, List.take_of_length_le (by omega)]
  have e2 : slice s.kum 0x40 16 = a := by rw [hq, List.append_assoc, slice, List.drop_left' hh, List.take_left' h1]
  have e3 : slice s.kum 0x50 32 = b := by rw [hq, slice, List.drop_left' (by simp [hh, h1]), List.take_of_length_le (by simp [h2, hp])]
  rw [e1, e2, e3, ho]
/-- The 64 bytes of a key update message before its seal (R441), signed by the fixed key, of COUNT 1. -/
def kumHdr (kind slot attr dur : Nat) : List Byte :=
  [0x4B, 0x55, 0x4D, 0x31, BitVec.ofNat 8 kind, BitVec.ofNat 8 slot, 0, 0] ++ List.replicate 16 0 ++ leBytes 8 1 ++ leBytes 4 attr ++ leBytes 4 dur ++ List.replicate 24 0
/-- From reset, with such a message sealed over a slot value. -/
def kumOf_ (h pt : List Byte) : State :=
  let x := sivSeal (State.reset.rootKey "KUM-TK" []) [h] pt
  { State.reset with sec := { State.reset.sec with kumBuf := BitVec.ofNat 896 (ofLe (h ++ x.1 ++ x.2)) } }
theorem rootKey_length : (State.reset.rootKey "KUM-TK" []).length = 32 := by decide +kernel
/-- A key of use 2 in slot 1, an erasure of slot 1, tokens for OBSERVE and INVASIVE for 100 s, and RETIRE: each is accepted. -/
theorem witness_messages : ∀ x ∈ [(kumHdr 0 1 0x705 0, List.replicate 32 5), (kumHdr 1 1 0 0, List.replicate 32 0), (kumHdr 2 0 1 100, List.replicate 32 0), (kumHdr 2 0 2 100, List.replicate 32 0), (kumHdr 3 0 0 0, List.replicate 32 0)],
    let s := kumOf_ x.1 x.2
    (∀ o n, o + n ≤ 64 → slice s.kum o n = slice x.1 o n) ∧ sivOpen (s.rootKey "KUM-TK" []) [slice s.kum 0 0x40] (slice s.kum 0x40 16) (slice s.kum 0x50 32) = some x.2
    ∧ kumForm x.1 = true ∧ slice x.1 8 16 = s.devId ∧ s.get R.SEC_KUM_CNT < leAt x.1 0x18 8 ∧ s.kumSlotCheck x.1 x.2 = 0 := by
  intro x hx s
  have hh : x.1.length = 64 ∧ x.2.length = 32 ∧ kumForm x.1 = true ∧ slice x.1 8 16 = State.reset.devId ∧ State.reset.get R.SEC_KUM_CNT < leAt x.1 0x18 8
      ∧ State.reset.kumSlotCheck x.1 x.2 = 0 := by
    revert x; decide +kernel
  have := kum_sealed (s := s) rootKey_length hh.1 hh.2.1 rfl
  exact ⟨this.1, this.2, hh.2.2.1, hh.2.2.2.1, hh.2.2.2.2.1, hh.2.2.2.2.2⟩
theorem witness_update_conditions : let s := State.reset
    s.answers pf0 = true ∧ s.flag R.SEC_KUM_STAT_BUSY = false ∧ s.get R.PWR_STATE ≠ 2 ∧ s.flag R.SEC_KUM_STAT_LOCK = false ∧ s.lc = 1 ∧ s.flag R.SEC_STATE_TK_USED = false
    ∧ s.mild fsKeyUpdated ∧ s.mild fsDebugOpen ∧ s.room 3 ∧ (s.set R.PWR_STATE 0 2).get R.PWR_STATE = 2 ∧ (s.setFlag R.SEC_KUM_STAT_LOCK 0 true).flag R.SEC_KUM_STAT_LOCK = true
    ∧ (s.set R.SEC_STATE_LC 0 0).lc = 0 ∧ (s.setFlag R.SEC_STATE_TK_USED 0 true).flag R.SEC_STATE_TK_USED = true ∧ s.sec.authAt.length + 1 < 16 ∧ kumForm s.kum = false := by
  unfold State.mild State.room; decide +kernel
theorem test_message_without_magic : nextIs (exec (.kumSlotWrite pf0) State.reset) (fun t => t.get R.SEC_KUM_STAT_RESULT == 2 && t.get R.SEC_KUM_TALLY_FAILS == 1) = true := by decide +kernel
/-- A copy of slot 0 with the tag that it should have is sound; with another it is not. -/
theorem copy_sound {s : State} (c : SlotCopy) (h : s.get R.SEC_ID = State.reset.get R.SEC_ID) (h' : s.sec.rootSecret = State.reset.sec.rootSecret) (ht : c.tag = State.reset.slotTag 0 c)
    (tag : BitVec 128) : s.copyOk 0 (some { c with tag := tag }) = (tag == c.tag) := by
  show (tag == s.slotTag 0 { c with tag := tag }) = (tag == c.tag)
  rw [ht, ← slotTag_devId 0 c h h']
  rfl
/-- Slot 0 with both copies given. -/
def copies (a b : SlotCopy) : State := { slot0 a with sec := { (slot0 a).sec with slotB := (slot0 a).sec.slotB.set 0 (some b) } }
theorem witness_loads : State.reset.copyOk 0 State.reset.sec.slotA[(0 : Fin 32)] = true ∧ (slot0 met).copyOk 0 (slot0 met).sec.slotA[(0 : Fin 32)] = true
    ∧ (slot0 met).copyOk 0 (slot0 met).sec.slotB[(0 : Fin 32)] = true ∧ (slot0 met).slotInForce 0 = some met ∧ (slot0 met).wkrRefuse 0 (some met) (consUses 0) (some pf0) = 0
    ∧ (copies met { met with tag := 0 }).copyOk 0 (some met) = true ∧ (copies met { met with tag := 0 }).copyOk 0 (some { met with tag := 0 }) = false := by
  have h := fun (s : State) h h' t => copy_sound (s := s) met h h' met_tag t
  have a : (slot0 met).copyOk 0 (some met) = true := (h _ rfl rfl met.tag).trans (by simp)
  have b : (slot0 met).copyOk 0 none = true := rfl
  refine ⟨rfl, a, b, ?_, by decide +kernel, (h _ rfl rfl met.tag).trans (by simp), (h _ rfl rfl 0).trans (by decide)⟩
  have e : (slot0 met).sec.slotA[(0 : Fin 32)] = some met := by decide +kernel
  have f : (slot0 met).sec.slotB[(0 : Fin 32)] = none := by decide +kernel
  simp only [State.slotInForce, e, f]
  rw [show (↑(0 : Fin 32) : Nat) = 0 from rfl, a, b]
theorem witness_load_conditions : State.reset.wkrRefuse 0 none (consUses 0) (some pf0) = 1 ∧ State.reset.slotBad 0 = false ∧ State.reset.mild fsKeySlotBad
    ∧ met.attr.getLsbD 0 = true ∧ (met.attr &&& 0xFFFFFFFE).getLsbD 0 = false ∧ (consUses 3).contains (attrUse met.attr) = false := by
  unfold State.mild State.room; decide +kernel
theorem witness_debug : State.reset.answers pf0 = true ∧ State.reset.lc = 1 ∧ State.reset.mild fsDebugOpen ∧ State.reset.room 3 ∧ (State.reset.set R.SEC_STATE_LC 0 2).lc = 2 ∧ State.reset.auditOver = false
    ∧ State.reset.get R.PWR_STATE ≠ 2 ∧ (State.reset.set R.SEC_STATE_DBG 0 1).dbg ≠ 0 ∧ { State.reset with sec := { State.reset.sec with dbgTimer := true } }.sec.dbgTimer = true ∧ State.reset.dbg = 0 := by
  unfold State.mild State.room; decide +kernel
theorem test_debug_closes : nextIs (exec (.dbgClose pf0) (State.reset.set R.SEC_STATE_DBG 0 1)) (fun t => t.dbg == 0 && (t.get R.SEC_EVT).testBit 5) = true := by decide +kernel

/-! ### Observation, resets and the queue -/

/-- In LC at second 1 with a snapshot period of 1 ms, the last periodic instant as given. -/
def snapAt (ms : Option Nat) : State :=
  let s := (tm inLc fun x => { x with lc := 2 ^ 48 }).set R.OBS_SNAP_CFG_SNAP_MS 0 1
  { s with obsv := { s.obsv with snapMs := ms } }
theorem witness_snapshots : State.reset.writes pf0 (R.OBS_SNAP.at 0) ∧ State.reset.snapNear = none ∧ (snapAt none).snapNear = some 1000 ∧ (snapAt none).obsv.snapMs ≠ some 1000
    ∧ (snapAt (some 1000)).obsv.snapMs = some 1000 ∧ (snapAt none).pwr.power = .on ∧ ¬(64 ≤ (State.reset.get R.OBS_SNAP_WR + 65536 - State.reset.get R.OBS_SNAP_RD) % 65536)
    ∧ 64 ≤ ((State.reset.set R.OBS_SNAP_WR 0 64).get R.OBS_SNAP_WR + 65536 - (State.reset.set R.OBS_SNAP_WR 0 64).get R.OBS_SNAP_RD) % 65536
    ∧ (tm (snapAt none) fun x => { x with lc := 2 ^ 48 + 2 ^ 36 }).snapNear = none := by unfold State.writes; decide +kernel
theorem witness_counters : State.reset.writes pf0 (R.OBS_CNT_SEL_EVENT.at 3) ∧ State.reset.writes pf0 (R.OBS_CNT.at 3 + 4) ∧ (0x80000000 : Word).getLsbD 31 = true ∧ selBad 0xFFFF 0 = true := by
  unfold State.writes; decide +kernel
/-- Engine 4 sampled, its next sample due at a count of retired instructions. -/
def smp (at_ : Nat) : State := let s := State.reset.setFlag R.OBS_SMP_CFG_ENABLE 4 true; { s with obsv := { s.obsv with smpAt := s.obsv.smpAt.set 4 at_ } }
theorem witness_samples_and_telemetry : State.reset.smpHit 4 = false ∧ (smp 0).smpHit 4 = true ∧ (smp 1).smpHit 4 = false
    ∧ ¬(8192 ≤ ((smp 0).get R.OBS_SMP_WR + 65536 - (smp 0).get R.OBS_SMP_RD) % 65536) ∧ 8192 ≤ (((smp 0).set R.OBS_SMP_WR 0 8192).get R.OBS_SMP_WR + 65536 - (smp 0).get R.OBS_SMP_RD) % 65536
    ∧ State.reset.pwr.power = .on ∧ State.reset.get R.OBS_TEL_CFG_TEL_PERIOD ≤ { State.reset with obsv := { State.reset.obsv with telN := 70000 } }.obsv.telN
    ∧ ¬(State.reset.get R.OBS_TEL_CFG_TEL_PERIOD ≤ State.reset.obsv.telN) ∧ ¬(256 ≤ (State.reset.get R.OBS_TEL_WR + 65536 - State.reset.get R.OBS_TEL_RD) % 65536)
    ∧ 256 ≤ ((State.reset.set R.OBS_TEL_WR 0 256).get R.OBS_TEL_WR + 65536 - State.reset.get R.OBS_TEL_RD) % 65536 := by decide +kernel
theorem test_snapshot_enters : nextIs (exec (.obsSnapWrite pf0 1) State.reset) (fun t => t.get R.OBS_SNAP_WR == 1 && t.obsv.snapSeq == 1) = true := by decide +kernel
theorem witness_scrubber : let bad := { ram with bad := [0x10000000] }
    ram.pwr.power = .on ∧ ram.pwr.sramClear = true ∧ (ram.bad.filter fun w => decide ((scrubAt (ram.get R.OBS_SCRUB_STAT)).1 ≤ w) && decide (w < (scrubAt (ram.get R.OBS_SCRUB_STAT)).1 + 64)) = []
    ∧ (bad.bad.filter fun w => decide ((scrubAt (bad.get R.OBS_SCRUB_STAT)).1 ≤ w) && decide (w < (scrubAt (bad.get R.OBS_SCRUB_STAT)).1 + 64)) = [0x10000000]
    ∧ ram.softs (scrubAt (ram.get R.OBS_SCRUB_STAT)).1 64 + 0 = 0 ∧ ram.softs (scrubAt (ram.get R.OBS_SCRUB_STAT)).1 64 + 1 = 1
    ∧ ({ ram with soft := [0x10000000] } : State).softs (scrubAt (ram.get R.OBS_SCRUB_STAT)).1 64 = 1 ∧ ({ ram with soft := [0x10000000] } : State).mild fsSramEccCorr
    ∧ ram.mild fsSramEccCorr ∧ ram.mild fsSramEccUncorr ∧ State.reset.pwr.sramClear = false ∧ ram.obsv.passLate = false
    ∧ ram.get R.OBS_SCRUB_CFG * 3600 * 2 ^ 48 < (tm ram fun x => { x with lc := 0xFFFFFFFF * 2 ^ 48 }).time.lc.toNat - ram.obsv.passAt
    ∧ ram.get R.OBS_SCRUB_STAT + 1 < scrubLines ∧ scrubLines ≤ (ram.set R.OBS_SCRUB_STAT 0 479231).get R.OBS_SCRUB_STAT + 1 := by unfold State.mild State.room; decide +kernel
theorem test_pass_ends : nextIs (exec (.scrubLine false) (ram.set R.OBS_SCRUB_STAT 0 479231)) (fun t => t.get R.OBS_SCRUB_STAT == 0 && t.get R.OBS_SCRUB_PASSES_PASSES == 1) = true := by decide +kernel
theorem witness_resets : State.reset.wf ∧ (∀ k : Fin 32, State.reset.copyOk k State.reset.sec.slotA[k] = true ∧ State.reset.copyOk k State.reset.sec.slotB[k] = true) ∧ State.reset.pwr.power = .on
    ∧ (pw fun p => { p with power := .off }).pwr.power ≠ .on ∧ rwsOff R.PWR_STATE.addr = none ∧ R.PWR_STATE.addr ≠ R.PWR_RESET_CAUSE.addr := by unfold State.wf; decide +kernel
theorem test_chip_reset_shows_its_cause : nextIs (exec (.chipReset 3) State.reset) (fun t => t.get R.PWR_RESET_CAUSE == 3) = true := by decide +kernel
/-- KPLL locked, the Kennel not booted. -/
def boot (f : Kspi → Kspi) : State := let s := State.reset.setFlag R.CLK_STAT_KPLL_LOCK 0 true; { s with kspi := f s.kspi }
theorem witness_boot : (boot id).knl.booted = false ∧ (boot id).flag R.CLK_STAT_KPLL_LOCK = true ∧ (boot id).pwr.power = .on ∧ (boot id).aon.vrst = false ∧ (boot id).kspi.staged = []
    ∧ (boot id).boneChoose = none ∧ (boot id).logGenuine = true ∧ { boot id with sec := { (boot id).sec with sealFuses := 1 } }.logGenuine = false ∧ (boot id).mild fsKnlImageBad ∧ (boot id).mild fsKnlLogBad
    ∧ State.reset.flag R.CLK_STAT_KPLL_LOCK = false := by unfold State.mild State.room; decide +kernel
theorem witness_images : (boot id).fwBank.meas = (boot id).bank.admits := rfl
theorem witness_bad_image : let s := boot fun k => { k with fwBank := Vector.replicate 2 ⟨some []⟩, paramBank := Vector.replicate 2 { PBank.factory with meas := some 0 } }
    s.fwBank.meas ≠ s.bank.admits := by decide +kernel
theorem witness_audit_ack : State.reset.writes pf0 (R.KNL_AUDIT_ACK.at 0) ∧ (State.reset.kspi.events.countP fun r => decide (r.seq > 0)) * 100 ≤ 95 * logCap := by unfold State.writes; decide +kernel
/-- A record of the event log that the host has not acknowledged. -/
def unread : KRec := { typ := 0x21, flags := 0, seq := 1, sealCnt := 0, keySlot := 0xFF, mode := 0, rt := 0, detail := [], prev := 0, pub := 0, sig := 0 }
theorem witness_audit_full : ∃ evs : List KRec, 95 * logCap < (evs.countP fun r => decide (r.seq > (0 : Word).toNat)) * 100
    ∧ ({ State.reset.set R.FLT_ACTIVE (fsAuditFull / 32) (2 ^ (fsAuditFull % 32)) with kspi := { State.reset.kspi with events := evs } } : State).active fsAuditFull = true :=
  ⟨List.replicate 153600 unread, by rw [List.countP_replicate]; decide +kernel, by decide +kernel⟩
theorem witness_queue : { State.reset with pending := [Instr.rollSend, .braceSend] }.pending = .rollSend :: [.braceSend] ∧ State.reset.pending = [] ∧ State.reset.wf := by unfold State.wf; decide +kernel
theorem witness_step : State.reset.wf ∧ step State.reset = .next State.reset := ⟨by unfold State.wf; decide +kernel, rfl⟩
theorem test_step_takes_the_front : nextIs (step { State.reset with pending := [.linkSettleDone 7 9, .rollSend] }) (fun t => t.pending == [.rollSend]) = true := by decide +kernel

/-! ### Times, gated units and what else a clause asks for -/

/-- From reset with LC running at a value, and a duration in every register or field that gives one. -/
def onLc (l : Nat) : State :=
  let s := tm ((((State.reset.set R.ENG_WDOG 3 5).set R.OBS_SCRUB_CFG 0 1).set R.HST_CPL_TMO 0 50).set R.FLT_GUARD_CFG 0 1) fun x => { x with running := true, lc := BitVec.ofNat 96 l }
  { lnk s fun x => { x with quanta := 9 } with sec := { s.sec with dbgFor := 100 } }
/-- The times of the statements: each has passed at a late LC, none at LC 0. -/
def times : List (State → Bool) :=
  let x := fun (s : State) => s.link 7
  [fun s => s.passed (s.engine 3).wdogAt (s.get R.ENG_WDOG 3), fun s => s.passed s.flt.hbAt (s.get R.FLT_GUARD_CFG * 1000), fun s => s.passed s.flt.guardFrom 10000,
   fun s => s.passed s.flt.guardAt 10000, fun s => s.passed s.flt.barkAt 10, fun s => s.past s.knl.mbAt[(1 : Fin 4)] 1 10, fun s => s.past s.knl.mbAt[(1 : Fin 4)] 1, fun s => s.past s.knl.lockAt 10,
   fun s => s.past s.knl.pair.openAt 100 1000, fun s => s.past s.knl.pair.openAt 500 1000, fun s => s.past s.tim.rngGood 60, fun s => s.past s.tim.failAt 1 1000, fun s => s.past (x s).since 500 1000,
   fun s => s.past (x s).since 2 1000, fun s => s.past (x s).since 2, fun s => s.past (x s).upLc 1, fun s => s.past (x s).upLc (s.get R.PRT_SHIFT_CFG_DOWN_TIME 3),
   fun s => s.past (x s).pausedAt (s.get R.PRT_PAUSE_PAUSE_MAX 3) 10000, fun s => s.past (x s).quantaAt ((x s).quanta * 64 * bytePs (s.linkMode 7)) 1000000000000,
   fun s => s.past (x s).ignoreAt (s.get R.PRT_PAUSE_PAUSE_IGNORE 3) 1000, fun s => s.passed s.syn.pll[(1 : Fin 4)].since 25, fun s => s.passed s.syn.pll[(1 : Fin 4)].since 100000,
   fun s => s.passed (exch none none none none).start (s.exchMs * 1000), fun s => s.passed 0 10000, fun s => s.past (s.fchCh 2).readLc (s.get R.HST_CPL_TMO) 1000000, fun s => s.past s.pwr.rampFrom 1 1000,
   fun s => s.past (s.engine 3).stopAt 10 1000, fun s => s.past s.aon.sagAt 1 1000, fun s => s.past s.aon.periodAt 600, fun s => s.past s.sec.lockAt 10, fun s => s.past s.sec.dbgAt s.sec.dbgFor,
   fun s => s.past s.obsv.lineAt 1 1000, fun s => s.past s.obsv.passAt (s.get R.OBS_SCRUB_CFG * 3600), fun s => decide (4096 ≤ s.matrixCycles 0), fun s => s.gateHeld 2,
   fun s => decide (s.matrixCycles 0 > s.get R.PWR_QUIESCE_TMO)]
theorem witness_times : (times.all fun f => f (onLc (2 ^ 80))) = true ∧ (times.all fun f => !f (onLc 0)) = true := by decide +kernel
theorem witness_times_of_tables : (some 0).all ((onLc (2 ^ 80)).past · 2) = true ∧ (some 0).all ((onLc 0).past · 2) = false ∧ (some 0).all ((onLc (2 ^ 80)).past · 16) = true
    ∧ (some 0).all ((onLc 0).past · 16) = false ∧ (workSet (onLc (2 ^ 80)) 0xB10 60).past 0 ((workSet State.reset 0xB10 60).store 0xB10).toNat = true
    ∧ (workSet (onLc 0) 0xB10 60).past 0 ((workSet State.reset 0xB10 60).store 0xB10).toNat = false := by decide +kernel
theorem witness_gated_units : ∀ u : Fin 11, (State.reset.set R.PWR_GATE_STAT_GATED 0 0x7FF).gated u = true ∧ State.reset.gated u = false := by decide +kernel
theorem witness_updates : (State.reset.anchorForm (2 ^ 60) 0 0).testBit 1 = true ∧ (State.reset.anchorForm 0 0 0).testBit 1 = false ∧ State.reset.slewMax < (0xFFFFF : BitVec 20).toNat
    ∧ State.reset.beyondJump (2 ^ 60) = true ∧ (State.reset.upset 3 9).replicaWord 3 ≠ (State.reset.upset 3 9).fullWord.1 ∧ (State.reset.upset 3 0).replicaWord 3 = (State.reset.upset 3 0).fullWord.1
    ∧ (State.reset.setFlag R.KNL_SEAL_STAT_STATE 0 true).sealState ≠ 4 := by decide +kernel
theorem witness_windows : State.reset.answers .dbg = true ∧ State.reset.rights .dbg 0x1000000 = .unmapped ∧ State.reset.rights (.pf 2) 0x1000400 ≠ .unmapped ∧ (run 3).rights pf0 0x4390000 = .rw
    ∧ (run 3).engMem pf0 0x4390000 = some (3, true, 0x44390000) ∧ (run 3).engState 3 ≠ stOff ∧ (engAt 3 0).engState 3 = stOff ∧ (run 3).badAt 0x44390000 4 = false ∧ (run 3).softs 0x44390000 4 = 0 := by
  decide +kernel
theorem witness_digests : let k := fun (l : Nat) (d : Option Digest) => tm (kp (some 1) d id) fun x => { x with running := true, lc := BitVec.ofNat 96 l }
    (k 0 (some 1)).digestsDue 100 = true ∧ (k 0 none).digestsDue 100 = false ∧ (k (2 ^ 48) none).digestsDue 100 = true ∧ (k 0 none).digestsDue 500 = false ∧ (k (2 ^ 48) none).digestsDue 500 = true
    ∧ (kp none none fun p => { p with trial := some 1, trialEnd := 5 }).rtSec < 5 ∧ (kp none none fun p => { p with trial := some 1 }).knl.pair.trialEnd ≤ State.reset.rtSec := by decide +kernel
theorem witness_channels : let b := td fun x => { x with tb := 0, ia := { x.ia with busyTill := 9, calConv := true }, ib := { x.ib with busyTill := 9, calConv := true } }
    let t := fun (n : Nat) => tm (td id) fun x => { x with tick := n }
    ((b.tdc 2).interp (!b.measIb 2)).calConv = true ∧ b.time.lc.toNat - 0 < ((b.tdc 2).interp (b.measIb 2)).busyTill ∧ ((t 65536).tdc 2).swapTick + 65536 ≤ (t 65536).time.tick
    ∧ ¬(((t 65535).tdc 2).swapTick + 65536 ≤ (t 65535).time.tick) ∧ (td id).tdcSrc 2 = 2 ∧ (td id).flag R.TIM_CFG_EDGE 2 = false ∧ (td id).mild fsTdcOverflow ∧ (td id).room 16
    ∧ State.reset.tbPassed = false ∧ { State.reset with tim := { TimSt.reset with presOk := true, freqOk := true } }.tbPassed = true := by unfold State.mild State.room; decide +kernel
theorem witness_recal_run : (rec_ 6).recalRun 7 = false ∧ (tm inLc fun x => { x with lc := 2 ^ 48 }).recalRun 7 = true := by decide +kernel
theorem witness_rotation_loads : ∃ d, (slot0 ntsCopy).get R.SRV_COOKIE_ROT0_SLOT = (0 : Fin 32).val
    ∧ ((slot0 ntsCopy).rotLoad { slot := 0, id := BitVec.ofNat 32 ((slot0 ntsCopy).get R.SRV_COOKIE_ROT1), req := some pf0, at_ := 0 }).1 = some d
    ∧ (slot0 ntsCopy).rotBad { slot := 0, id := BitVec.ofNat 32 ((slot0 ntsCopy).get R.SRV_COOKIE_ROT1), req := some pf0, at_ := 0 } = false := by
  have hA : (slot0 ntsCopy).sec.slotA[(0 : Fin 32)] = some ntsCopy := by decide +kernel
  have hB : (slot0 ntsCopy).sec.slotB[(0 : Fin 32)] = none := by decide +kernel
  have ht : ntsCopy.tag = (slot0 ntsCopy).slotTag 0 ntsCopy := nts_tag.trans (slotTag_devId 0 ntsCopy (by decide +kernel) (by decide +kernel)).symm
  have hr : (slot0 ntsCopy).wkrRefuse 0 (some ntsCopy) (consUses 2) (some pf0) = 0 := by decide +kernel
  refine ⟨_, by decide +kernel, by unfold State.rotLoad; rw [wkr_pass hA hB ht hr], ?_⟩
  have hc : (slot0 ntsCopy).slotCheck1 0 = (false, slot0 ntsCopy) := by simp [State.slotCheck1, State.copyOk, hA, hB, ht.symm]
  have hi : (slot0 ntsCopy).slotInForce 0 = some ntsCopy := by simp [State.slotInForce, State.copyOk, hA, hB, ht.symm]
  simp [State.rotBad, hc, hi, hr]
theorem witness_mint : let s := fun (k : Option Delivered) => (State.reset.setSrv { State.reset.srv with mintKey := k }).setFlag R.SRV_MINT_STAT_BUSY 0 true
    (s none).srv.mintKey = none ∧ (s none).jobs.any (aeadOp 4) = false ∧ (s (some { key := 5, slot := 1, id := 7 })).srv.mintKey.isSome = true ∧ (s none).flag R.SRV_MINT_STAT_BUSY = true
    ∧ (atAu (aeadJob 4 0 0)).jobs.any (aeadOp 4) = true := by decide +kernel
/-- P3 a slave of session 2, a message at the head of its queue, and the master of that message heard, with a Delay_Req's result. -/
def upHears (b : List Byte) (d : Option (Int × Bool × Bool)) : State :=
  let s := ((asks 1 b 0).setFlag R.SRV_PORT_SVC1_US_EN 3 true).set R.SRV_PORT_SVC1_US 3 2
  let m : UpMaster := { id := List.replicate 10 0, addr := List.replicate 6 2, ds := List.replicate 16 0, log := 0, at_ := 0, prev := some 0 }
  s.setSrv { s.srv with up := s.srv.up.set 2 { s.srv.up[(2 : Fin 8)] with masters := [m], delay := d } }
/-- A Sync of that master, of two steps or of one. -/
def upSync (two : Bool) : List Byte := (ptp 0 (List.replicate 10 0)).set 20 (if two then 2 else 0)
theorem witness_upstream : let s := fun (two : Bool) => upHears (upSync two) (some (0, true, false))
    headIs (upHears (ptp 11 (List.replicate 30 0)) none) (fun r => (upHears (ptp 11 (List.replicate 30 0)) none).serveOf r == .session && r.typ == 11 && r.port == 3) = true
    ∧ headIs (s true) (fun r => (s true).serveOf r == .session && r.typ == 0 && !r.nots && (beAt r.msg 6 2).testBit 9 && (((s true).upMaster 3).map (·.id)) == some r.sender) = true
    ∧ headIs (s false) (fun r => (s false).serveOf r == .session && r.typ == 0 && !(beAt r.msg 6 2).testBit 9) = true ∧ (s false).isSlave 3 = true ∧ servOf 3 = (3 : Fin 8)
    ∧ ((s true).srv.up[(s true).sessionOf 3]).sync = none ∧ (s false).authReq 3 = false ∧ ((s false).set R.SRV_US_MASTER0 2 1).named 3 = true ∧ State.reset.isSlave 3 = false := by decide +kernel
theorem witness_synthesis_inputs : let s := (State.reset.setFlag R.GNS_STAT_CLK_OK 0 true).set R.SYN_STAT_BYPASS 0 0
    let f := (heel 1 0).setSynOut 4 { (heel 1 0).syn.out[(4 : Fin 16)] with heelSeq := 1 }
    s.gsiPll = true ∧ s.get R.GNS_CFG_CLK_OUT / 4 ≠ 3 ∧ s.get R.GNS_CFG_CLK_OUT / 4 = 0 ∧ s.flag R.GNS_STAT_CLK_OK = true ∧ s.mild fsGnssClk ∧ s.mild fsSynLockLost ∧ s.room 2
    ∧ f.tiSeq (f.sh true R.SYN_OUT_CFG_HEEL_TI 4) ≠ f.syn.out[(4 : Fin 16)].heelSeq ∧ (heel 1 0).tiSeq 0 = (heel 1 0).syn.out[(4 : Fin 16)].heelSeq
    ∧ (f.set R.TIM_LAST 0 (2 ^ 230)).tiRecord 0 = (0, true) ∧ (f.set R.TIM_LAST 0 0).tiRecord 0 = (0, false)
    ∧ (clk (adr id)).lastPulse 4 = some (2 ^ 48, 1) ∧ State.reset.lastPulse 4 = none ∧ (clk (adr id)).syn.out[(4 : Fin 16)].todFor ≠ some (2 ^ 48) := by
  unfold State.mild State.room; decide +kernel
theorem witness_pack_times : (pckP 2).rollDue = true ∧ State.reset.rollDue = false ∧ (pckP 2).exDue 7 = true ∧ (at7 (pckP 2) fun x => { x with exLc := some (10 * 2 ^ 48) }).exDue 7 = false
    ∧ (pckP 2).workPair 3 = none ∧ ((pckP 2).setFlag R.PRT_CFG_PRP_EN 2 true).workPair 3 = some 1 ∧ (((pckP 2).setFlag R.PRT_CFG_PRP_EN 2 true).lport (twin 3)).pack = none := by decide +kernel
/-- A request of PCK at a target, as it waits. -/
def pckReq : State := { (State.reset.set R.FLT_GUARD_STAT_STATE 0 0).set R.FLT_REACT_REACT fsMtxTimeout 0 with mtx := { MtxSt.reset with reqs := [{ master := 15, target := 3, addr := 0, op := .read 4, since := none }] } }
theorem witness_force : unitMaster 10 = some 15 ∧ unitMaster 3 = none ∧ pckReq.mtx.reqs.any (fun r => r.master.val == 15) = true ∧ State.reset.mtx.reqs.any (fun r => r.master.val == 15) = false
    ∧ pckReq.mild fsMtxTimeout ∧ (pw fun p => { p with retry := [(2, 0)] }).pwr.retry.any (fun q => q.1 == (2 : Fin 11).val && (pw fun p => { p with retry := [(2, 0)] }).past q.2 1) = true := by
  unfold State.mild State.room; decide +kernel
theorem test_force_ends_a_burst : nextIs (exec (.pwrForce pf0 8) (State.reset.setFlag R.GNS_STAT_BURST_ACTIVE 0 true)) (fun t => !t.flag R.GNS_STAT_BURST_ACTIVE && t.get R.GNS_CNT_BURSTS_DISCARDED == 1) = true := by
  decide +kernel
theorem witness_supply : (2999 : BitVec 13).toNat < 3000 ∧ (4500 : Nat) ≤ (4500 : BitVec 13).toNat ∧ (4499 : BitVec 13).toNat < 4500 ∧ (2700 : BitVec 13).toNat ≤ 2700 ∧ 2700 < (2701 : BitVec 13).toNat
    ∧ 3075 < (3076 : BitVec 13).toNat ∧ (engAt 0 stRunning).leadUp = true ∧ (ao fun a => { a with vrst := true }).aon.vrst = true ∧ (State.reset.setFlag R.PWR_WAKE_CFG_WAKE_PIN_EN 0 false).flag R.PWR_WAKE_CFG_WAKE_PIN_EN = false := by
  decide +kernel
theorem witness_flood : ((0 :: List.replicate 15 0).filter fun l => decide (State.reset.time.lc.toNat < l + 2 ^ 48)).length = 16 ∧ State.reset.mild fsKumFlood ∧ State.reset.auditOver = false := by
  unfold State.mild State.room; decide +kernel
theorem test_fifteenth_failure_does_not_lock : nextIs (exec (.kumSlotWrite pf0) { State.reset with sec := { State.reset.sec with authAt := List.replicate 15 0 } }) (fun t => !t.flag R.SEC_KUM_STAT_LOCK) = true := by
  decide +kernel
theorem witness_lost_snapshot : (snapAt (some 1000)).obsv.snapLost = 0 ∧ { snapAt (some 1000) with obsv := { (snapAt (some 1000)).obsv with snapLost := 1 } }.obsv.snapLost ≠ 0 := by decide +kernel
theorem test_ground_balls : ballCount (· == .supply .vss) = 864 := by decide +kernel
end Sys2Proof.Tests
end

/-! ## The whole machine: every command completes and keeps the canonical form, and what a reset leaves -/

namespace Sys2Proof.Machine

/-- Every command answers a next state, and what `Keeps` lists stands: one arm per command, each by the law of its meaning. -/
theorem exec_keeps : ∀ (c : Instr) (s : State), ∃ t, exec c s = .next t ∧ Keeps s t
  | .coldReset _ _, _ => execColdReset_keeps _ _ (.refl _)
  | .chipReset _, _ => execChipReset_keeps _ (.refl _)
  | .blockReset _, _ => execBlockReset_keeps _ (.refl _)
  | .engineReset _ _, _ => execEngineReset_keeps _ _ (.refl _)
  | .powerOff, _ => execPowerOff_keeps (.refl _)
  | .registerWrite _ _ _, _ => execRegisterWrite_keeps _ _ _ (.refl _)
  | .multiwordLatchRead _ _, _ => execMultiwordLatchRead_keeps _ _ (.refl _)
  | .registerBadAccess m a w, _ => execRegisterBadAccess_keeps m a w (.refl _)
  | .hostUnmappedAccess _ _ _, _ => execHostUnmappedAccess_keeps _ _ _ (.refl _)
  | .hostRoWrite _ _ _, _ => execHostRoWrite_keeps _ _ _ (.refl _)
  | .bar4Access _ _ _ _, _ => execBar4Access_keeps _ _ _ _ (.refl _)
  | .kpllFirstLock _, _ => execKpllFirstLock_keeps _ (.refl _)
  | .updateEffectiveTick, _ => execUpdateEffectiveTick_keeps (.refl _)
  | .endOfSlewUpdate, _ => execEndOfSlewUpdate_keeps (.refl _)
  | .stepSnEffect, _ => execStepSnEffect_keeps (.refl _)
  | .handoverTick, _ => execHandoverTick_keeps (.refl _)
  | .csetEccError _ _, _ => execCsetEccError_keeps _ _ (.refl _)
  | .snLoadWrite _ _, _ => execSnLoadWrite_keeps _ _ (.refl _)
  | .snLoadEffect, _ => execSnLoadEffect_keeps (.refl _)
  | .tbusFullWordCheck _ _, _ => execTbusFullWordCheck_keeps _ _ (.refl _)
  | .boundaryEvent, _ => execBoundaryEvent_keeps (.refl _)
  | .leapFlagSet, _ => execLeapFlagSet_keeps (.refl _)
  | .leapSecondEvent, _ => execLeapSecondEvent_keeps (.refl _)
  | .kennelBoot, _ => execKennelBoot_keeps (.refl _)
  | .mbxClaim _, _ => execMbxClaim_keeps _ (.refl _)
  | .mbxGoWrite _ _, _ => execMbxGoWrite_keeps _ _ (.refl _)
  | .mbxRelWrite _ _, _ => execMbxRelWrite_keeps _ _ (.refl _)
  | .claimExpiry _, _ => execClaimExpiry_keeps _ (.refl _)
  | .doneExpiry _, _ => execDoneExpiry_keeps _ (.refl _)
  | .authLockExpiry, _ => execAuthLockExpiry_keeps (.refl _)
  | .mbxStatus, _ => execMbxStatus_keeps (.refl _)
  | .mbxStage _, _ => execMbxStage_keeps _ (.refl _)
  | .mbxChallenge, _ => execMbxChallenge_keeps (.refl _)
  | .mbxSetParam _, _ => execMbxSetParam_keeps _ (.refl _)
  | .mbxSetLatency _, _ => execMbxSetLatency_keeps _ (.refl _)
  | .mbxCommitFw _, _ => execMbxCommitFw_keeps _ (.refl _)
  | .mbxCommitParam _, _ => execMbxCommitParam_keeps _ (.refl _)
  | .mbxSeal, _ => execMbxSeal_keeps (.refl _)
  | .mbxUnseal, _ => execMbxUnseal_keeps (.refl _)
  | .mbxStep, _ => execMbxStep_keeps (.refl _)
  | .mbxUtc, _ => execMbxUtc_keeps (.refl _)
  | .mbxTestMode, _ => execMbxTestMode_keeps (.refl _)
  | .mbxKpairSelect, _ => execMbxKpairSelect_keeps (.refl _)
  | .auditAckWrite _ _, _ => execAuditAckWrite_keeps _ _ (.refl _)
  | .digest _ _ _, _ => execDigest_keeps _ _ _ (.refl _)
  | .kpairCompare, _ => execKpairCompare_keeps (.refl _)
  | .kpairRecomputeEnd, _ => execKpairRecomputeEnd_keeps (.refl _)
  | .kpairKatResult _ _ _ _, _ => execKpairKatResult_keeps _ _ _ _ (.refl _)
  | .fwTrialEnd _, _ => execFwTrialEnd_keeps _ (.refl _)
  | .refEdge _ _ _, _ => execRefEdge_keeps _ _ _ (.refl _)
  | .measInletRecord, _ => execMeasInletRecord_keeps (.refl _)
  | .refLossTimeout _, _ => execRefLossTimeout_keeps _ (.refl _)
  | .oscEdgeSeen _ _, _ => execOscEdgeSeen_keeps _ _ (.refl _)
  | .oscLossTimeout _, _ => execOscLossTimeout_keeps _ (.refl _)
  | .oscWarmupEnd _, _ => execOscWarmupEnd_keeps _ (.refl _)
  | .oscExcludeEnd _, _ => execOscExcludeEnd_keeps _ (.refl _)
  | .tempStaleTimeout _, _ => execTempStaleTimeout_keeps _ (.refl _)
  | .servoUpdate _ _ _, _ => execServoUpdate_keeps _ _ _ (.refl _)
  | .holdoverUpdate, _ => execHoldoverUpdate_keeps (.refl _)
  | .ensYBootstrap, _ => execEnsYBootstrap_keeps (.refl _)
  | .bootSnAlign, _ => execBootSnAlign_keeps (.refl _)
  | .bootWaitExpiry, _ => execBootWaitExpiry_keeps (.refl _)
  | .tdcEdge _ _ _ _, _ => execTdcEdge_keeps _ _ _ _ (.refl _)
  | .tdcRecordAdmit, _ => execTdcRecordAdmit_keeps (.refl _)
  | .interpRoleSwap _, _ => execInterpRoleSwap_keeps _ (.refl _)
  | .randomEdge _, _ => execRandomEdge_keeps _ (.refl _)
  | .calTableComplete _ _, _ => execCalTableComplete_keeps _ _ (.refl _)
  | .tbPresenceLoss, _ => execTbPresenceLoss_keeps (.refl _)
  | .tbFreqWindow _, _ => execTbFreqWindow_keeps _ (.refl _)
  | .tbRebuildStart, _ => execTbRebuildStart_keeps (.refl _)
  | .rngRateCheck _, _ => execRngRateCheck_keeps _ (.refl _)
  | .rngFaultPersist, _ => execRngFaultPersist_keeps (.refl _)
  | .gsiClkLoss, _ => execGsiClkLoss_keeps (.refl _)
  | .gsiClkReturn, _ => execGsiClkReturn_keeps (.refl _)
  | .gnssMsStrobe, _ => execGnssMsStrobe_keeps (.refl _)
  | .fePowerUp, _ => execFePowerUp_keeps (.refl _)
  | .gnssRegionWake, _ => execGnssRegionWake_keeps (.refl _)
  | .burstStart, _ => execBurstStart_keeps (.refl _)
  | .correlatorDump _, _ => execCorrelatorDump_keeps _ (.refl _)
  | .burstEnd, _ => execBurstEnd_keeps (.refl _)
  | .resRelease _, _ => execResRelease_keeps _ (.refl _)
  | .snapCapture _, _ => execSnapCapture_keeps _ (.refl _)
  | .gnsSnapDone _ _, _ => execGnsSnapDone_keeps _ _ (.refl _)
  | .gnsPosWrite _ _ _, _ => execGnsPosWrite_keeps _ _ _ (.refl _)
  | .scoutSolution _ _, _ => execScoutSolution_keeps _ _ (.refl _)
  | .osnmaVerify _ _, _ => execOsnmaVerify_keeps _ _ (.refl _)
  | .dataSession _, _ => execDataSession_keeps _ (.refl _)
  | .surveyEnd, _ => execSurveyEnd_keeps (.refl _)
  | .portCfgApply _, _ => execPortCfgApply_keeps _ (.refl _)
  | .linkSignalDetect _, _ => execLinkSignalDetect_keeps _ (.refl _)
  | .linkPcsLock _ _ _, _ => execLinkPcsLock_keeps _ _ _ (.refl _)
  | .linkTrainTimeout _, _ => execLinkTrainTimeout_keeps _ (.refl _)
  | .linkSettleDone _ _, _ => execLinkSettleDone_keeps _ _ (.refl _)
  | .linkLoss _, _ => execLinkLoss_keeps _ (.refl _)
  | .shiftTimeout _, _ => execShiftTimeout_keeps _ (.refl _)
  | .frameReceive _ _ _ _ _ _, _ => execFrameReceive_keeps _ _ _ _ _ _ (.refl _)
  | .prpEntryExpire _ _ _, _ => execPrpEntryExpire_keeps _ _ _ (.refl _)
  | .prpSupervision _, _ => execPrpSupervision_keeps _ (.refl _)
  | .xcompUpdate _ _, _ => execXcompUpdate_keeps _ _ (.refl _)
  | .regionSkewCheck _ _ _ _, _ => execRegionSkewCheck_keeps _ _ _ _ (.refl _)
  | .recalStart _, _ => execRecalStart_keeps _ (.refl _)
  | .recalEnd _ _, _ => execRecalEnd_keeps _ _ (.refl _)
  | .recalStale _, _ => execRecalStale_keeps _ (.refl _)
  | .pauseWatchdog _, _ => execPauseWatchdog_keeps _ (.refl _)
  | .pauseIgnoreEnd _, _ => execPauseIgnoreEnd_keeps _ (.refl _)
  | .txUnderrun _, _ => execTxUnderrun_keeps _ (.refl _)
  | .speedShiftStart _ _, _ => execSpeedShiftStart_keeps _ _ (.refl _)
  | .prtCntClr _ _ _, _ => execPrtCntClr_keeps _ _ _ (.refl _)
  | .lchHostSubmit _ _, _ => execLchHostSubmit_keeps _ _ (.refl _)
  | .frameReady _, _ => execFrameReady_keeps _ (.refl _)
  | .frameLaunch _ _ _ _, _ => execFrameLaunch_keeps _ _ _ _ (.refl _)
  | .frameLate _, _ => execFrameLate_keeps _ (.refl _)
  | .immediateLate _, _ => execImmediateLate_keeps _ (.refl _)
  | .frameTxEnd _, _ => execFrameTxEnd_keeps _ (.refl _)
  | .reportMove _, _ => execReportMove_keeps _ (.refl _)
  | .scheduleCycleBoundary, _ => execScheduleCycleBoundary_keeps (.refl _)
  | .maskCommitWrite _ _ _, _ => execMaskCommitWrite_keeps _ _ _ (.refl _)
  | .steerCommitWrite _ _, _ => execSteerCommitWrite_keeps _ _ (.refl _)
  | .srvPoolRet _ _, _ => execSrvPoolRet_keeps _ _ (.refl _)
  | .ntsRequestCheck _, _ => execNtsRequestCheck_keeps _ (.refl _)
  | .assistLookup, _ => execAssistLookup_keeps (.refl _)
  | .assistInsert, _ => execAssistInsert_keeps (.refl _)
  | .assistDelete, _ => execAssistDelete_keeps (.refl _)
  | .assistPin, _ => execAssistPin_keeps (.refl _)
  | .assistUnpin, _ => execAssistUnpin_keeps (.refl _)
  | .assistSetDeny, _ => execAssistSetDeny_keeps (.refl _)
  | .assistClearDeny, _ => execAssistClearDeny_keeps (.refl _)
  | .contextExpiry _ _, _ => execContextExpiry_keeps _ _ (.refl _)
  | .aeadSivSeal _ _, _ => execAeadSivSeal_keeps _ _ (.refl _)
  | .aeadSivOpen _ _, _ => execAeadSivOpen_keeps _ _ (.refl _)
  | .aeadHmac _ _, _ => execAeadHmac_keeps _ _ (.refl _)
  | .aeadCmac _ _, _ => execAeadCmac_keeps _ _ (.refl _)
  | .aeadMint _ _, _ => execAeadMint_keeps _ _ (.refl _)
  | .aeadFree _ _, _ => execAeadFree_keeps _ _ (.refl _)
  | .jobCrc32 _ _, _ => execJobCrc32_keeps _ _ (.refl _)
  | .jobCrc32c _ _, _ => execJobCrc32c_keeps _ _ (.refl _)
  | .jobSha256 _ _, _ => execJobSha256_keeps _ _ (.refl _)
  | .jobSiphash64 _ _, _ => execJobSiphash64_keeps _ _ (.refl _)
  | .jobSiphash128 _ _, _ => execJobSiphash128_keeps _ _ (.refl _)
  | .ticketComplete _ _, _ => execTicketComplete_keeps _ _ (.refl _)
  | .cookieRotArm _ _, _ => execCookieRotArm_keeps _ _ (.refl _)
  | .cookieRotation, _ => execCookieRotation_keeps (.refl _)
  | .hostMint, _ => execHostMint_keeps (.refl _)
  | .saKeyCommit _ _ _ _, _ => execSaKeyCommit_keeps _ _ _ _ (.refl _)
  | .grantRequest _, _ => execGrantRequest_keeps _ (.refl _)
  | .grantCancel _, _ => execGrantCancel_keeps _ (.refl _)
  | .grantExpiry _, _ => execGrantExpiry_keeps _ (.refl _)
  | .hostRecordCancel _ _ _ _, _ => execHostRecordCancel_keeps _ _ _ _ (.refl _)
  | .clientSweep _, _ => execClientSweep_keeps _ (.refl _)
  | .syncSend _ _ _ _ _ _, _ => execSyncSend_keeps _ _ _ _ _ _ (.refl _)
  | .followUpSend _ _, _ => execFollowUpSend_keeps _ _ (.refl _)
  | .delayRespSend _, _ => execDelayRespSend_keeps _ (.refl _)
  | .pdelayRespSend _, _ => execPdelayRespSend_keeps _ (.refl _)
  | .announceSend _ _ _ _ _ _, _ => execAnnounceSend_keeps _ _ _ _ _ _ (.refl _)
  | .ntpResponse _, _ => execNtpResponse_keeps _ (.refl _)
  | .ntsResponse _, _ => execNtsResponse_keeps _ (.refl _)
  | .ntsnResponse _, _ => execNtsnResponse_keeps _ (.refl _)
  | .upstreamExchange _ _, _ => execUpstreamExchange_keeps _ _ (.refl _)
  | .engineReplace _, _ => execEngineReplace_keeps _ (.refl _)
  | .engRunSet _ _, _ => execEngRunSet_keeps _ _ (.refl _)
  | .engRunClear _ _, _ => execEngRunClear_keeps _ _ (.refl _)
  | .engStopComplete _, _ => execEngStopComplete_keeps _ (.refl _)
  | .engGateSet _ _, _ => execEngGateSet_keeps _ _ (.refl _)
  | .engGateClear _ _, _ => execEngGateClear_keeps _ _ (.refl _)
  | .loadDone _ _, _ => execLoadDone_keeps _ _ (.refl _)
  | .measurementDone _, _ => execMeasurementDone_keeps _ (.refl _)
  | .ereset _ _ _, _ => execEreset_keeps _ _ _ (.refl _)
  | .imemWrite _ _ _ _, _ => execImemWrite_keeps _ _ _ _ (.refl _)
  | .engDbellWrite _ _ _, _ => execEngDbellWrite_keeps _ _ _ (.refl _)
  | .engWdogWrite _ _ _, _ => execEngWdogWrite_keeps _ _ _ (.refl _)
  | .engWdogExpiry _, _ => execEngWdogExpiry_keeps _ (.refl _)
  | .engineWake _, _ => execEngineWake_keeps _ (.refl _)
  | .storeBuserr _, _ => execStoreBuserr_keeps _ (.refl _)
  | .matrixGrant _, _ => execMatrixGrant_keeps _ (.refl _)
  | .matrixResponse _ _, _ => execMatrixResponse_keeps _ _ (.refl _)
  | .writeBufferDrain _, _ => execWriteBufferDrain_keeps _ (.refl _)
  | .engineStallRelease _, _ => execEngineStallRelease_keeps _ (.refl _)
  | .mtxTimeout _, _ => execMtxTimeout_keeps _ (.refl _)
  | .add _ _ _ _ _, _ => execAdd_keeps _ _ _ _ _ (.refl _)
  | .sub _ _ _ _ _, _ => execSub_keeps _ _ _ _ _ (.refl _)
  | .addc _ _ _ _ _, _ => execAddc_keeps _ _ _ _ _ (.refl _)
  | .subb _ _ _ _ _, _ => execSubb_keeps _ _ _ _ _ (.refl _)
  | .and _ _ _ _ _, _ => execAnd_keeps _ _ _ _ _ (.refl _)
  | .or _ _ _ _ _, _ => execOr_keeps _ _ _ _ _ (.refl _)
  | .xor _ _ _ _ _, _ => execXor_keeps _ _ _ _ _ (.refl _)
  | .andn _ _ _ _ _, _ => execAndn_keeps _ _ _ _ _ (.refl _)
  | .sll _ _ _ _ _, _ => execSll_keeps _ _ _ _ _ (.refl _)
  | .srl _ _ _ _ _, _ => execSrl_keeps _ _ _ _ _ (.refl _)
  | .sra _ _ _ _ _, _ => execSra_keeps _ _ _ _ _ (.refl _)
  | .ror _ _ _ _ _, _ => execRor_keeps _ _ _ _ _ (.refl _)
  | .mul _ _ _ _ _, _ => execMul_keeps _ _ _ _ _ (.refl _)
  | .mulhu _ _ _ _ _, _ => execMulhu_keeps _ _ _ _ _ (.refl _)
  | .mulhs _ _ _ _ _, _ => execMulhs_keeps _ _ _ _ _ (.refl _)
  | .divu _ _ _ _ _, _ => execDivu_keeps _ _ _ _ _ (.refl _)
  | .divs _ _ _ _ _, _ => execDivs_keeps _ _ _ _ _ (.refl _)
  | .remu _ _ _ _ _, _ => execRemu_keeps _ _ _ _ _ (.refl _)
  | .rems _ _ _ _ _, _ => execRems_keeps _ _ _ _ _ (.refl _)
  | .mins _ _ _ _ _, _ => execMins_keeps _ _ _ _ _ (.refl _)
  | .maxs _ _ _ _ _, _ => execMaxs_keeps _ _ _ _ _ (.refl _)
  | .minu _ _ _ _ _, _ => execMinu_keeps _ _ _ _ _ (.refl _)
  | .maxu _ _ _ _ _, _ => execMaxu_keeps _ _ _ _ _ (.refl _)
  | .bswap16 _ _ _ _, _ => execBswap16_keeps _ _ _ _ (.refl _)
  | .bswap32 _ _ _ _, _ => execBswap32_keeps _ _ _ _ (.refl _)
  | .bswap64 _ _ _ _, _ => execBswap64_keeps _ _ _ _ (.refl _)
  | .clz _ _ _ _, _ => execClz_keeps _ _ _ _ (.refl _)
  | .popc _ _ _ _, _ => execPopc_keeps _ _ _ _ (.refl _)
  | .slt _ _ _ _ _, _ => execSlt_keeps _ _ _ _ _ (.refl _)
  | .sltu _ _ _ _ _, _ => execSltu_keeps _ _ _ _ _ (.refl _)
  | .sext32 _ _ _ _, _ => execSext32_keeps _ _ _ _ (.refl _)
  | .zext32 _ _ _ _, _ => execZext32_keeps _ _ _ _ (.refl _)
  | .addi _ _ _ _, _ => execAddi_keeps _ _ _ _ (.refl _)
  | .andi _ _ _ _, _ => execAndi_keeps _ _ _ _ (.refl _)
  | .ori _ _ _ _, _ => execOri_keeps _ _ _ _ (.refl _)
  | .xori _ _ _ _, _ => execXori_keeps _ _ _ _ (.refl _)
  | .shi _ _ _ _ _, _ => execShi_keeps _ _ _ _ _ (.refl _)
  | .lui _ _ _, _ => execLui_keeps _ _ _ (.refl _)
  | .movk _ _ _ _, _ => execMovk_keeps _ _ _ _ (.refl _)
  | .slti _ _ _ _, _ => execSlti_keeps _ _ _ _ (.refl _)
  | .sltiu _ _ _ _, _ => execSltiu_keeps _ _ _ _ (.refl _)
  | .cmpi _ _ _, _ => execCmpi_keeps _ _ _ (.refl _)
  | .brif _ _ _, _ => execBrif_keeps _ _ _ (.refl _)
  | .beq _ _ _ _, _ => execBeq_keeps _ _ _ _ (.refl _)
  | .bne _ _ _ _, _ => execBne_keeps _ _ _ _ (.refl _)
  | .blt _ _ _ _, _ => execBlt_keeps _ _ _ _ (.refl _)
  | .bge _ _ _ _, _ => execBge_keeps _ _ _ _ (.refl _)
  | .bltu _ _ _ _, _ => execBltu_keeps _ _ _ _ (.refl _)
  | .bgeu _ _ _ _, _ => execBgeu_keeps _ _ _ _ (.refl _)
  | .go _ _, _ => execGo_keeps _ _ (.refl _)
  | .call _ _ _, _ => execCall_keeps _ _ _ (.refl _)
  | .gor _ _, _ => execGor_keeps _ _ (.refl _)
  | .callr _ _ _, _ => execCallr_keeps _ _ _ (.refl _)
  | .ld _ _ _ _, _ => execLd_keeps _ _ _ _ (.refl _)
  | .lw _ _ _ _, _ => execLw_keeps _ _ _ _ (.refl _)
  | .lws _ _ _ _, _ => execLws_keeps _ _ _ _ (.refl _)
  | .lh _ _ _ _, _ => execLh_keeps _ _ _ _ (.refl _)
  | .lhs _ _ _ _, _ => execLhs_keeps _ _ _ _ (.refl _)
  | .lb _ _ _ _, _ => execLb_keeps _ _ _ _ (.refl _)
  | .lbs _ _ _ _, _ => execLbs_keeps _ _ _ _ (.refl _)
  | .tld _ _ _ _, _ => execTld_keeps _ _ _ _ (.refl _)
  | .sd _ _ _ _, _ => execSd_keeps _ _ _ _ (.refl _)
  | .sw _ _ _ _, _ => execSw_keeps _ _ _ _ (.refl _)
  | .sh _ _ _ _, _ => execSh_keeps _ _ _ _ (.refl _)
  | .sb _ _ _ _, _ => execSb_keeps _ _ _ _ (.refl _)
  | .tst _ _ _ _, _ => execTst_keeps _ _ _ _ (.refl _)
  | .swap _ _ _ _, _ => execSwap_keeps _ _ _ _ (.refl _)
  | .aadd _ _ _ _, _ => execAadd_keeps _ _ _ _ (.refl _)
  | .aand _ _ _ _, _ => execAand_keeps _ _ _ _ (.refl _)
  | .aor _ _ _ _, _ => execAor_keeps _ _ _ _ (.refl _)
  | .cas _ _ _ _, _ => execCas_keeps _ _ _ _ (.refl _)
  | .tmov _ _ _, _ => execTmov_keeps _ _ _ (.refl _)
  | .tadd _ _ _ _, _ => execTadd_keeps _ _ _ _ (.refl _)
  | .tsub _ _ _ _, _ => execTsub_keeps _ _ _ _ (.refl _)
  | .taddg _ _ _ _, _ => execTaddg_keeps _ _ _ _ (.refl _)
  | .tdiff _ _ _ _, _ => execTdiff_keeps _ _ _ _ (.refl _)
  | .tcmp _ _ _, _ => execTcmp_keeps _ _ _ (.refl _)
  | .tgets _ _ _, _ => execTgets_keeps _ _ _ (.refl _)
  | .tgetf _ _ _, _ => execTgetf_keeps _ _ _ (.refl _)
  | .tsets _ _ _ _, _ => execTsets_keeps _ _ _ _ (.refl _)
  | .tsetf _ _ _ _, _ => execTsetf_keeps _ _ _ _ (.refl _)
  | .ttosn _ _ _, _ => execTtosn_keeps _ _ _ (.refl _)
  | .tfromsn _ _ _, _ => execTfromsn_keeps _ _ _ (.refl _)
  | .tntp _ _ _, _ => execTntp_keeps _ _ _ (.refl _)
  | .tnow _ _ _, _ => execTnow_keeps _ _ _ (.refl _)
  | .waitt _ _ _ _, _ => execWaitt_keeps _ _ _ _ (.refl _)
  | .launch _ _ _, _ => execLaunch_keeps _ _ _ (.refl _)
  | .tspop _ _ _, _ => execTspop_keeps _ _ _ (.refl _)
  | .kick _ _ _ _, _ => execKick_keeps _ _ _ _ (.refl _)
  | .coll _ _ _, _ => execColl_keeps _ _ _ (.refl _)
  | .cpoll _ _ _, _ => execCpoll_keeps _ _ _ (.refl _)
  | .dbell _ _ _, _ => execDbell_keeps _ _ _ (.refl _)
  | .dbtake _ _ _, _ => execDbtake_keeps _ _ _ (.refl _)
  | .mbxclaim _ _, _ => execMbxclaim_keeps _ _ (.refl _)
  | .mbxgo _ _, _ => execMbxgo_keeps _ _ (.refl _)
  | .mbxrel _ _, _ => execMbxrel_keeps _ _ (.refl _)
  | .hbeat _ _, _ => execHbeat_keeps _ _ (.refl _)
  | .nop _, _ => execNop_keeps _ (.refl _)
  | .ecall _, _ => execEcall_keeps _ (.refl _)
  | .tret _, _ => execTret_keeps _ (.refl _)
  | .fence _, _ => execFence_keeps _ (.refl _)
  | .sleep _ _ _, _ => execSleep_keeps _ _ _ (.refl _)
  | .pmark _ _, _ => execPmark_keeps _ _ (.refl _)
  | .sysrd _ _ _, _ => execSysrd_keeps _ _ _ (.refl _)
  | .syswr _ _ _, _ => execSyswr_keeps _ _ _ (.refl _)
  | .anchor _ _ _ _, _ => execAnchor_keeps _ _ _ _ (.refl _)
  | .handover _ _ _, _ => execHandover_keeps _ _ _ (.refl _)
  | .sprd _ _ _, _ => execSprd_keeps _ _ _ (.refl _)
  | .lshwr _ _ _, _ => execLshwr_keeps _ _ _ (.refl _)
  | .ensy _ _ _, _ => execEnsy_keeps _ _ _ (.refl _)
  | .synCommitWrite _ _ _, _ => execSynCommitWrite_keeps _ _ _ (.refl _)
  | .synCommitApply _, _ => execSynCommitApply_keeps _ (.refl _)
  | .bandSearchStep _ _, _ => execBandSearchStep_keeps _ _ (.refl _)
  | .pllLkfLock _, _ => execPllLkfLock_keeps _ (.refl _)
  | .pllSettleTimeout _, _ => execPllSettleTimeout_keeps _ (.refl _)
  | .pllLoss _ _, _ => execPllLoss_keeps _ _ (.refl _)
  | .pllReferencePresent _, _ => execPllReferencePresent_keeps _ (.refl _)
  | .outputGridResume _, _ => execOutputGridResume_keeps _ (.refl _)
  | .outEnWrite _ _ _, _ => execOutEnWrite_keeps _ _ _ (.refl _)
  | .heelRecord _, _ => execHeelRecord_keeps _ (.refl _)
  | .heelHoldTimeout _, _ => execHeelHoldTimeout_keeps _ (.refl _)
  | .todMessage _, _ => execTodMessage_keeps _ (.refl _)
  | .bandCheck _ _, _ => execBandCheck_keeps _ _ (.refl _)
  | .outputPhaseCheck _, _ => execOutputPhaseCheck_keeps _ (.refl _)
  | .rollSend, _ => execRollSend_keeps (.refl _)
  | .rollReceive _, _ => execRollReceive_keeps _ (.refl _)
  | .partnerArriveTimeout _, _ => execPartnerArriveTimeout_keeps _ (.refl _)
  | .partnerDepart _, _ => execPartnerDepart_keeps _ (.refl _)
  | .partnerRearm _, _ => execPartnerRearm_keeps _ (.refl _)
  | .uplinkRevert, _ => execUplinkRevert_keeps (.refl _)
  | .uplinkWithholdEnd, _ => execUplinkWithholdEnd_keeps (.refl _)
  | .exchangeStart _, _ => execExchangeStart_keeps _ (.refl _)
  | .tReqReceive _, _ => execTReqReceive_keeps _ (.refl _)
  | .tRespReceive _, _ => execTRespReceive_keeps _ (.refl _)
  | .packTxTimestamp _ _ _, _ => execPackTxTimestamp_keeps _ _ _ (.refl _)
  | .tFupReceive _, _ => execTFupReceive_keeps _ (.refl _)
  | .exchangeVoid _, _ => execExchangeVoid_keeps _ (.refl _)
  | .packKeyLoad _ _, _ => execPackKeyLoad_keeps _ _ (.refl _)
  | .braceSend, _ => execBraceSend_keeps (.refl _)
  | .braceReceive _, _ => execBraceReceive_keeps _ (.refl _)
  | .braceSwap, _ => execBraceSwap_keeps (.refl _)
  | .brcUnmute _ _, _ => execBrcUnmute_keeps _ _ (.refl _)
  | .brcMute _ _, _ => execBrcMute_keeps _ _ (.refl _)
  | .autoUnmute, _ => execAutoUnmute_keeps (.refl _)
  | .adrStartWrite _ _, _ => execAdrStartWrite_keeps _ _ (.refl _)
  | .adrStartTrigger, _ => execAdrStartTrigger_keeps (.refl _)
  | .adrBlockBoundary _, _ => execAdrBlockBoundary_keeps _ (.refl _)
  | .adrOutputFrame _, _ => execAdrOutputFrame_keeps _ (.refl _)
  | .adrInputFrame _ _, _ => execAdrInputFrame_keeps _ _ (.refl _)
  | .adrInputLoss _, _ => execAdrInputLoss_keeps _ (.refl _)
  | .adrSecondRecord _, _ => execAdrSecondRecord_keeps _ (.refl _)
  | .adrCsCommit _ _ _, _ => execAdrCsCommit_keeps _ _ _ (.refl _)
  | .adrClockLoss _, _ => execAdrClockLoss_keeps _ (.refl _)
  | .fchHeadWrite _ _ _, _ => execFchHeadWrite_keeps _ _ _ (.refl _)
  | .fchDescriptorFetch _ _, _ => execFchDescriptorFetch_keeps _ _ (.refl _)
  | .fchDataCompletion _ _, _ => execFchDataCompletion_keeps _ _ (.refl _)
  | .fchCplTimeout _, _ => execFchCplTimeout_keeps _ (.refl _)
  | .fchAbort _ _, _ => execFchAbort_keeps _ _ (.refl _)
  | .fchClear _ _, _ => execFchClear_keeps _ _ (.refl _)
  | .fchFlush _ _, _ => execFchFlush_keeps _ _ (.refl _)
  | .unexpectedCompletion, _ => execUnexpectedCompletion_keeps (.refl _)
  | .functionLevelReset _, _ => execFunctionLevelReset_keeps _ (.refl _)
  | .bmeClear _ _, _ => execBmeClear_keeps _ _ (.refl _)
  | .hostLinkReset, _ => execHostLinkReset_keeps (.refl _)
  | .msixSend _, _ => execMsixSend_keeps _ (.refl _)
  | .irqPendClear _ _ _, _ => execIrqPendClear_keeps _ _ _ (.refl _)
  | .hstHDbellWrite _ _, _ => execHstHDbellWrite_keeps _ _ (.refl _)
  | .xtalReady _ _, _ => execXtalReady_keeps _ _ (.refl _)
  | .xtalFreqWindow _ _, _ => execXtalFreqWindow_keeps _ _ (.refl _)
  | .xtalLoss _, _ => execXtalLoss_keeps _ (.refl _)
  | .aonXtalReady, _ => execAonXtalReady_keeps (.refl _)
  | .aonXtalLoss, _ => execAonXtalLoss_keeps (.refl _)
  | .syspllLock _ _, _ => execSyspllLock_keeps _ _ (.refl _)
  | .syspllCoast _ _, _ => execSyspllCoast_keeps _ _ (.refl _)
  | .syspllRampDone _ _, _ => execSyspllRampDone_keeps _ _ (.refl _)
  | .clkRootSelWrite _ _, _ => execClkRootSelWrite_keeps _ _ (.refl _)
  | .clkSwitchComplete _, _ => execClkSwitchComplete_keeps _ (.refl _)
  | .kpllSourceLoss _, _ => execKpllSourceLoss_keeps _ (.refl _)
  | .kpllBetterSource _ _, _ => execKpllBetterSource_keeps _ _ (.refl _)
  | .kpllHoldExit _, _ => execKpllHoldExit_keeps _ (.refl _)
  | .pwrGate _ _, _ => execPwrGate_keeps _ _ (.refl _)
  | .quiesceEnd _ _, _ => execQuiesceEnd_keeps _ _ (.refl _)
  | .pwrUngate _ _, _ => execPwrUngate_keeps _ _ (.refl _)
  | .ungateClocksStable _, _ => execUngateClocksStable_keeps _ (.refl _)
  | .pwrForce _ _, _ => execPwrForce_keeps _ _ (.refl _)
  | .unitBlockReset _ _, _ => execUnitBlockReset_keeps _ _ (.refl _)
  | .dozeEnWrite _ _, _ => execDozeEnWrite_keeps _ _ (.refl _)
  | .dozeAutoGate _, _ => execDozeAutoGate_keeps _ (.refl _)
  | .dozeGateRetry _, _ => execDozeGateRetry_keeps _ (.refl _)
  | .crossingCheck _ _ _, _ => execCrossingCheck_keeps _ _ _ (.refl _)
  | .deepRequest _ _, _ => execDeepRequest_keeps _ _ (.refl _)
  | .deepWake _ _ _, _ => execDeepWake_keeps _ _ _ (.refl _)
  | .pwrChipReset _ _, _ => execPwrChipReset_keeps _ _ (.refl _)
  | .vinWarn _ _, _ => execVinWarn_keeps _ _ (.refl _)
  | .saveCommit, _ => execSaveCommit_keeps (.refl _)
  | .burySurvival _, _ => execBurySurvival_keeps _ (.refl _)
  | .vinReset _ _, _ => execVinReset_keeps _ _ (.refl _)
  | .vholdCollapse _ _ _, _ => execVholdCollapse_keeps _ _ _ (.refl _)
  | .periodicBoneSave, _ => execPeriodicBoneSave_keeps (.refl _)
  | .boneSectorErase _, _ => execBoneSectorErase_keeps _ (.refl _)
  | .kumSlotWrite _, _ => execKumSlotWrite_keeps _ (.refl _)
  | .kumSlotErase _, _ => execKumSlotErase_keeps _ (.refl _)
  | .kumDebugToken _, _ => execKumDebugToken_keeps _ (.refl _)
  | .kumRetire _, _ => execKumRetire_keeps _ (.refl _)
  | .kumLockExpiry, _ => execKumLockExpiry_keeps (.refl _)
  | .wkrLoad _ _ _ _, _ => execWkrLoad_keeps _ _ _ _ (.refl _)
  | .dbgObserve _, _ => execDbgObserve_keeps _ (.refl _)
  | .dbgInvasive _, _ => execDbgInvasive_keeps _ (.refl _)
  | .dbgClose _, _ => execDbgClose_keeps _ (.refl _)
  | .debugTimerExpiry, _ => execDebugTimerExpiry_keeps (.refl _)
  | .hostMeasExtend _ _, _ => execHostMeasExtend_keeps _ _ (.refl _)
  | .fltRaiseWrite _ _, _ => execFltRaiseWrite_keeps _ _ (.refl _)
  | .fltStatusClear _ _ _, _ => execFltStatusClear_keeps _ _ _ (.refl _)
  | .fltReactWrite _ _ _, _ => execFltReactWrite_keeps _ _ _ (.refl _)
  | .guardHbMiss, _ => execGuardHbMiss_keeps (.refl _)
  | .guardRestart _, _ => execGuardRestart_keeps _ (.refl _)
  | .guardHeartbeat, _ => execGuardHeartbeat_keeps (.refl _)
  | .guardFailTimeout, _ => execGuardFailTimeout_keeps (.refl _)
  | .obsSnapWrite _ _, _ => execObsSnapWrite_keeps _ _ (.refl _)
  | .snapPeriodic, _ => execSnapPeriodic_keeps (.refl _)
  | .obsCntSelWrite _ _ _, _ => execObsCntSelWrite_keeps _ _ _ (.refl _)
  | .obsCntWrite _ _ _, _ => execObsCntWrite_keeps _ _ _ (.refl _)
  | .sampleSelect _, _ => execSampleSelect_keeps _ (.refl _)
  | .telSample _ _ _ _, _ => execTelSample_keeps _ _ _ _ (.refl _)
  | .telRecord, _ => execTelRecord_keeps (.refl _)
  | .scrubLine _, _ => execScrubLine_keeps _ (.refl _)
  | .scrubSteal _, _ => execScrubSteal_keeps _ (.refl _)
  | .scrubPassLate, _ => execScrubPassLate_keeps (.refl _)
  | .kpllTick, _ => execKpllTick_keeps (.refl _)
  | .illegalEncoding _ _, _ => execIllegalEncoding_keeps _ _ (.refl _)
  | .mbxUnknownOpcode, _ => execMbxUnknownOpcode_keeps (.refl _)
  | .kumUnknownKind _, _ => execKumUnknownKind_keeps _ (.refl _)
  | .acqTimeout, _ => execAcqTimeout_keeps (.refl _)
  | .weakTimeExpiry, _ => execWeakTimeExpiry_keeps (.refl _)
  | .retryPeriodExpiry, _ => execRetryPeriodExpiry_keeps (.refl _)
  | .pauseEnd _, _ => execPauseEnd_keeps _ (.refl _)
  | .flrComplete _, _ => execFlrComplete_keeps _ (.refl _)
  | .busMasterEnableSet _ _ _ _ _, _ => execBusMasterEnableSet_keeps _ _ _ _ _ (.refl _)
  | .sramClearDone, _ => execSramClearDone_keeps (.refl _)
  | .holdRdyChange _, _ => execHoldRdyChange_keeps _ (.refl _)
  | .barkNMinHold, _ => execBarkNMinHold_keeps (.refl _)

theorem step_empty {s : State} (h : s.pending = []) : step s = .next s := by simp [step, h]

theorem step_command {s : State} {c : Instr} {q : List Instr} (h : s.pending = c :: q) : step s = exec c { s with pending := q } := by
  simp [step, h]

/-- A step answers the state itself, or what a command makes of the state with the rest of the queue. -/
theorem step_keeps_wf {s t : State} (h : s.wf) (e : step s = .next t) : t.wf := by
  cases hq : s.pending with
  | nil =>
    rw [step_empty hq] at e
    cases e
    exact h
  | cons c q =>
    obtain ⟨u, eu, k⟩ := exec_keeps c { s with pending := q }
    rw [step_command hq, eu] at e
    cases e
    exact k.wf h

/-- Settles O58: the command that a step takes keeps the canonical form, whichever it is. -/
theorem stepKeepsCanonicalForm : Obligations.StepKeepsCanonicalForm :=
  fun _ _ h e => step_keeps_wf h e

/-- With nothing listed, a register word outside the sealed store reads its reset entry (R13). -/
theorem word_reset {a : Nat} (h : rwsOff a = none) : State.reset.word a = coldWord a := by
  simp only [State.word, h]; rfl

/-- Settles O57: nothing is listed after reset, so each word reads its reset entry; the fields beside the registers are as
`State.reset` has them. -/
theorem resetState : Obligations.ResetState := by
  unfold Obligations.ResetState
  refine ⟨⟨rfl, rfl, rfl⟩, rfl, rfl, fun _ => word_reset, rfl, rfl, fun n => Vector.getElem_replicate .., ?dbg, rfl, ?state, rfl, rfl, rfl, rfl,
    fun c => ?channel⟩
  case dbg => decide +kernel
  case state => decide +kernel
  case channel => revert c; decide +kernel

/-! ## An Engine reset of a state that lists a register word twice -/

/-- A state whose register list is not canonical: it names ENG_CTRL of E0 twice, the first time at its reset entry, and ENG_STAT says
that E0 runs a measured image. RUN reads 0, as the first entry has it. -/
def ctrlTwice : State :=
  { State.reset with regs := [(R.ENG_CTRL_RUN.at 0, 0), (R.ENG_CTRL_RUN.at 0, 1), (R.ENG_STAT_STATE.at 0, 11)] }

theorem ctrlTwice_reads : ctrlTwice.engState 0 = 3 ∧ ctrlTwice.flag R.ENG_CTRL_RUN (0 : Fin 12) = false := by
  decide +kernel

/-- The reset of R12 drops entries that stand at their reset entry, so the second entry of ENG_CTRL shows: E0 runs afterwards. -/
theorem ctrlTwice_engineReset_runs : (ctrlTwice.engineReset 0).engState 0 = 3 := by
  decide +kernel

/-- Refutes O13: nothing in the statement asks for a canonical state. In `ctrlTwice` RUN reads 0, so the Engine reset should leave E0 STOPPED; but it
drops the first of the two entries of ENG_CTRL, RUN reads 1 by the second, and E0 is RUNNING. -/
theorem not_engineRunGateAndReset : ¬ Obligations.EngineRunGateAndReset := by
  unfold Obligations.EngineRunGateAndReset
  rintro ⟨-, resets⟩
  obtain ⟨hst, hrun⟩ := ctrlTwice_reads
  obtain ⟨fresh, -⟩ := resets ctrlTwice .hw 0
  obtain ⟨t, e, -, ht, -⟩ := fresh (.inl hst)
  have et : t = ctrlTwice.engineReset 0 := by cases e; rfl
  rw [et, ctrlTwice_engineReset_runs, hrun] at ht
  exact absurd ht (by decide)

end Sys2Proof.Machine

/-! ## The register map: rows, masks and the words that rows cover -/

namespace Sys2Proof.Machine

/-- A bit lies in the mask of a word when a row there that passes the test covers it. -/
theorem testBit_maskAt (p : RegRow → Bool) (a b : Nat) :
    (maskAt p a).testBit b = (rowsAt a).any fun rk => p rk.1 && (rk.1.fld.mask rk.2).testBit b := by
  have fold : ∀ (l : List (RegRow × Nat)) (m : Nat),
      (l.foldl (fun m rk => if p rk.1 then m ||| rk.1.fld.mask rk.2 else m) m).testBit b
        = (m.testBit b || l.any fun rk => p rk.1 && (rk.1.fld.mask rk.2).testBit b) := by
    intro l
    induction l with
    | nil => simp
    | cons rk l ih =>
      intro m
      rw [List.foldl_cons, ih]
      cases hp : p rk.1 <;> simp [hp, Nat.testBit_or, Bool.or_assoc]
  simpa [maskAt] using fold (rowsAt a) 0

theorem testBit_maskAt_mono {p q : RegRow → Bool} {a b : Nat} (hpq : ∀ r, p r = true → q r = true) (h : (maskAt p a).testBit b = true) :
    (maskAt q a).testBit b = true := by
  rw [testBit_maskAt, List.any_eq_true] at *
  obtain ⟨rk, hrk, h⟩ := h
  rw [Bool.and_eq_true] at h
  exact ⟨rk, hrk, by rw [hpq _ h.1, h.2]; rfl⟩

theorem maskAt_of_no_rows {p : RegRow → Bool} {a : Nat} (h : rowsAt a = []) : maskAt p a = 0 := by
  rw [maskAt, h]; rfl

/-- The addresses of the words that a row covers. -/
def RegRow.addrs (r : RegRow) : List Nat :=
  (List.range r.inst).flatMap fun i => (List.range r.fld.words).map fun k => r.fld.addr + r.fld.stride * i + 4 * k

theorem mem_addrs_of_wordAt {r : RegRow} {a k : Nat} (h : r.wordAt a = some k) : a ∈ r.addrs := by
  unfold RegRow.wordAt at h
  split at h
  · cases h
  · next ha =>
    dsimp only at h
    generalize hi : (if r.fld.stride = 0 then 0 else (a - r.fld.addr) / r.fld.stride) = i at h
    split at h
    · next hc =>
      simp only [Bool.and_eq_true, decide_eq_true_eq] at hc
      obtain ⟨⟨hin, ho⟩, h4⟩ := hc
      have hle : i * r.fld.stride ≤ a - r.fld.addr := by
        rw [← hi]; split
        · simp
        · exact Nat.div_mul_le_self ..
      refine List.mem_flatMap.mpr ⟨i, List.mem_range.mpr hin, List.mem_map.mpr ⟨(a - r.fld.addr - i * r.fld.stride) / 4, ?_, ?_⟩⟩
      · exact List.mem_range.mpr (by omega)
      · rw [Nat.mul_comm] at hle
        rw [Nat.mul_comm i] at h4 ⊢
        omega
    · cases h

/-- The tables of the register map, one per block (R25). -/
def rowTables : List (List RegRow) :=
  [rowsCLK, rowsPWR, rowsAON, rowsSEC, rowsFLT, rowsOBS, rowsMTX, rowsHST, rowsFCH, rowsKNL, rowsREF, rowsTIM, rowsSYN, rowsLSH, rowsGNS,
    rowsPRT, rowsLCH, rowsSRV, rowsADR, rowsENG, rowsPCK, rowsBRC]

theorem rowsAt_mem {a k : Nat} {r : RegRow} (h : (r, k) ∈ rowsAt a) : r ∈ rowsOf a ∧ a ∈ r.addrs := by
  unfold rowsAt at h
  split at h
  · cases h
  · obtain ⟨r', hr', e⟩ := List.mem_filterMap.mp h
    obtain ⟨k', hk', e⟩ := Option.map_eq_some_iff.mp e
    cases e
    exact ⟨hr', mem_addrs_of_wordAt hk'⟩

theorem rowsOf_table (a : Nat) : rowsOf a ∈ rowTables ++ [[]] := by
  have choice : ∀ {c : Prop} [Decidable c] {x y : List RegRow}, x ∈ rowTables ++ [[]] → y ∈ rowTables ++ [[]] →
      (if c then x else y) ∈ rowTables ++ [[]] := by
    intro c _ x y hx hy
    split <;> assumption
  unfold rowsOf
  repeat' with_reducible apply choice
  all_goals
    unfold rowTables
    simp only [List.cons_append, List.nil_append]
    repeat first
      | with_reducible exact List.mem_cons_self
      | with_reducible apply List.mem_cons_of_mem

theorem rowsOf_gate {a : Nat} (hlo : 0x1000000 ≤ a) (hhi : a < 0x1400000) :
    rowsOf a = rowsKNL ∨ rowsOf a = rowsREF ∨ rowsOf a = rowsTIM ∨ rowsOf a = rowsSYN := by
  unfold rowsOf
  rw [if_neg (by omega), if_neg (by omega), if_neg (by omega), if_neg (by omega), if_neg (by omega), if_neg (by omega), if_neg (by omega),
    if_neg (by omega), if_neg (by omega)]
  by_cases h1 : a < 0x1100000
  · exact .inl (if_pos h1)
  · rw [if_neg h1]
    by_cases h2 : a < 0x1200000
    · exact .inr (.inl (if_pos h2))
    · rw [if_neg h2]
      by_cases h3 : a < 0x1300000
      · exact .inr (.inr (.inl (if_pos h3)))
      · rw [if_neg h3]
        exact .inr (.inr (.inr (if_pos hhi)))

/-- No bit of a word can be both written and cleared by a 1 (R11). -/
theorem w1c_not_rw {a b : Nat} (h : (maskAt (fun r => r.acc == .w1c) a).testBit b = true) :
    (maskAt (fun r => r.acc == .rw || (r.acc == .wo && woKept a)) a).testBit b = false := by
  have table : ∀ l ∈ rowTables ++ [[]], ∀ r ∈ l, r.acc = .w1c → ∀ a ∈ r.addrs,
      maskAt (fun r => r.acc == .rw || r.acc == .wo) a &&& maskAt (fun r => r.acc == .w1c) a = 0 := by
    decide +kernel
  have hrow := h
  rw [testBit_maskAt, List.any_eq_true] at hrow
  obtain ⟨⟨r, k⟩, hmem, hr⟩ := hrow
  obtain ⟨hof, haddr⟩ := rowsAt_mem hmem
  have hacc : r.acc = .w1c := eq_of_beq (Bool.and_eq_true _ _ ▸ hr).1
  have disjoint := congrArg (Nat.testBit · b) (table _ (rowsOf_table a) r hof hacc a haddr)
  simp only [Nat.testBit_and, h, Bool.and_true, Nat.zero_testBit] at disjoint
  by_contra hrw
  rw [Bool.not_eq_false] at hrw
  have wide := testBit_maskAt_mono (q := fun r => r.acc == .rw || r.acc == .wo)
    (fun r hp => by cases hr : r.acc <;> simp_all) hrw
  rw [disjoint] at wide
  cases wide

/-- A master writes no word that the sealed store holds (R11, R59). -/
theorem sealed_not_written {a : Nat} (h : (rwsOff a).isSome = true) : maskAt (fun r => r.acc == .rw || r.acc == .w1c || r.acc == .wo) a = 0 := by
  have table : ∀ l ∈ [rowsKNL, rowsREF, rowsTIM, rowsSYN], ∀ r ∈ l, (r.acc == .rw || r.acc == .w1c || r.acc == .wo) = true →
      ∀ a ∈ r.addrs, (rwsOff a).isSome = false := by
    decide +kernel
  have hlo : 0x1000000 ≤ a := by by_contra hn; simp [rwsOff, Nat.not_le.mp hn] at h
  have hhi : a < 0x1400000 := by
    by_contra hn
    unfold rwsOff at h
    rw [if_neg (by omega), if_neg (by omega), if_neg (by omega), if_neg (by omega), if_neg (by omega)] at h
    cases h
  have hl : rowsOf a ∈ [rowsKNL, rowsREF, rowsTIM, rowsSYN] := by
    rcases rowsOf_gate hlo hhi with e | e | e | e <;> rw [e]
    all_goals repeat first
      | with_reducible exact List.mem_cons_self
      | with_reducible apply List.mem_cons_of_mem
  refine Nat.eq_of_testBit_eq fun b => ?_
  rw [Nat.zero_testBit, testBit_maskAt, List.any_eq_false]
  rintro ⟨r, k⟩ hmem hr
  obtain ⟨hof, haddr⟩ := rowsAt_mem hmem
  rw [table _ hl r hof (Bool.and_eq_true _ _ ▸ hr).1 a haddr] at h
  cases h

end Sys2Proof.Machine

/-! ## Accesses of masters to register words (R8 to R11, R26, R27, R364) -/

namespace Sys2Proof.Machine

/-- A field's value is a matter of the register words alone. -/
theorem get_of_words {s t : State} (h : ∀ a, t.word a = s.word a) (f : Fld) (i : Nat) : t.get f i = s.get f i := by
  unfold State.get
  rw [wordsN_congr fun k _ => h _]

/-! ### The state in which a write takes effect -/

section quiet

variable (s : State) (m : Master) (a : Nat)

theorem quiet_eq : ({ s with answer := Answer.none } : State) = s.quiet := rfl

@[simp] theorem word_quiet : s.quiet.word a = s.word a := rfl
@[simp] theorem get_quiet (f : Fld) (i : Nat) : s.quiet.get f i = s.get f i := get_of_words (word_quiet s) f i
@[simp] theorem answers_quiet : s.quiet.answers m = s.answers m := by cases m <;> simp [State.answers] <;> rfl
@[simp] theorem rights_quiet : s.quiet.rights m a = s.rights m a := by cases m <;> simp [State.rights, State.fnRights]
@[simp] theorem writeMask_quiet : s.quiet.writeMask m a = s.writeMask m a := by simp [State.writeMask, State.chanMask]
@[simp] theorem engState_quiet (n : Fin 12) : s.quiet.engState n = s.engState n := get_quiet ..
@[simp] theorem engMem_quiet : s.quiet.engMem m a = s.engMem m a := by simp [State.engMem, State.dbgMem]

end quiet

/-! ### What an access meets -/

section access

variable {s : State} {m : Master} {a : Nat}

theorem busRead32_refused (h : s.answers m = false ∨ a % 4 ≠ 0) : s.busRead32 m a = { s with answer := .error } := by
  unfold State.busRead32
  rw [if_pos (by simpa using h)]
  rfl

theorem busWrite32_refused (v : Word) (h : s.answers m = false ∨ a % 4 ≠ 0) : s.busWrite32 m a v = { s with answer := .error } := by
  unfold State.busWrite32
  simp only [quiet_eq, answers_quiet]
  rw [if_pos (by simpa using h)]
  rfl

variable (ha : s.answers m = true) (h4 : a % 4 = 0)
include ha h4

theorem busRead32_unmapped (hr : s.rights m a = .unmapped) (hm : ∀ f, m ≠ .pf f) : s.busRead32 m a = { s with answer := .error } := by
  unfold State.busRead32
  rw [if_neg (by simp [ha, h4]), if_pos hr]
  cases m with
  | pf f => exact absurd rfl (hm f)
  | _ => rfl

theorem busWrite32_unmapped (v : Word) (hr : s.rights m a = .unmapped) (hm : ∀ f, m ≠ .pf f) :
    s.busWrite32 m a v = { s with answer := .error } := by
  unfold State.busWrite32
  simp only [quiet_eq, answers_quiet, rights_quiet]
  rw [if_neg (by simp [ha, h4]), if_pos hr]
  cases m with
  | pf f => exact absurd rfl (hm f)
  | _ => rfl

/-- A read in the memory window of an engine (R261, R278). -/
theorem busRead32_engMem {n : Fin 12} {dmem : Bool} {cell : Nat} (hr : s.rights m a ≠ .unmapped) (he : s.engMem m a = some (n, dmem, cell))
    (hb : s.badAt cell 4 = false) : s.busRead32 m a
      = (s.corrected n (s.softs cell 4)).reply (if dmem && s.engState n == stOff then 0 else BitVec.ofNat 32 (s.memN cell 4)) := by
  unfold State.busRead32
  rw [if_neg (by simp [ha, h4]), if_neg hr, he]
  simp [hb]

/-- A read of a register word (R9, R63). -/
theorem busRead32_reg (hr : s.rights m a ≠ .unmapped) (he : s.engMem m a = none) : s.busRead32 m a
      = if a = R.KNL_MBX_CLAIM.addr then (s.mbClaim m).2.reply (BitVec.ofNat 32 (s.mbClaim m).1)
        else if 0x1000400 ≤ a && a < 0x1001400 && (m == .pf 2 || m == .pf 3) then s.reply 0
        else (s.readWord m a).2.reply (s.readWord m a).1 := by
  unfold State.busRead32
  rw [if_neg (by simp [ha, h4]), if_neg hr, he]

/-- A write in the memory window of an engine (R261, R278). -/
theorem busWrite32_engMem {n : Fin 12} {dmem : Bool} {cell : Nat} (v : Word) (hr : s.rights m a = .rw)
    (he : s.engMem m a = some (n, dmem, cell)) : s.busWrite32 m a v = s.quiet.engMemWrite n dmem cell v := by
  unfold State.busWrite32
  simp only [quiet_eq, answers_quiet, rights_quiet, engMem_quiet, he, hr]
  rw [if_neg (by simp [ha, h4]), if_neg (by simp), if_pos trivial]

/-- A write that reaches some bits of a register word. -/
theorem busWrite32_open (v : Word) (hr : s.rights m a ≠ .unmapped) (he : s.engMem m a = none) (hm : s.writeMask m a ≠ 0) :
    s.busWrite32 m a v = (s.quiet.enabledWrite m a v (s.writeMask m a)).irqFollow s.quiet := by
  unfold State.busWrite32
  simp only [quiet_eq, answers_quiet, rights_quiet, engMem_quiet, writeMask_quiet, he]
  rw [if_neg (by simp [ha, h4]), if_neg hr, if_neg hm]

/-- A write that reaches no bit of a register word changes nothing, but for one of a function other than PF0 to an assigned word. -/
theorem busWrite32_closed (v : Word) (hr : s.rights m a ≠ .unmapped) (he : s.engMem m a = none) (hm : s.writeMask m a = 0)
    (hf : ∀ f, m = .pf f → f = 0 ∨ rowsAt a = []) : s.busWrite32 m a v = s.quiet := by
  unfold State.busWrite32
  simp only [quiet_eq, answers_quiet, rights_quiet, engMem_quiet, writeMask_quiet, he]
  rw [if_neg (by simp [ha, h4]), if_neg hr, if_pos hm]
  cases m with
  | pf f => exact if_neg (by rcases hf f rfl with h | h <;> simp [h])
  | _ => rfl

omit ha in
/-- A write of a function other than PF0 that it cannot make (R364). -/
theorem busWrite32_roWrite {f : Fin 4} (ha : s.answers (.pf f) = true) (v : Word) (hr : s.rights (.pf f) a ≠ .unmapped)
    (he : s.engMem (.pf f) a = none) (hm : s.writeMask (.pf f) a = 0) (hf : f ≠ 0) (hrows : rowsAt a ≠ []) :
    s.busWrite32 (.pf f) a v = s.quiet.roWrite := by
  unfold State.busWrite32
  simp only [quiet_eq, answers_quiet, rights_quiet, engMem_quiet, writeMask_quiet, he]
  rw [if_neg (by simp [ha, h4]), if_neg hr, if_pos hm, if_pos (by simp [hf, hrows])]

end access

end Sys2Proof.Machine

/-! ## Reads of register words and their latches (R9, R364) -/

namespace Sys2Proof.Machine

/-- A latched word reads, for its reader, as it was shown. -/
theorem latched_latchAll_same (s : State) (m : Master) (a n : Nat) {k : Nat} (hk : k < n) :
    (s.latchAll m a n).latched m (a + 4 * k) = s.shown (a + 4 * k) := by
  have dropped : ((s.latch.filter fun x => !(x.1 == readerId m && decide (a ≤ x.2.1) && decide (x.2.1 < a + 4 * n))).find?
      fun x => x.1 == readerId m && x.2.1 == a + 4 * k) = none := by
    rw [List.find?_eq_none]
    rintro ⟨r, b, w⟩ hx
    have := (List.mem_filter.mp hx).2
    simp only [Bool.not_eq_true', Bool.and_eq_false_iff, beq_eq_false_iff_ne, decide_eq_false_iff_not] at this
    simp only [Bool.and_eq_true, beq_iff_eq]
    rintro ⟨hr, hb⟩
    simp only [hr, hb] at this
    omega
  unfold State.latched State.latchAll
  dsimp only
  rw [List.find?_append, dropped, Option.none_or]
  cases hf : ((List.range n).map fun i => (readerId m, a + 4 * i, s.shown (a + 4 * i))).find? fun x => x.1 == readerId m && x.2.1 == a + 4 * k with
  | none =>
    rw [List.find?_eq_none] at hf
    exact absurd (by simp) (hf (readerId m, a + 4 * k, s.shown (a + 4 * k)) (List.mem_map.mpr ⟨k, List.mem_range.mpr hk, rfl⟩))
  | some x =>
    obtain ⟨i, -, rfl⟩ := List.mem_map.mp (List.mem_of_find?_eq_some hf)
    have := List.find?_some hf
    simp only [beq_self_eq_true, Bool.true_and, beq_iff_eq] at this
    simp [this]

/-- Latching for one reader leaves what another holds. -/
theorem latched_latchAll_other (s : State) {m m' : Master} (a n x : Nat) (h : readerId m' ≠ readerId m) :
    (s.latchAll m a n).latched m' x = s.latched m' x := by
  have fresh : ((List.range n).map fun i => (readerId m, a + 4 * i, s.shown (a + 4 * i))).find? (fun y => y.1 == readerId m' && y.2.1 == x) = none := by
    rw [List.find?_eq_none]
    intro y hy
    obtain ⟨i, -, rfl⟩ := List.mem_map.mp hy
    simp [h.symm]
  unfold State.latched State.latchAll
  dsimp only
  rw [List.find?_append, fresh, Option.or_none, List.find?_filter]
  congr 3
  funext y
  by_cases hy : y.1 = readerId m'
  · simp [hy, h, Bool.beq_eq_decide_eq]
  · simp [hy]

section reads

variable {s : State} {m : Master} {a : Nat}

theorem readWord_single (h : readGroup a = none) : s.readWord m a = (s.shown a, s) := by
  unfold State.readWord; rw [h]

theorem readWord_lowest {n : Nat} (h : readGroup a = some (a, n)) : s.readWord m a = (s.shown a, s.latchAll m a n) := by
  unfold State.readWord; rw [h]; exact if_pos rfl

theorem readWord_higher {b n : Nat} (h : readGroup a = some (b, n)) (hb : b ≠ a) : s.readWord m a = (s.latched m a, s) := by
  unfold State.readWord; rw [h]; exact if_neg hb.symm

/-- A read shows no bit that no row of the map covers (R10). -/
theorem shown_unassigned {b : Nat} (h : (maskAt (fun _ => true) a).testBit b = false) : (s.shown a).getLsbD b = false := by
  have hm : (maskAt (fun r => r.acc != .wo) a).testBit b = false := by
    by_contra hn
    rw [Bool.not_eq_false] at hn
    rw [testBit_maskAt_mono (q := fun _ => true) (fun _ _ => rfl) hn] at h
    cases h
  rw [State.shown, BitVec.getLsbD_and, BitVec.getLsbD_ofNat, hm, Bool.and_false, Bool.and_false]

theorem shown_of_no_rows (h : rowsAt a = []) : s.shown a = 0 := by
  rw [State.shown, maskAt_of_no_rows h]
  exact BitVec.and_zero

theorem engMem_below (h : a < 0x4000000) : s.engMem m a = none := by
  have : engAt a = none := dif_neg (by omega)
  rw [State.engMem, this]

/-- REGISTER_READ of an address in BAR0. -/
theorem exec_multiwordLatchRead (h : a < bar2Base) : exec (.multiwordLatchRead m a) s = .next (s.busRead32 m a) := by
  show Host.Outcome.next _ = _
  rw [if_neg (Nat.not_le.mpr h)]

/-- REGISTER_WRITE of an address in BAR0. -/
theorem exec_registerWrite (v : Word) (h : a < bar2Base) : exec (.registerWrite m a v) s = .next (s.busWrite32 m a v) := by
  show Host.Outcome.next _ = _
  rw [if_neg (Nat.not_le.mpr h)]

end reads

/-! ## BAR2: the MSI-X tables (R363, R366) -/

/-- `t` is `s` but for the messages of HST that wait or go. -/
def OnlyMsgs (s t : State) : Prop := { t with hst := { t.hst with pba := s.hst.pba, msgs := s.hst.msgs } } = s

theorem OnlyMsgs.refl (s : State) : OnlyMsgs s s := rfl

theorem OnlyMsgs.trans {r s t : State} (h : OnlyMsgs r s) (k : OnlyMsgs s t) : OnlyMsgs r t := by
  unfold OnlyMsgs at *
  rw [← h, ← k]

theorem msgGo_onlyMsgs (s : State) (v : Fin 64) : OnlyMsgs s (s.msgGo v) := by
  unfold State.msgGo
  split <;> rfl

theorem msgScan_onlyMsgs (s : State) (f : Nat) : OnlyMsgs s (s.msgScan f) := by
  unfold State.msgScan
  generalize List.finRange 64 = l
  induction l generalizing s with
  | nil => exact .refl s
  | cons v l ih =>
    rw [List.foldl_cons]
    refine OnlyMsgs.trans ?_ (ih _)
    split
    · exact msgGo_onlyMsgs s v
    · exact .refl s

theorem OnlyMsgs.word {s t : State} (h : OnlyMsgs s t) (a : Nat) : t.word a = s.word a := by rw [← h]; rfl

theorem OnlyMsgs.mem {s t : State} (h : OnlyMsgs s t) : t.mem = s.mem := by rw [← h]

theorem OnlyMsgs.time {s t : State} (h : OnlyMsgs s t) : t.time = s.time := by rw [← h]

theorem OnlyMsgs.msixWord {s t : State} (h : OnlyMsgs s t) (o : Nat) : t.msixWord o = s.msixWord o := by rw [← h]; rfl

section bar2

variable (s : State) (m : Master) (o : Nat)

theorem exec_read_bar2 : exec (.multiwordLatchRead m (bar2Base + o)) s = .next (s.bar2Read m o) := by
  show Host.Outcome.next _ = _
  rw [if_pos (Nat.le_add_right ..), Nat.add_sub_cancel_left]

theorem exec_write_bar2 (v : Word) : exec (.registerWrite m (bar2Base + o) v) s = .next (s.bar2Write m o v) := by
  show Host.Outcome.next _ = _
  rw [if_pos (Nat.le_add_right ..), Nat.add_sub_cancel_left]

variable {s m o}

theorem bar2Read_refused (h : s.answers m = false ∨ o % 4 ≠ 0 ∨ 0x4000 ≤ o ∨ ∀ f, m ≠ .pf f) : s.bar2Read m o = { s with answer := .error } := by
  cases m with
  | pf f => exact if_pos (by simpa [or_assoc] using h)
  | _ => rfl

theorem bar2Write_refused (v : Word) (h : s.answers m = false ∨ o % 4 ≠ 0 ∨ 0x4000 ≤ o ∨ ∀ f, m ≠ .pf f) :
    s.bar2Write m o v = { s with answer := .error } := by
  unfold State.bar2Write
  simp only [quiet_eq, answers_quiet]
  cases m with
  | pf f => exact if_pos (by simpa [or_assoc] using h)
  | _ => rfl

variable {f : Fin 4} (ha : s.answers (.pf f) = true) (h4 : o % 4 = 0) (ho : o < 0x4000)
include ha h4 ho

theorem bar2Read_answered : s.bar2Read (.pf f) o = { s with answer := .data (if o < 16 * vecCount f.val then s.msixWord (16 * vecBase f.val + o)
    else if o = 0x2000 then BitVec.ofNat 32 (s.hst.pba.toNat / 2 ^ vecBase f.val % 2 ^ vecCount f.val) else 0) } := by
  unfold State.bar2Read
  dsimp only
  rw [if_neg (by simp [ha, h4, ho])]
  split_ifs <;> rfl

theorem bar2Write_outside (v : Word) (h : 16 * vecCount f.val ≤ o) : s.bar2Write (.pf f) o v = s.quiet := by
  unfold State.bar2Write
  simp only [quiet_eq, answers_quiet]
  rw [if_neg (by simp [ha, h4, ho]), if_neg (Nat.not_lt.mpr h)]

/-- A write of a table word: the word takes the bits that it has, and messages may go. -/
theorem bar2Write_table (v : Word) (h : o < 16 * vecCount f.val) :
    (s.bar2Write (.pf f) o v).mem = s.mem ∧ (s.bar2Write (.pf f) o v).time = s.time
      ∧ (s.bar2Write (.pf f) o v).msixWord (16 * vecBase f.val + o)
        = if o % 16 = 12 then v &&& 1 else if o % 16 = 0 then v &&& 0xFFFFFFFC#32 else v := by
  unfold State.bar2Write
  simp only [quiet_eq, answers_quiet]
  rw [if_neg (by simp [ha, h4, ho]), if_pos h]
  generalize (if o % 16 = 12 then v &&& 1 else if o % 16 = 0 then v &&& 0xFFFFFFFC#32 else v) = w
  have scan := msgScan_onlyMsgs
    { s.quiet with hst := { s.quiet.hst with msix := sput (w == if o % 16 = 12 then 1#32 else 0#32) (16 * vecBase f.val + o) w s.quiet.hst.msix } } f.val
  refine ⟨scan.mem, scan.time, (scan.msixWord _).trans ?_⟩
  have offset : (16 * vecBase f.val + o) % 16 = o % 16 := by omega
  simp only [State.msixWord, sget_sput_same, offset]
  generalize (if o % 16 = 12 then 1#32 else 0#32) = d
  by_cases hd : w = d <;> simp [hd]

end bar2

end Sys2Proof.Machine

/-! ## What a write of a register word leaves in it (R9 to R11, R364, R383) -/

namespace Sys2Proof.Machine

/-- The words of HST_IRQ_PEND. -/
def pendWord (a : Nat) : Bool := decide (0x500030 ≤ a) && decide (a < 0x500038)

theorem pendWord_apart {a : Nat} (h : a < 0x500030 ∨ 0x500038 ≤ a) : pendWord a = false := by
  simp only [pendWord, Bool.and_eq_false_iff, decide_eq_false_iff_not]
  omega

theorem within_setWord {p : Nat → Bool} (s : State) {a : Nat} (w : Word) (h : p a = true) : Within p s (s.setWord a w) := by
  obtain ⟨r, hr⟩ := setWord_regs s a w
  refine ⟨by rw [hr], fun x hx => word_setWord_ne w ?_⟩
  rintro rfl
  rw [h] at hx
  cases hx

section within

variable {p : Nat → Bool} {s t : State} (h : Within p s t)
include h

theorem Within.mem : t.mem = s.mem := by rw [← h.rest]
theorem Within.answer : t.answer = s.answer := by rw [← h.rest]
theorem Within.holdw : t.holdw = s.holdw := by rw [← h.rest]
theorem Within.time : t.time = s.time := by rw [← h.rest]
theorem Within.eng : t.eng = s.eng := by rw [← h.rest]
theorem Within.jobs : t.jobs = s.jobs := by rw [← h.rest]
theorem Within.kspi : t.kspi = s.kspi := by rw [← h.rest]
theorem Within.sec : t.sec = s.sec := by rw [← h.rest]
theorem Within.aon : t.aon = s.aon := by rw [← h.rest]
theorem Within.pwr : t.pwr = s.pwr := by rw [← h.rest]
theorem Within.knl : t.knl = s.knl := by rw [← h.rest]
theorem Within.flt : t.flt = s.flt := by rw [← h.rest]

end within

/-- What a write from a state with no answer standing changes, seen from the state before the access. -/
theorem Within.rest_quiet {p : Nat → Bool} {s t : State} (h : Within p s.quiet t) : { t with regs := s.regs, hst := s.hst, answer := s.answer } = s := by
  have rest := h.rest
  calc ({ t with regs := s.regs, hst := s.hst, answer := s.answer } : State)
      = { ({ t with regs := s.quiet.regs, hst := s.quiet.hst } : State) with answer := s.answer } := rfl
    _ = s := by rw [rest]; rfl

theorem within_irqFollow (s u : State) : Within pendWord s (s.irqFollow u) :=
  within_foldl _ _ fun t k => by
    unfold State.irqEdge
    exact within_ite (within_irq _ _ rfl rfl) (.refl _ _)

/-- A raised event bit stands in its field, whatever interrupt follows. -/
theorem get_raiseBit_same {s : State} {f : Fld} {i b : Nat} (hp : f.plain i) (hb : b < f.width) (hf : ∀ k < f.words, pendWord (f.at i + 4 * k) = false) :
    (s.raiseBit f i b).get f i = s.get f i ||| 2 ^ b := by
  have set := get_set_same (s := s) (s.get f i ||| 2 ^ b) hp
  have fits : s.get f i ||| 2 ^ b < 2 ^ f.width := Nat.or_lt_two_pow (Nat.mod_lt _ (by positivity)) (Nat.pow_lt_pow_right (by decide) hb)
  rw [Nat.mod_eq_of_lt fits] at set
  rw [← set]
  unfold State.raiseBit
  dsimp only
  split
  · rfl
  · unfold State.irqEdge
    split
    · exact (within_irq (p := pendWord) _ _ rfl rfl).get f i hf
    · rfl

/-! ### The bits that land -/

/-- The value of a word after a write of it reaches the bits of a mask (R11). -/
def State.landed (s : State) (a : Nat) (v : Word) (mask : Nat) : Word :=
  let of_ := fun (p : Acc → Bool) => BitVec.ofNat 32 (maskAt (fun r => p r.acc) a &&& mask)
  let rw := of_ fun x => x == .rw || (x == .wo && woKept a)
  ((s.word a &&& ~~~rw) ||| (v &&& rw)) &&& ~~~(v &&& of_ (· == .w1c))

theorem putMasked_eq (s : State) (a : Nat) (v : Word) (mask : Nat) : s.putMasked a v mask = (s.setWord a (s.landed a v mask)).clampAt a := rfl

/-- RW bits take the value, W1C bits written as 1 become 0, others stand. -/
theorem landed_getLsbD (s : State) (a : Nat) (v : Word) (mask : Nat) {b : Nat} (hb : b < 32) :
    (s.landed a v mask).getLsbD b =
      if (maskAt (fun r => r.acc == .rw || (r.acc == .wo && woKept a)) a).testBit b && mask.testBit b then v.getLsbD b
      else if (maskAt (fun r => r.acc == .w1c) a).testBit b && mask.testBit b then (s.word a).getLsbD b && !v.getLsbD b
      else (s.word a).getLsbD b := by
  have apart := w1c_not_rw (a := a) (b := b)
  simp only [State.landed, BitVec.getLsbD_and, BitVec.getLsbD_or, BitVec.getLsbD_not, BitVec.getLsbD_ofNat, Nat.testBit_and, hb, decide_true, Bool.true_and]
  cases hw : (maskAt (fun r => r.acc == .w1c) a).testBit b with
  | true => rw [apart hw]; cases mask.testBit b <;> simp
  | false => cases (maskAt (fun r => r.acc == .rw || (r.acc == .wo && woKept a)) a).testBit b <;> cases mask.testBit b <;> simp

section reach

variable {s : State} {m : Master} {a : Nat}

theorem writeMask_le (h : s.writeMask m a ≠ 0) : maskAt (fun r => r.acc == .rw || r.acc == .w1c || r.acc == .wo) a ≠ 0 := by
  intro base
  apply h
  unfold State.writeMask
  rw [base]
  split
  · rfl
  · dsimp only
    split
    · exact Nat.zero_and _
    · rfl

/-- A write reaches no word that the sealed store holds. -/
theorem unsealed_of_writeMask (h : s.writeMask m a ≠ 0) : rwsOff a = none := by
  by_contra hn
  exact writeMask_le h (sealed_not_written (Option.isSome_iff_ne_none.mpr hn))

theorem writeMask_of_no_rows (h : rowsAt a = []) : s.writeMask m a = 0 := by
  by_contra hn
  exact writeMask_le hn (maskAt_of_no_rows h)

/-- Outside FCH a master that writes at all writes every field of the word that can be written. -/
theorem writeMask_whole (h : s.writeMask m a ≠ 0) (hc : chanAt a = none) :
    s.writeMask m a = maskAt (fun r => r.acc == .rw || r.acc == .w1c || r.acc == .wo) a := by
  unfold State.writeMask at h ⊢
  split
  · next hn => exact absurd (if_pos hn) h
  · rw [hc]

theorem rights_of_writes (h : s.writes m a) : s.rights m a ≠ .unmapped := by
  obtain ⟨-, hr, -⟩ := h
  rw [hr]
  decide

end reach

/-! ### What a write of one word comes to -/

section writes

variable {s : State} {m : Master} {a : Nat} {v : Word} {mask : Nat}

/-- A write that enables nothing and of a word that no value holds is a write of the word. -/
theorem enabledWrite_single (hw : writeGroup a = none) (he : enableAt a = none) (hp : R.PRT_CFG_ENABLE.hit 64 a = none) :
    s.enabledWrite m a v mask = s.wordWrite m a v mask := by
  have mode : s.modeFix a v = (s, v) := by unfold State.modeFix; rw [hp]
  unfold State.enabledWrite
  rw [mode]
  dsimp only
  rw [he]
  dsimp only
  unfold State.valueWrite
  rw [hw]

/-- A lower word of a value waits for its highest (R9). -/
theorem enabledWrite_held {b n : Nat} (hw : writeGroup a = some (b, n)) (ha : a ≠ b + 4 * (n - 1)) (he : enableAt a = none)
    (hp : R.PRT_CFG_ENABLE.hit 64 a = none) : s.enabledWrite m a v mask = { s with holdw := (s.holdw.filter fun x => x.1 != a) ++ [(a, v)] } := by
  have mode : s.modeFix a v = (s, v) := by unfold State.modeFix; rw [hp]
  unfold State.enabledWrite
  rw [mode]
  dsimp only
  rw [he]
  dsimp only
  unfold State.valueWrite
  rw [hw]
  exact if_pos ha

/-- The write of a word that none of the behaviours before it takes. -/
theorem wordWrite_ordinary (h1 : s.preHost m a v = none) (h2 : s.preKnl m a v = none) (h3 : s.prePort m a v = none) :
    s.wordWrite m a v mask = (((((s.preLand a).putMasked a v mask).postHost s a).postKnl a).postPort s m a v) := by
  unfold State.wordWrite
  rw [h1, h2, h3]

/-- The write of a word with no behaviour of its own: its bits land. -/
theorem enabledWrite_bare (h : s.bare m a v) : s.enabledWrite m a v mask = s.setWord a (s.landed a v mask) := by
  obtain ⟨⟨hw, he, hp⟩, ⟨h1, h2, h3⟩, same, post⟩ := h
  rw [enabledWrite_single hw he hp, wordWrite_ordinary h1 h2 h3, (same s).1, putMasked_eq, (same _).2.1, (post _ _).1, (same _).2.2, (post _ _).2]

/-- The interrupt words have a behaviour of their own. -/
theorem pendWord_of_bare (h : s.bare m a v) (h4 : a % 4 = 0) : pendWord a = false := by
  refine pendWord_apart (Decidable.byContradiction fun hn => ?_)
  obtain ⟨-, ⟨h1, -, -⟩, -⟩ := h
  have : a = 0x500030 ∨ a = 0x500034 := by omega
  rcases this with rfl | rfl <;> cases h1

end writes

end Sys2Proof.Machine

namespace Sys2Proof.Machine

section landing

variable {s : State} {m : Master} {a : Nat} (ha : s.answers m = true) (h4 : a % 4 = 0) (hr : s.rights m a ≠ .unmapped) (he : s.engMem m a = none)
  (hm : s.writeMask m a ≠ 0) (v : Word)
include ha h4 hr he hm

/-- A write of a word with no behaviour of its own changes that word, and what interrupts follow (R11). -/
theorem busWrite32_bare (hb : s.quiet.bare m a v) :
    (s.busWrite32 m a v).word a = s.landed a v (s.writeMask m a) ∧ Within (fun x => x == a || pendWord x) s.quiet (s.busWrite32 m a v) := by
  have follow := within_irqFollow (s.quiet.setWord a (s.landed a v (s.writeMask m a))) s.quiet
  rw [busWrite32_open ha h4 v hr he hm, enabledWrite_bare hb]
  exact ⟨(follow.word a (pendWord_of_bare hb h4)).trans (word_setWord_same _ (unsealed_of_writeMask hm)),
    (within_setWord _ _ (by simp)).trans (follow.mono fun _ hx => (Bool.or_eq_false_iff.mp hx).2)⟩

/-- The same, bit by bit. -/
theorem busWrite32_bare_bit (hb : s.quiet.bare m a v) {b : Nat} (hlt : b < 32) : ((s.busWrite32 m a v).word a).getLsbD b =
    if s.reaches m a (fun x => x == .rw || (x == .wo && woKept a)) b then v.getLsbD b
    else if s.reaches m a (· == .w1c) b then (s.word a).getLsbD b && !v.getLsbD b else (s.word a).getLsbD b := by
  rw [(busWrite32_bare ha h4 hr he hm v hb).1, landed_getLsbD _ _ _ _ hlt]
  rfl

end landing

/-! ### Words of HST -/

/-- HST_EVT has no behaviour of its own. -/
theorem bare_hstEvt (s : State) (m : Master) (v : Word) : s.bare m 0x500010 v :=
  ⟨⟨rfl, rfl, rfl⟩, ⟨rfl, rfl, rfl⟩, fun _ => ⟨rfl, rfl, rfl⟩, fun _ _ => ⟨rfl, rfl⟩⟩

theorem engMem_hst {s : State} {m : Master} {a : Nat} (h : a < 0x500300) : s.engMem m a = none := engMem_below (by omega)

/-- A field of one word that begins at bit 0, by its bits. -/
theorem testBit_get_low {s : State} {f : Fld} {i : Nat} (hl : f.lsb = 0) (hw : f.words = 1) (b : Nat) :
    (s.get f i).testBit b = (decide (b < f.width) && (s.word (f.at i)).getLsbD b) := by
  unfold State.get
  rw [testBit_bits, hw, hl]
  simp [State.wordsN, BitVec.getLsbD]

/-- HST_EVT is cleared by ones (R364). -/
theorem write_hstEvt {s : State} {m : Master} (v : Word) (h : s.writes m 0x500010) : 
    (∀ b, b < 8 → ((s.busWrite32 m 0x500010 v).get R.HST_EVT).testBit b = ((s.get R.HST_EVT).testBit b && !v.getLsbD b))
      ∧ (s.busWrite32 m 0x500010 v).get R.HST_CNT_UNMAPPED = s.get R.HST_CNT_UNMAPPED ∧ (s.busWrite32 m 0x500010 v).mem = s.mem := by
  have hr := rights_of_writes h
  obtain ⟨ha, -, hm⟩ := h
  have he : s.engMem m 0x500010 = none := engMem_hst (by decide)
  obtain ⟨-, within⟩ := busWrite32_bare ha rfl hr he hm v (bare_hstEvt s.quiet m v)
  refine ⟨fun b hb => ?_, (within.get _ _ (by decide)).trans (get_quiet ..), within.mem⟩
  have low := fun t : State => testBit_get_low (s := t) (f := R.HST_EVT) (i := 0) rfl rfl b
  have kinds : ∀ b < 8, (maskAt (fun r => r.acc == .rw || (r.acc == .wo && woKept 0x500010)) 0x500010).testBit b = false
      ∧ (maskAt (fun r => r.acc == .w1c) 0x500010).testBit b = true
      ∧ (maskAt (fun r => r.acc == .rw || r.acc == .w1c || r.acc == .wo) 0x500010).testBit b = true := by decide +kernel
  obtain ⟨noRw, w1c, base⟩ := kinds b hb
  have landed := busWrite32_bare_bit ha rfl hr he hm v (bare_hstEvt s.quiet m v) (b := b) (by omega)
  simp only [State.reaches, writeMask_whole hm rfl, noRw, w1c, base] at landed
  rw [low, low, decide_eq_true (show b < R.HST_EVT.width from hb), Bool.true_and, Bool.true_and]
  exact landed

end Sys2Proof.Machine

namespace Sys2Proof.Machine

/-! ### The moderation words of the vectors (R366, R383) -/

section holdoff

variable (s : State) (m : Master) (v : Word) (k : Fin 64)

theorem holdoff_single : writeGroup (R.HST_VEC_HOLDOFF.at k) = none ∧ enableAt (R.HST_VEC_HOLDOFF.at k) = none
    ∧ R.PRT_CFG_ENABLE.hit 64 (R.HST_VEC_HOLDOFF.at k) = none := by
  revert k; decide +kernel

theorem holdoff_untaken : s.preHost m (R.HST_VEC_HOLDOFF.at k) v = none ∧ s.preKnl m (R.HST_VEC_HOLDOFF.at k) v = none
    ∧ s.prePort m (R.HST_VEC_HOLDOFF.at k) v = none := by
  fin_cases k <;> exact ⟨rfl, rfl, rfl⟩

theorem holdoff_consequences : s.preLand (R.HST_VEC_HOLDOFF.at k) = s ∧ s.clampAt (R.HST_VEC_HOLDOFF.at k) = s ∧ s.postKnl (R.HST_VEC_HOLDOFF.at k) = s
    ∧ (∀ u, s.postHost u (R.HST_VEC_HOLDOFF.at k) = (List.range 4).foldl State.msgScan s) ∧ ∀ u, s.postPort u m (R.HST_VEC_HOLDOFF.at k) v = s := by
  fin_cases k <;> exact ⟨rfl, rfl, rfl, fun _ => rfl, fun _ => rfl⟩

theorem holdoff_masks : (∀ b < 16, (maskAt (fun r => r.acc == .rw || (r.acc == .wo && woKept (R.HST_VEC_HOLDOFF.at k))) (R.HST_VEC_HOLDOFF.at k)).testBit b = true
    ∧ (maskAt (fun r => r.acc == .rw || r.acc == .w1c || r.acc == .wo) (R.HST_VEC_HOLDOFF.at k)).testBit b = true) ∧ chanAt (R.HST_VEC_HOLDOFF.at k) = none := by
  revert k; decide +kernel

theorem holdoff_range : 0x500200 ≤ R.HST_VEC_HOLDOFF.at k ∧ R.HST_VEC_HOLDOFF.at k < 0x500300 ∧ R.HST_VEC_HOLDOFF.at k % 4 = 0 := by
  have at_ : R.HST_VEC_HOLDOFF.at k = 0x500200 + 4 * k.val := rfl
  omega

/-- A write of a moderation word: its bits land, and messages that waited may go. -/
theorem enabledWrite_holdoff (mask : Nat) : OnlyMsgs (s.setWord (R.HST_VEC_HOLDOFF.at k) (s.landed (R.HST_VEC_HOLDOFF.at k) v mask))
    (s.enabledWrite m (R.HST_VEC_HOLDOFF.at k) v mask) := by
  obtain ⟨single, noEnable, noPort⟩ := holdoff_single k
  obtain ⟨h1, h2, h3⟩ := holdoff_untaken s m v k
  rw [enabledWrite_single single noEnable noPort, wordWrite_ordinary h1 h2 h3, (holdoff_consequences s m v k).1, putMasked_eq]
  generalize s.landed (R.HST_VEC_HOLDOFF.at k) v mask = w
  obtain ⟨-, clamp, -, host, -⟩ := holdoff_consequences (s.setWord (R.HST_VEC_HOLDOFF.at k) w) m v k
  rw [clamp, host]
  obtain ⟨-, -, knl, -, port⟩ := holdoff_consequences ((List.range 4).foldl State.msgScan (s.setWord (R.HST_VEC_HOLDOFF.at k) w)) m v k
  rw [knl, port]
  generalize s.setWord (R.HST_VEC_HOLDOFF.at k) w = u
  generalize List.range 4 = l
  induction l generalizing u with
  | nil => exact .refl u
  | cons f l ih => exact (msgScan_onlyMsgs u f).trans (ih _)

variable {s m}

theorem OnlyMsgs.within {p : Nat → Bool} {s t : State} (h : OnlyMsgs s t) : Within p s t :=
  ⟨congrArg (fun u : State => { u with regs := s.regs, hst := s.hst }) h, fun a _ => h.word a⟩

/-- A write of a moderation word changes that word, and what interrupts and messages follow. -/
theorem busWrite32_holdoff (h : s.writes m (R.HST_VEC_HOLDOFF.at k)) :
    (s.busWrite32 m (R.HST_VEC_HOLDOFF.at k) v).word (R.HST_VEC_HOLDOFF.at k) = s.landed (R.HST_VEC_HOLDOFF.at k) v (s.writeMask m (R.HST_VEC_HOLDOFF.at k))
      ∧ Within (fun x => x == R.HST_VEC_HOLDOFF.at k || pendWord x) s.quiet (s.busWrite32 m (R.HST_VEC_HOLDOFF.at k) v) := by
  have hr := rights_of_writes h
  obtain ⟨ha, -, hm⟩ := h
  obtain ⟨lo, hi, h4⟩ := holdoff_range k
  have msgs := enabledWrite_holdoff s.quiet m v k (s.writeMask m (R.HST_VEC_HOLDOFF.at k))
  have follow := within_irqFollow (s.quiet.enabledWrite m (R.HST_VEC_HOLDOFF.at k) v (s.writeMask m (R.HST_VEC_HOLDOFF.at k))) s.quiet
  rw [busWrite32_open ha h4 v hr (engMem_hst hi) hm]
  refine ⟨(follow.word _ (pendWord_apart (by omega))).trans ((msgs.word _).trans (word_setWord_same _ (unsealed_of_writeMask hm))), ?_⟩
  exact ((within_setWord _ _ (by simp)).trans msgs.within).trans (follow.mono fun _ hx => (Bool.or_eq_false_iff.mp hx).2)

/-- A moderation word takes its 16 bits, and HST_EVT stands. -/
theorem write_holdoff (h : s.writes m (R.HST_VEC_HOLDOFF.at k)) :
    (s.busWrite32 m (R.HST_VEC_HOLDOFF.at k) v).get R.HST_VEC_HOLDOFF k = v.toNat % 65536
      ∧ (s.busWrite32 m (R.HST_VEC_HOLDOFF.at k) v).get R.HST_EVT = s.get R.HST_EVT ∧ (s.busWrite32 m (R.HST_VEC_HOLDOFF.at k) v).mem = s.mem := by
  obtain ⟨word, within⟩ := busWrite32_holdoff v k h
  obtain ⟨-, -, hm⟩ := h
  obtain ⟨lo, hi, -⟩ := holdoff_range k
  obtain ⟨masks, hc⟩ := holdoff_masks k
  have apart : (0x500010 == R.HST_VEC_HOLDOFF.at k) = false := beq_eq_false_iff_ne.mpr (by omega)
  refine ⟨Nat.eq_of_testBit_eq fun b => ?_, (within.get _ _ fun j hj => ?_).trans (get_quiet ..), within.mem⟩
  · refine (testBit_get_low rfl rfl b).trans (Eq.trans ?_ (Nat.testBit_mod_two_pow v.toNat 16 b).symm)
    show (decide (b < 16) && _) = _
    by_cases hb : b < 16
    · obtain ⟨rw_, base⟩ := masks b hb
      rw [word, landed_getLsbD _ _ _ _ (by omega), writeMask_whole hm hc, rw_, base]
      rfl
    · simp [hb]
  · have : j = 0 := Nat.lt_one_iff.mp hj
    subst this
    exact Bool.or_eq_false_iff.mpr ⟨apart, rfl⟩

end holdoff

/-! ### Accesses that HST counts (R26, R364) -/

/-- A counter of HST rises, and an event bit with it. -/
def State.hostCounted (s : State) (f : Fld) (b : Nat) : State := (s.bump f).raiseBit R.HST_EVT 0 b

theorem unmappedAt_eq (s : State) : s.unmappedAt = (s.hostCounted R.HST_CNT_UNMAPPED 4).raise fsHostUnmapped := rfl
theorem roWrite_eq (s : State) : s.roWrite = (s.hostCounted R.HST_CNT_ROWRITE 5).raise fsHostRoWrite := rfl

/-- The words of HST that an event which counts an access touches: HST_EVT and the interrupt that follows. -/
def hostEvtWord (a : Nat) : Bool := a == 0x500010 || pendWord a

theorem within_hostEvt (s : State) (b : Nat) : Within hostEvtWord s (s.raiseBit R.HST_EVT 0 b) :=
  within_raiseBit _ _ _ _ rfl rfl (by decide)

section counted

variable (s : State) {f : Fld} (b : Nat) (hp : f.plain 0) (hw : f.words = 1) (hlo : 0x500014 ≤ f.at 0) (hhi : f.at 0 + 4 ≤ 0x500030)
include hw hlo hhi

theorem within_hostCounted : Within (fun x => decide (0x500000 ≤ x) && decide (x < 0x501000)) s (s.hostCounted f b) := by
  refine (within_set _ _ _ _ fun k hk => ?_).trans ((within_hostEvt _ _).mono fun x hx => ?_)
  · rw [hw] at hk
    simp only [Bool.and_eq_true, decide_eq_true_eq]
    omega
  · simp only [Bool.and_eq_false_iff, decide_eq_false_iff_not] at hx
    have hne : x ≠ 0x500010 := by omega
    simp only [hostEvtWord, Bool.or_eq_false_iff, beq_eq_false_iff_ne]
    exact ⟨hne, pendWord_apart (by omega)⟩

include hp in
/-- The counter holds at its all-ones value. -/
theorem get_hostCounted_counter : (s.hostCounted f b).get f = Nat.min (s.get f + 1) (2 ^ f.width - 1) := by
  have bound : Nat.min (s.get f + 1) (2 ^ f.width - 1) < 2 ^ f.width :=
    lt_of_le_of_lt (Nat.min_le_right _ _) (Nat.sub_lt (Nat.two_pow_pos _) Nat.one_pos)
  refine ((within_hostEvt (s.bump f) b).get f 0 fun k hk => ?_).trans ((get_set_same _ hp).trans (Nat.mod_eq_of_lt bound))
  rw [hw] at hk
  have hne : f.at 0 + 4 * k ≠ 0x500010 := by omega
  simp only [hostEvtWord, Bool.or_eq_false_iff, beq_eq_false_iff_ne]
  exact ⟨hne, pendWord_apart (by omega)⟩

omit hw hhi in
theorem get_hostCounted_evt {b : Nat} (hb : b < 8) : (s.hostCounted f b).get R.HST_EVT = s.get R.HST_EVT ||| 2 ^ b := by
  have bump : (s.bump f).get R.HST_EVT = s.get R.HST_EVT := get_set_apart (.inl hlo)
  have evtPlain : R.HST_EVT.plain 0 := by unfold Fld.plain; decide
  have evtApart : ∀ k < R.HST_EVT.words, pendWord (R.HST_EVT.at 0 + 4 * k) = false := by decide
  rw [State.hostCounted, get_raiseBit_same evtPlain hb evtApart, bump]

end counted

/-! ### Memories of engines in BAR0 (R261) -/

/-- A word written in the data memory of an engine that has clocks. -/
theorem engMemWrite_dmem {s : State} {n : Fin 12} (cell : Nat) (v : Word) (h : s.engState n ≠ stOff) :
    s.engMemWrite n true cell v = s.setBytes cell (leBytes 4 v.toNat) := if_neg h

/-- Bytes land in the memory, and the rest of the state stands. -/
theorem putBytes_mem (s : State) (a : Nat) (bs : List Byte) : ∃ m, ∀ t : State, t.mem = s.mem → t.putBytes a bs = { t with mem := m } := by
  induction bs generalizing s a with
  | nil => exact ⟨s.mem, fun t h => by rw [← h]; rfl⟩
  | cons b bs ih =>
    obtain ⟨m, hm⟩ := ih (s.setByte a b) (a + 1)
    refine ⟨m, fun t h => ?_⟩
    unfold State.putBytes
    unfold State.setByte at hm ⊢
    split
    · next ha =>
      rw [if_pos ha] at hm
      rw [hm { t with mem := sput (b == 0#8) a b t.mem } (by rw [h])]
    · next ha =>
      rw [if_neg ha] at hm
      exact hm t h

theorem setBytes_rest (s : State) (a : Nat) (bs : List Byte) : (s.setBytes a bs).regs = s.regs ∧ (s.setBytes a bs).time = s.time := by
  obtain ⟨m, hm⟩ := putBytes_mem s a bs
  rw [State.setBytes, hm s rfl]
  exact ⟨rfl, rfl⟩

theorem setBytes_mem_congr {s t : State} (h : t.mem = s.mem) (a : Nat) (bs : List Byte) : (t.setBytes a bs).mem = (s.setBytes a bs).mem := by
  obtain ⟨m, hm⟩ := putBytes_mem s a bs
  rw [State.setBytes, State.setBytes, hm s rfl, hm t h]
  rfl

end Sys2Proof.Machine

/-! ## Register accesses -/

namespace Sys2Proof.Machine

section clauses

variable {s : State} {m : Master} {a : Nat}

/-- A read of a register word that is neither the claim of a mailbox nor a mailbox seen by PF2 or PF3. -/
theorem exec_read_plain (h : a < bar2Base) (ha : s.answers m = true) (h4 : a % 4 = 0) (hr : s.rights m a ≠ .unmapped)
    (hp : s.engMem m a = none ∧ a ≠ R.KNL_MBX_CLAIM.addr ∧ ¬(0x1000400 ≤ a ∧ a < 0x1001400 ∧ (m = .pf 2 ∨ m = .pf 3))) :
    exec (.multiwordLatchRead m a) s = .next ((s.readWord m a).2.reply (s.readWord m a).1) := by
  obtain ⟨he, hclaim, hmail⟩ := hp
  rw [exec_multiwordLatchRead h, busRead32_reg ha h4 hr he, if_neg hclaim, if_neg (by simpa [and_assoc] using hmail)]

/-- The mailboxes read 0 for PF2 and PF3 (R63). -/
theorem exec_read_mailbox (h : a < bar2Base) (ha : s.answers m = true) (h4 : a % 4 = 0) (hr : s.rights m a ≠ .unmapped) (hlo : 0x1000400 ≤ a)
    (hhi : a < 0x1001400) (hm : m = .pf 2 ∨ m = .pf 3) : exec (.multiwordLatchRead m a) s = .next { s with answer := .data 0 } := by
  have hne : a ≠ R.KNL_MBX_CLAIM.addr := by
    have : R.KNL_MBX_CLAIM.addr = 0x1000200 := rfl
    omega
  rw [exec_multiwordLatchRead h, busRead32_reg ha h4 hr (engMem_below (by omega)), if_neg hne, if_pos (by simpa [hlo, hhi] using hm)]
  rfl

theorem exec_read_claim (ha : s.answers m = true) (hr : s.rights m R.KNL_MBX_CLAIM.addr ≠ .unmapped) :
    exec (.multiwordLatchRead m R.KNL_MBX_CLAIM.addr) s = .next { (s.mbClaim m).2 with answer := .data (BitVec.ofNat 32 (s.mbClaim m).1) } := by
  rw [exec_multiwordLatchRead (by decide), busRead32_reg ha rfl hr (engMem_below (by decide)), if_pos rfl]
  rfl

/-- A sound word in the memory of an engine (R261, R278). -/
theorem exec_read_engMem (h : a < bar2Base) (ha : s.answers m = true) (h4 : a % 4 = 0) (hr : s.rights m a ≠ .unmapped) {n : Fin 12} {dmem : Bool}
    {cell : Nat} (he : s.engMem m a = some (n, dmem, cell)) (hb : s.badAt cell 4 = false) (hs : s.softs cell 4 = 0) :
    exec (.multiwordLatchRead m a) s
      = .next { s with answer := .data (if dmem = true ∧ s.engState n = stOff then 0 else BitVec.ofNat 32 (s.memN cell 4)) } := by
  have sound : s.corrected n 0 = s := if_pos rfl
  rw [exec_multiwordLatchRead h, busRead32_engMem ha h4 hr he hb, hs, sound]
  simp only [Bool.and_eq_true, beq_iff_eq]
  rfl

theorem exec_hostUnmappedAccess {f : Fin 4} (w : Bool) (ha : s.answers (.pf f) = true) (hr : s.rights (.pf f) a = .unmapped) :
    exec (.hostUnmappedAccess f a w) s = .next (if w then s.quiet.unmappedAt else s.unmappedAt.replyErr) := by
  show Host.Outcome.next _ = _
  rw [if_pos (by simp [ha, hr])]
  rfl

/-- An access of a function to an unmapped address is counted and raised (R26, R364). -/
theorem hostUnmappedAccess_counts {f : Fin 4} (w : Bool) (ha : s.answers (.pf f) = true) (hr : s.rights (.pf f) a = .unmapped) :
    ∃ u : State, u.get R.HST_CNT_UNMAPPED = Nat.min (s.get R.HST_CNT_UNMAPPED + 1) (2 ^ 32 - 1)
      ∧ u.get R.HST_EVT = s.get R.HST_EVT ||| 2 ^ 4 ∧ u.mem = s.mem ∧ (w = true → u.answer = .none)
      ∧ exec (.hostUnmappedAccess f a w) s = .next (if w then u.raise fsHostUnmapped else { u.raise fsHostUnmapped with answer := .error }) := by
  have plain : R.HST_CNT_UNMAPPED.plain 0 := by unfold Fld.plain; decide
  have cnt := fun q : State => get_hostCounted_counter q (f := R.HST_CNT_UNMAPPED) 4 plain rfl (by decide) (by decide)
  have evt := fun q : State => get_hostCounted_evt q (f := R.HST_CNT_UNMAPPED) (b := 4) (by decide) (by decide)
  have within := fun q : State => within_hostCounted q (f := R.HST_CNT_UNMAPPED) 4 rfl (by decide) (by decide)
  rw [exec_hostUnmappedAccess w ha hr]
  simp only [unmappedAt_eq, State.replyErr]
  cases w with
  | false => exact ⟨s.hostCounted R.HST_CNT_UNMAPPED 4, cnt s, evt s, (within s).mem, nofun, by simp only [Bool.false_eq_true, if_false]⟩
  | true => exact ⟨s.quiet.hostCounted R.HST_CNT_UNMAPPED 4, (cnt s.quiet).trans (by rw [get_quiet]; rfl), (evt s.quiet).trans (by rw [get_quiet]),
      (within s.quiet).mem, fun _ => (within s.quiet).answer, by simp only [if_true]⟩

/-- A write that a function cannot make is counted and raised (R364). -/
theorem roWrite_counts {f : Fin 4} (h : a < bar2Base) (ha : s.answers (.pf f) = true) (h4 : a % 4 = 0) (hr : s.rights (.pf f) a ≠ .unmapped)
    (he : s.engMem (.pf f) a = none) (hm : s.writeMask (.pf f) a = 0) (hf : f ≠ 0) (hrows : rowsAt a ≠ []) (v : Word) :
    ∃ u : State, u.get R.HST_CNT_ROWRITE = Nat.min (s.get R.HST_CNT_ROWRITE + 1) (2 ^ 32 - 1) ∧ u.get R.HST_EVT = s.get R.HST_EVT ||| 2 ^ 5
      ∧ (∀ x, x < 0x500000 ∨ 0x501000 ≤ x → u.word x = s.word x) ∧ u.mem = s.mem
      ∧ exec (.registerWrite (.pf f) a v) s = .next (u.raise fsHostRoWrite) ∧ exec (.hostRoWrite f a v) s = .next (u.raise fsHostRoWrite) := by
  have plain : R.HST_CNT_ROWRITE.plain 0 := by unfold Fld.plain; decide
  have cnt := get_hostCounted_counter s.quiet (f := R.HST_CNT_ROWRITE) 5 plain rfl (by decide) (by decide)
  have evt := get_hostCounted_evt s.quiet (f := R.HST_CNT_ROWRITE) (b := 5) (by decide) (by decide)
  have within := within_hostCounted s.quiet (f := R.HST_CNT_ROWRITE) 5 rfl (by decide) (by decide)
  have written := (busWrite32_roWrite h4 ha v hr he hm hf hrows).trans (roWrite_eq s.quiet)
  rw [get_quiet] at cnt evt
  refine ⟨_, cnt, evt, fun x hx => within.word x ?_, within.mem, (exec_registerWrite v h).trans (congrArg _ written), congrArg _ written⟩
  simp only [Bool.and_eq_false_iff, decide_eq_false_iff_not]
  omega

end clauses

/-- Settles O21: what an access meets, word by word; a write reaches no sealed word, because no field of those is written by a master. -/
theorem registerAccesses : Obligations.RegisterAccesses := by
  unfold Obligations.RegisterAccesses
  refine ⟨⟨?reads, ?refused, ?bar2Reads, ?unmapped, fun _ _ _ _ => rfl, ?counted⟩, ⟨?bar2Writes, ?bar2Refused, ?writes⟩, ?reserved⟩
  case reads =>
    intro s m a h ha h4 hr plain
    refine ⟨fun hp hg => ?_, fun n hp hg => ?_, fun b n hp hg hb => ?_, exec_read_mailbox h ha h4 hr, ?_, fun n dmem cell => exec_read_engMem h ha h4 hr⟩
    · rw [exec_read_plain h ha h4 hr hp, readWord_single hg]; rfl
    · refine ⟨_, exec_read_plain h ha h4 hr hp, ?_⟩
      rw [readWord_lowest hg]
      exact ⟨rfl, fun k hk => latched_latchAll_same s m a n hk, fun m' x hm' => latched_latchAll_other s a n x hm', rfl⟩
    · rw [exec_read_plain h ha h4 hr hp, readWord_higher hg hb]; rfl
    · rintro rfl
      exact exec_read_claim ha hr
  case refused =>
    intro s m a h hx
    rw [exec_multiwordLatchRead h, busRead32_refused hx]
  case bar2Reads =>
    intro s f o ha h4 ho
    rw [exec_read_bar2, bar2Read_answered ha h4 ho]
  case unmapped =>
    intro s m a h ha h4 hr hm
    refine ⟨?_, fun v => ?_⟩
    · rw [exec_multiwordLatchRead h, busRead32_unmapped ha h4 hr hm]
    · rw [exec_registerWrite v h, busWrite32_unmapped ha h4 v hr hm]
  case counted => exact fun s f a w ha hr => hostUnmappedAccess_counts w ha hr
  case bar2Writes =>
    intro s f o v ha h4 ho
    have write := exec_write_bar2 s (.pf f) o v
    exact ⟨fun h => write.trans (congrArg _ (bar2Write_outside ha h4 ho v h)), fun h => ⟨_, write, bar2Write_table ha h4 ho v h⟩⟩
  case bar2Refused =>
    intro s m o v hx
    rw [exec_write_bar2, exec_read_bar2, bar2Write_refused v hx, bar2Read_refused hx]
    exact ⟨rfl, rfl⟩
  case writes =>
    intro s m a v h open_
    have write := exec_registerWrite (s := s) (m := m) v h
    refine ⟨fun hx => write.trans (congrArg _ (busWrite32_refused v hx)), ?opened, ?bare, ?engMem, ?closed, ?roWrite, ?held, ?holdoff, ?hstEvt⟩
    case opened => exact fun ⟨ha, h4, hr, he⟩ hm => write.trans (congrArg _ (busWrite32_open ha h4 v hr he hm))
    case bare =>
      rintro ⟨ha, h4, hr, he⟩ hm hb
      obtain ⟨-, within⟩ := busWrite32_bare ha h4 hr he hm v hb
      refine ⟨_, write, fun b hlt => busWrite32_bare_bit ha h4 hr he hm v hb hlt, fun x hx hp => within.word x ?_, within.rest_quiet⟩
      rw [beq_eq_false_iff_ne.mpr hx, pendWord_apart hp]
      rfl
    case engMem =>
      intro n cell ha h4 hr he hs
      obtain ⟨regs, time⟩ := setBytes_rest s.quiet cell (leBytes 4 v.toNat)
      have put := (busWrite32_engMem ha h4 v hr he).trans (engMemWrite_dmem (s := s.quiet) cell v (by rwa [engState_quiet]))
      refine ⟨_, write.trans (congrArg _ put), ?_⟩
      exact ⟨setBytes_mem_congr (s := s) (t := s.quiet) rfl cell _, regs, time⟩
    case closed =>
      exact fun ⟨ha, h4, hr, he⟩ hm hf => write.trans (congrArg _ (busWrite32_closed ha h4 v hr he hm fun f hmf => .inl (hf f hmf)))
    case roWrite =>
      rintro f hf rfl ⟨ha, h4, hr, he⟩ hm hrows
      exact roWrite_counts h ha h4 hr he hm hf hrows v
    case held =>
      rintro b n ⟨ha, h4, hr, he⟩ hm hg hne hen hport
      have follow := within_irqFollow { s.quiet with holdw := (s.holdw.filter fun x => x.1 != a) ++ [(a, v)] } s.quiet
      have put := (busWrite32_open ha h4 v hr he hm).trans (congrArg (State.irqFollow · s.quiet) (enabledWrite_held hg hne hen hport))
      refine ⟨_, write.trans (congrArg _ put), ?_, fun x hx => follow.word x (pendWord_apart hx)⟩
      exact follow.holdw
    case holdoff =>
      rintro k rfl hw
      exact ⟨_, write, write_holdoff v k hw⟩
    case hstEvt =>
      rintro rfl hw
      exact ⟨_, write, write_hstEvt v hw⟩
  case reserved =>
    intro s m a h h4 ha hr
    refine ⟨fun b => shown_unassigned, fun hrows he hmail hg => ⟨?_, fun v => ?_⟩⟩
    · have hclaim : a ≠ R.KNL_MBX_CLAIM.addr := by
        rintro rfl
        revert hrows
        decide
      rw [exec_read_plain h ha h4 hr ⟨he, hclaim, by omega⟩, readWord_single hg, shown_of_no_rows hrows]
      rfl
    · rw [exec_registerWrite v h, busWrite32_closed ha h4 v hr he (writeMask_of_no_rows hrows) fun _ _ => .inr hrows]

end Sys2Proof.Machine

/-! ## Register words after a reset (R12, R13) -/

namespace Sys2Proof.Machine

/-- A word that a reset has put the fields of a mask at their entries in. -/
def resetWord (p : RegRow → Bool) (a : Nat) (w : Word) : Word :=
  (w &&& ~~~BitVec.ofNat 32 (maskAt p a)) ||| (coldWord a &&& BitVec.ofNat 32 (maskAt p a))

section words

variable {p : Nat → RegRow → Bool} {a : Nat} {w : Word}

theorem resetRegs_cons (k : Nat) (v : Word) (l : List (Nat × Word)) :
    resetRegs p ((k, v) :: l) = if resetWord (p k) k v = coldWord k then resetRegs p l else (k, resetWord (p k) k v) :: resetRegs p l := rfl

theorem resetWord_zero {q : RegRow → Bool} (h : maskAt q a = 0) : resetWord q a w = w := by
  refine BitVec.eq_of_getLsbD_eq fun i hi => ?_
  simp only [resetWord, h, BitVec.getLsbD_and, BitVec.getLsbD_or, BitVec.getLsbD_not, BitVec.getLsbD_ofNat, Nat.zero_testBit, hi, decide_true,
    Bool.and_false, Bool.not_false, Bool.and_true, Bool.or_false]

theorem resetWord_cold (q : RegRow → Bool) : resetWord q a (coldWord a) = coldWord a := by
  refine BitVec.eq_of_getLsbD_eq fun i hi => ?_
  simp only [resetWord, BitVec.getLsbD_and, BitVec.getLsbD_or, BitVec.getLsbD_not, hi, decide_true, Bool.true_and]
  cases (BitVec.ofNat 32 (maskAt q a)).getLsbD i <;> simp

/-- The bits of the mask are at their entries. -/
theorem resetWord_masked (q : RegRow → Bool) : resetWord q a w &&& BitVec.ofNat 32 (maskAt q a) = coldWord a &&& BitVec.ofNat 32 (maskAt q a) := by
  refine BitVec.eq_of_getLsbD_eq fun i hi => ?_
  simp only [resetWord, BitVec.getLsbD_and, BitVec.getLsbD_or, BitVec.getLsbD_not, hi, decide_true, Bool.true_and]
  cases (BitVec.ofNat 32 (maskAt q a)).getLsbD i <;> simp

theorem sget_none_of_later {l : List (Nat × Word)} (h : ∀ x ∈ l, a < x.1) : sget l a = none := by
  induction l with
  | nil => rfl
  | cons x l ih =>
    obtain ⟨k, v⟩ := x
    have hk : k ≠ a := Nat.ne_of_gt (h (k, v) (List.mem_cons_self ..))
    unfold sget
    rw [if_neg hk]
    exact ih fun y hy => h y (List.mem_cons_of_mem _ hy)

/-- In canonical form each word takes the entries of the fields that pass the test, and keeps the others. -/
theorem sget_resetRegs {l : List (Nat × Word)} (h : Regs.wf l = true) :
    (sget (resetRegs p l) a).getD (coldWord a) = resetWord (p a) a ((sget l a).getD (coldWord a)) := by
  unfold Regs.wf at h
  rw [swf_iff] at h
  replace h := h.1
  induction l with
  | nil => exact (resetWord_cold _).symm
  | cons x l ih =>
    obtain ⟨k, v⟩ := x
    obtain ⟨later, hl⟩ := List.pairwise_cons.mp h
    have gone : k = a → sget (resetRegs p l) a = none := by
      rintro rfl
      refine sget_none_of_later fun x hx => ?_
      obtain ⟨-, y, hy, e⟩ := resetRegs_mem hx
      exact e ▸ later y hy
    rw [resetRegs_cons]
    by_cases hk : k = a
    · rw [show sget ((k, v) :: l) a = some v from if_pos hk]
      split
      · next hc =>
        subst hk
        rw [gone rfl]
        exact hc.symm
      · subst hk
        rw [show sget ((k, resetWord (p k) k v) :: resetRegs p l) k = some (resetWord (p k) k v) from if_pos rfl]
        rfl
    · rw [show sget ((k, v) :: l) a = sget l a from if_neg hk, ← ih hl]
      split
      · rfl
      · rw [show sget ((k, resetWord (p k) k v) :: resetRegs p l) a = sget (resetRegs p l) a from if_neg hk]

/-- In any list of words, the bits of the mask end at their entries. -/
theorem sget_resetRegs_masked (l : List (Nat × Word)) :
    (sget (resetRegs p l) a).getD (coldWord a) &&& BitVec.ofNat 32 (maskAt (p a) a) = coldWord a &&& BitVec.ofNat 32 (maskAt (p a) a) := by
  induction l with
  | nil => rfl
  | cons x l ih =>
    obtain ⟨k, v⟩ := x
    rw [resetRegs_cons]
    split
    · exact ih
    · by_cases hk : k = a
      · subst hk
        rw [show sget ((k, resetWord (p k) k v) :: resetRegs p l) k = some (resetWord (p k) k v) from if_pos rfl]
        exact resetWord_masked _
      · rw [show sget ((k, resetWord (p k) k v) :: resetRegs p l) a = sget (resetRegs p l) a from if_neg hk]
        exact ih

/-- In any list of words, a word that no field of the reset lies in keeps a value other than its entry. -/
theorem sget_resetRegs_spared (l : List (Nat × Word)) (h : maskAt (p a) a = 0) : (sget (resetRegs p l) a).getD (coldWord a) = (sget l a).getD (coldWord a)
    ∨ (sget l a).getD (coldWord a) = coldWord a := by
  induction l with
  | nil => exact .inl rfl
  | cons x l ih =>
    obtain ⟨k, v⟩ := x
    rw [resetRegs_cons]
    by_cases hk : k = a
    · subst hk
      rw [resetWord_zero h, show sget ((k, v) :: l) k = some v from if_pos rfl]
      split
      · next hc => exact .inr hc
      · rw [show sget ((k, v) :: resetRegs p l) k = some v from if_pos rfl]
        exact .inl rfl
    · rw [show sget ((k, v) :: l) a = sget l a from if_neg hk]
      split
      · exact ih
      · rw [show sget ((k, resetWord (p k) k v) :: resetRegs p l) a = sget (resetRegs p l) a from if_neg hk]
        exact ih

end words

/-- A word that the sealed store does not hold is what the list of words says. -/
theorem word_of_regs {s : State} {a : Nat} (h : rwsOff a = none) : s.word a = (sget s.regs a).getD (coldWord a) := by
  unfold State.word
  rw [h]

section resets

variable {s t : State} {p : Nat → RegRow → Bool} {a : Nat} (ht : t.regs = resetRegs p s.regs) (ha : rwsOff a = none)
include ht ha

theorem word_resetRegs (h : Regs.wf s.regs = true) : t.word a = resetWord (p a) a (s.word a) := by
  rw [word_of_regs ha, word_of_regs ha, ht, sget_resetRegs h]

theorem word_resetRegs_masked : t.word a &&& BitVec.ofNat 32 (maskAt (p a) a) = coldWord a &&& BitVec.ofNat 32 (maskAt (p a) a) := by
  rw [word_of_regs ha, ht, sget_resetRegs_masked]

theorem word_resetRegs_spared (h : maskAt (p a) a = 0) : t.word a = s.word a ∨ s.word a = coldWord a := by
  rw [word_of_regs ha, word_of_regs ha, ht]
  exact sget_resetRegs_spared _ h

end resets

theorem maskAt_false {p : RegRow → Bool} (a : Nat) (h : ∀ r, p r = false) : maskAt p a = 0 := by
  refine Nat.eq_of_testBit_eq fun b => ?_
  rw [testBit_maskAt, Nat.zero_testBit, List.any_eq_false]
  simp [h]

/-- Fields that a reset has put at their entries stay there under a part of the same reset. -/
theorem resetWord_part {p q : RegRow → Bool} {a : Nat} (w : Word) (h : ∀ r, q r = true → p r = true) : resetWord q a (resetWord p a w) = resetWord p a w := by
  refine BitVec.eq_of_getLsbD_eq fun i hi => ?_
  simp only [resetWord, BitVec.getLsbD_and, BitVec.getLsbD_or, BitVec.getLsbD_not, BitVec.getLsbD_ofNat, hi, decide_true, Bool.true_and]
  cases hq : (maskAt q a).testBit i with
  | true => rw [testBit_maskAt_mono h hq]; simp
  | false => simp

end Sys2Proof.Machine

/-! ## The key store and the log over a reset (R73, R76, R85, R435) -/

namespace Sys2Proof.Machine

/-- Every slot is checked in turn (R435). -/
def State.slotsCheck (s : State) : State :=
  (List.finRange 32).foldl (fun s k => let (bad, s) := s.slotCheck1 k
                                       if bad then s.raiseCore fsKeySlotBad k [] else s) s

/-- Both copies of every slot pass their tag checks. -/
def State.slotsSound (s : State) : Prop := ∀ k : Fin 32, s.copyOk k s.sec.slotA[k] = true ∧ s.copyOk k s.sec.slotB[k] = true

theorem slotsCheck_sound {s : State} (h : s.slotsSound) : s.slotsCheck = s := by
  unfold State.slotsCheck
  generalize List.finRange 32 = l
  induction l with
  | nil => rfl
  | cons k l ih =>
    have sound : s.slotCheck1 k = (false, s) := by
      unfold State.slotCheck1
      dsimp only
      rw [(h k).1, (h k).2]
    rw [List.foldl_cons, sound]
    exact ih

/-- The tags depend on the root secret and the device's number alone. -/
theorem copyOk_congr {s t : State} (hr : t.sec.rootSecret = s.sec.rootSecret) (hid : t.get R.SEC_ID = s.get R.SEC_ID) (k : Nat) (c : Option SlotCopy) :
    t.copyOk k c = s.copyOk k c := by
  cases c with
  | none => rfl
  | some c => simp only [State.copyOk, State.slotTag, State.rootKey, State.devId, hr, hid]

/-- No reset sets the device's number. -/
theorem secId_kept : ∀ k < R.SEC_ID.words, rwsOff (R.SEC_ID.at 0 + 4 * k) = none
    ∧ maskAt (fun r => chipSets r || r.kind == RKind.cold) (R.SEC_ID.at 0 + 4 * k) = 0 ∧ maskAt chipSets (R.SEC_ID.at 0 + 4 * k) = 0 := by
  decide +kernel

theorem slotsSound_of_reset {s t : State} {p : Nat → RegRow → Bool} (hs : s.slotsSound)
    (hid : ∀ k < R.SEC_ID.words, t.word (R.SEC_ID.at 0 + 4 * k) = resetWord (p (R.SEC_ID.at 0 + 4 * k)) (R.SEC_ID.at 0 + 4 * k) (s.word (R.SEC_ID.at 0 + 4 * k)))
    (hp : ∀ k < R.SEC_ID.words, maskAt (p (R.SEC_ID.at 0 + 4 * k)) (R.SEC_ID.at 0 + 4 * k) = 0) (hr : t.sec.rootSecret = s.sec.rootSecret)
    (hA : t.sec.slotA = s.sec.slotA) (hB : t.sec.slotB = s.sec.slotB) : t.slotsSound := by
  have id : t.get R.SEC_ID = s.get R.SEC_ID := by
    unfold State.get
    rw [wordsN_congr fun k hk => (hid k hk).trans (resetWord_zero (hp k hk))]
  intro k
  rw [hA, hB, copyOk_congr hr id, copyOk_congr hr id]
  exact hs k

/-! ### What the Kennel reads back (R73, R76, R85) -/

/-- The words that the Kennel takes from the log, from KSPI and from the fuses after a Cold reset. -/
def ownWords : List Nat := [0x1000000, 0x1000004, 0x1000008, 0x1000210, 0x1000214, 0x1001400, 0x1001404, 0x1001410]

/-- `logRestore` before it writes registers. -/
def State.chained (s : State) : State := { s with knl := { s.knl with prevDig := (newestGood s.kspi.events.reverse).elim 0 fun r => sha256D r.bytes } }

theorem within_logRestore (s : State) : Within (ownWords.contains ·) s.chained s.logRestore := by
  unfold State.logRestore
  repeat' refine Within.trans ?_ (within_set _ _ _ _ (by decide))
  exact .refl _ _

theorem get_logRestore (s : State) :
    s.logRestore.get R.KNL_SEAL_CNT = (newestGood s.kspi.events.reverse).elim 0 (·.sealCnt) % 2 ^ 32
      ∧ s.logRestore.get R.KNL_MBX_CMD_CNT = lastCounter s.kspi.events % 2 ^ 64
      ∧ s.logRestore.get R.KNL_REC_WR = (newestGood s.kspi.events.reverse).elim 0 (·.seq) % 2 ^ 32 ∧ s.logRestore.get R.KNL_REC_RD = s.logRestore.get R.KNL_REC_WR
      ∧ s.logRestore.get R.KNL_AUDIT_ACK = s.kspi.ack.toNat ∧ s.logRestore.flag R.KNL_SEAL_STAT_FW_BANK = s.kspi.fwPtr
      ∧ s.logRestore.flag R.KNL_SEAL_STAT_PARAM_BANK = s.kspi.paramPtr ∧ s.logRestore.get R.KNL_SEAL_STAT_FUSES = s.sec.sealFuses % 1024
      ∧ s.logRestore.get R.KNL_PARAM_GEN = s.logRestore.bank.gen % 2 ^ 32 := by
  unfold State.logRestore
  simp (disch := first | decide | (unfold Fld.plain; decide)) only [State.setFlag, State.flag, get_set_same, get_set_apart, get_set_beside, State.bank,
    State.set_kspi, State.set_sec]
  refine ⟨rfl, rfl, rfl, rfl, Nat.mod_eq_of_lt s.kspi.ack.isLt, ?_, ?_, rfl, ?_⟩
  · cases s.kspi.fwPtr <;> rfl
  · cases s.kspi.paramPtr <;> rfl
  · rfl

/-! ### Cold reset and power off (R12, R413) -/

theorem within_coldReset (s : State) : Within (ownWords.contains ·) s.coldClear.chained s.coldReset := within_logRestore s.coldClear

section cold

variable {s : State}

/-- Every word but those the Kennel reads back takes the entries of its Cold, Chip, Block and Engine fields. -/
theorem coldReset_word (hwf : Regs.wf s.regs = true) {a : Nat} (ha : rwsOff a = none) (hown : a ∉ ownWords) :
    s.coldReset.word a = resetWord (fun r => chipSets r || r.kind == RKind.cold) a (s.word a) := by
  rw [(within_coldReset s).word a (by simpa using hown)]
  exact word_resetRegs (s := s) (t := s.coldClear.chained) (p := fun _ r => chipSets r || r.kind == RKind.cold) rfl ha hwf

theorem coldReset_slotsSound (hwf : Regs.wf s.regs = true) (hs : s.slotsSound) : s.coldReset.slotsSound := by
  have sec : s.coldReset.sec = s.coldClear.sec := (within_coldReset s).sec
  refine slotsSound_of_reset (p := fun _ r => chipSets r || r.kind == RKind.cold) hs (fun k hk => coldReset_word hwf (secId_kept k hk).1 ?_)
    (fun k hk => (secId_kept k hk).2.1) (by rw [sec]; rfl) (by rw [sec]; rfl) (by rw [sec]; rfl)
  revert k hk
  decide

end cold

end Sys2Proof.Machine

/-! ## Chip reset (R12, R31, R76, R458, R460) -/

namespace Sys2Proof.Machine

/-! ### FLT_STAT and BARK_N follow their causes -/

/-- `t` is `s` but for register words of a set, what HST holds beside its registers, and FLT's record of BARK_N and of BLOCK requests. -/
structure Synced (p : Nat → Bool) (s t : State) : Prop where
  rest : { t with regs := s.regs, hst := s.hst, flt := s.flt } = s
  word : ∀ a, p a = false → t.word a = s.word a

theorem Within.synced {p : Nat → Bool} {s t : State} (h : Within p s t) : Synced p s t :=
  ⟨by rw [← h.rest], h.word⟩

theorem Synced.trans {p : Nat → Bool} {r s t : State} (h : Synced p r s) (k : Synced p s t) : Synced p r t := by
  refine ⟨?_, fun a ha => (k.word a ha).trans (h.word a ha)⟩
  have h1 := h.rest
  have h2 := k.rest
  rw [← h1, ← h2]

theorem Synced.mono {p q : Nat → Bool} {s t : State} (h : Synced p s t) (hq : ∀ a, q a = false → p a = false) : Synced q s t :=
  ⟨h.rest, fun a ha => h.word a (hq a ha)⟩

section synced

variable {p : Nat → Bool} {s t : State} (h : Synced p s t)
include h

theorem Synced.mem : t.mem = s.mem := by rw [← h.rest]
theorem Synced.time : t.time = s.time := by rw [← h.rest]
theorem Synced.eng : t.eng = s.eng := by rw [← h.rest]
theorem Synced.jobs : t.jobs = s.jobs := by rw [← h.rest]
theorem Synced.kspi : t.kspi = s.kspi := by rw [← h.rest]
theorem Synced.sec : t.sec = s.sec := by rw [← h.rest]
theorem Synced.aon : t.aon = s.aon := by rw [← h.rest]
theorem Synced.knl : t.knl = s.knl := by rw [← h.rest]

end synced

theorem Synced.get {p : Nat → Bool} {s t : State} (h : Synced p s t) (f : Fld) (i : Nat) (hf : ∀ k < f.words, p (f.at i + 4 * k) = false) :
    t.get f i = s.get f i := by
  unfold State.get
  rw [wordsN_congr fun k hk => h.word _ (hf k hk)]

theorem Synced.flag {p : Nat → Bool} {s t : State} (h : Synced p s t) (f : Fld) (i : Nat) (hf : ∀ k < f.words, p (f.at i + 4 * k) = false) :
    t.flag f i = s.flag f i := by
  unfold State.flag
  rw [h.get f i hf]

/-- A summary bit of FLT_STAT. -/
theorem within_fltStat (s : State) (f : Fld) (b : Bool) (hf : ∀ k < f.words, f.at 0 + 4 * k = 0x200000) : Within (· == 0x200000) s (s.setFlag f 0 b) :=
  within_set _ _ _ _ fun k hk => beq_iff_eq.mpr (hf k hk)

theorem synced_syncFlt (s : State) : Synced (· == 0x200000) s s.syncFlt := by
  have bark : ∀ (u : State) (other : Bool), Synced (· == 0x200000) u (u.syncBark other) := by
    intro u other
    unfold State.syncBark
    dsimp only
    refine Synced.trans ?_ (within_fltStat _ _ _ (by decide)).synced
    split_ifs <;> exact ⟨rfl, fun _ _ => rfl⟩
  exact (((within_fltStat _ _ _ (by decide)).trans (within_fltStat _ _ _ (by decide))).trans (within_fltStat _ _ _ (by decide))).synced.trans (bark _ _)

/-! ### What a Chip reset leaves -/

/-- `u` is `s` after a Chip reset has cleared the regions, before the reset writes registers. -/
structure ChipCleared (s u : State) : Prop where
  regs : u.regs = resetRegs (fun _ r => chipSets r) s.regs
  mem : u.mem = []
  time : u.time = TimeSt.reset
  eng : u.eng = Vector.replicate 12 Engine.reset
  jobs : u.jobs = []
  kspi : u.kspi = s.kspi
  aon : u.aon = { s.aon with sagAt := 0, periodAt := 0 }
  prevDig : u.knl.prevDig = s.knl.prevDig
  power : u.pwr.power = s.pwr.power
  slotA : u.sec.slotA = s.sec.slotA
  slotB : u.sec.slotB = s.sec.slotB
  rootSecret : u.sec.rootSecret = s.sec.rootSecret
  sealFuses : u.sec.sealFuses = s.sec.sealFuses

/-- The registers that a Chip reset of `s` writes, once the regions are clear (R76, R460). -/
def State.chipMarks (u s : State) (cause : Nat) : State :=
  let t := (u.set R.KNL_REC_RD 0 (u.get R.KNL_REC_WR)).set R.PWR_RESET_CAUSE 0 cause
  let t := ((t.set R.FLT_STICKY_FS 0 (s.get R.FLT_FIRST_FS)).set R.FLT_STICKY_CLASS 0 (s.get R.FLT_FIRST_CLASS)).setFlag R.FLT_STICKY_VALID 0 (s.flag R.FLT_FIRST_VALID)
  if s.flt.bark then t.setFlag R.FLT_STICKY_PIN_HELD 0 true else t

theorem chipReset_eq (s : State) (cause : Nat) : ∃ u, ChipCleared s u ∧ s.chipReset cause = (u.chipMarks s cause).syncFlt := by
  unfold State.chipReset State.chipMarks
  refine ⟨_, ?_, rfl⟩
  exact ⟨rfl, rfl, rfl, rfl, rfl, rfl, rfl, rfl, rfl, rfl, rfl, rfl, rfl⟩

/-- The words that a Chip reset writes beside the reset entries. -/
def chipWord (a : Nat) : Bool := a == 0x40018 || a == 0x1001404 || a == 0x200030 || a == 0x200000

theorem within_chipMarks (u s : State) (cause : Nat) : Within chipWord u (u.chipMarks s cause) := by
  unfold State.chipMarks
  have marks : Within chipWord u ((((((u.set R.KNL_REC_RD 0 (u.get R.KNL_REC_WR)).set R.PWR_RESET_CAUSE 0 cause).set R.FLT_STICKY_FS 0 (s.get R.FLT_FIRST_FS)).set
      R.FLT_STICKY_CLASS 0 (s.get R.FLT_FIRST_CLASS)).setFlag R.FLT_STICKY_VALID 0 (s.flag R.FLT_FIRST_VALID))) := by
    repeat' refine Within.trans ?_ (within_set _ _ _ _ (by decide))
    exact .refl _ _
  exact within_ite (marks.trans (within_set _ _ _ _ (by decide))) marks

theorem synced_chipReset {s : State} {cause : Nat} {u : State} (h : s.chipReset cause = (u.chipMarks s cause).syncFlt) :
    Synced chipWord u (s.chipReset cause) := by
  rw [h]
  exact (within_chipMarks u s cause).synced.trans ((synced_syncFlt _).mono fun a ha => (Bool.or_eq_false_iff.mp ha).2)

theorem get_chipMarks (u s : State) (cause : Nat) :
    (u.chipMarks s cause).get R.PWR_RESET_CAUSE = cause % 2 ^ R.PWR_RESET_CAUSE.width
      ∧ (u.chipMarks s cause).get R.KNL_REC_RD = u.get R.KNL_REC_WR % 2 ^ 32
      ∧ (u.chipMarks s cause).get R.FLT_STICKY_FS = s.get R.FLT_FIRST_FS % 2 ^ R.FLT_STICKY_FS.width
      ∧ (u.chipMarks s cause).flag R.FLT_STICKY_VALID = s.flag R.FLT_FIRST_VALID := by
  have bit : ∀ b : Bool, (b2n b % 2 ^ R.FLT_STICKY_VALID.width != 0) = b := by decide
  unfold State.chipMarks
  split <;>
  · simp (disch := first | decide | (unfold Fld.plain; decide)) only [State.setFlag, State.flag, get_set_same, get_set_apart, get_set_beside]
    exact ⟨trivial, rfl, trivial, bit _⟩

theorem get_lt (s : State) (f : Fld) (i : Nat) : s.get f i < 2 ^ f.width := Nat.mod_lt _ (Nat.two_pow_pos _)

/-- A field of one word whose bits are all masked is at its entry. -/
theorem get_of_masked {t : State} {f : Fld} {i : Nat} {q : RegRow → Bool} (hw : f.words = 1)
    (hm : t.word (f.at i) &&& BitVec.ofNat 32 (maskAt q (f.at i)) = coldWord (f.at i) &&& BitVec.ofNat 32 (maskAt q (f.at i)))
    (hq : ∀ b < f.width, (maskAt q (f.at i)).testBit (f.lsb + b) = true) : t.get f i = bits (coldWord (f.at i)).toNat f.lsb f.width := by
  have fit : f.lsb + f.width ≤ 32 := by
    have := words_fit f
    omega
  unfold State.get
  rw [hw]
  refine Nat.eq_of_testBit_eq fun b => ?_
  rw [testBit_bits, testBit_bits]
  by_cases hb : b < f.width
  · have bit := congrArg (BitVec.getLsbD · (f.lsb + b)) hm
    simp only [BitVec.getLsbD_and, BitVec.getLsbD_ofNat, hq b hb, show f.lsb + b < 32 by omega, decide_true, Bool.and_true] at bit
    simpa [State.wordsN, BitVec.getLsbD, hb] using bit
  · simp [hb]

section chip

variable {s : State} (cause : Nat)

/-- Every word but those that a Chip reset writes takes the entries of its Chip, Block and Engine fields. -/
theorem chipReset_word (hwf : Regs.wf s.regs = true) {a : Nat} (ha : rwsOff a = none) (hc : chipWord a = false) :
    (s.chipReset cause).word a = resetWord chipSets a (s.word a) := by
  obtain ⟨u, cleared, e⟩ := chipReset_eq s cause
  rw [(synced_chipReset e).word a hc]
  exact word_resetRegs (p := fun _ => chipSets) cleared.regs ha hwf

/-- In any list of words, the fields of a Chip reset end at their entries. -/
theorem chipReset_masked {a : Nat} (ha : rwsOff a = none) (hc : chipWord a = false) :
    (s.chipReset cause).word a &&& BitVec.ofNat 32 (maskAt chipSets a) = coldWord a &&& BitVec.ofNat 32 (maskAt chipSets a) := by
  obtain ⟨u, cleared, e⟩ := chipReset_eq s cause
  rw [(synced_chipReset e).word a hc]
  exact word_resetRegs_masked (p := fun _ => chipSets) cleared.regs ha

/-- The part of the state beside the registers that a Chip reset clears, and what it keeps. -/
theorem chipReset_cleared (s : State) : ∃ u, ChipCleared s u ∧ Synced chipWord u (s.chipReset cause) := by
  obtain ⟨u, cleared, e⟩ := chipReset_eq s cause
  exact ⟨u, cleared, synced_chipReset e⟩

theorem chipReset_slotsSound (hwf : Regs.wf s.regs = true) (hs : s.slotsSound) : (s.chipReset cause).slotsSound := by
  obtain ⟨u, cleared, synced⟩ := chipReset_cleared cause s
  have sec : (s.chipReset cause).sec = u.sec := synced.sec
  refine slotsSound_of_reset (p := fun _ => chipSets) hs (fun k hk => chipReset_word cause hwf (secId_kept k hk).1 ?_)
    (fun k hk => (secId_kept k hk).2.2) (by rw [sec, cleared.rootSecret]) (by rw [sec, cleared.slotA]) (by rw [sec, cleared.slotB])
  revert k hk
  decide

/-- What AON and the retention store keep over a Chip reset (R76, R458, R460). -/
theorem chipReset_kept (hwf : Regs.wf s.regs = true) :
    (s.chipReset cause).get R.KNL_REC_RD = (s.chipReset cause).get R.KNL_REC_WR ∧ (s.chipReset cause).get R.KNL_REC_WR = s.get R.KNL_REC_WR
      ∧ (s.chipReset cause).get R.FLT_STICKY_FS = s.get R.FLT_FIRST_FS ∧ (s.chipReset cause).flag R.FLT_STICKY_VALID = s.flag R.FLT_FIRST_VALID
      ∧ (s.chipReset cause).flag R.FLT_FIRST_VALID = false := by
  obtain ⟨u, cleared, e⟩ := chipReset_eq s cause
  obtain ⟨-, rd, sticky, valid⟩ := get_chipMarks u s cause
  have stat := e ▸ synced_syncFlt (u.chipMarks s cause)
  have wr : u.get R.KNL_REC_WR = s.get R.KNL_REC_WR := by
    have kept : ∀ k < R.KNL_REC_WR.words, rwsOff (R.KNL_REC_WR.at 0 + 4 * k) = none ∧ maskAt chipSets (R.KNL_REC_WR.at 0 + 4 * k) = 0 := by decide +kernel
    unfold State.get
    rw [wordsN_congr fun k hk => (word_resetRegs cleared.regs (kept k hk).1 hwf).trans (resetWord_zero (kept k hk).2)]
  have wr' : (s.chipReset cause).get R.KNL_REC_WR = s.get R.KNL_REC_WR := ((synced_chipReset e).get _ _ (by decide)).trans wr
  refine ⟨?_, wr', ?_, (stat.flag _ _ (by decide)).trans valid, ?_⟩
  · rw [wr', stat.get _ _ (by decide), rd, wr]
    exact Nat.mod_eq_of_lt (get_lt s R.KNL_REC_WR 0)
  · rw [stat.get _ _ (by decide), sticky]
    exact Nat.mod_eq_of_lt (get_lt s R.FLT_FIRST_FS 0)
  · have masked := chipReset_masked (s := s) cause (a := R.FLT_FIRST_VALID.at 0) (by decide) (by decide)
    have cold : bits (coldWord (R.FLT_FIRST_VALID.at 0)).toNat R.FLT_FIRST_VALID.lsb R.FLT_FIRST_VALID.width = 0 := by decide +kernel
    unfold State.flag
    rw [get_of_masked rfl masked (by decide +kernel), cold]
    rfl

theorem chipReset_cause (s : State) (h : cause < 8) : (s.chipReset cause).get R.PWR_RESET_CAUSE = cause := by
  obtain ⟨u, -, e⟩ := chipReset_eq s cause
  obtain ⟨c, -⟩ := get_chipMarks u s cause
  rw [e, (synced_syncFlt _).get _ _ (by decide), c]
  exact Nat.mod_eq_of_lt h

end chip

end Sys2Proof.Machine

/-! ## Block resets (R12, R392, R448) -/

namespace Sys2Proof.Machine

/-! ### Debug closes (R448) -/

/-- The words of SEC that closing debug writes. -/
def dbgWord (a : Nat) : Bool := a == R.SEC_STATE_DBG.addr || a == R.SEC_EVT.addr || a == R.SEC_DBG_STAT_REMAIN.addr

theorem within_secEvt (s : State) (b : Nat) : Within (· == R.SEC_EVT.addr) s (s.secEvt b) := within_set _ _ _ _ (by decide)

theorem within_syncWorlds (s : State) : Within (· == R.SEC_STATE_DBG.addr) s s.syncWorlds := within_set _ _ _ _ (by decide)

theorem dbg_syncWorlds (s : State) : s.syncWorlds.dbg = s.dbg := get_set_beside rfl rfl (by decide) (by unfold Fld.plain; decide)

section dbgClose

variable {s : State} (h : s.dbg ≠ 0)
include h

theorem dbgClose_open : s.dbgClose
    = (((State.set { s with sec := { s.sec with dbgTimer := false } } R.SEC_STATE_DBG 0 0).set R.SEC_DBG_STAT_REMAIN 0 0).secEvt 5).syncWorlds := if_neg h

theorem within_dbgClose : Within dbgWord { s with sec := { s.sec with dbgTimer := false } } s.dbgClose := by
  rw [dbgClose_open h]
  have outside : ∀ a, dbgWord a = false → (a == R.SEC_EVT.addr) = false ∧ (a == R.SEC_STATE_DBG.addr) = false := fun a ha => by
    simp only [dbgWord, Bool.or_eq_false_iff] at ha
    obtain ⟨⟨dbg, evt⟩, -⟩ := ha
    exact ⟨evt, dbg⟩
  exact (((within_set _ _ _ _ (by decide)).trans (within_set _ _ _ _ (by decide))).trans ((within_secEvt _ _).mono fun a ha => (outside a ha).1)).trans
    ((within_syncWorlds _).mono fun a ha => (outside a ha).2)

end dbgClose

theorem dbg_dbgClose (s : State) : s.dbgClose.dbg = 0 := by
  by_cases h : s.dbg = 0
  · unfold State.dbgClose
    rw [if_pos h]
    exact h
  · rw [dbgClose_open h, dbg_syncWorlds]
    unfold State.dbg
    rw [(within_secEvt _ _).get _ _ (by decide), get_set_apart (by decide), get_set_same _ (by unfold Fld.plain; decide)]
    rfl

/-! ### What every Block reset leaves -/

/-- The words that a Block reset may write beside the reset entries. -/
def blockWord (a : Nat) : Bool := dbgWord a || a == R.MTX_TGT_STAT.addr

/-- `t` has been reached from `s` in a Block reset of `u`, and where `d` holds debug has closed. -/
structure BlockHeld (d : Prop) (u : ResetUnit) (s t : State) : Prop where
  mem : t.mem = s.mem
  time : t.time = s.time
  kspi : t.kspi = s.kspi
  pwr : { t.pwr with idleAt := s.pwr.idleAt } = s.pwr
  aon : t.aon = s.aon
  knl : t.knl = s.knl
  wf : t.wf
  word : ∀ a, rwsOff a = none → blockWord a = false → t.word a = resetWord (fun r => unitHas u a && blockSets r) a (s.word a)
  dbg : d → t.dbg = 0

theorem dbg_of_word {s t : State} (h : t.word R.SEC_STATE_DBG.addr = s.word R.SEC_STATE_DBG.addr) : t.dbg = s.dbg := by
  unfold State.dbg State.get
  rw [wordsN_congr fun k hk => ?_]
  have : k = 0 := Nat.lt_one_iff.mp hk
  subst this
  exact h

theorem dbg_of_regs {s t : State} (h : t.regs = s.regs) : t.dbg = s.dbg :=
  dbg_of_word (by rw [word_of_regs (by decide), word_of_regs (by decide), h])

theorem dbg_engineBlockReset {t : State} (h : t.wf) (n : Fin 12) : (t.engineBlockReset n).dbg = t.dbg := by
  have outside : unitHas (.engine n) R.SEC_STATE_DBG.addr = false := by revert n; decide
  refine dbg_of_word ((word_resetRegs (s := t) (p := fun a r => unitHas (.engine n) a && blockSets r) rfl (by decide) h.1).trans
    (resetWord_zero (maskAt_false _ fun r => ?_)))
  exact congrArg (· && blockSets r) outside

section steps

variable {d : Prop} {u : ResetUnit} {s t t' : State}

/-- The registers of the unit have taken their entries. -/
theorem BlockHeld.start (u : ResetUnit) {s : State} (h : s.wf) :
    BlockHeld False u s { s with regs := resetRegs (fun a r => unitHas u a && blockSets r) s.regs } :=
  ⟨rfl, rfl, rfl, rfl, rfl, rfl, ⟨resetRegs_wf _ h.1, h.2⟩,
    fun _ ha _ => word_resetRegs (p := fun a r => unitHas u a && blockSets r) rfl ha h.1, False.elim⟩

/-- A step that leaves the registers, and what no Block reset sets. -/
theorem BlockHeld.carry (h : BlockHeld d u s t) (regs : t'.regs = t.regs) (mem : t'.mem = t.mem) (time : t'.time = t.time) (kspi : t'.kspi = t.kspi)
    (pwr : { t'.pwr with idleAt := t.pwr.idleAt } = t.pwr) (aon : t'.aon = t.aon) (knl : t'.knl = t.knl) : BlockHeld d u s t' := by
  refine ⟨mem.trans h.mem, time.trans h.time, kspi.trans h.kspi, ?_, aon.trans h.aon, knl.trans h.knl, ?_, fun a ha hb => ?_,
    fun hd => (dbg_of_regs regs).trans (h.dbg hd)⟩
  · have old := h.pwr
    rw [← pwr] at old
    exact old
  · unfold State.wf
    rw [regs, mem]
    exact h.wf
  · rw [← h.word a ha hb, word_of_regs ha, word_of_regs ha, regs]

theorem BlockHeld.dbgClose (h : BlockHeld d u s t) : BlockHeld True u s t.dbgClose := by
  by_cases hd : t.dbg = 0
  · unfold State.dbgClose
    rw [if_pos hd]
    exact ⟨h.mem, h.time, h.kspi, h.pwr, h.aon, h.knl, h.wf, h.word, fun _ => hd⟩
  · have w := within_dbgClose hd
    refine ⟨w.mem.trans h.mem, w.time.trans h.time, w.kspi.trans h.kspi, ?_, w.aon.trans h.aon, w.knl.trans h.knl,
      (State.dbgClose_keeps (.refl t)).wf h.wf, fun a ha hb => ?_, fun _ => dbg_dbgClose t⟩
    · rw [w.pwr]
      exact h.pwr
    · rw [← h.word a ha hb]
      exact w.word a (Bool.or_eq_false_iff.mp hb).1

/-- An engine of the unit is reset. -/
theorem BlockHeld.engine (h : BlockHeld d u s t) {n : Fin 12} (hn : ∀ a, unitHas (.engine n) a = true → unitHas u a = true) :
    BlockHeld d u s (t.engineBlockReset n) := by
  refine ⟨h.mem, h.time, h.kspi, h.pwr, h.aon, h.knl, (State.engineBlockReset_keeps n (.refl t)).wf h.wf, fun a ha hb => ?_,
    fun hd => (dbg_engineBlockReset h.wf n).trans (h.dbg hd)⟩
  rw [word_resetRegs (s := t) (p := fun a r => unitHas (.engine n) a && blockSets r) rfl ha h.wf.1, h.word a ha hb]
  refine resetWord_part _ fun r hr => ?_
  rw [Bool.and_eq_true] at hr ⊢
  exact ⟨hn a hr.1, hr.2⟩

/-- The engines E2 to E11 are reset. -/
theorem BlockHeld.engines (h : BlockHeld d u s t) (hu : ∀ n : Fin 12, 2 ≤ n.val → ∀ a, unitHas (.engine n) a = true → unitHas u a = true) :
    BlockHeld d u s t.resetEngines := by
  unfold State.resetEngines
  generalize List.finRange 12 = l
  induction l generalizing t with
  | nil => exact h
  | cons n l ih =>
    rw [List.foldl_cons]
    refine ih ?_
    split
    · exact h
    · next hn => exact h.engine (hu n (Nat.not_lt.mp hn))

theorem BlockHeld.imp {d' : Prop} (h : BlockHeld d u s t) (hd : d' → d) : BlockHeld d' u s t :=
  ⟨h.mem, h.time, h.kspi, h.pwr, h.aon, h.knl, h.wf, h.word, fun k => h.dbg (hd k)⟩

theorem BlockHeld.links (h : BlockHeld d u s t) (l g : Nat → Bool) : BlockHeld d u s (t.resetLinks l g) := by
  unfold State.resetLinks
  apply h.carry <;> rfl

/-- The state beside the registers of one block is reset. -/
theorem BlockHeld.hidden (h : BlockHeld d u s t) (b : Block)
    (hu : b = .eng → ∀ n : Fin 12, 2 ≤ n.val → ∀ a, unitHas (.engine n) a = true → unitHas u a = true) :
    BlockHeld d u s (t.resetHidden b) := by
  cases b with
  | eng => exact h.engines (hu rfl)
  | sec => exact h.dbgClose.imp fun _ => trivial
  | prt =>
    unfold State.resetHidden
    exact h.links _ _
  | _ => apply h.carry <;> rfl

theorem BlockHeld.hiddens (h : BlockHeld d u s t) (l : List Block)
    (hu : Block.eng ∈ l → ∀ n : Fin 12, 2 ≤ n.val → ∀ a, unitHas (.engine n) a = true → unitHas u a = true) :
    BlockHeld d u s (l.foldl State.resetHidden t) := by
  induction l generalizing t with
  | nil => exact h
  | cons b l ih =>
    rw [List.foldl_cons]
    exact ih (h.hidden b fun e => hu (e ▸ List.mem_cons_self ..)) fun hl => hu (List.mem_cons_of_mem _ hl)

/-- The HUNG mark of the Kennel's gate is cleared (R392). -/
theorem BlockHeld.tgtStat (h : BlockHeld d u s t) (v : Nat) : BlockHeld d u s (t.set R.MTX_TGT_STAT 0 v) := by
  have w : Within (· == R.MTX_TGT_STAT.addr) t (t.set R.MTX_TGT_STAT 0 v) := within_set _ _ _ _ (by decide)
  refine ⟨w.mem.trans h.mem, w.time.trans h.time, w.kspi.trans h.kspi, ?_, w.aon.trans h.aon, w.knl.trans h.knl,
    (State.set_keeps _ _ _ (.refl t)).wf h.wf, fun a ha hb => ?_, fun hd => (dbg_of_word (w.word _ (by decide))).trans (h.dbg hd)⟩
  · rw [w.pwr]
    exact h.pwr
  · rw [← h.word a ha hb]
    exact w.word a (Bool.or_eq_false_iff.mp hb).2

/-- A Block reset puts the fields of its unit at their entries and keeps memory, time and what AON, PWR and the Kennel hold (R12, R448). -/
theorem blockReset_held (h : s.wf) (u : ResetUnit) : BlockHeld (u = .core ∨ u = .block .sec) u s (s.blockReset u) := by
  have start := BlockHeld.start u h
  have engines : ∀ a (n : Fin 12), unitHas (.engine n) a = true → 0x4000000 + n.val * 0x100000 ≤ a ∧ a < 0x4100000 + n.val * 0x100000 := by
    intro a n hn
    simpa [unitHas] using hn
  unfold State.blockReset
  cases u with
  | engine n => exact (start.engine fun _ ha => ha).imp (by simp)
  | kennel =>
    have both : ∀ n : Fin 12, n.val < 2 → ∀ a, unitHas (.engine n) a = true → unitHas .kennel a = true := by
      intro n hn a ha
      have := engines a n ha
      simp only [unitHas, Bool.or_eq_true, Bool.and_eq_true, decide_eq_true_eq]
      omega
    exact (((start.engine (n := 0) (both 0 (by decide))).engine (n := 1) (both 1 (by decide))).tgtStat _).imp (by simp)
  | core =>
    refine ((start.dbgClose).hiddens _ fun _ n hn a ha => ?_).imp fun _ => trivial
    have := engines a n ha
    simp only [unitHas, Bool.or_eq_true, Bool.and_eq_true, decide_eq_true_eq]
    omega
  | pg g =>
    exact (start.links _ _).imp (by simp)
  | gnss => exact (start.hidden .gns nofun).imp (by simp)
  | host => exact ((start.hidden .hst nofun).hidden .fch nofun).imp (by simp)
  | block b =>
    have held := start.hidden b (by
      rintro rfl n hn a ha
      have := engines a n ha
      show (decide (0x4000000 ≤ a) && decide (a < 0x4C00000)) = true
      simp only [Bool.and_eq_true, decide_eq_true_eq]
      omega)
    cases b with
    | sec => exact start.dbgClose.imp fun _ => trivial
    | _ => exact held.imp (by simp)

end steps

end Sys2Proof.Machine

/-! ## What a raised source changes (R453 to R460, R72 to R76) -/

namespace Sys2Proof.Machine

/-- The words that status, count, capture, interrupt and record of a source write: FLT but for FLT_ACTIVE, SEC, KNL but for KNL_AUDIT_ACK, and
HST_IRQ_PEND. -/
def reportWord (a : Nat) : Bool :=
  (decide (0x100000 ≤ a) && decide (a < 0x300000) && !(decide (0x200120 ≤ a) && decide (a < 0x200134)))
    || (decide (0x1000000 ≤ a) && decide (a < 0x1100000) && a != 0x1001410) || pendWord a

theorem reportWord_true {a : Nat} (h : 0x100000 ≤ a ∧ a < 0x200120 ∨ 0x200134 ≤ a ∧ a < 0x300000 ∨ 0x1000000 ≤ a ∧ a < 0x1100000 ∧ a ≠ 0x1001410) :
    reportWord a = true := by
  simp only [reportWord, Bool.or_eq_true, Bool.and_eq_true, decide_eq_true_eq, Bool.not_eq_true', Bool.and_eq_false_iff, decide_eq_false_iff_not, bne_iff_ne]
  omega

/-- `t` is `s` but for register words of a set, and what HST, the Kennel, its flash but for the Bones, FLT, SEC and the draw hold. -/
structure Reported (p : Nat → Bool) (s t : State) : Prop where
  rest : { t with regs := s.regs, hst := s.hst, knl := s.knl, kspi := s.kspi, draw := s.draw, flt := s.flt, sec := s.sec } = s
  bones : t.kspi.bones = s.kspi.bones
  word : ∀ a, p a = false → t.word a = s.word a

section reported

variable {p : Nat → Bool} {r s t : State}

theorem Reported.refl (p : Nat → Bool) (s : State) : Reported p s s := ⟨rfl, rfl, fun _ _ => rfl⟩

theorem Reported.trans (h : Reported p r s) (k : Reported p s t) : Reported p r t := by
  refine ⟨?_, k.bones.trans h.bones, fun a ha => (k.word a ha).trans (h.word a ha)⟩
  have h1 := h.rest
  have h2 := k.rest
  rw [← h1, ← h2]

theorem Synced.reported (h : Synced p s t) : Reported p s t := ⟨by rw [← h.rest], by rw [← h.rest], h.word⟩

theorem Within.reported (h : Within p s t) : Reported p s t := h.synced.reported

theorem Reported.mono {q : Nat → Bool} (h : Reported p s t) (hq : ∀ a, q a = false → p a = false) : Reported q s t :=
  ⟨h.rest, h.bones, fun a ha => h.word a (hq a ha)⟩

theorem Reported.mem (h : Reported p s t) : t.mem = s.mem := by rw [← h.rest]
theorem Reported.time (h : Reported p s t) : t.time = s.time := by rw [← h.rest]
theorem Reported.eng (h : Reported p s t) : t.eng = s.eng := by rw [← h.rest]
theorem Reported.aon (h : Reported p s t) : t.aon = s.aon := by rw [← h.rest]
theorem Reported.pwr (h : Reported p s t) : t.pwr = s.pwr := by rw [← h.rest]

theorem Reported.get (h : Reported p s t) (f : Fld) (i : Nat) (hf : ∀ k < f.words, p (f.at i + 4 * k) = false) : t.get f i = s.get f i := by
  unfold State.get
  rw [wordsN_congr fun k hk => h.word _ (hf k hk)]

end reported

/-! ### A record in the event log (R72 to R76) -/

theorem within_irqEdge {p : Nat → Bool} (s u : State) (src : Nat) (h0 : p 0x500030 = true) (h1 : p 0x500034 = true) : Within p s (s.irqEdge u src) := by
  unfold State.irqEdge
  exact within_ite (within_irq _ _ h0 h1) (.refl _ _)

theorem within_setWordsN {p : Nat → Bool} (s : State) (a v n : Nat) (h : ∀ k < n, p (a + 4 * k) = true) : Within p s (s.setWordsN a v n) := by
  obtain ⟨r, hr⟩ := setWordsN_regs s a v n
  refine ⟨by rw [hr], fun x hx => word_setWordsN_ne _ _ ?_⟩
  rintro k hk rfl
  rw [h k hk] at hx
  cases hx

theorem within_ringPut (s : State) (r : KRec) : Within reportWord s (s.ringPut r) := by
  unfold State.ringPut
  refine (within_ite (within_set _ _ _ _ (by decide)) (.refl _ _)).trans (within_setWordsN _ _ _ _ fun k hk => reportWord_true ?_)
  have base : R.KNL_REC_WIN.addr = 0x1004000 := rfl
  have entry : r.seq % 1024 < 1024 := Nat.mod_lt _ (by decide)
  omega

theorem within_syncAudit (s : State) : Within reportWord s s.syncAudit :=
  (within_set _ _ _ _ (by decide)).trans (within_set _ _ _ _ (by decide))

/-- A record formed: the registers and HST follow it, and the flash stands. -/
theorem mkRecordBy_reported (s : State) (key : Digest) (typ flags keySlot : Nat) (rt : Time) (detail : List Byte) :
    Reported reportWord s (s.mkRecordBy key typ flags keySlot rt detail).2 ∧ (s.mkRecordBy key typ flags keySlot rt detail).2.kspi = s.kspi := by
  unfold State.mkRecordBy
  dsimp only
  generalize hw : (s.drawn.set R.KNL_REC_WR 0 _).irqEdge s.drawn 19 = u
  have numbered : Within reportWord s.drawn u := by
    rw [← hw]
    exact (within_set _ _ _ _ (by decide)).trans (within_irqEdge _ _ _ rfl rfl)
  have drawn : Reported reportWord s s.drawn := ⟨rfl, rfl, fun _ _ => rfl⟩
  have digest : ∀ d, Reported reportWord u { u with knl := { u.knl with prevDig := d } } := fun _ => ⟨rfl, rfl, fun _ _ => rfl⟩
  exact ⟨((drawn.trans numbered.reported).trans (digest _)).trans (within_ringPut _ _).reported, (within_ringPut _ _).kspi.trans numbered.kspi⟩

/-- A report that makes one event record at most. -/
structure LogsOne (s t : State) : Prop where
  reported : Reported reportWord s t
  events : ∀ q, t.kspi.events.countP q ≤ s.kspi.events.countP q + 1

theorem LogsOne.of_kspi {s t : State} (h : Reported reportWord s t) (k : t.kspi = s.kspi) : LogsOne s t := ⟨h, fun _ => k ▸ Nat.le_succ _⟩

theorem LogsOne.ite {s t u : State} {c : Prop} [Decidable c] (h : LogsOne s t) (k : LogsOne s u) : LogsOne s (if c then t else u) := by
  split
  · exact h
  · exact k

theorem logEventBy_logsOne (s : State) (key : Digest) (typ flags keySlot : Nat) (rt : Time) (detail : List Byte) :
    LogsOne s (s.logEventBy key typ flags keySlot rt detail) := by
  unfold State.logEventBy
  obtain ⟨reported, flash⟩ := mkRecordBy_reported s key typ flags keySlot rt detail
  generalize s.mkRecordBy key typ flags keySlot rt detail = made at reported flash ⊢
  obtain ⟨r, u⟩ := made
  dsimp only at reported flash ⊢
  generalize hc : (if decide (u.kspi.events.length ≥ logCap) = true then u.bump R.KNL_REC_STAT_AUDIT_OVERWRITE 0 _ else u) = c
  have counted : Within reportWord u c := by
    rw [← hc]
    exact within_ite (within_set _ _ _ _ (by decide)) (.refl _ _)
  refine ⟨((reported.trans counted.reported).trans ?_).trans (within_syncAudit _).reported, fun q => ?_⟩
  · exact ⟨rfl, rfl, fun _ _ => rfl⟩
  · rw [(within_syncAudit _).kspi, ← flash]
    dsimp only
    rw [List.countP_append]
    refine Nat.add_le_add ?_ List.countP_le_length
    split
    · exact (List.drop_sublist 25 _).countP_le
    · exact Nat.le_refl _

/-- LOG of a source (R459). -/
theorem faultLog_logsOne (s : State) (k cls react inst : Nat) (info : List Byte) : LogsOne s (s.faultLog k cls react inst info) := by
  have noted : ∀ x : List (Nat × Nat × Nat), LogsOne s { s with knl := { s.knl with faultRec := x } } := fun _ => .of_kspi ⟨rfl, rfl, fun _ _ => rfl⟩ rfl
  have logged : ∀ (x : List (Nat × Nat × Nat)) (typ keySlot : Nat) (rt : Time) (detail : List Byte),
      LogsOne s (State.logEvent { s with knl := { s.knl with faultRec := x } } typ keySlot rt detail) := by
    intro x typ keySlot rt detail
    obtain ⟨reported, events⟩ := logEventBy_logsOne { s with knl := { s.knl with faultRec := x } } s.knl.attKey typ
      (State.recFlags { s with knl := { s.knl with faultRec := x } }) keySlot rt detail
    exact ⟨(noted x).reported.trans reported, events⟩
  unfold State.faultLog
  generalize s.knl.faultRec.find? (fun x => x.1 == k) = prev
  rcases prev with _ | ⟨_, last, count⟩ <;> exact (logged _ _ _ _ _).ite (noted _)

end Sys2Proof.Machine

/-! ## An NMI of E2 (R269, R455) -/

namespace Sys2Proof.Machine

/-- `t` has the AON region and the flash of `s`, and each word outside a set stands or was at its reset entry. -/
structure Spared (p : Nat → Bool) (s t : State) : Prop where
  aon : t.aon = s.aon
  kspi : t.kspi = s.kspi
  word : ∀ a, rwsOff a = none → p a = false → t.word a = s.word a ∨ s.word a = coldWord a

section spared

variable {p : Nat → Bool} {r s t : State}

theorem Within.spared (h : Within p s t) : Spared p s t := ⟨h.aon, h.kspi, fun a _ ha => .inl (h.word a ha)⟩

theorem Spared.refl (p : Nat → Bool) (s : State) : Spared p s s := (Within.refl p s).spared

theorem Spared.trans (h : Spared p r s) (k : Spared p s t) : Spared p r t := by
  refine ⟨k.aon.trans h.aon, k.kspi.trans h.kspi, fun a ha hp => ?_⟩
  rcases h.word a ha hp with e | e
  · exact e ▸ k.word a ha hp
  · exact .inr e

end spared

/-- The words that a trap of E2 writes. -/
def nmiWord (a : Nat) : Bool := (decide (0x4200000 ≤ a) && decide (a < 0x4300000)) || obsWord a

theorem spared_setEng (s : State) (n : Fin 12) (e : Engine) : Spared nmiWord s (s.setEng n e) := ⟨rfl, rfl, fun _ _ _ => .inl rfl⟩

/-- A field of E2. -/
theorem within_e2 (s : State) (f : Fld) (v : Nat) (hf : ∀ k < f.words, nmiWord (f.at 2 + 4 * k) = true) : Spared nmiWord s (s.set f 2 v) :=
  (within_set _ _ _ _ hf).spared

theorem spared_raise (s : State) (f : Fld) (b : Nat) (hf : ∀ k < f.words, nmiWord (f.at 2 + 4 * k) = true) : Spared nmiWord s (s.raiseBit f 2 b) :=
  (within_raiseBit _ _ _ _ rfl rfl hf).spared

theorem spared_trapSave (s : State) (epc : BitVec 16) : Spared nmiWord s (s.trapSave 2 9 epc none false) := by
  unfold State.trapSave
  exact (((within_e2 _ _ _ (by decide)).trans (within_e2 _ _ _ (by decide))).trans (spared_raise _ _ _ (by decide))).trans
    ((within_obs _ _ _ _).mono fun _ ha => (Bool.or_eq_false_iff.mp ha).2).spared

theorem spared_halt (s : State) : Spared nmiWord s (s.halt 2) := by
  unfold State.halt
  exact ((spared_setEng _ _ _).trans (within_e2 _ _ _ (by decide))).trans (spared_raise _ _ _ (by decide))

theorem countWord_e2 {a : Nat} (h : nmiWord a = false) : countWord 2 a = false := by
  have cycles : R.ENG_CYCLES.at (2 : Fin 12).val = 0x4200080 := rfl
  simp only [nmiWord, obsWord, countWord, Bool.or_eq_false_iff, Bool.and_eq_false_iff, decide_eq_false_iff_not] at h ⊢
  omega

theorem spared_trapVector (s : State) : Spared nmiWord s (s.trapVector 2) := by
  unfold State.trapVector
  exact (((within_e2 _ _ _ (by decide)).trans (spared_setEng _ _ _)).trans (within_e2 _ _ _ (by decide))).trans
    ((within_slot _ 2 _ _ td_redirect).1.mono fun _ ha => countWord_e2 ha).spared

/-- An Engine reset of E2 sets only fields of E2. -/
theorem spared_engineReset (s : State) : Spared nmiWord s (s.engineReset 2) := by
  have regs : ∀ x : MtxSt, Spared nmiWord s { s.orphan 2 with regs := resetRegs (fun a r => unitHas (.engine 2) a && r.kind == RKind.engine) s.regs, mtx := x } := by
    refine fun x => ⟨rfl, rfl, fun a ha hp => word_resetRegs_spared (s := s)
      (p := fun a r => unitHas (.engine 2) a && r.kind == RKind.engine) rfl ha (maskAt_false _ fun r => ?_)⟩
    have outside : unitHas (.engine 2) a = false := by
      obtain ⟨h, -⟩ := Bool.or_eq_false_iff.mp hp
      exact h
    rw [outside]
    rfl
  unfold State.engineReset
  dsimp only
  split
  · exact .refl _ s
  · exact ((regs _).trans (spared_setEng _ 2 _)).trans (within_e2 _ _ _ (by decide))

/-- A trap of E2 by an NMI. -/
theorem spared_trapEnter (s : State) (epc : BitVec 16) : Spared nmiWord s (s.trapEnter 2 9 epc none false) := by
  unfold State.trapEnter
  have saved := spared_trapSave s epc
  dsimp only
  generalize s.trapSave 2 9 epc none false = u at saved ⊢
  refine saved.trans ?_
  split
  · exact spared_halt u
  · split
    · exact spared_engineReset u
    · exact spared_trapVector u

/-- An NMI taken by E2 leaves the AON region and the flash. -/
theorem spared_takeNmi (s : State) : Spared nmiWord s s.takeNmi := by
  unfold State.takeNmi
  dsimp only
  split
  · exact (spared_setEng _ _ _).trans (spared_trapEnter _ _)
  · exact .refl _ s

/-! ### The core of a raised source (R455) -/

/-- Status, count and capture of a source. -/
theorem within_noted (s : State) (k cls : Nat) (hk : k < 160) : Within reportWord s (((s.raiseBit R.FLT_STATUS (k / 32) (k % 32)).bump R.FLT_COUNT k).capture k cls) := by
  have status : Within reportWord s (s.raiseBit R.FLT_STATUS (k / 32) (k % 32)) := within_raiseBit _ _ _ _ rfl rfl fun j hj => reportWord_true (by
    have at_ : R.FLT_STATUS.at (k / 32) = 0x200100 + 4 * (k / 32) := rfl
    have : j = 0 := Nat.lt_one_iff.mp hj
    omega)
  have counted : ∀ u : State, Within reportWord u (u.bump R.FLT_COUNT k) := fun u => within_set _ _ _ _ fun j hj => reportWord_true (by
    have at_ : R.FLT_COUNT.at k = 0x200800 + 4 * k := rfl
    have : j = 0 := Nat.lt_one_iff.mp hj
    omega)
  refine (status.trans (counted _)).trans ?_
  unfold State.capture
  refine within_ite ?_ (.refl _ _)
  exact (((within_set _ _ _ _ (by decide)).trans (within_set _ _ _ _ (by decide))).trans (within_set _ _ _ _ (by decide))).trans (within_set _ _ _ _ (by decide))

/-- A raised source: what it notes, an NMI where E2 takes one, its record, and the summary. -/
theorem raiseCore_steps (s : State) {k : Nat} (inst : Nat) (info : List Byte) (hk : k < 160) :
    ∃ u v w : State, Within reportWord s u
      ∧ (v = u ∨ ((s.engState 2 = stRunning ∨ s.engState 2 = stWaiting) ∧ v = (u.setEng 2 { u.engine 2 with nmi := true }).takeNmi))
      ∧ LogsOne v w ∧ Synced (· == 0x200000) w (s.raiseCore k inst info) := by
  unfold State.raiseCore
  cases fsInfo k with
  | none => exact ⟨s, s, s, .refl _ _, .inl rfl, .of_kspi (.refl _ _) rfl, (Within.refl _ _).synced⟩
  | some x =>
    obtain ⟨cls, l, d, blk, fix⟩ := x
    dsimp only
    have noted := within_noted s k cls hk
    generalize ((s.raiseBit R.FLT_STATUS (k / 32) (k % 32)).bump R.FLT_COUNT k).capture k cls = u at noted ⊢
    have same : u.engState 2 = s.engState 2 := noted.get _ _ (by decide)
    have running : ((u.reactions k).testBit 1 && u.nmiTaken) = true → s.engState 2 = stRunning ∨ s.engState 2 = stWaiting := by
      intro taken
      simp only [State.nmiTaken, Bool.and_eq_true, Bool.or_eq_true, beq_iff_eq, same] at taken
      obtain ⟨-, -, h⟩ := taken
      exact h
    generalize ((u.reactions k).testBit 0 || ((u.reactions k).testBit 1 && !u.nmiTaken)) = asks
    generalize ((u.reactions k).testBit 1 && u.nmiTaken) = takes at running ⊢
    generalize (u.reactions k).testBit 5 = logs
    generalize hv : (if asks = true then u.irq 20 else u) = v
    generalize hw : (if takes = true then (v.setEng 2 { v.engine 2 with nmi := true }).takeNmi else v) = w
    have asked : Within reportWord u v := hv ▸ within_ite (within_irq _ _ rfl rfl) (.refl _ _)
    refine ⟨v, w, _, noted.trans asked, ?_, ?_, synced_syncFlt _⟩
    · cases takes with
      | true => exact .inr ⟨running rfl, hw.symm⟩
      | false => exact .inl hw.symm
    · exact (faultLog_logsOne _ _ _ _ _ _).ite (.of_kspi (.refl _ _) rfl)

end Sys2Proof.Machine

/-! ## The slots checked after a reset (R435), and a raised source that resets nothing -/

namespace Sys2Proof.Machine

section core

variable {s : State} {k : Nat} (inst : Nat) (info : List Byte) (hk : k < 160)
include hk

/-- While E2 does not run, a raised source changes what `Reported` names alone. -/
theorem raiseCore_reported (h : ¬(s.engState 2 = stRunning ∨ s.engState 2 = stWaiting)) : Reported reportWord s (s.raiseCore k inst info) := by
  obtain ⟨u, v, w, noted, nmi, logged, synced⟩ := raiseCore_steps s inst info hk
  rcases nmi with rfl | ⟨running, -⟩
  · refine (noted.reported.trans logged.reported).trans (synced.mono fun a ha => beq_eq_false_iff_ne.mpr ?_).reported
    rintro rfl
    cases ha
  · exact absurd running h

/-- A word outside the report and the trap of E2 stands, unless it was at its reset entry; the AON region stands; one event record is made at most. -/
theorem raiseCore_spared : (s.raiseCore k inst info).aon = s.aon
    ∧ (∀ a, rwsOff a = none → reportWord a = false → nmiWord a = false → (s.raiseCore k inst info).word a = s.word a ∨ s.word a = coldWord a)
    ∧ ∀ q, (s.raiseCore k inst info).kspi.events.countP q ≤ s.kspi.events.countP q + 1 := by
  obtain ⟨u, v, w, noted, nmi, logged, synced⟩ := raiseCore_steps s inst info hk
  have trap : Spared nmiWord u v := by
    rcases nmi with rfl | ⟨-, rfl⟩
    · exact .refl _ _
    · exact (spared_setEng _ _ _).trans (spared_takeNmi _)
  have aonLog : w.aon = v.aon := logged.reported.aon
  have aonSync : (s.raiseCore k inst info).aon = w.aon := synced.aon
  have flash : (s.raiseCore k inst info).kspi = w.kspi := synced.kspi
  refine ⟨aonSync.trans (aonLog.trans (trap.aon.trans noted.aon)), fun a ha hr hn => ?_, fun q => ?_⟩
  · have summary : (a == 0x200000) = false := beq_eq_false_iff_ne.mpr (by rintro rfl; cases hr)
    rw [synced.word a summary, logged.reported.word a hr, ← noted.word a hr]
    exact trap.word a ha hn
  · rw [flash, ← noted.kspi, ← trap.kspi]
    exact logged.events q

end core

/-! ### The slot check -/

theorem slotCheck1_reported (s : State) (k : Fin 32) : Reported reportWord s (s.slotCheck1 k).2 := by
  have copied : ∀ x : SecSt, x.rootSecret = s.sec.rootSecret → Reported reportWord s (State.raiseBit { s with sec := x } R.SEC_EVT 0 3) := fun x _ =>
    Reported.trans (s := { s with sec := x }) ⟨rfl, rfl, fun _ _ => rfl⟩ (within_raiseBit _ _ _ _ rfl rfl (by decide)).reported
  unfold State.slotCheck1
  dsimp only
  split
  · exact .refl _ s
  · exact copied _ rfl
  · exact copied _ rfl
  · show Reported reportWord s ((s.raiseBit R.SEC_SLOT_BAD 0 k).raiseBit R.SEC_EVT 0 2)
    exact Within.reported (Within.trans (within_raiseBit _ _ _ _ rfl rfl (by decide)) (within_raiseBit _ _ _ _ rfl rfl (by decide)))

/-- While E2 does not run, the check of the slots changes what `Reported` names alone. -/
theorem slotsCheck_reported {s : State} (h : ¬(s.engState 2 = stRunning ∨ s.engState 2 = stWaiting)) : Reported reportWord s s.slotsCheck := by
  unfold State.slotsCheck
  generalize List.finRange 32 = l
  induction l generalizing s with
  | nil => exact .refl _ s
  | cons k l ih =>
    rw [List.foldl_cons]
    have checked := slotCheck1_reported s k
    generalize s.slotCheck1 k = r at checked ⊢
    obtain ⟨bad, u⟩ := r
    have stopped : ∀ {t : State}, Reported reportWord s t → ¬(t.engState 2 = stRunning ∨ t.engState 2 = stWaiting) := by
      intro t ht
      have same : t.engState 2 = s.engState 2 := ht.get _ _ (by decide)
      rwa [same]
    cases bad with
    | false => exact checked.trans (ih (stopped checked))
    | true =>
      have raised := checked.trans (raiseCore_reported (k := fsKeySlotBad) k [] (by decide) (stopped checked))
      exact raised.trans (ih (stopped raised))

/-! ### A checked Chip reset (R12, R435) -/

theorem chipResetChecked_eq (s : State) (cause : Nat) : s.chipResetChecked cause = (s.chipReset cause).slotsCheck := rfl

/-- E2 is STOPPED after a Chip reset (R260). -/
theorem engState_chipReset (s : State) (cause : Nat) : (s.chipReset cause).engState 2 = stStopped := by
  have masked := chipReset_masked (s := s) cause (a := R.ENG_STAT_STATE.at 2) (by decide) (by decide)
  have cold : bits (coldWord (R.ENG_STAT_STATE.at 2)).toNat R.ENG_STAT_STATE.lsb R.ENG_STAT_STATE.width = stStopped := by decide +kernel
  exact (get_of_masked (i := 2) rfl masked (by decide +kernel)).trans cold

/-- What a Chip reset with its slot check leaves, from any state. -/
theorem chipResetChecked_leaves (s : State) {cause : Nat} (hc : cause < 8) :
    (s.chipResetChecked cause).mem = [] ∧ (s.chipResetChecked cause).time = TimeSt.reset ∧ (∀ n : Fin 12, (s.chipResetChecked cause).engine n = Engine.reset)
      ∧ (s.chipResetChecked cause).kspi.bones = s.kspi.bones ∧ (s.chipResetChecked cause).aon = { s.aon with sagAt := 0, periodAt := 0 }
      ∧ (s.chipResetChecked cause).pwr.power = s.pwr.power ∧ (s.chipResetChecked cause).get R.PWR_RESET_CAUSE = cause := by
  have stopped : ¬((s.chipReset cause).engState 2 = stRunning ∨ (s.chipReset cause).engState 2 = stWaiting) := by
    rw [engState_chipReset]
    decide
  have checked := slotsCheck_reported stopped
  obtain ⟨u, cleared, synced⟩ := chipReset_cleared cause s
  rw [chipResetChecked_eq]
  have all := (synced.reported.mono (q := fun a => chipWord a || reportWord a) fun a ha => (Bool.or_eq_false_iff.mp ha).1).trans
    (checked.mono fun a ha => (Bool.or_eq_false_iff.mp ha).2)
  refine ⟨all.mem.trans cleared.mem, all.time.trans cleared.time, fun n => ?_, all.bones.trans (by rw [cleared.kspi]), all.aon.trans cleared.aon,
    (by rw [all.pwr, cleared.power]), (checked.get _ _ (by decide)).trans (chipReset_cause cause s hc)⟩
  unfold State.engine
  rw [all.eng, cleared.eng]
  exact Vector.getElem_replicate ..

end Sys2Proof.Machine

/-! ## The hold capacitor, the Bone region, wakes and cleared SRAM (R415, R416, R420, R424, R428, R481) -/

namespace Sys2Proof.Machine

/-! ### Bits of level sources -/

/-- A bit taken from a number that has it. -/
theorem testBit_sub_two_pow {x b : Nat} (h : x.testBit b = true) (j : Nat) : (x - 2 ^ b).testBit j = (x.testBit j && j != b) := by
  obtain ⟨q, hq⟩ : ∃ q, x / 2 ^ b = 2 * q + 1 := by
    rw [Nat.testBit_eq_decide_div_mod_eq, decide_eq_true_eq] at h
    exact ⟨x / 2 ^ b / 2, by omega⟩
  have hr : x % 2 ^ b < 2 ^ b := Nat.mod_lt _ (Nat.two_pow_pos b)
  have hx : x = 2 ^ b * (2 * q + 1) + x % 2 ^ b := by rw [← hq]; exact (Nat.div_add_mod x (2 ^ b)).symm
  have hsub : x - 2 ^ b = 2 ^ b * (2 * q) + x % 2 ^ b := by
    have : 2 ^ b * (2 * q + 1) = 2 ^ b * (2 * q) + 2 ^ b := by ring
    omega
  rw [hsub]
  conv_rhs => rw [hx]
  rw [Nat.testBit_two_pow_mul_add _ hr, Nat.testBit_two_pow_mul_add _ hr]
  split
  · next hj => simp [Nat.ne_of_lt hj]
  · next hj =>
    rcases Nat.lt_or_eq_of_le (Nat.not_lt.mp hj) with hlt | rfl
    · obtain ⟨m, hm⟩ : ∃ m, j - b = m + 1 := ⟨j - b - 1, by omega⟩
      have same : (2 * q + 1) / 2 = q := by omega
      rw [hm, Nat.testBit_succ, Nat.testBit_succ, Nat.mul_div_cancel_left _ (by decide), same]
      simp [Nat.ne_of_gt hlt]
    · simp

theorem testBit_clearBit {s : State} {f : Fld} {i : Nat} (hp : f.plain i) (b j : Nat) :
    ((s.clearBit f i b).get f i).testBit j = ((s.get f i).testBit j && j != b) := by
  have bound : (if (s.get f i).testBit b = true then s.get f i - 2 ^ b else s.get f i) < 2 ^ f.width :=
    lt_of_le_of_lt (by split; exacts [Nat.sub_le _ _, Nat.le_refl _]) (get_lt s f i)
  unfold State.clearBit
  rw [get_set_same _ hp, Nat.mod_eq_of_lt bound]
  cases hb : (s.get f i).testBit b with
  | true => exact testBit_sub_two_pow hb j
  | false =>
    by_cases hj : j = b
    · simp [hj, hb]
    · simp [hj]

/-- The Bone region has a slot to spare again (R424). -/
theorem active_levelOff (s : State) : (s.levelOff fsBoneNoSlot).active fsBoneNoSlot = false := by
  unfold State.active State.levelOff
  rw [testBit_clearBit (by unfold Fld.plain; decide)]
  simp

/-! ### VHOLD -/

theorem vholdShow_shows (s : State) (vhold : BitVec 13) : (s.vholdShow vhold).get R.AON_VHOLD = vhold.toNat
    ∧ (s.vholdShow vhold).flag R.AON_VIN_STAT_HOLD_RDY = decide (4500 ≤ vhold.toNat) ∧ { s.vholdShow vhold with regs := s.regs } = s := by
  unfold State.vholdShow
  refine ⟨?_, flag_setFlag_same _ (by unfold Fld.plain; decide) rfl, ?_⟩
  · rw [State.setFlag, get_set_apart (by decide), get_set_same _ (by unfold Fld.plain; decide)]
    exact Nat.mod_eq_of_lt vhold.isLt
  · obtain ⟨q, hq⟩ := set_regs s R.AON_VHOLD 0 vhold.toNat
    obtain ⟨r, hr⟩ := set_regs (s.set R.AON_VHOLD 0 vhold.toNat) R.AON_VIN_STAT_HOLD_RDY 0 (b2n (decide (vhold.toNat ≥ 4500)))
    rw [State.setFlag, hr, hq]

theorem active_vholdShow (s : State) (vhold : BitVec 13) (k : Nat) : (s.vholdShow vhold).active k = s.active k := by
  have w : Within (fun a => a == 0x80004 || a == 0x80000) s (s.vholdShow vhold) := (within_set _ _ _ _ (by decide)).trans (within_set _ _ _ _ (by decide))
  have at_ : R.FLT_ACTIVE.at (k / 32) = 0x200120 + 4 * (k / 32) := rfl
  unfold State.active
  rw [w.get _ _ fun j _ => ?_]
  have h1 : R.FLT_ACTIVE.at (k / 32) + 4 * j ≠ 0x80004 := by omega
  have h2 : R.FLT_ACTIVE.at (k / 32) + 4 * j ≠ 0x80000 := by omega
  exact Bool.or_eq_false_iff.mpr ⟨beq_eq_false_iff_ne.mpr h1, beq_eq_false_iff_ne.mpr h2⟩

/-! ### BONE_NO_SLOT (R424) -/

/-- A bit that stands in a word is not lost where the word stands unless it was at its reset entry. -/
theorem testBit_kept {s t : State} {f : Fld} {i b : Nat} (hl : f.lsb = 0) (hw : f.words = 1)
    (h : t.word (f.at i) = s.word (f.at i) ∨ s.word (f.at i) = coldWord (f.at i))
    (hb : (s.get f i).testBit b = true) (hc : (coldWord (f.at i)).getLsbD b = false) : (t.get f i).testBit b = true := by
  rw [testBit_get_low hl hw] at hb ⊢
  rcases h with e | e
  · rw [e, hb]
  · rw [e, hc, Bool.and_false] at hb
    cases hb

/-- The event log has room for a record: it is not over its level after one. -/
theorem auditOver_of_room {s t : State} (hr : s.room 1) (hack : s.get R.KNL_AUDIT_ACK ≤ t.get R.KNL_AUDIT_ACK)
    (hev : ∀ q, t.kspi.events.countP q ≤ s.kspi.events.countP q + 1) : t.auditOver = false := by
  have fewer : s.kspi.events.countP (fun r => decide (r.seq > t.get R.KNL_AUDIT_ACK)) ≤ s.unexported :=
    List.countP_mono_left fun r _ h => decide_eq_true (lt_of_le_of_lt hack (of_decide_eq_true h))
  have counted : t.unexported ≤ s.unexported + 1 := (hev _).trans (Nat.add_le_add_right fewer 1)
  unfold State.room at hr
  exact decide_eq_false (by omega)

/-- The reactions of a source follow FLT alone. -/
theorem reactions_congr {s t : State} {k : Nat} (hg : t.get R.FLT_GUARD_STAT_STATE = s.get R.FLT_GUARD_STAT_STATE)
    (hr : t.get R.FLT_REACT_REACT k = s.get R.FLT_REACT_REACT k) : t.reactions k = s.reactions k := by
  unfold State.reactions
  rw [hg, hr]

theorem raise1_mild {s : State} {k : Nat} (inst : Nat) (info : List Byte) (hk : (fsInfo k).isSome = true) (h2 : (s.reactions k).testBit 2 = false)
    (h3 : (s.reactions k).testBit 3 = false) : s.raise1 k inst info = s.raiseCore k inst info := by
  unfold State.raise1
  cases hf : fsInfo k with
  | none => rw [hf] at hk; cases hk
  | some x =>
    dsimp only
    rw [h2, h3]
    rfl

theorem get_single {f : Fld} {i : Nat} (s : State) (hw : f.words = 1) : s.get f i = bits (s.word (f.at i)).toNat f.lsb f.width := by
  unfold State.get
  rw [hw]
  simp [State.wordsN]

theorem get_of_word {s t : State} {f : Fld} {i : Nat} (hw : f.words = 1) (h : t.word (f.at i) = s.word (f.at i)) : t.get f i = s.get f i := by
  rw [get_single t hw, get_single s hw, h]

theorem raise_boneNoSlot {s : State} (h : s.mild fsBoneNoSlot) (active : (s.get R.FLT_ACTIVE 0).testBit 7 = true)
    (evt : (s.get R.AON_BURY_EVT).testBit 4 = true) : ((s.raise fsBoneNoSlot).get R.FLT_ACTIVE 0).testBit 7 = true
      ∧ ((s.raise fsBoneNoSlot).get R.AON_BURY_EVT).testBit 4 = true ∧ (s.raise fsBoneNoSlot).aon = s.aon := by
  obtain ⟨h2, h3, room⟩ := h
  obtain ⟨aon, word, events⟩ := raiseCore_spared (s := s) (k := fsBoneNoSlot) noInst [] (by decide)
  have core := raise1_mild (s := s) noInst [] (by decide) h2 h3
  unfold State.raise
  rw [core]
  generalize s.raiseCore fsBoneNoSlot noInst [] = t at aon word events ⊢
  have active' := testBit_kept rfl rfl (word 0x200120 (by decide) (by decide) (by decide)) active (by decide +kernel)
  have evt' := testBit_kept rfl rfl (word 0x8000C (by decide) (by decide) (by decide)) evt (by decide +kernel)
  have ack : s.get R.KNL_AUDIT_ACK ≤ t.get R.KNL_AUDIT_ACK := by
    have cold : bits (coldWord 0x1001410).toNat 0 32 = 0 := by decide +kernel
    rcases word 0x1001410 (by decide) (by decide) (by decide) with e | e
    · exact Nat.le_of_eq (get_of_word rfl e).symm
    · have zero : s.get R.KNL_AUDIT_ACK = 0 := (get_single s rfl).trans ((congrArg (fun w : Word => bits w.toNat 0 32) e).trans cold)
      omega
  unfold State.syncAuditFull
  rw [auditOver_of_room room ack events]
  refine ⟨?_, ?_, (State.clearBit_aon ..).trans aon⟩
  · rw [if_neg Bool.false_ne_true, testBit_clearBit (by unfold Fld.plain; decide), active']
    rfl
  · rw [if_neg Bool.false_ne_true, State.clearBit, get_set_apart (by decide), evt']

/-- BONE_NO_SLOT becomes active where its reactions reset nothing. -/
theorem noSlot_leaves {s : State} (h : s.mild fsBoneNoSlot) :
    s.noSlot.active fsBoneNoSlot = true ∧ (s.noSlot.get R.AON_BURY_EVT).testBit 4 = true ∧ s.noSlot.aon = s.aon := by
  obtain ⟨h2, h3, room⟩ := h
  have evtWord : ∀ k < R.AON_BURY_EVT.words, pendWord (R.AON_BURY_EVT.at 0 + 4 * k) = false := by decide
  have noted : Within (fun a => a == 0x8000C || pendWord a) s (s.aonEvt 4) := within_raiseBit _ _ _ _ rfl rfl (by decide)
  have evt : ((s.aonEvt 4).get R.AON_BURY_EVT).testBit 4 = true := by
    have := get_raiseBit_same (s := s) (f := R.AON_BURY_EVT) (i := 0) (b := 4) (by unfold Fld.plain; decide) (by decide) evtWord
    unfold State.aonEvt
    rw [this, Nat.testBit_or, Nat.testBit_two_pow_self, Bool.or_true]
  unfold State.noSlot State.levelOn
  split
  · next active => exact ⟨active, evt, noted.aon⟩
  · have level : Within (fun a => a == 0x8000C || a == 0x200120 || pendWord a) s ((s.aonEvt 4).raiseBit R.FLT_ACTIVE 0 7) :=
      Within.trans (noted.mono fun a ha => by simp_all) (within_raiseBit _ _ _ _ rfl rfl (by decide))
    have active : (((s.aonEvt 4).raiseBit R.FLT_ACTIVE 0 7).get R.FLT_ACTIVE 0).testBit 7 = true := by
      rw [get_raiseBit_same (by unfold Fld.plain; decide) (by decide) (by decide), Nat.testBit_or, Nat.testBit_two_pow_self, Bool.or_true]
    have evt' : (((s.aonEvt 4).raiseBit R.FLT_ACTIVE 0 7).get R.AON_BURY_EVT).testBit 4 = true := by
      have w : Within (fun a => a == 0x200120 || pendWord a) (s.aonEvt 4) ((s.aonEvt 4).raiseBit R.FLT_ACTIVE 0 7) := within_raiseBit _ _ _ _ rfl rfl (by decide)
      rw [w.get _ _ (by decide), evt]
    have same : ((s.aonEvt 4).raiseBit R.FLT_ACTIVE 0 7).reactions fsBoneNoSlot = s.reactions fsBoneNoSlot :=
      reactions_congr (level.get _ _ (by decide)) (level.get _ _ (by decide))
    have mild : ((s.aonEvt 4).raiseBit R.FLT_ACTIVE 0 7).mild fsBoneNoSlot := by
      refine ⟨same ▸ h2, same ▸ h3, ?_⟩
      unfold State.room State.unexported
      rw [level.get _ _ (by decide), level.kspi]
      exact room
    obtain ⟨a, e, aon⟩ := raise_boneNoSlot mild active evt'
    exact ⟨a, e, aon.trans level.aon⟩

end Sys2Proof.Machine

namespace Sys2Proof.Machine

/-! ### The next sector is erased (R424) -/

section erase

variable {s : State}

theorem sectorErase_done (hs : s.saveRuns = false) (he : s.aon.erased + 4 ≤ 14336) :
    s.sectorErase true = State.levelOff { s with
      kspi := { s.kspi with bones := s.kspi.bones.filter fun b => b.1 / 4 * 4 != (s.kspi.boneNext + s.aon.erased) % 14336 / 4 * 4 }
      aon := { s.aon with erased := s.aon.erased + 4 } } fsBoneNoSlot := by
  unfold State.sectorErase
  rw [if_neg (by decide), if_neg (by simp [hs, he])]

/-- Four slots more lie ahead, and none of them holds a Bone. -/
theorem sectorErase_leaves (hs : s.saveRuns = false) (he : s.aon.erased + 4 ≤ 14336) :
    (s.sectorErase true).aon.erased = s.aon.erased + 4 ∧ (s.sectorErase true).active fsBoneNoSlot = false
      ∧ (∀ k, k / 4 * 4 = (s.kspi.boneNext + s.aon.erased) % 14336 / 4 * 4 → ∀ x, x ∈ (s.sectorErase true).kspi.bones → x.1 ≠ k)
      ∧ (s.sectorErase true).mem = s.mem ∧ (s.sectorErase true).aon.kept = s.aon.kept := by
  rw [sectorErase_done hs he]
  refine ⟨by rw [State.levelOff, State.clearBit_aon], active_levelOff _, ?_, by rw [State.levelOff, State.clearBit_mem],
    by rw [State.levelOff, State.clearBit_aon]⟩
  rintro k hk x hx rfl
  rw [State.levelOff, State.clearBit_kspi] at hx
  obtain ⟨-, h⟩ := List.mem_filter.mp hx
  exact absurd hk (bne_iff_ne.mp h)

theorem sectorErase_refused (h : s.saveRuns = true ∨ 14336 < s.aon.erased + 4) : s.sectorErase true = s := by
  unfold State.sectorErase
  rw [if_neg (by decide), if_pos (by rcases h with h | h <;> simp [h])]

theorem sectorErase_failed (h : s.aon.erased ≤ 4) : s.sectorErase false = s.noSlot := by
  unfold State.sectorErase
  rw [if_pos (by decide), if_pos h]

theorem sectorErase_spare (h : 4 < s.aon.erased) : s.sectorErase false = s := by
  unfold State.sectorErase
  rw [if_pos (by decide), if_neg (Nat.not_le.mpr h)]

end erase

/-! ### A wake (R413, R415) -/

/-- The words of AON that tell the age of the Bone. -/
def ageWord (a : Nat) : Bool := decide (0x8001C ≤ a) && decide (a < 0x8002C)

theorem within_ageBy (s : State) (n : Nat) : Within ageWord s (s.ageBy n) := by
  have shown : ∀ (u : State) (rt : Nat), Within ageWord u (u.estShow rt) := by
    intro u rt
    unfold State.estShow
    dsimp only
    exact within_ite (.refl _ _) ((within_set _ _ _ _ (by decide)).trans (within_set _ _ _ _ (by decide)))
  unfold State.ageBy
  dsimp only
  refine within_ite (.refl _ _) (Within.trans (within_set _ _ _ _ (by decide)) (within_ite (.refl _ _) (shown _ _)))

/-- What a wake leaves: a Chip reset into RUN that keeps the Bone. -/
theorem wake_leaves (s : State) (age : Nat) : (s.wake age).pwr.power = .on ∧ (s.wake age).aon.vrst = false ∧ (s.wake age).get R.PWR_STATE = 0
    ∧ (s.wake age).get R.PWR_RESET_CAUSE = 4 ∧ (s.wake age).mem = [] ∧ (s.wake age).time = TimeSt.reset ∧ (s.wake age).aon.kept = s.aon.kept
    ∧ (s.wake age).kspi.bones = s.kspi.bones := by
  unfold State.wake
  dsimp only
  generalize hv : ({ s with pwr := { s.pwr with power := .on }, aon := { s.aon with vrst := false } } : State) = v
  have aged := within_ageBy v age
  obtain ⟨mem, time, -, bones, aon, power, cause⟩ := chipResetChecked_leaves (v.ageBy age) (cause := 4) (by decide)
  have run : Within (· == 0x40000) ((v.ageBy age).chipResetChecked 4) (((v.ageBy age).chipResetChecked 4).set R.PWR_STATE 0 0) :=
    within_set _ _ _ _ (by decide)
  have on : v.pwr.power = .on := by rw [← hv]
  have kept : v.aon = { s.aon with vrst := false } := by rw [← hv]
  have flash : v.kspi = s.kspi := by rw [← hv]
  rw [aged.aon, kept] at aon
  rw [aged.pwr, on] at power
  rw [aged.kspi, flash] at bones
  exact ⟨by rw [run.pwr, power], by rw [run.aon, aon], get_set_same _ (by unfold Fld.plain; decide), (run.get _ _ (by decide)).trans cause,
    run.mem.trans mem, run.time.trans time, by rw [run.aon, aon], by rw [run.kspi, bones]⟩

theorem deepWake_wakes {s : State} (cause : Fin 3) (age : Nat) (vin : BitVec 13) (hp : s.pwr.power = .deep)
    (ok : if cause = 0 then s.flag R.PWR_WAKE_CFG_WAKE_PIN_EN = true
      else if cause = 1 then s.flag R.PWR_WAKE_CFG_TIMER_EN = true ∧ s.get R.PWR_WAKE_TIME ≤ age else s.aon.vrst = true ∧ 3075 < vin.toNat) :
    s.deepWake cause age vin = (s.set R.AON_VIN_STAT_VIN_MV 0 vin.toNat).wake age := by
  unfold State.deepWake
  dsimp only
  refine if_pos ?_
  rw [hp]
  split_ifs at ok ⊢ <;> simp [ok]

theorem deepWake_sleeps {s : State} (cause : Fin 3) (age : Nat) (vin : BitVec 13) (h : s.pwr.power ≠ .deep
    ∨ ¬(if cause = 0 then s.flag R.PWR_WAKE_CFG_WAKE_PIN_EN = true
      else if cause = 1 then s.flag R.PWR_WAKE_CFG_TIMER_EN = true ∧ s.get R.PWR_WAKE_TIME ≤ age else s.aon.vrst = true ∧ 3075 < vin.toNat)) :
    s.deepWake cause age vin = s := by
  unfold State.deepWake
  dsimp only
  refine if_neg ?_
  rcases h with h | h
  · simp [h]
  · split_ifs at h ⊢ <;> simp_all

/-! ### A written Chip reset (R12) -/

theorem wordWrite_preHost {s t : State} {m : Master} {a : Nat} {v : Word} {mask : Nat} (h : s.preHost m a v = some t) : s.wordWrite m a v mask = t := by
  unfold State.wordWrite
  rw [h]

theorem irqFollow_self (s : State) : s.irqFollow s = s := by
  have edge : ∀ k, s.irqEdge s k = s := fun k => by
    unfold State.irqEdge
    rw [Bool.not_and_self]
    rfl
  unfold State.irqFollow
  simp only [List.foldl_cons, List.foldl_nil, edge]

theorem busWrite32_chipReset {s : State} {m : Master} (v : Word) (h : s.writes m (R.PWR_CHIP_RESET.at 0)) :
    s.busWrite32 m (R.PWR_CHIP_RESET.at 0) v = (if v = 0xC4E50001#32 then s.quiet.chipResetChecked 3 else s.quiet).irqFollow s.quiet := by
  have hr := rights_of_writes h
  obtain ⟨ha, -, hm⟩ := h
  have taken : s.quiet.preHost m (R.PWR_CHIP_RESET.at 0) v = some (if v = 0xC4E50001#32 then s.quiet.chipResetChecked 3 else s.quiet) := rfl
  rw [busWrite32_open ha rfl v hr (engMem_below (by decide)) hm, enabledWrite_single rfl rfl rfl, wordWrite_preHost taken]

/-! ### SRAM is cleared (R481) -/

theorem sget_filter_keys {α : Type} (p : Nat → Bool) (l : List (Nat × α)) (a : Nat) : sget (l.filter fun c => p c.1) a = if p a then sget l a else none := by
  induction l with
  | nil => simp [sget]
  | cons x l ih =>
    obtain ⟨k, v⟩ := x
    rw [List.filter_cons]
    by_cases hk : k = a
    · subst hk
      cases hp : p k <;> simp [hp, sget, ih]
    · cases p k <;> simp [sget, ih, hk]

theorem byte_memCut (s : State) (lo hi a : Nat) : (s.memCut lo hi).byte a = if lo ≤ a ∧ a < hi then 0 else s.byte a := by
  have cut : sget (s.mem.filter fun c => decide (c.1 < lo) || decide (hi ≤ c.1)) a = if (decide (a < lo) || decide (hi ≤ a)) = true then sget s.mem a else none :=
    sget_filter_keys (fun k => decide (k < lo) || decide (hi ≤ k)) s.mem a
  show (sget (s.mem.filter fun c => decide (c.1 < lo) || decide (hi ≤ c.1)) a).getD 0#8 = _
  rw [cut]
  by_cases h : lo ≤ a ∧ a < hi
  · rw [if_neg (by simp; omega), if_pos h]
    rfl
  · rw [if_pos (by simp; omega), if_neg h]
    rfl

theorem sram_cleared (s : State) (a : Nat) : ((s.memCut 0x10000000 0x10400000).memCut 0x20000000 0x21800000).byte a = if inSram a 1 = true then 0 else s.byte a := by
  have inside : inSram a 1 = true ↔ (0x10000000 ≤ a ∧ a < 0x10400000) ∨ (0x20000000 ≤ a ∧ a < 0x21800000) := by
    simp only [inSram, Bool.or_eq_true, Bool.and_eq_true, decide_eq_true_eq]
    omega
  rw [byte_memCut, byte_memCut]
  simp only [inside]
  split_ifs <;> first | rfl | omega

/-! ### VHOLD collapses (R420, R428) -/

theorem coldReset_hidden (s : State) : s.coldReset.mem = [] ∧ s.coldReset.time = TimeSt.reset ∧ (∀ n : Fin 12, s.coldReset.engine n = Engine.reset)
    ∧ s.coldReset.jobs = [] ∧ s.coldReset.kspi = s.kspi ∧ s.coldReset.sec.slotA = s.sec.slotA ∧ s.coldReset.sec.slotB = s.sec.slotB
    ∧ s.coldReset.sec.sealFuses = s.sec.sealFuses ∧ s.coldReset.aon = { AonSt.reset with erased := s.aon.erased } ∧ s.coldReset.pwr = State.reset.pwr := by
  have w := within_coldReset s
  refine ⟨w.mem, w.time, fun n => ?_, w.jobs, w.kspi, by rw [w.sec]; rfl, by rw [w.sec]; rfl, by rw [w.sec]; rfl, w.aon, w.pwr⟩
  unfold State.engine
  rw [w.eng]
  exact Vector.getElem_replicate ..

/-- Without VIN the chip is lost: the slot that a save had begun is torn, and the rest is a power off. -/
theorem vholdCollapse_off (s : State) (body : Bool) {vhold : BitVec 13} (hv : vhold.toNat < 2400) :
    ∃ u : State, s.vholdCollapse true body vhold = u.powerOff ∧ u.sec = s.sec ∧ (s.aon.save = none → u.kspi = s.kspi)
      ∧ ∀ x b, s.aon.save = some x → x.bone = some b → body = true → s.active fsBoneNoSlot = false → s.aon.erased ≠ 0 →
          u.kspi = { s.kspi with bones := sput false s.kspi.boneNext none s.kspi.bones, boneNext := (s.kspi.boneNext + 1) % 14336 }
            ∧ u.aon.erased = s.aon.erased - 1 := by
  obtain ⟨-, -, rest⟩ := vholdShow_shows s vhold
  have active := active_vholdShow s vhold fsBoneNoSlot
  unfold State.vholdCollapse
  dsimp only
  rw [if_neg (by simp [hv])]
  generalize s.vholdShow vhold = v at rest active ⊢
  have aon : v.aon = s.aon := by rw [← rest]
  have flash : v.kspi = s.kspi := by rw [← rest]
  have sec : v.sec = s.sec := by rw [← rest]
  refine ⟨_, rfl, ?_, fun none_ => ?_, fun x b hx hb hbody hact hne => ?_⟩
  · split
    · exact sec
    · exact sec
  · rw [if_neg (by simp [aon, none_])]
    exact flash
  · rw [if_pos (by simp [aon, active, hx, hb, hbody, hact, hne])]
    exact ⟨by rw [flash], by rw [aon]⟩

end Sys2Proof.Machine

/-! ## Wakes, cleared SRAM and the reset kinds -/

namespace Sys2Proof.Machine

theorem when_of_true {s : State} {c : Bool} (f : State → State) (h : c = true) : s.when_ c f = f s := if_pos h

theorem when_of_false {s : State} {c : Bool} (f : State → State) (h : c = false) : s.when_ c f = s := if_neg (by simp [h])

section clauses

variable {s : State}

theorem exec_holdRdyChange (vhold : BitVec 13) : exec (.holdRdyChange vhold) s = .next (s.when_ s.powered (·.vholdShow vhold)) := rfl

theorem exec_vholdCollapse (absent body : Bool) (vhold : BitVec 13) :
    exec (.vholdCollapse absent body vhold) s = .next (s.when_ s.powered (·.vholdCollapse absent body vhold)) := rfl

theorem vholdCollapse_holds {absent : Bool} (body : Bool) {vhold : BitVec 13} (h : absent = false ∨ 2400 ≤ vhold.toNat) :
    s.vholdCollapse absent body vhold = s.vholdShow vhold := if_pos (by rcases h with h | h <;> simp [h])

/-- The Kennel's words, fields and flags do not depend on what PWR holds. -/
theorem get_with_pwr (s : State) (x : PwrSt) (f : Fld) (i : Nat) : ({ s with pwr := x } : State).get f i = s.get f i :=
  get_of_words (s := s) (t := { s with pwr := x }) (fun _ => rfl) f i

theorem flag_with_pwr (s : State) (x : PwrSt) (f : Fld) (i : Nat) : ({ s with pwr := x } : State).flag f i = s.flag f i := by
  unfold State.flag
  rw [get_with_pwr]

theorem bank_with_pwr (s : State) (x : PwrSt) : ({ s with pwr := x } : State).bank = s.bank := by
  simp only [State.bank, flag_with_pwr]

/-- What the Kennel has read back after a Cold reset. -/
theorem coldReset_logged (s : State) : s.coldReset.get R.KNL_SEAL_CNT = (newestGood s.kspi.events.reverse).elim 0 (·.sealCnt) % 2 ^ 32
    ∧ s.coldReset.get R.KNL_MBX_CMD_CNT = lastCounter s.kspi.events % 2 ^ 64
    ∧ s.coldReset.get R.KNL_REC_WR = (newestGood s.kspi.events.reverse).elim 0 (·.seq) % 2 ^ 32 ∧ s.coldReset.get R.KNL_REC_RD = s.coldReset.get R.KNL_REC_WR
    ∧ s.coldReset.get R.KNL_AUDIT_ACK = s.kspi.ack.toNat ∧ s.coldReset.flag R.KNL_SEAL_STAT_FW_BANK = s.kspi.fwPtr
    ∧ s.coldReset.flag R.KNL_SEAL_STAT_PARAM_BANK = s.kspi.paramPtr ∧ s.coldReset.get R.KNL_SEAL_STAT_FUSES = s.sec.sealFuses % 1024
    ∧ s.coldReset.get R.KNL_PARAM_GEN = s.coldReset.bank.gen % 2 ^ 32 := get_logRestore s.coldClear

theorem coldReset_prevDig (s : State) : s.coldReset.knl.prevDig = (newestGood s.kspi.events.reverse).elim 0 fun r => sha256D r.bytes := by
  rw [(within_coldReset s).knl]
  rfl

theorem powerOff_eq (u : State) : u.powerOff = { u.coldReset with pwr := { u.coldReset.pwr with power := .off } } := rfl

theorem powerOff_leaves (u : State) : u.powerOff.pwr.power = .off ∧ u.powerOff.mem = [] ∧ u.powerOff.kspi = u.kspi ∧ u.powerOff.sec.slotA = u.sec.slotA
    ∧ u.powerOff.sec.sealFuses = u.sec.sealFuses ∧ u.powerOff.aon = { AonSt.reset with erased := u.aon.erased } := by
  obtain ⟨mem, -, -, -, kspi, slotA, -, fuses, aon, -⟩ := coldReset_hidden u
  rw [powerOff_eq]
  generalize u.coldReset = v at mem kspi slotA fuses aon ⊢
  exact ⟨rfl, mem, kspi, slotA, fuses, aon⟩

theorem strapped_eq (u : State) (quad rev : Bool) : u.strapped quad rev = { u with pwr := { u.pwr with kspiQuad := quad, laneRev := rev } } := rfl

/-- The straps have no part in the tags of the key store. -/
theorem slotsSound_strapped {v : State} (h : v.slotsSound) (quad rev : Bool) : (v.strapped quad rev).slotsSound := h

theorem exec_coldReset (quad rev : Bool) : exec (.coldReset quad rev) s = .next (s.coldReset.strapped quad rev).slotsCheck := rfl

theorem exec_powerOff : exec .powerOff s = .next s.powerOff := rfl

theorem exec_chipReset (cause : BitVec 3) : exec (.chipReset cause) s = .next (s.when_ (s.pwr.power == Power.on) (·.chipResetChecked cause.toNat)) := rfl

end clauses

/-- Settles O52: the list of register words under a reset, word by word, and what the raised sources on the way change. -/
theorem wakeClearAndResets : Obligations.WakeClearAndResets := by
  unfold Obligations.WakeClearAndResets
  refine ⟨fun s => ⟨?hold, ?collapse, ?erased, ?refused, ?noSlot, ?spare, ?wake, ?chipWritten, ?sram, ?sramStands⟩, fun s => ?kinds⟩
  case hold =>
    intro vhold
    refine ⟨fun on => ⟨_, rfl, ?_⟩, fun off => ⟨?_, fun a b => ?_⟩⟩
    · rw [when_of_true _ on]
      exact vholdShow_shows s vhold
    · rw [exec_holdRdyChange, when_of_false _ off]
    · rw [exec_vholdCollapse, when_of_false _ off]
  case collapse =>
    intro absent body vhold on
    refine ⟨fun h => ⟨_, rfl, ?_⟩, fun gone low => ⟨_, rfl, ?_⟩⟩
    · rw [when_of_true _ on, vholdCollapse_holds body h]
      exact vholdShow_shows s vhold
    · subst gone
      obtain ⟨u, e, sec, idle, torn⟩ := vholdCollapse_off s body low
      obtain ⟨off, mem, kspi, slotA, fuses, aon⟩ := powerOff_leaves u
      rw [when_of_true _ on, e]
      refine ⟨off, by rw [aon]; rfl, by rw [aon]; rfl, mem, by rw [slotA, sec], by rw [fuses, sec], fun h => kspi.trans (idle h), fun x b hx hb hbody hact hne => ?_⟩
      obtain ⟨flash, left⟩ := torn x b hx hb hbody hact hne
      exact ⟨kspi.trans flash, by rw [aon, left]⟩
  case erased => exact fun hs he => ⟨_, rfl, sectorErase_leaves hs he⟩
  case refused => exact fun h => congrArg Host.Outcome.next (sectorErase_refused h)
  case noSlot =>
    intro he hm
    refine ⟨_, congrArg Host.Outcome.next (sectorErase_failed he), noSlot_leaves hm⟩
  case spare => exact fun h => congrArg Host.Outcome.next (sectorErase_spare h)
  case wake =>
    intro cause age vin
    refine ⟨fun hp ok => ⟨_, congrArg Host.Outcome.next (deepWake_wakes cause age vin hp ok), ?_⟩,
      fun h => congrArg Host.Outcome.next (deepWake_sleeps cause age vin h)⟩
    obtain ⟨on, vrst, run, reset, mem, time, kept, bones⟩ := wake_leaves (s.set R.AON_VIN_STAT_VIN_MV 0 vin.toNat) age
    exact ⟨on, vrst, run, reset, mem, time, kept.trans (by rw [State.set_aon]), bones.trans (by rw [State.set_kspi])⟩
  case chipWritten =>
    intro m v hw
    have write := busWrite32_chipReset v hw
    refine ⟨fun hv => ⟨_, congrArg Host.Outcome.next write, ?_⟩, fun hv => ⟨_, congrArg Host.Outcome.next write, ?_⟩⟩
    · rw [if_pos hv]
      obtain ⟨mem, time, eng, bones, aon, -, cause⟩ := chipResetChecked_leaves s.quiet (cause := 3) (by decide)
      have follow := within_irqFollow (s.quiet.chipResetChecked 3) s.quiet
      refine ⟨(follow.get _ _ (by decide)).trans cause, follow.mem.trans mem, follow.time.trans time, fun n => ?_, by rw [follow.kspi, bones]; rfl,
        follow.aon.trans aon⟩
      rw [← eng n, State.engine, State.engine, follow.eng]
    · rw [if_neg hv, irqFollow_self]
      exact ⟨rfl, rfl, rfl, rfl⟩
  case sram =>
    intro hs hr
    refine ⟨_, congrArg Host.Outcome.next (when_of_true _ (by simp [hs, hr])), rfl, rfl, fun a ha => ?_, fun a ha => ?_⟩
    · exact (sram_cleared s a).trans (if_pos ha)
    · exact (sram_cleared s a).trans (if_neg (by simp [ha]))
  case sramStands =>
    intro h
    exact congrArg Host.Outcome.next (when_of_false _ (by rcases h with h | h <;> simp [h]))
  case kinds =>
    intro takes sound cleared last logged ownWord cold
    have coldLeft : s.wf → ∀ x : PwrSt, cold { s.coldReset with pwr := x } := by
      intro hwf x
      obtain ⟨mem, time, eng, jobs, kspi, slotA, slotB, fuses, aon, -⟩ := coldReset_hidden s
      obtain ⟨sealCnt, cmdCnt, wr, rd, ack, fw, param, burned, gen⟩ := coldReset_logged s
      have digest := coldReset_prevDig s
      have word := fun a (ha : rwsOff a = none) (hown : a ∉ ownWords) => coldReset_word hwf.1 ha hown
      generalize s.coldReset = v at mem time eng jobs kspi slotA slotB fuses aon sealCnt cmdCnt wr rd ack fw param burned gen digest word ⊢
      refine ⟨⟨mem, time, eng, jobs, kspi, slotA, slotB, fuses⟩, congrArg AonSt.kept aon, ?_, word⟩
      simp only [logged, get_with_pwr, flag_with_pwr, bank_with_pwr]
      exact ⟨sealCnt, cmdCnt, wr, rd, ack, digest, fw, param, burned, gen⟩
    refine ⟨fun quad rev hwf hs => ?_, fun hwf => ⟨_, exec_powerOff, ?_, ?_⟩, fun cause => ⟨fun off => ?_, fun hwf hs on => ?_⟩, fun u hwf => ?_⟩
    · have straps : (s.coldReset.strapped quad rev).slotsSound := slotsSound_strapped (coldReset_slotsSound hwf.1 hs) quad rev
      obtain ⟨-, -, -, -, -, -, -, -, -, pwr⟩ := coldReset_hidden s
      refine ⟨_, (exec_coldReset quad rev).trans (congrArg Host.Outcome.next (slotsCheck_sound straps)), ?_, ?_⟩
      · rw [strapped_eq]
        exact coldLeft hwf _
      · rw [strapped_eq, pwr]
    · rw [powerOff_eq]
      exact coldLeft hwf _
    · obtain ⟨off, -⟩ := powerOff_leaves s
      exact off
    · rw [exec_chipReset, when_of_false _ (by simpa using off)]
    · obtain ⟨u, chip, synced⟩ := chipReset_cleared cause.toNat s
      obtain ⟨rd, wr, sticky, valid, first⟩ := chipReset_kept cause.toNat hwf.1
      have run : exec (.chipReset cause) s = .next (s.chipReset cause.toNat) := by
        rw [exec_chipReset, when_of_true _ (by simp [on]), chipResetChecked_eq, slotsCheck_sound (chipReset_slotsSound _ hwf.1 hs)]
      refine ⟨_, run, ⟨synced.mem.trans chip.mem, synced.time.trans chip.time, fun n => ?_, synced.jobs.trans chip.jobs, synced.kspi.trans chip.kspi,
        by rw [synced.sec, chip.slotA], by rw [synced.sec, chip.slotB], by rw [synced.sec, chip.sealFuses]⟩, synced.aon.trans chip.aon,
        chipReset_cause _ s cause.isLt, rd, wr, by rw [synced.knl, chip.prevDig], sticky, valid, first, fun a ha h1 h2 h3 h4 => ?_⟩
      · rw [State.engine, synced.eng, chip.eng]
        exact Vector.getElem_replicate ..
      · refine chipReset_word _ hwf.1 ha ?_
        simp only [chipWord, Bool.or_eq_false_iff, beq_eq_false_iff_ne]
        exact ⟨⟨⟨h1, h2⟩, h3⟩, h4⟩
    · have held := blockReset_held hwf u
      refine ⟨_, rfl, held.mem, held.time, held.kspi, held.pwr, held.aon, held.knl, ?_, ?_, ?_, held.dbg, fun a ha htgt hdbg => held.word a ha ?_⟩
      · rintro n rfl
        exact ⟨engine_setEng_same _ n _, fun k hk => engine_setEng_ne _ _ hk⟩
      · rintro rfl
        exact ⟨rfl, rfl⟩
      · rintro rfl
        rfl
      · simp only [List.mem_cons, List.not_mem_nil, or_false, not_or] at hdbg
        obtain ⟨h1, h2, h3⟩ := hdbg
        simp only [blockWord, dbgWord, Bool.or_eq_false_iff, beq_eq_false_iff_ne]
        exact ⟨⟨⟨h1, h2⟩, h3⟩, htgt⟩

end Sys2Proof.Machine

/-! ## A lost reference of a state that lists the selector's register twice -/

namespace Sys2Proof.Machine

/-- REF_LOSS_TIMEOUT of a reference that is overdue (R88). -/
theorem exec_refLossTimeout_overdue {s : State} {n : Fin 23} (h : s.refOverdue n = true) : exec (.refLossTimeout n) s = .next (s.refLoss n) :=
  congrArg Host.Outcome.next (when_of_true (·.refLoss n) h)

/-- The state in which a lost reference asks for the selector: it is ABSENT, counted and raised (R88). -/
def State.refLost (s : State) (n : Fin 23) : State := ((s.refMove n rAbsent (some 1)).bump R.REF_CNT_LOSSES n).raise fsRefLost n.val

/-- The loss of a reference that was present: when it is the selected one, the selector runs at once (R97). -/
theorem refLoss_selected {s : State} {n : Fin 23} (seen : rQualifying ≤ s.refState n) (selected : (s.refLost n).get R.REF_STAT_SEL_REF = n.val) :
    s.refLoss n = ((s.refLost n).select false).leashWiden :=
  (if_neg (Nat.not_lt.mpr seen)).trans (if_pos selected)

/-- A state whose register list is not canonical: it names REF_STAT twice, first at its reset entry, where nothing is selected, then with REF0
selected. REF0 to REF2 are QUALIFIED, REF1 and REF2 of one RANK and further apart than REF_AGREE. Guard is NORMAL; REF_LOST asks for an NMI of E2,
REF_RANK_CONFLICT for a Chip reset, which CHIP_ALONE allows; E2 runs, and an NMI resets it. -/
def selTwice : State :=
  { State.reset with regs := [
      (R.FLT_CFG_CHIP_ALONE.at 0, 1), (R.FLT_GUARD_STAT_STATE.at 0, 0),
      (R.FLT_REACT_REACT.at fsRefLost, 0x2), (R.FLT_REACT_REACT.at fsRefRankConflict, 0x8),
      (R.REF_STAT_SEL_REF.at 0, 31), (R.REF_STAT_SEL_REF.at 0, 0),
      (R.REF_STATE_STATE.at 0, 3), (R.REF_STATE_STATE.at 1, 0x100003), (R.REF_STATE_STATE.at 2, 0x100003), (R.REF_FREQ.at 2, 1000000),
      (R.ENG_STAT_STATE.at 2, 3), (R.ENG_TRAP_CFG.at 2, 0x80000)] }

/-- REF0 is present, overdue and not selected, and the reactions of REF_LOST reset nothing. -/
theorem selTwice_loses : 2 ≤ selTwice.refState (0 : Fin 23) ∧ selTwice.refOverdue 0 = true
    ∧ selTwice.get R.REF_STAT_SEL_REF ≠ (0 : Fin 23).val ∧ selTwice.mild fsRefLost := by
  unfold State.mild State.room
  decide +kernel

/-- The NMI resets E2, which drops entries that stand at their reset entry (R12), so the second entry of REF_STAT shows: REF0 is selected. -/
theorem selTwice_refLost_selected : (selTwice.refLost 0).get R.REF_STAT_SEL_REF = (0 : Fin 23).val := by
  decide +kernel

/-- The selector then meets the rank conflict, whose Chip reset leaves REF0 DISABLED. -/
theorem selTwice_select_disabled : ((selTwice.refLost 0).select false).leashWiden.refState (0 : Fin 23) = rDisabled := by
  decide +kernel

/-- Refutes O25, in its clause of losses: nothing in the statement asks for a canonical state. In `selTwice` REF0 is not selected and REF_LOST
resets nothing but E2, so REF0 should end ABSENT; but the NMI of that loss makes it the selected reference, the selector runs, and REF0 ends
DISABLED by a Chip reset. -/
theorem not_referencesAndInlets : ¬ Obligations.ReferencesAndInlets := by
  unfold Obligations.ReferencesAndInlets
  rintro ⟨edges, -⟩
  obtain ⟨-, -, -, loss⟩ := edges selTwice 0 0 0
  obtain ⟨seen, overdue, unselected, mild⟩ := selTwice_loses
  obtain ⟨t, e, absent, -⟩ := loss seen overdue unselected mild
  have lost : selTwice.refLoss 0 = t := Host.Outcome.next.inj ((exec_refLossTimeout_overdue overdue).symm.trans e)
  rw [← lost, refLoss_selected seen selTwice_refLost_selected, selTwice_select_disabled] at absent
  exact absurd absent (by decide)

end Sys2Proof.Machine

/-! ## What leaves the time, its words and the memories -/

namespace Sys2Proof.Machine

/-- The words of the Kennel that tell of time (R59), and the command counter. -/
def timeWord (a : Nat) : Bool :=
  (decide (0x1002000 ≤ a) && decide (a < 0x10020B0)) || (decide (0x1000210 ≤ a) && decide (a < 0x1000218))

theorem timeWord_apart {a : Nat} (h : a < 0x1000210 ∨ 0x1000218 ≤ a ∧ a < 0x1002000 ∨ 0x10020B0 ≤ a) : timeWord a = false := by
  simp only [timeWord, Bool.or_eq_false_iff, Bool.and_eq_false_iff, decide_eq_false_iff_not]
  omega

/-- `t` has the time, the memories, the power and the words of time of `s`. -/
structure Aside (s t : State) : Prop where
  time : t.time = s.time
  mem : t.mem = s.mem
  pwr : t.pwr = s.pwr
  word : ∀ a, timeWord a = true → t.word a = s.word a

/-- `t` has the engines of `s` too. -/
structure Apart (s t : State) : Prop extends Aside s t where
  eng : t.eng = s.eng

section frames

variable {r s t : State}

theorem Aside.refl (s : State) : Aside s s := ⟨rfl, rfl, rfl, fun _ _ => rfl⟩

theorem Aside.trans (h : Aside r s) (k : Aside s t) : Aside r t :=
  ⟨k.time.trans h.time, k.mem.trans h.mem, k.pwr.trans h.pwr, fun a ha => (k.word a ha).trans (h.word a ha)⟩

theorem Aside.get (h : Aside s t) (f : Fld) (i : Nat) (hf : ∀ k < f.words, timeWord (f.at i + 4 * k) = true) : t.get f i = s.get f i := by
  unfold State.get
  rw [wordsN_congr fun k hk => h.word _ (hf k hk)]

theorem Aside.mode (h : Aside s t) : t.mode = s.mode := h.get _ _ (by decide)

theorem Aside.inLc (h : Aside s t) : t.inLc = s.inLc := by
  unfold State.inLc
  rw [h.mode]

theorem Aside.rt (h : Aside s t) : t.rt = s.rt := by
  unfold State.rt
  rw [h.inLc, h.time]

theorem Apart.refl (s : State) : Apart s s := ⟨.refl s, rfl⟩

theorem Apart.trans (h : Apart r s) (k : Apart s t) : Apart r t := ⟨h.toAside.trans k.toAside, k.eng.trans h.eng⟩

theorem Apart.ite {u : State} {c : Prop} [Decidable c] (h : Apart s t) (k : Apart s u) : Apart s (if c then t else u) := by
  split
  · exact h
  · exact k

theorem Aside.ite {u : State} {c : Prop} [Decidable c] (h : Aside s t) (k : Aside s u) : Aside s (if c then t else u) := by
  split
  · exact h
  · exact k

theorem Apart.foldl {α : Type} (l : List α) (g : State → α → State) (h : ∀ u, ∀ x ∈ l, Apart u (g u x)) : Apart s (l.foldl g s) := by
  induction l generalizing s with
  | nil => exact .refl s
  | cons x l ih => exact (h s x (List.mem_cons_self ..)).trans (ih fun u y hy => h u y (List.mem_cons_of_mem _ hy))

theorem Apart.forN (n : Nat) (g : Nat → State → State) (h : ∀ u, ∀ k < n, Apart u (g k u)) : Apart s (s.forN n g) :=
  Apart.foldl _ _ fun u k hk => h u k (List.mem_range.mp hk)

/-- What changes register words alone, none of them a word of time. -/
theorem Within.apart {p : Nat → Bool} (h : Within p s t) (hp : ∀ a, timeWord a = true → p a = false) : Apart s t :=
  ⟨⟨h.time, h.mem, h.pwr, fun a ha => h.word a (hp a ha)⟩, h.eng⟩

end frames

/-! ### Fields and events outside the words of time -/

section fields

variable (s : State)

theorem within_apart {s t : State} (h : Within (fun a => !timeWord a) s t) : Apart s t := h.apart fun a ha => by rw [ha]; rfl

theorem apart_set (f : Fld) (i v : Nat) (h : ∀ k < f.words, timeWord (f.at i + 4 * k) = false) : Apart s (s.set f i v) :=
  within_apart (within_set _ _ _ _ fun k hk => by rw [h k hk]; rfl)

theorem high_word {f : Fld} (i k : Nat) (h : 0x10020B0 ≤ f.addr) : timeWord (f.at i + 4 * k) = false := by
  refine timeWord_apart (.inr (.inr ?_))
  unfold Fld.at
  omega

/-- A field of a block above the Kennel. -/
theorem apart_high (f : Fld) (i v : Nat) (h : 0x10020B0 ≤ f.addr) : Apart s (s.set f i v) := apart_set s f i v fun k _ => high_word i k h

theorem apart_raiseBit (f : Fld) (i b : Nat) (h : 0x10020B0 ≤ f.addr) : Apart s (s.raiseBit f i b) :=
  within_apart (within_raiseBit _ _ _ _ rfl rfl fun k _ => by rw [high_word i k h]; rfl)

theorem apart_irq (src : Nat) : Apart s (s.irq src) := within_apart (within_irq _ _ rfl rfl)

theorem obsWord_aside {a : Nat} (h : timeWord a = true) : obsWord a = false := by
  simp only [timeWord, obsWord, Bool.or_eq_true, Bool.and_eq_true, decide_eq_true_eq, Bool.or_eq_false_iff, Bool.and_eq_false_iff, decide_eq_false_iff_not] at h ⊢
  omega

theorem apart_obs (code loc k : Nat) : Apart s (s.obs code loc k) := (within_obs s code loc k).apart fun _ => obsWord_aside

theorem apart_obsAdd (k by_ : Nat) (h : k < 32) : Apart s (s.obsAdd k by_) := by
  have at_ : R.OBS_CNT.at k = 0x301004 + 0x10 * k := rfl
  have counted : ∀ v, Apart s (s.set R.OBS_CNT k v) := fun v => apart_set s _ _ _ fun j hj => by
    have : j < 2 := hj
    exact timeWord_apart (.inl (by omega))
  unfold State.obsAdd
  exact ((counted _).trans (within_apart (within_raiseBit _ _ _ _ rfl rfl (by decide)))).ite (counted _)

end fields

/-! ### References, Leash, outputs and ports -/

section blocks

variable (s : State)

theorem apart_hidden {s t : State} (regs : t.regs = s.regs) (time : t.time = s.time) (mem : t.mem = s.mem) (pwr : t.pwr = s.pwr) (eng : t.eng = s.eng)
    (knl : t.knl = s.knl) : Apart s t :=
  ⟨⟨time, mem, pwr, fun a _ => by unfold State.word State.store; rw [regs, knl]⟩, eng⟩

theorem apart_showHold : Apart s s.showHold := apart_high _ _ _ _ (by decide)

/-- The words of the blocks from the Leash on, and HST_IRQ_PEND. -/
def leashWord (a : Nat) : Bool := decide (0x1400000 ≤ a) || pendWord a

theorem leashWord_aside {a : Nat} (h : timeWord a = true) : leashWord a = false := by
  simp only [timeWord, leashWord, pendWord, Bool.or_eq_true, Bool.and_eq_true, decide_eq_true_eq, Bool.or_eq_false_iff, Bool.and_eq_false_iff,
    decide_eq_false_iff_not] at h ⊢
  omega

theorem within_leash (f : Fld) (i v : Nat) (h : 0x1400000 ≤ f.addr) : Within leashWord s (s.set f i v) :=
  within_set _ _ _ _ fun k _ => by
    have high : 0x1400000 ≤ f.at i + 4 * k := by unfold Fld.at; omega
    unfold leashWord
    rw [decide_eq_true high]
    rfl

theorem within_lshShow (core held flags : Nat) (x : Terms) : Within leashWord s (s.lshShow core held flags x) := by
  unfold State.lshShow
  extract_lets
  refine Within.trans ?_ (within_ite (.refl _ _) (within_irq _ _ rfl rfl))
  iterate 14 refine Within.trans ?_ (within_leash _ _ _ _ (by decide))
  exact within_leash _ _ _ _ (by decide)

theorem apart_lshShow (core held flags : Nat) (x : Terms) : Apart s (s.lshShow core held flags x) := (within_lshShow s core held flags x).apart fun _ => leashWord_aside

theorem leashWiden_get (f : Fld) (i : Nat) (h : ∀ k < f.words, leashWord (f.at i + 4 * k) = false) : s.leashWiden.get f i = s.get f i := by
  have known : ∀ x : LshSt, ({ s with lsh := x } : State).get f i = s.get f i := fun x => get_of_words (s := s) (t := { s with lsh := x }) (fun _ => rfl) f i
  exact ((within_lshShow _ _ _ _ _).get f i h).trans (known _)

theorem apart_leashWiden : Apart s s.leashWiden := by
  have known : ∀ x : LshSt, Apart s { s with lsh := x } := fun _ => apart_hidden rfl rfl rfl rfl rfl rfl
  exact (known _).trans (apart_lshShow _ _ _ _ _)

theorem apart_carryLess (ps : Nat) : Apart s (s.carryLess ps) := by
  have known : ∀ x : LshSt, Apart s { s with lsh := x } := fun _ => apart_hidden rfl rfl rfl rfl rfl rfl
  exact (Apart.refl s).ite ((known _).trans (apart_showHold _))

theorem apart_holdBase (rt : Nat) : Apart s (s.holdBase rt) := apart_hidden rfl rfl rfl rfl rfl rfl

theorem apart_setServo (v : Nat) : Apart s (s.setServo v) := by
  have known : ∀ (u : State) (x : LshSt), Apart u { u with lsh := x } := fun _ _ => apart_hidden rfl rfl rfl rfl rfl rfl
  have learned : ∀ (u : State) (x : RefsSt) (y : LshSt), Apart u { u with refs := x, lsh := y } := fun _ _ _ => apart_hidden rfl rfl rfl rfl rfl rfl
  have run : ∀ (u : State) (x : RefsSt), Apart u { u with refs := x } := fun _ _ => apart_hidden rfl rfl rfl rfl rfl rfl
  unfold State.setServo
  extract_lets old s1 s2 s3 s4 _ s5 _ _ _ _ s6
  refine (Apart.refl s).ite ?_
  have h1 : Apart s s1 := apart_high _ _ _ _ (by decide)
  have h2 : Apart s1 s2 := apart_high _ _ _ _ (by decide)
  have h3 : Apart s2 s3 := (apart_raiseBit _ _ _ _ (by decide)).ite (.refl _)
  have h4 : Apart s3 s4 := ((apart_raiseBit _ _ _ _ (by decide)).trans (apart_high _ _ _ _ (by decide))).ite (.refl _)
  have h5 : Apart s4 s5 := run _ _
  have h6 : Apart s5 s6 := ((apart_high s5 R.REF_LOCK_TIME 0 0 (by decide)).trans (learned _ _ _)).ite ((known _ _).ite (.refl _))
  exact ((((((h1.trans h2).trans h3).trans h4).trans h5).trans h6).trans (apart_showHold _))

theorem apart_phaseAgain : Apart s s.phaseAgain :=
  ((apart_high _ _ _ _ (by decide)).trans (apart_high _ _ _ _ (by decide))).ite (.refl _)

theorem apart_launchAgain : Apart s s.launchAgain := apart_hidden rfl rfl rfl rfl rfl rfl

theorem apart_outRealign (j : Nat) : Apart s (s.outRealign j) := (apart_high _ _ _ _ (by decide)).ite (.refl _)

theorem apart_synEvt (b : Nat) : Apart s (s.synEvt b) := apart_raiseBit _ _ _ _ (by decide)

theorem apart_stepRealign : Apart s s.stepRealign := by
  have grids : Apart s (s.forN 16 fun j s => if s.sh true R.SYN_SP_CFG_MODE (pllOf j) = 1 then s.outRealign j else s) :=
    .forN _ _ fun u j _ => (apart_outRealign u j).ite (.refl u)
  exact (grids.trans (apart_synEvt _ _)).ite grids

theorem apart_synMismatch (err : Nat) : Apart s (s.synMismatch err) := by
  have placed : ∀ js : List Nat, Apart s (js.foldl (fun s j => s.outRealign j) s) := fun _ => .foldl _ _ fun u j _ => apart_outRealign u j
  exact (placed _).ite ((placed _).trans (apart_synEvt _ _))

theorem apart_degrSync1 (i : Fin 68) : Apart s (s.degrSync1 i) := by
  unfold State.degrSync1
  cases portOf i with
  | none => exact apart_high _ _ _ _ (by decide)
  | some p =>
    have shown : ∀ on, Apart s (s.setFlag R.PRT_STAT_DEGRADED p on) := fun on => apart_high _ _ _ _ (by decide)
    exact (Apart.refl s).ite (((shown _).trans (apart_raiseBit _ _ _ _ (by decide))).ite (shown _))

theorem apart_degrSync : Apart s s.degrSync := .foldl _ _ fun u i _ => apart_degrSync1 u i

/-! ### What else falls on a tick (R29, R50) -/

theorem apart_ensyField (c : Nat) (v : DWord) : Apart s (s.ensyField c v) := by
  have given : ∀ x : RefsSt, Apart s { s with refs := x } := fun _ => apart_hidden rfl rfl rfl rfl rfl rfl
  have field : ∀ (f : Fld) (i x : Nat), 0x10020B0 ≤ f.addr → Apart s (s.set f i x) := fun f i x h => apart_high s f i x h
  unfold State.ensyField
  dsimp only
  refine ((given _).trans (apart_high _ _ _ _ (by decide))).ite ((field _ _ _ (by decide)).ite ((field _ _ _ (by decide)).ite
    ((field _ _ _ (by decide)).ite ?_)))
  split
  case h_5 => exact (field _ _ _ (by decide)).trans (apart_high _ _ _ _ (by decide))
  case h_9 => exact apart_setServo s _
  case h_10 => exact ((field _ _ _ (by decide)).trans (apart_leashWiden _)).ite (field _ _ _ (by decide))
  all_goals exact field _ _ _ (by decide)

theorem apart_ensyTick : Apart s s.ensyTick := by
  have given : ∀ x : RefsSt, Apart s { s with refs := x } := fun _ => apart_hidden rfl rfl rfl rfl rfl rfl
  exact (given _).trans (.foldl _ _ fun u x _ => apart_ensyField u x.1 x.2)

theorem apart_roleExchange (c : Fin 16) : Apart s (s.roleExchange c) := by
  have channel : ∀ x : TdcCh, Apart s (s.setTdc c x) := fun _ => apart_hidden rfl rfl rfl rfl rfl rfl
  exact (channel _).ite ((channel _).trans (apart_high _ _ _ _ (by decide)))

theorem apart_tdcTick : Apart s s.tdcTick := by
  have ended : ∀ x : TimSt, Apart s { s with tim := x } := fun _ => apart_hidden rfl rfl rfl rfl rfl rfl
  exact (ended _).trans (.foldl _ _ fun u c _ => apart_roleExchange u c)

theorem apart_saveCapture : Apart s s.saveCapture := by
  have captured : ∀ x : AonSt, Apart s { s with aon := x } := fun _ => apart_hidden rfl rfl rfl rfl rfl rfl
  unfold State.saveCapture
  split
  · exact (captured _).trans (apart_set _ _ _ _ (by decide))
  · exact .refl s

theorem apart_occCount (k : Nat) (h : k < 32) : Apart s (s.occCount k) := (apart_obsAdd _ _ _ h).ite (.refl s)

/-- A tick in which time runs: the count, and what keeps the time. -/
theorem tick_apart (h : s.time.running = true) : Apart s.tickOn s.tick := by
  unfold State.tick
  rw [h]
  extract_lets s1 s2
  have h1 : Apart s.tickOn s1 := ((apart_tdcTick _).trans (apart_ensyTick _)).trans (apart_saveCapture _)
  have h2 : Apart s1 s2 := (apart_degrSync _).ite (.refl _)
  exact (h1.trans h2).trans ((Apart.forN _ _ fun u k hk => apart_occCount u k hk).ite (.refl _))

end blocks

end Sys2Proof.Machine

/-! ## The count of a tick (R29, R50) -/

namespace Sys2Proof.Machine

/-- Whole seconds and a part below one second, as one number of 96 bits. -/
theorem time_split (secs u : Nat) (hu : u < 2 ^ 48) : (BitVec.ofNat 96 (secs * 2 ^ 48 + u)).toNat = secs % 2 ^ 48 * 2 ^ 48 + u := by
  rw [BitVec.toNat_ofNat]
  omega

/-- LC with its fraction, `n` ticks on (R29). -/
theorem lcAfter_count (inc : Nat) (lc : Time) (frac : Word) (n : Nat) :
    (lcAfter inc lc frac n).1.toNat * 2 ^ 32 + (lcAfter inc lc frac n).2.toNat = (lc.toNat * 2 ^ 32 + frac.toNat + n * inc) % 2 ^ 128 := by
  unfold lcAfter
  dsimp only
  rw [BitVec.toNat_ofNat, BitVec.toNat_ofNat]
  omega

section snCount

variable {sn : Time} {cad : Nat}

/-- Within a second, the units of the SN count go on by the step of the cadence (R50). -/
theorem snNext_within (h : sn.toNat % 2 ^ 48 + snStep cad < 1000000000 * 2 ^ 16) :
    (snNext sn cad).toNat = sn.toNat / 2 ^ 48 * 2 ^ 48 + (sn.toNat % 2 ^ 48 + snStep cad) := by
  have bound : sn.toNat / 2 ^ 48 < 2 ^ 48 := by have := sn.isLt; omega
  unfold snNext snUnits secOf
  dsimp only
  rw [if_neg (Nat.not_le.mpr h), time_split _ _ (by omega), Nat.mod_eq_of_lt bound]

/-- At the end of a second they carry (R50). -/
theorem snNext_carries (hu : sn.toNat % 2 ^ 48 < 1000000000 * 2 ^ 16) (h : 1000000000 * 2 ^ 16 ≤ sn.toNat % 2 ^ 48 + snStep cad) :
    (snNext sn cad).toNat = (sn.toNat / 2 ^ 48 + 1) % 2 ^ 48 * 2 ^ 48 + (sn.toNat % 2 ^ 48 + snStep cad - 1000000000 * 2 ^ 16) := by
  have step : snStep cad ≤ 54614 := by unfold snStep; split <;> decide
  unfold snNext snUnits secOf
  dsimp only
  rw [if_pos h, time_split _ _ (by omega)]

/-- The SN count in units of 2⁻¹⁶ ns. -/
def snTotal (x : Time) : Nat := x.toNat / 2 ^ 48 * (1000000000 * 2 ^ 16) + x.toNat % 2 ^ 48

/-- A step of the cadence adds its units to the count, which stays in form. -/
theorem snTotal_snNext (hu : sn.toNat % 2 ^ 48 < 1000000000 * 2 ^ 16)
    (hs : sn.toNat / 2 ^ 48 + 1 < 2 ^ 48 ∨ sn.toNat % 2 ^ 48 + snStep cad < 1000000000 * 2 ^ 16) :
    snTotal (snNext sn cad) = snTotal sn + snStep cad ∧ (snNext sn cad).toNat % 2 ^ 48 < 1000000000 * 2 ^ 16
      ∧ ((snNext sn cad).toNat / 2 ^ 48 = sn.toNat / 2 ^ 48 ∧ (snNext sn cad).toNat % 2 ^ 48 = sn.toNat % 2 ^ 48 + snStep cad
        ∨ (snNext sn cad).toNat / 2 ^ 48 = sn.toNat / 2 ^ 48 + 1 ∧ (snNext sn cad).toNat % 2 ^ 48 < snStep cad) := by
  have step : snStep cad ≤ 54614 := by unfold snStep; split <;> decide
  unfold snTotal
  by_cases h : sn.toNat % 2 ^ 48 + snStep cad < 1000000000 * 2 ^ 16
  · have next := snNext_within h
    omega
  · have next := snNext_carries hu (Nat.not_lt.mp h)
    omega

/-- Three steps of the cadence make 2.5 ns (R50). -/
theorem snTotal_three {x : Time} (hu : x.toNat % 2 ^ 48 < 1000000000 * 2 ^ 16) (hs : x.toNat / 2 ^ 48 < 2 ^ 48 - 1) :
    snTotal (snNext (snNext (snNext x 0) 1) 2) = snTotal x + 163840 := by
  have s0 : snStep 0 = 54613 := rfl
  have s1 : snStep 1 = 54613 := rfl
  have s2 : snStep 2 = 54614 := rfl
  obtain ⟨t0, u0, c0⟩ := snTotal_snNext (cad := 0) hu (by omega)
  obtain ⟨t1, u1, c1⟩ := snTotal_snNext (cad := 1) u0 (by omega)
  obtain ⟨t2, -, -⟩ := snTotal_snNext (cad := 2) u1 (by omega)
  omega

end snCount

/-! ### A tick -/

section tick

variable {s : State}

/-- A count moved on. -/
def State.counted (s : State) (lc : Time) (frac : Word) (sn : Time) (cad tick prev : Nat) : State :=
  { s with time := { s.time with lc := lc, frac := frac, sn := sn, cad := cad, tick := tick, prevSec := prev } }

theorem counted_moves (s : State) (lc : Time) (frac : Word) (sn : Time) (cad tick prev : Nat) :
    (s.counted lc frac sn cad tick prev).time = { s.time with lc := lc, frac := frac, sn := sn, cad := cad, tick := tick, prevSec := prev }
      ∧ (s.counted lc frac sn cad tick prev).mem = s.mem ∧ (s.counted lc frac sn cad tick prev).eng = s.eng
      ∧ (s.counted lc frac sn cad tick prev).mode = s.mode := ⟨rfl, rfl, rfl, get_of_words (fun _ => rfl) _ _⟩

theorem tickOn_runs (h : s.time.running = true) : s.tickOn = s.counted (lcAfter s.lcInc s.time.lc s.time.frac 1).1
    (lcAfter s.lcInc s.time.lc s.time.frac 1).2 (snNext s.time.sn s.time.cad) ((s.time.cad + 1) % 3) (s.time.tick + 1)
    (if s.rtSec > s.time.prevSec then s.time.prevSec else s.rtSec) := by
  unfold State.tickOn
  exact if_neg (by rw [h]; decide)

theorem exec_kpllTick : exec .kpllTick s = .next s.tick := rfl

theorem exec_kpllTick_stopped (h : s.time.running = false) : exec .kpllTick s = .next s := by
  rw [exec_kpllTick]
  unfold State.tick
  rw [h]
  rfl

/-- What a tick does to the time, and what it leaves (R29, R50). -/
theorem tick_counts (h : s.time.running = true) :
    s.tick.time.lc.toNat * 2 ^ 32 + s.tick.time.frac.toNat = (s.time.lc.toNat * 2 ^ 32 + s.time.frac.toNat + s.lcInc) % 2 ^ 128
      ∧ s.tick.time.sn = snNext s.time.sn s.time.cad ∧ s.tick.time.cad = (s.time.cad + 1) % 3 ∧ s.tick.time.tick = s.time.tick + 1
      ∧ s.tick.time.cset = s.time.cset ∧ s.tick.mode = s.mode ∧ s.tick.mem = s.mem ∧ s.tick.eng = s.eng := by
  have rest := tick_apart s h
  have count := lcAfter_count s.lcInc s.time.lc s.time.frac 1
  rw [Nat.one_mul] at count
  rw [rest.time, rest.mem, rest.eng, rest.mode, tickOn_runs h]
  generalize (lcAfter s.lcInc s.time.lc s.time.frac 1).1 = lc at count ⊢
  generalize (lcAfter s.lcInc s.time.lc s.time.frac 1).2 = frac at count ⊢
  obtain ⟨time, mem, eng, mode⟩ := counted_moves s lc frac (snNext s.time.sn s.time.cad) ((s.time.cad + 1) % 3) (s.time.tick + 1)
    (if s.rtSec > s.time.prevSec then s.time.prevSec else s.rtSec)
  rw [time, mem, eng, mode]
  exact ⟨count, rfl, rfl, rfl, rfl, rfl, rfl, rfl⟩

end tick

/-- RT in an SN state is the count, converted (R44, R50). -/
theorem sn96ToT96_value (sn : Time) : (sn96ToT96 sn).toNat = (sn.toNat / 2 ^ 48 + sn.toNat % 2 ^ 48 / (1000000000 * 2 ^ 16)) % 2 ^ 48 * 2 ^ 48
    + sn.toNat % 2 ^ 48 % (1000000000 * 2 ^ 16) * 2 ^ 48 / (1000000000 * 2 ^ 16) := by
  unfold sn96ToT96 snUnits secOf
  dsimp only
  refine time_split _ _ (Nat.div_lt_of_lt_mul ?_)
  have part : sn.toNat % 2 ^ 48 % (1000000000 * 2 ^ 16) < 1000000000 * 2 ^ 16 := Nat.mod_lt _ (by decide)
  omega

/-- Settles O20: a tick moves the count by the step of its cadence, and keeps the source of time. -/
theorem snCountInSnStates : Obligations.SnCountInSnStates := by
  unfold Obligations.SnCountInSnStates
  intro s sn runs whole units secs inc
  obtain ⟨lc, count, cad, -, -, mode, -, -⟩ := tick_counts runs
  have rt : s.rt = sn96ToT96 s.time.sn := by unfold State.rt; rw [sn]; rfl
  refine ⟨by rw [rt]; exact sn96ToT96_value _, s.tick, exec_kpllTick, ?_, cad, fun h => ?_, fun hu h => ?_, lc⟩
  · rw [← sn, State.inLc, mode, State.inLc]
  · rw [count]
    exact snNext_within h
  · rw [count]
    exact snNext_carries hu h

end Sys2Proof.Machine

/-! ## Records, mailbox results and new sets (R36, R37, R40, R62, R72 to R77) -/

namespace Sys2Proof.Machine

/-- The words that a record in the event log writes. -/
def logWord (a : Nat) : Bool :=
  (decide (0x1001400 ≤ a) && decide (a < 0x1001410)) || (decide (0x1004000 ≤ a) && decide (a < 0x102C000)) || pendWord a

theorem logWord_aside {a : Nat} (h : timeWord a = true) : logWord a = false := by
  simp only [timeWord, logWord, pendWord, Bool.or_eq_true, Bool.and_eq_true, decide_eq_true_eq, Bool.or_eq_false_iff, Bool.and_eq_false_iff,
    decide_eq_false_iff_not] at h ⊢
  omega

theorem logWord_ring {a : Nat} (h : 0x1004000 ≤ a ∧ a < 0x102C000) : logWord a = true := by
  simp only [logWord, Bool.or_eq_true, Bool.and_eq_true, decide_eq_true_eq]
  exact .inl (.inr h)

theorem Reported.apart {p : Nat → Bool} {s t : State} (h : Reported p s t) (hp : ∀ a, timeWord a = true → p a = false) : Apart s t :=
  ⟨⟨h.time, h.mem, h.pwr, fun a ha => h.word a (hp a ha)⟩, h.eng⟩

theorem ringPut_logs (s : State) (r : KRec) : Within logWord s (s.ringPut r) := by
  unfold State.ringPut
  refine (within_ite (within_set _ _ _ _ (by decide)) (.refl _ _)).trans (within_setWordsN _ _ _ _ fun k hk => logWord_ring ?_)
  have base : R.KNL_REC_WIN.addr = 0x1004000 := rfl
  have entry : r.seq % 1024 < 1024 := Nat.mod_lt _ (by decide)
  omega

theorem syncAudit_logs (s : State) : Within logWord s s.syncAudit := (within_set _ _ _ _ (by decide)).trans (within_set _ _ _ _ (by decide))

theorem mkRecordBy_logs (s : State) (key : Digest) (typ flags keySlot : Nat) (rt : Time) (detail : List Byte) :
    Reported logWord s (s.mkRecordBy key typ flags keySlot rt detail).2 := by
  unfold State.mkRecordBy
  dsimp only
  generalize hw : (s.drawn.set R.KNL_REC_WR 0 _).irqEdge s.drawn 19 = u
  have numbered : Within logWord s.drawn u := by
    rw [← hw]
    exact (within_set _ _ _ _ (by decide)).trans (within_irqEdge _ _ _ rfl rfl)
  have drawn : Reported logWord s s.drawn := ⟨rfl, rfl, fun _ _ => rfl⟩
  have digest : ∀ d, Reported logWord u { u with knl := { u.knl with prevDig := d } } := fun _ => ⟨rfl, rfl, fun _ _ => rfl⟩
  exact ((drawn.trans numbered.reported).trans (digest _)).trans (ringPut_logs _ _).reported

theorem logEventBy_logs (s : State) (key : Digest) (typ flags keySlot : Nat) (rt : Time) (detail : List Byte) :
    Reported logWord s (s.logEventBy key typ flags keySlot rt detail) := by
  unfold State.logEventBy
  have made := mkRecordBy_logs s key typ flags keySlot rt detail
  generalize s.mkRecordBy key typ flags keySlot rt detail = x at made ⊢
  obtain ⟨r, u⟩ := x
  have entered : ∀ (v : State) (x : List KRec) (n : Nat) (y : List KRec),
      Reported logWord v { v with kspi := { v.kspi with events := x, eventCut := n, ledger := y } } := fun _ _ _ _ => ⟨rfl, rfl, fun _ _ => rfl⟩
  refine (made.trans ?_).trans (syncAudit_logs _).reported
  exact Reported.trans (within_ite (within_set _ _ _ _ (by decide)) (.refl _ _)).reported (entered _ _ _ _)

/-- A record with room in the log: nothing is raised (R74). -/
theorem apart_record {s : State} (h : s.room 1) (typ keySlot : Nat) (rt : Time) (detail : List Byte) : Apart s (s.record typ keySlot rt detail) := by
  have logs : Reported logWord s (s.logEvent typ keySlot rt detail) := logEventBy_logs s s.knl.attKey typ s.recFlags keySlot rt detail
  have one : LogsOne s (s.logEvent typ keySlot rt detail) := logEventBy_logsOne s s.knl.attKey typ s.recFlags keySlot rt detail
  have ack : (s.logEvent typ keySlot rt detail).get R.KNL_AUDIT_ACK = s.get R.KNL_AUDIT_ACK := logs.get _ _ (by decide)
  unfold State.record State.syncAuditFull
  rw [auditOver_of_room h (Nat.le_of_eq ack.symm) one.events, if_neg Bool.false_ne_true]
  exact (logs.apart fun _ => logWord_aside).trans (apart_set _ _ _ _ (by decide))

/-! ### Mailbox results -/

theorem aside_event (s : State) (n : Fin 12) (b : Nat) : Aside s (s.event n b) := by
  unfold State.event
  exact Aside.ite ⟨rfl, rfl, rfl, fun _ _ => rfl⟩ (.refl s)

theorem aside_knl {s : State} {x : KnlSt} (work : x.work = s.knl.work) (base : x.workBase = s.knl.workBase) : Aside s { s with knl := x } :=
  ⟨rfl, rfl, rfl, fun a _ => by unfold State.word State.store; rw [work, base]⟩

theorem aside_kinPut (s : State) (typ : Nat) (lc : Time) (bytes : List Byte) : Aside s (s.kinPut typ lc bytes).2 := by
  unfold State.kinPut
  dsimp only
  split
  · exact (apart_set s R.KNL_KIN_STAT 0 _ (by decide)).toAside
  · have kept : ∀ x : List InRec, Aside s { s with knl := { s.knl with kin := x } } := fun _ => aside_knl rfl rfl
    exact (((kept (s.knl.kin ++ [InRec.mk typ lc bytes])).trans (apart_set _ R.KNL_KIN_WR_OFFSET 0 _ (by decide)).toAside).trans (aside_event _ 0 5)).trans
      (aside_event _ 1 5)

theorem aside_kinNote (s : State) (typ : Nat) : Aside s (s.kinNote typ) :=
  Aside.trans (s := s.drawn) ⟨rfl, rfl, rfl, fun _ _ => rfl⟩ (aside_kinPut _ _ _ _)

theorem mailWord_aside {b : Fin 4} {k : Nat} (h : k < 0x400) : timeWord (mbAddr b + k) = false := by
  have at_ : mbAddr b = 0x1000400 + b.val * 0x400 := rfl
  exact timeWord_apart (by omega)

/-- A result of a mailbox command lies beside the words of time (R62, R68). -/
theorem aside_mbFinish (s : State) (b : Fin 4) (code : Nat) (resp : List Byte) : Aside s (s.mbFinish b code resp) := by
  have coded : ∀ w, Apart s (s.setWord (mbAddr b + 0x3B0) w) := fun w =>
    within_apart (within_setWord s w (by rw [mailWord_aside (by decide)]; rfl))
  have data : ∀ (u : State) v, Apart u (u.setWordsN (mbAddr b + 0x3B4) v 19) := fun u v => within_apart (within_setWordsN _ _ _ _ fun k hk => by
    rw [Nat.add_assoc, mailWord_aside (by omega)]
    rfl)
  have stated : ∀ u : State, Apart u (u.setMbState b 4) := fun u => apart_set u _ _ _ (by decide)
  have stamped : ∀ u : State, Aside u (u.mbStamp b) := fun _ => aside_knl rfl rfl
  have ordered : ∀ (u : State) (x : List (Fin 4)), Aside u { u with knl := { u.knl with order := x } } := fun _ _ => aside_knl rfl rfl
  have written : ∀ u : State, Apart u (if resp.isEmpty then u else u.setWordsN (mbAddr b + 0x3B4) (ofLe resp) 19) := fun u => (Apart.refl u).ite (data _ _)
  unfold State.mbFinish
  extract_lets s1 s2 s3
  have h1 : Aside s s1 := (coded _).toAside
  have h2 : Aside s1 s2 := (written _).toAside
  have h3 : Aside s2 s3 := (((stated _).toAside.trans (stamped _)).trans (aside_kinNote _ _)).trans (apart_obs _ _ _ _).toAside
  exact ((h1.trans h2).trans h3).trans ((ordered _ _).trans (apart_irq _ _).toAside)

theorem aside_mbStepEnd (s : State) (code : Nat) : Aside s (s.mbStepEnd code) := by
  unfold State.mbStepEnd
  split
  · exact (aside_mbFinish _ _ _ _).ite (.refl s)
  · exact .refl s

end Sys2Proof.Machine

/-! ## New sets and step orders (R36, R37, R40, R57) -/

namespace Sys2Proof.Machine

/-- A set of one bit of the time status. -/
theorem within_timeStat (s : State) (f : Fld) (h : f.addr = 0x1002004 ∧ f.stride = 0 ∧ f.words = 1) : Within (· == 0x1002004) s (s.timeStat f) := by
  obtain ⟨addr, stride, words⟩ := h
  refine within_set _ _ _ _ fun k hk => ?_
  have k0 : k = 0 := by omega
  unfold Fld.at
  rw [addr, stride, k0]
  rfl

theorem get_timeStat_same (s : State) {f : Fld} (hp : f.plain 0) (hw : f.width = 1) : (s.timeStat f).get f = 1 := by
  unfold State.timeStat
  rw [get_set_same 1 hp, hw]
  rfl

/-- Another bit of the time status stays. -/
theorem get_timeStat_beside (s : State) {f g : Fld} (ha : g.at 0 = f.at 0) (hw : g.words = f.words) (hb : g.lsb + g.width ≤ f.lsb ∨ f.lsb + f.width ≤ g.lsb)
    (hp : f.plain 0) : (s.timeStat f).get g = s.get g := get_set_beside ha hw hb hp

section newSet

variable (s : State) (c : CorrSet) (kind : Nat) (step : Time)

/-- The state with the version of a new set (R59). -/
def State.versioned (s : State) : State := s.set R.KNL_TIME_MODE_CSET_VER 0 (s.get R.KNL_TIME_MODE_CSET_VER + 1)

/-- The time with a new set in LC, and with its entry of the history (R37, R57). -/
def State.timeWith (s : State) (c : CorrSet) (kind : Nat) (step : Time) : TimeSt :=
  let e : HistEntry := { ofs := c.ofs, anchor := c.anchor, rate := c.rate, ver := BitVec.ofNat 16 (s.get R.KNL_TIME_MODE_CSET_VER + 1),
                         kind := BitVec.ofNat 3 kind, step := step, inSn := !s.inLc }
  let hist := (e :: s.time.hist).take 64
  if s.inLc then { s.time with cset := c, copyA := c, copyB := c, copyABad := false, copyBBad := false, hist := hist } else { s.time with hist := hist }

theorem versioned_words : Within (· == 0x1002000) s s.versioned := within_set _ _ _ _ (by decide)

theorem versioned_beside (f : Fld) (h : f.addr = 0x1002000 ∧ f.stride = 0 ∧ f.words = 1 ∧ f.lsb + f.width ≤ 16) : s.versioned.get f = s.get f := by
  obtain ⟨addr, stride, words, low⟩ := h
  exact get_set_beside (by unfold Fld.at; rw [addr, stride]; rfl) words (.inl low) (by unfold Fld.plain; decide)

theorem versioned_inLc : s.versioned.inLc = s.inLc := by
  unfold State.inLc State.mode
  rw [versioned_beside s R.KNL_TIME_MODE_MODE (by decide)]

theorem newSet_eq : s.newSet c kind step = { s.versioned with time := s.timeWith c kind step } := by
  have lc := versioned_inLc s
  have time := (versioned_words s).time
  unfold State.versioned at lc time
  unfold State.newSet State.timeWith State.versioned
  dsimp only
  rw [lc, time]
  split <;> rfl

theorem newSet_time : (s.newSet c kind step).time = s.timeWith c kind step := by rw [newSet_eq]

theorem newSet_word (a : Nat) : (s.newSet c kind step).word a = s.versioned.word a := by rw [newSet_eq]; rfl

theorem newSet_get (f : Fld) (i : Nat) : (s.newSet c kind step).get f i = s.versioned.get f i := get_of_words (newSet_word s c kind step) f i

/-- A new set counts in CSET_VER, and leaves the fields below it (R37, R59). -/
theorem newSet_version : (s.newSet c kind step).get R.KNL_TIME_MODE_CSET_VER = (s.get R.KNL_TIME_MODE_CSET_VER + 1) % 65536 := by
  rw [newSet_get]
  exact get_set_same _ (by unfold Fld.plain; decide)

theorem newSet_beside (f : Fld) (h : f.addr = 0x1002000 ∧ f.stride = 0 ∧ f.words = 1 ∧ f.lsb + f.width ≤ 16) :
    (s.newSet c kind step).get f = s.get f := by rw [newSet_get, versioned_beside s f h]

theorem newSet_apart (f : Fld) (i : Nat) (h : ∀ k < f.words, (f.at i + 4 * k == 0x1002000) = false) : (s.newSet c kind step).get f i = s.get f i := by
  rw [newSet_get, (versioned_words s).get f i h]

theorem newSet_mode : (s.newSet c kind step).mode = s.mode := newSet_beside s c kind step R.KNL_TIME_MODE_MODE (by decide)

theorem timeWith_hist : ((s.timeWith c kind step).hist.head?.map (·.kind)) = some (BitVec.ofNat 3 kind) := by
  unfold State.timeWith
  dsimp only
  split <;> rfl

theorem timeWith_cset (h : s.inLc = true) : (s.timeWith c kind step).cset = c := by
  unfold State.timeWith
  dsimp only
  rw [if_pos h]

/-- Times that differ in the correction set, its copies and the history alone. -/
structure ButSet (x y : TimeSt) : Prop where
  rest : { y with cset := x.cset, copyA := x.copyA, copyB := x.copyB, copyABad := x.copyABad, copyBBad := x.copyBBad, hist := x.hist } = x

theorem ButSet.lc {x y : TimeSt} (h : ButSet x y) : y.lc = x.lc := by rw [← h.rest]
theorem ButSet.sn {x y : TimeSt} (h : ButSet x y) : y.sn = x.sn := by rw [← h.rest]
theorem ButSet.tick {x y : TimeSt} (h : ButSet x y) : y.tick = x.tick := by rw [← h.rest]
theorem ButSet.fw {x y : TimeSt} (h : ButSet x y) : y.fw = x.fw := by rw [← h.rest]
theorem ButSet.freeze {x y : TimeSt} (h : ButSet x y) : y.freeze = x.freeze := by rw [← h.rest]
theorem ButSet.steps {x y : TimeSt} (h : ButSet x y) : y.steps = x.steps := by rw [← h.rest]
theorem ButSet.slew {x y : TimeSt} (h : ButSet x y) : y.slew = x.slew := by rw [← h.rest]
theorem ButSet.armed {x y : TimeSt} (h : ButSet x y) : y.armed = x.armed := by rw [← h.rest]
theorem ButSet.lastFw {x y : TimeSt} (h : ButSet x y) : y.lastFw = x.lastFw := by rw [← h.rest]

theorem timeWith_rest : ButSet s.time (s.timeWith c kind step) := by
  constructor
  unfold State.timeWith
  dsimp only
  split <;> rfl

/-- A new set changes the set and the history of the time (R37, R57). -/
theorem newSet_rest : ButSet s.time (s.newSet c kind step).time := newSet_time s c kind step ▸ timeWith_rest s c kind step

theorem newSet_cset (h : s.inLc = true) : (s.newSet c kind step).time.cset = c := (congrArg TimeSt.cset (newSet_time s c kind step)).trans (timeWith_cset s c kind step h)

theorem newSet_hist : ((s.newSet c kind step).time.hist.head?.map (·.kind)) = some (BitVec.ofNat 3 kind) := by
  rw [newSet_time]
  exact timeWith_hist s c kind step

end newSet

/-- The record of a step order, with room in the log (R40, R62). -/
theorem stepRecord_leaves {s : State} (h : s.room 1) (o : StepOrd) (before : Time) :
    (s.stepRecord o before).time = s.time ∧ (s.stepRecord o before).get R.KNL_TIME_STAT_STEP_DONE = 1
      ∧ (s.stepRecord o before).get R.KNL_MBX_CMD_CNT = o.counter.toNat ∧ (s.stepRecord o before).word 0x1002000 = s.word 0x1002000 := by
  unfold State.stepRecord
  extract_lets s1 s2 s3
  have recorded : Apart s s1 := apart_record h _ _ _ _
  have counted : Within (fun a => a == 0x1000210 || a == 0x1000214) s1 s2 := within_set _ _ _ _ (by decide)
  have noted : Within (· == 0x1002004) s2 (s2.timeStat R.KNL_TIME_STAT_STEP_DONE) := within_timeStat _ _ (by decide)
  have ended : Aside (s2.timeStat R.KNL_TIME_STAT_STEP_DONE) s3 := aside_mbStepEnd _ _
  have stepped : ∀ x : KPair, Aside s3 { s3 with knl := { s3.knl with pair := x } } := fun _ => aside_knl rfl rfl
  have all := ended.trans (stepped { s3.knl.pair with stepped := true })
  have bound : o.counter.toNat < 2 ^ 64 := o.counter.isLt
  refine ⟨?_, ?_, ?_, ?_⟩
  · rw [all.time, noted.time, counted.time, recorded.time]
  · rw [all.get _ _ (by decide), get_timeStat_same _ (by unfold Fld.plain; decide) rfl]
  · rw [all.get _ _ (by decide), noted.get _ _ (by decide), get_set_same _ (by unfold Fld.plain; decide)]
    exact Nat.mod_eq_of_lt bound
  · rw [all.word _ (by decide), noted.word _ (by decide), counted.word _ (by decide), recorded.word _ (by decide)]

theorem apart_stepTail (s : State) : Apart s s.stepRealign.phaseAgain.launchAgain :=
  ((apart_stepRealign _).trans (apart_phaseAgain _)).trans (apart_launchAgain _)

/-- The step orders due on a tick, where there is one alone. -/
theorem steps_due {s : State} {o : StepOrd} (only : s.time.steps = [o]) (due : o.due ≤ s.time.tick) :
    (s.time.steps.filter fun u => decide (u.due ≤ s.time.tick)) = [o] ∧ (s.time.steps.filter fun u => decide (u.due > s.time.tick)) = [] := by
  rw [only]
  simp [due]

/-- The SN count of a state put at a value. -/
def State.snAt (s : State) (sn : Time) : State := { s with time := { s.time with sn := sn } }

/-- The orders taken from a state. -/
def State.stepless (s : State) : State := { s with time := { s.time with steps := [] } }

theorem get_snAt (s : State) (sn : Time) (f : Fld) (i : Nat) : (s.snAt sn).get f i = s.get f i := get_of_words (s := s) (t := s.snAt sn) (fun _ => rfl) f i

theorem get_stepless (s : State) (f : Fld) (i : Nat) : s.stepless.get f i = s.get f i := get_of_words (s := s) (t := s.stepless) (fun _ => rfl) f i

theorem stepless_time (s : State) : s.stepless.time.steps = [] ∧ s.stepless.time.lc = s.time.lc := ⟨rfl, rfl⟩

theorem stepless_room {s : State} {n : Nat} (h : s.room n) : s.stepless.room n := by
  unfold State.room State.unexported at h ⊢
  rwa [get_stepless]

/-- Steps taken in an SN state: their records, the count, and an entry of KIND 2 (R40, R57). -/
def State.stepsTaken (s : State) (due later : List StepOrd) : State :=
  let step := (due.map (·.step)).foldl (· + ·) 0
  let before := sn96ToT96 (s.snBack 1)
  let sn := t96ToSn96 (sn96ToT96 s.time.sn + step)
  let u := due.foldl (fun s o => s.stepRecord o before) { s with time := { s.time with steps := later } }
  ((u.snAt sn).newSet { ofs := sn96ToT96 sn, anchor := s.time.lc, rate := 0 } 2 step).stepRealign.phaseAgain.launchAgain

theorem stepSn_taken (s : State) : s.stepSn = if (s.time.steps.filter fun u => decide (u.due ≤ s.time.tick)).isEmpty then s
    else s.stepsTaken (s.time.steps.filter fun u => decide (u.due ≤ s.time.tick)) (s.time.steps.filter fun u => decide (u.due > s.time.tick)) := rfl

theorem stepSn_eq {s : State} {o : StepOrd} (only : s.time.steps = [o]) (due : o.due ≤ s.time.tick) :
    s.stepSn = (((s.stepless.stepRecord o (sn96ToT96 (s.snBack 1))).snAt (t96ToSn96 (sn96ToT96 s.time.sn + o.step))).newSet
      { ofs := sn96ToT96 (t96ToSn96 (sn96ToT96 s.time.sn + o.step)), anchor := s.time.lc, rate := 0 } 2 o.step).stepRealign.phaseAgain.launchAgain := by
  obtain ⟨now, later⟩ := steps_due only due
  have sum : ([o].map (·.step)).foldl (· + ·) 0 = o.step := BitVec.zero_add _
  rw [stepSn_taken, now, later, if_neg (by simp)]
  simp only [State.stepsTaken, sum, List.foldl_cons, List.foldl_nil]
  rfl

/-- What a count put at a value leaves, with its entry of the history. -/
theorem snAt_newSet (v : State) (count : Time) (c : CorrSet) (kind : Nat) (step : Time) :
    ((v.snAt count).newSet c kind step).time.sn = count ∧ ((v.snAt count).newSet c kind step).time.steps = v.time.steps
      ∧ ((v.snAt count).newSet c kind step).time.lc = v.time.lc
      ∧ (((v.snAt count).newSet c kind step).time.hist.head?.map (·.kind)) = some (BitVec.ofNat 3 kind) :=
  have rest := newSet_rest (v.snAt count) c kind step
  ⟨rest.sn, rest.steps, rest.lc, newSet_hist _ _ _ _⟩

/-- What a step order changes in an SN state (R40, R57). -/
theorem stepSn_leaves {s : State} {o : StepOrd} (only : s.time.steps = [o]) (due : o.due ≤ s.time.tick) (room : s.room 1) :
    s.stepSn.time.sn = t96ToSn96 (sn96ToT96 s.time.sn + o.step) ∧ s.stepSn.time.steps = [] ∧ s.stepSn.get R.KNL_TIME_STAT_STEP_DONE = 1
      ∧ (s.stepSn.time.hist.head?.map (·.kind)) = some 2 ∧ s.stepSn.time.lc = s.time.lc := by
  obtain ⟨time, done, -, -⟩ := stepRecord_leaves (stepless_room room) o (sn96ToT96 (s.snBack 1))
  rw [stepSn_eq only due]
  generalize s.stepless.stepRecord o (sn96ToT96 (s.snBack 1)) = v at time done ⊢
  generalize t96ToSn96 (sn96ToT96 s.time.sn + o.step) = count
  have steps : v.time.steps = [] := (congrArg TimeSt.steps time).trans (stepless_time s).1
  have lc : v.time.lc = s.time.lc := (congrArg TimeSt.lc time).trans (stepless_time s).2
  have tail := apart_stepTail ((v.snAt count).newSet { ofs := sn96ToT96 count, anchor := s.time.lc, rate := 0 } 2 o.step)
  obtain ⟨counted, kept, same, hist⟩ := snAt_newSet v count { ofs := sn96ToT96 count, anchor := s.time.lc, rate := 0 } 2 o.step
  rw [tail.time, tail.get _ _ (by decide), newSet_apart _ _ _ _ _ _ (by decide), get_snAt]
  exact ⟨counted, kept.trans steps, done, hist, same.trans lc⟩

end Sys2Proof.Machine

/-! ## A load of the SN count (R51, R52) -/

namespace Sys2Proof.Machine

section load

variable {s : State} {m : Master} {v : Word}

theorem loadWord_untaken (s : State) (m : Master) (v : Word) : s.modeFix 0x100208C v = (s, v) ∧ s.preHost m 0x100208C v = none ∧ s.preKnl m 0x100208C v = none
    ∧ s.prePort m 0x100208C v = none := ⟨rfl, rfl, rfl, rfl⟩

theorem loadWord_consequences (s : State) : s.preLand 0x100208C = s ∧ s.clampAt 0x100208C = s ∧ (∀ u, s.postHost u 0x100208C = s)
    ∧ s.postKnl 0x100208C = s.snLoadReq s.snToLoad ∧ ∀ u m v, s.postPort u m 0x100208C v = s := ⟨rfl, rfl, fun _ => rfl, rfl, fun _ _ _ => rfl⟩

/-- A write of the highest word of the load, where no lower word waits: its bits land, and the load is asked for. -/
theorem enabledWrite_load (hold : s.holdw = []) (mask : Nat) : s.enabledWrite m 0x100208C v mask
    = (s.setWord 0x100208C (s.landed 0x100208C v mask)).snLoadReq (s.setWord 0x100208C (s.landed 0x100208C v mask)).snToLoad := by
  obtain ⟨mode, host, knl, port⟩ := loadWord_untaken s m v
  have land : s.wordWrite m 0x100208C v mask
      = (s.setWord 0x100208C (s.landed 0x100208C v mask)).snLoadReq (s.setWord 0x100208C (s.landed 0x100208C v mask)).snToLoad := by
    rw [wordWrite_ordinary host knl port, (loadWord_consequences s).1, putMasked_eq]
    generalize s.setWord 0x100208C (s.landed 0x100208C v mask) = u
    obtain ⟨-, clamp, post, load, -⟩ := loadWord_consequences u
    obtain ⟨-, -, -, -, last⟩ := loadWord_consequences (u.snLoadReq u.snToLoad)
    rw [clamp, post, load, last]
  have empty : ({ s with holdw := [] } : State) = s := by rw [← hold]
  have group : writeGroup 0x100208C = some (0x1002080, 4) := rfl
  have single : enableAt 0x100208C = none := rfl
  unfold State.enabledWrite
  rw [mode]
  dsimp only
  rw [single]
  dsimp only
  unfold State.valueWrite
  rw [group]
  dsimp only
  rw [if_neg (by decide), hold, ← land]
  conv_rhs => rw [← empty]
  rfl

/-- What the load reads. -/
theorem snToLoad_landed (s : State) {mask : Nat} (hm : mask = maskAt (fun r => r.acc == .rw || r.acc == .w1c || r.acc == .wo) 0x100208C) :
    (s.setWord 0x100208C (s.landed 0x100208C v mask)).snToLoad = BitVec.ofNat 96 (s.get R.KNL_SN_LOAD0 + 2 ^ 16 * s.get R.KNL_SN_LOAD1
      + 2 ^ 48 * s.get R.KNL_SN_LOAD2 + 2 ^ 80 * v.toNat) := by
  have within : Within (· == 0x100208C) s (s.setWord 0x100208C (s.landed 0x100208C v mask)) := within_setWord _ _ (by decide)
  have masks : ∀ b < 16, (maskAt (fun r => r.acc == .rw || (r.acc == .wo && woKept 0x100208C)) 0x100208C).testBit b = true ∧ mask.testBit b = true := by
    rw [hm]
    decide +kernel
  have high : (s.setWord 0x100208C (s.landed 0x100208C v mask)).get R.KNL_SN_LOAD3 = v.toNat % 65536 := by
    refine Nat.eq_of_testBit_eq fun b => (testBit_get_low rfl rfl b).trans (Eq.trans ?_ (Nat.testBit_mod_two_pow v.toNat 16 b).symm)
    show (decide (b < 16) && ((s.setWord 0x100208C (s.landed 0x100208C v mask)).word 0x100208C).getLsbD b) = _
    by_cases hb : b < 16
    · obtain ⟨rw_, reach⟩ := masks b hb
      rw [word_setWord_same _ rfl, landed_getLsbD _ _ _ _ (by omega), reach, rw_]
      rfl
    · simp [hb]
  unfold State.snToLoad
  rw [within.get _ _ (by decide), within.get _ _ (by decide), within.get _ _ (by decide), high]
  refine BitVec.eq_of_toNat_eq ?_
  rw [BitVec.toNat_ofNat, BitVec.toNat_ofNat]
  omega

/-- A write of the highest word of the load (R51). -/
theorem busWrite32_load (h : s.writes m (R.KNL_SN_LOAD3.at 0)) (hold : s.holdw = []) (v : Word) :
    ∃ u : State, Within (· == 0x100208C) s.quiet u ∧ s.busWrite32 m (R.KNL_SN_LOAD3.at 0) v = (u.snLoadReq u.snToLoad).irqFollow s.quiet
      ∧ u.snToLoad = BitVec.ofNat 96 (s.get R.KNL_SN_LOAD0 + 2 ^ 16 * s.get R.KNL_SN_LOAD1 + 2 ^ 48 * s.get R.KNL_SN_LOAD2 + 2 ^ 80 * v.toNat) := by
  have hr := rights_of_writes h
  obtain ⟨ha, -, hm⟩ := h
  have whole := writeMask_whole hm rfl
  have load := snToLoad_landed (v := v) s.quiet whole
  refine ⟨s.quiet.setWord 0x100208C (s.quiet.landed 0x100208C v (s.writeMask m (R.KNL_SN_LOAD3.at 0))), within_setWord _ _ (by decide), ?_, ?_⟩
  · rw [busWrite32_open ha rfl v hr (engMem_below (by decide)) hm]
    exact congrArg (State.irqFollow · s.quiet) (enabledWrite_load (s := s.quiet) hold _)
  · rw [load, get_quiet, get_quiet, get_quiet]

end load

section request

variable {s : State}

theorem snLoadReq_busy (v : Time) (h : s.time.armed.isSome = true) : (s.snLoadReq v).time = s.time ∧ (s.snLoadReq v).get R.KNL_TIME_STAT_BUSY_REFUSED = 1 := by
  have busy : (s.timeStat R.KNL_TIME_STAT_BUSY_REFUSED).get R.KNL_TIME_STAT_BUSY_REFUSED = 1 := get_timeStat_same s (by unfold Fld.plain; decide) rfl
  have marked : (s.timeStat R.KNL_TIME_STAT_BUSY_REFUSED).time = s.time := State.set_time ..
  unfold State.snLoadReq
  rw [if_pos h]
  dsimp only
  split
  · have beside := get_timeStat_beside (s.timeStat R.KNL_TIME_STAT_BUSY_REFUSED) (f := R.KNL_TIME_STAT_SN_LOAD_REFUSED) (g := R.KNL_TIME_STAT_BUSY_REFUSED)
      rfl rfl (by decide) (by unfold Fld.plain; decide)
    exact ⟨(State.set_time ..).trans marked, beside.trans busy⟩
  · exact ⟨marked, busy⟩

theorem snLoadReq_refused (v : Time) (h : s.mode ≠ 0) : (s.snLoadReq v).time = s.time ∧ (s.snLoadReq v).get R.KNL_TIME_STAT_SN_LOAD_REFUSED = 1 := by
  unfold State.snLoadReq
  dsimp only
  rw [if_pos h]
  refine ⟨(State.set_time ..).trans ?_, get_timeStat_same _ (by unfold Fld.plain; decide) rfl⟩
  split
  · exact State.set_time ..
  · rfl

theorem snLoadReq_taken (v : Time) (h : s.time.armed = none) (hm : s.mode = 0) :
    s.snLoadReq v = { s with time := { s.time with snLoad := some (v, s.time.tick + 256) } } := by
  have free : ¬ s.time.armed.isSome = true := by rw [h]; decide
  unfold State.snLoadReq
  dsimp only
  rw [if_neg (not_not.mpr hm), if_neg free]
  rfl

end request

/-! ### Ticks, steps and loads -/

theorem exec_stepSnEffect (s : State) : exec .stepSnEffect s = .next (s.when_ (!s.inLc) State.stepSn) := rfl

theorem exec_snLoadWrite (s : State) (m : Master) (v : Word) : exec (.snLoadWrite m v) s = .next (s.busWrite32 m (R.KNL_SN_LOAD3.at 0) v) := rfl

/-- A load that is due takes effect in SN_BOOT (R51). -/
def State.snLoaded (s : State) (v : Time) : State := { s with time := { s.time with snLoad := none, sn := v } }

theorem exec_snLoadEffect {s : State} {v : Time} {due : Nat} (h : s.time.snLoad = some (v, due)) :
    (s.time.tick < due → exec .snLoadEffect s = .next s) ∧ (due ≤ s.time.tick → s.mode = 0 → exec .snLoadEffect s = .next (s.snLoaded v)) := by
  show (_ → execSnLoadEffect s = _) ∧ (_ → _ → execSnLoadEffect s = _)
  unfold execSnLoadEffect
  rw [h]
  dsimp only
  refine ⟨fun early => by rw [if_pos early], fun late boot => ?_⟩
  have mode : ({ s with time := { s.time with snLoad := none } } : State).mode = 0 :=
    (get_of_words (s := s) (t := { s with time := { s.time with snLoad := none } }) (fun _ => rfl) _ _).trans boot
  rw [if_neg (Nat.not_lt.mpr late), if_pos mode]
  rfl

/-- What a write of the highest word of the load leaves of the time. -/
theorem snLoadWrite_ends {s : State} {m : Master} {v : Word} (h : s.writes m (R.KNL_SN_LOAD3.at 0)) (hold : s.holdw = []) :
    (s.time.armed = none → s.mode = 0 → (s.busWrite32 m (R.KNL_SN_LOAD3.at 0) v).time.snLoad = some (BitVec.ofNat 96 (s.get R.KNL_SN_LOAD0
        + 2 ^ 16 * s.get R.KNL_SN_LOAD1 + 2 ^ 48 * s.get R.KNL_SN_LOAD2 + 2 ^ 80 * v.toNat), s.time.tick + 256))
      ∧ (s.mode ≠ 0 → (s.busWrite32 m (R.KNL_SN_LOAD3.at 0) v).time.snLoad = s.time.snLoad
        ∧ (s.busWrite32 m (R.KNL_SN_LOAD3.at 0) v).get R.KNL_TIME_STAT_SN_LOAD_REFUSED = 1)
      ∧ (s.time.armed.isSome = true → (s.busWrite32 m (R.KNL_SN_LOAD3.at 0) v).time.snLoad = s.time.snLoad
        ∧ (s.busWrite32 m (R.KNL_SN_LOAD3.at 0) v).get R.KNL_TIME_STAT_BUSY_REFUSED = 1) := by
  obtain ⟨u, landed, write, load⟩ := busWrite32_load h hold v
  have time : u.time = s.time := landed.time
  have mode : u.mode = s.mode := (landed.get _ _ (by decide)).trans (get_quiet ..)
  have follow := within_irqFollow (u.snLoadReq u.snToLoad) s.quiet
  rw [write, follow.time, follow.get _ _ (by decide), follow.get _ _ (by decide), ← mode, ← load, ← time]
  refine ⟨fun free boot => by rw [snLoadReq_taken _ free boot], fun sn => ?_, fun armed => ?_⟩
  · obtain ⟨same, refused⟩ := snLoadReq_refused u.snToLoad sn
    exact ⟨by rw [same], refused⟩
  · obtain ⟨same, busy⟩ := snLoadReq_busy u.snToLoad armed
    exact ⟨by rw [same], busy⟩

/-- Settles O16: the count of a tick, a step order in an SN state, and a load of the SN count. -/
theorem ticksStepsAndLoads : Obligations.TicksStepsAndLoads := by
  unfold Obligations.TicksStepsAndLoads
  refine ⟨⟨fun s runs => ⟨s.tick, exec_kpllTick, tick_counts runs⟩, fun s => exec_kpllTick_stopped, fun x hu hs => snTotal_three hu hs⟩,
    fun s => ⟨fun sn o only due room => ?_, fun lc => ?_, fun m v hw hold => ?_, fun v due h late boot => ?_, fun v due h => (exec_snLoadEffect h).1⟩⟩
  · exact ⟨s.stepSn, (exec_stepSnEffect s).trans (by rw [sn]; rfl), stepSn_leaves only due room⟩
  · rw [exec_stepSnEffect, lc]
    rfl
  · obtain ⟨taken, refused, busy⟩ := snLoadWrite_ends (v := v) hw hold
    exact ⟨fun free boot => ⟨_, exec_snLoadWrite s m v, taken free boot⟩, fun sn => ⟨_, exec_snLoadWrite s m v, refused sn⟩,
      fun armed => ⟨_, exec_snLoadWrite s m v, busy armed⟩⟩
  · exact ⟨s.snLoaded v, (exec_snLoadEffect h).2 late boot, rfl, rfl, rfl, rfl⟩

end Sys2Proof.Machine

/-! ## Reported time and its readers (R33) -/

namespace Sys2Proof.Machine

/-- RT under a correction set, as a number (R33). -/
theorem rtOf_value (c : CorrSet) (lc : Time) : ((rtOf c lc).toNat : Int) = ((c.ofs.toNat : Int) + ((lc.toNat + (2 ^ 96 - c.anchor.toNat)) % 2 ^ 96 : Nat)
    + Int.fdiv (((lc.toNat + (2 ^ 96 - c.anchor.toNat)) % 2 ^ 96 : Nat) * c.rate.toInt) (2 ^ 64)) % (2 ^ 96 : Int) := by
  have delta : (lc - c.anchor).toNat = (lc.toNat + (2 ^ 96 - c.anchor.toNat)) % 2 ^ 96 := by rw [BitVec.toNat_sub, Nat.add_comm]
  unfold rtOf
  dsimp only
  rw [← delta]
  generalize Int.fdiv (((lc - c.anchor).toNat : Int) * c.rate.toInt) (2 ^ 64) = corr
  generalize lc - c.anchor = d
  have part : 0 ≤ corr % (2 ^ 96 : Nat) := Int.emod_nonneg _ (by decide)
  rw [BitVec.toNat_add, BitVec.toNat_add, BitVec.toNat_ofInt]
  push_cast
  rw [Int.toNat_of_nonneg (by exact_mod_cast part)]
  omega

section readers

variable {s : State}

theorem rt_inLc (h : s.inLc = true) : s.rt = rtOf s.time.cset s.time.lc := by
  unfold State.rt
  rw [if_pos h]

/-- KNL_RT shows RT, 32 bits in each word. -/
theorem shown_rt (s : State) {k : Nat} (hk : k < 3) : (s.shown (0x100201C + 4 * k)).toNat = s.rt.toNat / 2 ^ (32 * k) % 2 ^ 32 := by
  have live : s.liveWord (0x100201C + 4 * k) = BitVec.ofNat 32 (bits s.rt.toNat (32 * k) 32) := by
    have offset : 8 * (0x100201C + 4 * k - 0x100201C) = 32 * k := by omega
    unfold State.liveWord
    dsimp only
    rw [if_neg (by simp), if_pos (by simp; omega), offset]
  have whole : ∀ k < 3, BitVec.ofNat 32 (maskAt (fun r => r.acc != .wo) (0x100201C + 4 * k)) = BitVec.allOnes 32 := by decide +kernel
  unfold State.shown
  rw [whole k hk, BitVec.and_allOnes, live, BitVec.toNat_ofNat]
  exact Nat.mod_mod _ _

theorem seenBy_inLc (s : State) (n : Fin 11) : (s.seenBy n).inLc = s.inLc := by
  unfold State.inLc State.mode
  rw [get_of_words (s := s) (t := s.seenBy n) fun _ => rfl]

/-- A replica that is not off shows LC (R55). -/
theorem seenBy_lc (s : State) (n : Fin 11) (h : s.time.replicas[n].lc = 0) : (s.seenBy n).time.lc = s.time.lc := by
  have frac : s.time.frac.toNat < 2 ^ 32 := s.time.frac.isLt
  have whole : Int.fdiv (((s.time.lc.toNat * 2 ^ 32 + s.time.frac.toNat : Nat) : Int) + 0) (2 ^ 32) = (s.time.lc.toNat : Int) := by
    rw [Int.fdiv_eq_ediv_of_nonneg _ (by decide)]
    omega
  show BitVec.ofInt 96 (Int.fdiv (((s.time.lc.toNat * 2 ^ 32 + s.time.frac.toNat : Nat) : Int) + s.time.replicas[n].lc) (2 ^ 32)) = s.time.lc
  rw [h, whole, BitVec.ofInt_natCast, BitVec.ofNat_toNat, BitVec.setWidth_eq]

/-- A reader whose replica is right has the RT of the machine (R55). -/
theorem engineRt_eq {n : Fin 12} (h : n.val < 2 ∨ s.time.replicas[8].lc = 0) (lc : s.inLc = true) : s.engineRt n = s.rt := by
  unfold State.engineRt
  split
  · rfl
  · next hn =>
    have replica : s.time.replicas[(8 : Fin 11)].lc = 0 := h.resolve_left hn
    rw [rt_inLc ((seenBy_inLc s 8).trans lc), rt_inLc lc, seenBy_lc s 8 replica]
    rfl

theorem v_setV (s : State) (n : Fin 12) (va : BitVec 3) (t : Time) : (s.setV n va t).v n va = t := by
  unfold State.setV State.v
  rw [engine_setEng_same]
  exact Vector.getElem_set_self ..

/-- Time registers are not touched by the count of an instruction. -/
theorem Ran.v {n : Fin 12} {cost : Nat} {pc : BitVec 16} {u t : State} (h : Ran n cost pc u t) (va : BitVec 3) : t.v n va = u.v n va := by
  have same : (t.engine n).v = (u.engine n).v := by rw [← h.engine]
  unfold State.v
  rw [same]

/-- TNOW writes the RT that the engine sees (R291). -/
theorem tnow_writes {n : Fin 12} (a : BitVec 5) (va : BitVec 3) (h : s.ready n) : Performs n (.tnow n a va) s fun t => t.v n va = s.engineRt n := by
  intro hw
  show ∃ t, execTnow n a va s = .next t ∧ t.v n va = s.engineRt n
  unfold execTnow
  refine ⟨_, issue_ready h hw _ _, ?_⟩
  have ran := next_ran (((s.setG n a s.nowWord).setV n va (s.engineRt n)).setFlags n
    { ((s.setG n a s.nowWord).setV n va (s.engineRt n)).flags n with tsn := !s.inLc }) n 2 (by decide)
  refine (ran.v va).trans ?_
  rw [State.v, State.setFlags, engine_setEng_same]
  exact v_setV _ n va _

end readers

/-- Settles O19: one formula, and the readers of one LC and one set that have it. -/
theorem reportedTime : Obligations.ReportedTime := by
  unfold Obligations.ReportedTime
  intro s lc delta corr
  refine ⟨?_, ?_, fun k hk => shown_rt s hk, fun n a va ready replica hw => ?_⟩
  · rw [rt_inLc lc]
    exact rtOf_value _ _
  · unfold State.rtSec
    rw [if_pos lc]
    rfl
  · rw [← engineRt_eq replica lc]
    exact tnow_writes a va ready hw

end Sys2Proof.Machine

/-! ## Changes of the time source (R51, R53, R54) -/

namespace Sys2Proof.Machine

/-- A state with another time. -/
def State.withTime (s : State) (x : TimeSt) : State := { s with time := x }

section times

variable (s : State)

theorem withTime_time (x : TimeSt) : (s.withTime x).time = x := rfl

theorem get_withTime (x : TimeSt) (f : Fld) (i : Nat) : (s.withTime x).get f i = s.get f i := get_of_words (s := s) (t := s.withTime x) (fun _ => rfl) f i

theorem inLc_of_mode {s t : State} (h : t.mode = s.mode) : t.inLc = s.inLc := by
  unfold State.inLc
  rw [h]

theorem rt_congr {s t : State} (mode : t.mode = s.mode) (cset : t.time.cset = s.time.cset) (lc : t.time.lc = s.time.lc) (sn : t.time.sn = s.time.sn) :
    t.rt = s.rt := by
  unfold State.rt
  rw [inLc_of_mode mode, cset, lc, sn]

theorem inLc_iff : s.inLc = true ↔ s.mode = 1 := by
  unfold State.inLc
  exact beq_iff_eq

theorem inSn_of_mode {s : State} {m : Nat} (h : s.mode = m) (hm : m ≠ 1) : s.inLc = false := by
  unfold State.inLc
  rw [h]
  exact beq_eq_false_iff_ne.mpr hm

/-- At its anchor a set has its offset as RT (R33). -/
theorem rtOf_anchor (ofs lc : Time) (rate : DWord) : rtOf { ofs := ofs, anchor := lc, rate := rate } lc = ofs := by
  unfold rtOf
  simp

/-- A word that a field does not hold. -/
theorem word_set (f : Fld) (i v : Nat) {a : Nat} (h : ∀ k < f.words, (f.at i + 4 * k == a) = false) : (s.set f i v).word a = s.word a :=
  (within_set (p := fun x => x != a) s f i v fun k hk => by simp only [bne, h k hk, Bool.not_false]).word a (by simp)

theorem word_raiseBit (f : Fld) (i b : Nat) {a : Nat} (h : ∀ k < f.words, (f.at i + 4 * k == a) = false) (h0 : (0x500030 == a) = false)
    (h1 : (0x500034 == a) = false) : (s.raiseBit f i b).word a = s.word a :=
  (within_raiseBit (p := fun x => x != a) s f i b (by simp only [bne, h0, Bool.not_false]) (by simp only [bne, h1, Bool.not_false])
    fun k hk => by simp only [bne, h k hk, Bool.not_false]).word a (by simp)

end times

/-! ### The servo -/

/-- The servo is in the state it is put in (R106). -/
theorem setServo_servo (s : State) {v : Nat} (hv : v < 4) : (s.setServo v).servo = v := by
  unfold State.setServo
  extract_lets old s1 s2 s3 s4 _ s5 _ _ _ _ s6
  split
  · next h => exact h
  · have put : s1.servo = v := (get_set_same _ (by unfold Fld.plain; decide)).trans (Nat.mod_eq_of_lt hv)
    have h2 : s2.word 0x1100000 = s1.word 0x1100000 := word_set _ _ _ _ (by decide)
    have h3 : s3.word 0x1100000 = s2.word 0x1100000 := by
      unfold s3
      split
      · exact word_raiseBit _ _ _ _ (by decide) rfl rfl
      · rfl
    have h4 : s4.word 0x1100000 = s3.word 0x1100000 := by
      unfold s4
      split
      · exact (word_set _ _ _ _ (by decide)).trans (word_raiseBit _ _ _ _ (by decide) rfl rfl)
      · rfl
    have h5 : s5.word 0x1100000 = s4.word 0x1100000 := rfl
    have h6 : s6.word 0x1100000 = s5.word 0x1100000 := by
      unfold s6
      split
      · exact word_set s5 R.REF_LOCK_TIME 0 0 (a := 0x1100000) (by decide)
      · split <;> rfl
    have h7 : s6.showHold.word 0x1100000 = s6.word 0x1100000 := word_set _ _ _ _ (by decide)
    have all : s6.showHold.word 0x1100000 = s1.word 0x1100000 := h7.trans (h6.trans (h5.trans (h4.trans (h3.trans h2))))
    exact (get_of_word rfl all).trans put

/-! ### The tick of a handover -/

/-- No change of source is armed any more (R53). -/
def State.disarmed (s : State) : State := (s.withTime { s.time with armed := none }).setFlag R.KNL_TIME_MODE_ARMED 0 false

/-- LC takes over from the SN count (R53). -/
def State.enterLc (u : State) (f : DWord) : State :=
  let v := u.set R.KNL_TIME_MODE_MODE 0 1
  let w := v.newSet { ofs := sn96ToT96 v.time.sn, anchor := v.time.lc, rate := f } 3 0
  w.withTime { w.time with lastFw := some w.time.tick, slew := none, fw := none, leaveTest := false }

/-- A handover is done (R53). -/
def State.handedOver (s : State) : State := (s.timeStat R.KNL_TIME_STAT_HANDOVER_DONE).leashWiden

section handover

variable {s : State}

theorem disarmed_time (s : State) : s.disarmed.time = { s.time with armed := none } := State.setFlag_time ..

theorem disarmed_armed (s : State) : s.disarmed.get R.KNL_TIME_MODE_ARMED = 0 := get_set_same _ (by unfold Fld.plain; decide)

theorem disarmed_mode (s : State) : s.disarmed.mode = s.mode := by
  have beside := get_set_beside (s := s.withTime { s.time with armed := none }) (f := R.KNL_TIME_MODE_ARMED) (g := R.KNL_TIME_MODE_MODE) (i := 0) (j := 0)
    (v := b2n false) rfl rfl (by decide) (by unfold Fld.plain; decide)
  exact beside.trans (get_withTime s _ _ _)

theorem handedOver_leaves (w : State) : w.handedOver.time = w.time ∧ w.handedOver.get R.KNL_TIME_STAT_HANDOVER_DONE = 1 ∧ w.handedOver.word 0x1002000 = w.word 0x1002000
    ∧ w.handedOver.word 0x1100000 = w.word 0x1100000 ∧ w.handedOver.get R.KNL_TIME_STAT_SN_ENTERED = w.get R.KNL_TIME_STAT_SN_ENTERED := by
  have done := within_timeStat w R.KNL_TIME_STAT_HANDOVER_DONE (by decide)
  have set := get_timeStat_same w (f := R.KNL_TIME_STAT_HANDOVER_DONE) (by unfold Fld.plain; decide) rfl
  have beside := get_timeStat_beside w (f := R.KNL_TIME_STAT_HANDOVER_DONE) (g := R.KNL_TIME_STAT_SN_ENTERED) rfl rfl (by decide) (by unfold Fld.plain; decide)
  have widened := apart_leashWiden (w.timeStat R.KNL_TIME_STAT_HANDOVER_DONE)
  have known : ∀ x : LshSt, ({ w.timeStat R.KNL_TIME_STAT_HANDOVER_DONE with lsh := x } : State).word 0x1100000 = (w.timeStat R.KNL_TIME_STAT_HANDOVER_DONE).word 0x1100000 :=
    fun _ => rfl
  refine ⟨widened.time.trans done.time, (widened.get _ _ (by decide)).trans set, (widened.word _ (by decide)).trans (done.word _ (by decide)), ?_,
    (widened.get _ _ (by decide)).trans beside⟩
  exact ((within_lshShow _ _ _ _ _).word _ (by decide)).trans ((known _).trans (done.word _ (by decide)))

theorem exec_handoverTick (s : State) : exec .handoverTick s = .next s.handoverTick := rfl

theorem handoverTick_none (h : s.time.armed = none) : s.handoverTick = s := by
  unfold State.handoverTick
  rw [h]

theorem handoverTick_early {a : Armed} {due : Nat} (h : s.time.armed = some (a, due)) (early : s.time.tick < due) : s.handoverTick = s := by
  unfold State.handoverTick
  rw [h]
  exact if_pos early

theorem handoverTick_toLc {f : DWord} {due : Nat} (h : s.time.armed = some (.toLc f, due)) (late : due ≤ s.time.tick) :
    s.handoverTick = (s.disarmed.enterLc f).handedOver := by
  unfold State.handoverTick
  rw [h]
  exact if_neg (Nat.not_lt.mpr late)

/-- Tick H of a move out of LC (R51, R53). -/
theorem handoverTick_leave {a : Armed} {due : Nat} (h : s.time.armed = some (a, due)) (late : due ≤ s.time.tick) (lc : s.inLc = true) :
    (a = .toTest → s.handoverTick = (s.disarmed.leaveLc 3).handedOver)
      ∧ (a = .toRecovery → s.handoverTick = ((s.disarmed.leaveLc 2).timeStat R.KNL_TIME_STAT_SN_ENTERED).handedOver) := by
  have still : s.disarmed.inLc = true := (inLc_of_mode (disarmed_mode s)).trans lc
  unfold State.handoverTick
  rw [h]
  refine ⟨?_, ?_⟩
  · rintro rfl
    refine (if_neg (Nat.not_lt.mpr late)).trans ?_
    exact congrArg State.handedOver (if_pos still)
  · rintro rfl
    exact if_neg (Nat.not_lt.mpr late)

end handover

/-- What a handover into LC makes (R53). -/
theorem enterLc_leaves (u : State) (f : DWord) : (u.enterLc f).mode = 1
    ∧ (u.enterLc f).time.cset = { ofs := sn96ToT96 u.time.sn, anchor := u.time.lc, rate := f } ∧ (u.enterLc f).time.lc = u.time.lc
    ∧ (u.enterLc f).time.armed = u.time.armed ∧ (u.enterLc f).get R.KNL_TIME_MODE_ARMED = u.get R.KNL_TIME_MODE_ARMED
    ∧ (u.enterLc f).time.lastFw = some u.time.tick := by
  have time : (u.set R.KNL_TIME_MODE_MODE 0 1).time = u.time := State.set_time ..
  have mode : (u.set R.KNL_TIME_MODE_MODE 0 1).mode = 1 := get_set_same _ (by unfold Fld.plain; decide)
  have armed : (u.set R.KNL_TIME_MODE_MODE 0 1).get R.KNL_TIME_MODE_ARMED = u.get R.KNL_TIME_MODE_ARMED :=
    get_set_beside rfl rfl (by decide) (by unfold Fld.plain; decide)
  unfold State.enterLc
  extract_lets v w
  have same : v.time = u.time := time
  have rest : ButSet v.time w.time := newSet_rest ..
  have cset : w.time.cset = { ofs := sn96ToT96 v.time.sn, anchor := v.time.lc, rate := f } := newSet_cset _ _ _ _ ((inLc_iff _).mpr mode)
  have wMode : w.mode = 1 := (newSet_mode ..).trans mode
  have wArmed : w.get R.KNL_TIME_MODE_ARMED = u.get R.KNL_TIME_MODE_ARMED := (newSet_beside _ _ _ _ _ (by decide)).trans armed
  clear_value w
  rw [same] at rest cset
  exact ⟨(get_withTime ..).trans wMode, cset, rest.lc, rest.armed, (get_withTime ..).trans wArmed, congrArg some rest.tick⟩

/-- The SN count seeded, updates and slew discarded (R51). -/
def State.seeded (s : State) (sn : Time) : State := s.withTime { s.time with sn := sn, fw := none, freeze := none, slew := none }

theorem seeded_time (s : State) (sn : Time) : (s.seeded sn).time.sn = sn ∧ (s.seeded sn).time.fw = none ∧ (s.seeded sn).time.freeze = none
    ∧ (s.seeded sn).time.slew = none ∧ (s.seeded sn).time.armed = s.time.armed ∧ (s.seeded sn).mode = s.mode :=
  ⟨rfl, rfl, rfl, rfl, rfl, get_withTime ..⟩

/-- The Leash takes its terms where LC ends (R240). -/
def State.leaving (s : State) : State :=
  let u := s.holdBase s.rt.toNat
  { u with lsh := { u.lsh with lEntry := s.get R.LSH_CORE, ensYEntry := BitVec.ofNat 64 (u.get R.REF_ENS_Y), tEntry := u.rt.toNat } }

/-- The source leaves LC for a mode, with the SN count (R51, R53). -/
def State.leftLc (s : State) (mode : Nat) (sn : Time) : State :=
  let u := (s.set R.KNL_TIME_MODE_MODE 0 mode).seeded sn
  u.newSet { ofs := sn96ToT96 sn, anchor := u.time.lc, rate := 0 } 4 0

theorem leaveLc_eq (u : State) (mode : Nat) : u.leaveLc mode = ((u.leaving.leftLc mode (t96ToSn96 (rtOf u.time.cset u.time.lc))).setServo 0).syncSlew := rfl

theorem apart_leaving (u : State) : Apart u u.leaving :=
  Apart.trans (apart_holdBase u u.rt.toNat) (apart_hidden rfl rfl rfl rfl rfl rfl)

theorem leftLc_leaves (u : State) {mode : Nat} (hm : mode < 4) (sn : Time) : (u.leftLc mode sn).mode = mode ∧ (u.leftLc mode sn).time.sn = sn
    ∧ (u.leftLc mode sn).time.fw = none ∧ (u.leftLc mode sn).time.freeze = none ∧ (u.leftLc mode sn).time.slew = none
    ∧ (u.leftLc mode sn).time.armed = u.time.armed := by
  have put : (u.set R.KNL_TIME_MODE_MODE 0 mode).mode = mode := (get_set_same _ (by unfold Fld.plain; decide)).trans (Nat.mod_eq_of_lt hm)
  have time : (u.set R.KNL_TIME_MODE_MODE 0 mode).time = u.time := State.set_time ..
  unfold State.leftLc
  generalize u.set R.KNL_TIME_MODE_MODE 0 mode = v at put time ⊢
  obtain ⟨count, fw, freeze, slew, armed, same⟩ := seeded_time v sn
  have rest := newSet_rest (v.seeded sn) { ofs := sn96ToT96 sn, anchor := (v.seeded sn).time.lc, rate := 0 } 4 0
  exact ⟨(newSet_mode ..).trans (same.trans put), rest.sn.trans count, rest.fw.trans fw, rest.freeze.trans freeze, rest.slew.trans slew,
    rest.armed.trans (armed.trans (congrArg TimeSt.armed time))⟩

/-- What leaving LC makes (R51, R53, R106). -/
theorem leaveLc_leaves (u : State) {mode : Nat} (hm : mode < 4) : (u.leaveLc mode).mode = mode
    ∧ (u.leaveLc mode).time.sn = t96ToSn96 (rtOf u.time.cset u.time.lc) ∧ (u.leaveLc mode).time.fw = none ∧ (u.leaveLc mode).time.freeze = none
    ∧ (u.leaveLc mode).time.slew = none ∧ (u.leaveLc mode).servo = 0 ∧ (u.leaveLc mode).time.armed = u.time.armed := by
  rw [leaveLc_eq]
  generalize t96ToSn96 (rtOf u.time.cset u.time.lc) = sn
  obtain ⟨put, count, fw, freeze, slew, armed⟩ := leftLc_leaves u.leaving hm sn
  have based : u.leaving.time.armed = u.time.armed := congrArg TimeSt.armed (apart_leaving u).time
  generalize u.leaving.leftLc mode sn = v at put count fw freeze slew armed ⊢
  have served := apart_setServo v 0
  have servo : (v.setServo 0).servo = 0 := setServo_servo v (by decide)
  have shown : Within (· == 0x1002000) (v.setServo 0) (v.setServo 0).syncSlew := within_set _ _ _ _ (by decide)
  have modeEnd : (v.setServo 0).syncSlew.mode = (v.setServo 0).mode := get_set_beside rfl rfl (by decide) (by unfold Fld.plain; decide)
  have time : (v.setServo 0).syncSlew.time = v.time := shown.time.trans served.time
  rw [time]
  exact ⟨modeEnd.trans (served.mode.trans put), count, fw, freeze, slew, (get_of_word rfl (shown.word _ (by decide))).trans servo, armed.trans based⟩

/-! ### A bad copy of the set (R54) -/

/-- The state in which a bad copy of the set raises its source (R54). -/
def State.csetBad (s : State) (badA badB : Bool) : State :=
  let t := (s.withTime { s.time with copyABad := s.time.copyABad || badA, copyBBad := s.time.copyBBad || badB }).timeStat R.KNL_TIME_STAT_CSET_ECC
  if t.inLc && t.time.armed.isNone then t.arm .toRecovery else t

theorem csetEcc_eq (s : State) (badA badB : Bool) : s.csetEcc badA badB = (s.csetBad badA badB).raise fsCsetEcc := rfl

theorem exec_csetEccError (s : State) (a b : Bool) : exec (.csetEccError a b) s = .next (s.when_ (a || b) fun s => s.csetEcc a b) := rfl

theorem arm_leaves (s : State) (a : Armed) : (s.arm a).time = { s.time with armed := some (a, s.time.tick + 256) } ∧ (s.arm a).mode = s.mode
    ∧ (s.arm a).get R.KNL_TIME_MODE_ARMED = 1 ∧ (s.arm a).word 0x1002004 = s.word 0x1002004 := by
  have shown : Within (· == 0x1002000) (s.withTime { s.time with armed := some (a, s.time.tick + noticeTicks) }) (s.arm a) := within_set _ _ _ _ (by decide)
  have beside : (s.arm a).mode = (s.withTime { s.time with armed := some (a, s.time.tick + noticeTicks) }).mode :=
    get_set_beside rfl rfl (by decide) (by unfold Fld.plain; decide)
  exact ⟨shown.time, beside.trans (get_withTime ..), get_set_same _ (by unfold Fld.plain; decide), shown.word _ (by decide)⟩

/-- A bad copy in LC arms SN_RECOVERY, where no change is armed (R54). -/
theorem csetBad_leaves (s : State) (badA badB : Bool) : (s.csetBad badA badB).get R.KNL_TIME_STAT_CSET_ECC = 1 ∧ (s.csetBad badA badB).time.cset = s.time.cset
    ∧ (s.csetBad badA badB).mode = s.mode ∧ (s.inLc = true → s.time.armed = none → (s.csetBad badA badB).time.armed = some (.toRecovery, s.time.tick + 256)
      ∧ (s.csetBad badA badB).get R.KNL_TIME_MODE_ARMED = 1) := by
  unfold State.csetBad
  extract_lets _ t
  have marked : Within (· == 0x1002004) (s.withTime { s.time with copyABad := s.time.copyABad || badA, copyBBad := s.time.copyBBad || badB }) t :=
    within_timeStat _ _ (by decide)
  have bit : t.get R.KNL_TIME_STAT_CSET_ECC = 1 := get_timeStat_same _ (by unfold Fld.plain; decide) rfl
  have mode : t.mode = s.mode := (marked.get _ _ (by decide)).trans (get_withTime ..)
  have cset : t.time.cset = s.time.cset := by rw [marked.time]; rfl
  have armed : t.time.armed = s.time.armed := by rw [marked.time]; rfl
  have tick : t.time.tick = s.time.tick := by rw [marked.time]; rfl
  clear_value t
  obtain ⟨aTime, aMode, aArmed, aWord⟩ := arm_leaves t .toRecovery
  split
  · refine ⟨(get_of_word rfl aWord).trans bit, ?_, aMode.trans mode, fun _ _ => ⟨?_, aArmed⟩⟩
    · rw [aTime, ← cset]
    · rw [aTime, ← tick]
  · next stays =>
    refine ⟨bit, cset, mode, fun lc free => absurd ?_ stays⟩
    rw [inLc_of_mode mode, lc, armed, free]
    rfl

end Sys2Proof.Machine

/-! ## Leap seconds and the time bus (R47, R48, R55, R56) -/

namespace Sys2Proof.Machine

/-! ### Leap seconds -/

section leap

variable {s : State}

/-- The leap flags for a leap second (R48). -/
def State.flagged (s : State) (ptp ntp : BitVec 2) : State := s.withTime { s.time with ptpLeap := ptp, ntpLeap := ntp }

theorem leapFlags_none (h : s.time.leap = none) : s.leapFlags = s.flagged 0 0 := by
  unfold State.leapFlags
  rw [h]
  rfl

theorem leapFlags_some {l : Leap} (h : s.time.leap = some l) : s.leapFlags = s.flagged (if s.rtSec + 43200 ≥ l.at_ then BitVec.ofNat 2 l.kind else 0)
    (if s.rtSec + (if l.kind = 1 then 86401 else 86399) ≥ l.at_ then BitVec.ofNat 2 l.kind else 0) := by
  unfold State.leapFlags
  rw [h]
  rfl

theorem exec_leapFlagSet (s : State) : exec .leapFlagSet s = .next s.leapFlags := rfl

theorem exec_leapSecondEvent (s : State) : exec .leapSecondEvent s = .next s.leapSecond := rfl

theorem leapSecond_none (h : s.time.leap = none) : s.leapSecond = s := by
  unfold State.leapSecond
  rw [h]

theorem leapSecond_early {l : Leap} (h : s.time.leap = some l) (early : s.rtSec < l.at_) : s.leapSecond = s := by
  unfold State.leapSecond
  rw [h]
  exact if_pos early

/-- The offset of the sources that announced a leap second follows it (R48). -/
def Leap.fixed (l : Leap) (u : UtcSrc) : UtcSrc :=
  if u.leap = l.kind && u.at_ = l.at_ then { u with offset := u.offset + (if l.kind = 1 then 1 else -1), leap := 0, at_ := 0 } else u

/-- The state in which the offset of a leap second is shown (R48). -/
def State.leapFixed (s : State) (l : Leap) : State := s.withTime { s.time with utcGnss := s.time.utcGnss.map l.fixed, utcHost := s.time.utcHost.map l.fixed }

theorem leapFixed_leaves (s : State) (l : Leap) : (s.leapFixed l).time.lc = s.time.lc ∧ (s.leapFixed l).time.sn = s.time.sn
    ∧ (s.leapFixed l).time.cset = s.time.cset ∧ ∀ f i, (s.leapFixed l).get f i = s.get f i := ⟨rfl, rfl, rfl, get_withTime s _⟩

theorem leapSecond_late {l : Leap} (h : s.time.leap = some l) (late : l.at_ ≤ s.rtSec) : s.leapSecond
    = (((s.leapFixed l).utcShow (BitVec.ofNat 16 ((s.leapFixed l).get R.KNL_UTC_UTC_OFFSET) + (if l.kind = 1 then 1 else -1)).toNat none
        ((s.leapFixed l).get R.KNL_UTC_SRC)).leapFlags).timeStat R.KNL_TIME_STAT_LEAP_DONE := by
  unfold State.leapSecond
  rw [h]
  exact if_neg (Nat.not_lt.mpr late)

/-- What KNL_UTC and KNL_LEAP_AT show with no leap second announced (R47). -/
theorem utcShow_none (s : State) {offset : Nat} (src : Nat) (h : offset < 65536) : (s.utcShow offset none src).get R.KNL_UTC_UTC_OFFSET = offset
    ∧ (s.utcShow offset none src).get R.KNL_LEAP_AT = 0 ∧ (s.utcShow offset none src).time = { s.time with leap := none }
    ∧ (s.utcShow offset none src).mode = s.mode := by
  unfold State.utcShow
  extract_lets s1 _ s2 s3 s4 s5 s6 _
  have put : s1.get R.KNL_UTC_UTC_OFFSET = offset := (get_set_same _ (by unfold Fld.plain; decide)).trans (Nat.mod_eq_of_lt h)
  have beside : ∀ (u : State) (f : Fld) (v : Nat), f.at 0 = 0x1002090 → f.words = 1 → 16 ≤ f.lsb → (u.set f 0 v).get R.KNL_UTC_UTC_OFFSET = u.get R.KNL_UTC_UTC_OFFSET :=
    fun u f v ha hw hl => get_set_beside ha.symm hw.symm (.inl hl) (by unfold Fld.plain; rw [hw, ha]; decide)
  have offset5 : s5.get R.KNL_UTC_UTC_OFFSET = s1.get R.KNL_UTC_UTC_OFFSET :=
    (beside s4 _ _ rfl rfl (by decide)).trans ((beside s3 _ _ rfl rfl (by decide)).trans ((beside s2 _ _ rfl rfl (by decide)).trans (beside s1 _ _ rfl rfl (by decide))))
  have word : ∀ (u : State) (f : Fld) (v : Nat), f.at 0 = 0x1002090 → f.words = 1 → Within (fun a => a == 0x1002090 || a == 0x1002094 || a == 0x1002098) u (u.set f 0 v) :=
    fun u f v ha hw => within_set _ _ _ _ fun k hk => by
      have k0 : k = 0 := by omega
      rw [ha, k0]
      rfl
  have all : Within (fun a => a == 0x1002090 || a == 0x1002094 || a == 0x1002098) s s6 :=
    (((((word s _ _ rfl rfl).trans (word s1 _ _ rfl rfl)).trans (word s2 _ _ rfl rfl)).trans (word s3 _ _ rfl rfl)).trans (word s4 _ _ rfl rfl)).trans
      (within_set _ _ _ _ (by decide))
  have offset6 : s6.get R.KNL_UTC_UTC_OFFSET = offset := (get_set_apart (by decide)).trans (offset5.trans put)
  have at6 : s6.get R.KNL_LEAP_AT = 0 := get_set_same _ (by unfold Fld.plain; decide)
  have time6 : s6.time = s.time := all.time
  have mode6 : s6.mode = s.mode := all.get _ _ (by decide)
  clear_value s6
  exact ⟨(get_withTime s6 _ _ _).trans offset6, (get_withTime s6 _ _ _).trans at6, congrArg (fun x : TimeSt => { x with leap := none }) time6,
    (get_withTime s6 _ _ _).trans mode6⟩

/-- What the end of a leap second shows last (R48). -/
theorem leapDone_leaves {v : State} (h : v.time.leap = none) : (v.leapFlags.timeStat R.KNL_TIME_STAT_LEAP_DONE).get R.KNL_UTC_UTC_OFFSET = v.get R.KNL_UTC_UTC_OFFSET
    ∧ (v.leapFlags.timeStat R.KNL_TIME_STAT_LEAP_DONE).time.leap = none ∧ (v.leapFlags.timeStat R.KNL_TIME_STAT_LEAP_DONE).get R.KNL_LEAP_AT = v.get R.KNL_LEAP_AT
    ∧ (v.leapFlags.timeStat R.KNL_TIME_STAT_LEAP_DONE).get R.KNL_TIME_STAT_LEAP_DONE = 1 ∧ (v.leapFlags.timeStat R.KNL_TIME_STAT_LEAP_DONE).rt = v.rt := by
  rw [leapFlags_none h]
  have done := within_timeStat (v.flagged 0 0) R.KNL_TIME_STAT_LEAP_DONE (by decide)
  have flags : ∀ f i, (v.flagged 0 0).get f i = v.get f i := get_withTime v _
  have set := get_timeStat_same (v.flagged 0 0) (f := R.KNL_TIME_STAT_LEAP_DONE) (by unfold Fld.plain; decide) rfl
  have leap : (v.flagged 0 0).time.leap = v.time.leap := rfl
  have cset : (v.flagged 0 0).time.cset = v.time.cset := rfl
  have lc : (v.flagged 0 0).time.lc = v.time.lc := rfl
  have sn : (v.flagged 0 0).time.sn = v.time.sn := rfl
  generalize v.flagged 0 0 = w at done flags set leap cset lc sn ⊢
  have time := done.time
  refine ⟨(done.get _ _ (by decide)).trans (flags _ _), ?_, (done.get _ _ (by decide)).trans (flags _ _), set,
    rt_congr ((done.get _ _ (by decide)).trans (flags _ _)) ?_ ?_ ?_⟩
  · rw [time, leap, h]
  · rw [time, cset]
  · rw [time, lc]
  · rw [time, sn]

/-- The offset after a leap second (R48). -/
theorem leapOffset (x : Nat) (l : Leap) : (BitVec.ofNat 16 x + (if l.kind = 1 then 1 else -1)).toNat = (x + (if l.kind = 1 then 1 else 65535)) % 65536 := by
  have plus : (1 : BitVec 16).toNat = 1 := rfl
  have minus : (-1 : BitVec 16).toNat = 65535 := by decide
  rw [BitVec.toNat_add, BitVec.toNat_ofNat]
  split
  · rw [plus]; omega
  · rw [minus]; omega

/-- The end of a leap second (R48). -/
theorem leapSecond_leaves {l : Leap} (h : s.time.leap = some l) (late : l.at_ ≤ s.rtSec) :
    s.leapSecond.get R.KNL_UTC_UTC_OFFSET = (s.get R.KNL_UTC_UTC_OFFSET + (if l.kind = 1 then 1 else 65535)) % 65536 ∧ s.leapSecond.time.leap = none
      ∧ s.leapSecond.get R.KNL_LEAP_AT = 0 ∧ s.leapSecond.get R.KNL_TIME_STAT_LEAP_DONE = 1 ∧ s.leapSecond.rt = s.rt := by
  obtain ⟨lc, sn, cset, words⟩ := leapFixed_leaves s l
  rw [leapSecond_late h late, leapOffset, words]
  have bound : (s.get R.KNL_UTC_UTC_OFFSET + (if l.kind = 1 then 1 else 65535)) % 65536 < 65536 := Nat.mod_lt _ (by decide)
  generalize (s.get R.KNL_UTC_UTC_OFFSET + (if l.kind = 1 then 1 else 65535)) % 65536 = offset at bound ⊢
  obtain ⟨shown, at_, time, mode⟩ := utcShow_none (s.leapFixed l) ((s.leapFixed l).get R.KNL_UTC_SRC) bound
  have same : (s.leapFixed l).mode = s.mode := words ..
  generalize s.leapFixed l = w at time mode same lc sn cset shown at_ ⊢
  generalize w.utcShow offset none (w.get R.KNL_UTC_SRC) = v at time mode shown at_ ⊢
  have rt : v.rt = s.rt := rt_congr (mode.trans same) (by rw [time, ← cset]) (by rw [time, ← lc]) (by rw [time, ← sn])
  obtain ⟨offsetEnd, leapEnd, atEnd, done, rtEnd⟩ := leapDone_leaves (v := v) (by rw [time])
  exact ⟨offsetEnd.trans shown, leapEnd, atEnd.trans at_, done, rtEnd.trans rt⟩

end leap

/-! ### The time bus -/

theorem setAt_get (xs : List Nat) (i v : Nat) : (setAt xs i v)[i]? = some v := by
  unfold setAt
  dsimp only
  rw [List.append_assoc, List.getElem?_append_right (by simp), List.length_take, List.length_append, List.length_replicate, Nat.min_eq_left (by omega)]
  simp

section bus

variable {s : State} {n : Fin 11}

/-- The count of a reader reloaded (R56). -/
def State.reloaded (s : State) (n : Fin 11) : State :=
  s.withTime { s.time with replicas := s.time.replicas.set n (if s.inLc then { s.time.replicas[n] with lc := 0 } else { s.time.replicas[n] with sn := 0 }) }

/-- The mismatch bit of a reader (R56). -/
def State.mismatchBit (s : State) (n : Fin 11) : State :=
  if n.val < 8 then s.raiseBit R.KNL_TBUS_STAT_PG_MISMATCH 0 n
  else if n.val = 8 then s.timeStat R.KNL_TBUS_STAT_ENG_MISMATCH
  else if n.val = 9 then s.timeStat R.KNL_TBUS_STAT_SYN_MISMATCH
  else s.timeStat R.KNL_TBUS_STAT_PCK_MISMATCH

/-- A reader's timestamps are degraded for 1,024 ticks (R56). -/
def State.degradedReader (s : State) (n : Fin 11) : State := s.withTime { s.time with readerDegr := setAt s.time.readerDegr n (s.time.tick + 1024) }

/-- What a reader does at a mismatch, but for DEGRADED of its links and the fault (R56, R313). -/
def State.mismatched (s : State) (n : Fin 11) : State :=
  let u := (((s.reloaded n).mismatchBit n).bump R.KNL_TBUS_STAT_MISMATCH_CNT).degradedReader n
  if n.val = 9 then u.synMismatch (s.replicaErr n) else u

theorem readerMismatch_eq (s : State) (n : Fin 11) : s.readerMismatch n = (s.mismatched n).degrSync.raise fsTbusMismatch n.val := rfl

theorem exec_tbusFullWordCheck (s : State) (n : Fin 11) (by_ : Int) : exec (.tbusFullWordCheck n by_) s
    = .next ((s.upset n by_).when_ ((s.upset n by_).replicaWord n != (s.upset n by_).fullWord.1) fun s => s.readerMismatch n) := rfl

/-- The word of KNL_TBUS_STAT. -/
theorem mismatchBit_within (s : State) (n : Fin 11) : Within (· == 0x10020A0) s (s.mismatchBit n) := by
  have pg : Within (· == 0x10020A0) s (s.set R.KNL_TBUS_STAT_PG_MISMATCH 0 (s.get R.KNL_TBUS_STAT_PG_MISMATCH ||| 2 ^ n.val)) := within_set _ _ _ _ (by decide)
  exact within_ite pg (within_ite (within_set _ _ _ _ (by decide)) (within_ite (within_set _ _ _ _ (by decide)) (within_set _ _ _ _ (by decide))))

/-- The bit of the reader is set, and the count stands (R56). -/
theorem mismatchBit_shows (s : State) (n : Fin 11) : (s.mismatchBit n).get R.KNL_TBUS_STAT_MISMATCH_CNT = s.get R.KNL_TBUS_STAT_MISMATCH_CNT
    ∧ (n.val < 8 → (s.mismatchBit n).get R.KNL_TBUS_STAT_PG_MISMATCH = s.get R.KNL_TBUS_STAT_PG_MISMATCH ||| 2 ^ n.val)
    ∧ (n.val = 8 → (s.mismatchBit n).get R.KNL_TBUS_STAT_ENG_MISMATCH = 1) ∧ (n.val = 9 → (s.mismatchBit n).get R.KNL_TBUS_STAT_SYN_MISMATCH = 1)
    ∧ (n.val = 10 → (s.mismatchBit n).get R.KNL_TBUS_STAT_PCK_MISMATCH = 1) := by
  have beside : ∀ (f : Fld) (v : Nat), f.at 0 = 0x10020A0 → f.words = 1 → f.lsb + f.width ≤ 16 →
      (s.set f 0 v).get R.KNL_TBUS_STAT_MISMATCH_CNT = s.get R.KNL_TBUS_STAT_MISMATCH_CNT :=
    fun f v ha hw hl => get_set_beside ha.symm hw.symm (.inr hl) (by unfold Fld.plain; rw [hw, ha]; decide)
  have pg : ∀ h : n.val < 8, (s.set R.KNL_TBUS_STAT_PG_MISMATCH 0 (s.get R.KNL_TBUS_STAT_PG_MISMATCH ||| 2 ^ n.val)).get R.KNL_TBUS_STAT_PG_MISMATCH
      = s.get R.KNL_TBUS_STAT_PG_MISMATCH ||| 2 ^ n.val := fun h =>
    (get_set_same _ (by unfold Fld.plain; decide)).trans
      (Nat.mod_eq_of_lt (Nat.or_lt_two_pow (get_lt s R.KNL_TBUS_STAT_PG_MISMATCH 0) (Nat.pow_lt_pow_right (by decide) h)))
  have lone : n.val = 8 ∨ n.val = 9 ∨ n.val = 10 ∨ n.val < 8 := by omega
  unfold State.mismatchBit
  rcases lone with h | h | h | h
  · rw [if_neg (by omega), if_pos h]
    exact ⟨beside _ _ rfl rfl (by decide), by omega, fun _ => get_timeStat_same _ (by unfold Fld.plain; decide) rfl, by omega, by omega⟩
  · rw [if_neg (by omega), if_neg (by omega), if_pos h]
    exact ⟨beside _ _ rfl rfl (by decide), by omega, by omega, fun _ => get_timeStat_same _ (by unfold Fld.plain; decide) rfl, by omega⟩
  · rw [if_neg (by omega), if_neg (by omega), if_neg (by omega)]
    exact ⟨beside _ _ rfl rfl (by decide), by omega, by omega, by omega, fun _ => get_timeStat_same _ (by unfold Fld.plain; decide) rfl⟩
  · rw [if_pos h]
    exact ⟨beside _ _ rfl rfl (by decide), fun h => pg h, by omega, by omega, by omega⟩

/-- The count of mismatches, beside the bits (R56). -/
theorem mismatchCount (s : State) : (s.bump R.KNL_TBUS_STAT_MISMATCH_CNT).get R.KNL_TBUS_STAT_MISMATCH_CNT
      = Nat.min (s.get R.KNL_TBUS_STAT_MISMATCH_CNT + 1) (2 ^ R.KNL_TBUS_STAT_MISMATCH_CNT.width - 1)
    ∧ Within (· == 0x10020A0) s (s.bump R.KNL_TBUS_STAT_MISMATCH_CNT)
    ∧ ∀ f : Fld, f.at 0 = 0x10020A0 → f.words = 1 → f.lsb + f.width ≤ 16 → (s.bump R.KNL_TBUS_STAT_MISMATCH_CNT).get f = s.get f := by
  refine ⟨(get_set_same _ (by unfold Fld.plain; decide)).trans (Nat.mod_eq_of_lt ?_), within_set _ _ _ _ (by decide),
    fun f ha hw hl => get_set_beside ha hw (.inl hl) (by unfold Fld.plain; decide)⟩
  exact lt_of_le_of_lt (Nat.min_le_right _ _) (by decide)

theorem reloaded_leaves (s : State) (n : Fin 11) : (∀ f i, (s.reloaded n).get f i = s.get f i) ∧ (s.reloaded n).time.tick = s.time.tick
    ∧ (s.reloaded n).time.lc = s.time.lc ∧ (s.inLc = true → (s.reloaded n).time.replicas[n].lc = 0) := by
  refine ⟨get_withTime s _, rfl, rfl, fun lc => ?_⟩
  show (s.time.replicas.set n (if s.inLc then { s.time.replicas[n] with lc := 0 } else { s.time.replicas[n] with sn := 0 }))[n].lc = 0
  rw [if_pos lc]
  simp

theorem degradedReader_leaves (s : State) (n : Fin 11) : (∀ f i, (s.degradedReader n).get f i = s.get f i)
    ∧ (s.degradedReader n).time.readerDegr[n.val]? = some (s.time.tick + 1024) ∧ (s.degradedReader n).time.replicas = s.time.replicas :=
  ⟨get_withTime s _, setAt_get _ _ _, rfl⟩

theorem replicaWord_right {u : State} (lc : u.inLc = true) (h : u.time.replicas[n].lc = 0) : u.replicaWord n = u.fullWord.1 := by
  unfold State.replicaWord State.fullWord
  dsimp only
  rw [if_pos ((seenBy_inLc u n).trans lc), if_pos lc, seenBy_lc u n h]

/-- What a reader's mismatch leaves before its fault (R56). -/
theorem mismatched_leaves (s : State) (n : Fin 11) : (s.mismatched n).get R.KNL_TBUS_STAT_MISMATCH_CNT
      = Nat.min (s.get R.KNL_TBUS_STAT_MISMATCH_CNT + 1) (2 ^ R.KNL_TBUS_STAT_MISMATCH_CNT.width - 1)
    ∧ (n.val < 8 → (s.mismatched n).get R.KNL_TBUS_STAT_PG_MISMATCH = s.get R.KNL_TBUS_STAT_PG_MISMATCH ||| 2 ^ n.val)
    ∧ (n.val = 8 → (s.mismatched n).get R.KNL_TBUS_STAT_ENG_MISMATCH = 1) ∧ (n.val = 9 → (s.mismatched n).get R.KNL_TBUS_STAT_SYN_MISMATCH = 1)
    ∧ (n.val = 10 → (s.mismatched n).get R.KNL_TBUS_STAT_PCK_MISMATCH = 1) ∧ (s.mismatched n).time.readerDegr[n.val]? = some (s.time.tick + 1024)
    ∧ (s.inLc = true → (s.mismatched n).replicaWord n = (s.mismatched n).fullWord.1) := by
  obtain ⟨words, tick, -, replica⟩ := reloaded_leaves s n
  have inLc : (s.reloaded n).inLc = s.inLc := inLc_of_mode (words _ _)
  unfold State.mismatched
  extract_lets u
  have synced : Apart u (if n.val = 9 then u.synMismatch (s.replicaErr n) else u) := (apart_synMismatch _ _).ite (.refl _)
  obtain ⟨count, pg, eng, syn, pck⟩ := mismatchBit_shows (s.reloaded n) n
  have bit := mismatchBit_within (s.reloaded n) n
  obtain ⟨counted, bumped, beside⟩ := mismatchCount ((s.reloaded n).mismatchBit n)
  obtain ⟨uWords, degr, replicas⟩ := degradedReader_leaves (((s.reloaded n).mismatchBit n).bump R.KNL_TBUS_STAT_MISMATCH_CNT) n
  have uTick : (((s.reloaded n).mismatchBit n).bump R.KNL_TBUS_STAT_MISMATCH_CNT).time = (s.reloaded n).time := bumped.time.trans bit.time
  have uReplica : u.time.replicas = (s.reloaded n).time.replicas := replicas.trans (congrArg TimeSt.replicas uTick)
  have uInLc : u.inLc = s.inLc :=
    (inLc_of_mode ((uWords _ _).trans ((bumped.get _ _ (by decide)).trans (bit.get _ _ (by decide))))).trans inLc
  rw [synced.get _ _ (by decide), synced.get _ _ (by decide), synced.get _ _ (by decide), synced.get _ _ (by decide), synced.get _ _ (by decide), synced.time]
  refine ⟨(uWords _ _).trans (counted.trans (by rw [count, words])), fun h => ?_, fun h => ?_, fun h => ?_, fun h => ?_, ?_, fun lc => ?_⟩
  · exact (uWords _ _).trans ((beside _ rfl rfl (by decide)).trans ((pg h).trans (by rw [words])))
  · exact (uWords _ _).trans ((beside _ rfl rfl (by decide)).trans (eng h))
  · exact (uWords _ _).trans ((beside _ rfl rfl (by decide)).trans (syn h))
  · exact (uWords _ _).trans ((beside _ rfl rfl (by decide)).trans (pck h))
  · rw [degr, uTick, tick]
  · refine replicaWord_right (synced.inLc.trans (uInLc.trans lc)) ?_
    rw [synced.time, uReplica]
    exact replica lc

theorem upset_leaves (s : State) (n : Fin 11) (by_ : Int) : (∀ f i, (s.upset n by_).get f i = s.get f i) ∧ (s.upset n by_).time.tick = s.time.tick :=
  ⟨fun f i => get_of_words (s := s) (t := s.upset n by_) (fun _ => rfl) f i, rfl⟩

end bus

/-! ### Time sources and bus -/

/-- Tick H of a handover into LC (R53). -/
theorem handover_toLc {s : State} {f : DWord} {due : Nat} (h : s.time.armed = some (.toLc f, due)) (late : due ≤ s.time.tick) :
    s.handoverTick.mode = 1 ∧ s.handoverTick.time.cset = { ofs := sn96ToT96 s.time.sn, anchor := s.time.lc, rate := f }
      ∧ s.handoverTick.rt = sn96ToT96 s.time.sn ∧ s.handoverTick.time.armed = none ∧ s.handoverTick.get R.KNL_TIME_MODE_ARMED = 0
      ∧ s.handoverTick.get R.KNL_TIME_STAT_HANDOVER_DONE = 1 ∧ s.handoverTick.time.lastFw = some s.time.tick := by
  have time := disarmed_time s
  have off := disarmed_armed s
  rw [handoverTick_toLc h late]
  generalize s.disarmed = u at time off ⊢
  have sn : u.time.sn = s.time.sn := by rw [time]
  have lc : u.time.lc = s.time.lc := by rw [time]
  have tick : u.time.tick = s.time.tick := by rw [time]
  have armed : u.time.armed = none := by rw [time]
  obtain ⟨mode, cset, lcIn, armedIn, shownIn, last⟩ := enterLc_leaves u f
  generalize u.enterLc f = w at mode cset lcIn armedIn shownIn last ⊢
  obtain ⟨tTime, done, word, -, -⟩ := handedOver_leaves w
  have tMode : w.handedOver.mode = 1 := (get_of_word rfl word).trans mode
  have tShown : w.handedOver.get R.KNL_TIME_MODE_ARMED = w.get R.KNL_TIME_MODE_ARMED := get_of_word rfl word
  rw [sn, lc] at cset
  rw [rt_inLc ((inLc_iff _).mpr tMode), tTime, cset, lcIn, lc, rtOf_anchor, armedIn, armed, last, tick, tShown, shownIn, off]
  exact ⟨tMode, rfl, rfl, rfl, rfl, done, rfl⟩

/-- Tick H of a move out of LC (R51, R53, R106). -/
theorem handover_leave {s : State} {a : Armed} {due : Nat} (lc : s.inLc = true) (h : s.time.armed = some (a, due)) (late : due ≤ s.time.tick)
    (move : a = .toTest ∨ a = .toRecovery) : s.handoverTick.mode = (if a = .toTest then 3 else 2) ∧ s.handoverTick.time.sn = t96ToSn96 s.rt
      ∧ s.handoverTick.time.fw = none ∧ s.handoverTick.time.freeze = none ∧ s.handoverTick.time.slew = none ∧ s.handoverTick.servo = 0
      ∧ s.handoverTick.time.armed = none ∧ s.handoverTick.get R.KNL_TIME_STAT_HANDOVER_DONE = 1
      ∧ (a = .toRecovery → s.handoverTick.get R.KNL_TIME_STAT_SN_ENTERED = 1) := by
  obtain ⟨test, recovery⟩ := handoverTick_leave h late lc
  have time := disarmed_time s
  have rt : t96ToSn96 (rtOf s.disarmed.time.cset s.disarmed.time.lc) = t96ToSn96 s.rt := by rw [rt_inLc lc, time]
  have armed : s.disarmed.time.armed = none := by rw [time]
  rcases move with rfl | rfl
  · rw [test rfl]
    obtain ⟨mode, sn, fw, freeze, slew, servo, armedIn⟩ := leaveLc_leaves s.disarmed (mode := 3) (by decide)
    rw [rt] at sn
    rw [armed] at armedIn
    generalize s.disarmed.leaveLc 3 = w at mode sn fw freeze slew servo armedIn ⊢
    obtain ⟨tTime, done, word, servoWord, -⟩ := handedOver_leaves w
    rw [tTime]
    exact ⟨(get_of_word rfl word).trans mode, sn, fw, freeze, slew, (get_of_word rfl servoWord).trans servo, armedIn, done, fun h => nomatch h⟩
  · rw [recovery rfl]
    obtain ⟨mode, sn, fw, freeze, slew, servo, armedIn⟩ := leaveLc_leaves s.disarmed (mode := 2) (by decide)
    rw [rt] at sn
    rw [armed] at armedIn
    generalize s.disarmed.leaveLc 2 = w at mode sn fw freeze slew servo armedIn ⊢
    have entered := within_timeStat w R.KNL_TIME_STAT_SN_ENTERED (by decide)
    have set := get_timeStat_same w (f := R.KNL_TIME_STAT_SN_ENTERED) (by unfold Fld.plain; decide) rfl
    obtain ⟨tTime, done, word, servoWord, kept⟩ := handedOver_leaves (w.timeStat R.KNL_TIME_STAT_SN_ENTERED)
    rw [tTime, entered.time]
    exact ⟨(get_of_word rfl (word.trans (entered.word _ (by decide)))).trans mode, sn, fw, freeze, slew,
      (get_of_word rfl (servoWord.trans (entered.word _ (by decide)))).trans servo, armedIn, done, fun _ => kept.trans set⟩

/-- Settles O18: handovers, leap seconds, and the check of a replica. -/
theorem timeSourcesAndBus : Obligations.TimeSourcesAndBus := by
  unfold Obligations.TimeSourcesAndBus
  refine ⟨fun s => ⟨fun a due h early => ?_, fun h => ?_, fun f due h late => ⟨_, exec_handoverTick s, handover_toLc h late⟩,
    fun a due lc h late move => ⟨_, exec_handoverTick s, handover_leave lc h late move⟩, rfl, fun a b bad => ?_⟩,
    fun s => ⟨fun h => ⟨_, exec_leapFlagSet s, ?_⟩, fun l h => ⟨_, exec_leapFlagSet s, ?_⟩, fun h => ?_, fun l h early => ?_,
      fun l h late => ⟨_, exec_leapSecondEvent s, leapSecond_leaves h late⟩, fun n by_ => ?_⟩⟩
  · rw [exec_handoverTick, handoverTick_early h early]
  · rw [exec_handoverTick, handoverTick_none h]
  · obtain ⟨bit, cset, mode, arms⟩ := csetBad_leaves s a b
    refine ⟨s.csetBad a b, bit, cset, mode, arms, ?_⟩
    rw [exec_csetEccError, when_of_true _ (by simpa using bad), csetEcc_eq]
  · rw [leapFlags_none h]
    exact ⟨rfl, rfl, rfl⟩
  · rw [leapFlags_some h]
    exact ⟨rfl, rfl, rfl⟩
  · rw [exec_leapSecondEvent, leapSecond_none h]
  · rw [exec_leapSecondEvent, leapSecond_early h early]
  · intro x
    obtain ⟨words, tick⟩ := upset_leaves s n by_
    obtain ⟨count, pg, eng, syn, pck, degr, right⟩ := mismatched_leaves x n
    rw [exec_tbusFullWordCheck]
    refine ⟨fun same => when_of_false _ (bne_eq_false_iff_eq.mpr same) ▸ rfl, fun differs => ⟨x.mismatched n, ?_, ?_, eng, syn, pck, ?_, ?_, ?_⟩⟩
    · rw [count, words]
    · intro h
      rw [pg h, words]
    · rw [degr, tick]
    · exact fun lc => right ((inLc_of_mode (words _ _)).trans lc)
    · rw [when_of_true _ (bne_iff_ne.mpr differs)]
      rfl

end Sys2Proof.Machine

/-! ## Merged updates in LC (R34 to R40) -/

namespace Sys2Proof.Machine

/-! ### A merged update in its parts -/

/-- The time after the updates that are due have been taken up (R37). -/
def State.mergeStart (s : State) (m : Merge) (refused : Bool) : State :=
  let u := if refused then s.timeStat R.KNL_TIME_STAT_RATE_RANGE else s
  u.withTime { u.time with fw := if m.fw.isSome || m.freeze.isSome then none else s.time.fw
                           freeze := if m.freeze.isSome then none else s.time.freeze
                           steps := s.time.steps.filter fun u => decide (u.due > s.time.tick) }

/-- Whether the firmware update is the one that counts. -/
def Merge.fwOn (m : Merge) (o : Merged) : Bool := o.taken && m.fw.isSome && m.freeze.isNone

/-- The sum of the steps of a merged update. -/
def Merge.step (m : Merge) : Time := (m.steps.map (·.step)).foldl (· + ·) 0

/-- The set that a merged update makes (R36, R37). -/
def State.mergeSet (s : State) (m : Merge) (o : Merged) : CorrSet :=
  { ofs := rtOf s.time.cset s.time.lc + m.step, anchor := s.time.lc, rate := BitVec.ofInt 64 (o.freq + slewOf o.slew) }

/-- KIND of the entry of a merged update (R57). -/
def Merge.kind (m : Merge) (o : Merged) : Nat :=
  if !m.steps.isEmpty then 2 else if o.taken && m.freeze.isSome then 5 else if m.fwOn o then 0 else 1

/-- The slew of a merged update, and the tick of the last firmware update. -/
def State.mergeSlew (s v : State) (m : Merge) (o : Merged) : State :=
  v.withTime { v.time with slew := o.slew, lastFw := if m.fwOn o then some s.time.tick else v.time.lastFw }

/-- The events of a new set. -/
def State.mergeNoted (v : State) (m : Merge) (o : Merged) : State :=
  let v := if m.fwOn o then v.obs 0x0A 0 else v
  if m.slewEnd then v.obs 0x0A 1 else v

/-- What follows a new set: the carry of the Leash, outputs and launches under a new RT (R40, R240, R313). -/
def State.mergeAfter (s v : State) (m : Merge) : State :=
  let total := match s.time.slew with
    | some w => w.part + w.phase.toInt
    | none => 0
  let v := if m.slewEnd then v.carryLess (unitsToPs total).natAbs else v
  if m.steps.isEmpty then v
  else (v.carryLess (unitsToPs (m.step.toInt + (if m.slewEnd then 0 else s.slewMade))).natAbs).stepRealign.phaseAgain.launchAgain

/-- The records of the steps of a merged update. -/
def State.mergeSteps (s v : State) (m : Merge) : State := m.steps.foldl (fun u o => u.stepRecord o (rtOf s.time.cset v.lcBefore)) v

theorem applyMerge_made {s : State} {m : Merge} (h : (s.mergeLimit m).made = true) : s.applyMerge m
    = (s.mergeAfter (s.mergeSlew (((s.mergeSteps (s.mergeStart m (s.mergeLimit m).refused) m).newSet (s.mergeSet m (s.mergeLimit m)) (m.kind (s.mergeLimit m))
        (if m.steps.isEmpty then 0 else m.step)).mergeNoted m (s.mergeLimit m)) m (s.mergeLimit m)) m).syncSlew := by
  unfold State.applyMerge
  extract_lets _ _ _ o _ _ _ _ s2 _ _ s3 _ _ s4 _ s6 _ s7 _ s9
  have taken : ¬ (!o.made) = true := by rw [h]; decide
  have start : s2 = s.mergeStart m o.refused := rfl
  have steps : s3 = s.mergeSteps s2 m := rfl
  have made : s4 = s3.newSet (s.mergeSet m o) (m.kind o) (if m.steps.isEmpty then 0 else m.step) := rfl
  have noted : s6 = s4.mergeNoted m o := rfl
  have slewed : s7 = s.mergeSlew s6 m o := rfl
  have after : s9 = s.mergeAfter s7 m := rfl
  rw [if_neg taken, after, slewed, noted, made, steps, start]

theorem applyMerge_unmade {s : State} {m : Merge} (h : (s.mergeLimit m).made = false) (none_ : m.steps = []) :
    s.applyMerge m = s.mergeStart m (s.mergeLimit m).refused :=
  (if_pos (by rw [h]; rfl)).trans (if_pos (by rw [none_]; rfl))

/-! ### What each part leaves -/

theorem timeStat_ite (s : State) (refused : Bool) : (if refused then s.timeStat R.KNL_TIME_STAT_RATE_RANGE else s).time = s.time
    ∧ (if refused then s.timeStat R.KNL_TIME_STAT_RATE_RANGE else s).word 0x1002000 = s.word 0x1002000
    ∧ (refused = true → (if refused then s.timeStat R.KNL_TIME_STAT_RATE_RANGE else s).get R.KNL_TIME_STAT_RATE_RANGE = 1) := by
  cases refused with
  | false => exact ⟨rfl, rfl, fun h => nomatch h⟩
  | true =>
    have marked := within_timeStat s R.KNL_TIME_STAT_RATE_RANGE (by decide)
    exact ⟨marked.time, marked.word _ (by decide), fun _ => get_timeStat_same s (by unfold Fld.plain; decide) rfl⟩

section parts

variable {s : State} {m : Merge} {o : Merged}

/-- What taking up the due updates leaves of the time. -/
structure Started (m : Merge) (x y : TimeSt) : Prop where
  lc : y.lc = x.lc
  sn : y.sn = x.sn
  cset : y.cset = x.cset
  lastFw : y.lastFw = x.lastFw
  slew : y.slew = x.slew
  fw : y.fw = if m.fw.isSome || m.freeze.isSome then none else x.fw
  freeze : y.freeze = if m.freeze.isSome then none else x.freeze
  steps : y.steps = x.steps.filter fun u => decide (u.due > x.tick)

theorem mergeStart_leaves (s : State) (m : Merge) (refused : Bool) : Started m s.time (s.mergeStart m refused).time
    ∧ (s.mergeStart m refused).word 0x1002000 = s.word 0x1002000
    ∧ (refused = true → (s.mergeStart m refused).get R.KNL_TIME_STAT_RATE_RANGE = 1) := by
  obtain ⟨time, word, bit⟩ := timeStat_ite s refused
  unfold State.mergeStart
  generalize (if refused then s.timeStat R.KNL_TIME_STAT_RATE_RANGE else s) = u at time word bit ⊢
  have lc : u.time.lc = s.time.lc := by rw [time]
  have sn : u.time.sn = s.time.sn := by rw [time]
  have cset : u.time.cset = s.time.cset := by rw [time]
  have lastFw : u.time.lastFw = s.time.lastFw := by rw [time]
  have slew : u.time.slew = s.time.slew := by rw [time]
  exact ⟨⟨lc, sn, cset, lastFw, slew, rfl, rfl, rfl⟩, word, fun h => (get_withTime ..).trans (bit h)⟩

theorem mergeStart_room (s : State) (m : Merge) {n : Nat} (h : s.room n) : (s.mergeStart m false).room n := by
  unfold State.room State.unexported at h ⊢
  have ack : (s.mergeStart m false).get R.KNL_AUDIT_ACK = s.get R.KNL_AUDIT_ACK := get_withTime s _ _ _
  rw [ack]
  exact h

/-- Records of steps leave the time and its mode word; one of them shows its counter (R40, R62). -/
theorem mergeSteps_leaves (s v : State) (m : Merge) (h : m.steps = [] ∨ (∃ o, m.steps = [o]) ∧ v.room 1) : (s.mergeSteps v m).time = v.time
    ∧ (s.mergeSteps v m).word 0x1002000 = v.word 0x1002000
    ∧ ∀ o, m.steps = [o] → (s.mergeSteps v m).get R.KNL_TIME_STAT_STEP_DONE = 1 ∧ (s.mergeSteps v m).get R.KNL_MBX_CMD_CNT = o.counter.toNat := by
  unfold State.mergeSteps
  rcases h with h | ⟨⟨o, h⟩, room⟩
  · rw [h]
    exact ⟨rfl, rfl, fun _ h => nomatch h⟩
  · obtain ⟨time, done, count, word⟩ := stepRecord_leaves room o (rtOf s.time.cset v.lcBefore)
    rw [h]
    refine ⟨time, word, fun o' e => ?_⟩
    obtain rfl : o = o' := (List.cons.inj e).1
    exact ⟨done, count⟩

theorem mergeNoted_apart (v : State) (m : Merge) (o : Merged) : Apart v (v.mergeNoted m o) :=
  Apart.trans ((apart_obs v 0x0A 0 1).ite (.refl v)) ((apart_obs _ 0x0A 1 1).ite (.refl _))

theorem mergeAfter_apart (s v : State) (m : Merge) : Apart v (s.mergeAfter v m) := by
  unfold State.mergeAfter
  extract_lets total u
  have ended : Apart v u := (apart_carryLess _ _).ite (.refl _)
  exact ended.trans ((Apart.refl u).ite ((apart_carryLess _ _).trans (apart_stepTail _)))

/-- What follows a new set leaves but for the slew and the tick of the last firmware update (R37, R59). -/
theorem mergeEnd_leaves (s v : State) (m : Merge) (o : Merged) :
    (s.mergeAfter (s.mergeSlew (v.mergeNoted m o) m o) m).syncSlew.time
        = { v.time with slew := o.slew, lastFw := if m.fwOn o then some s.time.tick else v.time.lastFw }
      ∧ (s.mergeAfter (s.mergeSlew (v.mergeNoted m o) m o) m).syncSlew.get R.KNL_TIME_MODE_CSET_VER = v.get R.KNL_TIME_MODE_CSET_VER
      ∧ (s.mergeAfter (s.mergeSlew (v.mergeNoted m o) m o) m).syncSlew.mode = v.mode
      ∧ (s.mergeAfter (s.mergeSlew (v.mergeNoted m o) m o) m).syncSlew.get R.KNL_TIME_MODE_SLEWING = b2n o.slew.isSome
      ∧ ∀ a, timeWord a = true → a ≠ 0x1002000 → (s.mergeAfter (s.mergeSlew (v.mergeNoted m o) m o) m).syncSlew.word a = v.word a := by
  have noted := mergeNoted_apart v m o
  generalize v.mergeNoted m o = u at noted ⊢
  have time : (s.mergeSlew u m o).time = { u.time with slew := o.slew, lastFw := if m.fwOn o then some s.time.tick else u.time.lastFw } := rfl
  have word : ∀ a, (s.mergeSlew u m o).word a = u.word a := fun _ => rfl
  generalize s.mergeSlew u m o = w at time word ⊢
  have after := mergeAfter_apart s w m
  generalize s.mergeAfter w m = x at after ⊢
  have slew : x.time.slew = o.slew := by rw [after.time, time]
  have shown : Within (· == 0x1002000) x x.syncSlew := within_set _ _ _ _ (by decide)
  have beside : ∀ f : Fld, f.at 0 = 0x1002000 → f.words = 1 → f.lsb + f.width ≤ 3 ∨ 4 ≤ f.lsb → x.syncSlew.get f = x.get f := fun f ha hw hl =>
    get_set_beside ha hw hl (by unfold Fld.plain; decide)
  have same : ∀ f : Fld, f.at 0 = 0x1002000 → f.words = 1 → x.get f = v.get f := fun f ha hw =>
    get_of_word hw (by rw [ha, after.word _ (by decide), word, noted.word _ (by decide)])
  have set : x.syncSlew.get R.KNL_TIME_MODE_SLEWING = b2n o.slew.isSome := by
    rw [State.syncSlew, State.setFlag, get_set_same _ (by unfold Fld.plain; decide), slew]
    cases o.slew.isSome <;> rfl
  refine ⟨by rw [shown.time, after.time, time, noted.time], (beside _ rfl rfl (by decide)).trans (same _ rfl rfl),
    (beside _ rfl rfl (by decide)).trans (same _ rfl rfl), set, fun a ha hne => ?_⟩
  rw [shown.word a (beq_eq_false_iff_ne.mpr hne), after.word a ha, word, noted.word a ha]

end parts

/-- What a merged update that makes a new set leaves (R36, R37). -/
structure MergeMade (s : State) (m : Merge) (o : Merged) (t : State) : Prop where
  cset : t.time.cset = s.mergeSet m o
  rt : t.rt = (s.mergeSet m o).ofs
  version : t.get R.KNL_TIME_MODE_CSET_VER = (s.get R.KNL_TIME_MODE_CSET_VER + 1) % 65536
  lc : t.time.lc = s.time.lc
  fw : t.time.fw = if m.fw.isSome || m.freeze.isSome then none else s.time.fw
  freeze : t.time.freeze = if m.freeze.isSome then none else s.time.freeze
  steps : t.time.steps = s.time.steps.filter fun u => decide (u.due > s.time.tick)
  slew : t.time.slew = o.slew
  lastFw : t.time.lastFw = if m.fwOn o then some s.time.tick else s.time.lastFw
  kind : (t.time.hist.head?.map (·.kind)) = some (BitVec.ofNat 3 (m.kind o))
  slewing : t.get R.KNL_TIME_MODE_SLEWING = b2n o.slew.isSome
  stepped : ∀ x, m.steps = [x] → t.get R.KNL_TIME_STAT_STEP_DONE = 1 ∧ t.get R.KNL_MBX_CMD_CNT = x.counter.toNat

theorem applyMerge_makes {s : State} {m : Merge} (lc : s.inLc = true) (made : (s.mergeLimit m).made = true) (within : (s.mergeLimit m).refused = false)
    (steps : m.steps = [] ∨ (∃ o, m.steps = [o]) ∧ s.room 1) : MergeMade s m (s.mergeLimit m) (s.applyMerge m) := by
  rw [applyMerge_made made, within]
  generalize s.mergeLimit m = o
  obtain ⟨started, word, -⟩ := mergeStart_leaves s m false
  have room : m.steps = [] ∨ (∃ o, m.steps = [o]) ∧ (s.mergeStart m false).room 1 := steps.imp_right fun h => ⟨h.1, mergeStart_room s m h.2⟩
  obtain ⟨vTime, vWord, stepped⟩ := mergeSteps_leaves s (s.mergeStart m false) m room
  rw [← vTime] at started
  rw [word] at vWord
  generalize s.mergeSteps (s.mergeStart m false) m = v at started vWord stepped ⊢
  have vMode : v.mode = s.mode := get_of_word rfl vWord
  have vVersion : v.get R.KNL_TIME_MODE_CSET_VER = s.get R.KNL_TIME_MODE_CSET_VER := get_of_word rfl vWord
  have rest := newSet_rest v (s.mergeSet m o) (m.kind o) (if m.steps.isEmpty then 0 else m.step)
  have cset := newSet_cset v (s.mergeSet m o) (m.kind o) (if m.steps.isEmpty then 0 else m.step) ((inLc_of_mode vMode).trans lc)
  have hist := newSet_hist v (s.mergeSet m o) (m.kind o) (if m.steps.isEmpty then 0 else m.step)
  have version := newSet_version v (s.mergeSet m o) (m.kind o) (if m.steps.isEmpty then 0 else m.step)
  have mode := newSet_mode v (s.mergeSet m o) (m.kind o) (if m.steps.isEmpty then 0 else m.step)
  have done := newSet_apart v (s.mergeSet m o) (m.kind o) (if m.steps.isEmpty then 0 else m.step) R.KNL_TIME_STAT_STEP_DONE 0 (by decide)
  have count := newSet_apart v (s.mergeSet m o) (m.kind o) (if m.steps.isEmpty then 0 else m.step) R.KNL_MBX_CMD_CNT 0 (by decide)
  generalize v.newSet (s.mergeSet m o) (m.kind o) (if m.steps.isEmpty then 0 else m.step) = w at rest cset hist version mode done count ⊢
  obtain ⟨time, tVersion, tMode, slewing, words⟩ := mergeEnd_leaves s w m o
  generalize (s.mergeAfter (s.mergeSlew (w.mergeNoted m o) m o) m).syncSlew = t at time tVersion tMode slewing words ⊢
  have tLc : t.time.lc = s.time.lc := by rw [time]; exact rest.lc.trans started.lc
  have tCset : t.time.cset = s.mergeSet m o := by rw [time]; exact cset
  have inLc : t.inLc = true := (inLc_of_mode (tMode.trans (mode.trans vMode))).trans lc
  constructor
  case cset => exact tCset
  case rt => rw [rt_inLc inLc, tCset, tLc]; exact rtOf_anchor _ _ _
  case version => rw [tVersion, version, vVersion]
  case lc => exact tLc
  case fw => rw [time]; exact rest.fw.trans started.fw
  case freeze => rw [time]; exact rest.freeze.trans started.freeze
  case steps => rw [time]; exact rest.steps.trans started.steps
  case slew => rw [time]
  case lastFw => rw [time]; dsimp only; rw [rest.lastFw, started.lastFw]
  case kind => rw [time]; exact hist
  case slewing => exact slewing
  case stepped =>
    intro x hx
    obtain ⟨d, c⟩ := stepped x hx
    have tDone : t.get R.KNL_TIME_STAT_STEP_DONE = w.get R.KNL_TIME_STAT_STEP_DONE := get_of_word rfl (words 0x1002004 (by decide) (by decide))
    have tCount : t.get R.KNL_MBX_CMD_CNT = w.get R.KNL_MBX_CMD_CNT := by
      unfold State.get
      rw [wordsN_congr fun k hk => ?_]
      have two : k = 0 ∨ k = 1 := by have : k < 2 := hk; omega
      rcases two with rfl | rfl
      · exact words 0x1000210 (by decide) (by decide)
      · exact words 0x1000214 (by decide) (by decide)
    exact ⟨tDone.trans (done.trans d), tCount.trans (count.trans c)⟩

end Sys2Proof.Machine

/-! ## The updates of a tick in LC (R36 to R40) -/

namespace Sys2Proof.Machine

/-! ### The slew term (R39) -/

section slew

variable (s : State)

theorem lcInc_lt : s.lcInc < 2 ^ 64 := by
  have high : s.get R.KNL_LC_INC1 < 2 ^ 32 := get_lt s R.KNL_LC_INC1 0
  have low : s.get R.KNL_LC_INC0 < 2 ^ 32 := get_lt s R.KNL_LC_INC0 0
  unfold State.lcInc
  omega

/-- How far LC goes in at most 256 ticks. -/
theorem lcAfter_sub {n : Nat} (h : n ≤ 256) : ((lcAfter s.lcInc s.time.lc s.time.frac n).1 - s.time.lc).toNat = (s.time.frac.toNat + n * s.lcInc) / 2 ^ 32 := by
  have frac : s.time.frac.toNat < 2 ^ 32 := s.time.frac.isLt
  have lc : s.time.lc.toNat < 2 ^ 96 := s.time.lc.isLt
  have inc := lcInc_lt s
  have bound : n * s.lcInc ≤ 256 * 2 ^ 64 := Nat.mul_le_mul h (Nat.le_of_lt inc)
  unfold lcAfter
  dsimp only
  generalize n * s.lcInc = x at bound ⊢
  rw [BitVec.toNat_sub, BitVec.toNat_ofNat]
  omega

theorem rateOfPpt_le {r : Nat} (h : r < 2 ^ 20) : rateOfPpt r < 2 ^ 45 := by
  unfold rateOfPpt
  omega

/-- The term of a slew fits in 64 bits (R39). -/
theorem slewTerm_lt (phase : Int) (req : Nat) : (s.slewTerm phase req).natAbs < 2 ^ 45 := by
  have max : s.slewMax < 2 ^ 20 := get_lt s R.KNL_SLEW_MAX 0
  have requested : (if req = 0 then s.slewMax else Nat.min req s.slewMax) < 2 ^ 20 := by
    split
    · exact max
    · exact lt_of_le_of_lt (Nat.min_le_right _ _) max
  have rate := rateOfPpt_le requested
  unfold State.slewTerm
  dsimp only
  simp only [lcAfter_sub s (n := 255) (by decide), lcAfter_sub s (n := noticeTicks) (by decide)]
  generalize rateOfPpt (if req = 0 then s.slewMax else Nat.min req s.slewMax) = m at rate ⊢
  have longer : (s.time.frac.toNat + 255 * s.lcInc) / 2 ^ 32 ≤ (s.time.frac.toNat + noticeTicks * s.lcInc) / 2 ^ 32 :=
    Nat.div_le_div_right (Nat.add_le_add_left (Nat.mul_le_mul_right _ (by decide)) _)
  generalize (s.time.frac.toNat + 255 * s.lcInc) / 2 ^ 32 = short at longer ⊢
  generalize (s.time.frac.toNat + noticeTicks * s.lcInc) / 2 ^ 32 = long at longer ⊢
  have lowered : (if short * m ≥ phase.natAbs * 2 ^ 64 then ceilDiv (phase.natAbs * 2 ^ 64) long else m) ≤ m := by
    split
    · next h =>
      unfold ceilDiv
      rcases Nat.eq_zero_or_pos long with rfl | pos
      · simp
      · refine Nat.le_of_lt_succ ((Nat.div_lt_iff_lt_mul pos).mpr ?_)
        have enough : phase.natAbs * 2 ^ 64 ≤ long * m := Nat.le_trans h (Nat.mul_le_mul_right _ longer)
        have : m.succ * long = long * m + long := by rw [Nat.succ_mul, Nat.mul_comm]
        omega
    · exact Nat.le_refl _
  generalize (if short * m ≥ phase.natAbs * 2 ^ 64 then ceilDiv (phase.natAbs * 2 ^ 64) long else m) = x at lowered ⊢
  split <;> omega

theorem slewTerm_fits (phase : Int) (req : Nat) : (BitVec.ofInt 64 (s.slewTerm phase req)).toInt = s.slewTerm phase req := by
  have bound := slewTerm_lt s phase req
  rw [BitVec.toInt_ofInt]
  exact Int.bmod_eq_of_le (by omega) (by omega)

end slew

/-! ### What is due on a tick -/

section due

variable {s : State}

theorem exec_updateEffectiveTick (s : State) : exec .updateEffectiveTick s = .next s.updateTick := rfl

theorem exec_endOfSlewUpdate (s : State) : exec .endOfSlewUpdate s = .next (s.when_ (s.inLc && s.dueNow.slewEnd) fun s => s.applyMerge s.dueNow) := rfl

theorem updateTick_merges {m : Merge} (lc : s.inLc = true) (due : s.dueNow = m) (any : (m.fw.isNone && m.freeze.isNone && m.steps.isEmpty && !m.slewEnd) = false) :
    s.updateTick = s.applyMerge m := by
  unfold State.updateTick
  rw [if_pos lc, due]
  exact if_neg (by rw [any]; decide)

theorem dueNow_eq {fw : Option FwUpd} {freeze : Option FreezeUpd} {steps : List StepOrd} (hf : s.time.fw = fw) (hz : s.time.freeze = freeze)
    (hs : s.time.steps = steps) (dueF : ∀ u, fw = some u → u.due ≤ s.time.tick) (dueZ : ∀ z, freeze = some z → z.due ≤ s.time.tick)
    (dueS : ∀ o ∈ steps, o.due ≤ s.time.tick) : s.dueNow = { fw := fw, freeze := freeze, steps := steps, slewEnd := s.dueNow.slewEnd } := by
  have f : s.time.fw.filter (fun u => decide (u.due ≤ s.time.tick)) = fw := by
    rw [hf]
    cases fw with
    | none => rfl
    | some u => simp [dueF u rfl]
  have z : s.time.freeze.filter (fun u => decide (u.due ≤ s.time.tick)) = freeze := by
    rw [hz]
    cases freeze with
    | none => rfl
    | some u => simp [dueZ u rfl]
  have t : s.time.steps.filter (fun u => decide (u.due ≤ s.time.tick)) = steps := by
    rw [hs]
    exact List.filter_eq_self.mpr fun o ho => decide_eq_true (dueS o ho)
  unfold State.dueNow
  dsimp only
  rw [f, z, t]

theorem slewEnd_none (h : s.time.slew = none) : s.dueNow.slewEnd = false := by
  unfold State.dueNow
  dsimp only
  rw [h]

theorem slewEnd_some {w : Slew} (h : s.time.slew = some w) : s.dueNow.slewEnd = w.reached s.time.lc := by
  unfold State.dueNow
  dsimp only
  rw [h]

/-- Nothing due on a tick in LC changes nothing. -/
theorem updateTick_idle (lc : s.inLc = true) (hf : s.time.fw = none) (hz : s.time.freeze = none) (hs : s.time.steps = []) (hw : s.time.slew = none) :
    s.updateTick = s := by
  have due := dueNow_eq hf hz hs (fun _ h => nomatch h) (fun _ h => nomatch h) (fun _ h => nomatch h)
  rw [slewEnd_none hw] at due
  unfold State.updateTick
  rw [if_pos lc, due]
  rfl

end due

/-! ### The limit of a merged update (R34; log entries 75, 76) -/

section limit

variable {s : State}

theorem mergeLimit_within {m : Merge} {freq : Int} {slew : Option Slew} (rate : s.mergeRate m = (freq, slew)) (ok : rateOk (freq + slewOf slew) = true) :
    s.mergeLimit m = { freq := freq, slew := slew, refused := false, taken := true, made := !m.steps.isEmpty || m.slewEnd || m.fw.isSome || m.freeze.isSome } := by
  unfold State.mergeLimit
  rw [rate]
  exact if_pos ok

/-- An update of the firmware alone beyond the limit makes no set. -/
theorem mergeLimit_beyond {m : Merge} {freq : Int} {slew : Option Slew} (rate : s.mergeRate m = (freq, slew)) (bad : rateOk (freq + slewOf slew) = false)
    (steps : m.steps = []) (slewEnd : m.slewEnd = false) : (s.mergeLimit m).refused = true ∧ (s.mergeLimit m).made = false := by
  unfold State.mergeLimit
  rw [rate]
  dsimp only
  rw [if_neg (by rw [bad]; decide), steps, slewEnd]
  split <;> exact ⟨rfl, rfl⟩

theorem freqNow_none (h : s.time.slew = none) : s.freqNow = s.time.cset.rate.toInt := by
  unfold State.freqNow State.slewNow
  rw [h]
  exact Int.sub_zero _

theorem freqNow_some {w : Slew} (h : s.time.slew = some w) : s.freqNow = s.time.cset.rate.toInt - w.s.toInt := by
  unfold State.freqNow State.slewNow
  rw [h]

end limit

end Sys2Proof.Machine

/-! ## The updates of a tick, one kind at a time (R34 to R40) -/

namespace Sys2Proof.Machine

/-- A merged update within the limit, all of which is taken. -/
def Merged.whole (freq : Int) (slew : Option Slew) : Merged := { freq := freq, slew := slew, refused := false, taken := true, made := true }

section update

variable {s t : State} {m : Merge} {o : Merged} {freq : Int} {slew : Option Slew}

theorem applyMerge_whole (lc : s.inLc = true) (rate : s.mergeRate m = (freq, slew)) (ok : rateOk (freq + slewOf slew) = true)
    (any : (!m.steps.isEmpty || m.slewEnd || m.fw.isSome || m.freeze.isSome) = true) (steps : m.steps = [] ∨ (∃ o, m.steps = [o]) ∧ s.room 1) :
    MergeMade s m (.whole freq slew) (s.applyMerge m) := by
  have limit : s.mergeLimit m = .whole freq slew := by rw [mergeLimit_within rate ok, any]; rfl
  have made := applyMerge_makes lc (m := m) (by rw [limit]; rfl) (by rw [limit]; rfl) steps
  rwa [limit] at made

/-- `t` has a new set at the LC of `s`, whose offset RT shows and which the version counts, and no firmware update is left (R36, R59). -/
def State.Renewed (s t : State) (ofs : Time) (rate : DWord) : Prop :=
  t.time.cset = { ofs := ofs, anchor := s.time.lc, rate := rate } ∧ t.rt = ofs
    ∧ t.get R.KNL_TIME_MODE_CSET_VER = (s.get R.KNL_TIME_MODE_CSET_VER + 1) % 65536 ∧ t.time.fw = none ∧ t.time.lc = s.time.lc

theorem MergeMade.renewed {ofs : Time} {rate : DWord} (h : MergeMade s m o t) (fw : m.fw.isSome = true ∨ m.freeze.isSome = true ∨ s.time.fw = none) (lc : s.inLc = true)
    (hofs : s.rt + m.step = ofs) (hrate : BitVec.ofInt 64 (o.freq + slewOf o.slew) = rate) :
    s.Renewed t ofs rate := by
  have set : s.mergeSet m o = { ofs := ofs, anchor := s.time.lc, rate := rate } := by
    unfold State.mergeSet
    rw [← rt_inLc lc, hofs, hrate]
  refine ⟨h.cset.trans set, by rw [h.rt, set], h.version, ?_, h.lc⟩
  rw [h.fw]
  rcases fw with fw | fz | none_
  · rw [fw]; rfl
  · rw [fz, Bool.or_true]; rfl
  · rw [none_, ite_self]

/-- A firmware update without a phase, beyond the limit, changes no set (log entry 75). -/
theorem applyMerge_beyond {u : FwUpd} (hm : m = { fw := some u, freeze := none, steps := [], slewEnd := false })
    (rate : s.mergeRate m = (freq, slew)) (bad : rateOk (freq + slewOf slew) = false) :
    (s.applyMerge m).time.cset = s.time.cset ∧ (s.applyMerge m).time.fw = none ∧ (s.applyMerge m).get R.KNL_TIME_STAT_RATE_RANGE = 1
      ∧ (s.applyMerge m).rt = s.rt := by
  obtain ⟨refused, unmade⟩ := mergeLimit_beyond rate bad (by rw [hm]) (by rw [hm])
  rw [applyMerge_unmade unmade (by rw [hm]), refused]
  obtain ⟨started, word, bit⟩ := mergeStart_leaves s m true
  have mode : (s.mergeStart m true).mode = s.mode := get_of_word rfl word
  refine ⟨started.cset, ?_, bit rfl, rt_congr mode started.cset started.lc started.sn⟩
  rw [started.fw, hm]
  rfl

section firmware

variable {u : FwUpd} (lc : s.inLc = true) (hf : s.time.fw = some u) (due : u.due ≤ s.time.tick) (hz : s.time.freeze = none) (hs : s.time.steps = [])
  (hw : s.time.slew = none)

include lc hf due hz hs hw

theorem updateTick_fw : s.updateTick = s.applyMerge { fw := some u, freeze := none, steps := [], slewEnd := false } := by
  have h := dueNow_eq hf hz hs (fun v e => Option.some.inj e ▸ due) (fun _ h => nomatch h) (fun _ h => nomatch h)
  rw [slewEnd_none hw] at h
  exact updateTick_merges lc h rfl

omit lc hf due hz hs in
theorem mergeRate_fw (phase : u.phase = 0) : s.mergeRate { fw := some u, freeze := none, steps := [], slewEnd := false } = (u.freq.toInt, none) := by
  unfold State.mergeRate
  dsimp only
  rw [if_pos (by rw [phase]; rfl), hw]
  rfl

omit lc hf due hz hs in
theorem mergeRate_phase (phase : u.phase ≠ 0) : s.mergeRate { fw := some u, freeze := none, steps := [], slewEnd := false }
    = (u.freq.toInt, some { s := BitVec.ofInt 64 (s.slewTerm u.phase.toInt u.slewReq.toNat), phase := u.phase, start := s.time.lc, part := 0 }) := by
  have moved : u.phase.toInt ≠ 0 := fun h => phase (BitVec.eq_of_toInt_eq h)
  have made : s.slewMade = 0 := by unfold State.slewMade; rw [hw]
  unfold State.mergeRate
  dsimp only
  rw [if_neg moved, made]
  rfl

/-- A firmware update without a phase makes the set of its rate (R36, R38). -/
theorem updateTick_rate (phase : u.phase = 0) (ok : rateOk u.freq.toInt = true) :
    s.Renewed s.updateTick s.rt u.freq ∧ s.updateTick.time.slew = none ∧ s.updateTick.time.lastFw = some s.time.tick := by
  rw [updateTick_fw lc hf due hz hs hw]
  have made := applyMerge_whole lc (mergeRate_fw hw phase) (by rw [slewOf, Int.add_zero]; exact ok) rfl (.inl rfl)
  refine ⟨made.renewed (.inl rfl) lc (BitVec.add_zero _) ?_, made.slew, made.lastFw⟩
  show BitVec.ofInt 64 (u.freq.toInt + 0) = u.freq
  rw [Int.add_zero, BitVec.ofInt_toInt]

/-- A phase is slewed (R38, R39). -/
theorem updateTick_phase (phase : u.phase ≠ 0) (ok : rateOk (u.freq.toInt + s.slewTerm u.phase.toInt u.slewReq.toNat) = true) :
    s.Renewed s.updateTick s.rt (BitVec.ofInt 64 (u.freq.toInt + s.slewTerm u.phase.toInt u.slewReq.toNat))
      ∧ s.updateTick.get R.KNL_TIME_MODE_SLEWING = 1
      ∧ s.updateTick.time.slew
        = some { s := BitVec.ofInt 64 (s.slewTerm u.phase.toInt u.slewReq.toNat), phase := u.phase, start := s.time.lc, part := 0 } := by
  rw [updateTick_fw lc hf due hz hs hw]
  have fits := slewTerm_fits s u.phase.toInt u.slewReq.toNat
  have made := applyMerge_whole lc (mergeRate_phase hw phase) (by rw [slewOf, fits]; exact ok) rfl (.inl rfl)
  refine ⟨made.renewed (.inl rfl) lc (BitVec.add_zero _) ?_, made.slewing, made.slew⟩
  show BitVec.ofInt 64 (u.freq.toInt + (BitVec.ofInt 64 (s.slewTerm u.phase.toInt u.slewReq.toNat)).toInt) = _
  rw [fits]

/-- A rate beyond the limit changes no set (R34, R38). -/
theorem updateTick_range (phase : u.phase = 0) (bad : rateOk u.freq.toInt = false) : s.updateTick.time.cset = s.time.cset ∧ s.updateTick.time.fw = none
    ∧ s.updateTick.get R.KNL_TIME_STAT_RATE_RANGE = 1 ∧ s.updateTick.rt = s.rt := by
  rw [updateTick_fw lc hf due hz hs hw]
  exact applyMerge_beyond rfl (mergeRate_fw hw phase) (by rw [slewOf, Int.add_zero]; exact bad)

end firmware

/-- A freeze makes the set of its rate (R37, R57). -/
theorem updateTick_freeze {z : FreezeUpd} (lc : s.inLc = true) (hz : s.time.freeze = some z) (due : z.due ≤ s.time.tick) (hs : s.time.steps = [])
    (hw : s.time.slew = none) (ok : rateOk z.freq.toInt = true) :
    s.Renewed s.updateTick s.rt z.freq ∧ s.updateTick.time.freeze = none ∧ (s.updateTick.time.hist.head?.map (·.kind)) = some 5 := by
  obtain ⟨fw, h⟩ : ∃ fw, s.dueNow = { fw := fw, freeze := some z, steps := [], slewEnd := false } := by
    refine ⟨s.dueNow.fw, ?_⟩
    rw [← slewEnd_none hw]
    unfold State.dueNow
    dsimp only
    rw [hz, hs, Option.filter_some, if_pos (decide_eq_true due)]
    rfl
  rw [updateTick_merges lc h (by simp)]
  have rate : s.mergeRate { fw := fw, freeze := some z, steps := [], slewEnd := false } = (z.freq.toInt, none) := rfl
  have made := applyMerge_whole lc rate (by rw [slewOf, Int.add_zero]; exact ok) (by simp) (.inl rfl)
  refine ⟨made.renewed (.inr (.inl rfl)) lc (BitVec.add_zero _) ?_, made.freeze, made.kind⟩
  show BitVec.ofInt 64 (z.freq.toInt + 0) = z.freq
  rw [Int.add_zero, BitVec.ofInt_toInt]

/-- The end of a slew takes its term away (R39). -/
theorem slewEnd_updates {w : Slew} (lc : s.inLc = true) (hw : s.time.slew = some w) (reached : w.reached s.time.lc = true) (hf : s.time.fw = none)
    (hz : s.time.freeze = none) (hs : s.time.steps = []) (ok : rateOk (s.time.cset.rate.toInt - w.s.toInt) = true) :
    Completes .endOfSlewUpdate s fun t => s.Renewed t s.rt (BitVec.ofInt 64 (s.time.cset.rate.toInt - w.s.toInt))
      ∧ t.time.slew = none ∧ t.get R.KNL_TIME_MODE_SLEWING = 0 := by
  have ended : s.dueNow.slewEnd = true := (slewEnd_some hw).trans reached
  have h := dueNow_eq hf hz hs (fun _ h => nomatch h) (fun _ h => nomatch h) (fun _ h => nomatch h)
  rw [ended] at h
  refine ⟨s.applyMerge { fw := none, freeze := none, steps := [], slewEnd := true }, ?_, ?_⟩
  · rw [exec_endOfSlewUpdate, lc, ended]
    exact congrArg (fun m => Host.Outcome.next (s.applyMerge m)) h
  · have rate : s.mergeRate { fw := none, freeze := none, steps := [], slewEnd := true } = (s.time.cset.rate.toInt - w.s.toInt, none) := by
      unfold State.mergeRate
      dsimp only
      rw [freqNow_some hw]
      rfl
    have made := applyMerge_whole lc rate (by rw [slewOf, Int.add_zero]; exact ok) rfl (.inl rfl)
    refine ⟨made.renewed (.inr (.inr hf)) lc (BitVec.add_zero _) ?_, made.slew, made.slewing⟩
    show BitVec.ofInt 64 (s.time.cset.rate.toInt - w.s.toInt + 0) = _
    rw [Int.add_zero]

/-- A step order moves RT by its step and leaves the rate (R40). -/
theorem updateTick_step {x : StepOrd} (lc : s.inLc = true) (hs : s.time.steps = [x]) (due : x.due ≤ s.time.tick) (hf : s.time.fw = none)
    (hz : s.time.freeze = none) (hw : s.time.slew = none) (ok : rateOk s.time.cset.rate.toInt = true) (room : s.room 1) :
    s.Renewed s.updateTick (s.rt + x.step) s.time.cset.rate ∧ s.updateTick.time.steps = [] ∧ s.updateTick.get R.KNL_TIME_STAT_STEP_DONE = 1
      ∧ s.updateTick.get R.KNL_MBX_CMD_CNT = x.counter.toNat := by
  have h := dueNow_eq hf hz hs (fun _ h => nomatch h) (fun _ h => nomatch h) (fun y hy => List.mem_singleton.mp hy ▸ due)
  rw [slewEnd_none hw] at h
  rw [updateTick_merges lc h rfl]
  have rate : s.mergeRate { fw := none, freeze := none, steps := [x], slewEnd := false } = (s.time.cset.rate.toInt, none) := by
    unfold State.mergeRate
    dsimp only
    rw [freqNow_none hw]
    rfl
  have made := applyMerge_whole lc rate (by rw [slewOf, Int.add_zero]; exact ok) rfl (.inr ⟨⟨x, rfl⟩, room⟩)
  obtain ⟨done, count⟩ := made.stepped x rfl
  refine ⟨made.renewed (.inr (.inr hf)) lc ?_ ?_, ?_, done, count⟩
  · show s.rt + (0#96 + x.step) = _
    rw [BitVec.zero_add]
  · show BitVec.ofInt 64 (s.time.cset.rate.toInt + 0) = _
    rw [Int.add_zero, BitVec.ofInt_toInt]
  · rw [made.steps, hs]
    exact List.filter_eq_nil_iff.mpr fun y hy => by rw [List.mem_singleton.mp hy]; simpa using due

end update

/-! ### Updates accepted (R38) -/

/-- A field of one bit of the time status. -/
def Fld.timeBit (f : Fld) : Prop := f.addr = 0x1002004 ∧ f.stride = 0 ∧ f.words = 1 ∧ f.width = 1 ∧ f.plain 0

/-- Bits of the time status were set, and nothing else changed of time and registers. -/
structure Marked (s t : State) : Prop where
  time : t.time = s.time
  word : ∀ a, (a == 0x1002004) = false → t.word a = s.word a
  ones : ∀ f : Fld, f.timeBit → s.get f = 1 → t.get f = 1

section marks

variable {r s t : State}

theorem Marked.refl (s : State) : Marked s s := ⟨rfl, fun _ _ => rfl, fun _ _ h => h⟩

theorem Marked.trans (h : Marked r s) (k : Marked s t) : Marked r t :=
  ⟨k.time.trans h.time, fun a ha => (k.word a ha).trans (h.word a ha), fun f hf one => k.ones f hf (h.ones f hf one)⟩

theorem Marked.ite {c : Prop} [Decidable c] (h : Marked s t) : Marked s (if c then t else s) := by
  split
  · exact h
  · exact .refl s

theorem Marked.timeStat (s : State) {f : Fld} (hf : f.timeBit) : Marked s (s.timeStat f) := by
  obtain ⟨addr, stride, words, width, plain⟩ := hf
  have marked := within_timeStat s f ⟨addr, stride, words⟩
  refine ⟨marked.time, marked.word, fun g ⟨gAddr, gStride, gWords, gWidth, _⟩ one => ?_⟩
  have same : g.at 0 = f.at 0 := by unfold Fld.at; rw [gAddr, gStride, addr, stride]
  rcases Nat.lt_trichotomy g.lsb f.lsb with below | eq | above
  · exact (get_timeStat_beside s same (gWords.trans words.symm) (.inl (by omega)) plain).trans one
  · have field : (s.timeStat f).get g = (s.timeStat f).get f := by
      unfold State.get
      rw [same, gWords, words, eq, gWidth, width]
    exact field.trans (get_timeStat_same s plain width)
  · exact (get_timeStat_beside s same (gWords.trans words.symm) (.inr (by omega)) plain).trans one

theorem get_timeStat (s : State) {f : Fld} (hf : f.timeBit) : (s.timeStat f).get f = 1 := by
  obtain ⟨-, -, -, width, plain⟩ := hf
  exact get_timeStat_same s plain width

end marks

section accept

variable (s : State)

theorem timeBit_jump : R.KNL_TIME_STAT_JUMP_REFUSED.timeBit := by unfold Fld.timeBit Fld.plain; decide
theorem timeBit_clamp : R.KNL_TIME_STAT_SLEW_CLAMPED.timeBit := by unfold Fld.timeBit Fld.plain; decide
theorem timeBit_range : R.KNL_TIME_STAT_RATE_RANGE.timeBit := by unfold Fld.timeBit Fld.plain; decide
theorem timeBit_deferred : R.KNL_TIME_STAT_UPD_DEFERRED.timeBit := by unfold Fld.timeBit Fld.plain; decide
theorem timeBit_replaced : R.KNL_TIME_STAT_UPD_REPLACED.timeBit := by unfold Fld.timeBit Fld.plain; decide

/-- The K-pair's note of a refused jump. -/
def State.jumpNoted (s : State) : State := { s with knl := { s.knl with pair := { s.knl.pair with jumped := true } } }

/-- What an accepted update marks before its rate is judged (R38, R39). -/
def State.acceptMarks (s : State) (u : FwUpd) : State :=
  let s := if s.beyondJump u.phase.toInt then (s.timeStat R.KNL_TIME_STAT_JUMP_REFUSED).jumpNoted else s
  if u.slewReq.toNat > s.slewMax then s.timeStat R.KNL_TIME_STAT_SLEW_CLAMPED else s

/-- The earliest tick by the spacing of firmware updates (R38). -/
def State.acceptLeast (s : State) : Nat :=
  match s.time.lastFw with
  | some l => l + spacingTicks
  | none => 0

/-- What an update that waits marks (R38). -/
def State.acceptWaits (s : State) : State :=
  let u := if s.time.tick + noticeTicks < s.acceptLeast then s.timeStat R.KNL_TIME_STAT_UPD_DEFERRED else s
  if u.time.fw.isSome then u.timeStat R.KNL_TIME_STAT_UPD_REPLACED else u

/-- The update that waits for its tick (R38). -/
def State.acceptTaken (s : State) (u : FwUpd) (big : Bool) : State :=
  let due := s.time.tick + noticeTicks
  let least := match s.time.lastFw with
    | some l => l + spacingTicks
    | none => 0
  let s := if due < least then s.timeStat R.KNL_TIME_STAT_UPD_DEFERRED else s
  let s := if s.time.fw.isSome then s.timeStat R.KNL_TIME_STAT_UPD_REPLACED else s
  { s with time := { s.time with fw := some { u with phase := if big then 0 else u.phase, due := Nat.max due least } } }

theorem acceptFw_eq (u : FwUpd) : s.acceptFw u = if (s.anchorForm u.freq.toInt u.phase.toInt u.slewReq.toNat).testBit 1
    then (s.acceptMarks u).timeStat R.KNL_TIME_STAT_RATE_RANGE else (s.acceptMarks u).acceptTaken u (s.beyondJump u.phase.toInt) := rfl

theorem acceptTaken_eq (u : FwUpd) (big : Bool) : s.acceptTaken u big = s.acceptWaits.withTime { s.acceptWaits.time with
    fw := some { u with phase := if big then 0 else u.phase, due := Nat.max (s.time.tick + noticeTicks) s.acceptLeast } } := rfl

theorem acceptMarks_leaves (u : FwUpd) : Marked s (s.acceptMarks u)
    ∧ (s.beyondJump u.phase.toInt = true → (s.acceptMarks u).get R.KNL_TIME_STAT_JUMP_REFUSED = 1)
    ∧ (s.slewMax < u.slewReq.toNat → (s.acceptMarks u).get R.KNL_TIME_STAT_SLEW_CLAMPED = 1) := by
  unfold State.acceptMarks
  extract_lets v
  have noted : ∀ x : State, Marked x x.jumpNoted := fun x => ⟨rfl, fun _ _ => rfl, fun f _ h => (get_of_words (s := x) (t := x.jumpNoted) (fun _ => rfl) f 0).trans h⟩
  have jumped : Marked s v := ((Marked.timeStat s timeBit_jump).trans (noted _)).ite
  have bit : s.beyondJump u.phase.toInt = true → v.get R.KNL_TIME_STAT_JUMP_REFUSED = 1 := fun h => by
    have marked : v = (s.timeStat R.KNL_TIME_STAT_JUMP_REFUSED).jumpNoted := if_pos h
    rw [marked]
    exact (noted _).ones _ timeBit_jump (get_timeStat s timeBit_jump)
  have max : v.slewMax = s.slewMax := get_of_word rfl (jumped.word _ (by decide))
  generalize v = v at jumped bit max ⊢
  have clamped := Marked.timeStat v timeBit_clamp
  refine ⟨jumped.trans clamped.ite, fun h => ?_, fun h => ?_⟩
  · exact (clamped.ite (c := u.slewReq.toNat > v.slewMax)).ones _ timeBit_jump (bit h)
  · rw [if_pos (by rw [max]; exact h)]
    exact get_timeStat v timeBit_clamp

theorem acceptWaits_marked : Marked s s.acceptWaits := by
  unfold State.acceptWaits
  extract_lets u
  have waits : Marked s u := (Marked.timeStat s timeBit_deferred).ite
  exact waits.trans (Marked.timeStat u timeBit_replaced).ite

theorem acceptLeast_spaced : ∀ l, s.time.lastFw = some l → l + 1200000 ≤ s.acceptLeast := by
  intro l h
  unfold State.acceptLeast
  rw [h]
  exact Nat.le_refl _

/-- An update is accepted, or refused with the bit that says why (R38, R39). -/
theorem acceptFw_ends (u : FwUpd) : (s.beyondJump u.phase.toInt = true → (s.acceptFw u).get R.KNL_TIME_STAT_JUMP_REFUSED = 1)
    ∧ (s.slewMax < u.slewReq.toNat → (s.acceptFw u).get R.KNL_TIME_STAT_SLEW_CLAMPED = 1)
    ∧ ((s.anchorForm u.freq.toInt u.phase.toInt u.slewReq.toNat).testBit 1 = true →
      (s.acceptFw u).get R.KNL_TIME_STAT_RATE_RANGE = 1 ∧ (s.acceptFw u).time.fw = s.time.fw)
    ∧ ((s.anchorForm u.freq.toInt u.phase.toInt u.slewReq.toNat).testBit 1 = false → ∃ due, s.time.tick + 256 ≤ due
      ∧ (∀ l, s.time.lastFw = some l → l + 1200000 ≤ due)
      ∧ (s.acceptFw u).time.fw = some { u with phase := if s.beyondJump u.phase.toInt then 0 else u.phase, due := due }) := by
  obtain ⟨marked, jump, clamp⟩ := acceptMarks_leaves s u
  rw [acceptFw_eq, acceptTaken_eq]
  generalize s.acceptMarks u = v at marked jump clamp ⊢
  have least := acceptLeast_spaced v
  rw [marked.time] at least ⊢
  have waits := acceptWaits_marked v
  generalize v.acceptWaits = w at waits ⊢
  generalize v.acceptLeast = l at least ⊢
  cases (s.anchorForm u.freq.toInt u.phase.toInt u.slewReq.toNat).testBit 1 with
  | true =>
    have range := Marked.timeStat v timeBit_range
    exact ⟨fun h => range.ones _ timeBit_jump (jump h), fun h => range.ones _ timeBit_clamp (clamp h),
      fun _ => ⟨get_timeStat v timeBit_range, by rw [if_pos rfl, range.time, marked.time]⟩, fun h => nomatch h⟩
  | false =>
    rw [if_neg Bool.false_ne_true]
    refine ⟨fun h => ?_, fun h => ?_, fun h => Bool.noConfusion h, fun _ => ⟨_, Nat.le_max_left _ _, fun n h => Nat.le_trans (least n h) (Nat.le_max_right _ _), rfl⟩⟩
    · rw [get_withTime]; exact waits.ones _ timeBit_jump (jump h)
    · rw [get_withTime]; exact waits.ones _ timeBit_clamp (clamp h)

end accept

end Sys2Proof.Machine

/-! ## The boundary of a second (R84, R512) -/

namespace Sys2Proof.Machine

section boundary

variable (s : State)

theorem exec_boundaryEvent : exec .boundaryEvent s = .next s.boundary := rfl

/-- The state at the boundary of its second, before the blocks. -/
def State.atSecond (s : State) : State := { s with time := { s.time with prevSec := s.rtSec, lastSecond := s.rtSec } }

theorem boundary_idle {s : State} (h : s.time.running = false ∨ s.rtSec ≤ s.time.prevSec) : s.boundary = s := by
  unfold State.boundary
  refine if_pos ?_
  rcases h with stopped | served
  · rw [stopped]; rfl
  · rw [decide_eq_true served, Bool.or_true]

theorem boundary_served {s : State} (runs : s.time.running = true) (new : s.time.prevSec < s.rtSec) :
    s.boundary = if (s.atSecond.kennelBoundary.blockBoundary.snReturn.knl.guardFail && s.atSecond.kennelBoundary.blockBoundary.snReturn.flag R.BRC_STAT_PARTNER_SERVING) = true
      then s.atSecond.kennelBoundary.blockBoundary.snReturn.chipResetChecked 2 else s.atSecond.kennelBoundary.blockBoundary.snReturn := by
  have serves : ¬ (!s.time.running || decide (s.rtSec ≤ s.time.prevSec)) = true := by
    rw [runs, decide_eq_false (Nat.not_le.mpr new)]
    decide
  exact if_neg serves

/-- A seal asked for takes effect at the boundary (R84). -/
theorem sealBoundary_ends {s : State} (h : s.knl.sealPend = true) : s.sealBoundary.knl.sealPend = false
    ∧ s.sealBoundary.sealState = if s.sealState = 4 ∨ s.sealState = 5 then s.sealState else 0 := by
  obtain ⟨u, hu⟩ : ∃ u : State, u = { s with knl := { s.knl with sealPend := false } } := ⟨_, rfl⟩
  have pend : u.knl.sealPend = false := by rw [hu]
  have same : u.sealState = s.sealState := by rw [hu]; rfl
  have taken : s.sealBoundary = if (u.sealState == 4 || u.sealState == 5) = true then u else u.set R.KNL_SEAL_STAT_STATE 0 0 := by
    rw [hu]
    exact if_pos h
  rw [taken, ← same]
  by_cases bad : u.sealState = 4 ∨ u.sealState = 5
  · rw [if_pos (by simpa using bad), if_pos bad]
    exact ⟨pend, rfl⟩
  · rw [if_neg (by simpa using bad), if_neg bad, State.set_knl]
    exact ⟨pend, get_set_same 0 (by unfold Fld.plain; decide)⟩

theorem event_same (n : Fin 12) (b : Nat) (ok : (b == 0 || b == 1 || b == 4 || (b == 2 && 4 ≤ n.val) || (b == 3 && 2 ≤ n.val) || ((b == 5 || b == 6) && n.val < 2)) = true) :
    ((s.event n b).engine n).events = (s.engine n).events ||| BitVec.ofNat 7 (2 ^ b) := by
  unfold State.event
  dsimp only
  rw [if_pos ok, engine_setEng_same]

theorem event_other {n m : Fin 12} (b : Nat) (h : m ≠ n) : (s.event n b).engine m = s.engine m := by
  unfold State.event
  dsimp only
  split
  · exact engine_setEng_ne _ _ h
  · rfl

theorem event_knl (n : Fin 12) (b : Nat) : (s.event n b).knl = s.knl := by
  unfold State.event
  dsimp only
  split <;> rfl

/-- The halves of the K-engines' ring are exchanged, and no engine is touched (R75). -/
theorem kinSwap_leaves : s.kinSwap.knl = { s.knl with kinPrev := s.knl.kin, kin := [] } ∧ s.kinSwap.eng = s.eng := by
  unfold State.kinSwap
  constructor
  · rw [State.set_knl, State.set_knl]
  · rw [State.set_eng, State.set_eng]

theorem kinBoundary_ends : (s.kinBoundary.engine 0).events = (s.engine 0).events ||| 0x40 ∧ (s.kinBoundary.engine 1).events = (s.engine 1).events ||| 0x40
    ∧ s.kinBoundary.knl.kinPrev = s.knl.kin ∧ s.kinBoundary.knl.kin = [] := by
  obtain ⟨knl, eng⟩ := kinSwap_leaves s
  have engine : ∀ n, s.kinSwap.engine n = s.engine n := fun n => by unfold State.engine; rw [eng]
  unfold State.kinBoundary
  refine ⟨?_, ?_, ?_, ?_⟩
  · rw [event_other _ 6 (by decide), event_same _ 0 6 rfl, engine]
    rfl
  · rw [event_same _ 1 6 rfl, event_other _ 6 (by decide), engine]
    rfl
  · rw [event_knl, event_knl, knl]
  · rw [event_knl, event_knl, knl]

end boundary

/-- Settles O17: a merged update makes one set at LC whose offset is the RT of the old set, and the boundary is its blocks in their order. -/
theorem updatesAndBoundaries : Obligations.UpdatesAndBoundaries := by
  unfold Obligations.UpdatesAndBoundaries
  refine ⟨fun s lc => ?_, fun s h => ?_, fun s runs new => ?_, fun s => sealBoundary_ends, kinBoundary_ends⟩
  · refine ⟨fun hf hz hs hw => ?_, fun u hf due hz hs hw => ⟨fun phase ok => ?_, fun phase bad => ?_, fun phase ok => ?_⟩, fun z hz due hs hw ok => ?_,
      fun w hw reached hf hz hs ok => slewEnd_updates lc hw reached hf hz hs ok, fun o hs due hf hz hw ok room => ?_, acceptFw_ends s⟩
    · rw [exec_updateEffectiveTick, updateTick_idle lc hf hz hs hw]
    · exact ⟨_, exec_updateEffectiveTick s, updateTick_rate lc hf due hz hs hw phase ok⟩
    · exact ⟨_, exec_updateEffectiveTick s, updateTick_range lc hf due hz hs hw phase bad⟩
    · exact ⟨_, exec_updateEffectiveTick s, updateTick_phase lc hf due hz hs hw phase ok⟩
    · exact ⟨_, exec_updateEffectiveTick s, updateTick_freeze lc hz due hs hw ok⟩
    · exact ⟨_, exec_updateEffectiveTick s, updateTick_step lc hs due hf hz hw ok room⟩
  · rw [exec_boundaryEvent, boundary_idle h]
  · intro a b core sel pair c d e
    have blocks : s.atSecond.kennelBoundary.blockBoundary.snReturn = e := rfl
    refine ⟨s.boundary, exec_boundaryEvent s, fun sound => ?_, fun fail serving => ?_⟩
    · rw [boundary_served runs new, blocks, sound]
      rfl
    · rw [boundary_served runs new, blocks, fail, serving]
      rfl

end Sys2Proof.Machine

/-! ## Words that a raised source leaves (R269, R453 to R460) -/

namespace Sys2Proof.Machine

/-- The words that a raised source or an NMI of E2 writes. -/
def raiseWord (a : Nat) : Bool := reportWord a || nmiWord a

/-- A word that no reset of other words uncovers: it is not at its reset entry, or the list of words has no entry for it. -/
def State.firm (s : State) (a : Nat) : Prop := s.word a ≠ coldWord a ∨ sget s.regs a = none

section firm

variable {s t : State} {a : Nat}

theorem firm_of_regs (regs : sget t.regs a = sget s.regs a) (word : t.word a = s.word a) (h : s.firm a) : t.firm a := by
  unfold State.firm
  rw [regs, word]
  exact h

theorem sget_setWordsN_ne (s : State) (b v n : Nat) (h : ∀ k < n, a ≠ b + 4 * k) : sget (s.setWordsN b v n).regs a = sget s.regs a := by
  induction n generalizing s b v with
  | zero => rfl
  | succ n ih =>
    have first : sget (s.setWord b (BitVec.ofNat 32 v)).regs a = sget s.regs a := by
      unfold State.setWord
      split
      · rfl
      · exact sget_sput_ne _ (h 0 (by omega)) _ _
    refine (ih _ _ _ fun k hk => ?_).trans first
    have := h (k + 1) (by omega)
    omega

/-- A firm word stays firm while other words are written. -/
theorem firm_set (f : Fld) (i v : Nat) (h : ∀ k < f.words, f.at i + 4 * k ≠ a) (firm : s.firm a) : (s.set f i v).firm a ∧ (s.set f i v).word a = s.word a := by
  have word : (s.set f i v).word a = s.word a := word_setWordsN_ne _ _ fun k hk => (h k hk).symm
  exact ⟨firm_of_regs (sget_setWordsN_ne _ _ _ _ fun k hk => (h k hk).symm) word firm, word⟩

/-- A word is firm once it is written. -/
theorem firm_set_same (s : State) (f : Fld) (i v : Nat) (hw : f.words = 1) (hp : rwsOff (f.at i) = none) : (s.set f i v).firm (f.at i) := by
  unfold State.set
  rw [hw]
  show (s.setWord (f.at i) _).firm (f.at i)
  generalize BitVec.ofNat 32 _ = w
  have regs : sget (s.setWord (f.at i) w).regs (f.at i) = if (w == coldWord (f.at i)) = true then none else some w := by
    unfold State.setWord
    rw [hp]
    exact sget_sput_same ..
  by_cases cold : w = coldWord (f.at i)
  · exact .inr (regs.trans (if_pos (beq_iff_eq.mpr cold)))
  · exact .inl (by rw [word_setWord_same w hp]; exact cold)

theorem sget_resetRegs_none (p : Nat → RegRow → Bool) {l : List (Nat × Word)} (h : sget l a = none) : sget (resetRegs p l) a = none := by
  induction l with
  | nil => rfl
  | cons x l ih =>
    obtain ⟨k, v⟩ := x
    rw [resetRegs_cons]
    by_cases hk : k = a
    · rw [show sget ((k, v) :: l) a = some v from if_pos hk] at h
      cases h
    · rw [show sget ((k, v) :: l) a = sget l a from if_neg hk] at h
      split
      · exact ih h
      · rw [show sget ((k, resetWord (p k) k v) :: resetRegs p l) a = sget (resetRegs p l) a from if_neg hk]
        exact ih h

/-- A reset leaves a firm word that none of its fields lies in. -/
theorem firm_resetRegs {p : Nat → RegRow → Bool} (ht : t.regs = resetRegs p s.regs) (ha : rwsOff a = none) (mask : maskAt (p a) a = 0) (h : s.firm a) :
    t.firm a ∧ t.word a = s.word a := by
  rcases h with set | none_
  · have word := (word_resetRegs_spared ht ha mask).resolve_right set
    exact ⟨.inl (word ▸ set), word⟩
  · have gone : sget t.regs a = none := by rw [ht]; exact sget_resetRegs_none p none_
    exact ⟨.inr gone, by rw [word_of_regs ha, word_of_regs ha, gone, none_]⟩

end firm

/-! ### What leaves them, step by step -/

/-- `t` has the time, the memory and the power of `s`, and the firm words outside a raise, firm still. -/
structure Calm (s t : State) : Prop where
  time : t.time = s.time
  mem : t.mem = s.mem
  pwr : t.pwr = s.pwr
  firm : ∀ a, rwsOff a = none → raiseWord a = false → s.firm a → t.firm a ∧ t.word a = s.word a

section calm

variable {r s t : State}

theorem Calm.refl (s : State) : Calm s s := ⟨rfl, rfl, rfl, fun _ _ _ h => ⟨h, rfl⟩⟩

theorem Calm.trans (h : Calm r s) (k : Calm s t) : Calm r t := by
  refine ⟨k.time.trans h.time, k.mem.trans h.mem, k.pwr.trans h.pwr, fun a ha hp firm => ?_⟩
  obtain ⟨firmS, wordS⟩ := h.firm a ha hp firm
  obtain ⟨firmT, wordT⟩ := k.firm a ha hp firmS
  exact ⟨firmT, wordT.trans wordS⟩

theorem Calm.ite {u : State} {c : Prop} [Decidable c] (h : Calm s t) (k : Calm s u) : Calm s (if c then t else u) := by
  split
  · exact h
  · exact k

theorem Calm.foldl {α : Type} (l : List α) (g : State → α → State) (h : ∀ u, ∀ x ∈ l, Calm u (g u x)) : Calm s (l.foldl g s) := by
  induction l generalizing s with
  | nil => exact .refl s
  | cons x l ih => exact (h s x (List.mem_cons_self ..)).trans (ih fun u y hy => h u y (List.mem_cons_of_mem _ hy))

/-- The words of a field that a raise may write. -/
def Fld.raised (f : Fld) (i : Nat) : Prop := ∀ k < f.words, raiseWord (f.at i + 4 * k) = true

theorem calm_hidden (time : t.time = s.time) (mem : t.mem = s.mem) (pwr : t.pwr = s.pwr) (regs : t.regs = s.regs) : Calm s t := by
  refine ⟨time, mem, pwr, fun a ha _ firm => ?_⟩
  have word : t.word a = s.word a := by rw [word_of_regs ha, word_of_regs ha, regs]
  exact ⟨firm_of_regs (by rw [regs]) word firm, word⟩

theorem calm_set (s : State) (f : Fld) (i v : Nat) (hf : f.raised i) : Calm s (s.set f i v) := by
  refine ⟨State.set_time .., State.set_mem .., State.set_pwr .., fun a _ hp firm => firm_set f i v (fun k hk e => ?_) firm⟩
  rw [← e, hf k hk] at hp
  cases hp

theorem raised_pend : R.HST_IRQ_PEND.raised 0 := by unfold Fld.raised; decide

/-- A message asked for leaves the register words. -/
theorem msgAsk_regs (s : State) (src : Nat) : (s.msgAsk src).regs = s.regs := by
  unfold State.msgAsk
  repeat' split
  · dsimp only
    split
    · split <;> rfl
    · rfl
  · rfl

theorem calm_irq (s : State) (src : Nat) : Calm s (s.irq src) := by
  unfold State.irq
  dsimp only
  refine Calm.ite (.refl s) ((calm_set s R.HST_IRQ_PEND 0 (s.get R.HST_IRQ_PEND ||| 2 ^ src) raised_pend).trans ?_)
  have asked := within_msgAsk (p := fun _ => false) (s.set R.HST_IRQ_PEND 0 (s.get R.HST_IRQ_PEND ||| 2 ^ src)) src
  exact calm_hidden asked.time asked.mem asked.pwr (msgAsk_regs _ src)

theorem calm_irqEdge (s u : State) (src : Nat) : Calm s (s.irqEdge u src) := Calm.ite (calm_irq s src) (.refl s)

theorem calm_raiseBit (s : State) (f : Fld) (i b : Nat) (hf : f.raised i) : Calm s (s.raiseBit f i b) := by
  unfold State.raiseBit
  dsimp only
  split
  · exact calm_set _ _ _ _ hf
  · exact (calm_set _ _ _ _ hf).trans (calm_irqEdge _ _ _)

theorem raised_report {f : Fld} {i : Nat} (h : 0x100000 ≤ f.at i ∧ f.at i + 4 * f.words ≤ 0x200120 ∨ 0x200134 ≤ f.at i ∧ f.at i + 4 * f.words ≤ 0x300000) : f.raised i :=
  fun k hk => Bool.or_eq_true_iff.mpr (.inl (reportWord_true (by omega)))

theorem raised_e2 {f : Fld} {i : Nat} (h : 0x4200000 ≤ f.at i ∧ f.at i + 4 * f.words ≤ 0x4300000) : f.raised i := by
  intro k hk
  refine Bool.or_eq_true_iff.mpr (.inr (Bool.or_eq_true_iff.mpr (.inl ?_)))
  rw [Bool.and_eq_true, decide_eq_true_eq, decide_eq_true_eq]
  omega

theorem raised_obs {f : Fld} {i : Nat} (h : 0x300000 ≤ f.at i ∧ f.at i + 4 * f.words ≤ 0x304000) : f.raised i := by
  intro k hk
  refine Bool.or_eq_true_iff.mpr (.inr (Bool.or_eq_true_iff.mpr (.inr (Bool.or_eq_true_iff.mpr (.inl ?_)))))
  rw [Bool.and_eq_true, decide_eq_true_eq, decide_eq_true_eq]
  omega

theorem calm_obs (s : State) (code loc n : Nat) : Calm s (s.obs code loc n) := by
  unfold State.obs State.forN
  refine Calm.foldl _ _ fun u k hk => Calm.ite ?_ (.refl u)
  have below : k < 32 := List.mem_range.mp hk
  have cnt : R.OBS_CNT.at k = R.OBS_CNT.addr + R.OBS_CNT.stride * k := rfl
  have counted : Calm u (u.set R.OBS_CNT k (u.get R.OBS_CNT k + n)) := calm_set _ _ _ _ (raised_obs (by
    rw [cnt]
    simp only [R.OBS_CNT, Fld.words]
    omega))
  exact Calm.ite (counted.trans (calm_raiseBit _ _ _ _ (raised_obs (by decide)))) counted

end calm

/-! ### An NMI of E2 -/

section nmi

variable (s : State)

theorem calm_setEng (n : Fin 12) (e : Engine) : Calm s (s.setEng n e) := calm_hidden rfl rfl rfl rfl

theorem calm_e2 (f : Fld) (v : Nat) (h : 0x4200000 ≤ f.at 2 ∧ f.at 2 + 4 * f.words ≤ 0x4300000) : Calm s (s.set f 2 v) := calm_set _ _ _ _ (raised_e2 h)

theorem calm_trapSave (epc : BitVec 16) : Calm s (s.trapSave 2 9 epc none false) := by
  unfold State.trapSave
  exact (((calm_e2 _ _ _ (by decide)).trans (calm_e2 _ _ _ (by decide))).trans (calm_raiseBit _ _ _ _ (raised_e2 (by decide)))).trans (calm_obs _ _ _ _)

theorem calm_halt : Calm s (s.halt 2) :=
  ((calm_setEng s _ _).trans (calm_e2 _ R.ENG_STAT_STATE _ (by decide))).trans (calm_raiseBit _ R.ENG_EVT 2 _ (raised_e2 (by decide)))

theorem calm_trapVector : Calm s (s.trapVector 2) := by
  have flagged := calm_e2 s R.ENG_STAT_IN_TRAP (b2n true) (by decide)
  have slot : ∀ u : State, Calm u (u.slot 2 R.OBS_TD_REDIRECT 2) := fun u => by
    have cycles : Calm u (u.bumpW R.ENG_CYCLES 2 2) := calm_e2 u R.ENG_CYCLES _ (by decide)
    unfold State.slot
    exact ((cycles.trans (calm_set _ R.OBS_TD_REDIRECT 2 _ (raised_obs (by decide)))).trans (calm_obs _ _ _ _)).ite cycles
  exact ((flagged.trans (calm_setEng _ _ _)).trans (calm_e2 _ R.ENG_STAT_STATE _ (by decide))).trans (slot _)

/-- An Engine reset of E2 uncovers no firm word outside its fields. -/
theorem calm_engineReset : Calm s (s.engineReset 2) := by
  have regs : ∀ x : MtxSt, Calm s { s.orphan 2 with regs := resetRegs (fun a r => unitHas (.engine 2) a && r.kind == RKind.engine) s.regs, mtx := x } := by
    refine fun x => ⟨rfl, rfl, rfl, fun a ha hp firm => firm_resetRegs (p := fun a r => unitHas (.engine 2) a && r.kind == RKind.engine) rfl ha
      (maskAt_false _ fun r => ?_) firm⟩
    have outside : unitHas (.engine 2) a = false := by
      obtain ⟨-, nmi⟩ := Bool.or_eq_false_iff.mp hp
      obtain ⟨h, -⟩ := Bool.or_eq_false_iff.mp nmi
      exact h
    rw [outside]
    rfl
  unfold State.engineReset
  dsimp only
  split
  · exact .refl s
  · exact ((regs _).trans (calm_setEng _ 2 _)).trans (calm_e2 _ _ _ (by decide))

theorem calm_trapEnter (epc : BitVec 16) : Calm s (s.trapEnter 2 9 epc none false) :=
  (calm_trapSave s epc).trans ((calm_halt _).ite ((calm_engineReset _).ite (calm_trapVector _)))

theorem calm_takeNmi : Calm s s.takeNmi := ((calm_setEng s _ _).trans (calm_trapEnter _ _)).ite (.refl s)

end nmi

end Sys2Proof.Machine

/-! ## A mild source raised (R453 to R460) -/

namespace Sys2Proof.Machine

/-- `t` has the time, the memory and the power of `s`, and its firm words outside a raise. -/
structure Raised (s t : State) : Prop where
  time : t.time = s.time
  mem : t.mem = s.mem
  pwr : t.pwr = s.pwr
  word : ∀ a, rwsOff a = none → raiseWord a = false → s.firm a → t.word a = s.word a

section raised

variable {s t u : State} {k : Nat}

theorem Calm.raised (h : Calm s t) : Raised s t := ⟨h.time, h.mem, h.pwr, fun a ha hp firm => (h.firm a ha hp firm).2⟩

theorem reportWord_raise {a : Nat} (h : raiseWord a = false) : reportWord a = false := (Bool.or_eq_false_iff.mp h).1

theorem Raised.reported (h : Raised s t) (k : Reported reportWord t u) : Raised s u :=
  ⟨k.time.trans h.time, k.mem.trans h.mem, k.pwr.trans h.pwr, fun a ha hp firm => (k.word a (reportWord_raise hp)).trans (h.word a ha hp firm)⟩

theorem calm_noted (s : State) (k cls : Nat) (hk : k < 160) : Calm s (((s.raiseBit R.FLT_STATUS (k / 32) (k % 32)).bump R.FLT_COUNT k).capture k cls) := by
  have status : R.FLT_STATUS.at (k / 32) = 0x200100 + 4 * (k / 32) := rfl
  have count : R.FLT_COUNT.at k = 0x200800 + 4 * k := rfl
  have noted : Calm s ((s.raiseBit R.FLT_STATUS (k / 32) (k % 32)).bump R.FLT_COUNT k) := (calm_raiseBit s R.FLT_STATUS (k / 32) (k % 32) (raised_report (by rw [status]; simp only [R.FLT_STATUS, Fld.words]; omega))).trans
    (calm_set _ R.FLT_COUNT k _ (raised_report (by rw [count]; simp only [R.FLT_COUNT, Fld.words]; omega)))
  refine noted.trans ?_
  unfold State.capture
  refine Calm.ite ?_ (.refl _)
  exact (((calm_set _ R.FLT_FIRST_FS 0 _ (raised_report (by decide))).trans (calm_set _ R.FLT_FIRST_CLASS 0 _ (raised_report (by decide)))).trans
    (calm_set _ R.FLT_FIRST_VALID 0 _ (raised_report (by decide)))).trans (calm_set _ R.FLT_FIRST_RT 0 _ (raised_report (by decide)))

/-- The core of a raised source leaves firm words outside it, even across an NMI that resets E2 (R455). -/
theorem raiseCore_raised (s : State) (inst : Nat) (info : List Byte) (hk : k < 160) : Raised s (s.raiseCore k inst info) := by
  unfold State.raiseCore
  cases fsInfo k with
  | none => exact (Calm.refl s).raised
  | some x =>
    obtain ⟨cls, l, d, blk, fix⟩ := x
    dsimp only
    have noted := calm_noted s k cls hk
    generalize ((s.raiseBit R.FLT_STATUS (k / 32) (k % 32)).bump R.FLT_COUNT k).capture k cls = u at noted ⊢
    generalize hv : (if ((u.reactions k).testBit 0 || ((u.reactions k).testBit 1 && !u.nmiTaken)) = true then u.irq 20 else u) = v
    have asked : Calm u v := hv ▸ (calm_irq u 20).ite (.refl u)
    generalize hw : (if ((u.reactions k).testBit 1 && u.nmiTaken) = true then (v.setEng 2 { v.engine 2 with nmi := true }).takeNmi else v) = w
    have taken : Calm v w := hw ▸ ((calm_setEng v _ _).trans (calm_takeNmi _)).ite (.refl v)
    have logged : LogsOne w (if (u.reactions k).testBit 5 = true then w.faultLog k cls (u.performed k inst) inst info else w) :=
      (faultLog_logsOne _ _ _ _ _ _).ite (.of_kspi (.refl _ _) rfl)
    have summed : ∀ x : State, Reported reportWord x x.syncFlt := fun x => ((synced_syncFlt x).mono fun a ha => beq_eq_false_iff_ne.mpr (by rintro rfl; cases ha)).reported
    exact (((noted.trans asked).trans taken).raised.reported logged.reported).reported (summed _)

/-- A source whose reactions reset nothing ends with the room of the log shown. -/
theorem raise_mild (h : s.mild k) (hk : k < 160) (known : (fsInfo k).isSome = true) (inst : Nat) (info : List Byte) :
    s.raise k inst info = (s.raiseCore k inst info).clearBit R.FLT_ACTIVE 0 fsAuditFull := by
  obtain ⟨h2, h3, room⟩ := h
  obtain ⟨-, word, events⟩ := raiseCore_spared (s := s) inst info hk
  have core := raise1_mild (s := s) inst info known h2 h3
  unfold State.raise
  rw [core]
  generalize s.raiseCore k inst info = t at word events ⊢
  have ack : s.get R.KNL_AUDIT_ACK ≤ t.get R.KNL_AUDIT_ACK := by
    have cold : bits (coldWord 0x1001410).toNat 0 32 = 0 := by decide +kernel
    rcases word 0x1001410 (by decide) (by decide) (by decide) with e | e
    · exact Nat.le_of_eq (get_of_word rfl e).symm
    · have zero : s.get R.KNL_AUDIT_ACK = 0 := (get_single s rfl).trans ((congrArg (fun w : Word => bits w.toNat 0 32) e).trans cold)
      omega
  unfold State.syncAuditFull
  rw [auditOver_of_room room ack events, if_neg Bool.false_ne_true]

/-- Whether a source is mild follows three words and the log. -/
theorem mild_congr (guard : t.word 0x200024 = s.word 0x200024) (react : t.word (R.FLT_REACT_REACT.at k) = s.word (R.FLT_REACT_REACT.at k))
    (ack : t.word 0x1001410 = s.word 0x1001410) (kspi : t.kspi = s.kspi) (h : s.mild k) : t.mild k := by
  obtain ⟨h2, h3, room⟩ := h
  have same : t.reactions k = s.reactions k := reactions_congr (get_of_word rfl guard) (get_of_word rfl react)
  refine ⟨same ▸ h2, same ▸ h3, ?_⟩
  unfold State.room State.unexported
  rw [get_of_word (f := R.KNL_AUDIT_ACK) (i := 0) rfl ack, kspi]
  exact room

/-- A level source of the first word is active, and nothing else of what a raise spares changed. -/
structure Levelled (s t : State) (k : Nat) : Prop where
  active : t.active k = true
  time : t.time = s.time
  mem : t.mem = s.mem
  pwr : t.pwr = s.pwr
  word : ∀ a, a < 0x100000 ∨ 0x1100000 ≤ a ∧ a < 0x4200000 → rwsOff a = none → s.firm a → t.word a = s.word a

theorem raiseWord_apart {a : Nat} (h : a < 0x100000 ∨ 0x1100000 ≤ a ∧ a < 0x4200000) : raiseWord a = false := by
  simp only [raiseWord, reportWord, nmiWord, obsWord, pendWord, Bool.or_eq_false_iff, Bool.and_eq_false_iff, decide_eq_false_iff_not]
  omega

theorem levelOn_leaves (h : s.mild k) (hk : k < 19) (known : (fsInfo k).isSome = true) (inst : Nat) (info : List Byte) : Levelled s (s.levelOn k inst info) k := by
  have word0 : k / 32 = 0 := by omega
  have bit : k % 32 = k := by omega
  unfold State.levelOn
  split
  · next active => exact ⟨active, rfl, rfl, rfl, fun _ _ _ _ => rfl⟩
  · rw [word0, bit]
    have level : s.raiseBit R.FLT_ACTIVE 0 k = s.set R.FLT_ACTIVE 0 (s.get R.FLT_ACTIVE ||| 2 ^ k) := rfl
    have active : ((s.raiseBit R.FLT_ACTIVE 0 k).get R.FLT_ACTIVE).testBit k = true := by
      rw [get_raiseBit_same (by unfold Fld.plain; decide) (by show k < 32; omega) (by decide), Nat.testBit_or, Nat.testBit_two_pow_self, Bool.or_true]
    have firmLevel : (s.raiseBit R.FLT_ACTIVE 0 k).firm 0x200120 := level ▸ firm_set_same s R.FLT_ACTIVE 0 _ rfl (by decide)
    have set : Within (· == 0x200120) s (s.raiseBit R.FLT_ACTIVE 0 k) := level ▸ within_set _ _ _ _ (by decide)
    have firm : ∀ a, a ≠ 0x200120 → s.firm a → (s.raiseBit R.FLT_ACTIVE 0 k).firm a := fun a ha f =>
      level ▸ (firm_set R.FLT_ACTIVE 0 _ (fun j hj e => ha (by have : j = 0 := Nat.lt_one_iff.mp hj; subst this; exact e.symm)) f).1
    have react : R.FLT_REACT_REACT.at k = 0x200400 + 4 * k := rfl
    have mild : (s.raiseBit R.FLT_ACTIVE 0 k).mild k := mild_congr (set.word _ (by decide))
      (set.word _ (beq_eq_false_iff_ne.mpr (by rw [react]; omega))) (set.word _ (by decide)) set.kspi h
    generalize s.raiseBit R.FLT_ACTIVE 0 k = v at active firmLevel set firm mild ⊢
    rw [raise_mild mild (by omega) known]
    have core := raiseCore_raised v inst info (k := k) (by omega)
    generalize v.raiseCore k inst info = w at core ⊢
    have kept : w.word 0x200120 = v.word 0x200120 := core.word 0x200120 (by decide) (by decide) firmLevel
    have same : w.get R.FLT_ACTIVE = v.get R.FLT_ACTIVE := get_of_word rfl kept
    have cleared : Within (· == 0x200120) w (w.clearBit R.FLT_ACTIVE 0 fsAuditFull) := within_set _ _ _ _ (by decide)
    refine ⟨?_, cleared.time.trans (core.time.trans set.time), cleared.mem.trans (core.mem.trans set.mem), cleared.pwr.trans (core.pwr.trans set.pwr), fun a ha hr f => ?_⟩
    · unfold State.active
      rw [word0, bit, testBit_clearBit (by unfold Fld.plain; decide), same, active]
      exact bne_iff_ne.mpr (Nat.ne_of_lt hk)
    · have apart : a ≠ 0x200120 := by omega
      rw [cleared.word a (beq_eq_false_iff_ne.mpr apart), core.word a hr (raiseWord_apart ha) (firm a apart f), set.word a (beq_eq_false_iff_ne.mpr apart)]

/-- A level source of the first word that ends. -/
theorem levelOff_leaves (s : State) (hk : k < 32) : (s.levelOff k).active k = false ∧ Within (· == 0x200120) s (s.levelOff k) := by
  have word0 : k / 32 = 0 := by omega
  have bit : k % 32 = k := by omega
  unfold State.levelOff
  rw [word0, bit]
  refine ⟨?_, within_set _ _ _ _ (by decide)⟩
  unfold State.active
  rw [word0, bit, testBit_clearBit (by unfold Fld.plain; decide), bne_self_eq_false, Bool.and_false]

end raised

end Sys2Proof.Machine

/-! ## The fields of the clocks (R395 to R406) -/

namespace Sys2Proof.Machine

/-! ### Reads after writes of fields of one word -/

/-- A field of one word that the list of words holds. -/
def Fld.own (f : Fld) (i : Nat) : Bool := f.words == 1 && (rwsOff (f.at i)).isNone

/-- Two fields that share no bit. -/
def Fld.parted (f : Fld) (i : Nat) (g : Fld) (j : Nat) : Bool :=
  decide (g.at j + 4 * g.words ≤ f.at i) || decide (f.at i + 4 * f.words ≤ g.at j)
    || f.own i && decide (g.at j = f.at i) && g.words == 1 && (decide (g.lsb + g.width ≤ f.lsb) || decide (f.lsb + f.width ≤ g.lsb))

section fields

variable (s : State) {f g : Fld} {i j : Nat}

theorem own_iff : f.own i = true ↔ f.words = 1 ∧ rwsOff (f.at i) = none := by
  unfold Fld.own
  rw [Bool.and_eq_true, beq_iff_eq, Option.isNone_iff_eq_none]

theorem plain_of_own (h : f.own i = true) : f.plain i := by
  obtain ⟨words, store⟩ := own_iff.mp h
  intro k hk
  have k0 : k = 0 := by omega
  rw [k0]
  exact store

theorem single_word {a : Nat} (hw : f.words = 1) (h : f.at i ≠ a) : ∀ k < f.words, f.at i + 4 * k ≠ a := by
  intro k hk
  have k0 : k = 0 := by omega
  rw [k0]
  exact h

theorem get_set_own (v : Nat) (h : f.own i = true) : (s.set f i v).get f i = v % 2 ^ f.width := get_set_same v (plain_of_own h)

theorem get_set_parted (v : Nat) (h : f.parted i g j = true) : (s.set f i v).get g j = s.get g j := by
  unfold Fld.parted at h
  rw [Bool.or_eq_true, Bool.or_eq_true, decide_eq_true_eq, decide_eq_true_eq] at h
  rcases h with apart | same
  · exact get_set_apart apart
  · rw [Bool.and_eq_true, Bool.and_eq_true, Bool.and_eq_true, beq_iff_eq, decide_eq_true_eq, Bool.or_eq_true, decide_eq_true_eq, decide_eq_true_eq] at same
    obtain ⟨⟨⟨own, at_⟩, words⟩, bits⟩ := same
    exact get_set_beside at_ (words.trans (own_iff.mp own).1.symm) bits (plain_of_own own)

theorem flag_setFlag_own (b : Bool) (h : f.own i = true) (hw : f.width = 1) : (s.setFlag f i b).flag f i = b := flag_setFlag_same b (plain_of_own h) hw

theorem get_setFlag_parted (b : Bool) (h : f.parted i g j = true) : (s.setFlag f i b).get g j = s.get g j := get_set_parted s _ h

theorem flag_setFlag_parted (b : Bool) (h : f.parted i g j = true) : (s.setFlag f i b).flag g j = s.flag g j := by
  unfold State.flag
  rw [get_setFlag_parted s b h]

theorem flag_set_parted (v : Nat) (h : f.parted i g j = true) : (s.set f i v).flag g j = s.flag g j := by
  unfold State.flag
  rw [get_set_parted s v h]

theorem active_set_parted (v k : Nat) (h : f.parted i R.FLT_ACTIVE (k / 32) = true) : (s.set f i v).active k = s.active k := by
  unfold State.active
  rw [get_set_parted s v h]

end fields

/-! ### Power, selectors and events -/

section clocks

variable (s : State)

/-- The state with another power block. -/
def State.withPwr (s : State) (x : PwrSt) : State := { s with pwr := x }

theorem withPwr_pwr (x : PwrSt) : (s.withPwr x).pwr = x := rfl
theorem withPwr_time (x : PwrSt) : (s.withPwr x).time = s.time := rfl
theorem withPwr_mem (x : PwrSt) : (s.withPwr x).mem = s.mem := rfl
theorem get_withPwr (x : PwrSt) (f : Fld) (i : Nat) : (s.withPwr x).get f i = s.get f i := get_of_words (s := s) (t := s.withPwr x) (fun _ => rfl) f i

theorem flag_withPwr (x : PwrSt) (f : Fld) (i : Nat) : (s.withPwr x).flag f i = s.flag f i := by
  unfold State.flag
  rw [get_withPwr]

theorem active_withPwr (x : PwrSt) (k : Nat) : (s.withPwr x).active k = s.active k := by
  unfold State.active
  rw [get_withPwr]

theorem rootTo_eq (src : Nat) : s.rootTo src = (s.withPwr { s.pwr with rootSw := some src }).setFlag R.CLK_STAT_SW_BUSY 0 true := rfl

theorem aonTo_eq (src : Nat) : s.aonTo src = (s.withPwr { s.pwr with aonSw := some src }).setFlag R.CLK_STAT_SW_BUSY 0 (s.pwr.rootSw.isSome || true) := rfl

theorem clkEvt_eq (b : Nat) : s.clkEvt b = s.set R.CLK_EVT 0 (s.get R.CLK_EVT ||| 2 ^ b) := rfl

theorem clkEvt_bit {b : Nat} (h : b < 9) : ((s.clkEvt b).get R.CLK_EVT).testBit b = true := by
  unfold State.clkEvt
  rw [get_raiseBit_same (by unfold Fld.plain; decide) h (by decide), Nat.testBit_or, Nat.testBit_two_pow_self, Bool.or_true]

theorem setFlag_pwr (f : Fld) (i : Nat) (b : Bool) : (s.setFlag f i b).pwr = s.pwr := State.set_pwr ..
theorem setFlag_mem (f : Fld) (i : Nat) (b : Bool) : (s.setFlag f i b).mem = s.mem := State.set_mem ..

end clocks

/-! ### What a change of clock fields leaves of the rest -/

/-- The words of CLK, and the states of the oscillators. -/
def clkWord (a : Nat) : Bool := decide (a < 0x1000) || (decide (0x1102018 ≤ a) && decide (a < 0x1102118))

/-- `t` has the time, the memory and the flash of `s`, and its words outside CLK; what is firm stays so. -/
structure Clocked (s t : State) : Prop where
  time : t.time = s.time
  mem : t.mem = s.mem
  kspi : t.kspi = s.kspi
  word : ∀ a, clkWord a = false → t.word a = s.word a

section clocked

variable {r s t : State}

theorem Clocked.refl (s : State) : Clocked s s := ⟨rfl, rfl, rfl, fun _ _ => rfl⟩

theorem Clocked.trans (h : Clocked r s) (k : Clocked s t) : Clocked r t :=
  ⟨k.time.trans h.time, k.mem.trans h.mem, k.kspi.trans h.kspi, fun a ha => (k.word a ha).trans (h.word a ha)⟩

theorem clocked_set (s : State) (f : Fld) (i v : Nat) (hf : ∀ k < f.words, clkWord (f.at i + 4 * k) = true) : Clocked s (s.set f i v) := by
  have set := within_set s f i v hf
  exact ⟨set.time, set.mem, set.kspi, set.word⟩

theorem clocked_withPwr (s : State) (x : PwrSt) : Clocked s (s.withPwr x) := ⟨rfl, rfl, rfl, fun _ _ => rfl⟩

theorem Clocked.mild {k : Nat} (h : Clocked s t) (hk : k < 160) (mild : s.mild k) : t.mild k := by
  have react : clkWord (R.FLT_REACT_REACT.at k) = false := by
    have at_ : R.FLT_REACT_REACT.at k = 0x200400 + 4 * k := rfl
    unfold clkWord
    rw [at_]
    simp only [Bool.or_eq_false_iff, Bool.and_eq_false_iff, decide_eq_false_iff_not]
    omega
  exact mild_congr (h.word _ (by decide)) (h.word _ react) (h.word _ (by decide)) h.kspi mild

end clocked

end Sys2Proof.Machine

/-! ## The crystals (R395, R396) -/

namespace Sys2Proof.Machine

/-! ### A frequency window -/

/-- What a frequency window leaves: its amplitude and its error shown in one word, the rest as it was. -/
structure Windowed (s t : State) (err : Int) (amp : Byte) : Prop where
  clocked : Clocked s t
  pwr : t.pwr = s.pwr
  word : ∀ a, (a == 0xC) = false → t.word a = s.word a
  firm : t.firm 0xC
  amp : t.get R.CLK_XTAL_STAT_AMP = amp.toNat
  err : err.natAbs < 32768 → t.get R.CLK_XTAL_STAT_FREQ_ERR = trunc 16 err

section window

variable {s t : State}

theorem amp_fits (amp : Byte) : amp.toNat % 2 ^ R.CLK_XTAL_STAT_AMP.width = amp.toNat := Nat.mod_eq_of_lt amp.isLt

/-- The amplitude alone. -/
theorem ampShow_leaves (s : State) (amp : Byte) : Within (· == 0xC) s (s.set R.CLK_XTAL_STAT_AMP 0 amp.toNat) ∧ (s.set R.CLK_XTAL_STAT_AMP 0 amp.toNat).firm 0xC
    ∧ (s.set R.CLK_XTAL_STAT_AMP 0 amp.toNat).get R.CLK_XTAL_STAT_AMP = amp.toNat :=
  ⟨within_set _ _ _ _ (by decide), firm_set_same s R.CLK_XTAL_STAT_AMP 0 _ rfl rfl, (get_set_own s _ rfl).trans (amp_fits amp)⟩

theorem Within.clocked {p : Nat → Bool} (h : Within p s t) (hp : ∀ a, clkWord a = false → p a = false) : Clocked s t :=
  ⟨h.time, h.mem, h.kspi, fun a ha => h.word a (hp a ha)⟩

theorem xtalStat_clk {a : Nat} (h : clkWord a = false) : (a == 0xC) = false := beq_eq_false_iff_ne.mpr (by rintro rfl; cases h)

theorem windowShow_leaves (s : State) (count : Nat) (amp : Byte) : Windowed s (s.windowShow count amp) (s.windowErr count) amp := by
  obtain ⟨set, -, shown⟩ := ampShow_leaves s amp
  have errShow : ∀ (x : State) (v : Nat), Clocked s x → x.pwr = s.pwr → (∀ a, (a == 0xC) = false → x.word a = s.word a) → x.get R.CLK_XTAL_STAT_AMP = amp.toNat →
      ((s.windowErr count).natAbs < 32768 → v = trunc 16 (s.windowErr count)) → Windowed s (x.set R.CLK_XTAL_STAT_FREQ_ERR 0 v) (s.windowErr count) amp := by
    intro x v clocked pwr word hamp herr
    have put : Within (· == 0xC) x (x.set R.CLK_XTAL_STAT_FREQ_ERR 0 v) := within_set _ _ _ _ (by decide)
    refine ⟨clocked.trans (put.clocked fun a => xtalStat_clk), put.pwr.trans pwr, fun a ha => (put.word a ha).trans (word a ha),
      firm_set_same x R.CLK_XTAL_STAT_FREQ_ERR 0 v rfl rfl, (get_set_parted x v rfl).trans hamp, fun small => ?_⟩
    rw [get_set_own x v rfl, herr small]
    exact Nat.mod_eq_of_lt (BitVec.isLt _)
  unfold State.windowShow
  dsimp only
  split
  · exact errShow _ _ (set.clocked fun a => xtalStat_clk) set.pwr set.word shown fun _ => rfl
  · next wide =>
    generalize s.set R.CLK_XTAL_STAT_AMP 0 amp.toNat = u at set shown ⊢
    have drawn : Clocked u u.drawn := ⟨rfl, rfl, rfl, fun _ _ => rfl⟩
    exact errShow _ _ ((set.clocked fun a => xtalStat_clk).trans drawn) set.pwr set.word ((get_of_words (s := u) (t := u.drawn) (fun _ => rfl) _ _).trans shown)
      fun small => absurd small wide

theorem Windowed.flag {err : Int} {amp : Byte} (h : Windowed s t err amp) (f : Fld) (hf : f.at 0 = 0 ∧ f.words = 1) : t.flag f = s.flag f := by
  unfold State.flag
  rw [get_of_word hf.2 (h.word _ (by rw [hf.1]; decide))]

theorem windowOk_congr {count : Nat} (h : t.flag R.CLK_STAT_AON_SRC = s.flag R.CLK_STAT_AON_SRC) : t.windowOk count = s.windowOk count := by
  unfold State.windowOk
  rw [h]

end window

/-! ### XTAL lost (R395, R402) -/

/-- XTAL drops out of CLK_STAT. -/
def State.xtalDropped (s : State) : State := ((s.setFlag R.CLK_STAT_XTAL_RDY 0 false).setFlag R.CLK_STAT_XTAL_LOST 0 true).clkEvt 0

/-- The root selector shows a source and begins to switch to it. -/
def State.rootSwitch (s : State) (src : Nat) : State := (s.set R.CLK_ROOT_SEL 0 src).rootTo src

/-- A root that runs from XTAL moves to SYSPLL. -/
def State.rootMoved (s : State) : State := if s.get R.CLK_STAT_ROOT_SRC = 0 then s.rootSwitch 1 else s

section lost

variable {s : State}

theorem xtalLost_eq (h : s.flag R.CLK_STAT_XTAL_RDY = true) : s.xtalLost = (s.xtalDropped.levelOn fsXtalLost).rootMoved := by
  unfold State.xtalLost
  rw [h]
  rfl

theorem xtalLost_none (h : s.flag R.CLK_STAT_XTAL_RDY = false) : s.xtalLost = s := if_pos (by rw [h]; rfl)

/-- What a switch of the root leaves. -/
theorem rootSwitch_leaves (s : State) (src : Nat) : (s.rootSwitch src).pwr = { s.pwr with rootSw := some src }
    ∧ (s.rootSwitch src).time = s.time ∧ (s.rootSwitch src).mem = s.mem
    ∧ (s.rootSwitch src).flag R.CLK_STAT_SW_BUSY = true ∧ (s.rootSwitch src).get R.CLK_ROOT_SEL = src % 2
    ∧ ∀ g j, R.CLK_STAT_SW_BUSY.parted 0 g j = true → R.CLK_ROOT_SEL.parted 0 g j = true → (s.rootSwitch src).get g j = s.get g j := by
  unfold State.rootSwitch
  rw [rootTo_eq]
  refine ⟨?_, ?_, ?_, flag_setFlag_own _ _ rfl rfl, ?_, fun g j busy sel => ?_⟩
  · rw [setFlag_pwr, withPwr_pwr, State.set_pwr]
  · rw [State.setFlag_time, withPwr_time, State.set_time]
  · rw [setFlag_mem, withPwr_mem, State.set_mem]
  · rw [get_setFlag_parted _ _ rfl, get_withPwr, get_set_own _ _ rfl]
    rfl
  · rw [get_setFlag_parted _ _ busy, get_withPwr, get_set_parted _ _ sel]

theorem rootMoved_leaves (s : State) : (s.get R.CLK_STAT_ROOT_SRC = 0 → s.rootMoved.get R.CLK_ROOT_SEL = 1 ∧ s.rootMoved.pwr.rootSw = some 1
      ∧ s.rootMoved.flag R.CLK_STAT_SW_BUSY = true) ∧ s.rootMoved.time = s.time ∧ s.rootMoved.mem = s.mem
    ∧ ∀ g j, R.CLK_STAT_SW_BUSY.parted 0 g j = true → R.CLK_ROOT_SEL.parted 0 g j = true → s.rootMoved.get g j = s.get g j := by
  unfold State.rootMoved
  split
  · obtain ⟨pwr, time, mem, busy, sel, same⟩ := rootSwitch_leaves s 1
    exact ⟨fun _ => ⟨sel, by rw [pwr], busy⟩, time, mem, same⟩
  · next other => exact ⟨fun h => absurd h other, rfl, rfl, fun _ _ _ _ => rfl⟩

theorem xtalDropped_leaves (s : State) : Clocked s s.xtalDropped ∧ s.xtalDropped.pwr = s.pwr ∧ s.xtalDropped.flag R.CLK_STAT_XTAL_RDY = false
    ∧ s.xtalDropped.flag R.CLK_STAT_XTAL_LOST = true ∧ s.xtalDropped.get R.CLK_STAT_ROOT_SRC = s.get R.CLK_STAT_ROOT_SRC
    ∧ s.xtalDropped.firm 0 ∧ s.xtalDropped.firm 4 := by
  unfold State.xtalDropped
  rw [clkEvt_eq]
  refine ⟨((clocked_set _ _ _ _ (by decide)).trans (clocked_set _ _ _ _ (by decide))).trans (clocked_set _ _ _ _ (by decide)), ?_, ?_, ?_, ?_, ?_, ?_⟩
  · rw [State.set_pwr, setFlag_pwr, setFlag_pwr]
  · rw [flag_set_parted _ _ rfl, flag_setFlag_parted _ _ rfl, flag_setFlag_own _ _ rfl rfl]
  · rw [flag_set_parted _ _ rfl, flag_setFlag_own _ _ rfl rfl]
  · rw [get_set_parted _ _ rfl, get_setFlag_parted _ _ rfl, get_setFlag_parted _ _ rfl]
  · exact (firm_set R.CLK_EVT 0 _ (by decide) (firm_set_same _ R.CLK_STAT_XTAL_LOST 0 _ rfl rfl)).1
  · exact firm_set_same _ R.CLK_EVT 0 _ rfl rfl

/-- XTAL lost under a mild source; the word of the window stands. -/
theorem xtalLost_leaves (rdy : s.flag R.CLK_STAT_XTAL_RDY = true) (mild : s.mild fsXtalLost) (shown : s.firm 0xC) :
    (s.xtalLost.flag R.CLK_STAT_XTAL_RDY = false ∧ s.xtalLost.flag R.CLK_STAT_XTAL_LOST = true ∧ (s.xtalLost.get R.CLK_EVT).testBit 0 = true
      ∧ s.xtalLost.active fsXtalLost = true ∧ (s.get R.CLK_STAT_ROOT_SRC = 0 → s.xtalLost.get R.CLK_ROOT_SEL = 1 ∧ s.xtalLost.pwr.rootSw = some 1
        ∧ s.xtalLost.flag R.CLK_STAT_SW_BUSY = true) ∧ s.xtalLost.time = s.time ∧ s.xtalLost.mem = s.mem)
      ∧ s.xtalLost.get R.CLK_XTAL_STAT_AMP = s.get R.CLK_XTAL_STAT_AMP ∧ s.xtalLost.get R.CLK_XTAL_STAT_FREQ_ERR = s.get R.CLK_XTAL_STAT_FREQ_ERR := by
  rw [xtalLost_eq rdy]
  obtain ⟨clocked, -, dropped, lost, src, stat, evt⟩ := xtalDropped_leaves s
  have bit : (s.xtalDropped.get R.CLK_EVT).testBit 0 = true := clkEvt_bit _ (by decide)
  have window : s.xtalDropped.word 0xC = s.word 0xC ∧ s.xtalDropped.firm 0xC := by
    unfold State.xtalDropped
    rw [clkEvt_eq]
    have first := firm_set (s := s) R.CLK_STAT_XTAL_RDY 0 (b2n false) (by decide) shown
    have second := firm_set R.CLK_STAT_XTAL_LOST 0 (b2n true) (by decide) first.1
    have third := firm_set R.CLK_EVT 0 (((s.setFlag R.CLK_STAT_XTAL_RDY 0 false).setFlag R.CLK_STAT_XTAL_LOST 0 true).get R.CLK_EVT ||| 2 ^ 0) (by decide) second.1
    exact ⟨third.2.trans (second.2.trans first.2), third.1⟩
  have level := levelOn_leaves (clocked.mild (by decide) mild) (by decide) (by decide) noInst []
  generalize s.xtalDropped = v at clocked dropped lost src stat evt bit window level ⊢
  generalize v.levelOn fsXtalLost = w at level ⊢
  obtain ⟨moves, time, mem, same⟩ := rootMoved_leaves w
  have word : ∀ a, a < 0x100000 → v.firm a → w.word a = v.word a := fun a ha firm => level.word a (.inl ha) (if_pos (by omega)) firm
  have wFlag : ∀ f : Fld, f.at 0 = 0 → f.words = 1 → w.get f = v.get f := fun f ha hw => get_of_word hw (by rw [ha]; exact word 0 (by decide) stat)
  have window' : w.word 0xC = s.word 0xC := (word 0xC (by decide) window.2).trans window.1
  rw [wFlag _ rfl rfl, src] at moves
  refine ⟨⟨?_, ?_, ?_, ?_, moves, time.trans (level.time.trans clocked.time), mem.trans (level.mem.trans clocked.mem)⟩, ?_, ?_⟩
  · rw [State.flag, same _ _ rfl rfl, wFlag _ rfl rfl]; exact dropped
  · rw [State.flag, same _ _ rfl rfl, wFlag _ rfl rfl]; exact lost
  · rw [same _ _ rfl rfl, get_of_word (f := R.CLK_EVT) rfl (word 4 (by decide) evt)]; exact bit
  · rw [State.active, same _ _ rfl rfl]; exact level.active
  · rw [same _ _ rfl rfl]; exact get_of_word rfl window'
  · rw [same _ _ rfl rfl]; exact get_of_word rfl window'

end lost

/-! ### The AON crystal (R396) -/

section aon

variable {s : State}

theorem aonTo_leaves (s : State) (src : Nat) : (s.aonTo src).pwr = { s.pwr with aonSw := some src } ∧ Clocked s (s.aonTo src) ∧ (s.aonTo src).flag R.CLK_STAT_SW_BUSY = true
    ∧ ∀ g j, R.CLK_STAT_SW_BUSY.parted 0 g j = true → (s.aonTo src).get g j = s.get g j := by
  rw [aonTo_eq]
  refine ⟨(setFlag_pwr ..).trans rfl, (clocked_withPwr s _).trans (clocked_set _ _ _ _ (by decide)), ?_, fun g j busy => ?_⟩
  · rw [flag_setFlag_own _ _ rfl rfl, Bool.or_true]
  · rw [get_setFlag_parted _ _ busy, get_withPwr]

/-- The AON crystal is ready, its source ends, and AON moves to it. -/
def State.aonReady (s : State) : State := ((s.setFlag R.CLK_STAT_AON_XTAL_RDY 0 true).levelOff fsAonXtalLost).aonTo 1

theorem aonXtalReady_leaves (s : State) : s.aonReady.flag R.CLK_STAT_AON_XTAL_RDY = true
    ∧ s.aonReady.pwr.aonSw = some 1
    ∧ s.aonReady.flag R.CLK_STAT_SW_BUSY = true
    ∧ s.aonReady.active fsAonXtalLost = false
    ∧ s.aonReady.time = s.time := by
  unfold State.aonReady
  have ready : (s.setFlag R.CLK_STAT_AON_XTAL_RDY 0 true).flag R.CLK_STAT_AON_XTAL_RDY = true := flag_setFlag_own s true rfl rfl
  have time : (s.setFlag R.CLK_STAT_AON_XTAL_RDY 0 true).time = s.time := State.setFlag_time ..
  generalize s.setFlag R.CLK_STAT_AON_XTAL_RDY 0 true = u at ready time ⊢
  obtain ⟨off, set⟩ := levelOff_leaves u (k := fsAonXtalLost) (by decide)
  generalize u.levelOff fsAonXtalLost = w at off set ⊢
  obtain ⟨pwr, clocked, busy, same⟩ := aonTo_leaves w 1
  refine ⟨?_, by rw [pwr], busy, ?_, clocked.time.trans (set.time.trans time)⟩
  · rw [State.flag, same _ _ rfl, set.get _ _ (by decide)]; exact ready
  · rw [State.active, same _ _ rfl]; exact off

/-- The AON crystal drops out of CLK_STAT, and AON falls back. -/
def State.aonDropped (s : State) : State := ((s.setFlag R.CLK_STAT_AON_XTAL_RDY 0 false).aonTo 0).clkEvt 5

theorem aonXtalLoss_leaves (mild : s.mild fsAonXtalLost) : (s.aonDropped.levelOn fsAonXtalLost).flag R.CLK_STAT_AON_XTAL_RDY = false
    ∧ (s.aonDropped.levelOn fsAonXtalLost).pwr.aonSw = some 0 ∧ (s.aonDropped.levelOn fsAonXtalLost).flag R.CLK_STAT_SW_BUSY = true
    ∧ ((s.aonDropped.levelOn fsAonXtalLost).get R.CLK_EVT).testBit 5 = true ∧ (s.aonDropped.levelOn fsAonXtalLost).active fsAonXtalLost = true
    ∧ (s.aonDropped.levelOn fsAonXtalLost).time = s.time := by
  have dropped : (s.setFlag R.CLK_STAT_AON_XTAL_RDY 0 false).flag R.CLK_STAT_AON_XTAL_RDY = false := flag_setFlag_own s false rfl rfl
  have first : Clocked s (s.setFlag R.CLK_STAT_AON_XTAL_RDY 0 false) := clocked_set _ _ _ _ (by decide)
  have bit : (s.aonDropped.get R.CLK_EVT).testBit 5 = true := clkEvt_bit _ (by decide)
  obtain ⟨pwr, second, busy, same⟩ := aonTo_leaves (s.setFlag R.CLK_STAT_AON_XTAL_RDY 0 false) 0
  have stat : ((s.setFlag R.CLK_STAT_AON_XTAL_RDY 0 false).aonTo 0).firm 0 := by
    rw [aonTo_eq]
    exact firm_set_same _ R.CLK_STAT_SW_BUSY 0 _ rfl rfl
  have hv : s.aonDropped = ((s.setFlag R.CLK_STAT_AON_XTAL_RDY 0 false).aonTo 0).clkEvt 5 := rfl
  generalize (s.setFlag R.CLK_STAT_AON_XTAL_RDY 0 false).aonTo 0 = u at pwr second busy same stat hv
  rw [clkEvt_eq] at hv
  have clocked : Clocked s s.aonDropped := hv ▸ (first.trans second).trans (clocked_set _ _ _ _ (by decide))
  have evtFirm : s.aonDropped.firm 4 := hv ▸ firm_set_same u R.CLK_EVT 0 _ rfl rfl
  obtain ⟨statFirm, statWord⟩ : s.aonDropped.firm 0 ∧ s.aonDropped.word 0 = u.word 0 := hv ▸ firm_set R.CLK_EVT 0 _ (by decide) stat
  have vPwr : s.aonDropped.pwr = u.pwr := hv ▸ State.set_pwr ..
  have level := levelOn_leaves (clocked.mild (by decide) mild) (by decide) (by decide) noInst []
  generalize s.aonDropped = v at bit clocked evtFirm statFirm statWord vPwr level ⊢
  generalize v.levelOn fsAonXtalLost = w at level ⊢
  have statKept : w.word 0 = u.word 0 := (level.word 0 (by decide) rfl statFirm).trans statWord
  refine ⟨?_, by rw [level.pwr, vPwr, pwr], ?_, ?_, level.active, level.time.trans clocked.time⟩
  · rw [State.flag, get_of_word (f := R.CLK_STAT_AON_XTAL_RDY) rfl statKept, same _ _ rfl]; exact dropped
  · rw [State.flag, get_of_word (f := R.CLK_STAT_SW_BUSY) rfl statKept]; exact busy
  · rw [get_of_word (f := R.CLK_EVT) rfl (level.word 4 (by decide) rfl evtFirm)]; exact bit

end aon

end Sys2Proof.Machine

/-! ## SYSPLL and the selectors (R397 to R402) -/

namespace Sys2Proof.Machine

/-! ### SYSPLL -/

section syspll

variable (s : State) (band : BitVec 6) (vtune : Byte)

theorem band_fits : band.toNat % 2 ^ R.CLK_SYSPLL_STAT_BAND.width = band.toNat := Nat.mod_eq_of_lt band.isLt

theorem vtune_fits : vtune.toNat % 2 ^ R.CLK_SYSPLL_STAT_VTUNE.width = vtune.toNat := Nat.mod_eq_of_lt vtune.isLt

/-- SYSPLL locked, its band and its tuning shown. -/
def State.pllLocked (s : State) (band : BitVec 6) (vtune : Byte) : State :=
  ((s.setFlag R.CLK_STAT_SYSPLL_LOCK 0 true).set R.CLK_SYSPLL_STAT_BAND 0 band.toNat).set R.CLK_SYSPLL_STAT_VTUNE 0 vtune.toNat

theorem pllLocked_leaves : (s.pllLocked band vtune).flag R.CLK_STAT_SYSPLL_LOCK = true ∧ (s.pllLocked band vtune).get R.CLK_SYSPLL_STAT_BAND = band.toNat
    ∧ (s.pllLocked band vtune).get R.CLK_SYSPLL_STAT_VTUNE = vtune.toNat ∧ (s.pllLocked band vtune).pwr = s.pwr ∧ (s.pllLocked band vtune).time = s.time
    ∧ ∀ g j, R.CLK_STAT_SYSPLL_LOCK.parted 0 g j = true → R.CLK_SYSPLL_STAT_BAND.parted 0 g j = true → R.CLK_SYSPLL_STAT_VTUNE.parted 0 g j = true →
      (s.pllLocked band vtune).get g j = s.get g j := by
  unfold State.pllLocked
  refine ⟨?_, ?_, ?_, ?_, ?_, fun g j lock b v => ?_⟩
  · rw [flag_set_parted _ _ rfl, flag_set_parted _ _ rfl, flag_setFlag_own _ _ rfl rfl]
  · rw [get_set_parted _ _ rfl, get_set_own _ _ rfl, band_fits]
  · rw [get_set_own _ _ rfl, vtune_fits]
  · rw [State.set_pwr, State.set_pwr, setFlag_pwr]
  · rw [State.set_time, State.set_time, State.setFlag_time]
  · rw [get_set_parted _ _ v, get_set_parted _ _ b, get_setFlag_parted _ _ lock]

variable {s}

theorem syspllLock_none (h : s.flag R.CLK_STAT_XTAL_RDY = false ∨ s.flag R.CLK_STAT_SYSPLL_LOCK = true ∨ s.flag R.CLK_STAT_SYSPLL_COAST = true) :
    s.syspllLock band vtune = s := by
  unfold State.syspllLock
  refine if_neg ?_
  rcases h with h | h | h <;> simp [h]

/-- SYSPLL locks, and a root at rest on XTAL moves to it (R397, R402). -/
theorem syspllLock_leaves (rdy : s.flag R.CLK_STAT_XTAL_RDY = true) (lock : s.flag R.CLK_STAT_SYSPLL_LOCK = false) (coast : s.flag R.CLK_STAT_SYSPLL_COAST = false) :
    (s.syspllLock band vtune).flag R.CLK_STAT_SYSPLL_LOCK = true
      ∧ ((s.syspllLock band vtune).get R.CLK_SYSPLL_STAT_BAND = band.toNat ∧ (s.syspllLock band vtune).get R.CLK_SYSPLL_STAT_VTUNE = vtune.toNat)
      ∧ (s.get R.CLK_STAT_ROOT_SRC = 0 → s.pwr.rootSw = none → (s.syspllLock band vtune).get R.CLK_ROOT_SEL = 1 ∧ (s.syspllLock band vtune).pwr.rootSw = some 1)
      ∧ (s.syspllLock band vtune).get R.CLK_STAT_ROOT_SRC = s.get R.CLK_STAT_ROOT_SRC ∧ (s.syspllLock band vtune).time = s.time := by
  obtain ⟨locked, b, v, pwr, time, same⟩ := pllLocked_leaves s band vtune
  have src := same R.CLK_STAT_ROOT_SRC 0 rfl rfl rfl
  have eq : s.syspllLock band vtune = if ((s.pllLocked band vtune).get R.CLK_STAT_ROOT_SRC = 0 && (s.pllLocked band vtune).pwr.rootSw.isNone) = true
      then (s.pllLocked band vtune).rootSwitch 1 else s.pllLocked band vtune := if_pos (by rw [rdy, lock, coast]; rfl)
  rw [eq, pwr, src]
  generalize s.pllLocked band vtune = u at locked b v pwr time src
  split
  · obtain ⟨tPwr, tTime, -, -, sel, tSame⟩ := rootSwitch_leaves u 1
    refine ⟨?_, ⟨(tSame _ _ rfl rfl).trans b, (tSame _ _ rfl rfl).trans v⟩, fun _ _ => ⟨sel, by rw [tPwr]⟩, (tSame _ _ rfl rfl).trans src, tTime.trans time⟩
    rw [State.flag, tSame _ _ rfl rfl]
    exact locked
  · next other =>
    refine ⟨locked, ⟨b, v⟩, fun h0 hsw => absurd ?_ other, src, time⟩
    rw [h0, hsw]
    rfl

/-- CLK_STAT of a SYSPLL that coasts. -/
def State.coastShown (s : State) : State := (s.setFlag R.CLK_STAT_SYSPLL_COAST 0 true).setFlag R.CLK_STAT_SYSPLL_LOCK 0 false

/-- SYSPLL coasts, before its event. -/
def State.coasting (s : State) (vtune : Byte) : State :=
  ((((s.coastShown.withPwr { s.pwr with rampFrom := s.time.lc.toNat }).bump
    R.CLK_SYSPLL_STAT_UNLOCKS).set R.CLK_SYSPLL_STAT_BAND 0 0).set R.CLK_SYSPLL_STAT_VTUNE 0 vtune.toNat)

theorem coast_none {unlock : Bool} (h : s.flag R.CLK_STAT_SYSPLL_COAST = true ∨ (s.flag R.CLK_STAT_XTAL_LOST = false
    ∧ (unlock = false ∨ s.flag R.CLK_STAT_XTAL_RDY = false ∨ s.flag R.CLK_STAT_SYSPLL_LOCK = false))) : s.coast unlock vtune = s := by
  unfold State.coast
  refine if_pos ?_
  rcases h with on | ⟨present, idle | gone | open_⟩
  · rw [on, Bool.true_or]
  · simp [present, idle]
  · simp [present, gone]
  · simp [present, open_]

theorem coast_eq {unlock : Bool} (coast : s.flag R.CLK_STAT_SYSPLL_COAST = false)
    (lost : s.flag R.CLK_STAT_XTAL_LOST = true ∨ (unlock = true ∧ s.flag R.CLK_STAT_XTAL_RDY = true ∧ s.flag R.CLK_STAT_SYSPLL_LOCK = true)) :
    s.coast unlock vtune = if s.flag R.CLK_STAT_XTAL_RDY = true then ((s.coasting vtune).clkEvt 2).levelOn fsSyspllUnlock else s.coasting vtune := by
  have pwr : s.coastShown.pwr = s.pwr := by rw [State.coastShown, setFlag_pwr, setFlag_pwr]
  have time : s.coastShown.time = s.time := by rw [State.coastShown, State.setFlag_time, State.setFlag_time]
  have begins : ¬ (s.flag R.CLK_STAT_SYSPLL_COAST || !(s.flag R.CLK_STAT_XTAL_LOST
      || (unlock && s.flag R.CLK_STAT_XTAL_RDY && s.flag R.CLK_STAT_SYSPLL_LOCK))) = true := by
    rcases lost with h | ⟨h1, h2, h3⟩
    · simp [coast, h]
    · simp [coast, h1, h2, h3]
  unfold State.coasting
  rw [← pwr, ← time]
  exact if_neg begins

theorem coasting_leaves (s : State) (vtune : Byte) : Clocked s (s.coasting vtune) ∧ (s.coasting vtune).pwr = { s.pwr with rampFrom := s.time.lc.toNat }
    ∧ (s.coasting vtune).flag R.CLK_STAT_SYSPLL_COAST = true ∧ (s.coasting vtune).flag R.CLK_STAT_SYSPLL_LOCK = false
    ∧ s.counts (s.coasting vtune) R.CLK_SYSPLL_STAT_UNLOCKS ∧ (s.coasting vtune).get R.CLK_SYSPLL_STAT_BAND = 0
    ∧ (s.coasting vtune).get R.CLK_SYSPLL_STAT_VTUNE = vtune.toNat ∧ (s.coasting vtune).firm 0 ∧ (s.coasting vtune).firm 0x14 := by
  have stat : s.coastShown.firm 0 := firm_set_same _ R.CLK_STAT_SYSPLL_LOCK 0 _ rfl rfl
  have coast : s.coastShown.flag R.CLK_STAT_SYSPLL_COAST = true := by
    rw [State.coastShown, flag_setFlag_parted _ _ rfl, flag_setFlag_own _ _ rfl rfl]
  have lock : s.coastShown.flag R.CLK_STAT_SYSPLL_LOCK = false := flag_setFlag_own _ _ rfl rfl
  have unlocks : s.coastShown.get R.CLK_SYSPLL_STAT_UNLOCKS = s.get R.CLK_SYSPLL_STAT_UNLOCKS := by
    rw [State.coastShown, get_setFlag_parted _ _ rfl, get_setFlag_parted _ _ rfl]
  have first : Clocked s s.coastShown :=
    (clocked_set _ _ _ _ (by decide)).trans (clocked_set _ _ _ _ (by decide))
  unfold State.coasting
  generalize s.coastShown = u at stat coast lock unlocks first ⊢
  have firmW : (u.withPwr { s.pwr with rampFrom := s.time.lc.toNat }).firm 0 := firm_of_regs rfl rfl stat
  refine ⟨?_, ?_, ?_, ?_, ?_, ?_, ?_, ?_, firm_set_same _ R.CLK_SYSPLL_STAT_VTUNE 0 _ rfl rfl⟩
  · exact (((first.trans (clocked_withPwr _ _)).trans (clocked_set _ R.CLK_SYSPLL_STAT_UNLOCKS 0 _ (by decide))).trans
      (clocked_set _ _ _ _ (by decide))).trans (clocked_set _ _ _ _ (by decide))
  · rw [State.set_pwr, State.set_pwr, State.bump, State.set_pwr]
    rfl
  · rw [flag_set_parted _ _ rfl, flag_set_parted _ _ rfl, State.bump, flag_set_parted _ _ rfl, flag_withPwr, coast]
  · rw [flag_set_parted _ _ rfl, flag_set_parted _ _ rfl, State.bump, flag_set_parted _ _ rfl, flag_withPwr, lock]
  · unfold State.counts
    rw [get_set_parted _ _ rfl, get_set_parted _ _ rfl, State.bump, get_set_own _ _ rfl, get_withPwr, unlocks]
    exact Nat.mod_eq_of_lt (lt_of_le_of_lt (Nat.min_le_right _ _) (by decide))
  · rw [get_set_parted _ _ rfl, get_set_own _ _ rfl]
    rfl
  · rw [get_set_own _ _ rfl, vtune_fits]
  · exact (firm_set R.CLK_SYSPLL_STAT_VTUNE 0 _ (by decide) (firm_set R.CLK_SYSPLL_STAT_BAND 0 _ (by decide)
      (firm_set R.CLK_SYSPLL_STAT_UNLOCKS 0 _ (by decide) firmW).1).1).1

/-- SYSPLL coasts, with XTAL present or lost (R398). -/
theorem coast_leaves {unlock : Bool} (coast : s.flag R.CLK_STAT_SYSPLL_COAST = false)
    (lost : s.flag R.CLK_STAT_XTAL_LOST = true ∨ (unlock = true ∧ s.flag R.CLK_STAT_XTAL_RDY = true ∧ s.flag R.CLK_STAT_SYSPLL_LOCK = true))
    (mild : s.flag R.CLK_STAT_XTAL_RDY = false ∨ s.mild fsSyspllUnlock) :
    (s.coast unlock vtune).flag R.CLK_STAT_SYSPLL_COAST = true ∧ (s.coast unlock vtune).flag R.CLK_STAT_SYSPLL_LOCK = false
      ∧ s.counts (s.coast unlock vtune) R.CLK_SYSPLL_STAT_UNLOCKS ∧ (s.coast unlock vtune).get R.CLK_SYSPLL_STAT_BAND = 0
      ∧ (s.coast unlock vtune).get R.CLK_SYSPLL_STAT_VTUNE = vtune.toNat
      ∧ (s.flag R.CLK_STAT_XTAL_RDY = true → ((s.coast unlock vtune).get R.CLK_EVT).testBit 2 = true ∧ (s.coast unlock vtune).active fsSyspllUnlock = true)
      ∧ (s.coast unlock vtune).pwr = { s.pwr with rampFrom := s.time.lc.toNat } ∧ (s.coast unlock vtune).time = s.time := by
  rw [coast_eq vtune coast lost]
  obtain ⟨clocked, pwr, coasts, unlocked, counts, band, tune, stat, pll⟩ := coasting_leaves s vtune
  cases rdy : s.flag R.CLK_STAT_XTAL_RDY with
  | false => exact ⟨coasts, unlocked, counts, band, tune, fun h => Bool.noConfusion h, pwr, clocked.time⟩
  | true =>
    rw [if_pos rfl]
    rw [rdy] at mild
    have mild := mild.resolve_left Bool.noConfusion
    generalize s.coasting vtune = u at clocked pwr coasts unlocked counts band tune stat pll ⊢
    have bit : ((u.clkEvt 2).get R.CLK_EVT).testBit 2 = true := clkEvt_bit _ (by decide)
    rw [clkEvt_eq] at bit ⊢
    have noted : Clocked u (u.set R.CLK_EVT 0 (u.get R.CLK_EVT ||| 2 ^ 2)) := clocked_set _ _ _ _ (by decide)
    have evt : (u.set R.CLK_EVT 0 (u.get R.CLK_EVT ||| 2 ^ 2)).firm 4 := firm_set_same u R.CLK_EVT 0 _ rfl rfl
    have stat' := firm_set R.CLK_EVT 0 (u.get R.CLK_EVT ||| 2 ^ 2) (by decide) stat
    have pll' := firm_set R.CLK_EVT 0 (u.get R.CLK_EVT ||| 2 ^ 2) (by decide) pll
    have vPwr : (u.set R.CLK_EVT 0 (u.get R.CLK_EVT ||| 2 ^ 2)).pwr = u.pwr := State.set_pwr ..
    have level := levelOn_leaves ((clocked.trans noted).mild (by decide) mild) (by decide) (by decide) noInst []
    generalize u.set R.CLK_EVT 0 (u.get R.CLK_EVT ||| 2 ^ 2) = v at bit noted evt stat' pll' vPwr level ⊢
    generalize v.levelOn fsSyspllUnlock = w at level ⊢
    have statKept : w.word 0 = u.word 0 := (level.word 0 (by decide) rfl stat'.1).trans stat'.2
    have pllKept : w.word 0x14 = u.word 0x14 := (level.word 0x14 (by decide) rfl pll'.1).trans pll'.2
    refine ⟨?_, ?_, ?_, (get_of_word rfl pllKept).trans band, (get_of_word rfl pllKept).trans tune, fun _ => ⟨?_, level.active⟩, by rw [level.pwr, vPwr, pwr],
      level.time.trans (noted.time.trans clocked.time)⟩
    · rw [State.flag, get_of_word (f := R.CLK_STAT_SYSPLL_COAST) rfl statKept]; exact coasts
    · rw [State.flag, get_of_word (f := R.CLK_STAT_SYSPLL_LOCK) rfl statKept]; exact unlocked
    · exact (get_of_word (f := R.CLK_SYSPLL_STAT_UNLOCKS) rfl pllKept).trans counts
    · rw [get_of_word (f := R.CLK_EVT) rfl (level.word 4 (by decide) rfl evt)]; exact bit

/-- The ramp of SYSPLL ends, before its sources do. -/
def State.ramped (s : State) (band : BitVec 6) (vtune : Byte) : State :=
  (((s.setFlag R.CLK_STAT_SYSPLL_COAST 0 false).setFlag R.CLK_STAT_XTAL_LOST 0 false).pllLocked band vtune).clkEvt 1

theorem rampDone_none (h : s.flag R.CLK_STAT_SYSPLL_COAST = false ∨ s.flag R.CLK_STAT_XTAL_RDY = false ∨ s.past s.pwr.rampFrom 1 1000 = false) :
    s.rampDone band vtune = s := by
  unfold State.rampDone
  refine if_neg ?_
  rcases h with h | h | h <;> simp [h]

/-- SYSPLL has ramped back, and both its sources end (R399). -/
theorem rampDone_leaves (coast : s.flag R.CLK_STAT_SYSPLL_COAST = true) (rdy : s.flag R.CLK_STAT_XTAL_RDY = true) (past : s.past s.pwr.rampFrom 1 1000 = true) :
    (s.rampDone band vtune).flag R.CLK_STAT_SYSPLL_COAST = false ∧ (s.rampDone band vtune).flag R.CLK_STAT_XTAL_LOST = false
      ∧ (s.rampDone band vtune).flag R.CLK_STAT_SYSPLL_LOCK = true
      ∧ ((s.rampDone band vtune).get R.CLK_SYSPLL_STAT_BAND = band.toNat ∧ (s.rampDone band vtune).get R.CLK_SYSPLL_STAT_VTUNE = vtune.toNat)
      ∧ ((s.rampDone band vtune).get R.CLK_EVT).testBit 1 = true ∧ (s.rampDone band vtune).active fsXtalLost = false
      ∧ (s.rampDone band vtune).active fsSyspllUnlock = false ∧ (s.rampDone band vtune).pwr = s.pwr := by
  have eq : s.rampDone band vtune = ((s.ramped band vtune).levelOff fsXtalLost).levelOff fsSyspllUnlock := if_pos (by rw [coast, rdy, past]; rfl)
  have coasts : ((s.setFlag R.CLK_STAT_SYSPLL_COAST 0 false).setFlag R.CLK_STAT_XTAL_LOST 0 false).flag R.CLK_STAT_SYSPLL_COAST = false := by
    rw [flag_setFlag_parted _ _ rfl, flag_setFlag_own _ _ rfl rfl]
  have lost : ((s.setFlag R.CLK_STAT_SYSPLL_COAST 0 false).setFlag R.CLK_STAT_XTAL_LOST 0 false).flag R.CLK_STAT_XTAL_LOST = false := flag_setFlag_own _ _ rfl rfl
  have first : ((s.setFlag R.CLK_STAT_SYSPLL_COAST 0 false).setFlag R.CLK_STAT_XTAL_LOST 0 false).pwr = s.pwr := by rw [setFlag_pwr, setFlag_pwr]
  rw [eq]
  unfold State.ramped
  generalize (s.setFlag R.CLK_STAT_SYSPLL_COAST 0 false).setFlag R.CLK_STAT_XTAL_LOST 0 false = u at coasts lost first ⊢
  obtain ⟨locked, b, v, pwr, -, same⟩ := pllLocked_leaves u band vtune
  generalize u.pllLocked band vtune = w at locked b v pwr same ⊢
  have bit := clkEvt_bit w (b := 1) (by decide)
  have evt : Within (· == 4) w (w.clkEvt 1) := clkEvt_eq w 1 ▸ within_set _ _ _ _ (by decide)
  generalize w.clkEvt 1 = x at bit evt ⊢
  obtain ⟨off, set⟩ := levelOff_leaves x (k := fsXtalLost) (by decide)
  generalize x.levelOff fsXtalLost = y at off set ⊢
  obtain ⟨off', set'⟩ := levelOff_leaves y (k := fsSyspllUnlock) (by decide)
  have still : (y.levelOff fsSyspllUnlock).active fsXtalLost = false := by
    have := testBit_clearBit (s := y) (f := R.FLT_ACTIVE) (i := 0) (by unfold Fld.plain; decide) 1 0
    have none_ : (y.get R.FLT_ACTIVE).testBit 0 = false := off
    exact this.trans (by rw [none_]; rfl)
  generalize y.levelOff fsSyspllUnlock = z at off' set' still ⊢
  have all : Within (fun a => a == 4 || a == 0x200120) w z := (evt.mono fun a ha => (Bool.or_eq_false_iff.mp ha).1).trans
    ((set.trans set').mono fun a ha => (Bool.or_eq_false_iff.mp ha).2)
  refine ⟨?_, ?_, ?_, ⟨?_, ?_⟩, ?_, still, off', all.pwr.trans (pwr.trans first)⟩
  · rw [State.flag, all.get _ _ (by decide), same _ _ rfl rfl rfl]; exact coasts
  · rw [State.flag, all.get _ _ (by decide), same _ _ rfl rfl rfl]; exact lost
  · rw [State.flag, all.get _ _ (by decide)]; exact locked
  · rw [all.get _ _ (by decide), b]
  · rw [all.get _ _ (by decide), v]
  · rw [set'.get _ _ (by decide), set.get _ _ (by decide)]; exact bit

end syspll

/-! ### The selectors (R400, R401) -/

section selectors

variable {s : State}

/-- Whether the source that a selector is asked for is ready. -/
def State.rootReady (s : State) (want : Nat) : Bool :=
  if want = 0 then s.flag R.CLK_STAT_XTAL_RDY else s.flag R.CLK_STAT_SYSPLL_LOCK || s.flag R.CLK_STAT_SYSPLL_COAST

theorem rootSel_refused {v : Word} (h : s.pwr.rootSw ≠ none ∨ s.rootReady (v.toNat % 2) = false) : s.rootSel v = s.clkEvt 3 := by
  unfold State.rootSel
  refine if_pos ?_
  show (s.pwr.rootSw.isSome || !s.rootReady (v.toNat % 2)) = true
  rcases h with busy | stopped
  · rw [Option.isSome_iff_ne_none.mpr busy]; rfl
  · rw [stopped, Bool.not_false, Bool.or_true]

theorem rootSel_taken {v : Word} (free : s.pwr.rootSw = none) (ready : s.rootReady (v.toNat % 2) = true) :
    s.rootSel v = if v.toNat % 2 = s.get R.CLK_STAT_ROOT_SRC then s else s.rootSwitch (v.toNat % 2) := by
  unfold State.rootSel
  refine if_neg ?_
  show ¬ (s.pwr.rootSw.isSome || !s.rootReady (v.toNat % 2)) = true
  rw [free, ready]
  decide

theorem busWrite32_rootSel {m : Master} (v : Word) (h : s.writes m (R.CLK_ROOT_SEL.at 0)) :
    s.busWrite32 m (R.CLK_ROOT_SEL.at 0) v = (s.quiet.rootSel v).irqFollow s.quiet := by
  have hr := rights_of_writes h
  obtain ⟨ha, -, hm⟩ := h
  have taken : s.quiet.preHost m (R.CLK_ROOT_SEL.at 0) v = some (s.quiet.rootSel v) := rfl
  rw [busWrite32_open ha rfl v hr (engMem_below (by decide)) hm, enabledWrite_single rfl rfl rfl, wordWrite_preHost taken]

theorem rootReady_quiet (s : State) (want : Nat) : s.quiet.rootReady want = s.rootReady want := by
  unfold State.rootReady State.flag
  rw [get_quiet, get_quiet, get_quiet]

/-- A request that is refused, one for the source in use, and one that begins a switch (R400, R401). -/
theorem rootSelWrite_ends {m : Master} (v : Word) (h : s.writes m (R.CLK_ROOT_SEL.at 0)) :
    (s.pwr.rootSw ≠ none ∨ s.rootReady (v.toNat % 2) = false → ((s.busWrite32 m (R.CLK_ROOT_SEL.at 0) v).get R.CLK_EVT).testBit 3 = true
        ∧ (s.busWrite32 m (R.CLK_ROOT_SEL.at 0) v).pwr = s.pwr ∧ (s.busWrite32 m (R.CLK_ROOT_SEL.at 0) v).get R.CLK_ROOT_SEL = s.get R.CLK_ROOT_SEL)
      ∧ (s.pwr.rootSw = none → s.rootReady (v.toNat % 2) = true → v.toNat % 2 = s.get R.CLK_STAT_ROOT_SRC →
        (s.busWrite32 m (R.CLK_ROOT_SEL.at 0) v).pwr = s.pwr ∧ (s.busWrite32 m (R.CLK_ROOT_SEL.at 0) v).regs = s.regs)
      ∧ (s.pwr.rootSw = none → s.rootReady (v.toNat % 2) = true → v.toNat % 2 ≠ s.get R.CLK_STAT_ROOT_SRC →
        (s.busWrite32 m (R.CLK_ROOT_SEL.at 0) v).pwr = { s.pwr with rootSw := some (v.toNat % 2) }
          ∧ (s.busWrite32 m (R.CLK_ROOT_SEL.at 0) v).get R.CLK_ROOT_SEL = v.toNat % 2 ∧ (s.busWrite32 m (R.CLK_ROOT_SEL.at 0) v).flag R.CLK_STAT_SW_BUSY = true
          ∧ (s.busWrite32 m (R.CLK_ROOT_SEL.at 0) v).get R.CLK_STAT_ROOT_SRC = s.get R.CLK_STAT_ROOT_SRC
          ∧ (s.busWrite32 m (R.CLK_ROOT_SEL.at 0) v).mem = s.mem ∧ (s.busWrite32 m (R.CLK_ROOT_SEL.at 0) v).time = s.time) := by
  have qPwr : s.quiet.pwr = s.pwr := rfl
  rw [busWrite32_rootSel v h]
  refine ⟨fun refused => ?_, fun free ready same => ?_, fun free ready other => ?_⟩
  · rw [rootSel_refused (by rw [rootReady_quiet]; exact refused)]
    have evt : Within (· == 4) s.quiet (s.quiet.clkEvt 3) := clkEvt_eq s.quiet 3 ▸ within_set _ _ _ _ (by decide)
    have bit := clkEvt_bit s.quiet (b := 3) (by decide)
    generalize s.quiet.clkEvt 3 = u at evt bit ⊢
    have follow := within_irqFollow u s.quiet
    exact ⟨by rw [follow.get _ _ (by decide), bit], follow.pwr.trans evt.pwr, by rw [follow.get _ _ (by decide), evt.get _ _ (by decide), get_quiet]⟩
  · rw [rootSel_taken (s := s.quiet) free (by rw [rootReady_quiet, ready]), get_quiet, if_pos same, irqFollow_self]
    exact ⟨rfl, rfl⟩
  · rw [rootSel_taken (s := s.quiet) free (by rw [rootReady_quiet, ready]), get_quiet, if_neg other]
    obtain ⟨pwr, time, mem, busy, sel, same⟩ := rootSwitch_leaves s.quiet (v.toNat % 2)
    generalize s.quiet.rootSwitch (v.toNat % 2) = u at pwr time mem busy sel same ⊢
    have follow := within_irqFollow u s.quiet
    refine ⟨follow.pwr.trans pwr, ?_, ?_, ?_, follow.mem.trans mem, follow.time.trans time⟩
    · rw [follow.get _ _ (by decide), sel, Nat.mod_mod]
    · rw [follow.flag _ _ (by decide), busy]
    · rw [follow.get _ _ (by decide), same _ _ rfl rfl, get_quiet]

/-- A selector that has switched: its source, its event, and SW_BUSY after it. -/
def State.selected (s : State) (f : Fld) (src : Nat) (x : PwrSt) (stopped : Bool) : State :=
  (if stopped then ((s.set f 0 src).withPwr x).clkEvt 4 else (s.set f 0 src).withPwr x).syncSw

theorem selected_leaves {f : Fld} (src : Nat) (x : PwrSt) (stopped : Bool) (own : f.own 0 = true) (evt : R.CLK_EVT.parted 0 f 0 = true)
    (busy : R.CLK_STAT_SW_BUSY.parted 0 f 0 = true) : (s.selected f src x stopped).get f = src % 2 ^ f.width ∧ (s.selected f src x stopped).pwr = x
      ∧ (s.selected f src x stopped).flag R.CLK_STAT_SW_BUSY = (x.rootSw.isSome || x.aonSw.isSome)
      ∧ (stopped = true → ((s.selected f src x stopped).get R.CLK_EVT).testBit 4 = true) ∧ (s.selected f src x stopped).mem = s.mem
      ∧ (s.selected f src x stopped).time = s.time := by
  have set : ((s.set f 0 src).withPwr x).get f = src % 2 ^ f.width := (get_withPwr ..).trans (get_set_own s src own)
  have mem : ((s.set f 0 src).withPwr x).mem = s.mem := State.set_mem ..
  have time : ((s.set f 0 src).withPwr x).time = s.time := State.set_time ..
  have pwr : ((s.set f 0 src).withPwr x).pwr = x := rfl
  unfold State.selected State.syncSw
  generalize (s.set f 0 src).withPwr x = u at set mem time pwr ⊢
  have noted : (if stopped = true then u.clkEvt 4 else u).get f = src % 2 ^ f.width ∧ (if stopped = true then u.clkEvt 4 else u).mem = s.mem
      ∧ (if stopped = true then u.clkEvt 4 else u).time = s.time ∧ (if stopped = true then u.clkEvt 4 else u).pwr = x := by
    split
    · rw [clkEvt_eq]
      exact ⟨(get_set_parted _ _ evt).trans set, (State.set_mem ..).trans mem, (State.set_time ..).trans time, (State.set_pwr ..).trans pwr⟩
    · exact ⟨set, mem, time, pwr⟩
  have bit : stopped = true → ((if stopped = true then u.clkEvt 4 else u).get R.CLK_EVT).testBit 4 = true := fun h => by
    rw [if_pos h]
    exact clkEvt_bit u (by decide)
  generalize (if stopped = true then u.clkEvt 4 else u) = v at noted bit ⊢
  obtain ⟨vSet, vMem, vTime, vPwr⟩ := noted
  rw [vPwr]
  exact ⟨(get_setFlag_parted _ _ busy).trans vSet, (setFlag_pwr ..).trans vPwr, flag_setFlag_own _ _ rfl rfl,
    fun h => by rw [get_setFlag_parted _ _ rfl]; exact bit h, (setFlag_mem ..).trans vMem, (State.setFlag_time ..).trans vTime⟩

theorem switched_some {aon : Bool} {src : Nat} (h : (if aon then s.pwr.aonSw else s.pwr.rootSw) = some src) :
    s.switched aon = s.selected (if aon then R.CLK_STAT_AON_SRC else R.CLK_STAT_ROOT_SRC) src
      (if aon then { (s.set (if aon then R.CLK_STAT_AON_SRC else R.CLK_STAT_ROOT_SRC) 0 src).pwr with aonSw := none }
        else { (s.set (if aon then R.CLK_STAT_AON_SRC else R.CLK_STAT_ROOT_SRC) 0 src).pwr with rootSw := none }) (s.oldStopped aon) := by
  unfold State.switched
  rw [h]
  rfl

theorem switched_root {src : Nat} (h : s.pwr.rootSw = some src) :
    s.switched false = s.selected R.CLK_STAT_ROOT_SRC src { s.pwr with rootSw := none } (s.oldStopped false) := by
  rw [switched_some (aon := false) h, State.set_pwr]
  rfl

theorem switched_aon {src : Nat} (h : s.pwr.aonSw = some src) :
    s.switched true = s.selected R.CLK_STAT_AON_SRC src { s.pwr with aonSw := none } (s.oldStopped true) := by
  rw [switched_some (aon := true) h, State.set_pwr]
  rfl

end selectors

end Sys2Proof.Machine

/-! ## KPLL (R31, R404 to R406) -/

namespace Sys2Proof.Machine

/-! ### The best source -/

/-- Going through a list in order and taking each lower value ends at the first of the lowest. -/
theorem foldl_lowest (q : Nat → Nat) (b : Nat) (l : List Nat) (h : (b :: l).Pairwise (· < ·)) :
    l.foldl (fun b x => if q x < q b then x else b) b ∈ b :: l ∧ ∀ x ∈ b :: l, q (l.foldl (fun b x => if q x < q b then x else b) b) ≤ q x
      ∧ (q x = q (l.foldl (fun b x => if q x < q b then x else b) b) → l.foldl (fun b x => if q x < q b then x else b) b ≤ x) := by
  induction l generalizing b with
  | nil =>
    refine ⟨List.mem_singleton.mpr rfl, fun x hx => ?_⟩
    rw [List.mem_singleton.mp hx]
    exact ⟨Nat.le_refl _, fun _ => Nat.le_refl _⟩
  | cons y l ih =>
    obtain ⟨first, rest⟩ := List.pairwise_cons.mp h
    obtain ⟨second, tail⟩ := List.pairwise_cons.mp rest
    have after : b < y := first y (List.mem_cons_self ..)
    rw [List.foldl_cons]
    by_cases lower : q y < q b
    · rw [if_pos lower]
      obtain ⟨mem, least⟩ := ih y rest
      generalize l.foldl (fun b x => if q x < q b then x else b) y = r at mem least ⊢
      obtain ⟨below, -⟩ := least y (List.mem_cons_self ..)
      refine ⟨List.mem_cons_of_mem _ mem, fun x hx => ?_⟩
      rcases List.mem_cons.mp hx with rfl | hx
      · exact ⟨by omega, fun e => by omega⟩
      · exact least x hx
    · rw [if_neg lower]
      obtain ⟨mem, least⟩ := ih b (List.pairwise_cons.mpr ⟨fun x hx => first x (List.mem_cons_of_mem _ hx), tail⟩)
      generalize l.foldl (fun b x => if q x < q b then x else b) b = r at mem least ⊢
      obtain ⟨below, earlier⟩ := least b (List.mem_cons_self ..)
      refine ⟨?_, fun x hx => ?_⟩
      · rcases List.mem_cons.mp mem with rfl | hr
        · exact List.mem_cons_self ..
        · exact List.mem_cons_of_mem _ (List.mem_cons_of_mem _ hr)
      · rcases List.mem_cons.mp hx with rfl | hx
        · exact least _ (List.mem_cons_self ..)
        · rcases List.mem_cons.mp hx with rfl | hx
          · exact ⟨by omega, fun e => by have := earlier (by omega); omega⟩
          · exact least x (List.mem_cons_of_mem _ hx)

section best

variable {s : State} {k : Nat}

/-- The ready oscillators. -/
def State.readyOscs (s : State) : List Nat := (List.range 4).filter s.kpllReady

theorem mem_readyOscs {j : Nat} : j ∈ s.readyOscs ↔ j < 4 ∧ s.kpllReady j = true := by
  unfold State.readyOscs
  rw [List.mem_filter, List.mem_range]

theorem kpllBest_none_osc (h : s.readyOscs = []) : s.kpllBest = if s.kpllReady 4 = true then some 4 else none := by
  unfold State.kpllBest
  rw [show (List.range 4).filter s.kpllReady = [] from h]

theorem kpllBest_osc {b : Nat} {l : List Nat} (h : s.readyOscs = b :: l) :
    s.kpllBest = some (l.foldl (fun b x => if s.kpllPref x < s.kpllPref b then x else b) b) := by
  unfold State.kpllBest
  rw [show (List.range 4).filter s.kpllReady = b :: l from h]

theorem no_osc (h : s.readyOscs = []) : ∀ j, j < 4 → s.kpllReady j = false := by
  intro j hj
  refine Bool.eq_false_iff.mpr fun ready => ?_
  have := mem_readyOscs.mpr ⟨hj, ready⟩
  rw [h] at this
  cases this

/-- The source KPLL takes is ready: of the ready oscillators the lowest by PREF and number, XTAL where none is ready (R404). -/
theorem kpllBest_some (h : s.kpllBest = some k) : s.kpllReady k = true
    ∧ (k < 4 → ∀ j, j < 4 → s.kpllReady j = true → s.kpllPref k ≤ s.kpllPref j ∧ (s.kpllPref j = s.kpllPref k → k ≤ j))
    ∧ (4 ≤ k → k = 4 ∧ ∀ j, j < 4 → s.kpllReady j = false) := by
  rcases hl : s.readyOscs with _ | ⟨b, l⟩
  · rw [kpllBest_none_osc hl] at h
    split at h
    · next xtal =>
      cases h
      exact ⟨xtal, fun lt => absurd lt (by decide), fun _ => ⟨rfl, no_osc hl⟩⟩
    · cases h
  · have increasing : (b :: l).Pairwise (· < ·) := hl ▸ List.Pairwise.filter _ List.pairwise_lt_range
    obtain ⟨mem, least⟩ := foldl_lowest s.kpllPref b l increasing
    rw [kpllBest_osc hl] at h
    rw [Option.some.inj h, ← hl] at mem least
    obtain ⟨below, ready⟩ := mem_readyOscs.mp mem
    exact ⟨ready, fun _ j hj r => least j (mem_readyOscs.mpr ⟨hj, r⟩), fun ge => absurd below (Nat.not_lt.mpr ge)⟩

theorem kpllBest_none (h : s.kpllBest = none) : ∀ j, j < 5 → s.kpllReady j = false := by
  rcases hl : s.readyOscs with _ | ⟨b, l⟩
  · rw [kpllBest_none_osc hl] at h
    intro j hj
    rcases Nat.lt_or_eq_of_le (Nat.le_of_lt_succ hj) with lt | rfl
    · exact no_osc hl j lt
    · refine Bool.eq_false_iff.mpr fun ready => ?_
      rw [if_pos ready] at h
      cases h
  · rw [kpllBest_osc hl] at h
    cases h

theorem kpllBest_lt (h : s.kpllBest = some k) : k < 8 := by
  obtain ⟨-, -, xtal⟩ := kpllBest_some h
  by_cases hk : 4 ≤ k
  · rw [(xtal hk).1]
    decide
  · omega

end best

/-! ### A source taken -/

section take

variable (s : State) (k : Nat)

theorem kpllTake_eq : s.kpllTake k = ((((s.set R.CLK_STAT_KPLL_SRC 0 k).setFlag R.OSC_STATE_TICK_SRC 0 (0 == k)).setFlag R.OSC_STATE_TICK_SRC 1 (1 == k)).setFlag
    R.OSC_STATE_TICK_SRC 2 (2 == k)).setFlag R.OSC_STATE_TICK_SRC 3 (3 == k) := rfl

theorem kpllTake_same (g : Fld) (j : Nat) (src : R.CLK_STAT_KPLL_SRC.parted 0 g j = true) (tick : ∀ i < 4, R.OSC_STATE_TICK_SRC.parted i g j = true) :
    (s.kpllTake k).get g j = s.get g j := by
  rw [kpllTake_eq, get_setFlag_parted _ _ (tick 3 (by decide)), get_setFlag_parted _ _ (tick 2 (by decide)), get_setFlag_parted _ _ (tick 1 (by decide)),
    get_setFlag_parted _ _ (tick 0 (by decide)), get_set_parted _ _ src]

theorem kpllTake_src (hk : k < 8) : (s.kpllTake k).get R.CLK_STAT_KPLL_SRC = k := by
  rw [kpllTake_eq, get_setFlag_parted _ _ rfl, get_setFlag_parted _ _ rfl, get_setFlag_parted _ _ rfl, get_setFlag_parted _ _ rfl, get_set_own _ _ rfl]
  exact Nat.mod_eq_of_lt hk

theorem kpllTake_tick : ∀ i, i < 4 → (s.kpllTake k).flag R.OSC_STATE_TICK_SRC i = (i == k) := by
  intro i hi
  rw [kpllTake_eq]
  interval_cases i
  · rw [flag_setFlag_parted _ _ rfl, flag_setFlag_parted _ _ rfl, flag_setFlag_parted _ _ rfl, flag_setFlag_own _ _ rfl rfl]
  · rw [flag_setFlag_parted _ _ rfl, flag_setFlag_parted _ _ rfl, flag_setFlag_own _ _ rfl rfl]
  · rw [flag_setFlag_parted _ _ rfl, flag_setFlag_own _ _ rfl rfl]
  · rw [flag_setFlag_own _ _ rfl rfl]

theorem kpllTake_pwr : (s.kpllTake k).pwr = s.pwr := by
  rw [kpllTake_eq, setFlag_pwr, setFlag_pwr, setFlag_pwr, setFlag_pwr, State.set_pwr]

theorem kpllTake_clocked : Clocked s (s.kpllTake k) := by
  rw [kpllTake_eq]
  have src : Clocked s (s.set R.CLK_STAT_KPLL_SRC 0 k) := clocked_set _ _ _ _ (by decide)
  exact (((src.trans (clocked_set _ R.OSC_STATE_TICK_SRC 0 _ (by decide))).trans (clocked_set _ R.OSC_STATE_TICK_SRC 1 _ (by decide))).trans
    (clocked_set _ R.OSC_STATE_TICK_SRC 2 _ (by decide))).trans (clocked_set _ R.OSC_STATE_TICK_SRC 3 _ (by decide))

/-- The words that take the source are firm. -/
theorem kpllTake_firm : (s.kpllTake k).firm 0 ∧ ∀ i < 4, (s.kpllTake k).firm (R.OSC_STATE_TICK_SRC.at i) := by
  rw [kpllTake_eq]
  have src : (s.set R.CLK_STAT_KPLL_SRC 0 k).firm 0 := firm_set_same s R.CLK_STAT_KPLL_SRC 0 _ rfl rfl
  generalize s.set R.CLK_STAT_KPLL_SRC 0 k = u at src ⊢
  have tick : ∀ (v : State) (i : Nat) (b : Bool), i < 4 → (v.setFlag R.OSC_STATE_TICK_SRC i b).firm (R.OSC_STATE_TICK_SRC.at i) := fun v i b hi =>
    firm_set_same v R.OSC_STATE_TICK_SRC i _ rfl (by interval_cases i <;> decide)
  have other : ∀ (v : State) (i a : Nat) (b : Bool), R.OSC_STATE_TICK_SRC.at i ≠ a → v.firm a → (v.setFlag R.OSC_STATE_TICK_SRC i b).firm a := fun v i a b ne firm =>
    (firm_set R.OSC_STATE_TICK_SRC i _ (single_word rfl ne) firm).1
  refine ⟨other _ 3 _ _ (by decide) (other _ 2 _ _ (by decide) (other _ 1 _ _ (by decide) (other _ 0 _ _ (by decide) src))), fun i hi => ?_⟩
  interval_cases i
  · exact other _ 3 _ _ (by decide) (other _ 2 _ _ (by decide) (other _ 1 _ _ (by decide) (tick _ 0 _ (by decide))))
  · exact other _ 3 _ _ (by decide) (other _ 2 _ _ (by decide) (tick _ 1 _ (by decide)))
  · exact other _ 3 _ _ (by decide) (tick _ 2 _ (by decide))
  · exact tick _ 3 _ (by decide)

/-- A note to the K-engines touches two words of the Kennel alone. -/
theorem kinNote_leaves (typ : Nat) : (s.kinNote typ).time = s.time ∧ (s.kinNote typ).mem = s.mem ∧ (s.kinNote typ).pwr = s.pwr
    ∧ ∀ a, a ≠ 0x1001420 → a ≠ 0x1001424 → (s.kinNote typ).word a = s.word a := by
  have event : ∀ (u : State) (n : Fin 12) (b : Nat), (u.event n b).time = u.time ∧ (u.event n b).mem = u.mem ∧ (u.event n b).pwr = u.pwr
      ∧ ∀ a, (u.event n b).word a = u.word a := by
    intro u n b
    unfold State.event
    dsimp only
    split <;> exact ⟨rfl, rfl, rfl, fun _ => rfl⟩
  unfold State.kinNote State.kinPut
  dsimp only
  split
  · have full := within_set (p := fun a => a == 0x1001424) s.drawn R.KNL_KIN_STAT 0 (Nat.min (s.drawn.get R.KNL_KIN_STAT + 1) (2 ^ R.KNL_KIN_STAT.width - 1)) (by decide)
    exact ⟨full.time, full.mem, full.pwr, fun a _ h => full.word a (beq_eq_false_iff_ne.mpr h)⟩
  · obtain ⟨u, hu, same⟩ : ∃ u : State, u = { s.drawn with knl := { s.drawn.knl with kin := s.drawn.knl.kin
        ++ [InRec.mk typ s.time.lc (leBytes 16 (Config.freeBits 128 s.draw).toNat)] } } ∧ u.time = s.time ∧ u.mem = s.mem ∧ u.pwr = s.pwr
        ∧ ∀ a, u.word a = s.word a := ⟨_, rfl, rfl, rfl, rfl, fun _ => rfl⟩
    rw [← hu]
    obtain ⟨uTime, uMem, uPwr, uWord⟩ := same
    have offset : ∀ v, Within (fun a => a == 0x1001420) u (u.set R.KNL_KIN_WR_OFFSET 0 v) := fun v => within_set _ _ _ _ (by decide)
    generalize (s.drawn.get R.KNL_KIN_WR_OFFSET + (16 + ((leBytes 16 (Config.freeBits 128 s.draw).toNat).length + 15) / 16 * 16)) = v
    have off := offset v
    generalize u.set R.KNL_KIN_WR_OFFSET 0 v = w at off ⊢
    obtain ⟨t1, m1, p1, w1⟩ := event w 0 5
    obtain ⟨t2, m2, p2, w2⟩ := event (w.event 0 5) 1 5
    exact ⟨t2.trans (t1.trans (off.time.trans uTime)), m2.trans (m1.trans (off.mem.trans uMem)), p2.trans (p1.trans (off.pwr.trans uPwr)),
      fun a ha _ => ((w2 a).trans (w1 a)).trans ((off.word a (beq_eq_false_iff_ne.mpr ha)).trans (uWord a))⟩

end take

/-! ### Switches, holds and the first lock -/

/-- KPLL runs from a source: its number and the flags of the oscillators. -/
def State.runsFrom (t : State) (k : Nat) : Prop := t.get R.CLK_STAT_KPLL_SRC = k ∧ ∀ i, i < 4 → t.flag R.OSC_STATE_TICK_SRC i = (i == k)

section switch

variable {s : State} {k : Nat}

/-- What a switch leaves beside the source, its count and its event. -/
theorem kpllSwitch_same (g : Fld) (j : Nat) (src : R.CLK_STAT_KPLL_SRC.parted 0 g j = true) (tick : ∀ i < 4, R.OSC_STATE_TICK_SRC.parted i g j = true)
    (cnt : R.CLK_KPLL_CNT_SWITCHES.parted 0 g j = true) (evt : R.CLK_EVT.parted 0 g j = true) (kin : ∀ n < g.words, g.at j + 4 * n ≠ 0x1001420 ∧ g.at j + 4 * n ≠ 0x1001424) :
    (s.kpllSwitch k).get g j = s.get g j := by
  obtain ⟨-, -, -, word⟩ := kinNote_leaves (((s.kpllTake k).bump R.CLK_KPLL_CNT_SWITCHES).clkEvt 6) 7
  have eq : s.kpllSwitch k = (((s.kpllTake k).bump R.CLK_KPLL_CNT_SWITCHES).clkEvt 6).kinNote 7 := rfl
  have note : (s.kpllSwitch k).get g j = (((s.kpllTake k).bump R.CLK_KPLL_CNT_SWITCHES).clkEvt 6).get g j := by
    rw [eq]
    unfold State.get
    rw [wordsN_congr fun n hn => word _ (kin n hn).1 (kin n hn).2]
  rw [note, clkEvt_eq, get_set_parted _ _ evt, State.bump, get_set_parted _ _ cnt, kpllTake_same s k g j src tick]

/-- A counter of KPLL goes up, with an event of CLK. -/
def State.countEvt (s : State) (f : Fld) (b : Nat) : State := (s.bump f).clkEvt b

/-- What a count and its event leave. -/
structure Counted (s t : State) (f : Fld) (b : Nat) : Prop where
  clocked : Clocked s t
  pwr : t.pwr = s.pwr
  count : s.counts t f
  evt : (t.get R.CLK_EVT).testBit b = true
  firmCount : t.firm 0x18
  firmEvt : t.firm 4
  firm : ∀ a, a ≠ 4 → a ≠ 0x18 → s.firm a → t.firm a
  word : ∀ a, a ≠ 4 → a ≠ 0x18 → t.word a = s.word a

theorem countEvt_leaves (s : State) {f : Fld} {b : Nat} (hf : f = R.CLK_KPLL_CNT_SWITCHES ∨ f = R.CLK_KPLL_CNT_HOLDS) (hb : b < 9) : Counted s (s.countEvt f b) f b := by
  have at_ : f.at 0 = 0x18 := by rcases hf with rfl | rfl <;> rfl
  have one : f.words = 1 := by rcases hf with rfl | rfl <;> rfl
  have own : f.own 0 = true := by rcases hf with rfl | rfl <;> rfl
  have beside : R.CLK_EVT.parted 0 f 0 = true := by rcases hf with rfl | rfl <;> rfl
  have first : Within (fun a => a == 0x18) s (s.bump f) := within_set _ _ _ _ fun k hk => beq_iff_eq.mpr (by omega)
  have counted : s.counts (s.bump f) f :=
    (get_set_own s _ own).trans (Nat.mod_eq_of_lt (lt_of_le_of_lt (Nat.min_le_right _ _) (Nat.sub_lt (Nat.two_pow_pos _) Nat.one_pos)))
  have firmBump : (s.bump f).firm 0x18 := at_ ▸ firm_set_same s f 0 _ one (own_iff.mp own).2
  have kept : ∀ a, a ≠ 0x18 → s.firm a → (s.bump f).firm a := fun a ha h => (firm_set f 0 _ (single_word one (by rw [at_]; exact ha.symm)) h).1
  have bit := clkEvt_bit (s.bump f) hb
  unfold State.countEvt
  generalize s.bump f = u at first counted firmBump kept bit ⊢
  rw [clkEvt_eq] at bit ⊢
  have second : Within (fun a => a == 4) u (u.set R.CLK_EVT 0 (u.get R.CLK_EVT ||| 2 ^ b)) := within_set _ _ _ _ (by decide)
  constructor
  case clocked => exact (first.clocked fun a ha => beq_eq_false_iff_ne.mpr (by rintro rfl; cases ha)).trans (second.clocked fun a ha => beq_eq_false_iff_ne.mpr (by rintro rfl; cases ha))
  case pwr => exact second.pwr.trans first.pwr
  case count => exact (get_set_parted u _ beside).trans counted
  case evt => exact bit
  case firmCount => exact (firm_set R.CLK_EVT 0 _ (by decide) firmBump).1
  case firmEvt => exact firm_set_same u R.CLK_EVT 0 _ rfl rfl
  case firm => exact fun a h4 h18 h => (firm_set R.CLK_EVT 0 _ (single_word rfl h4.symm) (kept a h18 h)).1
  case word => exact fun a h4 h18 => (second.word a (beq_eq_false_iff_ne.mpr h4)).trans (first.word a (beq_eq_false_iff_ne.mpr h18))

theorem tick_at (i : Nat) : R.OSC_STATE_TICK_SRC.at i = 0x1102018 + 0x40 * i := rfl

/-- KPLL switches: the source, the count and the event, and the time goes on (R404, R405). -/
theorem kpllSwitch_leaves (s : State) (hk : k < 8) : (s.kpllSwitch k).runsFrom k ∧ (s.kpllSwitch k).pwr = s.pwr ∧ s.counts (s.kpllSwitch k) R.CLK_KPLL_CNT_SWITCHES
    ∧ ((s.kpllSwitch k).get R.CLK_EVT).testBit 6 = true ∧ (s.kpllSwitch k).time = s.time ∧ (s.kpllSwitch k).mem = s.mem := by
  have before : (s.kpllTake k).get R.CLK_KPLL_CNT_SWITCHES = s.get R.CLK_KPLL_CNT_SWITCHES := kpllTake_same s k _ _ rfl (by decide)
  have src := kpllTake_src s k hk
  have tick := kpllTake_tick s k
  have pwr := kpllTake_pwr s k
  have clocked := kpllTake_clocked s k
  have eq : s.kpllSwitch k = ((s.kpllTake k).countEvt R.CLK_KPLL_CNT_SWITCHES 6).kinNote 7 := rfl
  rw [eq]
  generalize s.kpllTake k = u at before src tick pwr clocked ⊢
  have counted := countEvt_leaves u (f := R.CLK_KPLL_CNT_SWITCHES) (b := 6) (.inl rfl) (by decide)
  generalize u.countEvt R.CLK_KPLL_CNT_SWITCHES 6 = v at counted ⊢
  obtain ⟨time, mem, power, word⟩ := kinNote_leaves v 7
  generalize v.kinNote 7 = w at time mem power word ⊢
  have kept : ∀ a, a < 0x1000000 ∨ 0x1100000 ≤ a → a ≠ 4 → a ≠ 0x18 → w.word a = u.word a := fun a ha h4 h18 =>
    (word a (by omega) (by omega)).trans (counted.word a h4 h18)
  refine ⟨⟨?_, fun i hi => ?_⟩, power.trans (counted.pwr.trans pwr), ?_, ?_, time.trans (counted.clocked.time.trans clocked.time),
    mem.trans (counted.clocked.mem.trans clocked.mem)⟩
  · rw [get_of_word (f := R.CLK_STAT_KPLL_SRC) rfl (kept 0 (by decide) (by decide) (by decide)), src]
  · rw [← tick i hi, State.flag, State.flag,
      get_of_word (f := R.OSC_STATE_TICK_SRC) rfl (kept _ (by rw [tick_at]; omega) (by rw [tick_at]; omega) (by rw [tick_at]; omega))]
  · refine (get_of_word (f := R.CLK_KPLL_CNT_SWITCHES) rfl (word 0x18 (by decide) (by decide))).trans (counted.count.trans ?_)
    rw [before]
  · rw [get_of_word (f := R.CLK_EVT) rfl (word 4 (by decide) (by decide))]
    exact counted.evt

/-- KPLL holding, before its source is raised. -/
def State.kpllHeld (s : State) : State := ((s.setFlag R.CLK_STAT_KPLL_HOLD 0 true).kpllTake 7).countEvt R.CLK_KPLL_CNT_HOLDS 7

/-- KPLL holds its control word where no source is ready (R406). -/
theorem kpllHold_leaves (hold : s.flag R.CLK_STAT_KPLL_HOLD = false) (mild : s.mild fsKpllHold) : s.kpllHold.runsFrom 7 ∧ s.kpllHold.pwr = s.pwr
    ∧ s.kpllHold.flag R.CLK_STAT_KPLL_HOLD = true ∧ s.counts s.kpllHold R.CLK_KPLL_CNT_HOLDS ∧ (s.kpllHold.get R.CLK_EVT).testBit 7 = true
    ∧ s.kpllHold.active fsKpllHold = true ∧ s.kpllHold.time = s.time ∧ s.kpllHold.mem = s.mem := by
  have eq : s.kpllHold = s.kpllHeld.levelOn fsKpllHold := if_neg (by rw [hold]; decide)
  rw [eq]
  unfold State.kpllHeld
  have held : (s.setFlag R.CLK_STAT_KPLL_HOLD 0 true).flag R.CLK_STAT_KPLL_HOLD = true := flag_setFlag_own s true rfl rfl
  have holds : (s.setFlag R.CLK_STAT_KPLL_HOLD 0 true).get R.CLK_KPLL_CNT_HOLDS = s.get R.CLK_KPLL_CNT_HOLDS := get_setFlag_parted s true rfl
  have first : Clocked s (s.setFlag R.CLK_STAT_KPLL_HOLD 0 true) := clocked_set _ _ _ _ (by decide)
  have pwr : (s.setFlag R.CLK_STAT_KPLL_HOLD 0 true).pwr = s.pwr := setFlag_pwr ..
  generalize s.setFlag R.CLK_STAT_KPLL_HOLD 0 true = u at held holds first pwr ⊢
  have vHeld : (u.kpllTake 7).flag R.CLK_STAT_KPLL_HOLD = true := by rw [State.flag, kpllTake_same u 7 _ _ rfl (by decide)]; exact held
  have vHolds : (u.kpllTake 7).get R.CLK_KPLL_CNT_HOLDS = s.get R.CLK_KPLL_CNT_HOLDS := (kpllTake_same u 7 _ _ rfl (by decide)).trans holds
  have src := kpllTake_src u 7 (by decide)
  have tick := kpllTake_tick u 7
  have vPwr := (kpllTake_pwr u 7).trans pwr
  have second := first.trans (kpllTake_clocked u 7)
  obtain ⟨stat, ticks⟩ := kpllTake_firm u 7
  generalize u.kpllTake 7 = v at vHeld vHolds src tick vPwr second stat ticks ⊢
  have counted := countEvt_leaves v (f := R.CLK_KPLL_CNT_HOLDS) (b := 7) (.inr rfl) (by decide)
  generalize v.countEvt R.CLK_KPLL_CNT_HOLDS 7 = w at counted ⊢
  have clocked := second.trans counted.clocked
  have level := levelOn_leaves (clocked.mild (by decide) mild) (by decide) (by decide) noInst []
  generalize w.levelOn fsKpllHold = x at level ⊢
  have kept : ∀ a, a < 0x100000 ∨ 0x1100000 ≤ a ∧ a < 0x4200000 → rwsOff a = none → a ≠ 4 → a ≠ 0x18 → v.firm a → x.word a = v.word a :=
    fun a ha hr h4 h18 h => (level.word a ha hr (counted.firm a h4 h18 h)).trans (counted.word a h4 h18)
  have statKept : x.word 0 = v.word 0 := kept 0 (by decide) rfl (by decide) (by decide) stat
  refine ⟨⟨?_, fun i hi => ?_⟩, level.pwr.trans (counted.pwr.trans vPwr), ?_, ?_, ?_, level.active, level.time.trans clocked.time, level.mem.trans clocked.mem⟩
  · rw [get_of_word (f := R.CLK_STAT_KPLL_SRC) rfl statKept, src]
  · have same : x.word (R.OSC_STATE_TICK_SRC.at i) = v.word (R.OSC_STATE_TICK_SRC.at i) :=
      kept _ (by rw [tick_at]; omega) (by interval_cases i <;> decide) (by rw [tick_at]; omega) (by rw [tick_at]; omega) (ticks i hi)
    rw [← tick i hi, State.flag, State.flag, get_of_word (f := R.OSC_STATE_TICK_SRC) rfl same]
  · rw [State.flag, get_of_word (f := R.CLK_STAT_KPLL_HOLD) rfl statKept]; exact vHeld
  · refine (get_of_word (f := R.CLK_KPLL_CNT_HOLDS) rfl (level.word 0x18 (by decide) rfl counted.firmCount)).trans (counted.count.trans ?_)
    rw [vHolds]
  · rw [get_of_word (f := R.CLK_EVT) rfl (level.word 4 (by decide) rfl counted.firmEvt)]; exact counted.evt

/-- KPLL out of its hold. -/
def State.kpllResumed (s : State) (k : Nat) : State := ((s.setFlag R.CLK_STAT_KPLL_HOLD 0 false).levelOff fsKpllHold).kpllSwitch k

/-- A source ready again ends the hold (R406). -/
theorem kpllHoldOff_leaves (s : State) (hk : k < 8) :
    (s.kpllResumed k).runsFrom k
      ∧ (s.kpllResumed k).pwr = s.pwr
      ∧ s.counts (s.kpllResumed k) R.CLK_KPLL_CNT_SWITCHES
      ∧ ((s.kpllResumed k).get R.CLK_EVT).testBit 6 = true
      ∧ (s.kpllResumed k).time = s.time
      ∧ (s.kpllResumed k).mem = s.mem
      ∧ (s.kpllResumed k).flag R.CLK_STAT_KPLL_HOLD = false
      ∧ (s.kpllResumed k).active fsKpllHold = false := by
  unfold State.kpllResumed
  have ended : (s.setFlag R.CLK_STAT_KPLL_HOLD 0 false).flag R.CLK_STAT_KPLL_HOLD = false := flag_setFlag_own s false rfl rfl
  have first : Within (· == 0) s (s.setFlag R.CLK_STAT_KPLL_HOLD 0 false) := within_set _ _ _ _ (by decide)
  generalize s.setFlag R.CLK_STAT_KPLL_HOLD 0 false = u at ended first ⊢
  obtain ⟨off, second⟩ := levelOff_leaves u (k := fsKpllHold) (by decide)
  generalize u.levelOff fsKpllHold = v at off second ⊢
  obtain ⟨runs, pwr, counts, evt, time, mem⟩ := kpllSwitch_leaves v hk
  have before : v.get R.CLK_KPLL_CNT_SWITCHES = s.get R.CLK_KPLL_CNT_SWITCHES := (second.get _ _ (by decide)).trans (first.get _ _ (by decide))
  refine ⟨runs, pwr.trans (second.pwr.trans first.pwr), ?_, evt, time.trans (second.time.trans first.time), mem.trans (second.mem.trans first.mem), ?_, ?_⟩
  · unfold State.counts at counts ⊢
    rw [counts, before]
  · rw [State.flag, kpllSwitch_same _ _ rfl (by decide) rfl rfl (by decide), second.get _ _ (by decide)]; exact ended
  · rw [State.active, kpllSwitch_same _ _ rfl (by decide) rfl rfl (by decide)]; exact off

/-- LC starts at 0 (R31). -/
def State.lcStarted (s : State) : State := { s with time := { s.time with running := true, lc := 0, frac := 0 } }

/-- KPLL locked for the first time. -/
def State.kpllLocked (s : State) (k : Nat) : State := (((s.setFlag R.CLK_STAT_KPLL_LOCK 0 true).kpllTake k).clkEvt 8).lcStarted

/-- KPLL locks for the first time (R31, R404). -/
theorem firstLock_leaves (s : State) (hk : k < 8) : (s.kpllLocked k).runsFrom k
    ∧ (s.kpllLocked k).pwr = s.pwr
    ∧ (s.kpllLocked k).flag R.CLK_STAT_KPLL_LOCK = true
    ∧ ((s.kpllLocked k).get R.CLK_EVT).testBit 8 = true
    ∧ (s.kpllLocked k).time = { s.time with running := true, lc := 0, frac := 0 }
    ∧ (s.kpllLocked k).mem = s.mem := by
  unfold State.kpllLocked
  have locked : (s.setFlag R.CLK_STAT_KPLL_LOCK 0 true).flag R.CLK_STAT_KPLL_LOCK = true := flag_setFlag_own s true rfl rfl
  have first : Within (· == 0) s (s.setFlag R.CLK_STAT_KPLL_LOCK 0 true) := within_set _ _ _ _ (by decide)
  generalize s.setFlag R.CLK_STAT_KPLL_LOCK 0 true = u at locked first ⊢
  have uLocked : (u.kpllTake k).flag R.CLK_STAT_KPLL_LOCK = true := by rw [State.flag, kpllTake_same u k _ _ rfl (by decide)]; exact locked
  have src := kpllTake_src u k hk
  have tick := kpllTake_tick u k
  have pwr := (kpllTake_pwr u k).trans first.pwr
  have second := kpllTake_clocked u k
  generalize u.kpllTake k = v at uLocked src tick pwr second ⊢
  have bit := clkEvt_bit v (b := 8) (by decide)
  have evt : Within (· == 4) v (v.clkEvt 8) := clkEvt_eq v 8 ▸ within_set _ _ _ _ (by decide)
  generalize v.clkEvt 8 = w at bit evt ⊢
  have same : ∀ f i, w.lcStarted.get f i = w.get f i := get_of_words (s := w) (t := w.lcStarted) fun _ => rfl
  have time : w.time = s.time := evt.time.trans (second.time.trans first.time)
  refine ⟨⟨?_, fun i hi => ?_⟩, evt.pwr.trans pwr, ?_, ?_, ?_, evt.mem.trans (second.mem.trans first.mem)⟩
  · rw [same, evt.get _ _ (by decide), src]
  · rw [← tick i hi, State.flag, State.flag, same, evt.get _ _ (by interval_cases i <;> decide)]
  · rw [State.flag, same, evt.get _ _ (by decide)]; exact uLocked
  · rw [same, bit]
  · show { w.time with running := true, lc := 0, frac := 0 } = _
    rw [time]

end switch

end Sys2Proof.Machine

/-! ## Clocks and KPLL settled -/

namespace Sys2Proof.Machine

section windows

variable {s : State} {count : Nat} {amp : Byte}

theorem exec_xtalReady (s : State) (count : Nat) (amp : Byte) : exec (.xtalReady count amp) s = .next (s.when_ (s.powered && !s.flag R.CLK_STAT_XTAL_RDY) fun s =>
    if (s.windowShow count amp).windowOk count && decide (amp.toNat > 60) then (s.windowShow count amp).xtalReady else s.windowShow count amp) := rfl

theorem exec_xtalFreqWindow (s : State) (count : Nat) (amp : Byte) : exec (.xtalFreqWindow count amp) s = .next (s.when_ s.powered fun s =>
    if s.windowOk count then s.windowShow count amp else (s.windowShow count amp).xtalLost) := rfl

theorem exec_xtalLoss (s : State) (amp : Byte) : exec (.xtalLoss amp) s = .next (s.when_ s.powered fun s =>
    if amp.toNat < 30 then (s.set R.CLK_XTAL_STAT_AMP 0 amp.toNat).xtalLost else s.set R.CLK_XTAL_STAT_AMP 0 amp.toNat) := rfl

theorem xtalReady_eq (s : State) : s.xtalReady = (s.setFlag R.CLK_STAT_XTAL_RDY 0 true).withPwr { s.pwr with rampFrom := s.time.lc.toNat } := by
  rw [← setFlag_pwr s R.CLK_STAT_XTAL_RDY 0 true, ← State.setFlag_time s R.CLK_STAT_XTAL_RDY 0 true]
  rfl

/-- The first window makes XTAL ready when it passes (R395). -/
theorem xtalReady_ends (powered : s.powered = true) (rdy : s.flag R.CLK_STAT_XTAL_RDY = false) : Completes (.xtalReady count amp) s fun t =>
    (t.get R.CLK_XTAL_STAT_AMP = amp.toNat ∧ ((s.windowErr count).natAbs < 32768 → t.get R.CLK_XTAL_STAT_FREQ_ERR = trunc 16 (s.windowErr count)))
      ∧ t.flag R.CLK_STAT_XTAL_RDY = (s.windowOk count && decide (60 < amp.toNat))
      ∧ t.pwr = (if s.windowOk count ∧ 60 < amp.toNat then { s.pwr with rampFrom := s.time.lc.toNat } else s.pwr) ∧ t.mem = s.mem ∧ t.time = s.time := by
  have shown := windowShow_leaves s count amp
  have ok := windowOk_congr (count := count) (shown.flag R.CLK_STAT_AON_SRC ⟨rfl, rfl⟩)
  refine ⟨_, (exec_xtalReady s count amp).trans (congrArg Host.Outcome.next (when_of_true _ (by rw [powered, rdy]; rfl))), ?_⟩
  dsimp only
  rw [ok]
  have stays := shown.flag R.CLK_STAT_XTAL_RDY ⟨rfl, rfl⟩
  generalize s.windowShow count amp = u at shown stays ⊢
  by_cases pass : s.windowOk count = true ∧ 60 < amp.toNat
  · have both : (s.windowOk count && decide (60 < amp.toNat)) = true := by rw [Bool.and_eq_true, decide_eq_true_eq]; exact pass
    rw [if_pos both, if_pos pass, both, xtalReady_eq]
    refine ⟨⟨?_, fun small => ?_⟩, ?_, by rw [withPwr_pwr, shown.pwr, shown.clocked.time], (setFlag_mem ..).trans shown.clocked.mem,
      (State.setFlag_time ..).trans shown.clocked.time⟩
    · rw [get_withPwr, get_setFlag_parted _ _ rfl, shown.amp]
    · rw [get_withPwr, get_setFlag_parted _ _ rfl, shown.err small]
    · rw [flag_withPwr, flag_setFlag_own _ _ rfl rfl]
  · have fails : ¬ (s.windowOk count && decide (60 < amp.toNat)) = true := by rw [Bool.and_eq_true, decide_eq_true_eq]; exact pass
    rw [if_neg fails, if_neg pass]
    exact ⟨⟨shown.amp, shown.err⟩, by rw [stays, rdy, Bool.eq_false_iff.mpr fails], shown.pwr, shown.clocked.mem, shown.clocked.time⟩

/-- A window that passes, or one without XTAL, is shown and changes nothing else (R395). -/
theorem xtalWindow_passes (powered : s.powered = true) (h : s.windowOk count = true ∨ s.flag R.CLK_STAT_XTAL_RDY = false) : Completes (.xtalFreqWindow count amp) s fun t =>
    (t.get R.CLK_XTAL_STAT_AMP = amp.toNat ∧ ((s.windowErr count).natAbs < 32768 → t.get R.CLK_XTAL_STAT_FREQ_ERR = trunc 16 (s.windowErr count)))
      ∧ t.flag R.CLK_STAT_XTAL_RDY = s.flag R.CLK_STAT_XTAL_RDY ∧ t.pwr = s.pwr ∧ t.mem = s.mem := by
  have shown := windowShow_leaves s count amp
  have stays := shown.flag R.CLK_STAT_XTAL_RDY ⟨rfl, rfl⟩
  have same : (if s.windowOk count = true then s.windowShow count amp else (s.windowShow count amp).xtalLost) = s.windowShow count amp := by
    rcases h with ok | gone
    · exact if_pos ok
    · rw [xtalLost_none (stays.trans gone), ite_self]
  refine ⟨s.windowShow count amp, ?_, ⟨shown.amp, shown.err⟩, stays, shown.pwr, shown.clocked.mem⟩
  rw [exec_xtalFreqWindow, when_of_true _ powered, same]

end windows

section settled

variable {s : State}

theorem xtalFails {u : State} (clocked : Clocked s u) (src : u.get R.CLK_STAT_ROOT_SRC = s.get R.CLK_STAT_ROOT_SRC) (rdy : u.flag R.CLK_STAT_XTAL_RDY = true) (firm : u.firm 0xC)
    (mild : s.mild fsXtalLost) : (u.xtalLost.flag R.CLK_STAT_XTAL_RDY = false ∧ u.xtalLost.flag R.CLK_STAT_XTAL_LOST = true ∧ (u.xtalLost.get R.CLK_EVT).testBit 0 = true
      ∧ u.xtalLost.active fsXtalLost = true ∧ (s.get R.CLK_STAT_ROOT_SRC = 0 → u.xtalLost.get R.CLK_ROOT_SEL = 1 ∧ u.xtalLost.pwr.rootSw = some 1
        ∧ u.xtalLost.flag R.CLK_STAT_SW_BUSY = true) ∧ u.xtalLost.time = s.time ∧ u.xtalLost.mem = s.mem)
      ∧ u.xtalLost.get R.CLK_XTAL_STAT_AMP = u.get R.CLK_XTAL_STAT_AMP ∧ u.xtalLost.get R.CLK_XTAL_STAT_FREQ_ERR = u.get R.CLK_XTAL_STAT_FREQ_ERR := by
  obtain ⟨⟨gone, lost, evt, active, moves, time, mem⟩, amp, err⟩ := xtalLost_leaves rdy (clocked.mild (by decide) mild) firm
  rw [src] at moves
  exact ⟨⟨gone, lost, evt, active, moves, time.trans clocked.time, mem.trans clocked.mem⟩, amp, err⟩

theorem exec_aonXtalReady (s : State) : exec .aonXtalReady s = .next (s.when_ (s.powered && !s.flag R.CLK_STAT_AON_XTAL_RDY) fun s =>
    s.aonReady) := rfl

theorem exec_aonXtalLoss (s : State) : exec .aonXtalLoss s = .next (s.when_ (s.powered && s.flag R.CLK_STAT_AON_XTAL_RDY) fun s => s.aonDropped.levelOn fsAonXtalLost) := rfl

theorem exec_syspllLock (s : State) (band : BitVec 6) (vtune : Byte) : exec (.syspllLock band vtune) s = .next (s.syspllLock band vtune) := rfl
theorem exec_syspllCoast (s : State) (unlock : Bool) (vtune : Byte) : exec (.syspllCoast unlock vtune) s = .next (s.coast unlock vtune) := rfl
theorem exec_syspllRampDone (s : State) (band : BitVec 6) (vtune : Byte) : exec (.syspllRampDone band vtune) s = .next (s.rampDone band vtune) := rfl
theorem exec_clkRootSelWrite (s : State) (m : Master) (v : Word) : exec (.clkRootSelWrite m v) s = .next (s.busWrite32 m (R.CLK_ROOT_SEL.at 0) v) := rfl
theorem exec_clkSwitchComplete (s : State) (aon : Bool) : exec (.clkSwitchComplete aon) s = .next (s.switched aon) := rfl
theorem exec_kpllSourceLoss (s : State) (edges : BitVec 4) : exec (.kpllSourceLoss edges) s = .next (s.kpllLoss edges) := rfl
theorem exec_kpllBetterSource (s : State) (edges : BitVec 4) (k : Fin 4) : exec (.kpllBetterSource edges k) s = .next (s.kpllBetter edges k) := rfl
theorem exec_kpllHoldExit (s : State) (edges : BitVec 4) : exec (.kpllHoldExit edges) s = .next (s.kpllHoldExit edges) := rfl
theorem exec_kpllFirstLock (s : State) (edges : BitVec 4) : exec (.kpllFirstLock edges) s = .next (s.kpllFirstLock edges) := rfl

variable {edges : BitVec 4} {k : Nat}

theorem get_kpllEdges (f : Fld) (i : Nat) : (s.kpllEdges edges).get f i = s.get f i := get_of_words (s := s) (t := s.kpllEdges edges) (fun _ => rfl) f i

theorem flag_kpllEdges (f : Fld) (i : Nat) : (s.kpllEdges edges).flag f i = s.flag f i := by
  unfold State.flag
  rw [get_kpllEdges]

theorem kpllEdges_mild (h : s.mild k) : (s.kpllEdges edges).mild k := mild_congr (s := s) rfl rfl rfl rfl h

/-- KPLL on a new source, seen from before the sweep of the edges. -/
theorem kpllMoved (hk : k < 8) : ((s.kpllEdges edges).kpllSwitch k).runsFrom k ∧ ((s.kpllEdges edges).kpllSwitch k).pwr = (s.kpllEdges edges).pwr
    ∧ s.counts ((s.kpllEdges edges).kpllSwitch k) R.CLK_KPLL_CNT_SWITCHES ∧ (((s.kpllEdges edges).kpllSwitch k).get R.CLK_EVT).testBit 6 = true
    ∧ ((s.kpllEdges edges).kpllSwitch k).time = s.time ∧ ((s.kpllEdges edges).kpllSwitch k).mem = s.mem := by
  have before : (s.kpllEdges edges).get R.CLK_KPLL_CNT_SWITCHES = s.get R.CLK_KPLL_CNT_SWITCHES := get_kpllEdges ..
  obtain ⟨runs, pwr, counts, evt, time, mem⟩ := kpllSwitch_leaves (s.kpllEdges edges) hk
  unfold State.counts at counts
  rw [before] at counts
  exact ⟨runs, pwr, counts, evt, time, mem⟩

theorem kpllLoss_none (h : s.flag R.CLK_STAT_KPLL_LOCK = false ∨ s.get R.CLK_STAT_KPLL_SRC = 7
    ∨ (s.kpllEdges edges).kpllReady (s.get R.CLK_STAT_KPLL_SRC) = true) : s.kpllLoss edges = s.kpllEdges edges := by
  unfold State.kpllLoss
  dsimp only
  rw [flag_kpllEdges, get_kpllEdges]
  refine if_pos ?_
  rcases h with open_ | held | ready
  · simp [open_]
  · simp [held]
  · simp [ready]

theorem kpllLoss_eq (lock : s.flag R.CLK_STAT_KPLL_LOCK = true) (src : s.get R.CLK_STAT_KPLL_SRC ≠ 7)
    (gone : (s.kpllEdges edges).kpllReady (s.get R.CLK_STAT_KPLL_SRC) = false) :
    s.kpllLoss edges = match (s.kpllEdges edges).kpllBest with
      | some k => (s.kpllEdges edges).kpllSwitch k
      | none => (s.kpllEdges edges).kpllHold := by
  unfold State.kpllLoss
  dsimp only
  rw [flag_kpllEdges, get_kpllEdges]
  exact if_neg (by simp [lock, src, gone])

/-- Whether a ready oscillator may take over from a source of higher PREF (R404). -/
def State.kpllMayMove (s : State) (edges : BitVec 4) (k : Fin 4) : Bool :=
  (s.kpllEdges edges).flag R.CLK_STAT_KPLL_LOCK && (s.kpllEdges edges).get R.CLK_STAT_KPLL_SRC != 7 && (s.kpllEdges edges).kpllReady k
    && (s.kpllEdges edges).oscState k == 2 && decide ((s.kpllEdges edges).refs.osc[(⟨k.val, by omega⟩ : Fin 5)].memberFor ≥ 60)
    && decide ((s.kpllEdges edges).kpllPref k < (s.kpllEdges edges).kpllPref ((s.kpllEdges edges).get R.CLK_STAT_KPLL_SRC))

theorem kpllBetter_eq (k : Fin 4) : s.kpllBetter edges k = if s.kpllMayMove edges k = true then (s.kpllEdges edges).kpllSwitch k else s.kpllEdges edges := rfl

theorem kpllMayMove_iff (k : Fin 4) : s.kpllMayMove edges k = true ↔ s.flag R.CLK_STAT_KPLL_LOCK = true ∧ s.get R.CLK_STAT_KPLL_SRC ≠ 7
    ∧ (s.kpllEdges edges).kpllReady k = true ∧ s.oscState k = 2 ∧ 60 ≤ s.refs.osc[(⟨k.val, by omega⟩ : Fin 5)].memberFor
    ∧ s.kpllPref k < s.kpllPref (s.get R.CLK_STAT_KPLL_SRC) := by
  have osc : (s.kpllEdges edges).oscState k = s.oscState k := get_kpllEdges ..
  have pref : ∀ j, (s.kpllEdges edges).kpllPref j = s.kpllPref j := fun _ => rfl
  unfold State.kpllMayMove
  rw [flag_kpllEdges, get_kpllEdges, osc, pref, pref, State.kpllEdges_refs]
  simp only [Bool.and_eq_true, bne_iff_ne, beq_iff_eq, decide_eq_true_eq, ge_iff_le, and_assoc]

theorem kpllHoldExit_none (h : s.flag R.CLK_STAT_KPLL_HOLD = false ∨ (s.kpllEdges edges).kpllBest = none) : s.kpllHoldExit edges = s.kpllEdges edges := by
  unfold State.kpllHoldExit
  dsimp only
  rw [flag_kpllEdges]
  rcases h with off | none_
  · rw [off]
  · rw [none_]
    split
    · next e => cases e
    · rfl

theorem kpllHoldExit_some (hold : s.flag R.CLK_STAT_KPLL_HOLD = true) (best : (s.kpllEdges edges).kpllBest = some k) :
    s.kpllHoldExit edges = (s.kpllEdges edges).kpllResumed k := by
  unfold State.kpllHoldExit
  dsimp only
  rw [flag_kpllEdges, hold, best]
  rfl

theorem kpllFirstLock_none (h : (s.kpllEdges edges).kpllBest = none ∨ s.flag R.CLK_STAT_KPLL_LOCK = true ∨ s.pwr.power ≠ .on ∨ s.aon.vrst = true) :
    s.kpllFirstLock edges = s.kpllEdges edges := by
  unfold State.kpllFirstLock
  dsimp only
  rcases hb : (s.kpllEdges edges).kpllBest with _ | b
  · rfl
  · rw [hb] at h
    dsimp only
    rw [flag_kpllEdges]
    refine if_pos ?_
    rcases h with none_ | locked | off | reset
    · cases none_
    · rw [locked]; rfl
    · have other : ((s.kpllEdges edges).pwr.power != Power.on) = true := bne_iff_ne.mpr off
      rw [other, Bool.or_true, Bool.true_or]
    · have vrst : (s.kpllEdges edges).aon.vrst = true := reset
      rw [vrst, Bool.or_true]

theorem kpllFirstLock_some (best : (s.kpllEdges edges).kpllBest = some k) (lock : s.flag R.CLK_STAT_KPLL_LOCK = false) (power : s.pwr.power = .on)
    (vrst : s.aon.vrst = false) :
    s.kpllFirstLock edges = (s.kpllEdges edges).kpllLocked k := by
  have on : ((s.kpllEdges edges).pwr.power != Power.on) = false := by rw [show (s.kpllEdges edges).pwr.power = s.pwr.power from rfl, power]; rfl
  have steady : (s.kpllEdges edges).aon.vrst = false := vrst
  unfold State.kpllFirstLock
  dsimp only
  rw [best]
  dsimp only
  rw [flag_kpllEdges, lock, on, steady]
  exact if_neg (by decide)

end settled

section losses

variable {s : State} {count : Nat} {amp : Byte}

/-- A later window that fails loses XTAL (R395). -/
theorem xtalWindow_fails (powered : s.powered = true) (bad : s.windowOk count = false) (rdy : s.flag R.CLK_STAT_XTAL_RDY = true) (mild : s.mild fsXtalLost) :
    Completes (.xtalFreqWindow count amp) s fun t =>
      (t.get R.CLK_XTAL_STAT_AMP = amp.toNat ∧ ((s.windowErr count).natAbs < 32768 → t.get R.CLK_XTAL_STAT_FREQ_ERR = trunc 16 (s.windowErr count)))
      ∧ t.flag R.CLK_STAT_XTAL_RDY = false ∧ t.flag R.CLK_STAT_XTAL_LOST = true ∧ (t.get R.CLK_EVT).testBit 0 = true ∧ t.active fsXtalLost = true
      ∧ (s.get R.CLK_STAT_ROOT_SRC = 0 → t.get R.CLK_ROOT_SEL = 1 ∧ t.pwr.rootSw = some 1 ∧ t.flag R.CLK_STAT_SW_BUSY = true) ∧ t.time = s.time ∧ t.mem = s.mem := by
  have shown := windowShow_leaves s count amp
  have src : (s.windowShow count amp).get R.CLK_STAT_ROOT_SRC = s.get R.CLK_STAT_ROOT_SRC := get_of_word rfl (shown.word _ (by decide))
  obtain ⟨lost, ampKept, errKept⟩ := xtalFails shown.clocked src ((shown.flag R.CLK_STAT_XTAL_RDY ⟨rfl, rfl⟩).trans rdy) shown.firm mild
  refine ⟨(s.windowShow count amp).xtalLost, ?_, ⟨ampKept.trans shown.amp, fun small => errKept.trans (shown.err small)⟩, lost⟩
  rw [exec_xtalFreqWindow, when_of_true _ powered, bad]
  rfl

/-- An amplitude below 30 % loses XTAL (R395). -/
theorem xtalLoss_loses (powered : s.powered = true) (rdy : s.flag R.CLK_STAT_XTAL_RDY = true) (low : amp.toNat < 30) (mild : s.mild fsXtalLost) :
    Completes (.xtalLoss amp) s fun t => t.get R.CLK_XTAL_STAT_AMP = amp.toNat
      ∧ t.flag R.CLK_STAT_XTAL_RDY = false ∧ t.flag R.CLK_STAT_XTAL_LOST = true ∧ (t.get R.CLK_EVT).testBit 0 = true ∧ t.active fsXtalLost = true
      ∧ (s.get R.CLK_STAT_ROOT_SRC = 0 → t.get R.CLK_ROOT_SEL = 1 ∧ t.pwr.rootSw = some 1 ∧ t.flag R.CLK_STAT_SW_BUSY = true) ∧ t.time = s.time ∧ t.mem = s.mem := by
  obtain ⟨set, firm, shown⟩ := ampShow_leaves s amp
  obtain ⟨lost, ampKept, -⟩ := xtalFails (set.clocked fun a => xtalStat_clk) (set.get _ _ (by decide)) ((set.flag _ _ (by decide)).trans rdy) firm mild
  refine ⟨(s.set R.CLK_XTAL_STAT_AMP 0 amp.toNat).xtalLost, ?_, ampKept.trans shown, lost⟩
  rw [exec_xtalLoss, when_of_true _ powered, if_pos low]

/-- An amplitude that stands, or one without XTAL, is shown (R395). -/
theorem xtalLoss_stands (powered : s.powered = true) (h : s.flag R.CLK_STAT_XTAL_RDY = false ∨ 30 ≤ amp.toNat) :
    Completes (.xtalLoss amp) s fun t => t.get R.CLK_XTAL_STAT_AMP = amp.toNat ∧ t.flag R.CLK_STAT_XTAL_RDY = s.flag R.CLK_STAT_XTAL_RDY ∧ t.pwr = s.pwr := by
  obtain ⟨set, -, shown⟩ := ampShow_leaves s amp
  have stays : (s.set R.CLK_XTAL_STAT_AMP 0 amp.toNat).flag R.CLK_STAT_XTAL_RDY = s.flag R.CLK_STAT_XTAL_RDY := set.flag _ _ (by decide)
  refine ⟨s.set R.CLK_XTAL_STAT_AMP 0 amp.toNat, ?_, shown, stays, set.pwr⟩
  rw [exec_xtalLoss, when_of_true _ powered]
  rcases h with gone | high
  · rw [xtalLost_none (stays.trans gone), ite_self]
  · rw [if_neg (Nat.not_lt.mpr high)]

end losses

/-- Settles O49: each part of the clocks leaves its fields, and a mild source raised beside them spares what was just written. -/
theorem clocksAndKpll : Obligations.ClocksAndKpll := by
  unfold Obligations.ClocksAndKpll
  refine ⟨fun s => ⟨fun count amp => ⟨xtalReady_ends, fun idle => ?_, xtalWindow_passes, xtalWindow_fails, fun off => ?_⟩,
      fun amp => ⟨xtalLoss_loses, xtalLoss_stands⟩, fun powered gone => ?_, fun powered rdy mild => ?_, fun idle => ?_, fun idle => ?_,
      fun band vtune unlock => ⟨fun rdy lock coast => ?_, fun idle => ?_, fun coast lost mild => ?_, fun idle => ?_, fun coast rdy past => ?_, fun idle => ?_⟩,
      fun m v hw => ?_, fun src => ⟨fun h => ?_, fun h => ?_⟩⟩,
    fun s edges => ⟨fun k best => kpllBest_some best, kpllBest_none, fun lock src gone => ⟨fun k best => ?_, fun none_ hold mild => ?_⟩, fun idle => ?_,
      fun k => ⟨fun lock src better => ?_, fun idle => ?_⟩, fun k hold best => ?_, fun idle => ?_, fun k best lock power vrst => ?_, fun idle => ?_⟩⟩
  · rw [exec_xtalReady, when_of_false _ (by rcases idle with h | h <;> simp [h])]
  · rw [exec_xtalFreqWindow, exec_xtalLoss, when_of_false _ off, when_of_false _ off]
    exact ⟨rfl, rfl⟩
  · exact ⟨_, (exec_aonXtalReady s).trans (congrArg Host.Outcome.next (when_of_true _ (by rw [powered, gone]; rfl))), aonXtalReady_leaves s⟩
  · exact ⟨_, (exec_aonXtalLoss s).trans (congrArg Host.Outcome.next (when_of_true _ (by rw [powered, rdy]; rfl))), aonXtalLoss_leaves mild⟩
  · rw [exec_aonXtalReady, when_of_false _ (by rcases idle with h | h <;> simp [h])]
  · rw [exec_aonXtalLoss, when_of_false _ (by rcases idle with h | h <;> simp [h])]
  · exact ⟨_, exec_syspllLock s band vtune, syspllLock_leaves band vtune rdy lock coast⟩
  · rw [exec_syspllLock, syspllLock_none band vtune idle]
  · exact ⟨_, exec_syspllCoast s unlock vtune, coast_leaves vtune coast lost mild⟩
  · rw [exec_syspllCoast, coast_none vtune idle]
  · exact ⟨_, exec_syspllRampDone s band vtune, rampDone_leaves band vtune coast rdy past⟩
  · rw [exec_syspllRampDone, rampDone_none band vtune idle]
  · obtain ⟨refused, same, moves⟩ := rootSelWrite_ends v hw
    exact ⟨fun h => ⟨_, exec_clkRootSelWrite s m v, refused h⟩, fun free ready h => ⟨_, exec_clkRootSelWrite s m v, same free ready h⟩,
      fun free ready h => ⟨_, exec_clkRootSelWrite s m v, moves free ready h⟩⟩
  · obtain ⟨set, pwr, busy, evt, mem, time⟩ := selected_leaves (s := s) (f := R.CLK_STAT_ROOT_SRC) src { s.pwr with rootSw := none } (s.oldStopped false) rfl rfl rfl
    exact ⟨_, (exec_clkSwitchComplete s false).trans (congrArg Host.Outcome.next (switched_root h)), set, pwr, busy.trans (Bool.false_or _), evt, mem, time⟩
  · obtain ⟨set, pwr, busy, evt, mem, time⟩ := selected_leaves (s := s) (f := R.CLK_STAT_AON_SRC) src { s.pwr with aonSw := none } (s.oldStopped true) rfl rfl rfl
    exact ⟨_, (exec_clkSwitchComplete s true).trans (congrArg Host.Outcome.next (switched_aon h)), set, pwr, busy.trans (Bool.or_false _), evt, mem, time⟩
  · obtain ⟨⟨src', tick⟩, pwr, counts, evt, time, mem⟩ := kpllMoved (s := s) (edges := edges) (kpllBest_lt best)
    refine ⟨(s.kpllEdges edges).kpllSwitch k, ?_, ⟨src', tick, pwr⟩, counts, evt, time, mem⟩
    rw [exec_kpllSourceLoss, kpllLoss_eq lock src gone, best]
  · have off : (s.kpllEdges edges).flag R.CLK_STAT_KPLL_HOLD = false := (flag_kpllEdges ..).trans hold
    obtain ⟨⟨src', tick⟩, pwr, held, counts, evt, active, time, mem⟩ := kpllHold_leaves off (kpllEdges_mild mild)
    have before : (s.kpllEdges edges).get R.CLK_KPLL_CNT_HOLDS = s.get R.CLK_KPLL_CNT_HOLDS := get_kpllEdges ..
    unfold State.counts at counts
    rw [before] at counts
    refine ⟨(s.kpllEdges edges).kpllHold, ?_, ⟨src', tick, pwr⟩, held, counts, evt, active, time, mem⟩
    rw [exec_kpllSourceLoss, kpllLoss_eq lock src gone, none_]
  · rw [exec_kpllSourceLoss, kpllLoss_none idle]
  · obtain ⟨ready, osc, member, pref⟩ := better
    have moves := (kpllMayMove_iff k).mpr ⟨lock, src, ready, osc, member, pref⟩
    obtain ⟨⟨src', tick⟩, pwr, counts, evt, time, mem⟩ := kpllMoved (s := s) (edges := edges) (k := k.val) (by omega)
    refine ⟨(s.kpllEdges edges).kpllSwitch k, ?_, ⟨src', tick, pwr⟩, counts, evt, time, mem⟩
    rw [exec_kpllBetterSource, kpllBetter_eq, if_pos moves]
  · have stays : ¬ s.kpllMayMove edges k = true := fun moves => by
      obtain ⟨lock, src, better⟩ := (kpllMayMove_iff k).mp moves
      rcases idle with open_ | held | worse
      · rw [open_] at lock
        cases lock
      · exact src held
      · exact worse better
    rw [exec_kpllBetterSource, kpllBetter_eq, if_neg stays]
  · obtain ⟨⟨src', tick⟩, pwr, counts, evt, time, mem, off, level⟩ := kpllHoldOff_leaves (s.kpllEdges edges) (kpllBest_lt best)
    have before : (s.kpllEdges edges).get R.CLK_KPLL_CNT_SWITCHES = s.get R.CLK_KPLL_CNT_SWITCHES := get_kpllEdges ..
    unfold State.counts at counts
    rw [before] at counts
    refine ⟨(s.kpllEdges edges).kpllResumed k, ?_, ⟨⟨src', tick, pwr⟩, counts, evt, time, mem⟩, off, level⟩
    rw [exec_kpllHoldExit, kpllHoldExit_some hold best]
  · rw [exec_kpllHoldExit, kpllHoldExit_none idle]
  · obtain ⟨⟨src', tick⟩, pwr, locked, evt, time, mem⟩ := firstLock_leaves (s.kpllEdges edges) (kpllBest_lt best)
    refine ⟨(s.kpllEdges edges).kpllLocked k, ?_, ⟨src', tick, pwr⟩, locked, evt, time, mem⟩
    rw [exec_kpllFirstLock, kpllFirstLock_some best lock power vrst]
  · rw [exec_kpllFirstLock, kpllFirstLock_none idle]

end Sys2Proof.Machine

/-! ## Entries of one word through a firmware trial (R12, R70, R82) -/

namespace Sys2Proof.Machine

/-- The entries of the word of the time mode. -/
def State.modeEntries (s : State) : List (Nat × Word) := s.regs.filter fun x => x.1 == 0x1002000

/-- `t` has the time of `s`, and its entries of the word of the time mode. -/
structure ModeKept (s t : State) : Prop where
  time : t.time = s.time
  entries : t.modeEntries = s.modeEntries

section kept

variable {r s t : State}

theorem ModeKept.refl (s : State) : ModeKept s s := ⟨rfl, rfl⟩

theorem ModeKept.trans (h : ModeKept r s) (k : ModeKept s t) : ModeKept r t := ⟨k.time.trans h.time, k.entries.trans h.entries⟩

theorem ModeKept.ite {u : State} {c : Prop} [Decidable c] (h : ModeKept s t) (k : ModeKept s u) : ModeKept s (if c then t else u) := by
  split
  · exact h
  · exact k

theorem modeKept_hidden (time : t.time = s.time) (regs : t.regs = s.regs) : ModeKept s t := ⟨time, by unfold State.modeEntries; rw [regs]⟩

/-- A write at another key leaves the entries of a key. -/
theorem filter_sput {a x : Nat} (h : x ≠ a) (drop : Bool) (v : Word) (l : List (Nat × Word)) :
    (sput drop x v l).filter (fun c => c.1 == a) = l.filter fun c => c.1 == a := by
  have other : (x == a) = false := beq_eq_false_iff_ne.mpr h
  have gone : ∀ l : List (Nat × Word), (sdel x l).filter (fun c => c.1 == a) = l.filter fun c => c.1 == a := fun l => by
    unfold sdel
    rw [List.filter_filter]
    refine List.filter_congr fun c _ => ?_
    by_cases hc : c.1 = a
    · simp [hc, Ne.symm h]
    · simp [hc]
  induction l with
  | nil => cases drop <;> simp [sput, other]
  | cons c l ih =>
    obtain ⟨k, w⟩ := c
    unfold sput
    split
    · cases drop
      · simp [other]
      · simp [List.filter_cons, gone]
    · split
      · next e =>
        subst e
        cases drop <;> simp [other, gone]
      · simp [List.filter_cons, ih]

theorem modeKept_setWordsN (s : State) (b v n : Nat) (h : ∀ k < n, b + 4 * k ≠ 0x1002000) : ModeKept s (s.setWordsN b v n) := by
  induction n generalizing s b v with
  | zero => exact .refl s
  | succ n ih =>
    have first : ModeKept s (s.setWord b (BitVec.ofNat 32 v)) := by
      unfold State.setWord
      split
      · exact .refl s
      · exact ⟨rfl, filter_sput (h 0 (by omega)) _ _ _⟩
    exact first.trans (ih _ _ _ fun k hk => by have := h (k + 1) (by omega); omega)

theorem modeKept_set (s : State) (f : Fld) (i v : Nat) (h : ∀ k < f.words, f.at i + 4 * k ≠ 0x1002000) : ModeKept s (s.set f i v) := modeKept_setWordsN _ _ _ _ h

theorem modeKept_irqEdge (s u : State) (src : Nat) : ModeKept s (s.irqEdge u src) := by
  refine ModeKept.ite ?_ (.refl s)
  unfold State.irq
  dsimp only
  refine ModeKept.ite (.refl s) ((modeKept_set s R.HST_IRQ_PEND 0 (s.get R.HST_IRQ_PEND ||| 2 ^ src) (by decide)).trans ?_)
  exact modeKept_hidden (within_msgAsk (p := fun _ => false) _ src).time (msgAsk_regs _ src)

theorem modeKept_ringPut (s : State) (x : KRec) : ModeKept s (s.ringPut x) := by
  unfold State.ringPut
  refine ((modeKept_set s R.KNL_REC_STAT_REC_OVERRUN 0 _ (by decide)).ite (.refl s)).trans (modeKept_setWordsN _ _ _ _ fun k hk => ?_)
  have base : R.KNL_REC_WIN.addr = 0x1004000 := rfl
  omega

theorem modeKept_syncAudit (s : State) : ModeKept s s.syncAudit := by
  unfold State.syncAudit
  refine (modeKept_set s R.KNL_AUDIT_STAT_FILL 0 (s.unexported * 100 / logCap) (by decide)).trans ?_
  generalize s.set R.KNL_AUDIT_STAT_FILL 0 (s.unexported * 100 / logCap) = u
  exact modeKept_set u R.KNL_AUDIT_STAT_FULL 0 _ (by decide)

theorem modeKept_logEventBy (s : State) (key : Digest) (typ flags keySlot : Nat) (rt : Time) (detail : List Byte) :
    ModeKept s (s.logEventBy key typ flags keySlot rt detail) := by
  have made : ModeKept s (s.mkRecordBy key typ flags keySlot rt detail).2 := by
    unfold State.mkRecordBy
    dsimp only
    generalize hw : (s.drawn.set R.KNL_REC_WR 0 _).irqEdge s.drawn 19 = u
    have numbered : ModeKept s.drawn u := by
      rw [← hw]
      exact (modeKept_set _ R.KNL_REC_WR 0 _ (by decide)).trans (modeKept_irqEdge _ _ _)
    have digest : ∀ d, ModeKept u { u with knl := { u.knl with prevDig := d } } := fun _ => modeKept_hidden rfl rfl
    exact ((modeKept_hidden (s := s) (t := s.drawn) rfl rfl).trans numbered).trans ((digest _).trans (modeKept_ringPut _ _))
  unfold State.logEventBy
  generalize s.mkRecordBy key typ flags keySlot rt detail = x at made ⊢
  obtain ⟨rec, u⟩ := x
  dsimp only at made ⊢
  generalize hc : (if decide (u.kspi.events.length ≥ logCap) = true then u.bump R.KNL_REC_STAT_AUDIT_OVERWRITE 0 _ else u) = c
  have counted : ModeKept u c := by
    rw [← hc]
    exact (modeKept_set u R.KNL_REC_STAT_AUDIT_OVERWRITE 0 _ (by decide)).ite (.refl u)
  have flash : ∀ x : Kspi, ModeKept c { c with kspi := x } := fun _ => modeKept_hidden rfl rfl
  exact ((made.trans counted).trans (flash _)).trans (modeKept_syncAudit _)

/-- The record of a command with room in the log. -/
theorem modeKept_mbRecord (h : s.room 1) (c : MbCmd) (typ flags : Nat) (change : List Byte) : ModeKept s (s.mbRecord c typ flags change) := by
  have logs := logEventBy_logs s s.knl.attKey typ flags c.slot s.rt (eventDetail c.counter c.op change)
  have one := logEventBy_logsOne s s.knl.attKey typ flags c.slot s.rt (eventDetail c.counter c.op change)
  have kept := modeKept_logEventBy s s.knl.attKey typ flags c.slot s.rt (eventDetail c.counter c.op change)
  have ack := logs.get R.KNL_AUDIT_ACK 0 (by decide)
  unfold State.mbRecord State.syncAuditFull
  rw [auditOver_of_room h (Nat.le_of_eq ack.symm) one.events, if_neg Bool.false_ne_true]
  exact (kept.trans (modeKept_set _ R.FLT_ACTIVE 0 _ (by decide))).trans (modeKept_set _ R.KNL_MBX_CMD_CNT 0 _ (by decide))

end kept

/-! ### An image loaded -/

/-- A reset that spares a word drops its entries that stand at the reset entry. -/
theorem filter_resetRegs {p : Nat → RegRow → Bool} {a : Nat} (mask : maskAt (p a) a = 0) (l : List (Nat × Word)) :
    (resetRegs p l).filter (fun x => x.1 == a) = (l.filter fun x => x.1 == a).filter fun x => x.2 != coldWord a := by
  induction l with
  | nil => rfl
  | cons x l ih =>
    obtain ⟨k, v⟩ := x
    rw [resetRegs_cons]
    by_cases hk : k = a
    · subst hk
      rw [resetWord_zero mask]
      by_cases cold : v = coldWord k
      · simp [cold, ih]
      · simp [cold, ih]
    · split <;> simp [hk, ih]

/-- `t` has the time of `s`, and of the entries of the word of the time mode those that are not at the reset entry. -/
structure ModeSifted (s t : State) : Prop where
  time : t.time = s.time
  entries : t.modeEntries = s.modeEntries.filter fun x => x.2 != coldWord 0x1002000

theorem ModeKept.sifted {r s t : State} (h : ModeKept r s) (k : ModeSifted s t) : ModeSifted r t := ⟨k.time.trans h.time, by rw [k.entries, h.entries]⟩

theorem ModeSifted.kept {r s t : State} (h : ModeSifted r s) (k : ModeKept s t) : ModeSifted r t := ⟨k.time.trans h.time, k.entries.trans h.entries⟩

section load

variable (s : State) (n : Fin 2)

theorem engineBlockReset_sifts : ModeSifted s (s.engineBlockReset (kEng n)) := by
  refine ⟨rfl, filter_resetRegs (p := fun a r => unitHas (.engine (kEng n)) a && blockSets r) (maskAt_false _ fun r => ?_) s.regs⟩
  have outside : unitHas (.engine (kEng n)) 0x1002000 = false := by revert n; decide
  rw [outside]
  rfl

theorem loadBodies_hidden (e : Fin 12) (il dl : Nat) (f : Nat → Byte) : ModeKept s (s.loadBodies e il dl f) := modeKept_hidden rfl rfl

theorem modeKept_engine (f : Fld) (v : Nat) (h : ∀ n : Fin 2, ∀ k < f.words, f.at (kEng n) + 4 * k ≠ 0x1002000) : ModeKept s (s.set f (kEng n) v) :=
  modeKept_set s f (kEng n) v (h n)

/-- An image loaded into a K-engine resets its block (R82). -/
theorem kLoad_sifts (b : FwBank) (restart : Bool) : ModeSifted s (s.kLoad n b restart) := by
  have reset := (loadBodies_hidden s (kEng n) (4 * b.word 4) (4 * b.word 5) b.byte).sifted (engineBlockReset_sifts _ n)
  unfold State.kLoad
  dsimp only
  generalize (s.loadBodies (kEng n) (4 * b.word 4) (4 * b.word 5) b.byte).engineBlockReset (kEng n) = u at reset ⊢
  refine reset.kept ?_
  have image : ∀ e : Engine, ModeKept u (u.setEng (kEng n) e) := fun _ => modeKept_hidden rfl rfl
  generalize ({ Engine.reset with image := _, pc := _ } : Engine) = e
  refine (image e).trans ?_
  generalize u.setEng (kEng n) e = v
  exact ((((((modeKept_engine v n R.ENG_MEAS _ (by decide)).trans (modeKept_engine _ n R.ENG_IMG_VER _ (by decide))).trans
    (modeKept_engine _ n R.ENG_IMG_LEN_IMEM_WORDS _ (by decide))).trans (modeKept_engine _ n R.ENG_IMG_LEN_DMEM_WORDS _ (by decide))).trans
    (modeKept_engine _ n R.ENG_STAT_MEAS_VALID _ (by decide))).trans (modeKept_engine _ n R.ENG_CTRL_RUN _ (by decide))).trans
    (modeKept_engine _ n R.ENG_STAT_STATE _ (by decide))

end load

/-! ### COMMIT_FW -/

/-- The image in its bank. -/
def State.fwStored (s : State) (bank : Fin 2) (b : FwBank) : State := { s with kspi := { s.kspi with fwBank := s.kspi.fwBank.set bank b } }

/-- The change counted and recorded. -/
def State.fwLogged (s : State) (c : MbCmd) (change : List Byte) : State :=
  (s.bumpW R.KNL_SEAL_CNT).mbRecord c 0x0010 (s.bumpW R.KNL_SEAL_CNT).recFlags change

theorem modeKept_memPut (s : State) (lo : Nat) (cells : List Host.Cell) : ModeKept s (s.memPut lo cells) := by
  have byte : ∀ (u : State) (a : Nat) (x : Byte), ModeKept u (u.setByte a x) := fun u a x => by
    unfold State.setByte
    exact ModeKept.ite (modeKept_hidden rfl rfl) (.refl u)
  unfold State.memPut
  induction cells generalizing s with
  | nil => exact .refl s
  | cons c l ih => exact (byte s (lo + c.1) c.2).trans (ih _)

theorem modeKept_kPutArea (s : State) (n : Fin 2) (cells : List Host.Cell) : ModeKept s (s.kPutArea n cells) := by
  have cut : ModeKept s (s.memCut (kArea n) (kArea n + 0x4000)) := modeKept_hidden rfl rfl
  exact cut.trans (modeKept_memPut _ _ _)

/-- The checkpoint copied to a K-engine. -/
def State.fwRestored (s : State) (n : Fin 2) : State :=
  match s.ckpt with
  | some k => s.kPutArea n (if n = 0 then k.area0 else k.area1)
  | none => s

section commit

variable {s : State} {c : MbCmd}

/-- The state whose second a trial counts from. -/
def State.fwTrial (s : State) (c : MbCmd) (bank n : Fin 2) (b : FwBank) (change : List Byte) : State :=
  (((((s.fwStored bank b).fwLogged c change).kLoad n b true).fwRestored n).setFlag R.KNL_SEAL_STAT_TRIAL 0 true)

theorem cmdCommitFw_takes (fits : leAt c.payload 32 4 ≤ 0x40000) (hash : slice c.payload 0 32 = sha256 (s.staged (leAt c.payload 32 4)))
    (audit : s.auditOver = false) : ∃ (bank n : Fin 2) (b : FwBank) (change : List Byte) (q : KPair),
      q.trialEnd = (s.fwTrial c bank n b change).rtSec + (s.fwTrial c bank n b change).get R.KNL_TRIAL_TIME
      ∧ s.cmdCommitFw c = (rOk, [], (s.fwTrial c bank n b change).setPair q) := by
  unfold State.cmdCommitFw
  extract_lets len img bank b _ s1 n pub change s2 s3 s4 s5 s6 _ s7
  rw [if_neg (Nat.not_lt.mpr fits), if_neg (not_not.mpr hash), if_neg (by rw [audit]; exact Bool.false_ne_true)]
  have stored : s1 = s.fwStored bank b := rfl
  have logged : s3 = s1.fwLogged c change := rfl
  have loaded : s4 = s3.kLoad n b true := rfl
  have restored : s5 = s4.fwRestored n := rfl
  have marked : s6 = s5.setFlag R.KNL_SEAL_STAT_TRIAL 0 true := rfl
  have trial : s6 = s.fwTrial c bank n b change := by
    unfold State.fwTrial
    rw [marked, restored, loaded, logged, stored]
  refine ⟨bank, n, b, change, { s6.knl.pair with trial := some n, trialEnd := s6.rtSec + s6.get R.KNL_TRIAL_TIME, trialCounter := c.counter, trialChange := change },
    ?_, ?_⟩
  · rw [← trial]
  · rw [← trial]

theorem fwTrial_sifts (room : s.room 1) (bank n : Fin 2) (b : FwBank) (change : List Byte) : ModeSifted s (s.fwTrial c bank n b change) := by
  have stored : ModeKept s (s.fwStored bank b) := modeKept_hidden rfl rfl
  have roomStored : (s.fwStored bank b).room 1 := room
  unfold State.fwTrial
  generalize s.fwStored bank b = u at stored roomStored ⊢
  have counted : Within (· == 0x1000004) u (u.bumpW R.KNL_SEAL_CNT) := within_set _ _ _ _ (by decide)
  have roomCounted : (u.bumpW R.KNL_SEAL_CNT).room 1 := by
    unfold State.room State.unexported
    rw [counted.get _ _ (by decide), counted.kspi]
    exact roomStored
  have logged : ModeKept u (u.fwLogged c change) := (modeKept_set u R.KNL_SEAL_CNT 0 _ (by decide)).trans (modeKept_mbRecord roomCounted _ _ _ _)
  generalize u.fwLogged c change = v at logged ⊢
  have loaded := kLoad_sifts v n b true
  generalize v.kLoad n b true = w at loaded ⊢
  have restored : ModeKept w (w.fwRestored n) := by
    unfold State.fwRestored
    split
    · exact modeKept_kPutArea w n _
    · exact .refl w
  exact ((stored.trans logged).sifted loaded).kept (restored.trans (modeKept_set _ R.KNL_SEAL_STAT_TRIAL 0 _ (by decide)))

end commit

/-! ### A command that passes its checks -/

section run

variable {s s1 : State} {b : Fin 4}

theorem mbRun_passes {p : Nat → Bool} {f : MbCmd → State → Nat × List Byte × State} {resp : List Byte} {t : State} (front : s.knl.order.head? = some b)
    (op : p (s.mbCmd b).op = true) (notStep : (s.mbCmd b).op ≠ 0x30) (fresh : s.mbState b ≠ 3) (saves : s.saveRuns = false) (checks : s.mbChecks b = (0, s1))
    (takes : f (s.mbCmd b) s1 = (rOk, resp, t)) : s.mbRun p f true = t.mbFinish b rOk resp := by
  obtain ⟨l, order⟩ : ∃ l, s.knl.order = b :: l := by
    cases h : s.knl.order with
    | nil => rw [h] at front; cases front
    | cons x l => rw [h] at front; exact ⟨l, by rw [Option.some.inj front]⟩
  unfold State.mbRun
  rw [order]
  dsimp only
  rw [if_neg (by simp [op, fresh, saves]), checks]
  simp only [takes]
  rw [if_neg (by simp [notStep]), if_neg (by decide)]

theorem kinNote_pair (s : State) (typ : Nat) : (s.kinNote typ).knl.pair = s.knl.pair := by
  have event : ∀ (u : State) (n : Fin 12) (b : Nat), (u.event n b).knl = u.knl := event_knl
  unfold State.kinNote State.kinPut
  dsimp only
  split
  · show (s.drawn.bump R.KNL_KIN_STAT).knl.pair = _
    rw [State.bump, State.set_knl]
    rfl
  · show ((((State.set _ R.KNL_KIN_WR_OFFSET 0 _).event 0 5).event 1 5).knl.pair) = _
    rw [event, event, State.set_knl]
    rfl

/-- The end of a command leaves the K-pair. -/
theorem mbFinish_pair (s : State) (b : Fin 4) (code : Nat) (resp : List Byte) : (s.mbFinish b code resp).knl.pair = s.knl.pair := by
  have coded : (s.setWord (mbAddr b + 0x3B0) (BitVec.ofNat 32 code)).knl = s.knl := by
    obtain ⟨r, hr⟩ := setWord_regs s (mbAddr b + 0x3B0) (BitVec.ofNat 32 code)
    rw [hr]
  unfold State.mbFinish
  dsimp only
  generalize s.setWord (mbAddr b + 0x3B0) (BitVec.ofNat 32 code) = u at coded ⊢
  have answered : (if resp.isEmpty = true then u else u.setWordsN (mbAddr b + 0x3B4) (ofLe resp) 19).knl = s.knl := by
    split
    · exact coded
    · obtain ⟨r, hr⟩ := setWordsN_regs u (mbAddr b + 0x3B4) (ofLe resp) 19
      rw [hr]
      exact coded
  generalize (if resp.isEmpty = true then u else u.setWordsN (mbAddr b + 0x3B4) (ofLe resp) 19) = v at answered ⊢
  have stamped : ((v.setMbState b 4).mbStamp b).knl.pair = s.knl.pair := by
    show (v.setMbState b 4).knl.pair = _
    rw [State.setMbState, State.set_knl, answered]
  generalize (v.setMbState b 4).mbStamp b = w at stamped ⊢
  have noted := (kinNote_pair w 8).trans stamped
  generalize w.kinNote 8 = x at noted ⊢
  have observed := within_obs x 0x0A 5 1
  have seen : (x.obs 0x0A 5).knl.pair = s.knl.pair := by rw [observed.knl]; exact noted
  generalize x.obs 0x0A 5 = y at seen ⊢
  have dropped : ∀ l : List (Fin 4), (State.irq { y with knl := { y.knl with order := l } } 18).knl.pair = y.knl.pair := fun l => by
    have asked := within_irq (p := fun a => decide (0x500030 ≤ a)) { y with knl := { y.knl with order := l } } 18 rfl rfl
    rw [asked.knl]
  exact (dropped _).trans seen

end run

end Sys2Proof.Machine

/-! ## A mode word listed twice (R12, R65, R70) -/

namespace Sys2Proof.Machine

/-- COMMIT_FW of an empty image at the front, sent by PF0 under the key of slot 0; the word of the time mode is listed twice, at its reset entry and
then in LC, whose set stands at second 2^20. -/
def modeTwice : State :=
  { State.reset with
    regs := [(0x100010, 0x3), (0x1000204, 0x2), (0x1000400, 0x240012), (0x1000408, 0x1), (0x1000410, 0x42c4b0e3), (0x1000414, 0x141cfc98), (0x1000418, 0xc8f4fb9a),
      (0x100041c, 0x24b96f99), (0x1000420, 0xe441ae27), (0x1000424, 0x4c939b64), (0x1000428, 0x1b9995a4), (0x100042c, 0x55b85278), (0x1000790, 0xecb2f05f),
      (0x1000794, 0xa1d73f21), (0x1000798, 0x7da23856), (0x100079c, 0x5b21d629), (0x10007a0, 0x3d5f55e7), (0x10007a4, 0xccbf904f), (0x10007a8, 0xea076b65),
      (0x10007ac, 0x70e57e2b), (0x1002000, 0), (0x1002000, 1)]
    knl := { KnlSt.reset with order := [0], owner := KnlSt.reset.owner.set 0 (some (.pf 0)) }
    sec := { SecSt.factory with slotA := SecSt.factory.slotA.set 0 (some { value := 0, attr := 0x10705, gen := 1, tag := 0xcc033ce9de3383cf659061429767123a }) }
    time := { State.reset.time with cset := { ofs := 0x100000000000000000, anchor := 0, rate := 0 } } }
theorem modeTwice_front : modeTwice.knl.order.head? = some 0 ∧ modeTwice.saveRuns = false ∧ modeTwice.mbState 0 ≠ 3 ∧ (modeTwice.mbCmd 0).op = 0x12
    ∧ leAt (modeTwice.mbCmd 0).payload 32 4 = 0 ∧ slice (modeTwice.mbCmd 0).payload 0 32 = sha256 [] := by decide +kernel

/-- The checks pass, in SN_BOOT at second 0, with a trial of 600 s. -/
theorem modeTwice_passes : (modeTwice.mbChecks 0).1 = 0 ∧ ((modeTwice.mbChecks 0).2.unexported + 1) * 100 ≤ 95 * logCap
    ∧ (modeTwice.mbChecks 0).2.rtSec = 0 ∧ (modeTwice.mbChecks 0).2.get R.KNL_TRIAL_TIME = 600
    ∧ secOf (rtOf (modeTwice.mbChecks 0).2.time.cset (modeTwice.mbChecks 0).2.time.lc) = 2 ^ 20
    ∧ (modeTwice.mbChecks 0).2.modeEntries = [(0x1002000, 0), (0x1002000, 1)] := by decide +kernel

section trial

variable {s t : State}

theorem sget_filter_key (l : List (Nat × Word)) (a : Nat) : sget l a = sget (l.filter fun x => x.1 == a) a := by
  rw [sget_filter_keys (· == a), beq_self_eq_true, if_pos rfl]

/-- A load that drops the entry of SN_BOOT shows the second entry: the time is that of LC. -/
theorem rtSec_sifted (h : ModeSifted s t) (entries : s.modeEntries = [(0x1002000, 0), (0x1002000, 1)]) : t.rtSec = secOf (rtOf s.time.cset s.time.lc) := by
  have left : t.modeEntries = [(0x1002000, 1)] := by
    rw [h.entries, entries]
    decide +kernel
  have word : t.word 0x1002000 = 1 := by
    rw [word_of_regs rfl, sget_filter_key, show t.regs.filter (fun x => x.1 == 0x1002000) = [(0x1002000, 1)] from left]
    rfl
  have lc : t.inLc = true := (inLc_iff t).mpr ((get_single t rfl).trans (congrArg (fun w : Word => bits w.toNat 0 2) word))
  rw [State.rtSec, if_pos lc, rt_inLc lc, h.time]

end trial

theorem exec_mbxCommitFw (s : State) (kspiOk : Bool) : exec (.mbxCommitFw kspiOk) s = .next (s.mbRun (· == 0x12) State.cmdCommitFw kspiOk) := rfl

/-- Refutes O23, in the clause of COMMIT_FW: nothing in the statement asks for a canonical state. In `modeTwice` the trial should end 600 s after
second 0; but the load of the K-engine drops the first of the two entries of the time mode, the mode reads LC by the second, and the trial ends 600 s
after second 2^20. -/
theorem not_mailboxCommands : ¬ Obligations.MailboxCommands := by
  unfold Obligations.MailboxCommands
  intro commands
  obtain ⟨front, saves, fresh, op, none_, hash⟩ := modeTwice_front
  obtain ⟨code, room, second, trialTime, late, entries⟩ := modeTwice_passes
  rcases checks : modeTwice.mbChecks 0 with ⟨passed, s1⟩
  rw [checks] at code room second trialTime late entries
  dsimp only at code room second trialTime late entries
  subst code
  have empty : s1.staged (leAt (modeTwice.mbCmd 0).payload 32 4) = [] := by rw [none_]; rfl
  obtain ⟨-, -, commit, -⟩ := commands modeTwice s1 0 front saves fresh checks room
  obtain ⟨-, taken⟩ := commit op (by rw [none_]; decide)
  obtain ⟨-, t, e, -, -, -, ends, -⟩ := taken (by rw [empty, hash])
  have audit : s1.auditOver = false := decide_eq_false (Nat.not_lt.mpr (Nat.le_trans (Nat.mul_le_mul_right _ (Nat.le_succ _)) room))
  obtain ⟨bank, n, b, change, q, trialEnd, commits⟩ := cmdCommitFw_takes (s := s1) (c := modeTwice.mbCmd 0) (by rw [none_]; decide) (by rw [empty, hash]) audit
  have runs := mbRun_passes (p := (· == 0x12)) front (by rw [op]; rfl) (by rw [op]; decide) fresh saves checks commits
  have sifts := fwTrial_sifts (c := modeTwice.mbCmd 0) room bank n b change
  rw [exec_mbxCommitFw, runs] at e
  have final : q.trialEnd = 600 := by
    rw [second, trialTime, ← Host.Outcome.next.inj e, mbFinish_pair] at ends
    exact ends
  rw [trialEnd, rtSec_sifted sifts entries, late] at final
  omega

end Sys2Proof.Machine

/-! ## The host's acknowledgement is kept in the flash (R74, R85) -/

namespace Sys2Proof.Machine

theorem exec_auditAckWrite (s : State) (m : Master) (v : Word) : exec (.auditAckWrite m v) s = .next (s.busWrite32 m (R.KNL_AUDIT_ACK.at 0) v) := rfl

/-- After reset PF0 reaches KNL_AUDIT_ACK, the event log is empty, and the flash holds the acknowledgement 0. -/
theorem reset_auditAck : State.reset.writes (.pf 0) (R.KNL_AUDIT_ACK.at 0) ∧ State.reset.kspi.events = [] ∧ State.reset.kspi.ack = 0 := by
  unfold State.writes
  decide +kernel

/-- An acknowledgement of SEQ 1 stands in the flash once it is written: KNL_AUDIT_ACK is kept from KSPI across a Cold reset (R85). -/
theorem reset_auditAckWrite_ack : (State.reset.busWrite32 (.pf 0) (R.KNL_AUDIT_ACK.at 0) 1).kspi.ack = 1 := by
  decide +kernel

/-- Refutes O24, in its clause of the host's acknowledgement: KNL_AUDIT_ACK is kept in KSPI, so a write of a new value changes the flash, of which
the clause asks that it stay. PF0 writes 1 after reset: the event log is empty, far below 95 %, and the acknowledgement in the flash goes from 0 to 1. -/
theorem not_kernelPairBootAndLog : ¬ Obligations.KernelPairBootAndLog := by
  unfold Obligations.KernelPairBootAndLog
  rintro ⟨-, boot⟩
  obtain ⟨-, -, -, acknowledged⟩ := boot State.reset
  obtain ⟨writes, empty, kept⟩ := reset_auditAck
  obtain ⟨below, -⟩ := acknowledged (.pf 0) 1 writes
  obtain ⟨t, e, -, -, -, -, flash, -⟩ := below (by rw [empty, List.countP_nil]; decide)
  rw [exec_auditAckWrite] at e
  have written : t.kspi.ack = 1 := by rw [← Host.Outcome.next.inj e]; exact reset_auditAckWrite_ack
  rw [flash, kept] at written
  exact absurd written (by decide)

end Sys2Proof.Machine

/-! ## The buffers of the mailbox (R62, R63) -/

namespace Sys2Proof.Machine

/-- Buffer `b` ends in a state with a claimant, and every other buffer stays. -/
structure Moved (s t : State) (b : Fin 4) (v : Nat) (o : Option Master) : Prop where
  state : t.mbState b = v
  owner : t.mbOwner b = o
  others : ∀ k : Fin 4, k ≠ b → t.mbState k = s.mbState k ∧ t.mbOwner k = s.mbOwner k

section buffers

variable {r s t u : State} {b k : Fin 4} {v w : Nat} {o p : Option Master}

theorem mbState_of_get (h : t.get R.KNL_MBX_STAT_BUF_STATE = s.get R.KNL_MBX_STAT_BUF_STATE) (k : Fin 4) : t.mbState k = s.mbState k := by
  unfold State.mbState
  rw [h]

theorem mbState_of_word (h : t.word 0x1000204 = s.word 0x1000204) (k : Fin 4) : t.mbState k = s.mbState k := mbState_of_get (get_of_word rfl h) k

theorem mbOwner_of_knl (h : t.knl.owner = s.knl.owner) (k : Fin 4) : t.mbOwner k = s.mbOwner k := by
  unfold State.mbOwner
  rw [h]

theorem get_setMbState (s : State) (b : Fin 4) (v : Nat) :
    (s.setMbState b v).get R.KNL_MBX_STAT_BUF_STATE = setBits (s.get R.KNL_MBX_STAT_BUF_STATE) (3 * b) 3 v := by
  have old : s.get R.KNL_MBX_STAT_BUF_STATE < 2 ^ 12 := Nat.mod_lt _ (by decide)
  have new : setBits (s.get R.KNL_MBX_STAT_BUF_STATE) (3 * b) 3 v < 2 ^ 12 := setBits_lt v old (by omega)
  exact (get_set_own s _ rfl).trans (Nat.mod_eq_of_lt new)

theorem moved_setMbState (s : State) (b : Fin 4) (hv : v < 8) : Moved s (s.setMbState b v) b v (s.mbOwner b) := by
  have owners : (s.setMbState b v).knl.owner = s.knl.owner := by rw [State.setMbState, State.set_knl]
  refine ⟨?_, mbOwner_of_knl owners b, fun k hk => ⟨?_, mbOwner_of_knl owners k⟩⟩
  · unfold State.mbState
    rw [get_setMbState, bits_setBits_same]
    exact Nat.mod_eq_of_lt hv
  · unfold State.mbState
    rw [get_setMbState, bits_setBits_ne]
    have : k.val ≠ b.val := fun e => hk (Fin.ext e)
    omega

theorem moved_setMbOwner (s : State) (b : Fin 4) (o : Option Master) : Moved s (s.setMbOwner b o) b (s.mbState b) o := by
  have states : ∀ k, (s.setMbOwner b o).mbState k = s.mbState k := mbState_of_word rfl
  refine ⟨states b, ?_, fun k hk => ⟨states k, ?_⟩⟩
  · exact Vector.getElem_set_self _
  · exact Vector.getElem_set_ne b.isLt k.isLt fun e => hk (Fin.ext e.symm)

theorem Moved.trans (h : Moved r s b v o) (k : Moved s t b w p) : Moved r t b w p := by
  refine ⟨k.state, k.owner, fun j hj => ?_⟩
  obtain ⟨state, owner⟩ := h.others j hj
  obtain ⟨state', owner'⟩ := k.others j hj
  exact ⟨state'.trans state, owner'.trans owner⟩

/-- The buffers of a state stand in another that has its BUF_STATE and its claimants. -/
theorem Moved.kept (h : Moved s t b v o) (state : u.get R.KNL_MBX_STAT_BUF_STATE = t.get R.KNL_MBX_STAT_BUF_STATE) (owner : u.knl.owner = t.knl.owner) :
    Moved s u b v o := by
  have states := mbState_of_get state
  have owners := mbOwner_of_knl owner
  exact ⟨(states b).trans h.state, (owners b).trans h.owner, fun k hk => by rw [states k, owners k]; exact h.others k hk⟩

theorem Moved.of_quiet (h : Moved s.quiet t b v o) : Moved s t b v o := ⟨h.state, h.owner, h.others⟩

/-- A buffer that becomes FREE has no claimant. -/
theorem moved_mbFree (s : State) (b : Fin 4) : Moved s (s.mbFree b) b 0 none := by
  have freed := moved_setMbState s b (v := 0) (by decide)
  have released := freed.trans (moved_setMbOwner (s.setMbState b 0) b none)
  rw [freed.state] at released
  exact released

/-! ### Claims -/

/-- A claim takes the lowest buffer that is FREE. -/
theorem mbClaim_lowest {m : Master} (may : mayClaim m = true) (free : s.mbState k = 0) (lower : ∀ j : Fin 4, j < k → s.mbState j ≠ 0) :
    s.mbClaim m = (k.val, ((s.setMbState k 1).setMbOwner k (some m)).mbStamp k) := by
  have cut : ∀ k : Fin 4, [0, 1, 2, 3] = [0, 1, 2, 3].take k.val ++ k :: [0, 1, 2, 3].drop (k.val + 1) := by decide
  have below : ∀ k : Fin 4, ∀ j ∈ ([0, 1, 2, 3] : List (Fin 4)).take k.val, j < k := by decide
  have found : ([0, 1, 2, 3] : List (Fin 4)).find? (fun b => mayClaim m && s.mbState b == 0) = some k := by
    refine List.find?_eq_some_iff_append.mpr ⟨by rw [may, free]; rfl, _, _, cut k, fun j hj => ?_⟩
    rw [may, beq_eq_false_iff_ne.mpr (lower j (below k j hj))]
    rfl
  unfold State.mbClaim
  rw [found]

/-- Without a FREE buffer, or of a master that cannot claim, a claim changes nothing. -/
theorem mbClaim_none {m : Master} (h : mayClaim m = false ∨ ∀ k : Fin 4, s.mbState k ≠ 0) : s.mbClaim m = (0xF, s) := by
  have none_ : ([0, 1, 2, 3] : List (Fin 4)).find? (fun b => mayClaim m && s.mbState b == 0) = none := by
    refine List.find?_eq_none.mpr fun k _ => ?_
    rcases h with not | busy
    · rw [not, Bool.false_and]
      decide
    · rw [beq_eq_false_iff_ne.mpr (busy k), Bool.and_false]
      decide
  unfold State.mbClaim
  rw [none_]

theorem moved_claim (s : State) (k : Fin 4) (m : Master) : Moved s (((s.setMbState k 1).setMbOwner k (some m)).mbStamp k) k 1 (some m) := by
  have claimed := moved_setMbState s k (v := 1) (by decide)
  have owned := claimed.trans (moved_setMbOwner (s.setMbState k 1) k (some m))
  rw [claimed.state] at owned
  exact owned.kept rfl rfl

theorem exec_mbxClaim {m : Master} (ha : s.answers m = true) (hr : s.rights m R.KNL_MBX_CLAIM.addr ≠ .unmapped) :
    exec (.mbxClaim m) s = .next ((s.mbClaim m).2.reply (BitVec.ofNat 32 (s.mbClaim m).1)) :=
  congrArg Host.Outcome.next ((busRead32_reg ha rfl hr (engMem_below (by decide))).trans (if_pos rfl))

/-! ### GO and REL -/

/-- A write of a word of the Kennel that has a behaviour of its own. -/
theorem busWrite32_preKnl {m : Master} {a : Nat} {v : Word} (h : s.writes m a) (aligned : a % 4 = 0) (below : a < 0x4000000) (single : writeGroup a = none)
    (noEnable : enableAt a = none) (noPort : R.PRT_CFG_ENABLE.hit 64 a = none) (host : s.quiet.preHost m a v = none) (own : s.quiet.preKnl m a v = some t) :
    s.busWrite32 m a v = t.irqFollow s.quiet := by
  have hr := rights_of_writes h
  obtain ⟨ha, -, hm⟩ := h
  have taken : s.quiet.wordWrite m a v (s.writeMask m a) = t := by
    unfold State.wordWrite
    rw [host, own]
  rw [busWrite32_open ha aligned v hr (engMem_below below) hm, enabledWrite_single single noEnable noPort, taken]

theorem exec_mbxGoWrite {m : Master} (v : Word) (h : s.writes m (R.KNL_MBX_GO.at 0)) : exec (.mbxGoWrite m v) s = .next ((s.quiet.mbGo m v).irqFollow s.quiet) :=
  congrArg Host.Outcome.next (busWrite32_preKnl h rfl (by decide) rfl rfl rfl rfl rfl)

theorem exec_mbxRelWrite {m : Master} (v : Word) (h : s.writes m (R.KNL_MBX_REL.at 0)) : exec (.mbxRelWrite m v) s = .next ((s.quiet.mbRel m v).irqFollow s.quiet) :=
  congrArg Host.Outcome.next (busWrite32_preKnl h rfl (by decide) rfl rfl rfl rfl rfl)

/-- The interrupts that follow leave the buffers. -/
theorem Moved.irqFollow (h : Moved s t b v o) (u : State) : Moved s (t.irqFollow u) b v o :=
  have follow := within_irqFollow t u
  h.kept (follow.get _ _ (by decide)) (by rw [follow.knl])

/-- The claimant's GO queues its buffer behind those before it. -/
theorem mbGo_claimed {m : Master} {v : Word} (claimed : s.mbState (bufOf v) = 1) (owner : s.mbOwner (bufOf v) = some m) :
    Moved s (s.mbGo m v) (bufOf v) 2 (some m) ∧ (s.mbGo m v).knl.order = s.knl.order ++ [bufOf v] := by
  have queued := moved_setMbState s (bufOf v) (v := 2) (by decide)
  rw [owner] at queued
  have knl : (s.setMbState (bufOf v) 2).knl = s.knl := State.set_knl ..
  unfold State.mbGo
  dsimp only
  rw [if_pos (by simp [claimed, owner])]
  exact ⟨queued.kept rfl rfl, by rw [knl]⟩

theorem mbGo_ignored {m : Master} {v : Word} (h : s.mbState (bufOf v) ≠ 1 ∨ s.mbOwner (bufOf v) ≠ some m) : s.mbGo m v = s := by
  unfold State.mbGo
  exact if_neg (by simpa [← not_and_or] using h)

theorem mbRel_done {m : Master} {v : Word} (done : s.mbState (bufOf v) = 4) (owner : s.mbOwner (bufOf v) = some m) : s.mbRel m v = s.mbFree (bufOf v) := by
  unfold State.mbRel
  exact if_pos (by simp [done, owner])

end buffers

/-! ### What expires -/

section expiry

variable {s : State} {k : Fin 4}

/-- A counter that saturates rises by one until it is full. -/
theorem get_bump_own {f : Fld} {i : Nat} (s : State) (h : f.own i = true) : (s.bump f i).get f i = Nat.min (s.get f i + 1) (2 ^ f.width - 1) := by
  have full : 2 ^ f.width - 1 < 2 ^ f.width := Nat.sub_lt (by positivity) (by decide)
  exact (get_set_own s _ h).trans (Nat.mod_eq_of_lt (lt_of_le_of_lt (Nat.min_le_right ..) full))

theorem exec_claimExpiry_due (claimed : s.mbState k = 1) (due : s.past s.knl.mbAt[k] 1 10 = true) :
    exec (.claimExpiry k) s = .next ((s.mbFree k).bump R.KNL_MBX_STAT_CLAIM_EXPIRED) :=
  congrArg Host.Outcome.next (when_of_true _ (by rw [claimed, due]; rfl))

theorem exec_claimExpiry_none (h : s.mbState k ≠ 1 ∨ s.past s.knl.mbAt[k] 1 10 = false) : exec (.claimExpiry k) s = .next s :=
  congrArg Host.Outcome.next (when_of_false _ (Bool.and_eq_false_iff.mpr (h.imp_left beq_eq_false_iff_ne.mpr)))

theorem exec_doneExpiry_due (done : s.mbState k = 4) (due : s.past s.knl.mbAt[k] 1 = true) : exec (.doneExpiry k) s = .next (s.mbFree k) :=
  congrArg Host.Outcome.next (when_of_true _ (by rw [done, due]; rfl))

theorem exec_doneExpiry_none (h : s.mbState k ≠ 4 ∨ s.past s.knl.mbAt[k] 1 = false) : exec (.doneExpiry k) s = .next s :=
  congrArg Host.Outcome.next (when_of_false _ (Bool.and_eq_false_iff.mpr (h.imp_left beq_eq_false_iff_ne.mpr)))

theorem mbFree_claimExpired (s : State) (k : Fin 4) : (s.mbFree k).get R.KNL_MBX_STAT_CLAIM_EXPIRED = s.get R.KNL_MBX_STAT_CLAIM_EXPIRED :=
  (get_of_words (t := s.mbFree k) (s := s.setMbState k 0) (fun _ => rfl) _ _).trans
    (get_set_parted (f := R.KNL_MBX_STAT_BUF_STATE) (i := 0) (g := R.KNL_MBX_STAT_CLAIM_EXPIRED) (j := 0) s _ rfl)

/-- A claim that expires frees the buffer and counts (R62). -/
theorem claimExpiry_counts (s : State) (k : Fin 4) : Moved s ((s.mbFree k).bump R.KNL_MBX_STAT_CLAIM_EXPIRED) k 0 none
    ∧ ((s.mbFree k).bump R.KNL_MBX_STAT_CLAIM_EXPIRED).get R.KNL_MBX_STAT_CLAIM_EXPIRED = Nat.min (s.get R.KNL_MBX_STAT_CLAIM_EXPIRED + 1) 255 := by
  refine ⟨(moved_mbFree s k).kept (get_set_parted _ _ rfl) (by rw [State.bump_knl]), ?_⟩
  rw [get_bump_own _ rfl, mbFree_claimExpired]
  rfl

/-- The state in which the refusals of R66 end. -/
def State.authUnlocked (s : State) : State := ({ s with knl := { s.knl with authAt := [] } }).setFlag R.KNL_MBX_STAT_AUTH_LOCK 0 false

theorem authUnlocked_open (s : State) : s.authUnlocked.flag R.KNL_MBX_STAT_AUTH_LOCK = false ∧ s.authUnlocked.knl.authAt = [] :=
  ⟨flag_setFlag_own _ _ rfl rfl, by rw [State.authUnlocked, State.setFlag_knl]⟩

theorem exec_authLockExpiry_due (locked : s.flag R.KNL_MBX_STAT_AUTH_LOCK = true) (due : s.past s.knl.lockAt 10 = true) :
    exec .authLockExpiry s = .next s.authUnlocked :=
  congrArg Host.Outcome.next (when_of_true State.authUnlocked (by rw [locked, due]; rfl))

theorem exec_authLockExpiry_none (h : s.flag R.KNL_MBX_STAT_AUTH_LOCK = false ∨ s.past s.knl.lockAt 10 = false) : exec .authLockExpiry s = .next s :=
  congrArg Host.Outcome.next (when_of_false State.authUnlocked (Bool.and_eq_false_iff.mpr h))

end expiry

end Sys2Proof.Machine

/-! ## The end of a mailbox command (R62, R68) -/

namespace Sys2Proof.Machine

/-- The code and the response of a command in its buffer. -/
def State.mbAnswered (s : State) (b : Fin 4) (code : Nat) (resp : List Byte) : State :=
  let s := s.setWord (mbAddr b + 0x3B0) (BitVec.ofNat 32 code)
  if resp.isEmpty then s else s.setWordsN (mbAddr b + 0x3B4) (ofLe resp) 19

/-- The buffer DONE, with the note to the K-engines and the count of OBS. -/
def State.mbDone (s : State) (b : Fin 4) : State := (((s.setMbState b 4).mbStamp b).kinNote 8).obs 0x0A 5

/-- The command leaves the GO order. -/
def State.mbPopped (s : State) : State := { s with knl := { s.knl with order := s.knl.order.drop 1 } }

theorem mbPopped_word (s : State) (a : Nat) : s.mbPopped.word a = s.word a := rfl

section finish

variable (s : State) (b : Fin 4) (code : Nat) (resp : List Byte)

theorem mbFinish_eq : s.mbFinish b code resp = ((s.mbAnswered b code resp).mbDone b).mbPopped.irq 18 := rfl

theorem mbAnswered_within : Within (fun a => decide (0x1000400 ≤ a)) s (s.mbAnswered b code resp) := by
  have above : ∀ x, decide (0x1000400 ≤ mbAddr b + x) = true := fun x => decide_eq_true (by unfold mbAddr; omega)
  have coded := within_setWord (p := fun a => decide (0x1000400 ≤ a)) s (BitVec.ofNat 32 code) (above 0x3B0)
  unfold State.mbAnswered
  refine coded.trans (within_ite (.refl _ _) (within_setWordsN _ _ _ _ fun k _ => ?_))
  rw [Nat.add_assoc]
  exact above _

/-- RESPONSE lies above RESULT, so the code stands (R64). -/
theorem mbAnswered_code : (s.mbAnswered b code resp).word (mbAddr b + 0x3B0) = BitVec.ofNat 32 code := by
  have listed : ∀ b : Fin 4, rwsOff (mbAddr b + 0x3B0) = none := by decide
  have coded := word_setWord_same (s := s) (BitVec.ofNat 32 code) (listed b)
  unfold State.mbAnswered
  dsimp only
  split
  · exact coded
  · rw [word_setWordsN_ne _ _ fun k _ => by omega]
    exact coded

theorem event_kspi (s : State) (n : Fin 12) (b : Nat) : (s.event n b).kspi = s.kspi := by
  unfold State.event
  dsimp only
  split <;> rfl

/-- A note to the K-engines leaves the flash and the GO order. -/
theorem kinNote_mailbox (s : State) (typ : Nat) : (s.kinNote typ).kspi = s.kspi ∧ (s.kinNote typ).knl.order = s.knl.order := by
  unfold State.kinNote State.kinPut
  dsimp only
  split
  · exact ⟨State.bump_kspi .., by rw [State.bump_knl, State.drawn_knl]⟩
  · rw [event_kspi, event_kspi, State.set_kspi, event_knl, event_knl, State.set_knl]
    exact ⟨rfl, rfl⟩

theorem mbDone_word {a : Nat} (h : 0x1000400 ≤ a ∧ a < 0x1001400) : (s.mbDone b).word a = s.word a := by
  have state : Within (· == 0x1000204) s (s.setMbState b 4) := within_set _ _ _ _ (by decide)
  obtain ⟨-, -, -, noted⟩ := kinNote_leaves ((s.setMbState b 4).mbStamp b) 8
  have uncounted : obsWord a = false := by
    simp only [obsWord, Bool.or_eq_false_iff, Bool.and_eq_false_iff, decide_eq_false_iff_not]
    omega
  calc (s.mbDone b).word a = (((s.setMbState b 4).mbStamp b).kinNote 8).word a := (within_obs _ _ _ _).word a uncounted
    _ = ((s.setMbState b 4).mbStamp b).word a := noted a (by omega) (by omega)
    _ = (s.setMbState b 4).word a := rfl
    _ = s.word a := state.word a (beq_eq_false_iff_ne.mpr (by omega))

theorem mbDone_mbState : (s.mbDone b).mbState b = 4 := by
  obtain ⟨-, -, -, noted⟩ := kinNote_leaves ((s.setMbState b 4).mbStamp b) 8
  calc (s.mbDone b).mbState b = (((s.setMbState b 4).mbStamp b).kinNote 8).mbState b := mbState_of_word ((within_obs _ _ _ _).word _ rfl) b
    _ = ((s.setMbState b 4).mbStamp b).mbState b := mbState_of_word (noted _ (by decide) (by decide)) b
    _ = (s.setMbState b 4).mbState b := mbState_of_word rfl b
    _ = 4 := (moved_setMbState s b (by decide)).state

theorem mbDone_mailbox : (s.mbDone b).kspi = s.kspi ∧ (s.mbDone b).knl.order = s.knl.order := by
  obtain ⟨flash, order⟩ := kinNote_mailbox ((s.setMbState b 4).mbStamp b) 8
  have counted := within_obs (((s.setMbState b 4).mbStamp b).kinNote 8) 0x0A 5 1
  refine ⟨counted.kspi.trans (flash.trans ?_), (congrArg KnlSt.order counted.knl).trans (order.trans ?_)⟩
  · exact State.set_kspi ..
  · show (s.setMbState b 4).knl.order = _
    rw [State.setMbState, State.set_knl]

/-- An interrupt source that is asked for is pending. -/
theorem irq_pends {src : Nat} (h : src < 64) : ((s.irq src).get R.HST_IRQ_PEND).testBit src = true := by
  have old : s.get R.HST_IRQ_PEND < 2 ^ R.HST_IRQ_PEND.width := Nat.mod_lt _ (by positivity)
  have new : s.get R.HST_IRQ_PEND ||| 2 ^ src < 2 ^ R.HST_IRQ_PEND.width := Nat.or_lt_two_pow old (Nat.pow_lt_pow_right (by decide) h)
  unfold State.irq
  dsimp only
  split
  · next pending => exact pending
  · rw [(within_msgAsk (p := fun _ => false) _ _).get _ _ fun _ _ => rfl, get_set_same _ (by unfold Fld.plain; decide), Nat.mod_eq_of_lt new, Nat.testBit_or,
      Nat.testBit_two_pow_self, Bool.or_true]

/-- The interrupt of a command that ends leaves every word but its own. -/
theorem mbFinish_asks : Within pendWord ((s.mbAnswered b code resp).mbDone b).mbPopped (s.mbFinish b code resp) := within_irq _ _ rfl rfl

theorem mbFinish_code : (s.mbFinish b code resp).word (mbAddr b + 0x3B0) = BitVec.ofNat 32 code := by
  have at_ : mbAddr b = 0x1000400 + b.val * 0x400 := rfl
  have silent : pendWord (mbAddr b + 0x3B0) = false := pendWord_apart (by omega)
  calc (s.mbFinish b code resp).word (mbAddr b + 0x3B0) = ((s.mbAnswered b code resp).mbDone b).mbPopped.word (mbAddr b + 0x3B0) :=
        (mbFinish_asks s b code resp).word _ silent
    _ = ((s.mbAnswered b code resp).mbDone b).word (mbAddr b + 0x3B0) := mbPopped_word _ _
    _ = (s.mbAnswered b code resp).word (mbAddr b + 0x3B0) := mbDone_word _ b (by omega)
    _ = BitVec.ofNat 32 code := mbAnswered_code s b code resp

theorem mbFinish_mbState : (s.mbFinish b code resp).mbState b = 4 :=
  (mbState_of_word ((mbFinish_asks s b code resp).word _ rfl) b).trans ((mbState_of_word (mbPopped_word _ _) b).trans (mbDone_mbState _ b))

theorem mbFinish_mailbox : (s.mbFinish b code resp).kspi = s.kspi ∧ (s.mbFinish b code resp).knl.order = s.knl.order.drop 1 := by
  have asked := mbFinish_asks s b code resp
  have answered := mbAnswered_within s b code resp
  obtain ⟨flash, order⟩ := mbDone_mailbox (s.mbAnswered b code resp) b
  refine ⟨asked.kspi.trans (flash.trans answered.kspi), ?_⟩
  rw [asked.knl]
  show ((s.mbAnswered b code resp).mbDone b).knl.order.drop 1 = _
  rw [order, answered.knl]

end finish

end Sys2Proof.Machine

/-! ## The course of a mailbox command (R65, R67, R68) -/

namespace Sys2Proof.Machine

section course

variable {s s1 t : State} {b : Fin 4} {p : Nat → Bool} {f : MbCmd → State → Nat × List Byte × State} {kspiOk : Bool} {code : Nat} {resp : List Byte}

/-- A command at the front that a check refuses ends with the code of the check. -/
theorem mbRun_refused (front : s.knl.order.head? = some b) (saves : s.saveRuns = false) (fresh : s.mbState b ≠ 3) (op : p (s.mbCmd b).op = true)
    (checks : s.mbChecks b = (code, s1)) (failed : code ≠ 0) : s.mbRun p f kspiOk = s1.mbFinish b code [] := by
  obtain ⟨l, order⟩ := List.head?_eq_some_iff.mp front
  unfold State.mbRun
  rw [order]
  refine (if_neg (by simp [op, fresh, saves])).trans ?_
  rw [checks]
  split
  · next e => exact absurd (Prod.mk.inj e).1 failed
  · next e =>
    obtain ⟨rfl, rfl⟩ := Prod.mk.inj e
    rfl

/-- A command at the front that passes its checks ends with what it answers, or with KSPI_ERR where the flash fails it. -/
theorem mbRun_served (front : s.knl.order.head? = some b) (saves : s.saveRuns = false) (fresh : s.mbState b ≠ 3) (op : p (s.mbCmd b).op = true)
    (notStep : (s.mbCmd b).op ≠ 0x30) (checks : s.mbChecks b = (0, s1)) (serves : f (s.mbCmd b) s1 = (code, resp, t)) :
    s.mbRun p f kspiOk = if code = rOk && !kspiOk then s1.mbFinish b rKspiErr [] else t.mbFinish b code resp := by
  obtain ⟨l, order⟩ := List.head?_eq_some_iff.mp front
  unfold State.mbRun
  rw [order]
  refine (if_neg (by simp [op, fresh, saves])).trans ?_
  rw [checks]
  simp only [serves]
  exact if_neg (by simp [notStep])

/-- A command that needs no key has only its length and its state to pass. -/
theorem mbChecks_open (len : mbLenOk (leAt (s.mbBytes b) 0 1) (leAt (s.mbBytes b) 2 2) = true) (accepted : s.mbAccepted (leAt (s.mbBytes b) 0 1) = true)
    (noKey : mbUse (leAt (s.mbBytes b) 0 1) = none) : s.mbChecks b = (0, s) := by
  unfold State.mbChecks
  refine (if_neg (by rw [len]; decide)).trans ((if_neg (by rw [accepted]; decide)).trans ?_)
  rw [noKey]
  rfl

theorem mbChecks_badLen (len : mbLenOk (leAt (s.mbBytes b) 0 1) (leAt (s.mbBytes b) 2 2) = false) : s.mbChecks b = (rOpcode, s) := by
  unfold State.mbChecks
  refine if_pos ?_
  rw [len]
  rfl

/-- No length is right for an unknown opcode. -/
theorem mbLenOk_unknown {op : Nat} (len : Nat) (h : knownOp op = false) : mbLenOk op len = false := by
  unfold mbLenOk
  split
  case h_14 => rfl
  all_goals cases h

/-- STAGE and CHALLENGE are accepted where the life cycle has left BLANK, STAGE not in RETIRED either (R67). -/
theorem mbAccepted_stage (blank : s.get R.SEC_STATE_LC ≠ 0) (retired : s.get R.SEC_STATE_LC ≠ 4) : s.mbAccepted 1 = true := by
  unfold State.mbAccepted
  dsimp only
  rw [if_neg (by decide), if_neg (show ¬s.lc = 0 from blank), if_neg (by decide), if_neg (show ¬s.lc = 4 from retired)]
  rfl

theorem mbAccepted_challenge (blank : s.get R.SEC_STATE_LC ≠ 0) : s.mbAccepted 2 = true := by
  unfold State.mbAccepted
  dsimp only
  rw [if_neg (by decide), if_neg (show ¬s.lc = 0 from blank), if_pos rfl]

end course

/-! ### STAGE -/

/-- The cells of the staging area after bytes are put from an offset on (R67). -/
def stagedFrom (bs : List Byte) (off : Nat) (cells : List Host.Cell) : List Host.Cell :=
  (bs.foldl (fun (x : Nat × List Host.Cell) b => (x.1 + 1, sput (b == 0#8) x.1 b x.2)) (off, cells)).2

/-- The byte that a sparse area shows. -/
def cellAt (cells : List Host.Cell) (x : Nat) : Byte := (sget cells x).getD 0

theorem cellAt_sput (c : Byte) (off : Nat) (cells : List Host.Cell) (x : Nat) :
    cellAt (sput (c == 0#8) off c cells) x = if x = off then c else cellAt cells x := by
  unfold cellAt
  split
  · next e =>
    rw [e, sget_sput_same]
    by_cases zero : c = 0#8
    · rw [zero]
      rfl
    · rw [beq_eq_false_iff_ne.mpr zero]
      rfl
  · next e => rw [sget_sput_ne _ e]

theorem cellAt_stagedFrom (bs : List Byte) (off : Nat) (cells : List Host.Cell) (x : Nat) :
    cellAt (stagedFrom bs off cells) x = if off ≤ x ∧ x < off + bs.length then bs.getD (x - off) 0 else cellAt cells x := by
  induction bs generalizing off cells with
  | nil => exact (if_neg (by simp)).symm
  | cons c bs ih =>
    have step : stagedFrom (c :: bs) off cells = stagedFrom bs (off + 1) (sput (c == 0#8) off c cells) := rfl
    rw [step, ih, cellAt_sput, List.length_cons]
    rcases Nat.lt_trichotomy x off with below | rfl | above
    · rw [if_neg (by omega), if_neg (by omega), if_neg (by omega)]
    · rw [if_neg (by omega), if_pos rfl, if_pos (by omega), Nat.sub_self, List.getD_cons_zero]
    · have next_ : x - off = x - (off + 1) + 1 := by omega
      rw [if_neg (c := x = off) (by omega), next_, List.getD_cons_succ]
      by_cases inside : x < off + 1 + bs.length
      · rw [if_pos (by omega), if_pos (by omega)]
      · rw [if_neg (by omega), if_neg (by omega)]

/-- The state in which a payload of STAGE stands in the staging area. -/
def State.stagedIn (s : State) (c : MbCmd) : State :=
  { s with kspi := { s.kspi with staging := stagedFrom (c.payload.drop 4) (leAt c.payload 0 4) s.kspi.staging } }

section stage

variable (s : State) (b : Fin 4) (c : MbCmd)

theorem cmdStage_range (h : 0x40000 < leAt c.payload 0 4 + (c.payload.drop 4).length) : s.cmdStage c = (rRange, [], s) := if_pos h

theorem cmdStage_fits (h : leAt c.payload 0 4 + (c.payload.drop 4).length ≤ 0x40000) : s.cmdStage c = (rOk, [], s.stagedIn c) := if_neg (Nat.not_lt.mpr h)

/-- A buffer holds the whole payload that its length names, of which STAGE takes what follows the offset (R64, R67). -/
theorem stagePayload_length (h : leAt (s.mbBytes b) 2 2 ≤ 896) : ((s.mbCmd b).payload.drop 4).length = leAt (s.mbBytes b) 2 2 - 4 := by
  have held : (s.mbBytes b).length = 1024 := leBytes_length ..
  show ((slice (s.mbBytes b) 0x10 (leAt (s.mbBytes b) 2 2)).drop 4).length = _
  rw [List.length_drop, slice, List.length_take, List.length_drop, held]
  omega

theorem stagedIn_inside {i : Nat} (h : i < (c.payload.drop 4).length) :
    cellAt (s.stagedIn c).kspi.staging (leAt c.payload 0 4 + i) = c.payload.getD (4 + i) 0 := by
  refine (cellAt_stagedFrom _ _ _ _).trans ((if_pos (by omega)).trans ?_)
  rw [Nat.add_sub_cancel_left, List.getD_eq_getElem?_getD, List.getElem?_drop, ← List.getD_eq_getElem?_getD]

theorem stagedIn_outside {x : Nat} (h : x < leAt c.payload 0 4 ∨ leAt c.payload 0 4 + (c.payload.drop 4).length ≤ x) :
    cellAt (s.stagedIn c).kspi.staging x = cellAt s.kspi.staging x :=
  (cellAt_stagedFrom _ _ _ _).trans (if_neg (by omega))

end stage

/-! ### The commands that need no key -/

section keyless

variable {s : State} {b : Fin 4} (front : s.knl.order.head? = some b) (saves : s.saveRuns = false) (fresh : s.mbState b ≠ 3)
include front saves fresh

theorem exec_mbxStatus_front (op : leAt (s.mbBytes b) 0 1 = 0) (len : leAt (s.mbBytes b) 2 2 = 0) : exec .mbxStatus s
    = .next (s.mbFinish b 0 (leBytes 4 (s.word 0x1000000).toNat ++ leBytes 4 (s.get R.KNL_SEAL_CNT) ++ leBytes 4 (s.get R.KNL_MBX_CMD_CNT))) := by
  have cmd : (s.mbCmd b).op = 0 := op
  have checks : s.mbChecks b = (0, s) := mbChecks_open (by rw [op, len]; rfl) (by rw [op]; rfl) (by rw [op]; rfl)
  exact congrArg Host.Outcome.next ((mbRun_served (f := State.cmdStatus) front saves fresh (by rw [cmd]; rfl) (by rw [cmd]; decide) checks rfl).trans
    (if_neg (by simp)))

theorem exec_mbxChallenge_front (op : leAt (s.mbBytes b) 0 1 = 2) (len : leAt (s.mbBytes b) 2 2 = 32) (blank : s.get R.SEC_STATE_LC ≠ 0) :
    exec .mbxChallenge s = .next ((s.cmdChallenge (s.mbCmd b)).2.2.mbFinish b 0 (s.cmdChallenge (s.mbCmd b)).2.1) := by
  have cmd : (s.mbCmd b).op = 2 := op
  have checks : s.mbChecks b = (0, s) := mbChecks_open (by rw [op, len]; rfl) (by rw [op]; exact mbAccepted_challenge blank) (by rw [op]; rfl)
  exact congrArg Host.Outcome.next ((mbRun_served (f := State.cmdChallenge) front saves fresh (by rw [cmd]; rfl) (by rw [cmd]; decide) checks rfl).trans
    (if_neg (by simp)))

theorem exec_mbxUnknownOpcode_front (op : knownOp (leAt (s.mbBytes b) 0 1) = false) : exec .mbxUnknownOpcode s = .next (s.mbFinish b 9 []) := by
  have cmd : knownOp (s.mbCmd b).op = false := op
  exact congrArg Host.Outcome.next (mbRun_refused front saves fresh (by rw [cmd]; rfl) (mbChecks_badLen (mbLenOk_unknown _ op)) (by decide))

section stage

variable (op : leAt (s.mbBytes b) 0 1 = 1) (least : 5 ≤ leAt (s.mbBytes b) 2 2) (most : leAt (s.mbBytes b) 2 2 ≤ 896)
  (blank : s.get R.SEC_STATE_LC ≠ 0) (retired : s.get R.SEC_STATE_LC ≠ 4) (kspiOk : Bool)
include op least most blank retired

theorem exec_mbxStage_serves {code : Nat} {t : State} (serves : s.cmdStage (s.mbCmd b) = (code, [], t)) :
    exec (.mbxStage kspiOk) s = .next (if code = rOk && !kspiOk then s.mbFinish b rKspiErr [] else t.mbFinish b code []) := by
  have cmd : (s.mbCmd b).op = 1 := op
  have checks : s.mbChecks b = (0, s) := mbChecks_open (by rw [op]; simp [mbLenOk, least, most]) (by rw [op]; exact mbAccepted_stage blank retired) (by rw [op]; rfl)
  exact congrArg Host.Outcome.next (mbRun_served (f := State.cmdStage) front saves fresh (by rw [cmd]; rfl) (by rw [cmd]; decide) checks serves)

theorem exec_mbxStage_range (h : 0x40000 < leAt (s.mbCmd b).payload 0 4 + ((s.mbCmd b).payload.drop 4).length) :
    exec (.mbxStage kspiOk) s = .next (s.mbFinish b 4 []) :=
  (exec_mbxStage_serves front saves fresh op least most blank retired kspiOk (cmdStage_range s _ h)).trans (congrArg Host.Outcome.next (if_neg (by simp [rRange, rOk])))

theorem exec_mbxStage_fits (h : leAt (s.mbCmd b).payload 0 4 + ((s.mbCmd b).payload.drop 4).length ≤ 0x40000) :
    exec (.mbxStage kspiOk) s = .next (if kspiOk then (s.stagedIn (s.mbCmd b)).mbFinish b 0 [] else s.mbFinish b 11 []) := by
  refine (exec_mbxStage_serves front saves fresh op least most blank retired kspiOk (cmdStage_fits s _ h)).trans (congrArg Host.Outcome.next ?_)
  cases kspiOk with
  | false => exact (if_pos rfl).trans (if_neg Bool.false_ne_true).symm
  | true => exact (if_neg Bool.false_ne_true).trans (if_pos rfl).symm

end stage

end keyless

/-! ### Mailbox course and buffers -/

/-- Settles O22: the buffers by what each access and expiry moves, the course by what a command at the front runs to. -/
theorem mailboxCourseAndBuffers : Obligations.MailboxCourseAndBuffers := by
  unfold Obligations.MailboxCourseAndBuffers
  refine ⟨fun s m v => ⟨?_, ?_, ?_, ?_, ?_, fun k => ⟨?_, ?_, ?_, ?_⟩, ?_, ?_⟩, fun s b code resp _ => ?_, fun s s1 b code front saves fresh checks failed => ?_,
    fun s b front saves fresh => ⟨?_, ?_, ?_, ?_⟩⟩
  · rintro k ⟨ha, hr⟩ may free lower
    have moved := moved_claim s k m
    refine ⟨_, exec_mbxClaim ha hr, ?_⟩
    rw [mbClaim_lowest may free lower]
    exact ⟨rfl, moved.state, moved.owner, moved.others⟩
  · rintro ⟨ha, hr⟩ none_
    rw [exec_mbxClaim ha hr, mbClaim_none none_]
    rfl
  · intro writes claimed owner
    obtain ⟨moved, order⟩ := mbGo_claimed (s := s.quiet) claimed owner
    have followed := (moved.irqFollow s.quiet).of_quiet
    refine ⟨_, exec_mbxGoWrite v writes, followed.state, ?_, followed.owner, followed.others⟩
    rw [(within_irqFollow _ _).knl]
    exact order
  · intro writes other
    refine ⟨_, exec_mbxGoWrite v writes, ?_⟩
    rw [mbGo_ignored (s := s.quiet) other, irqFollow_self]
    exact ⟨rfl, rfl, fun _ _ => ⟨rfl, rfl⟩⟩
  · intro writes done owner
    have followed := ((moved_mbFree s.quiet (bufOf v)).irqFollow s.quiet).of_quiet
    refine ⟨_, exec_mbxRelWrite v writes, ?_⟩
    rw [mbRel_done (s := s.quiet) done owner]
    exact ⟨followed.state, followed.owner, followed.others⟩
  · intro claimed due
    obtain ⟨moved, counted⟩ := claimExpiry_counts s k
    exact ⟨_, exec_claimExpiry_due claimed due, moved.state, moved.owner, moved.others, counted⟩
  · exact exec_claimExpiry_none
  · intro done due
    have moved := moved_mbFree s k
    exact ⟨_, exec_doneExpiry_due done due, moved.state, moved.owner, moved.others⟩
  · exact exec_doneExpiry_none
  · intro locked due
    exact ⟨_, exec_authLockExpiry_due locked due, authUnlocked_open s⟩
  · exact exec_authLockExpiry_none
  · have aside := aside_mbFinish s b code resp
    obtain ⟨flash, order⟩ := mbFinish_mailbox s b code resp
    exact ⟨mbFinish_code s b code resp, mbFinish_mbState s b code resp, order, irq_pends _ (by decide), aside.mem, flash, aside.time⟩
  · have ends : ∀ {k f kspiOk}, (s.mbCmd b).op = k → done (s.mbRun (· == k) f kspiOk) = .next (s1.mbFinish b code []) := fun op =>
      congrArg Host.Outcome.next (mbRun_refused front saves fresh (beq_iff_eq.mpr op) checks failed)
    exact ⟨ends, fun _ => ⟨ends, ends, ends, ends, ends⟩, ends, ends, ends, ends, ends, ends, ends⟩
  · exact exec_mbxStatus_front front saves fresh
  · intro op least most blank retired
    have length := stagePayload_length s b most
    refine ⟨fun k beyond => ?_, fun fits => ?_, fun fits => ?_⟩
    · exact exec_mbxStage_range front saves fresh op least most blank retired k (by rw [length]; exact beyond)
    · exact exec_mbxStage_fits front saves fresh op least most blank retired false (by rw [length]; exact fits)
    · obtain ⟨flash, -⟩ := mbFinish_mailbox (s.stagedIn (s.mbCmd b)) b 0 []
      refine ⟨_, exec_mbxStage_fits front saves fresh op least most blank retired true (by rw [length]; exact fits), mbFinish_code .., fun i hi => ?_, fun x hx => ?_,
        mbFinish_mbState ..⟩
      · rw [if_pos rfl, flash]
        exact stagedIn_inside s (s.mbCmd b) (by rw [length]; exact hi)
      · rw [if_pos rfl, flash]
        exact stagedIn_outside s (s.mbCmd b) (by rw [length]; exact hx)
  · exact exec_mbxChallenge_front front saves fresh
  · exact exec_mbxUnknownOpcode_front front saves fresh

end Sys2Proof.Machine

/-! ## Oscillators of the ensemble (R102, R105, R109) -/

namespace Sys2Proof.Machine

/-! ### The hidden state of an oscillator -/

section entries

variable (s : State)

/-- An oscillator as an entry of `osc`. -/
def oscEntry (k : Fin 4) : Fin 5 := ⟨k.val, by omega⟩

theorem get_setOsc (k : Fin 5) (o : OscSt) (f : Fld) (i : Nat) : (s.setOsc k o).get f i = s.get f i := get_of_words (s := s) (t := s.setOsc k o) (fun _ => rfl) f i

theorem flag_setOsc (k : Fin 5) (o : OscSt) (f : Fld) (i : Nat) : (s.setOsc k o).flag f i = s.flag f i := by
  unfold State.flag
  rw [get_setOsc]

theorem oscState_setOsc (k : Fin 5) (o : OscSt) (j : Nat) : (s.setOsc k o).oscState j = s.oscState j := get_setOsc ..

theorem setOsc_entry (k : Fin 5) (o : OscSt) : (s.setOsc k o).refs.osc[k] = o := Vector.getElem_set_self ..

end entries

/-! ### A move of an oscillator -/

/-- In `u` oscillator `k` has moved from `s` to a state, with weight 0 unless it is a MEMBER, and the others stand. -/
structure OscMoved (s u : State) (k : Fin 4) (goal : Nat) : Prop where
  state : u.oscState k = goal
  others : ∀ j : Fin 4, j ≠ k → u.oscState j = s.oscState j
  weight : goal ≠ 2 → u.get R.OSC_STATE_WEIGHT k = 0
  since : (u.refs.osc[oscEntry k]).since = s.time.lc.toNat
  mem : u.mem = s.mem
  time : u.time = s.time

section moves

variable {s u : State} {k : Fin 4} {goal : Nat}

/-- The registers of an oscillator that moves. -/
def State.oscShown (s : State) (k : Fin 4) (st : Nat) : State :=
  if st ≠ 2 then (s.set R.OSC_STATE_STATE k st).set R.OSC_STATE_WEIGHT k 0 else s.set R.OSC_STATE_STATE k st

theorem oscMove_eq (s : State) (k : Fin 4) (st : Nat) : ∃ samples, s.oscMove k st = (s.oscShown k st).setOsc (oscEntry k)
    { (s.oscShown k st).refs.osc[oscEntry k] with since := (s.oscShown k st).time.lc.toNat, memberFor := 0, samples := samples } := ⟨_, rfl⟩

theorem oscShown_frame (s : State) (k : Fin 4) (st : Nat) : (s.oscShown k st).time = s.time ∧ (s.oscShown k st).mem = s.mem := by
  unfold State.oscShown
  split <;> simp

theorem oscState_own (k : Fin 4) : R.OSC_STATE_STATE.own k = true := by
  revert k
  decide

theorem oscWeight_own (k : Fin 4) : R.OSC_STATE_WEIGHT.own k = true := by
  revert k
  decide

theorem oscWeight_oscState_parted (k j : Fin 4) : R.OSC_STATE_WEIGHT.parted k R.OSC_STATE_STATE j = true := by
  revert k j
  decide

theorem oscState_parted {k j : Fin 4} (h : j ≠ k) : R.OSC_STATE_STATE.parted k R.OSC_STATE_STATE j = true := by
  revert k j
  decide

theorem oscShown_oscState (s : State) (k : Fin 4) (st : Nat) (j : Fin 4) : (s.oscShown k st).oscState j = (s.set R.OSC_STATE_STATE k st).oscState j := by
  unfold State.oscShown
  split
  · exact get_set_parted _ _ (oscWeight_oscState_parted k j)
  · rfl

theorem oscShown_weight (s : State) (k : Fin 4) {st : Nat} (h : st ≠ 2) : (s.oscShown k st).get R.OSC_STATE_WEIGHT k = 0 := by
  unfold State.oscShown
  rw [if_pos h]
  exact get_set_own _ _ (oscWeight_own k)

theorem oscMove_moves (s : State) (k : Fin 4) {st : Nat} (hst : st < 4) : OscMoved s (s.oscMove k st) k st := by
  obtain ⟨samples, e⟩ := oscMove_eq s k st
  obtain ⟨time, mem⟩ := oscShown_frame s k st
  rw [e]
  refine ⟨?_, fun j hj => ?_, fun h => ?_, ?_, mem, time⟩
  · rw [oscState_setOsc, oscShown_oscState]
    exact (get_set_own s _ (oscState_own k)).trans (Nat.mod_eq_of_lt hst)
  · rw [oscState_setOsc, oscShown_oscState]
    exact get_set_parted s _ (oscState_parted hj)
  · rw [get_setOsc, oscShown_weight s k h]
  · rw [setOsc_entry, time]

/-- Joining gives the oscillator its own model, and leaves the move as it was (R105). -/
theorem OscMoved.oscModel (h : OscMoved s u k goal) : OscMoved s (u.oscModel k) k goal := by
  unfold State.oscModel
  dsimp only
  split
  · refine ⟨(oscState_setOsc ..).trans h.state, fun j hj => (oscState_setOsc ..).trans (h.others j hj), fun hg => (get_setOsc ..).trans (h.weight hg), ?_, h.mem, h.time⟩
    exact (congrArg OscSt.since (setOsc_entry u (oscEntry k) _)).trans h.since
  · exact h

/-- An edge of an oscillator has been seen (R102). -/
def State.oscSeen (s : State) (k : Fin 4) (lc : Time) : State := s.setOsc (oscEntry k) { s.refs.osc[oscEntry k] with lastEdge := lc.toNat }

theorem OscMoved.of_oscSeen {lc : Time} (h : OscMoved (s.oscSeen k lc) u k goal) : OscMoved s u k goal :=
  ⟨h.state, fun j hj => (h.others j hj).trans (oscState_setOsc ..), h.weight, h.since, h.mem, h.time⟩

/-- A move, and a command that ends with what follows it (R102). -/
theorem OscMoved.ends {i : Instr} (h : OscMoved s u k goal) (e : exec i s = .next u.oscSync) : ∃ u : State, u.oscState k = goal ∧ (∀ j : Fin 4, j ≠ k → u.oscState j = s.oscState j)
    ∧ (goal ≠ 2 → u.get R.OSC_STATE_WEIGHT k = 0) ∧ (u.refs.osc[oscEntry k]).since = s.time.lc.toNat ∧ u.mem = s.mem ∧ u.time = s.time ∧ exec i s = .next u.oscSync :=
  ⟨u, h.state, h.others, h.weight, h.since, h.mem, h.time, e⟩

end moves

/-! ### The commands of an oscillator -/

section commands

variable {s : State} {k : Fin 4}

theorem exec_oscEdgeSeen (s : State) (k : Fin 4) (lc : Time) : exec (.oscEdgeSeen k lc) s
    = .next ((s.oscSeen k lc).when_ ((s.oscSeen k lc).flag R.OSC_CFG_ENABLE k && (s.oscSeen k lc).oscState k == 0) fun t => (t.oscMove k 1).oscSync) := rfl

theorem oscSeen_flag (s : State) (k : Fin 4) (lc : Time) : (s.oscSeen k lc).flag R.OSC_CFG_ENABLE k = s.flag R.OSC_CFG_ENABLE k := flag_setOsc ..

theorem oscSeen_oscState (s : State) (k : Fin 4) (lc : Time) : (s.oscSeen k lc).oscState k = s.oscState k := oscState_setOsc ..

theorem exec_oscEdgeSeen_wakes (lc : Time) (on : s.flag R.OSC_CFG_ENABLE k = true) (absent : s.oscState k = 0) :
    exec (.oscEdgeSeen k lc) s = .next ((s.oscSeen k lc).oscMove k 1).oscSync := by
  rw [exec_oscEdgeSeen, oscSeen_flag, oscSeen_oscState, when_of_true _ (by rw [on, absent]; rfl)]

theorem exec_oscEdgeSeen_notes (lc : Time) (h : s.flag R.OSC_CFG_ENABLE k = false ∨ s.oscState k ≠ 0) : exec (.oscEdgeSeen k lc) s = .next (s.oscSeen k lc) := by
  rw [exec_oscEdgeSeen, oscSeen_flag, oscSeen_oscState, when_of_false _ (Bool.and_eq_false_iff.mpr (h.imp_right beq_eq_false_iff_ne.mpr))]

theorem exec_oscLossTimeout_lost (present : s.oscState k ≠ 0) (silent : s.past (s.refs.osc[oscEntry k]).lastEdge 4 (s.oscFin k) = true) :
    exec (.oscLossTimeout k) s = .next (s.oscMove k 0).oscSync :=
  congrArg Host.Outcome.next (when_of_true (fun t => (t.oscMove k 0).oscSync) (Bool.and_eq_true_iff.mpr ⟨bne_iff_ne.mpr present, silent⟩))

theorem exec_oscLossTimeout_none (h : s.oscState k = 0 ∨ s.past (s.refs.osc[oscEntry k]).lastEdge 4 (s.oscFin k) = false) : exec (.oscLossTimeout k) s = .next s :=
  congrArg Host.Outcome.next (when_of_false (fun t => (t.oscMove k 0).oscSync) (Bool.and_eq_false_iff.mpr (h.imp_left bne_eq_false_iff_eq.mpr)))

/-- The oscillator joins without a comparison: no reference has given REF_ENS_Y, and there is no MEMBER (R102). -/
def State.oscFirst (s : State) : Prop := s.refs.ensYFromRef = false ∧ ∀ j : Fin 4, s.oscState j ≠ 2

/-- The oscillator agrees with the ensemble (R102). -/
def State.oscNear (s : State) (k : Fin 4) : Prop := (s.getS R.OSC_FREQ k).natAbs < s.get R.OSC_REJECT k * 1000

/-- The test by which a warm oscillator joins. -/
def State.oscJoins (s : State) (k : Fin 4) : Bool :=
  s.oscState k == 1 && s.past (s.refs.osc[oscEntry k]).since (10 * s.get R.OSC_CFG_WARMUP k) && !s.oscMissing k
    && (!s.refs.ensYFromRef && !(oscs.any fun j => s.oscState j == 2) || decide ((s.getS R.OSC_FREQ k).natAbs < lim15 (s.get R.OSC_REJECT k)))

theorem no_member_iff (s : State) : (oscs.any fun j => s.oscState j == 2) = false ↔ ∀ j : Fin 4, s.oscState j ≠ 2 := by
  rw [List.any_eq_false]
  exact ⟨fun h j => by simpa using h j (by revert j; decide), fun h j _ => by simpa using h j⟩

theorem oscJoins_iff (s : State) (k : Fin 4) : s.oscJoins k = true ↔ s.oscState k = 1 ∧ s.past (s.refs.osc[oscEntry k]).since (10 * s.get R.OSC_CFG_WARMUP k) = true
    ∧ s.oscMissing k = false ∧ (s.oscFirst ∨ s.oscNear k) := by
  unfold State.oscJoins State.oscFirst State.oscNear lim15
  rw [← no_member_iff]
  simp only [Bool.and_eq_true, Bool.or_eq_true, beq_iff_eq, Bool.not_eq_true', decide_eq_true_eq, and_assoc]

theorem exec_oscWarmupEnd (s : State) (k : Fin 4) : exec (.oscWarmupEnd k) s = .next (s.when_ (s.oscJoins k) fun t => ((t.oscMove k 2).oscModel k).oscSync) := rfl

theorem exec_oscWarmupEnd_joins (h : s.oscJoins k = true) : exec (.oscWarmupEnd k) s = .next ((s.oscMove k 2).oscModel k).oscSync := by
  rw [exec_oscWarmupEnd, when_of_true _ h]

theorem exec_oscWarmupEnd_none (h : s.oscJoins k ≠ true) : exec (.oscWarmupEnd k) s = .next s := by
  rw [exec_oscWarmupEnd, when_of_false _ (Bool.eq_false_iff.mpr h)]

theorem exec_oscExcludeEnd_returns (excluded : s.oscState k = 3) (elapsed : s.past (s.refs.osc[oscEntry k]).since 60 = true) :
    exec (.oscExcludeEnd k) s = .next (s.oscMove k 1).oscSync :=
  congrArg Host.Outcome.next (when_of_true (fun t => (t.oscMove k 1).oscSync) (Bool.and_eq_true_iff.mpr ⟨beq_iff_eq.mpr excluded, elapsed⟩))

theorem exec_oscExcludeEnd_none (h : s.oscState k ≠ 3 ∨ s.past (s.refs.osc[oscEntry k]).since 60 = false) : exec (.oscExcludeEnd k) s = .next s :=
  congrArg Host.Outcome.next (when_of_false (fun t => (t.oscMove k 1).oscSync) (Bool.and_eq_false_iff.mpr (h.imp_left beq_eq_false_iff_ne.mpr)))

/-! ### A temperature that nothing writes (R109) -/

/-- The temperature of an oscillator is stale from now on. -/
def State.tempStale (s : State) (k : Fin 4) : State := s.tintNow.setOsc (oscEntry k) { s.tintNow.refs.osc[oscEntry k] with stale := true }

/-- Its event stands (R109). -/
def State.tempNoted (s : State) (k : Fin 4) : State := (s.tempStale k).raiseBit R.REF_EVT_TEMP_STALE 0 0

theorem Within.refs {p : Nat → Bool} {s t : State} (h : Within p s t) : t.refs = s.refs := by rw [← h.rest]

theorem tempNoted_leaves (s : State) (k : Fin 4) : ((s.tempNoted k).refs.osc[oscEntry k]).stale = true ∧ (s.tempNoted k).get R.REF_EVT_TEMP_STALE = 1
    ∧ (s.tempNoted k).mem = s.mem := by
  have noted : Within (fun _ => true) (s.tempStale k) (s.tempNoted k) := within_raiseBit _ _ _ _ rfl rfl fun _ _ => rfl
  refine ⟨?_, ?_, noted.mem⟩
  · rw [noted.refs, State.tempStale, setOsc_entry]
  · have bit := get_raiseBit_same (s := s.tempStale k) (f := R.REF_EVT_TEMP_STALE) (i := 0) (b := 0) (by unfold Fld.plain; decide) (by decide) (by decide)
    have one : ∀ x < 2, x ||| 2 ^ 0 = 1 := by decide
    exact bit.trans (one _ (get_lt ..))

theorem exec_tempStaleTimeout_due (own : s.flag R.OSC_CFG_TEMP_SRC k = true) (fresh : (s.refs.osc[oscEntry k]).stale = false)
    (due : s.past (s.refs.osc[oscEntry k]).tempAt 5 = true) : exec (.tempStaleTimeout k) s = .next ((s.tempNoted k).raise fsTempStale k.val) :=
  congrArg Host.Outcome.next (when_of_true (fun t => (t.tempNoted k).raise fsTempStale k.val)
    (Bool.and_eq_true_iff.mpr ⟨Bool.and_eq_true_iff.mpr ⟨own, by rw [Bool.not_eq_true']; exact fresh⟩, due⟩))

theorem exec_tempStaleTimeout_none (h : s.flag R.OSC_CFG_TEMP_SRC k = false ∨ (s.refs.osc[oscEntry k]).stale = true ∨ s.past (s.refs.osc[oscEntry k]).tempAt 5 = false) :
    exec (.tempStaleTimeout k) s = .next s :=
  congrArg Host.Outcome.next (when_of_false (fun t => (t.tempNoted k).raise fsTempStale k.val)
    (by rw [Bool.and_eq_false_iff, Bool.and_eq_false_iff, Bool.not_eq_false', or_assoc]; exact h))

end commands

end Sys2Proof.Machine

/-! ## The first time (R485, R486, R488) -/

namespace Sys2Proof.Machine

/-! ### REF_ENS_Y of the first time (R485) -/

section bootstrap

variable {s : State}

theorem exec_ensYBootstrap (s : State) : exec .ensYBootstrap s = .next s.ensYBootstrap := rfl

theorem ensYBootstrap_idle (h : s.refs.everQual = true ∨ s.leadUp = false) : s.ensYBootstrap = s :=
  if_pos (by rw [Bool.or_eq_true, Bool.not_eq_true']; exact h)

theorem ensYBootstrap_bone (early : s.refs.everQual = false) (up : s.leadUp = true) (bone : s.refs.boneSrc = some (s.get R.CLK_STAT_KPLL_SRC)) :
    s.ensYBootstrap = s.giveEnsY (s.getS R.REF_HOLD_Y0) false := by
  unfold State.ensYBootstrap
  rw [if_neg (by rw [early, up]; decide), if_pos bone]

/-- The best time reference gives REF_ENS_Y once it has a sample 16 s old. -/
theorem ensYBootstrap_ref {n : Fin 23} {y : Int} (early : s.refs.everQual = false) (up : s.leadUp = true) (noBone : s.refs.boneSrc ≠ some (s.get R.CLK_STAT_KPLL_SRC))
    (best : s.bootRef = some n) (freq : s.yt64 n 16 = some y) :
    s.ensYBootstrap = if (s.refSt n).samples.any (fun x => decide (x.lc + 16 * 2 ^ 48 ≤ s.time.lc.toNat)) then s.giveEnsY (-y) true else s := by
  unfold State.ensYBootstrap
  rw [if_neg (by rw [early, up]; decide), if_neg noBone, best]
  dsimp only
  rw [freq]
  cases (s.refSt n).samples.any fun x => decide (x.lc + 16 * 2 ^ 48 ≤ s.time.lc.toNat) <;> rfl

theorem giveEnsY_leaves (s : State) (v : Int) (b : Bool) : (s.giveEnsY v b).get R.REF_ENS_Y = trunc 64 v ∧ (s.giveEnsY v b).refs.ensYGiven = true
    ∧ (s.giveEnsY v b).refs.ensYFromRef = (s.refs.ensYFromRef || b) := by
  unfold State.giveEnsY
  rw [get_set_same _ (by unfold Fld.plain; decide), State.set_refs]
  exact ⟨Nat.mod_eq_of_lt (BitVec.isLt _), rfl, rfl⟩

theorem trunc_sext {w v : Nat} (h : v < 2 ^ w) : trunc w (sext w v) = v := by
  unfold trunc sext
  rw [BitVec.ofInt_toInt, BitVec.toNat_ofNat, Nat.mod_eq_of_lt h]

end bootstrap

/-! ### The handover that the lead asks for (R51, R486, R488) -/

/-- The lead may ask for the handover in SN_BOOT (R51, R52). -/
structure State.BootReady (s : State) : Prop where
  up : s.leadUp = true
  boot : s.mode = 0
  unarmed : s.time.armed = none
  free : s.frozen = false
  settled : s.lcIncPending = false

/-- What a request for the handover with a FREQ leaves, of a state with the time of `s`: the change is armed, or refused beyond the limit of R34. -/
def State.HandoverAsked (s : State) (f : DWord) (t : State) : Prop :=
  (rateOk f.toInt = true → t.time.armed = some (.toLc f, s.time.tick + 256) ∧ t.get R.KNL_TIME_MODE_ARMED = 1 ∧ t.mode = 0 ∧ t.time.sn = s.time.sn)
    ∧ (rateOk f.toInt = false → t.time.armed = none ∧ t.get R.KNL_TIME_STAT_RATE_RANGE = 1)

section align

variable {s : State}

theorem leadHandover_asks (ready : s.BootReady) : s.HandoverAsked (BitVec.ofInt 64 (- s.getS R.REF_ENS_Y)) s.leadHandover := by
  have sn : s.inLc = false := inSn_of_mode ready.boot (by decide)
  unfold State.leadHandover State.handoverReq
  generalize BitVec.ofInt 64 (- s.getS R.REF_ENS_Y) = f
  dsimp only
  rw [if_neg (by rw [ready.unarmed, ready.free, ready.settled]; decide), if_neg (by rw [sn]; decide)]
  refine ⟨fun ok => ?_, fun beyond => ?_⟩
  · rw [if_neg (by rw [ok]; decide)]
    obtain ⟨time, mode, shown, -⟩ := arm_leaves s (.toLc f)
    exact ⟨by rw [time], shown, mode.trans ready.boot, by rw [time]⟩
  · rw [if_pos (by rw [beyond]; rfl)]
    exact ⟨(congrArg TimeSt.armed (State.set_time ..)).trans ready.unarmed, get_timeStat_same s (by unfold Fld.plain; decide) rfl⟩

theorem State.HandoverAsked.completes {f : DWord} {t : State} {i : Instr} (h : s.HandoverAsked f t) (e : exec i s = .next t) :
    (rateOk f.toInt = true → Completes i s fun t => t.time.armed = some (.toLc f, s.time.tick + 256) ∧ t.get R.KNL_TIME_MODE_ARMED = 1 ∧ t.mode = 0 ∧ t.time.sn = s.time.sn)
      ∧ (rateOk f.toInt = false → Completes i s fun t => t.time.armed = none ∧ t.get R.KNL_TIME_STAT_RATE_RANGE = 1) := by
  obtain ⟨arms, refuses⟩ := h
  exact ⟨fun ok => ⟨t, e, arms ok⟩, fun beyond => ⟨t, e, refuses beyond⟩⟩

/-! ### The SN count from a reference (R486) -/

/-- The servo has used the newest sample of a reference (R101). -/
def State.refUsed (s : State) (n : Fin 23) : State := { s with refs := { s.refs with used := (s.refSt n).lastRt } }

theorem get_refUsed (s : State) (n : Fin 23) (f : Fld) (i : Nat) : (s.refUsed n).get f i = s.get f i := get_of_words (s := s) (t := s.refUsed n) (fun _ => rfl) f i

theorem State.BootReady.refUsed (h : s.BootReady) (n : Fin 23) : (s.refUsed n).BootReady := by
  obtain ⟨up, boot, unarmed, free, settled⟩ := h
  refine ⟨?_, (get_refUsed ..).trans boot, unarmed, ?_, settled⟩
  · unfold State.leadUp State.engState at up ⊢
    rw [get_refUsed]
    exact up
  · unfold State.frozen State.flag at free ⊢
    rw [get_refUsed]
    exact free

theorem beyondJump_refUsed (s : State) (n : Fin 23) (c : Int) : (s.refUsed n).beyondJump c = s.beyondJump c := by
  unfold State.beyondJump State.jumpMaxPs
  rw [get_refUsed, get_refUsed]

theorem exec_bootSnAlign (s : State) : exec .bootSnAlign s = .next s.bootAlign := rfl

theorem bootAlign_idle (h : s.leadUp = false ∨ s.mode ≠ 0 ∨ s.time.armed.isSome = true ∨ s.time.snLoad.isSome = true) : s.bootAlign = s :=
  if_pos (by simp only [Bool.or_eq_true, Bool.not_eq_true', decide_eq_true_eq]; tauto)

theorem bootAlign_corrects {n : Fin 23} {c : Int} (ready : s.BootReady) (unloaded : s.time.snLoad = none) (sel : s.get R.REF_STAT_SEL_REF = n.val) (corr : s.correction n = some c) :
    s.bootAlign = if s.beyondJump c then (s.refUsed n).snLoadReq (s.snAligned c) else (s.refUsed n).leadHandover := by
  have idle : ¬(!s.leadUp || decide (s.mode ≠ 0) || s.time.armed.isSome || s.time.snLoad.isSome || s.frozen) = true := by
    rw [ready.up, ready.boot, ready.unarmed, unloaded, ready.free]
    decide
  have known : s.get R.REF_STAT_SEL_REF < 23 := sel ▸ n.isLt
  have same : (⟨s.get R.REF_STAT_SEL_REF, known⟩ : Fin 23) = n := Fin.ext sel
  unfold State.bootAlign
  dsimp only
  rw [if_neg idle, dif_pos known, same, corr]
  dsimp only
  rw [← beyondJump_refUsed s n c]
  rfl

end align

/-! ### Without a reference (R488) -/

section wait

variable {s : State}

/-- BOOT_WAIT has passed since the K-engines started. -/
def State.bootWaited (s : State) : Bool := s.past s.knl.bootAt (s.store 0xB10).toNat

theorem exec_bootWaitExpiry (s : State) : exec .bootWaitExpiry s
    = .next (s.when_ (s.mode == 0 && !s.timeQualified && s.leadUp && s.bootWaited) State.leadHandover) := rfl

theorem exec_bootWaitExpiry_asks (ready : s.BootReady) (unqualified : s.timeQualified = false) (waited : s.bootWaited = true) :
    exec .bootWaitExpiry s = .next s.leadHandover := by
  rw [exec_bootWaitExpiry, when_of_true _ (by rw [ready.boot, ready.up, unqualified, waited]; rfl)]

theorem exec_bootWaitExpiry_none (h : s.leadUp = false ∨ s.mode ≠ 0 ∨ s.timeQualified = true ∨ ¬s.bootWaited = true) : exec .bootWaitExpiry s = .next s := by
  rw [exec_bootWaitExpiry, when_of_false]
  simp only [Bool.and_eq_false_iff, beq_eq_false_iff_ne, Bool.not_eq_false', ← Bool.not_eq_true (s.bootWaited)]
  tauto

end wait

/-- Settles O26: each command of an oscillator by its own test, with the move it makes; then the first time, clause by clause, where both ways into
LC end in the one request of the lead. -/
theorem oscillatorsAndFirstTime : Obligations.OscillatorsAndFirstTime := by
  unfold Obligations.OscillatorsAndFirstTime
  refine ⟨fun s k => ⟨fun lc => ⟨?seen, ?noted⟩, ?lost, ?present, ?joins, ?waits, ?returns, ?excluded, ?stale, ?fresh⟩,
    fun s => ⟨?given, ?bone, ?reference, ?aligns, ?aligned, ?asks, ?silent⟩⟩
  case seen => exact fun on absent => (oscMove_moves _ k (by decide)).of_oscSeen.ends (exec_oscEdgeSeen_wakes lc on absent)
  case noted => exact exec_oscEdgeSeen_notes lc
  case lost => exact fun present silent => (oscMove_moves s k (by decide)).ends (exec_oscLossTimeout_lost present silent)
  case present => exact exec_oscLossTimeout_none
  case joins =>
    intro warming warm known agrees
    exact (oscMove_moves s k (by decide)).oscModel.ends (exec_oscWarmupEnd_joins ((oscJoins_iff s k).mpr ⟨warming, warm, known, agrees⟩))
  case waits =>
    intro h
    refine exec_oscWarmupEnd_none fun joins => ?_
    obtain ⟨warming, warm, known, agrees⟩ := (oscJoins_iff s k).mp joins
    rcases h with cold | early | missing | ⟨notFirst, notNear⟩
    · exact cold warming
    · exact early warm
    · exact absurd (missing.symm.trans known) (by decide)
    · exact agrees.elim notFirst notNear
  case returns => exact fun excluded elapsed => (oscMove_moves s k (by decide)).ends (exec_oscExcludeEnd_returns excluded elapsed)
  case excluded => exact exec_oscExcludeEnd_none
  case stale =>
    intro own fresh due
    obtain ⟨stale, bit, mem⟩ := tempNoted_leaves s k
    exact ⟨_, stale, bit, mem, exec_tempStaleTimeout_due own fresh due⟩
  case fresh => exact exec_tempStaleTimeout_none
  case given => exact fun h => congrArg Host.Outcome.next (ensYBootstrap_idle h)
  case bone =>
    intro early up bone
    obtain ⟨value, given, -⟩ := giveEnsY_leaves s (s.getS R.REF_HOLD_Y0) false
    exact ⟨_, congrArg Host.Outcome.next (ensYBootstrap_bone early up bone), value.trans (trunc_sext (get_lt ..)), given⟩
  case reference =>
    intro n y early up noBone best freq
    have steps := ensYBootstrap_ref early up noBone best freq
    have aged := List.any_eq_true (l := (s.refSt n).samples) (p := fun x => decide (x.lc + 16 * 2 ^ 48 ≤ s.time.lc.toNat))
    simp only [decide_eq_true_eq] at aged
    refine ⟨fun old => ?_, fun young => ?_⟩
    · obtain ⟨value, given, fromRef⟩ := giveEnsY_leaves s (-y) true
      rw [if_pos (aged.mpr old)] at steps
      exact ⟨_, congrArg Host.Outcome.next steps, value, given, fromRef.trans (Bool.or_true _)⟩
    · rw [if_neg fun h => young (aged.mp h)] at steps
      exact congrArg Host.Outcome.next steps
  case aligns =>
    rintro n c ⟨up, boot, unarmed, free, settled⟩ unloaded sel corr
    have ready : s.BootReady := ⟨up, boot, unarmed, free, settled⟩
    have run : exec .bootSnAlign s = .next _ := congrArg Host.Outcome.next (bootAlign_corrects ready unloaded sel corr)
    have used := ready.refUsed n
    refine ⟨fun beyond => ?_, fun within => ?_⟩
    · rw [if_pos beyond, snLoadReq_taken _ used.unarmed used.boot] at run
      exact ⟨_, run, rfl, unarmed⟩
    · rw [if_neg (by rw [within]; decide)] at run
      have asked := leadHandover_asks used
      rw [State.getS, get_refUsed] at asked
      exact State.HandoverAsked.completes (s := s) asked run
  case aligned => exact fun h => congrArg Host.Outcome.next (bootAlign_idle h)
  case asks =>
    rintro ⟨up, boot, unarmed, free, settled⟩ unqualified waited
    have ready : s.BootReady := ⟨up, boot, unarmed, free, settled⟩
    exact (leadHandover_asks ready).completes (exec_bootWaitExpiry_asks ready unqualified waited)
  case silent => exact exec_bootWaitExpiry_none

end Sys2Proof.Machine

/-! ## A phase correction wider than PHASE (R38, R107) -/

namespace Sys2Proof.Machine

/-- A reference whose newest sample lies 2⁶⁴ + 1 units of 2⁻⁴⁸ s from RT: hidden state holds the offset as a number without a width, PHASE has 64
bits. -/
def wideRef : RefSt := { RefSt.reset with samples := [{ tau := 0, lc := 0 }], offset := -(2 ^ 64 + 1), lastRt := 9 }

/-- From reset: LC in force, the lead running, the servo ACQUIRING with REF3 selected, which is `wideRef`. -/
def wideOffset : State :=
  ((((State.reset.set R.KNL_TIME_MODE_MODE 0 1).set R.ENG_STAT_STATE 0 3).set R.REF_STAT_SERVO 0 1).set R.REF_STAT_SEL_REF 0 3).setRef 3 wideRef

/-- The second is clear for an update. -/
theorem wideOffset_clear : wideOffset.leadUp = true ∧ wideOffset.inLc = true ∧ wideOffset.frozen = false ∧ wideOffset.time.armed = none
    ∧ wideOffset.knl.pair.held = false ∧ wideOffset.refs.servoDone = false := by
  decide +kernel

theorem wideOffset_acquires : wideOffset.servo = 1 ∧ wideOffset.get R.REF_STAT_SEL_REF = (3 : Fin 23).val := by
  decide +kernel

/-- The correction is beyond JUMP_MAX, while the low 64 bits of it, which the update carries, are not. -/
theorem wideOffset_correction : wideOffset.correction 3 = some (2 ^ 64 + 1) ∧ wideOffset.beyondJump (2 ^ 64 + 1) = true
    ∧ wideOffset.flag R.REF_STAT_FREQ_ONLY = false := by
  decide +kernel

/-- The update with those low bits keeps the limit of R34. -/
theorem wideOffset_inRange :
    (wideOffset.anchorForm (BitVec.ofInt 64 (wideOffset.refWeights []).servoFreq).toInt (BitVec.ofInt 64 (2 ^ 64 + 1)).toInt 0).testBit 1 = false := by
  decide +kernel

/-- So the time-bus source takes them as a PHASE that it does not refuse (R38). -/
theorem wideOffset_phase : (wideOffset.servoUpdate 0 [] []).time.fw.map FwUpd.phase = some 1 := by
  decide +kernel

/-- Refutes O27, in its clause of the PHASE beyond JUMP_MAX: nothing in the statement bounds the offset that a state holds. In `wideOffset` the
correction is 2⁶⁴ + 1 units, so the update should carry PHASE 0; it carries the low 64 bits of the correction, a PHASE of one unit. -/
theorem not_servoUpdates : ¬ Obligations.ServoUpdates := by
  unfold Obligations.ServoUpdates
  intro h
  obtain ⟨update, -⟩ := h wideOffset
  obtain ⟨servo, sel⟩ := wideOffset_acquires
  obtain ⟨corr, beyond, phased⟩ := wideOffset_correction
  have ends := update 0 [] [] 3 wideOffset_clear (.inl servo) sel
  simp only [corr, beyond, phased, Option.map_some, Option.getD_some, Bool.and_false, Bool.false_eq_true, if_false, if_true] at ends
  obtain ⟨t, e, ⟨fw, -⟩, -⟩ := ends wideOffset_inRange
  have same : wideOffset.servoUpdate 0 [] [] = t := Host.Outcome.next.inj e
  have phase := wideOffset_phase
  rw [same, fw] at phase
  exact absurd phase (by decide)

end Sys2Proof.Machine

/-! ## An edge that two channels select, in a state that lists a register word twice -/

namespace Sys2Proof.Machine

/-- A state whose register list is not canonical: it names TIM_CNT1 of TI9 twice, first at its reset entry, then with seven edges missed. TI8 and TI9
select the rising edges of OSC0; the queue of TI8 is full, TI9 has no time base. Guard is NORMAL; TDC_OVERFLOW asks for an NMI of E2 alone, E2 runs, and
an NMI resets it. -/
def missedTwice : State :=
  { State.reset with
    regs := [(R.FLT_GUARD_STAT_STATE.at 0, 0), (R.FLT_REACT_REACT.at fsTdcOverflow, 0x2),
      (R.TIM_CNT1_MISSED.at 9, 0), (R.TIM_CNT1_MISSED.at 9, 0x70000),
      (R.ENG_STAT_STATE.at 2, 3), (R.ENG_TRAP_CFG.at 2, 0x80000)]
    knl := { KnlSt.reset with work := [(0x31800, 0x11), (0x31804, 1), (0x31808, 0), (0x31900, 0x11)] }
    tim := { TimSt.reset with ch := TimSt.reset.ch.set 8 { TdcCh.reset with tb := 0, queue := List.replicate 8 [] } } }

/-- TDC_OVERFLOW resets nothing but E2, and the log has room. -/
theorem missedTwice_mild : missedTwice.mild fsTdcOverflow ∧ missedTwice.room 16 := by
  unfold State.mild State.room
  decide +kernel

/-- TI9 takes the edge, as the first since its prescaler and divider were reset, and has no time base; no edge is missed yet. -/
theorem missedTwice_takes : (missedTwice.tdcSrc 9 = 8 ∧ missedTwice.flag R.TIM_CFG_EDGE (9 : Fin 16) = false ∧ missedTwice.flag R.TIM_CFG_ENABLE (9 : Fin 16) = true)
    ∧ (missedTwice.tdc 9).presCnt = 0 ∧ (missedTwice.tdc 9).divCnt = 0 ∧ (missedTwice.tdc 9).tb = 1 ∧ missedTwice.get R.TIM_CNT1_MISSED (9 : Fin 16) = 0 := by
  decide +kernel

/-- TI8 drops its record, and the NMI of that loss resets E2, which drops entries that stand at their reset entry (R12): the second entry of TIM_CNT1
shows when TI9 counts. -/
theorem missedTwice_sourceEdge_missed : (missedTwice.sourceEdge 8 false 0 []).get R.TIM_CNT1_MISSED (9 : Fin 16) = 8 := by
  decide +kernel

/-- Refutes O28, in its clause of missed edges: nothing in the statement asks for a canonical state. In `missedTwice` TI9 has missed no edge and misses
this one, so MISSED should read 1; but the NMI that TI8's lost record asks for drops the first of the two entries of its word, and MISSED reads 8. -/
theorem not_timeIntervalEdges : ¬ Obligations.TimeIntervalEdges := by
  unfold Obligations.TimeIntervalEdges
  rintro ⟨edges, -⟩
  obtain ⟨-, run⟩ := edges missedTwice 8 false 0 []
  obtain ⟨mild, room⟩ := missedTwice_mild
  obtain ⟨takes, pres, div, absent, none_⟩ := missedTwice_takes
  obtain ⟨-, channels⟩ := run mild room
  obtain ⟨-, -, selected⟩ := channels 9 takes (by decide)
  obtain ⟨missed, -⟩ := selected pres div
  obtain ⟨t, e, -, counted⟩ := missed (.inl absent)
  have ends : missedTwice.sourceEdge 8 false 0 [] = t := Host.Outcome.next.inj e
  rw [← ends, missedTwice_sourceEdge_missed, none_] at counted
  exact absurd counted (by decide)

end Sys2Proof.Machine

/-! ## The time-interval channels and the words of TIM (R116, R137) -/

namespace Sys2Proof.Machine

/-! ### One channel of the sixteen -/

section channels

variable (s : State)

/-- The state with another hidden state of TIM. -/
def State.withTim (s : State) (x : TimSt) : State := { s with tim := x }

theorem withTim_tim (x : TimSt) : (s.withTim x).tim = x := rfl
theorem get_withTim (x : TimSt) (f : Fld) (i : Nat) : (s.withTim x).get f i = s.get f i := get_of_words (s := s) (t := s.withTim x) (fun _ => rfl) f i

theorem setTdc_eq (c : Fin 16) (x : TdcCh) : s.setTdc c x = s.withTim { s.tim with ch := s.tim.ch.set c x } := rfl

theorem tdc_of_tim {s t : State} (h : t.tim.ch = s.tim.ch) (c : Fin 16) : t.tdc c = s.tdc c := by
  unfold State.tdc
  rw [h]

@[simp] theorem tdc_setTdc_same (c : Fin 16) (x : TdcCh) : (s.setTdc c x).tdc c = x := by
  simp [State.setTdc, State.tdc]

theorem tdc_setTdc_ne {c k : Fin 16} (x : TdcCh) (h : k ≠ c) : (s.setTdc c x).tdc k = s.tdc k := by
  simp only [State.setTdc, State.tdc, Fin.getElem_fin]
  exact Vector.getElem_set_ne _ _ fun e => h (Fin.ext e.symm)

theorem setTdc_setTdc (c : Fin 16) (x y : TdcCh) : (s.setTdc c x).setTdc c y = s.setTdc c y := by
  simp [State.setTdc]

@[simp] theorem tdc_mapTdc (f : TdcCh → TdcCh) (c : Fin 16) : (s.mapTdc f).tdc c = f (s.tdc c) := by
  simp [State.mapTdc, State.tdc]

theorem any_channel (p : TdcCh → Bool) : s.tim.ch.toList.any p = true ↔ ∃ c, p (s.tdc c) = true := by
  rw [List.any_eq_true]
  constructor
  · rintro ⟨x, hx, px⟩
    obtain ⟨i, hi, rfl⟩ := Vector.mem_iff_getElem.mp (Vector.mem_toList_iff.mp hx)
    exact ⟨⟨i, hi⟩, px⟩
  · rintro ⟨c, pc⟩
    exact ⟨_, Vector.mem_toList_iff.mpr (Vector.getElem_mem c.isLt), pc⟩

theorem measIb_of_words {s t : State} (h : ∀ a, t.word a = s.word a) (c : Fin 16) : t.measIb c = s.measIb c := by
  unfold State.measIb State.flag
  rw [get_of_words h]

end channels

@[simp] theorem interp_setInterp_same (x : TdcCh) (ib : Bool) (i : Interp) : (x.setInterp ib i).interp ib = i := by
  cases ib <;> rfl

theorem interp_setInterp_other (x : TdcCh) (ib : Bool) (i : Interp) : (x.setInterp (!ib) i).interp ib = x.interp ib := by
  cases ib <;> rfl

/-! ### Words of TIM -/

/-- The words of one channel after another. -/
def chanWord (a : Nat) : Bool := decide (0x1201000 ≤ a) && decide (a < 0x1202000)

/-- TIM_STAT, TIM_EVT and the words of the channels, and HST_IRQ_PEND. -/
def tdcWord (a : Nat) : Bool := a == 0x1200000 || a == 0x1200004 || chanWord a || pendWord a

/-- The calibration tables. -/
def tableWord (a : Nat) : Bool := decide (0x1210000 ≤ a) && decide (a < 0x1220000)

theorem tdcWord_chan {a : Nat} (h : tdcWord a = false) : chanWord a = false := by
  simp only [tdcWord, Bool.or_eq_false_iff] at h
  obtain ⟨⟨-, chan⟩, -⟩ := h
  exact chan

theorem tdcWord_table {a : Nat} (h : tableWord a = true) : tdcWord a = false := by
  simp only [tableWord, Bool.and_eq_true, decide_eq_true_eq] at h
  simp only [tdcWord, chanWord, pendWord, Bool.or_eq_false_iff, Bool.and_eq_false_iff, decide_eq_false_iff_not, beq_eq_false_iff_ne]
  omega

theorem tblIx_lt (c : Fin 16) (ib : Bool) {k : Nat} (h : k < 384) : tblIx c ib k < 0x4000 := by
  unfold tblIx
  cases ib <;> simp only [if_true, if_false, Bool.false_eq_true] <;> omega

theorem tblIx_table (c : Fin 16) (ib : Bool) {k : Nat} (h : k < 384) : ∀ j < R.TIM_TABLE.words, tableWord (R.TIM_TABLE.at (tblIx c ib k) + 4 * j) = true := by
  intro j hj
  have one : j < 1 := hj
  have below := tblIx_lt c ib h
  have at_ : R.TIM_TABLE.at (tblIx c ib k) = 0x1210000 + 4 * tblIx c ib k := rfl
  simp only [tableWord, Bool.and_eq_true, decide_eq_true_eq]
  omega

/-- A field of the words of a channel. -/
def Fld.ofChannel (f : Fld) : Prop := 0x1201000 ≤ f.addr ∧ f.stride = 0x100 ∧ f.addr + 4 * f.words ≤ 0x1201100

theorem chanWord_of {f : Fld} (h : f.ofChannel) (c : Fin 16) : ∀ k < f.words, chanWord (f.at c + 4 * k) = true := by
  intro k hk
  obtain ⟨lo, stride, hi⟩ := h
  have at_ : f.at c = f.addr + 0x100 * c.val := by unfold Fld.at; rw [stride]
  simp only [chanWord, Bool.and_eq_true, decide_eq_true_eq]
  omega

section frames

variable {p : Nat → Bool} {s t : State}

theorem Within.tim (h : Within p s t) : t.tim = s.tim := by rw [← h.rest]

theorem Within.tdc (h : Within p s t) (c : Fin 16) : t.tdc c = s.tdc c := tdc_of_tim (by rw [h.tim]) c

theorem within_bump (s : State) (f : Fld) (i n : Nat) (hf : ∀ k < f.words, p (f.at i + 4 * k) = true) : Within p s (s.bump f i n) := within_set _ _ _ _ hf

theorem within_channel (s : State) {f : Fld} (h : f.ofChannel) (c : Fin 16) (v : Nat) : Within chanWord s (s.set f c v) := within_set _ _ _ _ (chanWord_of h c)

theorem within_timEvt (s : State) (f : Fld) (h : f.addr = 0x1200004 ∧ f.stride = 0 ∧ f.words = 1) :
    Within (fun a => a == 0x1200004 || pendWord a) s (s.raiseBit f 0 0) := by
  obtain ⟨addr, stride, words⟩ := h
  refine within_raiseBit _ _ _ _ rfl rfl fun k hk => ?_
  have k0 : k = 0 := by omega
  have at_ : f.at 0 + 4 * k = 0x1200004 := by unfold Fld.at; rw [addr, stride, k0]
  rw [at_]
  rfl

/-- An event of one bit, once raised. -/
theorem flag_raiseBit_same (s : State) {f : Fld} (hp : f.plain 0) (hw : f.width = 1) (hf : ∀ k < f.words, pendWord (f.at 0 + 4 * k) = false) :
    (s.raiseBit f 0 0).flag f = true := by
  unfold State.flag
  rw [get_raiseBit_same hp (by omega) hf, bne_iff_ne]
  intro zero
  have bit : (s.get f ||| 2 ^ 0).testBit 0 = true := by rw [Nat.testBit_or, Nat.testBit_two_pow_self, Bool.or_true]
  rw [zero] at bit
  cases bit

theorem within_syncTb (s : State) : Within (· == 0x1200000) s s.syncTb := within_set _ _ _ _ (by decide)

/-- A counter of one word that has risen by one (R137). -/
theorem bump_counts (s : State) {f : Fld} {i : Nat} (h : f.own i = true) : (s.bump f i).get f i = Nat.min (s.get f i + 1) (2 ^ f.width - 1) := by
  unfold State.bump
  rw [get_set_own s _ h]
  refine Nat.mod_eq_of_lt (lt_of_le_of_lt (Nat.min_le_right _ _) ?_)
  have := Nat.two_pow_pos f.width
  omega

end frames

/-! ### What a channel shows (R121, R131, R132) -/

section sync

variable (s : State) (c : Fin 16)

theorem within_syncTdc_own : Within (· == 0x1201010 + 0x100 * c.val) s (s.syncTdc c) := by
  have shown : ∀ (u : State) (f : Fld) (v : Nat), f.addr = 0x1201010 ∧ f.stride = 0x100 ∧ f.words = 1 → Within (· == 0x1201010 + 0x100 * c.val) u (u.set f c v) := by
    rintro u f v ⟨addr, stride, words⟩
    refine within_set _ _ _ _ fun k hk => beq_iff_eq.mpr ?_
    unfold Fld.at
    rw [addr, stride]
    omega
  exact ((shown _ _ _ (by decide)).trans (shown _ _ _ (by decide))).trans (shown _ _ _ (by decide))

theorem within_syncTdc : Within chanWord s (s.syncTdc c) := (within_syncTdc_own s c).mono fun a ha => by
  rw [beq_eq_false_iff_ne]
  rintro rfl
  simp only [chanWord, Bool.and_eq_false_iff, decide_eq_false_iff_not] at ha
  omega

theorem syncTdc_degraded : (s.syncTdc c).flag R.TIM_STATE_DEGRADED_A c = (s.tim.rngDegr || decide ((s.tdc c).ia.rejects ≥ 3))
    ∧ (s.syncTdc c).flag R.TIM_STATE_DEGRADED_B c = (s.tim.rngDegr || decide ((s.tdc c).ib.rejects ≥ 3)) := by
  have ownA : R.TIM_STATE_DEGRADED_A.own c = true := by revert c; decide
  have ownB : R.TIM_STATE_DEGRADED_B.own c = true := by revert c; decide
  have beside : R.TIM_STATE_DEGRADED_B.parted c R.TIM_STATE_DEGRADED_A c = true := by revert c; decide
  unfold State.syncTdc
  exact ⟨(flag_setFlag_parted _ _ beside).trans (flag_setFlag_own _ _ ownA rfl), flag_setFlag_own _ _ ownB rfl⟩

/-- Every channel shows what it holds. -/
def State.syncTdcs (s : State) : State := s.forN 16 fun c s => if h : c < 16 then s.syncTdc ⟨c, h⟩ else s

theorem within_syncTdcs : Within chanWord s s.syncTdcs := within_foldl _ _ fun u k => by
  dsimp only
  split
  · exact within_syncTdc u _
  · exact .refl _ _

theorem forN_succ (n : Nat) (f : Nat → State → State) : s.forN (n + 1) f = f n (s.forN n f) := by
  unfold State.forN
  rw [List.range_succ, List.foldl_append]
  rfl

/-- A fault of the random source that has lasted shows on every channel (R132). -/
theorem syncTdcs_degraded (h : s.tim.rngDegr = true) : s.syncTdcs.flag R.TIM_STATE_DEGRADED_A c = true ∧ s.syncTdcs.flag R.TIM_STATE_DEGRADED_B c = true := by
  have upTo : ∀ n, Within chanWord s (s.forN n fun c s => if h : c < 16 then s.syncTdc ⟨c, h⟩ else s) ∧ (c.val < n →
      (s.forN n fun c s => if h : c < 16 then s.syncTdc ⟨c, h⟩ else s).flag R.TIM_STATE_DEGRADED_A c = true
        ∧ (s.forN n fun c s => if h : c < 16 then s.syncTdc ⟨c, h⟩ else s).flag R.TIM_STATE_DEGRADED_B c = true) := by
    intro n
    induction n with
    | zero => exact ⟨.refl _ _, fun none_ => absurd none_ (Nat.not_lt_zero _)⟩
    | succ n ih =>
      rw [forN_succ]
      obtain ⟨frame, before⟩ := ih
      generalize s.forN n (fun c s => if h : c < 16 then s.syncTdc ⟨c, h⟩ else s) = u at frame before ⊢
      split
      · next hn =>
        refine ⟨frame.trans (within_syncTdc u _), fun below => ?_⟩
        by_cases now : c = ⟨n, hn⟩
        · obtain ⟨shownA, shownB⟩ := syncTdc_degraded u c
          rw [frame.tim, h] at shownA shownB
          exact now ▸ ⟨shownA, shownB⟩
        · have earlier : c.val ≠ n := fun e => now (Fin.ext e)
          obtain ⟨a, b⟩ := before (by omega)
          have other := within_syncTdc_own u ⟨n, hn⟩
          have apart : ∀ f : Fld, f.addr = 0x1201010 ∧ f.stride = 0x100 ∧ f.words = 1 → (u.syncTdc ⟨n, hn⟩).flag f c = u.flag f c := by
            rintro f ⟨addr, stride, words⟩
            refine other.flag f c fun k hk => beq_eq_false_iff_ne.mpr ?_
            unfold Fld.at
            rw [addr, stride]
            show 0x1201010 + 0x100 * c.val + 4 * k ≠ 0x1201010 + 0x100 * n
            omega
          rw [apart _ (by decide), apart _ (by decide)]
          exact ⟨a, b⟩
      · next out => exact ⟨frame, fun _ => before (by omega)⟩
  exact (upTo 16).2 c.isLt

/-- The recovery from a long fault of the random source changes DEGRADED of the channels, and the note of that fault (R132). -/
theorem rngRecover_leaves : ∃ d, Within chanWord (s.withTim { s.tim with rngDegr := d }) s.rngRecover := by
  unfold State.rngRecover
  split
  · exact ⟨false, within_syncTdcs (s.withTim { s.tim with rngDegr := false })⟩
  · exact ⟨s.tim.rngDegr, .refl _ _⟩

end sync

end Sys2Proof.Machine

/-! ## Roles and random edges (R122, R127, R128) -/

namespace Sys2Proof.Machine

section roles

variable (s : State) (c : Fin 16)

theorem exec_interpRoleSwap : exec (.interpRoleSwap c) s = .next (s.roleSwap c) := rfl

theorem roleSwap_early (h : ¬(s.tdc c).swapTick + 65536 ≤ s.time.tick) : s.roleSwap c = s := if_pos (Nat.not_le.mp h)

theorem roleSwap_due (h : (s.tdc c).swapTick + 65536 ≤ s.time.tick) :
    s.roleSwap c = (s.setTdc c { s.tdc c with swapTick := s.time.tick }).roleExchange c := if_neg (Nat.not_lt.mpr h)

/-- While MEASURE converts, the exchange waits (R122). -/
theorem roleExchange_waits (h : s.time.lc.toNat < ((s.tdc c).interp (s.measIb c)).busyTill) :
    s.roleExchange c = s.setTdc c { s.tdc c with swapDue := true } := if_pos (decide_eq_true h)

/-- The channel as an exchange of roles leaves it: no hit of the running tick period counts (R128). -/
def TdcCh.exchanged (x : TdcCh) : TdcCh := { x with swapDue := false, ia := { x.ia with pend := none }, ib := { x.ib with pend := none } }

theorem roleExchange_free (h : ((s.tdc c).interp (s.measIb c)).busyTill ≤ s.time.lc.toNat) :
    s.roleExchange c = (s.setTdc c (s.tdc c).exchanged).setFlag R.TIM_STATE_MEASURE c (!s.measIb c) :=
  if_neg fun busy => absurd (of_decide_eq_true busy) (Nat.not_lt.mpr h)

theorem measIb_setTdc (k : Fin 16) (x : TdcCh) : (s.setTdc c x).measIb k = s.measIb k := measIb_of_words (s := s) (t := s.setTdc c x) (fun _ => rfl) k

theorem measIb_setMeasure (b : Bool) : (s.setFlag R.TIM_STATE_MEASURE c b).measIb c = b :=
  flag_setFlag_own s b (by revert c; decide) rfl

theorem measIb_setMeasure_ne {k : Fin 16} (b : Bool) (h : k ≠ c) : (s.setFlag R.TIM_STATE_MEASURE c b).measIb k = s.measIb k :=
  flag_setFlag_parted s b (by revert c k; decide)

/-- The roles change places (R122). -/
theorem roleSwap_exchanges (due : (s.tdc c).swapTick + 65536 ≤ s.time.tick) (free : ((s.tdc c).interp (s.measIb c)).busyTill ≤ s.time.lc.toNat) :
    (s.roleSwap c).measIb c = !s.measIb c ∧ (s.roleSwap c).tdc c = { (s.tdc c).exchanged with swapTick := s.time.tick }
      ∧ ∀ k, k ≠ c → (s.roleSwap c).tdc k = s.tdc k ∧ (s.roleSwap c).measIb k = s.measIb k := by
  have timed := tdc_setTdc_same s c { s.tdc c with swapTick := s.time.tick }
  have role : ∀ k, (s.setTdc c { s.tdc c with swapTick := s.time.tick }).measIb k = s.measIb k := fun k => measIb_setTdc s c k _
  have others : ∀ k, k ≠ c → (s.setTdc c { s.tdc c with swapTick := s.time.tick }).tdc k = s.tdc k := fun k h => tdc_setTdc_ne s _ h
  have clock : (s.setTdc c { s.tdc c with swapTick := s.time.tick }).time = s.time := rfl
  rw [roleSwap_due s c due]
  generalize s.setTdc c { s.tdc c with swapTick := s.time.tick } = u at timed role others clock ⊢
  have rest : ((u.tdc c).interp (u.measIb c)).busyTill ≤ u.time.lc.toNat := by
    rw [timed, role, clock]
    exact free
  rw [roleExchange_free u c rest, role, timed]
  have hidden : ∀ k, ((u.setTdc c (TdcCh.exchanged { s.tdc c with swapTick := s.time.tick })).setFlag R.TIM_STATE_MEASURE c (!s.measIb c)).tdc k
      = (u.setTdc c (TdcCh.exchanged { s.tdc c with swapTick := s.time.tick })).tdc k := fun k => tdc_of_tim (by rw [State.setFlag_tim]) k
  refine ⟨measIb_setMeasure _ c _, (hidden c).trans (tdc_setTdc_same ..), fun k h => ⟨?_, ?_⟩⟩
  · rw [hidden, tdc_setTdc_ne u _ h, others k h]
  · rw [measIb_setMeasure_ne _ c _ h, measIb_setTdc, role]

end roles

/-! ### A random edge (R127, R132) -/

/-- A channel that a random edge is offered to: an idle CAL interpolator holds the code, unless the source is at fault (R127, R132). -/
def TdcCh.hit (x : TdcCh) (cal fault : Bool) (now : Nat) (code : Option Nat) : TdcCh :=
  let i := x.interp cal
  match code with
  | none => x
  | some code =>
    if x.tb = 1 || code ≥ 384 || decide (now < i.busyTill) then x
    else x.setInterp cal { i with pend := if fault then none else some code, calConv := true, busyTill := now + convUnits }

section hit

variable (x : TdcCh) (cal fault : Bool) (now : Nat) {code : Nat}

theorem hit_idle (tb : x.tb ≠ 1) (line : code < 384) (idle : (x.interp cal).busyTill ≤ now) : x.hit cal fault now (some code)
    = x.setInterp cal { x.interp cal with pend := if fault then none else some code, calConv := true, busyTill := now + convUnits } :=
  if_neg (by simp [tb, line, idle])

theorem hit_passed (h : x.tb = 1 ∨ 384 ≤ code ∨ now < (x.interp cal).busyTill) : x.hit cal fault now (some code) = x :=
  if_pos (by simpa [or_assoc] using h)

end hit

section random

variable (s : State) (codes : List Nat)

/-- One channel of `State.randomEdge`. -/
def State.hitAt (s : State) (fault : Bool) (codes : List Nat) (c : Fin 16) : State :=
  let x := s.tdc c
  let cal := !s.measIb c
  let i := x.interp cal
  match codes[c.val]? with
  | none => s
  | some code =>
    if x.tb = 1 || code ≥ 384 || decide (s.time.lc.toNat < i.busyTill) then s
    else s.setTdc c (x.setInterp cal { i with pend := if fault then none else some code, calConv := true, busyTill := s.time.lc.toNat + convUnits })

/-- A random edge at the CAL interpolators of all channels. -/
def State.hits (s : State) (codes : List Nat) : State := s.forN 16 fun c u => if h : c < 16 then u.hitAt s.rngFault codes ⟨c, h⟩ else u

theorem exec_randomEdge : exec (.randomEdge codes) s = .next ((s.hits codes).sourceEdge 12 false 0 (codes.drop 16)) := rfl

theorem setTdc_self (c : Fin 16) : s.setTdc c (s.tdc c) = s := by
  simp [State.setTdc, State.tdc]

theorem hitAt_eq (fault : Bool) (c : Fin 16) :
    s.hitAt fault codes c = s.setTdc c ((s.tdc c).hit (!s.measIb c) fault s.time.lc.toNat codes[c.val]?) := by
  unfold State.hitAt TdcCh.hit
  dsimp only
  split
  · exact (setTdc_self s c).symm
  · split
    · exact (setTdc_self s c).symm
    · rfl

/-- A random edge changes the channels alone, each by what it holds itself. -/
theorem hits_leaves : s.hits codes = s.withTim (s.hits codes).tim
    ∧ ∀ k, (s.hits codes).tdc k = (s.tdc k).hit (!s.measIb k) s.rngFault s.time.lc.toNat codes[k.val]? := by
  have upTo : ∀ n, (s.forN n fun c u => if h : c < 16 then u.hitAt s.rngFault codes ⟨c, h⟩ else u)
        = s.withTim (s.forN n fun c u => if h : c < 16 then u.hitAt s.rngFault codes ⟨c, h⟩ else u).tim
      ∧ ∀ k : Fin 16, (s.forN n fun c u => if h : c < 16 then u.hitAt s.rngFault codes ⟨c, h⟩ else u).tdc k
        = if k.val < n then (s.tdc k).hit (!s.measIb k) s.rngFault s.time.lc.toNat codes[k.val]? else s.tdc k := by
    intro n
    induction n with
    | zero => exact ⟨rfl, fun _ => rfl⟩
    | succ n ih =>
      rw [forN_succ]
      obtain ⟨frame, channels⟩ := ih
      generalize (s.forN n fun c u => if h : c < 16 then u.hitAt s.rngFault codes ⟨c, h⟩ else u) = u at frame channels ⊢
      have role : ∀ k, u.measIb k = s.measIb k := by rw [frame]; exact fun k => measIb_of_words (fun _ => rfl) k
      have clock : u.time = s.time := by rw [frame]; rfl
      split
      · next hn =>
        rw [hitAt_eq, role, clock]
        refine ⟨by rw [frame]; rfl, fun k => ?_⟩
        by_cases now : k = ⟨n, hn⟩
        · rw [now, tdc_setTdc_same, if_pos (Nat.lt_succ_self n), channels, if_neg (Nat.lt_irrefl n)]
        · have other : k.val ≠ n := fun e => now (Fin.ext e)
          have same : k.val < n + 1 ↔ k.val < n := by omega
          rw [tdc_setTdc_ne u _ now, channels]
          simp only [same]
      · next out =>
        refine ⟨frame, fun k => ?_⟩
        rw [channels, if_pos (by omega), if_pos (by omega)]
  obtain ⟨frame, channels⟩ := upTo 16
  exact ⟨frame, fun k => (channels k).trans (if_pos k.isLt)⟩

end random

end Sys2Proof.Machine

/-! ## Calibration tables (R129 to R131) -/

namespace Sys2Proof.Machine

section tables

variable (s : State) (c : Fin 16) (ib : Bool)

theorem exec_calTableComplete : exec (.calTableComplete c ib) s = .next (s.calDone c ib) := rfl

theorem calDone_filling (h : ((s.tdc c).interp ib).total < 1048576) : s.calDone c ib = s := if_pos h

/-- The table of an interpolator takes a list of centres. -/
def State.tablePut (s : State) (c : Fin 16) (ib : Bool) (tbl : List Nat) : State :=
  s.forN 384 fun k s => s.set R.TIM_TABLE (tblIx c ib k) ((tbl[k]?).getD 0)

theorem table_plain {k : Nat} (h : k < 384) : R.TIM_TABLE.plain (tblIx c ib k) := by
  intro j hj
  have one : j < 1 := hj
  have below := tblIx_lt c ib h
  have at_ : R.TIM_TABLE.at (tblIx c ib k) = 0x1210000 + 4 * tblIx c ib k := rfl
  unfold rwsOff
  have j0 : j = 0 := by omega
  rw [at_, j0, if_neg (by omega), if_neg (by omega), if_neg (by omega), if_pos (by omega)]
  extract_lets o
  have high : ¬o < 0x2000 := by omega
  simp [high]

theorem tblIx_inj {k j : Nat} (h : k ≠ j) : R.TIM_TABLE.at (tblIx c ib k) + 4 * R.TIM_TABLE.words ≤ R.TIM_TABLE.at (tblIx c ib j)
    ∨ R.TIM_TABLE.at (tblIx c ib j) + 4 * R.TIM_TABLE.words ≤ R.TIM_TABLE.at (tblIx c ib k) := by
  simp only [Fld.at, R.TIM_TABLE, Fld.words, tblIx]
  omega

/-- Each code of the table reads as it was put, and nothing but the tables changes. -/
theorem tablePut_leaves (tbl : List Nat) : Within tableWord s (s.tablePut c ib tbl)
    ∧ ∀ k, k < 384 → (s.tablePut c ib tbl).get R.TIM_TABLE (tblIx c ib k) = ((tbl[k]?).getD 0) % 2 ^ R.TIM_TABLE.width := by
  have upTo : ∀ n, n ≤ 384 → Within tableWord s (s.forN n fun k s => s.set R.TIM_TABLE (tblIx c ib k) ((tbl[k]?).getD 0))
      ∧ ∀ k, k < n → (s.forN n fun k s => s.set R.TIM_TABLE (tblIx c ib k) ((tbl[k]?).getD 0)).get R.TIM_TABLE (tblIx c ib k)
        = ((tbl[k]?).getD 0) % 2 ^ R.TIM_TABLE.width := by
    intro n
    induction n with
    | zero => exact fun _ => ⟨.refl _ _, fun k none_ => absurd none_ (Nat.not_lt_zero k)⟩
    | succ n ih =>
      intro hn
      obtain ⟨frame, put⟩ := ih (by omega)
      rw [forN_succ]
      refine ⟨frame.trans (within_set _ _ _ _ (tblIx_table c ib (by omega))), fun k hk => ?_⟩
      by_cases now : k = n
      · rw [now]
        exact get_set_same _ (table_plain c ib (by omega))
      · rw [get_set_apart (tblIx_inj c ib now)]
        exact put k (by omega)
  exact upTo 384 (Nat.le_refl _)

/-- An interpolator that has a new table (R130, R131). -/
def Interp.accepted (i : Interp) : Interp := { i with hist := [], total := 0, rejects := 0, ready := true, fresh := true, rebuilt := true }

/-- A channel in REBUILD that has a table of both interpolators is back (R126). -/
def TdcCh.returns (x : TdcCh) : Bool := x.tb = 3 && x.ia.rebuilt && x.ib.rebuilt

/-- A channel whose interpolator has a new table (R126, R130). -/
def TdcCh.accepted (x : TdcCh) (ib : Bool) : TdcCh :=
  let x := x.setInterp ib (x.interp ib).accepted
  if x.returns then { x with tb := 0 } else x

theorem interp_accepted (x : TdcCh) : (x.accepted ib).interp ib = (x.interp ib).accepted := by
  unfold TdcCh.accepted
  dsimp only
  split
  · exact interp_setInterp_same x ib _
  · exact interp_setInterp_same x ib _

/-- The registers show the new table (R130, R137). -/
def State.tableShown (s : State) (c : Fin 16) (ib : Bool) : State :=
  let i := (s.tdc c).interp ib
  let s := s.tablePut c ib (calTable s.lcInc i.hist calN)
  let s := s.bumpW (if ib then R.TIM_STATE_TABLE_GEN_B else R.TIM_STATE_TABLE_GEN_A) c
  let s := s.set (if ib then R.TIM_ACTIVE_ACTIVE_B else R.TIM_ACTIVE_ACTIVE_A) c i.hist.length
  s.raiseBit R.TIM_CAL_READY 0 (2 * c.val + b2n ib)

theorem within_tableGen (u : State) (v : Nat) : Within chanWord u (u.set (if ib then R.TIM_STATE_TABLE_GEN_B else R.TIM_STATE_TABLE_GEN_A) c v) := by
  cases ib <;> exact within_channel u (by unfold Fld.ofChannel; decide) c v

theorem within_tableActive (u : State) (v : Nat) : Within chanWord u (u.set (if ib then R.TIM_ACTIVE_ACTIVE_B else R.TIM_ACTIVE_ACTIVE_A) c v) := by
  cases ib <;> exact within_channel u (by unfold Fld.ofChannel; decide) c v

theorem tableShown_leaves : (s.tableShown c ib).tim = s.tim
    ∧ (∀ k, k < 384 → (s.tableShown c ib).get R.TIM_TABLE (tblIx c ib k)
      = (((calTable s.lcInc ((s.tdc c).interp ib).hist calN)[k]?).getD 0) % 2 ^ R.TIM_TABLE.width)
    ∧ ((s.tableShown c ib).get R.TIM_CAL_READY).testBit (2 * c.val + b2n ib) = true := by
  obtain ⟨tables, put⟩ := tablePut_leaves s c ib (calTable s.lcInc ((s.tdc c).interp ib).hist calN)
  unfold State.tableShown
  dsimp only
  generalize s.tablePut c ib (calTable s.lcInc ((s.tdc c).interp ib).hist calN) = u at tables put ⊢
  generalize hv : (u.bumpW (if ib = true then R.TIM_STATE_TABLE_GEN_B else R.TIM_STATE_TABLE_GEN_A) c).set
    (if ib = true then R.TIM_ACTIVE_ACTIVE_B else R.TIM_ACTIVE_ACTIVE_A) c ((s.tdc c).interp ib).hist.length = v
  have shown : Within chanWord u v := hv ▸ (within_tableGen c ib u _).trans (within_tableActive c ib _ _)
  have raised : Within (fun a => a == 0x1200008 || pendWord a) v (v.raiseBit R.TIM_CAL_READY 0 (2 * c.val + b2n ib)) := within_raiseBit _ _ _ _ rfl rfl (by decide)
  have bit : 2 * c.val + b2n ib < 32 := by cases ib <;> simp only [b2n, if_true, if_false, Bool.false_eq_true] <;> omega
  refine ⟨by rw [raised.tim, shown.tim, tables.tim], fun k hk => ?_, ?_⟩
  · rw [raised.get _ _ fun j hj => ?_, shown.get _ _ fun j hj => ?_]
    · exact put k hk
    · exact tdcWord_chan (tdcWord_table (tblIx_table c ib hk j hj))
    · have table := tblIx_table c ib hk j hj
      simp only [tableWord, Bool.and_eq_true, decide_eq_true_eq] at table
      exact Bool.or_eq_false_iff.mpr ⟨beq_eq_false_iff_ne.mpr (by omega), pendWord_apart (by omega)⟩
  · rw [get_raiseBit_same (by unfold Fld.plain; decide) bit (by decide), Nat.testBit_or, Nat.testBit_two_pow_self, Bool.or_true]

/-- The channel holds its new table. -/
def State.tableHeld (s : State) (c : Fin 16) (ib : Bool) : State := (s.tableShown c ib).setTdc c ((s.tdc c).accepted ib)

/-- TB_BACK and TB_STATE when a channel is PRESENT again (R126). -/
def State.tbBack (s : State) : State := (s.raiseBit R.TIM_EVT_TB_BACK 0 0).syncTb

theorem calDone_accepts (full : 1048576 ≤ ((s.tdc c).interp ib).total) (ok : calOk s.lcInc ((s.tdc c).interp ib).hist 1048576 = true) :
    s.calDone c ib = ((if ((s.tdc c).setInterp ib ((s.tdc c).interp ib).accepted).returns then (s.tableHeld c ib).tbBack else s.tableHeld c ib).syncTdc c).rngRecover :=
  (if_neg (Nat.not_lt.mpr full)).trans (if_pos ok)

theorem within_tbBack : Within tdcWord s s.tbBack :=
  ((within_timEvt s R.TIM_EVT_TB_BACK (by decide)).mono fun a ha => by
    simp only [tdcWord, Bool.or_eq_false_iff] at ha
    obtain ⟨⟨⟨-, evt⟩, -⟩, pend⟩ := ha
    exact Bool.or_eq_false_iff.mpr ⟨evt, pend⟩).trans ((within_syncTb _).mono fun a ha => by
    simp only [tdcWord, Bool.or_eq_false_iff] at ha
    obtain ⟨⟨⟨stat, -⟩, -⟩, -⟩ := ha
    exact stat)

/-- What follows a table that was taken: TIM_STAT, TIM_EVT and what the channels show (R126, R131, R132). -/
theorem calDone_after (full : 1048576 ≤ ((s.tdc c).interp ib).total) (ok : calOk s.lcInc ((s.tdc c).interp ib).hist 1048576 = true) :
    (s.calDone c ib).tim.ch = (s.tableHeld c ib).tim.ch
      ∧ ∀ f i, (∀ k < f.words, tdcWord (f.at i + 4 * k) = false) → (s.calDone c ib).get f i = (s.tableHeld c ib).get f i := by
  rw [calDone_accepts s c ib full ok]
  generalize s.tableHeld c ib = u
  generalize hv : ((if ((s.tdc c).setInterp ib ((s.tdc c).interp ib).accepted).returns = true then u.tbBack else u).syncTdc c) = v
  have shown : Within tdcWord u v := hv ▸ (within_ite (within_tbBack u) (.refl _ _)).trans ((within_syncTdc _ c).mono fun _ => tdcWord_chan)
  obtain ⟨d, recovered⟩ := rngRecover_leaves v
  refine ⟨?_, fun f i apart => ?_⟩
  · rw [recovered.tim, withTim_tim, shown.tim]
  · rw [recovered.get f i fun k hk => tdcWord_chan (apart k hk), get_withTim, shown.get f i apart]

/-- A histogram that fails R130 is counted, and TDC_CAL_REJECT is raised (R131). -/
def State.tableRefused (s : State) (c : Fin 16) (ib : Bool) : State :=
  let i := (s.tdc c).interp ib
  ((s.setTdc c ((s.tdc c).setInterp ib { i with hist := [], total := 0, rejects := i.rejects + 1 })).bump R.TIM_CNT2_CAL_REJECTS c).raiseBit R.TIM_EVT_CAL_REJECTED 0 0

theorem calDone_refuses (full : 1048576 ≤ ((s.tdc c).interp ib).total) (bad : calOk s.lcInc ((s.tdc c).interp ib).hist 1048576 = false) :
    s.calDone c ib = ((s.tableRefused c ib).raise fsTdcCalReject c.val).syncTdc c :=
  (if_neg (Nat.not_lt.mpr full)).trans (if_neg (Bool.eq_false_iff.mp bad))

theorem tableRefused_leaves : ((s.tableRefused c ib).tdc c).interp ib
      = { (s.tdc c).interp ib with hist := [], total := 0, rejects := ((s.tdc c).interp ib).rejects + 1 }
    ∧ (s.tableRefused c ib).get R.TIM_CNT2_CAL_REJECTS c = Nat.min (s.get R.TIM_CNT2_CAL_REJECTS c + 1) (2 ^ R.TIM_CNT2_CAL_REJECTS.width - 1)
    ∧ ∀ k, k < 384 → (s.tableRefused c ib).get R.TIM_TABLE (tblIx c ib k) = s.get R.TIM_TABLE (tblIx c ib k) := by
  unfold State.tableRefused
  dsimp only
  generalize hu : s.setTdc c ((s.tdc c).setInterp ib { (s.tdc c).interp ib with hist := [], total := 0, rejects := ((s.tdc c).interp ib).rejects + 1 }) = u
  have own : ∀ c : Fin 16, R.TIM_CNT2_CAL_REJECTS.own c = true := by decide
  have apart : ∀ c : Fin 16, ∀ k < R.TIM_CNT2_CAL_REJECTS.words, (R.TIM_CNT2_CAL_REJECTS.at c + 4 * k == 0x1200004 || pendWord (R.TIM_CNT2_CAL_REJECTS.at c + 4 * k)) = false := by
    decide
  have same : ∀ f i, u.get f i = s.get f i := fun f i => by rw [← hu, setTdc_eq, get_withTim]
  have counted : Within chanWord u (u.bump R.TIM_CNT2_CAL_REJECTS c) := within_channel u (by unfold Fld.ofChannel; decide) c _
  have noted := within_timEvt (u.bump R.TIM_CNT2_CAL_REJECTS c) R.TIM_EVT_CAL_REJECTED (by decide)
  refine ⟨?_, ?_, fun k hk => ?_⟩
  · rw [noted.tdc, counted.tdc, ← hu, tdc_setTdc_same, interp_setInterp_same]
  · rw [noted.get _ _ (apart c), bump_counts u (own c), same]
  · have table := fun j hj => tdcWord_table (tblIx_table c ib hk j hj)
    rw [noted.get _ _ fun j hj => ?_, counted.get _ _ fun j hj => tdcWord_chan (table j hj), same]
    have := table j hj
    simp only [tdcWord, Bool.or_eq_false_iff] at this
    obtain ⟨⟨⟨-, evt⟩, -⟩, pend⟩ := this
    exact Bool.or_eq_false_iff.mpr ⟨evt, pend⟩

end tables

end Sys2Proof.Machine

/-! ## The rate of random edges (R132) -/

namespace Sys2Proof.Machine

section rate

variable (s : State)

theorem exec_rngRateCheck (rate : Nat) : exec (.rngRateCheck rate) s = .next (s.rngRate rate) := rfl
theorem exec_rngFaultPersist : exec .rngFaultPersist s = .next s.rngPersist := rfl

/-- A level source that ends (R453). -/
theorem levelOff_ends {k : Nat} (hk : k < 160) : (s.levelOff k).active k = false ∧ Within (· == 0x200120 + 4 * (k / 32)) s (s.levelOff k) := by
  have at_ : R.FLT_ACTIVE.at (k / 32) = 0x200120 + 4 * (k / 32) := rfl
  have plain : R.FLT_ACTIVE.plain (k / 32) := fun j hj => by
    have one : j < 1 := hj
    unfold rwsOff
    rw [at_, if_pos (by omega)]
  refine ⟨?_, within_set _ _ _ _ fun j hj => beq_iff_eq.mpr ?_⟩
  · unfold State.active State.levelOff
    rw [testBit_clearBit plain, bne_self_eq_false, Bool.and_false]
  · have one : j < 1 := hj
    omega

theorem within_rate {rate : Nat} : within 10000000 30000000 rate = true ↔ 10000000 ≤ rate ∧ rate ≤ 30000000 := by
  unfold within
  rw [Bool.and_eq_true, decide_eq_true_eq, decide_eq_true_eq]

/-- TIM_RNG_RATE and RNG_OK of a second (R132). -/
def State.rateShown (s : State) (rate : Nat) : State :=
  (s.set R.TIM_RNG_RATE 0 (Nat.min (rate / 1000) (2 ^ 25 - 1))).setFlag R.TIM_STAT_RNG_OK 0 (within 10000000 30000000 rate)

theorem rateShown_leaves (rate : Nat) : (s.rateShown rate).get R.TIM_RNG_RATE = Nat.min (rate / 1000) (2 ^ 25 - 1)
    ∧ (s.rateShown rate).flag R.TIM_STAT_RNG_OK = within 10000000 30000000 rate ∧ (s.rateShown rate).tim = s.tim ∧ (s.rateShown rate).time = s.time := by
  unfold State.rateShown
  refine ⟨?_, flag_setFlag_own _ _ (by decide) rfl, by rw [State.setFlag_tim, State.set_tim], by rw [State.setFlag_time, State.set_time]⟩
  rw [get_setFlag_parted _ _ (by decide), get_set_own _ _ (by decide)]
  exact Nat.mod_eq_of_lt (Nat.lt_of_le_of_lt (Nat.min_le_right _ _) (by decide))

/-- A channel whose histograms begin anew (R132). -/
def TdcCh.begun (x : TdcCh) : TdcCh :=
  let clean := fun (i : Interp) => { i with hist := [], total := 0, pend := none, fresh := false }
  { x with ia := clean x.ia, ib := clean x.ib }

/-- The rate is inside its limits: histograms that a fault had stopped begin anew (R132). -/
def State.rateGood (s : State) (was : Bool) : State :=
  let s := if was then s.mapTdc TdcCh.begun else s
  s.withTim { s.tim with rngGood := s.time.lc.toNat }

theorem rngRate_good {rate : Nat} (h : within 10000000 30000000 rate = true) :
    s.rngRate rate = (((s.rateShown rate).rateGood ((s.set R.TIM_RNG_RATE 0 (Nat.min (rate / 1000) (2 ^ 25 - 1))).rngFault)).levelOff fsTdcRng).rngRecover := if_pos h

theorem rngRate_bad {rate : Nat} (h : within 10000000 30000000 rate = false) :
    s.rngRate rate = ((s.rateShown rate).raiseBit R.TIM_EVT_RNG_FAULT 0 0).levelOn fsTdcRng := if_neg (Bool.eq_false_iff.mp h)

theorem rateGood_leaves (was : Bool) : (s.rateGood was).tim.rngGood = s.time.lc.toNat ∧ ∀ f i, (s.rateGood was).get f i = s.get f i := by
  unfold State.rateGood
  dsimp only
  refine ⟨?_, fun f i => (get_withTim _ _ f i).trans ?_⟩
  · cases was <;> rfl
  · cases was
    · rfl
    · exact get_withTim s _ f i

theorem rngRate_recovers {rate : Nat} (lo : 10000000 ≤ rate) (hi : rate ≤ 30000000) : (s.rngRate rate).flag R.TIM_STAT_RNG_OK = true
    ∧ (s.rngRate rate).get R.TIM_RNG_RATE = rate / 1000 ∧ (s.rngRate rate).active fsTdcRng = false ∧ (s.rngRate rate).tim.rngGood = s.time.lc.toNat := by
  have ok := within_rate.mpr ⟨lo, hi⟩
  obtain ⟨rateReads, okReads, -, clock⟩ := rateShown_leaves s rate
  obtain ⟨good, regs⟩ := rateGood_leaves (s.rateShown rate) ((s.set R.TIM_RNG_RATE 0 (Nat.min (rate / 1000) (2 ^ 25 - 1))).rngFault)
  rw [rngRate_good s ok]
  generalize (s.rateShown rate).rateGood _ = u at good regs ⊢
  obtain ⟨ended, off⟩ := levelOff_ends u (k := fsTdcRng) (by decide)
  obtain ⟨d, recovered⟩ := rngRecover_leaves (u.levelOff fsTdcRng)
  have kept : ∀ f : Fld, (∀ k < f.words, chanWord (f.at 0 + 4 * k) = false) → (∀ k < f.words, (f.at 0 + 4 * k == 0x200124) = false) →
      (u.levelOff fsTdcRng).rngRecover.get f = (s.rateShown rate).get f := fun f chan flt => by
    rw [recovered.get f 0 chan, get_withTim, off.get f 0 flt, regs]
  refine ⟨?_, ?_, ?_, ?_⟩
  · rw [← ok, ← okReads]
    unfold State.flag
    rw [kept _ (by decide) (by decide)]
  · rw [kept _ (by decide) (by decide), rateReads]
    exact Nat.min_eq_left (by omega)
  · unfold State.active at ended ⊢
    rw [recovered.get _ _ (by decide), get_withTim, ended]
  · rw [recovered.tim]
    show (u.levelOff fsTdcRng).tim.rngGood = _
    rw [off.tim, good, clock]

/-- A rate outside its limits shows before the fault is raised (R132). -/
theorem rngRate_fails {rate : Nat} (h : rate < 10000000 ∨ 30000000 < rate) : ∃ u : State, u.flag R.TIM_STAT_RNG_OK = false ∧ u.flag R.TIM_EVT_RNG_FAULT = true
    ∧ u.tim = s.tim ∧ s.rngRate rate = u.levelOn fsTdcRng := by
  have bad : within 10000000 30000000 rate = false := Bool.eq_false_iff.mpr fun ok => by
    obtain ⟨lo, hi⟩ := within_rate.mp ok
    omega
  obtain ⟨-, okReads, hidden, -⟩ := rateShown_leaves s rate
  have noted := within_timEvt (s.rateShown rate) R.TIM_EVT_RNG_FAULT (by decide)
  refine ⟨_, ?_, flag_raiseBit_same _ (by unfold Fld.plain; decide) rfl (by decide), noted.tim.trans hidden, rngRate_bad s bad⟩
  rw [noted.flag _ _ (by decide), okReads, bad]

theorem rngPersist_idle (h : s.active fsTdcRng = false ∨ s.past s.tim.rngGood 60 = false) : s.rngPersist = s :=
  if_pos (by rcases h with h | h <;> simp [State.rngFault, h])

theorem rngPersist_due (active : s.active fsTdcRng = true) (past : s.past s.tim.rngGood 60 = true) :
    s.rngPersist = (s.withTim { s.tim with rngDegr := true }).syncTdcs := if_neg (by simp [State.rngFault, active, past])

end rate

end Sys2Proof.Machine

/-! ## The time base of the channels (R125, R126) -/

namespace Sys2Proof.Machine

section timeBase

variable (s : State)

theorem exec_tbPresenceLoss : exec .tbPresenceLoss s = .next ((s.withTim { s.tim with presOk := false, failAt := s.time.lc.toNat }).tbLost 1) := rfl

theorem exec_tbRebuildStart : exec .tbRebuildStart s = .next (s.when_ s.tbPassed State.tbRebuild) := rfl

theorem exec_tbFreqWindow_suspended (count : Nat) (h : s.flag R.CLK_STAT_XTAL_LOST = true) : exec (.tbFreqWindow count) s = .next s :=
  congrArg Host.Outcome.next (if_neg (by rw [h]; decide))

theorem exec_tbFreqWindow_good {count : Nat} (h : s.flag R.CLK_STAT_XTAL_LOST = false) (lo : 122757 ≤ count) (hi : count ≤ 123003) :
    exec (.tbFreqWindow count) s = .next (s.withTim { s.tim with freqOk := true }) := by
  have ok : within (122880 - 123) (122880 + 123) count = true := by simp [within, lo, hi]
  refine congrArg Host.Outcome.next ((when_of_true _ (by rw [h]; rfl)).trans ?_)
  rw [ok]
  rfl

theorem exec_tbFreqWindow_bad {count : Nat} (h : s.flag R.CLK_STAT_XTAL_LOST = false) (out : count < 122757 ∨ 123003 < count) :
    exec (.tbFreqWindow count) s = .next ((s.withTim { s.tim with freqOk := false, failAt := s.time.lc.toNat }).tbLost 2) := by
  have bad : within (122880 - 123) (122880 + 123) count = false := by
    simp only [within, Bool.and_eq_false_iff, decide_eq_false_iff_not]
    omega
  refine congrArg Host.Outcome.next ((when_of_true _ (by rw [h]; rfl)).trans ?_)
  rw [bad]
  rfl

/-- Whether a channel leaves for ABSENT (1) or OFF_FREQ (2) (R126). -/
def TdcCh.leaves (x : TdcCh) (st : Nat) : Bool := x.tb != st && (x.tb == 0 || x.tb == 3 || st == 1)

/-- A channel that has lost the time base: an ABSENT one stays so (R126). -/
def TdcCh.lostTb (x : TdcCh) (st : Nat) : TdcCh :=
  if x.tb = 1 then x else { x with tb := st, ia := { x.ia with pend := none }, ib := { x.ib with pend := none } }

theorem lostTb_leaves (x : TdcCh) (st : Nat) : (x.lostTb st).tb = (if x.tb = 1 then 1 else st) ∧ (x.lostTb st).queue = x.queue := by
  unfold TdcCh.lostTb
  by_cases h : x.tb = 1
  · rw [if_pos h, if_pos h]
    exact ⟨h, rfl⟩
  · rw [if_neg h, if_neg h]
    exact ⟨rfl, rfl⟩

/-- The loss as the registers show it, before the fault is raised. -/
def State.tbLeft (s : State) (st : Nat) : State := (((s.mapTdc (·.lostTb st)).raiseBit R.TIM_EVT_TB_LOST 0 0).bump R.TIM_TB_CNT).syncTb

theorem tbLost_idle {st : Nat} (h : ∀ c, (s.tdc c).leaves st = false) : s.tbLost st = s :=
  if_pos (by
    rw [Bool.not_eq_true', Bool.eq_false_iff]
    intro some_
    obtain ⟨c, leaves⟩ := (any_channel s (·.leaves st)).mp some_
    rw [h c] at leaves
    cases leaves)

theorem tbLost_entered {st : Nat} (h : ∃ c, (s.tdc c).leaves st = true) : s.tbLost st = (s.tbLeft st).levelOn fsTdcTimebase :=
  if_neg (by
    have entered := (any_channel s (·.leaves st)).mpr h
    show ¬(!s.tim.ch.toList.any (·.leaves st)) = true
    rw [entered]
    decide)

theorem tbLeft_leaves (st : Nat) : (s.tbLeft st).tim = (s.mapTdc (·.lostTb st)).tim ∧ (s.tbLeft st).mem = s.mem ∧ (s.tbLeft st).flag R.TIM_EVT_TB_LOST = true
    ∧ (s.tbLeft st).get R.TIM_TB_CNT = Nat.min (s.get R.TIM_TB_CNT + 1) (2 ^ R.TIM_TB_CNT.width - 1) := by
  unfold State.tbLeft
  have regs : ∀ f i, (s.mapTdc (·.lostTb st)).get f i = s.get f i := fun f i => get_withTim s _ f i
  have mem : (s.mapTdc (·.lostTb st)).mem = s.mem := rfl
  generalize s.mapTdc (·.lostTb st) = u at regs mem ⊢
  have noted := within_timEvt u R.TIM_EVT_TB_LOST (by decide)
  have set : (u.raiseBit R.TIM_EVT_TB_LOST 0 0).flag R.TIM_EVT_TB_LOST = true := flag_raiseBit_same u (by unfold Fld.plain; decide) rfl (by decide)
  generalize u.raiseBit R.TIM_EVT_TB_LOST 0 0 = v at noted set ⊢
  have counted : Within (· == 0x1200010) v (v.bump R.TIM_TB_CNT) := within_bump v _ _ _ (by decide)
  have shown := within_syncTb (v.bump R.TIM_TB_CNT)
  refine ⟨?_, ?_, ?_, ?_⟩
  · rw [shown.tim, counted.tim, noted.tim]
  · rw [shown.mem, counted.mem, noted.mem, mem]
  · rw [shown.flag _ _ (by decide), counted.flag _ _ (by decide), set]
  · rw [shown.get _ _ (by decide), bump_counts v (by decide), noted.get _ _ (by decide), regs]

/-- A channel that begins to rebuild its tables (R126). -/
def TdcCh.rebuilding (x : TdcCh) : TdcCh :=
  let clean := fun (i : Interp) => { i with hist := [], total := 0, pend := none, rebuilt := false }
  if x.tb = 1 || x.tb = 2 then { x with tb := 3, ia := clean x.ia, ib := clean x.ib } else x

theorem rebuilding_leaves (x : TdcCh) : x.rebuilding.tb = (if x.tb = 1 ∨ x.tb = 2 then 3 else x.tb) ∧ x.rebuilding.queue = x.queue := by
  unfold TdcCh.rebuilding
  by_cases h : x.tb = 1 ∨ x.tb = 2
  · rw [if_pos h, if_pos (by simpa using h)]
    exact ⟨rfl, rfl⟩
  · rw [if_neg h, if_neg (by simpa using h)]
    exact ⟨rfl, rfl⟩

theorem tbRebuild_eq : s.tbRebuild = ((s.mapTdc TdcCh.rebuilding).levelOff fsTdcTimebase).syncTb := rfl

theorem tbRebuild_leaves : s.tbRebuild.active fsTdcTimebase = false ∧ ∀ c, s.tbRebuild.tdc c = (s.tdc c).rebuilding := by
  rw [tbRebuild_eq]
  obtain ⟨ended, off⟩ := levelOff_ends (s.mapTdc TdcCh.rebuilding) (k := fsTdcTimebase) (by decide)
  have shown := within_syncTb ((s.mapTdc TdcCh.rebuilding).levelOff fsTdcTimebase)
  refine ⟨?_, fun c => ?_⟩
  · unfold State.active at ended ⊢
    rw [shown.get _ _ (by decide), ended]
  · rw [shown.tdc, off.tdc, tdc_mapTdc]

end timeBase

end Sys2Proof.Machine

/-! ## Calibration and time base -/

namespace Sys2Proof.Machine

section settled

variable (s : State)

/-- A random edge at a channel whose line reads a code (R127, R132). -/
theorem hits_channel {c : Fin 16} {codes : List Nat} {code : Nat} (read : codes[c.val]? = some code) :
    (s.hits codes).tdc c = (s.tdc c).hit (!s.measIb c) (s.active fsTdcRng) s.time.lc.toNat (some code) := by
  obtain ⟨-, channels⟩ := hits_leaves s codes
  rw [channels, read]
  rfl

/-- A lost time base shows on every channel before its fault is raised (R126). -/
theorem tbLost_shows (x : TimSt) (st : Nat) (ch : x.ch = s.tim.ch) (h : ∃ c, (s.tdc c).leaves st = true) :
    (∀ c, (((s.withTim x).tbLeft st).tdc c).tb = (if (s.tdc c).tb = 1 then 1 else st) ∧ (((s.withTim x).tbLeft st).tdc c).queue = (s.tdc c).queue)
      ∧ ((s.withTim x).tbLeft st).flag R.TIM_EVT_TB_LOST = true
      ∧ ((s.withTim x).tbLeft st).get R.TIM_TB_CNT = Nat.min (s.get R.TIM_TB_CNT + 1) (2 ^ R.TIM_TB_CNT.width - 1) ∧ ((s.withTim x).tbLeft st).mem = s.mem
      ∧ ((s.withTim x).tbLeft st).tim = { x with ch := x.ch.map (·.lostTb st) } ∧ (s.withTim x).tbLost st = ((s.withTim x).tbLeft st).levelOn fsTdcTimebase := by
  have channel : ∀ c, (s.withTim x).tdc c = s.tdc c := tdc_of_tim ch
  obtain ⟨hidden, mem, evt, count⟩ := tbLeft_leaves (s.withTim x) st
  rw [get_withTim] at count
  obtain ⟨c, leaves⟩ := h
  refine ⟨fun c => ?_, evt, count, mem, hidden, tbLost_entered _ ⟨c, by rw [channel]; exact leaves⟩⟩
  rw [tdc_of_tim (congrArg TimSt.ch hidden), tdc_mapTdc, channel]
  exact lostTb_leaves _ _

end settled

/-- Settles O29: each clause by what its command does to the channels, and which words of TIM and FLT it writes on the way. -/
theorem calibrationAndTimeBase : Obligations.CalibrationAndTimeBase := by
  unfold Obligations.CalibrationAndTimeBase
  refine ⟨fun s c => ⟨fun early => ?_, fun due busy => ?_, fun due free => ?_, fun codes code read => ?_, fun ib => ⟨fun filling => ?_, fun full ok => ?_, fun full bad => ?_⟩,
    fun rate => ⟨fun lo hi => ⟨_, exec_rngRateCheck s rate, rngRate_recovers s lo hi⟩, fun out => ?_⟩, fun idle => ?_, fun active past => ?_⟩,
    fun s => ⟨fun present => ?_, fun absent => ?_, fun count lost => exec_tbFreqWindow_suspended s count lost, fun count kept lo hi => ?_, fun count kept out leaves => ?_,
      fun passed => ?_, fun waits => ?_⟩⟩
  · rw [exec_interpRoleSwap, roleSwap_early s c early]
  · have waits := roleExchange_waits (s.setTdc c { s.tdc c with swapTick := s.time.tick }) c (by rw [tdc_setTdc_same, measIb_setTdc]; exact busy)
    rw [exec_interpRoleSwap, roleSwap_due s c due, waits, tdc_setTdc_same, setTdc_setTdc]
  · obtain ⟨role, channel, others⟩ := roleSwap_exchanges s c due free
    refine ⟨_, exec_interpRoleSwap s c, role, ?_⟩
    rw [channel]
    exact ⟨rfl, rfl, rfl, rfl, rfl, others⟩
  · obtain ⟨frame, -⟩ := hits_leaves s codes
    refine ⟨s.hits codes, by rw [frame]; rfl, fun tb line idle => ?_, fun passes => ?_, exec_randomEdge s codes⟩
    · rw [hits_channel s read, hit_idle _ _ _ _ tb line idle, interp_setInterp_same, interp_setInterp_other]
      exact ⟨rfl, rfl, rfl, rfl⟩
    · rw [hits_channel s read, hit_passed _ _ _ _ passes]
  · rw [exec_calTableComplete, calDone_filling s c ib filling]
  · obtain ⟨channels, kept⟩ := calDone_after s c ib full ok
    obtain ⟨-, table, ready⟩ := tableShown_leaves s c ib
    have channel : ((s.calDone c ib).tdc c).interp ib = ((s.tdc c).interp ib).accepted := by
      rw [tdc_of_tim channels]
      unfold State.tableHeld
      rw [tdc_setTdc_same, interp_accepted]
    refine ⟨_, exec_calTableComplete s c ib, fun k hk => ?_, ?_, ?_, ?_, ?_⟩
    · rw [kept _ _ fun j hj => tdcWord_table (tblIx_table c ib hk j hj)]
      exact (get_withTim ..).trans (table k hk)
    · rw [channel]; rfl
    · rw [channel]; rfl
    · rw [channel]; rfl
    · rw [kept _ _ (by decide)]
      exact (congrArg (Nat.testBit · _) (get_withTim ..)).trans ready
  · obtain ⟨channel, count, tables⟩ := tableRefused_leaves s c ib
    refine ⟨s.tableRefused c ib, ?_, ?_, count, tables, ?_⟩
    · rw [channel]
    · rw [channel]
    · rw [exec_calTableComplete, calDone_refuses s c ib full bad]
  · obtain ⟨u, okReads, evt, hidden, ends⟩ := rngRate_fails s out
    exact ⟨u, okReads, evt, hidden, by rw [exec_rngRateCheck, ends]⟩
  · rw [exec_rngFaultPersist, rngPersist_idle s idle]
  · refine ⟨_, exec_rngFaultPersist s, ?_⟩
    rw [rngPersist_due s active past]
    exact ⟨by rw [(within_syncTdcs _).tim]; rfl, syncTdcs_degraded _ c rfl⟩
  · obtain ⟨c, here⟩ := present
    obtain ⟨channels, evt, count, mem, hidden, ends⟩ := tbLost_shows s { s.tim with presOk := false, failAt := s.time.lc.toNat } 1 rfl
      ⟨c, by simp [TdcCh.leaves, here]⟩
    refine ⟨_, fun c => ?_, evt, count, mem, fun _ => by rw [hidden], fun no => absurd no (by decide), by rw [hidden], by rw [exec_tbPresenceLoss, ends]⟩
    obtain ⟨tb, queue⟩ := channels c
    exact ⟨tb.trans (ite_self 1), queue⟩
  · refine ⟨_, exec_tbPresenceLoss s, ?_⟩
    rw [tbLost_idle _ fun c => by
      have channel : (s.withTim { s.tim with presOk := false, failAt := s.time.lc.toNat }).tdc c = s.tdc c := tdc_of_tim rfl c
      simp [TdcCh.leaves, channel, absent c]]
    exact ⟨rfl, rfl, rfl⟩
  · exact ⟨_, exec_tbFreqWindow_good s kept lo hi, rfl, rfl, rfl⟩
  · obtain ⟨c, here⟩ := leaves
    obtain ⟨channels, evt, count, mem, hidden, ends⟩ := tbLost_shows s { s.tim with freqOk := false, failAt := s.time.lc.toNat } 2 rfl
      ⟨c, by rcases here with here | here <;> simp [TdcCh.leaves, here]⟩
    exact ⟨_, channels, evt, count, mem, fun no => absurd no (by decide), fun _ => by rw [hidden], by rw [hidden], by rw [exec_tbFreqWindow_bad s kept out, ends]⟩
  · obtain ⟨ended, channels⟩ := tbRebuild_leaves s
    refine ⟨_, (exec_tbRebuildStart s).trans (congrArg _ (when_of_true _ passed)), ended, fun c => ?_⟩
    rw [channels]
    exact rebuilding_leaves _
  · rw [exec_tbRebuildStart, when_of_false _ waits]

end Sys2Proof.Machine

/-! ## A PLL that feeds GNS and loses lock, in a state that lists a register word twice -/

namespace Sys2Proof.Machine

/-- A state whose register list is not canonical: it names FLT_REACT of SYN_LOCK_LOST twice, first at its reset entry, then with CHIP. PLL 0 is
LOCKED and feeds GNS, whose sample clock is good. Guard is NORMAL; GNSS_CLK asks for an NMI of E2 alone, E2 runs, and an NMI resets it; CHIP_ALONE
allows a Chip reset. -/
def lockTwice : State :=
  { State.reset with
    regs := [(R.FLT_CFG_CHIP_ALONE.at 0, 1), (R.FLT_GUARD_STAT_STATE.at 0, 0),
      (R.FLT_REACT_REACT.at fsSynLockLost, coldWord (R.FLT_REACT_REACT.at fsSynLockLost)), (R.FLT_REACT_REACT.at fsSynLockLost, 0x8),
      (R.FLT_REACT_REACT.at fsGnssClk, 0x2), (R.SYN_SP_STAT_STATE.at 0, 3), (R.GNS_STAT_CLK_OK.at 0, 4),
      (R.ENG_STAT_STATE.at 2, 3), (R.ENG_TRAP_CFG.at 2, 0x80000)] }

/-- PLL 0 is LOCKED and drives the output that CLK_OUT names. -/
theorem lockTwice_feeds : lockTwice.pllState (0 : Fin 4) = 3 ∧ lockTwice.get R.GNS_CFG_CLK_OUT / 4 = (0 : Fin 4).val
    ∧ lockTwice.flag R.GNS_STAT_CLK_OK = true := by
  decide +kernel

/-- Neither source resets anything but E2, and the log has room. -/
theorem lockTwice_mild : lockTwice.mild fsGnssClk ∧ lockTwice.mild fsSynLockLost ∧ lockTwice.room 2 := by
  unfold State.mild State.room
  decide +kernel

/-- The NMI of GNSS_CLK resets E2, which drops entries that stand at their reset entry (R12), so the second entry of FLT_REACT shows: SYN_LOCK_LOST
asks for a Chip reset, after which PLL 0 is OFF. -/
theorem lockTwice_pllLost_off : (lockTwice.pllLost 0 false).pllState (0 : Fin 4) = 0 := by
  decide +kernel

theorem exec_pllLoss (s : State) (k : Fin 4) (slip : Bool) : exec (.pllLoss k slip) s = .next (s.pllLost k slip) := rfl

/-- Refutes O41, in its clause of a PLL that feeds GNS: nothing in the statement asks for a canonical state. In `lockTwice` neither GNSS_CLK nor
SYN_LOCK_LOST resets anything but E2, so PLL 0 should end LOST; but the NMI of GNSS_CLK drops the first of the two entries of the reactions of
SYN_LOCK_LOST, the second asks for a Chip reset, and PLL 0 ends OFF. -/
theorem not_synthesisPlls : ¬ Obligations.SynthesisPlls := by
  unfold Obligations.SynthesisPlls
  intro plls
  obtain ⟨-, -, -, -, -, -, -, -, -, loss, -⟩ := plls lockTwice 0
  obtain ⟨locked, feeds, clock⟩ := lockTwice_feeds
  obtain ⟨mildClock, mildLock, room⟩ := lockTwice_mild
  obtain ⟨-, -, both⟩ := loss false
  obtain ⟨t, e, lost, -⟩ := both locked feeds clock mildClock mildLock room
  rw [exec_pllLoss] at e
  rw [← Host.Outcome.next.inj e, lockTwice_pllLost_off] at lost
  exact absurd lost (by decide)

end Sys2Proof.Machine

/-! ## The words and the hidden state of GNS (R139 to R160) -/

namespace Sys2Proof.Machine

section hidden

variable (s : State) (g : GnsSt)

@[simp] theorem setGns_gns : (s.setGns g).gns = g := rfl
@[simp] theorem setGns_time : (s.setGns g).time = s.time := rfl
@[simp] theorem setGns_regs : (s.setGns g).regs = s.regs := rfl
@[simp] theorem setGns_knl : (s.setGns g).knl = s.knl := rfl
@[simp] theorem setGns_setGns (h : GnsSt) : (s.setGns g).setGns h = s.setGns h := rfl
@[simp] theorem word_setGns (a : Nat) : (s.setGns g).word a = s.word a := rfl
@[simp] theorem get_setGns (f : Fld) (i : Nat) : (s.setGns g).get f i = s.get f i := get_of_words (word_setGns s g) f i
@[simp] theorem flag_setGns (f : Fld) (i : Nat) : (s.setGns g).flag f i = s.flag f i := by
  unfold State.flag
  rw [get_setGns]

@[simp] theorem gated_setGns (u : Nat) : (s.setGns g).gated u = s.gated u := by
  unfold State.gated
  rw [get_setGns]

@[simp] theorem gsiPll_setGns : (s.setGns g).gsiPll = s.gsiPll := by
  unfold State.gsiPll
  rw [get_setGns, get_setGns]

@[simp] theorem mayBurst_setGns (mode : Nat) : (s.setGns g).mayBurst mode = s.mayBurst mode := by simp [State.mayBurst]

@[simp] theorem rx_setGns : (s.setGns g).rx = s.rx := get_setGns ..

@[simp] theorem engState_setGns (n : Fin 12) : (s.setGns g).engState n = s.engState n := get_setGns ..

@[simp] theorem scoutUp_setGns : (s.setGns g).scoutUp = s.scoutUp := by simp [State.scoutUp]

end hidden

/-! ### An event of GNS, an observed event, and the condition for gating -/

theorem Within.gns {p : Nat → Bool} {s t : State} (h : Within p s t) : t.gns = s.gns := by rw [← h.rest]

/-- The words that an event bit of GNS touches (R160, R366). -/
def gnsEvtWord (a : Nat) : Bool := a == 0x200000C || pendWord a

section events

variable (s : State)

theorem within_gnsEvt (b : Nat) : Within gnsEvtWord s (s.gnsEvt b) := within_raiseBit _ _ _ _ rfl rfl (by decide)

theorem gnsEvt_get {b : Nat} (h : b < 8) : (s.gnsEvt b).get R.GNS_EVT = s.get R.GNS_EVT ||| 2 ^ b :=
  get_raiseBit_same (by unfold Fld.plain; decide) h (by decide)

theorem gnsEvt_bit {b : Nat} (h : b < 8) : ((s.gnsEvt b).get R.GNS_EVT).testBit b = true := by
  rw [gnsEvt_get s h, Nat.testBit_or, Nat.testBit_two_pow_self, Bool.or_true]

/-- An event bit that is set stays set when another one follows. -/
theorem gnsEvt_holds {b j : Nat} (h : b < 8) (set : (s.get R.GNS_EVT).testBit j = true) : ((s.gnsEvt b).get R.GNS_EVT).testBit j = true := by
  rw [gnsEvt_get s h, Nat.testBit_or, set, Bool.true_or]

theorem get_gnsEvt (b : Nat) {f : Fld} {i : Nat} (h : ∀ k < f.words, gnsEvtWord (f.at i + 4 * k) = false) : (s.gnsEvt b).get f i = s.get f i :=
  (within_gnsEvt s b).get f i h

theorem flag_gnsEvt (b : Nat) {f : Fld} {i : Nat} (h : ∀ k < f.words, gnsEvtWord (f.at i + 4 * k) = false) : (s.gnsEvt b).flag f i = s.flag f i :=
  (within_gnsEvt s b).flag f i h

@[simp] theorem gnsEvt_gns (b : Nat) : (s.gnsEvt b).gns = s.gns := State.raiseBit_gns ..
@[simp] theorem gnsEvt_knl (b : Nat) : (s.gnsEvt b).knl = s.knl := State.raiseBit_knl ..

theorem get_obs (code loc n : Nat) {f : Fld} {i : Nat} (h : ∀ k < f.words, obsWord (f.at i + 4 * k) = false) : (s.obs code loc n).get f i = s.get f i :=
  (within_obs s code loc n).get f i h

theorem flag_obs (code loc n : Nat) {f : Fld} {i : Nat} (h : ∀ k < f.words, obsWord (f.at i + 4 * k) = false) : (s.obs code loc n).flag f i = s.flag f i :=
  (within_obs s code loc n).flag f i h

@[simp] theorem idleNow_gns (u : Fin 3) : (s.idleNow u).gns = s.gns := rfl
@[simp] theorem get_idleNow (u : Fin 3) (f : Fld) (i : Nat) : (s.idleNow u).get f i = s.get f i := get_withPwr ..
@[simp] theorem flag_idleNow (u : Fin 3) (f : Fld) (i : Nat) : (s.idleNow u).flag f i = s.flag f i := flag_withPwr ..

theorem get_bump_parted {f g : Fld} {i j : Nat} (n : Nat) (h : f.parted i g j = true) : (s.bump f i n).get g j = s.get g j := get_set_parted s _ h

theorem flag_bump_parted {f g : Fld} {i j : Nat} (n : Nat) (h : f.parted i g j = true) : (s.bump f i n).flag g j = s.flag g j := flag_set_parted s _ h

theorem run_gated {u : Nat} (f : State → State) (h : s.gated u = true) : s.run u f = s := if_pos h

theorem run_clocked {u : Nat} (f : State → State) (h : s.gated u = false) : s.run u f = f s := if_neg (by rw [h]; decide)

end events

end Sys2Proof.Machine

/-! ## Strobe, front end and bursts (R139, R141, R145, R151) -/

namespace Sys2Proof.Machine

section bursts

variable (s : State)

/-! ### The strobe (R139, R151) -/

theorem exec_gnssMsStrobe : exec .gnssMsStrobe s = .next (s.run 8 (·.msStrobe)) := rfl

/-- The state in which the strobe of this millisecond stands (R139). -/
def State.strobed (s : State) : State := s.setGns { s.gns with strobe := some (msOf s.rt, s.get R.KNL_TIME_MODE_CSET_VER) }

theorem msStrobe_eq : s.msStrobe = if msOf s.rt % 1000 = s.get R.GNS_CFG_BURST_PHASE
    then s.strobed.snapStart (msOf s.rt) (s.get R.KNL_TIME_MODE_CSET_VER) else s.strobed := by
  unfold State.msStrobe State.strobed
  simp

theorem msStrobe_starts (h : msOf s.rt % 1000 = s.get R.GNS_CFG_BURST_PHASE ∧ s.mayBurst 3 = true) :
    s.msStrobe = if s.get R.GNS_SNAP_STAT = 3 then (s.strobed.bump R.GNS_SNAP_CNT_SKIPPED).gnsEvt 3
      else (s.strobed.setGns { s.strobed.gns with cap := some (msOf s.rt, s.get R.KNL_TIME_MODE_CSET_VER, false), epoch := msOf s.rt }).setFlag
        R.GNS_STAT_BURST_ACTIVE 0 true := by
  obtain ⟨phase, may⟩ := h
  rw [msStrobe_eq, if_pos phase]
  simp [State.snapStart, State.strobed, may]

/-- With neither slot free the capture is skipped and counted (R151). -/
theorem msStrobe_skips (h : msOf s.rt % 1000 = s.get R.GNS_CFG_BURST_PHASE ∧ s.mayBurst 3 = true) (full : s.get R.GNS_SNAP_STAT = 3) :
    s.msStrobe.gns = s.strobed.gns ∧ (s.msStrobe.get R.GNS_EVT).testBit 3 = true ∧ s.counts s.msStrobe R.GNS_SNAP_CNT_SKIPPED := by
  rw [msStrobe_starts s h, if_pos full]
  refine ⟨by rw [gnsEvt_gns, State.bump_gns], gnsEvt_bit _ (by decide), ?_⟩
  unfold State.counts
  rw [get_gnsEvt _ _ (by decide), bump_counts _ (by decide), State.strobed, get_setGns]

theorem msStrobe_captures (h : msOf s.rt % 1000 = s.get R.GNS_CFG_BURST_PHASE ∧ s.mayBurst 3 = true) (free : s.get R.GNS_SNAP_STAT ≠ 3) :
    s.msStrobe.gns = { s.strobed.gns with cap := some (msOf s.rt, s.get R.KNL_TIME_MODE_CSET_VER, false), epoch := msOf s.rt }
      ∧ s.msStrobe.flag R.GNS_STAT_BURST_ACTIVE = true := by
  rw [msStrobe_starts s h, if_neg free]
  exact ⟨by rw [State.setFlag_gns, setGns_gns], flag_setFlag_own _ _ (by decide) rfl⟩

theorem msStrobe_passes (h : ¬(msOf s.rt % 1000 = s.get R.GNS_CFG_BURST_PHASE ∧ s.mayBurst 3 = true)) : s.msStrobe = s.strobed := by
  rw [msStrobe_eq]
  split
  · next phase =>
    have may : s.mayBurst 3 = false := by simpa [phase] using h
    simp [State.snapStart, State.strobed, may]
  · rfl

/-! ### Front end and region (R145) -/

theorem exec_fePowerUp : exec .fePowerUp s = .next s.fePowerUp := rfl

theorem fePowerUp_eq : s.fePowerUp = if s.flag R.GNS_CFG_ENABLE = true ∧ 2 ≤ s.get R.GNS_STAT_MODE_ACT ∧ s.toPhase ≤ s.get R.GNS_CFG_FE_WARMUP
    then s.setGns { s.gns with gsiEn := true } else s := by
  unfold State.fePowerUp
  simp [and_assoc]

theorem exec_gnssRegionWake : exec .gnssRegionWake s = .next s.gnssWake := rfl

theorem gnssWake_eq : s.gnssWake = if s.flag R.GNS_CFG_ENABLE = true ∧ s.toPhase ≤ 1 ∧ s.gated 8 = true ∧ s.gateInProg 8 = false then s.ungateReq 8 else s := by
  unfold State.gnssWake
  simp [and_assoc]

/-! ### Bursts (R145) -/

theorem exec_burstStart : exec .burstStart s = .next s.burstStart := rfl

theorem burstStart_none (h : s.phaseStrobe = none ∨ s.mayBurst 2 = false) : s.burstStart = s := by
  unfold State.burstStart
  rcases h with none_ | barred
  · rw [none_]
  · cases s.phaseStrobe with
    | none => rfl
    | some x => exact if_neg (by rw [barred]; decide)

theorem burstStart_eq {ms v : Nat} (strobe : s.phaseStrobe = some (ms, v)) (may : s.mayBurst 2 = true) :
    s.burstStart = ((s.setGns { s.gns with epoch := ms, dumps := 0 }).setFlag R.GNS_STAT_BURST_ACTIVE 0 true).set R.GNS_BURST_CSET_START 0 v := by
  unfold State.burstStart
  rw [strobe]
  exact if_pos may

theorem burstStart_starts {ms v : Nat} (strobe : s.phaseStrobe = some (ms, v)) (may : s.mayBurst 2 = true) (fits : v < 65536) :
    s.burstStart.flag R.GNS_STAT_BURST_ACTIVE = true ∧ s.burstStart.get R.GNS_BURST_CSET_START = v ∧ s.burstStart.gns.epoch = ms ∧ s.burstStart.gns.dumps = 0 := by
  rw [burstStart_eq s strobe may]
  refine ⟨?_, ?_, by simp, by simp⟩
  · rw [flag_set_parted _ _ (by decide)]
    exact flag_setFlag_own _ _ (by decide) rfl
  · rw [get_set_own _ _ (by decide)]
    exact Nat.mod_eq_of_lt fits

theorem exec_burstEnd : exec .burstEnd s = .next s.burstEnd := rfl

/-- A burst whose time is over (R145). -/
def State.burstOver (s : State) : Prop :=
  s.flag R.GNS_STAT_BURST_ACTIVE = true ∧ s.gns.cap = none ∧ s.gated 8 = false ∧ (25 ≤ s.gns.dumps ∨ s.gns.epoch + 100 ≤ msOf s.rt)

theorem burstEnd_none (h : ¬s.burstOver) : s.burstEnd = s := by
  unfold State.burstEnd
  refine if_neg fun ready => h ?_
  simpa [State.burstOver, and_assoc] using ready

/-- The front end of a burst that ends: GSI_EN falls where FE_GATE asks for it (R145). -/
@[simp] theorem feDown_gns : s.feDown.gns = { s.gns with gsiEn := s.gns.gsiEn && !s.flag R.GNS_CFG_FE_GATE } := by
  unfold State.feDown
  cases s.flag R.GNS_CFG_FE_GATE <;> simp

@[simp] theorem get_feDown (f : Fld) (i : Nat) : s.feDown.get f i = s.get f i := by
  unfold State.feDown
  split
  · exact get_setGns ..
  · rfl

@[simp] theorem flag_feDown (f : Fld) (i : Nat) : s.feDown.flag f i = s.flag f i := by
  unfold State.flag
  rw [get_feDown]

@[simp] theorem feDown_word (a : Nat) : s.feDown.word a = s.word a := by
  unfold State.feDown
  split <;> rfl

/-- The state in which a burst that runs has stopped, with the front end down (R145). -/
def State.burstStopped (s : State) : State := ((s.idleNow 0).setFlag R.GNS_STAT_BURST_ACTIVE 0 false).feDown

theorem burstEnd_eq (h : s.burstOver) : s.burstEnd
    = (((s.burstStopped.set R.GNS_BURST_CSET_END 0 (s.get R.KNL_TIME_MODE_CSET_VER)).bump R.GNS_CNT_BURSTS).gnsEvt 0).obs 0x08 0 := by
  unfold State.burstEnd
  exact if_pos (by simpa [State.burstOver, and_assoc] using h)

theorem burstEnd_ends (h : s.burstOver) : s.burstEnd.flag R.GNS_STAT_BURST_ACTIVE = false ∧ s.counts s.burstEnd R.GNS_CNT_BURSTS
    ∧ s.burstEnd.get R.GNS_BURST_CSET_END = s.get R.KNL_TIME_MODE_CSET_VER ∧ (s.burstEnd.get R.GNS_EVT).testBit 0 = true
    ∧ s.burstEnd.gns.gsiEn = (s.gns.gsiEn && !s.flag R.GNS_CFG_FE_GATE) := by
  rw [burstEnd_eq s h]
  refine ⟨?_, ?_, ?_, ?_, ?_⟩
  · simp (disch := decide) [flag_obs, flag_gnsEvt, flag_bump_parted, flag_set_parted, State.burstStopped, flag_setFlag_own]
  · simp (disch := decide) [State.counts, get_obs, get_gnsEvt, bump_counts, get_set_parted, get_setFlag_parted, State.burstStopped]
  · rw [get_obs _ _ _ _ (by decide), get_gnsEvt _ _ (by decide), get_bump_parted _ _ (by decide), get_set_own _ _ (by decide)]
    exact Nat.mod_eq_of_lt (get_lt ..)
  · rw [get_obs _ _ _ _ (by decide)]
    exact gnsEvt_bit _ (by decide)
  · simp (disch := decide) [State.burstStopped, flag_setFlag_parted]

end bursts

end Sys2Proof.Machine

/-! ## Windows of register words, and the correlators (R140, R142) -/

namespace Sys2Proof.Machine

section windows

theorem sget_append {α : Type} (l r : List (Nat × α)) (a : Nat) : sget (l ++ r) a = (sget l a).or (sget r a) := by
  induction l with
  | nil => rfl
  | cons x l ih =>
    obtain ⟨k, v⟩ := x
    by_cases hk : k = a <;> simp [sget, hk, ih]

/-- The sealed store has no register above the blocks of the clocks. -/
theorem rwsOff_above {a : Nat} (h : 0x1400000 ≤ a) : rwsOff a = none := by
  unfold rwsOff
  rw [if_neg (by omega), if_neg (by omega), if_neg (by omega), if_neg (by omega), if_neg (by omega)]

theorem sget_placeWords_out {a b : Nat} (ws : List Word) (h : b < a ∨ a + 4 * ws.length ≤ b) : sget (placeWords a ws) b = none := by
  induction ws generalizing a with
  | nil => rfl
  | cons w t ih =>
    have later : sget (placeWords (a + 4) t) b = none := ih (by simp only [List.length_cons] at h; omega)
    have other : a ≠ b := by simp only [List.length_cons] at h; omega
    unfold placeWords
    split
    · exact later
    · simpa [sget, other] using later

theorem sget_placeWords_in {a i : Nat} {ws : List Word} (h : i < ws.length) :
    (sget (placeWords a ws) (a + 4 * i)).getD (coldWord (a + 4 * i)) = ws.getD i 0 := by
  induction ws generalizing a i with
  | nil => simp at h
  | cons w t ih =>
    unfold placeWords
    cases i with
    | zero =>
      split
      · next cold =>
        rw [sget_placeWords_out t (by omega)]
        simpa using (eq_of_beq cold).symm
      · simp [sget]
    | succ i =>
      have later := ih (a := a + 4) (i := i) (by simpa using h)
      rw [show a + 4 + 4 * i = a + 4 * (i + 1) from by omega] at later
      split
      · simpa using later
      · simpa [sget] using later

variable (s : State) {a b i : Nat} {ws : List Word}

theorem sget_winPut : sget (s.winPut a ws).regs b
    = ((if b < a then sget s.regs b else none).or (sget (placeWords a ws) b)).or (if a + 4 * ws.length ≤ b then sget s.regs b else none) := by
  have low := sget_filter_keys (fun c => decide (c < a)) s.regs b
  have high := sget_filter_keys (fun c => decide (a + 4 * ws.length ≤ c)) s.regs b
  simp only [decide_eq_true_eq] at low high
  show sget (_ ++ _ ++ _) b = _
  rw [sget_append, sget_append, low, high]

/-- A word outside a window that takes new words stays. -/
theorem word_winPut_out (h : b < a ∨ a + 4 * ws.length ≤ b) : (s.winPut a ws).word b = s.word b := by
  have kept : sget (s.winPut a ws).regs b = sget s.regs b := by
    rw [sget_winPut, sget_placeWords_out ws h]
    rcases h with below | above
    · simp [below, show ¬a + 4 * ws.length ≤ b from by omega]
    · simp [above, show ¬b < a from by omega]
  cases hb : rwsOff b with
  | none => rw [word_of_regs hb, word_of_regs hb, kept]
  | some o =>
    unfold State.word
    rw [hb]
    rfl

/-- A word of a window above the sealed store reads as it was put. -/
theorem word_winPut_in (ha : 0x1400000 ≤ a) (h : i < ws.length) : (s.winPut a ws).word (a + 4 * i) = ws.getD i 0 := by
  rw [word_of_regs (rwsOff_above (by omega)), sget_winPut, if_neg (by omega), if_neg (by omega), Option.none_or, Option.or_none]
  exact sget_placeWords_in h

theorem within_winPut {p : Nat → Bool} (h : ∀ b, a ≤ b → b < a + 4 * ws.length → p b = true) : Within p s (s.winPut a ws) := by
  refine ⟨rfl, fun b hb => word_winPut_out s ?_⟩
  by_contra inside
  rw [h b (by omega) (by omega)] at hb
  exact absurd hb (by decide)

end windows

/-! ### The dumps of the correlators (R142) -/

section dumps

/-- The words of the correlators' result memory (R142). -/
def corWord (a : Nat) : Bool := decide (0x200A000 ≤ a) && decide (a < 0x2010000)

theorem corWord_below {a : Nat} (h : a < 0x200A000) : corWord a = false := by
  unfold corWord
  rw [decide_eq_false (by omega)]
  rfl

variable (s : State) (xs : List Byte) (d : Nat)

theorem exec_correlatorDump (samples : List Byte) : exec (.correlatorDump samples) s = .next (s.dump samples) := rfl

theorem chanDump_length (h : Nat) : (s.chanDump h xs).length = 8 := by
  unfold State.chanDump
  rw [List.length_map, List.length_range]

/-- What a channel dumps depends on no word of the result memory. -/
theorem chanDump_within {t : State} (w : Within corWord s t) {h : Nat} (hh : h < 24) : t.chanDump h xs = s.chanDump h xs := by
  have kept : ∀ f : Fld, f.words = 1 → f.at h < 0x200A000 → t.get f h = s.get f h := fun f hw low => get_of_word hw (w.word _ (corWord_below low))
  have base : t.getS R.GNS_IF = s.getS R.GNS_IF := by unfold State.getS; rw [w.get _ _ (by decide)]
  have carr : t.getS R.CH_CARR h = s.getS R.CH_CARR h := by
    unfold State.getS
    rw [kept _ rfl (by simp only [Fld.at, R.CH_CARR]; omega)]
  unfold State.chanDump State.flag
  rw [base, w.gns, carr, kept R.CH_CODE_RATE rfl (by simp only [Fld.at, R.CH_CODE_RATE]; omega), kept R.CH_CFG_SEARCH rfl (by simp only [Fld.at, R.CH_CFG_SEARCH]; omega),
    kept R.CH_CFG_SVID rfl (by simp only [Fld.at, R.CH_CFG_SVID]; omega), kept R.CH_CODE_START rfl (by simp only [Fld.at, R.CH_CODE_START]; omega)]

/-- A channel in use puts its eight words at its place in a dump. -/
def State.dumpChan (d : Nat) (xs : List Byte) (h : Nat) (s : State) : State :=
  if s.get R.CH_CFG_SVID h = 0 then s else s.winPut (0x200A000 + (h * 25 + d) * 32) (s.chanDump h xs)

theorem within_dumpChan {h : Nat} (hh : h < 24) (hd : d < 25) : Within corWord s (s.dumpChan d xs h) := by
  refine within_ite (Within.refl _ _) (within_winPut s fun b lo hi => ?_)
  rw [chanDump_length] at hi
  simp only [corWord, Bool.and_eq_true, decide_eq_true_eq]
  omega

theorem dumpChans (hd : d < 25) {n : Nat} (hn : n ≤ 24) : Within corWord s (s.forN n (State.dumpChan d xs))
    ∧ ∀ h < n, ∀ i < 8, s.get R.CH_CFG_SVID h ≠ 0 →
      (s.forN n (State.dumpChan d xs)).word (0x200A000 + (h * 25 + d) * 32 + 4 * i) = (s.chanDump h xs).getD i 0 := by
  induction n with
  | zero => exact ⟨Within.refl _ _, fun h hh => absurd hh (by omega)⟩
  | succ n ih =>
    obtain ⟨within, words⟩ := ih (by omega)
    rw [forN_succ]
    refine ⟨within.trans (within_dumpChan _ xs d (by omega) hd), fun h hh i hi used => ?_⟩
    have svid : (s.forN n (State.dumpChan d xs)).get R.CH_CFG_SVID n = s.get R.CH_CFG_SVID n :=
      get_of_word rfl (within.word _ (corWord_below (by simp only [Fld.at, R.CH_CFG_SVID]; omega)))
    have len := chanDump_length (s.forN n (State.dumpChan d xs)) xs n
    unfold State.dumpChan at *
    rw [svid]
    by_cases same : h = n
    · subst same
      rw [if_neg used, word_winPut_in _ (by omega) (by rw [len]; exact hi), chanDump_within s xs within (by omega)]
    · split
      · exact words h (by omega) i hi used
      · rw [word_winPut_out _ (by rw [len]; omega)]
        exact words h (by omega) i hi used

/-- A run of the correlators: a burst or CONT, with the sample clock (R142). -/
def State.dumping (s : State) : Prop :=
  ((s.flag R.GNS_STAT_BURST_ACTIVE = true ∧ s.gns.cap = none) ∨ s.get R.GNS_STAT_MODE_ACT = 1) ∧ s.flag R.GNS_CFG_ENABLE = true ∧ s.flag R.GNS_STAT_CLK_OK = true
    ∧ s.gsiPll = true ∧ s.gated 8 = false

/-- The state after the dump of every channel, before clipping and gain (R142). -/
def State.dumped (s : State) (xs : List Byte) : State :=
  let t := s.forN 24 (State.dumpChan (s.gns.dumps % 25) xs)
  t.setGns { t.gns with dumps := t.gns.dumps + 1 }

/-- The state after a dump's test for clipping (R140). -/
def State.clipped (s : State) (samples : List Byte) : State := if clips samples then s.gnsEvt 7 else s

/-- The test with which the model takes a dump. -/
def State.dumpBarred (s : State) : Bool :=
  !((s.flag R.GNS_STAT_BURST_ACTIVE && s.gns.cap.isNone) || s.get R.GNS_STAT_MODE_ACT == 1) || !s.flag R.GNS_CFG_ENABLE || !s.flag R.GNS_STAT_CLK_OK || !s.gsiPll
    || s.gated 8

theorem dumpBarred_iff : s.dumpBarred = true ↔ ¬s.dumping := by
  have run : ((s.flag R.GNS_STAT_BURST_ACTIVE && s.gns.cap.isNone) || s.get R.GNS_STAT_MODE_ACT == 1) = true
      ↔ (s.flag R.GNS_STAT_BURST_ACTIVE = true ∧ s.gns.cap = none) ∨ s.get R.GNS_STAT_MODE_ACT = 1 := by simp
  unfold State.dumpBarred State.dumping
  rw [← run]
  generalize ((s.flag R.GNS_STAT_BURST_ACTIVE && s.gns.cap.isNone) || s.get R.GNS_STAT_MODE_ACT == 1) = r
  cases r <;> simp [imp_iff_not_or, or_assoc]

theorem dump_idle (samples : List Byte) (h : ¬s.dumping) : s.dump samples = s := by
  unfold State.dump
  exact if_pos ((dumpBarred_iff s).mpr h)

theorem dump_runs (samples : List Byte) (h : s.dumping) :
    s.dump samples = ((s.dumped (samples.map (sampleByte (s.flag R.GNS_CFG_SPECTRAL_INV)))).clipped samples).agcStep samples := by
  unfold State.dump
  exact if_neg fun barred => (dumpBarred_iff s).mp barred h

/-! ### Clipping and gain (R140) -/

/-- The word of AGC_OUT. -/
def agcWord (a : Nat) : Bool := a == 0x2000014

theorem agcStep_held (h : s.flag R.GNS_AGC_AGC_HOLD = true) : s.agcStep xs = s := if_pos (by rw [h, Bool.true_or])

theorem word_agcStep {a : Nat} (h : agcWord a = false) : (s.agcStep xs).word a = s.word a := by
  have moved : ∀ v, Within agcWord s (s.set R.GNS_AGC_AGC_OUT 0 v) := fun v => within_set _ _ _ _ (by decide)
  unfold State.agcStep
  split
  · rfl
  · exact (moved _).word a h

@[simp] theorem agcStep_gns : (s.agcStep xs).gns = s.gns := by
  unfold State.agcStep
  split
  · rfl
  · rw [State.set_gns, State.drawn_gns]

theorem get_agcStep {f : Fld} {i : Nat} (h : ∀ k < f.words, agcWord (f.at i + 4 * k) = false) : (s.agcStep xs).get f i = s.get f i := by
  unfold State.get
  rw [wordsN_congr fun k hk => word_agcStep s xs (h k hk)]

theorem within_clipped : Within gnsEvtWord s (s.clipped xs) := within_ite (within_gnsEvt ..) (Within.refl ..)

@[simp] theorem clipped_gns : (s.clipped xs).gns = s.gns := by
  unfold State.clipped
  split
  · exact gnsEvt_gns ..
  · rfl

theorem clipped_bit (h : clips xs = true) : ((s.clipped xs).get R.GNS_EVT).testBit 7 = true := by
  unfold State.clipped
  rw [if_pos h]
  exact gnsEvt_bit s (by decide)

/-- What a dump leaves: the count, the words of each channel in use, the clip event, and AGC_OUT under AGC_HOLD (R140, R142). -/
theorem dump_dumps (samples : List Byte) (h : s.dumping) : (s.dump samples).gns.dumps = s.gns.dumps + 1
    ∧ (clips samples = true → ((s.dump samples).get R.GNS_EVT).testBit 7 = true)
    ∧ (s.flag R.GNS_AGC_AGC_HOLD = true → (s.dump samples).get R.GNS_AGC_AGC_OUT = s.get R.GNS_AGC_AGC_OUT)
    ∧ ∀ h i, h < 24 → i < 8 → s.get R.CH_CFG_SVID h ≠ 0 → (s.dump samples).word (0x200A000 + (h * 25 + s.gns.dumps % 25) * 32 + 4 * i)
      = (s.chanDump h (samples.map (sampleByte (s.flag R.GNS_CFG_SPECTRAL_INV)))).getD i 0 := by
  rw [dump_runs s samples h]
  generalize samples.map (sampleByte (s.flag R.GNS_CFG_SPECTRAL_INV)) = xs
  have small : s.gns.dumps % 25 < 25 := Nat.mod_lt _ (by decide)
  obtain ⟨within, words⟩ := dumpChans s xs (s.gns.dumps % 25) small (Nat.le_refl 24)
  have kept : ∀ f : Fld, (∀ k < f.words, corWord (f.at 0 + 4 * k) = false) → (s.dumped xs).get f = s.get f := fun f hf => by
    unfold State.dumped
    rw [get_setGns, within.get f 0 hf]
  refine ⟨?_, fun clip => ?_, fun hold => ?_, fun h i hh hi used => ?_⟩
  · rw [agcStep_gns, clipped_gns, State.dumped, setGns_gns, within.gns]
  · rw [get_agcStep _ _ (by decide)]
    exact clipped_bit _ _ clip
  · have held : ((s.dumped xs).clipped samples).flag R.GNS_AGC_AGC_HOLD = true := by
      rw [(within_clipped ..).flag _ _ (by decide), State.flag, kept _ (by decide)]
      exact hold
    rw [agcStep_held _ _ held, (within_clipped ..).get _ _ (by decide), kept _ (by decide)]
  · have inside : gnsEvtWord (0x200A000 + (h * 25 + s.gns.dumps % 25) * 32 + 4 * i) = false ∧ agcWord (0x200A000 + (h * 25 + s.gns.dumps % 25) * 32 + 4 * i) = false := by
      rw [gnsEvtWord, agcWord, pendWord_apart (by omega), Bool.or_false, beq_eq_false_iff_ne, beq_eq_false_iff_ne]
      omega
    rw [word_agcStep _ _ inside.2, (within_clipped ..).word _ inside.1, State.dumped, word_setGns]
    exact words h hh i hi used

end dumps

end Sys2Proof.Machine

/-! ## Fields of byte lists -/

namespace Sys2Proof.Machine

section bytes

theorem ofLe_append (l r : List Byte) : ofLe (l ++ r) = ofLe l + 256 ^ l.length * ofLe r := by
  induction l with
  | nil => simp [ofLe]
  | cons b l ih =>
    simp only [List.cons_append, ofLe, ih, List.length_cons, pow_succ]
    ring

variable {l r : List Byte} {off m n : Nat}

/-- A field that ends in the first of two lists. -/
theorem leAt_append_left (r : List Byte) (h : off + n ≤ l.length) : leAt (l ++ r) off n = leAt l off n := by
  unfold leAt slice
  rw [List.drop_append_of_le_length (by omega), List.take_append_of_le_length (by rw [List.length_drop]; omega)]

/-- A field that begins in the second of two lists. -/
theorem leAt_append_right (h : l.length ≤ off) : leAt (l ++ r) off n = leAt r (off - l.length) n := by
  unfold leAt slice
  rw [List.drop_append, List.drop_eq_nil_of_le h, List.nil_append]

theorem leAt_leBytes (n v : Nat) : leAt (leBytes n v) 0 n = v % 256 ^ n := by
  unfold leAt slice
  rw [List.drop_zero, List.take_of_length_le (leBytes_length ..).le, ofLe_leBytes]

/-- A list cut to a length that a field fits, the field among the bytes given, reads the field. -/
theorem leAt_padTo (h : off + n ≤ l.length) (fits : off + n ≤ m) : leAt (padTo m l) off n = leAt l off n := by
  have kept : leAt (padTo m l) off n = leAt (l ++ List.replicate (m - l.length) 0#8) off n := by
    unfold leAt slice padTo
    rw [List.drop_take, List.take_take, Nat.min_eq_left (by omega)]
  rw [kept, leAt_append_left _ h]

/-- Two fields that follow each other, read as one. -/
theorem leAt_add (h : off + m ≤ l.length) (n : Nat) : leAt l off (m + n) = leAt l off m + 256 ^ m * leAt l (off + m) n := by
  unfold leAt slice
  rw [List.take_add, ofLe_append, List.drop_drop, List.length_take, List.length_drop, Nat.min_eq_left (by omega)]

theorem wordsOfBytes_length (l : List Byte) : (wordsOfBytes l).length = (l.length + 3) / 4 := by
  induction l using wordsOfBytes.induct with
  | case1 | case2 | case3 | case4 => simp [wordsOfBytes]
  | case5 a b c d t ih =>
    simp only [wordsOfBytes, List.length_cons, ih]
    omega

theorem wordsOfBytes_getD (l : List Byte) (k : Nat) : (wordsOfBytes l).getD k 0 = BitVec.ofNat 32 (leAt l (4 * k) 4) := by
  induction l using wordsOfBytes.induct generalizing k with
  | case1 => simp [wordsOfBytes, leAt, slice, ofLe]
  | case2 | case3 | case4 => cases k <;> simp [wordsOfBytes, leAt, slice, ofLe, Nat.mul_add]
  | case5 a b c d t ih =>
    cases k with
    | zero => simp [wordsOfBytes, leAt, slice, ofLe]
    | succ k =>
      rw [wordsOfBytes, List.getD_cons_succ, ih]
      simp only [leAt, slice, Nat.mul_add, Nat.mul_one, List.drop_succ_cons]

end bytes

end Sys2Proof.Machine

/-! ## Captures (R151) -/

namespace Sys2Proof.Machine

section captures

variable (s : State) (ms v : Nat) (bad : Bool) (samples : List Byte)

theorem exec_snapCapture : exec (.snapCapture samples) s = .next (s.snapCapture samples) := rfl

/-- The fifth word of a slot: the versions at the first and at the last sample (R151). -/
theorem snapHeader_versions (clip : Bool) (body : List Byte) : (wordsOfBytes (s.snapHeader ms v clip bad ++ body)).getD 4 0
    = BitVec.ofNat 32 (v % 65536 + 65536 * (s.get R.KNL_TIME_MODE_CSET_VER % 65536)) := by
  rw [wordsOfBytes_getD]
  have header : (s.snapHeader ms v clip bad).length = 64 := padTo_length ..
  have versions : leAt (s.snapHeader ms v clip bad) 16 (2 + 2) = v % 65536 + 65536 * (s.get R.KNL_TIME_MODE_CSET_VER % 65536) := by
    rw [leAt_add (by omega)]
    unfold State.snapHeader
    simp [leAt_padTo, leAt_append_left, leAt_append_right, leAt_leBytes, leBytes_length]
  rw [leAt_append_left _ (by omega)]
  exact congrArg _ versions

/-- The slot that a capture takes (R151). -/
def State.slotFree (s : State) : Nat := if (s.get R.GNS_SNAP_STAT).testBit 0 then 1 else 0

/-- The words that a capture puts in its slot (R151). -/
def State.slotWords (s : State) (ms v : Nat) (bad : Bool) (samples : List Byte) : List Word :=
  wordsOfBytes (s.snapHeader ms v (snapClips samples) bad
    ++ (samples.map (sampleByte (s.flag R.GNS_CFG_SPECTRAL_INV)) ++ List.replicate (409200 - samples.length) 0#8).take 409200)

theorem slotWords_versions : (s.slotWords ms v bad samples).getD 4 0 = BitVec.ofNat 32 (v % 65536 + 65536 * (s.get R.KNL_TIME_MODE_CSET_VER % 65536)) :=
  snapHeader_versions ..

theorem slotWords_length : 4 < (s.slotWords ms v bad samples).length := by
  have header : (s.snapHeader ms v (snapClips samples) bad).length = 64 := padTo_length ..
  rw [State.slotWords, wordsOfBytes_length, List.length_append, header]
  omega

/-- The state in which a capture stands in its slot (R151). -/
def State.slotFilled (s : State) (ms v : Nat) (bad : Bool) (samples : List Byte) : State :=
  let t := s.winPut (0x2010000 + s.slotFree * 0x78000) (s.slotWords ms v bad samples)
  t.setGns { t.gns with snapSeq := (s.gns.snapSeq + 1) % 2 ^ 32, cap := none }

/-- A slot that awaits DONE, no burst running and the front end down (R151). -/
def State.slotReady (s : State) (k : Nat) : State :=
  ((((s.idleNow 0).raiseBit R.GNS_SNAP_STAT 0 k).setFlag R.GNS_STAT_BURST_ACTIVE 0 false).feDown).obs 0x08 2

theorem snapCapture_none (h : s.gns.cap = none) : s.snapCapture samples = s := by
  unfold State.snapCapture
  rw [h]

theorem snapCapture_waits (h : s.gns.cap = some (ms, v, false)) (early : msOf s.rt < ms + 20 ∨ s.gated 8 = true) : s.snapCapture samples = s := by
  unfold State.snapCapture
  rw [h]
  exact if_pos (by simpa using early)

/-- The events of a capture that stands in its slot (R151, R140). -/
def State.snapEvents (s : State) (bad : Bool) (samples : List Byte) : State :=
  let t := if bad then s else s.gnsEvt 2
  if snapClips samples then t.gnsEvt 7 else t

theorem snapCapture_ends (h : s.gns.cap = some (ms, v, bad)) (ripe : bad = true ∨ (ms + 20 ≤ msOf s.rt ∧ s.gated 8 = false)) :
    s.snapCapture samples = ((s.slotFilled ms v bad samples).slotReady s.slotFree).snapEvents bad samples := by
  unfold State.snapCapture
  rw [h]
  exact if_neg (by rcases ripe with rfl | ⟨late, region⟩ <;> simp [*])

theorem within_snapEvents : Within gnsEvtWord s (s.snapEvents bad samples) := by
  have ready : Within gnsEvtWord s (if bad then s else s.gnsEvt 2) := within_ite (.refl ..) (within_gnsEvt ..)
  exact within_ite (ready.trans (within_gnsEvt ..)) ready

theorem snapEvents_ready (h : bad = false) : ((s.snapEvents bad samples).get R.GNS_EVT).testBit 2 = true := by
  subst h
  have ready := gnsEvt_bit s (b := 2) (by decide)
  unfold State.snapEvents
  dsimp only
  split
  · exact gnsEvt_holds _ (by decide) ready
  · exact ready

theorem snapEvents_clips (h : snapClips samples = true) : ((s.snapEvents bad samples).get R.GNS_EVT).testBit 7 = true := by
  unfold State.snapEvents
  rw [if_pos h]
  exact gnsEvt_bit _ (by decide)

/-! ### The slot and its state -/

/-- A word that none of a capture's marks is in. -/
def snapBeside (a : Nat) : Bool := !(obsWord a || gnsEvtWord a || a == 0x2000020 || a == 0x2000008)

theorem slotReady_word (k : Nat) {a : Nat} (h : snapBeside a = true) : (s.slotReady k).word a = s.word a := by
  simp only [snapBeside, Bool.not_eq_true', Bool.or_eq_false_iff, beq_eq_false_iff_ne] at h
  obtain ⟨⟨⟨obs, -⟩, stat⟩, active⟩ := h
  have marks : Within (fun x => x == 0x2000020 || x == 0x2000008) (s.idleNow 0)
      (((s.idleNow 0).raiseBit R.GNS_SNAP_STAT 0 k).setFlag R.GNS_STAT_BURST_ACTIVE 0 false) :=
    (within_set _ _ _ _ (by decide)).trans (within_set _ _ _ _ (by decide))
  rw [State.slotReady, (within_obs ..).word a obs, feDown_word, marks.word a (by simp [stat, active])]
  rfl

theorem slotReady_stat {k : Nat} (h : k < 2) : (s.slotReady k).get R.GNS_SNAP_STAT = s.get R.GNS_SNAP_STAT ||| 2 ^ k := by
  rw [State.slotReady, get_obs _ _ _ _ (by decide), get_feDown, get_setFlag_parted _ _ (by decide),
    get_raiseBit_same (by unfold Fld.plain; decide) h (by decide), get_idleNow]

theorem slotReady_active (k : Nat) : (s.slotReady k).flag R.GNS_STAT_BURST_ACTIVE = false := by
  rw [State.slotReady, flag_obs _ _ _ _ (by decide), flag_feDown]
  exact flag_setFlag_own _ _ (by decide) rfl

theorem slotReady_gns (k : Nat) : (s.slotReady k).gns.snapSeq = s.gns.snapSeq ∧ (s.slotReady k).gns.cap = s.gns.cap := by
  rw [State.slotReady, State.obs_gns, feDown_gns, State.setFlag_gns, State.raiseBit_gns, idleNow_gns]
  exact ⟨rfl, rfl⟩

theorem slotFilled_stat : (s.slotFilled ms v bad samples).get R.GNS_SNAP_STAT = s.get R.GNS_SNAP_STAT := by
  rw [State.slotFilled, get_setGns]
  exact get_of_word rfl (word_winPut_out s (.inl (by simp only [Fld.at, R.GNS_SNAP_STAT]; omega)))

theorem slotFilled_versions : (s.slotFilled ms v bad samples).word (0x2010000 + s.slotFree * 0x78000 + 4 * 4)
    = BitVec.ofNat 32 (v % 65536 + 65536 * (s.get R.KNL_TIME_MODE_CSET_VER % 65536)) := by
  rw [State.slotFilled, word_setGns, word_winPut_in s (by omega) (slotWords_length ..), slotWords_versions]

/-- What a capture leaves in its slot, its state and the events (R151). -/
theorem snapCapture_fills (h : s.gns.cap = some (ms, v, bad)) (ripe : bad = true ∨ (ms + 20 ≤ msOf s.rt ∧ s.gated 8 = false)) :
    (s.snapCapture samples).get R.GNS_SNAP_STAT = s.get R.GNS_SNAP_STAT ||| 2 ^ s.slotFree
    ∧ (s.snapCapture samples).gns.snapSeq = (s.gns.snapSeq + 1) % 2 ^ 32 ∧ (s.snapCapture samples).gns.cap = none
    ∧ (s.snapCapture samples).flag R.GNS_STAT_BURST_ACTIVE = false
    ∧ (s.snapCapture samples).word (0x2010000 + s.slotFree * 0x78000 + 16) = BitVec.ofNat 32 (v % 65536 + 65536 * (s.get R.KNL_TIME_MODE_CSET_VER % 65536))
    ∧ (bad = false → ((s.snapCapture samples).get R.GNS_EVT).testBit 2 = true)
    ∧ (snapClips samples = true → ((s.snapCapture samples).get R.GNS_EVT).testBit 7 = true) := by
  rw [snapCapture_ends s ms v bad samples h ripe]
  have slot : s.slotFree < 2 := by unfold State.slotFree; split <;> decide
  have beside : snapBeside (0x2010000 + s.slotFree * 0x78000 + 16) = true := by
    unfold State.slotFree
    split <;> decide
  have events := within_snapEvents ((s.slotFilled ms v bad samples).slotReady s.slotFree) bad samples
  obtain ⟨seq, cap⟩ := slotReady_gns (s.slotFilled ms v bad samples) s.slotFree
  refine ⟨?_, ?_, ?_, ?_, ?_, snapEvents_ready _ bad samples, snapEvents_clips _ bad samples⟩
  · rw [events.get _ _ (by decide), slotReady_stat _ slot, slotFilled_stat]
  · rw [events.gns, seq]
    rfl
  · rw [events.gns, cap]
    rfl
  · rw [events.flag _ _ (by decide), slotReady_active]
  · rw [events.word _ (by simp only [snapBeside, Bool.not_eq_true', Bool.or_eq_false_iff] at beside; exact beside.1.1.2), slotReady_word _ _ beside]
    exact slotFilled_versions ..

end captures

end Sys2Proof.Machine

/-! ## The sample clock, and the moves of the Scout (R141, R144) -/

namespace Sys2Proof.Machine

section moves

variable (s : State)

/-! ### A move of the Scout -/

theorem get_rxMove (st mode : Nat) {f : Fld} {i : Nat} (state : R.GNS_STAT_RX_STATE.parted 0 f i = true) (ctrl : R.GNS_CTRL_MODE.parted 0 f i = true) :
    (s.rxMove st mode).get f i = s.get f i := by
  rw [State.rxMove, get_setGns, get_set_parted _ _ ctrl, get_set_parted _ _ state]

theorem flag_rxMove (st mode : Nat) {f : Fld} {i : Nat} (state : R.GNS_STAT_RX_STATE.parted 0 f i = true) (ctrl : R.GNS_CTRL_MODE.parted 0 f i = true) :
    (s.rxMove st mode).flag f i = s.flag f i := by
  unfold State.flag
  rw [get_rxMove s st mode state ctrl]

theorem rx_rxMove {st : Nat} (mode : Nat) (h : st < 8) : (s.rxMove st mode).rx = st := by
  rw [State.rx, State.rxMove, get_setGns, get_set_parted _ _ (by decide), get_set_own _ _ (by decide)]
  exact Nat.mod_eq_of_lt h

theorem mode_rxMove (st : Nat) {mode : Nat} (h : mode < 4) : (s.rxMove st mode).get R.GNS_CTRL_MODE = mode := by
  rw [State.rxMove, get_setGns, get_set_own _ _ (by decide)]
  exact Nat.mod_eq_of_lt h

@[simp] theorem rxMove_gns (st mode : Nat) : (s.rxMove st mode).gns = { s.gns with rxSec := s.rtSec, weakSince := none } := rfl

@[simp] theorem rxMove_mem (st mode : Nat) : (s.rxMove st mode).mem = s.mem := by
  show ((s.set R.GNS_STAT_RX_STATE 0 st).set R.GNS_CTRL_MODE 0 mode).mem = s.mem
  rw [State.set_mem, State.set_mem]

/-- A move of the Scout that its timer makes (R144). -/
theorem move_completes {i : Instr} {c : Bool} {due : Prop} {st mode : Nat} (run : exec i s = .next (s.when_ c (·.rxMove st mode))) (test : c = true ↔ due)
    (hst : st < 8) (hmode : mode < 4) :
    (due → Completes i s fun t => t.rx = st ∧ t.get R.GNS_CTRL_MODE = mode ∧ t.gns.recSeq = s.gns.recSeq ∧ t.mem = s.mem)
      ∧ (¬due → exec i s = .next s) := by
  refine ⟨fun yes => ⟨s.rxMove st mode, ?_, rx_rxMove s mode hst, mode_rxMove s st hmode, rfl, rxMove_mem s st mode⟩, fun no => ?_⟩
  · rw [run, when_of_true _ (test.mpr yes)]
  · rw [run, when_of_false _ (Bool.eq_false_iff.mpr fun yes => no (test.mp yes))]

theorem acqTimeout_moves : let due := s.scoutUp = true ∧ s.rx = 1 ∧ s.get R.GNS_STAT_NSV_TRACK < s.get R.GNS_MASK_SOL_MIN_SV
        ∧ s.gns.rxSec + s.get R.GNS_TIMERS1_ACQ_TIMEOUT ≤ s.rtSec
    (due → Completes .acqTimeout s fun t => t.rx = 4 ∧ t.get R.GNS_CTRL_MODE = 3 ∧ t.gns.recSeq = s.gns.recSeq ∧ t.mem = s.mem)
      ∧ (¬due → exec .acqTimeout s = .next s) :=
  move_completes s rfl (by simp [rxAcquire, and_assoc]) (by decide) (by decide)

theorem weakTimeExpiry_moves : let due := s.scoutUp = true ∧ (s.rx = 2 ∨ s.rx = 3) ∧ ∃ w, s.gns.weakSince = some w ∧ w + s.get R.GNS_TIMERS0_WEAK_TIME ≤ s.rtSec
    (due → Completes .weakTimeExpiry s fun t => t.rx = 4 ∧ t.get R.GNS_CTRL_MODE = 3 ∧ t.gns.recSeq = s.gns.recSeq ∧ t.mem = s.mem)
      ∧ (¬due → exec .weakTimeExpiry s = .next s) :=
  move_completes s rfl (by simp [rxCont, rxBurst, and_assoc, Option.any_eq_true]) (by decide) (by decide)

theorem retryPeriodExpiry_moves : let due := s.scoutUp = true ∧ s.rx = 4 ∧ s.gns.rxSec + s.get R.GNS_TIMERS1_RETRY_PERIOD ≤ s.rtSec
    (due → Completes .retryPeriodExpiry s fun t => t.rx = 1 ∧ t.get R.GNS_CTRL_MODE = 1 ∧ t.gns.recSeq = s.gns.recSeq ∧ t.mem = s.mem)
      ∧ (¬due → exec .retryPeriodExpiry s = .next s) :=
  move_completes s rfl (by simp [rxSnapshot, and_assoc]) (by decide) (by decide)

end moves

/-! ### The sample clock (R141) -/

section sampleClock

variable {s : State}

theorem scoutUp_of_get {t : State} (h : t.get R.ENG_STAT_STATE 3 = s.get R.ENG_STAT_STATE 3) : t.scoutUp = s.scoutUp := by
  unfold State.scoutUp
  rw [show t.engState 3 = s.engState 3 from h]

variable (s)

/-- A burst that is dropped stops, and touches nothing else of GNS_STAT and of the engines (R141). -/
theorem burstDrop_stops : s.burstDrop.flag R.GNS_STAT_BURST_ACTIVE = false ∧ s.burstDrop.flag R.GNS_STAT_CLK_OK = s.flag R.GNS_STAT_CLK_OK
    ∧ s.burstDrop.scoutUp = s.scoutUp := by
  unfold State.burstDrop
  split
  · refine ⟨?_, ?_, scoutUp_of_get ?_⟩ <;>
      simp (disch := decide) [flag_obs, get_obs, flag_bump_parted, get_bump_parted, flag_setFlag_own, flag_setFlag_parted, get_setFlag_parted]
  · next idle => exact ⟨Bool.eq_false_iff.mpr idle, rfl, rfl⟩

/-- The state in which the sample clock is lost, before its fault is raised (R141, R144). -/
def State.clockLost (s : State) : State :=
  let t := ((s.setFlag R.GNS_STAT_CLK_OK 0 false).gnsEvt 1).burstDrop
  if t.scoutUp then t.rxMove rxOff 0 else t

theorem clockLost_stops : s.clockLost.flag R.GNS_STAT_CLK_OK = false ∧ s.clockLost.flag R.GNS_STAT_BURST_ACTIVE = false
    ∧ (s.scoutUp = true → s.clockLost.rx = 0) := by
  have off : ((s.setFlag R.GNS_STAT_CLK_OK 0 false).gnsEvt 1).flag R.GNS_STAT_CLK_OK = false := by
    rw [flag_gnsEvt _ _ (by decide)]
    exact flag_setFlag_own _ _ (by decide) rfl
  have up : ((s.setFlag R.GNS_STAT_CLK_OK 0 false).gnsEvt 1).scoutUp = s.scoutUp :=
    scoutUp_of_get (by rw [get_gnsEvt _ _ (by decide), get_setFlag_parted _ _ (by decide)])
  obtain ⟨idle, clock, scout⟩ := burstDrop_stops ((s.setFlag R.GNS_STAT_CLK_OK 0 false).gnsEvt 1)
  rw [off] at clock
  rw [up] at scout
  unfold State.clockLost
  dsimp only
  rw [scout]
  split
  · refine ⟨?_, ?_, fun _ => rx_rxMove _ _ (by decide)⟩
    · rw [flag_rxMove _ _ _ (by decide) (by decide), clock]
    · rw [flag_rxMove _ _ _ (by decide) (by decide), idle]
  · next down => exact ⟨clock, idle, fun runs => absurd runs down⟩

theorem exec_gsiClkLoss (region : s.gated 8 = false) (clock : s.flag R.GNS_STAT_CLK_OK = true) :
    exec .gsiClkLoss s = .next (s.clockLost.levelOn fsGnssClk) := by
  have lost : s.gsiLoss = s.clockLost.levelOn fsGnssClk := if_neg (by rw [clock]; decide)
  rw [← lost]
  exact congrArg Host.Outcome.next (run_clocked s State.gsiLoss region)

theorem exec_gsiClkLoss_idle (h : s.gated 8 = true ∨ s.flag R.GNS_STAT_CLK_OK = false) : exec .gsiClkLoss s = .next s := by
  refine congrArg Host.Outcome.next ?_
  rcases h with gated | lost
  · exact run_gated s State.gsiLoss gated
  · unfold State.run
    split
    · rfl
    · exact if_pos (by rw [lost]; rfl)

/-- The state in which the sample clock is back, before the Scout acts on it (R141). -/
def State.clockBack (s : State) : State := (s.setFlag R.GNS_STAT_CLK_OK 0 true).levelOff fsGnssClk

theorem clockBack_back : s.clockBack.flag R.GNS_STAT_CLK_OK = true ∧ s.clockBack.active fsGnssClk = false ∧ s.clockBack.scoutUp = s.scoutUp
    ∧ s.clockBack.flag R.GNS_CFG_ENABLE = s.flag R.GNS_CFG_ENABLE ∧ s.clockBack.rx = s.rx := by
  obtain ⟨ends, within⟩ := levelOff_ends (s.setFlag R.GNS_STAT_CLK_OK 0 true) (k := fsGnssClk) (by decide)
  unfold State.clockBack
  refine ⟨?_, ends, scoutUp_of_get ?_, ?_, ?_⟩
  · rw [within.flag _ _ (by decide)]
    exact flag_setFlag_own _ _ (by decide) rfl
  · rw [within.get _ _ (by decide), get_setFlag_parted _ _ (by decide)]
  · rw [within.flag _ _ (by decide), flag_setFlag_parted _ _ (by decide)]
  · exact (within.get _ _ (by decide)).trans (get_setFlag_parted _ _ (by decide))

theorem exec_gsiClkReturn (region : s.gated 8 = false) (pll : s.gsiPll = true) (lost : s.flag R.GNS_STAT_CLK_OK = false) :
    exec .gsiClkReturn s = .next (if s.scoutUp && s.flag R.GNS_CFG_ENABLE && s.rx == 0 then s.clockBack.rxMove 1 1 else s.clockBack) := by
  have back : s.gsiReturn = if s.scoutUp && s.flag R.GNS_CFG_ENABLE && s.rx == 0 then s.clockBack.rxMove 1 1 else s.clockBack := by
    obtain ⟨-, -, up, enable, rx⟩ := clockBack_back s
    rw [← up, ← enable, ← rx]
    exact if_neg (by rw [lost]; decide)
  rw [← back]
  refine congrArg Host.Outcome.next ?_
  rw [run_clocked s _ region, when_of_true _ pll]

theorem exec_gsiClkReturn_idle (h : s.gated 8 = true ∨ s.gsiPll = false ∨ s.flag R.GNS_STAT_CLK_OK = true) : exec .gsiClkReturn s = .next s := by
  refine congrArg Host.Outcome.next ?_
  rcases h with gated | bypass | present
  · exact run_gated s _ gated
  · have stays : s.when_ s.gsiPll State.gsiReturn = s := when_of_false _ bypass
    exact (congrArg (fun x => if s.gated 8 then s else x) stays).trans (ite_self s)
  · have stays : s.when_ s.gsiPll State.gsiReturn = s := (congrArg (fun x => if s.gsiPll then x else s) (if_pos present)).trans (ite_self s)
    exact (congrArg (fun x => if s.gated 8 then s else x) stays).trans (ite_self s)

theorem gsiClkReturn_completes (region : s.gated 8 = false) (pll : s.gsiPll = true) (lost : s.flag R.GNS_STAT_CLK_OK = false) :
    Completes .gsiClkReturn s fun t => t.flag R.GNS_STAT_CLK_OK = true ∧ t.active fsGnssClk = false
      ∧ t.rx = (if s.scoutUp && s.flag R.GNS_CFG_ENABLE && s.rx == 0 then 1 else s.rx) := by
  obtain ⟨clock, ended, -, -, rx⟩ := clockBack_back s
  refine ⟨_, exec_gsiClkReturn s region pll lost, ?_⟩
  split
  · refine ⟨?_, ?_, rx_rxMove _ _ (by decide)⟩
    · rw [flag_rxMove _ _ _ (by decide) (by decide), clock]
    · unfold State.active at *
      rw [get_rxMove _ _ _ (by decide) (by decide), ended]
  · exact ⟨clock, ended, rx⟩

end sampleClock

end Sys2Proof.Machine

/-! ## What the Scout's firmware leaves: the words of its status and channels, and what it keeps of orbits (R144 to R157) -/

namespace Sys2Proof.Machine

/-- The words that a second of the Scout writes: control, status and channels (R160). -/
def scoutWord (a : Nat) : Bool := a == 0x2000004 || a == 0x2000008 || (decide (0x2001000 ≤ a) && decide (a < 0x2001300))

/-- The hidden state of GNS but for orbits, survey and the times of the Scout's states. -/
def GnsSt.core (g : GnsSt) : GnsSt := { g with orbits := [], survey := none, rxSec := 0, weakSince := none }

/-- `t` is `s` but for words that the Scout writes, what HST holds, orbits, survey and the times of the Scout's states. -/
structure Scouted (s t : State) : Prop where
  rest : { t with regs := s.regs, hst := s.hst, gns := s.gns } = s
  core : t.gns.core = s.gns.core
  word : ∀ a, scoutWord a = false → t.word a = s.word a

section scouted

variable {r s t u : State}

theorem Scouted.refl (s : State) : Scouted s s := ⟨rfl, rfl, fun _ _ => rfl⟩

theorem Scouted.trans (h : Scouted r s) (k : Scouted s t) : Scouted r t := by
  refine ⟨?_, k.core.trans h.core, fun a ha => (k.word a ha).trans (h.word a ha)⟩
  have first := h.rest
  have second := k.rest
  rw [← first, ← second]

theorem Within.scouted (h : Within scoutWord s t) : Scouted s t := ⟨by rw [← h.rest], by rw [h.gns], h.word⟩

theorem scouted_setGns (s : State) {g : GnsSt} (h : g.core = s.gns.core) : Scouted s (s.setGns g) := ⟨rfl, h, fun _ _ => rfl⟩

theorem Scouted.ite {c : Prop} [Decidable c] (h : Scouted s t) (k : Scouted s u) : Scouted s (if c then t else u) := by
  split
  · exact h
  · exact k

theorem Scouted.foldl {α : Type} (l : List α) (g : State → α → State) (h : ∀ u, ∀ x ∈ l, Scouted u (g u x)) : Scouted s (l.foldl g s) := by
  induction l generalizing s with
  | nil => exact .refl s
  | cons x l ih => exact (h s x (List.mem_cons_self ..)).trans (ih fun u y hy => h u y (List.mem_cons_of_mem _ hy))

theorem Scouted.forN (n : Nat) (g : Nat → State → State) (h : ∀ u, ∀ k < n, Scouted u (g k u)) : Scouted s (s.forN n g) :=
  Scouted.foldl _ _ fun u k hk => h u k (List.mem_range.mp hk)

theorem Scouted.time (h : Scouted s t) : t.time = s.time := by rw [← h.rest]
theorem Scouted.knl (h : Scouted s t) : t.knl = s.knl := by rw [← h.rest]

theorem Scouted.aside (h : Scouted s t) : Aside s t := by
  refine ⟨h.time, by rw [← h.rest], by rw [← h.rest], fun a ha => h.word a ?_⟩
  simp only [timeWord, Bool.or_eq_true, Bool.and_eq_true, decide_eq_true_eq] at ha
  simp only [scoutWord, Bool.or_eq_false_iff, Bool.and_eq_false_iff, beq_eq_false_iff_ne, decide_eq_false_iff_not]
  omega

theorem Scouted.get (h : Scouted s t) {f : Fld} {i : Nat} (hf : ∀ k < f.words, scoutWord (f.at i + 4 * k) = false) : t.get f i = s.get f i := by
  unfold State.get
  rw [wordsN_congr fun k hk => h.word _ (hf k hk)]

theorem Scouted.flag (h : Scouted s t) {f : Fld} {i : Nat} (hf : ∀ k < f.words, scoutWord (f.at i + 4 * k) = false) : t.flag f i = s.flag f i := by
  unfold State.flag
  rw [h.get hf]

theorem Scouted.rt (h : Scouted s t) : t.rt = s.rt := h.aside.rt

theorem Scouted.rtSec (h : Scouted s t) : t.rtSec = s.rtSec := by
  unfold State.rtSec
  rw [h.aside.inLc, h.rt, h.time]

theorem Scouted.timeUnc (h : Scouted s t) : t.timeUnc = s.timeUnc := by
  unfold State.timeUnc
  rw [h.get (f := R.GNS_AID_TUNC) (by decide), h.get (f := R.LSH_CORE) (by decide)]

theorem Scouted.scoutUp (h : Scouted s t) : t.scoutUp = s.scoutUp := scoutUp_of_get (h.get (by decide))

/-- A function of the hidden state that orbits, survey and the times of the Scout's states do not enter. -/
theorem Scouted.hidden {α : Type} (h : Scouted s t) (f : GnsSt → α) (hf : ∀ g : GnsSt, f g.core = f g) : f t.gns = f s.gns := by
  rw [← hf, ← hf s.gns, h.core]

end scouted

/-! ### The words of the channels -/

/-- A field of a correlator channel in one word (R160). -/
def Fld.ofCorr (f : Fld) : Bool := f.words == 1 && f.stride == 0x20 && decide (0x2001000 ≤ f.addr) && decide (f.addr < 0x2001020)

section channels

variable (s : State)

theorem scouted_set (f : Fld) (i v : Nat) (h : ∀ k < f.words, scoutWord (f.at i + 4 * k) = true) : Scouted s (s.set f i v) := (within_set s f i v h).scouted

theorem ofCorr_word {f : Fld} (h : f.ofCorr = true) {i : Nat} (hi : i < 24) : ∀ k < f.words, scoutWord (f.at i + 4 * k) = true := by
  simp only [Fld.ofCorr, Bool.and_eq_true, beq_iff_eq, decide_eq_true_eq] at h
  obtain ⟨⟨⟨words, stride⟩, low⟩, high⟩ := h
  intro k hk
  simp only [scoutWord, Bool.or_eq_true, Bool.and_eq_true, decide_eq_true_eq, Fld.at, stride]
  omega

theorem scouted_channel (f : Fld) {i : Nat} (v : Nat) (h : f.ofCorr = true) (hi : i < 24) : Scouted s (s.set f i v) := scouted_set s f i v (ofCorr_word h hi)

theorem scouted_syncAuth : Scouted s s.syncAuth := scouted_set s _ _ _ (by decide)

theorem scouted_orbitPut (o : Orbit) : Scouted s (s.orbitPut o) := scouted_setGns s rfl

theorem scouted_rxMove (st mode : Nat) : Scouted s (s.rxMove st mode) :=
  ((scouted_set s R.GNS_STAT_RX_STATE 0 st (by decide)).trans (scouted_set _ R.GNS_CTRL_MODE 0 mode (by decide))).trans
    (scouted_setGns _ (by rw [State.set_gns, State.set_gns]; rfl))

/-- AUTH of the channels of a satellite at a value. -/
def State.authChan (sv : Nat) (on : Bool) (h : Nat) (s : State) : State := if s.get R.CH_CFG_SVID h = sv then s.setFlag R.CH_STAT_AUTH h on else s

/-- The state in which the ephemeris of a satellite is authenticated or not. -/
def State.orbitAuth (s : State) (sv : Nat) (on : Bool) : State :=
  match s.orbit sv with
  | some o => s.orbitPut { o with auth := on }
  | none => s

theorem authSet_eq (sv : Nat) (on : Bool) : s.authSet sv on = ((s.orbitAuth sv on).forN 24 (State.authChan sv on)).syncAuth := rfl

theorem scouted_authChan (sv : Nat) (on : Bool) {h : Nat} (hh : h < 24) : Scouted s (s.authChan sv on h) :=
  (scouted_channel s R.CH_STAT_AUTH (b2n on) rfl hh).ite (.refl s)

theorem scouted_orbitAuth (sv : Nat) (on : Bool) : Scouted s (s.orbitAuth sv on) := by
  unfold State.orbitAuth
  split
  · exact scouted_orbitPut ..
  · exact .refl s

theorem scouted_authSet (sv : Nat) (on : Bool) : Scouted s (s.authSet sv on) := by
  rw [authSet_eq]
  exact ((scouted_orbitAuth s sv on).trans (Scouted.forN _ _ fun u h hh => scouted_authChan u sv on hh)).trans (scouted_syncAuth _)

/-! ### A second of the Scout (R147, R149, R155, R156) -/

theorem scouted_seed {h : Nat} (orbit : List Byte) (ms : Nat) (hh : h < 24) : Scouted s (s.seed h orbit ms) :=
  ((scouted_channel _ _ _ rfl hh).trans (scouted_channel _ _ _ rfl hh)).trans (scouted_channel _ _ _ rfl hh)

theorem scouted_searchOn {h : Nat} (orbit : List Byte) (hh : h < 24) : Scouted s (s.searchOn h orbit) :=
  (((scouted_seed s orbit _ hh).trans (scouted_channel _ _ _ rfl hh)).trans (scouted_channel _ R.CH_CFG_SEARCH _ rfl hh)).trans (scouted_channel _ _ _ rfl hh)

theorem scouted_acquire : Scouted s s.acquire := Scouted.forN _ _ fun u i _ => by
  dsimp only
  split
  · exact .refl u
  · split
    · next h o idle _ =>
      have inUse : h < 24 := List.mem_range.mp (List.mem_of_find?_eq_some idle)
      exact ((scouted_channel u _ _ rfl inUse).trans (scouted_channel _ R.CH_STAT_AUTH _ rfl inUse)).trans (scouted_searchOn _ o inUse)
    · exact .refl u

theorem scouted_trackStep (sats : List SatObs) : Scouted s (s.trackStep sats) := Scouted.forN _ _ fun u h hh => by
  dsimp only
  split
  · exact .refl u
  · next o _ =>
    have tracks := (scouted_channel u R.CH_CFG_SEARCH (b2n false) rfl hh).trans (scouted_channel _ R.CH_STAT_STATE 3 rfl hh)
    exact .ite (.refl u) (.ite (.ite (tracks.trans (scouted_seed _ o _ hh)) tracks) (scouted_searchOn u o hh))

theorem scouted_obsShow (sats : List SatObs) (c : Int) : Scouted s (s.obsShow sats c) := Scouted.foldl _ _ fun u x _ => by
  have shown := scouted_channel u R.CH_STAT_CN0 (Nat.min x.cn0 1023) rfl x.ch.isLt
  dsimp only
  split
  · exact shown
  · exact (shown.trans (scouted_channel _ _ _ rfl x.ch.isLt)).trans (scouted_channel _ _ _ rfl x.ch.isLt)

theorem scouted_scoutStates (sats : List SatObs) : Scouted s (s.scoutStates sats) := by
  unfold State.scoutStates
  exact (Scouted.ite (scouted_rxMove s _ _) (.refl s)).trans (scouted_setGns _ rfl)

theorem scouted_surveyStep (sol : Solution) : Scouted s (s.surveyStep sol) := by
  have surveys : ∀ v : Survey, Scouted s ((s.setGns { s.gns with survey := some v }).setFlag R.GNS_STAT_SURVEY 0 true) := fun v =>
    (scouted_setGns s (g := { s.gns with survey := some v }) rfl).trans (scouted_set _ R.GNS_STAT_SURVEY 0 _ (by decide))
  exact .ite (.refl s) (surveys _)

end channels

end Sys2Proof.Machine

/-! ## Data sessions and the survey (R144, R148, R156) -/

namespace Sys2Proof.Machine

section sessions

variable (s : State)

theorem exec_dataSession (heard : List (Fin 24 × Nat × List Byte)) : exec (.dataSession heard) s = .next (s.dataSession heard) := rfl

/-! ### Ephemeris heard (R148) -/

/-- A channel's field stands apart from the status of the receiver. -/
theorem rx_set_channel {f : Fld} (h : f.ofCorr = true) (i v : Nat) : (s.set f i v).rx = s.rx := by
  simp only [Fld.ofCorr, Bool.and_eq_true, beq_iff_eq, decide_eq_true_eq] at h
  obtain ⟨⟨⟨words, stride⟩, low⟩, high⟩ := h
  refine get_set_apart (.inl ?_)
  simp only [Fld.at, stride, Fld.words, R.GNS_STAT_RX_STATE]
  omega

theorem forN_rx (n : Nat) (g : Nat → State → State) (h : ∀ u k, (g k u).rx = u.rx) : (s.forN n g).rx = s.rx := by
  unfold State.forN
  exact List.foldlRecOn (List.range n) _ (motive := fun t => t.rx = s.rx) rfl fun t ht k _ => (h t k).trans ht

theorem rx_syncAuth : s.syncAuth.rx = s.rx := by
  unfold State.syncAuth State.rx
  rw [get_set_parted _ _ (by decide)]

theorem rx_authSet (sv : Nat) (on : Bool) : (s.authSet sv on).rx = s.rx := by
  have orbit : (s.orbitAuth sv on).rx = s.rx := by
    unfold State.orbitAuth
    split
    · exact rx_setGns ..
    · rfl
  have chan : ∀ u k, (State.authChan sv on k u).rx = u.rx := fun u k => by
    unfold State.authChan
    split
    · exact rx_set_channel u rfl k _
    · rfl
  rw [authSet_eq, rx_syncAuth, forN_rx _ 24 _ chan, orbit]

theorem orbitHear_leaves (h : Fin 24) (iod : Nat) (words : List Byte) : Scouted s (s.orbitHear h iod words).2 ∧ (s.orbitHear h iod words).2.rx = s.rx := by
  unfold State.orbitHear
  dsimp only
  split
  · split
    · exact ⟨.refl s, rfl⟩
    · exact ⟨(scouted_orbitPut ..).trans (scouted_authSet ..), (rx_authSet ..).trans (rx_setGns ..)⟩
  · exact ⟨scouted_orbitPut .., rx_setGns ..⟩

theorem hear_leaves (heard : List (Fin 24 × Nat × List Byte)) : Scouted s (s.hear heard).2 ∧ (s.hear heard).2.rx = s.rx := by
  unfold State.hear
  split
  · exact ⟨.refl s, rfl⟩
  · refine List.foldlRecOn heard _ (motive := fun a : Bool × State => Scouted s a.2 ∧ a.2.rx = s.rx) ⟨.refl s, rfl⟩ fun a ⟨left, rx⟩ x _ => ?_
    split
    · exact ⟨left, rx⟩
    · obtain ⟨left', rx'⟩ := orbitHear_leaves a.2 x.1 x.2.1 x.2.2
      exact ⟨left.trans left', rx'.trans rx⟩

/-! ### The session (R144, R148) -/

/-- Whether a data session falls due (R148). -/
def State.sessionDue (s : State) (changed : Bool) : Prop :=
  changed = true ∨ (∃ h, h < 24 ∧ s.get R.CH_STAT_STATE h = 3 ∧ s.flag R.CH_STAT_AUTH h = false) ∨ s.gns.lastSession + s.get R.GNS_TIMERS0_DATA_PERIOD ≤ s.rtSec

/-- A data session of a state that has heard its channels (R148). -/
def State.sessionStep (s : State) (changed : Bool) : State :=
  if !(s.rx = rxCont || s.rx = rxBurst) then s
  else match s.gns.session with
    | none =>
      if changed || ((List.range 24).any fun h => s.get R.CH_STAT_STATE h == 3 && !s.flag R.CH_STAT_AUTH h)
          || decide (s.rtSec ≥ s.gns.lastSession + s.get R.GNS_TIMERS0_DATA_PERIOD) then
        (s.setGns { s.gns with session := some s.rtSec }).rxMove rxCont 1
      else s
    | some start =>
      if s.rtSec < start + 60 then s
      else
        let s := s.setGns { s.gns with session := none, lastSession := s.rtSec }
        if s.timeUnc < 100000000 && decide (s.get R.GNS_STAT_NSV_AUTH ≥ s.get R.GNS_MASK_SOL_MIN_SV) then s.rxMove rxBurst 2 else s

theorem dataSession_down (heard : List (Fin 24 × Nat × List Byte)) (h : s.scoutUp = false) : s.dataSession heard = s := if_pos (by rw [h]; rfl)

theorem dataSession_up (heard : List (Fin 24 × Nat × List Byte)) (h : s.scoutUp = true) :
    s.dataSession heard = (s.hear heard).2.sessionStep (s.hear heard).1 := if_neg (by rw [h]; decide)

theorem sessionDue_iff (changed : Bool) : (changed || ((List.range 24).any fun h => s.get R.CH_STAT_STATE h == 3 && !s.flag R.CH_STAT_AUTH h)
    || decide (s.rtSec ≥ s.gns.lastSession + s.get R.GNS_TIMERS0_DATA_PERIOD)) = true ↔ s.sessionDue changed := by
  unfold State.sessionDue
  simp [or_assoc]

theorem sessionStep_off (changed : Bool) (h : s.rx ≠ 2 ∧ s.rx ≠ 3) : s.sessionStep changed = s := if_pos (by simp [h, rxCont, rxBurst])

theorem sessionStep_on (h : s.rx = 2 ∨ s.rx = 3) : ¬(!(s.rx = rxCont || s.rx = rxBurst)) = true := by
  rcases h with h | h <;> simp [h, rxCont, rxBurst]

theorem sessionStep_waits (changed : Bool) (none_ : s.gns.session = none) (h : ¬s.sessionDue changed) : s.sessionStep changed = s := by
  unfold State.sessionStep
  rw [none_]
  split
  · rfl
  · exact if_neg fun due => h ((sessionDue_iff s changed).mp due)

theorem sessionStep_runs (changed : Bool) {q : Nat} (runs : s.gns.session = some q) (h : s.rtSec < q + 60) : s.sessionStep changed = s := by
  unfold State.sessionStep
  rw [runs]
  split
  · rfl
  · exact if_pos h

theorem sessionStep_starts (changed : Bool) (on : s.rx = 2 ∨ s.rx = 3) (none_ : s.gns.session = none) (h : s.sessionDue changed) :
    s.sessionStep changed = (s.setGns { s.gns with session := some s.rtSec }).rxMove rxCont 1 := by
  unfold State.sessionStep
  rw [if_neg (sessionStep_on s on), none_]
  exact if_pos ((sessionDue_iff s changed).mpr h)

/-- A session that has ended (R148). -/
def State.sessionOver (s : State) : State := s.setGns { s.gns with session := none, lastSession := s.rtSec }

theorem sessionStep_ends (changed : Bool) {q : Nat} (on : s.rx = 2 ∨ s.rx = 3) (runs : s.gns.session = some q) (h : q + 60 ≤ s.rtSec) :
    s.sessionStep changed = if s.timeUnc < 100000000 ∧ s.get R.GNS_MASK_SOL_MIN_SV ≤ s.get R.GNS_STAT_NSV_AUTH then s.sessionOver.rxMove rxBurst 2
      else s.sessionOver := by
  have bound : s.sessionOver.timeUnc = s.timeUnc := by
    unfold State.timeUnc State.sessionOver
    rw [get_setGns, get_setGns]
  have auth : ∀ f, s.sessionOver.get f = s.get f := fun f => get_setGns ..
  unfold State.sessionStep
  rw [if_neg (sessionStep_on s on), runs]
  refine (if_neg (Nat.not_lt.mpr h)).trans ?_
  show (if (decide (s.sessionOver.timeUnc < 100000000) && decide (s.sessionOver.get R.GNS_STAT_NSV_AUTH ≥ s.sessionOver.get R.GNS_MASK_SOL_MIN_SV)) = true then _ else _) = _
  rw [bound, auth, auth]
  simp only [Bool.and_eq_true, decide_eq_true_eq, ge_iff_le]
  rfl

theorem dataSession_stays (heard : List (Fin 24 × Nat × List Byte)) (up : s.scoutUp = true)
    (h : (s.rx ≠ 2 ∧ s.rx ≠ 3) ∨ (s.gns.session = none ∧ ¬((s.hear heard).1 = true
        ∨ (∃ h, h < 24 ∧ (s.hear heard).2.get R.CH_STAT_STATE h = 3 ∧ (s.hear heard).2.flag R.CH_STAT_AUTH h = false)
        ∨ s.gns.lastSession + s.get R.GNS_TIMERS0_DATA_PERIOD ≤ s.rtSec)) ∨ (∃ q, s.gns.session = some q ∧ s.rtSec < q + 60)) :
    s.dataSession heard = (s.hear heard).2 := by
  obtain ⟨left, rx⟩ := hear_leaves s heard
  have session := left.hidden (·.session) fun _ => rfl
  have last := left.hidden (·.lastSession) fun _ => rfl
  rw [dataSession_up s heard up]
  rcases h with off | ⟨idle, early⟩ | ⟨q, runs, early⟩
  · exact sessionStep_off _ _ (by rw [rx]; exact off)
  · refine sessionStep_waits _ _ (session.trans idle) ?_
    rw [State.sessionDue, last, left.rtSec, left.get (f := R.GNS_TIMERS0_DATA_PERIOD) (by decide)]
    exact early
  · exact sessionStep_runs _ _ (session.trans runs) (by rw [left.rtSec]; exact early)

theorem dataSession_starts (heard : List (Fin 24 × Nat × List Byte)) (up : s.scoutUp = true) (on : s.rx = 2 ∨ s.rx = 3) (idle : s.gns.session = none)
    (h : (s.hear heard).1 = true ∨ (∃ h, h < 24 ∧ (s.hear heard).2.get R.CH_STAT_STATE h = 3 ∧ (s.hear heard).2.flag R.CH_STAT_AUTH h = false)
        ∨ s.gns.lastSession + s.get R.GNS_TIMERS0_DATA_PERIOD ≤ s.rtSec) :
    Completes (.dataSession heard) s fun t => t.gns.session = some s.rtSec ∧ t.rx = 2 ∧ t.get R.GNS_CTRL_MODE = 1 := by
  obtain ⟨left, rx⟩ := hear_leaves s heard
  have due : (s.hear heard).2.sessionDue (s.hear heard).1 := by
    rw [State.sessionDue, left.hidden (·.lastSession) fun _ => rfl, left.rtSec, left.get (f := R.GNS_TIMERS0_DATA_PERIOD) (by decide)]
    exact h
  have starts := sessionStep_starts _ _ (by rw [rx]; exact on) ((left.hidden (·.session) fun _ => rfl).trans idle) due
  refine ⟨_, exec_dataSession s heard, ?_⟩
  rw [dataSession_up s heard up, starts]
  refine ⟨?_, rx_rxMove _ _ (by decide), mode_rxMove _ _ (by decide)⟩
  rw [← left.rtSec]
  rfl

theorem dataSession_ends (heard : List (Fin 24 × Nat × List Byte)) (up : s.scoutUp = true) (on : s.rx = 2 ∨ s.rx = 3) {q : Nat}
    (runs : s.gns.session = some q) (h : q + 60 ≤ s.rtSec) :
    Completes (.dataSession heard) s fun t => t.gns.session = none ∧ t.gns.lastSession = s.rtSec
      ∧ t.rx = (if s.timeUnc < 100000000 ∧ s.get R.GNS_MASK_SOL_MIN_SV ≤ (s.hear heard).2.get R.GNS_STAT_NSV_AUTH then 3 else s.rx) := by
  obtain ⟨left, rx⟩ := hear_leaves s heard
  have ends := sessionStep_ends _ (s.hear heard).1 (by rw [rx]; exact on) ((left.hidden (·.session) fun _ => rfl).trans runs) (by rw [left.rtSec]; exact h)
  refine ⟨_, exec_dataSession s heard, ?_⟩
  rw [dataSession_up s heard up, ends, left.timeUnc, left.get (f := R.GNS_MASK_SOL_MIN_SV) (by decide)]
  split
  · exact ⟨rfl, left.rtSec, rx_rxMove _ _ (by decide)⟩
  · exact ⟨rfl, left.rtSec, (rx_setGns ..).trans rx⟩

/-! ### The end of a survey (R156) -/

theorem exec_surveyEnd : exec .surveyEnd s = .next s.surveyEnd := rfl

theorem surveyEnd_none (h : s.gns.survey = none ∨ s.scoutUp = false) : s.surveyEnd = s := by
  unfold State.surveyEnd
  split
  · rfl
  · next y some_ =>
    rcases h with none_ | down
    · rw [none_] at some_
      cases some_
    · exact if_pos (by rw [down]; rfl)

/-- The state in which the Scout has written the mean of a survey (R156). -/
def State.surveyed (s : State) (y : Survey) : State :=
  (s.set R.GNS_POS 0 y.mean).set R.GNS_POS_UNC 0 (Nat.max 1 (Nat.min y.unc (2 ^ 24 - 1)))

theorem surveyEnd_ends {y : Survey} (some_ : s.gns.survey = some y) (up : s.scoutUp = true) (count : y.count ≠ 0)
    (h : y.start + s.get R.GNS_SURVEY_TIME ≤ s.rtSec) :
    s.surveyEnd = ((s.surveyed y).setGns { (s.surveyed y).gns with survey := none }).setFlag R.GNS_STAT_SURVEY 0 false := by
  unfold State.surveyEnd
  rw [some_]
  exact if_neg (by simp [up, count, h])

theorem mean_lt (y : Survey) : y.mean < 2 ^ 192 := by
  have fits : ∀ x : Int, trunc 64 x < 2 ^ 64 := fun x => BitVec.isLt _
  have x := fits (roundDiv y.x (Nat.max 1 y.count))
  have y' := fits (roundDiv y.y (Nat.max 1 y.count))
  have z := fits (roundDiv y.z (Nat.max 1 y.count))
  unfold Survey.mean
  dsimp only
  omega

theorem surveyEnd_mean {y : Survey} (some_ : s.gns.survey = some y) (up : s.scoutUp = true) (count : y.count ≠ 0)
    (h : y.start + s.get R.GNS_SURVEY_TIME ≤ s.rtSec) : s.surveyEnd.get R.GNS_POS = y.mean ∧ s.surveyEnd.get R.GNS_POS_UNC = Nat.max 1 (Nat.min y.unc (2 ^ 24 - 1))
      ∧ s.surveyEnd.flag R.GNS_STAT_SURVEY = false ∧ s.surveyEnd.gns.survey = none := by
  rw [surveyEnd_ends s some_ up count h]
  refine ⟨?_, ?_, flag_setFlag_own _ _ (by decide) rfl, by rw [State.setFlag_gns, setGns_gns]⟩
  · rw [get_setFlag_parted _ _ (by decide), get_setGns, State.surveyed, get_set_parted _ _ (by decide), get_set_same _ (by unfold Fld.plain; decide)]
    exact Nat.mod_eq_of_lt (mean_lt y)
  · rw [get_setFlag_parted _ _ (by decide), get_setGns, State.surveyed, get_set_own _ _ (by decide)]
    exact Nat.mod_eq_of_lt (max_lt (by decide) (min_lt_of_right_lt (by decide)))

end sessions

end Sys2Proof.Machine

/-! ## OSNMA (R153, R154) -/

namespace Sys2Proof.Machine

/-! ### Authentication of the channels -/

section auth

variable {s : State} {n : Nat} {f : Nat → State → State}

/-- What each step leaves is left by all. -/
theorem forN_keeps (P : State → Prop) (start : P s) (step : ∀ u k, P u → P (f k u)) : P (s.forN n f) := by
  unfold State.forN
  exact List.foldlRecOn (List.range n) _ (motive := P) start fun t ht k _ => step t k ht

/-- What each step brings about at its own number, and leaves at the others, holds at every number after all. -/
theorem forN_each (P : Nat → State → Prop) (own : ∀ u k, P k (f k u)) (other : ∀ u k j, j ≠ k → P j u → P j (f k u)) : ∀ k < n, P k (s.forN n f) := by
  induction n with
  | zero => exact fun k hk => absurd hk (by omega)
  | succ n ih =>
    intro k hk
    rw [forN_succ]
    by_cases last : k = n
    · subst last
      exact own _ _
    · exact other _ _ _ last (ih k (by omega))

variable (s)

/-- Fields of different channels, and of different words, stand apart. -/
theorem get_set_corr {f g : Fld} (hf : f.ofCorr = true) (hg : g.ofCorr = true) {i j : Nat} (h : f.addr ≠ g.addr ∨ i ≠ j)
    (four : f.addr % 4 = 0 ∧ g.addr % 4 = 0) (v : Nat) : (s.set f i v).get g j = s.get g j := by
  simp only [Fld.ofCorr, Bool.and_eq_true, beq_iff_eq, decide_eq_true_eq] at hf hg
  obtain ⟨⟨⟨fWords, fStride⟩, fLow⟩, fHigh⟩ := hf
  obtain ⟨⟨⟨gWords, gStride⟩, gLow⟩, gHigh⟩ := hg
  refine get_set_apart ?_
  rw [Fld.at, Fld.at, fWords, gWords, fStride, gStride]
  omega

theorem flag_set_corr {f g : Fld} (hf : f.ofCorr = true) (hg : g.ofCorr = true) {i j : Nat} (h : f.addr ≠ g.addr ∨ i ≠ j)
    (four : f.addr % 4 = 0 ∧ g.addr % 4 = 0) (v : Nat) : (s.set f i v).flag g j = s.flag g j := by
  unfold State.flag
  rw [get_set_corr s hf hg h four]

theorem auth_setFlag (h : Nat) (on : Bool) : (s.setFlag R.CH_STAT_AUTH h on).flag R.CH_STAT_AUTH h = on :=
  flag_setFlag_same on (fun _ _ => rwsOff_above (by simp only [Fld.at, R.CH_STAT_AUTH]; omega)) rfl

theorem svid_authChan (sv : Nat) (on : Bool) (h j : Nat) : (s.authChan sv on h).get R.CH_CFG_SVID j = s.get R.CH_CFG_SVID j := by
  unfold State.authChan
  split
  · exact get_set_corr s rfl rfl (.inl (by decide)) (by decide) _
  · rfl

theorem authChan_own (sv : Nat) (on : Bool) (h : Nat) : s.get R.CH_CFG_SVID h = sv → (s.authChan sv on h).flag R.CH_STAT_AUTH h = on := by
  intro sent
  rw [State.authChan, if_pos sent]
  exact auth_setFlag s h on

theorem authChan_other (sv : Nat) (on : Bool) {h j : Nat} (hj : j ≠ h) : (s.authChan sv on h).flag R.CH_STAT_AUTH j = s.flag R.CH_STAT_AUTH j := by
  unfold State.authChan
  split
  · exact flag_set_corr s rfl rfl (.inr hj.symm) (by decide) _
  · rfl

theorem auth_syncAuth (k : Nat) : s.syncAuth.flag R.CH_STAT_AUTH k = s.flag R.CH_STAT_AUTH k := by
  have apart : ∀ v, (s.set R.GNS_STAT_NSV_AUTH 0 v).get R.CH_STAT_AUTH k = s.get R.CH_STAT_AUTH k := fun v =>
    get_set_apart (.inr (by simp only [Fld.at, R.GNS_STAT_NSV_AUTH, R.CH_STAT_AUTH, Fld.words]; omega))
  unfold State.syncAuth State.flag
  rw [apart]

theorem svid_orbitAuth (sv : Nat) (on : Bool) (k : Nat) : (s.orbitAuth sv on).get R.CH_CFG_SVID k = s.get R.CH_CFG_SVID k := by
  unfold State.orbitAuth
  split
  · exact get_setGns ..
  · rfl

/-- Every channel of a satellite whose authentication is set has it so (R153). -/
theorem auth_authSet (sv : Nat) (on : Bool) : ∀ k < 24, s.get R.CH_CFG_SVID k = sv → (s.authSet sv on).flag R.CH_STAT_AUTH k = on := by
  intro k hk sent
  have each : ∀ k < 24, ((s.orbitAuth sv on).forN 24 (State.authChan sv on)).get R.CH_CFG_SVID k = sv →
      ((s.orbitAuth sv on).forN 24 (State.authChan sv on)).flag R.CH_STAT_AUTH k = on :=
    forN_each (fun k t => t.get R.CH_CFG_SVID k = sv → t.flag R.CH_STAT_AUTH k = on)
      (fun u k => by rw [svid_authChan]; exact authChan_own u sv on k)
      (fun u k j hj => by rw [svid_authChan, authChan_other u sv on hj]; exact id)
  have svid : ((s.orbitAuth sv on).forN 24 (State.authChan sv on)).get R.CH_CFG_SVID k = s.get R.CH_CFG_SVID k :=
    forN_keeps (fun t => t.get R.CH_CFG_SVID k = s.get R.CH_CFG_SVID k) (svid_orbitAuth ..) fun u h kept => (svid_authChan ..).trans kept
  rw [authSet_eq, auth_syncAuth]
  exact each k hk (svid.trans sent)

end auth

/-! ### Messages (R153) -/

section messages

variable (s : State) (h : Fin 24)

theorem exec_osnmaVerify (m : OsnmaMsg) : exec (.osnmaVerify h m) s = .next (s.osnma h m) := rfl

theorem osnma_idle (m : OsnmaMsg) (off : s.scoutUp = false ∨ s.get R.CH_CFG_SVID h = 0 ∨ s.navRead = false) : s.osnma h m = s := by
  unfold State.osnma
  exact if_pos (by rcases off with off | off | off <;> simp [off])

/-- A channel in use whose navigation data the Scout reads (R153). -/
def State.osnmaOn (s : State) (h : Fin 24) : Prop := s.scoutUp = true ∧ s.get R.CH_CFG_SVID h ≠ 0 ∧ s.navRead = true

theorem osnmaOn_test (on : s.osnmaOn h) : ¬(!s.scoutUp || decide (s.get R.CH_CFG_SVID h = 0) || !s.navRead) = true := by
  obtain ⟨up, used, read⟩ := on
  simp [up, used, read]

variable {h} (on : s.osnmaOn h)
include on

theorem osnma_pkr (npkt npkid mid : Nat) (key : List Byte) (path : List (List Byte)) : s.osnma h (.pkr npkt npkid mid key path) = s.osnmaPkr npkt npkid mid key path :=
  if_neg (osnmaOn_test s h on)

theorem osnma_kroot (pkid : Nat) (t : Tesla) (signed sig : List Byte) : s.osnma h (.kroot pkid t signed sig) = s.osnmaKroot pkid t signed sig :=
  if_neg (osnmaOn_test s h on)

theorem osnma_key (gst : Nat) (key : List Byte) : s.osnma h (.key gst key) = s.osnmaKey gst key := if_neg (osnmaOn_test s h on)

theorem osnma_tag (x : OsnmaTag) : s.osnma h (.tag x) = s.osnmaTag (s.get R.CH_CFG_SVID h) x := if_neg (osnmaOn_test s h on)

theorem osnma_renewal : s.osnma h .renewal = s.osnmaRenew := if_neg (osnmaOn_test s h on)

end messages

section keys

variable (s : State)

theorem osnmaPkr_accepts {npkt npkid mid : Nat} {key : List Byte} {path : List (List Byte)}
    (root : merkleUp mid path (sha256 (BitVec.ofNat 8 (npkt * 16 + npkid) :: key)) = s.merkleRoot) :
    s.osnmaPkr npkt npkid mid key path = s.setGns { s.gns with pub := some { kind := npkt, id := npkid, key := key } } := if_pos root

theorem osnmaKroot_eq {p : OsnmaPub} (pub : s.gns.pub = some p) (t : Tesla) (signed sig : List Byte) :
    s.osnmaKroot p.id t signed sig = if Config.osnmaSignature p.kind p.key signed sig then s.setGns { s.gns with tesla := some t } else s := by
  unfold State.osnmaKroot
  rw [pub]
  simp

/-- A key a number of subframes after the last one is taken if it hashes back to it (R153). -/
theorem osnmaKey_eq {t : Tesla} (tesla : s.gns.tesla = some t) {k : Nat} (hk : k ≠ 0) (key : List Byte) : s.osnmaKey (t.gst + 30 * k) key
    = if chainBack t k (t.gst + 30 * k) key = t.key then s.setGns { s.gns with tesla := some { t with gst := t.gst + 30 * k, key := key } } else s := by
  unfold State.osnmaKey
  rw [tesla]
  simp [Nat.pos_of_ne_zero hk]

end keys

/-! ### Tags (R153, R154) -/

section tags

variable (s : State) (from_ : Nat) (x : OsnmaTag)

theorem osnmaTag_checked {t : Tesla} {key : List Byte} (tesla : s.gns.tesla = some t)
    (known : teslaKey t (x.gst + 30 + (if x.adkd = 12 then 300 else 0)) = some key) (bound : s.timeUnc ≤ Config.osnmaLimit x.adkd)
    (trusted : s.gns.lostRoot ≠ some s.merkleRoot) :
    s.osnmaTag from_ x = if teslaTagOk t key x from_ then s.tagGood x else s.tagBad from_ x := by
  unfold State.osnmaTag
  simp only [tesla, known]
  exact if_neg (by simp [trusted, bound])

theorem tagGood_utc (h : x.adkd = 4) : s.tagGood x = s.setGns { s.gns with utcPar := some x.nav } := if_pos h

theorem tagGood_orbit {o : Orbit} (h : x.adkd ≠ 4) (orbit : s.orbit x.prnd = some o) (iod : o.iod = x.iod) : s.tagGood x = s.authSet x.prnd true := by
  unfold State.tagGood
  rw [if_neg h, orbit]
  exact if_pos iod

/-- The failures that stand after one more of a satellite (R154). -/
def State.osnmaFails (s : State) (from_ : Nat) : List (Nat × Nat) :=
  (s.gns.osnma.filter fun f => f.1 != from_ && decide (s.rtSec ≤ f.2 + 30)) ++ [(from_, s.rtSec)]

/-- The state in which what a failed tag covers is not authenticated (R154). -/
def State.tagVoid (s : State) (from_ : Nat) (x : OsnmaTag) : State :=
  let t := s.setGns { s.gns with osnma := s.osnmaFails from_, utcPar := if x.adkd = 4 then none else s.gns.utcPar }
  if x.adkd = 4 then t else t.authSet x.prnd false

/-- The state after the events of a failed tag, before its fault is raised (R154). -/
def State.tagEvents (s : State) (from_ : Nat) (x : OsnmaTag) : State :=
  let t := (s.tagVoid from_ x).gnsEvt 5
  if (s.osnmaFails from_).length ≥ 3 then t.gnsEvt 4 else t

theorem tagBad_eq : s.tagBad from_ x = (s.tagEvents from_ x).raise fsGnssOsnmaFail := rfl

theorem tagVoid_osnma : (s.tagVoid from_ x).gns.osnma = s.osnmaFails from_ := by
  unfold State.tagVoid
  dsimp only
  split
  · rfl
  · exact (scouted_authSet _ _ _).hidden (·.osnma) fun _ => rfl

theorem tagVoid_auth (h : x.adkd ≠ 4) : ∀ k < 24, s.get R.CH_CFG_SVID k = x.prnd → (s.tagVoid from_ x).flag R.CH_STAT_AUTH k = false := by
  intro k hk sent
  unfold State.tagVoid
  rw [if_neg h]
  exact auth_authSet _ _ _ k hk (by rw [get_setGns]; exact sent)

theorem within_tagEvents : Within gnsEvtWord (s.tagVoid from_ x) (s.tagEvents from_ x) :=
  within_ite ((within_gnsEvt ..).trans (within_gnsEvt ..)) (within_gnsEvt ..)

theorem tagEvents_bit : ((s.tagEvents from_ x).get R.GNS_EVT).testBit 5 = true := by
  have fails := gnsEvt_bit (s.tagVoid from_ x) (b := 5) (by decide)
  unfold State.tagEvents
  dsimp only
  split
  · exact gnsEvt_holds _ (by decide) fails
  · exact fails

/-- A failed tag: its event, its failure, and no channel of its satellite authenticated (R154). -/
theorem tagEvents_leaves : ((s.tagEvents from_ x).get R.GNS_EVT).testBit 5 = true ∧ (from_, s.rtSec) ∈ (s.tagEvents from_ x).gns.osnma
    ∧ (x.adkd ≠ 4 → ∀ k, k < 24 → s.get R.CH_CFG_SVID k = x.prnd → (s.tagEvents from_ x).flag R.CH_STAT_AUTH k = false) := by
  have events := within_tagEvents s from_ x
  refine ⟨tagEvents_bit s from_ x, ?_, fun covers k hk sent => ?_⟩
  · rw [events.gns, tagVoid_osnma]
    exact List.mem_append_right _ (List.mem_singleton_self _)
  · rw [events.flag _ _ fun j _ => ?_]
    · exact tagVoid_auth s from_ x covers k hk sent
    · rw [gnsEvtWord, pendWord_apart (.inr (by simp only [Fld.at, R.CH_STAT_AUTH]; omega)), Bool.or_false, beq_eq_false_iff_ne]
      simp only [Fld.at, R.CH_STAT_AUTH]
      omega

/-! ### A renewal of the tree (R154) -/

/-- The hidden state of GNS under a root that could not verify a renewal (R154). -/
def State.rootLost (s : State) : State :=
  s.setGns { s.gns with lostRoot := some s.merkleRoot, orbits := s.gns.orbits.map fun o => { o with auth := false }, utcPar := none }

/-- No channel authenticated (R154). -/
def State.authNone (s : State) : State := s.forN 24 fun h s => s.setFlag R.CH_STAT_AUTH h false

theorem osnmaRenew_eq : s.osnmaRenew = s.rootLost.authNone.syncAuth := rfl

theorem scouted_authNone : Scouted s s.authNone := Scouted.forN _ _ fun u _ hk => scouted_channel u R.CH_STAT_AUTH _ rfl hk

theorem authNone_flag : ∀ k < 24, s.authNone.flag R.CH_STAT_AUTH k = false :=
  forN_each (fun k t => t.flag R.CH_STAT_AUTH k = false) (fun u k => auth_setFlag u k false)
    fun u _ _ hj kept => (flag_set_corr u rfl rfl (.inr hj.symm) (by decide) _).trans kept

theorem osnmaRenew_leaves : s.osnmaRenew.gns.lostRoot = some s.merkleRoot ∧ s.osnmaRenew.gns.utcPar = none
    ∧ ∀ k, k < 24 → s.osnmaRenew.flag R.CH_STAT_AUTH k = false := by
  have left : Scouted s.rootLost s.osnmaRenew := (scouted_authNone _).trans (scouted_syncAuth _)
  refine ⟨left.hidden (·.lostRoot) fun _ => rfl, left.hidden (·.utcPar) fun _ => rfl, fun k hk => ?_⟩
  rw [osnmaRenew_eq, auth_syncAuth]
  exact authNone_flag _ k hk

end tags

end Sys2Proof.Machine

/-! ## A second of the Scout: checks and the record (R155, R157) -/

namespace Sys2Proof.Machine

section solution

variable (s : State) (sats : List SatObs) (sol : Solution)

theorem exec_scoutSolution : exec (.scoutSolution sats sol) s = .next (s.scoutSolution sats sol) := rfl

/-- Whether the Scout solves in this second (R144, R157). -/
def State.solving (s : State) : Prop := s.scoutUp = true ∧ s.flag R.GNS_CFG_ENABLE = true ∧ s.rx ≠ 0 ∧ s.gns.solSec ≠ some s.rtSec

theorem solving_iff : (!s.scoutUp || !s.flag R.GNS_CFG_ENABLE || decide (s.rx = rxOff) || decide (s.gns.solSec = some s.rtSec)) = true ↔ ¬s.solving := by
  unfold State.solving rxOff
  cases s.scoutUp <;> simp [imp_iff_not_or, or_assoc]

/-- The state in which the Scout has idle channels searching (R149). -/
def State.acquired (s : State) : State := (s.setGns { s.gns with solSec := some s.rtSec }).acquire

/-- The observations of channels in use (R147). -/
def State.seen (s : State) (sats : List SatObs) : List SatObs := sats.filter fun x => s.get R.CH_CFG_SVID x.ch != 0

/-- The state after a second's tracking (R144, R147). -/
def State.tracked (s : State) (seen : List SatObs) : State := (s.trackStep seen).set R.GNS_STAT_NSV_TRACK 0 (Nat.min seen.length 24)

/-- The state after the second's observations are shown (R144, R155, R156). -/
def State.observed (s : State) (seen : List SatObs) (c : Int) (sol : Solution) : State := (((s.obsShow seen c).syncAuth).scoutStates seen).surveyStep sol

/-- What the Scout does with an epoch whose versions agree (R155, R157). -/
def State.solved (s : State) (seen : List SatObs) (c : Int) (sol : Solution) (ms v0 : Nat) : State :=
  let used := s.satsUsed seen
  if s.rx < rxCont || used.length < s.get R.GNS_MASK_SOL_MIN_SV then s
  else if s.rx = rxSnapshot && s.timeUnc ≥ 2000000000 then s
  else
    let gate := s.spoofGate (s.spoofChecks seen c ms)
    if gate.1 then gate.2
    else (gate.2.setGns { gate.2.gns with recSeq := (gate.2.gns.recSeq + 1) % 65536 }).inletPut 2 (gate.2.gnssRecord used sol ms v0)

/-- The end of a second, from the state that shows the observations (R146, R152, R157). -/
def State.concluded (s : State) (seen : List SatObs) (c : Int) (sol : Solution) : State :=
  match s.solEpoch with
  | none => s
  | some (ms, v0, v1) =>
    let s := s.setGns { s.gns with result := none }
    if s.csetBreak v0 v1 then s.bump R.GNS_CNT_BURSTS_DISCARDED else s.solved seen c sol ms v0

/-- The state that shows a second's observations (R155). -/
def State.solShown (s : State) (sats : List SatObs) (sol : Solution) : State :=
  let seen := s.acquired.seen sats
  let b := s.acquired.tracked seen
  b.observed seen (weighted (b.residuals seen)) sol

theorem scoutSolution_idle (h : ¬s.solving) : s.scoutSolution sats sol = s := if_pos ((solving_iff s).mpr h)

theorem scoutSolution_eq (h : s.solving) : s.scoutSolution sats sol = (s.solShown sats sol).concluded (s.acquired.seen sats)
    (weighted ((s.acquired.tracked (s.acquired.seen sats)).residuals (s.acquired.seen sats))) sol :=
  if_neg fun idle => (solving_iff s).mp idle h

theorem concluded_none (seen : List SatObs) (c : Int) (h : s.solEpoch = none) : s.concluded seen c sol = s := by
  unfold State.concluded
  rw [h]

/-- The state in which a host result has been taken (R152). -/
def State.resultTaken (s : State) : State := s.setGns { s.gns with result := none }

theorem concluded_breaks (seen : List SatObs) (c : Int) {ms v0 v1 : Nat} (h : s.solEpoch = some (ms, v0, v1)) (changed : s.resultTaken.csetBreak v0 v1 = true) :
    s.concluded seen c sol = s.resultTaken.bump R.GNS_CNT_BURSTS_DISCARDED := by
  unfold State.concluded
  rw [h]
  exact if_pos changed

theorem concluded_solves (seen : List SatObs) (c : Int) {ms v0 v1 : Nat} (h : s.solEpoch = some (ms, v0, v1)) (same : s.resultTaken.csetBreak v0 v1 = false) :
    s.concluded seen c sol = s.resultTaken.solved seen c sol ms v0 := by
  unfold State.concluded
  rw [h]
  exact if_neg (Bool.eq_false_iff.mp same)

/-! ### What a second leaves before its solution -/

theorem scouted_shown : Scouted (s.setGns { s.gns with solSec := some s.rtSec }) (s.solShown sats sol) :=
  (scouted_acquire _).trans <| (scouted_trackStep _ _).trans <| (scouted_set _ R.GNS_STAT_NSV_TRACK 0 _ (by decide)).trans <|
    (scouted_obsShow _ _ _).trans <| (scouted_syncAuth _).trans <| (scouted_scoutStates _ _).trans (scouted_surveyStep _ _)

/-! ### Checks 2 to 4 (R155) -/

/-- The state in which a second's AGC_OUT is kept for check 3 (R155). -/
def State.agcSeen (s : State) : State := s.setGns { s.gns with lastAgc := s.get R.GNS_AGC_AGC_OUT, agcSec := s.rtSec }

/-- The state of a solution that fails its checks, before the fault is raised (R155). -/
def State.spoofed (s : State) (bad : Nat) : State :=
  let t := s.agcSeen.setGns { s.agcSeen.gns with withheld := true, passes := 0 }
  (if bad.testBit 1 then t.gnsEvt 6 else t).gnsEvt 4

theorem spoofGate_bad {bad : Nat} (h : bad ≠ 0) : s.spoofGate bad = (true, (s.spoofed bad).raise fsGnssSpoof) := if_pos h

theorem spoofed_leaves (bad : Nat) : (s.spoofed bad).gns.withheld = true ∧ ((s.spoofed bad).get R.GNS_EVT).testBit 4 = true ∧ (s.spoofed bad).knl = s.knl := by
  refine ⟨?_, gnsEvt_bit _ (by decide), ?_⟩
  · unfold State.spoofed
    dsimp only
    split <;> simp
  · unfold State.spoofed
    dsimp only
    split <;> simp [State.agcSeen]

theorem spoofGate_clean (h : s.gns.withheld = false) : s.spoofGate 0 = (false, s.agcSeen) := if_neg fun held => Bool.false_ne_true (h.symm.trans held)

/-! ### The record (R157) -/

theorem gnssRecord_fields (used : List SatObs) (ms ver : Nat) : leAt (s.gnssRecord used sol ms ver) 0 12 = (msRt ms).toNat
    ∧ leAt (s.gnssRecord used sol ms ver) 12 8 = trunc 64 (s.taiOffset (weighted (s.residuals used)))
    ∧ leAt (s.gnssRecord used sol ms ver) 40 1 = used.length % 256 := by
  have epoch : (msRt ms).toNat < 79228162514264337593543950336 := (msRt ms).isLt
  have offset : trunc 64 (s.taiOffset (weighted (s.residuals used))) < 18446744073709551616 := BitVec.isLt _
  unfold State.gnssRecord
  dsimp only
  refine ⟨?_, ?_, ?_⟩ <;> simp [leAt_padTo, leAt_append_left, leAt_append_right, leAt_leBytes, leBytes_length, epoch, offset]

/-- The clock offset that a record tells does not depend on what check 3 keeps (R155, R157). -/
theorem agcSeen_offset (used : List SatObs) : s.agcSeen.taiOffset (weighted (s.agcSeen.residuals used)) = s.taiOffset (weighted (s.residuals used)) := by
  have words : ∀ f i, s.agcSeen.get f i = s.get f i := fun f i => get_setGns ..
  have aside : Aside s s.agcSeen := ⟨rfl, rfl, rfl, fun _ _ => rfl⟩
  have second : s.agcSeen.rtSec = s.rtSec := by
    unfold State.rtSec
    rw [aside.inLc, aside.rt, aside.time]
  have place : s.agcSeen.position = s.position := by
    unfold State.position
    rw [words]
    rfl
  have residuals : s.agcSeen.residuals used = s.residuals used := by
    unfold State.residuals State.residual
    simp only [words, place, aside.rt]
    rfl
  unfold State.taiOffset
  rw [residuals, second]
  rfl

/-! ### The outcome -/

variable (seen : List SatObs) (c : Int) {ms v0 : Nat}

/-- An epoch that the Scout solves: tracking, enough satellites, and in SNAPSHOT a time good enough (R152, R155). -/
def State.solvable (s : State) (seen : List SatObs) : Prop :=
  2 ≤ s.rx ∧ s.get R.GNS_MASK_SOL_MIN_SV ≤ (s.satsUsed seen).length ∧ ¬(s.rx = 4 ∧ 2000000000 ≤ s.timeUnc)

theorem solved_gate (h : s.solvable seen) : s.solved seen c sol ms v0 = if (s.spoofGate (s.spoofChecks seen c ms)).1 then (s.spoofGate (s.spoofChecks seen c ms)).2
    else ((s.spoofGate (s.spoofChecks seen c ms)).2.setGns { (s.spoofGate (s.spoofChecks seen c ms)).2.gns with
        recSeq := ((s.spoofGate (s.spoofChecks seen c ms)).2.gns.recSeq + 1) % 65536 }).inletPut 2
      ((s.spoofGate (s.spoofChecks seen c ms)).2.gnssRecord (s.satsUsed seen) sol ms v0) := by
  obtain ⟨tracking, enough, bound⟩ := h
  have enough' : ¬(decide (s.rx < 2) || decide ((s.satsUsed seen).length < s.get R.GNS_MASK_SOL_MIN_SV)) = true := by
    simp only [Bool.or_eq_true, decide_eq_true_eq]
    omega
  have bound' : ¬(decide (s.rx = 4) && decide (s.timeUnc ≥ 2000000000)) = true := by simpa using bound
  exact (if_neg enough').trans (if_neg bound')

theorem solved_spoofed (h : s.solvable seen) (bad : s.spoofChecks seen c ms ≠ 0) :
    s.solved seen c sol ms v0 = (s.spoofed (s.spoofChecks seen c ms)).raise fsGnssSpoof := by
  rw [solved_gate s sol seen c h, spoofGate_bad s bad]
  rfl

theorem solved_records (h : s.solvable seen) (clean : s.spoofChecks seen c ms = 0) (shared : s.gns.withheld = false) (room : s.knl.inlet.length < 64) :
    (s.solved seen c sol ms v0).knl.inlet = s.knl.inlet ++ [{ typ := 2, lc := s.time.lc, bytes := s.agcSeen.gnssRecord (s.satsUsed seen) sol ms v0 }]
    ∧ (s.solved seen c sol ms v0).gns.recSeq = (s.gns.recSeq + 1) % 65536 ∧ (s.solved seen c sol ms v0).gns.solSec = s.gns.solSec := by
  have put : ∀ b, (s.agcSeen.setGns { s.agcSeen.gns with recSeq := (s.agcSeen.gns.recSeq + 1) % 65536 }).inletPut 2 b
      = let t := s.agcSeen.setGns { s.agcSeen.gns with recSeq := (s.agcSeen.gns.recSeq + 1) % 65536 }
        { t with knl := { t.knl with inlet := t.knl.inlet ++ [{ typ := 2, lc := t.time.lc, bytes := b }] } } := fun b => if_neg (Nat.not_le.mpr room)
  rw [solved_gate s sol seen c h, clean, spoofGate_clean s shared, if_neg Bool.false_ne_true, put]
  exact ⟨rfl, rfl, rfl⟩

end solution

end Sys2Proof.Machine

/-! ## Writes of the words of GNS (R145, R152, R156) -/

namespace Sys2Proof.Machine

/-! ### A result of the host (R152) -/

section results

variable (s : State) (v : Word) (first seq cs : Nat)

theorem wordsN_quiet (a n : Nat) : s.quiet.wordsN a n = s.wordsN a n := wordsN_congr fun _ _ => word_quiet ..

/-- The state in which the Scout has taken a result of the host (R144, R152). -/
def State.hostResult (s : State) (first cs : Nat) : State :=
  let s := s.setGns { s.gns with result := some (msOf (BitVec.ofNat 96 (first + 2 ^ 37)), cs % 65536, cs / 65536) }
  if s.rx == rxSnapshot && decide (s.resultGood ≥ s.get R.GNS_MASK_SOL_MIN_SV) then s.rxMove rxAcquire 1 else s

/-- What the Scout makes of a slot that the host has freed (R152). -/
def State.hostJudged (s : State) (v : Word) (first seq cs : Nat) : State :=
  if !s.scoutUp then s
  else if s.rt.toNat ≥ first + 2 * 2 ^ 48 then s.bump R.GNS_SNAP_CNT_SNAP_LATE
  else if !v.getLsbD 1 || bits v.toNat 16 16 != seq % 65536 || (s.word 0x2008000).toNat != seq then s
  else if s.csetBreak (cs % 65536) (cs / 65536) then s
  else s.hostResult first cs

theorem snapDone_idle (h : (s.get R.GNS_SNAP_STAT).testBit (v.toNat % 2) = false) : s.snapDone v = s := if_pos (by rw [h]; rfl)

theorem snapDone_frees (h : (s.get R.GNS_SNAP_STAT).testBit (v.toNat % 2) = true) : s.snapDone v
    = (s.clearBit R.GNS_SNAP_STAT 0 (v.toNat % 2)).hostJudged v (s.wordsN (0x2010000 + v.toNat % 2 * 0x78000) 3)
      (s.wordsN (0x2010000 + v.toNat % 2 * 0x78000 + 12) 1) (s.wordsN (0x2010000 + v.toNat % 2 * 0x78000 + 16) 1) := if_neg (by rw [h]; decide)

theorem hostResult_stat : (s.hostResult first cs).get R.GNS_SNAP_STAT = s.get R.GNS_SNAP_STAT := by
  unfold State.hostResult
  dsimp only
  split
  · rw [get_rxMove _ _ _ (by decide) (by decide), get_setGns]
  · exact get_setGns ..

theorem hostResult_result : (s.hostResult first cs).gns.result = some (msOf (BitVec.ofNat 96 (first + 2 ^ 37)), cs % 65536, cs / 65536) := by
  unfold State.hostResult
  dsimp only
  split <;> rfl

theorem hostJudged_stat : (s.hostJudged v first seq cs).get R.GNS_SNAP_STAT = s.get R.GNS_SNAP_STAT := by
  unfold State.hostJudged
  split
  · rfl
  · split
    · exact get_bump_parted _ _ (by decide)
    · split
      · rfl
      · split
        · rfl
        · exact hostResult_stat ..

theorem hostJudged_result : (s.hostJudged v first seq cs).gns.result = s.gns.result
    ∨ (s.hostJudged v first seq cs).gns.result = some (msOf (BitVec.ofNat 96 (first + 2 ^ 37)), cs % 65536, cs / 65536) := by
  unfold State.hostJudged
  split
  · exact .inl rfl
  · split
    · exact .inl (by rw [State.bump_gns])
    · split
      · exact .inl rfl
      · split
        · exact .inl rfl
        · exact .inr (hostResult_result ..)

/-- A slot that the host frees awaits DONE no more, and the other stays as it was (R152). -/
theorem snapDone_stat (j : Nat) : ((s.snapDone v).get R.GNS_SNAP_STAT).testBit j = ((s.get R.GNS_SNAP_STAT).testBit j && j != v.toNat % 2) := by
  cases awaits : (s.get R.GNS_SNAP_STAT).testBit (v.toNat % 2) with
  | false =>
    rw [snapDone_idle s v awaits]
    by_cases same : j = v.toNat % 2
    · rw [same, awaits]
      rfl
    · rw [bne_iff_ne.mpr same, Bool.and_true]
  | true => rw [snapDone_frees s v awaits, hostJudged_stat, testBit_clearBit (by unfold Fld.plain; decide)]

theorem snapDone_result : (s.snapDone v).gns.result = s.gns.result ∨ (s.snapDone v).gns.result
    = some (msOf (BitVec.ofNat 96 (s.wordsN (0x2010000 + v.toNat % 2 * 0x78000) 3 + 2 ^ 37)),
      s.wordsN (0x2010000 + v.toNat % 2 * 0x78000 + 16) 1 % 65536, s.wordsN (0x2010000 + v.toNat % 2 * 0x78000 + 16) 1 / 65536) := by
  cases awaits : (s.get R.GNS_SNAP_STAT).testBit (v.toNat % 2) with
  | false => exact .inl (by rw [snapDone_idle s v awaits])
  | true =>
    rw [snapDone_frees s v awaits]
    exact (hostJudged_result ..).imp_left fun kept => by rw [kept, State.clearBit, State.set_gns]

/-- A result that the Scout accepts (R152). -/
structure State.resultFits (s : State) (v : Word) (first seq cs : Nat) : Prop where
  up : s.scoutUp = true
  early : s.rt.toNat < first + 2 * 2 ^ 48
  valid : v.getLsbD 1 = true
  slot : v.toNat / 65536 = seq % 65536
  block : (s.word 0x2008000).toNat = seq
  same : s.csetBreak (cs % 65536) (cs / 65536) = false

theorem hostJudged_accepts (h : s.resultFits v first seq cs) : s.hostJudged v first seq cs = s.hostResult first cs := by
  obtain ⟨up, early, valid, slot, block, same⟩ := h
  have seq16 : bits v.toNat 16 16 = seq % 65536 := by
    rw [← slot]
    exact Nat.mod_eq_of_lt (Nat.div_lt_of_lt_mul v.isLt)
  unfold State.hostJudged
  rw [if_neg (by rw [up]; decide), if_neg (Nat.not_le.mpr early), if_neg (by rw [valid, seq16, block]; simp), if_neg (Bool.eq_false_iff.mp same)]

/-- The words by which a result is judged stand beside SNAP_STAT. -/
theorem resultGood_of_words {t : State} (h : ∀ a, a ≠ 0x2000020 → t.word a = s.word a) : t.resultGood = s.resultGood := by
  have count : t.get { R.GNS_RES_WIN with addr := R.GNS_RES_WIN.addr + 4, width := 8 } = s.get { R.GNS_RES_WIN with addr := R.GNS_RES_WIN.addr + 4, width := 8 } :=
    get_of_word rfl (h _ (by decide))
  have entry : ∀ i, t.word (0x2008010 + 16 * i) = s.word (0x2008010 + 16 * i) := fun i => h _ (by omega)
  unfold State.resultGood
  have bound : t.get R.GNS_MASK_CN0_MIN = s.get R.GNS_MASK_CN0_MIN := get_of_word rfl (h _ (by decide))
  rw [count, bound]
  simp only [entry]

theorem resultGood_setGns (g : GnsSt) : (s.setGns g).resultGood = s.resultGood := resultGood_of_words s fun _ _ => word_setGns ..

theorem hostResult_moves (h : s.rx = 4) (good : s.get R.GNS_MASK_SOL_MIN_SV ≤ s.resultGood) : (s.hostResult first cs).rx = 1 := by
  unfold State.hostResult
  rw [if_pos]
  · exact rx_rxMove _ _ (by decide)
  · rw [rx_setGns, resultGood_setGns, get_setGns, h]
    simpa [rxSnapshot] using good

/-- A result accepted in a slot that awaits it is taken; in SNAPSHOT, with enough satellites, the Scout acquires again (R144, R152). -/
theorem snapDone_accepts (awaits : (s.get R.GNS_SNAP_STAT).testBit (v.toNat % 2) = true)
    (h : s.resultFits v (s.wordsN (0x2010000 + v.toNat % 2 * 0x78000) 3) (s.wordsN (0x2010000 + v.toNat % 2 * 0x78000 + 12) 1)
      (s.wordsN (0x2010000 + v.toNat % 2 * 0x78000 + 16) 1)) :
    (s.snapDone v).gns.result.isSome = true ∧ (s.rx = 4 → s.get R.GNS_MASK_SOL_MIN_SV ≤ s.resultGood → (s.snapDone v).rx = 1) := by
  have freed : Within (· == 0x2000020) s (s.clearBit R.GNS_SNAP_STAT 0 (v.toNat % 2)) := within_set _ _ _ _ (by decide)
  have aside : Aside s (s.clearBit R.GNS_SNAP_STAT 0 (v.toNat % 2)) := (freed.apart fun a ha => by
    rw [beq_eq_false_iff_ne]
    rintro rfl
    exact absurd ha (by decide)).toAside
  obtain ⟨up, early, valid, slot, block, same⟩ := h
  rw [snapDone_frees s v awaits, hostJudged_accepts]
  · refine ⟨by rw [hostResult_result]; rfl, fun rx good => hostResult_moves _ _ _ ?_ ?_⟩
    · exact (freed.get _ _ (by decide)).trans rx
    · rw [freed.get _ _ (by decide), resultGood_of_words s fun a ha => freed.word a (beq_eq_false_iff_ne.mpr ha)]
      exact good
  · refine ⟨(scoutUp_of_get (freed.get _ _ (by decide))).trans up, by rw [aside.rt]; exact early, valid, slot, by rw [freed.word _ (by decide)]; exact block, ?_⟩
    unfold State.csetBreak at *
    rw [freed.time]
    exact same

end results

end Sys2Proof.Machine

/-! ### The three writes on the bus (R9, R145, R152, R156) -/

namespace Sys2Proof.Machine

section busWrites

variable {s : State} {m : Master}

theorem wordWrite_prePort {t : State} {a : Nat} {v : Word} {mask : Nat} (h1 : s.preHost m a v = none) (h2 : s.preKnl m a v = none)
    (h3 : s.prePort m a v = some t) : s.wordWrite m a v mask = t := by
  unfold State.wordWrite
  rw [h1, h2, h3]

theorem exec_gnsSnapDone (v : Word) (h : s.writes m (R.GNS_SNAP_DONE_SLOT.at 0)) :
    exec (.gnsSnapDone m v) s = .next ((s.quiet.snapDone v).irqFollow s.quiet) := by
  have hr := rights_of_writes h
  obtain ⟨ha, -, hm⟩ := h
  refine congrArg Host.Outcome.next ?_
  rw [busWrite32_open ha rfl v hr (engMem_below (by decide)) hm, enabledWrite_single rfl rfl rfl, wordWrite_prePort rfl rfl rfl]

/-! #### RES_RELEASE (R145) -/

/-- The word of GNS_CTRL after a write of RES_RELEASE, before the release (R145). -/
def State.ctrlWritten (s : State) (m : Master) : State :=
  s.setWord 0x2000004 (s.landed 0x2000004 (s.word 0x2000004 ||| 4) (s.writeMask m 0x2000004))

theorem exec_resRelease (h : s.writes m (R.GNS_CTRL_RES_RELEASE.at 0)) :
    exec (.resRelease m) s = .next (((s.quiet.ctrlWritten m).resRelease).irqFollow s.quiet) := by
  have hr := rights_of_writes h
  obtain ⟨ha, -, hm⟩ := h
  have asks : (s.word 0x2000004 ||| 4#32).getLsbD 2 = true := by rw [BitVec.getLsbD_or]; simp
  have clamp : ∀ t : State, t.clampAt 0x2000004 = t := fun _ => rfl
  have post : ∀ t : State, ((t.postHost s.quiet 0x2000004).postKnl 0x2000004).postPort s.quiet m 0x2000004 (s.word 0x2000004 ||| 4) = t.resRelease :=
    fun _ => if_pos asks
  refine congrArg Host.Outcome.next ?_
  rw [busWrite32_open ha rfl _ hr (engMem_below (by decide)) hm, enabledWrite_single rfl rfl rfl, wordWrite_ordinary rfl rfl rfl]
  show State.irqFollow (((State.postHost (State.putMasked s.quiet 0x2000004 _ _) s.quiet 0x2000004).postKnl 0x2000004).postPort s.quiet m 0x2000004
    (s.word 0x2000004 ||| 4)) s.quiet = _
  rw [post, putMasked_eq, clamp, ← writeMask_quiet]
  rfl

theorem within_ctrlWritten (s : State) (m : Master) : Within (· == 0x2000004) s (s.ctrlWritten m) := within_setWord _ _ (by decide)

/-- A unit that can be gated and is not begins its handshake at a GATE request (R407, R408). -/
theorem gateReq_begins {u : Nat} (auto : Bool) (free : s.gateInProg u = false) (clocked : s.gated u = false) (idle : s.gateCond u = true) :
    s.gateReq u auto = ({ s with pwr := { s.pwr with quiesce := s.pwr.quiesce ++ [(u, auto, s.time.lc.toNat)] } } : State).syncGate := by
  unfold State.gateReq
  rw [if_neg (Bool.eq_false_iff.mp free), if_neg (Bool.eq_false_iff.mp clocked), if_neg (by rw [idle]; decide)]

theorem resRelease_gates (idle : s.flag R.GNS_STAT_BURST_ACTIVE = false) (free : s.gateInProg 8 = false) (clocked : s.gated 8 = false) :
    s.resRelease.pwr.quiesce = s.pwr.quiesce ++ [(8, false, s.time.lc.toNat)] := by
  have cond : s.gateCond 8 = true := by
    show (!s.flag R.GNS_STAT_BURST_ACTIVE) = true
    rw [idle]
    rfl
  have request : s.resRelease = s.gateReq 8 false := if_neg (by rw [idle, free, clocked]; decide)
  rw [request, gateReq_begins false free clocked cond, State.syncGate, State.setFlag_pwr]

theorem gateInProg_of_pwr {t : State} (h : t.pwr = s.pwr) (u : Nat) : t.gateInProg u = s.gateInProg u := by
  unfold State.gateInProg
  rw [h]

/-- A unit whose handshake runs has a command in progress (R408). -/
theorem gateInProg_of_quiesce {u lc : Nat} {auto : Bool} {l : List (Nat × Bool × Nat)} (h : s.pwr.quiesce = l ++ [(u, auto, lc)]) : s.gateInProg u = true := by
  unfold State.gateInProg
  rw [h, List.any_append]
  simp

theorem resRelease_completes (h : s.writes m (R.GNS_CTRL_RES_RELEASE.at 0)) (idle : s.flag R.GNS_STAT_BURST_ACTIVE = false) (free : s.gateInProg 8 = false)
    (clocked : s.gated 8 = false) :
    Completes (.resRelease m) s fun t => t.pwr.quiesce = s.pwr.quiesce ++ [(8, false, s.time.lc.toNat)] ∧ t.gateInProg 8 = true := by
  have written := within_ctrlWritten s.quiet m
  have follow := within_irqFollow (s.quiet.ctrlWritten m).resRelease s.quiet
  have idle' : (s.quiet.ctrlWritten m).flag R.GNS_STAT_BURST_ACTIVE = false := by
    rw [written.flag _ _ (by decide), State.flag, get_quiet]
    exact idle
  have clocked' : (s.quiet.ctrlWritten m).gated 8 = false := by
    unfold State.gated at *
    rw [written.get _ _ (by decide), get_quiet]
    exact clocked
  have free' : (s.quiet.ctrlWritten m).gateInProg 8 = false := (gateInProg_of_pwr (s := s) written.pwr 8).trans free
  have gates := resRelease_gates idle' free' clocked'
  rw [written.pwr, written.time] at gates
  have quiesce : ((s.quiet.ctrlWritten m).resRelease.irqFollow s.quiet).pwr.quiesce = s.pwr.quiesce ++ [(8, false, s.time.lc.toNat)] := by
    rw [follow.pwr]
    exact gates
  exact ⟨_, exec_resRelease h, quiesce, gateInProg_of_quiesce quiesce⟩

/-! #### GNS_POS (R9, R156) -/

theorem posWrite_scout (k : Fin 6) (v : Word) : s.posWrite (.eng 3) k v = s.setWord (0x2000040 + 4 * k.val) v := by
  unfold State.posWrite
  exact if_pos rfl

/-- The write of the higher word of a coordinate, with no word held for it, is the write of the word (R9). -/
theorem valueWrite_alone {a b n : Nat} {v : Word} {mask : Nat} (group : writeGroup a = some (b, n)) (last : a = b + 4 * (n - 1)) (held : s.holdw = []) :
    s.valueWrite m a v mask = s.wordWrite m a v mask := by
  have none_ : ({ s with holdw := s.holdw.filter fun x => !(decide (b ≤ x.1) && decide (x.1 < a)) } : State) = s := by
    rw [held]
    show ({ s with holdw := [] } : State) = s
    rw [← held]
  unfold State.valueWrite
  rw [group]
  dsimp only
  rw [if_neg (fun other => other last), none_, held]
  simp only [List.find?_nil, List.foldl_fixed]

theorem enabledWrite_alone {a b n : Nat} {v : Word} {mask : Nat} (group : writeGroup a = some (b, n)) (last : a = b + 4 * (n - 1)) (held : s.holdw = [])
    (enable : enableAt a = none) (port : R.PRT_CFG_ENABLE.hit 64 a = none) : s.enabledWrite m a v mask = s.wordWrite m a v mask := by
  have mode : s.modeFix a v = (s, v) := by unfold State.modeFix; rw [port]
  unfold State.enabledWrite
  rw [mode]
  dsimp only
  rw [enable]
  exact valueWrite_alone group last held

/-- The words of GNS_POS that end a coordinate (R156). -/
theorem posWord_odd {k : Fin 6} (h : k.val % 2 = 1) : k = 1 ∨ k = 3 ∨ k = 5 := by
  revert k
  decide

theorem pos_alone {k : Fin 6} (odd : k.val % 2 = 1) (v : Word) (mask : Nat) (held : s.holdw = []) :
    s.enabledWrite m (R.GNS_POS.at 0 + 4 * k.val) v mask = s.wordWrite m (R.GNS_POS.at 0 + 4 * k.val) v mask := by
  rcases posWord_odd odd with rfl | rfl | rfl <;> exact enabledWrite_alone rfl rfl held rfl rfl

theorem pos_taken {k : Fin 6} (odd : k.val % 2 = 1) (v : Word) (mask : Nat) :
    s.wordWrite m (R.GNS_POS.at 0 + 4 * k.val) v mask = s.posWrite m k v := by
  rcases posWord_odd odd with rfl | rfl | rfl <;> exact wordWrite_prePort (t := s.posWrite m _ v) rfl rfl rfl

theorem exec_gnsPosWrite {k : Fin 6} (v : Word) (odd : k.val % 2 = 1) (held : s.holdw = []) (h : s.writes (.eng 3) (R.GNS_POS.at 0 + 4 * k.val)) :
    exec (.gnsPosWrite (.eng 3) k v) s = .next ((s.quiet.setWord (0x2000040 + 4 * k.val) v).irqFollow s.quiet) := by
  have hr := rights_of_writes h
  obtain ⟨ha, -, hm⟩ := h
  have base : R.GNS_POS.at 0 = 0x2000040 := rfl
  refine congrArg Host.Outcome.next ?_
  rw [busWrite32_open ha (by omega) v hr (engMem_below (by omega)) hm, pos_alone (s := s.quiet) odd v _ held, pos_taken odd, posWrite_scout]

theorem gnsPosWrite_completes {k : Fin 6} (v : Word) (odd : k.val % 2 = 1) (held : s.holdw = []) (h : s.writes (.eng 3) (R.GNS_POS.at 0 + 4 * k.val)) :
    Completes (.gnsPosWrite (.eng 3) k v) s fun t =>
      t.word (0x2000040 + 4 * k.val) = v ∧ ∀ j : Fin 6, j ≠ k → t.word (0x2000040 + 4 * j.val) = s.word (0x2000040 + 4 * j.val) := by
  have follow := within_irqFollow (s.quiet.setWord (0x2000040 + 4 * k.val) v) s.quiet
  have apart : ∀ j : Fin 6, pendWord (0x2000040 + 4 * j.val) = false := fun j => pendWord_apart (by omega)
  refine ⟨_, exec_gnsPosWrite v odd held h, ?_, fun j other => ?_⟩
  · rw [follow.word _ (apart k)]
    exact word_setWord_same _ (rwsOff_above (by omega))
  · rw [follow.word _ (apart j)]
    exact word_setWord_ne _ (by have := Fin.val_ne_of_ne other; omega)

/-! #### GNS_SNAP_DONE (R152) -/

theorem msOf_ofNat (n : Nat) : msOf (BitVec.ofNat 96 n) = n % 2 ^ 96 * 1000 / 2 ^ 48 := by
  unfold msOf
  rw [BitVec.toNat_ofNat]

theorem gnsSnapDone_frees (v : Word) (h : s.writes m (R.GNS_SNAP_DONE_SLOT.at 0)) (idle : s.gns.result = none) :
    Completes (.gnsSnapDone m v) s fun t => (t.get R.GNS_SNAP_STAT).testBit (v.toNat % 2) = false
      ∧ (t.get R.GNS_SNAP_STAT).testBit (1 - v.toNat % 2) = (s.get R.GNS_SNAP_STAT).testBit (1 - v.toNat % 2)
      ∧ (t.gns.result = none ∨ t.gns.result = some ((s.wordsN (0x2010000 + v.toNat % 2 * 0x78000) 3 + 2 ^ 37) % 2 ^ 96 * 1000 / 2 ^ 48,
        s.wordsN (0x2010000 + v.toNat % 2 * 0x78000 + 16) 1 % 65536, s.wordsN (0x2010000 + v.toNat % 2 * 0x78000 + 16) 1 / 65536)) := by
  have follow := within_irqFollow (s.quiet.snapDone v) s.quiet
  have result := snapDone_result s.quiet v
  rw [wordsN_quiet, wordsN_quiet, msOf_ofNat] at result
  refine ⟨_, exec_gnsSnapDone v h, ?_, ?_, ?_⟩
  · rw [follow.get _ _ (by decide), snapDone_stat, bne_self_eq_false, Bool.and_false]
  · rw [follow.get _ _ (by decide), snapDone_stat, get_quiet, bne_iff_ne.mpr (by omega), Bool.and_true]
  · rw [follow.gns]
    exact result.imp_left fun kept => kept.trans idle

theorem gnsSnapDone_accepts (v : Word) (h : s.writes m (R.GNS_SNAP_DONE_SLOT.at 0)) (awaits : (s.get R.GNS_SNAP_STAT).testBit (v.toNat % 2) = true)
    (fits : s.resultFits v (s.wordsN (0x2010000 + v.toNat % 2 * 0x78000) 3) (s.wordsN (0x2010000 + v.toNat % 2 * 0x78000 + 12) 1)
      (s.wordsN (0x2010000 + v.toNat % 2 * 0x78000 + 16) 1)) :
    Completes (.gnsSnapDone m v) s fun t => t.gns.result.isSome = true ∧ (s.rx = 4 → s.get R.GNS_MASK_SOL_MIN_SV ≤ s.resultGood → t.rx = 1) := by
  have follow := within_irqFollow (s.quiet.snapDone v) s.quiet
  have aside : Aside s s.quiet := ⟨rfl, rfl, rfl, fun _ _ => rfl⟩
  obtain ⟨up, early, valid, slot, block, same⟩ := fits
  obtain ⟨taken, moves⟩ := snapDone_accepts s.quiet v (by rw [get_quiet]; exact awaits) (by
    rw [wordsN_quiet, wordsN_quiet, wordsN_quiet]
    exact ⟨(scoutUp_of_get (get_quiet ..)).trans up, by rw [aside.rt]; exact early, valid, slot, block, same⟩)
  refine ⟨_, exec_gnsSnapDone v h, by rw [follow.gns]; exact taken, fun rx good => ?_⟩
  rw [State.rx, follow.get _ _ (by decide)]
  refine moves ((get_quiet ..).trans rx) ?_
  rw [get_quiet, resultGood_of_words s fun a _ => word_quiet s a]
  exact good

end busWrites

end Sys2Proof.Machine

/-! ## The obligation (R139 to R157) -/

namespace Sys2Proof.Machine

section parts

variable (s : State)

theorem gnssMsStrobe_completes (region : s.gated 8 = false) : Completes .gnssMsStrobe s fun t =>
    t.gns.strobe = some (msOf s.rt, s.get R.KNL_TIME_MODE_CSET_VER)
    ∧ (¬(msOf s.rt % 1000 = s.get R.GNS_CFG_BURST_PHASE ∧ s.mayBurst 3 = true) → t.gns = s.strobed.gns ∧ t.regs = s.regs)
    ∧ (msOf s.rt % 1000 = s.get R.GNS_CFG_BURST_PHASE ∧ s.mayBurst 3 = true → s.get R.GNS_SNAP_STAT = 3 →
      t.gns = s.strobed.gns ∧ (t.get R.GNS_EVT).testBit 3 = true ∧ s.counts t R.GNS_SNAP_CNT_SKIPPED)
    ∧ (msOf s.rt % 1000 = s.get R.GNS_CFG_BURST_PHASE ∧ s.mayBurst 3 = true → s.get R.GNS_SNAP_STAT ≠ 3 →
      t.gns.cap = some (msOf s.rt, s.get R.KNL_TIME_MODE_CSET_VER, false) ∧ t.gns.epoch = msOf s.rt ∧ t.flag R.GNS_STAT_BURST_ACTIVE = true) := by
  have run : exec .gnssMsStrobe s = .next s.msStrobe := (exec_gnssMsStrobe s).trans (congrArg _ (run_clocked s State.msStrobe region))
  refine ⟨s.msStrobe, run, ?_, fun passes => ?_, fun starts full => msStrobe_skips s starts full, fun starts free => ?_⟩
  · by_cases starts : msOf s.rt % 1000 = s.get R.GNS_CFG_BURST_PHASE ∧ s.mayBurst 3 = true
    · by_cases full : s.get R.GNS_SNAP_STAT = 3
      · rw [(msStrobe_skips s starts full).1]
        rfl
      · rw [(msStrobe_captures s starts full).1]
        rfl
    · rw [msStrobe_passes s starts]
      rfl
  · rw [msStrobe_passes s passes]
    exact ⟨rfl, rfl⟩
  · obtain ⟨captures, active⟩ := msStrobe_captures s starts free
    rw [captures]
    exact ⟨rfl, rfl, active⟩

theorem exec_osnmaVerify_tagGood {h : Fin 24} (on : s.osnmaOn h) {x : OsnmaTag} {t : Tesla} {key : List Byte} (tesla : s.gns.tesla = some t)
    (known : teslaKey t (x.gst + 30 + (if x.adkd = 12 then 300 else 0)) = some key) (bound : s.timeUnc ≤ Config.osnmaLimit x.adkd)
    (trusted : s.gns.lostRoot ≠ some s.merkleRoot) (good : teslaTagOk t key x (s.get R.CH_CFG_SVID h) = true) :
    exec (.osnmaVerify h (.tag x)) s = .next (s.tagGood x) := by
  rw [exec_osnmaVerify, osnma_tag s on, osnmaTag_checked s _ x tesla known bound trusted, if_pos good]

theorem exec_osnmaVerify_tagBad {h : Fin 24} (on : s.osnmaOn h) {x : OsnmaTag} {t : Tesla} {key : List Byte} (tesla : s.gns.tesla = some t)
    (known : teslaKey t (x.gst + 30 + (if x.adkd = 12 then 300 else 0)) = some key) (bound : s.timeUnc ≤ Config.osnmaLimit x.adkd)
    (trusted : s.gns.lostRoot ≠ some s.merkleRoot) (bad : ¬teslaTagOk t key x (s.get R.CH_CFG_SVID h) = true) :
    exec (.osnmaVerify h (.tag x)) s = .next ((s.tagEvents (s.get R.CH_CFG_SVID h) x).raise fsGnssOsnmaFail) := by
  rw [exec_osnmaVerify, osnma_tag s on, osnmaTag_checked s _ x tesla known bound trusted, if_neg bad, tagBad_eq]

variable (sats : List SatObs) (sol : Solution)

/-- The state of a second's solution: the observations shown, a host result taken (R152, R157). -/
def State.solReady (s : State) (sats : List SatObs) (sol : Solution) : State := (s.solShown sats sol).resultTaken

/-- What a second leaves before its solution, seen from its start. -/
theorem solReady_leaves : (s.solReady sats sol).knl = s.knl ∧ (s.solReady sats sol).time = s.time
    ∧ (s.solReady sats sol).get R.GNS_MASK_SOL_MIN_SV = s.get R.GNS_MASK_SOL_MIN_SV ∧ (s.solReady sats sol).gns.withheld = s.gns.withheld
    ∧ (s.solReady sats sol).gns.recSeq = s.gns.recSeq ∧ (s.solReady sats sol).gns.solSec = some s.rtSec := by
  have left := scouted_shown s sats sol
  refine ⟨left.knl, left.time, ?_, ?_, ?_, ?_⟩
  · rw [State.solReady, State.resultTaken, get_setGns, left.get (by decide), get_setGns]
  · exact left.hidden (·.withheld) fun _ => rfl
  · exact left.hidden (·.recSeq) fun _ => rfl
  · exact left.hidden (·.solSec) fun _ => rfl

/-- The mean residual of a second's observations (R155). -/
def State.solMean (s : State) (sats : List SatObs) : Int :=
  weighted ((s.acquired.tracked (s.acquired.seen sats)).residuals (s.acquired.seen sats))

variable {ms v0 v1 : Nat} (run : s.solving) (epoch : (s.solShown sats sol).solEpoch = some (ms, v0, v1))
include run epoch

theorem scoutSolution_discards (changed : (s.solReady sats sol).csetBreak v0 v1 = true) :
    exec (.scoutSolution sats sol) s = .next ((s.solReady sats sol).bump R.GNS_CNT_BURSTS_DISCARDED) := by
  rw [exec_scoutSolution, scoutSolution_eq s sats sol run, concluded_breaks _ _ _ _ epoch changed]
  rfl

variable (same : (s.solReady sats sol).csetBreak v0 v1 = false)
include same

theorem scoutSolution_solves : exec (.scoutSolution sats sol) s
    = .next ((s.solReady sats sol).solved (s.acquired.seen sats) (s.solMean sats) sol ms v0) := by
  rw [exec_scoutSolution, scoutSolution_eq s sats sol run, concluded_solves _ _ _ _ epoch same]
  rfl

variable (able : (s.solReady sats sol).solvable (s.acquired.seen sats))
include able

/-- A solution that fails its checks is withheld and raises its fault (R155). -/
theorem scoutSolution_withholds (bad : (s.solReady sats sol).spoofChecks (s.acquired.seen sats) (s.solMean sats) ms ≠ 0) :
    ∃ u : State, u.gns.withheld = true ∧ (u.get R.GNS_EVT).testBit 4 = true ∧ u.knl.inlet = s.knl.inlet
      ∧ exec (.scoutSolution sats sol) s = .next (u.raise fsGnssSpoof) := by
  obtain ⟨held, evt, knl⟩ := spoofed_leaves (s.solReady sats sol) ((s.solReady sats sol).spoofChecks (s.acquired.seen sats) (s.solMean sats) ms)
  refine ⟨_, held, evt, by rw [knl, (solReady_leaves s sats sol).1], ?_⟩
  rw [scoutSolution_solves s sats sol run epoch same, solved_spoofed _ _ _ _ able bad]

/-- A solution that passes its checks gives one record to the inlet (R155, R157). -/
theorem scoutSolution_records (clean : (s.solReady sats sol).spoofChecks (s.acquired.seen sats) (s.solMean sats) ms = 0) (free : s.gns.withheld = false)
    (room : s.knl.inlet.length < 64) : Completes (.scoutSolution sats sol) s fun t => ∃ r : List Byte,
      leAt r 0 12 = (msRt ms).toNat
      ∧ leAt r 12 8 = trunc 64 ((s.solReady sats sol).taiOffset
        (weighted ((s.solReady sats sol).residuals ((s.solReady sats sol).satsUsed (s.acquired.seen sats)))))
      ∧ leAt r 40 1 = ((s.solReady sats sol).satsUsed (s.acquired.seen sats)).length % 256
      ∧ t.knl.inlet = s.knl.inlet ++ [{ typ := 2, lc := s.time.lc, bytes := r }] ∧ t.gns.recSeq = (s.gns.recSeq + 1) % 65536
      ∧ t.gns.solSec = some s.rtSec := by
  obtain ⟨knl, time, -, withheld, recSeq, solSec⟩ := solReady_leaves s sats sol
  obtain ⟨inlet, next, second⟩ := solved_records (v0 := v0) (s.solReady sats sol) sol _ _ able clean (withheld.trans free) (by rw [knl]; exact room)
  obtain ⟨at_, offset, count⟩ := gnssRecord_fields (s.solReady sats sol).agcSeen sol ((s.solReady sats sol).satsUsed (s.acquired.seen sats)) ms v0
  rw [agcSeen_offset] at offset
  rw [knl, time] at inlet
  exact ⟨_, scoutSolution_solves s sats sol run epoch same, _, at_, offset, count, inlet, next.trans (by rw [recSeq]), second.trans solSec⟩

end parts

end Sys2Proof.Machine

/-! ## O30 (R139 to R157) -/

namespace Sys2Proof.Machine

/-- Settles O30, by what each event of the receiver and each write of its words leaves. -/
theorem gnssReceiver : Obligations.GnssReceiver := by
  unfold Obligations.GnssReceiver
  refine ⟨fun s => ⟨?strobeGated, ?strobe, ?frontEnd, ?region, ?burstStart, ?noBurst, ?burstEnd, ?dump, ?capture, ?clkLoss, ?clkKept, ?clkReturn, ?clkAway⟩,
    fun s m v => ⟨?acquire, ?weak, ?retry, ?session, ?survey, ?noSurvey, ?osnma, ?solution, ?snapDone, ?release, ?position⟩⟩
  case strobeGated => exact fun gated => congrArg Host.Outcome.next (run_gated s State.msStrobe gated)
  case strobe => exact gnssMsStrobe_completes s
  case frontEnd =>
    exact ⟨fun ready => ⟨_, (exec_fePowerUp s).trans (congrArg _ ((fePowerUp_eq s).trans (if_pos ready))), rfl, rfl⟩,
      fun idle => (exec_fePowerUp s).trans (congrArg _ ((fePowerUp_eq s).trans (if_neg idle)))⟩
  case region =>
    exact ⟨fun ready => (exec_gnssRegionWake s).trans (congrArg _ ((gnssWake_eq s).trans (if_pos ready))),
      fun idle => (exec_gnssRegionWake s).trans (congrArg _ ((gnssWake_eq s).trans (if_neg idle)))⟩
  case burstStart => exact fun ms v strobe may fits => ⟨_, exec_burstStart s, burstStart_starts s strobe may fits⟩
  case noBurst => exact fun none_ => (exec_burstStart s).trans (congrArg _ (burstStart_none s none_))
  case burstEnd =>
    exact ⟨fun ready => ⟨_, exec_burstEnd s, burstEnd_ends s ready⟩, fun runs => (exec_burstEnd s).trans (congrArg _ (burstEnd_none s runs))⟩
  case dump =>
    exact fun samples => ⟨fun ready => ⟨_, exec_correlatorDump s samples, dump_dumps s samples ready⟩,
      fun idle => (exec_correlatorDump s samples).trans (congrArg _ (dump_idle s samples idle))⟩
  case capture =>
    refine fun samples => ⟨fun none_ => (exec_snapCapture s samples).trans (congrArg _ (snapCapture_none s samples none_)), fun ms v bad cap => ⟨fun ripe => ?_, ?_⟩⟩
    · have fills := snapCapture_fills s ms v bad samples cap ripe
      refine ⟨_, exec_snapCapture s samples, ?_⟩
      unfold State.slotFree at fills
      cases full : (s.get R.GNS_SNAP_STAT).testBit 0 <;> rw [full] at fills <;> exact fills
    · rintro rfl early
      exact (exec_snapCapture s samples).trans (congrArg _ (snapCapture_waits s ms v samples cap early))
  case clkLoss =>
    intro region clock
    obtain ⟨lost, idle, off⟩ := clockLost_stops s
    exact ⟨s.clockLost, lost, idle, off, exec_gsiClkLoss s region clock⟩
  case clkKept => exact exec_gsiClkLoss_idle s
  case clkReturn => exact gsiClkReturn_completes s
  case clkAway => exact exec_gsiClkReturn_idle s
  case acquire => exact acqTimeout_moves s
  case weak => exact weakTimeExpiry_moves s
  case retry => exact retryPeriodExpiry_moves s
  case session =>
    exact fun heard => ⟨fun down => (exec_dataSession s heard).trans (congrArg _ (dataSession_down s heard down)),
      fun up stays => (exec_dataSession s heard).trans (congrArg _ (dataSession_stays s heard up stays)),
      fun up on => ⟨dataSession_starts s heard up on, fun q runs => dataSession_ends s heard up on runs⟩⟩
  case survey => exact fun y some_ up count ends => ⟨_, exec_surveyEnd s, surveyEnd_mean s some_ up count ends⟩
  case noSurvey => exact fun none_ => (exec_surveyEnd s).trans (congrArg _ (surveyEnd_none s none_))
  case osnma =>
    refine fun h => ⟨fun off x => (exec_osnmaVerify s h x).trans (congrArg _ (osnma_idle s h x off)), fun up used read => ?_⟩
    have on : s.osnmaOn h := ⟨up, used, read⟩
    refine ⟨fun npkt npkid mid key path root => ?_, fun p t signed sig pub => ?_, fun t k key tesla hk => ?_,
      fun t key x tesla known bound trusted => ⟨fun good utc => ?_, fun o good eph orbit iod => ?_, fun bad => ?_⟩, ?_⟩
    · rw [exec_osnmaVerify, osnma_pkr s on, osnmaPkr_accepts s root]
    · rw [exec_osnmaVerify, osnma_kroot s on, osnmaKroot_eq s pub]
    · rw [exec_osnmaVerify, osnma_key s on, osnmaKey_eq s tesla hk]
    · exact ⟨_, (exec_osnmaVerify_tagGood s on tesla known bound trusted good).trans (congrArg _ (tagGood_utc s x utc)), rfl, rfl⟩
    · exact ⟨_, (exec_osnmaVerify_tagGood s on tesla known bound trusted good).trans (congrArg _ (tagGood_orbit s x eph orbit iod)), auth_authSet s x.prnd true⟩
    · obtain ⟨evt, fails, void⟩ := tagEvents_leaves s (s.get R.CH_CFG_SVID h) x
      exact ⟨_, evt, fails, void, exec_osnmaVerify_tagBad s on tesla known bound trusted bad⟩
    · exact ⟨_, (exec_osnmaVerify s h .renewal).trans (congrArg _ (osnma_renewal s on)), osnmaRenew_leaves s⟩
  case solution =>
    refine fun sats sol => ⟨fun idle => (exec_scoutSolution s sats sol).trans (congrArg _ (scoutSolution_idle s sats sol idle)), fun run none_ => ?_,
      fun ms v0 v1 run epoch => ⟨scoutSolution_discards s sats sol run epoch, fun same tracking enough bound => ?_⟩⟩
    · exact (exec_scoutSolution s sats sol).trans (congrArg _ ((scoutSolution_eq s sats sol run).trans (concluded_none (s.solShown sats sol) sol _ _ none_)))
    · obtain ⟨-, -, least, -⟩ := solReady_leaves s sats sol
      have able : (s.solReady sats sol).solvable (s.acquired.seen sats) := ⟨tracking, by rw [least]; exact enough, bound⟩
      exact ⟨scoutSolution_withholds s sats sol run epoch same able, scoutSolution_records s sats sol run epoch same able⟩
  case snapDone =>
    exact fun write => ⟨gnsSnapDone_frees v write, fun awaits up early valid slot block same =>
      gnsSnapDone_accepts v write awaits ⟨up, early, valid, slot, block, same⟩⟩
  case release => exact fun write idle free clocked _ => resRelease_completes write idle free clocked
  case position =>
    rintro k odd rfl held write
    exact gnsPosWrite_completes v odd held write

end Sys2Proof.Machine

/-! ## Fields of ports, links and groups (R162, R187, R205, R348) -/

namespace Sys2Proof.Machine

/-! ### Two fields that share no bit, whatever their numbers are -/

/-- The words of a field lie at the same place modulo `m`, whatever its number is. -/
def Fld.fits (f : Fld) (m : Nat) : Bool := f.stride % m == 0 && decide (f.addr % m + 4 * f.words ≤ m)

/-- A field outside the sealed store that shares no bit with another, whatever the numbers of the two are: one of them is single and lies below the
other, or they have other places within the stride of both, or other bits of the same words. -/
def Fld.splits (f g : Fld) : Bool :=
  let m := Nat.gcd f.stride g.stride
  decide (0x1400000 ≤ f.addr) &&
    (g.stride == 0 && decide (g.addr + 4 * g.words ≤ f.addr) || f.stride == 0 && decide (f.addr + 4 * f.words ≤ g.addr)
      || f.fits m && g.fits m && (decide (f.addr % m + 4 * f.words ≤ g.addr % m) || decide (g.addr % m + 4 * g.words ≤ f.addr % m))
      || f.words == 1 && g.words == 1 && f.stride == g.stride && f.addr == g.addr && f.stride % 4 == 0
        && (decide (g.lsb + g.width ≤ f.lsb) || decide (f.lsb + f.width ≤ g.lsb)))

/-- A field of one word per number, outside the sealed store, each in a word of its own (R59). -/
def Fld.tile (f : Fld) : Bool := decide (0x1400000 ≤ f.addr) && f.words == 1 && f.stride % 4 == 0 && decide (0 < f.width)

/-- A field whose words neither count events of OBS nor show what interrupts wait (R366, R466). -/
def Fld.calm (f : Fld) : Bool := decide (0x500038 ≤ f.addr) || f.stride == 0 && decide (f.addr + 4 * f.words ≤ 0x300000)

section places

variable {f g : Fld} {i j : Nat}

theorem plain_above (h : 0x1400000 ≤ f.addr) (i : Nat) : f.plain i := by
  intro k _
  exact rwsOff_above (by unfold Fld.at; omega)

theorem at_mod {m : Nat} (h : f.stride % m = 0) (i : Nat) : f.at i % m = f.addr % m := by
  obtain ⟨k, hk⟩ := Nat.dvd_of_mod_eq_zero h
  unfold Fld.at
  rw [hk, Nat.mul_assoc, Nat.add_mul_mod_self_left]

/-- Two runs of words that have other places modulo `m` do not meet. -/
theorem apart_of_mod {a b m u v : Nat} (ha : a % m + u ≤ m) (hb : b % m + v ≤ m) (h : a % m + u ≤ b % m ∨ b % m + v ≤ a % m) :
    b + v ≤ a ∨ a + u ≤ b := by
  have ea := Nat.div_add_mod a m
  have eb := Nat.div_add_mod b m
  rcases Nat.lt_trichotomy (a / m) (b / m) with lt | eq | gt
  · have := Nat.mul_le_mul_left m (Nat.succ_le_of_lt lt)
    rw [Nat.mul_succ] at this
    omega
  · rw [eq] at ea
    omega
  · have := Nat.mul_le_mul_left m (Nat.succ_le_of_lt gt)
    rw [Nat.mul_succ] at this
    omega

theorem own_of_tile (h : f.tile = true) (i : Nat) : f.own i = true := by
  simp only [Fld.tile, Bool.and_eq_true, decide_eq_true_eq, beq_iff_eq] at h
  obtain ⟨⟨⟨high, words⟩, -⟩, -⟩ := h
  exact own_iff.mpr ⟨words, rwsOff_above (by unfold Fld.at; omega)⟩

theorem calm_word (h : f.calm = true) (i : Nat) : ∀ k < f.words, obsWord (f.at i + 4 * k) = false ∧ pendWord (f.at i + 4 * k) = false := by
  intro k hk
  simp only [Fld.calm, Bool.or_eq_true, Bool.and_eq_true, decide_eq_true_eq, beq_iff_eq] at h
  have place : 0x500038 ≤ f.at i + 4 * k ∨ f.at i + 4 * k < 0x300000 := by
    unfold Fld.at
    rcases h with above | ⟨single, below⟩
    · left; omega
    · right; rw [single]; omega
  simp only [obsWord, pendWord, Bool.or_eq_false_iff, Bool.and_eq_false_iff, decide_eq_false_iff_not]
  omega

end places

section splits

variable (s : State) {f g : Fld} {i j : Nat}

theorem get_set_splits (v : Nat) (h : f.splits g = true) : (s.set f i v).get g j = s.get g j := by
  unfold Fld.splits Fld.fits at h
  simp only [Bool.and_eq_true, Bool.or_eq_true, beq_iff_eq, decide_eq_true_eq] at h
  obtain ⟨high, ((⟨single, below⟩ | ⟨single, above⟩) | ⟨⟨⟨fm, ff⟩, gm, gf⟩, places⟩) | ⟨⟨⟨⟨⟨fw, gw⟩, stride⟩, addr⟩, aligned⟩, bits⟩⟩ := h
  · refine get_set_apart (.inl ?_)
    unfold Fld.at
    rw [single]
    omega
  · refine get_set_apart (.inr ?_)
    unfold Fld.at
    rw [single]
    omega
  · rw [← at_mod fm i, ← at_mod gm j] at places
    rw [← at_mod fm i] at ff
    rw [← at_mod gm j] at gf
    exact get_set_apart (apart_of_mod ff gf places)
  · by_cases same : g.at j = f.at i
    · exact get_set_beside same (gw.trans fw.symm) bits (plain_above high i)
    · have fa := at_mod aligned i
      have ga := at_mod (stride ▸ aligned) j
      exact get_set_apart (by omega)

/-- A field of another number stays. -/
theorem get_set_index (v : Nat) (h : f.tile = true) (apart : 0 < f.stride) (ne : j ≠ i) : (s.set f i v).get f j = s.get f j := by
  simp only [Fld.tile, Bool.and_eq_true, decide_eq_true_eq, beq_iff_eq] at h
  obtain ⟨⟨⟨-, words⟩, aligned⟩, -⟩ := h
  have step : f.stride * j + 4 ≤ f.stride * i ∨ f.stride * i + 4 ≤ f.stride * j := by
    rcases Nat.lt_or_gt_of_ne ne with lt | gt
    · have := Nat.mul_le_mul_left f.stride (Nat.succ_le_of_lt lt)
      rw [Nat.mul_succ] at this
      omega
    · have := Nat.mul_le_mul_left f.stride (Nat.succ_le_of_lt gt)
      rw [Nat.mul_succ] at this
      omega
  refine get_set_apart ?_
  unfold Fld.at
  omega

theorem flag_set_splits (v : Nat) (h : f.splits g = true) : (s.set f i v).flag g j = s.flag g j := by
  unfold State.flag
  rw [get_set_splits s v h]

theorem get_setFlag_splits (b : Bool) (h : f.splits g = true) : (s.setFlag f i b).get g j = s.get g j := get_set_splits s _ h

theorem flag_setFlag_splits (b : Bool) (h : f.splits g = true) : (s.setFlag f i b).flag g j = s.flag g j := flag_set_splits s _ h

theorem get_bump_splits (n : Nat) (h : f.splits g = true) : (s.bump f i n).get g j = s.get g j := get_set_splits s _ h

theorem flag_bump_splits (n : Nat) (h : f.splits g = true) : (s.bump f i n).flag g j = s.flag g j := flag_set_splits s _ h

theorem get_bumpW_splits (n : Nat) (h : f.splits g = true) : (s.bumpW f i n).get g j = s.get g j := get_set_splits s _ h

theorem get_raiseBit_splits (b : Nat) (h : f.splits g = true) (calm : g.calm = true) : (s.raiseBit f i b).get g j = s.get g j := by
  have set := get_set_splits s (i := i) (j := j) (s.get f i ||| 2 ^ b) h
  unfold State.raiseBit
  dsimp only
  split
  · exact set
  · unfold State.irqEdge
    split
    · exact ((within_irq (p := pendWord) _ _ rfl rfl).get g j fun k hk => (calm_word calm j k hk).2).trans set
    · exact set

theorem flag_raiseBit_splits (b : Nat) (h : f.splits g = true) (calm : g.calm = true) : (s.raiseBit f i b).flag g j = s.flag g j := by
  unfold State.flag
  rw [get_raiseBit_splits s b h calm]

theorem get_obs_calm (code loc n : Nat) (calm : g.calm = true) : (s.obs code loc n).get g j = s.get g j :=
  get_obs s code loc n fun k hk => (calm_word calm j k hk).1

/-! ### What a field reads that has been written -/

theorem get_set_tile (v : Nat) (h : f.tile = true) : (s.set f i v).get f i = v % 2 ^ f.width := get_set_own s v (own_of_tile h i)

theorem flag_setFlag_tile (b : Bool) (h : f.tile = true) (hw : f.width = 1) : (s.setFlag f i b).flag f i = b := flag_setFlag_own s b (own_of_tile h i) hw

theorem get_bumpW_tile (n : Nat) (h : f.tile = true) : (s.bumpW f i n).get f i = (s.get f i + n) % 2 ^ f.width := get_set_tile s _ h

theorem get_bump_tile (h : f.tile = true) : (s.bump f i).get f i = Nat.min (s.get f i + 1) (2 ^ f.width - 1) := bump_counts s (own_of_tile h i)

/-- An event bit, once raised, stands. -/
theorem raiseBit_testBit {b : Nat} (h : f.tile = true) (calm : f.calm = true) (hb : b < f.width) : ((s.raiseBit f i b).get f i).testBit b = true := by
  rw [get_raiseBit_same (plain_of_own (own_of_tile h i)) hb fun k hk => (calm_word calm i k hk).2, Nat.testBit_or, Nat.testBit_two_pow_self, Bool.or_true]

end splits

/-! ### The hidden state of links and ports beside the registers -/

section hidden

variable (s : State)

@[simp] theorem link_setLink_same (i : Fin 68) (x : PortSt) : (s.setLink i x).link i = x := by simp [State.setLink, State.link]

theorem link_setLink_ne {i j : Fin 68} (x : PortSt) (h : j ≠ i) : (s.setLink i x).link j = s.link j := by
  simp only [State.setLink, State.link, Fin.getElem_fin]
  exact Vector.getElem_set_ne _ _ fun e => h (Fin.ext e.symm)

@[simp] theorem lport_setLport_same (p : Fin 64) (x : LchPort) : (s.setLport p x).lport p = x := by simp [State.setLport, State.lport]

theorem lport_setLport_ne {p q : Fin 64} (x : LchPort) (h : q ≠ p) : (s.setLport p x).lport q = s.lport q := by
  simp only [State.setLport, State.lport, Fin.getElem_fin]
  exact Vector.getElem_set_ne _ _ fun e => h (Fin.ext e.symm)

theorem link_of_prt {s t : State} (h : t.prt = s.prt) (i : Fin 68) : t.link i = s.link i := by
  unfold State.link
  rw [h]

theorem lport_of_prt {s t : State} (h : t.prt = s.prt) (p : Fin 64) : t.lport p = s.lport p := by
  unfold State.lport
  rw [h]

@[simp] theorem link_setLport (p : Fin 64) (x : LchPort) (i : Fin 68) : (s.setLport p x).link i = s.link i := rfl
@[simp] theorem lport_setLink (i : Fin 68) (x : PortSt) (p : Fin 64) : (s.setLink i x).lport p = s.lport p := rfl
@[simp] theorem link_set (f : Fld) (k v : Nat) (i : Fin 68) : (s.set f k v).link i = s.link i := link_of_prt (State.set_prt ..) i
@[simp] theorem link_setFlag (f : Fld) (k : Nat) (b : Bool) (i : Fin 68) : (s.setFlag f k b).link i = s.link i := link_set ..
@[simp] theorem link_bump (f : Fld) (k n : Nat) (i : Fin 68) : (s.bump f k n).link i = s.link i := link_set ..
@[simp] theorem link_raiseBit (f : Fld) (k b : Nat) (i : Fin 68) : (s.raiseBit f k b).link i = s.link i := link_of_prt (State.raiseBit_prt ..) i
@[simp] theorem link_obs (code loc n : Nat) (i : Fin 68) : (s.obs code loc n).link i = s.link i := link_of_prt (State.obs_prt ..) i
@[simp] theorem lport_set (f : Fld) (k v : Nat) (p : Fin 64) : (s.set f k v).lport p = s.lport p := lport_of_prt (State.set_prt ..) p
@[simp] theorem lport_setFlag (f : Fld) (k : Nat) (b : Bool) (p : Fin 64) : (s.setFlag f k b).lport p = s.lport p := lport_set ..
@[simp] theorem lport_bump (f : Fld) (k n : Nat) (p : Fin 64) : (s.bump f k n).lport p = s.lport p := lport_set ..
@[simp] theorem lport_bumpW (f : Fld) (k n : Nat) (p : Fin 64) : (s.bumpW f k n).lport p = s.lport p := lport_set ..
@[simp] theorem lport_raiseBit (f : Fld) (k b : Nat) (p : Fin 64) : (s.raiseBit f k b).lport p = s.lport p := lport_of_prt (State.raiseBit_prt ..) p
@[simp] theorem lport_obs (code loc n : Nat) (p : Fin 64) : (s.obs code loc n).lport p = s.lport p := lport_of_prt (State.obs_prt ..) p

@[simp] theorem get_setLink (i : Fin 68) (x : PortSt) (f : Fld) (k : Nat) : (s.setLink i x).get f k = s.get f k :=
  get_of_words (s := s) (t := s.setLink i x) (fun _ => rfl) f k

@[simp] theorem flag_setLink (i : Fin 68) (x : PortSt) (f : Fld) (k : Nat) : (s.setLink i x).flag f k = s.flag f k := by
  unfold State.flag
  rw [get_setLink]

@[simp] theorem get_setLport (p : Fin 64) (x : LchPort) (f : Fld) (k : Nat) : (s.setLport p x).get f k = s.get f k :=
  get_of_words (s := s) (t := s.setLport p x) (fun _ => rfl) f k

@[simp] theorem flag_setLport (p : Fin 64) (x : LchPort) (f : Fld) (k : Nat) : (s.setLport p x).flag f k = s.flag f k := by
  unfold State.flag
  rw [get_setLport]

@[simp] theorem linkState_setLink (i j : Fin 68) (x : PortSt) : (s.setLink i x).linkState j = s.linkState j := by
  unfold State.linkState
  simp only [get_setLink]

theorem portOf_attOf (p : Fin 64) : portOf (attOf p) = some p := by
  simp [portOf, attOf]

theorem attOf_of_portOf {i : Fin 68} {p : Fin 64} (h : portOf i = some p) : attOf p = i := by
  unfold portOf at h
  split at h
  · next high =>
    cases h
    refine Fin.ext ?_
    show i.val - 4 + 4 = i.val
    omega
  · cases h

theorem portOf_none {i : Fin 68} (h : portOf i = none) : i.val < 4 := by
  unfold portOf at h
  split at h
  · cases h
  · omega

theorem unitOf_attOf (p : Fin 64) : unitOf (attOf p) = p.val / 8 := by
  simp [unitOf, attOf]

end hidden

end Sys2Proof.Machine

/-! ## What leaves the states of the links, and the move of a link (R162, R163, R182) -/

namespace Sys2Proof.Machine

/-- `t` has the time, the memories and the words of time of `s`, and every link other than `i` as it was. -/
structure OnLink (i : Fin 68) (s t : State) : Prop extends Aside s t where
  state : ∀ j, j ≠ i → t.linkState j = s.linkState j
  ready : ∀ j, j ≠ i → t.tsReady j = s.tsReady j
  link : ∀ j, j ≠ i → t.link j = s.link j

/-- `t` has the time, the memories and the words of time of `s`, and the state and TS_READY of every link. -/
structure Steady (s t : State) : Prop extends Aside s t where
  state : ∀ j, t.linkState j = s.linkState j
  ready : ∀ j, t.tsReady j = s.tsReady j

section frames

variable {i : Fin 68} {r s t : State}

theorem OnLink.refl (i : Fin 68) (s : State) : OnLink i s s := ⟨.refl s, fun _ _ => rfl, fun _ _ => rfl, fun _ _ => rfl⟩

theorem OnLink.trans (h : OnLink i r s) (k : OnLink i s t) : OnLink i r t :=
  ⟨h.toAside.trans k.toAside, fun j hj => (k.state j hj).trans (h.state j hj), fun j hj => (k.ready j hj).trans (h.ready j hj),
    fun j hj => (k.link j hj).trans (h.link j hj)⟩

theorem Steady.refl (s : State) : Steady s s := ⟨.refl s, fun _ => rfl, fun _ => rfl⟩

theorem Steady.trans (h : Steady r s) (k : Steady s t) : Steady r t :=
  ⟨h.toAside.trans k.toAside, fun j => (k.state j).trans (h.state j), fun j => (k.ready j).trans (h.ready j)⟩

theorem Steady.ite {u : State} {c : Prop} [Decidable c] (h : Steady s t) (k : Steady s u) : Steady s (if c then t else u) := by
  split
  · exact h
  · exact k

theorem Steady.onLink (h : Steady s t) (link : ∀ j, j ≠ i → t.link j = s.link j) : OnLink i s t :=
  ⟨h.toAside, fun j _ => h.state j, fun j _ => h.ready j, link⟩

theorem Steady.onLink_of_prt (h : Steady s t) (prt : t.prt = s.prt) : OnLink i s t := h.onLink fun j _ => link_of_prt prt j

end frames

/-! ### Words of ports and of Pack links -/

/-- A field of the words of a port that is neither its link state nor TS_READY (R187). -/
def Fld.ofPort (f : Fld) : Bool :=
  f.stride == 0x4000 && decide (0x3000000 ≤ f.addr) && decide (f.addr + 4 * f.words ≤ 0x3003000) && f.splits R.PRT_STAT_LINK_STATE && f.splits R.PRT_STAT_TS_READY

/-- A field of the words of a Pack link that is neither its link state nor TS_READY (R348). -/
def Fld.ofPack (f : Fld) : Bool :=
  decide (0x6000000 ≤ f.addr) && f.splits R.PCK_LINK_STAT_LINK_STATE && f.splits R.PCK_LINK_STAT_TS_READY

section words

variable (s : State) {f g : Fld}

theorem aside_of_high (f : Fld) (i v : Nat) (h : 0x1400000 ≤ f.addr) : Aside s (s.set f i v) := (apart_high s f i v (by omega)).toAside

/-- A field of the ports is apart from every field above them. -/
theorem get_pack_setPort {i j : Nat} (v : Nat) (h : f.stride = 0x4000 ∧ f.addr + 4 * f.words ≤ 0x3004000) (hi : i < 64) (hg : 0x3100000 ≤ g.addr) :
    (s.set f i v).get g j = s.get g j := by
  refine get_set_apart (.inr ?_)
  unfold Fld.at
  rw [h.1]
  omega

/-- A field above the ports is apart from every field of theirs. -/
theorem get_port_setPack {i j : Nat} (v : Nat) (h : 0x3100000 ≤ f.addr) (hj : j < 64) (hg : g.stride = 0x4000 ∧ g.addr + 4 * g.words ≤ 0x3004000) :
    (s.set f i v).get g j = s.get g j := by
  refine get_set_apart (.inl ?_)
  unfold Fld.at
  rw [hg.1]
  omega

theorem steady_of_get {t : State} (aside : Aside s t) (port : ∀ p : Fin 64, t.get R.PRT_STAT_LINK_STATE p = s.get R.PRT_STAT_LINK_STATE p
      ∧ t.get R.PRT_STAT_TS_READY p = s.get R.PRT_STAT_TS_READY p)
    (pack : ∀ j : Fin 68, t.get R.PCK_LINK_STAT_LINK_STATE j = s.get R.PCK_LINK_STAT_LINK_STATE j
      ∧ t.get R.PCK_LINK_STAT_TS_READY j = s.get R.PCK_LINK_STAT_TS_READY j) : Steady s t := by
  refine ⟨aside, fun j => ?_, fun j => ?_⟩
  · unfold State.linkState
    cases portOf j with
    | none => exact (pack j).1
    | some p => exact (port p).1
  · unfold State.tsReady State.flag
    cases portOf j with
    | none => exact congrArg (· != 0) (pack j).2
    | some p => exact congrArg (· != 0) (port p).2

theorem steady_port {i : Nat} (v : Nat) (h : f.ofPort = true) (hi : i < 64) : Steady s (s.set f i v) := by
  simp only [Fld.ofPort, Bool.and_eq_true, decide_eq_true_eq, beq_iff_eq] at h
  obtain ⟨⟨⟨⟨stride, low⟩, high⟩, state⟩, ready⟩ := h
  have home : f.stride = 0x4000 ∧ f.addr + 4 * f.words ≤ 0x3004000 := ⟨stride, by omega⟩
  exact steady_of_get s (aside_of_high s f i v (by omega)) (fun p => ⟨get_set_splits s v state, get_set_splits s v ready⟩)
    fun j => ⟨get_pack_setPort s v home hi (by decide), get_pack_setPort s v home hi (by decide)⟩

theorem steady_pack (i v : Nat) (h : f.ofPack = true) : Steady s (s.set f i v) := by
  simp only [Fld.ofPack, Bool.and_eq_true, decide_eq_true_eq] at h
  obtain ⟨⟨high, state⟩, ready⟩ := h
  have port : ∀ p : Fin 64, (s.set f i v).get R.PRT_STAT_LINK_STATE p = s.get R.PRT_STAT_LINK_STATE p
      ∧ (s.set f i v).get R.PRT_STAT_TS_READY p = s.get R.PRT_STAT_TS_READY p := fun p =>
    ⟨get_port_setPack s v (by omega) p.isLt (by decide), get_port_setPack s v (by omega) p.isLt (by decide)⟩
  exact steady_of_get s (aside_of_high s f i v (by omega)) port fun j => ⟨get_set_splits s v state, get_set_splits s v ready⟩

/-- What changes only words that hold neither time nor the state of a link. -/
theorem Within.steady {p : Nat → Bool} {s t : State} (h : Within p s t) (time : ∀ a, timeWord a = true → p a = false)
    (port : ∀ q : Fin 64, p (0x3000004 + 0x4000 * q.val) = false) (pack : ∀ j : Fin 68, p (0x6000104 + 0x20 * j.val) = false) : Steady s t := by
  have one : ∀ {a : Nat}, p a = false → ∀ k < 1, p (a + 4 * k) = false := fun h k hk => by
    have k0 : k = 0 := by omega
    rw [k0]
    exact h
  exact steady_of_get s (h.apart time).toAside (fun q => ⟨h.get _ _ (one (port q)), h.get _ _ (one (port q))⟩)
    fun j => ⟨h.get _ _ (one (pack j)), h.get _ _ (one (pack j))⟩

/-- The words that an event bit of a port touches (R187, R366). -/
def portEvtWord (p a : Nat) : Bool := a == 0x3000008 + 0x4000 * p || pendWord a

theorem within_portEvt (p b : Nat) : Within (portEvtWord p) s (s.raiseBit R.PRT_EVT p b) := by
  refine within_raiseBit _ _ _ _ ?_ ?_ fun k hk => ?_
  · exact Bool.or_eq_true_iff.mpr (.inr rfl)
  · exact Bool.or_eq_true_iff.mpr (.inr rfl)
  · have k0 : k = 0 := by
      have one : k < 1 := hk
      omega
    rw [k0]
    exact Bool.or_eq_true_iff.mpr (.inl (beq_self_eq_true _))

theorem steady_portEvt (p : Fin 64) (b : Nat) : Steady s (s.raiseBit R.PRT_EVT p b) := by
  refine (within_portEvt s p b).steady (fun a ha => ?_) (fun q => ?_) fun j => ?_
  all_goals
    simp only [timeWord, portEvtWord, pendWord, Bool.or_eq_false_iff, Bool.and_eq_false_iff, decide_eq_false_iff_not, beq_eq_false_iff_ne, Bool.or_eq_true,
      Bool.and_eq_true, decide_eq_true_eq] at *
    omega

theorem steady_hidden {s t : State} (regs : t.regs = s.regs) (time : t.time = s.time) (mem : t.mem = s.mem) (pwr : t.pwr = s.pwr) (eng : t.eng = s.eng)
    (knl : t.knl = s.knl) : Steady s t := by
  have words : ∀ a, t.word a = s.word a := fun a => by unfold State.word State.store; rw [regs, knl]
  exact steady_of_get s (apart_hidden regs time mem pwr eng knl).toAside (fun p => ⟨get_of_words words _ _, get_of_words words _ _⟩)
    fun j => ⟨get_of_words words _ _, get_of_words words _ _⟩

theorem steady_setLink (i : Fin 68) (x : PortSt) : Steady s (s.setLink i x) := steady_hidden rfl rfl rfl rfl rfl rfl

theorem steady_setLport (p : Fin 64) (x : LchPort) : Steady s (s.setLport p x) := steady_hidden rfl rfl rfl rfl rfl rfl

theorem onLink_setLink (i : Fin 68) (x : PortSt) : OnLink i s (s.setLink i x) := (steady_setLink s i x).onLink fun _ h => link_setLink_ne s x h

end words

/-! ### What follows a change of a port: its latencies, the marks of its pair (R182, R183, R187) -/

section syncs

variable (s : State)

/-- A field that the latencies in use do not touch. -/
def Fld.offLat (g : Fld) : Bool := R.PRT_LAT_TX.splits g && R.PRT_LAT_RX.splits g && R.PRT_LAT_GEN.splits g

/-- A field that the marks of a pair do not touch. -/
def Fld.offPair (g : Fld) : Bool := R.PRT_STAT_PRP_CFG_ERR.splits g && R.PRT_STAT_DOWNSHIFT_UNAVAIL.splits g

theorem latSync_sets (p : Fin 64) : s.latSync p = s ∨ ∃ a b c, s.latSync p = ((s.set R.PRT_LAT_TX p a).set R.PRT_LAT_RX p b).set R.PRT_LAT_GEN p c := by
  unfold State.latSync State.run
  dsimp only
  split
  · exact .inl rfl
  · exact .inr ⟨_, _, _, rfl⟩

theorem get_latSync (p : Fin 64) {g : Fld} {j : Nat} (h : g.offLat = true) : (s.latSync p).get g j = s.get g j := by
  simp only [Fld.offLat, Bool.and_eq_true] at h
  obtain ⟨⟨tx, rx⟩, gen⟩ := h
  rcases latSync_sets s p with eq | ⟨a, b, c, eq⟩ <;> rw [eq]
  rw [get_set_splits _ _ gen, get_set_splits _ _ rx, get_set_splits _ _ tx]

theorem latSync_prt (p : Fin 64) : (s.latSync p).prt = s.prt := by
  rcases latSync_sets s p with eq | ⟨a, b, c, eq⟩ <;> rw [eq]
  rw [State.set_prt, State.set_prt, State.set_prt]

@[simp] theorem link_latSync (p : Fin 64) (i : Fin 68) : (s.latSync p).link i = s.link i := link_of_prt (latSync_prt s p) i

theorem steady_latSync (p : Fin 64) : Steady s (s.latSync p) := by
  rcases latSync_sets s p with eq | ⟨a, b, c, eq⟩ <;> rw [eq]
  · exact .refl s
  · exact ((steady_port s a (by decide) p.isLt).trans (steady_port _ b (by decide) p.isLt)).trans (steady_port _ c (by decide) p.isLt)

theorem portSync_sets (p : Fin 64) : ∃ e a b, s.portSync p
    = (((s.setFlag R.PRT_STAT_PRP_CFG_ERR (2 * (p.val / 2)) e).setFlag R.PRT_STAT_PRP_CFG_ERR (2 * (p.val / 2) + 1) e).setFlag R.PRT_STAT_DOWNSHIFT_UNAVAIL p a).setFlag
      R.PRT_STAT_DOWNSHIFT_UNAVAIL (twin p) b := ⟨_, _, _, rfl⟩

theorem get_portSync (p : Fin 64) {g : Fld} {j : Nat} (h : g.offPair = true) : (s.portSync p).get g j = s.get g j := by
  simp only [Fld.offPair, Bool.and_eq_true] at h
  obtain ⟨err, unavail⟩ := h
  obtain ⟨e, a, b, eq⟩ := portSync_sets s p
  rw [eq, get_setFlag_splits _ _ unavail, get_setFlag_splits _ _ unavail, get_setFlag_splits _ _ err, get_setFlag_splits _ _ err]

theorem flag_portSync (p : Fin 64) {g : Fld} {j : Nat} (h : g.offPair = true) : (s.portSync p).flag g j = s.flag g j := by
  unfold State.flag
  rw [get_portSync s p h]

theorem portSync_prt (p : Fin 64) : (s.portSync p).prt = s.prt := by
  obtain ⟨e, a, b, eq⟩ := portSync_sets s p
  rw [eq, State.setFlag_prt, State.setFlag_prt, State.setFlag_prt, State.setFlag_prt]

@[simp] theorem link_portSync (p : Fin 64) (i : Fin 68) : (s.portSync p).link i = s.link i := link_of_prt (portSync_prt s p) i

theorem steady_portSync (p : Fin 64) : Steady s (s.portSync p) := by
  have even : 2 * (p.val / 2) < 64 := by omega
  have odd : 2 * (p.val / 2) + 1 < 64 := by omega
  obtain ⟨e, a, b, eq⟩ := portSync_sets s p
  rw [eq]
  exact (((steady_port s _ (by decide) even).trans (steady_port _ _ (by decide) odd)).trans (steady_port _ _ (by decide) p.isLt)).trans
    (steady_port _ _ (by decide) (twin p).isLt)

/-- What a port holds when its active mode changes: the one before it is kept (R238). -/
def PortSt.modeKept (x : PortSt) (mode now : Nat) : PortSt := { x with modeWas := mode, modeAt := now }

theorem setModeAct_eq (p : Fin 64) (m : Nat) : s.setModeAct p m
    = ((s.setLink (attOf p) ((s.link (attOf p)).modeKept (s.get R.PRT_STAT_MODE_ACT p) s.rt.toNat)).set R.PRT_STAT_MODE_ACT p m).latSync p := rfl

theorem link_setModeAct (p : Fin 64) (m : Nat) :
    (s.setModeAct p m).link (attOf p) = (s.link (attOf p)).modeKept (s.get R.PRT_STAT_MODE_ACT p) s.rt.toNat := by
  rw [setModeAct_eq, link_latSync, link_set, link_setLink_same]

theorem setModeAct_mode (p : Fin 64) (m : Nat) : (s.setModeAct p m).get R.PRT_STAT_MODE_ACT p = m % 8 := by
  rw [setModeAct_eq, get_latSync _ _ (by decide), get_set_tile _ _ (by decide)]
  rfl

theorem get_setModeAct (p : Fin 64) (m : Nat) {g : Fld} {j : Nat} (h : R.PRT_STAT_MODE_ACT.splits g = true) (lat : g.offLat = true) :
    (s.setModeAct p m).get g j = s.get g j := by
  rw [setModeAct_eq, get_latSync _ _ lat, get_set_splits _ _ h, get_setLink]

theorem steady_setModeAct (p : Fin 64) (m : Nat) : Steady s (s.setModeAct p m) :=
  ((steady_setLink s _ _).trans (steady_port _ m (by decide) p.isLt)).trans (steady_latSync _ p)

theorem onLink_setModeAct (p : Fin 64) (m : Nat) : OnLink (attOf p) s (s.setModeAct p m) :=
  (steady_setModeAct s p m).onLink fun j h => by rw [setModeAct_eq, link_latSync, link_set, link_setLink_ne s _ h]

end syncs

/-! ### A link enters a state (R162) -/

/-- A field that the move of a link does not touch. -/
def Fld.offMove (g : Fld) : Bool := R.PRT_STAT_LINK_STATE.splits g && R.PRT_STAT_TS_READY.splits g && R.PRT_EVT.splits g && g.calm

/-- What a link holds when it enters a state (R162, R182). -/
def PortSt.entered (x : PortSt) (old v now : Nat) : PortSt := { x with since := now, upLc := if v == lkUP && old != lkRECAL then now else x.upLc }

/-- LINK_STATE and TS_READY of a port as it enters a state. -/
def State.portMoved (s : State) (p : Fin 64) (v : Nat) : State := (s.set R.PRT_STAT_LINK_STATE p v).setFlag R.PRT_STAT_TS_READY p (v == lkUP)

/-- A port's link falls out of SETTLE or UP: its event. -/
def State.portFell (s : State) (p : Fin 64) (old v : Nat) : State := if (old == lkSETTLE || old == lkUP) && v ≤ lkDOWN then s.raiseBit R.PRT_EVT p 1 else s

/-- A port's link comes UP: its event, and the LC from which frames may start. -/
def State.portRose (s : State) (p : Fin 64) (v : Nat) : State :=
  if v == lkUP then (s.raiseBit R.PRT_EVT p 0).setLport p { s.lport p with from_ := s.time.lc.toNat } else s

section move

variable (s : State) {i : Fin 68} {p : Fin 64} (v : Nat)

theorem linkMove_pack (h : portOf i = none) : s.linkMove i v = ((s.setLink i ((s.link i).entered (s.linkState i) v s.time.lc.toNat)).set R.PCK_LINK_STAT_LINK_STATE i v).setFlag
    R.PCK_LINK_STAT_TS_READY i (v == lkUP) := by
  unfold State.linkMove
  rw [h]
  rfl

theorem linkMove_port (h : portOf i = some p) : s.linkMove i v
    = (((s.setLink i ((s.link i).entered (s.linkState i) v s.time.lc.toNat)).portMoved p v).portFell p (s.get R.PRT_STAT_LINK_STATE p) v).portRose p v := by
  unfold State.linkMove
  rw [h]
  dsimp only
  rw [get_setLink]
  rfl

theorem steady_portFell (old : Nat) : Steady s (s.portFell p old v) := (steady_portEvt s p 1).ite (.refl s)

theorem steady_portRose : Steady s (s.portRose p v) := ((steady_portEvt s p 0).trans (steady_setLport _ p _)).ite (.refl s)

@[simp] theorem link_portFell (old : Nat) (j : Fin 68) : (s.portFell p old v).link j = s.link j := by
  unfold State.portFell
  split <;> simp

@[simp] theorem link_portRose (j : Fin 68) : (s.portRose p v).link j = s.link j := by
  unfold State.portRose
  split <;> simp

@[simp] theorem link_portMoved (j : Fin 68) : (s.portMoved p v).link j = s.link j := by simp [State.portMoved]

theorem get_portFell (old : Nat) {g : Fld} {j : Nat} (h : R.PRT_EVT.splits g = true) (calm : g.calm = true) : (s.portFell p old v).get g j = s.get g j := by
  unfold State.portFell
  split
  · exact get_raiseBit_splits s 1 h calm
  · rfl

theorem get_portRose {g : Fld} {j : Nat} (h : R.PRT_EVT.splits g = true) (calm : g.calm = true) : (s.portRose p v).get g j = s.get g j := by
  unfold State.portRose
  split
  · rw [get_setLport]
    exact get_raiseBit_splits s 0 h calm
  · rfl

theorem get_linkMove (hp : portOf i = some p) {g : Fld} {j : Nat} (h : g.offMove = true) : (s.linkMove i v).get g j = s.get g j := by
  simp only [Fld.offMove, Bool.and_eq_true] at h
  obtain ⟨⟨⟨state, ready⟩, evt⟩, calm⟩ := h
  rw [linkMove_port s v hp, get_portRose _ _ evt calm, get_portFell _ _ _ evt calm, State.portMoved, get_setFlag_splits _ _ ready, get_set_splits _ _ state,
    get_setLink]

theorem link_linkMove : (s.linkMove i v).link i = (s.link i).entered (s.linkState i) v s.time.lc.toNat := by
  cases hp : portOf i with
  | none => rw [linkMove_pack s v hp]; simp
  | some p => rw [linkMove_port s v hp]; simp

/-- The link enters the state; TS_READY is set in UP only (R162). -/
theorem linkMove_enters (hv : v < 8) : (s.linkMove i v).linkState i = v ∧ (s.linkMove i v).tsReady i = (v == 4) := by
  have fits : v % 2 ^ 3 = v := Nat.mod_eq_of_lt hv
  cases hp : portOf i with
  | none =>
    rw [linkMove_pack s v hp, State.linkState, State.tsReady, hp]
    exact ⟨by rw [get_setFlag_splits _ _ (by decide), get_set_tile _ _ (by decide)]; exact fits, flag_setFlag_tile _ _ (by decide) rfl⟩
  | some p =>
    rw [linkMove_port s v hp]
    have fell := steady_portFell (p := p) ((s.setLink i ((s.link i).entered (s.linkState i) v s.time.lc.toNat)).portMoved p v) v (s.get R.PRT_STAT_LINK_STATE p)
    have rose := steady_portRose (p := p)
      (((s.setLink i ((s.link i).entered (s.linkState i) v s.time.lc.toNat)).portMoved p v).portFell p (s.get R.PRT_STAT_LINK_STATE p) v) v
    rw [rose.state, rose.ready, fell.state, fell.ready, State.linkState, State.tsReady, hp]
    dsimp only [State.portMoved]
    exact ⟨by rw [get_setFlag_splits _ _ (by decide), get_set_tile _ _ (by decide)]; exact fits, flag_setFlag_tile _ _ (by decide) rfl⟩

/-- LINK_STATE and TS_READY of a port are its own. -/
theorem onLink_portMoved (hp : portOf i = some p) : OnLink i s (s.portMoved p v) := by
  have aside := (aside_of_high s R.PRT_STAT_LINK_STATE p v (by decide)).trans
    (aside_of_high (s.set R.PRT_STAT_LINK_STATE p v) R.PRT_STAT_TS_READY p (if v == lkUP then 1 else 0) (by decide))
  have port : ∀ q : Fin 64, q ≠ p → (s.portMoved p v).get R.PRT_STAT_LINK_STATE q = s.get R.PRT_STAT_LINK_STATE q
      ∧ (s.portMoved p v).get R.PRT_STAT_TS_READY q = s.get R.PRT_STAT_TS_READY q := fun q ne => by
    have apart : q.val ≠ p.val := fun e => ne (Fin.ext e)
    unfold State.portMoved State.setFlag
    exact ⟨by rw [get_set_splits _ _ (by decide), get_set_index _ _ (by decide) (by decide) apart],
      by rw [get_set_index _ _ (by decide) (by decide) apart, get_set_splits _ _ (by decide)]⟩
  have pack : ∀ {g : Fld} (j : Nat), 0x3100000 ≤ g.addr → (s.portMoved p v).get g j = s.get g j := fun j hg => by
    unfold State.portMoved State.setFlag
    rw [get_pack_setPort _ _ (by decide) p.isLt hg, get_pack_setPort _ _ (by decide) p.isLt hg]
  refine ⟨aside, fun j hj => ?_, fun j hj => ?_, fun j _ => link_portMoved s v j⟩
  · unfold State.linkState
    cases hq : portOf j with
    | none => exact pack j (by decide)
    | some q => exact (port q fun e => hj ((attOf_of_portOf hq).symm.trans (e ▸ attOf_of_portOf hp))).1
  · unfold State.tsReady State.flag
    cases hq : portOf j with
    | none => exact congrArg (· != 0) (pack j (by decide))
    | some q => exact congrArg (· != 0) (port q fun e => hj ((attOf_of_portOf hq).symm.trans (e ▸ attOf_of_portOf hp))).2

/-- LINK_STATE and TS_READY of a Pack link are its own. -/
theorem onLink_packMoved (b : Bool) : OnLink i s ((s.set R.PCK_LINK_STAT_LINK_STATE i v).setFlag R.PCK_LINK_STAT_TS_READY i b) := by
  have aside := (aside_of_high s R.PCK_LINK_STAT_LINK_STATE i v (by decide)).trans
    (aside_of_high (s.set R.PCK_LINK_STAT_LINK_STATE i v) R.PCK_LINK_STAT_TS_READY i (if b then 1 else 0) (by decide))
  have port : ∀ {g : Fld} (q : Fin 64), g.stride = 0x4000 ∧ g.addr + 4 * g.words ≤ 0x3004000 →
      ((s.set R.PCK_LINK_STAT_LINK_STATE i v).setFlag R.PCK_LINK_STAT_TS_READY i b).get g q = s.get g q := fun q hg => by
    rw [State.setFlag, get_port_setPack _ _ (by decide) q.isLt hg, get_port_setPack _ _ (by decide) q.isLt hg]
  refine ⟨aside, fun j hj => ?_, fun j hj => ?_, fun j _ => by simp⟩
  · unfold State.linkState
    cases portOf j with
    | none =>
      dsimp only
      rw [get_setFlag_splits _ _ (by decide), get_set_index _ _ (by decide) (by decide) fun e => hj (Fin.ext e)]
    | some q => exact port q (by decide)
  · unfold State.tsReady State.flag
    cases portOf j with
    | none =>
      dsimp only
      rw [State.setFlag, get_set_index _ _ (by decide) (by decide) fun e => hj (Fin.ext e), get_set_splits _ _ (by decide)]
    | some q => exact congrArg (· != 0) (port q (by decide))

/-- Only the link itself moves. -/
theorem onLink_linkMove : OnLink i s (s.linkMove i v) := by
  have entered := onLink_setLink s i ((s.link i).entered (s.linkState i) v s.time.lc.toNat)
  cases hp : portOf i with
  | none =>
    rw [linkMove_pack s v hp]
    exact entered.trans (onLink_packMoved _ v _)
  | some p =>
    rw [linkMove_port s v hp]
    exact ((entered.trans (onLink_portMoved _ v hp)).trans ((steady_portFell _ v _).onLink fun j _ => link_portFell ..)).trans
      ((steady_portRose _ v).onLink fun j _ => link_portRose ..)

end move

end Sys2Proof.Machine

/-! ## The events of a link's states (R162, R163, R182) -/

namespace Sys2Proof.Machine

/-- Link `i` has entered state `v`, with TS_READY in UP only; every other link is as it was. -/
structure LinkMoved (i : Fin 68) (v : Nat) (s t : State) : Prop extends OnLink i s t where
  here : t.linkState i = v
  own : t.tsReady i = (v == 4)

section moved

variable {i : Fin 68} {v : Nat} {r s t : State}

theorem LinkMoved.after (h : OnLink i r s) (k : LinkMoved i v s t) : LinkMoved i v r t := ⟨h.trans k.toOnLink, k.here, k.own⟩

theorem LinkMoved.then (h : LinkMoved i v r s) (k : Steady s t) (link : ∀ j, j ≠ i → t.link j = s.link j) : LinkMoved i v r t :=
  ⟨h.toOnLink.trans (k.onLink link), (k.state i).trans h.here, (k.ready i).trans h.own⟩

theorem LinkMoved.then_of_prt (h : LinkMoved i v r s) (k : Steady s t) (prt : t.prt = s.prt) : LinkMoved i v r t := h.then k fun j _ => link_of_prt prt j

theorem moved_linkMove (s : State) (i : Fin 68) (hv : v < 8) : LinkMoved i v s (s.linkMove i v) :=
  ⟨onLink_linkMove s v, (linkMove_enters s v hv).1, (linkMove_enters s v hv).2⟩

/-- A command that moves a link completes so. -/
theorem completes_of_moved {c : Instr} {P : State → Prop} (run : exec c s = .next t) (moved : LinkMoved i v s t) (h : P t) :
    Completes c s fun t => t.linkState i = v ∧ t.tsReady i = (v == 4)
      ∧ (t.mem = s.mem ∧ t.time = s.time ∧ ∀ j, j ≠ i → t.linkState j = s.linkState j ∧ t.tsReady j = s.tsReady j ∧ t.link j = s.link j) ∧ P t :=
  ⟨t, run, moved.here, moved.own, ⟨moved.mem, moved.time, fun j hj => ⟨moved.state j hj, moved.ready j hj, moved.link j hj⟩⟩, h⟩

theorem entered_below (x : PortSt) {old now : Nat} (h : v ≠ 4) : x.entered old v now = { x with since := now } := by
  have down : (v == lkUP) = false := beq_eq_false_iff_ne.mpr h
  simp [PortSt.entered, down]

/-- UP after any state but RECAL starts the time UP (R182). -/
theorem entered_up (x : PortSt) {old now : Nat} (h : old ≠ 6) : x.entered old 4 now = { x with since := now, upLc := now } := by
  have apart : (old != lkRECAL) = true := bne_iff_ne.mpr h
  simp [PortSt.entered, apart, lkUP]

/-- A link that leaves SETTLE or UP downwards says so (R187). -/
theorem linkMove_lost {p : Fin 64} (hp : portOf i = some p) (h : s.linkState i = 3 ∨ s.linkState i = 4) :
    ((s.linkMove i 1).get R.PRT_EVT p).testBit 1 = true := by
  have state : s.linkState i = s.get R.PRT_STAT_LINK_STATE p := by
    unfold State.linkState
    rw [hp]
  have falls : ((s.get R.PRT_STAT_LINK_STATE p == lkSETTLE || s.get R.PRT_STAT_LINK_STATE p == lkUP) && decide (1 ≤ lkDOWN)) = true := by
    rw [← state]
    rcases h with h | h <;> rw [h] <;> rfl
  rw [linkMove_port s 1 hp, State.portRose, if_neg (by decide), State.portFell, if_pos falls]
  exact raiseBit_testBit _ (by decide) (by decide) (by decide)

/-- A link that comes UP says so (R187). -/
theorem linkMove_risen {p : Fin 64} (hp : portOf i = some p) : ((s.linkMove i 4).get R.PRT_EVT p).testBit 0 = true := by
  rw [linkMove_port s 4 hp, State.portRose, if_pos (by decide), get_setLport]
  exact raiseBit_testBit _ (by decide) (by decide) (by decide)

end moved

/-! ### A port takes a mode (R163, R182) -/

/-- MODE_ACT and DOWNSHIFTED of a port follow. -/
def State.modeTaken (s : State) (p : Fin 64) (m : Nat) (down : Bool) : State := (s.setModeAct p m).setFlag R.PRT_STAT_DOWNSHIFTED p down

section taken

variable (s : State) (p : Fin 64) (m : Nat) (down : Bool)

theorem steady_modeTaken : Steady s (s.modeTaken p m down) := (steady_setModeAct s p m).trans (steady_port _ _ (by decide) p.isLt)

theorem link_modeTaken : (s.modeTaken p m down).link (attOf p) = (s.link (attOf p)).modeKept (s.get R.PRT_STAT_MODE_ACT p) s.rt.toNat := by
  rw [State.modeTaken, link_setFlag, link_setModeAct]

theorem link_modeTaken_ne {j : Fin 68} (h : j ≠ attOf p) : (s.modeTaken p m down).link j = s.link j := by
  rw [State.modeTaken, link_setFlag, (onLink_setModeAct s p m).link j h]

theorem modeTaken_mode : (s.modeTaken p m down).get R.PRT_STAT_MODE_ACT p = m % 8 := by
  rw [State.modeTaken, get_setFlag_splits _ _ (by decide), setModeAct_mode]

theorem modeTaken_down : (s.modeTaken p m down).flag R.PRT_STAT_DOWNSHIFTED p = down := flag_setFlag_tile _ _ (by decide) rfl

theorem get_modeTaken {g : Fld} {j : Nat} (mode : R.PRT_STAT_MODE_ACT.splits g = true) (lat : g.offLat = true)
    (shifted : R.PRT_STAT_DOWNSHIFTED.splits g = true) : (s.modeTaken p m down).get g j = s.get g j := by
  rw [State.modeTaken, get_setFlag_splits _ _ shifted, get_setModeAct _ _ _ mode lat]

variable {s p}

theorem LinkMoved.taken {r : State} {v : Nat} (h : LinkMoved (attOf p) v r s) : LinkMoved (attOf p) v r (s.modeTaken p m down) :=
  h.then (steady_modeTaken s p m down) fun _ hj => link_modeTaken_ne s p m down hj

theorem LinkMoved.synced {r : State} {i : Fin 68} {v : Nat} (h : LinkMoved i v r s) : LinkMoved i v r (s.portSync p) := h.then_of_prt (steady_portSync s p) (portSync_prt s p)

end taken

/-! ### ENABLE and MODE take effect (R163) -/

/-- What a link holds of the registers once they have taken effect. -/
def PortSt.configured (x : PortSt) (cfg : Bool × Nat) : PortSt := { x with enabled := cfg.1, mode := cfg.2, shiftTo := none }

/-- What a link holds when its mode is set: a port keeps the mode before. -/
def State.kept (s : State) (i : Fin 68) (x : PortSt) : PortSt :=
  match portOf i with
  | none => x
  | some p => x.modeKept (s.get R.PRT_STAT_MODE_ACT p) s.rt.toNat

section events

variable (s : State) {i : Fin 68} {p : Fin 64}

theorem kept_port (x : PortSt) (hp : portOf i = some p) : s.kept i x = x.modeKept (s.get R.PRT_STAT_MODE_ACT p) s.rt.toNat := by
  unfold State.kept
  rw [hp]

theorem kept_pack (x : PortSt) (hp : portOf i = none) : s.kept i x = x := by
  unfold State.kept
  rw [hp]

theorem cfgApply_stays (h : (s.link i).enabled = (s.linkCfg i).1 ∧ (s.link i).mode = (s.linkCfg i).2 ∨ s.wireFree i = false) : s.cfgApply i = s := by
  have same : ((s.link i).enabled == (s.linkCfg i).1 && (s.link i).mode == (s.linkCfg i).2 || !s.wireFree i) = true := by
    rcases h with ⟨en, mode⟩ | busy
    · simp [en, mode]
    · simp [busy]
  exact if_pos same

/-- The link is DOWN or DISABLED with what the registers say. -/
def State.reconfigured (s : State) (i : Fin 68) : State :=
  (s.setLink i ((s.link i).configured (s.linkCfg i))).linkMove i (if (s.linkCfg i).1 then 1 else 0)

theorem cfgApply_applies (change : (s.link i).enabled ≠ (s.linkCfg i).1 ∨ (s.link i).mode ≠ (s.linkCfg i).2) (free : s.wireFree i = true) :
    s.cfgApply i = match portOf i with
      | none => s.reconfigured i
      | some p => ((s.reconfigured i).modeTaken p (s.linkCfg i).2 false).portSync p := by
  have differs : ((s.link i).enabled == (s.linkCfg i).1 && (s.link i).mode == (s.linkCfg i).2 || !s.wireFree i) = false := by
    rw [free, Bool.not_true, Bool.or_false, Bool.and_eq_false_iff, beq_eq_false_iff_ne, beq_eq_false_iff_ne]
    exact change
  exact if_neg (Bool.eq_false_iff.mp differs)

theorem moved_reconfigured : LinkMoved i (if (s.linkCfg i).1 then 1 else 0) s (s.reconfigured i) :=
  (moved_linkMove _ i (by split <;> decide)).after (onLink_setLink s i _)

theorem link_reconfigured : (s.reconfigured i).link i = { (s.link i).configured (s.linkCfg i) with since := s.time.lc.toNat } := by
  unfold State.reconfigured
  rw [link_linkMove, entered_below _ (by split <;> decide), link_setLink_same]
  rfl

/-- A port's registers and mode take effect: what it holds, and its mode. -/
theorem moved_cfgApply (change : (s.link i).enabled ≠ (s.linkCfg i).1 ∨ (s.link i).mode ≠ (s.linkCfg i).2) (free : s.wireFree i = true) :
    LinkMoved i (if (s.linkCfg i).1 then 1 else 0) s (s.cfgApply i)
      ∧ (s.cfgApply i).link i = s.kept i { (s.link i).configured (s.linkCfg i) with since := s.time.lc.toNat }
      ∧ ∀ p, portOf i = some p → (s.cfgApply i).get R.PRT_STAT_MODE_ACT p = s.get R.PRT_CFG_MODE p ∧ (s.cfgApply i).flag R.PRT_STAT_DOWNSHIFTED p = false := by
  have moved := moved_reconfigured s (i := i)
  have link := link_reconfigured s (i := i)
  rw [cfgApply_applies s change free]
  cases hp : portOf i with
  | none => exact ⟨moved, by rw [kept_pack s _ hp, link], fun p e => nomatch e⟩
  | some p =>
    obtain rfl := attOf_of_portOf hp
    have mode : (s.linkCfg (attOf p)).2 % 8 = s.get R.PRT_CFG_MODE p := by
      unfold State.linkCfg
      rw [hp]
      exact Nat.mod_eq_of_lt (get_lt s R.PRT_CFG_MODE p)
    have act : (s.reconfigured (attOf p)).get R.PRT_STAT_MODE_ACT p = s.get R.PRT_STAT_MODE_ACT p := by
      rw [State.reconfigured, get_linkMove _ _ hp (by decide), get_setLink]
    refine ⟨(moved.taken _ _).synced, ?_, fun q hq => ?_⟩
    · rw [link_portSync, link_modeTaken, link, act, moved.rt, kept_port s _ hp]
    · obtain rfl : p = q := Option.some.inj hq
      exact ⟨by rw [get_portSync _ _ (by decide), modeTaken_mode, mode], by rw [flag_portSync _ _ (by decide), modeTaken_down]⟩

/-! ### Signal, lock, settling and loss (R162) -/

/-- A link that only changes its state, to one but UP. -/
theorem link_linkMove_below {v : Nat} (h : v ≠ 4) : (s.linkMove i v).link i = { s.link i with since := s.time.lc.toNat } := by
  rw [link_linkMove, entered_below _ h]

theorem signalDetect_moves (h : s.linkState i = 1) : s.signalDetect i = s.linkMove i 2 := if_pos (beq_iff_eq.mpr h)

theorem signalDetect_stays (h : s.linkState i ≠ 1) : s.signalDetect i = s := if_neg fun e => h (beq_iff_eq.mp e)

theorem trainTimeout_moves (h : s.linkState i = 2) (late : s.past (s.link i).since 500 1000 = true) : s.trainTimeout i = s.linkMove i 1 :=
  if_pos (Bool.and_eq_true_iff.mpr ⟨beq_iff_eq.mpr h, late⟩)

theorem trainTimeout_stays (h : s.linkState i ≠ 2 ∨ s.past (s.link i).since 500 1000 = false) : s.trainTimeout i = s := by
  refine if_neg fun e => ?_
  obtain ⟨state, late⟩ := Bool.and_eq_true_iff.mp e
  rcases h with h | h
  · exact h (beq_iff_eq.mp state)
  · exact absurd late (by rw [h]; decide)

theorem linkLoss_moves (h : s.linkState i = 3 ∨ s.linkState i = 4) : s.linkLoss i = s.linkMove i 1 :=
  if_pos (Bool.or_eq_true_iff.mpr (h.imp beq_iff_eq.mpr beq_iff_eq.mpr))

theorem linkLoss_stays (settle : s.linkState i ≠ 3) (up : s.linkState i ≠ 4) : s.linkLoss i = s :=
  if_neg fun e => (Bool.or_eq_true_iff.mp e).elim (fun h => settle (beq_iff_eq.mp h)) fun h => up (beq_iff_eq.mp h)

/-- The link has come UP; a shift that failed is forgotten after TRAINING (R182). -/
def State.cameUp (s : State) (i : Fin 68) : State :=
  (s.setLink i { s.link i with shiftBad := (s.link i).shiftBad && !(s.link i).fromTraining }).linkMove i 4

theorem settleDone_stays (phase : BitVec 16) (h : s.linkState i ≠ 3 ∨ s.past (s.link i).since 2 1000 = false) : s.settleDone i phase = s := by
  refine if_pos ?_
  rcases h with h | h
  · rw [Bool.or_eq_true_iff, decide_eq_true_iff]
    exact .inl h
  · rw [h]
    exact Bool.or_true _

theorem settleDone_moves (phase : BitVec 16) (h : s.linkState i = 3) (due : s.past (s.link i).since 2 1000 = true) :
    s.settleDone i phase = match portOf i with
      | none => s.cameUp i
      | some p => ((s.cameUp i).set R.PRT_LANE_PHASE_PHASE p phase.toNat).portSync p := by
  refine if_neg ?_
  rw [due, Bool.not_true, Bool.or_false, decide_eq_true_iff]
  exact fun ne => ne h

theorem moved_settleDone (phase : BitVec 16) (h : s.linkState i = 3) (due : s.past (s.link i).since 2 1000 = true) :
    LinkMoved i 4 s (s.settleDone i phase)
      ∧ (s.settleDone i phase).link i = { s.link i with
          shiftBad := (s.link i).shiftBad && !(s.link i).fromTraining, since := s.time.lc.toNat, upLc := s.time.lc.toNat }
      ∧ ∀ p, portOf i = some p → (s.settleDone i phase).get R.PRT_LANE_PHASE_PHASE p = phase.toNat
        ∧ ((s.settleDone i phase).get R.PRT_EVT p).testBit 0 = true := by
  have moved : LinkMoved i 4 s (s.cameUp i) := (moved_linkMove _ i (by decide)).after (onLink_setLink s i _)
  have link : (s.cameUp i).link i = { s.link i with
      shiftBad := (s.link i).shiftBad && !(s.link i).fromTraining, since := s.time.lc.toNat, upLc := s.time.lc.toNat } := by
    unfold State.cameUp
    rw [link_linkMove, linkState_setLink, h, entered_up _ (by decide), link_setLink_same]
    rfl
  rw [settleDone_moves s phase h due]
  cases hp : portOf i with
  | none => exact ⟨moved, link, fun p e => nomatch e⟩
  | some p =>
    refine ⟨(moved.then_of_prt (steady_port _ _ (by decide) p.isLt) (State.set_prt ..)).synced, ?_, fun q hq => ?_⟩
    · rw [link_portSync, link_set, link]
    · obtain rfl : p = q := Option.some.inj hq
      refine ⟨?_, ?_⟩
      · rw [get_portSync _ _ (by decide), get_set_tile _ _ (by decide)]
        exact Nat.mod_eq_of_lt phase.isLt
      · rw [get_portSync _ _ (by decide), get_set_splits _ _ (by decide)]
        exact linkMove_risen hp

/-! ### PCS lock, and the speed shift that it ends (R162, R182) -/

/-- What a link holds when its PCS locks. -/
def PortSt.locked (x : PortSt) (an10 training : Bool) : PortSt := { x with an10 := an10, fromTraining := training, shiftTo := none }

/-- The link settles. -/
def State.settling (s : State) (i : Fin 68) (an10 : Bool) : State := (s.setLink i ((s.link i).locked an10 (s.linkState i == 2))).linkMove i 3

/-- A shift has reached its mode: it counts, and its event stands. -/
def State.shiftReached (s : State) (p : Fin 64) (m : Nat) (down : Bool) : State :=
  ((s.modeTaken p m down).bump R.PRT_SHIFT_CNT_SHIFTS p).raiseBit R.PRT_EVT p 2

/-- A shift counts and says so. -/
theorem LinkMoved.reached {r : State} {v : Nat} (h : LinkMoved i v r s) : LinkMoved i v r ((s.bump R.PRT_SHIFT_CNT_SHIFTS p).raiseBit R.PRT_EVT p 2) :=
  h.then_of_prt ((steady_port s _ (by decide) p.isLt).trans (steady_portEvt _ p 2)) ((State.raiseBit_prt ..).trans (State.bump_prt ..))

theorem pcsLock_stays (slip : Byte) (an10 : Bool) (training : s.linkState i ≠ 2) (shifting : s.linkState i ≠ 5) : s.pcsLock i slip an10 = s :=
  if_pos ⟨training, shifting⟩

theorem pcsLock_locks (slip : Byte) (an10 : Bool) (h : s.linkState i = 2 ∨ s.linkState i = 5) : s.pcsLock i slip an10 = match portOf i with
    | none => s.settling i an10
    | some p =>
      (match (s.link i).shiftTo with
      | some m => if s.linkState i = 5 then ((s.settling i an10).set R.PRT_LANE_PHASE_SLIP p slip.toNat).shiftReached p m (m != (s.link i).mode)
        else (s.settling i an10).set R.PRT_LANE_PHASE_SLIP p slip.toNat
      | none => (s.settling i an10).set R.PRT_LANE_PHASE_SLIP p slip.toNat).portSync p :=
  if_neg fun ⟨training, shifting⟩ => h.elim training shifting

theorem moved_settling (an10 : Bool) : LinkMoved i 3 s (s.settling i an10) := (moved_linkMove _ i (by decide)).after (onLink_setLink s i _)

theorem link_settling (an10 : Bool) :
    (s.settling i an10).link i = { (s.link i).locked an10 (s.linkState i == 2) with since := s.time.lc.toNat } := by
  unfold State.settling
  rw [link_linkMove_below _ (by decide), link_setLink_same]
  rfl

theorem get_settling (an10 : Bool) (hp : portOf i = some p) {g : Fld} {j : Nat} (h : g.offMove = true) : (s.settling i an10).get g j = s.get g j := by
  rw [State.settling, get_linkMove _ _ hp h, get_setLink]

section lock

variable (slip : Byte) (an10 : Bool)

theorem slip_fits (r : State) : (r.set R.PRT_LANE_PHASE_SLIP p slip.toNat).get R.PRT_LANE_PHASE_SLIP p = slip.toNat :=
  (get_set_tile r _ (by decide)).trans (Nat.mod_eq_of_lt slip.isLt)

/-- Where no shift ends, the mode stays. -/
theorem pcsLock_settles (h : s.linkState i = 2 ∨ s.linkState i = 5 ∧ (s.link i).shiftTo = none) : LinkMoved i 3 s (s.pcsLock i slip an10)
    ∧ (s.pcsLock i slip an10).link i = { (s.link i).locked an10 (s.linkState i == 2) with since := s.time.lc.toNat }
    ∧ ∀ p, portOf i = some p → (s.pcsLock i slip an10).get R.PRT_LANE_PHASE_SLIP p = slip.toNat
      ∧ (s.pcsLock i slip an10).get R.PRT_STAT_MODE_ACT p = s.get R.PRT_STAT_MODE_ACT p := by
  have moved := moved_settling s an10 (i := i)
  rw [pcsLock_locks s slip an10 (h.imp id And.left)]
  cases hp : portOf i with
  | none => exact ⟨moved, link_settling s an10, fun p e => nomatch e⟩
  | some p =>
    have plain : (match (s.link i).shiftTo with
        | some m => if s.linkState i = 5 then ((s.settling i an10).set R.PRT_LANE_PHASE_SLIP p slip.toNat).shiftReached p m (m != (s.link i).mode)
          else (s.settling i an10).set R.PRT_LANE_PHASE_SLIP p slip.toNat
        | none => (s.settling i an10).set R.PRT_LANE_PHASE_SLIP p slip.toNat) = (s.settling i an10).set R.PRT_LANE_PHASE_SLIP p slip.toNat := by
      rcases h with training | ⟨-, none⟩
      · split
        · exact if_neg (by rw [training]; decide)
        · rfl
      · rw [none]
    dsimp only
    rw [plain]
    refine ⟨(moved.then_of_prt (steady_port _ _ (by decide) p.isLt) (State.set_prt ..)).synced, ?_, fun q hq => ?_⟩
    · rw [link_portSync, link_set, link_settling]
    · obtain rfl : p = q := Option.some.inj hq
      exact ⟨by rw [get_portSync _ _ (by decide), slip_fits],
        by rw [get_portSync _ _ (by decide), get_set_splits _ _ (by decide), get_settling s an10 hp (by decide)]⟩

/-- A Pack link has no mode to take. -/
theorem pcsLock_pack (h : s.linkState i = 2 ∨ s.linkState i = 5) (hp : portOf i = none) : s.pcsLock i slip an10 = s.settling i an10 := by
  rw [pcsLock_locks s slip an10 h, hp]

/-- Where a shift ends, its mode is the active one. -/
theorem pcsLock_shifts (m : Nat) (hp : portOf i = some p) (state : s.linkState i = 5) (target : (s.link i).shiftTo = some m) :
    LinkMoved i 3 s (s.pcsLock i slip an10)
      ∧ (s.pcsLock i slip an10).link i = s.kept i { (s.link i).locked an10 (s.linkState i == 2) with since := s.time.lc.toNat }
      ∧ (s.pcsLock i slip an10).get R.PRT_LANE_PHASE_SLIP p = slip.toNat
      ∧ (s.pcsLock i slip an10).get R.PRT_STAT_MODE_ACT p = m % 8
      ∧ (s.pcsLock i slip an10).flag R.PRT_STAT_DOWNSHIFTED p = (m != (s.link i).mode)
      ∧ s.counts (s.pcsLock i slip an10) R.PRT_SHIFT_CNT_SHIFTS p := by
  obtain rfl := attOf_of_portOf hp
  have moved := moved_settling s an10 (i := attOf p)
  have placed := moved.then_of_prt (steady_port _ slip.toNat (f := R.PRT_LANE_PHASE_SLIP) (by decide) p.isLt) (State.set_prt ..)
  have reached := (placed.taken m (m != (s.link (attOf p)).mode)).reached (p := p)
  rw [pcsLock_locks s slip an10 (.inr state), hp]
  dsimp only
  rw [target]
  dsimp only
  rw [if_pos state]
  unfold State.shiftReached
  refine ⟨reached.synced, ?_, ?_, ?_, ?_, ?_⟩
  · rw [link_portSync, link_raiseBit, link_bump, link_modeTaken, link_set, link_settling, get_set_splits _ _ (by decide), get_settling s an10 hp (by decide),
      placed.rt, kept_port s _ hp]
  · rw [get_portSync _ _ (by decide), get_raiseBit_splits _ _ (by decide) (by decide), get_bump_splits _ _ (by decide),
      get_modeTaken _ _ _ _ (by decide) (by decide) (by decide), slip_fits]
  · rw [get_portSync _ _ (by decide), get_raiseBit_splits _ _ (by decide) (by decide), get_bump_splits _ _ (by decide), modeTaken_mode]
  · rw [flag_portSync _ _ (by decide), flag_raiseBit_splits _ _ (by decide) (by decide), flag_bump_splits _ _ (by decide), modeTaken_down]
  · unfold State.counts
    rw [get_portSync _ _ (by decide), get_raiseBit_splits _ _ (by decide) (by decide), get_bump_tile _ (by decide),
      get_modeTaken _ _ _ _ (by decide) (by decide) (by decide), get_set_splits _ _ (by decide), get_settling s an10 hp (by decide)]

end lock

/-! ### Speed shift (R182) -/

/-- A port that may shift now: UP, 60 s after the shift before, with nothing on its wire. -/
def State.shiftFree (s : State) (p : Fin 64) : Prop :=
  s.linkState (attOf p) = 4 ∧ ((s.link (attOf p)).shiftAge = none ∨ ∃ n, (s.link (attOf p)).shiftAge = some n ∧ 60 ≤ n) ∧ s.mayShift p = true
    ∧ (s.lport p).wire = none

theorem linkState_port : s.linkState (attOf p) = s.get R.PRT_STAT_LINK_STATE p := by
  unfold State.linkState
  rw [portOf_attOf]

/-- `shiftTarget` asks whether the shift before is 60 s old. -/
theorem shiftAge_far (x : Option Nat) : (match x with
    | none => true
    | some n => decide (n ≥ 60)) = true ↔ x = none ∨ ∃ n, x = some n ∧ 60 ≤ n := by
  cases x with
  | none => simp
  | some n => simp

theorem shiftTarget_blocked (util : Nat) (h : ¬s.shiftFree p) : s.shiftTarget p util = none := by
  refine if_pos ?_
  by_contra free
  simp only [not_or, not_not, Bool.not_eq_true', Bool.not_eq_false, Bool.not_eq_true, Option.isSome_eq_false_iff, Option.isNone_iff_eq_none] at free
  obtain ⟨state, far, may, wire⟩ := free
  exact h ⟨(linkState_port s).trans state, (shiftAge_far _).mp far, may, wire⟩

theorem shiftTarget_free (util : Nat) (h : s.shiftFree p) : s.shiftTarget p util =
    if s.flag R.PRT_STAT_DOWNSHIFTED p then
      if util * 100 > s.get R.PRT_SHIFT_CFG_UP_UTIL p * 10000000 && s.past (s.link (attOf p)).upLc 1 then some (s.link (attOf p)).mode else none
    else if !s.flag R.PRT_STAT_DOWNSHIFT_UNAVAIL p && decide (util * 100 < s.get R.PRT_SHIFT_CFG_DOWN_UTIL p * 25000000)
        && s.past (s.link (attOf p)).upLc (s.get R.PRT_SHIFT_CFG_DOWN_TIME p) then some 2
    else none := by
  obtain ⟨state, far, may, wire⟩ := h
  refine if_neg ?_
  have old := (shiftAge_far _).mpr far
  rw [not_or, not_or, not_or, may, wire, not_not]
  refine ⟨(linkState_port s).symm.trans state, ?_, by decide, by decide⟩
  exact fun young => Bool.false_ne_true (((Bool.not_eq_true' _).mp young).symm.trans old)

theorem shiftTarget_down (util : Nat) (h : s.shiftFree p) (down : s.flag R.PRT_STAT_DOWNSHIFTED p = false) (avail : s.flag R.PRT_STAT_DOWNSHIFT_UNAVAIL p = false)
    (long : s.past (s.link (attOf p)).upLc (s.get R.PRT_SHIFT_CFG_DOWN_TIME p) = true) (low : util * 100 < s.get R.PRT_SHIFT_CFG_DOWN_UTIL p * 25000000) :
    s.shiftTarget p util = some 2 := by
  simp [shiftTarget_free s util h, down, avail, long, low]

theorem shiftTarget_back (util : Nat) (h : s.shiftFree p) (down : s.flag R.PRT_STAT_DOWNSHIFTED p = true)
    (long : s.past (s.link (attOf p)).upLc 1 = true) (high : s.get R.PRT_SHIFT_CFG_UP_UTIL p * 10000000 < util * 100) :
    s.shiftTarget p util = some (s.link (attOf p)).mode := by
  simp [shiftTarget_free s util h, down, long, high]

theorem shiftStart_stays (util : Nat) (h : s.shiftTarget p util = none) : s.shiftStart p util = s := by
  unfold State.shiftStart
  rw [h]

theorem shiftStart_moves (util : Nat) {m : Nat} (h : s.shiftTarget p util = some m) : LinkMoved (attOf p) 5 s (s.shiftStart p util)
    ∧ (s.shiftStart p util).link (attOf p) = { s.link (attOf p) with shiftTo := some m, shiftAge := some 0, since := s.time.lc.toNat } := by
  unfold State.shiftStart
  rw [h]
  exact ⟨(moved_linkMove _ _ (by decide)).after (onLink_setLink s _ _), by rw [link_linkMove_below _ (by decide), link_setLink_same]; rfl⟩

theorem shiftTimeout_stays (h : s.linkState (attOf p) ≠ 5 ∨ s.past (s.link (attOf p)).since 2 = false) : s.shiftTimeout p = s := by
  refine if_pos ?_
  rcases h with h | h
  · rw [Bool.or_eq_true_iff, decide_eq_true_iff]
    exact .inl (linkState_port s ▸ h)
  · rw [h]
    exact Bool.or_true _

/-- The link is DOWN after a shift that found none. -/
def State.shiftFailed (s : State) (p : Fin 64) : State :=
  (s.setLink (attOf p) { s.link (attOf p) with shiftTo := none, shiftBad := true }).linkMove (attOf p) 1

/-- After 2 s without a link the port goes back to MODE. -/
theorem shiftTimeout_moves (h : s.linkState (attOf p) = 5) (late : s.past (s.link (attOf p)).since 2 = true) :
    LinkMoved (attOf p) 1 s (s.shiftTimeout p)
      ∧ (s.shiftTimeout p).link (attOf p) = s.kept (attOf p) { s.link (attOf p) with shiftTo := none, shiftBad := true, since := s.time.lc.toNat }
      ∧ (s.shiftTimeout p).get R.PRT_STAT_MODE_ACT p = (s.link (attOf p)).mode % 8 ∧ (s.shiftTimeout p).flag R.PRT_STAT_DOWNSHIFTED p = false := by
  have eq : s.shiftTimeout p = ((s.shiftFailed p).modeTaken p (s.link (attOf p)).mode false).portSync p := by
    refine if_neg ?_
    rw [late, Bool.not_true, Bool.or_false, decide_eq_true_iff]
    exact fun ne => ne ((linkState_port s).symm.trans h)
  have moved : LinkMoved (attOf p) 1 s (s.shiftFailed p) := (moved_linkMove _ _ (by decide)).after (onLink_setLink s _ _)
  have link : (s.shiftFailed p).link (attOf p) = { s.link (attOf p) with shiftTo := none, shiftBad := true, since := s.time.lc.toNat } := by
    unfold State.shiftFailed
    rw [link_linkMove_below _ (by decide), link_setLink_same]
    rfl
  have act : (s.shiftFailed p).get R.PRT_STAT_MODE_ACT p = s.get R.PRT_STAT_MODE_ACT p := by
    rw [State.shiftFailed, get_linkMove _ _ (portOf_attOf p) (by decide), get_setLink]
  rw [eq]
  refine ⟨(moved.taken _ _).synced, ?_, ?_, ?_⟩
  · rw [link_portSync, link_modeTaken, link, act, moved.rt, kept_port s _ (portOf_attOf p)]
  · rw [get_portSync _ _ (by decide), modeTaken_mode]
  · rw [flag_portSync _ _ (by decide), modeTaken_down]

end events

/-! ### The obligation -/

section obligation

variable {s : State} {i : Fin 68} {u : Nat} {f : State → State}

/-- In a unit with a clock a command does what its operation does. -/
theorem next_of_clocked {t : State} (h : s.gated u = false) (eq : f s = t) :
    Host.Outcome.next (s.run u f) = (.next t : Host.Outcome State Fault Refusal) := congrArg Host.Outcome.next ((run_clocked s f h).trans eq)

/-- In a gated unit a command does nothing (R15). -/
theorem next_of_gated (h : s.gated u = true) : Host.Outcome.next (s.run u f) = (.next s : Host.Outcome State Fault Refusal) :=
  congrArg Host.Outcome.next (run_gated s f h)

/-- A command whose operation leaves the state does nothing, gated or not. -/
theorem next_of_idle (h : f s = s) : Host.Outcome.next (s.run u f) = (.next s : Host.Outcome State Fault Refusal) := by
  cases gated : s.gated u with
  | false => exact next_of_clocked gated h
  | true => exact next_of_gated gated

/-- In a gated unit no link moves (R407). -/
theorem links_gated (h : s.gated (unitOf i) = true) : exec (.portCfgApply i) s = .next s ∧ exec (.linkSignalDetect i) s = .next s
    ∧ exec (.linkTrainTimeout i) s = .next s ∧ exec (.linkLoss i) s = .next s ∧ (∀ slip an10, exec (.linkPcsLock i slip an10) s = .next s)
    ∧ (∀ phase, exec (.linkSettleDone i phase) s = .next s)
    ∧ ∀ p, portOf i = some p → exec (.shiftTimeout p) s = .next s ∧ ∀ util, exec (.speedShiftStart p util) s = .next s := by
  refine ⟨next_of_gated h, next_of_gated h, next_of_gated h, next_of_gated h, fun _ _ => next_of_gated h, fun _ => next_of_gated h, fun p hp => ?_⟩
  have unit : unitOf i = p.val / 8 := attOf_of_portOf hp ▸ unitOf_attOf p
  exact ⟨next_of_gated (unit ▸ h), fun _ => next_of_gated (unit ▸ h)⟩

end obligation

/-- Settles O31: each event, in a unit with a clock, is the move of one link or nothing. -/
theorem linkStates : Obligations.LinkStates := by
  unfold Obligations.LinkStates
  intro s i
  refine ⟨links_gated, fun on => ⟨?_, ?_, ?_, ?_, ?_, ?_, ?_, ?_, ?_, ?_, ?_⟩⟩
  · exact fun h => next_of_clocked on (cfgApply_stays s h)
  · intro change free
    obtain ⟨moved, link, port⟩ := moved_cfgApply s change free
    exact completes_of_moved (next_of_clocked on rfl) moved ⟨link, port⟩
  · exact fun h => completes_of_moved (next_of_clocked on (signalDetect_moves s h)) (moved_linkMove s i (by decide)) (link_linkMove_below s (by decide))
  · exact fun h => next_of_clocked on (signalDetect_stays s h)
  · refine fun slip an10 => ⟨fun h => ?_, fun training shifting => next_of_clocked on (pcsLock_stays s slip an10 training shifting)⟩
    by_cases plain : s.linkState i = 2 ∨ s.linkState i = 5 ∧ (s.link i).shiftTo = none
    · obtain ⟨moved, link, port⟩ := pcsLock_settles s slip an10 plain
      refine completes_of_moved (next_of_clocked on rfl) moved ⟨fun _ => link, fun p hp => ⟨(port p hp).1, fun m target shifting => ?_, fun _ => (port p hp).2⟩⟩
      rcases plain with training | ⟨-, none⟩
      · exact absurd (training.symm.trans shifting) (by decide)
      · exact nomatch none.symm.trans target
    · simp only [not_or, not_and] at plain
      obtain ⟨lockTraining, busy⟩ := plain
      have shifting := h.resolve_left lockTraining
      have unfinished : ¬(s.linkState i = 2 ∨ (s.link i).shiftTo = none) := fun e => e.elim lockTraining (busy shifting)
      cases hp : portOf i with
      | none =>
        exact completes_of_moved (next_of_clocked on (pcsLock_pack s slip an10 h hp)) (moved_settling s an10)
          ⟨fun e => absurd e unfinished, fun p e => nomatch e⟩
      | some p =>
        obtain ⟨m, target⟩ := Option.ne_none_iff_exists'.mp (busy shifting)
        obtain ⟨moved, link, locked, mode, down, counts⟩ := pcsLock_shifts s slip an10 m hp shifting target
        refine completes_of_moved (next_of_clocked on rfl) moved ⟨fun e => absurd e unfinished, fun q hq => ?_⟩
        obtain rfl : p = q := Option.some.inj hq
        refine ⟨locked, fun n hn _ => ?_, fun e => absurd e lockTraining⟩
        obtain rfl : m = n := Option.some.inj (target.symm.trans hn)
        exact ⟨link.trans (kept_port s _ hp), mode, down, counts⟩
  · exact fun h late => completes_of_moved (next_of_clocked on (trainTimeout_moves s h late)) (moved_linkMove s i (by decide)) (link_linkMove_below s (by decide))
  · exact fun h => next_of_clocked on (trainTimeout_stays s h)
  · refine fun phase => ⟨fun h due => ?_, fun h => next_of_clocked on (settleDone_stays s phase h)⟩
    obtain ⟨moved, link, port⟩ := moved_settleDone s phase h due
    exact completes_of_moved (next_of_clocked on rfl) moved ⟨link, port⟩
  · exact fun h => completes_of_moved (next_of_clocked on (linkLoss_moves s h)) (moved_linkMove s i (by decide))
      ⟨link_linkMove_below s (by decide), fun p hp => linkMove_lost hp h⟩
  · exact fun settle up => next_of_clocked on (linkLoss_stays s settle up)
  · rintro p util rfl
    have clocked : s.gated (p.val / 8) = false := unitOf_attOf p ▸ on
    have starts : exec (.speedShiftStart p util) s = .next (s.shiftStart p util) := next_of_clocked clocked rfl
    refine ⟨fun may down avail long low => ?_, fun may down long high => ?_,
      fun may => next_of_clocked clocked (shiftStart_stays s util (shiftTarget_blocked s util may)), fun h late => ?_,
      fun h => next_of_clocked clocked (shiftTimeout_stays s h)⟩
    · obtain ⟨moved, link⟩ := shiftStart_moves s util (shiftTarget_down s util may down avail long low)
      exact completes_of_moved starts moved link
    · obtain ⟨moved, link⟩ := shiftStart_moves s util (shiftTarget_back s util may down long high)
      exact completes_of_moved starts moved link
    · obtain ⟨moved, link, mode, down⟩ := shiftTimeout_moves s h late
      exact completes_of_moved (next_of_clocked clocked rfl) moved ⟨link, mode, down⟩

end Sys2Proof.Machine

/-! ## The crossing of a port group (R169, R170) -/

namespace Sys2Proof.Machine

theorem Within.prt {p : Nat → Bool} {s t : State} (h : Within p s t) : t.prt = s.prt := by rw [← h.rest]

/-! ### DEGRADED (R169) -/

/-- The words that DEGRADED of the links touches: the states and event bits of ports, the states of Pack links, what interrupts wait. -/
def degrWord (a : Nat) : Bool :=
  decide (0x3000000 ≤ a) && decide (a < 0x3100000) && (a % 0x4000 == 4 || a % 0x4000 == 8) || decide (0x6000100 ≤ a) && decide (a < 0x6000180) && a % 0x20 == 4
    || pendWord a

theorem degrWord_port {f : Fld} {p k : Nat} (hp : p < 64) (hk : k < 1) (stride : f.stride = 0x4000) (addr : f.addr = 0x3000004 ∨ f.addr = 0x3000008) :
    degrWord (f.at p + 4 * k) = true := by
  simp only [degrWord, Fld.at, stride, Bool.or_eq_true, Bool.and_eq_true, decide_eq_true_eq, beq_iff_eq]
  omega

section degraded

variable (s : State)

theorem within_degrSync1 (i : Fin 68) : Within degrWord s (s.degrSync1 i) := by
  unfold State.degrSync1
  dsimp only
  split
  · next hp =>
    have low := portOf_none hp
    refine within_set _ _ _ _ fun k hk => ?_
    have one : k < 1 := hk
    have at_ : R.PCK_LINK_STAT_DEGRADED.at i = 0x6000104 + 0x20 * i.val := rfl
    simp only [degrWord, at_, Bool.or_eq_true, Bool.and_eq_true, decide_eq_true_eq, beq_iff_eq]
    omega
  · next p hp =>
    have shown : Within degrWord s (s.setFlag R.PRT_STAT_DEGRADED p (s.linkDegraded i)) :=
      within_set _ _ _ _ fun k hk => degrWord_port p.isLt hk rfl (.inl rfl)
    exact within_ite (.refl _ _) (within_ite (shown.trans (within_raiseBit _ _ _ _ rfl rfl fun k hk => degrWord_port p.isLt hk rfl (.inr rfl))) shown)

theorem within_degrSync : Within degrWord s s.degrSync := within_foldl _ _ fun u i => within_degrSync1 u i

theorem steady_degrSync1 (i : Fin 68) : Steady s (s.degrSync1 i) := by
  unfold State.degrSync1
  cases portOf i with
  | none => exact steady_pack s _ _ (by decide)
  | some p =>
    have shown : Steady s (s.setFlag R.PRT_STAT_DEGRADED p (s.linkDegraded i)) := steady_port s _ (by decide) p.isLt
    exact (Steady.refl s).ite ((shown.trans (steady_portEvt _ p 8)).ite shown)

/-- A field of a port that DEGRADED of a port does not touch. -/
theorem get_degrSync1 {i : Fin 68} {p : Fin 64} (hp : portOf i = some p) {g : Fld} {j : Nat} (stat : R.PRT_STAT_DEGRADED.splits g = true)
    (evt : R.PRT_EVT.splits g = true) (calm : g.calm = true) : (s.degrSync1 i).get g j = s.get g j := by
  unfold State.degrSync1
  rw [hp]
  dsimp only
  split
  · rfl
  · split
    · rw [get_raiseBit_splits _ _ evt calm, get_setFlag_splits _ _ stat]
    · exact get_setFlag_splits _ _ stat

end degraded

/-! ### The crossing is measured (R170) -/

section crossing

variable (s : State)

/-- A new measurement in 1/1,280 ps. -/
def State.xcompOf (s : State) (g : Fin 9) (rtt : BitVec 24) : Int :=
  let tg := if g.val = 8 then s.getS R.PWR_TEMP 2 else s.getS R.PRT_PG_TEMP_T_PG g
  rtt.toNat * 80 + 2 * s.xtab g (tg - s.getS R.PWR_TEMP 1)

/-- The crossing after it: the first sets it, a later one moves it by 1/4 ps at most. -/
def State.xcompNext (s : State) (g : Fin 9) (rtt : BitVec 24) : GroupSt :=
  let d := s.xcompOf g rtt
  let x := s.prt.group[g]
  ⟨if x.meas = 0 then d else x.xcomp + min (max (d - x.xcomp) (-640)) 640, Nat.min (x.meas + 1) 17⟩

/-- The state with another crossing of a group. -/
def State.withGroup (s : State) (g : Fin 9) (x : GroupSt) : State := { s with prt := { s.prt with group := s.prt.group.set g x } }

/-- What the registers show of a crossing. -/
def State.xcompShown (s : State) (g : Fin 9) (rtt : Nat) (x : GroupSt) : State :=
  if g.val = 8 then s.forN 4 fun l s => s.set R.PCK_LINK_XCOMP l (xcomp16 x.xcomp)
  else ((s.set R.PRT_PG_RTT g rtt).set R.PRT_PG_XCOMP g (xcomp16 x.xcomp)).setFlag R.PRT_PG_STAT_XCOMP_VALID g (x.meas == 17)

theorem xcompUpdate_eq (g : Fin 9) (rtt : BitVec 24) : s.xcompUpdate g rtt =
    (fun t : State => if (s.xcompNext g rtt).meas = 17 && s.prt.group[g].meas < 17 then t.degrSync else t)
      ((s.withGroup g (s.xcompNext g rtt)).xcompShown g rtt.toNat (s.xcompNext g rtt)) := rfl

theorem withGroup_group (g h : Fin 9) (x : GroupSt) : (s.withGroup g x).prt.group[h] = if h = g then x else s.prt.group[h] := by
  simp only [State.withGroup, Fin.getElem_fin, Vector.getElem_set, eq_comm (a := g.val), Fin.ext_iff]

theorem within_xcompShown (g : Fin 9) (rtt : Nat) (x : GroupSt) : Within (fun a => decide (0x1400000 ≤ a)) s (s.xcompShown g rtt x) := by
  have high : ∀ (u : State) (f : Fld) (i v : Nat), 0x1400000 ≤ f.addr → Within (fun a => decide (0x1400000 ≤ a)) u (u.set f i v) := fun u f i v h =>
    within_set _ _ _ _ fun k _ => decide_eq_true (by unfold Fld.at; omega)
  unfold State.xcompShown
  exact within_ite (within_foldl _ _ fun u l => high _ _ _ _ (by decide))
    (((high _ _ _ _ (by decide)).trans (high _ _ _ _ (by decide))).trans (high _ _ _ _ (by decide)))

theorem xcompShown_pack {g : Fin 9} (hg : g.val = 8) (rtt : Nat) (x : GroupSt) : ∀ l < 4, (s.xcompShown g rtt x).get R.PCK_LINK_XCOMP l = xcomp16 x.xcomp := by
  unfold State.xcompShown
  rw [if_pos hg]
  exact forN_each (fun l t => t.get R.PCK_LINK_XCOMP l = xcomp16 x.xcomp)
    (fun u l => (get_set_tile u _ (by decide)).trans (Nat.mod_eq_of_lt (BitVec.isLt _)))
    fun u k l ne h => (get_set_index u _ (by decide) (by decide) ne).trans h

theorem xcompShown_port {g : Fin 9} (hg : g.val < 8) (rtt : Nat) (hr : rtt < 2 ^ 24) (x : GroupSt) :
    (s.xcompShown g rtt x).get R.PRT_PG_XCOMP g = xcomp16 x.xcomp ∧ (s.xcompShown g rtt x).get R.PRT_PG_RTT g = rtt
      ∧ (s.xcompShown g rtt x).flag R.PRT_PG_STAT_XCOMP_VALID g = (x.meas == 17) := by
  unfold State.xcompShown
  rw [if_neg (by omega)]
  refine ⟨?_, ?_, flag_setFlag_tile _ _ (by decide) rfl⟩
  · rw [get_setFlag_splits _ _ (by decide), get_set_tile _ _ (by decide)]
    exact Nat.mod_eq_of_lt (BitVec.isLt _)
  · rw [get_setFlag_splits _ _ (by decide), get_set_splits _ _ (by decide), get_set_tile _ _ (by decide)]
    exact Nat.mod_eq_of_lt hr

/-- The registers of a group's crossing are no words of DEGRADED. -/
theorem degrWord_group {f : Fld} {g k : Nat} (hk : k < 1) (stride : f.stride = 0x20000) (low : 0x3003000 ≤ f.addr) (top : f.addr < 0x3004000) (aligned : f.addr % 4 = 0) :
    degrWord (f.at g + 4 * k) = false := by
  simp only [degrWord, pendWord, Fld.at, stride, Bool.or_eq_false_iff, Bool.and_eq_false_iff, decide_eq_false_iff_not, beq_eq_false_iff_ne]
  omega

theorem degrWord_packXcomp {l k : Nat} (hk : k < 1) : degrWord (R.PCK_LINK_XCOMP.at l + 4 * k) = false := by
  have at_ : R.PCK_LINK_XCOMP.at l = 0x600010C + 0x20 * l := rfl
  simp only [degrWord, pendWord, at_, Bool.or_eq_false_iff, Bool.and_eq_false_iff, decide_eq_false_iff_not, beq_eq_false_iff_ne]
  omega

/-- What a measurement of the crossing leaves. -/
theorem xcompUpdate_leaves (g : Fin 9) (rtt : BitVec 24) :
    (s.xcompUpdate g rtt).prt = (s.withGroup g (s.xcompNext g rtt)).prt ∧ (s.xcompUpdate g rtt).mem = s.mem ∧ (s.xcompUpdate g rtt).time = s.time := by
  have shown := within_xcompShown (s.withGroup g (s.xcompNext g rtt)) g rtt.toNat (s.xcompNext g rtt)
  have degr := within_degrSync ((s.withGroup g (s.xcompNext g rtt)).xcompShown g rtt.toNat (s.xcompNext g rtt))
  rw [xcompUpdate_eq]
  dsimp only
  split
  · exact ⟨degr.prt.trans shown.prt, degr.mem.trans shown.mem, degr.time.trans shown.time⟩
  · exact ⟨shown.prt, shown.mem, shown.time⟩

/-- What DEGRADED does not touch shows the crossing. -/
theorem xcompUpdate_get (g : Fin 9) (rtt : BitVec 24) {f : Fld} {i : Nat} (h : ∀ k < f.words, degrWord (f.at i + 4 * k) = false) :
    (s.xcompUpdate g rtt).get f i = ((s.withGroup g (s.xcompNext g rtt)).xcompShown g rtt.toNat (s.xcompNext g rtt)).get f i := by
  rw [xcompUpdate_eq]
  dsimp only
  split
  · exact (within_degrSync _).get f i h
  · rfl

theorem valid_of_meas (m : Nat) : (Nat.min (m + 1) 17 == 17) = decide (16 ≤ m) := by
  have least : Nat.min (m + 1) 17 = min (m + 1) 17 := rfl
  rw [Bool.eq_iff_iff, beq_iff_eq, decide_eq_true_eq, least]
  omega

/-- The measurement of a crossing, as a command (R170). -/
theorem crossings_measured (g : Fin 9) (rtt : BitVec 24) :
    (s.gated (if g.val = 8 then 10 else g.val) = true → exec (.xcompUpdate g rtt) s = .next s)
      ∧ (s.gated (if g.val = 8 then 10 else g.val) = false → Completes (.xcompUpdate g rtt) s fun t => t.prt.group[g] = s.xcompNext g rtt
        ∧ (∀ h : Fin 9, h ≠ g → t.prt.group[h] = s.prt.group[h]) ∧ t.prt.link = s.prt.link ∧ t.mem = s.mem ∧ t.time = s.time
        ∧ (g.val = 8 → ∀ l, l < 4 → t.get R.PCK_LINK_XCOMP l = xcomp16 (s.xcompNext g rtt).xcomp)
        ∧ (g.val < 8 → t.get R.PRT_PG_XCOMP g = xcomp16 (s.xcompNext g rtt).xcomp ∧ t.get R.PRT_PG_RTT g = rtt.toNat
          ∧ t.flag R.PRT_PG_STAT_XCOMP_VALID g = (16 ≤ s.prt.group[g].meas : Bool))) := by
  obtain ⟨prt, mem, time⟩ := xcompUpdate_leaves s g rtt
  have group : ∀ h : Fin 9, (s.xcompUpdate g rtt).prt.group[h] = if h = g then s.xcompNext g rtt else s.prt.group[h] := fun h => by
    rw [prt, withGroup_group]
  refine ⟨fun h => next_of_gated h, fun h => ⟨_, next_of_clocked h rfl, ?_, ?_, ?_, mem, time, fun hg l hl => ?_, fun hg => ?_⟩⟩
  · rw [group, if_pos rfl]
  · exact fun k hk => by rw [group, if_neg hk]
  · rw [prt]
    rfl
  · rw [xcompUpdate_get s g rtt fun k hk => degrWord_packXcomp hk]
    exact xcompShown_pack _ hg _ _ l hl
  · obtain ⟨xcomp, trip, valid⟩ := xcompShown_port (s.withGroup g (s.xcompNext g rtt)) hg rtt.toNat rtt.isLt (s.xcompNext g rtt)
    have shows := fun (f : Fld) (words : f.words = 1) stride low top aligned =>
      xcompUpdate_get s g rtt (f := f) (i := g) fun k hk => degrWord_group (words ▸ hk) stride low top aligned
    refine ⟨(shows R.PRT_PG_XCOMP rfl rfl (by decide) (by decide) rfl).trans xcomp, (shows R.PRT_PG_RTT rfl rfl (by decide) (by decide) rfl).trans trip, ?_⟩
    rw [State.flag, shows R.PRT_PG_STAT_XCOMP_VALID rfl rfl (by decide) (by decide) rfl]
    exact valid.trans (valid_of_meas _)

end crossing

/-! ### Recalibration (R175 to R178) -/

section recal

variable (s : State) {i : Fin 68} {p : Fin 64}

/-- What a link holds while it recalibrates. -/
def PortSt.recalibrating (x : PortSt) (up : Bool) (rt : Nat) : PortSt := { x with recalUp := up, recalRt := rt, recalWait := 0, deferred := false }

theorem recalStart_stays (h : s.recalDue i = false ∨ s.covered i = false ∨ s.linkSkew i = true ∨ s.inRecal (fun _ => true) ≥ 8) : s.recalStart i = s := by
  refine if_neg ?_
  simp only [Bool.and_eq_true, State.recalAble, Bool.not_eq_true', decide_eq_true_eq]
  rintro ⟨⟨⟨⟨due, -, calm⟩, cover⟩, -⟩, few⟩
  rcases h with h | h | h | h
  · exact Bool.false_ne_true (h.symm.trans due)
  · exact Bool.false_ne_true (h.symm.trans cover)
  · exact Bool.false_ne_true (calm.symm.trans h)
  · omega

theorem recalStart_moves (due : s.recalDue i = true) (state : s.linkState i = 4 ∨ s.linkState i = 1) (calm : s.linkSkew i = false) (cover : s.covered i = true)
    (alone : s.inRecal (fun j => groupOf j == groupOf i) = 0) (few : s.inRecal (fun _ => true) < 8) :
    s.recalStart i = (s.setLink i ((s.link i).recalibrating (s.linkState i == 4) s.rt.toNat)).linkMove i 6 := by
  refine if_pos ?_
  simp only [Bool.and_eq_true, State.recalAble, Bool.not_eq_true', decide_eq_true_eq, Bool.or_eq_true, beq_iff_eq]
  exact ⟨⟨⟨⟨due, state, calm⟩, cover⟩, alone⟩, few⟩

/-- A recalibration that starts (R175). -/
theorem moved_recalStart : LinkMoved i 6 s ((s.setLink i ((s.link i).recalibrating (s.linkState i == 4) s.rt.toNat)).linkMove i 6)
    ∧ ((s.setLink i ((s.link i).recalibrating (s.linkState i == 4) s.rt.toNat)).linkMove i 6).link i
      = { (s.link i).recalibrating (s.linkState i == 4) s.rt.toNat with since := s.time.lc.toNat } :=
  ⟨(moved_linkMove _ i (by decide)).after (onLink_setLink s i _), by rw [link_linkMove_below _ (by decide), link_setLink_same]; rfl⟩

/-- The drift that a loop measurement gives, 1/4,096 ps (R177). -/
def State.drift (s : State) (i : Fin 68) (sum : Int) : Int := sum * 64 - (s.tab32 i 0x24 * 256 + s.tab16 i 0x28 * (s.linkTemp i - s.tab16 i 0x20))

/-- The largest drift that is accepted. -/
def State.driftLimit (s : State) (i : Fin 68) : Nat := (s.store (s.tableOff i + 0x20)).toNat / 65536 * 4096

/-- The link leaves RECAL. -/
def State.recalLeft (s : State) (i : Fin 68) : State := s.linkMove i (if (s.link i).recalUp then 2 else 1)

theorem recalEnd_stays (sum : Int) (h : s.linkState i ≠ 6 ∨ s.recalRun i = false) : s.recalEnd i sum = s := by
  refine if_pos ?_
  rcases h with h | h
  · rw [Bool.or_eq_true_iff, decide_eq_true_iff]
    exact .inl h
  · rw [h]
    exact Bool.or_true _

theorem recalEnd_ends (sum : Int) (state : s.linkState i = 6) (run : s.recalRun i = true) : s.recalEnd i sum =
    if s.linkSkew i then s.recalLeft i
    else if (s.drift i sum).natAbs ≤ s.driftLimit i then (s.recalLeft i).recalAccept i (s.drift i sum)
    else (s.recalLeft i).recalFail i := by
  refine if_neg ?_
  rw [run, Bool.not_true, Bool.or_false, decide_eq_true_iff]
  exact fun ne => ne state

theorem moved_recalLeft : LinkMoved i (if (s.link i).recalUp then 2 else 1) s (s.recalLeft i) := moved_linkMove s i (by split <;> decide)

theorem link_recalLeft : (s.recalLeft i).link i = { s.link i with since := s.time.lc.toNat } := link_linkMove_below s (by split <;> decide)

theorem get_recalLeft (hp : portOf i = some p) {g : Fld} {j : Nat} (h : g.offMove = true) : (s.recalLeft i).get g j = s.get g j := get_linkMove s _ hp h

/-! #### The terms and their age -/

theorem recalOf_pack (hp : portOf i = none) (tx : Bool) : s.recalOf i tx = (s.link i).recalTerm := by
  unfold State.recalOf
  rw [hp]

theorem recalOf_port (hp : portOf i = some p) (tx : Bool) : s.recalOf i tx = if tx then s.getS R.PRT_RECAL_TX p else s.getS R.PRT_RECAL_RX p := by
  unfold State.recalOf
  rw [hp]

/-- The terms of a link are those of another state that holds them. -/
theorem recalOf_congr {s t : State} (link : (t.link i).recalTerm = (s.link i).recalTerm)
    (port : ∀ p, portOf i = some p → t.get R.PRT_RECAL_TX p = s.get R.PRT_RECAL_TX p ∧ t.get R.PRT_RECAL_RX p = s.get R.PRT_RECAL_RX p) (tx : Bool) :
    t.recalOf i tx = s.recalOf i tx := by
  cases hp : portOf i with
  | none => rw [recalOf_pack t hp, recalOf_pack s hp, link]
  | some p => rw [recalOf_port t hp, recalOf_port s hp, State.getS, State.getS, State.getS, State.getS, (port p hp).1, (port p hp).2]

theorem recalOf_recalLeft (tx : Bool) : (s.recalLeft i).recalOf i tx = s.recalOf i tx :=
  recalOf_congr (by rw [link_recalLeft]) (fun p hp => ⟨get_recalLeft s hp (by decide), get_recalLeft s hp (by decide)⟩) tx

/-- A link, its events and registers follow an accepted result: its terms, and the age of them (R177, R178). -/
def State.recalTaken (s : State) (i : Fin 68) (t : Int) : State :=
  let s := s.setLink i { s.link i with recalBad := false, recalTerm := t, recalAge := 0 }
  match portOf i with
  | none => s.bump R.PCK_LINK_RECAL_RECALS i
  | some p => ((((((s.set R.PRT_RECAL_TX p (trunc 24 t)).set R.PRT_RECAL_RX p (trunc 24 t)).set R.PRT_RECAL_AGE p 0).bump R.PRT_SHIFT_CNT_RECALS p).raiseBit R.PRT_EVT p 5)).latSync p

theorem recalAccept_eq (drift : Int) : s.recalAccept i drift = ((s.recalTaken i (roundDiv drift 512)).setStale i false).degrSync1 i := rfl

end recal

section results

variable (s : State) {i : Fin 68} {p : Fin 64}

theorem portOf_val (hp : portOf i = some p) : ¬i.val < 4 ∧ i.val - 4 = p.val := by
  obtain rfl := attOf_of_portOf hp
  simp [attOf]

theorem linkStale_port (hp : portOf i = some p) : s.linkStale i = s.flag R.PRT_STAT_RECAL_STALE p := by
  obtain ⟨high, val⟩ := portOf_val hp
  rw [State.linkStale, if_neg high, val]

theorem linkStale_pack (hp : portOf i = none) : s.linkStale i = (s.link i).stale := if_pos (portOf_none hp)

theorem recalAge_port (hp : portOf i = some p) : s.recalAge i = s.get R.PRT_RECAL_AGE p := by
  unfold State.recalAge
  rw [hp]

theorem recalAge_pack (hp : portOf i = none) : s.recalAge i = (s.link i).recalAge := by
  unfold State.recalAge
  rw [hp]

/-! #### RECAL_STALE -/

theorem setStale_port (on : Bool) (hp : portOf i = some p) : s.setStale i on = s.setFlag R.PRT_STAT_RECAL_STALE p on := by
  unfold State.setStale
  rw [hp]

theorem setStale_pack (on : Bool) (hp : portOf i = none) : s.setStale i on = s.setLink i { s.link i with stale := on } := by
  unfold State.setStale
  rw [hp]

theorem onLink_setStale (on : Bool) : OnLink i s (s.setStale i on) := by
  cases hp : portOf i with
  | none => exact setStale_pack s on hp ▸ onLink_setLink s i _
  | some p => exact setStale_port s on hp ▸ (steady_port s _ (by decide) p.isLt).onLink_of_prt (State.set_prt ..)

theorem steady_setStale (on : Bool) : Steady s (s.setStale i on) := by
  cases hp : portOf i with
  | none => exact setStale_pack s on hp ▸ steady_setLink s i _
  | some p => exact setStale_port s on hp ▸ steady_port s _ (by decide) p.isLt

theorem link_degrSync1 (j : Fin 68) : (s.degrSync1 i).link j = s.link j := link_of_prt (within_degrSync1 s i).prt j

theorem onLink_degrSync1 : OnLink i s (s.degrSync1 i) := (steady_degrSync1 s i).onLink_of_prt (within_degrSync1 s i).prt

theorem linkStale_degrSync1 : (s.degrSync1 i).linkStale i = s.linkStale i := by
  cases hp : portOf i with
  | none => rw [linkStale_pack _ hp, linkStale_pack _ hp, link_degrSync1]
  | some p => rw [linkStale_port _ hp, linkStale_port _ hp, State.flag, get_degrSync1 s hp (by decide) (by decide) (by decide), State.flag]

theorem linkStale_setStale (on : Bool) : (s.setStale i on).linkStale i = on := by
  cases hp : portOf i with
  | none => rw [setStale_pack s on hp, linkStale_pack _ hp, link_setLink_same]
  | some p =>
    rw [setStale_port s on hp, linkStale_port _ hp]
    exact flag_setFlag_tile s on (by decide) rfl

/-! #### An accepted result (R177) -/

/-- What a link holds after an accepted result. -/
def PortSt.retermed (x : PortSt) (t : Int) : PortSt := { x with recalBad := false, recalTerm := t, recalAge := 0 }

theorem recalTaken_pack (t : Int) (hp : portOf i = none) : s.recalTaken i t = (s.setLink i ((s.link i).retermed t)).bump R.PCK_LINK_RECAL_RECALS i := by
  unfold State.recalTaken
  rw [hp]
  rfl

/-- The terms of a port, and their age. -/
def State.portTerms (s : State) (p : Fin 64) (t : Int) : State :=
  ((s.set R.PRT_RECAL_TX p (trunc 24 t)).set R.PRT_RECAL_RX p (trunc 24 t)).set R.PRT_RECAL_AGE p 0

theorem recalTaken_port (t : Int) (hp : portOf i = some p) : s.recalTaken i t
    = ((((s.setLink i ((s.link i).retermed t)).portTerms p t).bump R.PRT_SHIFT_CNT_RECALS p).raiseBit R.PRT_EVT p 5).latSync p := by
  unfold State.recalTaken
  rw [hp]
  rfl

theorem steady_portTerms (t : Int) : Steady s (s.portTerms p t) :=
  ((steady_port s _ (by decide) p.isLt).trans (steady_port _ _ (by decide) p.isLt)).trans (steady_port _ _ (by decide) p.isLt)

theorem steady_recalTaken (t : Int) : Steady s (s.recalTaken i t) := by
  have held := steady_setLink s i ((s.link i).retermed t)
  cases hp : portOf i with
  | none => exact recalTaken_pack s t hp ▸ held.trans (steady_pack _ _ _ (by decide))
  | some p =>
    exact recalTaken_port s t hp ▸ (((held.trans (steady_portTerms _ t)).trans (steady_port _ _ (by decide) p.isLt)).trans (steady_portEvt _ p 5)).trans
      (steady_latSync _ p)

theorem link_recalTaken (t : Int) (j : Fin 68) : (s.recalTaken i t).link j = (s.setLink i ((s.link i).retermed t)).link j := by
  cases hp : portOf i with
  | none => rw [recalTaken_pack s t hp, link_bump]
  | some p => rw [recalTaken_port s t hp, link_latSync, link_raiseBit, link_bump, State.portTerms, link_set, link_set, link_set]

theorem onLink_recalTaken (t : Int) : OnLink i s (s.recalTaken i t) :=
  (steady_recalTaken s t).onLink fun j hj => (link_recalTaken s t j).trans (link_setLink_ne s _ hj)

theorem recalTaken_terms (t : Int) (hp : portOf i = some p) : (s.recalTaken i t).get R.PRT_RECAL_TX p = trunc 24 t ∧ (s.recalTaken i t).get R.PRT_RECAL_RX p = trunc 24 t
    ∧ (s.recalTaken i t).get R.PRT_RECAL_AGE p = 0 := by
  have fits : trunc 24 t % 2 ^ 24 = trunc 24 t := Nat.mod_eq_of_lt (BitVec.isLt _)
  have after : ∀ {g : Fld} {j : Nat}, g.offLat = true → R.PRT_EVT.splits g = true → g.calm = true → R.PRT_SHIFT_CNT_RECALS.splits g = true →
      (s.recalTaken i t).get g j = ((s.setLink i ((s.link i).retermed t)).portTerms p t).get g j := fun lat evt calm count => by
    rw [recalTaken_port s t hp, get_latSync _ _ lat, get_raiseBit_splits _ _ evt calm, get_bump_splits _ _ count]
  rw [after (by decide) (by decide) (by decide) (by decide), after (by decide) (by decide) (by decide) (by decide), after (by decide) (by decide) (by decide) (by decide)]
  unfold State.portTerms
  refine ⟨?_, ?_, get_set_tile _ 0 (by decide)⟩
  · rw [get_set_splits _ _ (by decide), get_set_splits _ _ (by decide), get_set_tile _ _ (by decide)]
    exact fits
  · rw [get_set_splits _ _ (by decide), get_set_tile _ _ (by decide)]
    exact fits

theorem recalAccept_get (drift : Int) (hp : portOf i = some p) {g : Fld} {j : Nat} (stat : R.PRT_STAT_DEGRADED.splits g = true)
    (evt : R.PRT_EVT.splits g = true) (calm : g.calm = true) (stale : R.PRT_STAT_RECAL_STALE.splits g = true) :
    (s.recalAccept i drift).get g j = (s.recalTaken i (roundDiv drift 512)).get g j := by
  rw [recalAccept_eq, get_degrSync1 _ hp stat evt calm, setStale_port _ _ hp, get_setFlag_splits _ _ stale]

theorem recalAccept_pack (drift : Int) (hp : portOf i = none) :
    (s.recalAccept i drift).link i = { (s.link i).retermed (roundDiv drift 512) with stale := false } := by
  rw [recalAccept_eq, link_degrSync1, setStale_pack _ _ hp, link_setLink_same, link_recalTaken, link_setLink_same]

/-- An accepted result: half the drift is in both terms, which are new. -/
theorem recalAccept_takes (drift : Int) : OnLink i s (s.recalAccept i drift) ∧ Steady s (s.recalAccept i drift)
    ∧ (match portOf i with
      | none => ((s.recalAccept i drift).link i).recalTerm = roundDiv drift 512
      | some p => (s.recalAccept i drift).getS R.PRT_RECAL_TX p = sext 24 (trunc 24 (roundDiv drift 512))
        ∧ (s.recalAccept i drift).getS R.PRT_RECAL_RX p = sext 24 (trunc 24 (roundDiv drift 512)))
    ∧ (s.recalAccept i drift).linkStale i = false ∧ (s.recalAccept i drift).recalAge i = 0 := by
  refine ⟨((onLink_recalTaken s _).trans (onLink_setStale _ _)).trans (onLink_degrSync1 _), ((steady_recalTaken s _).trans (steady_setStale _ _)).trans (steady_degrSync1 _ _),
    ?_, by rw [recalAccept_eq, linkStale_degrSync1, linkStale_setStale], ?_⟩
  · cases hp : portOf i with
    | none => exact congrArg PortSt.recalTerm (recalAccept_pack s drift hp)
    | some p =>
      obtain ⟨tx, rx, -⟩ := recalTaken_terms s (roundDiv drift 512) hp
      exact ⟨congrArg (sext 24) ((recalAccept_get s drift hp (by decide) (by decide) (by decide) (by decide)).trans tx),
        congrArg (sext 24) ((recalAccept_get s drift hp (by decide) (by decide) (by decide) (by decide)).trans rx)⟩
  · cases hp : portOf i with
    | none => rw [recalAge_pack _ hp, recalAccept_pack s drift hp]; rfl
    | some p =>
      rw [recalAge_port _ hp, recalAccept_get s drift hp (by decide) (by decide) (by decide) (by decide)]
      exact (recalTaken_terms s (roundDiv drift 512) hp).2.2

/-! #### A failed result (R177) -/

/-- The terms stay; the link is marked, and the failure counts. -/
def State.recalRefused (s : State) (i : Fin 68) : State :=
  let s := s.setLink i { s.link i with recalBad := true }
  (match portOf i with
    | none => s.bump R.PCK_LINK_RECAL_RECAL_FAILS i
    | some p => (s.bump R.PRT_RECAL_CNT_RECAL_FAILS p).raiseBit R.PRT_EVT p 6).degrSync1 i

theorem recalFail_eq : s.recalFail i = (s.recalRefused i).raise fsPortRecalFail (if i.val < 4 then 64 + i.val else i.val - 4) := by
  unfold State.recalFail State.recalRefused
  cases hp : portOf i with
  | none => rw [if_pos (portOf_none hp)]
  | some p => rw [if_neg (portOf_val hp).1, (portOf_val hp).2]

theorem recalRefused_pack (hp : portOf i = none) :
    s.recalRefused i = ((s.setLink i { s.link i with recalBad := true }).bump R.PCK_LINK_RECAL_RECAL_FAILS i).degrSync1 i := by
  unfold State.recalRefused
  rw [hp]

theorem recalRefused_port (hp : portOf i = some p) :
    s.recalRefused i = (((s.setLink i { s.link i with recalBad := true }).bump R.PRT_RECAL_CNT_RECAL_FAILS p).raiseBit R.PRT_EVT p 6).degrSync1 i := by
  unfold State.recalRefused
  rw [hp]

theorem link_recalRefused (j : Fin 68) : (s.recalRefused i).link j = (s.setLink i { s.link i with recalBad := true }).link j := by
  cases hp : portOf i with
  | none => rw [recalRefused_pack s hp, link_degrSync1, link_bump]
  | some p => rw [recalRefused_port s hp, link_degrSync1, link_raiseBit, link_bump]

theorem steady_recalRefused : Steady s (s.recalRefused i) := by
  have held := steady_setLink s i { s.link i with recalBad := true }
  cases hp : portOf i with
  | none => exact recalRefused_pack s hp ▸ (held.trans (steady_pack _ _ _ (by decide))).trans (steady_degrSync1 _ i)
  | some p =>
    exact recalRefused_port s hp ▸ ((held.trans (steady_port _ _ (by decide) p.isLt)).trans (steady_portEvt _ p 6)).trans (steady_degrSync1 _ i)

theorem onLink_recalRefused : OnLink i s (s.recalRefused i) :=
  (steady_recalRefused s).onLink fun j hj => (link_recalRefused s j).trans (link_setLink_ne s _ hj)

theorem recalOf_recalRefused (tx : Bool) : (s.recalRefused i).recalOf i tx = s.recalOf i tx := by
  refine recalOf_congr (by rw [link_recalRefused, link_setLink_same]) (fun p hp => ?_) tx
  have same : ∀ {g : Fld}, R.PRT_STAT_DEGRADED.splits g = true → R.PRT_EVT.splits g = true → g.calm = true → R.PRT_RECAL_CNT_RECAL_FAILS.splits g = true →
      (s.recalRefused i).get g p = s.get g p := fun stat evt calm fails => by
    rw [recalRefused_port s hp, get_degrSync1 _ hp stat evt calm, get_raiseBit_splits _ _ evt calm, get_bump_splits _ _ fails, get_setLink]
  exact ⟨same (by decide) (by decide) (by decide) (by decide), same (by decide) (by decide) (by decide) (by decide)⟩

/-! #### A stale result (R178) -/

theorem recalStale_stays (h : s.recalAge i ≤ (s.store 0xB00).toNat) : s.recalStale i = s := if_neg (by omega)

theorem recalStale_marks (h : (s.store 0xB00).toNat < s.recalAge i) : s.recalStale i = (s.setStale i true).degrSync1 i := if_pos h

/-- A stale link's timestamps carry DEGRADED (R169). -/
theorem linkDegraded_stale {t : State} (h : t.linkStale i = true) : t.linkDegraded i = true := by
  unfold State.linkDegraded
  rw [h, Bool.or_true]

/-! #### The obligation's part -/

/-- A link in a gated unit does not recalibrate (R407). -/
theorem recal_gated (h : s.gated (unitOf i) = true) :
    exec (.recalStart i) s = .next s ∧ (∀ sum, exec (.recalEnd i sum) s = .next s) ∧ exec (.recalStale i) s = .next s :=
  ⟨next_of_gated h, fun _ => next_of_gated h, next_of_gated h⟩

variable {s} in
/-- What an operation on one link leaves of the others. -/
theorem OnLink.others {t : State} (h : OnLink i s t) : t.mem = s.mem ∧ t.time = s.time ∧ ∀ j, j ≠ i → t.linkState j = s.linkState j ∧ t.link j = s.link j :=
  ⟨h.mem, h.time, fun j hj => ⟨h.state j hj, h.link j hj⟩⟩

end results

end Sys2Proof.Machine

/-! ## Regions beyond their limits at a group's crossing (R171, R411) -/

namespace Sys2Proof.Machine

/-! ### Loops over numbered fields -/

section loops

variable {p : Nat → Bool} {s : State} {n : Nat} {f : Nat → State → State}

theorem within_forN (h : ∀ u k, k < n → Within p u (f k u)) : Within p s (s.forN n f) := by
  induction n with
  | zero => exact .refl p s
  | succ n ih => exact forN_succ (s := s) n f ▸ (ih fun u k hk => h u k (by omega)).trans (h _ n (by omega))

/-- What each step of a bounded loop brings about at its own number, and leaves at the others, holds at every number after all. -/
theorem forN_each_below (P : Nat → State → Prop) (own : ∀ u k, k < n → P k (f k u)) (other : ∀ u k j, k < n → j < n → j ≠ k → P j u → P j (f k u)) :
    ∀ k < n, P k (s.forN n f) := by
  induction n with
  | zero => exact fun k hk => absurd hk (by omega)
  | succ n ih =>
    intro k hk
    rw [forN_succ]
    by_cases last : k = n
    · exact last ▸ own _ _ (by omega)
    · exact other _ _ _ (by omega) hk last (ih (fun u k hk => own u k (by omega)) (fun u k j hk hj => other u k j (by omega) (by omega)) k (by omega))

end loops

/-! ### The samples (R418, R187) -/

section samples

variable (s : State)

/-- The words of what port groups show of the samples. -/
def groupWord (a : Nat) : Bool := decide (0x3000000 ≤ a) && decide (0x204 ≤ a % 0x4000)

/-- The words of the samples: temperatures, supplies and what port groups show of them. -/
def sampleWord (a : Nat) : Bool := decide (0x40100 ≤ a) && decide (a < 0x40174) || groupWord a

theorem within_latSync (q : Fin 64) : Within groupWord s (s.latSync q) := by
  have at_ : ∀ (u : State) (f : Fld) (v : Nat), f.stride = 0x4000 → 0x3000204 ≤ f.addr → f.addr < 0x3000300 → f.words = 1 → f.addr % 4 = 0 →
      Within groupWord u (u.set f q v) := fun u f v stride low top words aligned => within_set _ _ _ _ fun k hk => by
    rw [words] at hk
    simp only [groupWord, Fld.at, stride, Bool.and_eq_true, decide_eq_true_eq]
    omega
  rcases latSync_sets s q with eq | ⟨a, b, c, eq⟩ <;> rw [eq]
  · exact .refl _ s
  · exact ((at_ s R.PRT_LAT_TX a rfl (by decide) (by decide) rfl rfl).trans (at_ _ R.PRT_LAT_RX b rfl (by decide) (by decide) rfl rfl)).trans
      (at_ _ R.PRT_LAT_GEN c rfl (by decide) (by decide) rfl rfl)

theorem within_pgShow (g : Nat) : Within groupWord s (s.pgShow g) := by
  have at_ : ∀ (u : State) (f : Fld) (v : Nat), f.stride = 0x20000 → 0x3003004 ≤ f.addr → f.addr < 0x3003100 → f.words = 1 → Within groupWord u (u.set f g v) :=
    fun u f v stride low top words => within_set _ _ _ _ fun k hk => by
      rw [words] at hk
      simp only [groupWord, Fld.at, stride, Bool.and_eq_true, decide_eq_true_eq]
      omega
  unfold State.pgShow
  extract_lets v d t
  have shown : Within groupWord s t := ((at_ s R.PRT_PG_TEMP_T_PG _ rfl (by decide) (by decide) rfl).trans
    (at_ _ R.PRT_PG_TEMP_T_KNL _ rfl (by decide) (by decide) rfl)).trans (at_ _ R.PRT_PG_VDIFF d rfl (by decide) (by decide) rfl)
  exact shown.trans (within_forN fun u k _ => within_latSync u _)

theorem within_run {p : Nat → Bool} (u : Nat) (f : State → State) (h : Within p s (f s)) : Within p s (s.run u f) := within_ite (.refl p s) h

/-- A temperature and a supply are set. -/
def State.regionSample (s : State) (temp : List Int) (vdd : List Nat) (r : Nat) : State :=
  (s.set R.PWR_TEMP r (trunc 16 ((temp[r]?).getD 0))).set R.PWR_VDD r ((vdd[r]?).getD 0)

theorem within_regionSample (temp : List Int) (vdd : List Nat) {r : Nat} (hr : r < 13) : Within sampleWord s (s.regionSample temp vdd r) := by
  have temp_at : R.PWR_TEMP.at r = 0x40100 + 4 * r := rfl
  have vdd_at : R.PWR_VDD.at r = 0x40140 + 4 * r := rfl
  refine (within_set _ _ _ _ fun k hk => ?_).trans (within_set _ _ _ _ fun k hk => ?_)
  all_goals
    have one : k < 1 := hk
    simp only [sampleWord, temp_at, vdd_at, Bool.or_eq_true, Bool.and_eq_true, decide_eq_true_eq]
    left
    omega

/-- The registers of the samples. -/
def State.regionSamples (s : State) (temp : List Int) (vdd : List Nat) : State := s.tintNow.forN 13 fun r s => s.regionSample temp vdd r

theorem regionSamples_read (temp : List Int) (vdd : List Nat) : ∀ r < 13, (s.regionSamples temp vdd).get R.PWR_TEMP r = trunc 16 ((temp[r]?).getD 0)
    ∧ (s.regionSamples temp vdd).get R.PWR_VDD r = (vdd[r]?).getD 0 % 2 ^ R.PWR_VDD.width := by
  have temp_at : ∀ r, R.PWR_TEMP.at r = 0x40100 + 4 * r := fun _ => rfl
  have vdd_at : ∀ r, R.PWR_VDD.at r = 0x40140 + 4 * r := fun _ => rfl
  have low : ∀ a < 0x40200, rwsOff a = none := fun a ha => by
    unfold rwsOff
    rw [if_pos (by omega)]
  have set_temp : ∀ (u : State) (f : Fld) (k j v : Nat), k < 13 → j < 13 → f.at k = 0x40140 + 4 * k ∨ f.at k = 0x40100 + 4 * k ∧ j ≠ k → f.words = 1 →
      (u.set f k v).get R.PWR_TEMP j = u.get R.PWR_TEMP j := fun u f k j v hk hj place words => get_set_apart (by
    have one : R.PWR_TEMP.words = 1 := rfl
    rw [temp_at, words, one]
    omega)
  have set_vdd : ∀ (u : State) (f : Fld) (k j v : Nat), k < 13 → j < 13 → f.at k = 0x40100 + 4 * k ∨ f.at k = 0x40140 + 4 * k ∧ j ≠ k → f.words = 1 →
      (u.set f k v).get R.PWR_VDD j = u.get R.PWR_VDD j := fun u f k j v hk hj place words => get_set_apart (by
    have one : R.PWR_VDD.words = 1 := rfl
    rw [vdd_at, words, one]
    omega)
  refine forN_each_below (fun r t => t.get R.PWR_TEMP r = trunc 16 ((temp[r]?).getD 0) ∧ t.get R.PWR_VDD r = (vdd[r]?).getD 0 % 2 ^ R.PWR_VDD.width)
    (fun u k hk => ⟨?_, ?_⟩) fun u k j hk hj ne h => ⟨?_, ?_⟩
  · unfold State.regionSample
    rw [set_temp _ _ _ _ _ hk hk (.inl rfl) rfl, get_set_own _ _ (own_iff.mpr ⟨rfl, low _ (by rw [temp_at]; omega)⟩)]
    exact Nat.mod_eq_of_lt (BitVec.isLt _)
  · exact get_set_own _ _ (own_iff.mpr ⟨rfl, low _ (by rw [vdd_at]; omega)⟩)
  · unfold State.regionSample
    rw [set_temp _ _ _ _ _ hk hj (.inl rfl) rfl, set_temp _ _ _ _ _ hk hj (.inr ⟨rfl, ne⟩) rfl, h.1]
  · unfold State.regionSample
    rw [set_vdd _ _ _ _ _ hk hj (.inr ⟨rfl, ne⟩) rfl, set_vdd _ _ _ _ _ hk hj (.inl rfl) rfl, h.2]

theorem within_groupsShow (temp : List Int) (vdd : List Nat) : Within groupWord (s.regionSamples temp vdd) (s.pwrSample temp vdd) :=
  within_forN fun u g _ => within_run u g _ (within_pgShow u g)

theorem within_pwrSample (temp : List Int) (vdd : List Nat) : Within sampleWord s.tintNow (s.pwrSample temp vdd) :=
  (within_forN fun u _ hr => within_regionSample u temp vdd hr).trans
    ((within_groupsShow s temp vdd).mono fun _ h => (Bool.or_eq_false_iff.mp h).2)

/-- The samples leave the power block, the memories and the time. -/
theorem pwrSample_leaves (temp : List Int) (vdd : List Nat) :
    (s.pwrSample temp vdd).pwr = s.pwr ∧ (s.pwrSample temp vdd).mem = s.mem ∧ (s.pwrSample temp vdd).time = s.time :=
  ⟨(within_pwrSample s temp vdd).pwr, (within_pwrSample s temp vdd).mem, (within_pwrSample s temp vdd).time⟩

theorem pwrSample_gated (temp : List Int) (vdd : List Nat) (u : Nat) : (s.pwrSample temp vdd).gated u = s.gated u :=
  congrArg (·.testBit u) (((within_pwrSample s temp vdd).get R.PWR_GATE_STAT_GATED 0 (by decide)).trans
    (get_of_words (s := s) (t := s.tintNow) (fun _ => rfl) _ _))

theorem pwrSample_read (temp : List Int) (vdd : List Nat) {r : Nat} (hr : r < 13) : (s.pwrSample temp vdd).get R.PWR_TEMP r = trunc 16 ((temp[r]?).getD 0)
    ∧ (s.pwrSample temp vdd).get R.PWR_VDD r = (vdd[r]?).getD 0 % 2 ^ R.PWR_VDD.width := by
  have temp_at : R.PWR_TEMP.at r = 0x40100 + 4 * r := rfl
  have vdd_at : R.PWR_VDD.at r = 0x40140 + 4 * r := rfl
  have low : ∀ {b : Nat}, b < 0x40200 → ∀ k < 1, groupWord (b + 4 * k) = false := fun hb k hk => by
    simp only [groupWord, Bool.and_eq_false_iff, decide_eq_false_iff_not]
    omega
  obtain ⟨temps, supplies⟩ := regionSamples_read s temp vdd r hr
  have shown := within_groupsShow s temp vdd
  exact ⟨(shown.get R.PWR_TEMP r (low (by omega))).trans temps, (shown.get R.PWR_VDD r (low (by omega))).trans supplies⟩

end samples

/-! ### REGION_SKEW of a group (R171) -/

section skew

variable (s : State)

/-- The state with another record of a crossing. -/
def State.withSkew (s : State) (c : Fin 11) (x : Option (Nat × Nat)) : State := s.withPwr { s.pwr with skew := s.pwr.skew.set c x }

/-- The crossing of a port group among the eleven. -/
def groupCrossing (g : Fin 8) : Fin 11 := ⟨g.val + 3, by omega⟩

/-- What a group shows of its crossing: REGION_SKEW, and by which causes. -/
def State.groupSkew (s : State) (g : Nat) (on : Bool) (k : Nat) : State :=
  (((s.setFlag R.PRT_PG_STAT_REGION_SKEW g on).setFlag R.PRT_PG_STAT_TEMP_SKEW g (k.testBit 0)).setFlag R.PRT_PG_STAT_VOLT_SKEW g
    (k.testBit 1)).setFlag R.PRT_PG_STAT_CLK_SKEW g (k.testBit 2)

theorem crossShow_group {g : Fin 8} (on : s.gated g = false) : s.crossShow (groupCrossing g)
    = s.groupSkew g (s.pwr.skew[groupCrossing g]).isSome (((s.pwr.skew[groupCrossing g]).map (·.2)).getD 0) := by
  have high : 3 ≤ (groupCrossing g).val := Nat.le_add_left 3 g.val
  unfold State.crossShow
  rw [if_pos high]
  exact run_clocked s _ on

theorem crossCheck_calm (c : Fin 11) (clk : List Nat) (none : s.pwr.skew[c] = none) (calm : s.crossCauses c.val 60 30 clk = 0) :
    s.crossCheck c clk = s.crossShow c := by
  unfold State.crossCheck
  rw [none]
  exact if_pos calm

theorem crossCheck_begins (c : Fin 11) (clk : List Nat) (none : s.pwr.skew[c] = none) (bad : s.crossCauses c.val 60 30 clk ≠ 0) :
    s.crossCheck c clk = ((s.withSkew c (some (s.time.lc.toNat, s.crossCauses c.val 60 30 clk))).crossShow c).skewBegin c := by
  unfold State.crossCheck
  rw [none]
  exact if_neg bad

/-- The words of a group's state (R187). -/
def groupStatWord (g a : Nat) : Bool := a == 0x3003000 + 0x20000 * g

theorem within_groupSkew (g : Nat) (on : Bool) (k : Nat) : Within (groupStatWord g) s (s.groupSkew g on k) := by
  have at_ : ∀ (u : State) (f : Fld) (v : Nat), f.at g = 0x3003000 + 0x20000 * g → f.words = 1 → Within (groupStatWord g) u (u.set f g v) :=
    fun u f v place words => within_set _ _ _ _ fun k hk => by
      have k0 : k = 0 := by omega
      rw [k0, place]
      exact beq_self_eq_true _
  exact (((at_ s _ _ rfl rfl).trans (at_ _ R.PRT_PG_STAT_TEMP_SKEW _ rfl rfl)).trans (at_ _ R.PRT_PG_STAT_VOLT_SKEW _ rfl rfl)).trans
    (at_ _ R.PRT_PG_STAT_CLK_SKEW _ rfl rfl)

theorem groupSkew_low (g : Nat) (on : Bool) (k : Nat) {f : Fld} {i : Nat} (low : f.at i + 4 * f.words ≤ 0x3003000) : (s.groupSkew g on k).get f i = s.get f i :=
  (within_groupSkew s g on k).get f i fun j hj => by
    rw [groupStatWord, beq_eq_false_iff_ne]
    omega

theorem groupSkew_flag (g : Nat) (on : Bool) (k : Nat) : (s.groupSkew g on k).flag R.PRT_PG_STAT_REGION_SKEW g = on := by
  unfold State.groupSkew
  rw [flag_setFlag_splits _ _ (by decide), flag_setFlag_splits _ _ (by decide), flag_setFlag_splits _ _ (by decide)]
  exact flag_setFlag_tile _ _ (by decide) rfl

/-! #### PWR_SKEW_STAT (R418) -/

/-- What PWR shows of the lowest crossing beyond its limits. -/
def State.skewShown (s : State) (on : Bool) (code k : Nat) : State :=
  ((((s.setFlag R.PWR_SKEW_STAT_ACTIVE 0 on).set R.PWR_SKEW_STAT_CROSSING 0 code).setFlag R.PWR_SKEW_STAT_TEMP 0 (k.testBit 0)).setFlag
    R.PWR_SKEW_STAT_VOLT 0 (k.testBit 1)).setFlag R.PWR_SKEW_STAT_CLK 0 (k.testBit 2)

theorem within_skewShown (on : Bool) (code k : Nat) : Within (· == 0x40040) s (s.skewShown on code k) :=
  ((((within_set s _ _ _ (by decide)).trans (within_set _ _ _ _ (by decide))).trans (within_set _ _ _ _ (by decide))).trans (within_set _ _ _ _ (by decide))).trans
    (within_set _ _ _ _ (by decide))

theorem skewShown_active (on : Bool) (code k : Nat) : (s.skewShown on code k).flag R.PWR_SKEW_STAT_ACTIVE = on := by
  unfold State.skewShown
  rw [flag_setFlag_parted _ _ (by decide), flag_setFlag_parted _ _ (by decide), flag_setFlag_parted _ _ (by decide), flag_set_parted _ _ (by decide)]
  exact flag_setFlag_own s on (by decide) rfl

theorem syncSkew_clear (none : ∀ c : Fin 11, s.pwr.skew[c] = none) : s.syncSkew = (s.skewShown false 0 0).levelOff fsRegionSkew := by
  have found : ((List.finRange 11).find? fun (c : Fin 11) => s.pwr.skew[c].isSome) = .none :=
    List.find?_eq_none.mpr fun c _ => by rw [none]; decide
  unfold State.syncSkew
  rw [found]
  rfl

theorem syncSkew_single {c : Fin 11} {x : Nat × Nat} (here : s.pwr.skew[c] = some x) (others : ∀ d : Fin 11, d ≠ c → s.pwr.skew[d] = none) :
    s.syncSkew = (s.skewShown true (crossCode c) x.2).levelOn fsRegionSkew (crossCode c) := by
  have found : ((List.finRange 11).find? fun (c : Fin 11) => s.pwr.skew[c].isSome) = some c := by
    cases h : (List.finRange 11).find? fun (c : Fin 11) => s.pwr.skew[c].isSome with
    | none =>
      have absent := List.find?_eq_none.mp h c (List.mem_finRange c)
      rw [here] at absent
      exact absurd rfl absent
    | some d =>
      have present := List.find?_some h
      by_contra apart
      rw [others d fun e => apart (congrArg some e)] at present
      cases present
  unfold State.syncSkew
  rw [found]
  dsimp only
  rw [here]
  rfl

/-! #### The check of a group's crossing -/

theorem withSkew_skew (c d : Fin 11) (x : Option (Nat × Nat)) : (s.withSkew c x).pwr.skew[d] = if d = c then x else s.pwr.skew[d] := by
  simp only [State.withSkew, State.withPwr, Fin.getElem_fin, Vector.getElem_set, eq_comm (a := c.val), Fin.ext_iff]

/-- A group whose crossing exceeds its limits shows it, and it counts. -/
def State.groupMarked (s : State) (g : Fin 8) (bad : Nat) : State :=
  (((s.withSkew (groupCrossing g) (some (s.time.lc.toNat, bad))).groupSkew g true bad).bump R.PWR_SKEW_STAT_EVENTS).bump R.PRT_PG_XCNT g

/-- PWR shows it too; the fault is not yet raised. -/
def State.groupBeyond (s : State) (g : Fin 8) (bad : Nat) : State := (s.groupMarked g bad).skewShown true (8 + g.val) bad

theorem groupMarked_skew (g : Fin 8) (bad : Nat) (d : Fin 11) : (s.groupMarked g bad).pwr.skew[d]
    = if d = groupCrossing g then some (s.time.lc.toNat, bad) else s.pwr.skew[d] := by
  rw [State.groupMarked, State.bump_pwr, State.bump_pwr, (within_groupSkew _ _ _ _).pwr, withSkew_skew]

theorem gated_congr {s t : State} (h : t.get R.PWR_GATE_STAT_GATED = s.get R.PWR_GATE_STAT_GATED) (u : Nat) : t.gated u = s.gated u := congrArg (·.testBit u) h

theorem crossCheck_group {g : Fin 8} {clk : List Nat} (on : s.gated g = false) (none : s.pwr.skew[groupCrossing g] = none)
    (bad : s.crossCauses (groupCrossing g).val 60 30 clk ≠ 0) :
    s.crossCheck (groupCrossing g) clk = s.groupMarked g (s.crossCauses (groupCrossing g).val 60 30 clk) := by
  generalize hk : s.crossCauses (groupCrossing g).val 60 30 clk = k
  have marked : (s.withSkew (groupCrossing g) (some (s.time.lc.toNat, k))).gated g = false :=
    (gated_congr (get_withPwr ..) _).trans on
  have shown : ((s.withSkew (groupCrossing g) (some (s.time.lc.toNat, k))).groupSkew g true k).gated g = false :=
    (gated_congr (groupSkew_low _ g true k (by decide)) _).trans marked
  have counted : (((s.withSkew (groupCrossing g) (some (s.time.lc.toNat, k))).groupSkew g true k).bump R.PWR_SKEW_STAT_EVENTS).gated g = false :=
    (gated_congr (get_set_parted _ _ (by decide)) _).trans shown
  have high : 3 ≤ (groupCrossing g).val := Nat.le_add_left 3 g.val
  rw [crossCheck_begins s _ clk none bad, hk, crossShow_group _ marked, withSkew_skew, if_pos rfl]
  unfold State.skewBegin
  dsimp only
  rw [if_pos high]
  exact run_clocked _ _ counted

/-! #### The obligation's part -/

/-- The words that PWR and the links follow a crossing with. -/
def skewTailWord (a : Nat) : Bool := a == 0x40040 || a == 0x200120 || degrWord a

theorem within_skewTail (on : Bool) (code k : Nat) : Within skewTailWord s ((s.skewShown on code k).levelOff fsRegionSkew).degrSync := by
  have apart : ∀ a, skewTailWord a = false → (a == 0x40040) = false ∧ (a == 0x200120) = false ∧ degrWord a = false := fun a h => by
    unfold skewTailWord at h
    rw [Bool.or_eq_false_iff, Bool.or_eq_false_iff] at h
    exact ⟨h.1.1, h.1.2, h.2⟩
  exact (((within_skewShown s on code k).mono fun a h => (apart a h).1).trans ((levelOff_ends _ (by decide)).2.mono fun a h => (apart a h).2.1)).trans
    ((within_degrSync _).mono fun a h => (apart a h).2.2)

theorem skewTail_group (g : Fin 8) : skewTailWord (0x3003000 + 0x20000 * g.val) = false := by
  simp only [skewTailWord, degrWord, pendWord, Bool.or_eq_false_iff, Bool.and_eq_false_iff, decide_eq_false_iff_not, beq_eq_false_iff_ne]
  omega

theorem skewTail_sample {a : Nat} (low : 0x40100 ≤ a) (high : a < 0x40200) : skewTailWord a = false := by
  simp only [skewTailWord, degrWord, pendWord, Bool.or_eq_false_iff, Bool.and_eq_false_iff, decide_eq_false_iff_not, beq_eq_false_iff_ne]
  omega

/-- A crossing within its limits, with no other beyond: nothing shows REGION_SKEW, and the samples stand. -/
theorem crossGroup_calm {g : Fin 8} {temp : List Int} {vdd clk : List Nat} (on : s.gated g = false) (none : ∀ k : Fin 11, s.pwr.skew[k] = none)
    (calm : (s.pwrSample temp vdd).crossCauses (groupCrossing g).val 60 30 clk = 0) :
    (s.crossGroup g temp vdd clk).pwr = s.pwr ∧ (s.crossGroup g temp vdd clk).mem = s.mem
      ∧ (s.crossGroup g temp vdd clk).flag R.PRT_PG_STAT_REGION_SKEW g = false ∧ (s.crossGroup g temp vdd clk).flag R.PWR_SKEW_STAT_ACTIVE = false
      ∧ (s.crossGroup g temp vdd clk).active fsRegionSkew = false
      ∧ ∀ r, r < 13 → (s.crossGroup g temp vdd clk).get R.PWR_TEMP r = trunc 16 ((temp[r]?).getD 0)
        ∧ (s.crossGroup g temp vdd clk).get R.PWR_VDD r = (vdd[r]?).getD 0 % 2 ^ R.PWR_VDD.width := by
  obtain ⟨pwr, mem, -⟩ := pwrSample_leaves s temp vdd
  have clear : ∀ c : Fin 11, (s.pwrSample temp vdd).pwr.skew[c] = .none := fun c => by rw [pwr, none]
  have shown := within_groupSkew (s.pwrSample temp vdd) g false 0
  have tail := within_skewTail ((s.pwrSample temp vdd).groupSkew g false 0) false 0 0
  have eq : s.crossGroup g temp vdd clk = ((((s.pwrSample temp vdd).groupSkew g false 0).skewShown false 0 0).levelOff fsRegionSkew).degrSync := by
    refine (run_clocked s _ on).trans ?_
    rw [show (⟨g.val + 3, by omega⟩ : Fin 11) = groupCrossing g from rfl, crossCheck_calm _ _ clk (clear _) calm,
      crossShow_group _ ((pwrSample_gated s temp vdd g).trans on), clear, syncSkew_clear _ fun c => (congrArg (fun x : PwrSt => x.skew[c]) (within_groupSkew _ _ _ _).pwr).trans (clear c)]
    rfl
  rw [eq]
  have off := levelOff_ends (((s.pwrSample temp vdd).groupSkew g false 0).skewShown false 0 0) (k := fsRegionSkew) (by decide)
  have degr := within_degrSync ((((s.pwrSample temp vdd).groupSkew g false 0).skewShown false 0 0).levelOff fsRegionSkew)
  have word : ∀ k < 1, skewTailWord (0x3003000 + 0x20000 * g.val + 4 * k) = false := fun k hk => by
    have k0 : k = 0 := by omega
    exact k0 ▸ skewTail_group g
  have sample : ∀ {f : Fld} {r : Nat}, r < 13 → f.words = 1 → f.stride = 4 → f.addr = 0x40100 ∨ f.addr = 0x40140 →
      (((((s.pwrSample temp vdd).groupSkew g false 0).skewShown false 0 0).levelOff fsRegionSkew).degrSync).get f r = (s.pwrSample temp vdd).get f r :=
    fun {f r} hr words stride addr => by
      have at_ : f.at r = f.addr + 4 * r := by rw [Fld.at, stride]
      exact (tail.get f r fun k hk => skewTail_sample (by omega) (by omega)).trans (groupSkew_low _ _ _ _ (by omega))
  refine ⟨tail.pwr.trans (shown.pwr.trans pwr), tail.mem.trans (shown.mem.trans mem), (tail.flag R.PRT_PG_STAT_REGION_SKEW g word).trans (groupSkew_flag _ _ _ _), ?_, ?_, fun r hr => ?_⟩
  · exact (degr.flag _ _ (by decide)).trans ((off.2.flag _ _ (by decide)).trans (skewShown_active _ _ _ _))
  · exact (congrArg (·.testBit (fsRegionSkew % 32)) (degr.get R.FLT_ACTIVE (fsRegionSkew / 32) (by decide))).trans off.1
  · rw [sample hr rfl rfl (.inl rfl), sample hr rfl rfl (.inr rfl)]
    exact pwrSample_read s temp vdd hr

/-- A crossing beyond its limits, the only one: the group and PWR show it, it counts, and the fault is raised. -/
theorem crossGroup_beyond {g : Fin 8} {temp : List Int} {vdd clk : List Nat} (on : s.gated g = false) (none : ∀ k : Fin 11, s.pwr.skew[k] = none)
    (bad : (s.pwrSample temp vdd).crossCauses (groupCrossing g).val 60 30 clk ≠ 0) : s.crossGroup g temp vdd clk
      = (((s.pwrSample temp vdd).groupBeyond g ((s.pwrSample temp vdd).crossCauses (groupCrossing g).val 60 30 clk)).levelOn fsRegionSkew (8 + g.val)).degrSync := by
  obtain ⟨pwr, -, -⟩ := pwrSample_leaves s temp vdd
  have clear : ∀ c : Fin 11, (s.pwrSample temp vdd).pwr.skew[c] = .none := fun c => by rw [pwr, none]
  have code : crossCode (groupCrossing g).val = 8 + g.val := by
    have high : ¬(groupCrossing g).val < 3 := Nat.not_lt.mpr (Nat.le_add_left 3 g.val)
    rw [crossCode, if_neg high]
    show 5 + (g.val + 3) = 8 + g.val
    omega
  refine (run_clocked s _ on).trans ?_
  rw [show (⟨g.val + 3, by omega⟩ : Fin 11) = groupCrossing g from rfl, crossCheck_group _ ((pwrSample_gated s temp vdd g).trans on) (clear _) bad,
    syncSkew_single _ ((groupMarked_skew _ g _ _).trans (if_pos rfl)) fun d hd => (groupMarked_skew _ g _ d).trans ((if_neg hd).trans (clear d)), code]
  rfl

theorem groupMarked_count (g : Fin 8) (bad : Nat) : s.counts (s.groupMarked g bad) R.PRT_PG_XCNT g := by
  have at_ : R.PRT_PG_XCNT.at g = 0x3003014 + 0x20000 * g.val := rfl
  unfold State.counts State.groupMarked
  have before : (((s.withSkew (groupCrossing g) (some (s.time.lc.toNat, bad))).groupSkew g true bad).bump R.PWR_SKEW_STAT_EVENTS).get R.PRT_PG_XCNT g
      = s.get R.PRT_PG_XCNT g := by
    refine (get_set_apart (.inr ?_)).trans (((within_groupSkew _ _ _ _).get _ _ fun k hk => ?_).trans (get_withPwr ..))
    · rw [at_]
      show 0x40044 ≤ _
      omega
    · have one : k < 1 := hk
      rw [groupStatWord, at_, beq_eq_false_iff_ne]
      omega
  rw [get_bump_tile _ (by decide), before]

/-- What the group shows of its crossing beyond the limits. -/
theorem groupBeyond_shows (g : Fin 8) (bad : Nat) : (s.groupBeyond g bad).flag R.PRT_PG_STAT_REGION_SKEW g = true
    ∧ (s.groupBeyond g bad).flag R.PWR_SKEW_STAT_ACTIVE = true ∧ (s.groupBeyond g bad).pwr.skew[groupCrossing g] = some (s.time.lc.toNat, bad)
    ∧ s.counts (s.groupBeyond g bad) R.PRT_PG_XCNT g ∧ (s.groupBeyond g bad).mem = s.mem := by
  have shown := within_skewShown (s.groupMarked g bad) true (8 + g.val) bad
  have high : ∀ {f : Fld}, 0x40044 ≤ f.addr → (s.groupBeyond g bad).get f g = (s.groupMarked g bad).get f g := fun {f} h =>
    shown.get f g fun k _ => by
      rw [beq_eq_false_iff_ne, Fld.at]
      omega
  refine ⟨?_, skewShown_active _ _ _ _, ?_, (high (by decide)).trans (groupMarked_count s g bad), ?_⟩
  · rw [State.flag, high (by decide), State.groupMarked, get_bump_splits _ _ (by decide), State.bump,
      get_set_apart (.inr (by show 0x40044 ≤ 0x3003000 + 0x20000 * g.val; omega))]
    exact groupSkew_flag _ _ _ _
  · rw [State.groupBeyond, shown.pwr, groupMarked_skew, if_pos rfl]
  · rw [State.groupBeyond, shown.mem, State.groupMarked, State.bump_mem, State.bump_mem, (within_groupSkew _ _ _ _).mem]
    rfl

end skew

/-- Settles O32: the measurement of a crossing, the recalibration of a link and the check of a group's crossing, each as its operation. -/
theorem crossingsAndRecalibration : Obligations.CrossingsAndRecalibration := by
  unfold Obligations.CrossingsAndRecalibration
  intro s
  refine ⟨crossings_measured s, fun i => ⟨recal_gated s, fun on => ⟨?_, ?_, ?_, ?_, ?_, ?_, ?_, ?_⟩⟩, fun g temp vdd clk => ⟨fun gated => ?_, fun power on none => ⟨fun calm => ?_, fun bad => ?_⟩⟩⟩
  · intro due state calm cover alone few
    obtain ⟨moved, link⟩ := moved_recalStart s (i := i)
    exact ⟨_, next_of_clocked on (recalStart_moves s due state calm cover alone few), moved.here, link, moved.own, moved.toOnLink.others⟩
  · exact fun h => next_of_clocked on (recalStart_stays s h)
  · exact fun sum h => next_of_clocked on (recalEnd_stays s sum h)
  · intro sum state run calm (small : (s.drift i sum).natAbs ≤ s.driftLimit i)
    obtain ⟨others, steady, terms, fresh, age⟩ := recalAccept_takes (s.recalLeft i) (s.drift i sum) (i := i)
    have moved := moved_recalLeft s (i := i)
    have eq : s.recalEnd i sum = (s.recalLeft i).recalAccept i (s.drift i sum) := by
      rw [recalEnd_ends s sum state run, calm, if_neg Bool.false_ne_true, if_pos small]
    exact ⟨_, next_of_clocked on eq, (steady.state i).trans moved.here, terms, fresh, age, (moved.toOnLink.trans others).others⟩
  · intro sum state run calm (large : s.driftLimit i < (s.drift i sum).natAbs)
    have moved := moved_recalLeft s (i := i)
    have eq : s.recalEnd i sum = ((s.recalLeft i).recalRefused i).raise fsPortRecalFail (if i.val < 4 then 64 + i.val else i.val - 4) := by
      rw [recalEnd_ends s sum state run, calm, if_neg Bool.false_ne_true, if_neg (Nat.not_le.mpr large), recalFail_eq]
    refine ⟨(s.recalLeft i).recalRefused i, ((steady_recalRefused _).state i).trans moved.here, fun tx => ?_, ?_, ?_, next_of_clocked on eq⟩
    · rw [recalOf_recalRefused, recalOf_recalLeft]
    · rw [link_recalRefused, link_setLink_same]
    · exact (moved.toOnLink.trans (onLink_recalRefused _)).others
  · intro sum state run skew
    have moved := moved_recalLeft s (i := i)
    have eq : s.recalEnd i sum = s.recalLeft i := by rw [recalEnd_ends s sum state run, skew, if_pos rfl]
    exact ⟨_, next_of_clocked on eq, moved.here, link_recalLeft s, fun tx => recalOf_recalLeft s tx, moved.toOnLink.others⟩
  · intro stale
    have marked : ((s.setStale i true).degrSync1 i).linkStale i = true := by rw [linkStale_degrSync1, linkStale_setStale]
    exact ⟨_, next_of_clocked on (recalStale_marks s stale), marked, linkDegraded_stale marked, ((onLink_setStale s true).trans (onLink_degrSync1 _)).others⟩
  · exact fun fresh => next_of_clocked on (recalStale_stays s fresh)
  · have still : s.crossGroup g temp vdd clk = s := run_gated s _ gated
    exact congrArg Host.Outcome.next ((congrArg (ite _ · s) still).trans (ite_self s))
  · exact ⟨_, congrArg Host.Outcome.next (if_pos (beq_iff_eq.mpr power)), crossGroup_calm s on none calm⟩
  · obtain ⟨pwr, mem, time⟩ := pwrSample_leaves s temp vdd
    obtain ⟨region, active, record, counts, kept⟩ := groupBeyond_shows (s.pwrSample temp vdd) g ((s.pwrSample temp vdd).crossCauses (groupCrossing g).val 60 30 clk)
    exact ⟨_, region, active, time ▸ record, counts, kept.trans mem,
      congrArg Host.Outcome.next ((if_pos (beq_iff_eq.mpr power)).trans (crossGroup_beyond s on none bad))⟩

end Sys2Proof.Machine

/-! ## The launch queues of a port (R194 to R203) -/

namespace Sys2Proof.Machine

/-- `t` has the time, the memories and the words of time of `s`, and the launch queues of every port other than `p` as they were. -/
structure OnPort (p : Fin 64) (s t : State) : Prop extends Aside s t where
  lport : ∀ q, q ≠ p → t.lport q = s.lport q

section frames

variable {p : Fin 64} {r s t : State}

theorem OnPort.refl (p : Fin 64) (s : State) : OnPort p s s := ⟨.refl s, fun _ _ => rfl⟩

theorem OnPort.trans (h : OnPort p r s) (k : OnPort p s t) : OnPort p r t :=
  ⟨h.toAside.trans k.toAside, fun q hq => (k.lport q hq).trans (h.lport q hq)⟩

theorem onPort_of_prt (h : Aside s t) (prt : t.prt = s.prt) : OnPort p s t := ⟨h, fun q _ => lport_of_prt prt q⟩

theorem onPort_set (s : State) (f : Fld) (i v : Nat) (h : 0x1400000 ≤ f.addr) : OnPort p s (s.set f i v) := onPort_of_prt (aside_of_high s f i v h) (State.set_prt ..)

theorem onPort_raiseBit (s : State) (f : Fld) (i b : Nat) (h : 0x1400000 ≤ f.addr) : OnPort p s (s.raiseBit f i b) :=
  onPort_of_prt (apart_raiseBit s f i b (by omega)).toAside (State.raiseBit_prt ..)

theorem onPort_obs (s : State) (code loc n : Nat) : OnPort p s (s.obs code loc n) := onPort_of_prt (apart_obs s code loc n).toAside (State.obs_prt ..)

theorem onPort_setLport (s : State) (x : LchPort) : OnPort p s (s.setLport p x) := ⟨(steady_setLport s p x).toAside, fun _ h => lport_setLport_ne s x h⟩

theorem onPort_setLink (s : State) (i : Fin 68) (x : PortSt) : OnPort p s (s.setLink i x) := ⟨(steady_setLink s i x).toAside, fun _ _ => rfl⟩

/-- What an operation on one port's queues leaves of the rest. -/
theorem OnPort.others (h : OnPort p s t) : t.mem = s.mem ∧ t.time = s.time ∧ ∀ q, q ≠ p → t.lport q = s.lport q := ⟨h.mem, h.time, h.lport⟩

end frames

/-! ### The queues are replaced (R205) -/

/-- A field that LCH_PSTAT does not touch. -/
def Fld.offPstat (g : Fld) : Bool := R.LCH_PSTAT_TQ_DEPTH.splits g && R.LCH_PSTAT_IQ_DEPTH.splits g && R.LCH_PSTAT_RQ_DEPTH.splits g

/-- The words of LCH_PSTAT. -/
def pstatWord (a : Nat) : Bool := decide (0x3408004 ≤ a) && decide (a < 0x3410000)

section queues

variable (s : State) (p : Fin 64) (x : LchPort)

theorem putLport_eq : s.putLport p x = (((s.setLport p x).set R.LCH_PSTAT_TQ_DEPTH p x.timed.length).set R.LCH_PSTAT_IQ_DEPTH p x.imm.length).set
    R.LCH_PSTAT_RQ_DEPTH p x.reports.length := by
  simp [State.putLport, State.pstatSync]

@[simp] theorem lport_putLport_same : (s.putLport p x).lport p = x := by rw [putLport_eq, lport_set, lport_set, lport_set, lport_setLport_same]

@[simp] theorem link_putLport (i : Fin 68) : (s.putLport p x).link i = s.link i := by rw [putLport_eq, link_set, link_set, link_set, link_setLport]

theorem onPort_putLport : OnPort p s (s.putLport p x) := by
  rw [putLport_eq]
  exact (((onPort_setLport s x).trans (onPort_set _ _ _ _ (by decide))).trans (onPort_set _ _ _ _ (by decide))).trans (onPort_set _ _ _ _ (by decide))

variable {p} in
theorem get_putLport {g : Fld} {j : Nat} (h : g.offPstat = true) : (s.putLport p x).get g j = s.get g j := by
  simp only [Fld.offPstat, Bool.and_eq_true] at h
  obtain ⟨⟨timed, imm⟩, reports⟩ := h
  rw [putLport_eq, get_set_splits _ _ reports, get_set_splits _ _ imm, get_set_splits _ _ timed, get_setLport]

theorem within_pstat : Within pstatWord (s.setLport p x) (s.putLport p x) := by
  have at_ : ∀ (u : State) (f : Fld) (v : Nat), f.at p = 0x3408004 + 0x200 * p.val → f.words = 1 → Within pstatWord u (u.set f p v) := fun u f v place words =>
    within_set _ _ _ _ fun k hk => by
      rw [pstatWord, Bool.and_eq_true, decide_eq_true_eq, decide_eq_true_eq]
      omega
  rw [putLport_eq]
  exact ((at_ _ R.LCH_PSTAT_TQ_DEPTH _ rfl rfl).trans (at_ _ R.LCH_PSTAT_IQ_DEPTH _ rfl rfl)).trans (at_ _ R.LCH_PSTAT_RQ_DEPTH _ rfl rfl)

theorem putLport_group : (s.putLport p x).prt.group = s.prt.group := by
  rw [(within_pstat s p x).prt]
  rfl

end queues

/-! ### What the queues do not decide: DEGRADED, trailers, muting, insertion -/

/-- `t` shows what `s` shows outside LCH_PSTAT, in the same time and over the same links. -/
structure LinksAs (s t : State) : Prop where
  time : t.time = s.time
  word : ∀ a, pstatWord a = false → t.word a = s.word a
  link : ∀ i, t.link i = s.link i
  group : t.prt.group = s.prt.group

section links

variable {s t : State}

theorem linksAs_putLport (s : State) (p : Fin 64) (x : LchPort) : LinksAs s (s.putLport p x) :=
  ⟨(onPort_putLport s p x).time, fun a ha => (within_pstat s p x).word a ha, link_putLport s p x, putLport_group s p x⟩

theorem LinksAs.get (h : LinksAs s t) (f : Fld) (i : Nat) (hf : ∀ k < f.words, pstatWord (f.at i + 4 * k) = false) : t.get f i = s.get f i := by
  unfold State.get
  rw [wordsN_congr fun k hk => h.word _ (hf k hk)]

theorem LinksAs.flag (h : LinksAs s t) (f : Fld) (i : Nat) (hf : ∀ k < f.words, pstatWord (f.at i + 4 * k) = false) : t.flag f i = s.flag f i := by
  unfold State.flag
  rw [h.get f i hf]

/-- A field below the launch block. -/
theorem pstatWord_below {f : Fld} {i : Nat} (h : f.at i + 4 * f.words ≤ 0x3400000) : ∀ k < f.words, pstatWord (f.at i + 4 * k) = false := fun k hk => by
  simp only [pstatWord, Bool.and_eq_false_iff, decide_eq_false_iff_not]
  omega

/-- A field above the launch block. -/
theorem pstatWord_above {f : Fld} {i : Nat} (h : 0x3410000 ≤ f.addr) : ∀ k < f.words, pstatWord (f.at i + 4 * k) = false := fun k hk => by
  have high : f.addr ≤ f.at i := Nat.le_add_right ..
  simp only [pstatWord, Bool.and_eq_false_iff, decide_eq_false_iff_not]
  omega

/-- A field of the words of a port. -/
theorem pstatWord_port {f : Fld} (p : Fin 64) (stride : f.stride = 0x4000) (top : f.addr + 4 * f.words ≤ 0x3004000) :
    ∀ k < f.words, pstatWord (f.at p + 4 * k) = false :=
  pstatWord_below (by rw [Fld.at, stride]; omega)

theorem LinksAs.linkSkew (h : LinksAs s t) (i : Fin 68) : t.linkSkew i = s.linkSkew i := by
  unfold State.linkSkew
  split
  · exact h.flag _ _ (pstatWord_above (by decide))
  · exact h.flag _ _ (pstatWord_below (by rw [Fld.at]; show 0x3003000 + 0x20000 * _ + 4 * 1 ≤ _; omega))

theorem LinksAs.linkStale (h : LinksAs s t) (i : Fin 68) : t.linkStale i = s.linkStale i := by
  unfold State.linkStale
  split
  · rw [h.link]
  · exact h.flag _ _ (pstatWord_below (by rw [Fld.at]; show 0x3000004 + 0x4000 * _ + 4 * 1 ≤ _; omega))

theorem linkDegraded_congr {i : Fin 68} (skew : t.linkSkew i = s.linkSkew i) (stale : t.linkStale i = s.linkStale i) (time : t.time = s.time)
    (group : t.prt.group = s.prt.group) (bad : (t.link i).recalBad = (s.link i).recalBad) : t.linkDegraded i = s.linkDegraded i := by
  simp only [State.linkDegraded, skew, stale, time, group, bad]

theorem LinksAs.linkDegraded (h : LinksAs s t) (i : Fin 68) : t.linkDegraded i = s.linkDegraded i :=
  linkDegraded_congr (h.linkSkew i) (h.linkStale i) h.time h.group (by rw [h.link])

theorem LinksAs.bracePort (h : LinksAs s t) (p : Fin 64) : t.bracePort p = s.bracePort p := by
  have even : 2 * (p.val / 2) < 64 := by omega
  have paired : t.flag R.PRT_CFG_PRP_EN (2 * (p.val / 2)) = s.flag R.PRT_CFG_PRP_EN (2 * (p.val / 2)) :=
    h.flag _ _ (pstatWord_port ⟨2 * (p.val / 2), even⟩ rfl (by decide))
  simp only [State.bracePort, State.pairOf, paired, h.get R.BRC_PORTS 0 (by decide)]

theorem LinksAs.mutes (h : LinksAs s t) (p : Fin 64) (b : List Byte) : t.mutes p b = s.mutes p b := by
  simp only [State.mutes, h.bracePort, h.flag R.BRC_STAT_MUTED 0 (by decide)]

theorem LinksAs.braceOn (h : LinksAs s t) (p : Fin 64) : t.braceOn p = s.braceOn p := by
  simp only [State.braceOn, h.bracePort, h.get R.BRC_STAT_PAIR_STATE 0 (by decide)]

theorem LinksAs.ntpAt (h : LinksAs s t) (x : Time) : t.ntpAt x = s.ntpAt x := by
  unfold State.ntpAt State.getS
  rw [h.time, h.get R.KNL_UTC_UTC_OFFSET 0 (by decide)]

theorem LinksAs.oneStep (h : LinksAs s t) (e : LEntry) (a : Nat) (b : List Byte) : t.oneStep e a b = s.oneStep e a b := by
  have fields : t.insertFields e a b = s.insertFields e a b := by
    unfold State.insertFields
    simp only [h.ntpAt]
  unfold State.oneStep
  rw [fields]

end links

/-! ### Trailers (R184, R341) -/

/-- A link whose next trailer number is another one. -/
def State.renumbered (s : State) (p : Fin 64) (n : Nat) : State := s.setLink (attOf p) { s.link (attOf p) with rctSeq := n }

section trailers

variable (s : State) (p : Fin 64)

theorem braceSeq_state (b : List Byte) : (s.braceSeq p b).2 = s ∨ ∃ n, (s.braceSeq p b).2 = s.renumbered p n := by
  unfold State.braceSeq
  dsimp only
  split
  · exact .inl rfl
  · split
    · exact .inl rfl
    · exact .inr ⟨_, rfl⟩

/-- A trailer takes a number of its port at most. -/
theorem trailed_state (rct : Option Nat) (b : List Byte) : (s.trailed p rct b).2 = s ∨ ∃ n, (s.trailed p rct b).2 = s.renumbered p n := by
  unfold State.trailed
  split
  · exact braceSeq_state s p b
  · split
    · exact .inl rfl
    · exact .inl rfl

/-- What such a number leaves. -/
theorem renumbered_leaves (n : Nat) : OnPort p s (s.renumbered p n) ∧ (∀ q, (s.renumbered p n).lport q = s.lport q)
    ∧ (∀ f i, (s.renumbered p n).get f i = s.get f i) ∧ (s.renumbered p n).linkDegraded (attOf p) = s.linkDegraded (attOf p) := by
  refine ⟨onPort_setLink s _ _, fun q => lport_setLink .., fun f i => get_setLink .., linkDegraded_congr ?_ ?_ rfl rfl ?_⟩
  · unfold State.linkSkew State.renumbered
    simp only [flag_setLink]
  · unfold State.linkStale State.renumbered
    simp only [flag_setLink, link_setLink_same]
  · rw [State.renumbered, link_setLink_same]

theorem trailed_leaves (rct : Option Nat) (b : List Byte) : OnPort p s (s.trailed p rct b).2 ∧ (∀ q, (s.trailed p rct b).2.lport q = s.lport q)
    ∧ (∀ f i, (s.trailed p rct b).2.get f i = s.get f i) ∧ (s.trailed p rct b).2.linkDegraded (attOf p) = s.linkDegraded (attOf p) := by
  rcases trailed_state s p rct b with eq | ⟨n, eq⟩ <;> rw [eq]
  · exact ⟨.refl p s, fun _ => rfl, fun _ _ => rfl, rfl⟩
  · exact renumbered_leaves s p n

variable {s} in
/-- The bytes with their trailer do not depend on the queues. -/
theorem LinksAs.trailed {t : State} (h : LinksAs s t) (rct : Option Nat) (b : List Byte) : (t.trailed p rct b).1 = (s.trailed p rct b).1 := by
  have side : ∀ {u v : State}, v.get R.BRC_CFG_SIDE = u.get R.BRC_CFG_SIDE → v.flag R.BRC_CFG_SIDE = u.flag R.BRC_CFG_SIDE := fun e => congrArg (· != 0) e
  have number : (t.braceSeq p b).1 = (s.braceSeq p b).1 := by
    unfold State.braceSeq State.takeRct
    dsimp only
    rw [h.link]
    split
    · rfl
    · split <;> rfl
  have unchanged : ∀ u : State, (u.braceSeq p b).2.get R.BRC_CFG_SIDE = u.get R.BRC_CFG_SIDE := fun u => by
    rcases braceSeq_state u p b with eq | ⟨n, eq⟩ <;> rw [eq]
    exact (renumbered_leaves u p n).2.2.1 _ _
  have same : (t.braceSeq p b).2.flag R.BRC_CFG_SIDE = (s.braceSeq p b).2.flag R.BRC_CFG_SIDE :=
    side ((unchanged t).trans ((h.get R.BRC_CFG_SIDE 0 (by decide)).trans (unchanged s).symm))
  unfold State.trailed
  rw [h.braceOn]
  split
  · dsimp only
    rw [number, same]
  · cases rct <;> rfl

end trailers

/-! ### Reports (R201, R202) -/

section reports

variable (s : State) (p : Fin 64) (e : LEntry) (rt ver status : Nat) (err : Int) (deg sn : Bool)

theorem reportBytes_length : (s.reportBytes p e rt ver status err deg sn).length = 32 := by
  simp [State.reportBytes, leBytes_length]

/-- The flags of a report as a number. -/
def State.reportFlags (s : State) (p : Fin 64) (e : LEntry) (status : Nat) (deg sn : Bool) : Nat :=
  p.val + status % 16 * 2 ^ 6 + b2n (s.get R.LCH_LOST_PEND p != 0) * 2 ^ 10 + b2n deg * 2 ^ 11 + b2n sn * 2 ^ 12
    + b2n (p.val % 2 == 1 && (s.workPair p).isSome) * 2 ^ 13 + b2n (e.l == 0) * 2 ^ 14

theorem b2n_le (b : Bool) : b2n b ≤ 1 := by cases b <;> decide

theorem reportFlags_port : s.reportFlags p e status deg sn % 64 = p.val ∧ bits (s.reportFlags p e status deg sn) 6 4 = status % 16
    ∧ s.reportFlags p e status deg sn < 2 ^ 16 := by
  have lost := b2n_le (s.get R.LCH_LOST_PEND p != 0)
  have degraded := b2n_le deg
  have sequence := b2n_le sn
  have odd := b2n_le (p.val % 2 == 1 && (s.workPair p).isSome)
  have immediate := b2n_le (e.l == 0)
  unfold State.reportFlags bits
  generalize b2n (s.get R.LCH_LOST_PEND p != 0) = a at *
  generalize b2n deg = b at *
  generalize b2n sn = c at *
  generalize b2n (p.val % 2 == 1 && (s.workPair p).isSome) = d at *
  generalize b2n (e.l == 0) = f at *
  have port := p.isLt
  omega

/-- The parts of a report, in order. -/
theorem reportBytes_eq : s.reportBytes p e rt ver status err deg sn = leBytes 12 rt ++ leBytes 2 ver ++ leBytes 2 (s.get R.LCH_RSEQ p) ++ leBytes 8 e.tag
    ++ leBytes 4 (trunc 32 err) ++ leBytes 2 (s.reportFlags p e status deg sn) ++ leBytes 2 (s.get R.LCH_LOST_PEND p) := rfl

theorem leAt_head (n v : Nat) (r : List Byte) : leAt (leBytes n v ++ r) 0 n = v % 256 ^ n := by
  rw [leAt_append_left r (by rw [leBytes_length, Nat.zero_add]), leAt_leBytes]

theorem leAt_skip (m x : Nat) (r : List Byte) (off n : Nat) : leAt (leBytes m x ++ r) (m + off) n = leAt r off n := by
  rw [leAt_append_right (by rw [leBytes_length]; omega), leBytes_length, Nat.add_sub_cancel_left]

theorem reportBytes_fields : leAt (s.reportBytes p e rt ver status err deg sn) 0 12 = rt % 2 ^ 96
    ∧ leAt (s.reportBytes p e rt ver status err deg sn) 12 2 = ver % 65536 ∧ leAt (s.reportBytes p e rt ver status err deg sn) 14 2 = s.get R.LCH_RSEQ p
    ∧ leAt (s.reportBytes p e rt ver status err deg sn) 16 8 = e.tag % 2 ^ 64
    ∧ leAt (s.reportBytes p e rt ver status err deg sn) 28 2 = s.reportFlags p e status deg sn := by
  have seq : s.get R.LCH_RSEQ p % 256 ^ 2 = s.get R.LCH_RSEQ p := Nat.mod_eq_of_lt (get_lt s R.LCH_RSEQ p)
  have flags : s.reportFlags p e status deg sn % 256 ^ 2 = s.reportFlags p e status deg sn := Nat.mod_eq_of_lt (reportFlags_port s p e status deg sn).2.2
  rw [reportBytes_eq]
  simp only [List.append_assoc]
  have behind : ∀ r off n, leAt (leBytes 12 rt ++ (leBytes 2 ver ++ r)) (12 + (2 + off)) n = leAt r off n := fun r off n =>
    (leAt_skip 12 rt _ _ n).trans (leAt_skip 2 ver r off n)
  refine ⟨leAt_head 12 rt _, (leAt_skip 12 rt _ 0 2).trans (leAt_head 2 ver _), (behind _ 0 2).trans ((leAt_head 2 _ _).trans seq), ?_, ?_⟩
  · exact (behind _ 2 8).trans ((leAt_skip 2 _ _ 0 8).trans (leAt_head 8 e.tag _))
  · exact (behind _ 14 2).trans ((leAt_skip 2 _ _ 12 2).trans ((leAt_skip 8 _ _ 4 2).trans ((leAt_skip 4 _ _ 0 2).trans ((leAt_head 2 _ _).trans flags))))

/-- The report of an entry that asks for one, in a state that gives `n` as the next number of the port's reports. -/
structure Reports (p : Fin 64) (e : LEntry) (rt n status : Nat) (r : LReport) : Prop where
  ring : r.ring = e.ring
  length : r.bytes.length = 32
  time : leAt r.bytes 0 12 = rt % 2 ^ 96
  seq : leAt r.bytes 14 2 = n
  tag : leAt r.bytes 16 8 = e.tag % 2 ^ 64
  port : leAt r.bytes 28 2 % 64 = p.val
  status : bits (leAt r.bytes 28 2) 6 4 = status % 16

theorem reports_bytes : Reports p e rt (s.get R.LCH_RSEQ p) status ⟨e.ring, s.reportBytes p e rt ver status err deg sn⟩ := by
  obtain ⟨time, -, seq, tag, flags⟩ := reportBytes_fields s p e rt ver status err deg sn
  obtain ⟨port, code, -⟩ := reportFlags_port s p e status deg sn
  exact ⟨rfl, reportBytes_length .., time, seq, tag, flags ▸ port, flags ▸ code⟩

/-! #### A report is formed (R202) -/

theorem report_unasked (h : e.report = false) : s.report p e rt ver status err deg sn = s := if_pos (by rw [h]; rfl)

/-- The report enters the port's queue. -/
def State.queueReport (s : State) (p : Fin 64) (r : LReport) : State :=
  ((s.bumpW R.LCH_RSEQ p).set R.LCH_LOST_PEND p 0).putLport p { s.lport p with reports := (s.lport p).reports ++ [r] }

/-- The report is lost. -/
def State.loseReport (s : State) (p : Fin 64) : State :=
  ((((s.bumpW R.LCH_RSEQ p).bump R.LCH_TSQ_LOST p).bump R.LCH_LOST_PEND p).lchEvt 1).obs 3 (p.val * 16 + 3)

theorem report_queued (h : e.report = true) (room : (s.lport p).reports.length < 256) :
    s.report p e rt ver status err deg sn = s.queueReport p ⟨e.ring, s.reportBytes p e rt ver status err deg sn⟩ :=
  (if_neg (by rw [h]; decide)).trans (if_neg (Nat.not_le.mpr room))

theorem report_lost (h : e.report = true) (full : 256 ≤ (s.lport p).reports.length) : s.report p e rt ver status err deg sn = s.loseReport p :=
  (if_neg (by rw [h]; decide)).trans (if_pos full)

/-- A field that reports do not touch. -/
def Fld.offReport (g : Fld) : Bool :=
  R.LCH_RSEQ.splits g && R.LCH_LOST_PEND.splits g && R.LCH_TSQ_LOST.splits g && R.LCH_EVT.splits g && g.offPstat && g.calm

theorem onPort_queueReport (r : LReport) : OnPort p s (s.queueReport p r) :=
  ((onPort_set s _ _ _ (by decide)).trans (onPort_set _ _ _ _ (by decide))).trans (onPort_putLport _ p _)

@[simp] theorem lport_queueReport (r : LReport) : (s.queueReport p r).lport p = { s.lport p with reports := (s.lport p).reports ++ [r] } := lport_putLport_same ..

theorem queueReport_seq (r : LReport) : (s.queueReport p r).get R.LCH_RSEQ p = (s.get R.LCH_RSEQ p + 1) % 2 ^ R.LCH_RSEQ.width
    ∧ (s.queueReport p r).get R.LCH_LOST_PEND p = 0 := by
  unfold State.queueReport
  rw [get_putLport _ _ (by decide), get_putLport _ _ (by decide), get_set_splits _ _ (by decide), get_bumpW_tile _ _ (by decide), get_set_tile _ _ (by decide)]
  exact ⟨rfl, rfl⟩

theorem onPort_loseReport : OnPort p s (s.loseReport p) :=
  ((((onPort_set s _ _ _ (by decide)).trans (onPort_set _ _ _ _ (by decide))).trans (onPort_set _ _ _ _ (by decide))).trans (onPort_raiseBit _ _ _ _ (by decide))).trans
    (onPort_obs _ _ _ _)

@[simp] theorem lport_loseReport : (s.loseReport p).lport p = s.lport p := by simp [State.loseReport, State.lchEvt]

theorem loseReport_counts : s.counts (s.loseReport p) R.LCH_TSQ_LOST p ∧ s.counts (s.loseReport p) R.LCH_LOST_PEND p
    ∧ ((s.loseReport p).get R.LCH_EVT).testBit 1 = true := by
  unfold State.counts State.loseReport State.lchEvt
  refine ⟨?_, ?_, ?_⟩
  · rw [get_obs_calm _ _ _ _ (by decide), get_raiseBit_splits _ _ (by decide) (by decide), get_bump_splits _ _ (by decide), get_bump_tile _ (by decide),
      get_bumpW_splits _ _ (by decide)]
  · rw [get_obs_calm _ _ _ _ (by decide), get_raiseBit_splits _ _ (by decide) (by decide), get_bump_tile _ (by decide), get_bump_splits _ _ (by decide),
      get_bumpW_splits _ _ (by decide)]
  · rw [get_obs_calm _ _ _ _ (by decide)]
    exact raiseBit_testBit _ (by decide) (by decide) (by decide)

/-- Every report leaves the rest of the port. -/
theorem report_leaves : OnPort p s (s.report p e rt ver status err deg sn)
    ∧ (s.report p e rt ver status err deg sn).lport p = { s.lport p with reports := ((s.report p e rt ver status err deg sn).lport p).reports } := by
  cases asked : e.report with
  | false =>
    rw [report_unasked s p e rt ver status err deg sn asked]
    exact ⟨.refl p s, rfl⟩
  | true =>
    by_cases room : (s.lport p).reports.length < 256
    · rw [report_queued s p e rt ver status err deg sn asked room, lport_queueReport]
      exact ⟨onPort_queueReport s p _, rfl⟩
    · rw [report_lost s p e rt ver status err deg sn asked (Nat.not_lt.mp room), lport_loseReport]
      exact ⟨onPort_loseReport s p, rfl⟩

theorem get_report {g : Fld} {j : Nat} (h : g.offReport = true) : (s.report p e rt ver status err deg sn).get g j = s.get g j := by
  simp only [Fld.offReport, Bool.and_eq_true] at h
  obtain ⟨⟨⟨⟨⟨seq, pend⟩, lost⟩, evt⟩, pstat⟩, calm⟩ := h
  cases asked : e.report with
  | false => rw [report_unasked s p e rt ver status err deg sn asked]
  | true =>
    by_cases room : (s.lport p).reports.length < 256
    · rw [report_queued s p e rt ver status err deg sn asked room, State.queueReport, get_putLport _ _ pstat, get_set_splits _ _ pend, get_bumpW_splits _ _ seq]
    · rw [report_lost s p e rt ver status err deg sn asked (Nat.not_lt.mp room), State.loseReport, State.lchEvt, get_obs_calm _ _ _ _ calm,
        get_raiseBit_splits _ _ evt calm, get_bump_splits _ _ pend, get_bump_splits _ _ lost, get_bumpW_splits _ _ seq]

end reports

end Sys2Proof.Machine

/-! ## Departure of frames, and what becomes of their reports (R194 to R203) -/

namespace Sys2Proof.Machine

/-! ### A frame leaves its queue -/

section unqueue

variable (s : State) (p : Fin 64) (e : LEntry)

theorem unqueue_timed (h : e.l ≠ 0) : s.unqueue p e = s.putLport p { s.lport p with timed := (s.lport p).timed.erase e } := by
  simp only [State.unqueue, if_neg h]

theorem unqueue_imm (h : e.l = 0) : s.unqueue p e = s.putLport p { s.lport p with imm := (s.lport p).imm.erase e } := by
  simp only [State.unqueue, if_pos h]

/-- A queue without an entry, whichever of the two it stands in. -/
theorem unqueue_put : ∃ x, s.unqueue p e = s.putLport p x ∧ x.reports = (s.lport p).reports ∧ x.wire = (s.lport p).wire := by
  by_cases h : e.l = 0
  · exact ⟨_, unqueue_imm s p e h, rfl, rfl⟩
  · exact ⟨_, unqueue_timed s p e h, rfl, rfl⟩

theorem onPort_unqueue : OnPort p s (s.unqueue p e) := onPort_putLport s p _

theorem linksAs_unqueue : LinksAs s (s.unqueue p e) := linksAs_putLport s p _

theorem get_unqueue {g : Fld} {j : Nat} (h : g.offPstat = true) : (s.unqueue p e).get g j = s.get g j := get_putLport s _ h

end unqueue

/-! ### A frame starts (R194, R199) -/

section send

variable (s : State) (p : Fin 64) (e : LEntry) (t : Time × Nat × Bool) (d : Nat)

/-- The frame of an entry on the wire, with its trailer and its timestamp inserted. -/
def State.wireOf (s : State) (p : Fin 64) (e : LEntry) (t : Time × Nat × Bool) (status : Nat) (err : Int) : OnWire :=
  ⟨(s.trailed p e.rct (s.oneStep e t.1.toNat (s.frameOf e))).1, some e, t.1.toNat, t.2.1, t.2.2, s.linkDegraded (attOf p), status, err⟩

/-- The frame has left its queue and has its trailer number. -/
def State.started (s : State) (p : Fin 64) (e : LEntry) (a : Nat) : State :=
  ((s.unqueue p e).trailed p e.rct ((s.unqueue p e).oneStep e a (s.frameOf e))).2

theorem started_leaves (a : Nat) : OnPort p s (s.started p e a) ∧ (s.started p e a).lport p = (s.unqueue p e).lport p
    ∧ ∀ {g : Fld} {j : Nat}, g.offPstat = true → (s.started p e a).get g j = s.get g j := by
  obtain ⟨others, lport, get, -⟩ := trailed_leaves (s.unqueue p e) p e.rct ((s.unqueue p e).oneStep e a (s.frameOf e))
  exact ⟨(onPort_unqueue s p e).trans others, lport p, fun h => (get _ _).trans (get_unqueue s p e h)⟩

/-- A frame that is not withheld starts on the wire. -/
theorem send_starts (open_ : s.mutes p (s.frameOf e) = false) : s.send p e t d = ((s.started p e t.1.toNat).setLport p { (s.unqueue p e).lport p with
    wire := some (s.wireOf p e t (b2n (e.l != 0 && d != e.l)) (if e.l = 0 then 0 else unitsToPs ((t.1.toNat : Int) - d))) }).countSent p e
      (e.l != 0 && d != e.l) := by
  have links := linksAs_unqueue s p e
  obtain ⟨-, lport, -⟩ := started_leaves s p e t.1.toNat
  have degraded : (s.started p e t.1.toNat).linkDegraded (attOf p) = s.linkDegraded (attOf p) :=
    (trailed_leaves (s.unqueue p e) p e.rct _).2.2.2.trans (links.linkDegraded _)
  have bytes : ((s.unqueue p e).trailed p e.rct ((s.unqueue p e).oneStep e t.1.toNat (s.frameOf e))).1
      = (s.trailed p e.rct (s.oneStep e t.1.toNat (s.frameOf e))).1 := by rw [links.trailed, links.oneStep]
  have muted : ¬(s.unqueue p e).mutes p (s.frameOf e) = true := by rw [links.mutes, open_]; decide
  refine (if_neg muted).trans ?_
  unfold State.wireOf
  rw [← lport, ← bytes, ← degraded]
  rfl

theorem countSent_imm (h : e.l = 0) (moved : Bool) : s.countSent p e moved = s := if_pos h

theorem countSent_timed (h : e.l ≠ 0) (moved : Bool) :
    s.countSent p e moved = if moved then (s.bump R.LCH_CNT_MOVED p).obs 3 (p.val * 16 + 1) else (s.bump R.LCH_CNT_SENT p).obs 3 (p.val * 16) := if_neg h

theorem onPort_countSent (moved : Bool) : OnPort p s (s.countSent p e moved) := by
  have counted : ∀ (f : Fld) (loc : Nat), 0x1400000 ≤ f.addr → OnPort p s ((s.bump f p).obs 3 loc) := fun f loc h =>
    (onPort_set s _ _ _ h).trans (onPort_obs _ _ _ _)
  unfold State.countSent
  split
  · exact .refl p s
  · split
    · exact counted _ _ (by decide)
    · exact counted _ _ (by decide)

@[simp] theorem lport_countSent (moved : Bool) (q : Fin 64) : (s.countSent p e moved).lport q = s.lport q := by
  unfold State.countSent
  split
  · rfl
  · split <;> simp

/-- A timed frame that starts: on the wire, out of its queue, SENT at L and MOVED after it. -/
theorem send_timed (open_ : s.mutes p (s.frameOf e) = false) (timed : e.l ≠ 0) :
    ((s.send p e t d).lport p).wire = some (s.wireOf p e t (if d = e.l then 0 else 1) (unitsToPs ((t.1.toNat : Int) - d)))
      ∧ ((s.send p e t d).lport p).timed = (s.lport p).timed.erase e ∧ ((s.send p e t d).lport p).imm = (s.lport p).imm ∧ OnPort p s (s.send p e t d)
      ∧ (if d = e.l then s.counts (s.send p e t d) R.LCH_CNT_SENT p else s.counts (s.send p e t d) R.LCH_CNT_MOVED p) := by
  obtain ⟨others, -, get⟩ := started_leaves s p e t.1.toNat
  have moved : (e.l != 0 && d != e.l) = (d != e.l) := by rw [bne_iff_ne.mpr timed, Bool.true_and]
  have status : b2n (d != e.l) = if d = e.l then 0 else 1 := by
    by_cases h : d = e.l
    · rw [if_pos h, h, bne_self_eq_false]; rfl
    · rw [if_neg h, bne_iff_ne.mpr h]; rfl
  have queue : (s.unqueue p e).lport p = { s.lport p with timed := (s.lport p).timed.erase e } := by rw [unqueue_timed s p e timed, lport_putLport_same]
  rw [send_starts s p e t d open_, moved, status, if_neg timed, queue]
  refine ⟨?_, ?_, ?_, (others.trans (onPort_setLport _ _)).trans (onPort_countSent _ p e _), ?_⟩
  · rw [lport_countSent, lport_setLport_same]
  · rw [lport_countSent, lport_setLport_same]
  · rw [lport_countSent, lport_setLport_same]
  · rw [countSent_timed _ p e timed]
    unfold State.counts
    by_cases h : d = e.l
    · rw [if_pos h, if_neg (by rw [h, bne_self_eq_false]; decide), get_obs_calm _ _ _ _ (by decide), get_bump_tile _ (by decide), get_setLport, get (by decide)]
    · rw [if_neg h, if_pos (bne_iff_ne.mpr h), get_obs_calm _ _ _ _ (by decide), get_bump_tile _ (by decide), get_setLport, get (by decide)]

/-- An immediate frame that starts. -/
theorem send_imm (open_ : s.mutes p (s.frameOf e) = false) (imm : e.l = 0) :
    ((s.send p e t d).lport p).wire = some (s.wireOf p e t 0 0) ∧ ((s.send p e t d).lport p).imm = (s.lport p).imm.erase e
      ∧ ((s.send p e t d).lport p).timed = (s.lport p).timed ∧ OnPort p s (s.send p e t d) := by
  obtain ⟨others, -, -⟩ := started_leaves s p e t.1.toNat
  have moved : (e.l != 0 && d != e.l) = false := by rw [imm]; rfl
  have queue : (s.unqueue p e).lport p = { s.lport p with imm := (s.lport p).imm.erase e } := by rw [unqueue_imm s p e imm, lport_putLport_same]
  rw [send_starts s p e t d open_, moved, if_pos imm, queue, countSent_imm _ _ _ imm, lport_setLport_same]
  exact ⟨rfl, rfl, rfl, others.trans (onPort_setLport _ _)⟩

end send

/-! ### Launches -/

section launch

variable (s : State) (p : Fin 64) (ph : BitVec 16) (b : Byte)

theorem frameLaunch_shut (q : LaunchQueue) (h : s.portShut p = true ∨ (s.lport p).wire ≠ none) : s.frameLaunch p q ph b = s := by
  refine if_pos ?_
  rw [Bool.or_eq_true_iff, Option.isSome_iff_ne_none]
  exact h

theorem frameLaunch_free (q : LaunchQueue) (up : s.portShut p = false) (free : (s.lport p).wire = none) : s.frameLaunch p q ph b = match q with
    | .timed => s.launchTimed p (s.stamp (attOf p) true ph b)
    | .immediate => s.launchImm p (s.stamp (attOf p) true ph b)
    | .pack => s.launchPack p (s.stamp (attOf p) true ph b)
    | .supervision => s.launchSup p (s.stamp (attOf p) true ph b) :=
  if_neg (by rw [up, free]; decide)

variable (t : Time × Nat × Bool)

theorem launchTimed_eq {e : LEntry} {d : Nat} (first : s.firstTimed p = some (e, d)) :
    s.launchTimed p t = if placed (s.linkMode (attOf p)) t.1.toNat d then s.send p e t d else s := by
  unfold State.launchTimed
  rw [first]

theorem launchImm_fits {e : LEntry} {rest : List LEntry} (head : (s.lport p).imm = e :: rest) (fits : s.immFits p (s.trailLen p e.rct e.len) t.1.toNat = true) :
    s.launchImm p t = s.send p e t 0 := by
  unfold State.launchImm
  rw [head]
  exact if_pos fits

theorem launchPack_fits {f : PackFrame} (slot : (s.lport p).pack = some f) (fits : s.immFits p (s.trailLen p f.rct f.bytes.length) t.1.toNat = true) :
    s.launchPack p t = (s.trailed p f.rct f.bytes).2.setLport p { s.lport p with
      pack := none
      packTs := if f.own then some (f.bytes, t.1.toNat, s.linkDegraded (attOf p)) else (s.lport p).packTs
      wire := some ⟨(s.trailed p f.rct f.bytes).1, none, t.1.toNat, t.2.1, t.2.2, s.linkDegraded (attOf p), 0, 0⟩ } := by
  have lport := (trailed_leaves s p f.rct f.bytes).2.1 p
  unfold State.launchPack
  rw [slot]
  dsimp only
  rw [fits, if_neg (by decide), lport]

theorem launchSup_fits {f : List Byte} {n : Nat} (waits : (s.lport p).sup = some (f, n)) (fits : s.immFits p (f.length + 6) t.1.toNat = true) :
    s.launchSup p t = s.setLport p { s.lport p with
      sup := none
      wire := some ⟨addRct f n (p.val % 2 == 1), none, t.1.toNat, t.2.1, t.2.2, s.linkDegraded (attOf p), 0, 0⟩ } := by
  unfold State.launchSup
  rw [waits]
  dsimp only
  rw [fits, if_neg (by decide)]

end launch

/-! ### Late frames (R194, R197, R201) -/

section late

variable (s : State) (p : Fin 64) (e : LEntry) (rt : Nat)

/-- A late frame has left its queue and is counted. -/
def State.dropLate (s : State) (p : Fin 64) (e : LEntry) : State := (((s.unqueue p e).bump R.LCH_CNT_LATE p).lchEvt 0).obs 3 (p.val * 16 + 2)

theorem discardLate_eq : s.discardLate p e rt = (s.dropLate p e).report p e rt ((s.dropLate p e).get R.KNL_TIME_MODE_CSET_VER) 2 0
    ((s.dropLate p e).linkDegraded (attOf p)) (!(s.dropLate p e).inLc) := rfl

theorem onPort_dropLate : OnPort p s (s.dropLate p e) :=
  (((onPort_unqueue s p e).trans (onPort_set _ _ _ _ (by decide))).trans (onPort_raiseBit _ _ _ _ (by decide))).trans (onPort_obs _ _ _ _)

@[simp] theorem lport_dropLate (q : Fin 64) : (s.dropLate p e).lport q = (s.unqueue p e).lport q := by simp [State.dropLate, State.lchEvt]

theorem dropLate_counts : s.counts (s.dropLate p e) R.LCH_CNT_LATE p ∧ ((s.dropLate p e).get R.LCH_EVT).testBit 0 = true
    ∧ (s.dropLate p e).get R.LCH_RSEQ p = s.get R.LCH_RSEQ p := by
  unfold State.counts State.dropLate State.lchEvt
  refine ⟨?_, ?_, ?_⟩
  · rw [get_obs_calm _ _ _ _ (by decide), get_raiseBit_splits _ _ (by decide) (by decide), get_bump_tile _ (by decide), get_unqueue _ _ _ (by decide)]
  · rw [get_obs_calm _ _ _ _ (by decide)]
    exact raiseBit_testBit _ (by decide) (by decide) (by decide)
  · rw [get_obs_calm _ _ _ _ (by decide), get_raiseBit_splits _ _ (by decide) (by decide), get_bump_splits _ _ (by decide), get_unqueue _ _ _ (by decide)]

theorem discardLate_counts : s.counts (s.discardLate p e rt) R.LCH_CNT_LATE p := by
  unfold State.counts
  rw [discardLate_eq, get_report _ _ _ _ _ _ _ _ _ (by decide)]
  exact (dropLate_counts s p e).1

theorem onPort_discardLate : OnPort p s (s.discardLate p e rt) :=
  (onPort_dropLate s p e).trans (report_leaves _ _ _ _ _ _ _ _ _).1

/-- A late frame without a report: its event stands. -/
theorem discardLate_unasked (h : e.report = false) : s.discardLate p e rt = s.dropLate p e := by rw [discardLate_eq, report_unasked _ _ _ _ _ _ _ _ _ h]

/-- A late frame with a report, where the queue has room. -/
theorem discardLate_reports (h : e.report = true) (room : (s.lport p).reports.length < 256) : ∃ r, Reports p e rt (s.get R.LCH_RSEQ p) 2 r
    ∧ (s.discardLate p e rt).lport p = { (s.unqueue p e).lport p with reports := (s.lport p).reports ++ [r] } := by
  obtain ⟨x, put, reports, -⟩ := unqueue_put s p e
  have same : ((s.dropLate p e).lport p).reports = (s.lport p).reports := by rw [lport_dropLate, put, lport_putLport_same, reports]
  refine ⟨_, (dropLate_counts s p e).2.2 ▸ reports_bytes (s.dropLate p e) p e rt ((s.dropLate p e).get R.KNL_TIME_MODE_CSET_VER) 2 0
    ((s.dropLate p e).linkDegraded (attOf p)) (!(s.dropLate p e).inLc), ?_⟩
  rw [discardLate_eq, report_queued _ _ _ _ _ _ _ _ _ h (by rw [same]; exact room), lport_queueReport, same, lport_dropLate]

theorem frameLate_none (h : (s.lport p).timed = []) : s.frameLate p = s := by
  unfold State.frameLate
  rw [h]
  rfl

theorem frameLate_head {e : LEntry} {rest : List LEntry} {d : Nat} (head : (s.lport p).timed = e :: rest) (first : s.earliest p e = some d)
    (past : e.deadline < d) : s.frameLate p = s.discardLate p e e.l := by
  unfold State.frameLate
  rw [head, List.find?_cons_of_pos (by rw [first]; exact decide_eq_true past)]

theorem immLate_none (h : ∀ e ∈ (s.lport p).imm, s.time.lc.toNat < e.at_ + 2 ^ 48) : s.immLate p = s := by
  unfold State.immLate
  rw [List.find?_eq_none.mpr fun e he => by rw [decide_eq_true_eq]; exact Nat.not_le.mpr (h e he)]

theorem immLate_head {e : LEntry} {rest : List LEntry} (head : (s.lport p).imm = e :: rest) (past : e.at_ + 2 ^ 48 ≤ s.time.lc.toNat) :
    s.immLate p = s.discardLate p e s.rt.toNat := by
  unfold State.immLate
  rw [head, List.find?_cons_of_pos (by exact decide_eq_true past)]

end late

/-! ### The end of a frame (R201) -/

section ends

variable (s : State) (p : Fin 64)

/-- The wire is free, and the frame is counted. -/
def State.wireFreed (s : State) (p : Fin 64) : State :=
  ((s.setLport p { s.lport p with wire := none, from_ := s.time.lc.toNat }).bump R.PRT_TX_FRAMES p).obs 2 (p.val * 16 + 1)

theorem onPort_wireFreed : OnPort p s (s.wireFreed p) :=
  ((onPort_setLport s _).trans (onPort_set _ _ _ _ (by decide))).trans (onPort_obs _ _ _ _)

@[simp] theorem lport_wireFreed : (s.wireFreed p).lport p = { s.lport p with wire := none, from_ := s.time.lc.toNat } := by simp [State.wireFreed]

theorem get_wireFreed {g : Fld} {j : Nat} (frames : R.PRT_TX_FRAMES.splits g = true) (calm : g.calm = true) : (s.wireFreed p).get g j = s.get g j := by
  rw [State.wireFreed, get_obs_calm _ _ _ _ calm, get_bump_splits _ _ frames, get_setLport]

theorem wireFreed_counts : s.counts (s.wireFreed p) R.PRT_TX_FRAMES p := by
  unfold State.counts State.wireFreed
  rw [get_obs_calm _ _ _ _ (by decide), get_bump_tile _ (by decide), get_setLport]

theorem txEnd_free (h : (s.lport p).wire = none) : s.txEnd p = s := by
  unfold State.txEnd
  dsimp only
  rw [h]

theorem txEnd_ends {w : OnWire} (h : (s.lport p).wire = some w) : s.txEnd p = match w.entry with
    | none => s.wireFreed p
    | some e => (s.wireFreed p).report p e w.a w.ver w.status w.err w.degraded w.sn := by
  unfold State.txEnd
  dsimp only
  rw [h]
  rfl

/-- A frame that ends leaves the wire free and is counted, with a report or without. -/
theorem txEnd_leaves {w : OnWire} (h : (s.lport p).wire = some w) : ((s.txEnd p).lport p).wire = none ∧ ((s.txEnd p).lport p).from_ = s.time.lc.toNat
    ∧ s.counts (s.txEnd p) R.PRT_TX_FRAMES p ∧ OnPort p s (s.txEnd p) ∧ ((s.txEnd p).lport p).timed = (s.lport p).timed
    ∧ ((s.txEnd p).lport p).imm = (s.lport p).imm := by
  have freed := onPort_wireFreed s p
  rw [txEnd_ends s p h]
  cases w.entry with
  | none =>
    rw [lport_wireFreed]
    exact ⟨rfl, rfl, wireFreed_counts s p, freed, rfl, rfl⟩
  | some e =>
    obtain ⟨others, queues⟩ := report_leaves (s.wireFreed p) p e w.a w.ver w.status w.err w.degraded w.sn
    have counts : s.counts ((s.wireFreed p).report p e w.a w.ver w.status w.err w.degraded w.sn) R.PRT_TX_FRAMES p :=
      (get_report _ _ _ _ _ _ _ _ _ (by decide)).trans (wireFreed_counts s p)
    rw [queues, lport_wireFreed]
    exact ⟨rfl, rfl, counts, freed.trans others, rfl, rfl⟩

variable {w : OnWire} {e : LEntry}

/-- The report of a frame that ends, where the queue has room. -/
theorem txEnd_reports (h : (s.lport p).wire = some w) (entry : w.entry = some e) (asked : e.report = true) (room : (s.lport p).reports.length < 256) :
    ∃ r, Reports p e w.a (s.get R.LCH_RSEQ p) w.status r ∧ leAt r.bytes 12 2 = w.ver % 65536 ∧ ((s.txEnd p).lport p).reports = (s.lport p).reports ++ [r]
      ∧ (s.txEnd p).get R.LCH_RSEQ p = (s.get R.LCH_RSEQ p + 1) % 2 ^ R.LCH_RSEQ.width ∧ (s.txEnd p).get R.LCH_LOST_PEND p = 0 := by
  have seq : (s.wireFreed p).get R.LCH_RSEQ p = s.get R.LCH_RSEQ p := get_wireFreed s p (by decide) (by decide)
  have same : ((s.wireFreed p).lport p).reports = (s.lport p).reports := by rw [lport_wireFreed]
  refine ⟨_, seq ▸ reports_bytes (s.wireFreed p) p e w.a w.ver w.status w.err w.degraded w.sn, (reportBytes_fields _ _ _ _ _ _ _ _ _).2.1, ?_⟩
  obtain ⟨next, pend⟩ := queueReport_seq (s.wireFreed p) p ⟨e.ring, (s.wireFreed p).reportBytes p e w.a w.ver w.status w.err w.degraded w.sn⟩
  rw [txEnd_ends s p h, entry]
  dsimp only
  rw [report_queued _ _ _ _ _ _ _ _ _ asked (same ▸ room), lport_queueReport, ← seq]
  exact ⟨by rw [same], next, pend⟩

/-- The report of a frame that ends, where the queue is full. -/
theorem txEnd_loses (h : (s.lport p).wire = some w) (entry : w.entry = some e) (asked : e.report = true) (full : 256 ≤ (s.lport p).reports.length) :
    ((s.txEnd p).lport p).reports = (s.lport p).reports ∧ s.counts (s.txEnd p) R.LCH_TSQ_LOST p ∧ s.counts (s.txEnd p) R.LCH_LOST_PEND p
      ∧ ((s.txEnd p).get R.LCH_EVT).testBit 1 = true := by
  have same : ((s.wireFreed p).lport p).reports = (s.lport p).reports := by rw [lport_wireFreed]
  obtain ⟨lost, pend, event⟩ := loseReport_counts (s.wireFreed p) p
  have before : ∀ {f : Fld}, R.PRT_TX_FRAMES.splits f = true → f.calm = true → (s.wireFreed p).counts ((s.wireFreed p).loseReport p) f p →
      s.counts ((s.wireFreed p).loseReport p) f p := fun frames calm counts => by
    unfold State.counts at counts ⊢
    rw [counts, get_wireFreed s p frames calm]
  rw [txEnd_ends s p h, entry]
  dsimp only
  rw [report_lost _ _ _ _ _ _ _ _ _ asked (same ▸ full), lport_loseReport]
  exact ⟨same, before (by decide) (by decide) lost, before (by decide) (by decide) pend, event⟩

end ends

/-! ### The mover (R203) -/

section mover

variable (s : State) (p : Fin 64)

/-- The mover cannot write to a ring: it is not in use, or full. -/
def State.ringStops (s : State) (k : Nat) : Prop := s.flag R.LCH_RING_CFG_ENABLE k = false ∨ s.lringFull k = true

theorem ringStops_iff (k : Nat) : s.ringStops k ↔ (!s.flag R.LCH_RING_CFG_ENABLE k || s.lringFull k) = true := by
  rw [Bool.or_eq_true_iff, Bool.not_eq_true']
  exact Iff.rfl

/-- Where the next report of a ring goes. -/
def State.ringSlot (s : State) (k : Nat) : Nat := s.get R.LCH_RING_BASE k + s.get R.LCH_RING_WR k % s.lringSize k * 32

/-- The ring and the port follow a report that has been moved. -/
def State.ringMoved (s : State) (p : Fin 64) (k : Nat) (x : LchPort) : State :=
  ((((s.bumpW R.LCH_RING_WR k).lringSync k).putLport p x).obs 4 (k * 4))

/-- The submitter is told. -/
def State.ringTold (s before : State) (k : Nat) : State :=
  (if h : k < 10 then s.event ⟨k + 2, by omega⟩ 3 else s).irqEdge before 16

theorem reportMove_none (h : (s.lport p).reports = []) : s.reportMove p = s := by
  unfold State.reportMove
  dsimp only
  rw [h]

variable {r : LReport} {rest : List LReport}

theorem reportMove_held (head : (s.lport p).reports = r :: rest) (stops : s.ringStops r.ring) (held : (s.lport p).held = true) : s.reportMove p = s := by
  unfold State.reportMove
  dsimp only
  rw [head]
  exact (if_pos ((ringStops_iff s _).mp stops)).trans (if_pos held)

theorem reportMove_stops (head : (s.lport p).reports = r :: rest) (stops : s.ringStops r.ring) (free : (s.lport p).held = false) : s.reportMove p
    = (((s.setLport p { s.lport p with held := true }).bump R.LCH_RING_STAT_HELD r.ring).lchEvt 4).obs 4 (r.ring * 4 + 2) := by
  unfold State.reportMove
  dsimp only
  rw [head]
  exact (if_pos ((ringStops_iff s _).mp stops)).trans (if_neg (by rw [free]; decide))

theorem reportMove_moves (head : (s.lport p).reports = r :: rest) (runs : ¬s.ringStops r.ring) : s.reportMove p
    = ((s.devWrite 11 (s.ringSlot r.ring) r.bytes).ringMoved p r.ring { s.lport p with reports := rest, held := false }).ringTold s r.ring := by
  unfold State.reportMove
  dsimp only
  rw [head]
  exact if_neg fun h => runs ((ringStops_iff s _).mpr h)

/-- A head that stops is marked and counted once. -/
theorem ringHeld_leaves (k : Nat) (x : LchPort) (t : State) (ht : t = (((s.setLport p x).bump R.LCH_RING_STAT_HELD k).lchEvt 4).obs 4 (k * 4 + 2)) :
    t.lport p = x ∧ s.counts t R.LCH_RING_STAT_HELD k ∧ (t.get R.LCH_EVT).testBit 4 = true ∧ OnPort p s t := by
  subst ht
  unfold State.counts State.lchEvt
  refine ⟨by simp, ?_, ?_, (((onPort_setLport s x).trans (onPort_set _ _ _ _ (by decide))).trans (onPort_raiseBit _ _ _ _ (by decide))).trans (onPort_obs _ _ _ _)⟩
  · rw [get_obs_calm _ _ _ _ (by decide), get_raiseBit_splits _ _ (by decide) (by decide), get_bump_tile _ (by decide), get_setLport]
  · rw [get_obs_calm _ _ _ _ (by decide)]
    exact raiseBit_testBit _ (by decide) (by decide) (by decide)

theorem ringMoved_leaves (k : Nat) (x : LchPort) : (s.ringMoved p k x).lport p = x ∧ (s.ringMoved p k x).mem = s.mem
    ∧ (s.ringMoved p k x).get R.LCH_RING_WR k = (s.get R.LCH_RING_WR k + 1) % 2 ^ R.LCH_RING_WR.width := by
  unfold State.ringMoved State.lringSync
  refine ⟨by simp, ?_, ?_⟩
  · rw [State.obs_mem, (onPort_putLport _ p x).mem, State.setFlag_mem, State.bumpW_mem]
  · rw [get_obs_calm _ _ _ _ (by decide), get_putLport _ _ (by decide), get_setFlag_splits _ _ (by decide), get_bumpW_tile _ _ (by decide)]

theorem irqEdge_leaves (before : State) (src : Nat) : (s.irqEdge before src).mem = s.mem ∧ (s.irqEdge before src).prt = s.prt
    ∧ ∀ {g : Fld} {j : Nat}, g.calm = true → (s.irqEdge before src).get g j = s.get g j := by
  have within := within_irqEdge (p := pendWord) s before src rfl rfl
  exact ⟨within.mem, within.prt, fun calm => within.get _ _ fun k hk => (calm_word calm _ k hk).2⟩

theorem event_leaves (n : Fin 12) (b : Nat) : (s.event n b).mem = s.mem ∧ (s.event n b).prt = s.prt ∧ ∀ g j, (s.event n b).get g j = s.get g j := by
  unfold State.event
  dsimp only
  split
  · exact ⟨rfl, rfl, fun g j => get_setEng ..⟩
  · exact ⟨rfl, rfl, fun _ _ => rfl⟩

theorem ringTold_leaves (before : State) (k : Nat) : (s.ringTold before k).mem = s.mem ∧ (s.ringTold before k).prt = s.prt
    ∧ ∀ {g : Fld} {j : Nat}, g.calm = true → (s.ringTold before k).get g j = s.get g j := by
  unfold State.ringTold
  by_cases h : k < 10
  · obtain ⟨mem, prt, get⟩ := event_leaves s ⟨k + 2, by omega⟩ 3
    obtain ⟨edgeMem, edgePrt, edgeGet⟩ := irqEdge_leaves (s.event ⟨k + 2, by omega⟩ 3) before 16
    rw [dif_pos h]
    exact ⟨edgeMem.trans mem, edgePrt.trans prt, fun calm => (edgeGet calm).trans (get _ _)⟩
  · rw [dif_neg h]
    exact irqEdge_leaves s before 16

theorem memAddr_of_inSram {a n k : Nat} (h : inSram a n = true) (hk : k < n) : memAddr (a + k) = true := by
  simp only [inSram, memAddr, Bool.or_eq_true, Bool.and_eq_true, decide_eq_true_eq] at h ⊢
  omega

/-- A write of the device that its target takes. -/
theorem devWrite_lands (master : Nat) {a : Nat} {bs : List Byte} (place : inSram a bs.length = true) (answers : s.hung (targetOf a) = false) :
    (s.devWrite master a bs).bytes a bs.length = bs ∧ (∀ y, y < a ∨ a + bs.length ≤ y → (s.devWrite master a bs).byte y = s.byte y)
      ∧ (s.devWrite master a bs).prt = s.prt ∧ ∀ f i, (s.devWrite master a bs).get f i = s.get f i := by
  have lands : s.devWrite master a bs = s.setBytes a bs := if_pos (by rw [place, answers]; rfl)
  obtain ⟨m, hm⟩ := putBytes_mem s a bs
  have eq : s.setBytes a bs = (({ s with mem := m } : State)).renew a (a + bs.length) := by rw [State.setBytes, hm s rfl]
  rw [lands]
  exact ⟨bytes_setBytes bs fun i hi => memAddr_of_inSram place hi, fun y hy => byte_setBytes_out bs hy, by rw [eq]; rfl,
    get_of_words (s := s) (t := s.setBytes a bs) fun _ => by rw [eq]; rfl⟩

/-- A report that the mover takes. -/
theorem reportMove_lands (head : (s.lport p).reports = r :: rest) (runs : ¬s.ringStops r.ring) (length : r.bytes.length = 32)
    (place : inSram (s.ringSlot r.ring) 32 = true) (answers : s.hung (targetOf (s.ringSlot r.ring)) = false) :
    (s.reportMove p).bytes (s.ringSlot r.ring) 32 = r.bytes
      ∧ (∀ y, y < s.ringSlot r.ring ∨ s.ringSlot r.ring + 32 ≤ y → (s.reportMove p).byte y = s.byte y) ∧ ((s.reportMove p).lport p).reports = rest
      ∧ (s.reportMove p).get R.LCH_RING_WR r.ring = (s.get R.LCH_RING_WR r.ring + 1) % 2 ^ R.LCH_RING_WR.width := by
  obtain ⟨bytes, byte, -, kept⟩ := devWrite_lands s 11 (length.symm ▸ place) answers
  obtain ⟨lport, mem, wr⟩ := ringMoved_leaves (s.devWrite 11 (s.ringSlot r.ring) r.bytes) p r.ring { s.lport p with reports := rest, held := false }
  obtain ⟨toldMem, toldPrt, toldGet⟩ := ringTold_leaves
    ((s.devWrite 11 (s.ringSlot r.ring) r.bytes).ringMoved p r.ring { s.lport p with reports := rest, held := false }) s r.ring
  have mem := toldMem.trans mem
  rw [length] at bytes byte
  rw [reportMove_moves s p head runs]
  refine ⟨(bytes_mem_eq mem _ _).trans bytes, fun y hy => ?_, ?_, ?_⟩
  · exact (by rw [State.byte, State.byte, mem] : State.byte _ y = State.byte _ y).trans (byte y hy)
  · rw [lport_of_prt toldPrt, lport]
  · rw [toldGet (by decide), wr, kept]

end mover

/-- What a report says, as the obligation lists it. -/
theorem Reports.says {p : Fin 64} {e : LEntry} {rt n status : Nat} {r : LReport} (h : Reports p e rt n status r) : r.ring = e.ring ∧ r.bytes.length = 32
    ∧ leAt r.bytes 0 12 = rt % 2 ^ 96 ∧ leAt r.bytes 14 2 = n ∧ leAt r.bytes 16 8 = e.tag % 2 ^ 64 ∧ leAt r.bytes 28 2 % 64 = p.val
    ∧ bits (leAt r.bytes 28 2) 6 4 = status % 16 := ⟨h.ring, h.length, h.time, h.seq, h.tag, h.port, h.status⟩

/-- Settles O35: a launch, a late frame, the end of a frame and the mover, each as its operation. -/
theorem departureAndReports : Obligations.DepartureAndReports := by
  unfold Obligations.DepartureAndReports
  intro s p
  refine ⟨fun q ph b => ⟨fun gated => next_of_gated gated, fun on => ⟨fun h => next_of_clocked on (frameLaunch_shut s p ph b q h),
    fun up free => ⟨?_, ?_, ?_, ?_, ?_⟩⟩⟩, ?_, ?_, ?_, ?_, ?_, ?_, ?_, ?_, ?_⟩
  · intro e d first place timed open_
    obtain ⟨wire, queue, imm, others, counts⟩ := send_timed s p e (s.stamp (attOf p) true ph b) d open_ timed
    have sends := (frameLaunch_free s p ph b .timed up free).trans ((launchTimed_eq s p _ first).trans (if_pos place))
    exact ⟨_, next_of_clocked on sends, wire, queue, imm, others.others, counts⟩
  · intro e d first place
    have waits := (frameLaunch_free s p ph b .timed up free).trans ((launchTimed_eq s p _ first).trans (if_neg (by rw [place]; decide)))
    exact next_of_clocked on waits
  · intro e rest head imm fits open_
    obtain ⟨wire, queue, timed, others⟩ := send_imm s p e (s.stamp (attOf p) true ph b) 0 open_ imm
    have sends := (frameLaunch_free s p ph b .immediate up free).trans (launchImm_fits s p _ head fits)
    exact ⟨_, next_of_clocked on sends, wire, by rw [queue, head, List.erase_cons_head], timed, others.others⟩
  · exact fun f slot fits => next_of_clocked on ((frameLaunch_free s p ph b .pack up free).trans (launchPack_fits s p _ slot fits))
  · exact fun f n waits fits => next_of_clocked on ((frameLaunch_free s p ph b .supervision up free).trans (launchSup_fits s p _ waits fits))
  · intro e rest d head timed first past
    have drops := frameLate_head s p head first past
    have queue : (s.unqueue p e).lport p = { s.lport p with timed := rest } := by
      rw [unqueue_timed s p e timed, lport_putLport_same, head, List.erase_cons_head]
    refine ⟨fun asked => ⟨_, congrArg Host.Outcome.next (drops.trans (discardLate_unasked s p e _ asked)), ?_⟩, fun asked room => ?_⟩
    · obtain ⟨counts, event, -⟩ := dropLate_counts s p e
      dsimp only
      rw [lport_dropLate, queue]
      exact ⟨rfl, rfl, counts, event, (onPort_dropLate s p e).others⟩
    · obtain ⟨r, report, lport⟩ := discardLate_reports s p e e.l asked room
      refine ⟨r, report.says, _, congrArg Host.Outcome.next drops, ?_⟩
      dsimp only
      rw [lport, queue]
      exact ⟨rfl, rfl, discardLate_counts s p e _, (onPort_discardLate s p e _).others⟩
  · exact fun empty => congrArg Host.Outcome.next (frameLate_none s p empty)
  · intro e rest head imm past
    have drops := immLate_head s p head past
    have queue : (s.unqueue p e).lport p = { s.lport p with imm := rest } := by
      rw [unqueue_imm s p e imm, lport_putLport_same, head, List.erase_cons_head]
    refine ⟨fun asked => ⟨_, congrArg Host.Outcome.next (drops.trans (discardLate_unasked s p e _ asked)), ?_⟩, fun asked room => ?_⟩
    · dsimp only
      rw [lport_dropLate, queue]
      exact ⟨rfl, rfl, (dropLate_counts s p e).1, (onPort_dropLate s p e).others⟩
    · obtain ⟨r, report, lport⟩ := discardLate_reports s p e s.rt.toNat asked room
      refine ⟨r, report.says, _, congrArg Host.Outcome.next drops, ?_⟩
      dsimp only
      rw [lport, queue]
      exact ⟨rfl, rfl, (onPort_discardLate s p e _).others⟩
  · exact fun waits => congrArg Host.Outcome.next (immLate_none s p waits)
  · rintro (free | gated)
    · exact next_of_idle (txEnd_free s p free)
    · exact next_of_gated gated
  · intro w wire on
    obtain ⟨free, from_, counts, others, timed, imm⟩ := txEnd_leaves s p wire
    exact ⟨_, next_of_clocked on rfl, free, from_, counts, others.others, timed, imm⟩
  · intro w e wire on entry asked
    refine ⟨fun room => ?_, fun full => ⟨_, next_of_clocked on rfl, txEnd_loses s p wire entry asked full⟩⟩
    obtain ⟨r, report, version, queue⟩ := txEnd_reports s p wire entry asked room
    exact ⟨r, report.says, version, _, next_of_clocked on rfl, queue⟩
  · exact fun empty => congrArg Host.Outcome.next (reportMove_none s p empty)
  · intro r rest head _
    refine ⟨fun runs length place answers => ⟨_, rfl, reportMove_lands s p head runs length place answers⟩, fun stops free => ?_,
      fun stops held => congrArg Host.Outcome.next (reportMove_held s p head stops held)⟩
    obtain ⟨lport, counts, event, others⟩ := ringHeld_leaves s p r.ring _ _ (reportMove_stops s p head stops free)
    exact ⟨_, rfl, lport, counts, event, others.others⟩

end Sys2Proof.Machine

/-! ## Pause, underrun and reception (R179 to R187, R370) -/

namespace Sys2Proof.Machine

/-! ### Pause (R181) -/

section pause

variable (s : State) (p : Fin 64)

theorem txResume_leaves : (s.txResume p).lport p = { s.lport p with from_ := s.time.lc.toNat } ∧ (s.txResume p).flag R.PRT_STAT_PAUSED p = false
    ∧ (s.txResume p).mem = s.mem ∧ (s.txResume p).link (attOf p) = s.link (attOf p)
    ∧ ∀ {g : Fld} {j : Nat}, R.PRT_STAT_PAUSED.splits g = true → (s.txResume p).get g j = s.get g j := by
  unfold State.txResume
  refine ⟨by simp, ?_, by simp [State.setLport], by simp, fun h => ?_⟩
  · rw [flag_setLport]
    exact flag_setFlag_tile s false (by decide) rfl
  · rw [get_setLport, get_setFlag_splits _ _ h]

/-- The watchdog has ended a pause: the port sends, ignores PAUSE frames from now on, and counts it. -/
def State.pauseBroken (s : State) (p : Fin 64) : State :=
  ((((s.setLink (attOf p) { s.link (attOf p) with ignoreAt := s.time.lc.toNat }).txResume p).setFlag R.PRT_STAT_PAUSE_IGNORING p true).bump
    R.PRT_PAUSE_CNT_PAUSE_BROKEN p).raiseBit R.PRT_EVT p 3

theorem pauseBreak_breaks (paused : s.flag R.PRT_STAT_PAUSED p = true)
    (long : s.past (s.link (attOf p)).pausedAt (s.get R.PRT_PAUSE_PAUSE_MAX p) 10000 = true) :
    s.pauseBreak p = (s.pauseBroken p).raise fsPortPauseBroken p.val := if_pos (by rw [paused, long]; rfl)

theorem pauseBreak_stays (h : s.flag R.PRT_STAT_PAUSED p = false ∨ s.past (s.link (attOf p)).pausedAt (s.get R.PRT_PAUSE_PAUSE_MAX p) 10000 = false) :
    s.pauseBreak p = s :=
  if_neg fun e => by
    obtain ⟨paused, long⟩ := Bool.and_eq_true_iff.mp e
    rcases h with h | h
    · exact Bool.false_ne_true (h.symm.trans paused)
    · exact Bool.false_ne_true (h.symm.trans long)

theorem pauseBroken_leaves : (s.pauseBroken p).flag R.PRT_STAT_PAUSED p = false ∧ (s.pauseBroken p).flag R.PRT_STAT_PAUSE_IGNORING p = true
    ∧ s.counts (s.pauseBroken p) R.PRT_PAUSE_CNT_PAUSE_BROKEN p ∧ (s.pauseBroken p).lport p = { s.lport p with from_ := s.time.lc.toNat }
    ∧ (s.pauseBroken p).link (attOf p) = { s.link (attOf p) with ignoreAt := s.time.lc.toNat } ∧ (s.pauseBroken p).mem = s.mem := by
  obtain ⟨lport, paused, mem, link, get⟩ := txResume_leaves (s.setLink (attOf p) { s.link (attOf p) with ignoreAt := s.time.lc.toNat }) p
  unfold State.counts State.pauseBroken
  refine ⟨?_, ?_, ?_, ?_, ?_, ?_⟩
  · rw [flag_raiseBit_splits _ _ (by decide) (by decide), flag_bump_splits _ _ (by decide), flag_setFlag_splits _ _ (by decide), paused]
  · rw [flag_raiseBit_splits _ _ (by decide) (by decide), flag_bump_splits _ _ (by decide)]
    exact flag_setFlag_tile _ true (by decide) rfl
  · rw [get_raiseBit_splits _ _ (by decide) (by decide), get_bump_tile _ (by decide), get_setFlag_splits _ _ (by decide), get (by decide), get_setLink]
  · rw [lport_raiseBit, lport_bump, lport_setFlag, lport]
    rfl
  · rw [link_raiseBit, link_bump, link_setFlag, link, link_setLink_same]
  · rw [State.raiseBit_mem, State.bump_mem, State.setFlag_mem, mem]
    rfl

theorem pauseEnd_stays
    (h : s.flag R.PRT_STAT_PAUSED p = false
      ∨ s.past (s.link (attOf p)).quantaAt ((s.link (attOf p)).quanta * 64 * bytePs (s.linkMode (attOf p))) 1000000000000 = false) : s.pauseEnd p = s :=
  if_neg fun e => by
    obtain ⟨paused, long⟩ := Bool.and_eq_true_iff.mp e
    rcases h with h | h
    · exact Bool.false_ne_true (h.symm.trans paused)
    · exact Bool.false_ne_true (h.symm.trans long)

theorem pauseEnd_ends (paused : s.flag R.PRT_STAT_PAUSED p = true)
    (long : s.past (s.link (attOf p)).quantaAt ((s.link (attOf p)).quanta * 64 * bytePs (s.linkMode (attOf p))) 1000000000000 = true) :
    s.pauseEnd p = s.txResume p := if_pos (by rw [paused, long]; rfl)

/-- A PAUSE frame that is honoured (R181). -/
def State.pausedBy (s : State) (p : Fin 64) (n : Nat) : State :=
  let x := s.link (attOf p)
  (s.setLink (attOf p) { x with
    quanta := n
    quantaAt := s.time.lc.toNat
    pausedAt := if s.flag R.PRT_STAT_PAUSED p then x.pausedAt else s.time.lc.toNat }).setFlag R.PRT_STAT_PAUSED p (n != 0)

/-- One that ends the pause lets frames start from now on. -/
theorem pauseFrame_honoured (n : Nat) (en : s.flag R.PRT_CFG_RX_PAUSE_EN p = true) (heeded : s.flag R.PRT_STAT_PAUSE_IGNORING p = false) : s.pauseFrame p n
    = (fun t : State => if (s.bump R.PRT_PAUSE_CNT_PAUSE_RX p).flag R.PRT_STAT_PAUSED p && n = 0 then t.setLport p { t.lport p with from_ := t.time.lc.toNat } else t)
      ((s.bump R.PRT_PAUSE_CNT_PAUSE_RX p).pausedBy p n) := by
  refine if_neg ?_
  rw [flag_bump_splits _ _ (by decide), flag_bump_splits _ _ (by decide), en, heeded]
  decide

theorem pauseFrame_leaves (n : Nat) (en : s.flag R.PRT_CFG_RX_PAUSE_EN p = true) (heeded : s.flag R.PRT_STAT_PAUSE_IGNORING p = false) :
    (s.pauseFrame p n).flag R.PRT_STAT_PAUSED p = (n != 0)
      ∧ (s.pauseFrame p n).link (attOf p) = { s.link (attOf p) with
          quanta := n
          quantaAt := s.time.lc.toNat
          pausedAt := if s.flag R.PRT_STAT_PAUSED p then (s.link (attOf p)).pausedAt else s.time.lc.toNat }
      ∧ s.counts (s.pauseFrame p n) R.PRT_PAUSE_CNT_PAUSE_RX p ∧ (s.pauseFrame p n).mem = s.mem := by
  have marked : ((s.bump R.PRT_PAUSE_CNT_PAUSE_RX p).pausedBy p n).flag R.PRT_STAT_PAUSED p = (n != 0) := flag_setFlag_tile _ _ (by decide) rfl
  have link : ((s.bump R.PRT_PAUSE_CNT_PAUSE_RX p).pausedBy p n).link (attOf p) = { s.link (attOf p) with
      quanta := n
      quantaAt := s.time.lc.toNat
      pausedAt := if s.flag R.PRT_STAT_PAUSED p then (s.link (attOf p)).pausedAt else s.time.lc.toNat } := by
    unfold State.pausedBy
    rw [link_setFlag, link_setLink_same, link_bump, State.bump_time, flag_bump_splits _ _ (by decide)]
  have counts : s.counts ((s.bump R.PRT_PAUSE_CNT_PAUSE_RX p).pausedBy p n) R.PRT_PAUSE_CNT_PAUSE_RX p := by
    unfold State.counts State.pausedBy
    rw [get_setFlag_splits _ _ (by decide), get_setLink, get_bump_tile _ (by decide)]
  have mem : ((s.bump R.PRT_PAUSE_CNT_PAUSE_RX p).pausedBy p n).mem = s.mem := by
    unfold State.pausedBy
    rw [State.setFlag_mem]
    exact State.bump_mem ..
  rw [pauseFrame_honoured s p n en heeded]
  dsimp only
  split
  · rw [flag_setLport, link_setLport, State.counts, get_setLport]
    exact ⟨marked, link, counts, mem⟩
  · exact ⟨marked, link, counts, mem⟩

theorem pauseIgnoreEnd_leaves : (s.setFlag R.PRT_STAT_PAUSE_IGNORING p false).flag R.PRT_STAT_PAUSE_IGNORING p = false
    ∧ (s.setFlag R.PRT_STAT_PAUSE_IGNORING p false).prt = s.prt ∧ (s.setFlag R.PRT_STAT_PAUSE_IGNORING p false).mem = s.mem
    ∧ (s.setFlag R.PRT_STAT_PAUSE_IGNORING p false).flag R.PRT_STAT_PAUSED p = s.flag R.PRT_STAT_PAUSED p :=
  ⟨flag_setFlag_tile s false (by decide) rfl, State.setFlag_prt .., State.setFlag_mem .., flag_setFlag_splits s false (by decide)⟩

/-! ### Underrun (R181) -/

/-- The frame on the wire is spoiled; the underrun counts, and STEP rises. -/
def State.spoiled (s : State) (p : Fin 64) (w : OnWire) : State :=
  ((((s.setLport p { s.lport p with wire := some { w with status := 3 } }).bump R.PRT_UNDERRUN p).obs 2 (p.val * 16 + 5)).set R.PRT_TX_START p
    (s.get R.PRT_TX_START p + 1)).raiseBit R.PRT_EVT p 4

theorem underrun_spoils {w : OnWire} (wire : (s.lport p).wire = some w) (fresh : w.status ≠ 3) (step : s.get R.PRT_TX_START p ≠ 15) :
    s.underrun p = (s.spoiled p w).raise fsPortUnderrun p.val := by
  unfold State.underrun
  dsimp only
  rw [wire]
  exact if_neg fun h => h.elim fresh step

theorem underrun_stays (h : (s.lport p).wire = none ∨ s.get R.PRT_TX_START p = 15) : s.underrun p = s := by
  unfold State.underrun
  dsimp only
  cases wire : (s.lport p).wire with
  | none => rfl
  | some w => exact if_pos (.inr (h.resolve_left (by rw [wire]; exact nofun)))

theorem spoiled_leaves (w : OnWire) : (s.spoiled p w).lport p = { s.lport p with wire := some { w with status := 3 } } ∧ s.counts (s.spoiled p w) R.PRT_UNDERRUN p
    ∧ (s.spoiled p w).get R.PRT_TX_START p = (s.get R.PRT_TX_START p + 1) % 2 ^ R.PRT_TX_START.width ∧ (s.spoiled p w).mem = s.mem := by
  unfold State.counts State.spoiled
  refine ⟨by simp, ?_, ?_, ?_⟩
  · rw [get_raiseBit_splits _ _ (by decide) (by decide), get_set_splits _ _ (by decide), get_obs_calm _ _ _ _ (by decide), get_bump_tile _ (by decide), get_setLport]
  · rw [get_raiseBit_splits _ _ (by decide) (by decide), get_set_tile _ _ (by decide)]
  · rw [State.raiseBit_mem, State.set_mem, State.obs_mem, State.bump_mem]
    rfl

end pause

end Sys2Proof.Machine

/-! ## Frames that arrive (R168, R179, R180, R370) -/

namespace Sys2Proof.Machine

theorem Within.srv {p : Nat → Bool} {s t : State} (h : Within p s t) : t.srv = s.srv := by rw [← h.rest]
theorem Within.pck {p : Nat → Bool} {s t : State} (h : Within p s t) : t.pck = s.pck := by rw [← h.rest]

/-! ### Drops (R180) -/

section drops

variable (s : State) (p : Fin 64) (k : Nat)

theorem rxDropFld_tile : (rxDropFld k).tile = true := by
  have high : 0x1400000 ≤ (rxDropFld k).addr := Nat.le_trans (by decide) (Nat.le_add_right R.PRT_RX_DROP_FCS.addr (4 * k))
  have words : (rxDropFld k).words = 1 := by simp [rxDropFld, Fld.words]
  have stride : (rxDropFld k).stride = 0x4000 := rfl
  have width : (rxDropFld k).width = 32 := rfl
  simp [Fld.tile, high, words, stride, width]

theorem rxDropFld_calm : (rxDropFld k).calm = true := by
  have high : 0x500038 ≤ (rxDropFld k).addr := Nat.le_trans (by decide) (Nat.le_add_right R.PRT_RX_DROP_FCS.addr (4 * k))
  unfold Fld.calm
  rw [decide_eq_true high]
  rfl

/-- A frame that is dropped is counted, and nothing else follows. -/
theorem rxDrop_leaves : s.counts (s.rxDrop p k) (rxDropFld k) p ∧ (s.rxDrop p k).mem = s.mem ∧ (s.rxDrop p k).prt = s.prt ∧ (s.rxDrop p k).srv = s.srv
    ∧ (s.rxDrop p k).pck = s.pck := by
  have within : Within (fun _ => true) s (s.rxDrop p k) := (within_set _ _ _ _ fun _ _ => rfl).trans ((within_obs _ _ _ _).mono fun _ h => Bool.noConfusion h)
  refine ⟨?_, within.mem, within.prt, within.srv, within.pck⟩
  unfold State.counts State.rxDrop
  rw [get_obs_calm _ _ _ _ (rxDropFld_calm k), get_bump_tile _ (rxDropFld_tile k)]

end drops

/-! ### What a port does with a frame (R179) -/

section receive

variable (s : State) (p : Fin 64) (b : List Byte) (fcsOk codeErr : Bool) (phase : BitVec 16) (bitIdx : Byte)

theorem frameReceive_recal (h : s.get R.PRT_STAT_LINK_STATE p = 6) : s.frameReceive p b fcsOk codeErr phase bitIdx = s.rxDrop p 7 := if_pos h

theorem frameReceive_down (recal : s.get R.PRT_STAT_LINK_STATE p ≠ 6) (up : s.get R.PRT_STAT_LINK_STATE p ≠ 4) (settle : s.get R.PRT_STAT_LINK_STATE p ≠ 3) :
    s.frameReceive p b fcsOk codeErr phase bitIdx = s := (if_neg recal).trans (if_pos ⟨up, settle⟩)

theorem frameReceive_bad (up : s.get R.PRT_STAT_LINK_STATE p = 4 ∨ s.get R.PRT_STAT_LINK_STATE p = 3) {k : Nat} (bad : s.rxBad p b fcsOk codeErr = some k) :
    s.frameReceive p b fcsOk codeErr phase bitIdx = s.rxDrop p k := by
  have recal : s.get R.PRT_STAT_LINK_STATE p ≠ lkRECAL := fun h => by rcases up with up | up <;> exact absurd (up.symm.trans h) (by decide)
  have live : ¬(s.get R.PRT_STAT_LINK_STATE p ≠ lkUP ∧ s.get R.PRT_STAT_LINK_STATE p ≠ lkSETTLE) := fun ⟨a, c⟩ => up.elim a c
  unfold State.frameReceive
  dsimp only
  rw [if_neg recal, if_neg live, bad]

/-- A port that is UP takes a good frame; it is of no pair that works and no Brace port. -/
structure State.Fair (s : State) (p : Fin 64) (b : List Byte) (fcsOk codeErr : Bool) : Prop where
  up : s.get R.PRT_STAT_LINK_STATE p = 4
  good : s.rxBad p b fcsOk codeErr = none
  single : s.workPair p = none
  plain : s.bracePort p = false

variable {s p b fcsOk codeErr}

theorem frameReceive_fair (h : s.Fair p b fcsOk codeErr) : s.frameReceive p b fcsOk codeErr phase bitIdx = match parseFrame b (s.packType p) with
    | .malformed => s.rxDrop p 4
    | .pause q => if s.accepts p b then s.pauseFrame p q else s.rxDrop p 6
    | .control => s.rxDrop p 6
    | .frame f => if s.accepts p b then s.rxDeliver p b f none phase bitIdx else s.rxDrop p 6 := by
  have trailer : ¬((s.workPair p).isSome || s.bracePort p) = true := by
    rw [h.single, h.plain]
    decide
  have recal : s.get R.PRT_STAT_LINK_STATE p ≠ lkRECAL := by
    rw [h.up]
    decide
  have live : ¬(s.get R.PRT_STAT_LINK_STATE p ≠ lkUP ∧ s.get R.PRT_STAT_LINK_STATE p ≠ lkSETTLE) := fun e => e.1 h.up
  unfold State.frameReceive
  dsimp only
  rw [if_neg recal, if_neg live, h.good]
  dsimp only
  rw [if_neg trailer]
  rfl

/-- A frame of no class goes to the host (R179). -/
theorem rxDeliver_host {f : Frame} (cls : f.cls = 0) : s.rxDeliver p b f none phase bitIdx = s.hostForward p b (s.rxMeta p 0 phase bitIdx) := by
  have none_ : rxClass f b.length = 0 := by simp [rxClass, cls]
  unfold State.rxDeliver
  dsimp only
  rw [none_, if_neg (by rw [Bool.false_and]; decide), if_pos rfl]

end receive

/-! ### The host-forward ring (R370) -/

section forward

variable (s : State) (p : Fin 64) (b md : List Byte)

/-- Where the next frame for the host goes. -/
def State.forwardSlot (s : State) : Nat := s.get R.HST_FWD_BASE + s.get R.HST_FWD_WR % 2 ^ s.get R.HST_FWD_CFG_SIZE_LOG2 * 2048

/-- An entry of the host-forward ring. -/
def forwardEntry (b md : List Byte) : List Byte := md ++ leBytes 2 b.length ++ List.replicate 14 0#8 ++ b

theorem rxMeta_length (cls : Nat) (phase : BitVec 16) (bitIdx : Byte) : (s.rxMeta p cls phase bitIdx).length = 16 := by
  simp [State.rxMeta, leBytes_length]

theorem forwardEntry_length (h : md.length = 16) : (forwardEntry b md).length = 32 + b.length := by
  simp only [forwardEntry, List.length_append, leBytes_length, List.length_replicate, h]

theorem hostForward_goes (fwd : s.flag R.PRT_CFG_HOST_FWD p = true) (en : s.flag R.HST_FWD_CFG_ENABLE = true) (fits : b.length ≤ 2016)
    (room : s.ringHeld R.HST_FWD_WR R.HST_FWD_RD < 2 ^ s.get R.HST_FWD_CFG_SIZE_LOG2) : s.hostForward p b md
      = (((s.devWrite 12 s.forwardSlot (forwardEntry b md)).bumpW R.HST_FWD_WR).delivered p md).irqEdge s 17 := by
  have full : ¬(decide (b.length > 2016) || !s.flag R.HST_FWD_CFG_ENABLE || decide (s.ringHeld R.HST_FWD_WR R.HST_FWD_RD ≥ 2 ^ s.get R.HST_FWD_CFG_SIZE_LOG2)) = true := by
    rw [en, decide_eq_false (Nat.not_lt.mpr fits), decide_eq_false (Nat.not_le.mpr room)]
    decide
  exact (if_neg (by rw [fwd]; decide)).trans (if_neg full)

/-- The newest metadata of a port, and its count of frames. -/
def State.newest (s : State) (p : Fin 64) (md : List Byte) : State := ((s.set R.PRT_LAST_RX p (ofLe md)).bump R.PRT_RX_FRAMES p).obs 2 (p.val * 16)

theorem newest_leaves : (s.newest p md).mem = s.mem ∧ s.counts (s.newest p md) R.PRT_RX_FRAMES p ∧ (s.newest p md).get R.HST_FWD_WR = s.get R.HST_FWD_WR := by
  unfold State.counts State.newest
  refine ⟨by simp, ?_, ?_⟩
  · rw [get_obs_calm _ _ _ _ (by decide), get_bump_tile _ (by decide), get_set_splits _ _ (by decide)]
  · rw [get_obs_calm _ _ _ _ (by decide), get_bump_splits _ _ (by decide), get_set_splits _ _ (by decide)]

theorem delivered_eq : s.delivered p md = if (leAt md 14 2).testBit 11 then ((s.newest p md).bump R.PRT_NOTS p).obs 2 (p.val * 16 + 3) else s.newest p md := rfl

/-- A delivered frame leaves the memory, and is counted. -/
theorem delivered_leaves : (s.delivered p md).mem = s.mem ∧ s.counts (s.delivered p md) R.PRT_RX_FRAMES p
    ∧ (s.delivered p md).get R.HST_FWD_WR = s.get R.HST_FWD_WR := by
  obtain ⟨mem, counted, ring⟩ := newest_leaves s p md
  rw [delivered_eq]
  split
  · refine ⟨by simpa using mem, ?_, ?_⟩
    · unfold State.counts at counted ⊢
      rw [get_obs_calm _ _ _ _ (by decide), get_bump_splits _ _ (by decide), counted]
    · rw [get_obs_calm _ _ _ _ (by decide), get_bump_splits _ _ (by decide), ring]
  · exact ⟨mem, counted, ring⟩

/-- A frame in the host-forward ring: metadata, length and bytes (R370). -/
theorem hostForward_lands (fwd : s.flag R.PRT_CFG_HOST_FWD p = true) (en : s.flag R.HST_FWD_CFG_ENABLE = true) (fits : b.length ≤ 2016)
    (room : s.ringHeld R.HST_FWD_WR R.HST_FWD_RD < 2 ^ s.get R.HST_FWD_CFG_SIZE_LOG2) (length : md.length = 16)
    (place : inSram s.forwardSlot (32 + b.length) = true) (answers : s.hung (targetOf s.forwardSlot) = false) :
    (s.hostForward p b md).bytes s.forwardSlot (32 + b.length) = forwardEntry b md
      ∧ (∀ x, x < s.forwardSlot ∨ s.forwardSlot + (32 + b.length) ≤ x → (s.hostForward p b md).byte x = s.byte x)
      ∧ (s.hostForward p b md).get R.HST_FWD_WR = (s.get R.HST_FWD_WR + 1) % 2 ^ R.HST_FWD_WR.width ∧ s.counts (s.hostForward p b md) R.PRT_RX_FRAMES p := by
  have size := forwardEntry_length b md length
  obtain ⟨bytes, byte, -, kept⟩ := devWrite_lands s 12 (size.symm ▸ place) answers
  obtain ⟨mem, counts, ring⟩ := delivered_leaves ((s.devWrite 12 s.forwardSlot (forwardEntry b md)).bumpW R.HST_FWD_WR) p md
  obtain ⟨edgeMem, -, edge⟩ := irqEdge_leaves (((s.devWrite 12 s.forwardSlot (forwardEntry b md)).bumpW R.HST_FWD_WR).delivered p md) s 17
  have mem := edgeMem.trans (mem.trans (State.bumpW_mem ..))
  rw [size] at bytes byte
  rw [hostForward_goes s p b md fwd en fits room]
  refine ⟨(bytes_mem_eq mem _ _).trans bytes, fun x hx => ?_, ?_, ?_⟩
  · exact (by rw [State.byte, State.byte, mem] : State.byte _ x = State.byte _ x).trans (byte x hx)
  · rw [edge (by decide), ring, State.bumpW, get_set_own _ _ (by decide), kept]
  · unfold State.counts at counts ⊢
    rw [edge (by decide), counts, State.bumpW, get_set_apart (.inr ?_), kept]
    show 0x50030C ≤ R.PRT_RX_FRAMES.at p
    exact Nat.le_trans (by decide) (Nat.le_add_right ..)

end forward

/-! ### Counters that a write clears (R187) -/

section clear

variable {s : State} {m : Master} (p : Fin 64) (v : Word)

theorem cntClr_single : writeGroup (R.PRT_CNT_CLR.at p) = none ∧ enableAt (R.PRT_CNT_CLR.at p) = none ∧ R.PRT_CFG_ENABLE.hit 64 (R.PRT_CNT_CLR.at p) = none := by
  revert p; decide +kernel

theorem cntClr_taken (s : State) : s.preHost m (R.PRT_CNT_CLR.at p) v = none ∧ s.preKnl m (R.PRT_CNT_CLR.at p) v = none
    ∧ s.prePort m (R.PRT_CNT_CLR.at p) v = some (if v.getLsbD 0 then s.cntClr p else s) := by
  fin_cases p <;> exact ⟨rfl, rfl, rfl⟩

theorem exec_prtCntClr (h : s.writes m (R.PRT_CNT_CLR.at p)) :
    exec (.prtCntClr m p v) s = .next ((if v.getLsbD 0 then s.quiet.cntClr p else s.quiet).irqFollow s.quiet) := by
  have hr := rights_of_writes h
  have at_ : R.PRT_CNT_CLR.at p = 0x30000FC + 0x4000 * p.val := rfl
  obtain ⟨ha, -, hm⟩ := h
  obtain ⟨single, noEnable, noPort⟩ := cntClr_single p
  obtain ⟨host, knl, port⟩ := cntClr_taken (m := m) p v s.quiet
  refine congrArg Host.Outcome.next ?_
  rw [busWrite32_open ha (by omega) v hr (engMem_below (by omega)) hm, enabledWrite_single single noEnable noPort, wordWrite_prePort host knl port]

/-- A run of words that is cleared. -/
theorem word_setWordsN_zero (s : State) {a n : Nat} (above : 0x1400000 ≤ a) : ∀ k < n, (s.setWordsN a 0 n).word (a + 4 * k) = 0 := by
  induction n generalizing s a with
  | zero => exact fun k hk => absurd hk (by omega)
  | succ n ih =>
    intro k hk
    unfold State.setWordsN
    rw [Nat.zero_div]
    match k with
    | 0 =>
      rw [word_setWordsN_ne _ _ fun j _ => by omega]
      exact word_setWord_same _ (rwsOff_above above)
    | k + 1 =>
      have place : a + 4 * (k + 1) = a + 4 + 4 * k := by omega
      rw [place]
      exact ih _ (by omega) k (by omega)

theorem cntClr_clears (s : State) : (∀ k < 17, (s.cntClr p).word (R.PRT_RX_FRAMES.at p + 4 * k) = 0) ∧ (s.cntClr p).prt = s.prt ∧ (s.cntClr p).mem = s.mem := by
  obtain ⟨r, hr⟩ := setWordsN_regs s (R.PRT_RX_FRAMES.at p) 0 17
  refine ⟨word_setWordsN_zero s (Nat.le_trans (by decide) (Nat.le_add_right ..)), ?_, ?_⟩
  · rw [State.cntClr, hr]
  · rw [State.cntClr, hr]

theorem counters_calm (k : Nat) : pendWord (R.PRT_RX_FRAMES.at p + 4 * k) = false := by
  have at_ : R.PRT_RX_FRAMES.at p = 0x3000100 + 0x4000 * p.val := rfl
  exact pendWord_apart (.inr (by omega))

theorem prtCntClr_completes (h : s.writes m (R.PRT_CNT_CLR.at p)) :
    (v.getLsbD 0 = true → Completes (.prtCntClr m p v) s fun t => (∀ k, k < 17 → t.word (R.PRT_RX_FRAMES.at p + 4 * k) = 0) ∧ t.prt = s.prt ∧ t.mem = s.mem)
      ∧ (v.getLsbD 0 = false → Completes (.prtCntClr m p v) s fun t => ∀ k, k < 17 →
        t.word (R.PRT_RX_FRAMES.at p + 4 * k) = s.word (R.PRT_RX_FRAMES.at p + 4 * k)) := by
  have run := exec_prtCntClr p v h
  refine ⟨fun clears => ?_, fun keeps => ?_⟩
  · obtain ⟨zero, prt, mem⟩ := cntClr_clears p s.quiet
    have follow := within_irqFollow (s.quiet.cntClr p) s.quiet
    rw [if_pos clears] at run
    exact ⟨_, run, fun k hk => (follow.word _ (counters_calm p k)).trans (zero k hk), follow.prt.trans prt, follow.mem.trans mem⟩
  · have follow := within_irqFollow s.quiet s.quiet
    rw [if_neg (by rw [keeps]; decide)] at run
    exact ⟨_, run, fun k _ => (follow.word _ (counters_calm p k)).trans (word_quiet s _)⟩

end clear

/-! ### Pairs (R184, R185) -/

section pairs

variable (s : State) (j : Fin 32)

theorem prpExpire_stays (src seq : Nat) (h : sget s.prt.prp[j] (Config.prpHash src seq % 65536) = none) : s.prpExpire j src seq = s := by
  unfold State.prpExpire
  dsimp only
  rw [h]

/-- A key that has been in the window for FORGET leaves it. -/
theorem prpExpire_leaves {src seq : Nat} {k : PrpKey} (held : sget s.prt.prp[j] (Config.prpHash src seq % 65536) = some k) (hs : k.src = src) (hq : k.seq = seq)
    (old : s.get R.PRT_PRP_CFG_FORGET (2 * j.val) * 2 ^ 48 ≤ (s.time.lc.toNat - k.lc) * 1000) :
    s.prpExpire j src seq = { s with prt := { s.prt with prp := s.prt.prp.set j (s.prt.prp[j].filter fun x => x.1 != Config.prpHash src seq % 65536) } } := by
  unfold State.prpExpire
  dsimp only
  rw [held]
  dsimp only
  exact if_pos (by rw [hs, hq, decide_eq_true old]; simp)

/-- What a pair's even port holds when it sends a supervision frame. -/
def PortSt.supervised (x : PortSt) (now : Nat) : PortSt := { x with rctSeq := (x.rctSeq + 1) % 65536, supSeq := (x.supSeq + 1) % 65536, supAt := some now }

/-- A supervision frame waits on both ports of the pair. -/
def State.supWaits (s : State) (j : Fin 32) (f : List Byte × Nat) : State :=
  let s := s.setLport (evenPort j) { s.lport (evenPort j) with sup := some f }
  s.setLport (oddPort j) { s.lport (oddPort j) with sup := some f }

theorem odd_ne_even : oddPort j ≠ evenPort j := fun e => by
  have := congrArg Fin.val e
  simp only [oddPort, evenPort] at this
  omega

theorem supWaits_lport (f : List Byte × Nat) : ((s.supWaits j f).lport (evenPort j)).sup = some f ∧ ((s.supWaits j f).lport (oddPort j)).sup = some f := by
  unfold State.supWaits
  exact ⟨by rw [lport_setLport_ne _ _ (odd_ne_even j).symm, lport_setLport_same], by rw [lport_setLport_same]⟩

theorem prpSup_stays (h : s.prpOn j = false ∨ (s.link (attOf (evenPort j))).supAt.all (s.past · 2) = false ∨ s.flag R.PRT_PRP_CFG_SUP_EN (2 * j.val) = false) :
    s.prpSup j = s := by
  refine if_pos ?_
  rcases h with h | h | h <;> simp [h]

theorem prpSup_sends (on : s.prpOn j = true) (en : s.flag R.PRT_PRP_CFG_SUP_EN (2 * j.val) = true)
    (due : (s.link (attOf (evenPort j))).supAt.all (s.past · 2) = true) : ∃ u : State, s.prpSup j = u.supWaits j (s.supFrame j, (s.link (attOf (evenPort j))).rctSeq)
      ∧ u.regs = s.regs ∧ u.link (attOf (evenPort j)) = (s.link (attOf (evenPort j))).supervised s.time.lc.toNat := by
  refine ⟨_, if_neg (by rw [on, en, due]; decide), rfl, ?_⟩
  simp [PortSt.supervised]

end pairs

/-! ### The obligation -/

/-- A gated group does nothing with pauses and frames (R15). -/
theorem pauses_gated {s : State} {p : Fin 64} (h : s.gated (p.val / 8) = true) : exec (.pauseWatchdog p) s = .next s ∧ exec (.pauseEnd p) s = .next s
    ∧ exec (.pauseIgnoreEnd p) s = .next s ∧ exec (.txUnderrun p) s = .next s
    ∧ ∀ b fcsOk codeErr phase bitIdx, exec (.frameReceive p b fcsOk codeErr phase bitIdx) s = .next s :=
  ⟨next_of_gated h, next_of_gated h, next_of_gated h, next_of_gated h, fun _ _ _ _ _ => next_of_gated h⟩

/-- Settles O33: pause, underrun, reception, the clearing of counters and the pair, each as its operation. -/
theorem pausesAndReception : Obligations.PausesAndReception := by
  unfold Obligations.PausesAndReception
  intro s p
  refine ⟨pauses_gated, fun on => ⟨fun paused long => ?_, fun h => next_of_clocked on (pauseBreak_stays s p h), fun h => next_of_clocked on (pauseEnd_stays s p h),
    fun paused long => ?_, fun ended => ?_, fun h => ?_, fun w wire fresh step => ?_, fun h => next_of_clocked on (underrun_stays s p h),
    fun b fcsOk codeErr phase bitIdx => ?_⟩, fun m v h => prtCntClr_completes p v h, fun j src seq k => ⟨?_, ?_⟩, fun j => ⟨?_, ?_⟩⟩
  · obtain ⟨free, ignoring, counts, lport, link, mem⟩ := pauseBroken_leaves s p
    exact ⟨s.pauseBroken p, free, ignoring, counts, lport, link, mem, next_of_clocked on (pauseBreak_breaks s p paused long)⟩
  · obtain ⟨lport, free, mem, -⟩ := txResume_leaves s p
    exact ⟨_, next_of_clocked on (pauseEnd_ends s p paused long), free, lport, mem⟩
  · exact ⟨_, next_of_clocked on (if_pos ended), pauseIgnoreEnd_leaves s p⟩
  · exact next_of_clocked on (if_neg (Bool.eq_false_iff.mp h))
  · obtain ⟨lport, counts, start, mem⟩ := spoiled_leaves s p w
    exact ⟨s.spoiled p w, lport, counts, start, mem, next_of_clocked on (underrun_spoils s p wire fresh step)⟩
  · have drops : ∀ {k : Nat}, s.frameReceive p b fcsOk codeErr phase bitIdx = s.rxDrop p k →
        Completes (.frameReceive p b fcsOk codeErr phase bitIdx) s fun t => s.counts t (rxDropFld k) p ∧ t.mem = s.mem ∧ t.prt = s.prt ∧ t.srv = s.srv ∧ t.pck = s.pck :=
      fun eq => ⟨_, next_of_clocked on eq, rxDrop_leaves s p _⟩
    have fair := fun (h : s.get R.PRT_STAT_LINK_STATE p = 4 ∧ s.rxBad p b fcsOk codeErr = none ∧ s.workPair p = none ∧ s.bracePort p = false) =>
      frameReceive_fair (fcsOk := fcsOk) (codeErr := codeErr) phase bitIdx ⟨h.1, h.2.1, h.2.2.1, h.2.2.2⟩
    refine ⟨fun recal => drops (frameReceive_recal s p b fcsOk codeErr phase bitIdx recal),
      fun recal up settle => next_of_clocked on (frameReceive_down s p b fcsOk codeErr phase bitIdx recal up settle),
      fun up k bad => drops (frameReceive_bad s p b fcsOk codeErr phase bitIdx up bad), ?_, ?_, ?_, ?_, ?_⟩
    · exact fun h parsed => drops ((fair h).trans (by rw [parsed]))
    · exact fun h parsed => drops ((fair h).trans (by rw [parsed]))
    · intro n h parsed accepts en heeded
      obtain ⟨paused, link, counts, mem⟩ := pauseFrame_leaves s p n en heeded
      exact ⟨_, next_of_clocked on ((fair h).trans (by rw [parsed]; exact if_pos accepts)), paused, link, counts, mem⟩
    · exact fun f h parsed other => drops ((fair h).trans (by rw [parsed]; exact if_neg (Bool.eq_false_iff.mp other)))
    · intro f h parsed accepts cls fwd _ _ _ en fits room place answers
      have goes : s.frameReceive p b fcsOk codeErr phase bitIdx = s.hostForward p b (s.rxMeta p 0 phase bitIdx) :=
        (fair h).trans (by rw [parsed]; exact (if_pos accepts).trans (rxDeliver_host phase bitIdx cls))
      exact ⟨_, next_of_clocked on goes, hostForward_lands s p b _ fwd en fits room (rxMeta_length s p 0 phase bitIdx) place answers⟩
  · intro on held hs hq old
    exact ⟨_, next_of_clocked on (prpExpire_leaves s j held hs hq old), by simp, rfl, rfl⟩
  · rintro (gated | empty)
    · exact next_of_gated gated
    · exact next_of_idle (prpExpire_stays s j _ _ empty)
  · intro on works en due
    obtain ⟨u, sends, regs, link⟩ := prpSup_sends s j works en due
    obtain ⟨even, odd⟩ := supWaits_lport u j (s.supFrame j, (s.link (attOf (evenPort j))).rctSeq)
    exact ⟨_, next_of_clocked on sends, even, odd, regs, link⟩
  · rintro (gated | h)
    · exact next_of_gated gated
    · exact next_of_idle (prpSup_stays s j h)

end Sys2Proof.Machine
